-- ==== Sys2Proof/Syntax.lean ====
section
/-!
DEFINITION. Sys2Proof/Syntax.lean: the commands of the TC820. One constructor of `Instr` for every row of the command
table, with the operands that the row's rules leave to the sender or to the surroundings: the access path, the written
word, the partition, tile, slot or port concerned, and what the outside world presents at that moment.
-/
namespace Sys2Proof

/-- The access paths into the register space (R34, R650): each has its own latch. -/
inductive Path where
  | pf
  | vf (n : Nat)
  | mb
  | usb
  | spi
  | jtag
  deriving DecidableEq, Repr

/-- The sources of ledger orders, in the order of the path codes of R613. -/
inductive OSrc where
  | pf | mb | usb | spi | jtag | timetable | chuck | thermal | watchdog | wake
  deriving DecidableEq, Repr

/-- One ledger order: its source, KIND, UNIT and ARG (R590). -/
structure Order where
  src : OSrc
  kind : Nat
  unit : Nat
  arg : Nat
  deriving DecidableEq, Repr

/-- What wakes the device from REST (R557), with the codes of PCK_STATUS.WAKESRC. -/
inductive WakeSrc where
  | mb | spi | envelope | timer
  deriving DecidableEq, Repr

/-- The three triggers of a host reset (R377). -/
inductive HostResetKind where
  | perst | hot | linkDown
  deriving DecidableEq, Repr

/-- What the error-correcting code of a line reports when the line is read (R201, R221): `shared` where an error of a Store line is
corrected in the cycle in which another source reads that line, which counts it (R236). -/
inductive EccErr where
  | none | corrected | shared | uncorrectable
  deriving DecidableEq, Repr

/-- What the codes of memory report for the lines or words that a command reads without naming them, by address. -/
abbrev Codes := List (Nat × EccErr)

/-- What the codes report at one of a range of addresses; the first entry for it counts. -/
def Codes.find (c : Codes) (lo n : Nat) : EccErr :=
  match List.find? (fun x => decide (lo ≤ x.1) && decide (x.1 < lo + n)) c with
  | some x => x.2
  | none => .none

/-- The slot of a bundle in which a tile instruction stands, and what the codes report for the words that its bundle reads, by tile
address: its fetch, a recipe, a descriptor, the elements of a load (R201). -/
structure BundleSlot where
  slot : Nat
  codes : Codes := []
  deriving DecidableEq, Repr

/-- A device-side event that reads the Store or far memory: the number of the entry or the slot that it is about, and what the codes
report for the lines that it reads, by device address (R221, R272). -/
structure Reading where
  at_ : Nat
  codes : Codes := []
  deriving DecidableEq, Repr

/-- An EMIT entry: whether it is one of the retiring plane, and what the codes report for the payload lines that it reads. -/
structure EmitHow where
  old : Bool
  codes : Codes := []
  deriving DecidableEq, Repr

/-- What the code of one line of a read reports: the line's number, from the first that the read touches. -/
structure LineErr where
  err : EccErr := .none
  line : Nat := 0
  deriving DecidableEq, Repr

/-- What a transfer meets on its way beside errors in what it reads: whether link ECC of far memory corrected an error, and for other
transfers, named by the tile that issued each, the NOCCLK cycles in which a line of both reached the destination (R227, R289). -/
structure XferWay where
  link : Bool := false
  meets : List (Nat × Nat) := []
  deriving DecidableEq, Repr

/-- How a write reaches a register: the whole word, less than a word (R9), or in a poisoned request of the host (R357). -/
inductive WriteForm where
  | word | narrow | poisoned
  deriving DecidableEq, Repr

/-- Which bytes a read addresses: the whole word, or `n` bytes from its offset (R10). -/
inductive ReadForm where
  | word
  | narrow (n : Nat)
  deriving DecidableEq, Repr

/-- The bytes of the register space that a read addresses. -/
structure ReadAt where
  off : Nat
  form : ReadForm := .word
  deriving DecidableEq, Repr

/-- One read of a register: its path, the bytes it addresses, and whether the reply has been acknowledged (R357, R493, R535). -/
structure Reader where
  path : Path
  loc : ReadAt
  acked : Bool := true
  deriving DecidableEq, Repr

/-- How a read ends, and the reads of other paths in the same PERCLK cycle (R653, R654). -/
structure ReadHow where
  acked : Bool := true
  beside : List Reader := []
  deriving DecidableEq, Repr

/-- What falls into the PERCLK cycle of a register write: the reads of other paths, which see the register as it stands before
every write (R653), the writes of other paths, the W1C bits that hardware events have set in that cycle (R12), and the orders of
other sources (R594). -/
structure SameCycle where
  reads : List Reader := []
  writes : List (Path × Nat × Word) := []
  events : Word := 0
  orders : List Order := []
  deriving DecidableEq, Repr

/-- A register write as it arrives: its form, and what falls into its cycle. -/
structure WriteHow where
  form : WriteForm := .word
  beside : SameCycle := {}
  deriving DecidableEq, Repr

/-- The endpoints of the launch distribution (R56). -/
inductive Endpoint where
  | bench (n : Nat)
  | store
  | walker (n : Nat)
  | port (n : Nat)
  | array
  | host
  | ledger
  | ppsOut
  deriving DecidableEq, Repr

/-- One trim result of a calibration (R423). -/
structure Trim where
  out : Bool
  index : Nat
  ofs : Nat
  gtrim : Nat
  inRange : Bool
  deriving DecidableEq, Repr

/-- What a completion time-out ends (R378). -/
inductive CplReq where
  | ingest (q : Nat)
  | payload (q : Nat)
  | transfer (t : Nat)
  | image
  deriving DecidableEq, Repr

/-- What a serial audio port sees of one frame: the BCLK periods since the frame start before, the W bits of each DIN slot,
the chatter seen in guard windows (slot, and whether after it) (R466), and in self-framed mode the bit positions, modulo F,
at which the sync word matched (R470). -/
structure FrameIn where
  bclks : Nat
  data : List Nat
  chatter : List (Nat × Bool)
  matches_ : List Nat
  deriving DecidableEq, Repr

/-- What the converter of an input path delivers at one sampling instant: the 24-bit result, and with FOLLOW and ADAPT
whether the array drops (1) or repeats (2) a sample (R411). -/
structure SampleIn where
  value : Nat
  slip : Nat
  deriving DecidableEq, Repr

/-- The clock of the fabric on which an edge comes: FABCLK, a net that serves as a clock, the product-term clock of a
macrocell; or none, where only the levels at the pins have changed. -/
inductive FabClk where
  | fabclk
  | net (n : Nat)
  | term (m : Nat)
  | pins
  deriving DecidableEq, Repr

/-- One edge in the fabric: its clock and direction, the levels at FIO0 to FIO47, and whether what it captures changes near
it, or another clock reaches the same memory bits near it (R437, R443). -/
structure FabEdge where
  clk : FabClk
  rising : Bool
  pins : Nat
  near : Bool
  deriving DecidableEq, Repr

/-- One Selol transaction (R489, R490): bit 7 of CMD, the bytes written after CMD as far as they came (with COUNT first in the
block shapes), the check byte that a write brought, whether a read was read to its end (R493), and the orders that reach the ledger
in the cycle in which a register write takes effect (R492, R594). -/
structure MbXfer where
  p : Bool
  data : List Byte
  pec : Option Byte
  full : Bool
  rivals : List Order := []
  deriving DecidableEq, Repr

/-- How a controller-mode transaction ends: a RESULT code of MB_MST_STATUS and the data received (R510). -/
structure MstOutcome where
  result : Nat
  data : Nat
  deriving DecidableEq, Repr

/-- What the boot flash answers to the reads of R521: its JEDEC ID; whether it has an SFDP signature, and from its tables the
density in bytes, 1-4-4 and 1-1-4 reads, whether it takes 4-byte addresses, and whether its quad-enable bit is set or can be
set by a volatile write (R522). -/
structure FlashIn where
  id : List Byte
  sfdp : Bool
  density : Nat
  quad144 : Bool
  quad114 : Bool
  addr4 : Bool
  quadOn : Bool
  deriving DecidableEq, Repr

/-- The setup packet of one USB 2.0 chapter 9 request. -/
structure UsbStd where
  bmRequestType : Nat
  bRequest : Nat
  wValue : Nat
  wIndex : Nat
  wLength : Nat
  deriving DecidableEq, Repr

/-- The commands: one constructor per row of the command table. -/
inductive Instr where
  /-- A TBPPS edge is stamped and judged against the grid; an accepted edge in PPS mode runs the discipline loop (R45). -/
  | tbppsEdge (rising : Bool)
  /-- Writing TB_SET_CTL.ARM arms a count setting for the next PPS edge (R49). -/
  | setArm (p : Path) (v : Word)
  /-- Writing TB_SET_CTL.CANCEL clears ARMED without setting DONE or REFUSED (R51). -/
  | setCancel (p : Path) (v : Word)
  /-- Writing TB_SLEW.REMAIN replaces any remaining phase correction and starts a frequency slew (R44). -/
  | slewRequest (p : Path) (v : Word)
  /-- A write of TB_DISC_CTL.MODE takes effect on the next tick; entering PPS mode clears acc (R66). -/
  | modeChange (p : Path) (v : Word)
  /-- While LOCKED, the device measures TB_REST_RATIO against RESTCLK once per second (R54). -/
  | restRatioMeasure (ratio : Word)
  /-- A partition's turn-boundary strobe restarts its timetable at entry 0 and applies turn-level switches (R55). -/
  | turnBoundary (part : Nat)
  /-- Every 65,536 ticks each endpoint compares its copy of the count with the broadcast count (R58). -/
  | launchCopyCheck (wrong : List Endpoint)
  /-- A read of the low word of a latched pair latches the high word for that access path (R34). -/
  | lowWordLatch (p : Path) (loc : ReadAt)
  /-- A WAKE entry brings each addressed bench from COAST or DWELL toward SPIN (R79). -/
  | wake (part : Nat) (entry : Nat) (old : Bool)
  /-- A waking bench reaches SPIN after the wake latency and starts any launch that waited for it (R79). -/
  | benchSpinReached (bench : Nat)
  /-- A bench completes its 250-tick entry into DWELL (R551). -/
  | dwellEntryDone (bench : Nat)
  /-- A GATHER entry builds a group's batch for this turn from the due chunks of the matching phase, in slot order (R75). -/
  | gather (part : Nat) (entry : Nat)
  /-- A LAUNCH entry starts program REF on the tiles of its benches for one stage and slice of the group's batch (R113). -/
  | launch (part : Nat) (entry : Nat) (old : Bool)
  /-- A WALK entry sends the partition's walkers through the lists of a due turn's members to pin and stage pages (R251). -/
  | walk (part : Nat) (entry : Reading)
  /-- At the close tick the device examines expected partial records, marks absent ones ABSENT and sets PARTIAL (R266). -/
  | merge (part : Nat) (entry : Nat) (old : Bool)
  /-- An EMIT entry for unit 43 writes each completed result's payload and entry to its host result ring, then signals MSI-X (R368). -/
  | emitHost (part : Nat) (entry : Nat) (how : EmitHow)
  /-- An EMIT for unit 112 places each result in the play queue of its output path (R415). -/
  | emitArray (part : Nat) (entry : Nat) (how : EmitHow)
  /-- An EMIT for an audio port places each result in the play queue of its DOUT slot (R476). -/
  | emitPort (part : Nat) (entry : Nat) (how : EmitHow)
  /-- An ALIGN descriptor frames each named unframed input path from the first sample at or after its tick (R408). -/
  | arrayAlign (part : Nat) (entry : Nat) (old : Bool)
  /-- A PLAY descriptor starts the result with SEQ NEXT on each named output path, or plays a zero span (R416). -/
  | arrayPlay (part : Nat) (entry : Nat) (old : Bool)
  /-- An ALIGN descriptor frames each named unframed input entry of a port from the next frame start (R474). -/
  | portAlign (part : Nat) (entry : Nat) (old : Bool)
  /-- A PLAY descriptor starts the next queued result on each named output slot of a port (R477). -/
  | portPlay (part : Nat) (entry : Nat) (old : Bool)
  /-- A chunk not taken by stage 0 by its last-launch tick is declared MISSED on the next tick (R93). -/
  | launchMissed (slot : Nat)
  /-- A program still running at the deadline plus OVR ends with FAIL_OVERRUN and its tiles are reloaded (R95). -/
  | overrun (slot : Nat)
  /-- The host interface serves a queue pair's new ingest entry and starts its payload fetch (R363). -/
  | ingestEntryFetch (q : Nat) (words : List Byte)
  /-- The last payload byte lands in the ingest buffer, so the host chunk is stamped and assigned its due turn and deadline (R365). -/
  | hostChunkStamp (q : Nat) (payload : List Byte) (ok : Bool)
  /-- The array link files a chunk's last sample and stamps the chunk with arrival tick and header fields (R409). -/
  | arrayChunkStamp (path : Nat)
  /-- An audio port files a chunk's last sample and stamps the chunk (R475). -/
  | portChunkStamp (port : Nat) (slot : Nat)
  /-- No operation (R117). -/
  | tNop (t : Nat) (k : BundleSlot)
  /-- Ends the program after waiting for issued matrix and transfer work; raises NO_DONE if a chunk lacks CDONE (R115). -/
  | tEnd (t : Nat) (k : BundleSlot)
  /-- Writes the selected TSQ_MODE fields, with a two-bundle shadow (R123). -/
  | tMset (t : Nat) (k : BundleSlot)
  /-- Waits until the store buffer is empty and every issued operation has ended (R137). -/
  | tFence (t : Nat) (k : BundleSlot)
  /-- Loads the local TB_NOW into a scalar (R117). -/
  | tTick (t : Nat) (k : BundleSlot)
  /-- Selects chunk k of the slice; raises CHK_RANGE if k is S1 or more (R114). -/
  | tChk (t : Nat) (k : BundleSlot)
  /-- Loads a 64-bit word of the selected chunk's header into a scalar (R114). -/
  | tHdr (t : Nat) (k : BundleSlot)
  /-- Marks the selected chunk's current stage complete on this tile; the last tile's CDONE completes the stage or chunk (R114). -/
  | tCdone (t : Nat) (k : BundleSlot)
  /-- Breakpoint instruction that halts the tile with cause BREAK (R117). -/
  | tBrk (t : Nat) (k : BundleSlot)
  /-- Conditional or unconditional branch by offset, with one delay slot (R118). -/
  | tBranch (t : Nat) (k : BundleSlot)
  /-- Branches and writes the return PC to S31 (R117). -/
  | tCall (t : Nat) (k : BundleSlot)
  /-- Branches to S31[12:0] (R117). -/
  | tRet (t : Nat) (k : BundleSlot)
  /-- Takes the next hardware loop level with an immediate, scalar or strip count (R119). -/
  | tLoop (t : Nat) (k : BundleSlot)
  /-- Writes the active vector length, capped at 256 (R117). -/
  | tSetvl (t : Nat) (k : BundleSlot)
  /-- Scalar add (R117). -/
  | tAdd (t : Nat) (k : BundleSlot)
  /-- Scalar subtract (R117). -/
  | tSub (t : Nat) (k : BundleSlot)
  /-- Scalar multiply (R117). -/
  | tMul (t : Nat) (k : BundleSlot)
  /-- Scalar bitwise AND (R117). -/
  | tAnd (t : Nat) (k : BundleSlot)
  /-- Scalar bitwise OR (R117). -/
  | tOr (t : Nat) (k : BundleSlot)
  /-- Scalar bitwise XOR (R117). -/
  | tXor (t : Nat) (k : BundleSlot)
  /-- Scalar shift left (R117). -/
  | tShl (t : Nat) (k : BundleSlot)
  /-- Scalar logical shift right (R117). -/
  | tShr (t : Nat) (k : BundleSlot)
  /-- Scalar arithmetic shift right (R117). -/
  | tSar (t : Nat) (k : BundleSlot)
  /-- Scalar signed minimum (R117). -/
  | tMin (t : Nat) (k : BundleSlot)
  /-- Scalar signed maximum (R117). -/
  | tMax (t : Nat) (k : BundleSlot)
  /-- Scalar unsigned minimum (R117). -/
  | tMinu (t : Nat) (k : BundleSlot)
  /-- Scalar unsigned maximum (R117). -/
  | tMaxu (t : Nat) (k : BundleSlot)
  /-- Scalar signed set-less-than (R117). -/
  | tSlt (t : Nat) (k : BundleSlot)
  /-- Scalar unsigned set-less-than (R117). -/
  | tSltu (t : Nat) (k : BundleSlot)
  /-- Writes IMM32 to the upper half of a scalar (R117). -/
  | tMovhi (t : Nat) (k : BundleSlot)
  /-- Scalar 32-bit load, forwarded from or ordered against the store buffer (R136). -/
  | tLd32 (t : Nat) (k : BundleSlot) (e : EccErr)
  /-- Scalar 64-bit load (R136). -/
  | tLd64 (t : Nat) (k : BundleSlot) (e : EccErr)
  /-- Scalar 32-bit store into the store buffer (R135). -/
  | tSt32 (t : Nat) (k : BundleSlot) (e : EccErr)
  /-- Scalar 64-bit store into the store buffer (R135). -/
  | tSt64 (t : Nat) (k : BundleSlot) (e : EccErr)
  /-- Vector FP32 add (R129). -/
  | tFadd (t : Nat) (k : BundleSlot)
  /-- Vector FP32 subtract (R129). -/
  | tFsub (t : Nat) (k : BundleSlot)
  /-- Vector FP32 multiply (R129). -/
  | tFmul (t : Nat) (k : BundleSlot)
  /-- Vector fused multiply-add, rounded once (R129). -/
  | tFma (t : Nat) (k : BundleSlot)
  /-- Vector fused multiply-subtract (R129). -/
  | tFms (t : Nat) (k : BundleSlot)
  /-- Vector FP maximum, ignoring a NaN operand (R129). -/
  | tFmax (t : Nat) (k : BundleSlot)
  /-- Vector FP minimum, ignoring a NaN operand (R129). -/
  | tFmin (t : Nat) (k : BundleSlot)
  /-- Vector FP absolute value (R129). -/
  | tFabs (t : Nat) (k : BundleSlot)
  /-- Vector FP negate (R129). -/
  | tFneg (t : Nat) (k : BundleSlot)
  /-- Vector reciprocal within 1 ulp (R129). -/
  | tFrcp (t : Nat) (k : BundleSlot)
  /-- Vector reciprocal square root within 1 ulp (R129). -/
  | tFrsq (t : Nat) (k : BundleSlot)
  /-- Vector base-2 exponential within 2 ulp (R129). -/
  | tFexp2 (t : Nat) (k : BundleSlot)
  /-- Vector base-2 logarithm within 2 ulp (R129). -/
  | tFlog2 (t : Nat) (k : BundleSlot)
  /-- Vector hyperbolic tangent within 2 ulp (R129). -/
  | tFtanh (t : Nat) (k : BundleSlot)
  /-- Vector select A where C is non-zero, else B (R117). -/
  | tFsel (t : Nat) (k : BundleSlot)
  /-- Vector move (R117). -/
  | tFmov (t : Nat) (k : BundleSlot)
  /-- Vector INT32 add (R117). -/
  | tIadd (t : Nat) (k : BundleSlot)
  /-- Vector INT32 subtract (R117). -/
  | tIsub (t : Nat) (k : BundleSlot)
  /-- Vector INT32 multiply (R117). -/
  | tImul (t : Nat) (k : BundleSlot)
  /-- Vector INT32 AND (R117). -/
  | tIand (t : Nat) (k : BundleSlot)
  /-- Vector INT32 OR (R117). -/
  | tIor (t : Nat) (k : BundleSlot)
  /-- Vector INT32 XOR (R117). -/
  | tIxor (t : Nat) (k : BundleSlot)
  /-- Vector INT32 shift left (R117). -/
  | tIshl (t : Nat) (k : BundleSlot)
  /-- Vector INT32 logical shift right (R117). -/
  | tIshr (t : Nat) (k : BundleSlot)
  /-- Vector INT32 arithmetic shift right (R117). -/
  | tIsar (t : Nat) (k : BundleSlot)
  /-- Vector INT32 maximum (R117). -/
  | tImax (t : Nat) (k : BundleSlot)
  /-- Vector INT32 minimum (R117). -/
  | tImin (t : Nat) (k : BundleSlot)
  /-- Writes each element's index (R117). -/
  | tViota (t : Nat) (k : BundleSlot)
  /-- Vector contiguous load of taking elements (R130). -/
  | tVld (t : Nat) (k : BundleSlot) (e : EccErr)
  /-- Vector contiguous store into the store buffer (R135). -/
  | tVst (t : Nat) (k : BundleSlot) (e : EccErr)
  /-- Vector strided load (R136). -/
  | tVlds (t : Nat) (k : BundleSlot) (e : EccErr)
  /-- Vector strided store after the buffer drains (R135). -/
  | tVsts (t : Nat) (k : BundleSlot) (e : EccErr)
  /-- Vector indexed load after the buffer drains (R136). -/
  | tVldx (t : Nat) (k : BundleSlot) (e : EccErr)
  /-- Vector indexed store after the buffer drains (R135). -/
  | tVstx (t : Nat) (k : BundleSlot) (e : EccErr)
  /-- Vector FP less-than compare into a mask (R130). -/
  | tFclt (t : Nat) (k : BundleSlot)
  /-- Vector FP less-or-equal compare into a mask (R130). -/
  | tFcle (t : Nat) (k : BundleSlot)
  /-- Vector FP equal compare into a mask (R130). -/
  | tFceq (t : Nat) (k : BundleSlot)
  /-- Vector FP unordered compare into a mask (R130). -/
  | tFcun (t : Nat) (k : BundleSlot)
  /-- Vector INT32 less-than compare into a mask (R130). -/
  | tIclt (t : Nat) (k : BundleSlot)
  /-- Vector INT32 equal compare into a mask (R130). -/
  | tIceq (t : Nat) (k : BundleSlot)
  /-- Mask AND (R117). -/
  | tMand (t : Nat) (k : BundleSlot)
  /-- Mask OR (R117). -/
  | tMor (t : Nat) (k : BundleSlot)
  /-- Mask XOR (R117). -/
  | tMxor (t : Nat) (k : BundleSlot)
  /-- Mask NOT (R117). -/
  | tMnot (t : Nat) (k : BundleSlot)
  /-- FP sum reduction in the fixed lane order (R131). -/
  | tFsum (t : Nat) (k : BundleSlot)
  /-- Copies a matrix descriptor and queues the operation, waiting if four are unfinished (R152). -/
  | tMissue (t : Nat) (k : BundleSlot)
  /-- Waits until at most N matrix operations remain unfinished (R153). -/
  | tMwait (t : Nat) (k : BundleSlot)
  /-- Issues a transfer from a remote address to tile memory (R217). -/
  | tXget (t : Nat) (k : BundleSlot)
  /-- Issues a transfer from tile memory to a remote address (R217). -/
  | tXput (t : Nat) (k : BundleSlot)
  /-- Waits until at most N transfers remain unfinished (R217). -/
  | tXwait (t : Nat) (k : BundleSlot)
  /-- The oldest store-buffer entry drains to tile memory, freeing room and releasing waiting accesses (R135). -/
  | storeBufferDrain (t : Nat)
  /-- A tile reload completes and any launch that waited for it starts (R128). -/
  | tileReloadDone (t : Nat)
  /-- Writing TSQ_DBG_CTL.HALT stops the tile at a restart point (R141). -/
  | tileHalt (p : Path) (t : Nat)
  /-- Writing STEP executes one bundle, with a branch's delay slot (R141). -/
  | tileStep (p : Path) (t : Nat)
  /-- Writing RESUME restarts a halted tile; after an exception halt it runs detached (R142). -/
  | tileResume (p : Path) (t : Nat)
  /-- A TSQ_DDATA write sets the selected register of a halted tile (R142). -/
  | debugDataWrite (p : Path) (t : Nat) (hi : Bool) (v : Word)
  /-- A queued matrix operation starts and its descriptor is checked (R159). -/
  | mtxOpStart (t : Nat)
  /-- A matrix operation reaches a new column block and, if sparse, reads and checks its metadata (R189). -/
  | mtxColumnBlock (t : Nat) (e : EccErr) (addr : Nat)
  /-- A matrix operation writes its last output and ends (R171). -/
  | mtxOpComplete (t : Nat)
  /-- A queued transfer starts and is checked for descriptor, range and carve-out (R219). -/
  | xferStart (t : Nat)
  /-- A transfer moves its last line and ends (R218). -/
  | xferComplete (t : Nat) (err : EccErr) (line : Nat) (way : XferWay) (data : List Byte)
  /-- The scrubber reads a Store line on its schedule and writes back a corrected line (R223). -/
  | scrubLine (err : EccErr)
  /-- A host or peer read through BAR2 is allowed or denied by range class (R210). -/
  | bar2Read (fn : Nat) (off : Nat) (len : Nat) (err : LineErr)
  /-- A host or peer posted write through BAR2 lands or is dropped by range class (R210). -/
  | bar2Write (peer : Bool) (off : Nat) (bytes : List Byte) (poisoned : Bool)
  /-- A write to a register field that has no row of its own sets, clears or is dropped under its access code (R7). -/
  | registerWrite (p : Path) (off : Nat) (v : Word) (how : WriteHow)
  /-- Writing FAR_TRAIN_CTL.START begins LPDDR5X training, or is refused (R229). -/
  | farTrainStart (p : Path) (v : Word)
  /-- Far-memory training ends with DONE or FAIL (R228). -/
  | farTrainComplete (step : Nat) (failch : Nat)
  /-- Every 4 ms the controller reads MR4 and sets the refresh rate (R231). -/
  | farMr4Poll (mr4 : Nat) (mult : Nat) (hot : Bool) (tooHot : Bool)
  /-- Refresh falls due and is postponed out of serving windows, or proceeds (R232). -/
  | farRefreshDue (canPostpone : Bool)
  /-- A serving partition's window opens and waiting far accesses proceed (R295). -/
  | farWindowOpen (part : Nat) (index : Reading)
  /-- A gathered chunk reaches its preparation point: bind, reset, check, limit, poison and tail preparation (R255). -/
  | chunkPrepare (slot : Reading)
  /-- The device builds a chunk's work list, sets QLEN, splits and EMPTY bits, and sets READY (R259). -/
  | workListBuild (slot : Reading)
  /-- A stage record is released and its pins removed; pages at zero REF and PIN are freed (R254). -/
  | recordRelease (slot : Nat)
  /-- Host ALLOC operation allocates the lowest free page of a pool (R268). -/
  | kvAlloc (p : Path)
  /-- Host RETAIN adds one to a page's REF (R268). -/
  | kvRetain (p : Path)
  /-- Host RELEASE subtracts one from REF and frees at zero (R268). -/
  | kvRelease (p : Path)
  /-- Host FORK copies a list's entries and LEN to an empty list and raises each page's REF (R268). -/
  | kvFork (p : Path)
  /-- Host RESET empties a list and applies its template (R268). -/
  | kvReset (p : Path)
  /-- The Chuck starts boot at power-on, cold reset or REST exit and tries sources in strap order (R313). -/
  | chuckBoot (flash : FlashIn)
  /-- The Chuck reads a 4 KiB flash block and verifies it with a check read (R524). -/
  | qspiBlockRead (flash : FlashIn) (data : List Byte) (check : List Byte)
  /-- The last image byte arrives; the signature and semantic checks decide acceptance, then the image is applied (R317). -/
  | imageComplete (data : List Byte)
  /-- IMG_CTL LOAD with KIND FULL starts a whole-device load from a host window (R325). -/
  | imgLoadFull (p : Path) (v : Word)
  /-- IMG_CTL LOAD with KIND STAGE loads a PLANE image as a partition's staged plane (R325). -/
  | imgLoadStage (p : Path) (v : Word)
  /-- IMG_CTL LOAD with KIND ACTIVE loads a PLANE image as a disabled partition's active plane (R325). -/
  | imgLoadActive (p : Path) (v : Word)
  /-- Writing IMG_CTL.ABORT rejects the load in progress with ABORTED (R346). -/
  | loadAbort (p : Path) (v : Word)
  /-- A SEC_RB_COMMIT write starts fusing the rollback counter up to VALUE, or is refused (R321). -/
  | rbCommit (p : Path) (v : Word)
  /-- SEC_PROG_CTL.BURN programs the selected fuse word (R323). -/
  | fuseBurn (p : Path) (v : Word) (readback : Bool)
  /-- A regrip order is accepted or refused and sets the boundary for the named partitions (R329). -/
  | orderRegrip (src : OSrc) (arg : Nat) (rivals : List Order)
  /-- At boundary B the staged plane becomes active, slots are kept or parted, and the old plane retires (R331). -/
  | regripSwap (part : Nat)
  /-- Retirement ends, with no retiring chunk left or at the one-turn limit, and freed resources are released (R337). -/
  | retireEnd (part : Nat)
  /-- A joining bench finishes its zero-fill and load and takes its idle state (R338). -/
  | joinLoadDone (bench : Nat)
  /-- PERST_N, hot reset or link-down resets the host interface and loses class H fields and staged planes (R377). -/
  | hostReset (kind : HostResetKind)
  /-- The PCI Express link finishes training and comes up (R377). -/
  | hostLinkUp (rate : Nat) (width : Nat) (flit : Bool)
  /-- A function-level reset of a VF clears its pairs, vectors and latch and discards unstamped entries (R375). -/
  | vfFlr (vf : Nat)
  /-- A function-level reset completes within 10 ms (R375). -/
  | flrDone (fn : Nat)
  /-- Setting VF Enable is accepted or refused according to the MSI-X vector budget (R371). -/
  | vfEnable (numVfs : Nat)
  /-- A function moves between D0 and D3hot (R353). -/
  | dStateChange (fn : Nat) (d3 : Bool)
  /-- Writing QP_CTL.EN = 1 enables a queue pair and zeroes its indices, or sets ERR on overlap (R360). -/
  | qpEnable (p : Path) (q : Nat) (v : Word)
  /-- Writing EN = 0 disables a pair and discards entries whose payload is in flight (R380). -/
  | qpDisable (p : Path) (q : Nat) (v : Word)
  /-- A write of IN_TAIL announces new ingest entries (R361). -/
  | inTailDoorbell (fn : Nat) (q : Nat) (v : Word)
  /-- A write of RES_HEAD reports the next result entry host software will read (R361). -/
  | resHeadDoorbell (fn : Nat) (q : Nat) (v : Word)
  /-- A read completion has not arrived within the completion timeout and the request ends (R378). -/
  | cplTimeout (req : CplReq)
  /-- A write of ARR_CLK_CTL changes array clocking and unframes every path (R411). -/
  | arrClkCtlWrite (p : Path) (v : Word)
  /-- Enabling an input path leaves it unframed until an ALIGN (R408). -/
  | arrPathEnable (p : Path) (i : Nat) (v : Word)
  /-- A write to an input path's GAIN is held for the next sample boundary or zero crossing (R403). -/
  | gainWrite (p : Path) (i : Nat) (v : Word)
  /-- A held gain change is applied at a sample boundary after a zero crossing or 512 samples (R403). -/
  | gainApply (i : Nat)
  /-- Writing ARR_CAL_CTL.RUN calibrates the chosen paths, or is refused with ERR (R423). -/
  | arrCalRun (p : Path) (v : Word)
  /-- A calibration run ends and trims are written (R423). -/
  | arrCalDone (trims : List Trim)
  /-- A comparator output edge of the selected polarity is stamped and counted (R419). -/
  | cmpEdge (j : Nat) (rising : Bool)
  /-- An envelope level stays above threshold for HOLD_MS and ABOVE sets (R420). -/
  | envAbove (m : Nat)
  /-- The envelope level falls below threshold and ABOVE clears (R420). -/
  | envBelow (m : Nat)
  /-- Setting or clearing ARR_FAB_CTL.HOLD stops or restarts clock delivery to fabric registers (R445). -/
  | fabHold (p : Path) (v : Word)
  /-- Writing RESET clears every user register, latch and pipeline register of the fabric (R445). -/
  | fabReset (p : Path) (v : Word)
  /-- Writing RELEASE releases all 48 FIO cells on the next FABCLK edge (R450). -/
  | fabRelease (p : Path) (v : Word)
  /-- A read of ARR_FAB_MDATA_LO while HELD fetches a memory word and latches its high bits (R446). -/
  | fabMdataRead (p : Path)
  /-- A write of ARR_FAB_MDATA_HI while HELD writes the whole memory word (R446). -/
  | fabMdataWrite (p : Path) (v : Word)
  /-- A port frame starts and is stamped; its slot samples are delivered and its guards and sync are checked (R460). -/
  | portFrame (port : Nat) (f : FrameIn)
  /-- No frame start for 2F BCLK periods unframes the port (R469). -/
  | fsyncLost (port : Nat)
  /-- No BCLK edge for 2,500 ticks unframes the port (R469). -/
  | bclkLost (port : Nat)
  /-- Selol block read returning vendor, device and stepping identifiers (R497). -/
  | getId (x : MbXfer)
  /-- Selol read word returning the status word (R498). -/
  | getStatus (x : MbXfer)
  /-- Selol block read returning the last write command's outcome (R501). -/
  | lastResult (x : MbXfer)
  /-- Selol send byte that clears the sticky status bits (R498). -/
  | clearFlags (x : MbXfer)
  /-- Selol FILTER write sets MB_FILT from the next start (R503). -/
  | filterWrite (x : MbXfer)
  /-- Selol FILTER read returns the filter length (R497). -/
  | filterRead (x : MbXfer)
  /-- Selol TIMEOUT write sets MB_TIMEOUT if within 5–35 ms (R496). -/
  | timeoutWrite (x : MbXfer)
  /-- Selol TIMEOUT read returns the timeout (R497). -/
  | timeoutRead (x : MbXfer)
  /-- Selol block process call reading one BAR0 register (R499). -/
  | regRead (x : MbXfer)
  /-- Selol block process call reading up to seven consecutive registers (R499). -/
  | regReadN (x : MbXfer)
  /-- Selol block write of one BAR0 register, taking effect at the final acknowledge (R499). -/
  | regWrite (x : MbXfer)
  /-- Selol REGRIP write word submits a regrip order (R500). -/
  | selolRegrip (x : MbXfer) (rivals : List Order)
  /-- Selol block process call returning a unit's ledger state and epoch (R497). -/
  | getUnit (x : MbXfer)
  /-- Selol block read returning the record at the management-bus read position (R502). -/
  | catchRead (x : MbXfer)
  /-- Selol send byte that moves the management-bus read position past one record (R502). -/
  | catchNext (x : MbXfer)
  /-- Selol read word returning the unread record count (R497). -/
  | catchInfo (x : MbXfer)
  /-- Selol read word returning the hottest on-die temperature (R497). -/
  | getTemp (x : MbXfer)
  /-- MB_MST_CTL.START runs a single controller-mode transaction, or rejects it as BAD_CFG or SELF (R506). -/
  | mstStart (p : Path) (v : Word)
  /-- At each PERIOD_MS the poll table entries run in order (R506). -/
  | pollPeriod (res : List MstOutcome)
  /-- A controller-mode transaction ends with its RESULT (R510). -/
  | mstComplete (o : MstOutcome)
  /-- QSPI_CMD with GO issues a flash command through the engine, or is refused (R525). -/
  | qspiCmd (p : Path) (v : Word)
  /-- A flash command completes and BUSY clears (R525). -/
  | qspiCmdDone (ok : Bool) (data : List Byte)
  /-- SPI frame returning the status byte and clearing sticky bits (R528). -/
  | readStatus (cut : Bool)
  /-- SPI READ frame returning COUNT words from ADDR (R527). -/
  | spiRead (addr : Nat) (count : Nat) (sent : Nat) (late : List Nat) (cut : Bool)
  /-- SPI WRITE frame writing COUNT words, each taking effect at its 32nd bit (R529). -/
  | spiWrite (addr : Nat) (count : Nat) (words : List Word) (cut : Bool)
  /-- SPI frame delivering image words to the Chuck (R531). -/
  | imgStream (words : List Word) (cut : Bool)
  /-- SPIT_IMG_CTL OPEN opens a run-time image load on the SPI target (R531). -/
  | spitImgOpen (p : Path) (v : Word)
  /-- USB vendor request reading register words (R534). -/
  | usbRegRead (addr : Nat) (len : Nat) (acked : Bool)
  /-- USB vendor request writing register words at data-stage completion (R535). -/
  | usbRegWrite (addr : Nat) (bytes : List Byte)
  /-- USB vendor request opening an image load on EP1 (R537). -/
  | imgStart (kind : Nat) (part : Nat) (len : Nat)
  /-- A USB 2.0 chapter 9 standard request is answered, or an unsupported request is STALLed (R534). -/
  | usbStandardRequest (r : UsbStd)
  /-- A USB bus reset or VBUS loss returns the port to the Default state (R536). -/
  | usbReset (vbusLost : Bool) (hs : Bool)
  /-- An EP1 bulk OUT packet delivers image bytes to an open load (R537). -/
  | usbEp1Packet (bytes : List Byte)
  /-- JTAG SAMPLE/PRELOAD instruction selecting the boundary register (R539). -/
  | samplePreload (pins : Nat) (preload : Nat)
  /-- At Update-DR of DBG_ADDR, a read sets up a 32-bit BAR0 access (R542). -/
  | dbgAddr (addr : Nat) (rw : Bool)
  /-- At Update-DR of DBG_DATA, a write access to BAR0 is performed (R542). -/
  | dbgData (v : Word)
  /-- Power-on reset is released: straps are sampled, enables raised and TB_NOW zeroed (R570). -/
  | powerOnResetRelease (straps : Nat) (xtal : Bool)
  /-- A sensor reaches 125 °C: chunks end, rails are dropped and the device holds in cold reset (R568). -/
  | thermTrip (temp : Nat) (sensor : Nat)
  /-- The hottest sensor exceeds TDERATE and automatic control orders a derate for AUTO_MASK partitions (R567). -/
  | thermDerate (temp : Nat) (sensor : Nat)
  /-- The temperature falls below TDERATE − HYST and the automatic derate is lifted (R567). -/
  | thermClear (temp : Nat) (sensor : Nat)
  /-- COLD_N held low begins a cold reset (R573). -/
  | coldNAssert (ns : Nat)
  /-- A POWER order sets a bench of a disabled partition to SPIN, COAST or DWELL (R552). -/
  | orderPower (src : OSrc) (unit : Nat) (arg : Nat) (rivals : List Order)
  /-- A REST order is accepted when no partition is enabled and the Chuck is idle, and REST entry begins (R554). -/
  | orderRest (src : OSrc) (rivals : List Order)
  /-- A wake order from a wake source starts the exit from REST (R557). -/
  | orderWake (w : WakeSrc) (rivals : List Order)
  /-- The device reaches READY after REST, restores or zero-fills memory and resumes the count (R558). -/
  | restExit (elapsed : Nat)
  /-- A TILECLK order sets the normal tile clock, or is refused (R563). -/
  | orderTileclk (src : OSrc) (arg : Nat) (rivals : List Order)
  /-- An accepted tile clock is applied at a partition boundary, or 1 ms after acceptance (R563). -/
  | tileclkApply (part : Nat)
  /-- A DERATE order sets the partitions derated by its source (R567). -/
  | orderDerate (src : OSrc) (arg : Nat) (rivals : List Order)
  /-- A RESET_COLD order performs a cold reset, leaving REST if needed (R573). -/
  | orderResetCold (src : OSrc) (rivals : List Order)
  /-- A partition reset ends chunks, lifts fences, discards staged planes and disables the partition (R574). -/
  | orderResetPart (src : OSrc) (arg : Nat) (rivals : List Order)
  /-- An ENABLE order sets the enabled partitions, accepted or refused whole (R590). -/
  | orderEnable (src : OSrc) (arg : Nat) (rivals : List Order)
  /-- A GROUP order enables or stops admission to a stream group (R591). -/
  | orderGroup (src : OSrc) (unit : Nat) (arg : Nat) (rivals : List Order)
  /-- A PORT order enables or disables an audio port (R590). -/
  | orderPort (src : OSrc) (unit : Nat) (arg : Nat) (rivals : List Order)
  /-- A write of PCK_WDOG_KICK from an allowed path returns the watchdog to stage 0 (R575). -/
  | wdogKick (p : Path) (v : Word)
  /-- A running tile issues no bundle for HANG_US and its bench is fenced (R576). -/
  | benchHang (t : Nat)
  /-- Every 4,096 PERCLK cycles the ledger compares each unit's report with its line (R597). -/
  | ledgerCompare (reports : List (Nat×Nat)) (ecc : Bool)
  /-- A mismatched unit has not reached the ledger state after 1 ms and is fenced or reset (R597). -/
  | unitStuck (unit : Nat)
  /-- A path writes its catch read position, which is clamped to the valid range and re-arms MSI-X vector 0 (R602). -/
  | catchRposWrite (p : Path) (k : Nat) (v : Word)
  /-- At each sampling instant of an enabled input path the ADC delivers a sample into the chunk in progress, counts clips, applies FOLLOW slips and evaluates bound flag lines (R405). -/
  | samplingInstant (path : Nat) (s : SampleIn)
  /-- A FABCLK edge (or a wire-clock edge) makes the fabric's flip-flops, latches, pipeline registers and block-memory ports capture (R432). -/
  | fabclkEdge (e : FabEdge)
  /-- A physical-function BAR0 read of a register with an RC field returns the value and clears the field (R7). -/
  | rcRead (p : Path) (loc : ReadAt) (how : ReadHow)
  /-- In FOLLOW mode the array measures AUDCLK periods per 250,000,000 ticks and updates ARR_FOLLOW_RATIO (R411). -/
  | followRatioMeasure (periods : Nat)
  /-- The Selol ORDER command submits a ledger order of kind KIND to unit UNIT with ARG at the acknowledge of its final byte (R500). -/
  | selolOrder (x : MbXfer) (rivals : List Order)
  /-- TBREF has not locked within 10 ms of power-on reset release, so the Headstock enters FREE and starts counting from RESTCLK (R37). -/
  | tbFree
  /-- TBREF is declared lost (no edge for 100 ticks, or out of tolerance over a window) and the Headstock enters HOLDOVER (R39). -/
  | tbrefLost
  /-- TBREF has been valid for 250,000 consecutive ticks and the Headstock passes from HOLDOVER or FREE into LOCKING (R40). -/
  | tbrefBack
  /-- The timebase PLL reports lock and the Headstock moves from LOCKING to LOCKED (R37). -/
  | tbLock
  /-- A grid tick plus the acceptance window passes without a TBPPS edge and the miss is counted (R46). -/
  | missingPulse
  /-- The requested phase correction has fully accrued, so REMAIN reaches zero and SLEWING clears (R44). -/
  | slewComplete
  /-- Every 250,000 ticks in HOLDOVER or FREE, the device raises UNC_NS by the drift bound (R53). -/
  | uncEvaluate
  /-- At each output grid tick, TBPPS_OUT goes high for WIDTH_MS (R60). -/
  | ppsOutPulse
  /-- Every PERIOD_MS the controller measures WCK-to-DQ drift and adjusts outside serving windows (R230). -/
  | farPeriodicCal
  /-- A boot source fails or times out and the Chuck moves to the next (R314). -/
  | bootSourceTimeout
  /-- A run-time load receives no data for 2 s and fails with SOURCE (R531). -/
  | imageSourceTimeout
  /-- An accepted rollback commit finishes fusing (R321). -/
  | rbCommitted
  /-- A function-level reset of the PF also clears VF Enable, windows and pair assignments, and aborts host loads (R376). -/
  | pfFlr
  /-- No AMCLK edge for 250 ticks: AUDCLK switches to SYNTH and every path is unframed (R412). -/
  | amclkLost
  /-- FABCLK shows no edge for 250 ticks and FABCLK registers hold (R442). -/
  | fabClkLost
  /-- A rising UCATCH edge is counted (R451). -/
  | ucatchEdge
  /-- SMBus receive byte returning the low byte of the status word (R489). -/
  | receiveByte
  /-- A command with an unknown code, wrong shape or wrong count is not acknowledged and is discarded (R491). -/
  | mbBadCommand
  /-- With unread records and ARA_EN, the device answers a read of address 0x0C with its own address (R505). -/
  | alertResponse
  /-- MSCL is held low for MB_TIMEOUT, so the block releases the bus and resets (R496). -/
  | mbTimeout
  /-- In REST the recogniser matches the device address, stretches MSCL and submits a wake order (R495). -/
  | mbAddressMatch
  /-- SPI WAKE frame submits a wake order in REST (R532). -/
  | spiWake
  /-- An SPI frame with an unknown command is ignored and counted (R527). -/
  | spitBadFrame
  /-- USB vendor request aborting the load in progress (R534). -/
  | imgAbort
  /-- USB vendor request returning the last write outcome (R534). -/
  | usbLastResult
  /-- The host acknowledges an EP2 packet, moving the USB catch read position past completed records (R538). -/
  | usbEp2Ack
  /-- Every PERIOD_MS the device takes a register sample for EP2 (R538). -/
  | usbStreamSample
  /-- TRST_N or Test-Logic-Reset resets the TAP and selects IDCODE (R539). -/
  | tapReset
  /-- JTAG instruction selecting the 32-bit identification register (R539). -/
  | idcode
  /-- JTAG instruction putting covered balls under boundary control; the PCIe link goes down (R541). -/
  | extest
  /-- JTAG instruction holding boundary outputs with bypass selected (R541). -/
  | clamp
  /-- JTAG instruction making outputs high-impedance (R541). -/
  | highz
  /-- IEEE 1149.6 AC test instruction (R541). -/
  | extestPulse
  /-- IEEE 1149.6 AC train test instruction (R541). -/
  | extestTrain
  /-- JTAG instruction selecting the bypass register (R539). -/
  | bypass
  /-- Switched rails are not in range 1.0 ms after their enables (R571). -/
  | railSlow
  /-- PWR_OK or a rail falls, so the device lowers the enables and holds cold reset (R572). -/
  | supplyLost
  /-- The crystal fails to start or stops, and RESTCLK switches to the internal RC (R638). -/
  | crystalFail
  /-- The held cold reset is released and the device restarts toward READY (R573). -/
  | coldNRelease
  /-- REST entry completes: rails are off and the rest domain carries the count (R555). -/
  | restEntryDone
  /-- The REST timer expires and submits a wake (R557). -/
  | restTimer
  /-- TIMEOUT_MS passes without a kick, so the watchdog advances a stage and takes its action (R575). -/
  | wdogStage
  /-- PWR_OK returns after a supply loss and the device releases the cold reset it held (R572). -/
  | pwrOkRise
  /-- VDD_REST falls below its threshold, putting the device into OFF and power-on reset with everything lost (R573). -/
  | powerOnReset
  /-- USB_VBUS becomes present while the device is not in REST, so the port connects its D+ pull-up and attaches (R533). -/
  | usbVbusApplied
  /-- The USB bus goes idle and the port enters the suspended state (R536). -/
  | usbSuspend
  /-- Resume signalling on the USB bus returns the port from suspended to its previous state (R536). -/
  | usbResume
  /-- An SMBus quick command, an address followed by a stop, is acknowledged and does nothing (R489). -/
  | quickCommand
  /-- Counts a mask's set bits into a scalar (R117). -/
  | tMpop (t : Nat) (k : BundleSlot)
  /-- Writes a mask's first set index, or 256, to a scalar (R117). -/
  | tMfirst (t : Nat) (k : BundleSlot)
  /-- Converts FP32 to INT32 (R117). -/
  | tF2i (t : Nat) (k : BundleSlot)
  /-- Converts INT32 to FP32 (R117). -/
  | tI2f (t : Nat) (k : BundleSlot)
  /-- Rounds FP32 to BF16 precision, stochastically when SR is set (R388). -/
  | tRbf16 (t : Nat) (k : BundleSlot)
  /-- Rounds FP32 to FP16 precision (R388). -/
  | tRfp16 (t : Nat) (k : BundleSlot)
  /-- Rounds FP32 to E4M3 precision (R388). -/
  | tRe4m3 (t : Nat) (k : BundleSlot)
  /-- Rounds FP32 to E5M2 precision (R388). -/
  | tRe5m2 (t : Nat) (k : BundleSlot)
  /-- FP maximum reduction (R130). -/
  | tFmaxr (t : Nat) (k : BundleSlot)
  /-- FP minimum reduction (R130). -/
  | tFminr (t : Nat) (k : BundleSlot)
  /-- INT32 sum reduction (R130). -/
  | tIsum (t : Nat) (k : BundleSlot)
  /-- Permutes elements by an index vector (R117). -/
  | tVperm (t : Nat) (k : BundleSlot)
  /-- Rotates vector elements (R117). -/
  | tVrot (t : Nat) (k : BundleSlot)
  /-- Broadcasts a scalar to a vector (R117). -/
  | tVbcast (t : Nat) (k : BundleSlot)
  /-- Extracts a vector element into a scalar (R117). -/
  | tVext (t : Nat) (k : BundleSlot)
  /-- Inserts a scalar into a vector element (R117). -/
  | tVins (t : Nat) (k : BundleSlot)
  /-- Applies a stored recipe over the vector length (R134). -/
  | tRcp (t : Nat) (k : BundleSlot)
  deriving DecidableEq, Repr

end Sys2Proof
end

