-- ==== Sys2Proof/Decode.lean ====
section
/-!
DEFINITION. Sys2Proof/Decode.lean: commands that a word spells. The command table of the TC820 gives no row any bits: a command is a
register access, a transaction, a frame or an event, not a word. The instruction words of the tiles are decoded in
Machine/TileDecode.lean.
-/
namespace Sys2Proof

/-- The command that a word spells: none, since no row of the table has bits. -/
def decodeTableWord (_nbits _w : Nat) : Option Instr := none

end Sys2Proof
end

