-- ==== Sys2Proof/Config.lean ====
section
/-!
DEFINITION. Sys2Proof/Config.lean: what one part fixes and the spec does not state, and the free values. Every
constant here is opaque: no proof can learn a value of it, so whatever is proved holds for every value.
-/
namespace Sys2Proof.Config

/-- The n-th free value that a run draws: each value the spec leaves undefined takes a fresh one. -/
opaque freeWord : Nat → BitVec 64

/-- A free bit of the n-th draw for each of the things that one event leaves undefined (R437, R443). -/
opaque freeBit : Nat → Nat → Bool

/-- What the n-th draw leaves open in element i of a vector (R117, R129). -/
opaque freeElem : Nat → Nat → BitVec 32

/-- Which of two zeros of opposite sign FMAX (or with `true` FMIN) gives, by the sign of A: the first operand or the
second (R129: IEEE 754 leaves it open). -/
opaque zeroPick : Bool → Bool → Bool

/-- Which element VROT takes for element i under a vector length and a scalar: the table names a rotation (R117) and
states neither its direction nor its modulus. -/
opaque vrotFrom : Nat → BitVec 64 → Nat → Nat

/-- GEN_VENDOR_ID as the ordering sheet gives it (R16). -/
opaque vendorId : Word

/-- Whether the part is a TC820-15 (R2, R16); otherwise it is a TC820-18. -/
opaque grade15 : Bool

/-- The SHA-384 digest (R318, R319): a standard the spec names and does not restate. -/
opaque sha384 : List Byte → List Byte

/-- Whether a signature (r then s) of a digest verifies under a P-384 key (X then Y) (R319). -/
opaque ecdsaP384 : List Byte → List Byte → List Byte → Bool

/-- AES-256-GCM opening (R320): key, nonce, additional data, body, tag; none where the tag does not match. -/
opaque aesGcmOpen : List Byte → List Byte → List Byte → List Byte → List Byte → Option (List Byte)

/-- The VDD_CORE request VREQ for a tile clock in MHz (R565): the spec gives no table. -/
opaque vreq : Nat → Nat

/-- The JTAG manufacturer code of IDCODE (R539). -/
opaque jtagManufacturer : BitVec 11

/-- Byte `i` of the USB descriptor of type `t` where the spec states none: bMaxPower and the bulk endpoints' bInterval (R533). -/
opaque usbDescriptor : Nat → Nat → BitVec 8

/-- The ticks that step `k` of a far-memory training run takes: the spec bounds the whole run only (R228). -/
opaque farStepTicks : Nat → Nat

/-- Which of the values within 1 ulp FRCP gives for an operand (R129). -/
opaque frcp : BitVec 32 → BitVec 32

/-- Which of the values within 1 ulp FRSQ gives for an operand (R129). -/
opaque frsq : BitVec 32 → BitVec 32

/-- Which of the values within 2 ulp FEXP2 gives for a finite operand (R129). -/
opaque fexp2 : BitVec 32 → BitVec 32

/-- Which of the values within 2 ulp FLOG2 gives for a positive finite operand (R129). -/
opaque flog2 : BitVec 32 → BitVec 32

/-- Which of the values within 2 ulp FTANH gives for a finite operand (R129). -/
opaque ftanh : BitVec 32 → BitVec 32

end Sys2Proof.Config
end

