-- ==== Sys2Proof/Machine/RegMap.lean ====
section
/-!
DEFINITION. Sys2Proof/Machine/RegMap.lean: the register space of BAR0 as the spec's register tables give it:
one row per register with its offset, its array dimensions, and for every field its place, its access
code (R7), its reset value and its retention class (R8). Every row is transcribed from the rule named at its block
(R16, R643, R68, R110, R401, R646, R614, R586, R387, R348, R149, R177, R198, R239, R305, R278, R306, R485, R430,
R459, R518, R549); R644 and R645 give the blocks. The names `F.<REGISTER>_<FIELD>` are the fields as the spec names
them; an array register takes its indices as arguments.
-/
namespace Sys2Proof.Machine

/-- The access codes of R7. -/
inductive Acc where
  | ro | rw | wo | w1c | w1s | rc | lo
  deriving DecidableEq, Repr

/-- The retention classes of R8. -/
inductive Kept where
  | A | W | H | D | C | V
  deriving DecidableEq, Repr

/-- One field of a register: its lowest bit, its width, its access code, reset value and retention class. -/
structure FieldSpec where
  lo : Nat
  w : Nat
  acc : Acc
  reset : Nat
  kept : Kept
  deriving DecidableEq, Repr

/-- One register, or an array of registers: the offset of its first element, the (count, stride) of each dimension,
outermost first, and its fields. Bits outside every field are reserved (R6). -/
structure RegRow where
  base : Nat
  dims : List (Nat × Nat)
  fields : List FieldSpec
  deriving DecidableEq, Repr

/-- One block of BAR0 (R644): the offsets from `lo` up to, not including, `hi`. -/
structure RegBlock where
  lo : Nat
  hi : Nat
  rows : List RegRow
  deriving DecidableEq, Repr

/-- A named field of one register: the register's BAR0 offset, the field's lowest bit and its width. -/
structure Fld where
  off : Nat
  lo : Nat
  w : Nat
  deriving DecidableEq, Repr

/-- The registers of block GEN, as R16, R643 give them. -/
def RegMap.rowsGen : List RegRow := [
  ⟨0, [], [⟨0, 16, .ro, 0, .A⟩, ⟨16, 16, .ro, 0, .A⟩]⟩,
  ⟨4, [], [⟨0, 16, .ro, 0x820, .A⟩, ⟨16, 16, .ro, 0x820, .A⟩]⟩,
  ⟨8, [], [⟨0, 8, .ro, 0x41, .A⟩, ⟨8, 8, .ro, 1, .A⟩]⟩,
  ⟨0xc, [], [⟨0, 8, .ro, 0x12, .A⟩, ⟨8, 12, .ro, 0x226, .A⟩]⟩,
  ⟨0x10, [], [⟨0, 8, .ro, 0x20, .A⟩, ⟨8, 4, .ro, 8, .A⟩, ⟨12, 5, .ro, 0x10, .A⟩, ⟨17, 13, .ro, 0x1000, .A⟩]⟩,
  ⟨0x14, [], [⟨0, 16, .rc, 0, .H⟩]⟩,
  ⟨0x18, [], [⟨0, 32, .rw, 0, .A⟩]⟩,
  ⟨0x20, [], [⟨0, 1, .ro, 0, .A⟩, ⟨1, 1, .ro, 0, .A⟩, ⟨2, 2, .ro, 0, .A⟩, ⟨4, 2, .ro, 0, .A⟩, ⟨6, 1, .ro, 0, .A⟩]⟩,
  ⟨0x24, [], [⟨0, 1, .ro, 0, .A⟩, ⟨1, 1, .ro, 0, .A⟩, ⟨2, 1, .ro, 0, .A⟩, ⟨3, 1, .ro, 0, .A⟩, ⟨4, 5, .ro, 0, .A⟩, ⟨9, 1, .ro, 0, .A⟩, ⟨10, 1, .ro, 0, .A⟩, ⟨11, 1, .ro, 0, .A⟩, ⟨12, 1, .ro, 0, .A⟩, ⟨13, 1, .ro, 0, .A⟩]⟩]

/-- The registers of block TB, as R68 give them. -/
def RegMap.rowsTb : List RegRow := [
  ⟨0x10000, [], [⟨0, 32, .ro, 0, .A⟩]⟩,
  ⟨0x10004, [], [⟨0, 32, .ro, 0, .A⟩]⟩,
  ⟨0x10008, [], [⟨0, 3, .ro, 1, .A⟩, ⟨3, 1, .ro, 0, .A⟩, ⟨4, 1, .ro, 0, .A⟩, ⟨5, 1, .ro, 0, .A⟩, ⟨6, 1, .ro, 0, .A⟩, ⟨7, 1, .ro, 0, .A⟩, ⟨8, 1, .ro, 0, .A⟩, ⟨16, 16, .ro, 0, .A⟩]⟩,
  ⟨0x1000c, [], [⟨0, 2, .rw, 0, .W⟩, ⟨2, 1, .rw, 0, .W⟩, ⟨3, 1, .rw, 0, .W⟩, ⟨4, 4, .rw, 1, .W⟩, ⟨8, 4, .rw, 3, .W⟩, ⟨12, 8, .rw, 0x10, .W⟩, ⟨20, 6, .rw, 0x32, .W⟩]⟩,
  ⟨0x10010, [], [⟨0, 32, .rw, 0, .W⟩]⟩,
  ⟨0x10014, [], [⟨0, 24, .rw, 0, .W⟩]⟩,
  ⟨0x10018, [], [⟨0, 32, .ro, 0, .A⟩]⟩,
  ⟨0x1001c, [], [⟨0, 32, .ro, 0, .A⟩]⟩,
  ⟨0x10020, [], [⟨0, 16, .ro, 0, .W⟩, ⟨16, 8, .rc, 0, .W⟩, ⟨24, 8, .rc, 0, .W⟩]⟩,
  ⟨0x10024, [], [⟨0, 28, .rw, 0, .W⟩]⟩,
  ⟨0x10028, [], [⟨0, 32, .rw, 0, .W⟩]⟩,
  ⟨0x1002c, [], [⟨0, 32, .rw, 0, .W⟩]⟩,
  ⟨0x10030, [], [⟨0, 1, .w1s, 0, .W⟩, ⟨1, 1, .w1c, 0, .W⟩, ⟨2, 1, .w1c, 0, .W⟩, ⟨3, 1, .w1s, 0, .W⟩]⟩,
  ⟨0x10034, [], [⟨0, 1, .rw, 0, .W⟩, ⟨8, 8, .rw, 0x64, .W⟩]⟩,
  ⟨0x10038, [], [⟨0, 28, .rw, 0, .W⟩]⟩,
  ⟨0x1003c, [], [⟨0, 31, .rw, 0x7fffffff, .A⟩]⟩,
  ⟨0x10040, [], [⟨0, 31, .rw, 0x7fffffff, .A⟩]⟩,
  ⟨0x10044, [], [⟨0, 8, .ro, 0x65, .A⟩, ⟨8, 24, .ro, 0x1dcd, .A⟩]⟩,
  ⟨0x10080, [(8, 4)], [⟨0, 27, .ro, 0, .W⟩]⟩,
  ⟨0x100a0, [(8, 8)], [⟨0, 32, .ro, 0, .W⟩]⟩,
  ⟨0x100a4, [(8, 8)], [⟨0, 32, .ro, 0, .W⟩]⟩]

/-- The registers of block TT, as R110, R401 give them. -/
def RegMap.rowsTt : List RegRow := [
  ⟨0x20000, [(8, 0x40)], [⟨0, 1, .ro, 0, .W⟩, ⟨1, 1, .ro, 0, .W⟩, ⟨2, 1, .ro, 0, .W⟩, ⟨3, 1, .ro, 0, .W⟩, ⟨4, 1, .ro, 0, .H⟩, ⟨16, 16, .ro, 0, .W⟩]⟩,
  ⟨0x20004, [(8, 0x40)], [⟨0, 15, .ro, 0, .W⟩, ⟨16, 15, .ro, 0, .W⟩]⟩,
  ⟨0x20008, [(8, 0x40)], [⟨0, 32, .ro, 0, .W⟩]⟩,
  ⟨0x2000c, [(8, 0x40)], [⟨0, 32, .rw, 0, .W⟩]⟩,
  ⟨0x20010, [(8, 0x40)], [⟨0, 32, .rw, 0, .W⟩]⟩,
  ⟨0x20014, [(8, 0x40)], [⟨0, 32, .rc, 0, .H⟩]⟩,
  ⟨0x20018, [(8, 0x40)], [⟨0, 32, .rc, 0, .H⟩]⟩,
  ⟨0x2001c, [(8, 0x40)], [⟨0, 32, .rc, 0, .H⟩]⟩,
  ⟨0x20020, [(8, 0x40)], [⟨0, 32, .rc, 0, .H⟩]⟩,
  ⟨0x20024, [(8, 0x40)], [⟨0, 32, .rc, 0, .H⟩]⟩,
  ⟨0x20028, [(8, 0x40)], [⟨0, 32, .rc, 0, .H⟩]⟩,
  ⟨0x2002c, [(8, 0x40)], [⟨0, 32, .rc, 0, .H⟩]⟩,
  ⟨0x20030, [(8, 0x40)], [⟨0, 32, .rc, 0xffffffff, .H⟩]⟩,
  ⟨0x20034, [(8, 0x40)], [⟨0, 32, .rw, 0, .W⟩]⟩,
  ⟨0x20038, [(8, 0x40)], [⟨0, 32, .rw, 0, .W⟩]⟩,
  ⟨0x20400, [], [⟨0, 3, .rw, 0, .H⟩, ⟨3, 1, .rw, 0, .H⟩, ⟨4, 1, .rw, 0, .H⟩, ⟨8, 14, .rw, 0, .H⟩]⟩,
  ⟨0x20404, [(4, 4)], [⟨0, 32, .ro, 0, .H⟩]⟩,
  ⟨0x20420, [], [⟨0, 3, .rw, 0, .H⟩, ⟨3, 1, .rw, 0, .H⟩, ⟨8, 6, .rw, 0, .H⟩]⟩,
  ⟨0x20424, [], [⟨0, 4, .ro, 0, .H⟩, ⟨4, 4, .ro, 0, .H⟩, ⟨8, 2, .ro, 0, .H⟩, ⟨10, 4, .ro, 0, .H⟩, ⟨14, 1, .ro, 0, .H⟩, ⟨16, 16, .ro, 0, .H⟩]⟩,
  ⟨0x20428, [], [⟨0, 32, .ro, 0, .H⟩]⟩,
  ⟨0x2042c, [], [⟨0, 32, .ro, 0, .H⟩]⟩,
  ⟨0x20430, [], [⟨0, 32, .ro, 0, .H⟩]⟩,
  ⟨0x20434, [], [⟨0, 32, .ro, 0, .H⟩]⟩,
  ⟨0x20438, [], [⟨0, 32, .ro, 0, .H⟩]⟩]

/-- The registers of block MSIX, as R646, R371 give them. -/
def RegMap.rowsMsix : List RegRow := [
  ⟨0x30000, [(64, 0x10), (3, 4)], [⟨0, 32, .rw, 0, .H⟩]⟩,
  ⟨0x3000c, [(64, 0x10)], [⟨0, 1, .rw, 1, .H⟩]⟩,
  ⟨0x38000, [(2, 4)], [⟨0, 32, .ro, 0, .H⟩]⟩]

/-- The registers of block LEDG, as R614 give them. -/
def RegMap.rowsLedg : List RegRow := [
  ⟨0x40000, [], [⟨0, 32, .rw, 0, .H⟩]⟩,
  ⟨0x40004, [], [⟨0, 7, .wo, 0, .H⟩, ⟨8, 8, .wo, 0, .H⟩]⟩,
  ⟨0x40008, [], [⟨0, 8, .lo, 0, .W⟩]⟩,
  ⟨0x40010, [(3, 4)], [⟨0, 8, .ro, 0, .A⟩, ⟨8, 8, .ro, 0, .A⟩, ⟨16, 16, .ro, 0, .A⟩]⟩,
  ⟨0x40030, [], [⟨0, 32, .rc, 0, .H⟩]⟩,
  ⟨0x40034, [], [⟨0, 32, .rc, 0, .H⟩]⟩,
  ⟨0x40038, [], [⟨0, 32, .rc, 0, .H⟩]⟩,
  ⟨0x4003c, [], [⟨0, 32, .rc, 0, .H⟩]⟩,
  ⟨0x40100, [(128, 4)], [⟨0, 4, .ro, 0, .W⟩, ⟨6, 1, .ro, 0, .W⟩, ⟨7, 1, .ro, 0, .W⟩, ⟨16, 16, .ro, 0, .W⟩]⟩,
  ⟨0x40300, [(8, 8)], [⟨0, 32, .ro, 0, .W⟩]⟩,
  ⟨0x40304, [(8, 8)], [⟨0, 32, .ro, 0, .W⟩]⟩]

/-- The registers of block CATCH, as R614 give them. -/
def RegMap.rowsCatch : List RegRow := [
  ⟨0x50000, [], [⟨0, 2, .rw, 1, .A⟩, ⟨2, 2, .rw, 1, .A⟩, ⟨4, 4, .rw, 2, .A⟩]⟩,
  ⟨0x50004, [], [⟨0, 32, .ro, 0, .A⟩]⟩,
  ⟨0x50010, [(4, 4)], [⟨0, 32, .rw, 0, .A⟩]⟩,
  ⟨0x50020, [(4, 4)], [⟨0, 32, .rc, 0, .A⟩]⟩,
  ⟨0x50040, [(8, 4)], [⟨0, 32, .ro, 0, .A⟩]⟩,
  ⟨0x58000, [(8192, 4)], [⟨0, 32, .ro, 0, .A⟩]⟩]

/-- The registers of block PCK, as R586 give them. -/
def RegMap.rowsPck : List RegRow := [
  ⟨0x60000, [], [⟨0, 3, .ro, 0, .A⟩, ⟨3, 4, .ro, 0, .A⟩, ⟨8, 3, .ro, 0, .A⟩, ⟨11, 1, .ro, 0, .A⟩]⟩,
  ⟨0x60004, [], [⟨0, 1, .rw, 0, .A⟩]⟩,
  ⟨0x60008, [], [⟨0, 1, .lo, 0, .A⟩]⟩,
  ⟨0x6000c, [], [⟨0, 32, .rw, 0, .A⟩]⟩,
  ⟨0x60010, [], [⟨0, 12, .lo, 0, .D⟩, ⟨16, 12, .ro, 0, .W⟩]⟩,
  ⟨0x60014, [], [⟨0, 11, .ro, 0, .W⟩]⟩,
  ⟨0x60018, [], [⟨0, 8, .lo, 0, .W⟩]⟩,
  ⟨0x6001c, [], [⟨0, 8, .rw, 0x64, .A⟩, ⟨8, 4, .rw, 5, .A⟩, ⟨16, 8, .rw, 0xff, .A⟩]⟩,
  ⟨0x60020, [], [⟨0, 16, .ro, 0, .A⟩, ⟨16, 4, .ro, 0, .A⟩]⟩,
  ⟨0x60024, [], [⟨0, 5, .ro, 0xa, .A⟩]⟩,
  ⟨0x60028, [], [⟨0, 1, .ro, 0, .V⟩, ⟨1, 1, .ro, 0, .V⟩, ⟨2, 1, .ro, 0, .V⟩, ⟨3, 1, .ro, 0, .V⟩, ⟨4, 1, .ro, 0, .V⟩, ⟨5, 1, .ro, 0, .V⟩, ⟨6, 1, .ro, 0, .V⟩]⟩,
  ⟨0x60030, [], [⟨0, 10, .rw, 0, .W⟩, ⟨10, 2, .rw, 0, .W⟩, ⟨12, 3, .rw, 0, .W⟩, ⟨15, 3, .rw, 0, .W⟩, ⟨18, 3, .rw, 0, .W⟩, ⟨21, 8, .rw, 0, .W⟩, ⟨31, 1, .rw, 0, .W⟩]⟩,
  ⟨0x60034, [], [⟨0, 32, .wo, 0, .W⟩]⟩,
  ⟨0x60038, [], [⟨0, 2, .ro, 0, .W⟩, ⟨16, 16, .rc, 0, .W⟩]⟩,
  ⟨0x6003c, [], [⟨0, 16, .rw, 0, .W⟩]⟩,
  ⟨0x60040, [], [⟨0, 8, .lo, 0, .A⟩, ⟨8, 1, .lo, 0, .A⟩]⟩]

/-- The registers of block HQ, as R387 give them. -/
def RegMap.rowsHq : List RegRow := [
  ⟨0x80000, [], [⟨0, 2, .ro, 0, .A⟩, ⟨2, 3, .ro, 0, .A⟩, ⟨5, 5, .ro, 0, .A⟩, ⟨10, 1, .ro, 0, .A⟩, ⟨16, 16, .ro, 0, .A⟩]⟩,
  ⟨0x80104, [(63, 4)], [⟨0, 8, .rw, 1, .H⟩]⟩,
  ⟨0x80400, [(16, 0x10)], [⟨12, 20, .rw, 0, .H⟩]⟩,
  ⟨0x80404, [(16, 0x10)], [⟨0, 32, .rw, 0, .H⟩]⟩,
  ⟨0x80408, [(16, 0x10)], [⟨0, 24, .rw, 0, .H⟩]⟩,
  ⟨0x8040c, [(16, 0x10)], [⟨0, 6, .rw, 0, .H⟩, ⟨6, 1, .rw, 0, .H⟩, ⟨7, 1, .rw, 0, .H⟩, ⟨8, 8, .rw, 0, .H⟩, ⟨31, 1, .rw, 0, .H⟩]⟩,
  ⟨0x81000, [(256, 0x40)], [⟨0, 1, .rw, 0, .H⟩, ⟨1, 1, .w1c, 0, .H⟩, ⟨2, 6, .rw, 0, .H⟩, ⟨8, 1, .rw, 0, .H⟩, ⟨12, 8, .rw, 0, .H⟩, ⟨20, 8, .rw, 0, .H⟩]⟩,
  ⟨0x81004, [(256, 0x40)], [⟨0, 12, .rw, 0, .H⟩, ⟨16, 12, .rw, 0, .H⟩]⟩,
  ⟨0x81008, [(256, 0x40)], [⟨12, 20, .rw, 0, .H⟩]⟩,
  ⟨0x8100c, [(256, 0x40)], [⟨0, 32, .rw, 0, .H⟩]⟩,
  ⟨0x81010, [(256, 0x40)], [⟨0, 5, .rw, 4, .H⟩, ⟨8, 5, .rw, 4, .H⟩]⟩,
  ⟨0x81014, [(256, 0x40)], [⟨12, 20, .rw, 0, .H⟩]⟩,
  ⟨0x81018, [(256, 0x40)], [⟨0, 32, .rw, 0, .H⟩]⟩,
  ⟨0x8101c, [(256, 0x40)], [⟨6, 14, .rw, 0, .H⟩]⟩,
  ⟨0x81020, [(256, 0x40)], [⟨12, 20, .rw, 0, .H⟩]⟩,
  ⟨0x81024, [(256, 0x40)], [⟨0, 32, .rw, 0, .H⟩]⟩,
  ⟨0x81028, [(256, 0x40)], [⟨2, 30, .rw, 0, .H⟩]⟩,
  ⟨0x8102c, [(256, 0x40)], [⟨0, 32, .rw, 0, .H⟩]⟩,
  ⟨0x81030, [(256, 0x40)], [⟨0, 16, .ro, 0, .H⟩, ⟨16, 16, .ro, 0, .H⟩]⟩,
  ⟨0x81034, [(256, 0x40)], [⟨0, 32, .rc, 0, .H⟩]⟩,
  ⟨0x81038, [(256, 0x40)], [⟨0, 32, .rc, 0, .H⟩]⟩,
  ⟨0x8103c, [(256, 0x40)], [⟨0, 32, .rc, 0, .H⟩]⟩]

/-- The registers of block IMG, as R348 give them. -/
def RegMap.rowsImg : List RegRow := [
  ⟨0xc0000, [], [⟨0, 3, .ro, 0, .A⟩, ⟨4, 3, .ro, 0, .A⟩, ⟨7, 1, .ro, 0, .A⟩, ⟨8, 4, .ro, 0, .A⟩, ⟨16, 2, .ro, 0, .A⟩]⟩,
  ⟨0xc0004, [], [⟨0, 1, .w1s, 0, .H⟩, ⟨1, 1, .w1s, 0, .H⟩, ⟨2, 2, .rw, 0, .H⟩, ⟨4, 3, .rw, 0, .H⟩]⟩,
  ⟨0xc0008, [], [⟨0, 32, .rw, 0, .H⟩]⟩,
  ⟨0xc000c, [], [⟨0, 8, .rw, 0, .H⟩]⟩,
  ⟨0xc0010, [], [⟨0, 31, .rw, 0, .H⟩]⟩,
  ⟨0xc0014, [], [⟨0, 8, .ro, 0, .H⟩, ⟨8, 13, .ro, 0, .H⟩]⟩,
  ⟨0xc0018, [], [⟨0, 31, .ro, 0, .H⟩]⟩,
  ⟨0xc0020, [], [⟨0, 8, .lo, 0, .W⟩, ⟨8, 1, .lo, 0, .W⟩, ⟨9, 4, .lo, 0, .W⟩]⟩,
  ⟨0xc0040, [(8, 4)], [⟨0, 1, .ro, 0, .H⟩, ⟨1, 1, .ro, 0, .H⟩, ⟨2, 1, .ro, 0, .H⟩, ⟨3, 1, .ro, 0, .H⟩]⟩,
  ⟨0xc0060, [(8, 4)], [⟨0, 32, .ro, 0, .W⟩]⟩,
  ⟨0xc0080, [(8, 4)], [⟨0, 32, .ro, 0, .H⟩]⟩]

/-- The registers of block BENCH, as R149, R177, R198, R239, R401, R305 give them. -/
def RegMap.rowsBench : List RegRow := [
  ⟨0x100000, [(32, 0x10000), (16, 0x800)], [⟨0, 2, .ro, 0, .C⟩, ⟨2, 1, .ro, 0, .C⟩, ⟨3, 1, .ro, 0, .C⟩, ⟨16, 13, .ro, 0, .C⟩]⟩,
  ⟨0x100004, [(32, 0x10000), (16, 0x800)], [⟨0, 8, .ro, 0, .C⟩, ⟨8, 1, .ro, 0, .C⟩, ⟨9, 1, .ro, 0, .C⟩, ⟨10, 1, .ro, 0, .C⟩, ⟨11, 1, .ro, 0, .C⟩, ⟨12, 1, .ro, 0, .C⟩]⟩,
  ⟨0x100008, [(32, 0x10000), (16, 0x800)], [⟨0, 13, .ro, 0, .C⟩]⟩,
  ⟨0x10000c, [(32, 0x10000), (16, 0x800)], [⟨0, 32, .ro, 0, .C⟩]⟩,
  ⟨0x100010, [(32, 0x10000), (16, 0x800)], [⟨0, 2, .ro, 0, .C⟩, ⟨2, 1, .ro, 0, .C⟩, ⟨3, 1, .ro, 0, .C⟩, ⟨4, 8, .ro, 0, .C⟩]⟩,
  ⟨0x100014, [(32, 0x10000), (16, 0x800)], [⟨0, 1, .rw, 0, .D⟩, ⟨1, 1, .w1s, 0, .D⟩, ⟨2, 1, .w1s, 0, .D⟩, ⟨3, 1, .w1s, 0, .D⟩, ⟨4, 1, .rw, 0, .D⟩, ⟨5, 1, .rw, 0, .D⟩]⟩,
  ⟨0x100018, [(32, 0x10000), (16, 0x800)], [⟨0, 13, .rw, 0, .D⟩, ⟨16, 13, .rw, 0, .D⟩]⟩,
  ⟨0x100020, [(32, 0x10000), (16, 0x800), (4, 8)], [⟨0, 32, .ro, 0, .C⟩]⟩,
  ⟨0x100024, [(32, 0x10000), (16, 0x800), (4, 8)], [⟨0, 13, .ro, 0, .C⟩, ⟨16, 13, .ro, 0, .C⟩, ⟨30, 1, .ro, 0, .C⟩, ⟨31, 1, .ro, 0, .C⟩]⟩,
  ⟨0x100040, [(32, 0x10000), (16, 0x800)], [⟨0, 9, .ro, 0x100, .C⟩]⟩,
  ⟨0x100044, [(32, 0x10000), (16, 0x800), (4, 4)], [⟨0, 9, .ro, 0, .C⟩]⟩,
  ⟨0x100060, [(32, 0x10000), (16, 0x800)], [⟨0, 2, .rw, 0, .C⟩, ⟨2, 5, .rw, 0, .C⟩, ⟨8, 8, .rw, 0, .C⟩]⟩,
  ⟨0x100064, [(32, 0x10000), (16, 0x800)], [⟨0, 32, .rw, 0, .C⟩]⟩,
  ⟨0x100068, [(32, 0x10000), (16, 0x800)], [⟨0, 32, .rw, 0, .C⟩]⟩,
  ⟨0x100070, [(32, 0x10000), (16, 0x800)], [⟨0, 20, .ro, 0, .D⟩]⟩,
  ⟨0x100074, [(32, 0x10000), (16, 0x800)], [⟨0, 20, .ro, 0, .D⟩]⟩,
  ⟨0x100078, [(32, 0x10000), (16, 0x800)], [⟨0, 20, .ro, 0, .D⟩]⟩,
  ⟨0x100080, [(32, 0x10000), (16, 0x800)], [⟨0, 32, .rc, 0, .D⟩]⟩,
  ⟨0x100084, [(32, 0x10000), (16, 0x800)], [⟨0, 32, .rc, 0, .D⟩]⟩,
  ⟨0x100088, [(32, 0x10000), (16, 0x800)], [⟨0, 1, .w1c, 0, .D⟩, ⟨1, 1, .w1c, 0, .D⟩, ⟨2, 1, .w1c, 0, .D⟩, ⟨3, 1, .w1c, 0, .D⟩, ⟨4, 1, .w1c, 0, .D⟩]⟩,
  ⟨0x10008c, [(32, 0x10000), (16, 0x800)], [⟨0, 32, .rc, 0, .D⟩]⟩,
  ⟨0x100090, [(32, 0x10000), (16, 0x800)], [⟨0, 32, .rc, 0, .D⟩]⟩,
  ⟨0x100100, [(32, 0x10000), (16, 0x800)], [⟨0, 3, .ro, 0, .C⟩, ⟨3, 1, .ro, 0, .C⟩]⟩,
  ⟨0x100104, [(32, 0x10000), (16, 0x800)], [⟨0, 16, .ro, 0, .D⟩, ⟨16, 1, .w1c, 0, .D⟩]⟩,
  ⟨0x100108, [(32, 0x10000), (16, 0x800)], [⟨0, 20, .ro, 0, .D⟩]⟩,
  ⟨0x10010c, [(32, 0x10000), (16, 0x800)], [⟨0, 12, .ro, 0, .D⟩, ⟨12, 12, .ro, 0, .D⟩]⟩,
  ⟨0x100110, [(32, 0x10000), (16, 0x800)], [⟨0, 32, .rc, 0, .D⟩]⟩,
  ⟨0x100114, [(32, 0x10000), (16, 0x800)], [⟨0, 32, .rc, 0, .D⟩]⟩,
  ⟨0x100118, [(32, 0x10000), (16, 0x800)], [⟨0, 32, .rc, 0, .D⟩]⟩,
  ⟨0x10011c, [(32, 0x10000), (16, 0x800)], [⟨0, 32, .rc, 0, .D⟩]⟩,
  ⟨0x100120, [(32, 0x10000), (16, 0x800)], [⟨0, 32, .rc, 0, .D⟩]⟩,
  ⟨0x100124, [(32, 0x10000), (16, 0x800)], [⟨0, 12, .ro, 0, .D⟩]⟩,
  ⟨0x100128, [(32, 0x10000), (16, 0x800)], [⟨0, 17, .ro, 0, .D⟩, ⟨20, 4, .ro, 0, .D⟩]⟩,
  ⟨0x10012c, [(32, 0x10000), (16, 0x800)], [⟨0, 17, .ro, 0, .D⟩]⟩,
  ⟨0x100130, [(32, 0x10000), (16, 0x800)], [⟨0, 32, .rc, 0, .D⟩]⟩,
  ⟨0x100140, [(32, 0x10000), (16, 0x800)], [⟨0, 32, .rc, 0, .D⟩]⟩,
  ⟨0x100144, [(32, 0x10000), (16, 0x800)], [⟨0, 20, .ro, 0, .D⟩, ⟨31, 1, .w1c, 0, .D⟩]⟩,
  ⟨0x100148, [(32, 0x10000), (16, 0x800)], [⟨0, 4, .ro, 0, .C⟩, ⟨4, 1, .ro, 0, .C⟩]⟩,
  ⟨0x100150, [(32, 0x10000), (16, 0x800)], [⟨0, 32, .ro, 0, .C⟩]⟩,
  ⟨0x100154, [(32, 0x10000), (16, 0x800)], [⟨0, 32, .ro, 0, .C⟩]⟩] ++ [
  ⟨0x100158, [(32, 0x10000), (16, 0x800)], [⟨0, 32, .ro, 0, .C⟩]⟩,
  ⟨0x108000, [(32, 0x10000)], [⟨0, 3, .ro, 0, .W⟩, ⟨3, 1, .ro, 0, .W⟩, ⟨4, 3, .ro, 0, .W⟩, ⟨7, 2, .ro, 0, .W⟩, ⟨9, 1, .ro, 0, .W⟩, ⟨16, 16, .ro, 0, .W⟩]⟩,
  ⟨0x108004, [(32, 0x10000)], [⟨0, 16, .ro, 0, .W⟩, ⟨16, 1, .ro, 0, .W⟩]⟩,
  ⟨0x108008, [(32, 0x10000)], [⟨0, 32, .rc, 0, .H⟩]⟩,
  ⟨0x10800c, [(32, 0x10000)], [⟨0, 12, .ro, 0, .W⟩, ⟨12, 12, .ro, 0, .W⟩]⟩,
  ⟨0x108010, [(32, 0x10000)], [⟨0, 32, .rc, 0, .H⟩]⟩,
  ⟨0x108014, [(32, 0x10000)], [⟨0, 1, .rw, 0, .H⟩, ⟨1, 11, .rw, 0, .H⟩]⟩,
  ⟨0x108018, [(32, 0x10000), (8, 4)], [⟨0, 32, .ro, 0, .H⟩]⟩,
  ⟨0x108038, [(32, 0x10000)], [⟨0, 12, .ro, 0, .W⟩, ⟨16, 12, .ro, 0, .W⟩]⟩]

/-- The registers of block KV, as R278 give them. -/
def RegMap.rowsKv : List RegRow := [
  ⟨0x300000, [], [⟨0, 16, .ro, 0, .V⟩]⟩,
  ⟨0x300004, [], [⟨0, 30, .ro, 0, .W⟩]⟩,
  ⟨0x300008, [], [⟨0, 25, .ro, 0, .W⟩]⟩,
  ⟨0x30000c, [], [⟨0, 16, .ro, 0, .W⟩]⟩,
  ⟨0x300010, [(8, 4)], [⟨0, 16, .ro, 0, .W⟩]⟩,
  ⟨0x300040, [], [⟨0, 32, .rw, 0, .H⟩]⟩,
  ⟨0x300044, [], [⟨0, 32, .rw, 0, .H⟩]⟩,
  ⟨0x300048, [], [⟨0, 4, .wo, 0, .H⟩]⟩,
  ⟨0x30004c, [], [⟨0, 4, .ro, 0, .H⟩, ⟨4, 1, .ro, 0, .H⟩, ⟨8, 24, .ro, 0, .H⟩]⟩,
  ⟨0x300050, [], [⟨0, 24, .rw, 0, .H⟩]⟩,
  ⟨0x300054, [], [⟨0, 32, .ro, 0, .H⟩]⟩,
  ⟨0x300060, [], [⟨0, 32, .rc, 0, .H⟩]⟩,
  ⟨0x300064, [], [⟨0, 32, .rc, 0, .H⟩]⟩,
  ⟨0x300068, [], [⟨0, 32, .rc, 0, .H⟩]⟩,
  ⟨0x30006c, [], [⟨0, 32, .rc, 0, .H⟩]⟩,
  ⟨0x300070, [], [⟨0, 32, .rc, 0, .H⟩]⟩,
  ⟨0x300074, [], [⟨0, 32, .rc, 0, .H⟩]⟩,
  ⟨0x300078, [], [⟨0, 32, .rc, 0, .H⟩]⟩,
  ⟨0x30007c, [], [⟨0, 32, .rc, 0, .H⟩]⟩,
  ⟨0x300080, [], [⟨0, 32, .rc, 0, .H⟩]⟩,
  ⟨0x300084, [], [⟨0, 32, .rc, 0, .H⟩]⟩,
  ⟨0x300088, [], [⟨0, 32, .rc, 0, .H⟩]⟩,
  ⟨0x30008c, [], [⟨0, 32, .rc, 0, .H⟩]⟩,
  ⟨0x300100, [(16, 0x10)], [⟨0, 24, .ro, 0, .W⟩, ⟨24, 1, .ro, 0, .W⟩, ⟨31, 1, .ro, 0, .W⟩]⟩,
  ⟨0x300104, [(16, 0x10)], [⟨0, 24, .ro, 0, .W⟩]⟩,
  ⟨0x300108, [(16, 0x10)], [⟨0, 24, .ro, 0, .W⟩]⟩,
  ⟨0x30010c, [(16, 0x10)], [⟨0, 6, .ro, 0, .W⟩, ⟨6, 4, .ro, 0, .W⟩, ⟨10, 2, .ro, 0, .W⟩, ⟨12, 1, .ro, 0, .W⟩, ⟨13, 3, .ro, 0, .W⟩]⟩,
  ⟨0x300200, [], [⟨0, 3, .rw, 0, .H⟩, ⟨3, 1, .rw, 0, .H⟩, ⟨4, 1, .rw, 0, .H⟩, ⟨8, 8, .rw, 0, .H⟩]⟩,
  ⟨0x300204, [(8, 4)], [⟨0, 32, .ro, 0, .H⟩]⟩]

/-- The registers of block FAR, as R239, R306 give them. -/
def RegMap.rowsFar : List RegRow := [
  ⟨0x380000, [], [⟨0, 3, .ro, 0, .A⟩, ⟨3, 1, .ro, 0, .A⟩, ⟨4, 1, .ro, 0, .A⟩, ⟨16, 16, .ro, 0, .A⟩]⟩,
  ⟨0x380004, [], [⟨0, 3, .rw, 0, .A⟩, ⟨3, 1, .rw, 0, .A⟩, ⟨4, 3, .rw, 0, .A⟩, ⟨7, 1, .rw, 0, .A⟩, ⟨8, 1, .rw, 0, .A⟩, ⟨9, 1, .rw, 0, .A⟩, ⟨16, 8, .rw, 0, .A⟩]⟩,
  ⟨0x380008, [], [⟨0, 1, .w1s, 0, .A⟩, ⟨1, 1, .ro, 0, .A⟩, ⟨2, 1, .rw, 0, .A⟩, ⟨3, 1, .rw, 0, .A⟩, ⟨8, 8, .rw, 0x64, .A⟩]⟩,
  ⟨0x38000c, [], [⟨0, 4, .ro, 0, .A⟩, ⟨4, 1, .ro, 0, .A⟩, ⟨5, 1, .ro, 0, .A⟩, ⟨6, 1, .ro, 0, .A⟩, ⟨8, 8, .ro, 0, .A⟩]⟩,
  ⟨0x380010, [], [⟨0, 32, .rc, 0, .H⟩]⟩,
  ⟨0x380014, [], [⟨0, 32, .rc, 0, .H⟩]⟩,
  ⟨0x380018, [], [⟨0, 32, .rc, 0, .H⟩]⟩,
  ⟨0x38001c, [], [⟨0, 32, .ro, 0, .H⟩]⟩,
  ⟨0x380020, [], [⟨0, 8, .ro, 0, .H⟩]⟩,
  ⟨0x380024, [], [⟨0, 8, .ro, 0, .W⟩, ⟨8, 3, .ro, 0, .W⟩]⟩,
  ⟨0x380028, [], [⟨0, 32, .rc, 0, .H⟩]⟩,
  ⟨0x380100, [(32, 8)], [⟨0, 11, .ro, 0, .W⟩, ⟨16, 11, .ro, 0, .W⟩, ⟨27, 3, .ro, 0, .W⟩, ⟨31, 1, .ro, 0, .W⟩]⟩,
  ⟨0x380104, [(32, 8)], [⟨0, 8, .ro, 0, .W⟩, ⟨8, 1, .ro, 0, .W⟩]⟩,
  ⟨0x380200, [], [⟨0, 3, .rw, 0, .H⟩, ⟨3, 1, .rw, 0, .H⟩, ⟨4, 4, .rw, 0, .H⟩]⟩,
  ⟨0x380204, [], [⟨0, 26, .ro, 0, .H⟩, ⟨26, 4, .ro, 0, .H⟩]⟩,
  ⟨0x380208, [], [⟨0, 26, .ro, 0, .H⟩]⟩,
  ⟨0x38020c, [], [⟨0, 32, .rc, 0, .H⟩]⟩]

/-- The registers of block STORE, as R239 give them. -/
def RegMap.rowsStore : List RegRow := [
  ⟨0x3c0000, [], [⟨0, 2, .ro, 0, .A⟩, ⟨2, 1, .ro, 0, .A⟩, ⟨16, 16, .ro, 0, .A⟩]⟩,
  ⟨0x3c0004, [], [⟨0, 1, .rw, 1, .W⟩, ⟨8, 8, .rw, 4, .W⟩]⟩,
  ⟨0x3c0008, [], [⟨0, 32, .rc, 0, .H⟩]⟩,
  ⟨0x3c000c, [], [⟨0, 32, .rc, 0, .H⟩]⟩,
  ⟨0x3c0010, [], [⟨0, 30, .ro, 0, .H⟩]⟩,
  ⟨0x3c0014, [], [⟨0, 24, .ro, 0, .A⟩]⟩,
  ⟨0x3c0018, [], [⟨0, 30, .ro, 0, .W⟩]⟩,
  ⟨0x3c001c, [], [⟨0, 32, .rc, 0, .H⟩]⟩,
  ⟨0x3c0020, [], [⟨0, 32, .rc, 0, .H⟩]⟩,
  ⟨0x3c0100, [(32, 8)], [⟨0, 9, .ro, 0, .W⟩, ⟨16, 9, .ro, 0, .W⟩, ⟨25, 3, .ro, 0, .W⟩, ⟨31, 1, .ro, 0, .W⟩]⟩,
  ⟨0x3c0104, [(32, 8)], [⟨0, 8, .ro, 0, .W⟩, ⟨8, 1, .ro, 0, .W⟩]⟩]

/-- The registers of block AUD, as R485 give them. -/
def RegMap.rowsAud : List RegRow := [
  ⟨0x400000, [(4, 0x1000)], [⟨0, 3, .ro, 0, .A⟩, ⟨3, 1, .ro, 0, .A⟩, ⟨16, 16, .ro, 0, .A⟩]⟩,
  ⟨0x400004, [(4, 0x1000)], [⟨0, 1, .lo, 0, .D⟩]⟩,
  ⟨0x400008, [(4, 0x1000)], [⟨0, 2, .ro, 0, .W⟩, ⟨2, 1, .ro, 0, .W⟩, ⟨3, 1, .ro, 0, .W⟩, ⟨4, 5, .ro, 0, .W⟩, ⟨9, 2, .ro, 0, .W⟩, ⟨11, 1, .ro, 0, .W⟩, ⟨12, 1, .ro, 0, .W⟩, ⟨13, 1, .ro, 0, .W⟩, ⟨14, 2, .ro, 0, .W⟩, ⟨16, 8, .ro, 0, .W⟩, ⟨24, 4, .ro, 0, .W⟩]⟩,
  ⟨0x40000c, [(4, 0x1000)], [⟨0, 32, .ro, 0, .W⟩]⟩,
  ⟨0x400010, [(4, 0x1000)], [⟨0, 2, .ro, 0, .H⟩, ⟨2, 1, .rw, 0, .H⟩, ⟨3, 1, .rw, 0, .H⟩]⟩,
  ⟨0x400014, [(4, 0x1000)], [⟨0, 24, .ro, 0, .W⟩, ⟨24, 4, .ro, 0, .W⟩]⟩,
  ⟨0x400018, [(4, 0x1000)], [⟨0, 4, .ro, 0, .V⟩, ⟨4, 1, .ro, 0, .V⟩, ⟨8, 10, .ro, 0, .V⟩]⟩,
  ⟨0x40001c, [(4, 0x1000)], [⟨0, 32, .ro, 0, .H⟩]⟩,
  ⟨0x400020, [(4, 0x1000)], [⟨0, 32, .ro, 0, .H⟩]⟩,
  ⟨0x400030, [(4, 0x1000)], [⟨0, 32, .rc, 0, .H⟩]⟩,
  ⟨0x400034, [(4, 0x1000)], [⟨0, 32, .rc, 0, .H⟩]⟩,
  ⟨0x400038, [(4, 0x1000)], [⟨0, 32, .rc, 0, .H⟩]⟩,
  ⟨0x40003c, [(4, 0x1000)], [⟨0, 32, .rc, 0, .H⟩]⟩,
  ⟨0x400040, [(4, 0x1000)], [⟨0, 32, .rc, 0, .H⟩]⟩,
  ⟨0x400044, [(4, 0x1000)], [⟨0, 32, .rc, 0, .H⟩]⟩,
  ⟨0x400048, [(4, 0x1000)], [⟨0, 32, .rc, 0, .H⟩]⟩,
  ⟨0x40004c, [(4, 0x1000)], [⟨0, 32, .rc, 0, .H⟩]⟩,
  ⟨0x400100, [(4, 0x1000), (32, 8)], [⟨0, 12, .ro, 0, .W⟩, ⟨12, 2, .ro, 0, .W⟩, ⟨15, 1, .ro, 0, .W⟩, ⟨16, 4, .ro, 0, .W⟩, ⟨20, 1, .ro, 0, .W⟩, ⟨21, 1, .ro, 0, .W⟩, ⟨24, 4, .ro, 0, .W⟩, ⟨28, 1, .ro, 0, .W⟩, ⟨29, 1, .ro, 0, .W⟩]⟩,
  ⟨0x400104, [(4, 0x1000), (32, 8)], [⟨0, 1, .ro, 0, .V⟩, ⟨16, 16, .ro, 0, .V⟩]⟩,
  ⟨0x400200, [(4, 0x1000), (32, 8)], [⟨0, 32, .ro, 0, .V⟩]⟩,
  ⟨0x400204, [(4, 0x1000), (32, 8)], [⟨0, 2, .ro, 0, .V⟩, ⟨2, 1, .ro, 0, .V⟩]⟩]

/-- The registers of block ARR, as R430, R459 give them. -/
def RegMap.rowsArr : List RegRow := [
  ⟨0x420000, [], [⟨0, 2, .ro, 0, .A⟩, ⟨2, 1, .ro, 0, .A⟩, ⟨3, 1, .ro, 0, .A⟩, ⟨16, 16, .ro, 0, .A⟩]⟩,
  ⟨0x420004, [], [⟨0, 1, .rw, 0, .H⟩, ⟨1, 1, .rw, 0, .H⟩, ⟨2, 1, .rw, 0, .H⟩]⟩,
  ⟨0x420008, [], [⟨0, 32, .ro, 0, .H⟩]⟩,
  ⟨0x42000c, [], [⟨0, 32, .rc, 0, .H⟩]⟩,
  ⟨0x420010, [], [⟨0, 16, .rw, 0, .H⟩, ⟨16, 8, .rw, 0, .H⟩, ⟨24, 1, .w1s, 0, .H⟩, ⟨25, 1, .rw, 0, .H⟩, ⟨26, 1, .ro, 0, .H⟩, ⟨27, 1, .w1c, 0, .H⟩]⟩,
  ⟨0x420014, [], [⟨0, 32, .rc, 0, .H⟩]⟩,
  ⟨0x420018, [], [⟨0, 32, .rc, 0, .H⟩]⟩,
  ⟨0x42001c, [], [⟨0, 32, .rc, 0, .H⟩]⟩,
  ⟨0x420020, [], [⟨0, 1, .ro, 0, .W⟩, ⟨1, 1, .ro, 0, .W⟩]⟩,
  ⟨0x420100, [(16, 0x20)], [⟨0, 1, .rw, 0, .H⟩, ⟨1, 2, .ro, 0, .W⟩, ⟨3, 7, .rw, 0, .H⟩, ⟨10, 1, .rw, 0, .H⟩, ⟨11, 1, .ro, 0, .W⟩, ⟨12, 4, .ro, 0, .W⟩, ⟨16, 2, .ro, 0, .W⟩, ⟨18, 1, .rw, 0, .H⟩]⟩,
  ⟨0x420104, [(16, 0x20)], [⟨0, 3, .ro, 0, .W⟩, ⟨3, 1, .ro, 0, .W⟩, ⟨4, 9, .ro, 0, .W⟩, ⟨16, 7, .ro, 0, .W⟩]⟩,
  ⟨0x420108, [(16, 0x20)], [⟨0, 3, .ro, 0, .W⟩, ⟨3, 1, .ro, 0, .W⟩, ⟨4, 9, .ro, 0, .W⟩, ⟨16, 7, .ro, 0, .W⟩]⟩,
  ⟨0x42010c, [(16, 0x20)], [⟨0, 12, .ro, 0, .W⟩, ⟨15, 1, .ro, 0, .W⟩]⟩,
  ⟨0x420110, [(16, 0x20)], [⟨0, 6, .ro, 0, .W⟩, ⟨8, 6, .ro, 0, .W⟩]⟩,
  ⟨0x420114, [(16, 0x20)], [⟨0, 16, .ro, 0, .W⟩, ⟨16, 16, .ro, 0, .W⟩]⟩,
  ⟨0x420118, [(16, 0x20)], [⟨0, 32, .rc, 0, .H⟩]⟩,
  ⟨0x42011c, [(16, 0x20)], [⟨0, 1, .ro, 0, .V⟩, ⟨16, 16, .ro, 0, .V⟩]⟩,
  ⟨0x420300, [(8, 0x10)], [⟨0, 1, .rw, 0, .H⟩, ⟨1, 8, .rw, 0, .H⟩, ⟨9, 1, .rw, 0, .H⟩, ⟨10, 4, .ro, 0, .W⟩, ⟨14, 1, .ro, 0, .W⟩]⟩,
  ⟨0x420304, [(8, 0x10)], [⟨0, 16, .ro, 0, .W⟩, ⟨16, 16, .ro, 0, .W⟩]⟩,
  ⟨0x420308, [(8, 0x10)], [⟨0, 32, .ro, 0, .V⟩]⟩,
  ⟨0x42030c, [(8, 0x10)], [⟨0, 2, .ro, 0, .V⟩, ⟨2, 1, .ro, 0, .V⟩]⟩,
  ⟨0x420400, [(8, 0x10)], [⟨0, 1, .ro, 0, .W⟩, ⟨1, 6, .ro, 0, .W⟩, ⟨7, 6, .ro, 0, .W⟩, ⟨13, 1, .ro, 0, .W⟩, ⟨14, 8, .rw, 0, .H⟩, ⟨22, 2, .rw, 0, .H⟩, ⟨24, 2, .ro, 0, .W⟩]⟩,
  ⟨0x420404, [(8, 0x10)], [⟨0, 32, .ro, 0, .H⟩]⟩,
  ⟨0x420408, [(8, 0x10)], [⟨0, 32, .ro, 0, .H⟩]⟩,
  ⟨0x42040c, [(8, 0x10)], [⟨0, 32, .rc, 0, .H⟩]⟩,
  ⟨0x420500, [(4, 8)], [⟨0, 1, .rw, 0, .A⟩, ⟨1, 6, .ro, 0, .A⟩, ⟨7, 7, .rw, 0, .A⟩, ⟨14, 8, .rw, 0, .A⟩, ⟨22, 1, .rw, 0, .A⟩]⟩,
  ⟨0x420504, [(4, 8)], [⟨0, 1, .ro, 0, .A⟩, ⟨1, 1, .w1c, 0, .A⟩]⟩,
  ⟨0x420600, [], [⟨0, 7, .rw, 0, .H⟩]⟩,
  ⟨0x420604, [], [⟨0, 32, .ro, 0, .W⟩]⟩,
  ⟨0x420608, [], [⟨0, 32, .ro, 0, .W⟩]⟩,
  ⟨0x420700, [(12, 8)], [⟨0, 3, .ro, 0, .W⟩, ⟨3, 10, .ro, 0, .W⟩, ⟨13, 10, .ro, 0, .W⟩, ⟨31, 1, .ro, 0, .W⟩]⟩,
  ⟨0x420704, [(12, 8)], [⟨0, 10, .ro, 0, .W⟩]⟩,
  ⟨0x420800, [], [⟨0, 2, .ro, 0, .A⟩, ⟨2, 1, .ro, 0, .A⟩, ⟨16, 16, .ro, 0, .A⟩]⟩,
  ⟨0x420804, [], [⟨0, 1, .rw, 0, .W⟩, ⟨1, 1, .w1s, 0, .W⟩, ⟨2, 1, .w1s, 0, .W⟩]⟩,
  ⟨0x420808, [], [⟨0, 2, .ro, 0, .W⟩, ⟨2, 4, .ro, 0, .W⟩, ⟨8, 8, .ro, 0, .W⟩]⟩,
  ⟨0x42080c, [], [⟨0, 16, .rw, 0, .W⟩]⟩,
  ⟨0x420810, [], [⟨0, 16, .ro, 0, .V⟩]⟩,
  ⟨0x420814, [], [⟨0, 32, .rc, 0, .H⟩]⟩,
  ⟨0x420818, [], [⟨0, 4, .rw, 0, .H⟩, ⟨4, 9, .rw, 0, .H⟩]⟩,
  ⟨0x42081c, [], [⟨0, 32, .rw, 0, .H⟩]⟩] ++ [
  ⟨0x420820, [], [⟨0, 4, .rw, 0, .H⟩]⟩,
  ⟨0x420840, [(16, 4)], [⟨0, 4, .ro, 0, .W⟩, ⟨4, 1, .ro, 0, .W⟩, ⟨5, 1, .ro, 0, .W⟩, ⟨8, 4, .ro, 0, .W⟩, ⟨12, 1, .ro, 0, .W⟩, ⟨13, 1, .ro, 0, .W⟩]⟩]

/-- The registers of block MB, as R518 give them. -/
def RegMap.rowsMb : List RegRow := [
  ⟨0x440000, [], [⟨0, 2, .ro, 0, .A⟩, ⟨2, 7, .ro, 0, .A⟩, ⟨16, 16, .ro, 0, .A⟩]⟩,
  ⟨0x440004, [], [⟨0, 5, .rw, 5, .D⟩]⟩,
  ⟨0x440008, [], [⟨0, 6, .rw, 0x19, .A⟩]⟩,
  ⟨0x44000c, [], [⟨0, 1, .rw, 1, .A⟩, ⟨1, 1, .rw, 0, .A⟩]⟩,
  ⟨0x440010, [], [⟨0, 8, .ro, 0, .A⟩, ⟨8, 8, .ro, 0, .A⟩, ⟨16, 16, .ro, 0, .A⟩]⟩,
  ⟨0x440020, [], [⟨0, 32, .rc, 0, .H⟩]⟩,
  ⟨0x440024, [], [⟨0, 32, .rc, 0, .H⟩]⟩,
  ⟨0x440028, [], [⟨0, 32, .rc, 0, .H⟩]⟩,
  ⟨0x44002c, [], [⟨0, 32, .rc, 0, .H⟩]⟩,
  ⟨0x440030, [], [⟨0, 32, .rc, 0, .H⟩]⟩,
  ⟨0x440100, [], [⟨0, 7, .rw, 0, .D⟩, ⟨8, 8, .rw, 0, .D⟩, ⟨16, 3, .rw, 0, .D⟩, ⟨19, 1, .rw, 0, .D⟩, ⟨20, 2, .rw, 0, .D⟩, ⟨24, 1, .w1s, 0, .D⟩]⟩,
  ⟨0x440104, [], [⟨0, 16, .rw, 0, .D⟩]⟩,
  ⟨0x440108, [], [⟨0, 1, .ro, 0, .D⟩, ⟨1, 4, .ro, 0, .D⟩]⟩,
  ⟨0x44013c, [], [⟨0, 10, .rw, 0, .D⟩]⟩,
  ⟨0x440140, [(8, 8)], [⟨0, 7, .rw, 0, .D⟩, ⟨8, 8, .rw, 0, .D⟩, ⟨16, 3, .rw, 0, .D⟩, ⟨19, 1, .rw, 0, .D⟩, ⟨31, 1, .rw, 0, .D⟩]⟩,
  ⟨0x440144, [(8, 8)], [⟨0, 16, .ro, 0, .D⟩, ⟨16, 4, .ro, 0, .D⟩, ⟨20, 12, .ro, 0, .D⟩]⟩]

/-- The registers of block SVC, as R549 give them. -/
def RegMap.rowsSvc : List RegRow := [
  ⟨0x450000, [], [⟨0, 2, .ro, 0, .A⟩, ⟨16, 16, .ro, 0, .A⟩]⟩,
  ⟨0x450004, [], [⟨0, 4, .rw, 4, .A⟩]⟩,
  ⟨0x450008, [], [⟨0, 1, .w1s, 0, .H⟩, ⟨2, 2, .rw, 0, .H⟩, ⟨4, 3, .rw, 0, .H⟩]⟩,
  ⟨0x45000c, [], [⟨0, 8, .ro, 0, .A⟩, ⟨8, 8, .ro, 0, .A⟩, ⟨16, 16, .ro, 0, .A⟩]⟩,
  ⟨0x450010, [], [⟨0, 32, .rc, 0, .H⟩]⟩,
  ⟨0x450014, [], [⟨0, 32, .rc, 0, .H⟩]⟩,
  ⟨0x451000, [], [⟨0, 1, .ro, 0, .W⟩, ⟨1, 1, .w1c, 0, .W⟩, ⟨2, 1, .w1c, 0, .W⟩, ⟨3, 2, .ro, 0, .W⟩, ⟨5, 1, .ro, 0, .W⟩, ⟨6, 1, .ro, 0, .W⟩]⟩,
  ⟨0x451004, [], [⟨0, 7, .rw, 0, .W⟩]⟩,
  ⟨0x451008, [], [⟨0, 8, .rw, 0, .H⟩, ⟨8, 3, .rw, 0, .H⟩, ⟨11, 2, .rw, 0, .H⟩, ⟨13, 5, .rw, 0, .H⟩, ⟨18, 1, .rw, 0, .H⟩, ⟨19, 9, .rw, 0, .H⟩, ⟨31, 1, .w1s, 0, .H⟩]⟩,
  ⟨0x45100c, [], [⟨0, 32, .rw, 0, .H⟩]⟩,
  ⟨0x451010, [], [⟨0, 32, .ro, 0, .W⟩]⟩,
  ⟨0x451100, [(64, 4)], [⟨0, 32, .rw, 0, .V⟩]⟩,
  ⟨0x452000, [], [⟨0, 3, .ro, 0, .A⟩, ⟨3, 1, .ro, 0, .A⟩, ⟨16, 16, .ro, 0, .A⟩]⟩,
  ⟨0x452004, [], [⟨0, 10, .rw, 0, .H⟩, ⟨16, 4, .rw, 0, .H⟩, ⟨20, 1, .rw, 1, .H⟩]⟩,
  ⟨0x452008, [], [⟨0, 32, .rc, 0, .H⟩]⟩,
  ⟨0x45200c, [], [⟨0, 32, .rc, 0, .H⟩]⟩,
  ⟨0x452040, [(16, 4)], [⟨2, 24, .rw, 0, .H⟩]⟩]

/-- The registers of block SEC, as R348 give them. -/
def RegMap.rowsSec : List RegRow := [
  ⟨0x480000, [], [⟨0, 1, .ro, 0, .A⟩, ⟨1, 1, .ro, 0, .A⟩, ⟨2, 1, .ro, 0, .A⟩, ⟨3, 1, .ro, 0, .A⟩, ⟨4, 1, .ro, 0, .A⟩]⟩,
  ⟨0x480004, [], [⟨0, 7, .ro, 0, .A⟩]⟩,
  ⟨0x480008, [], [⟨0, 7, .wo, 0, .A⟩, ⟨16, 16, .wo, 0, .A⟩]⟩,
  ⟨0x48000c, [], [⟨0, 7, .ro, 0, .W⟩]⟩,
  ⟨0x480010, [(12, 4)], [⟨0, 32, .ro, 0, .A⟩]⟩,
  ⟨0x480040, [], [⟨0, 5, .rw, 0, .H⟩]⟩,
  ⟨0x480044, [], [⟨0, 32, .wo, 0, .H⟩]⟩,
  ⟨0x480048, [], [⟨0, 1, .w1s, 0, .H⟩, ⟨1, 1, .ro, 0, .H⟩, ⟨2, 1, .w1c, 0, .H⟩]⟩,
  ⟨0x480050, [], [⟨0, 1, .ro, 0, .W⟩, ⟨1, 1, .w1c, 0, .W⟩, ⟨2, 1, .w1c, 0, .W⟩]⟩]

/-- The registers of block VFW, as R355, R371 give them. -/
def RegMap.rowsVfw : List RegRow := [
  ⟨0x4000014, [(64, 0x10000)], [⟨0, 16, .rc, 0, .H⟩]⟩,
  ⟨0x4000018, [(64, 0x10000)], [⟨0, 32, .rw, 0, .H⟩]⟩,
  ⟨0x4008000, [(64, 0x10000), (256, 0x10), (3, 4)], [⟨0, 32, .rw, 0, .H⟩]⟩,
  ⟨0x400800c, [(64, 0x10000), (256, 0x10)], [⟨0, 1, .rw, 1, .H⟩]⟩,
  ⟨0x400c000, [(64, 0x10000), (8, 4)], [⟨0, 32, .ro, 0, .H⟩]⟩]

/-- The blocks of BAR0 (R645). -/
def RegMap.blocks : List RegBlock := [
  ⟨0, 0x10000, RegMap.rowsGen⟩,
  ⟨0x10000, 0x20000, RegMap.rowsTb⟩,
  ⟨0x20000, 0x30000, RegMap.rowsTt⟩,
  ⟨0x30000, 0x40000, RegMap.rowsMsix⟩,
  ⟨0x40000, 0x50000, RegMap.rowsLedg⟩,
  ⟨0x50000, 0x60000, RegMap.rowsCatch⟩,
  ⟨0x60000, 0x80000, RegMap.rowsPck⟩,
  ⟨0x80000, 0xc0000, RegMap.rowsHq⟩,
  ⟨0xc0000, 0x100000, RegMap.rowsImg⟩,
  ⟨0x100000, 0x300000, RegMap.rowsBench⟩,
  ⟨0x300000, 0x380000, RegMap.rowsKv⟩,
  ⟨0x380000, 0x3c0000, RegMap.rowsFar⟩,
  ⟨0x3c0000, 0x400000, RegMap.rowsStore⟩,
  ⟨0x400000, 0x420000, RegMap.rowsAud⟩,
  ⟨0x420000, 0x440000, RegMap.rowsArr⟩,
  ⟨0x440000, 0x450000, RegMap.rowsMb⟩,
  ⟨0x450000, 0x480000, RegMap.rowsSvc⟩,
  ⟨0x480000, 0x490000, RegMap.rowsSec⟩,
  ⟨0x4000000, 0x4400000, RegMap.rowsVfw⟩]

/-- Whether the distance `rel` from an array's first element is one of its elements. -/
def RegRow.covers : List (Nat × Nat) → Nat → Bool
  | [], rel => rel == 0
  | (n, stride) :: ds, rel => rel / stride < n && RegRow.covers ds (rel % stride)

/-- The row that describes the register at offset `off` of one block. -/
def RegMap.findRow (off : Nat) : List RegRow → Option RegRow
  | [] => none
  | r :: rs => if r.base ≤ off && RegRow.covers r.dims (off - r.base) then some r else RegMap.findRow off rs

/-- The row that describes the register at BAR0 offset `off`; none where no register lies (R11). -/
def RegMap.rowIn (off : Nat) : List RegBlock → Option RegRow
  | [] => none
  | b :: bs => if b.lo ≤ off && off < b.hi then RegMap.findRow off b.rows else RegMap.rowIn off bs

/-- The row of the register at BAR0 offset `off`. -/
def RegMap.row (off : Nat) : Option RegRow := RegMap.rowIn off RegMap.blocks

/-- The fields of the register at offset `off`; none of them where no register lies. -/
def RegMap.fields (off : Nat) : List FieldSpec :=
  match RegMap.row off with
  | some r => r.fields
  | none => []

/-- The reset value of the word at offset `off`: each field's reset value in its place (R6, R8). -/
def RegMap.resetWord (off : Nat) : BitVec 32 :=
  (RegMap.fields off).foldl (fun a f => a ||| (BitVec.ofNat 32 f.reset <<< f.lo)) 0

abbrev F.GEN_VENDOR_ID_PCIVID : Fld := ⟨0, 0, 16⟩
abbrev F.GEN_VENDOR_ID_USBVID : Fld := ⟨0, 16, 16⟩
abbrev F.GEN_DEVICE_ID_PCIDID : Fld := ⟨4, 0, 16⟩
abbrev F.GEN_DEVICE_ID_USBPID : Fld := ⟨4, 16, 16⟩
abbrev F.GEN_STEPPING_LETTER : Fld := ⟨8, 0, 8⟩
abbrev F.GEN_STEPPING_DIGIT : Fld := ⟨8, 8, 8⟩
abbrev F.GEN_GRADE_SPEED : Fld := ⟨0xc, 0, 8⟩
abbrev F.GEN_GRADE_PMAX : Fld := ⟨0xc, 8, 12⟩
abbrev F.GEN_SHAPE_BENCHES : Fld := ⟨0x10, 0, 8⟩
abbrev F.GEN_SHAPE_PARTS : Fld := ⟨0x10, 8, 4⟩
abbrev F.GEN_SHAPE_MODELS : Fld := ⟨0x10, 12, 5⟩
abbrev F.GEN_SHAPE_STREAMS : Fld := ⟨0x10, 17, 13⟩
abbrev F.GEN_BAD_ACCESS_COUNT : Fld := ⟨0x14, 0, 16⟩
abbrev F.GEN_SCRATCH_VALUE : Fld := ⟨0x18, 0, 32⟩
abbrev F.GEN_STRAPS_TBFSEL : Fld := ⟨0x20, 0, 1⟩
abbrev F.GEN_STRAPS_RESTSEL : Fld := ⟨0x20, 1, 1⟩
abbrev F.GEN_STRAPS_BOOTSEL : Fld := ⟨0x20, 2, 2⟩
abbrev F.GEN_STRAPS_MADDR : Fld := ⟨0x20, 4, 2⟩
abbrev F.GEN_STRAPS_QSPD : Fld := ⟨0x20, 6, 1⟩
abbrev F.GEN_PINS_PWR_OK : Fld := ⟨0x24, 0, 1⟩
abbrev F.GEN_PINS_COLD_N : Fld := ⟨0x24, 1, 1⟩
abbrev F.GEN_PINS_PERST_N : Fld := ⟨0x24, 2, 1⟩
abbrev F.GEN_PINS_VBUS : Fld := ⟨0x24, 3, 1⟩
abbrev F.GEN_PINS_VID : Fld := ⟨0x24, 4, 5⟩
abbrev F.GEN_PINS_CATCH_N : Fld := ⟨0x24, 9, 1⟩
abbrev F.GEN_PINS_CORE_EN : Fld := ⟨0x24, 10, 1⟩
abbrev F.GEN_PINS_STORE_EN : Fld := ⟨0x24, 11, 1⟩
abbrev F.GEN_PINS_FAR_EN : Fld := ⟨0x24, 12, 1⟩
abbrev F.GEN_PINS_STORE_RET : Fld := ⟨0x24, 13, 1⟩
abbrev F.TB_NOW_LO_NOW : Fld := ⟨0x10000, 0, 32⟩
abbrev F.TB_NOW_HI_NOW : Fld := ⟨0x10004, 0, 32⟩
abbrev F.TB_STATUS_STATE : Fld := ⟨0x10008, 0, 3⟩
abbrev F.TB_STATUS_REF25 : Fld := ⟨0x10008, 3, 1⟩
abbrev F.TB_STATUS_PPS_OK : Fld := ⟨0x10008, 4, 1⟩
abbrev F.TB_STATUS_CLAMP : Fld := ⟨0x10008, 5, 1⟩
abbrev F.TB_STATUS_SLEWING : Fld := ⟨0x10008, 6, 1⟩
abbrev F.TB_STATUS_XTAL : Fld := ⟨0x10008, 7, 1⟩
abbrev F.TB_STATUS_PPSOUT_FENCED : Fld := ⟨0x10008, 8, 1⟩
abbrev F.TB_STATUS_EPOCH : Fld := ⟨0x10008, 16, 16⟩
abbrev F.TB_DISC_CTL_MODE : Fld := ⟨0x1000c, 0, 2⟩
abbrev F.TB_DISC_CTL_PPS_EDGE : Fld := ⟨0x1000c, 2, 1⟩
abbrev F.TB_DISC_CTL_FAR_SLEW : Fld := ⟨0x1000c, 3, 1⟩
abbrev F.TB_DISC_CTL_KP_SHIFT : Fld := ⟨0x1000c, 4, 4⟩
abbrev F.TB_DISC_CTL_KI_SHIFT : Fld := ⟨0x1000c, 8, 4⟩
abbrev F.TB_DISC_CTL_PPS_WIN : Fld := ⟨0x1000c, 12, 8⟩
abbrev F.TB_DISC_CTL_SLEW_PPM : Fld := ⟨0x1000c, 20, 6⟩
abbrev F.TB_TRIM_TRIM : Fld := ⟨0x10010, 0, 32⟩
abbrev F.TB_SLEW_REMAIN : Fld := ⟨0x10014, 0, 24⟩
abbrev F.TB_PPS_STAMP_LO_STAMP : Fld := ⟨0x10018, 0, 32⟩
abbrev F.TB_PPS_STAMP_HI_STAMP : Fld := ⟨0x1001c, 0, 32⟩
abbrev F.TB_PPS_ERR_ERR : Fld := ⟨0x10020, 0, 16⟩
abbrev F.TB_PPS_ERR_REJECTS : Fld := ⟨0x10020, 16, 8⟩
abbrev F.TB_PPS_ERR_MISSES : Fld := ⟨0x10020, 24, 8⟩
abbrev F.TB_PPS_PHASE_PHASE : Fld := ⟨0x10024, 0, 28⟩
abbrev F.TB_SET_LO_SET : Fld := ⟨0x10028, 0, 32⟩
abbrev F.TB_SET_HI_SET : Fld := ⟨0x1002c, 0, 32⟩
abbrev F.TB_SET_CTL_ARM : Fld := ⟨0x10030, 0, 1⟩
abbrev F.TB_SET_CTL_DONE : Fld := ⟨0x10030, 1, 1⟩
abbrev F.TB_SET_CTL_REFUSED : Fld := ⟨0x10030, 2, 1⟩
abbrev F.TB_SET_CTL_CANCEL : Fld := ⟨0x10030, 3, 1⟩
abbrev F.TB_PPSOUT_CTL_EN : Fld := ⟨0x10034, 0, 1⟩
abbrev F.TB_PPSOUT_CTL_WIDTH_MS : Fld := ⟨0x10034, 8, 8⟩
abbrev F.TB_PPSOUT_OFS_OFS : Fld := ⟨0x10038, 0, 28⟩
abbrev F.TB_UNC_UNC_NS : Fld := ⟨0x1003c, 0, 31⟩
abbrev F.TB_UNC_LIMIT_LIMIT_NS : Fld := ⟨0x10040, 0, 31⟩
abbrev F.TB_REST_RATIO_FRAC : Fld := ⟨0x10044, 0, 8⟩
abbrev F.TB_REST_RATIO_INT : Fld := ⟨0x10044, 8, 24⟩
abbrev F.TB_TURN_LEN_LEN (i : Nat) : Fld := ⟨0x10080 + 4 * i, 0, 27⟩
abbrev F.TB_TURN_ORG_LO_ORG (i : Nat) : Fld := ⟨0x100a0 + 8 * i, 0, 32⟩
abbrev F.TB_TURN_ORG_HI_ORG (i : Nat) : Fld := ⟨0x100a4 + 8 * i, 0, 32⟩
abbrev F.TT_STATUS_RUN (i : Nat) : Fld := ⟨0x20000 + 0x40 * i, 0, 1⟩
abbrev F.TT_STATUS_SOFT (i : Nat) : Fld := ⟨0x20000 + 0x40 * i, 1, 1⟩
abbrev F.TT_STATUS_DERATED (i : Nat) : Fld := ⟨0x20000 + 0x40 * i, 2, 1⟩
abbrev F.TT_STATUS_HASDER (i : Nat) : Fld := ⟨0x20000 + 0x40 * i, 3, 1⟩
abbrev F.TT_STATUS_STAGED (i : Nat) : Fld := ⟨0x20000 + 0x40 * i, 4, 1⟩
abbrev F.TT_STATUS_EPOCH (i : Nat) : Fld := ⟨0x20000 + 0x40 * i, 16, 16⟩
abbrev F.TT_COUNT_NORMAL (i : Nat) : Fld := ⟨0x20004 + 0x40 * i, 0, 15⟩
abbrev F.TT_COUNT_DERATED (i : Nat) : Fld := ⟨0x20004 + 0x40 * i, 16, 15⟩
abbrev F.TT_TURN_TURN (i : Nat) : Fld := ⟨0x20008 + 0x40 * i, 0, 32⟩
abbrev F.TT_ORG_LO_ORG (i : Nat) : Fld := ⟨0x2000c + 0x40 * i, 0, 32⟩
abbrev F.TT_ORG_HI_ORG (i : Nat) : Fld := ⟨0x20010 + 0x40 * i, 0, 32⟩
abbrev F.TT_LATE (i : Nat) : Fld := ⟨0x20014 + 0x40 * i, 0, 32⟩
abbrev F.TT_MISSED (i : Nat) : Fld := ⟨0x20018 + 0x40 * i, 0, 32⟩
abbrev F.TT_PARTIAL (i : Nat) : Fld := ⟨0x2001c + 0x40 * i, 0, 32⟩
abbrev F.TT_FAIL (i : Nat) : Fld := ⟨0x20020 + 0x40 * i, 0, 32⟩
abbrev F.TT_DROPPED (i : Nat) : Fld := ⟨0x20024 + 0x40 * i, 0, 32⟩
abbrev F.TT_WAKESHORT (i : Nat) : Fld := ⟨0x20028 + 0x40 * i, 0, 32⟩
abbrev F.TT_WORST (i : Nat) : Fld := ⟨0x2002c + 0x40 * i, 0, 32⟩
abbrev F.TT_SLACK (i : Nat) : Fld := ⟨0x20030 + 0x40 * i, 0, 32⟩
abbrev F.TT_SR_SEED_LO_SEED (i : Nat) : Fld := ⟨0x20034 + 0x40 * i, 0, 32⟩
abbrev F.TT_SR_SEED_HI_SEED (i : Nat) : Fld := ⟨0x20038 + 0x40 * i, 0, 32⟩
abbrev F.TT_WIN_SEL_PART : Fld := ⟨0x20400, 0, 3⟩
abbrev F.TT_WIN_SEL_PLANE : Fld := ⟨0x20400, 3, 1⟩
abbrev F.TT_WIN_SEL_TABLE : Fld := ⟨0x20400, 4, 1⟩
abbrev F.TT_WIN_SEL_INDEX : Fld := ⟨0x20400, 8, 14⟩
abbrev F.TT_WIN_DATA_WORD (i : Nat) : Fld := ⟨0x20404 + 4 * i, 0, 32⟩
abbrev F.TT_GRP_SEL_PART : Fld := ⟨0x20420, 0, 3⟩
abbrev F.TT_GRP_SEL_PLANE : Fld := ⟨0x20420, 3, 1⟩
abbrev F.TT_GRP_SEL_GROUP : Fld := ⟨0x20420, 8, 6⟩
abbrev F.TT_GRP_CFG_PERIODM1 : Fld := ⟨0x20424, 0, 4⟩
abbrev F.TT_GRP_CFG_BASE : Fld := ⟨0x20424, 4, 4⟩
abbrev F.TT_GRP_CFG_SPREAD : Fld := ⟨0x20424, 8, 2⟩
abbrev F.TT_GRP_CFG_STAGESM1 : Fld := ⟨0x20424, 10, 4⟩
abbrev F.TT_GRP_CFG_VALID : Fld := ⟨0x20424, 14, 1⟩
abbrev F.TT_GRP_CFG_NOMINAL : Fld := ⟨0x20424, 16, 16⟩
abbrev F.TT_GRP_DL : Fld := ⟨0x20428, 0, 32⟩
abbrev F.TT_GRP_LL : Fld := ⟨0x2042c, 0, 32⟩
abbrev F.TT_GRP_OVR : Fld := ⟨0x20430, 0, 32⟩
abbrev F.TT_GRP_DDL : Fld := ⟨0x20434, 0, 32⟩
abbrev F.TT_GRP_DLL : Fld := ⟨0x20438, 0, 32⟩
abbrev F.MSIX_TABLE (i j : Nat) : Fld := ⟨0x30000 + 0x10 * i + 4 * j, 0, 32⟩
abbrev F.MSIX_VCTL_MASK (i : Nat) : Fld := ⟨0x3000c + 0x10 * i, 0, 1⟩
abbrev F.MSIX_PBA (i : Nat) : Fld := ⟨0x38000 + 4 * i, 0, 32⟩
abbrev F.LEDG_ORDER_ARG_ARG : Fld := ⟨0x40000, 0, 32⟩
abbrev F.LEDG_ORDER_UNIT : Fld := ⟨0x40004, 0, 7⟩
abbrev F.LEDG_ORDER_KIND : Fld := ⟨0x40004, 8, 8⟩
abbrev F.LEDG_PART_EN_PARTS : Fld := ⟨0x40008, 0, 8⟩
abbrev F.LEDG_OSTAT_KIND (i : Nat) : Fld := ⟨0x40010 + 4 * i, 0, 8⟩
abbrev F.LEDG_OSTAT_STATUS (i : Nat) : Fld := ⟨0x40010 + 4 * i, 8, 8⟩
abbrev F.LEDG_OSTAT_EPOCH (i : Nat) : Fld := ⟨0x40010 + 4 * i, 16, 16⟩
abbrev F.LEDG_OVERRULED : Fld := ⟨0x40030, 0, 32⟩
abbrev F.LEDG_REFUSED : Fld := ⟨0x40034, 0, 32⟩
abbrev F.LEDG_MISMATCHES : Fld := ⟨0x40038, 0, 32⟩
abbrev F.LEDG_TT_REJECTS : Fld := ⟨0x4003c, 0, 32⟩
abbrev F.LEDG_UNIT_STATE (i : Nat) : Fld := ⟨0x40100 + 4 * i, 0, 4⟩
abbrev F.LEDG_UNIT_FENCED (i : Nat) : Fld := ⟨0x40100 + 4 * i, 6, 1⟩
abbrev F.LEDG_UNIT_PENDING (i : Nat) : Fld := ⟨0x40100 + 4 * i, 7, 1⟩
abbrev F.LEDG_UNIT_EPOCH (i : Nat) : Fld := ⟨0x40100 + 4 * i, 16, 16⟩
abbrev F.LEDG_GROUPS_LO (i : Nat) : Fld := ⟨0x40300 + 8 * i, 0, 32⟩
abbrev F.LEDG_GROUPS_HI (i : Nat) : Fld := ⟨0x40304 + 8 * i, 0, 32⟩
abbrev F.CATCH_CTL_MSI_MIN : Fld := ⟨0x50000, 0, 2⟩
abbrev F.CATCH_CTL_PIN_MIN : Fld := ⟨0x50000, 2, 2⟩
abbrev F.CATCH_CTL_PIN_PATHS : Fld := ⟨0x50000, 4, 4⟩
abbrev F.CATCH_WPOS : Fld := ⟨0x50004, 0, 32⟩
abbrev F.CATCH_RPOS (i : Nat) : Fld := ⟨0x50010 + 4 * i, 0, 32⟩
abbrev F.CATCH_LOST (i : Nat) : Fld := ⟨0x50020 + 4 * i, 0, 32⟩
abbrev F.CATCH_FATAL (i : Nat) : Fld := ⟨0x50040 + 4 * i, 0, 32⟩
abbrev F.CATCH_LOG (i : Nat) : Fld := ⟨0x58000 + 4 * i, 0, 32⟩
abbrev F.PCK_STATUS_DEV : Fld := ⟨0x60000, 0, 3⟩
abbrev F.PCK_STATUS_WAKESRC : Fld := ⟨0x60000, 3, 4⟩
abbrev F.PCK_STATUS_LASTRESET : Fld := ⟨0x60000, 8, 3⟩
abbrev F.PCK_STATUS_PERST_SEEN : Fld := ⟨0x60000, 11, 1⟩
abbrev F.PCK_REST_CFG_STORE_KEEP : Fld := ⟨0x60004, 0, 1⟩
abbrev F.PCK_REST_ORDER_ENTER : Fld := ⟨0x60008, 0, 1⟩
abbrev F.PCK_REST_TIMER_SECONDS : Fld := ⟨0x6000c, 0, 32⟩
abbrev F.PCK_TILE_MHZ_NORMAL : Fld := ⟨0x60010, 0, 12⟩
abbrev F.PCK_TILE_MHZ_DERATE : Fld := ⟨0x60010, 16, 12⟩
abbrev F.PCK_NOC_MHZ_MHZ : Fld := ⟨0x60014, 0, 11⟩
abbrev F.PCK_DERATE_PARTS : Fld := ⟨0x60018, 0, 8⟩
abbrev F.PCK_THERM_CTL_TDERATE : Fld := ⟨0x6001c, 0, 8⟩
abbrev F.PCK_THERM_CTL_HYST : Fld := ⟨0x6001c, 8, 4⟩
abbrev F.PCK_THERM_CTL_AUTO_MASK : Fld := ⟨0x6001c, 16, 8⟩
abbrev F.PCK_TEMP_TEMP : Fld := ⟨0x60020, 0, 16⟩
abbrev F.PCK_TEMP_SENSOR : Fld := ⟨0x60020, 16, 4⟩
abbrev F.PCK_AVS_VREQ : Fld := ⟨0x60024, 0, 5⟩
abbrev F.PCK_CLK_STATUS_TILE : Fld := ⟨0x60028, 0, 1⟩
abbrev F.PCK_CLK_STATUS_NOC : Fld := ⟨0x60028, 1, 1⟩
abbrev F.PCK_CLK_STATUS_STORE : Fld := ⟨0x60028, 2, 1⟩
abbrev F.PCK_CLK_STATUS_FAR : Fld := ⟨0x60028, 3, 1⟩
abbrev F.PCK_CLK_STATUS_HOST : Fld := ⟨0x60028, 4, 1⟩
abbrev F.PCK_CLK_STATUS_AUD : Fld := ⟨0x60028, 5, 1⟩
abbrev F.PCK_CLK_STATUS_USB : Fld := ⟨0x60028, 6, 1⟩
abbrev F.PCK_WDOG_CTL_TIMEOUT_MS : Fld := ⟨0x60030, 0, 10⟩
abbrev F.PCK_WDOG_CTL_KICKSRC : Fld := ⟨0x60030, 10, 2⟩
abbrev F.PCK_WDOG_CTL_ACT1 : Fld := ⟨0x60030, 12, 3⟩
abbrev F.PCK_WDOG_CTL_ACT2 : Fld := ⟨0x60030, 15, 3⟩
abbrev F.PCK_WDOG_CTL_ACT3 : Fld := ⟨0x60030, 18, 3⟩
abbrev F.PCK_WDOG_CTL_PMASK : Fld := ⟨0x60030, 21, 8⟩
abbrev F.PCK_WDOG_CTL_EN : Fld := ⟨0x60030, 31, 1⟩
abbrev F.PCK_WDOG_KICK : Fld := ⟨0x60034, 0, 32⟩
abbrev F.PCK_WDOG_STAT_STAGE : Fld := ⟨0x60038, 0, 2⟩
abbrev F.PCK_WDOG_STAT_EXPIRIES : Fld := ⟨0x60038, 16, 16⟩
abbrev F.PCK_HANG_CTL_HANG_US : Fld := ⟨0x6003c, 0, 16⟩
abbrev F.PCK_RESET_PARTS : Fld := ⟨0x60040, 0, 8⟩
abbrev F.PCK_RESET_COLD : Fld := ⟨0x60040, 8, 1⟩
abbrev F.HQ_STATUS_LINK : Fld := ⟨0x80000, 0, 2⟩
abbrev F.HQ_STATUS_RATE : Fld := ⟨0x80000, 2, 3⟩
abbrev F.HQ_STATUS_WIDTH : Fld := ⟨0x80000, 5, 5⟩
abbrev F.HQ_STATUS_FLIT : Fld := ⟨0x80000, 10, 1⟩
abbrev F.HQ_STATUS_EPOCH : Fld := ⟨0x80000, 16, 16⟩
abbrev F.HQ_FN_VECS_COUNT (i : Nat) : Fld := ⟨0x80104 + 4 * i, 0, 8⟩
abbrev F.HQ_HWIN_BASE_LO_BASE (i : Nat) : Fld := ⟨0x80400 + 0x10 * i, 12, 20⟩
abbrev F.HQ_HWIN_BASE_HI_BASE (i : Nat) : Fld := ⟨0x80404 + 0x10 * i, 0, 32⟩
abbrev F.HQ_HWIN_SIZE_SIZE4K (i : Nat) : Fld := ⟨0x80408 + 0x10 * i, 0, 24⟩
abbrev F.HQ_HWIN_CTL_FUNC (i : Nat) : Fld := ⟨0x8040c + 0x10 * i, 0, 6⟩
abbrev F.HQ_HWIN_CTL_PEER (i : Nat) : Fld := ⟨0x8040c + 0x10 * i, 6, 1⟩
abbrev F.HQ_HWIN_CTL_AT (i : Nat) : Fld := ⟨0x8040c + 0x10 * i, 7, 1⟩
abbrev F.HQ_HWIN_CTL_PARTMASK (i : Nat) : Fld := ⟨0x8040c + 0x10 * i, 8, 8⟩
abbrev F.HQ_HWIN_CTL_VALID (i : Nat) : Fld := ⟨0x8040c + 0x10 * i, 31, 1⟩
abbrev F.QP_CTL_EN (i : Nat) : Fld := ⟨0x81000 + 0x40 * i, 0, 1⟩
abbrev F.QP_CTL_ERR (i : Nat) : Fld := ⟨0x81000 + 0x40 * i, 1, 1⟩
abbrev F.QP_CTL_FUNC (i : Nat) : Fld := ⟨0x81000 + 0x40 * i, 2, 6⟩
abbrev F.QP_CTL_IN_INT (i : Nat) : Fld := ⟨0x81000 + 0x40 * i, 8, 1⟩
abbrev F.QP_CTL_IVEC (i : Nat) : Fld := ⟨0x81000 + 0x40 * i, 12, 8⟩
abbrev F.QP_CTL_RVEC (i : Nat) : Fld := ⟨0x81000 + 0x40 * i, 20, 8⟩
abbrev F.QP_SLOTS_SLOT_LO (i : Nat) : Fld := ⟨0x81004 + 0x40 * i, 0, 12⟩
abbrev F.QP_SLOTS_SLOT_HI (i : Nat) : Fld := ⟨0x81004 + 0x40 * i, 16, 12⟩
abbrev F.QP_IN_BASE_LO (i : Nat) : Fld := ⟨0x81008 + 0x40 * i, 12, 20⟩
abbrev F.QP_IN_BASE_HI (i : Nat) : Fld := ⟨0x8100c + 0x40 * i, 0, 32⟩
abbrev F.QP_SIZES_IN_LOG2 (i : Nat) : Fld := ⟨0x81010 + 0x40 * i, 0, 5⟩
abbrev F.QP_SIZES_RES_LOG2 (i : Nat) : Fld := ⟨0x81010 + 0x40 * i, 8, 5⟩
abbrev F.QP_RES_BASE_LO (i : Nat) : Fld := ⟨0x81014 + 0x40 * i, 12, 20⟩
abbrev F.QP_RES_BASE_HI (i : Nat) : Fld := ⟨0x81018 + 0x40 * i, 0, 32⟩
abbrev F.QP_PAY_STRIDE_STRIDE64 (i : Nat) : Fld := ⟨0x8101c + 0x40 * i, 6, 14⟩
abbrev F.QP_PAY_BASE_LO (i : Nat) : Fld := ⟨0x81020 + 0x40 * i, 12, 20⟩
abbrev F.QP_PAY_BASE_HI (i : Nat) : Fld := ⟨0x81024 + 0x40 * i, 0, 32⟩
abbrev F.QP_WB_LO (i : Nat) : Fld := ⟨0x81028 + 0x40 * i, 2, 30⟩
abbrev F.QP_WB_HI (i : Nat) : Fld := ⟨0x8102c + 0x40 * i, 0, 32⟩
abbrev F.QP_INDEX_IN_HEAD (i : Nat) : Fld := ⟨0x81030 + 0x40 * i, 0, 16⟩
abbrev F.QP_INDEX_RES_TAIL (i : Nat) : Fld := ⟨0x81030 + 0x40 * i, 16, 16⟩
abbrev F.QP_IN_DROPS (i : Nat) : Fld := ⟨0x81034 + 0x40 * i, 0, 32⟩
abbrev F.QP_RES_OVF (i : Nat) : Fld := ⟨0x81038 + 0x40 * i, 0, 32⟩
abbrev F.QP_STAMPED (i : Nat) : Fld := ⟨0x8103c + 0x40 * i, 0, 32⟩
abbrev F.IMG_STATUS_CHUCK : Fld := ⟨0xc0000, 0, 3⟩
abbrev F.IMG_STATUS_SRC : Fld := ⟨0xc0000, 4, 3⟩
abbrev F.IMG_STATUS_OPEN : Fld := ⟨0xc0000, 7, 1⟩
abbrev F.IMG_STATUS_TRIED : Fld := ⟨0xc0000, 8, 4⟩
abbrev F.IMG_STATUS_BOOTSEL : Fld := ⟨0xc0000, 16, 2⟩
abbrev F.IMG_CTL_LOAD : Fld := ⟨0xc0004, 0, 1⟩
abbrev F.IMG_CTL_ABORT : Fld := ⟨0xc0004, 1, 1⟩
abbrev F.IMG_CTL_KIND : Fld := ⟨0xc0004, 2, 2⟩
abbrev F.IMG_CTL_PART : Fld := ⟨0xc0004, 4, 3⟩
abbrev F.IMG_SRC_LO : Fld := ⟨0xc0008, 0, 32⟩
abbrev F.IMG_SRC_HI : Fld := ⟨0xc000c, 0, 8⟩
abbrev F.IMG_LEN : Fld := ⟨0xc0010, 0, 31⟩
abbrev F.IMG_RESULT_CODE : Fld := ⟨0xc0014, 0, 8⟩
abbrev F.IMG_RESULT_SEG : Fld := ⟨0xc0014, 8, 13⟩
abbrev F.IMG_DONE : Fld := ⟨0xc0018, 0, 31⟩
abbrev F.IMG_REGRIP_PMASK : Fld := ⟨0xc0020, 0, 8⟩
abbrev F.IMG_REGRIP_DRAIN : Fld := ⟨0xc0020, 8, 1⟩
abbrev F.IMG_REGRIP_DTM1 : Fld := ⟨0xc0020, 9, 4⟩
abbrev F.IMG_PLANE_STAGED (i : Nat) : Fld := ⟨0xc0040 + 4 * i, 0, 1⟩
abbrev F.IMG_PLANE_RETIRING (i : Nat) : Fld := ⟨0xc0040 + 4 * i, 1, 1⟩
abbrev F.IMG_PLANE_DRAINING (i : Nat) : Fld := ⟨0xc0040 + 4 * i, 2, 1⟩
abbrev F.IMG_PLANE_RELEASE (i : Nat) : Fld := ⟨0xc0040 + 4 * i, 3, 1⟩
abbrev F.IMG_ABUILD (i : Nat) : Fld := ⟨0xc0060 + 4 * i, 0, 32⟩
abbrev F.IMG_SBUILD (i : Nat) : Fld := ⟨0xc0080 + 4 * i, 0, 32⟩
abbrev F.TSQ_STATE_RUN (i j : Nat) : Fld := ⟨0x100000 + 0x10000 * i + 0x800 * j, 0, 2⟩
abbrev F.TSQ_STATE_DETACHED (i j : Nat) : Fld := ⟨0x100000 + 0x10000 * i + 0x800 * j, 2, 1⟩
abbrev F.TSQ_STATE_BLANK (i j : Nat) : Fld := ⟨0x100000 + 0x10000 * i + 0x800 * j, 3, 1⟩
abbrev F.TSQ_STATE_PC (i j : Nat) : Fld := ⟨0x100000 + 0x10000 * i + 0x800 * j, 16, 13⟩
abbrev F.TSQ_CAUSE_CODE (i j : Nat) : Fld := ⟨0x100004 + 0x10000 * i + 0x800 * j, 0, 8⟩
abbrev F.TSQ_CAUSE_DS (i j : Nat) : Fld := ⟨0x100004 + 0x10000 * i + 0x800 * j, 8, 1⟩
abbrev F.TSQ_CAUSE_SH (i j : Nat) : Fld := ⟨0x100004 + 0x10000 * i + 0x800 * j, 9, 1⟩
abbrev F.TSQ_CAUSE_LP (i j : Nat) : Fld := ⟨0x100004 + 0x10000 * i + 0x800 * j, 10, 1⟩
abbrev F.TSQ_CAUSE_SLOT (i j : Nat) : Fld := ⟨0x100004 + 0x10000 * i + 0x800 * j, 11, 1⟩
abbrev F.TSQ_CAUSE_VEC (i j : Nat) : Fld := ⟨0x100004 + 0x10000 * i + 0x800 * j, 12, 1⟩
abbrev F.TSQ_EPC_EPC (i j : Nat) : Fld := ⟨0x100008 + 0x10000 * i + 0x800 * j, 0, 13⟩
abbrev F.TSQ_EINFO_INFO (i j : Nat) : Fld := ⟨0x10000c + 0x10000 * i + 0x800 * j, 0, 32⟩
abbrev F.TSQ_MODE_RND (i j : Nat) : Fld := ⟨0x100010 + 0x10000 * i + 0x800 * j, 0, 2⟩
abbrev F.TSQ_MODE_FTZ (i j : Nat) : Fld := ⟨0x100010 + 0x10000 * i + 0x800 * j, 2, 1⟩
abbrev F.TSQ_MODE_SAT (i j : Nat) : Fld := ⟨0x100010 + 0x10000 * i + 0x800 * j, 3, 1⟩
abbrev F.TSQ_MODE_MX (i j : Nat) : Fld := ⟨0x100010 + 0x10000 * i + 0x800 * j, 4, 8⟩
abbrev F.TSQ_DBG_CTL_HALT_ON_EXC (i j : Nat) : Fld := ⟨0x100014 + 0x10000 * i + 0x800 * j, 0, 1⟩
abbrev F.TSQ_DBG_CTL_HALT (i j : Nat) : Fld := ⟨0x100014 + 0x10000 * i + 0x800 * j, 1, 1⟩
abbrev F.TSQ_DBG_CTL_STEP (i j : Nat) : Fld := ⟨0x100014 + 0x10000 * i + 0x800 * j, 2, 1⟩
abbrev F.TSQ_DBG_CTL_RESUME (i j : Nat) : Fld := ⟨0x100014 + 0x10000 * i + 0x800 * j, 3, 1⟩
abbrev F.TSQ_DBG_CTL_BP0_EN (i j : Nat) : Fld := ⟨0x100014 + 0x10000 * i + 0x800 * j, 4, 1⟩
abbrev F.TSQ_DBG_CTL_BP1_EN (i j : Nat) : Fld := ⟨0x100014 + 0x10000 * i + 0x800 * j, 5, 1⟩
abbrev F.TSQ_BP_BP0 (i j : Nat) : Fld := ⟨0x100018 + 0x10000 * i + 0x800 * j, 0, 13⟩
abbrev F.TSQ_BP_BP1 (i j : Nat) : Fld := ⟨0x100018 + 0x10000 * i + 0x800 * j, 16, 13⟩
abbrev F.TSQ_LOOP_COUNT (i j k : Nat) : Fld := ⟨0x100020 + 0x10000 * i + 0x800 * j + 8 * k, 0, 32⟩
abbrev F.TSQ_LRANGE_START (i j k : Nat) : Fld := ⟨0x100024 + 0x10000 * i + 0x800 * j + 8 * k, 0, 13⟩
abbrev F.TSQ_LRANGE_END (i j k : Nat) : Fld := ⟨0x100024 + 0x10000 * i + 0x800 * j + 8 * k, 16, 13⟩
abbrev F.TSQ_LRANGE_STRIP (i j k : Nat) : Fld := ⟨0x100024 + 0x10000 * i + 0x800 * j + 8 * k, 30, 1⟩
abbrev F.TSQ_LRANGE_ACT (i j k : Nat) : Fld := ⟨0x100024 + 0x10000 * i + 0x800 * j + 8 * k, 31, 1⟩
abbrev F.TSQ_VLEN0_VLEN (i j : Nat) : Fld := ⟨0x100040 + 0x10000 * i + 0x800 * j, 0, 9⟩
abbrev F.TSQ_VLEN_VLEN (i j k : Nat) : Fld := ⟨0x100044 + 0x10000 * i + 0x800 * j + 4 * k, 0, 9⟩
abbrev F.TSQ_DSEL_SPACE (i j : Nat) : Fld := ⟨0x100060 + 0x10000 * i + 0x800 * j, 0, 2⟩
abbrev F.TSQ_DSEL_REG (i j : Nat) : Fld := ⟨0x100060 + 0x10000 * i + 0x800 * j, 2, 5⟩
abbrev F.TSQ_DSEL_ELEM (i j : Nat) : Fld := ⟨0x100060 + 0x10000 * i + 0x800 * j, 8, 8⟩
abbrev F.TSQ_DDATA_LO_DATA (i j : Nat) : Fld := ⟨0x100064 + 0x10000 * i + 0x800 * j, 0, 32⟩
abbrev F.TSQ_DDATA_HI_DATA (i j : Nat) : Fld := ⟨0x100068 + 0x10000 * i + 0x800 * j, 0, 32⟩
abbrev F.TSQ_PBASE (i j : Nat) : Fld := ⟨0x100070 + 0x10000 * i + 0x800 * j, 0, 20⟩
abbrev F.TSQ_PLEN (i j : Nat) : Fld := ⟨0x100074 + 0x10000 * i + 0x800 * j, 0, 20⟩
abbrev F.TSQ_RBASE (i j : Nat) : Fld := ⟨0x100078 + 0x10000 * i + 0x800 * j, 0, 20⟩
abbrev F.VEC_PARTIAL_WAITS (i j : Nat) : Fld := ⟨0x100080 + 0x10000 * i + 0x800 * j, 0, 32⟩
abbrev F.VEC_DRAIN_WAITS (i j : Nat) : Fld := ⟨0x100084 + 0x10000 * i + 0x800 * j, 0, 32⟩
abbrev F.VEC_FPFLAGS_NV (i j : Nat) : Fld := ⟨0x100088 + 0x10000 * i + 0x800 * j, 0, 1⟩
abbrev F.VEC_FPFLAGS_DZ (i j : Nat) : Fld := ⟨0x100088 + 0x10000 * i + 0x800 * j, 1, 1⟩
abbrev F.VEC_FPFLAGS_OF (i j : Nat) : Fld := ⟨0x100088 + 0x10000 * i + 0x800 * j, 2, 1⟩
abbrev F.VEC_FPFLAGS_UF (i j : Nat) : Fld := ⟨0x100088 + 0x10000 * i + 0x800 * j, 3, 1⟩
abbrev F.VEC_FPFLAGS_NX (i j : Nat) : Fld := ⟨0x100088 + 0x10000 * i + 0x800 * j, 4, 1⟩
abbrev F.TSQ_EXC_COUNT (i j : Nat) : Fld := ⟨0x10008c + 0x10000 * i + 0x800 * j, 0, 32⟩
abbrev F.TSQ_RELOADS (i j : Nat) : Fld := ⟨0x100090 + 0x10000 * i + 0x800 * j, 0, 32⟩
abbrev F.MTX_STATE_UNFIN (i j : Nat) : Fld := ⟨0x100100 + 0x10000 * i + 0x800 * j, 0, 3⟩
abbrev F.MTX_STATE_BUSY (i j : Nat) : Fld := ⟨0x100100 + 0x10000 * i + 0x800 * j, 3, 1⟩
abbrev F.MTX_FAULT_CODE (i j : Nat) : Fld := ⟨0x100104 + 0x10000 * i + 0x800 * j, 0, 16⟩
abbrev F.MTX_FAULT_VALID (i j : Nat) : Fld := ⟨0x100104 + 0x10000 * i + 0x800 * j, 16, 1⟩
abbrev F.MTX_FAULT_ADDR_DESC (i j : Nat) : Fld := ⟨0x100108 + 0x10000 * i + 0x800 * j, 0, 20⟩
abbrev F.MTX_FAULT_TILE_MT (i j : Nat) : Fld := ⟨0x10010c + 0x10000 * i + 0x800 * j, 0, 12⟩
abbrev F.MTX_FAULT_TILE_NT (i j : Nat) : Fld := ⟨0x10010c + 0x10000 * i + 0x800 * j, 12, 12⟩
abbrev F.MTX_OPS (i j : Nat) : Fld := ⟨0x100110 + 0x10000 * i + 0x800 * j, 0, 32⟩
abbrev F.MTX_BUSY (i j : Nat) : Fld := ⟨0x100114 + 0x10000 * i + 0x800 * j, 0, 32⟩
abbrev F.MTX_ISSUE_WAITS (i j : Nat) : Fld := ⟨0x100118 + 0x10000 * i + 0x800 * j, 0, 32⟩
abbrev F.MTX_SAT (i j : Nat) : Fld := ⟨0x10011c + 0x10000 * i + 0x800 * j, 0, 32⟩
abbrev F.MTX_NAN (i j : Nat) : Fld := ⟨0x100120 + 0x10000 * i + 0x800 * j, 0, 32⟩
abbrev F.MTX_SPARSE_COL_COL (i j : Nat) : Fld := ⟨0x100124 + 0x10000 * i + 0x800 * j, 0, 12⟩
abbrev F.MTX_SPARSE_POS_POS (i j : Nat) : Fld := ⟨0x100128 + 0x10000 * i + 0x800 * j, 0, 17⟩
abbrev F.MTX_SPARSE_POS_MASK (i j : Nat) : Fld := ⟨0x100128 + 0x10000 * i + 0x800 * j, 20, 4⟩
abbrev F.MTX_SPARSE_VAL_VALUE (i j : Nat) : Fld := ⟨0x10012c + 0x10000 * i + 0x800 * j, 0, 17⟩
abbrev F.MTX_SPARSE_OPS (i j : Nat) : Fld := ⟨0x100130 + 0x10000 * i + 0x800 * j, 0, 32⟩
abbrev F.TMEM_CE (i j : Nat) : Fld := ⟨0x100140 + 0x10000 * i + 0x800 * j, 0, 32⟩
abbrev F.TMEM_UE_ADDR_ADDR (i j : Nat) : Fld := ⟨0x100144 + 0x10000 * i + 0x800 * j, 0, 20⟩
abbrev F.TMEM_UE_ADDR_VALID (i j : Nat) : Fld := ⟨0x100144 + 0x10000 * i + 0x800 * j, 31, 1⟩
abbrev F.XFER_STATE_UNFIN (i j : Nat) : Fld := ⟨0x100148 + 0x10000 * i + 0x800 * j, 0, 4⟩
abbrev F.XFER_STATE_BUSY (i j : Nat) : Fld := ⟨0x100148 + 0x10000 * i + 0x800 * j, 4, 1⟩
abbrev F.VEC_SR_KEY_LO_KEY (i j : Nat) : Fld := ⟨0x100150 + 0x10000 * i + 0x800 * j, 0, 32⟩
abbrev F.VEC_SR_KEY_HI_KEY (i j : Nat) : Fld := ⟨0x100154 + 0x10000 * i + 0x800 * j, 0, 32⟩
abbrev F.VEC_SR_CTR_CTR (i j : Nat) : Fld := ⟨0x100158 + 0x10000 * i + 0x800 * j, 0, 32⟩
abbrev F.BENCH_STATUS_STATE (i : Nat) : Fld := ⟨0x108000 + 0x10000 * i, 0, 3⟩
abbrev F.BENCH_STATUS_ASSIGNED (i : Nat) : Fld := ⟨0x108000 + 0x10000 * i, 3, 1⟩
abbrev F.BENCH_STATUS_PART (i : Nat) : Fld := ⟨0x108000 + 0x10000 * i, 4, 3⟩
abbrev F.BENCH_STATUS_IDLE (i : Nat) : Fld := ⟨0x108000 + 0x10000 * i, 7, 2⟩
abbrev F.BENCH_STATUS_STOPPOL (i : Nat) : Fld := ⟨0x108000 + 0x10000 * i, 9, 1⟩
abbrev F.BENCH_STATUS_EPOCH (i : Nat) : Fld := ⟨0x108000 + 0x10000 * i, 16, 16⟩
abbrev F.BENCH_FENCE_CODE (i : Nat) : Fld := ⟨0x108004 + 0x10000 * i, 0, 16⟩
abbrev F.BENCH_FENCE_FENCED (i : Nat) : Fld := ⟨0x108004 + 0x10000 * i, 16, 1⟩
abbrev F.BENCH_WR_DROPS (i : Nat) : Fld := ⟨0x108008 + 0x10000 * i, 0, 32⟩
abbrev F.BENCH_ROUTES_THRU (i : Nat) : Fld := ⟨0x10800c + 0x10000 * i, 0, 12⟩
abbrev F.BENCH_ROUTES_CUT (i : Nat) : Fld := ⟨0x10800c + 0x10000 * i, 12, 12⟩
abbrev F.BENCH_EJECT_STALLS (i : Nat) : Fld := ⟨0x108010 + 0x10000 * i, 0, 32⟩
abbrev F.BENCH_RT_SEL_PLANE (i : Nat) : Fld := ⟨0x108014 + 0x10000 * i, 0, 1⟩
abbrev F.BENCH_RT_SEL_INDEX (i : Nat) : Fld := ⟨0x108014 + 0x10000 * i, 1, 11⟩
abbrev F.BENCH_RT_DATA (i j : Nat) : Fld := ⟨0x108018 + 0x10000 * i + 4 * j, 0, 32⟩
abbrev F.BENCH_RT_COUNT_ACTIVE (i : Nat) : Fld := ⟨0x108038 + 0x10000 * i, 0, 12⟩
abbrev F.BENCH_RT_COUNT_STAGED (i : Nat) : Fld := ⟨0x108038 + 0x10000 * i, 16, 12⟩
abbrev F.KV_STATUS_BUSY : Fld := ⟨0x300000, 0, 16⟩
abbrev F.KV_LEDGER_BASE_OFFSET : Fld := ⟨0x300004, 0, 30⟩
abbrev F.KV_LEDGER_SIZE_ENTRIES : Fld := ⟨0x300008, 0, 25⟩
abbrev F.KV_WALK_FENCE_MASK : Fld := ⟨0x30000c, 0, 16⟩
abbrev F.KV_WALKERS_MASK (i : Nat) : Fld := ⟨0x300010 + 4 * i, 0, 16⟩
abbrev F.KV_OP_ARG0 : Fld := ⟨0x300040, 0, 32⟩
abbrev F.KV_OP_ARG1 : Fld := ⟨0x300044, 0, 32⟩
abbrev F.KV_OP_CTL_OPC : Fld := ⟨0x300048, 0, 4⟩
abbrev F.KV_OP_STATUS_RESULT : Fld := ⟨0x30004c, 0, 4⟩
abbrev F.KV_OP_STATUS_BUSY : Fld := ⟨0x30004c, 4, 1⟩
abbrev F.KV_OP_STATUS_PAGE : Fld := ⟨0x30004c, 8, 24⟩
abbrev F.KV_PAGE_SEL_PAGE : Fld := ⟨0x300050, 0, 24⟩
abbrev F.KV_PAGE_DATA : Fld := ⟨0x300054, 0, 32⟩
abbrev F.KV_WALKS : Fld := ⟨0x300060, 0, 32⟩
abbrev F.KV_SKIPS : Fld := ⟨0x300064, 0, 32⟩
abbrev F.KV_NOT_READY : Fld := ⟨0x300068, 0, 32⟩
abbrev F.KV_ALLOCS : Fld := ⟨0x30006c, 0, 32⟩
abbrev F.KV_COW : Fld := ⟨0x300070, 0, 32⟩
abbrev F.KV_FREES : Fld := ⟨0x300074, 0, 32⟩
abbrev F.KV_EMPTY_ROWS : Fld := ⟨0x300078, 0, 32⟩
abbrev F.KV_ZERO_ENTRIES : Fld := ⟨0x30007c, 0, 32⟩
abbrev F.KV_MERGE_ABSENT : Fld := ⟨0x300080, 0, 32⟩
abbrev F.KV_MERGE_LATE : Fld := ⟨0x300084, 0, 32⟩
abbrev F.KV_MERGE_STALE : Fld := ⟨0x300088, 0, 32⟩
abbrev F.KV_LEDGER_DROPS : Fld := ⟨0x30008c, 0, 32⟩
abbrev F.KV_POOL_A_BASE64K (i : Nat) : Fld := ⟨0x300100 + 0x10 * i, 0, 24⟩
abbrev F.KV_POOL_A_FAR (i : Nat) : Fld := ⟨0x300100 + 0x10 * i, 24, 1⟩
abbrev F.KV_POOL_A_VALID (i : Nat) : Fld := ⟨0x300100 + 0x10 * i, 31, 1⟩
abbrev F.KV_POOL_B_FIRST (i : Nat) : Fld := ⟨0x300104 + 0x10 * i, 0, 24⟩
abbrev F.KV_POOL_C_COUNT (i : Nat) : Fld := ⟨0x300108 + 0x10 * i, 0, 24⟩
abbrev F.KV_POOL_D_LAYERSM1 (i : Nat) : Fld := ⟨0x30010c + 0x10 * i, 0, 6⟩
abbrev F.KV_POOL_D_KVHM1 (i : Nat) : Fld := ⟨0x30010c + 0x10 * i, 6, 4⟩
abbrev F.KV_POOL_D_DIM (i : Nat) : Fld := ⟨0x30010c + 0x10 * i, 10, 2⟩
abbrev F.KV_POOL_D_BITS4 (i : Nat) : Fld := ⟨0x30010c + 0x10 * i, 12, 1⟩
abbrev F.KV_POOL_D_OWNER (i : Nat) : Fld := ⟨0x30010c + 0x10 * i, 13, 3⟩
abbrev F.KV_DESC_SEL_PART : Fld := ⟨0x300200, 0, 3⟩
abbrev F.KV_DESC_SEL_PLANE : Fld := ⟨0x300200, 3, 1⟩
abbrev F.KV_DESC_SEL_KIND : Fld := ⟨0x300200, 4, 1⟩
abbrev F.KV_DESC_SEL_INDEX : Fld := ⟨0x300200, 8, 8⟩
abbrev F.KV_DESC_DATA (i : Nat) : Fld := ⟨0x300204 + 4 * i, 0, 32⟩
abbrev F.FAR_STATUS_STATE : Fld := ⟨0x380000, 0, 3⟩
abbrev F.FAR_STATUS_IECC : Fld := ⟨0x380000, 3, 1⟩
abbrev F.FAR_STATUS_LECC : Fld := ⟨0x380000, 4, 1⟩
abbrev F.FAR_STATUS_EPOCH : Fld := ⟨0x380000, 16, 16⟩
abbrev F.FAR_CFG_RATE : Fld := ⟨0x380004, 0, 3⟩
abbrev F.FAR_CFG_RANKS2 : Fld := ⟨0x380004, 3, 1⟩
abbrev F.FAR_CFG_DENSITY : Fld := ⟨0x380004, 4, 3⟩
abbrev F.FAR_CFG_IECC : Fld := ⟨0x380004, 7, 1⟩
abbrev F.FAR_CFG_LECC : Fld := ⟨0x380004, 8, 1⟩
abbrev F.FAR_CFG_REST_SR : Fld := ⟨0x380004, 9, 1⟩
abbrev F.FAR_CFG_CHMASK : Fld := ⟨0x380004, 16, 8⟩
abbrev F.FAR_TRAIN_CTL_START : Fld := ⟨0x380008, 0, 1⟩
abbrev F.FAR_TRAIN_CTL_SAVE_VALID : Fld := ⟨0x380008, 1, 1⟩
abbrev F.FAR_TRAIN_CTL_USE_SAVED : Fld := ⟨0x380008, 2, 1⟩
abbrev F.FAR_TRAIN_CTL_PERIODIC : Fld := ⟨0x380008, 3, 1⟩
abbrev F.FAR_TRAIN_CTL_PERIOD_MS : Fld := ⟨0x380008, 8, 8⟩
abbrev F.FAR_TRAIN_STATUS_STEP : Fld := ⟨0x38000c, 0, 4⟩
abbrev F.FAR_TRAIN_STATUS_DONE : Fld := ⟨0x38000c, 4, 1⟩
abbrev F.FAR_TRAIN_STATUS_FAIL : Fld := ⟨0x38000c, 5, 1⟩
abbrev F.FAR_TRAIN_STATUS_REFUSED : Fld := ⟨0x38000c, 6, 1⟩
abbrev F.FAR_TRAIN_STATUS_FAILCH : Fld := ⟨0x38000c, 8, 8⟩
abbrev F.FAR_CE : Fld := ⟨0x380010, 0, 32⟩
abbrev F.FAR_UE : Fld := ⟨0x380014, 0, 32⟩
abbrev F.FAR_LINK_CE : Fld := ⟨0x380018, 0, 32⟩
abbrev F.FAR_UE_ADDR_LO : Fld := ⟨0x38001c, 0, 32⟩
abbrev F.FAR_UE_ADDR_HI : Fld := ⟨0x380020, 0, 8⟩
abbrev F.FAR_TEMP_MR4 : Fld := ⟨0x380024, 0, 8⟩
abbrev F.FAR_TEMP_MULT : Fld := ⟨0x380024, 8, 3⟩
abbrev F.FAR_REF_FORCED : Fld := ⟨0x380028, 0, 32⟩
abbrev F.FAR_CARVE_A_BASE (i : Nat) : Fld := ⟨0x380100 + 8 * i, 0, 11⟩
abbrev F.FAR_CARVE_A_SIZE (i : Nat) : Fld := ⟨0x380100 + 8 * i, 16, 11⟩
abbrev F.FAR_CARVE_A_OWNER (i : Nat) : Fld := ⟨0x380100 + 8 * i, 27, 3⟩
abbrev F.FAR_CARVE_A_VALID (i : Nat) : Fld := ⟨0x380100 + 8 * i, 31, 1⟩
abbrev F.FAR_CARVE_B_READMASK (i : Nat) : Fld := ⟨0x380104 + 8 * i, 0, 8⟩
abbrev F.FAR_CARVE_B_HOSTW (i : Nat) : Fld := ⟨0x380104 + 8 * i, 8, 1⟩
abbrev F.FAR_WIN_SEL_PART : Fld := ⟨0x380200, 0, 3⟩
abbrev F.FAR_WIN_SEL_PLANE : Fld := ⟨0x380200, 3, 1⟩
abbrev F.FAR_WIN_SEL_INDEX : Fld := ⟨0x380200, 4, 4⟩
abbrev F.FAR_WIN_DATA0_OFFSET : Fld := ⟨0x380204, 0, 26⟩
abbrev F.FAR_WIN_DATA0_SHARE : Fld := ⟨0x380204, 26, 4⟩
abbrev F.FAR_WIN_DATA1_LEN : Fld := ⟨0x380208, 0, 26⟩
abbrev F.FAR_WIN_WAITS : Fld := ⟨0x38020c, 0, 32⟩
abbrev F.STORE_STATUS_STATE : Fld := ⟨0x3c0000, 0, 2⟩
abbrev F.STORE_STATUS_KEPT : Fld := ⟨0x3c0000, 2, 1⟩
abbrev F.STORE_STATUS_EPOCH : Fld := ⟨0x3c0000, 16, 16⟩
abbrev F.STORE_ECC_CTL_SCRUB_EN : Fld := ⟨0x3c0004, 0, 1⟩
abbrev F.STORE_ECC_CTL_SCRUB_HOURS : Fld := ⟨0x3c0004, 8, 8⟩
abbrev F.STORE_CE : Fld := ⟨0x3c0008, 0, 32⟩
abbrev F.STORE_UE : Fld := ⟨0x3c000c, 0, 32⟩
abbrev F.STORE_UE_ADDR_OFFSET : Fld := ⟨0x3c0010, 0, 30⟩
abbrev F.STORE_POISONED : Fld := ⟨0x3c0014, 0, 24⟩
abbrev F.STORE_SCRUB_POS_OFFSET : Fld := ⟨0x3c0018, 0, 30⟩
abbrev F.STORE_SYS_DROPS : Fld := ⟨0x3c001c, 0, 32⟩
abbrev F.STORE_HOST_DROPS : Fld := ⟨0x3c0020, 0, 32⟩
abbrev F.STORE_CARVE_A_BASE (i : Nat) : Fld := ⟨0x3c0100 + 8 * i, 0, 9⟩
abbrev F.STORE_CARVE_A_SIZE (i : Nat) : Fld := ⟨0x3c0100 + 8 * i, 16, 9⟩
abbrev F.STORE_CARVE_A_OWNER (i : Nat) : Fld := ⟨0x3c0100 + 8 * i, 25, 3⟩
abbrev F.STORE_CARVE_A_VALID (i : Nat) : Fld := ⟨0x3c0100 + 8 * i, 31, 1⟩
abbrev F.STORE_CARVE_B_READMASK (i : Nat) : Fld := ⟨0x3c0104 + 8 * i, 0, 8⟩
abbrev F.STORE_CARVE_B_HOSTW (i : Nat) : Fld := ⟨0x3c0104 + 8 * i, 8, 1⟩
abbrev F.AUD_STATUS_STATE (i : Nat) : Fld := ⟨0x400000 + 0x1000 * i, 0, 3⟩
abbrev F.AUD_STATUS_LOCKED (i : Nat) : Fld := ⟨0x400000 + 0x1000 * i, 3, 1⟩
abbrev F.AUD_STATUS_EPOCH (i : Nat) : Fld := ⟨0x400000 + 0x1000 * i, 16, 16⟩
abbrev F.AUD_EN_EN (i : Nat) : Fld := ⟨0x400004 + 0x1000 * i, 0, 1⟩
abbrev F.AUD_CFG_MODE (i : Nat) : Fld := ⟨0x400008 + 0x1000 * i, 0, 2⟩
abbrev F.AUD_CFG_ROLE (i : Nat) : Fld := ⟨0x400008 + 0x1000 * i, 2, 1⟩
abbrev F.AUD_CFG_SHARED (i : Nat) : Fld := ⟨0x400008 + 0x1000 * i, 3, 1⟩
abbrev F.AUD_CFG_SLOTSM1 (i : Nat) : Fld := ⟨0x400008 + 0x1000 * i, 4, 5⟩
abbrev F.AUD_CFG_WIDTH (i : Nat) : Fld := ⟨0x400008 + 0x1000 * i, 9, 2⟩
abbrev F.AUD_CFG_DLY (i : Nat) : Fld := ⟨0x400008 + 0x1000 * i, 11, 1⟩
abbrev F.AUD_CFG_FSPOL (i : Nat) : Fld := ⟨0x400008 + 0x1000 * i, 12, 1⟩
abbrev F.AUD_CFG_BCLKPOL (i : Nat) : Fld := ⟨0x400008 + 0x1000 * i, 13, 1⟩
abbrev F.AUD_CFG_GUARD (i : Nat) : Fld := ⟨0x400008 + 0x1000 * i, 14, 2⟩
abbrev F.AUD_CFG_BDIV (i : Nat) : Fld := ⟨0x400008 + 0x1000 * i, 16, 8⟩
abbrev F.AUD_CFG_RATE (i : Nat) : Fld := ⟨0x400008 + 0x1000 * i, 24, 4⟩
abbrev F.AUD_OWN (i : Nat) : Fld := ⟨0x40000c + 0x1000 * i, 0, 32⟩
abbrev F.AUD_CHAT_CGUARDM1 (i : Nat) : Fld := ⟨0x400010 + 0x1000 * i, 0, 2⟩
abbrev F.AUD_CHAT_CHATTER_YIELD (i : Nat) : Fld := ⟨0x400010 + 0x1000 * i, 2, 1⟩
abbrev F.AUD_CHAT_DETECT_EN (i : Nat) : Fld := ⟨0x400010 + 0x1000 * i, 3, 1⟩
abbrev F.AUD_SYNC_SYNC (i : Nat) : Fld := ⟨0x400014 + 0x1000 * i, 0, 24⟩
abbrev F.AUD_SYNC_NCONF (i : Nat) : Fld := ⟨0x400014 + 0x1000 * i, 24, 4⟩
abbrev F.AUD_SF_STAT_CANDIDATES (i : Nat) : Fld := ⟨0x400018 + 0x1000 * i, 0, 4⟩
abbrev F.AUD_SF_STAT_LOCKED (i : Nat) : Fld := ⟨0x400018 + 0x1000 * i, 4, 1⟩
abbrev F.AUD_SF_STAT_POS (i : Nat) : Fld := ⟨0x400018 + 0x1000 * i, 8, 10⟩
abbrev F.AUD_FS_STAMP_LO (i : Nat) : Fld := ⟨0x40001c + 0x1000 * i, 0, 32⟩
abbrev F.AUD_FS_STAMP_HI (i : Nat) : Fld := ⟨0x400020 + 0x1000 * i, 0, 32⟩
abbrev F.AUD_CHATTERS (i : Nat) : Fld := ⟨0x400030 + 0x1000 * i, 0, 32⟩
abbrev F.AUD_YIELDED (i : Nat) : Fld := ⟨0x400034 + 0x1000 * i, 0, 32⟩
abbrev F.AUD_REALIGNS (i : Nat) : Fld := ⟨0x400038 + 0x1000 * i, 0, 32⟩
abbrev F.AUD_DROPS (i : Nat) : Fld := ⟨0x40003c + 0x1000 * i, 0, 32⟩
abbrev F.AUD_PLAY_ZERO (i : Nat) : Fld := ⟨0x400040 + 0x1000 * i, 0, 32⟩
abbrev F.AUD_PLAY_STALE (i : Nat) : Fld := ⟨0x400044 + 0x1000 * i, 0, 32⟩
abbrev F.AUD_SF_AMBIG (i : Nat) : Fld := ⟨0x400048 + 0x1000 * i, 0, 32⟩
abbrev F.AUD_SF_LOSSES (i : Nat) : Fld := ⟨0x40004c + 0x1000 * i, 0, 32⟩
abbrev F.AUD_IN_MAP_STREAM (i j : Nat) : Fld := ⟨0x400100 + 0x1000 * i + 8 * j, 0, 12⟩
abbrev F.AUD_IN_MAP_FMT (i j : Nat) : Fld := ⟨0x400100 + 0x1000 * i + 8 * j, 12, 2⟩
abbrev F.AUD_IN_MAP_VALID (i j : Nat) : Fld := ⟨0x400100 + 0x1000 * i + 8 * j, 15, 1⟩
abbrev F.AUD_IN_MAP_LINE0 (i j : Nat) : Fld := ⟨0x400100 + 0x1000 * i + 8 * j, 16, 4⟩
abbrev F.AUD_IN_MAP_EN0 (i j : Nat) : Fld := ⟨0x400100 + 0x1000 * i + 8 * j, 20, 1⟩
abbrev F.AUD_IN_MAP_RISE0 (i j : Nat) : Fld := ⟨0x400100 + 0x1000 * i + 8 * j, 21, 1⟩
abbrev F.AUD_IN_MAP_LINE1 (i j : Nat) : Fld := ⟨0x400100 + 0x1000 * i + 8 * j, 24, 4⟩
abbrev F.AUD_IN_MAP_EN1 (i j : Nat) : Fld := ⟨0x400100 + 0x1000 * i + 8 * j, 28, 1⟩
abbrev F.AUD_IN_MAP_RISE1 (i j : Nat) : Fld := ⟨0x400100 + 0x1000 * i + 8 * j, 29, 1⟩
abbrev F.AUD_IN_STAT_FRAMED (i j : Nat) : Fld := ⟨0x400104 + 0x1000 * i + 8 * j, 0, 1⟩
abbrev F.AUD_IN_STAT_FILL (i j : Nat) : Fld := ⟨0x400104 + 0x1000 * i + 8 * j, 16, 16⟩
abbrev F.AUD_OUT_NEXT_NEXT (i j : Nat) : Fld := ⟨0x400200 + 0x1000 * i + 8 * j, 0, 32⟩
abbrev F.AUD_OUT_QUEUE_DEPTH (i j : Nat) : Fld := ⟨0x400204 + 0x1000 * i + 8 * j, 0, 2⟩
abbrev F.AUD_OUT_QUEUE_DEFINED (i j : Nat) : Fld := ⟨0x400204 + 0x1000 * i + 8 * j, 2, 1⟩
abbrev F.ARR_STATUS_STATE : Fld := ⟨0x420000, 0, 2⟩
abbrev F.ARR_STATUS_FOLLOW : Fld := ⟨0x420000, 2, 1⟩
abbrev F.ARR_STATUS_SYNTHFB : Fld := ⟨0x420000, 3, 1⟩
abbrev F.ARR_STATUS_EPOCH : Fld := ⟨0x420000, 16, 16⟩
abbrev F.ARR_CLK_CTL_SRC : Fld := ⟨0x420004, 0, 1⟩
abbrev F.ARR_CLK_CTL_FAMILY : Fld := ⟨0x420004, 1, 1⟩
abbrev F.ARR_CLK_CTL_ADAPT : Fld := ⟨0x420004, 2, 1⟩
abbrev F.ARR_FOLLOW_RATIO_RATIO : Fld := ⟨0x420008, 0, 32⟩
abbrev F.ARR_SLIPS : Fld := ⟨0x42000c, 0, 32⟩
abbrev F.ARR_CAL_CTL_INMASK : Fld := ⟨0x420010, 0, 16⟩
abbrev F.ARR_CAL_CTL_OUTMASK : Fld := ⟨0x420010, 16, 8⟩
abbrev F.ARR_CAL_CTL_RUN : Fld := ⟨0x420010, 24, 1⟩
abbrev F.ARR_CAL_CTL_FORCE : Fld := ⟨0x420010, 25, 1⟩
abbrev F.ARR_CAL_CTL_BUSY : Fld := ⟨0x420010, 26, 1⟩
abbrev F.ARR_CAL_CTL_ERR : Fld := ⟨0x420010, 27, 1⟩
abbrev F.ARR_DROPS : Fld := ⟨0x420014, 0, 32⟩
abbrev F.ARR_PLAY_ZERO : Fld := ⟨0x420018, 0, 32⟩
abbrev F.ARR_PLAY_STALE : Fld := ⟨0x42001c, 0, 32⟩
abbrev F.ARR_REF_CTL_REF0_EN : Fld := ⟨0x420020, 0, 1⟩
abbrev F.ARR_REF_CTL_REF1_EN : Fld := ⟨0x420020, 1, 1⟩
abbrev F.ARR_IN_CTL_EN (i : Nat) : Fld := ⟨0x420100 + 0x20 * i, 0, 1⟩
abbrev F.ARR_IN_CTL_MUX (i : Nat) : Fld := ⟨0x420100 + 0x20 * i, 1, 2⟩
abbrev F.ARR_IN_CTL_GAIN (i : Nat) : Fld := ⟨0x420100 + 0x20 * i, 3, 7⟩
abbrev F.ARR_IN_CTL_ZC (i : Nat) : Fld := ⟨0x420100 + 0x20 * i, 10, 1⟩
abbrev F.ARR_IN_CTL_LOWLAT (i : Nat) : Fld := ⟨0x420100 + 0x20 * i, 11, 1⟩
abbrev F.ARR_IN_CTL_RATE (i : Nat) : Fld := ⟨0x420100 + 0x20 * i, 12, 4⟩
abbrev F.ARR_IN_CTL_FMT (i : Nat) : Fld := ⟨0x420100 + 0x20 * i, 16, 2⟩
abbrev F.ARR_IN_CTL_CLIP_SUSPECT (i : Nat) : Fld := ⟨0x420100 + 0x20 * i, 18, 1⟩
abbrev F.ARR_IN_BQ0_TYPE (i : Nat) : Fld := ⟨0x420104 + 0x20 * i, 0, 3⟩
abbrev F.ARR_IN_BQ0_SC (i : Nat) : Fld := ⟨0x420104 + 0x20 * i, 3, 1⟩
abbrev F.ARR_IN_BQ0_F0 (i : Nat) : Fld := ⟨0x420104 + 0x20 * i, 4, 9⟩
abbrev F.ARR_IN_BQ0_Q (i : Nat) : Fld := ⟨0x420104 + 0x20 * i, 16, 7⟩
abbrev F.ARR_IN_BQ1_TYPE (i : Nat) : Fld := ⟨0x420108 + 0x20 * i, 0, 3⟩
abbrev F.ARR_IN_BQ1_SC (i : Nat) : Fld := ⟨0x420108 + 0x20 * i, 3, 1⟩
abbrev F.ARR_IN_BQ1_F0 (i : Nat) : Fld := ⟨0x420108 + 0x20 * i, 4, 9⟩
abbrev F.ARR_IN_BQ1_Q (i : Nat) : Fld := ⟨0x420108 + 0x20 * i, 16, 7⟩
abbrev F.ARR_IN_BIND_SLOT (i : Nat) : Fld := ⟨0x42010c + 0x20 * i, 0, 12⟩
abbrev F.ARR_IN_BIND_VALID (i : Nat) : Fld := ⟨0x42010c + 0x20 * i, 15, 1⟩
abbrev F.ARR_IN_TRK_TRACKP (i : Nat) : Fld := ⟨0x420110 + 0x20 * i, 0, 6⟩
abbrev F.ARR_IN_TRK_TRACKN (i : Nat) : Fld := ⟨0x420110 + 0x20 * i, 8, 6⟩
abbrev F.ARR_IN_CAL_OFS (i : Nat) : Fld := ⟨0x420114 + 0x20 * i, 0, 16⟩
abbrev F.ARR_IN_CAL_GTRIM (i : Nat) : Fld := ⟨0x420114 + 0x20 * i, 16, 16⟩
abbrev F.ARR_IN_CLIPS (i : Nat) : Fld := ⟨0x420118 + 0x20 * i, 0, 32⟩
abbrev F.ARR_IN_STAT_FRAMED (i : Nat) : Fld := ⟨0x42011c + 0x20 * i, 0, 1⟩
abbrev F.ARR_IN_STAT_FILL (i : Nat) : Fld := ⟨0x42011c + 0x20 * i, 16, 16⟩
abbrev F.ARR_OUT_CTL_EN (i : Nat) : Fld := ⟨0x420300 + 0x10 * i, 0, 1⟩
abbrev F.ARR_OUT_CTL_ATTEN (i : Nat) : Fld := ⟨0x420300 + 0x10 * i, 1, 8⟩
abbrev F.ARR_OUT_CTL_MUTE (i : Nat) : Fld := ⟨0x420300 + 0x10 * i, 9, 1⟩
abbrev F.ARR_OUT_CTL_RATE (i : Nat) : Fld := ⟨0x420300 + 0x10 * i, 10, 4⟩
abbrev F.ARR_OUT_CTL_LOWLAT (i : Nat) : Fld := ⟨0x420300 + 0x10 * i, 14, 1⟩
abbrev F.ARR_OUT_CAL_OFS (i : Nat) : Fld := ⟨0x420304 + 0x10 * i, 0, 16⟩
abbrev F.ARR_OUT_CAL_GTRIM (i : Nat) : Fld := ⟨0x420304 + 0x10 * i, 16, 16⟩
abbrev F.ARR_OUT_NEXT_NEXT (i : Nat) : Fld := ⟨0x420308 + 0x10 * i, 0, 32⟩
abbrev F.ARR_OUT_QUEUE_DEPTH (i : Nat) : Fld := ⟨0x42030c + 0x10 * i, 0, 2⟩
abbrev F.ARR_OUT_QUEUE_DEFINED (i : Nat) : Fld := ⟨0x42030c + 0x10 * i, 2, 1⟩
abbrev F.ARR_CMP_CTL_EN (i : Nat) : Fld := ⟨0x420400 + 0x10 * i, 0, 1⟩
abbrev F.ARR_CMP_CTL_TRKP (i : Nat) : Fld := ⟨0x420400 + 0x10 * i, 1, 6⟩
abbrev F.ARR_CMP_CTL_TRKN (i : Nat) : Fld := ⟨0x420400 + 0x10 * i, 7, 6⟩
abbrev F.ARR_CMP_CTL_USEDAC (i : Nat) : Fld := ⟨0x420400 + 0x10 * i, 13, 1⟩
abbrev F.ARR_CMP_CTL_THRESH (i : Nat) : Fld := ⟨0x420400 + 0x10 * i, 14, 8⟩
abbrev F.ARR_CMP_CTL_HYST (i : Nat) : Fld := ⟨0x420400 + 0x10 * i, 22, 2⟩
abbrev F.ARR_CMP_CTL_EDGE (i : Nat) : Fld := ⟨0x420400 + 0x10 * i, 24, 2⟩
abbrev F.ARR_CMP_STAMP_LO (i : Nat) : Fld := ⟨0x420404 + 0x10 * i, 0, 32⟩
abbrev F.ARR_CMP_STAMP_HI (i : Nat) : Fld := ⟨0x420408 + 0x10 * i, 0, 32⟩
abbrev F.ARR_CMP_EDGES (i : Nat) : Fld := ⟨0x42040c + 0x10 * i, 0, 32⟩
abbrev F.ARR_ENV_CTL_EN (i : Nat) : Fld := ⟨0x420500 + 8 * i, 0, 1⟩
abbrev F.ARR_ENV_CTL_TRACK (i : Nat) : Fld := ⟨0x420500 + 8 * i, 1, 6⟩
abbrev F.ARR_ENV_CTL_THRESH (i : Nat) : Fld := ⟨0x420500 + 8 * i, 7, 7⟩
abbrev F.ARR_ENV_CTL_HOLD_MS (i : Nat) : Fld := ⟨0x420500 + 8 * i, 14, 8⟩
abbrev F.ARR_ENV_CTL_WAKE (i : Nat) : Fld := ⟨0x420500 + 8 * i, 22, 1⟩
abbrev F.ARR_ENV_STAT_ABOVE (i : Nat) : Fld := ⟨0x420504 + 8 * i, 0, 1⟩
abbrev F.ARR_ENV_STAT_WOKE (i : Nat) : Fld := ⟨0x420504 + 8 * i, 1, 1⟩
abbrev F.ARR_MTX_SEL_TERMINAL : Fld := ⟨0x420600, 0, 7⟩
abbrev F.ARR_MTX_DATA_LO : Fld := ⟨0x420604, 0, 32⟩
abbrev F.ARR_MTX_DATA_HI : Fld := ⟨0x420608, 0, 32⟩
abbrev F.ARR_CELL_A_TOPO (i : Nat) : Fld := ⟨0x420700 + 8 * i, 0, 3⟩
abbrev F.ARR_CELL_A_RA (i : Nat) : Fld := ⟨0x420700 + 8 * i, 3, 10⟩
abbrev F.ARR_CELL_A_RB (i : Nat) : Fld := ⟨0x420700 + 8 * i, 13, 10⟩
abbrev F.ARR_CELL_A_EN (i : Nat) : Fld := ⟨0x420700 + 8 * i, 31, 1⟩
abbrev F.ARR_CELL_B_C (i : Nat) : Fld := ⟨0x420704 + 8 * i, 0, 10⟩
abbrev F.ARR_FAB_STATUS_STATE : Fld := ⟨0x420800, 0, 2⟩
abbrev F.ARR_FAB_STATUS_RELEASED : Fld := ⟨0x420800, 2, 1⟩
abbrev F.ARR_FAB_STATUS_EPOCH : Fld := ⟨0x420800, 16, 16⟩
abbrev F.ARR_FAB_CTL_HOLD : Fld := ⟨0x420804, 0, 1⟩
abbrev F.ARR_FAB_CTL_RESET : Fld := ⟨0x420804, 1, 1⟩
abbrev F.ARR_FAB_CTL_RELEASE : Fld := ⟨0x420804, 2, 1⟩
abbrev F.ARR_FAB_CLK_FCLKSRC : Fld := ⟨0x420808, 0, 2⟩
abbrev F.ARR_FAB_CLK_DIVM1 : Fld := ⟨0x420808, 2, 4⟩
abbrev F.ARR_FAB_CLK_PINMHZ : Fld := ⟨0x420808, 8, 8⟩
abbrev F.ARR_FAB_SWIN : Fld := ⟨0x42080c, 0, 16⟩
abbrev F.ARR_FAB_SWOUT : Fld := ⟨0x420810, 0, 16⟩
abbrev F.ARR_FAB_UCATCHES : Fld := ⟨0x420814, 0, 32⟩
abbrev F.ARR_FAB_MSEL_MEM : Fld := ⟨0x420818, 0, 4⟩
abbrev F.ARR_FAB_MSEL_ADDR : Fld := ⟨0x420818, 4, 9⟩
abbrev F.ARR_FAB_MDATA_LO : Fld := ⟨0x42081c, 0, 32⟩
abbrev F.ARR_FAB_MDATA_HI : Fld := ⟨0x420820, 0, 4⟩
abbrev F.ARR_FAB_FLAG_LINE0 (i : Nat) : Fld := ⟨0x420840 + 4 * i, 0, 4⟩
abbrev F.ARR_FAB_FLAG_EN0 (i : Nat) : Fld := ⟨0x420840 + 4 * i, 4, 1⟩
abbrev F.ARR_FAB_FLAG_RISE0 (i : Nat) : Fld := ⟨0x420840 + 4 * i, 5, 1⟩
abbrev F.ARR_FAB_FLAG_LINE1 (i : Nat) : Fld := ⟨0x420840 + 4 * i, 8, 4⟩
abbrev F.ARR_FAB_FLAG_EN1 (i : Nat) : Fld := ⟨0x420840 + 4 * i, 12, 1⟩
abbrev F.ARR_FAB_FLAG_RISE1 (i : Nat) : Fld := ⟨0x420840 + 4 * i, 13, 1⟩
abbrev F.MB_STATUS_STATE : Fld := ⟨0x440000, 0, 2⟩
abbrev F.MB_STATUS_ADDR : Fld := ⟨0x440000, 2, 7⟩
abbrev F.MB_STATUS_EPOCH : Fld := ⟨0x440000, 16, 16⟩
abbrev F.MB_FILT_LEN : Fld := ⟨0x440004, 0, 5⟩
abbrev F.MB_TIMEOUT_MS : Fld := ⟨0x440008, 0, 6⟩
abbrev F.MB_CFG_ARA_EN : Fld := ⟨0x44000c, 0, 1⟩
abbrev F.MB_CFG_REQ_PEC : Fld := ⟨0x44000c, 1, 1⟩
abbrev F.MB_LAST_RESULT_CMD : Fld := ⟨0x440010, 0, 8⟩
abbrev F.MB_LAST_RESULT_STATUS : Fld := ⟨0x440010, 8, 8⟩
abbrev F.MB_LAST_RESULT_EPOCH : Fld := ⟨0x440010, 16, 16⟩
abbrev F.MB_CMDS : Fld := ⟨0x440020, 0, 32⟩
abbrev F.MB_PEC_ERRS : Fld := ⟨0x440024, 0, 32⟩
abbrev F.MB_BAD_CMDS : Fld := ⟨0x440028, 0, 32⟩
abbrev F.MB_TIMEOUTS : Fld := ⟨0x44002c, 0, 32⟩
abbrev F.MB_WAKES : Fld := ⟨0x440030, 0, 32⟩
abbrev F.MB_MST_CTL_TADDR : Fld := ⟨0x440100, 0, 7⟩
abbrev F.MB_MST_CTL_TCMD : Fld := ⟨0x440100, 8, 8⟩
abbrev F.MB_MST_CTL_SHAPE : Fld := ⟨0x440100, 16, 3⟩
abbrev F.MB_MST_CTL_PEC : Fld := ⟨0x440100, 19, 1⟩
abbrev F.MB_MST_CTL_RATE : Fld := ⟨0x440100, 20, 2⟩
abbrev F.MB_MST_CTL_START : Fld := ⟨0x440100, 24, 1⟩
abbrev F.MB_MST_DATA_DATA : Fld := ⟨0x440104, 0, 16⟩
abbrev F.MB_MST_STATUS_BUSY : Fld := ⟨0x440108, 0, 1⟩
abbrev F.MB_MST_STATUS_RESULT : Fld := ⟨0x440108, 1, 4⟩
abbrev F.MB_POLL_GLOBAL_PERIOD_MS : Fld := ⟨0x44013c, 0, 10⟩
abbrev F.MB_POLL_CTL_TADDR (i : Nat) : Fld := ⟨0x440140 + 8 * i, 0, 7⟩
abbrev F.MB_POLL_CTL_TCMD (i : Nat) : Fld := ⟨0x440140 + 8 * i, 8, 8⟩
abbrev F.MB_POLL_CTL_SHAPE (i : Nat) : Fld := ⟨0x440140 + 8 * i, 16, 3⟩
abbrev F.MB_POLL_CTL_PEC (i : Nat) : Fld := ⟨0x440140 + 8 * i, 19, 1⟩
abbrev F.MB_POLL_CTL_EN (i : Nat) : Fld := ⟨0x440140 + 8 * i, 31, 1⟩
abbrev F.MB_POLL_DATA_DATA (i : Nat) : Fld := ⟨0x440144 + 8 * i, 0, 16⟩
abbrev F.MB_POLL_DATA_RESULT (i : Nat) : Fld := ⟨0x440144 + 8 * i, 16, 4⟩
abbrev F.MB_POLL_DATA_AGE (i : Nat) : Fld := ⟨0x440144 + 8 * i, 20, 12⟩
abbrev F.SPIT_STATUS_STATE : Fld := ⟨0x450000, 0, 2⟩
abbrev F.SPIT_STATUS_EPOCH : Fld := ⟨0x450000, 16, 16⟩
abbrev F.SPIT_CFG_RDWAIT : Fld := ⟨0x450004, 0, 4⟩
abbrev F.SPIT_IMG_CTL_OPEN : Fld := ⟨0x450008, 0, 1⟩
abbrev F.SPIT_IMG_CTL_KIND : Fld := ⟨0x450008, 2, 2⟩
abbrev F.SPIT_IMG_CTL_PART : Fld := ⟨0x450008, 4, 3⟩
abbrev F.SPIT_LAST_RESULT_CMD : Fld := ⟨0x45000c, 0, 8⟩
abbrev F.SPIT_LAST_RESULT_STATUS : Fld := ⟨0x45000c, 8, 8⟩
abbrev F.SPIT_LAST_RESULT_EPOCH : Fld := ⟨0x45000c, 16, 16⟩
abbrev F.SPIT_PARTIALS : Fld := ⟨0x450010, 0, 32⟩
abbrev F.SPIT_BAD_FRAMES : Fld := ⟨0x450014, 0, 32⟩
abbrev F.QSPI_STATUS_BUSY : Fld := ⟨0x451000, 0, 1⟩
abbrev F.QSPI_STATUS_DONE : Fld := ⟨0x451000, 1, 1⟩
abbrev F.QSPI_STATUS_ERR : Fld := ⟨0x451000, 2, 1⟩
abbrev F.QSPI_STATUS_MODE : Fld := ⟨0x451000, 3, 2⟩
abbrev F.QSPI_STATUS_ADDR4 : Fld := ⟨0x451000, 5, 1⟩
abbrev F.QSPI_STATUS_SFDP : Fld := ⟨0x451000, 6, 1⟩
abbrev F.QSPI_CLK_QDIV : Fld := ⟨0x451004, 0, 7⟩
abbrev F.QSPI_CMD_OPC : Fld := ⟨0x451008, 0, 8⟩
abbrev F.QSPI_CMD_ADDRLEN : Fld := ⟨0x451008, 8, 3⟩
abbrev F.QSPI_CMD_LINES : Fld := ⟨0x451008, 11, 2⟩
abbrev F.QSPI_CMD_DUMMY : Fld := ⟨0x451008, 13, 5⟩
abbrev F.QSPI_CMD_WRITE : Fld := ⟨0x451008, 18, 1⟩
abbrev F.QSPI_CMD_LEN : Fld := ⟨0x451008, 19, 9⟩
abbrev F.QSPI_CMD_GO : Fld := ⟨0x451008, 31, 1⟩
abbrev F.QSPI_ADDR : Fld := ⟨0x45100c, 0, 32⟩
abbrev F.QSPI_DENSITY : Fld := ⟨0x451010, 0, 32⟩
abbrev F.QSPI_BUF (i : Nat) : Fld := ⟨0x451100 + 4 * i, 0, 32⟩
abbrev F.USB_STATUS_STATE : Fld := ⟨0x452000, 0, 3⟩
abbrev F.USB_STATUS_HS : Fld := ⟨0x452000, 3, 1⟩
abbrev F.USB_STATUS_EPOCH : Fld := ⟨0x452000, 16, 16⟩
abbrev F.USB_STRM_CTL_PERIOD_MS : Fld := ⟨0x452004, 0, 10⟩
abbrev F.USB_STRM_CTL_NREGM1 : Fld := ⟨0x452004, 16, 4⟩
abbrev F.USB_STRM_CTL_CATCH_EN : Fld := ⟨0x452004, 20, 1⟩
abbrev F.USB_STRM_DROPS : Fld := ⟨0x452008, 0, 32⟩
abbrev F.USB_RESETS : Fld := ⟨0x45200c, 0, 32⟩
abbrev F.USB_STRM_ADDR_WORD (i : Nat) : Fld := ⟨0x452040 + 4 * i, 2, 24⟩
abbrev F.SEC_FUSE_KEYHASH_SET : Fld := ⟨0x480000, 0, 1⟩
abbrev F.SEC_FUSE_IMGKEY_SET : Fld := ⟨0x480000, 1, 1⟩
abbrev F.SEC_FUSE_DEBUG_LOCK : Fld := ⟨0x480000, 2, 1⟩
abbrev F.SEC_FUSE_USB_BOOT_DIS : Fld := ⟨0x480000, 3, 1⟩
abbrev F.SEC_FUSE_SPI_BOOT_DIS : Fld := ⟨0x480000, 4, 1⟩
abbrev F.SEC_RB_COUNT_COUNT : Fld := ⟨0x480004, 0, 7⟩
abbrev F.SEC_RB_COMMIT_VALUE : Fld := ⟨0x480008, 0, 7⟩
abbrev F.SEC_RB_COMMIT_KEY : Fld := ⟨0x480008, 16, 16⟩
abbrev F.SEC_ACT_SEQ_SEQ : Fld := ⟨0x48000c, 0, 7⟩
abbrev F.SEC_KEYHASH (i : Nat) : Fld := ⟨0x480010 + 4 * i, 0, 32⟩
abbrev F.SEC_PROG_SEL_WORD : Fld := ⟨0x480040, 0, 5⟩
abbrev F.SEC_PROG_DATA : Fld := ⟨0x480044, 0, 32⟩
abbrev F.SEC_PROG_CTL_BURN : Fld := ⟨0x480048, 0, 1⟩
abbrev F.SEC_PROG_CTL_BUSY : Fld := ⟨0x480048, 1, 1⟩
abbrev F.SEC_PROG_CTL_ERR : Fld := ⟨0x480048, 2, 1⟩
abbrev F.SEC_RB_STAT_BUSY : Fld := ⟨0x480050, 0, 1⟩
abbrev F.SEC_RB_STAT_DONE : Fld := ⟨0x480050, 1, 1⟩
abbrev F.SEC_RB_STAT_REJECTED : Fld := ⟨0x480050, 2, 1⟩
abbrev F.VFW_BAD_ACCESS_COUNT (i : Nat) : Fld := ⟨0x4000014 + 0x10000 * i, 0, 16⟩
abbrev F.VFW_SCRATCH_VALUE (i : Nat) : Fld := ⟨0x4000018 + 0x10000 * i, 0, 32⟩
abbrev F.VFW_TABLE (i j k : Nat) : Fld := ⟨0x4008000 + 0x10000 * i + 0x10 * j + 4 * k, 0, 32⟩
abbrev F.VFW_VCTL_MASK (i j : Nat) : Fld := ⟨0x400800c + 0x10000 * i + 0x10 * j, 0, 1⟩
abbrev F.VFW_PBA (i j : Nat) : Fld := ⟨0x400c000 + 0x10000 * i + 4 * j, 0, 32⟩

end Sys2Proof.Machine
end

