-- ==== Sys2Proof/Machine/Sparse.lean ====
section
/-!
DEFINITION. Sys2Proof/Machine/Sparse.lean: the one canonical form in which the model holds sparse data: a list of
(key, value) pairs, keys strictly rising, no pair equal to what an unlisted key reads as. Memories, the register file,
the stream slots and the tiles are all held so, and equal contents are equal lists.
-/
namespace Sys2Proof.Machine

/-- Sparse data: an unlisted key `k` reads as `d k` for the default `d` that the reader names. -/
abbrev Sparse (α : Type) := List (Nat × α)

/-- The value at a key. -/
def Sparse.get {α : Type} (d : Nat → α) : Sparse α → Nat → α
  | [], k => d k
  | (a, v) :: t, k => if a = k then v else Sparse.get d t k

/-- Place a pair before the first one with a greater key. -/
def Sparse.place {α : Type} : Sparse α → Nat → α → Sparse α
  | [], k, v => [(k, v)]
  | (a, w) :: t, k, v => if k < a then (k, v) :: (a, w) :: t else (a, w) :: Sparse.place t k v

/-- Write a value at a key; writing what an unlisted key reads as removes the pair. -/
def Sparse.put {α : Type} [DecidableEq α] (d : Nat → α) (l : Sparse α) (k : Nat) (v : α) : Sparse α :=
  let r := l.filter fun p => !(p.1 == k)
  if v = d k then r else Sparse.place r k v

/-- Whether every key of the list is above `lo` and the keys rise strictly. -/
def Sparse.risesFrom {α : Type} : Nat → Sparse α → Bool
  | _, [] => true
  | lo, (a, _) :: t => lo ≤ a && Sparse.risesFrom (a + 1) t

/-- The canonical form. -/
def Sparse.wf {α : Type} [DecidableEq α] (d : Nat → α) (l : Sparse α) : Bool :=
  Sparse.risesFrom 0 l && l.all (fun p => !(p.2 = d p.1))

/-- Return the keys from `lo` up to, not including, `hi` to their default. -/
def Sparse.clear {α : Type} (lo hi : Nat) (l : Sparse α) : Sparse α :=
  l.filter (fun p => !(decide (lo ≤ p.1) && decide (p.1 < hi)))

/-- Change every listed value; a value that becomes the default leaves the list. -/
def Sparse.mapVals {α : Type} [DecidableEq α] (d : Nat → α) (f : Nat → α → α) : Sparse α → Sparse α
  | [] => []
  | (a, v) :: t =>
    if f a v = d a then (Sparse.mapVals d f t).filter fun p => !(p.1 == a) else (a, f a v) :: Sparse.mapVals d f t

/-- A memory: a list of (address, byte) pairs; an unlisted byte reads 0 (R202, R225: memory is zero-filled). -/
abbrev Memory := Sparse Byte

/-- What an unlisted byte of memory reads as. -/
def Memory.blank : Nat → Byte := fun _ => 0

/-- One byte of memory. -/
def Memory.read (m : Memory) (a : Nat) : Byte := Sparse.get Memory.blank m a

/-- Store one byte. -/
def Memory.write (m : Memory) (a : Nat) (b : Byte) : Memory := Sparse.put Memory.blank m a b

/-- Store a run of bytes from `a` upward. -/
def Memory.writes : Memory → Nat → List Byte → Memory
  | m, _, [] => m
  | m, a, b :: bs => Memory.writes (m.write a b) (a + 1) bs

/-- Read `n` bytes from `a` upward. -/
def Memory.reads (m : Memory) (a : Nat) : Nat → List Byte
  | 0 => []
  | n + 1 => m.read a :: Memory.reads m (a + 1) n

/-- The canonical form of a memory. -/
def Memory.wf (m : Memory) : Bool := Sparse.wf Memory.blank m

end Sys2Proof.Machine
end

