-- ==== Sys2Proof/Machine/State.lean ====
section
/-!
DEFINITION. Sys2Proof/Machine/State.lean: everything the spec gives the TC820 to remember, as plain data, and the
state after reset. A register of BAR0 is held in `regs` unless its docstring in Machine/Views.lean says it is a view
of another part of the state; whatever is no register stands in the structures below, chapter by chapter.
-/
namespace Sys2Proof.Machine

/-- The model has no faults: the spec reports every error of a command by a status, a counter or a catch record. -/
inductive Fault where
  deriving DecidableEq, Repr

/-- Why a command has no meaning in the model. -/
inductive Refusal where
  /-- Raised by the dispatch for a command whose meaning is not written yet: safe, the run stops. -/
  | notModelled (mnemonic : String)
  deriving DecidableEq, Repr

/-- One catch record (R600), before it is laid out in 32 bytes. -/
structure CatchRec where
  code : Nat
  sev : Nat
  unit : Nat
  stream : Option Nat := none
  serial : Nat := 0
  tick : Long := 0
  d0 : Nat := 0
  d1 : Nat := 0
  d2 : Nat := 0
  d3 : Nat := 0
  deriving DecidableEq, Repr

/-- The catch log (R601 to R605): the last 1,024 records with the newest last, how many were logged since power-on,
the last FATAL record, what has been lost since the last CATCH_LOST record and when that was logged, and whether
MSI-X vector 0 is armed. -/
structure CatchLog where
  recs : List CatchRec := []
  count : Nat := 0
  fatal : Option CatchRec := none
  lostPaths : Nat := 0
  lostCount : Nat := 0
  lostLogged : Option Nat := none
  armed : Bool := true
  deriving DecidableEq, Repr

/-- What the Headstock remembers beside its registers (R32 to R66). -/
structure Headstock where
  /-- TB_NOW -/
  now : Long := 0
  /-- the high word latched for each path (R34); the last entry made stands first -/
  latches : List (Path × Word) := []
  /-- the loop accumulator of R45 -/
  acc : Int := 0
  /-- consecutive missing pulses, and whether PPS_MISSING stands (R46) -/
  misses : Nat := 0
  missing : Bool := false
  /-- the run of consistent rejected edges and the stamp of its last edge (R47) -/
  rejects : Nat := 0
  lastReject : Option Long := none
  /-- the count has started (R32, R38) -/
  counting : Bool := false
  /-- whether the Headstock has been LOCKED since power-on (R54) -/
  everLocked : Bool := false
  /-- PCK_TEMP.TEMP at entry to HOLDOVER (R52) -/
  holdTemp : Nat := 0
  /-- the fraction of a tick carried in REST, in 1/256 tick (R54) -/
  restFrac : Nat := 0
  /-- TB_NOW at entry to REST -/
  restEntry : Long := 0
  /-- the part of the uncertainty below 1 ns, in millionths of a nanosecond, which UNC_NS does not show (R53, R54) -/
  uncFrac : Nat := 0
  /-- the ticks for which TBPPS_OUT stays high (R60) -/
  ppsOutLeft : Nat := 0
  /-- the mode that still acts on this tick, where TB_DISC_CTL.MODE has been changed on it (R66) -/
  modeWas : Option Nat := none
  /-- the part of a tick by which the slew has accrued, in units of 1/256 ppb of a tick (R44) -/
  slewFrac : Nat := 0
  /-- the grid tick up to which pulses have come or been counted as missing (R46) -/
  ppsFrom : Long := 0
  deriving DecidableEq, Repr

/-- Levels of the pins the rest domain reads and drives (R643), as levels: true is high. -/
structure Pins where
  pwrOk : Bool := false
  coldN : Bool := true
  perstN : Bool := true
  vbus : Bool := false
  coreEn : Bool := false
  storeEn : Bool := false
  farEn : Bool := false
  storeRet : Bool := false
  deriving DecidableEq, Repr

/-- Power, clock and reset control (R550 to R585) beside its registers. -/
structure Power where
  /-- power-on reset is held (R570) -/
  por : Bool := true
  pins : Pins := {}
  /-- a cold reset is held, by COLD_N low, by a trip or by a supply loss (R568, R572, R573) -/
  heldCold : Bool := false
  heldTrip : Bool := false
  heldSupply : Bool := false
  /-- benches on their way to SPIN with the tick they reach it (R79, R551) -/
  waking : List (Nat × Nat) := []
  /-- benches entering DWELL with the tick they are in it (R551) -/
  dwelling : List (Nat × Nat) := []
  /-- an accepted tile clock and the tick from which it may be applied, with the partitions and the rest still owing
  it: bit p for partition p, bit 8 for the other benches (R563) -/
  tileClk : Option (Nat × Nat × Nat) := none
  /-- partitions asked to be derated, by source (R567), indexed by path code -/
  derateBy : Sparse Nat := []
  /-- STORE_KEEP as taken at the acceptance of the REST order (R554), and the acceptance tick -/
  restKeep : Bool := false
  restAt : Nat := 0
  /-- the WAKESRC code of a wake that arrived during REST entry (R581) -/
  wakePending : Option Nat := none
  /-- the tick of the wake that the device follows: wakes of one RESTCLK period are one wake (R557) -/
  wokeAt : Nat := 0
  /-- the tick of the last kick or stage (R575) -/
  wdogAt : Nat := 0
  railSlow : Bool := false
  /-- benches that a regrip has joined to a partition and that are being loaded (R338) -/
  joining : List (Nat × Nat) := []
  /-- benches on their way to SPIN whose LAUNCH has passed without a chunk (R27) -/
  cancelled : List Nat := []
  /-- DEVICE segment values to which settings return (R578) -/
  imgTileMhz : Nat := 0
  deriving DecidableEq, Repr

/-- The ledger beside its registers: mismatched units with the tick of the mismatch (R597), and the states that they last reported
(R598). -/
structure Ledger where
  mismatch : List (Nat × Nat) := []
  reports : List (Nat × Nat) := []
  /-- the orders that register writes of the present cycle have submitted (R592) -/
  cycle : List Order := []
  /-- the path whose write came last, and the status and epoch of its outcome (R501, R596) -/
  lastSrc : OSrc := .pf
  lastStatus : Nat := 0
  lastEpoch : Nat := 0
  deriving DecidableEq, Repr

/-- A timetable entry, its four words (R70). -/
structure TtEntry where
  w0 : Nat := 0
  w1 : Nat := 0
  w2 : Nat := 0
  w3 : Nat := 0
  deriving DecidableEq, Repr

/-- A merge bank that a turn has opened: the MERGE entry that closes it, with its place in the timetable, the turn, and the close
tick (R265). -/
structure OpenBank where
  entry : TtEntry := {}
  index : Nat := 0
  turn : Nat := 0
  close : Nat := 0
  deriving DecidableEq, Repr

/-- A stream group (R74), with the word of TT_GRP_CFG. -/
structure Group where
  id : Nat := 0
  cfg : Nat := 0
  dl : Nat := 0
  ll : Nat := 0
  ovr : Nat := 0
  ddl : Nat := 0
  dll : Nat := 0
  deriving DecidableEq, Repr

/-- A tile record of a plane (R311): the program table holds its words. -/
structure TileRec where
  tile : Nat := 0
  fbase : Nat := 0
  flen : Nat := 0
  pbase : Nat := 0
  plen : Nat := 0
  rbase : Nat := 0
  mode : Nat := 0
  progs : List Nat := []
  data : List (Nat × List Byte) := []
  deriving DecidableEq, Repr

/-- A slot record of a plane (R309): the slot number and bytes 0x00 to 0x3B of its directory entry. -/
structure SlotDecl where
  slot : Nat := 0
  bytes : List Byte := []
  deriving DecidableEq, Repr

/-- A partition's plane as the Chuck reads it from an image (R309 to R311). -/
structure Plane where
  build : Nat := 0
  seq : Nat := 0
  turnLen : Nat := 0
  soft : Bool := false
  stop : Bool := false
  autoen : Bool := false
  checked : Bool := false
  benches : Nat := 0
  idle : Nat := 0
  nocMhz : Nat := 0
  prBase : Nat := 0
  prSize : Nat := 0
  /-- CARVE records: word A, word B, FAR -/
  carves : List (Nat × Nat × Bool) := []
  slots : List SlotDecl := []
  /-- MODELS records: slot and three words -/
  models : List (Nat × Nat × Nat × Nat) := []
  groups : List Group := []
  normal : List TtEntry := []
  derated : List TtEntry := []
  /-- route entries, walker descriptors and merge descriptors, eight words each -/
  routes : List (List Nat) := []
  tiles : List TileRec := []
  walkMask : Nat := 0
  walkers : List (List Nat) := []
  merges : List (List Nat) := []
  /-- EMITS and SAMPLES bodies, as words -/
  emits : List Nat := []
  samples : List Nat := []
  /-- POOLS records: words A to D -/
  pools : List (Nat × Nat × Nat × Nat) := []
  farWins : List (Nat × Nat) := []
  deriving DecidableEq, Repr

/-- A regrip order that waits for its boundary (R329, R330): the boundary tick once it is known, the first boundary
under DRAIN, and the order's mask, flag and DRAIN_TURNS. -/
structure Regrip where
  pmask : Nat := 0
  drain : Bool := false
  turns : Nat := 1
  accepted : Nat := 0
  first : Nat := 0
  deriving DecidableEq, Repr

/-- One partition at run time. -/
structure Part where
  active : Option Plane := none
  staged : Option Plane := none
  /-- the retiring plane with its boundary tick (R336, R337) -/
  retiring : Option (Plane × Nat) := none
  regrip : Option Regrip := none
  /-- the derated timetable is in force (R100) -/
  derated : Bool := false
  /-- a derate is in force: its clock runs (R564), with or without a derated timetable (R100) -/
  slow : Bool := false
  /-- the turn origin under the retiring plane, where it differs (R334) -/
  oldOrg : Nat := 0
  /-- the retiring plane ran its derated timetable at the boundary -/
  oldDerated : Bool := false
  /-- the boundary at which the turn in force began; none while no turn is in force (R98, R664) -/
  turnStart : Option Nat := none
  /-- the first entry of the turn that has still to act; for a retiring plane with the turn that it belongs to (R73, R336) -/
  seen : Nat := 0
  oldSeen : Nat × Nat := (0, 0)
  /-- DEADLINE_LATE results of this turn (R311 of the catch's detail) -/
  lateThisTurn : Nat := 0
  /-- a fence under STOP asked for the stop that begins at the next boundary (R298) -/
  stopAsked : Bool := false
  /-- the routes of the active plane and of the retiring one (`true`) whose cut has been logged, by source and destination (R297) -/
  cutSeen : List (Bool × Nat × Nat) := []
  /-- the merge banks that the turns in force have opened (R265), and those of the retiring plane -/
  banks : List OpenBank := []
  oldBanks : List OpenBank := []
  deriving DecidableEq, Repr

/-- A chunk in a stream slot (R84, R101): the header fields as stamped, and its progress. -/
structure Chunk where
  /-- the partition that owned the slot when the chunk was stamped -/
  part : Nat := 0
  stream : Nat := 0
  model : Nat := 0
  flags : Nat := 0
  seq : Nat := 0
  arrival : Nat := 0
  deadline : Nat := 0
  format : Nat := 0
  rate : Nat := 0
  count : Nat := 0
  upos0 : Nat := 0
  upos1 : Nat := 0
  dueTurn : Nat := 0
  lastLaunch : Nat := 0
  /-- the ingest and result buffer it holds, 0 or 1 (R213) -/
  buf : Nat := 0
  payload : Nat := 0
  /-- the slot area as it stood at stamping: its Store offset and the sizes of its parts (R212) -/
  base : Nat := 0
  stateSize : Nat := 0
  cbuf : Nat := 0
  rbuf : Nat := 0
  /-- gathered, and its batch position -/
  pos : Option Nat := none
  gatheredAt : Nat := 0
  gatherTurn : Nat := 0
  /-- the stage whose program runs now, and how many stages have completed, with the tick of the last completion -/
  running : Option Nat := none
  done : Nat := 0
  doneAt : Nat := 0
  /-- tiles that still owe CDONE for the running stage -/
  owing : List Nat := []
  launched : Bool := false
  /-- launched under the plane that is now retiring (R336) -/
  old : Bool := false
  /-- the stream group that gathers and launches it -/
  group : Nat := 0
  /-- the model range resolved at stage-0 launch: base and size in 4 KiB units (R335) -/
  modelBase : Nat := 0
  modelSize : Nat := 0
  /-- the stage record is bound to it, its tail waits for a far-memory window, preparation done (R255, R270), and a peer's partial was
  left out (R266) -/
  bound : Bool := false
  tailWait : Bool := false
  prepared : Bool := false
  partialOut : Bool := false
  /-- the state area's cells and poison as they stood before the chunk's first write into it (R23) -/
  before : Option (Memory × List Nat) := none
  deriving DecidableEq, Repr

/-- A completed result (R87) and the destinations it has left on, each a ledger unit with a pair, path or slot there (R26). -/
structure Result where
  chunk : Chunk := {}
  flags : Nat := 0
  status : Nat := 0
  complete : Nat := 0
  rformat : Nat := 0
  rrate : Nat := 0
  rcount : Nat := 0
  wait : Nat := 0
  buf : Nat := 0
  old : Bool := false
  sent : List (Nat × Nat) := []
  deriving DecidableEq, Repr

/-- One stream slot beside its directory entry in the Store (R211). -/
structure SlotDyn where
  chunks : List Chunk := []
  results : List Result := []
  /-- the next chunk carries GAP (R96), is treated as carrying NEWUTT (R89, R222, R331) -/
  gap : Bool := false
  newUtt : Bool := false
  /-- how often the slot has become declared (R409) -/
  decls : Nat := 0
  /-- sequence number of the chunk stamped last, whose result is the slot's last one (R24) -/
  lastSeq : Option Nat := none
  /-- pins that the held stage record added, by page number, and the walker descriptor it is held under (R254) -/
  pins : List Nat := []
  walkDesc : Option (List Nat) := none
  walker : Option Nat := none
  /-- the due turn that the record was staged for, and the due turn whose chunk is not taken (R251) -/
  walkTurn : Nat := 0
  skip : Option Nat := none
  /-- the blocks that the walk has still to stage while it waits for a far-memory window (R270), and the due turn whose walk failed,
  with the outcome of its chunk (R208, R221) -/
  walkLeft : List Nat := []
  walkFail : Option (Nat × Nat) := none
  deriving DecidableEq, Repr

/-- A launch of a program on tiles (R113): the plane it came from, program, stage, slice and the chunks it took. -/
structure Launch where
  part : Nat := 0
  old : Bool := false
  prog : Nat := 0
  group : Nat := 0
  stage : Nat := 0
  slice : Nat := 0
  /-- the chunks taken, in batch order: slot and arrival tick -/
  chunks : List (Nat × Nat) := []
  /-- SEQ of the lowest batch position, and the seed at the LAUNCH tick (R390, R399) -/
  seq : Nat := 0
  seedLo : Nat := 0
  seedHi : Nat := 0
  /-- the tiles started, in increasing number: a tile's own place in it is S3, the length S4 -/
  tiles : List Nat := []
  tick : Nat := 0
  deriving DecidableEq, Repr

/-- One active hardware loop level (R111, R119): the first and the end bundle of its body, the iterations that remain,
and for a strip loop the length of its last iteration and of the others. -/
structure LoopLevel where
  start : Nat := 0
  stop : Nat := 0
  count : Nat := 0
  strip : Bool := false
  last : Nat := 0
  maxvl : Nat := 0
  deriving DecidableEq, Repr

/-- The shadow of an MSET (R124): the bundles of it still to come, the mode before the change and the FMASK bits that
changed, both as the first bundle of the shadow sees them, the FMASK bits changed by it and by the MSETs in whose shadows it
stands, where to restart, and the loop levels active there (R127). -/
structure Shadow where
  left : Nat := 0
  oldMode : Nat := 0
  mask : Nat := 0
  hazard : Nat := 0
  restart : Nat := 0
  loops : List LoopLevel := []
  deriving DecidableEq, Repr

/-- A branch whose delay slot comes next (R118): the branch bundle, and the bundle after the delay slot. -/
structure Delay where
  branch : Nat := 0
  next : Nat := 0
  taken : Bool := false
  deriving DecidableEq, Repr

/-- A matrix operation (R152 to R157): its descriptor words and address, the MX field at its issue (R155), the 64 bytes
at AUX as copied (R184) and the poisoned word met there, whether it runs, and the next column block (R189). -/
structure MtxOp where
  desc : List Nat := []
  addr : Nat := 0
  mx : Nat := 0
  hdr : List Nat := []
  bad : Option Nat := none
  started : Bool := false
  col : Nat := 0
  deriving DecidableEq, Repr

/-- A transfer (R217): its direction, descriptor words and address, the chunk that was selected (slot and arrival tick) with
the device address and size of its state area, ingest buffer, result buffer and model range (R216), the partition whose
program issued it and whether that was its retiring plane, whether it has started, and whether it waits for a far-memory
window (R295). -/
structure Xfer where
  put : Bool := false
  desc : List Nat := []
  addr : Nat := 0
  chunk : Option (Nat × Nat) := none
  regions : List (Nat × Nat) := []
  part : Nat := 0
  old : Bool := false
  started : Bool := false
  waits : Bool := false
  deriving DecidableEq, Repr

/-- One compute tile (R111): what is not a register of its window. -/
structure Tile where
  /-- 0 idle, 1 running, 2 halted, 3 reloading -/
  run : Nat := 0
  /-- runs on after RESUME from an exception halt (R142) -/
  detached : Bool := false
  /-- halted by an exception -/
  excHalt : Bool := false
  launch : Option Launch := none
  /-- launches that wait for SPIN, for a reload or for the program that runs (R82, R128, R336), oldest first -/
  waiting : List Launch := []
  /-- the program area and recipe table of the program that runs (R112), its bundles, and whether its plane is checked -/
  pbase : Nat := 0
  plen : Nat := 0
  rbase : Nat := 0
  checked : Bool := false
  pc : Nat := 0
  mode : Nat := 0
  shadow : Option Shadow := none
  delay : Option Delay := none
  /-- active loop levels, the outermost first -/
  loops : List LoopLevel := []
  vlens : List Nat := [256, 0, 0, 0, 0]
  /-- S1 to S31; V0 to V15 with element i of register v at 256 v + i; M0 to M15 -/
  sregs : Sparse Long := []
  vregs : Sparse Word := []
  masks : Sparse (BitVec 256) := []
  /-- the selected chunk, as an index into the slice, and the chunks for which this tile has executed CDONE -/
  sel : Option Nat := none
  cdone : List Nat := []
  /-- the store buffer, oldest entry first: each entry's enabled bytes with their tile addresses (R135) -/
  stores : List (List (Nat × Byte)) := []
  ops : List MtxOp := []
  xfers : List Xfer := []
  /-- the kinds of wait of the bundle at PC that have been counted, as a mask (R135, R136, R154) -/
  waited : Nat := 0
  /-- a STEP is under way: the tile halts after this bundle, or after the delay slot of this branch (R141) -/
  stepping : Bool := false
  /-- a breakpoint at this PC has been taken and is passed over once (R141) -/
  passBp : Option Nat := none
  /-- the counter of stochastic rounding has wrapped in this launch (R391) -/
  srWrapped : Bool := false
  /-- tick of the last bundle issued, for the hang watch (R576) -/
  issuedAt : Nat := 0
  deriving DecidableEq, Repr

/-- What an input path or a port's input entry has gathered of one chunk: the samples as bytes, the doubt about them, and
the sample at which each user flag was first raised (R88, R409, R452, R475), with the instant of its last sample. -/
structure Gather where
  at_ : Nat := 0
  bytes : List Byte := []
  suspect : Bool := false
  user0 : Option Nat := none
  user1 : Option Nat := none
  newUtt : Bool := false
  gap : Bool := false
  deriving DecidableEq, Repr

/-- An input path of the array die or an input entry of a port (R406 to R409, R472 to R475): its framing, the chunk in
progress, the chunks whose last sample has still to be filed, and the numbering of its chunks. -/
structure InPath where
  /-- the tick from which it has been enabled and unframed, where it is unframed (R408) -/
  enabledAt : Nat := 0
  framed : Bool := false
  /-- the ALIGN tick, until sample 0 has come -/
  from_ : Option Nat := none
  fill : Nat := 0
  /-- the samples of its chunks, as the slot's group gave them last (R29, R408) -/
  size : Nat := 0
  /-- the chunk in progress has been discarded; its place in the count of samples stays (R468) -/
  bad : Bool := false
  cur : Gather := {}
  /-- the levels of the bound flag lines at the sample before (R452), and that sample (R411) -/
  prev0 : Bool := false
  prev1 : Bool := false
  last : List Byte := []
  ready : List Gather := []
  /-- the number of the last chunk, and the declarations of the slot under which it was stamped and framed -/
  seq : Nat := 0
  declSeq : Nat := 0
  declFrame : Nat := 0
  /-- marks for the next chunk (R409) -/
  newUtt : Bool := false
  gap : Bool := false
  /-- a GAIN write that waits, and the samples it has waited (R403) -/
  gain : Option Nat := none
  gainWait : Nat := 0
  deriving DecidableEq, Repr

/-- A result in a play queue (R415, R477) with its payload. -/
structure Queued where
  stream : Nat := 0
  seq : Nat := 0
  status : Nat := 0
  rformat : Nat := 0
  rrate : Nat := 0
  rcount : Nat := 0
  payload : List Byte := []
  deriving DecidableEq, Repr

/-- An output path of the array die or an output slot of a port: its play queue, NEXT, and the result that sounds: the tick
from which it does, and the samples that remain. -/
structure OutPath where
  queue : List Queued := []
  next : Option Nat := none
  /-- NEXT has become undefined again, so that its register shows no value that the spec gives (R415) -/
  stale : Bool := false
  start : Nat := 0
  playing : List Nat := []
  fmt : Nat := 0
  deriving DecidableEq, Repr

/-- One serial audio port beside its registers (R463 to R471). -/
structure Port where
  enabledAt : Nat := 0
  /-- a frame start has been seen since BCLK came -/
  seen : Bool := false
  /-- self-framed search: candidate positions with their matches; the position locked at; misses -/
  cand : List (Nat × Nat) := []
  lock : Option Nat := none
  misses : Nat := 0
  /-- the owned slots stay undriven in the next frame (R467) -/
  yieldNext : Bool := false
  /-- the DOUT slots driven in the frame that runs, with their data bits (R462, R464) -/
  driven : List (Nat × Nat) := []
  deriving DecidableEq, Repr

/-- The array die beside its registers: calibration in progress (R423), and the levels of comparators as last reported. -/
structure ArrayDie where
  calIn : Nat := 0
  calOut : Nat := 0
  cmp : Nat := 0
  /-- the matrix records of the ARRAY segment: terminal and its closed tracks (R417) -/
  matrix : List (Nat × Nat) := []
  deriving DecidableEq, Repr

/-- The macrocell fabric beside its registers (R431 to R453): its configuration, the registers and memory bits that hold 1,
the levels of its pins, its synchronisers, the level of FABCLK, and for each flag line its level, the level before its last
change, and the tick of that change. -/
structure Fabric where
  /-- the bytes of the FABRIC body that are not zero, by offset -/
  cfg : Memory := []
  regs : Sparse Bool := []
  mem : Sparse Bool := []
  pins : Nat := 0
  clkHigh : Bool := false
  /-- RUNNING since it was configured, so that its flag lines are live (R458) -/
  ran : Bool := false
  /-- the level of UCATCH, and its rising edges that have not been counted yet (R451) -/
  ucatch : Bool := false
  ucRises : Nat := 0
  released : Bool := false
  releaseDue : Bool := false
  flags : List (Bool × Bool × Nat) := List.replicate 16 (false, false, 0)
  /-- the tick of the last FABCLK edge, and whether its loss has been declared (R442) -/
  edgeAt : Nat := 0
  clkLost : Bool := false
  deriving DecidableEq, Repr

/-- An ingest entry that has been fetched and whose payload is on its way (R362, R363); `gone` once it is dropped, with the GAP of its
stream still to be marked (R96). -/
structure Ingest where
  gone : Bool := false
  stream : Nat := 0
  model : Nat := 0
  flags : Nat := 0
  seq : Nat := 0
  format : Nat := 0
  rate : Nat := 0
  count : Nat := 0
  upos0 : Nat := 0
  upos1 : Nat := 0
  plen : Nat := 0
  buf : Nat := 0
  deriving DecidableEq, Repr

/-- A queue pair beside its registers (R360 to R370): the ingest tail, the result head and the phase; the entries fetched and
not yet passed by IN_HEAD, none for one that is dropped already; and the tails whose doorbells are not answered yet. -/
structure Pair where
  tail : Nat := 0
  head : Nat := 0
  phase : Bool := true
  flight : List (Option Ingest) := []
  bells : List Nat := []
  deriving DecidableEq, Repr


/-- The service paths beside their registers (R486 to R547): the sticky flags of GET_STATUS (R498), how often in a row each poll
entry has failed (R510), whether a START waits (R506) and whether the bus is held for a wake (R495); the sticky flags of the SPI status
byte (R528); the USB address, the state to which a resume returns, the halted endpoints, what LAST_RESULT answers (R534) and the register
samples not yet sent (R533 to R538), with what remains of the EP2 record that is being sent and the serial number of its catch, if it is
one; the JTAG instruction, the debug address, the data captured, the boundary preload and the levels sampled (R539 to R542). Of what is
under way: whether the management bus serves a transaction (R518) and the SPI target a frame (R549), the SHAPE of the controller
transaction on the bus, the ticks of the last poll (R506) and of the last register sample (R538), the flash command sent (R525), and the
ticks for which a cold reset keeps the USB port detached (R545). -/
structure Service where
  pecSeen : Bool := false
  woke : Bool := false
  toSeen : Bool := false
  holding : Bool := false
  pollFails : Sparse Nat := []
  startWaits : Bool := false
  rdMiss : Bool := false
  partialFrame : Bool := false
  usbAddr : Nat := 0
  usbBefore : Nat := 0
  usbHalt : Nat := 0
  usbLast : Nat × Nat × Nat := (0, 0, 0)
  samples : List (List Byte) := []
  ep2 : Option (Option Nat × List Byte) := none
  jtagIr : Nat := 1
  dbgAddr : Nat := 0
  dbgData : Word := 0
  boundary : Nat := 0
  sampled : Nat := 0
  serving : Bool := false
  inFrame : Bool := false
  mstShape : Nat := 0
  pollAt : Nat := 0
  strmAt : Nat := 0
  qspiCmd : Nat := 0
  usbOff : Nat := 0
  deriving DecidableEq, Repr


/-- What the model has sent to the world outside, oldest first: MSI-X messages, writes into host memory, replies. -/
inductive Out where
  | msix (fn vec : Nat)
  | hostWrite (fn addr : Nat) (bytes : List Byte)
  | reply (p : Path) (bytes : List Byte)
  | poisoned (p : Path)
  | nak (p : Path)
  | stall (p : Path)
  deriving DecidableEq, Repr

/-- A load of an image (R317, R325): KIND 0 FULL, 1 STAGE, 2 ACTIVE; SRC as IMG_STATUS codes it. -/
structure Load where
  kind : Nat := 0
  part : Nat := 0
  src : Nat := 0
  boot : Bool := false
  bytes : List Byte := []
  len : Nat := 0
  lastData : Nat := 0
  deriving DecidableEq, Repr

/-- The Chuck and the fuses (R313 to R323). -/
structure Chuck where
  load : Option Load := none
  booting : Bool := false
  /-- boot sources not yet left, the one being tried first -/
  sources : List Nat := []
  /-- the tick from which the present bound of R314 runs -/
  sourceAt : Nat := 0
  /-- the flash has been probed in this attempt (R521), the retries of the present block, and the QSCK divider of its next read -/
  probed : Bool := false
  retries : Nat := 0
  blockDiv : Nat := 0
  /-- the Chuck is to run on leaving REST (R559) -/
  bootDue : Bool := false
  /-- fuses: the flag word, the key hash and image key words, the rollback counter; they survive everything -/
  fuseFlags : Nat := 0
  keyHash : Sparse Nat := []
  imgKey : Sparse Nat := []
  rbCount : Nat := 0
  /-- a rollback commit that is fusing -/
  rbTarget : Option Nat := none
  /-- partitions whose AUTOEN waits for the Headstock (R38) -/
  autoen : Nat := 0
  /-- SEQ of the image of the device segments; none before any (R348) -/
  devSeq : Option Nat := none
  /-- device segment bodies in force: TYPE and bytes -/
  devSegs : List (Nat × List Byte) := []
  deriving DecidableEq, Repr

/-- Everything of the device that is neither a register nor a memory. -/
structure Dev where
  hs : Headstock := {}
  pwr : Power := {}
  log : CatchLog := {}
  ledg : Ledger := {}
  /-- when a rate-limited catch was last logged, plus one: key 256 × code + unit (R613, R664) -/
  marks : Sparse Nat := []
  parts : Sparse Part := []
  slots : Sparse SlotDyn := []
  tiles : Sparse Tile := []
  /-- poisoned units of memory by their base device address: 8-byte words of tile memory (R201), 64-byte lines of
  the Store and of far memory (R221, R224) -/
  poison : List Nat := []
  chuck : Chuck := {}
  pairs : Sparse Pair := []
  /-- NumVFs while VF Enable is set, else 0 -/
  numVfs : Nat := 0
  /-- the size of BAR2, of those that Resizable BAR offers (R354) -/
  bar2Size : Nat := 2 ^ 30
  /-- input entry s of port p at 32 p + s, input path i of the array at 128 + i; output slots and output paths alike -/
  ins : Sparse InPath := []
  outs : Sparse OutPath := []
  ports : Sparse Port := []
  arr : ArrayDie := {}
  fab : Fabric := {}
  /-- FAR_CFG as the last START took it, and whether the contents are kept through the run in progress (R226, R228, R239) -/
  farCfg : Nat := 0
  /-- the tick at which the training run in progress began (R228) -/
  farSince : Nat := 0
  farKeep : Bool := false
  svc : Service := {}
  out : List Out := []
  deriving DecidableEq, Repr

/-- The machine: the device, its registers, its memory at device addresses (R199), the memory of the host as the
device has written it, the counter from which free values are drawn, and the commands that wait. -/
structure State where
  dev : Dev := {}
  regs : Sparse Word := []
  mem : Memory := []
  host : Memory := []
  free : Nat := 0
  pending : List Instr := []
  deriving DecidableEq, Repr

/-- The machine right after reset: in power-on reset, before its release (R570, R573, R656). -/
def State.reset : State := {}

end Sys2Proof.Machine
end

