-- ==== Sys2Proof/Machine/Ops.lean ====
section
/-!
DEFINITION. Sys2Proof/Machine/Ops.lean: the shared operations. A meaning is a `Prog`: a sequence of acts on the state,
each computed from the state as the acts before it have left it. Acts are the only way in which the model changes a
state, so what every command can do to a register, to memory or to the queue is read off `Act.apply` alone.
-/
namespace Sys2Proof.Machine

/-- One act on the state. No act touches the queue of commands. -/
inductive Act where
  /-- change what is neither register nor memory -/
  | dev (f : Dev → Dev)
  /-- set the word of one register -/
  | reg (off : Nat) (v : Word)
  /-- return to its reset value every register field that `keep` does not keep, given the register's offset -/
  | lose (keep : Nat → FieldSpec → Bool)
  /-- store bytes at a device address -/
  | bytes (a : Nat) (bs : List Byte)
  /-- zero-fill the device addresses from `lo` up to, not including, `hi` -/
  | zero (lo hi : Nat)
  /-- store bytes into the memory of the host -/
  | hostBytes (a : Nat) (bs : List Byte)
  /-- use up one free value -/
  | draw

/-- One field of a word as it stands, or its reset value where the field is not kept. -/
def keepField (keep : FieldSpec → Bool) (v : Word) (f : FieldSpec) : Nat :=
  if keep f then bitsOf v.toNat f.lo f.w * 2 ^ f.lo else f.reset * 2 ^ f.lo

/-- The word of a register after a loss of the fields that `keep` does not keep. -/
def loseWord (keep : Nat → FieldSpec → Bool) (off : Nat) (v : Word) : Word :=
  BitVec.ofNat 32 (((RegMap.fields off).map (keepField (keep off) v)).foldl (· + ·) 0)

def Act.apply (a : Act) (s : State) : State :=
  match a with
  | .dev f => { s with dev := f s.dev }
  | .reg off v => { s with regs := Sparse.put RegMap.resetWord s.regs off v }
  | .lose keep => { s with regs := Sparse.mapVals RegMap.resetWord (loseWord keep) s.regs }
  | .bytes a bs => { s with mem := s.mem.writes a bs }
  | .zero lo hi => { s with mem := Sparse.clear lo hi s.mem }
  | .hostBytes a bs => { s with host := s.host.writes a bs }
  | .draw => { s with free := s.free + 1 }

/-- A meaning, as a program of acts. -/
inductive Prog where
  | nop
  | act (a : Act)
  | seq (p q : Prog)
  /-- look at the state and go on from what it holds -/
  | look (f : State → Prog)

def Prog.run : Prog → State → State
  | .nop, s => s
  | .act a, s => a.apply s
  | .seq p q, s => q.run (p.run s)
  | .look f, s => (f s).run s

/-- Do one program after the other. -/
def all : List Prog → Prog
  | [] => .nop
  | p :: ps => .seq p (all ps)

def when (c : Bool) (p : Prog) : Prog := if c then p else .nop

def each {α : Type} (l : List α) (f : α → Prog) : Prog := all (l.map f)

abbrev look := Prog.look

/-- The outcome of a command whose effect is the program `p`: it always goes on. -/
def done (p : Prog) (s : State) : Host.Outcome State Fault Refusal := .next (p.run s)

/-! ## The state's parts -/

def modDev (f : Dev → Dev) : Prog := .act (.dev f)
def modHs (f : Headstock → Headstock) : Prog := modDev fun d => { d with hs := f d.hs }
def modPwr (f : Power → Power) : Prog := modDev fun d => { d with pwr := f d.pwr }
def modLog (f : CatchLog → CatchLog) : Prog := modDev fun d => { d with log := f d.log }
def modChuck (f : Chuck → Chuck) : Prog := modDev fun d => { d with chuck := f d.chuck }

/-- Replace element `i` of a list; nothing where the list is shorter. -/
def modNth {α : Type} (f : α → α) : List α → Nat → List α
  | [], _ => []
  | a :: l, 0 => f a :: l
  | a :: l, i + 1 => a :: modNth f l i

def Part.blank : Nat → Part := fun _ => {}
def State.part (s : State) (p : Nat) : Part := Sparse.get Part.blank s.dev.parts p
def modPart (p : Nat) (f : Part → Part) : Prog :=
  modDev fun d => { d with parts := Sparse.put Part.blank d.parts p (f (Sparse.get Part.blank d.parts p)) }

def SlotDyn.blank : Nat → SlotDyn := fun _ => {}
def State.slot (s : State) (n : Nat) : SlotDyn := Sparse.get SlotDyn.blank s.dev.slots n
def modSlot (n : Nat) (f : SlotDyn → SlotDyn) : Prog :=
  modDev fun d => { d with slots := Sparse.put SlotDyn.blank d.slots n (f (Sparse.get SlotDyn.blank d.slots n)) }

def Tile.blank : Nat → Tile := fun _ => {}
def State.tile (s : State) (t : Nat) : Tile := Sparse.get Tile.blank s.dev.tiles t
def modTile (t : Nat) (f : Tile → Tile) : Prog :=
  modDev fun d => { d with tiles := Sparse.put Tile.blank d.tiles t (f (Sparse.get Tile.blank d.tiles t)) }

/-- A tile that a fence, a trip or a reset stops: nothing of its program is left, and its matrix work and transfers are
abandoned (R175, R235, R296). -/
def Tile.stopped (t : Tile) : Tile := { vregs := t.vregs, masks := t.masks }

def emitOut (o : Out) : Prog := modDev fun d => { d with out := d.out ++ [o] }

/-- TB_NOW (R32). -/
def State.now (s : State) : Nat := s.dev.hs.now.toNat

/-- Whether tick `t` has come, compared modulo 2^64 within a window of 2^63 (R67). -/
def State.reached (s : State) (t : Nat) : Bool :=
  decide ((s.dev.hs.now - BitVec.ofNat 64 t).toNat < 2 ^ 63)

/-- Ticks from `t` to now, modulo 2^64. -/
def State.since (s : State) (t : Nat) : Nat := (s.dev.hs.now - BitVec.ofNat 64 t).toNat

/-- Draw a free value of `w` bits and go on with it. -/
def drawFree (w : Nat) (f : Nat → Prog) : Prog :=
  look fun s => .seq (.act .draw) (f ((Config.freeWord s.free).toNat % 2 ^ w))

/-! ## Registers -/

/-- The word that the register file holds at an offset. -/
def State.word (s : State) (off : Nat) : Word := Sparse.get RegMap.resetWord s.regs off

/-- A named field's value. -/
def State.fld (s : State) (f : Fld) : Nat := bitsOf (s.word f.off).toNat f.lo f.w

/-- A one-bit field. -/
def State.bit (s : State) (f : Fld) : Bool := s.fld f == 1

def setWord (off v : Nat) : Prog := .act (.reg off (BitVec.ofNat 32 v))

def setF (f : Fld) (v : Nat) : Prog :=
  look fun s => .act (.reg f.off (BitVec.ofNat 32 (setBits (s.word f.off).toNat f.lo f.w v)))

/-- The bits of a value that lie in fields of the register. -/
def fieldBits (off v : Nat) : Nat := ((RegMap.fields off).map fun f => bitsOf v f.lo f.w * 2 ^ f.lo).foldl (· + ·) 0

/-- The fields of a register that `keep` selects take their bits of `v`. -/
def setFields (off v : Nat) (keep : FieldSpec → Bool) : Prog :=
  each ((RegMap.fields off).filter keep) fun f => setF ⟨off, f.lo, f.w⟩ (bitsOf v f.lo f.w)

def setB (f : Fld) (b : Bool) : Prog := setF f (if b then 1 else 0)

/-- Count `n` more in a counter field; it saturates. -/
def addF (f : Fld) (n : Nat) : Prog := look fun s => setF f (min (s.fld f + n) (2 ^ f.w - 1))

def incF (f : Fld) : Prog := addF f 1

/-! ## The ledger's lines (R587 to R589) -/

def State.unitState (s : State) (u : Nat) : Nat := s.fld (F.LEDG_UNIT_STATE u)
def State.fenced (s : State) (u : Nat) : Bool := s.bit (F.LEDG_UNIT_FENCED u)
def State.epoch (s : State) (u : Nat) : Nat := s.fld (F.LEDG_UNIT_EPOCH u)
def setUnit (u st : Nat) : Prog := setF (F.LEDG_UNIT_STATE u) st

/-- The epoch of a unit rises by one, modulo 2^16 (R588). -/
def bumpEpoch (u : Nat) : Prog := look fun s => setF (F.LEDG_UNIT_EPOCH u) (s.epoch u + 1)

/-- The PCI Express link is up: LINK 2 (R371, R587). -/
def State.linkUp (s : State) : Bool := s.unitState 43 == 2

/-- A unit declares a change of its own state, which raises its epoch (R588). -/
def declareUnit (u st : Nat) : Prog :=
  look fun s => when (s.unitState u != st) (all [setUnit u st, bumpEpoch u])

/-- A partition is enabled in the ledger: enabled, stopping or draining (R587). -/
def State.partOn (s : State) (p : Nat) : Bool := s.unitState (32 + p) != 0

def partIds : List Nat := List.range 8
def benchIds : List Nat := List.range 32

/-- The set of enabled partitions as a mask. -/
def maskOf (l : List Nat) : Nat := l.foldl (fun m b => m + 2 ^ b) 0
def State.enabledMask (s : State) : Nat := maskOf (partIds.filter s.partOn)
def inMask (m b : Nat) : Bool := bitsOf m b 1 == 1
def membersOf (m n : Nat) : List Nat := (List.range n).filter (inMask m)

/-- The device states of PCK_STATUS.DEV. -/
def State.devState (s : State) : Nat := s.fld F.PCK_STATUS_DEV
def State.inRest (s : State) : Bool := s.devState == 3

/-- The rest domain carries the count: in REST, and until READY after it (R54). -/
def State.carried (s : State) : Bool := s.devState == 3 || s.devState == 4

/-- A cold reset is held (R556, R573). -/
def State.heldReset (s : State) : Bool := s.dev.pwr.heldCold || s.dev.pwr.heldTrip || s.dev.pwr.heldSupply

/-- The device works: out of power-on reset, no cold reset held, and neither in REST nor entering or leaving it. -/
def State.ready (s : State) : Bool := !s.dev.pwr.por && !s.heldReset && s.devState == 1

/-! ## MSI-X messages (R371, R605) -/

/-- The register words of one MSI-X vector's table entry (function 0 is the physical function), as offsets. -/
def msixEntry (fn vec : Nat) : Nat := (if fn = 0 then 0x30000 else 0x4008000 + 0x10000 * fn) + 16 * vec
def msixPba (fn vec : Nat) : Fld :=
  ⟨(if fn = 0 then 0x38000 else 0x400C000 + 0x10000 * fn) + 4 * (vec / 32), vec % 32, 1⟩

/-- Send an MSI-X message, or set its pending bit while the vector is masked. -/
def sendMsix (fn vec : Nat) : Prog :=
  look fun s =>
    if bitsOf (s.word (msixEntry fn vec + 12)).toNat 0 1 == 1 then setF (msixPba fn vec) 1
    else emitOut (.msix fn vec)

/-! ## Catch records (R600 to R605) -/

def catchPaths : List Nat := [0, 1, 2, 3]

/-- UNREAD_k (R602). -/
def State.unread (s : State) (k : Nat) : Nat :=
  (BitVec.ofNat 32 s.dev.log.count - s.word (F.CATCH_RPOS k).off).toNat

/-- A path that has not read the record that the next one overwrites loses it (R603). -/
def loseUnread (k : Nat) : Prog :=
  look fun s =>
    when (1024 ≤ s.unread k) (all [
      setF (F.CATCH_RPOS k) (s.fld (F.CATCH_RPOS k) + 1), incF (F.CATCH_LOST k),
      modLog fun l => { l with lostPaths := if inMask l.lostPaths k then l.lostPaths else l.lostPaths + 2 ^ k,
                               lostCount := min (l.lostCount + 1) 0xFFFFFFFF }])

/-- The message of MSI-X vector 0 for a record of severity `sev` (R605): none in REST or while the link is down. -/
def catchMsi (sev : Nat) : Prog :=
  look fun s =>
    when (s.dev.log.armed && s.fld F.CATCH_CTL_MSI_MIN ≤ sev && s.linkUp && !s.inRest)
      (all [modLog fun l => { l with armed := false }, sendMsix 0 0])

/-- Append one record: its serial number is the count of records before it, its tick TB_NOW. -/
def logRaw (r : CatchRec) : Prog :=
  all [each catchPaths loseUnread,
    look fun s =>
      let r' := { r with serial := s.dev.log.count % 2 ^ 32, tick := s.dev.hs.now }
      modLog fun l => { l with
        recs := (if 1024 ≤ l.recs.length then l.recs.drop 1 else l.recs) ++ [r'],
        count := l.count + 1, fatal := if r.sev = 3 then some r' else l.fatal },
    catchMsi r.sev]

/-- Log a record, and CATCH_LOST after it when unread records have been lost and none was logged for 1 ms (R603). -/
def logRec (r : CatchRec) : Prog :=
  all [logRaw r,
    look fun s =>
      let l := s.dev.log
      let free := match l.lostLogged with
        | none => true
        | some t => 250000 ≤ s.since t
      when (l.lostPaths != 0 && free) (all [
        modLog fun l => { l with lostPaths := 0, lostCount := 0, lostLogged := some s.now },
        logRaw { code := 0x0002, sev := 1, unit := 127, d0 := l.lostPaths, d1 := l.lostCount }])]

/-- Log a catch with up to four detail words. -/
def logC (code sev unit : Nat) (ds : List Nat := []) (stream : Option Nat := none) : Prog :=
  logRec { code, sev, unit, stream, d0 := ds.getD 0 0, d1 := ds.getD 1 0, d2 := ds.getD 2 0, d3 := ds.getD 3 0 }

/-- How often a catch may be logged: once per turn of a partition (or per 10 ms while it has no turn in force, R664), or
once per so many ticks. -/
inductive Limit where
  | turn (p : Nat)
  | ticks (n : Nat)
  deriving DecidableEq, Repr

/-- What an unlisted entry of a table of numbers reads as. -/
def zeroNat : Nat → Nat := fun _ => 0

/-- Whether the limit allows another record under the mark `key`. -/
def State.fresh (s : State) (key : Nat) (l : Limit) : Bool :=
  let m := Sparse.get zeroNat s.dev.marks key
  m == 0 || (match l with
    | .ticks n => n ≤ s.since (m - 1)
    | .turn p => match (s.part p).turnStart with
      | some t => decide (s.since t < s.since (m - 1))
      | none => 2500000 ≤ s.since (m - 1))

/-- Log a rate-limited catch: at most one record per limit for each code and `id` (R613, R664). -/
def logLim (l : Limit) (id code sev unit : Nat) (ds : List Nat := []) (stream : Option Nat := none) : Prog :=
  look fun s =>
    let key := 256 * code + id
    when (s.fresh key l) (all [
      modDev fun d => { d with marks := Sparse.put zeroNat d.marks key (s.now + 1) },
      logC code sev unit ds stream])

/-- Whether CATCH_N is asserted (R604, R568). -/
def State.catchN (s : State) : Bool :=
  s.dev.pwr.heldTrip ||
  (!s.dev.pwr.por && catchPaths.any fun k =>
    inMask (s.fld F.CATCH_CTL_PIN_PATHS) k &&
      (s.dev.log.recs.drop (s.dev.log.recs.length - min s.dev.log.recs.length (s.unread k))).any
        fun r => s.fld F.CATCH_CTL_PIN_MIN ≤ r.sev)

/-! ## Memory at device addresses (R199) -/

def storeAt : Nat := 0x0100000000
def storeSize : Nat := 0x40000000
def farAt : Nat := 0x1000000000
def tileAt (t : Nat) : Nat := t * 0x100000

def State.readN (s : State) (a n : Nat) : Nat := ofBytes (s.mem.reads a n)
def State.read32 (s : State) (a : Nat) : Nat := s.readN a 4
def putN (a n v : Nat) : Prog := .act (.bytes a (toBytes n v))
def put32 (a v : Nat) : Prog := putN a 4 v

/-- The base addresses of the poison units that a range of addresses touches: words of 8 bytes in tile memory, lines of
64 bytes elsewhere. -/
def poisonUnit (a : Nat) : Nat := if a < storeAt then 8 else 64
def unitsOf (a n : Nat) : List Nat :=
  let u := poisonUnit a
  (List.range ((a + n + u - 1) / u - a / u)).map fun i => (a / u + i) * u
def State.poisonedIn (s : State) (a n : Nat) : Bool := (unitsOf a n).any fun x => s.dev.poison.contains x
def addPoison (a : Nat) : Prog :=
  modDev fun d => { d with poison := if d.poison.contains a then d.poison else a :: d.poison }

/-- Store bytes at a device address; a unit written whole loses its poison, a narrower write leaves it (R201, R221). -/
def storeBytes (a : Nat) (bs : List Byte) : Prog :=
  all [.act (.bytes a bs),
    modDev fun d => { d with poison := d.poison.filter fun x => !(a ≤ x && x + poisonUnit x ≤ a + bs.length) }]

/-- Zero-fill a range with valid codes: its poison goes too (R202, R209, R222, R225). -/
def zeroFill (lo hi : Nat) : Prog :=
  all [.act (.zero lo hi),
    modDev fun d => { d with poison := d.poison.filter fun x => !(lo ≤ x && x < hi) }]

/-! ## The slot directory and the model directory (R206, R211, R214) -/

def slotEntryAt (n : Nat) : Nat := storeAt + 0x3FF00000 + 256 * n
def modelEntryAt (m : Nat) : Nat := storeAt + 0x3FE00000 + 256 * m
def State.slotW (s : State) (n off : Nat) : Nat := s.read32 (slotEntryAt n + off)
def State.slotPart (s : State) (n : Nat) : Nat := bitsOf (s.slotW n 0) 0 3
def State.slotModel (s : State) (n : Nat) : Nat := bitsOf (s.slotW n 0) 3 4
def State.slotSource (s : State) (n : Nat) : Nat := bitsOf (s.slotW n 0) 7 2
def State.slotGroup (s : State) (n : Nat) : Nat := bitsOf (s.slotW n 0) 9 6
def State.slotDeclared (s : State) (n : Nat) : Bool := bitsOf (s.slotW n 0) 15 1 == 1
def State.slotKeep (s : State) (n : Nat) : Bool := bitsOf (s.slotW n 0) 16 1 == 1
def State.slotPhaseEntry (s : State) (n : Nat) : Nat := bitsOf (s.slotW n 0) 20 4
/-- Where the slot area starts, as a Store offset, and the sizes of its parts in bytes (R212). -/
def State.slotBase (s : State) (n : Nat) : Nat := bitsOf (s.slotW n 4) 0 18 * 4096
def State.slotState (s : State) (n : Nat) : Nat := bitsOf (s.slotW n 8) 0 7 * 4096
def State.slotCbuf (s : State) (n : Nat) : Nat := bitsOf (s.slotW n 8) 8 8 * 256
def State.slotRbuf (s : State) (n : Nat) : Nat := bitsOf (s.slotW n 8) 16 8 * 256
def State.slotPlist (s : State) (n : Nat) : Nat := s.slotW n 0x10
/-- Store offsets of the ingest and result buffers of a slot (R212). -/
def State.ingestAt (s : State) (n buf : Nat) : Nat := s.slotBase n + s.slotState n + buf * s.slotCbuf n
def State.resultAt (s : State) (n buf : Nat) : Nat :=
  s.slotBase n + s.slotState n + 2 * s.slotCbuf n + buf * s.slotRbuf n

/-- The active plane of a partition. -/
def State.plane (s : State) (p : Nat) : Plane := (s.part p).active.getD {}

/-- The plane that a partition's entries belong to: the retiring one with `old` (R336). -/
def State.planeFor (s : State) (p : Nat) (old : Bool) : Plane :=
  if old then (match (s.part p).retiring with
    | some (pl, _) => pl
    | none => {})
  else s.plane p

/-- A group of a plane. -/
def Plane.group (pl : Plane) (g : Nat) : Option Group := pl.groups.find? fun x => x.id == g

def Group.period (g : Group) : Nat := bitsOf g.cfg 0 4 + 1
def Group.base (g : Group) : Nat := bitsOf g.cfg 4 4
def Group.spread (g : Group) : Nat := bitsOf g.cfg 8 2
def Group.stages (g : Group) : Nat := bitsOf g.cfg 10 4 + 1
def Group.nominal (g : Group) : Nat := bitsOf g.cfg 16 16

/-- The phase of a slot in its group (R75). -/
def State.phase (s : State) (g : Group) (n : Nat) : Nat :=
  if g.spread = 1 then (g.base + n) % g.period
  else if g.spread = 2 then (g.base + s.slotPhaseEntry n) % g.period
  else g.base

def TtEntry.offset (e : TtEntry) : Nat := bitsOf e.w0 0 26
def TtEntry.kind (e : TtEntry) : Nat := bitsOf e.w0 26 4
def TtEntry.benches (e : TtEntry) : Nat := e.w1
def TtEntry.ref (e : TtEntry) : Nat := bitsOf e.w2 0 20
def TtEntry.group (e : TtEntry) : Nat := bitsOf e.w2 20 6

/-- The origin of a partition's turns and its turn length (R55). -/
def State.turnOrg (s : State) (p : Nat) : Nat :=
  s.fld (F.TB_TURN_ORG_LO_ORG p) + 2 ^ 32 * s.fld (F.TB_TURN_ORG_HI_ORG p)
def State.turnLen (s : State) (p : Nat) : Nat := s.fld (F.TB_TURN_LEN_LEN p)

/-- The current turn number of a partition (R55). -/
def State.turnNo (s : State) (p : Nat) : Nat := s.since (s.turnOrg p) / s.turnLen p

/-! ## Input entries and ports beside their registers -/

def InPath.blank : Nat → InPath := fun _ => {}
/-- The input entry s of port p is number 32 p + s, the input path i of the array number 128 + i. -/
def State.inp (s : State) (k : Nat) : InPath := Sparse.get InPath.blank s.dev.ins k
def modIn (k : Nat) (f : InPath → InPath) : Prog :=
  modDev fun d => { d with ins := Sparse.put InPath.blank d.ins k (f (Sparse.get InPath.blank d.ins k)) }
def Port.blank : Nat → Port := fun _ => {}
def State.port (s : State) (k : Nat) : Port := Sparse.get Port.blank s.dev.ports k
def modPort (k : Nat) (f : Port → Port) : Prog :=
  modDev fun d => { d with ports := Sparse.put Port.blank d.ports k (f (Sparse.get Port.blank d.ports k)) }
def modArr (f : ArrayDie → ArrayDie) : Prog := modDev fun d => { d with arr := f d.arr }
def modFab (f : Fabric → Fabric) : Prog := modDev fun d => { d with fab := f d.fab }

/-- An input entry or path that is enabled afresh: unframed, with nothing gathered; the numbering of its chunks goes on. -/
def InPath.fresh (x : InPath) (now : Nat) : InPath :=
  { enabledAt := now, ready := x.ready, seq := x.seq, declSeq := x.declSeq, declFrame := x.declFrame }

/-- The turn number under the active plane, or of the retiring plane, whose turns go on (R55, R334, R336). -/
def State.turnOf (s : State) (p : Nat) (old : Bool) : Nat :=
  if old then s.since (s.part p).oldOrg / (s.planeFor p true).turnLen else s.turnNo p

/-- The timetable in force of a partition's active plane (R100). -/
def State.timetable (s : State) (p : Nat) : List TtEntry :=
  if (s.part p).derated then (s.plane p).derated else (s.plane p).normal

/-- The timetable in force of a partition's active plane, or with `old` of its retiring plane, which keeps the one it had (R336). -/
def State.tableInForce (s : State) (p : Nat) (old : Bool) : List TtEntry :=
  if old then (if (s.part p).oldDerated then (s.planeFor p true).derated else (s.planeFor p true).normal) else s.timetable p

/-- Write bytes into the memory of the host, with a function's requester ID, in order with the messages (R356). -/
def hostWrite (fn a : Nat) (bs : List Byte) : Prog := all [.act (.hostBytes a bs), emitOut (.hostWrite fn a bs)]

end Sys2Proof.Machine
end

