-- ==== Sys2Proof/Machine/Descriptors.lean ====
section
/-!
DEFINITION. Sys2Proof/Machine/Descriptors.lean: the fields of matrix and transfer descriptors and the regions they declare (R157, R158,
R181, R183, R216, R217), and the destination tables of a plane (R26, R367, R414, R476).
-/
namespace Sys2Proof.Machine

/-- Whether [a, a+n) and [b, b+k) share a byte. -/
def overlaps (a n b k : Nat) : Bool := 0 < n && 0 < k && a < b + k && b < a + n

def ceilDiv (a b : Nat) : Nat := (a + b - 1) / b

/-- The bits of one element of a matrix format (R150, R151); CODE3 packs ten elements in a word. -/
def elemBits (fmt : Nat) : Nat :=
  if fmt = 0 || fmt = 2 || fmt = 0xC then 4 else if fmt = 0xA then 2 else if fmt = 0xB then 3
  else if fmt = 5 || fmt = 6 then 16 else if fmt = 7 || fmt = 8 then 32 else 8

/-- The bytes that n packed elements take. -/
def packedBytes (fmt n : Nat) : Nat := if fmt = 0xB then 4 * ceilDiv n 10 else ceilDiv (n * elemBits fmt) 8

def MtxOp.word (o : MtxOp) (i : Nat) : Nat := o.desc.getD i 0
def MtxOp.opc (o : MtxOp) : Nat := bitsOf (o.word 0) 0 4
def MtxOp.afmt (o : MtxOp) : Nat := bitsOf (o.word 0) 4 4
def MtxOp.bfmt (o : MtxOp) : Nat := bitsOf (o.word 0) 8 4
def MtxOp.cfmt (o : MtxOp) : Nat := bitsOf (o.word 0) 12 4
def MtxOp.acc (o : MtxOp) : Bool := bitsOf (o.word 0) 16 1 == 1
def MtxOp.oscl (o : MtxOp) : Bool := bitsOf (o.word 0) 17 1 == 1
def MtxOp.ascl (o : MtxOp) : Nat := bitsOf (o.word 0) 18 2
def MtxOp.bscl (o : MtxOp) : Nat := bitsOf (o.word 0) 20 2
def MtxOp.sparse (o : MtxOp) : Nat := bitsOf (o.word 0) 22 2
def MtxOp.checked (o : MtxOp) : Bool := bitsOf (o.word 0) 24 1 == 1
def MtxOp.cbmode (o : MtxOp) : Bool := bitsOf (o.word 0) 25 1 == 1
def MtxOp.rows (o : MtxOp) : Nat := bitsOf (o.word 1) 0 12 + 1
def MtxOp.cols (o : MtxOp) : Nat := bitsOf (o.word 1) 12 12 + 1
def MtxOp.depth (o : MtxOp) : Nat := bitsOf (o.word 2) 0 16 + 1
def MtxOp.addrOf (o : MtxOp) (i : Nat) : Nat := bitsOf (o.word i) 0 20
def MtxOp.maskStride (o : MtxOp) : Nat := 64 * ceilDiv o.depth 512
def MtxOp.istride (o : MtxOp) : Nat := bitsOf (o.hdr.getD 0 0) 0 20
def MtxOp.indexBase (o : MtxOp) : Nat := 64 + 64 * ceilDiv (4 * o.cols) 64

/-- The room of a column of an unstructured operand (R186). -/
def MtxOp.room (o : MtxOp) : Nat := min 65536 (min (o.istride / 2) (o.addrOf 6 * 8 / elemBits o.bfmt))

/-- The values stored for one column of B (R158, R181, R183). -/
def MtxOp.columnElems (o : MtxOp) : Nat :=
  if o.sparse = 1 then 2 * ceilDiv o.depth 4 else if o.sparse = 2 then o.room else o.depth

def rowsOf (base stride bytes n : Nat) : List (Nat × Nat) := (List.range n).map fun i => (base + i * stride, bytes)

/-- The declared input regions as (address, bytes) (R158, R167, R180, R184). -/
def MtxOp.inputs (o : MtxOp) : List (Nat × Nat) :=
  rowsOf (o.addrOf 3) (o.addrOf 4) (packedBytes o.afmt o.depth) o.rows ++
  rowsOf (o.addrOf 5) (o.addrOf 6) (packedBytes o.bfmt o.columnElems) o.cols ++
  (if o.ascl = 0 then [] else [(o.addrOf 9, o.rows * ceilDiv o.depth 32)]) ++
  (if o.ascl = 2 then [(o.addrOf 10, 4 * o.rows * ceilDiv o.depth 2048)] else []) ++
  (if o.bscl = 0 then [] else [(o.addrOf 11, o.cols * ceilDiv o.depth 32)]) ++
  (if o.bscl = 2 then [(o.addrOf 12, 4 * o.cols * ceilDiv o.depth 2048)] else []) ++
  (if o.opc = 1 then [(o.addrOf 13, 32 * (if o.cbmode then ceilDiv o.cols 64 else 1))]
  else if o.sparse = 1 then [(o.addrOf 13, o.cols * o.maskStride)]
  else if o.sparse = 2 then [(o.addrOf 13, o.indexBase + o.cols * o.istride)] else [])

/-- The declared output region. -/
def MtxOp.outputs (o : MtxOp) : List (Nat × Nat) :=
  rowsOf (o.addrOf 7) (o.addrOf 8) (packedBytes o.cfmt o.cols) o.rows

def Xfer.word (x : Xfer) (i : Nat) : Nat := x.desc.getD i 0
def Xfer.len (x : Xfer) : Nat := bitsOf (x.word 3) 0 20 + 1
def Xfer.rows (x : Xfer) : Nat := bitsOf (x.word 4) 0 12 + 1
/-- The local region (R217). -/
def Xfer.region (x : Xfer) : List (Nat × Nat) :=
  rowsOf (bitsOf (x.word 0) 0 20) (bitsOf (x.word 5) 0 20) x.len x.rows

/-! ## Destination tables (R367, R414, R476) -/

/-- The i-th halfword of a list of words. -/
def halfOf (ws : List Nat) (i : Nat) : Nat := bitsOf (ws.getD (i / 2) 0) (16 * (i % 2)) 16

/-- The destination tables of an EMITS body, in order: each is its word 0 and its halfwords, padded to a word. -/
def emitTables : Nat → List Nat → List (List Nat)
  | _, [] => []
  | 0, _ => []
  | n + 1, w :: ws =>
    let k := (bitsOf w 16 12 + 2) / 2
    (w :: ws.take k) :: emitTables n (ws.drop k)

def Plane.emitTable (pl : Plane) (ref : Nat) : List Nat := (emitTables pl.emits.length pl.emits).getD ref []

/-- The slots of a table with their entries that are VALID. -/
def tableRows (t : List Nat) : List (Nat × Nat) :=
  let w := t.headD 0
  ((List.range (bitsOf w 16 12 + 1)).map fun i => (bitsOf w 0 12 + i, halfOf (t.drop 1) i)).filter fun x => bitsOf x.2 15 1 == 1

def tableEntry (t : List Nat) (slot : Nat) : Option Nat := ((tableRows t).find? fun x => x.1 == slot).map Prod.snd

/-- Where a VALID table entry leads: a pair, an output path or an output slot. -/
def destOf (unit e : Nat) : Nat × Nat := (unit, if unit = 43 then bitsOf e 0 8 else if unit = 112 then bitsOf e 0 3 else bitsOf e 0 5)

/-- The destinations that the EMIT entries of a timetable give a slot of a group, each with the first table that names it (R26, R71). -/
def Plane.destsIn (pl : Plane) (tt : List TtEntry) (g slot : Nat) : List ((Nat × Nat) × Nat) :=
  (tt.filter fun e => e.kind == 6 && e.group == g).foldl (fun l e =>
    match tableEntry (pl.emitTable e.ref) slot with
    | some x => if l.any (·.1 == destOf (bitsOf e.w3 0 8) x) then l else l ++ [(destOf (bitsOf e.w3 0 8) x, e.ref)]
    | none => l) []

/-- The stream slot whose results a plane's tables lead to an output of a unit (R414, R476). -/
def Plane.outStream (pl : Plane) (unit path : Nat) : Option Nat :=
  (((pl.normal ++ pl.derated).filter fun e => e.kind == 6 && bitsOf e.w3 0 8 == unit).flatMap fun e =>
    (tableRows (pl.emitTable e.ref)).filter fun x => destOf unit x.2 == (unit, path)).head?.map Prod.fst

/-- The destinations of a slot's results under either timetable of a plane. -/
def Plane.dests (pl : Plane) (g slot : Nat) : List ((Nat × Nat) × Nat) := pl.destsIn (pl.normal ++ pl.derated) g slot

/-! ## Busy regions -/

/-- Whether an access overlaps the declared region of unfinished work (R137). -/
def Tile.busyAt (x : Tile) (a n : Nat) : Bool :=
  (x.ops.any fun o => (o.inputs ++ o.outputs).any fun r => overlaps a n r.1 r.2) ||
  x.xfers.any fun y => y.region.any fun r => overlaps a n r.1 r.2

end Sys2Proof.Machine
end

