-- ==== Sys2Proof/Machine/Regions.lean ====
section
/-!
DEFINITION. Sys2Proof/Machine/Regions.lean: ranges of device addresses: carve-outs (R207), the system area (R206), plane regions
(R327) and the page ledger (R242), and the writes that they drop.
-/
namespace Sys2Proof.Machine

/-! ## Ranges -/

/-- Whether two half-open ranges share no address. -/
def disjoint (a b : Nat × Nat) : Bool := a.2 ≤ b.1 || b.2 ≤ a.1 || a.2 ≤ a.1 || b.2 ≤ b.1
def inRange (r : Nat × Nat) (a : Nat) : Bool := r.1 ≤ a && decide (a < r.2)

/-! ## Carve-outs and regions of planes -/

def carveUnit (far : Bool) : Nat := if far then 0x4000000 else 0x200000
/-- The device addresses of a carve-out (R207). -/
def carveRange (c : Nat × Nat × Bool) : Nat × Nat :=
  let u := carveUnit c.2.2
  let w := if c.2.2 then 11 else 9
  let org := if c.2.2 then farAt else storeAt
  (org + bitsOf c.1 0 w * u, org + (bitsOf c.1 0 w + bitsOf c.1 16 w) * u)
def carveMask (c : Nat × Nat × Bool) : Nat := bitsOf c.2.1 0 8
def carveHostW (c : Nat × Nat × Bool) : Bool := bitsOf c.2.1 8 1 == 1

/-- Whether a range lies inside the union of other ranges: each end of a covered stretch is carried forward. -/
def coveredBy (rs : List (Nat × Nat)) : Nat → Nat → Nat → Bool
  | 0, lo, hi => hi ≤ lo
  | fuel + 1, lo, hi =>
    if hi ≤ lo then true
    else match rs.find? fun r => r.1 ≤ lo && lo < r.2 with
      | some r => coveredBy rs fuel r.2 hi
      | none => false
def inside (rs : List (Nat × Nat)) (lo hi : Nat) : Bool := coveredBy rs (rs.length + 1) lo hi

def Plane.carveRanges (pl : Plane) : List (Nat × Nat) := pl.carves.map carveRange
def Plane.region (pl : Plane) : Nat × Nat :=
  (storeAt + pl.prBase * 0x200000, storeAt + (pl.prBase + pl.prSize) * 0x200000)
def systemArea : Nat × Nat := (storeAt + 0x3FE00000, storeAt + storeSize)

def State.planesOf (s : State) (q : Nat) : List Plane := (s.part q).active.toList ++ (s.part q).staged.toList

/-- Every plane present at this moment, active or staged, with its partition. -/
def State.presentPlanes (s : State) : List (Nat × Plane) := partIds.flatMap fun q => (s.planesOf q).map fun a => (q, a)

/-- The carve-outs of a set of planes that partition `p` may read. -/
def readable (planes : List (Nat × Plane)) (p : Nat) : List (Nat × Nat) :=
  planes.flatMap fun x => (x.2.carves.filter fun c => inMask (carveMask c) p).map carveRange

/-! ## Where writes are dropped (R206, R242, R327) -/

def State.ledgerAt (s : State) (page : Nat) : Nat := storeAt + s.fld F.KV_LEDGER_BASE_OFFSET + 4 * page
/-- The device addresses of the page ledger (R242). -/
def State.ledgerRange (s : State) : Nat × Nat :=
  (s.ledgerAt 0, s.ledgerAt (s.fld F.KV_LEDGER_SIZE_ENTRIES))

/-- Where a write that does not come from the Chuck or the KV block is dropped: the system area, a plane region, the page
ledger (R206, R242, R327). -/
def State.inPlaneRegion (s : State) (a : Nat) : Bool :=
  s.presentPlanes.any (fun x => inRange x.2.region a) ||
    partIds.any fun q => (s.part q).retiring.any fun r => inRange r.1.region a
def State.inLedger (s : State) (a : Nat) : Bool := inRange s.ledgerRange a
def State.dropsWrites (s : State) (a : Nat) : Bool := inRange systemArea a || s.inPlaneRegion a || s.inLedger a
/-- The same as ranges. -/
def State.dropRanges (s : State) : List (Nat × Nat) :=
  systemArea :: s.ledgerRange :: s.presentPlanes.map (fun x => x.2.region) ++
    partIds.filterMap fun q => (s.part q).retiring.map fun r => r.1.region
/-- Whether a write of `n` bytes touches them. -/
def State.dropsIn (s : State) (a n : Nat) : Bool := s.dropRanges.any fun r => !disjoint r (a, a + n)

/-! ## Records about memory (R238) -/

/-- The detail words D0 to D3 of R238 for a device address. -/
def memDetail (a bench tile : Nat) (stream : Option Nat) (d3 : Nat := 0) : List Nat :=
  [a % 2 ^ 32, a / 2 ^ 32 % 256 + 256 * bench + 65536 * tile, (match stream with
    | some n => n + 2 ^ 31
    | none => 0), d3]

/-- The addresses of far memory (R199). -/
def isFar (a : Nat) : Bool := decide (farAt ≤ a) && decide (a < 0x3000000000)
def memUnit (a : Nat) : Nat := if isFar a then 42 else 41

/-- A dropped write to the system area or a plane region (R206, R238, R327). -/
def sysDrop (lim : Limit) (a bench tile : Nat) (st : Option Nat) : Prog :=
  all [incF F.STORE_SYS_DROPS, logLim lim 41 0x600D 0 41 (memDetail a bench tile st) st]

end Sys2Proof.Machine
end

