-- ==== Sys2Proof/Machine/Pages.lean ====
section
/-!
DEFINITION. Sys2Proof/Machine/Pages.lean: pools, pages, the page ledger and page lists (R240 to R247), and stage records with
their release (R249, R254).
-/
namespace Sys2Proof.Machine

/-! ## Pools and pages -/

/-- The pool that a page number lies in (R240). -/
def State.poolOf (s : State) (page : Nat) : Option Nat :=
  (List.range 16).find? fun k => s.bit (F.KV_POOL_A_VALID k) && s.fld (F.KV_POOL_B_FIRST k) ≤ page &&
    decide (page < s.fld (F.KV_POOL_B_FIRST k) + s.fld (F.KV_POOL_C_COUNT k))

def State.poolLayers (s : State) (k : Nat) : Nat := s.fld (F.KV_POOL_D_LAYERSM1 k) + 1
def State.poolHeads (s : State) (k : Nat) : Nat := s.fld (F.KV_POOL_D_KVHM1 k) + 1
def State.poolDim (s : State) (k : Nat) : Nat := 32 * 2 ^ s.fld (F.KV_POOL_D_DIM k)
def State.poolBits (s : State) (k : Nat) : Nat := if s.bit (F.KV_POOL_D_BITS4 k) then 4 else 8
def State.poolFar (s : State) (k : Nat) : Bool := s.bit (F.KV_POOL_A_FAR k)

/-- The size of a layer block (R241). -/
def State.layerSize (s : State) (k : Nat) : Nat :=
  let n := 2 * s.poolHeads k * 16 * s.poolDim k * s.poolBits k / 8 + 4 * s.poolHeads k * s.poolDim k / 32
  64 * ((n + 63) / 64)

def State.pageSize (s : State) (k : Nat) : Nat := s.poolLayers k * s.layerSize k

/-- The device address of a page (R240, R241): BASE is held in units of 64 KiB. -/
def State.pageAddr (s : State) (k page : Nat) : Nat :=
  s.fld (F.KV_POOL_A_BASE64K k) * 65536 + (page - s.fld (F.KV_POOL_B_FIRST k)) * s.pageSize k

/-! ## The page ledger (R242, R243) -/

def State.pageEntry (s : State) (page : Nat) : Nat := s.read32 (s.ledgerAt page)
def State.pageRef (s : State) (page : Nat) : Nat := bitsOf (s.pageEntry page) 0 16
def State.pagePin (s : State) (page : Nat) : Nat := bitsOf (s.pageEntry page) 16 8
def State.pageAlloc (s : State) (page : Nat) : Bool := bitsOf (s.pageEntry page) 27 1 == 1
def State.pagePoison (s : State) (page : Nat) : Bool := bitsOf (s.pageEntry page) 28 1 == 1

def setPage (page lo w v : Nat) : Prog :=
  look fun s => put32 (s.ledgerAt page) (setBits (s.pageEntry page) lo w v)

/-- Free a page whose REF and PIN are 0 (R243): a poisoned page is zero-filled first. -/
def freeIfIdle (page : Nat) : Prog :=
  look fun s =>
    when (s.pageAlloc page && s.pageRef page == 0 && s.pagePin page == 0) (all [
      (match s.poolOf page with
        | some k => when (s.pagePoison page)
            (all [zeroFill (s.pageAddr k page) (s.pageAddr k page + s.pageSize k), setPage page 28 1 0])
        | none => .nop),
      setPage page 27 1 0, incF F.KV_FREES])

/-- Take one reference from a page. -/
def releasePage (page : Nat) : Prog :=
  all [look fun s => setPage page 0 16 (s.pageRef page - 1), freeIfIdle page]

def retainPage (page : Nat) : Prog := look fun s => setPage page 0 16 (s.pageRef page + 1)

def pinPage (page : Nat) : Prog := look fun s => setPage page 16 8 (s.pagePin page + 1)

def unpinPage (page : Nat) : Prog :=
  all [look fun s => setPage page 16 8 (s.pagePin page - 1), freeIfIdle page]

/-- The first page with ALLOC clear among `fuel` pages from `page` upward. -/
def State.firstFree (s : State) : Nat → Nat → Option Nat
  | 0, _ => none
  | fuel + 1, page => if s.pageAlloc page then State.firstFree s fuel (page + 1) else some page

/-- The page that an allocation from pool `k` takes: the lowest-numbered free one (R243). -/
def State.nextPage (s : State) (k : Nat) : Option Nat :=
  if k < 16 && s.bit (F.KV_POOL_A_VALID k) then s.firstFree (s.fld (F.KV_POOL_C_COUNT k)) (s.fld (F.KV_POOL_B_FIRST k)) else none

/-- Allocate a page: REF 1, PIN 0, OWNER from its pool (R242, R243). -/
def takePage (k page : Nat) : Prog :=
  all [look fun s =>
      put32 (s.ledgerAt page) (setBits (setBits (setBits (s.pageEntry page) 0 24 1) 24 3 (s.fld (F.KV_POOL_D_OWNER k))) 27 1 1),
    incF F.KV_ALLOCS]

/-! ## Page lists (R244 to R247): a list is named by its Store offset -/

def State.listW (s : State) (l off : Nat) : Nat := s.read32 (storeAt + l + off)
def State.listMode (s : State) (l : Nat) : Nat := bitsOf (s.listW l 0) 0 2
def State.listPool (s : State) (l : Nat) : Nat := bitsOf (s.listW l 0) 4 4
def State.listWin (s : State) (l : Nat) : Nat := bitsOf (s.listW l 4) 0 14
def State.listGlob (s : State) (l : Nat) : Nat := bitsOf (s.listW l 4) 16 7
def State.listCap (s : State) (l : Nat) : Nat := bitsOf (s.listW l 8) 0 14
def State.listLen (s : State) (l : Nat) : Nat := s.readN (storeAt + l + 0x10) 8
def State.listTpl (s : State) (l : Nat) : Nat := s.listW l 0x18
def entryAt (l i : Nat) : Nat := storeAt + l + 0x40 + 4 * i
def State.listPage (s : State) (l i : Nat) : Nat := bitsOf (s.read32 (entryAt l i)) 0 24
/-- Write into a page list. What falls into the page ledger, the system area or a plane region is dropped and counted (R206, R242). -/
def putList (a n v : Nat) : Prog :=
  look fun s =>
    if !disjoint s.ledgerRange (a, a + n) then incF F.KV_LEDGER_DROPS
    else if s.dropsIn a n then sysDrop (.ticks 2500000) a 0xFF 0xFF none
    else putN a n v
def setLen (l n : Nat) : Prog := putList (storeAt + l + 0x10) 8 n
def setEntryPage (l i page : Nat) : Prog :=
  look fun s => putList (entryAt l i) 4 (setBits (s.read32 (entryAt l i)) 0 24 page)

/-- The bytes of a list, and those of the template that it names (R244). -/
def State.listRange (s : State) (l : Nat) : Nat × Nat := (storeAt + l, storeAt + l + 0x40 + 4 * s.listCap l)
def State.tplRange (s : State) (l : Nat) : List (Nat × Nat) := if s.listTpl l = 0 then [] else [s.listRange (s.listTpl l)]

/-- The global entries and the ring of a windowed list. -/
def State.listG (s : State) (l : Nat) : Nat := (s.listGlob l + 15) / 16
def State.listRing (s : State) (l : Nat) : Nat := s.listCap l - s.listG l

/-- The entry that names the page of block `b` of 16 positions (R245). -/
def State.entryOf (s : State) (l b : Nat) : Nat :=
  if s.listMode l = 2 && s.listG l ≤ b then s.listG l + (b - s.listG l) % s.listRing l else b

/-- The blocks that hold positions attended at length `len` (R246), in increasing position. -/
def State.attendedBlocks (s : State) (l len : Nat) : List Nat :=
  if len = 0 then []
  else
    let q := len - 1
    let upTo (a b : Nat) : List Nat := (List.range (b + 1 - a)).map (· + a)
    if s.listMode l = 2 then
      let g := min (s.listGlob l) (q + 1)
      let lo := q + 1 - s.listWin l
      let globals := if g = 0 then [] else upTo 0 ((g - 1) / 16)
      globals ++ (upTo (lo / 16) (q / 16)).filter fun b => !globals.contains b
    else upTo 0 (min (q / 16) (s.listCap l))

/-- Release every page a list names, zero its entries and set LEN to 0 (R255 step 2, R275). -/
def emptyList (l : Nat) : Prog :=
  look fun s => all [
    each (List.range (s.listCap l)) fun i => all [
      look fun s => when (s.listPage l i != 0) (releasePage (s.listPage l i)),
      putList (entryAt l i) 4 0],
    setLen l 0]

/-- Copy the entries that cover the positions of list `src`, and its LEN, to list `dst`; each page gains a
reference. -/
def copyList (src dst : Nat) : Prog :=
  look fun s =>
    let n := min (s.listCap src) ((s.listLen src + 15) / 16)
    all [each (List.range n) fun i => all [
        look fun s => putList (entryAt dst i) 4 (s.read32 (entryAt src i)),
        look fun s => when (s.listPage src i != 0) (retainPage (s.listPage src i))],
      setLen dst (s.listLen src)]

/-- Reset a list (R255 step 2): empty it and apply its template. -/
def resetList (l : Nat) : Prog :=
  all [emptyList l, look fun s => when (s.listTpl l != 0) (copyList (s.listTpl l) l)]

/-! ## Stage records (R249, R250, R254) -/

def walkerWord (d : List Nat) (i : Nat) : Nat := d.getD i 0
/-- The device address of a slot's stage record under a walker descriptor. -/
def recordAt (d : List Nat) (slot : Nat) : Nat :=
  let at_ := storeAt + walkerWord d 2
  let slot0 := bitsOf (walkerWord d 4) 0 12
  let stride := bitsOf (walkerWord d 3) 0 20
  if slot0 ≤ slot then at_ + (slot - slot0) * stride else at_ - (slot0 - slot) * stride
def walkStageC (d : List Nat) : Nat := bitsOf (walkerWord d 0) 0 4
def walkSplits (d : List Nat) : Nat := bitsOf (walkerWord d 0) 4 4 + 1
def walkPmax (d : List Nat) : Nat := bitsOf (walkerWord d 4) 14 14
def splitAt (d : List Nat) (slot i : Nat) : Nat := recordAt d slot + 0x40 + 8 * walkPmax d + 40 * i
def outAreaOff (d : List Nat) : Nat := (0x40 + 8 * walkPmax d + 40 * walkSplits d + 63) / 64 * 64

/-- The descriptor under which a slot's record is held. -/
def State.heldDesc (s : State) (slot : Nat) : Option (List Nat) := (s.slot slot).walkDesc

/-- The walker descriptor that serves a slot of a group: the one its record is held under, otherwise the one that the WALK entry of the
group names in the timetable in force (R249, R251, R255). -/
def State.descFor (s : State) (p : Nat) (old : Bool) (g slot : Nat) : Option (List Nat) :=
  (s.heldDesc slot).or
    (((s.tableInForce p old).find? fun e => e.kind == 2 && e.group == g).bind fun e => (s.planeFor p old).walkers[e.ref]?)

/-- Release the stage record of a slot (R254): HELD and VOID cleared, one subtracted from each pin it added. -/
def releaseRecord (slot : Nat) : Prog :=
  look fun s => all [
    each (s.slot slot).pins unpinPage,
    (match s.heldDesc slot with
      | some d => look fun s => put32 (recordAt d slot) (setBits (s.read32 (recordAt d slot)) 16 3 0)
      | none => .nop),
    modSlot slot fun x => { x with pins := [], walkDesc := none, walker := none, walkLeft := [],
                                   chunks := x.chunks.map fun c => { c with bound := false } }]

end Sys2Proof.Machine
end

