-- ==== Sys2Proof/Machine/TileViews.lean ====
section
/-!
DEFINITION. Sys2Proof/Machine/TileViews.lean: the registers of a tile window that show the tile itself (R140, R149, R177, R239),
and what they hold once the bench is fenced (R300).
-/
namespace Sys2Proof.Machine

/-- The offset of a register in the window of tile `t` (R140). -/
def tileReg (t off : Nat) : Nat := 0x100000 + 0x10000 * (t / 16) + 0x800 * (t % 16) + off

def tilesOf (b : Nat) : List Nat := (List.range 16).map (· + 16 * b)

/-- The partition whose active plane holds a bench (R280). -/
def State.benchPart (s : State) (b : Nat) : Option Nat :=
  partIds.find? fun p => match (s.part p).active with
    | some pl => inMask pl.benches b
    | none => false

def zeroLong : Nat → Long := fun _ => 0
def zeroElem : Nat → Word := fun _ => 0
def zeroMask : Nat → BitVec 256 := fun _ => 0

/-- S0 reads zero (R111). -/
def Tile.sreg (x : Tile) (n : Nat) : Nat := if n = 0 then 0 else (Sparse.get zeroLong x.sregs n).toNat
def Tile.elem (x : Tile) (v i : Nat) : Nat := (Sparse.get zeroElem x.vregs (256 * v + i)).toNat

/-- The register that TSQ_DSEL selects, as 64 bits (R149): a scalar, an element, or a word of a mask. -/
def State.debugData (s : State) (t : Nat) : Nat :=
  let x := s.tile t
  let b := t / 16
  let i := t % 16
  let r := s.fld (F.TSQ_DSEL_REG b i)
  let e := s.fld (F.TSQ_DSEL_ELEM b i)
  match s.fld (F.TSQ_DSEL_SPACE b i) with
  | 0 => x.sreg r
  | 1 => if r < 16 then x.elem r e else 0
  | 2 => if r < 16 then bitsOf (Sparse.get zeroMask x.masks r).toNat (32 * (e % 8)) 32 else 0
  | _ => 0

/-- Whether the plane gives the tile no record; what TSQ_STATE.BLANK shows. -/
def State.tileBare (s : State) (t : Nat) : Bool := match s.benchPart (t / 16) with
  | some p => !(s.plane p).tiles.any fun r => r.tile == t
  | none => true

/-- A bit as a number. -/
def oneIf (b : Bool) : Nat := if b then 1 else 0

/-- The register at offset `o` of the window of tile `t`, where it shows the tile: TSQ_STATE, TSQ_MODE, the loop levels, the
vector lengths, the selected debug value, MTX_STATE and XFER_STATE. -/
def State.tileView (s : State) (t o : Nat) : Option Nat :=
  let x := s.tile t
  if o = 0 then some (x.run + 4 * oneIf x.detached + 8 * oneIf (s.tileBare t) + 65536 * (x.pc % 2 ^ 13))
  else if o = 0x10 then some (x.mode % 2 ^ 12)
  else if 0x20 ≤ o && o < 0x40 then
    match x.loops[(o - 0x20) / 8]? with
    | none => some 0
    | some l => if o % 8 = 0 then some (l.count % 2 ^ 32)
      else some (l.start % 2 ^ 13 + 65536 * (l.stop % 2 ^ 13) + 2 ^ 30 * oneIf l.strip + 2 ^ 31)
  else if 0x40 ≤ o && o < 0x54 then some (x.vlens.getD ((o - 0x40) / 4) 0 % 512)
  else if o = 0x64 then some (if x.run = 2 then s.debugData t % 2 ^ 32 else 0)
  else if o = 0x68 then some (if x.run = 2 then s.debugData t / 2 ^ 32 % 2 ^ 32 else 0)
  else if o = 0x100 then some (min x.ops.length 7 + 8 * oneIf (x.ops.any fun y => y.started))
  else if o = 0x148 then some (min x.xfers.length 15 + 16 * oneIf (x.xfers.any fun y => y.started))
  else none

/-- The offsets of those registers. -/
def tileViews : List Nat :=
  [0, 0x10, 0x20, 0x24, 0x28, 0x2C, 0x30, 0x34, 0x38, 0x3C, 0x40, 0x44, 0x48, 0x4C, 0x50, 0x64, 0x68, 0x100, 0x148]

/-- At the fencing tick the window keeps what its registers show (R300). -/
def freezeTile (t : Nat) : Prog :=
  look fun s => each tileViews fun o => setWord (tileReg t o) ((s.tileView t o).getD 0)

end Sys2Proof.Machine
end

