-- ==== Sys2Proof/Machine/Chunks.lean ====
section
/-!
DEFINITION. Sys2Proof/Machine/Chunks.lean: how chunks end and results arise (R23 to R25, R87 to R96), how benches move
between their states (R550 to R552), and fencing (R296 to R302).
-/
namespace Sys2Proof.Machine

/-- Whether tick `a` is later than tick `b`, modulo 2^64 within a window of 2^63 (R67). -/
def laterTick (a b : Nat) : Bool :=
  let d := (BitVec.ofNat 64 a - BitVec.ofNat 64 b).toNat
  decide (0 < d) && decide (d < 2 ^ 63)

def tickDiff (a b : Nat) : Nat := (BitVec.ofNat 64 a - BitVec.ofNat 64 b).toNat

/-! ## Flags and outcomes (R87, R88) -/

def flagNewUtt : Nat := 0
def flagLast : Nat := 1
def flagGap : Nat := 2
def flagPartial : Nat := 4
def flagLate : Nat := 5
def flagMissed : Nat := 6
def flagFlush : Nat := 7
def flagLimit : Nat := 8
def hasFlag (f b : Nat) : Bool := bitsOf f b 1 == 1
def withFlag (f b : Nat) : Nat := setBits f b 1 1
def withFlagIf (c : Bool) (b f : Nat) : Nat := if c then withFlag f b else f

def stDone : Nat := 0
def stMissed : Nat := 1
def stStageMissed : Nat := 2
def stLimit : Nat := 3
def stException : Nat := 4
def stEcc : Nat := 5
def stSparse : Nat := 6
def stOverrun : Nat := 7
def stFenced : Nat := 8
def stFlushed : Nat := 9

/-- The outcomes after which the stream's next chunk carries GAP (R96). -/
def gapAfter (status : Nat) : Bool := status == 1 || status == 2 || (4 ≤ status && status ≤ 8)

/-- The result of a chunk that ends with `status` on tick `tick`; RFORMAT, RRATE and RCOUNT are `fmt` for a chunk that
carries a payload (R87). -/
def Chunk.result (c : Chunk) (status tick : Nat) (fmt : Nat × Nat × Nat) : Result :=
  let late := status == 0 && laterTick tick c.deadline
  let f := withFlagIf c.partialOut flagPartial c.flags
  let f := withFlagIf late flagLate f
  let f := withFlagIf (status == 1 || status == 2) flagMissed f
  let f := withFlagIf (status == 3) flagLimit f
  { chunk := c, flags := f, status, complete := tick, rformat := fmt.1, rrate := fmt.2.1,
    rcount := if status = 0 then fmt.2.2 else 0, wait := tickDiff c.deadline c.arrival % 2 ^ 32,
    buf := c.buf, old := c.old }

/-- Place a result so that results of one stream stand in the order in which their chunks were stamped (R25, R105). -/
def insertResult (r : Result) : List Result → List Result
  | [] => [r]
  | x :: xs => if laterTick x.chunk.arrival r.chunk.arrival then r :: x :: xs else x :: insertResult r xs

def Chunk.withGap (c : Chunk) : Chunk := { c with flags := withFlag c.flags flagGap }

/-- Mark GAP on the chunk at place `i` of a slot where there is one, otherwise on the chunk that is stamped next (R96). -/
def gapAt (slot i : Nat) : Prog :=
  modSlot slot fun x =>
    if i < x.chunks.length then { x with chunks := modNth Chunk.withGap x.chunks i } else { x with gap := true }

/-- The result of the chunk that follows the one stamped at `arrival`, where that chunk has completed already; the chunk at place `i`
is the first after it that has not. -/
def SlotDyn.nextResult (x : SlotDyn) (i arrival : Nat) : Option Nat :=
  x.results.findIdx? fun r => r.status != stFlushed && laterTick r.chunk.arrival arrival && (match x.chunks[i]? with
    | some c => laterTick c.arrival r.chunk.arrival
    | none => true)

/-- Mark GAP on the stream's next chunk after the one that was stamped at `arrival` and stood at place `i` (R96): also where it has
been launched, and on its result where it has completed and the result is held (R105). -/
def markGap (slot i arrival : Nat) : Prog :=
  look fun s => match (s.slot slot).nextResult i arrival with
    | some j => modSlot slot fun x => { x with
        results := modNth (fun r => { r with flags := withFlag r.flags flagGap, chunk := r.chunk.withGap }) x.results j }
    | none => gapAt slot i

/-- Count a result in the TT counters of its partition and log DEADLINE_LATE (R91, R109, R110). -/
def countResult (p slot : Nat) (r : Result) : Prog :=
  let late := hasFlag r.flags flagLate
  let lateness := tickDiff r.complete r.chunk.deadline
  let slack := tickDiff r.chunk.deadline r.complete
  all [
    when late (all [incF (F.TT_LATE p),
      look fun s => setF (F.TT_WORST p) (max (s.fld (F.TT_WORST p)) (min lateness 0xFFFFFFFF)),
      modPart p fun x => { x with lateThisTurn := x.lateThisTurn + 1 },
      look fun s => logLim (.turn p) (32 + p) 0x2001 0 (32 + p) [slot, lateness % 2 ^ 32, (s.part p).lateThisTurn] (some slot)]),
    when (r.status == 0 && !late)
      (look fun s => setF (F.TT_SLACK p) (min (s.fld (F.TT_SLACK p)) slack)),
    when (r.status == 1 || r.status == 2) (incF (F.TT_MISSED p)),
    when (hasFlag r.flags flagPartial) (incF (F.TT_PARTIAL p)),
    when (4 ≤ r.status && r.status ≤ 8) (incF (F.TT_FAIL p))]

/-- The cells of memory and the poisoned units in a range. -/
def State.cellsIn (s : State) (lo hi : Nat) : Memory × List Nat :=
  (s.mem.filter fun c => lo ≤ c.1 && decide (c.1 < hi), s.dev.poison.filter fun x => lo ≤ x && decide (x < hi))

/-- The state area of the slot in which a chunk was stamped. -/
def Chunk.stateArea (c : Chunk) : Nat × Nat := (storeAt + c.base, storeAt + c.base + c.stateSize)

/-- Keep what a state area holds, before the first write of the chunk into it. -/
def keepState (slot i : Nat) : Prog :=
  look fun s => modSlot slot fun x => { x with chunks := modNth (fun c =>
    if c.before.isSome then c else { c with before := some (s.cellsIn c.stateArea.1 c.stateArea.2) }) x.chunks i }

/-- R23: a chunk that does not advance its stream's state leaves the state area as it was before the chunk wrote into it. -/
def restoreState (c : Chunk) : Prog :=
  let r := c.stateArea
  match c.before with
  | none => .nop
  | some b => all [.act (.zero r.1 r.2), each b.1 fun x => .act (.bytes x.1 [x.2]),
      modDev fun d => { d with poison := (d.poison.filter fun x => !(r.1 ≤ x && decide (x < r.2))) ++ b.2 }]

/-- A result may leave once no chunk of its stream that was stamped before it is pending or running (R25, R105). -/
def SlotDyn.mayLeave (x : SlotDyn) (r : Result) : Bool := x.chunks.all fun c => !laterTick r.chunk.arrival c.arrival

/-- Results that no EMIT entry of their plane sends anywhere: the spec does not say what becomes of them, and the model lets them go
when their turn to leave has come (log entry 118). -/
def dropUnbound (slot : Nat) : Prog :=
  look fun s => modSlot slot fun x => { x with results := x.results.filter fun r =>
    !(x.mayLeave r && ((s.planeFor r.chunk.part r.old).dests r.chunk.group slot).isEmpty) }

/-- Whether the slot's stage record goes with a chunk: the one that it is bound to, or while it is bound to none the gathered one for
whose due turn it was staged (R254). -/
def State.holdsRecord (s : State) (slot : Nat) (c : Chunk) : Bool :=
  (s.heldDesc slot).isSome && (c.bound ||
    c.pos.isSome && c.gatherTurn == (s.slot slot).walkTurn && !(s.slot slot).chunks.any fun x => x.bound)

/-- End the chunk at place `i` of a slot with an outcome on tick `tick`: its result takes its place in sequence, its record and pins
are released, and GAP or NEWUTT is marked on the next chunk (R23, R24, R89, R96, R254). -/
def endChunkAt (slot i status tick : Nat) (fmt : Nat × Nat × Nat) : Prog :=
  look fun s =>
    match (s.slot slot).chunks[i]? with
    | none => .nop
    | some c =>
      let r := c.result status tick fmt
      all [
        modSlot slot fun x => { x with
          chunks := x.chunks.eraseIdx i, results := insertResult { r with chunk := { r.chunk with before := none } } x.results,
          newUtt := x.newUtt || (status == 0 && hasFlag c.flags flagLast) },
        when (status != stDone) (restoreState c),
        when (gapAfter status) (markGap slot i c.arrival),
        when (s.holdsRecord slot c) (releaseRecord slot),
        countResult c.part slot r, dropUnbound slot]

def endChunkFmt (slot i status : Nat) (fmt : Nat × Nat × Nat) : Prog := look fun s => endChunkAt slot i status s.now fmt
def endChunk (slot i status : Nat) : Prog := endChunkFmt slot i status (0, 0, 0)

/-- The place of the chunk of a slot whose program runs. -/
def State.runningIn (s : State) (slot : Nat) : Option Nat :=
  (s.slot slot).chunks.findIdx? fun c => c.running.isSome

/-- The place in its slot of a chunk of a launch of stage `st`, while that stage runs: the slot and the arrival tick name it. -/
def State.runIdx (s : State) (st : Nat) (c : Nat × Nat) : Option Nat :=
  (s.slot c.1).chunks.findIdx? fun x => x.running == some st && x.arrival == c.2

/-- End the running chunk of a slot, if it has one. -/
def endRunning (slot status : Nat) : Prog :=
  look fun s => match s.runningIn slot with
    | some i => endChunk slot i status
    | none => .nop

/-- The slots whose dynamic state is not blank. -/
def State.liveSlots (s : State) : List Nat := s.dev.slots.map Prod.fst

/-- The slots that hold a chunk or a result of a partition. -/
def State.partSlots (s : State) (p : Nat) : List Nat :=
  s.liveSlots.filter fun n => (s.slot n).chunks.any (fun c => c.part == p) || (s.slot n).results.any fun r => r.chunk.part == p

/-- Whether any chunk of the partition is pending or running. -/
def State.partBusy (s : State) (p : Nat) : Bool := (s.partSlots p).any fun n => (s.slot n).chunks.any fun c => c.part == p

/-! ## Benches -/


/-- The idle state that a plane gives a bench, as an IDLE code (R80, R310). -/
def Plane.idleOf (pl : Plane) (b : Nat) : Nat := bitsOf pl.idle (2 * b) 2

/-- Bench states of BENCH_STATUS.STATE. -/
def bBlank : Nat := 0
def bSpin : Nat := 1
def bCoast : Nat := 2
def bDwell : Nat := 3
def bFenced : Nat := 4

def inBench (b off : Nat) : Bool := 0x100000 + 0x10000 * b ≤ off && decide (off < 0x110000 + 0x10000 * b)

/-- What a tile keeps when its class C state is lost (R577): its vector and mask registers, which keep what the previous
program left in them (R113), and the program area that its plane gives it. -/
def Tile.classCLost (t : Tile) : Tile :=
  { vregs := t.vregs, masks := t.masks }

/-- A bench is in DWELL: the class C fields of its tile windows, and V fields, are lost (R577); a launch that waits for SPIN still
waits (R82). -/
def enterDwell (b : Nat) : Prog :=
  all [setUnit b bDwell,
    .act (.lose fun off f => !(inBench b off && (f.kept == .C || f.kept == .V))),
    each (tilesOf b) fun t => modTile t fun x => { x.classCLost with waiting := x.waiting }]

def dropMoves (b : Nat) : Prog :=
  modPwr fun w => { w with waking := w.waking.filter (·.1 != b), dwelling := w.dwelling.filter (·.1 != b) }

/-- A bench starts toward DWELL, which it enters 250 ticks later (R551). -/
def startDwell (b : Nat) : Prog :=
  all [dropMoves b, look fun s => modPwr fun w => { w with dwelling := (b, s.now + 250) :: w.dwelling }]

/-- A bench starts toward SPIN: 48 ticks from COAST, 12,500 ticks from DWELL or from an entry into it (R79, R551). -/
def startWake (b : Nat) : Prog :=
  look fun s =>
    let w := s.dev.pwr
    if w.waking.any (·.1 == b) then .nop
    else if w.dwelling.any (·.1 == b) || s.unitState b == bDwell then
      all [dropMoves b, modPwr fun w => { w with waking := (b, s.now + 12500) :: w.waking }]
    else if s.unitState b == bCoast then modPwr fun w => { w with waking := (b, s.now + 48) :: w.waking }
    else .nop

/-- A bench is in SPIN, and not on its way into DWELL (R551, R82). -/
def State.inSpin (s : State) (b : Nat) : Bool := s.unitState b == bSpin && !s.dev.pwr.dwelling.any (·.1 == b)

/-- Whether a launch is outstanding on a bench: a program runs, is halted or waits on one of its tiles. -/
def State.benchBusy (s : State) (b : Nat) : Bool :=
  (tilesOf b).any fun t => (s.tile t).launch.isSome || !(s.tile t).waiting.isEmpty

/-- A bench moves to an IDLE code: 0 SPIN, 1 COAST, 2 DWELL (R552). A BLANK or FENCED bench stays as it is. -/
def moveBench (b code : Nat) : Prog :=
  look fun s =>
    let st := s.unitState b
    if st == bBlank || st == bFenced then .nop
    else if code = 0 then startWake b
    else if code = 1 then (if st == bCoast then .nop else all [dropMoves b, setUnit b bCoast])
    else if st == bDwell && !(s.dev.pwr.waking.any (·.1 == b)) then .nop
    else startDwell b

/-- Whether an entry of a timetable, from place `i` on, is a LAUNCH that names a bench and has a stage of at least `st`. -/
def launchesFrom (tt : List TtEntry) (i b st : Nat) : Bool :=
  (tt.drop i).any fun e => e.kind == 1 && inMask e.benches b && st ≤ bitsOf e.w3 0 4

/-- Whether a LAUNCH that names a bench is still to act in this turn, of the active or of the retiring plane (R27, R336). -/
def State.launchAhead (s : State) (p b : Nat) : Bool :=
  let x := s.part p
  (x.turnStart.isSome && launchesFrom (s.timetable p) x.seen b 0) ||
  (x.retiring.isSome && launchesFrom (s.tableInForce p true) (if x.oldSeen.1 = s.turnOf p true then x.oldSeen.2 else 0) b 1)

/-- A bench with no launch outstanding falls to its idle state: the plane's while its partition is enabled, once its last launch of
the turn has completed; DWELL while it is disabled (R27, R552). -/
def idleBench (b : Nat) : Prog :=
  look fun s =>
    match s.benchPart b with
    | none => .nop
    | some p =>
      when (!s.benchBusy b)
        (if s.partOn p then (if (s.plane p).idleOf b = 0 || s.launchAhead p b then .nop else moveBench b ((s.plane p).idleOf b))
        else moveBench b 2)

/-- A bench goes blank (R324): its tiles stop and its tile memory is lost. -/
def blankBench (b : Nat) : Prog :=
  all [dropMoves b, setUnit b bBlank, each (tilesOf b) fun t => modTile t fun _ => {},
    .act (.lose fun off _ => !(inBench b off && decide (off < 0x108000 + 0x10000 * b))),
    zeroFill (tileAt (16 * b)) (tileAt (16 * b + 16))]

/-! ## Fencing -/

/-- End one chunk of a launch of stage `st` if that stage of it runs still. -/
def endOf (st : Nat) (c : Nat × Nat) (status : Nat) : Prog :=
  look fun s => match s.runIdx st c with
    | some i => endChunk c.1 i status
    | none => .nop

/-- End the running chunks of the stage that a tile works for, or waits to work for (R108). -/
def endTileChunks (t status : Nat) : Prog :=
  look fun s =>
    let x := s.tile t
    each (x.launch.toList ++ x.waiting) fun l => each l.chunks fun c => endOf l.stage c status

/-- End every chunk of the tile's slice that has not reached CDONE on this tile (R128). -/
def endUndone (t status : Nat) : Prog :=
  look fun s => match (s.tile t).launch with
    | none => .nop
    | some l => each l.chunks fun c => look fun s => match s.runIdx l.stage c with
      | none => .nop
      | some i => when (((s.slot c.1).chunks.getD i {}).owing.contains t) (endChunk c.1 i status)

/-- The fence policy's answer to a fence in partition `p` (R298): PART_DEGRADED under CONTINUE, the stop sequence under
STOP and where no bench is left. Fences of one tick are one event (R304's last rule). -/
def fencePolicy (p : Nat) : Prog :=
  look fun s =>
    let pl := s.plane p
    when (s.partOn p)
      (if pl.stop || (membersOf pl.benches 32).all (fun b => s.fenced b) then modPart p fun x => { x with stopAsked := true }
      else logLim (.ticks 1) (32 + p) 0x8003 1 (32 + p) [])

/-- R298, R302: the policy of a plane that comes into force while a bench of it is fenced already. -/
def fencedPolicy (p : Nat) : Prog :=
  look fun s => when ((membersOf (s.plane p).benches 32).any fun b => s.fenced b) (fencePolicy p)

/-- The ledger line of a unit that is fenced (R587, R588, R599). -/
def fenceUnit (u : Nat) : Prog :=
  look fun s => when (!s.fenced u) (all [setB (F.LEDG_UNIT_FENCED u) true, bumpEpoch u])

def liftFence (u : Nat) : Prog :=
  look fun s => when (s.fenced u) (all [setB (F.LEDG_UNIT_FENCED u) false, bumpEpoch u])

/-! ## Partitions -/

/-- Partition `p` leaves the enabled set (R552, R303): its benches fall to DWELL once no launch is outstanding. -/
def disablePart (p : Nat) : Prog :=
  look fun s => all [
    setUnit (32 + p) 0, setF (F.TB_TURN_LEN_LEN p) 0,
    modPart p fun x => { x with stopAsked := false, derated := false, slow := false, turnStart := none, seen := 0, banks := [] },
    each (membersOf (s.plane p).benches 32) idleBench]

/-- Whether any source asks for partition `p` to be derated (R567). -/
def State.derateAsked (s : State) (p : Nat) : Bool := s.dev.pwr.derateBy.any fun m => inMask m.2 p

/-- VREQ covers the higher of the current and pending frequencies (R565). -/
def setVreq : Prog :=
  look fun s =>
    let cur := s.fld F.PCK_TILE_MHZ_NORMAL
    let top := match s.dev.pwr.tileClk with
      | some (mhz, _, _) => max cur mhz
      | none => cur
    when (top != 0) (setF F.PCK_AVS_VREQ (Config.vreq top))

/-- The thermal control's own derate of a partition (R567). -/
def autoDerate (p : Nat) (on : Bool) : Prog :=
  modPwr fun w => { w with derateBy := Sparse.put zeroNat w.derateBy 7 (setBits (Sparse.get zeroNat w.derateBy 7) p 1 (if on then 1 else 0)) }

/-- The signed 1/16 °C reading of PCK_TEMP and the threshold TDERATE − HYST in the same unit (R566, R567). -/
def State.temp16 (s : State) : Int := signedOf 16 (s.fld F.PCK_TEMP_TEMP)
def State.derateOff16 (s : State) : Int :=
  16 * ((s.fld F.PCK_THERM_CTL_TDERATE : Int) - s.fld F.PCK_THERM_CTL_HYST)

/-- Partition `p` enters the enabled set on this tick (R98, R552, R567, R591). No turn is in force until its first turn boundary: no
entry acts before it, no turn before it is a due turn, and catches are limited as R664 says (log entry 119). -/
def enablePart (p : Nat) : Prog :=
  look fun s => all [
    setUnit (32 + p) 1,
    setF (F.TB_TURN_ORG_LO_ORG p) (s.fld (F.TT_ORG_LO_ORG p)), setF (F.TB_TURN_ORG_HI_ORG p) (s.fld (F.TT_ORG_HI_ORG p)),
    setF (F.TB_TURN_LEN_LEN p) (s.plane p).turnLen,
    setF (F.LEDG_GROUPS_LO p) 0xFFFFFFFF, setF (F.LEDG_GROUPS_HI p) 0xFFFFFFFF,
    modPart p fun x => { x with stopAsked := false, turnStart := none, seen := 0, banks := [] },
    when (inMask (s.fld F.PCK_THERM_CTL_AUTO_MASK) p && decide (s.derateOff16 < s.temp16)) (autoDerate p true),
    each (membersOf (s.plane p).benches 32) fun b => moveBench b ((s.plane p).idleOf b), fencedPolicy p]

end Sys2Proof.Machine
end

