-- ==== Sys2Proof/Machine/Images.lean ====
section
/-!
DEFINITION. Sys2Proof/Machine/Images.lean: the Venen image: its header, segment table and bodies (R307 to R312), the
authentication pass (R317 to R322), the planes it carries, and the checks of one plane by itself (R72, R76, R80, R81,
R99, R207, R212, R240, R249, R264, R280, R286, R293, R295, R310, R311).
-/
namespace Sys2Proof.Machine

def sliceB (bs : List Byte) (off n : Nat) : List Byte := (bs.drop off).take n
def w32 (bs : List Byte) (off : Nat) : Nat := ofBytes (sliceB bs off 4)

/-- Cut a body into records of `n` bytes; a short remainder is left out. `fuel` bounds the count. -/
def recordsOf (n : Nat) : Nat → List Byte → List (List Byte)
  | 0, _ => []
  | fuel + 1, bs => if bs.length < n then [] else bs.take n :: recordsOf n fuel (bs.drop n)

def records (n : Nat) (bs : List Byte) : List (List Byte) := recordsOf n bs.length bs
def wordsOf (bs : List Byte) : List Nat := (records 4 bs).map ofBytes

/-! ## Header and segment table (R307, R308) -/

structure Hdr where
  magic : Nat
  major : Nat
  device : Nat
  stepL : Nat
  stepD : Nat
  plane : Bool
  debug : Bool
  part : Nat
  length : Nat
  nseg : Nat
  seq : Nat
  build : Nat
  deriving DecidableEq, Repr

def hdrOf (bs : List Byte) : Hdr :=
  { magic := w32 bs 0, major := bitsOf (w32 bs 4) 0 8, device := bitsOf (w32 bs 8) 0 16,
    stepL := bitsOf (w32 bs 8) 16 8, stepD := bitsOf (w32 bs 8) 24 8, plane := bitsOf (w32 bs 12) 0 1 == 1,
    debug := bitsOf (w32 bs 12) 1 1 == 1, part := bitsOf (w32 bs 12) 8 3, length := bitsOf (w32 bs 16) 0 31,
    nseg := bitsOf (w32 bs 20) 0 13, seq := bitsOf (w32 bs 24) 0 7, build := w32 bs 28 }

structure Seg where
  type : Nat
  enc : Bool
  opt : Bool
  part : Nat
  off : Nat
  blen : Nat
  dest : Nat
  iv : List Byte
  raw : List Byte
  reserved : Nat
  deriving DecidableEq, Repr

def segOf (bs : List Byte) (i : Nat) : Seg :=
  let e := sliceB bs (0x100 + 32 * i) 32
  { type := bitsOf (w32 e 0) 0 8, enc := bitsOf (w32 e 0) 8 1 == 1, opt := bitsOf (w32 e 0) 9 1 == 1,
    part := bitsOf (w32 e 0) 10 3, off := bitsOf (w32 e 4) 0 31, blen := bitsOf (w32 e 8) 0 31, dest := w32 e 12,
    iv := sliceB e 16 12, raw := e,
    reserved := bitsOf (w32 e 0) 13 19 + bitsOf (w32 e 4) 31 1 + bitsOf (w32 e 8) 31 1 + w32 e 28 }

def segsOf (bs : List Byte) : List Seg := (List.range (hdrOf bs).nseg).map (segOf bs)

/-- The end of a body with its tag. -/
def Seg.stop (g : Seg) : Nat := g.off + g.blen + (if g.enc then 16 else 0)

/-- Header checks of R317 step 1 but for the load conditions. -/
def hdrOk (h : Hdr) (have_ : Nat) : Bool :=
  256 ≤ have_ && h.magic == 0x4E454E56 && h.major == 1 && h.device == 0x0820 &&
  (decide (h.stepL < 0x41) || (h.stepL == 0x41 && h.stepD ≤ 1)) &&
  h.length % 64 == 0 && h.length == have_ && 1 ≤ h.nseg && h.nseg ≤ 4096 && h.seq ≤ 64

/-- The segment types of R309. -/
def knownType (t : Nat) : Bool := (1 ≤ t && t ≤ 0x10) || (0x20 ≤ t && t ≤ 0x23)

/-- The index of the first segment that fails the table checks of R308. OFFSETs increase, also past a body without bytes. -/
def tableFault (h : Hdr) : List Seg → Nat → Nat → Option Nat
  | [], _, _ => none
  | g :: gs, i, from_ =>
    if g.reserved != 0 || g.off % 64 != 0 || g.off < from_ || h.length < g.stop ||
        (knownType g.type && (if g.type == 0x05 then g.dest % 64 != 0 else g.dest != 0)) then some i
    else tableFault h gs (i + 1) (max g.stop (g.off + 1))

/-- Where the segment table ends (R308). -/
def Hdr.tableEnd (h : Hdr) : Nat := 0x100 + 32 * h.nseg

/-- What a pass over an image ends with: a code of IMG_RESULT and a segment index, or the decrypted bodies. -/
abbrev Pass (α : Type) := Except (Nat × Nat) α

def rHeader : Nat := 1
def rKey : Nat := 2
def rRollback : Nat := 3
def rDebug : Nat := 4
def rDecrypt : Nat := 5
def rSig : Nat := 6
def rCheck : Nat := 7
def rState : Nat := 8
def rSource : Nat := 9
def rAborted : Nat := 10

def allZero (bs : List Byte) : Bool := bs.all (· == 0)

/-- The body of a segment; none for an ENC body that does not open under its tag (R320). -/
def Seg.body (g : Seg) (imgKey : Option (List Byte)) (bs : List Byte) : Option (List Byte) :=
  if g.enc then imgKey.bind fun k => Config.aesGcmOpen k g.iv g.raw (sliceB bs g.off g.blen) (sliceB bs (g.off + g.blen) 16)
  else some (sliceB bs g.off g.blen)

/-- Step 5 of R317: the bytes between a body and the one before it, which ends at `prev`, must be zero, and each ENC body must open. -/
def readBodies (imgKey : Option (List Byte)) (bs : List Byte) : List Seg → Nat → Option Nat → Pass (List (Seg × List Byte))
  | [], _, _ => .ok []
  | g :: gs, i, prev =>
    if !(prev.all fun e => allZero (sliceB bs e (g.off - e))) then .error (rHeader, i)
    else match g.body imgKey bs with
      | none => .error (rDecrypt, i)
      | some b => (readBodies imgKey bs gs (i + 1) (some g.stop)).map fun r => (g, b) :: r

/-- The first `n` words of a fused key. -/
def keyWords (k : Sparse Nat) (n : Nat) : List Nat := (List.range n).map (Sparse.get zeroNat k)
def keyBytes (ws : List Nat) : List Byte := ws.flatMap (toBytes 4)
def fuseBit (c : Chuck) (b : Nat) : Bool := bitsOf c.fuseFlags b 1 == 1

/-- The image key, once it is fused (R320). -/
def Chuck.bodyKey (c : Chuck) : Option (List Byte) := if fuseBit c 1 then some (keyBytes (keyWords c.imgKey 8)) else none

/-- Step 1 of R317 for an image of `have_` bytes: `stateOk` are the load conditions of R325 and `wantPlane` whether the load takes a
PLANE image for partition `part`. -/
def headFault (stateOk wantPlane : Bool) (part : Nat) (bs : List Byte) (have_ : Nat) : Option (Nat × Nat) :=
  let h := hdrOf bs
  if !hdrOk h have_ || h.plane != wantPlane || (h.plane && h.part != part) then some (rHeader, 0)
  else if !stateOk then some (rState, 0)
  else (tableFault h (segsOf bs) 0 h.tableEnd).map fun i => (rHeader, i)

def imgPub (bs : List Byte) : List Byte := sliceB bs 0x40 96

/-- Step 2 of R317: the key of an open device is always right (R318). -/
def keyOk (c : Chuck) (bs : List Byte) : Bool := !fuseBit c 0 || Config.sha384 (imgPub bs) == keyBytes (keyWords c.keyHash 12)

/-- Steps 2 to 4 of R317. -/
def keyFault (c : Chuck) (bs : List Byte) : Option (Nat × Nat) :=
  if !keyOk c bs then some (rKey, 0)
  else if (hdrOf bs).seq < c.rbCount then some (rRollback, 0)
  else if fuseBit c 2 && (hdrOf bs).debug then some (rDebug, 0)
  else none

/-- Steps 1 to 6 of R317 over a whole image, in order. -/
def authenticate (c : Chuck) (stateOk wantPlane : Bool) (part : Nat) (bs : List Byte) :
    Pass (Hdr × List (Seg × List Byte)) :=
  match headFault stateOk wantPlane part bs bs.length, keyFault c bs with
  | some e, _ => .error e
  | none, some e => .error e
  | none, none => match readBodies c.bodyKey bs (segsOf bs) 0 none with
    | .error e => .error e
    | .ok r =>
      if Config.ecdsaP384 (imgPub bs) (Config.sha384 (bs.take 0xA0 ++ bs.drop 0x100)) (sliceB bs 0xA0 96) then .ok (hdrOf bs, r)
      else .error (rSig, 0)

/-! ## Planes (R309 to R311) -/

def entryOfBytes (r : List Byte) : TtEntry := ⟨w32 r 0, w32 r 4, w32 r 8, w32 r 12⟩
def groupOfBytes (r : List Byte) : Group :=
  { id := bitsOf (w32 r 0) 0 6, cfg := w32 r 4, dl := w32 r 8, ll := w32 r 12, ovr := w32 r 16, ddl := w32 r 20, dll := w32 r 24 }

/-- The data blocks of a tile record and the bytes after them; each block is padded to 64 bytes. -/
def tileBlocks : Nat → List Byte → List (Nat × List Byte) × List Byte
  | 0, bs => ([], bs)
  | n + 1, bs =>
    let len := w32 bs 4
    let step := (8 + len + 63) / 64 * 64
    let rest := tileBlocks n (bs.drop step)
    ((bitsOf (w32 bs 0) 0 20, sliceB bs 8 len) :: rest.1, rest.2)

def tileRecs : Nat → List Byte → List TileRec
  | 0, _ => []
  | fuel + 1, bs =>
    if bs.length < 32 then []
    else
      let np := bitsOf (w32 bs 0x1C) 0 16
      let nd := bitsOf (w32 bs 0x1C) 16 16
      let blocks := tileBlocks nd (bs.drop (0x20 + 4 * np))
      { tile := bitsOf (w32 bs 0) 0 9, fbase := bitsOf (w32 bs 4) 0 20, flen := bitsOf (w32 bs 8) 0 20,
        pbase := bitsOf (w32 bs 0xC) 0 20, plen := bitsOf (w32 bs 0x10) 0 14, rbase := bitsOf (w32 bs 0x14) 0 20,
        mode := bitsOf (w32 bs 0x18) 0 12, progs := (List.range np).map fun i => w32 bs (0x20 + 4 * i), data := blocks.1 }
      :: tileRecs fuel blocks.2

abbrev Bodies := List (Seg × List Byte)

def Bodies.of (b : Bodies) (type part : Nat) : List (List Byte) :=
  (b.filter fun x => x.1.type == type && x.1.part == part).map Prod.snd
def Bodies.cat (b : Bodies) (type part : Nat) : List Byte := (b.of type part).flatten

/-- The plane that an image's segments give a partition. -/
def planeOf (h : Hdr) (b : Bodies) (p : Nat) : Plane :=
  let w := b.cat 0x01 p
  let wk := b.cat 0x0B p
  { build := h.build, seq := h.seq, turnLen := bitsOf (w32 w 0) 0 27, soft := bitsOf (w32 w 0) 27 1 == 1,
    stop := bitsOf (w32 w 0) 28 1 == 1, autoen := bitsOf (w32 w 0) 29 1 == 1, checked := bitsOf (w32 w 0) 30 1 == 1,
    benches := w32 w 4, idle := w32 w 8 + 2 ^ 32 * w32 w 12, nocMhz := bitsOf (w32 w 16) 0 11,
    prBase := bitsOf (w32 w 20) 0 9, prSize := bitsOf (w32 w 20) 16 9,
    carves := (records 16 (b.cat 0x02 p)).map fun r => (w32 r 0, w32 r 4, bitsOf (w32 r 8) 0 1 == 1),
    slots := (records 64 (b.cat 0x03 p)).map fun r => { slot := bitsOf (w32 r 0x3C) 0 12, bytes := r.take 60 },
    models := (records 16 (b.cat 0x04 p)).map fun r => (bitsOf (w32 r 0) 0 4, w32 r 4, w32 r 8, w32 r 12),
    groups := (records 32 (b.cat 0x06 p)).map groupOfBytes,
    normal := (records 16 (b.cat 0x07 p)).map entryOfBytes, derated := (records 16 (b.cat 0x08 p)).map entryOfBytes,
    routes := (records 32 (b.cat 0x09 p)).map wordsOf,
    tiles := tileRecs (b.cat 0x0A p).length (b.cat 0x0A p),
    walkMask := bitsOf (w32 wk 0) 0 16, walkers := (records 32 (wk.drop 4)).map wordsOf,
    merges := (records 32 (b.cat 0x0C p)).map wordsOf, emits := wordsOf (b.cat 0x0D p), samples := wordsOf (b.cat 0x0E p),
    pools := (records 16 (b.cat 0x0F p)).map fun r => (w32 r 0, w32 r 4, w32 r 8, w32 r 12),
    farWins := (records 8 (b.cat 0x10 p)).map fun r => (w32 r 0, w32 r 4) }

def Plane.release (pl : Plane) : Bool := pl.benches == 0
def Plane.benchList (pl : Plane) : List Nat := membersOf pl.benches 32
def Plane.holdsTile (pl : Plane) (t : Nat) : Bool := inMask pl.benches (t / 16)
def Plane.tileRec (pl : Plane) (t : Nat) : Option TileRec := pl.tiles.find? fun r => r.tile == t
def Plane.slotNums (pl : Plane) : List Nat := pl.slots.map SlotDecl.slot
def Plane.isSlot (pl : Plane) (n : Nat) : Bool := pl.slots.any fun d => d.slot == n
def SlotDecl.w (d : SlotDecl) (off : Nat) : Nat := w32 d.bytes off
def SlotDecl.model (d : SlotDecl) : Nat := bitsOf (d.w 0) 3 4
def SlotDecl.group (d : SlotDecl) : Nat := bitsOf (d.w 0) 9 6
def SlotDecl.keep (d : SlotDecl) : Bool := bitsOf (d.w 0) 16 1 == 1
def SlotDecl.base (d : SlotDecl) : Nat := bitsOf (d.w 4) 0 18 * 4096
/-- The size of a slot area, rounded up to 4 KiB (R212). -/
def SlotDecl.size (d : SlotDecl) : Nat :=
  let n := bitsOf (d.w 8) 0 7 * 4096 + 2 * (bitsOf (d.w 8) 8 8 * 256) + 2 * (bitsOf (d.w 8) 16 8 * 256)
  (n + 4095) / 4096 * 4096

/-! ## Ranges -/

def pairwiseDisjoint : List (Nat × Nat) → Bool
  | [] => true
  | a :: l => l.all (disjoint a) && pairwiseDisjoint l

/-- The slots that a staged plane parts (R331): declared now, and not declared and kept by both. -/
def partedSlots (a st : Plane) : List Nat :=
  (a.slots.filter fun o => !(o.keep && st.slots.any fun d => d.slot == o.slot && d.keep)).map SlotDecl.slot

/-! ## The grid and its routes (R279, R285, R286) -/

def tileRow (t : Nat) : Nat := 4 * (t / 16 / 8) + t % 16 / 4
def tileCol (t : Nat) : Nat := 4 * (t / 16 % 8) + t % 4
def tileAtRC (r c : Nat) : Nat := 16 * (8 * (r / 4) + c / 4) + 4 * (r % 4) + c % 4

def routeSrc (r : List Nat) : Nat := bitsOf (r.getD 0 0) 0 9
def routeDst (r : List Nat) : Nat := bitsOf (r.getD 0 0) 9 9
def routeCh (r : List Nat) : Nat := bitsOf (r.getD 0 0) 18 2
def routeHops (r : List Nat) : Nat := bitsOf (r.getD 0 0) 20 6 + 1
def routeValid (r : List Nat) : Bool := bitsOf (r.getD 0 0) 31 1 == 1
def routeMoves (r : List Nat) : List Nat :=
  let m := (r.drop 2).reverse.foldl (fun a w => a * 2 ^ 32 + w) 0
  (List.range (routeHops r)).map fun i => bitsOf m (3 * i) 3

/-- The neighbour of a tile in a direction: 0 north, 1 east, 2 south, 3 west; none beyond the grid. -/
def neighbour (t dir : Nat) : Option Nat :=
  let r := tileRow t
  let c := tileCol t
  if dir = 0 then (if r = 0 then none else some (tileAtRC (r - 1) c))
  else if dir = 1 then (if c = 31 then none else some (tileAtRC r (c + 1)))
  else if dir = 2 then (if r = 15 then none else some (tileAtRC (r + 1) c))
  else (if c = 0 then none else some (tileAtRC r (c - 1)))

/-- The tiles of a path after its source; none where it leaves the grid. -/
def walkPath : Nat → List Nat → Option (List Nat)
  | _, [] => some []
  | t, m :: ms => (neighbour t (m % 4)).bind fun u => (walkPath u ms).map (u :: ·)

def routeTiles (r : List Nat) : Option (List Nat) := (walkPath (routeSrc r) (routeMoves r)).map (routeSrc r :: ·)

/-- The links of a route: (tile it leaves, direction, channel). -/
def routeLinks (r : List Nat) : List (Nat × Nat × Nat) :=
  match routeTiles r with
  | some ts => (ts.zip (routeMoves r)).map fun x => (x.1, x.2 % 4, routeCh r)
  | none => []

def noDup : List Nat → Bool
  | [] => true
  | a :: l => !l.contains a && noDup l

/-- Whether no run of unregistered hops is longer than `limit`. -/
def runsOk (limit : Nat) : List Nat → Nat → Bool
  | [], run => run ≤ limit
  | m :: ms, run => if m / 4 % 2 = 1 then runsOk limit ms 0 else decide (run + 1 ≤ limit) && runsOk limit ms (run + 1)

def hopLimit (mhz : Nat) : Nat := if 800 < mhz then 2 else if 400 < mhz then 4 else 8

def Plane.liveRoutes (pl : Plane) : List (List Nat) := pl.routes.filter routeValid

def routeOk (pl : Plane) (r : List Nat) : Bool :=
  match routeTiles r with
  | none => false
  | some ts => noDup ts && ts.getLast? == some (routeDst r) && ts.all pl.holdsTile && runsOk (hopLimit pl.nocMhz) (routeMoves r) 0

def linksDisjoint : List (List Nat) → Bool
  | [] => true
  | r :: rs => rs.all (fun q => (routeLinks r).all fun l => !(routeLinks q).contains l) && linksDisjoint rs
def pairsDistinct : List (List Nat) → Bool
  | [] => true
  | r :: rs => rs.all (fun q => !(routeSrc q == routeSrc r && routeDst q == routeDst r)) && pairsDistinct rs

/-! ## Timetables (R72, R76, R80, R81, R99, R113, R338) -/

/-- Whether a tile carries program `ref` of a plane (R113, R311). -/
def Plane.carries (pl : Plane) (ref t : Nat) : Bool :=
  match pl.tileRec t with
  | some r => (match r.progs[ref]? with
    | some w => bitsOf w 31 1 == 1
    | none => false)
  | none => false

def usesGroup (k : Nat) : Bool := k == 1 || k == 2 || k == 3 || k == 4 || k == 6
def usesRef (k : Nat) : Bool := k == 1 || k == 2 || k == 4 || k == 5 || k == 6
def usesBenches (k : Nat) : Bool := k == 0 || k == 1 || k == 4
/-- The unnamed ARG bits of a kind must be zero. -/
def argOk (e : TtEntry) : Bool :=
  let a := e.w3
  if e.kind = 0 then bitsOf a 2 30 == 0 && (bitsOf a 0 2 == 1 || bitsOf a 0 2 == 2)
  else if e.kind = 1 then bitsOf a 4 4 == 0 && bitsOf a 24 8 == 0 && bitsOf a 8 8 ≤ bitsOf a 16 8
  else if e.kind = 2 then bitsOf a 2 30 == 0 && bitsOf a 0 2 != 3
  else if e.kind = 4 then bitsOf a 24 8 == 0
  else if e.kind = 5 || e.kind = 6 then bitsOf a 8 24 == 0
  else a == 0

def entryOk (pl : Plane) (e : TtEntry) : Bool :=
  decide (e.offset < pl.turnLen) && bitsOf e.w0 30 2 == 0 && bitsOf e.w2 26 6 == 0 && e.kind ≤ 7 &&
  (usesRef e.kind || e.ref == 0) && (usesGroup e.kind || e.group == 0) && (usesBenches e.kind || e.benches == 0) &&
  argOk e && (membersOf e.benches 32).all (inMask pl.benches) &&
  (!usesGroup e.kind || (pl.group e.group).isSome)

def risingOffsets : List TtEntry → Bool
  | a :: b :: l => a.offset ≤ b.offset && risingOffsets (b :: l)
  | _ => true

def launchStage (e : TtEntry) : Nat := bitsOf e.w3 0 4
def launchSlice (e : TtEntry) : Nat := bitsOf e.w3 8 8
def launchSlices (e : TtEntry) : Nat := bitsOf e.w3 16 8

def groupsUsed (pl : Plane) (tt : List TtEntry) : List Nat :=
  (pl.groups.map Group.id).filter fun g =>
    (pl.slots.any fun d => d.group == g) || tt.any fun e => usesGroup e.kind && e.group == g

/-- The conditions on the LAUNCHes of one group: each of its stages is launched; and one SLICES − 1 and every slice for each stage that a
LAUNCH names. -/
def launchesOk (tt : List TtEntry) (g : Group) : Bool :=
  (List.range 16).all fun st =>
    let ls := tt.filter fun e => e.kind == 1 && e.group == g.id && launchStage e == st
    match ls with
    | [] => decide (g.stages ≤ st)
    | l :: _ => ls.all (fun e => launchSlices e == launchSlices l) &&
        (List.range (launchSlices l + 1)).all fun i => ls.any fun e => launchSlice e == i

/-- Some tile of a LAUNCH carries its program (R113). -/
def launchCarried (pl : Plane) (e : TtEntry) : Bool :=
  e.kind != 1 || (membersOf e.benches 32).any fun b => (tilesOf b).any (pl.carries e.ref)

/-- Each destination table is named by EMITs of one ledger unit (R71, R72). -/
def emitUnitsOk (tt : List TtEntry) : Bool :=
  let es := tt.filter fun e => e.kind == 6
  es.all fun a => es.all fun b => a.ref != b.ref || bitsOf a.w3 0 8 == bitsOf b.w3 0 8

/-- Distance in ticks from the entry at place `i` back to the one at place `j`, counted cyclically. -/
def leadOf (len i j : Nat) (e w : TtEntry) : Nat :=
  if e.offset = w.offset then (if j < i then 0 else len) else (e.offset + len - w.offset) % len

/-- The WAKE lead of R80 and R81 for the LAUNCH at place `i` on bench `b`. Of two WAKEs at the same distance the spec does not say which is
the nearest: the model takes the one that stands first in the list (log entry 124). -/
def leadOk (pl : Plane) (tt : List TtEntry) (i : Nat) (e : TtEntry) (b : Nat) : Bool :=
  let idle := pl.idleOf b
  if idle = 0 then true
  else
    let ws := tt.zipIdx.filter fun x => x.1.kind == 0 && inMask x.1.benches b
    let best := ws.foldl (fun acc x =>
      let d := leadOf pl.turnLen i x.2 e x.1
      match acc with
      | none => some (d, bitsOf x.1.w3 0 2)
      | some a => if d < a.1 then some (d, bitsOf x.1.w3 0 2) else some a) (none : Option (Nat × Nat))
    match best with
    | none => false
    | some (d, from_) => from_ == idle && (if idle = 1 then 48 else 12500) ≤ d

def timetableOk (pl : Plane) (tt : List TtEntry) : Bool :=
  1 ≤ tt.length && tt.length ≤ 16384 &&
  (match tt with
    | e :: es => e.kind == 7 && e.offset == 0 && es.all (fun x => x.kind != 7)
    | [] => false) &&
  risingOffsets tt && tt.all (entryOk pl) &&
  (groupsUsed pl tt).all (fun g => (tt.filter fun e => e.kind == 3 && e.group == g).length == 1) &&
  pl.groups.all (fun g => !(groupsUsed pl tt).contains g.id || launchesOk tt g) &&
  emitUnitsOk (pl.normal ++ pl.derated) &&
  tt.all (launchCarried pl) &&
  tt.zipIdx.all (fun x => x.1.kind != 1 || (membersOf x.1.benches 32).all (leadOk pl tt x.2 x.1)) &&
  -- R249: a walker descriptor is named by at most one WALK of the plane, and AHEAD is below the period
  (tt.filter fun e => e.kind == 2).all (fun e =>
    (((pl.normal ++ pl.derated).filter fun x => x.kind == 2 && x.ref == e.ref).length == 1) && decide (e.ref < pl.walkers.length) &&
    (match pl.group e.group with
      | some g => decide (bitsOf e.w3 0 2 < g.period)
      | none => false)) &&
  -- R264: a MERGE closes before twice the turn length
  (tt.filter fun e => e.kind == 4).all (fun e => decide (e.offset + bitsOf e.w3 0 24 < 2 * pl.turnLen) && decide (e.ref < pl.merges.length))

/-- The derated timetable keeps the stage and slice counts of the normal one (R99). -/
def deratedOk (pl : Plane) : Bool :=
  pl.derated.isEmpty ||
  (timetableOk pl pl.derated &&
    pl.groups.all fun g => (List.range g.stages).all fun st =>
      let f := fun (e : TtEntry) => e.kind == 1 && e.group == g.id && launchStage e == st
      ((pl.normal.find? f).map launchSlices) == ((pl.derated.find? f).map launchSlices))

/-! ## Benches, slots, pools, walkers, merges, windows -/

/-- The benches of a plane form one 4-connected set of the 4 × 8 grid (R280): grow from the first. -/
def benchNear (a b : Nat) : Bool :=
  (a / 8 == b / 8 && (a % 8 + 1 == b % 8 || b % 8 + 1 == a % 8)) ||
  (a % 8 == b % 8 && (a / 8 + 1 == b / 8 || b / 8 + 1 == a / 8))
def growBenches (all_ : List Nat) : Nat → List Nat → List Nat
  | 0, got => got
  | n + 1, got => growBenches all_ n (all_.filter fun b => got.contains b || got.any (benchNear b))
def connected (pl : Plane) : Bool :=
  match pl.benchList with
  | [] => false
  | b :: bs => (growBenches (b :: bs) 32 [b]).length == (b :: bs).length

def tileRecOk (pl : Plane) (r : TileRec) : Bool :=
  let f := (r.fbase, r.fbase + r.flen)
  let inF := fun (a n : Nat) => f.1 ≤ a && a + n ≤ f.2
  r.fbase % 4096 == 0 && r.flen % 4096 == 0 && f.2 ≤ 0x100000 && pl.holdsTile r.tile &&
  inF r.pbase (16 * r.plen) && inF r.rbase 0x4000 && r.data.all (fun d => inF d.1 d.2.length)

def poolRange (p : Nat × Nat × Nat × Nat) : Nat × Nat := (bitsOf p.2.1 0 24, bitsOf p.2.1 0 24 + bitsOf p.2.2.1 0 24)
def poolValid (p : Nat × Nat × Nat × Nat) : Bool := bitsOf p.1 31 1 == 1
def poolIsFar (p : Nat × Nat × Nat × Nat) : Bool := bitsOf p.1 24 1 == 1
def poolPageSize (p : Nat × Nat × Nat × Nat) : Nat :=
  let d := p.2.2.2
  let kvh := bitsOf d 6 4 + 1
  let dim := 32 * 2 ^ bitsOf d 10 2
  let bits := if bitsOf d 12 1 = 1 then 4 else 8
  (bitsOf d 0 6 + 1) * (64 * ((2 * kvh * 16 * dim * bits / 8 + 4 * kvh * dim / 32 + 63) / 64))
def poolAddrs (p : Nat × Nat × Nat × Nat) : Nat × Nat :=
  (bitsOf p.1 0 24 * 65536, bitsOf p.1 0 24 * 65536 + bitsOf p.2.2.1 0 24 * poolPageSize p)
/-- The conditions of R240 on a pool: its pages lie where LOC says, in carve-outs of its OWNER. -/
def poolOk (pl : Plane) (part : Nat) (p : Nat × Nat × Nat × Nat) : Bool :=
  1 ≤ bitsOf p.2.1 0 24 && 1 ≤ bitsOf p.2.2.1 0 24 && (poolRange p).2 ≤ 2 ^ 24 && bitsOf p.2.2.2 13 3 == part &&
  inside ((pl.carves.filter fun c => c.2.2 == poolIsFar p).map carveRange) (poolAddrs p).1 (poolAddrs p).2

def walkerOk (pl : Plane) (d : List Nat) : Bool :=
  let stride := bitsOf (walkerWord d 3) 0 20
  outAreaOff d ≤ stride && stride % 64 == 0 && walkerWord d 2 % 64 == 0 &&
  pl.slots.all fun x =>
    let g := (pl.normal ++ pl.derated).find? fun e => e.kind == 2 && pl.walkers[e.ref]? == some d && e.group == x.group
    g.isNone || inside pl.carveRanges (recordAt d x.slot) (recordAt d x.slot + stride)

def mergeSrcs (d : List Nat) : Nat := bitsOf (d.getD 0 0) 0 4 + 1
def mergeRecs (d : List Nat) : Nat := bitsOf (d.getD 0 0) 8 12 + 1
def mergeRecSize (d : List Nat) : Nat := 64 + 4 * (16 * bitsOf (d.getD 0 0) 24 5)
def mergeSlot0 (d : List Nat) : Nat := bitsOf (d.getD 2 0) 0 12
def mergeSlots (d : List Nat) : Nat := bitsOf (d.getD 2 0) 16 12 + 1
def mergeBankSize (d : List Nat) : Nat := mergeSlots d * mergeSrcs d * mergeRecs d * mergeRecSize d
def mergeBank (d : List Nat) (k : Nat) : Nat × Nat :=
  let lo := storeAt + d.getD 1 0 + k * d.getD 3 0
  (lo, lo + mergeBankSize d)
def mergeOk (pl : Plane) (d : List Nat) : Bool :=
  let hostW := (pl.carves.filter carveHostW).map carveRange
  mergeBankSize d ≤ d.getD 3 0 && d.getD 1 0 % 4096 == 0 && d.getD 3 0 % 4096 == 0 &&
  [0, 1].all fun k => inside hostW (mergeBank d k).1 (mergeBank d k).2

def winRange (w : Nat × Nat) : Nat × Nat := (bitsOf w.1 0 26, bitsOf w.1 0 26 + bitsOf w.2 0 26)
def winShare (w : Nat × Nat) : Nat := bitsOf w.1 26 4
def farWinsOk (pl : Plane) : Bool :=
  pl.farWins.length ≤ 16 && (!pl.soft || pl.farWins.isEmpty) &&
  pl.farWins.all (fun w => (winRange w).2 ≤ pl.turnLen && 1 ≤ bitsOf w.2 0 26 && 1 ≤ winShare w && winShare w ≤ 8 &&
    bitsOf w.1 30 2 == 0 && bitsOf w.2 26 6 == 0) &&
  pairwiseDisjoint (pl.farWins.map winRange)

/-- Whether a plane uses far memory (R229, R658). -/
def Plane.usesFar (pl : Plane) : Bool :=
  pl.carves.any (fun c => c.2.2) || pl.pools.any (fun p => poolValid p && poolIsFar p) || !pl.farWins.isEmpty

/-- The segments that a plane must have, and those it may have only once (R310, R312); a derated timetable holds entries as the normal
one does (R69). `types` are its segments' types. -/
def planeSegsOk (pl : Plane) (types : List Nat) : Bool :=
  let n := fun t => (types.filter (· == t)).length
  n 1 == 1 && (if pl.release then types.length == 1
    else n 7 == 1 && n 8 ≤ 1 && (n 8 == 0 || !pl.derated.isEmpty) && 1 ≤ n 6 && 1 ≤ n 0xA)

/-- Every check of one plane by itself. A release plane has every field zero (R310). -/
def planeOk (part : Nat) (pl : Plane) : Bool :=
  if pl.release then
    pl == { build := pl.build, seq := pl.seq }
  else
    1000 ≤ pl.turnLen && pl.turnLen ≤ 67108864 && connected pl &&
    timetableOk pl pl.normal && deratedOk pl &&
    -- carve-outs (R207)
    pl.carves.all (fun c => bitsOf c.1 31 1 == 1 && bitsOf c.1 (if c.2.2 then 27 else 25) 3 == part &&
      (c.2.2 || disjoint (carveRange c) systemArea)) &&
    pairwiseDisjoint pl.carveRanges &&
    -- slots (R212, R20): a slot is declared once, in a defined group
    noDup (pl.slots.map SlotDecl.slot) &&
    pl.slots.all (fun d => (pl.group d.group).isSome && bitsOf (d.w 0) 0 3 == part && 4 ≤ bitsOf (d.w 8) 0 7 &&
      bitsOf (d.w 8) 0 7 ≤ 64 && inside ((pl.carves.filter fun c => !c.2.2).map carveRange) (storeAt + d.base) (storeAt + d.base + d.size)) &&
    pairwiseDisjoint (pl.slots.map fun d => (d.base, d.base + d.size)) &&
    -- routes (R285, R286)
    pl.routes.length ≤ 2048 && pl.liveRoutes.all (routeOk pl) && linksDisjoint pl.liveRoutes && pairsDistinct pl.liveRoutes &&
    pl.tiles.all (tileRecOk pl) && noDup (pl.tiles.map TileRec.tile) &&
    pl.pools.length ≤ 16 && (pl.pools.filter poolValid).all (poolOk pl part) &&
    pairwiseDisjoint ((pl.pools.filter poolValid).map poolRange) &&
    pl.walkers.all (walkerOk pl) && pl.merges.all (mergeOk pl) && farWinsOk pl &&
    -- R295: a serving plane without windows keeps its pools and copies out of far memory
    (pl.soft || !pl.farWins.isEmpty ||
      ((pl.pools.filter poolValid).all (fun p => !poolIsFar p) && pl.walkers.all fun d => bitsOf (walkerWord d 0) 8 1 == 0)) &&
    -- plane region (R310, R327)
    1 ≤ pl.prSize && pl.region.2 ≤ systemArea.1 && pl.carveRanges.all (disjoint pl.region)

end Sys2Proof.Machine
end

