-- ==== Sys2Proof/Machine/Fabric.lean ====
section
/-!
DEFINITION. Sys2Proof/Machine/Fabric.lean: the macrocell fabric (R431 to R440, R454): reading its configuration, the nets
as they settle, what an edge captures, and the checks of a FABRIC segment.
-/
namespace Sys2Proof.Machine

/-! ## The configuration (R439, R454) -/

def fabLen : Nat := 41920
/-- The bytes of a body, as a configuration holds them: those that are not zero. -/
def fabBytes (l : List Byte) (at_ : Nat) : Memory := match l with
  | [] => []
  | b :: t => if b = 0 then fabBytes t (at_ + 1) else (at_, b) :: fabBytes t (at_ + 1)

/-- One byte of a configuration. -/
def c8 (c : Memory) (off : Nat) : Nat := match c with
  | [] => 0
  | (a, b) :: t => if a < off then c8 t off else if a = off then b.toNat else 0
def h16 (c : Memory) (off : Nat) : Nat := c8 c off + 256 * c8 c (off + 1)
def c32 (c : Memory) (off : Nat) : Nat := h16 c off + 65536 * h16 c (off + 2)
def bitAt (c : Memory) (off i : Nat) : Bool := bitsOf (c8 c (off + i / 8)) (i % 8) 1 == 1

def blockAt (b : Nat) : Nat := 0x40 + 1152 * b
def memAt (k p : Nat) : Nat := 0x9040 + 256 * k + 128 * p
def ioAt (n : Nat) : Nat := 0xA040 + 16 * n
def sysAt : Nat := 0xA340

def inputSel (b j : Nat) : Nat := blockAt b + 2 * j
def lckSel (b i : Nat) : Nat := blockAt b + 0x60 + 2 * i
def lrstSel (b : Nat) : Nat := blockAt b + 0x64
def modeWord (c : Memory) (b : Nat) : Nat := c32 c (blockAt b + 0x68)
def wideMux (c : Memory) (b : Nat) : Bool := bitsOf (modeWord c b) 0 1 == 1
def chained (c : Memory) (b : Nat) : Bool := bitsOf (modeWord c b) 1 1 == 1
def chainPos (c : Memory) (b : Nat) : Nat := bitsOf (modeWord c b) 2 3

/-- The word of macrocell `m` (0 to 511) and its fields. -/
def cellWord (c : Memory) (m : Nat) : Nat := c32 c (blockAt (m / 16) + 0x70 + 4 * (m % 16))
def cellType (c : Memory) (m : Nat) : Nat := bitsOf (cellWord c m) 0 2
def cellCk (c : Memory) (m : Nat) : Nat := bitsOf (cellWord c m) 2 2
def cellInv (c : Memory) (m : Nat) : Bool := bitsOf (cellWord c m) 4 1 == 1
def cellCept (c : Memory) (m : Nat) : Bool := bitsOf (cellWord c m) 5 1 == 1
def cellArsel (c : Memory) (m : Nat) : Nat := bitsOf (cellWord c m) 6 2
def cellXorpt (c : Memory) (m : Nat) : Bool := bitsOf (cellWord c m) 8 1 == 1
def cellNot (c : Memory) (m : Nat) : Bool := bitsOf (cellWord c m) 9 1 == 1
def cellCasc (c : Memory) (m : Nat) : Bool := bitsOf (cellWord c m) 10 1 == 1
def cellSteer (c : Memory) (m : Nat) : Bool := bitsOf (cellWord c m) 11 1 == 1

def termUsed (c : Memory) (b t : Nat) : Bool := bitAt c (blockAt b + 0xB0) t
def literal (c : Memory) (b t i : Nat) : Bool := bitAt c (blockAt b + 0xC0 + 12 * t) i

def selNet (c : Memory) (sel : Nat) : Nat := bitsOf (h16 c sel) 0 12
def selPipe (c : Memory) (sel : Nat) : Nat := bitsOf (h16 c sel) 12 2

/-! ## Places of the registers in `Fabric.regs` -/

def pipeKey (sel i : Nat) : Nat := 0x1000 + 4 * sel + i
def iregKey (n : Nat) : Nat := 0x40000 + n
def oregKey (n : Nat) : Nat := 0x40100 + n
def oeregKey (n : Nat) : Nat := 0x40200 + n
def memOutKey (i : Nat) : Nat := 0x50000 + i
def memRegKey (i : Nat) : Nat := 0x51000 + i
def swinKey (i st : Nat) : Nat := 0x60000 + 2 * i + st

def bitZero : Nat → Bool := fun _ => false
def Fabric.reg (f : Fabric) (k : Nat) : Bool := Sparse.get bitZero f.regs k
def Fabric.setReg (f : Fabric) (k : Nat) (v : Bool) : Fabric := { f with regs := Sparse.put bitZero f.regs k v }
def Fabric.memBit (f : Fabric) (k : Nat) : Bool := Sparse.get bitZero f.mem k
def Fabric.setMem (f : Fabric) (k : Nat) (v : Bool) : Fabric := { f with mem := Sparse.put bitZero f.mem k v }

/-! ## Nets (R431 to R435, R438) -/

/-- What the rest of the device shows the fabric: comparators, envelope detectors, SWIN, SECOND, and whether clocks are
held. -/
structure FabIn where
  cmp : Nat := 0
  env : Nat := 0
  swin : Nat := 0
  second : Bool := false
  hold : Bool := false
  deriving DecidableEq, Repr

/-- The level of a net, given the outputs of the macrocells. -/
def Fabric.net (f : Fabric) (i : FabIn) (cells : List Bool) (n : Nat) : Bool :=
  if n < 512 then cells.getD n false
  else if n < 1664 then
    let x := n - 512
    if bitsOf (c32 f.cfg (memAt (x / 72) (x % 72 / 36))) 5 1 = 1 then f.reg (memRegKey x) else f.reg (memOutKey x)
  else if n < 1712 then
    f.released && (if bitsOf (c32 f.cfg (ioAt (n - 1664) + 4)) 7 1 = 1 then f.reg (iregKey (n - 1664)) else inMask f.pins (n - 1664))
  else if n < 1720 then inMask i.cmp (n - 1712)
  else if n < 1724 then inMask i.env (n - 1720)
  else if n < 1740 then f.reg (swinKey (n - 1724) 1)
  else if n = 1740 then i.second
  else n == 4095

/-- What a selector delivers: its net, or the last of its pipeline registers (R439). -/
def Fabric.sel (f : Fabric) (i : FabIn) (cells : List Bool) (s : Nat) : Bool :=
  if selPipe f.cfg s = 0 then f.net i cells (selNet f.cfg s) else f.reg (pipeKey s (selPipe f.cfg s - 1))

def Fabric.term (f : Fabric) (b : Nat) (ins : List Bool) (t : Nat) : Bool :=
  termUsed f.cfg b t && ins.zipIdx.all fun x =>
    (!literal f.cfg b t (2 * x.2) || x.1) && (!literal f.cfg b t (2 * x.2 + 1) || !x.1)

/-- Whether term `5m + k` of a macrocell has a special use (R432). -/
def specialTerm (c : Memory) (m k : Nat) : Bool :=
  (k == 1 && cellArsel c m == 2) || (k == 2 && cellCept c m) || (k == 3 && cellCk c m == 3) || (k == 4 && cellXorpt c m)

/-- The sum of macrocell `m`, with the sum of the macrocell before it. -/
def Fabric.sumOf (f : Fabric) (ins : List Bool) (m : Nat) (prev : Bool) : Bool :=
  ((List.range 5).any fun k => !specialTerm f.cfg m k && f.term (m / 16) ins (5 * (m % 16) + k)) || (cellCasc f.cfg m && prev)

/-- The sums of a block's macrocells from number `m` on. -/
def Fabric.sums (f : Fabric) (ins : List Bool) : Nat → Nat → Bool → List Bool
  | 0, _, _ => []
  | n + 1, m, prev =>
    let v := f.sumOf ins m prev
    v :: f.sums ins n (m + 1) v

def natOfBits (l : List Bool) : Nat := l.foldr (fun b n => (if b then 1 else 0) + 2 * n) 0

/-- The inputs of a block. -/
def Fabric.inputs (f : Fabric) (i : FabIn) (cells : List Bool) (b : Nat) : List Bool :=
  (List.range 48).map fun j => f.sel i cells (inputSel b j)

/-- The 32:1 result of a block (R434). -/
def muxOf (ins : List Bool) : Bool := ins.getD (natOfBits ((ins.drop 32).take 5)) false

/-- The wide-multiplexer result that passes through macrocell 15 of a block: of a chain, the block that the high select
names, or 0. -/
def Fabric.wide (f : Fabric) (i : FabIn) (cells : List Bool) (b : Nat) : Bool :=
  if chained f.cfg b then
    let k := chainPos f.cfg b
    let hi := natOfBits (((f.inputs i cells b).drop 37).take 3)
    decide (hi ≤ k) && muxOf (f.inputs i cells (b - (k - hi)))
  else muxOf (f.inputs i cells b)

/-- What one macrocell works with: its data, its clear, its clock enable, and the level of its clock before inversion. -/
structure CellIn where
  d : Bool
  clear : Bool
  ce : Bool
  clk : Bool
  deriving DecidableEq, Repr

/-- The macrocells of a block, given the outputs of all macrocells (R432, R433, R434). -/
def Fabric.blockCells (f : Fabric) (i : FabIn) (cells : List Bool) (b : Nat) : List CellIn :=
  let c := f.cfg
  let ins := f.inputs i cells b
  (f.sums ins 16 (16 * b) false).zipIdx.map fun x =>
    let m := 16 * b + x.2
    let t := fun k => !wideMux c b && f.term b ins (5 * x.2 + k)
    let sum := if wideMux c b then x.2 == 15 && f.wide i cells b else x.1
    { d := if cellSteer c m then ins.getD x.2 false else xor (xor sum (cellXorpt c m && t 4)) (cellNot c m),
      clear := if cellArsel c m = 1 then f.sel i cells (lrstSel b) else cellArsel c m == 2 && t 1,
      ce := !cellCept c m || t 2,
      clk := match cellCk c m with
        | 0 => f.clkHigh
        | 1 => f.sel i cells (lckSel b 0)
        | 2 => f.sel i cells (lckSel b 1)
        | _ => t 3 }

/-- The output of a macrocell: combinational, or its element; a latch follows while its clock is high. -/
def Fabric.cellOut (f : Fabric) (i : FabIn) (m : Nat) (x : CellIn) : Bool :=
  match cellType f.cfg m with
  | 0 => x.d
  | 3 => !x.clear && (if !i.hold && xor x.clk (cellInv f.cfg m) then x.d else f.reg m)
  | _ => !x.clear && f.reg m

def Fabric.allCells (f : Fabric) (i : FabIn) (cells : List Bool) : List CellIn :=
  (List.range 32).flatMap (f.blockCells i cells)

/-- One pass over the macrocells. -/
def Fabric.pass (f : Fabric) (i : FabIn) (cells : List Bool) : List Bool :=
  (f.allCells i cells).zipIdx.map fun x => f.cellOut i x.2 x.1

def Fabric.passes (f : Fabric) (i : FabIn) : Nat → List Bool → List Bool
  | 0, cells => cells
  | n + 1, cells =>
    let next := f.pass i cells
    if next = cells then cells else Fabric.passes f i n next

/-- The macrocell outputs as they settle, pass by pass until nothing changes: no combinational path is longer than 512 macrocells (R440). -/
def Fabric.settled (f : Fabric) (i : FabIn) : List Bool :=
  f.passes i 513 ((List.range 512).map f.reg)

/-! ## Edges (R432, R435 to R437, R439, R445, R448) -/

/-- Whether a clock setting (0 FABCLK, otherwise the net of a selector) is the clock of an edge. -/
def clockIs (c : Memory) (onNet : Bool) (sel : Nat) (k : FabClk) : Bool :=
  match k with
  | .fabclk => !onNet
  | .net n => onNet && selNet c sel == n
  | _ => false

/-- Whether macrocell `m` is clocked by the clock of an edge. -/
def cellClocked (c : Memory) (m : Nat) (k : FabClk) : Bool :=
  match cellCk c m with
  | 0 => k == .fabclk
  | 1 => clockIs c true (lckSel (m / 16) 0) k
  | 2 => clockIs c true (lckSel (m / 16) 1) k
  | _ => k == .term m

/-- What an edge of a clock net captures near a change is open; on FABCLK the timing rule holds (R442, R443). -/
def edgeDraw (e : FabEdge) (draw : Option Nat) : Option Nat := if e.clk == .fabclk then none else draw

/-- A value that an edge captures: a free bit where the data changes near it. -/
def capture (draw : Option Nat) (key : Nat) (v : Bool) : Bool :=
  match draw with
  | some n => Config.freeBit n key
  | none => v

/-- Set many registers. -/
def Fabric.setRegs (f : Fabric) : List (Nat × Bool) → Fabric
  | [] => f
  | (k, v) :: l => (f.setReg k v).setRegs l

/-- What the flip-flops capture. -/
def Fabric.cellCaptures (f : Fabric) (i : FabIn) (cells : List Bool) (e : FabEdge) (draw : Option Nat) : List (Nat × Bool) :=
  ((f.allCells i cells).zipIdx.filter fun x =>
      (cellType f.cfg x.2 == 1 || cellType f.cfg x.2 == 2) && cellClocked f.cfg x.2 e.clk && x.1.ce && !x.1.clear &&
      xor e.rising (cellInv f.cfg x.2)).map
    fun x => (x.2, capture (edgeDraw e draw) x.2 (if cellType f.cfg x.2 = 1 then x.1.d else xor (f.reg x.2) x.1.d))

/-- Every selector of the configuration that may have pipeline registers. -/
def allSelectors : List Nat :=
  ((List.range 32).flatMap fun b => (List.range 48).map (inputSel b)) ++
  ((List.range 32).flatMap fun x => (List.range 52).map fun j => memAt (x / 2) (x % 2) + 4 + 2 * j) ++
  ((List.range 48).flatMap fun n => [ioAt n, ioAt n + 2]) ++ (List.range 33).map fun j => sysAt + 2 * j

/-- What the pipeline registers and the SWIN synchroniser capture on a rising FABCLK edge. -/
def Fabric.pipeCaptures (f : Fabric) (i : FabIn) (cells : List Bool) (e : FabEdge) : List (Nat × Bool) :=
  if e.clk == .fabclk && e.rising then
    (allSelectors.flatMap fun s => (List.range (selPipe f.cfg s)).map fun st =>
      (pipeKey s st, if st = 0 then f.net i cells (selNet f.cfg s) else f.reg (pipeKey s (st - 1)))) ++
    (List.range 16).flatMap fun n => [(swinKey n 0, inMask i.swin n), (swinKey n 1, f.reg (swinKey n 0))]
  else []

def ioSet (c : Memory) (n b : Nat) : Bool := bitsOf (c32 c (ioAt n + 4)) b 1 == 1

/-- What the registers of the I/O cells capture. -/
def Fabric.ioCaptures (f : Fabric) (i : FabIn) (cells : List Bool) (e : FabEdge) (draw : Option Nat) : List (Nat × Bool) :=
  ((List.range 48).filter fun n =>
      clockIs f.cfg (ioSet f.cfg n 10) (ioAt n + 8) e.clk && xor e.rising (ioSet f.cfg n 11)).flatMap fun n =>
    [(iregKey n, capture (edgeDraw e draw) (iregKey n) (f.released && inMask f.pins n)),
      (oregKey n, capture (edgeDraw e draw) (oregKey n) (f.sel i cells (ioAt n))),
      (oeregKey n, capture (edgeDraw e draw) (oeregKey n) (f.sel i cells (ioAt n + 2)))]

/-- The memory bits of word `a` in an aspect, lowest first, as keys of `Fabric.mem`. -/
def memBits (k aspect a : Nat) : List Nat :=
  let w := [1, 2, 4, 9, 18, 36].getD aspect 36
  (List.range w).map fun j =>
    if aspect < 3 then k * 18432 + (a * w + j) / 8 * 9 + (a * w + j) % 8
    else k * 18432 + (a * (w / 9) + j / 9) * 9 + j % 9

def memWord (c : Memory) (k p : Nat) : Nat := c32 c (memAt k p)
def memAspect (c : Memory) (k p : Nat) : Nat := min 5 (bitsOf (memWord c k p) 0 3)

/-- Whether a port of a block memory is clocked by an edge. -/
def memClocked (c : Memory) (k p : Nat) (e : FabEdge) : Bool :=
  clockIs c (bitsOf (memWord c k p) 6 1 == 1) (memAt k p + 2) e.clk && xor e.rising (bitsOf (memWord c k p) 7 1 == 1)

/-- Whether the ports of a block memory have different clocks (R437): another net, or another polarity. -/
def memMixed (c : Memory) (k : Nat) : Bool :=
  let ck := fun p => (bitsOf (memWord c k p) 6 2, if bitsOf (memWord c k p) 6 1 = 1 then selNet c (memAt k p + 2) else 0)
  ck 0 != ck 1

/-- The word that a port addresses. -/
def Fabric.memAddr (f : Fabric) (i : FabIn) (cells : List Bool) (k p : Nat) : Nat :=
  natOfBits ((List.range (14 - memAspect f.cfg k p)).map fun j => f.sel i cells (memAt k p + 4 + 2 * j))
def Fabric.memIn (f : Fabric) (i : FabIn) (cells : List Bool) (k p j : Nat) : Bool := f.sel i cells (memAt k p + 4 + 2 * (14 + j))
def Fabric.memWe (f : Fabric) (i : FabIn) (cells : List Bool) (k p : Nat) : Bool := f.sel i cells (memAt k p + 4 + 2 * 50)
def Fabric.memEn (f : Fabric) (i : FabIn) (cells : List Bool) (k p : Nat) : Bool := f.sel i cells (memAt k p + 4 + 2 * 51)

/-- What the output of a port captures: it reads the contents before the edge, or its own data under WRITE_FIRST. Where the other port, on
another clock, reaches its bits near the edge, the read is open (R437). -/
def Fabric.memReads (f : Fabric) (i : FabIn) (cells : List Bool) (e : FabEdge) (draw : Option Nat) (k p : Nat) : List (Nat × Bool) :=
  if !memClocked f.cfg k p e then []
  else
    let base := 72 * k + 36 * p
    let bits := memBits k (memAspect f.cfg k p) (f.memAddr i cells k p)
    let mode := bitsOf (memWord f.cfg k p) 3 2
    let we := f.memWe i cells k p
    let draw := if memMixed f.cfg k then draw else edgeDraw e draw
    (List.range 36).map (fun j => (memRegKey (base + j), f.reg (memOutKey (base + j)))) ++
    (if f.memEn i cells k p && !(we && mode == 2) then
      bits.zipIdx.map fun x => (memOutKey (base + x.2),
        capture draw (memOutKey (base + x.2)) (if we && mode == 0 then f.memIn i cells k p x.2 else f.memBit x.1))
    else [])

/-- What a port writes. -/
def Fabric.memWrites (f : Fabric) (i : FabIn) (cells : List Bool) (e : FabEdge) (k p : Nat) : List (Nat × Bool) :=
  if memClocked f.cfg k p e && f.memEn i cells k p && f.memWe i cells k p then
    (memBits k (memAspect f.cfg k p) (f.memAddr i cells k p)).zipIdx.map fun x => (x.1, f.memIn i cells k p x.2)
  else []

def Fabric.setMems (f : Fabric) : List (Nat × Bool) → Fabric
  | [] => f
  | (k, v) :: l => (f.setMem k v).setMems l

/-- Latches keep what they follow, and a clear sets its element to 0. -/
def Fabric.keepLatches (f : Fabric) (i : FabIn) : Fabric :=
  let cells := f.settled i
  f.setRegs (((f.allCells i cells).zipIdx.filter fun x => cellType f.cfg x.2 != 0).map fun x =>
    (x.2, if cellType f.cfg x.2 = 3 then f.cellOut i x.2 x.1 else !x.1.clear && f.reg x.2))

/-- Whether HOLD keeps an edge from every clock selector: an edge of a clock net near a write of HOLD may or may not come through (R445). -/
def edgeHeld (e : FabEdge) (i : FabIn) (draw : Option Nat) : Bool :=
  i.hold && (match edgeDraw e draw with
    | some n => Config.freeBit n 0x7FFFF
    | none => true)

/-- The registers and memories after an edge: everything captures from the settled nets before it. Where both ports of a
memory write, port A's bits stand (R437). -/
def Fabric.edge (f : Fabric) (i : FabIn) (e : FabEdge) (draw : Option Nat) : Fabric :=
  if edgeHeld e i draw then f
  else
    let cells := f.settled i
    let both := fun (g : Nat → Nat → List (Nat × Bool)) => (List.range 16).flatMap fun k => g k 1 ++ g k 0
    (f.setRegs (f.cellCaptures i cells e draw ++ f.pipeCaptures i cells e ++ f.ioCaptures i cells e draw ++
      both (f.memReads i cells e draw))).setMems (both (f.memWrites i cells e))

/-- The flag lines, SWOUT and UCATCH: output j of the system frame (R451). -/
def Fabric.sys (f : Fabric) (i : FabIn) (cells : List Bool) (j : Nat) : Bool := f.sel i cells (sysAt + 2 * j)

/-- What the driver of a cell puts on its pin: none while it is high-impedance (R448, R449). -/
def Fabric.fio (f : Fabric) (i : FabIn) (n : Nat) : Option Bool :=
  let cells := f.settled i
  let d := if ioSet f.cfg n 8 then f.reg (oregKey n) else f.sel i cells (ioAt n)
  let oe := if ioSet f.cfg n 9 then f.reg (oeregKey n) else f.sel i cells (ioAt n + 2)
  if !f.released || !oe then none else if ioSet f.cfg n 6 then (if d then none else some false) else some d

/-! ## Checks of a FABRIC segment (R433, R434, R438 to R440) -/

def netOk (n : Nat) : Bool := n ≤ 1740 || n == 4094 || n == 4095

/-- Selectors of clocks and resets. -/
def clockSelectors : List Nat :=
  ((List.range 32).flatMap fun b => [lckSel b 0, lckSel b 1, lrstSel b]) ++
  ((List.range 32).map fun x => memAt (x / 2) (x % 2) + 2) ++ (List.range 48).map fun n => ioAt n + 8

/-- Sites: block row and column. -/
def blockSite (b : Nat) : Nat × Nat := (b / 8, b % 8)
def netSite (n : Nat) : Nat × Nat :=
  if n < 512 then blockSite (n / 16) else if n < 1664 then blockSite (2 * ((n - 512) / 72))
  else if n < 1712 then blockSite (2 * (n - 1664) / 3) else (0, 0)
def hops (a b : Nat × Nat) : Nat := (a.1 - b.1) + (b.1 - a.1) + (a.2 - b.2) + (b.2 - a.2)
/-- The hop at which pipeline register `i` (from 1) of `p` stands on a wire of `d` hops. -/
def pipeHop (d p i : Nat) : Nat := (i * d + p) / (p + 1)

/-- The selectors on which the data of macrocell `m` depends, with the cascade steps of each (R433, R440). -/
def cellDeps (c : Memory) (m : Nat) : List (Nat × Nat) :=
  let b := m / 16
  let ofCell := fun (k : Nat) (casc : Nat) =>
    (List.range 5).flatMap fun x =>
      let t := 5 * (k % 16) + x
      if termUsed c b t && !((x == 1 && cellArsel c k == 2) || (x == 3 && cellCk c k == 3)) &&
          (casc == 0 || !specialTerm c k x) then
        ((List.range 48).filter fun j => literal c b t (2 * j) || literal c b t (2 * j + 1)).map fun j => (inputSel b j, casc)
      else []
  if wideMux c b then
    if m % 16 = 15 then
      let n := if chained c b then chainPos c b else 0
      (List.range (n + 1)).flatMap fun x => (List.range 40).map fun j => (inputSel (b - x) j, x)
    else []
  else if cellSteer c m then [(inputSel b (m % 16), 0)]
  else ofCell m 0 ++ ((List.range (m % 16)).filter fun x =>
    (List.range (x + 1)).all fun y => cellCasc c (m - y)).flatMap fun x => ofCell (m - x - 1) (x + 1)

/-- The site of a selector's destination, for the kinds that macrocell data takes. -/
def selSite (s : Nat) : Nat × Nat :=
  if s < 0x9040 then blockSite ((s - 0x40) / 1152)
  else if s < 0xA040 then blockSite (2 * ((s - 0x9040) / 256))
  else if s < sysAt then blockSite (2 * ((s - 0xA040) / 16) / 3) else (0, 0)

/-- Times of nets after a FABCLK register, in tenths of a nanosecond; none where no such path leads to the net. -/
abbrev Times := List (Option Nat)

/-- Whether a net is launched by a register on FABCLK. -/
def launched (c : Memory) (n : Nat) : Bool :=
  if n < 512 then (cellType c n == 1 || cellType c n == 2 || cellType c n == 3) && cellCk c n == 0
  else if n < 1664 then bitsOf (memWord c ((n - 512) / 72) ((n - 512) % 72 / 36)) 6 1 == 0
  else if n < 1712 then ioSet c (n - 1664) 7 && !ioSet c (n - 1664) 10
  else 1724 ≤ n && decide (n < 1740)

def timeOf (c : Memory) (t : Times) (n : Nat) : Option Nat :=
  if launched c n then some 0 else if n < 512 then t.getD n none else none

/-- The time at which a selector's value arrives at its destination. -/
def selTime (c : Memory) (t : Times) (s : Nat) : Option Nat :=
  let d := hops (netSite (selNet c s)) (selSite s)
  let p := selPipe c s
  if p = 0 then (timeOf c t (selNet c s)).map (· + 3 * d) else some (3 * (d - pipeHop d p p))

def maxTime (a b : Option Nat) : Option Nat :=
  match a, b with
  | some x, some y => some (max x y)
  | some x, none => some x
  | none, y => y

/-- The time of a macrocell's data, its own level included. -/
def dataTime (c : Memory) (t : Times) (m : Nat) : Option Nat :=
  (cellDeps c m).foldl (fun a x => maxTime a ((selTime c t x.1).map (· + 4 * x.2 + 16))) none

def timePass (c : Memory) (t : Times) : Times :=
  (List.range 512).map fun m => if cellType c m = 0 then dataTime c t m else none
def timePasses (c : Memory) : Nat → Times → Times
  | 0, t => t
  | n + 1, t =>
    let next := timePass c t
    if next = t then t else timePasses c n next

/-- Depths of combinational macrocells: a loop's depth grows past every bound. -/
def depthPass (c : Memory) (l : List Nat) : List Nat :=
  (List.range 512).map fun m =>
    if cellType c m = 0 then
      (cellDeps c m).foldl (fun a x =>
        let n := selNet c x.1
        if selPipe c x.1 = 0 && n < 512 && cellType c n = 0 then max a (l.getD n 0 + 1) else a) 0
    else 0
def depthPasses (c : Memory) : Nat → List Nat → List Nat
  | 0, l => l
  | n + 1, l =>
    let next := depthPass c l
    if next = l then l else depthPasses c n next
def loopFree (c : Memory) : Bool := (depthPasses c 513 (List.replicate 512 0)).all fun n => decide (n < 512)

def fabSrc (c : Memory) : Nat := bitsOf (c32 c 4) 0 2
/-- Whether a path of `x` tenths of a nanosecond fits one period (R440, R441), for the family of AUDCLK. -/
def fits (c : Memory) (family x : Nat) : Bool :=
  if fabSrc c = 0 then decide (x ≤ 40 * (bitsOf (c32 c 4) 2 4 + 1))
  else if fabSrc c = 1 then decide (x * (if family = 0 then 245760 else 225792) ≤ 10000 * 10000)
  else decide (x * bitsOf (c32 c 4) 8 8 ≤ 10000)

/-- The timing rule: every capture of a FABCLK register, of a pipeline register and of a flag sampler (R440). -/
def timingOk (c : Memory) (family : Nat) : Bool :=
  let t := timePasses c 513 (List.replicate 512 none)
  let ok := fun (x : Option Nat) => match x with
    | some v => fits c family (v + 8)
    | none => true
  ((List.range 512).all fun m => !((cellType c m != 0) && cellCk c m == 0) || ok (dataTime c t m)) &&
  (allSelectors.all fun s =>
    let d := hops (netSite (selNet c s)) (selSite s)
    let p := selPipe c s
    p == 0 || (ok ((timeOf c t (selNet c s)).map (· + 3 * pipeHop d p 1)) &&
      ((List.range (p - 1)).all fun i => ok (some (3 * (pipeHop d p (i + 2) - pipeHop d p (i + 1))))))) &&
  ((List.range 32).all fun x => bitsOf (memWord c (x / 2) (x % 2)) 6 1 == 1 ||
    ((List.range 52).all fun j => ok (selTime c t (memAt (x / 2) (x % 2) + 4 + 2 * j)))) &&
  ((List.range 48).all fun n => ioSet c n 10 || ((!ioSet c n 8 || ok (selTime c t (ioAt n))) &&
    (!ioSet c n 9 || ok (selTime c t (ioAt n + 2))))) &&
  ((List.range 16).all fun j => ok (selTime c t (sysAt + 2 * j)))

/-- Chains of wide multiplexers: positions 0 to j − 1 in increasing block order within one row (R434). -/
def chainsOk (c : Memory) : Bool :=
  (List.range 32).all fun b => !(wideMux c b && chained c b) ||
    (let k := chainPos c b
     (k ≤ b % 8) && (k == 0 || (wideMux c (b - 1) && chained c (b - 1) && chainPos c (b - 1) == k - 1)))

/-- Every check of a FABRIC body. -/
def fabricOk (body : List Byte) (family : Nat) : Bool :=
  let c := fabBytes body 0
  body.length == fabLen && c32 c 0 == 0x31424146 &&
  (allSelectors.all fun s => netOk (selNet c s)) &&
  (clockSelectors.all fun s => netOk (selNet c s) && selPipe c s == 0) &&
  ((List.range 32).all fun b => !cellCasc c (16 * b) && !cellSteer c (16 * b + 15) &&
    (List.range 15).all fun m => !cellSteer c (16 * b + m) || cellCasc c (16 * b + m + 1)) &&
  chainsOk c && loopFree c && timingOk c family

end Sys2Proof.Machine
end

