-- ==== Sys2Proof/Machine/MemErrors.lean ====
section
/-!
DEFINITION. Sys2Proof/Machine/MemErrors.lean: the device address space (R199, R227), merge banks (R264, R265), errors found in the Store
and in far memory (R221, R222, R224, R237, R238, R272), and the accesses of the device's own engines (R208, R242, R270, R292, R295).
-/
namespace Sys2Proof.Machine

/-! ## The address space -/

/-- The usable capacity of far memory in bytes under the configuration of the last training run (R224, R227). -/
def State.farSize (s : State) : Nat :=
  let c := s.dev.farCfg
  let gbit := [8, 12, 16, 24, 32].getD (bitsOf c 4 3) 0
  let all_ := (membersOf (bitsOf c 16 8) 8).length * (bitsOf c 3 1 + 1) * 2 * gbit * 2 ^ 27
  if bitsOf c 7 1 = 1 then all_ / 16 * 15 else all_

/-- What a device address reaches. -/
inductive Place where
  | tile (t : Nat)
  | store
  | far
  | host (w x : Nat)
  | unmapped
  deriving DecidableEq, Repr

/-- The size of a host window, 0 while it is invalid (R358). -/
def State.hwinSize (s : State) (w : Nat) : Nat :=
  if s.bit (F.HQ_HWIN_CTL_VALID w) then min (4096 * s.fld (F.HQ_HWIN_SIZE_SIZE4K w)) (2 ^ 35) else 0

def State.place (s : State) (a : Nat) : Place :=
  if a < 0x20000000 then .tile (a / 0x100000)
  else if storeAt ≤ a && a < storeAt + storeSize then .store
  else if farAt ≤ a && a < 0x3000000000 then (if s.unitState 42 == 3 && a - farAt < s.farSize then .far else .unmapped)
  else if 2 ^ 39 ≤ a && a < 2 ^ 40 then
    let w := (a - 2 ^ 39) / 2 ^ 35
    let x := a % 2 ^ 35
    if x < s.hwinSize w then .host w x else .unmapped
  else .unmapped

/-- The host bus address of offset x in window w (R358). -/
def State.hostAddr (s : State) (w x : Nat) : Nat :=
  s.fld (F.HQ_HWIN_BASE_LO_BASE w) * 4096 + 2 ^ 32 * s.fld (F.HQ_HWIN_BASE_HI_BASE w) + x

/-! ## Merge banks (R264, R265) -/

/-- A merge bank of a plane of a partition: descriptor, bank number, and the openings of the banks of that plane. -/
structure Bank where
  p : Nat
  ref : Nat
  desc : List Nat
  k : Nat
  opened : List OpenBank
  deriving DecidableEq, Repr

/-- The banks of the descriptors that MERGE entries of a plane's timetable close (R264, R265). -/
def Plane.banks (pl : Plane) (p : Nat) (tt : List TtEntry) (opened : List OpenBank) : List Bank :=
  (pl.merges.zipIdx.filter fun d => tt.any fun e => e.kind == 4 && e.ref == d.2).flatMap fun d =>
    [0, 1].map fun k => ({ p, ref := d.2, desc := d.1, k, opened } : Bank)

/-- The banks of the active planes of enabled partitions, and of their retiring planes. -/
def State.banks (s : State) : List Bank :=
  (partIds.filter s.partOn).flatMap fun p =>
    (s.plane p).banks p (s.timetable p) (s.part p).banks ++
    (if (s.part p).retiring.isSome then (s.planeFor p true).banks p (s.tableInForce p true) (s.part p).oldBanks else [])

/-- A bank is open from the boundary of its turn up to and on its close tick (R265). -/
def State.bankOpen (s : State) (b : Bank) : Bool :=
  let mine := b.opened.filter fun x => x.entry.ref == b.ref && x.turn % 2 == b.k
  !mine.isEmpty && mine.all fun x => !s.reached x.close || s.since x.close == 0

/-- A bank in which a Store address lies, where every bank that holds the address is closed. -/
def State.closedAt (s : State) (a : Nat) : Option Bank :=
  match s.banks.filter fun b => inRange (mergeBank b.desc b.k) a with
  | [] => none
  | b :: l => if (b :: l).any s.bankOpen then none else some b

/-- A write into a closed bank is dropped (R265); the record that it was for names the stream (R277). -/
def mergeLate (b : Bank) (a : Nat) : Prog :=
  look fun s =>
    let slot := mergeSlot0 b.desc + (a - (mergeBank b.desc b.k).1) / (mergeSrcs b.desc * mergeRecs b.desc * mergeRecSize b.desc)
    all [incF F.KV_MERGE_LATE,
      logLim (.turn b.p) (32 + b.p) 0x700A 0 (32 + b.p) [slot, (a - storeAt) % 2 ^ 32, s.turnNo b.p % 2 ^ 32] (some slot)]

/-! ## Errors in the Store and in far memory -/

/-- The declared slot in whose state area an address lies (R212). -/
def State.stateSlot (s : State) (a : Nat) : Option Nat :=
  (partIds.flatMap fun p => (s.plane p).slotNums).find? fun n =>
    inRange (storeAt + s.slotBase n, storeAt + s.slotBase n + s.slotState n) a

/-- The page of a pool in which an address lies (R240). -/
def State.pageAt (s : State) (a : Nat) : Option Nat :=
  ((List.range 16).find? fun k => s.bit (F.KV_POOL_A_VALID k) &&
      inRange (s.fld (F.KV_POOL_A_BASE64K k) * 65536,
        s.fld (F.KV_POOL_A_BASE64K k) * 65536 + s.fld (F.KV_POOL_C_COUNT k) * s.pageSize k) a).map fun k =>
    s.fld (F.KV_POOL_B_FIRST k) + (a - s.fld (F.KV_POOL_A_BASE64K k) * 65536) / s.pageSize k

/-- The stream's next chunk starts from fresh state, after a gap (R222): the first chunk not launched, or the next to be
stamped. -/
def freshNext (n : Nat) : Prog :=
  look fun s =>
    let i := ((s.slot n).chunks.findIdx? fun c => !c.launched).getD (s.slot n).chunks.length
    all [modSlot n fun x => { x with newUtt := true }, gapAt n i]

/-- A page in which an uncorrectable line lies gets POISON (R272). -/
def poisonPage (a : Nat) : Prog :=
  look fun s => match s.pageAt a with
    | some p => setPage p 28 1 1
    | none => .nop

/-- Whether a regrip is parting a slot: it drains it (R330), or a chunk that it has parted runs still (R237). -/
def State.partingSlot (s : State) (n : Nat) : Bool :=
  partIds.any fun p => match (s.part p).active, (s.part p).staged, (s.part p).retiring with
    | some a, some st, none => s.unitState (32 + p) == 3 && (partedSlots a st).contains n
    | _, _, some (a, _) => (partedSlots a (s.plane p)).contains n && (s.slot n).chunks.any fun c => c.old && c.part == p
    | _, _, none => false

/-- Poison in a state area: the whole area is zero-filled, for the chunk that runs in it too (R222). -/
def cleanState (a : Nat) : Prog :=
  look fun s => match s.stateSlot a with
    | some n => when (!s.partingSlot n) (all [zeroFill (storeAt + s.slotBase n) (storeAt + s.slotBase n + s.slotState n),
        modSlot n fun x => { x with chunks := x.chunks.map fun c => { c with before := c.before.map fun _ => ([], []) } },
        freshNext n])
    | none => .nop

/-- The line of an address is poisoned, counted and reported as the last one. -/
def poisonLine (a : Nat) : Prog :=
  let l := a / 64 * 64
  if isFar l then all [addPoison l, incF F.FAR_UE, setWord 0x38001C (l % 2 ^ 32), setWord 0x380020 (l / 2 ^ 32)]
  else all [addPoison l, incF F.STORE_UE, setF F.STORE_UE_ADDR_OFFSET (l - storeAt)]

/-- Whether far memory runs with inline ECC (R224). -/
def State.farEcc (s : State) : Bool := bitsOf s.dev.farCfg 7 1 == 1

/-- What the code of a line reports: nothing for far memory without inline ECC (R224). -/
def State.reports (s : State) (a : Nat) (err : EccErr) : EccErr := if isFar a && !s.farEcc then .none else err

/-- A read meets an uncorrectable error (`new`) or a poisoned line (R221, R224). -/
def readUe (a : Nat) (new : Bool) (bench tile : Nat) (st : Option Nat) : Prog :=
  let l := a / 64 * 64
  all [when new (poisonLine l),
    logC (if !new then 0x6005 else if isFar l then 0x6008 else 0x6004) 2 (memUnit l) (memDetail l bench tile st) st,
    poisonPage l, cleanState l]

/-- A corrected error in the Store or in far memory (R221, R224). -/
def readCe (a : Nat) (lim : Limit) (bench tile : Nat) (st : Option Nat := none) : Prog :=
  let l := a / 64 * 64
  all [incF (if isFar l then F.FAR_CE else F.STORE_CE),
    logLim lim (memUnit l) (if isFar l then 0x6007 else 0x6003) 0 (memUnit l) (memDetail l bench tile st) st]

/-! ## Accesses of walkers and of the result side (R208, R221, R242, R270, R292, R295) -/

/-- The first line of some ranges whose read fails: a poisoned one, or with `true` one whose code reports an uncorrectable error. -/
def State.badLine (s : State) (c : Codes) (rs : List (Nat × Nat)) : Option (Nat × Bool) :=
  (rs.flatMap fun r => unitsOf r.1 (r.2 - r.1)).findSome? fun l =>
    if s.dev.poison.contains l then some (l, false)
    else if s.reports l (c.find l 64) == .uncorrectable then some (l, true) else none

/-- Read ranges of the Store or of far memory: corrected errors are counted; a line that cannot be read is reported and `bad` follows,
otherwise `ok` (R221, R224, R272). -/
def reading (p : Nat) (c : Codes) (rs : List (Nat × Nat)) (st : Option Nat) (ok bad : Prog) : Prog :=
  look fun s => all [
    each ((rs.flatMap fun r => unitsOf r.1 (r.2 - r.1)).filter fun l => s.reports l (c.find l 64) == .corrected) fun l =>
      readCe l (.turn p) 0xFF 0xFF st,
    match s.badLine c rs with
    | some x => all [readUe x.1 x.2 0xFF 0xFF st, bad]
    | none => ok]

/-- Whether a partition may read a range, or write it, as a carve-out; writes that are dropped are no violation (R206, R208). -/
def State.mayRead (s : State) (p : Nat) (r : Nat × Nat) : Bool :=
  inside (readable (partIds.filterMap fun q => (s.part q).active.map fun a => (q, a)) p) r.1 r.2
def State.mayWrite (s : State) (p : Nat) (r : Nat × Nat) : Bool :=
  inside (s.dropRanges ++ (s.plane p).carveRanges) r.1 r.2

/-- A carve violation of a walker (R208). -/
def walkerViolation (p a slot : Nat) : Prog := logC 0x600C 2 (32 + p) (memDetail a 0xFF 0xFF (some slot)) (some slot)

/-- A walker writes a range for a slot: line by line where a part of it may be dropped (R206, R242, R277). -/
def walkerWrite (p slot a : Nat) (bs : List Byte) : Prog :=
  look fun s =>
    if !s.dropsIn a bs.length then storeBytes a bs
    else each (List.range ((bs.length + 63) / 64)) fun i =>
      let l := a + 64 * i
      let part := (bs.drop (64 * i)).take 64
      if !disjoint s.ledgerRange (l, l + part.length) then all [incF F.KV_LEDGER_DROPS,
        logLim (.turn p) (32 + p) 0x700C 0 (32 + p) [slot, (l - storeAt) % 2 ^ 32, s.turnNo p % 2 ^ 32] (some slot)]
      else if s.dropsIn l part.length then sysDrop (.turn p) l 0xFF 0xFF (some slot)
      else storeBytes l part

/-- Whether a far-memory window of an enabled partition is in force on this tick (R292). -/
def State.windowOpen (s : State) (p : Nat) : Bool :=
  s.partOn p && s.reached (s.turnOrg p) &&
  (s.plane p).farWins.any fun w => inRange (winRange w) (s.since (s.turnOrg p) % s.turnLen p)

/-- What a far-memory access of a partition meets (R270, R295): it goes on, waits for a window, finds no window in its plane, or finds
unit 42 fenced. -/
inductive FarWay where
  | go | wait | none | fenced
  deriving DecidableEq, Repr

def State.farWay (s : State) (p : Nat) : FarWay :=
  if s.fenced 42 then .fenced
  else if (s.plane p).soft then .go
  else if (s.plane p).farWins.isEmpty then .none
  else if s.windowOpen p then .go else .wait

/-- An access waits for the next window of its partition (R295). -/
def windowWait (p : Nat) (st : Option Nat) : Prog :=
  all [incF F.FAR_WIN_WAITS, logLim (.turn p) (32 + p) 0x8006 0 (32 + p) [] st]

end Sys2Proof.Machine
end

