-- ==== Sys2Proof/Machine/Emit.lean ====
section
/-!
DEFINITION. Sys2Proof/Machine/Emit.lean: results as bytes (R85, R87), queue pairs as the result side sees them
(R367 to R370), play queues (R415, R477), and sending results (R25, R26, R105, R337).
-/
namespace Sys2Proof.Machine

/-! ## Results as bytes (R85, R87) -/

/-- Bytes of one payload unit: a sample of an audio format, otherwise a byte. -/
def unitBytes (fmt : Nat) : Nat := if fmt = 0 || fmt = 4 then 2 else if fmt = 1 || fmt = 2 || fmt = 3 then 4 else 1

/-- The rates of R85 in Hz; 0 for a code that names none. -/
def rateHz (code : Nat) : Nat :=
  [8000, 11025, 12000, 16000, 22050, 24000, 32000, 44100, 48000, 88200, 96000, 176400, 192000].getD code 0

def Result.header (r : Result) : List Byte :=
  toBytes 2 (r.chunk.stream % 4096 + 4096 * r.chunk.model) ++ toBytes 2 r.flags ++ toBytes 4 r.chunk.seq ++
  toBytes 8 r.chunk.deadline ++ toBytes 8 r.complete ++ toBytes 4 r.wait ++ toBytes 1 r.status ++
  toBytes 1 (r.rformat + 16 * r.rrate) ++ toBytes 2 r.rcount

/-- Where the payload of a result lies in its result buffer, and its bytes (R212). -/
def Result.payRange (r : Result) : Nat × Nat :=
  let a := storeAt + r.chunk.base + r.chunk.stateSize + 2 * r.chunk.cbuf + r.buf * r.chunk.rbuf
  (a, a + r.rcount * unitBytes r.rformat)
def State.payloadOf (s : State) (r : Result) : List Byte := s.mem.reads r.payRange.1 (r.rcount * unitBytes r.rformat)

/-! ## Queue pairs -/

def qpAt (q : Nat) : Nat := 0x81000 + 64 * q
def State.qpW (s : State) (q off : Nat) : Nat := (s.word (qpAt q + off)).toNat
/-- A base held in two registers, in units of 4 KiB. -/
def State.qpBase (s : State) (q off : Nat) : Nat := s.qpW q off / 4096 * 4096 + 2 ^ 32 * s.qpW q (off + 4)
def Pair.blank : Nat → Pair := fun _ => {}
def State.pair (s : State) (q : Nat) : Pair := Sparse.get Pair.blank s.dev.pairs q
def modPair (q : Nat) (f : Pair → Pair) : Prog :=
  modDev fun d => { d with pairs := Sparse.put Pair.blank d.pairs q (f (Sparse.get Pair.blank d.pairs q)) }
def State.owner (s : State) (q : Nat) : Nat := s.fld (F.QP_CTL_FUNC q)
def State.inSize (s : State) (q : Nat) : Nat := 2 ^ s.fld (F.QP_SIZES_IN_LOG2 q)
def State.resSize (s : State) (q : Nat) : Nat := 2 ^ s.fld (F.QP_SIZES_RES_LOG2 q)

/-- The MSI-X vectors of a function (R371). -/
def State.vecsOf (s : State) (fn : Nat) : Nat := if fn = 0 then 64 else s.fld (F.HQ_FN_VECS_COUNT (fn - 1))

/-- A message of a pair to its owner; a vector that the owner does not have sends none (R387). -/
def signalPair (q vec : Nat) : Prog := look fun s => when (vec < s.vecsOf (s.owner q)) (sendMsix (s.owner q) vec)

/-- How often a catch about a stream slot is logged: once per turn of the partition that owns it, by time where none does (R386, R484). -/
def State.slotLimit (s : State) (slot : Nat) : Limit := if s.slotDeclared slot then .turn (s.slotPart slot) else .ticks 2500000

/-- INGEST_DROP and RESULT_OVERFLOW: the function, the pair, the stream and a cause (R386). -/
def logPair (code q : Nat) (lim : Limit) (stream cause : Nat) : Prog :=
  look fun s => logLim lim q code 0 43 [s.owner q, q, stream, cause] (some stream)

/-- Send one result to a pair (R368, R369). -/
def sendHost (q : Nat) (r : Result) : Prog :=
  look fun s =>
    let i := s.fld (F.QP_INDEX_RES_TAIL q)
    let n := s.resSize q
    let bad := if !s.bit (F.QP_CTL_EN q) then 1 else if s.unitState (44 + s.owner q) == 2 then 2
      else if (i + 1) % n == (s.pair q).head then 3 else 0
    if bad != 0 then all [incF (F.QP_RES_OVF q), logPair 0xA007 q (.turn r.chunk.part) r.chunk.stream bad]
    else
      let stride := 64 * s.fld (F.QP_PAY_STRIDE_STRIDE64 q)
      let pay := s.payloadOf r
      let base := s.qpBase q 0x20
      let entry := r.header ++ toBytes 1 (if (s.pair q).phase then 1 else 0) ++ List.replicate 31 0
      all [when (stride < pay.length) (logPair 0xA006 q (.turn r.chunk.part) r.chunk.stream 8),
        when (!pay.isEmpty) (hostWrite (s.owner q) (base + i * stride) (pay.take stride)),
        hostWrite (s.owner q) (s.qpBase q 0x14 + 64 * i) entry,
        setF (F.QP_INDEX_RES_TAIL q) ((i + 1) % n),
        when ((i + 1) % n == 0) (modPair q fun x => { x with phase := !x.phase })]

/-! ## Play queues (R415, R477) -/

/-- The number of an output path (unit 112) or of an output slot of a port (units 108 to 111) in `outs`. -/
def outKey (unit path : Nat) : Nat := if unit = 112 then 128 + path % 8 else 32 * (unit - 108) + path % 32
def OutPath.blank : Nat → OutPath := fun _ => {}
def State.out (s : State) (k : Nat) : OutPath := Sparse.get OutPath.blank s.dev.outs k
def modOut (k : Nat) (f : OutPath → OutPath) : Prog :=
  modDev fun d => { d with outs := Sparse.put OutPath.blank d.outs k (f (Sparse.get OutPath.blank d.outs k)) }

/-- Whether an output takes results: its path or its port is enabled, and its unit takes launches, as a fenced one does not (R67). -/
def State.outOn (s : State) (unit path : Nat) : Bool :=
  !s.fenced unit && if unit = 112 then s.bit (F.ARR_OUT_CTL_EN path) else s.unitState unit != 0

/-- The mark under which a port's catch is limited: by port and by the partition whose turn limits it, or by port alone (R484). -/
def portMark (k : Nat) : Limit → Nat
  | .turn p => 8 * (p + 1) + k
  | .ticks _ => k

/-- Count and log an event of an output: the array's counters and codes, or the port's 0x39 below. -/
def outEvent (unit path part stream seq code : Nat) (arr : Fld) (port : Nat → Fld) : Prog :=
  if unit = 112 then all [incF arr, logLim (.turn part) (128 + path) code 0 112 [path, stream, seq] (some stream)]
  else all [incF (port (unit - 108)),
    logLim (.turn part) (portMark (unit - 108) (.turn part)) (code - 0x39) 0 unit [unit - 108, path, stream] (some stream)]

/-- Place a result in the queue of an output (R415). -/
def queueResult (unit path : Nat) (r : Result) : Prog :=
  look fun s =>
    let k := outKey unit path
    let o := s.out k
    let below := match o.next with
      | some n => decide (r.chunk.seq < n)
      | none => false
    if !s.outOn unit path then .nop
    else if r.status = stFlushed then modOut k fun o => { o with queue := [], next := none, stale := o.stale || o.next.isSome }
    else if below || 2 ≤ o.queue.length then
      outEvent unit path r.chunk.part r.chunk.stream r.chunk.seq 0xB044 F.ARR_PLAY_STALE F.AUD_PLAY_STALE
    else modOut k fun o => { o with
      next := some (o.next.getD r.chunk.seq),
      queue := o.queue ++ [{ stream := r.chunk.stream, seq := r.chunk.seq, status := r.status, rformat := r.rformat, rrate := r.rrate,
                             rcount := r.rcount, payload := s.payloadOf r }] }

/-! ## Sending -/

/-- Send one result to one destination under a destination table. -/
def sendOne (unit : Nat) (t : List Nat) (slot : Nat) (r : Result) : Prog :=
  match tableEntry t slot with
  | none => .nop
  | some e =>
    let d := destOf unit e
    if unit = 43 then sendHost d.2 r else queueResult unit d.2 r

/-- Whether an EMIT on this tick may send a result of a slot (R25, R103, R105): its turn to leave has come, and it ended, as did every
result of its stream before it, on an earlier tick. -/
def State.mayGo (s : State) (x : SlotDyn) (r : Result) : Bool :=
  x.mayLeave r && x.results.all fun q => q.complete != s.now || laterTick q.chunk.arrival r.chunk.arrival

/-- The results of a slot that an EMIT of a group may send. -/
def State.dueAt (s : State) (p : Nat) (old : Bool) (g : Nat) (x : SlotDyn) (r : Result) : Bool :=
  r.chunk.part == p && r.old == old && r.chunk.group == g && s.mayGo x r

/-- Read the payload of a result that is to leave. Where a line of it cannot be read, the result leaves as FAIL_ECC without its payload,
and the stream's next chunk carries GAP: R221 gives the chunk of such a read that end, and does not say what becomes of a chunk that has
completed already (log entry 130). -/
def readPayload (c : Codes) (slot : Nat) (r : Result) : Prog :=
  when (r.rcount != 0) (reading r.chunk.part c [r.payRange] (some slot) .nop (all [
    modSlot slot fun x => { x with results := x.results.map fun q =>
      if q == r then { q with status := stEcc, rcount := 0 } else q },
    incF (F.TT_FAIL r.chunk.part),
    look fun s => markGap slot
      ((s.slot slot).chunks.findIdx fun c => laterTick c.arrival r.chunk.arrival) r.chunk.arrival]))

/-- Send what an EMIT of a group sends for one slot to the destination that its table names; a result that has left on every
destination is gone (R26). -/
def emitSlot (c : Codes) (p : Nat) (old : Bool) (g unit : Nat) (t : List Nat) (slot : Nat) : Prog :=
  match tableEntry t slot with
  | none => .nop
  | some e =>
    let d := destOf unit e
    let goes := fun (s : State) (r : Result) => s.dueAt p old g (s.slot slot) r && !r.sent.contains d
    all [
      look fun s => each ((s.slot slot).results.filter (goes s)) (readPayload c slot),
      look fun s =>
        let ends := ((s.planeFor p old).destsIn (s.tableInForce p old) g slot).map Prod.fst
        all [each ((s.slot slot).results.filter (goes s)) (sendOne unit t slot),
          modSlot slot fun y => { y with results :=
            ((y.results.map fun r => if goes s r then { r with sent := d :: r.sent } else r).filter
              fun r => !(r.chunk.part == p && r.old == old && r.chunk.group == g && ends.all r.sent.contains)) }]]

/-- The pairs of a table whose RES_TAIL has moved since `s`: each is signalled once (R370). -/
def signalMoved (s : State) (qs : List Nat) : Prog :=
  each qs fun q => look fun s' =>
    when (s'.fld (F.QP_INDEX_RES_TAIL q) != s.fld (F.QP_INDEX_RES_TAIL q)) (signalPair q (s'.fld (F.QP_CTL_RVEC q)))

def tablePairs (t : List Nat) : List Nat := ((tableRows t).map fun x => bitsOf x.2 0 8).eraseDups

/-- An EMIT entry of a group to a unit: the results leave in increasing slot order (R368). -/
def emitGroup (c : Codes) (p : Nat) (old : Bool) (g unit ref : Nat) : Prog :=
  look fun s =>
    let t := (s.planeFor p old).emitTable ref
    all [each (s.partSlots p) (emitSlot c p old g unit t),
      when (unit == 43) (signalMoved s (tablePairs t))]

/-- The destinations of a result that it has not left on, each with a table that names it: those of the timetable in force first. -/
def State.unsent (s : State) (slot : Nat) (r : Result) : List ((Nat × Nat) × Nat) :=
  let pl := s.planeFor r.chunk.part r.old
  (pl.destsIn (s.tableInForce r.chunk.part r.old ++ pl.normal ++ pl.derated) r.chunk.group slot).filter fun d => !r.sent.contains d.1

/-- Send every unsent result of a slot that `sel` selects to its destinations on this tick (R337, R574). -/
def flushResults (sel : Result → Bool) (slot : Nat) : Prog :=
  all [
    look fun s => each ((s.slot slot).results.filter sel) fun r => when (!(s.unsent slot r).isEmpty) (readPayload [] slot r),
    look fun s => all [each ((s.slot slot).results.filter sel) fun r =>
        each (s.unsent slot r) fun d => all [
          sendOne d.1.1 ((s.planeFor r.chunk.part r.old).emitTable d.2) slot r,
          when (d.1.1 == 43) (signalMoved s [d.1.2])],
      modSlot slot fun x => { x with results := x.results.filter fun r => !sel r }]]

end Sys2Proof.Machine
end

