-- ==== Sys2Proof/Machine/Planes.lean ====
section
/-!
DEFINITION. Sys2Proof/Machine/Planes.lean: planes beside each other (R214, R326 to R333, R661), loading them into place
(R209, R327, R331, R338), the swap at a regrip boundary, and retirement (R330 to R339).
-/
namespace Sys2Proof.Machine

/-! ## What planes hold -/

def Plane.modelNums (pl : Plane) : List Nat := pl.models.map (·.1)
def Plane.links (pl : Plane) : List (Nat × Nat × Nat) := pl.liveRoutes.flatMap routeLinks
def Plane.livePools (pl : Plane) : List ((Nat × Nat × Nat × Nat) × Nat) := pl.pools.zipIdx.filter fun x => poolValid x.1
def Plane.poolRanges (pl : Plane) : List (Nat × Nat) := pl.livePools.map fun x => poolRange x.1
def Plane.slotAreas (pl : Plane) : List (Nat × Nat) := pl.slots.map fun d => (d.base, d.base + d.size)
def Plane.shareAt (pl : Plane) (off : Nat) : Nat :=
  pl.farWins.foldl (fun a w => if (winRange w).1 ≤ off && off < (winRange w).2 then a + winShare w else a) 0
def Plane.winStarts (pl : Plane) : List Nat := pl.farWins.map fun w => (winRange w).1

/-- The summary of a plane that R326 has the Chuck record, and what the other chapters give to one plane alone (R212, R240,
R249, R333). Ranges are half-open. -/
structure Holding where
  benches : List Nat := []
  links : List (Nat × Nat × Nat) := []
  carves : List (Nat × Nat) := []
  slots : List Nat := []
  areas : List (Nat × Nat) := []
  regions : List (Nat × Nat) := []
  models : List Nat := []
  walkers : List Nat := []
  /-- page numbers, and indices of KV_POOL_k -/
  pages : List (Nat × Nat) := []
  pools : List Nat := []
  deriving DecidableEq, Repr

def Plane.holding (pl : Plane) : Holding :=
  if pl.release then {}
  else { benches := pl.benchList, links := pl.links, carves := pl.carveRanges, slots := pl.slotNums, areas := pl.slotAreas,
         regions := [pl.region], models := pl.modelNums, walkers := membersOf pl.walkMask 16, pages := pl.poolRanges,
         pools := pl.livePools.map Prod.snd }

/-- The parts that two lists of ranges share. -/
def meetRanges (a b : List (Nat × Nat)) : List (Nat × Nat) :=
  (a.flatMap fun x => b.map fun y => (max x.1 y.1, min x.2 y.2)).filter fun r => r.1 < r.2

def meetLists {α : Type} [DecidableEq α] (a b : List α) : List α := a.filter fun x => b.contains x

/-- What is left of a holding once another plane takes its place: the rest is given up (R326). -/
def Holding.meet (a b : Holding) : Holding :=
  { benches := meetLists a.benches b.benches, links := meetLists a.links b.links, carves := meetRanges a.carves b.carves,
    slots := meetLists a.slots b.slots, areas := meetRanges a.areas b.areas, regions := meetRanges a.regions b.regions,
    models := meetLists a.models b.models, walkers := meetLists a.walkers b.walkers, pages := meetRanges a.pages b.pages,
    pools := meetLists a.pools b.pools }

def apartRanges (a b : List (Nat × Nat)) : Bool := a.all fun x => b.all (disjoint x)
def apartLists {α : Type} [DecidableEq α] (a b : List α) : Bool := a.all fun x => !b.contains x

/-- Whether two planes hold nothing in common (R207, R212, R240, R249, R280, R286, R326, R327). -/
def Holding.apart (a b : Holding) : Bool :=
  apartLists a.benches b.benches && apartLists a.links b.links && apartRanges a.carves b.carves && apartLists a.slots b.slots &&
  apartRanges a.areas b.areas && apartRanges a.regions b.regions && apartRanges a.regions b.carves &&
  apartRanges a.carves b.regions && apartLists a.walkers b.walkers && apartRanges a.pages b.pages && apartLists a.pools b.pools

/-- What a partition holds and does not give up: its active plane's holding, less what its staged plane lacks. -/
def State.kept (s : State) (q : Nat) : Holding :=
  match (s.part q).active, (s.part q).staged with
  | none, _ => {}
  | some a, none => a.holding
  | some a, some st => a.holding.meet st.holding

/-- How much of something counted a partition holds and does not give up. -/
def State.keptNum (s : State) (n : Plane → Nat) (q : Nat) : Nat :=
  match (s.part q).active, (s.part q).staged with
  | none, _ => 0
  | some a, none => n a
  | some a, some st => min (n a) (n st)

/-- The turn length of a partition with far windows that it keeps. -/
def State.keptTurn (s : State) (q : Nat) : Option Nat :=
  match (s.part q).active, (s.part q).staged with
  | none, _ => none
  | some a, none => if a.farWins.isEmpty then none else some a.turnLen
  | some a, some st => if a.farWins.isEmpty || st.farWins.isEmpty || a.turnLen != st.turnLen then none else some a.turnLen

def otherParts (p : Nat) : List Nat := partIds.filter (· != p)
def modelRange (m : Nat × Nat × Nat × Nat) : Nat × Nat :=
  (storeAt + bitsOf m.2.1 0 18 * 4096, storeAt + (bitsOf m.2.1 0 18 + bitsOf m.2.2.1 0 18) * 4096)

/-- The model bindings of R214 and R661, in both directions, for a plane that loads into partition `p`. -/
def State.bindingsOk (s : State) (p : Nat) (pl : Plane) : Bool :=
  let present := (p, pl) :: s.presentPlanes
  (pl.slots.all fun d => present.all fun x => x.2.models.all fun m =>
    m.1 != d.model || inside (readable present p) (modelRange m).1 (modelRange m).2) &&
  pl.models.all fun m => present.all fun x =>
    !(x.2.slots.any fun d => d.model == m.1) || inside (readable present x.1) (modelRange m).1 (modelRange m).2

/-- At most 8 command slots at every offset, and one turn length among the partitions with windows (R293): `share` and `turn` are what
the partitions of `qs` hold beside the plane, and `starts` where their windows begin. -/
def windowsFit (pl : Plane) (qs : List Nat) (share : Nat → Nat → Nat) (turn : Nat → Option Nat) (starts : List Nat) : Bool :=
  pl.farWins.isEmpty || (qs.all (fun q => (turn q).getD pl.turnLen == pl.turnLen) &&
    (pl.winStarts ++ starts).all fun off => pl.shareAt off + qs.foldl (fun a q => a + share off q) 0 ≤ 8)

def Plane.storeCarves (pl : Plane) : Nat := (pl.carves.filter fun c => !c.2.2).length
def Plane.farCarves (pl : Plane) : Nat := (pl.carves.filter fun c => c.2.2).length

/-- At most 32 carve-outs in the Store, 32 in far memory and 16 pools in all the planes together (R207, R240). -/
def State.countsOk (s : State) (p : Nat) (pl : Plane) : Bool :=
  [(Plane.storeCarves, 32), (Plane.farCarves, 32), ((fun a => a.livePools.length), 16)].all fun x =>
    (otherParts p).foldl (fun a q => a + s.keptNum x.1 q) (x.1 pl) ≤ x.2

/-- Whether a plane of partition `p` fits beside what the other partitions hold and do not give up (R207, R240, R280, R286,
R293, R326, R327). -/
def State.fitsBeside (s : State) (p : Nat) (pl : Plane) : Bool :=
  (otherParts p).all (fun q => pl.holding.apart (s.kept q)) &&
  windowsFit pl (otherParts p) (fun off => s.keptNum fun a => a.shareAt off) s.keptTurn
    ((otherParts p).flatMap fun q => (s.planesOf q).flatMap Plane.winStarts) &&
  s.countsOk p pl

/-! ## Bindings of stream slots to sources (R20) -/

/-- The stream slots that input entries of ports and array paths are bound to. -/
def State.portBinds (s : State) : List (Nat × Nat × Nat) :=
  (List.range 4).flatMap fun p => ((List.range 32).filter fun i => s.bit (F.AUD_IN_MAP_VALID p i)).map fun i =>
    (p, i, s.fld (F.AUD_IN_MAP_STREAM p i))
def State.pathBinds (s : State) : List (Nat × Nat) :=
  ((List.range 16).filter fun i => s.bit (F.ARR_IN_BIND_VALID i)).map fun i => (i, s.fld (F.ARR_IN_BIND_SLOT i))

/-- No stream slot is bound twice (R20, R472). -/
def State.bindsOk (s : State) : Bool := noDup (s.portBinds.map (·.2.2) ++ s.pathBinds.map Prod.snd)

def SlotDecl.source (d : SlotDecl) : Nat := bitsOf (d.w 0) 7 2

/-- No slot of a plane names one source and is bound to another (R20). -/
def State.sourcesOk (s : State) (pl : Plane) : Bool :=
  pl.slots.all fun d => (!(s.portBinds.any fun b => b.2.2 == d.slot) || d.source == 2) &&
    (!(s.pathBinds.any fun b => b.2 == d.slot) || d.source == 3)

/-- MODELS records carried by another partition (R333): by its active or staged plane, unless its staged plane carries
none for that model slot. -/
def State.modelsFree (s : State) (p : Nat) (pl : Plane) : Bool :=
  pl.modelNums.all fun m => (partIds.filter (· != p)).all fun q =>
    match (s.part q).staged with
    | some st => !st.modelNums.contains m
    | none => match (s.part q).active with
      | some a => !a.modelNums.contains m
      | none => true

def SlotDecl.keptFields (d : SlotDecl) : List Nat :=
  [bitsOf (d.w 0) 0 9, d.w 4, bitsOf (d.w 8) 0 24, d.w 0x10, bitsOf (d.w 0) 20 4]

/-- R332: a kept slot keeps its binding, its area, its list and its phase. -/
def keepOk (old new : Plane) : Bool :=
  new.slots.all fun d => match old.slots.find? fun o => o.slot == d.slot with
    | none => true
    | some o => !(d.keep && o.keep) ||
        (d.keptFields == o.keptFields && old.turnLen == new.turnLen &&
        ((old.group o.group).map fun g => (g.period, g.base, g.spread)) ==
          ((new.group d.group).map fun g => (g.period, g.base, g.spread)))

/-- The pools of a plane that the list at `l` uses: its home pool and those in which the pages it names lie. -/
def State.listUses (s : State) (pl : Plane) (l : Nat) : List Nat :=
  let pages := (List.range (s.listCap l)).map (s.listPage l)
  (pl.pools.zipIdx.filter fun x => poolValid x.1 &&
    (x.2 == s.listPool l || pages.any fun g => (poolRange x.1).1 ≤ g && decide (g < (poolRange x.1).2))).map Prod.snd

/-- R275: the pools that a kept slot's list uses keep their geometry and location. -/
def State.keptPoolsOk (s : State) (old new : Plane) : Bool :=
  new.slots.all fun d => match old.slots.find? fun o => o.slot == d.slot with
    | none => true
    | some o => !(d.keep && o.keep) || d.w 0x10 == 0 ||
        (s.listUses old (o.w 0x10)).all fun k => new.pools[k]? == old.pools[k]?

/-- The first WAKE or LAUNCH on a joining bench stands at 40,000 or later (R338). -/
def joinOk (old new : Plane) : Bool :=
  new.benchList.all fun b => inMask old.benches b ||
    (new.normal ++ new.derated).all fun e => !((e.kind == 0 || e.kind == 1) && inMask e.benches b) || 40000 ≤ e.offset

def footprintsOk (old new : Plane) : Bool :=
  new.tiles.all fun r => match old.tileRec r.tile with
    | some o => disjoint (r.fbase, r.fbase + r.flen) (o.fbase, o.fbase + o.flen)
    | none => true

/-- STOREDATA bodies of a plane: Store offset and bytes. -/
abbrev StoreData := List (Nat × List Byte)

/-- What a staged plane must keep beside its partition's active one (R275, R326, R332, R338). -/
def State.besideOk (s : State) (a pl : Plane) : Bool :=
  footprintsOk a pl && disjoint pl.region a.region && keepOk a pl && s.keptPoolsOk a pl && joinOk a pl

/-- The planes that stay when a plane loads into partition `p`: an ACTIVE load takes the place of the active one. -/
def State.stayingPlanes (s : State) (p : Nat) (stage : Bool) : List Plane :=
  partIds.flatMap fun q => if q = p && !stage then (s.part q).staged.toList else s.planesOf q

/-- The checks of a load into partition `p`: a staged plane (`stage`) is held against the active one as well. -/
def State.loadOk (s : State) (p : Nat) (stage : Bool) (pl : Plane) (sd : StoreData) : Bool :=
  planeOk p pl && (pl.release ||
    (s.fitsBeside p pl && s.modelsFree p pl && s.bindingsOk p pl && s.sourcesOk pl &&
    s.fld F.PCK_NOC_MHZ_MHZ ≤ pl.nocMhz &&
    (s.fld F.KV_LEDGER_SIZE_ENTRIES == 0 ||
      (disjoint pl.region s.ledgerRange && pl.carveRanges.all (disjoint s.ledgerRange))) &&
    s.presentPlanes.all (fun x => x.2.carveRanges.all (disjoint pl.region)) &&
    (s.stayingPlanes p stage).all (fun x => x.release || pl.carveRanges.all (disjoint x.region)) &&
    partIds.all (fun q => (s.part q).retiring.all fun r => disjoint pl.region r.1.region) &&
    sd.all (fun d => inside pl.carveRanges (storeAt + d.1) (storeAt + d.1 + d.2.length)) &&
    (match (if stage then (s.part p).active else none) with
      | none => true
      | some a => s.besideOk a pl &&
          sd.all fun d => a.carveRanges.all (disjoint (storeAt + d.1, storeAt + d.1 + d.2.length)))))

/-! ## Putting planes in place -/

/-- Write the data blocks of a tile record into its tile's memory (R311). -/
def loadTile (r : TileRec) : Prog := each r.data fun d => storeBytes (tileAt r.tile + d.1) d.2

/-- The registers that report a tile's program area (R149). -/
def tileRegs (r : TileRec) : Prog :=
  let b := r.tile / 16
  let i := r.tile % 16
  all [setF (F.TSQ_PBASE b i) r.pbase, setF (F.TSQ_PLEN b i) r.plen, setF (F.TSQ_RBASE b i) r.rbase]

/-- A blank bench joins a plane (R202, R282, R338): zero-filled, loaded, then at its idle state. -/
def joinBench (p b : Nat) : Prog :=
  look fun s =>
    let pl := s.plane p
    when (!s.fenced b) (all [zeroFill (tileAt (16 * b)) (tileAt (16 * b + 16)),
      each (pl.tiles.filter fun r => r.tile / 16 == b) fun r => all [loadTile r, tileRegs r],
      setUnit b bDwell, when (s.partOn p) (moveBench b (pl.idleOf b))])

/-- The bytes of a slot's directory entry as a plane declares it (R211, R309), DECLARED set. -/
def slotBytes (d : SlotDecl) : List Byte := toBytes 4 (setBits (d.w 0) 15 1 1) ++ (d.bytes.drop 4).take 56

def writeSlotEntry (d : SlotDecl) : Prog :=
  look fun s => all [when (!s.slotDeclared d.slot) (modSlot d.slot fun x => { x with decls := x.decls + 1 }),
    .act (.bytes (slotEntryAt d.slot) (slotBytes d))]
def clearSlotEntry (n : Nat) : Prog := .act (.zero (slotEntryAt n) (slotEntryAt n + 0x40))
def writeModelEntry (m : Nat × Nat × Nat × Nat) : Prog :=
  all [put32 (modelEntryAt m.1) m.2.1, put32 (modelEntryAt m.1 + 4) m.2.2.1,
    put32 (modelEntryAt m.1 + 8) (setBits m.2.2.2 16 1 1)]
def dropModelEntry (m : Nat) : Prog :=
  look fun s => put32 (modelEntryAt m + 8) (setBits (s.read32 (modelEntryAt m + 8)) 16 1 0)

/-- The registers of a pool (R278) with the words that they take from a POOLS record. -/
def poolRegs (k : Nat) (p : Nat × Nat × Nat × Nat) : List (Nat × Nat) :=
  [((F.KV_POOL_A_VALID k).off, p.1), ((F.KV_POOL_B_FIRST k).off, p.2.1), ((F.KV_POOL_C_COUNT k).off, p.2.2.1),
   ((F.KV_POOL_D_DIM k).off, p.2.2.2)].map fun x => (x.1, fieldBits x.1 x.2)

/-- Put a pool's registers in place; a pool that is new or changed starts with every page free and its entries zero
(R276). -/
def setPool (k : Nat) (p : Nat × Nat × Nat × Nat) : Prog :=
  look fun s => all [
    when (!(poolRegs k p).all fun x => (s.word x.1).toNat == x.2)
      (.act (.zero (s.ledgerAt (poolRange p).1) (s.ledgerAt (poolRange p).2))),
    each (poolRegs k p) fun x => setWord x.1 x.2]

/-- The least SEQ among the images of the device segments and active planes (R348). -/
def setActSeq : Prog :=
  look fun s =>
    let l := s.dev.chuck.devSeq.toList ++ partIds.filterMap fun q => (s.part q).active.map Plane.seq
    setF F.SEC_ACT_SEQ_SEQ (match l with
      | [] => 0
      | x :: xs => xs.foldl min x)

/-- What of a range lies in none of `held`. -/
def rangeMinus (held : List (Nat × Nat)) (r : Nat × Nat) : List (Nat × Nat) :=
  held.foldl (fun l h => (l.flatMap fun x => [(x.1, min x.2 h.1), (max x.1 h.2, x.2)]).filter fun x => x.1 < x.2) [r]

/-- Store the STOREDATA of a plane, after the zero-fill of ranges that its partition did not own (R209). -/
def loadStoreData (s : State) (p : Nat) (pl : Plane) (sd : StoreData) : Prog :=
  let owned := ((s.part p).active.getD {}).carveRanges
  all [each (pl.carveRanges.flatMap (rangeMinus owned)) fun r => zeroFill r.1 r.2,
    each sd fun d => storeBytes (storeAt + d.1) d.2]

/-- A STAGE load is accepted (R327, R328): the footprints on shared benches are written beside the active ones. -/
def acceptStage (p : Nat) (pl : Plane) (sd : StoreData) : Prog :=
  look fun s => all [
    loadStoreData s p pl sd,
    each (pl.tiles.filter fun r => (s.plane p).holdsTile r.tile) loadTile,
    modPart p fun x => { x with staged := some pl },
    setF (F.IMG_SBUILD p) pl.build]

/-- A staged plane is lost (R328): PLANE_LOST is logged, and a regrip order that names it is cancelled for all the
partitions it names. -/
def loseStaged (p : Nat) : Prog :=
  look fun s =>
    when (s.part p).staged.isSome (all [
      modPart p fun x => { x with staged := none }, setF (F.IMG_SBUILD p) 0,
      logC 0x900A 1 (32 + p) [],
      (match (s.part p).regrip with
        | none => .nop
        | some o => each (membersOf o.pmask 8) fun q => all [
            modPart q fun x => { x with regrip := none },
            look fun s => when (s.unitState (32 + q) == 3) (setUnit (32 + q) 1)])])

/-! ## Parting slots (R29, R275, R331) -/

/-- End the chunks of a slot that are not launched, the oldest first. -/
def missUnlaunched (n : Nat) : Prog :=
  look fun s => each ((s.slot n).chunks.filter fun c => !c.launched) fun _ => look fun s =>
    match (s.slot n).chunks.findIdx? fun c => !c.launched with
    | some i => endChunk n i stMissed
    | none => .nop

/-- Part a slot that plane `pl` of partition `p` declared (R29, R275): chunks not launched end MISSED, a FLUSH result follows the last
other result, and its list, record and pins are released. `old` says whether the plane goes on as the retiring one. The sequence
number after that of a slot that never had a result is left open (log entry 122). -/
def partSlot (p : Nat) (pl : Plane) (old : Bool) (n : Nat) : Prog :=
  match pl.slots.find? fun d => d.slot == n with
  | none => .nop
  | some d => all [
      missUnlaunched n,
      drawFree 32 fun f => look fun s =>
        let seq := match (s.slot n).lastSeq with
          | some k => (k + 1) % 2 ^ 32
          | none => f
        let c : Chunk := { part := p, stream := n, model := d.model, seq, arrival := s.now, deadline := s.now, group := d.group, old }
        let r : Result := { chunk := c, flags := withFlag 0 flagFlush, status := stFlushed, complete := s.now, old }
        modSlot n fun x => { x with results := x.results ++ [r], lastSeq := some seq, gap := false, newUtt := false },
      dropUnbound n, releaseRecord n,
      look fun s => when (s.slotPlist n != 0) (emptyList (s.slotPlist n))]

/-- Everything of a partition that is launched or has ended belongs to the plane that now retires (R336). -/
def markOld (p n : Nat) : Prog :=
  modSlot n fun x => { x with
    chunks := x.chunks.map fun c => if c.part == p && c.launched then { c with old := true } else c,
    results := x.results.map fun r => if r.chunk.part == p then { r with old := true } else r }

/-! ## The swap (R316, R325, R330, R331) -/

/-- A plane that takes its place: its partition, the plane that it replaces, and whether the partition is enabled, so that the plane
replaced retires. -/
structure Swap where
  p : Nat
  old : Option Plane
  new : Plane
  on : Bool
  deriving DecidableEq, Repr

def Swap.before (x : Swap) : Plane := x.old.getD {}

/-- R338: a stage that runs only on benches that leave ends STAGE_MISSED. -/
def missLeaving (x : Swap) : Prog :=
  look fun s => each (s.partSlots x.p) fun n => look fun s =>
    match s.runningIn n with
    | none => .nop
    | some i => let c := (s.slot n).chunks.getD i {}
        when (c.part == x.p && c.owing.all fun t => x.before.holdsTile t && !x.new.holdsTile t) (endChunk n i stStageMissed)

/-- The chunks and results of the slots at a regrip (R29, R331, R336). A disabled partition has no retiring plane whose EMITs could
send them: the results of its parted slots leave at once (log entry 122). -/
def swapChunks (x : Swap) : Prog :=
  match x.old with
  | none => .nop
  | some a =>
    let parted := partedSlots a x.new
    all [when x.on (missLeaving x), each parted (partSlot x.p a x.on),
      look fun s => if x.on then each (s.partSlots x.p) (markOld x.p)
        else each parted fun n => flushResults (fun r => r.chunk.part == x.p && (s.slot n).mayLeave r) n,
      -- pending chunks of kept slots run under the new plane (R107)
      each x.new.slots fun d => when (!parted.contains d.slot) (modSlot d.slot fun y =>
        { y with chunks := y.chunks.map fun c => if c.launched || c.part != x.p then c else { c with group := d.group } })]

/-- The directory entries and pools that planes give up, then those that they take (R331 step 2, R333, R276): slots, model slots and
pools may pass from one plane to another. -/
def swapDirectories (xs : List Swap) : Prog :=
  all [
    each xs fun x => all [each (x.before.slotNums.filter fun n => !x.new.isSlot n) clearSlotEntry,
      each (x.before.modelNums.filter fun m => !x.new.modelNums.contains m) dropModelEntry,
      each (x.before.livePools.filter fun y => !x.new.livePools.any fun z => z.2 == y.2) fun y => setF (F.KV_POOL_A_VALID y.2) 0],
    each xs fun x => all [each x.new.slots writeSlotEntry, each x.new.models writeModelEntry,
      each x.new.livePools fun y => setPool y.2 y.1]]

/-- A slot that is declared anew, or not kept, starts from fresh state (R29, R331). -/
def freshSlots (x : Swap) : Prog :=
  let parted := partedSlots x.before x.new
  each x.new.slots fun d => when (!x.before.isSlot d.slot || parted.contains d.slot) (modSlot d.slot fun y => { y with newUtt := true })

/-- The partition under its new plane; a release plane leaves it with none (R331, R339). -/
def swapPart (x : Swap) : Prog :=
  look fun s => all [
    modPart x.p fun y => { y with
      active := if x.new.release then none else some x.new,
      retiring := if x.on then x.old.map fun a => (a, s.now) else y.retiring,
      oldOrg := if x.on then s.turnOrg x.p else y.oldOrg,
      oldDerated := if x.on then y.derated else y.oldDerated,
      oldSeen := if x.on then (s.turnNo x.p, 0) else y.oldSeen,
      cutSeen := (y.cutSeen.filter fun c => !c.1).map fun c => (true, c.2), banks := [],
      oldBanks := if x.on then y.banks else y.oldBanks },
    setF (F.KV_WALKERS_MASK x.p) x.new.walkMask, setF (F.IMG_ABUILD x.p) (if x.new.release then 0 else x.new.build)]

/-- The turn and the timetable that an enabled partition starts with at its boundary (R106, R334). -/
def swapTurn (x : Swap) : Prog :=
  look fun s =>
    let was := (s.part x.p).derated
    let asked := s.derateAsked x.p
    let has := asked && !x.new.derated.isEmpty
    all [
      setUnit (32 + x.p) 1,
      setF (F.LEDG_GROUPS_LO x.p) 0xFFFFFFFF, setF (F.LEDG_GROUPS_HI x.p) 0xFFFFFFFF,
      when (x.new.turnLen != x.before.turnLen)
        (all [setF (F.TB_TURN_ORG_LO_ORG x.p) s.now, setF (F.TB_TURN_ORG_HI_ORG x.p) (s.now / 2 ^ 32)]),
      setF (F.TB_TURN_LEN_LEN x.p) x.new.turnLen,
      modPart x.p fun y => { y with stopAsked := false, turnStart := none, seen := 0, slow := asked, derated := has },
      look fun s => let n := s.turnNo x.p % 2 ^ 32
        if has && !was then logC 0x2008 0 (32 + x.p) [n]
        else if was && !asked then logC 0x2009 0 (32 + x.p) [n]
        else when (asked && !has) (logC 0x200A 1 (32 + x.p) [n]),
      fencedPolicy x.p]

/-- A bench at a swap (R282, R299, R324, R338). One that leaves a plane goes blank; a blank one is loaded for the plane that now holds
it, within 40,000 ticks in an enabled partition; one that stays keeps its tile memory and reports its plane's areas. -/
def swapBench (xs : List Swap) (b : Nat) : Prog :=
  look fun s =>
    let left := xs.any fun x => inMask x.before.benches b && !inMask x.new.benches b
    when (!s.fenced b) (all [
      when left (blankBench b),
      look fun u => match u.benchPart b with
        | none => .nop
        | some q =>
          let here := xs.any fun x => x.p == q
          if u.unitState b == bBlank then when (left || here)
            (if u.partOn q then modPwr fun w => { w with joining := (b, q) :: w.joining.filter (·.1 != b) } else joinBench q b)
          else when here (each ((u.plane q).tiles.filter fun r => r.tile / 16 == b) fun r =>
            all [when (!u.partOn q) (loadTile r), tileRegs r])])

/-- Planes take their places together: each of their partitions gives up what its old plane held before any takes what the new ones
hold. `part` says whether slots are parted, as at a regrip. -/
def swapPlanes (regrip : Bool) (xs : List Swap) : Prog :=
  all [when regrip (each xs swapChunks), swapDirectories xs, each xs freshSlots, each xs swapPart,
    each (xs.filter fun x => x.on && !x.new.release) swapTurn,
    each (xs.filter fun x => x.on && x.new.release) fun x => disablePart x.p,
    each (List.range 32) (swapBench xs), setActSeq]

/-- Make planes the active planes of disabled partitions outside a regrip (R316, R325): a slot that is not kept starts from fresh
state. -/
def installPlanes (pls : List (Nat × Plane)) : Prog :=
  look fun s => swapPlanes false (pls.map fun x => { p := x.1, old := (s.part x.1).active, new := x.2, on := false })

/-- Put the staged planes of partitions in force (R330, R331): of enabled ones at their boundary, of disabled ones with them, or alone
where a fence has disabled one before (R344); a disabled one gets no retiring plane. -/
def swapAll (named : List Nat) : Prog :=
  look fun s =>
    let xs := named.filterMap fun p => (s.part p).staged.map fun st =>
      ({ p, old := (s.part p).active, new := st, on := s.partOn p } : Swap)
    all [swapPlanes true xs, each xs fun x => all [
      modPart x.p fun y => { y with staged := none, regrip := none }, setF (F.IMG_SBUILD x.p) 0, bumpEpoch (32 + x.p)]]

/-! ## Retirement (R336, R337) -/

def State.oldBusy (s : State) (p : Nat) : Bool :=
  s.liveSlots.any fun n => (s.slot n).chunks.any fun c => c.old && c.part == p
def State.oldUnsent (s : State) (p : Nat) : Bool :=
  s.liveSlots.any fun n => (s.slot n).results.any fun r => r.old && r.chunk.part == p

/-- Retirement ends (R337): the retiring footprint, region and carve-outs are free, uncleared. -/
def finishRetire (p : Nat) : Prog :=
  look fun s => match (s.part p).retiring with
    | none => .nop
    | some (_, b) => all [modPart p fun x => { x with retiring := none, oldBanks := [] }, logC 0x9007 0 (32 + p) [b % 2 ^ 32, b / 2 ^ 32]]

end Sys2Proof.Machine
end

