-- ==== Sys2Proof/Machine/Uncertainty.lean ====
section
/-!
DEFINITION. Sys2Proof/Machine/Uncertainty.lean: the uncertainty of the count (R52 to R54) and how the Headstock resumes after REST (R54).
-/
namespace Sys2Proof.Machine

/-- A change of UNC_NS that the device makes: it saturates, and UNC_LIMIT is logged on a crossing (R53). -/
def setUnc (n : Nat) : Prog :=
  look fun s =>
    let v := min n 0x7FFFFFFF
    let lim := s.fld F.TB_UNC_LIMIT_LIMIT_NS
    all [setF F.TB_UNC_UNC_NS v, when (s.fld F.TB_UNC_UNC_NS ≤ lim && lim < v) (logC 0x100B 1 40 [])]

/-- The loop and a write of UNC_NS leave no part of a nanosecond. -/
def clearUncFrac : Prog := modHs fun h => { h with uncFrac := 0 }

/-- UNC_NS grows by so many millionths of a nanosecond; what is below 1 ns is carried to the next growth (R53, R54). -/
def growUnc (n : Nat) : Prog :=
  look fun s =>
    let t := s.dev.hs.uncFrac + n
    all [modHs fun h => { h with uncFrac := t % 1000000 }, setUnc (s.fld F.TB_UNC_UNC_NS + t / 1000000)]

/-- The accuracy of FREE in ppm (R41). -/
def State.freePpm (s : State) : Nat := if s.bit F.TB_STATUS_XTAL then 150 else 30000

/-- The parts per million that UNC_NS rises by over REST (R54). -/
def State.restPpm (s : State) : Nat :=
  if !s.dev.hs.everLocked then s.freePpm else if s.bit F.TB_STATUS_XTAL then 2 else 200

/-- The Headstock resumes after REST: UNC_NS rises by the time that the rest domain carried the count (a tick is 4 ns), and unit 40 is
in HOLDOVER, or in FREE before any lock; the count runs from there (R32, R54). Pulses of the time in REST are not missing. -/
def resumeTime : Prog :=
  look fun s => all [
    when s.dev.hs.counting (growUnc (4 * s.since s.dev.hs.restEntry.toNat * s.restPpm)),
    declareUnit 40 (if s.dev.hs.everLocked then 3 else 0),
    modHs fun h => { h with counting := true, holdTemp := s.fld F.PCK_TEMP_TEMP, restFrac := 0, modeWas := none, ppsFrom := h.now },
    look fun s => logC 0x100A 0 40 [s.fld F.TB_UNC_UNC_NS]]

end Sys2Proof.Machine
end

