-- ==== Sys2Proof/Machine/Resets.lean ====
section
/-!
DEFINITION. Sys2Proof/Machine/Resets.lean: power-on, cold and partition resets (R570, R573, R574, R577), and what a thermal
trip and a supply loss do to the chunks (R568, R572).
-/
namespace Sys2Proof.Machine

/-- Units whose status register holds EPOCH in class A (R588). -/
def classAUnits : List Nat := [40, 41, 42, 43] ++ (List.range 9).map (· + 108)

/-- The registers of a ledger line (LEDG_UNIT_u). -/
def isUnitLine (off : Nat) : Bool := 0x40100 ≤ off && decide (off < 0x40300)
def lineUnit (off : Nat) : Nat := (off - 0x40100) / 4

/-- What a cold reset keeps of a field: class A, and the epoch of a unit whose epoch is of class A (R577, R588, R612).
The Headstock goes on, so unit 40 keeps its state too (R33). -/
def coldKeeps (off : Nat) (f : FieldSpec) : Bool :=
  if isUnitLine off then
    classAUnits.contains (lineUnit off) && (f.lo == 16 || lineUnit off == 40)
  else f.kept == .A

/-- The device after a cold reset: what survives is the count, the log with its marks, the pins, the fuses and what has
already been sent. -/
def Dev.afterCold (d : Dev) : Dev :=
  { hs := { d.hs with acc := 0, slewFrac := 0, modeWas := none }, log := { d.log with armed := true }, marks := d.marks,
    pwr := { por := d.pwr.por, pins := d.pwr.pins, heldCold := d.pwr.heldCold, heldTrip := d.pwr.heldTrip,
             heldSupply := d.pwr.heldSupply, wdogAt := d.hs.now.toNat },
    chuck := { fuseFlags := d.chuck.fuseFlags, keyHash := d.chuck.keyHash, imgKey := d.chuck.imgKey, rbCount := d.chuck.rbCount },
    svc := { d.svc with
      pollFails := [], startWaits := false, holding := false, usbHalt := 0, usbAddr := 0, usbBefore := 0, samples := [], ep2 := none,
      usbOff := if d.hs.counting then 250000 else 0 },
    poison := d.poison.filter fun x => farAt ≤ x, out := d.out }

/-- A reset that cuts a rollback commit off leaves the counter between the old value and the one aimed at (R321): which, the
spec leaves open. -/
def cutCommit : Prog :=
  look fun s => match s.dev.chuck.rbTarget with
    | some v => drawFree 7 fun f => modChuck fun c => { c with rbCount := c.rbCount + f % (v - c.rbCount + 1), rbTarget := none }
    | none => .nop

def setPins (f : Pins → Pins) : Prog := modPwr fun w => { w with pins := f w.pins }

/-- A cold reset (R573): everything but class A fields, TB_NOW and the fuses; the Store and the tile memories are
zero-filled; far memory is untrained, or absent with CHMASK 0. `cause` is the LASTRESET code. CLAMP and SLEWING are of class A and
show what TB_TRIM and TB_SLEW, of class W, have lost: the model lets them follow their meaning and clear (log entry 116). -/
def coldReset (cause : Nat) : Prog :=
  all [
    -- R545: a load from the USB port is lost with its transfer, as under a bus reset
    look fun s => when (s.dev.chuck.load.any fun l => l.src == 3) (all [logLim (.ticks 2500000) 116 0xC030 0 116 [], logC 0xC032 1 116 []]),
    -- R54, R557: out of REST the count resumes
    look fun s => when s.carried resumeTime,
    each partIds loseStaged, cutCommit, .act (.lose coldKeeps), modDev Dev.afterCold, zeroFill 0 (storeAt + storeSize),
    setF F.TB_STATUS_PPSOUT_FENCED 0, setF F.TB_STATUS_CLAMP 0, setF F.TB_STATUS_SLEWING 0,
    look fun s => setUnit 42 (if s.fld F.FAR_CFG_CHMASK = 0 then 0 else 1),
    setUnit 41 0, setF F.STORE_STATUS_KEPT 0, setF F.IMG_STATUS_CHUCK 0,
    -- R622: the enables are high, but in the hold after a trip or a supply loss
    setPins fun p => { p with coreEn := true, storeEn := true, farEn := true, storeRet := false },
    setF F.PCK_STATUS_DEV 0, setF F.PCK_STATUS_LASTRESET cause]

/-- The restart after a cold reset: the enables rise and COLD_RESET is logged with its cause (R573, R606). -/
def coldRestart : Prog :=
  all [setPins fun p => { p with coreEn := true, storeEn := true, farEn := true, storeRet := false },
    look fun s => logC 0xD00A 0 127 [s.fld F.PCK_STATUS_LASTRESET]]

/-- A cold reset that is not held: reset and restart at once. -/
def coldResetNow (cause : Nat) : Prog := all [coldReset cause, coldRestart]

/-- The device after power-on reset: only the fuses survive (R560, R573), and what has already been sent. -/
def Dev.afterPowerOn (d : Dev) : Dev :=
  { pwr := { pins := { pwrOk := d.pwr.pins.pwrOk, coldN := d.pwr.pins.coldN, perstN := d.pwr.pins.perstN, vbus := d.pwr.pins.vbus } },
    chuck := { fuseFlags := d.chuck.fuseFlags, keyHash := d.chuck.keyHash, imgKey := d.chuck.imgKey, rbCount := d.chuck.rbCount },
    out := d.out }

def powerOnReset : Prog :=
  all [cutCommit, .act (.lose fun _ _ => false), modDev Dev.afterPowerOn, .act (.zero 0 (2 ^ 40))]

/-- End every chunk of the device that runs with FAIL_FENCED; nothing further is sent (R568). -/
def endAllRunning : Prog := look fun s => each s.liveSlots fun n => endRunning n stFenced

/-! ## Partition reset (R574, R583, R585) -/

/-- The registers in the scope of a reset of partition `p`: the blocks of its benches and its TT group. -/
def partScope (pl : Plane) (p off : Nat) : Bool :=
  pl.benchList.any (fun b => inBench b off) || (0x20000 + 0x40 * p ≤ off && decide (off < 0x20040 + 0x40 * p))

def endAllChunks (n : Nat) (p : Nat) : Prog :=
  look fun s =>
    let l := ((s.slot n).chunks.zipIdx.filter fun c => c.1.part == p).reverse
    each l fun c => endChunk n c.2 (if c.1.running.isSome then stFenced else stMissed)

/-- A bench of the partition that is not fenced is reloaded from the plane region and goes to DWELL (R128, R574). -/
def reloadBench (pl : Plane) (b : Nat) : Prog :=
  look fun s =>
    when (s.unitState b != bBlank) (all [
      each (tilesOf b) fun t => modTile t fun _ => {},
      each (pl.tiles.filter fun r => r.tile / 16 == b) fun r => all [loadTile r, tileRegs r],
      dropMoves b, setUnit b bDwell, bumpEpoch b])

/-- Steps 2 to 4 of R574. -/
def partResetMiddle (p : Nat) : Prog :=
  look fun s =>
    let pl := s.plane p
    all [
      each (pl.benchList.filter s.fenced) fun b => all [liftFence b,
        setB (F.BENCH_FENCE_FENCED b) false, blankBench b],
      each (pl.benchList.filter fun b => !s.fenced b) (reloadBench pl),
      modPart p fun x => { x with cutSeen := [] }, loseStaged p]

/-- A partition reset (R574); with `full` false only steps 2 to 4, as R585 says of a disabled partition. -/
def partReset (p : Nat) (full : Bool) : Prog :=
  look fun s =>
    let pl := s.plane p
    all [
      when full (all [each (s.partSlots p) fun n => endAllChunks n p, each (s.partSlots p) (flushResults fun r => r.chunk.part == p), finishRetire p]),
      partResetMiddle p,
      .act (.lose fun off f => !(partScope pl p off && (f.kept == .H || f.kept == .D || f.kept == .C || f.kept == .V))),
      -- the areas that the reload has put in place are reported again (R149)
      each (pl.tiles.filter fun r => !s.fenced (r.tile / 16) && s.unitState (r.tile / 16) != bBlank) tileRegs,
      each (s.liveSlots.filter fun n => s.slotPart n == p) releaseRecord,
      setF F.KV_WALK_FENCE_MASK ((membersOf (s.fld F.KV_WALK_FENCE_MASK) 16).foldl
        (fun m w => if inMask pl.walkMask w then m else m + 2 ^ w) 0),
      when full (all [disablePart p, bumpEpoch (32 + p)]),
      logC 0xD009 0 (32 + p) []]

end Sys2Proof.Machine
end

