-- ==== Sys2Proof/Machine/Orders.lean ====
section
/-!
DEFINITION. Sys2Proof/Machine/Orders.lean: orders to the unit state ledger: their kinds and scopes (R590, R593), the
authority table (R594), the refusal rules (R281, R329, R397, R553, R554, R563, R599, R609, R612, R658, R659) and the
answers (R595, R596, R613).
-/
namespace Sys2Proof

/-! ## Kinds, ranks and scopes -/

def kPower : Nat := 1
def kRest : Nat := 2
def kWake : Nat := 3
def kTileclk : Nat := 4
def kDerate : Nat := 5
def kCold : Nat := 6
def kPart : Nat := 7
def kEnable : Nat := 8
def kRegrip : Nat := 9
def kGroup : Nat := 10
def kPort : Nat := 11

/-- Path codes of R613. -/
def OSrc.code : OSrc → Nat
  | .pf => 0 | .mb => 1 | .usb => 2 | .spi => 3 | .jtag => 4 | .timetable => 5 | .chuck => 6 | .thermal => 7
  | .watchdog => 8 | .wake => 9

/-- The rank source of a path (R592): 0 host, 1 management, 2 timetable. -/
def OSrc.rank : OSrc → Nat
  | .pf | .usb | .jtag => 0
  | .mb | .spi | .thermal | .watchdog | .wake => 1
  | .timetable | .chuck => 2

/-- The fixed place of a source in the tie-break list of R594. -/
def OSrc.place : OSrc → Nat
  | .thermal => 0 | .watchdog => 1 | .wake => 2 | .timetable => 3 | .chuck => 4 | .pf => 5 | .mb => 6 | .usb => 7
  | .spi => 8 | .jtag => 9

/-- Classes P, C, R and T. -/
def Order.urgent (o : Order) : Bool := o.kind ≤ 7

def Order.rank (o : Order) : Nat :=
  let r := o.src.rank
  if o.urgent then (if r = 1 then 3 else if r = 2 then 2 else 1) else (if r = 2 then 3 else if r = 0 then 2 else 1)

/-- R594: whether order `a` beats order `b`. -/
def Order.beats (a b : Order) : Bool :=
  if a.urgent != b.urgent then a.urgent
  else if a.rank != b.rank then decide (b.rank < a.rank)
  else decide (a.src.place < b.src.place)

/-- Whether an order names a kind and unit that exist (R590, R587). -/
def Order.known (o : Order) : Bool :=
  1 ≤ o.kind && o.kind ≤ 11 && (o.kind != kWake || o.src == .wake) &&
  (o.kind != kPower || o.unit ≤ 31) && (o.kind != kGroup || (32 ≤ o.unit && o.unit ≤ 39)) &&
  (o.kind != kPort || (108 ≤ o.unit && o.unit ≤ 111))

/-- An ARG that holds a code its kind does not define (R590). -/
def Order.inRange (o : Order) : Bool := o.kind != kPower || o.arg % 4 != 3

end Sys2Proof

namespace Sys2Proof.Machine

/-- The partitions that an order names, or that it would change (R593). -/
def State.orderParts (s : State) (o : Order) : List Nat :=
  if o.kind = kEnable then partIds.filter fun p => inMask o.arg p != s.partOn p
  else if o.kind = kDerate then
    partIds.filter fun p => inMask o.arg p || inMask (Sparse.get zeroNat s.dev.pwr.derateBy o.src.code) p
  else if o.kind = kPart || o.kind = kRegrip then membersOf o.arg 8
  else if o.kind = kGroup then [o.unit - 32]
  else []

/-- Whether the scopes of two orders share a unit (R593). -/
def State.conflict (s : State) (a b : Order) : Bool :=
  let whole := fun (o : Order) => o.kind == kRest || o.kind == kWake || o.kind == kTileclk || o.kind == kCold
  let units := fun (o : Order) =>
    if o.kind = kPower || o.kind = kPort then [o.unit]
    else
      let ps := s.orderParts o
      ps.map (· + 32) ++ (if o.kind = kGroup || o.kind = kRegrip then []
        else ps.flatMap fun p => (s.plane p).benchList)
  whole a || whole b || (units a).any (fun u => (units b).contains u) ||
    (a.kind == kRegrip && (b.kind == kRegrip || b.kind == kEnable)) || (b.kind == kRegrip && a.kind == kEnable)

/-- Place an order before the first one it beats. -/
def insertOrder (o : Order) : List Order → List Order
  | [] => [o]
  | x :: xs => if o.beats x then o :: x :: xs else x :: insertOrder o xs

/-- The orders of one cycle, strongest first. -/
def sortOrders : List Order → List Order
  | [] => []
  | o :: os => insertOrder o (sortOrders os)

/-- The kept orders, and each loser with its winner (R594). -/
def State.resolve (s : State) : List Order → List Order → List Order × List (Order × Order)
  | [], kept => (kept, [])
  | o :: os, kept =>
    match kept.find? (s.conflict o) with
    | some w => let r := s.resolve os kept; (r.1, (o, w) :: r.2)
    | none => s.resolve os (kept ++ [o])

/-! ## Verdicts: a status of R501, a cause code of R613 and the unit whose state caused it -/

structure Verdict where
  status : Nat
  cause : Nat := 0
  unit : Nat := 127
  deriving DecidableEq, Repr

def vOk : Verdict := ⟨0, 0, 127⟩
def vRefused (cause unit : Nat) : Verdict := ⟨2, cause, unit⟩
def vRange : Verdict := ⟨3, 0, 127⟩
def vBadArg : Verdict := ⟨4, 0, 127⟩

/-- Model slots that the active planes of the partitions in `on` own, taking staged planes for those in `swap`. -/
def State.ownedModels (s : State) (swap : List Nat) : List Nat :=
  partIds.flatMap fun q => match (if swap.contains q then (s.part q).staged else (s.part q).active) with
    | some pl => pl.modelNums
    | none => []

def Plane.boundModels (pl : Plane) : List Nat := pl.slots.map SlotDecl.model

/-- The turn length and origin with which partition `p` would run when it is enabled now. -/
def State.enableTurn (s : State) (p : Nat) : Nat × Nat :=
  ((s.plane p).turnLen, s.fld (F.TT_ORG_LO_ORG p) + 2 ^ 32 * s.fld (F.TT_ORG_HI_ORG p))
def State.runTurn (s : State) (p : Nat) : Nat × Nat := (s.turnLen p, s.turnOrg p)

/-- An ENABLE (R38, R397, R658, R659). -/
def State.enableVerdict (s : State) (arg : Nat) : Verdict :=
  let named := membersOf arg 8
  let fresh := named.filter fun p => !s.partOn p
  let windowed := fun p => !(s.plane p).farWins.isEmpty
  if !s.dev.hs.counting then vRefused 12 40
  else match named.find? (fun p => (s.part p).active.isNone ||
      (match s.dev.chuck.load with
        | some l => l.kind == 2 && l.part == p
        | none => false) ||
      (s.plane p).boundModels.any fun m => !(s.ownedModels []).contains m) with
  | some p => vRefused 9 (32 + p)
  | none =>
    if fresh.any (fun p => (s.plane p).usesFar) && s.unitState 42 != 3 then vRefused 8 42
    else
      let on := (partIds.filter fun p => s.partOn p && inMask arg p && windowed p).map s.runTurn
      let new := (fresh.filter windowed).map s.enableTurn
      match fresh.find? fun p => windowed p && !((on ++ new).all (· == s.enableTurn p)) with
      | some p => vRefused 7 (32 + p)
      | none => vOk

/-- The turn length and origin of a partition from the boundary of a regrip (R329, R334): none stands for the origin B. -/
def State.regripTurn (s : State) (named : List Nat) (p : Nat) : Nat × Option Nat :=
  match (if named.contains p then (s.part p).staged else none) with
  | some st => (st.turnLen, if st.turnLen == s.turnLen p then some (s.turnOrg p) else none)
  | none => (s.turnLen p, some (s.turnOrg p))

def allEqual {α : Type} [DecidableEq α] : List α → Bool
  | [] => true
  | a :: l => l.all (· == a)

/-- The plane that a partition has after a regrip of `named`. -/
def State.regripPlane (s : State) (named : List Nat) (q : Nat) : Plane :=
  (if named.contains q then (s.part q).staged else (s.part q).active).getD {}

/-- Whether a named staged plane fits beside the planes that the other partitions then have (R326, R293, R333), and beside the active
plane of its own partition as at its load (R275, R332), with its slots bound to one source each (R20). -/
def State.regripFits (s : State) (named : List Nat) (p : Nat) : Bool :=
  let st := s.regripPlane named p
  st.release || (
    (otherParts p).all (fun q => st.holding.apart (s.regripPlane named q).holding &&
      apartLists st.modelNums (s.regripPlane named q).modelNums) &&
    windowsFit st (otherParts p) (fun off q => (s.regripPlane named q).shareAt off)
      (fun q => let pl := s.regripPlane named q; if pl.farWins.isEmpty then none else some pl.turnLen)
      ((otherParts p).flatMap fun q => (s.regripPlane named q).winStarts) &&
    s.sourcesOk st &&
    (match (s.part p).active with
      | none => true
      | some a => s.besideOk a st))

/-- A REGRIP (R329, R333, R343). -/
def State.regripOk (s : State) (pmask : Nat) : Bool :=
  let named := membersOf pmask 8
  let windowed := fun q => s.partOn q && !(s.regripPlane named q).farWins.isEmpty
  !named.isEmpty &&
  named.all (fun p => (s.part p).staged.isSome && (s.part p).regrip.isNone && (s.part p).retiring.isNone) &&
  allEqual ((named.filter s.partOn).map s.runTurn) &&
  -- windows from the boundary on
  (named.filter fun p => windowed p && (s.part p).staged.isSome).all (fun p =>
    (partIds.filter windowed).all fun q => s.regripTurn named q == s.regripTurn named p) &&
  named.all (s.regripFits named) &&
  -- no active binding is left without an owner
  (partIds.all fun q => match (if named.contains q then (s.part q).staged else (s.part q).active) with
    | none => true
    | some pl => pl.boundModels.all fun m => (s.ownedModels named).contains m)

/-- The grade's greatest tile clock in MHz (R16, R563). -/
def gradeMhz : Nat := if Config.grade15 then 1500 else 1800

/-- The ledger's decision on one order against the state as it stands (R595). Until READY the device is still in REST for R609: what
its orders name does not work yet (log entry 134). -/
def State.verdict (s : State) (o : Order) : Verdict :=
  if !o.known then vBadArg
  else if !o.inRange then vRange
  else if s.dev.pwr.por || s.heldReset then vRefused 11 127
  else if (s.devState == 2 || s.carried) && o.kind != kWake && o.kind != kCold then vRefused 10 127
  else if o.kind = kPower then
    if s.fenced o.unit then vRefused 1 o.unit
    else if s.unitState o.unit == bBlank then vRefused 2 o.unit
    else match s.benchPart o.unit with
      | none => vRefused 2 o.unit
      | some p =>
        if s.partOn p && (o.src != .timetable || (o.arg % 4 != 0 && o.arg % 4 != (s.plane p).idleOf o.unit)) then vRefused 3 o.unit
        else vOk
  else if o.kind = kRest then
    match partIds.find? s.partOn with
    | some p => vRefused 4 (32 + p)
    | none =>
      if s.fld F.IMG_STATUS_CHUCK != 0 then vRefused 4 127
      else match partIds.find? fun p => (s.part p).retiring.isSome with
        | some p => vRefused 4 (32 + p)
        | none => vOk
  else if o.kind = kTileclk then
    let mhz := bitsOf o.arg 0 12
    if 400 ≤ mhz && mhz ≤ gradeMhz && mhz % 25 == 0 then vOk else vRefused 5 127
  else if o.kind = kEnable then s.enableVerdict (bitsOf o.arg 0 8)
  else if o.kind = kRegrip then
    (if s.regripOk (bitsOf o.arg 0 8) then vOk
     else vRefused 6 (match membersOf o.arg 8 with
       | p :: _ => 32 + p
       | [] => 127))
  else if o.kind = kPort then
    (if s.fenced o.unit && o.arg % 2 == 1 then vRefused 1 o.unit else vOk)
  else vOk

/-! ## Accepting -/

/-- The first turn boundary of a partition strictly later than now (R330). -/
def State.nextBoundary (s : State) (p : Nat) : Nat :=
  let len := s.turnLen p
  s.now + (len - s.since (s.turnOrg p) % len)

/-- The state in which port `k` starts (R463, R470, R485): a source is ready, or searching in self-framed mode; a follower
has no clock until it sees one. -/
def State.portStart (s : State) (k : Nat) : Nat :=
  if s.fld (F.AUD_CFG_ROLE k) = 1 then 1 else if s.fld (F.AUD_CFG_MODE k) = 3 then 2 else 3

/-- A PORT order is accepted (R474, R477, R590): a port that it enables starts with every entry unframed and every play
queue empty. -/
def acceptPort (k : Nat) (en : Bool) : Prog :=
  all [bumpEpoch (108 + k), setB (F.AUD_EN_EN k) en,
    when (!en) (all [setUnit (108 + k) 0, liftFence (108 + k)]),
    when en (look fun s => when (s.unitState (108 + k) == 0) (all [
      setUnit (108 + k) (s.portStart k), modPort k fun _ => { enabledAt := s.now },
      setF (F.AUD_STATUS_LOCKED k) 0, setWord (F.AUD_SF_STAT_POS k).off 0,
      each (List.range 32) fun i => all [modIn (32 * k + i) fun x => x.fresh s.now,
        modDev fun d => { d with outs := Sparse.put OutPath.blank d.outs (32 * k + i) {} }]]))]

/-- The rails, clocks and links that a wake brings back (R557, R558): the device is on its way out of REST. -/
def startWakeUp (code : Nat) : Prog :=
  look fun s => all [setF F.PCK_STATUS_DEV 4, setF F.PCK_STATUS_WAKESRC code,
    modPwr fun w => { w with railSlow := false, wokeAt := s.now },
    setPins fun p => { p with coreEn := true, storeEn := true, farEn := true, storeRet := false }]

/-- The WAKESRC code that an order from the wake source carries in ARG; of the wakes of one RESTCLK period the lowest code is
recorded (R557). -/
def acceptWake (code : Nat) : Prog :=
  look fun s =>
    if s.inRest then startWakeUp code
    else if s.devState == 2 then
      modPwr fun w => { w with wakePending := some (match w.wakePending with
        | some c => min c code
        | none => code) }
    else when (s.devState == 4 && s.dev.pwr.wokeAt == s.now && decide (code < s.fld F.PCK_STATUS_WAKESRC))
      (setF F.PCK_STATUS_WAKESRC code)

/-- The effect of an accepted order (R552, R554, R563, R567, R573, R574, R590, R591, R330). -/
def acceptOrder (o : Order) : Prog :=
  look fun s =>
    if o.kind = kPower then
      all [when (o.src != .timetable) (bumpEpoch o.unit), moveBench o.unit (o.arg % 4)]
    else if o.kind = kRest then
      all [setF F.PCK_STATUS_DEV 2,
        modPwr fun w => { w with restKeep := s.bit F.PCK_REST_CFG_STORE_KEEP, restAt := s.now, wakePending := none },
        logC 0xD001 0 127 [s.fld F.PCK_REST_CFG_STORE_KEEP],
        declareUnit 43 0]
    else if o.kind = kWake then acceptWake o.arg
    else if o.kind = kTileclk then
      all [modPwr fun w => { w with tileClk := some (bitsOf o.arg 0 12, s.now + 250000, s.enabledMask + 256) }, setVreq]
    else if o.kind = kDerate then
      all [each (s.orderParts o) fun p => bumpEpoch (32 + p),
        modPwr fun w => { w with derateBy := Sparse.put zeroNat w.derateBy o.src.code (bitsOf o.arg 0 8) }, setVreq]
    else if o.kind = kCold then
      all [coldResetNow (if o.src = .watchdog then 3 else 2),
        when (s.devState == 2 || s.inRest) (setF F.PCK_STATUS_WAKESRC 5)]
    else if o.kind = kPart then each (membersOf o.arg 8) fun p => partReset p (s.partOn p || o.src != .watchdog)
    else if o.kind = kEnable then
      all [each (s.orderParts o) fun p => bumpEpoch (32 + p),
        each (partIds.filter fun p => s.partOn p && !inMask o.arg p) disablePart,
        each (partIds.filter fun p => !s.partOn p && inMask o.arg p) enablePart]
    else if o.kind = kRegrip then
      let named := membersOf o.arg 8
      let first := match named.find? s.partOn with
        | some p => s.nextBoundary p
        | none => s.now + 1
      all [each named fun p => bumpEpoch (32 + p),
        each named fun p => modPart p fun x => { x with regrip := some {
          pmask := bitsOf o.arg 0 8, drain := bitsOf o.arg 8 1 == 1, turns := bitsOf o.arg 9 4 + 1, accepted := s.now, first } }]
    else if o.kind = kGroup then
      let g := bitsOf o.arg 0 6
      let en := bitsOf o.arg 8 1
      let p := o.unit - 32
      all [bumpEpoch o.unit,
        if g < 32 then setF ⟨(F.LEDG_GROUPS_LO p).off, g, 1⟩ en else setF ⟨(F.LEDG_GROUPS_HI p).off, g - 32, 1⟩ en]
    else acceptPort (o.unit - 108) (o.arg % 2 == 1)

/-! ## Answers -/

/-- The unit under which an order is reported (R663): the one it names, or 32 + the lowest partition concerned. -/
def State.orderUnit (s : State) (o : Order) : Nat :=
  if o.kind = kPower || o.kind = kGroup || o.kind = kPort then o.unit
  else match s.orderParts o with
    | p :: _ => 32 + p
    | [] => 127

/-- Answer the issuer (R596): the order-status register of the host, USB and JTAG paths; the count of lost timetable
orders; and the answer that the management bus and the SPI target put into their own registers. -/
def answer (o : Order) (unit status : Nat) : Prog :=
  look fun s =>
    let ep := if unit = 127 then 0 else s.epoch unit
    let ostat := fun k => setWord (F.LEDG_OSTAT_KIND k).off (o.kind % 256 + 256 * status + 65536 * ep)
    all [modDev fun d => { d with ledg := if o.src == d.ledg.lastSrc && d.ledg.lastStatus == 0
        then { d.ledg with lastStatus := status, lastEpoch := ep } else d.ledg },
      match o.src with
      | .pf => ostat 0
      | .usb => ostat 1
      | .jtag => ostat 2
      | .timetable => when (status != 0) (incF F.LEDG_TT_REJECTS)
      | _ => .nop]

/-- The detail words D0 and D1 of R613. -/
def orderWords (o : Order) (cause unit : Nat) : List Nat :=
  [o.src.code + 256 * o.unit + 65536 * (o.kind % 256), cause + 256 * unit]

/-- Decide one kept order (R595). -/
def decideOrder (o : Order) : Prog :=
  look fun s =>
    let v := s.verdict o
    let u := s.orderUnit o
    if v.status = 0 then all [acceptOrder o, answer o u 0]
    else all [
      when (v.status == 2) (all [incF F.LEDG_REFUSED,
        if o.kind = kRegrip then logC 0x9006 0 (if u = 127 then 127 else u) (orderWords o v.cause v.unit)
        else if o.kind = kEnable && v.cause == 7 then logC 0x200B 0 u (orderWords o v.cause v.unit)
        else logLim (.ticks 2500000) o.src.code 0xE002 0 u (orderWords o v.cause v.unit)]),
      answer o u v.status]

/-- A REST order beside a wake is refused, not overruled (R580). -/
def besideWake (o w : Order) : Bool := o.kind == kRest && w.kind == kWake

/-- An order that lost to another of its cycle is counted and logged (R594). -/
def overrule (o w : Order) : Prog :=
  look fun s =>
    if besideWake o w then
      all [incF F.LEDG_REFUSED, logLim (.ticks 2500000) o.src.code 0xE002 0 127 (orderWords o 4 127)]
    else all [incF F.LEDG_OVERRULED,
      logLim (.ticks 2500000) o.src.code 0xE001 0 (s.orderUnit o) (orderWords o w.src.code 127)]

/-- The answer to an order that lost carries the epoch after the decision of its cycle (R596). -/
def answerLoser (o w : Order) : Prog :=
  look fun s => if besideWake o w then answer o 127 2 else answer o (s.orderUnit o) 1

/-- The wakes of one cycle are one wake, that of the lowest source code (R421, R557). -/
def oneWake (os : List Order) : List Order :=
  match os.filter fun o => o.kind == kWake with
  | [] => os
  | w :: ws => { w with arg := ws.foldl (fun m o => min m o.arg) w.arg } :: os.filter fun o => o.kind != kWake

/-- What one cycle's orders come to: the kept ones, and each loser with its winner. A cold reset that is kept supersedes the partition
resets of its cycle, of whatever rank (R584; log entry 134). -/
def State.settled (s : State) (os : List Order) : List Order × List (Order × Order) :=
  let parts := os.filter fun o => o.kind == kPart
  let r := s.resolve (sortOrders (os.filter fun o => o.kind != kPart)) []
  match r.1.find? fun o => o.kind == kCold with
  | some c => (r.1, r.2 ++ parts.map fun o => (o, c))
  | none => s.resolve (sortOrders os) []

/-- The orders of one cycle (R594, R595): kept orders are decided strongest first, each against the state that the
earlier ones leave; orders that name no kind or no unit are answered without taking part. -/
def orderCycle (os : List Order) : Prog :=
  look fun s =>
    let r := s.settled (oneWake (os.filter fun o => o.known && o.inRange))
    when (!s.dev.pwr.por) <| all [each (os.filter fun o => !(o.known && o.inRange)) decideOrder,
      each r.2 fun x => overrule x.1 x.2, each r.1 decideOrder, each r.2 fun x => answerLoser x.1 x.2]

/-- Orders that reach the ledger in the present cycle, and the decision on them at its end (R592, R594). -/
def submit (os : List Order) : Prog := modDev fun d => { d with ledg := { d.ledg with cycle := d.ledg.cycle ++ os } }
def settle : Prog :=
  look fun s => when (!s.dev.ledg.cycle.isEmpty)
    (all [modDev fun d => { d with ledg := { d.ledg with cycle := [] } }, orderCycle s.dev.ledg.cycle])

/-- The Chuck submits the AUTOEN order that it has held (R38, R316). -/
def submitAutoen : Prog :=
  look fun s =>
    when (s.dev.chuck.autoen != 0 && s.dev.hs.counting) (all [
      modChuck fun c => { c with autoen := 0 },
      orderCycle [{ src := .chuck, kind := kEnable, unit := 0, arg := s.enabledMask ||| s.dev.chuck.autoen }]])

end Sys2Proof.Machine
end

