-- ==== Sys2Proof/Machine/Access.lean ====
section
/-!
DEFINITION. Sys2Proof/Machine/Access.lean: which path reaches which register (R15, R355, R556, R651), dropped accesses
(R9, R11, R300), the latch of register pairs (R34, R648), and writing a register under its access codes (R7, R12).
-/
namespace Sys2Proof

/-- The order source of a register path (R592); virtual functions submit no orders. -/
def Path.osrc : Path → OSrc
  | .pf => .pf | .vf _ => .pf | .mb => .mb | .usb => .usb | .spi => .spi | .jtag => .jtag

end Sys2Proof

namespace Sys2Proof.Machine

/-- The blocks of the rest domain (R556): GEN, TB, LEDG, CATCH, PCK, MB, SPIT and SEC. -/
def restBlock (off : Nat) : Bool :=
  decide (off < 0x20000) || (0x40000 ≤ off && decide (off < 0x80000)) || (0x440000 ≤ off && decide (off < 0x451000)) ||
  (0x480000 ≤ off && decide (off < 0x490000))

/-- The PF MSI-X region, which only the physical function reaches (R646). -/
def msixRegion (off : Nat) : Bool := 0x30000 ≤ off && decide (off < 0x40000)

/-- Whether a function answers its memory requests: the link is up, and the function is in D0 and not fenced (R353, R587). -/
def State.fnOpen (s : State) (fn : Nat) : Bool := s.linkUp && s.unitState (44 + fn) == 1 && !s.fenced (44 + fn)

/-- Whether a register path works now and reaches an offset (R15, R556, R533, R650): in REST, until READY
after it, and while a cold reset is held only the management bus and the SPI target, and only the rest-domain blocks; at any other
time, entry to REST included, each path whose own link is up. A virtual function's offsets are those of its own
64 KiB window (R355); no other path reaches beyond BAR0's blocks. -/
def State.reach (s : State) (p : Path) (off : Nat) : Bool :=
  !s.dev.pwr.por && (!msixRegion off || p == .pf) &&
  (match p with
    | .vf _ => decide (off < 0x10000)
    | _ => decide (off < 0x4000000)) &&
  (if s.heldReset || s.inRest || s.devState == 4 then (p == .mb || p == .spi) && restBlock off
  else match p with
    | .pf => s.fnOpen 0
    | .vf n => 1 ≤ n && decide (n < 64) && s.fnOpen n
    | .usb => 2 ≤ s.unitState 116 && s.unitState 116 ≤ 4
    | _ => true)

/-- Where a dropped access counts: GEN_BAD_ACCESS of the physical function, or of a VF's own window (R355). -/
def badAccessOf : Path → Fld
  | .vf n => ⟨0x4000014 + 0x10000 * n, 0, 16⟩
  | _ => F.GEN_BAD_ACCESS_COUNT
def badAccess (p : Path) : Prog := incF (badAccessOf p)

/-- The last write of a path was dropped: what LAST_RESULT then reports (R501, status 7). -/
def noteDropped : Prog := modDev fun d => { d with ledg := { d.ledg with lastStatus := 7, lastEpoch := 0 } }
def noteStatus (n : Nat) : Prog := modDev fun d => { d with ledg := { d.ledg with lastStatus := n, lastEpoch := 0 } }

/-- A write of path source `src` begins: the outcome is OK unless something says otherwise, and the answer of an order that it
submits is the one to keep (R501). -/
def startWrite (src : OSrc) : Prog :=
  modDev fun d => { d with ledg := { d.ledg with lastSrc := src, lastStatus := 0, lastEpoch := 0 } }

/-- The bench whose block an offset lies in. -/
def benchOf (off : Nat) : Option Nat :=
  if 0x100000 ≤ off && off < 0x300000 then some ((off - 0x100000) / 0x10000) else none

/-- Whether the register at `off` has a field that a write can change. -/
def writable (off : Nat) : Bool :=
  (RegMap.fields off).any fun f => f.acc == .rw || f.acc == .wo || f.acc == .w1c || f.acc == .w1s || f.acc == .lo

/-- A write to a tile window or to a writable bench register of a blank or fenced bench is dropped (R300). -/
def State.benchDrops (s : State) (off : Nat) : Option Nat :=
  (benchOf off).filter fun b => (s.unitState b == bBlank || s.unitState b == bFenced) &&
    (decide (off % 0x10000 < 0x8000) || writable off)

/-- How often a catch that belongs to a bench is logged: once per turn of its partition, or by time (R664). -/
def State.benchLimit (s : State) (b : Nat) : Limit :=
  match s.benchPart b with
  | some p => .turn p
  | none => .ticks 2500000

/-- The program of a write that is `p` where the path reaches the register and the bench takes writes; otherwise the
write is dropped and counted (R11, R300). -/
def writing (p : Path) (off : Nat) (q : Prog) : Prog :=
  look fun s =>
    if !s.reach p off then noteDropped
    else match s.benchDrops off with
      | some b => all [noteDropped, incF (F.BENCH_WR_DROPS b), logLim (s.benchLimit b) b 0x8008 0 b []]
      | none => q

/-! ## Latched pairs (R34, R648) -/

/-- The high word that a read of the low register at `off` latches: the register pairs of R648. -/
def State.pairHigh (s : State) (off : Nat) : Option Word :=
  if off = 0x10000 then some (s.dev.hs.now.extractLsb' 32 32)
  else if off = 0x10018 || (0x100A0 ≤ off && off < 0x100E0 && (off - 0x100A0) % 8 = 0) || off = 0x38001C ||
      (0x420404 ≤ off && off < 0x420484 && (off - 0x420404) % 16 = 0) ||
      (0x40001C ≤ off && off < 0x404000 && (off - 0x40001C) % 0x1000 = 0) then some (s.word (off + 4))
  else none

/-- Whether `off` is the high register of a latched pair. -/
def isPairHigh (off : Nat) : Bool :=
  off == 0x10004 || off == 0x1001C || (0x100A4 ≤ off && decide (off < 0x100E4) && (off - 0x100A4) % 8 == 0) ||
  off == 0x380020 || (0x420408 ≤ off && decide (off < 0x420488) && (off - 0x420408) % 16 == 0) ||
  (0x400020 ≤ off && decide (off < 0x404020) && (off - 0x400020) % 0x1000 == 0)

def State.latched (s : State) (p : Path) : Word :=
  match s.dev.hs.latches.find? fun x => x.1 == p with
  | some x => x.2
  | none => 0

/-- Where a virtual function's window shows a TB register of the device (R355). -/
def pairKey (p : Path) (off : Nat) : Nat := match p with
  | .vf _ => if off = 0x100 then 0x10000 else if off = 0x104 then 0x10004 else 0
  | _ => off

/-- A read of a low word latches the high word for the path that read it. -/
def latchPair (p : Path) (off : Nat) : Prog :=
  look fun s => match s.pairHigh (pairKey p off) with
    | some w => modHs fun h => { h with latches := (p, w) :: h.latches.filter fun x => x.1 != p }
    | none => .nop

/-! ## Writing under the access codes (R7) -/

/-- The value of one field after a 32-bit write of `v`: RW and WO set it, W1C and W1S act on the bits written 1, every
other code ignores the write. A WO field holds nothing: it reads zero. -/
def fieldAfter (f : FieldSpec) (old v : Nat) : Nat :=
  let o := bitsOf old f.lo f.w
  let n := bitsOf v f.lo f.w
  let r := match f.acc with
    | .rw => n
    | .w1c => o - (o &&& n)
    | .w1s => o ||| n
    | _ => o
  r * 2 ^ f.lo

/-- The word of a register after a write of `v` under its fields' access codes. -/
def wordAfter (fs : List FieldSpec) (old v : Nat) : Nat := (fs.map fun f => fieldAfter f old v).foldl (· + ·) 0

/-- Write a register under its access codes. -/
def writeFields (off v : Nat) : Prog :=
  look fun s => setWord off (wordAfter (RegMap.fields off) (s.word off).toNat v)

/-- The word of a register without its one-shot bits: fields that a write triggers and that read as zero. -/
def clearBits (off : Nat) (fs : List Fld) : Prog := each fs fun f => when (f.off == off) (setF f 0)

end Sys2Proof.Machine
end

