-- ==== Sys2Proof/Machine/Launches.lean ====
section
/-!
DEFINITION. Sys2Proof/Machine/Launches.lean: the timetable entries in force (R70 to R73, R100, R336), starting programs on
tiles (R113, R390), reloading tiles (R128), and what follows when a tile or a bench has done its work (R27, R82).
-/
namespace Sys2Proof.Machine

/-! ## Entries -/

/-- The entry that acts on this tick as entry `i` of a partition: of its active plane, or with `old` of its retiring plane,
whose turns go on from B with the old turn length (R336). Entries act in list order and once each, from the boundary of the turn on
(R66, R73): one that stands before an entry that has acted in this turn does not act any more. The ordinal kinds that a retiring plane
keeps are the caller's to check. -/
def State.entryNow (s : State) (p i : Nat) (old : Bool) : Option TtEntry :=
  let x := s.part p
  if old then
    match x.retiring with
    | none => none
    | some (pl, b) => ((s.tableInForce p true)[i]?).filter fun e =>
        s.reached b && s.since b % pl.turnLen == e.offset && (x.oldSeen.1 != s.turnOf p true || x.oldSeen.2 ≤ i)
  else match x.turnStart with
    | none => none
    | some t => ((s.timetable p)[i]?).filter fun e => s.partOn p && s.since t == e.offset && x.seen ≤ i

/-- Entry `i` has acted. -/
def passed (p i : Nat) (old : Bool) : Prog :=
  look fun s => modPart p fun x => if old then { x with oldSeen := (s.turnOf p true, i + 1) } else { x with seen := i + 1 }

/-- The program of an entry that acts on this tick and is of the kind that the command stands for; nothing where no such entry acts. -/
def onEntryIf (p i : Nat) (old : Bool) (ok : TtEntry → Bool) (f : TtEntry → Prog) : Prog :=
  look fun s => match s.entryNow p i old with
    | some e => when (ok e && s.ready) (all [passed p i old, f e])
    | none => .nop

def onEntry (p i : Nat) (old : Bool) (kind : Nat) (f : TtEntry → Prog) : Prog := onEntryIf p i old (fun e => e.kind == kind) f

/-! ## Tiles -/

/-- A tile reloads before its next launch (R128): nothing of its program goes on. -/
def reloadTile (t : Nat) : Prog :=
  modTile t fun x => { x with run := 3, launch := none, detached := false, excHalt := false, stepping := false }

/-- Start a launch on a tile that is free (R113, R390). -/
def startTile (t : Nat) (l : Launch) : Prog :=
  look fun s =>
    let pl := s.planeFor l.part l.old
    match pl.tileRec t with
    | none => .nop
    | some r =>
      let i := l.tiles.findIdx (· == t)
      let sregs : Sparse Long := ([(1, l.chunks.length), (2, l.stage), (3, i), (4, l.tiles.length)].filter fun x => x.2 != 0).map
        fun x => (x.1, BitVec.ofNat 64 x.2)
      all [
        modTile t fun x => { x with
          run := 1, launch := some l, pbase := r.pbase, plen := r.plen, rbase := r.rbase, checked := pl.checked,
          pc := bitsOf (r.progs.getD l.prog 0) 0 13, mode := r.mode, shadow := none, delay := none, loops := [],
          vlens := 256 :: x.vlens.drop 1, sregs := sregs, sel := none, cdone := [], waited := 0, passBp := none,
          srWrapped := false, issuedAt := s.now },
        setF (F.VEC_SR_KEY_LO_KEY (t / 16) (t % 16)) (l.seedLo ^^^ l.seq),
        setF (F.VEC_SR_KEY_HI_KEY (t / 16) (t % 16)) (l.seedHi ^^^ (l.stage * 65536) ^^^ i),
        setF (F.VEC_SR_CTR_CTR (t / 16) (t % 16)) 0]

/-- Whether a tile may start a program now: idle, its matrix work and transfers ended, its bench in SPIN. -/
def State.tileFree (s : State) (t : Nat) : Bool :=
  let x := s.tile t
  x.run == 0 && x.ops.isEmpty && x.xfers.isEmpty && s.inSpin (t / 16)

/-- Start the oldest launch that waits for a tile, once the tile is free (R82, R128, R336). -/
def startNext (t : Nat) : Prog :=
  look fun s => match (s.tile t).waiting with
    | [] => .nop
    | l :: ls => when (s.tileFree t) (all [modTile t fun x => { x with waiting := ls }, startTile t l])

/-- A tile has no program any more: the next launch starts, or its bench may fall to its idle state (R27). -/
def tileIdle (t : Nat) : Prog := all [startNext t, idleBench (t / 16)]

/-- The oldest launch of a bench's tiles starts where it can. -/
def startBench (b : Nat) : Prog := each (tilesOf b) startNext

/-! ## Launching (R76, R77, R83, R90, R92, R113, R260) -/

/-- Whether the record of a slot has READY. -/
def State.recordReady (s : State) (d : List Nat) (slot : Nat) : Bool :=
  bitsOf (s.read32 (recordAt d slot)) 18 1 == 1

/-- What a LAUNCH does with the chunk at place `i` of a slot. -/
inductive Pick where
  /-- it does not concern the chunk -/
  | leave
  | take
  /-- the record lacks READY and the chunk stays eligible -/
  | notReady
  /-- it ends STAGE_MISSED; with `true` because its record lacks READY -/
  | missed (notReady : Bool)
  deriving DecidableEq, Repr

/-- Whether the chunk belongs to the slice (R76). -/
def inSlice (e : TtEntry) (c : Chunk) : Bool :=
  match c.pos with
  | some j => j % (launchSlices e + 1) == launchSlice e
  | none => false

def State.pick (s : State) (pl : Plane) (p : Nat) (old : Bool) (e : TtEntry) (slot i : Nat) (c : Chunk) : Pick :=
  let st := launchStage e
  let ready := match s.descFor p old e.group slot with
    | some d => walkStageC d != st || s.recordReady d slot
    | none => true
  if c.part != p || c.group != e.group || c.old != old || !inSlice e c then .leave
  else if st = 0 then
    if c.launched || laterTick s.now c.lastLaunch && !pl.soft || (s.slot slot).skip == some c.dueTurn ||
        ((s.slot slot).chunks.take i).any (fun x => x.launched) then .leave
    else if ready then .take else .notReady
  else if !c.launched then .leave
  else if c.running == some (st - 1) then .missed false
  else if c.running.isSome then .leave
  else if c.done = st then
    if c.doneAt == s.now then .missed false
    else if ready then .take else .missed true
  else if c.done + 1 = st then .missed false
  else .leave

/-- The chunks of a partition with their places, in slot order. -/
def State.chunksOf (s : State) (p : Nat) : List (Nat × Nat × Chunk) :=
  (s.partSlots p).flatMap fun n => ((s.slot n).chunks.zipIdx).map fun c => (n, c.2, c.1)

/-- Order picked chunks by batch position (R76). -/
def insertPos (x : Nat × Nat × Chunk) : List (Nat × Nat × Chunk) → List (Nat × Nat × Chunk)
  | [] => [x]
  | y :: ys => if x.2.2.pos.getD 0 < y.2.2.pos.getD 0 then x :: y :: ys else y :: insertPos x ys
def byPos (l : List (Nat × Nat × Chunk)) : List (Nat × Nat × Chunk) := l.foldr insertPos []

/-- At most one chunk of each stream: an earlier chunk of a slot that a LAUNCH takes keeps a later one from it (R92, R102). -/
def firstOfSlot : List (Nat × Nat × Chunk) → List (Nat × Nat × Chunk)
  | [] => []
  | x :: xs => x :: (firstOfSlot xs).filter fun y => y.1 != x.1

/-- Declare STAGE_MISSED (R77). -/
def stageMissed (p : Nat) (c : Nat × Nat) : Prog :=
  all [endOfAny c stStageMissed, logLim (.turn p) (32 + p) 0x2003 1 (32 + p) [] (some c.1)]
where
  /-- End a launched chunk whether or not a program runs for it. -/
  endOfAny (c : Nat × Nat) (status : Nat) : Prog :=
    look fun s => match (s.slot c.1).chunks.findIdx? (fun x => x.launched && x.arrival == c.2) with
      | some i => endChunk c.1 i status
      | none => .nop

/-- The header flags and resolutions that a launch writes into a chunk (R89, R335). A NEWUTT that R89 owes the next chunk goes to the
chunk that is launched next: the spec does not say what becomes of it where the chunk that follows ends MISSED (log entry 120). -/
def takeChunk (st : Nat) (tiles : List Nat) (c : Nat × Nat × Chunk) : Prog :=
  look fun s =>
    let m := modelEntryAt c.2.2.model
    modSlot c.1 fun x => { x with
      newUtt := if st = 0 then false else x.newUtt,
      chunks := modNth (fun k => { k with
        launched := true, running := some st, owing := tiles,
        flags := withFlagIf (st == 0 && x.newUtt) flagNewUtt k.flags,
        modelBase := if st = 0 then bitsOf (s.read32 m) 0 18 else k.modelBase,
        modelSize := if st = 0 then bitsOf (s.read32 (m + 4)) 0 18 else k.modelSize }) x.chunks c.2.1 }

/-- Put a launch on a tile: it starts now, or waits its turn; on a halted tile it does not start (R141). -/
def placeLaunch (l : Launch) (t : Nat) : Prog :=
  all [modTile t fun x => { x with waiting := x.waiting ++ [l] }, startNext t]

/-- A bench that a LAUNCH has reached and that no launch is outstanding on, on its way to SPIN or in it, may return to its idle state
(R27, R109). -/
def cancelBench (b : Nat) : Prog :=
  look fun s => when (!s.benchBusy b)
    (if s.dev.pwr.waking.any (·.1 == b) then modPwr fun w => { w with cancelled := b :: w.cancelled } else idleBench b)

/-- A LAUNCH entry (R113). A LAUNCH that reaches several blank or fenced benches is counted once and logged with the first of them:
R83 and R110 leave open whether each of them counts (log entry 121). -/
def launchEntry (p : Nat) (old : Bool) (e : TtEntry) : Prog :=
  look fun s =>
    let pl := s.planeFor p old
    let act := s.plane p
    let named := (membersOf e.benches 32).filter fun b => !old || inMask act.benches b
    let dead := named.filter fun b => s.fenced b || s.unitState b == bBlank
    let live := named.filter fun b => !dead.contains b
    let tiles := (live.flatMap tilesOf).filter (pl.carries e.ref)
    let picks := (s.chunksOf p).map fun c => (c, s.pick pl p old e c.1 c.2.1 c.2.2)
    let stopped := s.unitState (32 + p) == 2 && !old
    let idle := stopped || tiles.isEmpty
    let taken := if idle then [] else byPos (firstOfSlot ((picks.filter fun x => x.2 == .take).map Prod.fst))
    let refused := if idle then [] else picks.filter fun x => x.2 == .notReady || x.2 == .missed true
    let l : Launch := {
      part := p, old := old, prog := e.ref, group := e.group, stage := launchStage e, slice := launchSlice e,
      chunks := taken.map (fun c => (c.1, c.2.2.arrival)), tiles := tiles, tick := s.now,
      seq := (taken.head?.map fun c => c.2.2.seq).getD 0,
      seedLo := s.fld (F.TT_SR_SEED_LO_SEED p), seedHi := s.fld (F.TT_SR_SEED_HI_SEED p) }
    let halted := tiles.any fun t => (s.tile t).run == 2
    all [
      when (!dead.isEmpty) (all [incF (F.TT_DROPPED p), logLim (.turn p) (32 + p) 0x2007 0 (dead.headD 127) []]),
      addF F.KV_NOT_READY refused.length,
      each refused fun x =>
        logC 0x7007 1 (32 + p) [x.1.1, s.slotPlist x.1.1, s.turnOf p old % 2 ^ 32] (some x.1.1),
      -- R77 makes no exception for a LAUNCH that takes no chunk
      each (picks.filter fun x => x.2 == .missed false || (!idle && x.2 == .missed true)) fun x =>
        stageMissed p (x.1.1, x.1.2.2.arrival),
      when (!taken.isEmpty) (all [
        each taken (takeChunk (launchStage e) tiles),
        (if halted then each l.chunks fun c => endOf l.stage c stException
        else all [
          (let short := live.filter fun b => !s.inSpin b && tiles.any fun t => t / 16 == b
          when (!short.isEmpty) (all [incF (F.TT_WAKESHORT p), each short fun b => logC 0x2006 1 b []])),
          each tiles (placeLaunch l)])]),
      each live cancelBench]

/-! ## The overrun bound (R74, R95) -/

/-- The overrun allowance of a group: 0 means a period of turns (R74). -/
def Plane.overrunOf (pl : Plane) (g : Nat) : Nat :=
  match pl.group g with
  | some x => if x.ovr = 0 then x.period * pl.turnLen else x.ovr
  | none => 0

/-- The last tick on which a launched chunk may complete (R95). -/
def State.boundOf (s : State) (c : Chunk) : Nat :=
  (c.deadline + (s.planeFor c.part c.old).overrunOf c.group) % 2 ^ 64

/-- End the program that runs stage `st` of a chunk, on every tile that runs it or waits with it; the tiles reload (R95). -/
def endPrograms (st : Nat) (c : Nat × Nat) (status : Nat) : Prog :=
  look fun s =>
    let hit := fun (l : Launch) => l.stage == st && l.chunks.contains c
    let tiles := (s.dev.tiles.filter fun t => t.2.launch.any hit).map Prod.fst
    let others := (tiles.flatMap fun t => ((s.tile t).launch.toList.flatMap Launch.chunks))
    all [
      each others.eraseDups fun x => endOf st x status,
      each s.dev.tiles fun t => modTile t.1 fun x => { x with waiting := x.waiting.filter fun l => !hit l },
      each tiles fun t => all [reloadTile t, idleBench (t / 16)]]

/-- The first chunk of a slot that `late` finds past its bound ends FAIL_OVERRUN, at the bound, with its program (R95). -/
def overrunIf (slot : Nat) (late : Nat → Bool) : Prog :=
  look fun s =>
    match (s.slot slot).chunks.findIdx? (fun c => c.launched && late (s.boundOf c)) with
    | none => .nop
    | some i =>
      let c := (s.slot slot).chunks.getD i {}
      all [logC 0x2004 2 (32 + c.part) [] (some slot), endChunkAt slot i stOverrun (s.boundOf c) (0, 0, 0),
        match c.running with
        | some st => endPrograms st (slot, c.arrival) stOverrun
        | none => .nop]

/-- R95: a launched chunk that has not completed by its deadline plus OVR. -/
def overrun (slot : Nat) : Prog := look fun s => overrunIf slot s.reached

end Sys2Proof.Machine
end

