-- ==== Sys2Proof/Machine/Stamp.lean ====
section
/-!
DEFINITION. Sys2Proof/Machine/Stamp.lean: the stamping unit (R17 to R20, R84 to R90, R94, R96, R97, R101, R213, R298, R330,
R591): how a chunk that a source offers enters its stream slot, or is dropped.
-/
namespace Sys2Proof.Machine

/-- What a source offers: the fields of the header that it writes, and the payload. -/
structure Offer where
  slot : Nat := 0
  source : Nat := 1
  model : Nat := 0
  flags : Nat := 0
  seq : Nat := 0
  format : Nat := 0
  rate : Nat := 0
  count : Nat := 0
  upos0 : Nat := 0
  upos1 : Nat := 0
  payload : List Byte := []
  /-- its arrival tick, where that is not the tick on which it is filed -/
  tick : Option Nat := none
  /-- the ingest buffer that is reserved for it -/
  buf : Option Nat := none
  deriving DecidableEq, Repr

/-- The offset of a group's GATHER in the timetable in force. -/
def State.gatherOffset (s : State) (p g : Nat) : Nat :=
  match (s.timetable p).find? fun e => e.kind == 3 && e.group == g with
  | some e => e.offset
  | none => 0

/-- The first turn from `n` on that belongs to phase `f` of a period of `m` turns. -/
def turnFrom (n f m : Nat) : Nat := n + (f + m - n % m) % m

/-- The first turn whose entries can act: that of the first boundary from now on while no turn is in force (R98). -/
def State.firstTurn (s : State) (p : Nat) : Nat :=
  if (s.part p).turnStart.isSome || !s.reached (s.turnOrg p) then 0 else ceilDiv (s.since (s.turnOrg p)) (s.turnLen p)

/-- The due turn of a chunk that arrives at `t` (R19): later than `after`, the due turn of the last pending chunk; no turn in which its
GATHER does not act (log entry 119). -/
def State.dueTurn (s : State) (p : Nat) (g : Group) (slot t : Nat) (after : Option Nat) : Nat :=
  let first := s.turnOrg p + s.gatherOffset p g.id
  let n := max (s.firstTurn p) (if laterTick first t then 0 else tickDiff t first / s.turnLen p + 1)
  turnFrom (match after with
    | some k => max n (k + 1)
    | none => n) (s.phase g slot) g.period

/-- Why the device drops an offered chunk before admission (R86, R97, R212, R298, R330, R364, R406, R591), as a cause
code of the source's catch; none where it admits it. -/
def State.admitFault (s : State) (o : Offer) : Option Nat :=
  let p := s.slotPart o.slot
  let g := s.slotGroup o.slot
  if !s.slotDeclared o.slot || s.slotSource o.slot != o.source then some 2
  else if s.slotModel o.slot != o.model then some 3
  else if s.slotCbuf o.slot < o.payload.length then some 4
  else if s.unitState (32 + p) != 1 && s.unitState (32 + p) != 3 then some 6
  else if !(if g < 32 then inMask (s.fld (F.LEDG_GROUPS_LO p)) g else inMask (s.fld (F.LEDG_GROUPS_HI p)) (g - 32)) then some 7
  else if s.unitState (32 + p) == 3 && (match (s.part p).active, (s.part p).staged with
      | some a, some st => (partedSlots a st).contains o.slot
      | _, _ => false) then some 10
  else none

/-- The stream's next chunk carries GAP (R96). -/
def gapNext (slot : Nat) : Prog := modSlot slot fun x => { x with gap := true }

/-- An ingest buffer that holds no chunk that is pending or running, and is not in `taken` (R213). -/
def State.freeBuf (s : State) (slot : Nat) (taken : List Nat) : Option Nat :=
  [0, 1].find? fun b => !((s.slot slot).chunks.any fun c => c.buf == b) && !taken.contains b

/-- R94, R213: a chunk that finds two chunks pending or no free buffer is dropped, counted in TT_DROPPED; GAP is the caller's. -/
def dropFull (slot : Nat) : Prog :=
  look fun s =>
    let p := s.slotPart slot
    all [incF (F.TT_DROPPED p), logLim (.turn p) (32 + p) 0x2005 0 (32 + p) [] (some slot)]

/-- The FLAGS of a stamped chunk (R86, R88): bits 0 to 4, 9 and 10 of the source, with PARTIAL and GAP added. -/
def stampFlags (flags count nominal : Nat) (gap : Bool) : Nat :=
  withFlagIf gap flagGap (withFlagIf (decide (count < nominal)) flagPartial (flags % 2 ^ 11 &&& 0x61F))

/-- Stamp an offered chunk; `drop` counts and logs it where it is not admitted, given the cause. -/
def stamp (o : Offer) (drop : Nat → Prog) : Prog :=
  look fun s =>
    match s.admitFault o with
    | some c => all [drop c, gapNext o.slot]
    | none =>
      let p := s.slotPart o.slot
      let x := s.slot o.slot
      let pend := x.chunks.filter fun c => !c.launched
      match (if 2 ≤ pend.length then none else match o.buf with
        | some b => some b
        | none => s.freeBuf o.slot []), (s.plane p).group (s.slotGroup o.slot) with
      | some b, some g =>
        let t := o.tick.getD s.now
        let n := s.dueTurn p g o.slot t ((pend.getLast?).map Chunk.dueTurn)
        let gather := s.turnOrg p + n * s.turnLen p + s.gatherOffset p g.id
        let d := (s.part p).derated
        let c : Chunk := {
          part := p, stream := o.slot, model := o.model, flags := stampFlags o.flags o.count g.nominal x.gap, seq := o.seq,
          arrival := t, deadline := (gather + if d then g.ddl else g.dl) % 2 ^ 64,
          lastLaunch := (gather + if d then g.dll else g.ll) % 2 ^ 64, format := o.format, rate := o.rate, count := o.count,
          upos0 := o.upos0, upos1 := o.upos1, dueTurn := n, buf := b, payload := o.payload.length, group := g.id,
          base := s.slotBase o.slot, stateSize := s.slotState o.slot, cbuf := s.slotCbuf o.slot, rbuf := s.slotRbuf o.slot }
        all [when (!o.payload.isEmpty) (storeBytes (storeAt + s.ingestAt o.slot b) o.payload),
          modSlot o.slot fun x => { x with chunks := x.chunks ++ [c], gap := false, lastSeq := some o.seq }]
      | _, _ => all [dropFull o.slot, gapNext o.slot]

end Sys2Proof.Machine
end

