-- ==== Sys2Proof/Machine/Paths.lean ====
section
/-!
DEFINITION. Sys2Proof/Machine/Paths.lean: what the array's paths and the ports' entries share: the fabric as the device
sees it (R419, R420, R438, R451 to R453), gathering samples into chunks, framing (R406, R408, R409, R472 to R475), and
playing results (R415, R416, R477).
-/
namespace Sys2Proof.Machine

/-! ## The fabric's surroundings -/

/-- What the fabric sees of the device (R438). -/
def State.fabIn (s : State) : FabIn :=
  { cmp := s.dev.arr.cmp, env := maskOf ((List.range 4).filter fun m => s.bit (F.ARR_ENV_STAT_ABOVE m)),
    swin := s.fld F.ARR_FAB_SWIN,
    second := decide ((s.now + 250000000 - s.fld F.TB_PPS_PHASE_PHASE) % 250000000 < 250000),
    hold := s.bit F.ARR_FAB_CTL_HOLD }

/-- The fabric is configured: HELD or RUNNING (R444). -/
def State.fabOn (s : State) : Bool := s.unitState 113 == 1 || s.unitState 113 == 2

/-- Let the nets settle: latches keep what they follow, flag lines that change note the tick and stay low until the fabric has run (R458),
SWOUT is read back, and a rise of UCATCH is seen. -/
def fabSettle : Prog :=
  look fun s => when s.fabOn (
    let i := s.fabIn
    let f := s.dev.fab.keepLatches i
    let cells := f.settled i
    let uc := f.sys i cells 32
    all [modFab fun _ => { f with
          ucatch := uc, ucRises := if uc && !f.ucatch then f.ucRises + 1 else f.ucRises,
          flags := f.flags.zipIdx.map fun x =>
            let v := f.ran && f.sys i cells x.2
            if v == x.1.1 then x.1 else (v, x.1.1, s.now) },
      setF F.ARR_FAB_SWOUT (natOfBits ((List.range 16).map fun j => f.sys i cells (16 + j)))])

/-- The level of a flag line that a sampling instant on this tick sees (R453, R455): with FABCLK the undivided TBCLK a
change is seen from the next tick on; otherwise from the third tick on, and until then either level. -/
def State.flagSeen (s : State) (n : Nat) : Bool :=
  let x := s.dev.fab.flags.getD n (false, false, 0)
  let age := s.since x.2.2
  if !s.fabOn || s.fenced 113 then false
  else if s.fld F.ARR_FAB_CLK_FCLKSRC = 0 && s.fld F.ARR_FAB_CLK_DIVM1 = 0 then (if age = 0 then x.2.1 else x.1)
  else if 3 ≤ age || x.1 == x.2.1 then x.1 else Config.freeBit s.free n

/-! ## Gathering (R409, R452, R475) -/

/-- A binding of a user flag: enabled, edge mode, line. -/
structure FlagBind where
  en : Bool
  rise : Bool
  line : Nat
  deriving DecidableEq, Repr

/-- Whether a flag is raised by a sample at level `v` after a sample at level `prev`. -/
def FlagBind.raised (b : FlagBind) (prev v : Bool) : Bool := b.en && v && (!b.rise || !prev)

/-- The nominal sample count of a slot's group. -/
def State.nominal (s : State) (slot : Nat) : Nat :=
  match (s.plane (s.slotPart slot)).group (s.slotGroup slot) with
  | some g => g.nominal
  | none => 0

/-- One sample for an entry bound to `slot`: it counts from the first instant at or after the ALIGN tick; the N-th sample
completes the chunk. A slot that has been undeclared keeps the sample count of its group, so that its chunks still close and are
dropped and counted (R29). -/
def addSample (k slot : Nat) (b0 b1 : FlagBind) (suspect : Bool) (bs : List Byte) : Prog :=
  look fun s =>
    let x := s.inp k
    let n := if s.slotDeclared slot then s.nominal slot else x.size
    let begun := match x.from_ with
      | some t => s.reached t
      | none => true
    when (x.framed && begun && n != 0) (
      let v0 := s.flagSeen b0.line
      let v1 := s.flagSeen b1.line
      let note := fun (u : Option Nat) (b : FlagBind) (prev v : Bool) => if u.isNone && b.raised prev v then some x.fill else u
      let c : Gather := { x.cur with
        at_ := s.now, bytes := x.cur.bytes ++ bs, suspect := x.cur.suspect || suspect,
        user0 := note x.cur.user0 b0 x.prev0 v0, user1 := note x.cur.user1 b1 x.prev1 v1 }
      let full := x.fill + 1 == n
      let whole := full && !x.bad
      all [modIn k fun x => { x with
          from_ := none, prev0 := v0, prev1 := v1, last := bs, size := n,
          fill := if full then 0 else x.fill + 1, bad := x.bad && !full, cur := if full then {} else c,
          ready := if whole then x.ready ++ [{ c with newUtt := x.newUtt, gap := x.gap }] else x.ready,
          newUtt := x.newUtt && !whole, gap := x.gap && !whole },
        .act .draw])

/-- ALIGN frames an entry that is unframed and was enabled before this tick (R408, R424, R474, R480), at `enabledAt`: the first chunk of
the first framing while the slot is declared carries NEWUTT, that of a later framing GAP. -/
def frameEntry (k slot : Nat) (enabledAt : Nat) : Prog :=
  look fun s =>
    let x := s.inp k
    let d := (s.slot slot).decls
    let first := s.slotDeclared slot && x.declFrame != d
    when (!x.framed && laterTick s.now enabledAt) (modIn k fun x => { x with
      framed := true, from_ := some s.now, fill := 0, bad := false, cur := {}, prev0 := false, prev1 := false,
      newUtt := first, gap := !first, declFrame := if s.slotDeclared slot then d else x.declFrame })

/-- Discard the chunk in progress of a framed entry (R406, R468): `count` counts it; the chunk after it carries GAP (R96), which is not
one of those that are complete already and wait to be stamped. -/
def discard (k slot : Nat) (count : Prog) : Prog :=
  look fun s =>
    let x := s.inp k
    when x.framed (all [when (decide (0 < x.fill) && !x.bad) count, when x.ready.isEmpty (gapNext slot),
      modIn k fun x => { x with bad := decide (0 < x.fill), cur := {}, gap := x.gap || !x.ready.isEmpty }])

/-- An entry becomes unframed; its chunk in progress is discarded. -/
def unframe (k slot : Nat) (count : Prog) : Prog :=
  all [discard k slot count, look fun s => modIn k fun x => { x with
    framed := false, enabledAt := if x.framed then s.now else x.enabledAt, from_ := none, fill := 0, bad := false, cur := {} }]

/-- The flags of a gathered chunk (R88). -/
def Gather.flags (g : Gather) : Nat :=
  withFlagIf g.newUtt flagNewUtt (withFlagIf g.gap flagGap (withFlagIf g.suspect 3 (withFlagIf g.user0.isSome 9
    (withFlagIf g.user1.isSome 10 0))))

/-- File the last sample of the oldest complete chunk of an entry and stamp it, `lat` ticks after the sample at the earliest (R409, R475);
with `exact` that tick is the arrival tick. -/
def fileChunk (k slot source format rate size lat : Nat) (exact : Bool) (drop : Prog) : Prog :=
  look fun s =>
    let x := s.inp k
    match x.ready with
    | [] => .nop
    | g :: _ =>
      let d := (s.slot slot).decls
      let seq := if x.declSeq != d then 0 else (x.seq + 1) % 2 ^ 32
      when (s.reached (g.at_ + lat)) (all [modIn k fun x => { x with ready := x.ready.drop 1, seq := seq, declSeq := d },
        stamp { slot, source, tick := if exact then some ((g.at_ + lat) % 2 ^ 64) else none, model := s.slotModel slot, flags := g.flags, seq, format, rate,
                count := g.bytes.length / size, upos0 := g.user0.getD 0, upos1 := g.user1.getD 0, payload := g.bytes }
          fun _ => drop])

/-- A 24-bit sample in 32 bits (R85): what the fourth byte holds the spec leaves open. -/
def bytes24 (v n : Nat) : List Byte := toBytes 3 v ++ [BitVec.ofNat 8 (Config.freeWord n).toNat]

/-! ## SAMPLE descriptors and playing (R407, R416, R473, R477) -/

/-- The two words of a SAMPLE descriptor. -/
def Plane.sample (pl : Plane) (ref : Nat) : Nat × Nat := (pl.samples.getD (2 * ref) 0, pl.samples.getD (2 * ref + 1) 0)

/-- Whether a descriptor acts in this turn (R407). -/
def sampleTurn (w turn : Nat) : Bool := turn % (bitsOf w 1 4 + 1) == bitsOf w 5 4

/-- A SAMPLE entry for a unit whose descriptor has a KIND and acts in this turn: `f` is given its words. -/
def onSample (p i : Nat) (old : Bool) (unitOk : Nat → Bool) (kind : Nat) (f : Nat → Nat × Nat → Prog) : Prog :=
  look fun s =>
    let d := fun e => (s.planeFor p old).sample (TtEntry.ref e)
    onEntryIf p i old (fun e => e.kind == 5 && unitOk (bitsOf e.w3 0 8) && bitsOf (d e).1 0 1 == kind) fun e =>
      when (sampleTurn (d e).1 (s.turnOf p old)) (f (bitsOf e.w3 0 8) (d e))

/-- The samples of a payload. -/
def samplesOf (fmt : Nat) (bs : List Byte) : List Nat := (records (unitBytes fmt) bs).map ofBytes

/-- PLAY on one output whose NEXT is defined (R416): the queued result with that SEQ starts `lat` ticks from now, or a
zero span plays; either way NEXT advances. -/
def playOut (unit path p rate lat : Nat) (formats : List Nat) : Prog :=
  look fun s =>
    let k := outKey unit path
    let o := s.out k
    match o.next with
    | none => .nop
    | some n =>
      let q := o.queue.find? fun q => q.seq == n
      let wrong := match q with
        | some q => !(q.rcount == 0 && q.status != stDone) && (!formats.contains q.rformat || q.rrate != rate)
        | none => false
      let good := match q with
        | some q => !(q.rcount == 0 && q.status != stDone) && !wrong
        | none => false
      let r := q.getD {}
      let stream := match q with
        | some q => q.stream
        | none => ((s.plane p).outStream unit path).getD 0
      all [modOut k fun o => { o with
          next := some ((n + 1) % 2 ^ 32), queue := o.queue.filter (fun q => q.seq != n), start := s.now + lat,
          fmt := r.rformat, playing := if good then (samplesOf r.rformat r.payload).take r.rcount else [] },
        when wrong (if unit = 112 then logLim (.turn p) (128 + path) 0xB045 0 112 [path, stream, n] (some stream)
          else logLim (.turn p) (portMark (unit - 108) (.turn p)) 0xB00C 0 unit [unit - 108, path, stream] (some stream)),
        when (!good) (outEvent unit path p stream n 0xB043 F.ARR_PLAY_ZERO F.AUD_PLAY_ZERO)]

end Sys2Proof.Machine
end

