-- ==== Sys2Proof/Machine/ArrayOps.lean ====
section
/-!
DEFINITION. Sys2Proof/Machine/ArrayOps.lean: the commands of the mixed-signal array (R402 to R428) and of the macrocell
fabric (R441 to R458).
-/
namespace Sys2Proof.Machine

/-! ## Input paths -/

def arrKey (i : Nat) : Nat := 128 + i
def State.bindSlot (s : State) (i : Nat) : Nat := s.fld (F.ARR_IN_BIND_SLOT i)
def State.inRate (s : State) (i : Nat) : Nat := s.fld (F.ARR_IN_CTL_RATE i)
/-- FORMAT of a path (R405, R430). -/
def State.inFormat (s : State) (i : Nat) : Nat := if s.fld (F.ARR_IN_CTL_FMT i) = 2 then 3 else s.fld (F.ARR_IN_CTL_FMT i)

/-- The array works: calibrating or ready, not fenced, the device ready. -/
def State.arrOn (s : State) : Bool := (s.unitState 112 == 1 || s.unitState 112 == 2) && !s.fenced 112 && s.ready

/-- A chunk of a path is dropped before admission (R406, R429). -/
def arrDrop (i : Nat) : Prog :=
  look fun s =>
    let slot := s.bindSlot i
    all [incF F.ARR_DROPS,
      logLim (s.slotLimit slot) (arrKey i) 0xB042 0 112 [i, slot, (s.inp (arrKey i)).seq] (some slot)]

def unframePath (i : Nat) : Prog := look fun s => unframe (arrKey i) (s.bindSlot i) (arrDrop i)
def unframeAll : Prog := each (List.range 16) unframePath

/-- The FP32 pattern of a 24-bit sample divided by 2^23 (R405): always exact. -/
def fp32OfSample (v : Nat) : Nat :=
  let x := signedOf 24 v
  let m := x.natAbs
  if m = 0 then 0
  else
    let e := Nat.log2 m
    (if x < 0 then 2 ^ 31 else 0) + (104 + e) * 2 ^ 23 + (m * 2 ^ (23 - e)) % 2 ^ 23

/-- A sample as the path delivers it (R405). -/
def State.sampleBytes (s : State) (i v : Nat) : List Byte :=
  if s.inFormat i = 0 then toBytes 2 (v / 256)
  else if s.inFormat i = 3 then toBytes 4 (fp32OfSample v)
  else bytes24 v s.free

def State.pathFlags (s : State) (i : Nat) : FlagBind × FlagBind :=
  (⟨s.bit (F.ARR_FAB_FLAG_EN0 i), s.bit (F.ARR_FAB_FLAG_RISE0 i), s.fld (F.ARR_FAB_FLAG_LINE0 i)⟩,
   ⟨s.bit (F.ARR_FAB_FLAG_EN1 i), s.bit (F.ARR_FAB_FLAG_RISE1 i), s.fld (F.ARR_FAB_FLAG_LINE1 i)⟩)

/-- R403: the held code takes effect; not while the path is calibrated. -/
def applyGain (i : Nat) : Prog :=
  look fun s => match (s.inp (arrKey i)).gain with
    | some g => when (!inMask s.dev.arr.calIn i) (all [setF (F.ARR_IN_CTL_GAIN i) g,
        modIn (arrKey i) fun x => { x with gain := none, gainWait := 0 }])
    | none => .nop

/-- R403: at a sample boundary a held code takes effect, with ZC once it has waited for 512 samples; a zero crossing before that is
GAIN_APPLY's to report. -/
def gainBoundary (i : Nat) : Prog :=
  all [modIn (arrKey i) fun y => { y with gainWait := if y.gain.isSome then y.gainWait + 1 else 0 },
    look fun s => when (!s.bit (F.ARR_IN_CTL_ZC i) || decide (512 ≤ (s.inp (arrKey i)).gainWait)) (applyGain i)]

/-- R405, R411, R423: one sample of a path: clips are counted; a path in calibration delivers zero, in doubt; under FOLLOW
with ADAPT the array may drop the sample or repeat the one before it. -/
def samplePath (i : Nat) (x : SampleIn) : Prog :=
  look fun s =>
    let v := x.value % 2 ^ 24
    let clip := v == 0x7FFFFF || v == 0x800000
    let cal := inMask s.dev.arr.calIn i
    let slip := if s.bit F.ARR_CLK_CTL_SRC && s.bit F.ARR_CLK_CTL_ADAPT && !s.bit F.ARR_STATUS_SYNTHFB then x.slip else 0
    let slot := s.bindSlot i
    let doubt := (clip && s.bit (F.ARR_IN_CTL_CLIP_SUSPECT i)) || cal || slip == 1 || slip == 2
    let fb := s.pathFlags i
    let bs := s.sampleBytes i (if cal then 0 else v)
    all [when (clip && !cal) (incF (F.ARR_IN_CLIPS i)),
      gainBoundary i,
      when (slip == 1 || slip == 2) (all [incF F.ARR_SLIPS,
        logLim (.turn (s.slotPart slot)) (arrKey i) 0xB041 0 112 [i, slot, (s.inp (arrKey i)).seq] (some slot),
        when (s.inp (arrKey i)).framed (modIn (arrKey i) fun y => { y with cur := { y.cur with suspect := true } })]),
      when (s.bit (F.ARR_IN_BIND_VALID i)) (all [
        when (slip == 2) (addSample (arrKey i) slot fb.1 fb.2 doubt (s.inp (arrKey i)).last),
        when (slip != 1) (addSample (arrKey i) slot fb.1 fb.2 doubt bs)])]

def execSamplingInstant (i : Nat) (x : SampleIn) (s : State) : Host.Outcome State Fault Refusal :=
  done (when (decide (i < 16) && s.arrOn && s.bit (F.ARR_IN_CTL_EN i)) (samplePath i x)) s

/-- LAT_IN and LAT_OUT (R409, R416): 18 or 4 sample periods and 500 ticks. -/
def pathLatency (rate : Nat) (lowlat : Bool) : Nat := (if lowlat then 4 else 18) * 250000000 / rateHz rate + 500

/-- R409: the link files the last sample of a chunk, LAT_IN after the sample's instant, which is the arrival tick. -/
def execArrayChunkStamp (i : Nat) (s : State) : Host.Outcome State Fault Refusal :=
  done (when (decide (i < 16) && s.arrOn) (fileChunk (arrKey i) (s.bindSlot i) 3 (s.inFormat i) (s.inRate i)
    (unitBytes (s.inFormat i)) (pathLatency (s.inRate i) (s.bit (F.ARR_IN_CTL_LOWLAT i))) true (arrDrop i))) s

/-- A write of ARR_IN_CTL_i (R403, R408): GAIN is held for a sample boundary, a code above 120 is ignored; an enable
leaves the path unframed. -/
def writeInCtl (i v : Nat) : Prog :=
  look fun s =>
    let en := bitsOf v 0 1 == 1
    let was := s.bit (F.ARR_IN_CTL_EN i)
    let g := bitsOf v 3 7
    all [setF (F.ARR_IN_CTL_ZC i) (bitsOf v 10 1), setF (F.ARR_IN_CTL_CLIP_SUSPECT i) (bitsOf v 18 1),
      when (g ≤ 120) (modIn (arrKey i) fun x => { x with
        gain := if g = s.fld (F.ARR_IN_CTL_GAIN i) then none else some g, gainWait := 0 }),
      when (en && !was) (all [setB (F.ARR_IN_CTL_EN i) true, modIn (arrKey i) fun x => { x.fresh s.now with gain := x.gain, gainWait := x.gainWait }]),
      when (!en && was) (all [unframePath i, setB (F.ARR_IN_CTL_EN i) false])]

def execArrPathEnable (p : Path) (i : Nat) (v : Word) (s : State) : Host.Outcome State Fault Refusal :=
  done (when (i < 16) (writing p (F.ARR_IN_CTL_EN i).off (writeInCtl i v.toNat))) s

def execGainWrite (p : Path) (i : Nat) (v : Word) (s : State) : Host.Outcome State Fault Refusal :=
  done (when (i < 16) (writing p (F.ARR_IN_CTL_EN i).off (writeInCtl i v.toNat))) s

/-- R403: a sample boundary after a zero crossing of the path's signal. -/
def execGainApply (i : Nat) (s : State) : Host.Outcome State Fault Refusal :=
  done (when (decide (i < 16) && s.arrOn) (applyGain i)) s

/-! ## Timetable entries for the array (R407, R408, R415, R416) -/

def execArrayAlign (part entry : Nat) (old : Bool) (s : State) : Host.Outcome State Fault Refusal :=
  done (onSample part entry old (· == 112) 0 fun _ d =>
    each ((membersOf (bitsOf d.1 16 16) 16).filter fun i => s.bit (F.ARR_IN_CTL_EN i) && s.arrOn) fun i =>
      frameEntry (arrKey i) (s.bindSlot i) (s.inp (arrKey i)).enabledAt) s

def execArrayPlay (part entry : Nat) (old : Bool) (s : State) : Host.Outcome State Fault Refusal :=
  done (onSample part entry old (· == 112) 1 fun _ d => each (membersOf (bitsOf d.1 16 8) 8) fun k =>
    playOut 112 k part (s.fld (F.ARR_OUT_CTL_RATE k))
      (pathLatency (s.fld (F.ARR_OUT_CTL_RATE k)) (s.bit (F.ARR_OUT_CTL_LOWLAT k))) [0, 1, 3]) s

/-- An EMIT entry for a kind of unit. -/
def onEmit (p i : Nat) (h : EmitHow) (unitOk : Nat → Bool) : Prog :=
  onEntryIf p i h.old (fun e => e.kind == 6 && unitOk (bitsOf e.w3 0 8)) fun e =>
    emitGroup h.codes p h.old e.group (bitsOf e.w3 0 8) e.ref

def execEmitArray (part entry : Nat) (how : EmitHow) (s : State) : Host.Outcome State Fault Refusal :=
  done (onEmit part entry how (· == 112)) s

def execEmitHost (part entry : Nat) (how : EmitHow) (s : State) : Host.Outcome State Fault Refusal :=
  done (onEmit part entry how (· == 43)) s

/-- A write of ARR_OUT_CTL_k (R414): the enable leaves NEXT undefined (R415). -/
def writeOutCtl (k v : Nat) : Prog :=
  look fun s =>
    let was := s.bit (F.ARR_OUT_CTL_EN k)
    all [writeFields (F.ARR_OUT_CTL_EN k).off v, when ((bitsOf v 0 1 == 1) != was) (modOut (outKey 112 k) fun _ => {})]

/-! ## Clocking (R411, R412) -/

/-- A write of ARR_CLK_CTL unframes every path and ends a fall-back. -/
def writeArrClk (v : Nat) : Prog :=
  all [unframeAll, writeFields F.ARR_CLK_CTL_SRC.off v, setB F.ARR_STATUS_SYNTHFB false,
    setB F.ARR_STATUS_FOLLOW (bitsOf v 0 1 == 1)]

def execArrClkCtlWrite (p : Path) (v : Word) (s : State) : Host.Outcome State Fault Refusal :=
  done (writing p F.ARR_CLK_CTL_SRC.off (writeArrClk v.toNat)) s

/-- The array follows AMCLK. -/
def State.following (s : State) : Bool := s.bit F.ARR_CLK_CTL_SRC && !s.bit F.ARR_STATUS_SYNTHFB

def execAmclkLost (s : State) : Host.Outcome State Fault Refusal :=
  done (when (s.arrOn && s.following) (all [setB F.ARR_STATUS_SYNTHFB true, setB F.ARR_STATUS_FOLLOW false, unframeAll,
    logC 0xB040 1 112 []])) s

/-- R411: AUDCLK periods per 250,000,000 ticks, in 1/64 of a period. -/
def execFollowRatioMeasure (periods : Nat) (s : State) : Host.Outcome State Fault Refusal :=
  done (when (s.arrOn && s.following) (setF F.ARR_FOLLOW_RATIO_RATIO periods)) s

/-! ## Calibration (R423) -/

/-- Start a calibration of paths. -/
def startCal (inMask_ outMask_ : Nat) : Prog :=
  all [setF F.ARR_CAL_CTL_BUSY 1, modArr fun a => { a with calIn := inMask_, calOut := outMask_ }, declareUnit 112 1]

/-- A write of ARR_CAL_CTL: RUN calibrates the named paths, or sets ERR where one of them is framed for an enabled
partition and FORCE is clear. -/
def writeCalCtl (v : Nat) : Prog :=
  look fun s =>
    let ins := bitsOf v 0 16
    let force := bitsOf v 25 1 == 1
    let held := (membersOf ins 16).any fun i => (s.inp (arrKey i)).framed && s.partOn (s.slotPart (s.bindSlot i))
    all [setF F.ARR_CAL_CTL_INMASK ins, setF F.ARR_CAL_CTL_OUTMASK (bitsOf v 16 8), setB F.ARR_CAL_CTL_FORCE force,
      when (bitsOf v 27 1 == 1) (setF F.ARR_CAL_CTL_ERR 0),
      when (bitsOf v 24 1 == 1) (if (held && !force) || s.bit F.ARR_CAL_CTL_BUSY || !s.arrOn then setF F.ARR_CAL_CTL_ERR 1
        else startCal ins (bitsOf v 16 8))]

def execArrCalRun (p : Path) (v : Word) (s : State) : Host.Outcome State Fault Refusal :=
  done (writing p F.ARR_CAL_CTL_RUN.off (writeCalCtl v.toNat)) s

/-- The trims of one path: written, and the path disabled where they are out of range. -/
def applyTrim (t : Trim) : Prog :=
  if t.out then all [setF (F.ARR_OUT_CAL_OFS t.index) t.ofs, setF (F.ARR_OUT_CAL_GTRIM t.index) t.gtrim,
    when (!t.inRange) (all [setF (F.ARR_OUT_CTL_EN t.index) 0, modOut (outKey 112 t.index) fun _ => {}, logC 0xB048 1 112 []])]
  else all [setF (F.ARR_IN_CAL_OFS t.index) t.ofs, setF (F.ARR_IN_CAL_GTRIM t.index) t.gtrim,
    when (!t.inRange) (all [setF (F.ARR_IN_CTL_EN t.index) 0, logC 0xB048 1 112 []])]

/-- A calibration ends with the trims measured. -/
def calDone (trims : List Trim) : Prog :=
  look fun s => (all [
    each (trims.filter fun t => inMask (if t.out then s.dev.arr.calOut else s.dev.arr.calIn) t.index) applyTrim,
    each (membersOf s.dev.arr.calIn 16) unframePath,
    modArr fun a => { a with calIn := 0, calOut := 0 }, setF F.ARR_CAL_CTL_BUSY 0, logC 0xB047 0 112 [], declareUnit 112 2])

/-! ## Comparators and envelope detectors (R419 to R421, R428) -/

/-- An edge of a comparator: its fabric line follows; an edge that EDGE selects is stamped and counted. -/
def execCmpEdge (j : Nat) (rising : Bool) (s : State) : Host.Outcome State Fault Refusal :=
  done (let e := s.fld (F.ARR_CMP_CTL_EDGE j)
    when (decide (j < 8) && s.arrOn && s.bit (F.ARR_CMP_CTL_EN j)) (all [
      modArr fun a => { a with cmp := setBits a.cmp j 1 (if rising then 1 else 0) },
      when (e == 3 || e == (if rising then 1 else 2)) (all [setF (F.ARR_CMP_STAMP_LO j) s.now,
        setF (F.ARR_CMP_STAMP_HI j) (s.now / 2 ^ 32), incF (F.ARR_CMP_EDGES j)]),
      fabSettle])) s

/-- R420, R421: ABOVE sets; in REST, and during its entry, a detector with WAKE wakes the device. -/
def envAbove (m : Nat) : Prog :=
  look fun s => all [setB (F.ARR_ENV_STAT_ABOVE m) true, fabSettle,
    when ((s.inRest || s.devState == 2) && s.bit (F.ARR_ENV_CTL_WAKE m)) (all [
      setB (F.ARR_ENV_STAT_WOKE m) true, logC 0xB046 0 112 [],
      orderCycle [{ src := .wake, kind := kWake, unit := 0, arg := 3 }]])]

def State.envOn (s : State) (m : Nat) : Bool :=
  decide (m < 4) && !s.dev.pwr.por && !s.heldReset && s.bit (F.ARR_ENV_CTL_EN m)

def execEnvAbove (m : Nat) (s : State) : Host.Outcome State Fault Refusal := done (when (s.envOn m) (envAbove m)) s

def execEnvBelow (m : Nat) (s : State) : Host.Outcome State Fault Refusal :=
  done (when (s.envOn m) (all [setB (F.ARR_ENV_STAT_ABOVE m) false, fabSettle])) s

/-! ## The fabric (R442 to R451) -/

/-- The pins are released (R450). -/
def releasePins : Prog :=
  look fun s => when (!s.dev.fab.released) (all [modFab fun f => { f with released := true, releaseDue := false },
    setB F.ARR_FAB_STATUS_RELEASED true, logC 0xB063 0 113 []])

/-- Whether the segment's AUTO_REL is set. -/
def Fabric.autoRel (f : Fabric) : Bool := bitsOf (c32 f.cfg 4) 7 1 == 1

/-- The fabric moves to RUNNING; with AUTO_REL its pins are released. -/
def fabRun : Prog := look fun s => all [declareUnit 113 2, modFab fun f => { f with ran := true }, when s.dev.fab.autoRel releasePins]

/-- RESET (R445): block memories with their outputs, and the synchroniser of SWIN, stay. -/
def Fabric.cleared (f : Fabric) : Fabric :=
  { f with regs := f.regs.filter fun x => decide (0x50000 ≤ x.1) }

/-- A write of ARR_FAB_CTL (R445, R450, R457). -/
def writeFabCtl (v : Nat) : Prog :=
  look fun s =>
    let hold := bitsOf v 0 1 == 1
    all [setB F.ARR_FAB_CTL_HOLD hold,
      when (s.fabOn && bitsOf v 1 1 == 1) (modFab Fabric.cleared),
      when (s.fabOn && bitsOf v 2 1 == 1) (modFab fun f => { f with releaseDue := !f.released }),
      when (s.fabOn && hold) (declareUnit 113 1), when (s.fabOn && !hold && s.unitState 113 == 1) fabRun,
      fabSettle]

def execFabHold (p : Path) (v : Word) (s : State) : Host.Outcome State Fault Refusal :=
  done (writing p F.ARR_FAB_CTL_HOLD.off (writeFabCtl v.toNat)) s

def execFabReset (p : Path) (v : Word) (s : State) : Host.Outcome State Fault Refusal :=
  done (writing p F.ARR_FAB_CTL_HOLD.off (writeFabCtl v.toNat)) s

def execFabRelease (p : Path) (v : Word) (s : State) : Host.Outcome State Fault Refusal :=
  done (writing p F.ARR_FAB_CTL_HOLD.off (writeFabCtl v.toNat)) s

/-- One edge, with the levels at the pins (R432, R442, R450). -/
def fabEdge (e : FabEdge) : Prog :=
  let fabclk := e.clk == .fabclk
  all [modFab fun f => { f with pins := e.pins % 2 ^ 48 }, fabSettle,
    look fun s => when (e.clk != .pins) (modFab fun f =>
      { (f.edge s.fabIn e (if e.near then some s.free else none)) with
        clkHigh := if fabclk then e.rising else f.clkHigh,
        edgeAt := if fabclk then s.now else f.edgeAt, clkLost := if fabclk then false else f.clkLost }),
    .act .draw,
    look fun s => when (fabclk && s.dev.fab.releaseDue) releasePins, fabSettle]

def execFabclkEdge (e : FabEdge) (s : State) : Host.Outcome State Fault Refusal :=
  done (when (s.fabOn && s.ready) (fabEdge e)) s

def execFabClkLost (s : State) : Host.Outcome State Fault Refusal :=
  done (when (s.fabOn && s.ready && !s.dev.fab.clkLost && s.reached (s.dev.fab.edgeAt + 250))
    (all [modFab fun f => { f with clkLost := true }, logC 0xB062 1 113 []])) s

/-- R451: a rising edge of UCATCH is counted. -/
def execUcatchEdge (s : State) : Host.Outcome State Fault Refusal :=
  done (when (s.fabOn && s.ready && s.dev.fab.ucRises != 0) (all [modFab fun f => { f with ucRises := f.ucRises - 1 }, incF F.ARR_FAB_UCATCHES,
    logLim (.ticks 250000) 0 0xB061 0 113 [s.fld F.ARR_FAB_SWOUT]])) s

/-- The keys of the 36 bits of a word of the memory window (R446). -/
def windowBits (s : State) : List Nat := memBits (s.fld F.ARR_FAB_MSEL_MEM) 5 (s.fld F.ARR_FAB_MSEL_ADDR)

/-- The window works only while HOLD is set in a configured fabric. -/
def State.windowOn (s : State) : Bool := s.fabOn && s.bit F.ARR_FAB_CTL_HOLD

def readMdata : Prog :=
  look fun s => when s.windowOn (
    let v := natOfBits ((windowBits s).map s.dev.fab.memBit)
    all [setWord F.ARR_FAB_MDATA_LO.off (v % 2 ^ 32), setF F.ARR_FAB_MDATA_HI (v / 2 ^ 32)])

/-- A write of MDATA_HI writes the whole word. -/
def writeMdataHi (p : Path) (v : Nat) : Prog :=
  look fun s =>
    if s.windowOn then
      let w := s.fld F.ARR_FAB_MDATA_LO + 2 ^ 32 * (v % 16)
      all [setF F.ARR_FAB_MDATA_HI v, modFab fun f => f.setMems ((windowBits s).zipIdx.map fun x => (x.1, inMask w x.2)), fabSettle]
    else all [noteDropped, badAccess p]

/-- A write of MDATA_LO holds its bits. -/
def writeMdataLo (p : Path) (v : Nat) : Prog :=
  look fun s => if s.windowOn then setWord F.ARR_FAB_MDATA_LO.off v else all [noteDropped, badAccess p]

def execFabMdataWrite (p : Path) (v : Word) (s : State) : Host.Outcome State Fault Refusal :=
  done (writing p F.ARR_FAB_MDATA_HI.off (writeMdataHi p v.toNat)) s

end Sys2Proof.Machine
end

