-- ==== Sys2Proof/Machine/Fp.lean ====
section
/-!
DEFINITION. Sys2Proof/Machine/Fp.lean: the number formats of R150 and exact arithmetic on their values: every operation is
computed exactly and rounded once (R129, R162, R166).
-/
namespace Sys2Proof.Machine

/-- A value of a floating-point format: NaN (with `true` a signalling one), an infinity, or the exact number m × 2^e with its
sign; zero keeps its sign. -/
inductive Val where
  | nan (signalling : Bool)
  | inf (neg : Bool)
  | fin (neg : Bool) (m : Nat) (e : Int)
  deriving DecidableEq, Repr

/-- The layout of a floating-point format: exponent and fraction bits, bias, and its codes for infinity and NaN: `ieee` keeps
the top exponent for them, as every format but FP4 and E4M3 does (R150). -/
structure Format where
  eb : Nat
  mb : Nat
  bias : Int
  ieee : Bool
  /-- the pattern of the largest finite value -/
  top : Nat
  /-- the canonical NaN (R129, R166) -/
  nan : Nat
  deriving DecidableEq, Repr

def fp32 : Format := ⟨8, 23, 127, true, 0x7F7FFFFF, 0x7FC00000⟩
def bf16 : Format := ⟨8, 7, 127, true, 0x7F7F, 0x7FC0⟩
def fp16 : Format := ⟨5, 10, 15, true, 0x7BFF, 0x7E00⟩
def e5m2 : Format := ⟨5, 2, 15, true, 0x7B, 0x7E⟩
def e4m3 : Format := ⟨4, 3, 7, false, 0x7E, 0x7F⟩
def fp4 : Format := ⟨2, 1, 1, false, 0x7, 0x7⟩

def Format.width (f : Format) : Nat := 1 + f.eb + f.mb
def Format.emin (f : Format) : Int := 1 - f.bias
/-- The pattern of +∞, for a format that has one. -/
def Format.infPat (f : Format) : Nat := f.top + 1

/-- The value of a pattern (R150). -/
def Format.value (f : Format) (n : Nat) : Val :=
  let neg := bitsOf n (f.eb + f.mb) 1 == 1
  let ex := bitsOf n f.mb f.eb
  let m := bitsOf n 0 f.mb
  if f.ieee && ex == 2 ^ f.eb - 1 then (if m = 0 then .inf neg else .nan (bitsOf n (f.mb - 1) 1 == 0))
  else if !f.ieee && f.mb == 3 && bitsOf n 0 7 == 0x7F then .nan false
  else if ex = 0 then .fin neg m (f.emin - f.mb)
  else .fin neg (2 ^ f.mb + m) (ex - f.bias - f.mb)

/-- The two's-complement integer of `w` bits as a value. -/
def intValue (w n : Nat) : Val :=
  let i := signedOf w n
  .fin (i < 0) i.natAbs 0

/-! ## Exact arithmetic -/

def Val.isZero : Val → Bool
  | .fin _ m _ => m == 0
  | _ => false
def Val.isNan : Val → Bool
  | .nan _ => true
  | _ => false
def Val.isSnan : Val → Bool
  | .nan g => g
  | _ => false
def Val.isInf : Val → Bool
  | .inf _ => true
  | _ => false
def Val.isNeg : Val → Bool
  | .nan _ => false
  | .inf n => n
  | .fin n _ _ => n

def Val.neg : Val → Val
  | .nan g => .nan g
  | .inf n => .inf (!n)
  | .fin n m e => .fin (!n) m e

def Val.abs : Val → Val
  | .nan g => .nan g
  | .inf _ => .inf false
  | .fin _ m e => .fin false m e

/-- The exact product; NaN for a NaN factor and for zero times infinity. -/
def Val.mul (a b : Val) : Val :=
  match a, b with
  | .nan _, _ => .nan false
  | _, .nan _ => .nan false
  | .inf x, .inf y => .inf (x != y)
  | .inf x, .fin y m _ => if m = 0 then .nan false else .inf (x != y)
  | .fin x m _, .inf y => if m = 0 then .nan false else .inf (x != y)
  | .fin x m e, .fin y n f => .fin (x != y) (m * n) (e + f)

/-- The signed mantissa of a finite value at exponent `e`, where `e` is at most the value's own. -/
def mantAt (neg : Bool) (m : Nat) (e0 e : Int) : Int :=
  let k : Int := (m * 2 ^ (e0 - e).toNat : Nat)
  if neg then -k else k

/-- The exact sum; NaN for a NaN and for infinities of opposite sign. A sum of opposite values is +0, or −0 when rounding
is downward (`down`), as IEEE 754 has it. -/
def Val.add (down : Bool) (a b : Val) : Val :=
  match a, b with
  | .nan _, _ => .nan false
  | _, .nan _ => .nan false
  | .inf x, .inf y => if x = y then .inf x else .nan false
  | .inf x, .fin _ _ _ => .inf x
  | .fin _ _ _, .inf y => .inf y
  | .fin x m e, .fin y n f =>
    if m = 0 && n == 0 then .fin (if x = y then x else down) 0 0
    else
      let g := min e f
      let t := mantAt x m e g + mantAt y n f g
      if t = 0 then .fin down 0 0 else .fin (decide (t < 0)) t.natAbs g

/-- Whether a < b, for values neither of which is NaN. -/
def Val.lt (a b : Val) : Bool :=
  match a, b with
  | .inf x, .inf y => x && !y
  | .inf x, .fin _ _ _ => x
  | .fin _ _ _, .inf y => !y
  | .fin x m e, .fin y n f => let g := min e f; decide (mantAt x m e g < mantAt y n f g)
  | _, _ => false

/-- Whether a = b as numbers, for values neither of which is NaN; the zeros are equal. -/
def Val.eq (a b : Val) : Bool := !a.isNan && !b.isNan && !a.lt b && !b.lt a

/-! ## Rounding -/

/-- The rounding codes of R123 and R161. -/
inductive Rnd where
  | nearest | zero | up | down
  deriving DecidableEq, Repr

def rndOf (n : Nat) : Rnd := if n = 0 then .nearest else if n = 1 then .zero else if n = 2 then .up else .down

/-- m / 2^k rounded to an integer; the sign tells the directed modes which way away from zero lies. -/
def roundMag (r : Rnd) (neg : Bool) (m k : Nat) : Nat :=
  let q := m / 2 ^ k
  let x := m % 2 ^ k
  let up := match r with
    | .nearest => decide (2 ^ k < 2 * x) || (2 * x == 2 ^ k && q % 2 == 1)
    | .zero => false
    | .up => !neg && x != 0
    | .down => neg && x != 0
  if up then q + 1 else q

/-- The IEEE 754 flags that an operation raises; the `open` ones may or may not be raised (the standard or the spec leaves
it open). -/
structure Raised where
  nv : Bool := false
  dz : Bool := false
  of : Bool := false
  uf : Bool := false
  nx : Bool := false
  openNv : Bool := false
  openOf : Bool := false
  openUf : Bool := false
  openNx : Bool := false
  deriving DecidableEq, Repr

def Raised.or (a b : Raised) : Raised :=
  ⟨a.nv || b.nv, a.dz || b.dz, a.of || b.of, a.uf || b.uf, a.nx || b.nx, a.openNv || b.openNv, a.openOf || b.openOf,
    a.openUf || b.openUf, a.openNx || b.openNx⟩

/-- A finite magnitude m × 2^e rounded to the precision of a format, without bound above: the pattern that counts up
through the exponents, the exponent of its quantum, and whether it is inexact. -/
def Format.quantum (f : Format) (m : Nat) (e : Int) : Int := max (m.log2 + e) f.emin - f.mb

def Format.pattern (f : Format) (r : Rnd) (neg : Bool) (m : Nat) (e : Int) : Nat :=
  let qe := f.quantum m e
  let q := if qe ≤ e then m * 2 ^ (e - qe).toNat else roundMag r neg m (qe - e).toNat
  (qe - (f.emin - f.mb)).toNat * 2 ^ f.mb + q

def Format.inexact (f : Format) (m : Nat) (e : Int) : Bool :=
  let qe := f.quantum m e
  decide (e < qe) && m % 2 ^ (qe - e).toNat != 0

def Format.signed (f : Format) (neg : Bool) (p : Nat) : Nat := if neg then p + 2 ^ (f.eb + f.mb) else p

/-- Whether overflow under rounding `r` goes to the largest finite value and not beyond it (IEEE 754, R166). -/
def staysFinite (r : Rnd) (neg : Bool) : Bool :=
  match r with
  | .nearest => false
  | .zero => true
  | .up => neg
  | .down => !neg

/-- A finite value in a format: what happens beyond the largest finite value is the caller's (`big`, given the sign). -/
def Format.roundFin (f : Format) (r : Rnd) (ftz : Bool) (big : Bool → Nat) (neg : Bool) (m : Nat) (e : Int) : Nat × Raised :=
  if m = 0 then (f.signed neg 0, {})
  else
    let p := f.pattern r neg m e
    let nx := f.inexact m e
    let tiny := decide ((m.log2 : Int) + e < f.emin)
    if f.top < p then (big neg, { of := true, nx := true })
    else if p < 2 ^ f.mb && ftz then (f.signed neg 0, { uf := nx, nx := nx, openUf := true, openNx := true })
    else (f.signed neg p, { nx := nx, uf := nx && tiny && decide (p < 2 ^ f.mb), openUf := nx && tiny })

/-- Overflow as IEEE 754 has it, in a format with infinities. -/
def Format.ieeeOver (f : Format) (r : Rnd) (neg : Bool) : Nat := f.signed neg (if staysFinite r neg then f.top else f.infPat)

/-- A value rounded once into an IEEE format (R129); with FTZ a subnormal result is flushed to signed zero. -/
def Format.round (f : Format) (r : Rnd) (ftz : Bool) (v : Val) : Nat × Raised :=
  match v with
  | .nan _ => (f.nan, {})
  | .inf n => (f.signed n f.infPat, {})
  | .fin n m e => f.roundFin r ftz (f.ieeeOver r) n m e

/-! ## FP32 operations of the vector engine (R123, R129) -/

/-- What an instruction sees of TSQ_MODE. -/
structure FMode where
  rnd : Rnd := .nearest
  ftz : Bool := false
  sat : Bool := false
  deriving DecidableEq, Repr

def fmodeOf (mode : Nat) : FMode := ⟨rndOf (bitsOf mode 0 2), bitsOf mode 2 1 == 1, bitsOf mode 3 1 == 1⟩

/-- An operand: with FTZ a subnormal input is signed zero. -/
def operand (ftz : Bool) (n : Nat) : Val :=
  if ftz && bitsOf n 23 8 == 0 then .fin (bitsOf n 31 1 == 1) 0 0 else fp32.value n

def snan (l : List Val) : Raised := { nv := l.any Val.isSnan }

/-- Round an exact result of FP32 operands; `bad` says that the operation itself was invalid. -/
def fresult (md : FMode) (ops : List Val) (bad : Bool) (v : Val) : Nat × Raised :=
  let r := fp32.round md.rnd md.ftz v
  (r.1, r.2.or { snan ops with nv := (snan ops).nv || bad })

def fmulAdd (md : FMode) (a b c : Val) : Nat × Raised :=
  let p := a.mul b
  let badMul := p.isNan && !a.isNan && !b.isNan
  let badAdd := p.isInf && c.isInf && p.isNeg != c.isNeg
  let r := fresult md [a, b, c] ((badMul && !c.isNan) || badAdd) (p.add (md.rnd == .down) c)
  (r.1, r.2.or { openNv := badMul && c.isNan })

def fadd (md : FMode) (a b : Val) : Nat × Raised :=
  fresult md [a, b] (a.isInf && b.isInf && a.isNeg != b.isNeg) (a.add (md.rnd == .down) b)

def fmul (md : FMode) (a b : Val) : Nat × Raised :=
  let p := a.mul b
  fresult md [a, b] (p.isNan && !a.isNan && !b.isNan) p

/-- FMAX, or with `low` FMIN: the other operand where one is NaN; which zero results from two zeros of opposite sign is
open. -/
def fmax (md : FMode) (low : Bool) (a b : Val) : Nat × Raised :=
  let v :=
    if a.isNan then b else if b.isNan then a
    else if a.isZero && b.isZero then (if Config.zeroPick low a.isNeg then a else b)
    else if low then (if a.lt b then a else b) else (if a.lt b then b else a)
  fresult md [a, b] false v

/-! ## Reciprocals, which ignore RND (R129) -/

/-- The pattern of the largest FP32 value not above 1/x, for x = m × 2^e, or none where 1/x is 2^128 or more; whether that
value is 1/x itself. -/
def recipFloor (m : Nat) (e : Int) : Option (Nat × Bool) :=
  let k := m.log2 + 25
  let q := 2 ^ (2 * k) / m
  let ex := 2 ^ (2 * k) % m = 0
  let p := fp32.pattern .zero false q (-(2 * k : Nat) - e)
  if fp32.top < p then none else some (p, ex && !fp32.inexact q (-(2 * k : Nat) - e))

/-- The pattern of the largest FP32 value not above 1/√x, for x = m × 2^e with e even, and whether it is 1/√x itself. -/
def rsqFloor (m : Nat) (e : Int) : Nat × Bool :=
  let k := m.log2 + 60
  let q := Nat.sqrt (2 ^ (2 * k) / m)
  let g := -(k : Nat) - e / 2
  (fp32.pattern .zero false q g, decide (q * q * m = 2 ^ (2 * k)) && !fp32.inexact q g)

/-- Any value within 1 ulp of an exact result that lies at or just above a pattern: the part decides which (R129). -/
def within1 (choice : Nat) (p : Nat) (exact : Bool) : Nat :=
  if choice % 3 = 0 then p else if choice % 3 = 1 then p + 1 else if exact then p - 1 else p

/-- What these functions leave open: whether OF, UF and NX are raised. -/
def openFlags : Raised := { openOf := true, openUf := true, openNx := true }

def flush32 (ftz : Bool) (p : Nat) : Nat := if ftz && bitsOf p 23 8 == 0 then p / 2 ^ 31 * 2 ^ 31 else p

def frcp (md : FMode) (n : Nat) : Nat × Raised :=
  match operand md.ftz n with
  | .nan g => (fp32.nan, { nv := g })
  | .inf s => (fp32.signed s 0, {})
  | .fin s m e =>
    if m = 0 then (fp32.signed s fp32.infPat, { dz := true })
    else match recipFloor m e with
      | none => (fp32.signed s fp32.infPat, openFlags)
      | some (p, ex) => (fp32.signed s (flush32 md.ftz (within1 (Config.frcp (BitVec.ofNat 32 n)).toNat p ex)), openFlags)

def frsq (md : FMode) (n : Nat) : Nat × Raised :=
  match operand md.ftz n with
  | .nan g => (fp32.nan, { nv := g })
  | .inf s => if s then (fp32.nan, { nv := true }) else (0, {})
  | .fin s m e =>
    if m = 0 then (fp32.signed s fp32.infPat, { dz := true })
    else if s then (fp32.nan, { nv := true })
    else
      let x := if e % 2 = 0 then rsqFloor m e else rsqFloor (2 * m) (e - 1)
      (within1 (Config.frsq (BitVec.ofNat 32 n)).toNat x.1 x.2, openFlags)

/-! ## Conversions (R129, R388) -/

/-- FP32 to a format and back to FP32 form, without stochastic rounding; `free` is what the spec leaves open: what E4M3
makes of a value beyond its range. -/
def roundVia (f : Format) (md : FMode) (free n : Nat) : Nat × Raised :=
  let back (p : Nat) : Nat := (fp32.round .zero false (f.value p)).1
  match operand md.ftz n with
  | .nan g => (fp32.nan, { nv := g })
  | .inf s => (if f.ieee then fp32.signed s fp32.infPat else free, {})
  | .fin s m e =>
    let p := f.pattern md.rnd s m e
    if !f.ieee && m != 0 && f.top < p then (free, { of := true, nx := true })
    else
      let r := f.roundFin md.rnd false (f.ieeeOver md.rnd) s m e
      (back r.1, r.2)

/-- The random word of element i (R389). -/
def srWord (keyLo keyHi ctr i : Nat) : Nat :=
  let m (x : Nat) : Nat := x % 2 ^ 32
  let h := keyLo ^^^ m (ctr * 0x9E3779B9) ^^^ m (i * 0x85EBCA6B)
  let h := h ^^^ keyHi
  let h := m ((h ^^^ (h >>> 16)) * 0x85EBCA6B)
  let h := m ((h ^^^ (h >>> 13)) * 0xC2B2AE35)
  h ^^^ (h >>> 16)

/-- Stochastic rounding of an FP32 value into a format, in FP32 form (R388). -/
def roundSr (f : Format) (md : FMode) (u n : Nat) : Nat × Raised :=
  match operand md.ftz n with
  | .nan g => (fp32.nan, { nv := g })
  | .inf s => (fp32.signed s fp32.infPat, {})
  | .fin s m e =>
    if m = 0 then (fp32.signed s 0, {})
    else
      let qe := f.quantum m e
      let k := (qe - e).toNat
      let t := if qe ≤ e then m * 2 ^ (e - qe).toNat else m / 2 ^ k
      let d := if qe ≤ e then 0 else m % 2 ^ k * 2 ^ 32 / 2 ^ k
      let q := if d + u < 2 ^ 32 then t else t + 1
      let p := (qe - (f.emin - f.mb)).toNat * 2 ^ f.mb + q
      let nx := f.inexact m e
      if f.top < p then
        ((if md.sat then (fp32.round .zero false (f.value (f.signed s f.top))).1
          else if f.ieee then fp32.signed s fp32.infPat else fp32.nan), { of := true, nx := true })
      else ((fp32.round .zero false (f.value (f.signed s p))).1, { nx := nx })

/-- FP32 to a 32-bit integer (F2I): rounded by RND; beyond the range it saturates under SAT and wraps otherwise. `free`
stands for what is open: NaN, and an infinity that cannot wrap. -/
def toInt (md : FMode) (w free n : Nat) : Nat × Raised :=
  match operand md.ftz n with
  | .nan _ => (free, { nv := true })
  | .inf s => (if md.sat then (if s then 2 ^ (w - 1) else 2 ^ (w - 1) - 1) else free, { nv := true })
  | .fin s m e =>
    let q := if 0 ≤ e then m * 2 ^ e.toNat else roundMag md.rnd s m (-e).toNat
    let nx := decide (e < 0) && m % 2 ^ (-e).toNat != 0
    let i : Int := if s then -(q : Int) else q
    let lo : Int := -(2 ^ (w - 1) : Nat)
    let hi : Int := (2 ^ (w - 1) : Nat) - 1
    if i < lo || hi < i then
      (patternOf w (if md.sat then max lo (min hi i) else i), { nv := true })
    else (patternOf w i, { nx := nx })

/-- A 32-bit integer to FP32 (I2F). -/
def ofInt (md : FMode) (n : Nat) : Nat × Raised := fp32.round md.rnd md.ftz (intValue 32 n)

/-- FP32 to the 16-bit float of a narrowing store (R117, R123): SAT replaces what overflows by the largest finite value. -/
def narrowFloat (f : Format) (md : FMode) (n : Nat) : Nat × Raised :=
  match operand md.ftz n with
  | .nan g => (f.nan, { nv := g })
  | .inf s => (f.signed s f.infPat, {})
  | .fin s m e => f.roundFin md.rnd md.ftz (fun s => if md.sat then f.signed s f.top else f.ieeeOver md.rnd s) s m e

/-- INT32 to the narrow integer of a narrowing store. -/
def narrowInt (w : Nat) (md : FMode) (n : Nat) : Nat :=
  let i := signedOf 32 n
  let lo : Int := -(2 ^ (w - 1) : Nat)
  let hi : Int := (2 ^ (w - 1) : Nat) - 1
  patternOf w (if md.sat then max lo (min hi i) else i)

end Sys2Proof.Machine
end

