-- ==== Sys2Proof/Machine/Elementary.lean ====
section
/-!
DEFINITION. Sys2Proof/Machine/Elementary.lean: FEXP2, FLOG2 and FTANH (R129): the exact value computed to far more bits than an ulp,
and whatever the part gives within 2 ulp of it. Like FRCP and FRSQ they ignore RND. Fixed-point numbers have 192 fraction bits; how
far the series here are cut off lies below 2^-120 (log entry 128).
-/
namespace Sys2Proof.Machine

def fixOne : Nat := 2 ^ 192
/-- The slack taken for what the series leave out. -/
def fixSlack : Nat := 2 ^ 72
/-- ln 2. -/
def fixLn2 : Nat := 0xb17217f7d1cf79abc9e3b39803f2f6af40f343267298b62d

/-- The terms of Σ yⁱ / i! from number `k` on, `t` being that term. -/
def expSeries (y : Nat) : Nat → Nat → Nat → Nat
  | 0, _, _ => 0
  | n + 1, k, t => t + expSeries y n (k + 1) (t * y / fixOne / (k + 1))
/-- e^y for 0 ≤ y < 1. -/
def fixExp (y : Nat) : Nat := expSeries y 48 0 fixOne

/-- The terms of Σ r²ⁱ⁺¹ / (2i + 1) from number `k` on, `t` being r²ᵏ⁺¹. -/
def atanhSeries (r2 : Nat) : Nat → Nat → Nat → Nat
  | 0, _, _ => 0
  | n + 1, k, t => t / (2 * k + 1) + atanhSeries r2 n (k + 1) (t * r2 / fixOne)
/-- log₂ of m / 2^L for 2^L ≤ m < 2^(L + 1). -/
def fixLog2 (m : Nat) : Nat :=
  let l := 2 ^ m.log2
  let r := (m - l) * fixOne / (m + l)
  2 * atanhSeries (r * r / fixOne) 64 0 r * fixOne / fixLn2

/-- Where an exact magnitude lies among the FP32 patterns, counted on through and beyond the exponents: the largest pattern not above
it, as far as the slack leaves that open the least and the greatest candidate; and whether it is a pattern itself. -/
structure Near where
  lo : Nat
  hi : Nat
  exact : Bool := false
  deriving DecidableEq, Repr

/-- The place of v × 2^e, known to within the slack. -/
def nearOf (v : Nat) (e : Int) : Near := { lo := fp32.pattern .zero false (v - fixSlack) e, hi := fp32.pattern .zero false (v + fixSlack) e }

/-- The place of a number that is exactly m × 2^e. -/
def nearExact (m : Nat) (e : Int) : Near :=
  let p := if m = 0 then 0 else fp32.pattern .zero false m e
  { lo := p, hi := p, exact := m = 0 || !fp32.inexact m e }

/-- What the part gives, where it lies within 2 ulp of the exact magnitude and not above `cap`; otherwise a value that does. -/
def Near.pick (x : Near) (cap choice : Nat) : Nat :=
  let a := x.hi - (if x.exact then 2 else 1)
  if a ≤ choice && choice ≤ min cap (x.lo + 2) then choice else min cap x.lo

/-- 2^x for x = ±m × 2^e. -/
def exp2Near (neg : Bool) (m : Nat) (e : Int) : Near :=
  if m = 0 then nearExact 1 0
  else if 8 ≤ (m.log2 : Int) + e then (if neg then { lo := 0, hi := 0 } else nearExact 1 512)
  else
    let x : Int := mantAt neg m e (-192)
    let i : Int := x / (fixOne : Int)
    let f := (x % (fixOne : Int)).toNat
    if f = 0 then nearExact 1 i else nearOf (fixExp (f * fixLn2 / fixOne)) (i - 192)

/-- |log₂ x| for x = m × 2^e with m not zero, and whether the logarithm is negative. -/
def log2Near (m : Nat) (e : Int) : Bool × Near :=
  let k : Int := m.log2 + e
  if m = 2 ^ m.log2 then (decide (k < 0), nearExact k.natAbs 0)
  else
    let t : Int := k * (fixOne : Int) + fixLog2 m
    (decide (t < 0), nearOf t.natAbs (-192))

/-- |tanh x| for |x| = m × 2^e: below 2^-13 it is less than x by less than an ulp; from 16 on less than 1 by less than an ulp;
otherwise (E − 1) / (E + 1) with E = e^2x. -/
def tanhNear (m : Nat) (e : Int) : Near :=
  if m = 0 then nearExact 0 0
  else
    let g : Int := m.log2 + e
    if g < -13 then let p := fp32.pattern .zero false m e - 1; { lo := p, hi := p }
    else if 4 ≤ g then { lo := 0x3F7FFFFF, hi := 0x3F7FFFFF }
    else
      let y := m * 2 ^ (193 + e).toNat
      let x := fixExp (y % fixLn2) * 2 ^ (y / fixLn2)
      nearOf ((x - fixOne) * fixOne / (x + fixOne)) (-192)

/-- A result with its sign; near zero the part's own. -/
def elementary (md : FMode) (neg : Bool) (cap : Nat) (x : Near) (w : BitVec 32) : Nat :=
  let n := if x.exact && x.lo == 0 then bitsOf w.toNat 31 1 == 1 else neg
  fp32.signed n (flush32 md.ftz (x.pick cap (bitsOf w.toNat 0 31)))

def fexp2 (md : FMode) (n : Nat) : Nat × Raised :=
  match operand md.ftz n with
  | .nan g => (fp32.nan, { nv := g })
  | .inf s => (if s then 0 else fp32.infPat, {})
  | .fin s m e => (elementary md false fp32.infPat (exp2Near s m e) (Config.fexp2 (BitVec.ofNat 32 n)), openFlags)

def flog2 (md : FMode) (n : Nat) : Nat × Raised :=
  match operand md.ftz n with
  | .nan g => (fp32.nan, { nv := g })
  | .inf s => if s then (fp32.nan, { nv := true }) else (fp32.infPat, {})
  | .fin s m e =>
    if m = 0 then (fp32.signed true fp32.infPat, { dz := true })
    else if s then (fp32.nan, { nv := true })
    else let l := log2Near m e; (elementary md l.1 fp32.infPat l.2 (Config.flog2 (BitVec.ofNat 32 n)), openFlags)

def ftanh (md : FMode) (n : Nat) : Nat × Raised :=
  match operand md.ftz n with
  | .nan g => (fp32.nan, { nv := g })
  | .inf s => (fp32.signed s 0x3F800000, {})
  | .fin s m e => (elementary md s 0x3F800000 (tanhNear m e) (Config.ftanh (BitVec.ofNat 32 n)), openFlags)

end Sys2Proof.Machine
end

