-- ==== Sys2Proof/Machine/TileDecode.lean ====
section
/-!
DEFINITION. Sys2Proof/Machine/TileDecode.lean: the 64-bit tile instructions (R116, R117): which row of the table a word is,
its pipe, and the registers it reads and writes.
-/
namespace Sys2Proof.Machine

/-- The rows of R117. -/
inductive TOp where
  | nop | end_ | mset | fence | tick | chk | hdr | cdone | brk
  | branch | call | ret | loop | setvl
  | add | sub | mul | and | or | xor | shl | shr | sar | min | max | minu | maxu | slt | sltu | movhi
  | ld32 | ld64 | st32 | st64
  | fadd | fsub | fmul | fma | fms | fmax | fmin | fabs | fneg | frcp | frsq | fexp2 | flog2 | ftanh | fsel | fmov
  | iadd | isub | imul | iand | ior | ixor | ishl | ishr | isar | imax | imin | viota
  | vld | vst | vlds | vsts | vldx | vstx
  | fclt | fcle | fceq | fcun | iclt | iceq | mand | mor | mxor | mnot | mpop | mfirst
  | f2i | i2f | rbf16 | rfp16 | re4m3 | re5m2
  | fsum | fmaxr | fminr | isum | vperm | vrot | vbcast | vext | vins
  | rcp | missue | mwait | xget | xput | xwait
  deriving DecidableEq, Repr

def classOf (w : Nat) : Nat := bitsOf w 60 4
def opcOf (w : Nat) : Nat := bitsOf w 52 8

def sysOps : List TOp := [.nop, .end_, .mset, .fence, .tick, .chk, .hdr, .cdone, .brk]
def saluOps : List TOp :=
  [.add, .sub, .mul, .and, .or, .xor, .shl, .shr, .sar, .min, .max, .minu, .maxu, .slt, .sltu, .movhi]
def smemOps : List TOp := [.ld32, .ld64, .st32, .st64]
def fpOps : List TOp :=
  [.fadd, .fsub, .fmul, .fma, .fms, .fmax, .fmin, .fabs, .fneg, .frcp, .frsq, .fexp2, .flog2, .ftanh, .fsel, .fmov]
def intOps : List TOp := [.iadd, .isub, .imul, .iand, .ior, .ixor, .ishl, .ishr, .isar, .imax, .imin, .viota]
def vmemOps : List TOp := [.vld, .vst, .vlds, .vsts, .vldx, .vstx]
def vmskOps : List TOp := [.fclt, .fcle, .fceq, .fcun, .iclt, .iceq, .mand, .mor, .mxor, .mnot, .mpop, .mfirst]
def vcvtOps : List TOp := [.f2i, .i2f, .rbf16, .rfp16, .re4m3, .re5m2]
def vredOps : List TOp := [.fsum, .fmaxr, .fminr, .isum, .vperm, .vrot, .vbcast, .vext, .vins]

/-- The row of a word by its class and OP code; none for a code that the table does not define. -/
def opOf (w : Nat) : Option TOp :=
  match classOf w with
  | 0x0 => sysOps[opcOf w]?
  | 0x1 => let c := bitsOf w 56 4; if c < 7 then some .branch else if c = 7 then some .call else if c = 8 then some .ret else none
  | 0x2 => if bitsOf w 58 2 = 3 then none else some .loop
  | 0x3 => saluOps[opcOf w]?
  | 0x4 => smemOps[opcOf w]?
  | 0x5 => if opcOf w < 0x20 then fpOps[opcOf w]? else intOps[opcOf w - 0x20]?
  | 0x6 => vmemOps[opcOf w]?
  | 0x7 => vmskOps[opcOf w]?
  | 0x8 => vcvtOps[opcOf w]?
  | 0x9 => vredOps[opcOf w]?
  | 0xA => some .rcp
  | 0xB => [TOp.missue, .mwait][opcOf w]?
  | 0xC => [TOp.xget, .xput, .xwait][opcOf w]?
  | 0xD => some .setvl
  | _ => none

/-! ## Fields (R117) -/

def fSD (w : Nat) : Nat := bitsOf w 47 5
def fSA (w : Nat) : Nat := bitsOf w 42 5
def fSB (w : Nat) : Nat := bitsOf w 37 5
def fImm (w : Nat) : Bool := bitsOf w 36 1 == 1
def fOffset (w : Nat) : Nat := bitsOf w 0 20
def fVD (w : Nat) : Nat := bitsOf w 48 4
def fVA (w : Nat) : Nat := bitsOf w 44 4
def fVB (w : Nat) : Nat := bitsOf w 40 4
def fVC (w : Nat) : Nat := bitsOf w 36 4
def fMask (w : Nat) : Nat := bitsOf w 32 4
def fMen (w : Nat) : Bool := bitsOf w 31 1 == 1
def fZm (w : Nat) : Bool := bitsOf w 30 1 == 1
def fBs (w : Nat) : Bool := bitsOf w 29 1 == 1
def fVSB (w : Nat) : Nat := bitsOf w 24 5
/-- The memory class has its own places for the mask and the scalars. -/
def mMask (w : Nat) : Nat := bitsOf w 40 4
def mMen (w : Nat) : Bool := bitsOf w 39 1 == 1
def mZm (w : Nat) : Bool := bitsOf w 38 1 == 1
def mSA (w : Nat) : Nat := bitsOf w 33 5
def mSB (w : Nat) : Nat := bitsOf w 28 5
def mFmt (w : Nat) : Nat := bitsOf w 20 4
def bSA (w : Nat) : Nat := bitsOf w 51 5
def bSB (w : Nat) : Nat := bitsOf w 46 5
def lSC (w : Nat) : Nat := bitsOf w 53 5
def rIn (w j : Nat) : Nat := bitsOf w (48 - 4 * j) 4
def rOut (w j : Nat) : Nat := bitsOf w (26 - 4 * j) 4

/-- Whether the bits of a word from `lo` to `hi` are zero. -/
def clearIn (w lo hi : Nat) : Bool := bitsOf w lo (hi + 1 - lo) == 0

/-- Whether the reserved fields of a word are zero and its operand codes are defined (R116, R117, R153, R217, R388). -/
def fieldsOk (op : TOp) (w : Nat) : Bool :=
  match classOf w with
  | 0x0 => if op = .mset then clearIn w 32 47 else clearIn w 0 39
  | 0x1 => clearIn w 14 45
  | 0x2 => clearIn w 52 52 && clearIn w 13 19 && bitsOf w 0 13 != 0
  | 0x3 => clearIn w 32 35
  | 0x4 => clearIn w 20 41
  | 0x5 => clearIn w 0 23
  | 0x6 => clearIn w 24 27 && decide (mFmt w ≤ 4)
  | 0x7 => clearIn w 0 23 && clearIn w 30 30 && clearIn w 36 39
  | 0x8 => clearIn w 0 23 && (!fBs w || (op != .f2i && op != .i2f))
  | 0x9 => clearIn w 0 23
  | 0xA => clearIn w 0 21 && clearIn w 58 59
  | 0xB => clearIn w 20 41 && clearIn w 47 51 && (op != .mwait || (fSA w == 0 && decide (fOffset w ≤ 4)))
  | 0xC => clearIn w 20 41 && clearIn w 47 51 && (op != .xwait || (fSA w == 0 && decide (fOffset w ≤ 8)))
  | 0xD => clearIn w 9 41 && clearIn w 47 58
  | _ => false

/-! ## Pipes -/

inductive Pipe where
  | none | control | scalar | arith | memory
  deriving DecidableEq, Repr

def pipeOf (op : TOp) (w : Nat) : Pipe :=
  match classOf w with
  | 0x3 | 0x4 => .scalar
  | 0x5 | 0x7 | 0x8 | 0x9 | 0xA => .arith
  | 0x6 => .memory
  | _ => if op = .nop then .none else .control

/-! ## Registers that an instruction reads and writes -/

inductive TReg where
  | s (n : Nat) | v (n : Nat) | m (n : Nat)
  deriving DecidableEq, Repr

def maskReg (men : Bool) (n : Nat) : List TReg := if men then [.m n] else []

/-- The B operand of a vector instruction: a vector, or with BS a scalar. -/
def bReg (w : Nat) : TReg := if fBs w then .s (fVSB w) else .v (fVB w)

/-- The registers an instruction writes; S0 ignores writes and is never one. The recipe header is the word at the recipe's
first address. -/
def TOp.writes (op : TOp) (hdr w : Nat) : List TReg :=
  (match op with
  | .tick | .hdr => [TReg.s (fSD w)]
  | .call => [.s 31]
  | .add | .sub | .mul | .and | .or | .xor | .shl | .shr | .sar | .min | .max | .minu | .maxu | .slt | .sltu | .movhi
  | .ld32 | .ld64 => [.s (fSD w)]
  | .fadd | .fsub | .fmul | .fma | .fms | .fmax | .fmin | .fabs | .fneg | .frcp | .frsq | .fexp2 | .flog2 | .ftanh | .fsel | .fmov
  | .iadd | .isub | .imul | .iand | .ior | .ixor | .ishl | .ishr | .isar | .imax | .imin | .viota
  | .vld | .vlds | .vldx | .f2i | .i2f | .rbf16 | .rfp16 | .re4m3 | .re5m2 | .vperm | .vrot | .vbcast | .vins => [.v (fVD w)]
  | .fclt | .fcle | .fceq | .fcun | .iclt | .iceq | .mand | .mor | .mxor | .mnot => [.m (fVD w)]
  | .mpop | .mfirst | .fsum | .fmaxr | .fminr | .isum | .vext => [.s (fVSB w)]
  | .rcp => .v (rOut w 0) :: (if bitsOf hdr 7 1 = 1 then [.v (rOut w 1)] else [])
  | .nop | .end_ | .mset | .fence | .chk | .cdone | .brk | .branch | .ret | .loop | .setvl | .st32 | .st64 | .vst | .vsts | .vstx
  | .missue | .mwait | .xget | .xput | .xwait => []).filter fun r => r != TReg.s 0

/-- The registers an instruction reads. -/
def TOp.reads (op : TOp) (hdr w : Nat) : List TReg :=
  match op with
  | .nop | .end_ | .mset | .fence | .tick | .hdr | .brk | .call | .mwait | .xwait => []
  | .chk | .cdone | .missue | .xget | .xput => [.s (fSA w)]
  | .branch => [.s (bSA w), .s (bSB w)]
  | .ret => [.s 31]
  | .loop => if bitsOf w 58 2 = 0 then [] else [.s (lSC w)]
  | .setvl => if bitsOf w 59 1 = 1 then [.s (fSA w)] else []
  | .movhi => [.s (fSD w)]
  | .add | .sub | .mul | .and | .or | .xor | .shl | .shr | .sar | .min | .max | .minu | .maxu | .slt | .sltu =>
    .s (fSA w) :: (if fImm w then [] else [.s (fSB w)])
  | .ld32 | .ld64 => [.s (fSA w)]
  | .st32 | .st64 => [.s (fSA w), .s (fSD w)]
  | .fadd | .fsub | .fmul | .fmax | .fmin | .iadd | .isub | .imul | .iand | .ior | .ixor | .ishl | .ishr | .isar | .imax | .imin =>
    .v (fVA w) :: bReg w :: maskReg (fMen w) (fMask w)
  | .fma | .fms | .fsel => .v (fVA w) :: bReg w :: .v (fVC w) :: maskReg (fMen w) (fMask w)
  | .fabs | .fneg | .frcp | .frsq | .fexp2 | .flog2 | .ftanh | .fmov | .f2i | .i2f | .rbf16 | .rfp16 | .re4m3 | .re5m2 =>
    .v (fVA w) :: maskReg (fMen w) (fMask w)
  | .viota => maskReg (fMen w) (fMask w)
  | .vld => .s (mSA w) :: maskReg (mMen w) (mMask w)
  | .vst => .v (fVD w) :: .s (mSA w) :: maskReg (mMen w) (mMask w)
  | .vlds => .s (mSA w) :: .s (mSB w) :: maskReg (mMen w) (mMask w)
  | .vsts => .v (fVD w) :: .s (mSA w) :: .s (mSB w) :: maskReg (mMen w) (mMask w)
  | .vldx => .v (fVA w) :: .s (mSA w) :: maskReg (mMen w) (mMask w)
  | .vstx => .v (fVD w) :: .v (fVA w) :: .s (mSA w) :: maskReg (mMen w) (mMask w)
  | .fclt | .fcle | .fceq | .fcun | .iclt | .iceq => .v (fVA w) :: bReg w :: maskReg (fMen w) (fMask w)
  | .mand | .mor | .mxor => .m (fVA w) :: .m (fVB w) :: maskReg (fMen w) (fMask w)
  | .mnot | .mpop | .mfirst => .m (fVA w) :: maskReg (fMen w) (fMask w)
  | .fsum | .fmaxr | .fminr | .isum => .v (fVA w) :: maskReg (fMen w) (fMask w)
  | .vperm => .v (fVA w) :: .v (fVB w) :: maskReg (fMen w) (fMask w)
  | .vrot => .v (fVA w) :: .s (fVSB w) :: maskReg (fMen w) (fMask w)
  | .vbcast => .s (fVSB w) :: maskReg (fMen w) (fMask w)
  | .vext => .v (fVA w) :: maskReg (fMen w) (fMask w)
  | .vins => .s (fVSB w) :: maskReg (fMen w) (fMask w)
  | .rcp => ((List.range (bitsOf hdr 5 2 + 1)).map fun j => TReg.v (rIn w j)) ++ maskReg (fMen w) (fMask w)

/-- The fields of TSQ_MODE that an instruction depends on, as FMASK bits (R123). -/
def TOp.modeDeps (op : TOp) (w : Nat) : Nat :=
  match op with
  | .fadd | .fsub | .fmul | .fma | .fms | .fmax | .fmin | .fabs | .fneg | .frcp | .frsq | .fexp2 | .flog2 | .ftanh | .fsel | .fmov
  | .i2f | .rbf16 | .rfp16 | .re4m3 | .re5m2 | .fsum | .fmaxr | .fminr | .rcp => 3
  | .f2i => 7
  | .iadd | .isub | .imul | .iand | .ior | .ixor | .ishl | .ishr | .isar | .imax | .imin | .viota => 4
  | .vst | .vsts | .vstx => if mFmt w = 0 then 0 else 7
  | .missue | .mwait => 8
  | _ => 0

end Sys2Proof.Machine
end

