-- ==== Sys2Proof/Machine/Flags.lean ====
section
/-!
DEFINITION. Sys2Proof/Machine/Flags.lean: the sticky floating-point flags of a tile (R129, R149) and the conditions of
branches and compares (R117).
-/
namespace Sys2Proof.Machine

/-- The flags of one raised set as bits of VEC_FPFLAGS; `open_ j` decides the j-th open one. -/
def Raised.bits (r : Raised) (open_ : Nat → Bool) : List Bool :=
  [r.nv || (r.openNv && open_ 0), r.dz, r.of || (r.openOf && open_ 1), r.uf || (r.openUf && open_ 2),
    r.nx || (r.openNx && open_ 3)]

/-- Accumulate flags in VEC_FPFLAGS (R129). -/
def raiseFlags (t : Nat) (r : Raised) : Prog :=
  look fun s =>
    let l := r.bits (Config.freeBit s.free)
    all [each ((List.range 5).filter fun i => l.getD i false) fun i => setF ⟨tileReg t 0x088, i, 1⟩ 1,
      when (r.openNv || r.openOf || r.openUf || r.openNx) (.act .draw)]

/-- Whether a branch with a condition code is taken on two scalars (R117). -/
def branchTaken (cond a b : Nat) : Bool :=
  match cond with
  | 0 => a == b
  | 1 => a != b
  | 2 => signedOf 64 a < signedOf 64 b
  | 3 => signedOf 64 b ≤ signedOf 64 a
  | 4 => decide (a < b)
  | 5 => decide (b ≤ a)
  | _ => true

/-- A floating-point compare of two elements and what it raises: a signalling NaN is invalid, a quiet NaN may be. -/
def fcompare (op : TOp) (a b : Nat) : Bool × Raised :=
  let x := fp32.value a
  let y := fp32.value b
  let un := x.isNan || y.isNan
  let r := { snan [x, y] with openNv := un && op != .fcun && op != .fceq }
  ((match op with
    | .fclt => !un && x.lt y
    | .fcle => !un && (x.lt y || x.eq y)
    | .fceq => x.eq y
    | _ => un), r)

/-- An integer compare of two elements. -/
def icompare (op : TOp) (a b : Nat) : Bool :=
  if op = .iclt then signedOf 32 a < signedOf 32 b else a % 2 ^ 32 == b % 2 ^ 32

end Sys2Proof.Machine
end

