-- ==== Sys2Proof/Machine/Operands.lean ====
section
/-!
DEFINITION. Sys2Proof/Machine/Operands.lean: the operands of tile instructions: scalar, vector and mask registers (R111),
the elements that take part (R120, R130), addresses (R117), the store buffer (R135, R136) and what may be accessed (R112,
R137, R201).
-/
namespace Sys2Proof.Machine

/-! ## Registers -/

def Tile.maskBit (x : Tile) (m i : Nat) : Bool := (Sparse.get zeroMask x.masks m).getLsbD i

/-- Write a scalar register; S0 ignores writes (R111). -/
def setS (t n v : Nat) : Prog :=
  when (n != 0) (modTile t fun x => { x with sregs := Sparse.put zeroLong x.sregs n (BitVec.ofNat 64 v) })

def putElems (v : Nat) : List (Nat × Nat) → Sparse Word → Sparse Word
  | [], m => m
  | (i, w) :: l, m => putElems v l (Sparse.put zeroElem m (256 * v + i) (BitVec.ofNat 32 w))

/-- Write elements of a vector register. -/
def setV (t v : Nat) (l : List (Nat × Nat)) : Prog := modTile t fun x => { x with vregs := putElems v l x.vregs }

def setM (t m : Nat) (b : BitVec 256) : Prog := modTile t fun x => { x with masks := Sparse.put zeroMask x.masks m b }

/-- The mask whose bit i is `f i`. -/
def maskOfFn (f : Nat → Bool) : BitVec 256 := BitVec.ofNat 256 (maskOf ((List.range 256).filter f))

/-! ## Elements (R120, R130) -/

/-- The active vector length, which is at most 256 (R120). -/
def Tile.vl (x : Tile) : Nat := min (x.vlens.getD x.loops.length 0) 256

def Tile.takes (x : Tile) (men : Bool) (m i : Nat) : Bool := decide (i < x.vl) && (!men || x.maskBit m i)
def Tile.taking (x : Tile) (men : Bool) (m : Nat) : List Nat := (List.range 256).filter (x.takes men m)

/-- The elements that a vector destination is written with: each taking element's result, and with ZM +0.0 in every element
below the vector length that the mask leaves out. -/
def Tile.results (x : Tile) (men zm : Bool) (m : Nat) (f : Nat → Nat) : List (Nat × Nat) :=
  (List.range x.vl).flatMap fun i =>
    if x.takes men m i then [(i, f i)] else if zm then [(i, 0)] else []

/-! ## What an instruction does -/

/-- The causes of an exception (R126, R148), with their codes. -/
inductive Cause where
  | illegal | illegalDs | loopHazard | loopDepth | shadowHazard | pairHazard | pcRange | chkRange | misalign | tmemRange
  | tmemProt | recipeUndef | noDone | brk
  deriving DecidableEq, Repr

def Cause.code : Cause → Nat
  | .illegal => 1 | .illegalDs => 2 | .loopHazard => 3 | .loopDepth => 4 | .shadowHazard => 5 | .pairHazard => 6
  | .pcRange => 7 | .chkRange => 8 | .misalign => 9 | .tmemRange => 10 | .tmemProt => 11 | .recipeUndef => 12
  | .noDone => 13 | .brk => 14

/-- What one instruction of a bundle comes to: an exception with the word for TSQ_EINFO where it has one; poisoned memory at
a tile address; a wait, with the counter that it counts in (0 none, 1 VEC_DRAIN_WAITS, 2 VEC_PARTIAL_WAITS, 3
MTX_ISSUE_WAITS); or its effect, with the tile addresses of the memory words it touches. -/
inductive Eff where
  | fault (c : Cause) (info : Option Nat)
  | poisoned (a : Nat)
  | wait (kind : Nat)
  | go (p : Prog) (touched : List Nat)

def goOn (p : Prog) : Eff := .go p []

/-! ## Memory access -/

/-- One element of an access: its place in the vector, its tile address, and its bytes. -/
abbrev Elem := Nat × Nat

/-- Whether an address lies in the program area or the recipe table (R112). -/
def Tile.protected (x : Tile) (a n : Nat) : Bool := overlaps a n x.pbase (16 * x.plen) || overlaps a n x.rbase 16384

/-- The first memory cause of an access of elements of n bytes, in the order of R126. -/
def Tile.accessFault (x : Tile) (store : Bool) (n : Nat) (l : List Nat) : Option (Cause × Nat) :=
  match l.find? fun a => a % n != 0 with
  | some a => some (.misalign, a)
  | none => match l.find? fun a => decide (0x100000 < a + n) with
    | some a => some (.tmemRange, a)
    | none => if store then (l.find? fun a => x.protected a n).map fun a => (Cause.tmemProt, a) else none

/-- Where a load takes its bytes from (R136). -/
inductive Source where
  | memory
  | entry (e : List (Nat × Byte))
  | straddles

/-- The youngest store that overlaps the tested bytes decides. -/
def Tile.source (x : Tile) (tested : List Nat) : Source :=
  match x.stores.reverse.find? fun e => e.any fun b => tested.contains b.1 with
  | none => .memory
  | some e => if tested.all fun a => e.any fun b => b.1 == a then .entry e else .straddles

def entryByte (e : List (Nat × Byte)) (a : Nat) : Byte := ((e.find? fun b => b.1 == a).map Prod.snd).getD 0

def bytesOf (a n : Nat) : List Nat := (List.range n).map (· + a)

/-- Read n bytes at a tile address from memory or from a store-buffer entry. -/
def State.tileBytes (s : State) (t : Nat) (src : Source) (a n : Nat) : Nat :=
  match src with
  | .entry e => ofBytes ((bytesOf a n).map (entryByte e))
  | _ => s.readN (tileAt t + a) n

/-- The poisoned word among those of an access, if any. -/
def State.poisonAt (s : State) (t n : Nat) (l : List Nat) : Option Nat :=
  (l.find? fun a => s.poisonedIn (tileAt t + a) n).map fun a =>
    ((unitsOf (tileAt t + a) n).find? fun u => s.dev.poison.contains u).getD 0 - tileAt t

/-- A load of elements of n bytes at addresses `l`: tested against the store buffer over `tested`; `k` goes on with the
function that reads an element at an address. -/
def loadEff (s : State) (t n : Nat) (l tested : List Nat) (k : (Nat → Nat) → Prog) : Eff :=
  let x := s.tile t
  match x.accessFault false n l with
  | some (c, a) => .fault c (some a)
  | none =>
    if l.any fun a => x.busyAt a n then .wait 0
    else match x.source tested with
      | .straddles => .wait 2
      | .entry e => goOn (k fun a => s.tileBytes t (.entry e) a n)
      | .memory => match s.poisonAt t n l with
        | some a => .poisoned a
        | none => .go (k fun a => s.tileBytes t .memory a n) l

/-- A store that enters the buffer: elements of n bytes with their values (R135). -/
def storeEff (s : State) (t n : Nat) (l : List Elem) (p : Prog) : Eff :=
  let x := s.tile t
  match x.accessFault true n (l.map Prod.fst) with
  | some (c, a) => .fault c (some a)
  | none =>
    if (l.any fun e => x.busyAt e.1 n) || 8 ≤ x.stores.length then .wait 0
    else .go (all [
      when (!l.isEmpty) (modTile t fun x => { x with
        stores := x.stores ++ [l.flatMap fun e => (bytesOf e.1 n).zip (toBytes n e.2)] }), p]) (l.map Prod.fst)

/-- A store that waits for the buffer to be empty and then writes tile memory (R135). -/
def directEff (s : State) (t n : Nat) (l : List Elem) (p : Prog) : Eff :=
  let x := s.tile t
  match x.accessFault true n (l.map Prod.fst) with
  | some (c, a) => .fault c (some a)
  | none =>
    if !x.stores.isEmpty then .wait 1
    else if l.any fun e => x.busyAt e.1 n then .wait 0
    else .go (all [each l fun e => storeBytes (tileAt t + e.1) (toBytes n e.2), p]) (l.map Prod.fst)

/-- The stream of the chunk that a tile has selected. -/
def Tile.stream (x : Tile) : Option Nat :=
  match x.launch, x.sel with
  | some l, some k => (l.chunks[k]?).map Prod.fst
  | _, _ => none

/-- A corrected error in tile memory (R201). -/
def tmemCe (t a : Nat) : Prog :=
  look fun s => all [incF ⟨tileReg t 0x140, 0, 32⟩,
    logLim (s.benchLimit (t / 16)) (t / 16) 0x6001 0 (t / 16) (memDetail (tileAt t + a) (t / 16) (t % 16) (s.tile t).stream)
      (s.tile t).stream]

/-- Mark the word of tile memory at an address poisoned (R201). -/
def tmemPoison (t a : Nat) : Prog :=
  all [addPoison (tileAt t + a / 8 * 8), setWord (tileReg t 0x144) (a / 8 * 8 + 2 ^ 31)]

end Sys2Proof.Machine
end

