-- ==== Sys2Proof/Machine/VectorOps.lean ====
section
/-!
DEFINITION. Sys2Proof/Machine/VectorOps.lean: what the vector engine computes element by element (R117, R129 to R134, R388).
-/
namespace Sys2Proof.Machine

/-! ## Elements -/

/-- One FP operation of R117 on the elements of A, B and C. -/
def fpElem (op : TOp) (md : FMode) (a b c : Nat) : Nat × Raised :=
  let x := operand md.ftz a
  let y := operand md.ftz b
  let z := operand md.ftz c
  let copy (v : Val) : Nat × Raised := (((fresult md [] false v).1), { openNv := v.isSnan })
  match op with
  | .fadd => fadd md x y
  | .fsub => fadd md x y.neg
  | .fmul => fmul md x y
  | .fma => fmulAdd md x y z
  | .fms => fmulAdd md x y z.neg
  | .fmax => fmax md false x y
  | .fmin => fmax md true x y
  | .fabs => copy x.abs
  | .fneg => copy x.neg
  | .frcp => frcp md a
  | .frsq => frsq md a
  | .fexp2 => fexp2 md a
  | .flog2 => flog2 md a
  | .ftanh => ftanh md a
  | .fsel => copy (if z.isZero then y else x)
  | _ => copy x

/-- An integer result of 32 bits: it saturates under SAT and wraps otherwise (R123). -/
def intResult (md : FMode) (i : Int) : Nat :=
  patternOf 32 (if md.sat then max (-(2 ^ 31 : Nat) : Int) (min ((2 ^ 31 : Nat) - 1) i) else i)

/-- One INT32 operation of R117; `free` is the result of a shift by 32 or more, which the spec does not state. -/
def intElem (op : TOp) (md : FMode) (free i a b : Nat) : Nat :=
  let x := signedOf 32 a
  let y := signedOf 32 b
  match op with
  | .iadd => intResult md (x + y)
  | .isub => intResult md (x - y)
  | .imul => intResult md (x * y)
  | .iand => a &&& b
  | .ior => a ||| b
  | .ixor => a ^^^ b
  | .ishl => if b < 32 then intResult md (x * (2 ^ b : Nat)) else free
  | .ishr => if b < 32 then a / 2 ^ b else free
  | .isar => if b < 32 then patternOf 32 (x / (2 ^ b : Nat)) else free
  | .imax => if x < y then b else a
  | .imin => if x < y then a else b
  | _ => i

/-- A load's conversion into a 32-bit element by its FMT code (R117). -/
def widen (fmt v : Nat) : Nat :=
  match fmt with
  | 0 => v
  | 1 => (fp32.round .nearest false (fp16.value v)).1
  | 2 => (fp32.round .nearest false (bf16.value v)).1
  | 3 => patternOf 32 (signedOf 16 v)
  | _ => patternOf 32 (signedOf 8 v)

/-- A store's conversion out of a 32-bit element. -/
def narrow (fmt : Nat) (md : FMode) (v : Nat) : Nat × Raised :=
  match fmt with
  | 0 => (v, {})
  | 1 => narrowFloat fp16 md v
  | 2 => narrowFloat bf16 md v
  | 3 => (narrowInt 16 md v, {})
  | _ => (narrowInt 8 md v, {})

def fmtBytes (fmt : Nat) : Nat := if fmt = 0 then 4 else if fmt = 4 then 1 else 2

/-! ## Whole instructions: `x` is the tile before the bundle -/

/-- The B element of a vector instruction: of VB, or with BS the low word of the scalar. -/
def Tile.bElem (x : Tile) (w i : Nat) : Nat := if fBs w then x.sreg (fVSB w) % 2 ^ 32 else x.elem (fVB w) i

def raisedAll (l : List Raised) : Raised := l.foldl Raised.or {}

/-- Write a vector destination under MEN and ZM from a function of the element, and raise what its elements raised. -/
def writeVector (t : Nat) (x : Tile) (w : Nat) (f : Nat → Nat × Raised) : Prog :=
  all [setV t (fVD w) (x.results (fMen w) (fZm w) (fMask w) fun i => (f i).1),
    raiseFlags t (raisedAll ((x.taking (fMen w) (fMask w)).map fun i => (f i).2))]

def valuFp (t : Nat) (x : Tile) (md : FMode) (op : TOp) (w : Nat) : Prog :=
  writeVector t x w fun i => fpElem op md (x.elem (fVA w) i) (x.bElem w i) (x.elem (fVC w) i)

/-- Draw a number and go on with the free elements it stands for. -/
def drawElems (f : (Nat → Nat) → Prog) : Prog :=
  look fun s => all [.act .draw, f fun i => (Config.freeElem s.free i).toNat]

def valuInt (t : Nat) (x : Tile) (md : FMode) (op : TOp) (w : Nat) : Prog :=
  let r (free : Nat → Nat) : Prog :=
    writeVector t x w fun i => (intElem op md (free i) i (x.elem (fVA w) i) (x.bElem w i), {})
  if op == .ishl || op == .ishr || op == .isar then drawElems r else r fun _ => 0

/-! ### Masks (R117, R130) -/

/-- A compare: the bit of an element that takes no part becomes 0. -/
def vcompare (t : Nat) (x : Tile) (op : TOp) (w : Nat) : Prog :=
  let f (i : Nat) : Bool × Raised :=
    if op = .iclt || op = .iceq then (icompare op (x.elem (fVA w) i) (x.bElem w i), {})
    else fcompare op (x.elem (fVA w) i) (x.bElem w i)
  all [setM t (fVD w) (maskOfFn fun i => x.takes (fMen w) (fMask w) i && (f i).1),
    raiseFlags t (raisedAll ((x.taking (fMen w) (fMask w)).map fun i => (f i).2))]

/-- Mask logic: what becomes of the bits of elements that take no part is not stated and free. -/
def vmaskLogic (t : Nat) (x : Tile) (op : TOp) (w : Nat) : Prog :=
  let f (i : Nat) : Bool :=
    let a := x.maskBit (fVA w) i
    let b := x.maskBit (fVB w) i
    match op with
    | .mand => a && b
    | .mor => a || b
    | .mxor => a != b
    | _ => !a
  look fun s => all [.act .draw,
    setM t (fVD w) (maskOfFn fun i => if x.takes (fMen w) (fMask w) i then f i else Config.freeBit s.free i)]

def vmaskCount (t : Nat) (x : Tile) (op : TOp) (w : Nat) : Prog :=
  let l := (x.taking (fMen w) (fMask w)).filter (x.maskBit (fVA w))
  setS t (fVSB w) (if op = .mpop then l.length else l.headD 256)

/-! ### Conversions (R117, R388 to R391) -/

def vcvtFormat (op : TOp) : Format :=
  match op with
  | .rbf16 => bf16
  | .rfp16 => fp16
  | .re4m3 => e4m3
  | _ => e5m2

/-- The counter of stochastic rounding goes up by one; a wrap is recorded once per tile and launch (R389, R391). -/
def srStep (t : Nat) : Prog :=
  look fun s =>
    let c := s.fld ⟨tileReg t 0x158, 0, 32⟩
    all [setWord (tileReg t 0x158) (c + 1),
      when (c == 2 ^ 32 - 1 && !(s.tile t).srWrapped) (all [modTile t fun x => { x with srWrapped := true },
        logC 0x5003 0 (t / 16) [t / 16, t % 16] (s.tile t).stream])]

def vconvert (t : Nat) (x : Tile) (md : FMode) (op : TOp) (w : Nat) : Prog :=
  look fun s =>
    let lo := s.fld ⟨tileReg t 0x150, 0, 32⟩
    let hi := s.fld ⟨tileReg t 0x154, 0, 32⟩
    let ctr := s.fld ⟨tileReg t 0x158, 0, 32⟩
    let a (i : Nat) : Nat := x.elem (fVA w) i
    if fBs w then all [writeVector t x w fun i => roundSr (vcvtFormat op) md (srWord lo hi ctr i) (a i), srStep t]
    else if op = .i2f then writeVector t x w fun i => ofInt md (a i)
    else if op = .f2i then drawElems fun free => writeVector t x w fun i => toInt md 32 (free i) (a i)
    else drawElems fun free => writeVector t x w fun i => roundVia (vcvtFormat op) md (free i) (a i)

/-! ### Reductions and permutations (R117, R131) -/

/-- Fold the lanes from the upper half onto the lower, six times (R131). -/
def foldLanes (f : Nat → Nat → Nat × Raised) : Nat → List Nat → Raised → Nat × Raised
  | 0, l, r => (l.headD 0, r)
  | k + 1, l, r =>
    let p := (l.take (2 ^ k)).zip (l.drop (2 ^ k)) |>.map fun ab => f ab.1 ab.2
    foldLanes f k (p.map Prod.fst) (r.or (raisedAll (p.map Prod.snd)))

/-- One lane of FSUM: the taking elements i with i mod 64 = j, in increasing i, added to +0.0. -/
def sumLane (md : FMode) (x : Tile) (v : Nat) (l : List Nat) (j : Nat) : Nat × Raised :=
  (l.filter fun i => i % 64 == j).foldl (fun acc i =>
    let r := fadd md (operand md.ftz acc.1) (operand md.ftz (x.elem v i))
    (r.1, acc.2.or r.2)) (0, {})

def fsumOf (md : FMode) (x : Tile) (v : Nat) (l : List Nat) : Nat × Raised :=
  let lanes := (List.range 64).map (sumLane md x v l)
  if l.isEmpty then (0, {})
  else foldLanes (fun a b => fadd md (operand md.ftz a) (operand md.ftz b)) 6 (lanes.map Prod.fst) (raisedAll (lanes.map Prod.snd))

/-- The greatest or least of the taking elements under FMAX or FMIN. -/
def fextremeOf (md : FMode) (low : Bool) (x : Tile) (v : Nat) : List Nat → Nat × Raised
  | [] => (fp32.signed (!low) fp32.infPat, {})
  | i :: l => l.foldl (fun acc k =>
      let r := fmax md low (operand md.ftz acc.1) (operand md.ftz (x.elem v k))
      (r.1, acc.2.or r.2)) (fmax md low (operand md.ftz (x.elem v i)) (operand md.ftz (x.elem v i)))

/-- Write a 32-bit result into a scalar register: what its upper half holds is not stated and free. -/
def setS32 (t n v : Nat) : Prog := drawFree 32 fun h => setS t n (v % 2 ^ 32 + 2 ^ 32 * h)

def vreduce (t : Nat) (x : Tile) (md : FMode) (op : TOp) (w : Nat) : Prog :=
  let l := x.taking (fMen w) (fMask w)
  let r : Nat × Raised := match op with
    | .fsum => fsumOf md x (fVA w) l
    | .fmaxr => fextremeOf md false x (fVA w) l
    | .fminr => fextremeOf md true x (fVA w) l
    | _ => ((l.map (x.elem (fVA w))).foldl (· + ·) 0, {})
  all [setS32 t (fVSB w) r.1, raiseFlags t r.2]

/-- VPERM, VROT, VBCAST, and VEXT and VINS, whose table row does not say which element they take or write: it is free. -/
def vpermute (t : Nat) (x : Tile) (op : TOp) (w : Nat) : Prog :=
  let b := x.sreg (fVSB w)
  match op with
  | .vperm => writeVector t x w fun i => (x.elem (fVA w) (x.elem (fVB w) i % 256), {})
  | .vrot => writeVector t x w fun i => (x.elem (fVA w) (Config.vrotFrom x.vl (BitVec.ofNat 64 b) i % 256), {})
  | .vbcast => writeVector t x w fun _ => (b % 2 ^ 32, {})
  | .vext => drawFree 8 fun k => setS32 t (fVSB w) (x.elem (fVA w) k)
  | _ => drawFree 8 fun k => when (x.takes (fMen w) (fMask w) k) (setV t (fVD w) [(k, b % 2 ^ 32)])

/-! ### Recipes (R133, R134) -/

def recipeAt (x : Tile) (w : Nat) : Nat := x.rbase + 256 * bitsOf w 52 6
def State.recipeHdr (s : State) (t w : Nat) : Nat := s.readN (tileAt t + recipeAt (s.tile t) w) 8
def State.microOps (s : State) (t w : Nat) : List Nat :=
  (List.range (bitsOf (s.recipeHdr t w) 0 5 + 1)).map fun i => s.read32 (tileAt t + recipeAt (s.tile t) w + 8 + 4 * i)
def State.recipeConst (s : State) (t w j : Nat) : Nat := s.read32 (tileAt t + recipeAt (s.tile t) w + 136 + 4 * j)

/-- Whether a micro-operation uses a defined code and defined sources. -/
def microOk (u : Nat) : Bool :=
  let src (lo : Nat) : Bool := let c := bitsOf u lo 5; c < 12 || 16 ≤ c
  bitsOf u 26 6 ≤ 0x12 && src 18 && src 13 && src 8

/-- One micro-operation on the temporaries of an element. -/
def microStep (md : FMode) (read : List Nat → Nat → Nat) (acc : List Nat × Raised) (u : Nat) : List Nat × Raised :=
  let a := read acc.1 (bitsOf u 18 5)
  let b := read acc.1 (bitsOf u 13 5)
  let c := read acc.1 (bitsOf u 8 5)
  let k := bitsOf u 26 6
  let r : Nat × Raised := if k < 16 then fpElem (fpOps.getD k .fmov) md a b c
    else
      let p := fcompare (if k = 0x10 then .fclt else if k = 0x11 then .fcle else .fceq) a b
      (if p.1 then 0x3F800000 else 0, p.2)
  (modNth (fun _ => r.1) acc.1 (bitsOf u 23 3), acc.2.or r.2)

/-- Apply a recipe (R134): an input that the header does not name reads as a free value. -/
def applyRecipe (s : State) (t : Nat) (md : FMode) (w : Nat) : Prog :=
  let x := s.tile t
  let h := s.recipeHdr t w
  let us := s.microOps t w
  drawElems fun free =>
    let read (i : Nat) (ts : List Nat) (c : Nat) : Nat :=
      if c < 8 then ts.getD c 0
      else if c < 12 then (if c - 8 ≤ bitsOf h 5 2 then x.elem (rIn w (c - 8)) i else free (4 * i + c - 8))
      else s.recipeConst t w (c - 16)
    let one (i : Nat) : List Nat × Raised := us.foldl (microStep md (read i)) (List.replicate 8 0, {})
    let l := x.taking (fMen w) (fMask w)
    let outs := l.map fun i => (i, one i)
    let res (k : Nat) : List (Nat × Nat) := x.results (fMen w) (fZm w) (fMask w) fun i =>
      (((outs.find? fun o => o.1 == i).map fun o => o.2.1).getD []).getD (bitsOf h (8 + 3 * k) 3) 0
    all [setV t (rOut w 0) (res 0), when (bitsOf h 7 1 == 1) (setV t (rOut w 1) (res 1)),
      raiseFlags t (raisedAll (outs.map fun o => o.2.2))]

/-! ### Vector memory (R117, R135, R136) -/

/-- The tile address of element i: contiguous, strided by SB, or by the INT32 offset in VI. -/
def Tile.elemAddr (x : Tile) (op : TOp) (w i : Nat) : Nat :=
  let base := x.sreg (mSA w) + fOffset w
  let off : Int := match op with
    | .vld | .vst => i * fmtBytes (mFmt w)
    | .vlds | .vsts => (i : Int) * signedOf 64 (x.sreg (mSB w))
    | _ => signedOf 32 (x.elem (fVA w) i)
  patternOf 64 (base + off)

/-- The bytes over which a load is tested against the store buffer: those it reads, and for VLDS the whole span from its
first to its last element (R136). -/
def testedBytes (op : TOp) (n : Nat) (l : List Nat) : List Nat :=
  match op, l with
  | .vlds, a :: _ =>
    let lo := l.foldl min a
    bytesOf lo (l.foldl max a + n - lo)
  | _, _ => l.flatMap fun a => bytesOf a n

def vloadEff (s : State) (t : Nat) (op : TOp) (w : Nat) : Eff :=
  let x := s.tile t
  let n := fmtBytes (mFmt w)
  let is := x.taking (mMen w) (mMask w)
  let l := is.map (x.elemAddr op w)
  let wait := op == .vldx && !x.stores.isEmpty
  match x.accessFault false n l with
  | some (c, a) => .fault c (some a)
  | none =>
    if wait then .wait 1
    else loadEff s t n l (testedBytes op n l) fun rd =>
      setV t (fVD w) (x.results (mMen w) (mZm w) (mMask w) fun i => widen (mFmt w) (rd (x.elemAddr op w i)))

def vstoreEff (s : State) (t : Nat) (md : FMode) (op : TOp) (w : Nat) : Eff :=
  let x := s.tile t
  let n := fmtBytes (mFmt w)
  let is := x.taking (mMen w) (mMask w)
  let v (i : Nat) : Nat × Raised := narrow (mFmt w) md (x.elem (fVD w) i)
  let l := is.map fun i => (x.elemAddr op w i, (v i).1)
  let fl := raiseFlags t (raisedAll (is.map fun i => (v i).2))
  if op = .vst then storeEff s t n l fl else directEff s t n l fl

end Sys2Proof.Machine
end

