-- ==== Sys2Proof/Machine/ScalarOps.lean ====
section
/-!
DEFINITION. Sys2Proof/Machine/ScalarOps.lean: what the scalar pipe and the control pipe compute (R114, R117, R119, R123, R124,
R152 to R156, R217, R220), up to where the sequencer goes on.
-/
namespace Sys2Proof.Machine

/-! ## Scalar pipe -/

/-- A scalar operation on two 64-bit operands; `free` is the result of a shift by 64 or more, which is not stated. -/
def scalarResult (op : TOp) (free a b : Nat) : Nat :=
  let x := signedOf 64 a
  let y := signedOf 64 b
  match op with
  | .add => a + b
  | .sub => patternOf 64 (x - y)
  | .mul => a * b
  | .and => a &&& b
  | .or => a ||| b
  | .xor => a ^^^ b
  | .shl => if b < 64 then a * 2 ^ b else free
  | .shr => if b < 64 then a / 2 ^ b else free
  | .sar => if b < 64 then patternOf 64 (x / (2 ^ b : Nat)) else free
  | .min => if y < x then b else a
  | .max => if x < y then b else a
  | .minu => min a b
  | .maxu => max a b
  | .slt => if x < y then 1 else 0
  | _ => if a < b then 1 else 0

/-- The B operand of the scalar class: SB, or the sign-extended immediate. -/
def Tile.scalarB (x : Tile) (w : Nat) : Nat :=
  if fImm w then patternOf 64 (signedOf 32 (bitsOf w 0 32)) else x.sreg (fSB w)

def scalarEff (t : Nat) (x : Tile) (op : TOp) (w : Nat) : Prog :=
  let r (free : Nat) : Prog := setS t (fSD w) (scalarResult op free (x.sreg (fSA w)) (x.scalarB w))
  if (op == .shl || op == .shr || op == .sar) && 64 ≤ x.scalarB w then drawFree 64 r else r 0

/-- MOVHI: the upper half from the immediate, the lower half as it was. -/
def movhi (t : Nat) (x : Tile) (w : Nat) : Prog := setS t (fSD w) (setBits (x.sreg (fSD w)) 32 32 (bitsOf w 0 32))

def scalarAddr (x : Tile) (w : Nat) : Nat := (x.sreg (fSA w) + fOffset w) % 2 ^ 64

/-- LD32 and LD64: what LD32 puts in the upper half is not stated and free. -/
def scalarLoad (s : State) (t : Nat) (wide : Bool) (w : Nat) : Eff :=
  let a := scalarAddr (s.tile t) w
  let n := if wide then 8 else 4
  loadEff s t n [a] (bytesOf a n) fun rd => if wide then setS t (fSD w) (rd a) else setS32 t (fSD w) (rd a)

def scalarStore (s : State) (t : Nat) (wide : Bool) (w : Nat) : Eff :=
  let x := s.tile t
  storeEff s t (if wide then 8 else 4) [(scalarAddr x w, x.sreg (fSD w))] .nop

/-! ## Control pipe: chunks (R114, R115, R156, R220) -/

/-- Whether matrix operations or transfers that the tile has issued are unfinished. -/
def Tile.working (x : Tile) : Bool := !x.ops.isEmpty || !x.xfers.isEmpty

/-- The header of a chunk, as four 64-bit words (R84). -/
def Chunk.headerWord (c : Chunk) (w : Nat) : Nat :=
  match w with
  | 0 => c.stream % 4096 + 2 ^ 12 * (c.model % 16) + 2 ^ 16 * (c.flags % 2 ^ 16) + 2 ^ 32 * (c.seq % 2 ^ 32)
  | 1 => c.arrival
  | 2 => c.deadline
  | _ => c.format % 16 + 16 * (c.rate % 16) + 2 ^ 8 * (c.count % 2 ^ 16) + 2 ^ 32 * (c.upos0 % 2 ^ 16) + 2 ^ 48 * (c.upos1 % 2 ^ 16)

/-- The chunk that a tile has selected, as its slot and arrival tick. -/
def Tile.chosen (x : Tile) : Option (Nat × Nat) :=
  match x.launch, x.sel with
  | some l, some k => l.chunks[k]?
  | _, _ => none

def State.chunkOf (s : State) (c : Option (Nat × Nat)) : Option Chunk :=
  c.bind fun c => (s.slot c.1).chunks.find? fun k => k.arrival == c.2

/-- HDR: the header of a chunk that is not selected or has ended is not stated, and free. -/
def headerEff (s : State) (t w : Nat) : Prog :=
  match s.chunkOf (s.tile t).chosen with
  | some c => setS t (fSD w) (c.headerWord (bitsOf w 40 2))
  | none => drawFree 64 fun v => setS t (fSD w) v

/-- The chunk's stage has been completed by its last tile (R91, R114): the chunk is complete after its final stage. -/
def completeStage (slot i v : Nat) : Prog :=
  look fun s =>
    match (s.slot slot).chunks[i]? with
    | none => .nop
    | some c =>
      let st := c.running.getD 0
      let final := match (s.planeFor c.part c.old).group c.group with
        | some g => decide (g.stages ≤ st + 1)
        | none => true
      if final then endChunkFmt slot i stDone (bitsOf v 0 4, bitsOf v 4 4, bitsOf v 8 16)
      else modSlot slot fun x => { x with
        chunks := modNth (fun c => { c with running := none, done := st + 1, doneAt := s.now }) x.chunks i }

/-- CDONE on tile `t` for the chunk at index `k` of its slice, with operand `v`; nothing in a detached tile (R142). -/
def cdone (t k : Nat) (c : Nat × Nat) (v : Nat) : Prog :=
  look fun s =>
    let x := s.tile t
    when (!x.detached && !x.cdone.contains k) (all [
      modTile t fun x => { x with cdone := k :: x.cdone },
      match s.runIdx ((x.launch.map Launch.stage).getD 0) c with
      | none => .nop
      | some i => when (((s.slot c.1).chunks.getD i {}).owing.contains t) (all [
          modSlot c.1 fun y => { y with chunks := modNth (fun c => { c with owing := c.owing.filter (· != t) }) y.chunks i },
          look fun s => when ((((s.slot c.1).chunks.getD i {}).owing).isEmpty) (completeStage c.1 i v)])])

def cdoneEff (t : Nat) (x : Tile) (w : Nat) : Eff :=
  if x.working then .wait 0
  else match x.sel, x.chosen with
    | some k, some c => goOn (cdone t k c (x.sreg (fSA w)))
    | _, _ => goOn .nop

def chkEff (t : Nat) (x : Tile) (w : Nat) : Eff :=
  let k := x.sreg (fSA w)
  if k < (x.launch.map fun l => l.chunks.length).getD 0 then goOn (modTile t fun x => { x with sel := some k })
  else .fault .chkRange (some k)

def endEff (x : Tile) : Eff :=
  let n := (x.launch.map fun l => l.chunks.length).getD 0
  if !x.detached && (List.range n).any fun k => !x.cdone.contains k then .fault .noDone none
  else if x.working then .wait 0 else goOn .nop

/-! ## Control pipe: matrix work and transfers (R152 to R156, R184, R217) -/

def issueAddr (x : Tile) (w : Nat) : Nat := (x.sreg (fSA w) + fOffset w) % 2 ^ 64

/-- The fault of a descriptor address. -/
def descFault (a n : Nat) : Option Eff :=
  if a % n != 0 then some (.fault .misalign (some a))
  else if 0x100000 < a + n then some (.fault .tmemRange (some a)) else none

def words32 (s : State) (a n : Nat) : List Nat := (List.range n).map fun i => s.read32 (a + 4 * i)

/-- The words of n bytes at a tile address, as what a read touches. -/
def wordsAt (a n : Nat) : List Nat := (List.range (n / 8)).map fun i => a + 8 * i

/-- MISSUE copies the descriptor and, for an unstructured operand, the 64 bytes at AUX; poison there ends the operation as poison in
the other metadata does (R194). -/
def missueEff (s : State) (t mode w : Nat) : Eff :=
  let x := s.tile t
  let a := issueAddr x w
  match descFault a 64 with
  | some e => e
  | none =>
    if !x.stores.isEmpty then .wait 1
    else if 4 ≤ x.ops.length then .wait 3
    else match s.poisonAt t 64 [a] with
      | some p => .poisoned p
      | none =>
        let d := words32 s (tileAt t + a) 16
        let aux := bitsOf (d.getD 13 0) 0 20
        let un := bitsOf (d.getD 0 0) 22 2 == 2
        let h := if un then words32 s (tileAt t + aux) 16 else []
        .go (modTile t fun x => { x with
          ops := x.ops ++ [{ desc := d, addr := a, mx := bitsOf mode 4 8, hdr := h,
                             bad := if un then s.poisonAt t 64 [aux] else none }] })
          (wordsAt a 64 ++ if un then wordsAt aux 64 else [])

/-- The device addresses and sizes of a chunk's regions, in the order of REL 1 to 4 (R212, R216). -/
def Chunk.regions (c : Chunk) : List (Nat × Nat) :=
  let b := storeAt + c.base
  [(b, c.stateSize), (b + c.stateSize + c.buf * c.cbuf, c.cbuf),
   (b + c.stateSize + 2 * c.cbuf + c.buf * c.rbuf, c.rbuf), (storeAt + 4096 * c.modelBase, 4096 * c.modelSize)]

def xferIssueEff (s : State) (t : Nat) (put : Bool) (w : Nat) : Eff :=
  let x := s.tile t
  let a := issueAddr x w
  match descFault a 32 with
  | some e => e
  | none =>
    if !x.stores.isEmpty then .wait 1
    else if 8 ≤ x.xfers.length then .wait 0
    else match s.poisonAt t 32 [a] with
      | some p => .poisoned p
      | none => .go (modTile t fun x => { x with
          xfers := x.xfers ++ [{
            put := put, desc := words32 s (tileAt t + a) 8, addr := a, chunk := x.chosen,
            regions := ((s.chunkOf x.chosen).map Chunk.regions).getD [],
            part := (x.launch.map Launch.part).getD 0, old := (x.launch.map Launch.old).getD false }] }) (wordsAt a 32)

/-! ## Control pipe: the sequencer's own state -/

/-- The fields of a mode that FMASK names, from `new`; the others from `old` (R123). -/
def mergeMode (fm old new : Nat) : Nat :=
  let f (m : Nat) (i lo w : Nat) : Nat := if inMask fm i then setBits m lo w (bitsOf new lo w) else m
  f (f (f (f old 0 0 2) 1 2 1) 2 3 1) 3 4 8

/-- The mode that a bundle sees (R124): in the first bundle of a shadow the old value of each changed field, unless the
tile is stepped. -/
def Tile.seenMode (x : Tile) (stepped : Bool) : Nat :=
  match x.shadow with
  | some h => if h.left = 2 && !stepped then mergeMode h.mask x.mode h.oldMode else x.mode
  | none => x.mode

/-- The level that a LOOP takes: its count, and for a strip loop the length of its last iteration (R119). -/
def Tile.loopLevel (x : Tile) (w : Nat) : LoopLevel :=
  let n := x.sreg (lSC w)
  let vl := bitsOf w 44 8 + 1
  let kind := bitsOf w 58 2
  let count := if kind = 0 then bitsOf w 20 24 else if kind = 1 then n % 2 ^ 32 else ceilDiv n vl
  { start := x.pc + 1, stop := x.pc + bitsOf w 0 13, count := count, strip := kind == 2,
    last := if kind = 2 then n - (count - 1) * vl else 0, maxvl := vl }

/-- Set the vector length of loop level k. -/
def setVlen (k n : Nat) (l : List Nat) : List Nat := modNth (fun _ => n) l k

/-- SETVL: values above 256 write 256. -/
def setvl (t : Nat) (x : Tile) (w : Nat) : Prog :=
  let n := min (if bitsOf w 59 1 = 1 then x.sreg (fSA w) else bitsOf w 0 9) 256
  modTile t fun x => { x with vlens := setVlen x.loops.length n x.vlens }

/-- A branch bundle: whether it is taken and where to (R117, R118). -/
def Tile.branchTo (x : Tile) (op : TOp) (w : Nat) : Bool × Nat :=
  let goal := patternOf 14 ((x.pc : Int) + signedOf 14 (bitsOf w 0 14))
  match op with
  | .ret => (true, x.sreg 31 % 2 ^ 13)
  | .call => (true, goal)
  | _ => (branchTaken (bitsOf w 56 4) (x.sreg (bSA w)) (x.sreg (bSB w)), goal)

def isBranch (op : TOp) : Bool := op == .branch || op == .call || op == .ret

/-- Enter a loop (R119): a count of zero skips the body. -/
def Tile.enterLoop (x : Tile) (w : Nat) : Tile :=
  let l := x.loopLevel w
  if l.count = 0 then { x with pc := l.stop + 1 }
  else
    let k := x.loops.length + 1
    let n := if l.count = 1 then l.last else l.maxvl
    { x with pc := x.pc + 1, loops := x.loops ++ [l], vlens := if l.strip then setVlen k n x.vlens else x.vlens }

/-- What follows a bundle that neither branches nor enters a loop: the end bundle of a loop goes round (R119). -/
def Tile.goRound (x : Tile) : Tile :=
  match x.loops.getLast? with
  | none => { x with pc := x.pc + 1 }
  | some l =>
    if l.stop != x.pc then { x with pc := x.pc + 1 }
    else if 1 < l.count then
      { x with
        pc := l.start, loops := x.loops.dropLast ++ [{ l with count := l.count - 1 }],
        vlens := if l.strip then setVlen x.loops.length (if l.count = 2 then l.last else l.maxvl) x.vlens else x.vlens }
    else { x with pc := x.pc + 1, loops := x.loops.dropLast }

/-- The shadow after a bundle (R124): an MSET within a shadow extends it, with all the fields that changed (log entry 127). -/
def Tile.nextShadow (x : Tile) (mset : Option Nat) : Option Shadow :=
  match mset with
  | some fm =>
    let h := x.shadow.getD { restart := x.pc, loops := x.loops }
    some { h with left := 2, oldMode := x.mode, mask := fm, hazard := fm ||| h.hazard }
  | none => x.shadow.bind fun h => if h.left = 2 then some { h with left := 1 } else none

/-- Where the sequencer goes after the bundle at PC (R118, R119, R122), and the mode and shadow it leaves: `mset` is the word of an
MSET of the bundle, `op` and `w` the instruction that turns the sequencer, if one does. -/
def Tile.proceed (x : Tile) (mset : Option Nat) (op : TOp) (w : Nat) : Tile :=
  let y := { x with
    shadow := x.nextShadow (mset.map fun v => bitsOf v 48 4),
    mode := match mset with
      | some v => mergeMode (bitsOf v 48 4) x.mode (bitsOf v 0 32)
      | none => x.mode,
    waited := 0, passBp := if x.passBp = some x.pc then none else x.passBp }
  if isBranch op then
    let b := x.branchTo op w
    { y with delay := some { branch := x.pc, next := if b.1 then b.2 else x.pc + 2, taken := b.1 }, pc := x.pc + 1 }
  else if op = TOp.loop then y.enterLoop w
  else match x.delay with
    | some d => { y with
        delay := none, pc := d.next,
        loops := if d.taken then x.loops.filter (fun l => l.start ≤ d.next && decide (d.next ≤ l.stop)) else x.loops }
    | none => y.goRound

/-- After a bundle of which one instruction belongs to the control pipe. -/
def Tile.advance (x : Tile) (op : TOp) (w : Nat) : Tile := x.proceed (if op = TOp.mset then some w else none) op w

/-- An MSET with a BR or a LOOP beside it, in either order: a legal pair of one pipe (R143, log entry 127). -/
def msetPair (o0 o1 : TOp) : Bool :=
  let turn (o : TOp) : Bool := isBranch o || o == .loop
  (o0 == .mset && turn o1) || (turn o0 && o1 == .mset)

/-- After a bundle of two instructions: that of slot 0 moves the sequencer, or both of a pair with an MSET do (R143). -/
def Tile.advancePair (x : Tile) (o0 o1 : TOp) (w0 w1 : Nat) : Tile :=
  if !msetPair o0 o1 then x.advance o0 w0
  else if o0 = .mset then x.proceed (some w0) o1 w1 else x.proceed (some w1) o0 w0

/-! ## One instruction -/

/-- What one instruction does: `x` is the tile before its bundle, `mode` the mode its bundle sees. -/
def instrEff (s : State) (t mode : Nat) (op : TOp) (w : Nat) : Eff :=
  let x := s.tile t
  let md := fmodeOf mode
  match op with
  | .nop | .mset | .brk | .branch | .ret | .loop => goOn .nop
  | .call => goOn (setS t 31 (x.pc + 2))
  | .end_ => endEff x
  | .fence => if !x.stores.isEmpty || x.working then .wait 0 else goOn .nop
  | .tick => goOn (setS t (fSD w) s.now)
  | .chk => chkEff t x w
  | .hdr => goOn (headerEff s t w)
  | .cdone => cdoneEff t x w
  | .setvl => goOn (setvl t x w)
  | .add | .sub | .mul | .and | .or | .xor | .shl | .shr | .sar | .min | .max | .minu | .maxu | .slt | .sltu =>
    goOn (scalarEff t x op w)
  | .movhi => goOn (movhi t x w)
  | .ld32 => scalarLoad s t false w
  | .ld64 => scalarLoad s t true w
  | .st32 => scalarStore s t false w
  | .st64 => scalarStore s t true w
  | .fadd | .fsub | .fmul | .fma | .fms | .fmax | .fmin | .fabs | .fneg | .frcp | .frsq | .fexp2 | .flog2 | .ftanh | .fsel | .fmov =>
    goOn (valuFp t x md op w)
  | .iadd | .isub | .imul | .iand | .ior | .ixor | .ishl | .ishr | .isar | .imax | .imin | .viota => goOn (valuInt t x md op w)
  | .vld | .vlds | .vldx => vloadEff s t op w
  | .vst | .vsts | .vstx => vstoreEff s t md op w
  | .fclt | .fcle | .fceq | .fcun | .iclt | .iceq => goOn (vcompare t x op w)
  | .mand | .mor | .mxor | .mnot => goOn (vmaskLogic t x op w)
  | .mpop | .mfirst => goOn (vmaskCount t x op w)
  | .f2i | .i2f | .rbf16 | .rfp16 | .re4m3 | .re5m2 => goOn (vconvert t x md op w)
  | .fsum | .fmaxr | .fminr | .isum => goOn (vreduce t x md op w)
  | .vperm | .vrot | .vbcast | .vext | .vins => goOn (vpermute t x op w)
  | .rcp =>
    match s.poisonAt t 256 [recipeAt x w] with
    | some a => .poisoned a
    | none =>
      if bitsOf (s.recipeHdr t w) 15 1 = 1 && (s.microOps t w).all microOk then .go (applyRecipe s t md w) (wordsAt (recipeAt x w) 256)
      else .fault .recipeUndef (some (recipeAt x w))
  | .missue => missueEff s t mode w
  | .mwait => if x.ops.length ≤ fOffset w then goOn .nop else .wait 0
  | .xget => xferIssueEff s t false w
  | .xput => xferIssueEff s t true w
  | .xwait => if x.xfers.length ≤ fOffset w then goOn .nop else .wait 0

end Sys2Proof.Machine
end

