-- ==== Sys2Proof/Machine/Bundles.lean ====
section
/-!
DEFINITION. Sys2Proof/Machine/Bundles.lean: how a tile executes a bundle (R116 to R128, R141, R142, R148, R201): fetch, the
causes of an exception in their order, exceptions and halts at restart points, poisoned memory, waits, and the effect of
both instructions at once. An issued bundle may be one step of a halted tile that had to wait (R141).
-/
namespace Sys2Proof.Machine

/-! ## Fetch -/

def Tile.bundleAt (x : Tile) : Nat := x.pbase + 16 * x.pc
/-- The instruction in slot k of the bundle at PC. -/
def State.slotWord (s : State) (t k : Nat) : Nat := s.readN (tileAt t + (s.tile t).bundleAt + 8 * k) 8
def State.fetchOk (s : State) (t : Nat) : Bool := decide ((s.tile t).pc < (s.tile t).plen)

/-- The header of the recipe that a word names, where it is one. -/
def State.slotHdr (s : State) (t w : Nat) : Nat := if classOf w = 0xA then s.recipeHdr t w else 0

/-! ## Causes (R116, R118, R119, R121, R124 to R126) -/

/-- Whether the two instructions of a bundle go together: no pipe twice but for an MSET with a turn (R143), no register written
twice. -/
def pairLegal (o0 o1 : TOp) (h0 h1 w0 w1 : Nat) : Bool :=
  (pipeOf o0 w0 == .none || pipeOf o0 w0 != pipeOf o1 w1 || msetPair o0 o1) &&
    (o0.writes h0 w0).all fun r => !(o1.writes h1 w1).contains r

/-- The causes that concern the bundle as a whole, in the order of R126; slot 0 reports them. -/
def Tile.bundleCauses (x : Tile) (o0 o1 : TOp) (h0 h1 w0 w1 : Nat) : List (Bool × Cause) :=
  let stops := x.loops.map LoopLevel.stop
  let turns := isBranch o0 || o0 == .loop || o0 == .mset
  let pair := msetPair o0 o1
  let sets := o0 == .mset || pair
  let loops := o0 == .loop || (pair && o1 == .loop)
  let l := x.loopLevel (if o0 == .loop then w0 else w1)
  [(!pairLegal o0 o1 h0 h1 w0 w1, .illegal),
   (turns && x.delay.isSome, .illegalDs),
   ((stops.contains x.pc && (turns || x.delay.isSome)) || (sets && stops.contains (x.pc + 1)) ||
      (loops && stops.any (fun e => e ≤ l.stop)), .loopHazard),
   (loops && l.count != 0 && x.loops.length == 4, .loopDepth),
   (x.checked && (isBranch o0 || o0 == .mset) &&
      (o1.writes h1 w1).any (fun r => (o0.reads h0 w0 ++ o1.reads h1 w1).contains r), .pairHazard)]

def Tile.shadowCause (x : Tile) (o : TOp) (w : Nat) : Bool :=
  x.checked && (match x.shadow with
    | some h => (h.hazard &&& o.modeDeps w) != 0
    | none => false)

/-- Whether a cause of an instruction is detected by the vector engine (R148): the memory causes of the memory classes, and
RECIPE_UNDEF. -/
def vecCause (w : Nat) (c : Cause) : Bool :=
  (classOf w == 4 || classOf w == 6) && (c == .misalign || c == .tmemRange || c == .tmemProt) || c == .recipeUndef

/-- A fault found: the slot, the cause, whether the vector engine found it, and the word for TSQ_EINFO. -/
structure Found where
  slot : Nat
  cause : Cause
  vec : Bool := false
  info : Option Nat := none
  deriving DecidableEq, Repr

def firstCause (l : List (Bool × Cause)) : Option Cause := (l.find? fun x => x.1).map Prod.snd

/-- What the two instructions do, and the fault of the bundle if it has one: slot 0 before slot 1 (R126). -/
def State.slotFault (s : State) (t mode k : Nat) (o : TOp) (w : Nat) : Option Found :=
  if (s.tile t).shadowCause o w then some ⟨k, .shadowHazard, false, none⟩
  else match instrEff s t mode o w with
    | .fault c i => some ⟨k, c, vecCause w c, i⟩
    | _ => none

def State.bundleFault (s : State) (t mode : Nat) : Option Found :=
  let x := s.tile t
  if !s.fetchOk t then some ⟨0, .pcRange, false, none⟩
  else
    let w0 := s.slotWord t 0
    let w1 := s.slotWord t 1
    match opOf w0 with
    | none => some ⟨0, .illegal, false, none⟩
    | some o0 =>
      if !fieldsOk o0 w0 then some ⟨0, .illegal, false, none⟩
      else match opOf w1 with
        | none => (firstCause ((x.bundleCauses o0 .nop (s.slotHdr t w0) 0 w0 0).drop 1)).elim
            (some ((s.slotFault t mode 0 o0 w0).getD ⟨1, .illegal, false, none⟩)) fun c => some ⟨0, c, false, none⟩
        | some o1 =>
          match firstCause (x.bundleCauses o0 o1 (s.slotHdr t w0) (s.slotHdr t w1) w0 w1) with
          | some c => some ⟨0, c, false, none⟩
          | none => match s.slotFault t mode 0 o0 w0 with
            | some f => some f
            | none =>
              if !fieldsOk o1 w1 || (pipeOf o1 w1 == .control && !msetPair o0 o1) then some ⟨1, .illegal, false, none⟩
              else s.slotFault t mode 1 o1 w1

/-! ## Restart points (R127) -/

def Tile.atEnd (x : Tile) : Bool := x.loops.any fun l => l.stop == x.pc
def Tile.restart (x : Tile) : Nat :=
  match x.shadow, x.delay with
  | some h, _ => h.restart
  | none, some d => d.branch
  | none, none => x.pc

/-- The word of TSQ_CAUSE for a cause at the bundle at PC. -/
def Tile.causeWord (x : Tile) (f : Found) : Nat :=
  f.cause.code + (if x.delay.isSome then 2 ^ 8 else 0) + (if x.shadow.isSome then 2 ^ 9 else 0) +
  (if x.atEnd then 2 ^ 10 else 0) + 2 ^ 11 * f.slot + (if f.vec then 2 ^ 12 else 0)

/-- The tile stands at its restart point: nothing of a delay slot or a shadow is left, and the loop levels are as they were at the
restart point, so that running on from there gives the same result (R127, log entry 127). -/
def Tile.rewound (x : Tile) : Tile :=
  { x with pc := x.restart, loops := (x.shadow.map Shadow.loops).getD x.loops, delay := none, shadow := none, waited := 0,
           stepping := false }

/-- Once per tile and turn (R148). -/
def tileKey (t : Nat) : Nat := 2 ^ 32 * (t + 1)

/-- A bench and a tile in one detail word. -/
def tileTag (t : Nat) : Nat := t / 16 + 256 * (t % 16)

/-- Set TSQ_CAUSE and TSQ_EPC, and log a catch of the tile with them and TSQ_EINFO (R148; how the words are packed is log entry 126):
`log` is how it is logged. -/
def tileCatch (t cause epc : Nat) (log : List Nat → Prog) : Prog :=
  all [setWord (tileReg t 0x004) cause, setWord (tileReg t 0x008) (epc % 2 ^ 13),
    look fun s => log [tileTag t, cause, epc % 2 ^ 13, (s.word (tileReg t 0x00C)).toNat]]

/-- TILE_HALTED (R141, R148). -/
def logHalted (t : Nat) (st : Option Nat) (ds : List Nat) : Prog := logC 0x3002 0 (t / 16) ds st

/-- A tile stops (R141): CAUSE and EPC tell where; `pass` where the bundle that stopped it is not to stop it again. -/
def haltAt (t : Nat) (pass : Bool) : Prog :=
  look fun s =>
    let x := s.tile t
    let f : Found := ⟨0, .brk, false, none⟩
    all [tileCatch t (x.causeWord f) x.restart (logHalted t x.stream),
      modTile t fun x => { x.rewound with run := 2, passBp := if pass then some x.pc else none },
      endUndone t stException]

/-- An exception (R126 to R128, R141, R148): no instruction of the bundle takes effect. -/
def takeException (t : Nat) (f : Found) : Prog :=
  look fun s =>
    let x := s.tile t
    let b := t / 16
    all [(match f.info with
        | some v => setWord (tileReg t 0x00C) v
        | none => .nop),
      incF ⟨tileReg t 0x08C, 0, 32⟩,
      tileCatch t (x.causeWord f) x.restart fun ds =>
        logLim (s.benchLimit b) (tileKey t) (if f.vec then 0x5001 else 0x3001) 2 b ds x.stream,
      endUndone t stException,
      if s.bit (F.TSQ_DBG_CTL_HALT_ON_EXC b (t % 16)) then all [
        modTile t fun x => { x.rewound with run := 2, excHalt := true },
        look fun u => logHalted t x.stream [tileTag t, x.causeWord f, x.restart % 2 ^ 13, (u.word (tileReg t 0x00C)).toNat]]
      else reloadTile t]

/-- Poisoned memory read by the sequencer or the vector engine (R201): the slice's chunks end FAIL_ECC and the tile reloads. -/
def tilePoison (t a : Nat) : Prog :=
  look fun s =>
    let st := (s.tile t).stream
    all [tmemPoison t a, logC 0x6002 2 (t / 16) (memDetail (tileAt t + a / 8 * 8) (t / 16) (t % 16) st) st,
      endUndone t stEcc, reloadTile t]

/-! ## Executing a bundle -/

/-- Count a wait of the bundle at PC, once (R135, R136, R137, R154). -/
def countWait (t slot kind : Nat) : Prog :=
  look fun s =>
    let b := 4 * slot + kind
    when (kind != 0 && !inMask (s.tile t).waited b) (all [
      modTile t fun x => { x with waited := x.waited + 2 ^ b },
      incF ⟨tileReg t (if kind = 1 then 0x084 else if kind = 2 then 0x080 else 0x118), 0, 32⟩])

/-- After END the tile has no program; a detached one reloads (R142). -/
def endProgram (t : Nat) : Prog :=
  look fun s => if (s.tile t).detached then reloadTile t
    else all [modTile t fun x => { x with run := 0, launch := none, stepping := false }, tileIdle t]

/-- A step ends: the tile halts where it has come to (R141). -/
def stepEnd (t : Nat) : Prog :=
  look fun s =>
    let x := s.tile t
    all [modTile t fun x => { x with run := 2, stepping := false },
      tileCatch t (x.causeWord ⟨0, .brk, false, none⟩) x.pc (logHalted t x.stream)]

/-- A tile whose sequencer stands where that of `y` does. -/
def Tile.standing (x y : Tile) (now : Nat) : Tile :=
  { x with pc := y.pc, mode := y.mode, shadow := y.shadow, delay := y.delay, loops := y.loops, vlens := y.vlens,
           waited := y.waited, passBp := y.passBp, issuedAt := now }

/-- Both instructions take effect, and the sequencer goes on. A step ends with it, but for a branch, whose step takes in its delay
slot. -/
def commit (t : Nat) (o0 o1 : TOp) (w0 w1 : Nat) (p0 p1 : Prog) : Prog :=
  look fun s =>
    let pre := s.tile t
    all [p0, p1,
      modTile t fun x => x.standing ({ pre with vlens := x.vlens }.advancePair o0 o1 w0 w1) s.now,
      if o0 == .end_ then endProgram t
      else when pre.stepping (look fun u => when (u.tile t).delay.isNone (stepEnd t))]

/-- Whether a breakpoint or a BRK stops the tile before the bundle at PC. -/
def State.breaks (s : State) (t : Nat) : Bool :=
  let x := s.tile t
  let b := t / 16
  let i := t % 16
  x.passBp != some x.pc &&
  ((s.bit (F.TSQ_DBG_CTL_BP0_EN b i) && s.fld (F.TSQ_BP_BP0 b i) == x.pc) ||
   (s.bit (F.TSQ_DBG_CTL_BP1_EN b i) && s.fld (F.TSQ_BP_BP1 b i) == x.pc) || opOf (s.slotWord t 0) == some .brk)

/-- The effects of both slots at once: poison before waits, and either before any effect. -/
def runSlots (t : Nat) (o0 o1 : TOp) (w0 w1 : Nat) (f0 f1 : Eff) : Prog :=
  match f0, f1 with
  | .poisoned a, _ => tilePoison t a
  | _, .poisoned a => tilePoison t a
  | .wait k, .wait j => all [countWait t 0 k, countWait t 1 j]
  | .wait k, _ => countWait t 0 k
  | _, .wait j => countWait t 1 j
  | .go p _, .go q _ => commit t o0 o1 w0 w1 p q
  | _, _ => .nop

/-- The tile addresses of the words that a bundle touches, once nothing holds it. -/
def touchedBy (f0 f1 : Eff) : List Nat :=
  match f0, f1 with
  | .go _ m, .go _ n => m ++ n
  | _, _ => []

/-- Errors that the codes of tile memory report in words at `l`: corrected ones count, words with others are poisoned (R201). -/
def tmemErrors (t : Nat) (c : Codes) (l : List Nat) : Prog :=
  let at_ (e : EccErr) : List Nat := l.filter fun a => c.find (a / 8 * 8) 8 == e
  all [each (at_ .corrected) (tmemCe t), each (at_ .uncorrectable) (tmemPoison t)]

/-- The bundle at PC, which has been fetched. `c` is what the codes report for the words that its instructions read, `e` for the first
of them. -/
def executeBundle (t : Nat) (c : Codes) (e : EccErr) : Prog :=
  look fun s =>
    let mode := (s.tile t).seenMode (s.tile t).stepping
    match s.bundleFault t mode with
    | some f => takeException t f
    | none =>
      if !(s.tile t).stepping && s.breaks t then haltAt t true
      else
        let w0 := s.slotWord t 0
        let w1 := s.slotWord t 1
        let o0 := (opOf w0).getD .nop
        let o1 := (opOf w1).getD .nop
        let m := touchedBy (instrEff s t mode o0 w0) (instrEff s t mode o1 w1)
        all [tmemErrors t (c ++ (m.take 1).map fun a => (a / 8 * 8, e)) m,
          look fun u => runSlots t o0 o1 w0 w1 (instrEff u t mode o0 w0) (instrEff u t mode o1 w1)]

/-- The slots of the launch's chunks that are past their bound with a stage that this tile owes (R95). -/
def State.overdue (s : State) (t : Nat) : List Nat :=
  match (s.tile t).launch with
  | none => []
  | some l => (l.chunks.filter fun c => match s.runIdx l.stage c with
    | some i => let k := (s.slot c.1).chunks.getD i {}; k.owing.contains t && s.reached (s.boundOf k + 1)
    | none => false).map Prod.fst

/-- The bundle at PC of a tile. A program that is past the bound of one of its chunks has ended (R95). -/
def runBundle (t : Nat) (c : Codes) (e : EccErr) : Prog :=
  look fun s =>
    if !(s.overdue t).isEmpty then each (s.overdue t) fun n => look fun s => overrunIf n fun b => s.reached (b + 1)
    else
      let l := if s.fetchOk t then [(s.tile t).bundleAt, (s.tile t).bundleAt + 8] else []
      all [tmemErrors t c l, look fun s => match s.poisonAt t 8 l with
        | some a => tilePoison t a
        | none => executeBundle t c e]

/-- Whether slot k of the bundle that tile `t` would issue holds an instruction of row `op`; a bundle that cannot be fetched
or decoded is any row's. -/
def State.names (s : State) (t k : Nat) (op : TOp) : Bool :=
  !s.fetchOk t || (s.poisonAt t 8 [(s.tile t).bundleAt, (s.tile t).bundleAt + 8]).isSome ||
  (match opOf (s.slotWord t k) with
    | some o => o == op
    | none => true)

/-- A tile that runs issues the bundle at its PC, in whose slot k an instruction of row `op` stands. -/
def issue (t : Nat) (k : BundleSlot) (op : TOp) (e : EccErr := .none) : Prog :=
  look fun s => when ((s.tile t).run == 1 && decide (k.slot < 2) && s.ready && s.names t k.slot op) (runBundle t k.codes e)

/-! ## The rows: control pipe -/

def execTNop (t : Nat) (k : BundleSlot) (s : State) : Host.Outcome State Fault Refusal := done (issue t k .nop) s
def execTEnd (t : Nat) (k : BundleSlot) (s : State) : Host.Outcome State Fault Refusal := done (issue t k .end_) s
def execTMset (t : Nat) (k : BundleSlot) (s : State) : Host.Outcome State Fault Refusal := done (issue t k .mset) s
def execTFence (t : Nat) (k : BundleSlot) (s : State) : Host.Outcome State Fault Refusal := done (issue t k .fence) s
def execTTick (t : Nat) (k : BundleSlot) (s : State) : Host.Outcome State Fault Refusal := done (issue t k .tick) s
def execTChk (t : Nat) (k : BundleSlot) (s : State) : Host.Outcome State Fault Refusal := done (issue t k .chk) s
def execTHdr (t : Nat) (k : BundleSlot) (s : State) : Host.Outcome State Fault Refusal := done (issue t k .hdr) s
def execTCdone (t : Nat) (k : BundleSlot) (s : State) : Host.Outcome State Fault Refusal := done (issue t k .cdone) s
def execTBrk (t : Nat) (k : BundleSlot) (s : State) : Host.Outcome State Fault Refusal := done (issue t k .brk) s
def execTBranch (t : Nat) (k : BundleSlot) (s : State) : Host.Outcome State Fault Refusal := done (issue t k .branch) s
def execTCall (t : Nat) (k : BundleSlot) (s : State) : Host.Outcome State Fault Refusal := done (issue t k .call) s
def execTRet (t : Nat) (k : BundleSlot) (s : State) : Host.Outcome State Fault Refusal := done (issue t k .ret) s
def execTLoop (t : Nat) (k : BundleSlot) (s : State) : Host.Outcome State Fault Refusal := done (issue t k .loop) s
def execTSetvl (t : Nat) (k : BundleSlot) (s : State) : Host.Outcome State Fault Refusal := done (issue t k .setvl) s
def execTMissue (t : Nat) (k : BundleSlot) (s : State) : Host.Outcome State Fault Refusal := done (issue t k .missue) s
def execTMwait (t : Nat) (k : BundleSlot) (s : State) : Host.Outcome State Fault Refusal := done (issue t k .mwait) s
def execTXget (t : Nat) (k : BundleSlot) (s : State) : Host.Outcome State Fault Refusal := done (issue t k .xget) s
def execTXput (t : Nat) (k : BundleSlot) (s : State) : Host.Outcome State Fault Refusal := done (issue t k .xput) s
def execTXwait (t : Nat) (k : BundleSlot) (s : State) : Host.Outcome State Fault Refusal := done (issue t k .xwait) s

end Sys2Proof.Machine
end

