-- ==== Sys2Proof/Machine/ChuckLoads.lean ====
section
/-!
DEFINITION. Sys2Proof/Machine/ChuckLoads.lean: the boot sources of the Chuck (R313 to R315, R520 to R523), how a load begins and
how it ends without an image (R317, R325, R342, R346, R536), and when the USB port is attached (R533, R562).
-/
namespace Sys2Proof.Machine

/-! ## Boot sources -/

def srcFlash : Nat := 1
def srcHost : Nat := 2
def srcUsb : Nat := 3
def srcSpi : Nat := 4

/-- The order of R313 under BOOTSEL. -/
def bootOrder (bootsel : Nat) : List Nat :=
  if bootsel = 0 then [srcFlash, srcHost, srcUsb, srcSpi]
  else if bootsel = 1 then [srcHost, srcFlash, srcUsb, srcSpi]
  else if bootsel = 2 then [srcUsb]
  else [srcSpi, srcFlash, srcHost, srcUsb]

/-- The sources that the fuses leave (R313). -/
def State.bootSources (s : State) : List Nat :=
  (bootOrder (s.fld F.IMG_STATUS_BOOTSEL)).filter fun x =>
    !(x == srcUsb && fuseBit s.dev.chuck 3) && !(x == srcSpi && fuseBit s.dev.chuck 4)

/-- Begin with the first of the sources left, or wait for the first FULL image from any source (R315). -/
def startSource : Prog :=
  look fun s => match s.dev.chuck.sources with
    | [] => all [modChuck fun c => { c with load := none }, setF F.IMG_STATUS_CHUCK 4, logC 0x9004 2 127 []]
    | x :: _ => all [
        modChuck fun c => { c with load := none, sourceAt := s.now, probed := false, retries := 0 },
        setF F.IMG_STATUS_CHUCK 1, setF F.IMG_STATUS_SRC x,
        incF F.IMG_STATUS_TRIED]

def setResult (code seg : Nat) : Prog := all [setF F.IMG_RESULT_CODE code, setF F.IMG_RESULT_SEG seg]

/-- Leave a source for the next one (R314). -/
def leaveSource (code : Nat) : Prog :=
  look fun s => all [
    logC 0x9003 1 127 [s.dev.chuck.sources.headD 0, code],
    modChuck fun c => { c with sources := c.sources.drop 1 }, startSource]

/-- A source from which no image came is left with SOURCE or HEADER as the result. -/
def failSource (code : Nat) : Prog := all [setResult code 0, leaveSource code]

/-- The QSCK divider of the boot read rate (R520). -/
def State.bootDiv (s : State) : Nat := if bitsOf (s.word F.GEN_STRAPS_TBFSEL.off).toNat 6 1 = 1 then 20 else 40

/-- The first steps of a boot attempt from flash (R521 to R523). -/
def probeFlash (f : FlashIn) : Prog :=
  look fun s =>
    let quad := f.sfdp && f.quadOn
    if f.id.length != 3 || f.id.all (· == 0) || f.id.all (· == 0xFF) then failSource rSource
    else all [
      setB F.QSPI_STATUS_SFDP f.sfdp,
      setF F.QSPI_STATUS_MODE (if quad && f.quad144 then 2 else if quad && f.quad114 then 1 else 0),
      setB F.QSPI_STATUS_ADDR4 (f.sfdp && f.addr4 && decide (0x1000000 < f.density)),
      setF F.QSPI_DENSITY (if f.sfdp then f.density else 0),
      modChuck fun c => { c with probed := true, blockDiv := if f.sfdp then s.bootDiv else 80 },
      when (!f.sfdp) (logLim (.ticks 2500000) 127 0xC011 0 127 []),
      when (f.sfdp && (f.quad144 || f.quad114) && !f.quadOn) (logLim (.ticks 2500000) 127 0xC012 0 127 [])]

/-- The bytes of the flash that the Chuck can reach (R521, R523). -/
def State.flashReach (s : State) : Nat :=
  if s.bit F.QSPI_STATUS_ADDR4 then min (s.fld F.QSPI_DENSITY) 0x8000000
  else if s.bit F.QSPI_STATUS_SFDP then min (s.fld F.QSPI_DENSITY) 0x1000000
  else 0x1000000

/-! ## How a load begins -/

def loadUnit (kind part : Nat) : Nat := if kind = 1 || kind = 2 then 32 + part else 127

/-- The conditions of R325 on the device, beside an idle Chuck. -/
def State.loadState (s : State) (kind part : Nat) : Bool :=
  if kind = 0 then s.enabledMask == 0
  else if kind = 1 then (s.part part).regrip.isNone && (s.part part).retiring.isNone
  else kind == 2 && !s.partOn part && (s.part part).regrip.isNone && (s.part part).retiring.isNone

/-- Whether a load may begin (R315, R325, R342): while the Chuck boots only a FULL one, from the source at which it is. -/
def State.mayLoad (s : State) (kind part src : Nat) : Bool :=
  let c := s.dev.chuck
  kind < 3 && c.load.isNone && s.loadState kind part &&
    (if c.booting then kind == 0 && (s.fld F.IMG_STATUS_CHUCK == 4 || c.sources.head? == some src)
     else s.fld F.IMG_STATUS_CHUCK == 0)

/-- A load begins. A STAGE load discards the staged plane that the partition holds (R325). -/
def beginLoad (kind part src len : Nat) : Prog :=
  look fun s => all [
    when (kind == 1) (all [modPart part fun x => { x with staged := none }, setF (F.IMG_SBUILD part) 0]),
    modChuck fun c => { c with load := some { kind, part, src, boot := c.booting, len, lastData := s.now } },
    setF F.IMG_STATUS_CHUCK 1, setF F.IMG_STATUS_SRC src, setF F.IMG_DONE 0]

/-- A load that breaks its conditions fails with STATE. -/
def refuseLoad (kind part src : Nat) : Prog :=
  all [setResult rState 0, logC 0x9001 2 (loadUnit kind part) [rState, 0, src]]

def requestLoad (kind part src len : Nat) : Prog :=
  look fun s => if s.mayLoad kind part src then beginLoad kind part src len else refuseLoad kind part src

/-! ## How a load ends without an image -/

/-- The bodies of the first `n` segments, as far as they have arrived and open. -/
def bodiesRead (imgKey : Option (List Byte)) (bs : List Byte) (n : Nat) : Bodies :=
  ((segsOf bs).take n).filterMap fun g => if bs.length < g.stop then none else (g.body imgKey bs).map fun b => (g, b)

def Bodies.storeData (b : Bodies) (p : Nat) : StoreData :=
  (b.filter fun x => x.1.type == 5 && x.1.part == p).map fun x => (x.1.dest, x.2)

/-- Where a load for partition `p` writes nothing: what lies in reach of units that serve (R317, R326), the system area and the page
ledger. -/
def State.outOfLoad (s : State) (kind p : Nat) : List (Nat × Nat) :=
  let planes := if kind = 0 then [] else (s.presentPlanes.filter fun x => kind == 1 || x.1 != p).map Prod.snd ++
    partIds.flatMap fun q => ((s.part q).retiring.map Prod.fst).toList
  systemArea :: s.ledgerRange :: planes.flatMap fun a => a.region :: a.carveRanges

/-- The tiles whose memory a load writes before it is accepted (R327): those of a plane in force, which keep it. -/
def State.tileInLoad (s : State) (kind p t : Nat) : Bool :=
  s.unitState (t / 16) != bBlank && !s.fenced (t / 16) &&
  (if kind = 0 then (s.benchPart (t / 16)).isSome else (s.part p).active.any fun a => a.holdsTile t)

/-- Zero-fill what the Chuck had written for one plane (R317): the ranges that its partition gains (R209), the STOREDATA, and the data
blocks in tiles of a plane in force. -/
def unwrite (kind p : Nat) (pl : Plane) (sd : StoreData) : Prog :=
  look fun s => when (!pl.release) (all [
    each ((pl.carveRanges.flatMap (rangeMinus ((s.part p).active.getD {}).carveRanges) ++
        sd.map fun d => (storeAt + d.1, storeAt + d.1 + d.2.length)).flatMap (rangeMinus (s.outOfLoad kind p))) fun r => zeroFill r.1 r.2,
    when (kind != 1 || ((s.part p).active.all fun a => footprintsOk a pl))
      (each (pl.tiles.filter fun r => s.tileInLoad kind p r.tile && tileRecOk pl r) fun r =>
        each r.data fun d => zeroFill (tileAt r.tile + d.1) (tileAt r.tile + d.1 + d.2.length))])

/-- The partitions for which an image carries plane segments. -/
def Bodies.parts (b : Bodies) : List Nat :=
  partIds.filter fun p => b.any fun x => decide (x.1.type < 0x20) && x.1.part == p

/-- A load's image has passed step 1 of R317: its header and its segment table have arrived and are right. -/
def State.headOk (s : State) (l : Load) : Bool :=
  let h := hdrOf l.bytes
  256 ≤ l.bytes.length && h.tableEnd ≤ l.bytes.length &&
    (headFault (s.loadState l.kind l.part) (l.kind != 0) l.part l.bytes h.length).isNone

/-- R318: an open device accepts any key, and says so once per load (log entry 125). -/
def noteOpen (l : Load) : Prog :=
  look fun s => when (s.headOk l && keyOk s.dev.chuck l.bytes) (all [
    setB F.IMG_STATUS_OPEN (!fuseBit s.dev.chuck 0), when (!fuseBit s.dev.chuck 0) (logC 0x9005 0 127 [])])

/-- Undo what had been written of a load whose image failed with `code` at segment `seg` (R317): the Chuck writes bodies once steps 1 to
4 have passed. -/
def unwriteLoad (l : Load) (code seg : Nat) : Prog :=
  look fun s =>
    let h := hdrOf l.bytes
    let n := if code = rDecrypt || code = rHeader then seg else h.nseg
    let b := bodiesRead s.dev.chuck.bodyKey l.bytes n
    when (s.headOk l && (keyFault s.dev.chuck l.bytes).isNone)
      (each b.parts fun p => unwrite l.kind p (planeOf h b p) (b.storeData p))

/-- The load in progress is rejected (R317): nothing of it remains. At boot the Chuck leaves the source, or waits on. -/
def rejectLoad (code seg : Nat) : Prog :=
  look fun s => match s.dev.chuck.load with
    | none => .nop
    | some l => all [
        noteOpen l, unwriteLoad l code seg,
        setResult code seg, setF F.IMG_DONE l.bytes.length,
        modChuck fun c => { c with load := none },
        logC 0x9001 2 (loadUnit l.kind l.part) [code, seg, l.src],
        (if !l.boot then setF F.IMG_STATUS_CHUCK 0
         else if s.dev.chuck.sources.isEmpty then setF F.IMG_STATUS_CHUCK 4
         else leaveSource code)]

/-- A load that has not been accepted yet ends with a code (R346, R378, R531). -/
def endLoad (sel : Load → Bool) (code : Nat) : Prog :=
  look fun s => when (s.dev.chuck.load.any sel && s.fld F.IMG_STATUS_CHUCK != 3) (rejectLoad code 0)

/-- Bytes arrive for the load in progress; those beyond LENGTH are ignored (R531, R537). -/
def loadBytes (bs : List Byte) : Prog :=
  look fun s => match s.dev.chuck.load with
    | none => .nop
    | some l =>
      let got := l.bytes ++ bs
      let got := if 256 ≤ got.length then got.take (max 256 (hdrOf got).length) else got
      all [modChuck fun c => { c with load := some { l with bytes := got, lastData := s.now } }, setF F.IMG_DONE got.length]

/-! ## The USB port's attachment (R533, R562) -/

def modSvc (f : Service → Service) : Prog := modDev fun d => { d with svc := f d.svc }

/-- The pull-up is connected while VBUS is present in a device that works, but not in FREE on the internal RC, nor for 1 ms after a cold
reset (R545). -/
def State.usbMay (s : State) : Bool :=
  s.ready && s.dev.svc.usbOff == 0 && s.dev.pwr.pins.vbus && !(s.unitState 40 == 0 && !s.bit F.TB_STATUS_XTAL)

/-- Nothing of the session with the USB host is left; a record cut off is sent again from its start (R536). -/
def usbForget : Prog :=
  all [modSvc fun v => { v with usbAddr := 0, usbBefore := 0, usbHalt := 0, ep2 := none }, setF F.USB_STATUS_HS 0]

/-- An image load from EP1 is lost (R536). -/
def usbLoseLoad : Prog :=
  look fun s => when (s.dev.chuck.load.any (fun l => l.src == srcUsb) && s.fld F.IMG_STATUS_CHUCK != 3)
    (all [rejectLoad rAborted 0, logC 0xC032 1 116 []])

def usbDetach : Prog := all [usbLoseLoad, usbForget, declareUnit 116 0]

/-- The port attaches or detaches as its conditions have come to stand. -/
def usbCheck : Prog :=
  look fun s => if s.usbMay then when (s.unitState 116 == 0) (declareUnit 116 1)
    else when (s.unitState 116 != 0) usbDetach

end Sys2Proof.Machine
end

