-- ==== Sys2Proof/Machine/PortOps.lean ====
section
/-!
DEFINITION. Sys2Proof/Machine/PortOps.lean: the commands of the serial audio ports (R460 to R483).
-/
namespace Sys2Proof.Machine

def State.portWidth (s : State) (k : Nat) : Nat := [16, 24, 32].getD (s.fld (F.AUD_CFG_WIDTH k)) 32
def State.portSlots (s : State) (k : Nat) : Nat := s.fld (F.AUD_CFG_SLOTSM1 k) + 1
/-- The frame length F in BCLK periods (R460). -/
def State.frameLen (s : State) (k : Nat) : Nat := s.portSlots k * s.portWidth k
def State.selfFramed (s : State) (k : Nat) : Bool := s.fld (F.AUD_CFG_MODE k) == 3

/-- The port is enabled and not fenced, in a device that works. -/
def State.portOn (s : State) (k : Nat) : Bool := decide (k < 4) && s.unitState (108 + k) != 0 && !s.fenced (108 + k) && s.ready

/-- Whether the port drives its BCLK pin and its FSYNC pin (R463, R465): in SOURCE role while it is enabled, and FSYNC not in self-framed
mode. What it drives on DOUT is `State.dout`. -/
def State.drivesBclk (s : State) (k : Nat) : Bool := s.portOn k && s.fld (F.AUD_CFG_ROLE k) == 0
def State.drivesFsync (s : State) (k : Nat) : Bool := s.drivesBclk k && !s.selfFramed k
/-- The DOUT slots that the port drives in the frame that runs, with their data bits (R464, R465). -/
def State.dout (s : State) (k : Nat) : List (Nat × Nat) := if s.portOn k then (s.port k).driven else []

/-- An event of a port's entries is logged once per turn of the owning partition (R484). -/
def portDrop (k i : Nat) : Prog :=
  look fun s =>
    let slot := s.fld (F.AUD_IN_MAP_STREAM k i)
    all [incF (F.AUD_DROPS k), logLim (s.slotLimit slot) (portMark k (s.slotLimit slot)) 0xB009 0 (108 + k) [k, i, slot] (some slot)]

/-- The entries of a port that are VALID. -/
def State.portEntries (s : State) (k : Nat) : List Nat := (List.range (s.portSlots k)).filter fun i => s.bit (F.AUD_IN_MAP_VALID k i)

def forEntries (k : Nat) (f : Nat → Nat → Prog) : Prog :=
  look fun s => each (s.portEntries k) fun i => f i (s.fld (F.AUD_IN_MAP_STREAM k i))

def unframePort (k : Nat) : Prog := forEntries k fun i slot => unframe (32 * k + i) slot (portDrop k i)

/-! ## Self-framed alignment (R470, R471, R482) -/

/-- One position of one frame of the search: a match counts or is tracked while fewer than eight are, a miss drops the
candidate. -/
def searchAt (matches_ : List Nat) (cand : List (Nat × Nat)) (x : Nat) : List (Nat × Nat) :=
  if matches_.contains x then
    (if cand.any (fun c => c.1 == x) then cand.map fun c => if c.1 = x then (x, c.2 + 1) else c
     else if cand.length < 8 then cand ++ [(x, 1)] else cand)
  else cand.filter fun c => c.1 != x

def searchFrame (n : Nat) (matches_ : List Nat) (cand : List (Nat × Nat)) : List (Nat × Nat) :=
  (List.range n).foldl (searchAt matches_) cand

def showSearch (k : Nat) : Prog :=
  look fun s =>
    let p := s.port k
    all [setF (F.AUD_SF_STAT_CANDIDATES k) p.cand.length, setB (F.AUD_SF_STAT_LOCKED k) p.lock.isSome,
      setF (F.AUD_SF_STAT_POS k) (p.lock.getD 0), setB (F.AUD_STATUS_LOCKED k) p.lock.isSome]

/-- NCONF: codes below 2 act as 2, above 8 as 8. -/
def State.nconf (s : State) (k : Nat) : Nat := max 2 (min 8 (s.fld (F.AUD_SYNC_NCONF k)))

/-- One frame of the search. -/
def search (k : Nat) (matches_ : List Nat) : Prog :=
  look fun s =>
    let cand := searchFrame (s.frameLen k) matches_ (s.port k).cand
    let q := cand.filter fun c => s.nconf k ≤ c.2
    all [
      (match q with
        | [] => modPort k fun p => { p with cand }
        | [c] => all [modPort k fun p => { p with cand, lock := some c.1, misses := 0 }, logLim (.ticks 2500000) k 0xB006 0 (108 + k) [c.1],
            declareUnit (108 + k) 3]
        | _ => all [modPort k fun p => { p with cand := [] }, incF (F.AUD_SF_AMBIG k), logC 0xB007 1 (108 + k) [k]]),
      showSearch k]

/-- A locked frame: whether its sync word missed, and what three misses bring. -/
def syncMiss (k : Nat) : Prog :=
  look fun s =>
    let n := (s.port k).misses + 1
    if n = 3 then all [logC 0xB008 1 (108 + k) [k], incF (F.AUD_SF_LOSSES k), unframePort k,
      modPort k fun p => { p with lock := none, misses := 0, cand := [] }, declareUnit (108 + k) 2, showSearch k]
    else modPort k fun p => { p with misses := n }

/-! ## Frames (R460, R462, R464, R466 to R468) -/

/-- The data bits of a DIN slot (R462). -/
def State.dataBits (s : State) (k raw : Nat) : Nat × Nat :=
  let w := s.portWidth k
  let g := s.fld (F.AUD_CFG_GUARD k)
  (bitsOf raw g (w - 2 * g), w - 2 * g)

/-- A sample of width `n` from the data bits: their top bits, short ones reading as zero. -/
def alignBits (d : Nat × Nat) (n : Nat) : Nat := if n ≤ d.2 then d.1 / 2 ^ (d.2 - n) else d.1 * 2 ^ (n - d.2)

/-- An input sample as bytes, for the FMT code of its entry. -/
def State.portBytes (s : State) (k fmt raw : Nat) : List Byte :=
  let d := s.dataBits k raw
  if fmt = 0 then toBytes 2 (alignBits d 16) else if fmt = 1 then bytes24 (alignBits d 24) s.free else toBytes 4 (alignBits d 32)

def State.entryFlags (s : State) (k i : Nat) : FlagBind × FlagBind :=
  (⟨s.bit (F.AUD_IN_MAP_EN0 k i), s.bit (F.AUD_IN_MAP_RISE0 k i), s.fld (F.AUD_IN_MAP_LINE0 k i)⟩,
   ⟨s.bit (F.AUD_IN_MAP_EN1 k i), s.bit (F.AUD_IN_MAP_RISE1 k i), s.fld (F.AUD_IN_MAP_LINE1 k i)⟩)

/-- Deliver one frame's input slots. -/
def deliver (k : Nat) (data : List Nat) (suspect : Bool) : Prog :=
  forEntries k fun i slot => look fun s =>
    addSample (32 * k + i) slot (s.entryFlags k i).1 (s.entryFlags k i).2 suspect
      (s.portBytes k (s.fld (F.AUD_IN_MAP_FMT k i)) (data.getD i 0))

/-- The slots of DOUT that the port owns (R464). -/
def State.owned (s : State) (k : Nat) : List Nat :=
  (List.range (s.portSlots k)).filter fun i => !s.bit (F.AUD_CFG_SHARED k) || inMask (s.fld (F.AUD_OWN k)) i

/-- The sample that an output slot sends in a frame that starts now. -/
def State.outSample (s : State) (k i : Nat) : Option Nat :=
  let o := s.out (32 * k + i)
  if s.reached o.start then o.playing.head? else none

/-- The data bits that carry a sample of a format (R462): its top bits, then zeros. -/
def State.outBits (s : State) (k fmt v : Nat) : Nat :=
  let n := (s.dataBits k 0).2
  let w := if fmt = 0 then 16 else if fmt = 1 then 24 else 32
  if w ≤ n then bitsOf v 0 w * 2 ^ (n - w) else bitsOf v 0 w / 2 ^ (w - n)

/-- What DOUT slot `i` carries: the sync word in slot 0 of a self-framed port, the sample of its result, or zero. -/
def State.slotOut (s : State) (k i : Nat) : Nat :=
  if s.selfFramed k && i == 0 then s.outBits k 1 (s.fld (F.AUD_SYNC_SYNC k))
  else match s.outSample k i with
    | some v => s.outBits k (s.out (32 * k + i)).fmt v
    | none => 0

/-- Send one frame: every playing result moves on by one sample, also in a yielded frame, in which nothing is driven
(R464, R467, R479). -/
def sendFrame (k : Nat) (yielded : Bool) : Prog :=
  look fun s =>
    let sending := (List.range 32).filter fun i => (s.outSample k i).isSome
    all [modPort k fun p => { p with driven := if yielded then [] else (s.owned k).map fun i => (i, s.slotOut k i) },
      when yielded (all [addF (F.AUD_YIELDED k) (sending.filter (s.owned k).contains).length,
        logLim (.ticks 2500000) k 0xB002 0 (108 + k) [k, 0, 0]]),
      each sending fun i => modOut (32 * k + i) fun o => { o with playing := o.playing.drop 1 }]

/-- Whether an owned slot has a guard window on a side: not where its neighbour on that side, in this frame or the one beside it, is owned
too (R466). -/
def State.hasWindow (s : State) (k : Nat) (x : Nat × Bool) : Bool :=
  let n := s.portSlots k
  (s.owned k).contains x.1 && !(s.owned k).contains ((x.1 + if x.2 then 1 else n - 1) % n)

/-- The chatter of a frame that the detector sees (R466). -/
def State.chatterOf (s : State) (k : Nat) (f : FrameIn) : List (Nat × Bool) :=
  if s.bit (F.AUD_CHAT_DETECT_EN k) && s.bit (F.AUD_CFG_SHARED k) then f.chatter.filter (s.hasWindow k) else []

/-- Chatter (R467): counted and logged; the frame's samples are in doubt, and the next frame may be yielded. -/
def noteChatter (k : Nat) (c : List (Nat × Bool)) : Prog :=
  look fun s => all [
    each c fun x => all [incF (F.AUD_CHATTERS k), logC 0xB001 1 (108 + k) [k, x.1, 0, if x.2 then 1 else 0]],
    when (!c.isEmpty && s.bit (F.AUD_CHAT_CHATTER_YIELD k)) (modPort k fun p => { p with yieldNext := true })]

/-- A frame start that comes after a wrong count of BCLK periods (R468). -/
def realign (k : Nat) : Prog :=
  all [forEntries k fun i slot => discard (32 * k + i) slot (portDrop k i), incF (F.AUD_REALIGNS k), logC 0xB003 1 (108 + k) [k]]

/-- A frame of a port whose framing is known. -/
def frame (k : Nat) (f : FrameIn) (missed : Bool) : Prog :=
  look fun s =>
    let yielded := (s.port k).yieldNext
    let chat := s.chatterOf k f
    all [setF (F.AUD_FS_STAMP_LO k) s.now, setF (F.AUD_FS_STAMP_HI k) (s.now / 2 ^ 32),
      when (s.unitState (108 + k) != 3) (declareUnit (108 + k) 3),
      when (s.fld (F.AUD_CFG_ROLE k) == 1 && !s.selfFramed k && (s.port k).seen && f.bclks != s.frameLen k) (realign k),
      modPort k fun p => { p with seen := true, yieldNext := false },
      noteChatter k chat, deliver k f.data (!chat.isEmpty || missed), sendFrame k yielded]

/-- R460: one frame of a port. In self-framed mode it is a frame of the search until the port has locked; then a missed
sync word leaves its frame in doubt. -/
def portFrame (k : Nat) (f : FrameIn) : Prog :=
  look fun s =>
    if !s.selfFramed k then frame k f false
    else match (s.port k).lock with
      | none => all [when (s.unitState (108 + k) == 1) (declareUnit (108 + k) 2), search k f.matches_, modPort k fun p => { p with driven := if s.bit (F.AUD_CFG_SHARED k) then []
          else ((s.owned k).map (fun i => (i, if i = 0 then s.slotOut k 0 else 0))) }]
      | some x =>
        let hit := f.matches_.contains x
        all [frame k f (!hit), if hit then modPort k fun p => { p with misses := 0 } else syncMiss k]

def execPortFrame (k : Nat) (f : FrameIn) (s : State) : Host.Outcome State Fault Refusal :=
  done (when (s.portOn k) (portFrame k f)) s

/-- R475: the port files the last sample of a chunk, 16 ticks after its last bit, which comes after the start of its frame. -/
def execPortChunkStamp (k i : Nat) (s : State) : Host.Outcome State Fault Refusal :=
  done (let fmt := s.fld (F.AUD_IN_MAP_FMT k i)
    when (s.portOn k && decide (i < 32)) (fileChunk (32 * k + i) (s.fld (F.AUD_IN_MAP_STREAM k i)) 2 fmt (s.fld (F.AUD_CFG_RATE k))
      (unitBytes fmt) 16 false (portDrop k i))) s

/-- A loss of R469: the port and its entries are unframed. -/
def portLost (k st code : Nat) : Prog :=
  all [unframePort k, modPort k fun p => { p with seen := false, lock := none, cand := [], misses := 0, driven := [] },
    declareUnit (108 + k) st, logC code 1 (108 + k) [k], showSearch k]

/-- The port follows a clock that it has seen. -/
def State.portFollows (s : State) (k : Nat) : Bool :=
  s.portOn k && s.fld (F.AUD_CFG_ROLE k) == 1 && s.unitState (108 + k) != 1

def execFsyncLost (k : Nat) (s : State) : Host.Outcome State Fault Refusal :=
  done (when (s.portFollows k && !s.selfFramed k && s.unitState (108 + k) == 3) (portLost k 2 0xB004)) s

def execBclkLost (k : Nat) (s : State) : Host.Outcome State Fault Refusal :=
  done (when (s.portFollows k) (portLost k 1 0xB005)) s

/-! ## Timetable entries for the ports (R473, R474, R476, R477) -/

def isPort (u : Nat) : Bool := 108 ≤ u && u ≤ 111

def execPortAlign (part entry : Nat) (old : Bool) (s : State) : Host.Outcome State Fault Refusal :=
  done (onSample part entry old isPort 0 fun u d =>
    let k := u - 108
    -- a frame start is to follow: the port is ready, in self-framed mode locked
    when (s.portOn k && s.unitState (108 + k) == 3) (
      each ((s.portEntries k).filter (inMask d.2)) fun i =>
        frameEntry (32 * k + i) (s.fld (F.AUD_IN_MAP_STREAM k i)) (s.port k).enabledAt)) s

def execPortPlay (part entry : Nat) (old : Bool) (s : State) : Host.Outcome State Fault Refusal :=
  done (onSample part entry old isPort 1 fun u d => each (membersOf d.2 32) fun i =>
    playOut u i part (s.fld (F.AUD_CFG_RATE (u - 108))) 16 [0, 1, 2]) s

def execEmitPort (part entry : Nat) (how : EmitHow) (s : State) : Host.Outcome State Fault Refusal :=
  done (onEmit part entry how isPort) s

end Sys2Proof.Machine
end

