-- ==== Sys2Proof/Machine/Segments.lean ====
section
/-!
DEFINITION. Sys2Proof/Machine/Segments.lean: the device segments of a FULL image (R309): DEVICE, PORTS (R461, R464, R472),
ARRAY (R402, R404, R417, R430) and FABRIC (R444, R454); their checks and their application (R657); the checks that tie a
plane's EMITS and SAMPLES to them (R407, R414, R473, R476); and the settings that return to them (R578).
-/
namespace Sys2Proof.Machine

/-! ## Records -/

/-- One record of a device segment: a register offset with the value of its word, and for a matrix record 0x1000 plus the
terminal with the two words of its tracks (R430, R472). The DEVICE segment, whose body the spec does not lay out, is taken
to hold the same records, with offsets into BAR0. -/
structure SegRec where
  off : Nat
  val : Nat
  val2 : Nat
  deriving DecidableEq, Repr

def segRecs (wide : Bool) (body : List Byte) : List SegRec :=
  (records 16 body).map fun r => ⟨if wide then w32 r 0 else bitsOf (w32 r 0) 0 16, w32 r 4, w32 r 8⟩

/-- The value that a segment gives a register: of its last record for it, otherwise zero. -/
def recVal (l : List SegRec) (off : Nat) : Nat :=
  match l.reverse.find? fun r => r.off == off with
  | some r => r.val
  | none => 0

def devBase : Nat := 0
def audBase : Nat := 0x400000
def arrBase : Nat := 0x420000

/-- The registers that the DEVICE segment sets (R278, R586). -/
def devImage : List Nat := [0x60010, 0x60014, 0x60030, 0x6003C, 0x300004, 0x300008]

/-- The registers that the PORTS segment sets, as offsets into the AUD block (R485). -/
def audImage : List Nat :=
  (List.range 4).flatMap fun p => ([0x008, 0x00C, 0x010, 0x014] ++ (List.range 32).map fun s => 0x100 + 8 * s).map (0x1000 * p + ·)

/-- The registers that the ARRAY segment sets, as offsets into the ARR block (R430, R459). -/
def arrImage : List Nat :=
  [0x004, 0x020] ++ ((List.range 16).flatMap fun i => [0, 4, 8, 0xC, 0x10].map (0x100 + 0x20 * i + ·)) ++
  ((List.range 8).map fun k => 0x300 + 0x10 * k) ++ ((List.range 8).map fun j => 0x400 + 0x10 * j) ++
  ((List.range 4).map fun m => 0x500 + 8 * m) ++ ((List.range 12).flatMap fun c => [0x700 + 8 * c, 0x704 + 8 * c]) ++
  (List.range 16).map fun i => 0x840 + 4 * i

/-- Give every register of a list the value of a segment. -/
def applyRecs (base : Nat) (offs : List Nat) (l : List SegRec) : Prog :=
  each offs fun o => setWord (base + o) (fieldBits (base + o) (recVal l o))

/-! ## DEVICE -/

def applyDevice (body : List Byte) : Prog :=
  let l := segRecs true body
  all [applyRecs devBase devImage l, modPwr fun w => { w with imgTileMhz := bitsOf (recVal l 0x60010) 0 12, tileClk := none },
    look fun s => modPwr fun w => { w with wdogAt := s.now }, setVreq]

/-- The page ledger lies in the Store, outside the system area (R242). -/
def State.ledgerOk (s : State) : Bool :=
  s.fld F.KV_LEDGER_SIZE_ENTRIES == 0 || (s.ledgerRange.2 ≤ storeAt + storeSize && disjoint s.ledgerRange systemArea)

/-! ## PORTS -/

/-- The frame rates of a family (R404), as RATE codes of R85. -/
def familyRates (family : Nat) : List Nat := if family = 0 then [0, 2, 3, 5, 6, 8, 10] else [1, 4, 7, 9]
/-- AUDCLK in Hz (R404). -/
def audHz (family : Nat) : Nat := if family = 0 then 24576000 else 22579200

/-- The settings of one port (R460, R461, R464, R472). -/
def portOk (l : List SegRec) (family p : Nat) : Bool :=
  let c := recVal l (0x1000 * p + 8)
  let slots := bitsOf c 4 5 + 1
  let frame := slots * [16, 24, 32].getD (bitsOf c 9 2) 32
  let rate := bitsOf c 24 4
  let source := bitsOf c 2 1 == 0
  let used := l.any fun r => r.off == 0x1000 * p + 8
  let maps := (List.range 32).map fun s => (s, recVal l (0x1000 * p + 0x100 + 8 * s))
  !used || (rate ≤ 12 && bitsOf c 9 2 ≤ 2 && rateHz rate * frame ≤ 49152000 &&
    (!source || (1 ≤ bitsOf c 16 8 && 2 * audHz family == rateHz rate * frame * bitsOf c 16 8 && (familyRates family).contains rate)) &&
    (2 ≤ bitsOf c 0 2 || slots == 2) &&
    ((bitsOf c 14 2 == 0) != (bitsOf c 3 1 == 1))) &&
  maps.all fun m => bitsOf m.2 15 1 == 0 || (m.1 < slots && bitsOf m.2 12 2 ≤ 2)

/-- Apply a PORTS segment: every entry becomes unframed (R474). -/
def applyPorts (body : List Byte) : Prog :=
  all [each (List.range 4) fun k => all [unframePort k, modPort k fun p => { enabledAt := p.enabledAt }],
    applyRecs audBase audImage (segRecs false body)]

/-! ## ARRAY -/

/-- The tracks closed to a terminal. -/
def matrixOf (l : List SegRec) (t : Nat) : Nat :=
  match l.reverse.find? fun r => r.off == 0x1000 + t with
  | some r => r.val + 2 ^ 32 * r.val2
  | none => 0

/-- Terminals that drive a track (R417): the analog pins, cell outputs and references. -/
def drives (t : Nat) : Bool := t < 48 || (t < 84 && (t - 48) % 3 == 2) || t == 100 || t == 101

/-- The terminals of disabled cells and references (R417, R430). -/
def deadTerminal (l : List SegRec) (t : Nat) : Bool :=
  (48 ≤ t && t < 84 && bitsOf (recVal l (0x700 + 8 * ((t - 48) / 3))) 31 1 == 0) ||
  (t == 100 && bitsOf (recVal l 0x020) 0 1 == 0) || (t == 101 && bitsOf (recVal l 0x020) 1 1 == 0)

/-- Whether a path with MUX 1 receives on a track (R402, R417). -/
def pathTakes (l : List SegRec) (k i : Nat) : Bool :=
  bitsOf (recVal l (0x100 + 0x20 * i)) 1 2 == 1 &&
    (bitsOf (recVal l (0x110 + 0x20 * i)) 0 6 == k || bitsOf (recVal l (0x110 + 0x20 * i)) 8 6 == k)

def trackOk (l : List SegRec) (k : Nat) : Bool :=
  let on := (List.range 106).filter fun t => inMask (matrixOf l t) k
  let n := (on.filter drives).length
  n ≤ 1 && (n == 1 || (on.isEmpty && !(List.range 16).any (pathTakes l k))) && on.all fun t => !deadTerminal l t

/-- A biquad word: TYPE at most 4, F0 code at most 351 (R402); an SC corner above CNVCLK/64 lies beyond every F0 code. -/
def biquadOk (w : Nat) : Bool := bitsOf w 0 3 ≤ 4 && bitsOf w 4 9 ≤ 351

def arrayOk (l : List SegRec) : Bool :=
  let rates := familyRates (bitsOf (recVal l 4) 1 1)
  (l.filter fun r => (List.range 16).any fun i => r.off == 0x100 + 0x20 * i).all (fun r => rates.contains (bitsOf r.val 12 4)) &&
  (l.filter fun r => (List.range 8).any fun k => r.off == 0x300 + 0x10 * k).all (fun r => rates.contains (bitsOf r.val 10 4)) &&
  (List.range 16).all (fun i => biquadOk (recVal l (0x104 + 0x20 * i)) && biquadOk (recVal l (0x108 + 0x20 * i))) &&
  (List.range 64).all (trackOk l)

/-- The registers and the matrix of an ARRAY segment. -/
def setArray (body : List Byte) : Prog :=
  let l := segRecs false body
  all [applyRecs arrBase arrImage l,
    modArr fun a => { a with matrix := ((List.range 106).filter fun t => matrixOf l t != 0).map fun t => (t, matrixOf l t) }]

/-- Apply an ARRAY segment: every path is unframed (R408), a fence of the array is lifted (R587), and every enabled path is
calibrated (R423). -/
def applyArray (body : List Byte) : Prog :=
  all [unframeAll, each (List.range 8) fun k => modOut (outKey 112 k) fun _ => {},
    setArray body, setB F.ARR_STATUS_SYNTHFB false,
    look fun s => setB F.ARR_STATUS_FOLLOW (s.bit F.ARR_CLK_CTL_SRC),
    look fun s => each (List.range 16) fun i => modIn (arrKey i) fun x => x.fresh s.now,
    liftFence 112,
    look fun s => startCal (maskOf ((List.range 16).filter fun i => s.bit (F.ARR_IN_CTL_EN i)))
      (maskOf ((List.range 8).filter fun k => s.bit (F.ARR_OUT_CTL_EN k)))]

/-! ## FABRIC -/

/-- Apply a FABRIC segment (R444): steps 1 to 5. -/
def applyFabric (body : List Byte) : Prog :=
  let w := w32 body 4
  all [
    modFab fun f => { cfg := fabBytes body 0, pins := f.pins },
    setB F.ARR_FAB_STATUS_RELEASED false, setF F.ARR_FAB_SWOUT 0,
    setWord F.ARR_FAB_CLK_FCLKSRC.off (fieldBits F.ARR_FAB_CLK_FCLKSRC.off w),
    setF F.ARR_FAB_CTL_HOLD (bitsOf w 6 1),
    look fun s => modFab fun f => { f with edgeAt := s.now },
    liftFence 113,
    (if bitsOf w 6 1 = 1 then declareUnit 113 1 else fabRun), fabSettle,
    logC 0xB060 0 113 [if bitsOf w 6 1 = 1 then 1 else 2]]

/-- A FULL image without a FABRIC segment leaves the fabric unconfigured (R444). -/
def clearFabric : Prog :=
  all [modFab fun f => { pins := f.pins }, setB F.ARR_FAB_STATUS_RELEASED false, setF F.ARR_FAB_SWOUT 0, declareUnit 113 0]

/-! ## Tables of planes that name paths and entries (R407, R414, R473, R476) -/

/-- The entries of both timetables of a plane that are of a kind and name a unit. -/
def Plane.entriesFor (pl : Plane) (kind unit : Nat) : List TtEntry :=
  (pl.normal ++ pl.derated).filter fun e => e.kind == kind && bitsOf e.w3 0 8 == unit

/-- The outputs of a unit that the plane's destination tables name. -/
def Plane.namedOutputs (pl : Plane) (unit : Nat) : List Nat :=
  (pl.entriesFor 6 unit).flatMap fun e => (tableRows (pl.emitTable e.ref)).map fun x =>
    bitsOf x.2 0 (if unit = 112 then 3 else 5)

/-- Each destination table names an output at most once, and under SHARED only owned slots. -/
def State.tablesOk (s : State) (pl : Plane) (unit : Nat) : Bool :=
  (pl.entriesFor 6 unit).all fun e =>
    let outs := (tableRows (pl.emitTable e.ref)).map fun x => bitsOf x.2 0 (if unit = 112 then 3 else 5)
    noDup outs && (unit == 112 || !s.bit (F.AUD_CFG_SHARED (unit - 108)) ||
      outs.all fun k => inMask (s.fld (F.AUD_OWN (unit - 108))) k)

/-- SAMPLE descriptors name no path or entry bound to a slot of another partition, and no output that the plane's tables do
not name. -/
def State.samplesOk (s : State) (p : Nat) (pl : Plane) (unit : Nat) : Bool :=
  let foreign := fun slot => !pl.isSlot slot && (otherParts p).any fun q => (s.kept q).slots.contains slot
  (pl.entriesFor 5 unit).all fun e =>
    let d := pl.sample e.ref
    if bitsOf d.1 0 1 = 0 then
      (if unit = 112 then s.pathBinds.all fun b => !inMask (bitsOf d.1 16 16) b.1 || !foreign b.2
       else s.portBinds.all fun b => b.1 != unit - 108 || !inMask d.2 b.2.1 || !foreign b.2.2)
    else
      (membersOf (if unit = 112 then bitsOf d.1 16 8 else d.2) 32).all fun k => (pl.namedOutputs unit).contains k

/-- The checks of a plane against the array and the ports as they are configured. -/
def State.planeIoOk (s : State) (p : Nat) (pl : Plane) : Bool :=
  [108, 109, 110, 111, 112].all fun u => s.tablesOk pl u && s.samplesOk p pl u

/-! ## The checks of a FULL image's device segments (R308, R312) -/

def Bodies.dev (b : Bodies) (type : Nat) : Option (List Byte) := (b.of type 0).head?

/-- The registers of a state as the image's device segments would set them. -/
def State.withSegs (s : State) (b : Bodies) : State :=
  (all [(match b.dev 0x20 with | some x => applyDevice x | none => .nop),
    (match b.dev 0x21 with | some x => applyRecs audBase audImage (segRecs false x) | none => .nop),
    (match b.dev 0x22 with | some x => setArray x | none => .nop)]).run s

def State.devSegsOk (s : State) (b : Bodies) : Bool :=
  let n := fun t => (b.filter fun x => x.1.type == t).length
  let s' := s.withSegs b
  let family := s'.fld F.ARR_CLK_CTL_FAMILY
  n 0x20 == 1 && n 0x21 == 1 && n 0x22 ≤ 1 && n 0x23 ≤ 1 &&
  (match b.dev 0x21 with
    | some x => (List.range 4).all (portOk (segRecs false x) family)
    | none => false) &&
  (match b.dev 0x22 with
    | some x => arrayOk (segRecs false x)
    | none => true) &&
  (match b.dev 0x23 with
    | some x => fabricOk x family
    | none => true) &&
  s'.bindsOk && s'.ledgerOk

/-! ## Settings that return to their segments on a host reset (R578) -/

/-- The body of a device segment in force. -/
def State.segBody (s : State) (type : Nat) : List Byte :=
  match s.dev.chuck.devSegs.find? fun x => x.1 == type with
  | some x => x.2
  | none => []

/-- The tile clock returns to the DEVICE segment's value. -/
def restoreTileClk : Prog :=
  all [look fun s => setF F.PCK_TILE_MHZ_NORMAL s.dev.pwr.imgTileMhz, modPwr fun w => { w with tileClk := none }, setVreq]

/-- The chatter settings return to the PORTS segment's values. -/
def restorePorts : Prog :=
  look fun s => each (List.range 4) fun p =>
    setFields (audBase + 0x1000 * p + 0x10) (recVal (segRecs false (s.segBody 0x21)) (0x1000 * p + 0x10)) fun f => f.kept == .H

/-- The class H fields of the array's controls return to the ARRAY segment's values: a change of the clocking unframes every
path, and a path or output whose enable changes starts afresh. -/
def restoreArray : Prog :=
  look fun s =>
    let l := segRecs false (s.segBody 0x22)
    let put := fun o => setFields (arrBase + o) (recVal l o) fun f => f.kept == .H
    all [
      when ((s.word (arrBase + 4)).toNat != fieldBits (arrBase + 4) (recVal l 4)) (all [unframeAll, setB F.ARR_STATUS_SYNTHFB false]),
      put 4, look fun s => setB F.ARR_STATUS_FOLLOW (s.bit F.ARR_CLK_CTL_SRC && !s.bit F.ARR_STATUS_SYNTHFB),
      each (List.range 16) fun i => all [
        when (s.bit (F.ARR_IN_CTL_EN i) != (bitsOf (recVal l (0x100 + 0x20 * i)) 0 1 == 1))
          (all [unframePath i, modIn (arrKey i) fun x => x.fresh s.now]),
        put (0x100 + 0x20 * i)],
      each (List.range 8) fun k => all [
        when (s.bit (F.ARR_OUT_CTL_EN k) != (bitsOf (recVal l (0x300 + 0x10 * k)) 0 1 == 1)) (modOut (outKey 112 k) fun _ => {}),
        put (0x300 + 0x10 * k)],
      each (List.range 8) fun j => put (0x400 + 0x10 * j)]

end Sys2Proof.Machine
end

