-- ==== Sys2Proof/Machine/TimetableOps.lean ====
section
/-!
DEFINITION. Sys2Proof/Machine/TimetableOps.lean: the commands of the timetables (R55, R71 to R83, R90 to R102, R551): turn
boundaries, WAKE, GATHER and LAUNCH entries, and the declarations MISSED and FAIL_OVERRUN.
-/
namespace Sys2Proof.Machine

/-! ## Turn boundaries (R55, R100, R106, R265, R298, R330) -/

/-- Whether this tick is a turn boundary of an enabled partition (R55). -/
def State.atBoundary (s : State) (p : Nat) : Bool :=
  s.partOn p && s.turnLen p != 0 && s.reached (s.turnOrg p) && s.since (s.turnOrg p) % s.turnLen p == 0

/-- The derate switch of a boundary (R100, R564). -/
def derateSwitch (p : Nat) : Prog :=
  look fun s =>
    let asked := s.derateAsked p
    let x := s.part p
    let has := !(s.plane p).derated.isEmpty
    if asked && !x.slow then all [modPart p fun x => { x with slow := true, derated := has },
      if has then logC 0x2008 0 (32 + p) [s.turnNo p % 2 ^ 32] else logC 0x200A 1 (32 + p) [s.turnNo p % 2 ^ 32]]
    else if !asked && x.slow then all [modPart p fun x => { x with slow := false, derated := false },
      when x.derated (logC 0x2009 0 (32 + p) [s.turnNo p % 2 ^ 32])]
    else .nop

/-- The fence policy STOP at a boundary (R298): the partition stops taking chunks, and is disabled at the first boundary
with none pending or running; a staged plane that waits for its regrip then becomes active at once (R344). -/
def stopSwitch (p : Nat) : Prog :=
  look fun s => when ((s.part p).stopAsked || s.unitState (32 + p) == 2)
    (if s.partBusy p then setUnit (32 + p) 2
    else all [
      disablePart p, logC 0x8004 2 (32 + p) [],
      when (s.part p).regrip.isSome (swapAll [p])])

/-- Whether a chunk of a slot that a staged plane of `named` parts is pending or running. -/
def State.partingBusy (s : State) (named : List Nat) : Bool :=
  named.any fun p => match (s.part p).active, (s.part p).staged with
    | some a, some st => (partedSlots a st).any fun n => !(s.slot n).chunks.isEmpty
    | _, _ => false

/-- Whether this tick is the boundary B of an order (R330), and whether DRAIN_TURNS set it. -/
def State.regripNow (s : State) (named : List Nat) (o : Regrip) : Option Bool :=
  match named.find? s.partOn with
  | none => if s.reached o.first then some false else none
  | some p =>
    if !s.atBoundary p || !s.reached o.first then none
    else if !o.drain || !s.partingBusy named then some false
    else if s.reached (o.first + o.turns * s.turnLen p) then some true
    else none

/-- The swap of the order that names a partition, where this tick is its boundary B (R330, R331). -/
def regripDue (p : Nat) : Prog :=
  look fun s => match (s.part p).regrip with
    | none => .nop
    | some o =>
      let named := (membersOf o.pmask 8).filter fun q => (s.part q).regrip == some o
      match s.regripNow named o with
      | none => .nop
      | some cut => all [when cut (logC 0x9008 1 (32 + named.headD 0) []), swapAll named]

/-- The merge banks that a turn opens, one for each MERGE entry of its timetable (R265); those of the turn before stay until they close. -/
def openBanks (p : Nat) : Prog :=
  look fun s =>
    let n := s.turnNo p
    modPart p fun x => { x with banks := (x.banks.filter fun b => n ≤ b.turn + 1) ++
      ((s.timetable p).zipIdx.filter fun e => e.1.kind == 4).map fun e =>
        { entry := e.1, index := e.2, turn := n, close := (s.now + e.1.offset + bitsOf e.1.w3 0 24) % 2 ^ 64 } }

/-- A turn begins: its entries act from entry 0 on, the switches of the boundary are made, and banks open (R55, R100, R265, R298, R330). -/
def beginTurn (p : Nat) : Prog :=
  look fun s => when (s.atBoundary p) (all [
    modPart p fun x => { x with turnStart := some s.now, seen := 0, lateThisTurn := 0 },
    derateSwitch p,
    openBanks p,
    -- from D0 on the partition drains (R330)
    (match (s.part p).regrip with
      | some o => when (o.drain && s.reached o.first && s.unitState (32 + p) == 1) (setUnit (32 + p) 3)
      | none => .nop),
    stopSwitch p])

/-- A turn boundary, once on its tick. A regrip whose boundary it is acts before everything else (R106, R331). -/
def turnBoundary (p : Nat) : Prog :=
  look fun s => when (s.atBoundary p && s.ready && (s.part p).turnStart != some s.now) (all [regripDue p, beginTurn p])

def execTurnBoundary (p : Nat) (s : State) : Host.Outcome State Fault Refusal := done (turnBoundary p) s

/-! ## Waking and sleeping benches (R79, R551, R596) -/

/-- A WAKE entry is a timetable order for each bench it addresses; one to a blank or fenced bench is refused, and the
ledger counts it (R595, R596). A retiring entry skips the benches that have left (R338). -/
def wakeEntry (p : Nat) (old : Bool) (e : TtEntry) : Prog :=
  look fun s =>
    each ((membersOf e.benches 32).filter fun b => !old || inMask (s.plane p).benches b) fun b =>
      if s.fenced b || s.unitState b == bBlank then decideOrder { src := .timetable, kind := kPower, unit := b, arg := 0 }
      else all [modPwr fun w => { w with cancelled := w.cancelled.filter (· != b) }, startWake b]

def execWake (p i : Nat) (old : Bool) (s : State) : Host.Outcome State Fault Refusal :=
  done (onEntry p i old 0 (wakeEntry p old)) s

/-- R79, R82: a bench on its way reaches SPIN, and launches that waited for it start. Where the launch that it was woken for has passed
without a chunk, it returns to its idle state (R27). -/
def execBenchSpinReached (b : Nat) (s : State) : Host.Outcome State Fault Refusal :=
  done (when (s.dev.pwr.waking.any fun w => w.1 == b && s.reached w.2)
    (all [dropMoves b, setUnit b bSpin, startBench b,
      when (s.dev.pwr.cancelled.contains b) (all [modPwr fun w => { w with cancelled := w.cancelled.filter (· != b) }, idleBench b])])) s

/-- R551: a bench is in DWELL 250 ticks after its entry began; its class C and V fields are lost (R577). -/
def execDwellEntryDone (b : Nat) (s : State) : Host.Outcome State Fault Refusal :=
  done (when (s.dev.pwr.dwelling.any fun w => w.1 == b && s.reached w.2) (all [dropMoves b, enterDwell b])) s

/-! ## GATHER (R75, R76, R90, R101, R254) -/

/-- The slots of a group of a partition's active plane whose phase belongs to turn `n`, in increasing order. -/
def State.members (s : State) (p : Nat) (g : Group) (n : Nat) : List Nat :=
  ((s.plane p).slots.filter fun d => d.group == g.id && s.phase g d.slot == n % g.period).map SlotDecl.slot

/-- Place a number in an increasing list. -/
def insertNat (x : Nat) : List Nat → List Nat
  | [] => [x]
  | y :: ys => if x < y then x :: y :: ys else y :: insertNat x ys
def sortNat (l : List Nat) : List Nat := l.foldr insertNat []

/-- The place in a slot of the chunk that is due in turn `n` and may still be launched. -/
def State.dueIdx (s : State) (p slot n : Nat) : Option Nat :=
  (s.slot slot).chunks.findIdx? fun c =>
    c.part == p && c.dueTurn == n && !c.launched && c.pos.isNone && (s.slot slot).skip != some n &&
      ((s.plane p).soft || !laterTick s.now c.lastLaunch)

def gatherAll (p n : Nat) : List Nat → Nat → Prog
  | [], _ => .nop
  | slot :: rest, j => look fun s =>
    match s.dueIdx p slot n with
    | some i => all [
        modSlot slot fun x => { x with chunks := modNth (fun c => { c with pos := some j, gatheredAt := s.now, gatherTurn := n }) x.chunks i },
        gatherAll p n rest (j + 1)]
    | none => all [when ((s.heldDesc slot).isSome && (s.slot slot).walkTurn == n && !(s.slot slot).chunks.any fun c => c.bound)
        (releaseRecord slot), gatherAll p n rest j]

def gatherEntry (p : Nat) (e : TtEntry) : Prog :=
  look fun s => match (s.plane p).group e.group with
    | none => .nop
    | some g => gatherAll p (s.turnNo p) (sortNat (s.members p g (s.turnNo p))) 0

def execGather (p i : Nat) (s : State) : Host.Outcome State Fault Refusal :=
  done (onEntry p i false 3 (gatherEntry p)) s

/-! ## LAUNCH (R113) -/

/-- A retiring plane's stage-0 LAUNCH entries never act again (R336). -/
def execLaunch (p i : Nat) (old : Bool) (s : State) : Host.Outcome State Fault Refusal :=
  done (onEntry p i old 1 fun e => when (!old || launchStage e != 0) (launchEntry p old e)) s

/-! ## Declarations (R93, R95, R102) -/

/-- R93: the first chunk of the slot that no stage-0 LAUNCH took by its last-launch tick ends MISSED on the tick after it; not in a
soft partition (R102), but for a chunk whose walk was skipped (R251). -/
def launchMissed (slot : Nat) : Prog :=
  look fun s =>
    match (s.slot slot).chunks.findIdx? (fun c =>
        !c.launched && laterTick s.now c.lastLaunch && (!(s.plane c.part).soft || (s.slot slot).skip == some c.dueTurn)) with
    | none => .nop
    | some i =>
      let c := (s.slot slot).chunks.getD i {}
      all [endChunkAt slot i stMissed ((c.lastLaunch + 1) % 2 ^ 64) (0, 0, 0),
        logLim (.turn c.part) (32 + c.part) 0x2002 1 (32 + c.part) [] (some slot)]

def execLaunchMissed (slot : Nat) (s : State) : Host.Outcome State Fault Refusal := done (launchMissed slot) s

def execOverrun (slot : Nat) (s : State) : Host.Outcome State Fault Refusal := done (overrun slot) s

end Sys2Proof.Machine
end

