-- ==== Sys2Proof/Machine/ChuckOps.lean ====
section
/-!
DEFINITION. Sys2Proof/Machine/ChuckOps.lean: the commands of the Chuck: boot, loads, acceptance, fuses (R313 to R328, R524, R531,
R657), and regrips (R329 to R347).
-/
namespace Sys2Proof.Machine

/-! ## Boot (R313 to R315, R521 to R524, R656) -/

/-- The Chuck starts to boot: a device that was starting is READY with it (R656). -/
def chuckBoot (flash : FlashIn) : Prog :=
  look fun s => all [
    when (s.devState == 0) (all [setF F.PCK_STATUS_DEV 1, declareUnit 41 1, declareUnit 43 1, usbCheck]),
    setF F.IMG_STATUS_TRIED 0,
    modChuck fun c => { c with booting := true, bootDue := false, sources := s.bootSources },
    startSource,
    look fun s => when (s.dev.chuck.sources.head? == some srcFlash) (probeFlash flash)]

def execChuckBoot (flash : FlashIn) (s : State) : Host.Outcome State Fault Refusal :=
  done (when (!s.dev.pwr.por && !s.heldReset && (s.devState == 0 || (s.devState == 1 && s.dev.chuck.bootDue))) (chuckBoot flash)) s

/-- One block with its check read (R524). -/
def flashBlock (data check : List Byte) : Prog :=
  look fun s =>
    let c := s.dev.chuck
    let got := match c.load with
      | some l => l.bytes.length
      | none => 0
    if s.flashReach ≤ got then failSource rSource
    else if check != data.drop 4080 then
      (if 3 ≤ c.retries then (if c.load.isSome then rejectLoad rSource 0 else failSource rSource)
      else all [modChuck fun c => { c with retries := c.retries + 1, blockDiv := min 80 (2 * c.blockDiv) },
        logLim (.ticks 2500000) 127 0xC010 0 127 []])
    else if c.load.isNone && w32 data 0 != 0x4E454E56 then failSource rHeader
    else all [
      when c.load.isNone (beginLoad 0 0 srcFlash 0),
      loadBytes data,
      modChuck fun c => { c with retries := 0, blockDiv := if s.bit F.QSPI_STATUS_SFDP then s.bootDiv else 80 }]

/-- The Chuck is at the flash: its present source, with no image complete yet. -/
def State.atFlash (s : State) : Bool :=
  s.ready && s.dev.chuck.booting && s.dev.chuck.sources.head? == some srcFlash && s.fld F.IMG_STATUS_CHUCK == 1

def execQspiBlockRead (flash : FlashIn) (data check : List Byte) (s : State) : Host.Outcome State Fault Refusal :=
  done (when s.atFlash (all [
    when (!s.dev.chuck.probed) (probeFlash flash),
    look fun s => when (s.atFlash && s.dev.chuck.probed && data.length == 4096) (flashBlock data check)])) s

/-- When the present source has had its time without a load (R314). -/
def State.bootBound (s : State) : Option Nat :=
  match s.dev.chuck.sources with
  | [] => none
  | x :: _ =>
    if x = srcFlash then none
    else if x = srcHost && !s.linkUp then some (s.dev.chuck.sourceAt + 250000000)
    else some (s.dev.chuck.sourceAt + 500000000)

def execBootSourceTimeout (s : State) : Host.Outcome State Fault Refusal :=
  done (when (s.ready && s.dev.chuck.booting && s.dev.chuck.load.isNone && s.bootBound.any s.reached) (failSource rSource)) s

/-- R531: a load from the SPI target has had no word for 2 s. -/
def execImageSourceTimeout (s : State) : Host.Outcome State Fault Refusal :=
  done (when s.ready (endLoad (fun l => l.src == srcSpi && s.reached (l.lastData + 500000000)) rSource)) s

/-! ## Requests through IMG_CTL (R325, R346) -/

/-- A write of IMG_CTL: ABORT ends the load in progress, LOAD asks for one from a host window. -/
def writeImgCtl (v : Nat) : Prog :=
  all [writeFields F.IMG_CTL_LOAD.off v, setF F.IMG_CTL_LOAD 0, setF F.IMG_CTL_ABORT 0,
    when (bitsOf v 1 1 == 1) (endLoad (fun _ => true) rAborted),
    when (bitsOf v 0 1 == 1) (look fun s => requestLoad (bitsOf v 2 2) (bitsOf v 4 3) srcHost (s.fld F.IMG_LEN))]

def imgCtlWrite (p : Path) (v : Nat) : Prog := writing p F.IMG_CTL_LOAD.off (writeImgCtl v)

def execImgLoadFull (p : Path) (v : Word) (s : State) : Host.Outcome State Fault Refusal :=
  done (imgCtlWrite p (setBits (setBits v.toNat 0 1 1) 2 2 0)) s

def execImgLoadStage (p : Path) (v : Word) (s : State) : Host.Outcome State Fault Refusal :=
  done (imgCtlWrite p (setBits (setBits v.toNat 0 1 1) 2 2 1)) s

def execImgLoadActive (p : Path) (v : Word) (s : State) : Host.Outcome State Fault Refusal :=
  done (imgCtlWrite p (setBits (setBits v.toNat 0 1 1) 2 2 2)) s

def execLoadAbort (p : Path) (v : Word) (s : State) : Host.Outcome State Fault Refusal :=
  done (imgCtlWrite p (setBits v.toNat 1 1 1)) s

/-! ## Judging an image (R312, R317) -/

/-- The segments of the image (R309, R312): none of an unknown type without OPT, device segments of PART 0, and in a PLANE image only
plane segments of its partition. -/
def segsKnown (h : Hdr) (b : Bodies) : Bool :=
  b.all fun x =>
    if !knownType x.1.type then x.1.opt
    else if h.plane then decide (x.1.type < 0x20) && x.1.part == h.part
    else decide (x.1.type < 0x20) || x.1.part == 0

def Bodies.typesOf (b : Bodies) (p : Nat) : List Nat :=
  (b.filter fun x => decide (x.1.type < 0x20) && knownType x.1.type && x.1.part == p).map fun x => x.1.type

/-- The partitions that a FULL image configures. -/
def Bodies.planeParts (b : Bodies) : List Nat := partIds.filter fun p => !(b.typesOf p).isEmpty

/-- Every check of one plane of an image against a state. -/
def State.planeFits (s : State) (h : Hdr) (b : Bodies) (p : Nat) (stage : Bool) : Bool :=
  let pl := planeOf h b p
  planeSegsOk pl (b.typesOf p) && s.loadOk p stage pl (b.storeData p) && s.planeIoOk p pl

/-- The device as a FULL image would leave it: its device segments set, and no planes but its own (R316, R657). -/
def State.afterFull (s : State) (h : Hdr) (b : Bodies) : State :=
  (each partIds fun p => modPart p fun x => { x with
    staged := none, active := if b.planeParts.contains p && !(planeOf h b p).release then some (planeOf h b p) else none }).run
    (s.withSegs b)

/-- Step 7 of R317. -/
def State.imageOk (s : State) (l : Load) (h : Hdr) (b : Bodies) : Bool :=
  segsKnown h b &&
  (if l.kind = 0 then s.devSegsOk b && b.planeParts.all fun p => (s.afterFull h b).planeFits h b p false
   else s.planeFits h b l.part (l.kind == 1))

/-! ## Acceptance (R316, R328, R657) -/

/-- The load has ended; the Chuck is idle. -/
def chuckIdle : Prog :=
  all [modChuck fun c => { c with load := none }, setF F.IMG_STATUS_CHUCK 0]

/-- Steps 3 to 5 of R657: the fabric, the planes and the AUTOEN order. -/
def finishFull (h : Hdr) (b : Bodies) : Prog :=
  look fun s => all [
    (match b.dev 0x23 with
      | some x => applyFabric x
      | none => when (s.unitState 113 != 0) clearFabric),
    each b.planeParts fun p => when (!(planeOf h b p).release) (loadStoreData s p (planeOf h b p) (b.storeData p)),
    installPlanes (partIds.map fun p => (p, if b.planeParts.contains p then planeOf h b p else {})),
    setActSeq, chuckIdle,
    modChuck fun c => { c with autoen := maskOf (b.planeParts.filter fun p => (planeOf h b p).autoen) },
    submitAutoen]

/-- Steps 1 and 2 of R657. The calibration of an ARRAY segment runs until ARR_CAL_DONE, with the Chuck applying. -/
def acceptFull (h : Hdr) (b : Bodies) : Prog :=
  all [
    setF F.IMG_STATUS_CHUCK 3,
    modChuck fun c => { c with
      booting := false, sources := [], devSeq := some h.seq,
      devSegs := (b.filter fun x => decide (0x20 ≤ x.1.type)).map fun x => (x.1.type, x.2) },
    each partIds loseStaged,
    (match b.dev 0x20 with | some x => applyDevice x | none => .nop),
    (match b.dev 0x21 with | some x => applyPorts x | none => .nop),
    (match b.dev 0x22 with | some x => applyArray x | none => finishFull h b)]

/-- An image has passed every check. -/
def acceptImage (l : Load) (h : Hdr) (b : Bodies) : Prog :=
  look fun s =>
    let pl := planeOf h b l.part
    all [noteOpen l, setResult 0 0, setF F.IMG_DONE h.length,
      logC 0x9002 0 (loadUnit l.kind l.part) [l.kind, l.part, h.build, h.seq],
      (if l.kind = 0 then acceptFull h b
       else if l.kind = 1 then all [acceptStage l.part pl (b.storeData l.part), chuckIdle]
       else all [when (!pl.release) (loadStoreData s l.part pl (b.storeData l.part)), installPlanes [(l.part, pl)], chuckIdle])]

/-- The pass of R317 over a complete image. -/
def judgeImage : Prog :=
  look fun s => match s.dev.chuck.load with
    | none => .nop
    | some l =>
      match authenticate s.dev.chuck (s.loadState l.kind l.part) (l.kind != 0) l.part l.bytes with
      | .error e => rejectLoad e.1 e.2
      | .ok r => if s.imageOk l r.1 r.2 then acceptImage l r.1 r.2 else rejectLoad rCheck 0

/-- Whether the image lies in one valid host window (R358, R359). -/
def State.imageInWindow (s : State) (len : Nat) : Bool :=
  let a := s.fld F.IMG_SRC_LO + 2 ^ 32 * s.fld F.IMG_SRC_HI
  match s.place a, s.place (a + len - 1) with
  | .host w x, .host w' x' => w == w' && x + len == x' + 1
  | _, _ => false

/-- Whether every byte of a load has come: all that its header names, or a header that is bad already. -/
def Load.complete (l : Load) : Bool :=
  let h := hdrOf l.bytes
  256 ≤ l.bytes.length && (!hdrOk h h.length || h.length ≤ l.bytes.length)

/-- The last byte has arrived (R317). `data` is what the host answers to the reads of an image in a host window; a window
that does not hold the image fails the load with SOURCE. -/
def imageComplete (data : List Byte) : Prog :=
  look fun s => match s.dev.chuck.load with
    | none => .nop
    | some l =>
      if l.src = srcHost then
        (if l.len != 0 && !s.imageInWindow l.len then rejectLoad rSource 0
        else when (data.length == l.len && s.linkUp) (all [
          modChuck fun c => { c with load := some { l with bytes := data } }, judgeImage]))
      else when l.complete judgeImage

def execImageComplete (data : List Byte) (s : State) : Host.Outcome State Fault Refusal :=
  done (when (s.ready && s.fld F.IMG_STATUS_CHUCK == 1) (imageComplete data)) s

/-- R423: a calibration ends; one that the Chuck runs for a FULL image lets the image's application go on (R657). -/
def execArrCalDone (trims : List Trim) (s : State) : Host.Outcome State Fault Refusal :=
  done (when (s.bit F.ARR_CAL_CTL_BUSY && s.arrOn) (all [calDone trims,
    look fun s => match s.dev.chuck.load with
      | some l => when (s.fld F.IMG_STATUS_CHUCK == 3) (match readBodies s.dev.chuck.bodyKey l.bytes (segsOf l.bytes) 0 none with
          | .ok b => finishFull (hdrOf l.bytes) b
          | .error _ => chuckIdle)
      | none => .nop])) s

/-! ## Rollback and fuses (R321, R323) -/

/-- Why a commit fuses nothing: 1 busy, 2 the key, 3 the value. -/
def State.commitFault (s : State) (v : Nat) : Nat :=
  if s.bit F.SEC_RB_STAT_BUSY then 1 else if bitsOf v 16 16 != 0xC0DE then 2
  else if s.dev.chuck.rbCount < bitsOf v 0 7 && bitsOf v 0 7 ≤ s.fld F.SEC_ACT_SEQ_SEQ then 0 else 3

def commitRb (v : Nat) : Prog :=
  look fun s =>
    let c := s.commitFault v
    if c = 0 then all [setF F.SEC_RB_STAT_BUSY 1, modChuck fun x => { x with rbTarget := some (bitsOf v 0 7) }]
    else all [setF F.SEC_RB_STAT_REJECTED 1, logC 0x900D 0 127 [bitsOf v 0 7, c]]

def execRbCommit (p : Path) (v : Word) (s : State) : Host.Outcome State Fault Refusal :=
  done (writing p F.SEC_RB_COMMIT_VALUE.off (commitRb v.toNat)) s

def execRbCommitted (s : State) : Host.Outcome State Fault Refusal :=
  done (match s.dev.chuck.rbTarget with
    | none => .nop
    | some v => when (!s.dev.pwr.por && !s.heldReset && !s.inRest) (all [
        modChuck fun c => { c with rbCount := max c.rbCount v, rbTarget := none },
        setF F.SEC_RB_STAT_BUSY 0, setF F.SEC_RB_STAT_DONE 1, logC 0x900B 0 127 [v]])) s

/-- Fuse bits into word `w` of R348: fuses only ever set. -/
def Chuck.fuse (c : Chuck) (w v : Nat) : Chuck :=
  if w < 12 then { c with keyHash := Sparse.put zeroNat c.keyHash w (Sparse.get zeroNat c.keyHash w ||| v) }
  else if w < 20 then { c with imgKey := Sparse.put zeroNat c.imgKey (w - 12) (Sparse.get zeroNat c.imgKey (w - 12) ||| v) }
  else { c with fuseFlags := c.fuseFlags ||| v % 32 }

/-- The paths of R323: host software, the board controller by either of its paths, and the USB port. -/
def mayFuse : Path → Bool
  | .pf | .mb | .usb | .spi => true
  | _ => false

def fuseFail : Prog := all [setF F.SEC_PROG_CTL_ERR 1, logC 0x900C 2 127 []]

/-- BURN: where the read-back fails, which of the bits are set the spec leaves open. -/
def burnFuse (p : Path) (readback : Bool) : Prog :=
  look fun s =>
    let w := s.fld F.SEC_PROG_SEL_WORD
    let v := s.fld F.SEC_PROG_DATA
    if !mayFuse p || 20 < w || (w < 20 && fuseBit s.dev.chuck 0) then fuseFail
    else if readback then modChuck fun c => c.fuse w v
    else all [drawFree 32 fun f => modChuck fun c => c.fuse w (v &&& f), fuseFail]

/-- A write of SEC_PROG_CTL (R323). -/
def writeProgCtl (p : Path) (v : Nat) (readback : Bool) : Prog :=
  all [when (bitsOf v 2 1 == 1) (setF F.SEC_PROG_CTL_ERR 0), when (bitsOf v 0 1 == 1) (burnFuse p readback)]

def execFuseBurn (p : Path) (v : Word) (readback : Bool) (s : State) : Host.Outcome State Fault Refusal :=
  done (writing p F.SEC_PROG_CTL_BURN.off (writeProgCtl p (setBits v.toNat 0 1 1) readback)) s

/-! ## Regrip (R329 to R347) -/

def execOrderRegrip (src : OSrc) (arg : Nat) (rivals : List Order) (s : State) : Host.Outcome State Fault Refusal :=
  done (orderCycle ({ src, kind := kRegrip, unit := 0, arg } :: rivals)) s

/-- R330, R331: the boundary of the order that names a partition. -/
def execRegripSwap (part : Nat) (s : State) : Host.Outcome State Fault Refusal := done (when s.ready (regripDue part)) s

/-- R337: at the limit, chunks that still run end FAIL_OVERRUN with their programs, and every unsent result leaves. -/
def forceRetire (p : Nat) : Prog :=
  look fun s => all [
    each (s.partSlots p) fun n => look fun s =>
      each ((s.slot n).chunks.zipIdx.filter fun c => c.1.old && c.1.part == p).reverse fun c =>
        all [endChunk n c.2 stOverrun, match c.1.running with
          | some st => endPrograms st (n, c.1.arrival) stOverrun
          | none => .nop],
    each (s.partSlots p) (flushResults fun r => r.old && r.chunk.part == p),
    logC 0x9009 1 (32 + p) []]

def execRetireEnd (part : Nat) (s : State) : Host.Outcome State Fault Refusal :=
  done (match (s.part part).retiring with
    | none => .nop
    | some (pl, b) => when s.ready
        (if !s.oldBusy part && !s.oldUnsent part then finishRetire part
        else when (s.reached (b + pl.turnLen)) (all [forceRetire part, finishRetire part]))) s

/-- R338: a joining bench is zero-filled, loaded and takes its idle state. -/
def execJoinLoadDone (bench : Nat) (s : State) : Host.Outcome State Fault Refusal :=
  done (match s.dev.pwr.joining.find? fun x => x.1 == bench with
    | none => .nop
    | some x => when s.ready (all [
        modPwr fun w => { w with joining := w.joining.filter fun y => y.1 != bench },
        when (inMask (s.plane x.2).benches bench) (joinBench x.2 bench)])) s

end Sys2Proof.Machine
end

