-- ==== Sys2Proof/Machine/Ingest.lean ====
section
/-!
DEFINITION. Sys2Proof/Machine/Ingest.lean: queue pairs, doorbells and host chunks (R360 to R366, R380).
-/
namespace Sys2Proof.Machine

/-! ## Pairs -/

/-- The stream range of a pair (R360). -/
def State.rangeHolds (s : State) (q slot : Nat) : Bool :=
  s.fld (F.QP_SLOTS_SLOT_LO q) ≤ slot && slot ≤ s.fld (F.QP_SLOTS_SLOT_HI q)

/-- A write of a pair's registers: a VF reaches the pairs that it owns, through its window (R355). -/
def pairWriting (p : Path) (q off : Nat) (prog : Prog) : Prog :=
  match p with
  | .vf n => look fun s => if s.fnOpen n && s.owner q == n then prog
    else all [noteDropped, when (s.fnOpen n) (badAccess p)]
  | _ => writing p (qpAt q + off) prog

/-- Discard the entries whose payload is in flight (R375, R380): each stream's next chunk carries GAP. -/
def dropFlights (q : Nat) : Prog :=
  look fun s => all [
    each ((s.pair q).flight.filterMap id) fun e => when (s.rangeHolds q e.stream) (gapNext e.stream),
    modPair q fun x => { x with flight := [], bells := [] }]

/-- Whether another enabled pair's range overlaps this one's, or this one's is empty (R360). -/
def State.rangeBad (s : State) (q : Nat) : Bool :=
  let lo := s.fld (F.QP_SLOTS_SLOT_LO q)
  let hi := s.fld (F.QP_SLOTS_SLOT_HI q)
  decide (hi < lo) || ((List.range 256).any fun k => k != q && s.bit (F.QP_CTL_EN k) &&
    s.fld (F.QP_SLOTS_SLOT_LO k) ≤ hi && lo ≤ s.fld (F.QP_SLOTS_SLOT_HI k))

/-- A write of QP_CTL (R360, R380): FUNC belongs to the physical function; EN starts or stops the pair. -/
def writeQpCtl (p : Path) (q v : Nat) : Prog :=
  look fun s =>
    let was := s.bit (F.QP_CTL_EN q)
    let en := bitsOf v 0 1 == 1
    all [
      when (bitsOf v 1 1 == 1) (setB (F.QP_CTL_ERR q) false),
      (match p with
        | .vf _ => .nop
        | _ => setF (F.QP_CTL_FUNC q) (bitsOf v 2 6)),
      setF (F.QP_CTL_IN_INT q) (bitsOf v 8 1), setF (F.QP_CTL_IVEC q) (bitsOf v 12 8), setF (F.QP_CTL_RVEC q) (bitsOf v 20 8),
      when (en && !was) (if s.rangeBad q then setB (F.QP_CTL_ERR q) true
        else all [setB (F.QP_CTL_EN q) true, setWord (F.QP_INDEX_IN_HEAD q).off 0, modPair q fun _ => {}]),
      when (!en && was) (all [dropFlights q, setB (F.QP_CTL_EN q) false])]

def execQpEnable (p : Path) (q : Nat) (v : Word) (s : State) : Host.Outcome State Fault Refusal :=
  done (when (q < 256) (pairWriting p q 0 (writeQpCtl p q (setBits v.toNat 0 1 1)))) s

def execQpDisable (p : Path) (q : Nat) (v : Word) (s : State) : Host.Outcome State Fault Refusal :=
  done (when (q < 256) (pairWriting p q 0 (writeQpCtl p q (setBits v.toNat 0 1 0)))) s

/-! ## Doorbells (R361) -/

/-- The access path of a function's own registers. -/
def fnPath (fn : Nat) : Path := if fn = 0 then .pf else .vf fn

/-- A doorbell of function `fn` on pair `q`: `f` takes an index that is good, otherwise DOORBELL_BAD. -/
def doorbell (fn q size : Nat) (v : Word) (f : Nat → Prog) : Prog :=
  look fun s =>
    let i := bitsOf v.toNat 0 16
    when (s.fnOpen fn) (
      if i < size && s.bit (F.QP_CTL_EN q) && s.owner q == fn then f i
      else all [badAccess (fnPath fn), logLim (.ticks 2500000) q 0xA008 0 43
        [fn, q, 0, if !s.bit (F.QP_CTL_EN q) then 2 else if s.owner q != fn then 3 else 1]])

/-- New entries are announced (R361); a doorbell that announces none asks for no message. -/
def execInTailDoorbell (fn q : Nat) (v : Word) (s : State) : Host.Outcome State Fault Refusal :=
  done (when (q < 256) (doorbell fn q (s.inSize q) v fun i => modPair q fun x => { x with
    tail := i, bells := if s.fld (F.QP_INDEX_IN_HEAD q) == i then x.bells else x.bells ++ [i] })) s

def execResHeadDoorbell (fn q : Nat) (v : Word) (s : State) : Host.Outcome State Fault Refusal :=
  done (when (q < 256) (doorbell fn q (s.resSize q) v fun i => modPair q fun x => { x with head := i })) s

/-! ## Entries (R362 to R366) -/

/-- The fields of a fetched ingest entry (R84, R362). -/
def ingestOf (b : List Byte) : Ingest :=
  let w := fun i => w32 b (4 * i)
  { stream := bitsOf (w 0) 0 12, model := bitsOf (w 0) 12 4, flags := bitsOf (w 0) 16 16, seq := w 1,
    format := bitsOf (w 6) 0 4, rate := bitsOf (w 6) 4 4, count := bitsOf (w 6) 8 16, upos0 := bitsOf (w 7) 0 16,
    upos1 := bitsOf (w 7) 16 16, plen := w 10 }

/-- PLEN as R362 demands it. -/
def plenOk (e : Ingest) : Bool :=
  e.format == 15 || (e.format == 0 || e.format == 4) && e.plen == 2 * e.count ||
  (e.format == 1 || e.format == 2 || e.format == 3) && e.plen == 4 * e.count

/-- FORMAT and RATE codes that an ingest entry may carry (R85, R362). -/
def formatOk (e : Ingest) : Bool := (e.format ≤ 4 || e.format == 15) && e.rate != 13 && e.rate != 14

def Ingest.offer (e : Ingest) (payload : List Byte) : Offer :=
  { slot := e.stream, source := 1, model := e.model, flags := e.flags, seq := e.seq, format := e.format, rate := e.rate,
    count := e.count, upos0 := e.upos0, upos1 := e.upos1, payload, buf := some e.buf }

/-- INGEST_DROP (R364, R386). -/
def ingestDrop (q stream cause : Nat) : Prog :=
  look fun s => all [incF (F.QP_IN_DROPS q), logPair 0xA006 q (s.slotLimit stream) stream cause]

/-- IN_HEAD passes one entry: it is written back, and a doorbell whose entries are all consumed is answered (R366). -/
def passEntry (q : Nat) : Prog :=
  look fun s =>
    let h := (s.fld (F.QP_INDEX_IN_HEAD q) + 1) % s.inSize q
    let wb := s.qpW q 0x28 / 4 * 4 + 2 ^ 32 * s.qpW q 0x2C
    all [setF (F.QP_INDEX_IN_HEAD q) h,
      modPair q fun x => { x with flight := x.flight.drop 1, bells := x.bells.filter (· != h) },
      when (wb != 0) (hostWrite (s.owner q) wb (toBytes 4 h)),
      when (s.bit (F.QP_CTL_IN_INT q)) (each ((s.pair q).bells.filter (· == h)) fun _ => signalPair q (s.fld (F.QP_CTL_IVEC q)))]

/-- Stamp the chunk of an entry of a pair. -/
def stampEntry (q : Nat) (e : Ingest) (payload : List Byte) : Prog :=
  look fun s =>
    all [stamp (e.offer payload) (ingestDrop q e.stream),
      look fun s' => when ((s'.slot e.stream).chunks.length != (s.slot e.stream).chunks.length) (incF (F.QP_STAMPED q))]

/-- Pass the entries at the front that are dropped already or carry no payload (R363, R365). The stream's chunk after a dropped one is
stamped later than it is passed, and carries GAP (R96). -/
def passFront (q : Nat) : Nat → Prog
  | 0 => .nop
  | n + 1 => look fun s => match (s.pair q).flight with
    | none :: _ => all [passEntry q, passFront q n]
    | some e :: _ => when (e.gone || e.plen == 0)
        (all [if e.gone then gapNext e.stream else stampEntry q e [], passEntry q, passFront q n])
    | [] => .nop

/-- The ingest buffers of a slot that entries on their way hold. -/
def State.flightBufs (s : State) (slot : Nat) : List Nat :=
  s.dev.pairs.flatMap fun x => (x.2.flight.filterMap id).filterMap fun e => if e.stream == slot && !e.gone then some e.buf else none

/-- What a fetched entry leads to: it is dropped (R364), stamped and dropped (R213), or its payload is fetched. -/
def takeEntry (q : Nat) (e : Ingest) : Prog :=
  look fun s =>
    let fault := if !s.rangeHolds q e.stream then some 1 else if !formatOk e then some 5 else if !plenOk e then some 4
      else if s.slotCbuf e.stream < e.plen then some 4 else s.admitFault (e.offer [])
    let push := fun (x : Option Ingest) => modPair q fun y => { y with flight := y.flight ++ [x] }
    match fault with
    | some c => all [ingestDrop q e.stream c, push (if s.rangeHolds q e.stream then some { e with gone := true } else none)]
    | none => match s.freeBuf e.stream (s.flightBufs e.stream) with
      | none => all [dropFull e.stream, push (some { e with gone := true })]
      | some b => push (some { e with buf := b })

/-- The payload fetches of a pair that are under way (R363). -/
def Pair.fetches (x : Pair) : Nat := ((x.flight.filterMap id).filter fun e => !e.gone && e.plen != 0).length

/-- R363: one entry is fetched; `words` are the 64 bytes that host memory holds for it. -/
def execIngestEntryFetch (q : Nat) (words : List Byte) (s : State) : Host.Outcome State Fault Refusal :=
  done (let x := s.pair q
    let n := x.flight.length
    when (decide (q < 256) && s.bit (F.QP_CTL_EN q) && s.linkUp && s.ready && s.unitState (44 + s.owner q) == 1 &&
        !s.fenced (44 + s.owner q) && (s.fld (F.QP_INDEX_IN_HEAD q) + n) % s.inSize q != x.tail && decide (x.fetches < 4) &&
        decide ((s.dev.pairs.map fun y => y.2.fetches).sum < 64) && words.length == 64)
      (all [takeEntry q (ingestOf words), passFront q (n + 1)])) s

/-- R365: the last payload byte of the pair's first entry lands, or with `ok` false its fetch has failed (R364). -/
def execHostChunkStamp (q : Nat) (payload : List Byte) (ok : Bool) (s : State) : Host.Outcome State Fault Refusal :=
  done (match (s.pair q).flight with
    | some e :: _ => when (s.ready && !e.gone && (!ok || payload.length == e.plen)) (all [
        if ok then stampEntry q e payload else all [ingestDrop q e.stream 9, gapNext e.stream],
        passEntry q, passFront q (s.pair q).flight.length])
    | _ => .nop) s

end Sys2Proof.Machine
end

