-- ==== Sys2Proof/Machine/PcieConfig.lean ====
section
/-!
DEFINITION. Sys2Proof/Machine/PcieConfig.lean: the configuration space of the functions, as far as the spec gives it (R349 to R354,
R358, R371): their capabilities and the values that these report. No row of the table is a configuration request, so nothing here is
read by a command; what the PCI Express base specification adds is no part of the model (log entry 87).
-/
namespace Sys2Proof.Machine

/-- The capabilities of R352. -/
inductive Capability where
  | powerManagement | msix | pciExpress | aer | sriov | ats | resizableBar | secondaryPcie | dataLinkFeature
  | phys16 | phys32 | phys64 | laneMargining
  deriving DecidableEq, Repr

/-- The capabilities of the physical function with their offsets (R352). -/
def pfCaps : List (Nat × Capability) :=
  [(0x040, .powerManagement), (0x048, .msix), (0x060, .pciExpress), (0x100, .aer), (0x150, .sriov), (0x190, .ats),
   (0x1A0, .resizableBar), (0x1B0, .secondaryPcie), (0x1E0, .dataLinkFeature), (0x1F0, .phys16), (0x220, .phys32), (0x260, .phys64),
   (0x280, .laneMargining)]

/-- The capabilities that a virtual function holds too (R352); the spec gives them no other offsets. -/
def Capability.inVf (c : Capability) : Bool := c == .pciExpress || c == .msix || c == .aer || c == .ats

/-- Whether a function is present: the physical function always, a virtual one while VF Enable covers it (R351, R371). -/
def State.fnPresent (s : State) (fn : Nat) : Bool := fn == 0 || (1 ≤ fn && fn ≤ s.dev.numVfs)

/-- The capabilities in a function's configuration space. -/
def State.capsOf (s : State) (fn : Nat) : List (Nat × Capability) :=
  if !s.fnPresent fn then [] else if fn = 0 then pfCaps else pfCaps.filter fun c => c.2.inVf

/-- The fields of configuration space whose values the spec gives. -/
inductive CfgField where
  | vendorId | deviceId | classCode
  /-- Power Management: D3hot, and No_Soft_Reset -/
  | d3hot | noSoftReset
  | msixVectors
  | atsQueueDepth
  /-- the SR-IOV capability -/
  | totalVfs | numVfs | vfEnable | vfOffset | vfStride | vfDeviceId | pageSizes4K
  /-- the size of a BAR in bytes -/
  | barSize (bar : Nat)
  deriving DecidableEq, Repr

/-- The size of a BAR of a function (R354). -/
def State.barSize (s : State) (fn bar : Nat) : Option Nat :=
  if bar = 0 then some (if fn = 0 then 0x4000000 else 0x10000)
  else if bar = 2 then (if fn = 0 then some s.dev.bar2Size else none)
  else if bar = 4 then some 0x1000 else none

/-- What a function reports in a field; none where it has no such field. -/
def State.cfg (s : State) (fn : Nat) (f : CfgField) : Option Nat :=
  let pf := fun (n : Nat) => if fn = 0 then some n else none
  if !s.fnPresent fn then none
  else match f with
    | .vendorId => pf (s.fld F.GEN_VENDOR_ID_PCIVID)
    | .deviceId => some 0x0820
    | .classCode => some 0x120000
    | .d3hot => some (if s.unitState (44 + fn) = 2 then 1 else 0)
    | .noSoftReset => some 1
    | .msixVectors => some (s.vecsOf fn)
    | .atsQueueDepth => some 32
    | .totalVfs => pf 63
    | .numVfs => pf s.dev.numVfs
    | .vfEnable => pf (if s.dev.numVfs = 0 then 0 else 1)
    | .vfOffset => pf 1
    | .vfStride => pf 1
    | .vfDeviceId => pf 0x0820
    | .pageSizes4K => pf 1
    | .barSize b => s.barSize fn b

end Sys2Proof.Machine
end

