-- ==== Sys2Proof/Machine/StoreOps.lean ====
section
/-!
DEFINITION. Sys2Proof/Machine/StoreOps.lean: the scrubber, host and peer access to the Store through BAR2, and the far-memory
controller (R206, R210, R221 to R232, R238, R242, R265, R357, R372).
-/
namespace Sys2Proof.Machine

/-! ## The scrubber (R223) -/

/-- The scrubber reads the next line of the Store. -/
def scrubLine (err : EccErr) : Prog :=
  look fun s =>
    let a := storeAt + s.fld F.STORE_SCRUB_POS_OFFSET / 64 * 64
    when (s.bit F.STORE_ECC_CTL_SCRUB_EN) (all [
      (match err with
        | .none | .shared => .nop
        | .corrected => readCe a (.ticks 2500000) 0xFF 0xFF none
        | .uncorrectable => all [poisonLine a, logC 0x6006 1 41 (memDetail a 0xFF 0xFF none), poisonPage a]),
      setF F.STORE_SCRUB_POS_OFFSET ((a - storeAt + 64) % storeSize)])

def execScrubLine (err : EccErr) (s : State) : Host.Outcome State Fault Refusal := done (when s.ready (scrubLine err)) s

/-! ## BAR2 (R210, R354) -/

/-- The carve-out that holds a Store address, with its partition: of an active plane, otherwise of a staged one. -/
def State.carveAt (s : State) (a : Nat) : Option (Nat × (Nat × Nat × Bool)) :=
  let look := fun (x : Nat × Plane) => (x.2.carves.find? fun c => !c.2.2 && inRange (carveRange c) a).map fun c => (x.1, c)
  match (partIds.filterMap fun q => (s.part q).active.map fun pl => (q, pl)).findSome? look with
  | some c => some c
  | none => (partIds.filterMap fun q => (s.part q).staged.map fun pl => (q, pl)).findSome? look

/-- A carve-out of an enabled partition whose HOSTW is clear. -/
def State.carveShut (s : State) (a : Nat) : Bool :=
  match s.carveAt a with
  | some (p, c) => s.partOn p && !carveHostW c
  | none => false

/-- Host reads that R210 denies. -/
def State.bar2Denies (s : State) (a : Nat) : Bool := s.inPlaneRegion a || s.carveShut a
/-- Host writes that R210 drops. -/
def State.bar2Drops (s : State) (a : Nat) : Bool := s.dropsWrites a || s.carveShut a

/-- The PENDING bytes of a slot directory entry, whose contents the spec leaves open (R211). -/
def pendingByte (a : Nat) : Bool := storeAt + 0x3FF00000 ≤ a && 0x40 ≤ a % 256 && decide (a % 256 < 0xA0)

/-- The bytes of a read, from address `a` upward; a PENDING byte is a free value. -/
def readOpen (f : List Byte → Prog) : Nat → Nat → List Byte → Prog
  | _, 0, acc => f acc.reverse
  | a, n + 1, acc => look fun s =>
    if s.bar2Denies a then readOpen f (a + 1) n (0xFF :: acc)
    else if pendingByte a then drawFree 8 fun b => readOpen f (a + 1) n (BitVec.ofNat 8 b :: acc)
    else readOpen f (a + 1) n (s.mem.read a :: acc)

/-- Function 0 answers its memory requests: the link is up and the function is enabled. -/
def State.pfOpen (s : State) : Bool := s.ready && s.linkUp && s.unitState 44 == 1

/-- A read of `len` bytes at an offset of BAR2; `err` is what the code of one of its lines reports, where the read reaches it. -/
def bar2Read (off len : Nat) (err : LineErr) : Prog :=
  look fun s =>
    let a := storeAt + off
    let l := a / 64 * 64 + 64 * err.line
    let addrs := (List.range len).map (a + ·)
    let live := addrs.filter fun x => !s.bar2Denies x
    let hit := live.find? fun x => s.dev.poison.contains (x / 64 * 64)
    if s.fenced 41 then emitOut (.reply .pf (List.replicate len 0xFF))
    else match hit with
      | some x => all [readUe x false 0xFF 0xFF none, emitOut (.poisoned .pf)]
      | none =>
        let met := live.any fun x => x / 64 * 64 == l
        if err.err == .uncorrectable && met then all [readUe l true 0xFF 0xFF none, emitOut (.poisoned .pf)]
        else all [
          when (err.err == .corrected && met) (readCe l (.ticks 2500000) 0xFF 0xFF),
          readOpen (fun bs => emitOut (.reply .pf bs)) a len []]

def execBar2Read (fn off len : Nat) (err : LineErr) (s : State) : Host.Outcome State Fault Refusal :=
  done (when (s.pfOpen && fn == 0 && decide (0 < len) && off + len ≤ storeSize && off + len ≤ s.dev.bar2Size) (bar2Read off len err)) s

/-- The part of a write that lies in one line, from address `a`: dropped, late in a closed merge bank, or stored. -/
def bar2Line (a : Nat) (bs : List Byte) : Prog :=
  look fun s =>
    match s.closedAt a with
    | some b => if s.bar2Drops a then .nop else mergeLate b a
    | none =>
      if (List.range bs.length).all fun i => !s.bar2Drops (a + i) then storeBytes a bs
      else each bs.zipIdx fun x => when (!s.bar2Drops (a + x.2)) (storeBytes (a + x.2) [x.1])

/-- Cut a run of bytes at the boundaries of lines. -/
def cutLines : Nat → Nat → List Byte → List (Nat × List Byte)
  | 0, _, _ => []
  | _, _, [] => []
  | fuel + 1, a, bs =>
    let n := 64 - a % 64
    (a, bs.take n) :: cutLines fuel (a + n) (bs.drop n)

/-- A dropped host write counts once (R206, R210, R238). -/
def hostDrop (a : Nat) : Prog :=
  all [incF F.STORE_HOST_DROPS, logLim (.ticks 2500000) 41 0x600D 0 41 (memDetail a 0xFF 0xFF none)]

def bar2Write (off : Nat) (bs : List Byte) : Prog :=
  look fun s =>
    let a := storeAt + off
    all [
      (match ((List.range bs.length).map (a + ·)).find? s.bar2Drops with
        | some x => hostDrop x
        | none => .nop),
      each (cutLines (bs.length + 1) a bs) fun l => bar2Line l.1 l.2]

/-- AER reports a poisoned write (R357, R386). -/
def aerUncorrectable : Prog := logC 0xA00C 1 43 []

/-- A posted write of the host or of a peer (R372). -/
def execBar2Write (_peer : Bool) (off : Nat) (bytes : List Byte) (poisoned : Bool) (s : State) :
    Host.Outcome State Fault Refusal :=
  done (when (s.pfOpen && decide (0 < bytes.length) && off + bytes.length ≤ storeSize && off + bytes.length ≤ s.dev.bar2Size)
    (if poisoned then aerUncorrectable else when (!s.fenced 41) (bar2Write off bytes))) s

/-! ## Far memory (R226 to R232) -/

/-- Some enabled partition's plane uses far memory (R229). -/
def State.farInUse (s : State) : Bool := partIds.any fun p => s.partOn p && (s.plane p).usesFar

/-- Why a START is refused (R229, R238). -/
def State.farRefusal (s : State) : Option Nat :=
  let rate := s.fld F.FAR_CFG_RATE
  if s.unitState 42 == 2 then some 1
  else if s.farInUse then some 2
  else if 4 < rate || 4 < s.fld F.FAR_CFG_DENSITY || (3 ≤ rate && !s.bit F.FAR_CFG_LECC) then some 3
  else none

/-- Training starts with a configuration: what FAR_CFG holds at a START, what the last START took at an exit from REST (R226, R239). -/
def farTrain (cfg : Nat) : Prog :=
  look fun s => all [
    declareUnit 42 2, setF F.FAR_TRAIN_STATUS_STEP 0,
    modDev fun d => { d with farCfg := cfg, farSince := s.now },
    setF F.FAR_STATUS_IECC (bitsOf cfg 7 1), setF F.FAR_STATUS_LECC (bitsOf cfg 8 1)]

/-- The step that a training run has reached `elapsed` ticks after its start (R228): how long each of them takes is left open. -/
def farStepAt (elapsed : Nat) : Nat :=
  1 + ((List.range 8).filter fun k => ((List.range (k + 1)).map fun j => Config.farStepTicks (j + 1)).foldl (· + ·) 0 ≤ elapsed).length

/-- START is written (R229). -/
def farStart : Prog :=
  look fun s =>
    match s.farRefusal with
    | some c => all [setF F.FAR_TRAIN_STATUS_REFUSED 1, logLim (.ticks 2500000) 42 0x6012 0 42 (memDetail 0 0xFF 0xFF none c)]
    | none => all [
        setF F.FAR_TRAIN_STATUS_DONE 0, setF F.FAR_TRAIN_STATUS_FAIL 0, setF F.FAR_TRAIN_STATUS_REFUSED 0,
        modDev fun d => { d with farKeep := false },
        (if s.fld F.FAR_CFG_CHMASK = 0 then all [declareUnit 42 0, setF F.FAR_TRAIN_STATUS_DONE 1,
          setF F.FAR_TRAIN_STATUS_STEP 0, liftFence 42]
        else farTrain (s.word F.FAR_CFG_RATE.off).toNat)]

/-- A write of FAR_TRAIN_CTL: its settings, and START where it is written 1. -/
def writeFarTrain (v : Nat) : Prog :=
  all [writeFields F.FAR_TRAIN_CTL_START.off v, setF F.FAR_TRAIN_CTL_START 0, when (bitsOf v 0 1 == 1) farStart]

def execFarTrainStart (p : Path) (v : Word) (s : State) : Host.Outcome State Fault Refusal :=
  done (writing p F.FAR_TRAIN_CTL_START.off (writeFarTrain (setBits v.toNat 0 1 1))) s

/-- Training ends at a step, with the channels that failed (R228). -/
def farTrained (step failch : Nat) : Prog :=
  look fun s => all [
    setF F.FAR_TRAIN_STATUS_STEP step,
    (if failch % 256 = 0 then all [
      setF F.FAR_TRAIN_STATUS_STEP 9, setF F.FAR_TRAIN_STATUS_DONE 1, setF F.FAR_TRAIN_CTL_SAVE_VALID 1, declareUnit 42 3,
      liftFence 42, when (!s.dev.farKeep) (zeroFill farAt (farAt + 2 ^ 37)), modDev fun d => { d with farKeep := false }]
    else all [
      setF F.FAR_TRAIN_STATUS_FAIL 1, setF F.FAR_TRAIN_STATUS_FAILCH failch,
      logC 0x600E 2 42 (memDetail 0 0xFF 0xFF none (step % 16 + 256 * (failch % 256))),
      declareUnit 42 5, fenceUnit 42])]

def execFarTrainComplete (step failch : Nat) (s : State) : Host.Outcome State Fault Refusal :=
  done (when (s.ready && s.unitState 42 == 2) (farTrained step failch)) s

/-- R231: the worst die's MR4 and the refresh multiplier; `hot` says that its code asks for more than the nominal rate and
`tooHot` that it reports a temperature beyond the range. -/
def farMr4 (mr4 mult : Nat) (hot tooHot : Bool) : Prog :=
  all [setF F.FAR_TEMP_MR4 mr4, setF F.FAR_TEMP_MULT mult,
    look fun s =>
      let d3 := (s.word F.FAR_TEMP_MR4.off).toNat
      all [when hot (logC 0x600F 1 42 (memDetail 0 0xFF 0xFF none d3)),
        when tooHot (all [logC 0x6010 2 42 (memDetail 0 0xFF 0xFF none d3), fenceUnit 42])]]

def execFarMr4Poll (mr4 mult : Nat) (hot tooHot : Bool) (s : State) : Host.Outcome State Fault Refusal :=
  done (when (s.ready && s.unitState 42 == 3) (farMr4 mr4 mult hot tooHot)) s

/-- R230: the drift measurement adjusts only the timing of the interface, which is no state of the model. -/
def execFarPeriodicCal (s : State) : Host.Outcome State Fault Refusal := done .nop s

/-- Whether a far-memory window of a serving partition is in force (R232). -/
def State.servingWindow (s : State) : Bool :=
  partIds.any fun p => s.partOn p && !(s.plane p).soft && s.reached (s.turnOrg p) &&
    (s.plane p).farWins.any fun w => inRange (winRange w) (s.since (s.turnOrg p) % s.turnLen p)

/-- R232: refresh falls due; one that may be postponed waits for the end of the window, otherwise it proceeds. -/
def execFarRefreshDue (canPostpone : Bool) (s : State) : Host.Outcome State Fault Refusal :=
  done (when (s.ready && s.unitState 42 == 3 && s.servingWindow && !canPostpone)
    (all [incF F.FAR_REF_FORCED, logC 0x6011 1 42 (memDetail 0 0xFF 0xFF none)])) s

end Sys2Proof.Machine
end

