-- ==== Sys2Proof/Machine/MatrixMath.lean ====
section
/-!
DEFINITION. Sys2Proof/Machine/MatrixMath.lean: what the matrix unit computes (R150, R151, R158, R161 to R168, R181 to R186,
R191, R192), from tile memory to the bytes of an output element.
-/
namespace Sys2Proof.Machine

/-! ## Operands in tile memory -/

/-- The i-th packed element at a tile address (R151). -/
def State.packed (s : State) (t base fmt i : Nat) : Nat :=
  let a := tileAt t + base
  let b := elemBits fmt
  if fmt = 0xB then bitsOf (s.read32 (a + 4 * (i / 10))) (3 * (i % 10)) 3
  else if b < 8 then bitsOf (s.mem.read (a + i * b / 8)).toNat (i * b % 8) b
  else s.readN (a + i * (b / 8)) (b / 8)

/-- The value of an element of a numeric format (R150). -/
def fmtValue (fmt n : Nat) : Val :=
  match fmt with
  | 0 => intValue 4 n
  | 1 => intValue 8 n
  | 2 => fp4.value n
  | 3 => e4m3.value n
  | 4 => e5m2.value n
  | 5 => bf16.value n
  | 6 => fp16.value n
  | _ => fp32.value n

/-- A first-level scale code (R165): 0xFF is NaN here; SCLZ is applied where the group is scaled. -/
def scale1 (n : Nat) : Val :=
  let e := bitsOf n 3 5
  let m := bitsOf n 0 3
  if n = 0xFF then .nan false else if e = 0 then .fin false m (-17) else .fin false (8 + m) ((e : Int) - 18)

def one : Val := .fin false 1 0

section
variable (s : State) (t : Nat) (o : MtxOp)

/-- A at (row, k). -/
def MtxOp.aAt (m k : Nat) : Val := fmtValue o.afmt (s.packed t (o.addrOf 3 + m * o.addrOf 4) o.afmt k)

/-- Stored element i of column n of B; under LUT the codebook entry that its code selects (R167). -/
def MtxOp.bAt (n i : Nat) : Val :=
  let c := s.packed t (o.addrOf 5 + n * o.addrOf 6) o.bfmt i
  if o.opc = 1 then fp16.value (s.readN (tileAt t + o.addrOf 13 + (if o.cbmode then 32 * (n / 64) else 0) + 2 * c) 2)
  else fmtValue o.bfmt c

/-- The mask of group q of column n (R181). -/
def MtxOp.maskAt (n q : Nat) : Nat :=
  bitsOf (s.mem.read (tileAt t + o.addrOf 13 + n * o.maskStride + q / 2)).toNat (4 * (q % 2)) 4

def MtxOp.nnz (n : Nat) : Nat := bitsOf (s.read32 (tileAt t + o.addrOf 13 + 64 + 4 * n)) 0 17
def MtxOp.indexAddr (n i : Nat) : Nat := o.addrOf 13 + o.indexBase + n * o.istride + 2 * i
def MtxOp.index (n i : Nat) : Nat := s.readN (tileAt t + o.indexAddr n i) 2

/-- The smallest power of two that is at least k (R191). -/
def powerAbove (k : Nat) : Nat := if k ≤ 1 then 1 else 2 ^ ((k - 1).log2 + 1)

/-- The stored values of column n: position along K and stored element (R158, R181, R183, R191). Positions at or beyond K
contribute nothing. -/
def MtxOp.column (n : Nat) : List (Nat × Nat) :=
  let k := o.depth
  (match o.sparse with
  | 0 => (List.range k).map fun i => (i, i)
  | 1 => (List.range (ceilDiv k 4)).flatMap fun q =>
      let set : List Nat := (List.range 4).filter (inMask (MtxOp.maskAt s t o n q))
      (set.take 2).zipIdx.map fun (x : Nat × Nat) => (4 * q + x.1, 2 * q + x.2)
  | _ => (List.range (min (MtxOp.nnz s t o n) o.room)).map fun i => (MtxOp.index s t o n i % powerAbove k, i)).filter fun x => x.1 < k

/-! ## Arithmetic (R162 to R164) -/

def Val.exponent : Val → Int
  | .fin _ m e => m.log2 + e
  | _ => 0

/-- Truncate a finite value toward zero to a multiple of 2^q. -/
def Val.truncTo (q : Int) : Val → Val
  | .fin n m e => if q ≤ e then .fin n m e else .fin n (m / 2 ^ (q - e).toNat) q
  | v => v

/-- The sum of a group's exact products (R163). -/
def windowSum (l : List Val) : Val :=
  if l.any Val.isNan || (l.any (fun v => v == .inf false) && l.any (fun v => v == .inf true)) then .nan false
  else if l.any (fun v => v == .inf false) then .inf false
  else if l.any (fun v => v == .inf true) then .inf true
  else
    let nz := l.filter fun v => !v.isZero
    match nz with
    | [] => .fin false 0 0
    | v :: vs =>
      let e := vs.foldl (fun m x => max m x.exponent) v.exponent
      let r := (nz.map (Val.truncTo (e - 47))).foldl (Val.add false) (.fin false 0 0)
      if r.isZero then .fin false 0 0 else r

/-- Round once to FP32, nearest-even. -/
def rne32 (v : Val) : Val := fp32.value (fp32.round .nearest false v).1

def MtxOp.s1 (base n k g : Nat) : Nat := (s.mem.read (tileAt t + base + n * ceilDiv k 32 + g)).toNat
def MtxOp.s2 (base n k j : Nat) : Val := fp32.value (s.read32 (tileAt t + base + 4 * n * ceilDiv k 2048 + 4 * j))

/-- A group's sum with its first-level scales, rounded (R162, R165). -/
def MtxOp.scaled (m n g : Nat) (x : Val) : Val :=
  let ca := if o.ascl = 0 then none else some (MtxOp.s1 s t (o.addrOf 9) m o.depth g)
  let cb := if o.bscl = 0 then none else some (MtxOp.s1 s t (o.addrOf 11) n o.depth g)
  if bitsOf o.mx 5 1 = 1 && (ca == some 0xFF || cb == some 0xFF) then .fin false 0 0
  else rne32 ((x.mul ((ca.map scale1).getD one)).mul ((cb.map scale1).getD one))

/-- The products of a group of output element (m, n): those of stored values at positions of the group. -/
def MtxOp.products (m n g : Nat) (col : List (Nat × Nat)) : List Val :=
  (col.filter fun x => x.1 / 32 == g).map fun x => (MtxOp.aAt s t o m x.1).mul (MtxOp.bAt s t o n x.2)

/-- One span of 64 groups. -/
def MtxOp.span (m n j : Nat) (col : List (Nat × Nat)) : Val :=
  ((List.range 64).map (· + 64 * j)).foldl (fun p g =>
    if ceilDiv o.depth 32 ≤ g then p else rne32 (p.add false (MtxOp.scaled s t o m n g (windowSum (MtxOp.products s t o m n g col)))))
    (.fin false 0 0)

def MtxOp.cAt (m n : Nat) : Nat := s.packed t (o.addrOf 7 + m * o.addrOf 8) o.cfmt n

/-- The accumulator of the floating path. -/
def MtxOp.floatAcc (m n : Nat) : Val :=
  let col := MtxOp.column s t o n
  let k := o.depth
  (List.range (ceilDiv k 2048)).foldl (fun acc j =>
    let sa := if o.ascl = 2 then MtxOp.s2 s t (o.addrOf 10) m k j else one
    let sb := if o.bscl = 2 then MtxOp.s2 s t (o.addrOf 12) n k j else one
    rne32 (((MtxOp.span s t o m n j col).mul (rne32 (sa.mul sb))).add false acc))
    (if o.acc then fp32.value (MtxOp.cAt s t o m n) else .fin false 0 0)

/-- The integer a value stands for. -/
def Val.toIntExact : Val → Int
  | .fin n m e => let k : Int := (m * 2 ^ e.toNat : Nat); if n then -k else k
  | _ => 0

/-- The integer path: the accumulator and how often it saturated (R162, R166). -/
def MtxOp.intAcc (m n : Nat) : Int × Nat :=
  let col := MtxOp.column s t o n
  (List.range (ceilDiv o.depth 32)).foldl (fun acc g =>
    let x := acc.1 + ((MtxOp.products s t o m n g col).map Val.toIntExact).foldl (· + ·) 0
    let lo : Int := -(2 ^ 31 : Nat)
    let hi : Int := (2 ^ 31 : Nat) - 1
    if lo ≤ x && x ≤ hi then (x, acc.2)
    else if bitsOf o.mx 0 1 = 1 then (max lo (min hi x), acc.2 + 1)
    else (signedOf 32 (patternOf 32 x), acc.2))
    (if o.acc then signedOf 32 (MtxOp.cAt s t o m n) else 0, 0)

/-! ## Output (R161, R166) -/

def outFormat (cfmt : Nat) : Format :=
  match cfmt with
  | 3 => e4m3
  | 4 => e5m2
  | 5 => bf16
  | 6 => fp16
  | _ => fp32

/-- A value narrowed to the output format: its pattern, whether it saturated, and whether it is a NaN. -/
def narrowOut (cfmt mx : Nat) (v : Val) : Nat × Bool × Bool :=
  let f := outFormat cfmt
  let r := rndOf (bitsOf mx 2 2)
  let osat := bitsOf mx 1 1 == 1
  let ftz := bitsOf mx 4 1 == 1
  match v with
  | .nan _ => (f.nan, false, true)
  | .inf n => if f.ieee then (f.signed n f.infPat, false, false)
      else if osat then (f.signed n f.top, true, false) else (f.signed n 0x7F, false, true)
  | .fin n m e =>
    let big := m != 0 && decide (f.top < f.pattern r n m e)
    let p := (f.roundFin r ftz (fun n => if osat then f.signed n f.top else if f.ieee then f.ieeeOver r n else f.signed n 0x7F)
      n m e).1
    (p, big && osat, big && !osat && !f.ieee)

/-- Output element (m, n): its pattern, saturations, and whether it is a NaN. -/
def MtxOp.element (m n : Nat) : Nat × Nat × Bool :=
  if o.cfmt = 8 then
    let a := MtxOp.intAcc s t o m n
    (patternOf 32 a.1, a.2, false)
  else
    let acc := MtxOp.floatAcc s t o m n
    let y := if o.oscl then acc.mul (fp32.value (o.word 14)) else acc
    let r := narrowOut o.cfmt o.mx y
    (r.1, if r.2.1 then 1 else 0, r.2.2)

end

end Sys2Proof.Machine
end

