-- ==== Sys2Proof/Machine/Matrix.lean ====
section
/-!
DEFINITION. Sys2Proof/Machine/Matrix.lean: how matrix operations start, work and end (R154, R156 to R160, R171, R174, R176, R180,
R184, R189 to R198).
-/
namespace Sys2Proof.Machine

/-! ## Faults (R160, R174, R176, R190) -/

/-- The tile stops after a fault of its matrix or transfer work: it reloads, or with HALT_ON_EXC halts. The stop is not
precise: CAUSE and EPC keep what they held. A tile that stands halted already reloads too, or stays halted as by an exception. -/
def stopAfterFault (t : Nat) (mayHalt : Bool) : Prog :=
  look fun s =>
    let x := s.tile t
    when (x.run == 1 || x.run == 2)
      (if mayHalt && s.bit (F.TSQ_DBG_CTL_HALT_ON_EXC (t / 16) (t % 16)) then all [
        modTile t fun x => { x with run := 2, excHalt := true, stepping := false },
        when (x.run == 1) (logHalted t x.stream
          ([0x004, 0x008, 0x00C].foldl (fun l o => l ++ [(s.word (tileReg t o)).toNat]) [tileTag t]))]
      else reloadTile t)

/-- The running operation faults: it and those behind it are discarded, the chunks end, the fault is recorded. -/
def mtxFault (t code status mt nt : Nat) (mayHalt : Bool) (rec : Prog) : Prog :=
  look fun s =>
    let o := (s.tile t).ops.headD {}
    all [
      modTile t fun x => { x with ops := [] },
      setWord (tileReg t 0x104) (code + 2 ^ 16), setWord (tileReg t 0x108) o.addr,
      setWord (tileReg t 0x10C) (mt + 2 ^ 12 * nt), rec, endUndone t status, stopAfterFault t mayHalt]

/-- The detail words of a matrix catch (R176, R197): bench and tile, descriptor address, output tile, and of a sparse fault the column
and the group or entry; how they are packed is log entry 126. -/
def mtxDetail (t addr mt nt : Nat) (col pos : Nat := 0) : List Nat :=
  [tileTag t, addr, mt + 2 ^ 12 * nt, col + 2 ^ 12 * (pos % 2 ^ 17)]

/-- The record of a matrix catch. -/
def mtxCatch (t code sev addr mt nt : Nat) (col pos : Nat := 0) : Prog :=
  look fun s => logC code sev (t / 16) (mtxDetail t addr mt nt col pos) (s.tile t).stream

def mtxDescFault (t code addr : Nat) : Prog := mtxFault t code stException 0 0 true (mtxCatch t code 2 addr 0 0)

/-! ## Starting (R159, R180, R184) -/

def isIntFmt (f : Nat) : Bool := f == 0 || f == 1
def isFloatFmt (f : Nat) : Bool := 2 ≤ f && decide (f ≤ 6)

/-- Whether a descriptor breaks none of the conditions that fault with MTX_DESC. -/
def MtxOp.descOk (o : MtxOp) : Bool :=
  let clear (i lo : Nat) : Bool := bitsOf (o.word i) lo (32 - lo) == 0
  let lut := o.opc == 1
  o.opc < 2 && o.ascl != 3 && o.bscl != 3 && o.sparse != 3 && clear 0 26 && clear 1 24 && clear 2 16 &&
  ((List.range 11).all fun i => clear (i + 3) 20) && o.word 15 == 0 &&
  [7, 5, 6, 3, 4, 8].contains o.cfmt &&
  (if lut then [0xA, 0xB, 0xC].contains o.bfmt && [1, 3, 4].contains o.afmt && o.sparse == 0
    else (isIntFmt o.afmt && isIntFmt o.bfmt) || (isFloatFmt o.afmt && isFloatFmt o.bfmt)) &&
  (o.cfmt != 8 || (!lut && isIntFmt o.afmt && isIntFmt o.bfmt && o.ascl == 0 && o.bscl == 0 && !o.oscl)) &&
  (!o.acc || ((o.cfmt == 7 || o.cfmt == 8) && !o.oscl)) &&
  ([3, 4, 5, 6, 7].all fun i => o.addrOf i % 64 == 0) && o.addrOf 8 % 4 == 0 &&
  (o.ascl == 0 || o.addrOf 9 % 64 == 0) && (o.bscl == 0 || o.addrOf 11 % 64 == 0) &&
  (o.ascl != 2 || o.addrOf 10 % 4 == 0) && (o.bscl != 2 || o.addrOf 12 % 4 == 0) &&
  (!lut || o.addrOf 13 % 32 == 0) && (o.sparse == 0 || o.addrOf 13 % 64 == 0) &&
  (o.sparse != 2 || (o.istride != 0 && o.istride % 64 == 0 && bitsOf (o.hdr.getD 0 0) 20 12 == 0 &&
    (o.hdr.drop 1).all fun w => w == 0))

def MtxOp.rangeOk (o : MtxOp) (x : Tile) : Bool :=
  (o.inputs ++ o.outputs).all fun r => r.1 + r.2 ≤ 0x100000 && !x.protected r.1 r.2

def MtxOp.overlapOk (o : MtxOp) : Bool :=
  o.outputs.all fun c => !overlaps c.1 c.2 o.addr 64 && o.inputs.all fun r => !overlaps c.1 c.2 r.1 r.2

/-- Change the operation that runs. -/
def modOp (t : Nat) (f : MtxOp → MtxOp) : Prog := modTile t fun x => { x with ops := modNth f x.ops 0 }

/-- An operation met poisoned memory (R174): its chunks end FAIL_ECC and the tile reloads. -/
def mtxPoison (t a mt nt : Nat) : Prog :=
  mtxFault t 0x6002 stEcc mt nt false (look fun s =>
    let st := (s.tile t).stream
    all [tmemPoison t a, logC 0x6002 2 (t / 16) (memDetail (tileAt t + a / 8 * 8) (t / 16) (t % 16) st) st])

/-- The oldest operation that the tile holds, and is not running yet, starts. Poison in the metadata that MISSUE copied ends it before
what it says is judged (R194). -/
def mtxStart (t : Nat) : Prog :=
  look fun s =>
    let x := s.tile t
    match x.ops with
    | [] => .nop
    | o :: _ =>
      when (!o.started)
        (if o.bad.isSome then mtxPoison t (o.bad.getD 0) 0 0
        else if !o.descOk then mtxDescFault t 0x4001 o.addr
        else if !o.rangeOk x then mtxDescFault t 0x4002 o.addr
        else if !o.overlapOk then mtxDescFault t 0x4003 o.addr
        else modOp t fun o => { o with started := true })

def execMtxOpStart (t : Nat) (s : State) : Host.Outcome State Fault Refusal := done (when s.ready (mtxStart t)) s

/-! ## Column blocks (R189 to R191, R194, R195) -/

def MtxOp.blocks (o : MtxOp) : Nat := ceilDiv o.cols 64
def MtxOp.rowBlocks (o : MtxOp) : Nat := ceilDiv o.rows 64
def MtxOp.blockCols (o : MtxOp) (b : Nat) : List Nat := (List.range (min 64 (o.cols - 64 * b))).map (· + 64 * b)
def MtxOp.blockRows (o : MtxOp) (r : Nat) : List Nat := (List.range (min 64 (o.rows - 64 * r))).map (· + 64 * r)

/-- What reading the metadata of a block meets first. -/
inductive Meta where
  | ok
  | poisoned (a : Nat)
  /-- a violation: its catch code, column, group or entry, mask, and value -/
  | bad (code col pos mask value : Nat)
  deriving DecidableEq, Repr

def firstMeta : List Meta → Meta
  | [] => .ok
  | .ok :: l => firstMeta l
  | m :: _ => m

/-- Reading n bytes of metadata at a tile address, before what it says is judged. -/
def metaAt (s : State) (t a n : Nat) (m : Meta) : Meta :=
  match s.poisonAt t n [a] with
  | some p => .poisoned p
  | none => m

/-- The metadata of column block b in the order of R190; unchecked metadata is only read. -/
def MtxOp.readMeta (s : State) (t : Nat) (o : MtxOp) (b : Nat) : Meta :=
  let cols := o.blockCols b
  match o.sparse with
  | 0 => .ok
  | 1 => firstMeta (cols.flatMap fun n => (List.range (ceilDiv o.depth 4)).map fun q =>
      let m := MtxOp.maskAt s t o n q
      metaAt s t (o.addrOf 13 + n * o.maskStride + q / 2) 1
        (if o.checked && (membersOf m 4).length != 2 then .bad 0x4010 n q m 0 else .ok))
  | _ => firstMeta ((cols.map fun n => metaAt s t (o.addrOf 13 + 64 + 4 * n) 4
        (let z := MtxOp.nnz s t o n; if o.checked && o.room < z then .bad 0x4012 n 0 0 z else .ok)) ++
      cols.flatMap fun n => (List.range (min (MtxOp.nnz s t o n) o.room)).map fun i =>
        metaAt s t (o.indexAddr n i) 2
          (let k := MtxOp.index s t o n i; if o.checked && o.depth ≤ k then .bad 0x4011 n i 0 k else .ok))

/-- The A and B data that one output tile reads: whole rows and columns; of an unstructured operand the entries of the lists, and the A
elements at their positions (R187). -/
def MtxOp.operandReads (s : State) (t : Nat) (o : MtxOp) (rows cols : List Nat) : List (Nat × Nat) :=
  let bits := elemBits o.afmt
  let lists := cols.map fun n => (n, MtxOp.column s t o n)
  if o.sparse = 2 then
    rows.flatMap (fun m => (lists.flatMap fun x => x.2.map Prod.fst).eraseDups.map fun k =>
      (o.addrOf 3 + m * o.addrOf 4 + k * bits / 8, max 1 (bits / 8))) ++
    cols.map fun n => (o.addrOf 5 + n * o.addrOf 6, packedBytes o.bfmt (min (MtxOp.nnz s t o n) o.room))
  else (rows.map fun m => (o.addrOf 3 + m * o.addrOf 4, packedBytes o.afmt o.depth)) ++
    cols.map fun n => (o.addrOf 5 + n * o.addrOf 6, packedBytes o.bfmt o.columnElems)

/-- The data that one output tile reads beside metadata. -/
def MtxOp.tileReads (s : State) (t : Nat) (o : MtxOp) (r b : Nat) : List (Nat × Nat) :=
  let g := ceilDiv o.depth 32
  let j := ceilDiv o.depth 2048
  let rows := o.blockRows r
  let cols := o.blockCols b
  MtxOp.operandReads s t o rows cols ++
  (if o.ascl = 0 then [] else rows.map fun m => (o.addrOf 9 + m * g, g)) ++
  (if o.ascl = 2 then rows.map fun m => (o.addrOf 10 + 4 * m * j, 4 * j) else []) ++
  (if o.bscl = 0 then [] else cols.map fun n => (o.addrOf 11 + n * g, g)) ++
  (if o.bscl = 2 then cols.map fun n => (o.addrOf 12 + 4 * n * j, 4 * j) else []) ++
  (if o.opc = 1 then [(o.addrOf 13 + (if o.cbmode then 32 * b else 0), 32)] else []) ++
  (if o.acc then rows.map fun m => (o.addrOf 7 + m * o.addrOf 8 + packedBytes o.cfmt (64 * b), packedBytes o.cfmt cols.length) else [])

def MtxOp.tilePoison (s : State) (t : Nat) (o : MtxOp) (r b : Nat) : Option Nat :=
  (MtxOp.tileReads s t o r b).findSome? fun x => s.poisonAt t x.2 [x.1]

/-- A sparse violation (R190): recorded at the first output tile of the block. -/
def sparseFault (t b : Nat) (code col pos mask value : Nat) : Prog :=
  look fun s => all [
    setWord (tileReg t 0x124) col, setWord (tileReg t 0x128) (pos % 2 ^ 17 + 2 ^ 20 * mask), setWord (tileReg t 0x12C) value,
    mtxFault t code stSparse 0 b true (mtxCatch t code 2 ((s.tile t).ops.headD {}).addr 0 b col pos)]

/-- Count and record NaN outputs and saturations (R164, R166, R176). -/
def noteOutputs (t nan sat mt nt : Nat) : Prog :=
  look fun s =>
    let addr := ((s.tile t).ops.headD {}).addr
    let note (code n off : Nat) : Prog := when (n != 0) (all [addF ⟨tileReg t off, 0, 32⟩ n,
      logLim (s.benchLimit (t / 16)) (tileKey t) code 0 (t / 16) (mtxDetail t addr mt nt) (s.tile t).stream])
    all [note 0x4004 nan 0x120, note 0x4005 sat 0x11C]

/-- Compute and write one output tile. -/
def MtxOp.writeTile (s : State) (t : Nat) (o : MtxOp) (r b : Nat) : Prog :=
  let rows := (o.blockRows r).map fun m => (m, (o.blockCols b).map fun n => MtxOp.element s t o m n)
  let els := rows.flatMap Prod.snd
  all [each rows fun x => storeBytes (tileAt t + o.addrOf 7 + x.1 * o.addrOf 8 + packedBytes o.cfmt (64 * b))
      (x.2.flatMap fun e => toBytes (packedBytes o.cfmt 1) e.1),
    noteOutputs t (els.filter fun e => e.2.2).length ((els.map fun e => e.2.1).foldl (· + ·) 0) r b]

/-- The output tiles of a block in increasing row block; poison stops them. -/
def blockTiles (t b : Nat) : List Nat → Prog
  | [] => modOp t fun o => { o with col := b + 1 }
  | r :: rs =>
    look fun s => match (s.tile t).ops with
      | [] => .nop
      | o :: _ => match o.tilePoison s t r b with
        | some a => mtxPoison t a r b
        | none => all [o.writeTile s t r b, blockTiles t b rs]

/-- The running operation does its next column block. `e` is what the code of a word it reads at `addr` reports anew. -/
def columnBlock (t : Nat) (e : EccErr) (addr : Nat) : Prog :=
  look fun s =>
    match (s.tile t).ops with
    | [] => .nop
    | o :: _ =>
      let reads := (o.inputs ++ if o.acc then o.outputs else []).any fun r => overlaps addr 1 r.1 r.2
      when (o.started && decide (o.col < o.blocks)) (all [
        when (reads && e == .corrected) (tmemCe t addr),
        when (reads && e == .uncorrectable) (tmemPoison t addr),
        look fun s => match o.readMeta s t o.col with
          | .poisoned a => mtxPoison t a 0 o.col
          | .bad code col pos mask value => sparseFault t o.col code col pos mask value
          | .ok => blockTiles t o.col (List.range o.rowBlocks)])

def execMtxColumnBlock (t : Nat) (e : EccErr) (addr : Nat) (s : State) : Host.Outcome State Fault Refusal :=
  done (when s.ready (columnBlock t e addr)) s

/-! ## Ending (R171, R188, R193) -/

/-- The cycles per row and 64 positions of the wider operand, and the fill of an output tile. -/
def MtxOp.rate (o : MtxOp) : Nat × Nat :=
  if o.opc = 1 then (2, 8)
  else
    let b := max (elemBits o.afmt) (elemBits o.bfmt)
    (if b ≤ 4 then 1 else if b ≤ 8 then 2 else 8, 0)

def MtxOp.effective (s : State) (t : Nat) (o : MtxOp) (n : Nat) : Nat := min (MtxOp.nnz s t o n) o.room

/-- The cycles of the operation. -/
def MtxOp.cycles (s : State) (t : Nat) (o : MtxOp) : Nat :=
  let c := o.rate.1
  let sum (l : List Nat) : Nat := l.foldl (· + ·) 0
  let tiles (f : Nat → Nat) : Nat := sum ((List.range o.blocks).map fun b =>
    sum ((List.range o.rowBlocks).map fun r => (o.blockRows r).length * f b))
  match o.sparse with
  | 0 => 32 + tiles (fun _ => ceilDiv o.depth 64 * c) + o.rate.2 * (o.blocks * o.rowBlocks)
  | 1 => 32 + tiles fun _ => ceilDiv o.depth 128 * c
  | _ =>
    let z (b : Nat) : Nat := ((o.blockCols b).map (MtxOp.effective s t o)).foldl max 0
    let p (b : Nat) : Nat := max (ceilDiv (z b) 64) (max (ceilDiv (ceilDiv o.depth 64) 8) 1)
    32 + tiles (fun b => p b * c) + sum ((List.range o.blocks).map fun b => 16 * max 1 (ceilDiv (z b) 256) * o.rowBlocks)

/-- The running operation has written its last output tile and ends. -/
def mtxComplete (t : Nat) : Prog :=
  look fun s =>
    match (s.tile t).ops with
    | [] => .nop
    | o :: _ => when (o.started && o.col == o.blocks) (all [
        addF ⟨tileReg t 0x114, 0, 32⟩ (o.cycles s t), incF ⟨tileReg t 0x110, 0, 32⟩,
        when (o.sparse != 0) (incF ⟨tileReg t 0x130, 0, 32⟩),
        modTile t fun x => { x with ops := x.ops.drop 1 },
        look fun s => when ((s.tile t).run == 0) (tileIdle t)])

def execMtxOpComplete (t : Nat) (s : State) : Host.Outcome State Fault Refusal := done (when s.ready (mtxComplete t)) s

end Sys2Proof.Machine
end

