-- ==== Sys2Proof/Machine/Transfers.lean ====
section
/-!
DEFINITION. Sys2Proof/Machine/Transfers.lean: transfers between tile memory, the Store, far memory, other tiles and host
memory (R208, R216 to R221, R224, R233, R288, R295, R297, R304, R358, R359, R374), and far-memory windows (R292, R295).
-/
namespace Sys2Proof.Machine

/-! ## Addresses of a transfer (R216) -/

def Xfer.local_ (x : Xfer) : Nat := bitsOf (x.word 0) 0 20
def Xfer.remote (x : Xfer) : Nat := x.word 1 + 2 ^ 32 * bitsOf (x.word 2) 0 8
def Xfer.rel (x : Xfer) : Nat := bitsOf (x.word 2) 8 3

/-- Reserved bits, alignment, and REL (R219 step 1). -/
def Xfer.descOk (x : Xfer) : Bool :=
  bitsOf (x.word 0) 20 12 == 0 && bitsOf (x.word 2) 11 21 == 0 && bitsOf (x.word 3) 20 12 == 0 && bitsOf (x.word 4) 12 20 == 0 &&
  bitsOf (x.word 5) 20 12 == 0 && x.word 7 == 0 && x.local_ % 64 == 0 && x.word 1 % 64 == 0 && x.len % 64 == 0 &&
  x.word 5 % 64 == 0 && x.word 6 % 64 == 0 && x.rel ≤ 4

/-- The rows at the remote side, relative to where the region starts. -/
def Xfer.remoteRows (x : Xfer) : List (Nat × Nat) := rowsOf x.remote (x.word 6) x.len x.rows

/-- The remote rows as device addresses; none beyond a relative region, or where the region is not known. -/
def Xfer.rows? (x : Xfer) : Option (List (Nat × Nat)) :=
  if x.rel = 0 then some x.remoteRows
  else match x.regions[x.rel - 1]? with
    | none => none
    | some g => if x.remoteRows.all fun r => r.1 + r.2 ≤ g.2 then some (x.remoteRows.map fun r => (g.1 + r.1, r.2)) else none

/-- Whether a row lies in one place; and which. -/
def State.rowPlace (s : State) (r : Nat × Nat) : Place :=
  match s.place r.1, s.place (r.1 + r.2 - 1) with
  | .tile t, .tile u => if t = u then .tile t else .unmapped
  | .store, .store => .store
  | .far, .far => .far
  | .host w x, .host v _ => if w = v then .host w x else .unmapped
  | _, _ => .unmapped

/-- The lines of a transfer: tile address and remote device address. -/
def Xfer.lines (x : Xfer) : List (Nat × Nat) :=
  ((x.region.zip (x.rows?.getD [])).flatMap fun r =>
    (List.range (x.len / 64)).map fun i => (r.1.1 + 64 * i, r.2.1 + 64 * i))

/-! ## What may be reached (R208, R288, R295, R297, R359) -/

/-- The plane under whose rules a transfer runs. -/
def State.xferPlane (s : State) (x : Xfer) : Plane := s.planeFor x.part x.old

/-- The active planes with their partitions, and the plane of the transfer. -/
def State.xferPlanes (s : State) (x : Xfer) : List (Nat × Plane) :=
  (x.part, s.xferPlane x) :: partIds.filterMap fun q => (s.part q).active.map fun a => (q, a)

def State.carveAllows (s : State) (x : Xfer) (r : Nat × Nat) : Bool :=
  if x.put then
    inside (s.dropRanges ++ ((s.xferPlanes x).filter fun y => y.1 == x.part).flatMap fun y => y.2.carveRanges) r.1 (r.1 + r.2)
  else inside (readable (s.xferPlanes x) x.part) r.1 (r.1 + r.2)

/-- The route that a transfer between two tiles rides. -/
def State.routeOf (s : State) (x : Xfer) (t u : Nat) : Option (List Nat) :=
  (s.xferPlane x).liveRoutes.find? fun r =>
    routeSrc r == (if x.put then t else u) && routeDst r == (if x.put then u else t)

def State.routeCut (s : State) (r : List Nat) : Bool := ((routeTiles r).getD []).any fun t => s.fenced (t / 16)

/-- What the check at a transfer's start comes to (R219): a fault with its catch code and the chunks' outcome, the unit
fenced, a cut route, the end of the link, a wait for a window, or the start. -/
inductive Start where
  | fault (code : Nat)
  | fenced
  | cut (r : List Nat)
  | lost
  | wait
  | go
  deriving DecidableEq, Repr

def State.rowStart (s : State) (t : Nat) (x : Xfer) (r : Nat × Nat) : Start :=
  match s.rowPlace r with
  | .unmapped => if isFar r.1 && s.fenced 42 then .fenced else .fault 0x600B
  | .tile u => match s.routeOf x t u with
    | none => .fault 0x600B
    | some q => if s.routeCut q then .cut q else .go
  | .store => if s.fenced 41 then .fenced else if s.carveAllows x r then .go else .fault 0x600C
  | .far =>
    if s.fenced 42 then .fenced
    else if !s.carveAllows x r then .fault 0x600C
    else if (s.xferPlane x).soft then .go
    else if (s.xferPlane x).farWins.isEmpty then .fault 0x8005
    else if s.windowOpen x.part then .go else .wait
  | .host w _ =>
    if !x.put && s.bit (F.HQ_HWIN_CTL_PEER w) then .fault 0x600B
    else if !inMask (s.fld (F.HQ_HWIN_CTL_PARTMASK w)) x.part then .fault 0x600C
    else if !s.linkUp then .lost else .go

/-- The worse of two: range before carve-outs, then the rest in order. -/
def Start.rank : Start → Nat
  | .fault 0x600B => 0 | .fault _ => 1 | .fenced => 2 | .cut _ => 3 | .lost => 4 | .wait => 5 | .go => 6
def Start.first (a b : Start) : Start := if b.rank < a.rank then b else a

def State.startOf (s : State) (t : Nat) (x : Xfer) : Start :=
  if !x.descOk then .fault 0x600A
  else if x.region.any fun r => 0x100000 < r.1 + r.2 then .fault 0x600B
  else match x.rows? with
    | none => .fault 0x600B
    | some rows => (rows.map (s.rowStart t x)).foldl Start.first .go

/-! ## Faults (R219, R160) -/

def Xfer.stream (x : Xfer) : Option Nat := x.chunk.map Prod.fst

/-- Steps 2 to 6 of R160 for the running transfer; `code` is what MTX_FAULT then names. -/
def xferFault (t code status : Nat) (rec : Prog) : Prog :=
  look fun s =>
    let x := (s.tile t).xfers.headD {}
    all [modTile t fun y => { y with xfers := [] },
      setWord (tileReg t 0x104) (code + 2 ^ 16), setWord (tileReg t 0x108) x.addr,
      rec, endUndone t status, stopAfterFault t true]

def xferCatch (t code unit : Nat) (x : Xfer) : Prog :=
  logC code 2 unit (memDetail ((x.rows?.getD x.remoteRows).headD (0, 0)).1 (t / 16) (t % 16) x.stream) x.stream

/-- A route that was cut is recorded once (R297), until its plane goes or the fence is lifted. -/
def routeCatch (t : Nat) (r : List Nat) (x : Xfer) : Prog :=
  look fun s =>
    let k := (x.old, routeSrc r, routeDst r)
    when (!(s.part x.part).cutSeen.contains k) (all [
      modPart x.part fun y => { y with cutSeen := k :: y.cutSeen },
      logC 0x8002 2 (t / 16) [routeSrc r, routeDst r] x.stream])

/-! ## Moving lines (R218, R221, R233, R288) -/

/-- What a line is read from, as a device address; none for host memory. -/
def Xfer.source? (s : State) (t : Nat) (x : Xfer) (l : Nat × Nat) : Option Nat :=
  if x.put then some (tileAt t + l.1) else match s.place l.2 with
    | .host _ _ => none
    | _ => some l.2

/-- A chunk that runs is about to be written into: what its state area holds is kept (R23). -/
def keepStateAt (a : Nat) : Prog :=
  look fun s => each s.liveSlots fun n =>
    match (s.slot n).chunks.findIdx? fun c => c.running.isSome && inRange c.stateArea a with
    | some i => keepState n i
    | none => .nop

/-- Write one line where the transfer's other end is; what may not be written is dropped and counted. -/
def putLine (t : Nat) (x : Xfer) (a : Nat) (bs : List Byte) : Prog :=
  look fun s =>
    let part := x.part
    if (s.tile t).detached then .nop
    else match s.place a with
      | .host w o => hostWrite (s.fld (F.HQ_HWIN_CTL_FUNC w)) (s.hostAddr w o) bs
      | .store =>
        if !disjoint s.ledgerRange (a, a + bs.length) then all [incF F.KV_LEDGER_DROPS,
          logLim (.turn part) (32 + part) 0x700C 0 (32 + part) [(x.stream).getD 0, a - storeAt, s.turnNo part % 2 ^ 32] x.stream]
        else if s.dropsIn a bs.length && x.rel == 0 then sysDrop (.turn part) a (t / 16) (t % 16) x.stream
        else match s.closedAt a with
          | some b => mergeLate b a
          | none => all [keepStateAt a, storeBytes a bs]
      | .unmapped => .nop
      | _ => storeBytes a bs

/-- A line lands where the transfer carries it. -/
def landLine (t : Nat) (x : Xfer) (l : Nat × Nat) (bs : List Byte) : Prog :=
  if x.put then putLine t x l.2 bs else storeBytes (tileAt t + l.1) bs

/-- Some of the lines of a transfer that ends before it is complete have landed and stay written (R235, R297): how many, the spec
leaves open, and what host memory would have given for them. -/
def landSome (t : Nat) (x : Xfer) : Prog :=
  drawFree 32 fun n => look fun s =>
    each (x.lines.take (n % (x.lines.length + 1))) fun l =>
      match Xfer.source? s t x l with
      | some a => look fun u => landLine t x l (u.mem.reads a 64)
      | none => drawFree 64 fun f => landLine t x l ((List.range 64).map fun i => (Config.freeElem f i).setWidth 8)

def endStart (t : Nat) (x : Xfer) : Start → Prog
  | .fault c => xferFault t c stException (xferCatch t c (if c = 0x8005 then 32 + x.part else t / 16) x)
  | .fenced => xferFault t 0 stFenced .nop
  | .cut r => xferFault t 0x8002 stFenced (routeCatch t r x)
  | .lost => xferFault t 0xA00A stException (xferCatch t 0xA00A 43 x)
  | .wait => all [modTile t fun y => { y with xfers := modNth (fun z => { z with waits := true }) y.xfers 0 },
      windowWait x.part x.stream]
  | .go => modTile t fun y => { y with xfers := modNth (fun z => { z with started := true, waits := false }) y.xfers 0 }

/-- The check's outcome is applied; of a transfer under way that ends by it, some lines have landed. -/
def applyStart (t : Nat) (x : Xfer) (r : Start) : Prog :=
  all [when (x.started && r.rank < 5) (landSome t x), endStart t x r]

/-- The oldest transfer of a tile starts. -/
def xferStart (t : Nat) : Prog :=
  look fun s => match (s.tile t).xfers with
    | [] => .nop
    | x :: _ => when (!x.started && !x.waits) (applyStart t x (s.startOf t x))

def execXferStart (t : Nat) (s : State) : Host.Outcome State Fault Refusal := done (when s.ready (xferStart t)) s

/-- The start of a far-memory window of a partition (R292). -/
def State.windowStarts (s : State) (p i : Nat) : Bool :=
  match (s.plane p).farWins[i]? with
  | some w => s.partOn p && s.reached (s.turnOrg p) && s.since (s.turnOrg p) % s.turnLen p == (winRange w).1
  | none => false

/-- The transfers of a partition that waited for its window start (R295, R304). -/
def startWaiting (p : Nat) : Prog :=
  look fun s => each ((s.dev.tiles.filter fun t => (t.2.xfers.headD {}).waits && (t.2.xfers.headD {}).part == p).map Prod.fst)
    fun t => look fun s => match (s.tile t).xfers with
      | [] => .nop
      | x :: _ => applyStart t x (s.startOf t x)

/-! ## A transfer's lines and its end (R218, R221, R233, R288, R289) -/

/-- A source line is poisoned or meets an uncorrectable error: the transfer ends, what landed stays (R221, R233). -/
def lineUe (t : Nat) (x : Xfer) (a : Nat) (new : Bool) : Prog :=
  let st := x.stream
  if a < storeAt then
    xferFault t 0x6002 stEcc (all [when new (all [addPoison (a / 8 * 8)]),
      setWord (tileReg (a / 0x100000) 0x144) (a % 0x100000 / 8 * 8 + 2 ^ 31),
      logC 0x6002 2 (t / 16) (memDetail a (t / 16) (t % 16) st) st])
  else xferFault t (if !new then 0x6005 else if isFar a then 0x6008 else 0x6004) stEcc (readUe a new (t / 16) (t % 16) st)

/-- The lines still to move; `k` is the number of the next. The code of line `line` reports `err`. -/
def moveLines (t : Nat) (err : EccErr) (line : Nat) (data : List Byte) : Nat → List (Nat × Nat) → Prog
  | _, [] => modTile t fun y => { y with xfers := y.xfers.drop 1 }
  | k, l :: ls =>
    look fun s => match (s.tile t).xfers with
      | [] => .nop
      | x :: _ =>
        let src := Xfer.source? s t x l
        let bad := match src with
          | some a => s.poisonedIn a 64
          | none => false
        let bs := match src with
          | some a => s.mem.reads a 64
          | none => (List.range 64).map fun i => data.getD (64 * k + i) 0
        match src with
        | some a =>
          if bad then lineUe t x ((unitsOf a 64).find? (fun u => s.dev.poison.contains u) |>.getD a) false
          else if k = line && s.reports a err == .uncorrectable then lineUe t x a true
          else all [
            when (k == line && s.reports a err == .corrected) (if a < storeAt then tmemCe t (a % 0x100000)
              else readCe a (.turn x.part) (t / 16) (t % 16) x.stream),
            landLine t x l bs, moveLines t err line data (k + 1) ls]
        | none => all [landLine t x l bs, moveLines t err line data (k + 1) ls]

/-- Whether a transfer's remote side is host memory. -/
def Xfer.isHost (s : State) (x : Xfer) : Bool :=
  match s.place ((x.rows?.getD []).headD (0, 0)).1 with
  | .host _ _ => true
  | _ => 2 ^ 39 ≤ ((x.rows?.getD []).headD (0, 0)).1

/-- The route that a transfer rides, with its index in the route table of its plane. -/
def State.rideOf (s : State) (t : Nat) (x : Xfer) : Option (Nat × List Nat) :=
  match s.place ((x.rows?.getD []).headD (0, 0)).1 with
  | .tile u => if t = u then none else ((s.xferPlane x).routes.zipIdx.find? fun r => routeValid r.1 &&
      routeSrc r.1 == (if x.put then t else u) && routeDst r.1 == (if x.put then u else t)).map fun r => (r.2, r.1)
  | _ => none

/-- The cycles in which a line of a transfer waits at its destination behind one of a route of lower index that ends there (R289). -/
def State.ejectStalls (s : State) (t : Nat) (x : Xfer) (meets : List (Nat × Nat)) : Nat :=
  match s.rideOf t x with
  | none => 0
  | some r => (meets.map fun m => match (s.tile m.1).xfers.head?.bind (s.rideOf m.1) with
      | some q => if routeDst q.2 = routeDst r.2 && q.1 < r.1 then m.2 else 0
      | none => 0).foldl (· + ·) 0

/-- Waiting cycles are counted in the destination's bench, and logged once per bench and turn (R289, R305). -/
def ejectStall (t : Nat) (x : Xfer) (n : Nat) : Prog :=
  look fun s => match s.rideOf t x with
    | none => .nop
    | some r =>
      let b := routeDst r.2 / 16
      when (n != 0) (all [
        setF (F.BENCH_EJECT_STALLS b) (min (s.fld (F.BENCH_EJECT_STALLS b) + n) (2 ^ 32 - 1)),
        logLim (s.benchLimit b) b 0x8007 0 b [n % 2 ^ 32]])

/-- The running transfer moves its lines and ends. What has changed since it started is checked again: its route, its
window, the link (R235, R297, R374, R384). -/
def xferComplete (t : Nat) (err : EccErr) (line : Nat) (way : XferWay) (data : List Byte) : Prog :=
  look fun s => match (s.tile t).xfers with
    | [] => .nop
    | x :: _ => when x.started
      (match s.startOf t x with
        | .go | .wait => all [
            when (x.put && (s.tile t).detached) (logC 0x5002 0 (t / 16) [t / 16, t % 16] x.stream),
            ejectStall t x (s.ejectStalls t x way.meets),
            when (way.link && bitsOf s.dev.farCfg 8 1 == 1 && isFar ((x.rows?.getD []).headD (0, 0)).1) (all [incF F.FAR_LINK_CE,
              logLim (.turn x.part) 42 0x6009 0 42 (memDetail ((x.rows?.getD []).headD (0, 0)).1 (t / 16) (t % 16) x.stream) x.stream]),
            moveLines t err line data 0 x.lines,
            look fun s => when ((s.tile t).run == 0) (tileIdle t)]
        | r => applyStart t x r)

def execXferComplete (t : Nat) (err : EccErr) (line : Nat) (way : XferWay) (data : List Byte) (s : State) :
    Host.Outcome State Fault Refusal :=
  done (when s.ready (xferComplete t err line way data)) s

end Sys2Proof.Machine
end

