-- ==== Sys2Proof/Machine/HostOps.lean ====
section
/-!
DEFINITION. Sys2Proof/Machine/HostOps.lean: the host interface beside its rings (R353, R371, R374 to R378): host and
function-level resets, the link, VF Enable, power states of functions and completion time-outs.
-/
namespace Sys2Proof.Machine

/-! ## What the resets clear -/

/-- The registers in the scope of a host reset beyond class H: the HQ, AUD and PCK blocks and the VF windows (R573). -/
def hostScope (off : Nat) : Bool :=
  (0x60000 ≤ off && decide (off < 0xC0000)) || (0x400000 ≤ off && decide (off < 0x420000)) || decide (0x4000000 ≤ off)

/-- The registers of class H that a host reset returns to a segment's value, not to their reset value (R578). -/
def hostRestored (off : Nat) : Bool :=
  off == 0x420004 || (0x420100 ≤ off && decide (off < 0x420300) && off % 0x20 == 0) ||
  (0x420300 ≤ off && decide (off < 0x420380) && off % 0x10 == 0) || (0x420400 ≤ off && decide (off < 0x420480) && off % 0x10 == 0) ||
  (0x400000 ≤ off && decide (off < 0x404000) && off % 0x1000 == 0x10)

/-- What a host reset keeps of a field (R573, R577). Ledger lines change only by the actions given for the reset. -/
def hostKeeps (off : Nat) (f : FieldSpec) : Bool :=
  isUnitLine off || hostRestored off || (match f.kept with
    | .A | .W => true
    | .H => false
    | _ => !hostScope off)

/-- The pairs that a function owns. -/
def State.ownedPairs (s : State) (fn : Nat) : List Nat := (List.range 256).filter fun q => s.owner q == fn

/-- The registers of a pair that a function-level reset clears: all but FUNC and QP_SLOTS (R375). -/
def pairKeeps (qs : List Nat) (off : Nat) (f : FieldSpec) : Bool :=
  !(0x81000 ≤ off && decide (off < 0x85000) && qs.contains ((off - 0x81000) / 64)) ||
  off % 64 == 4 || (off % 64 == 0 && f.lo == 2)

/-- A function's own window or MSI-X region: its table and PBA, and in a VF's window its GEN_SCRATCH (R375). The GEN_SCRATCH
of the physical function is of class A, which every reset but power-on leaves. -/
def fnOwn (fn off : Nat) : Bool :=
  if fn = 0 then msixRegion off
  else 0x4000018 + 0x10000 * fn ≤ off && decide (off < 0x4010000 + 0x10000 * fn)

/-- The latch of a path is cleared. -/
def clearLatch (p : Path) : Prog := modHs fun h => { h with latches := h.latches.filter fun x => x.1 != p }

/-- What a function-level reset clears of one function (R375, R587, R588). -/
def clearFunction (fn : Nat) : Prog :=
  look fun s =>
    let qs := s.ownedPairs fn
    all [each qs dropFlights,
      .act (.lose fun off f => pairKeeps qs off f && !fnOwn fn off),
      each qs fun q => modPair q fun _ => {},
      clearLatch (fnPath fn), when (s.fenced (44 + fn)) (liftFence (44 + fn)), bumpEpoch (44 + fn)]

/-! ## Function-level resets (R375, R376) -/

/-- A virtual function enters its reset; FLR_DONE ends it. -/
def vfFlr (vf : Nat) : Prog := all [clearFunction vf, setUnit (44 + vf) 3]

def execVfFlr (vf : Nat) (s : State) : Host.Outcome State Fault Refusal :=
  done (when (s.ready && s.linkUp && 1 ≤ vf && decide (vf ≤ s.dev.numVfs) && s.unitState (44 + vf) != 0) (vfFlr vf)) s

def vfIds : List Nat := (List.range 63).map (· + 1)

/-- VF Enable is cleared: every VF is reset and absent. -/
def dropVfs : Prog :=
  look fun s => all [
    each (vfIds.filter fun v => s.unitState (44 + v) != 0) fun v => all [clearFunction v, setUnit (44 + v) 0],
    modDev fun d => { d with numVfs := 0 }]

/-- What a reset of the physical function does beside its own pairs (R376): host windows are invalid, no pair has an owner
or a range, a load from the host is aborted, and vector 0 is armed again (R605). -/
def clearHost : Prog :=
  all [dropVfs,
    each (List.range 16) fun w => setB (F.HQ_HWIN_CTL_VALID w) false,
    .act (.lose fun off f => !(0x81000 ≤ off && decide (off < 0x85000)) ||
      !(off % 64 == 4 || (off % 64 == 0 && f.lo == 2))),
    endLoad (fun l => l.src == srcHost) rAborted,
    modLog fun l => { l with armed := true }]

def pfFlr : Prog := all [clearFunction 0, clearHost, setUnit 44 3]

def execPfFlr (s : State) : Host.Outcome State Fault Refusal :=
  done (when (s.ready && s.linkUp && s.unitState 44 != 0) pfFlr) s

/-- A function-level reset is complete. -/
def execFlrDone (fn : Nat) (s : State) : Host.Outcome State Fault Refusal :=
  done (when (s.ready && decide (fn < 64) && s.unitState (44 + fn) == 3) (all [setUnit (44 + fn) 1, logC 0xA005 0 43 [fn]])) s

/-! ## Host reset (R374, R377, R577, R578) -/

/-- Transfers to or from a host window that have started are cut (R374). -/
def cutHostXfers : Prog :=
  look fun s => each s.dev.tiles fun y => match y.2.xfers with
    | x :: _ => when (x.started && x.isHost s) (applyStart y.1 x .lost)
    | [] => .nop

/-- The effects of a host reset, with the link down after it. -/
def hostResetProg (wire : Bool) : Prog :=
  look fun s => all [
    when wire (logC 0xA004 0 43 []),
    when (s.unitState 43 != 0) (logC 0xA001 1 43 []),
    cutHostXfers,
    each (s.dev.pairs.map Prod.fst) dropFlights,
    endLoad (fun l => l.src == srcHost || (!l.boot && (l.src == srcUsb || l.src == srcSpi))) rAborted,
    each partIds loseStaged,
    each (List.range 4) fun k => when (s.bit (F.AUD_EN_EN k)) (acceptPort k false),
    .act (.lose hostKeeps),
    modDev fun d => { d with pairs := [], numVfs := 0, bar2Size := 2 ^ 30 },
    modSvc fun v => { v with samples := [], ep2 := match v.ep2 with
      | some (none, _) => none
      | e => e },
    modHs fun h => { h with latches := h.latches.filter fun x => !(match x.1 with
      | .pf | .vf _ => true
      | _ => false) },
    modLog fun l => { l with armed := true },
    restoreTileClk, restorePorts, restoreArray,
    when (s.fenced 43) (liftFence 43),
    each ((List.range 64).map (· + 44)) fun u => all [
      when (s.fenced u) (liftFence u), when (s.unitState u != 0) (bumpEpoch u), setUnit u 0],
    when (s.unitState 43 == 0) (bumpEpoch 43), declareUnit 43 0,
    setF F.HQ_STATUS_RATE 0, setF F.HQ_STATUS_WIDTH 0, setF F.HQ_STATUS_FLIT 0]

/-- In REST, or on the way into or out of it, PERST_N is remembered until READY (R557). -/
def execHostReset (kind : HostResetKind) (s : State) : Host.Outcome State Fault Refusal :=
  done (all [
    when (kind == .perst) (setPins fun p => { p with perstN := false }),
    if s.dev.pwr.por || s.heldReset then .nop
    else if s.devState == 2 || s.devState == 3 || s.devState == 4 then when (kind == .perst) (setF F.PCK_STATUS_PERST_SEEN 1)
    else if kind == .perst || s.linkUp then hostResetProg (kind != .linkDown)
    else .nop]) s

/-- JTAG instructions 3 to 7 hold the device as after link-down (R541). -/
def State.jtagHolds (s : State) : Bool := 3 ≤ s.dev.svc.jtagIr && s.dev.svc.jtagIr ≤ 7

/-- The link has trained: PERST_N is high, and neither a fence nor JTAG holds the link down (R349, R377, R639). A boot from
the host counts its 2 s from here (R314). -/
def linkUpProg (rate width : Nat) (flit : Bool) : Prog :=
  all [
    setF F.HQ_STATUS_RATE rate, setF F.HQ_STATUS_WIDTH width, setB F.HQ_STATUS_FLIT flit,
    declareUnit 43 2, setUnit 44 1, logC 0xA002 0 43 [rate, width],
    when (decide (rate < 2) || decide (width < 4)) (logC 0xA003 1 43 []),
    look fun s => when (s.dev.chuck.booting && s.dev.chuck.load.isNone && s.dev.chuck.sources.head? == some srcHost)
      (modChuck fun c => { c with sourceAt := s.now })]

def execHostLinkUp (rate width : Nat) (flit : Bool) (s : State) : Host.Outcome State Fault Refusal :=
  done (when (s.ready && !s.linkUp && !s.fenced 43 && !s.jtagHolds) (all [
    setPins fun p => { p with perstN := true }, linkUpProg rate width flit])) s

/-! ## VF Enable and power states (R353, R371) -/

/-- The vectors that VFs 1 to `n` ask for, with those of the physical function. -/
def State.vectorsFor (s : State) (n : Nat) : Nat :=
  64 + ((List.range n).map fun i => s.fld (F.HQ_FN_VECS_COUNT i)).sum

def vfEnable (n : Nat) : Prog :=
  look fun s =>
    if 63 < n || 2048 < s.vectorsFor n then logC 0xA00B 0 43 [n, s.vectorsFor n]
    else all [each ((List.range n).map (· + 45)) fun u => setUnit u 1, modDev fun d => { d with numVfs := n }]

/-- VF Enable is set with NumVFs; a set VF Enable is left as it is. -/
def execVfEnable (numVfs : Nat) (s : State) : Host.Outcome State Fault Refusal :=
  done (when (s.ready && s.linkUp && s.unitState 44 == 1 && s.dev.numVfs == 0) (vfEnable numVfs)) s

/-- A function enters D3hot, or returns to D0. -/
def execDStateChange (fn : Nat) (d3 : Bool) (s : State) : Host.Outcome State Fault Refusal :=
  done (when (s.ready && s.linkUp && decide (fn < 64) && s.unitState (44 + fn) == (if d3 then 1 else 2))
    (setUnit (44 + fn) (if d3 then 2 else 1))) s

/-! ## Completion time-outs (R364, R374, R378) -/

def timedOut : Prog := logC 0xA009 1 43 []

/-- A request whose completion has not come is ended. -/
def cplTimeout : CplReq → Prog
  | .ingest q => look fun s => when (s.bit (F.QP_CTL_EN q) && s.fld (F.QP_INDEX_IN_HEAD q) != (s.pair q).tail) timedOut
  | .payload q => look fun s => match (s.pair q).flight with
    | some e :: _ => all [timedOut, ingestDrop q e.stream 9, gapNext e.stream, passEntry q,
        passFront q (s.pair q).flight.length]
    | _ => .nop
  | .transfer t => look fun s => match (s.tile t).xfers with
    | x :: _ => when (x.started && !x.put && x.isHost s) (xferFault t 0xA009 stException (xferCatch t 0xA009 43 x))
    | [] => .nop
  | .image => look fun s => when (s.dev.chuck.load.any (fun l => l.src == srcHost) && s.fld F.IMG_STATUS_CHUCK == 1)
      (all [timedOut, rejectLoad rSource 0])

def execCplTimeout (req : CplReq) (s : State) : Host.Outcome State Fault Refusal :=
  done (when (s.ready && s.linkUp) (cplTimeout req)) s

end Sys2Proof.Machine
end

