-- ==== Sys2Proof/Machine/Fences.lean ====
section
/-!
DEFINITION. Sys2Proof/Machine/Fences.lean: fencing a bench (R175, R235, R296, R297) and what the fence of another unit means (R58,
R587, R597, R598).
-/
namespace Sys2Proof.Machine

/-- A fence abandons a tile's matrix operations; what their output regions then hold is undefined (R175). -/
def abandonOps (t : Nat) : Prog :=
  look fun s => each (((s.tile t).ops.flatMap MtxOp.outputs).filter fun r => r.1 + r.2 ≤ 0x100000) fun r =>
    look fun u => all [.act .draw,
      .act (.bytes (tileAt t + r.1) ((List.range r.2).map fun i => (Config.freeElem u.free i).setWidth 8))]

/-- A fence abandons the transfer of a tile that is under way (R235). -/
def abandonXfer (t : Nat) : Prog :=
  look fun s => match (s.tile t).xfers with
    | x :: _ => when x.started (landSome t x)
    | [] => .nop

/-- A transfer under way on a route through a bench that a fence cuts moves no further lines, and ends (R297). -/
def abandonRides (b : Nat) : Prog :=
  look fun s => each (s.dev.tiles.filter fun y => y.1 / 16 != b) fun y => match y.2.xfers with
    | x :: _ => (match s.rideOf y.1 x with
      | some r => when (x.started && ((routeTiles r.2).getD []).any fun u => u / 16 == b) (applyStart y.1 x (.cut r.2))
      | none => .nop)
    | [] => .nop

/-- Fence a bench (R296): its stages end FAIL_FENCED, its tiles stop, it is held as in DWELL with state FENCED. A
bench that is fenced already stays as it is. Returns no policy action, so that several fences make one event. -/
def fenceBenchOnly (b code : Nat) : Prog :=
  look fun s =>
    when (!s.fenced b) (all [
      each (tilesOf b) abandonXfer, abandonRides b,
      each (tilesOf b) fun t => endTileChunks t stFenced,
      each (tilesOf b) freezeTile,
      each (tilesOf b) abandonOps,
      each (tilesOf b) fun t => modTile t Tile.stopped,
      dropMoves b, setUnit b bFenced, setB (F.LEDG_UNIT_FENCED b) true, setB (F.LEDG_UNIT_PENDING b) false, bumpEpoch b,
      setF (F.BENCH_FENCE_CODE b) code, setB (F.BENCH_FENCE_FENCED b) true,
      logC 0x8001 2 b [code, (s.benchPart b).getD 0xFF]])

/-- Fence benches on one tick: one policy event for each partition concerned (R298, R304's last rule). -/
def fenceBenches (bs : List Nat) (code : Nat) : Prog :=
  look fun s =>
    let fresh := bs.filter fun b => !s.fenced b
    all [each fresh fun b => fenceBenchOnly b code,
      each (partIds.filter fun p => fresh.any fun b => s.benchPart b == some p) fencePolicy]

/-- Fence a PCI Express function: its pairs are disabled. -/
def fenceFn (v : Nat) : Prog :=
  look fun s => when (!s.fenced (44 + v)) (all [fenceUnit (44 + v),
    each ((List.range 256).filter fun q => s.bit (F.QP_CTL_EN q) && s.owner q == v) fun q =>
      all [dropFlights q, setB (F.QP_CTL_EN q) false]])

/-- Fence the host interface: its link is held down, which ends transfers to the host (R374), and every function is fenced. -/
def fenceHost : Prog :=
  look fun s => when (!s.fenced 43) (all [cutHostXfers, fenceUnit 43, setUnit 43 0, each (List.range 64) fenceFn])

/-- Fence an audio port: its entries are unframed. -/
def fencePort (k : Nat) : Prog := look fun s => when (!s.fenced (108 + k)) (all [fenceUnit (108 + k), unframePort k])

/-- Fence a unit that is no bench. What a fence means beside this is asked where the unit would act. -/
def fenceAny (u : Nat) : Prog :=
  if u = 43 then fenceHost
  else if 44 ≤ u && u < 108 then fenceFn (u - 44)
  else if 108 ≤ u && u < 112 then fencePort (u - 108)
  else fenceUnit u

end Sys2Proof.Machine
end

