-- ==== Sys2Proof/Machine/HeadstockOps.lean ====
section
/-!
DEFINITION. Sys2Proof/Machine/HeadstockOps.lean: the commands of the Headstock (R32 to R66).
-/
namespace Sys2Proof.Machine

def ppsGrid : Nat := 250000000

/-- The range of TRIM: ±200 ppm in units of 1/256 ppb (R43). -/
def trimLimit : Int := 51200000
def clampTrim (x : Int) : Int := max (-trimLimit) (min trimLimit x)

/-- TB_TRIM and TB_SLEW.REMAIN as signed numbers. -/
def State.trim (s : State) : Int := signedOf 32 (s.fld F.TB_TRIM_TRIM)
def State.remain (s : State) : Int := signedOf 24 (s.fld F.TB_SLEW_REMAIN)

/-- SLEW_PPM as it acts: 0 as 1, above 50 as 50. -/
def State.slewPpm (s : State) : Nat := max 1 (min 50 (s.fld F.TB_DISC_CTL_SLEW_PPM))

/-- The slew offset in units of 1/256 ppb: 1 ppm is 256,000 units. -/
def State.slewOffset (s : State) : Int :=
  if s.remain = 0 then 0 else if 0 < s.remain then 256000 * s.slewPpm else -(256000 * (s.slewPpm : Int))

/-- The mode that acts: a change of MODE takes effect on the next tick (R66). -/
def State.mode (s : State) : Nat := s.dev.hs.modeWas.getD (s.fld F.TB_DISC_CTL_MODE)

/-- The steering sum before the clamp: TRIM counts in HOST and PPS mode only (R42). -/
def State.baseOffset (s : State) : Int := if s.mode = 0 then 0 else s.trim
def State.steering (s : State) : Int := s.baseOffset + s.slewOffset

/-- The part of the slew offset that the clamp lets through (R44). -/
def State.slewThrough (s : State) : Int := clampTrim s.steering - clampTrim s.baseOffset

def State.clamped (s : State) : Bool := decide (s.steering ≤ -trimLimit) || decide (trimLimit ≤ s.steering)

/-- Set CLAMP while the clamp acts; TRIM_CLAMPED is logged once per entry into it (R43). -/
def updateClamp : Prog :=
  look fun s => all [setB F.TB_STATUS_CLAMP s.clamped,
    when (s.clamped && !s.bit F.TB_STATUS_CLAMP) (logC 0x1007 0 40 [])]

/-- The Headstock works: out of power-on reset, counting, and the count not carried by the rest domain. -/
def State.ticking (s : State) : Bool := !s.dev.pwr.por && s.dev.hs.counting && !s.carried

/-! ## Reference and lock (R37 to R40) -/

def tbFreeProg : Prog :=
  look fun s =>
    when (!s.dev.pwr.por && !s.dev.hs.counting && s.unitState 40 == 1) (all [
      declareUnit 40 0, modHs fun h => { h with counting := true }, logC 0x1003 1 40 [], submitAutoen, usbCheck])

/-- R37, R38: no lock within 10 ms of the release: the Headstock enters FREE and starts to count. -/
def execTbFree (s : State) : Host.Outcome State Fault Refusal := done tbFreeProg s

/-- R39: loss is declared; after a lock the Headstock enters HOLDOVER, before any lock it falls back to FREE. -/
def tbrefLostProg : Prog :=
  look fun s =>
    when (s.ticking && (s.unitState 40 == 2 || s.unitState 40 == 1))
      (if s.dev.hs.everLocked then
        all [declareUnit 40 3, modHs fun h => { h with holdTemp := s.fld F.PCK_TEMP_TEMP }, logC 0x1001 1 40 []]
      else all [declareUnit 40 0, usbCheck])

def execTbrefLost (s : State) : Host.Outcome State Fault Refusal := done tbrefLostProg s

/-- R40: TBREF has been valid for 250,000 ticks: HOLDOVER or FREE passes into LOCKING; the USB port may attach (R562). -/
def execTbrefBack (s : State) : Host.Outcome State Fault Refusal :=
  done (when (s.ticking && (s.unitState 40 == 3 || s.unitState 40 == 0)) (all [declareUnit 40 1, logC 0x1002 0 40 [], usbCheck])) s

/-- R37: lock is reported; the count starts if it had not (R32), and a held AUTOEN order is submitted (R38). -/
def execTbLock (s : State) : Host.Outcome State Fault Refusal :=
  done (when (!s.dev.pwr.por && !s.carried && s.unitState 40 == 1) (all [
    declareUnit 40 2, modHs fun h => { h with counting := true, everLocked := true }, submitAutoen, usbCheck])) s

/-! ## TBPPS (R45 to R51, R65) -/

/-- The signed distance of a tick from the nearest grid tick. -/
def State.gridError (s : State) (stamp : Nat) : Int :=
  let r := (stamp + ppsGrid - s.fld F.TB_PPS_PHASE_PHASE) % ppsGrid
  if r ≤ ppsGrid / 2 then r else (r : Int) - ppsGrid

/-- The acceptance window in ticks: 16 × PPS_WIN, with 0 as 1. -/
def State.ppsWindow (s : State) : Nat := 16 * max 1 (s.fld F.TB_DISC_CTL_PPS_WIN)

/-- What every accepted edge does (R46); `g` is the grid tick that it stands for. -/
def acceptEdge (g : Long) : Prog :=
  look fun s => all [
    setB F.TB_STATUS_PPS_OK true,
    when s.dev.hs.missing (logC 0x1005 0 40 []),
    modHs fun h => { h with misses := 0, missing := false, rejects := 0, lastReject := none, ppsFrom := g }]

/-- The discipline loop of R45 for the error `e`. -/
def runLoop (e : Int) : Prog :=
  all [
    look fun s => modHs fun h => { h with acc := clampTrim (h.acc + (e * 1024) / 2 ^ s.fld F.TB_DISC_CTL_KI_SHIFT) },
    look fun s => setF F.TB_TRIM_TRIM
      (patternOf 32 (clampTrim (-(s.dev.hs.acc + (e * 1024) / 2 ^ s.fld F.TB_DISC_CTL_KP_SHIFT)))),
    setF F.TB_PPS_ERR_ERR (patternOf 16 (max (-32768) (min 32767 e))),
    clearUncFrac, setUnc (4 * e.natAbs + 8), updateClamp]

/-- Load a slew of `n` ticks, saturated to REMAIN's range (R44, R47). -/
def loadSlew (n : Int) : Prog :=
  let v := max (-(2 ^ 23)) (min (2 ^ 23 - 1) n)
  all [setF F.TB_SLEW_REMAIN (patternOf 24 v), modHs fun h => { h with slewFrac := 0 }, setB F.TB_STATUS_SLEWING (v != 0), updateClamp]

/-- A rejected edge (R47): four consistent ones make PPS_FAR. -/
def rejectEdge (e : Int) : Prog :=
  look fun s =>
    let h := s.dev.hs
    let near := match h.lastReject with
      | none => false
      | some t => let d := (h.now - t).toNat; 249999998 ≤ d && d ≤ 250000002
    let n := if near then h.rejects + 1 else 1
    all [incF F.TB_PPS_ERR_REJECTS,
      modHs fun h => { h with rejects := if n = 4 then 0 else n, lastReject := some h.now },
      when (n == 4) (all [logC 0x1006 1 40 [],
        when (s.mode == 2 && s.bit F.TB_DISC_CTL_FAR_SLEW) (loadSlew (-e))])]

/-- Judge an edge against the grid (R45 to R47). -/
def judgeEdge : Prog :=
  look fun s =>
    let e := s.gridError s.now
    if e.natAbs ≤ s.ppsWindow then all [acceptEdge (s.dev.hs.now - BitVec.ofInt 64 e), when (s.mode == 2) (runLoop e)]
    else rejectEdge e

/-- What the device times by itself goes on over a setting of the count: the ticks that it keeps move with the count, so that a span
that is under way keeps its length (R49; log entry 135). -/
def Dev.moved (d : Dev) (f : Nat → Nat) : Dev :=
  let g := fun (x : Nat × Nat) => (x.1, f x.2)
  { d with
    pwr := { d.pwr with waking := d.pwr.waking.map g, dwelling := d.pwr.dwelling.map g, joining := d.pwr.joining.map g,
                        tileClk := d.pwr.tileClk.map fun x => (x.1, f x.2.1, x.2.2), restAt := f d.pwr.restAt,
                        wokeAt := f d.pwr.wokeAt, wdogAt := f d.pwr.wdogAt },
    ledg := { d.ledg with mismatch := d.ledg.mismatch.map g },
    log := { d.log with lostLogged := d.log.lostLogged.map f },
    parts := d.parts.map fun x => (x.1, { x.2 with
      regrip := x.2.regrip.map fun r => { r with accepted := f r.accepted, first := f r.first } }),
    marks := d.marks.map fun x => (x.1, f (x.2 - 1) + 1),
    tiles := d.tiles.map fun x => (x.1, { x.2 with issuedAt := f x.2.issuedAt }),
    ports := d.ports.map fun x => (x.1, { x.2 with enabledAt := f x.2.enabledAt }),
    ins := d.ins.map fun x => (x.1, { x.2 with enabledAt := f x.2.enabledAt, from_ := x.2.from_.map f }),
    outs := d.outs.map fun x => (x.1, { x.2 with start := f x.2.start }),
    fab := { d.fab with edgeAt := f d.fab.edgeAt, flags := d.fab.flags.map fun x => (x.1, x.2.1, f x.2.2) },
    chuck := { d.chuck with sourceAt := f d.chuck.sourceAt,
                            load := d.chuck.load.map fun l => { l with lastData := f l.lastData } },
    svc := { d.svc with pollAt := f d.svc.pollAt, strmAt := f d.svc.strmAt },
    farSince := f d.farSince }

/-- Load the count at the edge (R49, R65). -/
def setCount : Prog :=
  look fun s =>
    let old := s.now
    let new := s.fld F.TB_SET_LO_SET + 2 ^ 32 * s.fld F.TB_SET_HI_SET
    all [modHs fun h => { h with now := BitVec.ofNat 64 new, acc := 0 },
      modDev fun d => d.moved fun t => (t + (2 ^ 64 - old + new)) % 2 ^ 64,
      setF F.TB_PPS_PHASE_PHASE (new % ppsGrid), setF F.TB_SET_CTL_ARM 0, setF F.TB_SET_CTL_DONE 1,
      logC 0x1008 0 40 [old % 2 ^ 32, old / 2 ^ 32, new % 2 ^ 32, new / 2 ^ 32],
      acceptEdge (BitVec.ofNat 64 new)]

/-- An edge of the selected polarity (R48 to R50). An edge that sets the count is stamped with the count before the setting, and one
that refuses a setting is judged like any other: the spec states neither (log entry 116). -/
def ppsEdgeProg (rising : Bool) : Prog :=
  look fun s =>
    when (s.ticking && rising == (s.fld F.TB_DISC_CTL_PPS_EDGE == 0)) (all [
      setF F.TB_PPS_STAMP_LO_STAMP s.now, setF F.TB_PPS_STAMP_HI_STAMP (s.now / 2 ^ 32),
      if s.bit F.TB_SET_CTL_ARM && s.enabledMask == 0 then setCount
      else all [
        when (s.bit F.TB_SET_CTL_ARM) (all [setF F.TB_SET_CTL_ARM 0, setF F.TB_SET_CTL_REFUSED 1, logC 0x1009 0 40 []]),
        judgeEdge]])

/-- R45 to R50: an edge of the selected polarity is stamped; an armed setting takes effect or is refused; otherwise the
edge is judged. Edges in REST, and before the count starts, are ignored (R38, R66). -/
def execTbppsEdge (rising : Bool) (s : State) : Host.Outcome State Fault Refusal := done (ppsEdgeProg rising) s

/-- The last grid tick whose window has passed, where no edge has come for it (R46): neither an accepted edge nor an earlier count of a
missing pulse stands for it. -/
def State.missedPulse (s : State) : Option Nat :=
  let x := s.now - (s.ppsWindow + 1)
  let d := (x + ppsGrid - s.fld F.TB_PPS_PHASE_PHASE) % ppsGrid
  if s.ppsWindow + 1 ≤ s.now && d ≤ x && laterTick (x - d) s.dev.hs.ppsFrom.toNat then some (x - d) else none

/-- One pulse is missing; the third in a row clears PPS_OK (R46). -/
def missPulse (g : Nat) : Prog :=
  look fun s => all [incF F.TB_PPS_ERR_MISSES, modHs fun h => { h with misses := h.misses + 1, ppsFrom := BitVec.ofNat 64 g },
    when (s.dev.hs.misses + 1 == 3) (all [setB F.TB_STATUS_PPS_OK false, modHs fun h => { h with missing := true },
      logC 0x1004 1 40 []])]

/-- R46: a grid tick plus the window has passed without an edge. -/
def execMissingPulse (s : State) : Host.Outcome State Fault Refusal :=
  done (when s.ticking (match s.missedPulse with
    | some g => missPulse g
    | none => .nop)) s

/-- A write of TB_PPS_PHASE (R68): windows of the new grid that passed before the write are not waited for. -/
def writePhase (v : Nat) : Prog :=
  when (bitsOf v 0 28 < ppsGrid) (all [writeFields F.TB_PPS_PHASE_PHASE.off v,
    look fun s => modHs fun h => { h with
      ppsFrom := let x := h.now - BitVec.ofNat 64 (s.ppsWindow + 1)
        if laterTick x.toNat h.ppsFrom.toNat then x else h.ppsFrom }])

/-- A write of TB_SET_CTL (R49, R51): CANCEL reads 0, and ARM written with it leaves ARMED clear. -/
def writeSetCtl (v : Nat) : Prog :=
  all [writeFields F.TB_SET_CTL_ARM.off v,
    when (bitsOf v 3 1 == 1) (all [setF F.TB_SET_CTL_ARM 0, setF F.TB_SET_CTL_CANCEL 0])]

def execSetArm (p : Path) (v : Word) (s : State) : Host.Outcome State Fault Refusal :=
  done (writing p F.TB_SET_CTL_ARM.off (writeSetCtl v.toNat)) s

def execSetCancel (p : Path) (v : Word) (s : State) : Host.Outcome State Fault Refusal :=
  done (writing p F.TB_SET_CTL_ARM.off (writeSetCtl v.toNat)) s

/-! ## Slew and mode (R44, R66) -/

/-- A write of TB_SLEW (R44): it replaces what is left of an earlier correction. -/
def writeSlew (v : Nat) : Prog :=
  all [setF F.TB_SLEW_REMAIN v, modHs fun h => { h with slewFrac := 0 }, setB F.TB_STATUS_SLEWING (bitsOf v 0 24 != 0), updateClamp]

def execSlewRequest (p : Path) (v : Word) (s : State) : Host.Outcome State Fault Refusal :=
  done (writing p F.TB_SLEW_REMAIN.off (writeSlew v.toNat)) s

/-- One tick in units of 1/256 ppb of a tick: an offset of n units accrues n of them per tick. -/
def slewUnit : Nat := 256000000000

/-- Whether the whole correction has accrued: the last tick of it is due (R44). -/
def State.slewDone (s : State) : Bool := s.remain.natAbs == 1 && slewUnit ≤ s.dev.hs.slewFrac

/-- The correction accrues over one tick, and REMAIN counts down with it (R44); its last tick waits for SLEW_COMPLETE. -/
def accrueSlew : Prog :=
  look fun s =>
    let f := s.dev.hs.slewFrac + s.slewThrough.natAbs
    when (s.remain != 0) (
      if f < slewUnit then modHs fun h => { h with slewFrac := f }
      else if s.remain.natAbs ≤ 1 then modHs fun h => { h with slewFrac := slewUnit }
      else all [modHs fun h => { h with slewFrac := f - slewUnit },
        setF F.TB_SLEW_REMAIN (patternOf 24 (if 0 < s.remain then s.remain - 1 else s.remain + 1))])

/-- R44: the correction has accrued. -/
def execSlewComplete (s : State) : Host.Outcome State Fault Refusal :=
  done (when (!s.dev.pwr.por && !s.carried && s.slewDone)
    (all [setF F.TB_SLEW_REMAIN 0, modHs fun h => { h with slewFrac := 0 }, setB F.TB_STATUS_SLEWING false, updateClamp])) s

/-- A write of TB_DISC_CTL (R42, R66): MODE 3 leaves MODE; another mode acts from the next tick on, and entering PPS mode clears
acc. Where the count does not run there is no tick to wait for. -/
def writeDiscCtl (v : Nat) : Prog :=
  look fun s =>
    let m := if bitsOf v 0 2 = 3 then s.fld F.TB_DISC_CTL_MODE else bitsOf v 0 2
    all [writeFields F.TB_DISC_CTL_MODE.off v, setF F.TB_DISC_CTL_MODE m,
      when (m == 2 && s.mode != 2) (modHs fun h => { h with acc := 0 }),
      modHs fun h => { h with modeWas := if s.ticking && m != s.mode then some s.mode else none },
      updateClamp]

def execModeChange (p : Path) (v : Word) (s : State) : Host.Outcome State Fault Refusal :=
  done (writing p F.TB_DISC_CTL_MODE.off (writeDiscCtl v.toNat)) s

/-! ## Uncertainty and the REST ratio (R52 to R54) -/

/-- The frequency error in HOLDOVER in 1/80 ppm: 0.2 ppm plus 1 ppm per °C of change, at most 50 ppm (R52). -/
def State.holdError80 (s : State) : Nat :=
  min 4000 (16 + 5 * (s.temp16 - signedOf 16 s.dev.hs.holdTemp).natAbs)

/-- R53: the drift of one millisecond: an error of 1 ppm drifts 1 ns. -/
def execUncEvaluate (s : State) : Host.Outcome State Fault Refusal :=
  done (when s.ticking
    (if s.unitState 40 == 3 && !(s.mode == 2 && s.bit F.TB_STATUS_PPS_OK) then
      growUnc (12500 * s.holdError80)
    else if s.unitState 40 == 0 then growUnc (1000000 * s.freePpm)
    else .nop)) s

/-- R54: the measured ratio of TBCLK to RESTCLK, taken while LOCKED. -/
def execRestRatioMeasure (ratio : Word) (s : State) : Host.Outcome State Fault Refusal :=
  done (when (s.ticking && s.unitState 40 == 2) (setWord F.TB_REST_RATIO_FRAC.off ratio.toNat)) s

/-! ## Launch copies, TBPPS_OUT and latches (R58 to R60, R34) -/

/-- Fence a walker (R59, R254): its records are released and its bit is set in KV_WALK_FENCE. -/
def fenceWalker (w : Nat) : Prog :=
  look fun s =>
    let part := partIds.find? fun p => inMask (s.fld (F.KV_WALKERS_MASK p)) w
    let unit := match part with
      | some p => 32 + p
      | none => 41
    when (!inMask (s.fld F.KV_WALK_FENCE_MASK) w) (all [
      logC 0x100C 2 unit [w],
      setF F.KV_WALK_FENCE_MASK (s.fld F.KV_WALK_FENCE_MASK + 2 ^ w),
      (match part with
        | none => .nop
        | some p => each (s.liveSlots.filter fun n => s.slotPart n == p && (s.slot n).walker == some w) releaseRecord)])

/-- One wrong endpoint (R58, R59, R611); the benches are fenced together afterwards. -/
def wrongEndpoint : Endpoint → Prog
  | .bench b => logC 0x100C 2 b []
  | .store => all [logC 0x100C 2 41 [], fenceAny 41]
  | .walker w => fenceWalker w
  | .port k => all [logC 0x100C 2 (108 + k) [], fenceAny (108 + k)]
  | .array => all [logC 0x100C 2 112 [], fenceAny 112]
  | .host => all [logC 0x100C 2 43 [], fenceAny 43]
  | .ledger => all [logC 0x100C 2 127 [], logC 0xF004 3 127 [], coldResetNow 2]
  | .ppsOut => all [logC 0x100C 2 40 [], setB F.TB_STATUS_PPSOUT_FENCED true, modHs fun h => { h with ppsOutLeft := 0 }]

def benchEndpoints : List Endpoint → List Nat
  | [] => []
  | .bench b :: l => b :: benchEndpoints l
  | _ :: l => benchEndpoints l

/-- R58: every 65,536 ticks; `wrong` are the endpoints whose copy differs by more than one tick. -/
def execLaunchCopyCheck (wrong : List Endpoint) (s : State) : Host.Outcome State Fault Refusal :=
  done (when s.ticking (all [each wrong wrongEndpoint, fenceBenches (benchEndpoints wrong) 0x100C])) s

/-- R60: the output goes high at an output grid tick for WIDTH_MS, with 0 as 1. -/
def execPpsOutPulse (s : State) : Host.Outcome State Fault Refusal :=
  done (when (s.ticking && s.bit F.TB_PPSOUT_CTL_EN && !s.bit F.TB_STATUS_PPSOUT_FENCED &&
      s.now % ppsGrid == (s.fld F.TB_PPS_PHASE_PHASE + s.fld F.TB_PPSOUT_OFS_OFS) % ppsGrid)
    (modHs fun h => { h with ppsOutLeft := 250000 * max 1 (s.fld F.TB_PPSOUT_CTL_WIDTH_MS) })) s

/-- The level of TBPPS_OUT (R60): low in REST, with EN clear, and while its driver is fenced. -/
def State.ppsOut (s : State) : Bool :=
  !s.carried && s.bit F.TB_PPSOUT_CTL_EN && !s.bit F.TB_STATUS_PPSOUT_FENCED && decide (0 < s.dev.hs.ppsOutLeft)

/-- A cold reset's hold of the USB port counts down, and the port attaches when it ends (R545). -/
def usbWait : Prog :=
  look fun s => when (s.dev.svc.usbOff != 0) (all [modSvc fun v => { v with usbOff := v.usbOff - 1 },
    when (s.dev.svc.usbOff == 1) usbCheck])

/-- One tick of TBCLK: the slew accrues, the count goes on by one, and a change of MODE takes effect (R32, R44, R60, R66). -/
def workTick : Prog :=
  all [accrueSlew, modHs fun h => { h with now := h.now + 1, ppsOutLeft := h.ppsOutLeft - 1 },
    look fun s => when s.dev.hs.modeWas.isSome (all [modHs fun h => { h with modeWas := none }, updateClamp]), usbWait]

/-- One tick of TBCLK, or in REST one period of RESTCLK, on which the rest domain adds TB_REST_RATIO (R32, R54). -/
def tick : Prog :=
  look fun s =>
    if s.dev.pwr.por || !s.dev.hs.counting then .nop
    else if s.carried then
      modHs fun h =>
        let f := h.restFrac + s.fld F.TB_REST_RATIO_FRAC
        { h with now := h.now + BitVec.ofNat 64 (s.fld F.TB_REST_RATIO_INT + f / 256), restFrac := f % 256 }
    else workTick

end Sys2Proof.Machine
end

