-- ==== Sys2Proof/Machine/PowerOps.lean ====
section
/-!
DEFINITION. Sys2Proof/Machine/PowerOps.lean: the commands of power, clocks and resets (R550 to R585) and of the ledger and
the catch log (R587 to R614), but for REST entry and exit, which Machine/RestOps.lean holds.
-/
namespace Sys2Proof.Machine

/-! ## Power-on, supplies and cold resets (R569 to R573, R656) -/

/-- R570: the straps are sampled (R36, R313, R486, R520), the enables rise and POWER_ON is logged; the device is
starting. `xtal` says whether the crystal of the REST clock runs. -/
def powerOnRelease (straps : Nat) (xtal : Bool) : Prog :=
  look fun s => when (s.dev.pwr.por && s.dev.pwr.pins.pwrOk) (all [
    modPwr fun w => { w with por := false },
    setWord F.GEN_STRAPS_TBFSEL.off (straps % 2 ^ 7),
    setPins fun p => { p with coreEn := true, storeEn := true, farEn := true },
    setUnit 40 1,
    setF F.TB_STATUS_REF25 (bitsOf straps 0 1), setB F.TB_STATUS_XTAL (xtal && bitsOf straps 1 1 == 1),
    setF F.IMG_STATUS_BOOTSEL (bitsOf straps 2 2), setF F.MB_STATUS_ADDR (0x58 + bitsOf straps 4 2),
    setF F.QSPI_CLK_QDIV (if bitsOf straps 6 1 = 1 then 20 else 40),
    logC 0x0001 0 127 [straps % 2 ^ 7],
    when (!s.dev.pwr.pins.coldN) (all [coldReset 1, modPwr fun w => { w with heldCold := true }])])

def execPowerOnResetRelease (straps : Nat) (xtal : Bool) (s : State) : Host.Outcome State Fault Refusal :=
  done (powerOnRelease straps xtal) s

/-- R573: VDD_REST fell below its threshold. -/
def execPowerOnReset (s : State) : Host.Outcome State Fault Refusal := done powerOnReset s

/-- A hold of the cold reset has ended: with no other hold left the device restarts. -/
def restartIfFree : Prog := look fun s => when (!s.dev.pwr.por && !s.heldReset) coldRestart

/-- R570, R572: PWR_OK rises; a hold after a supply loss ends. -/
def execPwrOkRise (s : State) : Host.Outcome State Fault Refusal :=
  done (all [setPins fun p => { p with pwrOk := true },
    look fun s => when s.dev.pwr.heldSupply (all [modPwr fun w => { w with heldSupply := false }, restartIfFree])]) s

def lowerEnables : Prog := setPins fun p => { p with coreEn := false, storeEn := false, farEn := false, storeRet := false }

/-- R572: the switched rails or PWR_OK fell while the rest domain stays powered. -/
def execSupplyLost (s : State) : Host.Outcome State Fault Refusal :=
  done (all [setPins fun p => { p with pwrOk := false },
    when (!s.dev.pwr.por) (all [logC 0xF002 3 127 [], coldReset 5, lowerEnables,
      modPwr fun w => { w with heldSupply := true },
      when s.dev.pwr.heldTrip (setF F.PCK_STATUS_DEV 5)])]) s

/-- R571: the rails are late; logged once. -/
def execRailSlow (s : State) : Host.Outcome State Fault Refusal :=
  done (when (!s.dev.pwr.por && !s.heldReset && (s.devState == 0 || s.devState == 4) && !s.dev.pwr.railSlow)
    (all [modPwr fun w => { w with railSlow := true }, logC 0xD006 1 127 []])) s

/-- COLD_N is taken as low (R573): the cold reset is held. A tripped device stays tripped. -/
def holdCold : Prog :=
  look fun s => all [
    setPins fun p => { p with coldN := false },
    when (!s.dev.pwr.por) (all [
      modPwr fun w => { w with heldCold := true },
      when (!s.dev.pwr.heldTrip && !s.dev.pwr.heldSupply) (all [
        coldReset 1,
        when (s.devState == 2 || s.devState == 3 || s.devState == 4) (setF F.PCK_STATUS_WAKESRC 5)])])]

/-- R573, R643: COLD_N low for `ns` nanoseconds or more: from 100 on it resets, below 20 it is filtered; in between the
spec leaves open whether it does. -/
def execColdNAssert (ns : Nat) (s : State) : Host.Outcome State Fault Refusal :=
  done (if ns < 20 then .nop else if 100 ≤ ns then holdCold else drawFree 1 fun b => when (b == 1) holdCold) s

/-- R573, R568: COLD_N is released; a trip ends with it once the die is below 100 °C. -/
def execColdNRelease (s : State) : Host.Outcome State Fault Refusal :=
  done (all [setPins fun p => { p with coldN := true },
    when s.dev.pwr.heldCold (all [
      modPwr fun w => { w with heldCold := false, heldTrip := w.heldTrip && !decide (s.temp16 < 1600) },
      when (s.dev.pwr.heldTrip && decide (s.temp16 < 1600)) (setF F.PCK_STATUS_DEV 0), restartIfFree])]) s

/-! ## Thermal (R566 to R568) -/

/-- A reading of the hottest sensor, in 1/16 °C (R566). -/
def setTemp (temp sensor : Nat) : Prog := all [setF F.PCK_TEMP_TEMP temp, setF F.PCK_TEMP_SENSOR sensor]

/-- R568: 125 °C is 2,000 sixteenths. -/
def execThermTrip (temp sensor : Nat) (s : State) : Host.Outcome State Fault Refusal :=
  done (when (!s.dev.pwr.por && !s.inRest && 2000 ≤ signedOf 16 temp) (all [
    setTemp temp sensor,
    when (!s.dev.pwr.heldTrip) (all [
      logC 0xF001 3 127 [], endAllRunning, coldReset 4, lowerEnables,
      modPwr fun w => { w with heldTrip := true }, setF F.PCK_STATUS_DEV 5])])) s

/-- The partitions that the thermal control asks to be derated. -/
def State.autoMask (s : State) : Nat := Sparse.get zeroNat s.dev.pwr.derateBy 7

/-- The enabled partitions of AUTO_MASK that are not derated by the device yet. -/
def State.newlyHot (s : State) : List Nat :=
  partIds.filter fun p => s.partOn p && inMask (s.fld F.PCK_THERM_CTL_AUTO_MASK) p && !inMask s.autoMask p

/-- R567: the hottest sensor exceeds TDERATE: the device orders the derate of its enabled AUTO_MASK partitions. -/
def execThermDerate (temp sensor : Nat) (s : State) : Host.Outcome State Fault Refusal :=
  done (when (!s.dev.pwr.por && !s.inRest) (all [setTemp temp sensor,
    look fun s => when (s.ready && decide (16 * (s.fld F.PCK_THERM_CTL_TDERATE : Int) < s.temp16) && !s.newlyHot.isEmpty) (all [
      logC 0xD004 1 127 [],
      orderCycle [{ src := .thermal, kind := kDerate, unit := 0, arg := s.autoMask + maskOf s.newlyHot }]])])) s

/-- R567: the temperature falls below TDERATE − HYST: the device lifts its own derates. -/
def execThermClear (temp sensor : Nat) (s : State) : Host.Outcome State Fault Refusal :=
  done (when (!s.dev.pwr.por && !s.inRest) (all [setTemp temp sensor,
    look fun s => when (s.ready && decide (s.temp16 < s.derateOff16) && s.autoMask != 0) (all [
      logC 0xD005 0 127 [], orderCycle [{ src := .thermal, kind := kDerate, unit := 0, arg := 0 }]])])) s

/-- R41, R561: the crystal has failed; RESTCLK runs from the internal RC. -/
def execCrystalFail (s : State) : Host.Outcome State Fault Refusal :=
  done (when (!s.dev.pwr.por) (all [setB F.TB_STATUS_XTAL false, usbCheck])) s

/-! ## Orders (R590 to R596) -/

def execOrderPower (src : OSrc) (unit arg : Nat) (rivals : List Order) (s : State) : Host.Outcome State Fault Refusal :=
  done (orderCycle ({ src, kind := kPower, unit, arg } :: rivals)) s

def execOrderRest (src : OSrc) (rivals : List Order) (s : State) : Host.Outcome State Fault Refusal :=
  done (orderCycle ({ src, kind := kRest, unit := 0, arg := 0 } :: rivals)) s

/-- The WAKESRC code of a wake source (R586). -/
def wakeCode : WakeSrc → Nat
  | .mb => 1 | .spi => 2 | .envelope => 3 | .timer => 4

def wakeOrder (w : WakeSrc) : Order := { src := .wake, kind := kWake, unit := 0, arg := wakeCode w }

def execOrderWake (w : WakeSrc) (rivals : List Order) (s : State) : Host.Outcome State Fault Refusal :=
  done (orderCycle (wakeOrder w :: rivals)) s

def execOrderTileclk (src : OSrc) (arg : Nat) (rivals : List Order) (s : State) : Host.Outcome State Fault Refusal :=
  done (orderCycle ({ src, kind := kTileclk, unit := 0, arg } :: rivals)) s

def execOrderDerate (src : OSrc) (arg : Nat) (rivals : List Order) (s : State) : Host.Outcome State Fault Refusal :=
  done (orderCycle ({ src, kind := kDerate, unit := 0, arg } :: rivals)) s

def execOrderResetCold (src : OSrc) (rivals : List Order) (s : State) : Host.Outcome State Fault Refusal :=
  done (orderCycle ({ src, kind := kCold, unit := 0, arg := 0 } :: rivals)) s

def execOrderResetPart (src : OSrc) (arg : Nat) (rivals : List Order) (s : State) : Host.Outcome State Fault Refusal :=
  done (orderCycle ({ src, kind := kPart, unit := 0, arg } :: rivals)) s

def execOrderEnable (src : OSrc) (arg : Nat) (rivals : List Order) (s : State) : Host.Outcome State Fault Refusal :=
  done (orderCycle ({ src, kind := kEnable, unit := 0, arg } :: rivals)) s

def execOrderGroup (src : OSrc) (unit arg : Nat) (rivals : List Order) (s : State) : Host.Outcome State Fault Refusal :=
  done (orderCycle ({ src, kind := kGroup, unit, arg } :: rivals)) s

def execOrderPort (src : OSrc) (unit arg : Nat) (rivals : List Order) (s : State) : Host.Outcome State Fault Refusal :=
  done (orderCycle ({ src, kind := kPort, unit, arg } :: rivals)) s

/-- R557: PCK_REST_TIMER seconds after the REST order was accepted. -/
def execRestTimer (s : State) : Host.Outcome State Fault Refusal :=
  done (let n := s.fld F.PCK_REST_TIMER_SECONDS
    when ((s.inRest || s.devState == 2) && n != 0 && s.reached (s.dev.pwr.restAt + n * 250000000))
      (orderCycle [wakeOrder .timer])) s

/-- R563: an accepted tile clock takes effect for partition `part` at its turn boundary, or with `part` 8 for every
bench that no enabled partition holds. -/
def execTileclkApply (part : Nat) (s : State) : Host.Outcome State Fault Refusal :=
  done (match s.dev.pwr.tileClk with
    | none => .nop
    | some (mhz, from_, owe) =>
      let due := if part = 8 then true else s.atBoundary part
      when (inMask owe part && s.reached from_ && due && s.ready) (
        let rest := maskOf ((List.range 9).filter fun b => inMask owe b && b != part && (b == 8 || s.partOn b))
        all [setF F.PCK_TILE_MHZ_NORMAL mhz, logC 0xD003 0 127 [],
          modPwr fun w => { w with tileClk := if rest = 0 then none else some (mhz, from_, rest) }, setVreq])) s

/-! ## The watchdog (R575, R576, R585) -/

/-- Whether a path may kick under KICKSRC. -/
def kickAllowed (src : Nat) : Path → Bool
  | .pf => src != 1
  | .mb => src != 0
  | .vf _ => false
  | _ => src == 3

def writeKick (p : Path) : Prog :=
  look fun s => when (kickAllowed (s.fld F.PCK_WDOG_CTL_KICKSRC) p)
    (all [setF F.PCK_WDOG_STAT_STAGE 0, modPwr fun w => { w with wdogAt := s.now }])

def execWdogKick (p : Path) (_v : Word) (s : State) : Host.Outcome State Fault Refusal :=
  done (writing p F.PCK_WDOG_KICK.off (writeKick p)) s

/-- The action of a stage (R575): codes 0, 1 and 4 to 7 only log. -/
def wdogAct (act pmask : Nat) : Prog :=
  if act = 2 then orderCycle [{ src := .watchdog, kind := kPart, unit := 0, arg := pmask }]
  else if act = 3 then orderCycle [{ src := .watchdog, kind := kCold, unit := 0, arg := 0 }]
  else .nop

def execWdogStage (s : State) : Host.Outcome State Fault Refusal :=
  done (let st := s.fld F.PCK_WDOG_STAT_STAGE
    let act := if st = 0 then s.fld F.PCK_WDOG_CTL_ACT1 else if st = 1 then s.fld F.PCK_WDOG_CTL_ACT2
      else s.fld F.PCK_WDOG_CTL_ACT3
    when (!s.dev.pwr.por && !s.heldReset && s.bit F.PCK_WDOG_CTL_EN && decide (st < 3) &&
        s.reached (s.dev.pwr.wdogAt + 250000 * s.fld F.PCK_WDOG_CTL_TIMEOUT_MS))
      (all [setF F.PCK_WDOG_STAT_STAGE (st + 1), incF F.PCK_WDOG_STAT_EXPIRIES, modPwr fun w => { w with wdogAt := s.now },
        logC 0xD007 1 127 [st + 1, act], wdogAct act (s.fld F.PCK_WDOG_CTL_PMASK)])) s

/-- R576: a running tile of a bench in SPIN has issued no bundle for HANG_US microseconds. -/
def execBenchHang (t : Nat) (s : State) : Host.Outcome State Fault Refusal :=
  done (let x := s.tile t
    let us := s.fld F.PCK_HANG_CTL_HANG_US
    when (s.ready && us != 0 && x.run == 1 && s.unitState (t / 16) == bSpin && s.reached (x.issuedAt + 250 * us))
      (all [logC 0xD008 2 (t / 16) [], fenceBenches [t / 16] 0xD008])) s

/-! ## Disagreement (R597, R598, R611) -/

/-- Whether a unit moves under an accepted order, so that it is not compared. -/
def State.moving (s : State) (u : Nat) : Bool :=
  (s.dev.pwr.waking.any (·.1 == u)) || (s.dev.pwr.dwelling.any (·.1 == u))

/-- One report of a unit against its line. -/
def compareUnit (r : Nat × Nat) : Prog :=
  look fun s =>
    if 116 < r.1 || s.moving r.1 then .nop
    else if s.unitState r.1 = r.2 % 16 then
      modDev fun d => { d with ledg := { d.ledg with mismatch := d.ledg.mismatch.filter (·.1 != r.1) } }
    else all [logC 0xE003 1 r.1 [], incF F.LEDG_MISMATCHES,
      modDev fun d => { d with ledg := { d.ledg with
        reports := (r.1, r.2 % 16) :: d.ledg.reports.filter (·.1 != r.1),
        mismatch := if d.ledg.mismatch.any (·.1 == r.1) then d.ledg.mismatch else (r.1, s.now) :: d.ledg.mismatch } }]

/-- R597: the units' reports against the ledger's lines; R611: an uncorrectable error in the ledger's own storage. -/
def execLedgerCompare (reports : List (Nat × Nat)) (ecc : Bool) (s : State) : Host.Outcome State Fault Refusal :=
  done (when (!s.dev.pwr.por && !s.heldReset) (all [
    each reports compareUnit, when ecc (all [logC 0xF003 3 127 [], coldResetNow 2])])) s

/-- A unit that is never fenced is reset in place by its own block, and its line takes the state that the block reports (R598). -/
def takeReport (u : Nat) : Prog :=
  look fun s => all [
    when (u == 114) (all [setF F.MB_MST_STATUS_BUSY 0, modSvc fun v => { v with holding := false, startWaits := false }]),
    (match s.dev.ledg.reports.find? fun r => r.1 == u with
      | some r => setUnit u r.2
      | none => .nop), bumpEpoch u]

/-- Fence a unit that the ledger cannot drive (R597, R598). -/
def fenceStuck (u : Nat) : Prog :=
  if u < 32 then fenceBenches [u] 0xE004
  else if u < 40 then partReset (u - 32) true
  else if u = 40 || 114 ≤ u then takeReport u
  else fenceAny u

def execUnitStuck (u : Nat) (s : State) : Host.Outcome State Fault Refusal :=
  done (when (s.ready && (s.dev.ledg.mismatch.any fun m => m.1 == u && s.reached (m.2 + 250000))) (all [
    modDev fun d => { d with ledg := { d.ledg with mismatch := d.ledg.mismatch.filter (·.1 != u) } },
    logC 0xE004 2 u [], fenceStuck u])) s

/-! ## Read positions (R602, R605, R610) -/

/-- How many records had been logged before the present cycle: those of the present tick belong to it (R610). -/
def State.loggedBefore (s : State) : Nat :=
  s.dev.log.count - (s.dev.log.recs.filter fun r => r.tick == s.dev.hs.now).length

/-- The position that a write of `x` to a read position takes: clamped into the records that the log held before the write's cycle
(R602, R610). -/
def State.clampPos (s : State) (x : Word) : Nat :=
  let wpos := BitVec.ofNat 32 s.loggedBefore
  let keep := min 1024 s.loggedBefore
  let d := (wpos - x).toNat
  if d ≤ keep then x.toNat else if 2 ^ 31 ≤ d then wpos.toNat else (wpos - BitVec.ofNat 32 keep).toNat

/-- Whether an unread record of the physical function is at or above MSI_MIN. -/
def State.unreadAlarm (s : State) : Bool :=
  (s.dev.log.recs.drop (s.dev.log.recs.length - min s.dev.log.recs.length (s.unread 0))).any
    fun r => s.fld F.CATCH_CTL_MSI_MIN ≤ r.sev

/-- The path that moves position `k` by writing it. -/
def ownsRpos (k : Nat) : Path → Bool
  | .pf => k == 0
  | .jtag => k == 0
  | .spi => k == 3
  | _ => false

def writeRpos (p : Path) (k : Nat) (v : Word) : Prog :=
  if ownsRpos k p then
    all [look fun s => setF (F.CATCH_RPOS k) (s.clampPos v),
      when (k == 0) (all [modLog fun l => { l with armed := true },
        look fun s => when (s.unreadAlarm && s.linkUp && !s.inRest)
          (all [modLog fun l => { l with armed := false }, sendMsix 0 0])])]
  else all [noteDropped, badAccess p]

def execCatchRposWrite (p : Path) (k : Nat) (v : Word) (s : State) : Host.Outcome State Fault Refusal :=
  done (when (k < 4) (writing p (F.CATCH_RPOS k).off (writeRpos p k v))) s

end Sys2Proof.Machine
end

