-- ==== Sys2Proof/Machine/KvOps.lean ====
section
/-!
DEFINITION. Sys2Proof/Machine/KvOps.lean: attention and the key-value cache: walks, the preparation of chunks, work lists, merge
banks, and the page operations of host software (R249 to R277, R59); and the start of far-memory windows (R270, R295).
-/
namespace Sys2Proof.Machine

/-! ## Lists and records -/

/-- The catch details of this chapter: stream, page or list offset, turn (R277). -/
def kvWords (slot at_ turn : Nat) : List Nat := [slot, at_ % 2 ^ 32, turn % 2 ^ 32]

/-- Whether an entry of a list names a page outside every pool. -/
def State.entryBad (s : State) (l i : Nat) : Bool := s.listPage l i != 0 && (s.poolOf (s.listPage l i)).isNone

/-- The blocks of 16 positions that hold a position from `len` on, `n` positions long. -/
def blocksFrom (len n : Nat) : List Nat :=
  if n = 0 then [] else (List.range ((len + n - 1) / 16 + 1 - len / 16)).map (· + len / 16)

/-- A malformed list (R255 step 3). A dense list that its tail would overfill is the matter of step 4. -/
def State.listBad (s : State) (l tailMax : Nat) : Bool :=
  let len := s.listLen l
  s.listMode l == 0 || s.listMode l == 3 || (s.attendedBlocks l len).any (fun b => s.listCap l ≤ s.entryOf l b) ||
  (s.listMode l == 2 && (blocksFrom len tailMax).any fun b => s.listCap l ≤ s.entryOf l b) ||
  (List.range (s.listCap l)).any fun i => s.entryBad l i

def walkCopy (d : List Nat) : Bool := bitsOf (walkerWord d 0) 8 1 == 1
def walkZeroAbsent (d : List Nat) : Bool := bitsOf (walkerWord d 0) 9 1 == 1
def walkMaskM (d : List Nat) : Nat := bitsOf (walkerWord d 0) 10 2
def walkTail (d : List Nat) : Bool := bitsOf (walkerWord d 0) 12 1 == 1
def walkTailMax (d : List Nat) : Nat := bitsOf (walkerWord d 1) 0 13
def walkQmax (d : List Nat) : Nat := bitsOf (walkerWord d 1) 16 9
def walkSlot0 (d : List Nat) : Nat := bitsOf (walkerWord d 4) 0 12
def walkStride (d : List Nat) : Nat := bitsOf (walkerWord d 3) 0 20

/-- An engine of the KV block reads ranges for a slot of a partition: a range that the partition may not read is a carve violation, a line
that cannot be read an ECC failure (R208, R221); `fail` has the outcome that the chunk served comes to. -/
def engineRead (p slot : Nat) (c : Codes) (rs : List (Nat × Nat)) (ok : Prog) (fail : Nat → Prog) : Prog :=
  look fun s => match rs.find? fun r => !s.mayRead p r with
    | some r => all [walkerViolation p r.1 slot, fail stException]
    | none => reading p c rs (some slot) ok (fail stEcc)

/-- A serving partition without a window reaches far memory (R295). -/
def noWindow (p slot a : Nat) : Prog := logC 0x8005 2 (32 + p) (memDetail a 0xFF 0xFF (some slot)) (some slot)

/-! ## WALK (R251) -/

/-- The walk for due turn `t` fails. It serves the chunk gathered in that turn, which ends; where none is gathered yet, the chunk ends at
its preparation point (R208, R221; log entry 131). -/
def walkFails (slot t status : Nat) : Prog :=
  look fun s => all [modSlot slot fun x => { x with walkLeft := [] },
    match (s.slot slot).chunks.findIdx? fun c => c.pos.isSome && c.gatherTurn == t with
    | some i => endChunk slot i status
    | none => modSlot slot fun x => { x with walkFail := some (t, status) }]

/-- The chunk of due turn `t` is not taken, and ends MISSED (R251). -/
def walkSkips (slot t : Nat) (rec : Prog) : Prog :=
  all [incF F.KV_SKIPS, rec, modSlot slot fun x => { x with skip := some t, walkLeft := [] }]

/-- Stage the pages of the blocks that are left; `k` pages are staged already. A copy from far memory waits for a window (R270). -/
def stagePages (c : Codes) (p t slot l : Nat) (d : List Nat) : List Nat → Nat → Prog
  | [], _ => modSlot slot fun x => { x with walkLeft := [] }
  | b :: bs, k =>
    look fun s =>
      let page := s.listPage l (s.entryOf l b)
      match (if page = 0 || s.listCap l ≤ s.entryOf l b then none else s.poolOf page) with
      | none => stagePages c p t slot l d bs k
      | some pool =>
        let size := s.pageSize pool
        let at_ := s.pageAddr pool page
        let cp := storeAt + walkerWord d 7 + (slot - walkSlot0 d) * walkPmax d * size + k * size
        let stage := fun (a : Nat) => all [
          pinPage page, modSlot slot fun x => { x with pins := x.pins ++ [page] },
          putN (recordAt d slot + 0x40 + 8 * k) 8 (a + 2 ^ 40 * (b % 2 ^ 24)),
          look fun s => put32 (recordAt d slot + 0x18) (setBits (s.read32 (recordAt d slot + 0x18)) 0 14 (k + 1)),
          stagePages c p t slot l d bs (k + 1)]
        if walkPmax d ≤ k then modSlot slot fun x => { x with walkLeft := [] }
        else if s.pagePin page = 255 then walkSkips slot t (logC 0x7004 1 (32 + p) (kvWords slot page t) (some slot))
        else if !(walkCopy d && s.poolFar pool) then stage at_
        else match s.farWay p with
          | .fenced => walkFails slot t stFenced
          | .none => all [noWindow p slot at_, walkFails slot t stException]
          | .wait => all [windowWait p (some slot), modSlot slot fun x => { x with walkLeft := b :: bs }]
          | .go =>
            if !s.mayWrite p (cp, cp + size) then all [walkerViolation p cp slot, walkFails slot t stException]
            else engineRead p slot c [(at_, at_ + size)]
              (all [walkerWrite p slot cp (s.mem.reads at_ size), stage cp]) (walkFails slot t)

/-- The record of a slot is in use by the binding of the chunk that was gathered in turn `t`, and no walk has been made for it: the WALK
of that turn stages it (R251, R255). -/
def SlotDyn.boundOnly (x : SlotDyn) (t : Nat) : Bool := x.walker.isNone && x.walkTurn == t && x.chunks.any fun c => c.bound

/-- The walk of one member by walker `w` for due turn `t`. A record that only its chunk's binding holds is staged now; VOID and READY
are cleared by it (log entry 131). -/
def walkMember (c : Codes) (p t w slot : Nat) (d : List Nat) : Prog :=
  look fun s =>
    let r := recordAt d slot
    let l := s.slotPlist slot
    if (s.heldDesc slot).isSome && !(s.slot slot).boundOnly t then
      walkSkips slot t (logLim (.turn p) (32 + p) 0x7003 0 (32 + p) (kvWords slot l t) (some slot))
    else
      let walk := all [
        incF F.KV_WALKS,
        modSlot slot fun x => { x with walkDesc := some d, walker := some w, walkTurn := t, pins := [] },
        put32 r (slot + 2 ^ 16), putN (r + 8) 8 (if l = 0 then 0 else s.listLen l),
        put32 (r + 0x18) (setBits (s.read32 (r + 0x18)) 0 14 0),
        when (l != 0) (stagePages c p t slot l d (s.attendedBlocks l (s.listLen l)) 0)]
      if l = 0 then walk else engineRead p slot c [s.listRange l] walk (walkFails slot t)

/-- A WALK entry: the members of the due turn are dealt to the partition's walkers that are not fenced. -/
def walkEntry (c : Codes) (p : Nat) (e : TtEntry) : Prog :=
  look fun s =>
    let t := s.turnNo p + bitsOf e.w3 0 2
    let ws := (membersOf (s.plane p).walkMask 16).filter fun w => !inMask (s.fld F.KV_WALK_FENCE_MASK) w
    match (s.plane p).group e.group, (s.plane p).walkers[e.ref]? with
    | some g, some d => when (!ws.isEmpty) (each ((sortNat (s.members p g t)).zipIdx) fun m =>
        walkMember c p t (ws.getD (m.2 % ws.length) 0) m.1 d)
    | _, _ => .nop

def execWalk (p : Nat) (r : Reading) (s : State) : Host.Outcome State Fault Refusal :=
  done (onEntry p r.at_ false 2 (walkEntry r.codes p)) s

/-- The walks of a partition that waited for its window go on (R270, R295). -/
def resumeWalks (c : Codes) (p : Nat) : Prog :=
  look fun s => each (s.liveSlots.filter fun n => s.slotPart n == p && !(s.slot n).walkLeft.isEmpty) fun n =>
    look fun s => match s.heldDesc n with
      | some d => stagePages c p (s.slot n).walkTurn n (s.slotPlist n) d (s.slot n).walkLeft (s.slot n).pins.length
      | none => .nop

/-- A window of a partition opens: what waited for it goes on (R270, R295, R304). -/
def execFarWindowOpen (p : Nat) (r : Reading) (s : State) : Host.Outcome State Fault Refusal :=
  done (when (s.ready && s.windowStarts p r.at_) (all [startWaiting p, resumeWalks r.codes p])) s

/-! ## Preparation (R255, R256, R274) -/

/-- The chunk of a slot that waits at its preparation point: gathered, not prepared, its walk not skipped, and no earlier chunk is
launched. -/
def State.prepIdx (s : State) (slot : Nat) : Option Nat :=
  ((s.slot slot).chunks.findIdx? fun c => c.pos.isSome && !c.prepared && (s.slot slot).skip != some c.gatherTurn).filter fun i =>
    !((s.slot slot).chunks.take i).any fun c => c.launched

/-- Step 1: bind the record to the chunk at place `i`. -/
def bindRecord (slot i : Nat) (d : List Nat) (c : Chunk) : Prog :=
  look fun s =>
    let r := recordAt d slot
    all [
      when (s.heldDesc slot).isNone (all [put32 r (slot + 2 ^ 16), putN (r + 8) 8 0,
        put32 (r + 0x18) (setBits (s.read32 (r + 0x18)) 0 14 0),
        modSlot slot fun x => { x with walkDesc := some d, walker := none, walkTurn := c.gatherTurn, pins := [] }]),
      modSlot slot fun x => { x with chunks := modNth (fun c => { c with bound := true }) x.chunks i },
      put32 (r + 4) c.seq]

/-- Step 2, the record's part: its pins are released, its staging is void. -/
def voidRecord (slot : Nat) (d : List Nat) : Prog :=
  look fun s => all [each (s.slot slot).pins unpinPage, modSlot slot fun x => { x with pins := [], walkLeft := [] },
    put32 (recordAt d slot) (setBits (s.read32 (recordAt d slot)) 17 1 1), putN (recordAt d slot + 8) 8 0]

/-- What tail preparation does with one block (R256): nothing, a page for a block that has none, a page in place of a shared
one, or a copy of a shared one. -/
inductive TailStep where
  | keep
  | fresh
  | replace (p : Nat)
  | copy (p : Nat)
  deriving DecidableEq, Repr

def State.tailStep (s : State) (l len b : Nat) : TailStep :=
  let p := s.listPage l (s.entryOf l b)
  if len ≤ 16 * b then (if p = 0 then .fresh else if s.pageRef p = 1 then .keep else .replace p)
  else if 1 < s.pageRef p then .copy p else .keep

/-- Whether the preparation of a block reaches far memory (R274). -/
def State.tailFar (s : State) (l len b : Nat) : Bool :=
  match s.tailStep l len b with
  | .keep => false
  | .copy p => s.poolFar (s.listPool l) || (match s.poolOf p with
    | some k => s.poolFar k
    | none => false)
  | _ => s.poolFar (s.listPool l)

/-- Prepare the tail blocks that are left; an allocation that finds no page goes on with `empty`, a copy that fails with `fail`, the end
with `rest`. -/
def prepareTail (c : Codes) (p slot l len : Nat) (empty rest : Prog) (fail : Nat → Prog) : List Nat → Prog
  | [] => rest
  | b :: bs =>
    look fun s =>
      let k := s.listPool l
      let e := s.entryOf l b
      let alloc := fun (f : Nat → Prog) => match s.nextPage k with
        | none => empty
        | some q => all [f q, prepareTail c p slot l len empty rest fail bs]
      match s.tailStep l len b with
      | .keep => prepareTail c p slot l len empty rest fail bs
      | .fresh => alloc fun q => all [takePage k q, setEntryPage l e q]
      | .replace g => alloc fun q => all [releasePage g, takePage k q, setEntryPage l e q]
      | .copy g => match s.nextPage k, s.poolOf g with
        | some q, some kg =>
          let src := (s.pageAddr kg g, s.pageAddr kg g + s.pageSize kg)
          let dst := s.pageAddr k q
          if !s.mayWrite p (dst, dst + s.pageSize kg) then all [walkerViolation p dst slot, fail stException]
          else engineRead p slot c [src] (all [takePage k q, incF F.KV_COW,
            walkerWrite p slot dst (s.mem.reads src.1 (s.pageSize kg)), releasePage g, setEntryPage l e q,
            prepareTail c p slot l len empty rest fail bs]) fail
        | _, _ => empty

/-- What steps 3 to 5 of R255 find in a list: it is malformed, the dense limit, an attended page with POISON, or nothing. -/
inductive ListVerdict where
  | malformed
  | limit
  | poison (page : Nat)
  | ok
  deriving DecidableEq, Repr

def State.listVerdict (s : State) (l tm : Nat) : ListVerdict :=
  let len := s.listLen l
  if s.listBad l tm then .malformed
  else if s.listMode l = 1 && (16 * s.listCap l < len + tm || 131072 < len + tm) then .limit
  else match ((s.attendedBlocks l len).map fun b => s.listPage l (s.entryOf l b)).find? fun g => g != 0 && s.pagePoison g with
    | some g => .poison g
    | none => .ok

/-- TAILMAX of a group that has a walker descriptor, and the blocks of its tail. -/
def tailMaxOf (d : Option (List Nat)) : Nat :=
  match d with
  | some d => walkTailMax d
  | none => 0
def tailBlocks (d : Option (List Nat)) (len : Nat) : List Nat :=
  match d with
  | some d => if walkTail d then blocksFrom len (walkTailMax d) else []
  | none => []

/-- Whether the tail preparation of a list reaches far memory. -/
def State.tailsFar (s : State) (l : Nat) (d : Option (List Nat)) : Bool :=
  (tailBlocks d (s.listLen l)).any (s.tailFar l (s.listLen l))

/-- Step 7: preparation is done. -/
def prepDone (slot i len : Nat) (d : Option (List Nat)) : Prog :=
  all [modSlot slot fun x => { x with chunks := modNth (fun c => { c with prepared := true, tailWait := false }) x.chunks i },
    match d with
    | some d => putN (recordAt d slot + 0x10) 8 len
    | none => .nop]

/-- Steps 6 and 7. What reaches far memory for a serving partition waits for a window; the step goes on when the chunk is brought to its
preparation point again within one (R270, R295; log entry 131). -/
def tailPrepare (c : Codes) (slot i l : Nat) (d : Option (List Nat)) : Prog :=
  look fun s =>
    let k := (s.slot slot).chunks.getD i {}
    let p := k.part
    let len := s.listLen l
    let blocks := tailBlocks d len
    let work :=
      if blocks.all fun b => s.tailStep l len b == .keep then prepDone slot i len d
      else if !s.mayWrite p (s.listRange l) then all [walkerViolation p (storeAt + l) slot, endChunk slot i stException]
      else prepareTail c p slot l len
        (all [endChunk slot i stMissed, logC 0x7001 1 (32 + p) (kvWords slot l k.gatherTurn) (some slot)])
        (prepDone slot i len d) (endChunk slot i) blocks
    if !s.tailsFar l d then work
    else match s.farWay p with
      | .fenced => endChunk slot i stFenced
      | .none => all [noWindow p slot farAt, endChunk slot i stException]
      | .wait => when (!k.tailWait) (all [windowWait p (some slot),
          modSlot slot fun x => { x with chunks := modNth (fun c => { c with tailWait := true }) x.chunks i }])
      | .go => work

/-- Steps 3 to 7 of R255 for the chunk at place `i`; a walk that has failed for its due turn ends it first. -/
def checkAndPrepare (c : Codes) (slot i l : Nat) (d : Option (List Nat)) : Prog :=
  look fun s =>
    let k := (s.slot slot).chunks.getD i {}
    let p := k.part
    let w := kvWords slot l k.gatherTurn
    match (s.slot slot).walkFail.filter fun f => f.1 == k.gatherTurn with
    | some f => endChunk slot i f.2
    | none => match s.listVerdict l (tailMaxOf d) with
      | .malformed => all [endChunk slot i stException, logC 0x7006 2 (32 + p) w (some slot)]
      | .limit => all [endChunk slot i stLimit, logLim (.turn p) (32 + p) 0x7002 0 (32 + p) w (some slot)]
      | .poison g => all [endChunk slot i stEcc, modSlot slot fun x => { x with newUtt := true },
          logC 0x7005 2 (32 + p) (kvWords slot g k.gatherTurn) (some slot)]
      | .ok => tailPrepare c slot i l d

/-- Steps 2 to 7 for a slot with a list. A tail that would reach far memory while unit 42 is fenced ends the chunk before the reset, so
that the pages of its stream are unchanged (R274). -/
def prepareList (c : Codes) (slot i l : Nat) (reset : Bool) (d : Option (List Nat)) : Prog :=
  look fun s =>
    let p := ((s.slot slot).chunks.getD i {}).part
    let after := if reset then (resetList l).run s else s
    if s.fenced 42 && after.listVerdict l (tailMaxOf d) == .ok && after.tailsFar l d then endChunk slot i stFenced
    else if !reset then checkAndPrepare c slot i l d
    else if !s.mayWrite p (s.listRange l) then all [walkerViolation p (storeAt + l) slot, endChunk slot i stException]
    else all [resetList l, (match d with
      | some d => voidRecord slot d
      | none => .nop), checkAndPrepare c slot i l d]

/-- R255: the chunk of a slot reaches its preparation point. -/
def chunkPrepare (slot : Nat) (c : Codes) : Prog :=
  look fun s => match s.prepIdx slot with
    | none => .nop
    | some i =>
      let k := (s.slot slot).chunks.getD i {}
      let d := s.descFor k.part false k.group slot
      let l := s.slotPlist slot
      let reset := hasFlag k.flags flagNewUtt || (s.slot slot).newUtt
      if k.tailWait then tailPrepare c slot i l d
      else all [
        (match d with
          | some d => bindRecord slot i d k
          | none => .nop),
        (if l = 0 then prepDone slot i 0 d
        else engineRead k.part slot c (s.listRange l :: (if reset then s.tplRange l else []))
          (prepareList c slot i l reset d) (endChunk slot i))]

def execChunkPrepare (r : Reading) (s : State) : Host.Outcome State Fault Refusal :=
  done (when s.ready (chunkPrepare r.at_ r.codes)) s

/-! ## Work lists (R257 to R259) -/

/-- The staged blocks of a record, page by page: none while its staging is void. The block number is held modulo 2^24; the
block is the last one staged that has it, or a global one. -/
def State.stagedBlocks (s : State) (d : List Nat) (slot l : Nat) : List Nat :=
  let r := recordAt d slot
  let n := if bitsOf (s.read32 r) 17 1 = 1 then 0 else bitsOf (s.read32 (r + 0x18)) 0 14
  let top := (s.readN (r + 8) 8 - 1) / 16
  (List.range n).map fun k =>
    let b := s.readN (r + 0x40 + 8 * k + 5) 3
    if s.listMode l = 2 && b < s.listG l then b else top - (top + 2 ^ 24 - b) % 2 ^ 24

/-- Whether position x is attended by a query at position q (R246). -/
def State.attends (s : State) (l q x : Nat) : Bool :=
  x ≤ q && (s.listMode l != 2 || x < s.listGlob l || q + 1 ≤ x + s.listWin l)

/-- Whether the mask of a chunk lets row r see position x (R258); `k0` is the position of column 0 and `below` what a position
before it reads. -/
def State.maskBit (s : State) (d : List Nat) (slot k0 r x : Nat) (below : Bool) : Bool :=
  if walkMaskM d != 1 then true
  else
    let e := s.readN (storeAt + walkerWord d 6 + 8 * (slot - walkSlot0 d)) 8
    let off := e % 2 ^ 32
    let kb := bitsOf e 32 16
    if off = 0 then true
    else if x < k0 then below
    else
      let c := x - k0
      decide (c < 512 * kb) &&
        bitsOf (s.readN (storeAt + off + 4096 * (r / 64 * kb + c / 512) + 64 * (r % 64) + c % 512 / 8) 1) (c % 8) 1 == 1

/-- Whether row r attends no key of split σ of S. -/
def State.rowEmpty (s : State) (d : List Nat) (slot l : Nat) (staged : List Nat) (below : Bool) (r σ S : Nat) : Bool :=
  let rec_ := recordAt d slot
  let q := s.readN (rec_ + 0x10) 8 + r
  let top := s.readN (rec_ + 8) 8
  let k0 := 16 * staged.headD 0
  let lo := σ * staged.length / S
  let hi := (σ + 1) * staged.length / S
  let sees := fun x => s.attends l q x && s.maskBit d slot k0 r x below
  let keys := fun (b : Nat) => (List.range 16).map (16 * b + ·)
  let inPages := ((staged.take hi).drop lo).any fun b => (keys b).any fun x => decide (x < top) && sees x
  let unstaged := σ + 1 == S && (s.attendedBlocks l (q + 1)).any fun b =>
    (keys b).any fun x => !(staged.contains b && decide (x < top)) && sees x
  l == 0 || !(inPages || unstaged)

/-- Write the work list of a chunk whose query rows are `qlen`. -/
def writeWorkList (slot l qlen : Nat) (d : List Nat) (below : Bool) : Prog :=
  look fun s =>
    let r := recordAt d slot
    let S := walkSplits d
    let staged := s.stagedBlocks d slot l
    let n := staged.length
    let rows := List.range qlen
    all [
      look fun s => put32 (r + 0x18) (setBits (s.read32 (r + 0x18)) 16 9 qlen),
      each (List.range S) fun σ =>
        put32 (splitAt d slot σ) (σ * n / S + 65536 * ((σ + 1) * n / S - σ * n / S)),
      (if qlen = 0 then all [incF F.KV_ZERO_ENTRIES,
        when (walkZeroAbsent d) (zeroFill (r + outAreaOff d) (r + walkStride d))]
      else all [
        each (List.range S) fun σ => putN (splitAt d slot σ + 8) 32
          (maskOf (rows.filter fun row => s.rowEmpty d slot l staged below row σ S)),
        addF F.KV_EMPTY_ROWS (rows.filter fun row => (List.range S).all fun σ => s.rowEmpty d slot l staged below row σ S).length]),
      look fun s => put32 (r + 0x1C) (setBits (s.read32 (r + 0x1C)) 0 1 (if qlen = 0 && walkZeroAbsent d then 1 else 0)),
      look fun s => put32 r (setBits (s.read32 r) 18 1 1)]

/-- The chunk of a slot whose work list is due (R259). -/
def State.buildIdx (s : State) (slot : Nat) : Option Nat :=
  (s.slot slot).chunks.findIdx? fun c => c.bound && c.prepared && (s.slot slot).walkLeft.isEmpty &&
    (match s.heldDesc slot with
      | some d => walkStageC d ≤ c.done && !s.recordReady d slot
      | none => false)

/-- What the work list reads: the entry of the length table, the entry of the mask directory, and the mask pages of `qlen` rows. -/
def lenEntry (d : List Nat) (slot : Nat) : List (Nat × Nat) :=
  let a := storeAt + walkerWord d 5 + 4 * (slot - walkSlot0 d)
  if walkerWord d 5 = 0 then [] else [(a, a + 4)]
def maskEntry (d : List Nat) (slot : Nat) : List (Nat × Nat) :=
  let a := storeAt + walkerWord d 6 + 8 * (slot - walkSlot0 d)
  if walkMaskM d = 1 then [(a, a + 8)] else []
def State.maskPages (s : State) (d : List Nat) (slot qlen : Nat) : List (Nat × Nat) :=
  (maskEntry d slot).flatMap fun r =>
    let a := storeAt + s.read32 r.1
    if s.read32 r.1 = 0 then [] else [(a, a + 4096 * bitsOf (s.readN r.1 8) 32 16 * ((qlen + 63) / 64))]

/-- R259: build the work list of a slot's chunk. -/
def workListBuild (slot : Nat) (c : Codes) : Prog :=
  look fun s => match s.buildIdx slot, s.heldDesc slot with
    | some i, some d =>
      let k := (s.slot slot).chunks.getD i {}
      let entry := match lenEntry d slot with
        | [] => 1
        | r :: _ => bitsOf (s.read32 r.1) 0 9
      let qlen := min entry (walkQmax d)
      engineRead k.part slot c (lenEntry d slot ++ maskEntry d slot) (engineRead k.part slot c (s.maskPages d slot qlen) (all [
        when (walkQmax d < entry) (logLim (.turn k.part) (32 + k.part) 0x7008 0 (32 + k.part)
          (kvWords slot (s.slotPlist slot) k.gatherTurn) (some slot)),
        drawFree 1 fun b => writeWorkList slot (s.slotPlist slot) qlen d (b == 1)]) (endChunk slot i)) (endChunk slot i)
    | _, _ => .nop

def execWorkListBuild (r : Reading) (s : State) : Host.Outcome State Fault Refusal :=
  done (when s.ready (workListBuild r.at_ r.codes)) s

/-! ## Release (R254) -/

/-- The record of a slot may be released: no chunk is bound to it, and the turn it was staged for is past or will not come. -/
def State.recordFree (s : State) (slot : Nat) : Bool :=
  (s.heldDesc slot).isSome &&
  !((s.slot slot).chunks.any fun c => c.bound || c.pos.isSome && c.gatherTurn == (s.slot slot).walkTurn) &&
  (!s.slotDeclared slot || !s.partOn (s.slotPart slot) || decide ((s.slot slot).walkTurn < s.turnNo (s.slotPart slot)))

def execRecordRelease (slot : Nat) (s : State) : Host.Outcome State Fault Refusal :=
  done (when (s.ready && s.recordFree slot) (releaseRecord slot)) s

/-! ## MERGE (R264 to R266, R276) -/

/-- The bank that MERGE entry i of a partition closes now, as the entry and the bank's turn. The close is over when its tick is: a header
that lands on the close tick counts as arrived (R265, R266; log entry 132). -/
def State.closeNow (s : State) (p i : Nat) (old : Bool) : Option (TtEntry × Nat) :=
  ((if old then (s.part p).oldBanks else (s.part p).banks).find? fun x => x.index == i && s.since x.close == 1).map fun x =>
    (x.entry, x.turn)

/-- Whether a chunk was gathered under the plane that now retires (R276). -/
def State.gatheredOld (s : State) (p : Nat) (c : Chunk) : Bool :=
  match (s.part p).retiring with
  | some (_, b) => laterTick b c.gatheredAt
  | none => false

/-- Examine one expected record of a chunk (R266). -/
def mergeRecord (p t slot seq a src r : Nat) (off : Nat) : Prog :=
  look fun s =>
    let st := bitsOf (s.read32 a) 0 2
    let same := (st == 1 || st == 2) && bitsOf (s.read32 a) 4 4 == src && bitsOf (s.read32 (a + 0x10)) 0 12 == r &&
      bitsOf (s.read32 (a + 4)) 0 12 == slot
    let now := s.read32 (a + 8) == t % 2 ^ 32 && s.read32 (a + 0xC) == seq
    if same && now then .nop
    else all [
      put32 a (setBits (s.read32 a) 0 2 3), incF F.KV_MERGE_ABSENT,
      when same (all [incF F.KV_MERGE_STALE, logLim (.turn p) (32 + p) 0x700B 0 (32 + p) (kvWords slot off t) (some slot)]),
      logLim (.turn p) (32 + p) 0x7009 0 (32 + p) (kvWords slot off t) (some slot),
      modSlot slot fun x => { x with chunks := x.chunks.map fun c =>
        if c.part == p && c.seq == seq && c.pos.isSome && c.gatherTurn == t then { c with partialOut := true } else c }]

/-- The close of a bank: every expected record of the chunks gathered in its turn is examined. -/
def mergeClose (p t : Nat) (old : Bool) (e : TtEntry) : Prog :=
  look fun s =>
    match (s.planeFor p old).merges[e.ref]? with
    | none => .nop
    | some d => each (s.chunksOf p) fun x =>
        let c := x.2.2
        let slot := x.1
        when (c.part == p && s.gatheredOld p c == old && c.group == e.group && c.pos.isSome && c.gatherTurn == t &&
            mergeSlot0 d ≤ slot && decide (slot < mergeSlot0 d + mergeSlots d))
          (each (List.range (mergeSrcs d)) fun src => each (List.range (mergeRecs d)) fun r =>
            let a := (mergeBank d (t % 2)).1 +
              (((slot - mergeSlot0 d) * mergeSrcs d + src) * mergeRecs d + r) * mergeRecSize d
            mergeRecord p t slot c.seq a src r (a - storeAt))

def execMerge (p i : Nat) (old : Bool) (s : State) : Host.Outcome State Fault Refusal :=
  done (when s.ready (match s.closeNow p i old with
    | some (e, t) => mergeClose p t old e
    | none => .nop)) s

/-! ## Page operations of host software (R268, R269) -/

/-- The partition in one of whose active carve-outs a list lies. -/
def State.listPart (s : State) (l : Nat) : Option Nat :=
  partIds.find? fun p => (s.plane p).carveRanges.any fun r => inRange r (storeAt + l)

/-- A list whose home pool is no pool, or belongs to another, enabled partition. -/
def State.listForeign (s : State) (l : Nat) : Bool :=
  let k := s.listPool l
  !s.bit (F.KV_POOL_A_VALID k) ||
  (s.partOn (s.fld (F.KV_POOL_D_OWNER k)) && s.listPart l != some (s.fld (F.KV_POOL_D_OWNER k)))

/-- A list whose stream has a gathered chunk that has not ended. -/
def State.listInUse (s : State) (l : Nat) : Bool :=
  s.liveSlots.any fun n => s.slotPlist n == l && (s.slot n).chunks.any fun c => c.pos.isSome

/-- Whether the list at an offset cannot be a list, or is malformed. -/
def State.listOut (s : State) (l : Nat) : Bool :=
  l == 0 || l % 64 != 0 || decide (storeSize ≤ l) || s.listBad l 0

/-- Whether copying a list's entries would take a reference count above 65,535. -/
def State.copySaturates (s : State) (src : Nat) : Bool :=
  let pages := ((List.range (min (s.listCap src) ((s.listLen src + 15) / 16))).map (s.listPage src)).filter (· != 0)
  pages.any fun g => 65535 < s.pageRef g + pages.count g

/-- The outcome of a page operation before it takes effect; 0 lets it act. -/
def State.kvVerdict (s : State) (opc a b : Nat) : Nat :=
  let list := fun l => if s.listForeign l then 4 else if s.listInUse l then 5 else if s.listOut l then 6 else 0
  let first := fun (x y : Nat) => if x != 0 then x else y
  if opc = 1 then (if (s.nextPage a).isNone then 1 else 0)
  else if opc = 2 then (if (s.poolOf a).isNone then 4 else if s.pageRef a = 65535 then 2 else 0)
  else if opc = 3 then (if (s.poolOf a).isNone then 4 else if s.pageRef a = 0 then 3 else 0)
  else if opc = 4 then first (list a) (first (list b)
    (if s.listLen b != 0 || 16 * s.listCap b < (if s.listMode b = 1 then s.listLen a else 0) then 6 else if s.copySaturates a then 2 else 0))
  else if opc = 5 then first (list a) 
    (if s.listTpl a != 0 && ((emptyList a).run s).copySaturates (s.listTpl a) then 2 else 0)
  else 6

/-- Carry out one page operation and report its result (R268, R269). -/
def kvOp (opc : Nat) : Prog :=
  look fun s =>
    let a := s.fld F.KV_OP_ARG0
    let b := s.fld F.KV_OP_ARG1
    let v := s.kvVerdict opc a b
    all [
      setF F.KV_OP_STATUS_RESULT v,
      when (v == 0) (
        if opc = 1 then (match s.nextPage a with
          | some q => all [takePage a q, setF F.KV_OP_STATUS_PAGE q]
          | none => .nop)
        else if opc = 2 then retainPage a
        else if opc = 3 then releasePage a
        else if opc = 4 then copyList a b
        else resetList a)]

/-- A write of KV_OP_CTL. -/
def writeKvOp (v : Nat) : Prog := all [writeFields F.KV_OP_CTL_OPC.off v, kvOp (bitsOf v 0 4)]

def kvCommand (p : Path) (opc : Nat) : Prog := writing p F.KV_OP_CTL_OPC.off (writeKvOp opc)

def execKvAlloc (p : Path) (s : State) : Host.Outcome State Fault Refusal := done (kvCommand p 1) s
def execKvRetain (p : Path) (s : State) : Host.Outcome State Fault Refusal := done (kvCommand p 2) s
def execKvRelease (p : Path) (s : State) : Host.Outcome State Fault Refusal := done (kvCommand p 3) s
def execKvFork (p : Path) (s : State) : Host.Outcome State Fault Refusal := done (kvCommand p 4) s
def execKvReset (p : Path) (s : State) : Host.Outcome State Fault Refusal := done (kvCommand p 5) s

end Sys2Proof.Machine
end

