-- ==== Sys2Proof/Machine/ServiceRegs.lean ====
section
/-!
DEFINITION. Sys2Proof/Machine/ServiceRegs.lean: the registers of the service blocks that start something when they are written:
controller mode of the management bus (R506 to R510, R516), flash commands (R525) and image loads from the SPI target
(R531); and the commands that end what they start.
-/
namespace Sys2Proof.Machine

/-! ## Controller mode (R506 to R510) -/

/-- The addresses that controller mode refuses (R507). -/
def selfAddr (a : Nat) : Bool := (0x58 ≤ a && a ≤ 0x5B) || a == 0x0C || a == 0

/-- RESULT codes of MB_MST_STATUS. -/
def mstTimeout : Nat := 5
def mstSelf : Nat := 7
def mstBadCfg : Nat := 8

/-- A START: one that cannot run is answered at once, one that comes while the bus controller is busy waits. -/
def startMst : Prog :=
  look fun s =>
    if s.fld F.MB_MST_CTL_RATE = 3 || 6 ≤ s.fld F.MB_MST_CTL_SHAPE then setF F.MB_MST_STATUS_RESULT mstBadCfg
    else if selfAddr (s.fld F.MB_MST_CTL_TADDR) then setF F.MB_MST_STATUS_RESULT mstSelf
    else if s.bit F.MB_MST_STATUS_BUSY then modSvc fun v => { v with startWaits := true }
    else all [setF F.MB_MST_STATUS_BUSY 1, setUnit 114 2, modSvc fun v => { v with mstShape := s.fld F.MB_MST_CTL_SHAPE }]

def writeMstCtl (v : Nat) : Prog :=
  all [writeFields F.MB_MST_CTL_START.off v, setF F.MB_MST_CTL_START 0, when (bitsOf v 24 1 == 1) startMst]

def execMstStart (p : Path) (v : Word) (s : State) : Host.Outcome State Fault Refusal :=
  done (writing p F.MB_MST_CTL_START.off (writeMstCtl (setBits v.toNat 24 1 1))) s

/-- INFO codes of the service chapters are logged at most once per 10 ms (R517, R548). -/
def logSvc (code sev unit : Nat) (ds : List Nat) : Prog :=
  if sev = 0 then logLim (.ticks 2500000) unit code 0 unit ds else logC code sev unit ds

/-- What a controller transaction's result leads to beside its record (R496, R508, R509). -/
def mstCatch (r : Nat) : Prog :=
  if r = 3 then logSvc 0xC006 0 114 []
  else if r = 4 then logSvc 0xC007 1 114 []
  else if r = mstTimeout then all [incF F.MB_TIMEOUTS, modSvc fun v => { v with toSeen := true }, logSvc 0xC001 1 114 []]
  else .nop

/-- The data of a transaction, as MB_MST_DATA or MB_POLL_DATA takes it: what was read, and nothing a program may use where the
result is no success (R509, R510). -/
def mstData (f : Fld) (shape : Nat) (o : MstOutcome) : Prog :=
  when (3 ≤ shape && shape ≤ 5) (if o.result = 0 then setF f (o.data % 2 ^ (if shape = 5 then 16 else 8))
    else drawFree 16 fun x => setF f x)

/-- The single transaction in progress ends; a START that waited goes onto the bus, but not on the way into REST, which completes the one
in progress only (R511). -/
def mstComplete (o : MstOutcome) : Prog :=
  look fun s => all [
    setF F.MB_MST_STATUS_BUSY 0, setUnit 114 0, setF F.MB_MST_STATUS_RESULT o.result,
    mstData F.MB_MST_DATA_DATA s.dev.svc.mstShape o, mstCatch o.result,
    when s.dev.svc.startWaits (all [modSvc fun v => { v with startWaits := false }, when (s.devState != 2) startMst])]

def execMstComplete (o : MstOutcome) (s : State) : Host.Outcome State Fault Refusal :=
  done (when (s.bit F.MB_MST_STATUS_BUSY && !s.dev.pwr.por && !s.heldReset && !s.inRest && o.result ≤ 6) (mstComplete o)) s

/-- One poll entry (R506, R507, R510): its result, its age, and MB_POLL_FAIL at the third failure in a row. -/
def pollEntry (k : Nat) (o : MstOutcome) : Prog :=
  look fun s =>
    let shape := s.fld (F.MB_POLL_CTL_SHAPE k)
    let skip := s.fld F.MB_MST_CTL_RATE == 3 || shape < 3 || 5 < shape
    let r := if skip then mstBadCfg else if selfAddr (s.fld (F.MB_POLL_CTL_TADDR k)) then mstSelf else o.result
    let n := Sparse.get zeroNat s.dev.svc.pollFails k
    when (s.bit (F.MB_POLL_CTL_EN k)) (all [
      setF (F.MB_POLL_DATA_RESULT k) r,
      when (r ≤ 6) (all [mstData (F.MB_POLL_DATA_DATA k) shape o, mstCatch r]),
      (if r = 0 then setF (F.MB_POLL_DATA_AGE k) 0 else addF (F.MB_POLL_DATA_AGE k) 1),
      modSvc fun v => { v with pollFails := Sparse.put zeroNat v.pollFails k (if r = 0 then 0 else if skip then n else n + 1) },
      when (n == 2 && r != 0 && !skip) (logC 0xC008 1 114 [k, r])])

/-- The period of the poll table in ticks, and the tick from which its next run is due (R506). -/
def State.pollPeriod (s : State) : Nat := 250000 * s.fld F.MB_POLL_GLOBAL_PERIOD_MS
def State.pollDue (s : State) : Bool := s.fld F.MB_POLL_GLOBAL_PERIOD_MS != 0 && s.reached (s.dev.svc.pollAt + s.pollPeriod)

/-- One period of the poll table; never while a single transaction runs. -/
def execPollPeriod (res : List MstOutcome) (s : State) : Host.Outcome State Fault Refusal :=
  done (when (s.ready && s.pollDue && !s.bit F.MB_MST_STATUS_BUSY && res.all (fun o => o.result ≤ 6))
    (all [modSvc fun v => { v with pollAt := v.pollAt + s.pollPeriod },
      each (List.range 8) fun k => pollEntry k (res.getD k ⟨1, 0⟩)])) s

/-! ## Flash commands (R525) -/

/-- The Chuck is fetching from flash. -/
def State.flashBusy (s : State) : Bool := s.fld F.IMG_STATUS_CHUCK == 1 && s.fld F.IMG_STATUS_SRC == srcFlash

def writeQspiCmd (v : Nat) : Prog :=
  all [writeFields F.QSPI_CMD_GO.off v, setF F.QSPI_CMD_GO 0,
    when (bitsOf v 31 1 == 1) (look fun s =>
      if s.flashBusy then all [setF F.QSPI_STATUS_ERR 1, logSvc 0xC013 0 127 []]
      else when (!s.bit F.QSPI_STATUS_BUSY)
        (all [setF F.QSPI_STATUS_BUSY 1, modSvc fun x => { x with qspiCmd := (s.word F.QSPI_CMD_GO.off).toNat }]))]

def execQspiCmd (p : Path) (v : Word) (s : State) : Host.Outcome State Fault Refusal :=
  done (writing p F.QSPI_CMD_GO.off (writeQspiCmd (setBits v.toNat 31 1 1))) s

/-- Byte `i` of the flash data window. -/
def qspiByte (i : Nat) : Fld := ⟨0x451100 + 4 * (i / 4), 8 * (i % 4), 8⟩

/-- The flash command ends; what it read lies in the window. WRITE and LEN are those with which it was sent. -/
def qspiDone (ok : Bool) (data : List Byte) : Prog :=
  look fun s => all [setF F.QSPI_STATUS_BUSY 0,
    if ok then all [setF F.QSPI_STATUS_DONE 1,
      when (bitsOf s.dev.svc.qspiCmd 18 1 == 0) (each ((data.take (min 256 (bitsOf s.dev.svc.qspiCmd 19 9))).zipIdx) fun x =>
        setF (qspiByte x.2) x.1.toNat)]
    else setF F.QSPI_STATUS_ERR 1]

def execQspiCmdDone (ok : Bool) (data : List Byte) (s : State) : Host.Outcome State Fault Refusal :=
  done (when (s.ready && s.bit F.QSPI_STATUS_BUSY) (qspiDone ok data)) s

/-! ## Image loads from the SPI target (R531) -/

def writeImgOpen (v : Nat) : Prog :=
  all [writeFields F.SPIT_IMG_CTL_OPEN.off v, setF F.SPIT_IMG_CTL_OPEN 0,
    when (bitsOf v 0 1 == 1) (requestLoad (bitsOf v 2 2) (bitsOf v 4 3) srcSpi 0)]

def execSpitImgOpen (p : Path) (v : Word) (s : State) : Host.Outcome State Fault Refusal :=
  done (writing p F.SPIT_IMG_CTL_OPEN.off (writeImgOpen (setBits v.toNat 0 1 1))) s

end Sys2Proof.Machine
end

