-- ==== Sys2Proof/Machine/TileDebug.lean ====
section
/-!
DEFINITION. Sys2Proof/Machine/TileDebug.lean: draining the store buffer (R135, R138), reloading a tile (R128, R202), and debug
access to a tile (R140 to R142, R149).
-/
namespace Sys2Proof.Machine

/-! ## The store buffer -/

/-- Split the bytes of an entry into runs of consecutive addresses. -/
def byteRuns : List (Nat × Byte) → List (Nat × List Byte)
  | [] => []
  | (a, b) :: l => match byteRuns l with
    | (c, bs) :: rs => if c = a + 1 then (a, b :: bs) :: rs else (a, [b]) :: (c, bs) :: rs
    | [] => [(a, [b])]

/-- The oldest entry of the buffer reaches tile memory. -/
def drainOne (t : Nat) : Prog :=
  look fun s => match (s.tile t).stores with
    | [] => .nop
    | e :: _ => all [each (byteRuns e) fun r => storeBytes (tileAt t + r.1) r.2,
        modTile t fun x => { x with stores := x.stores.drop 1 }]

def execStoreBufferDrain (t : Nat) (s : State) : Host.Outcome State Fault Refusal := done (drainOne t) s

/-! ## Reload -/

/-- The part of a run of bytes at `a` that lies from `lo` up to `hi`. -/
def clip (lo hi a : Nat) (bs : List Byte) : Nat × List Byte := (max a lo, (bs.drop (lo - a)).take (hi - max a lo))

/-- Rewrite one area of a tile's memory from the plane's data blocks. -/
def rewriteArea (r : TileRec) (lo hi : Nat) : Prog :=
  all [zeroFill (tileAt r.tile + lo) (tileAt r.tile + hi),
    each r.data fun d => let c := clip lo hi d.1 d.2; when (!c.2.isEmpty) (storeBytes (tileAt r.tile + c.1) c.2)]

/-- The record of a tile in the active plane of its bench's partition. -/
def State.tileRecord (s : State) (t : Nat) : Option TileRec := (s.benchPart (t / 16)).bind fun p => (s.plane p).tileRec t

/-- A reload ends (R128, R202): poisoned words are zeroed, program area and recipe table are as the plane gives them, all
registers are clear; a launch that waited starts. -/
def reloadDone (t : Nat) : Prog :=
  look fun s =>
    let late := !(s.tile t).waiting.isEmpty
    all [
      each (s.dev.poison.filter fun a => tileAt t ≤ a && decide (a < tileAt (t + 1))) fun a => zeroFill a (a + 8),
      (match s.tileRecord t with
        | some r => all [rewriteArea r r.pbase (r.pbase + 16 * r.plen), rewriteArea r r.rbase (r.rbase + 16384)]
        | none => .nop),
      modTile t fun x => { waiting := x.waiting },
      incF ⟨tileReg t 0x090, 0, 32⟩,
      when late (logC 0x3003 1 (t / 16) [t / 16, t % 16]),
      tileIdle t]

/-- A tile reloads once its matrix operations and transfers have ended (R173). -/
def execTileReloadDone (t : Nat) (s : State) : Host.Outcome State Fault Refusal :=
  done (when ((s.tile t).run == 3 && !(s.tile t).working && s.ready) (reloadDone t)) s

/-! ## Debug access -/

/-- A write to a debug control: dropped and recorded once the debug lock is fused (R140). -/
def debugWrite (p : Path) (t off : Nat) (q : Prog) : Prog :=
  writing p (tileReg t off) (look fun s =>
    if fuseBit s.dev.chuck 2 then all [noteDropped, logC 0x3004 0 (t / 16) [t / 16, t % 16]] else q)

/-- A running tile halts (R141). -/
def haltTile (t : Nat) : Prog := look fun s => when ((s.tile t).run == 1) (haltAt t false)

def execTileHalt (p : Path) (t : Nat) (s : State) : Host.Outcome State Fault Refusal :=
  done (debugWrite p t 0x014 (haltTile t)) s

/-- A halted tile executes one bundle, and a branch bundle together with its delay slot (R141). A bundle that has to wait goes on as
a bundle of a running tile, and the tile halts after it. -/
def stepTile (t : Nat) : Prog :=
  look fun s => when ((s.tile t).run == 2) (all [
    modTile t fun x => { x with run := 1, stepping := true, detached := x.detached || x.excHalt },
    runBundle t [] .none,
    look fun s => when ((s.tile t).run == 1 && (s.tile t).stepping && (s.tile t).delay.isSome) (runBundle t [] .none)])

def execTileStep (p : Path) (t : Nat) (s : State) : Host.Outcome State Fault Refusal :=
  done (debugWrite p t 0x014 (stepTile t)) s

/-- A halted tile runs on; from an exception halt it runs detached (R142). -/
def resumeTile (t : Nat) : Prog := look fun s => when ((s.tile t).run == 2)
  (modTile t fun x => { x with run := 1, detached := x.detached || x.excHalt, excHalt := false, issuedAt := s.now })

def execTileResume (p : Path) (t : Nat) (s : State) : Host.Outcome State Fault Refusal :=
  done (debugWrite p t 0x014 (resumeTile t)) s

def debugStore (t : Nat) (hi : Bool) (v : Nat) : Prog :=
  look fun s =>
    let x := s.tile t
    let r := s.fld (F.TSQ_DSEL_REG (t / 16) (t % 16))
    let e := s.fld (F.TSQ_DSEL_ELEM (t / 16) (t % 16))
    match s.fld (F.TSQ_DSEL_SPACE (t / 16) (t % 16)) with
    | 0 => setS t r (setBits (x.sreg r) (if hi then 32 else 0) 32 v)
    | 1 => when (decide (r < 16) && !hi) (setV t r [(e, v)])
    | 2 => when (decide (r < 16) && !hi)
        (setM t r (BitVec.ofNat 256 (setBits (Sparse.get zeroMask x.masks r).toNat (32 * (e % 8)) 32 v)))
    | _ => .nop

/-- A write of TSQ_DDATA reaches the selected register of a halted tile only (R149). -/
def writeDdata (p : Path) (t : Nat) (hi : Bool) (v : Nat) : Prog :=
  debugWrite p t (if hi then 0x068 else 0x064) (look fun s =>
    if (s.tile t).run == 2 then debugStore t hi v else all [noteDropped, badAccess p])

def execDebugDataWrite (p : Path) (t : Nat) (hi : Bool) (v : Word) (s : State) : Host.Outcome State Fault Refusal :=
  done (writeDdata p t hi v.toNat) s

end Sys2Proof.Machine
end

