-- ==== Sys2Proof/Machine/Views.lean ====
section
/-!
DEFINITION. Sys2Proof/Machine/Views.lean: what a read of a register shows where the register shows another part of the state
(R16, R68, R110, R149, R239, R278, R305, R306, R348, R387, R430, R459, R485, R518, R549, R586, R614, R643), and reading a
register (R10, R15, R34, R300, R355, R556, R655). Every register that is not named here holds its own word.
-/
namespace Sys2Proof.Machine

/-! ## Ledger lines -/

/-- The state that a unit's line shows: the management bus is busy as a target while it serves a transaction or holds one for a wake
(R518), and the SPI target is the image source while the Chuck takes an image from it, and in a frame while it serves one (R549). -/
def State.shownState (s : State) (u : Nat) : Nat :=
  if u = 114 && (s.dev.svc.serving || s.dev.svc.holding) then 1
  else if u = 115 && (s.dev.chuck.load.any (fun l => l.src == srcSpi) ||
    (s.fld F.IMG_STATUS_CHUCK == 1 && s.fld F.IMG_STATUS_SRC == srcSpi)) then 2
  else if u = 115 && s.dev.svc.inFrame then 1 else s.unitState u

/-- A status register whose STATE has `w` bits: its STATE and EPOCH are the ledger's (R588). -/
def State.statusWord (s : State) (u w off : Nat) : Nat :=
  setBits (setBits (s.word off).toNat 0 w (s.shownState u)) 16 16 (s.epoch u)

/-- An accepted order has not been reached yet: a bench moves, or a regrip waits for its boundary (R614). -/
def State.orderPending (s : State) (u : Nat) : Bool :=
  if u < 32 then s.dev.pwr.waking.any (·.1 == u) || s.dev.pwr.dwelling.any (·.1 == u)
  else u < 40 && (s.part (u - 32)).regrip.isSome

/-- LEDG_UNIT_u; the lines of the reserved units 117 to 127 read zero (R587). -/
def State.lineWord (s : State) (u : Nat) : Nat :=
  if 117 ≤ u then 0
  else setBits (setBits (s.word (F.LEDG_UNIT_STATE u).off).toNat 0 4 (s.shownState u)) 7 1 (oneIf (s.orderPending u))

/-! ## Planes in their windows -/

/-- The plane that a window selects: the active or the staged one of a partition. -/
def State.selPlane (s : State) (p : Nat) (staged : Bool) : Option Plane := if staged then (s.part p).staged else (s.part p).active

def TtEntry.word (e : TtEntry) (k : Nat) : Nat := [e.w0, e.w1, e.w2, e.w3].getD k 0

/-- TT_WIN_DATA0 to 3. -/
def State.ttWin (s : State) (k : Nat) : Nat :=
  match s.selPlane (s.fld F.TT_WIN_SEL_PART) (s.bit F.TT_WIN_SEL_PLANE) with
  | none => 0
  | some pl => match (if s.bit F.TT_WIN_SEL_TABLE then pl.derated else pl.normal)[s.fld F.TT_WIN_SEL_INDEX]? with
    | none => 0
    | some e => e.word k

/-- TT_GRP_CFG to TT_GRP_DLL. -/
def State.ttGrp (s : State) (k : Nat) : Nat :=
  match (s.selPlane (s.fld F.TT_GRP_SEL_PART) (s.bit F.TT_GRP_SEL_PLANE)).bind fun pl => pl.group (s.fld F.TT_GRP_SEL_GROUP) with
  | none => 0
  | some g => [setBits g.cfg 14 2 1, g.dl, g.ll, g.ovr, g.ddl, g.dll].getD k 0

def State.ttWord (s : State) (p o : Nat) : Option Nat :=
  let pl := s.plane p
  if o = 0 then some (oneIf (s.partOn p) + 2 * oneIf pl.soft + 4 * oneIf (s.part p).derated + 8 * oneIf (!pl.derated.isEmpty) +
    16 * oneIf (s.part p).staged.isSome + 65536 * s.epoch (32 + p))
  else if o = 4 then some (pl.normal.length + 65536 * pl.derated.length)
  else if o = 8 then some (s.turnNo p % 2 ^ 32)
  else none

/-- The routes of a plane whose source lies in a bench. -/
def routesFrom (b : Nat) (pl : Plane) : List (List Nat) := pl.liveRoutes.filter fun r => routeSrc r / 16 == b
def State.routesOf (s : State) (b : Nat) (staged : Bool) : List (List Nat) :=
  partIds.flatMap fun p => match s.selPlane p staged with
    | some pl => routesFrom b pl
    | none => []

/-- The active routes that touch a bench. -/
def State.routesThrough (s : State) (b : Nat) : List (List Nat) :=
  (partIds.flatMap fun p => (s.plane p).liveRoutes).filter fun r => ((routeTiles r).getD []).any fun t => t / 16 == b

def State.benchWord (s : State) (b o : Nat) : Option Nat :=
  if o = 0x8000 then some (s.unitState b % 8 + 65536 * s.epoch b + (match s.benchPart b with
    | some p => 8 + 16 * p + 128 * (s.plane p).idleOf b + 512 * oneIf (s.plane p).stop
    | none => 0))
  else if o = 0x800C then some (min 0xFFF (s.routesThrough b).length +
    4096 * min 0xFFF ((s.routesThrough b).filter s.routeCut).length)
  else if 0x8018 ≤ o && o < 0x8038 then
    some (((s.routesOf b (s.bit (F.BENCH_RT_SEL_PLANE b)))[s.fld (F.BENCH_RT_SEL_INDEX b)]?.getD []).getD ((o - 0x8018) / 4) 0)
  else if o = 0x8038 then some ((s.routesOf b false).length + 65536 * (s.routesOf b true).length)
  else none

/-- A carve-out's two words of a register window: the image's word A with the owner and VALID set in it. -/
def carveWord (ownerBit : Nat) (x : Nat × Nat × Nat × Bool) (hi : Bool) : Nat :=
  if hi then x.2.2.1 % 512
  else setBits (setBits (x.2.1 % 2 ^ 27) ownerBit 3 x.1) 31 1 1

/-- The carve-outs of the active planes, by partition and in the order of their records. -/
def State.carveList (s : State) (far : Bool) : List (Nat × Nat × Nat × Bool) :=
  partIds.flatMap fun p => ((s.plane p).carves.filter fun c => c.2.2 == far).map fun c => (p, c)

def State.carveReg (s : State) (far : Bool) (o : Nat) : Nat :=
  match (s.carveList far)[o / 8]? with
  | none => 0
  | some x => carveWord (if far then 27 else 25) (if far then (x.1, x.2.1 % 2 ^ 11 + bitsOf x.2.1 16 11 * 65536, x.2.2)
      else (x.1, x.2.1 % 2 ^ 9 + bitsOf x.2.1 16 9 * 65536, x.2.2)) (o % 8 == 4)

/-- FAR_WIN_DATA0 and 1. -/
def State.farWin (s : State) (k : Nat) : Nat :=
  match (s.selPlane (s.fld F.FAR_WIN_SEL_PART) (s.bit F.FAR_WIN_SEL_PLANE)).bind fun pl => pl.farWins[s.fld F.FAR_WIN_SEL_INDEX]? with
  | none => 0
  | some w => if k = 0 then w.1 % 2 ^ 30 else w.2 % 2 ^ 26

/-- KV_DESC_DATA0 to 7. -/
def State.kvDesc (s : State) (k : Nat) : Nat :=
  match s.selPlane (s.fld F.KV_DESC_SEL_PART) (s.bit F.KV_DESC_SEL_PLANE) with
  | none => 0
  | some pl => ((if s.bit F.KV_DESC_SEL_KIND then pl.merges else pl.walkers)[s.fld F.KV_DESC_SEL_INDEX]?.getD []).getD k 0

/-! ## The catch log (R600, R601) -/

def CatchRec.words (r : CatchRec) : List Nat :=
  [r.code % 2 ^ 16 + 2 ^ 16 * (r.sev % 4) + 2 ^ 18 * (r.unit % 128) + 2 ^ 25 * oneIf r.stream.isSome,
   (r.stream.getD 0) % 4096 + 4096 * (r.serial % 2 ^ 20), r.tick.toNat % 2 ^ 32, r.tick.toNat / 2 ^ 32,
   r.d0 % 2 ^ 32, r.d1 % 2 ^ 32, r.d2 % 2 ^ 32, r.d3 % 2 ^ 32]
def CatchRec.bytes (r : CatchRec) : List Byte := r.words.flatMap (toBytes 4)

/-- The record with serial number `n`, while the log holds it. -/
def CatchLog.rec? (l : CatchLog) (n : Nat) : Option CatchRec := l.recs.find? fun r => r.serial == n % 2 ^ 32

def State.logWord (s : State) (i : Nat) : Nat :=
  match s.dev.log.recs.find? fun r => r.serial % 1024 == i / 8 with
  | none => 0
  | some r => r.words.getD (i % 8) 0

/-! ## Blocks -/

def State.genWord (s : State) (off : Nat) : Option Nat :=
  let p := s.dev.pwr.pins
  if off = 0 then some Config.vendorId.toNat
  else if off = 0xC && Config.grade15 then some (0x0F + 0x1CC * 256)
  else if off = 0x24 then some (oneIf p.pwrOk + 2 * oneIf p.coldN + 4 * oneIf p.perstN + 8 * oneIf p.vbus +
    16 * s.fld F.PCK_AVS_VREQ + 512 * oneIf s.catchN + 1024 * oneIf p.coreEn + 2048 * oneIf p.storeEn + 4096 * oneIf p.farEn +
    8192 * oneIf p.storeRet)
  else none

/-- The PLLs lock while the device works: the far PLL not while far memory is absent, the host's with the link, and USB's not
in FREE on the internal RC (R561, R562). -/
def State.clkStatus (s : State) : Nat :=
  if !(s.ready || (s.devState == 2 && !s.heldReset && !s.dev.pwr.por)) then 0
  else 7 + 8 * oneIf (s.unitState 42 != 0) + 16 * oneIf s.linkUp + 32 + 64 * oneIf !(s.unitState 40 == 0 && !s.bit F.TB_STATUS_XTAL)

def State.pckWord (s : State) (off : Nat) : Option Nat :=
  if off = 0x60008 then some (oneIf (s.devState == 2 || s.inRest))
  else if off = 0x60018 then some (maskOf (partIds.filter s.derateAsked))
  else if off = 0x60028 then some s.clkStatus
  else if off = 0x60040 then some 0
  else none

/-- IMG_REGRIP reads the partitions with a regrip pending, with DRAIN and DTM1 of that order (R348). -/
def State.regripWord (s : State) : Nat :=
  let l := partIds.filter fun p => (s.part p).regrip.isSome
  match l.head?.bind fun p => (s.part p).regrip with
  | none => 0
  | some o => maskOf l + 256 * oneIf o.drain + 512 * ((o.turns - 1) % 16)

def State.planeWord (s : State) (p : Nat) : Nat :=
  let x := s.part p
  oneIf x.staged.isSome + 2 * oneIf x.retiring.isSome + 4 * oneIf (s.unitState (32 + p) == 3) +
  8 * oneIf (x.staged.any fun pl => pl.release)

def State.secWord (s : State) (off : Nat) : Option Nat :=
  let c := s.dev.chuck
  if off = 0x480000 then some (c.fuseFlags % 32)
  else if off = 0x480004 then some (c.rbCount % 128)
  else if off = 0x480008 || off = 0x480044 then some 0
  else if 0x480010 ≤ off && off < 0x480040 then some (Sparse.get zeroNat c.keyHash ((off - 0x480010) / 4))
  else none

/-- NEXT of an output: undefined again after a FLUSH result, and then open (R415). -/
def State.nextWord (s : State) (k : Nat) : Nat := match (s.out k).next with
  | some n => n
  | none => if (s.out k).stale then (Config.freeWord s.free).toNat else 0
def State.queueWord (s : State) (k : Nat) : Nat := (s.out k).queue.length % 4 + 4 * oneIf (s.out k).next.isSome
def State.fillWord (s : State) (k : Nat) : Nat := oneIf (s.inp k).framed + 65536 * ((s.inp k).fill % 2 ^ 16)

def State.audWord (s : State) (p o off : Nat) : Option Nat :=
  if o = 0 then some (s.statusWord (108 + p) 3 off)
  else if 0x100 ≤ o && o < 0x200 && o % 8 = 4 then some (s.fillWord (32 * p + (o - 0x100) / 8))
  else if 0x200 ≤ o && o < 0x300 then
    (if o % 8 = 0 then some (s.nextWord (32 * p + (o - 0x200) / 8)) else some (s.queueWord (32 * p + (o - 0x200) / 8)))
  else none

def State.arrWord (s : State) (o off : Nat) : Option Nat :=
  if o = 0 then some (s.statusWord 112 2 off)
  else if 0x100 ≤ o && o < 0x300 && o % 0x20 = 0x1C then some (s.fillWord (arrKey ((o - 0x100) / 0x20)))
  else if 0x300 ≤ o && o < 0x380 && o % 0x10 = 8 then some (s.nextWord (outKey 112 ((o - 0x300) / 0x10)))
  else if 0x300 ≤ o && o < 0x380 && o % 0x10 = 0xC then some (s.queueWord (outKey 112 ((o - 0x300) / 0x10)))
  else if o = 0x604 || o = 0x608 then
    some (match s.dev.arr.matrix.find? fun x => x.1 == s.fld F.ARR_MTX_SEL_TERMINAL with
      | some x => if o = 0x604 then x.2 % 2 ^ 32 else x.2 / 2 ^ 32 % 2 ^ 32
      | none => 0)
  else if o = 0x800 then some (s.statusWord 113 2 off)
  else if (o = 0x81C || o = 0x820) && !s.windowOn then some 0
  else none

/-- The register at an offset of BAR0 where it is a view; none where it holds its own word. -/
def State.viewOf (s : State) (off : Nat) : Option Nat :=
  if off < 0x10000 then s.genWord off
  else if off < 0x20000 then
    (if off = 0x10000 then some (s.dev.hs.now.toNat % 2 ^ 32)
     else if off = 0x10008 then some (s.statusWord 40 3 off) else none)
  else if off < 0x30000 then
    (if off < 0x20200 then s.ttWord ((off - 0x20000) / 0x40) (off % 0x40)
     else if 0x20404 ≤ off && off < 0x20414 then some (s.ttWin ((off - 0x20404) / 4))
     else if 0x20424 ≤ off && off < 0x2043C then some (s.ttGrp ((off - 0x20424) / 4)) else none)
  else if off < 0x40000 then none
  else if off < 0x50000 then
    (if off = 0x40004 then some 0 else if off = 0x40008 then some s.enabledMask
     else if isUnitLine off then some (s.lineWord (lineUnit off)) else none)
  else if off < 0x60000 then
    (if off = 0x50004 then some (s.dev.log.count % 2 ^ 32)
     else if 0x50040 ≤ off && off < 0x50060 then
      some ((s.dev.log.fatal.map CatchRec.words).getD [] |>.getD ((off - 0x50040) / 4) 0)
     else if 0x58000 ≤ off then some (s.logWord ((off - 0x58000) / 4)) else none)
  else if off < 0x80000 then s.pckWord off
  else if off < 0xC0000 then (if off = 0x80000 then some (s.statusWord 43 2 off) else none)
  else if off < 0x100000 then
    (if off = 0xC0020 then some s.regripWord
     else if 0xC0040 ≤ off && off < 0xC0060 then some (s.planeWord ((off - 0xC0040) / 4)) else none)
  else if off < 0x300000 then
    (let b := (off - 0x100000) / 0x10000
     let o := off % 0x10000
     if 0x8000 ≤ o then s.benchWord b o
     else if s.unitState b == bBlank then some 0
     else if s.unitState b == bFenced then none
     else s.tileView (16 * b + o / 0x800) (o % 0x800))
  else if off < 0x380000 then
    (if off = 0x300054 then some (if s.fld F.KV_PAGE_SEL_PAGE < s.fld F.KV_LEDGER_SIZE_ENTRIES
        then s.pageEntry (s.fld F.KV_PAGE_SEL_PAGE) else 0)
     else if off = 0x300048 then some 0
     else if 0x300204 ≤ off && off < 0x300224 then some (s.kvDesc ((off - 0x300204) / 4)) else none)
  else if off < 0x3C0000 then
    (if off = 0x380000 then some (s.statusWord 42 3 off)
     else if off = F.FAR_TRAIN_STATUS_STEP.off && s.unitState 42 == 2 then
      some (setBits (s.word off).toNat 0 4 (farStepAt (s.since s.dev.farSince)))
     else if 0x380100 ≤ off && off < 0x380200 then some (s.carveReg true (off - 0x380100))
     else if off = 0x380204 then some (s.farWin 0) else if off = 0x380208 then some (s.farWin 1) else none)
  else if off < 0x400000 then
    (if off = 0x3C0000 then some (s.statusWord 41 2 off)
     else if off = 0x3C0014 then
      some (min 0xFFFFFF (s.dev.poison.filter fun x => storeAt ≤ x && decide (x < storeAt + storeSize)).length)
     else if 0x3C0100 ≤ off && off < 0x3C0200 then some (s.carveReg false (off - 0x3C0100)) else none)
  else if off < 0x420000 then s.audWord ((off - 0x400000) / 0x1000) (off % 0x1000) off
  else if off < 0x440000 then s.arrWord (off - 0x420000) off
  else if off < 0x450000 then (if off = 0x440000 then some (s.statusWord 114 2 off) else none)
  else if off < 0x480000 then
    (if off = 0x450000 then some (s.statusWord 115 2 off) else if off = 0x452000 then some (s.statusWord 116 3 off) else none)
  else if off < 0x490000 then s.secWord off
  else none

/-- The value of the register at an offset of the register space, before what a path's latch makes of it. -/
def State.regValue (s : State) (off : Nat) : Nat := (s.viewOf off).getD (s.word off).toNat

/-! ## Virtual functions' windows (R355) -/

/-- The register that a virtual function's window shows at an offset: a GEN register, its own GEN_BAD_ACCESS or GEN_SCRATCH, TB_NOW,
HQ_VF_STATUS, a register of the k-th pair that it owns, or its MSI-X table and PBA. -/
inductive VfReg where
  | reg (off : Nat)
  | status
  | pair (q o : Nat)
  deriving DecidableEq, Repr

def State.vfReg (s : State) (n off : Nat) : Option VfReg :=
  let own := 0x4000000 + 0x10000 * n + off
  if off % 4 != 0 then none
  else if off < 0x14 then some (.reg off)
  else if off = 0x14 || off = 0x18 then some (.reg own)
  else if off = 0x100 then some (.reg 0x10000)
  else if off = 0x104 then some (.reg 0x10004)
  else if off = 0x200 then some .status
  else if 0x1000 ≤ off && off < 0x8000 then
    match (s.ownedPairs n)[(off - 0x1000) / 64]? with
    | some q => some (.pair q (off % 64))
    | none => none
  else if 0x8000 ≤ off && off < 0x10000 && !(RegMap.fields own).isEmpty then some (.reg own)
  else none

/-- The register of the register space that a path's offset names; none for an unimplemented offset (R11). -/
def State.keyOf (s : State) (p : Path) (off : Nat) : Option Nat := match p with
  | .vf n => match s.vfReg n off with
    | some (.reg k) => some k
    | some (.pair q o) => some (qpAt q + o)
    | _ => none
  | _ => if (RegMap.fields off).isEmpty then none else some off

/-! ## Reading -/

/-- What a read of a word returns on a path: the high word of a latched pair is what the path latched (R34). -/
def State.readWord (s : State) (p : Path) (off : Nat) : Nat :=
  if !s.reach p off then 0
  else match p with
    | .vf n => match s.vfReg n off with
      | some .status => (s.ownedPairs n).length % 512 + 65536 * s.vecsOf n
      | some (.reg k) => if isPairHigh k then (s.latched p).toNat else s.regValue k
      | some (.pair q o) => s.regValue (qpAt q + o)
      | none => 0
    | _ => if (RegMap.fields off).isEmpty then 0 else if isPairHigh off then (s.latched p).toNat else s.regValue off

/-- A bench that is blank or fenced: reads of its tile windows change nothing (R300). -/
def State.heldWindow (s : State) (off : Nat) : Bool := match s.benchDrops off with
  | some b => decide (off < 0x108000 + 0x10000 * b)
  | none => false

/-- The RC fields of a register are cleared (R7). -/
def clearRc (off : Nat) : Prog :=
  each ((RegMap.fields off).filter fun f => f.acc == .rc) fun f => setF ⟨off, f.lo, f.w⟩ f.reset

/-- What a whole read does to the state: the latch of a pair, and, once the read has been acknowledged (R357, R493, R535), the
clearing of RC fields. -/
def readEffect (p : Path) (off : Nat) (acked : Bool) : Prog :=
  look fun s => when (s.reach p off) (match s.keyOf p off with
    | none => .nop
    | some k => all [latchPair p off, when (acked && !s.heldWindow k) (clearRc k)])

/-- A read of MDATA_LO fetches the word before it is answered (R446). -/
def fetchFor (p : Path) (off : Nat) : Prog :=
  look fun s => when (off == F.ARR_FAB_MDATA_LO.off && s.reach p off) readMdata

/-- The offset of the register that a read addresses bytes of. -/
def readBase (r : Reader) : Nat := match r.loc.form with
  | .word => r.loc.off
  | .narrow _ => r.loc.off - r.loc.off % 4

/-- A whole read is aligned (R5); a narrow one lies within its register (R10). -/
def readFits (r : Reader) : Bool := match r.loc.form with
  | .word => r.loc.off % 4 == 0
  | .narrow n => decide (0 < n) && decide (r.loc.off % 4 + n ≤ 4)

/-- The bytes that a read returns: the word, or the addressed bytes of it (R10). -/
def State.readBytes (s : State) (r : Reader) : List Byte := match r.loc.form with
  | .word => toBytes 4 (s.readWord r.path r.loc.off)
  | .narrow n => ((toBytes 4 (s.readWord r.path (readBase r))).drop (r.loc.off % 4)).take n

/-- What a read does to the state: a narrow one latches like a whole one and clears no RC field (R10, R34). -/
def readerEffect (r : Reader) : Prog := readEffect r.path (readBase r) (r.loc.form == .word && r.acked)

/-- The reads of one PERCLK cycle: all are answered from the registers as they stand at its start, and a field that several of
them read clears once (R653, R654). -/
def readCycle (rs : List Reader) : Prog :=
  let l := rs.filter readFits
  all [each l fun r => fetchFor r.path (readBase r),
    look fun s => each l fun r => emitOut (.reply r.path (s.readBytes r)),
    each l readerEffect]

/-- R7, R10, R357, R654, R655: registers are read by one path, or by several in one cycle; RC fields clear when a read of the
whole word is acknowledged. -/
def execRcRead (p : Path) (loc : ReadAt) (how : ReadHow) (s : State) : Host.Outcome State Fault Refusal :=
  done (readCycle (⟨p, loc, how.acked⟩ :: how.beside)) s

/-- R10, R34: a read of the low word of a pair, of whatever width, latches the high word for that path. -/
def execLowWordLatch (p : Path) (loc : ReadAt) (s : State) : Host.Outcome State Fault Refusal :=
  done (readCycle [⟨p, loc, true⟩]) s

/-- R446: a read of ARR_FAB_MDATA_LO. -/
def execFabMdataRead (p : Path) (s : State) : Host.Outcome State Fault Refusal :=
  done (readCycle [⟨p, ⟨F.ARR_FAB_MDATA_LO.off, .word⟩, true⟩]) s

end Sys2Proof.Machine
end

