-- ==== Sys2Proof/Machine/RegWrites.lean ====
section
/-!
DEFINITION. Sys2Proof/Machine/RegWrites.lean: a write of one register from any access path: what R7 gives its access codes, the
drops of R9, R11, R300, R355, R357 and R360, the orders that LO fields submit (R590), and the registers whose write starts or
changes something beside them.
-/
namespace Sys2Proof.Machine

/-- A write that is dropped and counted in GEN_BAD_ACCESS (R9, R11). -/
def dropCounted (p : Path) : Prog := all [noteDropped, badAccess p]

/-- The order that a register write submits, under the rank of its path (R592); it is decided with the others of its cycle. -/
def regOrder (p : Path) (kind unit arg : Nat) : Prog := submit [{ src := p.osrc, kind, unit, arg }]

/-- A write that takes only values of a range and is ignored otherwise. -/
def writeIf (ok : Bool) (k v : Nat) : Prog := when ok (writeFields k v)

/-! ## Headstock registers (R43, R44, R49, R66, R68) -/

def writeTbReg (k v : Nat) : Prog :=
  if k = 0x1000C then writeDiscCtl v
  else if k = 0x1003C then all [writeFields k v, clearUncFrac]
  else if k = 0x10010 then look fun s => when (s.mode != 2) (all [writeFields k v, updateClamp])
  else if k = 0x10014 then writeSlew v
  else if k = 0x10024 then writePhase v
  else if k = 0x10038 then writeIf (bitsOf v 0 28 < ppsGrid) k v
  else if k = 0x10030 then writeSetCtl v
  else writeFields k v

/-! ## Ledger, catch log and power registers -/

/-- A write of LEDG_ORDER, of an LO field, or of another register of the LEDG block (R590, R614). -/
def writeLedgReg (p : Path) (k v : Nat) : Prog :=
  if k = 0x40004 then look fun s => regOrder p (bitsOf v 8 8) (bitsOf v 0 7) (s.fld F.LEDG_ORDER_ARG_ARG)
  else if k = 0x40008 then regOrder p kEnable 0 (bitsOf v 0 8)
  else writeFields k v

/-- PCK_RESET: COLD and PARTS written together submit two orders of one cycle. -/
def writeReset (p : Path) (v : Nat) : Prog :=
  submit ((if bitsOf v 8 1 = 1 then [{ src := p.osrc, kind := kCold, unit := 0, arg := 0 }] else []) ++
    (if bitsOf v 0 8 = 0 then [] else [{ src := p.osrc, kind := kPart, unit := 0, arg := bitsOf v 0 8 }]))

/-- A write of PCK_WDOG_CTL; the watchdog counts from the write that sets EN. -/
def writeWdogCtl (v : Nat) : Prog :=
  look fun s => all [when (bitsOf v 31 1 == 1 && !s.bit F.PCK_WDOG_CTL_EN) (modPwr fun w => { w with wdogAt := s.now }),
    writeFields F.PCK_WDOG_CTL_EN.off v]

def writePckReg (p : Path) (k v : Nat) : Prog :=
  if k = 0x60008 then when (bitsOf v 0 1 == 1) (regOrder p kRest 0 0)
  else if k = 0x60010 then regOrder p kTileclk 0 (bitsOf v 0 12)
  else if k = 0x60018 then regOrder p kDerate 0 (bitsOf v 0 8)
  else if k = 0x60030 then writeWdogCtl v
  else if k = 0x60034 then writeKick p
  else if k = 0x60040 then writeReset p v
  else writeFields k v

/-! ## Host interface registers (R360, R371, R387) -/

/-- The registers of a pair that hold its base, size or slot fields, which a write leaves alone while EN is set (R360). -/
def ringReg (o : Nat) : Bool := [4, 8, 0xC, 0x10, 0x14, 0x18, 0x20, 0x24].contains o

def writePairReg (p : Path) (q o v : Nat) : Prog :=
  if o = 0 then writeQpCtl p q v
  else look fun s => if ringReg o && s.bit (F.QP_CTL_EN q) then dropCounted p else writeFields (qpAt q + o) v

def writeHqReg (p : Path) (k v : Nat) : Prog :=
  if 0x81000 ≤ k && k < 0x85000 then writePairReg p ((k - 0x81000) / 64) ((k - 0x81000) % 64) v
  else if 0x80400 ≤ k && k < 0x80500 && k % 16 = 8 then writeIf (bitsOf v 0 24 ≤ 0x800000) k v
  else writeFields k v

/-- A write of a vector's control word; a message that waited for the unmasking is sent (R371). -/
def writeVctl (fn vec v : Nat) : Prog :=
  all [writeFields (msixEntry fn vec + 12) v,
    look fun s => when (bitsOf v 0 1 == 0 && s.bit (msixPba fn vec)) (all [setF (msixPba fn vec) 0, emitOut (.msix fn vec)])]

/-- A write to the MSI-X table of a function, `o` from the table's start. -/
def writeMsix (fn k o v : Nat) : Prog := if o % 16 = 12 then writeVctl fn (o / 16) v else writeFields k v

/-! ## Tile windows and bench registers (R140, R149, R305) -/

/-- TSQ_DBG_CTL: the enables are held, HALT, STEP and RESUME act. -/
def writeDbgCtl (t v : Nat) : Prog :=
  all [writeFields (tileReg t 0x014) v,
    setF ⟨tileReg t 0x014, 1, 3⟩ 0,
    when (bitsOf v 1 1 == 1) (haltTile t), when (bitsOf v 2 1 == 1) (stepTile t), when (bitsOf v 3 1 == 1) (resumeTile t)]

def writeTileReg (p : Path) (t o v : Nat) : Prog :=
  if o = 0x014 then debugWrite p t o (writeDbgCtl t v)
  else if o = 0x018 || o = 0x060 then debugWrite p t o (writeFields (tileReg t o) v)
  else if o = 0x064 then writeDdata p t false v
  else if o = 0x068 then writeDdata p t true v
  else writeFields (tileReg t o) v

def writeBenchReg (p : Path) (k v : Nat) : Prog :=
  let b := (k - 0x100000) / 0x10000
  let o := k % 0x10000
  if o < 0x8000 then writeTileReg p (16 * b + o / 0x800) (o % 0x800) v else writeFields k v

/-! ## Array, audio and fabric registers (R403, R412, R423, R446, R450) -/

def writeArrReg (p : Path) (k v : Nat) : Prog :=
  let o := k - 0x420000
  if o = 0x4 then writeArrClk v
  else if o = 0x10 then writeCalCtl v
  else if 0x100 ≤ o && o < 0x300 && o % 0x20 = 0 then writeInCtl ((o - 0x100) / 0x20) v
  else if 0x300 ≤ o && o < 0x380 && o % 0x10 = 0 then writeOutCtl ((o - 0x300) / 0x10) v
  else if o = 0x804 then writeFabCtl v
  else if o = 0x80C then all [writeFields k v, fabSettle]
  else if o = 0x81C then writeMdataLo p v
  else if o = 0x820 then writeMdataHi p v
  else writeFields k v

/-! ## Service registers (R323, R321, R496, R506, R520, R525, R531) -/

/-- A write that is taken within a range and answered RANGE outside it (R496). -/
def writeRanged (lo hi k v n : Nat) : Prog := if lo ≤ n && n ≤ hi then writeFields k v else noteStatus 3

def writeSvcReg (p : Path) (k v : Nat) : Prog :=
  if k = 0x440008 then writeRanged 5 35 k v (bitsOf v 0 6)
  else if k = 0x440100 then writeMstCtl v
  else if k = 0x44013C then all [writeFields k v, look fun s => modSvc fun x => { x with pollAt := s.now }]
  else if k = 0x450008 then writeImgOpen v
  else if k = 0x451004 then writeIf (15 ≤ bitsOf v 0 7 && bitsOf v 0 7 ≤ 80) k v
  else if k = 0x451008 then writeQspiCmd v
  else if k = 0x452004 then all [writeFields k v, look fun s => modSvc fun x => { x with strmAt := s.now }]
  else if k = 0x480008 then commitRb v
  else if k = 0x480044 then setWord k v
  else if k = 0x480048 then drawFree 1 fun b => writeProgCtl p v (b == 1)
  else writeFields k v

/-! ## Every register -/

/-- The effect of a write of `v` to the register at offset `k` of the register space. -/
def writeReg (p : Path) (k v : Nat) : Prog :=
  if k < 0x10000 then writeFields k v
  else if k < 0x20000 then writeTbReg k v
  else if k < 0x30000 then writeFields k v
  else if k < 0x40000 then writeMsix 0 k (k - 0x30000) v
  else if k < 0x50000 then writeLedgReg p k v
  else if k < 0x60000 then
    (if 0x50010 ≤ k && k < 0x50020 then writeRpos p ((k - 0x50010) / 4) (BitVec.ofNat 32 v) else writeFields k v)
  else if k < 0x80000 then writePckReg p k v
  else if k < 0xC0000 then writeHqReg p k v
  else if k < 0x100000 then
    (if k = 0xC0004 then writeImgCtl v
     else if k = 0xC0020 then regOrder p kRegrip 0 (bitsOf v 0 13)
     else writeFields k v)
  else if k < 0x300000 then writeBenchReg p k v
  else if k < 0x400000 then
    (if k = 0x300048 then writeKvOp v
     else if k = 0x380008 then writeFarTrain v
     else writeFields k v)
  else if k < 0x420000 then
    (if k % 0x1000 = 4 then regOrder p kPort (108 + (k - 0x400000) / 0x1000) (bitsOf v 0 1) else writeFields k v)
  else if k < 0x440000 then writeArrReg p k v
  else if k < 0x490000 then writeSvcReg p k v
  else writeFields k v

/-- A write in the window of virtual function `n` (R355): to anything but a writable field it is dropped and counted there. -/
def writeVf (n off v : Nat) : Prog :=
  look fun s => match s.vfReg n off with
    | some (.pair q o) => if o = 4 || !writable (qpAt q + o) then dropCounted (.vf n) else writePairReg (.vf n) q o v
    | some (.reg k) =>
      if !writable k then dropCounted (.vf n)
      else if 0x8000 ≤ off && off < 0x9000 then writeMsix n k (off - 0x8000) v
      else writeFields k v
    | _ => dropCounted (.vf n)

/-- A whole-word write on a path (R11, R15): an unimplemented offset counts, a register of a blank or fenced bench drops. -/
def writeWord (p : Path) (off v : Nat) : Prog :=
  all [startWrite p.osrc,
    look fun s => if !s.reach p off then noteDropped
      else match p with
        | .vf n => if off % 4 = 0 then writeVf n off v else dropCounted p
        | _ => if off % 4 != 0 then dropCounted p
          else if (RegMap.fields off).isEmpty then badAccess p
          else writing p off (writeReg p off v)]

/-- The register paths that arrive over PCI Express. -/
def isFunction : Path → Bool
  | .pf | .vf _ => true
  | _ => false

/-- The place of a path in the order in which the writes of one PERCLK cycle are applied (R512, R543); among virtual functions
the spec gives none, and the model takes them by number. -/
def pathTurn : Path → Nat
  | .pf => 0
  | .vf n => 1 + n
  | .mb => 1000
  | .usb => 1001
  | .spi => 1002
  | .jtag => 1003

/-- Put a write among others of its cycle, behind those of paths that come before its own or at the same place. -/
def amongWrites (x : Path × Nat × Nat × WriteForm) : List (Path × Nat × Nat × WriteForm) → List (Path × Nat × Nat × WriteForm)
  | [] => [x]
  | y :: l => if pathTurn x.1 < pathTurn y.1 then x :: y :: l else y :: amongWrites x l

/-- One write in its form: R9, R357: a narrow one is dropped and counted; a poisoned one is dropped and reported. -/
def writeAs (x : Path × Nat × Nat × WriteForm) : Prog := match x.2.2.2 with
  | .word => writeWord x.1 x.2.1 x.2.2.1
  | .narrow => look fun s => if s.reach x.1 x.2.1 then dropCounted x.1 else noteDropped
  | .poisoned => all [noteDropped, look fun s => when (isFunction x.1 && s.reach x.1 x.2.1) aerUncorrectable]

/-- The bits of a register that a write of 1 clears. -/
def w1cMask (off : Nat) : Nat :=
  (RegMap.fields off).foldl (fun m f => if f.acc == .w1c then m ||| ((2 ^ f.w - 1) * 2 ^ f.lo) else m) 0

/-- R12: W1C bits that an event has set in the cycle of a write end set, whatever the write clears. -/
def holdEvents (off ev : Nat) (q : Prog) : Prog :=
  look fun s => .seq q (when (ev != 0) (look fun u =>
    setWord off ((u.word off).toNat ||| ((s.word off).toNat &&& ev &&& w1cMask off))))

/-- A word that is written alone in its cycle, with the orders of other sources. -/
def writeAlone (p : Path) (off v : Nat) (rivals : List Order) : Prog := all [writeWord p off v, submit rivals, settle]

/-- A register is written: with the reads, the writes, the events and the orders of the same PERCLK cycle (R12, R512, R543, R594,
R653). -/
def execRegisterWrite (p : Path) (off : Nat) (v : Word) (how : WriteHow) (s : State) :
    Host.Outcome State Fault Refusal :=
  done (all [readCycle how.beside.reads,
    holdEvents ((s.keyOf p off).getD off) how.beside.events.toNat
      (each ((how.beside.writes.map fun x => (x.1, x.2.1, x.2.2.toNat, WriteForm.word)).foldl (fun l x => amongWrites x l)
        [(p, off, v.toNat, how.form)]) writeAs), submit how.beside.orders, settle]) s

end Sys2Proof.Machine
end

