-- ==== Sys2Proof/Machine/Selol.lean ====
section
/-!
DEFINITION. Sys2Proof/Machine/Selol.lean: the management bus as a target and the Selol command set (R486 to R505, R512 to R517). One
command is one transaction; what it brings is an `MbXfer`.
-/
namespace Sys2Proof

/-- The CMD byte of a transaction: the code with P in bit 7 (R490). -/
def MbXfer.cmd (x : MbXfer) (code : Nat) : Nat := code + if x.p then 128 else 0

/-- What the sender puts on the bus after CMD; the byte of it at `i`, and `n` bytes from there as a number. -/
def MbXfer.sent (x : MbXfer) : List Byte := x.data ++ x.pec.toList
def MbXfer.at (x : MbXfer) (i : Nat) : Nat := (x.sent.getD i 0).toNat
def MbXfer.le (x : MbXfer) (i n : Nat) : Nat := ofBytes ((x.sent.drop i).take n)

/-- Whether the first byte sent is a COUNT other than the table's. -/
def MbXfer.wrongCount (x : MbXfer) (count : Option Nat) : Bool := match count with
  | some n => !x.sent.isEmpty && x.at 0 != n
  | none => false

end Sys2Proof

namespace Sys2Proof.Machine

/-! ## The check byte (R490) -/

def crcBit (c : Nat) : Nat := if 128 ≤ c then (2 * c % 256) ^^^ 7 else 2 * c
def crcByte (c : Nat) (b : Byte) : Nat := crcBit (crcBit (crcBit (crcBit (crcBit (crcBit (crcBit (crcBit (c ^^^ b.toNat))))))))

/-- The SMBus CRC-8, polynomial x^8 + x^2 + x + 1, initial value 0. -/
def crc8 (bs : List Byte) : Byte := BitVec.ofNat 8 (bs.foldl crcByte 0)

def toByte (n : Nat) : Byte := BitVec.ofNat 8 n

/-- The device's address byte for a write (R486). -/
def State.mbAddr (s : State) : Nat := 2 * s.fld F.MB_STATUS_ADDR

/-! ## The block (R494 to R496) -/

/-- The wake order of a matched address in REST (R495): the transaction is held until the block takes it over. -/
def mbMatch : Prog :=
  look fun s => when (!s.dev.pwr.por && s.inRest) (all [modSvc fun v => { v with holding := true }, orderCycle [wakeOrder .mb]])

/-- Step 5 of R495: the block has taken over the transaction that woke the device. -/
def mbTakeOver : Prog :=
  look fun s => when (s.dev.svc.holding && !s.inRest) (all [
    modSvc fun v => { v with holding := false, woke := true }, incF F.MB_WAKES, logSvc 0xC005 0 114 []])

/-- A transaction that names the device: in REST its address wakes the device first. The target is busy while it is served. -/
def mbServe (q : Prog) : Prog :=
  look fun s => when (!s.dev.pwr.por) (all [mbMatch, mbTakeOver, modSvc fun v => { v with serving := true }, q,
    modSvc fun v => { v with serving := s.dev.svc.serving }])

def execMbAddressMatch (s : State) : Host.Outcome State Fault Refusal := done mbMatch s

/-- R496: MSCL has been low for MB_TIMEOUT: by the device's own stretch while it holds the bus for a wake, else by another node; a
controller transaction in progress ends with it (R510). -/
def mbTimeoutProg : Prog :=
  look fun s => when (!s.dev.pwr.por) (
    if s.bit F.MB_MST_STATUS_BUSY then mstComplete ⟨mstTimeout, 0⟩
    else all [
      incF F.MB_TIMEOUTS, modSvc fun v => { v with toSeen := true, holding := false },
      logC (if s.dev.svc.holding then 0xC002 else 0xC001) 1 114 []])

def execMbTimeout (s : State) : Host.Outcome State Fault Refusal := done mbTimeoutProg s

/-! ## Transactions (R489 to R493, R501) -/

def recordMb (cmd status epoch : Nat) : Prog :=
  all [setF F.MB_LAST_RESULT_CMD cmd, setF F.MB_LAST_RESULT_STATUS status, setF F.MB_LAST_RESULT_EPOCH epoch]

/-- A command that is not acknowledged (R491). -/
def mbBad : Prog := all [incF F.MB_BAD_CMDS, logSvc 0xC004 0 114 []]

/-- The check byte over a transaction's bytes up to and without it: `n` bytes after CMD. -/
def State.mbCheck (s : State) (x : MbXfer) (code n : Nat) : Byte :=
  crc8 (toByte s.mbAddr :: toByte (x.cmd code) :: x.sent.take n)

/-- A write command of `n` bytes after CMD, of which the first is COUNT where there is one: `eff` takes place when the final byte
is acknowledged, and its outcome goes to LAST_RESULT. -/
def mbWrite (code n : Nat) (count : Option Nat) (x : MbXfer) (eff : Prog) : Prog :=
  look fun s =>
    let cmd := x.cmd code
    if !x.p && s.bit F.MB_CFG_REQ_PEC then recordMb cmd 4 0
    else if x.wrongCount count then all [mbBad, recordMb cmd 6 0]
    else if x.sent.length < n + oneIf x.p then recordMb cmd 6 0
    else if x.p && x.at n != (s.mbCheck x code n).toNat then
      all [incF F.MB_PEC_ERRS, modSvc fun v => { v with pecSeen := true }, logSvc 0xC003 0 114 [], recordMb cmd 5 0]
    else all [incF F.MB_CMDS, startWrite .mb, eff,
      look fun s => recordMb cmd s.dev.ledg.lastStatus s.dev.ledg.lastEpoch,
      when (n + oneIf x.p < x.sent.length) mbBad]

/-- The reply of a read, with its check byte where P asks for one: it goes out whole, or was cut short. -/
def mbReply (code : Nat) (x : MbXfer) (bs : List Byte) : Prog :=
  look fun s => when x.full (all [
    emitOut (.reply .mb (if x.p then bs ++ [crc8 (toByte s.mbAddr :: toByte (x.cmd code) :: x.sent ++ toByte (s.mbAddr + 1) :: bs)]
      else bs)),
    incF F.MB_CMDS])

/-- A read command with `n` bytes after CMD, COUNT among them: `q` answers it. -/
def mbRead (n : Nat) (count : Option Nat) (x : MbXfer) (q : Prog) : Prog :=
  if x.wrongCount count || n < x.sent.length then mbBad else when (x.sent.length == n) q

/-- A read whose reply is a function of the state. -/
def mbAnswer (code : Nat) (x : MbXfer) (f : State → List Byte) : Prog :=
  mbServe (mbRead 0 none x (look fun s => mbReply code x (f s)))

/-! ## Status and results (R498, R501) -/

/-- The unread records of read position `k`, oldest first. -/
def State.unreadRecs (s : State) (k : Nat) : List CatchRec :=
  s.dev.log.recs.drop (s.dev.log.recs.length - min s.dev.log.recs.length (s.unread k))

/-- The highest severity among unread records, as 1 to 4; 0 with none. -/
def State.maxSev (s : State) (k : Nat) : Nat := (s.unreadRecs k).foldl (fun m r => max m (r.sev + 1)) 0

/-- The GET_STATUS word (R498). -/
def State.mbStatus (s : State) : Nat :=
  oneIf (0 < s.unread 1) + 2 * (s.maxSev 1) + 16 * oneIf (s.bit F.MB_MST_STATUS_BUSY) + 32 * oneIf s.dev.svc.pecSeen +
  64 * oneIf s.dev.svc.woke + 128 * oneIf s.dev.svc.toSeen + 256 * s.enabledMask

def execGetId (x : MbXfer) (s : State) : Host.Outcome State Fault Refusal :=
  done (mbAnswer 0x01 x fun s => toByte 12 :: toBytes 4 (s.regValue 0) ++ toBytes 4 (s.regValue 4) ++ toBytes 4 (s.regValue 8)) s

def execGetStatus (x : MbXfer) (s : State) : Host.Outcome State Fault Refusal :=
  done (mbAnswer 0x02 x fun s => toBytes 2 s.mbStatus) s

/-- R489: a receive byte has no CMD, hence no check byte. -/
def execReceiveByte (s : State) : Host.Outcome State Fault Refusal :=
  done (mbServe (look fun s => emitOut (.reply .mb (toBytes 1 s.mbStatus)))) s

def execLastResult (x : MbXfer) (s : State) : Host.Outcome State Fault Refusal :=
  done (mbAnswer 0x03 x fun s => toByte 4 :: toBytes 4 (s.word F.MB_LAST_RESULT_CMD.off).toNat) s

def execClearFlags (x : MbXfer) (s : State) : Host.Outcome State Fault Refusal :=
  done (mbServe (mbWrite 0x04 0 none x (modSvc fun v => { v with pecSeen := false, woke := false, toSeen := false }))) s

/-! ## FILTER and TIMEOUT (R496, R503) -/

def execFilterWrite (x : MbXfer) (s : State) : Host.Outcome State Fault Refusal :=
  done (mbServe (mbWrite 0x06 1 none x (setF F.MB_FILT_LEN (x.at 0)))) s

def execFilterRead (x : MbXfer) (s : State) : Host.Outcome State Fault Refusal :=
  done (mbAnswer 0x06 x fun s => toBytes 1 (s.fld F.MB_FILT_LEN)) s

def execTimeoutWrite (x : MbXfer) (s : State) : Host.Outcome State Fault Refusal :=
  done (mbServe (mbWrite 0x07 1 none x (if 5 ≤ x.at 0 && x.at 0 ≤ 35 then setF F.MB_TIMEOUT_MS (x.at 0) else noteStatus 3))) s

def execTimeoutRead (x : MbXfer) (s : State) : Host.Outcome State Fault Refusal :=
  done (mbAnswer 0x07 x fun s => toBytes 1 (s.fld F.MB_TIMEOUT_MS)) s

/-! ## Register access (R499) -/

/-- Whether an address lies in the register space of the management bus, the USB port and the SPI target. -/
def addrOk (a : Nat) : Bool := a % 4 == 0 && decide (a < 0x4000000)

/-- Read `n` words from an address upward and go on with their bytes; a word out of range reads zero. -/
def readWords (p : Path) (acked : Bool) : Nat → Nat → List Byte → (List Byte → Prog) → Prog
  | 0, _, bs, k => k bs
  | n + 1, a, bs, k =>
    if addrOk a then
      all [fetchFor p a, look fun s => all [readEffect p a acked, readWords p acked n (a + 4) (bs ++ toBytes 4 (s.readWord p a)) k]]
    else readWords p acked n (a + 4) (bs ++ toBytes 4 0) k

/-- STATUS of a read of `n` words: RANGE where one of them is out of range. -/
def rangeStatus (a n : Nat) : Nat := if (List.range n).all fun i => addrOk (a + 4 * i) then 0 else 3

def mbRegRead (code n a : Nat) (x : MbXfer) : Prog :=
  readWords .mb x.full n a [] fun bs => mbReply code x (toByte (1 + 4 * n) :: toByte (rangeStatus a n) :: bs)

def execRegRead (x : MbXfer) (s : State) : Host.Outcome State Fault Refusal :=
  done (mbServe (mbRead 5 (some 4) x (mbRegRead 0x10 1 (x.le 1 4) x))) s

/-- An N outside 1 to 7 is not acknowledged. -/
def execRegReadN (x : MbXfer) (s : State) : Host.Outcome State Fault Refusal :=
  done (mbServe (mbRead 6 (some 5) x
    (if 1 ≤ x.at 5 && x.at 5 ≤ 7 then mbRegRead 0x12 (x.at 5) (x.le 1 4) x else mbBad))) s

/-- A write through a service path: out of range it writes nothing (R499). -/
def serviceWrite (p : Path) (a v : Nat) (rivals : List Order) : Prog :=
  if addrOk a then writeAlone p a v rivals else all [noteStatus 3, submit rivals, settle]

def execRegWrite (x : MbXfer) (s : State) : Host.Outcome State Fault Refusal :=
  done (mbServe (mbWrite 0x11 9 (some 8) x (serviceWrite .mb (x.le 1 4) (x.le 5 4) x.rivals))) s

/-! ## Orders (R500) -/

def execSelolOrder (x : MbXfer) (rivals : List Order) (s : State) : Host.Outcome State Fault Refusal :=
  done (mbServe (mbWrite 0x20 7 (some 6) x
    (orderCycle ({ src := .mb, kind := x.at 2, unit := x.at 1, arg := x.le 3 4 } :: rivals)))) s

def execSelolRegrip (x : MbXfer) (rivals : List Order) (s : State) : Host.Outcome State Fault Refusal :=
  done (mbServe (mbWrite 0x21 2 none x
    (orderCycle ({ src := .mb, kind := kRegrip, unit := 0, arg := x.le 0 2 % 2 ^ 13 } :: rivals)))) s

/-- R497, R516: the ledger's view of a unit, never the unit's own. -/
def execGetUnit (x : MbXfer) (s : State) : Host.Outcome State Fault Refusal :=
  done (mbServe (mbRead 2 (some 1) x (look fun s =>
    let u := x.at 1
    let w := if u < 117 then s.lineWord u else 0
    mbReply 0x22 x ([toByte 4, toByte u, toByte (w % 16)] ++ toBytes 2 (w / 65536))))) s

/-! ## Catches and temperature (R502, R566) -/

def execCatchRead (x : MbXfer) (s : State) : Host.Outcome State Fault Refusal :=
  done (mbAnswer 0x30 x fun s => match (s.unreadRecs 1).head? with
    | some r => toByte 32 :: r.bytes
    | none => [0]) s

def execCatchNext (x : MbXfer) (s : State) : Host.Outcome State Fault Refusal :=
  done (mbServe (mbWrite 0x31 0 none x (look fun s =>
    if s.unread 1 = 0 then noteStatus 3 else setF (F.CATCH_RPOS 1) (s.fld (F.CATCH_RPOS 1) + 1)))) s

def execCatchInfo (x : MbXfer) (s : State) : Host.Outcome State Fault Refusal :=
  done (mbAnswer 0x32 x fun s => toBytes 2 (min 1024 (s.unread 1))) s

def execGetTemp (x : MbXfer) (s : State) : Host.Outcome State Fault Refusal :=
  done (mbAnswer 0x40 x fun s => toBytes 2 (s.fld F.PCK_TEMP_TEMP)) s

/-! ## What names no command (R489, R491, R505) -/

def execMbBadCommand (s : State) : Host.Outcome State Fault Refusal := done (mbServe mbBad) s

/-- R489: the address is acknowledged and nothing is done. -/
def execQuickCommand (s : State) : Host.Outcome State Fault Refusal := done (mbServe .nop) s

/-- R505: the answer to the alert response address, never in REST. -/
def execAlertResponse (s : State) : Host.Outcome State Fault Refusal :=
  done (when (!s.dev.pwr.por && !s.inRest && s.bit F.MB_CFG_ARA_EN && decide (0 < s.unread 1))
    (emitOut (.reply .mb (toBytes 1 s.mbAddr)))) s

end Sys2Proof.Machine
end

