-- ==== Sys2Proof/Machine/SpiPort.lean ====
section
/-!
DEFINITION. Sys2Proof/Machine/SpiPort.lean: the SPI target (R526 to R532, R543 to R545). One command is one frame.
-/
namespace Sys2Proof.Machine

/-- The image path takes words: a load from the SPI target is open, or the Chuck boots from it (R528, R531). -/
def State.spiOpen (s : State) : Bool := match s.dev.chuck.load with
  | some l => l.src == srcSpi && s.fld F.IMG_STATUS_CHUCK == 1 && !l.complete
  | none => s.dev.chuck.booting && s.ready && s.mayLoad 0 0 srcSpi

/-- The status byte (R528). -/
def State.spiStatus (s : State) : Nat :=
  oneIf (!s.spiOpen) + 2 * oneIf s.dev.svc.rdMiss + 4 * oneIf (0 < s.unread 3) + 8 * oneIf s.inRest + 16 * oneIf s.dev.svc.partialFrame

/-- A frame that the target takes: any but READ_STATUS and WAKE is ignored in REST. R532 says so; R15 and R556 say that the SPI
target reaches the rest-domain blocks in REST. The model follows R532, as the rule that is about the frames (log entry 117);
while a cold reset is held READ and WRITE frames reach those blocks. -/
def spiFrame (q : Prog) : Prog :=
  look fun s => when (!s.dev.pwr.por && !s.inRest) (all [modSvc fun v => { v with inFrame := true }, q,
    modSvc fun v => { v with inFrame := s.dev.svc.inFrame }])

/-- A frame that is ignored and counted (R527, R529). -/
def spiBad : Prog := all [incF F.SPIT_BAD_FRAMES, logSvc 0xC021 0 115 []]

/-- A frame that ended within a word (R529). -/
def spiPartial : Prog :=
  all [modSvc fun v => { v with partialFrame := true }, incF F.SPIT_PARTIALS, logSvc 0xC020 0 115 []]

def recordSpi (cmd status epoch : Nat) : Prog :=
  all [setF F.SPIT_LAST_RESULT_CMD cmd, setF F.SPIT_LAST_RESULT_STATUS status, setF F.SPIT_LAST_RESULT_EPOCH epoch]

/-- A READ_STATUS frame; a frame cut within a byte completes nothing. -/
def readStatusFrame (cut : Bool) : Prog :=
  look fun s => when (!s.dev.pwr.por)
    (if cut then modSvc fun v => { v with partialFrame := true }
    else all [emitOut (.reply .spi (toBytes 1 s.spiStatus)), modSvc fun v => { v with rdMiss := false, partialFrame := false }])

def execReadStatus (cut : Bool) (s : State) : Host.Outcome State Fault Refusal := done (readStatusFrame cut) s

/-- The words of a READ from index `i` on: a word that is late is sent as all ones, and neither it nor a word after it clears a field
(R530). -/
def spiWords (late : List Nat) : Nat → Nat → Nat → List Byte → (List Byte → Prog) → Prog
  | 0, _, _, bs, k => k bs
  | n + 1, i, a, bs, k =>
    if late.contains i then spiWords late n (i + 1) (a + 4) (bs ++ toBytes 4 0xFFFFFFFF) k
    else if addrOk a then
      all [fetchFor .spi a, look fun s => all [readEffect .spi a (late.all fun j => i < j),
        spiWords late n (i + 1) (a + 4) (bs ++ toBytes 4 (s.readWord .spi a)) k]]
    else spiWords late n (i + 1) (a + 4) (bs ++ toBytes 4 0) k

/-- A word of the frame lay outside the register space: RANGE (R527). -/
def spiRange (cmd : Nat) : Prog := all [recordSpi cmd 3 0, logSvc 0xC021 0 115 []]

def spiReadProg (addr count sent : Nat) (late : List Nat) (cut : Bool) : Prog :=
  if count = 0 || 64 < count then spiBad
  else
    let n := min count sent
    all [
      spiWords late n 0 addr [] fun bs => emitOut (.reply .spi bs),
      when (late.any fun i => i < n || (cut && i == n && decide (n < count)))
        (all [modSvc fun v => { v with rdMiss := true }, logSvc 0xC022 0 115 []]),
      when (rangeStatus addr count != 0) (spiRange 0x0B),
      when (cut && n < count) spiPartial]

/-- A READ frame: `sent` words were shifted out whole, the values of those in `late` were not ready in time, and the frame may have
been released within the next one. -/
def execSpiRead (addr count sent : Nat) (late : List Nat) (cut : Bool) (s : State) : Host.Outcome State Fault Refusal :=
  done (spiFrame (spiReadProg addr count sent late cut)) s

/-- Words written one after the other; `rec` records the first outcome that is not OK, or else the last. -/
def writeWords (p : Path) (rec : Nat → Nat → Prog) : List Nat → Nat → Nat → Prog
  | [], _, _ => .nop
  | w :: ws, a, st => all [startWrite p.osrc, serviceWrite p a w [],
      look fun s => all [when (st == 0) (rec s.dev.ledg.lastStatus s.dev.ledg.lastEpoch),
        writeWords p rec ws (a + 4) (if st = 0 then s.dev.ledg.lastStatus else st)]]

def spiWriteProg (addr count : Nat) (words : List Word) (cut : Bool) : Prog :=
  if count = 0 || 64 < count then spiBad
  else
    let ws := (words.take count).map BitVec.toNat
    all [
      writeWords .spi (recordSpi 0x02) ws addr 0,
      when (!ws.isEmpty && rangeStatus addr ws.length != 0) (logSvc 0xC021 0 115 []),
      when (cut && ws.length < count) spiPartial]

def execSpiWrite (addr count : Nat) (words : List Word) (cut : Bool) (s : State) : Host.Outcome State Fault Refusal :=
  done (spiFrame (spiWriteProg addr count words cut)) s

/-- Image words for the Chuck; the first of a boot opens the load (R531). -/
def imgStreamProg (words : List Word) (cut : Bool) : Prog :=
  all [
    look fun s => when (s.spiOpen && !words.isEmpty) (all [
      when s.dev.chuck.load.isNone (beginLoad 0 0 srcSpi 0),
      loadBytes (words.flatMap fun w => toBytes 4 w.toNat)]),
    when cut spiPartial]

def execImgStream (words : List Word) (cut : Bool) (s : State) : Host.Outcome State Fault Refusal :=
  done (spiFrame (imgStreamProg words cut)) s

/-- R532: a WAKE frame submits the wake order. -/
def execSpiWake (s : State) : Host.Outcome State Fault Refusal :=
  done (when (!s.dev.pwr.por) (orderCycle [wakeOrder .spi])) s

/-- R527, R529: a frame whose CMD is unknown, or that ended before its COUNT. -/
def execSpitBadFrame (s : State) : Host.Outcome State Fault Refusal := done (spiFrame spiBad) s

end Sys2Proof.Machine
end

