-- ==== Sys2Proof/Machine/UsbPort.lean ====
section
/-!
DEFINITION. Sys2Proof/Machine/UsbPort.lean: the USB service port (R533 to R538, R545, R547, R562): its states, the standard and the
vendor requests, the image endpoint and the stream endpoint.
-/
namespace Sys2Proof.Machine

/-! ## States (R533, R536, R549) -/

def State.usb (s : State) : Nat := s.unitState 116

def execUsbVbusApplied (s : State) : Host.Outcome State Fault Refusal :=
  done (all [setPins fun p => { p with vbus := true }, when (!s.dev.pwr.por) usbCheck]) s

/-- A bus reset, or the loss of VBUS (R536). -/
def usbReset (vbusLost hs : Bool) : Prog :=
  look fun s => when (s.usb != 0) (all [
    incF F.USB_RESETS, logSvc 0xC030 0 116 [],
    usbLoseLoad, usbForget,
    if vbusLost then declareUnit 116 0 else all [declareUnit 116 2, setB F.USB_STATUS_HS hs]])

def execUsbReset (vbusLost hs : Bool) (s : State) : Host.Outcome State Fault Refusal :=
  done (all [when vbusLost (setPins fun p => { p with vbus := false }), usbReset vbusLost hs]) s

def execUsbSuspend (s : State) : Host.Outcome State Fault Refusal :=
  done (when (1 ≤ s.usb && s.usb ≤ 4) (all [modSvc fun v => { v with usbBefore := s.usb }, declareUnit 116 5])) s

def execUsbResume (s : State) : Host.Outcome State Fault Refusal :=
  done (when (s.usb == 5) (declareUnit 116 s.dev.svc.usbBefore)) s

/-! ## Requests on EP0 (R534) -/

/-- EP0 answers requests from the Default state on. -/
def State.ep0 (s : State) : Bool := 2 ≤ s.usb && s.usb ≤ 4

def usbStall : Prog := all [emitOut (.stall .usb), logSvc 0xC033 0 116 []]
def ep0 (q : Prog) : Prog := look fun s => when s.ep0 q

/-- The answer to a request, cut to the length asked for. -/
def usbAnswer (r : UsbStd) (bs : List Byte) : Prog := emitOut (.reply .usb (bs.take r.wLength))

def byteList (l : List Nat) : List Byte := l.map toByte

/-- The descriptors (R533): device, device qualifier, and the configuration at a speed under its type. -/
def State.deviceDesc (s : State) : List Byte :=
  byteList [18, 1, 0x00, 0x02, 0, 0, 0, 64] ++ toBytes 2 (bitsOf (s.regValue 0) 16 16) ++ byteList [0x20, 0x08, 0x01, 0x0A, 0, 0, 0, 1]
def qualifierDesc : List Byte := byteList [10, 6, 0x00, 0x02, 0, 0, 0, 64, 1, 0]
def endpointDesc (addr size i : Nat) : List Byte :=
  byteList [7, 5, addr, 2] ++ toBytes 2 size ++ [Config.usbDescriptor 5 i]
def configDesc (type size : Nat) : List Byte :=
  byteList [9, type, 32, 0, 1, 1, 0, 0xC0] ++ [Config.usbDescriptor 2 8] ++ byteList [9, 4, 0, 0, 2, 0xFF, 0, 0, 0] ++
  endpointDesc 0x01 size 1 ++ endpointDesc 0x82 size 2

/-- The packet size of the bulk endpoints at the speed in use. -/
def State.bulkSize (s : State) : Nat := if s.bit F.USB_STATUS_HS then 512 else 64

/-- The descriptor of a type, of those that the device has. -/
def State.usbDesc (s : State) (type index : Nat) : Option (List Byte) :=
  if index != 0 then none
  else if type = 1 then some s.deviceDesc
  else if type = 2 then some (configDesc 2 s.bulkSize)
  else if type = 6 then some qualifierDesc
  else if type = 7 then some (configDesc 7 (if s.bit F.USB_STATUS_HS then 64 else 512))
  else none

/-- The bit of an endpoint in the mask of halted endpoints: EP1 OUT and EP2 IN. -/
def epBit (w : Nat) : Nat := if w % 256 = 0x01 then 1 else if w % 256 = 0x82 then 2 else 0

/-- The port reaches the configured state, with nothing halted (R533); a boot that waits for it counts anew (R314). -/
def usbConfigure : Prog :=
  look fun s => all [
    modSvc fun v => { v with usbHalt := 0 },
    when (s.usb != 4) (all [declareUnit 116 4, logSvc 0xC031 0 116 [s.fld F.USB_STATUS_HS],
      when (s.dev.chuck.booting && s.dev.chuck.load.isNone && s.dev.chuck.sources.head? == some srcUsb)
        (modChuck fun c => { c with sourceAt := s.now })])]

/-- A standard request of USB 2.0 chapter 9 in the state in which that chapter answers it; anything else stalls. -/
def usbStandard (r : UsbStd) : Prog :=
  look fun s =>
    let set := modSvc
    match r.bmRequestType, r.bRequest with
    | 0x80, 6 => (match s.usbDesc (r.wValue / 256) (r.wValue % 256) with
      | some d => usbAnswer r d
      | none => usbStall)
    | 0x00, 5 => if s.usb = 4 || 127 < r.wValue then usbStall
      else all [set fun v => { v with usbAddr := r.wValue }, declareUnit 116 (if r.wValue = 0 then 2 else 3)]
    | 0x00, 9 => if s.usb = 2 || 1 < r.wValue then usbStall
      else if r.wValue = 1 then usbConfigure else declareUnit 116 3
    | 0x80, 8 => if s.usb = 2 then usbStall else usbAnswer r (byteList [oneIf (s.usb == 4)])
    | 0x80, 0 => if s.usb = 2 then usbStall else usbAnswer r (byteList [1, 0])
    | 0x81, 0 => if s.usb = 4 && r.wIndex = 0 then usbAnswer r (byteList [0, 0]) else usbStall
    | 0x81, 10 => if s.usb = 4 && r.wIndex = 0 then usbAnswer r (byteList [0]) else usbStall
    | 0x01, 11 => if s.usb = 4 && r.wIndex = 0 && r.wValue = 0 then set fun v => { v with usbHalt := 0 } else usbStall
    | 0x82, 0 => if s.usb = 2 || (r.wIndex % 128 != 0 && (s.usb != 4 || epBit r.wIndex = 0)) then usbStall
      else usbAnswer r (byteList [oneIf (epBit r.wIndex != 0 && s.dev.svc.usbHalt &&& epBit r.wIndex != 0), 0])
    | 0x02, 1 => if s.usb = 4 && r.wValue = 0 && epBit r.wIndex != 0 then
        set fun v => { v with usbHalt := v.usbHalt - (v.usbHalt &&& epBit r.wIndex) } else usbStall
    | 0x02, 3 => if s.usb = 4 && r.wValue = 0 && epBit r.wIndex != 0 then
        set fun v => { v with usbHalt := v.usbHalt ||| epBit r.wIndex } else usbStall
    | _, _ => usbStall

def execUsbStandardRequest (r : UsbStd) (s : State) : Host.Outcome State Fault Refusal := done (ep0 (usbStandard r)) s

/-- Whether a data stage of `len` bytes from an address is one that the table gives. -/
def usbLenOk (len : Nat) : Bool := 4 ≤ len && len ≤ 4096 && len % 4 == 0

/-- A REG_READ; `acked` says whether its status stage completed (R535). -/
def execUsbRegRead (addr len : Nat) (acked : Bool) (s : State) : Host.Outcome State Fault Refusal :=
  done (ep0 (if usbLenOk len && rangeStatus addr (len / 4) = 0 then
      readWords .usb acked (len / 4) addr [] fun bs => emitOut (.reply .usb bs)
    else usbStall)) s

def recordUsb (cmd status epoch : Nat) : Prog := modSvc fun v => { v with usbLast := (cmd, status, epoch) }

/-- R535: the words take effect together when the last data packet is acknowledged. -/
def usbWrite (addr : Nat) (bytes : List Byte) : Prog :=
  if !usbLenOk bytes.length then usbStall
  else if rangeStatus addr (bytes.length / 4) != 0 then all [recordUsb 0x02 3 0, usbStall]
  else writeWords .usb (recordUsb 0x02) (wordsOf bytes) addr 0

def execUsbRegWrite (addr : Nat) (bytes : List Byte) (s : State) : Host.Outcome State Fault Refusal :=
  done (ep0 (usbWrite addr bytes)) s

/-- R325, R534: a load is opened for EP1; KIND 3 stalls. -/
def execImgStart (kind part len : Nat) (s : State) : Host.Outcome State Fault Refusal :=
  done (ep0 (if len != 0 || 3 ≤ kind || 8 ≤ part then usbStall
    else all [recordUsb 0x03 0 0, requestLoad kind part srcUsb 0])) s

/-- R346: the load in progress is ended. -/
def execImgAbort (s : State) : Host.Outcome State Fault Refusal :=
  done (ep0 (all [recordUsb 0x04 0 0, endLoad (fun _ => true) rAborted])) s

def execUsbLastResult (s : State) : Host.Outcome State Fault Refusal :=
  done (ep0 (look fun s =>
    let l := s.dev.svc.usbLast
    emitOut (.reply .usb (toBytes 1 l.1 ++ toBytes 1 l.2.1 ++ toBytes 2 l.2.2)))) s

/-! ## EP1: images (R537) -/

/-- The load that EP1 feeds is open, or the Chuck boots from USB. -/
def State.ep1Open (s : State) : Bool := match s.dev.chuck.load with
  | some l => l.src == srcUsb && s.fld F.IMG_STATUS_CHUCK == 1 && !l.complete
  | none => s.dev.chuck.booting && s.ready && s.mayLoad 0 0 srcUsb

def ep1 (bytes : List Byte) : Prog :=
  look fun s =>
    if s.dev.svc.usbHalt % 2 = 1 then emitOut (.stall .usb)
    else if !s.ep1Open then emitOut (.nak .usb)
    else all [when s.dev.chuck.load.isNone (beginLoad 0 0 srcUsb 0), loadBytes bytes]

def execUsbEp1Packet (bytes : List Byte) (s : State) : Host.Outcome State Fault Refusal :=
  done (when (s.usb == 4 && bytes.length ≤ s.bulkSize) (ep1 bytes)) s

/-! ## EP2: catches and register samples (R538) -/

/-- A record: its tag, then the body. -/
def ep2Record (type : Nat) (body : List Byte) : List Byte :=
  byteList [type, 0] ++ toBytes 2 body.length ++ toBytes 4 0 ++ body

/-- The registers of a sample. -/
def State.sampleRegs (s : State) : List Nat :=
  (List.range (s.fld F.USB_STRM_CTL_NREGM1 + 1)).map fun k => 4 * s.fld (F.USB_STRM_ADDR_WORD k)

def State.sampleBody (s : State) : List Byte :=
  toBytes 8 s.now ++ s.sampleRegs.flatMap fun a => toBytes 4 (if (RegMap.fields a).isEmpty then 0 else s.regValue a)

/-- Drop the oldest sample that is not being sent. -/
def dropOldest (sending : Bool) (l : List (List Byte)) : List (List Byte) := if sending then l.take 1 ++ l.drop 2 else l.drop 1

def takeSample : Prog :=
  look fun s =>
    let v := s.dev.svc
    let sending := v.ep2.any fun e => e.1.isNone
    let full := decide (16 ≤ v.samples.length)
    all [modSvc fun v => { v with samples := (if full then dropOldest sending v.samples else v.samples) ++ [s.sampleBody] },
      when full (all [incF F.USB_STRM_DROPS, logSvc 0xC034 0 116 []])]

/-- The period of the register samples in ticks, and whether one is due (R538). -/
def State.samplePeriod (s : State) : Nat := 250000 * s.fld F.USB_STRM_CTL_PERIOD_MS
def State.sampleDue (s : State) : Bool := s.fld F.USB_STRM_CTL_PERIOD_MS != 0 && s.reached (s.dev.svc.strmAt + s.samplePeriod)

def execUsbStreamSample (s : State) : Host.Outcome State Fault Refusal :=
  done (when (s.ready && s.sampleDue) (all [modSvc fun v => { v with strmAt := v.strmAt + s.samplePeriod }, takeSample])) s

/-- The record that EP2 sends next: an unread catch before a sample. -/
def State.ep2Next (s : State) : Option (Option Nat × List Byte) :=
  match (if s.bit F.USB_STRM_CTL_CATCH_EN then (s.unreadRecs 2).head? else none) with
  | some r => some (some r.serial, ep2Record 1 r.bytes)
  | none => s.dev.svc.samples.head?.map fun b => (none, ep2Record 2 b)

/-- A record has gone out whole: the read position moves past its catch, or its sample leaves. -/
def ep2Sent : Option Nat → Prog
  | some n => look fun s => when (s.fld (F.CATCH_RPOS 2) == n) (setF (F.CATCH_RPOS 2) (n + 1))
  | none => modSvc fun v => { v with samples := v.samples.drop 1 }

/-- The host has taken and acknowledged one packet of EP2. -/
def ep2Packet : Prog :=
  look fun s => match (match s.dev.svc.ep2 with
    | some e => some e
    | none => s.ep2Next) with
  | none => .nop
  | some e =>
    let rest := e.2.drop s.bulkSize
    all [emitOut (.reply .usb (e.2.take s.bulkSize)),
      modSvc fun v => { v with ep2 := if rest.isEmpty then none else some (e.1, rest) },
      when rest.isEmpty (ep2Sent e.1)]

def execUsbEp2Ack (s : State) : Host.Outcome State Fault Refusal :=
  done (when (s.usb == 4 && s.dev.svc.usbHalt / 2 % 2 == 0) ep2Packet) s

end Sys2Proof.Machine
end

