-- ==== Sys2Proof/Machine/JtagPort.lean ====
section
/-!
DEFINITION. Sys2Proof/Machine/JtagPort.lean: test access (R539 to R543). One command is one use of an instruction of the TAP.
-/
namespace Sys2Proof.Machine

/-- The TAP works out of power-on reset. -/
def tap (q : Prog) : Prog := look fun s => when (!s.dev.pwr.por) q

/-- An instruction becomes the current one at Update-IR. -/
def selectIr (ir : Nat) : Prog := modSvc fun v => { v with jtagIr := ir }

/-- TRST_N or Test-Logic-Reset selects IDCODE. -/
def execTapReset (s : State) : Host.Outcome State Fault Refusal := done (tap (selectIr 1)) s

/-- The 32 bits of IDCODE (R539). -/
def idcodeWord : Nat := 0x10820001 + 2 * Config.jtagManufacturer.toNat

def execIdcode (s : State) : Host.Outcome State Fault Refusal :=
  done (tap (all [selectIr 1, emitOut (.reply .jtag (toBytes 4 idcodeWord))])) s

/-- SAMPLE/PRELOAD takes the levels at the balls and loads the boundary register. -/
def execSamplePreload (pins preload : Nat) (s : State) : Host.Outcome State Fault Refusal :=
  done (tap (all [selectIr 2, modSvc fun v => { v with sampled := pins, boundary := preload }])) s

/-- The balls come under the boundary register (R541): the link goes down with the effects of a host reset. -/
def takeBalls (ir : Nat) : Prog :=
  tap (look fun s => all [when (s.ready && s.linkUp) (hostResetProg false), selectIr ir, logC 0xC040 1 127 []])

def execExtest (s : State) : Host.Outcome State Fault Refusal := done (takeBalls 3) s
def execClamp (s : State) : Host.Outcome State Fault Refusal := done (takeBalls 4) s
def execHighz (s : State) : Host.Outcome State Fault Refusal := done (takeBalls 5) s
def execExtestPulse (s : State) : Host.Outcome State Fault Refusal := done (takeBalls 6) s
def execExtestTrain (s : State) : Host.Outcome State Fault Refusal := done (takeBalls 7) s
def execBypass (s : State) : Host.Outcome State Fault Refusal := done (tap (selectIr 0xFF)) s

/-- A debug instruction: with the debug lock fused it acts as BYPASS, which is logged once per selection (R542). -/
def debugIr (ir : Nat) (q : Prog) : Prog :=
  tap (look fun s => all [
    when (fuseBit s.dev.chuck 2 && s.dev.svc.jtagIr != ir) (logSvc 0xC041 0 127 []),
    selectIr ir, when (!fuseBit s.dev.chuck 2) q])

/-- Update-DR of DBG_ADDR; without WRITE it reads (R542). -/
def execDbgAddr (addr : Nat) (rw : Bool) (s : State) : Host.Outcome State Fault Refusal :=
  done (debugIr 0x40 (all [
    modSvc fun v => { v with dbgAddr := addr % 2 ^ 32 + 2 ^ 32 * oneIf rw },
    when (!rw) (all [fetchFor .jtag (addr % 2 ^ 32), look fun s => all [
      modSvc fun v => { v with dbgData := BitVec.ofNat 32 (if addr % 4 = 0 then s.readWord .jtag (addr % 2 ^ 32) else 0) },
      when (addr % 4 == 0) (readEffect .jtag (addr % 2 ^ 32) true)]])])) s

/-- DBG_DATA: what was read is captured, and with WRITE the data is written at Update-DR (R542, R543). -/
def execDbgData (v : Word) (s : State) : Host.Outcome State Fault Refusal :=
  done (debugIr 0x41 (look fun s => all [
    emitOut (.reply .jtag (toBytes 4 s.dev.svc.dbgData.toNat)),
    when (bitsOf s.dev.svc.dbgAddr 32 1 == 1) (writeAlone .jtag (s.dev.svc.dbgAddr % 2 ^ 32) v.toNat [])])) s

end Sys2Proof.Machine
end

