-- ==== Sys2Proof/Machine/RestOps.lean ====
section
/-!
DEFINITION. Sys2Proof/Machine/RestOps.lean: the end of REST entry (R555, R578) and the end of REST exit (R54, R225, R226, R558, R559).
-/
namespace Sys2Proof.Machine

/-! ## Entry (R555) -/

/-- What REST keeps of a field (R577); ledger lines change only by the actions given for REST. -/
def restKeeps (off : Nat) (f : FieldSpec) : Bool :=
  isUnitLine off || f.kept == .A || f.kept == .W || f.kept == .H

/-- Step 4: the audio ports are disabled, the array's paths unframed and its outputs silent, the fabric's cells unreleased and
its registers and memories lost (R422, R447, R465, R578). -/
def restPins : Prog :=
  all [
    look fun s => each ((List.range 4).filter fun k => s.bit (F.AUD_EN_EN k)) fun k => all [unframePort k, acceptPort k false],
    unframeAll,
    each (List.range 8) fun k => modOut (outKey 112 k) fun _ => {},
    modFab fun f => { cfg := f.cfg, pins := f.pins }, setB F.ARR_FAB_STATUS_RELEASED false, setF F.ARR_FAB_SWOUT 0,
    -- the die and the fabric are in REST; a calibration under way is lost with the power of its paths
    modArr fun a => { a with calIn := 0, calOut := 0 }, setF F.ARR_CAL_CTL_BUSY 0,
    look fun s => each ([112, 113].filter fun u => s.unitState u != 0) fun u => declareUnit u 3]

/-- Step 6: the enables and the Store's retention (R555). -/
def restRails : Prog :=
  look fun s =>
    let sr := bitsOf s.dev.farCfg 9 1 == 1
    let keep := s.dev.pwr.restKeep
    all [setPins fun p => { p with coreEn := false, farEn := p.farEn && sr, storeRet := keep, storeEn := keep },
      declareUnit 41 (if keep then 2 else 0)]

/-- Whether far memory stays in self-refresh through REST: it is ready, and REST_SR was set at its last START (R226, R239). -/
def State.selfRefreshes (s : State) : Bool := s.unitState 42 == 3 && bitsOf s.dev.farCfg 9 1 == 1

def restEntry : Prog :=
  all [
    look fun s => when (s.unitState 116 != 0) usbDetach,
    -- step 2
    each ((List.range 64).map (· + 44)) fun u => look fun s => when (s.unitState u != 0) (setUnit u 0),
    modDev fun d => { d with numVfs := 0 },
    -- step 3
    look fun s => when s.selfRefreshes (all [modDev fun d => { d with farKeep := true }, declareUnit 42 4]),
    restPins,
    .act (.lose restKeeps), restoreTileClk,
    modSvc fun v => { v with pollFails := [], startWaits := false },
    modDev fun d => { d with tiles := [] },
    -- R51
    setF F.TB_SET_CTL_ARM 0,
    -- step 5
    modHs fun h => { h with restEntry := h.now, restFrac := 0, ppsOutLeft := 0, modeWas := none },
    restRails,
    setF F.PCK_STATUS_DEV 3,
    -- R581
    look fun s => match s.dev.pwr.wakePending with
      | some c => all [modPwr fun w => { w with wakePending := none }, startWakeUp c]
      | none => .nop]

/-- REST entry is complete, and with it the controller transaction that was in progress (R511). -/
def execRestEntryDone (s : State) : Host.Outcome State Fault Refusal :=
  done (when (!s.dev.pwr.por && !s.heldReset && s.devState == 2 && !s.bit F.MB_MST_STATUS_BUSY) restEntry) s

/-! ## Exit (R558, R559) -/

/-- An active plane is lost with the Store in which its plane region lies (R225, R559). -/
def dropPlane (p : Nat) (pl : Plane) : Prog :=
  look fun s => all [
    each pl.livePools fun y => setF (F.KV_POOL_A_VALID y.2) 0,
    modPart p fun x => { x with active := none, regrip := none },
    each (pl.benchList.filter fun b => !s.fenced b) blankBench,
    setF (F.KV_WALKERS_MASK p) 0, setF (F.IMG_ABUILD p) 0]

/-- The Store after REST: kept, or zero-filled, with staged and active planes lost and the Chuck to run (R225, R328, R559). -/
def resumeStore : Prog :=
  look fun s =>
    if s.dev.pwr.restKeep then setF F.STORE_STATUS_KEPT 1
    else all [
      each partIds loseStaged,
      each partIds fun p => match (s.part p).active with
        | some pl => dropPlane p pl
        | none => .nop,
      zeroFill storeAt (storeAt + storeSize), setF F.STORE_STATUS_KEPT 0,
      modDev fun d => { d with slots := [] }, setActSeq, modChuck fun c => { c with bootDue := true }]

/-- Far memory that was ready retrains from the saved results, or is untrained with its contents lost (R226, R578). -/
def resumeFar : Prog :=
  look fun s =>
    if s.unitState 42 == 4 then farTrain s.dev.farCfg
    else when (s.unitState 42 == 3 || s.unitState 42 == 2) (all [declareUnit 42 1, zeroFill farAt (farAt + 2 ^ 37)])

/-- The array die is ready again, its paths unframed and its outputs silent (R422). -/
def resumeArray : Prog := look fun s => when (s.unitState 112 == 3) (declareUnit 112 2)

/-- The fabric restarts from step 3 of R444. -/
def resumeFabric : Prog :=
  look fun s => when (s.unitState 113 == 3) (all [
    setF F.ARR_FAB_CTL_HOLD (bitsOf (c32 s.dev.fab.cfg 4) 6 1), modFab fun f => { f with edgeAt := s.now },
    (if bitsOf (c32 s.dev.fab.cfg 4) 6 1 = 1 then declareUnit 113 1 else fabRun), fabSettle])

/-- Tile memories are zero-filled, and every bench of an active plane is reloaded and rests in DWELL. -/
def resumeBenches : Prog :=
  all [zeroFill 0 (tileAt 512),
    look fun s => each partIds fun p => match (s.part p).active with
      | some pl => each (pl.benchList.filter fun b => !s.fenced b) (reloadBench pl)
      | none => .nop]

/-- READY after REST; `elapsed` is the time from the wake in ticks. The scrubber starts a full pass (R223), from the Store's first line
(log entry 123). -/
def restExit (elapsed : Nat) : Prog :=
  all [
    resumeTime, submitAutoen, resumeStore, declareUnit 41 1, setF F.STORE_SCRUB_POS_OFFSET 0, resumeBenches, resumeFar,
    setF F.PCK_STATUS_DEV 1, modPwr fun w => { w with railSlow := false },
    look fun s => logC 0xD002 0 127 [s.fld F.PCK_STATUS_WAKESRC, elapsed],
    resumeArray, resumeFabric, mbTakeOver,
    declareUnit 43 1, usbCheck,
    look fun s => when (s.bit F.PCK_STATUS_PERST_SEEN) (all [setF F.PCK_STATUS_PERST_SEEN 0, hostResetProg true])]

/-- READY comes within 3 ms of the wake, or later by the time that the rails are late (R558, R571). -/
def execRestExit (elapsed : Nat) (s : State) : Host.Outcome State Fault Refusal :=
  done (when (!s.dev.pwr.por && !s.heldReset && s.devState == 4 && (elapsed ≤ 750000 || s.dev.pwr.railSlow)) (restExit elapsed)) s

end Sys2Proof.Machine
end

