-- ==== Sys2Proof/Machine/TileScalar.lean ====
section
/-!
DEFINITION. Sys2Proof/Machine/TileScalar.lean: the rows of the scalar pipe (R117).
-/
namespace Sys2Proof.Machine

def execTAdd (t : Nat) (k : BundleSlot) (s : State) : Host.Outcome State Fault Refusal := done (issue t k .add) s
def execTSub (t : Nat) (k : BundleSlot) (s : State) : Host.Outcome State Fault Refusal := done (issue t k .sub) s
def execTMul (t : Nat) (k : BundleSlot) (s : State) : Host.Outcome State Fault Refusal := done (issue t k .mul) s
def execTAnd (t : Nat) (k : BundleSlot) (s : State) : Host.Outcome State Fault Refusal := done (issue t k .and) s
def execTOr (t : Nat) (k : BundleSlot) (s : State) : Host.Outcome State Fault Refusal := done (issue t k .or) s
def execTXor (t : Nat) (k : BundleSlot) (s : State) : Host.Outcome State Fault Refusal := done (issue t k .xor) s
def execTShl (t : Nat) (k : BundleSlot) (s : State) : Host.Outcome State Fault Refusal := done (issue t k .shl) s
def execTShr (t : Nat) (k : BundleSlot) (s : State) : Host.Outcome State Fault Refusal := done (issue t k .shr) s
def execTSar (t : Nat) (k : BundleSlot) (s : State) : Host.Outcome State Fault Refusal := done (issue t k .sar) s
def execTMin (t : Nat) (k : BundleSlot) (s : State) : Host.Outcome State Fault Refusal := done (issue t k .min) s
def execTMax (t : Nat) (k : BundleSlot) (s : State) : Host.Outcome State Fault Refusal := done (issue t k .max) s
def execTMinu (t : Nat) (k : BundleSlot) (s : State) : Host.Outcome State Fault Refusal := done (issue t k .minu) s
def execTMaxu (t : Nat) (k : BundleSlot) (s : State) : Host.Outcome State Fault Refusal := done (issue t k .maxu) s
def execTSlt (t : Nat) (k : BundleSlot) (s : State) : Host.Outcome State Fault Refusal := done (issue t k .slt) s
def execTSltu (t : Nat) (k : BundleSlot) (s : State) : Host.Outcome State Fault Refusal := done (issue t k .sltu) s
def execTMovhi (t : Nat) (k : BundleSlot) (s : State) : Host.Outcome State Fault Refusal := done (issue t k .movhi) s

/-! Rows that touch tile memory: with the error that its code reports there (R201). -/

def execTLd32 (t : Nat) (k : BundleSlot) (e : EccErr) (s : State) : Host.Outcome State Fault Refusal := done (issue t k .ld32 e) s
def execTLd64 (t : Nat) (k : BundleSlot) (e : EccErr) (s : State) : Host.Outcome State Fault Refusal := done (issue t k .ld64 e) s
def execTSt32 (t : Nat) (k : BundleSlot) (e : EccErr) (s : State) : Host.Outcome State Fault Refusal := done (issue t k .st32 e) s
def execTSt64 (t : Nat) (k : BundleSlot) (e : EccErr) (s : State) : Host.Outcome State Fault Refusal := done (issue t k .st64 e) s

end Sys2Proof.Machine
end

