-- ==== Sys2Proof/Machine/TileVector.lean ====
section
/-!
DEFINITION. Sys2Proof/Machine/TileVector.lean: the rows of the vector pipes (R117, R129 to R136).
-/
namespace Sys2Proof.Machine

def execTFadd (t : Nat) (k : BundleSlot) (s : State) : Host.Outcome State Fault Refusal := done (issue t k .fadd) s
def execTFsub (t : Nat) (k : BundleSlot) (s : State) : Host.Outcome State Fault Refusal := done (issue t k .fsub) s
def execTFmul (t : Nat) (k : BundleSlot) (s : State) : Host.Outcome State Fault Refusal := done (issue t k .fmul) s
def execTFma (t : Nat) (k : BundleSlot) (s : State) : Host.Outcome State Fault Refusal := done (issue t k .fma) s
def execTFms (t : Nat) (k : BundleSlot) (s : State) : Host.Outcome State Fault Refusal := done (issue t k .fms) s
def execTFmax (t : Nat) (k : BundleSlot) (s : State) : Host.Outcome State Fault Refusal := done (issue t k .fmax) s
def execTFmin (t : Nat) (k : BundleSlot) (s : State) : Host.Outcome State Fault Refusal := done (issue t k .fmin) s
def execTFabs (t : Nat) (k : BundleSlot) (s : State) : Host.Outcome State Fault Refusal := done (issue t k .fabs) s
def execTFneg (t : Nat) (k : BundleSlot) (s : State) : Host.Outcome State Fault Refusal := done (issue t k .fneg) s
def execTFrcp (t : Nat) (k : BundleSlot) (s : State) : Host.Outcome State Fault Refusal := done (issue t k .frcp) s
def execTFrsq (t : Nat) (k : BundleSlot) (s : State) : Host.Outcome State Fault Refusal := done (issue t k .frsq) s
def execTFexp2 (t : Nat) (k : BundleSlot) (s : State) : Host.Outcome State Fault Refusal := done (issue t k .fexp2) s
def execTFlog2 (t : Nat) (k : BundleSlot) (s : State) : Host.Outcome State Fault Refusal := done (issue t k .flog2) s
def execTFtanh (t : Nat) (k : BundleSlot) (s : State) : Host.Outcome State Fault Refusal := done (issue t k .ftanh) s
def execTFsel (t : Nat) (k : BundleSlot) (s : State) : Host.Outcome State Fault Refusal := done (issue t k .fsel) s
def execTFmov (t : Nat) (k : BundleSlot) (s : State) : Host.Outcome State Fault Refusal := done (issue t k .fmov) s
def execTIadd (t : Nat) (k : BundleSlot) (s : State) : Host.Outcome State Fault Refusal := done (issue t k .iadd) s
def execTIsub (t : Nat) (k : BundleSlot) (s : State) : Host.Outcome State Fault Refusal := done (issue t k .isub) s
def execTImul (t : Nat) (k : BundleSlot) (s : State) : Host.Outcome State Fault Refusal := done (issue t k .imul) s
def execTIand (t : Nat) (k : BundleSlot) (s : State) : Host.Outcome State Fault Refusal := done (issue t k .iand) s
def execTIor (t : Nat) (k : BundleSlot) (s : State) : Host.Outcome State Fault Refusal := done (issue t k .ior) s
def execTIxor (t : Nat) (k : BundleSlot) (s : State) : Host.Outcome State Fault Refusal := done (issue t k .ixor) s
def execTIshl (t : Nat) (k : BundleSlot) (s : State) : Host.Outcome State Fault Refusal := done (issue t k .ishl) s
def execTIshr (t : Nat) (k : BundleSlot) (s : State) : Host.Outcome State Fault Refusal := done (issue t k .ishr) s
def execTIsar (t : Nat) (k : BundleSlot) (s : State) : Host.Outcome State Fault Refusal := done (issue t k .isar) s
def execTImax (t : Nat) (k : BundleSlot) (s : State) : Host.Outcome State Fault Refusal := done (issue t k .imax) s
def execTImin (t : Nat) (k : BundleSlot) (s : State) : Host.Outcome State Fault Refusal := done (issue t k .imin) s
def execTViota (t : Nat) (k : BundleSlot) (s : State) : Host.Outcome State Fault Refusal := done (issue t k .viota) s
def execTFclt (t : Nat) (k : BundleSlot) (s : State) : Host.Outcome State Fault Refusal := done (issue t k .fclt) s
def execTFcle (t : Nat) (k : BundleSlot) (s : State) : Host.Outcome State Fault Refusal := done (issue t k .fcle) s
def execTFceq (t : Nat) (k : BundleSlot) (s : State) : Host.Outcome State Fault Refusal := done (issue t k .fceq) s
def execTFcun (t : Nat) (k : BundleSlot) (s : State) : Host.Outcome State Fault Refusal := done (issue t k .fcun) s
def execTIclt (t : Nat) (k : BundleSlot) (s : State) : Host.Outcome State Fault Refusal := done (issue t k .iclt) s
def execTIceq (t : Nat) (k : BundleSlot) (s : State) : Host.Outcome State Fault Refusal := done (issue t k .iceq) s
def execTMand (t : Nat) (k : BundleSlot) (s : State) : Host.Outcome State Fault Refusal := done (issue t k .mand) s
def execTMor (t : Nat) (k : BundleSlot) (s : State) : Host.Outcome State Fault Refusal := done (issue t k .mor) s
def execTMxor (t : Nat) (k : BundleSlot) (s : State) : Host.Outcome State Fault Refusal := done (issue t k .mxor) s
def execTMnot (t : Nat) (k : BundleSlot) (s : State) : Host.Outcome State Fault Refusal := done (issue t k .mnot) s
def execTMpop (t : Nat) (k : BundleSlot) (s : State) : Host.Outcome State Fault Refusal := done (issue t k .mpop) s
def execTMfirst (t : Nat) (k : BundleSlot) (s : State) : Host.Outcome State Fault Refusal := done (issue t k .mfirst) s
def execTF2i (t : Nat) (k : BundleSlot) (s : State) : Host.Outcome State Fault Refusal := done (issue t k .f2i) s
def execTI2f (t : Nat) (k : BundleSlot) (s : State) : Host.Outcome State Fault Refusal := done (issue t k .i2f) s
def execTRbf16 (t : Nat) (k : BundleSlot) (s : State) : Host.Outcome State Fault Refusal := done (issue t k .rbf16) s
def execTRfp16 (t : Nat) (k : BundleSlot) (s : State) : Host.Outcome State Fault Refusal := done (issue t k .rfp16) s
def execTRe4m3 (t : Nat) (k : BundleSlot) (s : State) : Host.Outcome State Fault Refusal := done (issue t k .re4m3) s
def execTRe5m2 (t : Nat) (k : BundleSlot) (s : State) : Host.Outcome State Fault Refusal := done (issue t k .re5m2) s
def execTFsum (t : Nat) (k : BundleSlot) (s : State) : Host.Outcome State Fault Refusal := done (issue t k .fsum) s
def execTFmaxr (t : Nat) (k : BundleSlot) (s : State) : Host.Outcome State Fault Refusal := done (issue t k .fmaxr) s
def execTFminr (t : Nat) (k : BundleSlot) (s : State) : Host.Outcome State Fault Refusal := done (issue t k .fminr) s
def execTIsum (t : Nat) (k : BundleSlot) (s : State) : Host.Outcome State Fault Refusal := done (issue t k .isum) s
def execTVperm (t : Nat) (k : BundleSlot) (s : State) : Host.Outcome State Fault Refusal := done (issue t k .vperm) s
def execTVrot (t : Nat) (k : BundleSlot) (s : State) : Host.Outcome State Fault Refusal := done (issue t k .vrot) s
def execTVbcast (t : Nat) (k : BundleSlot) (s : State) : Host.Outcome State Fault Refusal := done (issue t k .vbcast) s
def execTVext (t : Nat) (k : BundleSlot) (s : State) : Host.Outcome State Fault Refusal := done (issue t k .vext) s
def execTVins (t : Nat) (k : BundleSlot) (s : State) : Host.Outcome State Fault Refusal := done (issue t k .vins) s
def execTRcp (t : Nat) (k : BundleSlot) (s : State) : Host.Outcome State Fault Refusal := done (issue t k .rcp) s

/-! Rows that touch tile memory: with the error that its code reports there (R201). -/

def execTVld (t : Nat) (k : BundleSlot) (e : EccErr) (s : State) : Host.Outcome State Fault Refusal := done (issue t k .vld e) s
def execTVst (t : Nat) (k : BundleSlot) (e : EccErr) (s : State) : Host.Outcome State Fault Refusal := done (issue t k .vst e) s
def execTVlds (t : Nat) (k : BundleSlot) (e : EccErr) (s : State) : Host.Outcome State Fault Refusal := done (issue t k .vlds e) s
def execTVsts (t : Nat) (k : BundleSlot) (e : EccErr) (s : State) : Host.Outcome State Fault Refusal := done (issue t k .vsts e) s
def execTVldx (t : Nat) (k : BundleSlot) (e : EccErr) (s : State) : Host.Outcome State Fault Refusal := done (issue t k .vldx e) s
def execTVstx (t : Nat) (k : BundleSlot) (e : EccErr) (s : State) : Host.Outcome State Fault Refusal := done (issue t k .vstx e) s

end Sys2Proof.Machine
end

