-- ==== Sys2Proof/Machine/Dispatch.lean ====
section
/-!
DEFINITION. Sys2Proof/Machine/Dispatch.lean: the one dispatch over the commands, one arm per row of the command table.
-/
namespace Sys2Proof.Machine

def exec (i : Instr) (s : State) : Host.Outcome State Fault Refusal :=
  match i with
  | .tbFree => Sys2Proof.Machine.execTbFree s
  | .tbrefLost => Sys2Proof.Machine.execTbrefLost s
  | .tbrefBack => Sys2Proof.Machine.execTbrefBack s
  | .tbLock => Sys2Proof.Machine.execTbLock s
  | .tbppsEdge rising => Sys2Proof.Machine.execTbppsEdge rising s
  | .missingPulse => Sys2Proof.Machine.execMissingPulse s
  | .setArm p v => Sys2Proof.Machine.execSetArm p v s
  | .setCancel p v => Sys2Proof.Machine.execSetCancel p v s
  | .slewRequest p v => Sys2Proof.Machine.execSlewRequest p v s
  | .slewComplete => Sys2Proof.Machine.execSlewComplete s
  | .modeChange p v => Sys2Proof.Machine.execModeChange p v s
  | .uncEvaluate => Sys2Proof.Machine.execUncEvaluate s
  | .restRatioMeasure ratio => Sys2Proof.Machine.execRestRatioMeasure ratio s
  | .turnBoundary part => Sys2Proof.Machine.execTurnBoundary part s
  | .launchCopyCheck wrong => Sys2Proof.Machine.execLaunchCopyCheck wrong s
  | .ppsOutPulse => Sys2Proof.Machine.execPpsOutPulse s
  | .lowWordLatch p loc => Sys2Proof.Machine.execLowWordLatch p loc s
  | .wake part entry old => Sys2Proof.Machine.execWake part entry old s
  | .benchSpinReached bench => Sys2Proof.Machine.execBenchSpinReached bench s
  | .dwellEntryDone bench => Sys2Proof.Machine.execDwellEntryDone bench s
  | .gather part entry => Sys2Proof.Machine.execGather part entry s
  | .launch part entry old => Sys2Proof.Machine.execLaunch part entry old s
  | .walk part entry => Sys2Proof.Machine.execWalk part entry s
  | .merge part entry old => Sys2Proof.Machine.execMerge part entry old s
  | .emitHost part entry how => Sys2Proof.Machine.execEmitHost part entry how s
  | .emitArray part entry how => Sys2Proof.Machine.execEmitArray part entry how s
  | .emitPort part entry how => Sys2Proof.Machine.execEmitPort part entry how s
  | .arrayAlign part entry old => Sys2Proof.Machine.execArrayAlign part entry old s
  | .arrayPlay part entry old => Sys2Proof.Machine.execArrayPlay part entry old s
  | .portAlign part entry old => Sys2Proof.Machine.execPortAlign part entry old s
  | .portPlay part entry old => Sys2Proof.Machine.execPortPlay part entry old s
  | .launchMissed slot => Sys2Proof.Machine.execLaunchMissed slot s
  | .overrun slot => Sys2Proof.Machine.execOverrun slot s
  | .ingestEntryFetch q words => Sys2Proof.Machine.execIngestEntryFetch q words s
  | .hostChunkStamp q payload ok => Sys2Proof.Machine.execHostChunkStamp q payload ok s
  | .arrayChunkStamp path => Sys2Proof.Machine.execArrayChunkStamp path s
  | .portChunkStamp port slot => Sys2Proof.Machine.execPortChunkStamp port slot s
  | .tNop t k => Sys2Proof.Machine.execTNop t k s
  | .tEnd t k => Sys2Proof.Machine.execTEnd t k s
  | .tMset t k => Sys2Proof.Machine.execTMset t k s
  | .tFence t k => Sys2Proof.Machine.execTFence t k s
  | .tTick t k => Sys2Proof.Machine.execTTick t k s
  | .tChk t k => Sys2Proof.Machine.execTChk t k s
  | .tHdr t k => Sys2Proof.Machine.execTHdr t k s
  | .tCdone t k => Sys2Proof.Machine.execTCdone t k s
  | .tBrk t k => Sys2Proof.Machine.execTBrk t k s
  | .tBranch t k => Sys2Proof.Machine.execTBranch t k s
  | .tCall t k => Sys2Proof.Machine.execTCall t k s
  | .tRet t k => Sys2Proof.Machine.execTRet t k s
  | .tLoop t k => Sys2Proof.Machine.execTLoop t k s
  | .tSetvl t k => Sys2Proof.Machine.execTSetvl t k s
  | .tAdd t k => Sys2Proof.Machine.execTAdd t k s
  | .tSub t k => Sys2Proof.Machine.execTSub t k s
  | .tMul t k => Sys2Proof.Machine.execTMul t k s
  | .tAnd t k => Sys2Proof.Machine.execTAnd t k s
  | .tOr t k => Sys2Proof.Machine.execTOr t k s
  | .tXor t k => Sys2Proof.Machine.execTXor t k s
  | .tShl t k => Sys2Proof.Machine.execTShl t k s
  | .tShr t k => Sys2Proof.Machine.execTShr t k s
  | .tSar t k => Sys2Proof.Machine.execTSar t k s
  | .tMin t k => Sys2Proof.Machine.execTMin t k s
  | .tMax t k => Sys2Proof.Machine.execTMax t k s
  | .tMinu t k => Sys2Proof.Machine.execTMinu t k s
  | .tMaxu t k => Sys2Proof.Machine.execTMaxu t k s
  | .tSlt t k => Sys2Proof.Machine.execTSlt t k s
  | .tSltu t k => Sys2Proof.Machine.execTSltu t k s
  | .tMovhi t k => Sys2Proof.Machine.execTMovhi t k s
  | .tLd32 t k e => Sys2Proof.Machine.execTLd32 t k e s
  | .tLd64 t k e => Sys2Proof.Machine.execTLd64 t k e s
  | .tSt32 t k e => Sys2Proof.Machine.execTSt32 t k e s
  | .tSt64 t k e => Sys2Proof.Machine.execTSt64 t k e s
  | .tFadd t k => Sys2Proof.Machine.execTFadd t k s
  | .tFsub t k => Sys2Proof.Machine.execTFsub t k s
  | .tFmul t k => Sys2Proof.Machine.execTFmul t k s
  | .tFma t k => Sys2Proof.Machine.execTFma t k s
  | .tFms t k => Sys2Proof.Machine.execTFms t k s
  | .tFmax t k => Sys2Proof.Machine.execTFmax t k s
  | .tFmin t k => Sys2Proof.Machine.execTFmin t k s
  | .tFabs t k => Sys2Proof.Machine.execTFabs t k s
  | .tFneg t k => Sys2Proof.Machine.execTFneg t k s
  | .tFrcp t k => Sys2Proof.Machine.execTFrcp t k s
  | .tFrsq t k => Sys2Proof.Machine.execTFrsq t k s
  | .tFexp2 t k => Sys2Proof.Machine.execTFexp2 t k s
  | .tFlog2 t k => Sys2Proof.Machine.execTFlog2 t k s
  | .tFtanh t k => Sys2Proof.Machine.execTFtanh t k s
  | .tFsel t k => Sys2Proof.Machine.execTFsel t k s
  | .tFmov t k => Sys2Proof.Machine.execTFmov t k s
  | .tIadd t k => Sys2Proof.Machine.execTIadd t k s
  | .tIsub t k => Sys2Proof.Machine.execTIsub t k s
  | .tImul t k => Sys2Proof.Machine.execTImul t k s
  | .tIand t k => Sys2Proof.Machine.execTIand t k s
  | .tIor t k => Sys2Proof.Machine.execTIor t k s
  | .tIxor t k => Sys2Proof.Machine.execTIxor t k s
  | .tIshl t k => Sys2Proof.Machine.execTIshl t k s
  | .tIshr t k => Sys2Proof.Machine.execTIshr t k s
  | .tIsar t k => Sys2Proof.Machine.execTIsar t k s
  | .tImax t k => Sys2Proof.Machine.execTImax t k s
  | .tImin t k => Sys2Proof.Machine.execTImin t k s
  | .tViota t k => Sys2Proof.Machine.execTViota t k s
  | .tVld t k e => Sys2Proof.Machine.execTVld t k e s
  | .tVst t k e => Sys2Proof.Machine.execTVst t k e s
  | .tVlds t k e => Sys2Proof.Machine.execTVlds t k e s
  | .tVsts t k e => Sys2Proof.Machine.execTVsts t k e s
  | .tVldx t k e => Sys2Proof.Machine.execTVldx t k e s
  | .tVstx t k e => Sys2Proof.Machine.execTVstx t k e s
  | .tFclt t k => Sys2Proof.Machine.execTFclt t k s
  | .tFcle t k => Sys2Proof.Machine.execTFcle t k s
  | .tFceq t k => Sys2Proof.Machine.execTFceq t k s
  | .tFcun t k => Sys2Proof.Machine.execTFcun t k s
  | .tIclt t k => Sys2Proof.Machine.execTIclt t k s
  | .tIceq t k => Sys2Proof.Machine.execTIceq t k s
  | .tMand t k => Sys2Proof.Machine.execTMand t k s
  | .tMor t k => Sys2Proof.Machine.execTMor t k s
  | .tMxor t k => Sys2Proof.Machine.execTMxor t k s
  | .tMnot t k => Sys2Proof.Machine.execTMnot t k s
  | .tMpop t k => Sys2Proof.Machine.execTMpop t k s
  | .tMfirst t k => Sys2Proof.Machine.execTMfirst t k s
  | .tF2i t k => Sys2Proof.Machine.execTF2i t k s
  | .tI2f t k => Sys2Proof.Machine.execTI2f t k s
  | .tRbf16 t k => Sys2Proof.Machine.execTRbf16 t k s
  | .tRfp16 t k => Sys2Proof.Machine.execTRfp16 t k s
  | .tRe4m3 t k => Sys2Proof.Machine.execTRe4m3 t k s
  | .tRe5m2 t k => Sys2Proof.Machine.execTRe5m2 t k s
  | .tFsum t k => Sys2Proof.Machine.execTFsum t k s
  | .tFmaxr t k => Sys2Proof.Machine.execTFmaxr t k s
  | .tFminr t k => Sys2Proof.Machine.execTFminr t k s
  | .tIsum t k => Sys2Proof.Machine.execTIsum t k s
  | .tVperm t k => Sys2Proof.Machine.execTVperm t k s
  | .tVrot t k => Sys2Proof.Machine.execTVrot t k s
  | .tVbcast t k => Sys2Proof.Machine.execTVbcast t k s
  | .tVext t k => Sys2Proof.Machine.execTVext t k s
  | .tVins t k => Sys2Proof.Machine.execTVins t k s
  | .tRcp t k => Sys2Proof.Machine.execTRcp t k s
  | .tMissue t k => Sys2Proof.Machine.execTMissue t k s
  | .tMwait t k => Sys2Proof.Machine.execTMwait t k s
  | .tXget t k => Sys2Proof.Machine.execTXget t k s
  | .tXput t k => Sys2Proof.Machine.execTXput t k s
  | .tXwait t k => Sys2Proof.Machine.execTXwait t k s
  | .storeBufferDrain t => Sys2Proof.Machine.execStoreBufferDrain t s
  | .tileReloadDone t => Sys2Proof.Machine.execTileReloadDone t s
  | .tileHalt p t => Sys2Proof.Machine.execTileHalt p t s
  | .tileStep p t => Sys2Proof.Machine.execTileStep p t s
  | .tileResume p t => Sys2Proof.Machine.execTileResume p t s
  | .debugDataWrite p t hi v => Sys2Proof.Machine.execDebugDataWrite p t hi v s
  | .mtxOpStart t => Sys2Proof.Machine.execMtxOpStart t s
  | .mtxColumnBlock t e addr => Sys2Proof.Machine.execMtxColumnBlock t e addr s
  | .mtxOpComplete t => Sys2Proof.Machine.execMtxOpComplete t s
  | .xferStart t => Sys2Proof.Machine.execXferStart t s
  | .xferComplete t err line way data => Sys2Proof.Machine.execXferComplete t err line way data s
  | .scrubLine err => Sys2Proof.Machine.execScrubLine err s
  | .bar2Read fn off len err => Sys2Proof.Machine.execBar2Read fn off len err s
  | .bar2Write peer off bytes poisoned => Sys2Proof.Machine.execBar2Write peer off bytes poisoned s
  | .registerWrite p off v how => Sys2Proof.Machine.execRegisterWrite p off v how s
  | .farTrainStart p v => Sys2Proof.Machine.execFarTrainStart p v s
  | .farTrainComplete step failch => Sys2Proof.Machine.execFarTrainComplete step failch s
  | .farMr4Poll mr4 mult hot tooHot => Sys2Proof.Machine.execFarMr4Poll mr4 mult hot tooHot s
  | .farPeriodicCal => Sys2Proof.Machine.execFarPeriodicCal s
  | .farRefreshDue canPostpone => Sys2Proof.Machine.execFarRefreshDue canPostpone s
  | .farWindowOpen part index => Sys2Proof.Machine.execFarWindowOpen part index s
  | .chunkPrepare slot => Sys2Proof.Machine.execChunkPrepare slot s
  | .workListBuild slot => Sys2Proof.Machine.execWorkListBuild slot s
  | .recordRelease slot => Sys2Proof.Machine.execRecordRelease slot s
  | .kvAlloc p => Sys2Proof.Machine.execKvAlloc p s
  | .kvRetain p => Sys2Proof.Machine.execKvRetain p s
  | .kvRelease p => Sys2Proof.Machine.execKvRelease p s
  | .kvFork p => Sys2Proof.Machine.execKvFork p s
  | .kvReset p => Sys2Proof.Machine.execKvReset p s
  | .chuckBoot flash => Sys2Proof.Machine.execChuckBoot flash s
  | .qspiBlockRead flash data check => Sys2Proof.Machine.execQspiBlockRead flash data check s
  | .bootSourceTimeout => Sys2Proof.Machine.execBootSourceTimeout s
  | .imageComplete data => Sys2Proof.Machine.execImageComplete data s
  | .imgLoadFull p v => Sys2Proof.Machine.execImgLoadFull p v s
  | .imgLoadStage p v => Sys2Proof.Machine.execImgLoadStage p v s
  | .imgLoadActive p v => Sys2Proof.Machine.execImgLoadActive p v s
  | .loadAbort p v => Sys2Proof.Machine.execLoadAbort p v s
  | .imageSourceTimeout => Sys2Proof.Machine.execImageSourceTimeout s
  | .rbCommit p v => Sys2Proof.Machine.execRbCommit p v s
  | .rbCommitted => Sys2Proof.Machine.execRbCommitted s
  | .fuseBurn p v readback => Sys2Proof.Machine.execFuseBurn p v readback s
  | .orderRegrip src arg rivals => Sys2Proof.Machine.execOrderRegrip src arg rivals s
  | .regripSwap part => Sys2Proof.Machine.execRegripSwap part s
  | .retireEnd part => Sys2Proof.Machine.execRetireEnd part s
  | .joinLoadDone bench => Sys2Proof.Machine.execJoinLoadDone bench s
  | .hostReset kind => Sys2Proof.Machine.execHostReset kind s
  | .hostLinkUp rate width flit => Sys2Proof.Machine.execHostLinkUp rate width flit s
  | .vfFlr vf => Sys2Proof.Machine.execVfFlr vf s
  | .pfFlr => Sys2Proof.Machine.execPfFlr s
  | .flrDone fn => Sys2Proof.Machine.execFlrDone fn s
  | .vfEnable numVfs => Sys2Proof.Machine.execVfEnable numVfs s
  | .dStateChange fn d3 => Sys2Proof.Machine.execDStateChange fn d3 s
  | .qpEnable p q v => Sys2Proof.Machine.execQpEnable p q v s
  | .qpDisable p q v => Sys2Proof.Machine.execQpDisable p q v s
  | .inTailDoorbell fn q v => Sys2Proof.Machine.execInTailDoorbell fn q v s
  | .resHeadDoorbell fn q v => Sys2Proof.Machine.execResHeadDoorbell fn q v s
  | .cplTimeout req => Sys2Proof.Machine.execCplTimeout req s
  | .arrClkCtlWrite p v => Sys2Proof.Machine.execArrClkCtlWrite p v s
  | .arrPathEnable p ix v => Sys2Proof.Machine.execArrPathEnable p ix v s
  | .gainWrite p ix v => Sys2Proof.Machine.execGainWrite p ix v s
  | .gainApply ix => Sys2Proof.Machine.execGainApply ix s
  | .amclkLost => Sys2Proof.Machine.execAmclkLost s
  | .arrCalRun p v => Sys2Proof.Machine.execArrCalRun p v s
  | .arrCalDone trims => Sys2Proof.Machine.execArrCalDone trims s
  | .cmpEdge j rising => Sys2Proof.Machine.execCmpEdge j rising s
  | .envAbove m => Sys2Proof.Machine.execEnvAbove m s
  | .envBelow m => Sys2Proof.Machine.execEnvBelow m s
  | .fabHold p v => Sys2Proof.Machine.execFabHold p v s
  | .fabReset p v => Sys2Proof.Machine.execFabReset p v s
  | .fabRelease p v => Sys2Proof.Machine.execFabRelease p v s
  | .fabMdataRead p => Sys2Proof.Machine.execFabMdataRead p s
  | .fabMdataWrite p v => Sys2Proof.Machine.execFabMdataWrite p v s
  | .fabClkLost => Sys2Proof.Machine.execFabClkLost s
  | .ucatchEdge => Sys2Proof.Machine.execUcatchEdge s
  | .portFrame port f => Sys2Proof.Machine.execPortFrame port f s
  | .fsyncLost port => Sys2Proof.Machine.execFsyncLost port s
  | .bclkLost port => Sys2Proof.Machine.execBclkLost port s
  | .getId x => Sys2Proof.Machine.execGetId x s
  | .getStatus x => Sys2Proof.Machine.execGetStatus x s
  | .receiveByte => Sys2Proof.Machine.execReceiveByte s
  | .lastResult x => Sys2Proof.Machine.execLastResult x s
  | .clearFlags x => Sys2Proof.Machine.execClearFlags x s
  | .filterWrite x => Sys2Proof.Machine.execFilterWrite x s
  | .filterRead x => Sys2Proof.Machine.execFilterRead x s
  | .timeoutWrite x => Sys2Proof.Machine.execTimeoutWrite x s
  | .timeoutRead x => Sys2Proof.Machine.execTimeoutRead x s
  | .regRead x => Sys2Proof.Machine.execRegRead x s
  | .regReadN x => Sys2Proof.Machine.execRegReadN x s
  | .regWrite x => Sys2Proof.Machine.execRegWrite x s
  | .selolRegrip x rivals => Sys2Proof.Machine.execSelolRegrip x rivals s
  | .getUnit x => Sys2Proof.Machine.execGetUnit x s
  | .catchRead x => Sys2Proof.Machine.execCatchRead x s
  | .catchNext x => Sys2Proof.Machine.execCatchNext x s
  | .catchInfo x => Sys2Proof.Machine.execCatchInfo x s
  | .getTemp x => Sys2Proof.Machine.execGetTemp x s
  | .mbBadCommand => Sys2Proof.Machine.execMbBadCommand s
  | .alertResponse => Sys2Proof.Machine.execAlertResponse s
  | .mbTimeout => Sys2Proof.Machine.execMbTimeout s
  | .mbAddressMatch => Sys2Proof.Machine.execMbAddressMatch s
  | .mstStart p v => Sys2Proof.Machine.execMstStart p v s
  | .pollPeriod res => Sys2Proof.Machine.execPollPeriod res s
  | .mstComplete o => Sys2Proof.Machine.execMstComplete o s
  | .qspiCmd p v => Sys2Proof.Machine.execQspiCmd p v s
  | .qspiCmdDone ok data => Sys2Proof.Machine.execQspiCmdDone ok data s
  | .readStatus cut => Sys2Proof.Machine.execReadStatus cut s
  | .spiRead addr count sent late cut => Sys2Proof.Machine.execSpiRead addr count sent late cut s
  | .spiWrite addr count words cut => Sys2Proof.Machine.execSpiWrite addr count words cut s
  | .imgStream words cut => Sys2Proof.Machine.execImgStream words cut s
  | .spiWake => Sys2Proof.Machine.execSpiWake s
  | .spitBadFrame => Sys2Proof.Machine.execSpitBadFrame s
  | .spitImgOpen p v => Sys2Proof.Machine.execSpitImgOpen p v s
  | .usbRegRead addr len acked => Sys2Proof.Machine.execUsbRegRead addr len acked s
  | .usbRegWrite addr bytes => Sys2Proof.Machine.execUsbRegWrite addr bytes s
  | .imgStart kind part len => Sys2Proof.Machine.execImgStart kind part len s
  | .imgAbort => Sys2Proof.Machine.execImgAbort s
  | .usbLastResult => Sys2Proof.Machine.execUsbLastResult s
  | .usbStandardRequest r => Sys2Proof.Machine.execUsbStandardRequest r s
  | .usbReset vbusLost hs => Sys2Proof.Machine.execUsbReset vbusLost hs s
  | .usbEp1Packet bytes => Sys2Proof.Machine.execUsbEp1Packet bytes s
  | .usbEp2Ack => Sys2Proof.Machine.execUsbEp2Ack s
  | .usbStreamSample => Sys2Proof.Machine.execUsbStreamSample s
  | .tapReset => Sys2Proof.Machine.execTapReset s
  | .idcode => Sys2Proof.Machine.execIdcode s
  | .samplePreload pins preload => Sys2Proof.Machine.execSamplePreload pins preload s
  | .extest => Sys2Proof.Machine.execExtest s
  | .clamp => Sys2Proof.Machine.execClamp s
  | .highz => Sys2Proof.Machine.execHighz s
  | .extestPulse => Sys2Proof.Machine.execExtestPulse s
  | .extestTrain => Sys2Proof.Machine.execExtestTrain s
  | .bypass => Sys2Proof.Machine.execBypass s
  | .dbgAddr addr rw => Sys2Proof.Machine.execDbgAddr addr rw s
  | .dbgData v => Sys2Proof.Machine.execDbgData v s
  | .powerOnResetRelease straps xtal => Sys2Proof.Machine.execPowerOnResetRelease straps xtal s
  | .railSlow => Sys2Proof.Machine.execRailSlow s
  | .supplyLost => Sys2Proof.Machine.execSupplyLost s
  | .thermTrip temp sensor => Sys2Proof.Machine.execThermTrip temp sensor s
  | .thermDerate temp sensor => Sys2Proof.Machine.execThermDerate temp sensor s
  | .thermClear temp sensor => Sys2Proof.Machine.execThermClear temp sensor s
  | .crystalFail => Sys2Proof.Machine.execCrystalFail s
  | .coldNAssert ns => Sys2Proof.Machine.execColdNAssert ns s
  | .coldNRelease => Sys2Proof.Machine.execColdNRelease s
  | .orderPower src unit arg rivals => Sys2Proof.Machine.execOrderPower src unit arg rivals s
  | .orderRest src rivals => Sys2Proof.Machine.execOrderRest src rivals s
  | .restEntryDone => Sys2Proof.Machine.execRestEntryDone s
  | .restTimer => Sys2Proof.Machine.execRestTimer s
  | .orderWake w rivals => Sys2Proof.Machine.execOrderWake w rivals s
  | .restExit elapsed => Sys2Proof.Machine.execRestExit elapsed s
  | .orderTileclk src arg rivals => Sys2Proof.Machine.execOrderTileclk src arg rivals s
  | .tileclkApply part => Sys2Proof.Machine.execTileclkApply part s
  | .orderDerate src arg rivals => Sys2Proof.Machine.execOrderDerate src arg rivals s
  | .orderResetCold src rivals => Sys2Proof.Machine.execOrderResetCold src rivals s
  | .orderResetPart src arg rivals => Sys2Proof.Machine.execOrderResetPart src arg rivals s
  | .orderEnable src arg rivals => Sys2Proof.Machine.execOrderEnable src arg rivals s
  | .orderGroup src unit arg rivals => Sys2Proof.Machine.execOrderGroup src unit arg rivals s
  | .orderPort src unit arg rivals => Sys2Proof.Machine.execOrderPort src unit arg rivals s
  | .wdogKick p v => Sys2Proof.Machine.execWdogKick p v s
  | .wdogStage => Sys2Proof.Machine.execWdogStage s
  | .benchHang t => Sys2Proof.Machine.execBenchHang t s
  | .ledgerCompare reports ecc => Sys2Proof.Machine.execLedgerCompare reports ecc s
  | .unitStuck unit => Sys2Proof.Machine.execUnitStuck unit s
  | .catchRposWrite p k v => Sys2Proof.Machine.execCatchRposWrite p k v s
  | .samplingInstant path x => Sys2Proof.Machine.execSamplingInstant path x s
  | .fabclkEdge e => Sys2Proof.Machine.execFabclkEdge e s
  | .pwrOkRise => Sys2Proof.Machine.execPwrOkRise s
  | .powerOnReset => Sys2Proof.Machine.execPowerOnReset s
  | .rcRead p loc how => Sys2Proof.Machine.execRcRead p loc how s
  | .usbVbusApplied => Sys2Proof.Machine.execUsbVbusApplied s
  | .usbSuspend => Sys2Proof.Machine.execUsbSuspend s
  | .usbResume => Sys2Proof.Machine.execUsbResume s
  | .followRatioMeasure periods => Sys2Proof.Machine.execFollowRatioMeasure periods s
  | .selolOrder x rivals => Sys2Proof.Machine.execSelolOrder x rivals s
  | .quickCommand => Sys2Proof.Machine.execQuickCommand s

end Sys2Proof.Machine
end

