-- ==== Sys2Proof/Machine/Step.lean ====
section
/-!
DEFINITION. Sys2Proof/Machine/Step.lean: one step: the command at the front of the queue acts; with no command waiting, a tick passes.
-/
namespace Sys2Proof.Machine

/-- The state with a queue of commands. -/
def State.withPending (s : State) (l : List Instr) : State := { s with pending := l }

/-- Take the front command and run it; on an empty queue the device's clock goes on by one tick (R32, R54). -/
def step (s : State) : Host.Outcome State Fault Refusal :=
  match s.pending with
  | [] => done tick s
  | c :: rest => exec c (s.withPending rest)

/-- The state with the command that a word spells put at the front of the queue; no word spells one. -/
def State.withFetchWord (s : State) (nbits w : Nat) : State :=
  match Sys2Proof.decodeTableWord nbits w with
  | some c => s.withPending (c :: s.pending)
  | none => s

end Sys2Proof.Machine
end

