-- ==== Sys2Proof/Safety.lean ====
section
/-!
DEFINITION. Sys2Proof/Safety.lean: the words in which statements about the model are made: what a run is, what it is for a
command to complete, what stays as it was, and when a tile issues an instruction.
-/
namespace Sys2Proof.Machine

/-! ## Runs -/

/-- The register file, the device's memory and the host's memory stand in their one canonical form, so that equal contents are
equal data. -/
def State.canonical (s : State) : Bool :=
  Sparse.wf RegMap.resetWord s.regs && Memory.wf s.mem && Memory.wf s.host

/-- A run: from a state by steps that answer a next state. -/
inductive Reaches : State → State → Prop where
  | here (s : State) : Reaches s s
  | next {s t u : State} : Reaches s t → step t = .next u → Reaches s u

/-- The command answers a next state, and `P` holds of it. -/
def Completes (c : Instr) (s : State) (P : State → Prop) : Prop := ∃ u, exec c s = .next u ∧ P u

/-! ## What stays -/

/-- Every byte of device memory reads as before. -/
def SameBytes (s u : State) : Prop := ∀ a, u.mem.read a = s.mem.read a

/-- Every byte of device memory outside the `n` bytes from `a` upward reads as before. -/
def SameBytesBut (s u : State) (a n : Nat) : Prop := ∀ b, b < a ∨ a + n ≤ b → u.mem.read b = s.mem.read b

/-- Two ranges of addresses, given by start and length, share no address. -/
abbrev Apart (a n b m : Nat) : Prop := a + n ≤ b ∨ b + m ≤ a

/-- Every byte of the host's memory is as before. -/
def SameHost (s u : State) : Prop := ∀ a, u.host.read a = s.host.read a

/-- Every register outside the listed offsets holds the same word. -/
def SameRegsBut (s u : State) (offs : List Nat) : Prop := ∀ o, o ∉ offs → u.word o = s.word o

/-- Of registers only the listed ones have changed, and of memories no byte. -/
structure OnlyRegs (s u : State) (offs : List Nat) : Prop where
  regs : SameRegsBut s u offs
  bytes : SameBytes s u
  host : SameHost s u

/-- A counter field has counted one; a full one stands. -/
def Counted (s u : State) (f : Fld) : Prop := u.fld f = min (s.fld f + 1) (2 ^ f.w - 1)

/-- The command has sent `os`, and of what is neither register nor memory nothing else has changed. -/
def Sends (s u : State) (os : List Out) : Prop := u.dev = { s.dev with out := s.dev.out ++ os }

/-- The registers that a logged catch record may touch: the read positions and loss counts of the four read-out paths, and the
pending bits of the physical function's messages (R602, R603, R605). -/
def catchRegs : List Nat := [0x50010, 0x50014, 0x50018, 0x5001C, 0x50020, 0x50024, 0x50028, 0x5002C, 0x38000]

/-- The first record that a command adds to the log: its code, severity and unit (R600, R601). -/
abbrev Logged (s u : State) (code sev unit : Nat) : Prop :=
  ∃ r ∈ u.dev.log.recs, r.code = code ∧ r.sev = sev ∧ r.unit = unit ∧ r.serial = s.dev.log.count % 2 ^ 32

/-- Of the parts outside registers and memories nothing but tile `t` has changed, and of memories nothing. -/
structure OnlyTile (s u : State) (t : Nat) : Prop where
  dev : { u.dev with tiles := s.dev.tiles } = s.dev
  tiles : ∀ j, j ≠ t → u.tile j = s.tile j
  bytes : SameBytes s u
  host : SameHost s u
  queue : u.pending = s.pending

/-! ## Tiles -/

/-- The command that names an instruction of a row; `e` is what the code of the first memory word it touches reports. (The
compiler has no code for constructors beyond its 245th that take operands; the kernel evaluates this all the same.) -/
noncomputable def tileCmdAt (op : TOp) (t : Nat) (k : BundleSlot) (e : EccErr := .none) : Instr :=
  match op with
  | .nop => .tNop t k
  | .end_ => .tEnd t k
  | .mset => .tMset t k
  | .fence => .tFence t k
  | .tick => .tTick t k
  | .chk => .tChk t k
  | .hdr => .tHdr t k
  | .cdone => .tCdone t k
  | .brk => .tBrk t k
  | .branch => .tBranch t k
  | .call => .tCall t k
  | .ret => .tRet t k
  | .loop => .tLoop t k
  | .setvl => .tSetvl t k
  | .add => .tAdd t k
  | .sub => .tSub t k
  | .mul => .tMul t k
  | .and => .tAnd t k
  | .or => .tOr t k
  | .xor => .tXor t k
  | .shl => .tShl t k
  | .shr => .tShr t k
  | .sar => .tSar t k
  | .min => .tMin t k
  | .max => .tMax t k
  | .minu => .tMinu t k
  | .maxu => .tMaxu t k
  | .slt => .tSlt t k
  | .sltu => .tSltu t k
  | .movhi => .tMovhi t k
  | .ld32 => .tLd32 t k e
  | .ld64 => .tLd64 t k e
  | .st32 => .tSt32 t k e
  | .st64 => .tSt64 t k e
  | .fadd => .tFadd t k
  | .fsub => .tFsub t k
  | .fmul => .tFmul t k
  | .fma => .tFma t k
  | .fms => .tFms t k
  | .fmax => .tFmax t k
  | .fmin => .tFmin t k
  | .fabs => .tFabs t k
  | .fneg => .tFneg t k
  | .frcp => .tFrcp t k
  | .frsq => .tFrsq t k
  | .fexp2 => .tFexp2 t k
  | .flog2 => .tFlog2 t k
  | .ftanh => .tFtanh t k
  | .fsel => .tFsel t k
  | .fmov => .tFmov t k
  | .iadd => .tIadd t k
  | .isub => .tIsub t k
  | .imul => .tImul t k
  | .iand => .tIand t k
  | .ior => .tIor t k
  | .ixor => .tIxor t k
  | .ishl => .tIshl t k
  | .ishr => .tIshr t k
  | .isar => .tIsar t k
  | .imax => .tImax t k
  | .imin => .tImin t k
  | .viota => .tViota t k
  | .vld => .tVld t k e
  | .vst => .tVst t k e
  | .vlds => .tVlds t k e
  | .vsts => .tVsts t k e
  | .vldx => .tVldx t k e
  | .vstx => .tVstx t k e
  | .fclt => .tFclt t k
  | .fcle => .tFcle t k
  | .fceq => .tFceq t k
  | .fcun => .tFcun t k
  | .iclt => .tIclt t k
  | .iceq => .tIceq t k
  | .mand => .tMand t k
  | .mor => .tMor t k
  | .mxor => .tMxor t k
  | .mnot => .tMnot t k
  | .mpop => .tMpop t k
  | .mfirst => .tMfirst t k
  | .f2i => .tF2i t k
  | .i2f => .tI2f t k
  | .rbf16 => .tRbf16 t k
  | .rfp16 => .tRfp16 t k
  | .re4m3 => .tRe4m3 t k
  | .re5m2 => .tRe5m2 t k
  | .fsum => .tFsum t k
  | .fmaxr => .tFmaxr t k
  | .fminr => .tFminr t k
  | .isum => .tIsum t k
  | .vperm => .tVperm t k
  | .vrot => .tVrot t k
  | .vbcast => .tVbcast t k
  | .vext => .tVext t k
  | .vins => .tVins t k
  | .rcp => .tRcp t k
  | .missue => .tMissue t k
  | .mwait => .tMwait t k
  | .xget => .tXget t k
  | .xput => .tXput t k
  | .xwait => .tXwait t k

/-- The same where no code reports an error in what the bundle reads beside. -/
noncomputable def tileCmd (op : TOp) (t k : Nat) (e : EccErr := .none) : Instr := tileCmdAt op t { slot := k } e

/-- Nothing but its instructions keeps tile `t` from executing the bundle at its PC. -/
def State.fetches (s : State) (t : Nat) : Bool :=
  (s.overdue t).isEmpty && !(s.tile t).stepping && (s.poisonAt t 8 [(s.tile t).bundleAt, (s.tile t).bundleAt + 8]).isNone

/-- Tile `t` runs, and the bundle at its PC holds the word `w` of row `op` in slot `k` and NOP in the other slot; it can be
fetched, no exception stops it, no chunk of the program is past its bound, and the tile is not being stepped (R95, R116, R126, R141,
R201). -/
def State.issuable (s : State) (t k : Nat) (op : TOp) (w : Nat) : Bool :=
  s.ready && (s.tile t).run == 1 && decide (k < 2) && s.slotWord t k == w && s.slotWord t (1 - k) == 0 && opOf w == some op &&
  s.fetches t && (s.bundleFault t ((s.tile t).seenMode false)).isNone


/-- And no breakpoint stops it either (R141). -/
def State.issues (s : State) (t k : Nat) (op : TOp) (w : Nat) : Bool := s.issuable t k op w && !s.breaks t

/-- Where the sequencer stands after the bundle: PC, mode, shadow, delay slot, loop levels and vector lengths. -/
structure GoesOn (x y z : Tile) : Prop where
  pc : y.pc = z.pc
  mode : y.mode = z.mode
  shadow : y.shadow = z.shadow
  delay : y.delay = z.delay
  loops : y.loops = z.loops
  vlens : y.vlens = z.vlens
  launch : y.launch = x.launch
  run : y.run = x.run

/-- The sequencer of a tile after a bundle with the word `w` of row `op` in slot `k` and NOP in the other. -/
def Tile.after (x : Tile) (k : Nat) (op : TOp) (w : Nat) : Tile := if k = 0 then x.advance op w else x.advance .nop 0

/-- The registers that programs compute with, the store buffer, and the work issued. -/
structure SameScalars (x y : Tile) : Prop where
  sregs : ∀ n, y.sreg n = x.sreg n
structure SameVectors (x y : Tile) : Prop where
  elems : ∀ v i, y.elem v i = x.elem v i
  masks : y.masks = x.masks
structure SameWork (x y : Tile) : Prop where
  stores : y.stores = x.stores
  ops : y.ops = x.ops
  xfers : y.xfers = x.xfers
  sel : y.sel = x.sel
  cdone : y.cdone = x.cdone

/-- Scalar register `n` as 64 bits, and element `i` of vector register `v` as 32. -/
def Tile.scalar (x : Tile) (n : Nat) : Long := BitVec.ofNat 64 (x.sreg n)
def Tile.lane (x : Tile) (v i : Nat) : Word := BitVec.ofNat 32 (x.elem v i)

/-- What R117 says of the scalar operations, on 64-bit words. -/
def scalarWant (op : TOp) (a b : Long) : Long :=
  match op with
  | .add => a + b
  | .sub => a - b
  | .mul => a * b
  | .and => a &&& b
  | .or => a ||| b
  | .xor => a ^^^ b
  | .shl => a <<< b.toNat
  | .shr => a >>> b.toNat
  | .sar => a.sshiftRight b.toNat
  | .min => if b.slt a then b else a
  | .max => if a.slt b then b else a
  | .minu => if b.ult a then b else a
  | .maxu => if a.ult b then b else a
  | .slt => if a.slt b then 1 else 0
  | _ => if a.ult b then 1 else 0

/-- The B operand: SB, or the immediate, sign-extended. -/
def Tile.scalarB' (x : Tile) (w : Nat) : Long := if fImm w then (BitVec.ofNat 32 w).signExtend 64 else x.scalar (fSB w)

/-- The value of an integer result: wrapped to 32 bits, or with SAT held to the nearest end of the range (R123). -/
def intWant (sat : Bool) (i : Int) : Word :=
  BitVec.ofInt 32 (if sat then (if i < -2147483648 then -2147483648 else if 2147483647 < i then 2147483647 else i) else i)

/-- What R117 says of the integer operations of the vector engine, on 32-bit elements of index `i`. -/
def laneWant (op : TOp) (sat : Bool) (i : Nat) (a b : Word) : Word :=
  match op with
  | .iadd => intWant sat (a.toInt + b.toInt)
  | .isub => intWant sat (a.toInt - b.toInt)
  | .imul => intWant sat (a.toInt * b.toInt)
  | .iand => a &&& b
  | .ior => a ||| b
  | .ixor => a ^^^ b
  | .ishl => intWant sat (a.toInt * 2 ^ b.toNat)
  | .ishr => a >>> b.toNat
  | .isar => a.sshiftRight b.toNat
  | .imax => if a.slt b then b else a
  | .imin => if a.slt b then a else b
  | _ => BitVec.ofNat 32 i

/-- A vector destination under MEN, ZM and the active vector length (R120, R130): element `i` that takes part becomes `f i`,
one below the vector length that the mask leaves out becomes 0 with ZM, and every other element of every register stays. -/
structure VectorGot (x y : Tile) (men zm : Bool) (m d : Nat) (f : Nat → Nat) : Prop where
  takes : ∀ i, i < 256 → x.takes men m i = true → y.elem d i = f i % 2 ^ 32
  zeroed : ∀ i, i < 256 → x.takes men m i = false → zm = true → i < x.vl → y.elem d i = 0
  kept : ∀ i, i < 256 → x.takes men m i = false → (zm = true → x.vl ≤ i) → y.elem d i = x.elem d i
  others : ∀ v, v ≠ d → ∀ i, i < 256 → y.elem v i = x.elem v i
  masks : y.masks = x.masks

/-- Flag `j` of VEC_FPFLAGS (R129): NV, DZ, OF, UF, NX. -/
def fpFlag (t j : Nat) : Fld := ⟨tileReg t 0x088, j, 1⟩

/-- The flags that an operation raises for certain, and those that it may raise. -/
def Raised.sure (r : Raised) (j : Nat) : Bool := [r.nv, r.dz, r.of, r.uf, r.nx].getD j false
def Raised.open_ (r : Raised) (j : Nat) : Bool := [r.openNv, false, r.openOf, r.openUf, r.openNx].getD j false

/-- The sticky flags after an operation that raised `r`: those raised for certain are set, those that are open may be, none is
cleared. -/
def FlagsRaised (s u : State) (t : Nat) (r : Raised) : Prop :=
  ∀ j, j < 5 → (r.sure j = true → u.fld (fpFlag t j) = 1) ∧ (u.fld (fpFlag t j) = s.fld (fpFlag t j) ∨ u.fld (fpFlag t j) = 1) ∧
    (r.sure j = false → r.open_ j = false → u.fld (fpFlag t j) = s.fld (fpFlag t j))

/-! ## Queue pairs -/

/-- A path reaches the registers of a pair: a virtual function those of the pairs that it owns (R355). -/
def State.mayPair (s : State) (p : Path) (q : Nat) : Bool :=
  match p with
  | .vf n => s.fnOpen n && s.owner q == n
  | _ => s.reach p (qpAt q)

/-! ## Chunks from outside -/

/-- The stamping unit admits an offer into ingest buffer `b` under group `g` (R86, R94, R97, R213). -/
abbrev State.admits (s : State) (o : Offer) (b : Nat) (g : Group) : Prop :=
  s.admitFault o = none ∧ ((s.slot o.slot).chunks.filter fun c => !c.launched).length < 2 ∧
  o.buf.or (s.freeBuf o.slot []) = some b ∧ (s.plane (s.slotPart o.slot)).group (s.slotGroup o.slot) = some g

/-- What stamping an offer does (R17 to R20, R96, R213): one chunk more in its slot, with the tick of arrival, the due turn and the
deadline that follows from it; its payload in the ingest buffer; no other slot and no other byte changes. -/
structure Stamped (s u : State) (o : Offer) (b : Nat) (g : Group) : Prop where
  chunk : ∃ c n, (u.slot o.slot).chunks = (s.slot o.slot).chunks ++ [c] ∧
    n = s.dueTurn (s.slotPart o.slot) g o.slot (o.tick.getD s.now)
      ((((s.slot o.slot).chunks.filter fun c => !c.launched).getLast?).map Chunk.dueTurn) ∧
    c.dueTurn = n ∧ c.stream = o.slot ∧ c.arrival = o.tick.getD s.now ∧ c.seq = o.seq ∧ c.buf = b ∧ c.launched = false ∧
    c.flags = stampFlags o.flags o.count g.nominal (s.slot o.slot).gap ∧
    c.deadline = (s.turnOrg (s.slotPart o.slot) + n * s.turnLen (s.slotPart o.slot) +
      s.gatherOffset (s.slotPart o.slot) g.id + if (s.part (s.slotPart o.slot)).derated then g.ddl else g.dl) % 2 ^ 64
  gap : (u.slot o.slot).gap = false
  others : ∀ n, n ≠ o.slot → u.slot n = s.slot n
  payload : u.mem.reads (storeAt + s.ingestAt o.slot b) o.payload.length = o.payload
  bytes : SameBytesBut s u (storeAt + s.ingestAt o.slot b) o.payload.length

/-! ## Selol transactions (R489, R490) -/

/-- A write that comes whole, with a good check byte where P asks for one. -/
def State.mbGood (s : State) (p : Bool) (code : Nat) (data : List Byte) : MbXfer :=
  ⟨p, data, if p then some (crc8 (toByte s.mbAddr :: toByte (code + 128) :: data)) else none, true, []⟩

/-- What a read sends whose reply is `body`: the reply, and its check byte where P asks for one. -/
def State.mbSent (s : State) (p : Bool) (code : Nat) (data body : List Byte) : List Byte :=
  if p then body ++ [crc8 (toByte s.mbAddr :: toByte (code + 128) :: data ++ toByte (s.mbAddr + 1) :: body)] else body

/-- The device while the management bus serves a transaction, and while the SPI target takes a frame, as the ledger's lines of these units
show it (R518, R549). -/
def State.inService (s : State) : State := { s with dev := { s.dev with svc := { s.dev.svc with serving := true } } }
def State.inSpiFrame (s : State) : State := { s with dev := { s.dev with svc := { s.dev.svc with inFrame := true } } }

/-- A read of `code` was answered with `body`: it is sent and counted, and nothing else changes. -/
def MbAnswered (s u : State) (p : Bool) (code : Nat) (data body : List Byte) : Prop :=
  Sends s u [.reply .mb (s.mbSent p code data body)] ∧ Counted s u F.MB_CMDS ∧ OnlyRegs s u [F.MB_CMDS.off]

/-- A write of `code` took effect with outcome `st`: it is counted, and LAST_RESULT says so. -/
def MbDone (s u : State) (p : Bool) (code st : Nat) : Prop :=
  Counted s u F.MB_CMDS ∧ u.fld F.MB_LAST_RESULT_CMD = code + (if p then 128 else 0) ∧ u.fld F.MB_LAST_RESULT_STATUS = st

/-! ## Orders (R593 to R596) -/

/-- The issuer of an order has its answer (R596): the order-status register of the host, USB or JTAG path holds the kind, the status and
the epoch of the unit. -/
def Answered (u : State) (o : Order) (unit st : Nat) : Prop :=
  ∀ k, (o.src, k) ∈ [(OSrc.pf, 0), (.usb, 1), (.jtag, 2)] → u.fld (F.LEDG_OSTAT_KIND k) = o.kind ∧ u.fld (F.LEDG_OSTAT_STATUS k) = st ∧
    u.fld (F.LEDG_OSTAT_EPOCH k) = if unit = 127 then 0 else u.epoch unit

/-- The registers that an order writes beside its effect and its record. -/
def orderRegs : List Nat := [0x40010, 0x40014, 0x40018, 0x40030, 0x40034, 0x4003C] ++ catchRegs

end Sys2Proof.Machine
end

