-- ==== Sys2Proof/Certificates/Slice0/Obligations.lean ====
section
/-!
DEFINITION. Sys2Proof/Certificates/Slice0/Obligations.lean: the statements for the provers, chapter by chapter: what each command does
where it completes, what it leaves as it is, and what holds of every command and every step.
-/
open Sys2Proof Sys2Proof.Machine

/-! ## The block -/

/-- One step takes the command at the front of the queue and runs it on the rest of the machine.
The choices of the model that it rests on: log entry 1. -/
def Obligations.StepRunsFrontCommand : Prop :=
  (∀ (c : Instr) (l : List Instr) (s : State), s.pending = c :: l → step s = exec c (s.withPending l)) ∧
  ∀ (c : Instr) (s : State), step (s.withPending (c :: s.pending)) = exec c s

/-- Every command answers a next state in every state, and none touches the commands that wait.
The choices of the model that it rests on: log entries 1, 3. -/
def Obligations.EveryCommandGoesOn : Prop :=
  ∀ (c : Instr) (s : State), Completes c s fun u => u.pending = s.pending ∧ s.free ≤ u.free

/-- Every step keeps the register file and both memories in their canonical form.
The choices of the model that it rests on: log entries 2, 7. -/
def Obligations.StepKeepsCanonical : Prop :=
  ∀ s u : State, s.canonical = true → step s = .next u → u.canonical = true

/-- The state after reset has the canonical form; every register holds its reset value, memory reads zero, no command waits.
The choices of the model that it rests on: log entries 5, 6, 7. -/
def Obligations.ResetState : Prop :=
  State.reset.canonical = true ∧ (∀ off, State.reset.word off = RegMap.resetWord off) ∧
  (∀ a, State.reset.mem.read a = 0) ∧ State.reset.pending = [] ∧ State.reset.dev.pwr.por = true ∧ State.reset.now = 0

/-! ## Tile programs -/

/-- The scalar operations (R117): SD takes the operation's result on SA and the second operand, modulo 2^64; a shift by 64 or more
leaves SD open; MOVHI replaces the upper half; S0 stays 0, and no other register and no byte of memory changes.
Commands, as `tileCmd` names them: tAdd, tSub, tMul, tAnd, tOr, tXor, tShl, tShr, tSar, tMin, tMax, tMinu, tMaxu, tSlt, tSltu, tMovhi.
The choices of the model that it rests on: log entries 41, 42, 47. -/
def Obligations.ScalarOperations : Prop :=
  (∀ (s : State) (t k w : Nat) (op : TOp), op ∈ saluOps → op ≠ .movhi → s.issues t k op w = true →
    (op ∈ [TOp.shl, .shr, .sar] → (s.tile t).scalarB w < 64) →
    Completes (tileCmd op t k) s fun u =>
      (u.tile t).scalar (fSD w) =
        (if fSD w = 0 then 0 else scalarWant op ((s.tile t).scalar (fSA w)) ((s.tile t).scalarB' w)) ∧
      (∀ n, n ≠ fSD w → (u.tile t).scalar n = (s.tile t).scalar n) ∧
      SameVectors (s.tile t) (u.tile t) ∧ SameWork (s.tile t) (u.tile t) ∧
      GoesOn (s.tile t) (u.tile t) ((s.tile t).after k op w) ∧ OnlyTile s u t ∧ u.regs = s.regs) ∧
  -- a shift by 64 or more leaves SD open and everything else as above
  (∀ (s : State) (t k w : Nat) (op : TOp), op ∈ [TOp.shl, .shr, .sar] → s.issues t k op w = true → 64 ≤ (s.tile t).scalarB w →
    Completes (tileCmd op t k) s fun u =>
      (∀ n, n ≠ fSD w → (u.tile t).scalar n = (s.tile t).scalar n) ∧ (u.tile t).scalar 0 = 0 ∧
      SameVectors (s.tile t) (u.tile t) ∧ SameWork (s.tile t) (u.tile t) ∧
      GoesOn (s.tile t) (u.tile t) ((s.tile t).after k op w) ∧ OnlyTile s u t ∧ u.regs = s.regs) ∧
  -- MOVHI writes the upper half and keeps the lower
  (∀ (s : State) (t k w : Nat), s.issues t k .movhi w = true →
    Completes (tileCmd .movhi t k) s fun u =>
      (fSD w ≠ 0 → ((u.tile t).scalar (fSD w)).extractLsb' 32 32 = BitVec.ofNat 32 w ∧
        ((u.tile t).scalar (fSD w)).extractLsb' 0 32 = ((s.tile t).scalar (fSD w)).extractLsb' 0 32) ∧
      (∀ n, n ≠ fSD w → (u.tile t).scalar n = (s.tile t).scalar n) ∧ (u.tile t).scalar 0 = 0 ∧
      SameVectors (s.tile t) (u.tile t) ∧ SameWork (s.tile t) (u.tile t) ∧
      GoesOn (s.tile t) (u.tile t) ((s.tile t).after k .movhi w) ∧ OnlyTile s u t ∧ u.regs = s.regs)

/-- Scalar loads and stores (R117, R135, R136): a load takes its bytes from tile memory where no buffered store overlaps them,
and from the youngest overlapping store where that one holds them all; a store enters the buffer and leaves memory alone.
Commands, as `tileCmd` names them: tLd32, tLd64, tSt32, tSt64.
The choices of the model that it rests on: log entries 41, 42, 47. -/
def Obligations.ScalarMemory : Prop :=
  (∀ (s : State) (t k w n : Nat) (op : TOp), (op, n) ∈ [(TOp.ld32, 4), (.ld64, 8)] → s.issues t k op w = true →
    let x := s.tile t
    let a := scalarAddr x w
    x.busyAt a n = false →
    (∀ e ∈ x.stores, ∀ b ∈ e, b.1 < a ∨ a + n ≤ b.1) → s.poisonedIn (tileAt t + a) n = false →
    Completes (tileCmd op t k) s fun u =>
      (fSD w ≠ 0 → (u.tile t).sreg (fSD w) % 2 ^ (8 * n) = s.readN (tileAt t + a) n) ∧
      (∀ m, m ≠ fSD w → (u.tile t).sreg m = x.sreg m) ∧ SameVectors x (u.tile t) ∧ SameWork x (u.tile t) ∧
      GoesOn x (u.tile t) (x.after k op w) ∧ OnlyTile s u t ∧ u.regs = s.regs) ∧
  (∀ (s : State) (t k w n : Nat) (op : TOp) (old : List (List (Nat × Byte))) (bs : List Byte),
    (op, n) ∈ [(TOp.ld32, 4), (.ld64, 8)] → s.issues t k op w = true →
    let x := s.tile t
    let a := scalarAddr x w
    x.busyAt a n = false → bs.length = n → x.stores = old ++ [(bytesOf a n).zip bs] →
    Completes (tileCmd op t k) s fun u =>
      (fSD w ≠ 0 → (u.tile t).sreg (fSD w) % 2 ^ (8 * n) = ofBytes bs) ∧
      (∀ m, m ≠ fSD w → (u.tile t).sreg m = x.sreg m) ∧ SameVectors x (u.tile t) ∧ SameWork x (u.tile t) ∧
      GoesOn x (u.tile t) (x.after k op w) ∧ OnlyTile s u t ∧ u.regs = s.regs) ∧
  (∀ (s : State) (t k w n : Nat) (op : TOp), (op, n) ∈ [(TOp.st32, 4), (.st64, 8)] → s.issues t k op w = true →
    let x := s.tile t
    let a := scalarAddr x w
    x.busyAt a n = false → x.stores.length < 8 →
    Completes (tileCmd op t k) s fun u =>
      (u.tile t).stores = x.stores ++ [(bytesOf a n).zip (toBytes n (x.sreg (fSD w)))] ∧
      SameScalars x (u.tile t) ∧ SameVectors x (u.tile t) ∧
      (u.tile t).ops = x.ops ∧ (u.tile t).xfers = x.xfers ∧ (u.tile t).sel = x.sel ∧ (u.tile t).cdone = x.cdone ∧
      GoesOn x (u.tile t) (x.after k op w) ∧ OnlyTile s u t ∧ u.regs = s.regs)

/-- The floating-point rows of the vector engine (R117, R129, R130): every element that takes part gets the operation's result on
its operands, under the rounding, flush and mask rules; the sticky flags gather what was raised.
Commands, as `tileCmd` names them: tFadd, tFsub, tFmul, tFma, tFms, tFmax, tFmin, tFabs, tFneg, tFrcp, tFrsq, tFexp2, tFlog2, tFtanh, tFsel,
tFmov.
The choices of the model that it rests on: log entries 41, 47, 48, 49. -/
def Obligations.VectorFloat : Prop :=
  ∀ (s : State) (t k w : Nat) (op : TOp), op ∈ fpOps → s.issues t k op w = true →
    let x := s.tile t
    let f i := fpElem op (fmodeOf (x.seenMode false)) (x.elem (fVA w) i) (x.bElem w i) (x.elem (fVC w) i)
    Completes (tileCmd op t k) s fun u =>
      VectorGot x (u.tile t) (fMen w) (fZm w) (fMask w) (fVD w) (fun i => (f i).1) ∧
      FlagsRaised s u t (raisedAll ((x.taking (fMen w) (fMask w)).map fun i => (f i).2)) ∧
      SameScalars x (u.tile t) ∧ SameWork x (u.tile t) ∧ GoesOn x (u.tile t) (x.after k op w) ∧ OnlyTile s u t ∧
      SameRegsBut s u [tileReg t 0x088]

/-- The integer rows (R117, R123, R130): 32-bit two's complement, saturating under SAT. A shift by 32 or more leaves its element
open.
Commands, as `tileCmd` names them: tIadd, tIsub, tImul, tIand, tIor, tIxor, tIshl, tIshr, tIsar, tImax, tImin, tViota.
The choices of the model that it rests on: log entries 41, 47. -/
def Obligations.VectorInteger : Prop :=
  ∀ (s : State) (t k w : Nat) (op : TOp), op ∈ intOps → s.issues t k op w = true →
    let x := s.tile t
    let sat := bitsOf (x.seenMode false) 3 1 == 1
    Completes (tileCmd op t k) s fun u =>
      (∀ i, i < 256 → x.takes (fMen w) (fMask w) i = true → (op ∈ [TOp.ishl, .ishr, .isar] → x.bElem w i < 32) →
        (u.tile t).lane (fVD w) i = laneWant op sat i (x.lane (fVA w) i) (BitVec.ofNat 32 (x.bElem w i))) ∧
      (∃ f, VectorGot x (u.tile t) (fMen w) (fZm w) (fMask w) (fVD w) f) ∧
      SameScalars x (u.tile t) ∧ SameWork x (u.tile t) ∧ GoesOn x (u.tile t) (x.after k op w) ∧ OnlyTile s u t ∧ u.regs = s.regs

/-- Vector loads and stores (R117, R120, R130, R135, R136).
Commands, as `tileCmd` names them: tVld, tVst, tVlds, tVsts, tVldx, tVstx.
The choices of the model that it rests on: log entries 41, 44, 51. -/
def Obligations.VectorMemory : Prop :=
  (∀ (s : State) (t k w : Nat) (op : TOp), op ∈ [TOp.vld, .vlds, .vldx] → s.issues t k op w = true →
    let x := s.tile t
    let n := fmtBytes (mFmt w)
    x.stores = [] → (∀ i, i < 256 → x.takes (mMen w) (mMask w) i = true →
      x.busyAt (x.elemAddr op w i) n = false ∧ s.poisonedIn (tileAt t + x.elemAddr op w i) n = false) →
    Completes (tileCmd op t k) s fun u =>
      VectorGot x (u.tile t) (mMen w) (mZm w) (mMask w) (fVD w)
        (fun i => widen (mFmt w) (s.readN (tileAt t + x.elemAddr op w i) n)) ∧
      SameScalars x (u.tile t) ∧ SameWork x (u.tile t) ∧ GoesOn x (u.tile t) (x.after k op w) ∧ OnlyTile s u t ∧ u.regs = s.regs) ∧
  -- VST enters the store buffer as one entry
  (∀ (s : State) (t k w : Nat), s.issues t k .vst w = true →
    let x := s.tile t
    let n := fmtBytes (mFmt w)
    let v i := narrow (mFmt w) (fmodeOf (x.seenMode false)) (x.elem (fVD w) i)
    x.stores.length < 8 → x.taking (mMen w) (mMask w) ≠ [] →
    (∀ i, i < 256 → x.takes (mMen w) (mMask w) i = true → x.busyAt (x.elemAddr .vst w i) n = false) →
    Completes (tileCmd .vst t k) s fun u =>
      (u.tile t).stores = x.stores ++ [(x.taking (mMen w) (mMask w)).flatMap fun i =>
        (bytesOf (x.elemAddr .vst w i) n).zip (toBytes n (v i).1)] ∧
      FlagsRaised s u t (raisedAll ((x.taking (mMen w) (mMask w)).map fun i => (v i).2)) ∧
      SameScalars x (u.tile t) ∧ SameVectors x (u.tile t) ∧
      GoesOn x (u.tile t) (x.after k .vst w) ∧ OnlyTile s u t ∧ SameRegsBut s u [tileReg t 0x088]) ∧
  -- VSTS and VSTX write tile memory; where elements collide the one of the greatest index stays
  (∀ (s : State) (t k w : Nat) (op : TOp), op ∈ [TOp.vsts, .vstx] → s.issues t k op w = true →
    let x := s.tile t
    let n := fmtBytes (mFmt w)
    let v i := narrow (mFmt w) (fmodeOf (x.seenMode false)) (x.elem (fVD w) i)
    x.stores = [] → (∀ i, i < 256 → x.takes (mMen w) (mMask w) i = true → x.busyAt (x.elemAddr op w i) n = false) →
    Completes (tileCmd op t k) s fun u =>
      (∀ i, x.takes (mMen w) (mMask w) i = true → (∀ j, i < j → x.takes (mMen w) (mMask w) j = true →
          x.elemAddr op w j + n ≤ x.elemAddr op w i ∨ x.elemAddr op w i + n ≤ x.elemAddr op w j) →
        u.mem.reads (tileAt t + x.elemAddr op w i) n = toBytes n (v i).1) ∧
      (∀ a, (∀ i, x.takes (mMen w) (mMask w) i = true →
          a < tileAt t + x.elemAddr op w i ∨ tileAt t + x.elemAddr op w i + n ≤ a) → u.mem.read a = s.mem.read a) ∧
      FlagsRaised s u t (raisedAll ((x.taking (mMen w) (mMask w)).map fun i => (v i).2)) ∧
      SameScalars x (u.tile t) ∧ SameVectors x (u.tile t) ∧ SameWork x (u.tile t) ∧
      GoesOn x (u.tile t) (x.after k op w) ∧ SameHost s u ∧ SameRegsBut s u [tileReg t 0x088])

/-- Compares, mask logic and mask counts (R117, R130).
Commands, as `tileCmd` names them: tFclt, tFcle, tFceq, tFcun, tIclt, tIceq, tMand, tMor, tMxor, tMnot, tMpop, tMfirst.
The choices of the model that it rests on: log entries 41, 47, 49. -/
def Obligations.VectorMasks : Prop :=
  (∀ (s : State) (t k w : Nat) (op : TOp), op ∈ [TOp.fclt, .fcle, .fceq, .fcun, .iclt, .iceq] → s.issues t k op w = true →
    let x := s.tile t
    let c i := if op ∈ [TOp.iclt, .iceq] then (icompare op (x.elem (fVA w) i) (x.bElem w i), {})
      else fcompare op (x.elem (fVA w) i) (x.bElem w i)
    Completes (tileCmd op t k) s fun u =>
      (∀ i, i < 256 → (u.tile t).maskBit (fVD w) i = (x.takes (fMen w) (fMask w) i && (c i).1)) ∧
      (∀ m, m ≠ fVD w → ∀ i, (u.tile t).maskBit m i = x.maskBit m i) ∧ (u.tile t).vregs = x.vregs ∧
      FlagsRaised s u t (raisedAll ((x.taking (fMen w) (fMask w)).map fun i => (c i).2)) ∧
      SameScalars x (u.tile t) ∧ SameWork x (u.tile t) ∧ GoesOn x (u.tile t) (x.after k op w) ∧ OnlyTile s u t ∧
      SameRegsBut s u [tileReg t 0x088]) ∧
  (∀ (s : State) (t k w : Nat) (op : TOp) (g : Bool → Bool → Bool),
    (op = .mand ∧ g = and) ∨ (op = .mor ∧ g = or) ∨ (op = .mxor ∧ g = xor) ∨ (op = .mnot ∧ g = fun a _ => !a) →
    s.issues t k op w = true →
    let x := s.tile t
    Completes (tileCmd op t k) s fun u =>
      (∀ i, x.takes (fMen w) (fMask w) i = true →
        (u.tile t).maskBit (fVD w) i = g (x.maskBit (fVA w) i) (x.maskBit (fVB w) i)) ∧
      (∀ m, m ≠ fVD w → ∀ i, (u.tile t).maskBit m i = x.maskBit m i) ∧ (u.tile t).vregs = x.vregs ∧
      SameScalars x (u.tile t) ∧ SameWork x (u.tile t) ∧ GoesOn x (u.tile t) (x.after k op w) ∧ OnlyTile s u t ∧ u.regs = s.regs) ∧
  (∀ (s : State) (t k w : Nat) (op : TOp), op ∈ [TOp.mpop, .mfirst] → s.issues t k op w = true →
    let x := s.tile t
    let hits := (List.range 256).filter fun i => x.takes (fMen w) (fMask w) i && x.maskBit (fVA w) i
    Completes (tileCmd op t k) s fun u =>
      (fVSB w ≠ 0 → (u.tile t).sreg (fVSB w) = if op = .mpop then hits.length else hits.headD 256) ∧
      (∀ n, n ≠ fVSB w → (u.tile t).sreg n = x.sreg n) ∧ SameVectors x (u.tile t) ∧ SameWork x (u.tile t) ∧
      GoesOn x (u.tile t) (x.after k op w) ∧ OnlyTile s u t ∧ u.regs = s.regs)

/-- Conversions (R117, R388, R389, R391). With SR the rounding is stochastic and its counter goes up by one; the wrap of the counter
is recorded.
Commands, as `tileCmd` names them: tF2i, tI2f, tRbf16, tRfp16, tRe4m3, tRe5m2.
The choices of the model that it rests on: log entries 41, 47, 49, 50. -/
def Obligations.VectorConversions : Prop :=
  (∀ (s : State) (t k w : Nat), s.issues t k .i2f w = true →
    let x := s.tile t
    let md := fmodeOf (x.seenMode false)
    Completes (tileCmd .i2f t k) s fun u =>
      VectorGot x (u.tile t) (fMen w) (fZm w) (fMask w) (fVD w) (fun i => (fp32.round md.rnd md.ftz (intValue 32 (x.elem (fVA w) i))).1) ∧
      SameScalars x (u.tile t) ∧ SameWork x (u.tile t) ∧ GoesOn x (u.tile t) (x.after k .i2f w) ∧ OnlyTile s u t ∧
      SameRegsBut s u [tileReg t 0x088]) ∧
  (∀ (s : State) (t k w : Nat) (op : TOp), op ∈ [TOp.f2i, .rbf16, .rfp16, .re4m3, .re5m2] → s.issues t k op w = true → fBs w = false →
    let x := s.tile t
    let md := fmodeOf (x.seenMode false)
    Completes (tileCmd op t k) s fun u =>
      (∃ free : Nat → Nat, VectorGot x (u.tile t) (fMen w) (fZm w) (fMask w) (fVD w) (fun i =>
        if op = .f2i then (toInt md 32 (free i) (x.elem (fVA w) i)).1
        else (roundVia (vcvtFormat op) md (free i) (x.elem (fVA w) i)).1)) ∧
      SameScalars x (u.tile t) ∧ SameWork x (u.tile t) ∧ GoesOn x (u.tile t) (x.after k op w) ∧ OnlyTile s u t ∧
      SameRegsBut s u [tileReg t 0x088]) ∧
  (∀ (s : State) (t k w : Nat) (op : TOp), op ∈ [TOp.rbf16, .rfp16, .re4m3, .re5m2] → s.issues t k op w = true → fBs w = true →
    let x := s.tile t
    let md := fmodeOf (x.seenMode false)
    let lo := (s.word (tileReg t 0x150)).toNat
    let hi := (s.word (tileReg t 0x154)).toNat
    let ctr := (s.word (tileReg t 0x158)).toNat
    Completes (tileCmd op t k) s fun u =>
      VectorGot x (u.tile t) (fMen w) (fZm w) (fMask w) (fVD w) (fun i =>
        (roundSr (vcvtFormat op) md (srWord lo hi ctr i) (x.elem (fVA w) i)).1) ∧
      u.word (tileReg t 0x158) = s.word (tileReg t 0x158) + 1 ∧
      (ctr = 2 ^ 32 - 1 → x.srWrapped = false → u.dev.log.count = s.dev.log.count + 1 ∨ u.dev.log.count = s.dev.log.count + 2) ∧
      (ctr ≠ 2 ^ 32 - 1 → u.dev.log = s.dev.log) ∧
      SameScalars x (u.tile t) ∧ SameWork x (u.tile t) ∧ GoesOn x (u.tile t) (x.after k op w) ∧ SameBytes s u ∧
      SameRegsBut s u (tileReg t 0x088 :: tileReg t 0x158 :: catchRegs))

/-- Reductions, permutations and recipes (R117, R130, R131, R133, R134).
Commands, as `tileCmd` names them: tFsum, tFmaxr, tFminr, tIsum, tVperm, tVrot, tVbcast, tVext, tVins, tRcp.
The choices of the model that it rests on: log entries 41, 47, 49, 51. -/
def Obligations.VectorReductions : Prop :=
  (∀ (s : State) (t k w : Nat) (op : TOp), op ∈ [TOp.fsum, .fmaxr, .fminr, .isum] → s.issues t k op w = true →
    let x := s.tile t
    let md := fmodeOf (x.seenMode false)
    let l := x.taking (fMen w) (fMask w)
    Completes (tileCmd op t k) s fun u =>
      (fVSB w ≠ 0 → (u.tile t).sreg (fVSB w) % 2 ^ 32 =
        (if op = .fsum then (fsumOf md x (fVA w) l).1 else if op = .isum then (l.map (x.elem (fVA w))).sum
          else (fextremeOf md (op == .fminr) x (fVA w) l).1) % 2 ^ 32) ∧
      (∀ n, n ≠ fVSB w → (u.tile t).sreg n = x.sreg n) ∧ SameVectors x (u.tile t) ∧ SameWork x (u.tile t) ∧
      GoesOn x (u.tile t) (x.after k op w) ∧ OnlyTile s u t ∧ SameRegsBut s u [tileReg t 0x088]) ∧
  (∀ (s : State) (t k w : Nat) (op : TOp), op ∈ [TOp.vperm, .vrot, .vbcast] → s.issues t k op w = true →
    let x := s.tile t
    Completes (tileCmd op t k) s fun u =>
      (∃ turn : Nat → Nat, VectorGot x (u.tile t) (fMen w) (fZm w) (fMask w) (fVD w) (fun i =>
        if op = .vperm then x.elem (fVA w) (x.elem (fVB w) i % 256)
        else if op = .vbcast then x.sreg (fVSB w) else x.elem (fVA w) (turn i % 256))) ∧
      SameScalars x (u.tile t) ∧ SameWork x (u.tile t) ∧ GoesOn x (u.tile t) (x.after k op w) ∧ OnlyTile s u t ∧ u.regs = s.regs) ∧
  -- which element VEXT takes and VINS writes is open
  (∀ (s : State) (t k w : Nat), s.issues t k .vext w = true →
    let x := s.tile t
    Completes (tileCmd .vext t k) s fun u =>
      (fVSB w ≠ 0 → ∃ j, j < 256 ∧ (u.tile t).sreg (fVSB w) % 2 ^ 32 = x.elem (fVA w) j) ∧
      (∀ n, n ≠ fVSB w → (u.tile t).sreg n = x.sreg n) ∧ SameVectors x (u.tile t) ∧ SameWork x (u.tile t) ∧
      GoesOn x (u.tile t) (x.after k .vext w) ∧ OnlyTile s u t ∧ u.regs = s.regs) ∧
  (∀ (s : State) (t k w : Nat), s.issues t k .vins w = true →
    let x := s.tile t
    Completes (tileCmd .vins t k) s fun u =>
      (∃ j, j < 256 ∧ (x.takes (fMen w) (fMask w) j = true → (u.tile t).elem (fVD w) j = x.sreg (fVSB w) % 2 ^ 32) ∧
        ∀ v i, i < 256 → v ≠ fVD w ∨ i ≠ j → (u.tile t).elem v i = x.elem v i) ∧
      (u.tile t).masks = x.masks ∧ SameScalars x (u.tile t) ∧ SameWork x (u.tile t) ∧
      GoesOn x (u.tile t) (x.after k .vins w) ∧ OnlyTile s u t ∧ u.regs = s.regs) ∧
  -- a recipe of one micro-operation with one input and one output is that operation on each element
  (∀ (s : State) (t k w : Nat) (op : TOp), s.issues t k .rcp w = true →
    s.poisonAt t 256 [recipeAt (s.tile t) w] = none →
    let x := s.tile t
    let md := fmodeOf (x.seenMode false)
    let h := s.recipeHdr t w
    let m := (s.microOps t w).headD 0
    bitsOf h 0 5 = 0 → bitsOf h 5 2 = 0 → bitsOf h 7 1 = 0 → bitsOf h 8 3 = 0 →
    fpOps[bitsOf m 26 6]? = some op → bitsOf m 23 3 = 0 → bitsOf m 18 5 = 8 → bitsOf m 13 5 = 8 → bitsOf m 8 5 = 8 →
    Completes (tileCmd .rcp t k) s fun u =>
      VectorGot x (u.tile t) (fMen w) (fZm w) (fMask w) (rOut w 0) (fun i =>
        (fpElem op md (x.elem (rIn w 0) i) (x.elem (rIn w 0) i) (x.elem (rIn w 0) i)).1) ∧
      SameScalars x (u.tile t) ∧ SameWork x (u.tile t) ∧ GoesOn x (u.tile t) (x.after k .rcp w) ∧ OnlyTile s u t ∧
      SameRegsBut s u [tileReg t 0x088])

/-- NOP, MSET, FENCE, TICK, END and BRK (R115, R117, R123, R137, R141).
The choices of the model that it rests on: log entries 41, 55. -/
def Obligations.ControlRows : Prop :=
  (∀ (s : State) (t k w : Nat), s.issues t k .nop w = true →
    Completes (.tNop t { slot := k }) s fun u => SameScalars (s.tile t) (u.tile t) ∧ SameVectors (s.tile t) (u.tile t) ∧
      SameWork (s.tile t) (u.tile t) ∧ GoesOn (s.tile t) (u.tile t) ((s.tile t).advance .nop 0) ∧ OnlyTile s u t ∧ u.regs = s.regs) ∧
  -- MSET writes the fields of TSQ_MODE whose FMASK bit is set
  (∀ (s : State) (t k w : Nat), s.issues t k .mset w = true → (s.tile t).loops = [] →
    Completes (.tMset t { slot := k }) s fun u =>
      let m := (u.tile t).mode
      let o := (s.tile t).mode
      bitsOf m 0 2 = bitsOf (if inMask (bitsOf w 48 4) 0 then w else o) 0 2 ∧
      bitsOf m 2 1 = bitsOf (if inMask (bitsOf w 48 4) 1 then w else o) 2 1 ∧
      bitsOf m 3 1 = bitsOf (if inMask (bitsOf w 48 4) 2 then w else o) 3 1 ∧
      bitsOf m 4 8 = bitsOf (if inMask (bitsOf w 48 4) 3 then w else o) 4 8 ∧
      (u.tile t).pc = (s.tile t).pc + 1 ∧ (u.tile t).shadow.isSome = true ∧
      SameScalars (s.tile t) (u.tile t) ∧ SameVectors (s.tile t) (u.tile t) ∧ SameWork (s.tile t) (u.tile t) ∧
      OnlyTile s u t ∧ u.regs = s.regs) ∧
  (∀ (s : State) (t k w : Nat), s.issues t k .fence w = true → (s.tile t).stores = [] → (s.tile t).ops = [] → (s.tile t).xfers = [] →
    Completes (.tFence t { slot := k }) s fun u => SameScalars (s.tile t) (u.tile t) ∧ SameVectors (s.tile t) (u.tile t) ∧
      SameWork (s.tile t) (u.tile t) ∧ GoesOn (s.tile t) (u.tile t) ((s.tile t).after k .fence w) ∧ OnlyTile s u t ∧
      u.regs = s.regs) ∧
  (∀ (s : State) (t k w : Nat), s.issues t k .tick w = true →
    Completes (.tTick t { slot := k }) s fun u => (fSD w ≠ 0 → (u.tile t).scalar (fSD w) = s.dev.hs.now) ∧
      (∀ n, n ≠ fSD w → (u.tile t).sreg n = (s.tile t).sreg n) ∧ SameVectors (s.tile t) (u.tile t) ∧
      SameWork (s.tile t) (u.tile t) ∧ GoesOn (s.tile t) (u.tile t) ((s.tile t).after k .tick w) ∧ OnlyTile s u t ∧
      u.regs = s.regs) ∧
  -- END ends the program once every chunk of the slice has its CDONE and no matrix work or transfer is unfinished
  (∀ (s : State) (t k w : Nat) (l : Launch), s.issues t k .end_ w = true → (s.tile t).detached = false →
    (s.tile t).launch = some l → (∀ i, i < l.chunks.length → i ∈ (s.tile t).cdone) → (s.tile t).ops = [] →
    (s.tile t).xfers = [] → (s.tile t).waiting = [] → k = 0 →
    Completes (.tEnd t { slot := k }) s fun u => (u.tile t).run = 0 ∧ (u.tile t).launch = none ∧ SameBytes s u) ∧
  -- BRK halts the tile before the bundle with cause 14
  (∀ (s : State) (t w : Nat), s.issuable t 0 .brk w = true → (s.tile t).passBp = none → (s.tile t).launch = none →
    (s.tile t).delay = none → (s.tile t).shadow = none → (s.tile t).loops = [] → (s.tile t).pc < 2 ^ 13 → t < 512 →
    Completes (.tBrk t { slot := 0 }) s fun u => (u.tile t).run = 2 ∧ (u.tile t).pc = (s.tile t).pc ∧
      bitsOf (u.word (tileReg t 0x004)).toNat 0 8 = 14 ∧ (u.word (tileReg t 0x008)).toNat = (s.tile t).pc ∧
      SameScalars (s.tile t) (u.tile t) ∧ SameVectors (s.tile t) (u.tile t) ∧ SameWork (s.tile t) (u.tile t) ∧ SameBytes s u)

/-- CHK selects a chunk of the slice, HDR loads a word of its header, and CDONE marks its stage complete on the tile; the last
tile's CDONE completes the stage (R84, R91, R114).
The choices of the model that it rests on: log entries 41, 46. -/
def Obligations.ChunkRows : Prop :=
  (∀ (s : State) (t k w : Nat) (l : Launch), s.issues t k .chk w = true → (s.tile t).launch = some l →
    (s.tile t).sreg (fSA w) < l.chunks.length →
    Completes (.tChk t { slot := k }) s fun u => (u.tile t).sel = some ((s.tile t).sreg (fSA w)) ∧
      SameScalars (s.tile t) (u.tile t) ∧ SameVectors (s.tile t) (u.tile t) ∧ (u.tile t).cdone = (s.tile t).cdone ∧
      GoesOn (s.tile t) (u.tile t) ((s.tile t).after k .chk w) ∧ OnlyTile s u t ∧ u.regs = s.regs) ∧
  (∀ (s : State) (t k w : Nat) (c : Chunk), s.issues t k .hdr w = true → s.chunkOf (s.tile t).chosen = some c →
    Completes (.tHdr t { slot := k }) s fun u =>
      (fSD w ≠ 0 → (u.tile t).sreg (fSD w) = c.headerWord (bitsOf w 40 2) % 2 ^ 64) ∧
      (∀ n, n ≠ fSD w → (u.tile t).sreg n = (s.tile t).sreg n) ∧ SameVectors (s.tile t) (u.tile t) ∧
      SameWork (s.tile t) (u.tile t) ∧ GoesOn (s.tile t) (u.tile t) ((s.tile t).after k .hdr w) ∧ OnlyTile s u t ∧
      u.regs = s.regs) ∧
  (∀ (s : State) (t k w i j : Nat) (l : Launch) (n a : Nat) (c : Chunk), s.issues t k .cdone w = true →
    (s.tile t).detached = false → (s.tile t).ops = [] → (s.tile t).xfers = [] → (s.tile t).launch = some l →
    (s.tile t).sel = some j → l.chunks[j]? = some (n, a) → j ∉ (s.tile t).cdone → s.runIdx l.stage (n, a) = some i →
    (s.slot n).chunks[i]? = some c → t ∈ c.owing →
    Completes (.tCdone t { slot := k }) s fun u => j ∈ (u.tile t).cdone ∧
      ((∃ b ∈ c.owing, b ≠ t) →
        (u.slot n).chunks[i]? = some { c with owing := c.owing.filter (· != t) } ∧ u.regs = s.regs ∧ SameBytes s u) ∧
      ((∀ b ∈ c.owing, b = t) → ∀ g st, (s.planeFor c.part c.old).group c.group = some g → c.running = some st →
        (st + 1 < g.stages →
          (u.slot n).chunks[i]? = some { c with owing := [], running := none, done := st + 1, doneAt := s.now }) ∧
        (g.stages ≤ st + 1 → (u.slot n).chunks = (s.slot n).chunks.eraseIdx i)))

/-- BRANCH, CALL, RET, LOOP and SETVL (R117 to R120).
The choices of the model that it rests on: log entries 41, 45. -/
def Obligations.SequencerRows : Prop :=
  (∀ (s : State) (t w : Nat), s.issues t 0 .branch w = true →
    let x := s.tile t
    let a := x.scalar (bSA w)
    let b := x.scalar (bSB w)
    let taken := [a == b, a != b, a.slt b, !a.slt b, a.ult b, !a.ult b].getD (bitsOf w 56 4) true
    let goal := ((BitVec.ofNat 14 x.pc) + BitVec.ofNat 14 w).toNat
    Completes (.tBranch t { slot := 0 }) s fun u => (u.tile t).pc = x.pc + 1 ∧
      (u.tile t).delay = some { branch := x.pc, next := if taken then goal else x.pc + 2, taken := taken } ∧
      SameScalars x (u.tile t) ∧ SameVectors x (u.tile t) ∧ SameWork x (u.tile t) ∧ OnlyTile s u t ∧ u.regs = s.regs) ∧
  (∀ (s : State) (t w : Nat), s.issues t 0 .call w = true →
    let x := s.tile t
    Completes (.tCall t { slot := 0 }) s fun u => (u.tile t).pc = x.pc + 1 ∧ (u.tile t).sreg 31 = (x.pc + 2) % 2 ^ 64 ∧
      (u.tile t).delay = some { branch := x.pc, next := (BitVec.ofNat 14 x.pc + BitVec.ofNat 14 w).toNat, taken := true } ∧
      (∀ n, n ≠ 31 → (u.tile t).sreg n = x.sreg n) ∧ SameVectors x (u.tile t) ∧ SameWork x (u.tile t) ∧ OnlyTile s u t ∧
      u.regs = s.regs) ∧
  (∀ (s : State) (t w : Nat), s.issues t 0 .ret w = true →
    let x := s.tile t
    Completes (.tRet t { slot := 0 }) s fun u => (u.tile t).pc = x.pc + 1 ∧
      (u.tile t).delay = some { branch := x.pc, next := x.sreg 31 % 2 ^ 13, taken := true } ∧
      SameScalars x (u.tile t) ∧ SameVectors x (u.tile t) ∧ SameWork x (u.tile t) ∧ OnlyTile s u t ∧ u.regs = s.regs) ∧
  -- LOOP: the count of each kind; a count of zero skips the body and takes no level
  (∀ (s : State) (t w : Nat), s.issues t 0 .loop w = true →
    let x := s.tile t
    let n := x.sreg (lSC w)
    let vl := bitsOf w 44 8 + 1
    let strip := bitsOf w 58 2 == 2
    let count := if bitsOf w 58 2 = 0 then bitsOf w 20 24 else if bitsOf w 58 2 = 1 then n % 2 ^ 32 else (n + vl - 1) / vl
    Completes (.tLoop t { slot := 0 }) s fun u =>
      (count = 0 → (u.tile t).pc = x.pc + bitsOf w 0 13 + 1 ∧ (u.tile t).loops = x.loops) ∧
      (count ≠ 0 → (u.tile t).pc = x.pc + 1 ∧ (u.tile t).loops = x.loops ++ [{
        start := x.pc + 1, stop := x.pc + bitsOf w 0 13, count := count, strip := strip,
        last := if strip then n - (count - 1) * vl else 0, maxvl := vl }] ∧
        (strip = true → x.vlens.length = 5 → x.loops.length < 4 →
          (u.tile t).vlens.getD (x.loops.length + 1) 0 = if count = 1 then n else vl) ∧
        (strip = false → (u.tile t).vlens = x.vlens)) ∧
      SameScalars x (u.tile t) ∧ SameVectors x (u.tile t) ∧ SameWork x (u.tile t) ∧ OnlyTile s u t ∧ u.regs = s.regs) ∧
  (∀ (s : State) (t w : Nat), s.issues t 0 .setvl w = true →
    let x := s.tile t
    x.loops.length < x.vlens.length → x.delay = none → (∀ l, x.loops.getLast? = some l → l.stop ≠ x.pc) →
    Completes (.tSetvl t { slot := 0 }) s fun u => (u.tile t).pc = x.pc + 1 ∧
      (u.tile t).vl = min (if bitsOf w 59 1 = 1 then x.sreg (fSA w) else bitsOf w 0 9) 256 ∧
      SameScalars x (u.tile t) ∧ SameVectors x (u.tile t) ∧ SameWork x (u.tile t) ∧ OnlyTile s u t ∧ u.regs = s.regs)

/-- MISSUE, XGET and XPUT copy a descriptor and issue work once the store buffer is empty and a place is free; MWAIT and XWAIT
pass when no more than N are unfinished (R137, R152 to R154, R217).
The choices of the model that it rests on: log entries 41, 55. -/
def Obligations.IssueRows : Prop :=
  (∀ (s : State) (t k w : Nat), s.issues t k .missue w = true →
    let x := s.tile t
    let a := issueAddr x w
    x.stores = [] → x.ops.length < 4 → s.poisonedIn (tileAt t + a) 64 = false →
    Completes (.tMissue t { slot := k }) s fun u => (∃ o, (u.tile t).ops = x.ops ++ [o] ∧ o.addr = a ∧ o.started = false ∧ o.col = 0 ∧
        o.mx = bitsOf (x.seenMode false) 4 8 ∧ o.desc = (List.range 16).map fun i => s.read32 (tileAt t + a + 4 * i)) ∧
      (u.tile t).xfers = x.xfers ∧ SameScalars x (u.tile t) ∧ SameVectors x (u.tile t) ∧
      GoesOn x (u.tile t) (x.after k .missue w) ∧ OnlyTile s u t ∧ u.regs = s.regs) ∧
  (∀ (s : State) (t k w : Nat) (put : Bool), s.issues t k (if put then .xput else .xget) w = true →
    let x := s.tile t
    let a := issueAddr x w
    x.stores = [] → x.xfers.length < 8 → s.poisonedIn (tileAt t + a) 32 = false →
    Completes (if put then .tXput t { slot := k } else .tXget t { slot := k }) s fun u => (∃ y, (u.tile t).xfers = x.xfers ++ [y] ∧ y.put = put ∧
        y.addr = a ∧ y.started = false ∧ y.chunk = x.chosen ∧ y.desc = (List.range 8).map fun i => s.read32 (tileAt t + a + 4 * i)) ∧
      (u.tile t).ops = x.ops ∧ SameScalars x (u.tile t) ∧ SameVectors x (u.tile t) ∧
      GoesOn x (u.tile t) (x.after k (if put then .xput else .xget) w) ∧ OnlyTile s u t ∧ u.regs = s.regs) ∧
  (∀ (s : State) (t k w : Nat), s.issues t k .mwait w = true → (s.tile t).ops.length ≤ fOffset w →
    Completes (.tMwait t { slot := k }) s fun u => SameScalars (s.tile t) (u.tile t) ∧ SameVectors (s.tile t) (u.tile t) ∧
      SameWork (s.tile t) (u.tile t) ∧ GoesOn (s.tile t) (u.tile t) ((s.tile t).after k .mwait w) ∧ OnlyTile s u t ∧
      u.regs = s.regs) ∧
  (∀ (s : State) (t k w : Nat), s.issues t k .xwait w = true → (s.tile t).xfers.length ≤ fOffset w →
    Completes (.tXwait t { slot := k }) s fun u => SameScalars (s.tile t) (u.tile t) ∧ SameVectors (s.tile t) (u.tile t) ∧
      SameWork (s.tile t) (u.tile t) ∧ GoesOn (s.tile t) (u.tile t) ((s.tile t).after k .xwait w) ∧ OnlyTile s u t ∧
      u.regs = s.regs) ∧
  -- an operation or a transfer that may not pass yet leaves the tile where it stands
  (∀ (s : State) (t k w : Nat), (s.issues t k .mwait w = true → fOffset w < (s.tile t).ops.length →
      Completes (.tMwait t { slot := k }) s fun u => u.regs = s.regs ∧ u.dev = s.dev) ∧
    (s.issues t k .xwait w = true → fOffset w < (s.tile t).xfers.length →
      Completes (.tXwait t { slot := k }) s fun u => u.regs = s.regs ∧ u.dev = s.dev))

/-- An exception (R126, R127, R148): no instruction of the bundle takes effect; TSQ_CAUSE and TSQ_EPC tell the cause and the restart
point; the tile reloads, or halts with HALT_ON_EXC.
The choices of the model that it rests on: log entries 41, 43, 44, 126. -/
def Obligations.ExceptionsAreExact : Prop :=
  ∀ (s : State) (t k : Nat) (op : TOp) (w : Nat) (e : EccErr) (f : Found), s.ready = true → (s.tile t).run = 1 → k < 2 →
    opOf (s.slotWord t k) = some op → s.slotWord t k = w → s.fetches t = true →
    s.bundleFault t ((s.tile t).seenMode false) = some f → t < 512 →
    Completes (tileCmd op t k e) s fun u =>
      bitsOf (u.word (tileReg t 0x004)).toNat 0 8 = f.cause.code ∧
      (u.word (tileReg t 0x008)).toNat = (s.tile t).restart % 2 ^ 13 ∧
      (f.info = none → u.word (tileReg t 0x00C) = s.word (tileReg t 0x00C)) ∧
      (u.tile t).run = (if s.bit (F.TSQ_DBG_CTL_HALT_ON_EXC (t / 16) (t % 16)) then 2 else 3) ∧
      SameScalars (s.tile t) (u.tile t) ∧ SameVectors (s.tile t) (u.tile t) ∧ (u.tile t).stores = (s.tile t).stores ∧
      (u.tile t).ops = (s.tile t).ops ∧ (u.tile t).xfers = (s.tile t).xfers

/-- Draining the store buffer, reloading a tile, and debug access (R128, R135, R140 to R142, R149).
The choices of the model that it rests on: log entries 52, 54. -/
def Obligations.TileUpkeep : Prop :=
  -- the oldest entry drains: here one whose bytes are consecutive
  (∀ (s : State) (t a : Nat) (bs : List Byte) (l : List (List (Nat × Byte))), bs ≠ [] →
    (s.tile t).stores = (bytesOf a bs.length).zip bs :: l →
    Completes (.storeBufferDrain t) s fun u => (u.tile t).stores = l ∧ u.mem.reads (tileAt t + a) bs.length = bs ∧
      SameBytesBut s u (tileAt t + a) bs.length ∧ SameHost s u ∧ u.regs = s.regs) ∧
  (∀ (s : State) (t : Nat), s.ready = true → (s.tile t).run = 3 → (s.tile t).ops = [] → (s.tile t).xfers = [] →
    (s.tile t).waiting = [] → t < 512 →
    Completes (.tileReloadDone t) s fun u => (u.tile t).run = 0 ∧ (u.tile t).stores = [] ∧ (u.tile t).launch = none ∧
      (∀ n, (u.tile t).sreg n = 0) ∧ (∀ v i, (u.tile t).elem v i = 0) ∧
      u.fld ⟨tileReg t 0x090, 0, 32⟩ = min (s.fld ⟨tileReg t 0x090, 0, 32⟩ + 1) (2 ^ 32 - 1)) ∧
  (∀ (s : State) (p : Path) (t : Nat), s.reach p (tileReg t 0x014) = true → s.benchDrops (tileReg t 0x014) = none →
    fuseBit s.dev.chuck 2 = false → t < 512 →
    ((s.tile t).run = 1 → (s.tile t).launch = none → Completes (.tileHalt p t) s fun u => (u.tile t).run = 2 ∧ (u.tile t).pc = (s.tile t).restart ∧
      SameScalars (s.tile t) (u.tile t) ∧ SameVectors (s.tile t) (u.tile t) ∧ SameWork (s.tile t) (u.tile t) ∧ SameBytes s u) ∧
    ((s.tile t).run = 2 → Completes (.tileResume p t) s fun u => (u.tile t).run = 1 ∧
      (u.tile t).detached = ((s.tile t).detached || (s.tile t).excHalt) ∧ (u.tile t).pc = (s.tile t).pc ∧
      SameScalars (s.tile t) (u.tile t) ∧ SameVectors (s.tile t) (u.tile t) ∧ OnlyTile s u t ∧ u.regs = s.regs) ∧
    ((s.tile t).run = 2 → (s.tile t).delay = none → (s.tile t).shadow = none → (s.tile t).loops = [] → s.fetchOk t = true →
      (s.overdue t).isEmpty = true → (s.poisonAt t 8 [(s.tile t).bundleAt, (s.tile t).bundleAt + 8]).isNone = true → s.slotWord t 0 = 0 → s.slotWord t 1 = 0 →
      Completes (.tileStep p t) s fun u => (u.tile t).run = 2 ∧ (u.tile t).pc = (s.tile t).pc + 1 ∧
        (u.word (tileReg t 0x008)).toNat = ((s.tile t).pc + 1) % 2 ^ 13 ∧
        SameScalars (s.tile t) (u.tile t) ∧ SameVectors (s.tile t) (u.tile t) ∧ SameWork (s.tile t) (u.tile t) ∧ SameBytes s u)) ∧
  (∀ (s : State) (p : Path) (t : Nat) (hi : Bool) (v : Word), s.reach p (tileReg t (if hi then 0x068 else 0x064)) = true →
    s.benchDrops (tileReg t (if hi then 0x068 else 0x064)) = none → fuseBit s.dev.chuck 2 = false → (s.tile t).run = 2 →
    let r := s.fld (F.TSQ_DSEL_REG (t / 16) (t % 16))
    let e := s.fld (F.TSQ_DSEL_ELEM (t / 16) (t % 16))
    Completes (.debugDataWrite p t hi v) s fun u =>
      (s.fld (F.TSQ_DSEL_SPACE (t / 16) (t % 16)) = 0 → r ≠ 0 → bitsOf ((u.tile t).sreg r) (if hi then 32 else 0) 32 = v.toNat ∧
        bitsOf ((u.tile t).sreg r) (if hi then 0 else 32) 32 = bitsOf ((s.tile t).sreg r) (if hi then 0 else 32) 32) ∧
      (s.fld (F.TSQ_DSEL_SPACE (t / 16) (t % 16)) = 1 → r < 16 → hi = false → (u.tile t).elem r e = v.toNat) ∧
      (∀ n, n ≠ r → (u.tile t).sreg n = (s.tile t).sreg n) ∧ OnlyTile s u t ∧ u.regs = s.regs)

/-- Matrix operations start, work and end; transfers start and move their lines (R159, R171, R189, R217 to R219).
The choices of the model that it rests on: log entries 56, 58, 60, 139, 141. -/
def Obligations.MatrixAndTransfers : Prop :=
  (∀ (s : State) (t : Nat) (o : MtxOp) (l : List MtxOp), s.ready = true → (s.tile t).ops = o :: l → o.started = false →
    o.bad = none → o.descOk = true → o.rangeOk (s.tile t) = true → o.overlapOk = true →
    Completes (.mtxOpStart t) s fun u => (u.tile t).ops = { o with started := true } :: l ∧
      SameScalars (s.tile t) (u.tile t) ∧ SameVectors (s.tile t) (u.tile t) ∧ OnlyTile s u t ∧ u.regs = s.regs) ∧
  (∀ (s : State) (t addr : Nat) (o : MtxOp) (l : List MtxOp), s.ready = true → (s.tile t).ops = o :: l → o.started = true →
    o.overlapOk = true → o.col < o.blocks → MtxOp.readMeta s t o o.col = .ok → (∀ r, r < o.rowBlocks → MtxOp.tilePoison s t o r o.col = none) →
    Completes (.mtxColumnBlock t .none addr) s fun u => (u.tile t).ops = { o with col := o.col + 1 } :: l ∧
      SameScalars (s.tile t) (u.tile t) ∧ SameVectors (s.tile t) (u.tile t) ∧ SameHost s u ∧
      (∀ b, (∀ m, m < o.rows → b < tileAt t + o.addrOf 7 + m * o.addrOf 8 + packedBytes o.cfmt (64 * o.col) ∨
          tileAt t + o.addrOf 7 + m * o.addrOf 8 + packedBytes o.cfmt (64 * o.col) +
            (o.blockCols o.col).length * packedBytes o.cfmt 1 ≤ b) → u.mem.read b = s.mem.read b) ∧
      (o.rows = 1 → u.mem.reads (tileAt t + o.addrOf 7 + packedBytes o.cfmt (64 * o.col))
          ((o.blockCols o.col).length * packedBytes o.cfmt 1) =
        (o.blockCols o.col).flatMap fun n => toBytes (packedBytes o.cfmt 1) (MtxOp.element s t o 0 n).1)) ∧
  (∀ (s : State) (t : Nat) (o : MtxOp) (l : List MtxOp), s.ready = true → (s.tile t).ops = o :: l → o.started = true →
    o.col = o.blocks → (s.tile t).run = 1 → t < 512 →
    Completes (.mtxOpComplete t) s fun u => (u.tile t).ops = l ∧
      u.fld ⟨tileReg t 0x110, 0, 32⟩ = min (s.fld ⟨tileReg t 0x110, 0, 32⟩ + 1) (2 ^ 32 - 1) ∧
      SameScalars (s.tile t) (u.tile t) ∧ SameVectors (s.tile t) (u.tile t) ∧ OnlyTile s u t ∧
      SameRegsBut s u [tileReg t 0x110, tileReg t 0x114, tileReg t 0x130]) ∧
  (∀ (s : State) (t : Nat) (x : Xfer) (l : List Xfer), s.ready = true → (s.tile t).xfers = x :: l → x.started = false →
    x.waits = false → s.startOf t x = .go →
    Completes (.xferStart t) s fun u => (u.tile t).xfers = { x with started := true, waits := false } :: l ∧
      SameScalars (s.tile t) (u.tile t) ∧ SameVectors (s.tile t) (u.tile t) ∧ OnlyTile s u t ∧ u.regs = s.regs) ∧
  -- a GET of one line of device memory
  (∀ (s : State) (t line : Nat) (x : Xfer) (l : List Xfer) (a d : Nat), s.ready = true → (s.tile t).xfers = x :: l →
    x.started = true → x.put = false → s.startOf t x = .go → x.lines = [(d, a)] → Xfer.source? s t x (d, a) = some a →
    s.poisonedIn a 64 = false → (s.tile t).run = 1 →
    Completes (.xferComplete t .none line {} []) s fun u => (u.tile t).xfers = l ∧
      u.mem.reads (tileAt t + d) 64 = s.mem.reads a 64 ∧ SameBytesBut s u (tileAt t + d) 64 ∧
      SameScalars (s.tile t) (u.tile t) ∧ SameVectors (s.tile t) (u.tile t) ∧ SameHost s u ∧ u.regs = s.regs) ∧
  -- a PUT of one line into the Store, outside its system area and any closed merge bank
  (∀ (s : State) (t line : Nat) (x : Xfer) (l : List Xfer) (a d : Nat), s.ready = true → (s.tile t).xfers = x :: l →
    x.started = true → x.put = true → s.startOf t x = .go → x.lines = [(d, a)] → s.place a = .store →
    s.dropsIn a 64 = false → s.closedAt a = none →
    s.poisonedIn (tileAt t + d) 64 = false → (s.tile t).run = 1 → (s.tile t).detached = false →
    Completes (.xferComplete t .none line {} []) s fun u => (u.tile t).xfers = l ∧
      u.mem.reads a 64 = s.mem.reads (tileAt t + d) 64 ∧ SameBytesBut s u a 64 ∧
      SameScalars (s.tile t) (u.tile t) ∧ SameVectors (s.tile t) (u.tile t) ∧ SameHost s u ∧ u.regs = s.regs)

/-! ## The Headstock -/

/-- With no command waiting, a step is one tick: nothing in power-on reset or before the count starts; one more while the device
works (R32); in REST the whole ticks of the measured ratio, with the fraction carried (R54). A correction that is under way accrues over
the tick, and REMAIN counts down one tick toward zero whenever a whole one has accrued (R44). No memory changes, but where the end of a cold reset's hold detaches the USB port.
The choices of the model that it rests on: log entry 2. -/
def Obligations.IdleStepAdvancesCount : Prop :=
  ∀ s : State, s.pending = [] → ∃ u, step s = .next u ∧
    ((s.dev.pwr.por = true ∨ s.dev.hs.counting = false) → u = s) ∧
    (s.dev.pwr.por = false → s.dev.hs.counting = true → s.carried = false →
      u.dev.hs.now = s.dev.hs.now + 1 ∧
      (s.remain = 0 → s.dev.hs.modeWas = none → s.dev.svc.usbOff = 0 → u.regs = s.regs ∧
        u.dev = { s.dev with hs := { s.dev.hs with now := s.dev.hs.now + 1, ppsOutLeft := s.dev.hs.ppsOutLeft - 1 } }) ∧
      (s.dev.hs.slewFrac + s.slewThrough.natAbs < 256000000000 → u.remain = s.remain) ∧
      (256000000000 ≤ s.dev.hs.slewFrac + s.slewThrough.natAbs → 1 < s.remain → u.remain = s.remain - 1) ∧
      (256000000000 ≤ s.dev.hs.slewFrac + s.slewThrough.natAbs → s.remain < -1 → u.remain = s.remain + 1)) ∧
    (s.dev.pwr.por = false → s.dev.hs.counting = true → s.carried = true → s.dev.hs.restFrac < 256 →
      let r := (s.word F.TB_REST_RATIO_FRAC.off).toNat
      u.dev.hs.now = s.dev.hs.now + BitVec.ofNat 64 ((s.dev.hs.restFrac + r) / 256) ∧
      u.dev.hs.restFrac = (s.dev.hs.restFrac + r) % 256 ∧ u.regs = s.regs) ∧
    (s.dev.svc.usbOff ≠ 1 ∨ s.unitState 116 = 0 → u.mem = s.mem) ∧ u.host = s.host

/-- No command but a TBPPS edge and a power-on reset changes TB_NOW (R33, R35). -/
def Obligations.CountIsNeverStepped : Prop :=
  ∀ (c : Instr) (s u : State), (∀ r, c ≠ .tbppsEdge r) → c ≠ .powerOnReset → exec c s = .next u → u.dev.hs.now = s.dev.hs.now

/-- The states of the Headstock (R32, R37 to R40): what each event of the reference does to unit 40 and to the count.
Slew, mode and uncertainty (R42, R44, R53, R66).
The choices of the model that it rests on: log entries 26, 27, 28. -/
def Obligations.ReferenceAndSteering : Prop :=
  (∀ s : State, s.dev.pwr.por = false → s.dev.hs.counting = false → s.unitState 40 = 1 → s.dev.chuck.autoen = 0 →
    Completes .tbFree s fun u => u.unitState 40 = 0 ∧ u.dev.hs.counting = true ∧ u.epoch 40 = (s.epoch 40 + 1) % 65536 ∧
      u.dev.hs.now = s.dev.hs.now ∧ SameHost s u) ∧
  (∀ s : State, s.ticking = true → s.unitState 40 = 2 ∨ s.unitState 40 = 1 → s.dev.hs.everLocked = true →
    Completes .tbrefLost s fun u => u.unitState 40 = 3 ∧ u.epoch 40 = (s.epoch 40 + 1) % 65536 ∧ u.dev.hs.counting = true ∧
      u.dev.hs.now = s.dev.hs.now ∧ u.dev.log.count ≠ s.dev.log.count ∧ SameBytes s u ∧ SameHost s u ∧
      SameRegsBut s u ((F.LEDG_UNIT_STATE 40).off :: catchRegs)) ∧
  (∀ s : State, s.ticking = true → s.unitState 40 = 1 → s.dev.hs.everLocked = false →
    Completes .tbrefLost s fun u => u.unitState 40 = 0 ∧ u.dev.hs.counting = true ∧ u.dev.hs.now = s.dev.hs.now ∧ SameHost s u) ∧
  (∀ s : State, s.ticking = true → s.unitState 40 = 3 ∨ s.unitState 40 = 0 →
    Completes .tbrefBack s fun u => u.unitState 40 = 1 ∧ u.dev.hs.counting = true ∧ u.dev.hs.now = s.dev.hs.now ∧
      u.dev.log.count ≠ s.dev.log.count ∧ SameHost s u) ∧
  (∀ s : State, s.dev.pwr.por = false → s.carried = false → s.unitState 40 = 1 → s.dev.chuck.autoen = 0 →
    Completes .tbLock s fun u => u.unitState 40 = 2 ∧ u.dev.hs.counting = true ∧ u.dev.hs.everLocked = true ∧
      u.dev.hs.now = s.dev.hs.now ∧ SameHost s u) ∧
  (∀ s : State, s.dev.pwr.por = false →
    Completes .crystalFail s fun u => u.bit F.TB_STATUS_XTAL = false ∧ u.dev.hs = s.dev.hs ∧ SameHost s u) ∧
  (∀ (s : State) (r : Word), s.ticking = true → s.unitState 40 = 2 →
    Completes (.restRatioMeasure r) s fun u => u.word F.TB_REST_RATIO_FRAC.off = r ∧ u.dev = s.dev ∧ SameBytes s u ∧ SameHost s u ∧
      SameRegsBut s u [F.TB_REST_RATIO_FRAC.off]) ∧
  (∀ (s : State) (p : Path) (v : Word), s.reach p F.TB_SLEW_REMAIN.off = true →
    Completes (.slewRequest p v) s fun u => u.fld F.TB_SLEW_REMAIN = v.toNat % 2 ^ 24 ∧
      (u.bit F.TB_STATUS_SLEWING = true ↔ v.toNat % 2 ^ 24 ≠ 0) ∧ u.dev.hs = { s.dev.hs with slewFrac := 0 } ∧ SameBytes s u ∧ SameHost s u ∧
      SameRegsBut s u (F.TB_SLEW_REMAIN.off :: F.TB_STATUS_SLEWING.off :: catchRegs)) ∧
  (∀ s : State, s.dev.pwr.por = false → s.carried = false → s.slewDone = true →
    Completes .slewComplete s fun u => u.remain = 0 ∧ u.bit F.TB_STATUS_SLEWING = false ∧
      u.dev.hs = { s.dev.hs with slewFrac := 0 } ∧ SameBytes s u ∧
      SameHost s u ∧ SameRegsBut s u (F.TB_SLEW_REMAIN.off :: F.TB_STATUS_SLEWING.off :: catchRegs)) ∧
  (∀ (s : State) (p : Path) (v : Word), s.reach p F.TB_DISC_CTL_MODE.off = true →
    Completes (.modeChange p v) s fun u =>
      u.fld F.TB_DISC_CTL_MODE = (if v.toNat % 4 = 3 then s.fld F.TB_DISC_CTL_MODE else v.toNat % 4) ∧
      u.dev.hs.acc = (if u.fld F.TB_DISC_CTL_MODE = 2 ∧ s.mode ≠ 2 then 0 else s.dev.hs.acc) ∧
      -- the change acts from the next tick on
      (s.ticking = true → u.mode = s.mode) ∧ (s.ticking = false → u.mode = u.fld F.TB_DISC_CTL_MODE) ∧
      u.dev.hs.now = s.dev.hs.now ∧ SameBytes s u ∧ SameHost s u ∧
      SameRegsBut s u (F.TB_DISC_CTL_MODE.off :: F.TB_STATUS_SLEWING.off :: catchRegs)) ∧
  (∀ s : State, s.ticking = true → s.unitState 40 = 0 → s.dev.hs.uncFrac < 1000000 →
    Completes .uncEvaluate s fun u =>
      u.fld F.TB_UNC_UNC_NS = min (s.fld F.TB_UNC_UNC_NS + (if s.bit F.TB_STATUS_XTAL then 150 else 30000)) 0x7FFFFFFF ∧
      u.dev.hs = s.dev.hs ∧ SameBytes s u ∧ SameHost s u ∧ SameRegsBut s u (F.TB_UNC_UNC_NS.off :: catchRegs)) ∧
  (∀ s : State, s.ticking = true → s.unitState 40 = 3 → s.mode ≠ 2 →
    s.temp16 = signedOf 16 s.dev.hs.holdTemp →
    Completes .uncEvaluate s fun u =>
      u.fld F.TB_UNC_UNC_NS = min (s.fld F.TB_UNC_UNC_NS + (s.dev.hs.uncFrac + 200000) / 1000000) 0x7FFFFFFF ∧
      u.dev.hs = { s.dev.hs with uncFrac := (s.dev.hs.uncFrac + 200000) % 1000000 } ∧
      SameBytes s u ∧ SameHost s u ∧ SameRegsBut s u (F.TB_UNC_UNC_NS.off :: catchRegs))

/-- A TBPPS edge with a count setting armed (R49, R50): with no partition enabled TB_NOW takes TB_SET, TB_PPS_PHASE its remainder and
ARMED gives way to DONE; otherwise TB_NOW stays and ARMED gives way to REFUSED.
Arming and cancelling a count setting (R49, R51): ARM sets ARMED, CANCEL clears it without DONE or REFUSED, and both together
leave it clear. -/
def Obligations.CountSetting : Prop :=
  (∀ (s : State) (r : Bool), s.ticking = true → (r = true ↔ s.fld F.TB_DISC_CTL_PPS_EDGE = 0) → s.bit F.TB_SET_CTL_ARM = true →
    s.enabledMask = 0 →
    let v := (s.word F.TB_SET_LO_SET.off).toNat + 2 ^ 32 * (s.word F.TB_SET_HI_SET.off).toNat
    Completes (.tbppsEdge r) s fun u => u.dev.hs.now = BitVec.ofNat 64 v ∧ u.fld F.TB_PPS_PHASE_PHASE = v % 250000000 ∧
      u.bit F.TB_SET_CTL_ARM = false ∧ u.bit F.TB_SET_CTL_DONE = true ∧ u.bit F.TB_STATUS_PPS_OK = true ∧ u.dev.hs.acc = 0 ∧
      Logged s u 0x1008 0 40 ∧ SameBytes s u ∧ SameHost s u) ∧
  (∀ (s : State) (r : Bool), s.ticking = true → (r = true ↔ s.fld F.TB_DISC_CTL_PPS_EDGE = 0) → s.bit F.TB_SET_CTL_ARM = true →
    s.enabledMask ≠ 0 →
    Completes (.tbppsEdge r) s fun u => u.dev.hs.now = s.dev.hs.now ∧ u.bit F.TB_SET_CTL_ARM = false ∧
      u.bit F.TB_SET_CTL_REFUSED = true ∧ u.fld F.TB_SET_CTL_DONE = s.fld F.TB_SET_CTL_DONE ∧
      Logged s u 0x1009 0 40 ∧ SameBytes s u ∧ SameHost s u) ∧
  (∀ (s : State) (p : Path) (v : Word), s.reach p F.TB_SET_CTL_ARM.off = true → v.getLsbD 0 = true → v.getLsbD 3 = false →
    Completes (.setArm p v) s fun u => u.bit F.TB_SET_CTL_ARM = true ∧ u.dev = s.dev ∧ SameBytes s u ∧ SameHost s u ∧
      SameRegsBut s u [F.TB_SET_CTL_ARM.off]) ∧
  (∀ (s : State) (p : Path) (v : Word), s.reach p F.TB_SET_CTL_ARM.off = true → v.getLsbD 3 = true →
    v.getLsbD 1 = false → v.getLsbD 2 = false →
    Completes (.setCancel p v) s fun u => u.bit F.TB_SET_CTL_ARM = false ∧ u.fld F.TB_SET_CTL_DONE = s.fld F.TB_SET_CTL_DONE ∧
      u.fld F.TB_SET_CTL_REFUSED = s.fld F.TB_SET_CTL_REFUSED ∧ u.dev = s.dev ∧ SameBytes s u ∧ SameHost s u ∧
      SameRegsBut s u [F.TB_SET_CTL_ARM.off])

/-- Pulses (R45 to R47, R60): an edge within the window is accepted, one outside is rejected and counted; outside PPS mode neither
moves TRIM; a missing pulse is counted once its window has passed, and the third in a row clears PPS_OK; the output goes high on its grid tick.
The discipline loop of R45 in PPS mode: with error `e`, acc gathers the integral part and TRIM is minus the sum, each held to
±200 ppm; the error and an uncertainty of 4·|e| + 8 ns are reported.
An edge that sets the count is stamped with the count before the setting, and a bench on its way keeps the time that it has left: both
are choices of the model.
The choices of the model that it rests on: log entries 27, 116, 129, 135. -/
def Obligations.PulsesPerSecond : Prop :=
  (∀ (s : State) (r : Bool), s.ticking = true → (r = true ↔ s.fld F.TB_DISC_CTL_PPS_EDGE = 0) → s.bit F.TB_SET_CTL_ARM = false →
    s.mode ≠ 2 → (s.gridError s.now).natAbs ≤ s.ppsWindow →
    Completes (.tbppsEdge r) s fun u => u.fld F.TB_PPS_STAMP_LO_STAMP = s.now % 2 ^ 32 ∧
      u.fld F.TB_PPS_STAMP_HI_STAMP = s.now / 2 ^ 32 ∧ u.bit F.TB_STATUS_PPS_OK = true ∧ u.dev.hs.misses = 0 ∧
      u.dev.hs.now = s.dev.hs.now ∧ u.dev.hs.acc = s.dev.hs.acc ∧ u.word F.TB_TRIM_TRIM.off = s.word F.TB_TRIM_TRIM.off ∧
      u.word F.TB_UNC_UNC_NS.off = s.word F.TB_UNC_UNC_NS.off ∧ SameBytes s u ∧ SameHost s u) ∧
  (∀ (s : State) (r : Bool), s.ticking = true → (r = true ↔ s.fld F.TB_DISC_CTL_PPS_EDGE = 0) → s.bit F.TB_SET_CTL_ARM = false →
    s.ppsWindow < (s.gridError s.now).natAbs → s.mode ≠ 2 →
    Completes (.tbppsEdge r) s fun u => u.fld F.TB_PPS_ERR_REJECTS = min (s.fld F.TB_PPS_ERR_REJECTS + 1) (2 ^ F.TB_PPS_ERR_REJECTS.w - 1) ∧
      u.dev.hs.misses = s.dev.hs.misses ∧ u.fld F.TB_STATUS_PPS_OK = s.fld F.TB_STATUS_PPS_OK ∧ u.dev.hs.now = s.dev.hs.now ∧
      u.word F.TB_TRIM_TRIM.off = s.word F.TB_TRIM_TRIM.off ∧ SameBytes s u ∧ SameHost s u) ∧
  (∀ s : State, s.ticking = true → s.missedPulse = none → Completes .missingPulse s fun u => u = s) ∧
  (∀ (s : State) (g : Nat), s.ticking = true → s.missedPulse = some g →
    Completes .missingPulse s fun u => u.dev.hs.misses = s.dev.hs.misses + 1 ∧ u.dev.hs.ppsFrom = BitVec.ofNat 64 g ∧
      u.fld F.TB_PPS_ERR_MISSES = min (s.fld F.TB_PPS_ERR_MISSES + 1) (2 ^ F.TB_PPS_ERR_MISSES.w - 1) ∧
      (s.dev.hs.misses = 2 → u.bit F.TB_STATUS_PPS_OK = false ∧ u.dev.log.count ≠ s.dev.log.count) ∧
      (s.dev.hs.misses ≠ 2 → u.dev.log = s.dev.log ∧ u.word F.TB_STATUS_PPS_OK.off = s.word F.TB_STATUS_PPS_OK.off) ∧
      u.dev.hs.now = s.dev.hs.now ∧ u.dev.hs.acc = s.dev.hs.acc ∧ SameBytes s u ∧ SameHost s u) ∧
  (∀ s : State, s.ticking = true → s.bit F.TB_PPSOUT_CTL_EN = true → s.bit F.TB_STATUS_PPSOUT_FENCED = false →
    s.now % 250000000 = (s.fld F.TB_PPS_PHASE_PHASE + s.fld F.TB_PPSOUT_OFS_OFS) % 250000000 →
    Completes .ppsOutPulse s fun u => u.ppsOut = true ∧ u.regs = s.regs ∧ SameBytes s u ∧ SameHost s u ∧
      u.dev.hs.ppsOutLeft = 250000 * max 1 (s.fld F.TB_PPSOUT_CTL_WIDTH_MS)) ∧
  (∀ (s : State) (r : Bool), s.ticking = true → (r = true ↔ s.fld F.TB_DISC_CTL_PPS_EDGE = 0) → s.bit F.TB_SET_CTL_ARM = false →
    s.mode = 2 → (s.gridError s.now).natAbs ≤ s.ppsWindow →
    let e := s.gridError s.now
    let clamp (x : Int) : Int := if x < -51200000 then -51200000 else if 51200000 < x then 51200000 else x
    let acc := clamp (s.dev.hs.acc + e * 1024 / 2 ^ s.fld F.TB_DISC_CTL_KI_SHIFT)
    Completes (.tbppsEdge r) s fun u => u.dev.hs.acc = acc ∧
      u.trim = clamp (-(acc + e * 1024 / 2 ^ s.fld F.TB_DISC_CTL_KP_SHIFT)) ∧
      (u.word F.TB_UNC_UNC_NS.off).toNat % 2 ^ 31 = min (4 * e.natAbs + 8) 0x7FFFFFFF ∧ u.bit F.TB_STATUS_PPS_OK = true ∧
      u.dev.hs.now = s.dev.hs.now ∧ SameBytes s u ∧ SameHost s u) ∧
  (∀ (s : State) (r : Bool), s.ticking = true → (r = true ↔ s.fld F.TB_DISC_CTL_PPS_EDGE = 0) → s.bit F.TB_SET_CTL_ARM = true →
    s.enabledMask = 0 →
    let v := (s.word F.TB_SET_LO_SET.off).toNat + 2 ^ 32 * (s.word F.TB_SET_HI_SET.off).toNat
    Completes (.tbppsEdge r) s fun u => u.fld F.TB_PPS_STAMP_LO_STAMP = s.now % 2 ^ 32 ∧
      u.fld F.TB_PPS_STAMP_HI_STAMP = s.now / 2 ^ 32 ∧
      u.dev.pwr.waking = s.dev.pwr.waking.map (fun x => (x.1, (x.2 + (2 ^ 64 - s.now + v)) % 2 ^ 64)))

/-- The launch copies (R58, R59, R611): with none wrong nothing happens; a wrong bench, Store, port, array, host interface or walker
is fenced (the host interface with its link down and every function), a wrong TBPPS_OUT driver is fenced, and a wrong ledger resets the device.
The choices of the model that it rests on: log entries 29, 106. -/
def Obligations.LaunchCopies : Prop :=
  (∀ s : State, s.ticking = true → Completes (.launchCopyCheck []) s fun u => u = s) ∧
  (∀ (s : State) (b : Nat), s.ticking = true → b < 32 →
    Completes (.launchCopyCheck [.bench b]) s fun u => u.fenced b = true ∧ u.dev.hs.now = s.dev.hs.now ∧
      ((∀ t, (s.tile t).xfers = []) → SameHost s u)) ∧
  (∀ s : State, s.ticking = true → s.fenced 43 = false →
    Completes (.launchCopyCheck [.host]) s fun u => u.fenced 43 = true ∧ u.unitState 43 = 0 ∧
      (∀ v, v < 64 → u.fenced (44 + v) = true) ∧ u.dev.log.count ≠ s.dev.log.count) ∧
  (∀ (s : State) (k : Nat) (e : Endpoint), s.ticking = true → (e, k) ∈ [(Endpoint.store, 41), (.array, 112)] ∨
      (∃ i, i < 4 ∧ e = .port i ∧ k = 108 + i) →
    Completes (.launchCopyCheck [e]) s fun u => u.fenced k = true ∧ u.dev.log.count ≠ s.dev.log.count ∧ SameBytes s u ∧ SameHost s u) ∧
  (∀ (s : State) (w : Nat), s.ticking = true → w < 16 →
    Completes (.launchCopyCheck [.walker w]) s fun u => inMask (u.fld F.KV_WALK_FENCE_MASK) w = true ∧ SameHost s u) ∧
  (∀ s : State, s.ticking = true →
    Completes (.launchCopyCheck [.ppsOut]) s fun u => u.bit F.TB_STATUS_PPSOUT_FENCED = true ∧ u.ppsOut = false ∧
      SameBytes s u ∧ SameHost s u) ∧
  (∀ s : State, s.ticking = true →
    Completes (.launchCopyCheck [.ledger]) s fun u => u.fld F.PCK_STATUS_DEV = 0 ∧ u.fld F.PCK_STATUS_LASTRESET = 2 ∧
      u.dev.hs.now = s.dev.hs.now ∧ (∀ a, a < storeAt + storeSize → u.mem.read a = 0) ∧ SameHost s u)

/-- Reading the low word of TB_NOW, of TB_PPS_STAMP or of a TB_TURN_ORG gives the high word to later reads by the same path, and to
no other path; a read of a high word gives what its path latched last, zero since power-on (R34).
The choices of the model that it rests on: log entry 22. -/
def Obligations.PairLatches : Prop :=
  (∀ (s : State) (p : Path) (off : Nat) (w : Word), s.reach p off = true → s.pairHigh (pairKey p off) = some w → off % 4 = 0 →
    Completes (.lowWordLatch p { off }) s fun u => u.latched p = w ∧
      (s.reach p (off + 4) = true → u.readWord p (off + 4) = w.toNat) ∧ (∀ q, q ≠ p → u.latched q = s.latched q) ∧
      u.regs = s.regs ∧ SameBytes s u ∧ SameHost s u ∧ u.dev.hs.now = s.dev.hs.now) ∧
  (∀ (s : State) (p : Path) (off : Nat), (s.pairHigh (pairKey p off)).isSome = true → off % 4 = 0 → s.reach p (off + 4) = true →
    s.readWord p (off + 4) = (s.latched p).toNat) ∧
  (∀ s : State, s.pairHigh F.TB_NOW_LO_NOW.off = some (s.dev.hs.now.extractLsb' 32 32) ∧
    s.pairHigh F.TB_PPS_STAMP_LO_STAMP.off = some (s.word F.TB_PPS_STAMP_HI_STAMP.off) ∧
    ∀ p, p < 8 → s.pairHigh (F.TB_TURN_ORG_LO_ORG p).off = some (s.word (F.TB_TURN_ORG_HI_ORG p).off)) ∧
  (∀ (s : State) (p : Path), Completes .powerOnReset s fun u => u.latched p = 0)

/-! ## Timetables -/

/-- A turn boundary (R55, R100, R298): the turn's counts start afresh, a derate that is asked for comes into force and one that is
not asked for any more ends; a partition that a fence policy stops is disabled once nothing is pending, and waits otherwise.
A chunk that no launch took by its last-launch tick ends MISSED and marks GAP on the next (R93, R96); one that has not completed
by its deadline plus OVR ends FAIL_OVERRUN and its tiles reload (R95).
The choices of the model that it rests on: log entries 35, 36, 118. -/
def Obligations.TurnsAndOverruns : Prop :=
  (∀ (s : State) (p : Nat), p < 8 → s.atBoundary p = true → s.ready = true → (s.part p).turnStart ≠ some s.now →
    (s.part p).regrip = none → (s.part p).stopAsked = false → s.unitState (32 + p) ≠ 2 →
    Completes (.turnBoundary p) s fun u => (u.part p).turnStart = some s.now ∧ (u.part p).seen = 0 ∧ (u.part p).lateThisTurn = 0 ∧
      (u.part p).slow = s.derateAsked p ∧
      (s.derateAsked p = true → (s.part p).slow = false → (u.part p).derated = !(s.plane p).derated.isEmpty) ∧
      (s.derateAsked p = false → (s.part p).slow = true → (u.part p).derated = false) ∧
      (s.derateAsked p = (s.part p).slow → (u.part p).derated = (s.part p).derated ∧ u.regs = s.regs ∧ u.dev.log = s.dev.log) ∧
      u.unitState (32 + p) = s.unitState (32 + p) ∧ (∀ q, q ≠ p → u.part q = s.part q) ∧ SameBytes s u ∧ SameHost s u) ∧
  (∀ (s : State) (p : Nat), p < 8 → s.atBoundary p = true → s.ready = true → (s.part p).turnStart ≠ some s.now →
    (s.part p).regrip = none → (s.part p).stopAsked = true →
    Completes (.turnBoundary p) s fun u => u.unitState (32 + p) = (if s.partBusy p then 2 else 0) ∧
      (s.partBusy p = false → (u.part p).stopAsked = false ∧ u.turnLen p = 0 ∧ u.dev.log.count ≠ s.dev.log.count) ∧
      SameBytes s u ∧ SameHost s u) ∧
  (∀ (s : State) (n : Nat) (c : Chunk) (l : List Chunk), (s.slot n).chunks = c :: l → c.launched = false →
    laterTick s.now c.lastLaunch = true → (s.plane c.part).soft = false → c.part < 8 →
    (∀ r ∈ (s.slot n).results, laterTick r.chunk.arrival c.arrival = false) →
    Completes (.launchMissed n) s fun u => (u.slot n).chunks.length = l.length ∧
      (l = [] → (u.slot n).gap = true) ∧ (∀ d k, (u.slot n).chunks = d :: k → hasFlag d.flags flagGap = true) ∧
      ((s.planeFor c.part c.old).dests c.group n ≠ [] → ∃ r ∈ (u.slot n).results, r.status = 1 ∧ r.chunk.seq = c.seq ∧
        r.complete = (c.lastLaunch + 1) % 2 ^ 64) ∧
      u.fld (F.TT_MISSED c.part) = min (s.fld (F.TT_MISSED c.part) + 1) (2 ^ (F.TT_MISSED c.part).w - 1) ∧ SameHost s u) ∧
  (∀ (s : State) (n t : Nat) (c : Chunk) (l : List Chunk) (x : Launch), (s.slot n).chunks = c :: l → c.launched = true →
    s.reached (c.deadline + (s.planeFor c.part c.old).overrunOf c.group) = true → c.part < 8 →
    (s.tile t).launch = some x → (n, c.arrival) ∈ x.chunks → c.running = some x.stage →
    Completes (.overrun n) s fun u => (u.slot n).chunks.length ≤ l.length ∧ (u.tile t).run = 3 ∧ (u.tile t).launch = none ∧
      ((s.planeFor c.part c.old).dests c.group n ≠ [] → ∃ r ∈ (u.slot n).results, r.status = 7 ∧ r.chunk.seq = c.seq ∧
        r.complete = s.boundOf c) ∧
      u.dev.log.count ≠ s.dev.log.count ∧ SameHost s u)

/-- Benches move (R79, R551, R577): a WAKE entry starts a bench from COAST for 48 ticks and from DWELL for 12,500; the bench then
reaches SPIN; one whose entry to DWELL ends loses its tiles' programs and keeps their vector and mask registers.
The choices of the model that it rests on: log entry 33. -/
def Obligations.BenchMoves : Prop :=
  (∀ (s : State) (p i b : Nat) (e : TtEntry), s.entryNow p i false = some e → e.kind = 0 → s.ready = true → b ∈ membersOf e.benches 32 →
    s.fenced b = false → (∀ x ∈ s.dev.pwr.waking, x.1 ≠ b) → (∀ x ∈ s.dev.pwr.dwelling, x.1 ≠ b) →
    s.unitState b = 2 ∨ s.unitState b = 3 →
    Completes (.wake p i false) s fun u =>
      (b, s.now + (if s.unitState b = 2 then 48 else 12500)) ∈ u.dev.pwr.waking ∧ u.unitState b = s.unitState b ∧
      SameBytes s u ∧ SameHost s u ∧ SameRegsBut s u (F.LEDG_TT_REJECTS.off :: F.LEDG_REFUSED.off :: catchRegs)) ∧
  (∀ (s : State) (b t : Nat), b < 32 → (b, t) ∈ s.dev.pwr.waking → s.reached t = true → b ∉ s.dev.pwr.cancelled →
    Completes (.benchSpinReached b) s fun u => u.unitState b = 1 ∧ (∀ x ∈ u.dev.pwr.waking, x.1 ≠ b) ∧
      (∀ x ∈ u.dev.pwr.dwelling, x.1 ≠ b) ∧ (∀ c, c ≠ b → c < 32 → u.unitState c = s.unitState c) ∧ SameBytes s u ∧ SameHost s u) ∧
  (∀ (s : State) (b t : Nat), b < 32 → (b, t) ∈ s.dev.pwr.dwelling → s.reached t = true →
    Completes (.dwellEntryDone b) s fun u => u.unitState b = 3 ∧ (∀ x ∈ u.dev.pwr.dwelling, x.1 ≠ b) ∧
      (∀ j, j ∈ tilesOf b → (u.tile j).run = 0 ∧ (u.tile j).launch = none ∧ (∀ n, (u.tile j).sreg n = 0) ∧
        SameVectors (s.tile j) (u.tile j)) ∧
      (∀ j, j ∉ tilesOf b → u.tile j = s.tile j) ∧ SameBytes s u ∧ SameHost s u)

/-- A GATHER gives the due chunks of its group consecutive batch positions in increasing slot number (R75, R90).
A stage-0 LAUNCH of one eligible chunk on one free tile of a bench in SPIN (R91, R113, R335, R390): the program starts at its entry
with S1 to S4 telling the slice, and the chunk runs.
The choices of the model that it rests on: log entries 34, 35. -/
def Obligations.GatherAndLaunch : Prop :=
  (∀ (s : State) (p i : Nat) (e : TtEntry) (g : Group) (l : List Nat), s.entryNow p i false = some e → e.kind = 3 → s.ready = true →
    (s.plane p).group e.group = some g → l = sortNat (s.members p g (s.turnNo p)) → l.Nodup →
    Completes (.gather p i) s fun u =>
      (∀ k n j, (l.filter fun n => (s.dueIdx p n (s.turnNo p)).isSome)[k]? = some n → s.dueIdx p n (s.turnNo p) = some j →
        ∃ c, (s.slot n).chunks[j]? = some c ∧
          (u.slot n).chunks[j]? = some { c with pos := some k, gatheredAt := s.now, gatherTurn := s.turnNo p }) ∧
      (∀ n, n ∉ l → u.slot n = s.slot n) ∧ SameHost s u) ∧
  (∀ (s : State) (p i t n : Nat) (e : TtEntry) (c : Chunk) (r : TileRec), t < 512 → p < 8 → s.entryNow p i false = some e → e.kind = 1 →
    s.ready = true → launchStage e = 0 → s.unitState (32 + p) ≠ 2 → s.chunksOf p = [(n, 0, c)] →
    s.pick (s.plane p) p false e n 0 c = .take → (s.slot n).chunks = [c] →
    (∀ b ∈ membersOf e.benches 32, s.fenced b = false ∧ s.unitState b = 1) →
    ((membersOf e.benches 32).flatMap tilesOf).filter ((s.plane p).carries e.ref) = [t] → (s.plane p).tileRec t = some r →
    s.tileFree t = true → (s.tile t).waiting = [] →
    Completes (.launch p i false) s fun u => (u.tile t).run = 1 ∧ (u.tile t).pc = bitsOf (r.progs.getD e.ref 0) 0 13 ∧
      (u.tile t).sreg 1 = 1 ∧ (u.tile t).sreg 2 = 0 ∧ (u.tile t).sreg 3 = 0 ∧ (u.tile t).sreg 4 = 1 ∧
      (u.tile t).mode = r.mode ∧ (u.tile t).loops = [] ∧ (u.tile t).cdone = [] ∧ SameVectors (s.tile t) (u.tile t) ∧
      (∃ c', (u.slot n).chunks = [c'] ∧ c'.launched = true ∧ c'.running = some 0 ∧ c'.owing = [t] ∧ c'.seq = c.seq) ∧
      (∀ j, j ≠ t → u.tile j = s.tile j) ∧ SameBytes s u ∧ SameHost s u)

/-! ## Results and inputs -/

/-- An EMIT to the host writes the result and its entry into the pair's rings and moves RES_TAIL on (R85, R87, R368, R369); one to the
array or to a port places the result in the output's play queue (R415, R476, R477).
The choices of the model that it rests on: log entries 40, 112, 118, 130. -/
def Obligations.EmitsSendResults : Prop :=
  (∀ (s : State) (p i n x : Nat) (e : TtEntry) (r : Result), s.entryNow p i false = some e → e.kind = 6 → s.ready = true →
    bitsOf e.w3 0 8 = 43 → s.partSlots p = [n] → (s.slot n).results = [r] → s.dueAt p false e.group (s.slot n) r = true →
    r.rcount = 0 ∨ s.badLine [] [r.payRange] = none →
    tableEntry ((s.plane p).emitTable e.ref) n = some x → destOf 43 x ∉ r.sent → s.bit (F.QP_CTL_EN (bitsOf x 0 8)) = true →
    s.unitState (44 + s.owner (bitsOf x 0 8)) ≠ 2 → s.resSize (bitsOf x 0 8) ≤ 2 ^ 16 →
    let q := bitsOf x 0 8
    let j := s.fld (F.QP_INDEX_RES_TAIL q)
    let room := 64 * s.fld (F.QP_PAY_STRIDE_STRIDE64 q)
    (j + 1) % s.resSize q ≠ (s.pair q).head → (s.payloadOf r).length ≤ room →
    let at' := s.qpBase q 0x14 + 64 * j
    let pay := s.qpBase q 0x20 + j * room
    Completes (.emitHost p i { old := false }) s fun u => u.fld (F.QP_INDEX_RES_TAIL q) = (j + 1) % s.resSize q ∧
      u.host.reads at' 64 = r.header ++ [if (s.pair q).phase then 1 else 0] ++ List.replicate 31 0 ∧
      (pay + room ≤ at' ∨ at' + 64 ≤ pay → u.host.reads pay (s.payloadOf r).length = s.payloadOf r) ∧
      (∀ a, a < at' ∨ at' + 64 ≤ a → a < pay ∨ pay + room ≤ a → u.host.read a = s.host.read a) ∧
      (∀ r' ∈ (u.slot n).results, r'.sent.contains (43, q) = true) ∧ SameBytes s u ∧
      SameRegsBut s u [(F.QP_INDEX_RES_TAIL q).off, (msixPba (s.owner q) (s.fld (F.QP_CTL_RVEC q))).off]) ∧
  (∀ (s : State) (p i n x w : Nat) (e : TtEntry) (r : Result) (c : Instr), s.entryNow p i false = some e → e.kind = 6 →
    s.ready = true → bitsOf e.w3 0 8 = w → s.partSlots p = [n] → (s.slot n).results = [r] →
    s.dueAt p false e.group (s.slot n) r = true → r.rcount = 0 ∨ s.badLine [] [r.payRange] = none →
    tableEntry ((s.plane p).emitTable e.ref) n = some x → destOf w x ∉ r.sent →
    (w = 112 ∧ c = .emitArray p i { old := false }) ∨ (108 ≤ w ∧ w ≤ 111 ∧ c = .emitPort p i { old := false }) →
    let k := if w = 112 then bitsOf x 0 3 else bitsOf x 0 5
    s.outOn w k = true → r.status ≠ 9 → (s.out (outKey w k)).queue.length < 2 →
    (∀ m, (s.out (outKey w k)).next = some m → m ≤ r.chunk.seq) →
    Completes c s fun u =>
      (∃ y, (u.out (outKey w k)).queue = (s.out (outKey w k)).queue ++ [y] ∧ y.seq = r.chunk.seq ∧ y.status = r.status ∧
        y.rformat = r.rformat ∧ y.rrate = r.rrate ∧ y.rcount = r.rcount ∧ y.payload = s.payloadOf r) ∧
      ((s.out (outKey w k)).next = none → (u.out (outKey w k)).next = some r.chunk.seq) ∧
      (∀ m, (s.out (outKey w k)).next = some m → (u.out (outKey w k)).next = some m) ∧
      (∀ j, j ≠ outKey w k → u.out j = s.out j) ∧ (∀ r' ∈ (u.slot n).results, r'.sent.contains (w, k) = true) ∧
      u.regs = s.regs ∧ SameBytes s u ∧ SameHost s u)

/-- A SAMPLE entry with KIND 0 frames the unframed inputs that it names, from its tick on (R407, R408, R473, R474).
A SAMPLE entry with KIND 1 plays on each output that it names: the queued result with the number NEXT starts after the output's
latency, a zero span plays where there is none, and NEXT moves on (R416, R477).
The choices of the model that it rests on: log entries 38, 40, 142. -/
def Obligations.AlignAndPlay : Prop :=
  (∀ (s : State) (p i k : Nat) (e : TtEntry), s.entryNow p i false = some e → e.kind = 5 → s.ready = true → s.arrOn = true →
    bitsOf e.w3 0 8 = 112 → k < 16 →
    let d := (s.plane p).sample e.ref
    bitsOf d.1 0 1 = 0 → sampleTurn d.1 (s.turnNo p) = true →
    Completes (.arrayAlign p i false) s fun u => u.regs = s.regs ∧ SameBytes s u ∧ SameHost s u ∧
      if inMask (bitsOf d.1 16 16) k = true ∧ s.bit (F.ARR_IN_CTL_EN k) = true ∧ (s.inp (128 + k)).framed = false ∧
          laterTick s.now (s.inp (128 + k)).enabledAt = true then
        (u.inp (128 + k)).framed = true ∧ (u.inp (128 + k)).from_ = some s.now ∧ (u.inp (128 + k)).fill = 0 ∧
        (u.inp (128 + k)).gap = !(u.inp (128 + k)).newUtt
      else u.inp (128 + k) = s.inp (128 + k)) ∧
  (∀ (s : State) (p i w k : Nat) (e : TtEntry), s.entryNow p i false = some e → e.kind = 5 → s.ready = true → 108 ≤ w → w ≤ 111 →
    bitsOf e.w3 0 8 = w → s.portOn (w - 108) = true → s.unitState w = 3 → k < 32 →
    let d := (s.plane p).sample e.ref
    let j := 32 * (w - 108) + k
    bitsOf d.1 0 1 = 0 → sampleTurn d.1 (s.turnNo p) = true →
    Completes (.portAlign p i false) s fun u => u.regs = s.regs ∧ SameBytes s u ∧ SameHost s u ∧
      if k ∈ s.portEntries (w - 108) ∧ inMask d.2 k = true ∧ (s.inp j).framed = false ∧
          laterTick s.now (s.port (w - 108)).enabledAt = true then
        (u.inp j).framed = true ∧ (u.inp j).from_ = some s.now ∧ (u.inp j).fill = 0 ∧ (u.inp j).gap = !(u.inp j).newUtt
      else u.inp j = s.inp j) ∧
  (∀ (s : State) (p i k n : Nat) (e : TtEntry), s.entryNow p i false = some e → e.kind = 5 → s.ready = true → bitsOf e.w3 0 8 = 112 →
    k < 8 → (s.out (128 + k)).next = some n →
    let d := (s.plane p).sample e.ref
    let rate := s.fld (F.ARR_OUT_CTL_RATE k)
    bitsOf d.1 0 1 = 1 → sampleTurn d.1 (s.turnNo p) = true →
    Completes (.arrayPlay p i false) s fun u => SameBytes s u ∧ SameHost s u ∧
      (inMask (bitsOf d.1 16 8) k = false → u.out (128 + k) = s.out (128 + k)) ∧
      (inMask (bitsOf d.1 16 8) k = true → (u.out (128 + k)).next = some ((n + 1) % 2 ^ 32) ∧
        (u.out (128 + k)).queue = (s.out (128 + k)).queue.filter (fun q => q.seq ≠ n) ∧
        (u.out (128 + k)).start = s.now + pathLatency rate (s.bit (F.ARR_OUT_CTL_LOWLAT k)) ∧
        ((∀ q ∈ (s.out (128 + k)).queue, q.seq ≠ n) → (u.out (128 + k)).playing = []) ∧
        (∀ q, (s.out (128 + k)).queue.find? (fun q => q.seq = n) = some q → q.status = 0 → q.rrate = rate →
          q.rformat = 0 ∨ q.rformat = 1 ∨ q.rformat = 3 →
          (u.out (128 + k)).playing = (samplesOf q.rformat q.payload).take q.rcount))) ∧
  (∀ (s : State) (p i w k n : Nat) (e : TtEntry), s.entryNow p i false = some e → e.kind = 5 → s.ready = true → 108 ≤ w → w ≤ 111 →
    bitsOf e.w3 0 8 = w → k < 32 → (s.out (32 * (w - 108) + k)).next = some n →
    let d := (s.plane p).sample e.ref
    let j := 32 * (w - 108) + k
    bitsOf d.1 0 1 = 1 → sampleTurn d.1 (s.turnNo p) = true →
    Completes (.portPlay p i false) s fun u => SameBytes s u ∧ SameHost s u ∧
      (inMask d.2 k = false → u.out j = s.out j) ∧
      (inMask d.2 k = true → (u.out j).next = some ((n + 1) % 2 ^ 32) ∧ (u.out j).start = s.now + 16 ∧
        (u.out j).queue = (s.out j).queue.filter (fun q => q.seq ≠ n) ∧
        ((∀ q ∈ (s.out j).queue, q.seq ≠ n) → (u.out j).playing = []) ∧
        (∀ q, (s.out j).queue.find? (fun q => q.seq = n) = some q → q.status = 0 → q.rrate = s.fld (F.AUD_CFG_RATE (w - 108)) →
          q.rformat = 0 ∨ q.rformat = 1 ∨ q.rformat = 2 →
          (u.out j).playing = (samplesOf q.rformat q.payload).take q.rcount)))

/-- An ingest entry that the pair's range, the formats and the stamping unit admit is taken with a free buffer; when its payload
lands, the chunk is stamped, IN_HEAD passes it and is written back (R362 to R366).
A chunk that an input path or a port's entry has filled is filed: it is numbered on from the one before, or from 0 where the slot
has been declared afresh, and stamped (R409, R475).
The choices of the model that it rests on: log entries 38, 39, 119. -/
def Obligations.ChunksAreStamped : Prop :=
  (∀ (s : State) (q b : Nat) (ws : List Byte), q < 256 → s.bit (F.QP_CTL_EN q) = true → s.linkUp = true → s.ready = true →
    s.unitState (44 + s.owner q) = 1 → s.fenced (44 + s.owner q) = false → (s.pair q).flight = [] →
    s.fld (F.QP_INDEX_IN_HEAD q) % s.inSize q ≠ (s.pair q).tail → (s.dev.pairs.map fun y => y.2.fetches).sum < 64 →
    ws.length = 64 → s.rangeHolds q (ingestOf ws).stream = true → formatOk (ingestOf ws) = true → plenOk (ingestOf ws) = true →
    (ingestOf ws).plen ≠ 0 → (ingestOf ws).plen ≤ s.slotCbuf (ingestOf ws).stream → s.admitFault ((ingestOf ws).offer []) = none →
    s.freeBuf (ingestOf ws).stream (s.flightBufs (ingestOf ws).stream) = some b →
    Completes (.ingestEntryFetch q ws) s fun u => (u.pair q).flight = [some { ingestOf ws with buf := b }] ∧
      (∀ k, k ≠ q → u.pair k = s.pair k) ∧ u.regs = s.regs ∧ SameBytes s u ∧ SameHost s u) ∧
  (∀ (s : State) (q : Nat) (e : Ingest) (g : Group) (pay : List Byte), q < 256 → s.ready = true → (s.pair q).flight = [some e] → e.gone = false →
    pay.length = e.plen → s.admits (e.offer pay) e.buf g → s.inSize q ≤ 2 ^ 16 →
    let h := (s.fld (F.QP_INDEX_IN_HEAD q) + 1) % s.inSize q
    let back := s.qpW q 0x28 / 4 * 4 + 2 ^ 32 * s.qpW q 0x2C
    Completes (.hostChunkStamp q pay true) s fun u => Stamped s u (e.offer pay) e.buf g ∧ (u.pair q).flight = [] ∧
      u.fld (F.QP_INDEX_IN_HEAD q) = h ∧
      u.fld (F.QP_STAMPED q) = min (s.fld (F.QP_STAMPED q) + 1) (2 ^ 32 - 1) ∧
      (back ≠ 0 → u.host.reads back 4 = toBytes 4 h) ∧
      (∀ a, back = 0 ∨ a < back ∨ back + 4 ≤ a → u.host.read a = s.host.read a)) ∧
  (∀ (s : State) (k b : Nat) (x : Gather) (xs : List Gather) (g : Group), k < 16 → s.arrOn = true → (s.inp (128 + k)).ready = x :: xs →
    let slot := s.fld (F.ARR_IN_BIND_SLOT k)
    let seq := if (s.inp (128 + k)).declSeq ≠ (s.slot slot).decls then 0 else ((s.inp (128 + k)).seq + 1) % 2 ^ 32
    let n := x.bytes.length / unitBytes (s.inFormat k)
    let at' := x.at_ + pathLatency (s.inRate k) (s.bit (F.ARR_IN_CTL_LOWLAT k))
    let o : Offer := ⟨slot, 3, s.slotModel slot, x.flags, seq, s.inFormat k, s.inRate k, n, x.user0.getD 0, x.user1.getD 0, x.bytes,
      some (at' % 2 ^ 64), none⟩
    s.reached at' = true → s.admits o b g →
    Completes (.arrayChunkStamp k) s fun u => Stamped s u o b g ∧ (u.inp (128 + k)).ready = xs ∧ (u.inp (128 + k)).seq = seq ∧
      (∀ j, j ≠ 128 + k → u.inp j = s.inp j) ∧ u.regs = s.regs ∧ SameHost s u) ∧
  (∀ (s : State) (k i b : Nat) (x : Gather) (xs : List Gather) (g : Group), i < 32 → s.portOn k = true →
    (s.inp (32 * k + i)).ready = x :: xs →
    let slot := s.fld (F.AUD_IN_MAP_STREAM k i)
    let seq := if (s.inp (32 * k + i)).declSeq ≠ (s.slot slot).decls then 0 else ((s.inp (32 * k + i)).seq + 1) % 2 ^ 32
    let f := s.fld (F.AUD_IN_MAP_FMT k i)
    let n := x.bytes.length / unitBytes f
    let o : Offer :=
      ⟨slot, 2, s.slotModel slot, x.flags, seq, f, s.fld (F.AUD_CFG_RATE k), n, x.user0.getD 0, x.user1.getD 0, x.bytes,
        none, none⟩
    s.reached (x.at_ + 16) = true → s.admits o b g →
    Completes (.portChunkStamp k i) s fun u => Stamped s u o b g ∧ (u.inp (32 * k + i)).ready = xs ∧
      (u.inp (32 * k + i)).seq = seq ∧ (∀ j, j ≠ 32 * k + i → u.inp j = s.inp j) ∧ u.regs = s.regs ∧ SameHost s u)

/-! ## Attention -/

/-- WALK and MERGE. A walk writes the slot's record and stages the attended pages of its list, each with one pin more (R249 to R251); a
walk of a slot whose record is still held is skipped. At a bank's close a record that is expected and not present is marked ABSENT and
counted, and its chunk's result will carry PARTIAL; a present one stays as it is (R264 to R266).
The preparation of a chunk whose group has no walker, and whose slot names a list that is not to be reset: a malformed list ends the
chunk FAIL_EXCEPTION, a dense list that is full LIMIT, an attended page with POISON FAIL_ECC; otherwise the chunk is prepared (R255). A
slot without a list is prepared at once. A work list ends with READY set (R257 to R259); a released record is marked free, and each of
its pins goes (R254).
The choices of the model that it rests on: log entries 65, 66, 67, 68, 69, 71, 131, 132. -/
def Obligations.WalksAndPreparation : Prop :=
  (∀ (s : State) (p i w slot page pool : Nat) (ws : List Nat) (e : TtEntry) (g : Group) (d : List Nat),
    s.entryNow p i false = some e → e.kind = 2 → s.ready = true → (s.plane p).group e.group = some g →
    (s.plane p).walkers[e.ref]? = some d → sortNat (s.members p g (s.turnNo p + bitsOf e.w3 0 2)) = [slot] →
    ((membersOf (s.plane p).walkMask 16).filter fun w => !inMask (s.fld F.KV_WALK_FENCE_MASK) w) = w :: ws →
    s.heldDesc slot = none → slot < 4096 →
    let l := s.slotPlist slot
    let r := recordAt d slot
    s.listMode l = 1 → l ≠ 0 → 0 < s.listLen l → s.listLen l ≤ 16 → 0 < s.listCap l → s.listPage l 0 = page → page ≠ 0 →
    s.poolOf page = some pool → s.pagePin page < 255 → walkPmax d ≠ 0 → walkCopy d = false → s.pageAddr pool page < 2 ^ 40 →
    s.mayRead p (s.listRange l) = true → s.badLine [] [s.listRange l] = none →
    Apart r 0x48 (storeAt + l) 0x44 → Apart r 0x48 (s.ledgerAt page) 4 → Apart r 0x48 (slotEntryAt slot) 32 →
    Completes (.walk p { at_ := i }) s fun u => u.heldDesc slot = some d ∧ (u.slot slot).walker = some w ∧ (u.slot slot).pins = [page] ∧
      (u.slot slot).chunks = (s.slot slot).chunks ∧ u.read32 r = slot + 2 ^ 16 ∧ u.readN (r + 8) 8 = s.listLen l ∧
      bitsOf (u.read32 (r + 0x18)) 0 14 = 1 ∧ u.readN (r + 0x40) 8 = s.pageAddr pool page ∧ u.pagePin page = s.pagePin page + 1 ∧
      u.fld F.KV_WALKS = min (s.fld F.KV_WALKS + 1) (2 ^ F.KV_WALKS.w - 1) ∧
      (∀ b, Apart b 1 r 0x48 → Apart b 1 (s.ledgerAt page) 4 → u.mem.read b = s.mem.read b) ∧ SameHost s u ∧
      SameRegsBut s u [F.KV_WALKS.off] ∧ (∀ n, n ≠ slot → u.slot n = s.slot n)) ∧
  (∀ (s : State) (p i w slot : Nat) (ws : List Nat) (e : TtEntry) (g : Group) (d : List Nat), s.entryNow p i false = some e →
    e.kind = 2 → s.ready = true → (s.plane p).group e.group = some g → (s.plane p).walkers[e.ref]? = some d →
    sortNat (s.members p g (s.turnNo p + bitsOf e.w3 0 2)) = [slot] →
    ((membersOf (s.plane p).walkMask 16).filter fun w => !inMask (s.fld F.KV_WALK_FENCE_MASK) w) = w :: ws →
    (s.heldDesc slot).isSome = true → (s.slot slot).boundOnly (s.turnNo p + bitsOf e.w3 0 2) = false →
    Completes (.walk p { at_ := i }) s fun u => u.fld F.KV_SKIPS = min (s.fld F.KV_SKIPS + 1) (2 ^ F.KV_SKIPS.w - 1) ∧
      (u.slot slot).skip = some (s.turnNo p + bitsOf e.w3 0 2) ∧ u.heldDesc slot = s.heldDesc slot ∧ SameBytes s u ∧ SameHost s u ∧
      SameRegsBut s u (F.KV_SKIPS.off :: catchRegs)) ∧
  (∀ (s : State) (p i t slot k : Nat) (e : TtEntry) (d : List Nat) (c : Chunk), s.ready = true → s.closeNow p i false = some (e, t) →
    (s.plane p).merges[e.ref]? = some d → s.chunksOf p = [(slot, k, c)] → (s.slot slot).chunks = [c] → c.part = p → s.gatheredOld p c = false →
    c.group = e.group → c.pos.isSome = true → c.gatherTurn = t → mergeSlot0 d ≤ slot → slot < mergeSlot0 d + mergeSlots d →
    mergeSrcs d = 1 → mergeRecs d = 1 →
    let a := (mergeBank d (t % 2)).1 + (slot - mergeSlot0 d) * mergeRecSize d
    let named := (bitsOf (s.read32 a) 0 2 = 1 ∨ bitsOf (s.read32 a) 0 2 = 2) ∧ bitsOf (s.read32 a) 4 4 = 0 ∧
      bitsOf (s.read32 (a + 0x10)) 0 12 = 0 ∧ bitsOf (s.read32 (a + 4)) 0 12 = slot
    let fresh := s.read32 (a + 8) = t % 2 ^ 32 ∧ s.read32 (a + 0xC) = c.seq
    Completes (.merge p i false) s fun u => u.bankOpen ⟨p, e.ref, d, t % 2, (u.part p).banks⟩ = false ∧ SameHost s u ∧ SameBytesBut s u a 4 ∧
      (named ∧ fresh → SameBytes s u ∧ u.regs = s.regs ∧ (u.slot slot).chunks = [c]) ∧
      (¬(named ∧ fresh) → u.read32 a = setBits (s.read32 a) 0 2 3 ∧ (u.slot slot).chunks = [{ c with partialOut := true }] ∧
        u.fld F.KV_MERGE_ABSENT = min (s.fld F.KV_MERGE_ABSENT + 1) (2 ^ F.KV_MERGE_ABSENT.w - 1) ∧
        u.fld F.KV_MERGE_STALE = (if (bitsOf (s.read32 a) 0 2 = 1 ∨ bitsOf (s.read32 a) 0 2 = 2) ∧ bitsOf (s.read32 a) 4 4 = 0 ∧
          bitsOf (s.read32 (a + 0x10)) 0 12 = 0 ∧ bitsOf (s.read32 (a + 4)) 0 12 = slot then
          min (s.fld F.KV_MERGE_STALE + 1) (2 ^ F.KV_MERGE_STALE.w - 1) else s.fld F.KV_MERGE_STALE))) ∧
  (∀ (s : State) (slot i : Nat) (c : Chunk), s.ready = true → s.prepIdx slot = some i → (s.slot slot).chunks[i]? = some c →
    s.descFor c.part false c.group slot = none → s.slotPlist slot = 0 → c.tailWait = false →
    Completes (.chunkPrepare { at_ := slot }) s fun u => (u.slot slot).chunks[i]? = some { c with prepared := true } ∧
      (∀ j, j ≠ i → (u.slot slot).chunks[j]? = (s.slot slot).chunks[j]?) ∧ (∀ n, n ≠ slot → u.slot n = s.slot n) ∧
      u.regs = s.regs ∧ SameBytes s u ∧ SameHost s u) ∧
  (∀ (s : State) (slot : Nat) (c : Chunk), s.ready = true → s.prepIdx slot = some 0 → (s.slot slot).chunks = [c] →
    s.descFor c.part false c.group slot = none → hasFlag c.flags flagNewUtt = false → (s.slot slot).newUtt = false →
    c.tailWait = false → (∀ f, (s.slot slot).walkFail = some f → f.1 ≠ c.gatherTurn) →
    (s.planeFor c.part c.old).dests c.group slot ≠ [] → s.slotPlist slot ≠ 0 →
    let l := s.slotPlist slot
    s.mayRead c.part (s.listRange l) = true → s.badLine [] [s.listRange l] = none →
    let len := s.listLen l
    let full := s.listMode l = 1 ∧ (16 * s.listCap l < len ∨ 131072 < len)
    let bad := ∃ b ∈ s.attendedBlocks l len, s.listPage l (s.entryOf l b) ≠ 0 ∧ s.pagePoison (s.listPage l (s.entryOf l b)) = true
    Completes (.chunkPrepare { at_ := slot }) s fun u => SameHost s u ∧
      (s.listBad l 0 = true → (u.slot slot).chunks = [] ∧ ∃ r ∈ (u.slot slot).results, r.status = 4 ∧ r.chunk.seq = c.seq) ∧
      (s.listBad l 0 = false → full → (u.slot slot).chunks = [] ∧ ∃ r ∈ (u.slot slot).results, r.status = 3 ∧ r.chunk.seq = c.seq) ∧
      (s.listBad l 0 = false → ¬full → bad → (u.slot slot).chunks = [] ∧ (u.slot slot).newUtt = true ∧
        ∃ r ∈ (u.slot slot).results, r.status = 5 ∧ r.chunk.seq = c.seq) ∧
      (s.listBad l 0 = false → ¬full → ¬bad → (u.slot slot).chunks = [{ c with prepared := true }] ∧
        (u.slot slot).results = (s.slot slot).results ∧ u.regs = s.regs ∧ SameBytes s u)) ∧
  (∀ (s : State) (slot i : Nat) (d : List Nat), s.ready = true → s.buildIdx slot = some i → s.heldDesc slot = some d →
    walkerWord d 5 = 0 → walkQmax d ≠ 0 →
    (∀ r ∈ maskEntry d slot ++ s.maskPages d slot 1, s.mayRead ((s.slot slot).chunks.getD i {}).part r = true) →
    s.badLine [] (maskEntry d slot) = none → s.badLine [] (s.maskPages d slot 1) = none →
    let r := recordAt d slot
    Completes (.workListBuild { at_ := slot }) s fun u => bitsOf (u.read32 r) 18 1 = 1 ∧ bitsOf (u.read32 (r + 0x18)) 16 9 = 1 ∧
      bitsOf (u.read32 (r + 0x1C)) 0 1 = 0 ∧ u.free = s.free + 1 ∧
      SameBytesBut s u r (0x40 + 8 * walkPmax d + 40 * walkSplits d) ∧ SameHost s u ∧ SameRegsBut s u [F.KV_EMPTY_ROWS.off] ∧
      (∀ n, u.slot n = s.slot n)) ∧
  (∀ (s : State) (slot : Nat) (d : List Nat), s.ready = true → s.recordFree slot = true → s.heldDesc slot = some d →
    (s.slot slot).pins = [] →
    let r := recordAt d slot
    Completes (.recordRelease slot) s fun u => u.heldDesc slot = none ∧ u.read32 r = setBits (s.read32 r) 16 3 0 ∧
      (u.slot slot).chunks = (s.slot slot).chunks ∧ (u.slot slot).results = (s.slot slot).results ∧
      (∀ n, n ≠ slot → u.slot n = s.slot n) ∧ SameBytesBut s u r 4 ∧ u.regs = s.regs ∧ SameHost s u) ∧
  (∀ (s : State) (slot page : Nat) (d : List Nat), s.ready = true → s.recordFree slot = true → s.heldDesc slot = some d →
    (s.slot slot).pins = [page] → 1 < s.pagePin page → Apart (s.ledgerAt page) 4 (recordAt d slot) 4 →
    Completes (.recordRelease slot) s fun u => u.heldDesc slot = none ∧ u.pagePin page = s.pagePin page - 1 ∧
      u.pageRef page = s.pageRef page ∧ u.pageAlloc page = s.pageAlloc page ∧ u.regs = s.regs ∧ SameHost s u)

/-- The page operations of host software (R242, R243, R268, R269): what ALLOC, RETAIN, RELEASE, FORK and RESET do to the page
ledger and the lists, and the result they report; ALLOC in a pool with no free page reports FULL.
The choices of the model that it rests on: log entry 70. -/
def Obligations.PageOperations : Prop :=
  (∀ (s : State) (p : Path) (q : Nat), s.reach p F.KV_OP_CTL_OPC.off = true → s.nextPage (s.fld F.KV_OP_ARG0) = some q →
    q < 2 ^ F.KV_OP_STATUS_PAGE.w →
    Completes (.kvAlloc p) s fun u => u.fld F.KV_OP_STATUS_RESULT = 0 ∧ u.fld F.KV_OP_STATUS_PAGE = q ∧ u.pageRef q = 1 ∧
      u.pagePin q = 0 ∧ u.pageAlloc q = true ∧
      bitsOf (u.pageEntry q) 24 3 = s.fld (F.KV_POOL_D_OWNER (s.fld F.KV_OP_ARG0)) % 8 ∧
      u.fld F.KV_ALLOCS = min (s.fld F.KV_ALLOCS + 1) (2 ^ F.KV_ALLOCS.w - 1) ∧ SameBytesBut s u (s.ledgerAt q) 4 ∧
      SameHost s u ∧ SameRegsBut s u [F.KV_OP_CTL_OPC.off, F.KV_OP_STATUS_RESULT.off, F.KV_ALLOCS.off] ∧ u.dev = s.dev) ∧
  (∀ (s : State) (p : Path), s.reach p F.KV_OP_CTL_OPC.off = true → s.nextPage (s.fld F.KV_OP_ARG0) = none →
    Completes (.kvAlloc p) s fun u => u.fld F.KV_OP_STATUS_RESULT = 1 ∧ SameBytes s u ∧ SameHost s u ∧ u.dev = s.dev ∧
      SameRegsBut s u [F.KV_OP_CTL_OPC.off, F.KV_OP_STATUS_RESULT.off]) ∧
  (∀ (s : State) (p : Path), s.reach p F.KV_OP_CTL_OPC.off = true →
    let page := s.fld F.KV_OP_ARG0
    (s.poolOf page).isSome = true → s.pageRef page < 65535 →
    Completes (.kvRetain p) s fun u => u.fld F.KV_OP_STATUS_RESULT = 0 ∧ u.pageRef page = s.pageRef page + 1 ∧
      u.pagePin page = s.pagePin page ∧ u.pageAlloc page = s.pageAlloc page ∧ SameBytesBut s u (s.ledgerAt page) 4 ∧ SameHost s u ∧
      SameRegsBut s u [F.KV_OP_CTL_OPC.off, F.KV_OP_STATUS_RESULT.off] ∧ u.dev = s.dev) ∧
  (∀ (s : State) (p : Path), s.reach p F.KV_OP_CTL_OPC.off = true →
    let page := s.fld F.KV_OP_ARG0
    (s.poolOf page).isSome = true → s.pageRef page ≠ 0 → s.pagePoison page = false →
    Completes (.kvRelease p) s fun u => u.fld F.KV_OP_STATUS_RESULT = 0 ∧ u.pageRef page = s.pageRef page - 1 ∧
      (s.pageRef page = 1 ∧ s.pagePin page = 0 ∧ s.pageAlloc page = true → u.pageAlloc page = false ∧
        u.fld F.KV_FREES = min (s.fld F.KV_FREES + 1) (2 ^ F.KV_FREES.w - 1)) ∧
      (s.pageRef page ≠ 1 ∨ s.pagePin page ≠ 0 → u.pageAlloc page = s.pageAlloc page ∧ u.fld F.KV_FREES = s.fld F.KV_FREES) ∧
      SameBytesBut s u (s.ledgerAt page) 4 ∧ SameHost s u ∧ u.dev = s.dev ∧
      SameRegsBut s u [F.KV_OP_CTL_OPC.off, F.KV_OP_STATUS_RESULT.off, F.KV_FREES.off]) ∧
  (∀ (s : State) (p : Path), s.reach p F.KV_OP_CTL_OPC.off = true →
    let a := s.fld F.KV_OP_ARG0
    let b := s.fld F.KV_OP_ARG1
    let page := s.listPage a 0
    s.kvVerdict 4 a b = 0 → s.listCap a ≠ 0 → 0 < s.listLen a → s.listLen a ≤ 16 → page ≠ 0 → s.pageRef page < 65535 →
    Apart (storeAt + a) 0x44 (storeAt + b) 0x44 → Apart (s.ledgerAt page) 4 (storeAt + a) 0x44 →
    Apart (s.ledgerAt page) 4 (storeAt + b) 0x44 → s.dropsIn (storeAt + b) 0x44 = false →
    Completes (.kvFork p) s fun u => u.fld F.KV_OP_STATUS_RESULT = 0 ∧ u.listPage b 0 = page ∧ u.listLen b = s.listLen a ∧
      u.pageRef page = s.pageRef page + 1 ∧ u.listPage a 0 = page ∧ u.listLen a = s.listLen a ∧ SameHost s u ∧ u.dev = s.dev ∧
      SameRegsBut s u [F.KV_OP_CTL_OPC.off, F.KV_OP_STATUS_RESULT.off]) ∧
  (∀ (s : State) (p : Path), s.reach p F.KV_OP_CTL_OPC.off = true →
    let l := s.fld F.KV_OP_ARG0
    let page := s.listPage l 0
    s.kvVerdict 5 l (s.fld F.KV_OP_ARG1) = 0 → s.listCap l = 1 → s.listTpl l = 0 → page ≠ 0 → 1 < s.pageRef page →
    Apart (s.ledgerAt page) 4 (storeAt + l) 0x44 → s.dropsIn (storeAt + l) 0x44 = false →
    Completes (.kvReset p) s fun u => u.fld F.KV_OP_STATUS_RESULT = 0 ∧ u.listLen l = 0 ∧ u.listPage l 0 = 0 ∧
      u.pageRef page = s.pageRef page - 1 ∧ SameHost s u ∧ u.dev = s.dev ∧
      SameRegsBut s u [F.KV_OP_CTL_OPC.off, F.KV_OP_STATUS_RESULT.off])

/-! ## Registers, the Store and far memory -/

/-- Registers (R7, R11, R357): a write of a GEN register sets its RW fields and leaves the others; one of an offset with no register is
ignored and counted; a poisoned write of a function is reported and changes nothing else. A read of an RC register returns the value,
and clears it once it is acknowledged.
The choices of the model that it rests on: log entries 14, 15, 136. -/
def Obligations.RegisterAccess : Prop :=
  (∀ (s : State) (p : Path) (off : Nat) (v : Word), (∀ n, p ≠ .vf n) → s.reach p off = true → off < 0x10000 → off % 4 = 0 →
    RegMap.fields off ≠ [] → s.dev.ledg.cycle = [] →
    Completes (.registerWrite p off v {}) s fun u =>
      (∀ f ∈ RegMap.fields off, bitsOf (u.word off).toNat f.lo f.w =
        if f.acc = .rw then bitsOf v.toNat f.lo f.w else bitsOf (s.word off).toNat f.lo f.w) ∧
      SameRegsBut s u [off] ∧ SameBytes s u ∧ SameHost s u ∧ u.dev = { s.dev with ledg := u.dev.ledg }) ∧
  (∀ (s : State) (p : Path) (off : Nat) (v : Word), (∀ n, p ≠ .vf n) → s.reach p off = true → off % 4 = 0 → RegMap.fields off = [] →
    s.dev.ledg.cycle = [] →
    Completes (.registerWrite p off v {}) s fun u =>
      u.fld F.GEN_BAD_ACCESS_COUNT = min (s.fld F.GEN_BAD_ACCESS_COUNT + 1) 65535 ∧
      SameRegsBut s u [F.GEN_BAD_ACCESS_COUNT.off] ∧ SameBytes s u ∧ SameHost s u ∧ u.dev = { s.dev with ledg := u.dev.ledg }) ∧
  (∀ (s : State) (off : Nat) (v : Word), s.reach .pf off = true → s.dev.ledg.cycle = [] →
    Completes (.registerWrite .pf off v { form := .poisoned }) s fun u => u.dev.log.count ≠ s.dev.log.count ∧ SameRegsBut s u catchRegs ∧
      SameBytes s u ∧ SameHost s u) ∧
  (∀ (s : State) (p : Path) (off r : Nat) (k : Kept) (acked : Bool), (∀ n, p ≠ .vf n) → s.reach p off = true → off % 4 = 0 →
    RegMap.fields off = [⟨0, 32, .rc, r, k⟩] → isPairHigh off = false → s.viewOf off = none → s.heldWindow off = false →
    off ≠ F.ARR_FAB_MDATA_LO.off →
    Completes (.rcRead p { off } { acked }) s fun u => u.dev.out = s.dev.out ++ [.reply p (toBytes 4 (s.word off).toNat)] ∧
      u.word off = (if acked then BitVec.ofNat 32 r else s.word off) ∧ SameRegsBut s u [off] ∧ SameBytes s u ∧ SameHost s u)

/-- A write that is narrower than 32 bits, or not aligned to 32 bits, is dropped; the device counts it in GEN_BAD_ACCESS (R9), a
virtual function's own in its own window (R355). -/
def Obligations.NarrowWritesAreDropped : Prop :=
  ∀ (s : State) (p : Path) (off : Nat) (v : Word) (how : WriteForm), s.reach p off = true →
    how = .narrow ∨ (how = .word ∧ off % 4 ≠ 0) → s.dev.ledg.cycle = [] →
    Completes (.registerWrite p off v { form := how }) s fun u => u.fld (badAccessOf p) = min (s.fld (badAccessOf p) + 1) 65535 ∧
      SameRegsBut s u [(badAccessOf p).off] ∧ SameBytes s u ∧ SameHost s u ∧ u.dev = { s.dev with ledg := u.dev.ledg }

/-- Whatever a virtual function writes, and wherever, no register changes outside its own window, the pairs that it owns, and those
that a logged catch touches; no byte of memory changes, and no pair changes its owner (R355, R360).
The choices of the model that it rests on: log entries 14, 15. -/
def Obligations.VfWritesStayInTheirWindow : Prop :=
  ∀ (s : State) (n off : Nat) (v : Word) (how : WriteForm), s.dev.ledg.cycle = [] →
    Completes (.registerWrite (.vf n) off v { form := how }) s fun u =>
      (∀ o, o < 0x4000000 + 0x10000 * n ∨ 0x4010000 + 0x10000 * n ≤ o → (∀ q, q < 256 → s.owner q = n → o < qpAt q ∨ qpAt q + 64 ≤ o) →
        o ∉ catchRegs → u.word o = s.word o) ∧
      (∀ q, u.owner q = s.owner q) ∧ SameBytes s u ∧ SameHost s u ∧
      u.dev = { s.dev with ledg := u.dev.ledg, log := u.dev.log, out := u.dev.out, pairs := u.dev.pairs, slots := u.dev.slots,
                           marks := u.dev.marks }

/-- BAR2 and the scrubber (R206, R210, R221, R223, R372): a read of bytes that no rule denies returns them, a denied one returns ones;
a write within a line lands, or is dropped and counted; the scrubber moves on by a line and poisons one that cannot be corrected.
The choices of the model that it rests on: log entries 62, 63. -/
def Obligations.StoreAccess : Prop :=
  (∀ (s : State) (off len : Nat), s.pfOpen = true → 0 < len → off + len ≤ storeSize → off + len ≤ s.dev.bar2Size →
    s.fenced 41 = false →
    (∀ i, i < len → s.bar2Denies (storeAt + off + i) = false ∧ pendingByte (storeAt + off + i) = false ∧
      s.dev.poison.contains ((storeAt + off + i) / 64 * 64) = false) →
    Completes (.bar2Read 0 off len {}) s fun u =>
      u = { s with dev := { s.dev with out := s.dev.out ++ [.reply .pf (s.mem.reads (storeAt + off) len)] } }) ∧
  (∀ (s : State) (off len : Nat), s.pfOpen = true → 0 < len → off + len ≤ storeSize → off + len ≤ s.dev.bar2Size →
    s.fenced 41 = false →
    (∀ i, i < len → s.bar2Denies (storeAt + off + i) = true) →
    Completes (.bar2Read 0 off len {}) s fun u =>
      u = { s with dev := { s.dev with out := s.dev.out ++ [.reply .pf (List.replicate len 0xFF)] } }) ∧
  (∀ (s : State) (peer : Bool) (off : Nat) (bs : List Byte), s.pfOpen = true → bs ≠ [] → off % 64 + bs.length ≤ 64 →
    off + bs.length ≤ storeSize → off + bs.length ≤ s.dev.bar2Size → s.fenced 41 = false → s.closedAt (storeAt + off) = none →
    (∀ i, i < bs.length → s.bar2Drops (storeAt + off + i) = false) →
    Completes (.bar2Write peer off bs false) s fun u => u.mem.reads (storeAt + off) bs.length = bs ∧
      SameBytesBut s u (storeAt + off) bs.length ∧ u.regs = s.regs ∧ SameHost s u ∧ u.dev = { s.dev with poison := u.dev.poison } ∧
      (bs.length = 64 → u.dev.poison.contains (storeAt + off) = false)) ∧
  (∀ (s : State) (peer : Bool) (off : Nat) (bs : List Byte), s.pfOpen = true → bs ≠ [] → off % 64 + bs.length ≤ 64 →
    off + bs.length ≤ storeSize → off + bs.length ≤ s.dev.bar2Size → s.fenced 41 = false → s.closedAt (storeAt + off) = none →
    (∀ i, i < bs.length → s.bar2Drops (storeAt + off + i) = true) →
    Completes (.bar2Write peer off bs false) s fun u => SameBytes s u ∧ SameHost s u ∧
      u.fld F.STORE_HOST_DROPS = min (s.fld F.STORE_HOST_DROPS + 1) (2 ^ F.STORE_HOST_DROPS.w - 1) ∧
      SameRegsBut s u (F.STORE_HOST_DROPS.off :: catchRegs)) ∧
  (∀ (s : State) (e : EccErr), s.ready = true → s.bit F.STORE_ECC_CTL_SCRUB_EN = true →
    let a := s.fld F.STORE_SCRUB_POS_OFFSET / 64 * 64
    Completes (.scrubLine e) s fun u => u.fld F.STORE_SCRUB_POS_OFFSET = (a + 64) % storeSize ∧ SameHost s u ∧
      (e = .none → SameBytes s u ∧ u.dev = s.dev ∧ SameRegsBut s u [F.STORE_SCRUB_POS_OFFSET.off]) ∧
      (e = .corrected → u.fld F.STORE_CE = min (s.fld F.STORE_CE + 1) (2 ^ F.STORE_CE.w - 1) ∧ SameBytes s u) ∧
      (e = .uncorrectable → u.dev.poison.contains (storeAt + a) = true ∧ u.dev.log.count ≠ s.dev.log.count ∧
        u.fld F.STORE_UE = min (s.fld F.STORE_UE + 1) (2 ^ F.STORE_UE.w - 1)))

/-- Far memory (R228 to R232, R295): training starts with the configuration written, ends ready with memory zero-filled or fenced with
the channels that failed; the temperature poll is reported; a refresh that a window cannot postpone is counted; an opening window starts
the transfer that waited for it.
The choices of the model that it rests on: log entries 61, 140. -/
def Obligations.FarMemory : Prop :=
  (∀ (s : State) (p : Path) (v : Word), s.reach p F.FAR_TRAIN_CTL_START.off = true → s.farRefusal = none →
    s.fld F.FAR_CFG_CHMASK ≠ 0 →
    Completes (.farTrainStart p v) s fun u => u.unitState 42 = 2 ∧ u.epoch 42 = (s.epoch 42 + 1) % 65536 ∧
      u.fld F.FAR_TRAIN_STATUS_STEP = 0 ∧ u.fld F.FAR_TRAIN_STATUS_DONE = 0 ∧ u.fld F.FAR_TRAIN_STATUS_FAIL = 0 ∧
      u.fld F.FAR_TRAIN_STATUS_REFUSED = 0 ∧ u.fld F.FAR_STATUS_IECC = s.fld F.FAR_CFG_IECC ∧
      u.fld F.FAR_STATUS_LECC = s.fld F.FAR_CFG_LECC ∧ u.dev.farKeep = false ∧ SameBytes s u ∧ SameHost s u) ∧
  (∀ (s : State) (p : Path) (v : Word) (c : Nat), s.reach p F.FAR_TRAIN_CTL_START.off = true → s.farRefusal = some c →
    s.fresh (256 * 0x6012 + 42) (.ticks 2500000) = true →
    Completes (.farTrainStart p v) s fun u => u.fld F.FAR_TRAIN_STATUS_REFUSED = 1 ∧ u.unitState 42 = s.unitState 42 ∧
      u.epoch 42 = s.epoch 42 ∧ u.dev.log.count ≠ s.dev.log.count ∧ SameBytes s u ∧ SameHost s u) ∧
  (∀ (s : State) (step failch : Nat), s.ready = true → s.unitState 42 = 2 →
    Completes (.farTrainComplete step failch) s fun u => SameHost s u ∧
      (failch % 256 = 0 → u.unitState 42 = 3 ∧ u.fenced 42 = false ∧ u.fld F.FAR_TRAIN_STATUS_DONE = 1 ∧
        u.fld F.FAR_TRAIN_STATUS_STEP = 9 ∧ (s.dev.farKeep = true → SameBytes s u) ∧
        (s.dev.farKeep = false → (∀ a, farAt ≤ a → a < farAt + 2 ^ 37 → u.mem.read a = 0) ∧ SameBytesBut s u farAt (2 ^ 37))) ∧
      (failch % 256 ≠ 0 → u.unitState 42 = 5 ∧ u.fenced 42 = true ∧ u.fld F.FAR_TRAIN_STATUS_FAIL = 1 ∧
        u.fld F.FAR_TRAIN_STATUS_FAILCH = failch % 2 ^ F.FAR_TRAIN_STATUS_FAILCH.w ∧ u.dev.log.count ≠ s.dev.log.count ∧
        SameBytes s u)) ∧
  (∀ (s : State) (m x : Nat) (hot tooHot : Bool), s.ready = true → s.unitState 42 = 3 →
    Completes (.farMr4Poll m x hot tooHot) s fun u => u.fld F.FAR_TEMP_MR4 = m % 2 ^ F.FAR_TEMP_MR4.w ∧
      u.fld F.FAR_TEMP_MULT = x % 2 ^ F.FAR_TEMP_MULT.w ∧ (tooHot = true → u.fenced 42 = true) ∧
      (tooHot = false → u.fenced 42 = s.fenced 42) ∧ (hot = false → tooHot = false → u.dev = s.dev) ∧
      (hot = true ∨ tooHot = true → u.dev.log.count ≠ s.dev.log.count) ∧ SameBytes s u ∧ SameHost s u) ∧
  (∀ s : State, Completes .farPeriodicCal s fun u => u = s) ∧
  (∀ (s : State), s.ready = true → s.unitState 42 = 3 → s.servingWindow = true →
    Completes (.farRefreshDue false) s fun u =>
      u.fld F.FAR_REF_FORCED = min (s.fld F.FAR_REF_FORCED + 1) (2 ^ F.FAR_REF_FORCED.w - 1) ∧ u.dev.log.count ≠ s.dev.log.count ∧
      SameBytes s u ∧ SameHost s u ∧ SameRegsBut s u (F.FAR_REF_FORCED.off :: catchRegs)) ∧
  (∀ (s : State) (p i t : Nat) (w : Nat × Nat) (x : Xfer) (xs : List Xfer), s.ready = true → (s.plane p).farWins[i]? = some w →
    s.partOn p = true → s.reached (s.turnOrg p) = true → s.since (s.turnOrg p) % s.turnLen p = (winRange w).1 →
    (s.dev.tiles.filter fun t => (t.2.xfers.headD {}).waits && (t.2.xfers.headD {}).part == p).map Prod.fst = [t] →
    (s.tile t).xfers = x :: xs → s.startOf t x = .go → (∀ n, (s.slot n).walkLeft = []) →
    Completes (.farWindowOpen p { at_ := i }) s fun u => (u.tile t).xfers = { x with started := true, waits := false } :: xs ∧
      (∀ j, j ≠ t → u.tile j = s.tile j) ∧ u.regs = s.regs ∧ SameBytes s u ∧ SameHost s u)

/-! ## The Chuck: boot, loads, fuses and regrips -/

/-- Boot (R313 to R315, R524, R656): the Chuck starts with the first source; a good block of flash is taken, a bad one is read again;
a source whose time is over is left for the next, and after the last the Chuck waits.
The choices of the model that it rests on: log entries 73, 74. -/
def Obligations.BootTriesSources : Prop :=
  (∀ (s : State) (f : FlashIn) (x : Nat) (xs : List Nat), s.dev.pwr.por = false → s.heldReset = false → s.devState = 0 →
    s.bootSources = x :: xs → x ≠ 1 → s.dev.chuck.load = none →
    Completes (.chuckBoot f) s fun u => u.devState = 1 ∧ u.fld F.IMG_STATUS_CHUCK = 1 ∧ u.fld F.IMG_STATUS_SRC = x ∧
      u.dev.chuck.booting = true ∧ u.dev.chuck.sources = x :: xs ∧ u.dev.chuck.sourceAt = s.now ∧ u.dev.chuck.bootDue = false ∧
      SameBytes s u ∧ SameHost s u) ∧
  (∀ (s : State) (f : FlashIn) (data check : List Byte) (l : Load), s.atFlash = true → s.dev.chuck.probed = true →
    data.length = 4096 → s.dev.chuck.load = some l → l.bytes.length < s.flashReach → check = data.drop 4080 →
    (l.bytes ++ data).length ≤ (hdrOf (l.bytes ++ data)).length →
    Completes (.qspiBlockRead f data check) s fun u => u.dev.chuck.load = some { l with bytes := l.bytes ++ data, lastData := s.now } ∧
      u.dev.chuck.retries = 0 ∧ u.fld F.IMG_DONE = (l.bytes.length + 4096) % 2 ^ 31 ∧ SameRegsBut s u [F.IMG_DONE.off] ∧
      SameBytes s u ∧ SameHost s u) ∧
  (∀ (s : State) (f : FlashIn) (data check : List Byte) (l : Load), s.atFlash = true → s.dev.chuck.probed = true →
    data.length = 4096 → s.dev.chuck.load = some l → l.bytes.length < s.flashReach → check ≠ data.drop 4080 →
    s.dev.chuck.retries < 3 →
    Completes (.qspiBlockRead f data check) s fun u => u.dev.chuck.load = some l ∧ u.dev.chuck.retries = s.dev.chuck.retries + 1 ∧
      SameRegsBut s u catchRegs ∧ SameBytes s u ∧ SameHost s u) ∧
  (∀ (s : State) (t x y : Nat) (ys : List Nat), s.ready = true → s.dev.chuck.booting = true → s.dev.chuck.load = none →
    s.bootBound = some t → s.reached t = true → s.dev.chuck.sources = x :: y :: ys → y < 8 →
    Completes .bootSourceTimeout s fun u => u.dev.chuck.sources = y :: ys ∧ u.fld F.IMG_STATUS_SRC = y ∧
      u.fld F.IMG_STATUS_CHUCK = 1 ∧ u.dev.chuck.sourceAt = s.now ∧ u.fld F.IMG_RESULT_CODE = 9 ∧
      u.dev.log.count ≠ s.dev.log.count ∧ SameBytes s u ∧ SameHost s u) ∧
  (∀ (s : State) (t x : Nat), s.ready = true → s.dev.chuck.booting = true → s.dev.chuck.load = none →
    s.bootBound = some t → s.reached t = true → s.dev.chuck.sources = [x] →
    Completes .bootSourceTimeout s fun u => u.dev.chuck.sources = [] ∧ u.fld F.IMG_STATUS_SRC = s.fld F.IMG_STATUS_SRC ∧ u.fld F.IMG_STATUS_CHUCK = 4 ∧
      u.dev.log.count ≠ s.dev.log.count ∧ SameBytes s u ∧ SameHost s u)

/-- Loads (R317, R325, R328, R346, R531): a load that may begin begins, one that may not is refused with STATE; a load that is aborted,
whose source falls silent, or whose image fails a check ends with that result; a STAGE image that passes every check becomes the
partition's staged plane.
The choices of the model that it rests on: log entries 75, 76, 79, 83, 125. -/
def Obligations.ImageLoads : Prop :=
  (∀ (s : State) (p : Path) (v : Word) (k : Nat) (c : Instr), s.reach p F.IMG_CTL_LOAD.off = true →
    (k, c) ∈ [(0, Instr.imgLoadFull p v), (1, .imgLoadStage p v), (2, .imgLoadActive p v)] →
    let part := bitsOf v.toNat 4 3
    s.mayLoad k part 2 = true →
    Completes c s fun u => u.fld F.IMG_STATUS_CHUCK = 1 ∧ u.fld F.IMG_STATUS_SRC = 2 ∧ u.fld F.IMG_DONE = 0 ∧
      u.dev.chuck.load = some { kind := k, part := part, src := 2, boot := s.dev.chuck.booting, len := s.fld F.IMG_LEN, lastData := s.now } ∧
      (k = 1 → (u.part part).staged = none ∧ u.fld (F.IMG_SBUILD part) = 0) ∧ SameBytes s u ∧ SameHost s u) ∧
  (∀ (s : State) (p : Path) (v : Word) (k : Nat) (c : Instr), s.reach p F.IMG_CTL_LOAD.off = true → v.getLsbD 1 = false →
    (k, c) ∈ [(0, Instr.imgLoadFull p v), (1, .imgLoadStage p v), (2, .imgLoadActive p v)] →
    s.mayLoad k (bitsOf v.toNat 4 3) 2 = false →
    Completes c s fun u => u.fld F.IMG_RESULT_CODE = 8 ∧ u.dev.chuck = s.dev.chuck ∧ u.dev.parts = s.dev.parts ∧
      u.dev.log.count ≠ s.dev.log.count ∧ SameBytes s u ∧ SameHost s u) ∧
  (∀ (s : State) (p : Path) (v : Word) (l : Load), s.reach p F.IMG_CTL_LOAD.off = true → v.getLsbD 0 = false →
    s.dev.chuck.load = some l → l.boot = false → s.fld F.IMG_STATUS_CHUCK ≠ 3 →
    Completes (.loadAbort p v) s fun u => u.dev.chuck.load = none ∧ u.fld F.IMG_STATUS_CHUCK = 0 ∧ u.fld F.IMG_STATUS_SRC = s.fld F.IMG_STATUS_SRC ∧
      u.fld F.IMG_RESULT_CODE = 10 ∧ u.dev.log.count ≠ s.dev.log.count ∧ SameHost s u) ∧
  (∀ (s : State) (l : Load), s.ready = true → s.dev.chuck.load = some l → l.boot = false → s.fld F.IMG_STATUS_CHUCK ≠ 3 →
    l.src = 4 → s.reached (l.lastData + 500000000) = true →
    Completes .imageSourceTimeout s fun u => u.dev.chuck.load = none ∧ u.fld F.IMG_STATUS_CHUCK = 0 ∧ u.fld F.IMG_RESULT_CODE = 9 ∧
      u.dev.log.count ≠ s.dev.log.count ∧ SameHost s u) ∧
  (∀ (s : State) (l : Load) (data : List Byte), s.ready = true → s.fld F.IMG_STATUS_CHUCK = 1 →
    s.dev.chuck.load = some l → l.src ≠ 2 → l.boot = false → l.kind = 1 → l.part < 8 → l.complete = true →
    Completes (.imageComplete data) s fun u => u.dev.chuck.load = none ∧ u.fld F.IMG_STATUS_CHUCK = 0 ∧
      u.dev.log.count ≠ s.dev.log.count ∧ SameHost s u ∧
      match authenticate s.dev.chuck (s.loadState 1 l.part) true l.part l.bytes with
      | .ok (h, b) => s.imageOk l h b = true → (u.part l.part).staged = some (planeOf h b l.part) ∧
          (u.part l.part).active = (s.part l.part).active ∧ u.fld F.IMG_RESULT_CODE = 0 ∧
          u.fld (F.IMG_SBUILD l.part) = (planeOf h b l.part).build % 2 ^ 32
      | .error (code, _) => u.fld F.IMG_RESULT_CODE = code % 256 ∧ u.dev.parts = s.dev.parts)

/-- Rollback and fuses (R321, R323): a commit whose key and value are right fuses its value, and the counter never falls; one that is
wrong is rejected. A burn sets the bits of DATA in the selected word beside those that are set already; one that is not allowed sets
ERR and nothing else.
The choices of the model that it rests on: log entries 20, 81, 82. -/
def Obligations.RollbackAndFuses : Prop :=
  (∀ (s : State) (p : Path) (v : Word), s.reach p F.SEC_RB_COMMIT_VALUE.off = true → s.bit F.SEC_RB_STAT_BUSY = false →
    bitsOf v.toNat 16 16 = 0xC0DE → s.dev.chuck.rbCount < bitsOf v.toNat 0 7 → bitsOf v.toNat 0 7 ≤ s.fld F.SEC_ACT_SEQ_SEQ →
    Completes (.rbCommit p v) s fun u => u.dev.chuck.rbTarget = some (bitsOf v.toNat 0 7) ∧ u.bit F.SEC_RB_STAT_BUSY = true ∧
      u.dev.chuck.rbCount = s.dev.chuck.rbCount ∧ SameRegsBut s u [F.SEC_RB_STAT_BUSY.off] ∧ SameBytes s u ∧ SameHost s u) ∧
  (∀ (s : State) (p : Path) (v : Word), s.reach p F.SEC_RB_COMMIT_VALUE.off = true →
    s.bit F.SEC_RB_STAT_BUSY = true ∨ bitsOf v.toNat 16 16 ≠ 0xC0DE ∨ bitsOf v.toNat 0 7 ≤ s.dev.chuck.rbCount ∨
      s.fld F.SEC_ACT_SEQ_SEQ < bitsOf v.toNat 0 7 →
    Completes (.rbCommit p v) s fun u => u.bit F.SEC_RB_STAT_REJECTED = true ∧ u.dev.chuck = s.dev.chuck ∧
      u.dev.log.count ≠ s.dev.log.count ∧ SameBytes s u ∧ SameHost s u ∧
      SameRegsBut s u (F.SEC_RB_STAT_REJECTED.off :: catchRegs)) ∧
  (∀ (s : State) (v : Nat), s.dev.chuck.rbTarget = some v → s.dev.pwr.por = false → s.heldReset = false → s.inRest = false →
    Completes .rbCommitted s fun u => u.dev.chuck.rbCount = max s.dev.chuck.rbCount v ∧ u.dev.chuck.rbTarget = none ∧
      u.bit F.SEC_RB_STAT_BUSY = false ∧ u.bit F.SEC_RB_STAT_DONE = true ∧ u.dev.log.count ≠ s.dev.log.count ∧
      SameBytes s u ∧ SameHost s u ∧ SameRegsBut s u (F.SEC_RB_STAT_BUSY.off :: catchRegs)) ∧
  (∀ (s : State) (p : Path) (v : Word), s.reach p F.SEC_PROG_CTL_BURN.off = true → p = .pf ∨ p = .mb ∨ p = .usb ∨ p = .spi →
    let w := s.fld F.SEC_PROG_SEL_WORD
    let d := s.fld F.SEC_PROG_DATA
    w ≤ 20 → (w < 20 → fuseBit s.dev.chuck 0 = false) →
    Completes (.fuseBurn p v true) s fun u =>
      (∀ j, Sparse.get zeroNat u.dev.chuck.keyHash j = Sparse.get zeroNat s.dev.chuck.keyHash j ||| (if j = w ∧ w < 12 then d else 0)) ∧
      (∀ j, Sparse.get zeroNat u.dev.chuck.imgKey j =
        Sparse.get zeroNat s.dev.chuck.imgKey j ||| (if j + 12 = w ∧ w < 20 then d else 0)) ∧
      u.dev.chuck.fuseFlags = s.dev.chuck.fuseFlags ||| (if w = 20 then d % 32 else 0) ∧
      SameRegsBut s u [F.SEC_PROG_CTL_ERR.off] ∧ SameBytes s u ∧ SameHost s u) ∧
  (∀ (s : State) (p : Path) (v : Word) (ok : Bool), s.reach p F.SEC_PROG_CTL_BURN.off = true →
    20 < s.fld F.SEC_PROG_SEL_WORD ∨ (s.fld F.SEC_PROG_SEL_WORD < 20 ∧ fuseBit s.dev.chuck 0 = true) →
    Completes (.fuseBurn p v ok) s fun u => u.bit F.SEC_PROG_CTL_ERR = true ∧ u.dev.chuck = s.dev.chuck ∧
      u.dev.log.count ≠ s.dev.log.count ∧ SameBytes s u ∧ SameHost s u ∧ SameRegsBut s u (F.SEC_PROG_CTL_ERR.off :: catchRegs))

/-- Regrips (R330 to R338, R344): at the boundary of an order the staged plane of an enabled partition becomes its active one, and the
old one retires until its chunks and results are gone; a disabled partition's plane passes at once; a joining bench is zero-filled.
The choices of the model that it rests on: log entries 84, 122. -/
def Obligations.Regrips : Prop :=
  (∀ (s : State) (p : Nat) (o : Regrip) (cut : Bool) (a st : Plane), p < 8 → s.ready = true → (s.part p).regrip = some o →
    ((membersOf o.pmask 8).filter fun q => (s.part q).regrip == some o) = [p] → s.partOn p = true →
    s.regripNow [p] o = some cut → (s.part p).active = some a → (s.part p).staged = some st → st.release = false →
    Completes (.regripSwap p) s fun u => (u.part p).active = some st ∧ (u.part p).staged = none ∧ (u.part p).regrip = none ∧
      (u.part p).retiring = some (a, s.now) ∧ u.unitState (32 + p) = 1 ∧ u.epoch (32 + p) = (s.epoch (32 + p) + 1) % 65536 ∧
      u.fld (F.IMG_ABUILD p) = st.build % 2 ^ 32 ∧ u.fld (F.IMG_SBUILD p) = 0 ∧
      u.turnLen p = st.turnLen % 2 ^ (F.TB_TURN_LEN_LEN p).w ∧ (st.turnLen = a.turnLen → u.turnOrg p = s.turnOrg p) ∧
      (∀ q, q ≠ p → (u.part q).active = (s.part q).active) ∧ SameHost s u) ∧
  (∀ (s : State) (p : Nat) (o : Regrip) (cut : Bool) (st : Plane), p < 8 → s.ready = true → (s.part p).regrip = some o →
    ((membersOf o.pmask 8).filter fun q => (s.part q).regrip == some o) = [p] → s.partOn p = false →
    s.regripNow [p] o = some cut → (s.part p).active = none → (s.part p).staged = some st → st.release = false →
    Completes (.regripSwap p) s fun u => (u.part p).active = some st ∧ (u.part p).staged = none ∧ (u.part p).regrip = none ∧
      (u.part p).retiring = (s.part p).retiring ∧ u.unitState (32 + p) = 0 ∧ u.fld (F.IMG_ABUILD p) = st.build % 2 ^ 32 ∧
      u.epoch (32 + p) = (s.epoch (32 + p) + 1) % 65536 ∧ SameHost s u) ∧
  (∀ (s : State) (p b : Nat) (pl : Plane), (s.part p).retiring = some (pl, b) → s.ready = true → s.oldBusy p = false →
    s.oldUnsent p = false →
    Completes (.retireEnd p) s fun u => (u.part p).retiring = none ∧ (u.part p).active = (s.part p).active ∧
      u.dev.log.count ≠ s.dev.log.count ∧ SameBytes s u ∧ SameHost s u ∧ SameRegsBut s u catchRegs ∧
      (∀ q, q ≠ p → u.part q = s.part q)) ∧
  (∀ (s : State) (b p : Nat), b < 32 → s.dev.pwr.joining.find? (fun x => x.1 == b) = some (b, p) → s.ready = true →
    inMask (s.plane p).benches b = true → s.fenced b = false → s.partOn p = false →
    ((s.plane p).tiles.filter fun r => r.tile / 16 == b) = [] →
    Completes (.joinLoadDone b) s fun u => u.unitState b = 3 ∧ (∀ x ∈ u.dev.pwr.joining, x.1 ≠ b) ∧
      (∀ a, tileAt (16 * b) ≤ a → a < tileAt (16 * b + 16) → u.mem.read a = 0) ∧
      SameBytesBut s u (tileAt (16 * b)) (16 * 0x100000) ∧ SameHost s u ∧ SameRegsBut s u [(F.LEDG_UNIT_STATE b).off])

/-! ## The host interface -/

/-- Resets from the host (R374 to R377, R573, R587): PERST_N takes the link and every function down, disables every pair and drops
staged planes, and leaves benches, active planes, tile programs, memory and the count alone; a function-level reset stops its
function's pairs and no others, that of the physical function every virtual function too; FLR_DONE brings the function back.
The choices of the model that it rests on: log entry 85. -/
def Obligations.HostResets : Prop :=
  (∀ s : State, s.ready = true → s.dev.chuck.load = none → (∀ y ∈ s.dev.tiles, ∀ x ∈ y.2.xfers, x.started = false) →
    Completes (.hostReset .perst) s fun u => u.unitState 43 = 0 ∧ (∀ n, n < 64 → u.unitState (44 + n) = 0 ∧ u.fenced (44 + n) = false) ∧
      (∀ q, q < 256 → u.bit (F.QP_CTL_EN q) = false ∧ u.pair q = {}) ∧ u.dev.numVfs = 0 ∧
      (∀ p, p < 8 → (u.part p).staged = none ∧ (u.part p).active = (s.part p).active) ∧
      (∀ b, b < 32 → u.unitState b = s.unitState b) ∧ (∀ t, u.tile t = s.tile t) ∧ u.dev.hs.now = s.dev.hs.now ∧
      u.fld F.GEN_SCRATCH_VALUE = s.fld F.GEN_SCRATCH_VALUE ∧ u.dev.pwr.pins.perstN = false ∧ u.dev.log.count ≠ s.dev.log.count ∧
      SameBytes s u ∧ SameHost s u) ∧
  (∀ (s : State) (v : Nat), s.ready = true → s.linkUp = true → 1 ≤ v → v ≤ s.dev.numVfs → v < 64 → s.unitState (44 + v) ≠ 0 →
    s.fenced (44 + v) = false →
    Completes (.vfFlr v) s fun u => u.unitState (44 + v) = 3 ∧ u.epoch (44 + v) = (s.epoch (44 + v) + 1) % 65536 ∧
      (∀ q, q < 256 → s.owner q = v → u.owner q = v ∧ u.bit (F.QP_CTL_EN q) = false ∧ u.pair q = {}) ∧
      (∀ q, q < 256 → s.owner q ≠ v → u.owner q = s.owner q ∧ u.fld (F.QP_CTL_EN q) = s.fld (F.QP_CTL_EN q) ∧ u.pair q = s.pair q) ∧
      u.fld ⟨0x4000018 + 0x10000 * v, 0, 32⟩ = 0 ∧ u.latched (.vf v) = 0 ∧
      (∀ n, n < 117 → n ≠ 44 + v → u.unitState n = s.unitState n) ∧ u.dev.parts = s.dev.parts ∧ u.dev.log = s.dev.log ∧
      SameBytes s u ∧ SameHost s u) ∧
  (∀ s : State, s.ready = true → s.linkUp = true → s.unitState 44 ≠ 0 → s.dev.chuck.load = none →
    Completes .pfFlr s fun u => u.unitState 44 = 3 ∧ u.dev.numVfs = 0 ∧ (∀ v, 1 ≤ v → v < 64 → u.unitState (44 + v) = 0) ∧
      (∀ w, w < 16 → u.bit (F.HQ_HWIN_CTL_VALID w) = false) ∧
      (∀ q, q < 256 → u.owner q = 0 ∧ u.fld (F.QP_SLOTS_SLOT_LO q) = 0 ∧ u.fld (F.QP_SLOTS_SLOT_HI q) = 0) ∧
      (∀ q, q < 256 → s.owner q = 0 → u.bit (F.QP_CTL_EN q) = false ∧ u.pair q = {}) ∧
      (∀ n, n < 44 → u.unitState n = s.unitState n) ∧ u.dev.parts = s.dev.parts ∧ u.dev.log.recs = s.dev.log.recs ∧
      SameBytes s u ∧ SameHost s u) ∧
  (∀ (s : State) (f : Nat), s.ready = true → f < 64 → s.unitState (44 + f) = 3 →
    Completes (.flrDone f) s fun u => u.unitState (44 + f) = 1 ∧ u.dev.log.count ≠ s.dev.log.count ∧ SameBytes s u ∧ SameHost s u ∧
      SameRegsBut s u ((F.LEDG_UNIT_STATE (44 + f)).off :: catchRegs))

/-- The link, VF Enable, power states and time-outs (R353, R364, R371, R377, R378): what each says in the ledger.
Queue pairs (R355, R360, R361, R366, R380): EN starts a pair afresh unless its range is empty or overlaps another's, and stops it
with nothing in flight; a doorbell with a good index moves the tail or the head, any other is dropped and counted.
The choices of the model that it rests on: log entries 85, 86. -/
def Obligations.HostLinkAndQueues : Prop :=
  (∀ (s : State) (rate width : Nat) (flit : Bool), s.ready = true → s.linkUp = false → s.fenced 43 = false → s.jtagHolds = false →
    Completes (.hostLinkUp rate width flit) s fun u => u.linkUp = true ∧ u.unitState 44 = 1 ∧
      u.epoch 43 = (s.epoch 43 + 1) % 65536 ∧ u.fld F.HQ_STATUS_RATE = rate % 8 ∧ u.fld F.HQ_STATUS_WIDTH = width % 32 ∧
      u.bit F.HQ_STATUS_FLIT = flit ∧ u.dev.pwr.pins.perstN = true ∧ u.dev.log.count ≠ s.dev.log.count ∧ SameBytes s u ∧
      SameHost s u ∧ SameRegsBut s u (F.HQ_STATUS_RATE.off :: (F.LEDG_UNIT_STATE 43).off :: (F.LEDG_UNIT_STATE 44).off :: catchRegs)) ∧
  (∀ (s : State) (n : Nat), s.ready = true → s.linkUp = true → s.unitState 44 = 1 → s.dev.numVfs = 0 →
    Completes (.vfEnable n) s fun u => SameBytes s u ∧ SameHost s u ∧
      (n ≤ 63 → s.vectorsFor n ≤ 2048 → u.dev = { s.dev with numVfs := n } ∧
        (∀ v, 1 ≤ v → v ≤ n → u.unitState (44 + v) = 1) ∧ (∀ v, n < v → u.unitState (44 + v) = s.unitState (44 + v)) ∧
        (∀ o, (∀ v, 1 ≤ v → v ≤ n → o ≠ (F.LEDG_UNIT_STATE (44 + v)).off) → u.word o = s.word o)) ∧
      (63 < n ∨ 2048 < s.vectorsFor n → u.dev.numVfs = 0 ∧ u.dev.log.count ≠ s.dev.log.count ∧ SameRegsBut s u catchRegs)) ∧
  (∀ (s : State) (f : Nat) (d3 : Bool), s.ready = true → s.linkUp = true → f < 64 → s.unitState (44 + f) = (if d3 then 1 else 2) →
    Completes (.dStateChange f d3) s fun u => u.unitState (44 + f) = (if d3 then 2 else 1) ∧ u.dev = s.dev ∧ SameBytes s u ∧
      SameHost s u ∧ SameRegsBut s u [(F.LEDG_UNIT_STATE (44 + f)).off]) ∧
  (∀ (s : State) (q : Nat) (e : Ingest), s.ready = true → s.linkUp = true → q < 256 → (s.pair q).flight = [some e] →
    s.inSize q ≤ 2 ^ 16 →
    Completes (.cplTimeout (.payload q)) s fun u => (u.pair q).flight = [] ∧ (u.slot e.stream).gap = true ∧
      u.fld (F.QP_INDEX_IN_HEAD q) = (s.fld (F.QP_INDEX_IN_HEAD q) + 1) % s.inSize q ∧
      u.fld (F.QP_IN_DROPS q) = min (s.fld (F.QP_IN_DROPS q) + 1) (2 ^ 32 - 1) ∧ u.dev.log.count ≠ s.dev.log.count ∧
      (∀ n, (u.slot n).chunks = (s.slot n).chunks) ∧ SameBytes s u) ∧
  (∀ (s : State) (l : Load), s.ready = true → s.linkUp = true → s.dev.chuck.load = some l → l.src = 2 → l.boot = false →
    s.fld F.IMG_STATUS_CHUCK = 1 →
    Completes (.cplTimeout .image) s fun u => u.dev.chuck.load = none ∧ u.fld F.IMG_STATUS_CHUCK = 0 ∧ u.fld F.IMG_RESULT_CODE = 9 ∧
      u.dev.log.count ≠ s.dev.log.count ∧ SameHost s u) ∧
  (∀ (s : State) (p : Path) (q : Nat) (v : Word), q < 256 → s.mayPair p q = true → s.bit (F.QP_CTL_EN q) = false →
    Completes (.qpEnable p q v) s fun u => SameBytes s u ∧ SameHost s u ∧ (∀ k, k ≠ q → u.pair k = s.pair k) ∧
      (∀ n, p = .vf n → u.owner q = s.owner q) ∧ ((∀ n, p ≠ .vf n) → u.owner q = bitsOf v.toNat 2 6) ∧
      SameRegsBut s u [(F.QP_CTL_EN q).off, (F.QP_INDEX_IN_HEAD q).off] ∧
      (s.rangeBad q = false → u.bit (F.QP_CTL_EN q) = true ∧ u.pair q = {} ∧ u.fld (F.QP_INDEX_IN_HEAD q) = 0 ∧
        u.fld (F.QP_INDEX_RES_TAIL q) = 0) ∧
      (s.rangeBad q = true → u.bit (F.QP_CTL_EN q) = false ∧ u.bit (F.QP_CTL_ERR q) = true ∧ u.pair q = s.pair q)) ∧
  (∀ (s : State) (p : Path) (q : Nat) (v : Word), q < 256 → s.mayPair p q = true → s.bit (F.QP_CTL_EN q) = true →
    Completes (.qpDisable p q v) s fun u => u.bit (F.QP_CTL_EN q) = false ∧ (u.pair q).flight = [] ∧ (u.pair q).bells = [] ∧
      (∀ k, k ≠ q → u.pair k = s.pair k) ∧ (∀ n, (u.slot n).chunks = (s.slot n).chunks ∧ (u.slot n).results = (s.slot n).results) ∧
      SameBytes s u ∧ SameHost s u ∧ SameRegsBut s u [(F.QP_CTL_EN q).off]) ∧
  (∀ (s : State) (f q : Nat) (v : Word), q < 256 → s.fnOpen f = true → s.bit (F.QP_CTL_EN q) = true → s.owner q = f →
    let i := bitsOf v.toNat 0 16
    i < s.inSize q →
    Completes (.inTailDoorbell f q v) s fun u => (u.pair q).tail = i ∧ (u.pair q).flight = (s.pair q).flight ∧
      (s.fld (F.QP_INDEX_IN_HEAD q) ≠ i → i ∈ (u.pair q).bells) ∧ (∀ k, k ≠ q → u.pair k = s.pair k) ∧ u.regs = s.regs ∧
      SameBytes s u ∧ SameHost s u) ∧
  (∀ (s : State) (f q : Nat) (v : Word), q < 256 → s.fnOpen f = true → s.bit (F.QP_CTL_EN q) = true → s.owner q = f →
    let i := bitsOf v.toNat 0 16
    i < s.resSize q →
    Completes (.resHeadDoorbell f q v) s fun u => u.pair q = { s.pair q with head := i } ∧ (∀ k, k ≠ q → u.pair k = s.pair k) ∧
      u.regs = s.regs ∧ SameBytes s u ∧ SameHost s u) ∧
  (∀ (s : State) (f q : Nat) (v : Word), q < 256 → f < 64 → s.fnOpen f = true →
    s.bit (F.QP_CTL_EN q) = false ∨ s.owner q ≠ f ∨ s.inSize q ≤ bitsOf v.toNat 0 16 →
    Completes (.inTailDoorbell f q v) s fun u => u.pair q = s.pair q ∧ SameBytes s u ∧ SameHost s u ∧
      u.fld (badAccessOf (fnPath f)) = min (s.fld (badAccessOf (fnPath f)) + 1) 65535)

/-! ## The array, the fabric and the serial ports -/

/-- Input paths (R403, R405, R408, R409): a sample of a framed path extends its chunk, the N-th completes it; a GAIN write is held until
it is applied; an enable leaves the path unframed, a disable too.
Clocking, calibration, comparators and detectors of the array (R411, R412, R419 to R423).
The choices of the model that it rests on: log entries 88, 89, 90. -/
def Obligations.ArrayDie : Prop :=
  (∀ (s : State) (i : Nat) (x : SampleIn), i < 16 → s.arrOn = true → s.bit (F.ARR_IN_CTL_EN i) = true →
    s.bit (F.ARR_IN_BIND_VALID i) = true → inMask s.dev.arr.calIn i = false → x.slip = 0 →
    let v := x.value % 2 ^ 24
    let y := s.inp (128 + i)
    let n := if s.slotDeclared (s.bindSlot i) then s.nominal (s.bindSlot i) else y.size
    let bs := if s.fld (F.ARR_IN_CTL_FMT i) = 0 then toBytes 2 (v / 256) else s.sampleBytes i v
    v ≠ 0x7FFFFF → v ≠ 0x800000 → y.framed = true → y.from_ = none → y.gain = none → y.fill < n →
    Completes (.samplingInstant i x) s fun u =>
      (y.fill + 1 < n → (u.inp (128 + i)).fill = y.fill + 1 ∧ (u.inp (128 + i)).cur.bytes = y.cur.bytes ++ bs ∧
        (u.inp (128 + i)).ready = y.ready) ∧
      (y.fill + 1 = n → y.bad = false → (u.inp (128 + i)).fill = 0 ∧ (u.inp (128 + i)).cur = {} ∧
        ∃ g, (u.inp (128 + i)).ready = y.ready ++ [g] ∧ g.bytes = y.cur.bytes ++ bs ∧ g.newUtt = y.newUtt ∧ g.gap = y.gap) ∧
      (∀ j, j ≠ 128 + i → u.inp j = s.inp j) ∧ u.regs = s.regs ∧ u.free = s.free + 1 ∧ SameBytes s u ∧ SameHost s u) ∧
  (∀ (s : State) (p : Path) (i : Nat) (v : Word), i < 16 → s.reach p (F.ARR_IN_CTL_EN i).off = true →
    (v.getLsbD 0 = true ↔ s.bit (F.ARR_IN_CTL_EN i) = true) →
    let g := bitsOf v.toNat 3 7
    Completes (.gainWrite p i v) s fun u => u.fld (F.ARR_IN_CTL_GAIN i) = s.fld (F.ARR_IN_CTL_GAIN i) ∧
      (u.inp (128 + i)).gain = (if 120 < g then (s.inp (128 + i)).gain else if g = s.fld (F.ARR_IN_CTL_GAIN i) then none else some g) ∧
      (u.inp (128 + i)).framed = (s.inp (128 + i)).framed ∧ (u.inp (128 + i)).cur = (s.inp (128 + i)).cur ∧
      SameRegsBut s u [(F.ARR_IN_CTL_EN i).off] ∧ SameBytes s u ∧ SameHost s u) ∧
  (∀ (s : State) (i g : Nat), i < 16 → s.arrOn = true → inMask s.dev.arr.calIn i = false → (s.inp (128 + i)).gain = some g →
    Completes (.gainApply i) s fun u => u.fld (F.ARR_IN_CTL_GAIN i) = g % 128 ∧ (u.inp (128 + i)).gain = none ∧
      (u.inp (128 + i)).cur = (s.inp (128 + i)).cur ∧ SameRegsBut s u [(F.ARR_IN_CTL_GAIN i).off] ∧ SameBytes s u ∧ SameHost s u) ∧
  (∀ (s : State) (p : Path) (i : Nat) (v : Word), i < 16 → s.reach p (F.ARR_IN_CTL_EN i).off = true →
    (v.getLsbD 0 = true ↔ s.bit (F.ARR_IN_CTL_EN i) = false) →
    Completes (.arrPathEnable p i v) s fun u => u.bit (F.ARR_IN_CTL_EN i) = v.getLsbD 0 ∧ (u.inp (128 + i)).framed = false ∧
      (u.inp (128 + i)).fill = 0 ∧ (u.inp (128 + i)).ready = (s.inp (128 + i)).ready ∧
      (v.getLsbD 0 = true → (u.inp (128 + i)).enabledAt = s.now) ∧ (∀ j, j ≠ 128 + i → u.inp j = s.inp j) ∧
      SameBytes s u ∧ SameHost s u) ∧
  (∀ (s : State) (p : Path) (v : Word), s.reach p F.ARR_CLK_CTL_SRC.off = true →
    Completes (.arrClkCtlWrite p v) s fun u => u.bit F.ARR_CLK_CTL_SRC = v.getLsbD 0 ∧ u.bit F.ARR_STATUS_SYNTHFB = false ∧
      u.bit F.ARR_STATUS_FOLLOW = v.getLsbD 0 ∧ (∀ i, i < 16 → (u.inp (128 + i)).framed = false) ∧ SameBytes s u ∧ SameHost s u) ∧
  (∀ s : State, s.arrOn = true → s.following = true →
    Completes .amclkLost s fun u => u.bit F.ARR_STATUS_SYNTHFB = true ∧ u.bit F.ARR_STATUS_FOLLOW = false ∧
      (∀ i, i < 16 → (u.inp (128 + i)).framed = false) ∧ u.dev.log.count ≠ s.dev.log.count ∧ SameBytes s u ∧ SameHost s u) ∧
  (∀ (s : State) (n : Nat), s.arrOn = true → s.following = true →
    Completes (.followRatioMeasure n) s fun u => u.fld F.ARR_FOLLOW_RATIO_RATIO = n % 2 ^ 32 ∧ u.dev = s.dev ∧ SameBytes s u ∧
      SameHost s u ∧ SameRegsBut s u [F.ARR_FOLLOW_RATIO_RATIO.off]) ∧
  (∀ (s : State) (p : Path) (v : Word), s.reach p F.ARR_CAL_CTL_RUN.off = true → v.getLsbD 24 = true → s.arrOn = true →
    s.bit F.ARR_CAL_CTL_BUSY = false →
    let held := ∃ i, i < 16 ∧ v.getLsbD i = true ∧ (s.inp (128 + i)).framed = true ∧ s.partOn (s.slotPart (s.bindSlot i)) = true
    Completes (.arrCalRun p v) s fun u => SameBytes s u ∧ SameHost s u ∧
      (held → v.getLsbD 25 = false → u.bit F.ARR_CAL_CTL_ERR = true ∧ u.bit F.ARR_CAL_CTL_BUSY = false ∧ u.dev.arr = s.dev.arr ∧
        u.unitState 112 = s.unitState 112) ∧
      (¬held ∨ v.getLsbD 25 = true → u.bit F.ARR_CAL_CTL_BUSY = true ∧ u.dev.arr.calIn = bitsOf v.toNat 0 16 ∧
        u.dev.arr.calOut = bitsOf v.toNat 16 8 ∧ u.unitState 112 = 1)) ∧
  (∀ (s : State) (i : Nat) (t : Trim), s.arrOn = true → s.bit F.ARR_CAL_CTL_BUSY = true → s.dev.chuck.load = none → i < 16 →
    t.out = false → t.index = i → inMask s.dev.arr.calIn i = true →
    Completes (.arrCalDone [t]) s fun u => u.bit F.ARR_CAL_CTL_BUSY = false ∧ u.unitState 112 = 2 ∧ u.dev.arr.calIn = 0 ∧
      u.dev.arr.calOut = 0 ∧ u.fld (F.ARR_IN_CAL_OFS i) = t.ofs % 2 ^ 16 ∧ u.fld (F.ARR_IN_CAL_GTRIM i) = t.gtrim % 2 ^ 16 ∧
      (t.inRange = false → u.bit (F.ARR_IN_CTL_EN i) = false) ∧
      (t.inRange = true → u.fld (F.ARR_IN_CTL_EN i) = s.fld (F.ARR_IN_CTL_EN i)) ∧ (u.inp (128 + i)).framed = false ∧
      u.dev.log.count ≠ s.dev.log.count ∧ SameBytes s u ∧ SameHost s u) ∧
  (∀ (s : State) (j : Nat) (r : Bool), j < 8 → s.arrOn = true → s.bit (F.ARR_CMP_CTL_EN j) = true →
    let e := s.fld (F.ARR_CMP_CTL_EDGE j)
    Completes (.cmpEdge j r) s fun u => inMask u.dev.arr.cmp j = r ∧ SameBytes s u ∧ SameHost s u ∧ u.dev.log = s.dev.log ∧
      (e = 3 ∨ e = (if r then 1 else 2) → u.fld (F.ARR_CMP_STAMP_LO j) = s.now % 2 ^ 32 ∧
        u.fld (F.ARR_CMP_STAMP_HI j) = s.now / 2 ^ 32 ∧
        u.fld (F.ARR_CMP_EDGES j) = min (s.fld (F.ARR_CMP_EDGES j) + 1) (2 ^ 32 - 1)) ∧
      (e ≠ 3 → e ≠ (if r then 1 else 2) → SameRegsBut s u [F.ARR_FAB_SWOUT.off])) ∧
  (∀ (s : State) (m : Nat), s.envOn m = true → s.ready = true →
    Completes (.envAbove m) s fun u => u.bit (F.ARR_ENV_STAT_ABOVE m) = true ∧ u.dev.log = s.dev.log ∧ SameBytes s u ∧ SameHost s u ∧
      SameRegsBut s u [(F.ARR_ENV_STAT_ABOVE m).off, F.ARR_FAB_SWOUT.off]) ∧
  (∀ (s : State) (m : Nat), s.envOn m = true → s.inRest = true → s.bit (F.ARR_ENV_CTL_WAKE m) = true →
    Completes (.envAbove m) s fun u => u.bit (F.ARR_ENV_STAT_ABOVE m) = true ∧ u.bit (F.ARR_ENV_STAT_WOKE m) = true ∧ u.devState = 4 ∧
      u.fld F.PCK_STATUS_WAKESRC = 3 ∧ u.dev.log.count ≠ s.dev.log.count ∧ SameBytes s u ∧ SameHost s u) ∧
  (∀ (s : State) (m : Nat), s.envOn m = true →
    Completes (.envBelow m) s fun u => u.bit (F.ARR_ENV_STAT_ABOVE m) = false ∧
      u.fld (F.ARR_ENV_STAT_WOKE m) = s.fld (F.ARR_ENV_STAT_WOKE m) ∧ u.dev.log = s.dev.log ∧ SameBytes s u ∧ SameHost s u ∧
      SameRegsBut s u [(F.ARR_ENV_STAT_ABOVE m).off, F.ARR_FAB_SWOUT.off])

/-- The fabric (R432, R442, R445, R446, R450, R453): HOLD and its end, RESET, RELEASE, the memory window, the loss of its clock, and an
edge of FABCLK, by which a flip-flop captures its data as the nets stood before the edge; under HOLD no register moves.
Serial ports (R460, R462, R464, R469, R475): a frame is stamped, its samples extend the chunks of the framed entries and each output
slot sends the next sample of what it plays; a lost frame or clock unframes the port and its entries.
The choices of the model that it rests on: log entries 91, 93, 142. -/
def Obligations.FabricAndPorts : Prop :=
  (∀ (s : State) (p : Path) (v : Word), s.reach p F.ARR_FAB_CTL_HOLD.off = true → s.fabOn = true → v.getLsbD 0 = true →
    v.getLsbD 1 = false → v.getLsbD 2 = false →
    Completes (.fabHold p v) s fun u => u.bit F.ARR_FAB_CTL_HOLD = true ∧ u.unitState 113 = 1 ∧ u.dev.fab.mem = s.dev.fab.mem ∧
      u.dev.fab.released = s.dev.fab.released ∧ SameBytes s u ∧ SameHost s u) ∧
  (∀ (s : State) (p : Path) (v : Word), s.reach p F.ARR_FAB_CTL_HOLD.off = true → s.unitState 113 = 1 → v.getLsbD 0 = false →
    Completes (.fabHold p v) s fun u => u.bit F.ARR_FAB_CTL_HOLD = false ∧ u.unitState 113 = 2 ∧
      (s.dev.fab.autoRel = true → u.dev.fab.released = true) ∧ u.dev.fab.mem = s.dev.fab.mem ∧ SameBytes s u ∧ SameHost s u) ∧
  (∀ (s : State) (p : Path) (v : Word) (m : Nat), s.reach p F.ARR_FAB_CTL_HOLD.off = true → s.fabOn = true →
    v.getLsbD 0 = true → v.getLsbD 1 = true → m < 512 → cellType s.dev.fab.cfg m = 1 ∨ cellType s.dev.fab.cfg m = 2 →
    Completes (.fabReset p v) s fun u => u.dev.fab.reg m = false ∧ (∀ k, k < 1152 → u.dev.fab.reg (memOutKey k) = s.dev.fab.reg (memOutKey k)) ∧
      u.dev.fab.mem = s.dev.fab.mem ∧ u.bit F.ARR_FAB_CTL_HOLD = true ∧ SameBytes s u ∧ SameHost s u) ∧
  (∀ (s : State) (p : Path) (v : Word), s.reach p F.ARR_FAB_CTL_HOLD.off = true → s.fabOn = true → s.dev.fab.released = false →
    v.getLsbD 0 = true → v.getLsbD 2 = true →
    Completes (.fabRelease p v) s fun u => u.dev.fab.releaseDue = true ∧ u.dev.fab.released = false ∧ u.dev.fab.mem = s.dev.fab.mem ∧
      SameBytes s u ∧ SameHost s u) ∧
  (∀ (s : State) (p : Path), (∀ n, p ≠ .vf n) → s.reach p F.ARR_FAB_MDATA_LO.off = true → s.windowOn = true →
    let w := natOfBits ((windowBits s).map s.dev.fab.memBit)
    Completes (.fabMdataRead p) s fun u => u.dev.out = s.dev.out ++ [.reply p (toBytes 4 (w % 2 ^ 32))] ∧
      u.fld F.ARR_FAB_MDATA_HI = w / 2 ^ 32 ∧ u.dev.fab = s.dev.fab ∧ SameBytes s u ∧ SameHost s u) ∧
  (∀ (s : State) (p : Path) (v : Word) (j : Nat), s.reach p F.ARR_FAB_MDATA_HI.off = true → s.windowOn = true → j < 36 →
    let w := s.fld F.ARR_FAB_MDATA_LO + 2 ^ 32 * (v.toNat % 16)
    Completes (.fabMdataWrite p v) s fun u =>
      (∀ k, (windowBits s)[j]? = some k → u.dev.fab.memBit k = inMask w j) ∧
      (∀ k, k ∉ windowBits s → u.dev.fab.memBit k = s.dev.fab.memBit k) ∧ SameBytes s u ∧ SameHost s u) ∧
  (∀ s : State, s.fabOn = true → s.ready = true → s.dev.fab.clkLost = false → s.reached (s.dev.fab.edgeAt + 250) = true →
    Completes .fabClkLost s fun u => u.dev.fab = { s.dev.fab with clkLost := true } ∧ u.dev.log.count ≠ s.dev.log.count ∧
      SameRegsBut s u catchRegs ∧ SameBytes s u ∧ SameHost s u) ∧
  (∀ s : State, s.fabOn = true → s.ready = true → s.dev.fab.ucRises ≠ 0 →
    Completes .ucatchEdge s fun u =>
      u.fld F.ARR_FAB_UCATCHES = min (s.fld F.ARR_FAB_UCATCHES + 1) (2 ^ 32 - 1) ∧
      u.dev.fab = { s.dev.fab with ucRises := s.dev.fab.ucRises - 1 } ∧ SameBytes s u ∧
      SameHost s u ∧ SameRegsBut s u (F.ARR_FAB_UCATCHES.off :: catchRegs)) ∧
  (∀ (s : State) (e : FabEdge) (m : Nat), s.fabOn = true → s.ready = true → e.clk = .fabclk → e.rising = true →
    e.near = false → m < 512 → cellType s.dev.fab.cfg m = 1 → cellCk s.dev.fab.cfg m = 0 → cellInv s.dev.fab.cfg m = false →
    cellArsel s.dev.fab.cfg m = 0 → cellCept s.dev.fab.cfg m = false →
    let f := Fabric.keepLatches { s.dev.fab with pins := e.pins % 2 ^ 48 } s.fabIn
    Completes (.fabclkEdge e) s fun u => u.dev.fab.pins = e.pins % 2 ^ 48 ∧ u.dev.fab.edgeAt = s.now ∧ u.dev.fab.clkLost = false ∧
      u.dev.fab.clkHigh = true ∧ (s.bit F.ARR_FAB_CTL_HOLD = false →
        ∀ x, (f.allCells s.fabIn (f.settled s.fabIn))[m]? = some x → u.dev.fab.reg m = x.d) ∧
      (s.bit F.ARR_FAB_CTL_HOLD = true → u.dev.fab.reg m = s.dev.fab.reg m ∧ u.dev.fab.mem = s.dev.fab.mem) ∧
      (s.dev.fab.releaseDue = true → u.dev.fab.released = true) ∧ u.free = s.free + 1 ∧ SameBytes s u ∧ SameHost s u) ∧
  (∀ (s : State) (k : Nat) (f : FrameIn), s.portOn k = true → s.selfFramed k = false → (s.port k).yieldNext = false → f.chatter = [] →
    s.fld (F.AUD_CFG_ROLE k) ≠ 1 ∨ (s.port k).seen = false ∨ f.bclks = s.frameLen k →
    Completes (.portFrame k f) s fun u => u.fld (F.AUD_FS_STAMP_LO k) = s.now % 2 ^ 32 ∧ u.fld (F.AUD_FS_STAMP_HI k) = s.now / 2 ^ 32 ∧
      u.unitState (108 + k) = 3 ∧ (u.port k).seen = true ∧
      (u.port k).driven = (s.owned k).map (fun i => (i, s.slotOut k i)) ∧
      (∀ i, i < 32 → (u.out (32 * k + i)).playing =
        (if s.reached (s.out (32 * k + i)).start then (s.out (32 * k + i)).playing.drop 1 else (s.out (32 * k + i)).playing)) ∧
      (∀ i, i < 32 → i ∉ s.portEntries k → u.inp (32 * k + i) = s.inp (32 * k + i)) ∧
      (∀ i, i ∈ s.portEntries k → s.fld (F.AUD_IN_MAP_FMT k i) = 0 →
        let y := s.inp (32 * k + i)
        let slot := s.fld (F.AUD_IN_MAP_STREAM k i)
        let n := if s.slotDeclared slot then s.nominal slot else y.size
        y.framed = true → y.from_ = none → y.fill + 1 < n →
        (u.inp (32 * k + i)).fill = y.fill + 1 ∧
        (u.inp (32 * k + i)).cur.bytes = y.cur.bytes ++ s.portBytes k 0 (f.data.getD i 0)) ∧
      u.dev.log = s.dev.log ∧ SameBytes s u ∧ SameHost s u) ∧
  (∀ (s : State) (k st : Nat) (c : Instr), s.portFollows k = true →
    (c = .fsyncLost k ∧ st = 2 ∧ s.selfFramed k = false ∧ s.unitState (108 + k) = 3) ∨ (c = .bclkLost k ∧ st = 1) →
    Completes c s fun u => u.unitState (108 + k) = st ∧ u.epoch (108 + k) = (if s.unitState (108 + k) = st then s.epoch (108 + k)
        else (s.epoch (108 + k) + 1) % 65536) ∧
      (u.port k).seen = false ∧ (u.port k).lock = none ∧ (∀ i, i ∈ s.portEntries k → (u.inp (32 * k + i)).framed = false) ∧
      u.bit (F.AUD_STATUS_LOCKED k) = false ∧ u.dev.log.count ≠ s.dev.log.count ∧ SameBytes s u ∧ SameHost s u)

/-! ## The management bus -/

/-- Selol reads (R489, R490, R493, R497 to R499, R501 to R503, R566): each is answered with its bytes and, where P asks for it, the check
byte over the whole transaction; beyond counting it changes nothing.
The bus beside the commands (R489, R491, R495, R496, R498, R505): receive byte, alert response and quick command; an unknown code
is counted; a matched address wakes the device from REST; a line held low too long is counted.
The choices of the model that it rests on: log entries 94, 95, 96, 97. -/
def Obligations.SelolReadsAndBus : Prop :=
  (∀ (s : State) (p : Bool), s.ready = true → s.dev.svc.holding = false →
    Completes (.getId ⟨p, [], none, true, []⟩) s (MbAnswered s · p 0x01 []
      (toByte 12 :: toBytes 4 (s.regValue 0) ++ toBytes 4 (s.regValue 4) ++ toBytes 4 (s.regValue 8))) ∧
    Completes (.getStatus ⟨p, [], none, true, []⟩) s (MbAnswered s · p 0x02 [] (toBytes 2 s.mbStatus)) ∧
    Completes (.lastResult ⟨p, [], none, true, []⟩) s (MbAnswered s · p 0x03 []
      (toByte 4 :: toBytes 4 (s.word F.MB_LAST_RESULT_CMD.off).toNat)) ∧
    Completes (.filterRead ⟨p, [], none, true, []⟩) s (MbAnswered s · p 0x06 [] (toBytes 1 (s.fld F.MB_FILT_LEN))) ∧
    Completes (.timeoutRead ⟨p, [], none, true, []⟩) s (MbAnswered s · p 0x07 [] (toBytes 1 (s.fld F.MB_TIMEOUT_MS))) ∧
    Completes (.catchRead ⟨p, [], none, true, []⟩) s (MbAnswered s · p 0x30 [] (match (s.unreadRecs 1).head? with
      | some r => toByte 32 :: r.bytes
      | none => [0])) ∧
    Completes (.catchInfo ⟨p, [], none, true, []⟩) s (MbAnswered s · p 0x32 [] (toBytes 2 (min 1024 (s.unread 1)))) ∧
    Completes (.getTemp ⟨p, [], none, true, []⟩) s (MbAnswered s · p 0x40 [] (toBytes 2 (s.fld F.PCK_TEMP_TEMP))) ∧
    (∀ n, n < 117 → Completes (.getUnit ⟨p, [1, toByte n], none, true, []⟩) s (MbAnswered s · p 0x22 [1, toByte n]
      ([toByte 4, toByte n, toByte (s.inService.lineWord n % 16)] ++ toBytes 2 (s.inService.lineWord n / 65536)))) ∧
    (∀ a, a % 4 = 0 → a < 0x4000000 → s.pairHigh a = none → (∀ f ∈ RegMap.fields a, f.acc ≠ .rc) → a ≠ F.ARR_FAB_MDATA_LO.off →
      Completes (.regRead ⟨p, 4 :: toBytes 4 a, none, true, []⟩) s (MbAnswered s · p 0x10 (4 :: toBytes 4 a)
        (toByte 5 :: 0 :: toBytes 4 (s.inService.readWord .mb a)))) ∧
    (∀ a n, a % 4 = 0 → 1 ≤ n → n ≤ 7 → a + 4 * n ≤ 0x4000000 →
      (∀ i, i < n → s.pairHigh (a + 4 * i) = none ∧ (∀ f ∈ RegMap.fields (a + 4 * i), f.acc ≠ .rc) ∧
        a + 4 * i ≠ F.ARR_FAB_MDATA_LO.off) →
      Completes (.regReadN ⟨p, 5 :: toBytes 4 a ++ [toByte n], none, true, []⟩) s (MbAnswered s · p 0x12 (5 :: toBytes 4 a ++ [toByte n])
        (toByte (1 + 4 * n) :: 0 :: (List.range n).flatMap fun i => toBytes 4 (s.inService.readWord .mb (a + 4 * i)))))) ∧
  (∀ s : State, s.ready = true → s.dev.svc.holding = false →
    Completes .receiveByte s fun u => u = { s with dev := { s.dev with out := s.dev.out ++ [.reply .mb (toBytes 1 s.mbStatus)] } }) ∧
  (∀ s : State, s.ready = true → s.dev.svc.holding = false → Completes .quickCommand s fun u => u = s) ∧
  (∀ s : State, s.ready = true → s.bit F.MB_CFG_ARA_EN = true → 0 < s.unread 1 →
    Completes .alertResponse s fun u => u = { s with dev := { s.dev with out := s.dev.out ++ [.reply .mb (toBytes 1 s.mbAddr)] } }) ∧
  (∀ s : State, s.inRest = true ∨ s.bit F.MB_CFG_ARA_EN = false ∨ s.unread 1 = 0 → Completes .alertResponse s fun u => u = s) ∧
  (∀ s : State, s.ready = true → s.dev.svc.holding = false →
    Completes .mbBadCommand s fun u => Counted s u F.MB_BAD_CMDS ∧ OnlyRegs s u (F.MB_BAD_CMDS.off :: catchRegs)) ∧
  (∀ s : State, s.dev.pwr.por = false → s.heldReset = false → s.inRest = true →
    Completes .mbAddressMatch s fun u => u.devState = 4 ∧ u.fld F.PCK_STATUS_WAKESRC = 1 ∧ u.dev.svc.holding = true ∧
      u.dev.pwr.pins.coreEn = true ∧ OnlyRegs s u [F.PCK_STATUS_DEV.off]) ∧
  (∀ s : State, s.dev.pwr.por = false → s.bit F.MB_MST_STATUS_BUSY = true →
    Completes .mbTimeout s fun u => Counted s u F.MB_TIMEOUTS ∧ u.dev.svc.toSeen = true ∧ s.dev.log.count < u.dev.log.count ∧
      SameBytes s u ∧ SameHost s u) ∧
  (∀ s : State, s.dev.pwr.por = false → s.bit F.MB_MST_STATUS_BUSY = false →
    Completes .mbTimeout s fun u => Counted s u F.MB_TIMEOUTS ∧ u.dev.svc.toSeen = true ∧ u.dev.svc.holding = false ∧
      u.dev.log.count ≠ s.dev.log.count ∧ OnlyRegs s u (F.MB_TIMEOUTS.off :: catchRegs))

/-- Selol writes (R490, R496, R498 to R502): one that comes whole, with a good check byte or none where none is asked for, takes effect
and LAST_RESULT holds its outcome; a wrong or a missing check byte leaves it without effect.
The choices of the model that it rests on: log entry 95. -/
def Obligations.SelolWrites : Prop :=
  ∀ (s : State) (p : Bool), s.ready = true → s.dev.svc.holding = false →
    ((p = true ∨ s.bit F.MB_CFG_REQ_PEC = false) →
      Completes (.clearFlags (s.mbGood p 0x04 [])) s (fun u => MbDone s u p 0x04 0 ∧ u.dev.svc.pecSeen = false ∧ u.dev.svc.woke = false ∧
        u.dev.svc.toSeen = false ∧ OnlyRegs s u [F.MB_CMDS.off, F.MB_LAST_RESULT_CMD.off]) ∧
      (∀ b : Byte, Completes (.filterWrite (s.mbGood p 0x06 [b])) s fun u => MbDone s u p 0x06 0 ∧ u.fld F.MB_FILT_LEN = b.toNat % 32 ∧
        OnlyRegs s u [F.MB_FILT_LEN.off, F.MB_CMDS.off, F.MB_LAST_RESULT_CMD.off]) ∧
      (∀ b : Byte, 5 ≤ b.toNat → b.toNat ≤ 35 → Completes (.timeoutWrite (s.mbGood p 0x07 [b])) s fun u => MbDone s u p 0x07 0 ∧
        u.fld F.MB_TIMEOUT_MS = b.toNat ∧ OnlyRegs s u [F.MB_TIMEOUT_MS.off, F.MB_CMDS.off, F.MB_LAST_RESULT_CMD.off]) ∧
      (∀ b : Byte, b.toNat < 5 ∨ 35 < b.toNat → Completes (.timeoutWrite (s.mbGood p 0x07 [b])) s fun u => MbDone s u p 0x07 3 ∧
        OnlyRegs s u [F.MB_CMDS.off, F.MB_LAST_RESULT_CMD.off]) ∧
      (∀ (a : Nat) (v : Word), a < 0x10000 → a % 4 = 0 → RegMap.fields a ≠ [] → s.dev.ledg.cycle = [] →
        Completes (.regWrite (s.mbGood p 0x11 (8 :: toBytes 4 a ++ toBytes 4 v.toNat))) s fun u => MbDone s u p 0x11 0 ∧
          (∀ f ∈ RegMap.fields a, bitsOf (u.word a).toNat f.lo f.w =
            if f.acc = .rw then bitsOf v.toNat f.lo f.w else bitsOf (s.word a).toNat f.lo f.w) ∧
          OnlyRegs s u [a, F.MB_CMDS.off, F.MB_LAST_RESULT_CMD.off]) ∧
      (∀ (a : Nat) (v : Word), 0x4000000 ≤ a → a < 2 ^ 32 → s.dev.ledg.cycle = [] →
        Completes (.regWrite (s.mbGood p 0x11 (8 :: toBytes 4 a ++ toBytes 4 v.toNat))) s fun u => MbDone s u p 0x11 3 ∧
          OnlyRegs s u [F.MB_CMDS.off, F.MB_LAST_RESULT_CMD.off]) ∧
      (∀ part g en : Nat, part < 8 → g < 64 → en < 2 →
        Completes (.selolOrder (s.mbGood p 0x20 ([6, toByte (32 + part), 10] ++ toBytes 4 (g + 256 * en))) []) s fun u =>
          MbDone s u p 0x20 0 ∧ (bitsOf ((u.word (F.LEDG_GROUPS_LO part).off).toNat + 2 ^ 32 * (u.word (F.LEDG_GROUPS_HI part).off).toNat) g 1 = en) ∧
          u.epoch (32 + part) = (s.epoch (32 + part) + 1) % 65536 ∧ u.fld F.MB_LAST_RESULT_EPOCH = u.epoch (32 + part) ∧
          OnlyRegs s u [(F.LEDG_GROUPS_LO part).off, (F.LEDG_GROUPS_HI part).off, (F.LEDG_UNIT_EPOCH (32 + part)).off, F.MB_CMDS.off,
            F.MB_LAST_RESULT_CMD.off]) ∧
      (∀ arg : Nat, arg < 2 ^ 16 → s.regripOk (bitsOf arg 0 8) = true →
        Completes (.selolRegrip (s.mbGood p 0x21 (toBytes 2 arg)) []) s fun u => MbDone s u p 0x21 0 ∧
          ∀ q, q < 8 → inMask arg q = true → (u.part q).regrip.map Regrip.pmask = some (bitsOf arg 0 8)) ∧
      (s.unread 1 ≠ 0 → Completes (.catchNext (s.mbGood p 0x31 [])) s fun u => MbDone s u p 0x31 0 ∧
        u.fld (F.CATCH_RPOS 1) = (s.fld (F.CATCH_RPOS 1) + 1) % 2 ^ 32 ∧ u.unread 1 = s.unread 1 - 1 ∧
        OnlyRegs s u [(F.CATCH_RPOS 1).off, F.MB_CMDS.off, F.MB_LAST_RESULT_CMD.off]) ∧
      (s.unread 1 = 0 → Completes (.catchNext (s.mbGood p 0x31 [])) s fun u => MbDone s u p 0x31 3 ∧
        OnlyRegs s u [F.MB_CMDS.off, F.MB_LAST_RESULT_CMD.off])) ∧
    (∀ b c : Byte, c ≠ crc8 [toByte s.mbAddr, toByte 0x86, b] → Completes (.filterWrite ⟨true, [b], some c, true, []⟩) s fun u =>
      Counted s u F.MB_PEC_ERRS ∧ u.dev.svc.pecSeen = true ∧ u.fld F.MB_LAST_RESULT_STATUS = 5 ∧ u.fld F.MB_FILT_LEN = s.fld F.MB_FILT_LEN ∧
      OnlyRegs s u (F.MB_PEC_ERRS.off :: F.MB_LAST_RESULT_CMD.off :: catchRegs)) ∧
    (∀ b : Byte, s.bit F.MB_CFG_REQ_PEC = true → Completes (.filterWrite ⟨false, [b], none, true, []⟩) s fun u =>
      u.fld F.MB_LAST_RESULT_STATUS = 4 ∧ OnlyRegs s u [F.MB_LAST_RESULT_CMD.off] ∧ u.dev = s.dev)

/-! ## Controller mode, flash commands and the SPI target -/

/-- Controller mode (R506 to R510): START puts a transaction on the bus, waits while one runs, or is answered BAD_CFG or SELF; its end
brings RESULT and the data; a period of the poll table brings every enabled entry its result, its data and its age.
Flash commands (R525): GO starts one, or sets ERR while the Chuck fetches from flash; its end brings DONE and what it read, or
ERR.
The choices of the model that it rests on: log entries 98, 99, 143. -/
def Obligations.ControllerAndFlash : Prop :=
  (∀ (s : State) (p : Path) (v : Word), s.reach p F.MB_MST_CTL_START.off = true →
    let bad := bitsOf v.toNat 20 2 = 3 ∨ 6 ≤ bitsOf v.toNat 16 3
    let self := selfAddr (bitsOf v.toNat 0 7)
    Completes (.mstStart p v) s fun u =>
      u.fld F.MB_MST_CTL_TADDR = bitsOf v.toNat 0 7 ∧ u.fld F.MB_MST_CTL_TCMD = bitsOf v.toNat 8 8 ∧
      u.fld F.MB_MST_CTL_SHAPE = bitsOf v.toNat 16 3 ∧ u.fld F.MB_MST_CTL_RATE = bitsOf v.toNat 20 2 ∧ u.fld F.MB_MST_CTL_START = 0 ∧
      OnlyRegs s u [F.MB_MST_CTL_START.off, F.MB_MST_STATUS_BUSY.off, (F.LEDG_UNIT_STATE 114).off] ∧
      (bad → u.fld F.MB_MST_STATUS_RESULT = 8 ∧ u.fld F.MB_MST_STATUS_BUSY = s.fld F.MB_MST_STATUS_BUSY) ∧
      (¬bad → self = true → u.fld F.MB_MST_STATUS_RESULT = 7 ∧ u.fld F.MB_MST_STATUS_BUSY = s.fld F.MB_MST_STATUS_BUSY) ∧
      (¬bad → self = false → s.bit F.MB_MST_STATUS_BUSY = false → u.bit F.MB_MST_STATUS_BUSY = true ∧ u.unitState 114 = 2 ∧
        u.dev = { s.dev with svc := { s.dev.svc with mstShape := bitsOf v.toNat 16 3 } }) ∧
      (¬bad → self = false → s.bit F.MB_MST_STATUS_BUSY = true → u.bit F.MB_MST_STATUS_BUSY = true ∧ u.dev.svc.startWaits = true)) ∧
  (∀ (s : State) (o : MstOutcome), s.ready = true → s.bit F.MB_MST_STATUS_BUSY = true → s.dev.svc.startWaits = false → o.result ≤ 6 →
    Completes (.mstComplete o) s fun u => u.bit F.MB_MST_STATUS_BUSY = false ∧ u.unitState 114 = 0 ∧
      u.fld F.MB_MST_STATUS_RESULT = o.result ∧
      (o.result = 0 → s.dev.svc.mstShape = 5 → u.fld F.MB_MST_DATA_DATA = o.data % 65536) ∧
      (o.result = 0 → s.dev.svc.mstShape = 3 ∨ s.dev.svc.mstShape = 4 → u.fld F.MB_MST_DATA_DATA = o.data % 256) ∧
      (s.dev.svc.mstShape < 3 → u.fld F.MB_MST_DATA_DATA = s.fld F.MB_MST_DATA_DATA) ∧
      (o.result = 5 → Counted s u F.MB_TIMEOUTS ∧ u.dev.svc.toSeen = true) ∧
      OnlyRegs s u ([F.MB_MST_STATUS_BUSY.off, (F.LEDG_UNIT_STATE 114).off, F.MB_MST_DATA_DATA.off, F.MB_TIMEOUTS.off] ++ catchRegs)) ∧
  (∀ (s : State) (o : MstOutcome), s.ready = true → s.bit F.MB_MST_STATUS_BUSY = true → s.dev.svc.startWaits = true → o.result ≤ 6 →
    s.fld F.MB_MST_CTL_RATE ≠ 3 → s.fld F.MB_MST_CTL_SHAPE < 6 → selfAddr (s.fld F.MB_MST_CTL_TADDR) = false →
    Completes (.mstComplete o) s fun u => u.bit F.MB_MST_STATUS_BUSY = true ∧ u.unitState 114 = 2 ∧ u.dev.svc.startWaits = false) ∧
  (∀ (s : State) (res : List MstOutcome), s.ready = true → s.pollDue = true → s.bit F.MB_MST_STATUS_BUSY = false →
    (∀ o ∈ res, o.result ≤ 6) →
    Completes (.pollPeriod res) s fun u => ∀ k, k < 8 →
      let o := res.getD k ⟨1, 0⟩
      let shape := s.fld (F.MB_POLL_CTL_SHAPE k)
      let r := if s.fld F.MB_MST_CTL_RATE = 3 ∨ shape < 3 ∨ 5 < shape then 8
        else if selfAddr (s.fld (F.MB_POLL_CTL_TADDR k)) then 7 else o.result
      (s.bit (F.MB_POLL_CTL_EN k) = false → u.word (F.MB_POLL_DATA_DATA k).off = s.word (F.MB_POLL_DATA_DATA k).off) ∧
      (s.bit (F.MB_POLL_CTL_EN k) = true → u.fld (F.MB_POLL_DATA_RESULT k) = r ∧
        u.fld (F.MB_POLL_DATA_AGE k) = (if r = 0 then 0 else min (s.fld (F.MB_POLL_DATA_AGE k) + 1) 4095) ∧
        (r = 0 → u.fld (F.MB_POLL_DATA_DATA k) = o.data % (if shape = 5 then 65536 else 256))) ∧
      OnlyRegs s u (((List.range 8).map fun j => (F.MB_POLL_DATA_DATA j).off) ++ F.MB_TIMEOUTS.off :: catchRegs)) ∧
  (∀ (s : State) (p : Path) (v : Word), s.reach p F.QSPI_CMD_GO.off = true →
    Completes (.qspiCmd p v) s fun u =>
      (∀ f ∈ [F.QSPI_CMD_OPC, F.QSPI_CMD_ADDRLEN, F.QSPI_CMD_LINES, F.QSPI_CMD_DUMMY, F.QSPI_CMD_WRITE, F.QSPI_CMD_LEN],
        u.fld f = bitsOf v.toNat f.lo f.w) ∧ u.fld F.QSPI_CMD_GO = 0 ∧
      (s.flashBusy = false → u.bit F.QSPI_STATUS_BUSY = true ∧ u.fld F.QSPI_STATUS_ERR = s.fld F.QSPI_STATUS_ERR ∧
        u.dev = if s.bit F.QSPI_STATUS_BUSY then s.dev
          else { s.dev with svc := { s.dev.svc with qspiCmd := (u.word F.QSPI_CMD_GO.off).toNat } }) ∧
      (s.flashBusy = true → u.bit F.QSPI_STATUS_ERR = true ∧ u.fld F.QSPI_STATUS_BUSY = s.fld F.QSPI_STATUS_BUSY) ∧
      OnlyRegs s u (F.QSPI_CMD_GO.off :: F.QSPI_STATUS_BUSY.off :: catchRegs)) ∧
  (∀ (s : State) (ok : Bool) (data : List Byte), s.ready = true → s.bit F.QSPI_STATUS_BUSY = true →
    let n := if ok && bitsOf s.dev.svc.qspiCmd 18 1 == 0 then min data.length (min 256 (bitsOf s.dev.svc.qspiCmd 19 9)) else 0
    Completes (.qspiCmdDone ok data) s fun u => u.bit F.QSPI_STATUS_BUSY = false ∧
      (ok = true → u.bit F.QSPI_STATUS_DONE = true) ∧ (ok = false → u.bit F.QSPI_STATUS_ERR = true) ∧
      (∀ i, i < n → u.fld (qspiByte i) = (data.getD i 0).toNat) ∧ (∀ i, n ≤ i → i < 256 → u.fld (qspiByte i) = s.fld (qspiByte i)) ∧
      u.dev = s.dev ∧ OnlyRegs s u (F.QSPI_STATUS_BUSY.off :: (List.range 64).map fun i => (F.QSPI_BUF i).off))

/-- Frames of the SPI target (R526 to R532): a status frame; a read, of which words that were not ready go out as ones; a write; image
words for an open load; a wake; a frame that is ignored and counted; and opening a load.
The choices of the model that it rests on: log entries 100, 117. -/
def Obligations.SpiFrames : Prop :=
  (∀ s : State, s.dev.pwr.por = false →
    Completes (.readStatus false) s fun u => u.dev.out = s.dev.out ++ [.reply .spi (toBytes 1 s.spiStatus)] ∧
      u.dev.svc = { s.dev.svc with rdMiss := false, partialFrame := false } ∧ OnlyRegs s u []) ∧
  (∀ (s : State) (addr count sent : Nat) (late : List Nat), s.ready = true → 1 ≤ count → count ≤ 64 → addr % 4 = 0 → addr + 4 * count ≤ 0x4000000 →
    (∀ i, i < count → s.pairHigh (addr + 4 * i) = none ∧ (∀ f ∈ RegMap.fields (addr + 4 * i), f.acc ≠ .rc) ∧
      addr + 4 * i ≠ F.ARR_FAB_MDATA_LO.off) →
    Completes (.spiRead addr count sent late false) s fun u =>
      (∃ l, u.dev.out = s.dev.out ++ .reply .spi ((List.range (min count sent)).flatMap fun i =>
        toBytes 4 (if i ∈ late then 0xFFFFFFFF else s.inSpiFrame.readWord .spi (addr + 4 * i))) :: l ∧
        ((∀ i ∈ late, min count sent ≤ i) → l = [])) ∧
      u.dev.svc.rdMiss = (s.dev.svc.rdMiss || late.any fun i => decide (i < min count sent)) ∧ OnlyRegs s u catchRegs) ∧
  (∀ (s : State) (addr count : Nat) (words : List Word), s.ready = true → count ≤ 64 → words ≠ [] → words.length ≤ count → addr % 4 = 0 →
    s.dev.ledg.cycle = [] → (∀ i, i < words.length → addr + 4 * i < 0x10000 ∧ RegMap.fields (addr + 4 * i) ≠ []) →
    Completes (.spiWrite addr count words false) s fun u =>
      (∀ i, i < words.length → ∀ f ∈ RegMap.fields (addr + 4 * i), bitsOf (u.word (addr + 4 * i)).toNat f.lo f.w =
        if f.acc = .rw then bitsOf (words.getD i 0).toNat f.lo f.w else bitsOf (s.word (addr + 4 * i)).toNat f.lo f.w) ∧
      u.fld F.SPIT_LAST_RESULT_CMD = 2 ∧ u.fld F.SPIT_LAST_RESULT_STATUS = 0 ∧ u.dev.svc = s.dev.svc ∧
      OnlyRegs s u (F.SPIT_LAST_RESULT_CMD.off :: (List.range words.length).map fun i => addr + 4 * i)) ∧
  (∀ (s : State) (addr count : Nat) (v : Word), s.ready = true → 1 ≤ count → count ≤ 64 → 0x4000000 ≤ addr →
    s.dev.ledg.cycle = [] →
    Completes (.spiWrite addr count [v] false) s fun u => u.fld F.SPIT_LAST_RESULT_STATUS = 3 ∧
      OnlyRegs s u (F.SPIT_LAST_RESULT_CMD.off :: catchRegs)) ∧
  (∀ (s : State) (addr count : Nat) (words : List Word), s.ready = true → 2 ≤ count → count ≤ 64 → words = [] →
    Completes (.spiWrite addr count words true) s fun u => Counted s u F.SPIT_PARTIALS ∧ u.dev.svc.partialFrame = true ∧
      OnlyRegs s u (F.SPIT_PARTIALS.off :: catchRegs)) ∧
  (∀ (s : State) (addr count sent : Nat) (late : List Nat) (words : List Word) (cut : Bool), s.ready = true → count = 0 ∨ 64 < count →
    ∀ c ∈ [Instr.spiRead addr count sent late cut, .spiWrite addr count words cut, .spitBadFrame],
    Completes c s fun u => Counted s u F.SPIT_BAD_FRAMES ∧
      OnlyRegs s u (F.SPIT_BAD_FRAMES.off :: catchRegs)) ∧
  (∀ (s : State) (words : List Word) (l : Load), s.ready = true → words ≠ [] → s.dev.chuck.load = some l → l.src = 4 →
    s.fld F.IMG_STATUS_CHUCK = 1 → l.complete = false →
    let got := l.bytes ++ words.flatMap fun w => toBytes 4 w.toNat
    let got := if 256 ≤ got.length then got.take (max 256 (hdrOf got).length) else got
    Completes (.imgStream words false) s fun u => u.dev.chuck = { s.dev.chuck with load := some { l with bytes := got, lastData := s.now } } ∧
      u.fld F.IMG_DONE = got.length % 2 ^ F.IMG_DONE.w ∧ OnlyRegs s u [F.IMG_DONE.off]) ∧
  (∀ (s : State) (words : List Word), s.spiOpen = false → Completes (.imgStream words false) s fun u => u = s) ∧
  (∀ s : State, s.dev.pwr.por = false → s.heldReset = false → s.inRest = true →
    Completes .spiWake s fun u => u.devState = 4 ∧ u.fld F.PCK_STATUS_WAKESRC = 2 ∧ u.dev.pwr.pins.coreEn = true ∧
      OnlyRegs s u [F.PCK_STATUS_DEV.off]) ∧
  (∀ s : State, s.ready = true → Completes .spiWake s fun u => u.regs = s.regs ∧ u.dev.pwr = s.dev.pwr ∧ OnlyRegs s u []) ∧
  (∀ (s : State) (p : Path) (v : Word), s.reach p F.SPIT_IMG_CTL_OPEN.off = true →
    let kind := bitsOf v.toNat 2 2
    let part := bitsOf v.toNat 4 3
    s.mayLoad kind part 4 = true →
    Completes (.spitImgOpen p v) s fun u => u.fld F.IMG_STATUS_CHUCK = 1 ∧ u.fld F.IMG_STATUS_SRC = 4 ∧ u.fld F.SPIT_IMG_CTL_OPEN = 0 ∧
      u.dev.chuck.load = some { kind := kind, part := part, src := 4, boot := s.dev.chuck.booting, lastData := s.now } ∧
      SameBytes s u ∧ SameHost s u) ∧
  (∀ (s : State) (p : Path) (v : Word), s.reach p F.SPIT_IMG_CTL_OPEN.off = true →
    s.mayLoad (bitsOf v.toNat 2 2) (bitsOf v.toNat 4 3) 4 = false →
    Completes (.spitImgOpen p v) s fun u => u.fld F.IMG_RESULT_CODE = 8 ∧ u.dev.chuck = s.dev.chuck ∧
      u.dev.log.count ≠ s.dev.log.count ∧ SameBytes s u ∧ SameHost s u)

/-! ## The USB port and test access -/

/-- Vendor requests (R325, R346, R534, R535): registers read and written, a request that the table does not give stalled, an image load
opened and ended, and the last outcome.
The port's states and standard requests (R533, R536): a descriptor that the device has is sent; an address and the configuration move
the port on; what the table does not know stalls; VBUS, bus reset, suspend and resume move it as they come.
The choices of the model that it rests on: log entries 101, 102. -/
def Obligations.UsbRequestsAndStates : Prop :=
  (∀ s : State, s.ready = true → s.ep0 = true →
    (∀ (addr n : Nat) (acked : Bool), 1 ≤ n → n ≤ 1024 → addr % 4 = 0 → addr + 4 * n ≤ 0x4000000 →
      (∀ i, i < n → s.pairHigh (addr + 4 * i) = none ∧ (∀ f ∈ RegMap.fields (addr + 4 * i), f.acc ≠ .rc) ∧
        addr + 4 * i ≠ F.ARR_FAB_MDATA_LO.off) →
      Completes (.usbRegRead addr (4 * n) acked) s fun u =>
        Sends s u [.reply .usb ((List.range n).flatMap fun i => toBytes 4 (s.readWord .usb (addr + 4 * i)))] ∧ OnlyRegs s u []) ∧
    (∀ (addr len : Nat) (acked : Bool), usbLenOk len = false →
      Completes (.usbRegRead addr len acked) s fun u => Out.stall .usb ∈ u.dev.out.drop s.dev.out.length ∧ OnlyRegs s u catchRegs) ∧
    (∀ (addr : Nat) (words : List Word), words ≠ [] → words.length ≤ 1024 → addr % 4 = 0 → s.dev.ledg.cycle = [] →
      (∀ i, i < words.length → addr + 4 * i < 0x10000 ∧ RegMap.fields (addr + 4 * i) ≠ []) →
      Completes (.usbRegWrite addr (words.flatMap fun w => toBytes 4 w.toNat)) s fun u =>
        (∀ i, i < words.length → ∀ f ∈ RegMap.fields (addr + 4 * i), bitsOf (u.word (addr + 4 * i)).toNat f.lo f.w =
          if f.acc = .rw then bitsOf (words.getD i 0).toNat f.lo f.w else bitsOf (s.word (addr + 4 * i)).toNat f.lo f.w) ∧
        u.dev.svc = { s.dev.svc with usbLast := (2, 0, 0) } ∧ OnlyRegs s u ((List.range words.length).map fun i => addr + 4 * i)) ∧
    (∀ (addr : Nat) (v : Word), 0x4000000 ≤ addr →
      Completes (.usbRegWrite addr (toBytes 4 v.toNat)) s fun u => u.dev.svc = { s.dev.svc with usbLast := (2, 3, 0) } ∧
        Out.stall .usb ∈ u.dev.out.drop s.dev.out.length ∧ OnlyRegs s u catchRegs) ∧
    (∀ kind part : Nat, s.mayLoad kind part 3 = true → part < 8 →
      Completes (.imgStart kind part 0) s fun u => u.fld F.IMG_STATUS_CHUCK = 1 ∧ u.fld F.IMG_STATUS_SRC = 3 ∧
        u.dev.chuck.load = some { kind := kind, part := part, src := 3, boot := s.dev.chuck.booting, lastData := s.now } ∧
        u.dev.svc = { s.dev.svc with usbLast := (3, 0, 0) } ∧ SameBytes s u ∧ SameHost s u) ∧
    (∀ kind part : Nat, kind < 3 → part < 8 → s.mayLoad kind part 3 = false →
      Completes (.imgStart kind part 0) s fun u => u.fld F.IMG_RESULT_CODE = 8 ∧ u.dev.chuck = s.dev.chuck ∧
        u.dev.log.count ≠ s.dev.log.count ∧ SameBytes s u ∧ SameHost s u) ∧
    (∀ kind part len : Nat, len ≠ 0 ∨ 3 ≤ kind ∨ 8 ≤ part →
      Completes (.imgStart kind part len) s fun u => Out.stall .usb ∈ u.dev.out.drop s.dev.out.length ∧ u.dev.chuck = s.dev.chuck ∧
        OnlyRegs s u catchRegs) ∧
    (∀ l : Load, s.dev.chuck.load = some l → l.boot = false → s.fld F.IMG_STATUS_CHUCK ≠ 3 →
      Completes .imgAbort s fun u => u.dev.chuck.load = none ∧ u.fld F.IMG_STATUS_CHUCK = 0 ∧ u.fld F.IMG_STATUS_SRC = s.fld F.IMG_STATUS_SRC ∧
        u.fld F.IMG_RESULT_CODE = 10 ∧ u.dev.log.count ≠ s.dev.log.count ∧ SameHost s u) ∧
    Completes .usbLastResult s (fun u => OnlyRegs s u [] ∧ Sends s u [.reply .usb
      (toBytes 1 s.dev.svc.usbLast.1 ++ toBytes 1 s.dev.svc.usbLast.2.1 ++ toBytes 2 s.dev.svc.usbLast.2.2)])) ∧
  (∀ (s : State) (r : UsbStd) (d : List Byte), s.ready = true → s.ep0 = true → r.bmRequestType = 0x80 → r.bRequest = 6 →
    s.usbDesc (r.wValue / 256) (r.wValue % 256) = some d →
    Completes (.usbStandardRequest r) s fun u => Sends s u [.reply .usb (d.take r.wLength)] ∧ OnlyRegs s u []) ∧
  (∀ (s : State) (r : UsbStd), s.ready = true → s.unitState 116 = 2 ∨ s.unitState 116 = 3 → r.bmRequestType = 0 → r.bRequest = 5 →
    r.wValue ≤ 127 →
    Completes (.usbStandardRequest r) s fun u => u.dev.svc = { s.dev.svc with usbAddr := r.wValue } ∧
      u.unitState 116 = (if r.wValue = 0 then 2 else 3) ∧ OnlyRegs s u [(F.LEDG_UNIT_STATE 116).off]) ∧
  (∀ (s : State) (r : UsbStd), s.ready = true → s.unitState 116 = 3 → r.bmRequestType = 0 → r.bRequest = 9 → r.wValue = 1 →
    Completes (.usbStandardRequest r) s fun u => u.unitState 116 = 4 ∧ u.epoch 116 = (s.epoch 116 + 1) % 65536 ∧
      u.dev.svc.usbHalt = 0 ∧ OnlyRegs s u ((F.LEDG_UNIT_STATE 116).off :: catchRegs)) ∧
  (∀ (s : State) (r : UsbStd), s.ready = true → s.ep0 = true → 12 < r.bRequest →
    Completes (.usbStandardRequest r) s fun u => Out.stall .usb ∈ u.dev.out.drop s.dev.out.length ∧ u.dev.svc = s.dev.svc ∧
      OnlyRegs s u catchRegs) ∧
  (∀ (s : State), s.ready = true → s.unitState 116 = 0 → s.dev.svc.usbOff = 0 →
    s.unitState 40 ≠ 0 ∨ s.bit F.TB_STATUS_XTAL = true →
    Completes .usbVbusApplied s fun u => u.unitState 116 = 1 ∧ u.epoch 116 = (s.epoch 116 + 1) % 65536 ∧ u.dev.pwr.pins.vbus = true ∧
      OnlyRegs s u [(F.LEDG_UNIT_STATE 116).off]) ∧
  (∀ (s : State) (hs : Bool), s.ready = true → s.unitState 116 ≠ 0 → (∀ l, s.dev.chuck.load = some l → l.src ≠ 3) →
    Completes (.usbReset false hs) s fun u => u.unitState 116 = 2 ∧ u.bit F.USB_STATUS_HS = hs ∧ Counted s u F.USB_RESETS ∧
      u.dev.svc.usbAddr = 0 ∧ u.dev.svc.usbHalt = 0 ∧ u.dev.svc.ep2 = none ∧ u.dev.chuck = s.dev.chuck ∧
      OnlyRegs s u ([F.USB_STATUS_HS.off, F.USB_RESETS.off, (F.LEDG_UNIT_STATE 116).off] ++ catchRegs)) ∧
  (∀ (s : State) (hs : Bool), s.ready = true → s.unitState 116 ≠ 0 → (∀ l, s.dev.chuck.load = some l → l.src ≠ 3) →
    Completes (.usbReset true hs) s fun u => u.unitState 116 = 0 ∧ u.dev.pwr.pins.vbus = false ∧ Counted s u F.USB_RESETS ∧
      OnlyRegs s u ([F.USB_STATUS_HS.off, F.USB_RESETS.off, (F.LEDG_UNIT_STATE 116).off] ++ catchRegs)) ∧
  (∀ s : State, 1 ≤ s.unitState 116 → s.unitState 116 ≤ 4 →
    Completes .usbSuspend s fun u => u.unitState 116 = 5 ∧ u.dev.svc = { s.dev.svc with usbBefore := s.unitState 116 } ∧
      OnlyRegs s u [(F.LEDG_UNIT_STATE 116).off]) ∧
  (∀ s : State, s.unitState 116 = 5 → s.dev.svc.usbBefore ≤ 4 →
    Completes .usbResume s fun u => u.unitState 116 = s.dev.svc.usbBefore ∧ u.dev = s.dev ∧
      OnlyRegs s u [(F.LEDG_UNIT_STATE 116).off])

/-- The bulk endpoints (R537, R538): bytes for an open load join it, others are not taken; EP2 sends the next record, packet by packet,
and what has gone out whole is read; a sample joins the queue, of which a full one loses its oldest.
The choices of the model that it rests on: log entries 103, 143. -/
def Obligations.UsbEndpoints : Prop :=
  (∀ (s : State) (bytes : List Byte) (l : Load), s.ready = true → s.unitState 116 = 4 → bytes.length ≤ s.bulkSize →
    s.dev.svc.usbHalt % 2 = 0 → s.dev.chuck.load = some l → l.src = 3 → s.fld F.IMG_STATUS_CHUCK = 1 → l.complete = false →
    let got := l.bytes ++ bytes
    let got := if 256 ≤ got.length then got.take (max 256 (hdrOf got).length) else got
    Completes (.usbEp1Packet bytes) s fun u => u.dev.chuck = { s.dev.chuck with load := some { l with bytes := got, lastData := s.now } } ∧
      u.fld F.IMG_DONE = got.length % 2 ^ F.IMG_DONE.w ∧ OnlyRegs s u [F.IMG_DONE.off]) ∧
  (∀ (s : State) (bytes : List Byte), s.unitState 116 = 4 → bytes.length ≤ s.bulkSize → s.dev.svc.usbHalt % 2 = 0 → s.ep1Open = false →
    Completes (.usbEp1Packet bytes) s fun u => Sends s u [.nak .usb] ∧ OnlyRegs s u []) ∧
  (∀ (s : State) (k : Option Nat) (bs : List Byte), s.unitState 116 = 4 → s.dev.svc.usbHalt / 2 % 2 = 0 →
    (s.dev.svc.ep2 = some (k, bs) ∨ (s.dev.svc.ep2 = none ∧ s.ep2Next = some (k, bs))) →
    Completes .usbEp2Ack s fun u => u.dev.out = s.dev.out ++ [.reply .usb (bs.take s.bulkSize)] ∧
      u.dev.svc.ep2 = (if bs.length ≤ s.bulkSize then none else some (k, bs.drop s.bulkSize)) ∧
      (s.bulkSize < bs.length → u.dev.svc.samples = s.dev.svc.samples ∧ OnlyRegs s u []) ∧
      (bs.length ≤ s.bulkSize → k = none → u.dev.svc.samples = s.dev.svc.samples.drop 1 ∧ OnlyRegs s u []) ∧
      (∀ n, bs.length ≤ s.bulkSize → k = some n → n = s.fld (F.CATCH_RPOS 2) → u.fld (F.CATCH_RPOS 2) = (n + 1) % 2 ^ 32 ∧
        u.dev.svc.samples = s.dev.svc.samples ∧ OnlyRegs s u [(F.CATCH_RPOS 2).off])) ∧
  (∀ s : State, s.ready = true → s.sampleDue = true → s.dev.svc.samples.length < 16 →
    Completes .usbStreamSample s fun u => u.dev = { s.dev with svc := { s.dev.svc with
        samples := s.dev.svc.samples ++ [s.sampleBody], strmAt := s.dev.svc.strmAt + s.samplePeriod } } ∧
      OnlyRegs s u []) ∧
  (∀ s : State, s.ready = true → s.sampleDue = true → s.dev.svc.samples.length = 16 → s.dev.svc.ep2 = none →
    Completes .usbStreamSample s fun u => u.dev.svc = { s.dev.svc with
        samples := s.dev.svc.samples.drop 1 ++ [s.sampleBody], strmAt := s.dev.svc.strmAt + s.samplePeriod } ∧
      Counted s u F.USB_STRM_DROPS ∧ OnlyRegs s u (F.USB_STRM_DROPS.off :: catchRegs))

/-- Test access (R539 to R543): each instruction becomes the current one and does what the table gives it; those that take the balls put
the link down; with the debug lock fused DBG_ADDR and DBG_DATA act as BYPASS.
The choices of the model that it rests on: log entry 104. -/
def Obligations.TestAccess : Prop :=
  ∀ s : State, s.dev.pwr.por = false →
    Completes .tapReset s (fun u => u.dev = { s.dev with svc := { s.dev.svc with jtagIr := 1 } } ∧ OnlyRegs s u []) ∧
    Completes .bypass s (fun u => u.dev = { s.dev with svc := { s.dev.svc with jtagIr := 0xFF } } ∧ OnlyRegs s u []) ∧
    Completes .idcode s (fun u => u.dev.svc = { s.dev.svc with jtagIr := 1 } ∧
      u.dev.out = s.dev.out ++ [.reply .jtag (toBytes 4 idcodeWord)] ∧ OnlyRegs s u []) ∧
    (∀ pins preload : Nat, Completes (.samplePreload pins preload) s fun u =>
      u.dev = { s.dev with svc := { s.dev.svc with jtagIr := 2, sampled := pins, boundary := preload } } ∧ OnlyRegs s u []) ∧
    (∀ (c : Instr) (ir : Nat), (c, ir) ∈ [(Instr.extest, 3), (.clamp, 4), (.highz, 5), (.extestPulse, 6), (.extestTrain, 7)] →
      Completes c s fun u => u.dev.svc.jtagIr = ir ∧ s.dev.log.count < u.dev.log.count ∧
        (s.ready = true → s.linkUp = true → u.unitState 43 = 0) ∧ (s.linkUp = false → OnlyRegs s u catchRegs)) ∧
    (fuseBit s.dev.chuck 2 = false → s.ready = true →
      (∀ a, a % 4 = 0 → a < 0x4000000 → s.pairHigh a = none → (∀ f ∈ RegMap.fields a, f.acc ≠ .rc) → a ≠ F.ARR_FAB_MDATA_LO.off →
        Completes (.dbgAddr a false) s fun u => OnlyRegs s u [] ∧
          u.dev.svc = { s.dev.svc with jtagIr := 0x40, dbgAddr := a, dbgData := BitVec.ofNat 32 (s.readWord .jtag a) }) ∧
      (∀ a, a < 2 ^ 32 → Completes (.dbgAddr a true) s fun u => OnlyRegs s u [] ∧
        u.dev.svc = { s.dev.svc with jtagIr := 0x40, dbgAddr := a + 2 ^ 32 }) ∧
      (∀ (a : Nat) (v : Word), a < 0x10000 → a % 4 = 0 → RegMap.fields a ≠ [] → s.dev.svc.dbgAddr = a + 2 ^ 32 →
        s.dev.ledg.cycle = [] →
        Completes (.dbgData v) s fun u => u.dev.out = s.dev.out ++ [.reply .jtag (toBytes 4 s.dev.svc.dbgData.toNat)] ∧
          u.dev.svc = { s.dev.svc with jtagIr := 0x41 } ∧
          (∀ f ∈ RegMap.fields a, bitsOf (u.word a).toNat f.lo f.w =
            if f.acc = .rw then bitsOf v.toNat f.lo f.w else bitsOf (s.word a).toNat f.lo f.w) ∧ OnlyRegs s u [a]) ∧
      (∀ v : Word, s.dev.svc.dbgAddr < 2 ^ 32 →
        Completes (.dbgData v) s fun u => u.dev.out = s.dev.out ++ [.reply .jtag (toBytes 4 s.dev.svc.dbgData.toNat)] ∧
          u.dev.svc = { s.dev.svc with jtagIr := 0x41 } ∧ OnlyRegs s u [])) ∧
    (fuseBit s.dev.chuck 2 = true →
      (∀ (a : Nat) (rw : Bool), Completes (.dbgAddr a rw) s fun u => u.dev.svc = { s.dev.svc with jtagIr := 0x40 } ∧
        OnlyRegs s u catchRegs) ∧
      (∀ v : Word, Completes (.dbgData v) s fun u => u.dev.svc = { s.dev.svc with jtagIr := 0x41 } ∧ OnlyRegs s u catchRegs))

/-! ## Orders to the ledger -/

/-- Benches, partitions and units as orders move them (R98, R552, R573, R574, R590, R591, R598): an order whose verdict is OK takes effect,
raises the epochs of what it changes, and is answered.
Orders that do not take effect (R594, R595, R613): a refused one is counted and answered with 2 and changes nothing else; of two
that conflict the weaker is counted as overruled.
The choices of the model that it rests on: log entries 21, 30, 31, 134. -/
def Obligations.Orders : Prop :=
  (∀ (s : State) (src : OSrc) (b arg p : Nat), s.ready = true → src ≠ .timetable → src ≠ .wake → b < 32 → s.fenced b = false →
    s.unitState b = 1 ∨ s.unitState b = 2 ∨ s.unitState b = 3 → s.benchPart b = some p → s.partOn p = false →
    (∀ x ∈ s.dev.pwr.waking ++ s.dev.pwr.dwelling, x.1 ≠ b) → arg % 4 ≠ 3 →
    Completes (.orderPower src b arg []) s fun u => u.epoch b = (s.epoch b + 1) % 65536 ∧
      (arg % 4 = 0 → s.unitState b = 3 → u.unitState b = 3 ∧ (b, s.now + 12500) ∈ u.dev.pwr.waking) ∧
      (arg % 4 = 0 → s.unitState b = 2 → u.unitState b = 2 ∧ (b, s.now + 48) ∈ u.dev.pwr.waking) ∧
      (arg % 4 = 1 → u.unitState b = 2) ∧
      (arg % 4 = 2 → s.unitState b ≠ 3 → (b, s.now + 250) ∈ u.dev.pwr.dwelling) ∧
      Answered u ⟨src, 1, b, arg⟩ b 0 ∧ OnlyRegs s u ((F.LEDG_UNIT_STATE b).off :: orderRegs)) ∧
  (∀ (s : State) (src : OSrc) (arg : Nat), s.ready = true → arg < 256 → (s.enableVerdict arg).status = 0 →
    Completes (.orderEnable src arg []) s fun u => ∀ p, p < 8 →
      u.partOn p = inMask arg p ∧
      (inMask arg p = s.partOn p → u.epoch (32 + p) = s.epoch (32 + p) ∧ u.unitState (32 + p) = s.unitState (32 + p) ∧
        u.turnOrg p = s.turnOrg p) ∧
      (inMask arg p ≠ s.partOn p → u.epoch (32 + p) = (s.epoch (32 + p) + 1) % 65536) ∧
      (inMask arg p = true → s.partOn p = false → u.unitState (32 + p) = 1 ∧
        u.turnOrg p = s.fld (F.TT_ORG_LO_ORG p) + 2 ^ 32 * s.fld (F.TT_ORG_HI_ORG p) ∧
        u.turnLen p = (s.plane p).turnLen % 2 ^ (F.TB_TURN_LEN_LEN p).w ∧
        u.word (F.LEDG_GROUPS_LO p).off = 0xFFFFFFFF ∧ u.word (F.LEDG_GROUPS_HI p).off = 0xFFFFFFFF) ∧
      (inMask arg p = false → s.partOn p = true → u.unitState (32 + p) = 0 ∧ u.turnLen p = 0) ∧ SameBytes s u ∧ SameHost s u) ∧
  (∀ (s : State) (src : OSrc) (p g en : Nat), s.ready = true → p < 8 → g < 64 → en < 2 →
    Completes (.orderGroup src (32 + p) (g + 256 * en) []) s fun u =>
      (∀ j, j < 64 → bitsOf ((u.word (F.LEDG_GROUPS_LO p).off).toNat + 2 ^ 32 * (u.word (F.LEDG_GROUPS_HI p).off).toNat) j 1 =
        if j = g then en else
          bitsOf ((s.word (F.LEDG_GROUPS_LO p).off).toNat + 2 ^ 32 * (s.word (F.LEDG_GROUPS_HI p).off).toNat) j 1) ∧
      u.epoch (32 + p) = (s.epoch (32 + p) + 1) % 65536 ∧ Answered u ⟨src, 10, 32 + p, g + 256 * en⟩ (32 + p) 0 ∧
      OnlyRegs s u ([(F.LEDG_GROUPS_LO p).off, (F.LEDG_GROUPS_HI p).off, (F.LEDG_UNIT_STATE (32 + p)).off] ++ orderRegs)) ∧
  (∀ (s : State) (src : OSrc) (k : Nat), s.ready = true → k < 4 → s.unitState (108 + k) = 0 → s.fenced (108 + k) = false →
    Completes (.orderPort src (108 + k) 1 []) s fun u => u.bit (F.AUD_EN_EN k) = true ∧ u.unitState (108 + k) = s.portStart k ∧
      u.epoch (108 + k) = (s.epoch (108 + k) + 1) % 65536 ∧ (∀ i, i < 32 → (u.inp (32 * k + i)).framed = false) ∧
      Answered u ⟨src, 11, 108 + k, 1⟩ (108 + k) 0 ∧ SameBytes s u ∧ SameHost s u) ∧
  (∀ (s : State) (src : OSrc) (k : Nat), s.ready = true → k < 4 →
    Completes (.orderPort src (108 + k) 0 []) s fun u => u.bit (F.AUD_EN_EN k) = false ∧ u.unitState (108 + k) = 0 ∧
      u.fenced (108 + k) = false ∧ u.epoch (108 + k) = (s.epoch (108 + k) + if s.fenced (108 + k) then 2 else 1) % 65536 ∧
      Answered u ⟨src, 11, 108 + k, 0⟩ (108 + k) 0 ∧
      OnlyRegs s u ([(F.AUD_EN_EN k).off, (F.LEDG_UNIT_STATE (108 + k)).off] ++ orderRegs)) ∧
  (∀ (s : State) (src : OSrc) (arg : Nat), s.ready = true → arg < 2 ^ 13 → s.regripOk (bitsOf arg 0 8) = true →
    Completes (.orderRegrip src arg []) s fun u => ∀ p, p < 8 →
      (inMask arg p = true → u.epoch (32 + p) = (s.epoch (32 + p) + 1) % 65536 ∧ ∃ r, (u.part p).regrip = some r ∧ r.accepted = s.now ∧
        r.pmask = bitsOf arg 0 8 ∧ r.drain = (bitsOf arg 8 1 == 1) ∧ r.turns = bitsOf arg 9 4 + 1 ∧
        ((membersOf arg 8).find? s.partOn = none → r.first = s.now + 1) ∧
        (∀ q, (membersOf arg 8).find? s.partOn = some q → r.first = s.nextBoundary q)) ∧
      (inMask arg p = false → u.part p = s.part p ∧ u.epoch (32 + p) = s.epoch (32 + p)) ∧ SameBytes s u ∧ SameHost s u) ∧
  (∀ (s : State) (src : OSrc) (arg : Nat), s.ready = true → arg < 256 →
    Completes (.orderDerate src arg []) s fun u => Sparse.get zeroNat u.dev.pwr.derateBy src.code = arg ∧
      (∀ j, j ≠ src.code → Sparse.get zeroNat u.dev.pwr.derateBy j = Sparse.get zeroNat s.dev.pwr.derateBy j) ∧
      (∀ p, p < 8 → inMask arg p = true → u.epoch (32 + p) = (s.epoch (32 + p) + 1) % 65536) ∧ SameBytes s u ∧ SameHost s u) ∧
  (∀ (s : State) (src : OSrc) (arg : Nat), s.ready = true → 400 ≤ arg → arg ≤ gradeMhz → arg % 25 = 0 →
    Completes (.orderTileclk src arg []) s fun u => u.dev.pwr.tileClk = some (arg, s.now + 250000, s.enabledMask + 256) ∧
      u.fld F.PCK_TILE_MHZ_NORMAL = s.fld F.PCK_TILE_MHZ_NORMAL ∧ Answered u ⟨src, 4, 0, arg⟩ 127 0 ∧
      OnlyRegs s u (F.PCK_AVS_VREQ.off :: orderRegs)) ∧
  (∀ (s : State) (o : Order) (c : Instr), s.ready = true → o.src ≠ .timetable →
    (c, o.kind) ∈ [(Instr.orderPower o.src o.unit o.arg [], 1), (.orderTileclk o.src o.arg [], 4), (.orderEnable o.src o.arg [], 8),
      (.orderRegrip o.src o.arg [], 9), (.orderPort o.src o.unit o.arg [], 11)] →
    (o.kind ∈ [4, 8, 9] → o.unit = 0) → (s.verdict o).status = 2 →
    Completes c s fun u => Counted s u F.LEDG_REFUSED ∧ Answered u o (s.orderUnit o) 2 ∧ OnlyRegs s u orderRegs ∧
      u.dev.parts = s.dev.parts ∧ u.dev.pwr = s.dev.pwr ∧ u.dev.hs = s.dev.hs) ∧
  (∀ (s : State) (a b : Nat), s.ready = true → 400 ≤ b → b ≤ gradeMhz → b % 25 = 0 →
    Completes (.orderTileclk .pf a [⟨.mb, 4, 0, b⟩]) s fun u => Counted s u F.LEDG_OVERRULED ∧
      u.dev.pwr.tileClk = some (b, s.now + 250000, s.enabledMask + 256) ∧ Answered u ⟨.pf, 4, 0, a⟩ 127 1 ∧
      OnlyRegs s u (F.PCK_AVS_VREQ.off :: orderRegs))

/-- Resets by order (R573, R574, R577, R585): a cold reset zero-fills tile memory and the Store, returns every field that is not of class
A and leaves the count and the fuses; a partition reset disables its partition, loses its staged plane and puts its benches into DWELL
without a program.
The choices of the model that it rests on: log entries 30, 116, 134. -/
def Obligations.ResetsByOrder : Prop :=
  (∀ (s : State) (src : OSrc), s.ready = true → src ≠ .watchdog → s.dev.chuck.rbTarget = none →
    Completes (.orderResetCold src []) s fun u => u.devState = 0 ∧ u.fld F.PCK_STATUS_LASTRESET = 2 ∧ u.dev.hs.now = s.dev.hs.now ∧
      u.dev.chuck.fuseFlags = s.dev.chuck.fuseFlags ∧ u.dev.chuck.keyHash = s.dev.chuck.keyHash ∧
      u.dev.chuck.rbCount = s.dev.chuck.rbCount ∧ s.dev.log.count < u.dev.log.count ∧
      (∀ a, a < storeAt + storeSize → u.mem.read a = 0) ∧ (∀ a, storeAt + storeSize ≤ a → u.mem.read a = s.mem.read a) ∧
      (∀ o, 0x20000 ≤ o → o < 0x30000 → ∀ f ∈ RegMap.fields o, f.kept ≠ .A → bitsOf (u.word o).toNat f.lo f.w = f.reset) ∧
      (∀ o, 0x10000 ≤ o → o < 0x20000 → o ≠ F.TB_STATUS_XTAL.off → ∀ f ∈ RegMap.fields o, f.kept = .A →
        bitsOf (u.word o).toNat f.lo f.w = bitsOf (s.word o).toNat f.lo f.w) ∧
      (∀ p, p < 8 → u.part p = {} ∧ u.unitState (32 + p) = 0) ∧ (∀ b, b < 32 → u.unitState b = 0) ∧
      (∀ t, u.tile t = {}) ∧ SameHost s u) ∧
  (∀ (s : State) (src : OSrc) (p : Nat), s.ready = true → p < 8 → src ≠ .watchdog →
    Completes (.orderResetPart src (2 ^ p) []) s fun u => u.partOn p = false ∧ u.turnLen p = 0 ∧ (u.part p).staged = none ∧
      (u.part p).retiring = none ∧ s.dev.log.count < u.dev.log.count ∧
      (∀ b, b < 32 → s.benchPart b = some p → s.fenced b = false → s.unitState b ≠ 0 →
        u.unitState b = 3 ∧ ∀ t ∈ tilesOf b, (u.tile t).run = 0 ∧ (u.tile t).launch = none))

/-! ## Power, clocks and the watchdog -/

/-- Supplies and cold resets (R569 to R573, R643): power-on reset clears everything but the fuses; its release samples the straps; the
rails, PWR_OK and COLD_N hold and end a cold reset.
The choices of the model that it rests on: log entries 5, 105. -/
def Obligations.SuppliesAndResets : Prop :=
  (∀ s : State, s.dev.chuck.rbTarget = none →
    Completes .powerOnReset s fun u => u.dev.pwr.por = true ∧ (∀ o, (RegMap.fields o ≠ []) → ∀ f ∈ RegMap.fields o,
        bitsOf (u.word o).toNat f.lo f.w = f.reset) ∧ u.now = 0 ∧ u.dev.log.count = 0 ∧ (∀ a, a < 2 ^ 40 → u.mem.read a = 0) ∧
      u.dev.chuck.fuseFlags = s.dev.chuck.fuseFlags ∧ u.dev.chuck.rbCount = s.dev.chuck.rbCount ∧ u.dev.tiles = [] ∧
      u.dev.parts = [] ∧ SameHost s u) ∧
  (∀ (s : State) (straps : Nat) (xtal : Bool), s.dev.pwr.por = true → s.dev.pwr.pins.pwrOk = true → s.dev.pwr.pins.coldN = true →
    Completes (.powerOnResetRelease straps xtal) s fun u => u.dev.pwr.por = false ∧
      (u.word F.GEN_STRAPS_TBFSEL.off).toNat = straps % 128 ∧ u.dev.pwr.pins.coreEn = true ∧ u.dev.pwr.pins.storeEn = true ∧
      u.dev.pwr.pins.farEn = true ∧ u.unitState 40 = 1 ∧ u.bit F.TB_STATUS_XTAL = (xtal && straps.testBit 1) ∧
      u.fld F.IMG_STATUS_BOOTSEL = bitsOf straps 2 2 ∧ u.fld F.MB_STATUS_ADDR = 0x58 + bitsOf straps 4 2 ∧
      s.dev.log.count < u.dev.log.count ∧ SameBytes s u ∧ SameHost s u) ∧
  (∀ s : State, s.dev.pwr.por = false → s.dev.pwr.heldSupply = true → s.dev.pwr.heldCold = false → s.dev.pwr.heldTrip = false →
    Completes .pwrOkRise s fun u => u.dev.pwr.pins.pwrOk = true ∧ u.heldReset = false ∧ u.dev.pwr.pins.coreEn = true ∧
      s.dev.log.count < u.dev.log.count ∧ OnlyRegs s u catchRegs) ∧
  (∀ s : State, s.dev.pwr.heldSupply = false →
    Completes .pwrOkRise s fun u => u.dev.pwr = { s.dev.pwr with pins := { s.dev.pwr.pins with pwrOk := true } } ∧ OnlyRegs s u []) ∧
  (∀ s : State, s.dev.pwr.por = false → s.heldReset = false → s.devState = 0 ∨ s.devState = 4 → s.dev.pwr.railSlow = false →
    Completes .railSlow s fun u => u.dev.pwr = { s.dev.pwr with railSlow := true } ∧ Logged s u 0xD006 1 127 ∧
      OnlyRegs s u catchRegs) ∧
  (∀ s : State, s.dev.pwr.railSlow = true → Completes .railSlow s fun u => u = s) ∧
  (∀ s : State, s.dev.pwr.por = false → s.heldReset = false → s.dev.chuck.rbTarget = none →
    Completes .supplyLost s fun u => u.dev.pwr.heldSupply = true ∧ u.devState = 0 ∧ u.fld F.PCK_STATUS_LASTRESET = 5 ∧
      u.dev.pwr.pins.pwrOk = false ∧ u.dev.pwr.pins.coreEn = false ∧ u.dev.pwr.pins.storeEn = false ∧ u.dev.hs.now = s.dev.hs.now ∧
      s.dev.log.count < u.dev.log.count ∧ SameHost s u) ∧
  (∀ (s : State) (ns : Nat), s.dev.pwr.por = false → s.heldReset = false → 100 ≤ ns →
    Completes (.coldNAssert ns) s fun u => u.dev.pwr.heldCold = true ∧ u.dev.pwr.pins.coldN = false ∧ u.devState = 0 ∧
      u.fld F.PCK_STATUS_LASTRESET = 1 ∧ u.dev.hs.now = s.dev.hs.now ∧ (∀ a, a < storeAt + storeSize → u.mem.read a = 0) ∧
      SameHost s u) ∧
  (∀ (s : State) (ns : Nat), ns < 20 → Completes (.coldNAssert ns) s fun u => u = s) ∧
  (∀ s : State, s.dev.pwr.por = false → s.dev.pwr.heldCold = true → s.dev.pwr.heldTrip = false → s.dev.pwr.heldSupply = false →
    Completes .coldNRelease s fun u => u.heldReset = false ∧ u.dev.pwr.pins.coldN = true ∧ u.dev.pwr.pins.coreEn = true ∧
      s.dev.log.count < u.dev.log.count ∧ OnlyRegs s u catchRegs)

/-- Thermal control and the tile clock (R563, R566 to R568): a hot reading derates the AUTO_MASK partitions that are enabled, a cool one
lifts the device's own derates, 125 °C trips; an accepted tile clock takes effect at the boundary.
The watchdog and hanging benches (R575, R576): a kick from a path that KICKSRC allows starts the time-out again; one that runs out
moves to the next stage, whose action may be a cold reset; a tile that has issued nothing for too long fences its bench.
The choices of the model that it rests on: log entry 37. -/
def Obligations.ThermalAndWatchdog : Prop :=
  (∀ (s : State) (temp sensor : Nat), s.ready = true → temp < 65536 → sensor < 16 →
    16 * (s.fld F.PCK_THERM_CTL_TDERATE : Int) < signedOf 16 temp → s.newlyHot ≠ [] →
    Completes (.thermDerate temp sensor) s fun u => u.fld F.PCK_TEMP_TEMP = temp ∧ u.fld F.PCK_TEMP_SENSOR = sensor ∧
      (∀ p, p < 8 → inMask u.autoMask p = (inMask s.autoMask p || s.newlyHot.contains p)) ∧ s.dev.log.count < u.dev.log.count ∧
      SameBytes s u ∧ SameHost s u) ∧
  (∀ (s : State) (temp sensor : Nat), s.ready = true → temp < 65536 → sensor < 16 → signedOf 16 temp < s.derateOff16 →
    s.autoMask ≠ 0 →
    Completes (.thermClear temp sensor) s fun u => u.fld F.PCK_TEMP_TEMP = temp ∧ u.autoMask = 0 ∧
      (∀ j, j ≠ 7 → Sparse.get zeroNat u.dev.pwr.derateBy j = Sparse.get zeroNat s.dev.pwr.derateBy j) ∧
      s.dev.log.count < u.dev.log.count ∧ SameBytes s u ∧ SameHost s u) ∧
  (∀ (s : State) (temp sensor : Nat), s.ready = true → 2000 ≤ signedOf 16 temp → s.dev.chuck.rbTarget = none →
    Completes (.thermTrip temp sensor) s fun u => u.devState = 5 ∧ u.fld F.PCK_STATUS_LASTRESET = 4 ∧ u.dev.pwr.heldTrip = true ∧
      u.dev.pwr.pins.coreEn = false ∧ u.dev.pwr.pins.storeEn = false ∧ u.catchN = true ∧ u.dev.hs.now = s.dev.hs.now ∧
      s.dev.log.count < u.dev.log.count) ∧
  (∀ (s : State) (part mhz t owe : Nat), s.dev.pwr.tileClk = some (mhz, t, owe) → inMask owe part = true → s.reached t = true →
    part = 8 ∨ s.atBoundary part = true → s.ready = true →
    Completes (.tileclkApply part) s fun u => u.fld F.PCK_TILE_MHZ_NORMAL = mhz % 4096 ∧ s.dev.log.count < u.dev.log.count ∧
      (∀ m f w, u.dev.pwr.tileClk = some (m, f, w) → m = mhz ∧ f = t ∧ inMask w part = false) ∧
      OnlyRegs s u (F.PCK_TILE_MHZ_NORMAL.off :: F.PCK_AVS_VREQ.off :: catchRegs)) ∧
  (∀ (s : State) (p : Path) (v : Word), s.reach p F.PCK_WDOG_KICK.off = true → kickAllowed (s.fld F.PCK_WDOG_CTL_KICKSRC) p = true →
    Completes (.wdogKick p v) s fun u => u.fld F.PCK_WDOG_STAT_STAGE = 0 ∧ u.dev.pwr = { s.dev.pwr with wdogAt := s.now } ∧
      OnlyRegs s u [F.PCK_WDOG_STAT_STAGE.off]) ∧
  (∀ (s : State) (p : Path) (v : Word), s.reach p F.PCK_WDOG_KICK.off = true → kickAllowed (s.fld F.PCK_WDOG_CTL_KICKSRC) p = false →
    Completes (.wdogKick p v) s fun u => u = s) ∧
  (∀ (s : State) (st act : Nat), s.dev.pwr.por = false → s.heldReset = false → s.bit F.PCK_WDOG_CTL_EN = true →
    st = s.fld F.PCK_WDOG_STAT_STAGE →
    (st, act) ∈ [(0, s.fld F.PCK_WDOG_CTL_ACT1), (1, s.fld F.PCK_WDOG_CTL_ACT2), (2, s.fld F.PCK_WDOG_CTL_ACT3)] →
    s.reached (s.dev.pwr.wdogAt + 250000 * s.fld F.PCK_WDOG_CTL_TIMEOUT_MS) = true →
    Completes .wdogStage s fun u => s.dev.log.count < u.dev.log.count ∧
      (act ≠ 2 → act ≠ 3 → u.fld F.PCK_WDOG_STAT_STAGE = st + 1 ∧ Counted s u F.PCK_WDOG_STAT_EXPIRIES ∧
        u.dev.pwr = { s.dev.pwr with wdogAt := s.now } ∧ OnlyRegs s u (F.PCK_WDOG_STAT_STAGE.off :: catchRegs)) ∧
      (act = 3 → s.ready = true → u.devState = 0 ∧ u.fld F.PCK_STATUS_LASTRESET = 3)) ∧
  (∀ (s : State) (t : Nat), t < 512 → s.ready = true → s.fld F.PCK_HANG_CTL_HANG_US ≠ 0 → (s.tile t).run = 1 →
    s.unitState (t / 16) = 1 → s.fenced (t / 16) = false →
    s.reached ((s.tile t).issuedAt + 250 * s.fld F.PCK_HANG_CTL_HANG_US) = true →
    Completes (.benchHang t) s fun u => u.unitState (t / 16) = 4 ∧ u.fenced (t / 16) = true ∧ u.fld (F.BENCH_FENCE_CODE (t / 16)) = 0xD008 ∧
      (∀ j ∈ tilesOf (t / 16), (u.tile j).run = 0 ∧ (u.tile j).launch = none ∧ SameVectors (s.tile j) (u.tile j)) ∧
      s.dev.log.count < u.dev.log.count)

/-- REST (R54, R553 to R559, R577): the order is taken only with every partition disabled; entry ends with the rails down, functions and
tiles gone, and the count carried; a wake, or the timer, brings the device back to READY with the Store kept or zero-filled as the
order found STORE_KEEP.
The choices of the model that it rests on: log entries 107, 108, 109, 110, 123. -/
def Obligations.RestAndWake : Prop :=
  (∀ (s : State) (src : OSrc), s.ready = true → (∀ p, p < 8 → s.partOn p = false ∧ (s.part p).retiring = none) →
    s.fld F.IMG_STATUS_CHUCK = 0 →
    Completes (.orderRest src []) s fun u => u.devState = 2 ∧ u.dev.pwr.restKeep = s.bit F.PCK_REST_CFG_STORE_KEEP ∧
      u.dev.pwr.restAt = s.now ∧ u.dev.pwr.wakePending = none ∧ u.unitState 43 = 0 ∧ s.dev.log.count < u.dev.log.count ∧
      Answered u ⟨src, 2, 0, 0⟩ 127 0 ∧
      OnlyRegs s u ([F.PCK_STATUS_DEV.off, (F.LEDG_UNIT_STATE 43).off] ++ orderRegs)) ∧
  (∀ s : State, s.dev.pwr.por = false → s.heldReset = false → s.devState = 2 → s.dev.pwr.wakePending = none →
    s.bit F.MB_MST_STATUS_BUSY = false →
    Completes .restEntryDone s fun u => u.inRest = true ∧ u.bit F.TB_SET_CTL_ARM = false ∧ u.dev.hs.now = s.dev.hs.now ∧ u.dev.hs.restEntry = s.dev.hs.now ∧
      (∀ n, n < 64 → u.unitState (44 + n) = 0) ∧ u.dev.numVfs = 0 ∧ u.dev.tiles = [] ∧ u.dev.pwr.pins.coreEn = false ∧
      u.dev.pwr.pins.storeEn = s.dev.pwr.restKeep ∧ u.dev.pwr.pins.storeRet = s.dev.pwr.restKeep ∧
      (∀ o, 0x420000 ≤ o → o < 0x420800 → ∀ f ∈ RegMap.fields o, f.kept = .D → bitsOf (u.word o).toNat f.lo f.w = f.reset) ∧
      (∀ p, p < 8 → (u.part p).active = (s.part p).active)) ∧
  (∀ (s : State) (w : WakeSrc), s.dev.pwr.por = false → s.heldReset = false → s.inRest = true →
    Completes (.orderWake w []) s fun u => u.devState = 4 ∧ u.fld F.PCK_STATUS_WAKESRC = wakeCode w ∧ u.dev.pwr.pins.coreEn = true ∧
      u.dev.pwr.pins.storeEn = true ∧ u.dev.pwr.pins.farEn = true ∧ OnlyRegs s u [F.PCK_STATUS_DEV.off]) ∧
  (∀ s : State, s.dev.pwr.por = false → s.heldReset = false → s.inRest = true → s.fld F.PCK_REST_TIMER_SECONDS ≠ 0 →
    s.reached (s.dev.pwr.restAt + s.fld F.PCK_REST_TIMER_SECONDS * 250000000) = true →
    Completes .restTimer s fun u => u.devState = 4 ∧ u.fld F.PCK_STATUS_WAKESRC = 4 ∧ OnlyRegs s u [F.PCK_STATUS_DEV.off]) ∧
  (∀ (s : State) (elapsed : Nat), s.dev.pwr.por = false → s.heldReset = false → s.devState = 4 → s.bit F.PCK_STATUS_PERST_SEEN = false →
    elapsed ≤ 750000 ∨ s.dev.pwr.railSlow = true →
    Completes (.restExit elapsed) s fun u => u.ready = true ∧ u.unitState 40 = (if s.dev.hs.everLocked then 3 else 0) ∧
      u.unitState 43 = 1 ∧ s.dev.log.count < u.dev.log.count ∧ u.dev.hs.now = s.dev.hs.now ∧ u.bit F.STORE_STATUS_KEPT = s.dev.pwr.restKeep ∧
      (s.dev.pwr.restKeep = true → ∀ p, p < 8 → (u.part p).active = (s.part p).active) ∧
      (s.dev.pwr.restKeep = false → (∀ p, p < 8 → (u.part p).active = none ∧ (u.part p).staged = none) ∧ u.dev.chuck.bootDue = true))

/-- The ledger against its units, and read positions (R597, R598, R602, R610): a unit that reports what its line says is in order, one that
does not is counted and logged, and is fenced when it stays so for 1 ms; a path moves its own read position, held to the log.
The choices of the model that it rests on: log entries 106, 144. -/
def Obligations.LedgerAndReadPositions : Prop :=
  (∀ (s : State) (n st : Nat), s.ready = true → n ≤ 116 → s.moving n = false → s.unitState n = st % 16 →
    Completes (.ledgerCompare [(n, st)] false) s fun u => (∀ m ∈ u.dev.ledg.mismatch, m.1 ≠ n) ∧ u.dev.log = s.dev.log ∧ OnlyRegs s u []) ∧
  (∀ (s : State) (n st : Nat), s.ready = true → n ≤ 116 → s.moving n = false → s.unitState n ≠ st % 16 →
    Completes (.ledgerCompare [(n, st)] false) s fun u => (∃ m ∈ u.dev.ledg.mismatch, m.1 = n) ∧ Counted s u F.LEDG_MISMATCHES ∧
      s.dev.log.count < u.dev.log.count ∧ OnlyRegs s u (F.LEDG_MISMATCHES.off :: catchRegs)) ∧
  (∀ s : State, s.ready = true → s.dev.chuck.rbTarget = none →
    Completes (.ledgerCompare [] true) s fun u => u.devState = 0 ∧ u.fld F.PCK_STATUS_LASTRESET = 2 ∧ u.dev.hs.now = s.dev.hs.now) ∧
  (∀ (s : State) (n t : Nat), s.ready = true → (n, t) ∈ s.dev.ledg.mismatch → s.reached (t + 250000) = true →
    n ∈ [41, 42, 108, 109, 110, 111, 112, 113] → s.fenced n = false →
    Completes (.unitStuck n) s fun u => u.fenced n = true ∧ u.epoch n = (s.epoch n + 1) % 65536 ∧ (∀ m ∈ u.dev.ledg.mismatch, m.1 ≠ n) ∧
      s.dev.log.count < u.dev.log.count ∧ OnlyRegs s u ((F.LEDG_UNIT_STATE n).off :: (List.range 4).map (fun k => (F.AUD_DROPS k).off) ++ catchRegs)) ∧
  (∀ (s : State) (n t : Nat), s.ready = true → (n, t) ∈ s.dev.ledg.mismatch → s.reached (t + 250000) = true → n < 32 →
    s.fenced n = false →
    Completes (.unitStuck n) s fun u => u.unitState n = 4 ∧ u.fenced n = true ∧ u.fld (F.BENCH_FENCE_CODE n) = 0xE004 ∧
      s.dev.log.count < u.dev.log.count) ∧
  (∀ (s : State) (p : Path) (k : Nat) (v : Word), k < 4 → s.reach p (F.CATCH_RPOS k).off = true → ownsRpos k p = true →
    Completes (.catchRposWrite p k v) s fun u => u.fld (F.CATCH_RPOS k) = s.clampPos v ∧ (k = 0 ∨ u.dev = s.dev) ∧
      OnlyRegs s u [(F.CATCH_RPOS k).off, 0x38000]) ∧
  (∀ (s : State) (p : Path) (k : Nat) (v : Word), k < 4 → s.reach p (F.CATCH_RPOS k).off = true → ownsRpos k p = false →
    (∀ n, p ≠ .vf n) →
    Completes (.catchRposWrite p k v) s fun u => Counted s u F.GEN_BAD_ACCESS_COUNT ∧ OnlyRegs s u [F.GEN_BAD_ACCESS_COUNT.off])
end

