-- ==== Sys2Proof/Laws/Bits.lean ====
section
/-!
SUPPORT. Sys2Proof/Laws/Bits.lean: reading and replacing bit fields of numbers.
-/
namespace Sys2Proof

theorem testBit_bitsOf (n lo w i : Nat) : (bitsOf n lo w).testBit i = (decide (i < w) && n.testBit (lo + i)) := by
  simp [bitsOf, Nat.testBit_mod_two_pow, Nat.testBit_div_two_pow, Nat.add_comm]

theorem bitsOf_lt (n lo w : Nat) : bitsOf n lo w < 2 ^ w := Nat.mod_lt _ (by positivity)

/-- A number cut into the bits above a field, the field, and the bits below it. -/
theorem split_bits (n lo w : Nat) :
    n = 2 ^ lo * (2 ^ w * (n / 2 ^ (lo + w)) + bitsOf n lo w) + n % 2 ^ lo := by
  have h1 := Nat.div_add_mod (n / 2 ^ lo) (2 ^ w)
  rw [Nat.div_div_eq_div_mul, ← pow_add] at h1
  have h2 := Nat.div_add_mod n (2 ^ lo)
  rw [bitsOf, h1, h2]

theorem setBits_eq (n lo w v : Nat) :
    setBits n lo w v = 2 ^ lo * (2 ^ w * (n / 2 ^ (lo + w)) + v % 2 ^ w) + n % 2 ^ lo := by
  have h := split_bits n lo w
  unfold setBits
  have e : 2 ^ lo * (2 ^ w * (n / 2 ^ (lo + w)) + bitsOf n lo w) =
      2 ^ lo * (2 ^ w * (n / 2 ^ (lo + w))) + bitsOf n lo w * 2 ^ lo := by ring
  have e' : 2 ^ lo * (2 ^ w * (n / 2 ^ (lo + w)) + v % 2 ^ w) =
      2 ^ lo * (2 ^ w * (n / 2 ^ (lo + w))) + v % 2 ^ w * 2 ^ lo := by ring
  rw [e] at h
  rw [e']
  omega

theorem testBit_setBits (n lo w v i : Nat) :
    (setBits n lo w v).testBit i = if lo ≤ i ∧ i < lo + w then v.testBit (i - lo) else n.testBit i := by
  rw [setBits_eq, Nat.testBit_two_pow_mul_add _ (Nat.mod_lt _ (by positivity)),
    Nat.testBit_two_pow_mul_add _ (Nat.mod_lt _ (by positivity))]
  by_cases h : i < lo
  · simp [h, Nat.testBit_mod_two_pow, Nat.not_le.mpr h]
  · by_cases h2 : i - lo < w
    · have : lo ≤ i ∧ i < lo + w := by omega
      simp [h, h2, this, Nat.testBit_mod_two_pow]
    · have : ¬(lo ≤ i ∧ i < lo + w) := by omega
      simp only [h, h2, this, if_false, Nat.testBit_div_two_pow]
      congr 1; omega

@[simp] theorem bitsOf_setBits_same (n lo w v : Nat) : bitsOf (setBits n lo w v) lo w = v % 2 ^ w := by
  apply Nat.eq_of_testBit_eq
  intro i
  rw [testBit_bitsOf, testBit_setBits, Nat.testBit_mod_two_pow]
  by_cases h : i < w <;> simp [h]

theorem bitsOf_setBits_other (n lo w v lo' w' : Nat) (h : lo' + w' ≤ lo ∨ lo + w ≤ lo') :
    bitsOf (setBits n lo w v) lo' w' = bitsOf n lo' w' := by
  apply Nat.eq_of_testBit_eq
  intro i
  rw [testBit_bitsOf, testBit_bitsOf, testBit_setBits]
  by_cases hi : i < w'
  · have : ¬(lo ≤ lo' + i ∧ lo' + i < lo + w) := by omega
    simp [hi, this]
  · simp [hi]

/-- Cutting a number to 32 bits leaves the fields of a register word. -/
@[simp] theorem bitsOf_word (n lo w : Nat) (h : lo + w ≤ 32) : bitsOf (BitVec.ofNat 32 n).toNat lo w = bitsOf n lo w := by
  apply Nat.eq_of_testBit_eq
  intro i
  rw [testBit_bitsOf, testBit_bitsOf, BitVec.toNat_ofNat, Nat.testBit_mod_two_pow]
  by_cases hi : i < w
  · have : lo + i < 32 := by omega
    simp [hi, this]
  · simp [hi]

@[simp] theorem toBytes_length (n v : Nat) : (toBytes n v).length = n := by
  induction n generalizing v with
  | zero => rfl
  | succ n ih => simp [toBytes, ih]

theorem ofBytes_toBytes (n v : Nat) : ofBytes (toBytes n v) = v % 2 ^ (8 * n) := by
  induction n generalizing v with
  | zero => simp [toBytes, ofBytes, Nat.mod_one]
  | succ n ih =>
    have h : 2 ^ (8 * (n + 1)) = 256 * 2 ^ (8 * n) := by rw [Nat.mul_succ, pow_add]; ring
    rw [toBytes, ofBytes, ih, h, Nat.mod_mul]
    simp [Nat.mod_eq_of_lt (Nat.mod_lt v (by norm_num : 0 < 256))]

end Sys2Proof
end

