-- ==== Sys2Proof/Laws/Sparse.lean ====
section
/-!
SUPPORT. Sys2Proof/Laws/Sparse.lean: reading after writing in sparse data and memories, and the canonical form, which every
operation on them keeps.
-/
namespace Sys2Proof.Machine

/-! ## Reading after writing -/

@[simp] theorem Sparse.get_nil {α : Type} (d : Nat → α) (k : Nat) : Sparse.get d [] k = d k := rfl

theorem Sparse.get_filter_same {α : Type} (d : Nat → α) (l : Sparse α) (k : Nat) :
    Sparse.get d (l.filter fun p => !(p.1 == k)) k = d k := by
  induction l with
  | nil => rfl
  | cons p t ih =>
    obtain ⟨a, w⟩ := p
    by_cases h : a = k
    · simp [h, ih]
    · simp [h, Sparse.get, ih]

theorem Sparse.get_filter_other {α : Type} (d : Nat → α) (f : Nat × α → Bool) (l : Sparse α) (k : Nat)
    (hf : ∀ w, f (k, w) = true) : Sparse.get d (l.filter f) k = Sparse.get d l k := by
  induction l with
  | nil => rfl
  | cons p t ih =>
    obtain ⟨a, w⟩ := p
    by_cases h : a = k
    · subst h; simp [hf, Sparse.get]
    · cases hp : f (a, w) <;> simp [hp, Sparse.get, h, ih]

theorem Sparse.get_place_same {α : Type} (d : Nat → α) (l : Sparse α) (k : Nat) (v : α) (h : ∀ p ∈ l, p.1 ≠ k) :
    Sparse.get d (Sparse.place l k v) k = v := by
  induction l with
  | nil => simp [Sparse.place, Sparse.get]
  | cons p t ih =>
    obtain ⟨a, w⟩ := p
    have ha : a ≠ k := h (a, w) (by simp)
    have ht := ih fun p hp => h p (by simp [hp])
    by_cases hk : k < a <;> simp [Sparse.place, hk, Sparse.get, ha, ht]

theorem Sparse.get_place_other {α : Type} (d : Nat → α) (l : Sparse α) (k j : Nat) (v : α) (h : j ≠ k) :
    Sparse.get d (Sparse.place l k v) j = Sparse.get d l j := by
  induction l with
  | nil => simp [Sparse.place, Sparse.get, h.symm]
  | cons p t ih =>
    obtain ⟨a, w⟩ := p
    by_cases hk : k < a <;> simp [Sparse.place, hk, Sparse.get, ih, h.symm]

@[simp] theorem Sparse.get_put_same {α : Type} [DecidableEq α] (d : Nat → α) (l : Sparse α) (k : Nat) (v : α) :
    Sparse.get d (Sparse.put d l k v) k = v := by
  unfold Sparse.put
  by_cases h : v = d k
  · simp [h, Sparse.get_filter_same]
  · simp only [h, if_false]
    exact Sparse.get_place_same d _ k v fun p hp => by simpa using (List.mem_filter.mp hp).2

theorem Sparse.get_put_other {α : Type} [DecidableEq α] (d : Nat → α) (l : Sparse α) (k j : Nat) (v : α) (h : j ≠ k) :
    Sparse.get d (Sparse.put d l k v) j = Sparse.get d l j := by
  have hf : Sparse.get d (l.filter fun p => !(p.1 == k)) j = Sparse.get d l j :=
    Sparse.get_filter_other d _ l j fun w => by simp [h]
  unfold Sparse.put
  by_cases hv : v = d k
  · simp [hv, hf]
  · simp only [hv, if_false, Sparse.get_place_other d _ k j v h, hf]

theorem Sparse.get_put {α : Type} [DecidableEq α] (d : Nat → α) (l : Sparse α) (k j : Nat) (v : α) :
    Sparse.get d (Sparse.put d l k v) j = if j = k then v else Sparse.get d l j := by
  by_cases h : j = k
  · subst h; simp
  · simp [h, Sparse.get_put_other]

theorem Sparse.get_clear_other {α : Type} (d : Nat → α) (lo hi : Nat) (l : Sparse α) (k : Nat) (h : k < lo ∨ hi ≤ k) :
    Sparse.get d (Sparse.clear lo hi l) k = Sparse.get d l k :=
  Sparse.get_filter_other d _ l k fun w => by
    rcases h with h | h
    · simp [Nat.not_le.mpr h]
    · simp [Nat.not_lt.mpr h]

theorem Sparse.get_clear_in {α : Type} (d : Nat → α) (lo hi : Nat) (l : Sparse α) (k : Nat) (h1 : lo ≤ k) (h2 : k < hi) :
    Sparse.get d (Sparse.clear lo hi l) k = d k := by
  unfold Sparse.clear
  induction l with
  | nil => rfl
  | cons p t ih =>
    obtain ⟨a, w⟩ := p
    by_cases hp : lo ≤ a ∧ a < hi
    · rw [List.filter_cons_of_neg (by simp [hp.1, hp.2])]
      exact ih
    · have : (!(decide (lo ≤ a) && decide (a < hi))) = true := by
        rcases not_and_or.mp hp with h | h <;> simp [h]
      have ha : a ≠ k := fun e => hp (e ▸ ⟨h1, h2⟩)
      rw [List.filter_cons_of_pos (by simpa using this), Sparse.get, if_neg ha]
      exact ih

/-! ## The canonical form -/

theorem Sparse.risesFrom_mono {α : Type} {lo lo' : Nat} {l : Sparse α} (h : lo' ≤ lo) (w : Sparse.risesFrom lo l = true) :
    Sparse.risesFrom lo' l = true := by
  cases l with
  | nil => rfl
  | cons p t =>
    obtain ⟨a, v⟩ := p
    simp only [Sparse.risesFrom, Bool.and_eq_true, decide_eq_true_eq] at w ⊢
    exact ⟨by omega, w.2⟩

theorem Sparse.risesFrom_filter {α : Type} (f : Nat × α → Bool) {lo : Nat} {l : Sparse α}
    (w : Sparse.risesFrom lo l = true) : Sparse.risesFrom lo (l.filter f) = true := by
  induction l generalizing lo with
  | nil => rfl
  | cons p t ih =>
    obtain ⟨a, v⟩ := p
    simp only [Sparse.risesFrom, Bool.and_eq_true, decide_eq_true_eq] at w
    have ht := ih w.2
    cases hf : f (a, v)
    · simpa [hf] using Sparse.risesFrom_mono (by omega) ht
    · simpa [hf, Sparse.risesFrom] using ⟨w.1, ht⟩

theorem Sparse.risesFrom_mapVals {α : Type} [DecidableEq α] {d : Nat → α} (f : Nat → α → α) {lo : Nat} {l : Sparse α}
    (w : Sparse.risesFrom lo l = true) : Sparse.risesFrom lo (Sparse.mapVals d f l) = true := by
  induction l generalizing lo with
  | nil => rfl
  | cons p t ih =>
    obtain ⟨a, v⟩ := p
    simp only [Sparse.risesFrom, Bool.and_eq_true, decide_eq_true_eq] at w
    simp only [Sparse.mapVals]
    split
    · exact Sparse.risesFrom_filter _ (Sparse.risesFrom_mono (by omega) (ih w.2))
    · simpa [Sparse.risesFrom] using ⟨w.1, ih w.2⟩

/-- No value that a change has left is the default. -/
theorem Sparse.mem_mapVals {α : Type} [DecidableEq α] {d : Nat → α} {f : Nat → α → α} {l : Sparse α} {p : Nat × α}
    (h : p ∈ Sparse.mapVals d f l) : p.2 ≠ d p.1 := by
  induction l with
  | nil => cases h
  | cons q t ih =>
    simp only [Sparse.mapVals] at h
    split at h
    · exact ih (List.mem_filter.mp h).1
    · rename_i hne
      rcases List.mem_cons.mp h with rfl | h
      · exact hne
      · exact ih h

theorem Sparse.risesFrom_place {α : Type} {lo k : Nat} (v : α) {l : Sparse α} (hlo : lo ≤ k)
    (hne : ∀ p ∈ l, p.1 ≠ k) (w : Sparse.risesFrom lo l = true) : Sparse.risesFrom lo (Sparse.place l k v) = true := by
  induction l generalizing lo with
  | nil => simpa [Sparse.place, Sparse.risesFrom] using hlo
  | cons p t ih =>
    obtain ⟨a, u⟩ := p
    simp only [Sparse.risesFrom, Bool.and_eq_true, decide_eq_true_eq] at w
    by_cases hk : k < a
    · simp [Sparse.place, hk, Sparse.risesFrom, hlo, w.2]
    · have ha : a ≠ k := hne (a, u) (by simp)
      have := ih (lo := a + 1) (by omega) (fun p hp => hne p (by simp [hp])) w.2
      simpa [Sparse.place, hk, Sparse.risesFrom] using ⟨w.1, this⟩

theorem Sparse.mem_place {α : Type} {l : Sparse α} {k : Nat} {v : α} {p : Nat × α} (h : p ∈ Sparse.place l k v) :
    p = (k, v) ∨ p ∈ l := by
  induction l with
  | nil => simpa [Sparse.place] using h
  | cons q t ih =>
    obtain ⟨a, w⟩ := q
    by_cases hk : k < a
    · simpa [Sparse.place, hk] using h
    · simp only [Sparse.place, hk, if_false, List.mem_cons] at h
      rcases h with h | h
      · exact .inr (by simp [h])
      · rcases ih h with h | h
        · exact .inl h
        · exact .inr (by simp [h])

theorem Sparse.wf_put {α : Type} [DecidableEq α] {d : Nat → α} {l : Sparse α} (k : Nat) (v : α)
    (w : Sparse.wf d l = true) : Sparse.wf d (Sparse.put d l k v) = true := by
  simp only [Sparse.wf, Bool.and_eq_true, List.all_eq_true] at w ⊢
  have hr := Sparse.risesFrom_filter (fun p => !(p.1 == k)) w.1
  have hm : ∀ p ∈ l.filter (fun p => !(p.1 == k)), (!decide (p.2 = d p.1)) = true :=
    fun p hp => w.2 p (List.mem_filter.mp hp).1
  unfold Sparse.put
  by_cases hv : v = d k
  · simp only [hv, if_true]
    exact ⟨hr, hm⟩
  · simp only [hv, if_false]
    refine ⟨Sparse.risesFrom_place v (Nat.zero_le k) (fun p hp => by simpa using (List.mem_filter.mp hp).2) hr, ?_⟩
    intro p hp
    rcases Sparse.mem_place hp with rfl | hp
    · simpa using hv
    · exact hm p hp

theorem Sparse.wf_clear {α : Type} [DecidableEq α] {d : Nat → α} {l : Sparse α} (lo hi : Nat)
    (w : Sparse.wf d l = true) : Sparse.wf d (Sparse.clear lo hi l) = true := by
  simp only [Sparse.wf, Bool.and_eq_true, List.all_eq_true] at w ⊢
  exact ⟨Sparse.risesFrom_filter _ w.1, fun p hp => w.2 p (List.mem_filter.mp hp).1⟩

theorem Sparse.wf_mapVals {α : Type} [DecidableEq α] {d : Nat → α} {l : Sparse α} (f : Nat → α → α)
    (w : Sparse.wf d l = true) : Sparse.wf d (Sparse.mapVals d f l) = true := by
  simp only [Sparse.wf, Bool.and_eq_true, List.all_eq_true] at w ⊢
  exact ⟨Sparse.risesFrom_mapVals f w.1, fun p hp => by simpa using Sparse.mem_mapVals hp⟩

/-- A change that leaves defaults alone changes what every key reads as. -/
theorem Sparse.get_mapVals {α : Type} [DecidableEq α] (d : Nat → α) (f : Nat → α → α) (l : Sparse α) (k : Nat)
    (h : f k (d k) = d k) : Sparse.get d (Sparse.mapVals d f l) k = f k (Sparse.get d l k) := by
  induction l with
  | nil => exact h.symm
  | cons p t ih =>
    obtain ⟨a, v⟩ := p
    simp only [Sparse.mapVals]
    by_cases e : a = k
    · subst e
      split
      · rename_i hv; simpa [Sparse.get, hv] using Sparse.get_filter_same d (Sparse.mapVals d f t) a
      · simp [Sparse.get]
    · split
      · rw [Sparse.get_filter_other _ _ _ _ fun w => by simp [Ne.symm e]]; simpa [Sparse.get, e] using ih
      · simpa [Sparse.get, e] using ih

/-! ## Memories -/

theorem Memory.wf_writes {m : Memory} (a : Nat) (bs : List Byte) (w : m.wf = true) : (m.writes a bs).wf = true := by
  induction bs generalizing m a with
  | nil => exact w
  | cons b bs ih => exact ih (a + 1) (Sparse.wf_put a b w)

theorem Memory.read_write (m : Memory) (a b : Nat) (v : Byte) : (m.write a v).read b = if b = a then v else m.read b :=
  Sparse.get_put _ m a b v

/-- A run of bytes that is stored leaves every other byte as it was. -/
theorem Memory.read_writes_other (m : Memory) (a b : Nat) (bs : List Byte) (h : b < a ∨ a + bs.length ≤ b) :
    (m.writes a bs).read b = m.read b := by
  induction bs generalizing m a with
  | nil => rfl
  | cons v bs ih =>
    simp only [List.length_cons] at h
    rw [Memory.writes, ih (m.write a v) (a + 1) (by omega), Memory.read_write, if_neg (by omega)]

/-- A byte of a run that has been stored reads as stored. -/
theorem Memory.read_writes_in (m : Memory) (a i : Nat) (bs : List Byte) (h : i < bs.length) :
    (m.writes a bs).read (a + i) = bs[i] := by
  induction bs generalizing m a i with
  | nil => simp at h
  | cons v bs ih =>
    cases i with
    | zero => rw [Memory.writes, Memory.read_writes_other _ _ _ _ (by omega), Memory.read_write]; simp
    | succ i =>
      have := ih (m.write a v) (a + 1) i (by simpa using h)
      simpa [Memory.writes, Nat.add_assoc, Nat.add_comm 1 i] using this

theorem Memory.reads_writes (m : Memory) (a : Nat) (bs : List Byte) : (m.writes a bs).reads a bs.length = bs := by
  have key : ∀ (n i : Nat), i + n = bs.length → (m.writes a bs).reads (a + i) n = bs.drop i := by
    intro n
    induction n with
    | zero => intro i h; simp [Memory.reads, List.drop_eq_nil_of_le (show bs.length ≤ i by omega)]
    | succ n ih =>
      intro i h
      rw [Memory.reads, Memory.read_writes_in m a i bs (by omega), Nat.add_assoc, ih (i + 1) (by omega),
        List.drop_eq_getElem_cons (by omega : i < bs.length)]
  simpa using key bs.length 0 (by omega)

/-- Zero-filling a range leaves every byte outside it as it was. -/
theorem Memory.read_clear_other (m : Memory) (lo hi b : Nat) (h : b < lo ∨ hi ≤ b) :
    Memory.read (Sparse.clear lo hi m) b = m.read b := Sparse.get_clear_other _ lo hi m b h

theorem Memory.read_clear_in (m : Memory) (lo hi b : Nat) (h1 : lo ≤ b) (h2 : b < hi) :
    Memory.read (Sparse.clear lo hi m) b = 0 := Sparse.get_clear_in _ lo hi m b h1 h2

end Sys2Proof.Machine
end

