-- ==== Sys2Proof/Laws/State.lean ====
section
/-!
SUPPORT. Sys2Proof/Laws/State.lean: each field of the state after each act and after `withPending`, and the words and fields of
the register file after a write.
-/
namespace Sys2Proof.Machine

/-! ## Each field after each act -/

@[simp] theorem Act.dev_dev (s : State) (f : Dev → Dev) : ((Act.dev f).apply s).dev = f s.dev := rfl
@[simp] theorem Act.dev_regs (s : State) (f : Dev → Dev) : ((Act.dev f).apply s).regs = s.regs := rfl
@[simp] theorem Act.dev_mem (s : State) (f : Dev → Dev) : ((Act.dev f).apply s).mem = s.mem := rfl
@[simp] theorem Act.dev_host (s : State) (f : Dev → Dev) : ((Act.dev f).apply s).host = s.host := rfl
@[simp] theorem Act.dev_free (s : State) (f : Dev → Dev) : ((Act.dev f).apply s).free = s.free := rfl
@[simp] theorem Act.dev_pending (s : State) (f : Dev → Dev) : ((Act.dev f).apply s).pending = s.pending := rfl

@[simp] theorem Act.reg_dev (s : State) (off : Nat) (v : Word) : ((Act.reg off v).apply s).dev = s.dev := rfl
@[simp] theorem Act.reg_regs (s : State) (off : Nat) (v : Word) : ((Act.reg off v).apply s).regs = Sparse.put RegMap.resetWord s.regs off v := rfl
@[simp] theorem Act.reg_mem (s : State) (off : Nat) (v : Word) : ((Act.reg off v).apply s).mem = s.mem := rfl
@[simp] theorem Act.reg_host (s : State) (off : Nat) (v : Word) : ((Act.reg off v).apply s).host = s.host := rfl
@[simp] theorem Act.reg_free (s : State) (off : Nat) (v : Word) : ((Act.reg off v).apply s).free = s.free := rfl
@[simp] theorem Act.reg_pending (s : State) (off : Nat) (v : Word) : ((Act.reg off v).apply s).pending = s.pending := rfl

@[simp] theorem Act.lose_dev (s : State) (keep : Nat → FieldSpec → Bool) : ((Act.lose keep).apply s).dev = s.dev := rfl
@[simp] theorem Act.lose_regs (s : State) (keep : Nat → FieldSpec → Bool) : ((Act.lose keep).apply s).regs = Sparse.mapVals RegMap.resetWord (loseWord keep) s.regs := rfl
@[simp] theorem Act.lose_mem (s : State) (keep : Nat → FieldSpec → Bool) : ((Act.lose keep).apply s).mem = s.mem := rfl
@[simp] theorem Act.lose_host (s : State) (keep : Nat → FieldSpec → Bool) : ((Act.lose keep).apply s).host = s.host := rfl
@[simp] theorem Act.lose_free (s : State) (keep : Nat → FieldSpec → Bool) : ((Act.lose keep).apply s).free = s.free := rfl
@[simp] theorem Act.lose_pending (s : State) (keep : Nat → FieldSpec → Bool) : ((Act.lose keep).apply s).pending = s.pending := rfl

@[simp] theorem Act.bytes_dev (s : State) (a : Nat) (bs : List Byte) : ((Act.bytes a bs).apply s).dev = s.dev := rfl
@[simp] theorem Act.bytes_regs (s : State) (a : Nat) (bs : List Byte) : ((Act.bytes a bs).apply s).regs = s.regs := rfl
@[simp] theorem Act.bytes_mem (s : State) (a : Nat) (bs : List Byte) : ((Act.bytes a bs).apply s).mem = s.mem.writes a bs := rfl
@[simp] theorem Act.bytes_host (s : State) (a : Nat) (bs : List Byte) : ((Act.bytes a bs).apply s).host = s.host := rfl
@[simp] theorem Act.bytes_free (s : State) (a : Nat) (bs : List Byte) : ((Act.bytes a bs).apply s).free = s.free := rfl
@[simp] theorem Act.bytes_pending (s : State) (a : Nat) (bs : List Byte) : ((Act.bytes a bs).apply s).pending = s.pending := rfl

@[simp] theorem Act.zero_dev (s : State) (lo hi : Nat) : ((Act.zero lo hi).apply s).dev = s.dev := rfl
@[simp] theorem Act.zero_regs (s : State) (lo hi : Nat) : ((Act.zero lo hi).apply s).regs = s.regs := rfl
@[simp] theorem Act.zero_mem (s : State) (lo hi : Nat) : ((Act.zero lo hi).apply s).mem = Sparse.clear lo hi s.mem := rfl
@[simp] theorem Act.zero_host (s : State) (lo hi : Nat) : ((Act.zero lo hi).apply s).host = s.host := rfl
@[simp] theorem Act.zero_free (s : State) (lo hi : Nat) : ((Act.zero lo hi).apply s).free = s.free := rfl
@[simp] theorem Act.zero_pending (s : State) (lo hi : Nat) : ((Act.zero lo hi).apply s).pending = s.pending := rfl

@[simp] theorem Act.hostBytes_dev (s : State) (a : Nat) (bs : List Byte) : ((Act.hostBytes a bs).apply s).dev = s.dev := rfl
@[simp] theorem Act.hostBytes_regs (s : State) (a : Nat) (bs : List Byte) : ((Act.hostBytes a bs).apply s).regs = s.regs := rfl
@[simp] theorem Act.hostBytes_mem (s : State) (a : Nat) (bs : List Byte) : ((Act.hostBytes a bs).apply s).mem = s.mem := rfl
@[simp] theorem Act.hostBytes_host (s : State) (a : Nat) (bs : List Byte) : ((Act.hostBytes a bs).apply s).host = s.host.writes a bs := rfl
@[simp] theorem Act.hostBytes_free (s : State) (a : Nat) (bs : List Byte) : ((Act.hostBytes a bs).apply s).free = s.free := rfl
@[simp] theorem Act.hostBytes_pending (s : State) (a : Nat) (bs : List Byte) : ((Act.hostBytes a bs).apply s).pending = s.pending := rfl

@[simp] theorem Act.draw_dev (s : State) : ((Act.draw).apply s).dev = s.dev := rfl
@[simp] theorem Act.draw_regs (s : State) : ((Act.draw).apply s).regs = s.regs := rfl
@[simp] theorem Act.draw_mem (s : State) : ((Act.draw).apply s).mem = s.mem := rfl
@[simp] theorem Act.draw_host (s : State) : ((Act.draw).apply s).host = s.host := rfl
@[simp] theorem Act.draw_free (s : State) : ((Act.draw).apply s).free = s.free + 1 := rfl
@[simp] theorem Act.draw_pending (s : State) : ((Act.draw).apply s).pending = s.pending := rfl

/-! ## Each field after `withPending` -/

@[simp] theorem State.withPending_dev (s : State) (l : List Instr) : (s.withPending l).dev = s.dev := rfl
@[simp] theorem State.withPending_regs (s : State) (l : List Instr) : (s.withPending l).regs = s.regs := rfl
@[simp] theorem State.withPending_mem (s : State) (l : List Instr) : (s.withPending l).mem = s.mem := rfl
@[simp] theorem State.withPending_host (s : State) (l : List Instr) : (s.withPending l).host = s.host := rfl
@[simp] theorem State.withPending_free (s : State) (l : List Instr) : (s.withPending l).free = s.free := rfl
@[simp] theorem State.withPending_pending (s : State) (l : List Instr) : (s.withPending l).pending = l := rfl

/-! ## The register file -/

/-- A register's word depends on the register file alone. -/
theorem State.word_of_regs {s t : State} (h : t.regs = s.regs) (off : Nat) : t.word off = s.word off := by
  simp [State.word, h]

theorem State.fld_of_word {s t : State} {f : Fld} (h : t.word f.off = s.word f.off) : t.fld f = s.fld f := by
  simp [State.fld, h]

@[simp] theorem State.word_reg (s : State) (off : Nat) (v : Word) (o : Nat) :
    ((Act.reg off v).apply s).word o = if o = off then v else s.word o := by
  simp [State.word, Sparse.get_put]

@[simp] theorem State.word_dev (s : State) (f : Dev → Dev) (o : Nat) : ((Act.dev f).apply s).word o = s.word o := rfl
@[simp] theorem State.word_bytes (s : State) (a : Nat) (bs : List Byte) (o : Nat) :
    ((Act.bytes a bs).apply s).word o = s.word o := rfl
@[simp] theorem State.word_zero (s : State) (lo hi o : Nat) : ((Act.zero lo hi).apply s).word o = s.word o := rfl
@[simp] theorem State.word_hostBytes (s : State) (a : Nat) (bs : List Byte) (o : Nat) :
    ((Act.hostBytes a bs).apply s).word o = s.word o := rfl
@[simp] theorem State.word_draw (s : State) (o : Nat) : (Act.draw.apply s).word o = s.word o := rfl
@[simp] theorem State.word_withPending (s : State) (l : List Instr) (o : Nat) : (s.withPending l).word o = s.word o := rfl
@[simp] theorem State.fld_withPending (s : State) (l : List Instr) (f : Fld) : (s.withPending l).fld f = s.fld f := rfl

end Sys2Proof.Machine
end

