-- ==== Sys2Proof/Laws/Prog.lean ====
section
/-!
SUPPORT. Sys2Proof/Laws/Prog.lean: what running a program of acts does: the equations of each combinator, what every program
leaves as it is, the acts that a program may take, and what follows from them for registers, memory and the rest.
-/
namespace Sys2Proof.Machine

/-! ## Running -/

@[simp] theorem Prog.run_nop (s : State) : Prog.nop.run s = s := rfl
@[simp] theorem Prog.run_act (a : Act) (s : State) : (Prog.act a).run s = a.apply s := rfl
@[simp] theorem Prog.run_seq (p q : Prog) (s : State) : (Prog.seq p q).run s = q.run (p.run s) := rfl
@[simp] theorem Prog.run_look (f : State → Prog) (s : State) : (look f).run s = (f s).run s := rfl
@[simp] theorem Prog.run_all_nil (s : State) : (all []).run s = s := rfl
@[simp] theorem Prog.run_all_cons (p : Prog) (ps : List Prog) (s : State) :
    (all (p :: ps)).run s = (all ps).run (p.run s) := rfl
@[simp] theorem Prog.run_when (c : Bool) (p : Prog) (s : State) : (when c p).run s = if c then p.run s else s := by
  cases c <;> rfl
@[simp] theorem Prog.run_each_nil {α : Type} (f : α → Prog) (s : State) : (each [] f).run s = s := rfl
@[simp] theorem Prog.run_each_cons {α : Type} (a : α) (l : List α) (f : α → Prog) (s : State) :
    (each (a :: l) f).run s = (each l f).run ((f a).run s) := rfl
theorem Prog.run_all_append (l k : List Prog) (s : State) : (all (l ++ k)).run s = (all k).run ((all l).run s) := by
  induction l generalizing s with
  | nil => rfl
  | cons p l ih => simp [ih]
@[simp] theorem Prog.run_modDev (f : Dev → Dev) (s : State) : (modDev f).run s = { s with dev := f s.dev } := rfl
@[simp] theorem Prog.run_setWord (off v : Nat) (s : State) :
    (setWord off v).run s = (Act.reg off (BitVec.ofNat 32 v)).apply s := rfl

/-- A command whose effect is a program always goes on. -/
@[simp] theorem done_eq (p : Prog) (s : State) : done p s = .next (p.run s) := rfl
theorem done_next {p : Prog} {s t : State} : done p s = .next t ↔ p.run s = t := by simp

/-! ## Relations that every act keeps -/

/-- A reflexive and transitive relation that every act of a kind keeps is kept by every program of such acts. -/
def Prog.Only (P : Act → Prop) : Prog → Prop
  | .nop => True
  | .act a => P a
  | .seq p q => p.Only P ∧ q.Only P
  | .look f => ∀ s, (f s).Only P

theorem Prog.Only.run {P : Act → Prop} {R : State → State → Prop} (refl : ∀ s, R s s)
    (trans : ∀ {a b c}, R a b → R b c → R a c) (step : ∀ a s, P a → R s (a.apply s)) {p : Prog} (h : p.Only P) (s : State) :
    R s (p.run s) := by
  induction p generalizing s with
  | nop => exact refl s
  | act a => exact step a s h
  | seq p q ihp ihq => exact trans (ihp h.1 s) (ihq h.2 (p.run s))
  | look f ih => exact ih s (h s) s

theorem Prog.only_true (p : Prog) : p.Only fun _ => True := by
  induction p with
  | nop => trivial
  | act a => trivial
  | seq p q ihp ihq => exact ⟨ihp, ihq⟩
  | look f ih => exact fun s => ih s

/-! ## What every program keeps -/

/-- No program touches the queue of commands. -/
@[simp] theorem Prog.run_pending (p : Prog) (s : State) : (p.run s).pending = s.pending :=
  (Prog.Only.run (R := fun s t => t.pending = s.pending) (fun _ => rfl) (fun h k => k.trans h)
    (fun a s _ => by cases a <;> rfl) p.only_true s)

theorem Act.canonical {a : Act} {s : State} (h : s.canonical = true) : (a.apply s).canonical = true := by
  simp only [State.canonical, Bool.and_eq_true] at h ⊢
  obtain ⟨⟨hr, hm⟩, hh⟩ := h
  cases a with
  | dev f => exact ⟨⟨hr, hm⟩, hh⟩
  | reg off v => exact ⟨⟨Sparse.wf_put off v hr, hm⟩, hh⟩
  | lose keep => exact ⟨⟨Sparse.wf_mapVals _ hr, hm⟩, hh⟩
  | bytes a bs => exact ⟨⟨hr, Memory.wf_writes a bs hm⟩, hh⟩
  | zero lo hi => exact ⟨⟨hr, Sparse.wf_clear lo hi hm⟩, hh⟩
  | hostBytes a bs => exact ⟨⟨hr, hm⟩, Memory.wf_writes a bs hh⟩
  | draw => exact ⟨⟨hr, hm⟩, hh⟩

/-- Every program keeps the canonical form of registers and memories. -/
theorem Prog.run_canonical (p : Prog) {s : State} (h : s.canonical = true) : (p.run s).canonical = true :=
  (Prog.Only.run (R := fun s t => s.canonical = true → t.canonical = true) (fun _ h => h) (fun h k e => k (h e))
    (fun _ _ _ => Act.canonical) p.only_true s) h

/-- Free values are used up, never given back. -/
theorem Prog.run_free_le (p : Prog) (s : State) : s.free ≤ (p.run s).free :=
  Prog.Only.run (R := fun s t => s.free ≤ t.free) (fun _ => le_refl _) (fun h k => le_trans h k)
    (fun a s _ => by cases a <;> simp) p.only_true s

/-! ## The acts of the combinators -/

section
variable {P : Act → Prop}

@[simp] theorem Prog.only_nop : Prog.nop.Only P := trivial
@[simp] theorem Prog.only_act {a : Act} : (Prog.act a).Only P ↔ P a := Iff.rfl
@[simp] theorem Prog.only_seq {p q : Prog} : (Prog.seq p q).Only P ↔ p.Only P ∧ q.Only P := Iff.rfl
@[simp] theorem Prog.only_look {f : State → Prog} : (look f).Only P ↔ ∀ s, (f s).Only P := Iff.rfl
@[simp] theorem Prog.only_all_nil : (all []).Only P := trivial
@[simp] theorem Prog.only_all_cons {p : Prog} {l : List Prog} : (all (p :: l)).Only P ↔ p.Only P ∧ (all l).Only P := Iff.rfl
theorem Prog.only_all {l : List Prog} : (all l).Only P ↔ ∀ p ∈ l, p.Only P := by
  induction l with
  | nil => simp
  | cons p l ih => simp [ih]
@[simp] theorem Prog.only_when {c : Bool} {p : Prog} : (when c p).Only P ↔ (c = true → p.Only P) := by
  cases c <;> simp [when]
@[simp] theorem Prog.only_each {α : Type} {l : List α} {f : α → Prog} : (each l f).Only P ↔ ∀ a ∈ l, (f a).Only P := by
  simp [each, Prog.only_all]
@[simp] theorem Prog.only_modDev {f : Dev → Dev} : (modDev f).Only P ↔ P (.dev f) := Iff.rfl
@[simp] theorem Prog.only_setWord {off v : Nat} : (setWord off v).Only P ↔ P (.reg off (BitVec.ofNat 32 v)) := Iff.rfl

theorem Prog.only_setF {f : Fld} {v : Nat} (h : ∀ w, P (.reg f.off w)) : (setF f v).Only P := fun _ => h _
theorem Prog.only_setB {f : Fld} {b : Bool} (h : ∀ w, P (.reg f.off w)) : (setB f b).Only P := Prog.only_setF h
theorem Prog.only_addF {f : Fld} {n : Nat} (h : ∀ w, P (.reg f.off w)) : (addF f n).Only P := fun _ => Prog.only_setF h
theorem Prog.only_incF {f : Fld} (h : ∀ w, P (.reg f.off w)) : (incF f).Only P := Prog.only_addF h

/-- The registers that logging a catch may write: the read positions and loss counts of the paths, and the pending bits of
function 0. -/
def logRegs : List Nat := [0x50010, 0x50014, 0x50018, 0x5001C, 0x50020, 0x50024, 0x50028, 0x5002C, 0x38000]

theorem Prog.only_sendMsix {fn vec : Nat} (hd : ∀ f, P (.dev f)) (hr : ∀ w, P (.reg (msixPba fn vec).off w)) :
    (sendMsix fn vec).Only P := by
  intro s
  show (if _ then _ else _ : Prog).Only P
  split
  · exact Prog.only_setF hr
  · exact hd _

theorem Prog.only_logC {code sev unit : Nat} {ds : List Nat} {st : Option Nat} (hd : ∀ f, P (.dev f))
    (hr : ∀ o ∈ logRegs, ∀ w, P (.reg o w)) : (logC code sev unit ds st).Only P := by
  have raw : ∀ r, (logRaw r).Only P := by
    intro r
    refine ⟨?_, fun _ => hd _, fun _ => Prog.only_when.mpr fun _ => ⟨hd _, Prog.only_sendMsix hd (hr _ (by decide)), trivial⟩, trivial⟩
    refine Prog.only_each.mpr fun k hk _ => Prog.only_when.mpr fun _ => ⟨Prog.only_setF (hr _ ?_), Prog.only_incF (hr _ ?_), hd _, trivial⟩ <;>
    · simp only [catchPaths, List.mem_cons, List.not_mem_nil, or_false] at hk
      rcases hk with rfl | rfl | rfl | rfl <;> decide
  refine ⟨raw _, fun s => ?_, trivial⟩
  exact Prog.only_when.mpr fun _ => ⟨hd _, raw _, trivial⟩

theorem Prog.only_logLim {l : Limit} {id code sev unit : Nat} {ds : List Nat} {st : Option Nat} (hd : ∀ f, P (.dev f))
    (hr : ∀ o ∈ logRegs, ∀ w, P (.reg o w)) : (logLim l id code sev unit ds st).Only P :=
  fun _ => Prog.only_when.mpr fun _ => ⟨hd _, Prog.only_logC hd hr, trivial⟩

theorem Prog.only_drawFree {w : Nat} {f : Nat → Prog} (hd : P .draw) (h : ∀ n, (f n).Only P) : (drawFree w f).Only P :=
  fun _ => ⟨hd, h _⟩

theorem Prog.only_storeBytes {a : Nat} {bs : List Byte} (hd : ∀ f, P (.dev f)) (h : P (.bytes a bs)) : (storeBytes a bs).Only P :=
  ⟨h, hd _, trivial⟩

theorem Prog.only_zeroFill {lo hi : Nat} (hd : ∀ f, P (.dev f)) (h : P (.zero lo hi)) : (zeroFill lo hi).Only P :=
  ⟨h, hd _, trivial⟩

theorem Prog.only_bumpEpoch {u : Nat} (hr : ∀ w, P (.reg (F.LEDG_UNIT_EPOCH u).off w)) : (bumpEpoch u).Only P :=
  fun _ => Prog.only_setF hr

theorem Prog.only_declareUnit {u st : Nat} (hr : ∀ w, P (.reg (F.LEDG_UNIT_EPOCH u).off w)) : (declareUnit u st).Only P :=
  fun _ => Prog.only_when.mpr fun _ => ⟨Prog.only_setF hr, Prog.only_bumpEpoch hr, trivial⟩

end

/-! ## Frames -/

/-- The act does not write the register at an offset. -/
def Act.sparesReg (off : Nat) : Act → Prop
  | .reg o _ => o ≠ off
  | .lose _ => False
  | _ => True

/-- The act leaves the byte of device memory at an address. -/
def Act.sparesByte (b : Nat) : Act → Prop
  | .bytes a bs => b < a ∨ a + bs.length ≤ b
  | .zero lo hi => b < lo ∨ hi ≤ b
  | _ => True

/-- The act leaves all device memory. -/
def Act.sparesMem : Act → Prop
  | .bytes _ _ | .zero _ _ => False
  | _ => True

def Act.sparesHost : Act → Prop
  | .hostBytes _ _ => False
  | _ => True

/-- The act changes nothing but registers and memory. -/
def Act.sparesDev : Act → Prop
  | .dev _ => False
  | _ => True

theorem Prog.Only.word {off : Nat} {p : Prog} (h : p.Only (Act.sparesReg off)) (s : State) : (p.run s).word off = s.word off := by
  refine h.run (R := fun s t => t.word off = s.word off) (fun _ => rfl) (fun h k => k.trans h) (fun a s ha => ?_) s
  cases a with
  | reg o v => simp [State.word, Sparse.get_put_other _ _ _ _ _ (Ne.symm ha)]
  | lose k => exact ha.elim
  | _ => rfl

theorem Prog.Only.fld {f : Fld} {p : Prog} (h : p.Only (Act.sparesReg f.off)) (s : State) : (p.run s).fld f = s.fld f :=
  State.fld_of_word (h.word s)

theorem Prog.Only.byte {b : Nat} {p : Prog} (h : p.Only (Act.sparesByte b)) (s : State) :
    (p.run s).mem.read b = s.mem.read b := by
  refine h.run (R := fun s t => t.mem.read b = s.mem.read b) (fun _ => rfl) (fun h k => k.trans h) (fun a s ha => ?_) s
  cases a with
  | bytes a bs => exact Memory.read_writes_other s.mem a b bs ha
  | zero lo hi => exact Memory.read_clear_other s.mem lo hi b ha
  | _ => rfl

theorem Prog.Only.mem {p : Prog} (h : p.Only Act.sparesMem) (s : State) : (p.run s).mem = s.mem := by
  refine h.run (R := fun s t => t.mem = s.mem) (fun _ => rfl) (fun h k => k.trans h) (fun a s ha => ?_) s
  cases a <;> first | exact ha.elim | rfl

theorem Prog.Only.host {p : Prog} (h : p.Only Act.sparesHost) (s : State) : (p.run s).host = s.host := by
  refine h.run (R := fun s t => t.host = s.host) (fun _ => rfl) (fun h k => k.trans h) (fun a s ha => ?_) s
  cases a <;> first | exact ha.elim | rfl

theorem Prog.Only.dev {p : Prog} (h : p.Only Act.sparesDev) (s : State) : (p.run s).dev = s.dev := by
  refine h.run (R := fun s t => t.dev = s.dev) (fun _ => rfl) (fun h k => k.trans h) (fun a s ha => ?_) s
  cases a <;> first | exact ha.elim | rfl

theorem Prog.Only.mono {P Q : Act → Prop} (hpq : ∀ a, P a → Q a) {p : Prog} (h : p.Only P) : p.Only Q := by
  induction p with
  | nop => trivial
  | act a => exact hpq a h
  | seq p q ihp ihq => exact ⟨ihp h.1, ihq h.2⟩
  | look f ih => exact fun s => ih s (h s)

/-! ## Setting fields -/

@[simp] theorem Prog.run_setF_dev (f : Fld) (v : Nat) (s : State) : ((setF f v).run s).dev = s.dev := rfl
@[simp] theorem Prog.run_setF_mem (f : Fld) (v : Nat) (s : State) : ((setF f v).run s).mem = s.mem := rfl
@[simp] theorem Prog.run_setF_host (f : Fld) (v : Nat) (s : State) : ((setF f v).run s).host = s.host := rfl
@[simp] theorem Prog.run_setF_free (f : Fld) (v : Nat) (s : State) : ((setF f v).run s).free = s.free := rfl
@[simp] theorem Prog.run_setB_dev (f : Fld) (b : Bool) (s : State) : ((setB f b).run s).dev = s.dev := rfl
@[simp] theorem Prog.run_setB_mem (f : Fld) (b : Bool) (s : State) : ((setB f b).run s).mem = s.mem := rfl

/-- A field that has been set holds the low bits of the value. -/
theorem Prog.fld_setF_same (f : Fld) (v : Nat) (s : State) (h : f.lo + f.w ≤ 32) : ((setF f v).run s).fld f = v % 2 ^ f.w := by
  show bitsOf (State.word _ _).toNat _ _ = _
  rw [setF, Prog.run_look, Prog.run_act, State.word_reg, if_pos rfl, bitsOf_word _ _ _ h, bitsOf_setBits_same]

/-- Another field keeps its value. -/
theorem Prog.fld_setF_other (f g : Fld) (v : Nat) (s : State) (hg : g.lo + g.w ≤ 32)
    (h : g.off ≠ f.off ∨ g.lo + g.w ≤ f.lo ∨ f.lo + f.w ≤ g.lo) : ((setF f v).run s).fld g = s.fld g := by
  show bitsOf (State.word _ _).toNat _ _ = bitsOf _ _ _
  rw [setF, Prog.run_look, Prog.run_act, State.word_reg]
  by_cases e : g.off = f.off
  · rw [if_pos e, bitsOf_word _ _ _ hg, bitsOf_setBits_other _ _ _ _ _ _ (h.resolve_left (fun k => k e)), e]
  · rw [if_neg e]

end Sys2Proof.Machine
end

