-- ==== Sys2Proof/Laws/Tiles.lean ====
section
/-!
SUPPORT. Sys2Proof/Laws/Tiles.lean: what a tile does when it issues a bundle of one instruction and a NOP: the program that
runs, and where the sequencer stands after it.
-/
namespace Sys2Proof.Machine

/-! ## Tiles as parts of the state -/

theorem State.tile_modTile (s : State) (t j : Nat) (f : Tile → Tile) :
    ((modTile t f).run s).tile j = if j = t then f (s.tile t) else s.tile j := by
  simp [modTile, State.tile, Sparse.get_put]

@[simp] theorem State.tile_modTile_same (s : State) (t : Nat) (f : Tile → Tile) : ((modTile t f).run s).tile t = f (s.tile t) := by
  rw [State.tile_modTile, if_pos rfl]

theorem State.tile_modTile_other {t j : Nat} (h : j ≠ t) (s : State) (f : Tile → Tile) :
    ((modTile t f).run s).tile j = s.tile j := by
  rw [State.tile_modTile, if_neg h]

/-! ## Nothing outside one tile -/

/-- The act changes nothing of the device's parts but tile `t`, no memory, and no register outside `offs`. -/
def Act.tileOnly (t : Nat) (offs : List Nat) (a : Act) : Prop :=
  match a with
  | .dev f => ∀ d, { f d with tiles := d.tiles } = d ∧
      ∀ j, j ≠ t → Sparse.get Tile.blank (f d).tiles j = Sparse.get Tile.blank d.tiles j
  | .reg o _ => o ∈ offs
  | .draw => True
  | _ => False

theorem OnlyTile.refl (s : State) (t : Nat) : OnlyTile s s t := ⟨rfl, fun _ _ => rfl, fun _ => rfl, fun _ => rfl, rfl⟩

theorem OnlyTile.trans {a b c : State} {t : Nat} (h : OnlyTile a b t) (k : OnlyTile b c t) : OnlyTile a c t := by
  refine ⟨?_, fun j hj => (k.tiles j hj).trans (h.tiles j hj), fun x => (k.bytes x).trans (h.bytes x),
    fun x => (k.host x).trans (h.host x), k.queue.trans h.queue⟩
  have h1 := h.dev
  have h2 := k.dev
  calc { c.dev with tiles := a.dev.tiles } = { ({ c.dev with tiles := b.dev.tiles } : Dev) with tiles := a.dev.tiles } := rfl
    _ = { b.dev with tiles := a.dev.tiles } := by rw [h2]
    _ = a.dev := h1

theorem Prog.Only.onlyTile {t : Nat} {offs : List Nat} {p : Prog} (h : p.Only (Act.tileOnly t offs)) (s : State) :
    OnlyTile s (p.run s) t ∧ SameRegsBut s (p.run s) offs := by
  refine h.run (R := fun s u => OnlyTile s u t ∧ SameRegsBut s u offs) (fun s => ⟨OnlyTile.refl s t, fun _ _ => rfl⟩)
    (fun h k => ⟨h.1.trans k.1, fun o ho => (k.2 o ho).trans (h.2 o ho)⟩) (fun a s ha => ?_) s
  cases a with
  | dev f => exact ⟨⟨(ha s.dev).1, (ha s.dev).2, fun _ => rfl, fun _ => rfl, rfl⟩, fun _ _ => rfl⟩
  | reg o v =>
    refine ⟨⟨rfl, fun _ _ => rfl, fun _ => rfl, fun _ => rfl, rfl⟩, fun x hx => ?_⟩
    have : x ≠ o := fun e => hx (e ▸ ha)
    simp [State.word, Sparse.get_put_other _ _ _ _ _ this]
  | draw => exact ⟨⟨rfl, fun _ _ => rfl, fun _ => rfl, fun _ => rfl, rfl⟩, fun _ _ => rfl⟩
  | _ => exact ha.elim

theorem Prog.only_modTile {t : Nat} {offs : List Nat} (f : Tile → Tile) : (modTile t f).Only (Act.tileOnly t offs) :=
  fun d => ⟨rfl, fun j hj => by simp [Sparse.get_put_other _ _ _ _ _ hj]⟩

theorem Prog.only_setS {t n v : Nat} {offs : List Nat} : (setS t n v).Only (Act.tileOnly t offs) :=
  Prog.only_when.mpr fun _ => Prog.only_modTile _

theorem Prog.only_setV {t v : Nat} {offs : List Nat} (l : List (Nat × Nat)) : (setV t v l).Only (Act.tileOnly t offs) :=
  Prog.only_modTile _

theorem Prog.only_setM {t m : Nat} {offs : List Nat} (b : BitVec 256) : (setM t m b).Only (Act.tileOnly t offs) :=
  Prog.only_modTile _

theorem Prog.only_raiseFlags {t : Nat} {offs : List Nat} (r : Raised) (h : tileReg t 0x088 ∈ offs) :
    (raiseFlags t r).Only (Act.tileOnly t offs) :=
  fun _ => ⟨Prog.only_each.mpr fun _ _ => Prog.only_setF fun _ => h, Prog.only_when.mpr fun _ => trivial, trivial⟩

/-! ## Issuing -/

/-- The tile after a bundle whose instructions left it as `x`, the tile before it being `pre`. -/
def Tile.committed (pre x : Tile) (o : TOp) (w now : Nat) : Tile :=
  x.standing ({ pre with vlens := x.vlens }.advance o w) now

/-- What `commit` leaves when the instructions have had their effect. -/
theorem commit_run (t : Nat) (o0 o1 : TOp) (w0 w1 : Nat) (p q : Prog) (s : State) (h : o0 ≠ .end_) (hm : msetPair o0 o1 = false)
    (hs : (s.tile t).stepping = false) :
    (commit t o0 o1 w0 w1 p q).run s =
      (modTile t fun x => (s.tile t).committed x o0 w0 s.now).run (q.run (p.run s)) := by
  have e : (o0 == TOp.end_) = false := by simpa using h
  have f : ∀ x : Tile, x.advancePair o0 o1 w0 w1 = x.advance o0 w0 := fun x => by simp [Tile.advancePair, hm]
  simp only [commit, Prog.run_look, Prog.run_all_cons, Prog.run_all_nil, e, hs, f, Bool.false_eq_true, if_false, Prog.run_when,
    Tile.committed]

@[simp] theorem Codes.find_nil (lo n : Nat) : Codes.find [] lo n = .none := rfl
@[simp] theorem Codes.find_none (a lo n : Nat) : Codes.find [(a, .none)] lo n = .none := by
  simp only [Codes.find, List.find?]
  cases decide (lo ≤ a) && decide (a < lo + n) <;> rfl

/-- Where no code reports an error nothing happens. -/
theorem tmemErrors_none (t : Nat) (c : Codes) (l : List Nat) (s : State) (h : ∀ a ∈ l, c.find (a / 8 * 8) 8 = .none) :
    (tmemErrors t c l).run s = s := by
  have f : ∀ e, e ≠ .none → (l.filter fun a => c.find (a / 8 * 8) 8 == e) = [] := fun e he =>
    List.filter_eq_nil_iff.mpr fun a ha => by simpa [h a ha] using he.symm
  simp [tmemErrors, f .corrected (by decide), f .uncorrectable (by decide)]

/-- The state that a bundle with an instruction in slot `k` and NOP in the other leaves, where the instruction's effect is `p`. -/
def State.afterOne (s : State) (t k : Nat) (op : TOp) (w : Nat) (p : Prog) : State :=
  (modTile t fun x => (s.tile t).committed x (if k = 0 then op else .nop) (if k = 0 then w else 0) s.now).run (p.run s)

/-- An instruction that stands alone in its bundle, and is not END, has its effect and the sequencer goes on. -/
theorem issue_run {s : State} {t k w : Nat} {op : TOp} {e : EccErr} {p : Prog} {m : List Nat} (h : s.issues t k op w = true)
    (hop : op ≠ .end_) (hp : instrEff s t ((s.tile t).seenMode false) op w = .go p m) (he : e = .none ∨ m = []) :
    (issue t { slot := k } op e).run s = s.afterOne t k op w p := by
  simp only [State.issues, State.issuable, State.fetches, Bool.and_eq_true, beq_iff_eq, decide_eq_true_eq, Option.isNone_iff_eq_none,
    Bool.not_eq_true', List.isEmpty_iff] at h
  obtain ⟨⟨⟨⟨⟨⟨⟨⟨hr, hrun⟩, hk⟩, hw⟩, hw'⟩, ho⟩, ⟨hd, hst⟩, hpo⟩, hf⟩, hb⟩ := h
  have hn : s.names t k op = true := by simp [State.names, hw, ho]
  have o0 : opOf 0 = some .nop := by decide
  have en : instrEff s t ((s.tile t).seenMode false) .nop 0 = goOn .nop := rfl
  have run : (issue t { slot := k } op e).run s = (runBundle t [] e).run s := by simp [issue, hrun, hk, hr, hn]
  have bad : s.poisonAt t 8 (if s.fetchOk t then [(s.tile t).bundleAt, (s.tile t).bundleAt + 8] else []) = none := by
    split
    · exact hpo
    · rfl
  have pre : (runBundle t [] e).run s = (executeBundle t [] e).run s := by
    simp only [runBundle, Prog.run_look, hd, List.isEmpty_nil, Bool.not_true, Bool.false_eq_true, if_false, Prog.run_all_cons,
      Prog.run_all_nil]
    rw [tmemErrors_none _ _ _ _ fun _ _ => rfl]
    simp only [bad]
  have quiet : ∀ l : List Nat, (e = .none ∨ l = []) → ∀ a ∈ l,
      Codes.find ((l.take 1).map fun a => (a / 8 * 8, e)) (a / 8 * 8) 8 = .none := by
    rintro (_ | ⟨x, l⟩) hl a ha
    · cases ha
    · rcases hl with rfl | hl
      · simp
      · cases hl
  have nop : msetPair op .nop = false := by cases op <;> rfl
  have pon : msetPair .nop op = false := by cases op <;> rfl
  rw [run, pre]
  simp only [executeBundle, Prog.run_look, hst, hf, hb, Bool.not_false, Bool.true_and, Bool.false_eq_true, if_false]
  have hk' : k = 0 ∨ k = 1 := by omega
  rcases hk' with rfl | rfl
  · simp only [Nat.sub_zero] at hw'
    simp only [hw, hw', ho, o0, Option.getD_some, en, hp, goOn, touchedBy, List.append_nil, List.nil_append, Prog.run_all_cons, Prog.run_all_nil]
    rw [tmemErrors_none _ _ _ _ (quiet m he)]
    simp [runSlots, en, hp, goOn, commit_run _ _ _ _ _ _ _ _ hop nop hst, State.afterOne]
  · simp only [Nat.sub_self] at hw'
    simp only [hw, hw', ho, o0, Option.getD_some, en, hp, goOn, touchedBy, List.nil_append, Prog.run_all_cons, Prog.run_all_nil]
    rw [tmemErrors_none _ _ _ _ (quiet m he)]
    have hne : TOp.nop ≠ .end_ := by decide
    simp [runSlots, en, hp, goOn, commit_run _ _ _ _ _ _ _ _ hne pon hst, State.afterOne]

/-- An instruction whose effect stays within the tile changes nothing outside it. -/
theorem State.afterOne_onlyTile {s : State} {t k w : Nat} {op : TOp} {p : Prog} {offs : List Nat} (h : p.Only (Act.tileOnly t offs)) :
    OnlyTile s (s.afterOne t k op w p) t ∧ SameRegsBut s (s.afterOne t k op w p) offs := by
  have a := h.onlyTile s
  have b := Prog.Only.onlyTile (t := t) (offs := offs) (Prog.only_modTile fun x =>
    (s.tile t).committed x (if k = 0 then op else .nop) (if k = 0 then w else 0) s.now) (p.run s)
  exact ⟨a.1.trans b.1, fun o ho => (b.2 o ho).trans (a.2 o ho)⟩

theorem State.afterOne_tile (s : State) (t k w : Nat) (op : TOp) (p : Prog) :
    (s.afterOne t k op w p).tile t =
      (s.tile t).committed ((p.run s).tile t) (if k = 0 then op else .nop) (if k = 0 then w else 0) s.now := by
  simp [State.afterOne]

/-- Where the sequencer stands, when the instruction leaves the sequencer's own state alone. -/
theorem State.afterOne_goesOn {s : State} {t k w : Nat} {op : TOp} {p : Prog} (hv : ((p.run s).tile t).vlens = (s.tile t).vlens)
    (hl : ((p.run s).tile t).launch = (s.tile t).launch) (hr : ((p.run s).tile t).run = (s.tile t).run) :
    GoesOn (s.tile t) ((s.afterOne t k op w p).tile t) ((s.tile t).after k op w) := by
  have e : ({ s.tile t with vlens := ((p.run s).tile t).vlens } : Tile) = s.tile t := by rw [hv]
  rw [State.afterOne_tile]
  by_cases hk : k = 0 <;> simp only [Tile.committed, Tile.standing, Tile.after, e, hk, if_true, if_false] <;>
    exact ⟨rfl, rfl, rfl, rfl, rfl, rfl, hl, hr⟩

@[simp] theorem Tile.committed_sreg (x y : Tile) (o : TOp) (w n i : Nat) : (x.committed y o w n).sreg i = y.sreg i := rfl
@[simp] theorem Tile.committed_elem (x y : Tile) (o : TOp) (w n v i : Nat) : (x.committed y o w n).elem v i = y.elem v i := rfl
@[simp] theorem Tile.committed_masks (x y : Tile) (o : TOp) (w n : Nat) : (x.committed y o w n).masks = y.masks := rfl
@[simp] theorem Tile.committed_stores (x y : Tile) (o : TOp) (w n : Nat) : (x.committed y o w n).stores = y.stores := rfl
@[simp] theorem Tile.committed_ops (x y : Tile) (o : TOp) (w n : Nat) : (x.committed y o w n).ops = y.ops := rfl
@[simp] theorem Tile.committed_xfers (x y : Tile) (o : TOp) (w n : Nat) : (x.committed y o w n).xfers = y.xfers := rfl
@[simp] theorem Tile.committed_sel (x y : Tile) (o : TOp) (w n : Nat) : (x.committed y o w n).sel = y.sel := rfl
@[simp] theorem Tile.committed_cdone (x y : Tile) (o : TOp) (w n : Nat) : (x.committed y o w n).cdone = y.cdone := rfl

/-- What a write of a scalar register leaves in the tile. -/
theorem State.tile_setS (s : State) (t n v : Nat) : ((setS t n v).run s).tile t =
    if n = 0 then s.tile t else { s.tile t with sregs := Sparse.put zeroLong (s.tile t).sregs n (BitVec.ofNat 64 v) } := by
  by_cases h : n = 0 <;> simp [setS, h]

end Sys2Proof.Machine
end

