-- ==== Sys2Proof/Machine/PinStates.lean ====
section
/-!
DEFINITION. Sys2Proof/Machine/PinStates.lean: how the pins behave while the device is unpowered or in power-on reset, in cold reset,
in host reset and in REST (R419, R422, R447, R465, R514, R519, R533, R545, R622). What a pin does while it operates is in its own
chapter's part of the model.
-/
namespace Sys2Proof

/-- The rows of R622. -/
inductive PinGroup where
  | enables | vid | tbppsOut | catchN | managementBus | smiso | portsAndFabric | flash | tdo | aout | ain | usb | pcieTx
  | farResetN | farBalls
  deriving DecidableEq, Repr

/-- What the device does with a group: it leaves it undriven, drives levels (the first pin is the least significant bit), keeps the
transmitters in electrical idle, has the USB pull-up off, powers only the inputs of enabled envelope detectors, drives far memory's
command balls to their resting levels, has no power there, or operates it. -/
inductive PinDrive where
  | released | levels (v : Nat) | electricalIdle | pullUpOff | detectorsOnly | selfRefresh | unpowered | operating
  deriving DecidableEq, Repr

end Sys2Proof

namespace Sys2Proof.Machine

/-- The columns of R622. -/
def State.inColdReset (s : State) : Bool := s.heldReset || s.devState == 0 || s.devState == 5

/-- The four enables as levels: CORE_EN, STORE_EN, FAR_EN, STORE_RET. -/
def Pins.enables (p : Pins) : Nat := oneIf p.coreEn + 2 * oneIf p.storeEn + 4 * oneIf p.farEn + 8 * oneIf p.storeRet

/-- A group that is released in cold reset and in REST. -/
def State.releasedOr (s : State) (d : PinDrive) : PinDrive := if s.inColdReset || s.carried then .released else d

/-- The behaviour of a group of pins (R622). -/
def State.pins (s : State) (g : PinGroup) : PinDrive :=
  if s.dev.pwr.por then (match g with
    | .usb => .pullUpOff
    | .pcieTx => .electricalIdle
    | _ => .released)
  else match g with
    | .enables => .levels s.dev.pwr.pins.enables
    | .vid => .levels (s.fld F.PCK_AVS_VREQ)
    | .tbppsOut => .levels (oneIf (!s.inColdReset && s.ppsOut))
    | .catchN => if s.catchN then .levels 0 else .released
    | .managementBus =>
      if s.dev.svc.holding then .levels 0 else if s.inRest || s.heldReset then .released else .operating
    | .smiso => if s.inColdReset then .released else .operating
    | .portsAndFabric | .aout => s.releasedOr .operating
    | .flash => if s.carried || !(s.flashBusy || s.bit F.QSPI_STATUS_BUSY) then .released else .operating
    | .tdo => .operating
    | .ain => if s.inColdReset then .released else if s.carried then .detectorsOnly else .operating
    | .usb => if s.inColdReset || s.carried || s.unitState 116 == 0 then .pullUpOff else .operating
    | .pcieTx => if s.inColdReset || s.carried || !s.linkUp then .electricalIdle else .operating
    | .farResetN =>
      if s.inColdReset then .levels 0 else if !s.carried then .operating
      else if s.unitState 42 == 4 then .levels 1 else .unpowered
    | .farBalls =>
      if s.inColdReset then .selfRefresh else if !s.carried then .operating
      else if s.unitState 42 == 4 then .selfRefresh else .unpowered

end Sys2Proof.Machine
end

