-- ==== Sys2Proof/WellFormed.lean ====
section
/-!
DEFINITION. Sys2Proof/WellFormed.lean: the operands that a command can carry: every number in the range of the field, port, tile,
function or unit that it stands for. The meanings take any operands; a command that is not well formed stands for nothing in the spec.
-/
namespace Sys2Proof

/-- A path names a virtual function that exists (R355). -/
def Path.wf : Path → Bool
  | .vf n => 1 ≤ n && decide (n < 64)
  | _ => true

/-- A read addresses bytes of one register (R5, R10). -/
def Reader.wf (r : Reader) : Bool :=
  r.path.wf && decide (r.loc.off < 2 ^ 26) && (match r.loc.form with
    | .word => r.loc.off % 4 == 0
    | .narrow n => decide (0 < n) && decide (r.loc.off % 4 + n ≤ 4))

/-- KIND has 8 bits, UNIT 8 as Selol carries it, ARG 32 (R497, R590). -/
def Order.wf (o : Order) : Bool := decide (o.kind < 256) && decide (o.unit < 256) && decide (o.arg < 2 ^ 32)

/-- The accesses of one cycle come from paths that exist, to offsets of the register space. -/
def SameCycle.wf (c : SameCycle) : Bool :=
  c.reads.all Reader.wf && (c.writes.all fun x => x.1.wf && decide (x.2.1 < 2 ^ 26)) && c.orders.all Order.wf

/-- A transaction carries at most COUNT, 32 data bytes and a check byte (R489). -/
def MbXfer.wf (x : MbXfer) : Bool := decide (x.data.length ≤ 33) && x.rivals.all Order.wf

/-- RESULT codes that a transaction on the bus can end with (R510, R518), and a data word. -/
def MstOutcome.wf (o : MstOutcome) : Bool := o.result ≤ 6 && decide (o.data < 65536)

/-- The fields of a USB setup packet. -/
def UsbStd.wf (r : UsbStd) : Bool :=
  decide (r.bmRequestType < 256) && decide (r.bRequest < 256) && decide (r.wValue < 65536) && decide (r.wIndex < 65536) &&
  decide (r.wLength < 65536)

/-- An endpoint of the launch distribution that exists (R56). -/
def Endpoint.wf : Endpoint → Bool
  | .bench n => decide (n < 32)
  | .walker n => decide (n < 16)
  | .port n => decide (n < 4)
  | _ => true

/-- A trim of an input path or an output, in 16-bit fields (R430). -/
def Trim.wf (t : Trim) : Bool :=
  decide (t.index < (if t.out then 8 else 16)) && decide (t.ofs < 65536) && decide (t.gtrim < 65536)

/-- A pair or a tile that exists. -/
def CplReq.wf : CplReq → Bool
  | .ingest q => decide (q < 256)
  | .payload q => decide (q < 256)
  | .transfer t => decide (t < 512)
  | .image => true

/-- A converter delivers a 24-bit result; a slip code is 0, 1 or 2 (R411). -/
def SampleIn.wf (x : SampleIn) : Bool := decide (x.value < 2 ^ 24) && x.slip ≤ 2

/-- A clock of the fabric that exists (R437), and the levels of 48 pins. -/
def FabEdge.wf (e : FabEdge) : Bool := decide (e.pins < 2 ^ 48) && (match e.clk with
  | .net n => decide (n < 4096)
  | .term m => decide (m < 512)
  | _ => true)

/-- A frame has at most 32 slots (R461). -/
def FrameIn.wf (f : FrameIn) : Bool := f.data.length ≤ 32 && f.data.all (fun v => decide (v < 2 ^ 32)) && f.chatter.all (fun c => decide (c.1 < 32))

/-- A command that the spec gives a meaning to. -/
def Instr.wf (i : Instr) : Bool := match i with
  | .tbFree => true
  | .tbrefLost => true
  | .tbrefBack => true
  | .tbLock => true
  | .tbppsEdge _ => true
  | .missingPulse => true
  | .setArm p _ => p.wf
  | .setCancel p _ => p.wf
  | .slewRequest p _ => p.wf
  | .slewComplete => true
  | .modeChange p _ => p.wf
  | .uncEvaluate => true
  | .restRatioMeasure _ => true
  | .turnBoundary part => decide (part < 8)
  | .launchCopyCheck wrong => (wrong.all Endpoint.wf)
  | .ppsOutPulse => true
  | .lowWordLatch p loc => (Reader.mk p loc true).wf
  | .wake part entry _ => decide (part < 8) && decide (entry < 16384)
  | .benchSpinReached bench => decide (bench < 32)
  | .dwellEntryDone bench => decide (bench < 32)
  | .gather part entry => decide (part < 8) && decide (entry < 16384)
  | .launch part entry _ => decide (part < 8) && decide (entry < 16384)
  | .walk part entry => decide (part < 8) && decide (entry.at_ < 16384)
  | .merge part entry _ => decide (part < 8) && decide (entry < 16384)
  | .emitHost part entry _ => decide (part < 8) && decide (entry < 16384)
  | .emitArray part entry _ => decide (part < 8) && decide (entry < 16384)
  | .emitPort part entry _ => decide (part < 8) && decide (entry < 16384)
  | .arrayAlign part entry _ => decide (part < 8) && decide (entry < 16384)
  | .arrayPlay part entry _ => decide (part < 8) && decide (entry < 16384)
  | .portAlign part entry _ => decide (part < 8) && decide (entry < 16384)
  | .portPlay part entry _ => decide (part < 8) && decide (entry < 16384)
  | .launchMissed slot => decide (slot < 4096)
  | .overrun slot => decide (slot < 4096)
  | .ingestEntryFetch q words => decide (q < 256) && decide (words.length = 64)
  | .hostChunkStamp q _ _ => decide (q < 256)
  | .arrayChunkStamp path => decide (path < 16)
  | .portChunkStamp port slot => decide (port < 4) && decide (slot < 32)
  | .tNop t k => decide (t < 512) && decide (k.slot < 2)
  | .tEnd t k => decide (t < 512) && decide (k.slot < 2)
  | .tMset t k => decide (t < 512) && decide (k.slot < 2)
  | .tFence t k => decide (t < 512) && decide (k.slot < 2)
  | .tTick t k => decide (t < 512) && decide (k.slot < 2)
  | .tChk t k => decide (t < 512) && decide (k.slot < 2)
  | .tHdr t k => decide (t < 512) && decide (k.slot < 2)
  | .tCdone t k => decide (t < 512) && decide (k.slot < 2)
  | .tBrk t k => decide (t < 512) && decide (k.slot < 2)
  | .tBranch t k => decide (t < 512) && decide (k.slot < 2)
  | .tCall t k => decide (t < 512) && decide (k.slot < 2)
  | .tRet t k => decide (t < 512) && decide (k.slot < 2)
  | .tLoop t k => decide (t < 512) && decide (k.slot < 2)
  | .tSetvl t k => decide (t < 512) && decide (k.slot < 2)
  | .tAdd t k => decide (t < 512) && decide (k.slot < 2)
  | .tSub t k => decide (t < 512) && decide (k.slot < 2)
  | .tMul t k => decide (t < 512) && decide (k.slot < 2)
  | .tAnd t k => decide (t < 512) && decide (k.slot < 2)
  | .tOr t k => decide (t < 512) && decide (k.slot < 2)
  | .tXor t k => decide (t < 512) && decide (k.slot < 2)
  | .tShl t k => decide (t < 512) && decide (k.slot < 2)
  | .tShr t k => decide (t < 512) && decide (k.slot < 2)
  | .tSar t k => decide (t < 512) && decide (k.slot < 2)
  | .tMin t k => decide (t < 512) && decide (k.slot < 2)
  | .tMax t k => decide (t < 512) && decide (k.slot < 2)
  | .tMinu t k => decide (t < 512) && decide (k.slot < 2)
  | .tMaxu t k => decide (t < 512) && decide (k.slot < 2)
  | .tSlt t k => decide (t < 512) && decide (k.slot < 2)
  | .tSltu t k => decide (t < 512) && decide (k.slot < 2)
  | .tMovhi t k => decide (t < 512) && decide (k.slot < 2)
  | .tLd32 t k _ => decide (t < 512) && decide (k.slot < 2)
  | .tLd64 t k _ => decide (t < 512) && decide (k.slot < 2)
  | .tSt32 t k _ => decide (t < 512) && decide (k.slot < 2)
  | .tSt64 t k _ => decide (t < 512) && decide (k.slot < 2)
  | .tFadd t k => decide (t < 512) && decide (k.slot < 2)
  | .tFsub t k => decide (t < 512) && decide (k.slot < 2)
  | .tFmul t k => decide (t < 512) && decide (k.slot < 2)
  | .tFma t k => decide (t < 512) && decide (k.slot < 2)
  | .tFms t k => decide (t < 512) && decide (k.slot < 2)
  | .tFmax t k => decide (t < 512) && decide (k.slot < 2)
  | .tFmin t k => decide (t < 512) && decide (k.slot < 2)
  | .tFabs t k => decide (t < 512) && decide (k.slot < 2)
  | .tFneg t k => decide (t < 512) && decide (k.slot < 2)
  | .tFrcp t k => decide (t < 512) && decide (k.slot < 2)
  | .tFrsq t k => decide (t < 512) && decide (k.slot < 2)
  | .tFexp2 t k => decide (t < 512) && decide (k.slot < 2)
  | .tFlog2 t k => decide (t < 512) && decide (k.slot < 2)
  | .tFtanh t k => decide (t < 512) && decide (k.slot < 2)
  | .tFsel t k => decide (t < 512) && decide (k.slot < 2)
  | .tFmov t k => decide (t < 512) && decide (k.slot < 2)
  | .tIadd t k => decide (t < 512) && decide (k.slot < 2)
  | .tIsub t k => decide (t < 512) && decide (k.slot < 2)
  | .tImul t k => decide (t < 512) && decide (k.slot < 2)
  | .tIand t k => decide (t < 512) && decide (k.slot < 2)
  | .tIor t k => decide (t < 512) && decide (k.slot < 2)
  | .tIxor t k => decide (t < 512) && decide (k.slot < 2)
  | .tIshl t k => decide (t < 512) && decide (k.slot < 2)
  | .tIshr t k => decide (t < 512) && decide (k.slot < 2)
  | .tIsar t k => decide (t < 512) && decide (k.slot < 2)
  | .tImax t k => decide (t < 512) && decide (k.slot < 2)
  | .tImin t k => decide (t < 512) && decide (k.slot < 2)
  | .tViota t k => decide (t < 512) && decide (k.slot < 2)
  | .tVld t k _ => decide (t < 512) && decide (k.slot < 2)
  | .tVst t k _ => decide (t < 512) && decide (k.slot < 2)
  | .tVlds t k _ => decide (t < 512) && decide (k.slot < 2)
  | .tVsts t k _ => decide (t < 512) && decide (k.slot < 2)
  | .tVldx t k _ => decide (t < 512) && decide (k.slot < 2)
  | .tVstx t k _ => decide (t < 512) && decide (k.slot < 2)
  | .tFclt t k => decide (t < 512) && decide (k.slot < 2)
  | .tFcle t k => decide (t < 512) && decide (k.slot < 2)
  | .tFceq t k => decide (t < 512) && decide (k.slot < 2)
  | .tFcun t k => decide (t < 512) && decide (k.slot < 2)
  | .tIclt t k => decide (t < 512) && decide (k.slot < 2)
  | .tIceq t k => decide (t < 512) && decide (k.slot < 2)
  | .tMand t k => decide (t < 512) && decide (k.slot < 2)
  | .tMor t k => decide (t < 512) && decide (k.slot < 2)
  | .tMxor t k => decide (t < 512) && decide (k.slot < 2)
  | .tMnot t k => decide (t < 512) && decide (k.slot < 2)
  | .tMpop t k => decide (t < 512) && decide (k.slot < 2)
  | .tMfirst t k => decide (t < 512) && decide (k.slot < 2)
  | .tF2i t k => decide (t < 512) && decide (k.slot < 2)
  | .tI2f t k => decide (t < 512) && decide (k.slot < 2)
  | .tRbf16 t k => decide (t < 512) && decide (k.slot < 2)
  | .tRfp16 t k => decide (t < 512) && decide (k.slot < 2)
  | .tRe4m3 t k => decide (t < 512) && decide (k.slot < 2)
  | .tRe5m2 t k => decide (t < 512) && decide (k.slot < 2)
  | .tFsum t k => decide (t < 512) && decide (k.slot < 2)
  | .tFmaxr t k => decide (t < 512) && decide (k.slot < 2)
  | .tFminr t k => decide (t < 512) && decide (k.slot < 2)
  | .tIsum t k => decide (t < 512) && decide (k.slot < 2)
  | .tVperm t k => decide (t < 512) && decide (k.slot < 2)
  | .tVrot t k => decide (t < 512) && decide (k.slot < 2)
  | .tVbcast t k => decide (t < 512) && decide (k.slot < 2)
  | .tVext t k => decide (t < 512) && decide (k.slot < 2)
  | .tVins t k => decide (t < 512) && decide (k.slot < 2)
  | .tRcp t k => decide (t < 512) && decide (k.slot < 2)
  | .tMissue t k => decide (t < 512) && decide (k.slot < 2)
  | .tMwait t k => decide (t < 512) && decide (k.slot < 2)
  | .tXget t k => decide (t < 512) && decide (k.slot < 2)
  | .tXput t k => decide (t < 512) && decide (k.slot < 2)
  | .tXwait t k => decide (t < 512) && decide (k.slot < 2)
  | .storeBufferDrain t => decide (t < 512)
  | .tileReloadDone t => decide (t < 512)
  | .tileHalt p t => p.wf && decide (t < 512)
  | .tileStep p t => p.wf && decide (t < 512)
  | .tileResume p t => p.wf && decide (t < 512)
  | .debugDataWrite p t _ _ => p.wf && decide (t < 512)
  | .mtxOpStart t => decide (t < 512)
  | .mtxColumnBlock t _ addr => decide (t < 512) && decide (addr < 2 ^ 20)
  | .mtxOpComplete t => decide (t < 512)
  | .xferStart t => decide (t < 512)
  | .xferComplete t _ line way _ => decide (t < 512) && decide (line < 2 ^ 40) && way.meets.all fun m => decide (m.1 < 512)
  | .scrubLine _ => true
  | .bar2Read fn off len _ => decide (fn < 64) && decide (off < 2 ^ 30) && decide (len ≤ 4096)
  | .bar2Write _ off bytes _ => decide (off < 2 ^ 30) && decide (bytes.length ≤ 4096)
  | .registerWrite p off _ how => p.wf && decide (off < 2 ^ 26) && how.beside.wf
  | .farTrainStart p _ => p.wf
  | .farTrainComplete step failch => decide (step < 16) && decide (failch < 256)
  | .farMr4Poll mr4 mult _ _ => decide (mr4 < 256) && decide (mult < 256)
  | .farPeriodicCal => true
  | .farRefreshDue _ => true
  | .farWindowOpen part index => decide (part < 8) && decide (index.at_ < 65536)
  | .chunkPrepare slot => decide (slot.at_ < 4096)
  | .workListBuild slot => decide (slot.at_ < 4096)
  | .recordRelease slot => decide (slot < 4096)
  | .kvAlloc p => p.wf
  | .kvRetain p => p.wf
  | .kvRelease p => p.wf
  | .kvFork p => p.wf
  | .kvReset p => p.wf
  | .chuckBoot _ => true
  | .qspiBlockRead _ data check => decide (data.length = 4096) && decide (check.length = 16)
  | .bootSourceTimeout => true
  | .imageComplete _ => true
  | .imgLoadFull p _ => p.wf
  | .imgLoadStage p _ => p.wf
  | .imgLoadActive p _ => p.wf
  | .loadAbort p _ => p.wf
  | .imageSourceTimeout => true
  | .rbCommit p _ => p.wf
  | .rbCommitted => true
  | .fuseBurn p _ _ => p.wf
  | .orderRegrip _ arg rivals => decide (arg < 2 ^ 32) && (rivals.all Order.wf)
  | .regripSwap part => decide (part < 8)
  | .retireEnd part => decide (part < 8)
  | .joinLoadDone bench => decide (bench < 32)
  | .hostReset _ => true
  | .hostLinkUp rate width _ => decide (rate < 8) && decide (width < 32)
  | .vfFlr vf => decide (1 ≤ vf ∧ vf < 64)
  | .pfFlr => true
  | .flrDone fn => decide (fn < 64)
  | .vfEnable numVfs => decide (numVfs < 65536)
  | .dStateChange fn _ => decide (fn < 64)
  | .qpEnable p q _ => p.wf && decide (q < 256)
  | .qpDisable p q _ => p.wf && decide (q < 256)
  | .inTailDoorbell fn q _ => decide (fn < 64) && decide (q < 256)
  | .resHeadDoorbell fn q _ => decide (fn < 64) && decide (q < 256)
  | .cplTimeout req => req.wf
  | .arrClkCtlWrite p _ => p.wf
  | .arrPathEnable p i _ => p.wf && decide (i < 16)
  | .gainWrite p i _ => p.wf && decide (i < 16)
  | .gainApply i => decide (i < 16)
  | .amclkLost => true
  | .arrCalRun p _ => p.wf
  | .arrCalDone trims => (trims.all Trim.wf)
  | .cmpEdge j _ => decide (j < 8)
  | .envAbove m => decide (m < 4)
  | .envBelow m => decide (m < 4)
  | .fabHold p _ => p.wf
  | .fabReset p _ => p.wf
  | .fabRelease p _ => p.wf
  | .fabMdataRead p => p.wf
  | .fabMdataWrite p _ => p.wf
  | .fabClkLost => true
  | .ucatchEdge => true
  | .portFrame port f => decide (port < 4) && f.wf
  | .fsyncLost port => decide (port < 4)
  | .bclkLost port => decide (port < 4)
  | .getId x => x.wf
  | .getStatus x => x.wf
  | .receiveByte => true
  | .lastResult x => x.wf
  | .clearFlags x => x.wf
  | .filterWrite x => x.wf
  | .filterRead x => x.wf
  | .timeoutWrite x => x.wf
  | .timeoutRead x => x.wf
  | .regRead x => x.wf
  | .regReadN x => x.wf
  | .regWrite x => x.wf
  | .selolRegrip x rivals => x.wf && (rivals.all Order.wf)
  | .getUnit x => x.wf
  | .catchRead x => x.wf
  | .catchNext x => x.wf
  | .catchInfo x => x.wf
  | .getTemp x => x.wf
  | .mbBadCommand => true
  | .alertResponse => true
  | .mbTimeout => true
  | .mbAddressMatch => true
  | .mstStart p _ => p.wf
  | .pollPeriod res => (res.all MstOutcome.wf)
  | .mstComplete o => o.wf
  | .qspiCmd p _ => p.wf
  | .qspiCmdDone _ _ => true
  | .readStatus _ => true
  | .spiRead addr count sent late _ => decide (addr < 2 ^ 32) && decide (count < 256) && decide (sent ≤ 64) && late.all (· ≤ 64)
  | .spiWrite addr count _ _ => decide (addr < 2 ^ 32) && decide (count < 256)
  | .imgStream _ _ => true
  | .spiWake => true
  | .spitBadFrame => true
  | .spitImgOpen p _ => p.wf
  | .usbRegRead addr len _ => decide (addr < 2 ^ 32) && decide (len < 65536)
  | .usbRegWrite addr bytes => decide (addr < 2 ^ 32) && decide (bytes.length < 65536)
  | .imgStart kind part len => decide (kind < 4) && decide (part < 8) && decide (len < 65536)
  | .imgAbort => true
  | .usbLastResult => true
  | .usbStandardRequest r => r.wf
  | .usbReset _ _ => true
  | .usbEp1Packet bytes => decide (bytes.length ≤ 512)
  | .usbEp2Ack => true
  | .usbStreamSample => true
  | .tapReset => true
  | .idcode => true
  | .samplePreload _ _ => true
  | .extest => true
  | .clamp => true
  | .highz => true
  | .extestPulse => true
  | .extestTrain => true
  | .bypass => true
  | .dbgAddr addr _ => decide (addr < 2 ^ 32)
  | .dbgData _ => true
  | .powerOnResetRelease straps _ => decide (straps < 128)
  | .railSlow => true
  | .supplyLost => true
  | .thermTrip temp sensor => decide (temp < 65536) && decide (sensor < 16)
  | .thermDerate temp sensor => decide (temp < 65536) && decide (sensor < 16)
  | .thermClear temp sensor => decide (temp < 65536) && decide (sensor < 16)
  | .crystalFail => true
  | .coldNAssert _ => true
  | .coldNRelease => true
  | .orderPower _ unit arg rivals => decide (unit < 128) && decide (arg < 2 ^ 32) && (rivals.all Order.wf)
  | .orderRest _ rivals => (rivals.all Order.wf)
  | .restEntryDone => true
  | .restTimer => true
  | .orderWake _ rivals => (rivals.all Order.wf)
  | .restExit elapsed => decide (elapsed < 2 ^ 32)
  | .orderTileclk _ arg rivals => decide (arg < 2 ^ 32) && (rivals.all Order.wf)
  | .tileclkApply part => decide (part ≤ 8)
  | .orderDerate _ arg rivals => decide (arg < 2 ^ 32) && (rivals.all Order.wf)
  | .orderResetCold _ rivals => (rivals.all Order.wf)
  | .orderResetPart _ arg rivals => decide (arg < 2 ^ 32) && (rivals.all Order.wf)
  | .orderEnable _ arg rivals => decide (arg < 2 ^ 32) && (rivals.all Order.wf)
  | .orderGroup _ unit arg rivals => decide (unit < 256) && decide (arg < 2 ^ 32) && (rivals.all Order.wf)
  | .orderPort _ unit arg rivals => decide (unit < 256) && decide (arg < 2 ^ 32) && (rivals.all Order.wf)
  | .wdogKick p _ => p.wf
  | .wdogStage => true
  | .benchHang t => decide (t < 512)
  | .ledgerCompare reports _ => (reports.all fun r => decide (r.1 < 128 ∧ r.2 < 16))
  | .unitStuck unit => decide (unit < 128)
  | .catchRposWrite p k _ => p.wf && decide (k < 4)
  | .samplingInstant path s => decide (path < 16) && s.wf
  | .fabclkEdge e => e.wf
  | .pwrOkRise => true
  | .powerOnReset => true
  | .rcRead p loc how => (Reader.mk p loc how.acked).wf && how.beside.all Reader.wf
  | .usbVbusApplied => true
  | .usbSuspend => true
  | .usbResume => true
  | .followRatioMeasure periods => decide (periods < 2 ^ 32)
  | .selolOrder x rivals => x.wf && (rivals.all Order.wf)
  | .quickCommand => true

end Sys2Proof
end

