-- ==== Sys2Proof/Tests/Slice0.lean ====
section
/-!
SUPPORT. Sys2Proof/Tests/Slice0.lean: small tests on fixed values, an ill-formed term for every check of WellFormed, and for
every statement a witness: concrete states and operands that meet the hypotheses of each of its clauses together.
-/
namespace Sys2Proof.Tests
open Sys2Proof.Machine
set_option Elab.async false
set_option linter.unusedVariables false

/-! ## States to test on -/

/-- A state with fields set. -/
def put (l : List (Fld × Nat)) (s : State) : State := l.foldl (fun s x => (setF x.1 x.2).run s) s

/-- A working device: the Headstock is LOCKED, the link is up and the physical function is in D0. -/
def up : State :=
  put [(F.PCK_STATUS_DEV, 1), (F.LEDG_UNIT_STATE 40, 2), (F.LEDG_UNIT_STATE 43, 2), (F.LEDG_UNIT_STATE 44, 1)]
    { dev := { pwr := { por := false, pins := { pwrOk := true } }, hs := { counting := true, everLocked := true, now := 1000 } } }

/-- A state with parts of the device changed. -/
def onDev (f : Dev → Dev) (s : State) : State := { s with dev := f s.dev }
def onHs (f : Headstock → Headstock) : State → State := onDev fun d => { d with hs := f d.hs }
def onPwr (f : Power → Power) : State → State := onDev fun d => { d with pwr := f d.pwr }
def onSvc (f : Service → Service) : State → State := onDev fun d => { d with svc := f d.svc }
def onChuck (f : Chuck → Chuck) : State → State := onDev fun d => { d with chuck := f d.chuck }

/-- One bench, number 0, of partition 0, with turns of 1,000 ticks from tick 0. -/
def plane : Plane := { turnLen := 1000, benches := 1, prBase := 0x1000, prSize := 0x1000 }
def onPart (p : Nat) (x : Part) : State → State := onDev fun d => { d with parts := Sparse.put Part.blank d.parts p x }
/-- Partition 0 enabled, at the start of its second turn. -/
def on (pl : Plane) (s : State) : State :=
  put [(F.LEDG_UNIT_STATE 32, 1), (F.TB_TURN_LEN_LEN 0, 1000), (F.LEDG_UNIT_STATE 0, 1)] (onPart 0 { active := some pl, turnStart := some 1000 } s)

/-- The same, with merge banks that are open. -/
def banked (l : List OpenBank) (pl : Plane) (s : State) : State :=
  onPart 0 { active := some pl, turnStart := some 1000, banks := l } (on pl s)

/-- Words of memory set. -/
def mem32 (l : List (Nat × Nat)) (s : State) : State := l.foldl (fun s x => (put32 x.1 x.2).run s) s

/-- A timetable entry: kind, benches, REF, group, word 3, offset. -/
def ent (kind benches ref group w3 : Nat) (off : Nat := 0) : TtEntry := ⟨off + 2 ^ 26 * kind, benches, ref + 2 ^ 20 * group, w3⟩

/-- Slot 3, declared for partition 0 with group 0; its area lies at Store offset 0x10000 with 4 KiB of state, ingest buffers of
256 bytes and result buffers of 256 bytes. -/
def declared (source : Nat) : State → State :=
  mem32 [(slotEntryAt 3, 0x8000 + 128 * source), (slotEntryAt 3 + 4, 16), (slotEntryAt 3 + 8, 0x10101)]
def decl : SlotDecl := { slot := 3, bytes := toBytes 4 0x8000 ++ toBytes 4 16 ++ toBytes 4 0x10101 ++ List.replicate 48 0 }

/-- A chunk of slot 3, gathered. -/
def chunk : Chunk := { stream := 3, seq := 7, arrival := 5, deadline := 1500, lastLaunch := 1500, dueTurn := 1, pos := some 0, gatherTurn := 1 }
def slot3 (x : SlotDyn) : State → State := onDev fun d => { d with slots := [(3, x)] }
def tileIs (t : Nat) (x : Tile) : State → State := onDev fun d => { d with tiles := [(t, x)] }
def tile3 : TileRec := { tile := 3, pbase := 0x100, plen := 64, mode := 2, progs := [0x80000010] }
/-- Tile 3 running, with the words of the bundle at its PC. -/
def bundle (w0 w1 : Nat) (x : Tile) (b : State := up) : State :=
  (putN (tileAt 3 + x.bundleAt + 8) 8 w1).run ((putN (tileAt 3 + x.bundleAt) 8 w0).run (tileIs 3 { x with run := 1, plen := 64 } b))
/-- A tile with values in S1, S2, S3 and, in its first four elements, in V1, V2, V3. -/
def work : Tile :=
  { pbase := 0x4000, pc := 2, vlens := [4, 0, 0, 0, 0], sregs := [(1, 0x1234), (2, 5), (3, 0x8000)],
    vregs := [(256, 0x3F800000), (257, 0xC0000000), (258, 7), (259, 0x7F7FFFFF), (512, 0x40000000), (513, 0x3F000000), (514, 3),
              (515, 0x7F7FFFFF), (768, 1), (769, 2), (770, 3), (771, 0)],
    masks := [(1, 5), (2, 3)] }
def group0 : Group := { dl := 900 }


/-! ## Small tests: each expected value is written out from the rule that its docstring names -/

/-- R117: instruction words written from the table, class in bits 63:60 and OP in bits 59:52, and the rows that they are. -/
theorem test_tile_words :
    opOf 0x0010000000000000 = some .end_ ∧ opOf 0x0080000000000000 = some .brk ∧ opOf 0x0090000000000000 = none ∧
    opOf 0x1600000000000000 = some .branch ∧ opOf 0x1700000000000000 = some .call ∧ opOf 0x1800000000000000 = some .ret ∧
    opOf 0x1900000000000000 = none ∧ opOf 0x2800000000000000 = some .loop ∧ opOf 0x2C00000000000000 = none ∧
    opOf 0x30E0000000000000 = some .sltu ∧ opOf 0x30F0000000000000 = some .movhi ∧ opOf 0x4020000000000000 = some .st32 ∧
    opOf 0x50D0000000000000 = some .ftanh ∧ opOf 0x5100000000000000 = none ∧ opOf 0x52B0000000000000 = some .viota ∧
    opOf 0x6040000000000000 = some .vldx ∧ opOf 0x70B0000000000000 = some .mfirst ∧ opOf 0x8040000000000000 = some .re4m3 ∧
    opOf 0x9080000000000000 = some .vins ∧ opOf 0xA000000000000000 = some .rcp ∧ opOf 0xB010000000000000 = some .mwait ∧
    opOf 0xC020000000000000 = some .xwait ∧ opOf 0xD800000000000000 = some .setvl ∧ opOf 0xE000000000000000 = none := by
  decide +kernel

/-- R117: SLTU S7, S9, S11 has SD in bits 51:47, SA in 46:42 and SB in 41:37. -/
theorem test_tile_fields :
    fSD 0x30E3A56000000000 = 7 ∧ fSA 0x30E3A56000000000 = 9 ∧ fSB 0x30E3A56000000000 = 11 ∧ fImm 0x30E3A56000000000 = false := by
  decide +kernel

/-- R150: the largest finite values 448, 57,344, 6 and 65,504, the smallest subnormals 2^−9 and 2^−16, and the NaN of E4M3. -/
theorem test_formats :
    e4m3.value 0x7E = .fin false 14 5 ∧ e5m2.value 0x7B = .fin false 7 13 ∧ fp4.value 0x7 = .fin false 3 1 ∧
    (fp16.value 0x7BFF).eq (.fin false 65504 0) = true ∧ (e4m3.value 1).eq (.fin false 1 (-9)) = true ∧
    (e5m2.value 1).eq (.fin false 1 (-16)) = true ∧ (e4m3.value 0x7F).isNan = true ∧ (e4m3.value 0x78).eq (.fin false 256 0) = true := by
  decide +kernel

/-- R129: 1 + 2, 3 × −2, the overflow of the largest FP32 value doubled (OF and NX), and a sum that rounds to even. -/
theorem test_float_arithmetic :
    (fadd ⟨.nearest, false, false⟩ (fp32.value 0x3F800000) (fp32.value 0x40000000)).1 = 0x40400000 ∧
    (fmul ⟨.nearest, false, false⟩ (fp32.value 0x40400000) (fp32.value 0xC0000000)).1 = 0xC0C00000 ∧
    (fadd ⟨.nearest, false, false⟩ (fp32.value 0x7F7FFFFF) (fp32.value 0x7F7FFFFF)).1 = 0x7F800000 ∧
    (fadd ⟨.zero, false, false⟩ (fp32.value 0x7F7FFFFF) (fp32.value 0x7F7FFFFF)).1 = 0x7F7FFFFF ∧
    (fadd ⟨.nearest, false, false⟩ (fp32.value 0x3F800000) (fp32.value 0x33800000)).1 = 0x3F800000 ∧
    (fadd ⟨.up, false, false⟩ (fp32.value 0x3F800000) (fp32.value 0x33800000)).1 = 0x3F800001 := by
  decide +kernel

/-- R490: the check byte of the polynomial x^8 + x^2 + x + 1 with initial value 0, worked by hand for one and two bytes. -/
theorem test_check_byte : crc8 [0x01] = 0x07 ∧ crc8 [0x80] = 0x89 ∧ crc8 [0x01, 0x07] = 0 := by decide +kernel

/-- R16: GEN_DEVICE_ID and GEN_STEPPING as the management bus reads them. -/
theorem test_fixed_registers :
    up.readWord .mb 4 = 0x08200820 ∧ up.readWord .mb 8 = 0x141 := by decide +kernel

/-- R32: the mean time counts one tick when nothing is pending. -/
theorem test_idle_tick : (match step up with | .next t => t.now == 1001 | _ => false) = true := by decide +kernel

/-- The worked example of the Headstock chapter: an armed setting of 8,750,000,000 is loaded at the next edge of the selected polarity,
TB_PPS_PHASE becomes 0, and SET_DONE is logged. -/
theorem test_count_setting :
    (match exec (.tbppsEdge true)
        (put [(F.TB_SET_LO_SET, 8750000000 % 2 ^ 32), (F.TB_SET_HI_SET, 8750000000 / 2 ^ 32), (F.TB_SET_CTL_ARM, 1)] up) with
      | .next t => t.now == 8750000000 && t.fld F.TB_PPS_PHASE_PHASE == 0 && t.dev.log.recs.map (·.code) == [0x1008]
      | _ => false) = true := by decide +kernel

/-- The same chapter's loop: with TB_DISC_CTL = 0x0321_0132 an edge at 9,250,000,003 gives acc = 1,536, TRIM = −1,920 and UNC_NS = 20. -/
theorem test_discipline_loop :
    (match exec (.tbppsEdge true)
        ((setWord 0x1000C 0x03210132).run (onHs (fun h => { h with now := 9250000003 }) up)) with
      | .next t => t.dev.hs.acc == 1536 && t.trim == -1920 && t.fld F.TB_UNC_UNC_NS == 20 && t.fld F.TB_PPS_ERR_ERR == 3
      | _ => false) = true := by decide +kernel

/-- The same chapter's holdover: 2 °C above the temperature at entry the bound is 2.2 ppm, so five evaluations raise UNC_NS by 11 ns. -/
theorem test_holdover_growth :
    (let f := fun s => match exec .uncEvaluate s with | .next t => t | _ => s
     (f (f (f (f (f (put [(F.LEDG_UNIT_STATE 40, 3), (F.TB_UNC_UNC_NS, 20), (F.PCK_TEMP_TEMP, 832)]
       (onHs (fun h => { h with holdTemp := 800 }) up))))))).fld F.TB_UNC_UNC_NS) = 31 := by decide +kernel

/-- R9: a write of less than a word changes no register; a whole word does (GEN_SCRATCH). -/
theorem test_narrow_write :
    (match exec (.registerWrite .mb 0x18 0xFFFFFFFF { form := .narrow }) up with | .next t => t.word 0x18 == 0 | _ => false) = true ∧
    (match exec (.registerWrite .mb 0x18 0x5A5A5A5A {}) up with | .next t => t.word 0x18 == 0x5A5A5A5A | _ => false) = true := by
  decide +kernel

/-- R10: a narrow read of GEN_DEVICE_ID returns the addressed bytes alone. -/
theorem test_narrow_read :
    (match exec (.rcRead .mb { off := 6, form := .narrow 2 } {}) up with | .next t => t.dev.out == [.reply .mb [0x20, 0x08]] | _ => false) = true := by
  decide +kernel

/-- R12: a hardware event of the cycle in which a write clears the bit leaves it set; without the event the write clears it. -/
theorem test_event_beats_clear :
    (let s := put [(F.TB_SET_CTL_DONE, 1)] up
     (match exec (.registerWrite .mb 0x10030 2 { beside := { events := 2 } }) s with | .next t => t.bit F.TB_SET_CTL_DONE | _ => false) &&
     (match exec (.registerWrite .mb 0x10030 2 {}) s with | .next t => !t.bit F.TB_SET_CTL_DONE | _ => false)) = true := by
  decide +kernel

/-- R143: an MSET may share its bundle with a BR or a LOOP; two instructions of one pipe otherwise may not. -/
theorem test_mset_pairs :
    pairLegal .mset .branch 0 0 0x0020000000000000 0x1600000000000000 = true ∧
    pairLegal .loop .mset 0 0 0x2000000000000004 0x0020000000000000 = true ∧
    pairLegal .branch .loop 0 0 0x1600000000000000 0x2000000000000004 = false := by decide +kernel

/-- No row of the command table gives bits, so no word spells a command. -/
theorem test_no_word_spells_a_command : decodeTableWord 32 0x12345678 = none ∧ State.reset.withFetchWord 8 1 = State.reset := by
  decide +kernel

/-- The hypothesis of `CountIsNeverStepped` and of `StepKeepsCanonical` can be met. -/
theorem witness_CountIsNeverStepped :
    (∀ r, Instr.tbFree ≠ .tbppsEdge r) ∧ Instr.tbFree ≠ .powerOnReset ∧ ∃ t, exec .tbFree up = .next t :=
  ⟨nofun, nofun, _, rfl⟩

theorem witness_StepKeepsCanonical : State.reset.canonical = true ∧ ∃ t, step State.reset = .next t := ⟨by decide +kernel, _, rfl⟩

/-! ## Ill-formed commands are refused -/

/-- Each command takes operands at the end of their ranges, and each operand one past its range is refused (part 1). -/
theorem test_ill_formed_refused_1 :
  ([Instr.setArm, .setCancel, .slewRequest, .modeChange, .farTrainStart, .imgLoadFull, .imgLoadStage, .imgLoadActive,
     .loadAbort, .rbCommit, .arrClkCtlWrite, .arrCalRun, .fabHold, .fabReset, .fabRelease, .fabMdataWrite, .mstStart,
     .qspiCmd, .spitImgOpen, .wdogKick].all fun f =>
     (f (.vf 63) 0).wf && !(f (.vf 64) 0).wf) = true ∧
  ([Instr.turnBoundary, .regripSwap, .retireEnd].all fun f =>
     (f 7).wf && !(f 8).wf) = true ∧
  ([Instr.launchCopyCheck].all fun f =>
     (f [.bench 31, .walker 15, .port 3]).wf && !(f [.walker 16]).wf) = true ∧
  ([Instr.lowWordLatch].all fun f =>
     (f (.vf 63) { off := 67108860 }).wf && !(f (.vf 64) { off := 0 }).wf && !(f .mb { off := 67108864 }).wf && !(f .mb { off := 2 }).wf &&
     (f .mb { off := 2, form := .narrow 2 }).wf && !(f .mb { off := 2, form := .narrow 3 }).wf && !(f .mb { off := 2, form := .narrow 0 }).wf) = true ∧
  ([Instr.wake, .launch, .merge, .arrayAlign, .arrayPlay, .portAlign, .portPlay].all fun f =>
     (f 7 16383 true).wf && !(f 8 16383 true).wf && !(f 7 16384 true).wf) = true ∧
  ([Instr.emitHost, .emitArray, .emitPort].all fun f =>
     (f 7 16383 { old := true }).wf && !(f 8 16383 { old := true }).wf && !(f 7 16384 { old := true }).wf) = true ∧
  ([Instr.benchSpinReached, .dwellEntryDone, .joinLoadDone].all fun f =>
     (f 31).wf && !(f 32).wf) = true ∧
  ([Instr.gather].all fun f =>
     (f 7 16383).wf && !(f 8 16383).wf && !(f 7 16384).wf) = true ∧
  ([Instr.walk].all fun f =>
     (f 7 { at_ := 16383 }).wf && !(f 8 { at_ := 16383 }).wf && !(f 7 { at_ := 16384 }).wf) = true ∧
  ([Instr.launchMissed, .overrun, .recordRelease].all fun f =>
     (f 4095).wf && !(f 4096).wf) = true ∧
  ([Instr.chunkPrepare, .workListBuild].all fun f =>
     (f { at_ := 4095 }).wf && !(f { at_ := 4096 }).wf) = true ∧
  ([Instr.ingestEntryFetch].all fun f =>
     (f 255 (List.replicate 64 0)).wf && !(f 256 (List.replicate 64 0)).wf && !(f 255 (List.replicate 63 0)).wf) = true ∧
  ([Instr.hostChunkStamp].all fun f =>
     (f 255 [] true).wf && !(f 256 [] true).wf) = true ∧
  ([Instr.arrayChunkStamp, .gainApply].all fun f =>
     (f 15).wf && !(f 16).wf) = true ∧
  ([Instr.portChunkStamp].all fun f =>
     (f 3 31).wf && !(f 4 31).wf && !(f 3 32).wf) = true ∧
  ([Instr.tNop, .tEnd, .tMset, .tFence, .tTick, .tChk, .tHdr, .tCdone, .tBrk, .tBranch, .tCall, .tRet, .tLoop, .tSetvl,
     .tAdd, .tSub, .tMul, .tAnd, .tOr, .tXor, .tShl, .tShr, .tSar, .tMin, .tMax, .tMinu, .tMaxu, .tSlt, .tSltu, .tMovhi,
     .tFadd, .tFsub, .tFmul, .tFma, .tFms, .tFmax, .tFmin, .tFabs, .tFneg, .tFrcp, .tFrsq, .tFexp2, .tFlog2, .tFtanh,
     .tFsel, .tFmov, .tIadd, .tIsub, .tImul, .tIand, .tIor, .tIxor, .tIshl, .tIshr, .tIsar, .tImax, .tImin, .tViota,
     .tFclt, .tFcle, .tFceq, .tFcun, .tIclt, .tIceq, .tMand, .tMor, .tMxor, .tMnot, .tMpop, .tMfirst, .tF2i, .tI2f,
     .tRbf16, .tRfp16, .tRe4m3, .tRe5m2, .tFsum, .tFmaxr, .tFminr, .tIsum, .tVperm, .tVrot, .tVbcast, .tVext, .tVins,
     .tRcp, .tMissue, .tMwait, .tXget, .tXput, .tXwait].all fun f =>
     (f 511 { slot := 1 }).wf && !(f 512 { slot := 1 }).wf && !(f 511 { slot := 2 }).wf) = true ∧
  ([Instr.tLd32, .tLd64, .tSt32, .tSt64, .tVld, .tVst, .tVlds, .tVsts, .tVldx, .tVstx].all fun f =>
     (f 511 { slot := 1 } .none).wf && !(f 512 { slot := 1 } .none).wf && !(f 511 { slot := 2 } .none).wf) = true ∧
  ([Instr.storeBufferDrain, .tileReloadDone, .mtxOpStart, .mtxOpComplete, .xferStart, .benchHang].all fun f =>
     (f 511).wf && !(f 512).wf) = true ∧
  ([Instr.tileHalt, .tileStep, .tileResume].all fun f =>
     (f (.vf 63) 511).wf && !(f (.vf 64) 511).wf && !(f (.vf 63) 512).wf) = true := by decide +kernel

/-- Each command takes operands at the end of their ranges, and each operand one past its range is refused (part 2). -/
theorem test_ill_formed_refused_2 :
  ([Instr.debugDataWrite].all fun f =>
     (f (.vf 63) 511 true 0).wf && !(f (.vf 64) 511 true 0).wf && !(f (.vf 63) 512 true 0).wf) = true ∧
  ([Instr.mtxColumnBlock].all fun f =>
     (f 511 .none 1048575).wf && !(f 512 .none 1048575).wf && !(f 511 .none 1048576).wf) = true ∧
  ([Instr.xferComplete].all fun f =>
     (f 511 .none 1099511627775 { meets := [(511, 1)] } []).wf && !(f 512 .none 1099511627775 {} []).wf && !(f 511 .none 1099511627776 {} []).wf &&
     !(f 511 .none 0 { meets := [(512, 1)] } []).wf) = true ∧
  ([Instr.bar2Read].all fun f =>
     (f 63 1073741823 4096 {}).wf && !(f 64 1073741823 4096 {}).wf && !(f 63 1073741824 4096 {}).wf &&
     !(f 63 1073741823 4097 {}).wf) = true ∧
  ([Instr.bar2Write].all fun f =>
     (f true 1073741823 (List.replicate 4096 0) true).wf && !(f true 1073741824 (List.replicate 4096 0) true).wf && !(f true 1073741823 (List.replicate 4097 0) true).wf) = true ∧
  ([Instr.registerWrite].all fun f =>
     (f (.vf 63) 67108863 0 {}).wf && !(f (.vf 64) 67108863 0 {}).wf && !(f (.vf 63) 67108864 0 {}).wf &&
     !(f .mb 0 0 { beside := { writes := [(.vf 64, 0, 0)] } }).wf && !(f .mb 0 0 { beside := { writes := [(.pf, 67108864, 0)] } }).wf &&
     !(f .mb 0 0 { beside := { reads := [⟨.pf, { off := 1 }, true⟩] } }).wf && !(f .mb 0 0 { beside := { orders := [⟨.pf, 256, 0, 0⟩] } }).wf) = true ∧
  ([Instr.farTrainComplete].all fun f =>
     (f 15 255).wf && !(f 16 255).wf && !(f 15 256).wf) = true ∧
  ([Instr.farMr4Poll].all fun f =>
     (f 255 255 true true).wf && !(f 256 255 true true).wf && !(f 255 256 true true).wf) = true ∧
  ([Instr.farWindowOpen].all fun f =>
     (f 7 { at_ := 65535 }).wf && !(f 8 { at_ := 65535 }).wf && !(f 7 { at_ := 65536 }).wf) = true ∧
  ([Instr.kvAlloc, .kvRetain, .kvRelease, .kvFork, .kvReset, .fabMdataRead].all fun f =>
     (f (.vf 63)).wf && !(f (.vf 64)).wf) = true ∧
  ([Instr.qspiBlockRead].all fun f =>
     (f ⟨[], true, 0, true, true, true, true⟩ (List.replicate 4096 0) (List.replicate 16 0)).wf && !(f ⟨[], true, 0, true, true, true, true⟩ (List.replicate 4095 0) (List.replicate 16 0)).wf && !(f ⟨[], true, 0, true, true, true, true⟩ (List.replicate 4096 0) (List.replicate 15 0)).wf) = true ∧
  ([Instr.fuseBurn].all fun f =>
     (f (.vf 63) 0 true).wf && !(f (.vf 64) 0 true).wf) = true ∧
  ([Instr.orderRegrip, .orderTileclk, .orderDerate, .orderResetPart, .orderEnable].all fun f =>
     (f .pf 4294967295 [⟨.pf, 255, 255, 1⟩]).wf && !(f .pf 4294967296 [⟨.pf, 255, 255, 1⟩]).wf && !(f .pf 4294967295 [⟨.pf, 256, 255, 1⟩]).wf) = true ∧
  ([Instr.hostLinkUp].all fun f =>
     (f 7 31 true).wf && !(f 8 31 true).wf && !(f 7 32 true).wf) = true ∧
  ([Instr.vfFlr, .flrDone].all fun f =>
     (f 63).wf && !(f 64).wf) = true ∧
  ([Instr.vfEnable].all fun f =>
     (f 65535).wf && !(f 65536).wf) = true := by decide +kernel

/-- Each command takes operands at the end of their ranges, and each operand one past its range is refused (part 3). -/
theorem test_ill_formed_refused_3 :
  ([Instr.dStateChange].all fun f =>
     (f 63 true).wf && !(f 64 true).wf) = true ∧
  ([Instr.qpEnable, .qpDisable].all fun f =>
     (f (.vf 63) 255 0).wf && !(f (.vf 64) 255 0).wf && !(f (.vf 63) 256 0).wf) = true ∧
  ([Instr.inTailDoorbell, .resHeadDoorbell].all fun f =>
     (f 63 255 0).wf && !(f 64 255 0).wf && !(f 63 256 0).wf) = true ∧
  ([Instr.cplTimeout].all fun f =>
     (f (.transfer 511)).wf && !(f (.ingest 256)).wf) = true ∧
  ([Instr.arrPathEnable, .gainWrite].all fun f =>
     (f (.vf 63) 15 0).wf && !(f (.vf 64) 15 0).wf && !(f (.vf 63) 16 0).wf) = true ∧
  ([Instr.arrCalDone].all fun f =>
     (f [⟨true, 7, 65535, 65535, true⟩]).wf && !(f [⟨true, 8, 0, 0, true⟩]).wf) = true ∧
  ([Instr.cmpEdge].all fun f =>
     (f 7 true).wf && !(f 8 true).wf) = true ∧
  ([Instr.envAbove, .envBelow, .fsyncLost, .bclkLost].all fun f =>
     (f 3).wf && !(f 4).wf) = true ∧
  ([Instr.portFrame].all fun f =>
     (f 3 ⟨256, [4294967295], [], []⟩).wf && !(f 4 ⟨256, [4294967295], [], []⟩).wf && !(f 3 ⟨256, [4294967296], [], []⟩).wf) = true ∧
  ([Instr.getId, .getStatus, .lastResult, .clearFlags, .filterWrite, .filterRead, .timeoutWrite, .timeoutRead, .regRead,
     .regReadN, .regWrite, .getUnit, .catchRead, .catchNext, .catchInfo, .getTemp].all fun f =>
     (f ⟨true, List.replicate 33 0, none, true, []⟩).wf && !(f ⟨true, List.replicate 34 0, none, true, []⟩).wf &&
     !(f ⟨true, [], none, true, [⟨.pf, 256, 0, 0⟩]⟩).wf) = true ∧
  ([Instr.selolRegrip, .selolOrder].all fun f =>
     (f ⟨true, List.replicate 33 0, none, true, []⟩ [⟨.pf, 255, 255, 1⟩]).wf && !(f ⟨true, List.replicate 34 0, none, true, []⟩ [⟨.pf, 255, 255, 1⟩]).wf && !(f ⟨true, List.replicate 33 0, none, true, []⟩ [⟨.pf, 256, 255, 1⟩]).wf) = true ∧
  ([Instr.pollPeriod].all fun f =>
     (f [⟨6, 65535⟩]).wf && !(f [⟨0, 65536⟩]).wf) = true ∧
  ([Instr.mstComplete].all fun f =>
     (f ⟨6, 65535⟩).wf && !(f ⟨7, 0⟩).wf) = true ∧
  ([Instr.spiRead].all fun f =>
     (f 4294967295 255 64 [64] true).wf && !(f 4294967296 255 64 [64] true).wf && !(f 4294967295 256 64 [64] true).wf &&
     !(f 4294967295 255 65 [64] true).wf && !(f 4294967295 255 64 [65] true).wf) = true ∧
  ([Instr.spiWrite].all fun f =>
     (f 4294967295 255 [] true).wf && !(f 4294967296 255 [] true).wf && !(f 4294967295 256 [] true).wf) = true ∧
  ([Instr.usbRegRead].all fun f =>
     (f 4294967295 65535 true).wf && !(f 4294967296 65535 true).wf && !(f 4294967295 65536 true).wf) = true := by decide +kernel

/-- Each command takes operands at the end of their ranges, and each operand one past its range is refused (part 4). -/
theorem test_ill_formed_refused_4 :
  ([Instr.usbRegWrite].all fun f =>
     (f 4294967295 (List.replicate 513 0)).wf && !(f 4294967296 (List.replicate 513 0)).wf && !(f 4294967295 (List.replicate 65536 0)).wf) = true ∧
  ([Instr.imgStart].all fun f =>
     (f 3 7 65535).wf && !(f 4 7 65535).wf && !(f 3 8 65535).wf &&
     !(f 3 7 65536).wf) = true ∧
  ([Instr.usbStandardRequest].all fun f =>
     (f ⟨255, 255, 65535, 65535, 65535⟩).wf && !(f ⟨256, 0, 0, 0, 0⟩).wf) = true ∧
  ([Instr.usbEp1Packet].all fun f =>
     (f (List.replicate 512 0)).wf && !(f (List.replicate 513 0)).wf) = true ∧
  ([Instr.dbgAddr].all fun f =>
     (f 4294967295 true).wf && !(f 4294967296 true).wf) = true ∧
  ([Instr.powerOnResetRelease].all fun f =>
     (f 127 true).wf && !(f 128 true).wf) = true ∧
  ([Instr.thermTrip, .thermDerate, .thermClear].all fun f =>
     (f 65535 15).wf && !(f 65536 15).wf && !(f 65535 16).wf) = true ∧
  ([Instr.orderPower].all fun f =>
     (f .pf 127 4294967295 [⟨.pf, 255, 255, 1⟩]).wf && !(f .pf 128 4294967295 [⟨.pf, 255, 255, 1⟩]).wf && !(f .pf 127 4294967296 [⟨.pf, 255, 255, 1⟩]).wf &&
     !(f .pf 127 4294967295 [⟨.pf, 256, 255, 1⟩]).wf) = true ∧
  ([Instr.orderRest, .orderResetCold].all fun f =>
     (f .pf [⟨.pf, 255, 255, 1⟩]).wf && !(f .pf [⟨.pf, 256, 255, 1⟩]).wf) = true ∧
  ([Instr.orderWake].all fun f =>
     (f .timer [⟨.pf, 255, 255, 1⟩]).wf && !(f .timer [⟨.pf, 256, 255, 1⟩]).wf) = true ∧
  ([Instr.restExit, .followRatioMeasure].all fun f =>
     (f 4294967295).wf && !(f 4294967296).wf) = true ∧
  ([Instr.tileclkApply].all fun f =>
     (f 8).wf && !(f 9).wf) = true ∧
  ([Instr.orderGroup, .orderPort].all fun f =>
     (f .pf 255 4294967295 [⟨.pf, 255, 255, 1⟩]).wf && !(f .pf 256 4294967295 [⟨.pf, 255, 255, 1⟩]).wf && !(f .pf 255 4294967296 [⟨.pf, 255, 255, 1⟩]).wf &&
     !(f .pf 255 4294967295 [⟨.pf, 256, 255, 1⟩]).wf) = true ∧
  ([Instr.ledgerCompare].all fun f =>
     (f [(127, 15)] true).wf && !(f [(127, 16)] true).wf) = true ∧
  ([Instr.unitStuck].all fun f =>
     (f 127).wf && !(f 128).wf) = true ∧
  ([Instr.catchRposWrite].all fun f =>
     (f (.vf 63) 3 0).wf && !(f (.vf 64) 3 0).wf && !(f (.vf 63) 4 0).wf) = true := by decide +kernel

/-- Each command takes operands at the end of their ranges, and each operand one past its range is refused (part 5). -/
theorem test_ill_formed_refused_5 :
  ([Instr.samplingInstant].all fun f =>
     (f 15 ⟨16777215, 2⟩).wf && !(f 16 ⟨16777215, 2⟩).wf && !(f 15 ⟨16777216, 0⟩).wf) = true ∧
  ([Instr.fabclkEdge].all fun f =>
     (f ⟨.net 4095, true, 5, true⟩).wf && !(f ⟨.term 512, true, 5, true⟩).wf) = true ∧
  ([Instr.rcRead].all fun f =>
     (f (.vf 63) { off := 67108860 } {}).wf && !(f (.vf 64) { off := 0 } {}).wf && !(f (.vf 63) { off := 67108864 } {}).wf &&
     !(f .mb { off := 0 } { beside := [⟨.vf 64, { off := 0 }, true⟩] }).wf) = true := by decide +kernel

/-- The remaining bounds of the shared operand checks. -/
theorem test_ill_formed_operands :
    (Path.vf 0).wf = false ∧ (Order.mk .pf 0 256 0).wf = false ∧ (Order.mk .pf 0 0 (2 ^ 32)).wf = false ∧
    (MstOutcome.mk 7 0).wf = false ∧ (UsbStd.mk 0 256 0 0 0).wf = false ∧ (UsbStd.mk 0 0 65536 0 0).wf = false ∧
    (UsbStd.mk 0 0 0 65536 0).wf = false ∧ (UsbStd.mk 0 0 0 0 65536).wf = false ∧ (Endpoint.bench 32).wf = false ∧
    (Endpoint.port 4).wf = false ∧ (Trim.mk false 16 0 0 true).wf = false ∧ (Trim.mk false 0 65536 0 true).wf = false ∧
    (Trim.mk false 0 0 65536 true).wf = false ∧ (CplReq.payload 256).wf = false ∧ (CplReq.transfer 512).wf = false ∧
    (SampleIn.mk 0 3).wf = false ∧ (FabEdge.mk .pins true (2 ^ 48) true).wf = false ∧
    (FabEdge.mk (.net 4096) true 0 true).wf = false ∧ (FrameIn.mk 0 (List.replicate 33 0) [] []).wf = false ∧
    (FrameIn.mk 0 [] [(32, true)] []).wf = false ∧ (Instr.vfFlr 0).wf = false ∧
    (Instr.ledgerCompare [(128, 0)] true).wf = false := by decide +kernel

/-! ## Witnesses: for each statement, states and operands that meet the hypotheses of its clauses -/

theorem witness_StepRunsFrontCommand :
  (∃ (c : Instr) (l : List Instr) (s : State),
   s.pending = c :: l) :=
  ⟨.tbFree, [], { up with pending := [.tbFree] }, by decide +kernel⟩

theorem witness_ScalarOperations :
  (∃ (s : State) (t : Nat) (k : Nat) (w : Nat) (op : TOp),
   op ∈ saluOps ∧ op ≠ .movhi ∧ s.issues t k op w = true ∧ (op ∈ [TOp.shl, .shr, .sar] → (s.tile t).scalarB w < 64)) ∧
  (∃ (s : State) (t : Nat) (k : Nat) (w : Nat) (op : TOp),
   op ∈ [TOp.shl, .shr, .sar] ∧ s.issues t k op w = true ∧ 64 ≤ (s.tile t).scalarB w) ∧
  (∃ (s : State) (t : Nat) (k : Nat) (w : Nat),
   s.issues t k .movhi w = true) :=
  ⟨⟨bundle 3459332136698380288 0 (work) up, 3, 0, 3459332136698380288, .add, by decide +kernel⟩,
   ⟨bundle 3486353597023649792 0 (work) up, 3, 0, 3486353597023649792, .shl, by decide +kernel⟩,
   ⟨bundle 3526886133418675695 0 (work) up, 3, 0, 3526886133418675695, by decide +kernel⟩⟩

theorem witness_ScalarMemory :
  (∃ (s : State) (t : Nat) (k : Nat) (w : Nat) (n : Nat) (op : TOp),
   (op, n) ∈ [(TOp.ld32, 4), (.ld64, 8)] ∧ s.issues t k op w = true ∧
   let x := s.tile t
   let a := scalarAddr x w
   x.busyAt a n = false
    ∧ (∀ e ∈ x.stores, ∀ b ∈ e, b.1 < a ∨ a + n ≤ b.1) ∧ s.poisonedIn (tileAt t + a) n = false) ∧
  (∃ (s : State) (t : Nat) (k : Nat) (w : Nat) (n : Nat) (op : TOp) (old : List (List (Nat × Byte))) (bs : List Byte),
   (op, n) ∈ [(TOp.ld32, 4), (.ld64, 8)] ∧ s.issues t k op w = true ∧
   let x := s.tile t
   let a := scalarAddr x w
   x.busyAt a n = false
    ∧ bs.length = n ∧ x.stores = old ++ [(bytesOf a n).zip bs]) ∧
  (∃ (s : State) (t : Nat) (k : Nat) (w : Nat) (n : Nat) (op : TOp),
   (op, n) ∈ [(TOp.st32, 4), (.st64, 8)] ∧ s.issues t k op w = true ∧
   let x := s.tile t
   let a := scalarAddr x w
   x.busyAt a n = false
    ∧ x.stores.length < 8) :=
  ⟨⟨bundle 4612262162520342528 0 (work) (mem32 [(tileAt 3 + 0x8000, 0x11223344), (tileAt 3 + 0x8004, 0x55667788), (tileAt 3 + 0x8008, 9)] up), 3, 0, 4612262162520342528, 4, .ld32, by decide +kernel⟩,
   ⟨(bundle 4612262162520342528 0 ({ work with stores := [(bytesOf 0x8000 4).zip [1, 2, 3, 4]] }) (mem32 [(tileAt 3 + 0x8000, 0x11223344), (tileAt 3 + 0x8004, 0x55667788), (tileAt 3 + 0x8008, 9)] up)), 3, 0, 4612262162520342528, 4, .ld32, [], [1, 2, 3, 4], by decide +kernel⟩,
   ⟨bundle 4620847149310017536 0 (work) (mem32 [(tileAt 3 + 0x8000, 0x11223344), (tileAt 3 + 0x8004, 0x55667788), (tileAt 3 + 0x8008, 9)] up), 3, 0, 4620847149310017536, 4, .st32, by decide +kernel⟩⟩

theorem witness_VectorFloat :
  (∃ (s : State) (t : Nat) (k : Nat) (w : Nat) (op : TOp),
   op ∈ fpOps ∧ s.issues t k op w = true) :=
  ⟨bundle 5765753420308807680 0 (work) up, 3, 0, 5765753420308807680, .fadd, by decide +kernel⟩

theorem witness_VectorInteger :
  (∃ (s : State) (t : Nat) (k : Nat) (w : Nat) (op : TOp),
   op ∈ intOps ∧ s.issues t k op w = true) :=
  ⟨(bundle 5909868608384663552 0 ({ work with mode := 0 }) up), 3, 0, 5909868608384663552, .iadd, by decide +kernel⟩

theorem witness_VectorMemory :
  (∃ (s : State) (t : Nat) (k : Nat) (w : Nat) (op : TOp),
   op ∈ [TOp.vld, .vlds, .vldx] ∧ s.issues t k op w = true ∧
   let x := s.tile t
   let n := fmtBytes (mFmt w)
   x.stores = []
    ∧ (∀ i, i < 256 → x.takes (mMen w) (mMask w) i = true → x.busyAt (x.elemAddr op w i) n = false ∧ s.poisonedIn (tileAt t + x.elemAddr op w i) n = false)) ∧
  (∃ (s : State) (t : Nat) (k : Nat) (w : Nat),
   s.issues t k .vst w = true ∧
   let x := s.tile t
   let n := fmtBytes (mFmt w)
   let v i := narrow (mFmt w) (fmodeOf (x.seenMode false)) (x.elem (fVD w) i)
   x.stores.length < 8
    ∧ x.taking (mMen w) (mMask w) ≠ [] ∧ (∀ i, i < 256 → x.takes (mMen w) (mMask w) i = true → x.busyAt (x.elemAddr .vst w i) n = false)) ∧
  (∃ (s : State) (t : Nat) (k : Nat) (w : Nat) (op : TOp),
   op ∈ [TOp.vsts, .vstx] ∧ s.issues t k op w = true ∧
   let x := s.tile t
   let n := fmtBytes (mFmt w)
   let v i := narrow (mFmt w) (fmodeOf (x.seenMode false)) (x.elem (fVD w) i)
   x.stores = []
    ∧ (∀ i, i < 256 → x.takes (mMen w) (mMask w) i = true → x.busyAt (x.elemAddr op w i) n = false)) :=
  ⟨⟨(bundle 6918707730412732416 0 ({ work with sregs := [(2, 8), (3, 0x8000)], vregs := [(768, 8), (769, 0), (770, 4)] }) (mem32 [(tileAt 3 + 0x8000, 0x11223344), (tileAt 3 + 0x8004, 0x55667788), (tileAt 3 + 0x8008, 9)] up)), 3, 0, 6918707730412732416, .vld, by decide +kernel⟩,
   ⟨bundle 6922331720201011200 0 (work) (mem32 [(tileAt 3 + 0x8000, 0x11223344), (tileAt 3 + 0x8004, 0x55667788), (tileAt 3 + 0x8008, 9)] up), 3, 0, 6922331720201011200, by decide +kernel⟩,
   ⟨(bundle 6931374104364711936 0 ({ work with sregs := [(2, 4), (3, 0x8000)], vregs := [(256, 0x3F800000), (257, 0x40000000), (258, 5), (768, 8), (769, 0), (770, 8)] }) (mem32 [(tileAt 3 + 0x8000, 0x11223344), (tileAt 3 + 0x8004, 0x55667788), (tileAt 3 + 0x8008, 9)] up)), 3, 0, 6931374104364711936, .vsts, by decide +kernel⟩⟩

theorem witness_VectorMasks :
  (∃ (s : State) (t : Nat) (k : Nat) (w : Nat) (op : TOp),
   op ∈ [TOp.fclt, .fcle, .fceq, .fcun, .iclt, .iceq] ∧ s.issues t k op w = true) ∧
  (∃ (s : State) (t : Nat) (k : Nat) (w : Nat) (op : TOp) (g : Bool → Bool → Bool),
   ((op = .mand ∧ g = and) ∨ (op = .mor ∧ g = or) ∨ (op = .mxor ∧ g = xor) ∨ (op = .mnot ∧ g = fun a _ => !a)) ∧ s.issues t k op w = true) ∧
  (∃ (s : State) (t : Nat) (k : Nat) (w : Nat) (op : TOp),
   op ∈ [TOp.mpop, .mfirst] ∧ s.issues t k op w = true) :=
  ⟨⟨bundle 8071596223364071424 0 (work) up, 3, 0, 8071596223364071424, .fclt, by decide +kernel⟩,
   ⟨bundle 8098617821128294400 0 (work) up, 3, 0, 8098617821128294400, .mand, and, by decide +kernel⟩,
   ⟨bundle 8116632219721662464 0 (work) up, 3, 0, 8116632219721662464, .mpop, by decide +kernel⟩⟩

theorem witness_VectorConversions :
  (∃ (s : State) (t : Nat) (k : Nat) (w : Nat),
   s.issues t k .i2f w = true) ∧
  (∃ (s : State) (t : Nat) (k : Nat) (w : Nat) (op : TOp),
   op ∈ [TOp.f2i, .rbf16, .rfp16, .re4m3, .re5m2] ∧ s.issues t k op w = true ∧ fBs w = false) ∧
  (∃ (s : State) (t : Nat) (k : Nat) (w : Nat) (op : TOp),
   op ∈ [TOp.rbf16, .rfp16, .re4m3, .re5m2] ∧ s.issues t k op w = true ∧ fBs w = true) :=
  ⟨⟨bundle 9229021533756719104 0 (work) up, 3, 0, 9229021533756719104, by decide +kernel⟩,
   ⟨bundle 9224517934129348608 0 (work) up, 3, 0, 9224517934129348608, .f2i, by decide +kernel⟩,
   ⟨bundle 9233525133920960512 0 (work) (put [(⟨tileReg 3 0x158, 0, 32⟩, 5), (⟨tileReg 3 0x150, 0, 32⟩, 7)] up), 3, 0, 9233525133920960512, .rbf16, by decide +kernel⟩⟩

theorem witness_VectorReductions :
  (∃ (s : State) (t : Nat) (k : Nat) (w : Nat) (op : TOp),
   op ∈ [TOp.fsum, .fmaxr, .fminr, .isum] ∧ s.issues t k op w = true) ∧
  (∃ (s : State) (t : Nat) (k : Nat) (w : Nat) (op : TOp),
   op ∈ [TOp.vperm, .vrot, .vbcast] ∧ s.issues t k op w = true) ∧
  (∃ (s : State) (t : Nat) (k : Nat) (w : Nat),
   s.issues t k .vext w = true) ∧
  (∃ (s : State) (t : Nat) (k : Nat) (w : Nat),
   s.issues t k .vins w = true) ∧
  (∃ (s : State) (t : Nat) (k : Nat) (w : Nat) (op : TOp),
   s.issues t k .rcp w = true ∧ s.poisonAt t 256 [recipeAt (s.tile t) w] = none ∧
   let x := s.tile t
   let md := fmodeOf (x.seenMode false)
   let h := s.recipeHdr t w
   let m := (s.microOps t w).headD 0
   bitsOf h 0 5 = 0
    ∧ bitsOf h 5 2 = 0 ∧ bitsOf h 7 1 = 0 ∧ bitsOf h 8 3 = 0 ∧ fpOps[bitsOf m 26 6]? = some op ∧ bitsOf m 23 3 = 0 ∧ bitsOf m 18 5 = 8 ∧ bitsOf m 13 5 = 8 ∧ bitsOf m 8 5 = 8) :=
  ⟨⟨bundle 10377439438820081664 0 (work) up, 3, 0, 10377439438820081664, .fsum, by decide +kernel⟩,
   ⟨bundle 10395454936790859776 0 (work) up, 3, 0, 10395454936790859776, .vperm, by decide +kernel⟩,
   ⟨bundle 10408964636211675136 0 (work) up, 3, 0, 10408964636211675136, by decide +kernel⟩,
   ⟨bundle 10413468235788713984 0 (work) up, 3, 0, 10413468235788713984, by decide +kernel⟩,
   ⟨(bundle 11534000120940986368 0 ({ work with rbase := 0x3000 }) (mem32 [(tileAt 3 + 0x3100, 0x8000), (tileAt 3 + 0x3108, 2164736)] up)), 3, 0, 11534000120940986368, .fadd, by decide +kernel⟩⟩

theorem witness_ControlRows :
  (∃ (s : State) (t : Nat) (k : Nat) (w : Nat),
   s.issues t k .nop w = true) ∧
  (∃ (s : State) (t : Nat) (k : Nat) (w : Nat),
   s.issues t k .mset w = true ∧ (s.tile t).loops = []) ∧
  (∃ (s : State) (t : Nat) (k : Nat) (w : Nat),
   s.issues t k .fence w = true ∧ (s.tile t).stores = [] ∧ (s.tile t).ops = [] ∧ (s.tile t).xfers = []) ∧
  (∃ (s : State) (t : Nat) (k : Nat) (w : Nat),
   s.issues t k .tick w = true) ∧
  (∃ (s : State) (t : Nat) (k : Nat) (w : Nat) (l : Launch),
   s.issues t k .end_ w = true ∧ (s.tile t).detached = false ∧ (s.tile t).launch = some l ∧ (∀ i, i < l.chunks.length → i ∈ (s.tile t).cdone) ∧ (s.tile t).ops = [] ∧ (s.tile t).xfers = [] ∧ (s.tile t).waiting = [] ∧ k = 0) ∧
  (∃ (s : State) (t : Nat) (w : Nat),
   s.issuable t 0 .brk w = true ∧ (s.tile t).passBp = none ∧ (s.tile t).launch = none ∧ (s.tile t).delay = none ∧ (s.tile t).shadow = none ∧ (s.tile t).loops = [] ∧ (s.tile t).pc < 2 ^ 13 ∧ t < 512) :=
  ⟨⟨bundle 0 0 (work) up, 3, 0, 0, by decide +kernel⟩,
   ⟨(bundle 9007199254742437 0 ({ work with mode := 0xA7A }) up), 3, 0, 9007199254742437, by decide +kernel⟩,
   ⟨bundle 13510798882111488 0 (work) up, 3, 0, 13510798882111488, by decide +kernel⟩,
   ⟨bundle 18577348462903296 0 (work) up, 3, 0, 18577348462903296, by decide +kernel⟩,
   ⟨(bundle 4503599627370496 0 ({ work with launch := some { chunks := [(3, 5)], tiles := [3] }, cdone := [0] }) up), 3, 0, 4503599627370496, { chunks := [(3, 5)], tiles := [3] }, by decide +kernel⟩,
   ⟨bundle 36028797018963968 0 (work) up, 3, 36028797018963968, by decide +kernel⟩⟩

theorem witness_ChunkRows :
  (∃ (s : State) (t : Nat) (k : Nat) (w : Nat) (l : Launch),
   s.issues t k .chk w = true ∧ (s.tile t).launch = some l ∧ (s.tile t).sreg (fSA w) < l.chunks.length) ∧
  (∃ (s : State) (t : Nat) (k : Nat) (w : Nat) (c : Chunk),
   s.issues t k .hdr w = true ∧ s.chunkOf (s.tile t).chosen = some c) ∧
  (∃ (s : State) (t : Nat) (k : Nat) (w : Nat) (i : Nat) (j : Nat) (l : Launch) (n : Nat) (a : Nat) (c : Chunk),
   s.issues t k .cdone w = true ∧ (s.tile t).detached = false ∧ (s.tile t).ops = [] ∧ (s.tile t).xfers = [] ∧ (s.tile t).launch = some l ∧ (s.tile t).sel = some j ∧ l.chunks[j]? = some (n, a) ∧ j ∉ (s.tile t).cdone ∧ s.runIdx l.stage (n, a) = some i ∧ (s.slot n).chunks[i]? = some c ∧ t ∈ c.owing) :=
  ⟨⟨(bundle 22526794229874688 0 ({ work with launch := some { chunks := [(3, 5)], tiles := [3] }, sel := some 0, sregs := [(2, 0)] }) up), 3, 0, 22526794229874688, { chunks := [(3, 5)], tiles := [3] }, by decide +kernel⟩,
   ⟨(bundle 27584547717644288 0 ({ work with launch := some { chunks := [(3, 5)], tiles := [3] }, sel := some 0, sregs := [(2, 0)] }) (slot3 { chunks := [{ chunk with launched := true, running := some 0, owing := [3] }] } (on plane up))), 3, 0, 27584547717644288, ({ chunk with launched := true, running := some 0, owing := [3] }), by decide +kernel⟩,
   ⟨(bundle 31533993484615680 0 ({ work with launch := some { chunks := [(3, 5)], tiles := [3] }, sel := some 0, sregs := [(2, 0)] }) (slot3 { chunks := [{ chunk with launched := true, running := some 0, owing := [3, 4] }] } (on { plane with groups := [group0] } up))), 3, 0, 31533993484615680, 0, 0, { chunks := [(3, 5)], tiles := [3] }, 3, 5, ({ chunk with launched := true, running := some 0, owing := [3, 4] }), by decide +kernel⟩⟩

theorem witness_SequencerRows :
  (∃ (s : State) (t : Nat) (w : Nat),
   s.issues t 0 .branch w = true) ∧
  (∃ (s : State) (t : Nat) (w : Nat),
   s.issues t 0 .call w = true) ∧
  (∃ (s : State) (t : Nat) (w : Nat),
   s.issues t 0 .ret w = true) ∧
  (∃ (s : State) (t : Nat) (w : Nat),
   s.issues t 0 .loop w = true) ∧
  (∃ (s : State) (t : Nat) (w : Nat),
   s.issues t 0 .setvl w = true ∧
   let x := s.tile t
   x.loops.length < x.vlens.length
    ∧ x.delay = none ∧ (∀ l, x.loops.getLast? = some l → l.stop ≠ x.pc)) :=
  ⟨⟨bundle 1155314041908887557 0 (work) up, 3, 1155314041908887557, by decide +kernel⟩,
   ⟨bundle 1657324662872342537 0 (work) up, 3, 1657324662872342537, by decide +kernel⟩,
   ⟨(bundle 1729382256910270464 0 ({ work with sregs := [(31, 9)] }) up), 3, 1729382256910270464, by decide +kernel⟩,
   ⟨bundle 2305843009216839684 0 (work) up, 3, 2305843009216839684, by decide +kernel⟩,
   ⟨bundle 14987979559889010788 0 (work) up, 3, 14987979559889010788, by decide +kernel⟩⟩

theorem witness_IssueRows :
  (∃ (s : State) (t : Nat) (k : Nat) (w : Nat),
   s.issues t k .missue w = true ∧
   let x := s.tile t
   let a := issueAddr x w
   x.stores = []
    ∧ x.ops.length < 4 ∧ s.poisonedIn (tileAt t + a) 64 = false) ∧
  (∃ (s : State) (t : Nat) (k : Nat) (w : Nat) (put : Bool),
   s.issues t k (if put then .xput else .xget) w = true ∧
   let x := s.tile t
   let a := issueAddr x w
   x.stores = []
    ∧ x.xfers.length < 8 ∧ s.poisonedIn (tileAt t + a) 32 = false) ∧
  (∃ (s : State) (t : Nat) (k : Nat) (w : Nat),
   s.issues t k .mwait w = true ∧ (s.tile t).ops.length ≤ fOffset w) ∧
  (∃ (s : State) (t : Nat) (k : Nat) (w : Nat),
   s.issues t k .xwait w = true ∧ (s.tile t).xfers.length ≤ fOffset w) :=
  ⟨⟨bundle 12682149744814850048 0 (work) up, 3, 0, 12682149744814850048, by decide +kernel⟩,
   ⟨bundle 13835071249421697024 0 (work) up, 3, 0, 13835071249421697024, false, by decide +kernel⟩,
   ⟨(bundle 12686640150302687234 0 ({ work with ops := [{}, {}] }) up), 3, 0, 12686640150302687234, by decide +kernel⟩,
   ⟨(bundle 13844065254536904705 0 ({ work with xfers := [{}] }) up), 3, 0, 13844065254536904705, by decide +kernel⟩⟩

theorem witness_ExceptionsAreExact :
  (∃ (s : State) (t : Nat) (k : Nat) (op : TOp) (w : Nat) (e : EccErr) (f : Found),
   s.ready = true ∧ (s.tile t).run = 1 ∧ k < 2 ∧ opOf (s.slotWord t k) = some op ∧ s.slotWord t k = w ∧ s.fetches t = true ∧ s.bundleFault t ((s.tile t).seenMode false) = some f ∧ t < 512) :=
  ⟨bundle 1585267068835475456 0 (work) up, 3, 0, .branch, 1585267068835475456, .none, ⟨0, .illegal, false, none⟩, by decide +kernel⟩

theorem witness_TileUpkeep :
  (∃ (s : State) (t : Nat) (a : Nat) (bs : List Byte) (l : List (List (Nat × Byte))),
   bs ≠ [] ∧ (s.tile t).stores = (bytesOf a bs.length).zip bs :: l) ∧
  (∃ (s : State) (t : Nat),
   s.ready = true ∧ (s.tile t).run = 3 ∧ (s.tile t).ops = [] ∧ (s.tile t).xfers = [] ∧ (s.tile t).waiting = [] ∧ t < 512) ∧
  (∃ (s : State) (p : Path) (t : Nat),
   s.reach p (tileReg t 0x014) = true ∧ s.benchDrops (tileReg t 0x014) = none ∧ fuseBit s.dev.chuck 2 = false ∧ t < 512) ∧
  (∃ (s : State) (p : Path) (t : Nat) (hi : Bool) (v : Word),
   s.reach p (tileReg t (if hi then 0x068 else 0x064)) = true ∧ s.benchDrops (tileReg t (if hi then 0x068 else 0x064)) = none ∧ fuseBit s.dev.chuck 2 = false ∧ (s.tile t).run = 2) :=
  ⟨⟨(tileIs 3 { stores := [(bytesOf 0x8000 4).zip [1, 2, 3, 4], []] } up), 3, 0x8000, [1, 2, 3, 4], [[]], by decide +kernel⟩,
   ⟨(tileIs 3 { run := 3, sregs := [(1, 5)], vregs := [(3, 7)] } (on plane up)), 3, by decide +kernel⟩,
   ⟨(put [(F.LEDG_UNIT_STATE 0, 1)] (tileIs 3 { run := 1, sregs := [(1, 5)] } up)), .pf, 3, by decide +kernel⟩,
   ⟨(put [(F.LEDG_UNIT_STATE 0, 1), (F.TSQ_DSEL_REG 0 3, 1), (F.TSQ_DSEL_ELEM 0 3, 2), (F.TSQ_DSEL_SPACE 0 3, 0)] (tileIs 3 { run := 2, sregs := [(1, 5)] } up)), .pf, 3, true, 77, by decide +kernel⟩⟩

theorem witness_MatrixAndTransfers :
  (∃ (s : State) (t : Nat) (o : MtxOp) (l : List MtxOp),
   s.ready = true ∧ (s.tile t).ops = o :: l ∧ o.started = false ∧ o.bad = none ∧ o.descOk = true ∧ o.rangeOk (s.tile t) = true ∧ o.overlapOk = true) ∧
  (∃ (s : State) (t : Nat) (addr : Nat) (o : MtxOp) (l : List MtxOp),
   s.ready = true ∧ (s.tile t).ops = o :: l ∧ o.started = true ∧ o.overlapOk = true ∧ o.col < o.blocks ∧ MtxOp.readMeta s t o o.col = .ok ∧ (∀ r, r < o.rowBlocks → MtxOp.tilePoison s t o r o.col = none)) ∧
  (∃ (s : State) (t : Nat) (o : MtxOp) (l : List MtxOp),
   s.ready = true ∧ (s.tile t).ops = o :: l ∧ o.started = true ∧ o.col = o.blocks ∧ (s.tile t).run = 1 ∧ t < 512) ∧
  (∃ (s : State) (t : Nat) (x : Xfer) (l : List Xfer),
   s.ready = true ∧ (s.tile t).xfers = x :: l ∧ x.started = false ∧ x.waits = false ∧ s.startOf t x = .go) ∧
  (∃ (s : State) (t : Nat) (line : Nat) (x : Xfer) (l : List Xfer) (a : Nat) (d : Nat),
   s.ready = true ∧ (s.tile t).xfers = x :: l ∧ x.started = true ∧ x.put = false ∧ s.startOf t x = .go ∧ x.lines = [(d, a)] ∧ Xfer.source? s t x (d, a) = some a ∧ s.poisonedIn a 64 = false ∧ (s.tile t).run = 1) ∧
  (∃ (s : State) (t : Nat) (line : Nat) (x : Xfer) (l : List Xfer) (a : Nat) (d : Nat),
   s.ready = true ∧ (s.tile t).xfers = x :: l ∧ x.started = true ∧ x.put = true ∧ s.startOf t x = .go ∧ x.lines = [(d, a)] ∧ s.place a = .store ∧ s.dropsIn a 64 = false ∧ s.closedAt a = none ∧ s.poisonedIn (tileAt t + d) 64 = false ∧ (s.tile t).run = 1 ∧ (s.tile t).detached = false) :=
  ⟨⟨(tileIs 3 { run := 1, ops := [{ desc := [0x7550, 0x1000, 1, 0x8000, 64, 0x8100, 64, 0x8200, 64, 0, 0, 0, 0, 0, 0, 0], addr := 0x8400 }] } (mem32 [(tileAt 3 + 0x8000, 0x40003C00), (tileAt 3 + 0x8100, 0x3C003C00), (tileAt 3 + 0x8140, 0x3C00)] up)), 3, { desc := [0x7550, 0x1000, 1, 0x8000, 64, 0x8100, 64, 0x8200, 64, 0, 0, 0, 0, 0, 0, 0], addr := 0x8400 }, [], by decide +kernel⟩,
   ⟨(tileIs 3 { run := 1, ops := [{ desc := [0x7550, 0x1000, 1, 0x8000, 64, 0x8100, 64, 0x8200, 64, 0, 0, 0, 0, 0, 0, 0], addr := 0x8400, started := true }] } (mem32 [(tileAt 3 + 0x8000, 0x40003C00), (tileAt 3 + 0x8100, 0x3C003C00), (tileAt 3 + 0x8140, 0x3C00)] up)), 3, 0, { desc := [0x7550, 0x1000, 1, 0x8000, 64, 0x8100, 64, 0x8200, 64, 0, 0, 0, 0, 0, 0, 0], addr := 0x8400, started := true }, [], by decide +kernel⟩,
   ⟨(tileIs 3 { run := 1, ops := [{ desc := [0x7550, 0x1000, 1, 0x8000, 64, 0x8100, 64, 0x8200, 64, 0, 0, 0, 0, 0, 0, 0], addr := 0x8400, started := true, col := 1 }] } (mem32 [(tileAt 3 + 0x8000, 0x40003C00), (tileAt 3 + 0x8100, 0x3C003C00), (tileAt 3 + 0x8140, 0x3C00)] up)), 3, { desc := [0x7550, 0x1000, 1, 0x8000, 64, 0x8100, 64, 0x8200, 64, 0, 0, 0, 0, 0, 0, 0], addr := 0x8400, started := true, col := 1 }, [], by decide +kernel⟩,
   ⟨(tileIs 3 { run := 1, xfers := [{ desc := [0x8000, 0x10000, 1, 63, 0, 0, 0, 0], put := false }] } (mem32 [(tileAt 3 + 0x8000, 0x11), (storeAt + 0x10004, 0x22)] (on { plane with carves := [(65536, 1, false)] } up))), 3, { desc := [0x8000, 0x10000, 1, 63, 0, 0, 0, 0], put := false }, [], by decide +kernel⟩,
   ⟨(tileIs 3 { run := 1, xfers := [{ desc := [0x8000, 0x10000, 1, 63, 0, 0, 0, 0], put := false, started := true }] } (mem32 [(tileAt 3 + 0x8000, 0x11), (storeAt + 0x10004, 0x22)] (on { plane with carves := [(65536, 1, false)] } up))), 3, 0, { desc := [0x8000, 0x10000, 1, 63, 0, 0, 0, 0], put := false, started := true }, [], storeAt + 0x10000, 0x8000, by decide +kernel⟩,
   ⟨(tileIs 3 { run := 1, xfers := [{ desc := [0x8000, 0x10000, 1, 63, 0, 0, 0, 0], put := true, started := true }] } (mem32 [(tileAt 3 + 0x8000, 0x11), (storeAt + 0x10004, 0x22)] (on { plane with carves := [(65536, 1, false)] } up))), 3, 0, { desc := [0x8000, 0x10000, 1, 63, 0, 0, 0, 0], put := true, started := true }, [], storeAt + 0x10000, 0x8000, by decide +kernel⟩⟩

theorem witness_IdleStepAdvancesCount :
  (∃ (s : State),
   s.pending = []) :=
  ⟨up, by decide +kernel⟩

theorem witness_ReferenceAndSteering :
  (∃ (s : State),
   s.dev.pwr.por = false ∧ s.dev.hs.counting = false ∧ s.unitState 40 = 1 ∧ s.dev.chuck.autoen = 0) ∧
  (∃ (s : State),
   s.ticking = true ∧ (s.unitState 40 = 2 ∨ s.unitState 40 = 1) ∧ s.dev.hs.everLocked = true) ∧
  (∃ (s : State),
   s.ticking = true ∧ s.unitState 40 = 1 ∧ s.dev.hs.everLocked = false) ∧
  (∃ (s : State),
   s.ticking = true ∧ (s.unitState 40 = 3 ∨ s.unitState 40 = 0)) ∧
  (∃ (s : State),
   s.dev.pwr.por = false ∧ s.carried = false ∧ s.unitState 40 = 1 ∧ s.dev.chuck.autoen = 0) ∧
  (∃ (s : State),
   s.dev.pwr.por = false) ∧
  (∃ (s : State) (r : Word),
   s.ticking = true ∧ s.unitState 40 = 2) ∧
  (∃ (s : State) (p : Path) (v : Word),
   s.reach p F.TB_SLEW_REMAIN.off = true) ∧
  (∃ (s : State),
   s.dev.pwr.por = false ∧ s.carried = false ∧ s.slewDone = true) ∧
  (∃ (s : State) (p : Path) (v : Word),
   s.reach p F.TB_DISC_CTL_MODE.off = true) ∧
  (∃ (s : State),
   s.ticking = true ∧ s.unitState 40 = 0 ∧ s.dev.hs.uncFrac < 1000000) ∧
  (∃ (s : State),
   s.ticking = true ∧ s.unitState 40 = 3 ∧ s.mode ≠ 2 ∧ s.temp16 = signedOf 16 s.dev.hs.holdTemp) :=
  ⟨⟨(put [(F.LEDG_UNIT_STATE 40, 1)] (onHs (fun h => { h with counting := false, everLocked := false }) up)), by decide +kernel⟩,
   ⟨up, by decide +kernel⟩,
   ⟨(put [(F.LEDG_UNIT_STATE 40, 1)] (onHs (fun h => { h with everLocked := false }) up)), by decide +kernel⟩,
   ⟨put [(F.LEDG_UNIT_STATE 40, 3)] up, by decide +kernel⟩,
   ⟨put [(F.LEDG_UNIT_STATE 40, 1)] up, by decide +kernel⟩,
   ⟨up, by decide +kernel⟩,
   ⟨up, 0x123456, by decide +kernel⟩,
   ⟨up, .pf, 0x00FFFFFF, by decide +kernel⟩,
   ⟨onHs (fun h => { h with slewFrac := slewUnit }) (put [(F.TB_SLEW_REMAIN, 1)] up), by decide +kernel⟩,
   ⟨up, .pf, 0, by decide +kernel⟩,
   ⟨put [(F.LEDG_UNIT_STATE 40, 0)] up, by decide +kernel⟩,
   ⟨put [(F.LEDG_UNIT_STATE 40, 3)] up, by decide +kernel⟩⟩

theorem witness_CountSetting :
  (∃ (s : State) (r : Bool),
   s.ticking = true ∧ (r = true ↔ s.fld F.TB_DISC_CTL_PPS_EDGE = 0) ∧ s.bit F.TB_SET_CTL_ARM = true ∧ s.enabledMask = 0) ∧
  (∃ (s : State) (r : Bool),
   s.ticking = true ∧ (r = true ↔ s.fld F.TB_DISC_CTL_PPS_EDGE = 0) ∧ s.bit F.TB_SET_CTL_ARM = true ∧ s.enabledMask ≠ 0) ∧
  (∃ (s : State) (p : Path) (v : Word),
   s.reach p F.TB_SET_CTL_ARM.off = true ∧ v.getLsbD 0 = true ∧ v.getLsbD 3 = false) ∧
  (∃ (s : State) (p : Path) (v : Word),
   s.reach p F.TB_SET_CTL_ARM.off = true ∧ v.getLsbD 3 = true ∧ v.getLsbD 1 = false ∧ v.getLsbD 2 = false) :=
  ⟨⟨put [(F.TB_SET_CTL_ARM,1), (F.TB_SET_LO_SET,77)] up, true, by decide +kernel⟩,
   ⟨put [(F.TB_SET_CTL_ARM,1), (F.TB_SET_LO_SET,77), (F.LEDG_UNIT_STATE 33, 1)] up, true, by decide +kernel⟩,
   ⟨up, .pf, 1, by decide +kernel⟩,
   ⟨up, .pf, 8, by decide +kernel⟩⟩

theorem witness_PulsesPerSecond :
  (∃ (s : State) (r : Bool),
   s.ticking = true ∧ (r = true ↔ s.fld F.TB_DISC_CTL_PPS_EDGE = 0) ∧ s.bit F.TB_SET_CTL_ARM = false ∧ s.mode ≠ 2 ∧ (s.gridError s.now).natAbs ≤ s.ppsWindow) ∧
  (∃ (s : State) (r : Bool),
   s.ticking = true ∧ (r = true ↔ s.fld F.TB_DISC_CTL_PPS_EDGE = 0) ∧ s.bit F.TB_SET_CTL_ARM = false ∧ s.ppsWindow < (s.gridError s.now).natAbs ∧ s.mode ≠ 2) ∧
  (∃ (s : State),
   s.ticking = true ∧ s.missedPulse = none) ∧
  (∃ (s : State) (g : Nat),
   s.ticking = true ∧ s.missedPulse = some g) ∧
  (∃ (s : State),
   s.ticking = true ∧ s.bit F.TB_PPSOUT_CTL_EN = true ∧ s.bit F.TB_STATUS_PPSOUT_FENCED = false ∧ s.now % 250000000 = (s.fld F.TB_PPS_PHASE_PHASE + s.fld F.TB_PPSOUT_OFS_OFS) % 250000000) ∧
  (∃ (s : State) (r : Bool),
   s.ticking = true ∧ (r = true ↔ s.fld F.TB_DISC_CTL_PPS_EDGE = 0) ∧ s.bit F.TB_SET_CTL_ARM = false ∧ s.mode = 2 ∧ (s.gridError s.now).natAbs ≤ s.ppsWindow) ∧
  (∃ (s : State) (r : Bool),
   s.ticking = true ∧ (r = true ↔ s.fld F.TB_DISC_CTL_PPS_EDGE = 0) ∧ s.bit F.TB_SET_CTL_ARM = true ∧ s.enabledMask = 0) :=
  ⟨⟨(onHs (fun h => { h with now := 250000003 }) up), true, by decide +kernel⟩,
   ⟨(onHs (fun h => { h with now := 100000000 }) up), true, by decide +kernel⟩,
   ⟨up, by decide +kernel⟩,
   ⟨onHs (fun h => { h with now := 250250001 }) up, 250000000, by decide +kernel⟩,
   ⟨(put [(F.TB_PPSOUT_CTL_EN,1)] (onHs (fun h => { h with now := 0 }) up)), by decide +kernel⟩,
   ⟨(put [(F.TB_DISC_CTL_MODE,2), (F.TB_DISC_CTL_KP_SHIFT,4), (F.TB_DISC_CTL_KI_SHIFT,6)] (onHs (fun h => { h with now := 249999990 }) up)), true, by decide +kernel⟩,
   ⟨put [(F.TB_SET_CTL_ARM,1), (F.TB_SET_LO_SET,77)] (onPwr (fun w => { w with waking := [(3, 50)] }) up), true, by decide +kernel⟩⟩

theorem witness_LaunchCopies :
  (∃ (s : State),
   s.ticking = true) ∧
  (∃ (s : State) (b : Nat),
   s.ticking = true ∧ b < 32) ∧
  (∃ (s : State),
   s.ticking = true ∧ s.fenced 43 = false) ∧
  (∃ (s : State) (k : Nat) (e : Endpoint),
   s.ticking = true ∧ ((e, k) ∈ [(Endpoint.store, 41), (.array, 112)] ∨ (∃ i, i < 4 ∧ e = .port i ∧ k = 108 + i))) ∧
  (∃ (s : State) (w : Nat),
   s.ticking = true ∧ w < 16) ∧
  (∃ (s : State),
   s.ticking = true) ∧
  (∃ (s : State),
   s.ticking = true) :=
  ⟨⟨up, by decide +kernel⟩,
   ⟨up, 3, by decide +kernel⟩,
   ⟨up, by decide +kernel⟩,
   ⟨up, 41, .store, by decide +kernel⟩,
   ⟨up, 15, by decide +kernel⟩,
   ⟨up, by decide +kernel⟩,
   ⟨up, by decide +kernel⟩⟩

theorem witness_PairLatches :
  (∃ (s : State) (p : Path) (off : Nat) (w : Word),
   s.reach p off = true ∧ s.pairHigh (pairKey p off) = some w ∧ off % 4 = 0) ∧
  (∃ (s : State) (p : Path) (off : Nat),
   (s.pairHigh (pairKey p off)).isSome = true ∧ off % 4 = 0 ∧ s.reach p (off + 4) = true) :=
  ⟨⟨up, .pf, 0x10000, 0, by decide +kernel⟩,
   ⟨up, .pf, 0x10000, by decide +kernel⟩⟩

theorem witness_TurnsAndOverruns :
  (∃ (s : State) (p : Nat),
   p < 8 ∧ s.atBoundary p = true ∧ s.ready = true ∧ (s.part p).turnStart ≠ some s.now ∧ (s.part p).regrip = none ∧ (s.part p).stopAsked = false ∧ s.unitState (32 + p) ≠ 2) ∧
  (∃ (s : State) (p : Nat),
   p < 8 ∧ s.atBoundary p = true ∧ s.ready = true ∧ (s.part p).turnStart ≠ some s.now ∧ (s.part p).regrip = none ∧ (s.part p).stopAsked = true) ∧
  (∃ (s : State) (n : Nat) (c : Chunk) (l : List Chunk),
   (s.slot n).chunks = c :: l ∧ c.launched = false ∧ laterTick s.now c.lastLaunch = true ∧ (s.plane c.part).soft = false ∧ c.part < 8 ∧ (∀ r ∈ (s.slot n).results, laterTick r.chunk.arrival c.arrival = false)) ∧
  (∃ (s : State) (n : Nat) (t : Nat) (c : Chunk) (l : List Chunk) (x : Launch),
   (s.slot n).chunks = c :: l ∧ c.launched = true ∧ s.reached (c.deadline + (s.planeFor c.part c.old).overrunOf c.group) = true ∧ c.part < 8 ∧ (s.tile t).launch = some x ∧ (n, c.arrival) ∈ x.chunks ∧ c.running = some x.stage) :=
  ⟨⟨onPart 0 { active := some plane, turnStart := some 0 } (on plane up), 0, by decide +kernel⟩,
   ⟨(onPart 0 { active := some plane, stopAsked := true } (on plane up)), 0, by decide +kernel⟩,
   ⟨(slot3 { chunks := [{ chunk with lastLaunch := 20, deadline := 30 }] } (on plane up)), 3, { chunk with lastLaunch := 20, deadline := 30 }, [], by decide +kernel⟩,
   ⟨(tileIs 3 { run := 1, launch := some { chunks := [(3, 5)], tiles := [3] } } (slot3 { chunks := [{ chunk with launched := true, running := some 0, owing := [3], deadline := 10 }] } (on plane up))), 3, 3, { chunk with launched := true, running := some 0, owing := [3], deadline := 10 }, [], { chunks := [(3, 5)], tiles := [3] }, by decide +kernel⟩⟩

theorem witness_BenchMoves :
  (∃ (s : State) (p : Nat) (i : Nat) (b : Nat) (e : TtEntry),
   s.entryNow p i false = some e ∧ e.kind = 0 ∧ s.ready = true ∧ b ∈ membersOf e.benches 32 ∧ s.fenced b = false ∧ (∀ x ∈ s.dev.pwr.waking, x.1 ≠ b) ∧ (∀ x ∈ s.dev.pwr.dwelling, x.1 ≠ b) ∧ (s.unitState b = 2 ∨ s.unitState b = 3)) ∧
  (∃ (s : State) (b : Nat) (t : Nat),
   b < 32 ∧ (b, t) ∈ s.dev.pwr.waking ∧ s.reached t = true ∧ b ∉ s.dev.pwr.cancelled) ∧
  (∃ (s : State) (b : Nat) (t : Nat),
   b < 32 ∧ (b, t) ∈ s.dev.pwr.dwelling ∧ s.reached t = true) :=
  ⟨⟨(put [(F.LEDG_UNIT_STATE 0, 3)] (on { plane with normal := [ent 0 1 0 0 0] } up)), 0, 0, 0, ent 0 1 0 0 0, by decide +kernel⟩,
   ⟨(onPwr (fun h => { h with waking := [(2, 1000)] }) up), 2, 1000, by decide +kernel⟩,
   ⟨(tileIs 33 { run := 1, sregs := [(1,5)], vregs := [(3,7)] } (onPwr (fun h => { h with dwelling := [(2, 999)] }) up)), 2, 999, by decide +kernel⟩⟩

theorem witness_GatherAndLaunch :
  (∃ (s : State) (p : Nat) (i : Nat) (e : TtEntry) (g : Group) (l : List Nat),
   s.entryNow p i false = some e ∧ e.kind = 3 ∧ s.ready = true ∧ (s.plane p).group e.group = some g ∧ l = sortNat (s.members p g (s.turnNo p)) ∧ l.Nodup) ∧
  (∃ (s : State) (p : Nat) (i : Nat) (t : Nat) (n : Nat) (e : TtEntry) (c : Chunk) (r : TileRec),
   t < 512 ∧ p < 8 ∧ s.entryNow p i false = some e ∧ e.kind = 1 ∧ s.ready = true ∧ launchStage e = 0 ∧ s.unitState (32 + p) ≠ 2 ∧ s.chunksOf p = [(n, 0, c)] ∧ s.pick (s.plane p) p false e n 0 c = .take ∧ (s.slot n).chunks = [c] ∧ (∀ b ∈ membersOf e.benches 32, s.fenced b = false ∧ s.unitState b = 1) ∧ ((membersOf e.benches 32).flatMap tilesOf).filter ((s.plane p).carries e.ref) = [t] ∧ (s.plane p).tileRec t = some r ∧ s.tileFree t = true ∧ (s.tile t).waiting = []) :=
  ⟨⟨(slot3 { chunks := [{ chunk with pos := none }] } (declared 1 (on { plane with slots := [decl], groups := [group0], normal := [ent 3 0 0 0 0] } up))), 0, 0, ent 3 0 0 0 0, group0, [3], by decide +kernel⟩,
   ⟨(tileIs 3 { vregs := [(3,7)] } (slot3 { chunks := [chunk] } (declared 1 (on { plane with slots := [decl], groups := [group0], tiles := [tile3], normal := [ent 1 1 0 0 0] } up)))), 0, 0, 3, 3, ent 1 1 0 0 0, chunk, tile3, by decide +kernel⟩⟩

theorem witness_EmitsSendResults :
  (∃ (s : State) (p : Nat) (i : Nat) (n : Nat) (x : Nat) (e : TtEntry) (r : Result),
   s.entryNow p i false = some e ∧ e.kind = 6 ∧ s.ready = true ∧ bitsOf e.w3 0 8 = 43 ∧ s.partSlots p = [n] ∧ (s.slot n).results = [r] ∧ s.dueAt p false e.group (s.slot n) r = true ∧ (r.rcount = 0 ∨ s.badLine [] [r.payRange] = none) ∧ tableEntry ((s.plane p).emitTable e.ref) n = some x ∧ destOf 43 x ∉ r.sent ∧ s.bit (F.QP_CTL_EN (bitsOf x 0 8)) = true ∧ s.unitState (44 + s.owner (bitsOf x 0 8)) ≠ 2 ∧ s.resSize (bitsOf x 0 8) ≤ 2 ^ 16 ∧
   let q := bitsOf x 0 8
   let j := s.fld (F.QP_INDEX_RES_TAIL q)
   let room := 64 * s.fld (F.QP_PAY_STRIDE_STRIDE64 q)
   (j + 1) % s.resSize q ≠ (s.pair q).head ∧ (s.payloadOf r).length ≤ room) ∧
  (∃ (s : State) (p : Nat) (i : Nat) (n : Nat) (x : Nat) (w : Nat) (e : TtEntry) (r : Result) (c : Instr),
   s.entryNow p i false = some e ∧ e.kind = 6 ∧ s.ready = true ∧ bitsOf e.w3 0 8 = w ∧ s.partSlots p = [n] ∧ (s.slot n).results = [r] ∧ s.dueAt p false e.group (s.slot n) r = true ∧ (r.rcount = 0 ∨ s.badLine [] [r.payRange] = none) ∧ tableEntry ((s.plane p).emitTable e.ref) n = some x ∧ destOf w x ∉ r.sent ∧ ((w = 112 ∧ c = .emitArray p i { old := false }) ∨ (108 ≤ w ∧ w ≤ 111 ∧ c = .emitPort p i { old := false })) ∧
   let k := if w = 112 then bitsOf x 0 3 else bitsOf x 0 5
   s.outOn w k = true ∧ r.status ≠ 9 ∧ (s.out (outKey w k)).queue.length < 2 ∧ (∀ m, (s.out (outKey w k)).next = some m → m ≤ r.chunk.seq)) :=
  ⟨⟨(put [(F.QP_CTL_EN 5,1), (F.QP_SIZES_RES_LOG2 5,3), (F.QP_PAY_STRIDE_STRIDE64 5,4), (⟨0x81154, 0, 32⟩, 0x10000), (⟨0x81160, 0, 32⟩, 0x20000)] (slot3 { results := [{ chunk := { stream := 3, seq := 7, part := 0 }, rcount := 4, rformat := 0, rrate := 3 }] } (on { plane with normal := [ent 6 0 0 0 43], emits := [3, 32773] } (mem32 [(storeAt, 0x11223344)] up)))), 0, 0, 3, 0x8005, ent 6 0 0 0 43, { chunk := { stream := 3, seq := 7, part := 0 }, rcount := 4, rformat := 0, rrate := 3 }, by decide +kernel⟩,
   ⟨(put [(F.ARR_OUT_CTL_EN 2,1)] (slot3 { results := [{ chunk := { stream := 3, seq := 7, part := 0 }, rcount := 4, rformat := 0, rrate := 3 }] } (on { plane with normal := [ent 6 0 0 0 112], emits := [3, 32770] } up))), 0, 0, 3, 0x8002, 112, ent 6 0 0 0 112, { chunk := { stream := 3, seq := 7, part := 0 }, rcount := 4, rformat := 0, rrate := 3 }, .emitArray 0 0 { old := false }, by decide +kernel⟩⟩

theorem witness_AlignAndPlay :
  (∃ (s : State) (p : Nat) (i : Nat) (k : Nat) (e : TtEntry),
   s.entryNow p i false = some e ∧ e.kind = 5 ∧ s.ready = true ∧ s.arrOn = true ∧ bitsOf e.w3 0 8 = 112 ∧ k < 16 ∧
   let d := (s.plane p).sample e.ref
   bitsOf d.1 0 1 = 0
    ∧ sampleTurn d.1 (s.turnNo p) = true) ∧
  (∃ (s : State) (p : Nat) (i : Nat) (w : Nat) (k : Nat) (e : TtEntry),
   s.entryNow p i false = some e ∧ e.kind = 5 ∧ s.ready = true ∧ 108 ≤ w ∧ w ≤ 111 ∧ bitsOf e.w3 0 8 = w ∧ s.portOn (w - 108) = true ∧ s.unitState w = 3 ∧ k < 32 ∧
   let d := (s.plane p).sample e.ref
   let j := 32 * (w - 108) + k
   bitsOf d.1 0 1 = 0 ∧ sampleTurn d.1 (s.turnNo p) = true) ∧
  (∃ (s : State) (p : Nat) (i : Nat) (k : Nat) (n : Nat) (e : TtEntry),
   s.entryNow p i false = some e ∧ e.kind = 5 ∧ s.ready = true ∧ bitsOf e.w3 0 8 = 112 ∧ k < 8 ∧ (s.out (128 + k)).next = some n ∧
   let d := (s.plane p).sample e.ref
   let rate := s.fld (F.ARR_OUT_CTL_RATE k)
   bitsOf d.1 0 1 = 1
    ∧ sampleTurn d.1 (s.turnNo p) = true) ∧
  (∃ (s : State) (p : Nat) (i : Nat) (w : Nat) (k : Nat) (n : Nat) (e : TtEntry),
   s.entryNow p i false = some e ∧ e.kind = 5 ∧ s.ready = true ∧ 108 ≤ w ∧ w ≤ 111 ∧ bitsOf e.w3 0 8 = w ∧ k < 32 ∧ (s.out (32 * (w - 108) + k)).next = some n ∧
   let d := (s.plane p).sample e.ref
   let j := 32 * (w - 108) + k
   bitsOf d.1 0 1 = 1
    ∧ sampleTurn d.1 (s.turnNo p) = true) :=
  ⟨⟨(put [(F.LEDG_UNIT_STATE 112, 2), (F.ARR_IN_CTL_EN 3,1)] (on { plane with normal := [ent 5 0 0 0 112], samples := [0xFFFF0000, 0] } up)), 0, 0, 3, ent 5 0 0 0 112, by decide +kernel⟩,
   ⟨(put [(F.LEDG_UNIT_STATE 109, 3), (F.AUD_IN_MAP_VALID 1 0,1)] (on { plane with normal := [ent 5 0 0 0 109], samples := [0, 1] } up)), 0, 0, 109, 0, ent 5 0 0 0 109, by decide +kernel⟩,
   ⟨(onDev (fun h => { h with outs := [(130, { next := some 7, queue := [{ seq := 7, rcount := 2, rformat := 0, payload := [1,2,3,4] }] })] }) (on { plane with normal := [ent 5 0 0 0 112], samples := [0xFFFF0001, 0] } up)), 0, 0, 2, 7, ent 5 0 0 0 112, by decide +kernel⟩,
   ⟨(onDev (fun h => { h with outs := [(34, { next := some 7, queue := [{ seq := 7, rcount := 2, rformat := 0, payload := [1,2,3,4] }] })] }) (on { plane with normal := [ent 5 0 0 0 109], samples := [1, 4] } up)), 0, 0, 109, 2, 7, ent 5 0 0 0 109, by decide +kernel⟩⟩

theorem witness_ChunksAreStamped :
  (∃ (s : State) (q : Nat) (b : Nat) (ws : List Byte),
   q < 256 ∧ s.bit (F.QP_CTL_EN q) = true ∧ s.linkUp = true ∧ s.ready = true ∧ s.unitState (44 + s.owner q) = 1 ∧ s.fenced (44 + s.owner q) = false ∧ (s.pair q).flight = [] ∧ s.fld (F.QP_INDEX_IN_HEAD q) % s.inSize q ≠ (s.pair q).tail ∧ (s.dev.pairs.map fun y => y.2.fetches).sum < 64 ∧ ws.length = 64 ∧ s.rangeHolds q (ingestOf ws).stream = true ∧ formatOk (ingestOf ws) = true ∧ plenOk (ingestOf ws) = true ∧ (ingestOf ws).plen ≠ 0 ∧ (ingestOf ws).plen ≤ s.slotCbuf (ingestOf ws).stream ∧ s.admitFault ((ingestOf ws).offer []) = none ∧ s.freeBuf (ingestOf ws).stream (s.flightBufs (ingestOf ws).stream) = some b) ∧
  (∃ (s : State) (q : Nat) (e : Ingest) (g : Group) (pay : List Byte),
   q < 256 ∧ s.ready = true ∧ (s.pair q).flight = [some e] ∧ e.gone = false ∧ pay.length = e.plen ∧ s.admits (e.offer pay) e.buf g ∧ s.inSize q ≤ 2 ^ 16) ∧
  (∃ (s : State) (k : Nat) (b : Nat) (x : Gather) (xs : List Gather) (g : Group),
   k < 16 ∧ s.arrOn = true ∧ (s.inp (128 + k)).ready = x :: xs ∧
   let slot := s.fld (F.ARR_IN_BIND_SLOT k)
   let seq := if (s.inp (128 + k)).declSeq ≠ (s.slot slot).decls then 0 else ((s.inp (128 + k)).seq + 1) % 2 ^ 32
   let n := x.bytes.length / unitBytes (s.inFormat k)
   let at' := x.at_ + pathLatency (s.inRate k) (s.bit (F.ARR_IN_CTL_LOWLAT k))
   let o : Offer := ⟨slot, 3, s.slotModel slot, x.flags, seq, s.inFormat k, s.inRate k, n, x.user0.getD 0, x.user1.getD 0, x.bytes, some (at' % 2 ^ 64), none⟩
   s.reached at' = true ∧ s.admits o b g) ∧
  (∃ (s : State) (k : Nat) (i : Nat) (b : Nat) (x : Gather) (xs : List Gather) (g : Group),
   i < 32 ∧ s.portOn k = true ∧ (s.inp (32 * k + i)).ready = x :: xs ∧
   let slot := s.fld (F.AUD_IN_MAP_STREAM k i)
   let seq := if (s.inp (32 * k + i)).declSeq ≠ (s.slot slot).decls then 0 else ((s.inp (32 * k + i)).seq + 1) % 2 ^ 32
   let f := s.fld (F.AUD_IN_MAP_FMT k i)
   let n := x.bytes.length / unitBytes f
   let o : Offer := ⟨slot, 2, s.slotModel slot, x.flags, seq, f, s.fld (F.AUD_CFG_RATE k), n, x.user0.getD 0, x.user1.getD 0, x.bytes, none, none⟩
   s.reached (x.at_ + 16) = true ∧ s.admits o b g) :=
  ⟨⟨(put [(F.QP_CTL_EN 5,1), (F.QP_SIZES_IN_LOG2 5,3), (F.QP_SLOTS_SLOT_HI 5,10), (⟨0x81178,0,32⟩,0x40000), (F.LEDG_GROUPS_LO 0,1)] (onDev (fun h => { h with pairs := [(5, { tail := 2, flight := [] })] }) (declared 1 (on { plane with slots := [decl], groups := [group0], normal := [ent 3 0 0 0 0] } up)))), 5, 0, toBytes 4 3 ++ toBytes 4 9 ++ List.replicate 16 0 ++ toBytes 4 (0x30 + 256 * 4) ++ toBytes 4 0 ++ List.replicate 8 0 ++ toBytes 4 8 ++ List.replicate 20 0, by decide +kernel⟩,
   ⟨(put [(F.QP_CTL_EN 5,1), (F.QP_SIZES_IN_LOG2 5,3), (F.QP_SLOTS_SLOT_HI 5,10), (⟨0x81178,0,32⟩,0x40000), (F.LEDG_GROUPS_LO 0,1)] (onDev (fun h => { h with pairs := [(5, { tail := 2, flight := [some { stream := 3, seq := 9, rate := 3, count := 4, plen := 8 }] })] }) (declared 1 (on { plane with slots := [decl], groups := [group0], normal := [ent 3 0 0 0 0] } up)))), 5, { stream := 3, seq := 9, rate := 3, count := 4, plen := 8 }, group0, (List.replicate 8 (5 : Byte)), by decide +kernel⟩,
   ⟨(put [(F.LEDG_UNIT_STATE 112, 2), (F.ARR_IN_BIND_SLOT 2,3), (F.LEDG_GROUPS_LO 0,1)] (onHs (fun h => { h with now := 1000000 }) <| onDev (fun h => { h with ins := [(130, { ready := [{ bytes := [1,2,3,4] }], seq := 4 })] }) (declared 3 (on { plane with slots := [decl], groups := [group0], normal := [ent 3 0 0 0 0] } up)))), 2, 0, { bytes := [1,2,3,4] }, [], group0, by decide +kernel⟩,
   ⟨(put [(F.LEDG_UNIT_STATE 109, 2), (F.AUD_IN_MAP_STREAM 1 2,3), (F.LEDG_GROUPS_LO 0,1)] (onDev (fun h => { h with ins := [(34, { ready := [{ bytes := [1,2,3,4] }], seq := 4 })] }) (declared 2 (on { plane with slots := [decl], groups := [group0], normal := [ent 3 0 0 0 0] } up)))), 1, 2, 0, { bytes := [1,2,3,4] }, [], group0, by decide +kernel⟩⟩

theorem witness_WalksAndPreparation :
  (∃ (s : State) (p : Nat) (i : Nat) (w : Nat) (slot : Nat) (page : Nat) (pool : Nat) (ws : List Nat) (e : TtEntry) (g : Group) (d : List Nat),
   s.entryNow p i false = some e ∧ e.kind = 2 ∧ s.ready = true ∧ (s.plane p).group e.group = some g ∧ (s.plane p).walkers[e.ref]? = some d ∧ sortNat (s.members p g (s.turnNo p + bitsOf e.w3 0 2)) = [slot] ∧ ((membersOf (s.plane p).walkMask 16).filter fun w => !inMask (s.fld F.KV_WALK_FENCE_MASK) w) = w :: ws ∧ s.heldDesc slot = none ∧ slot < 4096 ∧
   let l := s.slotPlist slot
   let r := recordAt d slot
   s.listMode l = 1 ∧ l ≠ 0 ∧ 0 < s.listLen l ∧ s.listLen l ≤ 16 ∧ 0 < s.listCap l ∧ s.listPage l 0 = page ∧ page ≠ 0 ∧ s.poolOf page = some pool ∧ s.pagePin page < 255 ∧ walkPmax d ≠ 0 ∧ walkCopy d = false ∧ s.pageAddr pool page < 2 ^ 40 ∧ s.mayRead p (s.listRange l) = true ∧ s.badLine [] [s.listRange l] = none ∧ Apart r 0x48 (storeAt + l) 0x44 ∧ Apart r 0x48 (s.ledgerAt page) 4 ∧ Apart r 0x48 (slotEntryAt slot) 32) ∧
  (∃ (s : State) (p : Nat) (i : Nat) (w : Nat) (slot : Nat) (ws : List Nat) (e : TtEntry) (g : Group) (d : List Nat),
   s.entryNow p i false = some e ∧ e.kind = 2 ∧ s.ready = true ∧ (s.plane p).group e.group = some g ∧ (s.plane p).walkers[e.ref]? = some d ∧ sortNat (s.members p g (s.turnNo p + bitsOf e.w3 0 2)) = [slot] ∧ ((membersOf (s.plane p).walkMask 16).filter fun w => !inMask (s.fld F.KV_WALK_FENCE_MASK) w) = w :: ws ∧ (s.heldDesc slot).isSome = true ∧ (s.slot slot).boundOnly (s.turnNo p + bitsOf e.w3 0 2) = false) ∧
  (∃ (s : State) (p : Nat) (i : Nat) (t : Nat) (slot : Nat) (k : Nat) (e : TtEntry) (d : List Nat) (c : Chunk),
   s.ready = true ∧ s.closeNow p i false = some (e, t) ∧ (s.plane p).merges[e.ref]? = some d ∧ s.chunksOf p = [(slot, k, c)] ∧ (s.slot slot).chunks = [c] ∧ c.part = p ∧ s.gatheredOld p c = false ∧ c.group = e.group ∧ c.pos.isSome = true ∧ c.gatherTurn = t ∧ mergeSlot0 d ≤ slot ∧ slot < mergeSlot0 d + mergeSlots d ∧ mergeSrcs d = 1 ∧ mergeRecs d = 1) ∧
  (∃ (s : State) (slot : Nat) (i : Nat) (c : Chunk),
   s.ready = true ∧ s.prepIdx slot = some i ∧ (s.slot slot).chunks[i]? = some c ∧ s.descFor c.part false c.group slot = none ∧ s.slotPlist slot = 0 ∧ c.tailWait = false) ∧
  (∃ (s : State) (slot : Nat) (c : Chunk),
   s.ready = true ∧ s.prepIdx slot = some 0 ∧ (s.slot slot).chunks = [c] ∧ s.descFor c.part false c.group slot = none ∧ hasFlag c.flags flagNewUtt = false ∧ (s.slot slot).newUtt = false ∧ c.tailWait = false ∧ (∀ f, (s.slot slot).walkFail = some f → f.1 ≠ c.gatherTurn) ∧ (s.planeFor c.part c.old).dests c.group slot ≠ [] ∧ s.slotPlist slot ≠ 0 ∧
   let l := s.slotPlist slot
   s.mayRead c.part (s.listRange l) = true ∧ s.badLine [] [s.listRange l] = none) ∧
  (∃ (s : State) (slot : Nat) (i : Nat) (d : List Nat),
   s.ready = true ∧ s.buildIdx slot = some i ∧ s.heldDesc slot = some d ∧ walkerWord d 5 = 0 ∧ walkQmax d ≠ 0 ∧ (∀ r ∈ maskEntry d slot ++ s.maskPages d slot 1, s.mayRead ((s.slot slot).chunks.getD i {}).part r = true) ∧ s.badLine [] (maskEntry d slot) = none ∧ s.badLine [] (s.maskPages d slot 1) = none) ∧
  (∃ (s : State) (slot : Nat) (d : List Nat),
   s.ready = true ∧ s.recordFree slot = true ∧ s.heldDesc slot = some d ∧ (s.slot slot).pins = []) ∧
  (∃ (s : State) (slot : Nat) (page : Nat) (d : List Nat),
   s.ready = true ∧ s.recordFree slot = true ∧ s.heldDesc slot = some d ∧ (s.slot slot).pins = [page] ∧ 1 < s.pagePin page ∧ Apart (s.ledgerAt page) 4 (recordAt d slot) 4) :=
  ⟨⟨(mem32 [(storeAt + 196608, 1), (storeAt + 196616, 4), (storeAt + 196624, 10), (storeAt + 196672, 5)] (mem32 [(storeAt + 0x50014, 134217729)] (put [(F.KV_POOL_A_VALID 0, 1), (F.KV_POOL_A_BASE64K 0, 0x10004), (F.KV_POOL_B_FIRST 0, 1), (F.KV_POOL_C_COUNT 0, 100), (F.KV_LEDGER_BASE_OFFSET, 0x50000)] (mem32 [(slotEntryAt 3 + 16, 0x30000)] (declared 1 (on { plane with slots := [decl], groups := [group0], walkMask := 4, walkers := [[0, 0x10000, 0x20000, 0x100, 32771, 0, 0, 0]], carves := [(65536, 1, false)], normal := [ent 2 0 0 0 0] } up)))))), 0, 0, 2, 3, 5, 0, [], ent 2 0 0 0 0, group0, [0, 0x10000, 0x20000, 0x100, 32771, 0, 0, 0], by decide +kernel⟩,
   ⟨(slot3 { walkDesc := some [0, 0x10000, 0x20000, 0x100, 32771, 0, 0, 0] } (mem32 [(storeAt + 196608, 1), (storeAt + 196616, 4), (storeAt + 196624, 10), (storeAt + 196672, 5)] (mem32 [(storeAt + 0x50014, 134217729)] (put [(F.KV_POOL_A_VALID 0, 1), (F.KV_POOL_A_BASE64K 0, 0x10004), (F.KV_POOL_B_FIRST 0, 1), (F.KV_POOL_C_COUNT 0, 100), (F.KV_LEDGER_BASE_OFFSET, 0x50000)] (mem32 [(slotEntryAt 3 + 16, 0x30000)] (declared 1 (on { plane with slots := [decl], groups := [group0], walkMask := 4, walkers := [[0, 0x10000, 0x20000, 0x100, 32771, 0, 0, 0]], carves := [(65536, 1, false)], normal := [ent 2 0 0 0 0] } up))))))), 0, 0, 2, 3, [], ent 2 0 0 0 0, group0, [0, 0x10000, 0x20000, 0x100, 32771, 0, 0, 0], by decide +kernel⟩,
   ⟨(mem32 [(storeAt + 0x61000, 1), (storeAt + 0x61004, 3), (storeAt + 0x61008, 1), (storeAt + 0x6100C, 7)] (slot3 { chunks := [chunk] } (declared 1 (banked [⟨ent 4 0 0 0 0, 0, 1, 999⟩] { plane with slots := [decl], groups := [group0], merges := [[0, 0x60000, 3, 0x1000]], normal := [ent 4 0 0 0 0] } up)))), 0, 0, 1, 3, 0, ent 4 0 0 0 0, [0, 0x60000, 3, 0x1000], chunk, by decide +kernel⟩,
   ⟨(slot3 { chunks := [chunk] } (declared 1 (on { plane with slots := [decl], groups := [group0] } up))), 3, 0, chunk, by decide +kernel⟩,
   ⟨(slot3 { chunks := [chunk] } (mem32 [(storeAt + 196608, 1), (storeAt + 196616, 4), (storeAt + 196624, 10), (storeAt + 196672, 5)] (mem32 [(storeAt + 0x50014, 134217729)] (put [(F.KV_POOL_A_VALID 0, 1), (F.KV_POOL_A_BASE64K 0, 0x10004), (F.KV_POOL_B_FIRST 0, 1), (F.KV_POOL_C_COUNT 0, 100), (F.KV_LEDGER_BASE_OFFSET, 0x50000)] (mem32 [(slotEntryAt 3 + 16, 0x30000)] (declared 1 (on { plane with slots := [decl], groups := [group0], carves := [(65536, 1, false)], normal := [ent 6 0 0 0 43], emits := [3, 32773] } up))))))), 3, chunk, by decide +kernel⟩,
   ⟨(slot3 { chunks := [{ chunk with prepared := true, bound := true }], walkDesc := some [0, 0x10000, 0x20000, 0x100, 32771, 0, 0, 0] } (put [(F.KV_EMPTY_ROWS,3)] (mem32 [(storeAt + 0x20000, 65539)] (put [(F.KV_POOL_A_VALID 0, 1), (F.KV_POOL_A_BASE64K 0, 0x10004), (F.KV_POOL_B_FIRST 0, 1), (F.KV_POOL_C_COUNT 0, 100), (F.KV_LEDGER_BASE_OFFSET, 0x50000)] (mem32 [(slotEntryAt 3 + 16, 0x30000)] (declared 1 (on { plane with slots := [decl], groups := [group0], walkMask := 4, walkers := [[0, 0x10000, 0x20000, 0x100, 32771, 0, 0, 0]], carves := [(65536, 1, false)], normal := [ent 2 0 0 0 0] } up))))))), 3, 0, [0, 0x10000, 0x20000, 0x100, 32771, 0, 0, 0], by decide +kernel⟩,
   ⟨(onDev (fun d => { d with slots := [(3, { chunks := [], walkDesc := some [0, 0x10000, 0x20000, 0x100, 32771, 0, 0, 0], walkTurn := 0 })] }) (put [(F.KV_EMPTY_ROWS,3)] (mem32 [(storeAt + 0x20000, 65539)] (put [(F.KV_POOL_A_VALID 0, 1), (F.KV_POOL_A_BASE64K 0, 0x10004), (F.KV_POOL_B_FIRST 0, 1), (F.KV_POOL_C_COUNT 0, 100), (F.KV_LEDGER_BASE_OFFSET, 0x50000)] (mem32 [(slotEntryAt 3 + 16, 0x30000)] (declared 1 (on { plane with slots := [decl], groups := [group0], walkMask := 4, walkers := [[0, 0x10000, 0x20000, 0x100, 32771, 0, 0, 0]], carves := [(65536, 1, false)], normal := [ent 2 0 0 0 0] } up))))))), 3, [0, 0x10000, 0x20000, 0x100, 32771, 0, 0, 0], by decide +kernel⟩,
   ⟨(onDev (fun d => { d with slots := [(3, { chunks := [], walkDesc := some [0, 0x10000, 0x20000, 0x100, 32771, 0, 0, 0], walkTurn := 0, pins := [5] })] }) (mem32 [(storeAt + 0x50014, 134348801)] (put [(F.KV_EMPTY_ROWS,3)] (mem32 [(storeAt + 0x20000, 65539)] (put [(F.KV_POOL_A_VALID 0, 1), (F.KV_POOL_A_BASE64K 0, 0x10004), (F.KV_POOL_B_FIRST 0, 1), (F.KV_POOL_C_COUNT 0, 100), (F.KV_LEDGER_BASE_OFFSET, 0x50000)] (mem32 [(slotEntryAt 3 + 16, 0x30000)] (declared 1 (on { plane with slots := [decl], groups := [group0], walkMask := 4, walkers := [[0, 0x10000, 0x20000, 0x100, 32771, 0, 0, 0]], carves := [(65536, 1, false)], normal := [ent 2 0 0 0 0] } up)))))))), 3, 5, [0, 0x10000, 0x20000, 0x100, 32771, 0, 0, 0], by decide +kernel⟩⟩

theorem witness_PageOperations :
  (∃ (s : State) (p : Path) (q : Nat),
   s.reach p F.KV_OP_CTL_OPC.off = true ∧ s.nextPage (s.fld F.KV_OP_ARG0) = some q ∧ q < 2 ^ F.KV_OP_STATUS_PAGE.w) ∧
  (∃ (s : State) (p : Path),
   s.reach p F.KV_OP_CTL_OPC.off = true ∧ s.nextPage (s.fld F.KV_OP_ARG0) = none) ∧
  (∃ (s : State) (p : Path),
   s.reach p F.KV_OP_CTL_OPC.off = true ∧
   let page := s.fld F.KV_OP_ARG0
   (s.poolOf page).isSome = true
    ∧ s.pageRef page < 65535) ∧
  (∃ (s : State) (p : Path),
   s.reach p F.KV_OP_CTL_OPC.off = true ∧
   let page := s.fld F.KV_OP_ARG0
   (s.poolOf page).isSome = true
    ∧ s.pageRef page ≠ 0 ∧ s.pagePoison page = false) ∧
  (∃ (s : State) (p : Path),
   s.reach p F.KV_OP_CTL_OPC.off = true ∧
   let a := s.fld F.KV_OP_ARG0
   let b := s.fld F.KV_OP_ARG1
   let page := s.listPage a 0
   s.kvVerdict 4 a b = 0 ∧ s.listCap a ≠ 0 ∧ 0 < s.listLen a ∧ s.listLen a ≤ 16 ∧ page ≠ 0 ∧ s.pageRef page < 65535 ∧ Apart (storeAt + a) 0x44 (storeAt + b) 0x44 ∧ Apart (s.ledgerAt page) 4 (storeAt + a) 0x44 ∧ Apart (s.ledgerAt page) 4 (storeAt + b) 0x44 ∧ s.dropsIn (storeAt + b) 0x44 = false) ∧
  (∃ (s : State) (p : Path),
   s.reach p F.KV_OP_CTL_OPC.off = true ∧
   let l := s.fld F.KV_OP_ARG0
   let page := s.listPage l 0
   s.kvVerdict 5 l (s.fld F.KV_OP_ARG1) = 0 ∧ s.listCap l = 1 ∧ s.listTpl l = 0 ∧ page ≠ 0 ∧ 1 < s.pageRef page ∧ Apart (s.ledgerAt page) 4 (storeAt + l) 0x44 ∧ s.dropsIn (storeAt + l) 0x44 = false) :=
  ⟨⟨(put [(F.KV_OP_ARG0,0), (F.KV_OP_ARG1,0)] (mem32 [(storeAt + 0x50014, 134217729)] (put [(F.KV_POOL_A_VALID 0, 1), (F.KV_POOL_A_BASE64K 0, 0x10004), (F.KV_POOL_B_FIRST 0, 1), (F.KV_POOL_C_COUNT 0, 100), (F.KV_LEDGER_BASE_OFFSET, 0x50000)] (mem32 [(slotEntryAt 3 + 16, 0x30000)] (declared 1 (on { plane with slots := [decl], groups := [group0], walkMask := 4, walkers := [[0, 0x10000, 0x20000, 0x100, 32771, 0, 0, 0]], carves := [(65536, 1, false)], normal := [ent 2 0 0 0 0] } up)))))), .pf, 1, by decide +kernel⟩,
   ⟨(put [(F.KV_OP_ARG0,1), (F.KV_OP_ARG1,0)] (put [(F.KV_POOL_A_VALID 0, 1), (F.KV_POOL_A_BASE64K 0, 0x10004), (F.KV_POOL_B_FIRST 0, 1), (F.KV_POOL_C_COUNT 0, 100), (F.KV_LEDGER_BASE_OFFSET, 0x50000)] (mem32 [(slotEntryAt 3 + 16, 0x30000)] (declared 1 (on { plane with slots := [decl], groups := [group0], walkMask := 4, walkers := [[0, 0x10000, 0x20000, 0x100, 32771, 0, 0, 0]], carves := [(65536, 1, false)], normal := [ent 2 0 0 0 0] } up))))), .pf, by decide +kernel⟩,
   ⟨(put [(F.KV_OP_ARG0,5), (F.KV_OP_ARG1,0)] (mem32 [(storeAt + 0x50014, 134217729)] (put [(F.KV_POOL_A_VALID 0, 1), (F.KV_POOL_A_BASE64K 0, 0x10004), (F.KV_POOL_B_FIRST 0, 1), (F.KV_POOL_C_COUNT 0, 100), (F.KV_LEDGER_BASE_OFFSET, 0x50000)] (mem32 [(slotEntryAt 3 + 16, 0x30000)] (declared 1 (on { plane with slots := [decl], groups := [group0], walkMask := 4, walkers := [[0, 0x10000, 0x20000, 0x100, 32771, 0, 0, 0]], carves := [(65536, 1, false)], normal := [ent 2 0 0 0 0] } up)))))), .pf, by decide +kernel⟩,
   ⟨(put [(F.KV_OP_ARG0,5), (F.KV_OP_ARG1,0)] (mem32 [(storeAt + 0x50014, 134217729)] (put [(F.KV_POOL_A_VALID 0, 1), (F.KV_POOL_A_BASE64K 0, 0x10004), (F.KV_POOL_B_FIRST 0, 1), (F.KV_POOL_C_COUNT 0, 100), (F.KV_LEDGER_BASE_OFFSET, 0x50000)] (mem32 [(slotEntryAt 3 + 16, 0x30000)] (declared 1 (on { plane with slots := [decl], groups := [group0], walkMask := 4, walkers := [[0, 0x10000, 0x20000, 0x100, 32771, 0, 0, 0]], carves := [(65536, 1, false)], normal := [ent 2 0 0 0 0] } up)))))), .pf, by decide +kernel⟩,
   ⟨(put [(F.KV_OP_ARG0,196608), (F.KV_OP_ARG1,204800)] (mem32 [(storeAt + 0x32000, 1), (storeAt + 0x32008, 4), (storeAt + 196608, 1), (storeAt + 196616, 4), (storeAt + 196624, 10), (storeAt + 196672, 5)] (mem32 [(storeAt + 0x50014, 134217729)] (put [(F.KV_POOL_A_VALID 0, 1), (F.KV_POOL_A_BASE64K 0, 0x10004), (F.KV_POOL_B_FIRST 0, 1), (F.KV_POOL_C_COUNT 0, 100), (F.KV_LEDGER_BASE_OFFSET, 0x50000)] (mem32 [(slotEntryAt 3 + 16, 0x30000)] (declared 1 (on { plane with slots := [decl], groups := [group0], walkMask := 4, walkers := [[0, 0x10000, 0x20000, 0x100, 32771, 0, 0, 0]], carves := [(65536, 1, false)], normal := [ent 2 0 0 0 0] } up))))))), .pf, by decide +kernel⟩,
   ⟨(put [(F.KV_OP_ARG0,196608), (F.KV_OP_ARG1,0)] (mem32 [(storeAt + 196608, 1), (storeAt + 196616, 1), (storeAt + 196624, 10), (storeAt + 196672, 5)] (mem32 [(storeAt + 0x50014, 134217730)] (put [(F.KV_POOL_A_VALID 0, 1), (F.KV_POOL_A_BASE64K 0, 0x10004), (F.KV_POOL_B_FIRST 0, 1), (F.KV_POOL_C_COUNT 0, 100), (F.KV_LEDGER_BASE_OFFSET, 0x50000)] (mem32 [(slotEntryAt 3 + 16, 0x30000)] (declared 1 (on { plane with slots := [decl], groups := [group0], walkMask := 4, walkers := [[0, 0x10000, 0x20000, 0x100, 32771, 0, 0, 0]], carves := [(65536, 1, false)], normal := [ent 2 0 0 0 0] } up))))))), .pf, by decide +kernel⟩⟩

theorem witness_RegisterAccess :
  (∃ (s : State) (p : Path) (off : Nat) (v : Word),
   (∀ n, p ≠ .vf n) ∧ s.reach p off = true ∧ off < 0x10000 ∧ off % 4 = 0 ∧ RegMap.fields off ≠ [] ∧ s.dev.ledg.cycle = []) ∧
  (∃ (s : State) (p : Path) (off : Nat) (v : Word),
   (∀ n, p ≠ .vf n) ∧ s.reach p off = true ∧ off % 4 = 0 ∧ RegMap.fields off = [] ∧ s.dev.ledg.cycle = []) ∧
  (∃ (s : State) (off : Nat) (v : Word),
   s.reach .pf off = true ∧ s.dev.ledg.cycle = []) ∧
  (∃ (s : State) (p : Path) (off : Nat) (r : Nat) (k : Kept) (acked : Bool),
   (∀ n, p ≠ .vf n) ∧ s.reach p off = true ∧ off % 4 = 0 ∧ RegMap.fields off = [⟨0, 32, .rc, r, k⟩] ∧ isPairHigh off = false ∧ s.viewOf off = none ∧ s.heldWindow off = false ∧ off ≠ F.ARR_FAB_MDATA_LO.off) :=
  ⟨⟨up, .pf, 0x18, 5, by (
     with_reducible and_intros
     · nofun
     all_goals decide +kernel)⟩,
   ⟨up, .pf, 0x1000, 5, by (
     with_reducible and_intros
     · nofun
     all_goals decide +kernel)⟩,
   ⟨up, 0x18, 5, by decide +kernel⟩,
   ⟨put [(F.KV_WALKS,7)] up, .pf, 0x300060, 0, .H, true, by (
     with_reducible and_intros
     · nofun
     all_goals decide +kernel)⟩⟩

theorem witness_NarrowWritesAreDropped :
  (∃ (s : State) (p : Path) (off : Nat) (v : Word) (how : WriteForm),
   s.reach p off = true ∧ (how = .narrow ∨ (how = .word ∧ off % 4 ≠ 0)) ∧ s.dev.ledg.cycle = []) :=
  ⟨up, .pf, 0x18, 5, .narrow, by decide +kernel⟩

theorem witness_StoreAccess :
  (∃ (s : State) (off : Nat) (len : Nat),
   s.pfOpen = true ∧ 0 < len ∧ off + len ≤ storeSize ∧ off + len ≤ s.dev.bar2Size ∧ s.fenced 41 = false ∧ (∀ i, i < len → s.bar2Denies (storeAt + off + i) = false ∧ pendingByte (storeAt + off + i) = false ∧ s.dev.poison.contains ((storeAt + off + i) / 64 * 64) = false)) ∧
  (∃ (s : State) (off : Nat) (len : Nat),
   s.pfOpen = true ∧ 0 < len ∧ off + len ≤ storeSize ∧ off + len ≤ s.dev.bar2Size ∧ s.fenced 41 = false ∧ (∀ i, i < len → s.bar2Denies (storeAt + off + i) = true)) ∧
  (∃ (s : State) (peer : Bool) (off : Nat) (bs : List Byte),
   s.pfOpen = true ∧ bs ≠ [] ∧ off % 64 + bs.length ≤ 64 ∧ off + bs.length ≤ storeSize ∧ off + bs.length ≤ s.dev.bar2Size ∧ s.fenced 41 = false ∧ s.closedAt (storeAt + off) = none ∧ (∀ i, i < bs.length → s.bar2Drops (storeAt + off + i) = false)) ∧
  (∃ (s : State) (peer : Bool) (off : Nat) (bs : List Byte),
   s.pfOpen = true ∧ bs ≠ [] ∧ off % 64 + bs.length ≤ 64 ∧ off + bs.length ≤ storeSize ∧ off + bs.length ≤ s.dev.bar2Size ∧ s.fenced 41 = false ∧ s.closedAt (storeAt + off) = none ∧ (∀ i, i < bs.length → s.bar2Drops (storeAt + off + i) = true)) ∧
  (∃ (s : State) (e : EccErr),
   s.ready = true ∧ s.bit F.STORE_ECC_CTL_SCRUB_EN = true) :=
  ⟨⟨mem32 [(storeAt + 100, 77)] up, 100, 4, by decide +kernel⟩,
   ⟨(on { plane with prBase := 0, prSize := 1 } up), 0x1FFFF0, 8, by decide +kernel⟩,
   ⟨up, false, 64, List.replicate 64 7, by decide +kernel⟩,
   ⟨up, false, 0x3FE00000, [1,2], by decide +kernel⟩,
   ⟨put [(F.STORE_ECC_CTL_SCRUB_EN,1), (F.STORE_SCRUB_POS_OFFSET,0)] up, .none, by decide +kernel⟩⟩

theorem witness_FarMemory :
  (∃ (s : State) (p : Path) (v : Word),
   s.reach p F.FAR_TRAIN_CTL_START.off = true ∧ s.farRefusal = none ∧ s.fld F.FAR_CFG_CHMASK ≠ 0) ∧
  (∃ (s : State) (p : Path) (v : Word) (c : Nat),
   s.reach p F.FAR_TRAIN_CTL_START.off = true ∧ s.farRefusal = some c ∧ s.fresh (256 * 0x6012 + 42) (.ticks 2500000) = true) ∧
  (∃ (s : State) (step : Nat) (failch : Nat),
   s.ready = true ∧ s.unitState 42 = 2) ∧
  (∃ (s : State) (m : Nat) (x : Nat) (hot : Bool) (tooHot : Bool),
   s.ready = true ∧ s.unitState 42 = 3) ∧
  (∃ (s : State),
   s.ready = true ∧ s.unitState 42 = 3 ∧ s.servingWindow = true) ∧
  (∃ (s : State) (p : Nat) (i : Nat) (t : Nat) (w : Nat × Nat) (x : Xfer) (xs : List Xfer),
   s.ready = true ∧ (s.plane p).farWins[i]? = some w ∧ s.partOn p = true ∧ s.reached (s.turnOrg p) = true ∧ s.since (s.turnOrg p) % s.turnLen p = (winRange w).1 ∧ (s.dev.tiles.filter fun t => (t.2.xfers.headD {}).waits && (t.2.xfers.headD {}).part == p).map Prod.fst = [t] ∧ (s.tile t).xfers = x :: xs ∧ s.startOf t x = .go ∧ (∀ n, (s.slot n).walkLeft = [])) :=
  ⟨⟨put [(F.FAR_CFG_CHMASK,255)] up, .pf, 1, by decide +kernel⟩,
   ⟨put [(F.FAR_CFG_RATE,7)] up, .pf, 1, 3, by decide +kernel⟩,
   ⟨(put [(F.LEDG_UNIT_STATE 42, 2)] (onDev (fun h => { h with farKeep := true }) (mem32 [(farAt, 5)] up))), 9, 0, by decide +kernel⟩,
   ⟨put [(F.LEDG_UNIT_STATE 42, 3)] up, 3, 1, true, true, by decide +kernel⟩,
   ⟨(put [(F.LEDG_UNIT_STATE 42, 3)] (on { plane with farWins := [(0, 100)] } up)), by decide +kernel⟩,
   ⟨(put [(F.LEDG_UNIT_STATE 42, 3)] (onDev (fun h => { h with farCfg := 0xFF0000 }) (tileIs 3 { xfers := [{ waits := true, desc := [0,0,16,63,0,0,0,0] }] } (on { plane with farWins := [(0, 100)], carves := [(65536, 1, true)] } up)))), 0, 0, 3, (0, 100), { waits := true, desc := [0,0,16,63,0,0,0,0] }, [], by (
     with_reducible and_intros
     all_goals first | decide +kernel | exact fun n => rfl)⟩⟩

theorem witness_BootTriesSources :
  (∃ (s : State) (f : FlashIn) (x : Nat) (xs : List Nat),
   s.dev.pwr.por = false ∧ s.heldReset = false ∧ s.devState = 0 ∧ s.bootSources = x :: xs ∧ x ≠ 1 ∧ s.dev.chuck.load = none) ∧
  (∃ (s : State) (f : FlashIn) (data : List Byte) (check : List Byte) (l : Load),
   s.atFlash = true ∧ s.dev.chuck.probed = true ∧ data.length = 4096 ∧ s.dev.chuck.load = some l ∧ l.bytes.length < s.flashReach ∧ check = data.drop 4080 ∧ (l.bytes ++ data).length ≤ (hdrOf (l.bytes ++ data)).length) ∧
  (∃ (s : State) (f : FlashIn) (data : List Byte) (check : List Byte) (l : Load),
   s.atFlash = true ∧ s.dev.chuck.probed = true ∧ data.length = 4096 ∧ s.dev.chuck.load = some l ∧ l.bytes.length < s.flashReach ∧ check ≠ data.drop 4080 ∧ s.dev.chuck.retries < 3) ∧
  (∃ (s : State) (t : Nat) (x : Nat) (y : Nat) (ys : List Nat),
   s.ready = true ∧ s.dev.chuck.booting = true ∧ s.dev.chuck.load = none ∧ s.bootBound = some t ∧ s.reached t = true ∧ s.dev.chuck.sources = x :: y :: ys ∧ y < 8) ∧
  (∃ (s : State) (t : Nat) (x : Nat),
   s.ready = true ∧ s.dev.chuck.booting = true ∧ s.dev.chuck.load = none ∧ s.bootBound = some t ∧ s.reached t = true ∧ s.dev.chuck.sources = [x]) :=
  ⟨⟨put [(F.PCK_STATUS_DEV, 0), (F.IMG_STATUS_BOOTSEL,1)] up, ⟨[], true, 0, false, false, false, false⟩, 2, [1, 3, 4], by decide +kernel⟩,
   ⟨(put [(F.IMG_STATUS_CHUCK,1)] (onChuck (fun h => { h with booting := true, sources := [1], probed := true, retries := 2, load := some { src := 1 } }) up)), ⟨[], true, 0, false, false, false, false⟩, List.replicate 4096 1, List.replicate 16 1, { src := 1 }, by decide +kernel⟩,
   ⟨(put [(F.IMG_STATUS_CHUCK,1)] (onChuck (fun h => { h with booting := true, sources := [1], probed := true, retries := 2, load := some { src := 1 } }) up)), ⟨[], true, 0, false, false, false, false⟩, List.replicate 4096 0, List.replicate 16 1, { src := 1 }, by decide +kernel⟩,
   ⟨(put [(F.IMG_STATUS_CHUCK,1)] (onChuck (fun h => { h with booting := true, sources := [2, 3], sourceAt := 0 }) (onHs (fun h => { h with now := 500000000 }) up))), 500000000, 2, 3, [], by decide +kernel⟩,
   ⟨(put [(F.IMG_STATUS_CHUCK,1)] (onChuck (fun h => { h with booting := true, sources := [2], sourceAt := 0 }) (onHs (fun h => { h with now := 500000000 }) up))), 500000000, 2, by decide +kernel⟩⟩

theorem witness_ImageLoads :
  (∃ (s : State) (p : Path) (v : Word) (k : Nat) (c : Instr),
   s.reach p F.IMG_CTL_LOAD.off = true ∧ (k, c) ∈ [(0, Instr.imgLoadFull p v), (1, .imgLoadStage p v), (2, .imgLoadActive p v)] ∧
   let part := bitsOf v.toNat 4 3
   s.mayLoad k part 2 = true
   ) ∧
  (∃ (s : State) (p : Path) (v : Word) (k : Nat) (c : Instr),
   s.reach p F.IMG_CTL_LOAD.off = true ∧ v.getLsbD 1 = false ∧ (k, c) ∈ [(0, Instr.imgLoadFull p v), (1, .imgLoadStage p v), (2, .imgLoadActive p v)] ∧ s.mayLoad k (bitsOf v.toNat 4 3) 2 = false) ∧
  (∃ (s : State) (p : Path) (v : Word) (l : Load),
   s.reach p F.IMG_CTL_LOAD.off = true ∧ v.getLsbD 0 = false ∧ s.dev.chuck.load = some l ∧ l.boot = false ∧ s.fld F.IMG_STATUS_CHUCK ≠ 3) ∧
  (∃ (s : State) (l : Load),
   s.ready = true ∧ s.dev.chuck.load = some l ∧ l.boot = false ∧ s.fld F.IMG_STATUS_CHUCK ≠ 3 ∧ l.src = 4 ∧ s.reached (l.lastData + 500000000) = true) ∧
  (∃ (s : State) (l : Load) (data : List Byte),
   s.ready = true ∧ s.fld F.IMG_STATUS_CHUCK = 1 ∧ s.dev.chuck.load = some l ∧ l.src ≠ 2 ∧ l.boot = false ∧ l.kind = 1 ∧ l.part < 8 ∧ l.complete = true) :=
  ⟨⟨up, .pf, 1, 0, .imgLoadFull .pf 1, by decide +kernel⟩,
   ⟨put [(F.LEDG_UNIT_STATE 34, 1)] up, .pf, 1, 0, .imgLoadFull .pf 1, by decide +kernel⟩,
   ⟨(put [(F.IMG_STATUS_CHUCK,1)] (onChuck (fun h => { h with load := some { kind := 1, part := 2, src := 4, bytes := List.replicate 256 0 } }) up)), .pf, 2, { kind := 1, part := 2, src := 4, bytes := List.replicate 256 0 }, by decide +kernel⟩,
   ⟨(put [(F.IMG_STATUS_CHUCK,1)] (onChuck (fun h => { h with load := some { kind := 1, part := 2, src := 4, bytes := List.replicate 256 0 } }) (onHs (fun h => { h with now := 500000000 }) up))), { kind := 1, part := 2, src := 4, bytes := List.replicate 256 0 }, by decide +kernel⟩,
   ⟨(put [(F.IMG_STATUS_CHUCK,1)] (onChuck (fun h => { h with load := some { kind := 1, part := 2, src := 4, bytes := List.replicate 256 0 } }) up)), { kind := 1, part := 2, src := 4, bytes := List.replicate 256 0 }, [], by decide +kernel⟩⟩

theorem witness_RollbackAndFuses :
  (∃ (s : State) (p : Path) (v : Word),
   s.reach p F.SEC_RB_COMMIT_VALUE.off = true ∧ s.bit F.SEC_RB_STAT_BUSY = false ∧ bitsOf v.toNat 16 16 = 0xC0DE ∧ s.dev.chuck.rbCount < bitsOf v.toNat 0 7 ∧ bitsOf v.toNat 0 7 ≤ s.fld F.SEC_ACT_SEQ_SEQ) ∧
  (∃ (s : State) (p : Path) (v : Word),
   s.reach p F.SEC_RB_COMMIT_VALUE.off = true ∧ (s.bit F.SEC_RB_STAT_BUSY = true ∨ bitsOf v.toNat 16 16 ≠ 0xC0DE ∨ bitsOf v.toNat 0 7 ≤ s.dev.chuck.rbCount ∨ s.fld F.SEC_ACT_SEQ_SEQ < bitsOf v.toNat 0 7)) ∧
  (∃ (s : State) (v : Nat),
   s.dev.chuck.rbTarget = some v ∧ s.dev.pwr.por = false ∧ s.heldReset = false ∧ s.inRest = false) ∧
  (∃ (s : State) (p : Path) (v : Word),
   s.reach p F.SEC_PROG_CTL_BURN.off = true ∧ (p = .pf ∨ p = .mb ∨ p = .usb ∨ p = .spi) ∧
   let w := s.fld F.SEC_PROG_SEL_WORD
   let d := s.fld F.SEC_PROG_DATA
   w ≤ 20
    ∧ (w < 20 → fuseBit s.dev.chuck 0 = false)) ∧
  (∃ (s : State) (p : Path) (v : Word) (ok : Bool),
   s.reach p F.SEC_PROG_CTL_BURN.off = true ∧ (20 < s.fld F.SEC_PROG_SEL_WORD ∨ (s.fld F.SEC_PROG_SEL_WORD < 20 ∧ fuseBit s.dev.chuck 0 = true))) :=
  ⟨⟨put [(F.SEC_ACT_SEQ_SEQ,9)] up, .pf, 0xC0DE0007, by decide +kernel⟩,
   ⟨put [(F.SEC_ACT_SEQ_SEQ,9)] up, .mb, 0xC0DE000A, by decide +kernel⟩,
   ⟨(put [(F.SEC_RB_STAT_BUSY,1)] (onChuck (fun h => { h with rbCount := 3, rbTarget := some 7 }) up)), 7, by decide +kernel⟩,
   ⟨put [(F.SEC_PROG_SEL_WORD,3), (F.SEC_PROG_DATA,85)] up, .pf, 1, by decide +kernel⟩,
   ⟨put [(F.SEC_PROG_SEL_WORD,21)] up, .pf, 1, true, by decide +kernel⟩⟩

theorem witness_Regrips :
  (∃ (s : State) (p : Nat) (o : Regrip) (cut : Bool) (a : Plane) (st : Plane),
   p < 8 ∧ s.ready = true ∧ (s.part p).regrip = some o ∧ ((membersOf o.pmask 8).filter fun q => (s.part q).regrip == some o) = [p] ∧ s.partOn p = true ∧ s.regripNow [p] o = some cut ∧ (s.part p).active = some a ∧ (s.part p).staged = some st ∧ st.release = false) ∧
  (∃ (s : State) (p : Nat) (o : Regrip) (cut : Bool) (st : Plane),
   p < 8 ∧ s.ready = true ∧ (s.part p).regrip = some o ∧ ((membersOf o.pmask 8).filter fun q => (s.part q).regrip == some o) = [p] ∧ s.partOn p = false ∧ s.regripNow [p] o = some cut ∧ (s.part p).active = none ∧ (s.part p).staged = some st ∧ st.release = false) ∧
  (∃ (s : State) (p : Nat) (b : Nat) (pl : Plane),
   (s.part p).retiring = some (pl, b) ∧ s.ready = true ∧ s.oldBusy p = false ∧ s.oldUnsent p = false) ∧
  (∃ (s : State) (b : Nat) (p : Nat),
   b < 32 ∧ s.dev.pwr.joining.find? (fun x => x.1 == b) = some (b, p) ∧ s.ready = true ∧ inMask (s.plane p).benches b = true ∧ s.fenced b = false ∧ s.partOn p = false ∧ ((s.plane p).tiles.filter fun r => r.tile / 16 == b) = []) :=
  ⟨⟨(onPart 0 { active := some plane, staged := some { plane with build := 9 }, regrip := some { pmask := 1, first := 1000 } } (on plane up)), 0, { pmask := 1, first := 1000 }, false, plane, { plane with build := 9 }, by decide +kernel⟩,
   ⟨(put [(F.LEDG_UNIT_STATE 32, 0)] (onPart 0 { staged := some { plane with build := 9 }, regrip := some { pmask := 1, first := 1000 } } (on plane up))), 0, { pmask := 1, first := 1000 }, false, { plane with build := 9 }, by decide +kernel⟩,
   ⟨(onPart 0 { active := some plane, retiring := some (plane, 900) } (on plane up)), 0, 900, plane, by decide +kernel⟩,
   ⟨(onPwr (fun h => { h with joining := [(0, 0)] }) (put [(F.LEDG_UNIT_STATE 32, 0), (F.LEDG_UNIT_STATE 0, 0)] (on { plane with benches := 1 } up))), 0, 0, by decide +kernel⟩⟩

theorem witness_HostResets :
  (∃ (s : State),
   s.ready = true ∧ s.dev.chuck.load = none ∧ (∀ y ∈ s.dev.tiles, ∀ x ∈ y.2.xfers, x.started = false)) ∧
  (∃ (s : State) (v : Nat),
   s.ready = true ∧ s.linkUp = true ∧ 1 ≤ v ∧ v ≤ s.dev.numVfs ∧ v < 64 ∧ s.unitState (44 + v) ≠ 0 ∧ s.fenced (44 + v) = false) ∧
  (∃ (s : State),
   s.ready = true ∧ s.linkUp = true ∧ s.unitState 44 ≠ 0 ∧ s.dev.chuck.load = none) ∧
  (∃ (s : State) (f : Nat),
   s.ready = true ∧ f < 64 ∧ s.unitState (44 + f) = 3) :=
  ⟨⟨(onDev (fun h => { h with pairs := [(2, { tail := 2 })] }) (put [(F.LEDG_UNIT_STATE 45, 1), (F.QP_CTL_FUNC 2,1), (F.QP_CTL_EN 2,1), (F.QP_SIZES_IN_LOG2 2,3), (F.QP_SIZES_RES_LOG2 2,3)] (onDev (fun h => { h with numVfs := 2 }) up))), by decide +kernel⟩,
   ⟨(onDev (fun h => { h with pairs := [(2, { tail := 2 })] }) (put [(F.LEDG_UNIT_STATE 45, 1), (F.QP_CTL_FUNC 2,1), (F.QP_CTL_EN 2,1), (F.QP_SIZES_IN_LOG2 2,3), (F.QP_SIZES_RES_LOG2 2,3)] (onDev (fun h => { h with numVfs := 2 }) up))), 1, by decide +kernel⟩,
   ⟨(onDev (fun h => { h with pairs := [(2, { tail := 2 })] }) (put [(F.LEDG_UNIT_STATE 45, 1), (F.QP_CTL_FUNC 2,1), (F.QP_CTL_EN 2,1), (F.QP_SIZES_IN_LOG2 2,3), (F.QP_SIZES_RES_LOG2 2,3)] (onDev (fun h => { h with numVfs := 2 }) up))), by decide +kernel⟩,
   ⟨put [(F.LEDG_UNIT_STATE 45, 3)] up, 1, by decide +kernel⟩⟩

theorem witness_HostLinkAndQueues :
  (∃ (s : State) (rate : Nat) (width : Nat) (flit : Bool),
   s.ready = true ∧ s.linkUp = false ∧ s.fenced 43 = false ∧ s.jtagHolds = false) ∧
  (∃ (s : State) (n : Nat),
   s.ready = true ∧ s.linkUp = true ∧ s.unitState 44 = 1 ∧ s.dev.numVfs = 0) ∧
  (∃ (s : State) (f : Nat) (d3 : Bool),
   s.ready = true ∧ s.linkUp = true ∧ f < 64 ∧ s.unitState (44 + f) = (if d3 then 1 else 2)) ∧
  (∃ (s : State) (q : Nat) (e : Ingest),
   s.ready = true ∧ s.linkUp = true ∧ q < 256 ∧ (s.pair q).flight = [some e] ∧ s.inSize q ≤ 2 ^ 16) ∧
  (∃ (s : State) (l : Load),
   s.ready = true ∧ s.linkUp = true ∧ s.dev.chuck.load = some l ∧ l.src = 2 ∧ l.boot = false ∧ s.fld F.IMG_STATUS_CHUCK = 1) ∧
  (∃ (s : State) (p : Path) (q : Nat) (v : Word),
   q < 256 ∧ s.mayPair p q = true ∧ s.bit (F.QP_CTL_EN q) = false) ∧
  (∃ (s : State) (p : Path) (q : Nat) (v : Word),
   q < 256 ∧ s.mayPair p q = true ∧ s.bit (F.QP_CTL_EN q) = true) ∧
  (∃ (s : State) (f : Nat) (q : Nat) (v : Word),
   q < 256 ∧ s.fnOpen f = true ∧ s.bit (F.QP_CTL_EN q) = true ∧ s.owner q = f ∧
   let i := bitsOf v.toNat 0 16
   i < s.inSize q
   ) ∧
  (∃ (s : State) (f : Nat) (q : Nat) (v : Word),
   q < 256 ∧ s.fnOpen f = true ∧ s.bit (F.QP_CTL_EN q) = true ∧ s.owner q = f ∧
   let i := bitsOf v.toNat 0 16
   i < s.resSize q
   ) ∧
  (∃ (s : State) (f : Nat) (q : Nat) (v : Word),
   q < 256 ∧ f < 64 ∧ s.fnOpen f = true ∧ (s.bit (F.QP_CTL_EN q) = false ∨ s.owner q ≠ f ∨ s.inSize q ≤ bitsOf v.toNat 0 16)) :=
  ⟨⟨put [(F.LEDG_UNIT_STATE 43, 0)] up, 5, 16, true, by decide +kernel⟩,
   ⟨up, 2, by decide +kernel⟩,
   ⟨up, 0, true, by decide +kernel⟩,
   ⟨(put [(F.QP_SIZES_IN_LOG2 5,3)] (put [(F.QP_CTL_EN 5,1), (F.QP_SIZES_IN_LOG2 5,3), (F.QP_SLOTS_SLOT_HI 5,10), (⟨0x81178,0,32⟩,0x40000), (F.LEDG_GROUPS_LO 0,1)] (onDev (fun h => { h with pairs := [(5, { tail := 2, flight := [some { stream := 3, seq := 9, rate := 3, count := 4, plen := 8 }] })] }) (declared 1 (on { plane with slots := [decl], groups := [group0], normal := [ent 3 0 0 0 0] } up))))), 5, { stream := 3, seq := 9, rate := 3, count := 4, plen := 8 }, by decide +kernel⟩,
   ⟨(put [(F.IMG_STATUS_CHUCK,1)] (onChuck (fun h => { h with load := some { src := 2, kind := 1 } }) up)), { src := 2, kind := 1 }, by decide +kernel⟩,
   ⟨(put [(F.QP_CTL_EN 2,0)] (put [(F.LEDG_UNIT_STATE 45, 1), (F.QP_CTL_FUNC 2,1), (F.QP_CTL_EN 2,1), (F.QP_SIZES_IN_LOG2 2,3), (F.QP_SIZES_RES_LOG2 2,3)] (onDev (fun h => { h with numVfs := 2 }) up))), .vf 1, 2, 1, by decide +kernel⟩,
   ⟨(put [(F.LEDG_UNIT_STATE 45, 1), (F.QP_CTL_FUNC 2,1), (F.QP_CTL_EN 2,1), (F.QP_SIZES_IN_LOG2 2,3), (F.QP_SIZES_RES_LOG2 2,3)] (onDev (fun h => { h with numVfs := 2 }) up)), .vf 1, 2, 0, by decide +kernel⟩,
   ⟨(put [(F.LEDG_UNIT_STATE 45, 1), (F.QP_CTL_FUNC 2,1), (F.QP_CTL_EN 2,1), (F.QP_SIZES_IN_LOG2 2,3), (F.QP_SIZES_RES_LOG2 2,3)] (onDev (fun h => { h with numVfs := 2 }) up)), 1, 2, 5, by decide +kernel⟩,
   ⟨(put [(F.LEDG_UNIT_STATE 45, 1), (F.QP_CTL_FUNC 2,1), (F.QP_CTL_EN 2,1), (F.QP_SIZES_IN_LOG2 2,3), (F.QP_SIZES_RES_LOG2 2,3)] (onDev (fun h => { h with numVfs := 2 }) up)), 1, 2, 5, by decide +kernel⟩,
   ⟨(put [(F.LEDG_UNIT_STATE 45, 1), (F.QP_CTL_FUNC 2,1), (F.QP_CTL_EN 2,1), (F.QP_SIZES_IN_LOG2 2,3), (F.QP_SIZES_RES_LOG2 2,3)] (onDev (fun h => { h with numVfs := 2 }) up)), 1, 2, 8, by decide +kernel⟩⟩

theorem witness_ArrayDie :
  (∃ (s : State) (i : Nat) (x : SampleIn),
   i < 16 ∧ s.arrOn = true ∧ s.bit (F.ARR_IN_CTL_EN i) = true ∧ s.bit (F.ARR_IN_BIND_VALID i) = true ∧ inMask s.dev.arr.calIn i = false ∧ x.slip = 0 ∧
   let v := x.value % 2 ^ 24
   let y := s.inp (128 + i)
   let n := if s.slotDeclared (s.bindSlot i) then s.nominal (s.bindSlot i) else y.size
   let bs := if s.fld (F.ARR_IN_CTL_FMT i) = 0 then toBytes 2 (v / 256) else s.sampleBytes i v
   v ≠ 0x7FFFFF ∧ v ≠ 0x800000 ∧ y.framed = true ∧ y.from_ = none ∧ y.gain = none ∧ y.fill < n) ∧
  (∃ (s : State) (p : Path) (i : Nat) (v : Word),
   i < 16 ∧ s.reach p (F.ARR_IN_CTL_EN i).off = true ∧ (v.getLsbD 0 = true ↔ s.bit (F.ARR_IN_CTL_EN i) = true)) ∧
  (∃ (s : State) (i : Nat) (g : Nat),
   i < 16 ∧ s.arrOn = true ∧ inMask s.dev.arr.calIn i = false ∧ (s.inp (128 + i)).gain = some g) ∧
  (∃ (s : State) (p : Path) (i : Nat) (v : Word),
   i < 16 ∧ s.reach p (F.ARR_IN_CTL_EN i).off = true ∧ (v.getLsbD 0 = true ↔ s.bit (F.ARR_IN_CTL_EN i) = false)) ∧
  (∃ (s : State) (p : Path) (v : Word),
   s.reach p F.ARR_CLK_CTL_SRC.off = true) ∧
  (∃ (s : State),
   s.arrOn = true ∧ s.following = true) ∧
  (∃ (s : State) (n : Nat),
   s.arrOn = true ∧ s.following = true) ∧
  (∃ (s : State) (p : Path) (v : Word),
   s.reach p F.ARR_CAL_CTL_RUN.off = true ∧ v.getLsbD 24 = true ∧ s.arrOn = true ∧ s.bit F.ARR_CAL_CTL_BUSY = false) ∧
  (∃ (s : State) (i : Nat) (t : Trim),
   s.arrOn = true ∧ s.bit F.ARR_CAL_CTL_BUSY = true ∧ s.dev.chuck.load = none ∧ i < 16 ∧ t.out = false ∧ t.index = i ∧ inMask s.dev.arr.calIn i = true) ∧
  (∃ (s : State) (j : Nat) (r : Bool),
   j < 8 ∧ s.arrOn = true ∧ s.bit (F.ARR_CMP_CTL_EN j) = true) ∧
  (∃ (s : State) (m : Nat),
   s.envOn m = true ∧ s.ready = true) ∧
  (∃ (s : State) (m : Nat),
   s.envOn m = true ∧ s.inRest = true ∧ s.bit (F.ARR_ENV_CTL_WAKE m) = true) ∧
  (∃ (s : State) (m : Nat),
   s.envOn m = true) :=
  ⟨⟨(put [(F.LEDG_UNIT_STATE 112, 2), (F.ARR_IN_CTL_EN 3,1), (F.ARR_IN_BIND_VALID 3,1), (F.ARR_IN_BIND_SLOT 3,3)] (onDev (fun h => { h with ins := [(131, { framed := true, fill := 1, cur := { bytes := [1, 2] } })] }) (declared 3 (on { plane with slots := [decl], groups := [{ dl := 900, cfg := 4 * 65536 }] } up)))), 3, ⟨0x123456, 0⟩, by decide +kernel⟩,
   ⟨put [(F.LEDG_UNIT_STATE 112, 2), (F.ARR_IN_CTL_EN 3,1), (F.ARR_IN_BIND_VALID 3,1), (F.ARR_IN_BIND_SLOT 3,3)] up, .pf, 3, 0x29, by decide +kernel⟩,
   ⟨(put [(F.LEDG_UNIT_STATE 112, 2), (F.ARR_IN_CTL_EN 3,1), (F.ARR_IN_BIND_VALID 3,1), (F.ARR_IN_BIND_SLOT 3,3)] (onDev (fun h => { h with ins := [(131, { gain := some 7, cur := { bytes := [9] } })] }) (declared 3 (on { plane with slots := [decl], groups := [{ dl := 900, cfg := 4 * 65536 }] } up)))), 3, 7, by decide +kernel⟩,
   ⟨put [(F.LEDG_UNIT_STATE 112, 2)] up, .pf, 3, 1, by decide +kernel⟩,
   ⟨put [(F.LEDG_UNIT_STATE 112, 2)] up, .pf, 1, by decide +kernel⟩,
   ⟨(put [(F.LEDG_UNIT_STATE 112, 2), (F.ARR_IN_CTL_EN 3,1), (F.ARR_IN_BIND_VALID 3,1), (F.ARR_IN_BIND_SLOT 3,3), (F.ARR_CLK_CTL_SRC,1), (F.ARR_STATUS_FOLLOW,1)] (onDev (fun h => { h with ins := [(131, { framed := true })] }) (declared 3 (on { plane with slots := [decl], groups := [{ dl := 900, cfg := 4 * 65536 }] } up)))), by decide +kernel⟩,
   ⟨put [(F.LEDG_UNIT_STATE 112, 2), (F.ARR_CLK_CTL_SRC,1)] up, 777, by decide +kernel⟩,
   ⟨(put [(F.LEDG_UNIT_STATE 112, 2), (F.ARR_IN_CTL_EN 3,1), (F.ARR_IN_BIND_VALID 3,1), (F.ARR_IN_BIND_SLOT 3,3)] (onDev (fun h => { h with ins := [(131, { framed := true })] }) (declared 3 (on { plane with slots := [decl], groups := [{ dl := 900, cfg := 4 * 65536 }] } up)))), .pf, 0x01000008, by decide +kernel⟩,
   ⟨(put [(F.ARR_IN_CTL_EN 3,1), (F.ARR_IN_BIND_VALID 3,1), (F.ARR_IN_BIND_SLOT 3,3), (F.LEDG_UNIT_STATE 112, 1), (F.ARR_CAL_CTL_BUSY,1)] (onDev (fun h => { h with arr := { calIn := 8 } }) up)), 3, ⟨false, 3, 5, 6, true⟩, by decide +kernel⟩,
   ⟨put [(F.LEDG_UNIT_STATE 112, 2), (F.ARR_CMP_CTL_EN 2,1), (F.ARR_CMP_CTL_EDGE 2,0)] up, 2, true, by decide +kernel⟩,
   ⟨put [(F.LEDG_UNIT_STATE 112, 2), (F.ARR_ENV_CTL_EN 2,1)] up, 2, by decide +kernel⟩,
   ⟨put [(F.PCK_STATUS_DEV,3), (F.ARR_ENV_CTL_EN 2,1), (F.ARR_ENV_CTL_WAKE 2,1)] up, 2, by decide +kernel⟩,
   ⟨put [(F.ARR_ENV_CTL_EN 2,1), (F.ARR_ENV_STAT_ABOVE 2,1)] up, 2, by decide +kernel⟩⟩

theorem witness_FabricAndPorts :
  (∃ (s : State) (p : Path) (v : Word),
   s.reach p F.ARR_FAB_CTL_HOLD.off = true ∧ s.fabOn = true ∧ v.getLsbD 0 = true ∧ v.getLsbD 1 = false ∧ v.getLsbD 2 = false) ∧
  (∃ (s : State) (p : Path) (v : Word),
   s.reach p F.ARR_FAB_CTL_HOLD.off = true ∧ s.unitState 113 = 1 ∧ v.getLsbD 0 = false) ∧
  (∃ (s : State) (p : Path) (v : Word) (m : Nat),
   s.reach p F.ARR_FAB_CTL_HOLD.off = true ∧ s.fabOn = true ∧ v.getLsbD 0 = true ∧ v.getLsbD 1 = true ∧ m < 512 ∧ (cellType s.dev.fab.cfg m = 1 ∨ cellType s.dev.fab.cfg m = 2)) ∧
  (∃ (s : State) (p : Path) (v : Word),
   s.reach p F.ARR_FAB_CTL_HOLD.off = true ∧ s.fabOn = true ∧ s.dev.fab.released = false ∧ v.getLsbD 0 = true ∧ v.getLsbD 2 = true) ∧
  (∃ (s : State) (p : Path),
   (∀ n, p ≠ .vf n) ∧ s.reach p F.ARR_FAB_MDATA_LO.off = true ∧ s.windowOn = true) ∧
  (∃ (s : State) (p : Path) (v : Word) (j : Nat),
   s.reach p F.ARR_FAB_MDATA_HI.off = true ∧ s.windowOn = true ∧ j < 36) ∧
  (∃ (s : State),
   s.fabOn = true ∧ s.ready = true ∧ s.dev.fab.clkLost = false ∧ s.reached (s.dev.fab.edgeAt + 250) = true) ∧
  (∃ (s : State),
   s.fabOn = true ∧ s.ready = true ∧ s.dev.fab.ucRises ≠ 0) ∧
  (∃ (s : State) (e : FabEdge) (m : Nat),
   s.fabOn = true ∧ s.ready = true ∧ e.clk = .fabclk ∧ e.rising = true ∧ e.near = false ∧ m < 512 ∧ cellType s.dev.fab.cfg m = 1 ∧ cellCk s.dev.fab.cfg m = 0 ∧ cellInv s.dev.fab.cfg m = false ∧ cellArsel s.dev.fab.cfg m = 0 ∧ cellCept s.dev.fab.cfg m = false) ∧
  (∃ (s : State) (k : Nat) (f : FrameIn),
   s.portOn k = true ∧ s.selfFramed k = false ∧ (s.port k).yieldNext = false ∧ f.chatter = [] ∧ (s.fld (F.AUD_CFG_ROLE k) ≠ 1 ∨ (s.port k).seen = false ∨ f.bclks = s.frameLen k)) ∧
  (∃ (s : State) (k : Nat) (st : Nat) (c : Instr),
   s.portFollows k = true ∧ ((c = .fsyncLost k ∧ st = 2 ∧ s.selfFramed k = false ∧ s.unitState (108 + k) = 3) ∨ (c = .bclkLost k ∧ st = 1))) :=
  ⟨⟨(put [(F.LEDG_UNIT_STATE 113, 2)] (onDev (fun h => { h with fab := { cfg := [(blockAt 0 + 0x70, 1)], regs := [(0, true)] } }) up)), .pf, 1, by decide +kernel⟩,
   ⟨(put [(F.LEDG_UNIT_STATE 113, 1), (F.ARR_FAB_CTL_HOLD,1)] (onDev (fun h => { h with fab := { cfg := [(blockAt 0 + 0x70, 1)], regs := [(0, true)] } }) up)), .pf, 0, by decide +kernel⟩,
   ⟨(put [(F.LEDG_UNIT_STATE 113, 2)] (onDev (fun h => { h with fab := { cfg := [(blockAt 0 + 0x70, 1)], regs := [(0, true)] } }) up)), .pf, 3, 0, by decide +kernel⟩,
   ⟨(put [(F.LEDG_UNIT_STATE 113, 2)] (onDev (fun h => { h with fab := { cfg := [(blockAt 0 + 0x70, 1)], released := false } }) up)), .pf, 5, by decide +kernel⟩,
   ⟨(put [(F.LEDG_UNIT_STATE 113, 1), (F.ARR_FAB_CTL_HOLD,1)] (onDev (fun h => { h with fab := { cfg := [(blockAt 0 + 0x70, 1)], mem := [(3, true)] } }) up)), .pf, by (
     with_reducible and_intros
     · nofun
     all_goals decide +kernel)⟩,
   ⟨(put [(F.LEDG_UNIT_STATE 113, 1), (F.ARR_FAB_CTL_HOLD,1), (F.ARR_FAB_MDATA_LO,0x1234), (F.ARR_FAB_MSEL_ADDR,2)] (onDev (fun h => { h with fab := { cfg := [(blockAt 0 + 0x70, 1)], mem := [(3, true)] } }) up)), .pf, 5, 3, by decide +kernel⟩,
   ⟨(put [(F.LEDG_UNIT_STATE 113, 2)] (onDev (fun h => { h with fab := { cfg := [(blockAt 0 + 0x70, 1)], regs := [] } }) up)), by decide +kernel⟩,
   ⟨(put [(F.LEDG_UNIT_STATE 113, 2)] (onDev (fun h => { h with fab := { cfg := [(blockAt 0 + 0x70, 1)], regs := [], ucRises := 1 } }) up)), by decide +kernel⟩,
   ⟨(put [(F.LEDG_UNIT_STATE 113, 2)] (onDev (fun h => { h with fab := { cfg := [(blockAt 0 + 0x70, 1)], regs := [(0, true)] } }) up)), ⟨.fabclk, true, 5, false⟩, 0, by decide +kernel⟩,
   ⟨(put [(F.LEDG_UNIT_STATE 109,3), (F.AUD_CFG_SLOTSM1 1,3), (F.AUD_IN_MAP_VALID 1 2,1), (F.AUD_IN_MAP_STREAM 1 2,3)] (onDev (fun h => { h with ins := [(34, { framed := true, fill := 1, cur := { bytes := [1, 2] } })], outs := [(35, { playing := [5, 6] })] }) (declared 2 (on { plane with slots := [decl], groups := [{ dl := 900, cfg := 4 * 65536 }] } up)))), 1, ⟨64, [1, 2, 3, 4], [], []⟩, by decide +kernel⟩,
   ⟨(put [(F.LEDG_UNIT_STATE 109,3), (F.AUD_CFG_SLOTSM1 1,3), (F.AUD_IN_MAP_VALID 1 2,1), (F.AUD_IN_MAP_STREAM 1 2,3), (F.AUD_CFG_ROLE 1,1)] (onDev (fun h => { h with ins := [(34, { framed := true, fill := 1, cur := { bytes := [1, 2] } })], outs := [(35, { playing := [5, 6] })] }) (declared 2 (on { plane with slots := [decl], groups := [{ dl := 900, cfg := 4 * 65536 }] } up)))), 1, 2, .fsyncLost 1, by decide +kernel⟩⟩

theorem witness_SelolReadsAndBus :
  (∃ (s : State) (p : Bool),
   s.ready = true ∧ s.dev.svc.holding = false) ∧
  (∃ (s : State) (p : Bool),
   s.ready = true ∧ s.dev.svc.holding = false) ∧
  (∃ (s : State) (p : Bool),
   s.ready = true ∧ s.dev.svc.holding = false) ∧
  (∃ (s : State) (p : Bool),
   s.ready = true ∧ s.dev.svc.holding = false) ∧
  (∃ (s : State) (p : Bool),
   s.ready = true ∧ s.dev.svc.holding = false) ∧
  (∃ (s : State) (p : Bool),
   s.ready = true ∧ s.dev.svc.holding = false) ∧
  (∃ (s : State) (p : Bool),
   s.ready = true ∧ s.dev.svc.holding = false) ∧
  (∃ (s : State) (p : Bool),
   s.ready = true ∧ s.dev.svc.holding = false) ∧
  (∃ (s : State) (p : Bool) (n : Nat),
   s.ready = true ∧ s.dev.svc.holding = false ∧ n < 117) ∧
  (∃ (s : State) (p : Bool) (a : Nat),
   s.ready = true ∧ s.dev.svc.holding = false ∧ a % 4 = 0 ∧ a < 0x4000000 ∧ s.pairHigh a = none ∧ (∀ f ∈ RegMap.fields a, f.acc ≠ .rc) ∧ a ≠ F.ARR_FAB_MDATA_LO.off) ∧
  (∃ (s : State) (p : Bool) (a : Nat) (n : Nat),
   s.ready = true ∧ s.dev.svc.holding = false ∧ a % 4 = 0 ∧ 1 ≤ n ∧ n ≤ 7 ∧ a + 4 * n ≤ 0x4000000 ∧ (∀ i, i < n → s.pairHigh (a + 4 * i) = none ∧ (∀ f ∈ RegMap.fields (a + 4 * i), f.acc ≠ .rc) ∧ a + 4 * i ≠ F.ARR_FAB_MDATA_LO.off)) ∧
  (∃ (s : State),
   s.ready = true ∧ s.dev.svc.holding = false) ∧
  (∃ (s : State),
   s.ready = true ∧ s.dev.svc.holding = false) ∧
  (∃ (s : State),
   s.ready = true ∧ s.bit F.MB_CFG_ARA_EN = true ∧ 0 < s.unread 1) ∧
  (∃ (s : State),
   (s.inRest = true ∨ s.bit F.MB_CFG_ARA_EN = false ∨ s.unread 1 = 0)) ∧
  (∃ (s : State),
   s.ready = true ∧ s.dev.svc.holding = false) ∧
  (∃ (s : State),
   s.dev.pwr.por = false ∧ s.heldReset = false ∧ s.inRest = true) ∧
  (∃ (s : State),
   s.dev.pwr.por = false ∧ s.bit F.MB_MST_STATUS_BUSY = true) ∧
  (∃ (s : State),
   s.dev.pwr.por = false ∧ s.bit F.MB_MST_STATUS_BUSY = false) :=
  ⟨⟨up, true, by decide +kernel⟩,
   ⟨up, true, by decide +kernel⟩,
   ⟨up, true, by decide +kernel⟩,
   ⟨up, true, by decide +kernel⟩,
   ⟨up, true, by decide +kernel⟩,
   ⟨up, true, by decide +kernel⟩,
   ⟨up, true, by decide +kernel⟩,
   ⟨up, true, by decide +kernel⟩,
   ⟨up, true, 0, by decide +kernel⟩,
   ⟨up, true, 0x40000, by decide +kernel⟩,
   ⟨up, true, 0x40000, 7, by decide +kernel⟩,
   ⟨up, by decide +kernel⟩,
   ⟨up, by decide +kernel⟩,
   ⟨put [(F.MB_CFG_ARA_EN,1)] ((logC 1 1 1 []).run up), by decide +kernel⟩,
   ⟨up, by decide +kernel⟩,
   ⟨up, by decide +kernel⟩,
   ⟨put [(F.PCK_STATUS_DEV, 3)] up, by decide +kernel⟩,
   ⟨put [(F.MB_MST_STATUS_BUSY, 1)] up, by decide +kernel⟩,
   ⟨up, by decide +kernel⟩⟩

theorem witness_SelolWrites :
  (∃ (s : State) (p : Bool),
   s.ready = true ∧ s.dev.svc.holding = false ∧ (p = true ∨ s.bit F.MB_CFG_REQ_PEC = false)) ∧
  (∃ (s : State) (p : Bool) (b : Byte),
   s.ready = true ∧ s.dev.svc.holding = false ∧ (p = true ∨ s.bit F.MB_CFG_REQ_PEC = false)) ∧
  (∃ (s : State) (p : Bool) (b : Byte),
   s.ready = true ∧ s.dev.svc.holding = false ∧ (p = true ∨ s.bit F.MB_CFG_REQ_PEC = false) ∧ 5 ≤ b.toNat ∧ b.toNat ≤ 35) ∧
  (∃ (s : State) (p : Bool) (b : Byte),
   s.ready = true ∧ s.dev.svc.holding = false ∧ (p = true ∨ s.bit F.MB_CFG_REQ_PEC = false) ∧ (b.toNat < 5 ∨ 35 < b.toNat)) ∧
  (∃ (s : State) (p : Bool) (a : Nat) (v : Word),
   s.ready = true ∧ s.dev.svc.holding = false ∧ (p = true ∨ s.bit F.MB_CFG_REQ_PEC = false) ∧ a < 0x10000 ∧ a % 4 = 0 ∧ RegMap.fields a ≠ [] ∧ s.dev.ledg.cycle = []) ∧
  (∃ (s : State) (p : Bool) (a : Nat) (v : Word),
   s.ready = true ∧ s.dev.svc.holding = false ∧ (p = true ∨ s.bit F.MB_CFG_REQ_PEC = false) ∧ 0x4000000 ≤ a ∧ a < 2 ^ 32 ∧ s.dev.ledg.cycle = []) ∧
  (∃ (s : State) (p : Bool) (part : Nat) (g : Nat) (en : Nat),
   s.ready = true ∧ s.dev.svc.holding = false ∧ (p = true ∨ s.bit F.MB_CFG_REQ_PEC = false) ∧ part < 8 ∧ g < 64 ∧ en < 2) ∧
  (∃ (s : State) (p : Bool) (arg : Nat),
   s.ready = true ∧ s.dev.svc.holding = false ∧ (p = true ∨ s.bit F.MB_CFG_REQ_PEC = false) ∧ arg < 2 ^ 16 ∧ s.regripOk (bitsOf arg 0 8) = true) ∧
  (∃ (s : State) (p : Bool),
   s.ready = true ∧ s.dev.svc.holding = false ∧ (p = true ∨ s.bit F.MB_CFG_REQ_PEC = false) ∧ s.unread 1 ≠ 0) ∧
  (∃ (s : State) (p : Bool),
   s.ready = true ∧ s.dev.svc.holding = false ∧ (p = true ∨ s.bit F.MB_CFG_REQ_PEC = false) ∧ s.unread 1 = 0) ∧
  (∃ (s : State) (p : Bool) (b : Byte) (c : Byte),
   s.ready = true ∧ s.dev.svc.holding = false ∧ c ≠ crc8 [toByte s.mbAddr, toByte 0x86, b]) ∧
  (∃ (s : State) (p : Bool) (b : Byte),
   s.ready = true ∧ s.dev.svc.holding = false ∧ s.bit F.MB_CFG_REQ_PEC = true) :=
  ⟨⟨up, true, by decide +kernel⟩,
   ⟨up, false, 0, by decide +kernel⟩,
   ⟨up, true, 5, by decide +kernel⟩,
   ⟨up, true, 4, by decide +kernel⟩,
   ⟨up, true, 0x18, 77, by decide +kernel⟩,
   ⟨up, true, 0x4000000, 5, by decide +kernel⟩,
   ⟨up, true, 2, 40, 1, by decide +kernel⟩,
   ⟨(onPart 0 { active := some plane, staged := some { plane with prBase := 0x3000 } } (on plane up)), true, 1, by decide +kernel⟩,
   ⟨(logC 1 1 1 []).run up, true, by decide +kernel⟩,
   ⟨up, true, by decide +kernel⟩,
   ⟨up, true, 5, 0, by decide +kernel⟩,
   ⟨put [(F.MB_CFG_REQ_PEC,1)] up, true, 5, by decide +kernel⟩⟩

theorem witness_ControllerAndFlash :
  (∃ (s : State) (p : Path) (v : Word),
   s.reach p F.MB_MST_CTL_START.off = true) ∧
  (∃ (s : State) (o : MstOutcome),
   s.ready = true ∧ s.bit F.MB_MST_STATUS_BUSY = true ∧ s.dev.svc.startWaits = false ∧ o.result ≤ 6) ∧
  (∃ (s : State) (o : MstOutcome),
   s.ready = true ∧ s.bit F.MB_MST_STATUS_BUSY = true ∧ s.dev.svc.startWaits = true ∧ o.result ≤ 6 ∧ s.fld F.MB_MST_CTL_RATE ≠ 3 ∧ s.fld F.MB_MST_CTL_SHAPE < 6 ∧ selfAddr (s.fld F.MB_MST_CTL_TADDR) = false) ∧
  (∃ (s : State) (res : List MstOutcome),
   s.ready = true ∧ s.pollDue = true ∧ s.bit F.MB_MST_STATUS_BUSY = false ∧ (∀ o ∈ res, o.result ≤ 6)) ∧
  (∃ (s : State) (p : Path) (v : Word),
   s.reach p F.QSPI_CMD_GO.off = true) ∧
  (∃ (s : State) (ok : Bool) (data : List Byte),
   s.ready = true ∧ s.bit F.QSPI_STATUS_BUSY = true) :=
  ⟨⟨up, .pf, 0x01050A20, by decide +kernel⟩,
   ⟨put [(F.MB_MST_STATUS_BUSY,1), (F.MB_MST_CTL_SHAPE,0)] up, ⟨0, 0x1234⟩, by decide +kernel⟩,
   ⟨(put [(F.MB_MST_STATUS_BUSY,1), (F.MB_MST_CTL_TADDR,0x20)] (onSvc (fun h => { h with startWaits := true }) up)), ⟨0, 5⟩, by decide +kernel⟩,
   ⟨put [(F.MB_POLL_GLOBAL_PERIOD_MS,5), (F.MB_POLL_CTL_EN 0,1), (F.MB_POLL_CTL_SHAPE 0,5), (F.MB_POLL_CTL_TADDR 0,0x20), (F.MB_POLL_CTL_EN 2,1), (F.MB_POLL_CTL_SHAPE 2,1), (F.MB_POLL_CTL_EN 3,1), (F.MB_POLL_CTL_SHAPE 3,4), (F.MB_POLL_CTL_TADDR 3,0x58)] (onHs (fun h => { h with now := 1250000 }) up), [⟨0, 0x12345⟩, ⟨5, 0⟩], by decide +kernel⟩,
   ⟨up, .pf, 0x8012349F, by decide +kernel⟩,
   ⟨put [(F.QSPI_STATUS_BUSY,1), (F.QSPI_CMD_LEN,0), (F.QSPI_CMD_WRITE,0)] up, true, [1, 2, 3, 4, 5], by decide +kernel⟩⟩

theorem witness_SpiFrames :
  (∃ (s : State),
   s.dev.pwr.por = false) ∧
  (∃ (s : State) (addr : Nat) (count : Nat) (sent : Nat) (late : List Nat),
   s.ready = true ∧ 1 ≤ count ∧ count ≤ 64 ∧ addr % 4 = 0 ∧ addr + 4 * count ≤ 0x4000000 ∧ (∀ i, i < count → s.pairHigh (addr + 4 * i) = none ∧ (∀ f ∈ RegMap.fields (addr + 4 * i), f.acc ≠ .rc) ∧ addr + 4 * i ≠ F.ARR_FAB_MDATA_LO.off)) ∧
  (∃ (s : State) (addr : Nat) (count : Nat) (words : List Word),
   s.ready = true ∧ count ≤ 64 ∧ words ≠ [] ∧ words.length ≤ count ∧ addr % 4 = 0 ∧ s.dev.ledg.cycle = [] ∧ (∀ i, i < words.length → addr + 4 * i < 0x10000 ∧ RegMap.fields (addr + 4 * i) ≠ [])) ∧
  (∃ (s : State) (addr : Nat) (count : Nat) (v : Word),
   s.ready = true ∧ 1 ≤ count ∧ count ≤ 64 ∧ 0x4000000 ≤ addr ∧ s.dev.ledg.cycle = []) ∧
  (∃ (s : State) (addr : Nat) (count : Nat) (words : List Word),
   s.ready = true ∧ 2 ≤ count ∧ count ≤ 64 ∧ words = []) ∧
  (∃ (s : State) (addr : Nat) (count : Nat) (sent : Nat) (late : List Nat) (words : List Word) (cut : Bool),
   s.ready = true ∧ (count = 0 ∨ 64 < count)) ∧
  (∃ (s : State) (words : List Word) (l : Load),
   s.ready = true ∧ words ≠ [] ∧ s.dev.chuck.load = some l ∧ l.src = 4 ∧ s.fld F.IMG_STATUS_CHUCK = 1 ∧ l.complete = false) ∧
  (∃ (s : State) (words : List Word),
   s.spiOpen = false) ∧
  (∃ (s : State),
   s.dev.pwr.por = false ∧ s.heldReset = false ∧ s.inRest = true) ∧
  (∃ (s : State),
   s.ready = true) ∧
  (∃ (s : State) (p : Path) (v : Word),
   s.reach p F.SPIT_IMG_CTL_OPEN.off = true ∧
   let kind := bitsOf v.toNat 2 2
   let part := bitsOf v.toNat 4 3
   s.mayLoad kind part 4 = true
   ) ∧
  (∃ (s : State) (p : Path) (v : Word),
   s.reach p F.SPIT_IMG_CTL_OPEN.off = true ∧ s.mayLoad (bitsOf v.toNat 2 2) (bitsOf v.toNat 4 3) 4 = false) :=
  ⟨⟨up, by decide +kernel⟩,
   ⟨up, 0x40000, 3, 2, [0], by decide +kernel⟩,
   ⟨up, 0x18, 2, [5], by decide +kernel⟩,
   ⟨up, 0x4000000, 2, 5, by decide +kernel⟩,
   ⟨up, 0x18, 2, [], by decide +kernel⟩,
   ⟨up, 0x18, 0, 2, [2], [], false, by decide +kernel⟩,
   ⟨(put [(F.IMG_STATUS_CHUCK,1)] (onChuck (fun h => { h with load := some { kind := 1, part := 2, src := 4, bytes := [] } }) up)), [1, 2], { kind := 1, part := 2, src := 4, bytes := [] }, by decide +kernel⟩,
   ⟨up, [1], by decide +kernel⟩,
   ⟨put [(F.PCK_STATUS_DEV, 3)] up, by decide +kernel⟩,
   ⟨up, by decide +kernel⟩,
   ⟨up, .pf, 5, by decide +kernel⟩,
   ⟨put [(F.LEDG_UNIT_STATE 32, 1)] up, .pf, 1, by decide +kernel⟩⟩

theorem witness_UsbRequestsAndStates :
  (∃ (s : State) (addr : Nat) (n : Nat) (acked : Bool),
   s.ready = true ∧ s.ep0 = true ∧ 1 ≤ n ∧ n ≤ 1024 ∧ addr % 4 = 0 ∧ addr + 4 * n ≤ 0x4000000 ∧ (∀ i, i < n → s.pairHigh (addr + 4 * i) = none ∧ (∀ f ∈ RegMap.fields (addr + 4 * i), f.acc ≠ .rc) ∧ addr + 4 * i ≠ F.ARR_FAB_MDATA_LO.off)) ∧
  (∃ (s : State) (addr : Nat) (len : Nat) (acked : Bool),
   s.ready = true ∧ s.ep0 = true ∧ usbLenOk len = false) ∧
  (∃ (s : State) (addr : Nat) (words : List Word),
   s.ready = true ∧ s.ep0 = true ∧ words ≠ [] ∧ words.length ≤ 1024 ∧ addr % 4 = 0 ∧ s.dev.ledg.cycle = [] ∧ (∀ i, i < words.length → addr + 4 * i < 0x10000 ∧ RegMap.fields (addr + 4 * i) ≠ [])) ∧
  (∃ (s : State) (addr : Nat) (v : Word),
   s.ready = true ∧ s.ep0 = true ∧ 0x4000000 ≤ addr) ∧
  (∃ (s : State) (kind : Nat) (part : Nat),
   s.ready = true ∧ s.ep0 = true ∧ s.mayLoad kind part 3 = true ∧ part < 8) ∧
  (∃ (s : State) (kind : Nat) (part : Nat),
   s.ready = true ∧ s.ep0 = true ∧ kind < 3 ∧ part < 8 ∧ s.mayLoad kind part 3 = false) ∧
  (∃ (s : State) (kind : Nat) (part : Nat) (len : Nat),
   s.ready = true ∧ s.ep0 = true ∧ (len ≠ 0 ∨ 3 ≤ kind ∨ 8 ≤ part)) ∧
  (∃ (s : State) (l : Load),
   s.ready = true ∧ s.ep0 = true ∧ s.dev.chuck.load = some l ∧ l.boot = false ∧ s.fld F.IMG_STATUS_CHUCK ≠ 3) ∧
  (∃ (s : State),
   s.ready = true ∧ s.ep0 = true) ∧
  (∃ (s : State) (r : UsbStd) (d : List Byte),
   s.ready = true ∧ s.ep0 = true ∧ r.bmRequestType = 0x80 ∧ r.bRequest = 6 ∧ s.usbDesc (r.wValue / 256) (r.wValue % 256) = some d) ∧
  (∃ (s : State) (r : UsbStd),
   s.ready = true ∧ (s.unitState 116 = 2 ∨ s.unitState 116 = 3) ∧ r.bmRequestType = 0 ∧ r.bRequest = 5 ∧ r.wValue ≤ 127) ∧
  (∃ (s : State) (r : UsbStd),
   s.ready = true ∧ s.unitState 116 = 3 ∧ r.bmRequestType = 0 ∧ r.bRequest = 9 ∧ r.wValue = 1) ∧
  (∃ (s : State) (r : UsbStd),
   s.ready = true ∧ s.ep0 = true ∧ 12 < r.bRequest) ∧
  (∃ (s : State),
   s.ready = true ∧ s.unitState 116 = 0 ∧ s.dev.svc.usbOff = 0 ∧ (s.unitState 40 ≠ 0 ∨ s.bit F.TB_STATUS_XTAL = true)) ∧
  (∃ (s : State) (hs : Bool),
   s.ready = true ∧ s.unitState 116 ≠ 0 ∧ (∀ l, s.dev.chuck.load = some l → l.src ≠ 3)) ∧
  (∃ (s : State) (hs : Bool),
   s.ready = true ∧ s.unitState 116 ≠ 0 ∧ (∀ l, s.dev.chuck.load = some l → l.src ≠ 3)) ∧
  (∃ (s : State),
   1 ≤ s.unitState 116 ∧ s.unitState 116 ≤ 4) ∧
  (∃ (s : State),
   s.unitState 116 = 5 ∧ s.dev.svc.usbBefore ≤ 4) :=
  ⟨⟨put [(F.LEDG_UNIT_STATE 116, 4)] up, 0x40000, 3, true, by decide +kernel⟩,
   ⟨put [(F.LEDG_UNIT_STATE 116, 4)] up, 0, 6, true, by decide +kernel⟩,
   ⟨put [(F.LEDG_UNIT_STATE 116, 4)] up, 0x18, [5], by decide +kernel⟩,
   ⟨put [(F.LEDG_UNIT_STATE 116, 4)] up, 0x4000000, 5, by decide +kernel⟩,
   ⟨put [(F.LEDG_UNIT_STATE 116, 4)] up, 1, 2, by decide +kernel⟩,
   ⟨(put [(F.IMG_STATUS_CHUCK,1)] (onChuck (fun h => { h with load := some { kind := 1, part := 2, src := 3, bytes := [] } }) (put [(F.LEDG_UNIT_STATE 116, 3)] up))), 1, 2, by decide +kernel⟩,
   ⟨put [(F.LEDG_UNIT_STATE 116, 4)] up, 1, 2, 3, by decide +kernel⟩,
   ⟨(put [(F.IMG_STATUS_CHUCK,1)] (onChuck (fun h => { h with load := some { kind := 1, part := 2, src := 3, bytes := [] } }) (put [(F.LEDG_UNIT_STATE 116, 3)] up))), { kind := 1, part := 2, src := 3, bytes := [] }, by decide +kernel⟩,
   ⟨put [(F.LEDG_UNIT_STATE 116, 4)] up, by decide +kernel⟩,
   ⟨put [(F.LEDG_UNIT_STATE 116, 2)] up, ⟨0x80, 6, 256, 0, 64⟩, up.deviceDesc, by (
     with_reducible and_intros
     all_goals first | decide +kernel | rfl)⟩,
   ⟨put [(F.LEDG_UNIT_STATE 116, 2)] up, ⟨0, 5, 0, 0, 0⟩, by decide +kernel⟩,
   ⟨put [(F.LEDG_UNIT_STATE 116, 3)] up, ⟨0, 9, 1, 0, 0⟩, by decide +kernel⟩,
   ⟨put [(F.LEDG_UNIT_STATE 116, 3)] up, ⟨0x80, 13, 1, 0, 0⟩, by decide +kernel⟩,
   ⟨up, by decide +kernel⟩,
   ⟨put [(F.LEDG_UNIT_STATE 116, 4)] up, true, by decide +kernel⟩,
   ⟨put [(F.LEDG_UNIT_STATE 116, 4)] up, true, by decide +kernel⟩,
   ⟨put [(F.LEDG_UNIT_STATE 116, 4)] up, by decide +kernel⟩,
   ⟨(onSvc (fun h => { h with usbBefore := 3 }) (put [(F.LEDG_UNIT_STATE 116, 5)] up)), by decide +kernel⟩⟩

theorem witness_VfWritesStayInTheirWindow :
  (∃ (s : State) (n : Nat) (off : Nat) (v : Word) (how : WriteForm),
   s.dev.ledg.cycle = []) :=
  ⟨up, 5, 0, 7, .word, by decide +kernel⟩

theorem witness_UsbEndpoints :
  (∃ (s : State) (bytes : List Byte) (l : Load),
   s.ready = true ∧ s.unitState 116 = 4 ∧ bytes.length ≤ s.bulkSize ∧ s.dev.svc.usbHalt % 2 = 0 ∧ s.dev.chuck.load = some l ∧ l.src = 3 ∧ s.fld F.IMG_STATUS_CHUCK = 1 ∧ l.complete = false) ∧
  (∃ (s : State) (bytes : List Byte),
   s.unitState 116 = 4 ∧ bytes.length ≤ s.bulkSize ∧ s.dev.svc.usbHalt % 2 = 0 ∧ s.ep1Open = false) ∧
  (∃ (s : State) (k : Option Nat) (bs : List Byte),
   s.unitState 116 = 4 ∧ s.dev.svc.usbHalt / 2 % 2 = 0 ∧ (s.dev.svc.ep2 = some (k, bs) ∨ (s.dev.svc.ep2 = none ∧ s.ep2Next = some (k, bs)))) ∧
  (∃ (s : State),
   s.ready = true ∧ s.sampleDue = true ∧ s.dev.svc.samples.length < 16) ∧
  (∃ (s : State),
   s.ready = true ∧ s.sampleDue = true ∧ s.dev.svc.samples.length = 16 ∧ s.dev.svc.ep2 = none) :=
  ⟨⟨(put [(F.IMG_STATUS_CHUCK,1)] (onChuck (fun h => { h with load := some { kind := 1, part := 2, src := 3, bytes := [] } }) (put [(F.LEDG_UNIT_STATE 116, 4)] up))), [1,2,3], { kind := 1, part := 2, src := 3, bytes := [] }, by decide +kernel⟩,
   ⟨put [(F.LEDG_UNIT_STATE 116, 4)] up, [1], by decide +kernel⟩,
   ⟨(onSvc (fun h => { h with samples := [[1,2],[3]] }) (put [(F.LEDG_UNIT_STATE 116, 4)] up)), none, ep2Record 2 [1,2], by decide +kernel⟩,
   ⟨put [(F.USB_STRM_CTL_PERIOD_MS,5), (F.USB_STRM_CTL_NREGM1,2)] (onHs (fun h => { h with now := 1250000 }) up), by decide +kernel⟩,
   ⟨(put [(F.USB_STRM_CTL_PERIOD_MS,5)] (onSvc (fun h => { h with samples := List.replicate 16 [1] }) (onHs (fun h => { h with now := 1250000 }) up))), by decide +kernel⟩⟩

theorem witness_TestAccess :
  (∃ (s : State),
   s.dev.pwr.por = false) ∧
  (∃ (s : State),
   s.dev.pwr.por = false) ∧
  (∃ (s : State),
   s.dev.pwr.por = false) ∧
  (∃ (s : State) (pins : Nat) (preload : Nat),
   s.dev.pwr.por = false) ∧
  (∃ (s : State) (c : Instr) (ir : Nat),
   s.dev.pwr.por = false ∧ (c, ir) ∈ [(Instr.extest, 3), (.clamp, 4), (.highz, 5), (.extestPulse, 6), (.extestTrain, 7)]) ∧
  (∃ (s : State) (a : Nat),
   s.dev.pwr.por = false ∧ fuseBit s.dev.chuck 2 = false ∧ s.ready = true ∧ a % 4 = 0 ∧ a < 0x4000000 ∧ s.pairHigh a = none ∧ (∀ f ∈ RegMap.fields a, f.acc ≠ .rc) ∧ a ≠ F.ARR_FAB_MDATA_LO.off) ∧
  (∃ (s : State) (a : Nat),
   s.dev.pwr.por = false ∧ fuseBit s.dev.chuck 2 = false ∧ s.ready = true ∧ a < 2 ^ 32) ∧
  (∃ (s : State) (a : Nat) (v : Word),
   s.dev.pwr.por = false ∧ fuseBit s.dev.chuck 2 = false ∧ s.ready = true ∧ a < 0x10000 ∧ a % 4 = 0 ∧ RegMap.fields a ≠ [] ∧ s.dev.svc.dbgAddr = a + 2 ^ 32 ∧ s.dev.ledg.cycle = []) ∧
  (∃ (s : State) (v : Word),
   s.dev.pwr.por = false ∧ fuseBit s.dev.chuck 2 = false ∧ s.ready = true ∧ s.dev.svc.dbgAddr < 2 ^ 32) ∧
  (∃ (s : State) (a : Nat) (rw : Bool),
   s.dev.pwr.por = false ∧ fuseBit s.dev.chuck 2 = true) ∧
  (∃ (s : State) (v : Word),
   s.dev.pwr.por = false ∧ fuseBit s.dev.chuck 2 = true) :=
  ⟨⟨up, by decide +kernel⟩,
   ⟨up, by decide +kernel⟩,
   ⟨up, by decide +kernel⟩,
   ⟨up, 5, 6, by decide +kernel⟩,
   ⟨up, .extest, 3, by decide +kernel⟩,
   ⟨up, 0x40000, by decide +kernel⟩,
   ⟨up, 0x40000, by decide +kernel⟩,
   ⟨(onSvc (fun h => { h with dbgAddr := 0x100000018 }) up), 0x18, 5, by decide +kernel⟩,
   ⟨up, 5, by decide +kernel⟩,
   ⟨(onChuck (fun h => { h with fuseFlags := 4 }) up), 5, true, by decide +kernel⟩,
   ⟨(onChuck (fun h => { h with fuseFlags := 4 }) up), 5, by decide +kernel⟩⟩

theorem witness_Orders :
  (∃ (s : State) (src : OSrc) (b : Nat) (arg : Nat) (p : Nat),
   s.ready = true ∧ src ≠ .timetable ∧ src ≠ .wake ∧ b < 32 ∧ s.fenced b = false ∧ (s.unitState b = 1 ∨ s.unitState b = 2 ∨ s.unitState b = 3) ∧ s.benchPart b = some p ∧ s.partOn p = false ∧ (∀ x ∈ s.dev.pwr.waking ++ s.dev.pwr.dwelling, x.1 ≠ b) ∧ arg % 4 ≠ 3) ∧
  (∃ (s : State) (src : OSrc) (arg : Nat),
   s.ready = true ∧ arg < 256 ∧ (s.enableVerdict arg).status = 0) ∧
  (∃ (s : State) (src : OSrc) (p : Nat) (g : Nat) (en : Nat),
   s.ready = true ∧ p < 8 ∧ g < 64 ∧ en < 2) ∧
  (∃ (s : State) (src : OSrc) (k : Nat),
   s.ready = true ∧ k < 4 ∧ s.unitState (108 + k) = 0 ∧ s.fenced (108 + k) = false) ∧
  (∃ (s : State) (src : OSrc) (k : Nat),
   s.ready = true ∧ k < 4) ∧
  (∃ (s : State) (src : OSrc) (arg : Nat),
   s.ready = true ∧ arg < 2 ^ 13 ∧ s.regripOk (bitsOf arg 0 8) = true) ∧
  (∃ (s : State) (src : OSrc) (arg : Nat),
   s.ready = true ∧ arg < 256) ∧
  (∃ (s : State) (src : OSrc) (arg : Nat),
   s.ready = true ∧ 400 ≤ arg ∧ arg ≤ gradeMhz ∧ arg % 25 = 0) ∧
  (∃ (s : State) (o : Order) (c : Instr),
   s.ready = true ∧ o.src ≠ .timetable ∧ (c, o.kind) ∈ [(Instr.orderPower o.src o.unit o.arg [], 1), (.orderTileclk o.src o.arg [], 4), (.orderEnable o.src o.arg [], 8), (.orderRegrip o.src o.arg [], 9), (.orderPort o.src o.unit o.arg [], 11)] ∧ (o.kind ∈ [4, 8, 9] → o.unit = 0) ∧ (s.verdict o).status = 2) ∧
  (∃ (s : State) (a : Nat) (b : Nat),
   s.ready = true ∧ 400 ≤ b ∧ b ≤ gradeMhz ∧ b % 25 = 0) :=
  ⟨⟨(put [(F.LEDG_UNIT_STATE 1, 1), (F.LEDG_UNIT_STATE 32, 0)] (on { plane with benches := 6 } up)), .pf, 1, 0, 0, by decide +kernel⟩,
   ⟨(put [(F.LEDG_UNIT_STATE 32, 0)] (on { plane with benches := 1, autoen := true } up)), .pf, 1, by decide +kernel⟩,
   ⟨up, .pf, 2, 40, 1, by decide +kernel⟩,
   ⟨up, .pf, 1, by decide +kernel⟩,
   ⟨put [(F.LEDG_UNIT_STATE 109, 3)] up, .pf, 1, by decide +kernel⟩,
   ⟨(onPart 0 { active := some plane, staged := some { plane with prBase := 0x3000 } } (on plane up)), .pf, 1, by decide +kernel⟩,
   ⟨on plane up, .pf, 5, by decide +kernel⟩,
   ⟨up, .pf, 800, by (
     unfold gradeMhz
     cases Config.grade15 <;> decide +kernel)⟩,
   ⟨up, ⟨.pf, 1, 0, 0⟩, .orderPower .pf 0 0 [], by decide +kernel⟩,
   ⟨up, 800, 1000, by (
     unfold gradeMhz
     cases Config.grade15 <;> decide +kernel)⟩⟩

theorem witness_ResetsByOrder :
  (∃ (s : State) (src : OSrc),
   s.ready = true ∧ src ≠ .watchdog ∧ s.dev.chuck.rbTarget = none) ∧
  (∃ (s : State) (src : OSrc) (p : Nat),
   s.ready = true ∧ p < 8 ∧ src ≠ .watchdog) :=
  ⟨⟨put [(F.TB_SLEW_REMAIN,5)] (mem32 [(5, 7), (storeAt, 9), (farAt, 3)] (on plane up)), .pf, by decide +kernel⟩,
   ⟨(tileIs 3 { run := 1 } (put [(F.LEDG_UNIT_STATE 0, 1)] (on { plane with benches := 1 } up))), .mb, 0, by decide +kernel⟩⟩

theorem witness_SuppliesAndResets :
  (∃ (s : State),
   s.dev.chuck.rbTarget = none) ∧
  (∃ (s : State) (straps : Nat) (xtal : Bool),
   s.dev.pwr.por = true ∧ s.dev.pwr.pins.pwrOk = true ∧ s.dev.pwr.pins.coldN = true) ∧
  (∃ (s : State),
   s.dev.pwr.por = false ∧ s.dev.pwr.heldSupply = true ∧ s.dev.pwr.heldCold = false ∧ s.dev.pwr.heldTrip = false) ∧
  (∃ (s : State),
   s.dev.pwr.heldSupply = false) ∧
  (∃ (s : State),
   s.dev.pwr.por = false ∧ s.heldReset = false ∧ (s.devState = 0 ∨ s.devState = 4) ∧ s.dev.pwr.railSlow = false) ∧
  (∃ (s : State),
   s.dev.pwr.railSlow = true) ∧
  (∃ (s : State),
   s.dev.pwr.por = false ∧ s.heldReset = false ∧ s.dev.chuck.rbTarget = none) ∧
  (∃ (s : State) (ns : Nat),
   s.dev.pwr.por = false ∧ s.heldReset = false ∧ 100 ≤ ns) ∧
  (∃ (s : State) (ns : Nat),
   ns < 20) ∧
  (∃ (s : State),
   s.dev.pwr.por = false ∧ s.dev.pwr.heldCold = true ∧ s.dev.pwr.heldTrip = false ∧ s.dev.pwr.heldSupply = false) :=
  ⟨⟨mem32 [(5, 7)] (on plane up), by decide +kernel⟩,
   ⟨{ dev := { pwr := { pins := { pwrOk := true } } } }, 127, true, by decide +kernel⟩,
   ⟨(onPwr (fun h => { h with heldSupply := true }) up), by decide +kernel⟩,
   ⟨up, by decide +kernel⟩,
   ⟨put [(F.PCK_STATUS_DEV,0)] up, by decide +kernel⟩,
   ⟨(onPwr (fun h => { h with railSlow := true }) up), by decide +kernel⟩,
   ⟨on plane up, by decide +kernel⟩,
   ⟨mem32 [(5, 7)] (on plane up), 100, by decide +kernel⟩,
   ⟨up, 19, by decide +kernel⟩,
   ⟨(onPwr (fun h => { h with heldCold := true }) up), by decide +kernel⟩⟩

theorem witness_ThermalAndWatchdog :
  (∃ (s : State) (temp : Nat) (sensor : Nat),
   s.ready = true ∧ temp < 65536 ∧ sensor < 16 ∧ 16 * (s.fld F.PCK_THERM_CTL_TDERATE : Int) < signedOf 16 temp ∧ s.newlyHot ≠ []) ∧
  (∃ (s : State) (temp : Nat) (sensor : Nat),
   s.ready = true ∧ temp < 65536 ∧ sensor < 16 ∧ signedOf 16 temp < s.derateOff16 ∧ s.autoMask ≠ 0) ∧
  (∃ (s : State) (temp : Nat) (sensor : Nat),
   s.ready = true ∧ 2000 ≤ signedOf 16 temp ∧ s.dev.chuck.rbTarget = none) ∧
  (∃ (s : State) (part : Nat) (mhz : Nat) (t : Nat) (owe : Nat),
   s.dev.pwr.tileClk = some (mhz, t, owe) ∧ inMask owe part = true ∧ s.reached t = true ∧ (part = 8 ∨ s.atBoundary part = true) ∧ s.ready = true) ∧
  (∃ (s : State) (p : Path) (v : Word),
   s.reach p F.PCK_WDOG_KICK.off = true ∧ kickAllowed (s.fld F.PCK_WDOG_CTL_KICKSRC) p = true) ∧
  (∃ (s : State) (p : Path) (v : Word),
   s.reach p F.PCK_WDOG_KICK.off = true ∧ kickAllowed (s.fld F.PCK_WDOG_CTL_KICKSRC) p = false) ∧
  (∃ (s : State) (st : Nat) (act : Nat),
   s.dev.pwr.por = false ∧ s.heldReset = false ∧ s.bit F.PCK_WDOG_CTL_EN = true ∧ st = s.fld F.PCK_WDOG_STAT_STAGE ∧ (st, act) ∈ [(0, s.fld F.PCK_WDOG_CTL_ACT1), (1, s.fld F.PCK_WDOG_CTL_ACT2), (2, s.fld F.PCK_WDOG_CTL_ACT3)] ∧ s.reached (s.dev.pwr.wdogAt + 250000 * s.fld F.PCK_WDOG_CTL_TIMEOUT_MS) = true) ∧
  (∃ (s : State) (t : Nat),
   t < 512 ∧ s.ready = true ∧ s.fld F.PCK_HANG_CTL_HANG_US ≠ 0 ∧ (s.tile t).run = 1 ∧ s.unitState (t / 16) = 1 ∧ s.fenced (t / 16) = false ∧ s.reached ((s.tile t).issuedAt + 250 * s.fld F.PCK_HANG_CTL_HANG_US) = true) :=
  ⟨⟨put [(F.PCK_THERM_CTL_TDERATE,90), (F.PCK_THERM_CTL_AUTO_MASK,3)] (on plane up), 1600, 3, by decide +kernel⟩,
   ⟨(put [(F.PCK_THERM_CTL_TDERATE,90), (F.PCK_THERM_CTL_HYST,5)] (onPwr (fun h => { h with derateBy := [(7, 1)] }) (on plane up))), 1000, 3, by decide +kernel⟩,
   ⟨on plane up, 2000, 3, by decide +kernel⟩,
   ⟨(onPwr (fun h => { h with tileClk := some (800, 10, 257) }) (on plane up)), 0, 800, 10, 257, by decide +kernel⟩,
   ⟨up, .pf, 5, by decide +kernel⟩,
   ⟨put [(F.PCK_WDOG_CTL_KICKSRC,1)] up, .pf, 5, by decide +kernel⟩,
   ⟨(put [(F.PCK_WDOG_CTL_EN,1), (F.PCK_WDOG_CTL_TIMEOUT_MS,1), (F.PCK_WDOG_STAT_STAGE,0), (F.PCK_WDOG_CTL_ACT1,0)] (onHs (fun h => { h with now := 250000 }) up)), 0, 0, by decide +kernel⟩,
   ⟨(put [(F.LEDG_UNIT_STATE 0, 1), (F.PCK_HANG_CTL_HANG_US,2)] (tileIs 3 { run := 1, vregs := [(3,7)] } (on plane up))), 3, by decide +kernel⟩⟩

theorem witness_RestAndWake :
  (∃ (s : State) (src : OSrc),
   s.ready = true ∧ (∀ p, p < 8 → s.partOn p = false ∧ (s.part p).retiring = none) ∧ s.fld F.IMG_STATUS_CHUCK = 0) ∧
  (∃ (s : State),
   s.dev.pwr.por = false ∧ s.heldReset = false ∧ s.devState = 2 ∧ s.dev.pwr.wakePending = none ∧ s.bit F.MB_MST_STATUS_BUSY = false) ∧
  (∃ (s : State) (w : WakeSrc),
   s.dev.pwr.por = false ∧ s.heldReset = false ∧ s.inRest = true) ∧
  (∃ (s : State),
   s.dev.pwr.por = false ∧ s.heldReset = false ∧ s.inRest = true ∧ s.fld F.PCK_REST_TIMER_SECONDS ≠ 0 ∧ s.reached (s.dev.pwr.restAt + s.fld F.PCK_REST_TIMER_SECONDS * 250000000) = true) ∧
  (∃ (s : State) (elapsed : Nat),
   s.dev.pwr.por = false ∧ s.heldReset = false ∧ s.devState = 4 ∧ s.bit F.PCK_STATUS_PERST_SEEN = false ∧ (elapsed ≤ 750000 ∨ s.dev.pwr.railSlow = true)) :=
  ⟨⟨up, .pf, by decide +kernel⟩,
   ⟨(onPwr (fun h => { h with restKeep := true }) (put [(F.PCK_STATUS_DEV,2), (F.ARR_CMP_CTL_EN 0,1)] (onPart 0 { active := some plane } up))), by decide +kernel⟩,
   ⟨put [(F.PCK_STATUS_DEV, 3)] up, .mb, by decide +kernel⟩,
   ⟨(put [(F.PCK_REST_TIMER_SECONDS,1)] (onHs (fun h => { h with now := 250000000 }) (put [(F.PCK_STATUS_DEV, 3)] up))), by decide +kernel⟩,
   ⟨(onPwr (fun h => { h with restKeep := true }) (put [(F.PCK_STATUS_DEV,4)] (onPart 0 { active := some plane } up))), 5, by decide +kernel⟩⟩

theorem witness_LedgerAndReadPositions :
  (∃ (s : State) (n : Nat) (st : Nat),
   s.ready = true ∧ n ≤ 116 ∧ s.moving n = false ∧ s.unitState n = st % 16) ∧
  (∃ (s : State) (n : Nat) (st : Nat),
   s.ready = true ∧ n ≤ 116 ∧ s.moving n = false ∧ s.unitState n ≠ st % 16) ∧
  (∃ (s : State),
   s.ready = true ∧ s.dev.chuck.rbTarget = none) ∧
  (∃ (s : State) (n : Nat) (t : Nat),
   s.ready = true ∧ (n, t) ∈ s.dev.ledg.mismatch ∧ s.reached (t + 250000) = true ∧ n ∈ [41, 42, 108, 109, 110, 111, 112, 113] ∧ s.fenced n = false) ∧
  (∃ (s : State) (n : Nat) (t : Nat),
   s.ready = true ∧ (n, t) ∈ s.dev.ledg.mismatch ∧ s.reached (t + 250000) = true ∧ n < 32 ∧ s.fenced n = false) ∧
  (∃ (s : State) (p : Path) (k : Nat) (v : Word),
   k < 4 ∧ s.reach p (F.CATCH_RPOS k).off = true ∧ ownsRpos k p = true) ∧
  (∃ (s : State) (p : Path) (k : Nat) (v : Word),
   k < 4 ∧ s.reach p (F.CATCH_RPOS k).off = true ∧ ownsRpos k p = false ∧ (∀ n, p ≠ .vf n)) :=
  ⟨⟨up, 40, 2, by decide +kernel⟩,
   ⟨up, 40, 3, by decide +kernel⟩,
   ⟨up, by decide +kernel⟩,
   ⟨(onDev (fun h => { h with ledg := { mismatch := [(41, 10)] } }) (onHs (fun h => { h with now := 250010 }) up)), 41, 10, by decide +kernel⟩,
   ⟨(onDev (fun h => { h with ledg := { mismatch := [(3, 10)] } }) (onHs (fun h => { h with now := 250010 }) up)), 3, 10, by decide +kernel⟩,
   ⟨up, .pf, 0, 5, by decide +kernel⟩,
   ⟨up, .pf, 1, 5, by (
     with_reducible and_intros
     all_goals first | decide +kernel | nofun)⟩⟩

end Sys2Proof.Tests
end

section
/-!
A register write that is dropped and counted (R9, R355): what the device's counters do, what a write comes to that is alone in its
cycle, and what `dropCounted` leaves as it was.
-/
namespace Sys2Proof.Machine

/-! ## Counters -/

/-- A counter counts one; a full one stands. -/
theorem Prog.fld_incF (f : Fld) (s : State) (h : f.lo + f.w ≤ 32) :
    ((incF f).run s).fld f = min (s.fld f + 1) (2 ^ f.w - 1) := by
  have hlt : min (s.fld f + 1) (2 ^ f.w - 1) < 2 ^ f.w := by have := Nat.two_pow_pos f.w; omega
  rw [incF, addF, Prog.run_look, Prog.fld_setF_same f _ s h, Nat.mod_eq_of_lt hlt]

/-- Counting leaves every other register. -/
theorem Prog.word_incF_other {f : Fld} {off : Nat} (h : off ≠ f.off) (s : State) : ((incF f).run s).word off = s.word off :=
  (Prog.only_incF (P := Act.sparesReg off) fun _ => h.symm).word s

/-- Every GEN_BAD_ACCESS, the device's and a virtual function's, is the low half of its word. -/
theorem badAccessOf_bits (p : Path) : (badAccessOf p).lo = 0 ∧ (badAccessOf p).w = 16 := by
  cases p <;> exact ⟨rfl, rfl⟩

/-! ## The cycle of a write that comes alone -/

@[simp] theorem readCycle_nil_run (s : State) : (readCycle []).run s = s := rfl

@[simp] theorem holdEvents_zero_run (off : Nat) (q : Prog) (s : State) : (holdEvents off 0 q).run s = q.run s := rfl

@[simp] theorem submit_nil_run (s : State) : (submit []).run s = s := by simp [submit]

theorem settle_run_of_no_orders {s : State} (h : s.dev.ledg.cycle = []) : settle.run s = s := by simp [settle, h]

/-- A write that no other event of its cycle accompanies, and that leaves no order to decide, comes to itself. -/
theorem exec_registerWrite_alone {p : Path} {off : Nat} {v : Word} {how : WriteForm} {s : State}
    (h : ((writeAs (p, off, v.toNat, how)).run s).dev.ledg.cycle = []) :
    exec (.registerWrite p off v { form := how }) s = .next ((writeAs (p, off, v.toNat, how)).run s) := by
  show execRegisterWrite p off v { form := how } s = _
  simp [execRegisterWrite, settle_run_of_no_orders h]

/-! ## Dropping a write -/

/-- The state with another ledger. -/
def State.withLedger (s : State) (l : Ledger) : State := { s with dev := { s.dev with ledg := l } }

/-- Reach does not depend on the ledger's notes. -/
theorem State.reach_withLedger (s : State) (l : Ledger) (p : Path) (off : Nat) : (s.withLedger l).reach p off = s.reach p off := rfl

theorem startWrite_run (src : OSrc) (s : State) : (startWrite src).run s =
    s.withLedger { s.dev.ledg with lastSrc := src, lastStatus := 0, lastEpoch := 0 } := rfl

theorem noteDropped_run (s : State) : noteDropped.run s = s.withLedger { s.dev.ledg with lastStatus := 7, lastEpoch := 0 } := rfl

/-- What a write of path `p` leaves that was dropped and counted: one more in the path's GEN_BAD_ACCESS, and the ledger's notes. -/
structure DroppedCounted (p : Path) (s u : State) : Prop where
  counted : u.fld (badAccessOf p) = min (s.fld (badAccessOf p) + 1) 65535
  regs : SameRegsBut s u [(badAccessOf p).off]
  bytes : SameBytes s u
  host : SameHost s u
  dev : u.dev = { s.dev with ledg := u.dev.ledg }
  cycle : u.dev.ledg.cycle = s.dev.ledg.cycle

theorem dropCounted_run (p : Path) (s : State) :
    (dropCounted p).run s = (incF (badAccessOf p)).run (s.withLedger { s.dev.ledg with lastStatus := 7, lastEpoch := 0 }) := rfl

theorem dropCounted_effect (p : Path) (s : State) : DroppedCounted p s ((dropCounted p).run s) := by
  obtain ⟨hlo, hw⟩ := badAccessOf_bits p
  rw [dropCounted_run]
  refine ⟨?_, fun o ho => ?_, fun _ => rfl, fun _ => rfl, rfl, rfl⟩
  · rw [Prog.fld_incF _ _ (by omega), hw]; rfl
  · exact Prog.word_incF_other (by simpa using ho) _

/-- What a write noted in the ledger before it was dropped does not show elsewhere. -/
theorem DroppedCounted.of_withLedger {p : Path} {s u : State} {l : Ledger} (h : DroppedCounted p (s.withLedger l) u)
    (hl : l.cycle = s.dev.ledg.cycle) : DroppedCounted p s u :=
  ⟨h.counted, h.regs, h.bytes, h.host, h.dev, h.cycle.trans hl⟩

/-- A narrow write is dropped and counted (R9). -/
theorem writeAs_narrow_run {p : Path} {off : Nat} {s : State} (hr : s.reach p off = true) (v : Nat) :
    (writeAs (p, off, v, .narrow)).run s = (dropCounted p).run s := by
  simp [writeAs, hr]

/-- A misaligned write of a word is dropped and counted on every path (R9). -/
theorem writeWord_misaligned_run {p : Path} {off : Nat} {s : State} (hr : s.reach p off = true) (ha : off % 4 ≠ 0) (v : Nat) :
    (writeWord p off v).run s = (dropCounted p).run ((startWrite p.osrc).run s) := by
  have hr' : ((startWrite p.osrc).run s).reach p off = true := by rwa [startWrite_run, State.reach_withLedger]
  cases p <;> simp [writeWord, hr', ha]

theorem writeAs_dropped {p : Path} {off : Nat} {how : WriteForm} {s : State} (hr : s.reach p off = true)
    (hb : how = .narrow ∨ (how = .word ∧ off % 4 ≠ 0)) (v : Nat) : DroppedCounted p s ((writeAs (p, off, v, how)).run s) := by
  rcases hb with rfl | ⟨rfl, ha⟩
  · rw [writeAs_narrow_run hr]
    exact dropCounted_effect p s
  · show DroppedCounted p s ((writeWord p off v).run s)
    rw [writeWord_misaligned_run hr ha, startWrite_run]
    exact (dropCounted_effect p _).of_withLedger rfl

/-- Settles O36: the write comes alone in its cycle, so its effect is that of `dropCounted`, which writes one register and the
ledger's notes. -/
theorem narrowWritesAreDropped : Obligations.NarrowWritesAreDropped := by
  intro s p off v how hr hb hc
  have h := writeAs_dropped hr hb v.toNat
  exact ⟨_, exec_registerWrite_alone (h.cycle.trans hc), h.counted, h.regs, h.bytes, h.host, h.dev⟩

end Sys2Proof.Machine
end

section
/-!
TB_NOW is never stepped (R35; log entries 2 and 108): no act of any command but a TBPPS edge and a power-on reset changes it. The
acts of a program are those of its parts, so each of the model's programs has one lemma, which the programs that call it use; a helper
that only one program calls is unfolded in that program's lemma.
-/
namespace Sys2Proof.Machine

/-! ### Acts that leave TB_NOW -/

/-- The act leaves TB_NOW. -/
def Act.sparesNow : Act → Prop
  | .dev f => ∀ d, (f d).hs.now = d.hs.now
  | _ => True

@[simp] theorem Act.sparesNow_dev (f : Dev → Dev) : (Act.dev f).sparesNow ↔ ∀ d, (f d).hs.now = d.hs.now := Iff.rfl
@[simp] theorem Act.sparesNow_reg (off : Nat) (v : Word) : (Act.reg off v).sparesNow := trivial
@[simp] theorem Act.sparesNow_lose (keep : Nat → FieldSpec → Bool) : (Act.lose keep).sparesNow := trivial
@[simp] theorem Act.sparesNow_bytes (a : Nat) (bs : List Byte) : (Act.bytes a bs).sparesNow := trivial
@[simp] theorem Act.sparesNow_zero (lo hi : Nat) : (Act.zero lo hi).sparesNow := trivial
@[simp] theorem Act.sparesNow_hostBytes (a : Nat) (bs : List Byte) : (Act.hostBytes a bs).sparesNow := trivial
@[simp] theorem Act.sparesNow_draw : Act.draw.sparesNow := trivial

theorem Prog.Only.now {p : Prog} (h : p.Only Act.sparesNow) (s : State) : (p.run s).dev.hs.now = s.dev.hs.now := by
  refine h.run (R := fun s t => t.dev.hs.now = s.dev.hs.now) (fun _ => rfl) (fun h k => k.trans h) (fun a s ha => ?_) s
  cases a with
  | dev f => exact ha s.dev
  | _ => rfl

/-- A command whose program leaves TB_NOW leaves it. -/
theorem Prog.Only.now_of_done {p : Prog} (hp : p.Only Act.sparesNow) {s u : State} (h : done p s = .next u) :
    u.dev.hs.now = s.dev.hs.now := by
  cases h
  exact hp.now s

@[simp] theorem Prog.only_ite {P : Act → Prop} {c : Prop} [Decidable c] {p q : Prog} :
    (if c then p else q).Only P ↔ (c → p.Only P) ∧ (¬c → q.Only P) := by
  split <;> simp [*]

/-! ### The shared operations -/

@[simp] theorem modHs_sparesNow (f) : (modHs f).Only Act.sparesNow ↔ ∀ d : Dev, (f d.hs).now = d.hs.now := Iff.rfl
@[simp] theorem modPwr_sparesNow (f) : (modPwr f).Only Act.sparesNow := by simp [modPwr]
@[simp] theorem modLog_sparesNow (f) : (modLog f).Only Act.sparesNow := by simp [modLog]
@[simp] theorem modChuck_sparesNow (f) : (modChuck f).Only Act.sparesNow := by simp [modChuck]
@[simp] theorem modPart_sparesNow (p f) : (modPart p f).Only Act.sparesNow := by simp [modPart]
@[simp] theorem modSlot_sparesNow (n f) : (modSlot n f).Only Act.sparesNow := by simp [modSlot]
@[simp] theorem modTile_sparesNow (t f) : (modTile t f).Only Act.sparesNow := by simp [modTile]
@[simp] theorem emitOut_sparesNow (o) : (emitOut o).Only Act.sparesNow := by simp [emitOut]

@[simp] theorem drawFree_sparesNow (w f) (hf : ∀ x, (f x).Only Act.sparesNow) : (drawFree w f).Only Act.sparesNow := by
  simp [drawFree, hf]

@[simp] theorem setF_sparesNow (f v) : (setF f v).Only Act.sparesNow := by simp [setF]
@[simp] theorem setFields_sparesNow (off v keep) : (setFields off v keep).Only Act.sparesNow := by simp [setFields]
@[simp] theorem setB_sparesNow (f b) : (setB f b).Only Act.sparesNow := by simp [setB]
@[simp] theorem addF_sparesNow (f n) : (addF f n).Only Act.sparesNow := by simp [addF]
@[simp] theorem incF_sparesNow (f) : (incF f).Only Act.sparesNow := by simp [incF]
@[simp] theorem setUnit_sparesNow (u st) : (setUnit u st).Only Act.sparesNow := by simp [setUnit]
@[simp] theorem bumpEpoch_sparesNow (u) : (bumpEpoch u).Only Act.sparesNow := by simp [bumpEpoch]
@[simp] theorem declareUnit_sparesNow (u st) : (declareUnit u st).Only Act.sparesNow := by simp [declareUnit]
@[simp] theorem sendMsix_sparesNow (fn vec) : (sendMsix fn vec).Only Act.sparesNow := by simp [sendMsix]

@[simp] theorem logC_sparesNow (code sev unit ds stream) : (logC code sev unit ds stream).Only Act.sparesNow := by
  simp [logC, logRec, logRaw, loseUnread, catchMsi]

@[simp] theorem logLim_sparesNow (l id code sev unit ds stream) : (logLim l id code sev unit ds stream).Only Act.sparesNow := by
  simp [logLim]

@[simp] theorem putN_sparesNow (a n v) : (putN a n v).Only Act.sparesNow := by simp [putN]
@[simp] theorem put32_sparesNow (a v) : (put32 a v).Only Act.sparesNow := by simp [put32]
@[simp] theorem addPoison_sparesNow (a) : (addPoison a).Only Act.sparesNow := by simp [addPoison]
@[simp] theorem storeBytes_sparesNow (a bs) : (storeBytes a bs).Only Act.sparesNow := by simp [storeBytes]
@[simp] theorem zeroFill_sparesNow (lo hi) : (zeroFill lo hi).Only Act.sparesNow := by simp [zeroFill]
@[simp] theorem modIn_sparesNow (k f) : (modIn k f).Only Act.sparesNow := by simp [modIn]
@[simp] theorem modPort_sparesNow (k f) : (modPort k f).Only Act.sparesNow := by simp [modPort]
@[simp] theorem modArr_sparesNow (f) : (modArr f).Only Act.sparesNow := by simp [modArr]
@[simp] theorem modFab_sparesNow (f) : (modFab f).Only Act.sparesNow := by simp [modFab]
@[simp] theorem hostWrite_sparesNow (fn a bs) : (hostWrite fn a bs).Only Act.sparesNow := by simp [hostWrite]

/-! ### Regions -/

@[simp] theorem sysDrop_sparesNow (lim a bench tile st) : (sysDrop lim a bench tile st).Only Act.sparesNow := by simp [sysDrop]

/-! ### Pages and page lists -/

@[simp] theorem setPage_sparesNow (page lo w v) : (setPage page lo w v).Only Act.sparesNow := by simp [setPage]

@[simp] theorem freeIfIdle_sparesNow (page) : (freeIfIdle page).Only Act.sparesNow := by
  simp only [freeIfIdle, Prog.only_look]
  intro s
  split <;> simp

@[simp] theorem releasePage_sparesNow (page) : (releasePage page).Only Act.sparesNow := by simp [releasePage]
@[simp] theorem retainPage_sparesNow (page) : (retainPage page).Only Act.sparesNow := by simp [retainPage]
@[simp] theorem pinPage_sparesNow (page) : (pinPage page).Only Act.sparesNow := by simp [pinPage]
@[simp] theorem unpinPage_sparesNow (page) : (unpinPage page).Only Act.sparesNow := by simp [unpinPage]
@[simp] theorem takePage_sparesNow (k page) : (takePage k page).Only Act.sparesNow := by simp [takePage]
@[simp] theorem putList_sparesNow (a n v) : (putList a n v).Only Act.sparesNow := by simp [putList]
@[simp] theorem setLen_sparesNow (l n) : (setLen l n).Only Act.sparesNow := by simp [setLen]
@[simp] theorem setEntryPage_sparesNow (l i page) : (setEntryPage l i page).Only Act.sparesNow := by simp [setEntryPage]
@[simp] theorem emptyList_sparesNow (l) : (emptyList l).Only Act.sparesNow := by simp [emptyList]
@[simp] theorem copyList_sparesNow (src dst) : (copyList src dst).Only Act.sparesNow := by simp [copyList]
@[simp] theorem resetList_sparesNow (l) : (resetList l).Only Act.sparesNow := by simp [resetList]

@[simp] theorem releaseRecord_sparesNow (slot) : (releaseRecord slot).Only Act.sparesNow := by
  simp only [releaseRecord, Prog.only_look]
  intro s
  split <;> simp

/-! ### Chunks, benches and partitions -/

@[simp] theorem gapAt_sparesNow (slot i) : (gapAt slot i).Only Act.sparesNow := by simp [gapAt]

@[simp] theorem markGap_sparesNow (slot i arrival) : (markGap slot i arrival).Only Act.sparesNow := by
  simp only [markGap, Prog.only_look]
  intro s
  split <;> simp

@[simp] theorem keepState_sparesNow (slot i) : (keepState slot i).Only Act.sparesNow := by simp [keepState]

@[simp] theorem restoreState_sparesNow (c) : (restoreState c).Only Act.sparesNow := by
  simp only [restoreState]
  split <;> simp

@[simp] theorem dropUnbound_sparesNow (slot) : (dropUnbound slot).Only Act.sparesNow := by simp [dropUnbound]

@[simp] theorem endChunkAt_sparesNow (slot i status tick fmt) : (endChunkAt slot i status tick fmt).Only Act.sparesNow := by
  simp only [endChunkAt, Prog.only_look]
  intro s
  split <;> simp [countResult]

@[simp] theorem endChunkFmt_sparesNow (slot i status fmt) : (endChunkFmt slot i status fmt).Only Act.sparesNow := by
  simp [endChunkFmt]

@[simp] theorem endChunk_sparesNow (slot i status) : (endChunk slot i status).Only Act.sparesNow := by simp [endChunk]

@[simp] theorem endRunning_sparesNow (slot status) : (endRunning slot status).Only Act.sparesNow := by
  simp only [endRunning, Prog.only_look]
  intro s
  split <;> simp

@[simp] theorem dropMoves_sparesNow (b) : (dropMoves b).Only Act.sparesNow := by simp [dropMoves]
@[simp] theorem startWake_sparesNow (b) : (startWake b).Only Act.sparesNow := by simp [startWake]
@[simp] theorem moveBench_sparesNow (b code) : (moveBench b code).Only Act.sparesNow := by simp [moveBench, startDwell]

@[simp] theorem idleBench_sparesNow (b) : (idleBench b).Only Act.sparesNow := by
  simp only [idleBench, Prog.only_look]
  intro s
  split <;> simp

@[simp] theorem blankBench_sparesNow (b) : (blankBench b).Only Act.sparesNow := by simp [blankBench]

@[simp] theorem endOf_sparesNow (st c status) : (endOf st c status).Only Act.sparesNow := by
  simp only [endOf, Prog.only_look]
  intro s
  split <;> simp

@[simp] theorem endUndone_sparesNow (t status) : (endUndone t status).Only Act.sparesNow := by
  simp only [endUndone, Prog.only_look]
  intro s
  split
  · trivial
  · simp only [Prog.only_each, Prog.only_look]
    intro c _ u
    split <;> simp

@[simp] theorem fencePolicy_sparesNow (p) : (fencePolicy p).Only Act.sparesNow := by simp [fencePolicy]
@[simp] theorem fencedPolicy_sparesNow (p) : (fencedPolicy p).Only Act.sparesNow := by simp [fencedPolicy]
@[simp] theorem fenceUnit_sparesNow (u) : (fenceUnit u).Only Act.sparesNow := by simp [fenceUnit]
@[simp] theorem liftFence_sparesNow (u) : (liftFence u).Only Act.sparesNow := by simp [liftFence]
@[simp] theorem disablePart_sparesNow (p) : (disablePart p).Only Act.sparesNow := by simp [disablePart]
@[simp] theorem setVreq_sparesNow : setVreq.Only Act.sparesNow := by simp [setVreq]

/-! ### Errors in memory -/

@[simp] theorem mergeLate_sparesNow (b a) : (mergeLate b a).Only Act.sparesNow := by simp [mergeLate]

@[simp] theorem poisonPage_sparesNow (a) : (poisonPage a).Only Act.sparesNow := by
  simp only [poisonPage, Prog.only_look]
  intro s
  split <;> simp

@[simp] theorem cleanState_sparesNow (a) : (cleanState a).Only Act.sparesNow := by
  simp only [cleanState, Prog.only_look]
  intro s
  split <;> simp [freshNext]

@[simp] theorem poisonLine_sparesNow (a) : (poisonLine a).Only Act.sparesNow := by simp [poisonLine]
@[simp] theorem readUe_sparesNow (a new bench tile st) : (readUe a new bench tile st).Only Act.sparesNow := by simp [readUe]
@[simp] theorem readCe_sparesNow (a lim bench tile st) : (readCe a lim bench tile st).Only Act.sparesNow := by simp [readCe]

@[simp] theorem reading_sparesNow (p c rs st ok bad) (hok : ok.Only Act.sparesNow) (hbad : bad.Only Act.sparesNow) :
    (reading p c rs st ok bad).Only Act.sparesNow := by
  simp only [reading, Prog.only_look]
  intro s
  split <;> simp [hok, hbad]

@[simp] theorem walkerViolation_sparesNow (p a slot) : (walkerViolation p a slot).Only Act.sparesNow := by simp [walkerViolation]
@[simp] theorem walkerWrite_sparesNow (p slot a bs) : (walkerWrite p slot a bs).Only Act.sparesNow := by simp [walkerWrite]
@[simp] theorem windowWait_sparesNow (p st) : (windowWait p st).Only Act.sparesNow := by simp [windowWait]

/-! ### Results -/

@[simp] theorem modPair_sparesNow (q f) : (modPair q f).Only Act.sparesNow := by simp [modPair]
@[simp] theorem signalPair_sparesNow (q vec) : (signalPair q vec).Only Act.sparesNow := by simp [signalPair]

@[simp] theorem logPair_sparesNow (code q lim stream cause) : (logPair code q lim stream cause).Only Act.sparesNow := by
  simp [logPair]

@[simp] theorem modOut_sparesNow (k f) : (modOut k f).Only Act.sparesNow := by simp [modOut]

@[simp] theorem outEvent_sparesNow (unit path part stream seq code arr port) :
    (outEvent unit path part stream seq code arr port).Only Act.sparesNow := by
  simp [outEvent]

@[simp] theorem sendOne_sparesNow (unit t slot r) : (sendOne unit t slot r).Only Act.sparesNow := by
  simp only [sendOne]
  split <;> simp [sendHost, queueResult]

@[simp] theorem readPayload_sparesNow (c slot r) : (readPayload c slot r).Only Act.sparesNow := by simp [readPayload]

@[simp] theorem emitSlot_sparesNow (c p old g unit t slot) : (emitSlot c p old g unit t slot).Only Act.sparesNow := by
  simp only [emitSlot]
  split <;> simp

@[simp] theorem signalMoved_sparesNow (s qs) : (signalMoved s qs).Only Act.sparesNow := by simp [signalMoved]
@[simp] theorem flushResults_sparesNow (sel slot) : (flushResults sel slot).Only Act.sparesNow := by simp [flushResults]

/-! ### Planes -/

@[simp] theorem loadTile_sparesNow (r) : (loadTile r).Only Act.sparesNow := by simp [loadTile]
@[simp] theorem tileRegs_sparesNow (r) : (tileRegs r).Only Act.sparesNow := by simp [tileRegs]
@[simp] theorem joinBench_sparesNow (p b) : (joinBench p b).Only Act.sparesNow := by simp [joinBench]
@[simp] theorem dropModelEntry_sparesNow (m) : (dropModelEntry m).Only Act.sparesNow := by simp [dropModelEntry]
@[simp] theorem setPool_sparesNow (k p) : (setPool k p).Only Act.sparesNow := by simp [setPool]
@[simp] theorem setActSeq_sparesNow : setActSeq.Only Act.sparesNow := by simp [setActSeq]
@[simp] theorem loadStoreData_sparesNow (s p pl sd) : (loadStoreData s p pl sd).Only Act.sparesNow := by simp [loadStoreData]

@[simp] theorem loseStaged_sparesNow (p) : (loseStaged p).Only Act.sparesNow := by
  simp only [loseStaged, Prog.only_look]
  intro s
  split <;> simp

@[simp] theorem missUnlaunched_sparesNow (n) : (missUnlaunched n).Only Act.sparesNow := by
  simp only [missUnlaunched, Prog.only_look, Prog.only_each]
  intro s _ _ u
  split <;> simp

@[simp] theorem partSlot_sparesNow (p pl old n) : (partSlot p pl old n).Only Act.sparesNow := by
  simp only [partSlot]
  split <;> simp

@[simp] theorem missLeaving_sparesNow (x) : (missLeaving x).Only Act.sparesNow := by
  simp only [missLeaving, Prog.only_look, Prog.only_each]
  intro s m _ u
  split <;> simp

@[simp] theorem swapChunks_sparesNow (x) : (swapChunks x).Only Act.sparesNow := by
  simp only [swapChunks]
  split <;> simp [markOld]

@[simp] theorem freshSlots_sparesNow (x) : (freshSlots x).Only Act.sparesNow := by simp [freshSlots]
@[simp] theorem swapPart_sparesNow (x) : (swapPart x).Only Act.sparesNow := by simp [swapPart]
@[simp] theorem swapTurn_sparesNow (x) : (swapTurn x).Only Act.sparesNow := by simp [swapTurn]

@[simp] theorem swapBench_sparesNow (xs b) : (swapBench xs b).Only Act.sparesNow := by
  simp only [swapBench, Prog.only_look, Prog.only_when, Prog.only_all_cons]
  refine fun s _ => ⟨by simp, fun u => ?_, trivial⟩
  split <;> simp

@[simp] theorem swapPlanes_sparesNow (regrip xs) : (swapPlanes regrip xs).Only Act.sparesNow := by
  simp [swapPlanes, swapDirectories, writeSlotEntry, clearSlotEntry, writeModelEntry]

@[simp] theorem installPlanes_sparesNow (pls) : (installPlanes pls).Only Act.sparesNow := by simp [installPlanes]
@[simp] theorem swapAll_sparesNow (named) : (swapAll named).Only Act.sparesNow := by simp [swapAll]

@[simp] theorem finishRetire_sparesNow (p) : (finishRetire p).Only Act.sparesNow := by
  simp only [finishRetire, Prog.only_look]
  intro s
  split <;> simp

/-! ### The uncertainty of the count -/

@[simp] theorem setUnc_sparesNow (n) : (setUnc n).Only Act.sparesNow := by simp [setUnc]
@[simp] theorem clearUncFrac_sparesNow : clearUncFrac.Only Act.sparesNow := by simp [clearUncFrac]
@[simp] theorem growUnc_sparesNow (n) : (growUnc n).Only Act.sparesNow := by simp [growUnc]
@[simp] theorem resumeTime_sparesNow : resumeTime.Only Act.sparesNow := by simp [resumeTime]

/-! ### Resets -/

@[simp] theorem cutCommit_sparesNow : cutCommit.Only Act.sparesNow := by
  simp only [cutCommit, Prog.only_look]
  intro s
  split <;> simp

@[simp] theorem setPins_sparesNow (f) : (setPins f).Only Act.sparesNow := by simp [setPins]
@[simp] theorem coldReset_sparesNow (cause) : (coldReset cause).Only Act.sparesNow := by simp [coldReset, Dev.afterCold]
@[simp] theorem coldRestart_sparesNow : coldRestart.Only Act.sparesNow := by simp [coldRestart]
@[simp] theorem coldResetNow_sparesNow (cause) : (coldResetNow cause).Only Act.sparesNow := by simp [coldResetNow]
@[simp] theorem reloadBench_sparesNow (pl b) : (reloadBench pl b).Only Act.sparesNow := by simp [reloadBench]

@[simp] theorem partReset_sparesNow (p full) : (partReset p full).Only Act.sparesNow := by
  simp [partReset, endAllChunks, partResetMiddle]

/-! ### Orders -/

@[simp] theorem acceptPort_sparesNow (k en) : (acceptPort k en).Only Act.sparesNow := by simp [acceptPort]
@[simp] theorem startWakeUp_sparesNow (code) : (startWakeUp code).Only Act.sparesNow := by simp [startWakeUp]

@[simp] theorem answer_sparesNow (o unit status) : (answer o unit status).Only Act.sparesNow := by
  simp only [answer, Prog.only_look, Prog.only_all_cons]
  refine fun s => ⟨fun d => by split <;> rfl, ?_, trivial⟩
  split <;> simp

@[simp] theorem decideOrder_sparesNow (o) : (decideOrder o).Only Act.sparesNow := by
  simp [decideOrder, acceptOrder, enablePart, autoDerate, acceptWake]

@[simp] theorem orderCycle_sparesNow (os) : (orderCycle os).Only Act.sparesNow := by simp [orderCycle, overrule, answerLoser]
@[simp] theorem submit_sparesNow (os) : (submit os).Only Act.sparesNow := by simp [submit]
@[simp] theorem settle_sparesNow : settle.Only Act.sparesNow := by simp [settle]
@[simp] theorem submitAutoen_sparesNow : submitAutoen.Only Act.sparesNow := by simp [submitAutoen]

/-! ### Register accesses -/

@[simp] theorem badAccess_sparesNow (p) : (badAccess p).Only Act.sparesNow := by simp [badAccess]
@[simp] theorem noteDropped_sparesNow : noteDropped.Only Act.sparesNow := by simp [noteDropped]
@[simp] theorem noteStatus_sparesNow (n) : (noteStatus n).Only Act.sparesNow := by simp [noteStatus]
@[simp] theorem startWrite_sparesNow (src) : (startWrite src).Only Act.sparesNow := by simp [startWrite]

@[simp] theorem writing_sparesNow (p off q) (hq : q.Only Act.sparesNow) : (writing p off q).Only Act.sparesNow := by
  simp only [writing, Prog.only_look, Prog.only_ite]
  refine fun s => ⟨by simp, fun _ => ?_⟩
  split <;> simp [hq]

@[simp] theorem latchPair_sparesNow (p off) : (latchPair p off).Only Act.sparesNow := by
  simp only [latchPair, Prog.only_look]
  intro s
  split <;> simp

@[simp] theorem writeFields_sparesNow (off v) : (writeFields off v).Only Act.sparesNow := by simp [writeFields]

/-! ### Launches -/

@[simp] theorem onEntryIf_sparesNow (p i old ok f) (hf : ∀ x, (f x).Only Act.sparesNow) :
    (onEntryIf p i old ok f).Only Act.sparesNow := by
  simp only [onEntryIf, Prog.only_look]
  intro s
  split <;> simp [passed, hf]

@[simp] theorem onEntry_sparesNow (p i old kind f) (hf : ∀ x, (f x).Only Act.sparesNow) :
    (onEntry p i old kind f).Only Act.sparesNow := by
  simp [onEntry, hf]

@[simp] theorem reloadTile_sparesNow (t) : (reloadTile t).Only Act.sparesNow := by simp [reloadTile]

@[simp] theorem startTile_sparesNow (t l) : (startTile t l).Only Act.sparesNow := by
  simp only [startTile, Prog.only_look]
  intro s
  split <;> simp

@[simp] theorem startNext_sparesNow (t) : (startNext t).Only Act.sparesNow := by
  simp only [startNext, Prog.only_look]
  intro s
  split <;> simp

@[simp] theorem tileIdle_sparesNow (t) : (tileIdle t).Only Act.sparesNow := by simp [tileIdle]

@[simp] theorem stageMissed_endOfAny_sparesNow (c status) : (stageMissed.endOfAny c status).Only Act.sparesNow := by
  simp only [stageMissed.endOfAny, Prog.only_look]
  intro s
  split <;> simp

@[simp] theorem stageMissed_sparesNow (p c) : (stageMissed p c).Only Act.sparesNow := by
  simp [stageMissed]

@[simp] theorem endPrograms_sparesNow (st c status) : (endPrograms st c status).Only Act.sparesNow := by simp [endPrograms]

@[simp] theorem overrunIf_sparesNow (slot late) : (overrunIf slot late).Only Act.sparesNow := by
  simp only [overrunIf, Prog.only_look]
  intro s
  split
  · trivial
  · refine ⟨by simp, by simp, ?_, trivial⟩
    split <;> simp

/-! ### Stamping -/

@[simp] theorem gapNext_sparesNow (slot) : (gapNext slot).Only Act.sparesNow := by simp [gapNext]
@[simp] theorem dropFull_sparesNow (slot) : (dropFull slot).Only Act.sparesNow := by simp [dropFull]

@[simp] theorem stamp_sparesNow (o drop) (hdrop : ∀ x, (drop x).Only Act.sparesNow) : (stamp o drop).Only Act.sparesNow := by
  simp only [stamp, Prog.only_look]
  intro s
  split
  · simp [hdrop]
  · split <;> simp

/-! ### Input paths -/

@[simp] theorem fabSettle_sparesNow : fabSettle.Only Act.sparesNow := by simp [fabSettle]

@[simp] theorem addSample_sparesNow (k slot b0 b1 suspect bs) : (addSample k slot b0 b1 suspect bs).Only Act.sparesNow := by
  simp [addSample]

@[simp] theorem frameEntry_sparesNow (k slot enabledAt) : (frameEntry k slot enabledAt).Only Act.sparesNow := by simp [frameEntry]

@[simp] theorem discard_sparesNow (k slot count) (hcount : count.Only Act.sparesNow) :
    (discard k slot count).Only Act.sparesNow := by
  simp [discard, hcount]

@[simp] theorem unframe_sparesNow (k slot count) (hcount : count.Only Act.sparesNow) :
    (unframe k slot count).Only Act.sparesNow := by
  simp [unframe, hcount]

@[simp] theorem fileChunk_sparesNow (k slot source format rate size lat exact drop) (hdrop : drop.Only Act.sparesNow) :
    (fileChunk k slot source format rate size lat exact drop).Only Act.sparesNow := by
  simp only [fileChunk, Prog.only_look]
  intro s
  split <;> simp [hdrop]

@[simp] theorem onSample_sparesNow (p i old unitOk kind f) (hf : ∀ x y, (f x y).Only Act.sparesNow) :
    (onSample p i old unitOk kind f).Only Act.sparesNow := by
  simp [onSample, hf]

@[simp] theorem playOut_sparesNow (unit path p rate lat formats) : (playOut unit path p rate lat formats).Only Act.sparesNow := by
  simp only [playOut, Prog.only_look]
  intro s
  split <;> simp

/-! ### The array -/

@[simp] theorem arrDrop_sparesNow (i) : (arrDrop i).Only Act.sparesNow := by simp [arrDrop]
@[simp] theorem unframePath_sparesNow (i) : (unframePath i).Only Act.sparesNow := by simp [unframePath]
@[simp] theorem unframeAll_sparesNow : unframeAll.Only Act.sparesNow := by simp [unframeAll]

@[simp] theorem applyGain_sparesNow (i) : (applyGain i).Only Act.sparesNow := by
  simp only [applyGain, Prog.only_look]
  intro s
  split <;> simp

@[simp] theorem writeInCtl_sparesNow (i v) : (writeInCtl i v).Only Act.sparesNow := by simp [writeInCtl]
@[simp] theorem onEmit_sparesNow (p i h unitOk) : (onEmit p i h unitOk).Only Act.sparesNow := by simp [onEmit, emitGroup]
@[simp] theorem writeOutCtl_sparesNow (k v) : (writeOutCtl k v).Only Act.sparesNow := by simp [writeOutCtl]
@[simp] theorem writeArrClk_sparesNow (v) : (writeArrClk v).Only Act.sparesNow := by simp [writeArrClk]
@[simp] theorem startCal_sparesNow (inMask_ outMask_) : (startCal inMask_ outMask_).Only Act.sparesNow := by simp [startCal]
@[simp] theorem writeCalCtl_sparesNow (v) : (writeCalCtl v).Only Act.sparesNow := by simp [writeCalCtl]
@[simp] theorem releasePins_sparesNow : releasePins.Only Act.sparesNow := by simp [releasePins]
@[simp] theorem fabRun_sparesNow : fabRun.Only Act.sparesNow := by simp [fabRun]
@[simp] theorem writeFabCtl_sparesNow (v) : (writeFabCtl v).Only Act.sparesNow := by simp [writeFabCtl]
@[simp] theorem writeMdataHi_sparesNow (p v) : (writeMdataHi p v).Only Act.sparesNow := by simp [writeMdataHi]
@[simp] theorem writeMdataLo_sparesNow (p v) : (writeMdataLo p v).Only Act.sparesNow := by simp [writeMdataLo]

/-! ### Flags -/

@[simp] theorem raiseFlags_sparesNow (t r) : (raiseFlags t r).Only Act.sparesNow := by simp [raiseFlags]

/-! ### Operands of tile instructions -/

@[simp] theorem setS_sparesNow (t n v) : (setS t n v).Only Act.sparesNow := by simp [setS]
@[simp] theorem setV_sparesNow (t v l) : (setV t v l).Only Act.sparesNow := by simp [setV]
@[simp] theorem setM_sparesNow (t m b) : (setM t m b).Only Act.sparesNow := by simp [setM]
@[simp] theorem tmemCe_sparesNow (t a) : (tmemCe t a).Only Act.sparesNow := by simp [tmemCe]
@[simp] theorem tmemPoison_sparesNow (t a) : (tmemPoison t a).Only Act.sparesNow := by simp [tmemPoison]

/-! ### Vector instructions -/

@[simp] theorem writeVector_sparesNow (t x w f) : (writeVector t x w f).Only Act.sparesNow := by simp [writeVector]
@[simp] theorem valuFp_sparesNow (t x md op w) : (valuFp t x md op w).Only Act.sparesNow := by simp [valuFp]

@[simp] theorem drawElems_sparesNow (f) (hf : ∀ x, (f x).Only Act.sparesNow) : (drawElems f).Only Act.sparesNow := by
  simp [drawElems, hf]

@[simp] theorem valuInt_sparesNow (t x md op w) : (valuInt t x md op w).Only Act.sparesNow := by simp [valuInt]
@[simp] theorem vcompare_sparesNow (t x op w) : (vcompare t x op w).Only Act.sparesNow := by simp [vcompare]
@[simp] theorem vmaskLogic_sparesNow (t x op w) : (vmaskLogic t x op w).Only Act.sparesNow := by simp [vmaskLogic]
@[simp] theorem vmaskCount_sparesNow (t x op w) : (vmaskCount t x op w).Only Act.sparesNow := by simp [vmaskCount]
@[simp] theorem srStep_sparesNow (t) : (srStep t).Only Act.sparesNow := by simp [srStep]
@[simp] theorem vconvert_sparesNow (t x md op w) : (vconvert t x md op w).Only Act.sparesNow := by simp [vconvert]
@[simp] theorem setS32_sparesNow (t n v) : (setS32 t n v).Only Act.sparesNow := by simp [setS32]
@[simp] theorem vreduce_sparesNow (t x md op w) : (vreduce t x md op w).Only Act.sparesNow := by simp [vreduce]

@[simp] theorem vpermute_sparesNow (t x op w) : (vpermute t x op w).Only Act.sparesNow := by
  simp only [vpermute]
  split <;> simp

@[simp] theorem applyRecipe_sparesNow (s t md w) : (applyRecipe s t md w).Only Act.sparesNow := by simp [applyRecipe]

/-! ### Scalar and control instructions -/

@[simp] theorem scalarEff_sparesNow (t x op w) : (scalarEff t x op w).Only Act.sparesNow := by simp [scalarEff]
@[simp] theorem movhi_sparesNow (t x w) : (movhi t x w).Only Act.sparesNow := by simp [movhi]

@[simp] theorem headerEff_sparesNow (s t w) : (headerEff s t w).Only Act.sparesNow := by
  simp only [headerEff]
  split <;> simp

@[simp] theorem completeStage_sparesNow (slot i v) : (completeStage slot i v).Only Act.sparesNow := by
  simp only [completeStage, Prog.only_look]
  intro s
  split <;> simp

@[simp] theorem cdone_sparesNow (t k c v) : (cdone t k c v).Only Act.sparesNow := by
  simp only [cdone, Prog.only_look]
  intro s
  split <;> simp

@[simp] theorem setvl_sparesNow (t x w) : (setvl t x w).Only Act.sparesNow := by simp [setvl]

/-! ### Bundles -/

@[simp] theorem tileCatch_sparesNow (t cause epc log) (hlog : ∀ x, (log x).Only Act.sparesNow) :
    (tileCatch t cause epc log).Only Act.sparesNow := by
  simp [tileCatch, hlog]

@[simp] theorem logHalted_sparesNow (t st ds) : (logHalted t st ds).Only Act.sparesNow := by simp [logHalted]
@[simp] theorem haltAt_sparesNow (t pass) : (haltAt t pass).Only Act.sparesNow := by simp [haltAt]

@[simp] theorem takeException_sparesNow (t f) : (takeException t f).Only Act.sparesNow := by
  simp only [takeException, Prog.only_look]
  intro s
  split <;> simp

@[simp] theorem tilePoison_sparesNow (t a) : (tilePoison t a).Only Act.sparesNow := by simp [tilePoison]
@[simp] theorem countWait_sparesNow (t slot kind) : (countWait t slot kind).Only Act.sparesNow := by simp [countWait]

@[simp] theorem commit_sparesNow (t o0 o1 w0 w1 p0 p1) (hp0 : p0.Only Act.sparesNow) (hp1 : p1.Only Act.sparesNow) :
    (commit t o0 o1 w0 w1 p0 p1).Only Act.sparesNow := by
  simp [commit, endProgram, stepEnd, hp0, hp1]

/-! Effects of tile instructions -/

/-- The effect of an instruction leaves TB_NOW. -/
def Eff.sparesNow : Eff → Prop
  | .go p _ => p.Only Act.sparesNow
  | _ => True

@[simp] theorem Eff.sparesNow_fault (c i) : (Eff.fault c i).sparesNow := trivial
@[simp] theorem Eff.sparesNow_poisoned (a) : (Eff.poisoned a).sparesNow := trivial
@[simp] theorem Eff.sparesNow_wait (k) : (Eff.wait k).sparesNow := trivial
@[simp] theorem Eff.sparesNow_go (p l) : (Eff.go p l).sparesNow ↔ p.Only Act.sparesNow := Iff.rfl
@[simp] theorem Eff.sparesNow_goOn (p) : (goOn p).sparesNow ↔ p.Only Act.sparesNow := Iff.rfl
@[simp] theorem Eff.sparesNow_ite {c : Prop} [Decidable c] {e f : Eff} :
    (if c then e else f).sparesNow ↔ (c → e.sparesNow) ∧ (¬c → f.sparesNow) := by
  split <;> simp [*]

@[simp] theorem loadEff_sparesNow (s t n l tested) {k : (Nat → Nat) → Prog} (hk : ∀ rd, (k rd).Only Act.sparesNow) :
    (loadEff s t n l tested k).sparesNow := by
  simp only [loadEff]
  split
  · trivial
  · simp only [Eff.sparesNow_ite, Eff.sparesNow_wait, implies_true, true_and]
    intro _
    split
    · trivial
    · exact hk _
    · split <;> simp [hk]

@[simp] theorem storeEff_sparesNow (s t n l) {p : Prog} (hp : p.Only Act.sparesNow) : (storeEff s t n l p).sparesNow := by
  simp only [storeEff]
  split <;> simp [hp]

@[simp] theorem directEff_sparesNow (s t n l) {p : Prog} (hp : p.Only Act.sparesNow) : (directEff s t n l p).sparesNow := by
  simp only [directEff]
  split <;> simp [hp]

@[simp] theorem vloadEff_sparesNow (s t op w) : (vloadEff s t op w).sparesNow := by
  simp only [vloadEff]
  split <;> simp

@[simp] theorem vstoreEff_sparesNow (s t md op w) : (vstoreEff s t md op w).sparesNow := by
  simp [vstoreEff]

@[simp] theorem scalarLoad_sparesNow (s t wide w) : (scalarLoad s t wide w).sparesNow := by
  simp [scalarLoad]

@[simp] theorem scalarStore_sparesNow (s t wide w) : (scalarStore s t wide w).sparesNow := by
  simp [scalarStore]

@[simp] theorem cdoneEff_sparesNow (t x w) : (cdoneEff t x w).sparesNow := by
  simp only [cdoneEff, Eff.sparesNow_ite, Eff.sparesNow_wait, implies_true, true_and]
  intro _
  split <;> simp

@[simp] theorem chkEff_sparesNow (t x w) : (chkEff t x w).sparesNow := by
  simp [chkEff]

@[simp] theorem endEff_sparesNow (x) : (endEff x).sparesNow := by
  simp [endEff]

/-- A descriptor address that is refused makes a fault. -/
theorem descFault_sparesNow {a n : Nat} {e : Eff} (h : descFault a n = some e) : e.sparesNow := by
  unfold descFault at h
  split_ifs at h <;> cases h <;> trivial

@[simp] theorem missueEff_sparesNow (s t mode w) : (missueEff s t mode w).sparesNow := by
  rw [missueEff]
  split
  next h => exact descFault_sparesNow h
  · split
    · trivial
    · split
      · trivial
      · split
        · trivial
        · exact fun _ => rfl

@[simp] theorem xferIssueEff_sparesNow (s t put w) : (xferIssueEff s t put w).sparesNow := by
  unfold xferIssueEff
  generalize State.poisonAt = bad
  dsimp only
  split
  next h => exact descFault_sparesNow h
  · simp only [Eff.sparesNow_ite, Eff.sparesNow_wait, implies_true, true_and]
    intro _ _
    split <;> simp

@[simp] theorem instrEff_sparesNow (s t mode op w) : (instrEff s t mode op w).sparesNow := by
  unfold instrEff
  -- RCP tests its recipe for poison: the test stands for any function here, so that no check evaluates it
  obtain ⟨poisonAt, h⟩ := exists_eq' (a' := State.poisonAt)
  rw [h]
  cases op
  case rcp => dsimp only; split <;> simp
  all_goals simp

@[simp] theorem runSlots_sparesNow (t o0 o1 w0 w1) {f g : Eff} (hf : f.sparesNow) (hg : g.sparesNow) :
    (runSlots t o0 o1 w0 w1 f g).Only Act.sparesNow := by
  cases f <;> cases g <;> simp_all [runSlots]

@[simp] theorem tmemErrors_sparesNow (t c l) : (tmemErrors t c l).Only Act.sparesNow := by simp [tmemErrors]

@[simp] theorem executeBundle_sparesNow (t c e) : (executeBundle t c e).Only Act.sparesNow := by
  simp only [executeBundle, Prog.only_look]
  intro s
  split <;> simp

@[simp] theorem runBundle_sparesNow (t c e) : (runBundle t c e).Only Act.sparesNow := by
  simp only [runBundle, Prog.only_look, Prog.only_ite, Prog.only_all_cons]
  refine fun s => ⟨by simp, fun _ => ⟨by simp, fun u => ?_, trivial⟩⟩
  split <;> simp

@[simp] theorem issue_sparesNow (t k op e) : (issue t k op e).Only Act.sparesNow := by simp [issue]

/-! ### Loads of images -/

@[simp] theorem startSource_sparesNow : startSource.Only Act.sparesNow := by
  simp only [startSource, Prog.only_look]
  intro s
  split <;> simp

@[simp] theorem setResult_sparesNow (code seg) : (setResult code seg).Only Act.sparesNow := by simp [setResult]
@[simp] theorem leaveSource_sparesNow (code) : (leaveSource code).Only Act.sparesNow := by simp [leaveSource]
@[simp] theorem failSource_sparesNow (code) : (failSource code).Only Act.sparesNow := by simp [failSource]
@[simp] theorem probeFlash_sparesNow (f) : (probeFlash f).Only Act.sparesNow := by simp [probeFlash]
@[simp] theorem beginLoad_sparesNow (kind part src len) : (beginLoad kind part src len).Only Act.sparesNow := by simp [beginLoad]

@[simp] theorem requestLoad_sparesNow (kind part src len) : (requestLoad kind part src len).Only Act.sparesNow := by
  simp [requestLoad, refuseLoad]

@[simp] theorem noteOpen_sparesNow (l) : (noteOpen l).Only Act.sparesNow := by simp [noteOpen]

@[simp] theorem rejectLoad_sparesNow (code seg) : (rejectLoad code seg).Only Act.sparesNow := by
  simp only [rejectLoad, Prog.only_look]
  intro s
  split <;> simp [unwriteLoad, unwrite]

@[simp] theorem endLoad_sparesNow (sel code) : (endLoad sel code).Only Act.sparesNow := by simp [endLoad]

@[simp] theorem loadBytes_sparesNow (bs) : (loadBytes bs).Only Act.sparesNow := by
  simp only [loadBytes, Prog.only_look]
  intro s
  split <;> simp

@[simp] theorem modSvc_sparesNow (f) : (modSvc f).Only Act.sparesNow := by simp [modSvc]
@[simp] theorem usbForget_sparesNow : usbForget.Only Act.sparesNow := by simp [usbForget]
@[simp] theorem usbLoseLoad_sparesNow : usbLoseLoad.Only Act.sparesNow := by simp [usbLoseLoad]
@[simp] theorem usbDetach_sparesNow : usbDetach.Only Act.sparesNow := by simp [usbDetach]
@[simp] theorem usbCheck_sparesNow : usbCheck.Only Act.sparesNow := by simp [usbCheck]

/-! ### Serial audio ports -/

@[simp] theorem portDrop_sparesNow (k i) : (portDrop k i).Only Act.sparesNow := by simp [portDrop]

@[simp] theorem forEntries_sparesNow (k f) (hf : ∀ x y, (f x y).Only Act.sparesNow) : (forEntries k f).Only Act.sparesNow := by
  simp [forEntries, hf]

@[simp] theorem unframePort_sparesNow (k) : (unframePort k).Only Act.sparesNow := by simp [unframePort]
@[simp] theorem showSearch_sparesNow (k) : (showSearch k).Only Act.sparesNow := by simp [showSearch]

@[simp] theorem search_sparesNow (k matches_) : (search k matches_).Only Act.sparesNow := by
  simp only [search, Prog.only_look]
  intro s
  split <;> simp

@[simp] theorem syncMiss_sparesNow (k) : (syncMiss k).Only Act.sparesNow := by simp [syncMiss]

@[simp] theorem frame_sparesNow (k f missed) : (frame k f missed).Only Act.sparesNow := by
  simp [frame, deliver, sendFrame, noteChatter, realign]

@[simp] theorem portFrame_sparesNow (k f) : (portFrame k f).Only Act.sparesNow := by
  simp only [portFrame, Prog.only_look, Prog.only_ite]
  refine fun s => ⟨by simp, fun _ => ?_⟩
  split <;> simp

@[simp] theorem portLost_sparesNow (k st code) : (portLost k st code).Only Act.sparesNow := by simp [portLost]

/-! ### Device segments -/

@[simp] theorem applyRecs_sparesNow (base offs l) : (applyRecs base offs l).Only Act.sparesNow := by simp [applyRecs]
@[simp] theorem applyDevice_sparesNow (body) : (applyDevice body).Only Act.sparesNow := by simp [applyDevice]
@[simp] theorem applyPorts_sparesNow (body) : (applyPorts body).Only Act.sparesNow := by simp [applyPorts]
@[simp] theorem applyArray_sparesNow (body) : (applyArray body).Only Act.sparesNow := by simp [applyArray, setArray]
@[simp] theorem restoreTileClk_sparesNow : restoreTileClk.Only Act.sparesNow := by simp [restoreTileClk]

/-! ### Timetables -/

@[simp] theorem regripDue_sparesNow (p) : (regripDue p).Only Act.sparesNow := by
  simp only [regripDue, Prog.only_look]
  intro s
  split
  · trivial
  · split <;> simp

@[simp] theorem beginTurn_sparesNow (p) : (beginTurn p).Only Act.sparesNow := by
  simp only [beginTurn, Prog.only_look]
  intro s
  split <;> simp [derateSwitch, stopSwitch, openBanks]

@[simp] theorem gatherAll_sparesNow (p n slots j) : (gatherAll p n slots j).Only Act.sparesNow := by
  induction slots generalizing j with
  | nil => trivial
  | cons slot rest ih =>
    simp only [gatherAll, Prog.only_look]
    intro s
    split <;> simp [ih]

@[simp] theorem gatherEntry_sparesNow (p e) : (gatherEntry p e).Only Act.sparesNow := by
  simp only [gatherEntry, Prog.only_look]
  intro s
  split <;> simp

@[simp] theorem launchMissed_sparesNow (slot) : (launchMissed slot).Only Act.sparesNow := by
  simp only [launchMissed, Prog.only_look]
  intro s
  split <;> simp

/-! ### Images and regrip -/

@[simp] theorem writeImgCtl_sparesNow (v) : (writeImgCtl v).Only Act.sparesNow := by simp [writeImgCtl]
@[simp] theorem imgCtlWrite_sparesNow (p v) : (imgCtlWrite p v).Only Act.sparesNow := by simp [imgCtlWrite]
@[simp] theorem chuckIdle_sparesNow : chuckIdle.Only Act.sparesNow := by simp [chuckIdle]

@[simp] theorem finishFull_sparesNow (h b) : (finishFull h b).Only Act.sparesNow := by
  simp only [finishFull, Prog.only_look]
  intro s
  split <;> simp [applyFabric, clearFabric]

@[simp] theorem acceptFull_sparesNow (h b) : (acceptFull h b).Only Act.sparesNow := by
  simp only [acceptFull, Prog.only_all_cons]
  refine ⟨by simp, by simp, by simp, ?_, ?_, ?_, trivial⟩ <;> split <;> simp

@[simp] theorem acceptImage_sparesNow (l h b) : (acceptImage l h b).Only Act.sparesNow := by simp [acceptImage, acceptStage]

@[simp] theorem judgeImage_sparesNow : judgeImage.Only Act.sparesNow := by
  simp only [judgeImage, Prog.only_look]
  intro s
  split
  · trivial
  · split <;> simp

@[simp] theorem imageComplete_sparesNow (data) : (imageComplete data).Only Act.sparesNow := by
  simp only [imageComplete, Prog.only_look]
  intro s
  split <;> simp

@[simp] theorem commitRb_sparesNow (v) : (commitRb v).Only Act.sparesNow := by simp [commitRb]

@[simp] theorem writeProgCtl_sparesNow (p v readback) : (writeProgCtl p v readback).Only Act.sparesNow := by
  simp [writeProgCtl, burnFuse, fuseFail]

@[simp] theorem forceRetire_sparesNow (p) : (forceRetire p).Only Act.sparesNow := by
  simp only [forceRetire, Prog.only_look, Prog.only_all_cons, Prog.only_each]
  refine fun s => ⟨fun n _ u c _ => ⟨by simp, ?_, trivial⟩, by simp⟩
  split <;> simp

/-! ### Queue pairs -/

@[simp] theorem pairWriting_sparesNow (p q off prog) (hprog : prog.Only Act.sparesNow) :
    (pairWriting p q off prog).Only Act.sparesNow := by
  simp only [pairWriting]
  split <;> simp [hprog]

@[simp] theorem dropFlights_sparesNow (q) : (dropFlights q).Only Act.sparesNow := by simp [dropFlights]

@[simp] theorem writeQpCtl_sparesNow (p q v) : (writeQpCtl p q v).Only Act.sparesNow := by
  simp only [writeQpCtl, Prog.only_look]
  intro s
  split <;> simp

@[simp] theorem doorbell_sparesNow (fn q size v f) (hf : ∀ x, (f x).Only Act.sparesNow) :
    (doorbell fn q size v f).Only Act.sparesNow := by
  simp [doorbell, hf]

@[simp] theorem ingestDrop_sparesNow (q stream cause) : (ingestDrop q stream cause).Only Act.sparesNow := by simp [ingestDrop]
@[simp] theorem passEntry_sparesNow (q) : (passEntry q).Only Act.sparesNow := by simp [passEntry]
@[simp] theorem stampEntry_sparesNow (q e payload) : (stampEntry q e payload).Only Act.sparesNow := by simp [stampEntry]

@[simp] theorem passFront_sparesNow (q n) : (passFront q n).Only Act.sparesNow := by
  induction n with
  | zero => trivial
  | succ n ih =>
    simp only [passFront, Prog.only_look]
    intro s
    split <;> simp [ih]

@[simp] theorem takeEntry_sparesNow (q e) : (takeEntry q e).Only Act.sparesNow := by
  simp only [takeEntry, Prog.only_look]
  intro s
  split
  · simp
  · split <;> simp

/-! ### The Store and far memory -/

@[simp] theorem scrubLine_sparesNow (err) : (scrubLine err).Only Act.sparesNow := by
  simp only [scrubLine, Prog.only_look]
  intro s
  split <;> simp

@[simp] theorem readOpen_sparesNow {f} (hf : ∀ bs, (f bs).Only Act.sparesNow) (a n acc) : (readOpen f a n acc).Only Act.sparesNow := by
  induction n generalizing a acc with
  | zero => exact hf _
  | succ n ih => simp [readOpen, ih]

@[simp] theorem bar2Read_sparesNow (off len err) : (bar2Read off len err).Only Act.sparesNow := by
  simp only [bar2Read, Prog.only_look, Prog.only_ite]
  refine fun s => ⟨by simp, fun _ => ?_⟩
  split <;> simp

@[simp] theorem bar2Line_sparesNow (a bs) : (bar2Line a bs).Only Act.sparesNow := by
  simp only [bar2Line, Prog.only_look]
  intro s
  split <;> simp

@[simp] theorem bar2Write_sparesNow (off bs) : (bar2Write off bs).Only Act.sparesNow := by
  simp only [bar2Write, Prog.only_look]
  intro s
  split <;> simp [hostDrop]

@[simp] theorem aerUncorrectable_sparesNow : aerUncorrectable.Only Act.sparesNow := by simp [aerUncorrectable]
@[simp] theorem farTrain_sparesNow (cfg) : (farTrain cfg).Only Act.sparesNow := by simp [farTrain]

@[simp] theorem farStart_sparesNow : farStart.Only Act.sparesNow := by
  simp only [farStart, Prog.only_look]
  intro s
  split <;> simp

@[simp] theorem writeFarTrain_sparesNow (v) : (writeFarTrain v).Only Act.sparesNow := by simp [writeFarTrain]

/-! ### Matrix operations -/

@[simp] theorem stopAfterFault_sparesNow (t mayHalt) : (stopAfterFault t mayHalt).Only Act.sparesNow := by simp [stopAfterFault]

@[simp] theorem mtxFault_sparesNow (t code status mt nt mayHalt rec) (hrec : rec.Only Act.sparesNow) :
    (mtxFault t code status mt nt mayHalt rec).Only Act.sparesNow := by
  simp [mtxFault, hrec]

@[simp] theorem mtxCatch_sparesNow (t code sev addr mt nt col pos) :
    (mtxCatch t code sev addr mt nt col pos).Only Act.sparesNow := by
  simp [mtxCatch]

@[simp] theorem modOp_sparesNow (t f) : (modOp t f).Only Act.sparesNow := by simp [modOp]
@[simp] theorem mtxPoison_sparesNow (t a mt nt) : (mtxPoison t a mt nt).Only Act.sparesNow := by simp [mtxPoison]

@[simp] theorem mtxStart_sparesNow (t) : (mtxStart t).Only Act.sparesNow := by
  simp only [mtxStart, Prog.only_look]
  intro s
  split <;> simp [mtxDescFault]

@[simp] theorem sparseFault_sparesNow (t b code col pos mask value) :
    (sparseFault t b code col pos mask value).Only Act.sparesNow := by
  simp [sparseFault]

@[simp] theorem MtxOp.writeTile_sparesNow (s t o r b) : (MtxOp.writeTile s t o r b).Only Act.sparesNow := by
  simp [MtxOp.writeTile, noteOutputs]

@[simp] theorem blockTiles_sparesNow (t b rs) : (blockTiles t b rs).Only Act.sparesNow := by
  induction rs with
  | nil => simp [blockTiles]
  | cons r rs ih =>
    simp only [blockTiles, Prog.only_look]
    intro s
    split
    · trivial
    · split <;> simp [ih]

@[simp] theorem columnBlock_sparesNow (t e addr) : (columnBlock t e addr).Only Act.sparesNow := by
  simp only [columnBlock, Prog.only_look]
  intro s
  split
  · trivial
  · simp only [Prog.only_when, Prog.only_all_cons, Prog.only_look]
    refine fun _ => ⟨by simp, by simp, fun u => ?_, trivial⟩
    split <;> simp

@[simp] theorem mtxComplete_sparesNow (t) : (mtxComplete t).Only Act.sparesNow := by
  simp only [mtxComplete, Prog.only_look]
  intro s
  split <;> simp

/-! ### Transfers -/

@[simp] theorem xferFault_sparesNow (t code status rec) (hrec : rec.Only Act.sparesNow) :
    (xferFault t code status rec).Only Act.sparesNow := by
  simp [xferFault, hrec]

@[simp] theorem xferCatch_sparesNow (t code unit x) : (xferCatch t code unit x).Only Act.sparesNow := by simp [xferCatch]

@[simp] theorem keepStateAt_sparesNow (a) : (keepStateAt a).Only Act.sparesNow := by
  simp only [keepStateAt, Prog.only_look, Prog.only_each]
  intro s m _
  split <;> simp

@[simp] theorem putLine_sparesNow (t x a bs) : (putLine t x a bs).Only Act.sparesNow := by
  simp only [putLine, Prog.only_look, Prog.only_ite, Prog.only_nop]
  refine fun s => ⟨fun _ => trivial, fun _ => ?_⟩
  split
  · simp
  · refine Prog.only_ite.mpr ⟨fun _ => by simp, fun _ => Prog.only_ite.mpr ⟨fun _ => by simp, fun _ => ?_⟩⟩
    split <;> simp
  · trivial
  · simp

@[simp] theorem landLine_sparesNow (t x l bs) : (landLine t x l bs).Only Act.sparesNow := by simp [landLine]

@[simp] theorem landSome_sparesNow (t x) : (landSome t x).Only Act.sparesNow := by
  refine drawFree_sparesNow _ _ fun n => ?_
  simp only [Prog.only_look, Prog.only_each]
  intro s l _
  split <;> simp

@[simp] theorem endStart_sparesNow (t x a) : (endStart t x a).Only Act.sparesNow := by
  simp only [endStart]
  split <;> simp [routeCatch]

@[simp] theorem applyStart_sparesNow (t x r) : (applyStart t x r).Only Act.sparesNow := by simp [applyStart]

@[simp] theorem xferStart_sparesNow (t) : (xferStart t).Only Act.sparesNow := by
  simp only [xferStart, Prog.only_look]
  intro s
  split <;> simp

@[simp] theorem startWaiting_sparesNow (p) : (startWaiting p).Only Act.sparesNow := by
  simp only [startWaiting, Prog.only_look, Prog.only_each]
  intro s t _ u
  split <;> simp

@[simp] theorem lineUe_sparesNow (t x a new) : (lineUe t x a new).Only Act.sparesNow := by simp [lineUe]

@[simp] theorem moveLines_sparesNow (t err line data k ls) : (moveLines t err line data k ls).Only Act.sparesNow := by
  induction ls generalizing k with
  | nil => simp [moveLines]
  | cons l ls ih =>
    simp only [moveLines, Prog.only_look]
    intro s
    split
    · trivial
    · split <;> simp [ih]

@[simp] theorem ejectStall_sparesNow (t x n) : (ejectStall t x n).Only Act.sparesNow := by
  simp only [ejectStall, Prog.only_look]
  intro s
  split <;> simp

@[simp] theorem xferComplete_sparesNow (t err line way data) : (xferComplete t err line way data).Only Act.sparesNow := by
  simp only [xferComplete, Prog.only_look]
  intro s
  split
  · trivial
  · rw [Prog.only_when]
    intro _
    split <;> simp

/-! ### The host interface -/

@[simp] theorem clearFunction_sparesNow (fn) : (clearFunction fn).Only Act.sparesNow := by simp [clearFunction, clearLatch]

@[simp] theorem cutHostXfers_sparesNow : cutHostXfers.Only Act.sparesNow := by
  simp only [cutHostXfers, Prog.only_look, Prog.only_each]
  intro s y _
  split <;> simp

@[simp] theorem hostResetProg_sparesNow (wire) : (hostResetProg wire).Only Act.sparesNow := by
  simp [hostResetProg, restorePorts, restoreArray]

@[simp] theorem timedOut_sparesNow : timedOut.Only Act.sparesNow := by simp [timedOut]

@[simp] theorem cplTimeout_sparesNow (req) : (cplTimeout req).Only Act.sparesNow := by
  cases req with
  | ingest q => simp [cplTimeout]
  | payload q =>
    simp only [cplTimeout, Prog.only_look]
    intro s
    split <;> simp
  | transfer t =>
    simp only [cplTimeout, Prog.only_look]
    intro s
    split <;> simp
  | image => simp [cplTimeout]

/-! ### Fences -/

@[simp] theorem abandonXfer_sparesNow (t) : (abandonXfer t).Only Act.sparesNow := by
  simp only [abandonXfer, Prog.only_look]
  intro s
  split <;> simp

@[simp] theorem abandonRides_sparesNow (b) : (abandonRides b).Only Act.sparesNow := by
  simp only [abandonRides, Prog.only_look, Prog.only_each]
  intro s y _
  split
  · split <;> simp
  · trivial

@[simp] theorem fenceBenches_sparesNow (bs code) : (fenceBenches bs code).Only Act.sparesNow := by
  simp [fenceBenches, fenceBenchOnly, freezeTile, endTileChunks, abandonOps]

@[simp] theorem fenceFn_sparesNow (v) : (fenceFn v).Only Act.sparesNow := by simp [fenceFn]
@[simp] theorem fenceAny_sparesNow (u) : (fenceAny u).Only Act.sparesNow := by simp [fenceAny, fenceHost, fencePort]

/-! ### The Headstock -/

@[simp] theorem updateClamp_sparesNow : updateClamp.Only Act.sparesNow := by simp [updateClamp]
@[simp] theorem writeSetCtl_sparesNow (v) : (writeSetCtl v).Only Act.sparesNow := by simp [writeSetCtl]
@[simp] theorem writeSlew_sparesNow (v) : (writeSlew v).Only Act.sparesNow := by simp [writeSlew]
@[simp] theorem writeDiscCtl_sparesNow (v) : (writeDiscCtl v).Only Act.sparesNow := by simp [writeDiscCtl]

@[simp] theorem fenceWalker_sparesNow (w) : (fenceWalker w).Only Act.sparesNow := by
  simp only [fenceWalker, Prog.only_look, Prog.only_when, Prog.only_all_cons]
  refine fun s _ => ⟨by simp, by simp, ?_, trivial⟩
  split <;> simp

@[simp] theorem wrongEndpoint_sparesNow (a) : (wrongEndpoint a).Only Act.sparesNow := by
  simp only [wrongEndpoint]
  split <;> simp

/-! ### Power, clocks and the ledger -/

@[simp] theorem restartIfFree_sparesNow : restartIfFree.Only Act.sparesNow := by simp [restartIfFree]
@[simp] theorem lowerEnables_sparesNow : lowerEnables.Only Act.sparesNow := by simp [lowerEnables]
@[simp] theorem setTemp_sparesNow (temp sensor) : (setTemp temp sensor).Only Act.sparesNow := by simp [setTemp]
@[simp] theorem writeKick_sparesNow (p) : (writeKick p).Only Act.sparesNow := by simp [writeKick]

@[simp] theorem takeReport_sparesNow (u) : (takeReport u).Only Act.sparesNow := by
  simp only [takeReport, Prog.only_look]
  intro s
  split <;> simp

@[simp] theorem writeRpos_sparesNow (p k v) : (writeRpos p k v).Only Act.sparesNow := by simp [writeRpos]

/-! ### The KV block -/

@[simp] theorem engineRead_sparesNow (p slot c rs ok fail) (hok : ok.Only Act.sparesNow) (hfail : ∀ x, (fail x).Only Act.sparesNow) :
    (engineRead p slot c rs ok fail).Only Act.sparesNow := by
  simp only [engineRead, Prog.only_look]
  intro s
  split <;> simp [hok, hfail]

@[simp] theorem noWindow_sparesNow (p slot a) : (noWindow p slot a).Only Act.sparesNow := by simp [noWindow]

@[simp] theorem walkFails_sparesNow (slot t status) : (walkFails slot t status).Only Act.sparesNow := by
  simp only [walkFails, Prog.only_look]
  intro s
  split <;> simp

@[simp] theorem walkSkips_sparesNow (slot t rec) (hrec : rec.Only Act.sparesNow) : (walkSkips slot t rec).Only Act.sparesNow := by
  simp [walkSkips, hrec]

@[simp] theorem stagePages_sparesNow (c p t slot l d bs k) : (stagePages c p t slot l d bs k).Only Act.sparesNow := by
  induction bs generalizing k with
  | nil => simp [stagePages]
  | cons b bs ih =>
    simp only [stagePages, Prog.only_look]
    intro s
    split
    · exact ih k
    · simp only [Prog.only_ite]
      refine ⟨by simp, fun _ => ⟨by simp, fun _ => ⟨by simp [ih], fun _ => ?_⟩⟩⟩
      split <;> simp [ih]

@[simp] theorem walkEntry_sparesNow (c p e) : (walkEntry c p e).Only Act.sparesNow := by
  simp only [walkEntry, Prog.only_look]
  intro s
  split <;> simp [walkMember]

@[simp] theorem resumeWalks_sparesNow (c p) : (resumeWalks c p).Only Act.sparesNow := by
  simp only [resumeWalks, Prog.only_look, Prog.only_each]
  intro s m _ u
  split <;> simp

@[simp] theorem bindRecord_sparesNow (slot i d c) : (bindRecord slot i d c).Only Act.sparesNow := by simp [bindRecord]
@[simp] theorem voidRecord_sparesNow (slot d) : (voidRecord slot d).Only Act.sparesNow := by simp [voidRecord]

@[simp] theorem prepareTail_sparesNow (c p slot l len) {empty rest fail} (he : empty.Only Act.sparesNow)
    (hr : rest.Only Act.sparesNow) (hf : ∀ st, (fail st).Only Act.sparesNow) (bs) : 
    (prepareTail c p slot l len empty rest fail bs).Only Act.sparesNow := by
  induction bs with
  | nil => exact hr
  | cons b bs ih =>
    simp only [prepareTail, Prog.only_look]
    intro s
    split
    · exact ih
    · split <;> simp [he, ih]
    · split <;> simp [he, ih]
    · split
      · simp [hf, ih]
      · exact he

@[simp] theorem prepDone_sparesNow (slot i len d) : (prepDone slot i len d).Only Act.sparesNow := by
  simp only [prepDone]
  split <;> simp

@[simp] theorem tailPrepare_sparesNow (c slot i l d) : (tailPrepare c slot i l d).Only Act.sparesNow := by
  simp only [tailPrepare, Prog.only_look, Prog.only_ite]
  refine fun s => ⟨by simp, fun _ => ?_⟩
  split <;> simp

@[simp] theorem checkAndPrepare_sparesNow (c slot i l d) : (checkAndPrepare c slot i l d).Only Act.sparesNow := by
  simp only [checkAndPrepare, Prog.only_look]
  intro s
  split
  · simp
  · split <;> simp

@[simp] theorem prepareList_sparesNow (c slot i l reset d) : (prepareList c slot i l reset d).Only Act.sparesNow := by
  simp only [prepareList, Prog.only_look, Prog.only_ite, Prog.only_all_cons]
  refine fun s => ⟨by simp, fun _ => ⟨by simp, fun _ => ⟨by simp, fun _ => ⟨by simp, ?_, by simp⟩⟩⟩⟩
  split <;> simp

@[simp] theorem chunkPrepare_sparesNow (slot c) : (chunkPrepare slot c).Only Act.sparesNow := by
  simp only [chunkPrepare, Prog.only_look]
  intro s
  split
  · trivial
  · simp only [Prog.only_ite, Prog.only_all_cons]
    refine ⟨by simp, fun _ => ⟨?_, by simp, trivial⟩⟩
    split <;> simp

@[simp] theorem writeWorkList_sparesNow (slot l qlen d below) : (writeWorkList slot l qlen d below).Only Act.sparesNow := by
  simp [writeWorkList]

@[simp] theorem workListBuild_sparesNow (slot c) : (workListBuild slot c).Only Act.sparesNow := by
  simp only [workListBuild, Prog.only_look]
  intro s
  split
  · refine engineRead_sparesNow _ _ _ _ _ _ (engineRead_sparesNow _ _ _ _ _ _ ?_ ?_) ?_ <;> simp
  · trivial

@[simp] theorem mergeClose_sparesNow (p t old e) : (mergeClose p t old e).Only Act.sparesNow := by
  simp only [mergeClose, Prog.only_look]
  intro s
  split <;> simp [mergeRecord]

@[simp] theorem kvOp_sparesNow (opc) : (kvOp opc).Only Act.sparesNow := by
  simp only [kvOp, Prog.only_look, Prog.only_all_cons, Prog.only_when, Prog.only_ite]
  refine fun s => ⟨by simp, fun _ => ⟨fun _ => ?_, by simp⟩, trivial⟩
  split <;> simp

@[simp] theorem writeKvOp_sparesNow (v) : (writeKvOp v).Only Act.sparesNow := by simp [writeKvOp]
@[simp] theorem kvCommand_sparesNow (p opc) : (kvCommand p opc).Only Act.sparesNow := by simp [kvCommand]

/-! ### Service registers -/

@[simp] theorem startMst_sparesNow : startMst.Only Act.sparesNow := by simp [startMst]
@[simp] theorem writeMstCtl_sparesNow (v) : (writeMstCtl v).Only Act.sparesNow := by simp [writeMstCtl]
@[simp] theorem logSvc_sparesNow (code sev unit ds) : (logSvc code sev unit ds).Only Act.sparesNow := by simp [logSvc]
@[simp] theorem mstCatch_sparesNow (r) : (mstCatch r).Only Act.sparesNow := by simp [mstCatch]
@[simp] theorem mstData_sparesNow (f shape o) : (mstData f shape o).Only Act.sparesNow := by simp [mstData]
@[simp] theorem mstComplete_sparesNow (o) : (mstComplete o).Only Act.sparesNow := by simp [mstComplete]
@[simp] theorem writeQspiCmd_sparesNow (v) : (writeQspiCmd v).Only Act.sparesNow := by simp [writeQspiCmd]
@[simp] theorem writeImgOpen_sparesNow (v) : (writeImgOpen v).Only Act.sparesNow := by simp [writeImgOpen]

/-! ### Tiles under debug -/

@[simp] theorem drainOne_sparesNow (t) : (drainOne t).Only Act.sparesNow := by
  simp only [drainOne, Prog.only_look]
  intro s
  split <;> simp

@[simp] theorem reloadDone_sparesNow (t) : (reloadDone t).Only Act.sparesNow := by
  simp only [reloadDone, Prog.only_look]
  intro s
  split <;> simp [rewriteArea]

@[simp] theorem debugWrite_sparesNow (p t off q) (hq : q.Only Act.sparesNow) : (debugWrite p t off q).Only Act.sparesNow := by
  simp [debugWrite, hq]

@[simp] theorem haltTile_sparesNow (t) : (haltTile t).Only Act.sparesNow := by simp [haltTile]
@[simp] theorem stepTile_sparesNow (t) : (stepTile t).Only Act.sparesNow := by simp [stepTile]
@[simp] theorem resumeTile_sparesNow (t) : (resumeTile t).Only Act.sparesNow := by simp [resumeTile]

@[simp] theorem debugStore_sparesNow (t hi v) : (debugStore t hi v).Only Act.sparesNow := by
  simp only [debugStore, Prog.only_look]
  intro s
  split <;> simp

@[simp] theorem writeDdata_sparesNow (p t hi v) : (writeDdata p t hi v).Only Act.sparesNow := by simp [writeDdata]

/-! ### Register reads -/

@[simp] theorem readEffect_sparesNow (p off acked) : (readEffect p off acked).Only Act.sparesNow := by
  simp only [readEffect, Prog.only_look]
  intro s
  split <;> simp [clearRc]

@[simp] theorem fetchFor_sparesNow (p off) : (fetchFor p off).Only Act.sparesNow := by simp [fetchFor, readMdata]
@[simp] theorem readCycle_sparesNow (rs) : (readCycle rs).Only Act.sparesNow := by simp [readCycle, readerEffect]

/-! ### Register writes -/

@[simp] theorem dropCounted_sparesNow (p) : (dropCounted p).Only Act.sparesNow := by simp [dropCounted]
@[simp] theorem regOrder_sparesNow (p kind unit arg) : (regOrder p kind unit arg).Only Act.sparesNow := by simp [regOrder]
@[simp] theorem writeIf_sparesNow (ok k v) : (writeIf ok k v).Only Act.sparesNow := by simp [writeIf]
@[simp] theorem writeReset_sparesNow (p v) : (writeReset p v).Only Act.sparesNow := by simp [writeReset]
@[simp] theorem writeWdogCtl_sparesNow (v) : (writeWdogCtl v).Only Act.sparesNow := by simp [writeWdogCtl]
@[simp] theorem writePckReg_sparesNow (p k v) : (writePckReg p k v).Only Act.sparesNow := by simp [writePckReg]
@[simp] theorem writePairReg_sparesNow (p q o v) : (writePairReg p q o v).Only Act.sparesNow := by simp [writePairReg]
@[simp] theorem writeHqReg_sparesNow (p k v) : (writeHqReg p k v).Only Act.sparesNow := by simp [writeHqReg]
@[simp] theorem writeMsix_sparesNow (fn k o v) : (writeMsix fn k o v).Only Act.sparesNow := by simp [writeMsix, writeVctl]
@[simp] theorem writeDbgCtl_sparesNow (t v) : (writeDbgCtl t v).Only Act.sparesNow := by simp [writeDbgCtl]
@[simp] theorem writeTileReg_sparesNow (p t o v) : (writeTileReg p t o v).Only Act.sparesNow := by simp [writeTileReg]
@[simp] theorem writeBenchReg_sparesNow (p k v) : (writeBenchReg p k v).Only Act.sparesNow := by simp [writeBenchReg]
@[simp] theorem writeArrReg_sparesNow (p k v) : (writeArrReg p k v).Only Act.sparesNow := by simp [writeArrReg]
@[simp] theorem writeRanged_sparesNow (lo hi k v n) : (writeRanged lo hi k v n).Only Act.sparesNow := by simp [writeRanged]
@[simp] theorem writeSvcReg_sparesNow (p k v) : (writeSvcReg p k v).Only Act.sparesNow := by simp [writeSvcReg]

@[simp] theorem writeVf_sparesNow (n off v) : (writeVf n off v).Only Act.sparesNow := by
  simp only [writeVf, Prog.only_look]
  intro s
  split <;> simp

@[simp] theorem writeWord_sparesNow (p off v) : (writeWord p off v).Only Act.sparesNow := by
  simp only [writeWord]
  split <;> simp [writeReg, writeTbReg, writePhase, writeLedgReg]

@[simp] theorem writeAs_sparesNow (x) : (writeAs x).Only Act.sparesNow := by
  simp only [writeAs]
  split <;> simp

@[simp] theorem writeAlone_sparesNow (p off v rivals) : (writeAlone p off v rivals).Only Act.sparesNow := by simp [writeAlone]

/-! ### The management bus -/

@[simp] theorem mbMatch_sparesNow : mbMatch.Only Act.sparesNow := by simp [mbMatch]
@[simp] theorem mbTakeOver_sparesNow : mbTakeOver.Only Act.sparesNow := by simp [mbTakeOver]
@[simp] theorem mbServe_sparesNow (q) (hq : q.Only Act.sparesNow) : (mbServe q).Only Act.sparesNow := by simp [mbServe, hq]
@[simp] theorem mbBad_sparesNow : mbBad.Only Act.sparesNow := by simp [mbBad]

@[simp] theorem mbWrite_sparesNow (code n count x eff) (heff : eff.Only Act.sparesNow) :
    (mbWrite code n count x eff).Only Act.sparesNow := by
  simp [mbWrite, recordMb, heff]

@[simp] theorem mbReply_sparesNow (code x bs) : (mbReply code x bs).Only Act.sparesNow := by simp [mbReply]

@[simp] theorem mbRead_sparesNow (n count x q) (hq : q.Only Act.sparesNow) : (mbRead n count x q).Only Act.sparesNow := by
  simp [mbRead, hq]

@[simp] theorem mbAnswer_sparesNow (code x f) : (mbAnswer code x f).Only Act.sparesNow := by simp [mbAnswer]

@[simp] theorem readWords_sparesNow (p acked n a bs) {k} (hk : ∀ bs, (k bs).Only Act.sparesNow) :
    (readWords p acked n a bs k).Only Act.sparesNow := by
  induction n generalizing a bs with
  | zero => exact hk bs
  | succ n ih => simp [readWords, ih]

@[simp] theorem mbRegRead_sparesNow (code n a x) : (mbRegRead code n a x).Only Act.sparesNow := by simp [mbRegRead]
@[simp] theorem serviceWrite_sparesNow (p a v rivals) : (serviceWrite p a v rivals).Only Act.sparesNow := by simp [serviceWrite]

/-! ### The SPI target -/

@[simp] theorem spiFrame_sparesNow (q) (hq : q.Only Act.sparesNow) : (spiFrame q).Only Act.sparesNow := by simp [spiFrame, hq]
@[simp] theorem spiBad_sparesNow : spiBad.Only Act.sparesNow := by simp [spiBad]
@[simp] theorem spiPartial_sparesNow : spiPartial.Only Act.sparesNow := by simp [spiPartial]
@[simp] theorem recordSpi_sparesNow (cmd status epoch) : (recordSpi cmd status epoch).Only Act.sparesNow := by simp [recordSpi]

@[simp] theorem spiWords_sparesNow (late n i a bs) {k} (hk : ∀ bs, (k bs).Only Act.sparesNow) :
    (spiWords late n i a bs k).Only Act.sparesNow := by
  induction n generalizing i a bs with
  | zero => exact hk bs
  | succ n ih => simp [spiWords, ih]

@[simp] theorem spiRange_sparesNow (cmd) : (spiRange cmd).Only Act.sparesNow := by simp [spiRange]

@[simp] theorem spiReadProg_sparesNow (addr count sent late cut) : (spiReadProg addr count sent late cut).Only Act.sparesNow := by
  simp [spiReadProg]

@[simp] theorem writeWords_sparesNow (p) {rec} (hr : ∀ st ep, (rec st ep).Only Act.sparesNow) (ws a st) :
    (writeWords p rec ws a st).Only Act.sparesNow := by
  induction ws generalizing a st with
  | nil => trivial
  | cons w ws ih => simp [writeWords, hr, ih]

/-! ### The USB port -/

@[simp] theorem usbStall_sparesNow : usbStall.Only Act.sparesNow := by simp [usbStall]
@[simp] theorem ep0_sparesNow (q) (hq : q.Only Act.sparesNow) : (ep0 q).Only Act.sparesNow := by simp [ep0, hq]
@[simp] theorem usbAnswer_sparesNow (r bs) : (usbAnswer r bs).Only Act.sparesNow := by simp [usbAnswer]
@[simp] theorem usbConfigure_sparesNow : usbConfigure.Only Act.sparesNow := by simp [usbConfigure]

@[simp] theorem usbStandard_sparesNow (r) : (usbStandard r).Only Act.sparesNow := by
  simp only [usbStandard, Prog.only_look]
  intro s
  split
  · split <;> simp
  all_goals simp

@[simp] theorem recordUsb_sparesNow (cmd status epoch) : (recordUsb cmd status epoch).Only Act.sparesNow := by simp [recordUsb]

@[simp] theorem ep2Sent_sparesNow (a) : (ep2Sent a).Only Act.sparesNow := by
  simp only [ep2Sent]
  split <;> simp

@[simp] theorem ep2Packet_sparesNow : ep2Packet.Only Act.sparesNow := by
  simp only [ep2Packet, Prog.only_look]
  intro s
  split <;> simp

/-! ### JTAG -/

@[simp] theorem tap_sparesNow (q) (hq : q.Only Act.sparesNow) : (tap q).Only Act.sparesNow := by simp [tap, hq]
@[simp] theorem selectIr_sparesNow (ir) : (selectIr ir).Only Act.sparesNow := by simp [selectIr]
@[simp] theorem takeBalls_sparesNow (ir) : (takeBalls ir).Only Act.sparesNow := by simp [takeBalls]
@[simp] theorem debugIr_sparesNow (ir q) (hq : q.Only Act.sparesNow) : (debugIr ir q).Only Act.sparesNow := by simp [debugIr, hq]

/-! ### REST -/

@[simp] theorem restPins_sparesNow : restPins.Only Act.sparesNow := by simp [restPins]
@[simp] theorem restRails_sparesNow : restRails.Only Act.sparesNow := by simp [restRails]

@[simp] theorem restEntry_sparesNow : restEntry.Only Act.sparesNow := by
  simp only [restEntry, Prog.only_all_cons, Prog.only_look]
  refine ⟨by simp, by simp, by simp, by simp, by simp, by simp, by simp, by simp, by simp, by simp, by simp, by simp, by simp,
    fun s => ?_, trivial⟩
  split <;> simp

@[simp] theorem dropPlane_sparesNow (p pl) : (dropPlane p pl).Only Act.sparesNow := by simp [dropPlane]

@[simp] theorem resumeStore_sparesNow : resumeStore.Only Act.sparesNow := by
  simp only [resumeStore, Prog.only_look, Prog.only_ite, Prog.only_all_cons, Prog.only_each]
  refine fun s => ⟨by simp, fun _ => ⟨by simp, fun p _ => ?_, by simp⟩⟩
  split <;> simp

@[simp] theorem resumeBenches_sparesNow : resumeBenches.Only Act.sparesNow := by
  simp only [resumeBenches, Prog.only_all_cons, Prog.only_look, Prog.only_each]
  refine ⟨by simp, fun s p _ => ?_, trivial⟩
  split <;> simp

/-! ### Every command -/

/-- Settles O21: every command is one program, and but for a TBPPS edge and a power-on reset its acts all leave TB_NOW. -/
theorem countIsNeverStepped : Obligations.CountIsNeverStepped := by
  intro c s u hedge hreset h
  cases c
  case tbppsEdge r => exact absurd rfl (hedge r)
  case powerOnReset => exact absurd rfl hreset
  -- a program chosen by what the state holds
  case rbCommitted | joinLoadDone | hostChunkStamp | retireEnd | tileclkApply => exact Prog.Only.now_of_done (by split <;> simp) h
  case merge => exact Prog.Only.now_of_done (Prog.only_when.mpr fun _ => by split <;> simp) h
  case missingPulse => exact Prog.Only.now_of_done (Prog.only_when.mpr fun _ => by split <;> simp [missPulse]) h
  case arrCalDone =>
    refine Prog.Only.now_of_done (p := when _ (all [_, look fun v => _])) (Prog.only_when.mpr fun _ => ?_) h
    refine ⟨by simp [calDone, applyTrim], fun v => ?_, trivial⟩
    beta_reduce
    split
    · exact Prog.only_when.mpr fun _ => by split <;> simp
    · trivial
  -- the others, by the chapters of the model
  case samplingInstant | arrayChunkStamp | arrPathEnable | gainWrite | gainApply | arrayAlign | arrayPlay | emitArray | emitHost |
      arrClkCtlWrite | amclkLost | followRatioMeasure | arrCalRun | cmpEdge | envAbove | envBelow | fabHold | fabReset |
      fabRelease | fabclkEdge | fabClkLost | ucatchEdge | fabMdataWrite =>
    exact Prog.Only.now_of_done (by simp [samplePath, gainBoundary, envAbove, fabEdge]) h
  case portFrame | portChunkStamp | fsyncLost | bclkLost | portAlign | portPlay | emitPort =>
    exact Prog.Only.now_of_done (by simp) h
  case turnBoundary | wake | benchSpinReached | dwellEntryDone | gather | launch | launchMissed | overrun =>
    exact Prog.Only.now_of_done (by simp [turnBoundary, wakeEntry, startBench, enterDwell, launchEntry, takeChunk, placeLaunch,
      cancelBench, overrun]) h
  case chuckBoot | qspiBlockRead | bootSourceTimeout | imageSourceTimeout | imgLoadFull | imgLoadStage | imgLoadActive |
      loadAbort | imageComplete | rbCommit | fuseBurn | orderRegrip | regripSwap =>
    exact Prog.Only.now_of_done (by simp [chuckBoot, flashBlock]) h
  case qpEnable | qpDisable | inTailDoorbell | resHeadDoorbell | ingestEntryFetch =>
    exact Prog.Only.now_of_done (by simp) h
  case scrubLine | bar2Read | bar2Write | farTrainStart | farTrainComplete | farMr4Poll | farPeriodicCal | farRefreshDue =>
    exact Prog.Only.now_of_done (by simp [farTrained, farMr4]) h
  case mtxOpStart | mtxColumnBlock | mtxOpComplete =>
    exact Prog.Only.now_of_done (by simp) h
  case xferStart | xferComplete =>
    exact Prog.Only.now_of_done (by simp) h
  case vfFlr | pfFlr | flrDone | hostReset | hostLinkUp | vfEnable | dStateChange | cplTimeout =>
    exact Prog.Only.now_of_done (by simp [vfFlr, pfFlr, clearHost, dropVfs, linkUpProg, vfEnable]) h
  case tbFree | tbrefLost | tbrefBack | tbLock | setArm | setCancel | slewRequest | slewComplete | modeChange | uncEvaluate |
      restRatioMeasure | launchCopyCheck | ppsOutPulse =>
    exact Prog.Only.now_of_done (by simp [tbFreeProg, tbrefLostProg]) h
  case powerOnResetRelease | pwrOkRise | supplyLost | railSlow | coldNAssert | coldNRelease | thermTrip | thermDerate |
      thermClear | crystalFail | orderPower | orderRest | orderWake | orderTileclk | orderDerate | orderResetCold | orderResetPart |
      orderEnable | orderGroup | orderPort | restTimer | wdogKick | wdogStage | benchHang | ledgerCompare | unitStuck |
      catchRposWrite =>
    exact Prog.Only.now_of_done (by simp [powerOnRelease, holdCold, endAllRunning, wdogAct, compareUnit, fenceStuck]) h
  case walk | farWindowOpen | chunkPrepare | workListBuild | recordRelease | kvAlloc | kvRetain | kvRelease | kvFork |
      kvReset =>
    exact Prog.Only.now_of_done (by simp) h
  case mstStart | mstComplete | pollPeriod | qspiCmd | qspiCmdDone | spitImgOpen =>
    exact Prog.Only.now_of_done (by simp [pollEntry, qspiDone]) h
  case storeBufferDrain | tileReloadDone | tileHalt | tileStep | tileResume | debugDataWrite =>
    exact Prog.Only.now_of_done (by simp) h
  case rcRead | lowWordLatch | fabMdataRead =>
    exact Prog.Only.now_of_done (by simp) h
  case registerWrite =>
    exact Prog.Only.now_of_done (by simp [holdEvents]) h
  case mbAddressMatch | mbTimeout | getId | getStatus | receiveByte | lastResult | clearFlags | filterWrite | filterRead |
      timeoutWrite | timeoutRead | regRead | regReadN | regWrite | selolOrder | selolRegrip | getUnit | catchRead | catchNext |
      catchInfo | getTemp | mbBadCommand | quickCommand | alertResponse =>
    exact Prog.Only.now_of_done (by simp [mbTimeoutProg]) h
  case readStatus | spiRead | spiWrite | imgStream | spiWake | spitBadFrame =>
    exact Prog.Only.now_of_done (by simp [readStatusFrame, spiWriteProg, imgStreamProg]) h
  case usbVbusApplied | usbReset | usbSuspend | usbResume | usbStandardRequest | usbRegRead | usbRegWrite | imgStart | imgAbort |
      usbLastResult | usbEp1Packet | usbStreamSample | usbEp2Ack =>
    exact Prog.Only.now_of_done (by simp [usbReset, usbWrite, ep1, takeSample]) h
  case tapReset | idcode | samplePreload | extest | clamp | highz | extestPulse | extestTrain | bypass | dbgAddr | dbgData =>
    exact Prog.Only.now_of_done (by simp) h
  case restEntryDone | restExit =>
    exact Prog.Only.now_of_done (by simp [restExit, resumeFar, resumeArray, resumeFabric]) h
  -- a tile instruction issues the bundle at its tile's PC
  all_goals exact Prog.Only.now_of_done (by simp) h

end Sys2Proof.Machine
end

section
/-!
The catch log (R600 to R605): what logging a catch leaves of the device's parts, and that the newest records stay in the log while
fewer than 1024 come after them.
-/
namespace Sys2Proof.Machine

/-! ### What logging leaves -/

/-- The act leaves the Headstock's part of the device. -/
def Act.sparesHs : Act → Prop
  | .dev f => ∀ d, (f d).hs = d.hs
  | _ => True

theorem Prog.Only.hs {p : Prog} (h : p.Only Act.sparesHs) (s : State) : (p.run s).dev.hs = s.dev.hs := by
  refine h.run (R := fun s t => t.dev.hs = s.dev.hs) (fun _ => rfl) (fun h k => k.trans h) (fun a s ha => ?_) s
  cases a with
  | dev f => exact ha s.dev
  | _ => rfl

@[simp] theorem logC_hs (code sev unit : Nat) (ds : List Nat) (st : Option Nat) (s : State) :
    ((logC code sev unit ds st).run s).dev.hs = s.dev.hs := by
  refine Prog.Only.hs ?_ s
  simp [logC, logRec, logRaw, loseUnread, catchMsi, sendMsix, setF, incF, addF, modLog, emitOut, Act.sparesHs]

/-- The act leaves the records of the log and their count. -/
def Act.sparesRecs : Act → Prop
  | .dev f => ∀ d, (f d).log.recs = d.log.recs ∧ (f d).log.count = d.log.count
  | _ => True

theorem Prog.Only.recs {p : Prog} (h : p.Only Act.sparesRecs) (s : State) :
    (p.run s).dev.log.recs = s.dev.log.recs ∧ (p.run s).dev.log.count = s.dev.log.count := by
  refine h.run (R := fun s t => t.dev.log.recs = s.dev.log.recs ∧ t.dev.log.count = s.dev.log.count) (fun _ => ⟨rfl, rfl⟩)
    (fun h k => ⟨k.1.trans h.1, k.2.trans h.2⟩) (fun a s ha => ?_) s
  cases a with
  | dev f => exact ha s.dev
  | _ => exact ⟨rfl, rfl⟩

/-! ### The newest records -/

/-- The newest `k` records of the log. -/
def State.newest (s : State) (k : Nat) : List CatchRec := s.dev.log.recs.reverse.take k

theorem State.mem_recs_of_newest {s : State} {k : Nat} {r : CatchRec} (h : r ∈ s.newest k) : r ∈ s.dev.log.recs :=
  List.mem_reverse.mp (List.mem_of_mem_take h)

theorem State.newest_mono {s : State} {k l : Nat} (hkl : k ≤ l) {r : CatchRec} (h : r ∈ s.newest k) : r ∈ s.newest l :=
  (List.take_subset_take_left _ hkl) h

/-- The program adds at most `n` records to the log, so a record among the newest ones stays in it. -/
def Prog.Logs (n : Nat) (p : Prog) : Prop :=
  ∀ (s : State) (k : Nat) (r : CatchRec), k + n ≤ 1024 → r ∈ s.newest k → r ∈ (p.run s).newest (k + n)

theorem Prog.Logs.mono {m n : Nat} {p : Prog} (h : p.Logs m) (hmn : m ≤ n) : p.Logs n :=
  fun s k r hk hr => State.newest_mono (by omega) (h s k r (by omega) hr)

theorem Prog.Logs.of_only {p : Prog} (h : p.Only Act.sparesRecs) (n : Nat) : p.Logs n :=
  Prog.Logs.mono (m := 0) (fun s k r _ hr => by rwa [State.newest, (h.recs s).1]) (Nat.zero_le n)

theorem Prog.Logs.all_nil {n : Nat} : (all []).Logs n := Prog.Logs.of_only Prog.only_all_nil n

theorem Prog.Logs.all_cons {m n : Nat} {p : Prog} {l : List Prog} (hp : p.Logs m) (hl : (all l).Logs (n - m))
    (hmn : m ≤ n := by decide) : (all (p :: l)).Logs n := by
  intro s k r hk hr
  have := hl (p.run s) (k + m) r (by omega) (hp s k r (by omega) hr)
  rwa [Nat.add_assoc, Nat.add_sub_cancel' hmn] at this

theorem Prog.Logs.look {n : Nat} {f : State → Prog} (h : ∀ s, (f s).Logs n) : (look f).Logs n := fun s => h s s

theorem Prog.Logs.when {n : Nat} {c : Bool} {p : Prog} (h : p.Logs n) : (when c p).Logs n := by
  cases c
  · exact Prog.Logs.of_only Prog.only_nop n
  · exact h

theorem Prog.Logs.ite {n : Nat} {c : Prop} [Decidable c] {p q : Prog} (hp : p.Logs n) (hq : q.Logs n) :
    (if c then p else q).Logs n := by
  split <;> assumption

theorem setF_logs {f : Fld} {v : Nat} : (setF f v).Logs 0 := .of_only (by simp [setF, Act.sparesRecs]) 0
theorem modHs_logs {f : Headstock → Headstock} : (modHs f).Logs 0 := .of_only (by simp [modHs, Act.sparesRecs]) 0

/-! ### Logging adds its record -/

/-- One record more: it is the newest, and the oldest goes once there are 1024. -/
theorem logRaw_recs (r : CatchRec) (s : State) : ∃ t, ((logRaw r).run s).dev.log.recs =
    (if 1024 ≤ s.dev.log.recs.length then s.dev.log.recs.drop 1 else s.dev.log.recs) ++
      [{ r with serial := s.dev.log.count % 2 ^ 32, tick := t }] := by
  have lose : (each catchPaths loseUnread).Only Act.sparesRecs := by
    simp [loseUnread, incF, addF, setF, modLog, Act.sparesRecs]
  have msi : (catchMsi r.sev).Only Act.sparesRecs := by
    simp [catchMsi, sendMsix, setF, modLog, emitOut, Act.sparesRecs]
  obtain ⟨hrecs, hcount⟩ := lose.recs s
  refine ⟨((each catchPaths loseUnread).run s).dev.hs.now, ?_⟩
  rw [logRaw, Prog.run_all_cons, Prog.run_all_cons, Prog.run_all_cons, Prog.run_all_nil, (msi.recs _).1, Prog.run_look, modLog,
    Prog.run_modDev]
  simp only [hrecs, hcount]

theorem logRaw_newest (r : CatchRec) (s : State) :
    ∃ t, { r with serial := s.dev.log.count % 2 ^ 32, tick := t } ∈ ((logRaw r).run s).newest 1 := by
  obtain ⟨t, h⟩ := logRaw_recs r s
  exact ⟨t, by simp [State.newest, h]⟩

theorem logRaw_logs (r : CatchRec) : (logRaw r).Logs 1 := by
  intro s k x hk hx
  obtain ⟨t, h⟩ := logRaw_recs r s
  rw [State.newest, h, List.reverse_append, List.reverse_singleton, List.singleton_append, List.take_succ_cons]
  refine List.mem_cons_of_mem _ ?_
  split
  · rw [List.reverse_drop, List.take_take, min_eq_left (by omega)]
    exact hx
  · exact hx

/-- What logging does after its record: CATCH_LOST where unread records have been lost (R603). -/
def logLoss : Prog :=
  look fun s =>
    when (s.dev.log.lostPaths != 0 && (match s.dev.log.lostLogged with
      | none => true
      | some t => decide (250000 ≤ s.since t))) (all [
      modLog fun l => { l with lostPaths := 0, lostCount := 0, lostLogged := some s.now },
      logRaw { code := 0x0002, sev := 1, unit := 127, d0 := s.dev.log.lostPaths, d1 := s.dev.log.lostCount }])

theorem logRec_eq (r : CatchRec) : logRec r = all [logRaw r, logLoss] := rfl

theorem logLoss_logs : logLoss.Logs 1 :=
  Prog.Logs.look fun _ => Prog.Logs.when <|
    Prog.Logs.all_cons (m := 0) (.of_only (by simp [modLog, Act.sparesRecs]) 0) (.all_cons (logRaw_logs _) .all_nil)

theorem logC_logs {code sev unit : Nat} {ds : List Nat} {st : Option Nat} : (logC code sev unit ds st).Logs 2 := by
  rw [logC, logRec_eq]
  exact .all_cons (logRaw_logs _) (.all_cons logLoss_logs .all_nil)

/-- A logged record is among the two newest: only CATCH_LOST may come after it. -/
theorem logRec_newest (r : CatchRec) (s : State) :
    ∃ x ∈ ((logRec r).run s).newest 2, x.code = r.code ∧ x.sev = r.sev ∧ x.unit = r.unit ∧
      x.serial = s.dev.log.count % 2 ^ 32 := by
  obtain ⟨t, h⟩ := logRaw_newest r s
  rw [logRec_eq, Prog.run_all_cons, Prog.run_all_cons, Prog.run_all_nil]
  exact ⟨_, logLoss_logs _ 1 _ (by omega) h, rfl, rfl, rfl, rfl⟩

theorem logC_newest (code sev unit : Nat) (ds : List Nat) (st : Option Nat) (s : State) :
    ∃ x ∈ ((logC code sev unit ds st).run s).newest 2, x.code = code ∧ x.sev = sev ∧ x.unit = unit ∧
      x.serial = s.dev.log.count % 2 ^ 32 :=
  logRec_newest _ s

end Sys2Proof.Machine
end

section
/-!
An edge of TBPPS while a count setting is armed (R48 to R50): what judging and accepting the edge leave, and the two outcomes of the
setting.
-/
namespace Sys2Proof.Machine

/-! ### What an edge may change -/

/-- The registers that judging an edge may write: TB_STATUS, TB_TRIM, TB_SLEW, TB_PPS_ERR, TB_UNC and those of the catch log. -/
def judgeRegs : List Nat :=
  F.TB_STATUS_PPS_OK.off :: F.TB_TRIM_TRIM.off :: F.TB_SLEW_REMAIN.off :: F.TB_PPS_ERR_ERR.off :: F.TB_UNC_UNC_NS.off :: logRegs

/-- The act changes parts of the device and registers of a list, and nothing else. -/
def Act.within (offs : List Nat) : Act → Prop
  | .dev _ => True
  | .reg o _ => o ∈ offs
  | _ => False

theorem Prog.Only.word_of_within {offs : List Nat} {p : Prog} (h : p.Only (Act.within offs)) {off : Nat} (ho : off ∉ offs) (s : State) :
    (p.run s).word off = s.word off := by
  refine Prog.Only.word (h.mono fun a ha => ?_) s
  cases a with
  | reg o v => exact fun e => ho (e ▸ ha)
  | lose k => exact ha
  | _ => trivial

theorem Prog.Only.fld_of_within {offs : List Nat} {p : Prog} (h : p.Only (Act.within offs)) {f : Fld} (ho : f.off ∉ offs) (s : State) :
    (p.run s).fld f = s.fld f :=
  State.fld_of_word (h.word_of_within ho s)

theorem Prog.Only.sameBytes {offs : List Nat} {p : Prog} (h : p.Only (Act.within offs)) (s : State) : SameBytes s (p.run s) := by
  intro a
  rw [Prog.Only.mem (h.mono fun a ha => ?_) s]
  cases a with
  | bytes | zero => exact ha
  | _ => trivial

theorem Prog.Only.sameHost {offs : List Nat} {p : Prog} (h : p.Only (Act.within offs)) (s : State) : SameHost s (p.run s) := by
  intro a
  rw [Prog.Only.host (h.mono fun a ha => ?_) s]
  cases a with
  | hostBytes => exact ha
  | _ => trivial

theorem Prog.Only.within_mono {offs offs' : List Nat} (h : offs ⊆ offs') {p : Prog} (hp : p.Only (Act.within offs)) :
    p.Only (Act.within offs') := by
  refine hp.mono fun a ha => ?_
  cases a with
  | reg o v => exact h ha
  | dev f => trivial
  | _ => exact ha

@[simp] theorem Act.within_dev (offs : List Nat) (f : Dev → Dev) : (Act.dev f).within offs := trivial

theorem setF_within {offs : List Nat} {f : Fld} (h : f.off ∈ offs) (v : Nat) : (setF f v).Only (Act.within offs) :=
  Prog.only_setF fun _ => h

theorem logC_within (code sev unit : Nat) (ds : List Nat) (st : Option Nat) : (logC code sev unit ds st).Only (Act.within logRegs) :=
  Prog.only_logC (fun _ => trivial) fun _ ho _ => ho

@[simp] theorem logC_judge (code sev unit : Nat) (ds : List Nat) (st : Option Nat) :
    (logC code sev unit ds st).Only (Act.within judgeRegs) :=
  (logC_within code sev unit ds st).within_mono (by decide)

@[simp] theorem updateClamp_judge : updateClamp.Only (Act.within judgeRegs) := by
  simp (disch := decide) [updateClamp, setB, setF_within]

@[simp] theorem acceptEdge_judge (g : Long) : (acceptEdge g).Only (Act.within judgeRegs) := by
  simp (disch := decide) [acceptEdge, setB, setF_within, modHs]

@[simp] theorem runLoop_judge (e : Int) : (runLoop e).Only (Act.within judgeRegs) := by
  simp (disch := decide) [runLoop, setF_within, modHs, clearUncFrac, setUnc]

@[simp] theorem loadSlew_judge (n : Int) : (loadSlew n).Only (Act.within judgeRegs) := by
  simp (disch := decide) [loadSlew, setB, setF_within, modHs]

@[simp] theorem rejectEdge_judge (e : Int) : (rejectEdge e).Only (Act.within judgeRegs) := by
  simp (disch := decide) [rejectEdge, incF, addF, setF_within, modHs]

@[simp] theorem judgeEdge_judge : judgeEdge.Only (Act.within judgeRegs) := by
  simp [judgeEdge]

/-- The registers that an edge may write: besides those of its judging the stamp, TB_PPS_PHASE and TB_SET_CTL. -/
def edgeRegs : List Nat :=
  F.TB_PPS_STAMP_LO_STAMP.off :: F.TB_PPS_STAMP_HI_STAMP.off :: F.TB_PPS_PHASE_PHASE.off :: F.TB_SET_CTL_ARM.off :: judgeRegs

theorem Prog.Only.edge {p : Prog} (h : p.Only (Act.within judgeRegs)) : p.Only (Act.within edgeRegs) :=
  h.within_mono (by decide)

theorem logC_edge (code sev unit : Nat) (ds : List Nat) (st : Option Nat) : (logC code sev unit ds st).Only (Act.within edgeRegs) :=
  (logC_judge code sev unit ds st).edge

theorem setCount_edge : setCount.Only (Act.within edgeRegs) := by
  simp (disch := decide) [setCount, modHs, setF_within, logC_edge, (acceptEdge_judge _).edge]

theorem ppsEdgeProg_edge (rising : Bool) : (ppsEdgeProg rising).Only (Act.within edgeRegs) := by
  simp (disch := decide) [ppsEdgeProg, setF_within, setCount_edge, logC_edge, judgeEdge_judge.edge]

/-! ### Accepting and judging -/

@[simp] theorem acceptEdge_sparesNow (g : Long) : (acceptEdge g).Only Act.sparesNow := by simp [acceptEdge]
@[simp] theorem runLoop_sparesNow (e : Int) : (runLoop e).Only Act.sparesNow := by simp [runLoop]
@[simp] theorem loadSlew_sparesNow (n : Int) : (loadSlew n).Only Act.sparesNow := by simp [loadSlew]
@[simp] theorem rejectEdge_sparesNow (e : Int) : (rejectEdge e).Only Act.sparesNow := by simp [rejectEdge]
@[simp] theorem judgeEdge_sparesNow : judgeEdge.Only Act.sparesNow := by simp [judgeEdge]

/-- An accepted edge leaves the accumulator of the loop. -/
theorem acceptEdge_acc (g : Long) (s : State) : ((acceptEdge g).run s).dev.hs.acc = s.dev.hs.acc := by
  cases h : s.dev.hs.missing <;> simp [acceptEdge, modHs, setB, h]

/-- An accepted edge sets PPS_OK, and the record that it may log leaves it. -/
theorem acceptEdge_ppsOk (g : Long) (s : State) : ((acceptEdge g).run s).bit F.TB_STATUS_PPS_OK = true := by
  have tail : (all [when s.dev.hs.missing (logC 0x1005 0 40 []), modHs fun h =>
      { h with misses := 0, missing := false, rejects := 0, lastReject := none, ppsFrom := g }]).Only (Act.within logRegs) := by
    simp [logC_within, modHs]
  have keep := tail.fld_of_within (f := F.TB_STATUS_PPS_OK) (by decide) ((setB F.TB_STATUS_PPS_OK true).run s)
  rw [setB, Prog.fld_setF_same _ _ _ (by decide)] at keep
  exact beq_iff_eq.mpr keep

theorem acceptEdge_logs (g : Long) : (acceptEdge g).Logs 2 :=
  .look fun _ => .all_cons setF_logs <| .all_cons (.when logC_logs) <| .all_cons modHs_logs .all_nil

theorem updateClamp_logs : updateClamp.Logs 2 :=
  .look fun _ => .all_cons setF_logs <| .all_cons (.when logC_logs) .all_nil

theorem setUnc_logs (n : Nat) : (setUnc n).Logs 2 :=
  .look fun _ => .all_cons setF_logs <| .all_cons (.when logC_logs) .all_nil

theorem runLoop_logs (e : Int) : (runLoop e).Logs 4 :=
  .all_cons (.look fun _ => modHs_logs) <| .all_cons (.look fun _ => setF_logs) <| .all_cons setF_logs <|
    .all_cons modHs_logs <| .all_cons (setUnc_logs _) <| .all_cons updateClamp_logs .all_nil

theorem loadSlew_logs (n : Int) : (loadSlew n).Logs 2 :=
  .all_cons setF_logs <| .all_cons modHs_logs <| .all_cons setF_logs <| .all_cons updateClamp_logs .all_nil

theorem rejectEdge_logs (e : Int) : (rejectEdge e).Logs 4 :=
  .look fun _ => .all_cons (.look fun _ => setF_logs) <| .all_cons modHs_logs <|
    .all_cons (m := 4) (.when <| .all_cons logC_logs <| .all_cons (.when (loadSlew_logs _)) .all_nil) .all_nil

theorem judgeEdge_logs : judgeEdge.Logs 6 :=
  .look fun _ => .ite (.all_cons (acceptEdge_logs _) <| .all_cons (.when (runLoop_logs _)) .all_nil)
    ((rejectEdge_logs _).mono (by omega))

/-! ### The two outcomes -/

theorem bitsOf_word_all (w : Word) : bitsOf w.toNat 0 32 = w.toNat := by
  rw [bitsOf, pow_zero, Nat.div_one, Nat.mod_eq_of_lt w.isLt]

/-- The state once an edge is stamped with the count (R48). -/
def State.stamped (s : State) : State :=
  (setF F.TB_PPS_STAMP_HI_STAMP (s.now / 2 ^ 32)).run ((setF F.TB_PPS_STAMP_LO_STAMP s.now).run s)

theorem State.stamped_dev (s : State) : s.stamped.dev = s.dev := rfl

theorem State.stamped_word (s : State) {off : Nat} (h : off ∉ [F.TB_PPS_STAMP_LO_STAMP.off, F.TB_PPS_STAMP_HI_STAMP.off]) :
    s.stamped.word off = s.word off := by
  simp only [List.mem_cons, List.not_mem_nil, or_false, not_or] at h
  rw [State.stamped, Prog.Only.word (Prog.only_setF fun _ => Ne.symm h.2), Prog.Only.word (Prog.only_setF fun _ => Ne.symm h.1)]

/-- What an edge of the selected polarity does to a count setting that it refuses (R50). -/
def refuseSetting : Prog := all [setF F.TB_SET_CTL_ARM 0, setF F.TB_SET_CTL_REFUSED 1, logC 0x1009 0 40 []]

theorem ppsEdgeProg_run_armed {s : State} {rising : Bool} (hticking : s.ticking = true)
    (hedge : rising = true ↔ s.fld F.TB_DISC_CTL_PPS_EDGE = 0) (harm : s.bit F.TB_SET_CTL_ARM = true) :
    (ppsEdgeProg rising).run s =
      if s.enabledMask = 0 then setCount.run s.stamped else judgeEdge.run (refuseSetting.run s.stamped) := by
  have hsel : (rising == (s.fld F.TB_DISC_CTL_PPS_EDGE == 0)) = true := by
    cases rising <;> simp_all
  rw [ppsEdgeProg, Prog.run_look, hticking, hsel, Bool.and_self, Prog.run_when, if_pos rfl, Prog.run_all_cons, Prog.run_all_cons,
    Prog.run_all_cons, Prog.run_all_nil, ← State.stamped, harm, Bool.true_and]
  generalize s.stamped = x
  by_cases hmask : s.enabledMask = 0
  · rw [if_pos hmask, if_pos (beq_iff_eq.mpr hmask)]
  · rw [if_neg hmask, if_neg (mt beq_iff_eq.mp hmask), Prog.run_all_cons, Prog.run_all_cons, Prog.run_all_nil, Prog.run_when,
      if_pos rfl, refuseSetting]

/-! ### A refused setting -/

theorem refuseSetting_run (s : State) : refuseSetting.run s =
    (logC 0x1009 0 40 []).run ((setF F.TB_SET_CTL_REFUSED 1).run ((setF F.TB_SET_CTL_ARM 0).run s)) := by
  rw [refuseSetting, Prog.run_all_cons, Prog.run_all_cons, Prog.run_all_cons, Prog.run_all_nil]

/-- Judging the edge comes after the refusal and leaves TB_SET_CTL. -/
theorem refuse_fld (s : State) (f : Fld) (h : f.off = F.TB_SET_CTL_ARM.off) : (judgeEdge.run (refuseSetting.run s)).fld f =
    ((setF F.TB_SET_CTL_REFUSED 1).run ((setF F.TB_SET_CTL_ARM 0).run s)).fld f := by
  rw [refuseSetting_run, judgeEdge_judge.fld_of_within (by rw [h]; decide), (logC_within ..).fld_of_within (by rw [h]; decide)]

theorem refuse_arm (s : State) : (judgeEdge.run (refuseSetting.run s)).bit F.TB_SET_CTL_ARM = false := by
  rw [State.bit, refuse_fld s F.TB_SET_CTL_ARM rfl, Prog.fld_setF_other _ _ _ _ (by decide) (by decide),
    Prog.fld_setF_same _ _ _ (by decide)]
  rfl

theorem refuse_refused (s : State) : (judgeEdge.run (refuseSetting.run s)).bit F.TB_SET_CTL_REFUSED = true := by
  rw [State.bit, refuse_fld s F.TB_SET_CTL_REFUSED rfl, Prog.fld_setF_same _ _ _ (by decide)]
  rfl

theorem refuse_done (s : State) : (judgeEdge.run (refuseSetting.run s)).fld F.TB_SET_CTL_DONE = s.fld F.TB_SET_CTL_DONE := by
  rw [refuse_fld s F.TB_SET_CTL_DONE rfl, Prog.fld_setF_other _ _ _ _ (by decide) (by decide),
    Prog.fld_setF_other _ _ _ _ (by decide) (by decide)]

theorem refuse_now (s : State) : (judgeEdge.run (refuseSetting.run s)).dev.hs.now = s.dev.hs.now := by
  have h : refuseSetting.Only Act.sparesNow := by simp [refuseSetting]
  rw [judgeEdge_sparesNow.now, h.now]

theorem refuse_logged (s : State) : Logged s (judgeEdge.run (refuseSetting.run s)) 0x1009 0 40 := by
  rw [refuseSetting_run]
  obtain ⟨r, hr, h⟩ := logC_newest 0x1009 0 40 [] none ((setF F.TB_SET_CTL_REFUSED 1).run ((setF F.TB_SET_CTL_ARM 0).run s))
  exact ⟨r, State.mem_recs_of_newest (judgeEdge_logs _ 2 r (by decide) hr), h⟩

/-! ### A setting that is done -/

/-- The count and the accumulator as the setting leaves them, and TB_PPS_PHASE and TB_SET_CTL with them. -/
def loadCount (old new : Nat) : Prog := all [
  modHs fun h => { h with now := BitVec.ofNat 64 new, acc := 0 },
  modDev fun d => d.moved fun t => (t + (2 ^ 64 - old + new)) % 2 ^ 64,
  setF F.TB_PPS_PHASE_PHASE (new % ppsGrid), setF F.TB_SET_CTL_ARM 0, setF F.TB_SET_CTL_DONE 1]

/-- The value that TB_SET_LO and TB_SET_HI hold. -/
def State.setValue (s : State) : Nat := s.fld F.TB_SET_LO_SET + 2 ^ 32 * s.fld F.TB_SET_HI_SET

theorem setCount_run (s : State) : setCount.run s = (acceptEdge (BitVec.ofNat 64 s.setValue)).run
    ((logC 0x1008 0 40 [s.now % 2 ^ 32, s.now / 2 ^ 32, s.setValue % 2 ^ 32, s.setValue / 2 ^ 32]).run
      ((loadCount s.now s.setValue).run s)) := by
  rw [setCount, Prog.run_look, loadCount, State.setValue]
  simp only [Prog.run_all_cons, Prog.run_all_nil]

/-- What comes after the load leaves the registers that judging does not write. -/
theorem setCount_fld (s : State) (f : Fld) (h : f.off ∉ judgeRegs) :
    (setCount.run s).fld f = ((loadCount s.now s.setValue).run s).fld f := by
  rw [setCount_run, (acceptEdge_judge _).fld_of_within h, (logC_judge ..).fld_of_within h]

/-- The device once the count stands at `new`: its ticks move with the count (R49). -/
def Dev.countedFrom (d : Dev) (old new : Nat) : Dev :=
  Dev.moved { d with hs := { d.hs with now := BitVec.ofNat 64 new, acc := 0 } } fun t => (t + (2 ^ 64 - old + new)) % 2 ^ 64

theorem loadCount_run (old new : Nat) (s : State) : (loadCount old new).run s =
    (setF F.TB_SET_CTL_DONE 1).run ((setF F.TB_SET_CTL_ARM 0).run ((setF F.TB_PPS_PHASE_PHASE (new % ppsGrid)).run
      { s with dev := s.dev.countedFrom old new })) := by
  simp only [loadCount, Prog.run_all_cons, Prog.run_all_nil, modHs, Prog.run_modDev, Dev.countedFrom]

theorem loadCount_hs (old new : Nat) (s : State) : ((loadCount old new).run s).dev.hs =
    { s.dev.hs with now := BitVec.ofNat 64 new, acc := 0 } := by
  rw [loadCount_run]
  rfl

theorem loadCount_count (old new : Nat) (s : State) : ((loadCount old new).run s).dev.log.count = s.dev.log.count := by
  rw [loadCount_run]
  rfl

theorem setCount_now (s : State) : (setCount.run s).dev.hs.now = BitVec.ofNat 64 s.setValue := by
  rw [setCount_run, (acceptEdge_sparesNow _).now, (logC_sparesNow ..).now, loadCount_hs]

theorem setCount_acc (s : State) : (setCount.run s).dev.hs.acc = 0 := by
  rw [setCount_run, acceptEdge_acc, logC_hs, loadCount_hs]

theorem setCount_ppsOk (s : State) : (setCount.run s).bit F.TB_STATUS_PPS_OK = true := by
  rw [setCount_run, acceptEdge_ppsOk]

theorem setCount_phase (s : State) : (setCount.run s).fld F.TB_PPS_PHASE_PHASE = s.setValue % ppsGrid := by
  rw [setCount_fld s F.TB_PPS_PHASE_PHASE (by decide), loadCount_run, Prog.fld_setF_other _ _ _ _ (by decide) (by decide),
    Prog.fld_setF_other _ _ _ _ (by decide) (by decide), Prog.fld_setF_same _ _ _ (by decide)]
  exact Nat.mod_eq_of_lt ((Nat.mod_lt _ (by decide)).trans (by decide))

theorem setCount_arm (s : State) : (setCount.run s).bit F.TB_SET_CTL_ARM = false := by
  rw [State.bit, setCount_fld s F.TB_SET_CTL_ARM (by decide), loadCount_run, Prog.fld_setF_other _ _ _ _ (by decide) (by decide),
    Prog.fld_setF_same _ _ _ (by decide)]
  rfl

theorem setCount_done (s : State) : (setCount.run s).bit F.TB_SET_CTL_DONE = true := by
  rw [State.bit, setCount_fld s F.TB_SET_CTL_DONE (by decide), loadCount_run, Prog.fld_setF_same _ _ _ (by decide)]
  rfl

theorem setCount_logged (s : State) : Logged s (setCount.run s) 0x1008 0 40 := by
  rw [setCount_run]
  obtain ⟨r, hr, h⟩ := logC_newest 0x1008 0 40 [s.now % 2 ^ 32, s.now / 2 ^ 32, s.setValue % 2 ^ 32, s.setValue / 2 ^ 32] none
    ((loadCount s.now s.setValue).run s)
  rw [loadCount_count] at h
  exact ⟨r, State.mem_recs_of_newest (acceptEdge_logs _ _ 2 r (by decide) hr), h⟩

end Sys2Proof.Machine
end

section
/-!
A write of TB_SET_CTL (R49, R51), and what the setting of the count comes to.
-/
namespace Sys2Proof.Machine

/-! ### A write that is taken -/

/-- A register outside the benches' blocks takes the write of every path that reaches it. -/
theorem writing_run_of_reach {p : Path} {off : Nat} {s : State} (hr : s.reach p off = true) (hb : benchOf off = none) (q : Prog) :
    (writing p off q).run s = q.run s := by
  have hd : s.benchDrops off = none := by rw [State.benchDrops, hb, Option.filter_none]
  simp [writing, hr, hd]

/-- The act writes one register. -/
def Act.writes (off : Nat) : Act → Prop
  | .reg o _ => o = off
  | _ => False

/-- A program that writes one register leaves everything else. -/
theorem Prog.Only.onlyReg {off : Nat} {p : Prog} (h : p.Only (Act.writes off)) (s : State) :
    (p.run s).dev = s.dev ∧ SameBytes s (p.run s) ∧ SameHost s (p.run s) ∧ SameRegsBut s (p.run s) [off] := by
  have hw : p.Only (Act.within [off]) := h.mono fun a ha => by
    cases a with
    | reg o v => exact List.mem_singleton.mpr ha
    | _ => exact ha.elim
  have hd : p.Only Act.sparesDev := h.mono fun a ha => by
    cases a with
    | dev f => exact ha
    | _ => trivial
  exact ⟨hd.dev s, hw.sameBytes s, hw.sameHost s, fun _ ho => hw.word_of_within ho s⟩

theorem writeSetCtl_writes (v : Nat) : (writeSetCtl v).Only (Act.writes F.TB_SET_CTL_ARM.off) := by
  simp [writeSetCtl, writeFields, setF, Act.writes]

/-! ### The fields of TB_SET_CTL -/

theorem bitsOf_one (n i : Nat) : bitsOf n i 1 = (n.testBit i).toNat := by
  rw [bitsOf, pow_one, Nat.toNat_testBit]

theorem State.bit_eq_testBit (s : State) (off i : Nat) : s.bit ⟨off, i, 1⟩ = (s.word off).toNat.testBit i := by
  rw [State.bit, State.fld, bitsOf_one]
  cases (s.word off).toNat.testBit i <;> rfl

theorem State.fld_eq_bit (s : State) (off i : Nat) : s.fld ⟨off, i, 1⟩ = (s.bit ⟨off, i, 1⟩).toNat := by
  rw [State.bit_eq_testBit, State.fld, bitsOf_one]

/-- A number made of four bits holds each of them. -/
theorem testBit_four : ∀ a b c d : Bool,
    (a.toNat + b.toNat * 2 + c.toNat * 4 + d.toNat * 8).testBit 0 = a ∧
    (a.toNat + b.toNat * 2 + c.toNat * 4 + d.toNat * 8).testBit 1 = b ∧
    (a.toNat + b.toNat * 2 + c.toNat * 4 + d.toNat * 8).testBit 2 = c ∧
    a.toNat + b.toNat * 2 + c.toNat * 4 + d.toNat * 8 < 2 ^ 32 := by
  decide

theorem wordAfter_setCtl (old v : Nat) : wordAfter (RegMap.fields F.TB_SET_CTL_ARM.off) old v =
    (old.testBit 0 || v.testBit 0).toNat + (old.testBit 1 && !v.testBit 1).toNat * 2 +
      (old.testBit 2 && !v.testBit 2).toNat * 4 + (old.testBit 3 || v.testBit 3).toNat * 8 := by
  have h : RegMap.fields F.TB_SET_CTL_ARM.off =
      [⟨0, 1, .w1s, 0, .W⟩, ⟨1, 1, .w1c, 0, .W⟩, ⟨2, 1, .w1c, 0, .W⟩, ⟨3, 1, .w1s, 0, .W⟩] := by
    decide
  have hset : ∀ o n : Bool, o.toNat ||| n.toNat = (o || n).toNat := by decide
  have hclear : ∀ o n : Bool, o.toNat - (o.toNat &&& n.toNat) = (o && !n).toNat := by decide
  simp [h, wordAfter, fieldAfter, bitsOf_one, hset, hclear]

/-- ARM stands where it stood or is written 1; DONE and REFUSED go where they are written 1 (R7). -/
theorem writeFields_setCtl (v : Nat) (s : State) :
    ((writeFields F.TB_SET_CTL_ARM.off v).run s).bit F.TB_SET_CTL_ARM = (s.bit F.TB_SET_CTL_ARM || v.testBit 0) ∧
    ((writeFields F.TB_SET_CTL_ARM.off v).run s).bit F.TB_SET_CTL_DONE = (s.bit F.TB_SET_CTL_DONE && !v.testBit 1) ∧
    ((writeFields F.TB_SET_CTL_ARM.off v).run s).bit F.TB_SET_CTL_REFUSED = (s.bit F.TB_SET_CTL_REFUSED && !v.testBit 2) := by
  have hw : (((writeFields F.TB_SET_CTL_ARM.off v).run s).word F.TB_SET_CTL_ARM.off).toNat =
      wordAfter (RegMap.fields F.TB_SET_CTL_ARM.off) (s.word F.TB_SET_CTL_ARM.off).toNat v := by
    rw [writeFields, Prog.run_look, Prog.run_setWord, State.word_reg, if_pos rfl, wordAfter_setCtl, BitVec.toNat_ofNat,
      Nat.mod_eq_of_lt (testBit_four _ _ _ _).2.2.2]
  obtain ⟨harm, hdone, hrefused, -⟩ := testBit_four _ _ _ _
  rw [wordAfter_setCtl] at hw
  simp only [State.bit_eq_testBit] at *
  rw [hw]
  exact ⟨harm, hdone, hrefused⟩

theorem writeSetCtl_run_plain {v : Nat} (h : v.testBit 3 = false) (s : State) :
    (writeSetCtl v).run s = (writeFields F.TB_SET_CTL_ARM.off v).run s := by
  rw [writeSetCtl, Prog.run_all_cons, Prog.run_all_cons, Prog.run_all_nil, bitsOf_one, h, Prog.run_when]
  rfl

theorem writeSetCtl_run_cancel {v : Nat} (h : v.testBit 3 = true) (s : State) : (writeSetCtl v).run s =
    (setF F.TB_SET_CTL_CANCEL 0).run ((setF F.TB_SET_CTL_ARM 0).run ((writeFields F.TB_SET_CTL_ARM.off v).run s)) := by
  rw [writeSetCtl, Prog.run_all_cons, Prog.run_all_cons, Prog.run_all_nil, bitsOf_one, h, Prog.run_when]
  rfl

/-! ### Arming and cancelling -/

/-- Arming (R49). -/
theorem setArm_arm {v : Nat} (harm : v.testBit 0 = true) (hcancel : v.testBit 3 = false) (s : State) :
    ((writeSetCtl v).run s).bit F.TB_SET_CTL_ARM = true := by
  rw [writeSetCtl_run_plain hcancel, (writeFields_setCtl v s).1, harm, Bool.or_true]

/-- A write of CANCEL clears ARMED, whatever it writes to ARM (R51). -/
theorem setCancel_arm {v : Nat} (hcancel : v.testBit 3 = true) (s : State) :
    ((writeSetCtl v).run s).bit F.TB_SET_CTL_ARM = false := by
  rw [writeSetCtl_run_cancel hcancel, State.bit, Prog.fld_setF_other _ _ _ _ (by decide) (by decide),
    Prog.fld_setF_same _ _ _ (by decide)]
  rfl

theorem setCancel_done {v : Nat} (hcancel : v.testBit 3 = true) (h1 : v.testBit 1 = false) (s : State) :
    ((writeSetCtl v).run s).fld F.TB_SET_CTL_DONE = s.fld F.TB_SET_CTL_DONE := by
  rw [writeSetCtl_run_cancel hcancel, Prog.fld_setF_other _ _ _ _ (by decide) (by decide),
    Prog.fld_setF_other _ _ _ _ (by decide) (by decide), State.fld_eq_bit, State.fld_eq_bit, (writeFields_setCtl v s).2.1, h1,
    Bool.not_false, Bool.and_true]

theorem setCancel_refused {v : Nat} (hcancel : v.testBit 3 = true) (h2 : v.testBit 2 = false) (s : State) :
    ((writeSetCtl v).run s).fld F.TB_SET_CTL_REFUSED = s.fld F.TB_SET_CTL_REFUSED := by
  rw [writeSetCtl_run_cancel hcancel, Prog.fld_setF_other _ _ _ _ (by decide) (by decide),
    Prog.fld_setF_other _ _ _ _ (by decide) (by decide), State.fld_eq_bit, State.fld_eq_bit, (writeFields_setCtl v s).2.2, h2,
    Bool.not_false, Bool.and_true]

/-! ### The setting of the count -/

theorem State.setValue_stamped (s : State) : s.stamped.setValue =
    (s.word F.TB_SET_LO_SET.off).toNat + 2 ^ 32 * (s.word F.TB_SET_HI_SET.off).toNat := by
  rw [State.setValue, State.fld, State.fld, bitsOf_word_all, bitsOf_word_all, s.stamped_word (by decide), s.stamped_word (by decide)]

theorem Logged.of_stamped {s u : State} {code sev unit : Nat} (h : Logged s.stamped u code sev unit) : Logged s u code sev unit := by
  rwa [Logged, s.stamped_dev] at h

/-- An edge of the selected polarity that finds an armed setting. -/
theorem exec_tbppsEdge_armed {s u : State} {rising : Bool} (hticking : s.ticking = true)
    (hedge : rising = true ↔ s.fld F.TB_DISC_CTL_PPS_EDGE = 0) (harm : s.bit F.TB_SET_CTL_ARM = true)
    (hu : (if s.enabledMask = 0 then setCount.run s.stamped else judgeEdge.run (refuseSetting.run s.stamped)) = u) :
    exec (.tbppsEdge rising) s = .next u ∧ SameBytes s u ∧ SameHost s u := by
  rw [← ppsEdgeProg_run_armed hticking hedge harm] at hu
  subst hu
  exact ⟨rfl, (ppsEdgeProg_edge rising).sameBytes s, (ppsEdgeProg_edge rising).sameHost s⟩

/-- A write of TB_SET_CTL on a path that reaches it. -/
theorem exec_setArm {p : Path} {s : State} (hr : s.reach p F.TB_SET_CTL_ARM.off = true) (v : Word) :
    exec (.setArm p v) s = .next ((writeSetCtl v.toNat).run s) :=
  congrArg Host.Outcome.next (writing_run_of_reach hr (by decide) _)

theorem exec_setCancel {p : Path} {s : State} (hr : s.reach p F.TB_SET_CTL_ARM.off = true) (v : Word) :
    exec (.setCancel p v) s = .next ((writeSetCtl v.toNat).run s) :=
  exec_setArm hr v

/-- Settles O23: an armed setting that the edge finds is loaded or refused before the edge is accepted or judged, neither of which
writes TB_NOW, TB_SET_CTL or TB_PPS_PHASE; TB_SET_CTL is written under its access codes, and CANCEL then clears ARM. -/
theorem countSetting : Obligations.CountSetting := by
  refine ⟨fun s r hticking hedge harm hmask => ?_, fun s r hticking hedge harm hmask => ?_, fun s p v hr h0 h3 => ?_,
    fun s p v hr h3 h1 h2 => ?_⟩
  · obtain ⟨hexec, hbytes, hhost⟩ := exec_tbppsEdge_armed hticking hedge harm (if_pos hmask)
    refine ⟨_, hexec, ?_⟩
    rw [← s.setValue_stamped]
    exact ⟨setCount_now _, setCount_phase _, setCount_arm _, setCount_done _, setCount_ppsOk _, setCount_acc _,
      (setCount_logged s.stamped).of_stamped, hbytes, hhost⟩
  · obtain ⟨hexec, hbytes, hhost⟩ := exec_tbppsEdge_armed hticking hedge harm (if_neg hmask)
    have hdone := (refuse_done s.stamped).trans (State.fld_of_word (s.stamped_word (by decide)))
    exact ⟨_, hexec, refuse_now _, refuse_arm _, refuse_refused _, hdone, (refuse_logged s.stamped).of_stamped, hbytes, hhost⟩
  · obtain ⟨hdev, hbytes, hhost, hregs⟩ := (writeSetCtl_writes v.toNat).onlyReg s
    exact ⟨_, exec_setArm hr v, setArm_arm h0 h3 s, hdev, hbytes, hhost, hregs⟩
  · obtain ⟨hdev, hbytes, hhost, hregs⟩ := (writeSetCtl_writes v.toNat).onlyReg s
    exact ⟨_, exec_setCancel hr v, setCancel_arm h3 s, setCancel_done h3 h1 s, setCancel_refused h3 h2 s, hdev, hbytes, hhost, hregs⟩

end Sys2Proof.Machine
end

section
/-!
The block: one step runs the front command (log entry 1), every command is a program of acts, and what every program keeps, every step
keeps.
-/
namespace Sys2Proof.Machine

/-- Every command is a program of acts. -/
theorem exec_eq_done (c : Instr) (s : State) : ∃ p, exec c s = done p s := by
  cases c <;> exact ⟨_, rfl⟩

/-- Settles O1: a step looks at the queue alone. -/
theorem stepRunsFrontCommand : Obligations.StepRunsFrontCommand :=
  ⟨fun c l s h => by rw [step, h], fun _ _ => rfl⟩

/-- Settles O4: the register file and both memories are empty. -/
theorem resetState : Obligations.ResetState :=
  ⟨rfl, fun _ => rfl, fun _ => rfl, rfl, rfl, rfl⟩

/-- Settles O2: a command is a program of acts, and no act touches the queue or gives a free value back. -/
theorem everyCommandGoesOn : Obligations.EveryCommandGoesOn := by
  intro c s
  obtain ⟨p, hp⟩ := exec_eq_done c s
  exact ⟨p.run s, hp, p.run_pending s, p.run_free_le s⟩

/-- Settles O3: the front command is a program of acts, as a tick is, and every act keeps the canonical form. -/
theorem stepKeepsCanonical : Obligations.StepKeepsCanonical := by
  intro s u hs h
  rw [step] at h
  split at h
  · exact done_next.mp h ▸ tick.run_canonical hs
  · rename_i c rest _
    obtain ⟨p, hp⟩ := exec_eq_done c (s.withPending rest)
    rw [hp] at h
    have hrest : (s.withPending rest).canonical = true := hs
    exact done_next.mp h ▸ p.run_canonical hrest

end Sys2Proof.Machine
end

section
/-!
What a virtual function writes (R355, R360). The statement of O37 speaks of the owner of every number `q`; `State.owner` reads the word
at 0x81000 + 64 q, and for numbers beyond the device's 256 pairs that word lies in other blocks, among them the function's own MSI-X
table, which the function may write.
-/
namespace Sys2Proof.Machine

/-- A device with its link up and virtual function 1 open. -/
def vfOneOpen : State :=
  { dev := { pwr := { por := false } }, regs := [(0x40100 + 4 * 43, 2), (0x40100 + 4 * 45, 1)] }

/-- The number whose word at 0x81000 + 64 q is the first word of virtual function 1's MSI-X table. -/
def tablePair : Nat := (0x4018000 - 0x81000) / 64

theorem vfOneOpen_owner : vfOneOpen.owner tablePair = 0 := by decide

/-- Function 1 writes the first word of its MSI-X table. -/
theorem vfOneOpen_writes_table :
    ((writeAs (.vf 1, 0x8000, (4 : Word).toNat, .word)).run vfOneOpen).owner tablePair = 1 ∧
    ((writeAs (.vf 1, 0x8000, (4 : Word).toNat, .word)).run vfOneOpen).dev.ledg.cycle = [] := by
  decide +kernel

/-- Refutes O37: `tablePair` is no pair of the device, and what stands for its owner is the message address of vector 0 in virtual
function 1's own MSI-X table, which the function changes from 0 to 4. -/
theorem not_vfWritesStayInTheirWindow : ¬ Obligations.VfWritesStayInTheirWindow := by
  intro h
  obtain ⟨u, hu, -, howner, -⟩ := h vfOneOpen 1 0x8000 4 .word rfl
  obtain ⟨hwrite, hcycle⟩ := vfOneOpen_writes_table
  rw [exec_registerWrite_alone hcycle] at hu
  cases hu
  have hsame := howner tablePair
  rw [hwrite, vfOneOpen_owner] at hsame
  cases hsame

end Sys2Proof.Machine
end

section
/-!
Issuing an instruction alone in its bundle (R116, R126): the command comes to `State.afterOne`, no cause stops it, and what an effect
within the tile leaves. Then the words of the scalar and the integer operations as bit vectors.
-/
namespace Sys2Proof.Machine

/-! ## The command and its effect -/

theorem exec_tileCmd (op : TOp) (t k : Nat) (s : State) :
    exec (tileCmd op t k) s = .next ((issue t { slot := k } op).run s) := by
  cases op <;> rfl

theorem completes_of_issues {s : State} {t k w : Nat} {op : TOp} {p : Prog} {m : List Nat} {P : State → Prop}
    (h : s.issues t k op w = true) (hop : op ≠ .end_) (hp : instrEff s t ((s.tile t).seenMode false) op w = .go p m)
    (hP : P (s.afterOne t k op w p)) : Completes (tileCmd op t k) s P :=
  ⟨_, (exec_tileCmd op t k s).trans (congrArg _ (issue_run h hop hp (.inl rfl))), hP⟩

theorem Completes.mono {c : Instr} {s : State} {P Q : State → Prop} (h : Completes c s P) (hPQ : ∀ u, P u → Q u) : Completes c s Q := by
  obtain ⟨u, hu, hP⟩ := h
  exact ⟨u, hu, hPQ u hP⟩

/-- What `issues` says of the bundle at PC. -/
theorem State.issues_bundle {s : State} {t k w : Nat} {op : TOp} (h : s.issues t k op w = true) :
    (k = 0 ∨ k = 1) ∧ s.slotWord t k = w ∧ s.slotWord t (1 - k) = 0 ∧ opOf w = some op ∧
      s.bundleFault t ((s.tile t).seenMode false) = none := by
  simp only [State.issues, State.issuable, Bool.and_eq_true, beq_iff_eq, decide_eq_true_eq, Option.isNone_iff_eq_none] at h
  obtain ⟨⟨⟨⟨⟨⟨⟨⟨_, _⟩, hk⟩, hw⟩, hw'⟩, ho⟩, _⟩, hf⟩, _⟩ := h
  exact ⟨by omega, hw, hw', ho, hf⟩

/-- No memory or operand cause stops an instruction that issues. -/
theorem State.issues_no_fault {s : State} {t k w : Nat} {op : TOp} (h : s.issues t k op w = true) (c : Cause) (i : Option Nat) :
    instrEff s t ((s.tile t).seenMode false) op w ≠ .fault c i := by
  obtain ⟨hk, hw, hw', ho, hf⟩ := State.issues_bundle h
  have h0 : opOf 0 = some .nop := by decide
  intro he
  have slot : ∀ k, s.slotFault t ((s.tile t).seenMode false) k op w ≠ none := by
    intro k
    rw [State.slotFault, he]
    split <;> simp
  rcases hk with rfl | rfl
  · simp only [Nat.sub_zero] at hw'
    simp only [State.bundleFault, hw, hw', ho, h0] at hf
    split at hf
    · cases hf
    split at hf
    · cases hf
    split at hf
    · cases hf
    split at hf
    · cases hf
    · exact slot 0 (by assumption)
  · simp only [Nat.sub_self] at hw'
    simp only [State.bundleFault, hw, hw', ho, h0] at hf
    split at hf
    · cases hf
    split at hf
    · cases hf
    split at hf
    · cases hf
    split at hf
    · cases hf
    split at hf
    · cases hf
    · exact slot 1 hf

/-! ## What an effect within the tile leaves -/

theorem Prog.Only.regs_of_tileOnly {t : Nat} {p : Prog} (h : p.Only (Act.tileOnly t [])) (s : State) : (p.run s).regs = s.regs := by
  refine h.run (R := fun s u => u.regs = s.regs) (fun _ => rfl) (fun h k => k.trans h) (fun a s ha => ?_) s
  cases a with
  | dev f => rfl
  | draw => rfl
  | reg o v => cases ha
  | _ => exact ha.elim

@[simp] theorem State.afterOne_regs (s : State) (t k w : Nat) (op : TOp) (p : Prog) : (s.afterOne t k op w p).regs = (p.run s).regs := rfl

theorem State.afterOne_fld (s : State) (t k w : Nat) (op : TOp) (p : Prog) (f : Fld) : (s.afterOne t k op w p).fld f = (p.run s).fld f := rfl

/-- An effect that writes no register changes nothing but the tile. -/
theorem State.afterOne_quiet {s : State} {t k w : Nat} {op : TOp} {p : Prog} (h : p.Only (Act.tileOnly t [])) :
    OnlyTile s (s.afterOne t k op w p) t ∧ (s.afterOne t k op w p).regs = s.regs :=
  ⟨(State.afterOne_onlyTile h).1, h.regs_of_tileOnly s⟩

section
variable {s : State} {t k w : Nat} {op : TOp} {p : Prog}

theorem State.afterOne_sreg (n : Nat) : ((s.afterOne t k op w p).tile t).sreg n = ((p.run s).tile t).sreg n := by
  rw [State.afterOne_tile, Tile.committed_sreg]

theorem State.afterOne_elem (v i : Nat) : ((s.afterOne t k op w p).tile t).elem v i = ((p.run s).tile t).elem v i := by
  rw [State.afterOne_tile, Tile.committed_elem]

theorem State.afterOne_masks : ((s.afterOne t k op w p).tile t).masks = ((p.run s).tile t).masks := by
  rw [State.afterOne_tile, Tile.committed_masks]

theorem State.afterOne_vregs : ((s.afterOne t k op w p).tile t).vregs = ((p.run s).tile t).vregs := by
  rw [State.afterOne_tile]; rfl

/-- An effect that writes scalar registers of the tile alone. -/
theorem State.afterOne_sregs {m : Sparse Long} (h : (p.run s).tile t = { s.tile t with sregs := m }) :
    SameVectors (s.tile t) ((s.afterOne t k op w p).tile t) ∧ SameWork (s.tile t) ((s.afterOne t k op w p).tile t) ∧
      GoesOn (s.tile t) ((s.afterOne t k op w p).tile t) ((s.tile t).after k op w) := by
  refine ⟨?_, ?_, State.afterOne_goesOn (by rw [h]) (by rw [h]) (by rw [h])⟩ <;> rw [State.afterOne_tile, h]
  · exact ⟨fun _ _ => rfl, rfl⟩
  · exact ⟨rfl, rfl, rfl, rfl, rfl⟩

/-- An effect that writes vector and mask registers of the tile, and the mark of a wrapped counter. -/
theorem State.afterOne_vectors {v : Sparse Word} {m : Sparse (BitVec 256)} {b : Bool}
    (h : (p.run s).tile t = { s.tile t with vregs := v, masks := m, srWrapped := b }) :
    SameScalars (s.tile t) ((s.afterOne t k op w p).tile t) ∧ SameWork (s.tile t) ((s.afterOne t k op w p).tile t) ∧
      GoesOn (s.tile t) ((s.afterOne t k op w p).tile t) ((s.tile t).after k op w) := by
  refine ⟨?_, ?_, State.afterOne_goesOn (by rw [h]) (by rw [h]) (by rw [h])⟩ <;> rw [State.afterOne_tile, h]
  · exact ⟨fun _ => rfl⟩
  · exact ⟨rfl, rfl, rfl, rfl, rfl⟩

end

/-! ## Writing a scalar register -/

theorem Tile.sreg_lt (x : Tile) (n : Nat) : x.sreg n < 2 ^ 64 := by
  rw [Tile.sreg]
  split
  · decide
  · exact BitVec.isLt _

theorem Tile.sreg_zero (x : Tile) : x.sreg 0 = 0 := rfl

/-- The tile is `x` with scalar register `n` holding `v`. -/
def Tile.withSreg (x : Tile) (n v : Nat) : Tile :=
  if n = 0 then x else { x with sregs := Sparse.put zeroLong x.sregs n (BitVec.ofNat 64 v) }

theorem Tile.withSreg_eq (x : Tile) (n v : Nat) : ∃ m, x.withSreg n v = { x with sregs := m } := by
  rw [Tile.withSreg]
  split
  · exact ⟨_, rfl⟩
  · exact ⟨_, rfl⟩

theorem Tile.sreg_withSreg_same {n : Nat} (hn : n ≠ 0) (x : Tile) (v : Nat) : (x.withSreg n v).sreg n = v % 2 ^ 64 := by
  simp [Tile.withSreg, Tile.sreg, hn]

theorem Tile.sreg_withSreg_other {n m : Nat} (hm : m ≠ n) (x : Tile) (v : Nat) : (x.withSreg n v).sreg m = x.sreg m := by
  rw [Tile.withSreg]
  split
  · rfl
  · simp [Tile.sreg, Sparse.get_put_other _ _ _ _ _ hm]

theorem State.tile_setS_eq (s : State) (t n v : Nat) : ((setS t n v).run s).tile t = (s.tile t).withSreg n v :=
  State.tile_setS s t n v

/-- What a program leaves that writes scalar register `n` of tile `t` and nothing else but the registers `offs`. -/
structure Prog.SetsScalar (p : Prog) (s : State) (t n v : Nat) (offs : List Nat) : Prop where
  only : p.Only (Act.tileOnly t offs)
  tile : (p.run s).tile t = (s.tile t).withSreg n v

theorem setS_setsScalar (s : State) (t n v : Nat) (offs : List Nat) : (setS t n v).SetsScalar s t n v offs :=
  ⟨Prog.only_setS, State.tile_setS_eq s t n v⟩

/-- A value of `w` bits that is drawn before the register is written. -/
theorem drawFree_setS_setsScalar (s : State) (t n w : Nat) (f : Nat → Nat) (offs : List Nat) :
    ∃ h, (drawFree w fun x => setS t n (f x)).SetsScalar s t n (f h) offs :=
  ⟨_, Prog.only_drawFree trivial fun _ => Prog.only_setS, State.tile_setS_eq _ t n _⟩

theorem setS32_setsScalar (s : State) (t n v : Nat) (offs : List Nat) :
    ∃ h, (setS32 t n v).SetsScalar s t n (v % 2 ^ 32 + 2 ^ 32 * h) offs :=
  drawFree_setS_setsScalar s t n 32 (fun h => v % 2 ^ 32 + 2 ^ 32 * h) offs

/-- An instruction whose effect is to write one scalar register. -/
theorem completes_scalar {s : State} {t k w n v : Nat} {op : TOp} {p : Prog} {m offs : List Nat} (h : s.issues t k op w = true)
    (hop : op ≠ .end_) (hp : instrEff s t ((s.tile t).seenMode false) op w = .go p m) (hq : p.SetsScalar s t n v offs) :
    Completes (tileCmd op t k) s fun u =>
      ((n ≠ 0 → (u.tile t).sreg n = v % 2 ^ 64) ∧ (∀ m, m ≠ n → (u.tile t).sreg m = (s.tile t).sreg m)) ∧
      (SameVectors (s.tile t) (u.tile t) ∧ SameWork (s.tile t) (u.tile t) ∧ GoesOn (s.tile t) (u.tile t) ((s.tile t).after k op w)) ∧
      OnlyTile s u t ∧ SameRegsBut s u offs ∧ u.regs = (p.run s).regs := by
  refine completes_of_issues h hop hp ⟨⟨fun hn => ?_, fun m hm => ?_⟩, ?_, (State.afterOne_onlyTile hq.only).1,
    (State.afterOne_onlyTile hq.only).2, rfl⟩
  · rw [State.afterOne_sreg, hq.tile, Tile.sreg_withSreg_same hn]
  · rw [State.afterOne_sreg, hq.tile, Tile.sreg_withSreg_other hm]
  · obtain ⟨m, hm⟩ := (s.tile t).withSreg_eq n v
    exact State.afterOne_sregs (hq.tile.trans hm)

/-- The same where no register of the device is written. -/
theorem completes_scalar_quiet {s : State} {t k w n v : Nat} {op : TOp} {p : Prog} {m : List Nat} (h : s.issues t k op w = true)
    (hop : op ≠ .end_) (hp : instrEff s t ((s.tile t).seenMode false) op w = .go p m) (hq : p.SetsScalar s t n v []) :
    Completes (tileCmd op t k) s fun u =>
      (n ≠ 0 → (u.tile t).sreg n = v % 2 ^ 64) ∧ (∀ m, m ≠ n → (u.tile t).sreg m = (s.tile t).sreg m) ∧
      SameVectors (s.tile t) (u.tile t) ∧ SameWork (s.tile t) (u.tile t) ∧
      GoesOn (s.tile t) (u.tile t) ((s.tile t).after k op w) ∧ OnlyTile s u t ∧ u.regs = s.regs := by
  refine (completes_scalar h hop hp hq).mono ?_
  rintro u ⟨⟨hn, hm⟩, ⟨hv, hw, hg⟩, ho, -, hr⟩
  exact ⟨hn, hm, hv, hw, hg, ho, hr.trans (hq.only.regs_of_tileOnly s)⟩

/-! ## Signed readings and patterns -/

theorem signedOf_eq_toInt {w : Nat} (hw : 0 < w) (n : Nat) : signedOf w n = (BitVec.ofNat w n).toInt := by
  have h2 : 2 ^ w = 2 * 2 ^ (w - 1) := by rw [← pow_succ']; congr 1; omega
  rw [signedOf, BitVec.toInt_eq_toNat_cond, BitVec.toNat_ofNat]
  simp only [h2, Nat.mul_lt_mul_left (show 0 < 2 by decide)]

theorem patternOf_eq_toNat (w : Nat) (i : Int) : patternOf w i = (BitVec.ofInt w i).toNat := by
  rw [patternOf, BitVec.toNat_ofInt]

/-! ## Scalar operations -/

theorem Tile.sreg_eq_toNat (x : Tile) (n : Nat) : x.sreg n = (x.scalar n).toNat := by
  rw [Tile.scalar, BitVec.toNat_ofNat, Nat.mod_eq_of_lt (x.sreg_lt n)]

theorem bitsOf_zero (n w : Nat) : bitsOf n 0 w = n % 2 ^ w := by rw [bitsOf, pow_zero, Nat.div_one]

theorem Tile.scalarB_eq_toNat (x : Tile) (w : Nat) : x.scalarB w = (x.scalarB' w).toNat := by
  rw [Tile.scalarB, Tile.scalarB']
  split
  · rw [patternOf_eq_toNat, signedOf_eq_toInt (by decide), bitsOf_zero,
      show BitVec.ofNat 32 (w % 2 ^ 32) = BitVec.ofNat 32 w from BitVec.eq_of_toNat_eq (by simp)]
    rfl
  · exact x.sreg_eq_toNat _

/-- A scalar operation computes what R117 says, a shift where it is by less than 64. -/
theorem scalarResult_eq_want {op : TOp} (hop : op ∈ saluOps) (hm : op ≠ .movhi) (free : Nat) (a b : Long)
    (hb : op ∈ [TOp.shl, .shr, .sar] → b.toNat < 64) :
    BitVec.ofNat 64 (scalarResult op free a.toNat b.toNat) = scalarWant op a b := by
  have hs : ∀ v : Long, signedOf 64 v.toNat = v.toInt := fun v => by
    rw [signedOf_eq_toInt (by decide), BitVec.ofNat_toNat, BitVec.setWidth_eq]
  have hp : ∀ i, BitVec.ofNat 64 (patternOf 64 i) = BitVec.ofInt 64 i := fun i => by
    rw [patternOf_eq_toNat, BitVec.ofNat_toNat, BitVec.setWidth_eq]
  have hself : ∀ v : Long, BitVec.ofNat 64 v.toNat = v := fun v => by rw [BitVec.ofNat_toNat, BitVec.setWidth_eq]
  simp only [saluOps, List.mem_cons, List.not_mem_nil, or_false] at hop
  rcases hop with rfl | rfl | rfl | rfl | rfl | rfl | rfl | rfl | rfl | rfl | rfl | rfl | rfl | rfl | rfl | rfl <;>
    simp only [scalarResult, scalarWant, hs, hp]
  · rw [BitVec.ofNat_add, hself, hself]
  · exact BitVec.eq_of_toInt_eq (by rw [BitVec.toInt_ofInt, BitVec.toInt_sub])
  · rw [BitVec.ofNat_mul, hself, hself]
  · rw [BitVec.ofNat_and, hself, hself]
  · rw [BitVec.ofNat_or, hself, hself]
  · rw [BitVec.ofNat_xor, hself, hself]
  · rw [if_pos (hb (by decide))]
    exact BitVec.eq_of_toNat_eq (by simp [Nat.shiftLeft_eq])
  · have hlt : a.toNat / 2 ^ b.toNat < 2 ^ 64 := (Nat.div_le_self _ _).trans_lt a.isLt
    rw [if_pos (hb (by decide))]
    exact BitVec.eq_of_toNat_eq (by rw [BitVec.toNat_ofNat, Nat.mod_eq_of_lt hlt]; simp [Nat.shiftRight_eq_div_pow])
  · rw [if_pos (hb (by decide)), hp, BitVec.sshiftRight, Int.shiftRight_eq_div_pow]
  · simp only [BitVec.slt, decide_eq_true_eq]
    split <;> rw [hself]
  · simp only [BitVec.slt, decide_eq_true_eq]
    split <;> rw [hself]
  · simp only [BitVec.ult, decide_eq_true_eq]
    split
    · rw [Nat.min_eq_right (by omega), hself]
    · rw [Nat.min_eq_left (by omega), hself]
  · simp only [BitVec.ult, decide_eq_true_eq]
    split
    · rw [Nat.max_eq_right (by omega), hself]
    · rw [Nat.max_eq_left (by omega), hself]
  · simp only [BitVec.slt, decide_eq_true_eq]
    split <;> rfl
  · simp only [BitVec.ult, decide_eq_true_eq]
    split <;> rfl
  · exact absurd rfl hm

end Sys2Proof.Machine
end

section
/-!
The scalar pipe (R117, R135, R136): operations, loads and stores.
-/
namespace Sys2Proof.Machine

/-! ## Scalar operations -/

theorem instrEff_salu {op : TOp} (hop : op ∈ saluOps) (hm : op ≠ .movhi) (s : State) (t mode w : Nat) :
    instrEff s t mode op w = goOn (scalarEff t (s.tile t) op w) := by
  simp only [saluOps, List.mem_cons, List.not_mem_nil, or_false] at hop
  rcases hop with rfl | rfl | rfl | rfl | rfl | rfl | rfl | rfl | rfl | rfl | rfl | rfl | rfl | rfl | rfl | rfl
  case inr.inr.inr.inr.inr.inr.inr.inr.inr.inr.inr.inr.inr.inr.inr => exact absurd rfl hm
  all_goals rfl

/-- A scalar operation writes its result; the result of a shift by 64 or more is drawn. -/
theorem scalarEff_setsScalar (s : State) (t w : Nat) (op : TOp) : ∃ free, (scalarEff t (s.tile t) op w).SetsScalar s t (fSD w)
    (scalarResult op free ((s.tile t).sreg (fSA w)) ((s.tile t).scalarB w)) [] := by
  rw [scalarEff]
  split
  · exact drawFree_setS_setsScalar s t (fSD w) 64 _ []
  · exact ⟨0, setS_setsScalar s t (fSD w) _ []⟩

theorem salu_ne_end {op : TOp} (hop : op ∈ saluOps) : op ≠ .end_ := by
  rintro rfl
  exact absurd hop (by decide)

/-- What a scalar operation leaves, with the result that it writes. -/
theorem completes_salu {s : State} {t k w : Nat} {op : TOp} (hop : op ∈ saluOps) (hm : op ≠ .movhi) (h : s.issues t k op w = true) :
    ∃ free, Completes (tileCmd op t k) s fun u =>
      (fSD w ≠ 0 → (u.tile t).sreg (fSD w) =
        scalarResult op free ((s.tile t).sreg (fSA w)) ((s.tile t).scalarB w) % 2 ^ 64) ∧
      (∀ m, m ≠ fSD w → (u.tile t).sreg m = (s.tile t).sreg m) ∧
      SameVectors (s.tile t) (u.tile t) ∧ SameWork (s.tile t) (u.tile t) ∧
      GoesOn (s.tile t) (u.tile t) ((s.tile t).after k op w) ∧ OnlyTile s u t ∧ u.regs = s.regs := by
  obtain ⟨free, hq⟩ := scalarEff_setsScalar s t w op
  exact ⟨free, completes_scalar_quiet h (salu_ne_end hop) (instrEff_salu hop hm s t _ w) hq⟩

theorem Tile.scalar_congr {x y : Tile} {n : Nat} (h : y.sreg n = x.sreg n) : y.scalar n = x.scalar n := by
  rw [Tile.scalar, Tile.scalar, h]

theorem Tile.scalar_of_sreg {y : Tile} {n v : Nat} (h : y.sreg n = v % 2 ^ 64) : y.scalar n = BitVec.ofNat 64 v :=
  BitVec.eq_of_toNat_eq (by rw [← Tile.sreg_eq_toNat, h, BitVec.toNat_ofNat])

@[simp] theorem Tile.scalar_zero (x : Tile) : x.scalar 0 = 0 := rfl

theorem shifts_salu {op : TOp} (h : op ∈ [TOp.shl, .shr, .sar]) : op ∈ saluOps ∧ op ≠ .movhi := by
  simp only [List.mem_cons, List.not_mem_nil, or_false] at h
  rcases h with rfl | rfl | rfl <;> decide

/-! ## MOVHI -/

theorem movhi_setsScalar (s : State) (t w : Nat) : (movhi t (s.tile t) w).SetsScalar s t (fSD w)
    (setBits ((s.tile t).sreg (fSD w)) 32 32 (bitsOf w 0 32)) [] :=
  setS_setsScalar s t (fSD w) _ []

theorem extractLsb'_ofNat (v lo n : Nat) (h : lo + n ≤ 64) :
    (BitVec.ofNat 64 v).extractLsb' lo n = BitVec.ofNat n (bitsOf v lo n) := by
  apply BitVec.eq_of_getLsbD_eq
  intro i hi
  have : lo + i < 64 := by omega
  rw [BitVec.getLsbD_extractLsb', BitVec.getLsbD_ofNat, BitVec.getLsbD_ofNat, testBit_bitsOf]
  simp [hi, this]

/-- Settles O5: each operation writes one scalar register, with the result that `scalarResult_eq_want` gives as a word. -/
theorem scalarOperations : Obligations.ScalarOperations := by
  refine ⟨fun s t k w op hop hm h hb => ?_, fun s t k w op hop h _ => ?_, fun s t k w h => ?_⟩
  · obtain ⟨free, hc⟩ := completes_salu hop hm h
    refine hc.mono ?_
    rintro u ⟨hd, ho, hrest⟩
    refine ⟨?_, fun n hn => Tile.scalar_congr (ho n hn), hrest⟩
    split
    · rename_i h0
      rw [h0, Tile.scalar_zero]
    · rename_i h0
      rw [Tile.scalar_of_sreg (hd h0), Tile.sreg_eq_toNat, Tile.scalarB_eq_toNat]
      exact scalarResult_eq_want hop hm free _ _ fun hs => by rw [← Tile.scalarB_eq_toNat]; exact hb hs
  · obtain ⟨hs, hm⟩ := shifts_salu hop
    obtain ⟨free, hc⟩ := completes_salu hs hm h
    refine hc.mono ?_
    rintro u ⟨-, ho, hrest⟩
    exact ⟨fun n hn => Tile.scalar_congr (ho n hn), Tile.scalar_zero _, hrest⟩
  · refine (completes_scalar_quiet h (by decide) rfl (movhi_setsScalar s t w)).mono ?_
    rintro u ⟨hd, ho, hrest⟩
    refine ⟨fun h0 => ?_, fun n hn => Tile.scalar_congr (ho n hn), Tile.scalar_zero _, hrest⟩
    rw [Tile.scalar_of_sreg (hd h0), Tile.scalar, extractLsb'_ofNat _ 32 32 (by decide), extractLsb'_ofNat _ 0 32 (by decide),
      extractLsb'_ofNat _ 0 32 (by decide), bitsOf_setBits_same, bitsOf_setBits_other _ _ _ _ _ _ (by decide)]
    exact ⟨BitVec.eq_of_toNat_eq (by simp [bitsOf]), rfl⟩

/-! ## Loads -/

/-- The youngest store that overlaps the tested bytes decides; where none does, memory. -/
theorem Tile.source_memory {x : Tile} {l : List Nat} (h : ∀ e ∈ x.stores, ∀ b ∈ e, b.1 ∉ l) : x.source l = .memory := by
  have : x.stores.reverse.find? (fun e => e.any fun b => l.contains b.1) = none := by
    rw [List.find?_eq_none]
    intro e he
    simpa using fun a b hb => h e (List.mem_reverse.mp he) (a, b) hb
  rw [Tile.source, this]

theorem Tile.source_entry {x : Tile} {l : List Nat} {old : List (List (Nat × Byte))} {e : List (Nat × Byte)}
    (hx : x.stores = old ++ [e]) (hne : l ≠ []) (h : ∀ a ∈ l, ∃ b ∈ e, b.1 = a) : x.source l = .entry e := by
  obtain ⟨a, ha⟩ := List.exists_mem_of_ne_nil l hne
  obtain ⟨b, hb, hba⟩ := h a ha
  have hany : (e.any fun b => l.contains b.1) = true :=
    List.any_eq_true.mpr ⟨b, hb, by simpa [hba] using ha⟩
  have hall : (l.all fun a => e.any fun b => b.1 == a) = true :=
    List.all_eq_true.mpr fun a ha => List.any_eq_true.mpr (by simpa using h a ha)
  have hfind : x.stores.reverse.find? (fun e => e.any fun b => l.contains b.1) = some e := by
    rw [hx, List.reverse_append, List.reverse_singleton, List.singleton_append, List.find?_cons, hany]
  rw [Tile.source, hfind]
  exact if_pos hall

theorem mem_bytesOf {a n b : Nat} : b ∈ bytesOf a n ↔ a ≤ b ∧ b < a + n := by
  simp only [bytesOf, List.mem_map, List.mem_range]
  constructor
  · rintro ⟨i, hi, rfl⟩
    omega
  · rintro ⟨h1, h2⟩
    exact ⟨b - a, by omega, by omega⟩

@[simp] theorem bytesOf_length (a n : Nat) : (bytesOf a n).length = n := by simp [bytesOf]

theorem bytesOf_nodup (a n : Nat) : (bytesOf a n).Nodup := List.nodup_range.map fun _ _ h => Nat.add_right_cancel h

theorem mem_keys_zip {l : List Nat} {bs : List Byte} (h : bs.length = l.length) {a : Nat} : a ∈ l → ∃ b ∈ l.zip bs, b.1 = a := by
  intro ha
  obtain ⟨i, hi, rfl⟩ := List.mem_iff_getElem.mp ha
  exact ⟨(l[i], bs[i]), List.mem_iff_getElem.mpr ⟨i, by simp [h, hi], by simp⟩, rfl⟩

/-- An entry gives back the bytes that were put into it. -/
theorem map_entryByte_zip {l : List Nat} {bs : List Byte} (hl : l.Nodup) (h : bs.length = l.length) :
    l.map (entryByte (l.zip bs)) = bs := by
  induction l generalizing bs with
  | nil => exact (List.length_eq_zero_iff.mp h).symm
  | cons a l ih =>
    cases bs with
    | nil => simp at h
    | cons b bs =>
      obtain ⟨ha, hl⟩ := List.nodup_cons.mp hl
      have hother : ∀ c ∈ l, entryByte ((a, b) :: l.zip bs) c = entryByte (l.zip bs) c := fun c hc => by
        have : a ≠ c := fun e => ha (e ▸ hc)
        simp [entryByte, this]
      rw [List.zip_cons_cons, List.map_cons, List.map_congr_left hother, ih hl (by simpa using h)]
      simp [entryByte]

/-- A load whose bytes no buffered store overlaps, in memory that is neither in use nor poisoned. -/
theorem loadEff_memory {s : State} {t n : Nat} {l tested : List Nat} {g : (Nat → Nat) → Prog}
    (hf : (s.tile t).accessFault false n l = none) (hb : ∀ a ∈ l, (s.tile t).busyAt a n = false)
    (hs : ∀ e ∈ (s.tile t).stores, ∀ b ∈ e, b.1 ∉ tested) (hp : ∀ a ∈ l, s.poisonedIn (tileAt t + a) n = false) :
    loadEff s t n l tested g = .go (g fun a => s.readN (tileAt t + a) n) l := by
  have hbusy : (l.any fun a => (s.tile t).busyAt a n) = false := by simpa using hb
  have hpois : s.poisonAt t n l = none := by
    rw [State.poisonAt, List.find?_eq_none.mpr (by simpa using hp)]
    rfl
  simp [loadEff, hf, hbusy, Tile.source_memory hs, hpois, State.tileBytes]

/-- A load that the youngest store holds whole. -/
theorem loadEff_entry {s : State} {t n a : Nat} {g : (Nat → Nat) → Prog} {old : List (List (Nat × Byte))} {bs : List Byte}
    (hf : (s.tile t).accessFault false n [a] = none) (hb : (s.tile t).busyAt a n = false) (hn : n ≠ 0)
    (hl : bs.length = n) (hs : (s.tile t).stores = old ++ [(bytesOf a n).zip bs]) :
    loadEff s t n [a] (bytesOf a n) g = goOn (g fun b => s.tileBytes t (.entry ((bytesOf a n).zip bs)) b n) := by
  have hsrc : (s.tile t).source (bytesOf a n) = .entry ((bytesOf a n).zip bs) :=
    Tile.source_entry hs (fun h => hn (by simpa using congrArg List.length h)) fun b hm => mem_keys_zip (by simpa using hl) hm
  simp [loadEff, hf, hb, hsrc]

/-- An access that faults does so whatever the instruction does with it. -/
theorem loadEff_fault {s : State} {t n : Nat} {l tested : List Nat} {g : (Nat → Nat) → Prog}
    (h : ∀ c i, loadEff s t n l tested g ≠ .fault c i) : (s.tile t).accessFault false n l = none := by
  rw [Option.eq_none_iff_forall_ne_some]
  rintro ⟨c, a⟩ hf
  exact h c (some a) (by simp [loadEff, hf])

theorem storeEff_fault {s : State} {t n : Nat} {l : List Elem} {p : Prog} (h : ∀ c i, storeEff s t n l p ≠ .fault c i) :
    (s.tile t).accessFault true n (l.map Prod.fst) = none := by
  rw [Option.eq_none_iff_forall_ne_some]
  rintro ⟨c, a⟩ hf
  exact h c (some a) (by simp [storeEff, hf])

/-! ## LD32 and LD64 -/

/-- The effect of a scalar load that reads `v`. -/
def loadInto (t : Nat) (wide : Bool) (w v : Nat) : Prog := if wide then setS t (fSD w) v else setS32 t (fSD w) v

/-- A load of `n` bytes: 4 or 8. -/
theorem instrEff_load {op : TOp} {n : Nat} (hop : (op, n) ∈ [(TOp.ld32, 4), (.ld64, 8)]) (s : State) (t mode w : Nat) :
    instrEff s t mode op w = loadEff s t n [scalarAddr (s.tile t) w] (bytesOf (scalarAddr (s.tile t) w) n)
      fun rd => loadInto t (n == 8) w (rd (scalarAddr (s.tile t) w)) := by
  simp only [List.mem_cons, List.not_mem_nil, or_false, Prod.mk.injEq] at hop
  rcases hop with ⟨rfl, rfl⟩ | ⟨rfl, rfl⟩ <;> rfl

theorem loadInto_setsScalar (s : State) (t w v : Nat) (wide : Bool) : ∃ x, (loadInto t wide w v).SetsScalar s t (fSD w) x [] ∧
    x % 2 ^ 32 = v % 2 ^ 32 ∧ (wide = true → x = v) := by
  cases wide
  · obtain ⟨h, hq⟩ := setS32_setsScalar s t (fSD w) v []
    exact ⟨_, hq, by omega, fun e => by cases e⟩
  · exact ⟨v, setS_setsScalar s t (fSD w) v [], rfl, fun _ => rfl⟩

theorem completes_load {s : State} {t k w n v : Nat} {op : TOp} {m : List Nat} (hop : (op, n) ∈ [(TOp.ld32, 4), (.ld64, 8)])
    (h : s.issues t k op w = true) (hv : v < 2 ^ (8 * n))
    (hp : instrEff s t ((s.tile t).seenMode false) op w = .go (loadInto t (n == 8) w v) m) :
    Completes (tileCmd op t k) s fun u =>
      (fSD w ≠ 0 → (u.tile t).sreg (fSD w) % 2 ^ (8 * n) = v) ∧
      (∀ m, m ≠ fSD w → (u.tile t).sreg m = (s.tile t).sreg m) ∧ SameVectors (s.tile t) (u.tile t) ∧
      SameWork (s.tile t) (u.tile t) ∧ GoesOn (s.tile t) (u.tile t) ((s.tile t).after k op w) ∧ OnlyTile s u t ∧ u.regs = s.regs := by
  obtain ⟨x, hq, h32, h64⟩ := loadInto_setsScalar s t w v (n == 8)
  have hne : op ≠ .end_ := by rintro rfl; simp at hop
  refine (completes_scalar_quiet h hne hp hq).mono ?_
  rintro u ⟨hd, hrest⟩
  refine ⟨fun h0 => ?_, hrest⟩
  rw [hd h0]
  simp only [List.mem_cons, List.not_mem_nil, or_false, Prod.mk.injEq] at hop
  rcases hop with ⟨-, rfl⟩ | ⟨-, rfl⟩
  · rw [Nat.mod_mod_of_dvd _ (by decide)]
    exact h32.trans (Nat.mod_eq_of_lt hv)
  · rw [h64 rfl]
    exact (Nat.mod_mod _ _).trans (Nat.mod_eq_of_lt hv)

theorem ofBytes_lt (l : List Byte) : ofBytes l < 2 ^ (8 * l.length) := by
  induction l with
  | nil => simp [ofBytes]
  | cons b l ih =>
    have h1 := b.isLt
    have h2 : 2 ^ (8 * (b :: l).length) = 256 * 2 ^ (8 * l.length) := by rw [List.length_cons, Nat.mul_succ, pow_add]; ring
    rw [ofBytes, h2]
    omega

theorem Memory.reads_length (m : Memory) (a n : Nat) : (m.reads a n).length = n := by
  induction n generalizing a with
  | zero => rfl
  | succ n ih => rw [Memory.reads, List.length_cons, ih]

theorem State.readN_lt (s : State) (a n : Nat) : s.readN a n < 2 ^ (8 * n) := by
  have h := ofBytes_lt (s.mem.reads a n)
  rwa [Memory.reads_length] at h

theorem load_faultless {s : State} {t k w n : Nat} {op : TOp} (hop : (op, n) ∈ [(TOp.ld32, 4), (.ld64, 8)])
    (h : s.issues t k op w = true) : (s.tile t).accessFault false n [scalarAddr (s.tile t) w] = none :=
  loadEff_fault fun c i => instrEff_load hop s t _ w ▸ State.issues_no_fault h c i

/-! ## ST32 and ST64 -/

/-- A store enters the buffer. -/
def bufferStore (t : Nat) (e : List (Nat × Byte)) : Prog := modTile t fun x => { x with stores := x.stores ++ [e] }

theorem storeEff_go {s : State} {t n : Nat} {l : List Elem} {p : Prog} (hf : (s.tile t).accessFault true n (l.map Prod.fst) = none)
    (hb : ∀ e ∈ l, (s.tile t).busyAt e.1 n = false) (hs : (s.tile t).stores.length < 8) (hl : l ≠ []) :
    storeEff s t n l p =
      .go (all [bufferStore t (l.flatMap fun e => (bytesOf e.1 n).zip (toBytes n e.2)), p]) (l.map Prod.fst) := by
  have hbusy : (l.any fun e => (s.tile t).busyAt e.1 n) = false := by simpa using hb
  simp [storeEff, hf, hbusy, hs, hl, when, bufferStore]

theorem instrEff_store {op : TOp} {n : Nat} (hop : (op, n) ∈ [(TOp.st32, 4), (.st64, 8)]) (s : State) (t mode w : Nat) :
    instrEff s t mode op w = storeEff s t n [(scalarAddr (s.tile t) w, (s.tile t).sreg (fSD w))] .nop := by
  simp only [List.mem_cons, List.not_mem_nil, or_false, Prod.mk.injEq] at hop
  rcases hop with ⟨rfl, rfl⟩ | ⟨rfl, rfl⟩ <;> rfl

/-- What an instruction leaves that puts one entry into the store buffer, and then does what writes registers alone. -/
theorem completes_bufferStore {s : State} {t k w : Nat} {op : TOp} {e : List (Nat × Byte)} {p : Prog} {m offs : List Nat}
    (h : s.issues t k op w = true) (hop : op ≠ .end_)
    (hp : instrEff s t ((s.tile t).seenMode false) op w = .go (all [bufferStore t e, p]) m)
    (hq : p.Only (Act.tileOnly t offs)) (hd : p.Only Act.sparesDev) :
    Completes (tileCmd op t k) s fun u =>
      (u.tile t).stores = (s.tile t).stores ++ [e] ∧ SameScalars (s.tile t) (u.tile t) ∧ SameVectors (s.tile t) (u.tile t) ∧
      ((u.tile t).ops = (s.tile t).ops ∧ (u.tile t).xfers = (s.tile t).xfers ∧ (u.tile t).sel = (s.tile t).sel ∧
        (u.tile t).cdone = (s.tile t).cdone) ∧
      GoesOn (s.tile t) (u.tile t) ((s.tile t).after k op w) ∧ OnlyTile s u t ∧ SameRegsBut s u offs ∧
      u.regs = (p.run ((bufferStore t e).run s)).regs := by
  have honly : (all [bufferStore t e, p]).Only (Act.tileOnly t offs) := ⟨Prog.only_modTile _, hq, trivial⟩
  have htile : ((all [bufferStore t e, p]).run s).tile t = { s.tile t with stores := (s.tile t).stores ++ [e] } := by
    show State.tile (p.run ((bufferStore t e).run s)) t = _
    rw [State.tile, hd.dev]
    exact State.tile_modTile_same s t _
  obtain ⟨ho, hr⟩ := State.afterOne_onlyTile (s := s) (k := k) (w := w) (op := op) honly
  refine completes_of_issues h hop hp ⟨?_, ?_, ?_, ?_, State.afterOne_goesOn (by rw [htile]) (by rw [htile]) (by rw [htile]),
    ho, hr, rfl⟩ <;> rw [State.afterOne_tile, htile]
  · rfl
  · exact ⟨fun _ => rfl⟩
  · exact ⟨fun _ _ => rfl, rfl⟩
  · exact ⟨rfl, rfl, rfl, rfl⟩

/-- Settles O6: a load reads memory or the youngest entry, a store enters the buffer as one entry. -/
theorem scalarMemory : Obligations.ScalarMemory := by
  refine ⟨fun s t k w n op hop h hb hs hp => ?_, fun s t k w n op old bs hop h hb hl hs => ?_,
    fun s t k w n op hop h hb hs => ?_⟩
  · have he : instrEff s t ((s.tile t).seenMode false) op w = .go
        (loadInto t (n == 8) w (s.readN (tileAt t + scalarAddr (s.tile t) w) n)) [scalarAddr (s.tile t) w] := by
      rw [instrEff_load hop, loadEff_memory (load_faultless hop h) (by simpa using hb) (fun e he b hbe hm => ?_) (by simpa using hp)]
      have := hs e he b hbe
      have := mem_bytesOf.mp hm
      omega
    exact completes_load hop h (s.readN_lt _ _) he
  · have hn : n ≠ 0 := by
      rintro rfl
      simp at hop
    have he : instrEff s t ((s.tile t).seenMode false) op w = .go (loadInto t (n == 8) w (ofBytes bs)) [] := by
      have hbytes := map_entryByte_zip (bytesOf_nodup (scalarAddr (s.tile t) w) n) (bs := bs) (by simpa using hl)
      rw [instrEff_load hop, loadEff_entry (load_faultless hop h) hb hn hl hs]
      exact congrArg (fun b => goOn (loadInto t (n == 8) w (ofBytes b))) hbytes
    exact completes_load hop h (hl ▸ ofBytes_lt bs) he
  · have he := instrEff_store hop s t ((s.tile t).seenMode false) w
    have hf := storeEff_fault fun c i => he ▸ State.issues_no_fault h c i
    rw [storeEff_go hf (by simpa using hb) hs (by simp)] at he
    have hne : op ≠ .end_ := by
      rintro rfl
      simp at hop
    refine (completes_bufferStore (offs := []) h hne he trivial trivial).mono ?_
    rintro u ⟨hst, hsc, hv, ⟨hops, hx, hsel, hcd⟩, hg, ho, -, hregs⟩
    exact ⟨by simpa using hst, hsc, hv, hops, hx, hsel, hcd, hg, ho, hregs⟩

end Sys2Proof.Machine
end

section
/-!
What vector instructions write (R120, R129, R130): elements, masks and sticky flags.
-/
namespace Sys2Proof.Machine

/-! ## Elements -/

theorem putElems_get_other {v k : Nat} {l : List (Nat × Nat)} (h : ∀ p ∈ l, 256 * v + p.1 ≠ k) (m : Sparse Word) :
    Sparse.get zeroElem (putElems v l m) k = Sparse.get zeroElem m k := by
  induction l generalizing m with
  | nil => rfl
  | cons p l ih =>
    rw [putElems, ih fun q hq => h q (List.mem_cons_of_mem _ hq)]
    exact Sparse.get_put_other _ _ _ _ _ (h p List.mem_cons_self).symm

theorem putElems_get_mem {v i n : Nat} {l : List (Nat × Nat)} (hl : (l.map Prod.fst).Nodup) (h : (i, n) ∈ l) (m : Sparse Word) :
    Sparse.get zeroElem (putElems v l m) (256 * v + i) = BitVec.ofNat 32 n := by
  induction l generalizing m with
  | nil => cases h
  | cons p l ih =>
    obtain ⟨hp, hl⟩ := List.nodup_cons.mp hl
    rcases List.mem_cons.mp h with rfl | h
    · rw [putElems, putElems_get_other, Sparse.get_put_same]
      intro q hq e
      have : q.1 = i := by omega
      exact hp (this ▸ List.mem_map.mpr ⟨q, hq, rfl⟩)
    · exact ih hl h _

/-- The elements of a destination: those that take part, and with ZM those that the mask leaves out. -/
theorem Tile.results_eq (x : Tile) (men zm : Bool) (m : Nat) (f : Nat → Nat) : x.results men zm m f =
    ((List.range x.vl).filter fun i => x.takes men m i || zm).map fun i => (i, if x.takes men m i then f i else 0) := by
  rw [Tile.results]
  induction List.range x.vl with
  | nil => rfl
  | cons i l ih =>
    rw [List.flatMap_cons, ih]
    cases ht : x.takes men m i <;> cases zm <;> simp [ht]

theorem Tile.results_nodup (x : Tile) (men zm : Bool) (m : Nat) (f : Nat → Nat) : ((x.results men zm m f).map Prod.fst).Nodup := by
  rw [Tile.results_eq, List.map_map]
  exact (List.map_id _).symm ▸ List.nodup_range.filter _

theorem Tile.mem_results {x : Tile} {men zm : Bool} {m i : Nat} {f : Nat → Nat} (h : x.takes men m i = true ∨ zm = true) (hi : i < x.vl) :
    (i, if x.takes men m i then f i else 0) ∈ x.results men zm m f := by
  rw [Tile.results_eq]
  exact List.mem_map.mpr ⟨i, List.mem_filter.mpr ⟨List.mem_range.mpr hi, by simpa using h⟩, rfl⟩

theorem Tile.results_fst {x : Tile} {men zm : Bool} {m : Nat} {f : Nat → Nat} {p : Nat × Nat} (h : p ∈ x.results men zm m f) :
    p.1 < x.vl ∧ (x.takes men m p.1 = true ∨ zm = true) := by
  rw [Tile.results_eq] at h
  obtain ⟨i, hi, rfl⟩ := List.mem_map.mp h
  obtain ⟨hr, hf⟩ := List.mem_filter.mp hi
  exact ⟨List.mem_range.mp hr, by simpa using hf⟩

theorem Tile.takes_lt {x : Tile} {men : Bool} {m i : Nat} (h : x.takes men m i = true) : i < x.vl := by
  simp only [Tile.takes, Bool.and_eq_true, decide_eq_true_eq] at h
  exact h.1

theorem Tile.vl_le (x : Tile) : x.vl ≤ 256 := Nat.min_le_right _ _

/-- The tile is `x` with a vector destination written as R130 says. -/
def Tile.wrote (x : Tile) (men zm : Bool) (m d : Nat) (f : Nat → Nat) : Sparse Word :=
  putElems d (x.results men zm m f) x.vregs

theorem vectorGot_of_vregs {x y : Tile} {men zm : Bool} {m d : Nat} {f : Nat → Nat} (hv : y.vregs = x.wrote men zm m d f)
    (hm : y.masks = x.masks) : VectorGot x y men zm m d f := by
  have hin : ∀ i, i < x.vl → (x.takes men m i = true ∨ zm = true) →
      y.elem d i = (if x.takes men m i then f i else 0) % 2 ^ 32 := fun i hi h => by
    rw [Tile.elem, hv, Tile.wrote, putElems_get_mem (x.results_nodup men zm m f) (Tile.mem_results h hi), BitVec.toNat_ofNat]
  have hout : ∀ v i, (∀ p ∈ x.results men zm m f, 256 * d + p.1 ≠ 256 * v + i) → y.elem v i = x.elem v i := fun v i h => by
    rw [Tile.elem, hv, Tile.wrote, putElems_get_other h]
    rfl
  have hlt : ∀ p ∈ x.results men zm m f, p.1 < 256 := fun p hp => (Tile.results_fst hp).1.trans_le x.vl_le
  refine ⟨fun i _ ht => ?_, fun i _ ht hz hi => ?_, fun i _ ht hz => hout d i fun p hp e => ?_,
    fun v hvd i hi => hout v i fun p hp e => ?_, hm⟩
  · rw [hin i (Tile.takes_lt ht) (.inl ht), if_pos ht]
  · rw [hin i hi (.inr hz), if_neg (by simp [ht])]
    rfl
  · have hpi : p.1 = i := by omega
    obtain ⟨h1, h2⟩ := Tile.results_fst hp
    rw [hpi] at h1 h2
    rcases h2 with h2 | h2
    · rw [ht] at h2
      cases h2
    · have := hz h2
      omega
  · have := hlt p hp
    omega

/-! ## Sticky flags -/

theorem setFlags_fld (off : Nat) (l : List Nat) (hl : ∀ i ∈ l, i < 5) (s : State) (j : Nat) (hj : j < 5) :
    ((each l fun i => setF ⟨off, i, 1⟩ 1).run s).fld ⟨off, j, 1⟩ = if j ∈ l then 1 else s.fld ⟨off, j, 1⟩ := by
  induction l generalizing s with
  | nil => rfl
  | cons i l ih =>
    have hi := hl i List.mem_cons_self
    rw [Prog.run_each_cons, ih fun k hk => hl k (List.mem_cons_of_mem _ hk)]
    by_cases e : j = i
    · subst e
      have := Prog.fld_setF_same ⟨off, j, 1⟩ 1 s (by show j + 1 ≤ 32; omega)
      simp [this]
    · have := Prog.fld_setF_other ⟨off, i, 1⟩ ⟨off, j, 1⟩ 1 s (by show j + 1 ≤ 32; omega)
        (.inr (by show j + 1 ≤ i ∨ i + 1 ≤ j; omega))
      simp [e, this]

theorem raiseFlags_fld (t : Nat) (r : Raised) (s : State) (j : Nat) (hj : j < 5) : ((raiseFlags t r).run s).fld (fpFlag t j) =
    if (r.bits (Config.freeBit s.free)).getD j false = true then 1 else s.fld (fpFlag t j) := by
  have h := setFlags_fld (tileReg t 0x088) ((List.range 5).filter fun i => (r.bits (Config.freeBit s.free)).getD i false)
    (fun i hi => List.mem_range.mp (List.mem_filter.mp hi).1) s j hj
  have hd : ∀ u : State, ((when (r.openNv || r.openOf || r.openUf || r.openNx) (.act .draw)).run u).fld (fpFlag t j) =
      u.fld (fpFlag t j) := fun u => by
    rw [Prog.run_when]
    split <;> rfl
  simp only [raiseFlags, Prog.run_look, Prog.run_all_cons, Prog.run_all_nil, hd]
  exact h.trans (by simp only [List.mem_filter, List.mem_range, hj, true_and, fpFlag])

/-- What raising flags leaves of the sticky flags (R129). -/
theorem flagsRaised_raiseFlags (t : Nat) (r : Raised) (s : State) : FlagsRaised s ((raiseFlags t r).run s) t r := by
  intro j hj
  rw [raiseFlags_fld t r s j hj]
  have hcases : j = 0 ∨ j = 1 ∨ j = 2 ∨ j = 3 ∨ j = 4 := by omega
  have hsure : r.sure j = true → (r.bits (Config.freeBit s.free)).getD j false = true := by
    rcases hcases with rfl | rfl | rfl | rfl | rfl <;> simp +contextual [Raised.sure, Raised.bits]
  have hopen : r.sure j = false → r.open_ j = false → (r.bits (Config.freeBit s.free)).getD j false = false := by
    rcases hcases with rfl | rfl | rfl | rfl | rfl <;> simp +contextual [Raised.sure, Raised.open_, Raised.bits]
  refine ⟨fun h => if_pos (hsure h), ?_, fun h1 h2 => if_neg (by rw [hopen h1 h2]; decide)⟩
  split
  · exact .inr rfl
  · exact .inl rfl

/-- The flags depend on the register file alone. -/
theorem FlagsRaised.congr {s s' u u' : State} {t : Nat} {r : Raised} (h : FlagsRaised s u t r) (hs : s'.regs = s.regs)
    (hu : u'.regs = u.regs) : FlagsRaised s' u' t r := by
  intro j hj
  have e : ∀ {a b : State}, a.regs = b.regs → a.fld (fpFlag t j) = b.fld (fpFlag t j) := fun h => State.fld_of_word (State.word_of_regs h _)
  rw [e hs, e hu]
  exact h j hj

@[simp] theorem raiseFlags_run_none (t : Nat) (s : State) : (raiseFlags t {}).run s = s := by
  have h : ((List.range 5).filter fun i => (Raised.bits {} (Config.freeBit s.free)).getD i false) = [] := by
    rw [List.filter_eq_nil_iff]
    intro i hi
    have : i < 5 := List.mem_range.mp hi
    have hcases : i = 0 ∨ i = 1 ∨ i = 2 ∨ i = 3 ∨ i = 4 := by omega
    rcases hcases with rfl | rfl | rfl | rfl | rfl <;> simp [Raised.bits]
  simp only [raiseFlags, Prog.run_look, h]
  rfl

@[simp] theorem raisedAll_none {α : Type} (l : List α) : raisedAll (l.map fun _ => ({} : Raised)) = {} := by
  rw [raisedAll]
  induction l with
  | nil => rfl
  | cons a l ih => exact ih

theorem raiseFlags_tile (t : Nat) (r : Raised) (s : State) (j : Nat) : ((raiseFlags t r).run s).tile j = s.tile j := by
  have h : (raiseFlags t r).Only Act.sparesDev := by simp [raiseFlags, setF, Act.sparesDev]
  rw [State.tile, h.dev]
  rfl

/-! ## Instructions that write a vector register -/

/-- What a program leaves that writes a vector register of tile `t` and raises flags. -/
structure Prog.SetsVector (p : Prog) (s : State) (t d : Nat) (men zm : Bool) (m : Nat) (f : Nat → Nat) (r : Raised) : Prop where
  only : p.Only (Act.tileOnly t [tileReg t 0x088])
  tile : (p.run s).tile t = { s.tile t with vregs := (s.tile t).wrote men zm m d f }
  flags : FlagsRaised s (p.run s) t r

theorem State.tile_setV (s : State) (t d : Nat) (men zm : Bool) (m : Nat) (f : Nat → Nat) :
    ((setV t d ((s.tile t).results men zm m f)).run s).tile t = { s.tile t with vregs := (s.tile t).wrote men zm m d f } :=
  State.tile_modTile_same s t _

/-- Writing a destination and raising the flags of its elements, also after a draw. -/
theorem setV_raiseFlags_setsVector (s : State) (t d : Nat) (men zm : Bool) (m : Nat) (f : Nat → Nat) (r : Raised) :
    (all [setV t d ((s.tile t).results men zm m f), raiseFlags t r]).SetsVector s t d men zm m f r := by
  refine ⟨⟨Prog.only_setV _, Prog.only_raiseFlags r List.mem_cons_self, trivial⟩, ?_, ?_⟩
  · show State.tile ((raiseFlags t r).run _) t = _
    rw [raiseFlags_tile, State.tile_setV]
  · exact (flagsRaised_raiseFlags t r ((setV t d ((s.tile t).results men zm m f)).run s)).congr rfl rfl

theorem Prog.SetsVector.after_draw {p : Prog} {s : State} {t d : Nat} {men zm : Bool} {m : Nat} {f : Nat → Nat} {r : Raised}
    (h : p.SetsVector (Act.draw.apply s) t d men zm m f r) : (all [.act .draw, p]).SetsVector s t d men zm m f r :=
  ⟨⟨trivial, h.only, trivial⟩, h.tile, h.flags⟩

theorem writeVector_setsVector (s : State) (t w : Nat) (f : Nat → Nat × Raised) :
    (writeVector t (s.tile t) w f).SetsVector s t (fVD w) (fMen w) (fZm w) (fMask w) (fun i => (f i).1)
      (raisedAll (((s.tile t).taking (fMen w) (fMask w)).map fun i => (f i).2)) :=
  setV_raiseFlags_setsVector s t (fVD w) (fMen w) (fZm w) (fMask w) _ _

/-- An instruction whose effect is to write a vector register. -/
theorem completes_vector {s : State} {t k w d : Nat} {op : TOp} {p : Prog} {l : List Nat} {men zm : Bool} {m : Nat} {f : Nat → Nat}
    {r : Raised} (h : s.issues t k op w = true) (hop : op ≠ .end_)
    (hp : instrEff s t ((s.tile t).seenMode false) op w = .go p l) (hq : p.SetsVector s t d men zm m f r) :
    Completes (tileCmd op t k) s fun u => VectorGot (s.tile t) (u.tile t) men zm m d f ∧ FlagsRaised s u t r ∧
      (SameScalars (s.tile t) (u.tile t) ∧ SameWork (s.tile t) (u.tile t) ∧
        GoesOn (s.tile t) (u.tile t) ((s.tile t).after k op w)) ∧
      OnlyTile s u t ∧ SameRegsBut s u [tileReg t 0x088] ∧ u.regs = (p.run s).regs := by
  refine completes_of_issues h hop hp ⟨vectorGot_of_vregs ?_ ?_, hq.flags.congr rfl rfl,
    State.afterOne_vectors hq.tile, (State.afterOne_onlyTile hq.only).1, (State.afterOne_onlyTile hq.only).2, rfl⟩
  · rw [State.afterOne_vregs, hq.tile]
  · rw [State.afterOne_masks, hq.tile]

/-! ## Masks -/

theorem maskOf_range_filter (f : Nat → Bool) (n : Nat) : maskOf ((List.range n).filter f) < 2 ^ n ∧
    ∀ i, (maskOf ((List.range n).filter f)).testBit i = (decide (i < n) && f i) := by
  induction n with
  | zero => simp [maskOf]
  | succ n ih =>
    obtain ⟨hlt, hbit⟩ := ih
    rw [List.range_succ, List.filter_append]
    cases hf : f n
    · simp only [List.filter_cons, hf, Bool.false_eq_true, if_false, List.filter_nil, List.append_nil]
      refine ⟨hlt.trans (Nat.pow_lt_pow_right (by decide) n.lt_succ_self), fun i => ?_⟩
      rw [hbit]
      by_cases e : i = n
      · subst e; simp [hf]
      · have : i < n + 1 ↔ i < n := by omega
        simp [this]
    · have hm : maskOf ((List.range n).filter f ++ [n]) = 2 ^ n + maskOf ((List.range n).filter f) := by
        simp [maskOf, List.foldl_append, Nat.add_comm]
      simp only [List.filter_cons, hf, if_true, List.filter_nil, hm]
      refine ⟨by rw [pow_succ]; omega, fun i => ?_⟩
      rcases Nat.lt_trichotomy i n with h | h | h
      · rw [Nat.testBit_two_pow_add_gt h, hbit]
        have : i < n + 1 := by omega
        simp [h, this]
      · subst h
        rw [Nat.testBit_two_pow_add_eq, hbit]
        simp [hf]
      · have h1 : 2 ^ n + maskOf ((List.range n).filter f) < 2 ^ i :=
          lt_of_lt_of_le (by rw [pow_succ]; omega : _ < 2 ^ (n + 1)) (Nat.pow_le_pow_right (by decide) h)
        have : ¬ i < n + 1 := by omega
        simp [Nat.testBit_lt_two_pow h1, this]

theorem testBit_maskOf_range (f : Nat → Bool) (n i : Nat) :
    (maskOf ((List.range n).filter f)).testBit i = (decide (i < n) && f i) :=
  (maskOf_range_filter f n).2 i

theorem maskOfFn_getLsbD (f : Nat → Bool) (i : Nat) : (maskOfFn f).getLsbD i = (decide (i < 256) && f i) := by
  rw [maskOfFn, BitVec.getLsbD_ofNat, testBit_maskOf_range, ← Bool.and_assoc, Bool.and_self]

theorem State.tile_setM (s : State) (t d : Nat) (b : BitVec 256) :
    ((setM t d b).run s).tile t = { s.tile t with masks := Sparse.put zeroMask (s.tile t).masks d b } :=
  State.tile_modTile_same s t _

theorem Tile.maskBit_put (x y : Tile) (d : Nat) (b : BitVec 256) (h : y.masks = Sparse.put zeroMask x.masks d b) (i : Nat) :
    y.maskBit d i = b.getLsbD i ∧ ∀ m, m ≠ d → y.maskBit m i = x.maskBit m i := by
  refine ⟨?_, fun m hm => ?_⟩
  · rw [Tile.maskBit, h, Sparse.get_put_same]
  · rw [Tile.maskBit, h, Sparse.get_put_other _ _ _ _ _ hm]
    rfl

/-- What a program leaves that writes a mask register of tile `t` and raises flags. -/
structure Prog.SetsMask (p : Prog) (s : State) (t d : Nat) (b : BitVec 256) (r : Raised) : Prop where
  only : p.Only (Act.tileOnly t [tileReg t 0x088])
  tile : (p.run s).tile t = { s.tile t with masks := Sparse.put zeroMask (s.tile t).masks d b }
  flags : FlagsRaised s (p.run s) t r

theorem completes_mask {s : State} {t k w d : Nat} {op : TOp} {p : Prog} {l : List Nat} {b : BitVec 256} {r : Raised}
    (h : s.issues t k op w = true) (hop : op ≠ .end_)
    (hp : instrEff s t ((s.tile t).seenMode false) op w = .go p l) (hq : p.SetsMask s t d b r) :
    Completes (tileCmd op t k) s fun u => (∀ i, (u.tile t).maskBit d i = b.getLsbD i) ∧
      (∀ m, m ≠ d → ∀ i, (u.tile t).maskBit m i = (s.tile t).maskBit m i) ∧ (u.tile t).vregs = (s.tile t).vregs ∧
      FlagsRaised s u t r ∧
      (SameScalars (s.tile t) (u.tile t) ∧ SameWork (s.tile t) (u.tile t) ∧
        GoesOn (s.tile t) (u.tile t) ((s.tile t).after k op w)) ∧
      OnlyTile s u t ∧ SameRegsBut s u [tileReg t 0x088] ∧ u.regs = (p.run s).regs := by
  have hm : ((s.afterOne t k op w p).tile t).masks = Sparse.put zeroMask (s.tile t).masks d b := by
    rw [State.afterOne_masks, hq.tile]
  refine completes_of_issues h hop hp ⟨fun i => (Tile.maskBit_put _ _ d b hm i).1,
    fun m hmd i => (Tile.maskBit_put _ _ d b hm i).2 m hmd, ?_, hq.flags.congr rfl rfl,
    State.afterOne_vectors hq.tile, (State.afterOne_onlyTile hq.only).1, (State.afterOne_onlyTile hq.only).2, rfl⟩
  rw [State.afterOne_vregs, hq.tile]

end Sys2Proof.Machine
end

section
/-!
The rows of the vector engine: floating point, integers, masks, conversions, reductions, permutations and recipes (R117, R129 to R134,
R388 to R391).
-/
namespace Sys2Proof.Machine

/-! ## Floating point -/

theorem instrEff_fp {op : TOp} (hop : op ∈ fpOps) (s : State) (t mode w : Nat) :
    instrEff s t mode op w = goOn (valuFp t (s.tile t) (fmodeOf mode) op w) := by
  fin_cases hop <;> rfl

theorem fp_ne_end {op : TOp} (hop : op ∈ fpOps) : op ≠ .end_ := by
  rintro rfl
  exact absurd hop (by decide)

/-- Settles O7: a floating-point row writes its elements' results and raises their flags. -/
theorem vectorFloat : Obligations.VectorFloat := by
  intro s t k w op hop h
  refine (completes_vector h (fp_ne_end hop) (instrEff_fp hop s t _ w) (writeVector_setsVector s t w _)).mono ?_
  rintro u ⟨hg, hf, ⟨hs, hw, hgo⟩, ho, hr, -⟩
  exact ⟨hg, hf, hs, hw, hgo, ho, hr⟩

/-! ## Integers -/

theorem ofNat_toNat_word (a : Word) : BitVec.ofNat 32 a.toNat = a := by rw [BitVec.ofNat_toNat, BitVec.setWidth_eq]

theorem ofNat_mod_word (n : Nat) : BitVec.ofNat 32 (n % 2 ^ 32) = BitVec.ofNat 32 n := BitVec.eq_of_toNat_eq (by simp)

theorem ofNat_patternOf (i : Int) : BitVec.ofNat 32 (patternOf 32 i) = BitVec.ofInt 32 i := by
  rw [patternOf_eq_toNat, ofNat_toNat_word]

theorem intResult_eq_want (md : FMode) (i : Int) : BitVec.ofNat 32 (intResult md i) = intWant md.sat i := by
  rw [intResult, ofNat_patternOf, intWant]
  congr 1
  split
  · simp only [Int.reducePow, Nat.cast_pow, Nat.cast_ofNat]
    split
    · omega
    · split <;> omega
  · rfl

/-- An integer operation computes what R117 says, a shift where it is by less than 32. -/
theorem intElem_eq_want {op : TOp} (hop : op ∈ intOps) (md : FMode) (free i : Nat) (a b : Word)
    (hb : op ∈ [TOp.ishl, .ishr, .isar] → b.toNat < 32) :
    BitVec.ofNat 32 (intElem op md free i a.toNat b.toNat) = laneWant op md.sat i a b := by
  have hs : ∀ v : Word, signedOf 32 v.toNat = v.toInt := fun v => by rw [signedOf_eq_toInt (by decide), ofNat_toNat_word]
  simp only [intOps, List.mem_cons, List.not_mem_nil, or_false] at hop
  rcases hop with rfl | rfl | rfl | rfl | rfl | rfl | rfl | rfl | rfl | rfl | rfl | rfl <;>
    simp only [intElem, laneWant, hs, intResult_eq_want]
  · rw [BitVec.ofNat_and, ofNat_toNat_word, ofNat_toNat_word]
  · rw [BitVec.ofNat_or, ofNat_toNat_word, ofNat_toNat_word]
  · rw [BitVec.ofNat_xor, ofNat_toNat_word, ofNat_toNat_word]
  · rw [if_pos (hb (by decide)), intResult_eq_want]
    simp
  · have hlt : a.toNat / 2 ^ b.toNat < 2 ^ 32 := (Nat.div_le_self _ _).trans_lt a.isLt
    rw [if_pos (hb (by decide))]
    exact BitVec.eq_of_toNat_eq (by rw [BitVec.toNat_ofNat, Nat.mod_eq_of_lt hlt]; simp [Nat.shiftRight_eq_div_pow])
  · rw [if_pos (hb (by decide)), ofNat_patternOf, BitVec.sshiftRight, Int.shiftRight_eq_div_pow]
  · simp only [BitVec.slt, decide_eq_true_eq]
    split <;> rw [ofNat_toNat_word]
  · simp only [BitVec.slt, decide_eq_true_eq]
    split <;> rw [ofNat_toNat_word]

theorem instrEff_int {op : TOp} (hop : op ∈ intOps) (s : State) (t mode w : Nat) :
    instrEff s t mode op w = goOn (valuInt t (s.tile t) (fmodeOf mode) op w) := by
  fin_cases hop <;> rfl

theorem int_ne_end {op : TOp} (hop : op ∈ intOps) : op ≠ .end_ := by
  rintro rfl
  exact absurd hop (by decide)

theorem writeVector_only (t : Nat) (x : Tile) (w : Nat) (f : Nat → Nat × Raised) :
    (writeVector t x w f).Only (Act.tileOnly t [tileReg t 0x088]) :=
  ⟨Prog.only_setV _, Prog.only_raiseFlags _ List.mem_cons_self, trivial⟩

/-- An integer row writes its elements' results and raises no flag; a shift draws the results that are open. -/
theorem valuInt_setsVector (s : State) (t w : Nat) (md : FMode) (op : TOp) : ∃ free : Nat → Nat,
    (valuInt t (s.tile t) md op w).SetsVector s t (fVD w) (fMen w) (fZm w) (fMask w)
      (fun i => intElem op md (free i) i ((s.tile t).elem (fVA w) i) ((s.tile t).bElem w i)) {} ∧
    ((valuInt t (s.tile t) md op w).run s).regs = s.regs := by
  have quiet : ∀ (s : State) (f : Nat → Nat), (writeVector t (s.tile t) w fun i => (f i, {})).SetsVector s t (fVD w) (fMen w) (fZm w)
      (fMask w) f {} ∧ ((writeVector t (s.tile t) w fun i => (f i, {})).run s).regs = s.regs := fun s f => by
    have h := writeVector_setsVector s t w fun i => (f i, {})
    rw [raisedAll_none] at h
    refine ⟨h, ?_⟩
    rw [writeVector, raisedAll_none]
    simp only [Prog.run_all_cons, Prog.run_all_nil, raiseFlags_run_none]
    rfl
  rw [valuInt]
  split
  · obtain ⟨h, hr⟩ := quiet (Act.draw.apply s) fun i => intElem op md (Config.freeElem s.free i).toNat i
      ((s.tile t).elem (fVA w) i) ((s.tile t).bElem w i)
    have h' := h.after_draw
    exact ⟨fun i => (Config.freeElem s.free i).toNat, ⟨fun _ => ⟨trivial, writeVector_only t (s.tile t) w _, trivial⟩, h'.tile, h'.flags⟩, hr⟩
  · exact ⟨fun _ => 0, quiet s _⟩

theorem Tile.elem_eq_toNat (x : Tile) (v i : Nat) : x.elem v i = (x.lane v i).toNat := by
  rw [Tile.lane, Tile.elem, ofNat_toNat_word]

theorem Tile.bElem_lt (x : Tile) (w i : Nat) : x.bElem w i < 2 ^ 32 := by
  rw [Tile.bElem]
  split
  · exact Nat.mod_lt _ (by decide)
  · exact BitVec.isLt _

/-- Settles O8: the result of each element is what `intElem_eq_want` gives. -/
theorem vectorInteger : Obligations.VectorInteger := by
  intro s t k w op hop h
  obtain ⟨free, hq, hregs⟩ := valuInt_setsVector s t w (fmodeOf ((s.tile t).seenMode false)) op
  refine (completes_vector h (int_ne_end hop) (instrEff_int hop s t _ w) hq).mono ?_
  rintro u ⟨hg, -, ⟨hs, hw, hgo⟩, ho, -, hr⟩
  refine ⟨fun i hi ht hb => ?_, ⟨_, hg⟩, hs, hw, hgo, ho, hr.trans hregs⟩
  have hB : ((s.tile t).bElem w i) = (BitVec.ofNat 32 ((s.tile t).bElem w i)).toNat := by
    rw [BitVec.toNat_ofNat, Nat.mod_eq_of_lt (Tile.bElem_lt _ w i)]
  have hwant := intElem_eq_want hop (fmodeOf ((s.tile t).seenMode false)) (free i) i ((s.tile t).lane (fVA w) i)
    (BitVec.ofNat 32 ((s.tile t).bElem w i)) fun hs => hB ▸ hb hs
  rw [← hB, ← Tile.elem_eq_toNat] at hwant
  rw [Tile.lane, hg.takes i hi ht, ofNat_mod_word]
  exact hwant

end Sys2Proof.Machine
end

section
/-!
The rows of the vector engine that compare, count, convert, reduce and permute, and recipes (R117, R130 to R134, R388 to R391).
-/
namespace Sys2Proof.Machine

/-! ## Compares -/

def compareOps : List TOp := [.fclt, .fcle, .fceq, .fcun, .iclt, .iceq]

/-- What a compare says of element `i`, and what it raises. -/
def Tile.compares (x : Tile) (op : TOp) (w i : Nat) : Bool × Raised :=
  if op ∈ [TOp.iclt, .iceq] then (icompare op (x.elem (fVA w) i) (x.bElem w i), {})
  else fcompare op (x.elem (fVA w) i) (x.bElem w i)

theorem vcompare_eq {op : TOp} (hop : op ∈ compareOps) (t : Nat) (x : Tile) (w : Nat) : vcompare t x op w =
    all [setM t (fVD w) (maskOfFn fun i => x.takes (fMen w) (fMask w) i && (x.compares op w i).1),
      raiseFlags t (raisedAll ((x.taking (fMen w) (fMask w)).map fun i => (x.compares op w i).2))] := by
  fin_cases hop <;> rfl

theorem instrEff_compare {op : TOp} (hop : op ∈ compareOps) (s : State) (t mode w : Nat) :
    instrEff s t mode op w = goOn (vcompare t (s.tile t) op w) := by
  fin_cases hop <;> rfl

theorem setM_raiseFlags_setsMask (s : State) (t d : Nat) (b : BitVec 256) (r : Raised) :
    (all [setM t d b, raiseFlags t r]).SetsMask s t d b r := by
  refine ⟨⟨Prog.only_setM _, Prog.only_raiseFlags r List.mem_cons_self, trivial⟩, ?_, ?_⟩
  · show State.tile ((raiseFlags t r).run _) t = _
    rw [raiseFlags_tile, State.tile_setM]
  · exact (flagsRaised_raiseFlags t r ((setM t d b).run s)).congr rfl rfl

/-! ## Mask logic -/

theorem instrEff_maskLogic {op : TOp} (hop : op ∈ [TOp.mand, .mor, .mxor, .mnot]) (s : State) (t mode w : Nat) :
    instrEff s t mode op w = goOn (vmaskLogic t (s.tile t) op w) := by
  fin_cases hop <;> rfl

theorem vmaskLogic_eq {op : TOp} {g : Bool → Bool → Bool}
    (hop : (op = .mand ∧ g = and) ∨ (op = .mor ∧ g = or) ∨ (op = .mxor ∧ g = xor) ∨ (op = .mnot ∧ g = fun a _ => !a))
    (t : Nat) (x : Tile) (w : Nat) : vmaskLogic t x op w = look fun s => all [.act .draw, setM t (fVD w) (maskOfFn fun i =>
      if x.takes (fMen w) (fMask w) i then g (x.maskBit (fVA w) i) (x.maskBit (fVB w) i) else Config.freeBit s.free i)] := by
  rcases hop with ⟨rfl, rfl⟩ | ⟨rfl, rfl⟩ | ⟨rfl, rfl⟩ | ⟨rfl, rfl⟩ <;> rfl

/-- No flag is raised where no register is written. -/
theorem flagsRaised_none {s u : State} (t : Nat) (h : u.regs = s.regs) : FlagsRaised s u t {} := by
  have hs : s.regs = ((raiseFlags t {}).run s).regs := by rw [raiseFlags_run_none]
  exact (flagsRaised_raiseFlags t {} s).congr rfl (h.trans hs)

/-- Mask logic writes its result in the bits that take part; the others are drawn. -/
theorem vmaskLogic_setsMask {op : TOp} {g : Bool → Bool → Bool}
    (hop : (op = .mand ∧ g = and) ∨ (op = .mor ∧ g = or) ∨ (op = .mxor ∧ g = xor) ∨ (op = .mnot ∧ g = fun a _ => !a))
    (s : State) (t w : Nat) : ∃ free : Nat → Bool,
    (vmaskLogic t (s.tile t) op w).SetsMask s t (fVD w) (maskOfFn fun i =>
      if (s.tile t).takes (fMen w) (fMask w) i then g ((s.tile t).maskBit (fVA w) i) ((s.tile t).maskBit (fVB w) i)
      else free i) {} ∧ ((vmaskLogic t (s.tile t) op w).run s).regs = s.regs := by
  rw [vmaskLogic_eq hop]
  exact ⟨Config.freeBit s.free, ⟨fun _ => ⟨trivial, Prog.only_setM _, trivial⟩, State.tile_setM (Act.draw.apply s) t (fVD w) _,
    flagsRaised_none t rfl⟩, rfl⟩

theorem mem_maskLogic {op : TOp} {g : Bool → Bool → Bool}
    (hop : (op = .mand ∧ g = and) ∨ (op = .mor ∧ g = or) ∨ (op = .mxor ∧ g = xor) ∨ (op = .mnot ∧ g = fun a _ => !a)) :
    op ∈ [TOp.mand, .mor, .mxor, .mnot] := by
  rcases hop with ⟨rfl, -⟩ | ⟨rfl, -⟩ | ⟨rfl, -⟩ | ⟨rfl, -⟩ <;> decide

/-! ## Mask counts -/

theorem instrEff_maskCount {op : TOp} (hop : op ∈ [TOp.mpop, .mfirst]) (s : State) (t mode w : Nat) :
    instrEff s t mode op w = goOn (vmaskCount t (s.tile t) op w) := by
  fin_cases hop <;> rfl

/-- The elements that take part and whose bit is set. -/
def Tile.hits (x : Tile) (w : Nat) : List Nat :=
  (List.range 256).filter fun i => x.takes (fMen w) (fMask w) i && x.maskBit (fVA w) i

theorem Tile.taking_filter (x : Tile) (w : Nat) :
    (x.taking (fMen w) (fMask w)).filter (x.maskBit (fVA w)) = x.hits w := by
  rw [Tile.taking, List.filter_filter, Tile.hits]
  exact List.filter_congr fun i _ => Bool.and_comm _ _

theorem Tile.hits_le (x : Tile) (w : Nat) : (x.hits w).length ≤ 256 ∧ (x.hits w).headD 256 ≤ 256 := by
  refine ⟨(List.length_filter_le _ _).trans (List.length_range ..).le, ?_⟩
  cases hl : x.hits w with
  | nil => exact le_refl _
  | cons i l =>
    have hi : i ∈ x.hits w := hl ▸ List.mem_cons_self
    exact (List.mem_range.mp (List.mem_filter.mp hi).1).le

/-- Settles O10: compares and mask logic write one mask register, the counts one scalar register. -/
theorem vectorMasks : Obligations.VectorMasks := by
  refine ⟨fun s t k w op hop h => ?_, fun s t k w op g hop h => ?_, fun s t k w op hop h => ?_⟩
  · have hne : op ≠ .end_ := by rintro rfl; simp at hop
    have he := instrEff_compare (op := op) hop s t ((s.tile t).seenMode false) w
    rw [vcompare_eq hop] at he
    refine (completes_mask h hne he (setM_raiseFlags_setsMask s t (fVD w) _ _)).mono ?_
    rintro u ⟨hb, hm, hv, hf, ⟨hs, hw, hgo⟩, ho, hr, -⟩
    refine ⟨fun i hi => ?_, hm, hv, hf, hs, hw, hgo, ho, hr⟩
    rw [hb, maskOfFn_getLsbD, decide_eq_true hi, Bool.true_and]
    rfl
  · have hne : op ≠ .end_ := by rintro rfl; simp at hop
    obtain ⟨free, hq, hregs⟩ := vmaskLogic_setsMask hop s t w
    refine (completes_mask h hne (instrEff_maskLogic (mem_maskLogic hop) s t _ w) hq).mono ?_
    rintro u ⟨hb, hm, hv, -, ⟨hs, hw, hgo⟩, ho, -, hr⟩
    refine ⟨fun i ht => ?_, hm, hv, hs, hw, hgo, ho, hr.trans hregs⟩
    rw [hb, maskOfFn_getLsbD, decide_eq_true ((Tile.takes_lt ht).trans_le (Tile.vl_le _)), Bool.true_and, if_pos ht]
  · have hne : op ≠ .end_ := by rintro rfl; simp at hop
    refine (completes_scalar_quiet h hne (instrEff_maskCount hop s t _ w) (setS_setsScalar s t (fVSB w) _ [])).mono ?_
    rintro u ⟨hd, hrest⟩
    refine ⟨fun h0 => ?_, hrest⟩
    obtain ⟨h1, h2⟩ := (s.tile t).hits_le w
    rw [hd h0, Tile.taking_filter, Nat.mod_eq_of_lt]
    · rfl
    · split <;> omega

end Sys2Proof.Machine
end

section
/-!
What logging a catch leaves (R600 to R605): the frame of `logC` and `logLim`, and how many records they add.
-/
namespace Sys2Proof.Machine

/-- Of the device only the log, the messages and the marks of limited catches have changed, of registers those of the log, and of
memories nothing. -/
structure OnlyLogs (s u : State) : Prop where
  dev : u.dev = { s.dev with log := u.dev.log, out := u.dev.out, marks := u.dev.marks }
  regs : SameRegsBut s u logRegs
  mem : u.mem = s.mem
  host : u.host = s.host
  count : s.dev.log.count ≤ u.dev.log.count

theorem OnlyLogs.refl (s : State) : OnlyLogs s s := ⟨rfl, fun _ _ => rfl, rfl, rfl, le_refl _⟩

theorem OnlyLogs.trans {a b c : State} (h : OnlyLogs a b) (k : OnlyLogs b c) : OnlyLogs a c := by
  refine ⟨?_, fun o ho => (k.regs o ho).trans (h.regs o ho), k.mem.trans h.mem, k.host.trans h.host, h.count.trans k.count⟩
  rw [k.dev, h.dev]

/-- The act is one that logging takes. -/
def Act.logs : Act → Prop
  | .dev f => ∀ d, f d = { d with log := (f d).log, out := (f d).out, marks := (f d).marks } ∧ d.log.count ≤ (f d).log.count
  | .reg o _ => o ∈ logRegs
  | .draw => True
  | _ => False

theorem Prog.Only.onlyLogs {p : Prog} (h : p.Only Act.logs) (s : State) : OnlyLogs s (p.run s) := by
  refine h.run (R := OnlyLogs) OnlyLogs.refl OnlyLogs.trans (fun a s ha => ?_) s
  cases a with
  | dev f => exact ⟨(ha s.dev).1, fun _ _ => rfl, rfl, rfl, (ha s.dev).2⟩
  | reg o v =>
    refine ⟨rfl, fun x hx => ?_, rfl, rfl, le_refl _⟩
    have : x ≠ o := fun e => hx (e ▸ ha)
    simp [this]
  | draw => exact ⟨rfl, fun _ _ => rfl, rfl, rfl, le_refl _⟩
  | _ => exact ha.elim

theorem modLog_logs (f : CatchLog → CatchLog) (hf : ∀ l, l.count ≤ (f l).count) : (modLog f).Only Act.logs :=
  fun d => ⟨rfl, hf d.log⟩

theorem emitOut_logs (o : Out) : (emitOut o).Only Act.logs := fun _ => ⟨rfl, le_refl _⟩

theorem setF_logs' {f : Fld} {v : Nat} (h : f.off ∈ logRegs) : (setF f v).Only Act.logs := Prog.only_setF fun _ => h

theorem loseUnread_onlyLogs {k : Nat} (hk : k ∈ catchPaths) : (loseUnread k).Only Act.logs := by
  have hpos : (F.CATCH_RPOS k).off ∈ logRegs := by fin_cases hk <;> decide
  have hlost : (F.CATCH_LOST k).off ∈ logRegs := by fin_cases hk <;> decide
  exact fun s => Prog.only_when.mpr fun _ =>
    ⟨setF_logs' hpos, Prog.only_incF fun _ => hlost, modLog_logs _ fun _ => le_refl _, trivial⟩

theorem catchMsi_onlyLogs (sev : Nat) : (catchMsi sev).Only Act.logs := by
  refine fun s => Prog.only_when.mpr fun _ => ⟨modLog_logs _ fun _ => le_refl _, fun u => ?_, trivial⟩
  show (if _ then _ else _ : Prog).Only _
  split
  · exact setF_logs' (by decide)
  · exact emitOut_logs _

theorem logRaw_onlyLogs (r : CatchRec) : (logRaw r).Only Act.logs :=
  ⟨Prog.only_each.mpr fun _ hk => loseUnread_onlyLogs hk, fun _ => modLog_logs _ fun _ => Nat.le_succ _, catchMsi_onlyLogs _, trivial⟩

theorem logLoss_onlyLogs : logLoss.Only Act.logs :=
  fun _ => Prog.only_when.mpr fun _ => ⟨modLog_logs _ fun _ => le_refl _, logRaw_onlyLogs _, trivial⟩

theorem logC_onlyLogs (code sev unit : Nat) (ds : List Nat) (st : Option Nat) : (logC code sev unit ds st).Only Act.logs :=
  ⟨logRaw_onlyLogs _, logLoss_onlyLogs, trivial⟩

theorem logLim_onlyLogs (l : Limit) (id code sev unit : Nat) (ds : List Nat) (st : Option Nat) :
    (logLim l id code sev unit ds st).Only Act.logs :=
  fun _ => Prog.only_when.mpr fun _ => ⟨fun _ => ⟨rfl, le_refl _⟩, logC_onlyLogs .., trivial⟩

theorem sendMsix_zero_onlyLogs (vec : Nat) (h : vec < 32) : (sendMsix 0 vec).Only Act.logs := by
  intro s
  show (if _ then _ else _ : Prog).Only _
  split
  · refine setF_logs' ?_
    have : vec / 32 = 0 := by omega
    simp [msixPba, this, logRegs]
  · exact emitOut_logs _

/-! ## How many records -/

theorem logRaw_count (r : CatchRec) (s : State) : ((logRaw r).run s).dev.log.count = s.dev.log.count + 1 := by
  have lose : (each catchPaths loseUnread).Only Act.sparesRecs := by
    simp [loseUnread, incF, addF, setF, modLog, Act.sparesRecs]
  have msi : (catchMsi r.sev).Only Act.sparesRecs := by
    simp [catchMsi, sendMsix, setF, modLog, emitOut, Act.sparesRecs]
  rw [logRaw, Prog.run_all_cons, Prog.run_all_cons, Prog.run_all_cons, Prog.run_all_nil, (msi.recs _).2, Prog.run_look, modLog,
    Prog.run_modDev]
  dsimp only
  rw [(lose.recs s).2]

theorem logLoss_count (s : State) : (logLoss.run s).dev.log.count = s.dev.log.count ∨
    (logLoss.run s).dev.log.count = s.dev.log.count + 1 := by
  rw [logLoss, Prog.run_look]
  generalize (s.dev.log.lostPaths != 0 && _) = due
  cases due
  · exact .inl rfl
  · rw [Prog.run_when, if_pos rfl, Prog.run_all_cons, Prog.run_all_cons, Prog.run_all_nil, logRaw_count, modLog, Prog.run_modDev]
    exact .inr rfl

theorem logRec_count (r : CatchRec) (s : State) : ((logRec r).run s).dev.log.count = s.dev.log.count + 1 ∨
    ((logRec r).run s).dev.log.count = s.dev.log.count + 2 := by
  rw [logRec_eq, Prog.run_all_cons, Prog.run_all_cons, Prog.run_all_nil]
  have h := logRaw_count r s
  rcases logLoss_count ((logRaw r).run s) with h' | h' <;> rw [h', h] <;> simp

theorem logC_count (code sev unit : Nat) (ds : List Nat) (st : Option Nat) (s : State) :
    ((logC code sev unit ds st).run s).dev.log.count = s.dev.log.count + 1 ∨
    ((logC code sev unit ds st).run s).dev.log.count = s.dev.log.count + 2 := by
  rw [logC]
  exact logRec_count _ s

theorem logC_count_lt (code sev unit : Nat) (ds : List Nat) (st : Option Nat) (s : State) :
    s.dev.log.count < ((logC code sev unit ds st).run s).dev.log.count := by
  rcases logC_count code sev unit ds st s with h | h <;> omega

/-- The act takes no record back. -/
def Act.keepsCount : Act → Prop
  | .dev f => ∀ d, d.log.count ≤ (f d).log.count
  | _ => True

theorem Prog.Only.count_le {p : Prog} (h : p.Only Act.keepsCount) (s : State) : s.dev.log.count ≤ (p.run s).dev.log.count := by
  refine h.run (R := fun s t => s.dev.log.count ≤ t.dev.log.count) (fun _ => le_refl _) (fun h k => le_trans h k) (fun a s ha => ?_) s
  cases a with
  | dev f => exact ha s.dev
  | _ => exact le_refl _

theorem OnlyLogs.tile {s u : State} (h : OnlyLogs s u) (t : Nat) : u.tile t = s.tile t := by
  rw [State.tile, h.dev]; rfl

theorem OnlyLogs.fld {s u : State} (h : OnlyLogs s u) {f : Fld} (hf : f.off ∉ logRegs) : u.fld f = s.fld f :=
  State.fld_of_word (h.regs _ hf)

end Sys2Proof.Machine
end

section
/-!
Conversions and stochastic rounding (R388 to R391), reductions, permutations and recipes (R130 to R134).
-/
namespace Sys2Proof.Machine

/-! ## What a word's fields are -/

/-- The reserved fields of an instruction that issues are zero. -/
theorem State.issues_fieldsOk {s : State} {t k w : Nat} {op : TOp} (h : s.issues t k op w = true) : fieldsOk op w = true := by
  obtain ⟨hk, hw, hw', ho, hf⟩ := State.issues_bundle h
  have h0 : opOf 0 = some .nop := by decide
  by_contra hne
  have hne : fieldsOk op w = false := by simpa using hne
  rcases hk with rfl | rfl
  · simp only [Nat.sub_zero] at hw'
    simp only [State.bundleFault, hw, ho, hne] at hf
    split at hf <;> cases hf
  · simp only [Nat.sub_self] at hw'
    simp only [State.bundleFault, hw, hw', ho, h0, hne] at hf
    split at hf
    · cases hf
    split at hf
    · cases hf
    split at hf
    · cases hf
    split at hf
    · cases hf
    · cases hf

theorem classOf_i2f {w : Nat} (h : opOf w = some .i2f) : classOf w = 8 := by
  have none_of : ∀ {l : List TOp} {i : Nat}, l[i]? = some .i2f → .i2f ∈ l := fun h => List.mem_of_getElem? h
  unfold opOf at h
  split at h
  case h_1 | h_4 | h_5 | h_7 | h_8 | h_10 | h_12 | h_13 => exact absurd (none_of h) (by decide)
  case h_2 => dsimp only at h; split at h <;> simp_all; split at h <;> simp_all
  case h_3 => split at h <;> simp_all
  case h_6 => split at h <;> exact absurd (none_of h) (by decide)
  case h_9 => assumption
  all_goals cases h

/-- I2F has no BS. -/
theorem State.issues_i2f {s : State} {t k w : Nat} (h : s.issues t k .i2f w = true) : fBs w = false := by
  obtain ⟨-, -, -, ho, -⟩ := State.issues_bundle h
  have hf := State.issues_fieldsOk h
  simp only [fieldsOk, classOf_i2f ho] at hf
  simp at hf
  exact hf.2

/-! ## Conversions -/

theorem instrEff_convert {op : TOp} (hop : op ∈ vcvtOps) (s : State) (t mode w : Nat) :
    instrEff s t mode op w = goOn (vconvert t (s.tile t) (fmodeOf mode) op w) := by
  fin_cases hop <;> rfl

theorem vconvert_only (t : Nat) (x : Tile) (md : FMode) (op : TOp) {w : Nat} (hbs : fBs w = false) :
    (vconvert t x md op w).Only (Act.tileOnly t [tileReg t 0x088]) := by
  have draw : ∀ f : (Nat → Nat) → Nat → Nat × Raised, (drawElems fun free => writeVector t x w (f free)).Only
      (Act.tileOnly t [tileReg t 0x088]) := fun f _ => ⟨trivial, writeVector_only t x w _, trivial⟩
  intro s
  simp only [hbs, Bool.false_eq_true, if_false]
  split
  · exact writeVector_only t x w _
  split
  · exact draw _
  · exact draw _

theorem vconvert_i2f (s : State) (t : Nat) (md : FMode) {w : Nat} (hbs : fBs w = false) :
    (vconvert t (s.tile t) md .i2f w).SetsVector s t (fVD w) (fMen w) (fZm w) (fMask w)
      (fun i => (ofInt md ((s.tile t).elem (fVA w) i)).1)
      (raisedAll (((s.tile t).taking (fMen w) (fMask w)).map fun i => (ofInt md ((s.tile t).elem (fVA w) i)).2)) := by
  have h := writeVector_setsVector s t w fun i => ofInt md ((s.tile t).elem (fVA w) i)
  have hrun : (vconvert t (s.tile t) md .i2f w).run s =
      (writeVector t (s.tile t) w fun i => ofInt md ((s.tile t).elem (fVA w) i)).run s := by
    simp [vconvert, hbs]
  exact ⟨vconvert_only t _ md _ hbs, hrun ▸ h.tile, hrun ▸ h.flags⟩

/-- A conversion to an integer or a narrower format; what the spec leaves open is drawn. -/
def convertElem (op : TOp) (md : FMode) (free a : Nat) : Nat × Raised :=
  if op = .f2i then toInt md 32 free a else roundVia (vcvtFormat op) md free a

theorem vconvert_drawn {op : TOp} (hop : op ∈ [TOp.f2i, .rbf16, .rfp16, .re4m3, .re5m2]) (s : State) (t : Nat) (md : FMode) {w : Nat}
    (hbs : fBs w = false) : ∃ free : Nat → Nat,
    (vconvert t (s.tile t) md op w).SetsVector s t (fVD w) (fMen w) (fZm w) (fMask w)
      (fun i => (convertElem op md (free i) ((s.tile t).elem (fVA w) i)).1)
      (raisedAll (((s.tile t).taking (fMen w) (fMask w)).map fun i =>
        (convertElem op md (free i) ((s.tile t).elem (fVA w) i)).2)) := by
  refine ⟨fun i => (Config.freeElem s.free i).toNat, ?_⟩
  have h := (writeVector_setsVector (Act.draw.apply s) t w fun i =>
    convertElem op md (Config.freeElem s.free i).toNat ((s.tile t).elem (fVA w) i)).after_draw
  have hrun : (vconvert t (s.tile t) md op w).run s = (all [.act .draw, writeVector t (s.tile t) w fun i =>
      convertElem op md (Config.freeElem s.free i).toNat ((s.tile t).elem (fVA w) i)]).run s := by
    fin_cases hop <;> simp [vconvert, hbs, drawElems, convertElem]
  exact ⟨vconvert_only t _ md _ hbs, hrun ▸ h.tile, hrun ▸ h.flags⟩

/-! ## Stochastic rounding -/

/-- The random number of element `i` of tile `t` (R389). -/
def State.srWordOf (s : State) (t i : Nat) : Nat :=
  srWord (s.word (tileReg t 0x150)).toNat (s.word (tileReg t 0x154)).toNat (s.word (tileReg t 0x158)).toNat i

theorem State.fld_whole (s : State) (off : Nat) : s.fld ⟨off, 0, 32⟩ = (s.word off).toNat := by
  rw [State.fld, bitsOf_zero, Nat.mod_eq_of_lt (BitVec.isLt _)]

theorem vconvert_sr {w : Nat} (hbs : fBs w = true) (s : State) (t : Nat) (x : Tile) (md : FMode) (op : TOp) :
    (vconvert t x md op w).run s = (srStep t).run
      ((writeVector t x w fun i => roundSr (vcvtFormat op) md (s.srWordOf t i) (x.elem (fVA w) i)).run s) := by
  simp only [vconvert, Prog.run_look, hbs, if_true, State.fld_whole]
  rfl

theorem tileReg_not_log (t o : Nat) : tileReg t o ∉ logRegs := by
  intro h
  have hlog : ∀ o ∈ logRegs, o < 0x100000 := by decide
  have := hlog _ h
  rw [tileReg] at this
  omega

/-- The record of a wrapped counter, and the mark that it has been made. -/
def srWrap (t : Nat) : Prog :=
  look fun s => all [modTile t fun x => { x with srWrapped := true }, logC 0x5003 0 (t / 16) [t / 16, t % 16] (s.tile t).stream]

/-- What a step of the counter of stochastic rounding leaves (R389, R391). -/
structure SrStepped (t : Nat) (s u : State) : Prop where
  word : u.word (tileReg t 0x158) = s.word (tileReg t 0x158) + 1
  tile : ∃ b, u.tile t = { s.tile t with srWrapped := b }
  wrap : (s.word (tileReg t 0x158)).toNat = 2 ^ 32 - 1 → (s.tile t).srWrapped = false →
    u.dev.log.count = s.dev.log.count + 1 ∨ u.dev.log.count = s.dev.log.count + 2
  log : (s.word (tileReg t 0x158)).toNat ≠ 2 ^ 32 - 1 → u.dev.log = s.dev.log
  bytes : u.mem = s.mem
  regs : SameRegsBut s u (tileReg t 0x158 :: logRegs)

theorem srStep_stepped (t : Nat) (s : State) : SrStepped t s ((srStep t).run s) := by
  have hword : BitVec.ofNat 32 ((s.word (tileReg t 0x158)).toNat + 1) = s.word (tileReg t 0x158) + 1 := by
    rw [BitVec.ofNat_add, ofNat_toNat_word]
    rfl
  obtain ⟨v, hv⟩ : ∃ v, v = (setWord (tileReg t 0x158) ((s.word (tileReg t 0x158)).toNat + 1)).run s := ⟨_, rfl⟩
  have hvw : ∀ o, v.word o = if o = tileReg t 0x158 then s.word (tileReg t 0x158) + 1 else s.word o := fun o => by
    rw [hv, Prog.run_setWord, State.word_reg, hword]
  have hvd : v.dev = s.dev := by rw [hv]; rfl
  have hvm : v.mem = s.mem := by rw [hv]; rfl
  have hrun : (srStep t).run s = (when ((s.word (tileReg t 0x158)).toNat == 2 ^ 32 - 1 && !(s.tile t).srWrapped)
      (all [modTile t fun x => { x with srWrapped := true }, logC 0x5003 0 (t / 16) [t / 16, t % 16] (s.tile t).stream])).run v := by
    rw [hv]
    simp only [srStep, Prog.run_look, State.fld_whole, Prog.run_all_cons, Prog.run_all_nil]
  rw [hrun]
  by_cases hc : (s.word (tileReg t 0x158)).toNat = 2 ^ 32 - 1 ∧ (s.tile t).srWrapped = false
  · have hcond : ((s.word (tileReg t 0x158)).toNat == 2 ^ 32 - 1 && !(s.tile t).srWrapped) = true := by simp [hc.1, hc.2]
    rw [hcond, Prog.run_when, if_pos rfl, Prog.run_all_cons, Prog.run_all_cons, Prog.run_all_nil]
    obtain ⟨x, hx⟩ : ∃ x, x = (modTile t fun x => { x with srWrapped := true }).run v := ⟨_, rfl⟩
    rw [← hx]
    have hl := (logC_onlyLogs 0x5003 0 (t / 16) [t / 16, t % 16] (s.tile t).stream).onlyLogs x
    have hxw : ∀ o, x.word o = v.word o := fun o => by rw [hx]; rfl
    have hxt : x.tile t = { s.tile t with srWrapped := true } := by
      rw [hx, State.tile_modTile_same, State.tile, hvd]; rfl
    have hxl : x.dev.log = s.dev.log := by rw [hx, ← hvd]; rfl
    refine ⟨?_, ⟨true, by rw [hl.tile, hxt]⟩, fun _ _ => ?_, fun h => absurd hc.1 h, ?_, fun o ho => ?_⟩
    · rw [hl.regs _ (tileReg_not_log t _), hxw, hvw, if_pos rfl]
    · rw [← hxl]
      exact logC_count _ _ _ _ _ x
    · rw [hl.mem, hx, ← hvm]; rfl
    · rw [List.mem_cons, not_or] at ho
      rw [hl.regs o ho.2, hxw, hvw, if_neg ho.1]
  · have hcond : ((s.word (tileReg t 0x158)).toNat == 2 ^ 32 - 1 && !(s.tile t).srWrapped) = false := by
      rw [Bool.eq_false_iff]
      simpa using hc
    rw [hcond, Prog.run_when, if_neg (by decide)]
    refine ⟨by rw [hvw, if_pos rfl], ⟨(s.tile t).srWrapped, by rw [State.tile, hvd]; rfl⟩, fun h1 h2 => absurd ⟨h1, h2⟩ hc,
      fun _ => by rw [hvd], hvm, fun o ho => ?_⟩
    rw [List.mem_cons, not_or] at ho
    rw [hvw, if_neg ho.1]

theorem tileReg_ne {t a b : Nat} (h : a ≠ b) : tileReg t a ≠ tileReg t b := by
  simpa [tileReg] using h

/-- Settles O11: without SR a conversion is a vector instruction; with SR the step of the counter follows it. -/
theorem vectorConversions : Obligations.VectorConversions := by
  refine ⟨fun s t k w h => ?_, fun s t k w op hop h hbs => ?_, fun s t k w op hop h hbs => ?_⟩
  · refine (completes_vector h (by decide) (instrEff_convert (by decide) s t _ w)
      (vconvert_i2f s t _ (State.issues_i2f h))).mono ?_
    rintro u ⟨hg, -, ⟨hs, hw, hgo⟩, ho, hr, -⟩
    exact ⟨hg, hs, hw, hgo, ho, hr⟩
  · have hne : op ≠ .end_ := by rintro rfl; simp at hop
    have hmem : op ∈ vcvtOps := by fin_cases hop <;> decide
    obtain ⟨free, hq⟩ := vconvert_drawn hop s t (fmodeOf ((s.tile t).seenMode false)) hbs
    refine (completes_vector h hne (instrEff_convert hmem s t _ w) hq).mono ?_
    rintro u ⟨hg, -, ⟨hs, hw, hgo⟩, ho, hr, -⟩
    refine ⟨⟨free, ?_⟩, hs, hw, hgo, ho, hr⟩
    have hconv : ∀ i, (convertElem op (fmodeOf ((s.tile t).seenMode false)) (free i) ((s.tile t).elem (fVA w) i)).1 =
        if op = .f2i then (toInt (fmodeOf ((s.tile t).seenMode false)) 32 (free i) ((s.tile t).elem (fVA w) i)).1
        else (roundVia (vcvtFormat op) (fmodeOf ((s.tile t).seenMode false)) (free i) ((s.tile t).elem (fVA w) i)).1 := fun i => by
      rw [convertElem]
      split <;> rfl
    simpa only [hconv] using hg
  · have hne : op ≠ .end_ := by rintro rfl; simp at hop
    have hmem : op ∈ vcvtOps := by fin_cases hop <;> decide
    have hq := writeVector_setsVector s t w fun i =>
      roundSr (vcvtFormat op) (fmodeOf ((s.tile t).seenMode false)) (s.srWordOf t i) ((s.tile t).elem (fVA w) i)
    have hrun := vconvert_sr hbs s t (s.tile t) (fmodeOf ((s.tile t).seenMode false)) op
    obtain ⟨v, hv⟩ : ∃ v, v = (writeVector t (s.tile t) w fun i =>
      roundSr (vcvtFormat op) (fmodeOf ((s.tile t).seenMode false)) (s.srWordOf t i) ((s.tile t).elem (fVA w) i)).run s := ⟨_, rfl⟩
    rw [← hv] at hrun
    obtain ⟨honly, hregs⟩ := hq.only.onlyTile s
    rw [← hv] at honly hregs
    have hctr : v.word (tileReg t 0x158) = s.word (tileReg t 0x158) := hregs _ (by simpa using tileReg_ne (by decide))
    have hlog : v.dev.log = s.dev.log := by
      have := congrArg Dev.log honly.dev
      exact this
    have hst := srStep_stepped t v
    rw [← hrun] at hst
    obtain ⟨hword, ⟨b, htile⟩, hwrap, hsame, hmem', hr⟩ := hst
    have hvt := hq.tile
    rw [← hv] at hvt
    rw [hvt] at htile
    refine completes_of_issues h hne (instrEff_convert hmem s t _ w) ⟨vectorGot_of_vregs ?_ ?_, hword.trans (by rw [hctr]), ?_, ?_,
      (State.afterOne_vectors htile).1, (State.afterOne_vectors htile).2.1, (State.afterOne_vectors htile).2.2, ?_, ?_⟩
    · rw [State.afterOne_vregs, htile]
      rfl
    · rw [State.afterOne_masks, htile]
    · intro hc hw
      have hvw : (v.tile t).srWrapped = false := by rw [hvt]; exact hw
      have := hwrap (by rw [hctr]; exact hc) hvw
      rw [hlog] at this
      exact this
    · intro hc
      exact (hsame (by rw [hctr]; exact hc)).trans hlog
    · intro a
      show ((vconvert t (s.tile t) _ op w).run s).mem.read a = _
      rw [hmem']
      exact honly.bytes a
    · intro o ho
      have hnot : o ∉ tileReg t 0x158 :: logRegs := fun hm => ho (List.mem_cons_of_mem _ hm)
      have hflag : o ∉ [tileReg t 0x088] := fun hm => ho (List.mem_cons.mpr (.inl (List.mem_singleton.mp hm)))
      exact (hr o hnot).trans (hregs o hflag)

end Sys2Proof.Machine
end

section
/-!
Reductions, permutations and recipes (R117, R130, R131, R133, R134).
-/
namespace Sys2Proof.Machine

/-! ## Reductions -/

def reduceOps : List TOp := [.fsum, .fmaxr, .fminr, .isum]

theorem instrEff_reduce {op : TOp} (hop : op ∈ reduceOps) (s : State) (t mode w : Nat) :
    instrEff s t mode op w = goOn (vreduce t (s.tile t) (fmodeOf mode) op w) := by
  fin_cases hop <;> rfl

/-- The value that a reduction leaves in its scalar. -/
def Tile.reduced (x : Tile) (md : FMode) (op : TOp) (w : Nat) : Nat :=
  if op = .fsum then (fsumOf md x (fVA w) (x.taking (fMen w) (fMask w))).1
  else if op = .isum then ((x.taking (fMen w) (fMask w)).map (x.elem (fVA w))).sum
  else (fextremeOf md (op == .fminr) x (fVA w) (x.taking (fMen w) (fMask w))).1

theorem vreduce_eq {op : TOp} (hop : op ∈ reduceOps) (t : Nat) (x : Tile) (md : FMode) (w : Nat) :
    ∃ r, vreduce t x md op w = all [setS32 t (fVSB w) (x.reduced md op w), raiseFlags t r] := by
  fin_cases hop
  · exact ⟨_, rfl⟩
  · exact ⟨_, rfl⟩
  · exact ⟨_, rfl⟩
  · refine ⟨{}, ?_⟩
    rw [Tile.reduced, if_neg (by decide), if_pos rfl, List.sum_eq_foldl]
    rfl

/-- A scalar result with flags: the low half of the scalar holds it. -/
theorem setS32_raiseFlags_setsScalar (s : State) (t n v : Nat) (r : Raised) : ∃ h,
    (all [setS32 t n v, raiseFlags t r]).SetsScalar s t n (v % 2 ^ 32 + 2 ^ 32 * h) [tileReg t 0x088] := by
  obtain ⟨h, hq⟩ := setS32_setsScalar s t n v [tileReg t 0x088]
  refine ⟨h, ⟨hq.only, Prog.only_raiseFlags r List.mem_cons_self, trivial⟩, ?_⟩
  show State.tile ((raiseFlags t r).run _) t = _
  rw [raiseFlags_tile, hq.tile]

theorem low_half_of_sreg {n v h : Nat} (hn : n = (v % 2 ^ 32 + 2 ^ 32 * h) % 2 ^ 64) : n % 2 ^ 32 = v % 2 ^ 32 := by
  omega

/-! ## Permutations -/

theorem instrEff_permute {op : TOp} (hop : op ∈ [TOp.vperm, .vrot, .vbcast, .vext, .vins]) (s : State) (t mode w : Nat) :
    instrEff s t mode op w = goOn (vpermute t (s.tile t) op w) := by
  fin_cases hop <;> rfl

/-- A vector instruction that raises no flag. -/
theorem writeVector_quiet (s : State) (t w : Nat) (f : Nat → Nat) :
    (writeVector t (s.tile t) w fun i => (f i, {})).SetsVector s t (fVD w) (fMen w) (fZm w) (fMask w) f {} ∧
    ((writeVector t (s.tile t) w fun i => (f i, {})).run s).regs = s.regs := by
  have h := writeVector_setsVector s t w fun i => (f i, {})
  rw [raisedAll_none] at h
  refine ⟨h, ?_⟩
  rw [writeVector, raisedAll_none]
  simp only [Prog.run_all_cons, Prog.run_all_nil, raiseFlags_run_none]
  rfl

/-- Results count modulo 2^32, and only those of elements that take part. -/
theorem VectorGot.congr {x y : Tile} {men zm : Bool} {m d : Nat} {f g : Nat → Nat} (h : VectorGot x y men zm m d f)
    (hfg : ∀ i, i < 256 → x.takes men m i = true → f i % 2 ^ 32 = g i % 2 ^ 32) : VectorGot x y men zm m d g :=
  ⟨fun i hi ht => (h.takes i hi ht).trans (hfg i hi ht), h.zeroed, h.kept, h.others, h.masks⟩

/-- The element that VROT takes for element `i`. -/
def Tile.rotFrom (x : Tile) (w i : Nat) : Nat := Config.vrotFrom x.vl (BitVec.ofNat 64 (x.sreg (fVSB w))) i

/-- VPERM, VROT and VBCAST: where each element comes from. -/
def Tile.permuted (x : Tile) (op : TOp) (w i : Nat) : Nat :=
  if op = .vperm then x.elem (fVA w) (x.elem (fVB w) i % 256)
  else if op = .vbcast then x.sreg (fVSB w) % 2 ^ 32 else x.elem (fVA w) (x.rotFrom w i % 256)

theorem vpermute_eq {op : TOp} (hop : op ∈ [TOp.vperm, .vrot, .vbcast]) (t : Nat) (x : Tile) (w : Nat) :
    vpermute t x op w = writeVector t x w fun i => (x.permuted op w i, {}) := by
  fin_cases hop <;> rfl

/-! ## Recipes -/

/-- Without poison in its table entry RCP applies a defined recipe. The operation stays a variable until the tests are abstract:
the kernel would evaluate them. -/
theorem instrEff_rcp {s : State} {t w mode : Nat} {op : TOp} (hop : op = .rcp)
    (hp : s.poisonAt t 256 [recipeAt (s.tile t) w] = none) : instrEff s t mode op w =
      if bitsOf (s.recipeHdr t w) 15 1 = 1 && (s.microOps t w).all microOk then
        .go (applyRecipe s t (fmodeOf mode) w) (wordsAt (recipeAt (s.tile t) w) 256)
      else .fault .recipeUndef (some (recipeAt (s.tile t) w)) := by
  unfold instrEff
  dsimp only
  rw [hp]
  generalize bitsOf (s.recipeHdr t w) 15 1 = d
  subst hop
  rfl

theorem instrEff_recipe {s : State} {t k w : Nat} (h : s.issues t k .rcp w = true)
    (hp : s.poisonAt t 256 [recipeAt (s.tile t) w] = none) :
    instrEff s t ((s.tile t).seenMode false) .rcp w =
      .go (applyRecipe s t (fmodeOf ((s.tile t).seenMode false)) w) (wordsAt (recipeAt (s.tile t) w) 256) := by
  have hne := State.issues_no_fault h .recipeUndef (some (recipeAt (s.tile t) w))
  rw [instrEff_rcp rfl hp] at hne ⊢
  split at hne
  · next hok => rw [if_pos hok]
  · exact absurd rfl hne

theorem find_tagged {α : Type} (l : List Nat) (g : Nat → α) {i : Nat} (hi : i ∈ l) :
    (l.map fun i => (i, g i)).find? (fun o => o.1 == i) = some (i, g i) := by
  induction l with
  | nil => cases hi
  | cons a l ih =>
    by_cases e : a = i
    · simp [e]
    · have : i ∈ l := (List.mem_cons.mp hi).resolve_left (Ne.symm e)
      simp [e, ih this]

/-- One micro-operation that takes input 0 for every source and leaves its result in temporary 0. -/
theorem microStep_single {md : FMode} {read : List Nat → Nat → Nat} {m a : Nat} {op : TOp} (hread : read (List.replicate 8 0) 8 = a)
    (hop : fpOps[bitsOf m 26 6]? = some op) (hd : bitsOf m 23 3 = 0) (h1 : bitsOf m 18 5 = 8) (h2 : bitsOf m 13 5 = 8)
    (h3 : bitsOf m 8 5 = 8) :
    ((microStep md read (List.replicate 8 0, {}) m).1).getD 0 0 = (fpElem op md a a a).1 := by
  have hlt : bitsOf m 26 6 < 16 := (List.getElem?_eq_some_iff.mp hop).1
  have hget : fpOps.getD (bitsOf m 26 6) .fmov = op := by rw [List.getD_eq_getElem?_getD, hop]; rfl
  simp only [microStep, h1, h2, h3, hd, hlt, if_true, hget, hread]
  rfl

theorem microOps_single {s : State} {t w : Nat} (h : bitsOf (s.recipeHdr t w) 0 5 = 0) :
    s.microOps t w = [(s.microOps t w).headD 0] := by
  simp [State.microOps, h]

/-- What a recipe leaves in its temporaries for one element: the fold over its micro-operations. -/
def State.recipeTemps (s : State) (t : Nat) (md : FMode) (w : Nat) (free : Nat → Nat) (i : Nat) : List Nat × Raised :=
  (s.microOps t w).foldl (microStep md fun ts c =>
    if c < 8 then ts.getD c 0
    else if c < 12 then
      (if c - 8 ≤ bitsOf (s.recipeHdr t w) 5 2 then (s.tile t).elem (rIn w (c - 8)) i else free (4 * i + c - 8))
    else s.recipeConst t w (c - 16)) (List.replicate 8 0, {})

/-- The result of element `i` in the first output. -/
def State.recipeOut (s : State) (t : Nat) (md : FMode) (w : Nat) (free : Nat → Nat) (i : Nat) : Nat :=
  (((((s.tile t).taking (fMen w) (fMask w)).map fun i => (i, s.recipeTemps t md w free i)).find? fun o => o.1 == i).map
    fun o => o.2.1).getD [] |>.getD (bitsOf (s.recipeHdr t w) 8 3) 0

def State.recipeFlags (s : State) (t : Nat) (md : FMode) (w : Nat) (free : Nat → Nat) : Raised :=
  raisedAll ((((s.tile t).taking (fMen w) (fMask w)).map fun i => (i, s.recipeTemps t md w free i)).map fun o => o.2.2)

/-- A recipe with one output writes that output and raises flags. -/
theorem applyRecipe_setsVector (s : State) (t : Nat) (md : FMode) {w : Nat} (h1 : bitsOf (s.recipeHdr t w) 7 1 = 0) :
    ∃ free r, (applyRecipe s t md w).SetsVector s t (rOut w 0) (fMen w) (fZm w) (fMask w) (s.recipeOut t md w free) r := by
  obtain ⟨free, hfree⟩ : ∃ free : Nat → Nat, free = fun i => (Config.freeElem s.free i).toNat := ⟨_, rfl⟩
  have hq := (setV_raiseFlags_setsVector (Act.draw.apply s) t (rOut w 0) (fMen w) (fZm w) (fMask w)
    (s.recipeOut t md w free) (s.recipeFlags t md w free)).after_draw
  have hrun : (applyRecipe s t md w).run s = (all [.act .draw, all [setV t (rOut w 0) ((s.tile t).results (fMen w) (fZm w) (fMask w)
      (s.recipeOut t md w free)), raiseFlags t (s.recipeFlags t md w free)]]).run s := by
    rw [applyRecipe, h1, hfree]
    rfl
  refine ⟨free, s.recipeFlags t md w free, fun u => ⟨trivial, ⟨Prog.only_setV _, ?_, Prog.only_raiseFlags _ List.mem_cons_self, trivial⟩,
    trivial⟩, ?_, ?_⟩
  · rw [h1]
    trivial
  · rw [hrun]
    exact hq.tile
  · rw [hrun]
    exact hq.flags

/-- A recipe of one micro-operation on its one input gives that operation's result on each element that takes part. -/
theorem recipeOut_single {s : State} {t w i : Nat} {md : FMode} {op : TOp} {free : Nat → Nat}
    (h0 : bitsOf (s.recipeHdr t w) 0 5 = 0) (h8 : bitsOf (s.recipeHdr t w) 8 3 = 0)
    (hop : fpOps[bitsOf ((s.microOps t w).headD 0) 26 6]? = some op) (hd : bitsOf ((s.microOps t w).headD 0) 23 3 = 0)
    (ha : bitsOf ((s.microOps t w).headD 0) 18 5 = 8) (hb : bitsOf ((s.microOps t w).headD 0) 13 5 = 8)
    (hc : bitsOf ((s.microOps t w).headD 0) 8 5 = 8) (hi : i ∈ (s.tile t).taking (fMen w) (fMask w)) :
    s.recipeOut t md w free i = (fpElem op md ((s.tile t).elem (rIn w 0) i) ((s.tile t).elem (rIn w 0) i)
      ((s.tile t).elem (rIn w 0) i)).1 := by
  rw [State.recipeOut, find_tagged _ _ hi, h8, State.recipeTemps, microOps_single h0, List.foldl_cons, List.foldl_nil]
  rw [Option.map_some, Option.getD_some]
  generalize s.microOps t w = ms at *
  rw [microStep_single (a := (s.tile t).elem (rIn w 0) i) ?_ hop hd ha hb hc]
  simp

/-! ## VEXT and VINS -/

theorem drawFree_setS32_setsScalar (s : State) (t n : Nat) (f : Nat → Nat) : ∃ k h, k < 256 ∧
    (drawFree 8 fun k => setS32 t n (f k)).SetsScalar s t n (f k % 2 ^ 32 + 2 ^ 32 * h) [] := by
  obtain ⟨h, hq⟩ := setS32_setsScalar (Act.draw.apply s) t n (f ((Config.freeWord s.free).toNat % 2 ^ 8)) []
  exact ⟨_, h, Nat.mod_lt _ (by decide), Prog.only_drawFree trivial fun _ => Prog.only_drawFree trivial fun _ => Prog.only_setS, hq.tile⟩

/-- VINS writes at most one element. -/
theorem vins_tile (s : State) (t w : Nat) : ∃ k, k < 256 ∧ ((vpermute t (s.tile t) .vins w).run s).tile t = { s.tile t with
    vregs := if (s.tile t).takes (fMen w) (fMask w) k
      then putElems (fVD w) [(k, (s.tile t).sreg (fVSB w) % 2 ^ 32)] (s.tile t).vregs else (s.tile t).vregs } := by
  refine ⟨(Config.freeWord s.free).toNat % 2 ^ 8, Nat.mod_lt _ (by decide), ?_⟩
  show State.tile ((when _ _).run _) t = _
  cases h : (s.tile t).takes (fMen w) (fMask w) ((Config.freeWord s.free).toNat % 2 ^ 8)
  · rfl
  · rw [if_pos rfl]
    exact State.tile_modTile_same (Act.draw.apply s) t
      fun x => { x with vregs := putElems (fVD w) [((Config.freeWord s.free).toNat % 2 ^ 8, (s.tile t).sreg (fVSB w) % 2 ^ 32)] x.vregs }

theorem vins_only (t : Nat) (x : Tile) (w : Nat) : (vpermute t x .vins w).Only (Act.tileOnly t []) := by
  simp only [vpermute]
  refine Prog.only_drawFree (by trivial) fun k => ?_
  rw [Prog.only_when]
  exact fun _ => Prog.only_setV _

theorem putElems_single_elem {x y : Tile} {d k n : Nat} (hy : y.vregs = putElems d [(k, n)] x.vregs) :
    y.elem d k = n % 2 ^ 32 ∧ ∀ v i, i < 256 → k < 256 → v ≠ d ∨ i ≠ k → y.elem v i = x.elem v i := by
  refine ⟨?_, fun v i hi hk h => ?_⟩
  · rw [Tile.elem, hy, putElems_get_mem (i := k) (n := n) (by simp) List.mem_cons_self, BitVec.toNat_ofNat]
  · rw [Tile.elem, hy, putElems_get_other fun p hp e => ?_]
    · rfl
    · obtain rfl := List.mem_singleton.mp hp
      simp only at e
      omega

/-- Settles O12: each row through the effect that it names; a recipe of one micro-operation is a fold of one step. -/
theorem vectorReductions : Obligations.VectorReductions := by
  refine ⟨fun s t k w op hop h => ?_, fun s t k w op hop h => ?_, fun s t k w h => ?_, fun s t k w h => ?_,
    fun s t k w op h hp h0 h5 h7 h8 hop hd ha hb hc => ?_⟩
  · have hne : op ≠ .end_ := by rintro rfl; simp at hop
    have he := instrEff_reduce hop s t ((s.tile t).seenMode false) w
    obtain ⟨r, hr⟩ := vreduce_eq hop t (s.tile t) (fmodeOf ((s.tile t).seenMode false)) w
    rw [hr] at he
    obtain ⟨x, hq⟩ := setS32_raiseFlags_setsScalar s t (fVSB w) ((s.tile t).reduced (fmodeOf ((s.tile t).seenMode false)) op w) r
    refine (completes_scalar h hne he hq).mono ?_
    rintro u ⟨⟨hd, ho⟩, ⟨hv, hw, hg⟩, hot, hreg, -⟩
    exact ⟨fun h0 => low_half_of_sreg (hd h0), ho, hv, hw, hg, hot, hreg⟩
  · have hne : op ≠ .end_ := by rintro rfl; simp at hop
    have he := instrEff_permute (op := op) (by fin_cases hop <;> decide) s t ((s.tile t).seenMode false) w
    rw [vpermute_eq hop] at he
    obtain ⟨hq, hregs⟩ := writeVector_quiet s t w ((s.tile t).permuted op w)
    refine (completes_vector h hne he hq).mono ?_
    rintro u ⟨hg, -, ⟨hs, hw, hgo⟩, ho, -, hr⟩
    refine ⟨⟨(s.tile t).rotFrom w, hg.congr fun i _ _ => ?_⟩, hs, hw, hgo, ho, hr.trans hregs⟩
    rw [Tile.permuted]
    split_ifs
    · rfl
    · exact Nat.mod_mod _ _
    · rfl
  · have he := instrEff_permute (op := .vext) (by decide) s t ((s.tile t).seenMode false) w
    obtain ⟨j, x, hj, hq⟩ := drawFree_setS32_setsScalar s t (fVSB w) ((s.tile t).elem (fVA w))
    refine (completes_scalar_quiet h (by decide) he hq).mono ?_
    rintro u ⟨hd, hrest⟩
    exact ⟨fun h0 => ⟨j, hj, (low_half_of_sreg (hd h0)).trans (Nat.mod_eq_of_lt (BitVec.isLt _))⟩, hrest⟩
  · have he := instrEff_permute (op := .vins) (by decide) s t ((s.tile t).seenMode false) w
    obtain ⟨j, hj, htile⟩ := vins_tile s t w
    have hq := State.afterOne_quiet (s := s) (t := t) (k := k) (w := w) (op := .vins) (vins_only t (s.tile t) w)
    obtain ⟨hs, hw, hgo⟩ := State.afterOne_vectors (k := k) (w := w) (op := .vins) htile
    refine completes_of_issues h (by decide) he ⟨⟨j, hj, ?_⟩, ?_, hs, hw, hgo, hq.1, hq.2⟩
    · simp only [State.afterOne_elem, htile]
      cases ht : (s.tile t).takes (fMen w) (fMask w) j
      · exact ⟨fun h => absurd h Bool.false_ne_true, fun v i _ _ => rfl⟩
      · obtain ⟨h1, h2⟩ := putElems_single_elem (x := s.tile t) (y := { s.tile t with
          vregs := putElems (fVD w) [(j, (s.tile t).sreg (fVSB w) % 2 ^ 32)] (s.tile t).vregs }) rfl
        exact ⟨fun _ => h1.trans (Nat.mod_mod _ _), fun v i hi hv => h2 v i hi hj hv⟩
    · rw [State.afterOne_masks, htile]
  · obtain ⟨free, r, hq⟩ := applyRecipe_setsVector s t (fmodeOf ((s.tile t).seenMode false)) h7
    refine (completes_vector h (by decide) (instrEff_recipe h hp) hq).mono ?_
    rintro u ⟨hg, -, ⟨hs, hw, hgo⟩, ho, hr, -⟩
    refine ⟨hg.congr fun i hi ht => ?_, hs, hw, hgo, ho, hr⟩
    rw [recipeOut_single h0 h8 hop hd ha hb hc (List.mem_filter.mpr ⟨List.mem_range.mpr hi, ht⟩)]

end Sys2Proof.Machine
end

section
/-!
Frames for parts of the device: a program whose acts keep a part of `Dev` keeps it, and which shared operations keep what.
-/
namespace Sys2Proof.Machine

/-- The act keeps a part of the device. -/
def Act.keeps {α : Type} (g : Dev → α) : Act → Prop
  | .dev f => ∀ d, g (f d) = g d
  | _ => True

section
variable {α : Type} {g : Dev → α}

@[simp] theorem Act.keeps_dev (f : Dev → Dev) : (Act.dev f).keeps g ↔ ∀ d, g (f d) = g d := Iff.rfl
@[simp] theorem Act.keeps_reg (off : Nat) (v : Word) : (Act.reg off v).keeps g := trivial
@[simp] theorem Act.keeps_lose (keep : Nat → FieldSpec → Bool) : (Act.lose keep).keeps g := trivial
@[simp] theorem Act.keeps_bytes (a : Nat) (bs : List Byte) : (Act.bytes a bs).keeps g := trivial
@[simp] theorem Act.keeps_zero (lo hi : Nat) : (Act.zero lo hi).keeps g := trivial
@[simp] theorem Act.keeps_hostBytes (a : Nat) (bs : List Byte) : (Act.hostBytes a bs).keeps g := trivial
@[simp] theorem Act.keeps_draw : Act.draw.keeps g := trivial

theorem Prog.Only.keeps {p : Prog} (h : p.Only (Act.keeps g)) (s : State) : g (p.run s).dev = g s.dev := by
  refine h.run (R := fun s t => g t.dev = g s.dev) (fun _ => rfl) (fun h k => k.trans h) (fun a s ha => ?_) s
  cases a with
  | dev f => exact ha s.dev
  | _ => rfl

/-- What logging does not write, logging keeps. -/
theorem Prog.Only.keeps_of_logs {p : Prog} (h : p.Only Act.logs)
    (hg : ∀ d l o m, g { d with log := l, out := o, marks := m } = g d) : p.Only (Act.keeps g) := by
  refine h.mono fun a ha => ?_
  cases a with
  | dev f =>
    intro d
    rw [(ha d).1]
    exact hg _ _ _ _
  | _ => trivial

end

theorem Prog.Only.tiles {p : Prog} (h : p.Only (Act.keeps Dev.tiles)) (s : State) (t : Nat) : (p.run s).tile t = s.tile t :=
  congrArg (fun l => Sparse.get Tile.blank l t) (h.keeps s)

theorem Prog.Only.slots {p : Prog} (h : p.Only (Act.keeps Dev.slots)) (s : State) (n : Nat) : (p.run s).slot n = s.slot n :=
  congrArg (fun l => Sparse.get SlotDyn.blank l n) (h.keeps s)

theorem Prog.Only.parts {p : Prog} (h : p.Only (Act.keeps Dev.parts)) (s : State) (n : Nat) : (p.run s).part n = s.part n :=
  congrArg (fun l => Sparse.get Part.blank l n) (h.keeps s)

/-- The act leaves every byte of device memory, the host's memory and all registers. -/
def Act.devOnly : Act → Prop
  | .dev _ | .draw => True
  | _ => False

theorem Prog.Only.devOnly {p : Prog} (h : p.Only Act.devOnly) (s : State) :
    (p.run s).mem = s.mem ∧ (p.run s).regs = s.regs ∧ (p.run s).host = s.host := by
  refine h.run (R := fun s t => t.mem = s.mem ∧ t.regs = s.regs ∧ t.host = s.host) (fun _ => ⟨rfl, rfl, rfl⟩)
    (fun h k => ⟨k.1.trans h.1, k.2.1.trans h.2.1, k.2.2.trans h.2.2⟩) (fun a s ha => ?_) s
  cases a with
  | dev f => exact ⟨rfl, rfl, rfl⟩
  | draw => exact ⟨rfl, rfl, rfl⟩
  | _ => exact ha.elim

theorem Prog.Only.sparesMem_of_logs {p : Prog} (h : p.Only Act.logs) : p.Only Act.sparesMem :=
  h.mono fun a ha => by cases a <;> first | exact ha.elim | trivial

theorem Prog.Only.sparesHost_of_logs {p : Prog} (h : p.Only Act.logs) : p.Only Act.sparesHost :=
  h.mono fun a ha => by cases a <;> first | exact ha.elim | trivial

theorem Prog.Only.sparesReg_of_logs {p : Prog} (h : p.Only Act.logs) {off : Nat} (ho : off ∉ logRegs) : p.Only (Act.sparesReg off) :=
  h.mono fun a ha => by
    cases a with
    | reg o v => exact fun e => ho (e ▸ ha)
    | lose k => exact ha.elim
    | _ => trivial

theorem Prog.run_each_append {α : Type} (l k : List α) (f : α → Prog) (s : State) :
    (each (l ++ k) f).run s = (each k f).run ((each l f).run s) := by
  rw [each, List.map_append, Prog.run_all_append]
  rfl

theorem storeBytes_mem (a : Nat) (bs : List Byte) (s : State) : ((storeBytes a bs).run s).mem = s.mem.writes a bs := rfl

theorem storeBytes_keeps {α : Type} {g : Dev → α} (a : Nat) (bs : List Byte) (hg : ∀ d p, g { d with poison := p } = g d) :
    (storeBytes a bs).Only (Act.keeps g) := ⟨trivial, fun d => hg d _, trivial⟩

end Sys2Proof.Machine
end

section
/-!
Bundles that wait, that end the program and that a breakpoint stops, and what turns the sequencer (R117 to R120, R123, R124, R137,
R141, R217).
-/
namespace Sys2Proof.Machine

/-! ## From the command to the bundle -/

/-- A bundle that can be fetched is executed. -/
theorem issue_run_execute {s : State} {t k w : Nat} {op : TOp} (h : s.issuable t k op w = true) :
    (issue t { slot := k } op).run s = (executeBundle t [] .none).run s := by
  simp only [State.issuable, State.fetches, Bool.and_eq_true, beq_iff_eq, decide_eq_true_eq, Option.isNone_iff_eq_none,
    Bool.not_eq_true', List.isEmpty_iff] at h
  obtain ⟨⟨⟨⟨⟨⟨⟨hr, hrun⟩, hk⟩, hw⟩, -⟩, ho⟩, ⟨hd, -⟩, hpo⟩, -⟩ := h
  have hn : s.names t k op = true := by simp [State.names, hw, ho]
  have bad : s.poisonAt t 8 (if s.fetchOk t then [(s.tile t).bundleAt, (s.tile t).bundleAt + 8] else []) = none := by
    split
    · exact hpo
    · rfl
  have run : (issue t { slot := k } op).run s = (runBundle t [] .none).run s := by simp [issue, hrun, hk, hr, hn]
  rw [run]
  simp only [runBundle, Prog.run_look, hd, List.isEmpty_nil, Bool.not_true, Bool.false_eq_true, if_false, Prog.run_all_cons,
    Prog.run_all_nil]
  rw [tmemErrors_none _ _ _ _ fun _ _ => rfl]
  simp only [bad]

/-- A breakpoint halts the tile before the bundle. -/
theorem executeBundle_run_breaks {s : State} {t k w : Nat} {op : TOp} (h : s.issuable t k op w = true) (hb : s.breaks t = true) :
    (executeBundle t [] .none).run s = (haltAt t true).run s := by
  simp only [State.issuable, State.fetches, Bool.and_eq_true, beq_iff_eq, Option.isNone_iff_eq_none, Bool.not_eq_true'] at h
  obtain ⟨⟨-, ⟨-, hst⟩, -⟩, hf⟩ := h
  simp only [executeBundle, Prog.run_look, hst, hf, hb, Bool.not_false, Bool.true_and, if_true]

/-- The words of the bundle that issues, and its steps up to the effects of its instructions. -/
theorem executeBundle_run {s : State} {t k w : Nat} {op : TOp} (h : s.issues t k op w = true)
    (hm : ∀ p m, instrEff s t ((s.tile t).seenMode false) op w = .go p m → m = []) :
    (executeBundle t [] .none).run s = if k = 0
      then (runSlots t op .nop w 0 (instrEff s t ((s.tile t).seenMode false) op w) (goOn .nop)).run s
      else (runSlots t .nop op 0 w (goOn .nop) (instrEff s t ((s.tile t).seenMode false) op w)).run s := by
  obtain ⟨hk, hw, hw', ho, hf⟩ := State.issues_bundle h
  simp only [State.issues, State.issuable, State.fetches, Bool.and_eq_true, Bool.not_eq_true'] at h
  obtain ⟨⟨⟨-, ⟨-, hst⟩, -⟩, -⟩, hb⟩ := h
  have o0 : opOf 0 = some .nop := by decide
  have en : instrEff s t ((s.tile t).seenMode false) .nop 0 = goOn .nop := rfl
  simp only [executeBundle, Prog.run_look, hst, hf, hb, Bool.not_false, Bool.true_and, Bool.false_eq_true, if_false]
  have touched : ∀ f0 f1 : Eff, (∀ p m, f0 = .go p m → m = []) → (∀ p m, f1 = .go p m → m = []) → touchedBy f0 f1 = [] := by
    intro f0 f1 h0 h1
    cases f0 <;> cases f1 <;> try rfl
    simp only [touchedBy, h0 _ _ rfl, h1 _ _ rfl, List.append_nil]
  have nopm : ∀ p m, goOn Prog.nop = .go p m → m = [] := fun p m e => by cases e; rfl
  rcases hk with rfl | rfl
  · simp only [Nat.sub_zero] at hw'
    simp only [hw, hw', ho, o0, Option.getD_some, en, touched _ _ hm nopm, Prog.run_all_cons, Prog.run_all_nil, if_true]
    rw [tmemErrors_none _ _ _ _ fun _ ha => absurd ha List.not_mem_nil]
    rfl
  · simp only [Nat.sub_self] at hw'
    simp only [hw, hw', ho, o0, Option.getD_some, en, touched _ _ nopm hm, Prog.run_all_cons, Prog.run_all_nil]
    rw [tmemErrors_none _ _ _ _ fun _ ha => absurd ha List.not_mem_nil, if_neg (by decide)]
    rfl

theorem State.issues_issuable {s : State} {t k w : Nat} {op : TOp} (h : s.issues t k op w = true) : s.issuable t k op w = true := by
  simp only [State.issues, Bool.and_eq_true] at h
  exact h.1

/-- An instruction that waits for work that is unfinished leaves the state as it is. -/
theorem completes_wait {s : State} {t k w : Nat} {op : TOp} (h : s.issues t k op w = true)
    (hp : instrEff s t ((s.tile t).seenMode false) op w = .wait 0) : Completes (tileCmd op t k) s fun u => u = s := by
  refine ⟨_, exec_tileCmd op t k s, ?_⟩
  rw [issue_run_execute (State.issues_issuable h), executeBundle_run h (fun p m e => by rw [hp] at e; cases e), hp]
  split <;> rfl

/-- END goes on to the end of the program. -/
theorem issue_run_end {s : State} {t w : Nat} (h : s.issues t 0 .end_ w = true)
    (hp : instrEff s t ((s.tile t).seenMode false) .end_ w = goOn .nop) :
    (issue t { slot := 0 } .end_).run s = (endProgram t).run (s.afterOne t 0 .end_ w .nop) := by
  rw [issue_run_execute (State.issues_issuable h), executeBundle_run h (fun p m e => by rw [hp] at e; cases e; rfl), hp, if_pos rfl]
  rfl

/-! ## What turns the sequencer -/

/-- None of the causes that concern the bundle as a whole holds of an instruction in slot 0 that issues. -/
theorem State.issues_no_cause {s : State} {t w : Nat} {op : TOp} (h : s.issues t 0 op w = true) :
    ∀ c ∈ (s.tile t).bundleCauses op .nop (s.slotHdr t w) (s.slotHdr t 0) w 0, c.1 = false := by
  obtain ⟨-, hw, hw', ho, hf⟩ := State.issues_bundle h
  have h0 : opOf 0 = some .nop := by decide
  simp only [Nat.sub_zero] at hw'
  simp only [State.bundleFault, hw, hw', ho, h0] at hf
  split at hf
  · cases hf
  split at hf
  · cases hf
  split at hf
  · cases hf
  · next hc =>
    intro c hm
    rw [firstCause, Option.map_eq_none_iff, List.find?_eq_none] at hc
    simpa using hc c hm

/-- A bundle that turns the sequencer or sets the mode stands in no delay slot. -/
theorem State.issues_delay {s : State} {t w : Nat} {op : TOp} (h : s.issues t 0 op w = true)
    (hop : (isBranch op || op == .loop || op == .mset) = true) : (s.tile t).delay = none := by
  have := State.issues_no_cause h _ (List.mem_cons_of_mem _ List.mem_cons_self)
  simpa only [hop, Bool.true_and, Option.isSome_eq_false_iff, Option.isNone_iff_eq_none] using this

/-- Where the sequencer stands after an instruction of slot 0 that leaves the vector lengths alone. -/
theorem State.afterOne_turns {s : State} {t w : Nat} {op : TOp} {p : Prog} {m : Sparse Long}
    (hp : (p.run s).tile t = { s.tile t with sregs := m }) :
    (s.afterOne t 0 op w p).tile t = { s.tile t with sregs := m }.standing ((s.tile t).advance op w) s.now := by
  rw [State.afterOne_tile, hp]
  rfl

/-- An instruction with no effect of its own: the sequencer goes on. -/
theorem completes_idle {s : State} {t k w : Nat} {op : TOp} (h : s.issues t k op w = true) (hop : op ≠ .end_)
    (hp : instrEff s t ((s.tile t).seenMode false) op w = goOn .nop) : Completes (tileCmd op t k) s fun u =>
      SameScalars (s.tile t) (u.tile t) ∧ SameVectors (s.tile t) (u.tile t) ∧ SameWork (s.tile t) (u.tile t) ∧
      GoesOn (s.tile t) (u.tile t) ((s.tile t).after k op w) ∧ OnlyTile s u t ∧ u.regs = s.regs := by
  have hq := State.afterOne_quiet (s := s) (t := t) (k := k) (w := w) (op := op) (p := .nop) trivial
  obtain ⟨hs, hw, hg⟩ := State.afterOne_vectors (s := s) (t := t) (k := k) (w := w) (op := op) (p := .nop)
    (v := (s.tile t).vregs) (m := (s.tile t).masks) (b := (s.tile t).srWrapped) rfl
  refine completes_of_issues h hop hp ⟨hs, ⟨fun _ _ => State.afterOne_elem _ _, State.afterOne_masks⟩, hw, hg, hq.1, hq.2⟩

/-- What an instruction of slot 0 with no effect but on scalars leaves: the sequencer where it turns it. -/
theorem completes_turn {s : State} {t w : Nat} {op : TOp} {p : Prog} {m : Sparse Long} (h : s.issues t 0 op w = true) (hop : op ≠ .end_)
    (hp : instrEff s t ((s.tile t).seenMode false) op w = goOn p) (hq : p.Only (Act.tileOnly t []))
    (ht : (p.run s).tile t = { s.tile t with sregs := m }) : Completes (tileCmd op t 0) s fun u =>
      u.tile t = ({ s.tile t with sregs := m } : Tile).standing ((s.tile t).advance op w) s.now ∧
      OnlyTile s u t ∧ u.regs = s.regs :=
  completes_of_issues h hop hp ⟨State.afterOne_turns ht, State.afterOne_quiet hq⟩

theorem Tile.standing_sameVectors (x y : Tile) (m : Sparse Long) (n : Nat) :
    SameVectors x (({ x with sregs := m } : Tile).standing y n) ∧ SameWork x (({ x with sregs := m } : Tile).standing y n) :=
  ⟨⟨fun _ _ => rfl, rfl⟩, ⟨rfl, rfl, rfl, rfl, rfl⟩⟩

/-- A branch stands in no delay slot, and the bundle after it is one. -/
theorem Tile.advance_branch (x : Tile) {op : TOp} (hop : isBranch op = true) (w : Nat) :
    (x.advance op w).pc = x.pc + 1 ∧ (x.advance op w).delay =
      some { branch := x.pc, next := if (x.branchTo op w).1 then (x.branchTo op w).2 else x.pc + 2, taken := (x.branchTo op w).1 } := by
  simp only [Tile.advance, Tile.proceed, if_pos hop]
  exact ⟨trivial, trivial⟩

theorem slt_ofNat (a b : Long) : a.slt b = decide (signedOf 64 a.toNat < signedOf 64 b.toNat) := by
  rw [signedOf_eq_toInt (by decide), signedOf_eq_toInt (by decide), BitVec.ofNat_toNat, BitVec.ofNat_toNat, BitVec.setWidth_eq,
    BitVec.setWidth_eq]
  rfl

/-- The conditions of BR on 64-bit words. -/
theorem branchTaken_eq (c : Nat) (a b : Long) : branchTaken c a.toNat b.toNat =
    [a == b, a != b, a.slt b, !a.slt b, a.ult b, !a.ult b].getD c true := by
  have heq : (a.toNat == b.toNat) = (a == b) := by
    rw [Bool.eq_iff_iff, beq_iff_eq, beq_iff_eq]
    exact BitVec.toNat_inj
  exact match c with
  | 0 => heq
  | 1 => congrArg (!·) heq
  | 2 => (slt_ofNat a b).symm
  | 3 =>
    show decide (_ ≤ _) = !a.slt b by
      rw [slt_ofNat, ← decide_not]
      exact decide_eq_decide.mpr not_lt.symm
  | 4 => rfl
  | 5 =>
    show decide (_ ≤ _) = !decide (_ < _) by
      rw [← decide_not]
      exact decide_eq_decide.mpr not_lt.symm
  | _ + 6 => rfl

theorem branchGoal_eq (pc w : Nat) : patternOf 14 ((pc : Int) + signedOf 14 (bitsOf w 0 14)) = (BitVec.ofNat 14 pc + BitVec.ofNat 14 w).toNat := by
  rw [signedOf_eq_toInt (by decide), patternOf_eq_toNat, bitsOf_zero]
  congr 1
  rw [BitVec.ofInt_add, show BitVec.ofNat 14 (w % 2 ^ 14) = BitVec.ofNat 14 w from BitVec.eq_of_toNat_eq (by simp), BitVec.ofInt_toInt]
  rfl

/-! ## Loops -/

/-- The tile with its mode, shadow and marks as they stand after the bundle, `mset` being the word of an MSET of it. -/
def Tile.readied (x : Tile) (mset : Option Nat) : Tile :=
  { x with
    shadow := x.nextShadow (mset.map fun v => bitsOf v 48 4),
    mode := match mset with
      | some v => mergeMode (bitsOf v 48 4) x.mode (bitsOf v 0 32)
      | none => x.mode,
    waited := 0, passBp := if x.passBp = some x.pc then none else x.passBp }

theorem Tile.enterLoop_skip {y : Tile} {w : Nat} (h : (y.loopLevel w).count = 0) :
    y.enterLoop w = { y with pc := (y.loopLevel w).stop + 1 } := if_pos h

theorem Tile.enterLoop_go {y : Tile} {w : Nat} (h : (y.loopLevel w).count ≠ 0) :
    y.enterLoop w = { y with
      pc := y.pc + 1, loops := y.loops ++ [y.loopLevel w],
      vlens := if (y.loopLevel w).strip
        then setVlen (y.loops.length + 1) (if (y.loopLevel w).count = 1 then (y.loopLevel w).last else (y.loopLevel w).maxvl) y.vlens
        else y.vlens } := if_neg h

theorem Tile.advance_loop (x : Tile) (w : Nat) :
    ((x.loopLevel w).count = 0 → (x.advance .loop w).pc = (x.loopLevel w).stop + 1 ∧ (x.advance .loop w).loops = x.loops) ∧
    ((x.loopLevel w).count ≠ 0 → (x.advance .loop w).pc = x.pc + 1 ∧ (x.advance .loop w).loops = x.loops ++ [x.loopLevel w] ∧
      (x.advance .loop w).vlens = if (x.loopLevel w).strip
        then setVlen (x.loops.length + 1) (if (x.loopLevel w).count = 1 then (x.loopLevel w).last else (x.loopLevel w).maxvl) x.vlens
        else x.vlens) := by
  have hx : x.advance .loop w = (x.readied none).enterLoop w := rfl
  have hl : (x.readied none).loopLevel w = x.loopLevel w := rfl
  rw [hx]
  constructor <;> intro hc
  · rw [Tile.enterLoop_skip (hl ▸ hc)]
    exact ⟨rfl, rfl⟩
  · rw [Tile.enterLoop_go (hl ▸ hc)]
    exact ⟨rfl, rfl, rfl⟩

/-- A bundle that does not turn the sequencer, outside a delay slot. -/
theorem Tile.advance_undelayed {x : Tile} {op : TOp} (hb : isBranch op = false) (hl : op ≠ .loop) (w : Nat) (hd : x.delay = none) :
    x.advance op w = (x.readied (if op = .mset then some w else none)).goRound := by
  rw [Tile.advance, Tile.proceed.eq_def]
  dsimp only
  rw [if_neg (by simp [hb]), if_neg hl]
  split
  · next d h => cases h.symm.trans hd
  · rfl

theorem Tile.goRound_on {y : Tile} (h : ∀ l, y.loops.getLast? = some l → l.stop ≠ y.pc) : y.goRound = { y with pc := y.pc + 1 } := by
  rw [Tile.goRound]
  split
  · rfl
  · next l hl => rw [if_pos (bne_iff_ne.mpr (h l hl))]

theorem setVlen_getD {k n : Nat} {l : List Nat} (h : k < l.length) (i : Nat) :
    (setVlen k n l).getD i 0 = if i = k then n else l.getD i 0 := by
  rw [setVlen]
  induction l generalizing k i with
  | nil => cases h
  | cons a l ih =>
    cases k with
    | zero => cases i <;> rfl
    | succ k =>
      cases i with
      | zero => rfl
      | succ i =>
        have := ih (Nat.lt_of_succ_lt_succ h) i
        simpa only [modNth, List.getD_cons_succ, Nat.succ.injEq] using this

/-- The tile with the vector length that a SETVL sets. -/
def Tile.withVl (x : Tile) (w : Nat) : Tile :=
  { x with vlens := setVlen x.loops.length (min (if bitsOf w 59 1 = 1 then x.sreg (fSA w) else bitsOf w 0 9) 256) x.vlens }

/-- Settles O15: each row turns the sequencer as its word says, in the delay slot's, the loop's or the vector length's state. -/
theorem sequencerRows : Obligations.SequencerRows := by
  refine ⟨fun s t w h => ?_, fun s t w h => ?_, fun s t w h => ?_, fun s t w h => ?_, fun s t w h hv hd hl => ?_⟩
  · refine (completes_turn h (by decide) rfl (p := .nop) trivial (m := (s.tile t).sregs) rfl).mono ?_
    rintro u ⟨ht, ho, hr⟩
    obtain ⟨hpc, hdel⟩ := (s.tile t).advance_branch (op := .branch) rfl w
    obtain ⟨hv, hw⟩ := (s.tile t).standing_sameVectors ((s.tile t).advance .branch w) (s.tile t).sregs s.now
    rw [ht]
    refine ⟨hpc, hdel.trans ?_, ⟨fun _ => rfl⟩, hv, hw, ho, hr⟩
    simp only [Tile.branchTo, branchGoal_eq, Tile.sreg_eq_toNat, branchTaken_eq]
  · refine (completes_turn h (by decide) rfl Prog.only_setS (m := Sparse.put zeroLong (s.tile t).sregs 31
      (BitVec.ofNat 64 ((s.tile t).pc + 2))) (State.tile_setS s t 31 _)).mono ?_
    rintro u ⟨ht, ho, hr⟩
    obtain ⟨hpc, hdel⟩ := (s.tile t).advance_branch (op := .call) rfl w
    obtain ⟨hv, hw⟩ := (s.tile t).standing_sameVectors ((s.tile t).advance .call w) (Sparse.put zeroLong (s.tile t).sregs 31
      (BitVec.ofNat 64 ((s.tile t).pc + 2))) s.now
    rw [ht]
    refine ⟨hpc, ?_, hdel.trans ?_, fun n hn => ?_, hv, hw, ho, hr⟩
    · exact ((s.tile t).sreg_withSreg_same (n := 31) (by decide) _)
    · simp only [Tile.branchTo, branchGoal_eq, if_true]
    · exact (s.tile t).sreg_withSreg_other hn _
  · refine (completes_turn h (by decide) rfl (p := .nop) trivial (m := (s.tile t).sregs) rfl).mono ?_
    rintro u ⟨ht, ho, hr⟩
    obtain ⟨hpc, hdel⟩ := (s.tile t).advance_branch (op := .ret) rfl w
    obtain ⟨hv, hw⟩ := (s.tile t).standing_sameVectors ((s.tile t).advance .ret w) (s.tile t).sregs s.now
    rw [ht]
    exact ⟨hpc, hdel, ⟨fun _ => rfl⟩, hv, hw, ho, hr⟩
  · refine (completes_turn h (by decide) rfl (p := .nop) trivial (m := (s.tile t).sregs) rfl).mono ?_
    rintro u ⟨ht, ho, hr⟩
    obtain ⟨h0, h1⟩ := (s.tile t).advance_loop w
    obtain ⟨hv, hw⟩ := (s.tile t).standing_sameVectors ((s.tile t).advance .loop w) (s.tile t).sregs s.now
    rw [ht]
    refine ⟨h0, fun hc => ?_, ⟨fun _ => rfl⟩, hv, hw, ho, hr⟩
    obtain ⟨hpc, hloops, hvl⟩ := h1 hc
    refine ⟨hpc, hloops.trans ?_, fun hs h5 h4 => ?_, fun hs => ?_⟩
    · simp only [Tile.loopLevel, ceilDiv, beq_iff_eq]
    · have hk : (s.tile t).loops.length + 1 < (s.tile t).vlens.length := by omega
      have h2 : bitsOf w 58 2 = 2 := by simpa using hs
      have hs' : ((s.tile t).loopLevel w).strip = true := hs
      show (Tile.advance _ _ _).vlens.getD _ _ = _
      rw [hvl, if_pos hs', setVlen_getD hk, if_pos rfl]
      refine if_ctx_congr Iff.rfl (fun h1 => ?_) fun _ => rfl
      simp only [Tile.loopLevel, ceilDiv] at h1 ⊢
      rw [if_pos h2, h1, Nat.sub_self, Nat.zero_mul, Nat.sub_zero]
    · exact hvl.trans (if_neg fun h => Bool.false_ne_true (hs.symm.trans h))
  · have hq : (setvl t (s.tile t) w).Only (Act.tileOnly t []) := by
      rw [setvl]
      exact Prog.only_modTile _
    have ht : (s.afterOne t 0 .setvl w (setvl t (s.tile t) w)).tile t = ((s.tile t).withVl w).standing (((s.tile t).withVl w).advance .setvl w) s.now := by
      rw [State.afterOne_tile, setvl, State.tile_modTile_same]
      rfl
    rw [Tile.advance_undelayed (x := (s.tile t).withVl w) (op := .setvl) rfl (by decide) w hd, Tile.goRound_on (y := ((s.tile t).withVl w).readied _) hl] at ht
    refine completes_of_issues h (by decide) (p := setvl t (s.tile t) w) rfl ?_
    refine ⟨?_, ?_, ?_, ?_, ?_, State.afterOne_quiet hq⟩ <;> rw [ht]
    · rfl
    · show min ((setVlen _ _ _).getD (s.tile t).loops.length 0) 256 = _
      rw [setVlen_getD hv, if_pos rfl, Nat.min_assoc, Nat.min_self]
    · exact ⟨fun _ => rfl⟩
    · exact ⟨fun _ _ => rfl, rfl⟩
    · exact ⟨rfl, rfl, rfl, rfl, rfl⟩

end Sys2Proof.Machine
end

section
/-!
NOP, MSET, FENCE, TICK, END and BRK, and the issue of matrix work and transfers (R115, R117, R123, R137, R141, R152 to R154, R217).
-/
namespace Sys2Proof.Machine

/-! ## MSET -/

theorem classOf_mset {w : Nat} (h : opOf w = some .mset) : classOf w = 0 := by
  have none_of : ∀ {l : List TOp} {i : Nat}, l[i]? = some .mset → .mset ∈ l := fun h => List.mem_of_getElem? h
  unfold opOf at h
  split at h
  case h_1 => assumption
  case h_4 | h_5 | h_7 | h_8 | h_9 | h_10 | h_12 | h_13 => exact absurd (none_of h) (by decide)
  case h_2 => dsimp only at h; split at h <;> simp_all; split at h <;> simp_all
  case h_3 => split at h <;> simp_all
  case h_6 => split at h <;> exact absurd (none_of h) (by decide)
  all_goals cases h

/-- MSET belongs to the control pipe, which slot 1 does not reach. -/
theorem State.issues_mset {s : State} {t k w : Nat} (h : s.issues t k .mset w = true) : k = 0 := by
  obtain ⟨hk, hw, hw', ho, hf⟩ := State.issues_bundle h
  rcases hk with rfl | rfl
  · rfl
  have h0 : opOf 0 = some .nop := by decide
  have hp : pipeOf .mset w = .control := by
    unfold pipeOf
    rw [classOf_mset ho]
    rfl
  have hpair : msetPair .nop .mset = false := rfl
  simp only [Nat.sub_self] at hw'
  simp only [State.bundleFault, hw, hw', ho, h0, hp, hpair] at hf
  split at hf
  · cases hf
  split at hf
  · cases hf
  split at hf
  · cases hf
  split at hf
  · cases hf
  simp at hf

theorem bitsOf_bitsOf {n lo w m : Nat} (h : lo + w ≤ m) : bitsOf (bitsOf n 0 m) lo w = bitsOf n lo w := by
  refine Nat.eq_of_testBit_eq fun i => ?_
  simp only [testBit_bitsOf, Nat.zero_add]
  by_cases hi : i < w
  · rw [decide_eq_true (show lo + i < m by omega), Bool.true_and]
  · rw [decide_eq_false hi, Bool.false_and, Bool.false_and]

/-- One field of a mode as FMASK lets MSET write it. -/
theorem bitsOf_setField_same (c : Bool) (m lo n v : Nat) (h : lo + n ≤ 32) :
    bitsOf (if c then setBits m lo n (bitsOf (bitsOf v 0 32) lo n) else m) lo n = bitsOf (if c then v else m) lo n := by
  cases c
  · rfl
  · rw [if_pos rfl, if_pos rfl, bitsOf_setBits_same, bitsOf_bitsOf h, Nat.mod_eq_of_lt (bitsOf_lt _ _ _)]

theorem bitsOf_setField_other (c : Bool) (m lo n v lo' n' : Nat) (h : lo' + n' ≤ lo ∨ lo + n ≤ lo') :
    bitsOf (if c then setBits m lo n v else m) lo' n' = bitsOf m lo' n' := by
  cases c
  · rfl
  · exact bitsOf_setBits_other _ _ _ _ _ _ h

/-- MSET writes the fields whose bits FMASK sets. -/
theorem mergeMode_fields (fm old w : Nat) :
    bitsOf (mergeMode fm old (bitsOf w 0 32)) 0 2 = bitsOf (if inMask fm 0 then w else old) 0 2 ∧
    bitsOf (mergeMode fm old (bitsOf w 0 32)) 2 1 = bitsOf (if inMask fm 1 then w else old) 2 1 ∧
    bitsOf (mergeMode fm old (bitsOf w 0 32)) 3 1 = bitsOf (if inMask fm 2 then w else old) 3 1 ∧
    bitsOf (mergeMode fm old (bitsOf w 0 32)) 4 8 = bitsOf (if inMask fm 3 then w else old) 4 8 := by
  have pick : ∀ (c : Bool) (m lo n : Nat), bitsOf (if c then w else m) lo n = if c then bitsOf w lo n else bitsOf m lo n := by
    intro c m lo n
    cases c <;> rfl
  refine ⟨?_, ?_, ?_, ?_⟩ <;> rw [mergeMode]
  · rw [bitsOf_setField_other _ _ _ _ _ _ _ (by decide), bitsOf_setField_other _ _ _ _ _ _ _ (by decide),
      bitsOf_setField_other _ _ _ _ _ _ _ (by decide), bitsOf_setField_same _ _ _ _ _ (by decide)]
  · rw [bitsOf_setField_other _ _ _ _ _ _ _ (by decide), bitsOf_setField_other _ _ _ _ _ _ _ (by decide),
      bitsOf_setField_same _ _ _ _ _ (by decide), pick, bitsOf_setField_other _ _ _ _ _ _ _ (by decide), pick]
  · rw [bitsOf_setField_other _ _ _ _ _ _ _ (by decide), bitsOf_setField_same _ _ _ _ _ (by decide), pick,
      bitsOf_setField_other _ _ _ _ _ _ _ (by decide), bitsOf_setField_other _ _ _ _ _ _ _ (by decide), pick]
  · rw [bitsOf_setField_same _ _ _ _ _ (by decide), pick, bitsOf_setField_other _ _ _ _ _ _ _ (by decide),
      bitsOf_setField_other _ _ _ _ _ _ _ (by decide), bitsOf_setField_other _ _ _ _ _ _ _ (by decide), pick]

/-! ## BRK -/

theorem State.word_modTile (s : State) (t : Nat) (f : Tile → Tile) (o : Nat) : ((modTile t f).run s).word o = s.word o := rfl

/-- What a catch of the tile leaves (R148): the cause and the restart point in their registers; no tile and no byte changes. -/
structure Caught (s u : State) (t cause epc : Nat) : Prop where
  cause : u.word (tileReg t 0x004) = BitVec.ofNat 32 cause
  epc : u.word (tileReg t 0x008) = BitVec.ofNat 32 (epc % 2 ^ 13)
  tile : ∀ j, u.tile j = s.tile j
  mem : u.mem = s.mem
  regs : SameRegsBut s u (tileReg t 0x004 :: tileReg t 0x008 :: logRegs)

theorem tileCatch_caught (t cause epc : Nat) (st : Option Nat) (s : State) :
    Caught s ((tileCatch t cause epc (logHalted t st)).run s) t cause epc := by
  obtain ⟨v, hv⟩ : ∃ v, v = (setWord (tileReg t 0x008) (epc % 2 ^ 13)).run ((setWord (tileReg t 0x004) cause).run s) := ⟨_, rfl⟩
  have hlog : OnlyLogs v ((tileCatch t cause epc (logHalted t st)).run s) := by
    rw [tileCatch, Prog.run_all_cons, Prog.run_all_cons, ← hv]
    have hp : (all [look fun u => logHalted t st [tileTag t, cause, epc % 2 ^ 13, (u.word (tileReg t 0x00C)).toNat]]).Only Act.logs :=
      ⟨fun u => logC_onlyLogs .., trivial⟩
    exact hp.onlyLogs v
  have hne : tileReg t 0x004 ≠ tileReg t 0x008 := tileReg_ne (by decide)
  refine ⟨(hlog.regs _ (tileReg_not_log t _)).trans ?_, (hlog.regs _ (tileReg_not_log t _)).trans ?_, fun j => (hlog.tile j).trans ?_,
    hlog.mem.trans ?_, fun o ho => (hlog.regs o ?_).trans ?_⟩
  · rw [hv]
    simp [hne]
  · rw [hv]
    simp
  · rw [hv]
    rfl
  · rw [hv]
    rfl
  · exact fun h => ho (by simp [h])
  · simp only [List.mem_cons, not_or] at ho
    rw [hv]
    simp [ho.1, ho.2.1]

theorem endUndone_run_none {s : State} {t : Nat} (st : Nat) (h : (s.tile t).launch = none) : (endUndone t st).run s = s := by
  rw [endUndone, Prog.run_look, h]
  rfl

/-- What a halt leaves of a tile without a launch: the restart point in TSQ_EPC, the cause in TSQ_CAUSE, the tile halted. -/
theorem haltAt_run {s : State} {t : Nat} (pass : Bool) (hl : (s.tile t).launch = none) :
    ∃ v, Caught s v t ((s.tile t).causeWord ⟨0, .brk, false, none⟩) (s.tile t).restart ∧
      (haltAt t pass).run s = (modTile t fun x => { x.rewound with run := 2, passBp := if pass then some x.pc else none }).run v := by
  refine ⟨_, tileCatch_caught t _ _ (s.tile t).stream s, ?_⟩
  have hc := tileCatch_caught t ((s.tile t).causeWord ⟨0, .brk, false, none⟩) (s.tile t).restart (s.tile t).stream s
  rw [haltAt, Prog.run_look, Prog.run_all_cons, Prog.run_all_cons, Prog.run_all_cons, Prog.run_all_nil, endUndone_run_none]
  rw [State.tile_modTile_same, hc.tile]
  exact hl

/-- Outside shadows, delay slots and loop ends the cause word holds the code alone. -/
theorem Tile.causeWord_plain {x : Tile} (hd : x.delay = none) (hs : x.shadow = none) (hl : x.loops = []) :
    x.causeWord ⟨0, .brk, false, none⟩ = 14 := by
  simp [Tile.causeWord, hd, hs, Tile.atEnd, hl, Cause.code]

theorem Tile.restart_plain {x : Tile} (hd : x.delay = none) (hs : x.shadow = none) : x.restart = x.pc := by
  simp [Tile.restart, hd, hs]

/-! ## Idle tiles -/

theorem startNext_run_nil {s : State} {t : Nat} (h : (s.tile t).waiting = []) : (startNext t).run s = s := by
  rw [startNext, Prog.run_look, h]
  rfl

/-- A bench that falls to its idle state changes its power state and its ledger line alone. -/
def Act.movesBench : Act → Prop
  | .dev f => ∀ d, (f d).tiles = d.tiles
  | .reg _ _ => True
  | .draw => True
  | _ => False

theorem Prog.Only.of_movesBench {p : Prog} (h : p.Only Act.movesBench) (s : State) :
    (∀ t, (p.run s).tile t = s.tile t) ∧ (p.run s).mem = s.mem := by
  refine h.run (R := fun s u => (∀ t, u.tile t = s.tile t) ∧ u.mem = s.mem) (fun _ => ⟨fun _ => rfl, rfl⟩)
    (fun h k => ⟨fun t => (k.1 t).trans (h.1 t), k.2.trans h.2⟩) (fun a s ha => ?_) s
  cases a with
  | dev f => exact ⟨fun t => congrArg (fun l => Sparse.get Tile.blank l t) (ha s.dev), rfl⟩
  | reg o v => exact ⟨fun _ => rfl, rfl⟩
  | draw => exact ⟨fun _ => rfl, rfl⟩
  | _ => exact ha.elim

theorem idleBench_movesBench (b : Nat) : (idleBench b).Only Act.movesBench := by
  intro s
  show Prog.Only _ (match s.benchPart b with | none => _ | some p => _)
  split
  · trivial
  · simp [moveBench, startWake, startDwell, dropMoves, setUnit, setF, modPwr, Act.movesBench]

/-- A tile for which no launch waits falls idle without a start. -/
theorem tileIdle_run {s : State} {t : Nat} (h : (s.tile t).waiting = []) :
    (∀ j, ((tileIdle t).run s).tile j = s.tile j) ∧ ((tileIdle t).run s).mem = s.mem := by
  rw [tileIdle, Prog.run_all_cons, Prog.run_all_cons, Prog.run_all_nil, startNext_run_nil h]
  exact (idleBench_movesBench _).of_movesBench s

theorem endEff_go {x : Tile} {l : Launch} (hl : x.launch = some l) (hd : ∀ i, i < l.chunks.length → i ∈ x.cdone) (ho : x.ops = [])
    (hx : x.xfers = []) : endEff x = goOn .nop := by
  have hn : ((List.range l.chunks.length).any fun k => !x.cdone.contains k) = false := by
    rw [List.any_eq_false]
    intro k hk
    simp [hd k (List.mem_range.mp hk)]
  simp only [endEff, hl, Option.map_some, Option.getD_some, hn, Bool.and_false, Bool.false_eq_true, if_false, Tile.working, ho, hx,
    List.isEmpty_nil, Bool.not_true, Bool.or_false]

theorem endProgram_run {s : State} {t : Nat} (hd : (s.tile t).detached = false) (hw : (s.tile t).waiting = []) :
    (((endProgram t).run s).tile t).run = 0 ∧ (((endProgram t).run s).tile t).launch = none ∧ ((endProgram t).run s).mem = s.mem := by
  rw [endProgram, Prog.run_look, if_neg (by simp [hd]), Prog.run_all_cons, Prog.run_all_cons, Prog.run_all_nil]
  have htile := State.tile_modTile_same s t fun x => { x with run := 0, launch := none, stepping := false }
  obtain ⟨h1, h2⟩ := tileIdle_run (s := (modTile t fun x => { x with run := 0, launch := none, stepping := false }).run s) (t := t)
    (by rw [htile]; exact hw)
  rw [h1, htile]
  exact ⟨rfl, rfl, h2⟩

/-- Settles O13: NOP, FENCE and TICK through their effects, MSET through the modes that it merges, END and BRK through the bundle. -/
theorem controlRows : Obligations.ControlRows := by
  refine ⟨fun s t k w h => ?_, fun s t k w h hl => ?_, fun s t k w h hs ho hx => ?_, fun s t k w h => ?_,
    fun s t k w l h hd hl hc ho hx hw hk => ?_, fun s t w h hp hl hd hsh hlo hpc ht => ?_⟩
  · refine (completes_idle h (by decide) rfl).mono ?_
    rintro u ⟨h1, h2, h3, hg, h5, h6⟩
    have hafter : (s.tile t).after k .nop w = (s.tile t).advance .nop 0 := by
      rw [Tile.after]
      split <;> rfl
    exact ⟨h1, h2, h3, hafter ▸ hg, h5, h6⟩
  · obtain rfl := State.issues_mset h
    have hd := State.issues_delay h rfl
    refine (completes_idle h (by decide) rfl).mono ?_
    rintro u ⟨h1, h2, h3, hg, h5, h6⟩
    have hadv := Tile.advance_undelayed (x := s.tile t) (op := .mset) rfl (by decide) w hd
    rw [Tile.goRound_on fun l e => by
      have : (s.tile t).loops.getLast? = some l := e
      rw [hl] at this
      cases this] at hadv
    have hafter : (s.tile t).after 0 .mset w = (s.tile t).advance .mset w := rfl
    rw [hafter, hadv] at hg
    obtain ⟨m0, m1, m2, m3⟩ := mergeMode_fields (bitsOf w 48 4) (s.tile t).mode w
    rw [← show (u.tile t).mode = mergeMode (bitsOf w 48 4) (s.tile t).mode (bitsOf w 0 32) from hg.mode] at m0 m1 m2 m3
    exact ⟨m0, m1, m2, m3, hg.pc, by rw [hg.shadow]; rfl, h1, h2, h3, h5, h6⟩
  · refine completes_idle h (by decide) ?_
    show (if !(s.tile t).stores.isEmpty || (s.tile t).working then Eff.wait 0 else goOn .nop) = _
    simp [hs, ho, hx, Tile.working]
  · refine (completes_scalar_quiet h (by decide) (n := fSD w) (v := s.now) rfl (setS_setsScalar s t _ _ [])).mono ?_
    rintro u ⟨hd, hrest⟩
    refine ⟨fun h0 => ?_, hrest⟩
    rw [Tile.scalar_of_sreg (hd h0)]
    rw [State.now, BitVec.ofNat_toNat, BitVec.setWidth_eq]
  · subst hk
    have he := endEff_go hl hc ho hx
    have htile := State.afterOne_tile s t 0 w .end_ .nop
    obtain ⟨h1, h2, h3⟩ := endProgram_run (s := s.afterOne t 0 .end_ w .nop) (t := t) (by rw [htile]; exact hd) (by rw [htile]; exact hw)
    refine ⟨_, rfl, ?_⟩
    rw [issue_run_end h he]
    exact ⟨h1, h2, fun a => congrArg (fun m => Memory.read m a) h3⟩
  · have hop : opOf (s.slotWord t 0) = some .brk := by
      simp only [State.issuable, Bool.and_eq_true, beq_iff_eq] at h
      obtain ⟨⟨⟨⟨⟨-, hw⟩, -⟩, ho⟩, -⟩, -⟩ := h
      rw [hw, ho]
    have hb : s.breaks t = true := by simp [State.breaks, hp, hop]
    obtain ⟨v, hv, hrun⟩ := haltAt_run true hl
    refine ⟨_, rfl, ?_⟩
    rw [issue_run_execute h, executeBundle_run_breaks h hb, hrun]
    have htile := State.tile_modTile_same v t fun x => { x.rewound with run := 2, passBp := if true then some x.pc else none }
    rw [hv.tile] at htile
    have hcause := hv.cause
    rw [Tile.causeWord_plain hd hsh hlo] at hcause
    have hepc := hv.epc
    rw [Tile.restart_plain hd hsh, Nat.mod_eq_of_lt hpc] at hepc
    refine ⟨?_, ?_, ?_, ?_, ⟨fun n => ?_⟩, ⟨fun a i => ?_, ?_⟩, ⟨?_, ?_, ?_, ?_, ?_⟩, fun a => ?_⟩
    · rw [htile]
    · rw [htile]
      exact Tile.restart_plain hd hsh
    · rw [State.word_modTile, hcause]
      rfl
    · rw [State.word_modTile, hepc, BitVec.toNat_ofNat,
        Nat.mod_eq_of_lt (hpc.trans (by decide))]
    · rw [htile]
      rfl
    · rw [htile]
      rfl
    · rw [htile]
      rfl
    iterate 5
      · rw [htile]
        rfl
    · exact congrArg (fun m => Memory.read m a) hv.mem

end Sys2Proof.Machine
end

section
/-!
The issue of matrix work and transfers, and the waits for them (R137, R152 to R154, R217).
-/
namespace Sys2Proof.Machine

theorem descFault_cases (a n : Nat) : descFault a n = none ∨ ∃ c i, descFault a n = some (.fault c i) := by
  rw [descFault]
  split
  · exact .inr ⟨_, _, rfl⟩
  · split
    · exact .inr ⟨_, _, rfl⟩
    · exact .inl rfl

theorem poisonAt_singleton_none {s : State} {t n a : Nat} (h : s.poisonedIn (tileAt t + a) n = false) : s.poisonAt t n [a] = none := by
  simp [State.poisonAt, h]

/-- The operation that MISSUE queues. -/
def State.missued (s : State) (t mode w : Nat) : MtxOp :=
  { desc := words32 s (tileAt t + issueAddr (s.tile t) w) 16, addr := issueAddr (s.tile t) w, mx := bitsOf mode 4 8,
    hdr := if bitsOf ((words32 s (tileAt t + issueAddr (s.tile t) w) 16).getD 0 0) 22 2 == 2
      then words32 s (tileAt t + bitsOf ((words32 s (tileAt t + issueAddr (s.tile t) w) 16).getD 13 0) 0 20) 16 else [],
    bad := if bitsOf ((words32 s (tileAt t + issueAddr (s.tile t) w) 16).getD 0 0) 22 2 == 2
      then s.poisonAt t 64 [bitsOf ((words32 s (tileAt t + issueAddr (s.tile t) w) 16).getD 13 0) 0 20] else none }

theorem missueEff_go {s : State} {t mode w : Nat} (hf : descFault (issueAddr (s.tile t) w) 64 = none) (hs : (s.tile t).stores = [])
    (ho : (s.tile t).ops.length < 4) (hp : s.poisonedIn (tileAt t + issueAddr (s.tile t) w) 64 = false) :
    ∃ m, missueEff s t mode w = .go (modTile t fun x => { x with ops := x.ops ++ [s.missued t mode w] }) m := by
  have hlen : ¬4 ≤ (s.tile t).ops.length := by omega
  simp only [missueEff, hf, hs, poisonAt_singleton_none hp, List.isEmpty_nil, Bool.not_true, Bool.false_eq_true, if_false, hlen]
  exact ⟨_, rfl⟩

/-- The transfer that XGET or XPUT queues on a tile. -/
def State.xferIssued (s : State) (t : Nat) (put : Bool) (w : Nat) (x : Tile) : Xfer :=
  { put := put, desc := words32 s (tileAt t + issueAddr (s.tile t) w) 8, addr := issueAddr (s.tile t) w, chunk := x.chosen,
    regions := ((s.chunkOf x.chosen).map Chunk.regions).getD [],
    part := (x.launch.map Launch.part).getD 0, old := (x.launch.map Launch.old).getD false }

theorem xferIssueEff_go {s : State} {t : Nat} {put : Bool} {w : Nat} (hf : descFault (issueAddr (s.tile t) w) 32 = none)
    (hs : (s.tile t).stores = []) (ho : (s.tile t).xfers.length < 8)
    (hp : s.poisonedIn (tileAt t + issueAddr (s.tile t) w) 32 = false) :
    ∃ m, xferIssueEff s t put w = .go (modTile t fun x => { x with xfers := x.xfers ++ [s.xferIssued t put w x] }) m := by
  have hlen : ¬8 ≤ (s.tile t).xfers.length := by omega
  simp only [xferIssueEff, hf, hs, poisonAt_singleton_none hp, List.isEmpty_nil, Bool.not_true, Bool.false_eq_true, if_false, hlen]
  exact ⟨_, rfl⟩

/-- An effect that queues work of the tile. -/
theorem completes_queued {s : State} {t k w : Nat} {op : TOp} {m : List Nat} {ops : List MtxOp} {xfers : List Xfer}
    {f : Tile → Tile} (h : s.issues t k op w = true) (hop : op ≠ .end_)
    (hp : instrEff s t ((s.tile t).seenMode false) op w = .go (modTile t f) m)
    (hf : f (s.tile t) = { s.tile t with ops := ops, xfers := xfers }) : Completes (tileCmd op t k) s fun u =>
      (u.tile t).ops = ops ∧ (u.tile t).xfers = xfers ∧ SameScalars (s.tile t) (u.tile t) ∧ SameVectors (s.tile t) (u.tile t) ∧
      GoesOn (s.tile t) (u.tile t) ((s.tile t).after k op w) ∧ OnlyTile s u t ∧ u.regs = s.regs := by
  have htile := (State.tile_modTile_same s t f).trans hf
  have hq := State.afterOne_quiet (s := s) (t := t) (k := k) (w := w) (op := op) (Prog.only_modTile f)
  refine completes_of_issues h hop hp ⟨?_, ?_, ⟨fun n => ?_⟩, ⟨fun v i => ?_, ?_⟩,
    State.afterOne_goesOn (by rw [htile]) (by rw [htile]) (by rw [htile]), hq⟩
  · rw [State.afterOne_tile, Tile.committed_ops, htile]
  · rw [State.afterOne_tile, Tile.committed_xfers, htile]
  · rw [State.afterOne_sreg, htile]; rfl
  · rw [State.afterOne_elem, htile]; rfl
  · rw [State.afterOne_masks, htile]

theorem State.issues_descFault {s : State} {t k w n : Nat} {op : TOp} (h : s.issues t k op w = true)
    (he : ∀ e, descFault (issueAddr (s.tile t) w) n = some e → instrEff s t ((s.tile t).seenMode false) op w = e) :
    descFault (issueAddr (s.tile t) w) n = none := by
  rcases descFault_cases (issueAddr (s.tile t) w) n with hd | ⟨c, i, hd⟩
  · exact hd
  · exact absurd (he _ hd) (State.issues_no_fault h c i)

theorem xferIssueEff_fault {s : State} {t : Nat} {put : Bool} {w : Nat} {e : Eff} (h : descFault (issueAddr (s.tile t) w) 32 = some e) :
    xferIssueEff s t put w = e := by
  simp only [xferIssueEff, h]

theorem missueEff_fault {s : State} {t mode w : Nat} {e : Eff} (h : descFault (issueAddr (s.tile t) w) 64 = some e) :
    missueEff s t mode w = e := by
  simp only [missueEff, h]

theorem instrEff_xfer (s : State) (t mode : Nat) (put : Bool) (w : Nat) :
    instrEff s t mode (if put then .xput else .xget) w = xferIssueEff s t put w := by
  cases put <;> rfl

theorem tileCmd_xfer (t k : Nat) (put : Bool) :
    (if put then Instr.tXput t { slot := k } else .tXget t { slot := k }) = tileCmd (if put then .xput else .xget) t k := by
  cases put <;> rfl

theorem instrEff_mwait (s : State) (t mode w : Nat) :
    instrEff s t mode .mwait w = if (s.tile t).ops.length ≤ fOffset w then goOn .nop else .wait 0 := rfl

theorem instrEff_xwait (s : State) (t mode w : Nat) :
    instrEff s t mode .xwait w = if (s.tile t).xfers.length ≤ fOffset w then goOn .nop else .wait 0 := rfl

/-- Settles O16: the issue rows queue what they copied, the wait rows pass or leave the state as it is. -/
theorem issueRows : Obligations.IssueRows := by
  refine ⟨fun s t k w h hs ho hp => ?_, fun s t k w put h hs ho hp => ?_, fun s t k w h hn => ?_, fun s t k w h hn => ?_,
    fun s t k w => ⟨fun h hn => ?_, fun h hn => ?_⟩⟩
  · have hf := State.issues_descFault h fun e he => missueEff_fault he
    obtain ⟨m, hm⟩ := missueEff_go (mode := (s.tile t).seenMode false) hf hs ho hp
    refine (completes_queued h (by decide) hm (ops := _) (xfers := (s.tile t).xfers) rfl).mono ?_
    rintro u ⟨hops, hx, hrest⟩
    exact ⟨⟨_, hops, rfl, rfl, rfl, rfl, rfl⟩, hx, hrest⟩
  · have hf := State.issues_descFault h fun e he => (instrEff_xfer ..).trans (xferIssueEff_fault he)
    obtain ⟨m, hm⟩ := xferIssueEff_go (put := put) hf hs ho hp
    have hne : (if put then TOp.xput else .xget) ≠ .end_ := by cases put <;> decide
    have hc := completes_queued h hne ((instrEff_xfer ..).trans hm) (ops := (s.tile t).ops) (xfers := _) rfl
    rw [tileCmd_xfer]
    refine hc.mono ?_
    rintro u ⟨hops, hx, hrest⟩
    exact ⟨⟨_, hx, rfl, rfl, rfl, rfl, rfl⟩, hops, hrest⟩
  · exact completes_idle h (by decide) ((instrEff_mwait ..).trans (if_pos hn))
  · exact completes_idle h (by decide) ((instrEff_xwait ..).trans (if_pos hn))
  · exact (completes_wait h ((instrEff_mwait ..).trans (if_neg (by omega)))).mono fun u hu => hu ▸ ⟨rfl, rfl⟩
  · exact (completes_wait h ((instrEff_xwait ..).trans (if_neg (by omega)))).mono fun u hu => hu ▸ ⟨rfl, rfl⟩

end Sys2Proof.Machine
end

section
/-!
CDONE where a stage record is held (R91, R254). The statement of O14 says that the chunk alone leaves its slot when its final stage
completes; the release of the record also clears the bindings of the slot's other chunks.
-/
namespace Sys2Proof.Machine

/-- The chunk whose final stage runs on tile 0, and its successor: both are bound to the slot's record. -/
def lastStageChunk : Chunk := { stream := 3, arrival := 5, deadline := 1500, running := some 0, owing := [0], bound := true }
def boundSuccessor : Chunk := { stream := 3, arrival := 9, bound := true }

/-- Tile 0 stands before CDONE with that chunk selected; slot 3 holds both chunks and its record. -/
def recordSharedDev : Dev :=
  { pwr := { por := false }
    parts := [(0, { active := some { groups := [{}] } })]
    slots := [(3, { chunks := [lastStageChunk, boundSuccessor], walkDesc := some [] })]
    tiles := [(0, { run := 1, plen := 1, launch := some { chunks := [(3, 5)], tiles := [0] }, sel := some 0 })] }

def recordShared : State := (setF F.PCK_STATUS_DEV 1).run { dev := recordSharedDev, mem := [(5, 0x08), (6, 0x70)] }

/-- CDONE's word. -/
def cdoneWord : Nat := 0x70080000000000

theorem recordShared_issues : recordShared.issues 0 0 .cdone cdoneWord = true := by decide +kernel

theorem recordShared_chunks :
    (((issue 0 { slot := 0 } .cdone).run recordShared).slot 3).chunks = [{ boundSuccessor with bound := false }] := by
  decide +kernel

/-- Refutes O14: with the record of `recordShared` released, the chunk that stays is no longer bound. -/
theorem not_chunkRows : ¬ Obligations.ChunkRows := by
  rintro ⟨-, -, h⟩
  obtain ⟨u, hu, -, -, hlast⟩ := h recordShared 0 0 cdoneWord 0 0 { chunks := [(3, 5)], tiles := [0] } 3 5 lastStageChunk
    recordShared_issues rfl rfl rfl rfl rfl rfl (by decide) (by decide +kernel) rfl (by decide)
  cases hu
  have hchunks := (hlast (by decide) {} 0 rfl rfl).2 (by decide)
  rw [recordShared_chunks] at hchunks
  exact absurd hchunks (by decide)

end Sys2Proof.Machine
end

section
/-!
A column block whose writes reach its own metadata (R189 to R191). The statement of O19 does not ask that the running operation's
descriptor is a good one: with output format 0xB the declared output region is packed, while the unit writes four bytes per element, so
the first row block can change the operand lists that the second reads.
-/
namespace Sys2Proof.Machine

/-! ## Poison that a row block meets -/

theorem stopAfterFault_run_idle {s : State} {t : Nat} (h : (s.tile t).run = 0) (b : Bool) : (stopAfterFault t b).run s = s := by
  rw [stopAfterFault, Prog.run_look, Prog.run_when, h]
  rfl

theorem tmemPoison_keepsTiles (t a : Nat) : (tmemPoison t a).Only (Act.keeps Dev.tiles) :=
  ⟨fun _ => rfl, trivial, trivial⟩

theorem logC_keepsTiles (code sev unit : Nat) (ds : List Nat) (st : Option Nat) : (logC code sev unit ds st).Only (Act.keeps Dev.tiles) :=
  (logC_onlyLogs code sev unit ds st).keeps_of_logs fun _ _ _ _ => rfl

/-- Poison drops the operations of an idle tile. -/
theorem mtxPoison_run_ops {s : State} {t : Nat} (hl : (s.tile t).launch = none) (hr : (s.tile t).run = 0) (a mt nt : Nat) :
    (((mtxPoison t a mt nt).run s).tile t).ops = [] := by
  obtain ⟨rec, hrec⟩ : ∃ rec, rec = look fun s =>
    let st := (s.tile t).stream
    all [tmemPoison t a, logC 0x6002 2 (t / 16) (memDetail (tileAt t + a / 8 * 8) (t / 16) (t % 16) st) st] := ⟨_, rfl⟩
  have hkeep : rec.Only (Act.keeps Dev.tiles) := by
    rw [hrec]
    exact fun _ => ⟨tmemPoison_keepsTiles t a, logC_keepsTiles _ _ _ _ _, trivial⟩
  rw [mtxPoison, mtxFault, Prog.run_look, ← hrec]
  rw [Prog.run_all_cons, Prog.run_all_cons, Prog.run_all_cons, Prog.run_all_cons, Prog.run_all_cons, Prog.run_all_cons, Prog.run_all_cons,
    Prog.run_all_nil]
  generalize hv : (setWord (tileReg t 0x10C) _).run _ = v
  have htile : v.tile t = { s.tile t with ops := [] } := by
    rw [← hv]
    exact State.tile_modTile_same s t fun x => { x with ops := [] }
  have hrv : (rec.run v).tile t = { s.tile t with ops := [] } := (hkeep.tiles v t).trans htile
  rw [endUndone_run_none stEcc (by rw [hrv]; exact hl), stopAfterFault_run_idle (by rw [hrv]; exact hr), hrv]

theorem blockTiles_run {s : State} {t : Nat} {o : MtxOp} {l : List MtxOp} (h : (s.tile t).ops = o :: l) (b r : Nat) (rs : List Nat) :
    (blockTiles t b (r :: rs)).run s = match o.tilePoison s t r b with
      | some a => (mtxPoison t a r b).run s
      | none => (blockTiles t b rs).run ((o.writeTile s t r b).run s) := by
  rw [blockTiles, Prog.run_look, h]
  dsimp only
  cases o.tilePoison s t r b <;> rfl

/-- The head of the queue starts with its row blocks once its metadata is good. -/
theorem columnBlock_run {s : State} {t : Nat} {o : MtxOp} {l : List MtxOp} (h : (s.tile t).ops = o :: l) (hs : o.started = true)
    (hc : o.col < o.blocks) (hm : MtxOp.readMeta s t o o.col = .ok) (addr : Nat) :
    (columnBlock t .none addr).run s = (blockTiles t o.col (List.range o.rowBlocks)).run s := by
  have hgo : (o.started && decide (o.col < o.blocks)) = true := by rw [hs, decide_eq_true hc]; rfl
  have hce : ∀ b : Bool, (b && EccErr.none == EccErr.corrected) = false := by decide
  have hue : ∀ b : Bool, (b && EccErr.none == EccErr.uncorrectable) = false := by decide
  rw [columnBlock, Prog.run_look]
  simp only [h, hgo, hce, hue, Prog.run_when, Prog.run_all_cons, Prog.run_all_nil, if_true, Bool.false_eq_true, if_false, Prog.run_look, hm]

/-- What an enabled command that completes leaves. -/
theorem run_eq_of_done {p : Prog} {s u : State} (hr : s.ready = true) (h : done (when s.ready p) s = .next u) : u = p.run s := by
  rw [hr] at h
  exact (Host.Outcome.next.inj h).symm

/-! ## What an output tile writes -/

theorem noteOutputs_onlyMem (t nan sat mt nt : Nat) : (noteOutputs t nan sat mt nt).Only Act.sparesMem := by
  intro s
  refine ⟨Prog.only_when.mpr fun _ => ⟨?_, ?_, trivial⟩, Prog.only_when.mpr fun _ => ⟨?_, ?_, trivial⟩, trivial⟩
  · exact Prog.only_addF fun _ => trivial
  · exact (logLim_onlyLogs _ _ _ _ _ _ _).sparesMem_of_logs
  · exact Prog.only_addF fun _ => trivial
  · exact (logLim_onlyLogs _ _ _ _ _ _ _).sparesMem_of_logs

theorem noteOutputs_keeps {α : Type} {g : Dev → α} (hg : ∀ d l o m, g { d with log := l, out := o, marks := m } = g d)
    (t nan sat mt nt : Nat) : (noteOutputs t nan sat mt nt).Only (Act.keeps g) := by
  intro s
  refine ⟨Prog.only_when.mpr fun _ => ⟨?_, ?_, trivial⟩, Prog.only_when.mpr fun _ => ⟨?_, ?_, trivial⟩, trivial⟩
  · exact Prog.only_addF fun _ => trivial
  · exact (logLim_onlyLogs _ _ _ _ _ _ _).keeps_of_logs hg
  · exact Prog.only_addF fun _ => trivial
  · exact (logLim_onlyLogs _ _ _ _ _ _ _).keeps_of_logs hg

/-- The bytes of row `m` of an output tile, and where they go. -/
def MtxOp.rowBytes (s : State) (t : Nat) (o : MtxOp) (b m : Nat) : List Byte :=
  (o.blockCols b).flatMap fun n => toBytes (packedBytes o.cfmt 1) (MtxOp.element s t o m n).1
def MtxOp.rowAt (t : Nat) (o : MtxOp) (b m : Nat) : Nat :=
  tileAt t + o.addrOf 7 + m * o.addrOf 8 + packedBytes o.cfmt (64 * b)

/-- An output tile is its rows, one after the other, and the counts. -/
theorem writeTile_run (s : State) (t : Nat) (o : MtxOp) (r b : Nat) (u : State) : ∃ nan sat, (o.writeTile s t r b).run u =
    (noteOutputs t nan sat r b).run ((each (o.blockRows r) fun m => storeBytes (o.rowAt t b m) (o.rowBytes s t b m)).run u) := by
  have hrows : each ((o.blockRows r).map fun m => (m, (o.blockCols b).map fun n => MtxOp.element s t o m n))
      (fun x => storeBytes (tileAt t + o.addrOf 7 + x.1 * o.addrOf 8 + packedBytes o.cfmt (64 * b))
        (x.2.flatMap fun e => toBytes (packedBytes o.cfmt 1) e.1)) =
      each (o.blockRows r) fun m => storeBytes (o.rowAt t b m) (o.rowBytes s t b m) := by
    rw [each, List.map_map, each]
    congr 2
    funext m
    simp only [Function.comp, MtxOp.rowBytes, List.flatMap_map, MtxOp.rowAt]
  rw [MtxOp.writeTile, Prog.run_all_cons, Prog.run_all_cons, Prog.run_all_nil, hrows]
  exact ⟨_, _, rfl⟩

/-! ## The counterexample -/

/-- 65 rows and 20 columns, unstructured B at 0x2000, accumulating into 0x3000, whose declared 8 bytes end where the metadata starts. -/
def strayOp : MtxOp :=
  { desc := [0x81B330, 0x13040, 0, 0x1000, 0, 0x2000, 8, 0x3000, 0, 0, 0, 0, 0, 0x3008, 0, 0], hdr := [64], started := true }

/-- B is poisoned; its lists are empty, so nothing reads it. -/
def strayState : State :=
  (setF F.PCK_STATUS_DEV 1).run
    { dev := { pwr := { por := false }, poison := [0x2000], tiles := [(0, { ops := [strayOp] })] }, mem := [(0x3007, 1)] }

/-- The state after the first row block. -/
def strayed : State := (strayOp.writeTile strayState 0 0 0).run strayState

/-- All rows go to one place, so the last one stands: it ends with the length of column 0's list, which has become 1, and 0. -/
theorem strayOp_lastRow : (strayOp.rowBytes strayState 0 0 63).drop 72 = [1, 0, 0, 0, 0, 0, 0, 0] ∧
    (strayOp.rowBytes strayState 0 0 63).length = 80 := by
  decide +kernel

theorem strayed_nnz : MtxOp.nnz strayed 0 strayOp 0 = 1 := by
  obtain ⟨nan, sat, h⟩ := writeTile_run strayState 0 strayOp 0 0 strayState
  have hlast : strayOp.blockRows 0 = (List.range 63) ++ [63] := by decide
  have hmem : strayed.mem = ((each (List.range 63) fun m => storeBytes (strayOp.rowAt 0 0 m) (strayOp.rowBytes strayState 0 0 m)).run
      strayState).mem.writes 0x3000 (strayOp.rowBytes strayState 0 0 63) := by
    rw [strayed, h, (noteOutputs_onlyMem 0 nan sat 0 0).mem, hlast, Prog.run_each_append, Prog.run_each_cons, Prog.run_each_nil, storeBytes_mem,
      show strayOp.rowAt 0 0 63 = 0x3000 by decide]
  have hbyte : ∀ i, i < 4 → strayed.mem.read (0x3048 + i) = ([1, 0, 0, 0] : List Byte).getD i 0 := fun i hi => by
    obtain ⟨hdrop, hlen⟩ := strayOp_lastRow
    have hlt : 72 + i < (strayOp.rowBytes strayState 0 0 63).length := by omega
    rw [hmem, show 0x3048 + i = 0x3000 + (72 + i) by omega, Memory.read_writes_in _ _ _ _ hlt]
    have hget : (strayOp.rowBytes strayState 0 0 63)[72 + i]? = ([1, 0, 0, 0, 0, 0, 0, 0] : List Byte)[i]? := by
      rw [← hdrop, List.getElem?_drop]
    rw [List.getElem?_eq_getElem hlt] at hget
    interval_cases i <;> exact Option.some.inj hget
  have hread : strayed.read32 0x3048 = 1 := by
    rw [State.read32, State.readN]
    simp only [Memory.reads]
    rw [show strayed.mem.read 0x3048 = _ from hbyte 0 (by decide), hbyte 1 (by decide), hbyte 2 (by decide), hbyte 3 (by decide)]
    decide
  have haddr : tileAt 0 + strayOp.addrOf 13 + 64 + 4 * 0 = 0x3048 := by decide
  rw [MtxOp.nnz, haddr, hread]
  decide

/-- A store above a poisoned address leaves its poison. -/
theorem storeBytes_keepsPoison {a x : Nat} (h : x < a) (bs : List Byte) :
    (storeBytes a bs).Only (Act.keeps fun d => d.poison.contains x) := by
  refine ⟨trivial, fun d => ?_, trivial⟩
  have : ¬a ≤ x := by omega
  rw [Bool.eq_iff_iff]
  simp [this]

theorem strayed_keeps {α : Type} {g : Dev → α} (hlog : ∀ d l o m, g { d with log := l, out := o, marks := m } = g d)
    (hstore : ∀ bs, (storeBytes 0x3000 bs).Only (Act.keeps g)) : g strayed.dev = g strayState.dev := by
  obtain ⟨nan, sat, h⟩ := writeTile_run strayState 0 strayOp 0 0 strayState
  have hrow : ∀ m, strayOp.rowAt 0 0 m = 0x3000 := fun m => by
    rw [MtxOp.rowAt, show strayOp.addrOf 8 = 0 by decide]
    rfl
  have heach : (each (strayOp.blockRows 0) fun m => storeBytes (strayOp.rowAt 0 0 m) (strayOp.rowBytes strayState 0 0 m)).Only
      (Act.keeps g) := Prog.only_each.mpr fun m _ => by
    rw [hrow]
    exact hstore _
  rw [strayed, h, (noteOutputs_keeps hlog 0 nan sat 0 0).keeps, heach.keeps]

theorem strayed_tile : strayed.tile 0 = { ops := [strayOp] } :=
  congrArg (fun l => Sparse.get Tile.blank l 0) (strayed_keeps (g := Dev.tiles) (fun _ _ _ _ => rfl) fun bs =>
    storeBytes_keeps _ bs fun _ _ => rfl)

theorem strayed_poisoned : strayed.poisonedIn 0x2000 1 = true := by
  have h := strayed_keeps (g := fun d => d.poison.contains 0x2000) (fun _ _ _ _ => rfl) fun bs => storeBytes_keepsPoison (by decide) bs
  rw [State.poisonedIn, show unitsOf 0x2000 1 = [0x2000] by decide, List.any_cons, h]
  rfl

theorem strayed_reads : (0x2000, 1) ∈ MtxOp.tileReads strayed 0 strayOp 1 0 := by
  have hop : (0x2000, 1) ∈ MtxOp.operandReads strayed 0 strayOp (strayOp.blockRows 1) (strayOp.blockCols 0) := by
    rw [MtxOp.operandReads, if_pos (by decide)]
    refine List.mem_append_right _ (List.mem_map.mpr ⟨0, by decide, ?_⟩)
    rw [strayed_nnz]
    decide
  simp only [MtxOp.tileReads, List.append_assoc]
  exact List.mem_append_left _ hop

/-- The second row block meets the poison. -/
theorem strayed_poison : ∃ a, strayOp.tilePoison strayed 0 1 0 = some a := by
  cases h : strayOp.tilePoison strayed 0 1 0 with
  | some a => exact ⟨a, rfl⟩
  | none =>
    rw [MtxOp.tilePoison, List.findSome?_eq_none_iff] at h
    have h' := h _ strayed_reads
    simp [State.poisonAt, tileAt, strayed_poisoned] at h'

theorem strayState_steps : strayState.ready = true ∧ strayOp.overlapOk = true ∧ MtxOp.readMeta strayState 0 strayOp 0 = .ok ∧
    strayOp.tilePoison strayState 0 0 0 = none ∧ strayOp.tilePoison strayState 0 1 0 = none := by
  decide +kernel

/-- So the operation is gone. -/
theorem strayState_ops : (((columnBlock 0 .none 0).run strayState).tile 0).ops = [] := by
  obtain ⟨hready, hover, hmeta, hp0, hp1⟩ := strayState_steps
  have hops : (strayState.tile 0).ops = [strayOp] := by decide
  have hrun : (columnBlock 0 .none 0).run strayState = (blockTiles 0 0 [0, 1]).run strayState :=
    columnBlock_run hops rfl (by decide) hmeta 0
  obtain ⟨a, ha⟩ := strayed_poison
  rw [hrun, blockTiles_run hops, hp0]
  show (((blockTiles 0 0 [1]).run strayed).tile 0).ops = []
  rw [blockTiles_run (congrArg Tile.ops strayed_tile), ha]
  exact mtxPoison_run_ops (by rw [strayed_tile]) (by rw [strayed_tile]) _ _ _

/-- Refutes O19: the running operation of `strayState` does not go on to its next column block. -/
theorem not_matrixAndTransfers : ¬ Obligations.MatrixAndTransfers := by
  rintro ⟨-, h, -⟩
  obtain ⟨hready, hover, hmeta, hp0, hp1⟩ := strayState_steps
  obtain ⟨u, hu, hops, -⟩ := h strayState 0 0 strayOp [] hready rfl rfl hover (by decide) hmeta fun r hr => by
    have : r < 2 := hr
    interval_cases r
    · exact hp0
    · exact hp1
  rw [run_eq_of_done hready hu, strayState_ops] at hops
  cases hops

end Sys2Proof.Machine
end

section
/-!
Frames with bounds: a program whose acts change the device only as a relation allows, write only some registers, and touch memory or
the host's memory only where that is granted. The shared operations obey such frames.
-/
namespace Sys2Proof.Machine

/-- What the acts of a program may touch: how the device may change, which registers are written, and whether memory and the host's
memory are. -/
structure Bound where
  dev : Dev → Dev → Prop
  reg : Nat → Prop
  mem : Prop
  host : Prop

/-- The act keeps to the bound. -/
def Act.obeys (b : Bound) : Act → Prop
  | .dev f => ∀ d, b.dev d (f d)
  | .reg o _ => b.reg o
  | .lose _ => False
  | .bytes _ _ | .zero _ _ => b.mem
  | .hostBytes _ _ => b.host
  | .draw => True

/-- The changes of the device that the bound allows go one after the other. -/
structure Bound.Steps (b : Bound) : Prop where
  refl : ∀ d, b.dev d d
  trans : ∀ {c d e}, b.dev c d → b.dev d e → b.dev c e

/-- The bound lets logging happen. -/
structure Bound.Logs (b : Bound) : Prop where
  dev : ∀ d l o m, d.log.count ≤ l.count → b.dev d { d with log := l, out := o, marks := m }
  reg : ∀ o ∈ logRegs, b.reg o

section
variable {b : Bound}

@[simp] theorem Act.obeys_dev (f : Dev → Dev) : (Act.dev f).obeys b ↔ ∀ d, b.dev d (f d) := Iff.rfl
@[simp] theorem Act.obeys_reg (off : Nat) (v : Word) : (Act.reg off v).obeys b ↔ b.reg off := Iff.rfl
@[simp] theorem Act.obeys_bytes (a : Nat) (bs : List Byte) : (Act.bytes a bs).obeys b ↔ b.mem := Iff.rfl
@[simp] theorem Act.obeys_zero (lo hi : Nat) : (Act.zero lo hi).obeys b ↔ b.mem := Iff.rfl
@[simp] theorem Act.obeys_hostBytes (a : Nat) (bs : List Byte) : (Act.hostBytes a bs).obeys b ↔ b.host := Iff.rfl
@[simp] theorem Act.obeys_draw : Act.draw.obeys b := trivial

/-! ## What follows from a frame -/

theorem Prog.Only.devs {p : Prog} (h : p.Only (Act.obeys b)) (hb : b.Steps) (s : State) : b.dev s.dev (p.run s).dev := by
  refine h.run (R := fun s t => b.dev s.dev t.dev) (fun s => hb.refl _) (fun h k => hb.trans h k) (fun a s ha => ?_) s
  cases a with
  | dev f => exact ha s.dev
  | _ => exact hb.refl _

theorem Prog.Only.sparesReg_of_obeys {p : Prog} (h : p.Only (Act.obeys b)) {off : Nat} (ho : ¬b.reg off) : p.Only (Act.sparesReg off) :=
  h.mono fun a ha => by
    cases a with
    | reg o v => exact fun e => ho (e ▸ ha)
    | lose k => exact ha
    | _ => trivial

theorem Prog.Only.words {p : Prog} (h : p.Only (Act.obeys b)) {off : Nat} (ho : ¬b.reg off) (s : State) :
    (p.run s).word off = s.word off :=
  (h.sparesReg_of_obeys ho).word s

theorem Prog.Only.flds {p : Prog} (h : p.Only (Act.obeys b)) {f : Fld} (ho : ¬b.reg f.off) (s : State) : (p.run s).fld f = s.fld f :=
  State.fld_of_word (h.words ho s)

theorem Prog.Only.bits {p : Prog} (h : p.Only (Act.obeys b)) {f : Fld} (ho : ¬b.reg f.off) (s : State) : (p.run s).bit f = s.bit f :=
  congrArg (· == 1) (h.flds ho s)

theorem Prog.Only.mems {p : Prog} (h : p.Only (Act.obeys b)) (hm : ¬b.mem) (s : State) : (p.run s).mem = s.mem :=
  Prog.Only.mem (h.mono fun a ha => by
    cases a with
    | bytes | zero => exact hm ha
    | _ => trivial) s

theorem Prog.Only.hosts {p : Prog} (h : p.Only (Act.obeys b)) (hm : ¬b.host) (s : State) : (p.run s).host = s.host :=
  Prog.Only.host (h.mono fun a ha => by
    cases a with
    | hostBytes => exact hm ha
    | _ => trivial) s

theorem Prog.Only.sameBytes_of_obeys {p : Prog} (h : p.Only (Act.obeys b)) (hm : ¬b.mem) (s : State) : SameBytes s (p.run s) :=
  fun a => congrArg (·.read a) (h.mems hm s)

theorem Prog.Only.sameHost_of_obeys {p : Prog} (h : p.Only (Act.obeys b)) (hm : ¬b.host) (s : State) : SameHost s (p.run s) :=
  fun a => congrArg (·.read a) (h.hosts hm s)

theorem Prog.Only.sameRegsBut {p : Prog} (h : p.Only (Act.obeys b)) {offs : List Nat} (ho : ∀ o, b.reg o → o ∈ offs) (s : State) :
    SameRegsBut s (p.run s) offs :=
  fun _ hx => h.words (fun hr => hx (ho _ hr)) s

/-! ## The shared operations -/

@[simp] theorem setF_obeys {f : Fld} {v : Nat} : (setF f v).Only (Act.obeys b) ↔ b.reg f.off :=
  ⟨fun h => h {}, fun h => Prog.only_setF fun _ => h⟩
@[simp] theorem setB_obeys {f : Fld} {c : Bool} : (setB f c).Only (Act.obeys b) ↔ b.reg f.off := setF_obeys
@[simp] theorem addF_obeys {f : Fld} {n : Nat} : (addF f n).Only (Act.obeys b) ↔ b.reg f.off :=
  ⟨fun h => h {} {}, fun h => Prog.only_addF fun _ => h⟩
@[simp] theorem incF_obeys {f : Fld} : (incF f).Only (Act.obeys b) ↔ b.reg f.off := addF_obeys
@[simp] theorem setUnit_obeys {u st : Nat} : (setUnit u st).Only (Act.obeys b) ↔ b.reg (0x40100 + 4 * u) := setF_obeys
@[simp] theorem bumpEpoch_obeys {u : Nat} : (bumpEpoch u).Only (Act.obeys b) ↔ b.reg (0x40100 + 4 * u) :=
  ⟨fun h => h {} {}, fun h => Prog.only_bumpEpoch fun _ => h⟩
theorem declareUnit_obeys {u st : Nat} (h : b.reg (0x40100 + 4 * u)) : (declareUnit u st).Only (Act.obeys b) :=
  Prog.only_declareUnit fun _ => h
theorem writeFields_obeys {off v : Nat} (h : b.reg off) : (writeFields off v).Only (Act.obeys b) := fun _ => h

theorem Bound.Logs.of_logs (hb : b.Logs) {p : Prog} (h : p.Only Act.logs) : p.Only (Act.obeys b) :=
  h.mono fun a ha => by
    cases a with
    | dev f =>
      intro d
      rw [(ha d).1]
      exact hb.dev _ _ _ _ (ha d).2
    | reg o v => exact hb.reg o ha
    | draw => trivial
    | _ => exact ha.elim

theorem Bound.Logs.logC (hb : b.Logs) (code sev unit : Nat) (ds : List Nat) (st : Option Nat) :
    (logC code sev unit ds st).Only (Act.obeys b) :=
  hb.of_logs (logC_onlyLogs code sev unit ds st)

theorem Bound.Logs.logLim (hb : b.Logs) (l : Limit) (id code sev unit : Nat) (ds : List Nat) (st : Option Nat) :
    (logLim l id code sev unit ds st).Only (Act.obeys b) :=
  hb.of_logs (logLim_onlyLogs l id code sev unit ds st)

end

end Sys2Proof.Machine
end

section
/-!
What the attachment of the USB port may touch (R533, R536, R562), with the load that is lost with it (R317).
-/
namespace Sys2Proof.Machine

/-- The registers that the end of a load and the USB port's attachment may write. -/
def usbRegs : List Nat := [0xC0000, 0xC0014, 0xC0018, 0x452000, 0x402D0]

/-- The bound lets a load end and the USB port detach. -/
structure Bound.Usb (b : Bound) : Prop where
  logs : b.Logs
  dev : ∀ d c v p, b.dev d { d with chuck := c, svc := v, poison := p }
  reg : ∀ o ∈ usbRegs, b.reg o
  mem : b.mem

section
variable {b : Bound} (hb : b.Usb)
include hb

theorem Bound.Usb.zeroFill (lo hi : Nat) : (zeroFill lo hi).Only (Act.obeys b) := ⟨hb.mem, fun d => hb.dev d d.chuck d.svc _, trivial⟩

theorem Bound.Usb.modChuck (f : Chuck → Chuck) : (modChuck f).Only (Act.obeys b) := fun d => hb.dev d _ d.svc d.poison

theorem Bound.Usb.modSvc (f : Service → Service) : (modSvc f).Only (Act.obeys b) := fun d => hb.dev d d.chuck _ d.poison

theorem Bound.Usb.startSource : startSource.Only (Act.obeys b) := by
  intro s
  show Prog.Only _ (match s.dev.chuck.sources with | [] => _ | x :: _ => _)
  have hs : b.reg 0xC0000 := hb.reg _ (by decide)
  cases s.dev.chuck.sources with
  | nil => exact ⟨hb.modChuck _, setF_obeys.mpr hs, hb.logs.logC _ _ _ _ _, trivial⟩
  | cons x l => exact ⟨hb.modChuck _, setF_obeys.mpr hs, setF_obeys.mpr hs, incF_obeys.mpr hs, trivial⟩

theorem Bound.Usb.unwriteLoad (l : Load) (code seg : Nat) : (unwriteLoad l code seg).Only (Act.obeys b) := by
  simp only [Machine.unwriteLoad, unwrite, Prog.only_look, Prog.only_when, Prog.only_each, Prog.only_all_cons, Prog.only_all_nil]
  exact fun _ _ _ _ _ _ => ⟨fun _ _ => hb.zeroFill _ _, fun _ _ _ _ _ => hb.zeroFill _ _, trivial⟩

theorem Bound.Usb.rejectLoad (code seg : Nat) : (rejectLoad code seg).Only (Act.obeys b) := by
  intro s
  show Prog.Only _ (match s.dev.chuck.load with | none => _ | some l => _)
  have hs : b.reg 0xC0000 := hb.reg _ (by decide)
  have hr : b.reg 0xC0014 := hb.reg _ (by decide)
  cases s.dev.chuck.load with
  | none => trivial
  | some l =>
    refine ⟨fun s => Prog.only_when.mpr fun _ => ⟨setB_obeys.mpr hs, Prog.only_when.mpr fun _ => hb.logs.logC _ _ _ _ _, trivial⟩,
      hb.unwriteLoad _ _ _, ⟨setF_obeys.mpr hr, setF_obeys.mpr hr, trivial⟩, setF_obeys.mpr (hb.reg _ (by decide)), hb.modChuck _,
      hb.logs.logC _ _ _ _ _, ?_, trivial⟩
    refine Prog.only_ite.mpr ⟨fun _ => setF_obeys.mpr hs, fun _ => Prog.only_ite.mpr ⟨fun _ => setF_obeys.mpr hs, fun _ s => ?_⟩⟩
    exact ⟨hb.logs.logC _ _ _ _ _, hb.modChuck _, hb.startSource, trivial⟩

theorem Bound.Usb.usbDetach : usbDetach.Only (Act.obeys b) :=
  ⟨fun _ => Prog.only_when.mpr fun _ => ⟨hb.rejectLoad _ _, hb.logs.logC _ _ _ _ _, trivial⟩,
    ⟨hb.modSvc _, setF_obeys.mpr (hb.reg _ (by decide)), trivial⟩, declareUnit_obeys (hb.reg _ (by decide)), trivial⟩

theorem Bound.Usb.usbCheck : usbCheck.Only (Act.obeys b) :=
  fun _ => Prog.only_ite.mpr ⟨fun _ => Prog.only_when.mpr fun _ => declareUnit_obeys (hb.reg _ (by decide)),
    fun _ => Prog.only_when.mpr fun _ => hb.usbDetach⟩

end

/-- A port that is off and stays so, or attaches, touches no memory. -/
theorem usbCheck_mem {s : State} (h : s.unitState 116 = 0) : (usbCheck.run s).mem = s.mem := by
  have hd : (declareUnit 116 1).Only Act.sparesMem := Prog.only_declareUnit fun _ => trivial
  rw [usbCheck, Prog.run_look, h]
  split
  · exact hd.mem s
  · rfl

/-- What the USB port does keeps the Headstock, the log's count from falling, the host's memory, and the registers beside. -/
def usbBound : Bound where
  dev d e := e.hs = d.hs ∧ d.log.count ≤ e.log.count
  reg o := o ∈ usbRegs ++ logRegs
  mem := True
  host := False

theorem usbBound_usb : usbBound.Usb where
  logs := ⟨fun _ _ _ _ h => ⟨rfl, h⟩, fun _ h => List.mem_append_right _ h⟩
  dev _ _ _ _ := ⟨rfl, le_refl _⟩
  reg _ h := List.mem_append_left _ h
  mem := trivial

theorem usbBound_steps : usbBound.Steps := ⟨fun _ => ⟨rfl, le_refl _⟩, fun h k => ⟨k.1.trans h.1, le_trans h.2 k.2⟩⟩

theorem usbCheck_bound : usbCheck.Only (Act.obeys usbBound) := usbBound_usb.usbCheck

theorem usbCheck_hs (s : State) : (usbCheck.run s).dev.hs = s.dev.hs := (usbCheck_bound.devs usbBound_steps s).1
theorem usbCheck_count (s : State) : s.dev.log.count ≤ (usbCheck.run s).dev.log.count := (usbCheck_bound.devs usbBound_steps s).2
theorem usbCheck_host (s : State) : (usbCheck.run s).host = s.host := usbCheck_bound.hosts id s
theorem usbCheck_word {off : Nat} (h : off ∉ usbRegs ++ logRegs) (s : State) : (usbCheck.run s).word off = s.word off :=
  usbCheck_bound.words h s

end Sys2Proof.Machine
end

section
/-!
One tick (R32, R44, R54): what a step does where no command waits.
-/
namespace Sys2Proof.Machine

/-! ## Which tick -/

theorem tick_run_stopped {s : State} (h : s.dev.pwr.por = true ∨ s.dev.hs.counting = false) : tick.run s = s := by
  rw [tick, Prog.run_look, if_pos (by rcases h with h | h <;> simp [h])]
  rfl

theorem tick_run_working {s : State} (hp : s.dev.pwr.por = false) (hc : s.dev.hs.counting = true) (hr : s.carried = false) :
    tick.run s = workTick.run s := by
  rw [tick, Prog.run_look, if_neg (by simp [hp, hc]), if_neg (by simp [hr])]

theorem tick_run_carried {s : State} (hp : s.dev.pwr.por = false) (hc : s.dev.hs.counting = true) (hr : s.carried = true) :
    tick.run s = { s with dev := { s.dev with hs := { s.dev.hs with
      now := s.dev.hs.now + BitVec.ofNat 64 (s.fld F.TB_REST_RATIO_INT + (s.dev.hs.restFrac + s.fld F.TB_REST_RATIO_FRAC) / 256),
      restFrac := (s.dev.hs.restFrac + s.fld F.TB_REST_RATIO_FRAC) % 256 } } } := by
  rw [tick, Prog.run_look, if_neg (by simp [hp, hc]), if_pos hr]
  rfl

/-- The whole part and the fraction of the ratio make up its word. -/
theorem restRatio_eq (s : State) : (s.word F.TB_REST_RATIO_FRAC.off).toNat = 256 * s.fld F.TB_REST_RATIO_INT + s.fld F.TB_REST_RATIO_FRAC := by
  have h : (s.word 0x10044).toNat < 2 ^ 32 := (s.word 0x10044).isLt
  show (s.word 0x10044).toNat = 256 * ((s.word 0x10044).toNat / 2 ^ 8 % 2 ^ 24) + (s.word 0x10044).toNat / 2 ^ 0 % 2 ^ 8
  omega

/-! ## The correction -/

theorem signedOf_patternOf_24 {i : Int} (hlo : -8388608 ≤ i) (hhi : i < 8388608) : signedOf 24 (patternOf 24 i % 2 ^ 24) = i := by
  unfold signedOf patternOf
  dsimp only
  split <;> omega

theorem State.remain_bounds (s : State) : -8388608 ≤ s.remain ∧ s.remain < 8388608 := by
  unfold State.remain signedOf
  dsimp only
  split <;> omega

theorem State.remain_setF (s : State) {i : Int} (hlo : -8388608 ≤ i) (hhi : i < 8388608) :
    ((setF F.TB_SLEW_REMAIN (patternOf 24 i)).run s).remain = i := by
  rw [State.remain, Prog.fld_setF_same _ _ _ (by decide), signedOf_patternOf_24 hlo hhi]

theorem accrueSlew_run_none {s : State} (h : s.remain = 0) : accrueSlew.run s = s := by
  rw [accrueSlew, Prog.run_look, h]
  rfl

theorem accrueSlew_remain_below {s : State} (h : s.dev.hs.slewFrac + s.slewThrough.natAbs < slewUnit) : (accrueSlew.run s).remain = s.remain := by
  rw [accrueSlew, Prog.run_look]
  dsimp only
  rw [if_pos h, Prog.run_when]
  split <;> rfl

theorem accrueSlew_remain_whole {s : State} (h : slewUnit ≤ s.dev.hs.slewFrac + s.slewThrough.natAbs) (hr : 1 < s.remain.natAbs) :
    (accrueSlew.run s).remain = if 0 < s.remain then s.remain - 1 else s.remain + 1 := by
  obtain ⟨hlo, hhi⟩ := s.remain_bounds
  have hne : (s.remain != 0) = true := by rw [bne_iff_ne]; omega
  rw [accrueSlew, Prog.run_look]
  dsimp only
  rw [if_neg (by omega), if_neg (by omega), Prog.run_when, if_pos hne, Prog.run_all_cons, Prog.run_all_cons, Prog.run_all_nil]
  exact State.remain_setF _ (by split <;> omega) (by split <;> omega)

/-! ## The rest of the tick -/

/-- The end of a change of MODE, and the USB port's wait, after the count has gone on. -/
def tickTail : Prog :=
  all [look fun s => when s.dev.hs.modeWas.isSome (all [modHs fun h => { h with modeWas := none }, updateClamp]), usbWait]

theorem workTick_run (s : State) : workTick.run s =
    tickTail.run ((modHs fun h => { h with now := h.now + 1, ppsOutLeft := h.ppsOutLeft - 1 }).run (accrueSlew.run s)) := rfl

theorem updateClamp_obeys {b : Bound} (hl : b.Logs) (hr : b.reg 0x10008) : updateClamp.Only (Act.obeys b) :=
  fun _ => ⟨setB_obeys.mpr hr, Prog.only_when.mpr fun _ => hl.logC _ _ _ _ _, trivial⟩

/-- The rest of the tick keeps the count and writes only TB_STATUS and what the USB port may write. -/
abbrev tailBound : Bound where
  dev d e := e.hs.now = d.hs.now
  reg o := o ∈ 0x10008 :: (usbRegs ++ logRegs)
  mem := True
  host := False

theorem tailBound_steps : tailBound.Steps := ⟨fun _ => rfl, fun h k => k.trans h⟩

theorem tailBound_usb : tailBound.Usb where
  logs := ⟨fun _ _ _ _ _ => rfl, fun _ h => List.mem_cons_of_mem _ (List.mem_append_right _ h)⟩
  dev _ _ _ _ := rfl
  reg _ h := List.mem_cons_of_mem _ (List.mem_append_left _ h)
  mem := trivial

theorem tickTail_bound : tickTail.Only (Act.obeys tailBound) :=
  ⟨fun _ => Prog.only_when.mpr fun _ => ⟨fun _ => rfl, updateClamp_obeys tailBound_usb.logs List.mem_cons_self, trivial⟩,
    fun _ => Prog.only_when.mpr fun _ => ⟨tailBound_usb.modSvc _, Prog.only_when.mpr fun _ => tailBound_usb.usbCheck, trivial⟩, trivial⟩

theorem tickTail_run_idle {s : State} (hm : s.dev.hs.modeWas = none) (hu : s.dev.svc.usbOff = 0) : tickTail.run s = s := by
  rw [tickTail, Prog.run_all_cons, Prog.run_all_cons, Prog.run_all_nil, Prog.run_look, hm, usbWait]
  show Prog.run (look _) s = s
  rw [Prog.run_look, hu]
  rfl

theorem modeEnd_bound : (look fun s => when s.dev.hs.modeWas.isSome (all [modHs fun h => { h with modeWas := none }, updateClamp])).Only
    (Act.obeys { dev := fun d e => e.svc = d.svc, reg := fun o => o ∈ 0x10008 :: logRegs, mem := False, host := False }) :=
  fun _ => Prog.only_when.mpr fun _ => ⟨fun _ => rfl,
    updateClamp_obeys ⟨fun _ _ _ _ _ => rfl, fun _ h => List.mem_cons_of_mem _ h⟩ List.mem_cons_self, trivial⟩

theorem tickTail_mem {s : State} (h : s.dev.svc.usbOff ≠ 1 ∨ s.unitState 116 = 0) : (tickTail.run s).mem = s.mem := by
  rw [tickTail, Prog.run_all_cons, Prog.run_all_cons, Prog.run_all_nil]
  generalize hv : Prog.run (look _) s = v
  have hsvc : v.dev.svc = s.dev.svc := hv ▸ modeEnd_bound.devs ⟨fun _ => rfl, fun h k => k.trans h⟩ s
  have hunit : v.unitState 116 = s.unitState 116 := hv ▸ modeEnd_bound.flds (by decide) s
  have hmem : v.mem = s.mem := hv ▸ modeEnd_bound.mems id s
  rw [← hsvc, ← hunit] at h
  rw [← hmem, usbWait, Prog.run_look, Prog.run_when]
  split
  · rw [Prog.run_all_cons, Prog.run_all_cons, Prog.run_all_nil, Prog.run_when]
    split
    · next h1 =>
      exact usbCheck_mem (s := (modSvc _).run v) (h.resolve_left fun k => k (beq_iff_eq.mp h1))
    · rfl
  · rfl

/-! ## A working tick -/

abbrev accrueBound : Bound where
  dev d e := e = { d with hs := { d.hs with slewFrac := e.hs.slewFrac } }
  reg o := o = 0x10014
  mem := False
  host := False

theorem accrueSlew_bound : accrueSlew.Only (Act.obeys accrueBound) := by
  simp [accrueSlew, modHs]

theorem accrueSlew_dev (s : State) : (accrueSlew.run s).dev =
    { s.dev with hs := { s.dev.hs with slewFrac := (accrueSlew.run s).dev.hs.slewFrac } } :=
  accrueSlew_bound.devs ⟨fun _ => rfl, fun h k => by rw [k, h]⟩ s

theorem workTick_now (s : State) : (workTick.run s).dev.hs.now = s.dev.hs.now + 1 := by
  rw [workTick_run, tickTail_bound.devs tailBound_steps]
  show (accrueSlew.run s).dev.hs.now + 1 = _
  rw [accrueSlew_dev]

theorem workTick_remain (s : State) : (workTick.run s).remain = (accrueSlew.run s).remain := by
  rw [workTick_run, State.remain, tickTail_bound.flds (by decide)]
  rfl

theorem workTick_mem {s : State} (h : s.dev.svc.usbOff ≠ 1 ∨ s.unitState 116 = 0) : (workTick.run s).mem = s.mem := by
  rw [workTick_run, tickTail_mem]
  · exact accrueSlew_bound.mems id s
  · have hsvc : (accrueSlew.run s).dev.svc = s.dev.svc := by rw [accrueSlew_dev]
    have hunit : (accrueSlew.run s).unitState 116 = s.unitState 116 := accrueSlew_bound.flds (by decide) s
    show (accrueSlew.run s).dev.svc.usbOff ≠ 1 ∨ (accrueSlew.run s).unitState 116 = 0
    rwa [hsvc, hunit]

theorem workTick_host (s : State) : (workTick.run s).host = s.host := by
  rw [workTick_run, tickTail_bound.hosts id]
  exact accrueSlew_bound.hosts id s

theorem workTick_run_idle {s : State} (hr : s.remain = 0) (hm : s.dev.hs.modeWas = none) (hu : s.dev.svc.usbOff = 0) : workTick.run s =
    { s with dev := { s.dev with hs := { s.dev.hs with now := s.dev.hs.now + 1, ppsOutLeft := s.dev.hs.ppsOutLeft - 1 } } } := by
  rw [workTick_run, accrueSlew_run_none hr]
  exact tickTail_run_idle hm hu

/-! ## The obligation -/

/-- A tick that is neither void nor the rest domain's is a working tick. -/
theorem tick_cases (s : State) : tick.run s = s ∨ (∃ h, tick.run s = { s with dev := { s.dev with hs := h } }) ∨ tick.run s = workTick.run s := by
  by_cases hstop : s.dev.pwr.por = true ∨ s.dev.hs.counting = false
  · exact .inl (tick_run_stopped hstop)
  · have hp : s.dev.pwr.por = false := by simpa using fun k => hstop (.inl k)
    have hc : s.dev.hs.counting = true := by simpa using fun k => hstop (.inr k)
    cases hr : s.carried with
    | true => exact .inr (.inl ⟨_, tick_run_carried hp hc hr⟩)
    | false => exact .inr (.inr (tick_run_working hp hc hr))

theorem tick_mem {s : State} (h : s.dev.svc.usbOff ≠ 1 ∨ s.unitState 116 = 0) : (tick.run s).mem = s.mem := by
  rcases tick_cases s with e | ⟨_, e⟩ | e <;> rw [e]
  exact workTick_mem h

theorem tick_host (s : State) : (tick.run s).host = s.host := by
  rcases tick_cases s with e | ⟨_, e⟩ | e <;> rw [e]
  exact workTick_host s

/-- Settles O20, by the three kinds of tick. -/
theorem idleStepAdvancesCount : Obligations.IdleStepAdvancesCount := by
  intro s hpend
  refine ⟨tick.run s, by rw [step, hpend]; rfl, tick_run_stopped, fun hp hc hr => ?_, fun hp hc hr hf => ?_, tick_mem, tick_host s⟩
  · rw [tick_run_working hp hc hr]
    refine ⟨workTick_now s, fun h0 hm hu => by rw [workTick_run_idle h0 hm hu]; exact ⟨rfl, rfl⟩, fun hb => ?_, fun hw hr => ?_, fun hw hr => ?_⟩
    · rw [workTick_remain, accrueSlew_remain_below hb]
    · rw [workTick_remain, accrueSlew_remain_whole hw (by omega), if_pos (by omega)]
    · rw [workTick_remain, accrueSlew_remain_whole hw (by omega), if_neg (by omega)]
  · have hdiv : (s.dev.hs.restFrac + (s.word F.TB_REST_RATIO_FRAC.off).toNat) / 256 =
        s.fld F.TB_REST_RATIO_INT + (s.dev.hs.restFrac + s.fld F.TB_REST_RATIO_FRAC) / 256 := by rw [restRatio_eq]; omega
    have hmod : (s.dev.hs.restFrac + (s.word F.TB_REST_RATIO_FRAC.off).toNat) % 256 =
        (s.dev.hs.restFrac + s.fld F.TB_REST_RATIO_FRAC) % 256 := by rw [restRatio_eq]; omega
    rw [tick_run_carried hp hc hr]
    dsimp only
    rw [hdiv, hmod]
    exact ⟨rfl, rfl, rfl⟩

end Sys2Proof.Machine
end

section
/-!
The Headstock's states, steering and uncertainty (R37 to R44, R52 to R54, R66): the equations of the commands of O22.
-/
namespace Sys2Proof.Machine

/-! ## Shared -/

theorem completes_done {c : Instr} {s : State} {p : Prog} {P : State → Prop} (h : exec c s = done p s) (hp : P (p.run s)) :
    Completes c s P := ⟨_, h, hp⟩

theorem logC_run_onlyLogs (code sev unit : Nat) (ds : List Nat) (st : Option Nat) (s : State) :
    OnlyLogs s ((logC code sev unit ds st).run s) := (logC_onlyLogs code sev unit ds st).onlyLogs s

theorem Prog.bit_setB_same {f : Fld} (hw : f.w = 1) (hf : f.lo + f.w ≤ 32) (c : Bool) (s : State) : ((setB f c).run s).bit f = c := by
  rw [State.bit, setB, Prog.fld_setF_same _ _ _ hf, hw]
  cases c <;> rfl

/-- A unit that declares a new state has it, and its epoch is one more (R588). -/
theorem declareUnit_run_of_ne {s : State} {u st : Nat} (h : s.unitState u ≠ st) (hst : st < 16) :
    ((declareUnit u st).run s).unitState u = st ∧ ((declareUnit u st).run s).epoch u = (s.epoch u + 1) % 65536 := by
  have hne : (s.unitState u != st) = true := bne_iff_ne.mpr h
  rw [declareUnit, Prog.run_look, Prog.run_when, if_pos hne, Prog.run_all_cons, Prog.run_all_cons, Prog.run_all_nil]
  have hstate : ((setUnit u st).run s).unitState u = st := by
    rw [State.unitState, setUnit, Prog.fld_setF_same _ _ _ (by decide : (0 : ℕ) + 4 ≤ 32)]
    exact Nat.mod_eq_of_lt hst
  have hepoch : ((setUnit u st).run s).epoch u = s.epoch u :=
    Prog.fld_setF_other (F.LEDG_UNIT_STATE u) (F.LEDG_UNIT_EPOCH u) st s (by decide : (16 : ℕ) + 16 ≤ 32)
      (.inr (.inr (by decide : (0 : ℕ) + 4 ≤ 16)))
  constructor
  · refine Eq.trans ?_ hstate
    exact Prog.fld_setF_other (F.LEDG_UNIT_EPOCH u) (F.LEDG_UNIT_STATE u) _ _ (by decide : (0 : ℕ) + 4 ≤ 32)
      (.inr (.inl (by decide : (0 : ℕ) + 4 ≤ 16)))
  · rw [← hepoch]
    exact Prog.fld_setF_same (F.LEDG_UNIT_EPOCH u) _ _ (by decide : (16 : ℕ) + 16 ≤ 32)

theorem declareUnit_run_dev (u st : Nat) (s : State) : ((declareUnit u st).run s).dev = s.dev :=
  (Prog.only_declareUnit fun _ => trivial : (declareUnit u st).Only Act.sparesDev).dev s

theorem declareUnit_run_mem (u st : Nat) (s : State) : ((declareUnit u st).run s).mem = s.mem :=
  (Prog.only_declareUnit fun _ => trivial : (declareUnit u st).Only Act.sparesMem).mem s

theorem declareUnit_run_host (u st : Nat) (s : State) : ((declareUnit u st).run s).host = s.host :=
  (Prog.only_declareUnit fun _ => trivial : (declareUnit u st).Only Act.sparesHost).host s

theorem declareUnit_run_word {u st off : Nat} (h : off ≠ 0x40100 + 4 * u) (s : State) : ((declareUnit u st).run s).word off = s.word off :=
  (Prog.only_declareUnit fun _ => Ne.symm h : (declareUnit u st).Only (Act.sparesReg off)).word s

theorem State.ticking_iff {s : State} : s.ticking = true ↔ s.dev.pwr.por = false ∧ s.dev.hs.counting = true ∧ s.carried = false := by
  simp [State.ticking, and_assoc]

/-! ## The clamp -/

/-- Judging the clamp keeps the Headstock and writes TB_STATUS and the log's registers. -/
abbrev clampBound : Bound where
  dev d e := e.hs = d.hs
  reg o := o ∈ 0x10008 :: logRegs
  mem := False
  host := False

theorem clampBound_steps : clampBound.Steps := ⟨fun _ => rfl, fun h k => k.trans h⟩

theorem updateClamp_bound : updateClamp.Only (Act.obeys clampBound) :=
  updateClamp_obeys ⟨fun _ _ _ _ _ => rfl, fun _ h => List.mem_cons_of_mem _ h⟩ List.mem_cons_self

theorem updateClamp_hs (s : State) : (updateClamp.run s).dev.hs = s.dev.hs := updateClamp_bound.devs clampBound_steps s

/-- Of TB_STATUS only CLAMP follows the steering sum. -/
theorem updateClamp_fld {f : Fld} (h : f.off ∉ logRegs) (hw : f.lo + f.w ≤ 32) (hb : f.off ≠ 0x10008 ∨ f.lo + f.w ≤ 5 ∨ 6 ≤ f.lo) (s : State) :
    (updateClamp.run s).fld f = s.fld f := by
  rw [updateClamp, Prog.run_look, Prog.run_all_cons, Prog.run_all_cons, Prog.run_all_nil]
  have hlog : ∀ c v, ((when c (logC 0x1007 0 40 [])).run v).fld f = v.fld f := fun c v => by
    rw [Prog.run_when]
    split
    · exact (logC_run_onlyLogs _ _ _ _ _ v).fld h
    · rfl
  rw [hlog]
  exact Prog.fld_setF_other _ _ _ _ hw hb

theorem updateClamp_bit {f : Fld} (h : f.off ∉ logRegs) (hw : f.lo + f.w ≤ 32) (hb : f.off ≠ 0x10008 ∨ f.lo + f.w ≤ 5 ∨ 6 ≤ f.lo) (s : State) :
    (updateClamp.run s).bit f = s.bit f := congrArg (· == 1) (updateClamp_fld h hw hb s)

/-! ## What ends a change of unit 40 -/

theorem submitAutoen_run_none {s : State} (h : s.dev.chuck.autoen = 0) : submitAutoen.run s = s := by
  rw [submitAutoen, Prog.run_look, h]
  rfl

theorem unit40_of_usbBound {p : Prog} (h : p.Only (Act.obeys usbBound)) (s : State) : (p.run s).unitState 40 = s.unitState 40 ∧
    (p.run s).epoch 40 = s.epoch 40 :=
  ⟨h.flds (by rw [usbBound]; decide) s, h.flds (by rw [usbBound]; decide) s⟩

/-- The registers of unit 40's line and of the log are outside the USB port's. -/
theorem usbCheck_unit40 (s : State) : (usbCheck.run s).unitState 40 = s.unitState 40 ∧ (usbCheck.run s).epoch 40 = s.epoch 40 :=
  unit40_of_usbBound usbCheck_bound s

theorem OnlyLogs.unit40 {s u : State} (h : OnlyLogs s u) : u.unitState 40 = s.unitState 40 ∧ u.epoch 40 = s.epoch 40 :=
  ⟨h.fld (f := F.LEDG_UNIT_STATE 40) (by decide), h.fld (f := F.LEDG_UNIT_EPOCH 40) (by decide)⟩

/-- Unit 40 declares a state, and the Headstock changes beside. -/
structure Declared (s v : State) (st : Nat) (f : Headstock → Headstock) : Prop where
  state : v.unitState 40 = st
  epoch : v.epoch 40 = (s.epoch 40 + 1) % 65536
  dev : v.dev = { s.dev with hs := f s.dev.hs }
  words : ∀ off, off ≠ 0x401A0 → v.word off = s.word off
  mem : v.mem = s.mem
  host : v.host = s.host

theorem declared_run {s : State} {st : Nat} (h : s.unitState 40 ≠ st) (hst : st < 16) (f : Headstock → Headstock) :
    Declared s ((modHs f).run ((declareUnit 40 st).run s)) st f := by
  obtain ⟨hstate, hepoch⟩ := declareUnit_run_of_ne h hst
  have hd := declareUnit_run_dev 40 st s
  refine ⟨hstate, hepoch, ?_, fun off ho => declareUnit_run_word ho s, declareUnit_run_mem 40 st s, declareUnit_run_host 40 st s⟩
  show { ((declareUnit 40 st).run s).dev with hs := f ((declareUnit 40 st).run s).dev.hs } = _
  rw [hd]

/-- The same without a change of the Headstock. -/
theorem declared_run_id {s : State} {st : Nat} (h : s.unitState 40 ≠ st) (hst : st < 16) : Declared s ((declareUnit 40 st).run s) st id :=
  declared_run h hst id

/-! ## The reference comes and goes -/

/-- FREE from the start (R37, R38). -/
theorem tbFree_completes {s : State} (hp : s.dev.pwr.por = false) (hc : s.dev.hs.counting = false) (hu : s.unitState 40 = 1)
    (ha : s.dev.chuck.autoen = 0) : Completes .tbFree s fun u => u.unitState 40 = 0 ∧ u.dev.hs.counting = true ∧
      u.epoch 40 = (s.epoch 40 + 1) % 65536 ∧ u.dev.hs.now = s.dev.hs.now ∧ SameHost s u := by
  refine completes_done (p := tbFreeProg) rfl ?_
  rw [tbFreeProg, Prog.run_look, Prog.run_when, if_pos (by simp [hp, hc, hu])]
  simp only [Prog.run_all_cons, Prog.run_all_nil]
  have hv := declared_run (s := s) (st := 0) (by rw [hu]; decide) (by decide) fun h => { h with counting := true }
  generalize (modHs _).run _ = v at hv
  have hlog := logC_run_onlyLogs 0x1003 1 40 [] none v
  generalize (logC 0x1003 1 40 []).run v = w at hlog
  rw [submitAutoen_run_none (by rw [hlog.dev, hv.dev]; exact ha), (usbCheck_unit40 w).1, (usbCheck_unit40 w).2, usbCheck_hs, hlog.dev,
    hv.dev, hlog.unit40.1, hlog.unit40.2]
  exact ⟨hv.state, rfl, hv.epoch, rfl, fun a => by rw [usbCheck_host, hlog.host, hv.host]⟩

theorem tbrefLost_run {s : State} (ht : s.ticking = true) (hu : s.unitState 40 = 2 ∨ s.unitState 40 = 1) : tbrefLostProg.run s =
    if s.dev.hs.everLocked then
      (logC 0x1001 1 40 []).run ((modHs fun h => { h with holdTemp := s.fld F.PCK_TEMP_TEMP }).run ((declareUnit 40 3).run s))
    else usbCheck.run ((declareUnit 40 0).run s) := by
  rw [tbrefLostProg, Prog.run_look, Prog.run_when, if_pos (by rcases hu with h | h <;> simp [ht, h])]
  by_cases h : s.dev.hs.everLocked = true
  · rw [if_pos h, if_pos h, Prog.run_all_cons, Prog.run_all_cons, Prog.run_all_cons, Prog.run_all_nil]
  · rw [if_neg h, if_neg h, Prog.run_all_cons, Prog.run_all_cons, Prog.run_all_nil]

/-- HOLDOVER (R39). -/
theorem tbrefLost_holdover {s : State} (ht : s.ticking = true) (hu : s.unitState 40 = 2 ∨ s.unitState 40 = 1)
    (hl : s.dev.hs.everLocked = true) : Completes .tbrefLost s fun u => u.unitState 40 = 3 ∧ u.epoch 40 = (s.epoch 40 + 1) % 65536 ∧
      u.dev.hs.counting = true ∧ u.dev.hs.now = s.dev.hs.now ∧ u.dev.log.count ≠ s.dev.log.count ∧ SameBytes s u ∧ SameHost s u ∧
      SameRegsBut s u ((F.LEDG_UNIT_STATE 40).off :: catchRegs) := by
  refine completes_done (p := tbrefLostProg) rfl ?_
  rw [tbrefLost_run ht hu, if_pos hl]
  have hv := declared_run (s := s) (st := 3) (by rcases hu with h | h <;> rw [h] <;> decide) (by decide)
    fun h => { h with holdTemp := s.fld F.PCK_TEMP_TEMP }
  generalize (modHs _).run _ = v at hv
  have hlog := logC_run_onlyLogs 0x1001 1 40 [] none v
  have hcount := logC_count_lt 0x1001 1 40 [] none v
  generalize (logC 0x1001 1 40 []).run v = w at hlog hcount
  have hc : v.dev.log.count = s.dev.log.count := by rw [hv.dev]
  rw [hlog.unit40.1, hlog.unit40.2]
  refine ⟨hv.state, hv.epoch, ?_, ?_, by omega, fun a => by rw [hlog.mem, hv.mem], fun a => by rw [hlog.host, hv.host], fun o ho => ?_⟩
  · rw [hlog.dev, hv.dev]
    exact (State.ticking_iff.mp ht).2.1
  · rw [hlog.dev, hv.dev]
  · rw [List.mem_cons, not_or] at ho
    rw [hlog.regs o ho.2, hv.words o ho.1]

/-- FREE again before any lock (R39). -/
theorem tbrefLost_free {s : State} (ht : s.ticking = true) (hu : s.unitState 40 = 1) (hl : s.dev.hs.everLocked = false) :
    Completes .tbrefLost s fun u => u.unitState 40 = 0 ∧ u.dev.hs.counting = true ∧ u.dev.hs.now = s.dev.hs.now ∧ SameHost s u := by
  refine completes_done (p := tbrefLostProg) rfl ?_
  rw [tbrefLost_run ht (.inr hu), if_neg (by simp [hl])]
  have hv := declared_run_id (s := s) (st := 0) (by rw [hu]; decide) (by decide)
  generalize (declareUnit 40 0).run s = v at hv
  rw [(usbCheck_unit40 v).1, usbCheck_hs, hv.dev]
  exact ⟨hv.state, (State.ticking_iff.mp ht).2.1, rfl, fun a => by rw [usbCheck_host, hv.host]⟩

/-- LOCKING again (R40). -/
theorem tbrefBack_completes {s : State} (ht : s.ticking = true) (hu : s.unitState 40 = 3 ∨ s.unitState 40 = 0) :
    Completes .tbrefBack s fun u => u.unitState 40 = 1 ∧ u.dev.hs.counting = true ∧ u.dev.hs.now = s.dev.hs.now ∧
      u.dev.log.count ≠ s.dev.log.count ∧ SameHost s u := by
  refine completes_done rfl ?_
  rw [Prog.run_when, if_pos (by rcases hu with h | h <;> simp [ht, h])]
  simp only [Prog.run_all_cons, Prog.run_all_nil]
  have hv := declared_run_id (s := s) (st := 1) (by rcases hu with h | h <;> rw [h] <;> decide) (by decide)
  generalize (declareUnit 40 1).run s = v at hv
  have hlog := logC_run_onlyLogs 0x1002 0 40 [] none v
  have hcount := logC_count_lt 0x1002 0 40 [] none v
  generalize (logC 0x1002 0 40 []).run v = w at hlog hcount
  have hc : v.dev.log.count = s.dev.log.count := by rw [hv.dev]
  have hk := usbCheck_count w
  rw [(usbCheck_unit40 w).1, usbCheck_hs, hlog.dev, hv.dev, hlog.unit40.1]
  exact ⟨hv.state, (State.ticking_iff.mp ht).2.1, rfl, by omega, fun a => by rw [usbCheck_host, hlog.host, hv.host]⟩

/-- LOCKED (R32, R37). -/
theorem tbLock_completes {s : State} (hp : s.dev.pwr.por = false) (hc : s.carried = false) (hu : s.unitState 40 = 1)
    (ha : s.dev.chuck.autoen = 0) : Completes .tbLock s fun u => u.unitState 40 = 2 ∧ u.dev.hs.counting = true ∧
      u.dev.hs.everLocked = true ∧ u.dev.hs.now = s.dev.hs.now ∧ SameHost s u := by
  refine completes_done rfl ?_
  rw [Prog.run_when, if_pos (by simp [hp, hc, hu])]
  simp only [Prog.run_all_cons, Prog.run_all_nil]
  have hv := declared_run (s := s) (st := 2) (by rw [hu]; decide) (by decide) fun h => { h with counting := true, everLocked := true }
  generalize (modHs _).run _ = v at hv
  rw [submitAutoen_run_none (by rw [hv.dev]; exact ha), (usbCheck_unit40 v).1, usbCheck_hs, hv.dev]
  exact ⟨hv.state, rfl, rfl, rfl, fun a => by rw [usbCheck_host, hv.host]⟩

theorem crystalFail_completes {s : State} (hp : s.dev.pwr.por = false) :
    Completes .crystalFail s fun u => u.bit F.TB_STATUS_XTAL = false ∧ u.dev.hs = s.dev.hs ∧ SameHost s u := by
  refine completes_done rfl ?_
  rw [Prog.run_when, if_pos (by simp [hp])]
  simp only [Prog.run_all_cons, Prog.run_all_nil]
  have hx : ((setB F.TB_STATUS_XTAL false).run s).bit F.TB_STATUS_XTAL = false := Prog.bit_setB_same rfl (by decide) false s
  have hk : (usbCheck.run ((setB F.TB_STATUS_XTAL false).run s)).bit F.TB_STATUS_XTAL = ((setB F.TB_STATUS_XTAL false).run s).bit F.TB_STATUS_XTAL :=
    usbCheck_bound.bits (by rw [usbBound]; decide) _
  exact ⟨hk.trans hx, usbCheck_hs _, fun a => by rw [usbCheck_host]; rfl⟩

theorem restRatioMeasure_completes {s : State} {r : Word} (ht : s.ticking = true) (hu : s.unitState 40 = 2) :
    Completes (.restRatioMeasure r) s fun u => u.word F.TB_REST_RATIO_FRAC.off = r ∧ u.dev = s.dev ∧ SameBytes s u ∧ SameHost s u ∧
      SameRegsBut s u [F.TB_REST_RATIO_FRAC.off] := by
  refine completes_done rfl ?_
  rw [Prog.run_when, if_pos (by simp [ht, hu]), Prog.run_setWord]
  refine ⟨?_, rfl, fun _ => rfl, fun _ => rfl, fun o ho => ?_⟩
  · rw [State.word_reg, if_pos rfl, BitVec.ofNat_toNat, BitVec.setWidth_eq]
  · rw [State.word_reg, if_neg (by simpa using ho)]

/-! ## Slew and mode -/

/-- A new REMAIN with its SLEWING, and the clamp judged afresh. -/
def loadRemain (v : Nat) (on : Bool) : Prog :=
  all [setF F.TB_SLEW_REMAIN v, modHs fun h => { h with slewFrac := 0 }, setB F.TB_STATUS_SLEWING on, updateClamp]

structure Loaded (s u : State) (v : Nat) (on : Bool) : Prop where
  remain : u.fld F.TB_SLEW_REMAIN = v % 2 ^ 24
  slewing : u.bit F.TB_STATUS_SLEWING = on
  hs : u.dev.hs = { s.dev.hs with slewFrac := 0 }
  bytes : SameBytes s u
  host : SameHost s u
  regs : SameRegsBut s u (F.TB_SLEW_REMAIN.off :: F.TB_STATUS_SLEWING.off :: catchRegs)

theorem loadRemain_loaded (v : Nat) (on : Bool) (s : State) : Loaded s ((loadRemain v on).run s) v on := by
  simp only [loadRemain, Prog.run_all_cons, Prog.run_all_nil]
  generalize hr : (setF F.TB_SLEW_REMAIN v).run s = r
  have hrem : r.fld F.TB_SLEW_REMAIN = v % 2 ^ 24 := hr ▸ Prog.fld_setF_same _ _ _ (by decide)
  have hword : ∀ o, o ≠ 0x10014 → r.word o = s.word o := fun o ho => hr ▸
    (Prog.only_setF fun _ => Ne.symm ho : (setF F.TB_SLEW_REMAIN v).Only (Act.sparesReg o)).word s
  generalize hw : (modHs fun h => { h with slewFrac := 0 }).run r = w
  generalize hx : (setB F.TB_STATUS_SLEWING on).run w = x
  have hon : x.bit F.TB_STATUS_SLEWING = on := hx ▸ Prog.bit_setB_same rfl (by decide) on w
  have hxword : ∀ o, o ≠ 0x10008 → x.word o = r.word o := fun o ho => by
    rw [← hx, (Prog.only_setB fun _ => Ne.symm ho : (setB F.TB_STATUS_SLEWING on).Only (Act.sparesReg o)).word w, ← hw]
    rfl
  refine ⟨?_, ?_, ?_, fun a => ?_, fun a => ?_, fun o ho => ?_⟩
  · rw [updateClamp_fld (by decide) (by decide) (by decide), ← hrem]
    exact State.fld_of_word (hxword _ (by decide))
  · rw [updateClamp_bit (by decide) (by decide) (by decide), hon]
  · rw [updateClamp_hs, ← hx, ← hw, ← hr]
    rfl
  · rw [updateClamp_bound.mems id, ← hx, ← hw, ← hr]
    rfl
  · rw [updateClamp_bound.hosts id, ← hx, ← hw, ← hr]
    rfl
  · rw [List.mem_cons, List.mem_cons, not_or, not_or] at ho
    rw [updateClamp_bound.words (fun k => (List.mem_cons.mp k).elim ho.2.1 ho.2.2), hxword o ho.2.1, hword o ho.1]

theorem slewRequest_completes {s : State} {p : Path} {v : Word} (hr : s.reach p F.TB_SLEW_REMAIN.off = true) :
    Completes (.slewRequest p v) s fun u => u.fld F.TB_SLEW_REMAIN = v.toNat % 2 ^ 24 ∧
      (u.bit F.TB_STATUS_SLEWING = true ↔ v.toNat % 2 ^ 24 ≠ 0) ∧ u.dev.hs = { s.dev.hs with slewFrac := 0 } ∧ SameBytes s u ∧ SameHost s u ∧
      SameRegsBut s u (F.TB_SLEW_REMAIN.off :: F.TB_STATUS_SLEWING.off :: catchRegs) := by
  refine completes_done rfl ?_
  rw [writing_run_of_reach hr (by decide)]
  have h := loadRemain_loaded v.toNat (bitsOf v.toNat 0 24 != 0) s
  refine ⟨h.remain, ?_, h.hs, h.bytes, h.host, h.regs⟩
  show State.bit ((loadRemain _ _).run s) _ = true ↔ _
  rw [h.slewing, bne_iff_ne, bitsOf, pow_zero, Nat.div_one]

theorem slewComplete_completes {s : State} (hp : s.dev.pwr.por = false) (hc : s.carried = false) (hd : s.slewDone = true) :
    Completes .slewComplete s fun u => u.remain = 0 ∧ u.bit F.TB_STATUS_SLEWING = false ∧ u.dev.hs = { s.dev.hs with slewFrac := 0 } ∧
      SameBytes s u ∧ SameHost s u ∧ SameRegsBut s u (F.TB_SLEW_REMAIN.off :: F.TB_STATUS_SLEWING.off :: catchRegs) := by
  refine completes_done rfl ?_
  rw [Prog.run_when, if_pos (by simp [hp, hc, hd])]
  have h := loadRemain_loaded 0 false s
  refine ⟨?_, h.slewing, h.hs, h.bytes, h.host, h.regs⟩
  show State.remain ((loadRemain _ _).run s) = 0
  rw [State.remain, h.remain]
  rfl

/-- MODE after a write of `v`: 3 leaves it (R42). -/
def State.modeAfter (s : State) (v : Nat) : Nat := if bitsOf v 0 2 = 3 then s.fld F.TB_DISC_CTL_MODE else bitsOf v 0 2

theorem State.modeAfter_lt (s : State) (v : Nat) : s.modeAfter v < 2 ^ 2 := by
  unfold State.modeAfter
  split
  · exact bitsOf_lt _ _ _
  · exact bitsOf_lt _ _ _

/-- What follows the new MODE: `clear` clears acc, `was` is the mode that still acts. -/
def discTail (clear : Bool) (was : Option Nat) : Prog :=
  all [when clear (modHs fun h => { h with acc := 0 }), modHs fun h => { h with modeWas := was }, updateClamp]

theorem discTail_run (clear : Bool) (was : Option Nat) (x : State) :
    ((discTail clear was).run x).fld F.TB_DISC_CTL_MODE = x.fld F.TB_DISC_CTL_MODE ∧
    ((discTail clear was).run x).dev.hs = { x.dev.hs with acc := if clear then 0 else x.dev.hs.acc, modeWas := was } ∧
    SameBytes x ((discTail clear was).run x) ∧ SameHost x ((discTail clear was).run x) ∧
    SameRegsBut x ((discTail clear was).run x) (0x10008 :: catchRegs) := by
  rw [discTail, Prog.run_all_cons, Prog.run_all_cons, Prog.run_all_cons, Prog.run_all_nil]
  generalize hz : (modHs fun h => { h with modeWas := was }).run _ = z
  have hzx : z = { x with dev := { x.dev with hs := { x.dev.hs with acc := if clear then 0 else x.dev.hs.acc, modeWas := was } } } := by
    rw [← hz]
    cases clear <;> rfl
  refine ⟨?_, by rw [updateClamp_hs, hzx], fun a => ?_, fun a => ?_, fun o ho => ?_⟩
  · rw [updateClamp_fld (by decide) (by decide) (by decide), hzx]
    rfl
  · rw [updateClamp_bound.mems id, hzx]
  · rw [updateClamp_bound.hosts id, hzx]
  · rw [updateClamp_bound.words ho, hzx]
    rfl

/-- MODE itself is set. -/
def setMode (v m : Nat) : Prog := all [writeFields F.TB_DISC_CTL_MODE.off v, setF F.TB_DISC_CTL_MODE m]

theorem setMode_writes (v m : Nat) : (setMode v m).Only (Act.writes F.TB_DISC_CTL_MODE.off) := ⟨fun _ => rfl, fun _ => rfl, trivial⟩

theorem setMode_fld {v m : Nat} (hm : m < 2 ^ 2) (s : State) : ((setMode v m).run s).fld F.TB_DISC_CTL_MODE = m := by
  rw [setMode, Prog.run_all_cons, Prog.run_all_cons, Prog.run_all_nil, Prog.fld_setF_same _ _ _ (by decide)]
  exact Nat.mod_eq_of_lt hm

/-- What a write of `v` does where the new mode is `m`. -/
def discProg (s : State) (v m : Nat) : Prog :=
  all [writeFields F.TB_DISC_CTL_MODE.off v, setF F.TB_DISC_CTL_MODE m,
    when (m == 2 && s.mode != 2) (modHs fun h => { h with acc := 0 }),
    modHs fun h => { h with modeWas := if s.ticking && m != s.mode then some s.mode else none }, updateClamp]

theorem writeDiscCtl_eq (v : Nat) : writeDiscCtl v = look fun s => discProg s v (s.modeAfter v) := rfl

theorem discProg_run (s : State) (v m : Nat) : (discProg s v m).run s =
    (discTail (m == 2 && s.mode != 2) (if s.ticking && m != s.mode then some s.mode else none)).run
      ((setMode v m).run s) := by
  rw [discProg, discTail, setMode]
  iterate 10 rw [Prog.run_all_cons]
  iterate 3 rw [Prog.run_all_nil]

theorem modeChange_completes {s : State} {p : Path} {v : Word} (hr : s.reach p F.TB_DISC_CTL_MODE.off = true) :
    Completes (.modeChange p v) s fun u =>
      u.fld F.TB_DISC_CTL_MODE = (if v.toNat % 4 = 3 then s.fld F.TB_DISC_CTL_MODE else v.toNat % 4) ∧
      u.dev.hs.acc = (if u.fld F.TB_DISC_CTL_MODE = 2 ∧ s.mode ≠ 2 then 0 else s.dev.hs.acc) ∧
      (s.ticking = true → u.mode = s.mode) ∧ (s.ticking = false → u.mode = u.fld F.TB_DISC_CTL_MODE) ∧
      u.dev.hs.now = s.dev.hs.now ∧ SameBytes s u ∧ SameHost s u ∧
      SameRegsBut s u (F.TB_DISC_CTL_MODE.off :: F.TB_STATUS_SLEWING.off :: catchRegs) := by
  refine completes_done rfl ?_
  have hm : s.modeAfter v.toNat = if v.toNat % 4 = 3 then s.fld F.TB_DISC_CTL_MODE else v.toNat % 4 := by
    rw [State.modeAfter, show bitsOf v.toNat 0 2 = v.toNat % 4 from by rw [bitsOf, pow_zero, Nat.div_one]; rfl]
  rw [writing_run_of_reach hr (by decide), writeDiscCtl_eq, Prog.run_look, discProg_run, ← hm]
  have hxm := setMode_fld (v := v.toNat) (s.modeAfter_lt v.toNat) s
  obtain ⟨hxdev, hxbytes, hxhost, hxregs⟩ := (setMode_writes v.toNat (s.modeAfter v.toNat)).onlyReg s
  generalize s.modeAfter v.toNat = m at *
  generalize (setMode v.toNat m).run s = x at *
  obtain ⟨hum, huh, hbytes, hhost, hregs⟩ := discTail_run (m == 2 && s.mode != 2) (if s.ticking && m != s.mode then some s.mode else none) x
  generalize (discTail _ _).run x = u at *
  rw [hxm] at hum
  rw [hxdev] at huh
  refine ⟨hum, ?_, fun ht => ?_, fun ht => ?_, by rw [huh], fun a => (hbytes a).trans (hxbytes a), fun a => (hhost a).trans (hxhost a), fun o ho => ?_⟩
  · rw [huh, hum]
    simp
  · rw [State.mode, huh, hum, ht]
    by_cases he : m = s.mode
    · simp [he]
    · simp [he]
  · rw [State.mode, huh, hum, ht]
    rfl
  · rw [List.mem_cons, not_or] at ho
    rw [hregs o ho.2, hxregs o (by simpa using ho.1)]

/-! ## Uncertainty -/

theorem growUnc_run (n : Nat) (s : State) : (growUnc n).run s = (setUnc (s.fld F.TB_UNC_UNC_NS + (s.dev.hs.uncFrac + n) / 1000000)).run
    ((modHs fun h => { h with uncFrac := (s.dev.hs.uncFrac + n) % 1000000 }).run s) := rfl

/-- UNC_NS after a change that the device makes (R53). -/
theorem setUnc_run (n : Nat) (s : State) : ((setUnc n).run s).fld F.TB_UNC_UNC_NS = min n 0x7FFFFFFF ∧ ((setUnc n).run s).dev.hs = s.dev.hs ∧
    SameBytes s ((setUnc n).run s) ∧ SameHost s ((setUnc n).run s) ∧ SameRegsBut s ((setUnc n).run s) (F.TB_UNC_UNC_NS.off :: catchRegs) := by
  rw [setUnc, Prog.run_look, Prog.run_all_cons, Prog.run_all_cons, Prog.run_all_nil]
  generalize hv : (setF F.TB_UNC_UNC_NS _).run s = v
  have hf : v.fld F.TB_UNC_UNC_NS = min n 0x7FFFFFFF := by
    rw [← hv, Prog.fld_setF_same _ _ _ (by decide)]
    exact Nat.mod_eq_of_lt (lt_of_le_of_lt (min_le_right _ _) (by decide))
  have hw : ∀ o, o ≠ 0x1003C → v.word o = s.word o := fun o ho => hv ▸
    (Prog.only_setF fun _ => Ne.symm ho : (setF F.TB_UNC_UNC_NS _).Only (Act.sparesReg o)).word s
  have hd : v.dev = s.dev ∧ v.mem = s.mem ∧ v.host = s.host := hv ▸ ⟨rfl, rfl, rfl⟩
  have hlog : ∀ c, OnlyLogs v ((when c (logC 0x100B 1 40 [])).run v) := fun c =>
    (Prog.only_when.mpr fun _ => logC_onlyLogs _ _ _ _ _ : (when c (logC 0x100B 1 40 [])).Only Act.logs).onlyLogs v
  generalize hu : (when _ (logC 0x100B 1 40 [])).run v = u
  replace hlog : OnlyLogs v u := hu ▸ hlog _
  refine ⟨by rw [hlog.fld (by decide), hf], by rw [hlog.dev, hd.1], fun a => by rw [hlog.mem, hd.2.1], fun a => by rw [hlog.host, hd.2.2],
    fun o ho => ?_⟩
  rw [List.mem_cons, not_or] at ho
  rw [hlog.regs o ho.2, hw o ho.1]

theorem growUnc_grows (n : Nat) (s : State) :
    ((growUnc n).run s).fld F.TB_UNC_UNC_NS = min (s.fld F.TB_UNC_UNC_NS + (s.dev.hs.uncFrac + n) / 1000000) 0x7FFFFFFF ∧
    ((growUnc n).run s).dev.hs = { s.dev.hs with uncFrac := (s.dev.hs.uncFrac + n) % 1000000 } ∧
    SameBytes s ((growUnc n).run s) ∧ SameHost s ((growUnc n).run s) ∧
    SameRegsBut s ((growUnc n).run s) (F.TB_UNC_UNC_NS.off :: catchRegs) := by
  rw [growUnc_run]
  exact setUnc_run _ _

/-- FREE: what the accuracy of FREE drifts in a millisecond (R53). -/
theorem uncEvaluate_free {s : State} (ht : s.ticking = true) (hu : s.unitState 40 = 0) (hf : s.dev.hs.uncFrac < 1000000) :
    Completes .uncEvaluate s fun u =>
      u.fld F.TB_UNC_UNC_NS = min (s.fld F.TB_UNC_UNC_NS + (if s.bit F.TB_STATUS_XTAL then 150 else 30000)) 0x7FFFFFFF ∧
      u.dev.hs = s.dev.hs ∧ SameBytes s u ∧ SameHost s u ∧ SameRegsBut s u (F.TB_UNC_UNC_NS.off :: catchRegs) := by
  refine completes_done rfl ?_
  rw [Prog.run_when, if_pos ht, if_neg (by simp [hu]), if_pos (by simp [hu])]
  obtain ⟨hn, hh, hrest⟩ := growUnc_grows (1000000 * s.freePpm) s
  have hdiv : (s.dev.hs.uncFrac + 1000000 * s.freePpm) / 1000000 = s.freePpm := by omega
  have hmod : (s.dev.hs.uncFrac + 1000000 * s.freePpm) % 1000000 = s.dev.hs.uncFrac := by omega
  rw [hdiv] at hn
  rw [hmod] at hh
  exact ⟨hn, hh, hrest⟩

/-- HOLDOVER at an unchanged temperature: 0.2 ppm (R52, R53). -/
theorem uncEvaluate_holdover {s : State} (ht : s.ticking = true) (hu : s.unitState 40 = 3) (hm : s.mode ≠ 2)
    (hk : s.temp16 = signedOf 16 s.dev.hs.holdTemp) : Completes .uncEvaluate s fun u =>
      u.fld F.TB_UNC_UNC_NS = min (s.fld F.TB_UNC_UNC_NS + (s.dev.hs.uncFrac + 200000) / 1000000) 0x7FFFFFFF ∧
      u.dev.hs = { s.dev.hs with uncFrac := (s.dev.hs.uncFrac + 200000) % 1000000 } ∧
      SameBytes s u ∧ SameHost s u ∧ SameRegsBut s u (F.TB_UNC_UNC_NS.off :: catchRegs) := by
  refine completes_done rfl ?_
  have he : s.holdError80 = 16 := by rw [State.holdError80, hk, sub_self]; rfl
  rw [Prog.run_when, if_pos ht, if_pos (by simp [hu, hm]), he]
  exact growUnc_grows 200000 s

/-! ## The obligation -/

/-- Settles O22: one lemma for each event. -/
theorem referenceAndSteering : Obligations.ReferenceAndSteering :=
  ⟨fun _ => tbFree_completes, fun _ => tbrefLost_holdover, fun _ => tbrefLost_free, fun _ => tbrefBack_completes, fun _ => tbLock_completes,
    fun _ => crystalFail_completes, fun _ _ => restRatioMeasure_completes, fun _ _ _ => slewRequest_completes,
    fun _ => slewComplete_completes, fun _ _ _ => modeChange_completes, fun _ => uncEvaluate_free, fun _ => uncEvaluate_holdover⟩

end Sys2Proof.Machine
end

section
/-!
Latched register pairs (R34, R648): which registers are the low words of pairs, and what a read of one does.
-/
namespace Sys2Proof.Machine

/-- The low registers of the pairs (R648). -/
def pairOffs : List Nat :=
  [0x10000, 0x10018, 0x38001C] ++ (List.range 8).map (0x100A0 + 8 * ·) ++ (List.range 8).map (0x420404 + 16 * ·) ++
    (List.range 4).map (0x40001C + 0x1000 * ·)

theorem State.pairOffs_of_pairHigh {s : State} {off : Nat} (h : (s.pairHigh off).isSome = true) : off ∈ pairOffs := by
  rw [State.pairHigh] at h
  split at h
  · next h0 => rw [h0]; decide
  split at h
  · next h1 =>
    simp only [pairOffs, List.mem_append, List.mem_cons, List.not_mem_nil, or_false, List.mem_map, List.mem_range]
    simp only [Bool.or_eq_true, Bool.and_eq_true, decide_eq_true_eq] at h1
    rcases h1 with (((h1 | ⟨⟨h1, h2⟩, h3⟩) | h1) | ⟨⟨h1, h2⟩, h3⟩) | ⟨⟨h1, h2⟩, h3⟩
    · omega
    · exact .inl (.inl (.inr ⟨(off - 0x100A0) / 8, by omega, by omega⟩))
    · omega
    · exact .inl (.inr ⟨(off - 0x420404) / 16, by omega, by omega⟩)
    · exact .inr ⟨(off - 0x40001C) / 0x1000, by omega, by omega⟩
  · cases h

/-- Both registers of a pair exist, the high one is known as such, and neither is read-to-clear. -/
theorem pairOffs_facts : ∀ off ∈ pairOffs, (RegMap.fields off).isEmpty = false ∧ (RegMap.fields (off + 4)).isEmpty = false ∧
    isPairHigh (off + 4) = true ∧ ((RegMap.fields off).filter fun f => f.acc == .rc) = [] ∧ off ≠ F.ARR_FAB_MDATA_LO.off := by
  decide +kernel

/-- Where a virtual function's window shows a pair it is that of TB_NOW. -/
theorem State.vf_of_pairHigh {s : State} {n off : Nat} (h : (s.pairHigh (pairKey (.vf n) off)).isSome = true) : off = 0x100 := by
  have hk := State.pairOffs_of_pairHigh h
  by_contra hne
  rw [pairKey, if_neg hne] at hk
  split at hk
  · exact absurd hk (by decide)
  · exact absurd hk (by decide)

theorem State.keyOf_of_pairHigh {s : State} {p : Path} {off : Nat} (h : (s.pairHigh (pairKey p off)).isSome = true) :
    s.keyOf p off = some (pairKey p off) := by
  cases p with
  | vf n =>
    rw [State.vf_of_pairHigh h]
    rfl
  | _ =>
    obtain ⟨hf, -⟩ := pairOffs_facts off (State.pairOffs_of_pairHigh h)
    simp only [State.keyOf, pairKey, hf, Bool.false_eq_true, if_false]

theorem clearRc_run_of_none {off : Nat} (h : ((RegMap.fields off).filter fun f => f.acc == .rc) = []) (s : State) : (clearRc off).run s = s := by
  rw [clearRc, h]
  rfl

/-- The latch of a path takes a word. -/
def State.latch (s : State) (p : Path) (w : Word) : State :=
  { s with dev := { s.dev with hs := { s.dev.hs with latches := (p, w) :: s.dev.hs.latches.filter fun x => x.1 != p } } }

theorem State.latched_latch (s : State) (p : Path) (w : Word) : (s.latch p w).latched p = w := by
  simp [State.latched, State.latch]

theorem State.latched_latch_other (s : State) {p q : Path} (h : q ≠ p) (w : Word) : (s.latch p w).latched q = s.latched q := by
  have hpq : (p == q) = false := beq_eq_false_iff_ne.mpr (Ne.symm h)
  have hfind : (s.dev.hs.latches.filter fun x => x.1 != p).find? (fun x => x.1 == q) = s.dev.hs.latches.find? fun x => x.1 == q := by
    rw [List.find?_filter]
    congr 1
    funext x
    by_cases e : x.1 = q
    · simp [e, h]
    · simp [e]
  simp only [State.latched, State.latch, List.find?_cons, hpq, hfind]

theorem latchPair_run {s : State} {p : Path} {off : Nat} {w : Word} (h : s.pairHigh (pairKey p off) = some w) :
    (latchPair p off).run s = s.latch p w := by
  rw [latchPair, Prog.run_look, h]
  rfl

theorem readEffect_run_pair {s : State} {p : Path} {off : Nat} {w : Word} (hr : s.reach p off = true)
    (h : s.pairHigh (pairKey p off) = some w) (acked : Bool) : (readEffect p off acked).run s = s.latch p w := by
  have hs : (s.pairHigh (pairKey p off)).isSome = true := by rw [h]; rfl
  obtain ⟨-, -, -, hrc, -⟩ := pairOffs_facts _ (State.pairOffs_of_pairHigh hs)
  rw [readEffect, Prog.run_look, Prog.run_when, if_pos hr, State.keyOf_of_pairHigh hs]
  simp only [Prog.run_all_cons, Prog.run_all_nil, latchPair_run h, Prog.run_when, clearRc_run_of_none hrc, ite_self]

/-- The reply to a read goes out. -/
def State.replied (s : State) (p : Path) (bs : List Byte) : State := { s with dev := { s.dev with out := s.dev.out ++ [.reply p bs] } }

theorem fetchFor_run_other {p : Path} {off : Nat} (h : off ≠ F.ARR_FAB_MDATA_LO.off) (s : State) : (fetchFor p off).run s = s := by
  have : (off == F.ARR_FAB_MDATA_LO.off) = false := beq_eq_false_iff_ne.mpr h
  rw [fetchFor, Prog.run_look, this]
  rfl

theorem readCycle_run_word {s : State} {p : Path} {off : Nat} (ha : off % 4 = 0) (hm : off ≠ F.ARR_FAB_MDATA_LO.off) (acked : Bool) :
    (readCycle [⟨p, { off }, acked⟩]).run s = (readEffect p off acked).run (s.replied p (toBytes 4 (s.readWord p off))) := by
  have hfit : ([⟨p, { off }, acked⟩] : List Reader).filter readFits = [⟨p, { off }, acked⟩] := by simp [readFits, ha]
  rw [readCycle, hfit]
  simp only [Prog.run_all_cons, Prog.run_all_nil, Prog.run_each_cons, Prog.run_each_nil, Prog.run_look]
  rw [show readBase ⟨p, { off }, acked⟩ = off from rfl, fetchFor_run_other hm]
  rfl

theorem State.readWord_high {s : State} {p : Path} {off : Nat} (h : (s.pairHigh (pairKey p off)).isSome = true)
    (hr : s.reach p (off + 4) = true) : s.readWord p (off + 4) = (s.latched p).toNat := by
  cases p with
  | vf n =>
    obtain rfl := State.vf_of_pairHigh h
    rw [State.readWord, hr]
    rfl
  | _ =>
    obtain ⟨-, hf, hhigh, -⟩ := pairOffs_facts off (State.pairOffs_of_pairHigh h)
    simp only [State.readWord, hr, hf, hhigh, Bool.not_true, Bool.false_eq_true, if_false, if_true]

/-- A read of a low word latches for its path alone. -/
theorem lowWordLatch_completes {s : State} {p : Path} {off : Nat} {w : Word} (hr : s.reach p off = true)
    (h : s.pairHigh (pairKey p off) = some w) (ha : off % 4 = 0) :
    Completes (.lowWordLatch p { off }) s fun u => u.latched p = w ∧
      (s.reach p (off + 4) = true → u.readWord p (off + 4) = w.toNat) ∧ (∀ q, q ≠ p → u.latched q = s.latched q) ∧
      u.regs = s.regs ∧ SameBytes s u ∧ SameHost s u ∧ u.dev.hs.now = s.dev.hs.now := by
  have hs : (s.pairHigh (pairKey p off)).isSome = true := by rw [h]; rfl
  have hm : off ≠ F.ARR_FAB_MDATA_LO.off := by
    cases p with
    | vf n => rw [State.vf_of_pairHigh hs]; decide
    | _ => exact (pairOffs_facts off (State.pairOffs_of_pairHigh hs)).2.2.2.2
  refine completes_done rfl ?_
  rw [readCycle_run_word ha hm, readEffect_run_pair (s := s.replied p _) hr h]
  have hl := (s.replied p (toBytes 4 (s.readWord p off))).latched_latch p w
  refine ⟨hl, fun hr4 => ?_, fun q hq => State.latched_latch_other _ hq w, rfl, fun _ => rfl, fun _ => rfl, rfl⟩
  have hnext : (((s.replied p (toBytes 4 (s.readWord p off))).latch p w).pairHigh (pairKey p off)).isSome = true := hs
  rw [State.readWord_high hnext hr4, hl]

/-- Settles O26. -/
theorem pairLatches : Obligations.PairLatches := by
  refine ⟨fun _ _ _ _ => lowWordLatch_completes, fun s p off h ha hr => State.readWord_high h hr, fun s => ⟨rfl, rfl, fun p hp => ?_⟩,
    fun s p => completes_done (p := powerOnReset) rfl ?_⟩
  · have hlow : (F.TB_TURN_ORG_LO_ORG p).off + 4 = (F.TB_TURN_ORG_HI_ORG p).off := by
      show 0x100A0 + 8 * p + 4 = 0x100A4 + 8 * p
      omega
    rw [State.pairHigh, if_neg (by show ¬0x100A0 + 8 * p = _; omega), if_pos, hlow]
    show (_ || _ || _ || _ || _ : Bool) = true
    simp only [Bool.or_eq_true, Bool.and_eq_true, decide_eq_true_eq]
    omega
  · rw [powerOnReset]
    rfl

end Sys2Proof.Machine
end

section
/-!
Losing fields (R8, R577): the fields of a register lie apart in its word, so that each of them is kept or returns to its reset value
on its own.
-/
namespace Sys2Proof.Machine

/-- The reset word that a list of fields makes up. -/
def resetOf (fs : List FieldSpec) : BitVec 32 := fs.foldl (fun a f => a ||| (BitVec.ofNat 32 f.reset <<< f.lo)) 0

/-- Fields in rising order, apart, within 32 bits, each with a reset value that the reset word shows. -/
def fieldsFit (fs : List FieldSpec) : Prop :=
  fs.Pairwise (fun f g => f.lo + f.w ≤ g.lo) ∧ (∀ f ∈ fs, f.lo + f.w ≤ 32 ∧ f.reset < 2 ^ f.w ∧ bitsOf (resetOf fs).toNat f.lo f.w = f.reset) ∧
    BitVec.ofNat 32 ((fs.map fun f => f.reset * 2 ^ f.lo).foldl (· + ·) 0) = resetOf fs

theorem RegMap.rows_fit : ∀ b ∈ RegMap.blocks, ∀ r ∈ b.rows, fieldsFit r.fields := by
  simp only [fieldsFit]
  decide +kernel

theorem RegMap.findRow_mem {off : Nat} {l : List RegRow} {r : RegRow} (h : RegMap.findRow off l = some r) : r ∈ l := by
  induction l with
  | nil => cases h
  | cons x l ih =>
    rw [RegMap.findRow] at h
    split at h
    · exact (Option.some.inj h) ▸ List.mem_cons_self
    · exact List.mem_cons_of_mem _ (ih h)

theorem RegMap.rowIn_mem {off : Nat} {l : List RegBlock} {r : RegRow} (h : RegMap.rowIn off l = some r) : ∃ b ∈ l, r ∈ b.rows := by
  induction l with
  | nil => cases h
  | cons x l ih =>
    rw [RegMap.rowIn] at h
    split at h
    · exact ⟨x, List.mem_cons_self, RegMap.findRow_mem h⟩
    · obtain ⟨b, hb, hr⟩ := ih h
      exact ⟨b, List.mem_cons_of_mem _ hb, hr⟩

theorem RegMap.fields_fit (off : Nat) : fieldsFit (RegMap.fields off) := by
  rw [RegMap.fields]
  cases h : RegMap.row off with
  | none => exact ⟨List.Pairwise.nil, fun f hf => (List.not_mem_nil hf).elim, by decide⟩
  | some r =>
    obtain ⟨b, hb, hr⟩ := RegMap.rowIn_mem h
    exact RegMap.rows_fit b hb r hr

/-! ## Fields of a sum -/

theorem dvd_sum_fields {m : Nat} {fs : List FieldSpec} {g : FieldSpec → Nat} (h : ∀ f ∈ fs, m ≤ f.lo) :
    2 ^ m ∣ (fs.map fun f => g f * 2 ^ f.lo).sum :=
  List.dvd_sum fun x hx => by
    obtain ⟨f, hf, rfl⟩ := List.mem_map.mp hx
    exact Dvd.dvd.mul_left (pow_dvd_pow 2 (h f hf)) _

/-- What stands below a field does not reach it. -/
theorem bitsOf_add_high {a m k lo w : Nat} (ha : a < 2 ^ m) (hm : m ≤ lo) : bitsOf (a + 2 ^ m * k) lo w = bitsOf (2 ^ m * k) lo w := by
  obtain ⟨j, rfl⟩ := Nat.exists_eq_add_of_le hm
  rw [bitsOf, bitsOf, pow_add, ← Nat.div_div_eq_div_mul, ← Nat.div_div_eq_div_mul, Nat.add_mul_div_left _ _ (by positivity),
    Nat.div_eq_of_lt ha, Nat.zero_add, Nat.mul_div_cancel_left _ (by positivity)]

theorem bitsOf_add_low {a k lo w : Nat} (ha : a < 2 ^ w) : bitsOf (a * 2 ^ lo + 2 ^ (lo + w) * k) lo w = a := by
  rw [bitsOf, pow_add, show a * 2 ^ lo + 2 ^ lo * 2 ^ w * k = 2 ^ lo * (a + 2 ^ w * k) by ring, Nat.mul_div_cancel_left _ (by positivity),
    Nat.add_mul_mod_self_left, Nat.mod_eq_of_lt ha]

/-- Each field of a word that is put together from its fields is what was put there. -/
theorem bitsOf_sum_fields {fs : List FieldSpec} {g : FieldSpec → Nat} (hs : fs.Pairwise fun f k => f.lo + f.w ≤ k.lo)
    (hg : ∀ f ∈ fs, g f < 2 ^ f.w) {f : FieldSpec} (hf : f ∈ fs) :
    bitsOf (fs.map fun f => g f * 2 ^ f.lo).sum f.lo f.w = g f := by
  induction fs with
  | nil => cases hf
  | cons x fs ih =>
    obtain ⟨hx, hrest⟩ := List.pairwise_cons.mp hs
    obtain ⟨k, hk⟩ := dvd_sum_fields (g := g) hx
    rw [List.map_cons, List.sum_cons, hk]
    rcases List.mem_cons.mp hf with rfl | hmem
    · exact bitsOf_add_low (hg _ List.mem_cons_self)
    · have hlt : g x * 2 ^ x.lo < 2 ^ (x.lo + x.w) := by
        rw [pow_add, Nat.mul_comm (2 ^ x.lo)]
        exact Nat.mul_lt_mul_of_pos_right (hg x List.mem_cons_self) (by positivity)
      rw [bitsOf_add_high hlt (hx f hmem), ← hk]
      exact ih hrest (fun y hy => hg y (List.mem_cons_of_mem _ hy)) hmem

/-! ## The loss -/

theorem keepField_eq (keep : FieldSpec → Bool) (v : Word) (f : FieldSpec) :
    keepField keep v f = (if keep f then bitsOf v.toNat f.lo f.w else f.reset) * 2 ^ f.lo := by
  rw [keepField]
  split <;> rfl

theorem bitsOf_loseWord {off : Nat} {f : FieldSpec} (hf : f ∈ RegMap.fields off) (keep : Nat → FieldSpec → Bool) (v : Word) :
    bitsOf (loseWord keep off v).toNat f.lo f.w = if keep off f then bitsOf v.toNat f.lo f.w else f.reset := by
  obtain ⟨hs, hfit, -⟩ := RegMap.fields_fit off
  rw [loseWord, bitsOf_word _ _ _ (hfit f hf).1, ← List.sum_eq_foldl]
  simp only [funext (keepField_eq (keep off) v)]
  refine bitsOf_sum_fields (g := fun f => if keep off f then bitsOf v.toNat f.lo f.w else f.reset) hs (fun x hx => ?_) hf
  show (if _ then _ else _ : ℕ) < _
  split
  · exact bitsOf_lt _ _ _
  · exact (hfit x hx).2.1

/-- The reset word loses nothing. -/
theorem loseWord_resetWord (keep : Nat → FieldSpec → Bool) (off : Nat) : loseWord keep off (RegMap.resetWord off) = RegMap.resetWord off := by
  obtain ⟨-, hfit, hsum⟩ := RegMap.fields_fit off
  rw [loseWord]
  refine Eq.trans (congrArg (fun l : List Nat => BitVec.ofNat 32 (l.foldl (· + ·) 0)) (List.map_congr_left fun f hf => ?_)) hsum
  rw [keepField_eq]
  congr 1
  split
  · exact (hfit f hf).2.2
  · rfl

theorem State.word_lose (keep : Nat → FieldSpec → Bool) (s : State) (off : Nat) :
    ((Act.lose keep).apply s).word off = loseWord keep off (s.word off) :=
  Sparse.get_mapVals RegMap.resetWord (loseWord keep) s.regs off (loseWord_resetWord keep off)

/-- A field after a loss: as it was where it is kept, otherwise its reset value. -/
theorem State.fld_lose {off : Nat} {f : FieldSpec} (hf : f ∈ RegMap.fields off) (keep : Nat → FieldSpec → Bool) (s : State) :
    ((Act.lose keep).apply s).fld ⟨off, f.lo, f.w⟩ = if keep off f then s.fld ⟨off, f.lo, f.w⟩ else f.reset := by
  rw [State.fld, State.word_lose]
  exact bitsOf_loseWord hf keep _

/-- A loss that keeps a register's fields keeps each of them. -/
theorem State.fld_lose_kept {off : Nat} {f : FieldSpec} (hf : f ∈ RegMap.fields off) {keep : Nat → FieldSpec → Bool} (hk : keep off f = true)
    (s : State) : ((Act.lose keep).apply s).fld ⟨off, f.lo, f.w⟩ = s.fld ⟨off, f.lo, f.w⟩ := by
  rw [State.fld_lose hf, if_pos hk]

theorem State.fld_lose_lost {off : Nat} {f : FieldSpec} (hf : f ∈ RegMap.fields off) {keep : Nat → FieldSpec → Bool} (hk : keep off f = false)
    (s : State) : ((Act.lose keep).apply s).fld ⟨off, f.lo, f.w⟩ = f.reset := by
  rw [State.fld_lose hf, if_neg (by simp [hk])]

/-- The STATE field of every ledger line. -/
theorem RegMap.state_mem_fields : ∀ u < 117, (⟨0, 4, .ro, 0, .W⟩ : FieldSpec) ∈ RegMap.fields (0x40100 + 4 * u) ∨
    (⟨0, 4, .ro, 0, .A⟩ : FieldSpec) ∈ RegMap.fields (0x40100 + 4 * u) := by
  decide +kernel

end Sys2Proof.Machine
end

section
/-!
Benches move (R79, R551, R577): timetable entries that act, WAKE entries, and benches that reach SPIN or DWELL.
-/
namespace Sys2Proof.Machine

/-! ## Entries that act -/

/-- The partition takes note that entry `i` has acted. -/
def State.passed (s : State) (p i : Nat) : State := (Machine.passed p i false).run s

theorem State.passed_eq (s : State) (p i : Nat) : s.passed p i = { s with dev := { s.dev with parts := (s.passed p i).dev.parts } } := rfl

theorem onEntry_run {s : State} {p i : Nat} {e : TtEntry} {kind : Nat} {f : TtEntry → Prog} (he : s.entryNow p i false = some e)
    (hk : e.kind = kind) (hr : s.ready = true) : (onEntry p i false kind f).run s = (f e).run (s.passed p i) := by
  rw [onEntry, onEntryIf, Prog.run_look, he]
  show (when (e.kind == kind && s.ready) (all [Machine.passed p i false, f e])).run s = _
  rw [hk, hr, Prog.run_when, if_pos (by simp), Prog.run_all_cons, Prog.run_all_cons, Prog.run_all_nil]
  rfl

theorem mem_membersOf {m n b : Nat} : b ∈ membersOf m n ↔ b < n ∧ inMask m b = true := by
  simp [membersOf]

theorem membersOf_nodup (m n : Nat) : (membersOf m n).Nodup := List.nodup_range.filter _

theorem mem_tilesOf {b t : Nat} : t ∈ tilesOf b ↔ t / 16 = b := by
  simp only [tilesOf, List.mem_map, List.mem_range]
  exact ⟨fun ⟨i, hi, h⟩ => by omega, fun h => ⟨t % 16, by omega, by omega⟩⟩

/-! ## WAKE -/

/-- What other benches' moves leave of a bench: its place among those on their way. -/
abbrev moveBound (b : Nat) : Bound where
  dev d e := e.hs = d.hs ∧ ∀ x : Nat × Nat, x.1 = b → (x ∈ e.pwr.waking ↔ x ∈ d.pwr.waking) ∧ (x ∈ e.pwr.dwelling ↔ x ∈ d.pwr.dwelling)
  reg o := o ∈ F.LEDG_TT_REJECTS.off :: F.LEDG_REFUSED.off :: catchRegs
  mem := False
  host := False

theorem moveBound_steps (b : Nat) : (moveBound b).Steps where
  refl _ := ⟨rfl, fun _ _ => ⟨Iff.rfl, Iff.rfl⟩⟩
  trans h k := ⟨k.1.trans h.1, fun x hx => ⟨(k.2 x hx).1.trans (h.2 x hx).1, (k.2 x hx).2.trans (h.2 x hx).2⟩⟩

theorem moveBound_logs (b : Nat) : (moveBound b).Logs :=
  ⟨fun _ _ _ _ _ => ⟨rfl, fun _ _ => ⟨Iff.rfl, Iff.rfl⟩⟩, fun _ h => List.mem_cons_of_mem _ (List.mem_cons_of_mem _ h)⟩

theorem dropMoves_other {b c : Nat} (h : c ≠ b) : (dropMoves c).Only (Act.obeys (moveBound b)) := by
  refine fun d => ⟨rfl, fun x hx => ⟨?_, ?_⟩⟩
  · simpa using fun _ => fun e => h (e.symm.trans hx)
  · simpa using fun _ => fun e => h (e.symm.trans hx)

theorem wakeAt_other {b c : Nat} (h : c ≠ b) (t : Nat) :
    (modPwr fun w => { w with waking := (c, t) :: w.waking }).Only (Act.obeys (moveBound b)) := by
  refine fun d => ⟨rfl, fun x hx => ⟨?_, Iff.rfl⟩⟩
  have : x ≠ (c, t) := fun e => h ((congrArg Prod.fst e).symm.trans hx)
  simp [this]

theorem startWake_other {b c : Nat} (h : c ≠ b) : (startWake c).Only (Act.obeys (moveBound b)) := by
  intro s
  refine Prog.only_ite.mpr ⟨fun _ => trivial, fun _ => Prog.only_ite.mpr ⟨fun _ => ⟨dropMoves_other h, wakeAt_other h _, trivial⟩,
    fun _ => Prog.only_ite.mpr ⟨fun _ => wakeAt_other h _, fun _ => trivial⟩⟩⟩

/-- A WAKE entry's order to a bench that cannot wake. -/
def sleeperOrder (c : Nat) : Order := { src := .timetable, kind := kPower, unit := c, arg := 0 }

theorem acceptOrder_wake (c : Nat) {P : Act → Prop} (h : (startWake c).Only P) : (acceptOrder (sleeperOrder c)).Only P := by
  intro s
  show (all [when false (bumpEpoch c), moveBench c 0]).Only P
  exact ⟨trivial, fun s => Prog.only_ite.mpr ⟨fun _ => trivial, fun _ => h⟩, trivial⟩

theorem decideOrder_wake {b c : Nat} (h : c ≠ b) : (decideOrder (sleeperOrder c)).Only (Act.obeys (moveBound b)) := by
  have hans : ∀ u st, (answer (sleeperOrder c) u st).Only (Act.obeys (moveBound b)) := fun u st s =>
    ⟨fun d => ⟨by rfl, fun _ _ => ⟨Iff.rfl, Iff.rfl⟩⟩,
      Prog.only_when.mpr fun _ => incF_obeys.mpr (List.mem_cons_self : F.LEDG_TT_REJECTS.off ∈ _), trivial⟩
  refine fun s => Prog.only_ite.mpr ⟨fun _ => ⟨acceptOrder_wake c (startWake_other h), hans _ _, trivial⟩, fun _ =>
    ⟨Prog.only_when.mpr fun _ => ⟨incF_obeys.mpr (List.mem_cons_of_mem _ List.mem_cons_self : F.LEDG_REFUSED.off ∈ _), ?_, trivial⟩, hans _ _, trivial⟩⟩
  exact (moveBound_logs b).logLim _ _ _ _ _ _ _

/-- What a WAKE entry does for bench `c`, as the benches stood at its tick. -/
def wakeStep (s : State) (c : Nat) : Prog :=
  if s.fenced c || s.unitState c == bBlank then decideOrder (sleeperOrder c)
  else all [modPwr fun w => { w with cancelled := w.cancelled.filter (· != c) }, startWake c]

theorem wakeStep_other {b c : Nat} (h : c ≠ b) (s : State) : (wakeStep s c).Only (Act.obeys (moveBound b)) :=
  Prog.only_ite.mpr ⟨fun _ => decideOrder_wake h, fun _ => ⟨fun _ => ⟨rfl, fun _ _ => ⟨Iff.rfl, Iff.rfl⟩⟩, startWake_other h, trivial⟩⟩

theorem wakeEntry_run (p : Nat) (e : TtEntry) (s : State) : (wakeEntry p false e).run s = (each (membersOf e.benches 32) (wakeStep s)).run s := by
  have : (membersOf e.benches 32).filter (fun b => !false || inMask (s.plane p).benches b) = membersOf e.benches 32 :=
    List.filter_eq_self.mpr fun _ _ => rfl
  rw [wakeEntry, Prog.run_look, this]
  rfl

theorem startWake_run {s : State} {b : Nat} (hw : ∀ x ∈ s.dev.pwr.waking, x.1 ≠ b) (hd : ∀ x ∈ s.dev.pwr.dwelling, x.1 ≠ b)
    (hu : s.unitState b = 2 ∨ s.unitState b = 3) : ∃ l, (startWake b).run s = { s with dev := { s.dev with pwr := { s.dev.pwr with
      waking := (b, s.now + (if s.unitState b = 2 then 48 else 12500)) :: l, dwelling := ((startWake b).run s).dev.pwr.dwelling } } } := by
  have hw' : s.dev.pwr.waking.any (·.1 == b) = false := by simpa [List.any_eq_false] using hw
  have hd' : s.dev.pwr.dwelling.any (·.1 == b) = false := by simpa [List.any_eq_false] using hd
  rw [startWake, Prog.run_look]
  dsimp only
  rw [hw', hd', if_neg (by decide)]
  rcases hu with h | h
  · rw [h, if_neg (by decide), if_pos (by decide), if_pos rfl]
    exact ⟨_, rfl⟩
  · rw [h, if_pos (by decide), if_neg (by decide)]
    exact ⟨_, rfl⟩

/-- A ledger line is none of the registers that moves write. -/
theorem unitLine_not_move {b c : Nat} (hb : b < 128) : ¬(moveBound c).reg (F.LEDG_UNIT_STATE b).off := by
  show 0x40100 + 4 * b ∉ F.LEDG_TT_REJECTS.off :: F.LEDG_REFUSED.off :: catchRegs
  simp only [catchRegs, List.mem_cons, List.not_mem_nil, or_false]
  omega

/-- The step of a bench that sleeps. -/
theorem wakeStep_run {s v : State} {b : Nat} (hf : v.fenced b = false) (hv : v.unitState b = 2 ∨ v.unitState b = 3)
    (hw : ∀ x ∈ s.dev.pwr.waking, x.1 ≠ b) (hd : ∀ x ∈ s.dev.pwr.dwelling, x.1 ≠ b) (hu : s.unitState b = v.unitState b) :
    ((wakeStep v b).run s).regs = s.regs ∧ ((wakeStep v b).run s).mem = s.mem ∧ ((wakeStep v b).run s).host = s.host ∧
      (b, s.now + (if v.unitState b = 2 then 48 else 12500)) ∈ ((wakeStep v b).run s).dev.pwr.waking := by
  have hstep : wakeStep v b = all [modPwr fun w => { w with cancelled := w.cancelled.filter (· != b) }, startWake b] := by
    rw [wakeStep, if_neg]
    rcases hv with h2 | h2 <;> simp [hf, h2, bBlank]
  rw [hstep, Prog.run_all_cons, Prog.run_all_cons, Prog.run_all_nil]
  obtain ⟨l, h⟩ := startWake_run (s := (modPwr fun w => { w with cancelled := w.cancelled.filter (· != b) }).run s) (b := b) hw hd
    (by rw [← hu] at hv; exact hv)
  rw [h, ← hu]
  exact ⟨rfl, rfl, rfl, List.mem_cons_self⟩

/-- A WAKE entry starts each bench that sleeps (R79). -/
theorem wake_completes {s : State} {p i b : Nat} {e : TtEntry} (he : s.entryNow p i false = some e) (hk : e.kind = 0) (hr : s.ready = true)
    (hb : b ∈ membersOf e.benches 32) (hf : s.fenced b = false) (hw : ∀ x ∈ s.dev.pwr.waking, x.1 ≠ b)
    (hd : ∀ x ∈ s.dev.pwr.dwelling, x.1 ≠ b) (hu : s.unitState b = 2 ∨ s.unitState b = 3) :
    Completes (.wake p i false) s fun u =>
      (b, s.now + (if s.unitState b = 2 then 48 else 12500)) ∈ u.dev.pwr.waking ∧ u.unitState b = s.unitState b ∧
      SameBytes s u ∧ SameHost s u ∧ SameRegsBut s u (F.LEDG_TT_REJECTS.off :: F.LEDG_REFUSED.off :: catchRegs) := by
  refine completes_done rfl ?_
  rw [onEntry_run he hk hr, wakeEntry_run]
  have hb32 : b < 128 := lt_trans (mem_membersOf.mp hb).1 (by decide)
  obtain ⟨l, k, hlk⟩ := List.append_of_mem hb
  have hnd := membersOf_nodup e.benches 32
  rw [hlk] at hnd ⊢
  obtain ⟨-, hnd2, hdis⟩ := List.nodup_append.mp hnd
  have hl : (each l (wakeStep (s.passed p i))).Only (Act.obeys (moveBound b)) :=
    Prog.only_each.mpr fun c hc => wakeStep_other (fun e => hdis c hc b List.mem_cons_self e) _
  have hk : (each k (wakeStep (s.passed p i))).Only (Act.obeys (moveBound b)) :=
    Prog.only_each.mpr fun c hc => wakeStep_other (b := b) (c := c) (fun h => (List.nodup_cons.mp hnd2).1 (h ▸ hc)) _
  rw [Prog.run_each_append, Prog.run_each_cons]
  obtain ⟨hxhs, hxmoves⟩ := hl.devs (moveBound_steps b) (s.passed p i)
  have hxregs := hl.sameRegsBut (fun _ h => h) (s.passed p i)
  have hxunit : _ = s.unitState b := hl.flds (unitLine_not_move hb32) (s.passed p i)
  have hxmem : _ = s.mem := hl.mems id (s.passed p i)
  have hxhost : _ = s.host := hl.hosts id (s.passed p i)
  generalize (each l (wakeStep (s.passed p i))).run (s.passed p i) = x at *
  have hxnow : x.now = s.now := congrArg (fun h : Headstock => h.now.toNat) hxhs
  obtain ⟨hyregs, hymem, hyhost, hywaking⟩ := wakeStep_run (s := x) (v := s.passed p i) (b := b) hf hu
    (fun z hz hzb => hw z ((hxmoves z hzb).1.mp hz) hzb) (fun z hz hzb => hd z ((hxmoves z hzb).2.mp hz) hzb) hxunit
  generalize (wakeStep (s.passed p i) b).run x = y at *
  refine ⟨?_, ?_, fun a => ?_, fun a => ?_, fun o ho => ?_⟩
  · rw [← hxnow]
    exact ((hk.devs (moveBound_steps b) y).2 _ rfl).1.mpr hywaking
  · rw [State.unitState, hk.flds (unitLine_not_move hb32) y, ← hxunit]
    exact State.fld_of_word (State.word_of_regs hyregs _)
  · rw [hk.mems id, hymem, hxmem]
  · rw [hk.hosts id, hyhost, hxhost]
  · rw [hk.sameRegsBut (fun _ h => h) y o ho, State.word_of_regs hyregs o, hxregs o ho]
    rfl

/-! ## Benches that arrive -/

theorem dropMoves_dev (b : Nat) (s : State) : ((dropMoves b).run s).dev = { s.dev with pwr := { s.dev.pwr with
    waking := s.dev.pwr.waking.filter (·.1 != b), dwelling := s.dev.pwr.dwelling.filter (·.1 != b) } } := rfl

theorem notMem_filter_key {l : List (Nat × Nat)} {b : Nat} : ∀ x ∈ l.filter (·.1 != b), x.1 ≠ b :=
  fun x hx => by simpa using (List.mem_filter.mp hx).2

/-- Starting programs on tiles of a bench writes only their tile windows, and leaves what does not belong to tiles. -/
abbrev startBound : Bound where
  dev d e := e.pwr = d.pwr
  reg o := 0x100000 ≤ o
  mem := False
  host := False

theorem startBound_steps : startBound.Steps := ⟨fun _ => rfl, fun h k => k.trans h⟩

theorem startTile_bound (t : Nat) (l : Launch) : (startTile t l).Only (Act.obeys startBound) := by
  intro s
  show Prog.Only _ (match (s.planeFor l.part l.old).tileRec t with | none => _ | some r => _)
  cases (s.planeFor l.part l.old).tileRec t with
  | none => trivial
  | some r =>
    refine ⟨fun _ => rfl, setF_obeys.mpr ?_, setF_obeys.mpr ?_, setF_obeys.mpr ?_, trivial⟩
    · show 0x100000 ≤ 0x100150 + 0x10000 * (t / 16) + 0x800 * (t % 16)
      omega
    · show 0x100000 ≤ 0x100154 + 0x10000 * (t / 16) + 0x800 * (t % 16)
      omega
    · show 0x100000 ≤ 0x100158 + 0x10000 * (t / 16) + 0x800 * (t % 16)
      omega

theorem startNext_bound (t : Nat) : (startNext t).Only (Act.obeys startBound) := by
  intro s
  show Prog.Only _ (match (s.tile t).waiting with | [] => _ | l :: ls => _)
  cases (s.tile t).waiting with
  | nil => trivial
  | cons l ls => exact Prog.only_when.mpr fun _ => ⟨fun _ => rfl, startTile_bound t l, trivial⟩

theorem startBench_bound (b : Nat) : (startBench b).Only (Act.obeys startBound) := Prog.only_each.mpr fun t _ => startNext_bound t

theorem unitLine_not_start {b : Nat} (hb : b < 128) : ¬startBound.reg (F.LEDG_UNIT_STATE b).off := by
  show ¬0x100000 ≤ 0x40100 + 4 * b
  omega

/-- A bench on its way reaches SPIN (R79). -/
theorem benchSpinReached_completes {s : State} {b t : Nat} (hb : b < 32) (hw : (b, t) ∈ s.dev.pwr.waking) (hr : s.reached t = true)
    (hc : b ∉ s.dev.pwr.cancelled) : Completes (.benchSpinReached b) s fun u => u.unitState b = 1 ∧ (∀ x ∈ u.dev.pwr.waking, x.1 ≠ b) ∧
      (∀ x ∈ u.dev.pwr.dwelling, x.1 ≠ b) ∧ (∀ c, c ≠ b → c < 32 → u.unitState c = s.unitState c) ∧ SameBytes s u ∧ SameHost s u := by
  have hany : (s.dev.pwr.waking.any fun w => w.1 == b && s.reached w.2) = true := List.any_eq_true.mpr ⟨_, hw, by simp [hr]⟩
  have hcan : s.dev.pwr.cancelled.contains b = false := by simpa using hc
  refine completes_done rfl ?_
  rw [Prog.run_when, if_pos hany, hcan]
  simp only [Prog.run_all_cons, Prog.run_all_nil, Prog.run_when, Bool.false_eq_true, if_false]
  generalize hv : (setUnit b bSpin).run ((dropMoves b).run s) = v
  have hvd : v.dev.pwr = { s.dev.pwr with
      waking := s.dev.pwr.waking.filter (·.1 != b), dwelling := s.dev.pwr.dwelling.filter (·.1 != b) } := by rw [← hv]; rfl
  have hvb : v.unitState b = 1 := by
    rw [← hv, State.unitState, setUnit, Prog.fld_setF_same _ _ _ (by decide : (0 : ℕ) + 4 ≤ 32)]
    rfl
  have hvc : ∀ c, c ≠ b → v.unitState c = s.unitState c := fun c hc => by
    have hoff : (F.LEDG_UNIT_STATE c).off ≠ (F.LEDG_UNIT_STATE b).off := by
      show 0x40100 + 4 * c ≠ 0x40100 + 4 * b
      omega
    rw [← hv]
    exact Prog.fld_setF_other _ _ _ _ (by decide : (0 : ℕ) + 4 ≤ 32) (.inl hoff)
  have hmem : v.mem = s.mem ∧ v.host = s.host := by rw [← hv]; exact ⟨rfl, rfl⟩
  have hpwr : ((startBench b).run v).dev.pwr = v.dev.pwr := (startBench_bound b).devs startBound_steps v
  have hunit : ∀ c, c < 32 → ((startBench b).run v).unitState c = v.unitState c := fun c hc =>
    (startBench_bound b).flds (unitLine_not_start (by omega)) v
  rw [hpwr, hvd]
  refine ⟨by rw [hunit b hb, hvb], notMem_filter_key, notMem_filter_key, fun c hc hc32 => by rw [hunit c hc32, hvc c hc], fun a => ?_, fun a => ?_⟩
  · rw [(startBench_bound b).mems id, hmem.1]
  · rw [(startBench_bound b).hosts id, hmem.2]

/-! ## DWELL -/

/-- Changing some tiles, each by the same rule. -/
theorem each_modTile_run (l : List Nat) (f : Tile → Tile) (s : State) (hnd : l.Nodup) :
    (∀ j, ((each l fun t => modTile t f).run s).tile j = if j ∈ l then f (s.tile j) else s.tile j) ∧
    ((each l fun t => modTile t f).run s).regs = s.regs ∧ ((each l fun t => modTile t f).run s).mem = s.mem ∧
    ((each l fun t => modTile t f).run s).host = s.host ∧ ((each l fun t => modTile t f).run s).dev.pwr = s.dev.pwr := by
  induction l generalizing s with
  | nil => exact ⟨fun _ => rfl, rfl, rfl, rfl, rfl⟩
  | cons t l ih =>
    obtain ⟨htl, hnd⟩ := List.nodup_cons.mp hnd
    rw [Prog.run_each_cons]
    obtain ⟨htile, hregs, hmem, hhost, hpwr⟩ := ih ((modTile t f).run s) hnd
    refine ⟨fun j => ?_, hregs, hmem, hhost, hpwr⟩
    rw [htile j]
    by_cases h : j = t
    · subst h
      rw [if_neg htl, if_pos List.mem_cons_self]
      exact State.tile_modTile_same s j f
    · have hother : ((modTile t f).run s).tile j = s.tile j := State.tile_modTile_other h s f
      simp only [hother, List.mem_cons, h, false_or]

theorem tilesOf_nodup (b : Nat) : (tilesOf b).Nodup :=
  List.nodup_range.map fun _ _ h => by simpa using h

theorem State.unitState_lose {keep : Nat → FieldSpec → Bool} {u : Nat} (hu : u < 117) (hk : ∀ f, keep (0x40100 + 4 * u) f = true) (s : State) :
    ((Act.lose keep).apply s).unitState u = s.unitState u := by
  rcases RegMap.state_mem_fields u hu with h | h
  · exact State.fld_lose_kept h (hk _) s
  · exact State.fld_lose_kept h (hk _) s

theorem unitLine_not_inBench {b u : Nat} (hu : u < 128) : inBench b (0x40100 + 4 * u) = false := by
  have : ¬0x100000 + 0x10000 * b ≤ 0x40100 + 4 * u := by omega
  simp [inBench, this]

/-- A bench whose entry to DWELL ends (R551, R577). -/
theorem dwellEntryDone_completes {s : State} {b t : Nat} (hb : b < 32) (hd : (b, t) ∈ s.dev.pwr.dwelling) (hr : s.reached t = true) :
    Completes (.dwellEntryDone b) s fun u => u.unitState b = 3 ∧ (∀ x ∈ u.dev.pwr.dwelling, x.1 ≠ b) ∧
      (∀ j, j ∈ tilesOf b → (u.tile j).run = 0 ∧ (u.tile j).launch = none ∧ (∀ n, (u.tile j).sreg n = 0) ∧
        SameVectors (s.tile j) (u.tile j)) ∧
      (∀ j, j ∉ tilesOf b → u.tile j = s.tile j) ∧ SameBytes s u ∧ SameHost s u := by
  have hany : (s.dev.pwr.dwelling.any fun w => w.1 == b && s.reached w.2) = true := List.any_eq_true.mpr ⟨_, hd, by simp [hr]⟩
  refine completes_done rfl ?_
  rw [Prog.run_when, if_pos hany, enterDwell]
  simp only [Prog.run_all_cons, Prog.run_all_nil, Prog.run_act]
  generalize hv : Act.apply _ _ = v
  have hvunit : v.unitState b = 3 := by
    rw [← hv, State.unitState_lose (by omega) fun f => by rw [unitLine_not_inBench (by omega)]; rfl, State.unitState, setUnit,
      Prog.fld_setF_same _ _ _ (by decide : (0 : ℕ) + 4 ≤ 32)]
    rfl
  have hvd : v.dev = { s.dev with pwr := { s.dev.pwr with
      waking := s.dev.pwr.waking.filter (·.1 != b), dwelling := s.dev.pwr.dwelling.filter (·.1 != b) } } := by rw [← hv]; rfl
  have hvm : v.mem = s.mem ∧ v.host = s.host := by rw [← hv]; exact ⟨rfl, rfl⟩
  have hvt : ∀ j, v.tile j = s.tile j := fun j => by rw [State.tile, hvd]; rfl
  obtain ⟨htile, hregs, hmem, hhost, hpwr⟩ := each_modTile_run (tilesOf b) (fun x => { x.classCLost with waiting := x.waiting }) v (tilesOf_nodup b)
  generalize (each (tilesOf b) _).run v = u at *
  refine ⟨(State.fld_of_word (State.word_of_regs hregs _)).trans hvunit, ?_, fun j hj => ?_, fun j hj => ?_, fun a => by rw [hmem, hvm.1],
    fun a => by rw [hhost, hvm.2]⟩
  · rw [hpwr, hvd]
    exact notMem_filter_key
  · rw [htile j, if_pos hj, hvt j]
    exact ⟨rfl, rfl, fun n => by cases n <;> rfl, ⟨fun _ _ => rfl, rfl⟩⟩
  · rw [htile j, if_neg hj, hvt j]

/-- Settles O28. -/
theorem benchMoves : Obligations.BenchMoves :=
  ⟨fun _ _ _ _ _ => wake_completes, fun _ _ _ => benchSpinReached_completes, fun _ _ _ => dwellEntryDone_completes⟩

end Sys2Proof.Machine
end

section
/-!
Short programs that write registers, change the device and log a catch (O42): what is read after them, and the rollback counter and the
fuses (R321, R323).
-/
namespace Sys2Proof.Machine

/-! ## Reading after a catch is logged -/

section
variable (code sev unit : Nat) (ds : List Nat) (st : Option Nat) (s : State)

/-- A part of the device that logging does not write. -/
theorem logC_part {α : Type} (g : Dev → α) (hg : ∀ d l o m, g { d with log := l, out := o, marks := m } = g d) :
    g ((logC code sev unit ds st).run s).dev = g s.dev := by
  rw [(logC_run_onlyLogs code sev unit ds st s).dev, hg]

theorem logC_chuck : ((logC code sev unit ds st).run s).dev.chuck = s.dev.chuck :=
  logC_part code sev unit ds st s Dev.chuck fun _ _ _ _ => rfl

theorem logC_fld {f : Fld} (h : f.off ∉ logRegs) : ((logC code sev unit ds st).run s).fld f = s.fld f :=
  (logC_run_onlyLogs code sev unit ds st s).fld h

theorem logC_bit {f : Fld} (h : f.off ∉ logRegs) : ((logC code sev unit ds st).run s).bit f = s.bit f :=
  congrArg (· == 1) (logC_fld code sev unit ds st s h)

theorem logC_count_ne : ((logC code sev unit ds st).run s).dev.log.count ≠ s.dev.log.count :=
  (logC_count_lt code sev unit ds st s).ne'

end

/-- A bound that leaves the memories, lets the device change at will, and lists the registers beside those of the log. -/
abbrev Bound.regs (offs : List Nat) : Bound where
  dev _ _ := True
  reg o := o ∈ offs ++ logRegs
  mem := False
  host := False

theorem Bound.regs_logs (offs : List Nat) : (Bound.regs offs).Logs := ⟨fun _ _ _ _ _ => trivial, fun _ h => List.mem_append_right _ h⟩

theorem Bound.regs_logC {offs : List Nat} (code sev unit : Nat) (ds : List Nat) (st : Option Nat) :
    (logC code sev unit ds st).Only (Act.obeys (.regs offs)) := (Bound.regs_logs offs).logC code sev unit ds st

/-- The same where nothing is logged. -/
abbrev Bound.quiet (offs : List Nat) : Bound where
  dev _ _ := True
  reg o := o ∈ offs
  mem := False
  host := False

theorem Prog.Only.sameRegs_of_regs {p : Prog} {offs : List Nat} (h : p.Only (Act.obeys (.regs offs))) (s : State) :
    SameBytes s (p.run s) ∧ SameHost s (p.run s) ∧ SameRegsBut s (p.run s) (offs ++ catchRegs) :=
  ⟨h.sameBytes_of_obeys id s, h.sameHost_of_obeys id s, h.sameRegsBut (fun _ h => h) s⟩

theorem Prog.Only.sameRegs_of_quiet {p : Prog} {offs : List Nat} (h : p.Only (Act.obeys (.quiet offs))) (s : State) :
    SameRegsBut s (p.run s) offs ∧ SameBytes s (p.run s) ∧ SameHost s (p.run s) :=
  ⟨h.sameRegsBut (fun _ h => h) s, h.sameBytes_of_obeys id s, h.sameHost_of_obeys id s⟩

/-! ## The rollback counter -/

theorem commitFault_eq_zero {s : State} {v : Nat} : s.commitFault v = 0 ↔
    s.bit F.SEC_RB_STAT_BUSY = false ∧ bitsOf v 16 16 = 0xC0DE ∧ s.dev.chuck.rbCount < bitsOf v 0 7 ∧
      bitsOf v 0 7 ≤ s.fld F.SEC_ACT_SEQ_SEQ := by
  unfold State.commitFault
  cases s.bit F.SEC_RB_STAT_BUSY
  · by_cases hk : bitsOf v 16 16 = 0xC0DE
    · simp [hk]
    · simp [hk]
  · simp

theorem rbCommit_taken {s : State} {p : Path} {v : Word} (hr : s.reach p F.SEC_RB_COMMIT_VALUE.off = true)
    (h : s.commitFault v.toNat = 0) : Completes (.rbCommit p v) s fun u =>
      u.dev.chuck.rbTarget = some (bitsOf v.toNat 0 7) ∧ u.bit F.SEC_RB_STAT_BUSY = true ∧
      u.dev.chuck.rbCount = s.dev.chuck.rbCount ∧ SameRegsBut s u [F.SEC_RB_STAT_BUSY.off] ∧ SameBytes s u ∧ SameHost s u := by
  refine completes_done rfl ?_
  rw [writing_run_of_reach hr (by decide), commitRb, Prog.run_look, if_pos h]
  refine ⟨rfl, ?_, rfl, ?_⟩
  · exact beq_iff_eq.mpr (Prog.fld_setF_same F.SEC_RB_STAT_BUSY 1 s (by decide))
  · exact Prog.Only.sameRegs_of_quiet (by simp [modChuck]) s

theorem rbCommit_rejected {s : State} {p : Path} {v : Word} (hr : s.reach p F.SEC_RB_COMMIT_VALUE.off = true)
    (h : s.commitFault v.toNat ≠ 0) : Completes (.rbCommit p v) s fun u =>
      u.bit F.SEC_RB_STAT_REJECTED = true ∧ u.dev.chuck = s.dev.chuck ∧ u.dev.log.count ≠ s.dev.log.count ∧ SameBytes s u ∧
      SameHost s u ∧ SameRegsBut s u (F.SEC_RB_STAT_REJECTED.off :: catchRegs) := by
  refine completes_done rfl ?_
  rw [writing_run_of_reach hr (by decide), commitRb, Prog.run_look, if_neg h]
  refine ⟨?_, ?_, ?_, Prog.Only.sameRegs_of_regs (offs := [F.SEC_RB_STAT_REJECTED.off]) (by simp [Bound.regs_logC]) s⟩
  · rw [Prog.run_all_cons, Prog.run_all_cons, Prog.run_all_nil, logC_bit _ _ _ _ _ _ (by decide)]
    exact beq_iff_eq.mpr (Prog.fld_setF_same F.SEC_RB_STAT_REJECTED 1 s (by decide))
  · rw [Prog.run_all_cons, Prog.run_all_cons, Prog.run_all_nil, logC_chuck, Prog.run_setF_dev]
  · rw [Prog.run_all_cons, Prog.run_all_cons, Prog.run_all_nil]
    exact logC_count_ne _ _ _ _ _ _

theorem rbCommitted_completes {s : State} {v : Nat} (ht : s.dev.chuck.rbTarget = some v) (hp : s.dev.pwr.por = false)
    (hh : s.heldReset = false) (hi : s.inRest = false) : Completes .rbCommitted s fun u =>
      u.dev.chuck.rbCount = max s.dev.chuck.rbCount v ∧ u.dev.chuck.rbTarget = none ∧
      u.bit F.SEC_RB_STAT_BUSY = false ∧ u.bit F.SEC_RB_STAT_DONE = true ∧ u.dev.log.count ≠ s.dev.log.count ∧
      SameBytes s u ∧ SameHost s u ∧ SameRegsBut s u (F.SEC_RB_STAT_BUSY.off :: catchRegs) := by
  refine completes_done rfl ?_
  rw [ht, Prog.run_when, if_pos (by simp [hp, hh, hi])]
  refine ⟨?_, ?_, ?_, ?_, ?_, Prog.Only.sameRegs_of_regs (offs := [F.SEC_RB_STAT_BUSY.off]) (by simp [modChuck, Bound.regs_logC]) s⟩
  all_goals iterate 4 rw [Prog.run_all_cons]
  all_goals rw [Prog.run_all_nil]
  · rw [logC_chuck]
    rfl
  · rw [logC_chuck]
    rfl
  · rw [logC_bit _ _ _ _ _ _ (by decide), State.bit,
      Prog.fld_setF_other F.SEC_RB_STAT_DONE F.SEC_RB_STAT_BUSY _ _ (by decide) (by decide),
      Prog.fld_setF_same F.SEC_RB_STAT_BUSY 0 _ (by decide)]
    rfl
  · rw [logC_bit _ _ _ _ _ _ (by decide), State.bit, Prog.fld_setF_same F.SEC_RB_STAT_DONE 1 _ (by decide)]
    rfl
  · exact logC_count_ne _ _ _ _ _ _

/-! ## Fuses -/

theorem Chuck.fuse_keyHash (c : Chuck) (w v j : Nat) : Sparse.get zeroNat (c.fuse w v).keyHash j =
    Sparse.get zeroNat c.keyHash j ||| (if j = w ∧ w < 12 then v else 0) := by
  unfold Chuck.fuse
  by_cases h1 : w < 12
  · rw [if_pos h1, Sparse.get_put]
    by_cases hj : j = w
    · rw [if_pos hj, if_pos ⟨hj, h1⟩, hj]
    · rw [if_neg hj, if_neg fun h => hj h.1, Nat.or_zero]
  · by_cases h2 : w < 20
    · rw [if_neg h1, if_pos h2, if_neg fun h => h1 h.2, Nat.or_zero]
    · rw [if_neg h1, if_neg h2, if_neg fun h => h1 h.2, Nat.or_zero]

theorem Chuck.fuse_imgKey (c : Chuck) (w v j : Nat) : Sparse.get zeroNat (c.fuse w v).imgKey j =
    Sparse.get zeroNat c.imgKey j ||| (if j + 12 = w ∧ w < 20 then v else 0) := by
  unfold Chuck.fuse
  by_cases h1 : w < 12
  · rw [if_pos h1, if_neg (by omega), Nat.or_zero]
  · by_cases h2 : w < 20
    · rw [if_neg h1, if_pos h2, Sparse.get_put]
      by_cases hj : j + 12 = w
      · rw [if_pos (by omega), if_pos ⟨hj, h2⟩, ← hj, Nat.add_sub_cancel]
      · rw [if_neg (by omega), if_neg fun h => hj h.1, Nat.or_zero]
    · rw [if_neg h1, if_neg h2, if_neg fun h => h2 h.2, Nat.or_zero]

theorem Chuck.fuse_fuseFlags (c : Chuck) {w : Nat} (hw : w ≤ 20) (v : Nat) : (c.fuse w v).fuseFlags =
    c.fuseFlags ||| (if w = 20 then v % 32 else 0) := by
  unfold Chuck.fuse
  by_cases h1 : w < 12
  · rw [if_pos h1, if_neg (by omega), Nat.or_zero]
  · by_cases h2 : w < 20
    · rw [if_neg h1, if_pos h2, if_neg (by omega), Nat.or_zero]
    · rw [if_neg h1, if_neg h2, if_pos (by omega)]

/-- A write of SEC_PROG_CTL with BURN: what BURN does on the state in which ERR may be cleared. -/
theorem fuseBurn_run {s : State} {p : Path} {v : Word} (hr : s.reach p F.SEC_PROG_CTL_BURN.off = true) (ok : Bool) :
    (writing p F.SEC_PROG_CTL_BURN.off (writeProgCtl p (setBits v.toNat 0 1 1) ok)).run s =
      (burnFuse p ok).run ((when (bitsOf (setBits v.toNat 0 1 1) 2 1 == 1) (setF F.SEC_PROG_CTL_ERR 0)).run s) := by
  have hb : bitsOf (setBits v.toNat 0 1 1) 0 1 = 1 := bitsOf_setBits_same _ _ _ _
  rw [writing_run_of_reach hr (by decide), writeProgCtl, Prog.run_all_cons, Prog.run_all_cons, Prog.run_all_nil, Prog.run_when _ (burnFuse p ok),
    if_pos (beq_iff_eq.mpr hb)]

/-- Clearing ERR where a write asks for it. -/
theorem clearErr_run (c : Bool) (s : State) : ((when c (setF F.SEC_PROG_CTL_ERR 0)).run s).dev = s.dev ∧
    (∀ o, o ≠ F.SEC_PROG_CTL_ERR.off → ((when c (setF F.SEC_PROG_CTL_ERR 0)).run s).word o = s.word o) ∧
    ((when c (setF F.SEC_PROG_CTL_ERR 0)).run s).mem = s.mem ∧ ((when c (setF F.SEC_PROG_CTL_ERR 0)).run s).host = s.host := by
  cases c with
  | false => exact ⟨rfl, fun _ _ => rfl, rfl, rfl⟩
  | true =>
    refine ⟨rfl, fun o ho => ?_, rfl, rfl⟩
    exact (Prog.only_setF fun _ => Ne.symm ho : (setF F.SEC_PROG_CTL_ERR 0).Only (Act.sparesReg o)).word s

theorem fuseBurn_taken {s : State} {p : Path} {v : Word} (hr : s.reach p F.SEC_PROG_CTL_BURN.off = true)
    (hp : p = .pf ∨ p = .mb ∨ p = .usb ∨ p = .spi) (hw : s.fld F.SEC_PROG_SEL_WORD ≤ 20)
    (hf : s.fld F.SEC_PROG_SEL_WORD < 20 → fuseBit s.dev.chuck 0 = false) : Completes (.fuseBurn p v true) s fun u =>
      u.dev.chuck = s.dev.chuck.fuse (s.fld F.SEC_PROG_SEL_WORD) (s.fld F.SEC_PROG_DATA) ∧
      SameRegsBut s u [F.SEC_PROG_CTL_ERR.off] ∧ SameBytes s u ∧ SameHost s u := by
  refine completes_done rfl ?_
  rw [fuseBurn_run hr]
  obtain ⟨hd, hwords, hm, hh⟩ := clearErr_run (bitsOf (setBits v.toNat 0 1 1) 2 1 == 1) s
  generalize (when _ _).run s = x at *
  have hsel : x.fld F.SEC_PROG_SEL_WORD = s.fld F.SEC_PROG_SEL_WORD := State.fld_of_word (hwords _ (by decide))
  have hdata : x.fld F.SEC_PROG_DATA = s.fld F.SEC_PROG_DATA := State.fld_of_word (hwords _ (by decide))
  have hmay : mayFuse p = true := by rcases hp with rfl | rfl | rfl | rfl <;> rfl
  have hno : (!mayFuse p || 20 < x.fld F.SEC_PROG_SEL_WORD || (x.fld F.SEC_PROG_SEL_WORD < 20 && fuseBit x.dev.chuck 0)) = false := by
    rw [hsel, hd, hmay]
    simp only [Bool.not_true, Bool.false_or, Bool.or_eq_false_iff, decide_eq_false_iff_not, Nat.not_lt, Bool.and_eq_false_imp,
      decide_eq_true_eq]
    exact ⟨hw, hf⟩
  rw [burnFuse, Prog.run_look]
  dsimp only
  rw [hno, if_neg Bool.false_ne_true, if_pos rfl, hsel, hdata, ← hd]
  exact ⟨rfl, fun o ho => hwords o (by simpa using ho), fun a => congrArg (·.read a) hm, fun a => congrArg (·.read a) hh⟩

theorem fuseBurn_refused {s : State} {p : Path} {v : Word} {ok : Bool} (hr : s.reach p F.SEC_PROG_CTL_BURN.off = true)
    (h : 20 < s.fld F.SEC_PROG_SEL_WORD ∨ (s.fld F.SEC_PROG_SEL_WORD < 20 ∧ fuseBit s.dev.chuck 0 = true)) :
    Completes (.fuseBurn p v ok) s fun u => u.bit F.SEC_PROG_CTL_ERR = true ∧ u.dev.chuck = s.dev.chuck ∧
      u.dev.log.count ≠ s.dev.log.count ∧ SameBytes s u ∧ SameHost s u ∧ SameRegsBut s u (F.SEC_PROG_CTL_ERR.off :: catchRegs) := by
  refine completes_done rfl ?_
  rw [fuseBurn_run hr]
  obtain ⟨hd, hwords, hm, hh⟩ := clearErr_run (bitsOf (setBits v.toNat 0 1 1) 2 1 == 1) s
  generalize (when _ _).run s = x at *
  have hsel : x.fld F.SEC_PROG_SEL_WORD = s.fld F.SEC_PROG_SEL_WORD := State.fld_of_word (hwords _ (by decide))
  have hno : (!mayFuse p || 20 < x.fld F.SEC_PROG_SEL_WORD || (x.fld F.SEC_PROG_SEL_WORD < 20 && fuseBit x.dev.chuck 0)) = true := by
    rw [hsel, hd]
    simp only [Bool.or_eq_true, Bool.and_eq_true, decide_eq_true_eq, or_assoc]
    exact .inr h
  rw [burnFuse, Prog.run_look]
  dsimp only
  rw [hno, if_pos rfl]
  have hfail : fuseFail.Only (Act.obeys (.regs [F.SEC_PROG_CTL_ERR.off])) := by simp [fuseFail, Bound.regs_logC]
  obtain ⟨hb, hhost, hregs⟩ := hfail.sameRegs_of_regs x
  refine ⟨?_, ?_, ?_, fun a => (hb a).trans (congrArg (·.read a) hm), fun a => (hhost a).trans (congrArg (·.read a) hh), fun o ho => ?_⟩
  · rw [fuseFail, Prog.run_all_cons, Prog.run_all_cons, Prog.run_all_nil, logC_bit _ _ _ _ _ _ (by decide)]
    exact beq_iff_eq.mpr (Prog.fld_setF_same F.SEC_PROG_CTL_ERR 1 x (by decide))
  · rw [fuseFail, Prog.run_all_cons, Prog.run_all_cons, Prog.run_all_nil, logC_chuck, Prog.run_setF_dev, hd]
  · rw [fuseFail, Prog.run_all_cons, Prog.run_all_cons, Prog.run_all_nil, ← hd]
    exact logC_count_ne _ _ _ _ _ _
  · exact (hregs o ho).trans (hwords o fun e => ho (e ▸ List.mem_cons_self))

/-! ## The obligation -/

/-- Settles O42: one lemma for each command and outcome. -/
theorem rollbackAndFuses : Obligations.RollbackAndFuses := by
  refine ⟨fun s p v hr hb hk hc ha => rbCommit_taken hr (commitFault_eq_zero.mpr ⟨hb, hk, hc, ha⟩), fun s p v hr h => ?_,
    fun s v => rbCommitted_completes, fun s p v hr hp => ?_, fun s p v ok => fuseBurn_refused⟩
  · refine rbCommit_rejected hr fun h0 => ?_
    obtain ⟨hb, hk, hc, ha⟩ := commitFault_eq_zero.mp h0
    rcases h with h | h | h | h
    · exact absurd h (by simp [hb])
    · exact h hk
    · omega
    · omega
  · intro w d hw hf
    refine (fuseBurn_taken hr hp hw hf).mono fun u h => ?_
    obtain ⟨hc, hrest⟩ := h
    rw [hc]
    exact ⟨fun j => Chuck.fuse_keyHash _ _ _ _, fun j => Chuck.fuse_imgKey _ _ _ _, Chuck.fuse_fuseFlags _ hw _, hrest⟩

end Sys2Proof.Machine
end

section
/-!
The Chuck tries its boot sources and takes the blocks of the flash (R313 to R315, R524): O40.
-/
namespace Sys2Proof.Machine

/-! ## Reading after changes of the device -/

@[simp] theorem Prog.fld_modChuck (g : Chuck → Chuck) (f : Fld) (s : State) : ((modChuck g).run s).fld f = s.fld f := rfl
@[simp] theorem Prog.fld_modPart (p : Nat) (g : Part → Part) (f : Fld) (s : State) : ((modPart p g).run s).fld f = s.fld f := rfl
@[simp] theorem Prog.dev_modChuck (g : Chuck → Chuck) (s : State) :
    ((modChuck g).run s).dev = { s.dev with chuck := g s.dev.chuck } := rfl
@[simp] theorem Prog.mem_modChuck (g : Chuck → Chuck) (s : State) : ((modChuck g).run s).mem = s.mem := rfl
@[simp] theorem Prog.dev_incF (f : Fld) (s : State) : ((incF f).run s).dev = s.dev := rfl

theorem Prog.fld_incF_other (f g : Fld) (s : State) (hg : g.lo + g.w ≤ 32) (h : g.off ≠ f.off ∨ g.lo + g.w ≤ f.lo ∨ f.lo + f.w ≤ g.lo) :
    ((incF f).run s).fld g = s.fld g := Prog.fld_setF_other f g _ s hg h

/-! ## Sources -/

/-- The Chuck begins with the first of the sources left. -/
theorem startSource_run_cons {s : State} {x : Nat} {xs : List Nat} (h : s.dev.chuck.sources = x :: xs) (hx : x < 8) :
    (startSource.run s).dev = { s.dev with chuck := { s.dev.chuck with load := none, sourceAt := s.now, probed := false, retries := 0 } } ∧
    (startSource.run s).fld F.IMG_STATUS_SRC = x ∧ (startSource.run s).fld F.IMG_STATUS_CHUCK = 1 ∧
    (∀ o, o ≠ 0xC0000 → (startSource.run s).word o = s.word o) ∧ (startSource.run s).mem = s.mem ∧ (startSource.run s).host = s.host := by
  rw [startSource, Prog.run_look, h]
  refine ⟨rfl, ?_, ?_, fun o ho => ?_, rfl, rfl⟩
  · simp (disch := decide) only [Prog.run_all_cons, Prog.run_all_nil, Prog.fld_incF_other, Prog.fld_setF_same]
    exact Nat.mod_eq_of_lt hx
  · simp (disch := decide) only [Prog.run_all_cons, Prog.run_all_nil, Prog.fld_incF_other, Prog.fld_setF_same, Prog.fld_setF_other]
    rfl
  · have hi : (incF F.IMG_STATUS_TRIED).Only (Act.sparesReg o) := Prog.only_incF fun _ => Ne.symm ho
    have hf : ∀ f v, f.off = 0xC0000 → (setF f v).Only (Act.sparesReg o) := fun f v hf => Prog.only_setF fun _ => hf ▸ Ne.symm ho
    simp only [Prog.run_all_cons, Prog.run_all_nil]
    rw [hi.word, (hf _ _ rfl).word, (hf _ _ rfl).word]
    rfl

/-- With no source left the Chuck waits. -/
theorem startSource_run_nil {s : State} (h : s.dev.chuck.sources = []) :
    (startSource.run s).dev.chuck = { s.dev.chuck with load := none } ∧ (startSource.run s).fld F.IMG_STATUS_SRC = s.fld F.IMG_STATUS_SRC ∧
    (startSource.run s).fld F.IMG_STATUS_CHUCK = 4 ∧ s.dev.log.count < (startSource.run s).dev.log.count ∧
    (startSource.run s).mem = s.mem ∧ (startSource.run s).host = s.host := by
  rw [startSource, Prog.run_look, h]
  dsimp only
  rw [Prog.run_all_cons, Prog.run_all_cons, Prog.run_all_cons, Prog.run_all_nil]
  have hx : ((setF F.IMG_STATUS_CHUCK 4).run ((modChuck fun c => { c with load := none }).run s)).dev =
        { s.dev with chuck := { s.dev.chuck with load := none } } := rfl
  have hsrc : ((setF F.IMG_STATUS_CHUCK 4).run ((modChuck fun c => { c with load := none }).run s)).fld F.IMG_STATUS_SRC =
      s.fld F.IMG_STATUS_SRC := Prog.fld_setF_other F.IMG_STATUS_CHUCK F.IMG_STATUS_SRC _ _ (by decide) (by decide)
  have hst : ((setF F.IMG_STATUS_CHUCK 4).run ((modChuck fun c => { c with load := none }).run s)).fld F.IMG_STATUS_CHUCK = 4 :=
    Prog.fld_setF_same F.IMG_STATUS_CHUCK 4 _ (by decide)
  have hm : ((setF F.IMG_STATUS_CHUCK 4).run ((modChuck fun c => { c with load := none }).run s)).mem = s.mem := rfl
  have hh : ((setF F.IMG_STATUS_CHUCK 4).run ((modChuck fun c => { c with load := none }).run s)).host = s.host := rfl
  generalize (setF F.IMG_STATUS_CHUCK 4).run _ = x at *
  have hlog := logC_run_onlyLogs 0x9004 2 127 [] none x
  refine ⟨by rw [logC_chuck, hx], (hlog.fld (by decide)).trans hsrc, (hlog.fld (by decide)).trans hst, ?_, hlog.mem.trans hm, hlog.host.trans hh⟩
  exact lt_of_eq_of_lt (by rw [hx]) (logC_count_lt 0x9004 2 127 [] none x)

/-- The state from which the Chuck goes on to the next source (R314). -/
def State.left (s : State) (code : Nat) : State :=
  (all [logC 0x9003 1 127 [s.dev.chuck.sources.headD 0, code], modChuck fun c => { c with sources := c.sources.drop 1 }]).run
    ((setResult code 0).run s)

theorem failSource_run (code : Nat) (s : State) : (failSource code).run s = startSource.run (s.left code) := by
  rw [failSource, Prog.run_all_cons, Prog.run_all_cons, Prog.run_all_nil, leaveSource, Prog.run_look, State.left]
  iterate 5 rw [Prog.run_all_cons]
  rw [Prog.run_all_nil, Prog.run_all_nil]
  rfl

theorem State.left_spec (s : State) {code : Nat} (hc : code < 256) :
    (s.left code).dev.chuck = { s.dev.chuck with sources := s.dev.chuck.sources.drop 1 } ∧ (s.left code).now = s.now ∧
    s.dev.log.count < (s.left code).dev.log.count ∧ (s.left code).fld F.IMG_STATUS_SRC = s.fld F.IMG_STATUS_SRC ∧
    (s.left code).fld F.IMG_RESULT_CODE = code ∧ (s.left code).mem = s.mem ∧ (s.left code).host = s.host := by
  rw [State.left, Prog.run_all_cons, Prog.run_all_cons, Prog.run_all_nil]
  have hx : ((setResult code 0).run s).dev = s.dev ∧ ((setResult code 0).run s).fld F.IMG_RESULT_CODE = code ∧
      ((setResult code 0).run s).fld F.IMG_STATUS_SRC = s.fld F.IMG_STATUS_SRC ∧ ((setResult code 0).run s).mem = s.mem ∧
      ((setResult code 0).run s).host = s.host := by
    refine ⟨rfl, ?_, ?_, rfl, rfl⟩
    · rw [setResult, Prog.run_all_cons, Prog.run_all_cons, Prog.run_all_nil,
        Prog.fld_setF_other F.IMG_RESULT_SEG F.IMG_RESULT_CODE _ _ (by decide) (by decide), Prog.fld_setF_same _ _ _ (by decide)]
      exact Nat.mod_eq_of_lt hc
    · simp (disch := decide) only [setResult, Prog.run_all_cons, Prog.run_all_nil, Prog.fld_setF_other]
  generalize (setResult code 0).run s = x at *
  obtain ⟨hdev, hcode, hsrc, hmem, hhost⟩ := hx
  generalize s.dev.chuck.sources.headD 0 = n
  have hlog := logC_run_onlyLogs 0x9003 1 127 [n, code] none x
  have hcount := logC_count_lt 0x9003 1 127 [n, code] none x
  have hch := logC_chuck 0x9003 1 127 [n, code] none x
  generalize (logC 0x9003 1 127 [n, code]).run x = y at *
  refine ⟨?_, ?_, hdev ▸ hcount, (hlog.fld (by decide)).trans hsrc, (hlog.fld (by decide)).trans hcode, hlog.mem.trans hmem, hlog.host.trans hhost⟩
  · rw [Prog.dev_modChuck, hch, hdev]
  · show y.dev.hs.now.toNat = s.dev.hs.now.toNat
    rw [hlog.dev, hdev]

theorem bootSourceTimeout_run {s : State} {t : Nat} (hr : s.ready = true) (hb : s.dev.chuck.booting = true)
    (hl : s.dev.chuck.load = none) (ht : s.bootBound = some t) (hd : s.reached t = true) :
    exec .bootSourceTimeout s = .next (startSource.run (s.left rSource)) := by
  show done (when _ (failSource rSource)) s = _
  rw [hr, hb, hl, ht, done_eq, Prog.run_when, if_pos (by simp [hd]), failSource_run]

theorem bootSourceTimeout_next {s : State} {t x y : Nat} {ys : List Nat} (hr : s.ready = true) (hb : s.dev.chuck.booting = true)
    (hl : s.dev.chuck.load = none) (ht : s.bootBound = some t) (hd : s.reached t = true) (hs : s.dev.chuck.sources = x :: y :: ys)
    (hy : y < 8) : Completes .bootSourceTimeout s fun u =>
      u.dev.chuck.sources = y :: ys ∧ u.fld F.IMG_STATUS_SRC = y ∧ u.fld F.IMG_STATUS_CHUCK = 1 ∧ u.dev.chuck.sourceAt = s.now ∧
      u.fld F.IMG_RESULT_CODE = 9 ∧ u.dev.log.count ≠ s.dev.log.count ∧ SameBytes s u ∧ SameHost s u := by
  refine ⟨_, bootSourceTimeout_run hr hb hl ht hd, ?_⟩
  obtain ⟨hch, hnow, hcount, -, hcode, hmem, hhost⟩ := s.left_spec (code := rSource) (by decide)
  generalize s.left rSource = x at *
  obtain ⟨hdev, hsrc, hst, hword, hm, hh⟩ := startSource_run_cons (s := x) (x := y) (xs := ys) (by rw [hch, hs]; rfl) hy
  refine ⟨by rw [hdev, hch, hs]; rfl, hsrc, hst, by rw [hdev, ← hnow], ?_, by rw [hdev]; exact hcount.ne', fun a => ?_, fun a => ?_⟩
  · rw [State.fld_of_word (hword F.IMG_RESULT_CODE.off (by decide)), hcode]
    rfl
  · rw [hm, hmem]
  · rw [hh, hhost]

theorem bootSourceTimeout_last {s : State} {t x : Nat} (hr : s.ready = true) (hb : s.dev.chuck.booting = true)
    (hl : s.dev.chuck.load = none) (ht : s.bootBound = some t) (hd : s.reached t = true) (hs : s.dev.chuck.sources = [x]) :
    Completes .bootSourceTimeout s fun u =>
      u.dev.chuck.sources = [] ∧ u.fld F.IMG_STATUS_SRC = s.fld F.IMG_STATUS_SRC ∧ u.fld F.IMG_STATUS_CHUCK = 4 ∧
      u.dev.log.count ≠ s.dev.log.count ∧ SameBytes s u ∧ SameHost s u := by
  refine ⟨_, bootSourceTimeout_run hr hb hl ht hd, ?_⟩
  obtain ⟨hch, -, hcount, hsrc, -, hmem, hhost⟩ := s.left_spec (code := rSource) (by decide)
  generalize s.left rSource = x at *
  have hn : x.dev.chuck.sources = [] := by rw [hch, hs]; rfl
  obtain ⟨hc, hsrc', hst, hcount', hm, hh⟩ := startSource_run_nil hn
  exact ⟨by rw [hc, hn], hsrc'.trans hsrc, hst, (hcount.trans hcount').ne', fun a => by rw [hm, hmem], fun a => by rw [hh, hhost]⟩

/-! ## Blocks of the flash -/

/-- What a block does once the Chuck is at a flash that it knows. -/
theorem qspiBlockRead_run {s : State} {f : FlashIn} {data check : List Byte} (ha : s.atFlash = true) (hp : s.dev.chuck.probed = true)
    (hd : data.length = 4096) : exec (.qspiBlockRead f data check) s = .next ((flashBlock data check).run s) := by
  show done (when s.atFlash (all [when (!s.dev.chuck.probed) (probeFlash f), _])) s = _
  rw [ha, hp, done_eq, Prog.run_when, if_pos rfl, Prog.run_all_cons, Prog.run_all_cons, Prog.run_all_nil, Prog.run_when, if_neg (by simp),
    Prog.run_look, ha, hp, hd]
  rfl

/-- What a load holds once more bytes have arrived: those beyond LENGTH are ignored (R531, R537). -/
def Load.got (l : Load) (bs : List Byte) : List Byte :=
  if 256 ≤ (l.bytes ++ bs).length then (l.bytes ++ bs).take (max 256 (hdrOf (l.bytes ++ bs)).length) else l.bytes ++ bs

theorem loadBytes_run {s : State} {l : Load} (hl : s.dev.chuck.load = some l) (bs : List Byte) : (loadBytes bs).run s =
    (setF F.IMG_DONE (l.got bs).length).run
      ((modChuck fun c => { c with load := some { l with bytes := l.got bs, lastData := s.now } }).run s) := by
  rw [loadBytes, Prog.run_look, hl]
  dsimp only
  rw [Prog.run_all_cons, Prog.run_all_cons, Prog.run_all_nil]
  rfl

theorem flashBlock_good {s : State} {data : List Byte} {l : Load} (hd : data.length = 4096) (hl : s.dev.chuck.load = some l)
    (hr : l.bytes.length < s.flashReach) (hn : (l.bytes ++ data).length ≤ (hdrOf (l.bytes ++ data)).length) :
    ((flashBlock data (data.drop 4080)).run s).dev.chuck.load = some { l with bytes := l.bytes ++ data, lastData := s.now } ∧
    ((flashBlock data (data.drop 4080)).run s).dev.chuck.retries = 0 ∧
    ((flashBlock data (data.drop 4080)).run s).fld F.IMG_DONE = (l.bytes.length + 4096) % 2 ^ 31 ∧
    SameRegsBut s ((flashBlock data (data.drop 4080)).run s) [F.IMG_DONE.off] ∧ SameBytes s ((flashBlock data (data.drop 4080)).run s) ∧
    SameHost s ((flashBlock data (data.drop 4080)).run s) := by
  have hlen : (l.bytes ++ data).length = l.bytes.length + 4096 := by rw [List.length_append, hd]
  have hgot : l.got data = l.bytes ++ data := by rw [Load.got, if_pos (by omega), List.take_of_length_le (le_max_of_le_right hn)]
  rw [flashBlock, Prog.run_look]
  dsimp only
  generalize (if s.bit F.QSPI_STATUS_SFDP then s.bootDiv else 80) = n
  rw [hl]
  dsimp only
  rw [if_neg (Nat.not_le.mpr hr), if_neg (by simp), if_neg (by simp), Prog.run_all_cons, Prog.run_all_cons, Prog.run_all_cons, Prog.run_all_nil,
    Prog.run_when, if_neg (by simp), loadBytes_run hl, hgot]
  refine ⟨rfl, rfl, ?_, fun o ho => ?_, fun _ => rfl, fun _ => rfl⟩
  · rw [Prog.fld_modChuck, Prog.fld_setF_same _ _ _ (by decide), hlen]
  · exact (Prog.only_setF fun _ e => ho (by simp [← e]) : (setF F.IMG_DONE _).Only (Act.sparesReg o)).word _

theorem flashBlock_bad {s : State} {data check : List Byte} {l : Load} (hl : s.dev.chuck.load = some l)
    (hr : l.bytes.length < s.flashReach) (hc : check ≠ data.drop 4080) (ht : s.dev.chuck.retries < 3) :
    ((flashBlock data check).run s).dev.chuck.load = some l ∧ ((flashBlock data check).run s).dev.chuck.retries = s.dev.chuck.retries + 1 ∧
    SameRegsBut s ((flashBlock data check).run s) catchRegs ∧ SameBytes s ((flashBlock data check).run s) ∧
    SameHost s ((flashBlock data check).run s) := by
  rw [flashBlock, Prog.run_look]
  dsimp only
  rw [hl]
  dsimp only
  rw [if_neg (Nat.not_le.mpr hr), if_pos (by simpa using hc), if_neg (Nat.not_le.mpr ht), Prog.run_all_cons, Prog.run_all_cons, Prog.run_all_nil]
  have hx : ((modChuck fun c => { c with retries := c.retries + 1, blockDiv := min 80 (2 * c.blockDiv) }).run s).dev.chuck =
      { s.dev.chuck with retries := s.dev.chuck.retries + 1, blockDiv := min 80 (2 * s.dev.chuck.blockDiv) } := rfl
  have hword : ∀ o, ((modChuck fun c => { c with retries := c.retries + 1, blockDiv := min 80 (2 * c.blockDiv) }).run s).word o = s.word o :=
    fun _ => rfl
  have hmem : ((modChuck fun c => { c with retries := c.retries + 1, blockDiv := min 80 (2 * c.blockDiv) }).run s).mem = s.mem := rfl
  have hhost : ((modChuck fun c => { c with retries := c.retries + 1, blockDiv := min 80 (2 * c.blockDiv) }).run s).host = s.host := rfl
  generalize (modChuck _).run s = x at *
  have hlog := (logLim_onlyLogs (.ticks 2500000) 127 0xC010 0 127 [] none).onlyLogs x
  generalize (logLim _ _ _ _ _ _ _).run x = u at *
  refine ⟨?_, ?_, fun o ho => (hlog.regs o ho).trans (hword o), fun a => by rw [hlog.mem, hmem], fun a => by rw [hlog.host, hhost]⟩
  · rw [hlog.dev]
    exact (congrArg Chuck.load hx).trans hl
  · rw [hlog.dev]
    exact congrArg Chuck.retries hx

/-! ## The start -/

/-- With no load in progress the USB port's attachment leaves the Chuck and the memory. -/
theorem usbCheck_noLoad {s : State} (hl : s.dev.chuck.load = none) :
    (usbCheck.run s).dev.chuck = s.dev.chuck ∧ (usbCheck.run s).mem = s.mem := by
  have hlose : usbDetach.run s = (all [usbForget, declareUnit 116 0]).run s := by
    rw [usbDetach, Prog.run_all_cons, usbLoseLoad, Prog.run_look, hl, Prog.run_when, if_neg (by simp)]
  have hdecl : ∀ st x, ((declareUnit 116 st).run x).dev.chuck = x.dev.chuck ∧ ((declareUnit 116 st).run x).mem = x.mem :=
    fun st x => ⟨congrArg Dev.chuck (declareUnit_run_dev _ _ _), declareUnit_run_mem _ _ _⟩
  rw [usbCheck, Prog.run_look]
  split
  · rw [Prog.run_when]
    split
    · exact hdecl _ _
    · exact ⟨rfl, rfl⟩
  · rw [Prog.run_when]
    split
    · rw [hlose, Prog.run_all_cons, Prog.run_all_cons, Prog.run_all_nil, (hdecl _ _).1, (hdecl _ _).2]
      exact ⟨rfl, rfl⟩
    · exact ⟨rfl, rfl⟩

/-- A device that was starting is READY (R656). -/
def becomeReady : Prog := all [setF F.PCK_STATUS_DEV 1, declareUnit 41 1, declareUnit 43 1, usbCheck]

theorem becomeReady_run {s : State} (hl : s.dev.chuck.load = none) :
    (becomeReady.run s).devState = 1 ∧ (becomeReady.run s).dev.chuck = s.dev.chuck ∧ (becomeReady.run s).now = s.now ∧
    (becomeReady.run s).mem = s.mem ∧ (becomeReady.run s).host = s.host := by
  rw [becomeReady]
  iterate 4 rw [Prog.run_all_cons]
  rw [Prog.run_all_nil]
  generalize hx : (declareUnit 43 1).run _ = x
  have hst : x.devState = 1 := by
    rw [← hx, State.devState, State.fld, declareUnit_run_word (by decide), declareUnit_run_word (by decide)]
    exact Prog.fld_setF_same F.PCK_STATUS_DEV 1 s (by decide)
  have hdev : x.dev = s.dev := by rw [← hx, declareUnit_run_dev, declareUnit_run_dev, Prog.run_setF_dev]
  have hmem : x.mem = s.mem := by rw [← hx, declareUnit_run_mem, declareUnit_run_mem, Prog.run_setF_mem]
  have hhost : x.host = s.host := by rw [← hx, declareUnit_run_host, declareUnit_run_host, Prog.run_setF_host]
  obtain ⟨hc, hm⟩ := usbCheck_noLoad (hdev ▸ hl : x.dev.chuck.load = none)
  refine ⟨?_, by rw [hc, hdev], ?_, hm.trans hmem, (usbCheck_host x).trans hhost⟩
  · rw [← hst, State.devState, State.fld, usbCheck_word (by decide)]
    rfl
  · rw [State.now, usbCheck_hs, hdev]
    rfl

theorem mem_bootSources_lt {s : State} {x : Nat} (h : x ∈ s.bootSources) : x < 8 := by
  have hb : x ∈ bootOrder (s.fld F.IMG_STATUS_BOOTSEL) := List.mem_of_mem_filter h
  have : x = 1 ∨ x = 2 ∨ x = 3 ∨ x = 4 := by
    unfold bootOrder at hb
    split_ifs at hb <;> simp [srcFlash, srcHost, srcUsb, srcSpi] at hb <;> omega
  omega

theorem chuckBoot_completes {s : State} {f : FlashIn} {x : Nat} {xs : List Nat} (hp : s.dev.pwr.por = false) (hh : s.heldReset = false)
    (hd : s.devState = 0) (hs : s.bootSources = x :: xs) (hx : x ≠ 1) (hl : s.dev.chuck.load = none) :
    Completes (.chuckBoot f) s fun u => u.devState = 1 ∧ u.fld F.IMG_STATUS_CHUCK = 1 ∧ u.fld F.IMG_STATUS_SRC = x ∧
      u.dev.chuck.booting = true ∧ u.dev.chuck.sources = x :: xs ∧ u.dev.chuck.sourceAt = s.now ∧ u.dev.chuck.bootDue = false ∧
      SameBytes s u ∧ SameHost s u := by
  refine completes_done rfl ?_
  rw [Prog.run_when, if_pos (by simp [hp, hh, hd]), chuckBoot, Prog.run_look, hs, hd]
  iterate 5 rw [Prog.run_all_cons]
  rw [Prog.run_all_nil, Prog.run_when, if_pos (beq_self_eq_true _)]
  obtain ⟨hst, hch, hnow, hmem, hhost⟩ := becomeReady_run hl
  rw [becomeReady] at hst hch hnow hmem hhost
  generalize (all [setF F.PCK_STATUS_DEV 1, _, _, _]).run s = r at *
  generalize hy : (modChuck _).run ((setF F.IMG_STATUS_TRIED 0).run r) = y
  have hyc : y.dev.chuck = { s.dev.chuck with booting := true, bootDue := false, sources := x :: xs } := by
    rw [← hy, Prog.dev_modChuck, Prog.run_setF_dev, hch]
  have hyst : y.devState = 1 := by
    rw [← hst, ← hy]
    exact Prog.fld_setF_other F.IMG_STATUS_TRIED F.PCK_STATUS_DEV _ _ (by decide) (by decide)
  have hynow : y.now = s.now := by rw [← hnow, ← hy]; rfl
  have hymem : y.mem = s.mem := by rw [← hmem, ← hy]; rfl
  have hyhost : y.host = s.host := by rw [← hhost, ← hy]; rfl
  obtain ⟨hdev, hsrc, hchuck, hword, hm, hho⟩ := startSource_run_cons (s := y) (x := x) (xs := xs) (by rw [hyc])
    (mem_bootSources_lt (hs ▸ List.mem_cons_self))
  generalize startSource.run y = z at *
  rw [Prog.run_look, Prog.run_when, if_neg]
  · refine ⟨?_, hchuck, hsrc, by rw [hdev, hyc], by rw [hdev, hyc], by rw [hdev, ← hynow], by rw [hdev, hyc], fun a => by rw [hm, hymem],
      fun a => by rw [hho, hyhost]⟩
    exact (State.fld_of_word (hword F.PCK_STATUS_DEV.off (by decide))).trans hyst
  · rw [hdev, hyc]
    simpa [srcFlash] using hx

/-! ## The obligation -/

/-- Settles O40: one lemma for each event of booting. -/
theorem bootTriesSources : Obligations.BootTriesSources := by
  refine ⟨fun _ _ _ _ => chuckBoot_completes, fun s f data check l ha hp hd hl hr hc hn => ?_, fun s f data check l ha hp hd hl hr hc ht => ?_,
    fun _ _ _ _ _ => bootSourceTimeout_next, fun _ _ _ => bootSourceTimeout_last⟩
  · subst hc
    exact ⟨_, qspiBlockRead_run ha hp hd, flashBlock_good hd hl hr hn⟩
  · exact ⟨_, qspiBlockRead_run ha hp hd, flashBlock_bad hl hr hc ht⟩

end Sys2Proof.Machine
end

section
/-!
Loads of images begin, are refused, and end with or without an image (R317, R325, R328, R346, R531): O41.
-/
namespace Sys2Proof.Machine

/-! ## What the end of a load touches beside its own registers -/

/-- The log, the poison of what is stored, IMG_STATUS, and memory. -/
abbrev noteBound : Bound where
  dev d e := e = { d with log := e.log, out := e.out, marks := e.marks, poison := e.poison } ∧ d.log.count ≤ e.log.count
  reg o := o ∈ 0xC0000 :: logRegs
  mem := True
  host := False

theorem noteBound_steps : noteBound.Steps where
  refl _ := ⟨rfl, le_refl _⟩
  trans h k := ⟨by rw [k.1, h.1], le_trans h.2 k.2⟩

theorem noteBound_logs : noteBound.Logs := ⟨fun _ _ _ _ h => ⟨rfl, h⟩, fun _ h => List.mem_cons_of_mem _ h⟩

theorem noteBound_zeroFill (lo hi : Nat) : (zeroFill lo hi).Only (Act.obeys noteBound) := ⟨trivial, fun _ => ⟨rfl, le_refl _⟩, trivial⟩

theorem noteBound_storeBytes (a : Nat) (bs : List Byte) : (storeBytes a bs).Only (Act.obeys noteBound) :=
  ⟨trivial, fun _ => ⟨rfl, le_refl _⟩, trivial⟩

theorem noteOpen_bound (l : Load) : (noteOpen l).Only (Act.obeys noteBound) :=
  fun _ => Prog.only_when.mpr fun _ => ⟨setB_obeys.mpr List.mem_cons_self, Prog.only_when.mpr fun _ => noteBound_logs.logC _ _ _ _ _, trivial⟩

theorem unwriteLoad_bound (l : Load) (code seg : Nat) : (unwriteLoad l code seg).Only (Act.obeys noteBound) := by
  simp only [unwriteLoad, unwrite, Prog.only_look, Prog.only_when, Prog.only_each, Prog.only_all_cons, Prog.only_all_nil]
  exact fun _ _ _ _ _ _ => ⟨fun _ _ => noteBound_zeroFill _ _, fun _ _ _ _ _ => noteBound_zeroFill _ _, trivial⟩

theorem loadStoreData_bound (x : State) (p : Nat) (pl : Plane) (sd : StoreData) : (loadStoreData x p pl sd).Only (Act.obeys noteBound) :=
  ⟨Prog.only_each.mpr fun _ _ => noteBound_zeroFill _ _, Prog.only_each.mpr fun _ _ => noteBound_storeBytes _ _, trivial⟩

theorem loadTile_bound (r : TileRec) : (loadTile r).Only (Act.obeys noteBound) := Prog.only_each.mpr fun _ _ => noteBound_storeBytes _ _

/-- Of IMG_STATUS only OPEN is noted. -/
theorem noteOpen_fld (l : Load) {f : Fld} (h : f.off ∉ logRegs) (hw : f.lo + f.w ≤ 32) (hb : f.off ≠ 0xC0000 ∨ f.lo + f.w ≤ 7 ∨ 8 ≤ f.lo)
    (s : State) : ((noteOpen l).run s).fld f = s.fld f := by
  have hopen : ∀ c x, ((setB F.IMG_STATUS_OPEN c).run x).fld f = x.fld f := fun c x => Prog.fld_setF_other _ _ _ _ hw hb
  rw [noteOpen, Prog.run_look, Prog.run_when]
  split
  · rw [Prog.run_all_cons, Prog.run_all_cons, Prog.run_all_nil, Prog.run_when]
    split
    · rw [logC_fld _ _ _ _ _ _ h, hopen]
    · exact hopen _ _
  · rfl

/-! ## A load that is rejected -/

/-- What a rejected load has left behind by then. -/
def unnoted (l : Load) (code seg : Nat) : Prog := all [noteOpen l, unwriteLoad l code seg]

theorem unnoted_bound (l : Load) (code seg : Nat) : (unnoted l code seg).Only (Act.obeys noteBound) :=
  ⟨noteOpen_bound l, unwriteLoad_bound l code seg, trivial⟩

theorem unwriteLoad_word (l : Load) (code seg o : Nat) (s : State) : ((unwriteLoad l code seg).run s).word o = s.word o := by
  refine Prog.Only.word ?_ s
  simp only [unwriteLoad, unwrite, zeroFill, Prog.only_look, Prog.only_when, Prog.only_each, Prog.only_all_cons, Prog.only_all_nil]
  exact fun _ _ _ _ _ _ => ⟨fun _ _ => ⟨trivial, trivial, trivial⟩, fun _ _ _ _ _ => ⟨trivial, trivial, trivial⟩, trivial⟩

theorem unnoted_src (l : Load) (code seg : Nat) (s : State) :
    ((unnoted l code seg).run s).fld F.IMG_STATUS_SRC = s.fld F.IMG_STATUS_SRC := by
  rw [unnoted, Prog.run_all_cons, Prog.run_all_cons, Prog.run_all_nil, State.fld_of_word (unwriteLoad_word _ _ _ _ _)]
  exact noteOpen_fld l (by decide) (by decide) (by decide) s

/-- The outcome of a load that is not of the boot. -/
structure LoadEnded (s u : State) (code : Nat) : Prop where
  load : u.dev.chuck.load = none
  chuck : u.fld F.IMG_STATUS_CHUCK = 0
  src : u.fld F.IMG_STATUS_SRC = s.fld F.IMG_STATUS_SRC
  result : u.fld F.IMG_RESULT_CODE = code % 256
  count : u.dev.log.count ≠ s.dev.log.count
  host : SameHost s u
  parts : u.dev.parts = s.dev.parts

theorem rejectLoad_run {s : State} {l : Load} (hl : s.dev.chuck.load = some l) (hb : l.boot = false) (code seg : Nat) :
    LoadEnded s ((rejectLoad code seg).run s) code := by
  have hsplit : (rejectLoad code seg).run s = (setF F.IMG_STATUS_CHUCK 0).run
      ((logC 0x9001 2 (loadUnit l.kind l.part) [code, seg, l.src]).run ((modChuck fun c => { c with load := none }).run
        ((setF F.IMG_DONE l.bytes.length).run ((setResult code seg).run ((unnoted l code seg).run s))))) := by
    rw [rejectLoad, Prog.run_look, hl]
    dsimp only
    iterate 7 rw [Prog.run_all_cons]
    rw [Prog.run_all_nil, unnoted, Prog.run_all_cons, Prog.run_all_cons, Prog.run_all_nil, if_pos (by rw [hb]; rfl)]
  rw [hsplit]
  obtain ⟨hdev, hle⟩ := (unnoted_bound l code seg).devs noteBound_steps s
  have hhost := (unnoted_bound l code seg).hosts id s
  have hsrc := unnoted_src l code seg s
  generalize (unnoted l code seg).run s = x at *
  have hcode : ((modChuck fun c => { c with load := none }).run ((setF F.IMG_DONE l.bytes.length).run ((setResult code seg).run x))).fld
      F.IMG_RESULT_CODE = code % 256 := by
    rw [Prog.fld_modChuck, Prog.fld_setF_other F.IMG_DONE F.IMG_RESULT_CODE _ _ (by decide) (by decide), setResult, Prog.run_all_cons,
      Prog.run_all_cons, Prog.run_all_nil, Prog.fld_setF_other F.IMG_RESULT_SEG F.IMG_RESULT_CODE _ _ (by decide) (by decide),
      Prog.fld_setF_same _ _ _ (by decide)]
    rfl
  have hsrc' : ((modChuck fun c => { c with load := none }).run ((setF F.IMG_DONE l.bytes.length).run ((setResult code seg).run x))).fld
      F.IMG_STATUS_SRC = s.fld F.IMG_STATUS_SRC := by
    rw [Prog.fld_modChuck, Prog.fld_setF_other F.IMG_DONE F.IMG_STATUS_SRC _ _ (by decide) (by decide), setResult, Prog.run_all_cons,
      Prog.run_all_cons, Prog.run_all_nil, Prog.fld_setF_other F.IMG_RESULT_SEG F.IMG_STATUS_SRC _ _ (by decide) (by decide),
      Prog.fld_setF_other F.IMG_RESULT_CODE F.IMG_STATUS_SRC _ _ (by decide) (by decide), hsrc]
  have hy : ((modChuck fun c => { c with load := none }).run ((setF F.IMG_DONE l.bytes.length).run ((setResult code seg).run x))).dev =
      { x.dev with chuck := { x.dev.chuck with load := none } } := rfl
  have hyh : ((modChuck fun c => { c with load := none }).run ((setF F.IMG_DONE l.bytes.length).run ((setResult code seg).run x))).host =
      x.host := rfl
  generalize (modChuck _).run ((setF F.IMG_DONE l.bytes.length).run _) = y at *
  have hlog := logC_run_onlyLogs 0x9001 2 (loadUnit l.kind l.part) [code, seg, l.src] none y
  have hlt := logC_count_lt 0x9001 2 (loadUnit l.kind l.part) [code, seg, l.src] none y
  generalize (logC 0x9001 2 (loadUnit l.kind l.part) [code, seg, l.src]).run y = z at *
  rw [hy] at hlt
  refine ⟨?_, Prog.fld_setF_same F.IMG_STATUS_CHUCK 0 z (by decide), ?_, ?_, ?_, fun a => ?_, ?_⟩
  · rw [Prog.run_setF_dev, hlog.dev, hy]
  · rw [Prog.fld_setF_other F.IMG_STATUS_CHUCK F.IMG_STATUS_SRC _ _ (by decide) (by decide), hlog.fld (by decide), hsrc']
  · rw [Prog.fld_setF_other F.IMG_STATUS_CHUCK F.IMG_RESULT_CODE _ _ (by decide) (by decide), hlog.fld (by decide), hcode]
  · rw [Prog.run_setF_dev]
    exact (lt_of_le_of_lt hle hlt).ne'
  · rw [Prog.run_setF_host, hlog.host, hyh, hhost]
  · rw [Prog.run_setF_dev, hlog.dev, hy, hdev]

theorem endLoad_run {s : State} {l : Load} {sel : Load → Bool} (hl : s.dev.chuck.load = some l) (hs : sel l = true) (hb : l.boot = false)
    (hc : s.fld F.IMG_STATUS_CHUCK ≠ 3) (code : Nat) : LoadEnded s ((endLoad sel code).run s) code := by
  rw [endLoad, Prog.run_look, Prog.run_when, if_pos (by simp [hl, hs, hc])]
  exact rejectLoad_run hl hb code 0

theorem imageSourceTimeout_completes {s : State} {l : Load} (hr : s.ready = true) (hl : s.dev.chuck.load = some l) (hb : l.boot = false)
    (hc : s.fld F.IMG_STATUS_CHUCK ≠ 3) (h4 : l.src = 4) (ht : s.reached (l.lastData + 500000000) = true) :
    Completes .imageSourceTimeout s fun u => u.dev.chuck.load = none ∧ u.fld F.IMG_STATUS_CHUCK = 0 ∧ u.fld F.IMG_RESULT_CODE = 9 ∧
      u.dev.log.count ≠ s.dev.log.count ∧ SameHost s u := by
  refine completes_done rfl ?_
  rw [Prog.run_when, if_pos hr]
  have h := endLoad_run (sel := fun l => l.src == srcSpi && s.reached (l.lastData + 500000000)) hl (by simp [h4, ht, srcSpi]) hb hc rSource
  exact ⟨h.load, h.chuck, h.result, h.count, h.host⟩

/-! ## Requests -/

/-- IMG_CTL is written, and its one-shot bits read 0. -/
def setImgCtl (v : Nat) : Prog := all [writeFields F.IMG_CTL_LOAD.off v, setF F.IMG_CTL_LOAD 0, setF F.IMG_CTL_ABORT 0]

theorem setImgCtl_writes (v : Nat) : (setImgCtl v).Only (Act.writes F.IMG_CTL_LOAD.off) := ⟨fun _ => rfl, fun _ => rfl, fun _ => rfl, trivial⟩

theorem writeImgCtl_run (v : Nat) (s : State) : (writeImgCtl v).run s =
    (when (bitsOf v 0 1 == 1) (look fun s => requestLoad (bitsOf v 2 2) (bitsOf v 4 3) srcHost (s.fld F.IMG_LEN))).run
      ((when (bitsOf v 1 1 == 1) (endLoad (fun _ => true) rAborted)).run ((setImgCtl v).run s)) := by
  rw [writeImgCtl, setImgCtl]
  iterate 8 rw [Prog.run_all_cons]
  rw [Prog.run_all_nil, Prog.run_all_nil]

/-- The device and every register but IMG_CTL are as before. -/
structure CtlOnly (s x : State) : Prop where
  dev : x.dev = s.dev
  words : ∀ o, o ≠ 0xC0004 → x.word o = s.word o
  bytes : SameBytes s x
  host : SameHost s x

theorem setImgCtl_run (v : Nat) (s : State) : CtlOnly s ((setImgCtl v).run s) :=
  have ⟨hd, hb, hh, hr⟩ := (setImgCtl_writes v).onlyReg s
  ⟨hd, fun o ho => hr o (by simpa using ho), hb, hh⟩

theorem CtlOnly.fld {s x : State} (h : CtlOnly s x) {f : Fld} (hf : f.off ≠ 0xC0004) : x.fld f = s.fld f := State.fld_of_word (h.words _ hf)

theorem CtlOnly.mayLoad {s x : State} (h : CtlOnly s x) {kind part src : Nat} (hp : part < 8) :
    x.mayLoad kind part src = s.mayLoad kind part src := by
  have hon : ∀ q < 8, x.partOn q = s.partOn q := fun q hq =>
    congrArg (· != 0) (h.fld (f := F.LEDG_UNIT_STATE (32 + q)) (by show 0x40100 + 4 * (32 + q) ≠ 0xC0004; omega))
  have hm : x.enabledMask = s.enabledMask :=
    congrArg maskOf (List.filter_congr fun q hq => hon q (List.mem_range.mp hq))
  have hpart : x.part part = s.part part := by rw [State.part, State.part, h.dev]
  have hload : x.loadState kind part = s.loadState kind part := by
    unfold State.loadState
    rw [hm, hon part hp, hpart]
  unfold State.mayLoad
  rw [hload, h.dev, h.fld (f := F.IMG_STATUS_CHUCK) (by decide)]

/-- What the device's state is once a load has begun (R325). -/
structure LoadBegun (s u : State) (kind part src len : Nat) : Prop where
  chuck : u.fld F.IMG_STATUS_CHUCK = 1
  source : u.fld F.IMG_STATUS_SRC = src
  done : u.fld F.IMG_DONE = 0
  load : u.dev.chuck.load = some { kind, part, src, boot := s.dev.chuck.booting, len, lastData := s.now }
  staged : kind = 1 → (u.part part).staged = none ∧ u.fld (F.IMG_SBUILD part) = 0
  bytes : SameBytes s u
  host : SameHost s u

/-- The staged plane that a STAGE load discards. -/
def dropStaged (kind part : Nat) : Prog :=
  when (kind == 1) (all [modPart part fun x => { x with staged := none }, setF (F.IMG_SBUILD part) 0])

theorem beginLoad_run {part src : Nat} (hp : part < 8) (hs : src < 8) (kind len : Nat) (s : State) :
    LoadBegun s ((beginLoad kind part src len).run s) kind part src len := by
  have hsplit : (beginLoad kind part src len).run s = (setF F.IMG_DONE 0).run ((setF F.IMG_STATUS_SRC src).run
      ((setF F.IMG_STATUS_CHUCK 1).run ((modChuck fun c => { c with load := some { kind, part, src, boot := c.booting, len, lastData := s.now } }).run
        ((dropStaged kind part).run s)))) := by
    rw [beginLoad, Prog.run_look]
    iterate 5 rw [Prog.run_all_cons]
    rw [Prog.run_all_nil]
    rfl
  have hx : ((dropStaged kind part).run s).dev.chuck = s.dev.chuck ∧ ((dropStaged kind part).run s).mem = s.mem ∧
      ((dropStaged kind part).run s).host = s.host ∧
      (kind = 1 → (((dropStaged kind part).run s).part part).staged = none ∧ ((dropStaged kind part).run s).fld (F.IMG_SBUILD part) = 0) := by
    rw [dropStaged]
    by_cases hk : kind = 1
    · subst hk
      refine ⟨rfl, rfl, rfl, fun _ => ⟨?_, ?_⟩⟩
      · exact congrArg Part.staged (Sparse.get_put_same _ _ _ _)
      · exact Prog.fld_setF_same (F.IMG_SBUILD part) 0 _ (by decide : (0 : ℕ) + 32 ≤ 32)
    · rw [Prog.run_when, if_neg (by simpa using hk)]
      exact ⟨rfl, rfl, rfl, fun h => absurd h hk⟩
  rw [hsplit]
  generalize (dropStaged kind part).run s = x at *
  obtain ⟨hc, hm, hh, hst⟩ := hx
  have hsb : ∀ f v y, f.off = 0xC0000 ∨ f.off = 0xC0018 → ((setF f v).run y).fld (F.IMG_SBUILD part) = y.fld (F.IMG_SBUILD part) := by
    intro f v y hf
    refine Prog.fld_setF_other f (F.IMG_SBUILD part) v y (by decide : (0 : ℕ) + 32 ≤ 32) (.inl ?_)
    show 0xC0080 + 4 * part ≠ f.off
    omega
  refine ⟨?_, ?_, Prog.fld_setF_same F.IMG_DONE 0 _ (by decide), ?_, fun hk => ⟨(hst hk).1, ?_⟩, fun a => congrArg (·.read a) hm,
    fun a => congrArg (·.read a) hh⟩
  · rw [Prog.fld_setF_other F.IMG_DONE F.IMG_STATUS_CHUCK _ _ (by decide) (by decide),
      Prog.fld_setF_other F.IMG_STATUS_SRC F.IMG_STATUS_CHUCK _ _ (by decide) (by decide), Prog.fld_setF_same _ _ _ (by decide)]
    rfl
  · rw [Prog.fld_setF_other F.IMG_DONE F.IMG_STATUS_SRC _ _ (by decide) (by decide), Prog.fld_setF_same _ _ _ (by decide)]
    exact Nat.mod_eq_of_lt hs
  · rw [Prog.run_setF_dev, Prog.run_setF_dev, Prog.run_setF_dev, Prog.dev_modChuck]
    dsimp only
    rw [hc]
  · rw [hsb _ _ _ (.inr rfl), hsb _ _ _ (.inl rfl), hsb _ _ _ (.inl rfl), Prog.fld_modChuck, (hst hk).2]

/-- The three requests of a load are writes of IMG_CTL with LOAD set and a kind. -/
theorem exec_imgLoad {p : Path} {v : Word} {k : Nat} {c : Instr}
    (hc : (k, c) ∈ [(0, Instr.imgLoadFull p v), (1, .imgLoadStage p v), (2, .imgLoadActive p v)]) (s : State) :
    k < 3 ∧ exec c s = done (imgCtlWrite p (setBits (setBits v.toNat 0 1 1) 2 2 k)) s := by
  simp only [List.mem_cons, List.not_mem_nil, or_false, Prod.mk.injEq] at hc
  rcases hc with ⟨rfl, rfl⟩ | ⟨rfl, rfl⟩ | ⟨rfl, rfl⟩
  · exact ⟨by decide, rfl⟩
  · exact ⟨by decide, rfl⟩
  · exact ⟨by decide, rfl⟩

/-- A request for a load that neither aborts another nor has one to abort. -/
theorem imgLoad_run {s : State} {p : Path} {v : Word} {k : Nat} {c : Instr} (hr : s.reach p F.IMG_CTL_LOAD.off = true)
    (hc : (k, c) ∈ [(0, Instr.imgLoadFull p v), (1, .imgLoadStage p v), (2, .imgLoadActive p v)])
    (ha : v.getLsbD 1 = false ∨ s.dev.chuck.load = none) :
    ∃ x, CtlOnly s x ∧ exec c s = .next ((requestLoad k (bitsOf v.toNat 4 3) 2 (s.fld F.IMG_LEN)).run x) := by
  obtain ⟨hk, he⟩ := exec_imgLoad hc s
  generalize hw : setBits (setBits v.toNat 0 1 1) 2 2 k = w at he
  have h0 : bitsOf w 0 1 = 1 := by
    rw [← hw, bitsOf_setBits_other _ _ _ _ _ _ (by decide), bitsOf_setBits_same]
    rfl
  have h1 : bitsOf w 1 1 = bitsOf v.toNat 1 1 := by
    rw [← hw, bitsOf_setBits_other _ _ _ _ _ _ (by decide), bitsOf_setBits_other _ _ _ _ _ _ (by decide)]
  have h2 : bitsOf w 2 2 = k := by
    rw [← hw, bitsOf_setBits_same]
    exact Nat.mod_eq_of_lt (by omega)
  have h4 : bitsOf w 4 3 = bitsOf v.toNat 4 3 := by
    rw [← hw, bitsOf_setBits_other _ _ _ _ _ _ (by decide), bitsOf_setBits_other _ _ _ _ _ _ (by decide)]
  have hx := setImgCtl_run w s
  refine ⟨_, hx, ?_⟩
  have habort : (when (bitsOf w 1 1 == 1) (endLoad (fun _ => true) rAborted)).run ((setImgCtl w).run s) = (setImgCtl w).run s := by
    rw [Prog.run_when]
    rcases ha with ha | ha
    · rw [if_neg]
      rw [h1, bitsOf_one, show v.toNat.testBit 1 = v.getLsbD 1 from rfl, ha]
      decide
    · split
      · rw [endLoad, Prog.run_look, hx.dev, ha]
        rfl
      · rfl
  rw [he, done_eq, imgCtlWrite, writing_run_of_reach hr (by decide), writeImgCtl_run, habort, h0, h2, h4, Prog.run_when, if_pos (beq_self_eq_true _),
    Prog.run_look, hx.fld (f := F.IMG_LEN) (by decide)]
  rfl

theorem imgLoad_begins {s : State} {p : Path} {v : Word} {k : Nat} {c : Instr} (hr : s.reach p F.IMG_CTL_LOAD.off = true)
    (hc : (k, c) ∈ [(0, Instr.imgLoadFull p v), (1, .imgLoadStage p v), (2, .imgLoadActive p v)])
    (hm : s.mayLoad k (bitsOf v.toNat 4 3) 2 = true) :
    Completes c s fun u => LoadBegun s u k (bitsOf v.toNat 4 3) 2 (s.fld F.IMG_LEN) := by
  have hnone : s.dev.chuck.load = none := by
    simp only [State.mayLoad, Bool.and_eq_true, Option.isNone_iff_eq_none] at hm
    exact hm.1.1.2
  obtain ⟨x, hx, he⟩ := imgLoad_run hr hc (.inr hnone)
  have hp := bitsOf_lt v.toNat 4 3
  refine ⟨_, he, ?_⟩
  rw [requestLoad, Prog.run_look, if_pos ((hx.mayLoad hp).trans hm)]
  have h := beginLoad_run (src := 2) hp (by decide) k (s.fld F.IMG_LEN) x
  refine ⟨h.chuck, h.source, h.done, ?_, h.staged, fun a => (h.bytes a).trans (hx.bytes a), fun a => (h.host a).trans (hx.host a)⟩
  rw [h.load, State.now, hx.dev]
  rfl

theorem refuseLoad_run (kind part src : Nat) (s : State) : ((refuseLoad kind part src).run s).fld F.IMG_RESULT_CODE = 8 ∧
    ((refuseLoad kind part src).run s).dev.chuck = s.dev.chuck ∧ ((refuseLoad kind part src).run s).dev.parts = s.dev.parts ∧
    ((refuseLoad kind part src).run s).dev.log.count ≠ s.dev.log.count ∧ SameBytes s ((refuseLoad kind part src).run s) ∧
    SameHost s ((refuseLoad kind part src).run s) := by
  rw [refuseLoad, Prog.run_all_cons, Prog.run_all_cons, Prog.run_all_nil]
  have hcode : ((setResult rState 0).run s).fld F.IMG_RESULT_CODE = 8 := by
    rw [setResult, Prog.run_all_cons, Prog.run_all_cons, Prog.run_all_nil,
      Prog.fld_setF_other F.IMG_RESULT_SEG F.IMG_RESULT_CODE _ _ (by decide) (by decide), Prog.fld_setF_same _ _ _ (by decide)]
    rfl
  have hdev : ((setResult rState 0).run s).dev = s.dev := rfl
  have hmem : ((setResult rState 0).run s).mem = s.mem := rfl
  have hhost : ((setResult rState 0).run s).host = s.host := rfl
  generalize (setResult rState 0).run s = x at *
  have hlog := logC_run_onlyLogs 0x9001 2 (loadUnit kind part) [rState, 0, src] none x
  have hlt := logC_count_lt 0x9001 2 (loadUnit kind part) [rState, 0, src] none x
  generalize (logC 0x9001 2 (loadUnit kind part) [rState, 0, src]).run x = u at *
  rw [hdev] at hlt
  exact ⟨(hlog.fld (by decide)).trans hcode, by rw [hlog.dev, hdev], by rw [hlog.dev, hdev], hlt.ne', fun a => by rw [hlog.mem, hmem],
    fun a => by rw [hlog.host, hhost]⟩

theorem imgLoad_refused {s : State} {p : Path} {v : Word} {k : Nat} {c : Instr} (hr : s.reach p F.IMG_CTL_LOAD.off = true)
    (hv : v.getLsbD 1 = false) (hc : (k, c) ∈ [(0, Instr.imgLoadFull p v), (1, .imgLoadStage p v), (2, .imgLoadActive p v)])
    (hm : s.mayLoad k (bitsOf v.toNat 4 3) 2 = false) :
    Completes c s fun u => u.fld F.IMG_RESULT_CODE = 8 ∧ u.dev.chuck = s.dev.chuck ∧ u.dev.parts = s.dev.parts ∧
      u.dev.log.count ≠ s.dev.log.count ∧ SameBytes s u ∧ SameHost s u := by
  obtain ⟨x, hx, he⟩ := imgLoad_run hr hc (.inl hv)
  refine ⟨_, he, ?_⟩
  rw [requestLoad, Prog.run_look, if_neg (by rw [hx.mayLoad (bitsOf_lt v.toNat 4 3), hm]; decide)]
  obtain ⟨hcode, hch, hparts, hcount, hb, hh⟩ := refuseLoad_run k (bitsOf v.toNat 4 3) 2 x
  rw [hx.dev] at hch hparts hcount
  exact ⟨hcode, hch, hparts, hcount, fun a => (hb a).trans (hx.bytes a), fun a => (hh a).trans (hx.host a)⟩

theorem loadAbort_completes {s : State} {p : Path} {v : Word} {l : Load} (hr : s.reach p F.IMG_CTL_LOAD.off = true)
    (hv : v.getLsbD 0 = false) (hl : s.dev.chuck.load = some l) (hb : l.boot = false) (hc : s.fld F.IMG_STATUS_CHUCK ≠ 3) :
    Completes (.loadAbort p v) s fun u => LoadEnded s u 10 := by
  refine completes_done rfl ?_
  generalize hw : setBits v.toNat 1 1 1 = w
  have h1 : bitsOf w 1 1 = 1 := by
    rw [← hw, bitsOf_setBits_same]
    rfl
  have h0 : bitsOf w 0 1 = 0 := by
    rw [← hw, bitsOf_setBits_other _ _ _ _ _ _ (by decide), bitsOf_one, show v.toNat.testBit 0 = v.getLsbD 0 from rfl, hv]
    rfl
  have hx := setImgCtl_run w s
  rw [imgCtlWrite, writing_run_of_reach hr (by decide), writeImgCtl_run, h0, h1, Prog.run_when, if_neg (by decide), Prog.run_when,
    if_pos (beq_self_eq_true _)]
  generalize (setImgCtl w).run s = x at *
  have h := endLoad_run (s := x) (l := l) (sel := fun _ => true) (by rw [hx.dev, hl]) rfl hb
    (by rw [hx.fld (f := F.IMG_STATUS_CHUCK) (by decide)]; exact hc) rAborted
  exact ⟨h.load, h.chuck, h.src.trans (hx.fld (by decide)), h.result, hx.dev ▸ h.count, fun a => (h.host a).trans (hx.host a),
    h.parts.trans (congrArg Dev.parts hx.dev)⟩

/-! ## Complete images -/

/-- What an accepted image has noted and stored before its plane is put in place. -/
def stored (s : State) (l : Load) (pl : Plane) (sd : StoreData) : Prog :=
  all [loadStoreData s l.part pl sd, each (pl.tiles.filter fun r => (s.plane l.part).holdsTile r.tile) loadTile]

theorem stored_bound (s : State) (l : Load) (pl : Plane) (sd : StoreData) : (stored s l pl sd).Only (Act.obeys noteBound) :=
  ⟨loadStoreData_bound _ _ _ _, Prog.only_each.mpr fun _ _ => loadTile_bound _, trivial⟩

theorem stored_word (x : State) (l : Load) (pl : Plane) (sd : StoreData) (o : Nat) (s : State) :
    ((stored x l pl sd).run s).word o = s.word o := by
  refine Prog.Only.word ?_ s
  simp only [stored, loadStoreData, loadTile, zeroFill, storeBytes, Prog.only_each, Prog.only_all_cons, Prog.only_all_nil]
  exact ⟨⟨fun _ _ => ⟨trivial, trivial, trivial⟩, fun _ _ => ⟨trivial, trivial, trivial⟩, trivial⟩,
    fun _ _ _ _ => ⟨trivial, trivial, trivial⟩, trivial⟩

/-- What is said of an image that has passed every check. -/
def accepted (l : Load) (len : Nat) (ds : List Nat) : Prog :=
  all [noteOpen l, setResult 0 0, setF F.IMG_DONE len, logC 0x9002 0 (loadUnit l.kind l.part) ds]

theorem accepted_run (l : Load) (len : Nat) (ds : List Nat) (s : State) :
    ((accepted l len ds).run s).fld F.IMG_RESULT_CODE = 0 ∧ s.dev.log.count < ((accepted l len ds).run s).dev.log.count ∧
    ((accepted l len ds).run s).dev.parts = s.dev.parts ∧ ((accepted l len ds).run s).host = s.host := by
  rw [accepted]
  iterate 4 rw [Prog.run_all_cons]
  rw [Prog.run_all_nil]
  obtain ⟨hdev, hle⟩ := (noteOpen_bound l).devs noteBound_steps s
  have hhost := (noteOpen_bound l).hosts id s
  generalize (noteOpen l).run s = x at *
  have hcode : ((setF F.IMG_DONE len).run ((setResult 0 0).run x)).fld F.IMG_RESULT_CODE = 0 := by
    rw [Prog.fld_setF_other F.IMG_DONE F.IMG_RESULT_CODE _ _ (by decide) (by decide), setResult, Prog.run_all_cons,
      Prog.run_all_cons, Prog.run_all_nil, Prog.fld_setF_other F.IMG_RESULT_SEG F.IMG_RESULT_CODE _ _ (by decide) (by decide),
      Prog.fld_setF_same _ _ _ (by decide)]
    rfl
  have hy : ((setF F.IMG_DONE len).run ((setResult 0 0).run x)).dev = x.dev := rfl
  have hyh : ((setF F.IMG_DONE len).run ((setResult 0 0).run x)).host = x.host := rfl
  generalize (setF F.IMG_DONE len).run _ = y at *
  have hlog := logC_run_onlyLogs 0x9002 0 (loadUnit l.kind l.part) ds none y
  have hlt := logC_count_lt 0x9002 0 (loadUnit l.kind l.part) ds none y
  rw [hy] at hlt
  exact ⟨(hlog.fld (by decide)).trans hcode, lt_of_le_of_lt hle hlt, by rw [hlog.dev, hy, hdev], by rw [hlog.host, hyh, hhost]⟩

/-- The staged plane is the partition's, and the Chuck is idle. -/
def placeStaged (p : Nat) (pl : Plane) : Prog :=
  all [all [modPart p fun x => { x with staged := some pl }, setF (F.IMG_SBUILD p) pl.build], chuckIdle]

theorem placeStaged_run {p : Nat} (hp : p < 8) (pl : Plane) (s : State) :
    ((placeStaged p pl).run s).dev.chuck.load = none ∧ ((placeStaged p pl).run s).fld F.IMG_STATUS_CHUCK = 0 ∧
    (((placeStaged p pl).run s).part p).staged = some pl ∧ (((placeStaged p pl).run s).part p).active = (s.part p).active ∧
    ((placeStaged p pl).run s).fld (F.IMG_SBUILD p) = pl.build % 2 ^ 32 ∧
    ((placeStaged p pl).run s).fld F.IMG_RESULT_CODE = s.fld F.IMG_RESULT_CODE ∧
    ((placeStaged p pl).run s).dev.log = s.dev.log ∧ ((placeStaged p pl).run s).host = s.host := by
  rw [placeStaged, chuckIdle]
  iterate 6 rw [Prog.run_all_cons]
  rw [Prog.run_all_nil, Prog.run_all_nil, Prog.run_all_nil]
  have hpart : ∀ x, ((setF F.IMG_STATUS_CHUCK 0).run ((modChuck fun c => { c with load := none }).run ((setF (F.IMG_SBUILD p) pl.build).run
      ((modPart p fun x => { x with staged := some pl }).run x)))).part p = { x.part p with staged := some pl } :=
    fun x => Sparse.get_put_same Part.blank x.dev.parts p _
  refine ⟨rfl, Prog.fld_setF_same F.IMG_STATUS_CHUCK 0 _ (by decide), by rw [hpart], by rw [hpart], ?_, ?_, rfl, rfl⟩
  · rw [Prog.fld_setF_other F.IMG_STATUS_CHUCK (F.IMG_SBUILD p) _ _ (by decide : (0 : ℕ) + 32 ≤ 32)
      (.inl (by show 0xC0080 + 4 * p ≠ 0xC0000; omega)), Prog.fld_modChuck]
    exact Prog.fld_setF_same (F.IMG_SBUILD p) _ _ (by decide : (0 : ℕ) + 32 ≤ 32)
  · rw [Prog.fld_setF_other F.IMG_STATUS_CHUCK F.IMG_RESULT_CODE _ _ (by decide) (by decide), Prog.fld_modChuck,
      Prog.fld_setF_other (F.IMG_SBUILD p) F.IMG_RESULT_CODE _ _ (by decide) (.inl (by show 0xC0014 ≠ 0xC0080 + 4 * p; omega)), Prog.fld_modPart]

/-- The partition's staged plane after a STAGE image that was accepted. -/
structure Staged (s u : State) (p : Nat) (pl : Plane) : Prop where
  staged : (u.part p).staged = some pl
  active : (u.part p).active = (s.part p).active
  result : u.fld F.IMG_RESULT_CODE = 0
  build : u.fld (F.IMG_SBUILD p) = pl.build % 2 ^ 32

/-- The load is over, and the log says so. -/
structure LoadOver (s u : State) : Prop where
  load : u.dev.chuck.load = none
  chuck : u.fld F.IMG_STATUS_CHUCK = 0
  count : u.dev.log.count ≠ s.dev.log.count
  host : SameHost s u

theorem LoadEnded.over {s u : State} {code : Nat} (h : LoadEnded s u code) : LoadOver s u := ⟨h.load, h.chuck, h.count, h.host⟩

/-- A STAGE image is accepted (R328). -/
theorem acceptImage_stage {l : Load} (hk : l.kind = 1) (hp : l.part < 8) (h : Hdr) (b : Bodies) (s : State) :
    LoadOver s ((acceptImage l h b).run s) ∧ Staged s ((acceptImage l h b).run s) l.part (planeOf h b l.part) := by
  obtain ⟨hcode, hcount, hparts, hhost⟩ := accepted_run l h.length [l.kind, l.part, h.build, h.seq] s
  have hsplit : (acceptImage l h b).run s = (placeStaged l.part (planeOf h b l.part)).run
      ((stored ((accepted l h.length [l.kind, l.part, h.build, h.seq]).run s) l (planeOf h b l.part) (b.storeData l.part)).run
        ((accepted l h.length [l.kind, l.part, h.build, h.seq]).run s)) := by
    rw [acceptImage, Prog.run_look]
    dsimp only
    rw [if_neg (by omega), if_pos hk, accepted, stored, placeStaged, acceptStage]
    iterate 15 rw [Prog.run_all_cons]
    rw [Prog.run_look]
    iterate 6 rw [Prog.run_all_cons]
    iterate 7 rw [Prog.run_all_nil]
  rw [hsplit]
  generalize (accepted l h.length [l.kind, l.part, h.build, h.seq]).run s = x at *
  obtain ⟨hdev, hle⟩ := (stored_bound x l (planeOf h b l.part) (b.storeData l.part)).devs noteBound_steps x
  have hh := (stored_bound x l (planeOf h b l.part) (b.storeData l.part)).hosts id x
  have hw := State.fld_of_word (f := F.IMG_RESULT_CODE) (stored_word x l (planeOf h b l.part) (b.storeData l.part) 0xC0014 x)
  generalize (stored x l (planeOf h b l.part) (b.storeData l.part)).run x = y at *
  obtain ⟨hload, hst, hstaged, hactive, hbuild, hres, hlog, hho⟩ := placeStaged_run hp (planeOf h b l.part) y
  refine ⟨⟨hload, hst, ?_, fun a => by rw [hho, hh, hhost]⟩, ⟨hstaged, ?_, by rw [hres, hw, hcode], hbuild⟩⟩
  · rw [hlog]
    exact (lt_of_lt_of_le hcount hle).ne'
  · rw [hactive, State.part, State.part, hdev, hparts]

/-- The pass over a complete STAGE image (R317). -/
theorem judgeImage_stage {s : State} {l : Load} (hl : s.dev.chuck.load = some l) (hb : l.boot = false) (hk : l.kind = 1) (hp : l.part < 8) :
    LoadOver s (judgeImage.run s) ∧
    match authenticate s.dev.chuck (s.loadState 1 l.part) true l.part l.bytes with
    | .ok (h, b) => s.imageOk l h b = true → Staged s (judgeImage.run s) l.part (planeOf h b l.part)
    | .error (code, _) => (judgeImage.run s).fld F.IMG_RESULT_CODE = code % 256 ∧ (judgeImage.run s).dev.parts = s.dev.parts := by
  have hrun : judgeImage.run s = (match authenticate s.dev.chuck (s.loadState 1 l.part) true l.part l.bytes with
      | .error e => rejectLoad e.1 e.2
      | .ok r => if s.imageOk l r.1 r.2 then acceptImage l r.1 r.2 else rejectLoad rCheck 0).run s := by
    rw [judgeImage, Prog.run_look, hl]
    dsimp only
    rw [hk]
    rfl
  rw [hrun]
  rcases authenticate s.dev.chuck (s.loadState 1 l.part) true l.part l.bytes with ⟨code, seg⟩ | ⟨h, b⟩
  · have hr := rejectLoad_run hl hb code seg
    exact ⟨hr.over, hr.result, hr.parts⟩
  · dsimp only
    split
    · next hok =>
      have ha := acceptImage_stage hk hp h b s
      exact ⟨ha.1, fun _ => ha.2⟩
    · next hno => exact ⟨(rejectLoad_run hl hb rCheck 0).over, fun hok => absurd hok hno⟩

theorem imageComplete_stage {s : State} {l : Load} {data : List Byte} (hr : s.ready = true) (hc : s.fld F.IMG_STATUS_CHUCK = 1)
    (hl : s.dev.chuck.load = some l) (hs : l.src ≠ 2) (hb : l.boot = false) (hk : l.kind = 1) (hp : l.part < 8) (hd : l.complete = true) :
    Completes (.imageComplete data) s fun u => LoadOver s u ∧
      match authenticate s.dev.chuck (s.loadState 1 l.part) true l.part l.bytes with
      | .ok (h, b) => s.imageOk l h b = true → Staged s u l.part (planeOf h b l.part)
      | .error (code, _) => u.fld F.IMG_RESULT_CODE = code % 256 ∧ u.dev.parts = s.dev.parts := by
  refine completes_done rfl ?_
  rw [Prog.run_when, if_pos (by simp [hr, hc]), imageComplete, Prog.run_look, hl]
  dsimp only
  rw [if_neg (by exact hs), Prog.run_when, if_pos hd]
  exact judgeImage_stage hl hb hk hp

/-! ## The obligation -/

/-- Settles O41: one lemma for each way a load begins or ends. -/
theorem imageLoads : Obligations.ImageLoads := by
  refine ⟨fun s p v k c hr hc => ?_,
    fun s p v k c => imgLoad_refused,
    fun s p v l hr hv hl hb hc => (loadAbort_completes hr hv hl hb hc).mono fun u h => ⟨h.load, h.chuck, h.src, h.result, h.count, h.host⟩,
    fun s l => imageSourceTimeout_completes,
    fun s l data hr hc hl hs hb hk hp hd => (imageComplete_stage hr hc hl hs hb hk hp hd).mono fun u h => ?_⟩
  · intro part hm
    exact (imgLoad_begins hr hc hm).mono fun u h => ⟨h.chuck, h.source, h.done, h.load, h.staged, h.bytes, h.host⟩
  obtain ⟨hover, hjudged⟩ := h
  refine ⟨hover.load, hover.chuck, hover.count, hover.host, ?_⟩
  generalize authenticate s.dev.chuck (s.loadState 1 l.part) true l.part l.bytes = r at hjudged ⊢
  rcases r with e | ⟨h, b⟩
  · exact hjudged
  · intro hok
    have hst := hjudged hok
    exact ⟨hst.staged, hst.active, hst.result, hst.build⟩

end Sys2Proof.Machine
end

section
/-!
Far memory: training, temperature, refresh and windows (R228 to R232, R295): O39.
-/
namespace Sys2Proof.Machine

/-! ## Lines of the ledger -/

/-- A unit's line has changed, and nothing else. -/
structure OnlyLine (s v : State) (u : Nat) : Prop where
  dev : v.dev = s.dev
  words : ∀ o, o ≠ 0x40100 + 4 * u → v.word o = s.word o
  mem : v.mem = s.mem
  host : v.host = s.host

theorem OnlyLine.fld {s v : State} {u : Nat} (h : OnlyLine s v u) {f : Fld} (hf : f.off ≠ 0x40100 + 4 * u) : v.fld f = s.fld f :=
  State.fld_of_word (h.words _ hf)

theorem onlyLine_of_obeys {p : Prog} {u : Nat} (h : p.Only (Act.writes (0x40100 + 4 * u))) (s : State) : OnlyLine s (p.run s) u where
  dev := (h.onlyReg s).1
  words o ho := (h.onlyReg s).2.2.2 o (by simpa using ho)
  mem := (h.mono fun a ha => by cases a <;> first | exact ha.elim | trivial : p.Only Act.sparesMem).mem s
  host := (h.mono fun a ha => by cases a <;> first | exact ha.elim | trivial : p.Only Act.sparesHost).host s

theorem declareUnit_line (u st : Nat) (s : State) : OnlyLine s ((declareUnit u st).run s) u :=
  onlyLine_of_obeys (Prog.only_declareUnit fun _ => rfl) s

theorem fenceUnit_line (u : Nat) (s : State) : OnlyLine s ((fenceUnit u).run s) u :=
  onlyLine_of_obeys (p := fenceUnit u) (fun _ => Prog.only_when.mpr fun _ => ⟨Prog.only_setB fun _ => rfl, Prog.only_bumpEpoch fun _ => rfl, trivial⟩) s

theorem liftFence_line (u : Nat) (s : State) : OnlyLine s ((liftFence u).run s) u :=
  onlyLine_of_obeys (p := liftFence u) (fun _ => Prog.only_when.mpr fun _ => ⟨Prog.only_setB fun _ => rfl, Prog.only_bumpEpoch fun _ => rfl, trivial⟩) s

/-- Setting or lifting a fence with the epoch beside it. -/
theorem setFenced_run (u : Nat) (b : Bool) (s : State) :
    ((bumpEpoch u).run ((setB (F.LEDG_UNIT_FENCED u) b).run s)).fenced u = b ∧
    ((bumpEpoch u).run ((setB (F.LEDG_UNIT_FENCED u) b).run s)).unitState u = s.unitState u := by
  refine ⟨?_, ?_⟩
  · refine Eq.trans (congrArg (· == 1) ?_) (Prog.bit_setB_same (f := F.LEDG_UNIT_FENCED u) rfl (by decide : (6 : ℕ) + 1 ≤ 32) b s)
    exact Prog.fld_setF_other (F.LEDG_UNIT_EPOCH u) (F.LEDG_UNIT_FENCED u) _ _ (by decide : (6 : ℕ) + 1 ≤ 32)
      (.inr (.inl (by decide : (6 : ℕ) + 1 ≤ 16)))
  · refine Eq.trans (Prog.fld_setF_other (F.LEDG_UNIT_EPOCH u) (F.LEDG_UNIT_STATE u) _ _ (by decide : (0 : ℕ) + 4 ≤ 32)
      (.inr (.inl (by decide : (0 : ℕ) + 4 ≤ 16)))) ?_
    exact Prog.fld_setF_other (F.LEDG_UNIT_FENCED u) (F.LEDG_UNIT_STATE u) _ _ (by decide : (0 : ℕ) + 4 ≤ 32)
      (.inr (.inl (by decide : (0 : ℕ) + 4 ≤ 6)))

theorem fenceUnit_run (u : Nat) (s : State) :
    ((fenceUnit u).run s).fenced u = true ∧ ((fenceUnit u).run s).unitState u = s.unitState u := by
  rw [fenceUnit, Prog.run_look, Prog.run_when]
  cases hf : s.fenced u
  · exact setFenced_run u true s
  · exact ⟨hf, rfl⟩

theorem liftFence_run (u : Nat) (s : State) :
    ((liftFence u).run s).fenced u = false ∧ ((liftFence u).run s).unitState u = s.unitState u := by
  rw [liftFence, Prog.run_look, Prog.run_when]
  cases hf : s.fenced u
  · exact ⟨hf, rfl⟩
  · exact setFenced_run u false s

theorem declareUnit_fenced (u st : Nat) (s : State) : ((declareUnit u st).run s).fenced u = s.fenced u := by
  rw [declareUnit, Prog.run_look, Prog.run_when]
  split
  · refine congrArg (· == 1) (Eq.trans (Prog.fld_setF_other (F.LEDG_UNIT_EPOCH u) (F.LEDG_UNIT_FENCED u) _ _ (by decide : (6 : ℕ) + 1 ≤ 32)
      (.inr (.inl (by decide : (6 : ℕ) + 1 ≤ 16)))) ?_)
    exact Prog.fld_setF_other (F.LEDG_UNIT_STATE u) (F.LEDG_UNIT_FENCED u) _ _ (by decide : (6 : ℕ) + 1 ≤ 32)
      (.inr (.inr (by decide : (0 : ℕ) + 4 ≤ 6)))
  · rfl

/-! ## Limited catches -/

theorem State.fresh_of_dev {s x : State} (h : x.dev = s.dev) (key : Nat) (l : Limit) : x.fresh key l = s.fresh key l := by
  unfold State.fresh State.part State.since
  rw [h]

/-- A limited catch that is not held back is logged. -/
theorem logLim_count_lt {l : Limit} {id code sev unit : Nat} {ds : List Nat} {st : Option Nat} {s : State}
    (h : s.fresh (256 * code + id) l = true) : s.dev.log.count < ((logLim l id code sev unit ds st).run s).dev.log.count := by
  rw [logLim, Prog.run_look, Prog.run_when, if_pos h, Prog.run_all_cons, Prog.run_all_cons, Prog.run_all_nil]
  generalize hx : (modDev _).run s = x
  have hc : x.dev.log.count = s.dev.log.count := by rw [← hx]; rfl
  exact lt_of_eq_of_lt hc.symm (logC_count_lt code sev unit ds st x)

/-! ## Training starts -/

/-- What is changed before START acts: FAR_TRAIN_CTL alone. -/
def setTrainCtl (v : Nat) : Prog := all [writeFields F.FAR_TRAIN_CTL_START.off v, setF F.FAR_TRAIN_CTL_START 0]

/-- The device, the memories and every register but FAR_TRAIN_CTL are as before. -/
structure TrainCtlOnly (s x : State) : Prop where
  dev : x.dev = s.dev
  words : ∀ o, o ≠ 0x380008 → x.word o = s.word o
  mem : x.mem = s.mem
  host : x.host = s.host

theorem setTrainCtl_run (v : Nat) (s : State) : TrainCtlOnly s ((setTrainCtl v).run s) := by
  have h : (setTrainCtl v).Only (Act.writes 0x380008) := ⟨fun _ => rfl, fun _ => rfl, trivial⟩
  exact ⟨(h.onlyReg s).1, fun o ho => (h.onlyReg s).2.2.2 o (by simpa using ho), rfl, rfl⟩

theorem TrainCtlOnly.fld {s x : State} (h : TrainCtlOnly s x) {f : Fld} (hf : f.off ≠ 0x380008) : x.fld f = s.fld f :=
  State.fld_of_word (h.words _ hf)

theorem TrainCtlOnly.farRefusal {s x : State} (h : TrainCtlOnly s x) : x.farRefusal = s.farRefusal := by
  have huse : x.farInUse = s.farInUse := by
    rw [Bool.eq_iff_iff, State.farInUse, State.farInUse, List.any_eq_true, List.any_eq_true]
    refine exists_congr fun p => and_congr_right fun hp => ?_
    have hlt := List.mem_range.mp hp
    have hon : x.partOn p = s.partOn p :=
      congrArg (· != 0) (h.fld (f := F.LEDG_UNIT_STATE (32 + p)) (by show 0x40100 + 4 * (32 + p) ≠ 0x380008; omega))
    rw [hon, State.plane, State.plane, State.part, State.part, h.dev]
  unfold State.farRefusal State.bit
  rw [huse, show x.unitState 42 = s.unitState 42 from h.fld (by decide), h.fld (f := F.FAR_CFG_RATE) (by decide),
    h.fld (f := F.FAR_CFG_DENSITY) (by decide), h.fld (f := F.FAR_CFG_LECC) (by decide)]

theorem farTrainStart_run {s : State} {p : Path} {v : Word} (hr : s.reach p F.FAR_TRAIN_CTL_START.off = true) :
    ∃ x, TrainCtlOnly s x ∧ exec (.farTrainStart p v) s = .next (farStart.run x) := by
  generalize hw : setBits v.toNat 0 1 1 = w
  have h0 : bitsOf w 0 1 = 1 := by
    rw [← hw, bitsOf_setBits_same]
    rfl
  refine ⟨_, setTrainCtl_run w s, ?_⟩
  show done (writing p F.FAR_TRAIN_CTL_START.off (writeFarTrain (setBits v.toNat 0 1 1))) s = _
  rw [hw, done_eq, writing_run_of_reach hr (by decide), writeFarTrain, setTrainCtl, h0]
  iterate 5 rw [Prog.run_all_cons]
  rw [Prog.run_all_nil, Prog.run_all_nil, Prog.run_when, if_pos (beq_self_eq_true _)]

/-- The status of the run before is cleared. -/
def clearTrain : Prog :=
  all [setF F.FAR_TRAIN_STATUS_DONE 0, setF F.FAR_TRAIN_STATUS_FAIL 0, setF F.FAR_TRAIN_STATUS_REFUSED 0, modDev fun d => { d with farKeep := false }]

theorem farStart_run {s : State} (h : s.farRefusal = none) (hc : s.fld F.FAR_CFG_CHMASK ≠ 0) :
    farStart.run s = (farTrain (s.word F.FAR_CFG_RATE.off).toNat).run (clearTrain.run s) := by
  rw [farStart, Prog.run_look, h]
  dsimp only
  rw [if_neg hc, clearTrain]
  iterate 9 rw [Prog.run_all_cons]
  rw [Prog.run_all_nil, Prog.run_all_nil]

theorem clearTrain_run (s : State) : (clearTrain.run s).fld F.FAR_TRAIN_STATUS_DONE = 0 ∧
    (clearTrain.run s).fld F.FAR_TRAIN_STATUS_FAIL = 0 ∧ (clearTrain.run s).fld F.FAR_TRAIN_STATUS_REFUSED = 0 ∧
    (clearTrain.run s).dev = { s.dev with farKeep := false } ∧ (∀ o, o ≠ 0x38000C → (clearTrain.run s).word o = s.word o) ∧
    (clearTrain.run s).mem = s.mem ∧ (clearTrain.run s).host = s.host := by
  have hspare : ∀ o, o ≠ 0x38000C → clearTrain.Only (Act.sparesReg o) := fun o ho =>
    ⟨Prog.only_setF fun _ => Ne.symm ho, Prog.only_setF fun _ => Ne.symm ho, Prog.only_setF fun _ => Ne.symm ho, trivial, trivial⟩
  refine ⟨?_, ?_, ?_, rfl, fun o ho => (hspare o ho).word s, rfl, rfl⟩
  all_goals rw [clearTrain]
  all_goals iterate 4 rw [Prog.run_all_cons]
  all_goals rw [Prog.run_all_nil]
  · exact (Prog.fld_setF_other F.FAR_TRAIN_STATUS_REFUSED F.FAR_TRAIN_STATUS_DONE _ _ (by decide) (by decide)).trans
      ((Prog.fld_setF_other F.FAR_TRAIN_STATUS_FAIL F.FAR_TRAIN_STATUS_DONE _ _ (by decide) (by decide)).trans
        (Prog.fld_setF_same F.FAR_TRAIN_STATUS_DONE 0 s (by decide)))
  · exact (Prog.fld_setF_other F.FAR_TRAIN_STATUS_REFUSED F.FAR_TRAIN_STATUS_FAIL _ _ (by decide) (by decide)).trans
      (Prog.fld_setF_same F.FAR_TRAIN_STATUS_FAIL 0 _ (by decide))
  · exact Prog.fld_setF_same F.FAR_TRAIN_STATUS_REFUSED 0 _ (by decide)

/-- Training with a configuration: the unit is in training, step 0, with the codes that the configuration asks for. -/
structure Training (s u : State) (cfg : Nat) : Prop where
  state : u.unitState 42 = 2
  epoch : u.epoch 42 = (s.epoch 42 + 1) % 65536
  step : u.fld F.FAR_TRAIN_STATUS_STEP = 0
  iecc : u.fld F.FAR_STATUS_IECC = bitsOf cfg 7 1
  lecc : u.fld F.FAR_STATUS_LECC = bitsOf cfg 8 1
  status : ∀ f : Fld, f.off = 0x38000C → 4 ≤ f.lo → f.lo + f.w ≤ 32 → u.fld f = s.fld f
  keep : u.dev.farKeep = s.dev.farKeep
  mem : u.mem = s.mem
  host : u.host = s.host

theorem farTrain_run {s : State} (h : s.unitState 42 ≠ 2) (cfg : Nat) : Training s ((farTrain cfg).run s) cfg := by
  have hsplit : (farTrain cfg).run s = (setF F.FAR_STATUS_LECC (bitsOf cfg 8 1)).run ((setF F.FAR_STATUS_IECC (bitsOf cfg 7 1)).run
      ((modDev fun d => { d with farCfg := cfg, farSince := s.now }).run ((setF F.FAR_TRAIN_STATUS_STEP 0).run ((declareUnit 42 2).run s)))) := by
    rw [farTrain, Prog.run_look]
    iterate 5 rw [Prog.run_all_cons]
    rw [Prog.run_all_nil]
  rw [hsplit]
  obtain ⟨hst, hep⟩ := declareUnit_run_of_ne h (by decide : 2 < 16)
  have hline := declareUnit_line 42 2 s
  generalize (declareUnit 42 2).run s = x at *
  have hb : ∀ lo, bitsOf cfg lo 1 % 2 ^ 1 = bitsOf cfg lo 1 := fun lo => Nat.mod_eq_of_lt (bitsOf_lt cfg lo 1)
  have hword : ∀ o, o ≠ 0x380000 → o ≠ 0x38000C → (((setF F.FAR_STATUS_LECC (bitsOf cfg 8 1)).run ((setF F.FAR_STATUS_IECC (bitsOf cfg 7 1)).run
      ((modDev fun d => { d with farCfg := cfg, farSince := s.now }).run ((setF F.FAR_TRAIN_STATUS_STEP 0).run x))))).word o = x.word o := by
    intro o h1 h2
    have hone : ∀ f v y, f.off ≠ o → ((setF f v).run y).word o = y.word o := fun f v y hf =>
      (Prog.only_setF fun _ => hf : (setF f v).Only (Act.sparesReg o)).word y
    rw [hone _ _ _ (Ne.symm h1), hone _ _ _ (Ne.symm h1)]
    exact hone _ _ _ (Ne.symm h2)
  have h38 : ∀ f : Fld, f.off = 0x38000C → f.lo + f.w ≤ 32 → ((setF F.FAR_STATUS_LECC (bitsOf cfg 8 1)).run
      ((setF F.FAR_STATUS_IECC (bitsOf cfg 7 1)).run ((modDev fun d => { d with farCfg := cfg, farSince := s.now }).run
        ((setF F.FAR_TRAIN_STATUS_STEP 0).run x)))).fld f = ((setF F.FAR_TRAIN_STATUS_STEP 0).run x).fld f := fun f hf hw => by
    rw [Prog.fld_setF_other _ _ _ _ hw (.inl (by rw [hf]; decide)), Prog.fld_setF_other _ _ _ _ hw (.inl (by rw [hf]; decide))]
    rfl
  refine ⟨?_, ?_, ?_, ?_, ?_, fun f hf hlo hw => ?_, ?_, hline.mem, hline.host⟩
  · rw [← hst]
    exact State.fld_of_word (f := F.LEDG_UNIT_STATE 42) (hword _ (by decide) (by decide))
  · rw [← hep]
    exact State.fld_of_word (f := F.LEDG_UNIT_EPOCH 42) (hword _ (by decide) (by decide))
  · rw [h38 _ rfl (by decide)]
    exact Prog.fld_setF_same F.FAR_TRAIN_STATUS_STEP 0 x (by decide)
  · rw [Prog.fld_setF_other F.FAR_STATUS_LECC F.FAR_STATUS_IECC _ _ (by decide) (by decide), Prog.fld_setF_same F.FAR_STATUS_IECC _ _ (by decide)]
    exact hb 7
  · rw [Prog.fld_setF_same F.FAR_STATUS_LECC _ _ (by decide)]
    exact hb 8
  · rw [h38 f hf hw, Prog.fld_setF_other F.FAR_TRAIN_STATUS_STEP f _ _ hw (.inr (.inr (by exact hlo)))]
    exact hline.fld (by rw [hf]; decide)
  · show x.dev.farKeep = _
    rw [hline.dev]

theorem farRefusal_none {s : State} (h : s.farRefusal = none) : s.unitState 42 ≠ 2 := by
  intro he
  simp [State.farRefusal, he] at h

theorem farTrainStart_begins {s : State} {p : Path} {v : Word} (hr : s.reach p F.FAR_TRAIN_CTL_START.off = true) (hn : s.farRefusal = none)
    (hc : s.fld F.FAR_CFG_CHMASK ≠ 0) : Completes (.farTrainStart p v) s fun u =>
      u.unitState 42 = 2 ∧ u.epoch 42 = (s.epoch 42 + 1) % 65536 ∧
      u.fld F.FAR_TRAIN_STATUS_STEP = 0 ∧ u.fld F.FAR_TRAIN_STATUS_DONE = 0 ∧ u.fld F.FAR_TRAIN_STATUS_FAIL = 0 ∧
      u.fld F.FAR_TRAIN_STATUS_REFUSED = 0 ∧ u.fld F.FAR_STATUS_IECC = s.fld F.FAR_CFG_IECC ∧
      u.fld F.FAR_STATUS_LECC = s.fld F.FAR_CFG_LECC ∧ u.dev.farKeep = false ∧ SameBytes s u ∧ SameHost s u := by
  obtain ⟨x, hx, he⟩ := farTrainStart_run (v := v) hr
  refine ⟨_, he, ?_⟩
  rw [farStart_run (hx.farRefusal.trans hn) (by rw [hx.fld (by decide)]; exact hc), hx.words _ (by decide)]
  obtain ⟨hdone, hfail, href, hdev, hwords, hmem, hhost⟩ := clearTrain_run x
  generalize clearTrain.run x = y at *
  have hline : ∀ f : Fld, f.off = 0x401A8 → y.fld f = s.fld f := fun f hf =>
    (State.fld_of_word (hwords _ (by rw [hf]; decide))).trans (hx.fld (by rw [hf]; decide))
  have h := farTrain_run (s := y) (by rw [State.unitState, hline _ rfl]; exact farRefusal_none hn) (s.word F.FAR_CFG_RATE.off).toNat
  refine ⟨h.state, ?_, h.step, (h.status _ rfl (by decide) (by decide)).trans hdone, (h.status _ rfl (by decide) (by decide)).trans hfail,
    (h.status _ rfl (by decide) (by decide)).trans href, h.iecc, h.lecc, ?_, fun a => by rw [h.mem, hmem, hx.mem], fun a => by rw [h.host, hhost, hx.host]⟩
  · rw [h.epoch, State.epoch, hline _ rfl]
    rfl
  · rw [h.keep, hdev]

theorem farTrainStart_refused {s : State} {p : Path} {v : Word} {c : Nat} (hr : s.reach p F.FAR_TRAIN_CTL_START.off = true)
    (hn : s.farRefusal = some c) (hf : s.fresh (256 * 0x6012 + 42) (.ticks 2500000) = true) :
    Completes (.farTrainStart p v) s fun u => u.fld F.FAR_TRAIN_STATUS_REFUSED = 1 ∧ u.unitState 42 = s.unitState 42 ∧
      u.epoch 42 = s.epoch 42 ∧ u.dev.log.count ≠ s.dev.log.count ∧ SameBytes s u ∧ SameHost s u := by
  obtain ⟨x, hx, he⟩ := farTrainStart_run (v := v) hr
  refine ⟨_, he, ?_⟩
  rw [farStart, Prog.run_look, hx.farRefusal, hn]
  dsimp only
  rw [Prog.run_all_cons, Prog.run_all_cons, Prog.run_all_nil]
  have href : ((setF F.FAR_TRAIN_STATUS_REFUSED 1).run x).fld F.FAR_TRAIN_STATUS_REFUSED = 1 := Prog.fld_setF_same _ _ _ (by decide)
  have hw : ∀ o, o ≠ 0x38000C → ((setF F.FAR_TRAIN_STATUS_REFUSED 1).run x).word o = x.word o := fun o ho =>
    (Prog.only_setF fun _ => Ne.symm ho : (setF F.FAR_TRAIN_STATUS_REFUSED 1).Only (Act.sparesReg o)).word x
  have hdev : ((setF F.FAR_TRAIN_STATUS_REFUSED 1).run x).dev = s.dev := hx.dev
  have hmem : ((setF F.FAR_TRAIN_STATUS_REFUSED 1).run x).mem = s.mem := hx.mem
  have hhost : ((setF F.FAR_TRAIN_STATUS_REFUSED 1).run x).host = s.host := hx.host
  generalize (setF F.FAR_TRAIN_STATUS_REFUSED 1).run x = y at *
  have hlog := (logLim_onlyLogs (.ticks 2500000) 42 0x6012 0 42 (memDetail 0 0xFF 0xFF none c) none).onlyLogs y
  have hcount := logLim_count_lt (sev := 0) (unit := 42) (ds := memDetail 0 0xFF 0xFF none c) (st := none)
    ((State.fresh_of_dev hdev _ _).trans hf)
  generalize (logLim _ _ _ _ _ _ _).run y = u at *
  have hline : ∀ f : Fld, f.off = 0x401A8 → u.fld f = s.fld f := fun f h401 =>
    (hlog.fld (by rw [h401]; decide)).trans ((State.fld_of_word (hw _ (by rw [h401]; decide))).trans (hx.fld (by rw [h401]; decide)))
  exact ⟨(hlog.fld (by decide)).trans href, hline _ rfl, hline _ rfl, hdev ▸ hcount.ne', fun a => by rw [hlog.mem, hmem],
    fun a => by rw [hlog.host, hhost]⟩

/-! ## Training ends -/

/-- What a run that succeeds leaves in the registers. -/
def trainedRegs (step : Nat) : Prog :=
  all [setF F.FAR_TRAIN_STATUS_STEP step, setF F.FAR_TRAIN_STATUS_STEP 9, setF F.FAR_TRAIN_STATUS_DONE 1, setF F.FAR_TRAIN_CTL_SAVE_VALID 1]

theorem trainedRegs_run (step : Nat) (s : State) : ((trainedRegs step).run s).fld F.FAR_TRAIN_STATUS_DONE = 1 ∧
    ((trainedRegs step).run s).fld F.FAR_TRAIN_STATUS_STEP = 9 ∧ ((trainedRegs step).run s).dev = s.dev ∧
    (∀ o, o ≠ 0x38000C → o ≠ 0x380008 → ((trainedRegs step).run s).word o = s.word o) ∧ ((trainedRegs step).run s).mem = s.mem ∧
    ((trainedRegs step).run s).host = s.host := by
  have hspare : ∀ o, o ≠ 0x38000C → o ≠ 0x380008 → (trainedRegs step).Only (Act.sparesReg o) := fun o h1 h2 =>
    ⟨Prog.only_setF fun _ => Ne.symm h1, Prog.only_setF fun _ => Ne.symm h1, Prog.only_setF fun _ => Ne.symm h1,
      Prog.only_setF fun _ => Ne.symm h2, trivial⟩
  refine ⟨?_, ?_, rfl, fun o h1 h2 => (hspare o h1 h2).word s, rfl, rfl⟩
  all_goals rw [trainedRegs]
  all_goals iterate 4 rw [Prog.run_all_cons]
  all_goals rw [Prog.run_all_nil]
  · exact (Prog.fld_setF_other F.FAR_TRAIN_CTL_SAVE_VALID F.FAR_TRAIN_STATUS_DONE _ _ (by decide) (by decide)).trans
      (Prog.fld_setF_same F.FAR_TRAIN_STATUS_DONE 1 _ (by decide))
  · exact (Prog.fld_setF_other F.FAR_TRAIN_CTL_SAVE_VALID F.FAR_TRAIN_STATUS_STEP _ _ (by decide) (by decide)).trans
      ((Prog.fld_setF_other F.FAR_TRAIN_STATUS_DONE F.FAR_TRAIN_STATUS_STEP _ _ (by decide) (by decide)).trans
        (Prog.fld_setF_same F.FAR_TRAIN_STATUS_STEP 9 _ (by decide)))

/-- The unit is ready, with no fence. -/
theorem ready42_run {s : State} (h : s.unitState 42 = 2) : ((liftFence 42).run ((declareUnit 42 3).run s)).unitState 42 = 3 ∧
    ((liftFence 42).run ((declareUnit 42 3).run s)).fenced 42 = false ∧
    OnlyLine s ((liftFence 42).run ((declareUnit 42 3).run s)) 42 := by
  obtain ⟨hst, -⟩ := declareUnit_run_of_ne (u := 42) (st := 3) (by rw [h]; decide : s.unitState 42 ≠ 3) (by decide)
  have h1 := declareUnit_line 42 3 s
  generalize (declareUnit 42 3).run s = x at *
  have h2 := liftFence_line 42 x
  exact ⟨(liftFence_run 42 x).2.trans hst, (liftFence_run 42 x).1, h2.dev.trans h1.dev, fun o ho => (h2.words o ho).trans (h1.words o ho),
    h2.mem.trans h1.mem, h2.host.trans h1.host⟩

theorem farTrained_ready {s : State} {failch : Nat} (h : s.unitState 42 = 2) (hf : failch % 256 = 0) (step : Nat) :
    ((farTrained step failch).run s).unitState 42 = 3 ∧ ((farTrained step failch).run s).fenced 42 = false ∧
    ((farTrained step failch).run s).fld F.FAR_TRAIN_STATUS_DONE = 1 ∧ ((farTrained step failch).run s).fld F.FAR_TRAIN_STATUS_STEP = 9 ∧
    ((farTrained step failch).run s).mem = (if s.dev.farKeep then s.mem else Sparse.clear farAt (farAt + 2 ^ 37) s.mem) ∧
    ((farTrained step failch).run s).host = s.host := by
  have hsplit : (farTrained step failch).run s = (modDev fun d => { d with farKeep := false }).run
      ((when (!s.dev.farKeep) (zeroFill farAt (farAt + 2 ^ 37))).run ((liftFence 42).run ((declareUnit 42 3).run ((trainedRegs step).run s)))) := by
    rw [farTrained, Prog.run_look, if_pos hf, trainedRegs]
    iterate 13 rw [Prog.run_all_cons]
    rw [Prog.run_all_nil, Prog.run_all_nil, Prog.run_all_nil]
  rw [hsplit]
  obtain ⟨hdone, hstep, -, hwords, hmem, hhost⟩ := trainedRegs_run step s
  generalize (trainedRegs step).run s = x at *
  obtain ⟨hst, hfence, hline⟩ := ready42_run (s := x) ((State.fld_of_word (f := F.LEDG_UNIT_STATE 42) (hwords _ (by decide) (by decide))).trans h)
  generalize (liftFence 42).run _ = y at *
  have hz : ∀ c, ((modDev fun d => { d with farKeep := false }).run ((when c (zeroFill farAt (farAt + 2 ^ 37))).run y)).regs = y.regs ∧
      ((modDev fun d => { d with farKeep := false }).run ((when c (zeroFill farAt (farAt + 2 ^ 37))).run y)).host = y.host := by
    intro c
    cases c
    · exact ⟨rfl, rfl⟩
    · exact ⟨rfl, rfl⟩
  have hw := State.word_of_regs (hz (!s.dev.farKeep)).1
  refine ⟨?_, ?_, ?_, ?_, ?_, by rw [(hz _).2, hline.host, hhost]⟩
  · exact (State.fld_of_word (f := F.LEDG_UNIT_STATE 42) (hw _)).trans hst
  · exact (congrArg (· == 1) (State.fld_of_word (f := F.LEDG_UNIT_FENCED 42) (hw _))).trans hfence
  · exact (State.fld_of_word (hw _)).trans ((hline.fld (by decide)).trans hdone)
  · exact (State.fld_of_word (hw _)).trans ((hline.fld (by decide)).trans hstep)
  · rw [← hmem, ← hline.mem]
    cases s.dev.farKeep
    · rfl
    · rfl

/-- What a run that failed leaves in the registers, and its catch. -/
def failedRegs (step failch d3 : Nat) : Prog :=
  all [setF F.FAR_TRAIN_STATUS_STEP step, setF F.FAR_TRAIN_STATUS_FAIL 1, setF F.FAR_TRAIN_STATUS_FAILCH failch,
    logC 0x600E 2 42 (memDetail 0 0xFF 0xFF none d3)]

theorem failedRegs_run (step failch d3 : Nat) (s : State) : ((failedRegs step failch d3).run s).fld F.FAR_TRAIN_STATUS_FAIL = 1 ∧
    ((failedRegs step failch d3).run s).fld F.FAR_TRAIN_STATUS_FAILCH = failch % 2 ^ 8 ∧
    s.dev.log.count < ((failedRegs step failch d3).run s).dev.log.count ∧ ((failedRegs step failch d3).run s).unitState 42 = s.unitState 42 ∧
    ((failedRegs step failch d3).run s).mem = s.mem ∧ ((failedRegs step failch d3).run s).host = s.host := by
  rw [failedRegs]
  iterate 4 rw [Prog.run_all_cons]
  rw [Prog.run_all_nil]
  have hfail : ((setF F.FAR_TRAIN_STATUS_FAILCH failch).run ((setF F.FAR_TRAIN_STATUS_FAIL 1).run ((setF F.FAR_TRAIN_STATUS_STEP step).run s))).fld
      F.FAR_TRAIN_STATUS_FAIL = 1 :=
    (Prog.fld_setF_other F.FAR_TRAIN_STATUS_FAILCH F.FAR_TRAIN_STATUS_FAIL _ _ (by decide) (by decide)).trans
      (Prog.fld_setF_same F.FAR_TRAIN_STATUS_FAIL 1 _ (by decide))
  have hch : ((setF F.FAR_TRAIN_STATUS_FAILCH failch).run ((setF F.FAR_TRAIN_STATUS_FAIL 1).run ((setF F.FAR_TRAIN_STATUS_STEP step).run s))).fld
      F.FAR_TRAIN_STATUS_FAILCH = failch % 2 ^ 8 := Prog.fld_setF_same F.FAR_TRAIN_STATUS_FAILCH _ _ (by decide)
  have hst : ((setF F.FAR_TRAIN_STATUS_FAILCH failch).run ((setF F.FAR_TRAIN_STATUS_FAIL 1).run ((setF F.FAR_TRAIN_STATUS_STEP step).run s))).fld
      (F.LEDG_UNIT_STATE 42) = s.fld (F.LEDG_UNIT_STATE 42) :=
    (Prog.fld_setF_other F.FAR_TRAIN_STATUS_FAILCH _ _ _ (by decide) (by decide)).trans
      ((Prog.fld_setF_other F.FAR_TRAIN_STATUS_FAIL _ _ _ (by decide) (by decide)).trans
        (Prog.fld_setF_other F.FAR_TRAIN_STATUS_STEP _ _ _ (by decide) (by decide)))
  have hdev : ((setF F.FAR_TRAIN_STATUS_FAILCH failch).run ((setF F.FAR_TRAIN_STATUS_FAIL 1).run ((setF F.FAR_TRAIN_STATUS_STEP step).run s))).dev =
      s.dev := rfl
  have hmem : ((setF F.FAR_TRAIN_STATUS_FAILCH failch).run ((setF F.FAR_TRAIN_STATUS_FAIL 1).run ((setF F.FAR_TRAIN_STATUS_STEP step).run s))).mem =
      s.mem := rfl
  have hhost : ((setF F.FAR_TRAIN_STATUS_FAILCH failch).run ((setF F.FAR_TRAIN_STATUS_FAIL 1).run ((setF F.FAR_TRAIN_STATUS_STEP step).run s))).host =
      s.host := rfl
  generalize (setF F.FAR_TRAIN_STATUS_FAILCH failch).run _ = x at *
  generalize memDetail 0 0xFF 0xFF none d3 = ds
  have hlog := logC_run_onlyLogs 0x600E 2 42 ds none x
  have hlt := logC_count_lt 0x600E 2 42 ds none x
  exact ⟨(hlog.fld (by decide)).trans hfail, (hlog.fld (by decide)).trans hch, lt_of_eq_of_lt (by rw [hdev]) hlt,
    (hlog.fld (f := F.LEDG_UNIT_STATE 42) (by decide)).trans hst, hlog.mem.trans hmem, hlog.host.trans hhost⟩

theorem farTrained_failed {s : State} {failch : Nat} (h : s.unitState 42 = 2) (hf : failch % 256 ≠ 0) (step : Nat) :
    ((farTrained step failch).run s).unitState 42 = 5 ∧ ((farTrained step failch).run s).fenced 42 = true ∧
    ((farTrained step failch).run s).fld F.FAR_TRAIN_STATUS_FAIL = 1 ∧
    ((farTrained step failch).run s).fld F.FAR_TRAIN_STATUS_FAILCH = failch % 2 ^ 8 ∧
    ((farTrained step failch).run s).dev.log.count ≠ s.dev.log.count ∧ ((farTrained step failch).run s).mem = s.mem ∧
    ((farTrained step failch).run s).host = s.host := by
  have hsplit : (farTrained step failch).run s = (fenceUnit 42).run ((declareUnit 42 5).run
      ((failedRegs step failch (step % 16 + 256 * (failch % 256))).run s)) := by
    rw [farTrained, Prog.run_look, if_neg hf, failedRegs]
    iterate 11 rw [Prog.run_all_cons]
    rw [Prog.run_all_nil, Prog.run_all_nil, Prog.run_all_nil]
  rw [hsplit]
  obtain ⟨hfail, hch, hcount, hstate, hmem, hhost⟩ := failedRegs_run step failch (step % 16 + 256 * (failch % 256)) s
  generalize (failedRegs _ _ _).run s = x at *
  obtain ⟨hst, -⟩ := declareUnit_run_of_ne (s := x) (u := 42) (st := 5) (by rw [hstate, h]; decide) (by decide)
  have h1 := declareUnit_line 42 5 x
  generalize (declareUnit 42 5).run x = y at *
  have h2 := fenceUnit_line 42 y
  obtain ⟨hfence, hkeep⟩ := fenceUnit_run 42 y
  refine ⟨hkeep.trans hst, hfence, (h2.fld (by decide)).trans ((h1.fld (by decide)).trans hfail),
    (h2.fld (by decide)).trans ((h1.fld (by decide)).trans hch), ?_, by rw [h2.mem, h1.mem, hmem], by rw [h2.host, h1.host, hhost]⟩
  rw [h2.dev, h1.dev]
  exact hcount.ne'

theorem farTrainComplete_completes {s : State} {step failch : Nat} (hr : s.ready = true) (h : s.unitState 42 = 2) :
    Completes (.farTrainComplete step failch) s fun u => SameHost s u ∧
      (failch % 256 = 0 → u.unitState 42 = 3 ∧ u.fenced 42 = false ∧ u.fld F.FAR_TRAIN_STATUS_DONE = 1 ∧
        u.fld F.FAR_TRAIN_STATUS_STEP = 9 ∧ (s.dev.farKeep = true → SameBytes s u) ∧
        (s.dev.farKeep = false → (∀ a, farAt ≤ a → a < farAt + 2 ^ 37 → u.mem.read a = 0) ∧ SameBytesBut s u farAt (2 ^ 37))) ∧
      (failch % 256 ≠ 0 → u.unitState 42 = 5 ∧ u.fenced 42 = true ∧ u.fld F.FAR_TRAIN_STATUS_FAIL = 1 ∧
        u.fld F.FAR_TRAIN_STATUS_FAILCH = failch % 2 ^ F.FAR_TRAIN_STATUS_FAILCH.w ∧ u.dev.log.count ≠ s.dev.log.count ∧
        SameBytes s u) := by
  refine completes_done rfl ?_
  rw [Prog.run_when, if_pos (by simp [hr, h])]
  by_cases hf : failch % 256 = 0
  · obtain ⟨hst, hfence, hdone, hstep, hmem, hhost⟩ := farTrained_ready h hf step
    refine ⟨fun a => by rw [hhost], fun _ => ⟨hst, hfence, hdone, hstep, fun hk a => ?_, fun hk => ⟨fun a h1 h2 => ?_, fun a ha => ?_⟩⟩,
      fun hne => absurd hf hne⟩
    · rw [hmem, hk]
      rfl
    · rw [hmem, hk]
      exact Memory.read_clear_in _ _ _ _ h1 h2
    · rw [hmem, hk]
      exact Memory.read_clear_other _ _ _ _ ha
  · obtain ⟨hst, hfence, hfail, hch, hcount, hmem, hhost⟩ := farTrained_failed h hf step
    exact ⟨fun a => by rw [hhost], fun hz => absurd hz hf, fun _ => ⟨hst, hfence, hfail, hch, hcount, fun a => by rw [hmem]⟩⟩

/-! ## Temperature and refresh -/

/-- The poll is reported, hot or too hot. -/
def reportHeat (hot tooHot : Bool) (d3 : Nat) : Prog :=
  all [when hot (logC 0x600F 1 42 (memDetail 0 0xFF 0xFF none d3)),
    when tooHot (all [logC 0x6010 2 42 (memDetail 0 0xFF 0xFF none d3), fenceUnit 42])]

theorem reportHeat_run (hot tooHot : Bool) (d3 : Nat) (s : State) :
    (∀ o, o ≠ 0x401A8 → o ∉ logRegs → ((reportHeat hot tooHot d3).run s).word o = s.word o) ∧
    (tooHot = true → ((reportHeat hot tooHot d3).run s).fenced 42 = true) ∧
    (tooHot = false → ((reportHeat hot tooHot d3).run s).fenced 42 = s.fenced 42) ∧
    (hot = false → tooHot = false → ((reportHeat hot tooHot d3).run s).dev = s.dev) ∧
    (hot = true ∨ tooHot = true → s.dev.log.count < ((reportHeat hot tooHot d3).run s).dev.log.count) ∧
    ((reportHeat hot tooHot d3).run s).mem = s.mem ∧ ((reportHeat hot tooHot d3).run s).host = s.host := by
  rw [reportHeat, Prog.run_all_cons, Prog.run_all_cons, Prog.run_all_nil]
  generalize memDetail 0 0xFF 0xFF none d3 = ds
  have hx : OnlyLogs s ((when hot (logC 0x600F 1 42 ds)).run s) ∧ (hot = false → ((when hot (logC 0x600F 1 42 ds)).run s).dev = s.dev) ∧
      (hot = true → s.dev.log.count < ((when hot (logC 0x600F 1 42 ds)).run s).dev.log.count) := by
    cases hot with
    | false => exact ⟨OnlyLogs.refl s, fun _ => rfl, fun h => absurd h (by decide)⟩
    | true =>
      rw [Prog.run_when, if_pos rfl]
      exact ⟨logC_run_onlyLogs 0x600F 1 42 ds none s, fun h => absurd h (by decide), fun _ => logC_count_lt 0x600F 1 42 ds none s⟩
  generalize (when hot (logC 0x600F 1 42 ds)).run s = x at *
  obtain ⟨hlog, hcold, hhot⟩ := hx
  cases tooHot with
  | false =>
    refine ⟨fun o _ ho => hlog.regs o ho, fun h => absurd h (by decide), fun _ => ?_, fun h _ => hcold h, fun h => ?_, hlog.mem, hlog.host⟩
    · exact congrArg (· == 1) (hlog.fld (f := F.LEDG_UNIT_FENCED 42) (by decide))
    · exact hhot (h.resolve_right (by decide))
  | true =>
    rw [Prog.run_when, if_pos rfl, Prog.run_all_cons, Prog.run_all_cons, Prog.run_all_nil]
    have hlog2 := logC_run_onlyLogs 0x6010 2 42 ds none x
    have hlt := logC_count_lt 0x6010 2 42 ds none x
    generalize (logC 0x6010 2 42 ds).run x = y at *
    have hf := fenceUnit_line 42 y
    refine ⟨fun o h1 h2 => (hf.words o h1).trans ((hlog2.regs o h2).trans (hlog.regs o h2)), fun _ => (fenceUnit_run 42 y).1,
      fun h => absurd h (by decide), fun _ h => absurd h (by decide), fun _ => ?_, by rw [hf.mem, hlog2.mem, hlog.mem],
      by rw [hf.host, hlog2.host, hlog.host]⟩
    rw [hf.dev]
    exact lt_of_le_of_lt hlog.count hlt

theorem farMr4Poll_completes {s : State} {m x : Nat} {hot tooHot : Bool} (hr : s.ready = true) (h : s.unitState 42 = 3) :
    Completes (.farMr4Poll m x hot tooHot) s fun u => u.fld F.FAR_TEMP_MR4 = m % 2 ^ F.FAR_TEMP_MR4.w ∧
      u.fld F.FAR_TEMP_MULT = x % 2 ^ F.FAR_TEMP_MULT.w ∧ (tooHot = true → u.fenced 42 = true) ∧
      (tooHot = false → u.fenced 42 = s.fenced 42) ∧ (hot = false → tooHot = false → u.dev = s.dev) ∧
      (hot = true ∨ tooHot = true → u.dev.log.count ≠ s.dev.log.count) ∧ SameBytes s u ∧ SameHost s u := by
  refine completes_done rfl ?_
  rw [Prog.run_when, if_pos (by simp [hr, h]), farMr4]
  iterate 3 rw [Prog.run_all_cons]
  rw [Prog.run_all_nil]
  have hm : ((setF F.FAR_TEMP_MULT x).run ((setF F.FAR_TEMP_MR4 m).run s)).fld F.FAR_TEMP_MR4 = m % 2 ^ 8 :=
    (Prog.fld_setF_other F.FAR_TEMP_MULT F.FAR_TEMP_MR4 _ _ (by decide) (by decide)).trans (Prog.fld_setF_same F.FAR_TEMP_MR4 _ _ (by decide))
  have hx : ((setF F.FAR_TEMP_MULT x).run ((setF F.FAR_TEMP_MR4 m).run s)).fld F.FAR_TEMP_MULT = x % 2 ^ 3 :=
    Prog.fld_setF_same F.FAR_TEMP_MULT _ _ (by decide)
  have hdev : ((setF F.FAR_TEMP_MULT x).run ((setF F.FAR_TEMP_MR4 m).run s)).dev = s.dev := rfl
  have hmem : ((setF F.FAR_TEMP_MULT x).run ((setF F.FAR_TEMP_MR4 m).run s)).mem = s.mem := rfl
  have hhost : ((setF F.FAR_TEMP_MULT x).run ((setF F.FAR_TEMP_MR4 m).run s)).host = s.host := rfl
  have hline : ((setF F.FAR_TEMP_MULT x).run ((setF F.FAR_TEMP_MR4 m).run s)).fenced 42 = s.fenced 42 :=
    congrArg (· == 1) ((Prog.fld_setF_other F.FAR_TEMP_MULT (F.LEDG_UNIT_FENCED 42) _ _ (by decide) (by decide)).trans
      (Prog.fld_setF_other F.FAR_TEMP_MR4 (F.LEDG_UNIT_FENCED 42) _ _ (by decide) (by decide)))
  generalize (setF F.FAR_TEMP_MULT x).run _ = y at *
  obtain ⟨hwords, htoo, hnot, hcold, hcount, hm', hh'⟩ := reportHeat_run hot tooHot (y.word F.FAR_TEMP_MR4.off).toNat y
  rw [Prog.run_look]
  rw [reportHeat] at hwords htoo hnot hcold hcount hm' hh'
  refine ⟨(State.fld_of_word (hwords _ (by decide) (by decide))).trans hm, (State.fld_of_word (hwords _ (by decide) (by decide))).trans hx, htoo,
    fun ht => (hnot ht).trans hline, fun h1 h2 => (hcold h1 h2).trans hdev, fun hc => ?_, fun a => by rw [hm', hmem], fun a => by rw [hh', hhost]⟩
  exact (lt_of_eq_of_lt (by rw [hdev]) (hcount hc)).ne'

theorem farRefreshDue_completes {s : State} (hr : s.ready = true) (h : s.unitState 42 = 3) (hw : s.servingWindow = true) :
    Completes (.farRefreshDue false) s fun u =>
      u.fld F.FAR_REF_FORCED = min (s.fld F.FAR_REF_FORCED + 1) (2 ^ F.FAR_REF_FORCED.w - 1) ∧ u.dev.log.count ≠ s.dev.log.count ∧
      SameBytes s u ∧ SameHost s u ∧ SameRegsBut s u (F.FAR_REF_FORCED.off :: catchRegs) := by
  refine completes_done rfl ?_
  rw [Prog.run_when, if_pos (by simp [hr, h, hw])]
  refine ⟨?_, ?_, Prog.Only.sameRegs_of_regs (offs := [F.FAR_REF_FORCED.off]) (by simp [Bound.regs_logC]) s⟩
  · rw [Prog.run_all_cons, Prog.run_all_cons, Prog.run_all_nil, logC_fld _ _ _ _ _ _ (by decide), Prog.fld_incF _ _ (by decide)]
  · rw [Prog.run_all_cons, Prog.run_all_cons, Prog.run_all_nil]
    generalize hx : (incF F.FAR_REF_FORCED).run s = x
    have hd : x.dev = s.dev := by rw [← hx]; rfl
    rw [← hd]
    exact logC_count_ne _ _ _ _ _ _

/-! ## Windows -/

theorem startWaiting_run {s : State} {p t : Nat} {x : Xfer} {xs : List Xfer}
    (ht : (s.dev.tiles.filter fun t => (t.2.xfers.headD {}).waits && (t.2.xfers.headD {}).part == p).map Prod.fst = [t])
    (hx : (s.tile t).xfers = x :: xs) (hg : s.startOf t x = .go) : (startWaiting p).run s =
      (modTile t fun y => { y with xfers := modNth (fun z => { z with started := true, waits := false }) y.xfers 0 }).run s := by
  rw [startWaiting, Prog.run_look, ht, Prog.run_each_cons, Prog.run_each_nil, Prog.run_look, hx]
  dsimp only
  rw [hg, applyStart, Prog.run_all_cons, Prog.run_all_cons, Prog.run_all_nil, Prog.run_when, if_neg (by simp [Start.rank])]
  rfl

theorem resumeWalks_run_none {s : State} (h : ∀ n, (s.slot n).walkLeft = []) (c : Codes) (p : Nat) : (resumeWalks c p).run s = s := by
  have he : (s.liveSlots.filter fun n => s.slotPart n == p && !(s.slot n).walkLeft.isEmpty) = [] :=
    List.filter_eq_nil_iff.mpr fun n _ => by simp [h n]
  rw [resumeWalks, Prog.run_look, he, Prog.run_each_nil]

theorem farWindowOpen_completes {s : State} {p i t : Nat} {w : Nat × Nat} {x : Xfer} {xs : List Xfer} (hr : s.ready = true)
    (hi : (s.plane p).farWins[i]? = some w) (hon : s.partOn p = true) (ho : s.reached (s.turnOrg p) = true)
    (hat : s.since (s.turnOrg p) % s.turnLen p = (winRange w).1)
    (ht : (s.dev.tiles.filter fun t => (t.2.xfers.headD {}).waits && (t.2.xfers.headD {}).part == p).map Prod.fst = [t])
    (hx : (s.tile t).xfers = x :: xs) (hg : s.startOf t x = .go) (hwalk : ∀ n, (s.slot n).walkLeft = []) :
    Completes (.farWindowOpen p { at_ := i }) s fun u => (u.tile t).xfers = { x with started := true, waits := false } :: xs ∧
      (∀ j, j ≠ t → u.tile j = s.tile j) ∧ u.regs = s.regs ∧ SameBytes s u ∧ SameHost s u := by
  have hstarts : s.windowStarts p i = true := by simp [State.windowStarts, hi, hon, ho, hat]
  refine completes_done rfl ?_
  dsimp only
  rw [Prog.run_when, if_pos (by simp [hr, hstarts]), Prog.run_all_cons, Prog.run_all_cons, Prog.run_all_nil, startWaiting_run ht hx hg,
    resumeWalks_run_none (by exact hwalk)]
  refine ⟨?_, fun j hj => State.tile_modTile_other hj _ _, rfl, fun _ => rfl, fun _ => rfl⟩
  rw [State.tile_modTile_same, hx]
  rfl

/-! ## The obligation -/

/-- Settles O39: one lemma for each command and outcome. -/
theorem farMemory : Obligations.FarMemory :=
  ⟨fun _ _ _ => farTrainStart_begins, fun _ _ _ _ => farTrainStart_refused, fun _ _ _ => farTrainComplete_completes,
    fun _ _ _ _ _ => farMr4Poll_completes, fun s => ⟨s, rfl, rfl⟩, fun _ => farRefreshDue_completes, fun _ _ _ _ _ _ _ => farWindowOpen_completes⟩

end Sys2Proof.Machine
end

section
/-!
BAR2 and the scrubber (R206, R210, R221, R223, R372): O38.
-/
namespace Sys2Proof.Machine

/-! ## Reads through BAR2 -/

/-- The bytes of a read none of which is denied or PENDING are those of memory. -/
theorem readOpen_run_memory (f : List Byte → Prog) (s : State) : ∀ (n a : Nat) (acc : List Byte),
    (∀ i, i < n → s.bar2Denies (a + i) = false ∧ pendingByte (a + i) = false) →
    (readOpen f a n acc).run s = (f (acc.reverse ++ s.mem.reads a n)).run s
  | 0, a, acc, _ => by rw [readOpen, Memory.reads, List.append_nil]
  | n + 1, a, acc, h => by
    obtain ⟨hd, hp⟩ := h 0 (Nat.succ_pos n)
    rw [Nat.add_zero] at hd hp
    rw [readOpen, Prog.run_look, hd, hp, if_neg Bool.false_ne_true, if_neg Bool.false_ne_true, readOpen_run_memory f s n (a + 1) _ fun i hi => by
      rw [Nat.add_right_comm]
      exact h (i + 1) (Nat.succ_lt_succ hi)]
    rw [List.reverse_cons, List.append_assoc, List.singleton_append, Memory.reads]

/-- The bytes of a read all of which are denied are ones. -/
theorem readOpen_run_denied (f : List Byte → Prog) (s : State) : ∀ (n a : Nat) (acc : List Byte),
    (∀ i, i < n → s.bar2Denies (a + i) = true) →
    (readOpen f a n acc).run s = (f (acc.reverse ++ List.replicate n 0xFF)).run s
  | 0, a, acc, _ => by rw [readOpen, List.replicate_zero, List.append_nil]
  | n + 1, a, acc, h => by
    have hd := h 0 (Nat.succ_pos n)
    rw [Nat.add_zero] at hd
    rw [readOpen, Prog.run_look, hd, if_pos rfl, readOpen_run_denied f s n (a + 1) _ fun i hi => by
      rw [Nat.add_right_comm]
      exact h (i + 1) (Nat.succ_lt_succ hi)]
    rw [List.reverse_cons, List.append_assoc, List.singleton_append, ← List.replicate_succ]

/-- A read that meets no poison and no error answers its bytes. -/
theorem bar2Read_run {s : State} {off len : Nat} (hf : s.fenced 41 = false)
    (hp : ∀ i, i < len → s.bar2Denies (storeAt + off + i) = false → s.dev.poison.contains ((storeAt + off + i) / 64 * 64) = false) :
    (bar2Read off len {}).run s = (readOpen (fun bs => emitOut (.reply .pf bs)) (storeAt + off) len []).run s := by
  have hhit : (((List.range len).map (storeAt + off + ·)).filter fun x => !s.bar2Denies x).find?
      (fun x => s.dev.poison.contains (x / 64 * 64)) = none := by
    rw [List.find?_eq_none]
    intro x hx
    obtain ⟨hmem, hden⟩ := List.mem_filter.mp hx
    obtain ⟨i, hi, rfl⟩ := List.mem_map.mp hmem
    rw [hp i (List.mem_range.mp hi) (by simpa using hden)]
    decide
  rw [bar2Read, Prog.run_look]
  dsimp only
  rw [hf, hhit, if_neg Bool.false_ne_true]
  dsimp only
  rw [if_neg (by simp), Prog.run_all_cons, Prog.run_all_cons, Prog.run_all_nil, Prog.run_when, if_neg (by simp)]

theorem exec_bar2Read {s : State} {off len : Nat} (hpf : s.pfOpen = true) (hl : 0 < len) (hs : off + len ≤ storeSize)
    (hb : off + len ≤ s.dev.bar2Size) : exec (.bar2Read 0 off len {}) s = .next ((bar2Read off len {}).run s) := by
  show done (when _ (bar2Read off len {})) s = _
  rw [done_eq, Prog.run_when, if_pos (by simp [hpf, hl, hs, hb])]

theorem bar2Read_memory {s : State} {off len : Nat} (hpf : s.pfOpen = true) (hl : 0 < len) (hs : off + len ≤ storeSize)
    (hb : off + len ≤ s.dev.bar2Size) (hf : s.fenced 41 = false)
    (h : ∀ i, i < len → s.bar2Denies (storeAt + off + i) = false ∧ pendingByte (storeAt + off + i) = false ∧
      s.dev.poison.contains ((storeAt + off + i) / 64 * 64) = false) :
    Completes (.bar2Read 0 off len {}) s fun u =>
      u = { s with dev := { s.dev with out := s.dev.out ++ [.reply .pf (s.mem.reads (storeAt + off) len)] } } := by
  refine ⟨_, exec_bar2Read hpf hl hs hb, ?_⟩
  rw [bar2Read_run hf fun i hi _ => (h i hi).2.2, readOpen_run_memory _ _ _ _ _ fun i hi => ⟨(h i hi).1, (h i hi).2.1⟩]
  rfl

theorem bar2Read_denied {s : State} {off len : Nat} (hpf : s.pfOpen = true) (hl : 0 < len) (hs : off + len ≤ storeSize)
    (hb : off + len ≤ s.dev.bar2Size) (hf : s.fenced 41 = false) (h : ∀ i, i < len → s.bar2Denies (storeAt + off + i) = true) :
    Completes (.bar2Read 0 off len {}) s fun u =>
      u = { s with dev := { s.dev with out := s.dev.out ++ [.reply .pf (List.replicate len 0xFF)] } } := by
  refine ⟨_, exec_bar2Read hpf hl hs hb, ?_⟩
  rw [bar2Read_run hf fun i hi hd => absurd hd (by rw [h i hi]; decide), readOpen_run_denied _ _ _ _ _ h]
  rfl

/-! ## Writes through BAR2 -/

theorem exec_bar2Write {s : State} {peer : Bool} {off : Nat} {bs : List Byte} (hpf : s.pfOpen = true) (hne : bs ≠ [])
    (hs : off + bs.length ≤ storeSize) (hb : off + bs.length ≤ s.dev.bar2Size) (hf : s.fenced 41 = false) :
    exec (.bar2Write peer off bs false) s = .next ((bar2Write off bs).run s) := by
  have hpos : 0 < bs.length := List.length_pos_of_ne_nil hne
  show done (when _ (if false = true then aerUncorrectable else when (!s.fenced 41) (bar2Write off bs))) s = _
  rw [done_eq, Prog.run_when, if_pos (by simp [hpf, hpos, hs, hb]), if_neg Bool.false_ne_true, hf]
  rfl

/-- A run of bytes within a line is one piece. -/
theorem cutLines_one {a : Nat} {bs : List Byte} (hne : bs ≠ []) (h : a % 64 + bs.length ≤ 64) : cutLines (bs.length + 1) a bs = [(a, bs)] := by
  obtain ⟨b, l, rfl⟩ := List.exists_cons_of_ne_nil hne
  rw [cutLines]
  · rw [List.take_of_length_le (by omega), List.drop_of_length_le (by omega)]
    simp [cutLines]
  · exact List.cons_ne_nil _ _

theorem storeAt_line (off : Nat) : (storeAt + off) % 64 = off % 64 := by
  rw [storeAt]
  omega

theorem bar2Write_lands {s : State} {peer : Bool} {off : Nat} {bs : List Byte} (hpf : s.pfOpen = true) (hne : bs ≠ [])
    (hl : off % 64 + bs.length ≤ 64) (hs : off + bs.length ≤ storeSize) (hb : off + bs.length ≤ s.dev.bar2Size) (hf : s.fenced 41 = false)
    (hc : s.closedAt (storeAt + off) = none) (hd : ∀ i, i < bs.length → s.bar2Drops (storeAt + off + i) = false) :
    Completes (.bar2Write peer off bs false) s fun u => u.mem.reads (storeAt + off) bs.length = bs ∧
      SameBytesBut s u (storeAt + off) bs.length ∧ u.regs = s.regs ∧ SameHost s u ∧ u.dev = { s.dev with poison := u.dev.poison } ∧
      (bs.length = 64 → u.dev.poison.contains (storeAt + off) = false) := by
  have hnone : ((List.range bs.length).map (storeAt + off + ·)).find? s.bar2Drops = none := by
    rw [List.find?_eq_none]
    intro x hx
    obtain ⟨i, hi, rfl⟩ := List.mem_map.mp hx
    rw [hd i (List.mem_range.mp hi)]
    decide
  have hall : ((List.range bs.length).all fun i => !s.bar2Drops (storeAt + off + i)) = true := by
    rw [List.all_eq_true]
    intro i hi
    rw [hd i (List.mem_range.mp hi)]
    rfl
  refine ⟨_, exec_bar2Write hpf hne hs hb hf, ?_⟩
  have hrun : (bar2Write off bs).run s = (storeBytes (storeAt + off) bs).run s := by
    rw [bar2Write, Prog.run_look]
    dsimp only
    rw [hnone, cutLines_one hne (by rw [storeAt_line]; exact hl)]
    dsimp only
    rw [Prog.run_all_cons, Prog.run_all_cons, Prog.run_all_nil, Prog.run_nop, Prog.run_each_cons, Prog.run_each_nil, bar2Line, Prog.run_look, hc]
    dsimp only
    rw [hall, if_pos rfl]
  rw [hrun]
  refine ⟨Memory.reads_writes _ _ _, fun b hb => Memory.read_writes_other _ _ _ _ hb, rfl, fun _ => rfl, rfl, fun h64 => ?_⟩
  refine Bool.eq_false_iff.mpr fun hcon => ?_
  have hmem := (List.mem_filter.mp (List.contains_iff_mem.mp hcon)).2
  have hunit : poisonUnit (storeAt + off) = 64 := if_neg (by omega)
  rw [hunit, h64] at hmem
  simp at hmem

/-! ## Dropped writes -/

/-- The device and the registers are as before but for the log and STORE_HOST_DROPS. -/
structure DropsCounted (s x : State) : Prop where
  dev : x.dev = { s.dev with log := x.dev.log, out := x.dev.out, marks := x.dev.marks }
  words : ∀ o, o ≠ 0x3C0020 → o ∉ logRegs → x.word o = s.word o

theorem hostDrop_run (a : Nat) (s : State) : DropsCounted s ((hostDrop a).run s) ∧ ((hostDrop a).run s).fld F.STORE_HOST_DROPS =
    min (s.fld F.STORE_HOST_DROPS + 1) (2 ^ F.STORE_HOST_DROPS.w - 1) := by
  rw [hostDrop, Prog.run_all_cons, Prog.run_all_cons, Prog.run_all_nil]
  have hf : ((incF F.STORE_HOST_DROPS).run s).fld F.STORE_HOST_DROPS = min (s.fld F.STORE_HOST_DROPS + 1) (2 ^ F.STORE_HOST_DROPS.w - 1) :=
    Prog.fld_incF _ _ (by decide)
  have hw : ∀ o, o ≠ 0x3C0020 → ((incF F.STORE_HOST_DROPS).run s).word o = s.word o := fun o ho =>
    (Prog.only_incF fun _ => Ne.symm ho : (incF F.STORE_HOST_DROPS).Only (Act.sparesReg o)).word s
  have hd : ((incF F.STORE_HOST_DROPS).run s).dev = s.dev := rfl
  generalize (incF F.STORE_HOST_DROPS).run s = x at *
  have hlog := (logLim_onlyLogs (.ticks 2500000) 41 0x600D 0 41 (memDetail a 0xFF 0xFF none) none).onlyLogs x
  generalize (logLim _ _ _ _ _ _ _).run x = u at *
  exact ⟨⟨hd ▸ hlog.dev, fun o h1 h2 => (hlog.regs o h2).trans (hw o h1)⟩, (hlog.fld (by decide)).trans hf⟩

theorem hostDrop_obeys (a : Nat) : (hostDrop a).Only (Act.obeys (.regs [F.STORE_HOST_DROPS.off])) :=
  ⟨incF_obeys.mpr List.mem_cons_self, (Bound.regs_logs _).logLim _ _ _ _ _ _ _, trivial⟩

namespace DropsCounted
variable {s x : State} (h : DropsCounted s x)
include h

theorem part (p : Nat) : x.part p = s.part p := by rw [State.part, State.part, h.dev]

theorem partOn {p : Nat} (hp : p < 8) : x.partOn p = s.partOn p := by
  refine congrArg (· != 0) (State.fld_of_word (f := F.LEDG_UNIT_STATE (32 + p)) (h.words _ ?_ ?_))
  · show 0x40100 + 4 * (32 + p) ≠ 0x3C0020
    omega
  · show 0x40100 + 4 * (32 + p) ∉ logRegs
    simp only [logRegs, List.mem_cons, List.not_mem_nil, or_false, not_or]
    omega

theorem plane : x.plane = s.plane := funext fun p => by rw [State.plane, State.plane, h.part]

theorem closedAt (a : Nat) : x.closedAt a = s.closedAt a := by
  have hpart : x.part = s.part := funext h.part
  have hfor : x.planeFor = s.planeFor := by
    funext p old
    rw [State.planeFor, State.planeFor, hpart, h.plane]
  have htable : x.timetable = s.timetable := by
    funext p
    rw [State.timetable, State.timetable, hpart, h.plane]
  have hforce : x.tableInForce = s.tableInForce := by
    funext p old
    rw [State.tableInForce, State.tableInForce, hpart, hfor, htable]
  have hbanks : x.banks = s.banks := by
    have hf : partIds.filter x.partOn = partIds.filter s.partOn := List.filter_congr fun p hp => h.partOn (List.mem_range.mp hp)
    rw [State.banks, State.banks, hf, hpart, h.plane, htable, hfor, hforce]
  have hopen : x.bankOpen = s.bankOpen := by
    funext b
    unfold State.bankOpen State.reached State.since
    rw [h.dev]
  unfold State.closedAt
  rw [hbanks, hopen]

omit h in
theorem carveAt_lt {a p : Nat} {c : Nat × Nat × Bool} (hc : s.carveAt a = some (p, c)) : p < 8 := by
  have key : ∀ (g : Nat → Option Plane), (partIds.filterMap fun q => (g q).map fun pl => (q, pl)).findSome? (fun x =>
      (x.2.carves.find? fun c => !c.2.2 && inRange (carveRange c) a).map fun c => (x.1, c)) = some (p, c) → p < 8 := by
    intro g hg
    obtain ⟨y, hy, hyc⟩ := List.exists_of_findSome?_eq_some hg
    obtain ⟨q, hq, hqy⟩ := List.mem_filterMap.mp hy
    obtain ⟨pl, -, rfl⟩ := Option.map_eq_some_iff.mp hqy
    obtain ⟨c', -, hpc⟩ := Option.map_eq_some_iff.mp hyc
    rw [← (Prod.mk.inj hpc).1]
    exact List.mem_range.mp hq
  unfold State.carveAt at hc
  dsimp only at hc
  split at hc
  · next hs => exact key _ (hs.trans hc)
  · exact key _ hc

theorem bar2Drops (a : Nat) : x.bar2Drops a = s.bar2Drops a := by
  have hpart : x.part = s.part := funext h.part
  have hled : x.ledgerRange = s.ledgerRange := by
    unfold State.ledgerRange State.ledgerAt
    rw [State.fld_of_word (f := F.KV_LEDGER_BASE_OFFSET) (h.words _ (by decide) (by decide)),
      State.fld_of_word (f := F.KV_LEDGER_SIZE_ENTRIES) (h.words _ (by decide) (by decide))]
  have hregion : x.inPlaneRegion a = s.inPlaneRegion a := by
    unfold State.inPlaneRegion State.presentPlanes State.planesOf
    rw [hpart]
  have hcarve : x.carveAt a = s.carveAt a := by
    unfold State.carveAt
    rw [hpart]
  have hshut : x.carveShut a = s.carveShut a := by
    unfold State.carveShut
    rw [hcarve]
    split
    · next p c hc => rw [h.partOn (carveAt_lt hc)]
    · rfl
  unfold State.bar2Drops State.dropsWrites State.inLedger
  rw [hled, hregion, hshut]
end DropsCounted

theorem bar2Write_dropped {s : State} {peer : Bool} {off : Nat} {bs : List Byte} (hpf : s.pfOpen = true) (hne : bs ≠ [])
    (hl : off % 64 + bs.length ≤ 64) (hs : off + bs.length ≤ storeSize) (hb : off + bs.length ≤ s.dev.bar2Size) (hf : s.fenced 41 = false)
    (hc : s.closedAt (storeAt + off) = none) (hd : ∀ i, i < bs.length → s.bar2Drops (storeAt + off + i) = true) :
    Completes (.bar2Write peer off bs false) s fun u => SameBytes s u ∧ SameHost s u ∧
      u.fld F.STORE_HOST_DROPS = min (s.fld F.STORE_HOST_DROPS + 1) (2 ^ F.STORE_HOST_DROPS.w - 1) ∧
      SameRegsBut s u (F.STORE_HOST_DROPS.off :: catchRegs) := by
  have hpos : 0 < bs.length := List.length_pos_of_ne_nil hne
  obtain ⟨a, ha⟩ : ∃ a, ((List.range bs.length).map (storeAt + off + ·)).find? s.bar2Drops = some a := by
    rw [← Option.isSome_iff_exists, List.find?_isSome]
    exact ⟨storeAt + off, List.mem_map.mpr ⟨0, List.mem_range.mpr hpos, rfl⟩, hd 0 hpos⟩
  refine ⟨_, exec_bar2Write hpf hne hs hb hf, ?_⟩
  have hrun : (bar2Write off bs).run s = (hostDrop a).run s := by
    rw [bar2Write, Prog.run_look]
    dsimp only
    rw [ha, cutLines_one hne (by rw [storeAt_line]; exact hl)]
    dsimp only
    rw [Prog.run_all_cons, Prog.run_all_cons, Prog.run_all_nil, Prog.run_each_cons, Prog.run_each_nil]
    obtain ⟨hx, -⟩ := hostDrop_run a s
    generalize (hostDrop a).run s = x at *
    have hdx : ∀ i, i < bs.length → x.bar2Drops (storeAt + off + i) = true := fun i hi => (hx.bar2Drops _).trans (hd i hi)
    rw [bar2Line, Prog.run_look, hx.closedAt, hc]
    dsimp only
    have hnot : ¬((List.range bs.length).all fun i => !x.bar2Drops (storeAt + off + i)) = true := fun hall => by
      have h0 := List.all_eq_true.mp hall 0 (List.mem_range.mpr hpos)
      rw [hdx 0 hpos] at h0
      exact absurd h0 (by decide)
    rw [if_neg hnot]
    have hnop : (each bs.zipIdx fun y => when (!x.bar2Drops (storeAt + off + y.2)) (storeBytes (storeAt + off + y.2) [y.1])) =
        each bs.zipIdx fun _ => Prog.nop := by
      refine congrArg all (List.map_congr_left fun y hy => ?_)
      obtain ⟨-, hlt, -⟩ := List.mem_zipIdx hy
      rw [hdx y.2 (by omega)]
      rfl
    rw [hnop]
    exact (Prog.only_each.mpr fun _ _ => trivial : (each bs.zipIdx fun _ => Prog.nop).Only fun _ => False).run (R := fun s t => t = s)
      (fun _ => rfl) (fun h k => k.trans h) (fun _ _ h => h.elim) x
  rw [hrun]
  obtain ⟨hbytes, hhost, hregs⟩ := (hostDrop_obeys a).sameRegs_of_regs s
  exact ⟨hbytes, hhost, (hostDrop_run a s).2, hregs⟩

/-! ## The scrubber -/

theorem scrubBase (s : State) : (storeAt + s.fld F.STORE_SCRUB_POS_OFFSET / 64 * 64) / 64 * 64 = storeAt + s.fld F.STORE_SCRUB_POS_OFFSET / 64 * 64 ∧
    isFar (storeAt + s.fld F.STORE_SCRUB_POS_OFFSET / 64 * 64) = false := by
  have hlt := bitsOf_lt (s.word F.STORE_SCRUB_POS_OFFSET.off).toNat 0 30
  generalize hn : s.fld F.STORE_SCRUB_POS_OFFSET = n
  replace hlt : n < 2 ^ 30 := hn ▸ hlt
  refine ⟨by rw [storeAt]; omega, ?_⟩
  rw [isFar, Bool.and_eq_false_imp]
  intro h
  rw [decide_eq_true_eq, farAt, storeAt] at h
  omega

/-- What the line that the scrubber reads brings. -/
def scrubbed (a : Nat) : EccErr → Prog
  | .none | .shared => .nop
  | .corrected => readCe a (.ticks 2500000) 0xFF 0xFF none
  | .uncorrectable => all [poisonLine a, logC 0x6006 1 41 (memDetail a 0xFF 0xFF none), poisonPage a]

theorem readCe_store {a : Nat} (ha : a / 64 * 64 = a) (hf : isFar a = false) (lim : Limit) (bench tile : Nat) (st : Option Nat) (s : State) :
    ((readCe a lim bench tile st).run s).fld F.STORE_CE = min (s.fld F.STORE_CE + 1) (2 ^ F.STORE_CE.w - 1) ∧
    ((readCe a lim bench tile st).run s).mem = s.mem ∧ ((readCe a lim bench tile st).run s).host = s.host := by
  rw [readCe]
  dsimp only
  rw [ha, hf, if_neg Bool.false_ne_true, if_neg Bool.false_ne_true, Prog.run_all_cons, Prog.run_all_cons, Prog.run_all_nil]
  have hce : ((incF F.STORE_CE).run s).fld F.STORE_CE = min (s.fld F.STORE_CE + 1) (2 ^ F.STORE_CE.w - 1) := Prog.fld_incF _ _ (by decide)
  have hm : ((incF F.STORE_CE).run s).mem = s.mem := rfl
  have hh : ((incF F.STORE_CE).run s).host = s.host := rfl
  generalize (incF F.STORE_CE).run s = x at *
  have hlog := (logLim_onlyLogs lim (memUnit a) 0x6003 0 (memUnit a) (memDetail a bench tile st) st).onlyLogs x
  exact ⟨(hlog.fld (by decide)).trans hce, hlog.mem.trans hm, hlog.host.trans hh⟩

theorem poisonLine_store {a : Nat} (ha : a / 64 * 64 = a) (hf : isFar a = false) (s : State) :
    ((poisonLine a).run s).dev.poison.contains a = true ∧ ((poisonLine a).run s).dev.log = s.dev.log ∧
    ((poisonLine a).run s).fld F.STORE_UE = min (s.fld F.STORE_UE + 1) (2 ^ F.STORE_UE.w - 1) ∧ ((poisonLine a).run s).host = s.host := by
  rw [poisonLine]
  dsimp only
  rw [ha, hf, if_neg Bool.false_ne_true, Prog.run_all_cons, Prog.run_all_cons, Prog.run_all_cons, Prog.run_all_nil]
  refine ⟨?_, rfl, ?_, rfl⟩
  · show (if s.dev.poison.contains a = true then s.dev.poison else a :: s.dev.poison).contains a = true
    split
    · assumption
    · exact List.elem_cons_self
  · exact (Prog.fld_setF_other F.STORE_UE_ADDR_OFFSET F.STORE_UE _ _ (by decide) (by decide)).trans (Prog.fld_incF F.STORE_UE _ (by decide))

theorem poisonPage_run (a : Nat) (s : State) :
    ((poisonPage a).run s).dev = s.dev ∧ ((poisonPage a).run s).regs = s.regs ∧ ((poisonPage a).run s).host = s.host := by
  rw [poisonPage, Prog.run_look]
  cases s.pageAt a with
  | none => exact ⟨rfl, rfl, rfl⟩
  | some p =>
    dsimp only
    rw [setPage, Prog.run_look, put32, putN, Prog.run_act]
    exact ⟨Act.bytes_dev _ _ _, Act.bytes_regs _ _ _, Act.bytes_host _ _ _⟩

theorem scrubbed_uncorrectable {a : Nat} (ha : a / 64 * 64 = a) (hf : isFar a = false) (s : State) :
    ((scrubbed a .uncorrectable).run s).dev.poison.contains a = true ∧ ((scrubbed a .uncorrectable).run s).dev.log.count ≠ s.dev.log.count ∧
    ((scrubbed a .uncorrectable).run s).fld F.STORE_UE = min (s.fld F.STORE_UE + 1) (2 ^ F.STORE_UE.w - 1) ∧
    ((scrubbed a .uncorrectable).run s).host = s.host := by
  rw [scrubbed, Prog.run_all_cons, Prog.run_all_cons, Prog.run_all_cons, Prog.run_all_nil]
  obtain ⟨hp, hl, hue, hh⟩ := poisonLine_store ha hf s
  generalize (poisonLine a).run s = x at *
  generalize memDetail a 0xFF 0xFF none = ds
  have hlog := logC_run_onlyLogs 0x6006 1 41 ds none x
  have hlt := logC_count_lt 0x6006 1 41 ds none x
  generalize (logC 0x6006 1 41 ds).run x = y at *
  obtain ⟨hd, hr, hho⟩ := poisonPage_run a y
  refine ⟨?_, ?_, ?_, by rw [hho, hlog.host, hh]⟩
  · rw [hd, hlog.dev]
    exact hp
  · rw [hd, ← hl]
    exact hlt.ne'
  · rw [State.fld_of_word (State.word_of_regs hr _), hlog.fld (by decide), hue]

theorem scrubbed_host (a : Nat) (e : EccErr) (s : State) : ((scrubbed a e).run s).host = s.host := by
  refine Prog.Only.host ?_ s
  have hlog : ∀ lim id code sev unit ds st, (logLim lim id code sev unit ds st).Only Act.sparesHost := fun _ _ _ _ _ _ _ =>
    (logLim_onlyLogs _ _ _ _ _ _ _).sparesHost_of_logs
  cases e with
  | none | shared => trivial
  | corrected => exact ⟨Prog.only_incF fun _ => trivial, hlog _ _ _ _ _ _ _, trivial⟩
  | uncorrectable =>
    refine ⟨?_, (logC_onlyLogs _ _ _ _ _).sparesHost_of_logs, fun s => ?_, trivial⟩
    · unfold poisonLine
      dsimp only
      split
      · exact ⟨trivial, Prog.only_incF fun _ => trivial, trivial, trivial, trivial⟩
      · exact ⟨trivial, Prog.only_incF fun _ => trivial, Prog.only_setF fun _ => trivial, trivial⟩
    · show Prog.Only _ (match s.pageAt a with | some p => setPage p 28 1 1 | none => .nop)
      cases s.pageAt a
      · trivial
      · exact fun _ => trivial

theorem scrubLine_run {s : State} (hb : s.bit F.STORE_ECC_CTL_SCRUB_EN = true) (e : EccErr) : (scrubLine e).run s =
    (setF F.STORE_SCRUB_POS_OFFSET ((s.fld F.STORE_SCRUB_POS_OFFSET / 64 * 64 + 64) % storeSize)).run
      ((scrubbed (storeAt + s.fld F.STORE_SCRUB_POS_OFFSET / 64 * 64) e).run s) := by
  rw [scrubLine, Prog.run_look, hb]
  dsimp only
  rw [Nat.add_sub_cancel_left, Prog.run_when, if_pos rfl, Prog.run_all_cons, Prog.run_all_cons, Prog.run_all_nil]
  generalize storeAt + s.fld F.STORE_SCRUB_POS_OFFSET / 64 * 64 = a
  generalize (s.fld F.STORE_SCRUB_POS_OFFSET / 64 * 64 + 64) % storeSize = n
  refine congrArg (setF F.STORE_SCRUB_POS_OFFSET n).run (congrArg (Prog.run · s) ?_)
  cases e <;> rfl

theorem scrubLine_completes {s : State} (hr : s.ready = true) (hb : s.bit F.STORE_ECC_CTL_SCRUB_EN = true) (e : EccErr) :
    Completes (.scrubLine e) s fun u =>
      u.fld F.STORE_SCRUB_POS_OFFSET = (s.fld F.STORE_SCRUB_POS_OFFSET / 64 * 64 + 64) % storeSize ∧ SameHost s u ∧
      (e = .none → SameBytes s u ∧ u.dev = s.dev ∧ SameRegsBut s u [F.STORE_SCRUB_POS_OFFSET.off]) ∧
      (e = .corrected → u.fld F.STORE_CE = min (s.fld F.STORE_CE + 1) (2 ^ F.STORE_CE.w - 1) ∧ SameBytes s u) ∧
      (e = .uncorrectable → u.dev.poison.contains (storeAt + s.fld F.STORE_SCRUB_POS_OFFSET / 64 * 64) = true ∧
        u.dev.log.count ≠ s.dev.log.count ∧ u.fld F.STORE_UE = min (s.fld F.STORE_UE + 1) (2 ^ F.STORE_UE.w - 1)) := by
  refine completes_done rfl ?_
  rw [Prog.run_when, if_pos hr, scrubLine_run hb]
  obtain ⟨ha, hf⟩ := scrubBase s
  have hhost := scrubbed_host (storeAt + s.fld F.STORE_SCRUB_POS_OFFSET / 64 * 64) e s
  generalize hp : s.fld F.STORE_SCRUB_POS_OFFSET / 64 * 64 = p at *
  have hne : ∀ f : Fld, f.off ≠ 0x3C0018 → f.lo + f.w ≤ 32 → ∀ x,
      ((setF F.STORE_SCRUB_POS_OFFSET ((p + 64) % storeSize)).run x).fld f = x.fld f := fun f hf hw x =>
    Prog.fld_setF_other F.STORE_SCRUB_POS_OFFSET f _ _ hw (.inl hf)
  refine ⟨?_, fun a => by rw [Prog.run_setF_host, hhost], fun he => ?_, fun he => ?_, fun he => ?_⟩
  · rw [Prog.fld_setF_same _ _ _ (by decide)]
    exact Nat.mod_eq_of_lt (Nat.mod_lt _ (by decide))
  · subst he
    exact ⟨fun _ => rfl, rfl, fun o ho => (Prog.only_setF fun _ e => ho (by simp [← e]) :
      (setF F.STORE_SCRUB_POS_OFFSET _).Only (Act.sparesReg o)).word s⟩
  · subst he
    obtain ⟨hce, hm, -⟩ := readCe_store ha hf (.ticks 2500000) 0xFF 0xFF none s
    exact ⟨(hne F.STORE_CE (by decide) (by decide) _).trans hce, fun a => by rw [Prog.run_setF_mem, scrubbed, hm]⟩
  · subst he
    obtain ⟨hpo, hc, hue, -⟩ := scrubbed_uncorrectable ha hf s
    exact ⟨hpo, hc, (hne F.STORE_UE (by decide) (by decide) _).trans hue⟩

/-! ## The obligation -/

/-- Settles O38: one lemma for each access and outcome. -/
theorem storeAccess : Obligations.StoreAccess :=
  ⟨fun _ _ _ => bar2Read_memory, fun _ _ _ => bar2Read_denied, fun _ _ _ _ => bar2Write_lands, fun _ _ _ _ => bar2Write_dropped,
    fun _ e hr hb => scrubLine_completes hr hb e⟩

end Sys2Proof.Machine
end

section
/-!
Writing and reading registers under their access codes (R7, R11, R357): O35.
-/
namespace Sys2Proof.Machine

/-! ## Writing the fields of a register -/

/-- What a write of `v` makes of the value `old` of a field. -/
def codedValue (f : FieldSpec) (old v : Nat) : Nat :=
  match f.acc with
  | .rw => bitsOf v f.lo f.w
  | .w1c => bitsOf old f.lo f.w - (bitsOf old f.lo f.w &&& bitsOf v f.lo f.w)
  | .w1s => bitsOf old f.lo f.w ||| bitsOf v f.lo f.w
  | _ => bitsOf old f.lo f.w

theorem fieldAfter_eq (f : FieldSpec) (old v : Nat) : fieldAfter f old v = codedValue f old v * 2 ^ f.lo := by
  unfold fieldAfter codedValue
  cases f.acc <;> rfl

theorem codedValue_lt (f : FieldSpec) (old v : Nat) : codedValue f old v < 2 ^ f.w := by
  rw [codedValue]
  have ho := bitsOf_lt old f.lo f.w
  have hn := bitsOf_lt v f.lo f.w
  cases f.acc with
  | rw => exact hn
  | w1c => exact lt_of_le_of_lt (Nat.sub_le _ _) ho
  | w1s => exact Nat.or_lt_two_pow ho hn
  | _ => exact ho

/-- Each field after a write under the access codes. -/
theorem writeFields_field {off : Nat} {f : FieldSpec} (hf : f ∈ RegMap.fields off) (v : Nat) (s : State) :
    bitsOf (((writeFields off v).run s).word off).toNat f.lo f.w = codedValue f (s.word off).toNat v := by
  obtain ⟨hs, hfit, -⟩ := RegMap.fields_fit off
  rw [writeFields, Prog.run_look, Prog.run_setWord, State.word_reg, if_pos rfl, bitsOf_word _ _ _ (hfit f hf).1, wordAfter, ← List.sum_eq_foldl]
  simp only [fieldAfter_eq]
  exact bitsOf_sum_fields (g := fun f => codedValue f (s.word off).toNat v) hs (fun x _ => codedValue_lt x _ _) hf

/-- No GEN register has a field that a write of ones clears or sets. -/
theorem RegMap.gen_acc {off : Nat} (h : off < 0x10000) {f : FieldSpec} (hf : f ∈ RegMap.fields off) : f.acc ≠ .w1c ∧ f.acc ≠ .w1s := by
  have hrows : ∀ r ∈ RegMap.rowsGen, ∀ f ∈ r.fields, f.acc ≠ .w1c ∧ f.acc ≠ .w1s := by decide
  rw [RegMap.fields, RegMap.row, RegMap.blocks, RegMap.rowIn, if_pos (by simpa using h)] at hf
  cases hr : RegMap.findRow off RegMap.rowsGen with
  | none => simp [hr] at hf
  | some r =>
    rw [hr] at hf
    exact hrows r (RegMap.findRow_mem hr) f hf

theorem codedValue_gen {off : Nat} (h : off < 0x10000) {f : FieldSpec} (hf : f ∈ RegMap.fields off) (old v : Nat) :
    codedValue f old v = if f.acc = .rw then bitsOf v f.lo f.w else bitsOf old f.lo f.w := by
  obtain ⟨hc, hset⟩ := RegMap.gen_acc h hf
  rw [codedValue]
  cases hacc : f.acc with
  | w1c => exact absurd hacc hc
  | w1s => exact absurd hacc hset
  | rw => rfl
  | _ => rw [if_neg (by decide)]

/-! ## Writes of words -/

/-- A whole-word write of a path that is not a virtual function's. -/
theorem writeWord_run {p : Path} {off : Nat} {s : State} (hp : ∀ n, p ≠ .vf n) (hr : s.reach p off = true) (ha : off % 4 = 0) (v : Nat) :
    (writeWord p off v).run s = (if (RegMap.fields off).isEmpty then badAccess p else writing p off (writeReg p off v)).run
      ((startWrite p.osrc).run s) := by
  have hr' : ((startWrite p.osrc).run s).reach p off = true := by rwa [startWrite_run, State.reach_withLedger]
  cases p with
  | vf n => exact absurd rfl (hp n)
  | _ => simp [writeWord, hr', ha]

theorem registerWrite_gen {s : State} {p : Path} {off : Nat} {v : Word} (hp : ∀ n, p ≠ .vf n) (hr : s.reach p off = true)
    (hg : off < 0x10000) (ha : off % 4 = 0) (hf : RegMap.fields off ≠ []) (hc : s.dev.ledg.cycle = []) :
    Completes (.registerWrite p off v {}) s fun u =>
      (∀ f ∈ RegMap.fields off, bitsOf (u.word off).toNat f.lo f.w =
        if f.acc = .rw then bitsOf v.toNat f.lo f.w else bitsOf (s.word off).toNat f.lo f.w) ∧
      SameRegsBut s u [off] ∧ SameBytes s u ∧ SameHost s u ∧ u.dev = { s.dev with ledg := u.dev.ledg } := by
  have hrun : (writeAs (p, off, v.toNat, .word)).run s = (writeFields off v.toNat).run ((startWrite p.osrc).run s) := by
    show (writeWord p off v.toNat).run s = _
    have hb : benchOf off = none := if_neg (by simp; omega)
    rw [writeWord_run hp hr ha, if_neg (by simpa using hf),
      writing_run_of_reach (by rw [startWrite_run, State.reach_withLedger]; exact hr) hb, writeReg, if_pos hg]
  refine ⟨_, exec_registerWrite_alone (how := .word) ?_, ?_⟩
  · rw [hrun]
    exact hc
  · rw [hrun]
    have hw : (writeFields off v.toNat).Only (Act.writes off) := fun _ => rfl
    obtain ⟨hd, hbytes, hhost, hregs⟩ := hw.onlyReg ((startWrite p.osrc).run s)
    refine ⟨fun f hm => ?_, hregs, hbytes, hhost, by rw [hd]; rfl⟩
    rw [writeFields_field hm, codedValue_gen hg hm]
    rfl

theorem registerWrite_missing {s : State} {p : Path} {off : Nat} {v : Word} (hp : ∀ n, p ≠ .vf n) (hr : s.reach p off = true)
    (ha : off % 4 = 0) (hf : RegMap.fields off = []) (hc : s.dev.ledg.cycle = []) :
    Completes (.registerWrite p off v {}) s fun u =>
      u.fld F.GEN_BAD_ACCESS_COUNT = min (s.fld F.GEN_BAD_ACCESS_COUNT + 1) 65535 ∧
      SameRegsBut s u [F.GEN_BAD_ACCESS_COUNT.off] ∧ SameBytes s u ∧ SameHost s u ∧ u.dev = { s.dev with ledg := u.dev.ledg } := by
  have hbad : badAccess p = incF F.GEN_BAD_ACCESS_COUNT := by
    cases p with
    | vf n => exact absurd rfl (hp n)
    | _ => rfl
  have hrun : (writeAs (p, off, v.toNat, .word)).run s = (incF F.GEN_BAD_ACCESS_COUNT).run ((startWrite p.osrc).run s) := by
    show (writeWord p off v.toNat).run s = _
    rw [writeWord_run hp hr ha, hf, if_pos List.isEmpty_nil, hbad]
  refine ⟨_, exec_registerWrite_alone (how := .word) ?_, ?_⟩
  · rw [hrun]
    exact hc
  · rw [hrun]
    refine ⟨(Prog.fld_incF F.GEN_BAD_ACCESS_COUNT _ (by decide)).trans rfl, fun o ho => ?_, fun _ => rfl, fun _ => rfl, rfl⟩
    exact Prog.word_incF_other (by simpa using ho) _

theorem registerWrite_poisoned {s : State} {off : Nat} {v : Word} (hr : s.reach .pf off = true) (hc : s.dev.ledg.cycle = []) :
    Completes (.registerWrite .pf off v { form := .poisoned }) s fun u =>
      u.dev.log.count ≠ s.dev.log.count ∧ SameRegsBut s u catchRegs ∧ SameBytes s u ∧ SameHost s u := by
  have hrun : (writeAs (.pf, off, v.toNat, .poisoned)).run s = (logC 0xA00C 1 43 []).run (noteDropped.run s) := by
    show (all [noteDropped, _]).run s = _
    have hr' : (noteDropped.run s).reach .pf off = true := by rwa [noteDropped_run, State.reach_withLedger]
    rw [Prog.run_all_cons, Prog.run_all_cons, Prog.run_all_nil, Prog.run_look, hr']
    rfl
  have hd : (noteDropped.run s).dev = { s.dev with ledg := { s.dev.ledg with lastStatus := 7, lastEpoch := 0 } } := rfl
  have hw : ∀ o, (noteDropped.run s).word o = s.word o := fun _ => rfl
  have hm : (noteDropped.run s).mem = s.mem := rfl
  have hh : (noteDropped.run s).host = s.host := rfl
  generalize noteDropped.run s = x at *
  have hlog := logC_run_onlyLogs 0xA00C 1 43 [] none x
  have hlt := logC_count_lt 0xA00C 1 43 [] none x
  generalize (logC 0xA00C 1 43 []).run x = u at *
  refine ⟨_, exec_registerWrite_alone (how := .poisoned) ?_, ?_⟩
  · rw [hrun, hlog.dev, hd]
    exact hc
  · rw [hrun]
    rw [hd] at hlt
    exact ⟨hlt.ne', fun o ho => (hlog.regs o ho).trans (hw o), fun a => by rw [hlog.mem, hm], fun a => by rw [hlog.host, hh]⟩

/-! ## Reading an RC register -/

theorem State.pairHigh_of_rc {s : State} {off r : Nat} {k : Kept} (hf : RegMap.fields off = [⟨0, 32, .rc, r, k⟩]) : s.pairHigh off = none := by
  by_contra hne
  obtain ⟨-, -, -, hrc, -⟩ := pairOffs_facts off (State.pairOffs_of_pairHigh (Option.isSome_iff_ne_none.mpr hne))
  rw [hf] at hrc
  exact absurd hrc (by simp)

theorem setF_whole_word (off v : Nat) (s : State) : ((setF ⟨off, 0, 32⟩ v).run s).word off = BitVec.ofNat 32 v := by
  rw [setF, Prog.run_look, Prog.run_act, State.word_reg, if_pos rfl]
  apply BitVec.eq_of_toNat_eq
  rw [BitVec.toNat_ofNat, BitVec.toNat_ofNat]
  have h := bitsOf_setBits_same (s.word off).toNat 0 32 v
  rwa [bitsOf, pow_zero, Nat.div_one] at h

theorem rcRead_completes {s : State} {p : Path} {off r : Nat} {k : Kept} {acked : Bool} (hp : ∀ n, p ≠ .vf n) (hr : s.reach p off = true)
    (ha : off % 4 = 0) (hf : RegMap.fields off = [⟨0, 32, .rc, r, k⟩]) (hh : isPairHigh off = false) (hv : s.viewOf off = none)
    (hw : s.heldWindow off = false) (hm : off ≠ F.ARR_FAB_MDATA_LO.off) :
    Completes (.rcRead p { off } { acked }) s fun u => u.dev.out = s.dev.out ++ [.reply p (toBytes 4 (s.word off).toNat)] ∧
      u.word off = (if acked then BitVec.ofNat 32 r else s.word off) ∧ SameRegsBut s u [off] ∧ SameBytes s u ∧ SameHost s u := by
  refine completes_done rfl ?_
  have hne : (RegMap.fields off).isEmpty = false := by rw [hf]; rfl
  have hread : s.readWord p off = (s.word off).toNat := by
    cases p with
    | vf n => exact absurd rfl (hp n)
    | _ => simp [State.readWord, hr, hne, hh, State.regValue, hv]
  have hkey : ∀ x : State, x.keyOf p off = some off := fun x => by
    cases p with
    | vf n => exact absurd rfl (hp n)
    | _ => simp [State.keyOf, hne]
  have hlatch : pairKey p off = off := by
    cases p with
    | vf n => exact absurd rfl (hp n)
    | _ => rfl
  rw [readCycle_run_word ha hm, hread]
  have hrun : (readEffect p off acked).run (s.replied p (toBytes 4 (s.word off).toNat)) =
      (when acked (setF ⟨off, 0, 32⟩ r)).run (s.replied p (toBytes 4 (s.word off).toNat)) := by
    have hr' : (s.replied p (toBytes 4 (s.word off).toNat)).reach p off = true := hr
    have hw' : (s.replied p (toBytes 4 (s.word off).toNat)).heldWindow off = false := hw
    have hclear : clearRc off = all [setF ⟨off, 0, 32⟩ r] := by rw [clearRc, hf]; rfl
    rw [readEffect, Prog.run_look, hr', Prog.run_when, if_pos rfl, hkey]
    dsimp only
    rw [Prog.run_all_cons, Prog.run_all_cons, Prog.run_all_nil, latchPair, Prog.run_look, hlatch, State.pairHigh_of_rc hf, Prog.run_nop, hw', hclear]
    cases acked <;> rfl
  rw [hrun]
  cases acked with
  | false => exact ⟨rfl, rfl, fun _ _ => rfl, fun _ => rfl, fun _ => rfl⟩
  | true =>
    refine ⟨rfl, setF_whole_word off r _, fun o ho => ?_, fun _ => rfl, fun _ => rfl⟩
    exact (Prog.only_setF fun _ e => ho (by simp [← e]) : (setF ⟨off, 0, 32⟩ r).Only (Act.sparesReg o)).word _

/-! ## The obligation -/

/-- Settles O35: one lemma for each access. -/
theorem registerAccess : Obligations.RegisterAccess :=
  ⟨fun _ _ _ _ => registerWrite_gen, fun _ _ _ _ => registerWrite_missing, fun _ _ _ => registerWrite_poisoned,
    fun _ _ _ _ _ _ => rcRead_completes⟩

end Sys2Proof.Machine
end

section
/-!
No fence, host reset or end of work takes a catch record back: the programs that these are made of leave the count of records or raise
it. One lemma for each program that others call.
-/
namespace Sys2Proof.Machine

/-! ## Acts -/

@[simp] theorem Act.keepsCount_dev (f : Dev → Dev) : (Act.dev f).keepsCount ↔ ∀ d, d.log.count ≤ (f d).log.count := Iff.rfl
@[simp] theorem Act.keepsCount_reg (off : Nat) (v : Word) : (Act.reg off v).keepsCount := trivial
@[simp] theorem Act.keepsCount_lose (keep : Nat → FieldSpec → Bool) : (Act.lose keep).keepsCount := trivial
@[simp] theorem Act.keepsCount_bytes (a : Nat) (bs : List Byte) : (Act.bytes a bs).keepsCount := trivial
@[simp] theorem Act.keepsCount_zero (lo hi : Nat) : (Act.zero lo hi).keepsCount := trivial
@[simp] theorem Act.keepsCount_hostBytes (a : Nat) (bs : List Byte) : (Act.hostBytes a bs).keepsCount := trivial
@[simp] theorem Act.keepsCount_draw : Act.draw.keepsCount := trivial

theorem Prog.Only.keepsCount_of_logs {p : Prog} (h : p.Only Act.logs) : p.Only Act.keepsCount :=
  h.mono fun a ha => by
    cases a with
    | dev f => exact fun d => (ha d).2
    | _ => trivial

/-! ## The shared operations -/

@[simp] theorem logC_keepsCount (code sev unit ds stream) : (logC code sev unit ds stream).Only Act.keepsCount :=
  (logC_onlyLogs code sev unit ds stream).keepsCount_of_logs
@[simp] theorem logLim_keepsCount (l id code sev unit ds stream) : (logLim l id code sev unit ds stream).Only Act.keepsCount :=
  (logLim_onlyLogs l id code sev unit ds stream).keepsCount_of_logs

@[simp] theorem modHs_keepsCount (f) : (modHs f).Only Act.keepsCount := by simp [modHs]
@[simp] theorem modPwr_keepsCount (f) : (modPwr f).Only Act.keepsCount := by simp [modPwr]
@[simp] theorem modChuck_keepsCount (f) : (modChuck f).Only Act.keepsCount := by simp [modChuck]
@[simp] theorem modSvc_keepsCount (f) : (modSvc f).Only Act.keepsCount := by simp [modSvc]
@[simp] theorem modPart_keepsCount (p f) : (modPart p f).Only Act.keepsCount := by simp [modPart]
@[simp] theorem modSlot_keepsCount (n f) : (modSlot n f).Only Act.keepsCount := by simp [modSlot]
@[simp] theorem modTile_keepsCount (t f) : (modTile t f).Only Act.keepsCount := by simp [modTile]
@[simp] theorem modIn_keepsCount (k f) : (modIn k f).Only Act.keepsCount := by simp [modIn]
@[simp] theorem modPort_keepsCount (k f) : (modPort k f).Only Act.keepsCount := by simp [modPort]
@[simp] theorem modPair_keepsCount (q f) : (modPair q f).Only Act.keepsCount := by simp [modPair]
@[simp] theorem emitOut_keepsCount (o) : (emitOut o).Only Act.keepsCount := by simp [emitOut]

@[simp] theorem drawFree_keepsCount (w f) (hf : ∀ x, (f x).Only Act.keepsCount) : (drawFree w f).Only Act.keepsCount := by
  simp [drawFree, hf]

@[simp] theorem setF_keepsCount (f v) : (setF f v).Only Act.keepsCount := by simp [setF]
@[simp] theorem setB_keepsCount (f b) : (setB f b).Only Act.keepsCount := by simp [setB]
@[simp] theorem addF_keepsCount (f n) : (addF f n).Only Act.keepsCount := by simp [addF]
@[simp] theorem incF_keepsCount (f) : (incF f).Only Act.keepsCount := by simp [incF]
@[simp] theorem setUnit_keepsCount (u st) : (setUnit u st).Only Act.keepsCount := by simp [setUnit]
@[simp] theorem bumpEpoch_keepsCount (u) : (bumpEpoch u).Only Act.keepsCount := by simp [bumpEpoch]
@[simp] theorem declareUnit_keepsCount (u st) : (declareUnit u st).Only Act.keepsCount := by simp [declareUnit]
@[simp] theorem putN_keepsCount (a n v) : (putN a n v).Only Act.keepsCount := by simp [putN]
@[simp] theorem put32_keepsCount (a v) : (put32 a v).Only Act.keepsCount := by simp [put32]
@[simp] theorem zeroFill_keepsCount (lo hi) : (zeroFill lo hi).Only Act.keepsCount := by simp [zeroFill]
@[simp] theorem storeBytes_keepsCount (a bs) : (storeBytes a bs).Only Act.keepsCount := by simp [storeBytes]
@[simp] theorem hostWrite_keepsCount (fn a bs) : (hostWrite fn a bs).Only Act.keepsCount := by simp [hostWrite]
@[simp] theorem sysDrop_keepsCount (lim a bench tile st) : (sysDrop lim a bench tile st).Only Act.keepsCount := by simp [sysDrop]

/-! ## Pages, chunks and benches -/

@[simp] theorem setPage_keepsCount (page lo w v) : (setPage page lo w v).Only Act.keepsCount := by simp [setPage]

@[simp] theorem freeIfIdle_keepsCount (page) : (freeIfIdle page).Only Act.keepsCount := by
  simp only [freeIfIdle, Prog.only_look]
  intro s
  split <;> simp

@[simp] theorem unpinPage_keepsCount (page) : (unpinPage page).Only Act.keepsCount := by simp [unpinPage]

@[simp] theorem releaseRecord_keepsCount (slot) : (releaseRecord slot).Only Act.keepsCount := by
  simp only [releaseRecord, Prog.only_look]
  intro s
  split <;> simp

@[simp] theorem gapAt_keepsCount (slot i) : (gapAt slot i).Only Act.keepsCount := by simp [gapAt]

@[simp] theorem markGap_keepsCount (slot i arrival) : (markGap slot i arrival).Only Act.keepsCount := by
  simp only [markGap, Prog.only_look]
  intro s
  split <;> simp

@[simp] theorem keepState_keepsCount (slot i) : (keepState slot i).Only Act.keepsCount := by simp [keepState]

@[simp] theorem restoreState_keepsCount (c) : (restoreState c).Only Act.keepsCount := by
  simp only [restoreState]
  split <;> simp

@[simp] theorem dropUnbound_keepsCount (slot) : (dropUnbound slot).Only Act.keepsCount := by simp [dropUnbound]

@[simp] theorem endChunkAt_keepsCount (slot i status tick fmt) : (endChunkAt slot i status tick fmt).Only Act.keepsCount := by
  simp only [endChunkAt, Prog.only_look]
  intro s
  split <;> simp [countResult]

@[simp] theorem endChunk_keepsCount (slot i status) : (endChunk slot i status).Only Act.keepsCount := by
  simp [endChunk, endChunkFmt]

@[simp] theorem dropMoves_keepsCount (b) : (dropMoves b).Only Act.keepsCount := by simp [dropMoves]

@[simp] theorem endOf_keepsCount (st c status) : (endOf st c status).Only Act.keepsCount := by
  simp only [endOf, Prog.only_look]
  intro s
  split <;> simp

@[simp] theorem endUndone_keepsCount (t status) : (endUndone t status).Only Act.keepsCount := by
  simp only [endUndone, Prog.only_look]
  intro s
  split
  · trivial
  · simp only [Prog.only_each, Prog.only_look]
    intro c _ u
    split <;> simp

@[simp] theorem fencePolicy_keepsCount (p) : (fencePolicy p).Only Act.keepsCount := by simp [fencePolicy]
@[simp] theorem fenceUnit_keepsCount (u) : (fenceUnit u).Only Act.keepsCount := by simp [fenceUnit]
@[simp] theorem liftFence_keepsCount (u) : (liftFence u).Only Act.keepsCount := by simp [liftFence]
@[simp] theorem reloadTile_keepsCount (t) : (reloadTile t).Only Act.keepsCount := by simp [reloadTile]
@[simp] theorem mergeLate_keepsCount (b a) : (mergeLate b a).Only Act.keepsCount := by simp [mergeLate]
@[simp] theorem windowWait_keepsCount (p st) : (windowWait p st).Only Act.keepsCount := by simp [windowWait]

/-! ## Transfers -/

@[simp] theorem stopAfterFault_keepsCount (t mayHalt) : (stopAfterFault t mayHalt).Only Act.keepsCount := by
  simp [stopAfterFault, logHalted]

@[simp] theorem xferFault_keepsCount (t code status rec) (hrec : rec.Only Act.keepsCount) :
    (xferFault t code status rec).Only Act.keepsCount := by
  simp [xferFault, hrec]

@[simp] theorem xferCatch_keepsCount (t code unit x) : (xferCatch t code unit x).Only Act.keepsCount := by simp [xferCatch]

@[simp] theorem keepStateAt_keepsCount (a) : (keepStateAt a).Only Act.keepsCount := by
  simp only [keepStateAt, Prog.only_look, Prog.only_each]
  intro s m _
  split <;> simp

@[simp] theorem putLine_keepsCount (t x a bs) : (putLine t x a bs).Only Act.keepsCount := by
  simp only [putLine, Prog.only_look, Prog.only_ite, Prog.only_nop]
  refine fun s => ⟨fun _ => trivial, fun _ => ?_⟩
  split
  · simp
  · refine Prog.only_ite.mpr ⟨fun _ => by simp, fun _ => Prog.only_ite.mpr ⟨fun _ => by simp, fun _ => ?_⟩⟩
    split <;> simp
  · trivial
  · simp

@[simp] theorem landLine_keepsCount (t x l bs) : (landLine t x l bs).Only Act.keepsCount := by simp [landLine]

@[simp] theorem landSome_keepsCount (t x) : (landSome t x).Only Act.keepsCount := by
  refine drawFree_keepsCount _ _ fun n => ?_
  simp only [Prog.only_look, Prog.only_each]
  intro s l _
  split <;> simp

@[simp] theorem endStart_keepsCount (t x a) : (endStart t x a).Only Act.keepsCount := by
  simp only [endStart]
  split <;> simp [routeCatch]

@[simp] theorem applyStart_keepsCount (t x r) : (applyStart t x r).Only Act.keepsCount := by simp [applyStart]

/-! ## Fences -/

@[simp] theorem abandonXfer_keepsCount (t) : (abandonXfer t).Only Act.keepsCount := by
  simp only [abandonXfer, Prog.only_look]
  intro s
  split <;> simp

@[simp] theorem abandonRides_keepsCount (b) : (abandonRides b).Only Act.keepsCount := by
  simp only [abandonRides, Prog.only_look, Prog.only_each]
  intro s y _
  split
  · split <;> simp
  · trivial

@[simp] theorem fenceBenches_keepsCount (bs code) : (fenceBenches bs code).Only Act.keepsCount := by
  simp [fenceBenches, fenceBenchOnly, freezeTile, endTileChunks, abandonOps]

end Sys2Proof.Machine
end

section
/-!
The ledger against its units, and the read positions of the catch log (R597, R598, R602, R610): O60.
-/
namespace Sys2Proof.Machine

theorem State.awake_of_ready {s : State} (h : s.ready = true) : (!s.dev.pwr.por && !s.heldReset) = true := by
  rw [State.ready, Bool.and_eq_true] at h
  exact h.1

/-! ## Reports -/

theorem ledgerCompare_run {s : State} (hr : s.ready = true) (r : Nat × Nat) :
    exec (.ledgerCompare [r] false) s = .next ((compareUnit r).run s) := by
  show done (when (!s.dev.pwr.por && !s.heldReset) (all [each [r] compareUnit, when false _])) s = _
  rw [done_eq, Prog.run_when, if_pos (State.awake_of_ready hr)]
  rfl

theorem ledgerCompare_agrees {s : State} {n st : Nat} (hr : s.ready = true) (hn : n ≤ 116) (hm : s.moving n = false)
    (h : s.unitState n = st % 16) : Completes (.ledgerCompare [(n, st)] false) s fun u =>
      (∀ m ∈ u.dev.ledg.mismatch, m.1 ≠ n) ∧ u.dev.log = s.dev.log ∧ OnlyRegs s u [] := by
  refine ⟨_, ledgerCompare_run hr _, ?_⟩
  rw [compareUnit, Prog.run_look, if_neg (by simp [hm, hn]), if_pos h]
  refine ⟨fun m hmem => ?_, rfl, fun _ _ => rfl, fun _ => rfl, fun _ => rfl⟩
  simpa using (List.mem_filter.mp hmem).2

theorem ledgerCompare_differs {s : State} {n st : Nat} (hr : s.ready = true) (hn : n ≤ 116) (hm : s.moving n = false)
    (h : s.unitState n ≠ st % 16) : Completes (.ledgerCompare [(n, st)] false) s fun u =>
      (∃ m ∈ u.dev.ledg.mismatch, m.1 = n) ∧ Counted s u F.LEDG_MISMATCHES ∧ s.dev.log.count < u.dev.log.count ∧
      OnlyRegs s u (F.LEDG_MISMATCHES.off :: catchRegs) := by
  refine ⟨_, ledgerCompare_run hr _, ?_⟩
  rw [compareUnit, Prog.run_look, if_neg (by simp [hm, hn]), if_neg h]
  iterate 3 rw [Prog.run_all_cons]
  rw [Prog.run_all_nil]
  have hlog := logC_run_onlyLogs 0xE003 1 n [] none s
  have hlt := logC_count_lt 0xE003 1 n [] none s
  generalize (logC 0xE003 1 n []).run s = x at *
  refine ⟨?_, ?_, hlt, fun o ho => ?_, fun a => by rw [← hlog.mem]; rfl, fun a => by rw [← hlog.host]; rfl⟩
  · show ∃ m ∈ (if x.dev.ledg.mismatch.any (·.1 == n) then x.dev.ledg.mismatch else (n, s.now) :: x.dev.ledg.mismatch), m.1 = n
    by_cases ha : x.dev.ledg.mismatch.any (·.1 == n) = true
    · rw [if_pos ha]
      obtain ⟨m, hmem, heq⟩ := List.any_eq_true.mp ha
      exact ⟨m, hmem, beq_iff_eq.mp heq⟩
    · rw [if_neg ha]
      exact ⟨_, List.mem_cons_self, rfl⟩
  · show ((incF F.LEDG_MISMATCHES).run x).fld F.LEDG_MISMATCHES = _
    rw [Prog.fld_incF _ _ (by decide), hlog.fld (by decide)]
  · obtain ⟨hne, hc⟩ := not_or.mp (List.mem_cons.not.mp ho)
    exact (Prog.word_incF_other hne _).trans (hlog.regs o hc)

/-- A cold reset leaves the device in the state that follows reset, with its cause. -/
theorem coldReset_status (cause : Nat) (s : State) : ((coldReset cause).run s).devState = 0 ∧
    ((coldReset cause).run s).fld F.PCK_STATUS_LASTRESET = cause % 8 := by
  rw [coldReset]
  iterate 17 rw [Prog.run_all_cons]
  rw [Prog.run_all_nil]
  generalize (setPins _).run _ = x
  refine ⟨?_, Prog.fld_setF_same F.PCK_STATUS_LASTRESET cause _ (by decide)⟩
  rw [State.devState, Prog.fld_setF_other _ _ _ _ (by decide) (by decide), Prog.fld_setF_same _ _ _ (by decide)]
  rfl

theorem coldResetNow_status (cause : Nat) (s : State) : ((coldResetNow cause).run s).devState = 0 ∧
    ((coldResetNow cause).run s).fld F.PCK_STATUS_LASTRESET = cause % 8 := by
  have hrestart : coldRestart.Only (Act.obeys (.regs [])) := by simp [coldRestart, setPins, modPwr, Bound.regs_logC]
  rw [coldResetNow, Prog.run_all_cons, Prog.run_all_cons, Prog.run_all_nil, State.devState, hrestart.flds (by decide),
    hrestart.flds (by decide)]
  exact coldReset_status cause s

theorem ledgerEcc_completes {s : State} (hr : s.ready = true) : Completes (.ledgerCompare [] true) s fun u =>
    u.devState = 0 ∧ u.fld F.PCK_STATUS_LASTRESET = 2 ∧ u.dev.hs.now = s.dev.hs.now := by
  refine completes_done rfl ?_
  rw [Prog.run_when, if_pos (State.awake_of_ready hr), Prog.run_all_cons, Prog.run_all_cons, Prog.run_all_nil, Prog.run_each_nil,
    Prog.run_when, if_pos rfl, Prog.run_all_cons, Prog.run_all_cons, Prog.run_all_nil]
  obtain ⟨hd, hl⟩ := coldResetNow_status 2 ((logC 0xF003 3 127 []).run s)
  refine ⟨hd, hl, ?_⟩
  rw [(coldResetNow_sparesNow 2).now, (logC_sparesNow _ _ _ _ _).now]

/-! ## Units that stay wrong -/

theorem clears_filter (l : List (Nat × Nat)) (n : Nat) : ∀ m ∈ l.filter (·.1 != n), m.1 ≠ n := fun m hm => by
  simpa using (List.mem_filter.mp hm).2

/-- What a stuck unit meets before it is fenced: its mismatch goes, and the fence is logged. -/
def noteStuck (n : Nat) : Prog :=
  all [modDev fun d => { d with ledg := { d.ledg with mismatch := d.ledg.mismatch.filter (·.1 != n) } }, logC 0xE004 2 n []]

structure Noted (s x : State) (n : Nat) : Prop where
  mismatch : x.dev.ledg.mismatch = s.dev.ledg.mismatch.filter (·.1 != n)
  count : s.dev.log.count < x.dev.log.count
  regs : SameRegsBut s x logRegs
  mem : x.mem = s.mem
  host : x.host = s.host

theorem noteStuck_run (n : Nat) (s : State) : Noted s ((noteStuck n).run s) n := by
  rw [noteStuck, Prog.run_all_cons, Prog.run_all_cons, Prog.run_all_nil]
  generalize hx : (modDev _).run s = x
  have hlog := logC_run_onlyLogs 0xE004 2 n [] none x
  have hlt := logC_count_lt 0xE004 2 n [] none x
  refine ⟨?_, ?_, fun o ho => (hlog.regs o ho).trans (by rw [← hx]; rfl), hlog.mem.trans (by rw [← hx]; rfl),
    hlog.host.trans (by rw [← hx]; rfl)⟩
  · rw [hlog.dev, ← hx]
    rfl
  · exact lt_of_eq_of_lt (by rw [← hx]; rfl) hlt

theorem unitStuck_run {s : State} {n t : Nat} (hr : s.ready = true) (hm : (n, t) ∈ s.dev.ledg.mismatch)
    (ht : s.reached (t + 250000) = true) : exec (.unitStuck n) s = .next ((fenceStuck n).run ((noteStuck n).run s)) := by
  have hany : (s.dev.ledg.mismatch.any fun m => m.1 == n && s.reached (m.2 + 250000)) = true :=
    List.any_eq_true.mpr ⟨_, hm, by simp [ht]⟩
  show done (when (s.ready && _) _) s = _
  rw [done_eq, Prog.run_when, if_pos (by rw [hr, hany]; rfl), noteStuck]
  simp only [Prog.run_all_cons, Prog.run_all_nil]

theorem Noted.fld {s x : State} {n : Nat} (h : Noted s x n) {f : Fld} (hf : f.off ∉ logRegs) : x.fld f = s.fld f :=
  State.fld_of_word (h.regs _ hf)

theorem unitLine_not_logged (n : Nat) (h : n ≤ 116) : 0x40100 + 4 * n ∉ logRegs := by
  simp [logRegs]
  omega

/-- The frame of a port that is unframed: its drops are counted and logged, and the ledger keeps its state. -/
abbrev unframedBound : Bound where
  dev d e := e.ledg = d.ledg ∧ d.log.count ≤ e.log.count
  reg o := o ∈ (List.range 4).map (fun k => (F.AUD_DROPS k).off) ++ logRegs
  mem := False
  host := False

theorem unframedBound_steps : unframedBound.Steps := ⟨fun _ => ⟨rfl, le_refl _⟩, fun h k => ⟨k.1.trans h.1, h.2.trans k.2⟩⟩
theorem unframedBound_logs : unframedBound.Logs := ⟨fun _ _ _ _ h => ⟨rfl, h⟩, fun _ h => List.mem_append_right _ h⟩

theorem unframePort_obeys {k : Nat} (hk : k < 4) : (unframePort k).Only (Act.obeys unframedBound) := by
  have hdrop : (incF (F.AUD_DROPS k)).Only (Act.obeys unframedBound) :=
    incF_obeys.mpr (List.mem_append_left _ (List.mem_map.mpr ⟨k, List.mem_range.mpr hk, rfl⟩))
  have hlog : ∀ l i code sev u ds st, (logLim l i code sev u ds st).Only (Act.obeys unframedBound) := unframedBound_logs.logLim
  have hin : ∀ i f, (modIn i f).Only (Act.obeys unframedBound) := fun _ _ _ => ⟨rfl, le_refl _⟩
  have hslot : ∀ n f, (modSlot n f).Only (Act.obeys unframedBound) := fun _ _ _ => ⟨rfl, le_refl _⟩
  simp [-incF_obeys, unframePort, forEntries, unframe, discard, portDrop, gapNext, hdrop, hlog, hin, hslot]

/-- What a fence of one of the units does that are neither bench nor function nor the host interface. -/
theorem fenceAny_run {n : Nat} (hn : n ∈ [41, 42, 108, 109, 110, 111, 112, 113]) {x : State} (h : x.fenced n = false) :
    ∃ q : Prog, (fenceAny n).run x = q.run ((fenceUnit n).run x) ∧ q.Only (Act.obeys unframedBound) := by
  by_cases hp : 108 ≤ n ∧ n < 112
  · obtain ⟨k, rfl⟩ := Nat.exists_eq_add_of_le hp.1
    have hsub : 108 + k - 108 = k := by omega
    refine ⟨unframePort k, ?_, unframePort_obeys (by omega)⟩
    rw [fenceAny, if_neg (by omega), if_neg (by simp), if_pos (by simp; omega), hsub, fencePort, Prog.run_look, h, Prog.run_when,
      if_pos (by rfl)]
    rfl
  · have hu : fenceAny n = fenceUnit n := by
      rw [fenceAny, if_neg (by rintro rfl; simp at hn), if_neg (by simp at hn ⊢; omega), if_neg (by simp at hn ⊢; omega)]
    exact ⟨.nop, by rw [hu]; rfl, trivial⟩

theorem fenceUnit_epoch {u : Nat} {s : State} (h : s.fenced u = false) : ((fenceUnit u).run s).epoch u = (s.epoch u + 1) % 65536 := by
  have he : ((setB (F.LEDG_UNIT_FENCED u) true).run s).epoch u = s.epoch u :=
    Prog.fld_setF_other (F.LEDG_UNIT_FENCED u) (F.LEDG_UNIT_EPOCH u) _ _ (by decide : (16 : ℕ) + 16 ≤ 32)
      (.inr (.inr (by decide : (6 : ℕ) + 1 ≤ 16)))
  rw [fenceUnit, Prog.run_look, h, Prog.run_when, if_pos (by rfl), Prog.run_all_cons, Prog.run_all_cons, Prog.run_all_nil, bumpEpoch, Prog.run_look,
    he]
  exact Prog.fld_setF_same (F.LEDG_UNIT_EPOCH u) _ _ (by decide : (16 : ℕ) + 16 ≤ 32)

theorem unitStuck_fences {s : State} {n t : Nat} (hr : s.ready = true) (hm : (n, t) ∈ s.dev.ledg.mismatch)
    (ht : s.reached (t + 250000) = true) (hn : n ∈ [41, 42, 108, 109, 110, 111, 112, 113]) (hf : s.fenced n = false) :
    Completes (.unitStuck n) s fun u => u.fenced n = true ∧ u.epoch n = (s.epoch n + 1) % 65536 ∧ (∀ m ∈ u.dev.ledg.mismatch, m.1 ≠ n) ∧
      s.dev.log.count < u.dev.log.count ∧
      OnlyRegs s u ((F.LEDG_UNIT_STATE n).off :: (List.range 4).map (fun k => (F.AUD_DROPS k).off) ++ catchRegs) := by
  have hle : 41 ≤ n ∧ n ≤ 113 := by simp at hn; omega
  have hline : ¬unframedBound.reg (0x40100 + 4 * n) := by
    simp [logRegs]
    exact ⟨fun k _ => by omega, by omega⟩
  refine ⟨_, unitStuck_run hr hm ht, ?_⟩
  rw [fenceStuck, if_neg (by omega), if_neg (by omega), if_neg (by simp at hn ⊢; omega)]
  have hnote := noteStuck_run n s
  generalize (noteStuck n).run s = x at *
  have hfx : x.fenced n = false := (congrArg (· == 1) (hnote.fld (f := F.LEDG_UNIT_FENCED n) (unitLine_not_logged n (by omega)))).trans hf
  have hex : x.epoch n = s.epoch n := hnote.fld (f := F.LEDG_UNIT_EPOCH n) (unitLine_not_logged n (by omega))
  obtain ⟨q, hrun, hq⟩ := fenceAny_run hn hfx
  have hunit := fenceUnit_line n x
  have hfenced := (fenceUnit_run n x).1
  have hepoch := fenceUnit_epoch hfx
  rw [hrun]
  generalize (fenceUnit n).run x = y at *
  obtain ⟨hledg, hcount⟩ := hq.devs unframedBound_steps y
  refine ⟨?_, ?_, fun m hmem => ?_, ?_, fun o ho => ?_, fun a => ?_, fun a => ?_⟩
  · exact (hq.bits hline y).trans hfenced
  · exact ((hq.flds hline y).trans hepoch).trans (by rw [hex])
  · rw [hledg, hunit.dev, hnote.mismatch] at hmem
    exact clears_filter _ n m hmem
  · rw [hunit.dev] at hcount
    exact lt_of_lt_of_le hnote.count hcount
  · simp only [List.cons_append, List.mem_cons, List.mem_append, not_or] at ho
    obtain ⟨hne, hdrops, hcatch⟩ := ho
    rw [hq.words (by simpa only [List.mem_append, not_or] using ⟨hdrops, hcatch⟩), hunit.words o hne]
    exact hnote.regs o hcatch
  · exact (hq.sameBytes_of_obeys id y a).trans (by rw [hunit.mem, hnote.mem])
  · exact (hq.sameHost_of_obeys id y a).trans (by rw [hunit.host, hnote.host])

/-! ## Benches that stay wrong -/

/-- The ledger's line of a bench that is fenced, and its fence register. -/
def markFenced (b code : Nat) : Prog :=
  all [setUnit b bFenced, setB (F.LEDG_UNIT_FENCED b) true, setB (F.LEDG_UNIT_PENDING b) false, bumpEpoch b,
    setF (F.BENCH_FENCE_CODE b) code, setB (F.BENCH_FENCE_FENCED b) true]

theorem markFenced_run {b : Nat} (hb : b < 32) (code : Nat) (s : State) : ((markFenced b code).run s).unitState b = 4 ∧
    ((markFenced b code).run s).fenced b = true ∧ ((markFenced b code).run s).fld (F.BENCH_FENCE_CODE b) = code % 2 ^ 16 := by
  have hoff : (F.LEDG_UNIT_STATE b).off ≠ (F.BENCH_FENCE_CODE b).off := by
    show 0x40100 + 4 * b ≠ 0x108004 + 0x10000 * b
    omega
  rw [markFenced]
  iterate 6 rw [Prog.run_all_cons]
  rw [Prog.run_all_nil]
  refine ⟨?_, ?_, ?_⟩
  · rw [State.unitState, setB, setB, setB,
      Prog.fld_setF_other (F.BENCH_FENCE_FENCED b) (F.LEDG_UNIT_STATE b) _ _ (by decide : (0 : ℕ) + 4 ≤ 32) (.inl hoff),
      Prog.fld_setF_other (F.BENCH_FENCE_CODE b) (F.LEDG_UNIT_STATE b) _ _ (by decide : (0 : ℕ) + 4 ≤ 32) (.inl hoff), bumpEpoch, Prog.run_look,
      Prog.fld_setF_other (F.LEDG_UNIT_EPOCH b) (F.LEDG_UNIT_STATE b) _ _ (by decide : (0 : ℕ) + 4 ≤ 32) (.inr (.inl (by decide : (0 : ℕ) + 4 ≤ 16))),
      Prog.fld_setF_other (F.LEDG_UNIT_PENDING b) (F.LEDG_UNIT_STATE b) _ _ (by decide : (0 : ℕ) + 4 ≤ 32) (.inr (.inl (by decide : (0 : ℕ) + 4 ≤ 7))),
      Prog.fld_setF_other (F.LEDG_UNIT_FENCED b) (F.LEDG_UNIT_STATE b) _ _ (by decide : (0 : ℕ) + 4 ≤ 32) (.inr (.inl (by decide : (0 : ℕ) + 4 ≤ 6))),
      setUnit, Prog.fld_setF_same _ _ _ (by decide : (0 : ℕ) + 4 ≤ 32)]
    rfl
  · rw [setB.eq_1 (F.BENCH_FENCE_FENCED b), setB.eq_1 (F.LEDG_UNIT_PENDING b)]
    refine Eq.trans (congrArg (· == 1) ?_)
      (Prog.bit_setB_same (f := F.LEDG_UNIT_FENCED b) rfl (by decide : (6 : ℕ) + 1 ≤ 32) true ((setUnit b bFenced).run s))
    rw [Prog.fld_setF_other (F.BENCH_FENCE_FENCED b) (F.LEDG_UNIT_FENCED b) _ _ (by decide : (6 : ℕ) + 1 ≤ 32) (.inl hoff),
      Prog.fld_setF_other (F.BENCH_FENCE_CODE b) (F.LEDG_UNIT_FENCED b) _ _ (by decide : (6 : ℕ) + 1 ≤ 32) (.inl hoff), bumpEpoch, Prog.run_look,
      Prog.fld_setF_other (F.LEDG_UNIT_EPOCH b) (F.LEDG_UNIT_FENCED b) _ _ (by decide : (6 : ℕ) + 1 ≤ 32) (.inr (.inl (by decide : (6 : ℕ) + 1 ≤ 16))),
      Prog.fld_setF_other (F.LEDG_UNIT_PENDING b) (F.LEDG_UNIT_FENCED b) _ _ (by decide : (6 : ℕ) + 1 ≤ 32) (.inr (.inl (by decide : (6 : ℕ) + 1 ≤ 7)))]
  · rw [setB.eq_1 (F.BENCH_FENCE_FENCED b), Prog.fld_setF_other (F.BENCH_FENCE_FENCED b) (F.BENCH_FENCE_CODE b) _ _ (by decide : (0 : ℕ) + 16 ≤ 32)
      (.inr (.inl (by decide : (0 : ℕ) + 16 ≤ 16)))]
    exact Prog.fld_setF_same (F.BENCH_FENCE_CODE b) code _ (by decide : (0 : ℕ) + 16 ≤ 32)

/-- What a fence does to a bench before its ledger line says so: its work ends. -/
def stopBench (b : Nat) : Prog :=
  all [each (tilesOf b) abandonXfer, abandonRides b, each (tilesOf b) fun t => endTileChunks t stFenced, each (tilesOf b) freezeTile,
    each (tilesOf b) abandonOps, each (tilesOf b) fun t => modTile t Tile.stopped, dropMoves b]

theorem fenceBenchOnly_run {b : Nat} {s : State} (h : s.fenced b = false) (code : Nat) : (fenceBenchOnly b code).run s =
    (logC 0x8001 2 b [code, (s.benchPart b).getD 0xFF]).run ((markFenced b code).run ((stopBench b).run s)) := by
  rw [fenceBenchOnly, Prog.run_look, Prog.run_when, h, if_pos (by rfl), markFenced, stopBench]
  iterate 14 rw [Prog.run_all_cons]
  rw [Prog.run_all_nil]
  iterate 6 rw [Prog.run_all_cons]
  rw [Prog.run_all_nil]
  iterate 7 rw [Prog.run_all_cons]
  rw [Prog.run_all_nil]

theorem fencePolicy_obeys (p : Nat) : (fencePolicy p).Only (Act.obeys (.regs [])) := by
  simp only [fencePolicy, Prog.only_look, Prog.only_when, Prog.only_ite]
  exact fun _ _ => ⟨fun _ _ => trivial, fun _ => (Bound.regs_logs []).logLim (.ticks 1) (32 + p) 0x8003 1 (32 + p) [] none⟩

theorem fenceBenches_one {b : Nat} (hb : b < 32) {s : State} (h : s.fenced b = false) (code : Nat) :
    ((fenceBenches [b] code).run s).unitState b = 4 ∧ ((fenceBenches [b] code).run s).fenced b = true ∧
    ((fenceBenches [b] code).run s).fld (F.BENCH_FENCE_CODE b) = code % 2 ^ 16 := by
  have hfresh : [b].filter (fun b => !s.fenced b) = [b] := by simp [h]
  rw [fenceBenches, Prog.run_look, hfresh]
  dsimp only
  rw [Prog.run_all_cons, Prog.run_all_cons, Prog.run_all_nil, Prog.run_each_cons, Prog.run_each_nil, fenceBenchOnly_run h]
  have hpolicy : (each (partIds.filter fun p => [b].any fun b => s.benchPart b == some p) fencePolicy).Only (Act.obeys (.regs [])) := by
    simp [fencePolicy_obeys]
  have hline : 0x40100 + 4 * b ∉ logRegs := unitLine_not_logged b (by omega)
  have hreg : 0x108004 + 0x10000 * b ∉ logRegs := by
    simp [logRegs]
    omega
  obtain ⟨hst, hf, hc⟩ := markFenced_run hb code ((stopBench b).run s)
  generalize (markFenced b code).run _ = x at *
  refine ⟨?_, ?_, ?_⟩
  · rw [State.unitState, hpolicy.flds (by exact hline), logC_fld _ _ _ _ _ _ hline]
    exact hst
  · rw [State.fenced, hpolicy.bits (by exact hline), logC_bit _ _ _ _ _ _ hline]
    exact hf
  · rw [hpolicy.flds (by exact hreg), logC_fld _ _ _ _ _ _ hreg]
    exact hc

theorem unitStuck_bench {s : State} {n t : Nat} (hr : s.ready = true) (hm : (n, t) ∈ s.dev.ledg.mismatch)
    (ht : s.reached (t + 250000) = true) (hn : n < 32) (hf : s.fenced n = false) : Completes (.unitStuck n) s fun u =>
      u.unitState n = 4 ∧ u.fenced n = true ∧ u.fld (F.BENCH_FENCE_CODE n) = 0xE004 ∧ s.dev.log.count < u.dev.log.count := by
  refine ⟨_, unitStuck_run hr hm ht, ?_⟩
  rw [fenceStuck, if_pos hn]
  have hnote := noteStuck_run n s
  generalize (noteStuck n).run s = x at *
  have hfx : x.fenced n = false :=
    (congrArg (· == 1) (hnote.fld (f := F.LEDG_UNIT_FENCED n) (unitLine_not_logged n (by omega)))).trans hf
  obtain ⟨hst, hfenced, hcode⟩ := fenceBenches_one hn hfx 0xE004
  exact ⟨hst, hfenced, hcode, lt_of_lt_of_le hnote.count ((fenceBenches_keepsCount [n] 0xE004).count_le x)⟩

/-! ## Read positions -/

theorem State.clampPos_lt (s : State) (x : Word) : s.clampPos x < 2 ^ 32 := by
  rw [State.clampPos]
  split
  · exact x.isLt
  · split
    · exact BitVec.isLt _
    · exact BitVec.isLt _

/-- The part of a write of read position 0 that follows the position. -/
def armZero (k : Nat) : Prog :=
  when (k == 0) (all [modLog fun l => { l with armed := true },
    look fun s => when (s.unreadAlarm && s.linkUp && !s.inRest) (all [modLog fun l => { l with armed := false }, sendMsix 0 0])])

theorem armZero_obeys (k : Nat) : (armZero k).Only (Act.obeys (.quiet [0x38000])) := by
  have hpba : (msixPba 0 0).off = 0x38000 := rfl
  simp [armZero, modLog, sendMsix, emitOut, hpba]

theorem catchRposWrite_owner {s : State} {p : Path} {k : Nat} {v : Word} (hk : k < 4) (hr : s.reach p (F.CATCH_RPOS k).off = true)
    (ho : ownsRpos k p = true) : Completes (.catchRposWrite p k v) s fun u =>
      u.fld (F.CATCH_RPOS k) = s.clampPos v ∧ (k = 0 ∨ u.dev = s.dev) ∧ OnlyRegs s u [(F.CATCH_RPOS k).off, 0x38000] := by
  have hb : benchOf (F.CATCH_RPOS k).off = none := if_neg (by simp; omega)
  refine completes_done rfl ?_
  rw [Prog.run_when, if_pos (by simpa using hk), writing_run_of_reach hr hb, writeRpos, if_pos ho, Prog.run_all_cons, Prog.run_all_cons,
    Prog.run_all_nil, Prog.run_look]
  have hset := Prog.fld_setF_same (F.CATCH_RPOS k) (s.clampPos v) s (by decide : (0 : ℕ) + 32 ≤ 32)
  have hother : ∀ o, o ≠ (F.CATCH_RPOS k).off → ((setF (F.CATCH_RPOS k) (s.clampPos v)).run s).word o = s.word o := fun o h =>
    (Prog.only_setF fun _ => Ne.symm h : (setF (F.CATCH_RPOS k) (s.clampPos v)).Only (Act.sparesReg o)).word s
  have hdev : ((setF (F.CATCH_RPOS k) (s.clampPos v)).run s).dev = s.dev := rfl
  have hmem : ((setF (F.CATCH_RPOS k) (s.clampPos v)).run s).mem = s.mem := rfl
  have hhost : ((setF (F.CATCH_RPOS k) (s.clampPos v)).run s).host = s.host := rfl
  generalize (setF (F.CATCH_RPOS k) (s.clampPos v)).run s = x at *
  obtain ⟨hregs, hbytes, hhosts⟩ := (armZero_obeys k).sameRegs_of_quiet x
  show ((armZero k).run x).fld _ = _ ∧ _
  refine ⟨?_, ?_, fun o h => ?_, fun a => (hbytes a).trans (by rw [hmem]), fun a => (hhosts a).trans (by rw [hhost])⟩
  · rw [(armZero_obeys k).flds (by show ¬(_ ∈ [0x38000]); simp; omega), hset, Nat.mod_eq_of_lt (s.clampPos_lt v)]
  · by_cases h0 : k = 0
    · exact .inl h0
    · refine .inr ?_
      rw [Prog.run_when, if_neg (by simpa using h0), hdev]
  · simp only [List.mem_cons, List.not_mem_nil, or_false, not_or] at h
    exact (hregs o (by simpa using h.2)).trans (hother o h.1)

theorem catchRposWrite_other {s : State} {p : Path} {k : Nat} {v : Word} (hk : k < 4) (hr : s.reach p (F.CATCH_RPOS k).off = true)
    (ho : ownsRpos k p = false) (hp : ∀ n, p ≠ .vf n) : Completes (.catchRposWrite p k v) s fun u =>
      Counted s u F.GEN_BAD_ACCESS_COUNT ∧ OnlyRegs s u [F.GEN_BAD_ACCESS_COUNT.off] := by
  have hb : benchOf (F.CATCH_RPOS k).off = none := if_neg (by simp; omega)
  have hbad : badAccess p = incF F.GEN_BAD_ACCESS_COUNT := by
    cases p with
    | vf n => exact absurd rfl (hp n)
    | _ => rfl
  refine completes_done rfl ?_
  rw [Prog.run_when, if_pos (by simpa using hk), writing_run_of_reach hr hb, writeRpos, if_neg (by simp [ho]), Prog.run_all_cons,
    Prog.run_all_cons, Prog.run_all_nil, hbad]
  refine ⟨(Prog.fld_incF F.GEN_BAD_ACCESS_COUNT _ (by decide)).trans rfl, fun o h => ?_, fun _ => rfl, fun _ => rfl⟩
  exact Prog.word_incF_other (by simpa using h) _

/-- Settles O60: one lemma for each command and outcome. -/
theorem ledgerAndReadPositions : Obligations.LedgerAndReadPositions :=
  ⟨fun _ _ _ => ledgerCompare_agrees, fun _ _ _ => ledgerCompare_differs, fun _ hr _ => ledgerEcc_completes hr,
    fun _ _ _ => unitStuck_fences, fun _ _ _ => unitStuck_bench, fun _ _ _ _ => catchRposWrite_owner, fun _ _ _ _ => catchRposWrite_other⟩

end Sys2Proof.Machine
end

section
/-!
The bulk endpoints of the USB port (R537, R538): O53.
-/
namespace Sys2Proof.Machine

/-! ## EP1 -/

theorem exec_usbEp1Packet {s : State} {bytes : List Byte} (h4 : s.unitState 116 = 4) (hl : bytes.length ≤ s.bulkSize) :
    exec (.usbEp1Packet bytes) s = .next ((ep1 bytes).run s) := by
  show done (when (s.usb == 4 && decide (bytes.length ≤ s.bulkSize)) (ep1 bytes)) s = _
  rw [done_eq, Prog.run_when, if_pos (by rw [State.usb, h4, decide_eq_true hl]; rfl)]

theorem usbEp1Packet_taken {s : State} {bytes : List Byte} {l : Load} (h4 : s.unitState 116 = 4) (hlen : bytes.length ≤ s.bulkSize)
    (hh : s.dev.svc.usbHalt % 2 = 0) (hl : s.dev.chuck.load = some l) (hs : l.src = 3) (hc : s.fld F.IMG_STATUS_CHUCK = 1)
    (hn : l.complete = false) : Completes (.usbEp1Packet bytes) s fun u =>
      u.dev.chuck = { s.dev.chuck with load := some { l with bytes := l.got bytes, lastData := s.now } } ∧
      u.fld F.IMG_DONE = (l.got bytes).length % 2 ^ F.IMG_DONE.w ∧ OnlyRegs s u [F.IMG_DONE.off] := by
  have hopen : s.ep1Open = true := by simp [State.ep1Open, hl, hs, hc, hn, srcUsb]
  refine ⟨_, exec_usbEp1Packet h4 hlen, ?_⟩
  rw [ep1, Prog.run_look, if_neg (by omega), hopen, if_neg (by simp), Prog.run_all_cons, Prog.run_all_cons, Prog.run_all_nil,
    Prog.run_when, hl, if_neg (by simp), loadBytes_run hl]
  refine ⟨rfl, Prog.fld_setF_same F.IMG_DONE _ _ (by decide), fun o ho => ?_, fun _ => rfl, fun _ => rfl⟩
  exact (Prog.only_setF fun _ e => ho (by simp [← e]) : (setF F.IMG_DONE _).Only (Act.sparesReg o)).word _

theorem usbEp1Packet_closed {s : State} {bytes : List Byte} (h4 : s.unitState 116 = 4) (hlen : bytes.length ≤ s.bulkSize)
    (hh : s.dev.svc.usbHalt % 2 = 0) (hn : s.ep1Open = false) : Completes (.usbEp1Packet bytes) s fun u =>
      Sends s u [.nak .usb] ∧ OnlyRegs s u [] := by
  refine ⟨_, exec_usbEp1Packet h4 hlen, ?_⟩
  rw [ep1, Prog.run_look, if_neg (by omega), hn, if_pos (by rfl)]
  exact ⟨rfl, fun _ _ => rfl, fun _ => rfl, fun _ => rfl⟩

/-! ## EP2 -/

/-- A packet of the record that EP2 sends, which leaves the rest of it. -/
def ep2Send (k : Option Nat) (bs : List Byte) (size : Nat) : Prog :=
  all [emitOut (.reply .usb (bs.take size)), modSvc fun v => { v with ep2 := if (bs.drop size).isEmpty then none else some (k, bs.drop size) }]

theorem usbEp2Ack_run {s : State} {k : Option Nat} {bs : List Byte} (h4 : s.unitState 116 = 4) (hh : s.dev.svc.usbHalt / 2 % 2 = 0)
    (h : s.dev.svc.ep2 = some (k, bs) ∨ (s.dev.svc.ep2 = none ∧ s.ep2Next = some (k, bs))) :
    exec .usbEp2Ack s = .next ((when (bs.drop s.bulkSize).isEmpty (ep2Sent k)).run ((ep2Send k bs s.bulkSize).run s)) := by
  show done (when (s.usb == 4 && s.dev.svc.usbHalt / 2 % 2 == 0) ep2Packet) s = _
  rw [done_eq, Prog.run_when, if_pos (by rw [State.usb, h4, hh]; rfl), ep2Packet, Prog.run_look, ep2Send]
  rcases h with h | ⟨h, hnext⟩
  · rw [h]
    rfl
  · rw [h, hnext]
    rfl

theorem ep2Send_run (k : Option Nat) (bs : List Byte) (size : Nat) (s : State) :
    ((ep2Send k bs size).run s).dev.out = s.dev.out ++ [.reply .usb (bs.take size)] ∧
    ((ep2Send k bs size).run s).dev.svc.ep2 = (if bs.length ≤ size then none else some (k, bs.drop size)) ∧
    ((ep2Send k bs size).run s).dev.svc.samples = s.dev.svc.samples ∧ (∀ o, ((ep2Send k bs size).run s).word o = s.word o) ∧
    ((ep2Send k bs size).run s).mem = s.mem ∧ ((ep2Send k bs size).run s).host = s.host := by
  refine ⟨rfl, ?_, rfl, fun _ => rfl, rfl, rfl⟩
  show (if (bs.drop size).isEmpty then none else some (k, bs.drop size)) = _
  simp only [List.isEmpty_iff, List.drop_eq_nil_iff]

theorem usbEp2Ack_completes {s : State} {k : Option Nat} {bs : List Byte} (h4 : s.unitState 116 = 4) (hh : s.dev.svc.usbHalt / 2 % 2 = 0)
    (h : s.dev.svc.ep2 = some (k, bs) ∨ (s.dev.svc.ep2 = none ∧ s.ep2Next = some (k, bs))) : Completes .usbEp2Ack s fun u =>
      u.dev.out = s.dev.out ++ [.reply .usb (bs.take s.bulkSize)] ∧
      u.dev.svc.ep2 = (if bs.length ≤ s.bulkSize then none else some (k, bs.drop s.bulkSize)) ∧
      (s.bulkSize < bs.length → u.dev.svc.samples = s.dev.svc.samples ∧ OnlyRegs s u []) ∧
      (bs.length ≤ s.bulkSize → k = none → u.dev.svc.samples = s.dev.svc.samples.drop 1 ∧ OnlyRegs s u []) ∧
      (∀ n, bs.length ≤ s.bulkSize → k = some n → n = s.fld (F.CATCH_RPOS 2) → u.fld (F.CATCH_RPOS 2) = (n + 1) % 2 ^ 32 ∧
        u.dev.svc.samples = s.dev.svc.samples ∧ OnlyRegs s u [(F.CATCH_RPOS 2).off]) := by
  refine ⟨_, usbEp2Ack_run h4 hh h, ?_⟩
  obtain ⟨hout, hep, hsam, hword, hmem, hhost⟩ := ep2Send_run k bs s.bulkSize s
  generalize (ep2Send k bs s.bulkSize).run s = x at *
  have honly : OnlyRegs s x [] := ⟨fun o _ => hword o, fun a => by rw [hmem], fun a => by rw [hhost]⟩
  have hempty : (bs.drop s.bulkSize).isEmpty = decide (bs.length ≤ s.bulkSize) := by
    rw [Bool.eq_iff_iff]
    simp only [List.isEmpty_iff, List.drop_eq_nil_iff, decide_eq_true_eq]
  rw [Prog.run_when, hempty]
  by_cases hle : bs.length ≤ s.bulkSize
  · rw [if_pos (decide_eq_true hle)]
    cases k with
    | none =>
      refine ⟨hout, hep, fun hlt => absurd hle (Nat.not_le.mpr hlt), fun _ _ => ⟨congrArg (List.drop 1) hsam, ?_⟩, fun n _ hk => by cases hk⟩
      exact ⟨honly.regs, honly.bytes, honly.host⟩
    | some n =>
      have hkeep : ((ep2Sent (some n)).run x).dev = x.dev ∧ ((ep2Sent (some n)).run x).mem = x.mem ∧
          ((ep2Sent (some n)).run x).host = x.host := by
        rw [ep2Sent, Prog.run_look, Prog.run_when]
        split <;> exact ⟨rfl, rfl, rfl⟩
      obtain ⟨hd, hm, hho⟩ := hkeep
      refine ⟨by rw [hd, hout], by rw [hd, hep], fun hlt => absurd hle (Nat.not_le.mpr hlt), fun _ hk => (Option.some_ne_none n hk).elim, fun m _ hk hn => ?_⟩
      obtain rfl := Option.some.inj hk
      have hpos : x.fld (F.CATCH_RPOS 2) = n := (State.fld_of_word (hword _)).trans hn.symm
      refine ⟨?_, by rw [hd, hsam], fun o ho => ?_, fun a => by rw [hm, hmem], fun a => by rw [hho, hhost]⟩
      · rw [ep2Sent, Prog.run_look, Prog.run_when, hpos, if_pos (beq_self_eq_true _)]
        exact Prog.fld_setF_same (F.CATCH_RPOS 2) _ x (by decide : (0 : ℕ) + 32 ≤ 32)
      · have hsp : (ep2Sent (some n)).Only (Act.sparesReg o) := fun _ => Prog.only_when.mpr fun _ => Prog.only_setF fun _ e => ho (by simp [← e])
        rw [hsp.word, hword]
  · rw [if_neg (by simpa using hle)]
    exact ⟨hout, hep, fun _ => ⟨hsam, honly⟩, fun h => absurd h hle, fun _ h => absurd h hle⟩

/-! ## Register samples -/

/-- What a register shows does not depend on when the last sample was taken. -/
theorem State.sampleBody_modStrm (s : State) (n : Nat) :
    ({ s with dev := { s.dev with svc := { s.dev.svc with strmAt := n } } } : State).sampleBody = s.sampleBody := by
  have hview : ∀ off, ({ s with dev := { s.dev with svc := { s.dev.svc with strmAt := n } } } : State).viewOf off = s.viewOf off :=
    fun _ => rfl
  have hval : ∀ off, ({ s with dev := { s.dev with svc := { s.dev.svc with strmAt := n } } } : State).regValue off = s.regValue off :=
    fun off => congrArg (fun v : Option Nat => v.getD (s.word off).toNat) (hview off)
  simp only [State.sampleBody, hval]
  rfl

/-- The state in which the time of the sample is noted. -/
def State.strmNoted (s : State) : State :=
  { s with dev := { s.dev with svc := { s.dev.svc with strmAt := s.dev.svc.strmAt + s.samplePeriod } } }

theorem exec_usbStreamSample {s : State} (hr : s.ready = true) (hd : s.sampleDue = true) :
    exec .usbStreamSample s = .next (takeSample.run s.strmNoted) := by
  show done (when (s.ready && s.sampleDue) _) s = _
  rw [done_eq, Prog.run_when, if_pos (by rw [hr, hd]; rfl)]
  rfl

theorem usbStreamSample_queued {s : State} (hr : s.ready = true) (hd : s.sampleDue = true) (hl : s.dev.svc.samples.length < 16) :
    Completes .usbStreamSample s fun u => u.dev = { s.dev with svc := { s.dev.svc with
        samples := s.dev.svc.samples ++ [s.sampleBody], strmAt := s.dev.svc.strmAt + s.samplePeriod } } ∧ OnlyRegs s u [] := by
  refine ⟨_, exec_usbStreamSample hr hd, ?_⟩
  have hfull : decide (16 ≤ s.strmNoted.dev.svc.samples.length) = false := decide_eq_false (Nat.not_le.mpr hl)
  rw [takeSample, Prog.run_look]
  dsimp only
  rw [hfull, Prog.run_all_cons, Prog.run_all_cons, Prog.run_all_nil, Prog.run_when, if_neg Bool.false_ne_true]
  simp only [Bool.false_eq_true, if_false]
  rw [State.strmNoted, State.sampleBody_modStrm]
  exact ⟨rfl, fun _ _ => rfl, fun _ => rfl, fun _ => rfl⟩

theorem usbStreamSample_full {s : State} (hr : s.ready = true) (hd : s.sampleDue = true) (hl : s.dev.svc.samples.length = 16)
    (he : s.dev.svc.ep2 = none) : Completes .usbStreamSample s fun u => u.dev.svc = { s.dev.svc with
        samples := s.dev.svc.samples.drop 1 ++ [s.sampleBody], strmAt := s.dev.svc.strmAt + s.samplePeriod } ∧
      Counted s u F.USB_STRM_DROPS ∧ OnlyRegs s u (F.USB_STRM_DROPS.off :: catchRegs) := by
  refine ⟨_, exec_usbStreamSample hr hd, ?_⟩
  have hfull : decide (16 ≤ s.strmNoted.dev.svc.samples.length) = true := decide_eq_true (ge_of_eq hl)
  have hidle : (s.strmNoted.dev.svc.ep2.any fun e => e.1.isNone) = false := by
    show (s.dev.svc.ep2.any _) = false
    rw [he]
    rfl
  rw [takeSample, Prog.run_look]
  dsimp only
  rw [hfull, hidle, Prog.run_all_cons, Prog.run_all_cons, Prog.run_all_nil, Prog.run_when, if_pos rfl, Prog.run_all_cons, Prog.run_all_cons,
    Prog.run_all_nil]
  simp only [if_true, dropOldest, Bool.false_eq_true, if_false]
  rw [State.strmNoted, State.sampleBody_modStrm]
  generalize hx : (modSvc _).run _ = x
  have hsvc : x.dev.svc = { s.dev.svc with
      samples := s.dev.svc.samples.drop 1 ++ [s.sampleBody], strmAt := s.dev.svc.strmAt + s.samplePeriod } := by rw [← hx]; rfl
  have hword : ∀ o, x.word o = s.word o := fun o => by rw [← hx]; rfl
  have hmem : x.mem = s.mem := by rw [← hx]; rfl
  have hhost : x.host = s.host := by rw [← hx]; rfl
  have hcount := Prog.fld_incF F.USB_STRM_DROPS x (by decide)
  have hinc : ∀ o, o ≠ F.USB_STRM_DROPS.off → ((incF F.USB_STRM_DROPS).run x).word o = x.word o := fun o ho => Prog.word_incF_other ho _
  have hid : ((incF F.USB_STRM_DROPS).run x).dev = x.dev := rfl
  have him : ((incF F.USB_STRM_DROPS).run x).mem = x.mem := rfl
  have hih : ((incF F.USB_STRM_DROPS).run x).host = x.host := rfl
  generalize (incF F.USB_STRM_DROPS).run x = y at *
  have hlog := (logLim_onlyLogs (.ticks 2500000) 116 0xC034 0 116 [] none).onlyLogs y
  rw [logSvc, if_pos rfl]
  generalize (logLim _ _ _ _ _ _ _).run y = u at *
  refine ⟨by rw [hlog.dev, hid, hsvc], ?_, fun o ho => ?_, fun a => by rw [hlog.mem, him, hmem], fun a => by rw [hlog.host, hih, hhost]⟩
  · rw [Counted, hlog.fld (by decide), hcount, State.fld_of_word (hword _)]
  · obtain ⟨hne, hc⟩ := not_or.mp (List.mem_cons.not.mp ho)
    rw [hlog.regs o hc, hinc o hne, hword]

/-! ## The obligation -/

/-- Settles O53: one lemma for each endpoint and outcome. -/
theorem usbEndpoints : Obligations.UsbEndpoints :=
  ⟨fun _ _ _ _ h4 hlen hh hl hs hc hn => usbEp1Packet_taken h4 hlen hh hl hs hc hn, fun _ _ => usbEp1Packet_closed,
    fun _ _ _ => usbEp2Ack_completes, fun _ => usbStreamSample_queued, fun _ => usbStreamSample_full⟩

end Sys2Proof.Machine
end

section
/-!
Host resets (R374, R377, R573, R577): O44, the resets of the whole interface.
-/
namespace Sys2Proof.Machine

/-! ## Repeating a program over a list -/

/-- What each turn establishes for its own element and no turn undoes holds for every element afterwards. -/
theorem Prog.run_each_establishes {α : Type} {l : List α} {f : α → Prog} {P : α → State → Prop}
    (hset : ∀ x ∈ l, ∀ s, P x ((f x).run s)) (hkeep : ∀ x ∈ l, ∀ y ∈ l, ∀ s, P x s → P x ((f y).run s)) (s : State) :
    ∀ x ∈ l, P x ((each l f).run s) := by
  induction l generalizing s with
  | nil => simp
  | cons y l ih =>
    have hrest := ih (fun x hx => hset x (List.mem_cons_of_mem _ hx))
      (fun x hx z hz => hkeep x (List.mem_cons_of_mem _ hx) z (List.mem_cons_of_mem _ hz))
    have hstay : ∀ (k : List α) (t : State), (∀ z ∈ k, z ∈ y :: l) → P y t → P y ((each k f).run t) := by
      intro k
      induction k with
      | nil => exact fun t _ h => h
      | cons z k ihk =>
        intro t hk h
        rw [Prog.run_each_cons]
        exact ihk _ (fun w hw => hk w (List.mem_cons_of_mem _ hw)) (hkeep y List.mem_cons_self z (hk z List.mem_cons_self) t h)
    intro x hx
    rw [Prog.run_each_cons]
    rcases List.mem_cons.mp hx with rfl | hmem
    · exact hstay l _ (fun z hz => List.mem_cons_of_mem _ hz) (hset x List.mem_cons_self s)
    · exact hrest _ x hmem

/-- What every turn keeps is kept. -/
theorem Prog.run_each_keeps {α : Type} {l : List α} {f : α → Prog} {P : State → Prop} (hkeep : ∀ y ∈ l, ∀ s, P s → P ((f y).run s))
    (s : State) (h : P s) : P ((each l f).run s) := by
  induction l generalizing s with
  | nil => exact h
  | cons y l ih =>
    rw [Prog.run_each_cons]
    exact ih (fun z hz => hkeep z (List.mem_cons_of_mem _ hz)) _ (hkeep y List.mem_cons_self s h)

/-! ## Registers that the resets tell apart -/

/-- The fields of a ledger line. -/
theorem RegMap.unitLine_fields : ∀ u < 117, ∃ f ∈ RegMap.fields (0x40100 + 4 * u), f.lo = 0 ∧ f.w = 4 := by decide +kernel

theorem RegMap.fenced_fields : ∀ u < 117, ∃ f ∈ RegMap.fields (0x40100 + 4 * u), f.lo = 6 ∧ f.w = 1 := by decide +kernel

theorem RegMap.epoch_fields : ∀ u < 117, ∃ f ∈ RegMap.fields (0x40100 + 4 * u), f.lo = 16 ∧ f.w = 16 := by decide +kernel

/-- EN and FUNC of a queue pair. -/
theorem RegMap.pairCtl_fields : ∀ q < 256, (⟨0, 1, .rw, 0, .H⟩ : FieldSpec) ∈ RegMap.fields (0x81000 + 64 * q) ∧
    (⟨2, 6, .rw, 0, .H⟩ : FieldSpec) ∈ RegMap.fields (0x81000 + 64 * q) := by decide +kernel

/-- The slots of a queue pair. -/
theorem RegMap.pairSlots_fields : ∀ q < 256, (⟨0, 12, .rw, 0, .H⟩ : FieldSpec) ∈ RegMap.fields (0x81004 + 64 * q) ∧
    (⟨16, 12, .rw, 0, .H⟩ : FieldSpec) ∈ RegMap.fields (0x81004 + 64 * q) := by decide +kernel

/-- A ledger line through a loss that keeps the lines. -/
theorem State.line_lose {keep : Nat → FieldSpec → Bool} {u : Nat} (hu : u < 117) (hk : ∀ f, keep (0x40100 + 4 * u) f = true) (s : State) :
    ((Act.lose keep).apply s).unitState u = s.unitState u ∧ ((Act.lose keep).apply s).fenced u = s.fenced u ∧
    ((Act.lose keep).apply s).epoch u = s.epoch u := by
  obtain ⟨f, hf, hlo, hw⟩ := RegMap.unitLine_fields u hu
  obtain ⟨g, hg, hglo, hgw⟩ := RegMap.fenced_fields u hu
  obtain ⟨e, he, helo, hew⟩ := RegMap.epoch_fields u hu
  have h1 := State.fld_lose_kept hf (hk f) s
  have h2 := State.fld_lose_kept hg (hk g) s
  have h3 := State.fld_lose_kept he (hk e) s
  rw [hlo, hw] at h1
  rw [hglo, hgw] at h2
  rw [helo, hew] at h3
  exact ⟨h1, congrArg (· == 1) h2, h3⟩

/-! ## What a host reset touches beside the interface itself -/

/-- Of the device what a host reset leaves: tiles, pins, the count, active planes; what it has cleared stays clear. -/
structure HostKept (d e : Dev) : Prop where
  tiles : e.tiles = d.tiles
  pins : e.pwr.pins = d.pwr.pins
  now : e.hs.now = d.hs.now
  count : d.log.count ≤ e.log.count
  active : ∀ p, (Sparse.get Part.blank e.parts p).active = (Sparse.get Part.blank d.parts p).active
  staged : ∀ p, (Sparse.get Part.blank d.parts p).staged = none → (Sparse.get Part.blank e.parts p).staged = none
  pairs : ∀ q, Sparse.get Pair.blank d.pairs q = {} → Sparse.get Pair.blank e.pairs q = {}
  vfs : e.numVfs = d.numVfs
  chuck : e.chuck = d.chuck

/-- Registers that a host reset writes: lines of partitions, ports and above, and registers of blocks beyond the ledger but the pairs'. -/
abbrev hostBound : Bound where
  dev := HostKept
  reg o := (0x40180 ≤ o ∧ o < 0x401A0) ∨ (0x402B0 ≤ o ∧ ¬(0x81000 ≤ o ∧ o < 0x85000)) ∨ o = 0x38000
  mem := False
  host := False

theorem HostKept.refl (d : Dev) : HostKept d d := ⟨rfl, rfl, rfl, le_refl _, fun _ => rfl, fun _ h => h, fun _ h => h, rfl, rfl⟩

theorem hostBound_steps : hostBound.Steps where
  refl := HostKept.refl
  trans h k := ⟨k.tiles.trans h.tiles, k.pins.trans h.pins, k.now.trans h.now, h.count.trans k.count, fun p => (k.active p).trans (h.active p),
    fun p hp => k.staged p (h.staged p hp), fun q hq => k.pairs q (h.pairs q hq), k.vfs.trans h.vfs, k.chuck.trans h.chuck⟩

theorem hostBound_logs : hostBound.Logs where
  dev _ _ _ _ h := ⟨rfl, rfl, rfl, h, fun _ => rfl, fun _ h => h, fun _ h => h, rfl, rfl⟩
  reg o ho := by
    simp only [logRegs, List.mem_cons, List.not_mem_nil, or_false] at ho
    show _ ∨ _
    omega

@[simp] theorem logC_hostBound (code sev unit ds st) : (logC code sev unit ds st).Only (Act.obeys hostBound) := hostBound_logs.logC code sev unit ds st
@[simp] theorem logLim_hostBound (l id code sev unit ds st) : (logLim l id code sev unit ds st).Only (Act.obeys hostBound) := hostBound_logs.logLim l id code sev unit ds st

@[simp] theorem modSlot_hostBound (n f) : (modSlot n f).Only (Act.obeys hostBound) :=
  fun _ => ⟨rfl, rfl, rfl, le_refl _, fun _ => rfl, fun _ h => h, fun _ h => h, rfl, rfl⟩
@[simp] theorem modIn_hostBound (n f) : (modIn n f).Only (Act.obeys hostBound) :=
  fun _ => ⟨rfl, rfl, rfl, le_refl _, fun _ => rfl, fun _ h => h, fun _ h => h, rfl, rfl⟩
@[simp] theorem modOut_hostBound (n f) : (modOut n f).Only (Act.obeys hostBound) :=
  fun _ => ⟨rfl, rfl, rfl, le_refl _, fun _ => rfl, fun _ h => h, fun _ h => h, rfl, rfl⟩

theorem dropFlights_hostBound (q : Nat) : (dropFlights q).Only (Act.obeys hostBound) := by
  have hpair : (modPair q fun x => { x with flight := [], bells := [] }).Only (Act.obeys hostBound) := fun d =>
    ⟨rfl, rfl, rfl, le_refl _, fun _ => rfl, fun _ h => h, fun k hk => by
      show Sparse.get Pair.blank (Sparse.put Pair.blank d.pairs q _) k = {}
      rw [Sparse.get_put]
      split
      · next h => rw [← h, hk]
      · exact hk, rfl, rfl⟩
  simp [dropFlights, gapNext, hpair]

theorem modPart_hostBound (p : Nat) (f : Part → Part) (ha : ∀ x, (f x).active = x.active) (hs : ∀ x, x.staged = none → (f x).staged = none) :
    (modPart p f).Only (Act.obeys hostBound) := fun d =>
  ⟨rfl, rfl, rfl, le_refl _, fun k => by
      show (Sparse.get Part.blank (Sparse.put Part.blank d.parts p _) k).active = _
      rw [Sparse.get_put]
      split
      · next h => rw [ha, h]
      · rfl, fun k hk => by
      show (Sparse.get Part.blank (Sparse.put Part.blank d.parts p _) k).staged = none
      rw [Sparse.get_put]
      split
      · next h => exact hs _ (h ▸ hk)
      · exact hk, fun _ h => h, rfl, rfl⟩

theorem loseStaged_hostBound {p : Nat} (hp : p < 8) : (loseStaged p).Only (Act.obeys hostBound) := by
  have hregrip : ∀ q, (modPart q fun x => { x with regrip := none }).Only (Act.obeys hostBound) := fun q =>
    modPart_hostBound q _ (fun _ => rfl) fun _ h => h
  have hstaged : (modPart p fun x => { x with staged := none }).Only (Act.obeys hostBound) :=
    modPart_hostBound p _ (fun _ => rfl) fun _ _ => rfl
  have hbuild : hostBound.reg (F.IMG_SBUILD p).off := .inr (.inl (by show 0x402B0 ≤ 0xC0080 + 4 * p ∧ ¬(0x81000 ≤ 0xC0080 + 4 * p ∧ 0xC0080 + 4 * p < 0x85000); omega))
  simp only [loseStaged, Prog.only_look, Prog.only_when, Prog.only_all_cons, Prog.only_all_nil]
  refine fun s _ => ⟨hstaged, setF_obeys.mpr hbuild, logC_hostBound _ _ _ _ _, ?_, trivial⟩
  split
  · trivial
  · rw [Prog.only_each]
    intro q hq
    have hlt : q < 8 := List.mem_range.mp (List.mem_filter.mp hq).1
    exact ⟨hregrip q, fun _ => Prog.only_when.mpr fun _ => setUnit_obeys.mpr (.inl ⟨by omega, by omega⟩), trivial⟩

theorem loseStaged_staged {p : Nat} (hp : p < 8) (s : State) : (((loseStaged p).run s).part p).staged = none := by
  rw [loseStaged, Prog.run_look, Prog.run_when]
  split
  · next h =>
    obtain ⟨-, hrest⟩ := Prog.only_all_cons.mp (Prog.only_when.mp (loseStaged_hostBound hp s) h)
    rw [Prog.run_all_cons]
    refine (hrest.devs hostBound_steps _).staged p ?_
    show (Sparse.get Part.blank (Sparse.put Part.blank s.dev.parts p _) p).staged = none
    rw [Sparse.get_put, if_pos rfl]
  · next h => simpa using h

theorem acceptPort_hostBound {k : Nat} (hk : k < 4) : (acceptPort k false).Only (Act.obeys hostBound) := by
  have hline : hostBound.reg (0x40100 + 4 * (108 + k)) := .inr (.inl ⟨by omega, by omega⟩)
  have hen : hostBound.reg (F.AUD_EN_EN k).off := .inr (.inl (by show 0x402B0 ≤ 0x400004 + 0x1000 * k ∧ ¬(0x81000 ≤ 0x400004 + 0x1000 * k ∧ 0x400004 + 0x1000 * k < 0x85000); omega))
  refine ⟨bumpEpoch_obeys.mpr hline, setB_obeys.mpr hen, ?_, ?_, trivial⟩
  · exact Prog.only_when.mpr fun _ => ⟨setUnit_obeys.mpr hline, fun _ => Prog.only_when.mpr fun _ =>
      ⟨setB_obeys.mpr hline, bumpEpoch_obeys.mpr hline, trivial⟩, trivial⟩
  · exact Prog.only_when.mpr fun h => absurd h Bool.false_ne_true

theorem setFields_obeys {b : Bound} {off : Nat} (h : b.reg off) (v : Nat) (keep : FieldSpec → Bool) :
    (setFields off v keep).Only (Act.obeys b) := by simp [setFields, h]

theorem restoreTileClk_hostBound : restoreTileClk.Only (Act.obeys hostBound) := by
  have hpwr : (modPwr fun w => { w with tileClk := none }).Only (Act.obeys hostBound) :=
    fun _ => ⟨rfl, rfl, rfl, le_refl _, fun _ => rfl, fun _ h => h, fun _ h => h, rfl, rfl⟩
  simp [restoreTileClk, setVreq, hpwr]

theorem restorePorts_hostBound : restorePorts.Only (Act.obeys hostBound) := by
  simp only [restorePorts, Prog.only_look, Prog.only_each]
  intro s p hp
  have := List.mem_range.mp hp
  exact setFields_obeys (b := hostBound) (.inr (.inl (by simp only [audBase]; omega))) _ _

theorem unframePath_hostBound (i : Nat) : (unframePath i).Only (Act.obeys hostBound) := by
  simp [unframePath, unframe, discard, gapNext, arrDrop]

theorem restoreArray_hostBound : restoreArray.Only (Act.obeys hostBound) := by
  have hput : ∀ o v, o < 0x480 → (setFields (arrBase + o) v fun f => f.kept == .H).Only (Act.obeys hostBound) := fun o v ho =>
    setFields_obeys (b := hostBound) (.inr (.inl (by simp only [arrBase]; omega))) _ _
  simp only [restoreArray, unframeAll, Prog.only_look, Prog.only_all_cons, Prog.only_all_nil, Prog.only_when, Prog.only_each]
  refine fun s => ⟨fun _ => ⟨fun i _ => unframePath_hostBound i, by simp, trivial⟩, hput _ _ (by omega), fun _ => by simp, fun i hi =>
    ⟨fun _ => ⟨unframePath_hostBound i, modIn_hostBound _ _, trivial⟩, hput _ _ ?_, trivial⟩, fun i hi =>
    ⟨fun _ => modOut_hostBound _ _, hput _ _ ?_, trivial⟩, fun i hi => hput _ _ ?_, trivial⟩
  all_goals
    have := List.mem_range.mp hi
    omega

/-! ## A host reset -/

/-- A program within the bound has run. -/
structure HostStep (s u : State) : Prop where
  dev : HostKept s.dev u.dev
  words : ∀ o, ¬hostBound.reg o → u.word o = s.word o
  mem : u.mem = s.mem
  host : u.host = s.host

theorem HostStep.trans {s t u : State} (h : HostStep s t) (k : HostStep t u) : HostStep s u :=
  ⟨hostBound_steps.trans h.dev k.dev, fun o ho => (k.words o ho).trans (h.words o ho), k.mem.trans h.mem, k.host.trans h.host⟩

theorem Prog.Only.hostStep {p : Prog} (h : p.Only (Act.obeys hostBound)) (s : State) : HostStep s (p.run s) :=
  ⟨h.devs hostBound_steps s, fun _ ho => h.words ho s, h.mems id s, h.hosts id s⟩

/-- Nothing that has started goes to the host: nothing is cut. -/
theorem cutHostXfers_run_none {s : State} (h : ∀ y ∈ s.dev.tiles, ∀ x ∈ y.2.xfers, x.started = false) : cutHostXfers.run s = s := by
  rw [cutHostXfers, Prog.run_look]
  refine Prog.run_each_keeps (P := fun u => u = s) (fun y hy u hu => ?_) s rfl
  subst hu
  have hy' := h y hy
  split
  · next x xs hx =>
    have hx' : x.started = false := hy' x (by rw [hx]; exact List.mem_cons_self)
    rw [Prog.run_when, if_neg (by simp [hx'])]
  · rfl

theorem endLoad_run_none {s : State} (h : s.dev.chuck.load = none) (sel : Load → Bool) (code : Nat) : (endLoad sel code).run s = s := by
  rw [endLoad, Prog.run_look, Prog.run_when, h, if_neg (by simp)]

/-- What a host reset does before the ledger's lines of the interface say so. -/
structure HostCleared (s u : State) : Prop where
  tiles : u.dev.tiles = s.dev.tiles
  pins : u.dev.pwr.pins = s.dev.pwr.pins
  now : u.dev.hs.now = s.dev.hs.now
  active : ∀ p, (u.part p).active = (s.part p).active
  staged : ∀ p, p < 8 → (u.part p).staged = none
  pairs : ∀ q, u.pair q = {}
  vfs : u.dev.numVfs = 0
  enables : ∀ q, q < 256 → u.bit (F.QP_CTL_EN q) = false
  scratch : u.fld F.GEN_SCRATCH_VALUE = s.fld F.GEN_SCRATCH_VALUE
  lines : ∀ n, n < 32 ∨ (43 ≤ n ∧ n < 108) → u.unitState n = s.unitState n ∧ u.fenced n = s.fenced n
  mem : u.mem = s.mem
  host : u.host = s.host

/-- The ledger's lines of the interface after a host reset, and its status. -/
def hostDown (s : State) : Prog :=
  all [when (s.fenced 43) (liftFence 43),
    each ((List.range 64).map (· + 44)) fun u => all [
      when (s.fenced u) (liftFence u), when (s.unitState u != 0) (bumpEpoch u), setUnit u 0],
    when (s.unitState 43 == 0) (bumpEpoch 43), declareUnit 43 0,
    setF F.HQ_STATUS_RATE 0, setF F.HQ_STATUS_WIDTH 0, setF F.HQ_STATUS_FLIT 0]

/-- What the loss of a host reset does to the registers that the obligation speaks of. -/
theorem hostLoss_cleared (s : State) : (∀ q, q < 256 → ((Act.lose hostKeeps).apply s).bit (F.QP_CTL_EN q) = false) ∧
    ((Act.lose hostKeeps).apply s).fld F.GEN_SCRATCH_VALUE = s.fld F.GEN_SCRATCH_VALUE ∧
    (∀ n, n < 117 → ((Act.lose hostKeeps).apply s).unitState n = s.unitState n ∧ ((Act.lose hostKeeps).apply s).fenced n = s.fenced n) := by
  refine ⟨fun q hq => ?_, ?_, fun n hn => ?_⟩
  · have hk : hostKeeps (0x81000 + 64 * q) ⟨0, 1, .rw, 0, .H⟩ = false := by
      simp only [hostKeeps, isUnitLine, hostRestored]
      simp
      omega
    exact congrArg (· == 1) (State.fld_lose_lost (RegMap.pairCtl_fields q hq).1 hk s)
  · exact State.fld_lose_kept (f := ⟨0, 32, .rw, 0, .A⟩) (by decide +kernel) (by decide +kernel) s
  · have h := State.line_lose (keep := hostKeeps) hn (fun f => by
      simp only [hostKeeps, isUnitLine]
      simp
      omega) s
    exact ⟨h.1, h.2.1⟩

theorem hostResetProg_cleared {s : State} (hl : s.dev.chuck.load = none)
    (hx : ∀ y ∈ s.dev.tiles, ∀ x ∈ y.2.xfers, x.started = false) :
    ∃ x, (HostCleared s x ∧ s.dev.log.count < x.dev.log.count) ∧ (hostResetProg true).run s = (hostDown s).run x := by
  rw [hostResetProg, Prog.run_look]
  iterate 15 rw [Prog.run_all_cons]
  refine ⟨_, ?_, rfl⟩
  rw [Prog.run_when true (logC 0xA004 0 43 []), if_pos rfl]
  have h1 := (logC_hostBound 0xA004 0 43 [] none).hostStep s
  have hlt := logC_count_lt 0xA004 0 43 [] none s
  generalize (logC 0xA004 0 43 []).run s = x1 at *
  have h2 : HostStep x1 ((when (s.unitState 43 != 0) (logC 0xA001 1 43 [])).run x1) := Prog.Only.hostStep (by simp) x1
  generalize (when (s.unitState 43 != 0) (logC 0xA001 1 43 [])).run x1 = x2 at *
  have h02 := h1.trans h2
  rw [cutHostXfers_run_none (by rw [h02.dev.tiles]; exact hx)]
  have h3 : HostStep x2 ((each (s.dev.pairs.map Prod.fst) dropFlights).run x2) :=
    Prog.Only.hostStep (Prog.only_each.mpr fun q _ => dropFlights_hostBound q) x2
  generalize (each (s.dev.pairs.map Prod.fst) dropFlights).run x2 = x3 at *
  have h03 := h02.trans h3
  rw [endLoad_run_none (by rw [h03.dev.chuck]; exact hl)]
  have h4 : HostStep x3 ((each partIds loseStaged).run x3) :=
    Prog.Only.hostStep (Prog.only_each.mpr fun p hp => loseStaged_hostBound (List.mem_range.mp hp)) x3
  have hstaged := Prog.run_each_establishes (l := partIds) (f := loseStaged) (P := fun p u => (u.part p).staged = none)
    (fun p hp u => loseStaged_staged (List.mem_range.mp hp) u)
    (fun p _ q hq u h => ((loseStaged_hostBound (List.mem_range.mp hq)).devs hostBound_steps u).staged p h) x3
  generalize (each partIds loseStaged).run x3 = x4 at *
  have h5 : HostStep x4 ((each (List.range 4) fun k => when (s.bit (F.AUD_EN_EN k)) (acceptPort k false)).run x4) :=
    Prog.Only.hostStep (Prog.only_each.mpr fun k hk => Prog.only_when.mpr fun _ => acceptPort_hostBound (List.mem_range.mp hk)) x4
  generalize (each (List.range 4) fun k => when (s.bit (F.AUD_EN_EN k)) (acceptPort k false)).run x4 = x5 at *
  have h05 := (h03.trans h4).trans h5
  have hstaged5 : ∀ p, p < 8 → (x5.part p).staged = none := fun p hp => h5.dev.staged p (hstaged p (List.mem_range.mpr hp))
  rw [Prog.run_act]
  obtain ⟨hen, hscratch, hlines⟩ := hostLoss_cleared x5
  have hd6 : ((Act.lose hostKeeps).apply x5).dev = x5.dev := rfl
  have hm6 : ((Act.lose hostKeeps).apply x5).mem = x5.mem := rfl
  have hh6 : ((Act.lose hostKeeps).apply x5).host = x5.host := rfl
  generalize (Act.lose hostKeeps).apply x5 = x6 at *
  generalize hx7 : (modLog _).run _ = x7
  have h7 : HostKept { x6.dev with pairs := x7.dev.pairs, numVfs := x7.dev.numVfs } x7.dev := by
    rw [← hx7]
    exact ⟨rfl, rfl, rfl, le_refl _, fun _ => rfl, fun _ h => h, fun _ h => h, rfl, rfl⟩
  have hp7 : x7.dev.pairs = [] := by rw [← hx7]; rfl
  have hv7 : x7.dev.numVfs = 0 := by rw [← hx7]; rfl
  have hw7 : ∀ o, x7.word o = x6.word o := fun o => by rw [← hx7]; rfl
  have hm7 : x7.mem = x6.mem := by rw [← hx7]; rfl
  have hh7 : x7.host = x6.host := by rw [← hx7]; rfl
  clear hx7
  have h8 := ((restoreTileClk_hostBound.hostStep x7).trans (restorePorts_hostBound.hostStep _)).trans (restoreArray_hostBound.hostStep _)
  generalize restoreArray.run _ = x8 at *
  have hline : ∀ n, n < 32 ∨ (43 ≤ n ∧ n < 108) → ¬hostBound.reg (0x40100 + 4 * n) := fun n hn => by
    show ¬(_ ∨ _ ∨ _)
    omega
  refine ⟨⟨?_, ?_, ?_, fun p => ?_, fun p hp => ?_, fun q => ?_, ?_, fun q hq => ?_, ?_, fun n hn => ⟨?_, ?_⟩, ?_, ?_⟩, ?_⟩
  · rw [h8.dev.tiles, h7.tiles, hd6, h05.dev.tiles]
  · rw [h8.dev.pins, h7.pins, hd6, h05.dev.pins]
  · rw [h8.dev.now, h7.now, hd6, h05.dev.now]
  · exact ((h8.dev.active p).trans (h7.active p)).trans ((congrArg (fun d => (Sparse.get Part.blank (Dev.parts d) p).active) hd6).trans (h05.dev.active p))
  · refine h8.dev.staged p (h7.staged p ?_)
    show (Sparse.get Part.blank x6.dev.parts p).staged = none
    rw [hd6]
    exact hstaged5 p hp
  · refine h8.dev.pairs q ?_
    rw [hp7]
    rfl
  · rw [h8.dev.vfs, hv7]
  · have hq' : ¬hostBound.reg (0x81000 + 64 * q) := by
      show ¬(_ ∨ _ ∨ _)
      omega
    exact (congrArg (· == 1) (State.fld_of_word ((h8.words _ hq').trans (hw7 _)))).trans (hen q hq)
  · rw [State.fld_of_word ((h8.words _ (by decide)).trans (hw7 _)), hscratch, State.fld_of_word (h05.words _ (by decide))]
  · exact (State.fld_of_word (f := F.LEDG_UNIT_STATE n) ((h8.words _ (hline n hn)).trans (hw7 _))).trans ((hlines n (by omega)).1.trans
      (State.fld_of_word (f := F.LEDG_UNIT_STATE n) (h05.words _ (hline n hn))))
  · exact (congrArg (· == 1) (State.fld_of_word (f := F.LEDG_UNIT_FENCED n) ((h8.words _ (hline n hn)).trans (hw7 _)))).trans
      ((hlines n (by omega)).2.trans (congrArg (· == 1) (State.fld_of_word (f := F.LEDG_UNIT_FENCED n) (h05.words _ (hline n hn)))))
  · rw [h8.mem, hm7, hm6, h05.mem]
  · rw [h8.host, hh7, hh6, h05.host]
  · refine lt_of_lt_of_le hlt ((h2.dev.count.trans (h3.dev.count.trans (h4.dev.count.trans h5.dev.count))).trans ?_)
    rw [← hd6]
    exact h7.count.trans h8.dev.count

/-- The lines of the interface after it: every function is gone and nothing is fenced. -/
abbrev downBound : Bound where
  dev d e := e = d
  reg o := (0x401AC ≤ o ∧ o < 0x402B0) ∨ o = 0x80000
  mem := False
  host := False

theorem downBound_steps : downBound.Steps := ⟨fun _ => rfl, fun h k => k.trans h⟩

theorem hostDown_obeys (s : State) : (hostDown s).Only (Act.obeys downBound) := by
  have hlift : ∀ u, 43 ≤ u → u < 108 → (liftFence u).Only (Act.obeys downBound) := fun u h1 h2 _ => Prog.only_when.mpr fun _ =>
    ⟨setB_obeys.mpr (.inl ⟨by show 0x401AC ≤ 0x40100 + 4 * u; omega, by show 0x40100 + 4 * u < 0x402B0; omega⟩),
      bumpEpoch_obeys.mpr (.inl ⟨by omega, by omega⟩), trivial⟩
  refine ⟨Prog.only_when.mpr fun _ => hlift 43 (by decide) (by decide), Prog.only_each.mpr fun u hu => ?_,
    Prog.only_when.mpr fun _ => bumpEpoch_obeys.mpr (.inl (by decide)), declareUnit_obeys (.inl (by decide)),
    setF_obeys.mpr (.inr rfl), setF_obeys.mpr (.inr rfl), setF_obeys.mpr (.inr rfl), trivial⟩
  obtain ⟨n, hn, rfl⟩ := List.mem_map.mp hu
  have := List.mem_range.mp hn
  exact ⟨Prog.only_when.mpr fun _ => hlift _ (by omega) (by omega),
    Prog.only_when.mpr fun _ => bumpEpoch_obeys.mpr (.inl ⟨by omega, by omega⟩), setUnit_obeys.mpr (.inl ⟨by omega, by omega⟩), trivial⟩

/-- One function of the interface goes down. -/
def functionDown (s : State) (u : Nat) : Prog :=
  all [when (s.fenced u) (liftFence u), when (s.unitState u != 0) (bumpEpoch u), setUnit u 0]

theorem functionDown_line (s : State) (u : Nat) (y : State) : OnlyLine y ((functionDown s u).run y) u :=
  onlyLine_of_obeys (p := functionDown s u) ⟨Prog.only_when.mpr fun _ _ => Prog.only_when.mpr fun _ =>
    ⟨Prog.only_setB fun _ => rfl, Prog.only_bumpEpoch fun _ => rfl, trivial⟩, Prog.only_when.mpr fun _ => Prog.only_bumpEpoch fun _ => rfl,
    Prog.only_setF fun _ => rfl, trivial⟩ y

theorem bumpEpoch_run (u : Nat) (y : State) : ((bumpEpoch u).run y).unitState u = y.unitState u ∧
    ((bumpEpoch u).run y).fenced u = y.fenced u ∧ ((bumpEpoch u).run y).epoch u = (y.epoch u + 1) % 65536 := by
  refine ⟨?_, ?_, Prog.fld_setF_same (F.LEDG_UNIT_EPOCH u) _ y (by decide : (16 : ℕ) + 16 ≤ 32)⟩
  · exact Prog.fld_setF_other (F.LEDG_UNIT_EPOCH u) (F.LEDG_UNIT_STATE u) _ y (by decide : (0 : ℕ) + 4 ≤ 32)
      (.inr (.inl (by decide : (0 : ℕ) + 4 ≤ 16)))
  · exact congrArg (· == 1) (Prog.fld_setF_other (F.LEDG_UNIT_EPOCH u) (F.LEDG_UNIT_FENCED u) _ y (by decide : (6 : ℕ) + 1 ≤ 32)
      (.inr (.inl (by decide : (6 : ℕ) + 1 ≤ 16))))

theorem setUnit_run (u st : Nat) (y : State) : ((setUnit u st).run y).unitState u = st % 16 ∧ ((setUnit u st).run y).fenced u = y.fenced u ∧
    ((setUnit u st).run y).epoch u = y.epoch u := by
  refine ⟨Prog.fld_setF_same (F.LEDG_UNIT_STATE u) st y (by decide : (0 : ℕ) + 4 ≤ 32), ?_, ?_⟩
  · exact congrArg (· == 1) (Prog.fld_setF_other (F.LEDG_UNIT_STATE u) (F.LEDG_UNIT_FENCED u) _ y (by decide : (6 : ℕ) + 1 ≤ 32)
      (.inr (.inr (by decide : (0 : ℕ) + 4 ≤ 6))))
  · exact Prog.fld_setF_other (F.LEDG_UNIT_STATE u) (F.LEDG_UNIT_EPOCH u) _ y (by decide : (16 : ℕ) + 16 ≤ 32)
      (.inr (.inr (by decide : (0 : ℕ) + 4 ≤ 16)))

theorem functionDown_run (s : State) (u : Nat) (y : State) : ((functionDown s u).run y).unitState u = 0 ∧
    (s.fenced u = true ∨ y.fenced u = false → ((functionDown s u).run y).fenced u = false) := by
  rw [functionDown]
  iterate 3 rw [Prog.run_all_cons]
  rw [Prog.run_all_nil, (setUnit_run u 0 _).1, (setUnit_run u 0 _).2.1]
  refine ⟨rfl, fun h => ?_⟩
  have hb : ∀ z : State, ((when (s.unitState u != 0) (bumpEpoch u)).run z).fenced u = z.fenced u := fun z => by
    rw [Prog.run_when]
    split
    · exact (bumpEpoch_run u z).2.1
    · rfl
  rw [hb, Prog.run_when]
  split
  · exact (liftFence_run u y).1
  · next hs => exact h.resolve_left hs

/-- The link is down after it. -/
theorem hostDown_link (s x : State) : ((hostDown s).run x).unitState 43 = 0 := by
  have hlast : (all [setF F.HQ_STATUS_RATE 0, setF F.HQ_STATUS_WIDTH 0, setF F.HQ_STATUS_FLIT 0]).Only (Act.obeys (.quiet [0x80000])) := by simp
  rw [hostDown]
  iterate 4 rw [Prog.run_all_cons]
  generalize (when (s.unitState 43 == 0) (bumpEpoch 43)).run _ = y
  rw [State.unitState, hlast.flds (by decide)]
  by_cases h : y.unitState 43 = 0
  · rw [declareUnit, Prog.run_look, Prog.run_when, if_neg (by simp [h])]
    exact h
  · exact (declareUnit_run_of_ne h (by decide)).1

/-- The functions are gone after it. -/
theorem hostDown_functions {s x : State} (hx : ∀ n, n < 64 → x.fenced (44 + n) = s.fenced (44 + n)) {n : Nat} (hn : n < 64) :
    ((hostDown s).run x).unitState (44 + n) = 0 ∧ ((hostDown s).run x).fenced (44 + n) = false := by
  have hsplit : hostDown s = all [when (s.fenced 43) (liftFence 43), each ((List.range 64).map (· + 44)) (functionDown s),
    when (s.unitState 43 == 0) (bumpEpoch 43), declareUnit 43 0, setF F.HQ_STATUS_RATE 0, setF F.HQ_STATUS_WIDTH 0,
    setF F.HQ_STATUS_FLIT 0] := rfl
  have hlast : (all [setF F.HQ_STATUS_RATE 0, setF F.HQ_STATUS_WIDTH 0, setF F.HQ_STATUS_FLIT 0]).Only (Act.obeys (.quiet [0x80000])) := by simp
  have hlift : ∀ y : State, OnlyLine y ((when (s.fenced 43) (liftFence 43)).run y) 43 := fun y =>
    onlyLine_of_obeys (p := when (s.fenced 43) (liftFence 43)) (Prog.only_when.mpr fun _ _ => Prog.only_when.mpr fun _ =>
      ⟨Prog.only_setB fun _ => rfl, Prog.only_bumpEpoch fun _ => rfl, trivial⟩) y
  have hbump : ∀ y : State, OnlyLine y ((when (s.unitState 43 == 0) (bumpEpoch 43)).run y) 43 := fun y =>
    onlyLine_of_obeys (p := when (s.unitState 43 == 0) (bumpEpoch 43)) (Prog.only_when.mpr fun _ => Prog.only_bumpEpoch fun _ => rfl) y
  rw [hsplit]
  iterate 4 rw [Prog.run_all_cons]
  have hne : ∀ z : State, ((when (s.unitState 43 == 0) (bumpEpoch 43)).run z).word (0x40100 + 4 * (44 + n)) = z.word (0x40100 + 4 * (44 + n)) :=
    fun z => (hbump z).words _ (by omega)
  have hdecl : ∀ z : State, ((declareUnit 43 0).run z).word (0x40100 + 4 * (44 + n)) = z.word (0x40100 + 4 * (44 + n)) :=
    fun z => (declareUnit_line 43 0 z).words _ (by omega)
  have hkeep : ∀ z : State, ((all [setF F.HQ_STATUS_RATE 0, setF F.HQ_STATUS_WIDTH 0, setF F.HQ_STATUS_FLIT 0]).run
      ((declareUnit 43 0).run ((when (s.unitState 43 == 0) (bumpEpoch 43)).run z))).word (0x40100 + 4 * (44 + n)) =
        z.word (0x40100 + 4 * (44 + n)) := fun z => by
    rw [hlast.words (by show ¬(_ ∈ [0x80000]); simp; omega), hdecl, hne]
  generalize hy : (when (s.fenced 43) (liftFence 43)).run x = y
  have hyf : y.fenced (44 + n) = s.fenced (44 + n) := by
    rw [← hx n hn, ← hy]
    exact congrArg (· == 1) (State.fld_of_word ((hlift x).words (F.LEDG_UNIT_FENCED (44 + n)).off (by show 0x40100 + 4 * (44 + n) ≠ _; omega)))
  have hmem : 44 + n ∈ (List.range 64).map (· + 44) := List.mem_map.mpr ⟨n, List.mem_range.mpr hn, Nat.add_comm _ _⟩
  have hstay : ∀ v u z, u ≠ v → ((functionDown s u).run z).word (0x40100 + 4 * v) = z.word (0x40100 + 4 * v) :=
    fun v u z hu => (functionDown_line s u z).words _ (by omega)
  refine ⟨?_, ?_⟩
  · refine (State.fld_of_word (f := F.LEDG_UNIT_STATE (44 + n)) (hkeep _)).trans ?_
    refine Prog.run_each_establishes (P := fun u z => z.unitState u = 0) (fun u _ z => (functionDown_run s u z).1)
      (fun v _ u _ z h => ?_) y (44 + n) hmem
    by_cases huv : u = v
    · exact huv ▸ (functionDown_run s u z).1
    · exact (State.fld_of_word (f := F.LEDG_UNIT_STATE v) (hstay v u z huv)).trans h
  · refine (congrArg (· == 1) (State.fld_of_word (f := F.LEDG_UNIT_FENCED (44 + n)) (hkeep _))).trans ?_
    by_cases hs : s.fenced (44 + n) = true
    · refine Prog.run_each_establishes (P := fun u z => s.fenced u = true → z.fenced u = false)
        (fun u _ z h => (functionDown_run s u z).2 (.inl h)) (fun v _ u _ z h hv => ?_) y (44 + n) hmem hs
      by_cases huv : u = v
      · exact huv ▸ (functionDown_run s u z).2 (.inl (huv ▸ hv))
      · exact (congrArg (· == 1) (State.fld_of_word (f := F.LEDG_UNIT_FENCED v) (hstay v u z huv))).trans (h hv)
    · refine Prog.run_each_keeps (P := fun z => z.fenced (44 + n) = false) (fun u _ z h => ?_) y (hyf.trans (by simpa using hs))
      by_cases huv : u = 44 + n
      · exact huv ▸ (functionDown_run s u z).2 (.inr (huv ▸ h))
      · exact (congrArg (· == 1) (State.fld_of_word (f := F.LEDG_UNIT_FENCED (44 + n)) (hstay (44 + n) u z huv))).trans h

theorem hostReset_perst {s : State} (hr : s.ready = true) (hl : s.dev.chuck.load = none)
    (hx : ∀ y ∈ s.dev.tiles, ∀ x ∈ y.2.xfers, x.started = false) : Completes (.hostReset .perst) s fun u =>
      u.unitState 43 = 0 ∧ (∀ n, n < 64 → u.unitState (44 + n) = 0 ∧ u.fenced (44 + n) = false) ∧
      (∀ q, q < 256 → u.bit (F.QP_CTL_EN q) = false ∧ u.pair q = {}) ∧ u.dev.numVfs = 0 ∧
      (∀ p, p < 8 → (u.part p).staged = none ∧ (u.part p).active = (s.part p).active) ∧
      (∀ b, b < 32 → u.unitState b = s.unitState b) ∧ (∀ t, u.tile t = s.tile t) ∧ u.dev.hs.now = s.dev.hs.now ∧
      u.fld F.GEN_SCRATCH_VALUE = s.fld F.GEN_SCRATCH_VALUE ∧ u.dev.pwr.pins.perstN = false ∧ u.dev.log.count ≠ s.dev.log.count ∧
      SameBytes s u ∧ SameHost s u := by
  obtain ⟨hawake, hdev⟩ := Bool.and_eq_true_iff.mp hr
  obtain ⟨hpor, hheld⟩ := Bool.and_eq_true_iff.mp hawake
  have h1 : s.devState = 1 := beq_iff_eq.mp hdev
  refine completes_done rfl ?_
  rw [Prog.run_all_cons, Prog.run_all_cons, Prog.run_all_nil, if_neg (by simpa using ⟨by simpa using hpor, by simpa using hheld⟩),
    if_neg (by simp [h1]), if_pos (by rfl), Prog.run_when, if_pos (by rfl)]
  generalize hs0 : (setPins _).run s = s0
  have hd0 : s0.dev = { s.dev with pwr := { s.dev.pwr with pins := { s.dev.pwr.pins with perstN := false } } } := by rw [← hs0]; rfl
  have hw0 : ∀ o, s0.word o = s.word o := fun o => by rw [← hs0]; rfl
  have hm0 : s0.mem = s.mem := by rw [← hs0]; rfl
  have hh0 : s0.host = s.host := by rw [← hs0]; rfl
  clear hs0
  obtain ⟨x, ⟨hc, hlt⟩, hrun⟩ := hostResetProg_cleared (s := s0) (by rw [hd0]; exact hl) (by rw [hd0]; exact hx)
  rw [show (HostResetKind.perst != HostResetKind.linkDown) = true from rfl, hrun]
  have h43 := hostDown_link s0 x
  have hfns : ∀ n, n < 64 → ((hostDown s0).run x).unitState (44 + n) = 0 ∧ ((hostDown s0).run x).fenced (44 + n) = false := fun n hn =>
    hostDown_functions (fun k hk => (hc.lines _ (.inr ⟨by omega, by omega⟩)).2) hn
  have hdown := hostDown_obeys s0
  have hde : ((hostDown s0).run x).dev = x.dev := hdown.devs downBound_steps x
  have hreg : ∀ o, ¬downBound.reg o → ((hostDown s0).run x).word o = x.word o := fun o ho => hdown.words ho x
  have hme : ((hostDown s0).run x).mem = x.mem := hdown.mems id x
  have hho : ((hostDown s0).run x).host = x.host := hdown.hosts id x
  generalize (hostDown s0).run x = u at *
  refine ⟨h43, hfns, fun q hq => ⟨?_, ?_⟩, ?_, fun p hp => ⟨?_, ?_⟩, fun b hb => ?_, fun t => ?_, ?_, ?_, ?_, ?_, fun a => ?_, fun a => ?_⟩
  · have hq' : ¬downBound.reg (0x81000 + 64 * q) := by
      show ¬(_ ∨ _)
      omega
    exact (congrArg (· == 1) (State.fld_of_word (f := F.QP_CTL_EN q) (hreg _ hq'))).trans (hc.enables q hq)
  · rw [State.pair, hde]
    exact hc.pairs q
  · rw [hde, hc.vfs]
  · rw [State.part, hde]
    exact hc.staged p hp
  · rw [State.part, hde]
    refine (hc.active p).trans ?_
    rw [State.part, hd0]
    rfl
  · have hb' : ¬downBound.reg (0x40100 + 4 * b) := by
      show ¬(_ ∨ _)
      omega
    exact (State.fld_of_word (f := F.LEDG_UNIT_STATE b) (hreg _ hb')).trans ((hc.lines b (.inl hb)).1.trans (State.fld_of_word (hw0 _)))
  · rw [State.tile, hde, hc.tiles, hd0]
    rfl
  · rw [hde, hc.now, hd0]
  · rw [State.fld_of_word (hreg _ (by decide)), hc.scratch, State.fld_of_word (hw0 _)]
  · rw [hde, hc.pins, hd0]
  · rw [hde]
    rw [hd0] at hlt
    exact hlt.ne'
  · rw [hme, hc.mem, hm0]
  · rw [hho, hc.host, hh0]

end Sys2Proof.Machine
end

section
/-!
Function-level resets (R375, R376, R587): O44, the resets of one function.
-/
namespace Sys2Proof.Machine

theorem State.mem_ownedPairs {s : State} {fn q : Nat} : q ∈ s.ownedPairs fn ↔ q < 256 ∧ s.owner q = fn := by
  simp [State.ownedPairs]

/-- The loss of a function-level reset. -/
def fnKeeps (qs : List Nat) (fn off : Nat) (f : FieldSpec) : Bool := pairKeeps qs off f && !fnOwn fn off

theorem fnOwn_line (fn n : Nat) (hn : n < 117) : fnOwn fn (0x40100 + 4 * n) = false := by
  simp only [fnOwn, msixRegion]
  split <;> simp <;> omega

theorem fnOwn_pair (fn q o : Nat) (hq : q < 256) (ho : o < 64) : fnOwn fn (0x81000 + 64 * q + o) = false := by
  simp only [fnOwn, msixRegion]
  split <;> simp <;> omega

theorem fnKeeps_line (qs : List Nat) (fn n : Nat) (hn : n < 117) (f : FieldSpec) : fnKeeps qs fn (0x40100 + 4 * n) f = true := by
  rw [fnKeeps, fnOwn_line fn n hn, pairKeeps, decide_eq_false (by omega : ¬0x81000 ≤ 0x40100 + 4 * n)]
  rfl

/-- What the loss does to the control of a pair. -/
theorem fnKeeps_pair {qs : List Nat} {fn q : Nat} (hq : q < 256) (f : FieldSpec) :
    fnKeeps qs fn (0x81000 + 64 * q) f = (!qs.contains q || f.lo == 2) := by
  have h := fnOwn_pair fn q 0 hq (by decide)
  rw [Nat.add_zero] at h
  have hdiv : (0x81000 + 64 * q - 0x81000) / 64 = q := by omega
  have hmod : (0x81000 + 64 * q) % 64 = 0 := by omega
  rw [fnKeeps, h, pairKeeps, hdiv, hmod, decide_eq_true (by omega : 0x81000 ≤ 0x81000 + 64 * q),
    decide_eq_true (by omega : 0x81000 + 64 * q < 0x85000)]
  simp

/-- A loss changes registers alone. -/
theorem State.lose_dev (keep : Nat → FieldSpec → Bool) (s : State) : ((Act.lose keep).apply s).dev = s.dev := rfl
theorem State.lose_mem (keep : Nat → FieldSpec → Bool) (s : State) : ((Act.lose keep).apply s).mem = s.mem := rfl
theorem State.lose_host (keep : Nat → FieldSpec → Bool) (s : State) : ((Act.lose keep).apply s).host = s.host := rfl

/-! ## Clearing a function -/

/-- Of the device only the given pairs, slots and the latches of paths have changed; a cleared pair stays so. -/
structure PairsOnly (qs : List Nat) (d e : Dev) : Prop where
  dev : e = { d with slots := e.slots, pairs := e.pairs, hs := { d.hs with latches := e.hs.latches } }
  others : ∀ q, q ∉ qs → Sparse.get Pair.blank e.pairs q = Sparse.get Pair.blank d.pairs q
  blank : ∀ q, Sparse.get Pair.blank d.pairs q = {} → Sparse.get Pair.blank e.pairs q = {}

/-- Changes of pairs, slots and latches alone. -/
abbrev pairsBound (qs : List Nat) : Bound where
  dev := PairsOnly qs
  reg _ := False
  mem := False
  host := False

theorem pairsBound_steps (qs : List Nat) : (pairsBound qs).Steps where
  refl _ := ⟨rfl, fun _ _ => rfl, fun _ h => h⟩
  trans h k := ⟨by rw [k.dev, h.dev], fun q hq => (k.others q hq).trans (h.others q hq), fun q hq => k.blank q (h.blank q hq)⟩

theorem modPair_pairsBound {qs : List Nat} {q : Nat} (hq : q ∈ qs) (f : Pair → Pair) (hf : f {} = {}) :
    (modPair q f).Only (Act.obeys (pairsBound qs)) := fun d =>
  ⟨rfl, fun k hk => by
      show Sparse.get Pair.blank (Sparse.put Pair.blank d.pairs q _) k = _
      rw [Sparse.get_put, if_neg fun e => hk (by rw [e]; exact hq)], fun k hk => by
      show Sparse.get Pair.blank (Sparse.put Pair.blank d.pairs q _) k = {}
      rw [Sparse.get_put]
      split
      · next h => rw [← h, hk, hf]
      · exact hk⟩

theorem dropFlights_pairsBound {qs : List Nat} {q : Nat} (hq : q ∈ qs) : (dropFlights q).Only (Act.obeys (pairsBound qs)) := by
  have hslot : ∀ n f, (modSlot n f).Only (Act.obeys (pairsBound qs)) := fun _ _ _ => ⟨rfl, fun _ _ => rfl, fun _ h => h⟩
  have hpair := modPair_pairsBound hq (fun x => { x with flight := [], bells := [] }) rfl
  simp [dropFlights, gapNext, hslot, hpair]

/-- What clearing a function comes to. -/
structure FnCleared (s u : State) (fn : Nat) : Prop where
  dev : u.dev = { s.dev with slots := u.dev.slots, pairs := u.dev.pairs, hs := { s.dev.hs with latches := u.dev.hs.latches } }
  own : ∀ q, q < 256 → s.owner q = fn → u.bit (F.QP_CTL_EN q) = false ∧ u.pair q = {}
  others : ∀ q, q < 256 → s.owner q ≠ fn → u.fld (F.QP_CTL_EN q) = s.fld (F.QP_CTL_EN q) ∧ u.pair q = s.pair q
  owner : ∀ q, q < 256 → u.owner q = s.owner q
  blank : ∀ q, s.pair q = {} → u.pair q = {}
  states : ∀ n, n < 117 → u.unitState n = s.unitState n
  epoch : s.fenced (44 + fn) = false → u.epoch (44 + fn) = (s.epoch (44 + fn) + 1) % 65536
  latch : u.latched (fnPath fn) = 0
  scratch : 1 ≤ fn → u.fld ⟨0x4000018 + 0x10000 * fn, 0, 32⟩ = 0
  mem : u.mem = s.mem
  host : u.host = s.host

theorem RegMap.vfScratch_fields : ∀ v < 64, 1 ≤ v → (⟨0, 32, .rw, 0, .H⟩ : FieldSpec) ∈ RegMap.fields (0x4000018 + 0x10000 * v) := by
  decide +kernel

/-- The last acts on a function: its latch, its fence and its epoch. -/
def fnNoted (fn : Nat) (fenced : Bool) : Prog := all [clearLatch (fnPath fn), when fenced (liftFence (44 + fn)), bumpEpoch (44 + fn)]

theorem fnNoted_run (fn : Nat) (fenced : Bool) (s : State) :
    ((fnNoted fn fenced).run s).dev = { s.dev with hs := { s.dev.hs with latches := s.dev.hs.latches.filter fun x => x.1 != fnPath fn } } ∧
    (∀ o, o ≠ 0x40100 + 4 * (44 + fn) → ((fnNoted fn fenced).run s).word o = s.word o) ∧
    ((fnNoted fn fenced).run s).mem = s.mem ∧ ((fnNoted fn fenced).run s).host = s.host ∧
    ((fnNoted fn fenced).run s).unitState (44 + fn) = s.unitState (44 + fn) ∧
    (fenced = false → ((fnNoted fn fenced).run s).epoch (44 + fn) = (s.epoch (44 + fn) + 1) % 65536) := by
  rw [fnNoted]
  iterate 3 rw [Prog.run_all_cons]
  rw [Prog.run_all_nil]
  generalize hx : (clearLatch (fnPath fn)).run s = x
  have hb := onlyLine_of_obeys (p := bumpEpoch (44 + fn)) (Prog.only_bumpEpoch fun _ => rfl) ((when fenced (liftFence (44 + fn))).run x)
  have hbr := bumpEpoch_run (44 + fn) ((when fenced (liftFence (44 + fn))).run x)
  have hl : OnlyLine x ((when fenced (liftFence (44 + fn))).run x) (44 + fn) ∧
      ((when fenced (liftFence (44 + fn))).run x).unitState (44 + fn) = x.unitState (44 + fn) := by
    cases fenced
    · exact ⟨⟨rfl, fun _ _ => rfl, rfl, rfl⟩, rfl⟩
    · exact ⟨liftFence_line _ _, (liftFence_run _ _).2⟩
  have hnf : fenced = false → (when fenced (liftFence (44 + fn))).run x = x := fun h => by rw [h]; rfl
  generalize (when fenced (liftFence (44 + fn))).run x = y at *
  obtain ⟨hline, hst⟩ := hl
  refine ⟨?_, fun o ho => ?_, ?_, ?_, ?_, fun h => ?_⟩
  · rw [hb.dev, hline.dev, ← hx]
    rfl
  · rw [hb.words o ho, hline.words o ho, ← hx]
    rfl
  · rw [hb.mem, hline.mem, ← hx]
    rfl
  · rw [hb.host, hline.host, ← hx]
    rfl
  · rw [hbr.1, hst, ← hx]
    rfl
  · rw [hbr.2.2, hnf h, ← hx]
    rfl

theorem latched_filter (s : State) (p : Path) (l : List (Path × Word)) (h : s.dev.hs.latches = l.filter fun x => x.1 != p) :
    s.latched p = 0 := by
  have hnone : s.dev.hs.latches.find? (fun x => x.1 == p) = none := by
    rw [h, List.find?_eq_none]
    intro x hx
    have := (List.mem_filter.mp hx).2
    simpa using this
  rw [State.latched, hnone]

theorem clearFunction_run {fn : Nat} (hf : fn < 64) (s : State) : FnCleared s ((clearFunction fn).run s) fn := by
  have hqs : ∀ {q}, q ∈ s.ownedPairs fn ↔ q < 256 ∧ s.owner q = fn := State.mem_ownedPairs
  have hrun : (clearFunction fn).run s = (fnNoted fn (s.fenced (44 + fn))).run ((each (s.ownedPairs fn) fun q => modPair q fun _ => {}).run
      ((Act.lose (fnKeeps (s.ownedPairs fn) fn)).apply ((each (s.ownedPairs fn) dropFlights).run s))) := rfl
  rw [hrun]
  generalize s.ownedPairs fn = qs at *
  have hdrop : (each qs dropFlights).Only (Act.obeys (pairsBound qs)) := Prog.only_each.mpr fun q hq => dropFlights_pairsBound hq
  have hd1 := hdrop.devs (pairsBound_steps _) s
  have hw1 : ∀ o, ((each qs dropFlights).run s).word o = s.word o := fun o => hdrop.words id s
  have hm1 := hdrop.mems id s
  have hh1 := hdrop.hosts id s
  clear hdrop hrun
  generalize (each qs dropFlights).run s = x1 at *
  have hline : ∀ n, n < 117 → _ := fun n hn => State.line_lose (keep := fnKeeps qs fn) hn (fnKeeps_line qs fn n hn) x1
  have hen : ∀ q, q < 256 → ((Act.lose (fnKeeps qs fn)).apply x1).fld (F.QP_CTL_EN q) =
      if q ∈ qs then 0 else x1.fld (F.QP_CTL_EN q) := fun q hq => by
    refine (State.fld_lose (RegMap.pairCtl_fields q hq).1 (fnKeeps qs fn) x1).trans ?_
    rw [fnKeeps_pair hq]
    by_cases h : q ∈ qs <;> simp [h]
  have hfn : ∀ q, q < 256 → ((Act.lose (fnKeeps qs fn)).apply x1).fld (F.QP_CTL_FUNC q) = x1.fld (F.QP_CTL_FUNC q) := fun q hq =>
    State.fld_lose_kept (RegMap.pairCtl_fields q hq).2 (by rw [fnKeeps_pair hq]; simp) x1
  have hscratch : 1 ≤ fn → ((Act.lose (fnKeeps qs fn)).apply x1).fld ⟨0x4000018 + 0x10000 * fn, 0, 32⟩ = 0 := fun h1 => by
    refine State.fld_lose_lost (RegMap.vfScratch_fields fn hf h1) ?_ x1
    have hown : fnOwn fn (0x4000018 + 0x10000 * fn) = true := by
      rw [fnOwn, if_neg (by omega)]
      simp
    rw [fnKeeps, hown, Bool.not_true, Bool.and_false]
  have hd2 := State.lose_dev (fnKeeps qs fn) x1
  have hm2 := State.lose_mem (fnKeeps qs fn) x1
  have hh2 := State.lose_host (fnKeeps qs fn) x1
  generalize (Act.lose (fnKeeps qs fn)).apply x1 = x2 at *
  have hclear : (each qs fun q => modPair q fun _ => {}).Only (Act.obeys (pairsBound qs)) :=
    Prog.only_each.mpr fun q hq => modPair_pairsBound hq _ rfl
  have hd3 := hclear.devs (pairsBound_steps _) x2
  have hw3 : ∀ o, ((each qs fun q => modPair q fun _ => {}).run x2).word o = x2.word o := fun o => hclear.words id x2
  have hm3 := hclear.mems id x2
  have hh3 := hclear.hosts id x2
  have hblank := Prog.run_each_establishes (l := qs) (f := fun q => modPair q fun _ => {}) (P := fun q u => u.pair q = {})
    (fun q _ u => (Sparse.get_put Pair.blank u.dev.pairs q q {}).trans (if_pos rfl))
    (fun q _ k hk u h => ((modPair_pairsBound hk _ rfl).devs (pairsBound_steps qs) u).blank q h) x2
  generalize (each qs fun q => modPair q fun _ => {}).run x2 = x3 at *
  obtain ⟨hd4, hw4, hm4, hh4, hs4, he4⟩ := fnNoted_run fn (s.fenced (44 + fn)) x3
  generalize (fnNoted fn (s.fenced (44 + fn))).run x3 = u at *
  have hfld : ∀ f : Fld, f.off ≠ 0x40100 + 4 * (44 + fn) → u.fld f = x2.fld f := fun f hf =>
    (State.fld_of_word (hw4 _ hf)).trans (State.fld_of_word (hw3 _))
  have hpair : ∀ q, u.pair q = x3.pair q := fun q => by rw [State.pair, hd4]; rfl
  have hctl : ∀ q, q < 256 → 0x81000 + 64 * q ≠ 0x40100 + 4 * (44 + fn) := fun q _ => by omega
  have hline' : ∀ n, n < 117 → u.unitState n = x2.unitState n := fun n hn => by
    by_cases e : n = 44 + fn
    · rw [e, hs4]
      exact State.fld_of_word (hw3 _)
    · exact hfld (F.LEDG_UNIT_STATE n) (by show 0x40100 + 4 * n ≠ _; omega)
  have hen' : ∀ q, q < 256 → u.fld (F.QP_CTL_EN q) = if q ∈ qs then 0 else s.fld (F.QP_CTL_EN q) := fun q hq => by
    rw [hfld (F.QP_CTL_EN q) (hctl q hq), hen q hq, State.fld_of_word (f := F.QP_CTL_EN q) (hw1 _)]
  refine ⟨?_, fun q hq ho => ⟨?_, ?_⟩, fun q hq ho => ⟨?_, ?_⟩, fun q hq => ?_, fun q hq => ?_, fun n hn => ?_, fun hfence => ?_, ?_,
    fun h1 => ?_, ?_, ?_⟩
  · rw [hd4, hd3.dev, hd2, hd1.dev]
  · rw [State.bit, hen' q hq, if_pos (hqs.mpr ⟨hq, ho⟩)]
    rfl
  · exact (hpair q).trans (hblank q (hqs.mpr ⟨hq, ho⟩))
  · rw [hen' q hq, if_neg fun h => ho (hqs.mp h).2]
  · have hq' : q ∉ qs := fun h => ho (hqs.mp h).2
    exact ((hpair q).trans (hd3.others q hq')).trans ((congrArg (fun d => Sparse.get Pair.blank (Dev.pairs d) q) hd2).trans (hd1.others q hq'))
  · exact (hfld (F.QP_CTL_FUNC q) (hctl q hq)).trans ((hfn q hq).trans (State.fld_of_word (hw1 _)))
  · refine (hpair q).trans (hd3.blank q ?_)
    rw [hd2]
    exact hd1.blank q hq
  · exact (hline' n hn).trans ((hline n hn).1.trans (State.fld_of_word (hw1 _)))
  · rw [he4 hfence, show x3.epoch (44 + fn) = x2.epoch (44 + fn) from State.fld_of_word (hw3 _), (hline _ (by omega)).2.2,
      show x1.epoch (44 + fn) = s.epoch (44 + fn) from State.fld_of_word (hw1 _)]
  · exact latched_filter u (fnPath fn) x3.dev.hs.latches (by rw [hd4])
  · exact (hfld ⟨0x4000018 + 0x10000 * fn, 0, 32⟩ (by show 0x4000018 + 0x10000 * fn ≠ _; omega)).trans (hscratch h1)
  · rw [hm4, hm3, hm2, hm1]
  · rw [hh4, hh3, hh2, hh1]

theorem setUnit_line (u st : Nat) (s : State) : OnlyLine s ((setUnit u st).run s) u :=
  onlyLine_of_obeys (p := setUnit u st) (Prog.only_setF fun _ => rfl) s

/-! ## A virtual function -/

theorem vfFlr_completes {s : State} {v : Nat} (hr : s.ready = true) (hup : s.linkUp = true) (h1 : 1 ≤ v) (hn : v ≤ s.dev.numVfs) (hv : v < 64)
    (hs : s.unitState (44 + v) ≠ 0) (hf : s.fenced (44 + v) = false) : Completes (.vfFlr v) s fun u => u.unitState (44 + v) = 3 ∧
      u.epoch (44 + v) = (s.epoch (44 + v) + 1) % 65536 ∧
      (∀ q, q < 256 → s.owner q = v → u.owner q = v ∧ u.bit (F.QP_CTL_EN q) = false ∧ u.pair q = {}) ∧
      (∀ q, q < 256 → s.owner q ≠ v → u.owner q = s.owner q ∧ u.fld (F.QP_CTL_EN q) = s.fld (F.QP_CTL_EN q) ∧ u.pair q = s.pair q) ∧
      u.fld ⟨0x4000018 + 0x10000 * v, 0, 32⟩ = 0 ∧ u.latched (.vf v) = 0 ∧
      (∀ n, n < 117 → n ≠ 44 + v → u.unitState n = s.unitState n) ∧ u.dev.parts = s.dev.parts ∧ u.dev.log = s.dev.log ∧
      SameBytes s u ∧ SameHost s u := by
  refine completes_done rfl ?_
  rw [Prog.run_when, if_pos (by simp [hr, hup, h1, hn, hs]), vfFlr, Prog.run_all_cons, Prog.run_all_cons, Prog.run_all_nil]
  have hc := clearFunction_run hv s
  generalize (clearFunction v).run s = x at *
  obtain ⟨hst, -, hep⟩ := setUnit_run (44 + v) 3 x
  have hline := setUnit_line (44 + v) 3 x
  generalize (setUnit (44 + v) 3).run x = u at *
  have hctl : ∀ f : Fld, f.off ≠ 0x40100 + 4 * (44 + v) → u.fld f = x.fld f := fun f h => hline.fld h
  have hpair : ∀ q, u.pair q = x.pair q := fun q => by rw [State.pair, hline.dev]; rfl
  refine ⟨hst, hep.trans (hc.epoch hf), fun q hq ho => ⟨?_, ?_, ?_⟩, fun q hq ho => ⟨?_, ?_, ?_⟩, ?_, ?_, fun n hn' hne => ?_, ?_, ?_,
    fun a => ?_, fun a => ?_⟩
  · exact (hctl (F.QP_CTL_FUNC q) (by show 0x81000 + 0x40 * q ≠ _; omega)).trans ((hc.owner q hq).trans ho)
  · exact (congrArg (· == 1) (hctl (F.QP_CTL_EN q) (by show 0x81000 + 0x40 * q ≠ _; omega))).trans (hc.own q hq ho).1
  · exact (hpair q).trans (hc.own q hq ho).2
  · exact (hctl (F.QP_CTL_FUNC q) (by show 0x81000 + 0x40 * q ≠ _; omega)).trans (hc.owner q hq)
  · exact (hctl (F.QP_CTL_EN q) (by show 0x81000 + 0x40 * q ≠ _; omega)).trans (hc.others q hq ho).1
  · exact (hpair q).trans (hc.others q hq ho).2
  · exact (hctl _ (by show 0x4000018 + 0x10000 * v ≠ _; omega)).trans (hc.scratch h1)
  · have hl := hc.latch
    rw [fnPath, if_neg (by omega)] at hl
    rw [State.latched, hline.dev]
    exact hl
  · exact (hctl (F.LEDG_UNIT_STATE n) (by show 0x40100 + 4 * n ≠ _; omega)).trans (hc.states n hn')
  · rw [hline.dev, hc.dev]
  · rw [hline.dev, hc.dev]
  · rw [hline.mem, hc.mem]
  · rw [hline.host, hc.host]

/-! ## The physical function -/

/-- A virtual function goes with VF Enable. -/
def dropVf (v : Nat) : Prog := all [clearFunction v, setUnit (44 + v) 0]

/-- What the clearing of functions has left of the state `s` by the state `u`, with what it has cleared of the physical function. -/
structure FnsCleared (s u : State) : Prop where
  dev : u.dev = { s.dev with slots := u.dev.slots, pairs := u.dev.pairs, hs := { s.dev.hs with latches := u.dev.hs.latches } }
  own : ∀ q, q < 256 → s.owner q = 0 → u.bit (F.QP_CTL_EN q) = false ∧ u.pair q = {}
  states : ∀ n, n < 44 → u.unitState n = s.unitState n
  mem : u.mem = s.mem
  host : u.host = s.host

theorem dropVf_states {v : Nat} (hv : v < 64) (s : State) : ((dropVf v).run s).unitState (44 + v) = 0 ∧
    ∀ n, n < 117 → n ≠ 44 + v → ((dropVf v).run s).unitState n = s.unitState n := by
  rw [dropVf, Prog.run_all_cons, Prog.run_all_cons, Prog.run_all_nil]
  refine ⟨(setUnit_run (44 + v) 0 _).1, fun n hn hne => ?_⟩
  have hline := setUnit_line (44 + v) 0 ((clearFunction v).run s)
  exact (hline.fld (f := F.LEDG_UNIT_STATE n) (by show 0x40100 + 4 * n ≠ _; omega)).trans ((clearFunction_run hv s).states n hn)

theorem dropVf_cleared {v : Nat} (h1 : 1 ≤ v) (hv : v < 64) {s y : State} (h : FnsCleared s y) : FnsCleared s ((dropVf v).run y) := by
  have hst := (dropVf_states hv y).2
  rw [dropVf, Prog.run_all_cons, Prog.run_all_cons, Prog.run_all_nil] at hst ⊢
  have hc := clearFunction_run hv y
  generalize (clearFunction v).run y = x at *
  have hline := setUnit_line (44 + v) 0 x
  generalize (setUnit (44 + v) 0).run x = u at *
  refine ⟨?_, fun q hq ho => ⟨?_, ?_⟩, fun n hn => ?_, ?_, ?_⟩
  · rw [hline.dev, hc.dev, h.dev]
  · refine (congrArg (· == 1) (hline.fld (f := F.QP_CTL_EN q) (by show 0x81000 + 0x40 * q ≠ _; omega))).trans ?_
    by_cases hy : y.owner q = v
    · exact (hc.own q hq hy).1
    · exact (congrArg (· == 1) (hc.others q hq hy).1).trans (h.own q hq ho).1
  · rw [State.pair, hline.dev]
    exact hc.blank q (h.own q hq ho).2
  · exact (hst n (by omega) (by omega)).trans (h.states n hn)
  · rw [hline.mem, hc.mem, h.mem]
  · rw [hline.host, hc.host, h.host]

theorem dropVfs_run {s x : State} (h : FnsCleared s x) : FnsCleared { s with dev := { s.dev with numVfs := 0 } } (dropVfs.run x) ∧
    (∀ v, 1 ≤ v → v < 64 → (dropVfs.run x).unitState (44 + v) = 0) := by
  have hids : ∀ {v}, v ∈ vfIds.filter (fun v => x.unitState (44 + v) != 0) → (1 ≤ v ∧ v < 64) ∧ x.unitState (44 + v) ≠ 0 := fun {v} hv => by
    obtain ⟨hm, hst⟩ := List.mem_filter.mp hv
    obtain ⟨k, hk, rfl⟩ := List.mem_map.mp hm
    have := List.mem_range.mp hk
    exact ⟨⟨by omega, by omega⟩, by simpa using hst⟩
  have hrun : dropVfs.run x = (modDev fun d => { d with numVfs := 0 }).run
      ((each (vfIds.filter fun v => x.unitState (44 + v) != 0) dropVf).run x) := rfl
  have hkeep := Prog.run_each_keeps (l := vfIds.filter fun v => x.unitState (44 + v) != 0) (f := dropVf) (P := FnsCleared s)
    (fun v hv y hy => dropVf_cleared (hids hv).1.1 (hids hv).1.2 hy) x h
  have hzero : ∀ v, 1 ≤ v → v < 64 →
      ((each (vfIds.filter fun v => x.unitState (44 + v) != 0) dropVf).run x).unitState (44 + v) = 0 := fun v h1 h2 => by
    have hturn : ∀ w ∈ vfIds.filter (fun v => x.unitState (44 + v) != 0), ∀ y : State, y.unitState (44 + v) = 0 →
        ((dropVf w).run y).unitState (44 + v) = 0 := fun w hw y hy => by
      by_cases e : v = w
      · exact e ▸ (dropVf_states (e ▸ h2) y).1
      · exact ((dropVf_states (hids hw).1.2 y).2 _ (by omega) (by omega)).trans hy
    by_cases hst : x.unitState (44 + v) = 0
    · exact Prog.run_each_keeps hturn x hst
    · have hmem : v ∈ vfIds.filter fun v => x.unitState (44 + v) != 0 :=
        List.mem_filter.mpr ⟨List.mem_map.mpr ⟨v - 1, List.mem_range.mpr (by omega), by omega⟩, by simpa using hst⟩
      refine Prog.run_each_establishes (P := fun v y => y.unitState (44 + v) = 0) (fun w hw y => (dropVf_states (hids hw).1.2 y).1)
        (fun w hw k hk y hy => ?_) x v hmem
      by_cases e : w = k
      · exact e ▸ (dropVf_states (hids hw).1.2 y).1
      · exact ((dropVf_states (hids hk).1.2 y).2 _ (by have := (hids hw).1.2; omega) (by omega)).trans hy
  rw [hrun]
  generalize (each _ dropVf).run x = y at *
  refine ⟨⟨?_, hkeep.own, hkeep.states, hkeep.mem, hkeep.host⟩, hzero⟩
  show { y.dev with numVfs := 0 } = _
  rw [hkeep.dev]
  rfl

/-- The fields of a pair that the physical function's reset clears for every pair. -/
def rangeKeeps (off : Nat) (f : FieldSpec) : Bool :=
  !(0x81000 ≤ off && decide (off < 0x85000)) || !(off % 64 == 4 || (off % 64 == 0 && f.lo == 2))

/-- What the loss of the ranges comes to. -/
structure RangesLost (s u : State) : Prop where
  dev : u.dev = s.dev
  mem : u.mem = s.mem
  host : u.host = s.host
  pairs : ∀ q, q < 256 → u.owner q = 0 ∧ u.fld (F.QP_SLOTS_SLOT_LO q) = 0 ∧ u.fld (F.QP_SLOTS_SLOT_HI q) = 0 ∧
    u.fld (F.QP_CTL_EN q) = s.fld (F.QP_CTL_EN q)
  states : ∀ n, n < 117 → u.unitState n = s.unitState n
  windows : ∀ w, w < 16 → u.fld (F.HQ_HWIN_CTL_VALID w) = s.fld (F.HQ_HWIN_CTL_VALID w)

theorem rangeLoss_run (s : State) : RangesLost s ((Act.lose rangeKeeps).apply s) := by
  have hin : ∀ q o f, q < 256 → o < 64 → rangeKeeps (0x81000 + 64 * q + o) f = !(o == 4 || (o == 0 && f.lo == 2)) := fun q o f hq ho => by
    have hmod : (0x81000 + 64 * q + o) % 64 = o := by omega
    rw [rangeKeeps, decide_eq_true (by omega : 0x81000 ≤ 0x81000 + 64 * q + o), decide_eq_true (by omega : 0x81000 + 64 * q + o < 0x85000), hmod]
    simp
  refine ⟨State.lose_dev _ _, State.lose_mem _ _, State.lose_host _ _, fun q hq => ⟨?_, ?_, ?_, ?_⟩, fun n hn => ?_, fun w hw => ?_⟩
  · exact State.fld_lose_lost (RegMap.pairCtl_fields q hq).2 (hin q 0 _ hq (by decide)) s
  · exact State.fld_lose_lost (RegMap.pairSlots_fields q hq).1
      (by rw [show 0x81004 + 64 * q = 0x81000 + 64 * q + 4 by omega]; exact hin q 4 _ hq (by decide)) s
  · exact State.fld_lose_lost (RegMap.pairSlots_fields q hq).2
      (by rw [show 0x81004 + 64 * q = 0x81000 + 64 * q + 4 by omega]; exact hin q 4 _ hq (by decide)) s
  · exact State.fld_lose_kept (RegMap.pairCtl_fields q hq).1 (hin q 0 _ hq (by decide)) s
  · refine (State.line_lose hn (fun f => ?_) s).1
    rw [rangeKeeps, decide_eq_false (by omega : ¬0x81000 ≤ 0x40100 + 4 * n)]
    rfl
  · have hmem : ∀ w < 16, (⟨31, 1, .rw, 0, .H⟩ : FieldSpec) ∈ RegMap.fields (0x8040C + 0x10 * w) := by decide +kernel
    refine State.fld_lose_kept (hmem w hw) ?_ s
    rw [rangeKeeps, decide_eq_false (by omega : ¬0x81000 ≤ 0x8040C + 0x10 * w)]
    rfl

/-- The host windows become invalid. -/
def dropWindows : Prog := each (List.range 16) fun w => setB (F.HQ_HWIN_CTL_VALID w) false

theorem dropWindows_run (s : State) : (∀ w, w < 16 → (dropWindows.run s).bit (F.HQ_HWIN_CTL_VALID w) = false) ∧
    (∀ o, ¬(0x8040C ≤ o ∧ o < 0x8050C) → (dropWindows.run s).word o = s.word o) ∧ (dropWindows.run s).dev = s.dev ∧
    (dropWindows.run s).mem = s.mem ∧ (dropWindows.run s).host = s.host := by
  have hwin : dropWindows.Only (Act.obeys ⟨fun d e => e = d, fun o => 0x8040C ≤ o ∧ o < 0x8050C, False, False⟩) :=
    Prog.only_each.mpr fun w hw => by
      have := List.mem_range.mp hw
      exact setB_obeys.mpr ⟨by show 0x8040C ≤ 0x8040C + 0x10 * w; omega, by show 0x8040C + 0x10 * w < 0x8050C; omega⟩
  refine ⟨fun w hw => ?_, fun o ho => hwin.words ho s, hwin.devs ⟨fun _ => rfl, fun h k => k.trans h⟩ s, hwin.mems id s, hwin.hosts id s⟩
  refine Prog.run_each_establishes (l := List.range 16) (f := fun w => setB (F.HQ_HWIN_CTL_VALID w) false)
    (P := fun w u => u.bit (F.HQ_HWIN_CTL_VALID w) = false)
    (fun w _ u => Prog.bit_setB_same (f := F.HQ_HWIN_CTL_VALID w) rfl (by decide : (31 : ℕ) + 1 ≤ 32) false u) (fun w _ k _ u h => ?_) s w
    (List.mem_range.mpr hw)
  by_cases e : w = k
  · exact e ▸ Prog.bit_setB_same (f := F.HQ_HWIN_CTL_VALID w) rfl (by decide : (31 : ℕ) + 1 ≤ 32) false u
  · exact (congrArg (· == 1) (Prog.fld_setF_other (F.HQ_HWIN_CTL_VALID k) (F.HQ_HWIN_CTL_VALID w) _ u (by decide : (31 : ℕ) + 1 ≤ 32)
      (.inl (by show 0x8040C + 0x10 * w ≠ 0x8040C + 0x10 * k; omega)))).trans h

/-- What clearing the host's side comes to. -/
structure HostGone (x u : State) : Prop where
  dev : u.dev = x.dev
  windows : ∀ w, w < 16 → u.bit (F.HQ_HWIN_CTL_VALID w) = false
  ranges : ∀ q, q < 256 → u.owner q = 0 ∧ u.fld (F.QP_SLOTS_SLOT_LO q) = 0 ∧ u.fld (F.QP_SLOTS_SLOT_HI q) = 0 ∧
    u.fld (F.QP_CTL_EN q) = x.fld (F.QP_CTL_EN q)
  states : ∀ n, n < 117 → u.unitState n = x.unitState n
  mem : u.mem = x.mem
  host : u.host = x.host

/-- The host's side after VF Enable is cleared: windows, ranges and vector 0. -/
def clearRanges : Prog := all [dropWindows, .act (.lose rangeKeeps)]

theorem clearRanges_run (x : State) : HostGone x (clearRanges.run x) := by
  obtain ⟨hwin, hw, hd, hm, hh⟩ := dropWindows_run x
  have hl := rangeLoss_run (dropWindows.run x)
  have hrun : clearRanges.run x = (Act.lose rangeKeeps).apply (dropWindows.run x) := by
    rw [clearRanges, Prog.run_all_cons, Prog.run_all_cons, Prog.run_all_nil, Prog.run_act]
  rw [hrun]
  generalize (Act.lose rangeKeeps).apply (dropWindows.run x) = u at *
  generalize dropWindows.run x = y at *
  refine ⟨hl.dev.trans hd, fun w hw => ?_, fun q hq => ?_, fun n hn => ?_, hl.mem.trans hm, hl.host.trans hh⟩
  · exact (congrArg (· == 1) (hl.windows w hw)).trans (hwin w hw)
  · obtain ⟨h1, h2, h3, h4⟩ := hl.pairs q hq
    refine ⟨h1, h2, h3, h4.trans (State.fld_of_word (f := F.QP_CTL_EN q) (hw _ ?_))⟩
    show ¬(0x8040C ≤ 0x81000 + 0x40 * q ∧ 0x81000 + 0x40 * q < 0x8050C)
    omega
  · refine (hl.states n hn).trans (State.fld_of_word (f := F.LEDG_UNIT_STATE n) (hw _ ?_))
    show ¬(0x8040C ≤ 0x40100 + 4 * n ∧ 0x40100 + 4 * n < 0x8050C)
    omega

theorem clearHost_run {x : State} (hl : (clearRanges.run (dropVfs.run x)).dev.chuck.load = none) :
    clearHost.run x = (modLog fun l => { l with armed := true }).run (clearRanges.run (dropVfs.run x)) := by
  have hlose : (Act.lose fun off f => !(0x81000 ≤ off && decide (off < 0x85000)) || !(off % 64 == 4 || (off % 64 == 0 && f.lo == 2))) =
      Act.lose rangeKeeps := rfl
  have hsplit : ∀ y : State, (Prog.act (Act.lose rangeKeeps)).run (dropWindows.run y) = clearRanges.run y := fun y => by
    rw [clearRanges, Prog.run_all_cons, Prog.run_all_cons, Prog.run_all_nil]
  rw [clearHost]
  iterate 5 rw [Prog.run_all_cons]
  rw [Prog.run_all_nil, hlose, ← dropWindows, hsplit, endLoad_run_none hl]

/-- Vector 0 is armed, and a unit takes a state. -/
theorem armUnit_run (n st : Nat) (s : State) :
    ((setUnit n st).run ((modLog fun l => { l with armed := true }).run s)).unitState n = st % 16 ∧
    ((setUnit n st).run ((modLog fun l => { l with armed := true }).run s)).dev = { s.dev with log := { s.dev.log with armed := true } } ∧
    (∀ o, o ≠ 0x40100 + 4 * n → ((setUnit n st).run ((modLog fun l => { l with armed := true }).run s)).word o = s.word o) ∧
    ((setUnit n st).run ((modLog fun l => { l with armed := true }).run s)).mem = s.mem ∧
    ((setUnit n st).run ((modLog fun l => { l with armed := true }).run s)).host = s.host := by
  have hline := setUnit_line n st ((modLog fun l => { l with armed := true }).run s)
  exact ⟨(setUnit_run n st _).1, hline.dev, fun o ho => hline.words o ho, hline.mem, hline.host⟩

theorem pfFlr_completes {s : State} (hr : s.ready = true) (hup : s.linkUp = true) (h44 : s.unitState 44 ≠ 0) (hl : s.dev.chuck.load = none) :
    Completes .pfFlr s fun u => u.unitState 44 = 3 ∧ u.dev.numVfs = 0 ∧ (∀ v, 1 ≤ v → v < 64 → u.unitState (44 + v) = 0) ∧
      (∀ w, w < 16 → u.bit (F.HQ_HWIN_CTL_VALID w) = false) ∧
      (∀ q, q < 256 → u.owner q = 0 ∧ u.fld (F.QP_SLOTS_SLOT_LO q) = 0 ∧ u.fld (F.QP_SLOTS_SLOT_HI q) = 0) ∧
      (∀ q, q < 256 → s.owner q = 0 → u.bit (F.QP_CTL_EN q) = false ∧ u.pair q = {}) ∧
      (∀ n, n < 44 → u.unitState n = s.unitState n) ∧ u.dev.parts = s.dev.parts ∧ u.dev.log.recs = s.dev.log.recs ∧
      SameBytes s u ∧ SameHost s u := by
  refine completes_done rfl ?_
  rw [Prog.run_when, if_pos (by simp [hr, hup, h44]), pfFlr]
  iterate 3 rw [Prog.run_all_cons]
  rw [Prog.run_all_nil]
  have hc := clearFunction_run (fn := 0) (by decide) s
  generalize (clearFunction 0).run s = x1 at *
  have h1 : FnsCleared s x1 := ⟨hc.dev, hc.own, fun n hn => hc.states n (by omega), hc.mem, hc.host⟩
  obtain ⟨h2, hzero⟩ := dropVfs_run h1
  have h3 := clearRanges_run (dropVfs.run x1)
  rw [clearHost_run (by rw [h3.dev, h2.dev]; exact hl)]
  generalize clearRanges.run (dropVfs.run x1) = x3 at *
  generalize dropVfs.run x1 = x2 at *
  obtain ⟨hst, hdev, hw, hm, hh⟩ := armUnit_run 44 3 x3
  generalize (setUnit 44 3).run _ = u at *
  have hfld : ∀ f : Fld, f.off ≠ 0x40100 + 4 * 44 → u.fld f = x3.fld f := fun f hf => State.fld_of_word (hw _ hf)
  have hstate : ∀ n, n < 117 → n ≠ 44 → u.unitState n = x2.unitState n := fun n hn hne =>
    (hfld (F.LEDG_UNIT_STATE n) (by show 0x40100 + 4 * n ≠ _; omega)).trans (h3.states n hn)
  refine ⟨hst, ?_, fun v h1 hv => ?_, fun w hw => ?_, fun q hq => ⟨?_, ?_, ?_⟩, fun q hq ho => ⟨?_, ?_⟩, fun n hn => ?_, ?_, ?_, fun a => ?_,
    fun a => ?_⟩
  · rw [hdev, h3.dev, h2.dev]
  · exact (hstate (44 + v) (by omega) (by omega)).trans (hzero v h1 hv)
  · exact (congrArg (· == 1) (hfld (F.HQ_HWIN_CTL_VALID w) (by show 0x8040C + 0x10 * w ≠ _; omega))).trans (h3.windows w hw)
  · exact (hfld (F.QP_CTL_FUNC q) (by show 0x81000 + 0x40 * q ≠ _; omega)).trans (h3.ranges q hq).1
  · exact (hfld (F.QP_SLOTS_SLOT_LO q) (by show 0x81004 + 0x40 * q ≠ _; omega)).trans (h3.ranges q hq).2.1
  · exact (hfld (F.QP_SLOTS_SLOT_HI q) (by show 0x81004 + 0x40 * q ≠ _; omega)).trans (h3.ranges q hq).2.2.1
  · exact (congrArg (· == 1) ((hfld (F.QP_CTL_EN q) (by show 0x81000 + 0x40 * q ≠ _; omega)).trans (h3.ranges q hq).2.2.2)).trans
      (h2.own q hq ho).1
  · rw [State.pair, hdev, h3.dev]
    exact (h2.own q hq ho).2
  · exact (hstate n (by omega) (by omega)).trans (h2.states n hn)
  · rw [hdev, h3.dev, h2.dev]
  · rw [hdev, h3.dev, h2.dev]
  · rw [hm, h3.mem, h2.mem]
  · rw [hh, h3.host, h2.host]

theorem flrDone_completes {s : State} {f : Nat} (hr : s.ready = true) (hf : f < 64) (h3 : s.unitState (44 + f) = 3) :
    Completes (.flrDone f) s fun u => u.unitState (44 + f) = 1 ∧ u.dev.log.count ≠ s.dev.log.count ∧ SameBytes s u ∧ SameHost s u ∧
      SameRegsBut s u ((F.LEDG_UNIT_STATE (44 + f)).off :: catchRegs) := by
  refine completes_done rfl ?_
  rw [Prog.run_when, if_pos (by simp [hr, hf, h3])]
  have honly : (all [setUnit (44 + f) 1, logC 0xA005 0 43 [f]]).Only (Act.obeys (.regs [0x40100 + 4 * (44 + f)])) := by
    simp [Bound.regs_logC]
  obtain ⟨hb, hh, hregs⟩ := honly.sameRegs_of_regs s
  refine ⟨?_, ?_, hb, hh, hregs⟩
  · rw [Prog.run_all_cons, Prog.run_all_cons, Prog.run_all_nil, State.unitState, logC_fld _ _ _ _ _ _ (unitLine_not_logged _ (by omega))]
    exact (setUnit_run (44 + f) 1 s).1
  · rw [Prog.run_all_cons, Prog.run_all_cons, Prog.run_all_nil]
    exact logC_count_ne _ _ _ _ _ _

/-- Settles O44: one lemma for each reset. -/
theorem hostResets : Obligations.HostResets :=
  ⟨fun _ => hostReset_perst, fun _ _ => vfFlr_completes, fun _ => pfFlr_completes, fun _ _ => flrDone_completes⟩

end Sys2Proof.Machine
end

section
/-!
Test access (R539 to R543): O54.
-/
namespace Sys2Proof.Machine

/-! ## A host reset takes no record back -/

@[simp] theorem modLog_armed_keepsCount (b : Bool) : (modLog fun l => { l with armed := b }).Only Act.keepsCount := by simp [modLog]
@[simp] theorem modOut_keepsCount (k f) : (modOut k f).Only Act.keepsCount := by simp [modOut]
@[simp] theorem setFields_keepsCount (off v keep) : (setFields off v keep).Only Act.keepsCount := by simp [setFields]
@[simp] theorem dropFlights_keepsCount (q) : (dropFlights q).Only Act.keepsCount := by simp [dropFlights, gapNext]

@[simp] theorem loseStaged_keepsCount (p) : (loseStaged p).Only Act.keepsCount := by
  simp only [loseStaged, Prog.only_look]
  intro s
  split <;> simp

@[simp] theorem startSource_keepsCount : startSource.Only Act.keepsCount := by
  simp only [startSource, Prog.only_look]
  intro s
  split <;> simp

@[simp] theorem rejectLoad_keepsCount (code seg) : (rejectLoad code seg).Only Act.keepsCount := by
  simp only [rejectLoad, Prog.only_look]
  intro s
  split <;> simp [noteOpen, unwriteLoad, unwrite, setResult, leaveSource]

@[simp] theorem endLoad_keepsCount (sel code) : (endLoad sel code).Only Act.keepsCount := by simp [endLoad]

@[simp] theorem acceptPort_keepsCount (k en) : (acceptPort k en).Only Act.keepsCount := by simp [acceptPort, setWord]

@[simp] theorem unframePath_keepsCount (i) : (unframePath i).Only Act.keepsCount := by
  simp [unframePath, unframe, discard, gapNext, arrDrop]

@[simp] theorem cutHostXfers_keepsCount : cutHostXfers.Only Act.keepsCount := by
  simp only [cutHostXfers, Prog.only_look, Prog.only_each]
  intro s y _
  split <;> simp

@[simp] theorem hostResetProg_keepsCount (wire) : (hostResetProg wire).Only Act.keepsCount := by
  simp [hostResetProg, restoreTileClk, setVreq, restorePorts, restoreArray, unframeAll]

/-- Whatever it meets, a host reset leaves the link down. -/
theorem hostResetProg_link (wire : Bool) (s : State) : ((hostResetProg wire).run s).unitState 43 = 0 := by
  rw [hostResetProg, Prog.run_look]
  iterate 15 rw [Prog.run_all_cons]
  exact hostDown_link s _

/-! ## Selecting an instruction -/

theorem selectIr_run (ir : Nat) (s : State) : (selectIr ir).run s = { s with dev := { s.dev with svc := { s.dev.svc with jtagIr := ir } } } := rfl

theorem tap_run {s : State} (hp : s.dev.pwr.por = false) (q : Prog) : (tap q).run s = q.run s := by
  rw [tap, Prog.run_look, hp, Prog.run_when, if_pos (by rfl)]

theorem takeBalls_completes {s : State} (hp : s.dev.pwr.por = false) (ir : Nat) :
    ((takeBalls ir).run s).dev.svc.jtagIr = ir ∧ s.dev.log.count < ((takeBalls ir).run s).dev.log.count ∧
    (s.ready = true → s.linkUp = true → ((takeBalls ir).run s).unitState 43 = 0) ∧
    (s.linkUp = false → OnlyRegs s ((takeBalls ir).run s) catchRegs) := by
  have hrun : (takeBalls ir).run s = (logC 0xC040 1 127 []).run ((selectIr ir).run ((when (s.ready && s.linkUp) (hostResetProg false)).run s)) := by
    rw [takeBalls, tap_run hp, Prog.run_look, Prog.run_all_cons, Prog.run_all_cons, Prog.run_all_cons, Prog.run_all_nil]
  rw [hrun]
  have hcount : s.dev.log.count ≤ ((when (s.ready && s.linkUp) (hostResetProg false)).run s).dev.log.count :=
    Prog.Only.count_le (by simp) s
  have hlink : s.ready = true → s.linkUp = true → ((when (s.ready && s.linkUp) (hostResetProg false)).run s).unitState 43 = 0 := fun hr hl => by
    rw [Prog.run_when, hr, hl, if_pos (by rfl)]
    exact hostResetProg_link false s
  have hdown : s.linkUp = false → (when (s.ready && s.linkUp) (hostResetProg false)).run s = s := fun hl => by
    rw [Prog.run_when, hl, Bool.and_false, if_neg Bool.false_ne_true]
  generalize (when (s.ready && s.linkUp) (hostResetProg false)).run s = x at *
  rw [selectIr_run]
  generalize hy : ({ x with dev := { x.dev with svc := { x.dev.svc with jtagIr := ir } } } : State) = y
  have hir : y.dev.svc.jtagIr = ir := by rw [← hy]
  have hyc : y.dev.log = x.dev.log := by rw [← hy]
  have hyw : ∀ o, y.word o = x.word o := fun o => by rw [← hy]; rfl
  have hym : y.mem = x.mem := by rw [← hy]
  have hyh : y.host = x.host := by rw [← hy]
  clear hy
  have hlog := logC_run_onlyLogs 0xC040 1 127 [] none y
  have hlt := logC_count_lt 0xC040 1 127 [] none y
  generalize (logC 0xC040 1 127 []).run y = u at *
  refine ⟨?_, ?_, fun hr hl => ?_, fun hl => ⟨fun o ho => ?_, fun a => ?_, fun a => ?_⟩⟩
  · rw [hlog.dev]
    exact hir
  · rw [hyc] at hlt
    exact lt_of_le_of_lt hcount hlt
  · exact (hlog.fld (f := F.LEDG_UNIT_STATE 43) (by decide)).trans ((State.fld_of_word (hyw _)).trans (hlink hr hl))
  · rw [hlog.regs o ho, hyw, hdown hl]
  · rw [hlog.mem, hym, hdown hl]
  · rw [hlog.host, hyh, hdown hl]

/-! ## Debug instructions -/

theorem debugIr_open {s : State} (hp : s.dev.pwr.por = false) (hf : fuseBit s.dev.chuck 2 = false) (ir : Nat) (q : Prog) :
    (debugIr ir q).run s = q.run ((selectIr ir).run s) := by
  rw [debugIr, tap_run hp, Prog.run_look, hf, Prog.run_all_cons, Prog.run_all_cons, Prog.run_all_cons, Prog.run_all_nil]
  rfl

theorem debugIr_locked {s : State} (hp : s.dev.pwr.por = false) (hf : fuseBit s.dev.chuck 2 = true) (ir : Nat) (q : Prog) :
    ((debugIr ir q).run s).dev.svc = { s.dev.svc with jtagIr := ir } ∧ OnlyRegs s ((debugIr ir q).run s) catchRegs := by
  rw [debugIr, tap_run hp, Prog.run_look, hf, Prog.run_all_cons, Prog.run_all_cons, Prog.run_all_cons, Prog.run_all_nil]
  have hlogs : (when (true && s.dev.svc.jtagIr != ir) (logSvc 0xC041 0 127 [])).Only Act.logs :=
    Prog.only_when.mpr fun _ => logLim_onlyLogs (.ticks 2500000) 127 0xC041 0 127 [] none
  have h := hlogs.onlyLogs s
  generalize (when (true && s.dev.svc.jtagIr != ir) (logSvc 0xC041 0 127 [])).run s = x at *
  refine ⟨?_, fun o ho => h.regs o ho, fun a => congrArg (·.read a) h.mem, fun a => congrArg (·.read a) h.host⟩
  show { x.dev.svc with jtagIr := ir } = _
  rw [h.dev]

/-- The state after a debug instruction has taken an address. -/
def State.debugging (s : State) (ir a : Nat) : State := { s with dev := { s.dev with svc := { s.dev.svc with jtagIr := ir, dbgAddr := a } } }

theorem State.readWord_debugging (s : State) (ir a off : Nat) : (s.debugging ir a).readWord .jtag off = s.readWord .jtag off := by
  have hview : (s.debugging ir a).viewOf off = s.viewOf off := rfl
  have hval : (s.debugging ir a).regValue off = s.regValue off := congrArg (fun v : Option Nat => v.getD (s.word off).toNat) hview
  have hreach : (s.debugging ir a).reach .jtag off = s.reach .jtag off := rfl
  have hlatch : (s.debugging ir a).latched .jtag = s.latched .jtag := rfl
  simp only [State.readWord, hreach, hval, hlatch]

/-- A read that latches nothing and clears nothing leaves the state. -/
theorem readEffect_run_none {s : State} {a : Nat} (hp : s.pairHigh a = none) (hf : ∀ f ∈ RegMap.fields a, f.acc ≠ .rc) :
    (readEffect .jtag a true).run s = s := by
  have hrc : (RegMap.fields a).filter (fun f => f.acc == .rc) = [] := List.filter_eq_nil_iff.mpr fun f hm => by simpa using hf f hm
  rw [readEffect, Prog.run_look, Prog.run_when]
  split
  · cases hk : s.keyOf .jtag a with
    | none => rfl
    | some k =>
      have hka : k = a := by
        simp only [State.keyOf] at hk
        split at hk
        · cases hk
        · exact (Option.some.inj hk).symm
      dsimp only
      have hkey : pairKey .jtag a = a := rfl
      rw [Prog.run_all_cons, Prog.run_all_cons, Prog.run_all_nil, latchPair, Prog.run_look, hkey, hp, Prog.run_nop, Prog.run_when]
      split
      · rw [hka, clearRc_run_of_none hrc]
      · rfl
  · rfl

theorem dbgAddr_read {s : State} (hp : s.dev.pwr.por = false) (hf : fuseBit s.dev.chuck 2 = false) {a : Nat} (ha : a % 4 = 0)
    (hlt : a < 0x4000000) (hpair : s.pairHigh a = none) (hrc : ∀ f ∈ RegMap.fields a, f.acc ≠ .rc) (hm : a ≠ F.ARR_FAB_MDATA_LO.off) :
    Completes (.dbgAddr a false) s fun u => OnlyRegs s u [] ∧
      u.dev.svc = { s.dev.svc with jtagIr := 0x40, dbgAddr := a, dbgData := BitVec.ofNat 32 (s.readWord .jtag a) } := by
  have hmod : a % 2 ^ 32 = a := Nat.mod_eq_of_lt (by omega)
  refine completes_done rfl ?_
  rw [debugIr_open hp hf, hmod, Prog.run_all_cons, Prog.run_all_cons, Prog.run_all_nil, Prog.run_when, if_pos (by rfl), Prog.run_all_cons,
    Prog.run_all_cons, Prog.run_all_nil, fetchFor_run_other hm, Prog.run_look]
  have hx : (modSvc fun v => { v with dbgAddr := a + 2 ^ 32 * oneIf false }).run ((selectIr 0x40).run s) = s.debugging 0x40 a := rfl
  rw [hx, if_pos ha, State.readWord_debugging, Prog.run_all_cons, Prog.run_all_cons, Prog.run_all_nil, Prog.run_when,
    if_pos (beq_iff_eq.mpr ha)]
  generalize hy : (modSvc _).run (s.debugging 0x40 a) = y
  have hyp : y.pairHigh a = none := by
    rw [← hy]
    exact hpair
  rw [readEffect_run_none hyp hrc, ← hy]
  exact ⟨⟨fun _ _ => rfl, fun _ => rfl, fun _ => rfl⟩, rfl⟩

theorem dbgAddr_write {s : State} (hp : s.dev.pwr.por = false) (hf : fuseBit s.dev.chuck 2 = false) {a : Nat} (hlt : a < 2 ^ 32) :
    Completes (.dbgAddr a true) s fun u => OnlyRegs s u [] ∧ u.dev.svc = { s.dev.svc with jtagIr := 0x40, dbgAddr := a + 2 ^ 32 } := by
  refine completes_done rfl ?_
  rw [debugIr_open hp hf, Nat.mod_eq_of_lt hlt, Prog.run_all_cons, Prog.run_all_cons, Prog.run_all_nil, Prog.run_when, if_neg (by simp)]
  exact ⟨⟨fun _ _ => rfl, fun _ => rfl, fun _ => rfl⟩, rfl⟩

/-- DBG_DATA answers what was read and becomes the instruction. -/
def State.dbgReplied (s : State) : State :=
  { s with dev := { s.dev with out := s.dev.out ++ [.reply .jtag (toBytes 4 s.dev.svc.dbgData.toNat)], svc := { s.dev.svc with jtagIr := 0x41 } } }

theorem dbgData_run {s : State} (hp : s.dev.pwr.por = false) (hf : fuseBit s.dev.chuck 2 = false) (v : Word) :
    exec (.dbgData v) s = .next ((when (bitsOf s.dev.svc.dbgAddr 32 1 == 1)
      (writeAlone .jtag (s.dev.svc.dbgAddr % 2 ^ 32) v.toNat [])).run s.dbgReplied) := by
  show done _ s = _
  rw [done_eq, debugIr_open hp hf, Prog.run_look, Prog.run_all_cons, Prog.run_all_cons, Prog.run_all_nil]
  rfl

theorem dbgData_read {s : State} (hp : s.dev.pwr.por = false) (hf : fuseBit s.dev.chuck 2 = false) (v : Word)
    (ha : s.dev.svc.dbgAddr < 2 ^ 32) : Completes (.dbgData v) s fun u =>
      u.dev.out = s.dev.out ++ [.reply .jtag (toBytes 4 s.dev.svc.dbgData.toNat)] ∧ u.dev.svc = { s.dev.svc with jtagIr := 0x41 } ∧
      OnlyRegs s u [] := by
  refine ⟨_, dbgData_run hp hf v, ?_⟩
  have h0 : bitsOf s.dev.svc.dbgAddr 32 1 = 0 := by rw [bitsOf, Nat.div_eq_of_lt ha, Nat.zero_mod]
  rw [h0, Prog.run_when, if_neg (by simp)]
  exact ⟨rfl, rfl, fun _ _ => rfl, fun _ => rfl, fun _ => rfl⟩

theorem dbgData_write {s : State} (hp : s.dev.pwr.por = false) (hf : fuseBit s.dev.chuck 2 = false) (hr : s.ready = true) {a : Nat} (v : Word)
    (hlt : a < 0x10000) (ha : a % 4 = 0) (hfs : RegMap.fields a ≠ []) (hd : s.dev.svc.dbgAddr = a + 2 ^ 32) (hc : s.dev.ledg.cycle = []) :
    Completes (.dbgData v) s fun u => u.dev.out = s.dev.out ++ [.reply .jtag (toBytes 4 s.dev.svc.dbgData.toNat)] ∧
      u.dev.svc = { s.dev.svc with jtagIr := 0x41 } ∧
      (∀ f ∈ RegMap.fields a, bitsOf (u.word a).toNat f.lo f.w =
        if f.acc = .rw then bitsOf v.toNat f.lo f.w else bitsOf (s.word a).toNat f.lo f.w) ∧ OnlyRegs s u [a] := by
  refine ⟨_, dbgData_run hp hf v, ?_⟩
  have h1 : bitsOf s.dev.svc.dbgAddr 32 1 = 1 := by rw [hd, bitsOf]; omega
  have hmod : s.dev.svc.dbgAddr % 2 ^ 32 = a := by rw [hd]; omega
  rw [h1, hmod, Prog.run_when, if_pos (by rfl)]
  obtain ⟨hawake, hdev⟩ := Bool.and_eq_true_iff.mp hr
  obtain ⟨-, hheld⟩ := Bool.and_eq_true_iff.mp hawake
  have hreach : s.dbgReplied.reach .jtag a = true := by
    have hd1 : s.dbgReplied.devState = 1 := beq_iff_eq.mp hdev
    have hh1 : s.dbgReplied.heldReset = false := (Bool.not_eq_true' _).mp hheld
    have hp1 : s.dbgReplied.dev.pwr.por = false := hp
    have hm1 : msixRegion a = false := by simp [msixRegion]; omega
    simp [State.reach, State.inRest, hd1, hh1, hp1, hm1]
    omega
  have hb : benchOf a = none := if_neg (by simp; omega)
  have hw : (writeFields a v.toNat).Only (Act.writes a) := fun _ => rfl
  rw [writeAlone, Prog.run_all_cons, Prog.run_all_cons, Prog.run_all_cons, Prog.run_all_nil,
    writeWord_run (fun n => by simp) hreach ha, if_neg (by simpa using hfs),
    writing_run_of_reach (by rw [startWrite_run, State.reach_withLedger]; exact hreach) hb, writeReg, if_pos hlt]
  generalize hx : (startWrite Path.jtag.osrc).run s.dbgReplied = x
  have hxd : x.dev.out = s.dev.out ++ [.reply .jtag (toBytes 4 s.dev.svc.dbgData.toNat)] := by rw [← hx]; rfl
  have hxs : x.dev.svc = { s.dev.svc with jtagIr := 0x41 } := by rw [← hx]; rfl
  have hxc : x.dev.ledg.cycle = [] := by rw [← hx]; exact hc
  have hxw : ∀ o, x.word o = s.word o := fun o => by rw [← hx]; rfl
  have hxm : x.mem = s.mem := by rw [← hx]; rfl
  have hxh : x.host = s.host := by rw [← hx]; rfl
  clear hx
  obtain ⟨hdv, hbytes, hhost, hregs⟩ := hw.onlyReg x
  have hfield : ∀ f ∈ RegMap.fields a, _ := fun f hm => writeFields_field hm v.toNat x
  generalize (writeFields a v.toNat).run x = y at *
  have hsub : settle.run ((submit []).run y) = (submit []).run y := settle_run_of_no_orders (by
    show y.dev.ledg.cycle ++ [] = []
    rw [hdv, hxc]
    rfl)
  rw [hsub]
  refine ⟨?_, ?_, fun f hm => ?_, fun o ho => ?_, fun b => ?_, fun b => ?_⟩
  · show y.dev.out = _
    rw [hdv, hxd]
  · show y.dev.svc = _
    rw [hdv, hxs]
  · refine (hfield f hm).trans ?_
    rw [codedValue_gen hlt hm, hxw]
  · exact (hregs o (by simpa using ho)).trans (hxw o)
  · exact (hbytes b).trans (by rw [hxm])
  · exact (hhost b).trans (by rw [hxh])

/-! ## The obligation -/

theorem exec_takeBalls {s : State} (hp : s.dev.pwr.por = false) {c : Instr} {ir : Nat}
    (h : (c, ir) ∈ [(Instr.extest, 3), (.clamp, 4), (.highz, 5), (.extestPulse, 6), (.extestTrain, 7)]) :
    Completes c s fun u => u.dev.svc.jtagIr = ir ∧ s.dev.log.count < u.dev.log.count ∧
      (s.ready = true → s.linkUp = true → u.unitState 43 = 0) ∧ (s.linkUp = false → OnlyRegs s u catchRegs) := by
  have hexec : exec c s = done (takeBalls ir) s := by
    simp only [List.mem_cons, Prod.mk.injEq, List.not_mem_nil, or_false] at h
    rcases h with ⟨rfl, rfl⟩ | ⟨rfl, rfl⟩ | ⟨rfl, rfl⟩ | ⟨rfl, rfl⟩ | ⟨rfl, rfl⟩ <;> rfl
  exact completes_done hexec (takeBalls_completes hp ir)

/-- Settles O54: one lemma for each instruction of the TAP. -/
theorem testAccess : Obligations.TestAccess := by
  intro s hp
  have hnone : ∀ u : State, u.regs = s.regs → u.mem = s.mem → u.host = s.host → OnlyRegs s u [] := fun u hr hm hh =>
    ⟨fun o _ => congrArg (fun r => Sparse.get RegMap.resetWord r o) hr, fun a => by rw [hm], fun a => by rw [hh]⟩
  refine ⟨completes_done rfl ?_, completes_done rfl ?_, completes_done rfl ?_, fun pins preload => completes_done rfl ?_,
    fun c ir h => exec_takeBalls hp h, fun hf hr => ⟨fun a ha hlt => dbgAddr_read hp hf ha hlt, fun a => dbgAddr_write hp hf,
      fun a v hlt ha hfs hd hc => dbgData_write hp hf hr v hlt ha hfs hd hc, fun v ha => dbgData_read hp hf v ha⟩,
    fun hf => ⟨fun a rw => completes_done rfl (debugIr_locked hp hf _ _), fun v => completes_done rfl (debugIr_locked hp hf _ _)⟩⟩
  · rw [tap_run hp]
    exact ⟨rfl, hnone _ rfl rfl rfl⟩
  · rw [tap_run hp]
    exact ⟨rfl, hnone _ rfl rfl rfl⟩
  · rw [tap_run hp]
    exact ⟨rfl, rfl, hnone _ rfl rfl rfl⟩
  · rw [tap_run hp]
    exact ⟨rfl, hnone _ rfl rfl rfl⟩

end Sys2Proof.Machine
end

section
/-!
Supplies and cold resets (R569 to R573, R643): O57.
-/
namespace Sys2Proof.Machine

/-! ## What a cold reset leaves beside what it clears -/

/-- What holds the device in reset, and the two pins that do. -/
def Power.holds (w : Power) : Bool × Bool × Bool × Bool × Bool × Bool :=
  (w.por, w.heldCold, w.heldTrip, w.heldSupply, w.pins.pwrOk, w.pins.coldN)

theorem Power.holds_eq {v w : Power} (h : v.holds = w.holds) : v.por = w.por ∧ v.heldCold = w.heldCold ∧ v.heldTrip = w.heldTrip ∧
    v.heldSupply = w.heldSupply ∧ v.pins.pwrOk = w.pins.pwrOk ∧ v.pins.coldN = w.pins.coldN := by
  simpa only [Power.holds, Prod.mk.injEq] using h

theorem State.heldReset_of_holds {s u : State} (h : u.dev.pwr.holds = s.dev.pwr.holds) : u.heldReset = s.heldReset := by
  obtain ⟨-, hc, ht, hs, -, -⟩ := Power.holds_eq h
  rw [State.heldReset, State.heldReset, hc, ht, hs]

/-- The act changes neither the holds nor the host's memory, and takes no record back. -/
def Act.cold : Act → Prop
  | .dev f => ∀ d, (f d).pwr.holds = d.pwr.holds ∧ d.log.count ≤ (f d).log.count
  | .hostBytes _ _ => False
  | _ => True

/-- The same as a frame of the registers' acts, for the shared operations. -/
abbrev coldBound : Bound where
  dev d e := e.pwr.holds = d.pwr.holds ∧ d.log.count ≤ e.log.count
  reg _ := True
  mem := True
  host := False

theorem coldBound_logs : coldBound.Logs := ⟨fun _ _ _ _ h => ⟨rfl, h⟩, fun _ _ => trivial⟩

theorem Prog.Only.cold {p : Prog} (h : p.Only (Act.obeys coldBound)) : p.Only Act.cold :=
  h.mono fun a ha => by
    cases a with
    | dev f => exact ha
    | hostBytes => exact ha
    | _ => trivial

theorem loseStaged_cold (p : Nat) : (loseStaged p).Only (Act.obeys coldBound) := by
  have hlog : ∀ code sev u ds st, (logC code sev u ds st).Only (Act.obeys coldBound) := coldBound_logs.logC
  have hpart : ∀ q f, (modPart q f).Only (Act.obeys coldBound) := fun _ _ _ => ⟨rfl, le_refl _⟩
  simp only [loseStaged, Prog.only_look]
  intro s
  split <;> simp [hlog, hpart]

theorem cutCommit_cold : cutCommit.Only (Act.obeys coldBound) := by
  have hchuck : ∀ f, (modChuck f).Only (Act.obeys coldBound) := fun _ _ => ⟨rfl, le_refl _⟩
  simp only [cutCommit, Prog.only_look]
  intro s
  split <;> simp [drawFree, hchuck]

theorem resumeTime_cold : resumeTime.Only (Act.obeys coldBound) := by
  have hlog : ∀ code sev u ds st, (logC code sev u ds st).Only (Act.obeys coldBound) := coldBound_logs.logC
  have hhs : ∀ f, (modHs f).Only (Act.obeys coldBound) := fun _ _ => ⟨rfl, le_refl _⟩
  have hdecl : ∀ st, (declareUnit 40 st).Only (Act.obeys coldBound) := fun _ => declareUnit_obeys trivial
  simp [resumeTime, growUnc, setUnc, hlog, hhs, hdecl]

theorem coldReset_cold (cause : Nat) : (coldReset cause).Only Act.cold := by
  have hlog : ∀ code sev u ds st, (logC code sev u ds st).Only Act.cold := fun _ _ _ _ _ => (coldBound_logs.logC _ _ _ _ _).cold
  have hlim : ∀ l i code sev u ds st, (logLim l i code sev u ds st).Only Act.cold := fun _ _ _ _ _ _ _ => (coldBound_logs.logLim _ _ _ _ _ _ _).cold
  have hset : ∀ f v, (setF f v).Only Act.cold := fun _ _ => Prog.only_setF fun _ => trivial
  have hafter : (modDev Dev.afterCold).Only Act.cold := fun _ => ⟨rfl, le_refl _⟩
  have hpins : (setPins fun p => { p with coreEn := true, storeEn := true, farEn := true, storeRet := false }).Only Act.cold :=
    fun _ => ⟨rfl, le_refl _⟩
  exact ⟨fun _ => Prog.only_when.mpr fun _ => ⟨hlim (.ticks 2500000) 116 0xC030 0 116 [] none, hlog 0xC032 1 116 [] none, trivial⟩, fun _ => Prog.only_when.mpr fun _ => resumeTime_cold.cold,
    Prog.only_each.mpr fun p _ => (loseStaged_cold p).cold, cutCommit_cold.cold, trivial, hafter, ⟨trivial, fun _ => ⟨rfl, le_refl _⟩, trivial⟩,
    hset _ _, hset _ _, hset _ _, fun _ => hset _ _, hset _ _, hset _ _, hset _ _, hpins, hset _ _, hset _ _, trivial⟩

theorem Prog.Only.cold_run {p : Prog} (h : p.Only Act.cold) (s : State) : (p.run s).dev.pwr.holds = s.dev.pwr.holds ∧
    s.dev.log.count ≤ (p.run s).dev.log.count ∧ (p.run s).host = s.host := by
  refine h.run (R := fun s t => t.dev.pwr.holds = s.dev.pwr.holds ∧ s.dev.log.count ≤ t.dev.log.count ∧ t.host = s.host)
    (fun _ => ⟨rfl, le_refl _, rfl⟩) (fun h k => ⟨k.1.trans h.1, h.2.1.trans k.2.1, k.2.2.trans h.2.2⟩) (fun a s ha => ?_) s
  cases a with
  | dev f => exact ⟨(ha s.dev).1, (ha s.dev).2, rfl⟩
  | hostBytes => exact ha.elim
  | _ => exact ⟨rfl, le_refl _, rfl⟩

/-- What a cold reset leaves and what it clears. -/
structure ColdReset (s u : State) (cause : Nat) : Prop where
  dev : u.devState = 0
  cause : u.fld F.PCK_STATUS_LASTRESET = cause % 8
  now : u.dev.hs.now = s.dev.hs.now
  holds : u.dev.pwr.holds = s.dev.pwr.holds
  count : s.dev.log.count ≤ u.dev.log.count
  zero : ∀ a, a < storeAt + storeSize → u.mem.read a = 0
  host : u.host = s.host

theorem coldReset_zero (cause : Nat) (s : State) {a : Nat} (ha : a < storeAt + storeSize) : ((coldReset cause).run s).mem.read a = 0 := by
  have hend : ∀ x : State, ((all [setF F.TB_STATUS_PPSOUT_FENCED 0, setF F.TB_STATUS_CLAMP 0, setF F.TB_STATUS_SLEWING 0,
      look fun s => setUnit 42 (if s.fld F.FAR_CFG_CHMASK = 0 then 0 else 1), setUnit 41 0, setF F.STORE_STATUS_KEPT 0,
      setF F.IMG_STATUS_CHUCK 0, setPins fun p => { p with coreEn := true, storeEn := true, farEn := true, storeRet := false },
      setF F.PCK_STATUS_DEV 0, setF F.PCK_STATUS_LASTRESET cause]).run x).mem = x.mem := fun _ => rfl
  rw [coldReset]
  iterate 7 rw [Prog.run_all_cons]
  rw [hend]
  generalize (modDev Dev.afterCold).run _ = y
  exact Memory.read_clear_in _ _ _ _ (Nat.zero_le _) ha

theorem coldReset_run (cause : Nat) (s : State) : ColdReset s ((coldReset cause).run s) cause := by
  obtain ⟨hdev, hcause⟩ := coldReset_status cause s
  obtain ⟨hholds, hcount, hhost⟩ := (coldReset_cold cause).cold_run s
  exact ⟨hdev, hcause, (coldReset_sparesNow cause).now s, hholds, hcount, fun a ha => coldReset_zero cause s ha, hhost⟩

/-! ## Power-on reset -/

theorem cutCommit_run_none {s : State} (h : s.dev.chuck.rbTarget = none) : cutCommit.run s = s := by
  rw [cutCommit, Prog.run_look, h]
  rfl

theorem powerOnReset_completes {s : State} (h : s.dev.chuck.rbTarget = none) : Completes .powerOnReset s fun u =>
    u.dev.pwr.por = true ∧ (∀ o, (RegMap.fields o ≠ []) → ∀ f ∈ RegMap.fields o, bitsOf (u.word o).toNat f.lo f.w = f.reset) ∧
    u.now = 0 ∧ u.dev.log.count = 0 ∧ (∀ a, a < 2 ^ 40 → u.mem.read a = 0) ∧ u.dev.chuck.fuseFlags = s.dev.chuck.fuseFlags ∧
    u.dev.chuck.rbCount = s.dev.chuck.rbCount ∧ u.dev.tiles = [] ∧ u.dev.parts = [] ∧ SameHost s u := by
  refine completes_done rfl ?_
  rw [powerOnReset, Prog.run_all_cons, Prog.run_all_cons, Prog.run_all_cons, Prog.run_all_cons, Prog.run_all_nil, cutCommit_run_none h, Prog.run_act, Prog.run_act]
  have hfld : ∀ o f, f ∈ RegMap.fields o → ((Act.lose fun _ _ => false).apply s).fld ⟨o, f.lo, f.w⟩ = f.reset := fun o f hf =>
    State.fld_lose_lost hf rfl s
  have hd : ((Act.lose fun _ _ => false).apply s).dev = s.dev := rfl
  have hh : ((Act.lose fun _ _ => false).apply s).host = s.host := rfl
  generalize (Act.lose fun _ _ => false).apply s = x at *
  refine ⟨rfl, fun o _ f hf => hfld o f hf, rfl, rfl, fun a ha => Memory.read_clear_in _ _ _ _ (Nat.zero_le _) ha,
    ?_, ?_, rfl, rfl, fun a => congrArg (·.read a) hh⟩
  · show x.dev.chuck.fuseFlags = _
    rw [hd]
  · show x.dev.chuck.rbCount = _
    rw [hd]

/-- What the release of power-on reset writes. -/
def sampleStraps (straps : Nat) (xtal : Bool) : Prog :=
  all [modPwr fun w => { w with por := false }, setWord F.GEN_STRAPS_TBFSEL.off (straps % 2 ^ 7),
    setPins fun p => { p with coreEn := true, storeEn := true, farEn := true }, setUnit 40 1,
    setF F.TB_STATUS_REF25 (bitsOf straps 0 1), setB F.TB_STATUS_XTAL (xtal && bitsOf straps 1 1 == 1),
    setF F.IMG_STATUS_BOOTSEL (bitsOf straps 2 2), setF F.MB_STATUS_ADDR (0x58 + bitsOf straps 4 2),
    setF F.QSPI_CLK_QDIV (if bitsOf straps 6 1 = 1 then 20 else 40)]

/-- What the straps leave in the registers. -/
structure Sampled (s u : State) (straps : Nat) (xtal : Bool) : Prop where
  pwr : u.dev = { s.dev with pwr := { s.dev.pwr with por := false, pins := { s.dev.pwr.pins with coreEn := true, storeEn := true, farEn := true } } }
  sampled : (u.word F.GEN_STRAPS_TBFSEL.off).toNat = straps % 128
  timebase : u.unitState 40 = 1
  crystal : u.bit F.TB_STATUS_XTAL = (xtal && straps.testBit 1)
  bootsel : u.fld F.IMG_STATUS_BOOTSEL = bitsOf straps 2 2
  addr : u.fld F.MB_STATUS_ADDR = 0x58 + bitsOf straps 4 2
  mem : u.mem = s.mem
  host : u.host = s.host

theorem bitsOf_one_eq_testBit (n i : Nat) : (bitsOf n i 1 == 1) = n.testBit i := by
  rw [bitsOf, Nat.testBit_eq_decide_div_mod_eq]
  rfl

theorem sampleStraps_run (straps : Nat) (xtal : Bool) (s : State) : Sampled s ((sampleStraps straps xtal).run s) straps xtal := by
  have hword : ∀ x : State, ((setWord F.GEN_STRAPS_TBFSEL.off (straps % 2 ^ 7)).run x).word F.GEN_STRAPS_TBFSEL.off = BitVec.ofNat 32 (straps % 2 ^ 7) :=
    fun x => by rw [setWord, Prog.run_act, State.word_reg, if_pos rfl]
  have hlt : straps % 128 < 2 ^ 32 := by omega
  rw [sampleStraps]
  iterate 9 rw [Prog.run_all_cons]
  rw [Prog.run_all_nil]
  refine ⟨rfl, ?_, ?_, ?_, ?_, ?_, rfl, rfl⟩
  · have hrest : ∀ x : State, ((all [setPins fun p => { p with coreEn := true, storeEn := true, farEn := true }, setUnit 40 1,
        setF F.TB_STATUS_REF25 (bitsOf straps 0 1), setB F.TB_STATUS_XTAL (xtal && bitsOf straps 1 1 == 1),
        setF F.IMG_STATUS_BOOTSEL (bitsOf straps 2 2), setF F.MB_STATUS_ADDR (0x58 + bitsOf straps 4 2),
        setF F.QSPI_CLK_QDIV (if bitsOf straps 6 1 = 1 then 20 else 40)]).run x).word F.GEN_STRAPS_TBFSEL.off = x.word F.GEN_STRAPS_TBFSEL.off :=
      fun x => Prog.Only.words (b := .quiet [(F.LEDG_UNIT_STATE 40).off, F.TB_STATUS_XTAL.off, F.IMG_STATUS_BOOTSEL.off, F.MB_STATUS_ADDR.off,
        F.QSPI_CLK_QDIV.off]) (by simp [setPins, modPwr]) (by decide) x
    refine (congrArg BitVec.toNat (hrest _)).trans ?_
    rw [hword, BitVec.toNat_ofNat]
    exact Nat.mod_eq_of_lt hlt
  · rw [State.unitState, Prog.fld_setF_other F.QSPI_CLK_QDIV (F.LEDG_UNIT_STATE 40) _ _ (by decide) (by decide),
      Prog.fld_setF_other F.MB_STATUS_ADDR (F.LEDG_UNIT_STATE 40) _ _ (by decide) (by decide),
      Prog.fld_setF_other F.IMG_STATUS_BOOTSEL (F.LEDG_UNIT_STATE 40) _ _ (by decide) (by decide), setB.eq_1 F.TB_STATUS_XTAL,
      Prog.fld_setF_other F.TB_STATUS_XTAL (F.LEDG_UNIT_STATE 40) _ _ (by decide) (by decide),
      Prog.fld_setF_other F.TB_STATUS_REF25 (F.LEDG_UNIT_STATE 40) _ _ (by decide) (by decide), setUnit.eq_1 40,
      Prog.fld_setF_same (F.LEDG_UNIT_STATE 40) _ _ (by decide)]
    rfl
  · rw [State.bit, Prog.fld_setF_other F.QSPI_CLK_QDIV F.TB_STATUS_XTAL _ _ (by decide) (by decide),
      Prog.fld_setF_other F.MB_STATUS_ADDR F.TB_STATUS_XTAL _ _ (by decide) (by decide),
      Prog.fld_setF_other F.IMG_STATUS_BOOTSEL F.TB_STATUS_XTAL _ _ (by decide) (by decide)]
    refine (Prog.bit_setB_same (f := F.TB_STATUS_XTAL) rfl (by decide) _ _).trans ?_
    rw [bitsOf_one_eq_testBit]
  · rw [Prog.fld_setF_other F.QSPI_CLK_QDIV F.IMG_STATUS_BOOTSEL _ _ (by decide) (by decide),
      Prog.fld_setF_other F.MB_STATUS_ADDR F.IMG_STATUS_BOOTSEL _ _ (by decide) (by decide),
      Prog.fld_setF_same F.IMG_STATUS_BOOTSEL _ _ (by decide)]
    exact Nat.mod_eq_of_lt (bitsOf_lt _ _ _)
  · rw [Prog.fld_setF_other F.QSPI_CLK_QDIV F.MB_STATUS_ADDR _ _ (by decide) (by decide), Prog.fld_setF_same F.MB_STATUS_ADDR _ _ (by decide)]
    have := bitsOf_lt straps 4 2
    refine Nat.mod_eq_of_lt ?_
    show 0x58 + bitsOf straps 4 2 < 2 ^ 7
    omega

theorem powerOnResetRelease_completes {s : State} (straps : Nat) (xtal : Bool) (hp : s.dev.pwr.por = true) (hok : s.dev.pwr.pins.pwrOk = true)
    (hcold : s.dev.pwr.pins.coldN = true) : Completes (.powerOnResetRelease straps xtal) s fun u => u.dev.pwr.por = false ∧
      (u.word F.GEN_STRAPS_TBFSEL.off).toNat = straps % 128 ∧ u.dev.pwr.pins.coreEn = true ∧ u.dev.pwr.pins.storeEn = true ∧
      u.dev.pwr.pins.farEn = true ∧ u.unitState 40 = 1 ∧ u.bit F.TB_STATUS_XTAL = (xtal && straps.testBit 1) ∧
      u.fld F.IMG_STATUS_BOOTSEL = bitsOf straps 2 2 ∧ u.fld F.MB_STATUS_ADDR = 0x58 + bitsOf straps 4 2 ∧
      s.dev.log.count < u.dev.log.count ∧ SameBytes s u ∧ SameHost s u := by
  refine completes_done rfl ?_
  have hrun : (powerOnRelease straps xtal).run s = (logC 0x0001 0 127 [straps % 2 ^ 7]).run ((sampleStraps straps xtal).run s) := by
    rw [powerOnRelease, Prog.run_look, hp, hok, Prog.run_when, if_pos (by rfl), sampleStraps]
    simp only [Prog.run_all_cons, Prog.run_all_nil]
    rw [hcold, Bool.not_true, Prog.run_when, if_neg Bool.false_ne_true]
  rw [hrun]
  have h := sampleStraps_run straps xtal s
  generalize (sampleStraps straps xtal).run s = x at *
  have hlog := logC_run_onlyLogs 0x0001 0 127 [straps % 2 ^ 7] none x
  have hlt := logC_count_lt 0x0001 0 127 [straps % 2 ^ 7] none x
  have hpwr : ((logC 0x0001 0 127 [straps % 2 ^ 7]).run x).dev.pwr = x.dev.pwr :=
    logC_part 0x0001 0 127 [straps % 2 ^ 7] none x Dev.pwr fun _ _ _ _ => rfl
  generalize (logC 0x0001 0 127 [straps % 2 ^ 7]).run x = u at *
  have hxl : x.dev.log = s.dev.log := by rw [h.pwr]
  rw [hpwr, h.pwr, hlog.regs _ (by decide), State.unitState, hlog.fld (by decide), State.bit, hlog.fld (by decide), hlog.fld (by decide),
    hlog.fld (by decide), h.sampled]
  refine ⟨rfl, rfl, rfl, rfl, rfl, h.timebase, h.crystal, h.bootsel, h.addr, ?_, fun a => ?_, fun a => ?_⟩
  · rw [hxl] at hlt
    exact hlt
  · rw [hlog.mem, h.mem]
  · rw [hlog.host, h.host]

/-! ## The end of a hold -/

theorem coldRestart_completes {s : State} : (coldRestart.run s).dev.pwr.pins.coreEn = true ∧
    (coldRestart.run s).dev.pwr.holds = s.dev.pwr.holds ∧ s.dev.log.count < (coldRestart.run s).dev.log.count ∧
    OnlyRegs s (coldRestart.run s) catchRegs := by
  rw [coldRestart, Prog.run_all_cons, Prog.run_all_cons, Prog.run_all_nil, Prog.run_look]
  generalize hx : (setPins _).run s = x
  have hcore : x.dev.pwr.pins.coreEn = true := by rw [← hx]; rfl
  have hholds : x.dev.pwr.holds = s.dev.pwr.holds := by rw [← hx]; rfl
  have hcount : x.dev.log.count = s.dev.log.count := by rw [← hx]; rfl
  have hword : ∀ o, x.word o = s.word o := fun o => by rw [← hx]; rfl
  have hmem : x.mem = s.mem := by rw [← hx]; rfl
  have hhost : x.host = s.host := by rw [← hx]; rfl
  clear hx
  have hlog := logC_run_onlyLogs 0xD00A 0 127 [x.fld F.PCK_STATUS_LASTRESET] none x
  have hlt := logC_count_lt 0xD00A 0 127 [x.fld F.PCK_STATUS_LASTRESET] none x
  have hpwr : ((logC 0xD00A 0 127 [x.fld F.PCK_STATUS_LASTRESET]).run x).dev.pwr = x.dev.pwr :=
    logC_part 0xD00A 0 127 [x.fld F.PCK_STATUS_LASTRESET] none x Dev.pwr fun _ _ _ _ => rfl
  generalize (logC 0xD00A 0 127 [x.fld F.PCK_STATUS_LASTRESET]).run x = u at *
  refine ⟨hpwr ▸ hcore, hpwr ▸ hholds, hcount ▸ hlt, fun o ho => (hlog.regs o ho).trans (hword o), fun a => ?_, fun a => ?_⟩
  · rw [hlog.mem, hmem]
  · rw [hlog.host, hhost]

theorem restartIfFree_run {s : State} (hp : s.dev.pwr.por = false) (hh : s.heldReset = false) : restartIfFree.run s = coldRestart.run s := by
  rw [restartIfFree, Prog.run_look, hp, hh, Prog.run_when, if_pos (by rfl)]

/-- With no hold left the device restarts. -/
theorem restartIfFree_completes {s x : State} (hp : x.dev.pwr.por = false) (hh : x.heldReset = false) (hl : x.dev.log = s.dev.log)
    (hw : ∀ o, x.word o = s.word o) (hm : x.mem = s.mem) (hho : x.host = s.host) :
    (restartIfFree.run x).heldReset = false ∧ (restartIfFree.run x).dev.pwr.pins.coreEn = true ∧
    (restartIfFree.run x).dev.pwr.holds = x.dev.pwr.holds ∧
    s.dev.log.count < (restartIfFree.run x).dev.log.count ∧ OnlyRegs s (restartIfFree.run x) catchRegs := by
  rw [restartIfFree_run hp hh]
  obtain ⟨hcore, hholds, hlt, hregs⟩ := coldRestart_completes (s := x)
  generalize coldRestart.run x = u at *
  rw [hl] at hlt
  exact ⟨(State.heldReset_of_holds hholds).trans hh, hcore, hholds, hlt, fun o ho => (hregs.regs o ho).trans (hw o), fun a => (hregs.bytes a).trans (by rw [hm]),
    fun a => (hregs.host a).trans (by rw [hho])⟩

theorem pwrOkRise_completes {s : State} (hp : s.dev.pwr.por = false) (hs : s.dev.pwr.heldSupply = true) (hc : s.dev.pwr.heldCold = false)
    (ht : s.dev.pwr.heldTrip = false) : Completes .pwrOkRise s fun u => u.dev.pwr.pins.pwrOk = true ∧ u.heldReset = false ∧
      u.dev.pwr.pins.coreEn = true ∧ s.dev.log.count < u.dev.log.count ∧ OnlyRegs s u catchRegs := by
  refine completes_done rfl ?_
  rw [Prog.run_all_cons, Prog.run_all_cons, Prog.run_all_nil, Prog.run_look,
    show ((setPins fun p => { p with pwrOk := true }).run s).dev.pwr.heldSupply = true from hs, Prog.run_when, if_pos rfl, Prog.run_all_cons,
    Prog.run_all_cons, Prog.run_all_nil]
  generalize hx : (modPwr _).run _ = x
  have hheld : x.heldReset = false := by
    rw [← hx]
    show (s.dev.pwr.heldCold || s.dev.pwr.heldTrip || false) = false
    rw [hc, ht]
    rfl
  have hok : x.dev.pwr.pins.pwrOk = true := by rw [← hx]; rfl
  obtain ⟨hfree, hcore, hholds, hlt, hregs⟩ := restartIfFree_completes (s := s) (x := x) (by rw [← hx]; exact hp) hheld (by rw [← hx]; rfl)
    (fun o => by rw [← hx]; rfl) (by rw [← hx]; rfl) (by rw [← hx]; rfl)
  exact ⟨(Power.holds_eq hholds).2.2.2.2.1.trans hok, hfree, hcore, hlt, hregs⟩

theorem pwrOkRise_free {s : State} (hs : s.dev.pwr.heldSupply = false) : Completes .pwrOkRise s fun u =>
    u.dev.pwr = { s.dev.pwr with pins := { s.dev.pwr.pins with pwrOk := true } } ∧ OnlyRegs s u [] := by
  refine completes_done rfl ?_
  rw [Prog.run_all_cons, Prog.run_all_cons, Prog.run_all_nil, Prog.run_look,
    show ((setPins fun p => { p with pwrOk := true }).run s).dev.pwr.heldSupply = false from hs, Prog.run_when, if_neg Bool.false_ne_true]
  exact ⟨rfl, fun _ _ => rfl, fun _ => rfl, fun _ => rfl⟩

theorem coldNRelease_completes {s : State} (hp : s.dev.pwr.por = false) (hc : s.dev.pwr.heldCold = true) (ht : s.dev.pwr.heldTrip = false)
    (hs : s.dev.pwr.heldSupply = false) : Completes .coldNRelease s fun u => u.heldReset = false ∧ u.dev.pwr.pins.coldN = true ∧
      u.dev.pwr.pins.coreEn = true ∧ s.dev.log.count < u.dev.log.count ∧ OnlyRegs s u catchRegs := by
  refine completes_done rfl ?_
  rw [Prog.run_all_cons, Prog.run_all_cons, Prog.run_all_nil, hc, ht, Prog.run_when, if_pos rfl, Prog.run_all_cons, Prog.run_all_cons,
    Prog.run_all_cons, Prog.run_all_nil, Bool.false_and, Prog.run_when, if_neg Bool.false_ne_true]
  generalize hx : (modPwr _).run _ = x
  have hheld : x.heldReset = false := by
    rw [← hx]
    show (false || (s.dev.pwr.heldTrip && _) || s.dev.pwr.heldSupply) = false
    rw [ht, hs]
    rfl
  have hpin : x.dev.pwr.pins.coldN = true := by rw [← hx]; rfl
  obtain ⟨hfree, hcore, hholds, hlt, hregs⟩ := restartIfFree_completes (s := s) (x := x) (by rw [← hx]; exact hp) hheld (by rw [← hx]; rfl)
    (fun o => by rw [← hx]; rfl) (by rw [← hx]; rfl) (by rw [← hx]; rfl)
  exact ⟨hfree, (Power.holds_eq hholds).2.2.2.2.2.trans hpin, hcore, hlt, hregs⟩

/-! ## Late rails -/

theorem railSlow_completes {s : State} (hp : s.dev.pwr.por = false) (hh : s.heldReset = false) (hd : s.devState = 0 ∨ s.devState = 4)
    (hs : s.dev.pwr.railSlow = false) : Completes .railSlow s fun u =>
      u.dev.pwr = { s.dev.pwr with railSlow := true } ∧ Logged s u 0xD006 1 127 ∧ OnlyRegs s u catchRegs := by
  refine completes_done rfl ?_
  rw [Prog.run_when, if_pos (by rcases hd with h | h <;> simp [hp, hh, h, hs]), Prog.run_all_cons, Prog.run_all_cons, Prog.run_all_nil]
  generalize hx : (modPwr _).run s = x
  have hpx : x.dev.pwr = { s.dev.pwr with railSlow := true } := by rw [← hx]; rfl
  have hword : ∀ o, x.word o = s.word o := fun o => by rw [← hx]; rfl
  have hmem : x.mem = s.mem := by rw [← hx]; rfl
  have hhost : x.host = s.host := by rw [← hx]; rfl
  have hcount : x.dev.log.count = s.dev.log.count := by rw [← hx]; rfl
  clear hx
  have hlog := logC_run_onlyLogs 0xD006 1 127 [] none x
  obtain ⟨r, hr, hcode, hsev, hunit, hserial⟩ := logC_newest 0xD006 1 127 [] none x
  refine ⟨(logC_part 0xD006 1 127 [] none x Dev.pwr fun _ _ _ _ => rfl).trans hpx,
    ⟨r, State.mem_recs_of_newest hr, hcode, hsev, hunit, hserial.trans (by rw [hcount])⟩,
    fun o ho => (hlog.regs o ho).trans (hword o), fun a => ?_, fun a => ?_⟩
  · rw [hlog.mem, hmem]
  · rw [hlog.host, hhost]

theorem railSlow_again {s : State} (hs : s.dev.pwr.railSlow = true) : Completes .railSlow s fun u => u = s := by
  refine completes_done rfl ?_
  rw [Prog.run_when, if_neg (by simp [hs])]

/-! ## Loss of supply and COLD_N -/

theorem supplyLost_completes {s : State} (hp : s.dev.pwr.por = false) (hh : s.heldReset = false) : Completes .supplyLost s fun u =>
      u.dev.pwr.heldSupply = true ∧ u.devState = 0 ∧ u.fld F.PCK_STATUS_LASTRESET = 5 ∧ u.dev.pwr.pins.pwrOk = false ∧
      u.dev.pwr.pins.coreEn = false ∧ u.dev.pwr.pins.storeEn = false ∧ u.dev.hs.now = s.dev.hs.now ∧
      s.dev.log.count < u.dev.log.count ∧ SameHost s u := by
  have ht : s.dev.pwr.heldTrip = false := by
    rw [State.heldReset, Bool.or_eq_false_iff, Bool.or_eq_false_iff] at hh
    exact hh.1.2
  refine completes_done rfl ?_
  rw [Prog.run_all_cons, Prog.run_all_cons, Prog.run_all_nil, hp, ht, Prog.run_when, if_pos (by rfl)]
  generalize hx : (setPins _).run s = x
  have hlog := logC_run_onlyLogs 0xF002 3 127 [] none x
  have hlt := logC_count_lt 0xF002 3 127 [] none x
  have hnow : x.dev.hs = s.dev.hs := by rw [← hx]; rfl
  have hpin : x.dev.pwr.pins.pwrOk = false := by rw [← hx]; rfl
  have hcount : x.dev.log = s.dev.log := by rw [← hx]; rfl
  have hhost : x.host = s.host := by rw [← hx]; rfl
  clear hx
  iterate 5 rw [Prog.run_all_cons]
  rw [Prog.run_all_nil, Prog.run_when, if_neg Bool.false_ne_true]
  have hpwr : ((logC 0xF002 3 127 []).run x).dev.pwr = x.dev.pwr := logC_part 0xF002 3 127 [] none x Dev.pwr fun _ _ _ _ => rfl
  have hhs : ((logC 0xF002 3 127 []).run x).dev.hs = x.dev.hs := logC_part 0xF002 3 127 [] none x Dev.hs fun _ _ _ _ => rfl
  generalize (logC 0xF002 3 127 []).run x = y at *
  have hreset := coldReset_run 5 y
  generalize (coldReset 5).run y = z at *
  refine ⟨rfl, hreset.dev, hreset.cause, ?_, rfl, rfl, ?_, ?_, fun a => ?_⟩
  · refine (Power.holds_eq hreset.holds).2.2.2.2.1.trans ?_
    show y.dev.pwr.pins.pwrOk = false
    rw [hpwr, hpin]
  · exact hreset.now.trans (by rw [hhs, hnow])
  · rw [hcount] at hlt
    exact lt_of_lt_of_le hlt hreset.count
  · refine (congrArg (·.read a) hreset.host).trans ?_
    rw [hlog.host, hhost]

theorem coldNAssert_completes {s : State} {ns : Nat} (hp : s.dev.pwr.por = false) (hh : s.heldReset = false) (hn : 100 ≤ ns) :
    Completes (.coldNAssert ns) s fun u => u.dev.pwr.heldCold = true ∧ u.dev.pwr.pins.coldN = false ∧ u.devState = 0 ∧
      u.fld F.PCK_STATUS_LASTRESET = 1 ∧ u.dev.hs.now = s.dev.hs.now ∧ (∀ a, a < storeAt + storeSize → u.mem.read a = 0) ∧
      SameHost s u := by
  rw [State.heldReset, Bool.or_eq_false_iff, Bool.or_eq_false_iff] at hh
  obtain ⟨⟨-, ht⟩, hs⟩ := hh
  refine completes_done rfl ?_
  rw [if_neg (by omega), if_pos hn, holdCold, Prog.run_look, hp, ht, hs, Prog.run_all_cons, Prog.run_all_cons, Prog.run_all_nil,
    Prog.run_when, if_pos (by rfl), Prog.run_all_cons, Prog.run_all_cons, Prog.run_all_nil, Prog.run_when, if_pos (by rfl), Prog.run_all_cons,
    Prog.run_all_cons, Prog.run_all_nil]
  generalize hy : (modPwr _).run _ = y
  have hnow : y.dev.hs = s.dev.hs := by rw [← hy]; rfl
  have hcold : y.dev.pwr.heldCold = true := by rw [← hy]; rfl
  have hpin : y.dev.pwr.pins.coldN = false := by rw [← hy]; rfl
  have hhost : y.host = s.host := by rw [← hy]; rfl
  clear hy
  have hreset := coldReset_run 1 y
  generalize (coldReset 1).run y = z at *
  have hdev : ∀ c, ((when c (setF F.PCK_STATUS_WAKESRC 5)).run z).dev = z.dev := fun c => by cases c <;> rfl
  have hmem : ∀ c, ((when c (setF F.PCK_STATUS_WAKESRC 5)).run z).mem = z.mem := fun c => by cases c <;> rfl
  have hho : ∀ c, ((when c (setF F.PCK_STATUS_WAKESRC 5)).run z).host = z.host := fun c => by cases c <;> rfl
  have hfld : ∀ c g, g.lo + g.w ≤ 32 → g.lo + g.w ≤ F.PCK_STATUS_WAKESRC.lo ∨ F.PCK_STATUS_WAKESRC.lo + F.PCK_STATUS_WAKESRC.w ≤ g.lo →
      ((when c (setF F.PCK_STATUS_WAKESRC 5)).run z).fld g = z.fld g := fun c g hw h => by
    cases c with
    | false => rfl
    | true => exact Prog.fld_setF_other F.PCK_STATUS_WAKESRC g 5 z hw (.inr h)
  rw [hdev, hmem]
  refine ⟨?_, ?_, ?_, ?_, ?_, hreset.zero, fun a => ?_⟩
  · exact (Power.holds_eq hreset.holds).2.1.trans hcold
  · exact (Power.holds_eq hreset.holds).2.2.2.2.2.trans hpin
  · exact (hfld _ F.PCK_STATUS_DEV (by decide) (by decide)).trans hreset.dev
  · exact (hfld _ F.PCK_STATUS_LASTRESET (by decide) (by decide)).trans hreset.cause
  · exact hreset.now.trans (by rw [hnow])
  · rw [hho, hreset.host, hhost]

theorem coldNAssert_filtered {s : State} {ns : Nat} (hn : ns < 20) : Completes (.coldNAssert ns) s fun u => u = s := by
  refine completes_done rfl ?_
  rw [if_pos hn]
  rfl

/-! ## The obligation -/

/-- Settles O57: one lemma for each command and case, over what a cold reset leaves and clears. -/
theorem suppliesAndResets : Obligations.SuppliesAndResets := by
  exact ⟨fun s => powerOnReset_completes, fun s straps xtal => powerOnResetRelease_completes straps xtal, fun s => pwrOkRise_completes,
    fun s => pwrOkRise_free, fun s => railSlow_completes, fun s => railSlow_again, fun s hp hh _ => supplyLost_completes hp hh,
    fun s ns => coldNAssert_completes, fun s ns => coldNAssert_filtered, fun s => coldNRelease_completes⟩

end Sys2Proof.Machine
end

section
/-!
Orders, resets and results take no record of the catch log back.
-/
namespace Sys2Proof.Machine

@[simp] theorem endRunning_keepsCount (slot status) : (endRunning slot status).Only Act.keepsCount := by
  simp only [endRunning, Prog.only_look]
  intro s
  split <;> simp

@[simp] theorem startWake_keepsCount (b) : (startWake b).Only Act.keepsCount := by simp [startWake]

@[simp] theorem moveBench_keepsCount (b code) : (moveBench b code).Only Act.keepsCount := by simp [moveBench, startDwell]

@[simp] theorem idleBench_keepsCount (b) : (idleBench b).Only Act.keepsCount := by
  simp only [idleBench, Prog.only_look]
  intro s
  split <;> simp

@[simp] theorem blankBench_keepsCount (b) : (blankBench b).Only Act.keepsCount := by simp [blankBench]

@[simp] theorem fencedPolicy_keepsCount (p) : (fencedPolicy p).Only Act.keepsCount := by simp [fencedPolicy]

@[simp] theorem disablePart_keepsCount (p) : (disablePart p).Only Act.keepsCount := by simp [disablePart]

@[simp] theorem setVreq_keepsCount : setVreq.Only Act.keepsCount := by simp [setVreq]

@[simp] theorem sendMsix_keepsCount (fn vec) : (sendMsix fn vec).Only Act.keepsCount := by simp [sendMsix]

@[simp] theorem signalPair_keepsCount (q vec) : (signalPair q vec).Only Act.keepsCount := by simp [signalPair]

@[simp] theorem logPair_keepsCount (code q lim stream cause) : (logPair code q lim stream cause).Only Act.keepsCount := by
  simp [logPair]

@[simp] theorem addPoison_keepsCount (a) : (addPoison a).Only Act.keepsCount := by simp [addPoison]

@[simp] theorem poisonPage_keepsCount (a) : (poisonPage a).Only Act.keepsCount := by
  simp only [poisonPage, Prog.only_look]
  intro s
  split <;> simp

@[simp] theorem cleanState_keepsCount (a) : (cleanState a).Only Act.keepsCount := by
  simp only [cleanState, Prog.only_look]
  intro s
  split <;> simp [freshNext]

@[simp] theorem poisonLine_keepsCount (a) : (poisonLine a).Only Act.keepsCount := by simp [poisonLine]

@[simp] theorem readUe_keepsCount (a new bench tile st) : (readUe a new bench tile st).Only Act.keepsCount := by simp [readUe]

@[simp] theorem readCe_keepsCount (a lim bench tile st) : (readCe a lim bench tile st).Only Act.keepsCount := by simp [readCe]

@[simp] theorem reading_keepsCount (p c rs st ok bad) (hok : ok.Only Act.keepsCount) (hbad : bad.Only Act.keepsCount) :
    (reading p c rs st ok bad).Only Act.keepsCount := by
  simp only [reading, Prog.only_look]
  intro s
  split <;> simp [hok, hbad]

@[simp] theorem outEvent_keepsCount (unit path part stream seq code arr port) :
    (outEvent unit path part stream seq code arr port).Only Act.keepsCount := by
  simp [outEvent]

@[simp] theorem sendOne_keepsCount (unit t slot r) : (sendOne unit t slot r).Only Act.keepsCount := by
  simp only [sendOne]
  split <;> simp [sendHost, queueResult]

@[simp] theorem readPayload_keepsCount (c slot r) : (readPayload c slot r).Only Act.keepsCount := by simp [readPayload]

@[simp] theorem signalMoved_keepsCount (s qs) : (signalMoved s qs).Only Act.keepsCount := by simp [signalMoved]

@[simp] theorem flushResults_keepsCount (sel slot) : (flushResults sel slot).Only Act.keepsCount := by simp [flushResults]

@[simp] theorem loadTile_keepsCount (r) : (loadTile r).Only Act.keepsCount := by simp [loadTile]

@[simp] theorem tileRegs_keepsCount (r) : (tileRegs r).Only Act.keepsCount := by simp [tileRegs]

@[simp] theorem joinBench_keepsCount (p b) : (joinBench p b).Only Act.keepsCount := by simp [joinBench]

@[simp] theorem setActSeq_keepsCount : setActSeq.Only Act.keepsCount := by simp [setActSeq]

@[simp] theorem dropModelEntry_keepsCount (m) : (dropModelEntry m).Only Act.keepsCount := by simp [dropModelEntry]

@[simp] theorem setPool_keepsCount (k p) : (setPool k p).Only Act.keepsCount := by simp [setPool]

@[simp] theorem finishRetire_keepsCount (p) : (finishRetire p).Only Act.keepsCount := by
  simp only [finishRetire, Prog.only_look]
  intro s
  split <;> simp

@[simp] theorem setUnc_keepsCount (n) : (setUnc n).Only Act.keepsCount := by simp [setUnc]

@[simp] theorem clearUncFrac_keepsCount : clearUncFrac.Only Act.keepsCount := by simp [clearUncFrac]

@[simp] theorem growUnc_keepsCount (n) : (growUnc n).Only Act.keepsCount := by simp [growUnc]

@[simp] theorem resumeTime_keepsCount : resumeTime.Only Act.keepsCount := by simp [resumeTime]

@[simp] theorem cutCommit_keepsCount : cutCommit.Only Act.keepsCount := by
  simp only [cutCommit, Prog.only_look]
  intro s
  split <;> simp

@[simp] theorem setPins_keepsCount (f) : (setPins f).Only Act.keepsCount := by simp [setPins]

@[simp] theorem coldReset_keepsCount (cause) : (coldReset cause).Only Act.keepsCount := by simp [coldReset, Dev.afterCold]

@[simp] theorem coldRestart_keepsCount : coldRestart.Only Act.keepsCount := by simp [coldRestart]

@[simp] theorem coldResetNow_keepsCount (cause) : (coldResetNow cause).Only Act.keepsCount := by simp [coldResetNow]

@[simp] theorem reloadBench_keepsCount (pl b) : (reloadBench pl b).Only Act.keepsCount := by simp [reloadBench]

@[simp] theorem partReset_keepsCount (p full) : (partReset p full).Only Act.keepsCount := by
  simp [partReset, endAllChunks, partResetMiddle]

@[simp] theorem startWakeUp_keepsCount (code) : (startWakeUp code).Only Act.keepsCount := by simp [startWakeUp]

@[simp] theorem answer_keepsCount (o unit status) : (answer o unit status).Only Act.keepsCount := by
  simp only [answer, Prog.only_look, Prog.only_all_cons]
  refine fun s => ⟨fun d => by split <;> rfl, ?_, trivial⟩
  split <;> simp

@[simp] theorem decideOrder_keepsCount (o) : (decideOrder o).Only Act.keepsCount := by
  simp [decideOrder, acceptOrder, enablePart, autoDerate, acceptWake]

@[simp] theorem orderCycle_keepsCount (os) : (orderCycle os).Only Act.keepsCount := by simp [orderCycle, overrule, answerLoser]

@[simp] theorem submit_keepsCount (os) : (submit os).Only Act.keepsCount := by simp [submit]

@[simp] theorem settle_keepsCount : settle.Only Act.keepsCount := by simp [settle]

@[simp] theorem submitAutoen_keepsCount : submitAutoen.Only Act.keepsCount := by simp [submitAutoen]

end Sys2Proof.Machine
end

section
/-!
What never touches the tiles' own state: chunks, pages, memory and the lines that a transfer has moved.
-/
namespace Sys2Proof.Machine

@[simp] theorem logC_sparesTiles (code sev unit ds st) : (logC code sev unit ds st).Only (Act.keeps Dev.tiles) :=
  (logC_onlyLogs code sev unit ds st).keeps_of_logs fun _ _ _ _ => rfl
@[simp] theorem logLim_sparesTiles (l id code sev unit ds st) : (logLim l id code sev unit ds st).Only (Act.keeps Dev.tiles) :=
  (logLim_onlyLogs l id code sev unit ds st).keeps_of_logs fun _ _ _ _ => rfl

@[simp] theorem modPwr_sparesTiles (f) : (modPwr f).Only (Act.keeps Dev.tiles) := by simp [modPwr]

@[simp] theorem modPart_sparesTiles (p f) : (modPart p f).Only (Act.keeps Dev.tiles) := by simp [modPart]

@[simp] theorem modSlot_sparesTiles (n f) : (modSlot n f).Only (Act.keeps Dev.tiles) := by simp [modSlot]

@[simp] theorem modChuck_sparesTiles (f) : (modChuck f).Only (Act.keeps Dev.tiles) := by simp [modChuck]

@[simp] theorem modPair_sparesTiles (q f) : (modPair q f).Only (Act.keeps Dev.tiles) := by simp [modPair]

@[simp] theorem drawFree_sparesTiles (w f) (hf : ∀ x, (f x).Only (Act.keeps Dev.tiles)) : (drawFree w f).Only (Act.keeps Dev.tiles) := by
  simp [drawFree, hf]

@[simp] theorem setF_sparesTiles (f v) : (setF f v).Only (Act.keeps Dev.tiles) := by simp [setF]

@[simp] theorem setB_sparesTiles (f b) : (setB f b).Only (Act.keeps Dev.tiles) := by simp [setB]

@[simp] theorem addF_sparesTiles (f n) : (addF f n).Only (Act.keeps Dev.tiles) := by simp [addF]

@[simp] theorem incF_sparesTiles (f) : (incF f).Only (Act.keeps Dev.tiles) := by simp [incF]

@[simp] theorem setUnit_sparesTiles (u st) : (setUnit u st).Only (Act.keeps Dev.tiles) := by simp [setUnit]

@[simp] theorem bumpEpoch_sparesTiles (u) : (bumpEpoch u).Only (Act.keeps Dev.tiles) := by simp [bumpEpoch]

@[simp] theorem declareUnit_sparesTiles (u st) : (declareUnit u st).Only (Act.keeps Dev.tiles) := by simp [declareUnit]

@[simp] theorem putN_sparesTiles (a n v) : (putN a n v).Only (Act.keeps Dev.tiles) := by simp [putN]

@[simp] theorem put32_sparesTiles (a v) : (put32 a v).Only (Act.keeps Dev.tiles) := by simp [put32]

@[simp] theorem addPoison_sparesTiles (a) : (addPoison a).Only (Act.keeps Dev.tiles) := by simp [addPoison]

@[simp] theorem storeBytes_sparesTiles (a bs) : (storeBytes a bs).Only (Act.keeps Dev.tiles) := by simp [storeBytes]

@[simp] theorem zeroFill_sparesTiles (lo hi) : (zeroFill lo hi).Only (Act.keeps Dev.tiles) := by simp [zeroFill]

@[simp] theorem emitOut_sparesTiles (o) : (emitOut o).Only (Act.keeps Dev.tiles) := by simp [emitOut]

@[simp] theorem hostWrite_sparesTiles (fn a bs) : (hostWrite fn a bs).Only (Act.keeps Dev.tiles) := by simp [hostWrite]

@[simp] theorem sysDrop_sparesTiles (lim a bench tile st) : (sysDrop lim a bench tile st).Only (Act.keeps Dev.tiles) := by simp [sysDrop]

@[simp] theorem setPage_sparesTiles (page lo w v) : (setPage page lo w v).Only (Act.keeps Dev.tiles) := by simp [setPage]

@[simp] theorem freeIfIdle_sparesTiles (page) : (freeIfIdle page).Only (Act.keeps Dev.tiles) := by
  simp only [freeIfIdle, Prog.only_look]
  intro s
  split <;> simp

@[simp] theorem unpinPage_sparesTiles (page) : (unpinPage page).Only (Act.keeps Dev.tiles) := by simp [unpinPage]

@[simp] theorem releaseRecord_sparesTiles (slot) : (releaseRecord slot).Only (Act.keeps Dev.tiles) := by
  simp only [releaseRecord, Prog.only_look]
  intro s
  split <;> simp

@[simp] theorem gapAt_sparesTiles (slot i) : (gapAt slot i).Only (Act.keeps Dev.tiles) := by simp [gapAt]

@[simp] theorem markGap_sparesTiles (slot i arrival) : (markGap slot i arrival).Only (Act.keeps Dev.tiles) := by
  simp only [markGap, Prog.only_look]
  intro s
  split <;> simp

@[simp] theorem keepState_sparesTiles (slot i) : (keepState slot i).Only (Act.keeps Dev.tiles) := by simp [keepState]

@[simp] theorem restoreState_sparesTiles (c) : (restoreState c).Only (Act.keeps Dev.tiles) := by
  simp only [restoreState]
  split <;> simp

@[simp] theorem dropUnbound_sparesTiles (slot) : (dropUnbound slot).Only (Act.keeps Dev.tiles) := by simp [dropUnbound]

@[simp] theorem endChunkAt_sparesTiles (slot i status tick fmt) : (endChunkAt slot i status tick fmt).Only (Act.keeps Dev.tiles) := by
  simp only [endChunkAt, Prog.only_look]
  intro s
  split <;> simp [countResult]

@[simp] theorem endChunkFmt_sparesTiles (slot i status fmt) : (endChunkFmt slot i status fmt).Only (Act.keeps Dev.tiles) := by
  simp [endChunkFmt]

@[simp] theorem endChunk_sparesTiles (slot i status) : (endChunk slot i status).Only (Act.keeps Dev.tiles) := by simp [endChunk]

@[simp] theorem dropMoves_sparesTiles (b) : (dropMoves b).Only (Act.keeps Dev.tiles) := by simp [dropMoves]

@[simp] theorem endOf_sparesTiles (st c status) : (endOf st c status).Only (Act.keeps Dev.tiles) := by
  simp only [endOf, Prog.only_look]
  intro s
  split <;> simp

@[simp] theorem endUndone_sparesTiles (t status) : (endUndone t status).Only (Act.keeps Dev.tiles) := by
  simp only [endUndone, Prog.only_look]
  intro s
  split
  · trivial
  · simp only [Prog.only_each, Prog.only_look]
    intro c _ u
    split <;> simp

@[simp] theorem fencePolicy_sparesTiles (p) : (fencePolicy p).Only (Act.keeps Dev.tiles) := by simp [fencePolicy]

@[simp] theorem fenceUnit_sparesTiles (u) : (fenceUnit u).Only (Act.keeps Dev.tiles) := by simp [fenceUnit]

@[simp] theorem liftFence_sparesTiles (u) : (liftFence u).Only (Act.keeps Dev.tiles) := by simp [liftFence]

@[simp] theorem mergeLate_sparesTiles (b a) : (mergeLate b a).Only (Act.keeps Dev.tiles) := by simp [mergeLate]

@[simp] theorem windowWait_sparesTiles (p st) : (windowWait p st).Only (Act.keeps Dev.tiles) := by simp [windowWait]

@[simp] theorem xferCatch_sparesTiles (t code unit x) : (xferCatch t code unit x).Only (Act.keeps Dev.tiles) := by simp [xferCatch]

@[simp] theorem keepStateAt_sparesTiles (a) : (keepStateAt a).Only (Act.keeps Dev.tiles) := by
  simp only [keepStateAt, Prog.only_look, Prog.only_each]
  intro s m _
  split <;> simp

@[simp] theorem putLine_sparesTiles (t x a bs) : (putLine t x a bs).Only (Act.keeps Dev.tiles) := by
  simp only [putLine, Prog.only_look, Prog.only_ite, Prog.only_nop]
  refine fun s => ⟨fun _ => trivial, fun _ => ?_⟩
  split
  · simp
  · refine Prog.only_ite.mpr ⟨fun _ => by simp, fun _ => Prog.only_ite.mpr ⟨fun _ => by simp, fun _ => ?_⟩⟩
    split <;> simp
  · trivial
  · simp

@[simp] theorem landLine_sparesTiles (t x l bs) : (landLine t x l bs).Only (Act.keeps Dev.tiles) := by simp [landLine]

@[simp] theorem landSome_sparesTiles (t x) : (landSome t x).Only (Act.keeps Dev.tiles) := by
  refine drawFree_sparesTiles _ _ fun n => ?_
  simp only [Prog.only_look, Prog.only_each]
  intro s l _
  split <;> simp

end Sys2Proof.Machine
end

section
/-!
Thermal control and the tile clock, the watchdog and hanging benches (R563, R566 to R568, R575, R576): O58.
-/
namespace Sys2Proof.Machine

/-! ## Masks -/

/-- Numbers that share no bit add up without a carry. -/
theorem add_eq_or_of_and_eq_zero {a b : Nat} (h : a &&& b = 0) : a + b = a ||| b := by
  have hw : ∀ n ≤ a + b, n < 2 ^ (a + b) := fun n hn => lt_of_le_of_lt hn Nat.lt_two_pow_self
  have hx : (BitVec.ofNat (a + b) a).toNat = a := Nat.mod_eq_of_lt (hw a (Nat.le_add_right a b))
  have hy : (BitVec.ofNat (a + b) b).toNat = b := Nat.mod_eq_of_lt (hw b (Nat.le_add_left b a))
  have hz : BitVec.ofNat (a + b) a &&& BitVec.ofNat (a + b) b = 0#(a + b) :=
    BitVec.eq_of_toNat_eq (by rw [BitVec.toNat_and, hx, hy, h]; rfl)
  calc a + b = (BitVec.ofNat (a + b) a + BitVec.ofNat (a + b) b).toNat := by rw [BitVec.toNat_add_of_and_eq_zero hz, hx, hy]
    _ = a ||| b := by rw [BitVec.add_eq_or_of_and_eq_zero _ _ hz, BitVec.toNat_or, hx, hy]

theorem inMask_eq_testBit (m b : Nat) : inMask m b = m.testBit b := bitsOf_one_eq_testBit m b

/-- Members of a mask beside others that it does not hold. -/
theorem inMask_add_maskOf {a n : Nat} {f : Nat → Bool} (h : ∀ i, f i = true → inMask a i = false) (p : Nat) :
    inMask (a + maskOf ((List.range n).filter f)) p = (inMask a p || (decide (p < n) && f p)) := by
  have hz : a &&& maskOf ((List.range n).filter f) = 0 := Nat.eq_of_testBit_eq fun i => by
    rw [Nat.testBit_and, testBit_maskOf_range, Nat.zero_testBit]
    cases hf : f i with
    | false => simp
    | true => rw [← inMask_eq_testBit, h i hf, Bool.false_and]
  rw [inMask_eq_testBit, inMask_eq_testBit, add_eq_or_of_and_eq_zero hz, Nat.testBit_or, testBit_maskOf_range]

theorem inMask_bitsOf {m n p : Nat} (h : p < n) : inMask (bitsOf m 0 n) p = inMask m p := by
  rw [inMask_eq_testBit, inMask_eq_testBit, bitsOf_zero, Nat.testBit_mod_two_pow, decide_eq_true h, Bool.true_and]

/-! ## One order alone in its cycle -/

theorem State.settled_one (s : State) (o : Order) : s.settled [o] = ([o], []) := by
  by_cases hp : o.kind = kPart
  · have h : [o].filter (fun o => o.kind != kPart) = [] := by simp [hp]
    simp [State.settled, h, sortOrders, insertOrder, State.resolve]
  · have h : [o].filter (fun o => o.kind != kPart) = [o] := by simp [hp]
    have h' : [o].filter (fun o => o.kind == kPart) = [] := by simp [hp]
    by_cases hc : o.kind = kCold
    · simp [State.settled, h, h', sortOrders, insertOrder, State.resolve, hc]
    · simp [State.settled, h, sortOrders, insertOrder, State.resolve, hc]

theorem oneWake_one (o : Order) : oneWake [o] = [o] := by
  by_cases h : o.kind = kWake
  · rw [oneWake, show [o].filter (fun o => o.kind == kWake) = [o] by simp [h], show [o].filter (fun o => o.kind != kWake) = [] by simp [h]]
    rfl
  · rw [oneWake, show [o].filter (fun o => o.kind == kWake) = [] by simp [h]]

theorem orderCycle_one {s : State} {o : Order} (hp : s.dev.pwr.por = false) : (orderCycle [o]).run s = (decideOrder o).run s := by
  rw [orderCycle, Prog.run_look, hp, Prog.run_when, if_pos (by rfl)]
  by_cases h : (o.known && o.inRange) = true
  · have hin : [o].filter (fun o => o.known && o.inRange) = [o] := List.filter_eq_self.mpr (by simpa using h)
    have hout : [o].filter (fun o => !(o.known && o.inRange)) = [] := List.filter_eq_nil_iff.mpr (by simpa using h)
    rw [hin, hout, oneWake_one, State.settled_one]
    rfl
  · have hin : [o].filter (fun o => o.known && o.inRange) = [] := List.filter_eq_nil_iff.mpr (by simpa using h)
    have hout : [o].filter (fun o => !(o.known && o.inRange)) = [o] := List.filter_eq_self.mpr fun x hx => by
      rw [List.mem_singleton.mp hx, Bool.eq_false_of_not_eq_true h]
      rfl
    rw [hin, hout]
    rfl

theorem decideOrder_accepted {s : State} {o : Order} (h : s.verdict o = vOk) :
    (decideOrder o).run s = (answer o (s.orderUnit o) 0).run ((acceptOrder o).run s) := by
  rw [decideOrder, Prog.run_look, h]
  dsimp only
  rw [if_pos (by rfl), Prog.run_all_cons, Prog.run_all_cons, Prog.run_all_nil]

/-- The sources whose answers no register holds. -/
theorem answer_within {o : Order} (h : o.src = .thermal ∨ o.src = .watchdog) (unit status : Nat) (s : State) :
    ((answer o unit status).run s).regs = s.regs ∧ ((answer o unit status).run s).mem = s.mem ∧
    ((answer o unit status).run s).host = s.host ∧ ((answer o unit status).run s).dev.pwr = s.dev.pwr := by
  rw [answer, Prog.run_look, Prog.run_all_cons, Prog.run_all_cons, Prog.run_all_nil]
  rcases h with h | h <;> rw [h] <;> exact ⟨rfl, rfl, rfl, rfl⟩

theorem ready_facts {s : State} (h : s.ready = true) : s.dev.pwr.por = false ∧ s.heldReset = false ∧ s.devState = 1 := by
  simpa [State.ready, and_assoc] using h

/-- The thermal control's derate of partitions `arg`. -/
def thermalOrder (arg : Nat) : Order := { src := .thermal, kind := kDerate, unit := 0, arg }

theorem verdict_derate {s : State} (hr : s.ready = true) (arg : Nat) : s.verdict (thermalOrder arg) = vOk := by
  obtain ⟨hp, hh, hd⟩ := ready_facts hr
  have hk : (thermalOrder arg).known = true := rfl
  have hi : (thermalOrder arg).inRange = true := rfl
  have hc : s.carried = false := by rw [State.carried, hd]; rfl
  rw [State.verdict, hk, hi, hp, hh, hd, hc]
  rfl

/-- The registers that a derate writes. -/
def derateRegs : List Nat := (List.range 8).map (fun p => 0x40100 + 4 * (32 + p)) ++ [F.PCK_AVS_VREQ.off]

/-- What a derate order leaves. -/
structure Derated (s u : State) (arg : Nat) : Prop where
  derateBy : u.dev.pwr.derateBy = Sparse.put zeroNat s.dev.pwr.derateBy 7 (bitsOf arg 0 8)
  regs : SameRegsBut s u derateRegs
  mem : u.mem = s.mem
  host : u.host = s.host

/-- The effect of a thermal derate on the partitions that it names or lifts. -/
def takeDerate (ps : List Nat) (arg : Nat) : Prog :=
  all [each ps fun p => bumpEpoch (32 + p),
    modPwr fun w => { w with derateBy := Sparse.put zeroNat w.derateBy 7 (bitsOf arg 0 8) }, setVreq]

theorem acceptOrder_derate (s : State) (arg : Nat) : (acceptOrder (thermalOrder arg)).run s =
    (takeDerate (s.orderParts (thermalOrder arg)) arg).run s := by
  rw [acceptOrder, Prog.run_look]
  rfl

theorem State.orderParts_derate_lt {s : State} {arg p : Nat} (h : p ∈ s.orderParts (thermalOrder arg)) : p < 8 := by
  rw [State.orderParts, if_neg (show ¬(thermalOrder arg).kind = kEnable from (by decide : ¬kDerate = kEnable)), if_pos (show (thermalOrder arg).kind = kDerate from rfl)] at h
  exact List.mem_range.mp (List.mem_filter.mp h).1

theorem takeDerate_run {ps : List Nat} (hps : ∀ p ∈ ps, p < 8) (arg : Nat) (s : State) : Derated s ((takeDerate ps arg).run s) arg := by
  have hbound : (takeDerate ps arg).Only (Act.obeys (.quiet derateRegs)) := by
    refine ⟨Prog.only_each.mpr fun p hp => bumpEpoch_obeys.mpr ?_, by simp [modPwr], ?_, trivial⟩
    · exact List.mem_append_left _ (List.mem_map.mpr ⟨p, List.mem_range.mpr (hps p hp), rfl⟩)
    · simp [setVreq, derateRegs]
  refine ⟨?_, (hbound.sameRegs_of_quiet s).1, hbound.mems id s, hbound.hosts id s⟩
  have hvreq : setVreq.Only (Act.keeps Dev.pwr) := by simp [setVreq, setF]
  have hbump : (each ps fun p => bumpEpoch (32 + p)).Only (Act.keeps Dev.pwr) := by simp [bumpEpoch, setF]
  rw [takeDerate, Prog.run_all_cons, Prog.run_all_cons, Prog.run_all_cons, Prog.run_all_nil, hvreq.keeps]
  show Sparse.put zeroNat ((each ps fun p => bumpEpoch (32 + p)).run s).dev.pwr.derateBy 7 _ = _
  rw [hbump.keeps]

theorem derate_run {s : State} (hr : s.ready = true) (arg : Nat) : Derated s ((orderCycle [thermalOrder arg]).run s) arg := by
  rw [orderCycle_one (ready_facts hr).1, decideOrder_accepted (verdict_derate hr arg), acceptOrder_derate]
  have h := takeDerate_run (fun p (hp : p ∈ s.orderParts (thermalOrder arg)) => State.orderParts_derate_lt hp) arg s
  generalize (takeDerate (s.orderParts (thermalOrder arg)) arg).run s = x at *
  obtain ⟨hregs, hmem, hhost, hpwr⟩ := answer_within (o := thermalOrder arg) (.inl rfl) (s.orderUnit (thermalOrder arg)) 0 x
  exact ⟨hpwr ▸ h.derateBy, fun o ho => (State.word_of_regs hregs o).trans (h.regs o ho), hmem.trans h.mem, hhost.trans h.host⟩

/-! ## Readings of the temperature -/

/-- A reading has been noted. -/
structure TempRead (s x : State) (temp sensor : Nat) : Prop where
  dev : x.dev = s.dev
  words : ∀ o, o ≠ F.PCK_TEMP_TEMP.off → x.word o = s.word o
  temp : x.fld F.PCK_TEMP_TEMP = temp % 65536
  sensor : x.fld F.PCK_TEMP_SENSOR = sensor % 16
  mem : x.mem = s.mem
  host : x.host = s.host

theorem setTemp_run (temp sensor : Nat) (s : State) : TempRead s ((setTemp temp sensor).run s) temp sensor := by
  have hq : (setTemp temp sensor).Only (Act.obeys (.quiet [F.PCK_TEMP_TEMP.off])) := by simp [setTemp]
  refine ⟨rfl, fun o ho => hq.words (by simpa using ho) s, ?_, ?_, rfl, rfl⟩ <;>
    rw [setTemp, Prog.run_all_cons, Prog.run_all_cons, Prog.run_all_nil]
  · rw [Prog.fld_setF_other F.PCK_TEMP_SENSOR F.PCK_TEMP_TEMP _ _ (by decide) (by decide)]
    exact Prog.fld_setF_same F.PCK_TEMP_TEMP temp s (by decide)
  · exact Prog.fld_setF_same F.PCK_TEMP_SENSOR sensor _ (by decide)

theorem TempRead.fld {s x : State} {temp sensor : Nat} (h : TempRead s x temp sensor) {f : Fld} (hf : f.off ≠ F.PCK_TEMP_TEMP.off) :
    x.fld f = s.fld f := State.fld_of_word (h.words _ hf)

theorem TempRead.ready {s x : State} {temp sensor : Nat} (h : TempRead s x temp sensor) : x.ready = s.ready := by
  rw [State.ready, State.ready, State.heldReset, State.heldReset, h.dev, State.devState, State.devState, h.fld (by decide)]

theorem TempRead.newlyHot {s x : State} {temp sensor : Nat} (h : TempRead s x temp sensor) : x.newlyHot = s.newlyHot := by
  have hauto : x.autoMask = s.autoMask := by rw [State.autoMask, State.autoMask, h.dev]
  refine List.filter_congr fun p hp => ?_
  have hlt : p < 8 := List.mem_range.mp hp
  have hon : x.partOn p = s.partOn p := by
    rw [State.partOn, State.partOn, State.unitState, State.unitState,
      h.fld (f := F.LEDG_UNIT_STATE (32 + p)) (by show 0x40100 + 4 * (32 + p) ≠ 0x60020; omega)]
  rw [hon, hauto, h.fld (by decide)]

/-- The device acts on a reading: it logs, and orders a derate of the partitions `arg`. -/
def thermalAct (code sev arg : Nat) : Prog := all [logC code sev 127 [], orderCycle [thermalOrder arg]]

structure ThermalActed (s u : State) (arg : Nat) : Prop where
  derateBy : u.dev.pwr.derateBy = Sparse.put zeroNat s.dev.pwr.derateBy 7 (bitsOf arg 0 8)
  count : s.dev.log.count < u.dev.log.count
  regs : SameRegsBut s u (derateRegs ++ logRegs)
  mem : u.mem = s.mem
  host : u.host = s.host

theorem thermalAct_run {s : State} (hr : s.ready = true) (code sev arg : Nat) : ThermalActed s ((thermalAct code sev arg).run s) arg := by
  rw [thermalAct, Prog.run_all_cons, Prog.run_all_cons, Prog.run_all_nil]
  have hlog := logC_run_onlyLogs code sev 127 [] none s
  have hlt := logC_count_lt code sev 127 [] none s
  have hpwr : ((logC code sev 127 []).run s).dev.pwr = s.dev.pwr := logC_part code sev 127 [] none s Dev.pwr fun _ _ _ _ => rfl
  generalize (logC code sev 127 []).run s = x at *
  have hrx : x.ready = true := by
    rw [State.ready, State.heldReset, hpwr, State.devState, hlog.fld (by decide)]
    exact hr
  have h := derate_run hrx arg
  have hcount := (orderCycle_keepsCount [thermalOrder arg]).count_le x
  generalize (orderCycle [thermalOrder arg]).run x = u at *
  refine ⟨?_, lt_of_lt_of_le hlt hcount, fun o ho => ?_, h.mem.trans hlog.mem, h.host.trans hlog.host⟩
  · rw [h.derateBy, hpwr]
  · obtain ⟨h1, h2⟩ := not_or.mp (List.mem_append.not.mp ho)
    exact (h.regs o h1).trans (hlog.regs o h2)

theorem thermDerate_completes {s : State} {temp sensor : Nat} (hr : s.ready = true) (ht : temp < 65536) (hn : sensor < 16)
    (hot : 16 * (s.fld F.PCK_THERM_CTL_TDERATE : Int) < signedOf 16 temp) (hnew : s.newlyHot ≠ []) :
    Completes (.thermDerate temp sensor) s fun u => u.fld F.PCK_TEMP_TEMP = temp ∧ u.fld F.PCK_TEMP_SENSOR = sensor ∧
      (∀ p, p < 8 → inMask u.autoMask p = (inMask s.autoMask p || s.newlyHot.contains p)) ∧ s.dev.log.count < u.dev.log.count ∧
      SameBytes s u ∧ SameHost s u := by
  obtain ⟨hp, -, hd⟩ := ready_facts hr
  refine completes_done rfl ?_
  rw [hp, State.inRest, hd, Prog.run_when, if_pos (by rfl), Prog.run_all_cons, Prog.run_all_cons, Prog.run_all_nil, Prog.run_look]
  have hread := setTemp_run temp sensor s
  generalize (setTemp temp sensor).run s = x at *
  have hx16 : x.temp16 = signedOf 16 temp := by rw [State.temp16, hread.temp, Nat.mod_eq_of_lt ht]
  have hauto : x.autoMask = s.autoMask := by rw [State.autoMask, State.autoMask, hread.dev]
  have hne : s.newlyHot.isEmpty = false := by simpa using hnew
  rw [hread.ready, hr, hread.fld (f := F.PCK_THERM_CTL_TDERATE) (by decide), hx16, hread.newlyHot, hne, Prog.run_when, if_pos (by simpa using hot)]
  have h := thermalAct_run (hread.ready.trans hr) 0xD004 1 (x.autoMask + maskOf s.newlyHot)
  rw [show ∀ arg, all [logC 0xD004 1 127 [], orderCycle [{ src := .thermal, kind := kDerate, unit := 0, arg }]] = thermalAct 0xD004 1 arg
    from fun _ => rfl]
  generalize (thermalAct 0xD004 1 (x.autoMask + maskOf s.newlyHot)).run x = u at *
  have hfree : ∀ i, (s.partOn i && inMask (s.fld F.PCK_THERM_CTL_AUTO_MASK) i && !inMask s.autoMask i) = true → inMask s.autoMask i = false :=
    fun i hi => by simpa using (Bool.and_eq_true_iff.mp hi).2
  refine ⟨?_, ?_, fun p hp8 => ?_, ?_, fun a => ?_, fun a => ?_⟩
  · rw [State.fld_of_word (h.regs _ (by decide)), hread.temp, Nat.mod_eq_of_lt ht]
  · rw [State.fld_of_word (h.regs _ (by decide)), hread.sensor, Nat.mod_eq_of_lt hn]
  · rw [State.autoMask, h.derateBy, Sparse.get_put, if_pos rfl, inMask_bitsOf hp8, hauto, State.newlyHot, partIds,
      inMask_add_maskOf hfree]
    simp [hp8]
  · rw [← congrArg (fun d : Dev => d.log.count) hread.dev]
    exact h.count
  · rw [h.mem, hread.mem]
  · rw [h.host, hread.host]

theorem thermClear_completes {s : State} {temp sensor : Nat} (hr : s.ready = true) (ht : temp < 65536)
    (cool : signedOf 16 temp < s.derateOff16) (hauto : s.autoMask ≠ 0) :
    Completes (.thermClear temp sensor) s fun u => u.fld F.PCK_TEMP_TEMP = temp ∧ u.autoMask = 0 ∧
      (∀ j, j ≠ 7 → Sparse.get zeroNat u.dev.pwr.derateBy j = Sparse.get zeroNat s.dev.pwr.derateBy j) ∧
      s.dev.log.count < u.dev.log.count ∧ SameBytes s u ∧ SameHost s u := by
  obtain ⟨hp, -, hd⟩ := ready_facts hr
  refine completes_done rfl ?_
  rw [hp, State.inRest, hd, Prog.run_when, if_pos (by rfl), Prog.run_all_cons, Prog.run_all_cons, Prog.run_all_nil, Prog.run_look]
  have hread := setTemp_run temp sensor s
  generalize (setTemp temp sensor).run s = x at *
  have hx16 : x.temp16 = signedOf 16 temp := by rw [State.temp16, hread.temp, Nat.mod_eq_of_lt ht]
  have hx : x.autoMask = s.autoMask := by rw [State.autoMask, State.autoMask, hread.dev]
  have hoff : x.derateOff16 = s.derateOff16 := by
    rw [State.derateOff16, State.derateOff16, hread.fld (by decide), hread.fld (by decide)]
  rw [hread.ready, hr, hx16, hoff, hx, Prog.run_when, if_pos (by simp [cool, hauto])]
  have h := thermalAct_run (hread.ready.trans hr) 0xD005 0 0
  rw [show all [logC 0xD005 0 127 [], orderCycle [{ src := .thermal, kind := kDerate, unit := 0, arg := 0 }]] = thermalAct 0xD005 0 0 from rfl]
  generalize (thermalAct 0xD005 0 0).run x = u at *
  refine ⟨?_, ?_, fun j hj => ?_, ?_, fun a => ?_, fun a => ?_⟩
  · rw [State.fld_of_word (h.regs _ (by decide)), hread.temp, Nat.mod_eq_of_lt ht]
  · rw [State.autoMask, h.derateBy, Sparse.get_put, if_pos rfl]
    rfl
  · rw [h.derateBy, Sparse.get_put, if_neg hj, hread.dev]
  · rw [← congrArg (fun d : Dev => d.log.count) hread.dev]
    exact h.count
  · rw [h.mem, hread.mem]
  · rw [h.host, hread.host]

/-! ## The trip -/

theorem thermTrip_completes {s : State} {temp sensor : Nat} (hr : s.ready = true) (hot : 2000 ≤ signedOf 16 temp) :
    Completes (.thermTrip temp sensor) s fun u => u.devState = 5 ∧ u.fld F.PCK_STATUS_LASTRESET = 4 ∧ u.dev.pwr.heldTrip = true ∧
      u.dev.pwr.pins.coreEn = false ∧ u.dev.pwr.pins.storeEn = false ∧ u.catchN = true ∧ u.dev.hs.now = s.dev.hs.now ∧
      s.dev.log.count < u.dev.log.count := by
  obtain ⟨hp, hh, hd⟩ := ready_facts hr
  have htrip : s.dev.pwr.heldTrip = false := by
    rw [State.heldReset, Bool.or_eq_false_iff, Bool.or_eq_false_iff] at hh
    exact hh.1.2
  refine completes_done rfl ?_
  rw [hp, State.inRest, hd, htrip, Prog.run_when, if_pos (by simpa using hot), Prog.run_all_cons, Prog.run_all_cons, Prog.run_all_nil,
    Prog.run_when, if_pos (by rfl)]
  have hread := setTemp_run temp sensor s
  generalize (setTemp temp sensor).run s = x at *
  iterate 6 rw [Prog.run_all_cons]
  rw [Prog.run_all_nil]
  have hlt := logC_count_lt 0xF001 3 127 [] none x
  have hhs : ((logC 0xF001 3 127 []).run x).dev.hs = x.dev.hs := logC_part 0xF001 3 127 [] none x Dev.hs fun _ _ _ _ => rfl
  generalize (logC 0xF001 3 127 []).run x = y at *
  have hended : endAllRunning.Only Act.keepsCount := by simp [endAllRunning]
  have hnow : endAllRunning.Only Act.sparesNow := by simp [endAllRunning]
  have hcount := hended.count_le y
  have hynow := hnow.now y
  generalize endAllRunning.run y = z at *
  have hreset := coldReset_run 4 z
  generalize (coldReset 4).run z = w at *
  generalize hv : (modPwr fun w => { w with heldTrip := true }).run (lowerEnables.run w) = v
  have hheld : v.dev.pwr.heldTrip = true := by rw [← hv]; rfl
  have hcore : v.dev.pwr.pins.coreEn = false := by rw [← hv]; rfl
  have hstore : v.dev.pwr.pins.storeEn = false := by rw [← hv]; rfl
  have hvnow : v.dev.hs = w.dev.hs := by rw [← hv]; rfl
  have hvcount : v.dev.log = w.dev.log := by rw [← hv]; rfl
  have hvword : ∀ o, v.word o = w.word o := fun o => by rw [← hv]; rfl
  clear hv
  refine ⟨Prog.fld_setF_same F.PCK_STATUS_DEV 5 v (by decide), ?_, hheld, hcore, hstore, ?_, ?_, ?_⟩
  · rw [Prog.fld_setF_other F.PCK_STATUS_DEV F.PCK_STATUS_LASTRESET _ _ (by decide) (by decide), State.fld_of_word (hvword _), hreset.cause]
  · rw [State.catchN, show ((setF F.PCK_STATUS_DEV 5).run v).dev.pwr.heldTrip = true from hheld, Bool.true_or]
  · show v.dev.hs.now = _
    rw [hvnow, hreset.now, hynow, hhs, hread.dev]
  · show _ < v.dev.log.count
    rw [hvcount, ← congrArg (fun d : Dev => d.log.count) hread.dev]
    exact lt_of_lt_of_le hlt (hcount.trans hreset.count)

end Sys2Proof.Machine
end

section
/-!
The tile clock, the watchdog and hanging benches (R563, R575, R576), and O58.
-/
namespace Sys2Proof.Machine

/-! ## The tile clock -/

theorem setVreq_quiet : setVreq.Only (Act.obeys (.quiet [F.PCK_AVS_VREQ.off])) := by simp [setVreq]

theorem tileclkApply_completes {s : State} {part mhz t owe : Nat} (hc : s.dev.pwr.tileClk = some (mhz, t, owe)) (ho : inMask owe part = true)
    (ht : s.reached t = true) (hb : part = 8 ∨ s.atBoundary part = true) (hr : s.ready = true) :
    Completes (.tileclkApply part) s fun u => u.fld F.PCK_TILE_MHZ_NORMAL = mhz % 4096 ∧ s.dev.log.count < u.dev.log.count ∧
      (∀ m f w, u.dev.pwr.tileClk = some (m, f, w) → m = mhz ∧ f = t ∧ inMask w part = false) ∧
      OnlyRegs s u (F.PCK_TILE_MHZ_NORMAL.off :: F.PCK_AVS_VREQ.off :: catchRegs) := by
  have hdue : (if part = 8 then true else s.atBoundary part) = true := by
    rcases hb with h | h <;> simp [h]
  refine completes_done rfl ?_
  rw [hc]
  dsimp only
  rw [hdue, ho, ht, hr, Prog.run_when, if_pos (by rfl)]
  generalize hrest : maskOf ((List.range 9).filter fun b => inMask owe b && b != part && (b == 8 || s.partOn b)) = rest
  have hout : inMask rest part = false := by
    rw [← hrest, inMask_eq_testBit, testBit_maskOf_range]
    simp
  iterate 4 rw [Prog.run_all_cons]
  rw [Prog.run_all_nil]
  have hset := Prog.fld_setF_same F.PCK_TILE_MHZ_NORMAL mhz s (by decide)
  have hsetw : ∀ o, o ≠ F.PCK_TILE_MHZ_NORMAL.off → ((setF F.PCK_TILE_MHZ_NORMAL mhz).run s).word o = s.word o := fun o h =>
    (Prog.only_setF fun _ => Ne.symm h : (setF F.PCK_TILE_MHZ_NORMAL mhz).Only (Act.sparesReg o)).word s
  have hdev : ((setF F.PCK_TILE_MHZ_NORMAL mhz).run s).dev = s.dev := rfl
  have hmem : ((setF F.PCK_TILE_MHZ_NORMAL mhz).run s).mem = s.mem := rfl
  have hhost : ((setF F.PCK_TILE_MHZ_NORMAL mhz).run s).host = s.host := rfl
  generalize (setF F.PCK_TILE_MHZ_NORMAL mhz).run s = x at *
  have hlog := logC_run_onlyLogs 0xD003 0 127 [] none x
  have hlt := logC_count_lt 0xD003 0 127 [] none x
  generalize (logC 0xD003 0 127 []).run x = y at *
  generalize hz : (modPwr _).run y = z
  have hclk : z.dev.pwr.tileClk = if rest = 0 then none else some (mhz, t, rest) := by rw [← hz]; rfl
  have hzl : z.dev.log = y.dev.log := by rw [← hz]; rfl
  have hzw : ∀ o, z.word o = y.word o := fun o => by rw [← hz]; rfl
  have hzm : z.mem = y.mem := by rw [← hz]; rfl
  have hzh : z.host = y.host := by rw [← hz]; rfl
  clear hz
  have hv : (setVreq.run z).dev = z.dev := Prog.Only.keeps (g := id) (by simp [setVreq, setF]) z
  have hvw : ∀ o, o ≠ F.PCK_AVS_VREQ.off → (setVreq.run z).word o = z.word o := fun o h => setVreq_quiet.words (by simpa using h) z
  have hvm : (setVreq.run z).mem = z.mem := setVreq_quiet.mems id z
  have hvh : (setVreq.run z).host = z.host := setVreq_quiet.hosts id z
  generalize setVreq.run z = u at *
  refine ⟨?_, ?_, fun m f w h => ?_, fun o h => ?_, fun a => by rw [hvm, hzm, hlog.mem, hmem], fun a => by rw [hvh, hzh, hlog.host, hhost]⟩
  · rw [State.fld_of_word (hvw _ (by decide)), State.fld_of_word (hzw _), hlog.fld (by decide), hset]
    rfl
  · rw [hv, hzl, ← hdev]
    exact hlt
  · rw [hv, hclk] at h
    split at h
    · cases h
    · cases h
      exact ⟨rfl, rfl, hout⟩
  · simp only [List.mem_cons, not_or] at h
    obtain ⟨h1, h2, h3⟩ := h
    rw [hvw o h2, hzw, hlog.regs o h3, hsetw o h1]

/-! ## The watchdog -/

theorem wdogKick_allowed {s : State} {p : Path} {v : Word} (hr : s.reach p F.PCK_WDOG_KICK.off = true)
    (hk : kickAllowed (s.fld F.PCK_WDOG_CTL_KICKSRC) p = true) : Completes (.wdogKick p v) s fun u =>
      u.fld F.PCK_WDOG_STAT_STAGE = 0 ∧ u.dev.pwr = { s.dev.pwr with wdogAt := s.now } ∧ OnlyRegs s u [F.PCK_WDOG_STAT_STAGE.off] := by
  refine completes_done rfl ?_
  rw [writing_run_of_reach hr (by decide), writeKick, Prog.run_look, hk, Prog.run_when, if_pos rfl]
  refine ⟨Prog.fld_setF_same F.PCK_WDOG_STAT_STAGE 0 s (by decide), rfl, ?_⟩
  obtain ⟨hregs, hmem, hhost⟩ := Prog.Only.sameRegs_of_quiet (p := all [setF F.PCK_WDOG_STAT_STAGE 0, modPwr fun w => { w with wdogAt := s.now }])
    (offs := [F.PCK_WDOG_STAT_STAGE.off]) (by simp [modPwr]) s
  exact ⟨hregs, hmem, hhost⟩

theorem wdogKick_denied {s : State} {p : Path} {v : Word} (hr : s.reach p F.PCK_WDOG_KICK.off = true)
    (hk : kickAllowed (s.fld F.PCK_WDOG_CTL_KICKSRC) p = false) : Completes (.wdogKick p v) s fun u => u = s := by
  refine completes_done rfl ?_
  rw [writing_run_of_reach hr (by decide), writeKick, Prog.run_look, hk, Prog.run_when, if_neg Bool.false_ne_true]

/-- What a stage of the watchdog does before its action. -/
def noteStage (st act now : Nat) : Prog :=
  all [setF F.PCK_WDOG_STAT_STAGE (st + 1), incF F.PCK_WDOG_STAT_EXPIRIES, modPwr fun w => { w with wdogAt := now }, logC 0xD007 1 127 [st + 1, act]]

structure StageNoted (s x : State) (st : Nat) : Prop where
  stage : x.fld F.PCK_WDOG_STAT_STAGE = st + 1
  counted : Counted s x F.PCK_WDOG_STAT_EXPIRIES
  pwr : x.dev.pwr = { s.dev.pwr with wdogAt := s.now }
  count : s.dev.log.count < x.dev.log.count
  regs : OnlyRegs s x (F.PCK_WDOG_STAT_STAGE.off :: catchRegs)

theorem noteStage_run {st : Nat} (hst : st < 3) (act : Nat) (s : State) : StageNoted s ((noteStage st act s.now).run s) st := by
  have hbound : (noteStage st act s.now).Only (Act.obeys (.regs [F.PCK_WDOG_STAT_STAGE.off])) := by
    simp [noteStage, modPwr, Bound.regs_logC]
  obtain ⟨hmem, hhost, hregs⟩ := hbound.sameRegs_of_regs s
  refine ⟨?_, ?_, ?_, ?_, hregs, hmem, hhost⟩ <;> rw [noteStage] <;> iterate 4 rw [Prog.run_all_cons]
  all_goals rw [Prog.run_all_nil]
  · rw [logC_fld _ _ _ _ _ _ (by decide)]
    refine (Prog.fld_setF_other F.PCK_WDOG_STAT_EXPIRIES F.PCK_WDOG_STAT_STAGE _ _ (by decide) (by decide)).trans ?_
    rw [Prog.fld_setF_same _ _ _ (by decide)]
    exact Nat.mod_eq_of_lt (by show st + 1 < 2 ^ 2; omega)
  · rw [Counted, logC_fld _ _ _ _ _ _ (by decide)]
    refine (Prog.fld_incF F.PCK_WDOG_STAT_EXPIRIES _ (by decide)).trans ?_
    rw [Prog.fld_setF_other F.PCK_WDOG_STAT_STAGE F.PCK_WDOG_STAT_EXPIRIES _ _ (by decide) (by decide)]
  · generalize hx : (modPwr _).run _ = x
    refine (logC_part 0xD007 1 127 [st + 1, act] none x Dev.pwr fun _ _ _ _ => rfl).trans ?_
    rw [← hx]
    rfl
  · generalize hx : (modPwr _).run _ = x
    refine lt_of_eq_of_lt ?_ (logC_count_lt 0xD007 1 127 [st + 1, act] none x)
    rw [← hx]
    rfl

/-- The watchdog's cold reset. -/
def coldOrder : Order := { src := .watchdog, kind := kCold, unit := 0, arg := 0 }

theorem verdict_cold {s : State} (hr : s.ready = true) : s.verdict coldOrder = vOk := by
  obtain ⟨hp, hh, hd⟩ := ready_facts hr
  have hk : coldOrder.known = true := rfl
  have hi : coldOrder.inRange = true := rfl
  have hc : s.carried = false := by rw [State.carried, hd]; rfl
  rw [State.verdict, hk, hi, hp, hh, hd, hc]
  rfl

theorem coldOrder_run {s : State} (hr : s.ready = true) : ((orderCycle [coldOrder]).run s).devState = 0 ∧
    ((orderCycle [coldOrder]).run s).fld F.PCK_STATUS_LASTRESET = 3 := by
  obtain ⟨hp, -, hd⟩ := ready_facts hr
  have haccept : (acceptOrder coldOrder).run s = (coldResetNow 3).run s := by
    rw [acceptOrder, Prog.run_look]
    show (all [coldResetNow 3, when (s.devState == 2 || s.inRest) (setF F.PCK_STATUS_WAKESRC 5)]).run s = _
    rw [State.inRest, hd, Prog.run_all_cons, Prog.run_all_cons, Prog.run_all_nil, Prog.run_when, if_neg (by decide)]
  rw [orderCycle_one hp, decideOrder_accepted (verdict_cold hr), haccept]
  obtain ⟨h0, h3⟩ := coldResetNow_status 3 s
  generalize (coldResetNow 3).run s = x at *
  obtain ⟨hregs, -, -, -⟩ := answer_within (o := coldOrder) (.inr rfl) (s.orderUnit coldOrder) 0 x
  exact ⟨(State.fld_of_word (State.word_of_regs hregs _)).trans h0, (State.fld_of_word (State.word_of_regs hregs _)).trans h3⟩

theorem wdogStage_completes {s : State} {st act : Nat} (hp : s.dev.pwr.por = false) (hh : s.heldReset = false)
    (he : s.bit F.PCK_WDOG_CTL_EN = true) (hst : st = s.fld F.PCK_WDOG_STAT_STAGE)
    (hact : (st, act) ∈ [(0, s.fld F.PCK_WDOG_CTL_ACT1), (1, s.fld F.PCK_WDOG_CTL_ACT2), (2, s.fld F.PCK_WDOG_CTL_ACT3)])
    (ht : s.reached (s.dev.pwr.wdogAt + 250000 * s.fld F.PCK_WDOG_CTL_TIMEOUT_MS) = true) :
    Completes .wdogStage s fun u => s.dev.log.count < u.dev.log.count ∧
      (act ≠ 2 → act ≠ 3 → u.fld F.PCK_WDOG_STAT_STAGE = st + 1 ∧ Counted s u F.PCK_WDOG_STAT_EXPIRIES ∧
        u.dev.pwr = { s.dev.pwr with wdogAt := s.now } ∧ OnlyRegs s u (F.PCK_WDOG_STAT_STAGE.off :: catchRegs)) ∧
      (act = 3 → s.ready = true → u.devState = 0 ∧ u.fld F.PCK_STATUS_LASTRESET = 3) := by
  have hlt : st < 3 := by
    simp only [List.mem_cons, Prod.mk.injEq, List.not_mem_nil, or_false] at hact
    omega
  have hcode : (if st = 0 then s.fld F.PCK_WDOG_CTL_ACT1 else if st = 1 then s.fld F.PCK_WDOG_CTL_ACT2 else s.fld F.PCK_WDOG_CTL_ACT3) = act := by
    simp only [List.mem_cons, Prod.mk.injEq, List.not_mem_nil, or_false] at hact
    rcases hact with ⟨rfl, h⟩ | ⟨rfl, h⟩ | ⟨rfl, h⟩ <;> simp [h]
  refine completes_done rfl ?_
  dsimp only
  rw [← hst, hcode, Prog.run_when, if_pos (by simp [hp, hh, he, ht, hlt])]
  have hrun : (all [setF F.PCK_WDOG_STAT_STAGE (st + 1), incF F.PCK_WDOG_STAT_EXPIRIES, modPwr fun w => { w with wdogAt := s.now },
      logC 0xD007 1 127 [st + 1, act], wdogAct act (s.fld F.PCK_WDOG_CTL_PMASK)]).run s =
      (wdogAct act (s.fld F.PCK_WDOG_CTL_PMASK)).run ((noteStage st act s.now).run s) := by
    rw [noteStage]
    iterate 5 rw [Prog.run_all_cons]
    rw [Prog.run_all_nil]
    iterate 4 rw [Prog.run_all_cons]
    rw [Prog.run_all_nil]
  rw [hrun]
  have h := noteStage_run hlt act s
  generalize (noteStage st act s.now).run s = x at *
  have hkeep : (wdogAct act (s.fld F.PCK_WDOG_CTL_PMASK)).Only Act.keepsCount := by simp [wdogAct]
  refine ⟨lt_of_lt_of_le h.count (hkeep.count_le x), fun h2 h3 => ?_, fun h3 hr => ?_⟩
  · rw [wdogAct, if_neg h2, if_neg h3, Prog.run_nop]
    exact ⟨h.stage, h.counted, h.pwr, h.regs⟩
  · have hrx : x.ready = true := by
      rw [State.ready, State.heldReset, h.pwr, State.devState, State.fld_of_word (h.regs.regs _ (by decide))]
      exact hr
    rw [h3, wdogAct, if_neg (by decide), if_pos rfl]
    exact coldOrder_run hrx

/-! ## Hanging benches -/

/-- The vector and mask registers of a tile. -/
def Dev.vectors (t : Nat) (d : Dev) : Sparse Word × Sparse (BitVec 256) :=
  ((Sparse.get Tile.blank d.tiles t).vregs, (Sparse.get Tile.blank d.tiles t).masks)

theorem Prog.Only.vectors_of_tiles {p : Prog} (h : p.Only (Act.keeps Dev.tiles)) (t : Nat) : p.Only (Act.keeps (Dev.vectors t)) :=
  h.mono fun a ha => by
    cases a with
    | dev f => exact fun d => by rw [Dev.vectors, ha d]; rfl
    | _ => trivial

theorem modTile_vectors {f : Tile → Tile} (u t : Nat) (hv : ∀ x, (f x).vregs = x.vregs := by intro _; rfl)
    (hm : ∀ x, (f x).masks = x.masks := by intro _; rfl) :
    (modTile u f).Only (Act.keeps (Dev.vectors t)) := fun d => by
  show ((Sparse.get Tile.blank (Sparse.put Tile.blank d.tiles u _) t).vregs, (Sparse.get Tile.blank (Sparse.put Tile.blank d.tiles u _) t).masks) = _
  rw [Sparse.get_put]
  split
  · next h => rw [hv, hm, h]; rfl
  · rfl

theorem xferFault_vectors {rec : Prog} (hrec : rec.Only (Act.keeps Dev.tiles)) (u code status t : Nat) :
    (xferFault u code status rec).Only (Act.keeps (Dev.vectors t)) := by
  have hset : ∀ o v, (setWord o v).Only (Act.keeps (Dev.vectors t)) := fun _ _ => trivial
  have hlog : ∀ u st ds, (logHalted u st ds).Only (Act.keeps (Dev.vectors t)) := fun u st ds =>
    (logC_sparesTiles 0x3002 0 (u / 16) ds st).vectors_of_tiles t
  have hundone := (endUndone_sparesTiles u status).vectors_of_tiles t
  have hrec' := hrec.vectors_of_tiles t
  have hstop : (stopAfterFault u true).Only (Act.keeps (Dev.vectors t)) := fun s => Prog.only_when.mpr fun _ => Prog.only_ite.mpr
    ⟨fun _ => ⟨modTile_vectors u t, Prog.only_when.mpr fun _ => hlog _ _ _, trivial⟩,
      fun _ => modTile_vectors u t⟩
  exact fun _ => ⟨modTile_vectors u t, hset _ _, hset _ _, hrec', hundone, hstop, trivial⟩

theorem abandonXfer_sparesTiles (t : Nat) : (abandonXfer t).Only (Act.keeps Dev.tiles) := by
  simp only [abandonXfer, Prog.only_look]
  intro s
  split <;> simp

theorem abandonRides_vectors (b t : Nat) : (abandonRides b).Only (Act.keeps (Dev.vectors t)) := by
  have hroute : ∀ u r x, (routeCatch u r x).Only (Act.keeps Dev.tiles) := fun u r x => by simp [routeCatch]
  have hland : ∀ u x, (landSome u x).Only (Act.keeps (Dev.vectors t)) := fun u x => (landSome_sparesTiles u x).vectors_of_tiles t
  simp only [abandonRides, Prog.only_look, Prog.only_each]
  intro s y _
  split
  · split
    · exact Prog.only_when.mpr fun _ => ⟨Prog.only_when.mpr fun _ => hland _ _, xferFault_vectors (hroute _ _ _) _ _ _ _, trivial⟩
    · trivial
  · trivial

/-- A fence keeps the vector registers of every tile. -/
theorem stopBench_vectors (b t : Nat) : (stopBench b).Only (Act.keeps (Dev.vectors t)) := by
  refine ⟨Prog.only_each.mpr fun u _ => (abandonXfer_sparesTiles u).vectors_of_tiles t, abandonRides_vectors b t,
    Prog.only_each.mpr fun u _ => Prog.Only.vectors_of_tiles (by simp [endTileChunks]) t,
    Prog.only_each.mpr fun u _ => Prog.Only.vectors_of_tiles (by simp [freezeTile]) t,
    Prog.only_each.mpr fun u _ => Prog.Only.vectors_of_tiles (by simp [abandonOps]) t,
    Prog.only_each.mpr fun u _ => modTile_vectors u t, (dropMoves_sparesTiles b).vectors_of_tiles t, trivial⟩

/-- After it the bench's tiles have stopped. -/
theorem stopBench_stopped {b t : Nat} (ht : t ∈ tilesOf b) (s : State) :
    (((stopBench b).run s).tile t).run = 0 ∧ (((stopBench b).run s).tile t).launch = none := by
  rw [stopBench]
  iterate 7 rw [Prog.run_all_cons]
  rw [Prog.run_all_nil, (dropMoves_sparesTiles b).tiles]
  generalize (each (tilesOf b) abandonOps).run _ = x
  rw [(each_modTile_run (tilesOf b) Tile.stopped x (tilesOf_nodup b)).1 t, if_pos ht]
  exact ⟨rfl, rfl⟩

/-- A fence of one bench stops its tiles and keeps their vector registers. -/
theorem fenceBenches_tiles {b t : Nat} (ht : t ∈ tilesOf b) {s : State} (h : s.fenced b = false) (code : Nat) :
    (((fenceBenches [b] code).run s).tile t).run = 0 ∧ (((fenceBenches [b] code).run s).tile t).launch = none ∧
    SameVectors (s.tile t) (((fenceBenches [b] code).run s).tile t) := by
  have hfresh : [b].filter (fun b => !s.fenced b) = [b] := by simp [h]
  rw [fenceBenches, Prog.run_look, hfresh]
  dsimp only
  rw [Prog.run_all_cons, Prog.run_all_cons, Prog.run_all_nil, Prog.run_each_cons, Prog.run_each_nil, fenceBenchOnly_run h]
  have hpolicy : (each (partIds.filter fun p => [b].any fun b => s.benchPart b == some p) fencePolicy).Only (Act.keeps Dev.tiles) := by simp
  have hmark : (markFenced b code).Only (Act.keeps Dev.tiles) := by simp [markFenced]
  rw [hpolicy.tiles, (logC_sparesTiles _ _ _ _ _).tiles, hmark.tiles]
  obtain ⟨hrun, hlaunch⟩ := stopBench_stopped ht s
  obtain ⟨hv, hm⟩ := Prod.mk.inj ((stopBench_vectors b t).keeps s)
  refine ⟨hrun, hlaunch, fun v i => ?_, hm⟩
  exact congrArg (fun l => (Sparse.get zeroElem l (256 * v + i)).toNat) hv

theorem benchHang_completes {s : State} {t : Nat} (ht : t < 512) (hr : s.ready = true) (hu : s.fld F.PCK_HANG_CTL_HANG_US ≠ 0)
    (hrun : (s.tile t).run = 1) (hst : s.unitState (t / 16) = 1) (hf : s.fenced (t / 16) = false)
    (hw : s.reached ((s.tile t).issuedAt + 250 * s.fld F.PCK_HANG_CTL_HANG_US) = true) : Completes (.benchHang t) s fun u =>
      u.unitState (t / 16) = 4 ∧ u.fenced (t / 16) = true ∧ u.fld (F.BENCH_FENCE_CODE (t / 16)) = 0xD008 ∧
      (∀ j ∈ tilesOf (t / 16), (u.tile j).run = 0 ∧ (u.tile j).launch = none ∧ SameVectors (s.tile j) (u.tile j)) ∧
      s.dev.log.count < u.dev.log.count := by
  have hb : t / 16 < 32 := by omega
  refine completes_done rfl ?_
  dsimp only
  rw [hr, hrun, hst, hw, Prog.run_when, if_pos (by simp [hu, bSpin]), Prog.run_all_cons, Prog.run_all_cons, Prog.run_all_nil]
  have hlog := logC_run_onlyLogs 0xD008 2 (t / 16) [] none s
  have hlt := logC_count_lt 0xD008 2 (t / 16) [] none s
  have htile := fun j => (logC_sparesTiles 0xD008 2 (t / 16) [] none).tiles s j
  generalize (logC 0xD008 2 (t / 16) []).run s = x at *
  have hfx : x.fenced (t / 16) = false :=
    (congrArg (· == 1) (hlog.fld (f := F.LEDG_UNIT_FENCED (t / 16)) (unitLine_not_logged _ (by omega)))).trans hf
  obtain ⟨hstate, hfenced, hcode⟩ := fenceBenches_one hb hfx 0xD008
  refine ⟨hstate, hfenced, hcode, fun j hj => ?_, lt_of_lt_of_le hlt ((fenceBenches_keepsCount [t / 16] 0xD008).count_le x)⟩
  rw [← htile j]
  exact fenceBenches_tiles hj hfx 0xD008

/-! ## The obligation -/

/-- Settles O58: one lemma for each command and case. -/
theorem thermalAndWatchdog : Obligations.ThermalAndWatchdog :=
  ⟨fun _ _ _ => thermDerate_completes, fun _ _ _ hr ht _ => thermClear_completes hr ht, fun _ _ _ hr hot _ => thermTrip_completes hr hot,
    fun _ _ _ _ _ => tileclkApply_completes, fun _ _ _ => wdogKick_allowed, fun _ _ _ => wdogKick_denied, fun _ _ _ => wdogStage_completes,
    fun _ _ => benchHang_completes⟩

end Sys2Proof.Machine
end

section
/-!
Words read and written through a service path (R499, R527, R534): what the management bus, the SPI target and the USB port share.
-/
namespace Sys2Proof.Machine

/-! ## Reading -/

/-- A register that a read leaves as it is: no latched pair, no field that the read clears, no window of the fabric. -/
def State.plainAt (s : State) (a : Nat) : Prop :=
  s.pairHigh a = none ∧ (∀ f ∈ RegMap.fields a, f.acc ≠ .rc) ∧ a ≠ F.ARR_FAB_MDATA_LO.off

/-- A read of a register that is neither the low word of a pair nor has a field that it clears. -/
theorem readEffect_run_still {s : State} {p : Path} {a : Nat} (hp : ∀ n, p ≠ .vf n) (hpair : s.pairHigh a = none)
    (hrc : ∀ f ∈ RegMap.fields a, f.acc ≠ .rc) (acked : Bool) : (readEffect p a acked).run s = s := by
  have hfields : (RegMap.fields a).filter (fun f => f.acc == .rc) = [] := List.filter_eq_nil_iff.mpr fun f hm => by simpa using hrc f hm
  rw [readEffect, Prog.run_look, Prog.run_when]
  split
  · cases hk : s.keyOf p a with
    | none => rfl
    | some k =>
      have hka : k = a := by
        cases p with
        | vf n => exact absurd rfl (hp n)
        | _ =>
          simp only [State.keyOf] at hk
          split at hk
          · cases hk
          · exact (Option.some.inj hk).symm
      have hkey : pairKey p a = a := by
        cases p with
        | vf n => exact absurd rfl (hp n)
        | _ => rfl
      dsimp only
      rw [Prog.run_all_cons, Prog.run_all_cons, Prog.run_all_nil, latchPair, Prog.run_look, hkey, hpair, Prog.run_nop, Prog.run_when]
      split
      · rw [hka, clearRc_run_of_none hfields]
      · rfl
  · rfl

theorem readEffect_run_plain {s : State} {p : Path} {a : Nat} (hp : ∀ n, p ≠ .vf n) (h : s.plainAt a) (acked : Bool) :
    (readEffect p a acked).run s = s := readEffect_run_still hp h.1 h.2.1 acked

theorem addrOk_of_lt {a : Nat} (ha : a % 4 = 0) (hlt : a < 0x4000000) : addrOk a = true := by
  simp [addrOk, ha, hlt]

theorem flatMap_range_succ {α : Type} (n : Nat) (f : Nat → List α) :
    (List.range (n + 1)).flatMap f = f 0 ++ (List.range n).flatMap fun i => f (i + 1) := by
  rw [List.range_succ_eq_map, List.flatMap_cons, List.flatMap_map]

/-- Words that a read leaves as they are: the answer goes on with their bytes. -/
theorem readWords_run {s : State} {p : Path} (hp : ∀ n, p ≠ .vf n) (acked : Bool) (k : List Byte → Prog) {n a : Nat} (ha : a % 4 = 0)
    (hlt : a + 4 * n ≤ 0x4000000) (h : ∀ i, i < n → s.plainAt (a + 4 * i)) (bs : List Byte) :
    (readWords p acked n a bs k).run s = (k (bs ++ (List.range n).flatMap fun i => toBytes 4 (s.readWord p (a + 4 * i)))).run s := by
  induction n generalizing a bs with
  | zero => rw [readWords, List.range_zero, List.flatMap_nil, List.append_nil]
  | succ n ih =>
    have h0 : s.plainAt a := h 0 (Nat.succ_pos n)
    rw [readWords, if_pos (addrOk_of_lt ha (by omega)), Prog.run_all_cons, Prog.run_all_cons, Prog.run_all_nil,
      fetchFor_run_other h0.2.2, Prog.run_look, Prog.run_all_cons, Prog.run_all_cons, Prog.run_all_nil, readEffect_run_plain hp h0,
      ih (by omega) (by omega) fun i hi => by rw [show a + 4 + 4 * i = a + 4 * (i + 1) by omega]; exact h (i + 1) (by omega),
      flatMap_range_succ, List.append_assoc]
    simp only [Nat.mul_zero, Nat.add_zero, show ∀ i, a + 4 + 4 * i = a + 4 * (i + 1) from fun i => by omega]

theorem rangeStatus_in {a n : Nat} (ha : a % 4 = 0) (hlt : a + 4 * n ≤ 0x4000000) : rangeStatus a n = 0 := by
  rw [rangeStatus, if_pos (List.all_eq_true.mpr fun i hi => addrOk_of_lt (by omega) (by have := List.mem_range.mp hi; omega))]

theorem rangeStatus_out {a n : Nat} (hn : 0 < n) (ha : 0x4000000 ≤ a) : rangeStatus a n = 3 := by
  rw [rangeStatus, if_neg]
  intro hall
  have h0 := List.all_eq_true.mp hall 0 (List.mem_range.mpr hn)
  simp [addrOk] at h0
  omega

/-! ## Writing -/

/-- The device's state as far as a service path's reach depends on it. -/
theorem State.reach_service {s u : State} {p : Path} (hp : p = .mb ∨ p = .usb ∨ p = .spi) (hpwr : u.dev.pwr = s.dev.pwr)
    (hdev : u.word F.PCK_STATUS_DEV.off = s.word F.PCK_STATUS_DEV.off)
    (husb : u.word (F.LEDG_UNIT_STATE 116).off = s.word (F.LEDG_UNIT_STATE 116).off) (off : Nat) : u.reach p off = s.reach p off := by
  have h1 : u.devState = s.devState := State.fld_of_word hdev
  have h2 : u.unitState 116 = s.unitState 116 := State.fld_of_word husb
  have hheld : u.heldReset = s.heldReset := by rw [State.heldReset, State.heldReset, hpwr]
  have hrest : u.inRest = s.inRest := by rw [State.inRest, State.inRest, h1]
  rcases hp with rfl | rfl | rfl <;> unfold State.reach <;> dsimp only
  · rw [hpwr, hheld, hrest, h1]
  · rw [hpwr, hheld, hrest, h1, h2]
  · rw [hpwr, hheld, hrest, h1]

/-- A service path reaches the GEN block while the device works. -/
theorem State.reach_gen {s : State} {p : Path} (hp : p = .mb ∨ p = .spi ∨ p = .usb ∧ s.ep0 = true) (hr : s.ready = true) {a : Nat}
    (ha : a < 0x10000) : s.reach p a = true := by
  obtain ⟨hpor, hheld, hd⟩ := ready_facts hr
  have hms : msixRegion a = false := by simp [msixRegion]; omega
  have hlt : decide (a < 0x4000000) = true := by simp; omega
  have hrest : s.inRest = false := by rw [State.inRest, hd]; rfl
  rcases hp with rfl | rfl | ⟨rfl, h⟩
  · simp [State.reach, hpor, hheld, hrest, hd, hms, hlt]
  · simp [State.reach, hpor, hheld, hrest, hd, hms, hlt]
  · have h' : 2 ≤ s.unitState 116 ∧ s.unitState 116 ≤ 4 := 
      ⟨of_decide_eq_true (Bool.and_eq_true_iff.mp h).1, of_decide_eq_true (Bool.and_eq_true_iff.mp h).2⟩
    simp [State.reach, hpor, hheld, hrest, hd, hms, hlt, h']

/-- One word of the GEN block has been written. -/
structure GenWritten (s u : State) (a w : Nat) : Prop where
  fields : ∀ f ∈ RegMap.fields a, bitsOf (u.word a).toNat f.lo f.w =
    if f.acc = .rw then bitsOf w f.lo f.w else bitsOf (s.word a).toNat f.lo f.w
  words : ∀ o, o ≠ a → u.word o = s.word o
  dev : u.dev = { s.dev with ledg := { s.dev.ledg with lastSrc := u.dev.ledg.lastSrc, lastStatus := 0, lastEpoch := 0 } }
  mem : u.mem = s.mem
  host : u.host = s.host

theorem writeAlone_run {s : State} {p : Path} {off v : Nat} (h : ((writeWord p off v).run s).dev.ledg.cycle = []) :
    (writeAlone p off v []).run s = (writeWord p off v).run s := by
  rw [writeAlone, Prog.run_all_cons, Prog.run_all_cons, Prog.run_all_cons, Prog.run_all_nil, submit_nil_run, settle_run_of_no_orders h]

theorem serviceWrite_gen {s : State} {p : Path} {a w : Nat} (hp : ∀ n, p ≠ .vf n) (hr : s.reach p a = true) (hg : a < 0x10000) (ha : a % 4 = 0)
    (hf : RegMap.fields a ≠ []) (hc : s.dev.ledg.cycle = []) : GenWritten s ((all [startWrite p.osrc, serviceWrite p a w []]).run s) a w := by
  have hrun : ∀ x : State, x.reach p a = true → (writeWord p a w).run x = (writeFields a w).run ((startWrite p.osrc).run x) := fun x hx => by
    have hb : benchOf a = none := if_neg (by simp; omega)
    rw [writeWord_run hp hx ha, if_neg (by simpa using hf),
      writing_run_of_reach (by rw [startWrite_run, State.reach_withLedger]; exact hx) hb, writeReg, if_pos hg]
  have hr' : ((startWrite p.osrc).run s).reach p a = true := by rwa [startWrite_run, State.reach_withLedger]
  rw [Prog.run_all_cons, Prog.run_all_cons, Prog.run_all_nil, serviceWrite, if_pos (addrOk_of_lt ha (by omega)), writeAlone_run, hrun _ hr']
  · have hw : (writeFields a w).Only (Act.writes a) := fun _ => rfl
    obtain ⟨hd, hbytes, hhost, hregs⟩ := hw.onlyReg ((startWrite p.osrc).run ((startWrite p.osrc).run s))
    refine ⟨fun f hm => ?_, fun o ho => hregs o (by simpa using ho), ?_, rfl, rfl⟩
    · rw [writeFields_field hm, codedValue_gen hg hm]
      rfl
    · rw [hd]
      rfl
  · rw [hrun _ hr']
    exact hc

/-- A write outside the register space has the outcome RANGE and no other effect. -/
theorem serviceWrite_out {s : State} {p : Path} {a w : Nat} (ha : 0x4000000 ≤ a) (hc : s.dev.ledg.cycle = []) :
    (all [startWrite p.osrc, serviceWrite p a w []]).run s =
      s.withLedger { s.dev.ledg with lastSrc := p.osrc, lastStatus := 3, lastEpoch := 0 } := by
  have hno : addrOk a = false := by simp [addrOk]; omega
  rw [Prog.run_all_cons, Prog.run_all_cons, Prog.run_all_nil, serviceWrite, hno, if_neg Bool.false_ne_true, Prog.run_all_cons, Prog.run_all_cons,
    Prog.run_all_cons, Prog.run_all_nil, submit_nil_run, settle_run_of_no_orders (show ((noteStatus 3).run ((startWrite p.osrc).run s)).dev.ledg.cycle = [] from hc)]
  rfl

/-- Words of the GEN block have been written one after the other. -/
structure GenWords (s u : State) (a : Nat) (ws : List Nat) (other : Nat → Prop) : Prop where
  fields : ∀ i, i < ws.length → ∀ f ∈ RegMap.fields (a + 4 * i), bitsOf (u.word (a + 4 * i)).toNat f.lo f.w =
    if f.acc = .rw then bitsOf (ws.getD i 0) f.lo f.w else bitsOf (s.word (a + 4 * i)).toNat f.lo f.w
  words : ∀ o, ¬other o → (∀ i, i < ws.length → o ≠ a + 4 * i) → u.word o = s.word o
  status : u.dev.ledg.lastStatus = 0 ∧ u.dev.ledg.lastEpoch = 0
  cycle : u.dev.ledg.cycle = []
  mem : u.mem = s.mem
  host : u.host = s.host

/-- What a record of the outcome may touch between the words: no register of the GEN block nor of the reach, and no part of the device
but `g` says otherwise. -/
abbrev recordBound {α : Type} (g : Dev → α) (other : Nat → Prop) : Bound where
  dev d e := g e = g d ∧ e.ledg = d.ledg
  reg := other
  mem := False
  host := False

theorem recordBound_steps {α : Type} (g : Dev → α) (other : Nat → Prop) : (recordBound g other).Steps :=
  ⟨fun _ => ⟨rfl, rfl⟩, fun h k => ⟨k.1.trans h.1, k.2.trans h.2⟩⟩

theorem writeWords_cons {p : Path} {rec : Nat → Nat → Prog} {w a : Nat} {ws : List Nat} {s : State}
    (h : ((all [startWrite p.osrc, serviceWrite p a w []]).run s).dev.ledg.lastStatus = 0)
    (he : ((all [startWrite p.osrc, serviceWrite p a w []]).run s).dev.ledg.lastEpoch = 0) :
    (writeWords p rec (w :: ws) a 0).run s =
      (writeWords p rec ws (a + 4) 0).run ((rec 0 0).run ((all [startWrite p.osrc, serviceWrite p a w []]).run s)) := by
  rw [Prog.run_all_cons, Prog.run_all_cons, Prog.run_all_nil] at h he ⊢
  rw [writeWords, Prog.run_all_cons, Prog.run_all_cons, Prog.run_all_cons, Prog.run_all_nil, Prog.run_look, h, he, Prog.run_all_cons,
    Prog.run_all_cons, Prog.run_all_nil, if_pos rfl, Prog.run_when, if_pos (by rfl)]

theorem GenWords.one {s t : State} {a w : Nat} {other : Nat → Prop} (h : GenWritten s t a w) (hc : s.dev.ledg.cycle = []) :
    GenWords s t a [w] other := by
  refine ⟨fun i hi f hf => ?_, fun o _ ho => h.words o (ho 0 (by simp)), ?_, ?_, h.mem, h.host⟩
  · obtain rfl : i = 0 := by simpa using hi
    exact h.fields f hf
  · constructor <;> rw [h.dev]
  · rw [h.dev]
    exact hc

/-- A first word, what a record of its outcome leaves, and the words after it. -/
theorem GenWords.cons {s t r u : State} {a w : Nat} {ws : List Nat} {other : Nat → Prop} (h : GenWritten s t a w)
    (hrw : ∀ o, ¬other o → r.word o = t.word o) (hrm : r.mem = t.mem) (hrh : r.host = t.host) (hws : GenWords r u (a + 4) ws other)
    (hgen : ∀ i, i < (w :: ws).length → ¬other (a + 4 * i)) : GenWords s u a (w :: ws) other := by
  have hnext : ∀ i, a + 4 + 4 * i = a + 4 * (i + 1) := fun i => by omega
  refine ⟨fun i hi f hf => ?_, fun o ho hne => ?_, hws.status, hws.cycle, hws.mem.trans (hrm.trans h.mem), hws.host.trans (hrh.trans h.host)⟩
  · cases i with
    | zero =>
      have hlast : u.word a = t.word a := (hws.words a (hgen 0 (by simp)) fun i _ => by omega).trans (hrw a (hgen 0 (by simp)))
      rw [Nat.mul_zero, Nat.add_zero] at hf ⊢
      rw [hlast]
      exact h.fields f hf
    | succ i =>
      have hlt : i < ws.length := by simpa using hi
      have hfst : r.word (a + 4 * (i + 1)) = s.word (a + 4 * (i + 1)) := (hrw _ (hgen (i + 1) hi)).trans (h.words _ (by omega))
      have hf' := hws.fields i hlt f (by rw [hnext]; exact hf)
      rw [hnext, hfst] at hf'
      exact hf'
  · rw [hws.words o ho fun i hi => by rw [hnext]; exact hne (i + 1) (by simpa using hi), hrw o ho]
    exact h.words o (hne 0 (by simp))

section
variable {α : Type} {g : Dev → α} {other : Nat → Prop} {p : Path} {rec : Nat → Nat → Prog}

theorem writeWords_gen (hg : ∀ d l, g { d with ledg := l } = g d) (hpwr : ∀ d e, g d = g e → d.pwr = e.pwr)
    (hother : ∀ o, other o → 0x10000 ≤ o ∧ o ≠ F.PCK_STATUS_DEV.off ∧ o ≠ (F.LEDG_UNIT_STATE 116).off)
    (hrec : (rec 0 0).Only (Act.obeys (recordBound g other))) (hp : p = .mb ∨ p = .usb ∨ p = .spi) (w : Nat) (ws : List Nat) {s : State} {a : Nat}
    (ha : a % 4 = 0) (hr : ∀ i, i < (w :: ws).length → s.reach p (a + 4 * i) = true ∧ a + 4 * i < 0x10000 ∧ RegMap.fields (a + 4 * i) ≠ [])
    (hc : s.dev.ledg.cycle = []) :
    ∃ t, (writeWords p rec (w :: ws) a 0).run s = (rec 0 0).run t ∧ GenWords s t a (w :: ws) other ∧ g t.dev = g s.dev := by
  have hvf : ∀ n, p ≠ .vf n := fun n => by rcases hp with rfl | rfl | rfl <;> exact fun h => by cases h
  have hout : ∀ i, i < (w :: ws).length → ¬other (a + 4 * i) := fun i hi ho => by
    have := (hother _ ho).1
    have := (hr i hi).2.1
    omega
  induction ws generalizing w s a with
  | nil =>
    obtain ⟨hr0, hlt0, hf0⟩ := hr 0 (by simp)
    rw [Nat.mul_zero, Nat.add_zero] at hr0 hlt0 hf0
    have h := serviceWrite_gen (w := w) hvf hr0 hlt0 ha hf0 hc
    refine ⟨_, writeWords_cons (by rw [h.dev]) (by rw [h.dev]), GenWords.one h hc, ?_⟩
    rw [h.dev, hg]
  | cons w' ws ih =>
    obtain ⟨hr0, hlt0, hf0⟩ := hr 0 (by simp)
    rw [Nat.mul_zero, Nat.add_zero] at hr0 hlt0 hf0
    have h := serviceWrite_gen (w := w) hvf hr0 hlt0 ha hf0 hc
    have hrun := writeWords_cons (rec := rec) (ws := w' :: ws) (by rw [h.dev]) (by rw [h.dev])
    generalize (all [startWrite p.osrc, serviceWrite p a w []]).run s = t at *
    have hrg := hrec.devs (recordBound_steps g other) t
    have hrw : ∀ o, ¬other o → ((rec 0 0).run t).word o = t.word o := fun o ho => hrec.words ho t
    have hrm := hrec.mems id t
    have hrh := hrec.hosts id t
    generalize (rec 0 0).run t = r at *
    have hgs : g r.dev = g s.dev := by rw [hrg.1, h.dev, hg]
    have hsame : ∀ o, 0x10000 ≤ o → ¬other o → r.word o = s.word o := fun o ho hno => (hrw o hno).trans (h.words o (by omega))
    have hreach : ∀ o, r.reach p o = s.reach p o := State.reach_service hp (hpwr _ _ hgs)
      (hsame _ (by decide) fun ho => (hother _ ho).2.1 rfl) (hsame _ (by decide) fun ho => (hother _ ho).2.2 rfl)
    have hnext : ∀ i, a + 4 + 4 * i = a + 4 * (i + 1) := fun i => by omega
    obtain ⟨u, hu, hwords, hgu⟩ := ih w' (s := r) (a := a + 4) (by omega) (fun i hi => by
      rw [hreach, hnext]
      exact hr (i + 1) (by simpa using hi)) (by rw [hrg.2, h.dev]; exact hc) fun i hi => by
      rw [hnext]
      exact hout (i + 1) (by simpa using hi)
    exact ⟨u, hrun.trans hu, GenWords.cons h hrw hrm hrh hwords hout, hgu.trans hgs⟩

end

end Sys2Proof.Machine
end

section
/-!
Vendor requests, standard requests and states of the USB port (R325, R346, R533 to R536): O52.
-/
namespace Sys2Proof.Machine

/-! ## What the device has sent stays sent -/

/-- The act takes nothing back of what has been sent. -/
def Act.keepsSent : Act → Prop
  | .dev f => ∀ d, d.out <+: (f d).out
  | _ => True

@[simp] theorem Act.keepsSent_dev (f : Dev → Dev) : (Act.dev f).keepsSent ↔ ∀ d, d.out <+: (f d).out := Iff.rfl
@[simp] theorem Act.keepsSent_reg (off : Nat) (v : Word) : (Act.reg off v).keepsSent := trivial

theorem Prog.Only.sent {p : Prog} (h : p.Only Act.keepsSent) (s : State) : s.dev.out <+: (p.run s).dev.out := by
  refine h.run (R := fun s t => s.dev.out <+: t.dev.out) (fun s => List.prefix_refl _) (fun h k => h.trans k) (fun a s ha => ?_) s
  cases a with
  | dev f => exact ha s.dev
  | _ => exact List.prefix_refl _

@[simp] theorem logC_keepsSent (code sev unit ds st) : (logC code sev unit ds st).Only Act.keepsSent := by
  simp [logC, logRec, logRaw, loseUnread, catchMsi, modLog, sendMsix, emitOut, setF, incF, addF]

@[simp] theorem logLim_keepsSent (l id code sev unit ds st) : (logLim l id code sev unit ds st).Only Act.keepsSent := by
  simp [logLim]

theorem logSvc_onlyLogs (code sev unit : Nat) (ds : List Nat) : (logSvc code sev unit ds).Only Act.logs := by
  rw [logSvc]
  split
  · exact logLim_onlyLogs _ _ _ _ _ _ _
  · exact logC_onlyLogs _ _ _ _ _

@[simp] theorem logSvc_keepsSent (code sev unit ds) : (logSvc code sev unit ds).Only Act.keepsSent := by simp [logSvc]

/-- Something goes out, and the service's catches follow. -/
theorem emitOut_logged {p : Prog} (hl : p.Only Act.logs) (hs : p.Only Act.keepsSent) (o : Out) (s : State) :
    (∃ l, ((all [emitOut o, p]).run s).dev.out = s.dev.out ++ o :: l) ∧ ((all [emitOut o, p]).run s).dev.svc = s.dev.svc ∧
    ((all [emitOut o, p]).run s).dev.chuck = s.dev.chuck ∧ OnlyRegs s ((all [emitOut o, p]).run s) catchRegs := by
  rw [Prog.run_all_cons, Prog.run_all_cons, Prog.run_all_nil]
  generalize hx : (emitOut o).run s = x
  have hsent := hs.sent x
  have hlog := hl.onlyLogs x
  generalize p.run x = u at *
  obtain ⟨l, hl⟩ := hsent
  refine ⟨⟨l, ?_⟩, by rw [hlog.dev, ← hx]; rfl, by rw [hlog.dev, ← hx]; rfl, fun a ha => (hlog.regs a ha).trans (by rw [← hx]; rfl),
    fun a => by rw [hlog.mem, ← hx]; rfl, fun a => by rw [hlog.host, ← hx]; rfl⟩
  rw [← hl, ← hx]
  exact List.append_assoc s.dev.out [o] l

theorem usbStall_run (s : State) : Out.stall .usb ∈ (usbStall.run s).dev.out.drop s.dev.out.length ∧ (usbStall.run s).dev.svc = s.dev.svc ∧
    (usbStall.run s).dev.chuck = s.dev.chuck ∧ OnlyRegs s (usbStall.run s) catchRegs := by
  obtain ⟨⟨l, hout⟩, hsvc, hchuck, hregs⟩ := emitOut_logged (logSvc_onlyLogs 0xC033 0 116 []) (logSvc_keepsSent 0xC033 0 116 []) (.stall .usb) s
  refine ⟨?_, hsvc, hchuck, hregs⟩
  rw [usbStall, hout, List.drop_left]
  exact List.mem_cons_self

theorem ep0_run {s : State} (h : s.ep0 = true) (q : Prog) : (ep0 q).run s = q.run s := by
  rw [ep0, Prog.run_look, h, Prog.run_when, if_pos rfl]

/-! ## Registers -/

theorem usbLenOk_words {n : Nat} (h1 : 1 ≤ n) (h2 : n ≤ 1024) : usbLenOk (4 * n) = true := by
  simp [usbLenOk]
  omega

theorem usbRegRead_words {s : State} {addr n : Nat} {acked : Bool} (he : s.ep0 = true) (h1 : 1 ≤ n) (h2 : n ≤ 1024) (ha : addr % 4 = 0)
    (hlt : addr + 4 * n ≤ 0x4000000) (h : ∀ i, i < n → s.plainAt (addr + 4 * i)) : Completes (.usbRegRead addr (4 * n) acked) s fun u =>
      Sends s u [.reply .usb ((List.range n).flatMap fun i => toBytes 4 (s.readWord .usb (addr + 4 * i)))] ∧ OnlyRegs s u [] := by
  refine completes_done rfl ?_
  have hn : 4 * n / 4 = n := by omega
  rw [ep0_run he, usbLenOk_words h1 h2, hn, rangeStatus_in ha hlt, if_pos (by rfl),
    readWords_run (fun _ h => by cases h) acked _ ha hlt h, List.nil_append]
  exact ⟨rfl, fun _ _ => rfl, fun _ => rfl, fun _ => rfl⟩

theorem usbRegRead_stalls {s : State} {addr len : Nat} {acked : Bool} (he : s.ep0 = true) (hl : usbLenOk len = false) :
    Completes (.usbRegRead addr len acked) s fun u => Out.stall .usb ∈ u.dev.out.drop s.dev.out.length ∧ OnlyRegs s u catchRegs := by
  refine completes_done rfl ?_
  rw [ep0_run he, hl, if_neg (by simp)]
  exact ⟨(usbStall_run s).1, (usbStall_run s).2.2.2⟩

theorem recordsOf_flatMap (ws : List Word) {fuel : Nat} (h : ws.length < fuel) :
    (recordsOf 4 fuel (ws.flatMap fun w => toBytes 4 w.toNat)).map ofBytes = ws.map BitVec.toNat := by
  induction ws generalizing fuel with
  | nil =>
    obtain ⟨k, rfl⟩ : ∃ k, fuel = k + 1 := ⟨fuel - 1, by simp at h; omega⟩
    rfl
  | cons w ws ih =>
    obtain ⟨k, rfl⟩ : ∃ k, fuel = k + 1 := ⟨fuel - 1, by simp at h; omega⟩
    have hlen : (toBytes 4 w.toNat).length = 4 := toBytes_length 4 w.toNat
    have hw : ofBytes (toBytes 4 w.toNat) = w.toNat := (ofBytes_toBytes 4 w.toNat).trans (Nat.mod_eq_of_lt w.isLt)
    rw [List.flatMap_cons, recordsOf, if_neg (by rw [List.length_append, hlen]; omega), List.take_append_of_le_length (by omega),
      List.take_of_length_le (by omega), List.drop_append_of_le_length (by omega), List.drop_of_length_le (by omega), List.nil_append,
      List.map_cons, hw, ih (by simpa using h), List.map_cons]

theorem length_flatMap_words (ws : List Word) : (ws.flatMap fun w => toBytes 4 w.toNat).length = 4 * ws.length := by
  induction ws with
  | nil => rfl
  | cons w ws ih =>
    rw [List.flatMap_cons, List.length_append, ih, toBytes_length, List.length_cons]
    omega

theorem wordsOf_flatMap {ws : List Word} (h : ws ≠ []) : wordsOf (ws.flatMap fun w => toBytes 4 w.toNat) = ws.map BitVec.toNat := by
  have := List.length_pos_iff.mpr h
  exact recordsOf_flatMap ws (by rw [length_flatMap_words]; omega)

/-- What a recorded outcome of the USB port leaves beside itself. -/
def Dev.besideUsbLast (d : Dev) : Power × Service := (d.pwr, { d.svc with usbLast := (0, 0, 0) })

theorem usbRegWrite_words {s : State} {addr : Nat} {words : List Word} (hr : s.ready = true) (he : s.ep0 = true) (hne : words ≠ [])
    (hlen : words.length ≤ 1024) (ha : addr % 4 = 0) (hc : s.dev.ledg.cycle = [])
    (h : ∀ i, i < words.length → addr + 4 * i < 0x10000 ∧ RegMap.fields (addr + 4 * i) ≠ []) :
    Completes (.usbRegWrite addr (words.flatMap fun w => toBytes 4 w.toNat)) s fun u =>
      (∀ i, i < words.length → ∀ f ∈ RegMap.fields (addr + 4 * i), bitsOf (u.word (addr + 4 * i)).toNat f.lo f.w =
        if f.acc = .rw then bitsOf (words.getD i 0).toNat f.lo f.w else bitsOf (s.word (addr + 4 * i)).toNat f.lo f.w) ∧
      u.dev.svc = { s.dev.svc with usbLast := (2, 0, 0) } ∧ OnlyRegs s u ((List.range words.length).map fun i => addr + 4 * i) := by
  have hpos := List.length_pos_iff.mpr hne
  have hlast := (h (words.length - 1) (by omega)).1
  refine completes_done rfl ?_
  have hdiv : 4 * words.length / 4 = words.length := by omega
  rw [ep0_run he, usbWrite, length_flatMap_words, usbLenOk_words hpos hlen, hdiv, rangeStatus_in ha (by omega), if_neg (by simp),
    if_neg (by simp), wordsOf_flatMap hne]
  obtain ⟨w, ws, hws⟩ : ∃ w ws, words.map BitVec.toNat = w :: ws := by
    cases words with
    | nil => exact absurd rfl hne
    | cons w ws => exact ⟨_, _, rfl⟩
  have hlw : (w :: ws).length = words.length := by rw [← hws, List.length_map]
  obtain ⟨t, hrun, hgen, hbeside⟩ := writeWords_gen (g := Dev.besideUsbLast) (other := fun _ => False) (p := .usb) (rec := recordUsb 0x02)
    (fun _ _ => rfl) (fun _ _ h => congrArg Prod.fst h) (fun _ h => h.elim) (fun _ => ⟨rfl, rfl⟩) (.inr (.inl rfl)) w ws (s := s) ha
    (fun i hi => ⟨State.reach_gen (.inr (.inr ⟨rfl, he⟩)) hr (h i (hlw ▸ hi)).1, h i (hlw ▸ hi)⟩) hc
  rw [hws, hrun]
  refine ⟨fun i hi f hf => ?_, ?_, fun o ho => ?_, fun a => congrArg (·.read a) hgen.mem, fun a => congrArg (·.read a) hgen.host⟩
  · have hi' := hgen.fields i (hlw ▸ hi) f hf
    have hget : (w :: ws).getD i 0 = (words.getD i 0).toNat := by
      rw [← hws, List.getD_eq_getElem?_getD, List.getElem?_map, List.getD_eq_getElem?_getD]
      cases words[i]? <;> rfl
    rw [hget] at hi'
    exact hi'
  · show { t.dev.svc with usbLast := (2, 0, 0) } = _
    have hsvc : ({ t.dev.svc with usbLast := (0, 0, 0) } : Service) = { s.dev.svc with usbLast := (0, 0, 0) } := congrArg Prod.snd hbeside
    exact congrArg (fun v : Service => { v with usbLast := (2, 0, 0) }) hsvc
  · refine hgen.words o id fun i hi => ?_
    rintro rfl
    exact ho (List.mem_map.mpr ⟨i, List.mem_range.mpr (hlw ▸ hi), rfl⟩)

theorem usbRegWrite_out {s : State} {addr : Nat} {v : Word} (he : s.ep0 = true) (ha : 0x4000000 ≤ addr) :
    Completes (.usbRegWrite addr (toBytes 4 v.toNat)) s fun u => u.dev.svc = { s.dev.svc with usbLast := (2, 3, 0) } ∧
      Out.stall .usb ∈ u.dev.out.drop s.dev.out.length ∧ OnlyRegs s u catchRegs := by
  refine completes_done rfl ?_
  rw [ep0_run he, usbWrite, toBytes_length, if_neg (by decide), rangeStatus_out (by decide) ha, if_pos (by rfl), Prog.run_all_cons,
    Prog.run_all_cons, Prog.run_all_nil]
  obtain ⟨hstall, hsvc, -, hregs⟩ := usbStall_run ((recordUsb 2 3 0).run s)
  exact ⟨hsvc, hstall, hregs.regs, hregs.bytes, hregs.host⟩

/-! ## Image loads -/

theorem recordUsb_run (cmd status epoch : Nat) (s : State) : (recordUsb cmd status epoch).run s =
    { s with dev := { s.dev with svc := { s.dev.svc with usbLast := (cmd, status, epoch) } } } := rfl

theorem State.mayLoad_svc (s : State) (v : Service) (kind part src : Nat) :
    ({ s with dev := { s.dev with svc := v } } : State).mayLoad kind part src = s.mayLoad kind part src := rfl

theorem beginLoad_svc (kind part src len : Nat) (s : State) : ((beginLoad kind part src len).run s).dev.svc = s.dev.svc :=
  Prog.Only.keeps (g := Dev.svc) (by simp [beginLoad, modPart, setF, modChuck]) s

theorem imgStart_run {s : State} {kind part : Nat} (he : s.ep0 = true) (hk : kind < 3) (hp : part < 8) :
    exec (.imgStart kind part 0) s = .next ((requestLoad kind part 3 0).run ((recordUsb 3 0 0).run s)) := by
  show done (ep0 (if (0 : Nat) != 0 || 3 ≤ kind || 8 ≤ part then usbStall else _)) s = _
  rw [done_eq, ep0_run he, if_neg (by simp; omega), Prog.run_all_cons, Prog.run_all_cons, Prog.run_all_nil]
  rfl

theorem imgStart_begins {s : State} {kind part : Nat} (he : s.ep0 = true) (hm : s.mayLoad kind part 3 = true) (hp : part < 8) :
    Completes (.imgStart kind part 0) s fun u => u.fld F.IMG_STATUS_CHUCK = 1 ∧ u.fld F.IMG_STATUS_SRC = 3 ∧
      u.dev.chuck.load = some { kind := kind, part := part, src := 3, boot := s.dev.chuck.booting, lastData := s.now } ∧
      u.dev.svc = { s.dev.svc with usbLast := (3, 0, 0) } ∧ SameBytes s u ∧ SameHost s u := by
  have hk : kind < 3 := by
    have := hm
    simp only [State.mayLoad, Bool.and_eq_true, decide_eq_true_eq] at this
    exact this.1.1.1
  refine ⟨_, imgStart_run he hk hp, ?_⟩
  have hm' : ((recordUsb 3 0 0).run s).mayLoad kind part 3 = true := hm
  rw [requestLoad, Prog.run_look, if_pos hm']
  obtain ⟨hchuck, hsrc, -, hload, -, hbytes, hhost⟩ := beginLoad_run hp (by decide : 3 < 8) kind 0 ((recordUsb 3 0 0).run s)
  exact ⟨hchuck, hsrc, hload, beginLoad_svc _ _ _ _ _, hbytes, hhost⟩

theorem imgStart_refused {s : State} {kind part : Nat} (he : s.ep0 = true) (hk : kind < 3) (hp : part < 8) (hm : s.mayLoad kind part 3 = false) :
    Completes (.imgStart kind part 0) s fun u => u.fld F.IMG_RESULT_CODE = 8 ∧ u.dev.chuck = s.dev.chuck ∧
      u.dev.log.count ≠ s.dev.log.count ∧ SameBytes s u ∧ SameHost s u := by
  refine ⟨_, imgStart_run he hk hp, ?_⟩
  have hm' : ((recordUsb 3 0 0).run s).mayLoad kind part 3 = false := hm
  rw [requestLoad, Prog.run_look, hm', if_neg Bool.false_ne_true]
  obtain ⟨hcode, hchuck, -, hcount, hbytes, hhost⟩ := refuseLoad_run kind part 3 ((recordUsb 3 0 0).run s)
  exact ⟨hcode, hchuck, hcount, hbytes, hhost⟩

theorem imgStart_stalls {s : State} {kind part len : Nat} (he : s.ep0 = true) (h : len ≠ 0 ∨ 3 ≤ kind ∨ 8 ≤ part) :
    Completes (.imgStart kind part len) s fun u => Out.stall .usb ∈ u.dev.out.drop s.dev.out.length ∧ u.dev.chuck = s.dev.chuck ∧
      OnlyRegs s u catchRegs := by
  refine completes_done rfl ?_
  rw [ep0_run he, if_pos (by simpa [or_assoc] using h)]
  obtain ⟨hstall, -, hchuck, hregs⟩ := usbStall_run s
  exact ⟨hstall, hchuck, hregs⟩

theorem imgAbort_completes {s : State} {l : Load} (he : s.ep0 = true) (hl : s.dev.chuck.load = some l) (hb : l.boot = false)
    (hc : s.fld F.IMG_STATUS_CHUCK ≠ 3) : Completes .imgAbort s fun u =>
      u.dev.chuck.load = none ∧ u.fld F.IMG_STATUS_CHUCK = 0 ∧ u.fld F.IMG_STATUS_SRC = s.fld F.IMG_STATUS_SRC ∧
      u.fld F.IMG_RESULT_CODE = 10 ∧ u.dev.log.count ≠ s.dev.log.count ∧ SameHost s u := by
  refine completes_done rfl ?_
  rw [ep0_run he, Prog.run_all_cons, Prog.run_all_cons, Prog.run_all_nil]
  have h := endLoad_run (s := (recordUsb 4 0 0).run s) (sel := fun _ => true) hl rfl hb hc rAborted
  exact ⟨h.load, h.chuck, h.src, h.result, h.count, h.host⟩

theorem usbLastResult_completes {s : State} (he : s.ep0 = true) : Completes .usbLastResult s fun u => OnlyRegs s u [] ∧ Sends s u [.reply .usb
      (toBytes 1 s.dev.svc.usbLast.1 ++ toBytes 1 s.dev.svc.usbLast.2.1 ++ toBytes 2 s.dev.svc.usbLast.2.2)] := by
  refine completes_done rfl ?_
  rw [ep0_run he, Prog.run_look]
  exact ⟨⟨fun _ _ => rfl, fun _ => rfl, fun _ => rfl⟩, rfl⟩

end Sys2Proof.Machine
end

section
/-!
Standard requests and states of the USB port (R533, R536), and O52.
-/
namespace Sys2Proof.Machine

/-! ## States of the port -/

/-- A unit that declares a state has it. -/
theorem declareUnit_state {st : Nat} (h : st < 16) (u : Nat) (s : State) : ((declareUnit u st).run s).unitState u = st := by
  by_cases hne : s.unitState u = st
  · rw [declareUnit, Prog.run_look, Prog.run_when, if_neg (by simp [hne])]
    exact hne
  · exact (declareUnit_run_of_ne hne h).1

theorem OnlyLine.onlyRegs {s v : State} {u : Nat} (h : OnlyLine s v u) : OnlyRegs s v [0x40100 + 4 * u] :=
  ⟨fun o ho => h.words o (by simpa using ho), fun a => congrArg (·.read a) h.mem, fun a => congrArg (·.read a) h.host⟩

theorem usbSuspend_completes {s : State} (h1 : 1 ≤ s.unitState 116) (h4 : s.unitState 116 ≤ 4) : Completes .usbSuspend s fun u =>
      u.unitState 116 = 5 ∧ u.dev.svc = { s.dev.svc with usbBefore := s.unitState 116 } ∧ OnlyRegs s u [(F.LEDG_UNIT_STATE 116).off] := by
  refine completes_done rfl ?_
  rw [Prog.run_when, if_pos (by simp [State.usb, h1, h4]), Prog.run_all_cons, Prog.run_all_cons, Prog.run_all_nil]
  have hline := declareUnit_line 116 5 ((modSvc fun v => { v with usbBefore := s.usb }).run s)
  refine ⟨declareUnit_state (by decide) 116 _, ?_, hline.onlyRegs.regs, hline.onlyRegs.bytes, hline.onlyRegs.host⟩
  rw [hline.dev]
  rfl

theorem usbResume_completes {s : State} (h5 : s.unitState 116 = 5) (hb : s.dev.svc.usbBefore ≤ 4) : Completes .usbResume s fun u =>
      u.unitState 116 = s.dev.svc.usbBefore ∧ u.dev = s.dev ∧ OnlyRegs s u [(F.LEDG_UNIT_STATE 116).off] := by
  refine completes_done rfl ?_
  rw [Prog.run_when, if_pos (by simp [State.usb, h5])]
  have hline := declareUnit_line 116 s.dev.svc.usbBefore s
  exact ⟨declareUnit_state (by omega) 116 s, hline.dev, hline.onlyRegs⟩

theorem usbVbusApplied_completes {s : State} (hr : s.ready = true) (h0 : s.unitState 116 = 0) (hoff : s.dev.svc.usbOff = 0)
    (hclk : s.unitState 40 ≠ 0 ∨ s.bit F.TB_STATUS_XTAL = true) : Completes .usbVbusApplied s fun u =>
      u.unitState 116 = 1 ∧ u.epoch 116 = (s.epoch 116 + 1) % 65536 ∧ u.dev.pwr.pins.vbus = true ∧
      OnlyRegs s u [(F.LEDG_UNIT_STATE 116).off] := by
  obtain ⟨hp, -, -⟩ := ready_facts hr
  refine completes_done rfl ?_
  rw [Prog.run_all_cons, Prog.run_all_cons, Prog.run_all_nil, hp, Prog.run_when, if_pos (by rfl), usbCheck, Prog.run_look]
  generalize hx : (setPins fun p => { p with vbus := true }).run s = x
  have hmay : x.usbMay = true := by
    rw [← hx]
    show (s.ready && s.dev.svc.usbOff == 0 && true && !(s.unitState 40 == 0 && !s.bit F.TB_STATUS_XTAL)) = true
    rcases hclk with h | h <;> simp [hr, hoff, h]
  have hx0 : x.unitState 116 = 0 := by rw [← hx]; exact h0
  have hxe : x.epoch 116 = s.epoch 116 := by rw [← hx]; rfl
  have hvbus : x.dev.pwr.pins.vbus = true := by rw [← hx]; rfl
  have hxw : ∀ o, x.word o = s.word o := fun o => by rw [← hx]; rfl
  have hxm : x.mem = s.mem := by rw [← hx]; rfl
  have hxh : x.host = s.host := by rw [← hx]; rfl
  rw [hmay, if_pos rfl, hx0, Prog.run_when, if_pos (by rfl)]
  have hline := declareUnit_line 116 1 x
  obtain ⟨h1, he⟩ := declareUnit_run_of_ne (s := x) (u := 116) (st := 1) (by rw [hx0]; decide) (by decide)
  refine ⟨h1, he.trans (by rw [hxe]), by rw [hline.dev]; exact hvbus, fun o ho => (hline.onlyRegs.regs o ho).trans (hxw o),
    fun a => (hline.onlyRegs.bytes a).trans (by rw [hxm]), fun a => (hline.onlyRegs.host a).trans (by rw [hxh])⟩

/-! ## Bus reset and loss of VBUS -/

theorem usbLoseLoad_run_none {s : State} (h : ∀ l, s.dev.chuck.load = some l → l.src ≠ 3) : usbLoseLoad.run s = s := by
  have hany : s.dev.chuck.load.any (fun l => l.src == srcUsb) = false := by
    cases hl : s.dev.chuck.load with
    | none => rfl
    | some l => exact beq_eq_false_iff_ne.mpr (h l hl)
  rw [usbLoseLoad, Prog.run_look, hany, Bool.false_and, Prog.run_when, if_neg Bool.false_ne_true]

/-- What a bus reset notes before the port takes its state. -/
structure UsbForgotten (s u : State) : Prop where
  counted : Counted s u F.USB_RESETS
  svc : u.dev.svc = { s.dev.svc with usbAddr := 0, usbBefore := 0, usbHalt := 0, ep2 := none }
  chuck : u.dev.chuck = s.dev.chuck
  pins : u.dev.pwr = s.dev.pwr
  regs : OnlyRegs s u ([F.USB_STATUS_HS.off, F.USB_RESETS.off] ++ catchRegs)

def forgetUsb : Prog := all [incF F.USB_RESETS, logSvc 0xC030 0 116 [], usbLoseLoad, usbForget]

theorem forgetUsb_run {s : State} (h : ∀ l, s.dev.chuck.load = some l → l.src ≠ 3) : UsbForgotten s (forgetUsb.run s) := by
  rw [forgetUsb]
  iterate 4 rw [Prog.run_all_cons]
  rw [Prog.run_all_nil]
  have hcount := Prog.fld_incF F.USB_RESETS s (by decide)
  have hword : ∀ o, o ≠ F.USB_RESETS.off → ((incF F.USB_RESETS).run s).word o = s.word o := fun o ho => Prog.word_incF_other ho s
  have hdev : ((incF F.USB_RESETS).run s).dev = s.dev := rfl
  have hmem : ((incF F.USB_RESETS).run s).mem = s.mem := rfl
  have hhost : ((incF F.USB_RESETS).run s).host = s.host := rfl
  generalize (incF F.USB_RESETS).run s = x at *
  have hlog := (logSvc_onlyLogs 0xC030 0 116 []).onlyLogs x
  generalize (logSvc 0xC030 0 116 []).run x = y at *
  rw [usbLoseLoad_run_none (by rw [hlog.dev, hdev]; exact h)]
  have hforget : usbForget.Only (Act.obeys (.quiet [F.USB_STATUS_HS.off])) := by simp [usbForget, modSvc]
  obtain ⟨hregs, hb, hh⟩ := hforget.sameRegs_of_quiet y
  refine ⟨?_, ?_, ?_, ?_, fun o ho => ?_, fun a => ?_, fun a => ?_⟩
  · rw [Counted, State.fld_of_word (hregs _ (by decide)), hlog.fld (by decide), hcount]
  · show ({ y.dev.svc with usbAddr := 0, usbBefore := 0, usbHalt := 0, ep2 := none } : Service) = _
    rw [hlog.dev, hdev]
  · show y.dev.chuck = _
    rw [hlog.dev, hdev]
  · show y.dev.pwr = _
    rw [hlog.dev, hdev]
  · simp only [List.cons_append, List.nil_append, List.mem_cons, not_or] at ho
    obtain ⟨h1, h2, h3⟩ := ho
    rw [hregs o (by simpa using h1), hlog.regs o h3, hword o h2]
  · rw [hb, hlog.mem, hmem]
  · rw [hh, hlog.host, hhost]

theorem usbReset_run {s : State} (h0 : s.unitState 116 ≠ 0) (lost hs : Bool) : (usbReset lost hs).run s =
    (if lost then declareUnit 116 0 else all [declareUnit 116 2, setB F.USB_STATUS_HS hs]).run (forgetUsb.run s) := by
  have hne : (s.usb != 0) = true := bne_iff_ne.mpr h0
  rw [usbReset, Prog.run_look, hne, Prog.run_when, if_pos rfl, forgetUsb]
  iterate 5 rw [Prog.run_all_cons]
  rw [Prog.run_all_nil]
  iterate 4 rw [Prog.run_all_cons]
  rw [Prog.run_all_nil]

theorem usbReset_bus {s : State} {hs : Bool} (h0 : s.unitState 116 ≠ 0) (hl : ∀ l, s.dev.chuck.load = some l → l.src ≠ 3) :
    Completes (.usbReset false hs) s fun u => u.unitState 116 = 2 ∧ u.bit F.USB_STATUS_HS = hs ∧ Counted s u F.USB_RESETS ∧
      u.dev.svc.usbAddr = 0 ∧ u.dev.svc.usbHalt = 0 ∧ u.dev.svc.ep2 = none ∧ u.dev.chuck = s.dev.chuck ∧
      OnlyRegs s u ([F.USB_STATUS_HS.off, F.USB_RESETS.off, (F.LEDG_UNIT_STATE 116).off] ++ catchRegs) := by
  refine completes_done rfl ?_
  rw [Prog.run_all_cons, Prog.run_all_cons, Prog.run_all_nil, Prog.run_when, if_neg Bool.false_ne_true, usbReset_run h0,
    if_neg Bool.false_ne_true, Prog.run_all_cons, Prog.run_all_cons, Prog.run_all_nil]
  have h := forgetUsb_run hl
  generalize forgetUsb.run s = x at *
  have hline := declareUnit_line 116 2 x
  have h2 : ((declareUnit 116 2).run x).unitState 116 = 2 := declareUnit_state (by decide) 116 x
  generalize (declareUnit 116 2).run x = y at *
  have hset : ∀ o, o ≠ F.USB_STATUS_HS.off → ((setB F.USB_STATUS_HS hs).run y).word o = y.word o := fun o ho =>
    (Prog.only_setB fun _ => Ne.symm ho : (setB F.USB_STATUS_HS hs).Only (Act.sparesReg o)).word y
  have hdev : ((setB F.USB_STATUS_HS hs).run y).dev = x.dev := hline.dev
  refine ⟨(State.fld_of_word (hset _ (by decide))).trans h2, Prog.bit_setB_same (f := F.USB_STATUS_HS) rfl (by decide) hs y, ?_, ?_, ?_, ?_, ?_,
    fun o ho => ?_, fun a => ?_, fun a => ?_⟩
  · rw [Counted, State.fld_of_word (hset _ (by decide)), State.fld_of_word (hline.words _ (by decide))]
    exact h.counted
  · rw [hdev, h.svc]
  · rw [hdev, h.svc]
  · rw [hdev, h.svc]
  · rw [hdev, h.chuck]
  · simp only [List.cons_append, List.nil_append, List.mem_cons, not_or] at ho
    obtain ⟨h1, h2, h3, h4⟩ := ho
    rw [hset o h1, hline.words o h3]
    exact h.regs.regs o (by simpa [h1, h2] using h4)
  · exact (congrArg (·.read a) hline.mem).trans (h.regs.bytes a)
  · exact (congrArg (·.read a) hline.host).trans (h.regs.host a)

theorem usbReset_lost {s : State} {hs : Bool} (h0 : s.unitState 116 ≠ 0) (hl : ∀ l, s.dev.chuck.load = some l → l.src ≠ 3) :
    Completes (.usbReset true hs) s fun u => u.unitState 116 = 0 ∧ u.dev.pwr.pins.vbus = false ∧ Counted s u F.USB_RESETS ∧
      OnlyRegs s u ([F.USB_STATUS_HS.off, F.USB_RESETS.off, (F.LEDG_UNIT_STATE 116).off] ++ catchRegs) := by
  refine completes_done rfl ?_
  rw [Prog.run_all_cons, Prog.run_all_cons, Prog.run_all_nil, Prog.run_when, if_pos rfl]
  generalize hv : (setPins fun p => { p with vbus := false }).run s = v
  have hv0 : v.unitState 116 ≠ 0 := by rw [← hv]; exact h0
  have hvl : ∀ l, v.dev.chuck.load = some l → l.src ≠ 3 := by rw [← hv]; exact hl
  have hvp : v.dev.pwr.pins.vbus = false := by rw [← hv]; rfl
  have hvw : ∀ o, v.word o = s.word o := fun o => by rw [← hv]; rfl
  have hvm : v.mem = s.mem := by rw [← hv]; rfl
  have hvh : v.host = s.host := by rw [← hv]; rfl
  clear hv
  rw [usbReset_run hv0, if_pos rfl]
  have h := forgetUsb_run hvl
  generalize forgetUsb.run v = x at *
  have hline := declareUnit_line 116 0 x
  refine ⟨declareUnit_state (by decide) 116 x, ?_, ?_, fun o ho => ?_, fun a => ?_, fun a => ?_⟩
  · rw [hline.dev, h.pins, hvp]
  · rw [Counted, State.fld_of_word (hline.words _ (by decide)), h.counted, State.fld_of_word (hvw _)]
  · simp only [List.cons_append, List.nil_append, List.mem_cons, not_or] at ho
    obtain ⟨h1, h2, h3, h4⟩ := ho
    rw [hline.words o h3, h.regs.regs o (by simpa [h1, h2] using h4), hvw]
  · rw [hline.mem, h.regs.bytes, hvm]
  · rw [hline.host, h.regs.host, hvh]

/-! ## Standard requests -/

theorem ep0_of_states {s : State} (h : s.unitState 116 = 2 ∨ s.unitState 116 = 3) : s.ep0 = true := by
  rcases h with h | h <;> simp [State.ep0, State.usb, h]

theorem usbStandard_descriptor {r : UsbStd} (ht : r.bmRequestType = 0x80) (hq : r.bRequest = 6) (s : State) : (usbStandard r).run s =
    (match s.usbDesc (r.wValue / 256) (r.wValue % 256) with
      | some d => usbAnswer r d
      | none => usbStall).run s := by
  obtain ⟨t, q, v, i, l⟩ := r
  subst ht hq
  rfl

theorem usbStandard_address {r : UsbStd} (ht : r.bmRequestType = 0) (hq : r.bRequest = 5) (s : State) : (usbStandard r).run s =
    (if s.usb = 4 || 127 < r.wValue then usbStall
      else all [modSvc fun v => { v with usbAddr := r.wValue }, declareUnit 116 (if r.wValue = 0 then 2 else 3)]).run s := by
  obtain ⟨t, q, v, i, l⟩ := r
  subst ht hq
  rfl

theorem usbStandard_configuration {r : UsbStd} (ht : r.bmRequestType = 0) (hq : r.bRequest = 9) (s : State) : (usbStandard r).run s =
    (if s.usb = 2 || 1 < r.wValue then usbStall else if r.wValue = 1 then usbConfigure else declareUnit 116 3).run s := by
  obtain ⟨t, q, v, i, l⟩ := r
  subst ht hq
  rfl

theorem usbDescriptor_sent {s : State} {r : UsbStd} {d : List Byte} (he : s.ep0 = true) (ht : r.bmRequestType = 0x80) (hq : r.bRequest = 6)
    (hd : s.usbDesc (r.wValue / 256) (r.wValue % 256) = some d) : Completes (.usbStandardRequest r) s fun u =>
      Sends s u [.reply .usb (d.take r.wLength)] ∧ OnlyRegs s u [] := by
  refine completes_done rfl ?_
  rw [ep0_run he, usbStandard_descriptor ht hq, hd]
  exact ⟨rfl, fun _ _ => rfl, fun _ => rfl, fun _ => rfl⟩

theorem usbAddress_set {s : State} {r : UsbStd} (h : s.unitState 116 = 2 ∨ s.unitState 116 = 3) (ht : r.bmRequestType = 0)
    (hq : r.bRequest = 5) (hv : r.wValue ≤ 127) : Completes (.usbStandardRequest r) s fun u =>
      u.dev.svc = { s.dev.svc with usbAddr := r.wValue } ∧ u.unitState 116 = (if r.wValue = 0 then 2 else 3) ∧
      OnlyRegs s u [(F.LEDG_UNIT_STATE 116).off] := by
  have h4 : s.usb ≠ 4 := by
    show s.unitState 116 ≠ 4
    omega
  refine completes_done rfl ?_
  rw [ep0_run (ep0_of_states h), usbStandard_address ht hq, if_neg (by simpa [h4] using hv), Prog.run_all_cons, Prog.run_all_cons, Prog.run_all_nil]
  have hline := declareUnit_line 116 (if r.wValue = 0 then 2 else 3) ((modSvc fun v => { v with usbAddr := r.wValue }).run s)
  refine ⟨?_, declareUnit_state (by split <;> decide) 116 _, hline.onlyRegs.regs, hline.onlyRegs.bytes, hline.onlyRegs.host⟩
  rw [hline.dev]
  rfl

theorem usbConfiguration_set {s : State} {r : UsbStd} (h : s.unitState 116 = 3) (ht : r.bmRequestType = 0) (hq : r.bRequest = 9)
    (hv : r.wValue = 1) : Completes (.usbStandardRequest r) s fun u => u.unitState 116 = 4 ∧ u.epoch 116 = (s.epoch 116 + 1) % 65536 ∧
      u.dev.svc.usbHalt = 0 ∧ OnlyRegs s u ((F.LEDG_UNIT_STATE 116).off :: catchRegs) := by
  have h3 : s.usb = 3 := h
  refine completes_done rfl ?_
  rw [ep0_run (ep0_of_states (.inr h)), usbStandard_configuration ht hq, hv, h3, if_neg (by decide), if_pos rfl, usbConfigure, Prog.run_look, h3, Prog.run_all_cons, Prog.run_all_cons, Prog.run_all_nil, Prog.run_when,
    if_pos (by rfl), Prog.run_all_cons, Prog.run_all_cons, Prog.run_all_cons, Prog.run_all_nil]
  generalize hx : (modSvc fun v => { v with usbHalt := 0 }).run s = x
  have hx3 : x.unitState 116 = 3 := by rw [← hx]; exact h
  have hxe : x.epoch 116 = s.epoch 116 := by rw [← hx]; rfl
  have hxs : x.dev.svc.usbHalt = 0 := by rw [← hx]; rfl
  have hxw : ∀ o, x.word o = s.word o := fun o => by rw [← hx]; rfl
  have hxm : x.mem = s.mem := by rw [← hx]; rfl
  have hxh : x.host = s.host := by rw [← hx]; rfl
  clear hx
  have hline := declareUnit_line 116 4 x
  obtain ⟨hst, hep⟩ := declareUnit_run_of_ne (s := x) (u := 116) (st := 4) (by rw [hx3]; decide) (by decide)
  generalize (declareUnit 116 4).run x = y at *
  have hlog := (logSvc_onlyLogs 0xC031 0 116 [s.fld F.USB_STATUS_HS]).onlyLogs y
  generalize (logSvc 0xC031 0 116 [s.fld F.USB_STATUS_HS]).run y = z at *
  have hlast : (when (s.dev.chuck.booting && s.dev.chuck.load.isNone && s.dev.chuck.sources.head? == some srcUsb)
      (modChuck fun c => { c with sourceAt := s.now })).Only (Act.obeys (.quiet [])) := by simp [modChuck]
  have hsvc : (when (s.dev.chuck.booting && s.dev.chuck.load.isNone && s.dev.chuck.sources.head? == some srcUsb)
      (modChuck fun c => { c with sourceAt := s.now })).Only (Act.keeps Dev.svc) := by simp [modChuck]
  obtain ⟨hregs, hb, hh⟩ := hlast.sameRegs_of_quiet z
  have hs := hsvc.keeps z
  generalize (when _ _).run z = u at *
  refine ⟨?_, ?_, ?_, fun o ho => ?_, fun a => ?_, fun a => ?_⟩
  · exact (State.fld_of_word (hregs _ (by simp))).trans ((hlog.fld (f := F.LEDG_UNIT_STATE 116) (by decide)).trans hst)
  · exact (State.fld_of_word (hregs _ (by simp))).trans ((hlog.fld (f := F.LEDG_UNIT_EPOCH 116) (by decide)).trans (hep.trans (by rw [hxe])))
  · rw [hs, hlog.dev, hline.dev]
    exact hxs
  · simp only [List.mem_cons, not_or] at ho
    rw [hregs o (by simp), hlog.regs o ho.2, hline.words o ho.1, hxw]
  · rw [hb, hlog.mem, hline.mem, hxm]
  · rw [hh, hlog.host, hline.host, hxh]

/-- A request that chapter 9 does not know. -/
theorem usbStandard_unknown {s : State} {r : UsbStd} (h : 12 < r.bRequest) : (usbStandard r).run s = usbStall.run s := by
  rw [usbStandard, Prog.run_look]
  dsimp only
  split
  any_goals omega
  rfl

theorem usbUnknown_stalls {s : State} {r : UsbStd} (he : s.ep0 = true) (h : 12 < r.bRequest) : Completes (.usbStandardRequest r) s fun u =>
      Out.stall .usb ∈ u.dev.out.drop s.dev.out.length ∧ u.dev.svc = s.dev.svc ∧ OnlyRegs s u catchRegs := by
  refine completes_done rfl ?_
  rw [ep0_run he, usbStandard_unknown h]
  obtain ⟨hstall, hsvc, -, hregs⟩ := usbStall_run s
  exact ⟨hstall, hsvc, hregs⟩

/-! ## The obligation -/

/-- Settles O52: one lemma for each request and event. -/
theorem usbRequestsAndStates : Obligations.UsbRequestsAndStates := by
  refine ⟨fun s hr he => ⟨fun _ _ _ h1 h2 ha hlt h => usbRegRead_words he h1 h2 ha hlt h, fun _ _ _ => usbRegRead_stalls he,
      fun _ _ hne hlen ha hc h => usbRegWrite_words hr he hne hlen ha hc h, fun _ _ => usbRegWrite_out he, fun _ _ => imgStart_begins he,
      fun _ _ hk hp => imgStart_refused he hk hp, fun _ _ _ => imgStart_stalls he, fun _ => imgAbort_completes he, usbLastResult_completes he⟩,
    fun s r d _ he => usbDescriptor_sent he, fun s r _ => usbAddress_set, fun s r _ => usbConfiguration_set, fun s r _ => usbUnknown_stalls,
    fun s => usbVbusApplied_completes, fun s hs _ => usbReset_bus, fun s hs _ => usbReset_lost, fun s => usbSuspend_completes,
    fun s => usbResume_completes⟩

end Sys2Proof.Machine
end

section
/-!
Frames of the SPI target (R526 to R532): O51.
-/
namespace Sys2Proof.Machine

/-! ## Counts with their catch records -/

/-- A count has been raised and its catch logged. -/
structure Tallied (s u : State) (f : Fld) : Prop where
  counted : Counted s u f
  dev : u.dev = { s.dev with log := u.dev.log, out := u.dev.out, marks := u.dev.marks }
  regs : OnlyRegs s u (f.off :: catchRegs)

theorem tally_run {p : Prog} (hp : p.Only Act.logs) (f : Fld) (hf : f.off ∉ catchRegs) (hw : f.lo + f.w ≤ 32) (s : State) :
    Tallied s ((all [incF f, p]).run s) f := by
  rw [Prog.run_all_cons, Prog.run_all_cons, Prog.run_all_nil]
  have hcount := Prog.fld_incF f s hw
  have hother : ∀ o, o ≠ f.off → ((incF f).run s).word o = s.word o := fun o ho => Prog.word_incF_other ho s
  have hdev : ((incF f).run s).dev = s.dev := rfl
  have hmem : ((incF f).run s).mem = s.mem := rfl
  have hhost : ((incF f).run s).host = s.host := rfl
  generalize (incF f).run s = x at *
  have hlog := hp.onlyLogs x
  generalize p.run x = u at *
  refine ⟨(hlog.fld hf).trans hcount, by rw [← hdev]; exact hlog.dev, fun o ho => ?_, fun a => by rw [hlog.mem, hmem],
    fun a => by rw [hlog.host, hhost]⟩
  obtain ⟨hne, hc⟩ := not_or.mp (List.mem_cons.not.mp ho)
  exact (hlog.regs o hc).trans (hother o hne)

/-! ## What a frame does -/

/-- A frame ends: the service's state says again what it said of frames before it. -/
def State.afterFrame (u : State) (b : Bool) : State := { u with dev := { u.dev with svc := { u.dev.svc with inFrame := b } } }

theorem spiFrame_run {s : State} (hp : s.dev.pwr.por = false) (hr : s.inRest = false) (q : Prog) :
    (spiFrame q).run s = (q.run s.inSpiFrame).afterFrame s.dev.svc.inFrame := by
  rw [spiFrame, Prog.run_look, hp, hr, Prog.run_when, if_pos (by rfl), Prog.run_all_cons, Prog.run_all_cons, Prog.run_all_cons, Prog.run_all_nil]
  rfl

theorem ready_inRest {s : State} (h : s.ready = true) : s.inRest = false := by
  rw [State.inRest, (ready_facts h).2.2]
  rfl

theorem spiFrame_run_ready {s : State} (h : s.ready = true) (q : Prog) :
    (spiFrame q).run s = (q.run s.inSpiFrame).afterFrame s.dev.svc.inFrame := spiFrame_run (ready_facts h).1 (ready_inRest h) q

theorem OnlyRegs.afterFrame {s u : State} {offs : List Nat} {b : Bool} (h : OnlyRegs s.inSpiFrame u offs) : OnlyRegs s (u.afterFrame b) offs :=
  ⟨h.regs, h.bytes, h.host⟩

theorem readStatus_completes {s : State} (hp : s.dev.pwr.por = false) : Completes (.readStatus false) s fun u =>
    u.dev.out = s.dev.out ++ [.reply .spi (toBytes 1 s.spiStatus)] ∧
      u.dev.svc = { s.dev.svc with rdMiss := false, partialFrame := false } ∧ OnlyRegs s u [] := by
  refine completes_done rfl ?_
  rw [readStatusFrame, Prog.run_look, hp, Prog.run_when, if_pos (by rfl), if_neg Bool.false_ne_true]
  exact ⟨rfl, rfl, fun _ _ => rfl, fun _ => rfl, fun _ => rfl⟩

/-! ## Reads -/

/-- The word at index `i` of a READ, as it goes out. -/
def State.spiSent (s : State) (late : List Nat) (a i : Nat) : List Byte :=
  toBytes 4 (if i ∈ late then 0xFFFFFFFF else s.readWord .spi (a + 4 * i))

theorem spiWords_run {s : State} (late : List Nat) (k : List Byte → Prog) {a n i : Nat} (ha : a % 4 = 0) (hlt : a + 4 * (i + n) ≤ 0x4000000)
    (h : ∀ j, j < i + n → s.plainAt (a + 4 * j)) (bs : List Byte) :
    (spiWords late n i (a + 4 * i) bs k).run s = (k (bs ++ (List.range n).flatMap fun j => s.spiSent late a (i + j))).run s := by
  induction n generalizing i bs with
  | zero => rw [spiWords, List.range_zero, List.flatMap_nil, List.append_nil]
  | succ n ih =>
    have hplain := h i (by omega)
    have hnext : a + 4 * i + 4 = a + 4 * (i + 1) := by omega
    have hshift : ∀ j, i + 1 + j = i + (j + 1) := fun j => by omega
    have ih' := fun bs => ih (i := i + 1) (by omega) (fun j hj => h j (by omega)) bs
    simp only [hshift] at ih'
    have hsent : s.spiSent late a (i + 0) = s.spiSent late a i := rfl
    rw [spiWords, flatMap_range_succ, hsent, ← List.append_assoc, ← ih', hnext]
    by_cases hi : i ∈ late
    · rw [if_pos (by simpa using hi), State.spiSent, if_pos hi]
    · rw [if_neg (by simpa using hi), if_pos (addrOk_of_lt (by omega) (by omega)), Prog.run_all_cons, Prog.run_all_cons, Prog.run_all_nil,
        fetchFor_run_other hplain.2.2, Prog.run_look, Prog.run_all_cons, Prog.run_all_cons, Prog.run_all_nil,
        readEffect_run_plain (fun _ h => by cases h) hplain, State.spiSent, if_neg hi]

/-- A word that was late is noted and logged. -/
def noteMiss (missed : Bool) : Prog := when missed (all [modSvc fun v => { v with rdMiss := true }, logSvc 0xC022 0 115 []])

/-- What the tail of a READ leaves of the frame. -/
structure Missed (x u : State) (missed : Bool) : Prop where
  sent : x.dev.out <+: u.dev.out
  quiet : missed = false → u = x
  svc : u.dev.svc = { x.dev.svc with rdMiss := x.dev.svc.rdMiss || missed }
  regs : OnlyRegs x u catchRegs

theorem noteMiss_run (missed : Bool) (x : State) : Missed x ((noteMiss missed).run x) missed := by
  cases missed with
  | false =>
    refine ⟨List.prefix_refl _, fun _ => rfl, ?_, ⟨fun _ _ => rfl, fun _ => rfl, fun _ => rfl⟩⟩
    show x.dev.svc = _
    rw [Bool.or_false]
  | true =>
    rw [noteMiss, Prog.run_when, if_pos rfl, Prog.run_all_cons, Prog.run_all_cons, Prog.run_all_nil]
    generalize hy : (modSvc _).run x = y
    have hout : y.dev.out = x.dev.out := by rw [← hy]; rfl
    have hsvc : y.dev.svc = { x.dev.svc with rdMiss := true } := by rw [← hy]; rfl
    have hword : ∀ o, y.word o = x.word o := fun o => by rw [← hy]; rfl
    have hmem : y.mem = x.mem := by rw [← hy]; rfl
    have hhost : y.host = x.host := by rw [← hy]; rfl
    clear hy
    have hlog := (logSvc_onlyLogs 0xC022 0 115 []).onlyLogs y
    have hsent := (logSvc_keepsSent 0xC022 0 115 []).sent y
    generalize (logSvc 0xC022 0 115 []).run y = u at *
    refine ⟨by rwa [hout] at hsent, (by cases ·), ?_, ⟨fun o ho => (hlog.regs o ho).trans (hword o),
      fun a => by rw [hlog.mem, hmem], fun a => by rw [hlog.host, hhost]⟩⟩
    rw [hlog.dev, Bool.or_true]
    exact hsvc

theorem spiRead_completes {s : State} {addr count sent : Nat} {late : List Nat} (hr : s.ready = true) (h1 : 1 ≤ count) (h64 : count ≤ 64)
    (ha : addr % 4 = 0) (hlt : addr + 4 * count ≤ 0x4000000) (h : ∀ i, i < count → s.plainAt (addr + 4 * i)) :
    Completes (.spiRead addr count sent late false) s fun u =>
      (∃ l, u.dev.out = s.dev.out ++ .reply .spi ((List.range (min count sent)).flatMap fun i =>
        toBytes 4 (if i ∈ late then 0xFFFFFFFF else s.inSpiFrame.readWord .spi (addr + 4 * i))) :: l ∧
        ((∀ i ∈ late, min count sent ≤ i) → l = [])) ∧
      u.dev.svc.rdMiss = (s.dev.svc.rdMiss || late.any fun i => decide (i < min count sent)) ∧ OnlyRegs s u catchRegs := by
  refine completes_done rfl ?_
  have hin : ∀ j, j < 0 + min count sent → s.inSpiFrame.plainAt (addr + 4 * j) := fun j hj => h j (by omega)
  have hwords := spiWords_run (s := s.inSpiFrame) late (fun bs => emitOut (.reply .spi bs)) (n := min count sent) (i := 0) ha (by omega) hin []
  rw [Nat.mul_zero, Nat.add_zero, List.nil_append] at hwords
  simp only [Nat.zero_add] at hwords
  have hany : (late.any fun i => i < min count sent || (false && i == min count sent && decide (min count sent < count))) =
      late.any fun i => decide (i < min count sent) := by simp
  rw [spiFrame_run_ready hr, spiReadProg, if_neg (by simp; omega)]
  dsimp only
  rw [Prog.run_all_cons, Prog.run_all_cons, Prog.run_all_cons, Prog.run_all_cons, Prog.run_all_nil, hwords, rangeStatus_in ha hlt, hany]
  generalize hx : (emitOut _).run s.inSpiFrame = x
  have hout : x.dev.out = s.dev.out ++ [.reply .spi ((List.range (min count sent)).flatMap (s.inSpiFrame.spiSent late addr))] := by rw [← hx]; rfl
  have hsvc : x.dev.svc = s.inSpiFrame.dev.svc := by rw [← hx]; rfl
  have hreg : ∀ o, x.word o = s.word o := fun o => by rw [← hx]; rfl
  have hmem : x.mem = s.mem := by rw [← hx]; rfl
  have hhost : x.host = s.host := by rw [← hx]; rfl
  have hmiss := noteMiss_run (late.any fun i => decide (i < min count sent)) x
  rw [show when _ (all [modSvc fun v => { v with rdMiss := true }, logSvc 0xC022 0 115 []]) =
    noteMiss (late.any fun i => decide (i < min count sent)) from rfl]
  generalize hm : (late.any fun i => decide (i < min count sent)) = m at *
  generalize (noteMiss m).run x = u at *
  obtain ⟨⟨l, hl⟩, hquiet, husvc, huregs⟩ := hmiss
  refine ⟨⟨l, ?_, fun hnone => ?_⟩, ?_, fun o ho => (huregs.regs o ho).trans (hreg o), fun a => (huregs.bytes a).trans (by rw [hmem]),
    fun a => (huregs.host a).trans (by rw [hhost])⟩
  · show u.dev.out = _
    rw [← hl, hout, List.append_assoc]
    rfl
  · have hm' : m = false := by
      rw [← hm, List.any_eq_false]
      exact fun i hi => by simpa using Nat.not_lt.mpr (hnone i hi)
    rw [hquiet hm'] at hl
    exact List.append_right_eq_self.mp hl
  · show u.dev.svc.rdMiss = _
    rw [husvc, hsvc]
    rfl

/-! ## Writes -/

/-- An outcome has been recorded for the SPI target. -/
structure SpiRecorded (t u : State) (cmd status : Nat) : Prop where
  cmd : u.fld F.SPIT_LAST_RESULT_CMD = cmd % 256
  status : u.fld F.SPIT_LAST_RESULT_STATUS = status % 256
  dev : u.dev = t.dev
  words : ∀ o, o ≠ F.SPIT_LAST_RESULT_CMD.off → u.word o = t.word o
  mem : u.mem = t.mem
  host : u.host = t.host

theorem recordSpi_run (cmd status epoch : Nat) (t : State) : SpiRecorded t ((recordSpi cmd status epoch).run t) cmd status := by
  have hw : (recordSpi cmd status epoch).Only (Act.writes F.SPIT_LAST_RESULT_CMD.off) := ⟨fun _ => rfl, fun _ => rfl, fun _ => rfl, trivial⟩
  obtain ⟨hd, -, -, hregs⟩ := hw.onlyReg t
  refine ⟨?_, ?_, hd, fun o ho => hregs o (by simpa using ho), rfl, rfl⟩ <;>
    rw [recordSpi, Prog.run_all_cons, Prog.run_all_cons, Prog.run_all_cons, Prog.run_all_nil,
      Prog.fld_setF_other F.SPIT_LAST_RESULT_EPOCH _ _ _ (by decide) (by decide)]
  · rw [Prog.fld_setF_other F.SPIT_LAST_RESULT_STATUS F.SPIT_LAST_RESULT_CMD _ _ (by decide) (by decide), Prog.fld_setF_same _ _ _ (by decide)]
    rfl
  · rw [Prog.fld_setF_same _ _ _ (by decide)]
    rfl

theorem spiWrite_completes {s : State} {addr count : Nat} {words : List Word} (hr : s.ready = true) (h64 : count ≤ 64) (hne : words ≠ [])
    (hlen : words.length ≤ count) (ha : addr % 4 = 0) (hc : s.dev.ledg.cycle = [])
    (h : ∀ i, i < words.length → addr + 4 * i < 0x10000 ∧ RegMap.fields (addr + 4 * i) ≠ []) :
    Completes (.spiWrite addr count words false) s fun u =>
      (∀ i, i < words.length → ∀ f ∈ RegMap.fields (addr + 4 * i), bitsOf (u.word (addr + 4 * i)).toNat f.lo f.w =
        if f.acc = .rw then bitsOf (words.getD i 0).toNat f.lo f.w else bitsOf (s.word (addr + 4 * i)).toNat f.lo f.w) ∧
      u.fld F.SPIT_LAST_RESULT_CMD = 2 ∧ u.fld F.SPIT_LAST_RESULT_STATUS = 0 ∧ u.dev.svc = s.dev.svc ∧
      OnlyRegs s u (F.SPIT_LAST_RESULT_CMD.off :: (List.range words.length).map fun i => addr + 4 * i) := by
  have hpos := List.length_pos_iff.mpr hne
  have hlast := (h (words.length - 1) (by omega)).1
  refine completes_done rfl ?_
  obtain ⟨w, ws, hws⟩ : ∃ w ws, words.map BitVec.toNat = w :: ws := by
    cases words with
    | nil => exact absurd rfl hne
    | cons w ws => exact ⟨_, _, rfl⟩
  have hlw : (w :: ws).length = words.length := by rw [← hws, List.length_map]
  obtain ⟨t, hrun, hgen, hbeside⟩ := writeWords_gen (g := fun d => (d.pwr, d.svc)) (other := (· = F.SPIT_LAST_RESULT_CMD.off)) (p := .spi)
    (rec := recordSpi 0x02) (fun _ _ => rfl) (fun _ _ h => congrArg Prod.fst h) (fun o h => by subst h; decide)
    (by simp [recordSpi]) (.inr (.inr rfl)) w ws (s := s.inSpiFrame) ha
    (fun i hi => ⟨State.reach_gen (.inr (.inl rfl)) hr (h i (hlw ▸ hi)).1, h i (hlw ▸ hi)⟩) hc
  rw [spiFrame_run_ready hr, spiWriteProg, if_neg (by simp; omega), List.take_of_length_le hlen, hws]
  dsimp only
  rw [Prog.run_all_cons, Prog.run_all_cons, Prog.run_all_cons, Prog.run_all_nil, hrun, hlw, rangeStatus_in ha (by omega)]
  rw [show when (!(w :: ws).isEmpty && (0 : Nat) != 0) (logSvc 0xC021 0 115 []) = when false (logSvc 0xC021 0 115 []) from rfl,
    show when (false && decide (words.length < count)) spiPartial = when false spiPartial from rfl, Prog.run_when, if_neg Bool.false_ne_true,
    Prog.run_when, if_neg Bool.false_ne_true]
  have hrec := recordSpi_run 2 0 0 t
  generalize (recordSpi 2 0 0).run t = u at *
  have hsvc : t.dev.svc = s.inSpiFrame.dev.svc := congrArg Prod.snd hbeside
  have hout : ∀ i, i < words.length → addr + 4 * i ≠ F.SPIT_LAST_RESULT_CMD.off := fun i hi => by
    have := (h i hi).1
    show addr + 4 * i ≠ 0x45000C
    omega
  refine ⟨fun i hi f hf => ?_, hrec.cmd, hrec.status, ?_, fun o ho => ?_, fun a => ?_, fun a => ?_⟩
  · have hi' := hgen.fields i (hlw ▸ hi) f hf
    have hget : (w :: ws).getD i 0 = (words.getD i 0).toNat := by
      rw [← hws, List.getD_eq_getElem?_getD, List.getElem?_map, List.getD_eq_getElem?_getD]
      cases words[i]? <;> rfl
    rw [hget] at hi'
    show bitsOf (u.word (addr + 4 * i)).toNat f.lo f.w = _
    rw [hrec.words _ (hout i hi)]
    exact hi'
  · show { u.dev.svc with inFrame := s.dev.svc.inFrame } = s.dev.svc
    rw [hrec.dev, hsvc]
    rfl
  · obtain ⟨hne, hmem⟩ := not_or.mp (List.mem_cons.not.mp ho)
    refine (hrec.words o hne).trans (hgen.words o hne fun i hi => ?_)
    rintro rfl
    exact hmem (List.mem_map.mpr ⟨i, List.mem_range.mpr (hlw ▸ hi), rfl⟩)
  · show u.mem.read a = _
    rw [hrec.mem, hgen.mem]
    rfl
  · show u.host.read a = _
    rw [hrec.host, hgen.host]
    rfl

theorem writeWords_one {p : Path} (rec : Nat → Nat → Prog) {w a : Nat} {s t : State}
    (ht : (all [startWrite p.osrc, serviceWrite p a w []]).run s = t) :
    (writeWords p rec [w] a 0).run s = (rec t.dev.ledg.lastStatus t.dev.ledg.lastEpoch).run t := by
  rw [Prog.run_all_cons, Prog.run_all_cons, Prog.run_all_nil] at ht
  rw [writeWords, Prog.run_all_cons, Prog.run_all_cons, Prog.run_all_cons, Prog.run_all_nil, Prog.run_look, ht, Prog.run_all_cons,
    Prog.run_all_cons, Prog.run_all_nil, Prog.run_when, if_pos (by rfl), writeWords]
  rfl

theorem spiWrite_out {s : State} {addr count : Nat} {v : Word} (hr : s.ready = true) (h1 : 1 ≤ count) (h64 : count ≤ 64)
    (ha : 0x4000000 ≤ addr) (hc : s.dev.ledg.cycle = []) :
    Completes (.spiWrite addr count [v] false) s fun u => u.fld F.SPIT_LAST_RESULT_STATUS = 3 ∧
      OnlyRegs s u (F.SPIT_LAST_RESULT_CMD.off :: catchRegs) := by
  refine completes_done rfl ?_
  have hws : ([v].take count).map BitVec.toNat = [v.toNat] := by rw [List.take_of_length_le (by simpa using h1)]; rfl
  have hwrite := serviceWrite_out (s := s.inSpiFrame) (p := .spi) (w := v.toNat) ha hc
  rw [spiFrame_run_ready hr, spiWriteProg, if_neg (by simp; omega), hws]
  dsimp only
  rw [Prog.run_all_cons, Prog.run_all_cons, Prog.run_all_cons, Prog.run_all_nil, writeWords_one _ hwrite,
    show when (false && decide ([v.toNat].length < count)) spiPartial = when false spiPartial from rfl, Prog.run_when false,
    if_neg Bool.false_ne_true, rangeStatus_out (n := [v.toNat].length) Nat.one_pos ha, Prog.run_when, if_pos (by rfl)]
  have hrec := recordSpi_run 2 3 0 (s.inSpiFrame.withLedger { s.inSpiFrame.dev.ledg with lastSrc := Path.spi.osrc, lastStatus := 3, lastEpoch := 0 })
  rw [show ∀ l : Ledger, (recordSpi 2 (s.inSpiFrame.withLedger { l with lastSrc := Path.spi.osrc, lastStatus := 3, lastEpoch := 0 }).dev.ledg.lastStatus
    (s.inSpiFrame.withLedger { l with lastSrc := Path.spi.osrc, lastStatus := 3, lastEpoch := 0 }).dev.ledg.lastEpoch) = recordSpi 2 3 0
    from fun _ => rfl]
  generalize (recordSpi 2 3 0).run _ = x at *
  have hlog := (logSvc_onlyLogs 0xC021 0 115 []).onlyLogs x
  generalize (logSvc 0xC021 0 115 []).run x = u at *
  refine ⟨(hlog.fld (by decide)).trans hrec.status, fun o ho => ?_, fun a => ?_, fun a => ?_⟩
  · obtain ⟨hne, hcatch⟩ := not_or.mp (List.mem_cons.not.mp ho)
    exact (hlog.regs o hcatch).trans (hrec.words o hne)
  · show u.mem.read a = _
    rw [hlog.mem, hrec.mem]
    rfl
  · show u.host.read a = _
    rw [hlog.host, hrec.host]
    rfl

/-! ## Frames that are cut or bad -/

theorem spiWrite_cut {s : State} {addr count : Nat} (hr : s.ready = true) (h2 : 2 ≤ count) (h64 : count ≤ 64) :
    Completes (.spiWrite addr count [] true) s fun u => Counted s u F.SPIT_PARTIALS ∧ u.dev.svc.partialFrame = true ∧
      OnlyRegs s u (F.SPIT_PARTIALS.off :: catchRegs) := by
  refine completes_done rfl ?_
  have hrun : (spiWriteProg addr count [] true).run s.inSpiFrame = spiPartial.run s.inSpiFrame := by
    rw [spiWriteProg, if_neg (by simp; omega), List.take_nil]
    dsimp only [List.map_nil, List.length_nil]
    rw [Prog.run_all_cons, Prog.run_all_cons, Prog.run_all_cons, Prog.run_all_nil, Prog.run_when (true && _),
      if_pos (by simp; omega)]
    rfl
  rw [spiFrame_run_ready hr, hrun, spiPartial, Prog.run_all_cons]
  generalize hx : (modSvc _).run s.inSpiFrame = x
  have hpart : x.dev.svc.partialFrame = true := by rw [← hx]; rfl
  have hword : ∀ o, x.word o = s.word o := fun o => by rw [← hx]; rfl
  have hmem : x.mem = s.mem := by rw [← hx]; rfl
  have hhost : x.host = s.host := by rw [← hx]; rfl
  clear hx
  have h := tally_run (logSvc_onlyLogs 0xC020 0 115 []) F.SPIT_PARTIALS (by decide) (by decide) x
  generalize (all [incF F.SPIT_PARTIALS, logSvc 0xC020 0 115 []]).run x = u at *
  refine ⟨?_, ?_, fun o ho => (h.regs.regs o ho).trans (hword o), fun a => (h.regs.bytes a).trans (by rw [hmem]),
    fun a => (h.regs.host a).trans (by rw [hhost])⟩
  · have hc := h.counted
    rw [Counted, State.fld_of_word (hword _)] at hc
    exact hc
  · show u.dev.svc.partialFrame = true
    rw [h.dev]
    exact hpart

theorem spiBad_run {s : State} (hr : s.ready = true) : Counted s ((spiFrame spiBad).run s) F.SPIT_BAD_FRAMES ∧
    OnlyRegs s ((spiFrame spiBad).run s) (F.SPIT_BAD_FRAMES.off :: catchRegs) := by
  rw [spiFrame_run_ready hr]
  have h := tally_run (logSvc_onlyLogs 0xC021 0 115 []) F.SPIT_BAD_FRAMES (by decide) (by decide) s.inSpiFrame
  exact ⟨h.counted, h.regs.afterFrame⟩

theorem spiBad_completes {s : State} {addr count sent : Nat} {late : List Nat} {words : List Word} {cut : Bool} (hr : s.ready = true)
    (hn : count = 0 ∨ 64 < count) :
    ∀ c ∈ [Instr.spiRead addr count sent late cut, .spiWrite addr count words cut, .spitBadFrame],
    Completes c s fun u => Counted s u F.SPIT_BAD_FRAMES ∧ OnlyRegs s u (F.SPIT_BAD_FRAMES.off :: catchRegs) := by
  have hcount : (decide (count = 0) || decide (64 < count)) = true := by simpa using hn
  intro c hc
  simp only [List.mem_cons, List.not_mem_nil, or_false] at hc
  rcases hc with rfl | rfl | rfl
  · refine completes_done rfl ?_
    rw [spiReadProg, if_pos hcount]
    exact spiBad_run hr
  · refine completes_done rfl ?_
    rw [spiWriteProg, if_pos hcount]
    exact spiBad_run hr
  · exact completes_done rfl (spiBad_run hr)

/-! ## Image words -/

theorem imgStream_completes {s : State} {words : List Word} {l : Load} (hr : s.ready = true) (hne : words ≠ []) (hl : s.dev.chuck.load = some l)
    (hs : l.src = 4) (hc : s.fld F.IMG_STATUS_CHUCK = 1) (hn : l.complete = false) : Completes (.imgStream words false) s fun u =>
      u.dev.chuck = { s.dev.chuck with load := some { l with bytes := l.got (words.flatMap fun w => toBytes 4 w.toNat), lastData := s.now } } ∧
      u.fld F.IMG_DONE = (l.got (words.flatMap fun w => toBytes 4 w.toNat)).length % 2 ^ F.IMG_DONE.w ∧ OnlyRegs s u [F.IMG_DONE.off] := by
  have hopen : s.inSpiFrame.spiOpen = true := by
    have hc' : s.inSpiFrame.fld F.IMG_STATUS_CHUCK = 1 := hc
    have hl' : s.inSpiFrame.dev.chuck.load = some l := hl
    simp [State.spiOpen, hl', hs, hc', hn, srcSpi]
  have hl' : s.inSpiFrame.dev.chuck.load = some l := hl
  have hwords : words.isEmpty = false := by simpa using hne
  refine completes_done rfl ?_
  rw [spiFrame_run_ready hr, imgStreamProg, Prog.run_all_cons, Prog.run_all_cons, Prog.run_all_nil, Prog.run_look, hopen, hwords,
    Prog.run_when false, if_neg Bool.false_ne_true, Prog.run_when (true && _), if_pos (by rfl), Prog.run_all_cons, Prog.run_all_cons, Prog.run_all_nil, hl', Prog.run_when, if_neg (by simp),
    loadBytes_run hl']
  refine ⟨rfl, Prog.fld_setF_same F.IMG_DONE _ _ (by decide), fun o ho => ?_, fun _ => rfl, fun _ => rfl⟩
  exact (Prog.only_setF fun _ e => ho (by simp [← e]) : (setF F.IMG_DONE _).Only (Act.sparesReg o)).word _

theorem imgStream_closed {s : State} {words : List Word} (hn : s.spiOpen = false) : Completes (.imgStream words false) s fun u => u = s := by
  refine completes_done rfl ?_
  by_cases h : (!s.dev.pwr.por && !s.inRest) = true
  · obtain ⟨hp, hr⟩ : s.dev.pwr.por = false ∧ s.inRest = false := by simpa using h
    have hn' : s.inSpiFrame.spiOpen = false := hn
    rw [spiFrame_run hp hr, imgStreamProg, Prog.run_all_cons, Prog.run_all_cons, Prog.run_all_nil, Prog.run_look, hn', Bool.false_and,
      Prog.run_when, if_neg Bool.false_ne_true, Prog.run_when, if_neg Bool.false_ne_true]
    rfl
  · rw [spiFrame, Prog.run_look, Prog.run_when, if_neg h]

/-! ## Waking -/

/-- A wake from REST is taken: the device is on its way out of REST. -/
structure WokenUp (s u : State) (code : Nat) : Prop where
  state : u.devState = 4
  source : u.fld F.PCK_STATUS_WAKESRC = code
  dev : u.dev = { s.dev with ledg := u.dev.ledg, pwr := u.dev.pwr }
  core : u.dev.pwr.pins.coreEn = true
  por : u.dev.pwr.por = s.dev.pwr.por
  held : u.heldReset = s.heldReset
  cycle : u.dev.ledg.cycle = s.dev.ledg.cycle
  regs : OnlyRegs s u [F.PCK_STATUS_DEV.off]

theorem verdict_wake {s : State} (hp : s.dev.pwr.por = false) (hh : s.heldReset = false) (w : WakeSrc) : s.verdict (wakeOrder w) = vOk := by
  have hk : (wakeOrder w).known = true := rfl
  have hi : (wakeOrder w).inRange = true := rfl
  have hn : ((wakeOrder w).kind != kWake) = false := rfl
  rw [State.verdict, hk, hi, hp, hh, hn, Bool.and_false, Bool.false_and]
  rfl

/-- The order of a wake is answered in no register. -/
theorem answer_wake (w : WakeSrc) (unit : Nat) (s : State) : (answer (wakeOrder w) unit 0).run s =
    s.withLedger ((answer (wakeOrder w) unit 0).run s).dev.ledg ∧
    ((answer (wakeOrder w) unit 0).run s).dev.ledg.cycle = s.dev.ledg.cycle := by
  rw [answer, Prog.run_look, Prog.run_all_cons, Prog.run_all_cons, Prog.run_all_nil]
  refine ⟨rfl, ?_⟩
  show (if _ then _ else _ : Ledger).cycle = _
  split <;> rfl

theorem wake_inRest {s : State} (hp : s.dev.pwr.por = false) (hh : s.heldReset = false) (hr : s.inRest = true) (w : WakeSrc) :
    WokenUp s ((orderCycle [wakeOrder w]).run s) (wakeCode w) := by
  rw [orderCycle_one hp, decideOrder_accepted (verdict_wake hp hh w)]
  obtain ⟨hans, hcyc⟩ := answer_wake w (s.orderUnit (wakeOrder w)) ((acceptOrder (wakeOrder w)).run s)
  have hacc : (acceptOrder (wakeOrder w)).run s = (startWakeUp (wakeCode w)).run s := by
    rw [acceptOrder, Prog.run_look]
    show (acceptWake (wakeCode w)).run s = _
    rw [acceptWake, Prog.run_look, hr, if_pos rfl]
  rw [hacc] at hans hcyc ⊢
  generalize hx : (startWakeUp (wakeCode w)).run s = x at *
  have hcode : wakeCode w < 16 := by cases w <;> decide
  have hdev : x.dev = { s.dev with pwr := x.dev.pwr } := by rw [← hx]; rfl
  have hcore : x.dev.pwr.pins.coreEn = true := by rw [← hx]; rfl
  have hpor : x.dev.pwr.por = s.dev.pwr.por := by rw [← hx]; rfl
  have hheld : x.heldReset = s.heldReset := by rw [← hx]; rfl
  have hmem : x.mem = s.mem := by rw [← hx]; rfl
  have hhost : x.host = s.host := by rw [← hx]; rfl
  have hword : ∀ o, o ≠ F.PCK_STATUS_DEV.off → x.word o = s.word o := fun o ho => by
    have hsp : (startWakeUp (wakeCode w)).Only (Act.sparesReg o) := fun _ =>
      ⟨Prog.only_setF fun _ e => ho e.symm, Prog.only_setF fun _ e => ho e.symm, trivial, trivial, trivial⟩
    rw [← hx]
    exact hsp.word s
  have hstate : x.fld F.PCK_STATUS_DEV = 4 := by
    rw [← hx, startWakeUp, Prog.run_look]
    iterate 4 rw [Prog.run_all_cons]
    show ((setF F.PCK_STATUS_WAKESRC _).run _).fld F.PCK_STATUS_DEV = 4
    rw [Prog.fld_setF_other F.PCK_STATUS_WAKESRC F.PCK_STATUS_DEV _ _ (by decide) (by decide), Prog.fld_setF_same _ _ _ (by decide)]
    rfl
  have hsource : x.fld F.PCK_STATUS_WAKESRC = wakeCode w := by
    rw [← hx, startWakeUp, Prog.run_look]
    iterate 4 rw [Prog.run_all_cons]
    show ((setF F.PCK_STATUS_WAKESRC _).run _).fld F.PCK_STATUS_WAKESRC = _
    rw [Prog.fld_setF_same _ _ _ (by decide)]
    exact Nat.mod_eq_of_lt hcode
  generalize ((answer (wakeOrder w) (s.orderUnit (wakeOrder w)) 0).run x).dev.ledg = l at *
  rw [hans]
  refine ⟨hstate, hsource, ?_, hcore, hpor, hheld, hcyc.trans (by rw [hdev]), fun o ho => hword o (by simpa using ho),
    fun a => congrArg (·.read a) hmem, fun a => congrArg (·.read a) hhost⟩
  show ({ x.dev with ledg := l } : Dev) = { s.dev with ledg := l, pwr := x.dev.pwr }
  rw [hdev]

/-- A wake of a device that works leaves nothing but the ledger's answer. -/
theorem wake_ready {s : State} (hr : s.ready = true) (w : WakeSrc) : ∃ l : Ledger, (orderCycle [wakeOrder w]).run s = s.withLedger l ∧
    l.cycle = s.dev.ledg.cycle := by
  obtain ⟨hp, hh, hd⟩ := ready_facts hr
  rw [orderCycle_one hp, decideOrder_accepted (verdict_wake hp hh w)]
  have hacc : (acceptOrder (wakeOrder w)).run s = s := by
    rw [acceptOrder, Prog.run_look]
    show (acceptWake (wakeCode w)).run s = _
    rw [acceptWake, Prog.run_look, ready_inRest hr, hd]
    rfl
  rw [hacc]
  exact ⟨_, answer_wake w _ s⟩

theorem spiWake_inRest {s : State} (hp : s.dev.pwr.por = false) (hh : s.heldReset = false) (hr : s.inRest = true) :
    Completes .spiWake s fun u => u.devState = 4 ∧ u.fld F.PCK_STATUS_WAKESRC = 2 ∧ u.dev.pwr.pins.coreEn = true ∧
      OnlyRegs s u [F.PCK_STATUS_DEV.off] := by
  refine completes_done rfl ?_
  rw [hp, Prog.run_when, if_pos (by rfl)]
  have h := wake_inRest hp hh hr .spi
  exact ⟨h.state, h.source, h.core, h.regs⟩

theorem spiWake_ready {s : State} (hr : s.ready = true) :
    Completes .spiWake s fun u => u.regs = s.regs ∧ u.dev.pwr = s.dev.pwr ∧ OnlyRegs s u [] := by
  refine completes_done rfl ?_
  rw [(ready_facts hr).1, Prog.run_when, if_pos (by rfl)]
  obtain ⟨l, hl, -⟩ := wake_ready hr .spi
  rw [hl]
  exact ⟨rfl, rfl, fun _ _ => rfl, fun _ => rfl, fun _ => rfl⟩

/-! ## Opening a load -/

/-- Whether a load may begin depends on the device's parts, on IMG_STATUS and on the partitions' lines. -/
theorem State.mayLoad_congr {s x : State} (hd : x.dev = s.dev) (hc : x.fld F.IMG_STATUS_CHUCK = s.fld F.IMG_STATUS_CHUCK)
    (hu : ∀ q < 8, x.fld (F.LEDG_UNIT_STATE (32 + q)) = s.fld (F.LEDG_UNIT_STATE (32 + q))) {kind part src : Nat} (hp : part < 8) :
    x.mayLoad kind part src = s.mayLoad kind part src := by
  have hon : ∀ q < 8, x.partOn q = s.partOn q := fun q hq => congrArg (· != 0) (hu q hq)
  have hm : x.enabledMask = s.enabledMask :=
    congrArg maskOf (List.filter_congr fun q hq => hon q (List.mem_range.mp hq))
  have hpart : x.part part = s.part part := by rw [State.part, State.part, hd]
  have hload : x.loadState kind part = s.loadState kind part := by
    unfold State.loadState
    rw [hm, hon part hp, hpart]
  unfold State.mayLoad
  rw [hload, hd, hc]

/-- The control register of image loads from the SPI target has been written, and OPEN reads 0. -/
structure OpenWritten (s x : State) : Prop where
  dev : x.dev = s.dev
  words : ∀ o, o ≠ 0x450008 → x.word o = s.word o
  opened : x.fld F.SPIT_IMG_CTL_OPEN = 0
  mem : x.mem = s.mem
  host : x.host = s.host

theorem OpenWritten.mayLoad {s x : State} (h : OpenWritten s x) {kind part src : Nat} (hp : part < 8) :
    x.mayLoad kind part src = s.mayLoad kind part src :=
  State.mayLoad_congr h.dev (State.fld_of_word (h.words _ (by decide)))
    (fun q hq => State.fld_of_word (h.words _ (by show 0x40100 + 4 * (32 + q) ≠ 0x450008; omega))) hp

theorem spitImgOpen_run {s : State} {p : Path} (hr : s.reach p F.SPIT_IMG_CTL_OPEN.off = true) (v : Word) :
    ∃ x, OpenWritten s x ∧
      exec (.spitImgOpen p v) s = .next ((requestLoad (bitsOf v.toNat 2 2) (bitsOf v.toNat 4 3) 4 0).run x) := by
  generalize hw : setBits v.toNat 0 1 1 = w
  have h0 : bitsOf w 0 1 = 1 := by
    rw [← hw, bitsOf_setBits_same]
    rfl
  have h2 : bitsOf w 2 2 = bitsOf v.toNat 2 2 := by rw [← hw, bitsOf_setBits_other _ _ _ _ _ _ (by decide)]
  have h4 : bitsOf w 4 3 = bitsOf v.toNat 4 3 := by rw [← hw, bitsOf_setBits_other _ _ _ _ _ _ (by decide)]
  have hwr : (all [writeFields F.SPIT_IMG_CTL_OPEN.off w, setF F.SPIT_IMG_CTL_OPEN 0]).Only (Act.writes F.SPIT_IMG_CTL_OPEN.off) :=
    ⟨fun _ => rfl, fun _ => rfl, trivial⟩
  obtain ⟨hd, -, -, hregs⟩ := hwr.onlyReg s
  refine ⟨(all [writeFields F.SPIT_IMG_CTL_OPEN.off w, setF F.SPIT_IMG_CTL_OPEN 0]).run s,
    ⟨hd, fun o ho => hregs o (by simpa using ho), Prog.fld_setF_same F.SPIT_IMG_CTL_OPEN 0 _ (by decide), rfl, rfl⟩, ?_⟩
  show done (writing p F.SPIT_IMG_CTL_OPEN.off (writeImgOpen (setBits v.toNat 0 1 1))) s = _
  rw [hw, done_eq, writing_run_of_reach hr (by decide), writeImgOpen, h0, h2, h4]
  iterate 3 rw [Prog.run_all_cons]
  rw [Prog.run_all_nil, Prog.run_when, if_pos (by rfl), Prog.run_all_cons, Prog.run_all_cons, Prog.run_all_nil]
  rfl

theorem spitImgOpen_begins {s : State} {p : Path} {v : Word} (hr : s.reach p F.SPIT_IMG_CTL_OPEN.off = true)
    (hm : s.mayLoad (bitsOf v.toNat 2 2) (bitsOf v.toNat 4 3) 4 = true) :
    Completes (.spitImgOpen p v) s fun u => u.fld F.IMG_STATUS_CHUCK = 1 ∧ u.fld F.IMG_STATUS_SRC = 4 ∧ u.fld F.SPIT_IMG_CTL_OPEN = 0 ∧
      u.dev.chuck.load = some { kind := bitsOf v.toNat 2 2, part := bitsOf v.toNat 4 3, src := 4, boot := s.dev.chuck.booting, lastData := s.now } ∧
      SameBytes s u ∧ SameHost s u := by
  obtain ⟨x, hx, he⟩ := spitImgOpen_run hr v
  have hp := bitsOf_lt v.toNat 4 3
  refine ⟨_, he, ?_⟩
  rw [requestLoad, Prog.run_look, if_pos ((hx.mayLoad hp).trans hm)]
  have h := beginLoad_run (src := 4) hp (by decide) (bitsOf v.toNat 2 2) 0 x
  have hword : ((beginLoad (bitsOf v.toNat 2 2) (bitsOf v.toNat 4 3) 4 0).run x).word 0x450008 = x.word 0x450008 := by
    have hne : 0xC0080 + 4 * bitsOf v.toNat 4 3 ≠ 0x450008 := by omega
    refine Prog.Only.word (off := 0x450008) (fun _ => ⟨Prog.only_when.mpr fun _ => ⟨trivial, Prog.only_setF fun _ e => hne e, trivial⟩, trivial, ?_⟩) x
    exact ⟨Prog.only_setF fun _ e => absurd e (by decide), Prog.only_setF fun _ e => absurd e (by decide),
      Prog.only_setF fun _ e => absurd e (by decide), trivial⟩
  refine ⟨h.chuck, h.source, (State.fld_of_word hword).trans hx.opened, ?_, fun a => (h.bytes a).trans (by rw [hx.mem]),
    fun a => (h.host a).trans (by rw [hx.host])⟩
  rw [h.load, State.now, hx.dev]
  rfl

theorem spitImgOpen_refused {s : State} {p : Path} {v : Word} (hr : s.reach p F.SPIT_IMG_CTL_OPEN.off = true)
    (hm : s.mayLoad (bitsOf v.toNat 2 2) (bitsOf v.toNat 4 3) 4 = false) :
    Completes (.spitImgOpen p v) s fun u => u.fld F.IMG_RESULT_CODE = 8 ∧ u.dev.chuck = s.dev.chuck ∧
      u.dev.log.count ≠ s.dev.log.count ∧ SameBytes s u ∧ SameHost s u := by
  obtain ⟨x, hx, he⟩ := spitImgOpen_run hr v
  refine ⟨_, he, ?_⟩
  rw [requestLoad, Prog.run_look, if_neg (by rw [hx.mayLoad (bitsOf_lt v.toNat 4 3), hm]; decide)]
  obtain ⟨hcode, hch, -, hcount, hb, hh⟩ := refuseLoad_run (bitsOf v.toNat 2 2) (bitsOf v.toNat 4 3) 4 x
  rw [hx.dev] at hch hcount
  exact ⟨hcode, hch, hcount, fun a => (hb a).trans (by rw [hx.mem]), fun a => (hh a).trans (by rw [hx.host])⟩

/-! ## The obligation -/

/-- Settles O51: one lemma for each kind of frame and outcome. -/
theorem spiFrames : Obligations.SpiFrames :=
  ⟨fun _ => readStatus_completes, fun _ _ _ _ _ => spiRead_completes, fun _ _ _ _ => spiWrite_completes, fun _ _ _ _ => spiWrite_out,
    fun _ addr count words hr h2 h64 hw => by subst hw; exact spiWrite_cut hr h2 h64, fun _ _ _ _ _ _ _ => spiBad_completes,
    fun _ _ _ => imgStream_completes, fun _ _ => imgStream_closed, fun _ => spiWake_inRest, fun _ => spiWake_ready,
    fun _ _ _ hr => spitImgOpen_begins hr, fun _ _ _ => spitImgOpen_refused⟩

end Sys2Proof.Machine
end

section
/-!
Reads of the Selol command set and the bus beside the commands (R489 to R491, R493 to R499, R501 to R505): O48.
-/
namespace Sys2Proof.Machine

/-! ## What serving a transaction does -/

/-- A transaction ends: the service's state says again what it said of transactions before it. -/
def State.afterService (u : State) (b : Bool) : State := { u with dev := { u.dev with svc := { u.dev.svc with serving := b } } }

theorem mbServe_run {s : State} (hr : s.ready = true) (hh : s.dev.svc.holding = false) (q : Prog) :
    (mbServe q).run s = (q.run s.inService).afterService s.dev.svc.serving := by
  have hp := (ready_facts hr).1
  have hmatch : mbMatch.run s = s := by
    rw [mbMatch, Prog.run_look, ready_inRest hr, Bool.and_false, Prog.run_when, if_neg Bool.false_ne_true]
  have htake : mbTakeOver.run s = s := by
    rw [mbTakeOver, Prog.run_look, hh, Bool.false_and, Prog.run_when, if_neg Bool.false_ne_true]
  rw [mbServe, Prog.run_look, hp, Prog.run_when, if_pos (by rfl)]
  iterate 5 rw [Prog.run_all_cons]
  rw [Prog.run_all_nil, hmatch, htake]
  rfl

theorem OnlyRegs.afterService {s u : State} {offs : List Nat} {b : Bool} (h : OnlyRegs s.inService u offs) :
    OnlyRegs s (u.afterService b) offs := ⟨h.regs, h.bytes, h.host⟩

/-- The read of `code` with the bytes `data` after it, whole. -/
abbrev mbWhole (p : Bool) (data : List Byte) : MbXfer := ⟨p, data, none, true, []⟩

theorem mbReply_run (s : State) (p : Bool) (code : Nat) (data body : List Byte) :
    (mbReply code (mbWhole p data) body).run s.inService =
      (incF F.MB_CMDS).run ((emitOut (.reply .mb (s.mbSent p code data body))).run s.inService) := by
  rw [mbReply, Prog.run_look, Prog.run_when, if_pos (by rfl), Prog.run_all_cons, Prog.run_all_cons, Prog.run_all_nil]
  have hsent : (mbWhole p data).sent = data := List.append_nil data
  have haddr : s.inService.mbAddr = s.mbAddr := rfl
  rw [hsent, haddr]
  cases p with
  | false => rw [if_neg Bool.false_ne_true, State.mbSent, if_neg Bool.false_ne_true]
  | true =>
    have hcmd : (mbWhole true data).cmd code = code + 128 := rfl
    rw [if_pos rfl, State.mbSent, if_pos rfl, hcmd]

/-- What answers a whole read of the bytes `data` is sent and counted. -/
theorem mbAnswered_of_run {s : State} {c : Instr} {p : Bool} {code : Nat} {data body : List Byte} {q : Prog} (hr : s.ready = true)
    (hh : s.dev.svc.holding = false) (hc : exec c s = done (mbServe q) s)
    (hq : q.run s.inService = (mbReply code (mbWhole p data) body).run s.inService) :
    Completes c s (MbAnswered s · p code data body) := by
  refine completes_done hc ?_
  rw [mbServe_run hr hh, hq, mbReply_run]
  refine ⟨rfl, Prog.fld_incF F.MB_CMDS _ (by decide), fun o ho => ?_, fun _ => rfl, fun _ => rfl⟩
  exact Prog.word_incF_other (by simpa using ho) _

theorem mbRead_run (n : Nat) {count : Option Nat} {p : Bool} {data : List Byte} (hn : data.length = n)
    (hc : (mbWhole p data).wrongCount count = false) (q : Prog) (s : State) : (mbRead n count (mbWhole p data) q).run s = q.run s := by
  have hsent : (mbWhole p data).sent.length = n := by rw [MbXfer.sent, List.length_append, hn]; rfl
  rw [mbRead, hc, hsent, if_neg (by simp), Prog.run_when, if_pos (by simp)]

theorem mbAnswer_completes {s : State} {c : Instr} {p : Bool} {code : Nat} {f : State → List Byte} {body : List Byte} (hr : s.ready = true)
    (hh : s.dev.svc.holding = false) (hc : exec c s = done (mbAnswer code (mbWhole p []) f) s) (hf : f s.inService = body) :
    Completes c s (MbAnswered s · p code [] body) := by
  refine mbAnswered_of_run hr hh hc ?_
  rw [mbRead_run 0 rfl rfl, Prog.run_look, hf]

theorem toByte_toNat {n : Nat} (h : n < 256) : (toByte n).toNat = n := by
  rw [toByte, BitVec.toNat_ofNat]
  exact Nat.mod_eq_of_lt h

theorem getUnit_completes {s : State} {p : Bool} (hr : s.ready = true) (hh : s.dev.svc.holding = false) {n : Nat} (hn : n < 117) :
    Completes (.getUnit ⟨p, [1, toByte n], none, true, []⟩) s (MbAnswered s · p 0x22 [1, toByte n]
      ([toByte 4, toByte n, toByte (s.inService.lineWord n % 16)] ++ toBytes 2 (s.inService.lineWord n / 65536))) := by
  have hat : (mbWhole p [1, toByte n]).at 1 = n := toByte_toNat (by omega)
  refine mbAnswered_of_run hr hh rfl ?_
  rw [mbRead_run 2 rfl rfl, Prog.run_look]
  dsimp only
  rw [hat, if_pos hn]

/-! ## Registers -/

theorem le_of_toBytes {p : Bool} {b : Byte} {a : Nat} {rest : List Byte} (h : a < 2 ^ 32) :
    (mbWhole p (b :: toBytes 4 a ++ rest)).le 1 4 = a := by
  have hlen : (toBytes 4 a).length = 4 := toBytes_length 4 a
  show ofBytes (((b :: toBytes 4 a ++ rest ++ []).drop 1).take 4) = a
  rw [List.append_nil, List.cons_append, List.drop_one, List.tail_cons, List.take_append_of_le_length (by omega),
    List.take_of_length_le (by omega), ofBytes_toBytes]
  exact Nat.mod_eq_of_lt h

/-- The registers of `n` words from an address are answered with their bytes. -/
theorem mbRegRead_run {s : State} {p : Bool} {data : List Byte} {code n a : Nat} (ha : a % 4 = 0) (hlt : a + 4 * n ≤ 0x4000000)
    (h : ∀ i, i < n → s.plainAt (a + 4 * i)) : (mbRegRead code n a (mbWhole p data)).run s.inService =
      (mbReply code (mbWhole p data) (toByte (1 + 4 * n) :: 0 ::
        (List.range n).flatMap fun i => toBytes 4 (s.inService.readWord .mb (a + 4 * i)))).run s.inService := by
  have hplain : ∀ i, i < n → s.inService.plainAt (a + 4 * i) := h
  rw [mbRegRead, readWords_run (fun _ h => by cases h) _ _ ha hlt hplain, rangeStatus_in ha hlt, List.nil_append]
  rfl

theorem regRead_completes {s : State} {p : Bool} (hr : s.ready = true) (hh : s.dev.svc.holding = false) {a : Nat} (ha : a % 4 = 0)
    (hlt : a < 0x4000000) (hp : s.plainAt a) : Completes (.regRead ⟨p, 4 :: toBytes 4 a, none, true, []⟩) s
      (MbAnswered s · p 0x10 (4 :: toBytes 4 a) (toByte 5 :: 0 :: toBytes 4 (s.inService.readWord .mb a))) := by
  have hle : (mbWhole p (4 :: toBytes 4 a)).le 1 4 = a := by
    have := le_of_toBytes (p := p) (b := 4) (rest := []) (show a < 2 ^ 32 by omega)
    rwa [List.append_nil] at this
  refine mbAnswered_of_run hr hh rfl ?_
  rw [mbRead_run 5 (by rw [List.length_cons, toBytes_length]) rfl, hle, mbRegRead_run ha (by omega) fun i hi => by
    rw [show i = 0 by omega]
    exact hp]
  rfl

theorem regReadN_completes {s : State} {p : Bool} (hr : s.ready = true) (hh : s.dev.svc.holding = false) {a n : Nat} (ha : a % 4 = 0)
    (h1 : 1 ≤ n) (h7 : n ≤ 7) (hlt : a + 4 * n ≤ 0x4000000) (hp : ∀ i, i < n → s.plainAt (a + 4 * i)) :
    Completes (.regReadN ⟨p, 5 :: toBytes 4 a ++ [toByte n], none, true, []⟩) s (MbAnswered s · p 0x12 (5 :: toBytes 4 a ++ [toByte n])
      (toByte (1 + 4 * n) :: 0 :: (List.range n).flatMap fun i => toBytes 4 (s.inService.readWord .mb (a + 4 * i)))) := by
  have hle := le_of_toBytes (p := p) (b := 5) (rest := [toByte n]) (show a < 2 ^ 32 by omega)
  have hat : (mbWhole p (5 :: toBytes 4 a ++ [toByte n])).at 5 = n := toByte_toNat (by omega)
  refine mbAnswered_of_run hr hh rfl ?_
  rw [mbRead_run 6 (by rw [List.length_append, List.length_cons, toBytes_length, List.length_singleton]) rfl, hat, if_pos (by simp [h1, h7]), hle]
  exact mbRegRead_run ha hlt hp

theorem selolReads {s : State} (p : Bool) (hr : s.ready = true) (hh : s.dev.svc.holding = false) :
    Completes (.getId ⟨p, [], none, true, []⟩) s (MbAnswered s · p 0x01 []
      (toByte 12 :: toBytes 4 (s.regValue 0) ++ toBytes 4 (s.regValue 4) ++ toBytes 4 (s.regValue 8))) ∧
    Completes (.getStatus ⟨p, [], none, true, []⟩) s (MbAnswered s · p 0x02 [] (toBytes 2 s.mbStatus)) ∧
    Completes (.lastResult ⟨p, [], none, true, []⟩) s (MbAnswered s · p 0x03 []
      (toByte 4 :: toBytes 4 (s.word F.MB_LAST_RESULT_CMD.off).toNat)) ∧
    Completes (.filterRead ⟨p, [], none, true, []⟩) s (MbAnswered s · p 0x06 [] (toBytes 1 (s.fld F.MB_FILT_LEN))) ∧
    Completes (.timeoutRead ⟨p, [], none, true, []⟩) s (MbAnswered s · p 0x07 [] (toBytes 1 (s.fld F.MB_TIMEOUT_MS))) ∧
    Completes (.catchRead ⟨p, [], none, true, []⟩) s (MbAnswered s · p 0x30 [] (match (s.unreadRecs 1).head? with
      | some r => toByte 32 :: r.bytes
      | none => [0])) ∧
    Completes (.catchInfo ⟨p, [], none, true, []⟩) s (MbAnswered s · p 0x32 [] (toBytes 2 (min 1024 (s.unread 1)))) ∧
    Completes (.getTemp ⟨p, [], none, true, []⟩) s (MbAnswered s · p 0x40 [] (toBytes 2 (s.fld F.PCK_TEMP_TEMP))) :=
  have h {c : Instr} {code : Nat} {f : State → List Byte} {body : List Byte} (hc : exec c s = done (mbAnswer code (mbWhole p []) f) s)
      (hf : f s.inService = body) : Completes c s (MbAnswered s · p code [] body) := mbAnswer_completes hr hh hc hf
  ⟨h rfl rfl, h rfl rfl, h rfl rfl, h rfl rfl, h rfl rfl, h rfl rfl, h rfl rfl, h rfl rfl⟩

/-! ## The bus beside the commands -/

theorem receiveByte_completes {s : State} (hr : s.ready = true) (hh : s.dev.svc.holding = false) : Completes .receiveByte s fun u =>
    u = { s with dev := { s.dev with out := s.dev.out ++ [.reply .mb (toBytes 1 s.mbStatus)] } } := by
  refine completes_done rfl ?_
  rw [mbServe_run hr hh]
  rfl

theorem quickCommand_completes {s : State} (hr : s.ready = true) (hh : s.dev.svc.holding = false) : Completes .quickCommand s fun u => u = s := by
  refine completes_done rfl ?_
  rw [mbServe_run hr hh]
  rfl

theorem alertResponse_completes {s : State} (hr : s.ready = true) (ha : s.bit F.MB_CFG_ARA_EN = true) (hu : 0 < s.unread 1) :
    Completes .alertResponse s fun u =>
      u = { s with dev := { s.dev with out := s.dev.out ++ [.reply .mb (toBytes 1 s.mbAddr)] } } := by
  refine completes_done rfl ?_
  rw [(ready_facts hr).1, ready_inRest hr, ha, decide_eq_true hu, Prog.run_when, if_pos (by rfl)]
  rfl

theorem alertResponse_silent {s : State} (h : s.inRest = true ∨ s.bit F.MB_CFG_ARA_EN = false ∨ s.unread 1 = 0) :
    Completes .alertResponse s fun u => u = s := by
  refine completes_done rfl ?_
  rw [Prog.run_when, if_neg]
  rcases h with h | h | h <;> simp [h]

theorem mbBadCommand_completes {s : State} (hr : s.ready = true) (hh : s.dev.svc.holding = false) :
    Completes .mbBadCommand s fun u => Counted s u F.MB_BAD_CMDS ∧ OnlyRegs s u (F.MB_BAD_CMDS.off :: catchRegs) := by
  refine completes_done rfl ?_
  rw [mbServe_run hr hh]
  have h := tally_run (logSvc_onlyLogs 0xC004 0 114 []) F.MB_BAD_CMDS (by decide) (by decide) s.inService
  exact ⟨h.counted, h.regs.afterService⟩

theorem mbAddressMatch_completes {s : State} (hp : s.dev.pwr.por = false) (hh : s.heldReset = false) (hr : s.inRest = true) :
    Completes .mbAddressMatch s fun u => u.devState = 4 ∧ u.fld F.PCK_STATUS_WAKESRC = 1 ∧ u.dev.svc.holding = true ∧
      u.dev.pwr.pins.coreEn = true ∧ OnlyRegs s u [F.PCK_STATUS_DEV.off] := by
  refine completes_done rfl ?_
  rw [mbMatch, Prog.run_look, hp, hr, Prog.run_when, if_pos (by rfl), Prog.run_all_cons, Prog.run_all_cons, Prog.run_all_nil]
  generalize hx : (modSvc _).run s = x
  have hhold : x.dev.svc.holding = true := by rw [← hx]; rfl
  have hpx : x.dev.pwr = s.dev.pwr := by rw [← hx]; rfl
  have hword : ∀ o, x.word o = s.word o := fun o => by rw [← hx]; rfl
  have hmem : x.mem = s.mem := by rw [← hx]; rfl
  have hhost : x.host = s.host := by rw [← hx]; rfl
  clear hx
  have hrx : x.inRest = true := by rw [State.inRest, State.devState, State.fld_of_word (hword _)]; exact hr
  have h := wake_inRest (by rw [hpx]; exact hp) (by rw [State.heldReset, hpx]; exact hh) hrx .mb
  generalize (orderCycle [wakeOrder .mb]).run x = u at *
  refine ⟨h.state, h.source, ?_, h.core, fun o ho => (h.regs.regs o ho).trans (hword o), fun a => (h.regs.bytes a).trans (by rw [hmem]),
    fun a => (h.regs.host a).trans (by rw [hhost])⟩
  rw [h.dev]
  exact hhold

theorem mbTimeout_quiet {s : State} (hp : s.dev.pwr.por = false) (hb : s.bit F.MB_MST_STATUS_BUSY = false) :
    Completes .mbTimeout s fun u => Counted s u F.MB_TIMEOUTS ∧ u.dev.svc.toSeen = true ∧ u.dev.svc.holding = false ∧
      u.dev.log.count ≠ s.dev.log.count ∧ OnlyRegs s u (F.MB_TIMEOUTS.off :: catchRegs) := by
  refine completes_done rfl ?_
  rw [mbTimeoutProg, Prog.run_look, hp, Prog.run_when, if_pos (by rfl), hb, if_neg Bool.false_ne_true]
  iterate 3 rw [Prog.run_all_cons]
  rw [Prog.run_all_nil]
  generalize (if s.dev.svc.holding then 0xC002 else 0xC001) = code
  have hcount := Prog.fld_incF F.MB_TIMEOUTS s (by decide)
  have hother : ∀ o, o ≠ F.MB_TIMEOUTS.off → ((incF F.MB_TIMEOUTS).run s).word o = s.word o := fun o ho => Prog.word_incF_other ho s
  generalize hx : (modSvc _).run ((incF F.MB_TIMEOUTS).run s) = x
  have hsvc : x.dev.svc.toSeen = true ∧ x.dev.svc.holding = false := by rw [← hx]; exact ⟨rfl, rfl⟩
  have hlog' : x.dev.log = s.dev.log := by rw [← hx]; rfl
  have hword : ∀ o, x.word o = ((incF F.MB_TIMEOUTS).run s).word o := fun o => by rw [← hx]; rfl
  have hmem : x.mem = s.mem := by rw [← hx]; rfl
  have hhost : x.host = s.host := by rw [← hx]; rfl
  clear hx
  have hlog := logC_run_onlyLogs code 1 114 [] none x
  have hlt := logC_count_ne code 1 114 [] none x
  generalize (logC code 1 114 []).run x = u at *
  refine ⟨?_, by rw [hlog.dev]; exact hsvc.1, by rw [hlog.dev]; exact hsvc.2, by rwa [← hlog'], fun o ho => ?_, fun a => by rw [hlog.mem, hmem],
    fun a => by rw [hlog.host, hhost]⟩
  · rw [Counted, hlog.fld (by decide), State.fld_of_word (hword _), hcount]
  · obtain ⟨hne, hc⟩ := not_or.mp (List.mem_cons.not.mp ho)
    rw [hlog.regs o hc, hword, hother o hne]

end Sys2Proof.Machine
end

section
/-!
Controller mode of the management bus (R506 to R510): what a START, the end of a transaction and a poll entry do; with the time-out of the
bus, O48.
-/
namespace Sys2Proof.Machine

/-! ## What a result is followed by -/

/-- A result has been counted and logged as it asks. -/
structure MstCaught (x y : State) (r : Nat) : Prop where
  dev : y.dev = { x.dev with svc := { x.dev.svc with toSeen := y.dev.svc.toSeen }, log := y.dev.log, out := y.dev.out, marks := y.dev.marks }
  timedOut : r = 5 → Counted x y F.MB_TIMEOUTS ∧ y.dev.svc.toSeen = true ∧ x.dev.log.count < y.dev.log.count
  regs : OnlyRegs x y (F.MB_TIMEOUTS.off :: catchRegs)

theorem mstCaught_of_logs {p : Prog} (h : p.Only Act.logs) {r : Nat} (hr : r ≠ 5) (x : State) : MstCaught x (p.run x) r := by
  have hlog := h.onlyLogs x
  generalize p.run x = y at *
  refine ⟨by rw [hlog.dev], fun h => absurd h hr, ⟨fun o ho => hlog.regs o (not_or.mp (List.mem_cons.not.mp ho)).2, fun a => by rw [hlog.mem],
    fun a => by rw [hlog.host]⟩⟩

theorem mstCatch_timedOut (x : State) : MstCaught x ((mstCatch 5).run x) 5 := by
  rw [mstCatch, if_neg (by decide), if_neg (by decide), if_pos (by rfl)]
  iterate 3 rw [Prog.run_all_cons]
  rw [Prog.run_all_nil]
  have hcount := Prog.fld_incF F.MB_TIMEOUTS x (by decide)
  have hother : ∀ o, o ≠ F.MB_TIMEOUTS.off → ((incF F.MB_TIMEOUTS).run x).word o = x.word o := fun o ho => Prog.word_incF_other ho x
  generalize hz : (modSvc _).run ((incF F.MB_TIMEOUTS).run x) = z
  have hdev : z.dev = { x.dev with svc := { x.dev.svc with toSeen := true } } := by rw [← hz]; rfl
  have hword : ∀ o, z.word o = ((incF F.MB_TIMEOUTS).run x).word o := fun o => by rw [← hz]; rfl
  have hmem : z.mem = x.mem := by rw [← hz]; rfl
  have hhost : z.host = x.host := by rw [← hz]; rfl
  clear hz
  rw [show logSvc 0xC001 1 114 [] = logC 0xC001 1 114 [] from rfl]
  have hlog := logC_run_onlyLogs 0xC001 1 114 [] none z
  have hlt := logC_count_lt 0xC001 1 114 [] none z
  generalize (logC 0xC001 1 114 []).run z = y at *
  refine ⟨by rw [hlog.dev, hdev], fun _ => ⟨?_, ?_, by rwa [hdev] at hlt⟩, fun o ho => ?_, fun a => by rw [hlog.mem, hmem],
    fun a => by rw [hlog.host, hhost]⟩
  · rw [Counted, hlog.fld (by decide), State.fld_of_word (hword _), hcount]
  · rw [hlog.dev, hdev]
  · obtain ⟨hne, hc⟩ := not_or.mp (List.mem_cons.not.mp ho)
    rw [hlog.regs o hc, hword, hother o hne]

theorem mstCatch_run (r : Nat) (x : State) : MstCaught x ((mstCatch r).run x) r := by
  by_cases h5 : r = 5
  · rw [h5]
    exact mstCatch_timedOut x
  · refine mstCaught_of_logs ?_ h5 x
    rw [mstCatch]
    split
    · exact logSvc_onlyLogs _ _ _ _
    · split
      · exact logSvc_onlyLogs _ _ _ _
      · rw [if_neg (show ¬r = mstTimeout from h5)]
        trivial

/-! ## Data -/

/-- The data of a transaction has been put into a field. -/
structure MstFilled (x y : State) (f : Fld) (shape : Nat) (o : MstOutcome) : Prop where
  dev : y.dev = x.dev
  value : o.result = 0 → 3 ≤ shape → shape ≤ 5 → y.fld f = o.data % 2 ^ (if shape = 5 then 16 else 8)
  none : shape < 3 → y.fld f = x.fld f
  others : ∀ g : Fld, g.lo + g.w ≤ 32 → g.off ≠ f.off ∨ g.lo + g.w ≤ f.lo ∨ f.lo + f.w ≤ g.lo → y.fld g = x.fld g
  words : ∀ a, a ≠ f.off → y.word a = x.word a
  mem : y.mem = x.mem
  host : y.host = x.host

theorem mstData_run {f : Fld} (hw : f.w = 16) (hl : f.lo + f.w ≤ 32) (shape : Nat) (o : MstOutcome) (x : State) :
    MstFilled x ((mstData f shape o).run x) f shape o := by
  have hset : ∀ v z, (∀ a, z.word a = x.word a) → z.dev = x.dev → z.mem = x.mem → z.host = x.host → (o.result = 0 → z = x ∧
      v = o.data % 2 ^ (if shape = 5 then 16 else 8)) → ¬shape < 3 → MstFilled x ((setF f v).run z) f shape o := by
    intro v z hword hdev hmem hhost hval hs
    refine ⟨hdev, fun h0 h3 h5 => ?_, fun h => absurd h hs, fun g hg hd => ?_, fun a ha => ?_, hmem, hhost⟩
    · rw [Prog.fld_setF_same f v z hl, (hval h0).2, hw]
      split
      · exact Nat.mod_mod _ _
      · exact Nat.mod_eq_of_lt (lt_trans (Nat.mod_lt _ (by decide)) (by decide))
    · rw [Prog.fld_setF_other f g v z hg hd, State.fld_of_word (hword _)]
    · have hsp : (setF f v).Only (Act.sparesReg a) := Prog.only_setF fun _ e => ha e.symm
      rw [hsp.word, hword]
  rw [mstData, Prog.run_when]
  split
  · rename_i h
    obtain ⟨h3, h5⟩ : 3 ≤ shape ∧ shape ≤ 5 := by simpa using h
    split
    · exact hset _ x (fun _ => rfl) rfl rfl rfl (fun _ => ⟨rfl, rfl⟩) (by omega)
    · rename_i h0
      exact hset _ { x with free := x.free + 1 } (fun _ => rfl) rfl rfl rfl (fun h => absurd h h0) (by omega)
  · rename_i h
    have h' : ¬(3 ≤ shape ∧ shape ≤ 5) := by simpa using h
    exact ⟨rfl, fun _ h3 h5 => absurd ⟨h3, h5⟩ h', fun _ => rfl, fun _ _ _ => rfl, fun _ _ => rfl, rfl, rfl⟩

/-! ## The end of a transaction -/

/-- A transaction of a shape ends, before a START that waited is looked at. -/
def mstEnd (shape : Nat) (o : MstOutcome) : Prog :=
  all [setF F.MB_MST_STATUS_BUSY 0, setUnit 114 0, setF F.MB_MST_STATUS_RESULT o.result, mstData F.MB_MST_DATA_DATA shape o, mstCatch o.result]

theorem mstComplete_run (o : MstOutcome) (s : State) : (mstComplete o).run s =
    (when s.dev.svc.startWaits (all [modSvc fun v => { v with startWaits := false }, when (s.devState != 2) startMst])).run
      ((mstEnd s.dev.svc.mstShape o).run s) := by
  rw [mstComplete, Prog.run_look, mstEnd]
  iterate 11 rw [Prog.run_all_cons]
  rw [Prog.run_all_nil, Prog.run_all_nil]

/-- The registers that the end of a transaction writes. -/
def mstRegs : List Nat := [F.MB_MST_STATUS_BUSY.off, (F.LEDG_UNIT_STATE 114).off, F.MB_MST_DATA_DATA.off, F.MB_TIMEOUTS.off] ++ catchRegs

structure MstEnded (s u : State) (shape : Nat) (o : MstOutcome) : Prop where
  busy : u.bit F.MB_MST_STATUS_BUSY = false
  unit : u.unitState 114 = 0
  result : u.fld F.MB_MST_STATUS_RESULT = o.result % 16
  value : o.result = 0 → 3 ≤ shape → shape ≤ 5 → u.fld F.MB_MST_DATA_DATA = o.data % 2 ^ (if shape = 5 then 16 else 8)
  none : shape < 3 → u.fld F.MB_MST_DATA_DATA = s.fld F.MB_MST_DATA_DATA
  timedOut : o.result = 5 → Counted s u F.MB_TIMEOUTS ∧ u.dev.svc.toSeen = true ∧ s.dev.log.count < u.dev.log.count
  dev : u.dev = { s.dev with svc := { s.dev.svc with toSeen := u.dev.svc.toSeen }, log := u.dev.log, out := u.dev.out, marks := u.dev.marks }
  regs : OnlyRegs s u mstRegs

/-- The transaction's state and its result have been written. -/
def mstNote (r : Nat) : Prog := all [setF F.MB_MST_STATUS_BUSY 0, setUnit 114 0, setF F.MB_MST_STATUS_RESULT r]

theorem mstNote_run (r : Nat) (s : State) : ((mstNote r).run s).fld F.MB_MST_STATUS_BUSY = 0 ∧
    ((mstNote r).run s).fld (F.LEDG_UNIT_STATE 114) = 0 ∧ ((mstNote r).run s).fld F.MB_MST_STATUS_RESULT = r % 16 ∧
    ((mstNote r).run s).dev = s.dev ∧ ((mstNote r).run s).mem = s.mem ∧ ((mstNote r).run s).host = s.host ∧
    (∀ a, a ≠ F.MB_MST_STATUS_BUSY.off → a ≠ (F.LEDG_UNIT_STATE 114).off → ((mstNote r).run s).word a = s.word a) := by
  have hsp : ∀ a, a ≠ F.MB_MST_STATUS_BUSY.off → a ≠ (F.LEDG_UNIT_STATE 114).off → (mstNote r).Only (Act.sparesReg a) := fun a h1 h2 =>
    ⟨Prog.only_setF fun _ e => h1 e.symm, Prog.only_setF fun _ e => h2 e.symm, Prog.only_setF fun _ e => h1 e.symm, trivial⟩
  refine ⟨?_, ?_, ?_, rfl, rfl, rfl, fun a h1 h2 => (hsp a h1 h2).word s⟩ <;> rw [mstNote] <;> iterate 3 rw [Prog.run_all_cons]
  · show ((setF F.MB_MST_STATUS_RESULT r).run _).fld _ = _
    rw [Prog.fld_setF_other F.MB_MST_STATUS_RESULT F.MB_MST_STATUS_BUSY _ _ (by decide) (by decide), setUnit,
      Prog.fld_setF_other (F.LEDG_UNIT_STATE 114) F.MB_MST_STATUS_BUSY _ _ (by decide) (by decide), Prog.fld_setF_same _ _ _ (by decide)]
    rfl
  · show ((setF F.MB_MST_STATUS_RESULT r).run _).fld _ = _
    rw [Prog.fld_setF_other F.MB_MST_STATUS_RESULT (F.LEDG_UNIT_STATE 114) _ _ (by decide) (by decide), setUnit,
      Prog.fld_setF_same _ _ _ (by decide)]
    rfl
  · exact Prog.fld_setF_same F.MB_MST_STATUS_RESULT r _ (by decide)

theorem mstEnd_run (shape : Nat) (o : MstOutcome) (s : State) : MstEnded s ((mstEnd shape o).run s) shape o := by
  have hsplit : (mstEnd shape o).run s =
      (mstCatch o.result).run ((mstData F.MB_MST_DATA_DATA shape o).run ((mstNote o.result).run s)) := by
    rw [mstEnd, mstNote]
    iterate 8 rw [Prog.run_all_cons]
    rw [Prog.run_all_nil, Prog.run_all_nil]
  rw [hsplit]
  obtain ⟨hbusy, hunit, hresult, hdev, hmem, hhost, hword⟩ := mstNote_run o.result s
  generalize (mstNote o.result).run s = x at *
  have hfill := mstData_run (f := F.MB_MST_DATA_DATA) rfl (by decide) shape o x
  generalize (mstData F.MB_MST_DATA_DATA shape o).run x = y at *
  have hcatch := mstCatch_run o.result y
  generalize (mstCatch o.result).run y = u at *
  have hfld : ∀ f : Fld, f.off ∉ F.MB_TIMEOUTS.off :: catchRegs → u.fld f = y.fld f := fun f hf => State.fld_of_word (hcatch.regs.regs _ hf)
  refine ⟨?_, ?_, ?_, fun h0 h3 h5 => ?_, fun h => ?_, fun h => ?_, ?_, fun a ha => ?_, fun a => ?_, fun a => ?_⟩
  · rw [State.bit, hfld _ (by decide), hfill.others _ (by decide) (by decide), hbusy]
    rfl
  · rw [State.unitState, hfld _ (by decide), hfill.others _ (by decide) (by decide), hunit]
  · rw [hfld _ (by decide), hfill.others _ (by decide) (by decide), hresult]
  · rw [hfld _ (by decide), hfill.value h0 h3 h5]
  · rw [hfld _ (by decide), hfill.none h]
    exact State.fld_of_word (hword _ (by decide) (by decide))
  · obtain ⟨hc, hseen, hcount⟩ := hcatch.timedOut h
    refine ⟨?_, hseen, by rwa [hfill.dev, hdev] at hcount⟩
    rw [Counted, hfill.others F.MB_TIMEOUTS (by decide) (by decide), State.fld_of_word (hword F.MB_TIMEOUTS.off (by decide) (by decide))] at hc
    exact hc
  · rw [hcatch.dev, hfill.dev, hdev]
  · obtain ⟨h4, hc⟩ := not_or.mp (List.mem_append.not.mp ha)
    have h1 : a ≠ F.MB_MST_STATUS_BUSY.off := fun h => h4 (by simp [h])
    have h2 : a ≠ (F.LEDG_UNIT_STATE 114).off := fun h => h4 (by simp [h])
    have h3 : a ≠ F.MB_MST_DATA_DATA.off := fun h => h4 (by simp [h])
    have h5 : a ≠ F.MB_TIMEOUTS.off := fun h => h4 (by simp [h])
    rw [hcatch.regs.regs a (List.mem_cons.not.mpr (not_or.mpr ⟨h5, hc⟩)), hfill.words a h3, hword a h1 h2]
  · rw [hcatch.regs.bytes, hfill.mem, hmem]
  · rw [hcatch.regs.host, hfill.host, hhost]

/-! ## A START -/

/-- A START has been taken up: what of the state it does not touch. -/
structure MstAsked (x y : State) : Prop where
  dev : y.dev = { x.dev with svc := { x.dev.svc with startWaits := y.dev.svc.startWaits, mstShape := y.dev.svc.mstShape } }
  regs : OnlyRegs x y [F.MB_MST_STATUS_BUSY.off, (F.LEDG_UNIT_STATE 114).off]

/-- What a START may touch. -/
abbrev mstStartBound : Bound where
  dev d e := e = { d with svc := { d.svc with startWaits := e.svc.startWaits, mstShape := e.svc.mstShape } }
  reg o := o ∈ [F.MB_MST_STATUS_BUSY.off, (F.LEDG_UNIT_STATE 114).off]
  mem := False
  host := False

theorem startMst_obeys : startMst.Only (Act.obeys mstStartBound) := by
  refine fun x => ?_
  dsimp only
  split
  · exact setF_obeys.mpr (by simp)
  · split
    · exact setF_obeys.mpr (by simp)
    · split
      · exact fun _ => rfl
      · exact ⟨setF_obeys.mpr (by simp), setUnit_obeys.mpr (by simp), fun _ => rfl, trivial⟩

theorem startMst_run (x : State) : MstAsked x (startMst.run x) :=
  ⟨startMst_obeys.devs ⟨fun _ => rfl, fun h k => by rw [k, h]⟩ x, fun _ ha => startMst_obeys.words ha x,
    startMst_obeys.sameBytes_of_obeys id x, startMst_obeys.sameHost_of_obeys id x⟩

/-- The bus controller refuses its configuration. -/
def State.mstBad (x : State) : Prop := x.fld F.MB_MST_CTL_RATE = 3 ∨ 6 ≤ x.fld F.MB_MST_CTL_SHAPE

theorem startMst_bad {x : State} (h : x.mstBad) : startMst.run x = (setF F.MB_MST_STATUS_RESULT 8).run x := by
  rw [startMst, Prog.run_look, if_pos (by simpa [State.mstBad] using h)]
  rfl

theorem startMst_self {x : State} (h : ¬x.mstBad) (hs : selfAddr (x.fld F.MB_MST_CTL_TADDR) = true) :
    startMst.run x = (setF F.MB_MST_STATUS_RESULT 7).run x := by
  rw [startMst, Prog.run_look, if_neg (by simpa [State.mstBad] using h), if_pos hs]
  rfl

theorem startMst_waits {x : State} (h : ¬x.mstBad) (hs : selfAddr (x.fld F.MB_MST_CTL_TADDR) = false) (hb : x.bit F.MB_MST_STATUS_BUSY = true) :
    startMst.run x = (modSvc fun v => { v with startWaits := true }).run x := by
  rw [startMst, Prog.run_look, if_neg (by simpa [State.mstBad] using h), hs, if_neg Bool.false_ne_true, if_pos hb]

/-- A START onto an idle bus. -/
structure MstRuns (x y : State) : Prop where
  busy : y.bit F.MB_MST_STATUS_BUSY = true
  unit : y.unitState 114 = 2
  dev : y.dev = { x.dev with svc := { x.dev.svc with mstShape := x.fld F.MB_MST_CTL_SHAPE } }

theorem startMst_idle {x : State} (h : ¬x.mstBad) (hs : selfAddr (x.fld F.MB_MST_CTL_TADDR) = false) (hb : x.bit F.MB_MST_STATUS_BUSY = false) :
    MstRuns x (startMst.run x) := by
  rw [startMst, Prog.run_look, if_neg (by simpa [State.mstBad] using h), hs, if_neg Bool.false_ne_true, hb, if_neg Bool.false_ne_true]
  iterate 3 rw [Prog.run_all_cons]
  refine ⟨?_, ?_, rfl⟩
  · show (((setUnit 114 2).run _).fld F.MB_MST_STATUS_BUSY == 1) = true
    rw [setUnit, Prog.fld_setF_other (F.LEDG_UNIT_STATE 114) F.MB_MST_STATUS_BUSY _ _ (by decide) (by decide), Prog.fld_setF_same _ _ _ (by decide)]
    rfl
  · exact (setUnit_run 114 2 _).1

/-! ## The time-out of the bus -/

theorem mbTimeout_busy {s : State} (hp : s.dev.pwr.por = false) (hb : s.bit F.MB_MST_STATUS_BUSY = true) :
    Completes .mbTimeout s fun u => Counted s u F.MB_TIMEOUTS ∧ u.dev.svc.toSeen = true ∧ s.dev.log.count < u.dev.log.count ∧
      SameBytes s u ∧ SameHost s u := by
  refine completes_done rfl ?_
  rw [mbTimeoutProg, Prog.run_look, hp, Prog.run_when, if_pos (by rfl), hb, if_pos rfl, mstComplete_run]
  have h := mstEnd_run s.dev.svc.mstShape ⟨mstTimeout, 0⟩ s
  generalize (mstEnd s.dev.svc.mstShape ⟨mstTimeout, 0⟩).run s = x at *
  obtain ⟨hc, hseen, hcount⟩ := h.timedOut rfl
  rw [Prog.run_when]
  split
  · rw [Prog.run_all_cons, Prog.run_all_cons, Prog.run_all_nil]
    generalize hy : (modSvc _).run x = y
    have hdev : y.dev = { x.dev with svc := { x.dev.svc with startWaits := false } } := by rw [← hy]; rfl
    have hword : ∀ o, y.word o = x.word o := fun o => by rw [← hy]; rfl
    have hmem : y.mem = x.mem := by rw [← hy]; rfl
    have hhost : y.host = x.host := by rw [← hy]; rfl
    clear hy
    rw [Prog.run_when]
    split
    · have ha := startMst_run y
      generalize startMst.run y = u at *
      refine ⟨?_, by rw [ha.dev, hdev]; exact hseen, by rw [ha.dev, hdev]; exact hcount, fun a => ?_, fun a => ?_⟩
      · rw [Counted, State.fld_of_word (ha.regs.regs _ (by decide)), State.fld_of_word (hword _)]
        exact hc
      · rw [ha.regs.bytes, hmem, h.regs.bytes]
      · rw [ha.regs.host, hhost, h.regs.host]
    · refine ⟨?_, by rw [hdev]; exact hseen, by rw [hdev]; exact hcount, fun a => by rw [hmem, h.regs.bytes], fun a => by rw [hhost, h.regs.host]⟩
      rw [Counted, State.fld_of_word (hword _)]
      exact hc
  · exact ⟨hc, hseen, hcount, h.regs.bytes, h.regs.host⟩

/-- Settles O48: one lemma for each read and each event of the bus. -/
theorem selolReadsAndBus : Obligations.SelolReadsAndBus :=
  ⟨fun _ p hr hh =>
    have ⟨h1, h2, h3, h4, h5, h6, h7, h8⟩ := selolReads p hr hh
    ⟨h1, h2, h3, h4, h5, h6, h7, h8, fun _ => getUnit_completes hr hh, fun _ ha hlt hp hrc hm => regRead_completes hr hh ha hlt ⟨hp, hrc, hm⟩,
      fun _ _ => regReadN_completes hr hh⟩,
    fun _ => receiveByte_completes, fun _ => quickCommand_completes, fun _ => alertResponse_completes, fun _ => alertResponse_silent,
    fun _ => mbBadCommand_completes, fun _ => mbAddressMatch_completes, fun _ => mbTimeout_busy, fun _ => mbTimeout_quiet⟩

end Sys2Proof.Machine
end

section
/-!
Controller mode of the management bus and flash commands (R506 to R510, R525): O50.
-/
namespace Sys2Proof.Machine

/-! ## Control registers with a one-shot bit -/

/-- A program writes the field under the register's rules. -/
def Fld.plainRw (f : Fld) : Bool := (RegMap.fields f.off).any fun x => x.lo == f.lo && x.w == f.w && x.acc == .rw

/-- A control register has been written with its one-shot bit set, and the bit reads 0 again. -/
structure ShotWritten (s x : State) (g : Fld) (v : Nat) : Prop where
  fields : ∀ f : Fld, f.plainRw = true → f.off = g.off → f.lo + f.w ≤ 32 → f.lo + f.w ≤ g.lo ∨ g.lo + 1 ≤ f.lo → x.fld f = bitsOf v f.lo f.w
  shot : x.fld g = 0
  words : ∀ o, o ≠ g.off → x.word o = s.word o
  dev : x.dev = s.dev
  mem : x.mem = s.mem
  host : x.host = s.host

theorem shotWritten_run {g : Fld} (hw : g.w = 1) (hl : g.lo + 1 ≤ 32) (v : Nat) (s : State) :
    ShotWritten s ((setF g 0).run ((writeFields g.off (setBits v g.lo 1 1)).run s)) g v := by
  have hsp : ∀ o, o ≠ g.off → ((setF g 0).run ((writeFields g.off (setBits v g.lo 1 1)).run s)).word o = s.word o := fun o ho => by
    have h1 : (setF g 0).Only (Act.writes g.off) := fun _ => rfl
    have h2 : (writeFields g.off (setBits v g.lo 1 1)).Only (Act.writes g.off) := fun _ => rfl
    obtain ⟨-, -, -, hr1⟩ := h1.onlyReg ((writeFields g.off (setBits v g.lo 1 1)).run s)
    obtain ⟨-, -, -, hr2⟩ := h2.onlyReg s
    exact (hr1 o (by simpa using ho)).trans (hr2 o (by simpa using ho))
  refine ⟨fun f hf hoff hfl hd => ?_, ?_, hsp, rfl, rfl, rfl⟩
  · obtain ⟨x, hx, hkey⟩ := List.any_eq_true.mp hf
    obtain ⟨⟨hlo, hwx⟩, hacc⟩ : (x.lo = f.lo ∧ x.w = f.w) ∧ x.acc = .rw := by simpa using hkey
    rw [Prog.fld_setF_other g f _ _ hfl (by rw [hw]; omega), State.fld, hoff, ← hlo, ← hwx, writeFields_field (hoff ▸ hx), codedValue, hacc]
    exact bitsOf_setBits_other _ _ _ _ _ _ (by omega)
  · rw [Prog.fld_setF_same g 0 _ (by omega)]
    exact Nat.zero_mod _

/-! ## START -/

theorem mstStart_run {s : State} {p : Path} (hr : s.reach p F.MB_MST_CTL_START.off = true) (v : Word) :
    ∃ x, ShotWritten s x F.MB_MST_CTL_START v.toNat ∧ exec (.mstStart p v) s = .next (startMst.run x) := by
  refine ⟨_, shotWritten_run (g := F.MB_MST_CTL_START) rfl (by decide) v.toNat s, ?_⟩
  have hb : bitsOf (setBits v.toNat 24 1 1) 24 1 = 1 := by
    rw [bitsOf_setBits_same]
    rfl
  show done (writing p F.MB_MST_CTL_START.off (writeMstCtl (setBits v.toNat 24 1 1))) s = _
  rw [done_eq, writing_run_of_reach hr (by decide), writeMstCtl, hb]
  iterate 3 rw [Prog.run_all_cons]
  rw [Prog.run_all_nil, Prog.run_when, if_pos (by rfl)]

theorem mstStart_completes {s : State} {p : Path} {v : Word} (hr : s.reach p F.MB_MST_CTL_START.off = true) :
    Completes (.mstStart p v) s fun u =>
      u.fld F.MB_MST_CTL_TADDR = bitsOf v.toNat 0 7 ∧ u.fld F.MB_MST_CTL_TCMD = bitsOf v.toNat 8 8 ∧
      u.fld F.MB_MST_CTL_SHAPE = bitsOf v.toNat 16 3 ∧ u.fld F.MB_MST_CTL_RATE = bitsOf v.toNat 20 2 ∧ u.fld F.MB_MST_CTL_START = 0 ∧
      OnlyRegs s u [F.MB_MST_CTL_START.off, F.MB_MST_STATUS_BUSY.off, (F.LEDG_UNIT_STATE 114).off] ∧
      ((bitsOf v.toNat 20 2 = 3 ∨ 6 ≤ bitsOf v.toNat 16 3) →
        u.fld F.MB_MST_STATUS_RESULT = 8 ∧ u.fld F.MB_MST_STATUS_BUSY = s.fld F.MB_MST_STATUS_BUSY) ∧
      (¬(bitsOf v.toNat 20 2 = 3 ∨ 6 ≤ bitsOf v.toNat 16 3) → selfAddr (bitsOf v.toNat 0 7) = true →
        u.fld F.MB_MST_STATUS_RESULT = 7 ∧ u.fld F.MB_MST_STATUS_BUSY = s.fld F.MB_MST_STATUS_BUSY) ∧
      (¬(bitsOf v.toNat 20 2 = 3 ∨ 6 ≤ bitsOf v.toNat 16 3) → selfAddr (bitsOf v.toNat 0 7) = false → s.bit F.MB_MST_STATUS_BUSY = false →
        u.bit F.MB_MST_STATUS_BUSY = true ∧ u.unitState 114 = 2 ∧
        u.dev = { s.dev with svc := { s.dev.svc with mstShape := bitsOf v.toNat 16 3 } }) ∧
      (¬(bitsOf v.toNat 20 2 = 3 ∨ 6 ≤ bitsOf v.toNat 16 3) → selfAddr (bitsOf v.toNat 0 7) = false → s.bit F.MB_MST_STATUS_BUSY = true →
        u.bit F.MB_MST_STATUS_BUSY = true ∧ u.dev.svc.startWaits = true) := by
  obtain ⟨x, hx, he⟩ := mstStart_run hr v
  refine ⟨_, he, ?_⟩
  have htaddr : x.fld F.MB_MST_CTL_TADDR = bitsOf v.toNat 0 7 := hx.fields F.MB_MST_CTL_TADDR (by decide) rfl (by decide) (by decide)
  have htcmd : x.fld F.MB_MST_CTL_TCMD = bitsOf v.toNat 8 8 := hx.fields F.MB_MST_CTL_TCMD (by decide) rfl (by decide) (by decide)
  have hshape : x.fld F.MB_MST_CTL_SHAPE = bitsOf v.toNat 16 3 := hx.fields F.MB_MST_CTL_SHAPE (by decide) rfl (by decide) (by decide)
  have hrate : x.fld F.MB_MST_CTL_RATE = bitsOf v.toNat 20 2 := hx.fields F.MB_MST_CTL_RATE (by decide) rfl (by decide) (by decide)
  have hstatus : ∀ f : Fld, f.off = F.MB_MST_STATUS_BUSY.off → x.fld f = s.fld f := fun f hf => State.fld_of_word (hx.words _ (by rw [hf]; decide))
  have hbusy : x.bit F.MB_MST_STATUS_BUSY = s.bit F.MB_MST_STATUS_BUSY := congrArg (· == 1) (hstatus _ rfl)
  have hbad : x.mstBad ↔ bitsOf v.toNat 20 2 = 3 ∨ 6 ≤ bitsOf v.toNat 16 3 := by rw [State.mstBad, hrate, hshape]
  rw [← hbad, ← htaddr, ← htcmd, ← hshape, ← hrate, ← hbusy]
  have ha := startMst_run x
  have hctl : ∀ f : Fld, f.off = F.MB_MST_CTL_START.off → (startMst.run x).fld f = x.fld f := fun f hf =>
    State.fld_of_word (ha.regs.regs _ (by rw [hf]; decide))
  refine ⟨hctl _ rfl, hctl _ rfl, hctl _ rfl, hctl _ rfl, (hctl _ rfl).trans hx.shot, ⟨fun o ho => ?_, fun a => ?_, fun a => ?_⟩, fun h => ?_,
    fun h hs => ?_, fun h hs hb => ?_, fun h hs hb => ?_⟩
  · obtain ⟨h1, h2⟩ := not_or.mp (List.mem_cons.not.mp ho)
    rw [ha.regs.regs o h2, hx.words o h1]
  · rw [ha.regs.bytes, hx.mem]
  · rw [ha.regs.host, hx.host]
  · rw [startMst_bad h]
    refine ⟨Prog.fld_setF_same F.MB_MST_STATUS_RESULT 8 x (by decide), ?_⟩
    rw [Prog.fld_setF_other F.MB_MST_STATUS_RESULT F.MB_MST_STATUS_BUSY _ _ (by decide) (by decide), hstatus _ rfl]
  · rw [startMst_self h hs]
    refine ⟨Prog.fld_setF_same F.MB_MST_STATUS_RESULT 7 x (by decide), ?_⟩
    rw [Prog.fld_setF_other F.MB_MST_STATUS_RESULT F.MB_MST_STATUS_BUSY _ _ (by decide) (by decide), hstatus _ rfl]
  · have hrun := startMst_idle h hs hb
    exact ⟨hrun.busy, hrun.unit, by rw [hrun.dev, hx.dev]⟩
  · rw [startMst_waits h hs hb]
    exact ⟨hb, rfl⟩

/-! ## The end of a transaction -/

theorem mstComplete_completes {s : State} {o : MstOutcome} (hr : s.ready = true) (hb : s.bit F.MB_MST_STATUS_BUSY = true)
    (hw : s.dev.svc.startWaits = false) (ho : o.result ≤ 6) : Completes (.mstComplete o) s fun u =>
      u.bit F.MB_MST_STATUS_BUSY = false ∧ u.unitState 114 = 0 ∧ u.fld F.MB_MST_STATUS_RESULT = o.result ∧
      (o.result = 0 → s.dev.svc.mstShape = 5 → u.fld F.MB_MST_DATA_DATA = o.data % 65536) ∧
      (o.result = 0 → s.dev.svc.mstShape = 3 ∨ s.dev.svc.mstShape = 4 → u.fld F.MB_MST_DATA_DATA = o.data % 256) ∧
      (s.dev.svc.mstShape < 3 → u.fld F.MB_MST_DATA_DATA = s.fld F.MB_MST_DATA_DATA) ∧
      (o.result = 5 → Counted s u F.MB_TIMEOUTS ∧ u.dev.svc.toSeen = true) ∧
      OnlyRegs s u ([F.MB_MST_STATUS_BUSY.off, (F.LEDG_UNIT_STATE 114).off, F.MB_MST_DATA_DATA.off, F.MB_TIMEOUTS.off] ++ catchRegs) := by
  obtain ⟨hp, hh, -⟩ := ready_facts hr
  refine completes_done rfl ?_
  rw [Prog.run_when, if_pos (by rw [hb, hp, hh, ready_inRest hr]; simpa using ho), mstComplete_run, hw, Prog.run_when, if_neg Bool.false_ne_true]
  have h := mstEnd_run s.dev.svc.mstShape o s
  generalize (mstEnd s.dev.svc.mstShape o).run s = u at *
  refine ⟨h.busy, h.unit, h.result.trans (Nat.mod_eq_of_lt (by omega)), fun h0 hs => ?_, fun h0 hs => ?_, h.none,
    fun h5 => ⟨(h.timedOut h5).1, (h.timedOut h5).2.1⟩, h.regs⟩
  · rw [h.value h0 (by omega) (by omega), if_pos hs]
    rfl
  · rw [h.value h0 (by omega) (by omega), if_neg (by omega)]
    rfl

theorem mstComplete_starts {s : State} {o : MstOutcome} (hr : s.ready = true) (hb : s.bit F.MB_MST_STATUS_BUSY = true)
    (hw : s.dev.svc.startWaits = true) (ho : o.result ≤ 6) (hrate : s.fld F.MB_MST_CTL_RATE ≠ 3) (hshape : s.fld F.MB_MST_CTL_SHAPE < 6)
    (hself : selfAddr (s.fld F.MB_MST_CTL_TADDR) = false) :
    Completes (.mstComplete o) s fun u => u.bit F.MB_MST_STATUS_BUSY = true ∧ u.unitState 114 = 2 ∧ u.dev.svc.startWaits = false := by
  obtain ⟨hp, hh, hd⟩ := ready_facts hr
  refine completes_done rfl ?_
  rw [Prog.run_when, if_pos (by rw [hb, hp, hh, ready_inRest hr]; simpa using ho), mstComplete_run, hw, Prog.run_when, if_pos rfl,
    Prog.run_all_cons, Prog.run_all_cons, Prog.run_all_nil, hd, Prog.run_when, if_pos (by rfl)]
  have h := mstEnd_run s.dev.svc.mstShape o s
  generalize (mstEnd s.dev.svc.mstShape o).run s = x at *
  generalize hy : (modSvc _).run x = y
  have hwaits : y.dev.svc.startWaits = false := by rw [← hy]; rfl
  have hword : ∀ a, y.word a = x.word a := fun a => by rw [← hy]; rfl
  clear hy
  have hctl : ∀ f : Fld, f.off = F.MB_MST_CTL_START.off → y.fld f = s.fld f := fun f hf =>
    State.fld_of_word ((hword _).trans (h.regs.regs _ (by rw [hf]; decide)))
  have hbad : ¬y.mstBad := by
    rw [State.mstBad, hctl F.MB_MST_CTL_RATE rfl, hctl F.MB_MST_CTL_SHAPE rfl]
    omega
  have hrun := startMst_idle hbad (by rw [hctl F.MB_MST_CTL_TADDR rfl]; exact hself)
    ((congrArg (· == 1) (State.fld_of_word (hword _))).trans h.busy)
  exact ⟨hrun.busy, hrun.unit, by rw [hrun.dev]; exact hwaits⟩

/-! ## The poll table -/

/-- The result of poll entry `k`. -/
def State.pollResult (s : State) (k : Nat) (o : MstOutcome) : Nat :=
  if s.fld F.MB_MST_CTL_RATE = 3 ∨ s.fld (F.MB_POLL_CTL_SHAPE k) < 3 ∨ 5 < s.fld (F.MB_POLL_CTL_SHAPE k) then 8
  else if selfAddr (s.fld (F.MB_POLL_CTL_TADDR k)) then 7 else o.result

theorem State.pollResult_le {s : State} {k : Nat} {o : MstOutcome} (h : o.result ≤ 6) : s.pollResult k o ≤ 8 := by
  rw [State.pollResult]
  split
  · exact le_refl 8
  · split <;> omega

theorem State.pollResult_zero {s : State} {k : Nat} {o : MstOutcome} (h : s.pollResult k o = 0) :
    o.result = 0 ∧ 3 ≤ s.fld (F.MB_POLL_CTL_SHAPE k) ∧ s.fld (F.MB_POLL_CTL_SHAPE k) ≤ 5 := by
  rw [State.pollResult] at h
  split at h
  · cases h
  · split at h
    · cases h
    · omega

/-- What the data and the result of a poll entry leave: DATA taken, RESULT noted. -/
def pollTake (k r shape : Nat) (o : MstOutcome) : Prog :=
  all [setF (F.MB_POLL_DATA_RESULT k) r, when (r ≤ 6) (all [mstData (F.MB_POLL_DATA_DATA k) shape o, mstCatch r])]

def pollAge (k r : Nat) : Prog := if r = 0 then setF (F.MB_POLL_DATA_AGE k) 0 else addF (F.MB_POLL_DATA_AGE k) 1

/-- The failures in a row are counted, and the third is logged. -/
def pollFail (k r n : Nat) (skip : Bool) : Prog :=
  all [modSvc fun v => { v with pollFails := Sparse.put zeroNat v.pollFails k (if r = 0 then 0 else if skip then n else n + 1) },
    when (n == 2 && r != 0 && !skip) (logC 0xC008 1 114 [k, r])]

theorem pollEntry_off {s : State} {k : Nat} (h : s.bit (F.MB_POLL_CTL_EN k) = false) (o : MstOutcome) : (pollEntry k o).run s = s := by
  rw [pollEntry, Prog.run_look]
  dsimp only
  rw [h, Prog.run_when, if_neg Bool.false_ne_true]

theorem pollEntry_on {s : State} {k : Nat} (h : s.bit (F.MB_POLL_CTL_EN k) = true) (o : MstOutcome) : ∃ n skip, (pollEntry k o).run s =
    (pollFail k (s.pollResult k o) n skip).run ((pollAge k (s.pollResult k o)).run
      ((pollTake k (s.pollResult k o) (s.fld (F.MB_POLL_CTL_SHAPE k)) o).run s)) := by
  have hr : (if s.fld F.MB_MST_CTL_RATE == 3 || s.fld (F.MB_POLL_CTL_SHAPE k) < 3 || 5 < s.fld (F.MB_POLL_CTL_SHAPE k) then mstBadCfg
      else if selfAddr (s.fld (F.MB_POLL_CTL_TADDR k)) then mstSelf else o.result) = s.pollResult k o := by
    rw [State.pollResult]
    by_cases hs : s.fld F.MB_MST_CTL_RATE = 3 ∨ s.fld (F.MB_POLL_CTL_SHAPE k) < 3 ∨ 5 < s.fld (F.MB_POLL_CTL_SHAPE k)
    · rw [if_pos (by simpa [or_assoc] using hs), if_pos hs]
      rfl
    · rw [if_neg (by simpa [or_assoc] using hs), if_neg hs]
      rfl
  refine ⟨Sparse.get zeroNat s.dev.svc.pollFails k,
    s.fld F.MB_MST_CTL_RATE == 3 || s.fld (F.MB_POLL_CTL_SHAPE k) < 3 || 5 < s.fld (F.MB_POLL_CTL_SHAPE k), ?_⟩
  rw [pollEntry, Prog.run_look]
  dsimp only
  rw [hr, h, Prog.run_when, if_pos rfl]
  iterate 5 rw [Prog.run_all_cons]
  rw [Prog.run_all_nil, pollFail, pollAge, pollTake, Prog.run_all_cons, Prog.run_all_cons, Prog.run_all_nil, Prog.run_all_cons,
    Prog.run_all_cons, Prog.run_all_nil]

/-- The registers that a poll entry may touch. -/
abbrev pollBound (k : Nat) : Bound where
  dev _ _ := True
  reg o := o = (F.MB_POLL_DATA_DATA k).off ∨ o ∈ F.MB_TIMEOUTS.off :: catchRegs
  mem := False
  host := False

theorem pollBound_logs (k : Nat) : (pollBound k).Logs := ⟨fun _ _ _ _ _ => trivial, fun _ ho => .inr (List.mem_cons_of_mem _ ho)⟩

theorem mstCatch_obeys (k r : Nat) : (mstCatch r).Only (Act.obeys (pollBound k)) := by
  have hlog : ∀ code sev unit ds, (logSvc code sev unit ds).Only (Act.obeys (pollBound k)) := fun code sev unit ds =>
    (pollBound_logs k).of_logs (logSvc_onlyLogs code sev unit ds)
  rw [mstCatch]
  split
  · exact hlog _ _ _ _
  · split
    · exact hlog _ _ _ _
    · split
      · exact ⟨incF_obeys.mpr (.inr List.mem_cons_self), fun _ => trivial, hlog _ _ _ _, trivial⟩
      · trivial

theorem mstData_obeys (k shape : Nat) (o : MstOutcome) : (mstData (F.MB_POLL_DATA_DATA k) shape o).Only (Act.obeys (pollBound k)) := by
  have hset : ∀ v, (setF (F.MB_POLL_DATA_DATA k) v).Only (Act.obeys (pollBound k)) := fun v => setF_obeys.mpr (Or.inl rfl)
  refine Prog.only_when.mpr fun _ => ?_
  split
  · exact hset _
  · exact Prog.only_drawFree trivial fun _ => hset _

theorem pollAge_obeys (k r : Nat) : (pollAge k r).Only (Act.obeys (pollBound k)) := by
  have hreg : (pollBound k).reg (F.MB_POLL_DATA_AGE k).off := Or.inl rfl
  rw [pollAge]
  split
  · exact setF_obeys.mpr hreg
  · exact addF_obeys.mpr hreg

theorem pollEntry_obeys (k : Nat) (o : MstOutcome) : (pollEntry k o).Only (Act.obeys (pollBound k)) := by
  refine fun s => Prog.only_when.mpr fun _ => ⟨setF_obeys.mpr (.inl rfl), Prog.only_when.mpr fun _ => ⟨mstData_obeys k _ o, mstCatch_obeys k _, trivial⟩,
    ?_, fun _ => trivial, Prog.only_when.mpr fun _ => (pollBound_logs k).logC _ _ _ _ _, trivial⟩
  exact pollAge_obeys k _

/-- Poll entry `k` has been done. -/
structure Polled (s u : State) (k : Nat) (o : MstOutcome) : Prop where
  result : u.fld (F.MB_POLL_DATA_RESULT k) = s.pollResult k o
  age : u.fld (F.MB_POLL_DATA_AGE k) = if s.pollResult k o = 0 then 0 else min (s.fld (F.MB_POLL_DATA_AGE k) + 1) 4095
  data : s.pollResult k o = 0 → u.fld (F.MB_POLL_DATA_DATA k) = o.data % (if s.fld (F.MB_POLL_CTL_SHAPE k) = 5 then 65536 else 256)

theorem poll_off_notin {k : Nat} (hk : k < 8) : (F.MB_POLL_DATA_DATA k).off ∉ F.MB_TIMEOUTS.off :: catchRegs := by
  show 0x440144 + 8 * k ∉ _
  interval_cases k <;> decide

theorem pollTake_run {k : Nat} (hk : k < 8) {r : Nat} (hr : r ≤ 8) (shape : Nat) (o : MstOutcome) (s : State) :
    ((pollTake k r shape o).run s).fld (F.MB_POLL_DATA_RESULT k) = r ∧
    ((pollTake k r shape o).run s).fld (F.MB_POLL_DATA_AGE k) = s.fld (F.MB_POLL_DATA_AGE k) ∧
    (r = 0 → o.result = 0 → 3 ≤ shape → shape ≤ 5 →
      ((pollTake k r shape o).run s).fld (F.MB_POLL_DATA_DATA k) = o.data % 2 ^ (if shape = 5 then 16 else 8)) := by
  rw [pollTake, Prog.run_all_cons, Prog.run_all_cons, Prog.run_all_nil]
  have hres : ((setF (F.MB_POLL_DATA_RESULT k) r).run s).fld (F.MB_POLL_DATA_RESULT k) = r :=
    (Prog.fld_setF_same (F.MB_POLL_DATA_RESULT k) r s (by decide : (16 : ℕ) + 4 ≤ 32)).trans (Nat.mod_eq_of_lt (by show r < 16; omega))
  have hage : ((setF (F.MB_POLL_DATA_RESULT k) r).run s).fld (F.MB_POLL_DATA_AGE k) = s.fld (F.MB_POLL_DATA_AGE k) :=
    Prog.fld_setF_other (F.MB_POLL_DATA_RESULT k) (F.MB_POLL_DATA_AGE k) r s (by decide : (20 : ℕ) + 12 ≤ 32)
      (.inr (.inr (by decide : (16 : ℕ) + 4 ≤ 20)))
  generalize (setF (F.MB_POLL_DATA_RESULT k) r).run s = x at *
  rw [Prog.run_when]
  split
  · rw [Prog.run_all_cons, Prog.run_all_cons, Prog.run_all_nil]
    have hfill := mstData_run (f := F.MB_POLL_DATA_DATA k) rfl (by decide : (0 : ℕ) + 16 ≤ 32) shape o x
    generalize (mstData (F.MB_POLL_DATA_DATA k) shape o).run x = y at *
    have hcatch := mstCatch_run r y
    generalize (mstCatch r).run y = u at *
    have hfld : ∀ f : Fld, f.off = (F.MB_POLL_DATA_DATA k).off → u.fld f = y.fld f := fun f hf =>
      State.fld_of_word (hcatch.regs.regs _ (by rw [hf]; exact poll_off_notin hk))
    refine ⟨?_, ?_, fun _ h0 h3 h5 => (hfld _ rfl).trans (hfill.value h0 h3 h5)⟩
    · exact (hfld (F.MB_POLL_DATA_RESULT k) rfl).trans ((hfill.others (F.MB_POLL_DATA_RESULT k) (by decide : (16 : ℕ) + 4 ≤ 32)
        (.inr (.inr (by decide : (0 : ℕ) + 16 ≤ 16)))).trans hres)
    · exact (hfld (F.MB_POLL_DATA_AGE k) rfl).trans ((hfill.others (F.MB_POLL_DATA_AGE k) (by decide : (20 : ℕ) + 12 ≤ 32)
        (.inr (.inr (by decide : (0 : ℕ) + 16 ≤ 20)))).trans hage)
  · rename_i h
    exact ⟨hres, hage, fun h0 => absurd (decide_eq_true (by omega)) h⟩

theorem pollAge_run (k r : Nat) (x : State) :
    ((pollAge k r).run x).fld (F.MB_POLL_DATA_AGE k) = (if r = 0 then 0 else min (x.fld (F.MB_POLL_DATA_AGE k) + 1) 4095) ∧
    (∀ f : Fld, f.off = (F.MB_POLL_DATA_DATA k).off → f.lo + f.w ≤ 20 → ((pollAge k r).run x).fld f = x.fld f) := by
  have hother : ∀ v (f : Fld), f.off = (F.MB_POLL_DATA_DATA k).off → f.lo + f.w ≤ 20 →
      ((setF (F.MB_POLL_DATA_AGE k) v).run x).fld f = x.fld f := fun v f _ hf =>
    Prog.fld_setF_other (F.MB_POLL_DATA_AGE k) f v x (by omega) (.inr (.inl hf))
  rw [pollAge]
  split
  · exact ⟨Prog.fld_setF_same (F.MB_POLL_DATA_AGE k) 0 x (by decide : (20 : ℕ) + 12 ≤ 32), hother 0⟩
  · exact ⟨Prog.fld_incF (F.MB_POLL_DATA_AGE k) x (by decide : (20 : ℕ) + 12 ≤ 32), hother _⟩

theorem pollFail_word {k r n a : Nat} {skip : Bool} (ha : a ∉ catchRegs) (x : State) : ((pollFail k r n skip).run x).word a = x.word a := by
  rw [pollFail, Prog.run_all_cons, Prog.run_all_cons, Prog.run_all_nil, Prog.run_when]
  split
  · exact (logC_run_onlyLogs _ _ _ _ _ _).regs a ha
  · rfl

theorem pollEntry_run {s : State} {k : Nat} (hk : k < 8) (h : s.bit (F.MB_POLL_CTL_EN k) = true) {o : MstOutcome} (ho : o.result ≤ 6) :
    Polled s ((pollEntry k o).run s) k o := by
  obtain ⟨n, skip, hrun⟩ := pollEntry_on h o
  obtain ⟨hres, hage, hdata⟩ := pollTake_run hk (State.pollResult_le (s := s) (k := k) ho) (s.fld (F.MB_POLL_CTL_SHAPE k)) o s
  rw [hrun]
  generalize (pollTake k _ _ o).run s = x at *
  obtain ⟨hage', hother⟩ := pollAge_run k (s.pollResult k o) x
  generalize (pollAge k (s.pollResult k o)).run x = y at *
  have hfld : ∀ f : Fld, f.off = (F.MB_POLL_DATA_DATA k).off → ((pollFail k (s.pollResult k o) n skip).run y).fld f = y.fld f := fun f hf =>
    State.fld_of_word (pollFail_word (by rw [hf]; exact (not_or.mp (List.mem_cons.not.mp (poll_off_notin hk))).2) y)
  refine ⟨?_, ?_, fun h0 => ?_⟩
  · rw [hfld (F.MB_POLL_DATA_RESULT k) rfl, hother (F.MB_POLL_DATA_RESULT k) rfl (by decide : (16 : ℕ) + 4 ≤ 20), hres]
  · rw [hfld (F.MB_POLL_DATA_AGE k) rfl, hage', hage]
  · obtain ⟨hr, h3, h5⟩ := State.pollResult_zero h0
    rw [hfld (F.MB_POLL_DATA_DATA k) rfl, hother (F.MB_POLL_DATA_DATA k) rfl (by decide : (0 : ℕ) + 16 ≤ 20), hdata h0 hr h3 h5]
    split <;> rfl

/-- What a poll entry reads of the registers and what it leaves of its own data. -/
structure PollAlike (s x : State) (k : Nat) : Prop where
  rate : x.word F.MB_MST_CTL_RATE.off = s.word F.MB_MST_CTL_RATE.off
  ctl : x.word (F.MB_POLL_CTL_EN k).off = s.word (F.MB_POLL_CTL_EN k).off
  data : x.word (F.MB_POLL_DATA_DATA k).off = s.word (F.MB_POLL_DATA_DATA k).off

theorem PollAlike.pollResult {s x : State} {k : Nat} (h : PollAlike s x k) (o : MstOutcome) : x.pollResult k o = s.pollResult k o := by
  have hc : ∀ f : Fld, f.off = (F.MB_POLL_CTL_EN k).off → x.fld f = s.fld f := fun f hf => State.fld_of_word (by rw [hf]; exact h.ctl)
  rw [State.pollResult, State.pollResult, State.fld_of_word (f := F.MB_MST_CTL_RATE) h.rate, hc (F.MB_POLL_CTL_SHAPE k) rfl,
    hc (F.MB_POLL_CTL_TADDR k) rfl]

theorem Polled.of_alike {s x u : State} {k : Nat} {o : MstOutcome} (h : PollAlike s x k) (hp : Polled x u k o) : Polled s u k o := by
  have hc : x.fld (F.MB_POLL_CTL_SHAPE k) = s.fld (F.MB_POLL_CTL_SHAPE k) := State.fld_of_word h.ctl
  have ha : x.fld (F.MB_POLL_DATA_AGE k) = s.fld (F.MB_POLL_DATA_AGE k) := State.fld_of_word h.data
  refine ⟨by rw [hp.result, h.pollResult], by rw [hp.age, h.pollResult, ha], fun h0 => ?_⟩
  rw [hp.data (by rw [h.pollResult]; exact h0), hc]

theorem Polled.of_word {s x u : State} {k : Nat} {o : MstOutcome} (hp : Polled s x k o)
    (hw : u.word (F.MB_POLL_DATA_DATA k).off = x.word (F.MB_POLL_DATA_DATA k).off) : Polled s u k o := by
  have hf : ∀ f : Fld, f.off = (F.MB_POLL_DATA_DATA k).off → u.fld f = x.fld f := fun f hf => State.fld_of_word (by rw [hf]; exact hw)
  exact ⟨(hf (F.MB_POLL_DATA_RESULT k) rfl).trans hp.result, (hf (F.MB_POLL_DATA_AGE k) rfl).trans hp.age,
    fun h => (hf (F.MB_POLL_DATA_DATA k) rfl).trans (hp.data h)⟩

theorem pollEntry_word {j a : Nat} (ha : a ≠ (F.MB_POLL_DATA_DATA j).off) (hc : a ∉ F.MB_TIMEOUTS.off :: catchRegs) (o : MstOutcome) (x : State) :
    ((pollEntry j o).run x).word a = x.word a := (pollEntry_obeys j o).words (not_or.mpr ⟨ha, hc⟩) x

theorem pollEntry_alike {j k : Nat} (hjk : j ≠ k) (hk : k < 8) (o : MstOutcome) (x : State) : PollAlike x ((pollEntry j o).run x) k := by
  refine ⟨pollEntry_word (by show 0x440100 ≠ 0x440144 + 8 * j; omega) (by decide) o x, ?_, ?_⟩
  · refine pollEntry_word (by show 0x440140 + 8 * k ≠ 0x440144 + 8 * j; omega) ?_ o x
    show 0x440140 + 8 * k ∉ _
    interval_cases k <;> decide
  · exact pollEntry_word (by show 0x440144 + 8 * k ≠ 0x440144 + 8 * j; omega) (poll_off_notin hk) o x

/-- What the poll table's period says of entry `k`. -/
structure PollRun (s u : State) (k : Nat) (o : MstOutcome) : Prop where
  off : s.bit (F.MB_POLL_CTL_EN k) = false → u.word (F.MB_POLL_DATA_DATA k).off = s.word (F.MB_POLL_DATA_DATA k).off
  on : s.bit (F.MB_POLL_CTL_EN k) = true → Polled s u k o

theorem pollEntries_run {f : Nat → MstOutcome} (hf : ∀ k, (f k).result ≤ 6) {l : List Nat} (hl : l.Nodup) (h8 : ∀ k ∈ l, k < 8) (s : State) :
    ∀ k ∈ l, PollRun s ((each l fun k => pollEntry k (f k)).run s) k (f k) := by
  induction l generalizing s with
  | nil => simp
  | cons j l ih =>
    obtain ⟨hj, hnd⟩ := List.nodup_cons.mp hl
    intro k hk
    rw [Prog.run_each_cons]
    rcases List.mem_cons.mp hk with rfl | hk
    · have hk8 := h8 k List.mem_cons_self
      have hstay : ∀ x : State, ((each l fun k => pollEntry k (f k)).run x).word (F.MB_POLL_DATA_DATA k).off =
          x.word (F.MB_POLL_DATA_DATA k).off := fun x =>
        Prog.run_each_keeps (P := fun z => z.word (F.MB_POLL_DATA_DATA k).off = x.word (F.MB_POLL_DATA_DATA k).off) (fun y hy z hz => by
          refine (pollEntry_word (fun h => hj ?_) (poll_off_notin hk8) _ z).trans hz
          have : k = y := by
            have : 0x440144 + 8 * k = 0x440144 + 8 * y := h
            omega
          exact this ▸ hy) x rfl
      exact ⟨fun h => by rw [hstay, pollEntry_off h], fun h => (pollEntry_run hk8 h (hf k)).of_word (hstay _)⟩
    · have hjk : j ≠ k := fun h => hj (h ▸ hk)
      have ha := pollEntry_alike hjk (h8 k (List.mem_cons_of_mem _ hk)) (f j) s
      have hrest := ih hnd (fun k hk => h8 k (List.mem_cons_of_mem _ hk)) ((pollEntry j (f j)).run s) k hk
      have hen : ((pollEntry j (f j)).run s).bit (F.MB_POLL_CTL_EN k) = s.bit (F.MB_POLL_CTL_EN k) :=
        congrArg (· == 1) (State.fld_of_word (f := F.MB_POLL_CTL_EN k) ha.ctl)
      exact ⟨fun h => (hrest.off (hen.trans h)).trans ha.data, fun h => (hrest.on (hen.trans h)).of_alike ha⟩

theorem pollPeriod_completes {s : State} {res : List MstOutcome} (hr : s.ready = true) (hd : s.pollDue = true)
    (hb : s.bit F.MB_MST_STATUS_BUSY = false) (ho : ∀ o ∈ res, o.result ≤ 6) :
    Completes (.pollPeriod res) s fun u => ∀ k, k < 8 → PollRun s u k (res.getD k ⟨1, 0⟩) ∧
      OnlyRegs s u (((List.range 8).map fun j => (F.MB_POLL_DATA_DATA j).off) ++ F.MB_TIMEOUTS.off :: catchRegs) := by
  refine completes_done rfl ?_
  have hall : (res.all fun o => decide (o.result ≤ 6)) = true := List.all_eq_true.mpr fun o h => decide_eq_true (ho o h)
  rw [hr, hd, hb, hall, Prog.run_when, if_pos (by rfl), Prog.run_all_cons, Prog.run_all_cons, Prog.run_all_nil]
  generalize hx : (modSvc _).run s = x
  have hword : ∀ a, x.word a = s.word a := fun a => by rw [← hx]; rfl
  have hmem : x.mem = s.mem := by rw [← hx]; rfl
  have hhost : x.host = s.host := by rw [← hx]; rfl
  clear hx
  have hres : ∀ k, (res.getD k ⟨1, 0⟩).result ≤ 6 := fun k => by
    rw [List.getD_eq_getElem?_getD]
    cases h : res[k]? with
    | none => exact (by decide : 1 ≤ 6)
    | some o => exact ho o (List.mem_of_getElem? h)
  have hobeys : (each (List.range 8) fun k => pollEntry k (res.getD k ⟨1, 0⟩)).Only
      (Act.obeys (.quiet (((List.range 8).map fun j => (F.MB_POLL_DATA_DATA j).off) ++ F.MB_TIMEOUTS.off :: catchRegs))) := by
    refine Prog.only_each.mpr fun k hk => (pollEntry_obeys k _).mono fun a ha => ?_
    cases a with
    | dev f => exact fun _ => trivial
    | reg o v =>
      rcases ha with h | h
      · exact List.mem_append_left _ (List.mem_map.mpr ⟨k, hk, h.symm⟩)
      · exact List.mem_append_right _ h
    | _ => exact ha
  obtain ⟨hregs, hbytes, hhosts⟩ := hobeys.sameRegs_of_quiet x
  intro k hk
  have hrun := pollEntries_run (f := fun k => res.getD k ⟨1, 0⟩) hres List.nodup_range (fun k hk => List.mem_range.mp hk) x k (List.mem_range.mpr hk)
  have hen : x.bit (F.MB_POLL_CTL_EN k) = s.bit (F.MB_POLL_CTL_EN k) := congrArg (· == 1) (State.fld_of_word (hword _))
  exact ⟨⟨fun h => (hrun.off (hen.trans h)).trans (hword _), fun h => (hrun.on (hen.trans h)).of_alike ⟨hword _, hword _, hword _⟩⟩,
    fun a ha => (hregs a ha).trans (hword a), fun a => (hbytes a).trans (by rw [hmem]), fun a => (hhosts a).trans (by rw [hhost])⟩

/-! ## Flash commands -/

/-- What GO starts. -/
def qspiGo : Prog :=
  look fun s =>
    if s.flashBusy then all [setF F.QSPI_STATUS_ERR 1, logSvc 0xC013 0 127 []]
    else when (!s.bit F.QSPI_STATUS_BUSY)
      (all [setF F.QSPI_STATUS_BUSY 1, modSvc fun x => { x with qspiCmd := (s.word F.QSPI_CMD_GO.off).toNat }])

theorem qspiCmd_run {s : State} {p : Path} (hr : s.reach p F.QSPI_CMD_GO.off = true) (v : Word) :
    ∃ x, ShotWritten s x F.QSPI_CMD_GO v.toNat ∧ exec (.qspiCmd p v) s = .next (qspiGo.run x) := by
  refine ⟨_, shotWritten_run (g := F.QSPI_CMD_GO) rfl (by decide) v.toNat s, ?_⟩
  have hb : bitsOf (setBits v.toNat 31 1 1) 31 1 = 1 := by
    rw [bitsOf_setBits_same]
    rfl
  show done (writing p F.QSPI_CMD_GO.off (writeQspiCmd (setBits v.toNat 31 1 1))) s = _
  rw [done_eq, writing_run_of_reach hr (by decide), writeQspiCmd, hb]
  iterate 3 rw [Prog.run_all_cons]
  rw [Prog.run_all_nil, Prog.run_when, if_pos (by rfl), qspiGo]

theorem qspiCmd_completes {s : State} {p : Path} {v : Word} (hr : s.reach p F.QSPI_CMD_GO.off = true) : Completes (.qspiCmd p v) s fun u =>
      (∀ f ∈ [F.QSPI_CMD_OPC, F.QSPI_CMD_ADDRLEN, F.QSPI_CMD_LINES, F.QSPI_CMD_DUMMY, F.QSPI_CMD_WRITE, F.QSPI_CMD_LEN],
        u.fld f = bitsOf v.toNat f.lo f.w) ∧ u.fld F.QSPI_CMD_GO = 0 ∧
      (s.flashBusy = false → u.bit F.QSPI_STATUS_BUSY = true ∧ u.fld F.QSPI_STATUS_ERR = s.fld F.QSPI_STATUS_ERR ∧
        u.dev = if s.bit F.QSPI_STATUS_BUSY then s.dev
          else { s.dev with svc := { s.dev.svc with qspiCmd := (u.word F.QSPI_CMD_GO.off).toNat } }) ∧
      (s.flashBusy = true → u.bit F.QSPI_STATUS_ERR = true ∧ u.fld F.QSPI_STATUS_BUSY = s.fld F.QSPI_STATUS_BUSY) ∧
      OnlyRegs s u (F.QSPI_CMD_GO.off :: F.QSPI_STATUS_BUSY.off :: catchRegs) := by
  obtain ⟨x, hx, he⟩ := qspiCmd_run hr v
  refine ⟨_, he, ?_⟩
  rw [qspiGo, Prog.run_look]
  have hfields : ∀ f ∈ [F.QSPI_CMD_OPC, F.QSPI_CMD_ADDRLEN, F.QSPI_CMD_LINES, F.QSPI_CMD_DUMMY, F.QSPI_CMD_WRITE, F.QSPI_CMD_LEN],
      x.fld f = bitsOf v.toNat f.lo f.w ∧ f.off = F.QSPI_CMD_GO.off := by
    intro f hf
    have hall : f.plainRw = true ∧ f.off = F.QSPI_CMD_GO.off ∧ f.lo + f.w ≤ 32 ∧ (f.lo + f.w ≤ F.QSPI_CMD_GO.lo ∨ F.QSPI_CMD_GO.lo + 1 ≤ f.lo) := by
      simp only [List.mem_cons, List.not_mem_nil, or_false] at hf
      rcases hf with rfl | rfl | rfl | rfl | rfl | rfl <;> decide
    exact ⟨hx.fields f hall.1 hall.2.1 hall.2.2.1 hall.2.2.2, hall.2.1⟩
  have hword : ∀ f : Fld, f.off ≠ F.QSPI_CMD_GO.off → x.fld f = s.fld f := fun f hf => State.fld_of_word (hx.words _ hf)
  have hbusy : x.bit F.QSPI_STATUS_BUSY = s.bit F.QSPI_STATUS_BUSY := congrArg (· == 1) (hword _ (by decide))
  have hflash : x.flashBusy = s.flashBusy := by
    rw [State.flashBusy, State.flashBusy, hword F.IMG_STATUS_CHUCK (by decide), hword F.IMG_STATUS_SRC (by decide)]
  rw [hflash]
  by_cases hf : s.flashBusy = true
  · rw [if_pos hf, Prog.run_all_cons, Prog.run_all_cons, Prog.run_all_nil]
    have herr : ((setF F.QSPI_STATUS_ERR 1).run x).fld F.QSPI_STATUS_ERR = 1 := Prog.fld_setF_same F.QSPI_STATUS_ERR 1 x (by decide)
    have hkeep : ((setF F.QSPI_STATUS_ERR 1).run x).fld F.QSPI_STATUS_BUSY = x.fld F.QSPI_STATUS_BUSY :=
      Prog.fld_setF_other F.QSPI_STATUS_ERR F.QSPI_STATUS_BUSY _ _ (by decide) (by decide)
    have hset : ∀ o, o ≠ F.QSPI_STATUS_BUSY.off → ((setF F.QSPI_STATUS_ERR 1).run x).word o = x.word o := fun o ho =>
      (Prog.only_setF fun _ e => ho e.symm : (setF F.QSPI_STATUS_ERR 1).Only (Act.sparesReg o)).word x
    have hm : ((setF F.QSPI_STATUS_ERR 1).run x).mem = x.mem := rfl
    have hh : ((setF F.QSPI_STATUS_ERR 1).run x).host = x.host := rfl
    generalize (setF F.QSPI_STATUS_ERR 1).run x = y at *
    have hlog := (logSvc_onlyLogs 0xC013 0 127 []).onlyLogs y
    generalize (logSvc 0xC013 0 127 []).run y = u at *
    have hctl : ∀ f : Fld, f.off = F.QSPI_CMD_GO.off → u.fld f = x.fld f := fun f hf =>
      (hlog.fld (by rw [hf]; decide)).trans (State.fld_of_word (hset _ (by rw [hf]; decide)))
    refine ⟨fun f h => (hctl f (hfields f h).2).trans (hfields f h).1, (hctl _ rfl).trans hx.shot, fun h => absurd hf (by rw [h]; decide), fun _ => ⟨?_, ?_⟩,
      fun o ho => ?_, fun a => by rw [hlog.mem, hm, hx.mem], fun a => by rw [hlog.host, hh, hx.host]⟩
    · rw [State.bit, hlog.fld (by decide), herr]
      rfl
    · rw [hlog.fld (by decide), hkeep, hword _ (by decide)]
    · obtain ⟨h1, h2⟩ := not_or.mp (List.mem_cons.not.mp ho)
      obtain ⟨h2, h3⟩ := not_or.mp (List.mem_cons.not.mp h2)
      rw [hlog.regs o h3, hset o h2, hx.words o h1]
  · rw [if_neg hf, Prog.run_when, hbusy]
    cases hs : s.bit F.QSPI_STATUS_BUSY with
    | true =>
      rw [if_neg (by simp)]
      refine ⟨fun f h => (hfields f h).1, hx.shot, fun _ => ⟨hbusy.trans hs, hword _ (by decide), by rw [if_pos rfl, hx.dev]⟩, fun h => absurd h hf,
        fun o ho => hx.words o (fun h => ho (by simp [h])), fun a => by rw [hx.mem], fun a => by rw [hx.host]⟩
    | false =>
      rw [if_pos (by simp), Prog.run_all_cons, Prog.run_all_cons, Prog.run_all_nil]
      have hset : ∀ o, o ≠ F.QSPI_STATUS_BUSY.off → ((setF F.QSPI_STATUS_BUSY 1).run x).word o = x.word o := fun o ho =>
        (Prog.only_setF fun _ e => ho e.symm : (setF F.QSPI_STATUS_BUSY 1).Only (Act.sparesReg o)).word x
      have hctl : ∀ f : Fld, f.off = F.QSPI_CMD_GO.off → ((setF F.QSPI_STATUS_BUSY 1).run x).fld f = x.fld f := fun f hf =>
        State.fld_of_word (hset _ (by rw [hf]; decide))
      refine ⟨fun f h => (hctl f (hfields f h).2).trans (hfields f h).1, (hctl _ rfl).trans hx.shot, fun _ => ⟨?_, ?_, ?_⟩, fun h => absurd h hf,
        fun o ho => ?_, fun a => congrArg (·.read a) hx.mem, fun a => congrArg (·.read a) hx.host⟩
      · exact congrArg (· == 1) (Prog.fld_setF_same F.QSPI_STATUS_BUSY 1 x (by decide))
      · exact (Prog.fld_setF_other F.QSPI_STATUS_BUSY F.QSPI_STATUS_ERR _ x (by decide) (by decide)).trans (hword _ (by decide))
      · rw [if_neg (by simp)]
        show ({ x.dev with svc := { x.dev.svc with qspiCmd := (x.word F.QSPI_CMD_GO.off).toNat } } : Dev) =
          { s.dev with svc := { s.dev.svc with qspiCmd := (((setF F.QSPI_STATUS_BUSY 1).run x).word F.QSPI_CMD_GO.off).toNat } }
        rw [hset _ (by decide), hx.dev]
      · obtain ⟨h1, h2⟩ := not_or.mp (List.mem_cons.not.mp ho)
        exact (hset o (fun h => h2 (by simp [h]))).trans (hx.words o h1)

/-- Bytes that lie in different places of the data window. -/
theorem qspiByte_apart {i j : Nat} (h : i ≠ j) : (qspiByte i).off ≠ (qspiByte j).off ∨ (qspiByte i).lo + (qspiByte i).w ≤ (qspiByte j).lo ∨
    (qspiByte j).lo + (qspiByte j).w ≤ (qspiByte i).lo := by
  show 0x451100 + 4 * (i / 4) ≠ 0x451100 + 4 * (j / 4) ∨ 8 * (i % 4) + 8 ≤ 8 * (j % 4) ∨ 8 * (j % 4) + 8 ≤ 8 * (i % 4)
  omega

theorem qspiByte_fits (i : Nat) : (qspiByte i).lo + (qspiByte i).w ≤ 32 := by
  show 8 * (i % 4) + 8 ≤ 32
  omega

/-- What a flash command read is put into the data window. -/
def qspiFill (bs : List Byte) : Prog := each bs.zipIdx fun x => setF (qspiByte x.2) x.1.toNat

theorem qspiFill_set (bs : List Byte) (s : State) {i : Nat} (h : i < bs.length) :
    ((qspiFill bs).run s).fld (qspiByte i) = (bs.getD i 0).toNat := by
  have hmem : ((bs[i]'h), i) ∈ bs.zipIdx := List.mem_zipIdx_iff_getElem?.mpr (List.getElem?_eq_getElem h)
  have hrun := Prog.run_each_establishes (l := bs.zipIdx) (f := fun x => setF (qspiByte x.2) x.1.toNat)
    (P := fun x u => u.fld (qspiByte x.2) = x.1.toNat)
    (fun x _ u => (Prog.fld_setF_same (qspiByte x.2) _ u (qspiByte_fits _)).trans (Nat.mod_eq_of_lt x.1.isLt))
    (fun x hx y hy u hu => by
      by_cases hxy : x.2 = y.2
      · have h1 := List.mem_zipIdx_iff_getElem?.mp hx
        have h2 := List.mem_zipIdx_iff_getElem?.mp hy
        rw [hxy, h2] at h1
        rw [hxy, ← Option.some.inj h1]
        exact (Prog.fld_setF_same (qspiByte y.2) _ u (qspiByte_fits _)).trans (Nat.mod_eq_of_lt y.1.isLt)
      · exact (Prog.fld_setF_other (qspiByte y.2) (qspiByte x.2) _ u (qspiByte_fits _) (qspiByte_apart hxy)).trans hu) s _ hmem
  rw [qspiFill, hrun, List.getD_eq_getElem?_getD, List.getElem?_eq_getElem h]
  rfl

theorem qspiFill_kept (bs : List Byte) (s : State) {i : Nat} (h : bs.length ≤ i) :
    ((qspiFill bs).run s).fld (qspiByte i) = s.fld (qspiByte i) := by
  refine Prog.run_each_keeps (P := fun u => u.fld (qspiByte i) = s.fld (qspiByte i)) (fun y hy u hu => ?_) s rfl
  have hlt := (List.getElem?_eq_some_iff.mp (List.mem_zipIdx_iff_getElem?.mp hy)).1
  exact (Prog.fld_setF_other (qspiByte y.2) (qspiByte i) _ u (qspiByte_fits _) (qspiByte_apart (by omega))).trans hu

theorem qspiFill_obeys {bs : List Byte} (h : bs.length ≤ 256) :
    (qspiFill bs).Only (Act.obeys (.quiet ((List.range 64).map fun i => (F.QSPI_BUF i).off))) := by
  refine Prog.only_each.mpr fun y hy => setF_obeys.mpr ?_
  have hlt := (List.getElem?_eq_some_iff.mp (List.mem_zipIdx_iff_getElem?.mp hy)).1
  exact List.mem_map.mpr ⟨y.2 / 4, List.mem_range.mpr (by omega), rfl⟩

theorem qspiFill_dev (bs : List Byte) (s : State) : ((qspiFill bs).run s).dev = s.dev :=
  Prog.run_each_keeps (f := fun x : Byte × Nat => setF (qspiByte x.2) x.1.toNat) (P := fun u => u.dev = s.dev) (fun _ _ _ h => h) s rfl

/-- The bytes that a flash command which has ended brings. -/
def State.qspiGot (s : State) (ok : Bool) (data : List Byte) : List Byte :=
  if ok && bitsOf s.dev.svc.qspiCmd 18 1 == 0 then data.take (min 256 (bitsOf s.dev.svc.qspiCmd 19 9)) else []

/-- The flash command's status as it ends. -/
def qspiNote (ok : Bool) : Prog := all [setF F.QSPI_STATUS_BUSY 0, if ok then setF F.QSPI_STATUS_DONE 1 else setF F.QSPI_STATUS_ERR 1]

theorem qspiDone_run (ok : Bool) (data : List Byte) (s : State) :
    (qspiDone ok data).run s = (qspiFill (s.qspiGot ok data)).run ((qspiNote ok).run s) := by
  rw [qspiDone, Prog.run_look, Prog.run_all_cons, Prog.run_all_cons, Prog.run_all_nil, qspiNote, Prog.run_all_cons, Prog.run_all_cons, Prog.run_all_nil]
  cases ok with
  | false => rfl
  | true =>
    rw [if_pos rfl, if_pos rfl, Prog.run_all_cons, Prog.run_all_cons, Prog.run_all_nil, Prog.run_when, State.qspiGot, Bool.true_and]
    split <;> rfl

theorem qspiNote_run (ok : Bool) (s : State) : ((qspiNote ok).run s).fld F.QSPI_STATUS_BUSY = 0 ∧
    (ok = true → ((qspiNote ok).run s).fld F.QSPI_STATUS_DONE = 1) ∧ (ok = false → ((qspiNote ok).run s).fld F.QSPI_STATUS_ERR = 1) ∧
    ((qspiNote ok).run s).dev = s.dev ∧ ((qspiNote ok).run s).mem = s.mem ∧ ((qspiNote ok).run s).host = s.host ∧
    (∀ o, o ≠ F.QSPI_STATUS_BUSY.off → ((qspiNote ok).run s).word o = s.word o) := by
  rw [qspiNote, Prog.run_all_cons, Prog.run_all_cons, Prog.run_all_nil]
  have hbusy : ((setF F.QSPI_STATUS_BUSY 0).run s).fld F.QSPI_STATUS_BUSY = 0 := Prog.fld_setF_same F.QSPI_STATUS_BUSY 0 s (by decide)
  have hword : ∀ (f : Fld) v x o, f.off = F.QSPI_STATUS_BUSY.off → o ≠ F.QSPI_STATUS_BUSY.off → ((setF f v).run x).word o = x.word o :=
    fun f v x o hf ho => (Prog.only_setF fun _ e => ho (e.symm.trans hf) : (setF f v).Only (Act.sparesReg o)).word x
  cases ok with
  | true =>
    refine ⟨?_, fun _ => Prog.fld_setF_same F.QSPI_STATUS_DONE 1 _ (by decide), (by cases ·), rfl, rfl, rfl, fun o ho => ?_⟩
    · rw [if_pos rfl, Prog.fld_setF_other F.QSPI_STATUS_DONE F.QSPI_STATUS_BUSY _ _ (by decide) (by decide), hbusy]
    · rw [if_pos rfl, hword F.QSPI_STATUS_DONE _ _ o rfl ho, hword F.QSPI_STATUS_BUSY _ _ o rfl ho]
  | false =>
    refine ⟨?_, (by cases ·), fun _ => Prog.fld_setF_same F.QSPI_STATUS_ERR 1 _ (by decide), rfl, rfl, rfl, fun o ho => ?_⟩
    · rw [if_neg Bool.false_ne_true, Prog.fld_setF_other F.QSPI_STATUS_ERR F.QSPI_STATUS_BUSY _ _ (by decide) (by decide), hbusy]
    · rw [if_neg Bool.false_ne_true, hword F.QSPI_STATUS_ERR _ _ o rfl ho, hword F.QSPI_STATUS_BUSY _ _ o rfl ho]

theorem qspiCmdDone_completes {s : State} {ok : Bool} {data : List Byte} (hr : s.ready = true) (hb : s.bit F.QSPI_STATUS_BUSY = true) :
    let n := if ok && bitsOf s.dev.svc.qspiCmd 18 1 == 0 then min data.length (min 256 (bitsOf s.dev.svc.qspiCmd 19 9)) else 0
    Completes (.qspiCmdDone ok data) s fun u => u.bit F.QSPI_STATUS_BUSY = false ∧
      (ok = true → u.bit F.QSPI_STATUS_DONE = true) ∧ (ok = false → u.bit F.QSPI_STATUS_ERR = true) ∧
      (∀ i, i < n → u.fld (qspiByte i) = (data.getD i 0).toNat) ∧ (∀ i, n ≤ i → i < 256 → u.fld (qspiByte i) = s.fld (qspiByte i)) ∧
      u.dev = s.dev ∧ OnlyRegs s u (F.QSPI_STATUS_BUSY.off :: (List.range 64).map fun i => (F.QSPI_BUF i).off) := by
  intro n
  have hn : (s.qspiGot ok data).length = n := by
    show _ = if _ then _ else _
    rw [State.qspiGot]
    split
    · rw [List.length_take, Nat.min_comm]
    · rfl
  have hn256 : n ≤ 256 := by
    show (if _ then min data.length (min 256 (bitsOf s.dev.svc.qspiCmd 19 9)) else 0) ≤ 256
    split
    · exact (min_le_right _ _).trans (min_le_left _ _)
    · exact Nat.zero_le _
  have hget : ∀ i, i < n → (s.qspiGot ok data).getD i 0 = data.getD i 0 := fun i hi => by
    rw [← hn] at hi
    rw [State.qspiGot] at hi ⊢
    split at hi
    · rw [List.length_take] at hi
      rw [if_pos ‹_›, List.getD_eq_getElem?_getD, List.getElem?_take_of_lt (by omega), List.getD_eq_getElem?_getD]
    · exact absurd hi (Nat.not_lt_zero i)
  refine completes_done rfl ?_
  rw [hr, hb, Prog.run_when, if_pos (by rfl), qspiDone_run]
  obtain ⟨hbusy, hdone, herr, hdev, hmem, hhost, hword⟩ := qspiNote_run ok s
  generalize (qspiNote ok).run s = x at *
  obtain ⟨hregs, hbytes, hhosts⟩ := (qspiFill_obeys (by omega) : (qspiFill (s.qspiGot ok data)).Only _).sameRegs_of_quiet x
  have hset := fun i hi => qspiFill_set (s.qspiGot ok data) x (i := i) hi
  have hkept := fun i hi => qspiFill_kept (s.qspiGot ok data) x (i := i) hi
  have hd := qspiFill_dev (s.qspiGot ok data) x
  generalize (qspiFill (s.qspiGot ok data)).run x = u at *
  have hstat : ∀ f : Fld, f.off = F.QSPI_STATUS_BUSY.off → u.fld f = x.fld f := fun f hf =>
    State.fld_of_word (hregs _ (by
      rw [hf]
      intro h
      obtain ⟨i, -, hi⟩ := List.mem_map.mp h
      have : 0x451100 + 4 * i = 0x451000 := hi
      omega))
  refine ⟨?_, fun h => ?_, fun h => ?_, fun i hi => ?_, fun i hi _ => ?_, hd.trans hdev, fun o ho => ?_, fun a => (hbytes a).trans (by rw [hmem]),
    fun a => (hhosts a).trans (by rw [hhost])⟩
  · rw [State.bit, hstat F.QSPI_STATUS_BUSY rfl, hbusy]
    rfl
  · rw [State.bit, hstat F.QSPI_STATUS_DONE rfl, hdone h]
    rfl
  · rw [State.bit, hstat F.QSPI_STATUS_ERR rfl, herr h]
    rfl
  · rw [hset i (by omega), hget i hi]
  · rw [hkept i (by omega)]
    refine State.fld_of_word (hword _ ?_)
    show 0x451100 + 4 * (i / 4) ≠ 0x451000
    omega
  · obtain ⟨h1, h2⟩ := not_or.mp (List.mem_cons.not.mp ho)
    rw [hregs o h2, hword o h1]

/-- Settles O50: one lemma for each command of controller mode and of the flash master. -/
theorem controllerAndFlash : Obligations.ControllerAndFlash :=
  ⟨fun _ _ _ => mstStart_completes, fun _ _ => mstComplete_completes, fun _ _ => mstComplete_starts,
    fun _ _ hr hd hb ho => by
      obtain ⟨u, hu, h⟩ := pollPeriod_completes hr hd hb ho
      refine ⟨u, hu, fun k hk => ?_⟩
      obtain ⟨hrun, hregs⟩ := h k hk
      exact ⟨hrun.off, fun hen => ⟨(hrun.on hen).result, (hrun.on hen).age, (hrun.on hen).data⟩, hregs⟩,
    fun _ _ _ => qspiCmd_completes, fun _ _ _ => qspiCmdDone_completes⟩

end Sys2Proof.Machine
end

section
/-!
Writes of the Selol command set (R490, R496, R498 to R502): O49.
-/
namespace Sys2Proof.Machine

/-! ## What a write comes to -/

/-- The device as the effect of a write begins: it serves the transaction, which is counted, and no outcome is noted yet. -/
def State.mbStarted (s : State) : State := (startWrite .mb).run ((incF F.MB_CMDS).run s.inService)

theorem State.mbStarted_dev (s : State) : s.mbStarted.dev = { s.dev with
    svc := { s.dev.svc with serving := true }, ledg := { s.dev.ledg with lastSrc := .mb, lastStatus := 0, lastEpoch := 0 } } := rfl

theorem State.mbStarted_word (s : State) {o : Nat} (h : o ≠ F.MB_CMDS.off) : s.mbStarted.word o = s.word o := Prog.word_incF_other h _

theorem State.mbStarted_fld (s : State) {f : Fld} (h : f.off ≠ F.MB_CMDS.off) : s.mbStarted.fld f = s.fld f := State.fld_of_word (s.mbStarted_word h)

theorem State.mbStarted_cmds (s : State) : Counted s s.mbStarted F.MB_CMDS := Prog.fld_incF F.MB_CMDS s.inService (by decide)

/-- An outcome has been recorded in LAST_RESULT. -/
structure MbRecorded (t u : State) (cmd status epoch : Nat) : Prop where
  cmd : u.fld F.MB_LAST_RESULT_CMD = cmd % 256
  status : u.fld F.MB_LAST_RESULT_STATUS = status % 256
  epoch : u.fld F.MB_LAST_RESULT_EPOCH = epoch % 65536
  words : ∀ o, o ≠ F.MB_LAST_RESULT_CMD.off → u.word o = t.word o
  dev : u.dev = t.dev
  mem : u.mem = t.mem
  host : u.host = t.host

theorem recordMb_run (cmd status epoch : Nat) (t : State) : MbRecorded t ((recordMb cmd status epoch).run t) cmd status epoch := by
  have hw : (recordMb cmd status epoch).Only (Act.writes F.MB_LAST_RESULT_CMD.off) := ⟨fun _ => rfl, fun _ => rfl, fun _ => rfl, trivial⟩
  obtain ⟨hd, -, -, hregs⟩ := hw.onlyReg t
  refine ⟨?_, ?_, ?_, fun o ho => hregs o (by simpa using ho), hd, rfl, rfl⟩ <;>
    rw [recordMb, Prog.run_all_cons, Prog.run_all_cons, Prog.run_all_cons, Prog.run_all_nil]
  · rw [Prog.fld_setF_other F.MB_LAST_RESULT_EPOCH _ _ _ (by decide) (by decide),
      Prog.fld_setF_other F.MB_LAST_RESULT_STATUS F.MB_LAST_RESULT_CMD _ _ (by decide) (by decide), Prog.fld_setF_same _ _ _ (by decide)]
    rfl
  · rw [Prog.fld_setF_other F.MB_LAST_RESULT_EPOCH _ _ _ (by decide) (by decide), Prog.fld_setF_same _ _ _ (by decide)]
    rfl
  · rw [Prog.fld_setF_same _ _ _ (by decide)]
    rfl

/-- A write whose effect left `t` ends: LAST_RESULT holds the outcome. -/
structure MbWritten (s t u : State) (p : Bool) (code : Nat) : Prop where
  cmd : u.fld F.MB_LAST_RESULT_CMD = code + if p then 128 else 0
  status : u.fld F.MB_LAST_RESULT_STATUS = t.dev.ledg.lastStatus % 256
  epoch : u.fld F.MB_LAST_RESULT_EPOCH = t.dev.ledg.lastEpoch % 65536
  words : ∀ o, o ≠ F.MB_LAST_RESULT_CMD.off → u.word o = t.word o
  dev : u.dev = { t.dev with svc := { t.dev.svc with serving := s.dev.svc.serving } }
  mem : u.mem = t.mem
  host : u.host = t.host

/-- What is sent of a write that comes whole. -/
theorem mbGood_sent (s : State) (p : Bool) (code : Nat) (data : List Byte) : (s.mbGood p code data).sent =
    data ++ if p then [crc8 (toByte s.mbAddr :: toByte (code + 128) :: data)] else [] := by
  cases p <;> rfl

theorem mbGood_check {s : State} {p : Bool} {code : Nat} {data : List Byte} (hp : p = true) : (s.mbGood p code data).at data.length =
    (s.inService.mbCheck (s.mbGood p code data) code data.length).toNat := by
  subst hp
  have hcheck : s.inService.mbCheck (s.mbGood true code data) code data.length = crc8 (toByte s.mbAddr :: toByte (code + 128) :: data) := by
    show crc8 (toByte s.inService.mbAddr :: toByte ((s.mbGood true code data).cmd code) :: (s.mbGood true code data).sent.take data.length) = _
    rw [mbGood_sent, List.take_left, show s.inService.mbAddr = s.mbAddr from rfl, show (s.mbGood true code data).cmd code = code + 128 from rfl]
  rw [hcheck, MbXfer.at, mbGood_sent, List.getD_eq_getElem?_getD, List.getElem?_append_right (le_refl _), Nat.sub_self]
  rfl

theorem mbWrite_run {s : State} {p : Bool} {code : Nat} {data : List Byte} {count : Option Nat} (hp : p = true ∨ s.bit F.MB_CFG_REQ_PEC = false)
    (hc : (s.mbGood p code data).wrongCount count = false) (eff : Prog) :
    (mbWrite code data.length count (s.mbGood p code data) eff).run s.inService =
      (recordMb ((s.mbGood p code data).cmd code) (eff.run s.mbStarted).dev.ledg.lastStatus (eff.run s.mbStarted).dev.ledg.lastEpoch).run
        (eff.run s.mbStarted) := by
  have hlen : (s.mbGood p code data).sent.length = data.length + oneIf (s.mbGood p code data).p := by
    rw [mbGood_sent, List.length_append]
    cases p <;> rfl
  have hpec : (!(s.mbGood p code data).p && s.inService.bit F.MB_CFG_REQ_PEC) = false := by
    show (!p && s.bit F.MB_CFG_REQ_PEC) = false
    rcases hp with rfl | h
    · rfl
    · rw [h, Bool.and_false]
  have hcheck : ((s.mbGood p code data).p && (s.mbGood p code data).at data.length !=
      (s.inService.mbCheck (s.mbGood p code data) code data.length).toNat) = false := by
    show (p && _) = false
    cases hpp : p with
    | false => rfl
    | true => rw [Bool.true_and, mbGood_check rfl, bne_self_eq_false]
  rw [mbWrite, Prog.run_look]
  dsimp only
  rw [hpec, if_neg Bool.false_ne_true, hc, if_neg Bool.false_ne_true, hlen, if_neg (Nat.lt_irrefl _), hcheck, if_neg Bool.false_ne_true]
  iterate 5 rw [Prog.run_all_cons]
  rw [Prog.run_all_nil, Prog.run_look, Prog.run_when, if_neg (by simp [State.mbGood])]
  rfl

theorem selolWrite_run {s : State} {c : Instr} {p : Bool} {code : Nat} {data : List Byte} {count : Option Nat} {eff : Prog}
    (hr : s.ready = true) (hh : s.dev.svc.holding = false) (hp : p = true ∨ s.bit F.MB_CFG_REQ_PEC = false)
    (he : exec c s = done (mbServe (mbWrite code data.length count (s.mbGood p code data) eff)) s)
    (hc : (s.mbGood p code data).wrongCount count = false) (hcode : code < 128) {t : State} (ht : eff.run s.mbStarted = t) :
    Completes c s (MbWritten s t · p code) := by
  refine completes_done he ?_
  rw [mbServe_run hr hh, mbWrite_run hp hc, ht]
  have h := recordMb_run ((s.mbGood p code data).cmd code) t.dev.ledg.lastStatus t.dev.ledg.lastEpoch t
  generalize (recordMb _ _ _).run t = x at *
  refine ⟨h.cmd.trans ?_, h.status, h.epoch, h.words, ?_, h.mem, h.host⟩
  · refine Nat.mod_eq_of_lt ?_
    show (code + if p then 128 else 0) < 256
    split <;> omega
  · show ({ x.dev with svc := { x.dev.svc with serving := s.dev.svc.serving } } : Dev) = _
    rw [h.dev]

/-- What a write left, where its effect left all but a few registers alone. -/
theorem MbWritten.done {s t u : State} {p : Bool} {code st : Nat} (h : MbWritten s t u p code) (hst : t.dev.ledg.lastStatus = st) (hlt : st < 256)
    (hcmds : t.word F.MB_CMDS.off = s.mbStarted.word F.MB_CMDS.off) : MbDone s u p code st := by
  refine ⟨?_, h.cmd, by rw [h.status, hst, Nat.mod_eq_of_lt hlt]⟩
  rw [Counted, State.fld_of_word (h.words F.MB_CMDS.off (by decide)), State.fld_of_word hcmds]
  exact s.mbStarted_cmds

theorem MbWritten.onlyRegs {s t u : State} {p : Bool} {code : Nat} {offs : List Nat} (h : MbWritten s t u p code)
    (hw : ∀ o, o ∉ offs → t.word o = s.mbStarted.word o) (hm : t.mem = s.mem) (hh : t.host = s.host)
    {l : List Nat} (hl : ∀ o, o ∉ l → o ∉ offs ∧ o ≠ F.MB_CMDS.off ∧ o ≠ F.MB_LAST_RESULT_CMD.off) : OnlyRegs s u l := by
  refine ⟨fun o ho => ?_, fun a => by rw [h.mem, hm], fun a => by rw [h.host, hh]⟩
  obtain ⟨h1, h2, h3⟩ := hl o ho
  rw [h.words o h3, hw o h1, s.mbStarted_word h2]

section
variable {s : State} {p : Bool} (hr : s.ready = true) (hh : s.dev.svc.holding = false) (hp : p = true ∨ s.bit F.MB_CFG_REQ_PEC = false)
include hr hh hp

/-! ## Flags, FILTER and TIMEOUT -/

theorem clearFlags_completes : Completes (.clearFlags (s.mbGood p 0x04 [])) s fun u => MbDone s u p 0x04 0 ∧ u.dev.svc.pecSeen = false ∧
    u.dev.svc.woke = false ∧ u.dev.svc.toSeen = false ∧ OnlyRegs s u [F.MB_CMDS.off, F.MB_LAST_RESULT_CMD.off] := by
  obtain ⟨u, he, h⟩ := selolWrite_run (c := .clearFlags (s.mbGood p 0x04 [])) (count := none) hr hh hp rfl rfl (by decide) rfl
  refine ⟨u, he, h.done rfl (by decide) rfl, by rw [h.dev]; rfl, by rw [h.dev]; rfl, by rw [h.dev]; rfl, ?_⟩
  exact h.onlyRegs (offs := []) (fun _ _ => rfl) rfl rfl (by simp)

theorem mbSet_completes {c : Instr} {code : Nat} {b : Byte} {f : Fld} (hcode : code < 128) (hf : f.lo = 0) (hw : f.w ≤ 32)
    (hf1 : f.off ≠ F.MB_CMDS.off) (hf2 : f.off ≠ F.MB_LAST_RESULT_CMD.off)
    (he : exec c s = done (mbServe (mbWrite code 1 none (s.mbGood p code [b]) (setF f b.toNat))) s) :
    Completes c s fun u => MbDone s u p code 0 ∧ u.fld f = b.toNat % 2 ^ f.w ∧ OnlyRegs s u [f.off, F.MB_CMDS.off, F.MB_LAST_RESULT_CMD.off] := by
  obtain ⟨u, he, h⟩ := selolWrite_run (data := [b]) (count := none) hr hh hp he rfl hcode rfl
  have hsp : ∀ o, o ≠ f.off → ((setF f b.toNat).run s.mbStarted).word o = s.mbStarted.word o := fun o ho =>
    (Prog.only_setF fun _ e => ho e.symm : (setF f b.toNat).Only (Act.sparesReg o)).word _
  refine ⟨u, he, h.done rfl (by decide) (hsp _ hf1.symm), ?_, h.onlyRegs (offs := [f.off]) (fun o ho => hsp o (by simpa using ho)) rfl rfl (by simp)⟩
  rw [State.fld_of_word (h.words _ hf2)]
  exact Prog.fld_setF_same f _ _ (by omega)

theorem filterWrite_completes (b : Byte) : Completes (.filterWrite (s.mbGood p 0x06 [b])) s fun u => MbDone s u p 0x06 0 ∧
    u.fld F.MB_FILT_LEN = b.toNat % 32 ∧ OnlyRegs s u [F.MB_FILT_LEN.off, F.MB_CMDS.off, F.MB_LAST_RESULT_CMD.off] :=
  mbSet_completes hr hh hp (f := F.MB_FILT_LEN) (by decide) rfl (by decide) (by decide) (by decide) rfl

theorem timeoutWrite_completes {b : Byte} (h5 : 5 ≤ b.toNat) (h35 : b.toNat ≤ 35) : Completes (.timeoutWrite (s.mbGood p 0x07 [b])) s fun u =>
    MbDone s u p 0x07 0 ∧ u.fld F.MB_TIMEOUT_MS = b.toNat ∧ OnlyRegs s u [F.MB_TIMEOUT_MS.off, F.MB_CMDS.off, F.MB_LAST_RESULT_CMD.off] := by
  obtain ⟨u, he, hd, hf, hregs⟩ := mbSet_completes hr hh hp (c := .timeoutWrite (s.mbGood p 0x07 [b])) (code := 0x07) (b := b) (f := F.MB_TIMEOUT_MS)
    (by decide) rfl (by decide) (by decide) (by decide) (by
      show done (mbServe (mbWrite 0x07 1 none (s.mbGood p 0x07 [b]) (if 5 ≤ b.toNat && b.toNat ≤ 35 then setF F.MB_TIMEOUT_MS b.toNat else noteStatus 3))) s = _
      rw [if_pos (by simp [h5, h35])])
  exact ⟨u, he, hd, hf.trans (Nat.mod_eq_of_lt (by show b.toNat < 64; omega)), hregs⟩

theorem timeoutWrite_range {b : Byte} (hb : b.toNat < 5 ∨ 35 < b.toNat) : Completes (.timeoutWrite (s.mbGood p 0x07 [b])) s fun u =>
    MbDone s u p 0x07 3 ∧ OnlyRegs s u [F.MB_CMDS.off, F.MB_LAST_RESULT_CMD.off] := by
  obtain ⟨u, he, h⟩ := selolWrite_run (c := .timeoutWrite (s.mbGood p 0x07 [b])) (data := [b]) (count := none) (eff := noteStatus 3) hr hh hp (by
      show done (mbServe (mbWrite 0x07 1 none (s.mbGood p 0x07 [b]) (if 5 ≤ b.toNat && b.toNat ≤ 35 then setF F.MB_TIMEOUT_MS b.toNat else noteStatus 3))) s = _
      rw [if_neg (by simp; omega)]
      rfl) rfl (by decide) rfl
  exact ⟨u, he, h.done rfl (by decide) rfl, h.onlyRegs (offs := []) (fun _ _ => rfl) rfl rfl (by simp)⟩

/-! ## Registers -/

omit hr hh hp in
theorem MbXfer.le_of_sent {x : MbXfer} {pre post : List Byte} {n v : Nat} (h : x.sent = pre ++ (toBytes n v ++ post)) :
    x.le pre.length n = v % 2 ^ (8 * n) := by
  rw [MbXfer.le, h, List.drop_left, List.take_append_of_le_length (by rw [toBytes_length]),
    List.take_of_length_le (by rw [toBytes_length]), ofBytes_toBytes]

omit hr hh hp in
theorem mbGood_regWrite (a v : Nat) (ha : a < 2 ^ 32) (hv : v < 2 ^ 32) :
    (s.mbGood p 0x11 (8 :: toBytes 4 a ++ toBytes 4 v)).le 1 4 = a ∧ (s.mbGood p 0x11 (8 :: toBytes 4 a ++ toBytes 4 v)).le 5 4 = v := by
  generalize hx : s.mbGood p 0x11 (8 :: toBytes 4 a ++ toBytes 4 v) = x
  have hsent := mbGood_sent s p 0x11 (8 :: toBytes 4 a ++ toBytes 4 v)
  rw [hx] at hsent
  generalize (if p then _ else _) = post at hsent
  constructor
  · exact (MbXfer.le_of_sent (pre := [8]) (post := toBytes 4 v ++ post) (by simpa using hsent)).trans (Nat.mod_eq_of_lt ha)
  · have := MbXfer.le_of_sent (x := x) (pre := 8 :: toBytes 4 a) (post := post) (n := 4) (v := v) (by simpa using hsent)
    rw [List.length_cons, toBytes_length] at this
    exact this.trans (Nat.mod_eq_of_lt hv)

/-- The device that the outcome of a register write through the bus is noted in. -/
theorem regWrite_run {a : Nat} {v : Word} (ha : a < 2 ^ 32) {t : State}
    (ht : (all [startWrite .mb, serviceWrite .mb a v.toNat []]).run ((incF F.MB_CMDS).run s.inService) = t) :
    Completes (.regWrite (s.mbGood p 0x11 (8 :: toBytes 4 a ++ toBytes 4 v.toNat))) s (MbWritten s t · p 0x11) := by
  obtain ⟨h1, h5⟩ := mbGood_regWrite (s := s) (p := p) a v.toNat ha v.isLt
  have hlen : (8 :: toBytes 4 a ++ toBytes 4 v.toNat : List Byte).length = 9 := by
    rw [List.length_append, List.length_cons, toBytes_length, toBytes_length]
  rw [Prog.run_all_cons, Prog.run_all_cons, Prog.run_all_nil] at ht
  refine selolWrite_run (data := 8 :: toBytes 4 a ++ toBytes 4 v.toNat) (count := some 8) (eff := serviceWrite .mb a v.toNat []) hr hh hp ?_ rfl (by decide) ht
  show done (mbServe (mbWrite 0x11 9 (some 8) (s.mbGood p 0x11 (8 :: toBytes 4 a ++ toBytes 4 v.toNat)) (serviceWrite .mb _ _ []))) s = _
  rw [h1, h5, hlen]

theorem regWrite_completes {a : Nat} {v : Word} (ha : a < 0x10000) (ha4 : a % 4 = 0) (hf : RegMap.fields a ≠ []) (hc : s.dev.ledg.cycle = []) :
    Completes (.regWrite (s.mbGood p 0x11 (8 :: toBytes 4 a ++ toBytes 4 v.toNat))) s fun u => MbDone s u p 0x11 0 ∧
      (∀ f ∈ RegMap.fields a, bitsOf (u.word a).toNat f.lo f.w =
        if f.acc = .rw then bitsOf v.toNat f.lo f.w else bitsOf (s.word a).toNat f.lo f.w) ∧
      OnlyRegs s u [a, F.MB_CMDS.off, F.MB_LAST_RESULT_CMD.off] := by
  have hready : ((incF F.MB_CMDS).run s.inService).ready = true := by
    rw [State.ready, State.devState, State.fld_of_word (Prog.word_incF_other (by decide) _)]
    exact hr
  have h := serviceWrite_gen (s := (incF F.MB_CMDS).run s.inService) (p := .mb) (w := v.toNat) (fun _ h => by cases h)
    (State.reach_gen (.inl rfl) hready ha) ha ha4 hf hc
  obtain ⟨u, he, hu⟩ := regWrite_run hr hh hp (show a < 2 ^ 32 by omega) (v := v) rfl
  rw [show startWrite Path.mb.osrc = startWrite .mb from rfl] at h
  generalize (all [startWrite .mb, serviceWrite .mb a v.toNat []]).run _ = t at *
  have hcmds : F.MB_CMDS.off ≠ a := by show 0x440020 ≠ a; omega
  have hlast : a ≠ F.MB_LAST_RESULT_CMD.off := by show a ≠ 0x440010; omega
  refine ⟨u, he, hu.done (by rw [h.dev]) (by decide) (h.words _ hcmds), fun f hm => ?_,
    hu.onlyRegs (offs := [a]) (fun o ho => h.words o (by simpa using ho)) h.mem h.host (by simp)⟩
  rw [hu.words a hlast, h.fields f hm, Prog.word_incF_other hcmds.symm]
  rfl

theorem regWrite_range {a : Nat} {v : Word} (ha : 0x4000000 ≤ a) (ha32 : a < 2 ^ 32) (hc : s.dev.ledg.cycle = []) :
    Completes (.regWrite (s.mbGood p 0x11 (8 :: toBytes 4 a ++ toBytes 4 v.toNat))) s fun u => MbDone s u p 0x11 3 ∧
      OnlyRegs s u [F.MB_CMDS.off, F.MB_LAST_RESULT_CMD.off] := by
  have h := serviceWrite_out (s := (incF F.MB_CMDS).run s.inService) (p := .mb) (w := v.toNat) ha hc
  obtain ⟨u, he, hu⟩ := regWrite_run hr hh hp ha32 (v := v) h
  exact ⟨u, he, hu.done rfl (by decide) rfl, hu.onlyRegs (offs := []) (fun _ _ => rfl) rfl rfl (by simp)⟩

/-! ## Catches -/

theorem catchNext_completes (hu : s.unread 1 ≠ 0) : Completes (.catchNext (s.mbGood p 0x31 [])) s fun u => MbDone s u p 0x31 0 ∧
    u.fld (F.CATCH_RPOS 1) = (s.fld (F.CATCH_RPOS 1) + 1) % 2 ^ 32 ∧ u.unread 1 = s.unread 1 - 1 ∧
    OnlyRegs s u [(F.CATCH_RPOS 1).off, F.MB_CMDS.off, F.MB_LAST_RESULT_CMD.off] := by
  have hfld : s.mbStarted.fld (F.CATCH_RPOS 1) = s.fld (F.CATCH_RPOS 1) := s.mbStarted_fld (by decide)
  have hun : s.mbStarted.unread 1 = s.unread 1 := by
    rw [State.unread, State.unread, s.mbStarted_word (by decide)]
    rfl
  obtain ⟨u, he, h⟩ := selolWrite_run (c := .catchNext (s.mbGood p 0x31 [])) (count := none) hr hh hp rfl rfl (by decide) rfl
  rw [Prog.run_look, hun, if_neg hu, hfld] at h
  have hsp : ∀ o, o ≠ (F.CATCH_RPOS 1).off → ((setF (F.CATCH_RPOS 1) (s.fld (F.CATCH_RPOS 1) + 1)).run s.mbStarted).word o = s.mbStarted.word o :=
    fun o ho => (Prog.only_setF fun _ e => ho e.symm : (setF (F.CATCH_RPOS 1) _).Only (Act.sparesReg o)).word _
  have hword : u.word (F.CATCH_RPOS 1).off = BitVec.ofNat 32 (s.fld (F.CATCH_RPOS 1) + 1) :=
    (h.words _ (by decide)).trans (setF_whole_word 0x50014 _ _)
  have hpos : s.fld (F.CATCH_RPOS 1) = (s.word (F.CATCH_RPOS 1).off).toNat := by
    show bitsOf _ 0 32 = _
    rw [bitsOf, pow_zero, Nat.div_one]
    exact Nat.mod_eq_of_lt (BitVec.isLt _)
  refine ⟨u, he, h.done rfl (by decide) (hsp _ (by decide)), ?_, ?_,
    h.onlyRegs (offs := [(F.CATCH_RPOS 1).off]) (fun o ho => hsp o (by simpa using ho)) rfl rfl (by simp)⟩
  · rw [State.fld_of_word (h.words _ (by decide)), Prog.fld_setF_same _ _ _ (by decide)]
  · have hcount : u.dev.log.count = s.dev.log.count := by rw [h.dev]; rfl
    have hne : BitVec.ofNat 32 s.dev.log.count - s.word (F.CATCH_RPOS 1).off ≠ 0 := fun h => hu (congrArg BitVec.toNat h)
    rw [State.unread, State.unread, hcount, hword, hpos]
    generalize BitVec.ofNat 32 s.dev.log.count = c at *
    generalize s.word (F.CATCH_RPOS 1).off = r at *
    bv_omega

theorem catchNext_none (hu : s.unread 1 = 0) : Completes (.catchNext (s.mbGood p 0x31 [])) s fun u => MbDone s u p 0x31 3 ∧
    OnlyRegs s u [F.MB_CMDS.off, F.MB_LAST_RESULT_CMD.off] := by
  have hun : s.mbStarted.unread 1 = s.unread 1 := by
    rw [State.unread, State.unread, s.mbStarted_word (by decide)]
    rfl
  obtain ⟨u, he, h⟩ := selolWrite_run (c := .catchNext (s.mbGood p 0x31 [])) (count := none) hr hh hp rfl rfl (by decide) rfl
  rw [Prog.run_look, hun, if_pos hu] at h
  exact ⟨u, he, h.done rfl (by decide) rfl, h.onlyRegs (offs := []) (fun _ _ => rfl) rfl rfl (by simp)⟩

end

end Sys2Proof.Machine
end

section
/-!
Orders through the management bus, and writes with a wrong check byte (R490, R500): O49.
-/
namespace Sys2Proof.Machine

/-! ## Orders of the bus -/

/-- An order of the management bus as its transaction begins: the answer goes to the ledger's notes. -/
theorem answer_mb {o : Order} {unit : Nat} {x : State} (hs : o.src = .mb) (h1 : x.dev.ledg.lastSrc = .mb) (h2 : x.dev.ledg.lastStatus = 0) :
    (answer o unit 0).run x =
      x.withLedger { x.dev.ledg with lastStatus := 0, lastEpoch := if unit = 127 then 0 else x.epoch unit } := by
  have hcond : (OSrc.mb == x.dev.ledg.lastSrc && x.dev.ledg.lastStatus == 0) = true := by rw [h1, h2]; rfl
  rw [answer, Prog.run_look, Prog.run_all_cons, Prog.run_all_cons, Prog.run_all_nil, hs]
  show ({ x with dev := { x.dev with ledg := if OSrc.mb == x.dev.ledg.lastSrc && x.dev.ledg.lastStatus == 0
    then { x.dev.ledg with lastStatus := 0, lastEpoch := if unit = 127 then 0 else x.epoch unit } else x.dev.ledg } } : State) = _
  rw [if_pos hcond]
  rfl

/-! ## Groups -/

/-- What an order to a group does. -/
def takeGroup (p g en : Nat) : Prog :=
  all [bumpEpoch (32 + p), if g < 32 then setF ⟨(F.LEDG_GROUPS_LO p).off, g, 1⟩ en else setF ⟨(F.LEDG_GROUPS_HI p).off, g - 32, 1⟩ en]

/-- The groups of a partition, one bit each. -/
def State.groupBits (s : State) (p : Nat) : Nat :=
  (s.word (F.LEDG_GROUPS_LO p).off).toNat + 2 ^ 32 * (s.word (F.LEDG_GROUPS_HI p).off).toNat

theorem bitsOf_groupBits (s : State) (p j : Nat) : bitsOf (s.groupBits p) j 1 =
    if j < 32 then s.fld ⟨(F.LEDG_GROUPS_LO p).off, j, 1⟩ else s.fld ⟨(F.LEDG_GROUPS_HI p).off, j - 32, 1⟩ := by
  rw [State.groupBits, bitsOf_one, Nat.add_comm, Nat.testBit_two_pow_mul_add _ (BitVec.isLt _)]
  split <;> exact (bitsOf_one _ _).symm

/-- An order to a group has taken effect. -/
structure GroupTaken (x y : State) (p g en : Nat) : Prop where
  bits : ∀ j, j < 64 → bitsOf (y.groupBits p) j 1 = if j = g then en else bitsOf (x.groupBits p) j 1
  epoch : y.epoch (32 + p) = (x.epoch (32 + p) + 1) % 65536
  words : ∀ o, o ∉ [(F.LEDG_GROUPS_LO p).off, (F.LEDG_GROUPS_HI p).off, (F.LEDG_UNIT_EPOCH (32 + p)).off] → y.word o = x.word o
  dev : y.dev = x.dev
  mem : y.mem = x.mem
  host : y.host = x.host

/-- The bit of a group. -/
def groupFld (p g : Nat) : Fld := if g < 32 then ⟨(F.LEDG_GROUPS_LO p).off, g, 1⟩ else ⟨(F.LEDG_GROUPS_HI p).off, g - 32, 1⟩

theorem takeGroup_eq (p g en : Nat) : takeGroup p g en = all [bumpEpoch (32 + p), setF (groupFld p g) en] := by
  rw [takeGroup, groupFld]
  split <;> rfl

theorem groupFld_bits (s : State) (p j : Nat) : bitsOf (s.groupBits p) j 1 = s.fld (groupFld p j) := by
  rw [bitsOf_groupBits, groupFld]
  split <;> rfl

theorem groupFld_apart {p i j : Nat} (h : i ≠ j) : (groupFld p i).off ≠ (groupFld p j).off ∨
    (groupFld p i).lo + (groupFld p i).w ≤ (groupFld p j).lo ∨ (groupFld p j).lo + (groupFld p j).w ≤ (groupFld p i).lo := by
  unfold groupFld
  split <;> split <;> dsimp only <;> omega

theorem groupFld_fits {p j : Nat} (h : j < 64) : (groupFld p j).lo + (groupFld p j).w ≤ 32 := by
  unfold groupFld
  split <;> dsimp only <;> omega

theorem groupFld_w (p j : Nat) : (groupFld p j).w = 1 := by
  unfold groupFld
  split <;> rfl

theorem groupFld_off (p j : Nat) : (groupFld p j).off = (F.LEDG_GROUPS_LO p).off ∨ (groupFld p j).off = (F.LEDG_GROUPS_HI p).off := by
  unfold groupFld
  split
  · exact .inl rfl
  · exact .inr rfl

theorem takeGroup_run {p g en : Nat} (hp : p < 8) (hg : g < 64) (he : en < 2) (x : State) : GroupTaken x ((takeGroup p g en).run x) p g en := by
  rw [takeGroup_eq, Prog.run_all_cons, Prog.run_all_cons, Prog.run_all_nil]
  have hepoch := (bumpEpoch_run (32 + p) x).2.2
  have hbump : ∀ o, o ≠ (F.LEDG_UNIT_EPOCH (32 + p)).off → ((bumpEpoch (32 + p)).run x).word o = x.word o := fun o ho =>
    (Prog.only_setF fun _ e => ho e.symm : (setF (F.LEDG_UNIT_EPOCH (32 + p)) _).Only (Act.sparesReg o)).word x
  have hdev : ((bumpEpoch (32 + p)).run x).dev = x.dev := rfl
  have hmem : ((bumpEpoch (32 + p)).run x).mem = x.mem := rfl
  have hhost : ((bumpEpoch (32 + p)).run x).host = x.host := rfl
  generalize (bumpEpoch (32 + p)).run x = y at *
  have hoff : ∀ j, (groupFld p j).off = 0x40300 + 8 * p ∨ (groupFld p j).off = 0x40304 + 8 * p := groupFld_off p
  have hunit : ∀ j, (groupFld p j).off ≠ 0x40100 + 4 * (32 + p) := fun j => by
    have := hoff j
    omega
  refine ⟨fun j hj => ?_, ?_, fun o ho => ?_, hdev, hmem, hhost⟩
  · rw [groupFld_bits, groupFld_bits]
    by_cases hjg : j = g
    · rw [if_pos hjg, hjg, Prog.fld_setF_same _ _ _ (groupFld_fits hg), groupFld_w]
      exact Nat.mod_eq_of_lt he
    · rw [if_neg hjg, Prog.fld_setF_other _ _ _ _ (groupFld_fits hj) (groupFld_apart hjg)]
      exact State.fld_of_word (hbump _ (hunit j))
  · rw [← hepoch]
    exact Prog.fld_setF_other _ (F.LEDG_UNIT_EPOCH (32 + p)) _ _ (by decide : (16 : ℕ) + 16 ≤ 32) (.inl (hunit g).symm)
  · simp only [List.mem_cons, List.not_mem_nil, or_false, not_or] at ho
    obtain ⟨h1, h2, h3⟩ := ho
    have hne : (groupFld p g).off ≠ o := fun e => by
      rcases groupFld_off p g with h | h
      · exact h1 (e.symm.trans h)
      · exact h2 (e.symm.trans h)
    rw [(Prog.only_setF fun _ e => hne e : (setF (groupFld p g) en).Only (Act.sparesReg o)).word, hbump o h3]

theorem verdict_group {s : State} {o : Order} {p : Nat} (hr : s.ready = true) (hk : o.kind = kGroup) (hu : o.unit = 32 + p) (hp : p < 8) :
    s.verdict o = vOk := by
  obtain ⟨hpor, hheld, hd⟩ := ready_facts hr
  have hknown : o.known = true := by
    rw [Order.known, hk, hu]
    simp [kGroup, kWake, kPower, kPort]
    omega
  have hin : o.inRange = true := by rw [Order.inRange, hk]; rfl
  have hc : s.carried = false := by rw [State.carried, hd]; rfl
  rw [State.verdict, hknown, hin, hpor, hheld, hd, hc, hk]
  rfl

theorem acceptOrder_group {o : Order} {p g en : Nat} (hk : o.kind = kGroup) (hu : o.unit = 32 + p) (ha : o.arg = g + 256 * en) (hg : g < 64) (he : en < 2)
    (s : State) : (acceptOrder o).run s = (takeGroup p g en).run s := by
  have h0 : bitsOf o.arg 0 6 = g := by
    rw [ha, bitsOf]
    omega
  have h8 : bitsOf o.arg 8 1 = en := by
    rw [ha, bitsOf]
    omega
  rw [acceptOrder, Prog.run_look, hk, hu, h0, h8, Nat.add_sub_cancel_left]
  rfl

section
variable {s : State} {p : Bool} (hr : s.ready = true) (hh : s.dev.svc.holding = false) (hp : p = true ∨ s.bit F.MB_CFG_REQ_PEC = false)

theorem State.mbStarted_ready (hr : s.ready = true) : s.mbStarted.ready = true := by
  rw [State.ready, State.devState, s.mbStarted_fld (by decide)]
  exact hr

include hr hh hp

theorem selolOrder_group {part g en : Nat} (hpart : part < 8) (hg : g < 64) (hen : en < 2) :
    Completes (.selolOrder (s.mbGood p 0x20 ([6, toByte (32 + part), 10] ++ toBytes 4 (g + 256 * en))) []) s fun u =>
      MbDone s u p 0x20 0 ∧ (bitsOf ((u.word (F.LEDG_GROUPS_LO part).off).toNat + 2 ^ 32 * (u.word (F.LEDG_GROUPS_HI part).off).toNat) g 1 = en) ∧
      u.epoch (32 + part) = (s.epoch (32 + part) + 1) % 65536 ∧ u.fld F.MB_LAST_RESULT_EPOCH = u.epoch (32 + part) ∧
      OnlyRegs s u [(F.LEDG_GROUPS_LO part).off, (F.LEDG_GROUPS_HI part).off, (F.LEDG_UNIT_EPOCH (32 + part)).off, F.MB_CMDS.off,
        F.MB_LAST_RESULT_CMD.off] := by
  generalize ho : ({ src := .mb, kind := 10, unit := 32 + part, arg := g + 256 * en } : Order) = o
  have hk : o.kind = kGroup := by rw [← ho]; rfl
  have hu : o.unit = 32 + part := by rw [← ho]
  have harg : o.arg = g + 256 * en := by rw [← ho]
  have hsrc : o.src = .mb := by rw [← ho]
  have hle : (s.mbGood p 0x20 ([6, toByte (32 + part), 10] ++ toBytes 4 (g + 256 * en))).le 3 4 = g + 256 * en := by
    refine (MbXfer.le_of_sent (pre := [6, toByte (32 + part), 10]) (post := if p then _ else _) ((mbGood_sent _ _ _ _).trans
      (List.append_assoc _ _ _))).trans (Nat.mod_eq_of_lt (by show _ < 2 ^ 32; omega))
  have hat : (s.mbGood p 0x20 ([6, toByte (32 + part), 10] ++ toBytes 4 (g + 256 * en))).at 1 = 32 + part := toByte_toNat (by omega)
  have hlen : ([6, toByte (32 + part), 10] ++ toBytes 4 (g + 256 * en) : List Byte).length = 7 := by rw [List.length_append, toBytes_length]; rfl
  have heff : (orderCycle [o]).run s.mbStarted = (answer o (32 + part) 0).run ((takeGroup part g en).run s.mbStarted) := by
    have hunit : s.mbStarted.orderUnit o = 32 + part := by rw [State.orderUnit, hk, hu]; rfl
    rw [orderCycle_one (ready_facts (State.mbStarted_ready hr)).1, decideOrder_accepted (verdict_group (State.mbStarted_ready hr) hk hu hpart), hunit,
      acceptOrder_group hk hu harg hg hen]
  have htake := takeGroup_run hpart hg hen s.mbStarted
  generalize (takeGroup part g en).run s.mbStarted = y at *
  rw [answer_mb hsrc (by rw [htake.dev]; rfl) (by rw [htake.dev]; rfl), if_neg (by omega)] at heff
  obtain ⟨u, he, h⟩ := selolWrite_run (c := .selolOrder (s.mbGood p 0x20 ([6, toByte (32 + part), 10] ++ toBytes 4 (g + 256 * en))) [])
    (count := some 6) (eff := orderCycle [o]) hr hh hp (by
      show done (mbServe (mbWrite 0x20 7 (some 6) _ (orderCycle [⟨.mb, 10, (s.mbGood p 0x20 _).at 1, (s.mbGood p 0x20 _).le 3 4⟩]))) s = _
      rw [hat, hle, ho, hlen]) rfl (by decide) heff
  have hlast : ∀ o, o ∈ [(F.LEDG_GROUPS_LO part).off, (F.LEDG_GROUPS_HI part).off, (F.LEDG_UNIT_EPOCH (32 + part)).off] →
      o ≠ F.MB_CMDS.off ∧ o ≠ F.MB_LAST_RESULT_CMD.off := fun o ho => by
    simp only [List.mem_cons, List.not_mem_nil, or_false] at ho
    show o ≠ 0x440020 ∧ o ≠ 0x440010
    omega
  have hword := fun o ho => h.words o (hlast o ho).2
  have hbits := htake.bits g hg
  rw [if_pos rfl] at hbits
  have hepoch : u.epoch (32 + part) = y.epoch (32 + part) := State.fld_of_word (hword _ (by simp))
  refine ⟨u, he, h.done rfl (by decide) (htake.words _ (fun hm => (hlast _ hm).1 rfl)), ?_, ?_, ?_, ?_⟩
  · rw [hword _ (by simp), hword _ (by simp)]
    exact hbits
  · rw [hepoch, htake.epoch, State.epoch, State.epoch, s.mbStarted_fld (hlast _ (by simp)).1]
  · rw [h.epoch, hepoch]
    exact Nat.mod_eq_of_lt (bitsOf_lt _ _ _)
  · refine h.onlyRegs htake.words htake.mem htake.host fun o ho => ?_
    simp only [List.mem_cons, List.not_mem_nil, or_false, not_or] at ho ⊢
    exact ⟨⟨ho.1, ho.2.1, ho.2.2.1⟩, ho.2.2.2.1, ho.2.2.2.2⟩

end

end Sys2Proof.Machine
end

section
/-!
Regrips by order (R329, R330, R333, R500), and writes of the bus with a wrong check byte (R490): O49.
-/
namespace Sys2Proof.Machine

/-! ## One change for each member of a list -/

theorem Prog.run_each_once {α β : Type} {l : List α} (hl : l.Nodup) {f : α → Prog} {v : α → State → β} {g : α → β → β}
    (hset : ∀ x ∈ l, ∀ s, v x ((f x).run s) = g x (v x s)) (hkeep : ∀ x ∈ l, ∀ y ∈ l, x ≠ y → ∀ s, v x ((f y).run s) = v x s) (s : State) :
    ∀ x ∈ l, v x ((each l f).run s) = g x (v x s) := by
  induction l generalizing s with
  | nil => simp
  | cons y l ih =>
    obtain ⟨hy, hnd⟩ := List.nodup_cons.mp hl
    intro x hx
    rw [Prog.run_each_cons]
    rcases List.mem_cons.mp hx with rfl | hxl
    · have hrest := Prog.run_each_keeps (l := l) (f := f) (P := fun u => v x u = v x ((f x).run s)) (fun z hz u hu =>
        (hkeep x hx z (List.mem_cons_of_mem _ hz) (fun h => hy (h ▸ hz)) u).trans hu) ((f x).run s) rfl
      exact hrest.trans (hset x hx s)
    · rw [ih hnd (fun x hx => hset x (List.mem_cons_of_mem _ hx))
        (fun x hx z hz => hkeep x (List.mem_cons_of_mem _ hx) z (List.mem_cons_of_mem _ hz)) _ x hxl,
        hkeep x hx y List.mem_cons_self (fun h => hy (h ▸ hxl)) s]

/-! ## The effect of a regrip order -/

/-- The order that a REGRIP leaves with its partitions. -/
def State.regripOrder (s : State) (arg : Nat) : Regrip where
  pmask := bitsOf arg 0 8
  drain := bitsOf arg 8 1 == 1
  turns := bitsOf arg 9 4 + 1
  accepted := s.now
  first := match (membersOf arg 8).find? s.partOn with
    | some p => s.nextBoundary p
    | none => s.now + 1

def bumpAll (ps : List Nat) : Prog := each ps fun p => bumpEpoch (32 + p)

/-- The epochs of partitions have risen. -/
structure Bumped (x y : State) (ps : List Nat) : Prop where
  epoch : ∀ p ∈ ps, y.epoch (32 + p) = (x.epoch (32 + p) + 1) % 65536
  unit : ∀ p, y.unitState (32 + p) = x.unitState (32 + p)
  words : ∀ o, (∀ p ∈ ps, o ≠ (F.LEDG_UNIT_EPOCH (32 + p)).off) → y.word o = x.word o
  dev : y.dev = x.dev
  mem : y.mem = x.mem
  host : y.host = x.host

theorem bumpEpoch_word {u o : Nat} (h : o ≠ (F.LEDG_UNIT_EPOCH u).off) (x : State) : ((bumpEpoch u).run x).word o = x.word o :=
  (Prog.only_setF fun _ e => h e.symm : (setF (F.LEDG_UNIT_EPOCH u) _).Only (Act.sparesReg o)).word x

theorem unitLine_inj {p q : Nat} (h : p ≠ q) : (F.LEDG_UNIT_EPOCH (32 + p)).off ≠ (F.LEDG_UNIT_EPOCH (32 + q)).off := by
  show 0x40100 + 4 * (32 + p) ≠ 0x40100 + 4 * (32 + q)
  omega

theorem bumpAll_run {ps : List Nat} (hnd : ps.Nodup) (x : State) : Bumped x ((bumpAll ps).run x) ps := by
  refine ⟨fun p hp => ?_, fun p => ?_, fun o ho => ?_, ?_, ?_, ?_⟩
  · exact Prog.run_each_once hnd (v := fun p u => u.epoch (32 + p)) (g := fun _ e => (e + 1) % 65536)
      (fun p _ u => (bumpEpoch_run (32 + p) u).2.2) (fun p _ q _ h u => State.fld_of_word (bumpEpoch_word (unitLine_inj h) u)) x p hp
  · refine Prog.run_each_keeps (P := fun u => u.unitState (32 + p) = x.unitState (32 + p)) (fun q _ u hu => ?_) x rfl
    by_cases h : p = q
    · rw [h] at hu ⊢
      exact (bumpEpoch_run (32 + q) u).1.trans hu
    · exact (State.fld_of_word (f := F.LEDG_UNIT_STATE (32 + p)) (bumpEpoch_word (unitLine_inj h) u)).trans hu
  · exact Prog.run_each_keeps (P := fun u => u.word o = x.word o) (fun q hq u hu => (bumpEpoch_word (ho q hq) u).trans hu) x rfl
  · exact Prog.run_each_keeps (f := fun p => bumpEpoch (32 + p)) (P := fun u => u.dev = x.dev) (fun _ _ _ h => h) x rfl
  · exact Prog.run_each_keeps (f := fun p => bumpEpoch (32 + p)) (P := fun u => u.mem = x.mem) (fun _ _ _ h => h) x rfl
  · exact Prog.run_each_keeps (f := fun p => bumpEpoch (32 + p)) (P := fun u => u.host = x.host) (fun _ _ _ h => h) x rfl

def setRegrips (ps : List Nat) (r : Regrip) : Prog := each ps fun p => modPart p fun x => { x with regrip := some r }

/-- Partitions have a regrip pending. -/
structure RegripsSet (x y : State) (ps : List Nat) (r : Regrip) : Prop where
  set : ∀ p ∈ ps, (y.part p).regrip = some r
  others : ∀ p, p ∉ ps → y.part p = x.part p
  dev : y.dev = { x.dev with parts := y.dev.parts }
  regs : y.regs = x.regs
  mem : y.mem = x.mem
  host : y.host = x.host

theorem setRegrips_run (ps : List Nat) (r : Regrip) (x : State) : RegripsSet x ((setRegrips ps r).run x) ps r := by
  have hset : ∀ p (u : State), ((modPart p fun x => { x with regrip := some r }).run u).part p = { u.part p with regrip := some r } := fun p u =>
    Sparse.get_put_same _ _ _ _
  have hother : ∀ p q (u : State), p ≠ q → ((modPart q fun x => { x with regrip := some r }).run u).part p = u.part p := fun p q u h =>
    (Sparse.get_put _ _ _ _ _).trans (if_neg h)
  refine ⟨fun p hp => ?_, fun p hp => ?_, ?_, ?_, ?_, ?_⟩
  · refine Prog.run_each_establishes (P := fun p u => (u.part p).regrip = some r) (fun p _ u => by rw [hset]) (fun p _ q _ u hu => ?_) x p hp
    by_cases h : p = q
    · rw [h, hset]
    · rw [hother p q u h, hu]
  · exact Prog.run_each_keeps (P := fun u => u.part p = x.part p) (fun q hq u hu => (hother p q u fun h => hp (h ▸ hq)).trans hu) x rfl
  · obtain ⟨l, hl⟩ := Prog.run_each_keeps (l := ps) (f := fun p => modPart p fun x => { x with regrip := some r })
      (P := fun u => ∃ l, u.dev = { x.dev with parts := l }) (fun q _ u ⟨l, hl⟩ => ⟨_, congrArg (fun d : Dev => { d with
        parts := Sparse.put Part.blank d.parts q { Sparse.get Part.blank d.parts q with regrip := some r } }) hl⟩) x ⟨x.dev.parts, rfl⟩
    rw [setRegrips, hl]
  · exact Prog.run_each_keeps (f := fun p => modPart p fun x => { x with regrip := some r }) (P := fun u => u.regs = x.regs) (fun _ _ _ h => h) x rfl
  · exact Prog.run_each_keeps (f := fun p => modPart p fun x => { x with regrip := some r }) (P := fun u => u.mem = x.mem) (fun _ _ _ h => h) x rfl
  · exact Prog.run_each_keeps (f := fun p => modPart p fun x => { x with regrip := some r }) (P := fun u => u.host = x.host) (fun _ _ _ h => h) x rfl

theorem acceptOrder_regrip {o : Order} (hk : o.kind = kRegrip) (s : State) : (acceptOrder o).run s =
    (setRegrips (membersOf o.arg 8) (s.regripOrder o.arg)).run ((bumpAll (membersOf o.arg 8)).run s) := by
  rw [acceptOrder, Prog.run_look, hk]
  show (all [bumpAll (membersOf o.arg 8), setRegrips (membersOf o.arg 8) _]).run s = _
  rw [Prog.run_all_cons, Prog.run_all_cons, Prog.run_all_nil]
  rfl

theorem verdict_regrip {s : State} {o : Order} (hr : s.ready = true) (hk : o.kind = kRegrip) (h : s.regripOk (bitsOf o.arg 0 8) = true) :
    s.verdict o = vOk := by
  obtain ⟨hpor, hheld, hd⟩ := ready_facts hr
  have hknown : o.known = true := by
    rw [Order.known, hk]
    rfl
  have hin : o.inRange = true := by rw [Order.inRange, hk]; rfl
  have hc : s.carried = false := by rw [State.carried, hd]; rfl
  rw [State.verdict, hknown, hin, hpor, hheld, hd, hc, hk]
  exact if_pos h

/-! ## What the verdict on a regrip depends on -/

/-- States that differ neither in the partitions, nor in memory, nor in the registers below the management bus. -/
structure RegripAlike (s x : State) : Prop where
  parts : x.dev.parts = s.dev.parts
  mem : x.mem = s.mem
  words : ∀ o, o < 0x440000 → x.word o = s.word o

theorem RegripAlike.part {s x : State} (h : RegripAlike s x) : x.part = s.part := by
  funext p
  rw [State.part, State.part, h.parts]

theorem RegripAlike.partOn {s x : State} (h : RegripAlike s x) {p : Nat} (hp : p < 8) : x.partOn p = s.partOn p :=
  congrArg (· != 0) (State.fld_of_word (f := F.LEDG_UNIT_STATE (32 + p)) (h.words _ (by show 0x40100 + 4 * (32 + p) < 0x440000; omega)))

theorem RegripAlike.runTurn {s x : State} (h : RegripAlike s x) {p : Nat} (hp : p < 8) : x.runTurn p = s.runTurn p := by
  have h1 : x.fld (F.TB_TURN_LEN_LEN p) = s.fld (F.TB_TURN_LEN_LEN p) := State.fld_of_word (h.words _ (by show 0x10080 + 4 * p < 0x440000; omega))
  have h2 : x.fld (F.TB_TURN_ORG_LO_ORG p) = s.fld (F.TB_TURN_ORG_LO_ORG p) := State.fld_of_word (h.words _ (by show 0x100a0 + 8 * p < 0x440000; omega))
  have h3 : x.fld (F.TB_TURN_ORG_HI_ORG p) = s.fld (F.TB_TURN_ORG_HI_ORG p) := State.fld_of_word (h.words _ (by show 0x100a4 + 8 * p < 0x440000; omega))
  rw [State.runTurn, State.runTurn, State.turnLen, State.turnLen, State.turnOrg, State.turnOrg, h1, h2, h3]

theorem RegripAlike.sourcesOk {s x : State} (h : RegripAlike s x) : x.sourcesOk = s.sourcesOk := by
  have hports : x.portBinds = s.portBinds := by
    refine List.flatMap_congr fun p hp => ?_
    have hp := List.mem_range.mp hp
    have hw : ∀ i, i < 32 → x.word (0x400100 + 0x1000 * p + 8 * i) = s.word (0x400100 + 0x1000 * p + 8 * i) := fun i hi => h.words _ (by omega)
    have hf : (List.range 32).filter (fun i => x.bit (F.AUD_IN_MAP_VALID p i)) = (List.range 32).filter (fun i => s.bit (F.AUD_IN_MAP_VALID p i)) :=
      List.filter_congr fun i hi => congrArg (· == 1) (State.fld_of_word (f := F.AUD_IN_MAP_VALID p i) (hw i (List.mem_range.mp hi)))
    rw [hf]
    refine List.map_congr_left fun i hi => ?_
    rw [State.fld_of_word (f := F.AUD_IN_MAP_STREAM p i) (hw i (List.mem_range.mp (List.mem_filter.mp hi).1))]
  have hpaths : x.pathBinds = s.pathBinds := by
    have hw : ∀ i, i < 16 → x.word (0x42010c + 0x20 * i) = s.word (0x42010c + 0x20 * i) := fun i hi => h.words _ (by omega)
    have hf : (List.range 16).filter (fun i => x.bit (F.ARR_IN_BIND_VALID i)) = (List.range 16).filter (fun i => s.bit (F.ARR_IN_BIND_VALID i)) :=
      List.filter_congr fun i hi => congrArg (· == 1) (State.fld_of_word (f := F.ARR_IN_BIND_VALID i) (hw i (List.mem_range.mp hi)))
    rw [State.pathBinds, hf]
    refine List.map_congr_left fun i hi => ?_
    rw [State.fld_of_word (f := F.ARR_IN_BIND_SLOT i) (hw i (List.mem_range.mp (List.mem_filter.mp hi).1))]
  funext pl
  rw [State.sourcesOk, State.sourcesOk, hports, hpaths]

theorem RegripAlike.besideOk {s x : State} (h : RegripAlike s x) : x.besideOk = s.besideOk := by
  funext a pl
  have hlist : x.listUses = s.listUses := by
    have hpage : x.listPage = s.listPage := by
      funext l i
      rw [State.listPage, State.listPage, State.read32, State.read32, State.readN, State.readN, h.mem]
    funext b l
    simp only [State.listUses, hpage, State.listCap, State.listPool, State.listW, State.read32, State.readN, h.mem]
  have hkept : x.keptPoolsOk = s.keptPoolsOk := by
    funext b l
    unfold State.keptPoolsOk
    rw [hlist]
  rw [State.besideOk, State.besideOk, hkept]

theorem all_congr_mem {α : Type} {l : List α} {f g : α → Bool} (h : ∀ a ∈ l, f a = g a) : l.all f = l.all g := by
  rw [Bool.eq_iff_iff, List.all_eq_true, List.all_eq_true]
  exact ⟨fun k a ha => h a ha ▸ k a ha, fun k a ha => (h a ha).symm ▸ k a ha⟩

theorem RegripAlike.regripOk {s x : State} (h : RegripAlike s x) (m : Nat) : x.regripOk m = s.regripOk m := by
  have hmem : ∀ p ∈ membersOf m 8, p < 8 := fun p hp => (mem_membersOf.mp hp).1
  have hid : ∀ p ∈ partIds, p < 8 := fun p hp => List.mem_range.mp hp
  have hplane : x.regripPlane = s.regripPlane := by
    funext n q
    rw [State.regripPlane, State.regripPlane, h.part]
  have howned : x.ownedModels = s.ownedModels := by
    funext l
    rw [State.ownedModels, State.ownedModels, h.part]
  have hfits : ∀ n, x.regripFits n = s.regripFits n := fun n => by
    funext p
    rw [State.regripFits, State.regripFits, hplane, h.part, h.sourcesOk, h.besideOk]
  have hfilter : (membersOf m 8).filter x.partOn = (membersOf m 8).filter s.partOn := List.filter_congr fun p hp => h.partOn (hmem p hp)
  have hturns : ((membersOf m 8).filter s.partOn).map x.runTurn = ((membersOf m 8).filter s.partOn).map s.runTurn :=
    List.map_congr_left fun p hp => h.runTurn (hmem p (List.mem_filter.mp hp).1)
  have hwin : ∀ p, p < 8 → (x.partOn p && !(s.regripPlane (membersOf m 8) p).farWins.isEmpty) =
      (s.partOn p && !(s.regripPlane (membersOf m 8) p).farWins.isEmpty) := fun p hp => by rw [h.partOn hp]
  have hwins : partIds.filter (fun q => x.partOn q && !(s.regripPlane (membersOf m 8) q).farWins.isEmpty) =
      partIds.filter (fun q => s.partOn q && !(s.regripPlane (membersOf m 8) q).farWins.isEmpty) :=
    List.filter_congr fun q hq => hwin q (hid q hq)
  have hnamed : (membersOf m 8).filter (fun p => (x.partOn p && !(s.regripPlane (membersOf m 8) p).farWins.isEmpty) && (s.part p).staged.isSome) =
      (membersOf m 8).filter (fun p => (s.partOn p && !(s.regripPlane (membersOf m 8) p).farWins.isEmpty) && (s.part p).staged.isSome) :=
    List.filter_congr fun p hp => by rw [hwin p (hmem p hp)]
  have hturn : ∀ p, p < 8 → x.regripTurn (membersOf m 8) p = s.regripTurn (membersOf m 8) p := fun p hp => by
    have h1 : x.turnLen p = s.turnLen p := congrArg Prod.fst (h.runTurn hp)
    have h2 : x.turnOrg p = s.turnOrg p := congrArg Prod.snd (h.runTurn hp)
    unfold State.regripTurn
    rw [h.part, h1, h2]
  have hall : ((membersOf m 8).filter fun p => (s.partOn p && !(s.regripPlane (membersOf m 8) p).farWins.isEmpty) && (s.part p).staged.isSome).all
      (fun p => (partIds.filter fun q => s.partOn q && !(s.regripPlane (membersOf m 8) q).farWins.isEmpty).all fun q =>
        x.regripTurn (membersOf m 8) q == x.regripTurn (membersOf m 8) p) =
      ((membersOf m 8).filter fun p => (s.partOn p && !(s.regripPlane (membersOf m 8) p).farWins.isEmpty) && (s.part p).staged.isSome).all
      (fun p => (partIds.filter fun q => s.partOn q && !(s.regripPlane (membersOf m 8) q).farWins.isEmpty).all fun q =>
        s.regripTurn (membersOf m 8) q == s.regripTurn (membersOf m 8) p) := by
    refine all_congr_mem fun p hp => all_congr_mem fun q hq => ?_
    rw [hturn p (hmem p (List.mem_filter.mp hp).1), hturn q (hid q (List.mem_filter.mp hq).1)]
  unfold State.regripOk
  dsimp only
  rw [hplane, h.part, howned, hfits, hfilter, hturns, hwins, hnamed, hall]

/-! ## REGRIP of the bus -/

theorem State.mbStarted_alike (s : State) : RegripAlike s s.mbStarted :=
  ⟨rfl, rfl, fun o ho => s.mbStarted_word (by show o ≠ 0x440020; omega)⟩

theorem inMask_mod {m n p : Nat} (h : p < n) : inMask (m % 2 ^ n) p = inMask m p := by
  rw [inMask_eq_testBit, inMask_eq_testBit, Nat.testBit_mod_two_pow, decide_eq_true h, Bool.true_and]

theorem selolRegrip_completes {s : State} {p : Bool} (hr : s.ready = true) (hh : s.dev.svc.holding = false)
    (hp : p = true ∨ s.bit F.MB_CFG_REQ_PEC = false) {arg : Nat} (ha : arg < 2 ^ 16) (hok : s.regripOk (bitsOf arg 0 8) = true) :
    Completes (.selolRegrip (s.mbGood p 0x21 (toBytes 2 arg)) []) s fun u => MbDone s u p 0x21 0 ∧
      ∀ q, q < 8 → inMask arg q = true → (u.part q).regrip.map Regrip.pmask = some (bitsOf arg 0 8) := by
  generalize ho : ({ src := .mb, kind := kRegrip, unit := 0, arg := arg % 2 ^ 13 } : Order) = o
  have hk : o.kind = kRegrip := by rw [← ho]
  have hsrc : o.src = .mb := by rw [← ho]
  have harg : o.arg = arg % 2 ^ 13 := by rw [← ho]
  have hmask : bitsOf o.arg 0 8 = bitsOf arg 0 8 := by
    rw [harg, bitsOf, bitsOf]
    omega
  have hle : (s.mbGood p 0x21 (toBytes 2 arg)).le 0 2 = arg :=
    (MbXfer.le_of_sent (pre := []) (post := if p then _ else _) (mbGood_sent _ _ _ _)).trans (Nat.mod_eq_of_lt ha)
  have hv : s.mbStarted.verdict o = vOk := verdict_regrip (State.mbStarted_ready hr) hk (by
    rw [hmask, s.mbStarted_alike.regripOk]
    exact hok)
  have heff : (orderCycle [o]).run s.mbStarted = (answer o (s.mbStarted.orderUnit o) 0).run ((acceptOrder o).run s.mbStarted) := by
    rw [orderCycle_one (ready_facts (State.mbStarted_ready hr)).1, decideOrder_accepted hv]
  rw [acceptOrder_regrip hk] at heff
  have hbump := bumpAll_run (membersOf_nodup o.arg 8) s.mbStarted
  generalize (bumpAll (membersOf o.arg 8)).run s.mbStarted = y at *
  have hset := setRegrips_run (membersOf o.arg 8) (s.mbStarted.regripOrder o.arg) y
  generalize (setRegrips (membersOf o.arg 8) (s.mbStarted.regripOrder o.arg)).run y = z at *
  rw [answer_mb hsrc (by rw [hset.dev, hbump.dev]; rfl) (by rw [hset.dev, hbump.dev]; rfl)] at heff
  obtain ⟨u, he, h⟩ := selolWrite_run (c := .selolRegrip (s.mbGood p 0x21 (toBytes 2 arg)) []) (data := toBytes 2 arg)
    (count := none) (eff := orderCycle [o]) hr hh hp (by
      show done (mbServe (mbWrite 0x21 2 none _ (orderCycle [⟨.mb, kRegrip, 0, (s.mbGood p 0x21 _).le 0 2 % 2 ^ 13⟩]))) s = _
      rw [hle, ho, toBytes_length]) rfl (by decide) heff
  refine ⟨u, he, h.done rfl (by decide) ?_, fun q hq hm => ?_⟩
  · have hz : z.word F.MB_CMDS.off = y.word F.MB_CMDS.off := State.word_of_regs hset.regs _
    refine hz.trans (hbump.words _ fun q hq => ?_)
    have := (mem_membersOf.mp hq).1
    show 0x440020 ≠ 0x40100 + 4 * (32 + q)
    omega
  · have hpart : u.part q = z.part q := by rw [State.part, State.part, h.dev]; rfl
    have hmem : q ∈ membersOf o.arg 8 := mem_membersOf.mpr ⟨hq, by rw [harg, inMask_mod (by omega)]; exact hm⟩
    rw [hpart, hset.set q hmem, Option.map_some, ← hmask]
    rfl

/-! ## Writes whose check byte is wrong or missing -/

theorem filterWrite_badPec {s : State} (hr : s.ready = true) (hh : s.dev.svc.holding = false) {b c : Byte}
    (hc : c ≠ crc8 [toByte s.mbAddr, toByte 0x86, b]) : Completes (.filterWrite ⟨true, [b], some c, true, []⟩) s fun u =>
      Counted s u F.MB_PEC_ERRS ∧ u.dev.svc.pecSeen = true ∧ u.fld F.MB_LAST_RESULT_STATUS = 5 ∧ u.fld F.MB_FILT_LEN = s.fld F.MB_FILT_LEN ∧
      OnlyRegs s u (F.MB_PEC_ERRS.off :: F.MB_LAST_RESULT_CMD.off :: catchRegs) := by
  have hcheck : ((⟨true, [b], some c, true, []⟩ : MbXfer).at 1 != (s.inService.mbCheck ⟨true, [b], some c, true, []⟩ 6 1).toNat) = true := by
    refine bne_iff_ne.mpr fun h => hc (BitVec.eq_of_toNat_eq h)
  refine completes_done rfl ?_
  rw [mbServe_run hr hh, mbWrite, Prog.run_look]
  dsimp only
  rw [hcheck, if_neg (by simp), if_neg (by exact Bool.false_ne_true), if_neg (by exact Nat.lt_irrefl 2), if_pos (by rfl)]
  iterate 4 rw [Prog.run_all_cons]
  rw [Prog.run_all_nil]
  have hcount := Prog.fld_incF F.MB_PEC_ERRS s.inService (by decide)
  have hother : ∀ o, o ≠ F.MB_PEC_ERRS.off → ((incF F.MB_PEC_ERRS).run s.inService).word o = s.word o := fun o ho => Prog.word_incF_other ho _
  generalize hx : (modSvc _).run ((incF F.MB_PEC_ERRS).run s.inService) = x
  have hseen : x.dev.svc.pecSeen = true := by rw [← hx]; rfl
  have hword : ∀ o, x.word o = ((incF F.MB_PEC_ERRS).run s.inService).word o := fun o => by rw [← hx]; rfl
  have hmem : x.mem = s.mem := by rw [← hx]; rfl
  have hhost : x.host = s.host := by rw [← hx]; rfl
  clear hx
  have hlog := (logSvc_onlyLogs 0xC003 0 114 []).onlyLogs x
  generalize (logSvc 0xC003 0 114 []).run x = y at *
  have hrec := recordMb_run ((⟨true, [b], some c, true, []⟩ : MbXfer).cmd 6) 5 0 y
  generalize (recordMb _ 5 0).run y = z at *
  refine ⟨?_, ?_, hrec.status, ?_, fun o ho => ?_, fun a => ?_, fun a => ?_⟩
  · show z.fld F.MB_PEC_ERRS = _
    rw [State.fld_of_word (hrec.words _ (by decide)), hlog.fld (by decide), State.fld_of_word (hword _), hcount]
    rfl
  · show z.dev.svc.pecSeen = true
    rw [hrec.dev, hlog.dev]
    exact hseen
  · show z.fld F.MB_FILT_LEN = _
    rw [State.fld_of_word (hrec.words _ (by decide)), hlog.fld (by decide), State.fld_of_word (hword _), State.fld_of_word (hother _ (by decide))]
  · obtain ⟨h1, h2⟩ := not_or.mp (List.mem_cons.not.mp ho)
    obtain ⟨h2, h3⟩ := not_or.mp (List.mem_cons.not.mp h2)
    show z.word o = _
    rw [hrec.words o h2, hlog.regs o h3, hword, hother o h1]
  · show z.mem.read a = _
    rw [hrec.mem, hlog.mem, hmem]
  · show z.host.read a = _
    rw [hrec.host, hlog.host, hhost]

theorem filterWrite_noPec {s : State} (hr : s.ready = true) (hh : s.dev.svc.holding = false) {b : Byte} (hq : s.bit F.MB_CFG_REQ_PEC = true) :
    Completes (.filterWrite ⟨false, [b], none, true, []⟩) s fun u => u.fld F.MB_LAST_RESULT_STATUS = 4 ∧
      OnlyRegs s u [F.MB_LAST_RESULT_CMD.off] ∧ u.dev = s.dev := by
  have hq' : s.inService.bit F.MB_CFG_REQ_PEC = true := hq
  refine completes_done rfl ?_
  rw [mbServe_run hr hh, mbWrite, Prog.run_look]
  dsimp only
  rw [hq', if_pos (by rfl)]
  have hrec := recordMb_run ((⟨false, [b], none, true, []⟩ : MbXfer).cmd 6) 4 0 s.inService
  generalize (recordMb _ 4 0).run s.inService = z at *
  refine ⟨hrec.status, ⟨fun o ho => hrec.words o (by simpa using ho), fun a => congrArg (·.read a) hrec.mem, fun a => congrArg (·.read a) hrec.host⟩, ?_⟩
  show ({ z.dev with svc := { z.dev.svc with serving := s.dev.svc.serving } } : Dev) = s.dev
  rw [hrec.dev]
  rfl

/-- Settles O49: one lemma for each write and outcome. -/
theorem selolWrites : Obligations.SelolWrites := fun _ _ hr hh =>
  ⟨fun hp => ⟨clearFlags_completes hr hh hp, filterWrite_completes hr hh hp, fun _ => timeoutWrite_completes hr hh hp,
    fun _ => timeoutWrite_range hr hh hp, fun _ _ => regWrite_completes hr hh hp, fun _ _ => regWrite_range hr hh hp,
    fun _ _ _ => selolOrder_group hr hh hp, fun _ => selolRegrip_completes hr hh hp, catchNext_completes hr hh hp, catchNext_none hr hh hp⟩,
  fun _ _ => filterWrite_badPec hr hh, fun _ => filterWrite_noPec hr hh⟩

end Sys2Proof.Machine
end

section
/-!
Orders and their answers (R552, R563, R567, R590 to R596, R613): O55.
-/
namespace Sys2Proof.Machine

/-! ## Answers -/

/-- The epoch that an answer carries. -/
def State.answerEpoch (x : State) (unit : Nat) : Nat := if unit = 127 then 0 else x.epoch unit

theorem State.answerEpoch_lt (x : State) (unit : Nat) : x.answerEpoch unit < 65536 := by
  rw [State.answerEpoch]
  split
  · exact Nat.zero_lt_succ _
  · exact bitsOf_lt _ 16 16

/-- The registers in which answers stand. -/
def answerRegs : List Nat := [0x40010, 0x40014, 0x40018, 0x4003C]

/-- An answer has been given. -/
structure AnswerGiven (x y : State) (o : Order) (unit st : Nat) : Prop where
  answered : o.kind < 256 → st < 256 → Answered y o unit st
  words : ∀ a, a ∉ answerRegs → y.word a = x.word a
  dev : y.dev = { x.dev with ledg := y.dev.ledg }
  mem : y.mem = x.mem
  host : y.host = x.host

/-- The order-status register of a path holds the answer. -/
theorem setWord_ostat {o : Order} {k unit st : Nat} (hk : k < 3) (hs : (o.src, k) ∈ [(OSrc.pf, 0), (.usb, 1), (.jtag, 2)])
    (hone : ∀ j, (o.src, j) ∈ [(OSrc.pf, 0), (.usb, 1), (.jtag, 2)] → j = k) {x z : State} (hw : ∀ a, z.word a = x.word a)
    (hd : z.dev = { x.dev with ledg := z.dev.ledg }) (hm : z.mem = x.mem) (hh : z.host = x.host) :
    AnswerGiven x ((setWord (F.LEDG_OSTAT_KIND k).off (o.kind % 256 + 256 * st + 65536 * x.answerEpoch unit)).run z) o unit st := by
  have hword : ∀ a, a ≠ (F.LEDG_OSTAT_KIND k).off →
      ((setWord (F.LEDG_OSTAT_KIND k).off (o.kind % 256 + 256 * st + 65536 * x.answerEpoch unit)).run z).word a = x.word a := fun a ha => by
    rw [Prog.run_setWord, State.word_reg, if_neg ha, hw]
  have hsame : ((setWord (F.LEDG_OSTAT_KIND k).off (o.kind % 256 + 256 * st + 65536 * x.answerEpoch unit)).run z).word (F.LEDG_OSTAT_KIND k).off =
      BitVec.ofNat 32 (o.kind % 256 + 256 * st + 65536 * x.answerEpoch unit) := by
    rw [Prog.run_setWord, State.word_reg, if_pos rfl]
  refine ⟨fun hkind hst j hj => ?_, fun a ha => hword a fun h => ha ?_, hd, hm, hh⟩
  · obtain rfl := hone j hj
    have hep := x.answerEpoch_lt unit
    have hepoch : ∀ u : Nat, ((setWord (F.LEDG_OSTAT_KIND j).off (o.kind % 256 + 256 * st + 65536 * x.answerEpoch unit)).run z).epoch u = x.epoch u :=
      fun u => State.fld_of_word (hword _ (by show 0x40100 + 4 * u ≠ 0x40010 + 4 * j; omega))
    refine ⟨?_, ?_, ?_⟩
    · show bitsOf (State.word _ (F.LEDG_OSTAT_KIND j).off).toNat 0 8 = _
      rw [hsame, bitsOf_word _ _ _ (by decide), bitsOf]
      omega
    · show bitsOf (State.word _ (F.LEDG_OSTAT_KIND j).off).toNat 8 8 = _
      rw [hsame, bitsOf_word _ _ _ (by decide), bitsOf]
      omega
    · rw [hepoch]
      show bitsOf (State.word _ (F.LEDG_OSTAT_KIND j).off).toNat 16 16 = x.answerEpoch unit
      rw [hsame, bitsOf_word _ _ _ (by decide), bitsOf]
      omega
  · have : a = 0x40010 + 4 * k := h
    simp only [answerRegs, List.mem_cons, List.not_mem_nil, or_false]
    omega

theorem answer_run (o : Order) (unit st : Nat) (x : State) : AnswerGiven x ((answer o unit st).run x) o unit st := by
  rw [answer, Prog.run_look, Prog.run_all_cons, Prog.run_all_cons, Prog.run_all_nil]
  generalize hz : (modDev _).run x = z
  have hw : ∀ a, z.word a = x.word a := fun a => by rw [← hz]; rfl
  have hd : z.dev = { x.dev with ledg := z.dev.ledg } := by rw [← hz]; rfl
  have hm : z.mem = x.mem := by rw [← hz]; rfl
  have hh : z.host = x.host := by rw [← hz]; rfl
  clear hz
  have hquiet : (∀ k, (o.src, k) ∉ [(OSrc.pf, 0), (.usb, 1), (.jtag, 2)]) → AnswerGiven x z o unit st := fun hn =>
    ⟨fun _ _ k hk => absurd hk (hn k), fun a _ => hw a, hd, hm, hh⟩
  cases hs : o.src with
  | pf => exact setWord_ostat (k := 0) (by decide) (by simp [hs]) (by simp [hs]) hw hd hm hh
  | usb => exact setWord_ostat (k := 1) (by decide) (by simp [hs]) (by simp [hs]) hw hd hm hh
  | jtag => exact setWord_ostat (k := 2) (by decide) (by simp [hs]) (by simp [hs]) hw hd hm hh
  | timetable =>
    show AnswerGiven x ((when (st != 0) (incF F.LEDG_TT_REJECTS)).run z) o unit st
    rw [Prog.run_when]
    split
    · refine ⟨fun _ _ k hk => absurd hk (by simp [hs]), fun a ha => ?_, hd, hm, hh⟩
      refine (Prog.word_incF_other (fun h => ha ?_) z).trans (hw a)
      simp only [answerRegs, List.mem_cons, List.not_mem_nil, or_false]
      exact .inr (.inr (.inr h))
    · exact hquiet (by simp [hs])
  | mb | spi | chuck | thermal | watchdog | wake => exact hquiet (by simp [hs])

/-- What an order that the ledger accepts comes to. -/
theorem orderCycle_accepted {s : State} {o : Order} (hr : s.ready = true) (hv : s.verdict o = vOk) :
    (orderCycle [o]).run s = (answer o (s.orderUnit o) 0).run ((acceptOrder o).run s) := by
  rw [orderCycle_one (ready_facts hr).1, decideOrder_accepted hv]

/-- The verdict on an order of a kind and a unit that exist, while the device works. -/
theorem verdict_ready {s : State} {o : Order} (hr : s.ready = true) (hk : o.known = true) (hi : o.inRange = true) : s.verdict o =
    if o.kind = kPower then
      if s.fenced o.unit then vRefused 1 o.unit
      else if s.unitState o.unit == bBlank then vRefused 2 o.unit
      else match s.benchPart o.unit with
        | none => vRefused 2 o.unit
        | some p =>
          if s.partOn p && (o.src != .timetable || (o.arg % 4 != 0 && o.arg % 4 != (s.plane p).idleOf o.unit)) then vRefused 3 o.unit
          else vOk
    else if o.kind = kRest then
      match partIds.find? s.partOn with
      | some p => vRefused 4 (32 + p)
      | none =>
        if s.fld F.IMG_STATUS_CHUCK != 0 then vRefused 4 127
        else match partIds.find? fun p => (s.part p).retiring.isSome with
          | some p => vRefused 4 (32 + p)
          | none => vOk
    else if o.kind = kTileclk then
      let mhz := bitsOf o.arg 0 12
      if 400 ≤ mhz && mhz ≤ gradeMhz && mhz % 25 == 0 then vOk else vRefused 5 127
    else if o.kind = kEnable then s.enableVerdict (bitsOf o.arg 0 8)
    else if o.kind = kRegrip then
      (if s.regripOk (bitsOf o.arg 0 8) then vOk
       else vRefused 6 (match membersOf o.arg 8 with
         | p :: _ => 32 + p
         | [] => 127))
    else if o.kind = kPort then
      (if s.fenced o.unit && o.arg % 2 == 1 then vRefused 1 o.unit else vOk)
    else vOk := by
  obtain ⟨hpor, hheld, hd⟩ := ready_facts hr
  have hc : s.carried = false := by rw [State.carried, hd]; rfl
  rw [State.verdict, hk, hi, hpor, hheld, hd, hc]
  rfl

/-- An accepted order that is answered: its effect bounded by registers, and its answer. -/
theorem Answered.of_given {x y : State} {o : Order} {unit st : Nat} (h : AnswerGiven x y o unit st) (hk : o.kind < 256) (hst : st < 256) :
    Answered y o unit st := h.answered hk hst

theorem answerRegs_sub {a : Nat} (h : a ∈ answerRegs) : a ∈ orderRegs := by
  simp only [answerRegs, List.mem_cons, List.not_mem_nil, or_false] at h
  rcases h with rfl | rfl | rfl | rfl <;> decide

/-! ## POWER -/

theorem moveBench_eq {s : State} {b code : Nat} (hs : s.unitState b = 1 ∨ s.unitState b = 2 ∨ s.unitState b = 3) : (moveBench b code).run s =
    (if code = 0 then startWake b
     else if code = 1 then (if s.unitState b == bCoast then .nop else all [dropMoves b, setUnit b bCoast])
     else if s.unitState b == bDwell && !(s.dev.pwr.waking.any (·.1 == b)) then .nop
     else startDwell b).run s := by
  rw [moveBench, Prog.run_look]
  dsimp only
  rw [if_neg (by simp [bBlank, bFenced]; omega)]

theorem moveBench_obeys (b code : Nat) : (moveBench b code).Only (Act.obeys (.quiet [(F.LEDG_UNIT_STATE b).off])) := by
  refine fun s => ?_
  dsimp only
  split
  · trivial
  · split
    · refine fun s => ?_
      dsimp only
      split
      · trivial
      · split
        · exact ⟨fun _ => trivial, fun _ => trivial, trivial⟩
        · split
          · exact fun _ => trivial
          · trivial
    · split
      · split
        · trivial
        · exact ⟨fun _ => trivial, setUnit_obeys.mpr (by simp), trivial⟩
      · split
        · trivial
        · exact ⟨fun _ => trivial, fun _ _ => trivial, trivial⟩

theorem startWake_epoch (b : Nat) (x : State) : ((startWake b).run x).epoch b = x.epoch b := by
  rw [startWake, Prog.run_look]
  dsimp only
  split
  · rfl
  · split
    · rfl
    · split <;> rfl

theorem moveBench_epoch (b code : Nat) (x : State) : ((moveBench b code).run x).epoch b = x.epoch b := by
  rw [moveBench, Prog.run_look]
  dsimp only
  split
  · rfl
  · split
    · exact startWake_epoch b x
    · split
      · split
        · rfl
        · exact (setUnit_run b bCoast _).2.2
      · split <;> rfl

/-- What an order to a bench does. -/
def takePower (b code : Nat) : Prog := all [bumpEpoch b, moveBench b code]

structure PowerTaken (s u : State) (b code : Nat) : Prop where
  epoch : u.epoch b = (s.epoch b + 1) % 65536
  wakes : code = 0 → s.unitState b = 3 → u.unitState b = 3 ∧ (b, s.now + 12500) ∈ u.dev.pwr.waking
  wakesFast : code = 0 → s.unitState b = 2 → u.unitState b = 2 ∧ (b, s.now + 48) ∈ u.dev.pwr.waking
  coasts : code = 1 → u.unitState b = 2
  dwells : code = 2 → s.unitState b ≠ 3 → (b, s.now + 250) ∈ u.dev.pwr.dwelling
  regs : OnlyRegs s u [(F.LEDG_UNIT_STATE b).off]

theorem takePower_run {s : State} {b : Nat} (hs : s.unitState b = 1 ∨ s.unitState b = 2 ∨ s.unitState b = 3)
    (hm : ∀ x ∈ s.dev.pwr.waking ++ s.dev.pwr.dwelling, x.1 ≠ b) (code : Nat) : PowerTaken s ((takePower b code).run s) b code := by
  have hobeys : (takePower b code).Only (Act.obeys (.quiet [(F.LEDG_UNIT_STATE b).off])) :=
    ⟨bumpEpoch_obeys.mpr List.mem_cons_self, moveBench_obeys b code, trivial⟩
  obtain ⟨hregs, hbytes, hhost⟩ := hobeys.sameRegs_of_quiet s
  obtain ⟨hunit, -, hepoch⟩ := bumpEpoch_run b s
  have hdev : ((bumpEpoch b).run s).dev = s.dev := rfl
  rw [takePower, Prog.run_all_cons, Prog.run_all_cons, Prog.run_all_nil] at hregs hbytes hhost ⊢
  generalize (bumpEpoch b).run s = x at *
  have hnow : x.now = s.now := by rw [State.now, hdev]; rfl
  have hwk : ∀ y ∈ x.dev.pwr.waking, y.1 ≠ b := fun y hy => hm y (List.mem_append_left _ (by rwa [hdev] at hy))
  have hdw : ∀ y ∈ x.dev.pwr.dwelling, y.1 ≠ b := fun y hy => hm y (List.mem_append_right _ (by rwa [hdev] at hy))
  have hxs : x.unitState b = 1 ∨ x.unitState b = 2 ∨ x.unitState b = 3 := by rw [hunit]; exact hs
  have heq := moveBench_eq (code := code) hxs
  refine ⟨?_, fun h0 h3 => ?_, fun h0 h2 => ?_, fun h1 => ?_, fun h2 hn => ?_, hregs, hbytes, hhost⟩
  · rw [← hepoch, moveBench_epoch]
  · rw [heq, if_pos h0]
    obtain ⟨l, hl⟩ := startWake_run hwk hdw (.inr (hunit.trans h3))
    rw [hl, hunit, h3, if_neg (by decide), hnow]
    exact ⟨hunit.trans h3, List.mem_cons_self⟩
  · rw [heq, if_pos h0]
    obtain ⟨l, hl⟩ := startWake_run hwk hdw (.inl (hunit.trans h2))
    rw [hl, hunit, h2, if_pos rfl, hnow]
    exact ⟨hunit.trans h2, List.mem_cons_self⟩
  · rw [heq, if_neg (by omega), if_pos h1]
    split
    · rename_i hc
      exact beq_iff_eq.mp hc
    · exact (setUnit_run b 2 _).1
  · rw [heq, if_neg (by omega), if_neg (by omega), if_neg (by simp [bDwell, hunit, hn]), startDwell, Prog.run_all_cons, Prog.run_all_cons, ← hnow]
    exact List.mem_cons_self

theorem orderPower_completes {s : State} {src : OSrc} {b arg p : Nat} (hr : s.ready = true) (ht : src ≠ .timetable) (hb : b < 32)
    (hf : s.fenced b = false) (hs : s.unitState b = 1 ∨ s.unitState b = 2 ∨ s.unitState b = 3) (hp : s.benchPart b = some p)
    (hon : s.partOn p = false) (hm : ∀ x ∈ s.dev.pwr.waking ++ s.dev.pwr.dwelling, x.1 ≠ b) (ha : arg % 4 ≠ 3) :
    Completes (.orderPower src b arg []) s fun u => u.epoch b = (s.epoch b + 1) % 65536 ∧
      (arg % 4 = 0 → s.unitState b = 3 → u.unitState b = 3 ∧ (b, s.now + 12500) ∈ u.dev.pwr.waking) ∧
      (arg % 4 = 0 → s.unitState b = 2 → u.unitState b = 2 ∧ (b, s.now + 48) ∈ u.dev.pwr.waking) ∧
      (arg % 4 = 1 → u.unitState b = 2) ∧
      (arg % 4 = 2 → s.unitState b ≠ 3 → (b, s.now + 250) ∈ u.dev.pwr.dwelling) ∧
      Answered u ⟨src, 1, b, arg⟩ b 0 ∧ OnlyRegs s u ((F.LEDG_UNIT_STATE b).off :: orderRegs) := by
  have hknown : (⟨src, 1, b, arg⟩ : Order).known = true := by
    simp [Order.known, kWake, kPower, kGroup, kPort]
    omega
  have hin : (⟨src, 1, b, arg⟩ : Order).inRange = true := by simp [Order.inRange, kPower, ha]
  have hv : s.verdict ⟨src, 1, b, arg⟩ = vOk := by
    rw [verdict_ready hr hknown hin, if_pos (by rfl)]
    dsimp only
    rw [hf, if_neg Bool.false_ne_true, if_neg (by simp [bBlank]; omega), hp]
    dsimp only
    rw [hon, Bool.false_and, if_neg Bool.false_ne_true]
  have hacc : (acceptOrder ⟨src, 1, b, arg⟩).run s = (takePower b (arg % 4)).run s := by
    have hsrc : (src != .timetable) = true := by simpa using ht
    rw [acceptOrder, Prog.run_look]
    show (all [when (src != .timetable) (bumpEpoch b), moveBench b (arg % 4)]).run s = _
    rw [hsrc]
    rfl
  refine completes_done rfl ?_
  rw [show ({ src, kind := kPower, unit := b, arg } : Order) = ⟨src, 1, b, arg⟩ from rfl, orderCycle_accepted hr hv, hacc,
    show s.orderUnit ⟨src, 1, b, arg⟩ = b from rfl]
  have h := takePower_run hs hm (arg % 4)
  generalize (takePower b (arg % 4)).run s = x at *
  have hans := answer_run ⟨src, 1, b, arg⟩ b 0 x
  generalize (answer _ b 0).run x = u at *
  have hline : (F.LEDG_UNIT_STATE b).off ∉ answerRegs := by
    show 0x40100 + 4 * b ∉ answerRegs
    simp only [answerRegs, List.mem_cons, List.not_mem_nil, or_false]
    omega
  have hst : u.unitState b = x.unitState b := State.fld_of_word (hans.words _ hline)
  have hep : u.epoch b = x.epoch b := State.fld_of_word (hans.words _ hline)
  have hpwr : u.dev.pwr = x.dev.pwr := by rw [hans.dev]
  rw [hst, hep, hpwr]
  refine ⟨h.epoch, h.wakes, h.wakesFast, h.coasts, h.dwells, hans.answered (by show 1 < 256; decide) (by decide), fun a ha => ?_,
    fun a => (congrArg (·.read a) hans.mem).trans (h.regs.bytes a), fun a => (congrArg (·.read a) hans.host).trans (h.regs.host a)⟩
  obtain ⟨h1, h2⟩ := not_or.mp (List.mem_cons.not.mp ha)
  exact (hans.words a fun h => h2 (answerRegs_sub h)).trans (h.regs.regs a (by simpa using h1))

end Sys2Proof.Machine
end

section
/-!
Orders to groups, ports, partitions and the tile clock (R563, R567, R590, R591, R594, R595): O55.
-/
namespace Sys2Proof.Machine

/-! ## An accepted order, its effect and its answer -/

theorem AnswerGiven.fld {x u : State} {o : Order} {unit st : Nat} (h : AnswerGiven x u o unit st) {f : Fld} (hf : f.off ∉ answerRegs) :
    u.fld f = x.fld f := State.fld_of_word (h.words _ hf)

theorem unitLine_not_answer (n : Nat) : 0x40100 + 4 * n ∉ answerRegs := by
  simp only [answerRegs, List.mem_cons, List.not_mem_nil, or_false]
  omega

theorem AnswerGiven.epoch {x u : State} {o : Order} {unit st : Nat} (h : AnswerGiven x u o unit st) (n : Nat) : u.epoch n = x.epoch n :=
  h.fld (f := F.LEDG_UNIT_EPOCH n) (unitLine_not_answer n)

theorem AnswerGiven.unitState {x u : State} {o : Order} {unit st : Nat} (h : AnswerGiven x u o unit st) (n : Nat) :
    u.unitState n = x.unitState n := h.fld (f := F.LEDG_UNIT_STATE n) (unitLine_not_answer n)

theorem AnswerGiven.fenced {x u : State} {o : Order} {unit st : Nat} (h : AnswerGiven x u o unit st) (n : Nat) :
    u.fenced n = x.fenced n := congrArg (· == 1) (h.fld (f := F.LEDG_UNIT_FENCED n) (unitLine_not_answer n))

theorem AnswerGiven.bytes {s x u : State} {o : Order} {unit st : Nat} (h : AnswerGiven x u o unit st) (hx : SameBytes s x) : SameBytes s u :=
  fun a => (congrArg (·.read a) h.mem).trans (hx a)

theorem AnswerGiven.hosts {s x u : State} {o : Order} {unit st : Nat} (h : AnswerGiven x u o unit st) (hx : SameHost s x) : SameHost s u :=
  fun a => (congrArg (·.read a) h.host).trans (hx a)

theorem AnswerGiven.onlyRegs {s x u : State} {o : Order} {unit st : Nat} (h : AnswerGiven x u o unit st) {l l' : List Nat}
    (hx : OnlyRegs s x l) (hl : ∀ a ∈ l, a ∈ l') (ho : ∀ a ∈ answerRegs, a ∈ l') : OnlyRegs s u l' :=
  ⟨fun a ha => (h.words a fun hm => ha (ho a hm)).trans (hx.regs a fun hm => ha (hl a hm)), h.bytes hx.bytes, h.hosts hx.host⟩

/-! ## GROUP -/

theorem orderGroup_completes {s : State} {src : OSrc} {p g en : Nat} (hr : s.ready = true) (hp : p < 8) (hg : g < 64) (he : en < 2) :
    Completes (.orderGroup src (32 + p) (g + 256 * en) []) s fun u =>
      (∀ j, j < 64 → bitsOf ((u.word (F.LEDG_GROUPS_LO p).off).toNat + 2 ^ 32 * (u.word (F.LEDG_GROUPS_HI p).off).toNat) j 1 =
        if j = g then en else
          bitsOf ((s.word (F.LEDG_GROUPS_LO p).off).toNat + 2 ^ 32 * (s.word (F.LEDG_GROUPS_HI p).off).toNat) j 1) ∧
      u.epoch (32 + p) = (s.epoch (32 + p) + 1) % 65536 ∧ Answered u ⟨src, 10, 32 + p, g + 256 * en⟩ (32 + p) 0 ∧
      OnlyRegs s u ([(F.LEDG_GROUPS_LO p).off, (F.LEDG_GROUPS_HI p).off, (F.LEDG_UNIT_STATE (32 + p)).off] ++ orderRegs) := by
  refine completes_done rfl ?_
  rw [show ({ src, kind := kGroup, unit := 32 + p, arg := g + 256 * en } : Order) = ⟨src, 10, 32 + p, g + 256 * en⟩ from rfl,
    orderCycle_accepted hr (verdict_group hr rfl rfl hp), acceptOrder_group rfl rfl rfl hg he,
    show s.orderUnit ⟨src, 10, 32 + p, g + 256 * en⟩ = 32 + p from rfl]
  have h := takeGroup_run hp hg he s
  generalize (takeGroup p g en).run s = x at *
  have hans := answer_run ⟨src, 10, 32 + p, g + 256 * en⟩ (32 + p) 0 x
  generalize (answer _ (32 + p) 0).run x = u at *
  have hgroups : ∀ a, a = 0x40300 + 8 * p ∨ a = 0x40304 + 8 * p → u.word a = x.word a := fun a ha => hans.words a (by
    simp only [answerRegs, List.mem_cons, List.not_mem_nil, or_false]
    omega)
  refine ⟨?_, by rw [hans.epoch, h.epoch], hans.answered (by show 10 < 256; decide) (by decide),
    hans.onlyRegs ⟨h.words, fun a => congrArg (·.read a) h.mem, fun a => congrArg (·.read a) h.host⟩ (fun a ha => List.mem_append_left _ ha)
      (fun a ha => List.mem_append_right _ (answerRegs_sub ha))⟩
  rw [hgroups _ (.inl rfl), hgroups _ (.inr rfl)]
  exact h.bits

/-! ## REGRIP -/

theorem orderRegrip_completes {s : State} {src : OSrc} {arg : Nat} (hr : s.ready = true)
    (hok : s.regripOk (bitsOf arg 0 8) = true) : Completes (.orderRegrip src arg []) s fun u => ∀ p, p < 8 →
      (inMask arg p = true → u.epoch (32 + p) = (s.epoch (32 + p) + 1) % 65536 ∧ ∃ r, (u.part p).regrip = some r ∧ r.accepted = s.now ∧
        r.pmask = bitsOf arg 0 8 ∧ r.drain = (bitsOf arg 8 1 == 1) ∧ r.turns = bitsOf arg 9 4 + 1 ∧
        ((membersOf arg 8).find? s.partOn = none → r.first = s.now + 1) ∧
        (∀ q, (membersOf arg 8).find? s.partOn = some q → r.first = s.nextBoundary q)) ∧
      (inMask arg p = false → u.part p = s.part p ∧ u.epoch (32 + p) = s.epoch (32 + p)) ∧ SameBytes s u ∧ SameHost s u := by
  refine completes_done rfl ?_
  have hk : (⟨src, kRegrip, 0, arg⟩ : Order).kind = kRegrip := rfl
  rw [orderCycle_accepted hr (verdict_regrip hr hk hok), acceptOrder_regrip hk]
  have hbump := bumpAll_run (membersOf_nodup arg 8) s
  generalize (bumpAll (membersOf arg 8)).run s = y at *
  have hset := setRegrips_run (membersOf arg 8) (s.regripOrder arg) y
  generalize (setRegrips (membersOf arg 8) (s.regripOrder arg)).run y = x at *
  have hans := answer_run ⟨src, kRegrip, 0, arg⟩ (s.orderUnit ⟨src, kRegrip, 0, arg⟩) 0 x
  generalize (answer _ _ 0).run x = u at *
  have hpart : ∀ p, u.part p = x.part p := fun p => by rw [State.part, State.part, hans.dev]
  have hepoch : ∀ p, u.epoch p = y.epoch p := fun p => (hans.epoch p).trans (State.fld_of_word (State.word_of_regs hset.regs _))
  refine fun p hp => ⟨fun hm => ?_, fun hm => ?_, fun a => ?_, fun a => ?_⟩
  · have hmem := mem_membersOf.mpr ⟨hp, hm⟩
    refine ⟨by rw [hepoch, hbump.epoch p hmem], s.regripOrder arg, by rw [hpart, hset.set p hmem], rfl, rfl, rfl, rfl, fun h => ?_, fun q h => ?_⟩
    · rw [State.regripOrder, h]
    · rw [State.regripOrder, h]
  · have hmem : p ∉ membersOf arg 8 := fun h => by
      rw [(mem_membersOf.mp h).2] at hm
      cases hm
    refine ⟨?_, ?_⟩
    · rw [hpart, hset.others p hmem, State.part, State.part, hbump.dev]
    · rw [hepoch]
      exact State.fld_of_word (hbump.words _ fun q hq => unitLine_inj (fun h => hmem (h ▸ hq)))
  · rw [hans.mem, hset.mem, hbump.mem]
  · rw [hans.host, hset.host, hbump.host]

/-! ## DERATE -/

/-- The supply voltage is asked for: a register at most. -/
structure VreqOnly (x y : State) : Prop where
  words : ∀ a, a ≠ F.PCK_AVS_VREQ.off → y.word a = x.word a
  dev : y.dev = x.dev
  mem : y.mem = x.mem
  host : y.host = x.host

theorem setVreq_run (x : State) : VreqOnly x (setVreq.run x) := by
  have hasked (top : Nat) : VreqOnly x ((when (top != 0) (setF F.PCK_AVS_VREQ (Config.vreq top))).run x) := by
    rw [Prog.run_when]
    split
    · exact ⟨fun a ha => (Prog.only_setF fun _ e => ha e.symm : (setF F.PCK_AVS_VREQ _).Only (Act.sparesReg a)).word x, rfl, rfl, rfl⟩
    · exact ⟨fun _ _ => rfl, rfl, rfl, rfl⟩
  exact hasked _

theorem orderDerate_completes {s : State} {src : OSrc} {arg : Nat} (hr : s.ready = true) (ha : arg < 256) :
    Completes (.orderDerate src arg []) s fun u => Sparse.get zeroNat u.dev.pwr.derateBy src.code = arg ∧
      (∀ j, j ≠ src.code → Sparse.get zeroNat u.dev.pwr.derateBy j = Sparse.get zeroNat s.dev.pwr.derateBy j) ∧
      (∀ p, p < 8 → inMask arg p = true → u.epoch (32 + p) = (s.epoch (32 + p) + 1) % 65536) ∧ SameBytes s u ∧ SameHost s u := by
  generalize ho : ({ src, kind := kDerate, unit := 0, arg } : Order) = o
  have hk : o.kind = kDerate := by rw [← ho]
  have harg : o.arg = arg := by rw [← ho]
  have hsrc : o.src = src := by rw [← ho]
  have hv : s.verdict o = vOk := by
    rw [verdict_ready hr (by rw [Order.known, hk]; rfl) (by rw [Order.inRange, hk]; rfl), hk]
    rfl
  have hacc : (acceptOrder o).run s = setVreq.run ((modPwr fun w => { w with derateBy := Sparse.put zeroNat w.derateBy src.code arg }).run
      ((bumpAll (s.orderParts o)).run s)) := by
    have hbits : bitsOf arg 0 8 = arg := by
      rw [bitsOf_zero]
      exact Nat.mod_eq_of_lt ha
    rw [acceptOrder, Prog.run_look, hk, harg, hsrc, hbits]
    rfl
  have hnd : (s.orderParts o).Nodup := by
    rw [State.orderParts, hk]
    exact List.nodup_range.filter _
  have hin : ∀ p, p < 8 → inMask arg p = true → p ∈ s.orderParts o := fun p hp hm => by
    rw [State.orderParts, hk, if_neg (by decide), if_pos (by rfl), harg]
    exact List.mem_filter.mpr ⟨List.mem_range.mpr hp, by rw [hm, Bool.true_or]⟩
  refine completes_done rfl ?_
  rw [ho, orderCycle_accepted hr hv, hacc]
  have hbump := bumpAll_run hnd s
  generalize (bumpAll (s.orderParts o)).run s = x at *
  generalize hy : (modPwr _).run x = y
  have hder : y.dev.pwr.derateBy = Sparse.put zeroNat s.dev.pwr.derateBy src.code arg := by rw [← hy, ← hbump.dev]; rfl
  have hyw : ∀ a, y.word a = x.word a := fun a => by rw [← hy]; rfl
  have hym : y.mem = s.mem := by rw [← hy, ← hbump.mem]; rfl
  have hyh : y.host = s.host := by rw [← hy, ← hbump.host]; rfl
  clear hy
  have hz := setVreq_run y
  generalize setVreq.run y = z at *
  have hans := answer_run o (s.orderUnit o) 0 z
  generalize (answer o _ 0).run z = u at *
  have hpwr : u.dev.pwr.derateBy = Sparse.put zeroNat s.dev.pwr.derateBy src.code arg := by rw [hans.dev, ← hder, hz.dev]
  refine ⟨by rw [hpwr, Sparse.get_put, if_pos rfl], fun j hj => by rw [hpwr, Sparse.get_put, if_neg hj], fun p hp hm => ?_, fun a => ?_, fun a => ?_⟩
  · rw [hans.epoch, ← hbump.epoch p (hin p hp hm)]
    exact State.fld_of_word ((hz.words _ (by show 0x40100 + 4 * (32 + p) ≠ F.PCK_AVS_VREQ.off; simp; omega)).trans (hyw _))
  · rw [hans.mem, hz.mem, hym]
  · rw [hans.host, hz.host, hyh]

/-! ## TILECLK -/

/-- What an order of a tile clock does. -/
def takeClock (mhz at_ owe : Nat) : Prog := all [modPwr fun w => { w with tileClk := some (mhz, at_, owe) }, setVreq]

/-- A tile clock is pending. -/
structure ClockTaken (x y : State) (mhz at_ owe : Nat) : Prop where
  clock : y.dev.pwr.tileClk = some (mhz, at_, owe)
  words : ∀ a, a ≠ F.PCK_AVS_VREQ.off → y.word a = x.word a
  mem : y.mem = x.mem
  host : y.host = x.host

theorem takeClock_run (mhz at_ owe : Nat) (x : State) : ClockTaken x ((takeClock mhz at_ owe).run x) mhz at_ owe := by
  rw [takeClock, Prog.run_all_cons, Prog.run_all_cons, Prog.run_all_nil]
  have hz := setVreq_run ((modPwr fun w => { w with tileClk := some (mhz, at_, owe) }).run x)
  exact ⟨by rw [hz.dev]; rfl, hz.words, hz.mem, hz.host⟩

theorem tileclk_accepted {s : State} {src : OSrc} {arg : Nat} (hr : s.ready = true) (h1 : 400 ≤ arg) (h2 : arg ≤ gradeMhz) (h3 : arg % 25 = 0) :
    s.verdict ⟨src, kTileclk, 0, arg⟩ = vOk ∧
    (acceptOrder ⟨src, kTileclk, 0, arg⟩).run s = (takeClock arg (s.now + 250000) (s.enabledMask + 256)).run s := by
  have hlt : arg < 4096 := by
    have : gradeMhz ≤ 1800 := by
      unfold gradeMhz
      split <;> decide
    omega
  have hbits : bitsOf arg 0 12 = arg := by
    rw [bitsOf_zero]
    exact Nat.mod_eq_of_lt hlt
  refine ⟨?_, ?_⟩
  · rw [verdict_ready hr (by rfl) (by rfl), if_neg (by show ¬kTileclk = kPower; decide), if_neg (by show ¬kTileclk = kRest; decide),
      if_pos (by rfl)]
    dsimp only
    rw [hbits, if_pos (by simp [h1, h2, h3])]
  · rw [acceptOrder, Prog.run_look]
    show (takeClock (bitsOf arg 0 12) _ _).run s = _
    rw [hbits]

theorem orderTileclk_completes {s : State} {src : OSrc} {arg : Nat} (hr : s.ready = true) (h1 : 400 ≤ arg) (h2 : arg ≤ gradeMhz)
    (h3 : arg % 25 = 0) : Completes (.orderTileclk src arg []) s fun u =>
      u.dev.pwr.tileClk = some (arg, s.now + 250000, s.enabledMask + 256) ∧
      u.fld F.PCK_TILE_MHZ_NORMAL = s.fld F.PCK_TILE_MHZ_NORMAL ∧ Answered u ⟨src, 4, 0, arg⟩ 127 0 ∧
      OnlyRegs s u (F.PCK_AVS_VREQ.off :: orderRegs) := by
  obtain ⟨hv, hacc⟩ := tileclk_accepted (src := src) hr h1 h2 h3
  refine completes_done rfl ?_
  rw [orderCycle_accepted hr hv, hacc, show s.orderUnit ⟨src, kTileclk, 0, arg⟩ = 127 from rfl]
  have hx := takeClock_run arg (s.now + 250000) (s.enabledMask + 256) s
  generalize (takeClock _ _ _).run s = x at *
  have hans := answer_run ⟨src, kTileclk, 0, arg⟩ 127 0 x
  generalize (answer _ 127 0).run x = u at *
  refine ⟨by rw [hans.dev]; exact hx.clock, ?_, hans.answered (by show 4 < 256; decide) (by decide), ?_⟩
  · rw [hans.fld (by decide)]
    exact State.fld_of_word (hx.words _ (by decide))
  · exact hans.onlyRegs (l := [F.PCK_AVS_VREQ.off]) ⟨fun a ha => hx.words a (by simpa using ha), fun a => congrArg (·.read a) hx.mem,
      fun a => congrArg (·.read a) hx.host⟩ (fun a ha => by simp at ha; simp [ha]) (fun a ha => List.mem_cons_of_mem _ (answerRegs_sub ha))

/-! ## Orders that do not take effect -/

/-- The record of a refused order. -/
def refusal (o : Order) (u cause unit : Nat) : Prog :=
  if o.kind = kRegrip then logC 0x9006 0 (if u = 127 then 127 else u) (orderWords o cause unit)
  else if o.kind = kEnable && cause == 7 then logC 0x200B 0 u (orderWords o cause unit)
  else logLim (.ticks 2500000) o.src.code 0xE002 0 u (orderWords o cause unit)

theorem refusal_onlyLogs (o : Order) (u cause unit : Nat) : (refusal o u cause unit).Only Act.logs := by
  rw [refusal]
  split
  · exact logC_onlyLogs _ _ _ _ _
  · split
    · exact logC_onlyLogs _ _ _ _ _
    · exact logLim_onlyLogs _ _ _ _ _ _ _

theorem decideOrder_refused {s : State} {o : Order} (h : (s.verdict o).status = 2) : (decideOrder o).run s =
    (answer o (s.orderUnit o) 2).run ((all [incF F.LEDG_REFUSED, refusal o (s.orderUnit o) (s.verdict o).cause (s.verdict o).unit]).run s) := by
  rw [decideOrder, Prog.run_look]
  dsimp only
  rw [h, if_neg (by decide), Prog.run_all_cons, Prog.run_all_cons, Prog.run_all_nil, Prog.run_when, if_pos (by rfl)]
  rfl

theorem catchRegs_sub {a : Nat} (h : a ∈ catchRegs) : a ∈ orderRegs := List.mem_append_right _ h

theorem orderCycle_refused {s : State} {o : Order} (hr : s.ready = true) (h : (s.verdict o).status = 2) (hk : o.kind < 256) :
    Counted s ((orderCycle [o]).run s) F.LEDG_REFUSED ∧ Answered ((orderCycle [o]).run s) o (s.orderUnit o) 2 ∧
      OnlyRegs s ((orderCycle [o]).run s) orderRegs ∧ ((orderCycle [o]).run s).dev.parts = s.dev.parts ∧
      ((orderCycle [o]).run s).dev.pwr = s.dev.pwr ∧ ((orderCycle [o]).run s).dev.hs = s.dev.hs := by
  rw [orderCycle_one (ready_facts hr).1, decideOrder_refused h]
  have ht := tally_run (refusal_onlyLogs o (s.orderUnit o) (s.verdict o).cause (s.verdict o).unit) F.LEDG_REFUSED (by decide) (by decide) s
  generalize (all [incF F.LEDG_REFUSED, _]).run s = x at *
  have hans := answer_run o (s.orderUnit o) 2 x
  generalize (answer o _ 2).run x = u at *
  refine ⟨?_, hans.answered hk (by decide), hans.onlyRegs ht.regs (fun a ha => ?_) (fun a ha => answerRegs_sub ha), ?_, ?_, ?_⟩
  · rw [Counted, hans.fld (by decide)]
    exact ht.counted
  · rcases List.mem_cons.mp ha with rfl | ha
    · decide
    · exact catchRegs_sub ha
  · rw [hans.dev, ht.dev]
  · rw [hans.dev, ht.dev]
  · rw [hans.dev, ht.dev]

theorem orders_refused {s : State} {o : Order} {c : Instr} (hr : s.ready = true)
    (hc : (c, o.kind) ∈ [(Instr.orderPower o.src o.unit o.arg [], 1), (.orderTileclk o.src o.arg [], 4), (.orderEnable o.src o.arg [], 8),
      (.orderRegrip o.src o.arg [], 9), (.orderPort o.src o.unit o.arg [], 11)])
    (hu : o.kind ∈ [4, 8, 9] → o.unit = 0) (h : (s.verdict o).status = 2) :
    Completes c s fun u => Counted s u F.LEDG_REFUSED ∧ Answered u o (s.orderUnit o) 2 ∧ OnlyRegs s u orderRegs ∧
      u.dev.parts = s.dev.parts ∧ u.dev.pwr = s.dev.pwr ∧ u.dev.hs = s.dev.hs := by
  have hexec : exec c s = done (orderCycle [o]) s ∧ o.kind < 256 := by
    obtain ⟨src, kind, unit, arg⟩ := o
    simp only [List.mem_cons, List.not_mem_nil, or_false, Prod.mk.injEq] at hc hu
    rcases hc with ⟨rfl, rfl⟩ | ⟨rfl, rfl⟩ | ⟨rfl, rfl⟩ | ⟨rfl, rfl⟩ | ⟨rfl, rfl⟩
    · exact ⟨rfl, by show 1 < 256; decide⟩
    · obtain rfl := hu (by decide)
      exact ⟨rfl, by show 4 < 256; decide⟩
    · obtain rfl := hu (by decide)
      exact ⟨rfl, by show 8 < 256; decide⟩
    · obtain rfl := hu (by decide)
      exact ⟨rfl, by show 9 < 256; decide⟩
    · exact ⟨rfl, by show 11 < 256; decide⟩
  exact completes_done hexec.1 (orderCycle_refused hr h hexec.2)

/-- Two orders of a tile clock in one cycle: that of the host loses to that of the management bus. -/
theorem settled_clocks (s : State) (a b : Nat) :
    s.settled [⟨.pf, kTileclk, 0, a⟩, ⟨.mb, kTileclk, 0, b⟩] = ([⟨.mb, kTileclk, 0, b⟩], [(⟨.pf, kTileclk, 0, a⟩, ⟨.mb, kTileclk, 0, b⟩)]) := by
  have hsort : sortOrders [⟨.pf, kTileclk, 0, a⟩, ⟨.mb, kTileclk, 0, b⟩] = [⟨.mb, kTileclk, 0, b⟩, ⟨.pf, kTileclk, 0, a⟩] := rfl
  have hconf : s.conflict ⟨.pf, kTileclk, 0, a⟩ ⟨.mb, kTileclk, 0, b⟩ = true := rfl
  have hres : s.resolve [⟨.mb, kTileclk, 0, b⟩, ⟨.pf, kTileclk, 0, a⟩] [] =
      ([⟨.mb, kTileclk, 0, b⟩], [(⟨.pf, kTileclk, 0, a⟩, ⟨.mb, kTileclk, 0, b⟩)]) := by
    rw [State.resolve, List.find?_nil]
    dsimp only
    rw [List.nil_append, State.resolve, List.find?_cons, hconf]
    rfl
  have hparts : ([⟨.pf, kTileclk, 0, a⟩, ⟨.mb, kTileclk, 0, b⟩] : List Order).filter (fun o => o.kind != kPart) =
      [⟨.pf, kTileclk, 0, a⟩, ⟨.mb, kTileclk, 0, b⟩] := rfl
  rw [State.settled, hparts, hsort, hres]
  rfl

theorem orderTileclk_overruled {s : State} {a b : Nat} (hr : s.ready = true) (h1 : 400 ≤ b) (h2 : b ≤ gradeMhz) (h3 : b % 25 = 0) :
    Completes (.orderTileclk .pf a [⟨.mb, 4, 0, b⟩]) s fun u => Counted s u F.LEDG_OVERRULED ∧
      u.dev.pwr.tileClk = some (b, s.now + 250000, s.enabledMask + 256) ∧ Answered u ⟨.pf, 4, 0, a⟩ 127 1 ∧
      OnlyRegs s u (F.PCK_AVS_VREQ.off :: orderRegs) := by
  have hrun : (orderCycle [⟨.pf, kTileclk, 0, a⟩, ⟨.mb, kTileclk, 0, b⟩]).run s =
      (answer ⟨.pf, kTileclk, 0, a⟩ 127 1).run ((decideOrder ⟨.mb, kTileclk, 0, b⟩).run
        ((all [incF F.LEDG_OVERRULED, logLim (.ticks 2500000) 0 0xE001 0 127 (orderWords ⟨.pf, kTileclk, 0, a⟩ 1 127)]).run s)) := by
    rw [orderCycle, Prog.run_look, (ready_facts hr).1, Prog.run_when, if_pos (by rfl)]
    rw [show oneWake (([⟨.pf, kTileclk, 0, a⟩, ⟨.mb, kTileclk, 0, b⟩] : List Order).filter fun o => o.known && o.inRange) =
      [⟨.pf, kTileclk, 0, a⟩, ⟨.mb, kTileclk, 0, b⟩] from rfl, settled_clocks]
    rfl
  refine completes_done rfl ?_
  rw [show ∀ x : State, (orderCycle ({ src := .pf, kind := kTileclk, unit := 0, arg := a } :: [⟨.mb, 4, 0, b⟩])).run x =
    (orderCycle [⟨.pf, kTileclk, 0, a⟩, ⟨.mb, kTileclk, 0, b⟩]).run x from fun _ => rfl, hrun]
  have ht := tally_run (logLim_onlyLogs (.ticks 2500000) 0 0xE001 0 127 (orderWords ⟨.pf, kTileclk, 0, a⟩ 1 127) none) F.LEDG_OVERRULED (by decide)
    (by decide) s
  generalize (all [incF F.LEDG_OVERRULED, _]).run s = x at *
  have hline : ∀ n, n < 40 → 0x40100 + 4 * n ∉ F.LEDG_OVERRULED.off :: catchRegs := fun n hn => by
    show 0x40100 + 4 * n ∉ (0x40030 :: catchRegs : List Nat)
    simp only [catchRegs, List.mem_cons, List.not_mem_nil, or_false]
    omega
  have hnow : x.now = s.now := by rw [State.now, State.now, ht.dev]
  have hmask : x.enabledMask = s.enabledMask := congrArg maskOf (List.filter_congr fun p hp =>
    congrArg (· != 0) (State.fld_of_word (f := F.LEDG_UNIT_STATE (32 + p))
      (ht.regs.regs _ (hline (32 + p) (by have := List.mem_range.mp hp; omega)))))
  have hrx : x.ready = true := by
    rw [← hr, State.ready, State.ready, State.heldReset, State.heldReset, ht.dev, show x.devState = s.devState from
      State.fld_of_word (f := F.PCK_STATUS_DEV) (ht.regs.regs _ (by decide))]
  obtain ⟨hv, hacc⟩ := tileclk_accepted (src := .mb) hrx h1 h2 h3
  rw [decideOrder_accepted hv, hacc, show x.orderUnit ⟨.mb, kTileclk, 0, b⟩ = 127 from rfl, hnow, hmask]
  clear hrun hv hacc
  have hy := takeClock_run b (s.now + 250000) (s.enabledMask + 256) x
  generalize (takeClock b (s.now + 250000) (s.enabledMask + 256)).run x = y at *
  have hz := answer_run ⟨.mb, kTileclk, 0, b⟩ 127 0 y
  generalize (answer _ 127 0).run y = z at *
  have hans := answer_run ⟨.pf, kTileclk, 0, a⟩ 127 1 z
  generalize (answer _ 127 1).run z = u at *
  have hzy : OnlyRegs s y (F.PCK_AVS_VREQ.off :: orderRegs) := by
    refine ⟨fun o ho => (hy.words o fun e => ho (e ▸ List.mem_cons_self)).trans (ht.regs.regs o fun hm => ho (List.mem_cons_of_mem _ ?_)),
      fun o => (congrArg (·.read o) hy.mem).trans (ht.regs.bytes o), fun o => (congrArg (·.read o) hy.host).trans (ht.regs.host o)⟩
    rcases List.mem_cons.mp hm with rfl | hm
    · decide
    · exact catchRegs_sub hm
  have hans' : ∀ o ∈ answerRegs, o ∈ F.PCK_AVS_VREQ.off :: orderRegs := fun o ho => List.mem_cons_of_mem _ (answerRegs_sub ho)
  refine ⟨?_, by rw [hans.dev, hz.dev]; exact hy.clock, hans.answered (by show 4 < 256; decide) (by decide),
    hans.onlyRegs (hz.onlyRegs hzy (fun _ h => h) hans') (fun _ h => h) hans'⟩
  rw [Counted, hans.fld (by decide), hz.fld (by decide), State.fld_of_word (hy.words _ (by decide))]
  exact ht.counted

/-! ## Ports -/

theorem verdict_port {s : State} {src : OSrc} {k en : Nat} (hr : s.ready = true) (hk : k < 4)
    (hf : s.fenced (108 + k) = false ∨ en = 0) : s.verdict ⟨src, kPort, 108 + k, en⟩ = vOk := by
  have hknown : (⟨src, kPort, 108 + k, en⟩ : Order).known = true := by
    simp [Order.known, kPort, kPower, kGroup, kWake]
    omega
  rw [verdict_ready hr hknown (by rfl)]
  show (if s.fenced (108 + k) && en % 2 == 1 then vRefused 1 (108 + k) else vOk) = vOk
  rcases hf with hf | rfl
  · rw [hf]
    rfl
  · rw [if_neg (by simp)]

/-- The epoch of a unit whose fence is lifted. -/
theorem liftFence_epoch (u : Nat) (s : State) :
    ((liftFence u).run s).epoch u = if s.fenced u then (s.epoch u + 1) % 65536 else s.epoch u := by
  rw [liftFence, Prog.run_look, Prog.run_when]
  split
  · rw [Prog.run_all_cons, Prog.run_all_cons, Prog.run_all_nil, (bumpEpoch_run u _).2.2]
    refine congrArg (fun e => (e + 1) % 65536) ?_
    exact Prog.fld_setF_other (F.LEDG_UNIT_FENCED u) (F.LEDG_UNIT_EPOCH u) _ s (by decide : (16 : ℕ) + 16 ≤ 32)
      (.inr (.inr (by decide : (6 : ℕ) + 1 ≤ 16)))
  · rfl

theorem bumpEpoch_line (u : Nat) (s : State) : OnlyLine s ((bumpEpoch u).run s) u :=
  onlyLine_of_obeys (Prog.only_bumpEpoch fun _ => rfl) s

theorem OnlyLine.trans {s x y : State} {u : Nat} (h : OnlyLine s x u) (h' : OnlyLine x y u) : OnlyLine s y u :=
  ⟨h'.dev.trans h.dev, fun o ho => (h'.words o ho).trans (h.words o ho), h'.mem.trans h.mem, h'.host.trans h.host⟩

/-- The first half of an order to a port: its line's epoch, and its enable bit. -/
structure PortSwitched (x y : State) (k : Nat) (en : Bool) : Prop where
  bit : y.bit (F.AUD_EN_EN k) = en
  state : y.unitState (108 + k) = x.unitState (108 + k)
  fence : y.fenced (108 + k) = x.fenced (108 + k)
  epoch : y.epoch (108 + k) = (x.epoch (108 + k) + 1) % 65536
  dev : y.dev = x.dev
  words : ∀ a, a ≠ (F.AUD_EN_EN k).off → a ≠ (F.LEDG_UNIT_STATE (108 + k)).off → y.word a = x.word a
  mem : y.mem = x.mem
  host : y.host = x.host

theorem portSwitch_run {k : Nat} (hk : k < 4) (en : Bool) (x : State) :
    PortSwitched x ((setB (F.AUD_EN_EN k) en).run ((bumpEpoch (108 + k)).run x)) k en := by
  have hline := bumpEpoch_line (108 + k) x
  obtain ⟨hstate, hfence, hepoch⟩ := bumpEpoch_run (108 + k) x
  generalize (bumpEpoch (108 + k)).run x = y at *
  have hother : ∀ a, a ≠ (F.AUD_EN_EN k).off → ((setB (F.AUD_EN_EN k) en).run y).word a = y.word a := fun a ha =>
    (Prog.only_setF fun _ e => ha e.symm : (setB (F.AUD_EN_EN k) en).Only (Act.sparesReg a)).word y
  have hne : 0x40100 + 4 * (108 + k) ≠ (F.AUD_EN_EN k).off := by
    show 0x40100 + 4 * (108 + k) ≠ 0x400004 + 0x1000 * k
    omega
  have hkept : ((setB (F.AUD_EN_EN k) en).run y).word (0x40100 + 4 * (108 + k)) = y.word (0x40100 + 4 * (108 + k)) := hother _ hne
  exact ⟨Prog.bit_setB_same rfl (by decide : (0 : ℕ) + 1 ≤ 32) _ _, (State.fld_of_word (f := F.LEDG_UNIT_STATE (108 + k)) hkept).trans hstate,
    (congrArg (· == 1) (State.fld_of_word (f := F.LEDG_UNIT_FENCED (108 + k)) hkept)).trans hfence,
    (State.fld_of_word (f := F.LEDG_UNIT_EPOCH (108 + k)) hkept).trans hepoch, hline.dev,
    fun a h1 h2 => (hother a h1).trans (hline.words a h2), hline.mem, hline.host⟩

theorem orderPort_disable_completes {s : State} {src : OSrc} {k : Nat} (hr : s.ready = true) (hk : k < 4) :
    Completes (.orderPort src (108 + k) 0 []) s fun u => u.bit (F.AUD_EN_EN k) = false ∧ u.unitState (108 + k) = 0 ∧
      u.fenced (108 + k) = false ∧ u.epoch (108 + k) = (s.epoch (108 + k) + if s.fenced (108 + k) then 2 else 1) % 65536 ∧
      Answered u ⟨src, 11, 108 + k, 0⟩ (108 + k) 0 ∧
      OnlyRegs s u ([(F.AUD_EN_EN k).off, (F.LEDG_UNIT_STATE (108 + k)).off] ++ orderRegs) := by
  refine completes_done rfl ?_
  rw [orderCycle_accepted hr (verdict_port hr hk (.inr rfl))]
  have hacc : (acceptOrder ⟨src, kPort, 108 + k, 0⟩).run s =
      (liftFence (108 + k)).run ((setUnit (108 + k) 0).run ((setB (F.AUD_EN_EN k) false).run ((bumpEpoch (108 + k)).run s))) := by
    rw [acceptOrder, Prog.run_look]
    show (acceptPort (108 + k - 108) false).run s = _
    rw [show 108 + k - 108 = k by omega]
    rfl
  rw [hacc, show s.orderUnit ⟨src, kPort, 108 + k, 0⟩ = 108 + k from rfl]
  clear hacc
  have hw := portSwitch_run hk false s
  generalize (setB (F.AUD_EN_EN k) false).run _ = w at *
  have hxline := setUnit_line (108 + k) 0 w
  obtain ⟨hxstate, hxfence, hxepoch⟩ := setUnit_run (108 + k) 0 w
  generalize (setUnit (108 + k) 0).run w = x at *
  have hyline := hxline.trans (liftFence_line (108 + k) x)
  obtain ⟨hyfence, hystate⟩ := liftFence_run (108 + k) x
  have hyepoch := liftFence_epoch (108 + k) x
  generalize (liftFence (108 + k)).run x = y at *
  have hans := answer_run ⟨src, kPort, 108 + k, 0⟩ (108 + k) 0 y
  generalize (answer _ (108 + k) 0).run y = u at *
  have hen : (F.AUD_EN_EN k).off = 0x400004 + 0x1000 * k := rfl
  refine ⟨?_, by rw [hans.unitState, hystate, hxstate], by rw [hans.fenced, hyfence], ?_, hans.answered (by show 11 < 256; decide) (by decide), ?_⟩
  · refine (congrArg (· == 1) ((hans.fld (f := F.AUD_EN_EN k) ?_).trans (hyline.fld ?_))).trans hw.bit
    · rw [hen]
      simp only [answerRegs, List.mem_cons, List.not_mem_nil, or_false]
      omega
    · rw [hen]
      omega
  · rw [hans.epoch, hyepoch, hxfence, hxepoch, hw.fence, hw.epoch]
    split
    · omega
    · rfl
  · refine hans.onlyRegs (l := [(F.AUD_EN_EN k).off, (F.LEDG_UNIT_STATE (108 + k)).off]) ⟨fun a ha => ?_, fun a => ?_, fun a => ?_⟩
      (fun a ha => List.mem_append_left _ ha) (fun a ha => List.mem_append_right _ (answerRegs_sub ha))
    · have ha' : a ≠ (F.AUD_EN_EN k).off ∧ a ≠ (F.LEDG_UNIT_STATE (108 + k)).off := by simpa using ha
      exact (hyline.words a ha'.2).trans (hw.words a ha'.1 ha'.2)
    · rw [hyline.mem, hw.mem]
    · rw [hyline.host, hw.host]

/-- The queues of a port that starts: its state, its input entries and its play queues. -/
def openPort (k now : Nat) : Prog :=
  all [modPort k fun _ => { enabledAt := now },
      setF (F.AUD_STATUS_LOCKED k) 0, setWord (F.AUD_SF_STAT_POS k).off 0,
      each (List.range 32) fun i => all [modIn (32 * k + i) fun x => x.fresh now,
        modDev fun d => { d with outs := Sparse.put OutPath.blank d.outs (32 * k + i) {} }]]

theorem openPort_obeys (k now : Nat) : (openPort k now).Only
    (Act.obeys (.quiet [(F.AUD_STATUS_LOCKED k).off, (F.AUD_SF_STAT_POS k).off])) := by
  simp [openPort, modPort, modIn]

/-- Every entry of an opened port is unframed. -/
theorem openPort_unframed (k now : Nat) (x : State) : ∀ i, i < 32 → (((openPort k now).run x).inp (32 * k + i)).framed = false := by
  intro i hi
  rw [openPort]
  iterate 4 rw [Prog.run_all_cons]
  rw [Prog.run_all_nil]
  generalize (setWord _ _).run _ = y
  refine Prog.run_each_establishes (P := fun (i : Nat) (u : State) => (u.inp (32 * k + i)).framed = false) ?_ ?_ y i (List.mem_range.mpr hi)
  · intro j _ z
    rw [Prog.run_all_cons, Prog.run_all_cons, Prog.run_all_nil]
    show (Sparse.get InPath.blank (Sparse.put InPath.blank z.dev.ins (32 * k + j) _) (32 * k + j)).framed = false
    rw [Sparse.get_put, if_pos rfl]
    rfl
  · intro j _ j' _ z hz
    rw [Prog.run_all_cons, Prog.run_all_cons, Prog.run_all_nil]
    show (Sparse.get InPath.blank (Sparse.put InPath.blank z.dev.ins (32 * k + j') _) (32 * k + j)).framed = false
    rw [Sparse.get_put]
    split
    · rfl
    · exact hz

theorem orderPort_enable_completes {s : State} {src : OSrc} {k : Nat} (hr : s.ready = true) (hk : k < 4)
    (h0 : s.unitState (108 + k) = 0) (hf : s.fenced (108 + k) = false) :
    Completes (.orderPort src (108 + k) 1 []) s fun u => u.bit (F.AUD_EN_EN k) = true ∧ u.unitState (108 + k) = s.portStart k ∧
      u.epoch (108 + k) = (s.epoch (108 + k) + 1) % 65536 ∧ (∀ i, i < 32 → (u.inp (32 * k + i)).framed = false) ∧
      Answered u ⟨src, 11, 108 + k, 1⟩ (108 + k) 0 ∧ SameBytes s u ∧ SameHost s u := by
  refine completes_done rfl ?_
  rw [orderCycle_accepted hr (verdict_port hr hk (.inl hf)), show s.orderUnit ⟨src, kPort, 108 + k, 1⟩ = 108 + k from rfl]
  have hacc : (acceptOrder ⟨src, kPort, 108 + k, 1⟩).run s = (acceptPort k true).run s := by
    rw [acceptOrder, Prog.run_look]
    show (acceptPort (108 + k - 108) true).run s = _
    rw [show 108 + k - 108 = k by omega]
  rw [hacc, acceptPort]
  iterate 4 rw [Prog.run_all_cons]
  rw [Prog.run_all_nil, Prog.run_when (!true), if_neg (by decide), Prog.run_when true, if_pos rfl]
  clear hacc
  have hw := portSwitch_run hk true s
  generalize (setB (F.AUD_EN_EN k) true).run _ = w at *
  have hcfg : w.word (F.AUD_CFG_ROLE k).off = s.word (F.AUD_CFG_ROLE k).off := hw.words _ (by simp) (by simp; omega)
  have hstart : w.portStart k = s.portStart k := by
    rw [State.portStart, State.portStart, State.fld_of_word (f := F.AUD_CFG_ROLE k) hcfg, State.fld_of_word (f := F.AUD_CFG_MODE k) hcfg]
  have hlt : s.portStart k < 16 := by
    unfold State.portStart
    split
    · decide
    · split <;> decide
  rw [Prog.run_look, hw.state, h0, Prog.run_when, if_pos (by rfl), Prog.run_all_cons, hstart]
  have hopen : ∀ (x : State) (ps : List Prog), ps = [modPort k fun _ => { enabledAt := w.now }, setF (F.AUD_STATUS_LOCKED k) 0,
      setWord (F.AUD_SF_STAT_POS k).off 0, each (List.range 32) fun i => all [modIn (32 * k + i) fun x => x.fresh w.now,
        modDev fun d => { d with outs := Sparse.put OutPath.blank d.outs (32 * k + i) {} }]] →
      (all ps).run x = (openPort k w.now).run x := fun x ps h => by rw [h, openPort]
  rw [hopen _ _ rfl]
  have hxline := setUnit_line (108 + k) (s.portStart k) w
  obtain ⟨hxstate, -, hxepoch⟩ := setUnit_run (108 + k) (s.portStart k) w
  generalize (setUnit (108 + k) _).run w = x at *
  have hunframed := openPort_unframed k w.now x
  obtain ⟨hregs, hbytes, hhosts⟩ := (openPort_obeys k w.now).sameRegs_of_quiet x
  generalize (openPort k w.now).run x = y at *
  have hans := answer_run ⟨src, kPort, 108 + k, 1⟩ (108 + k) 0 y
  generalize (answer _ (108 + k) 0).run y = u at *
  have hline : y.word (0x40100 + 4 * (108 + k)) = x.word (0x40100 + 4 * (108 + k)) := hregs _ (by simp; omega)
  refine ⟨?_, ?_, ?_, ?_, hans.answered (by show 11 < 256; decide) (by decide), hans.bytes fun a => ?_, hans.hosts fun a => ?_⟩
  · refine (congrArg (· == 1) ((hans.fld (f := F.AUD_EN_EN k) ?_).trans ((State.fld_of_word (hregs _ ?_)).trans (hxline.fld ?_)))).trans hw.bit
    · simp only [answerRegs, List.mem_cons, List.not_mem_nil, or_false]
      omega
    · simp
    · simp
      omega
  · rw [hans.unitState, show y.unitState (108 + k) = x.unitState (108 + k) from State.fld_of_word hline, hxstate, Nat.mod_eq_of_lt hlt]
  · rw [hans.epoch, show y.epoch (108 + k) = x.epoch (108 + k) from State.fld_of_word hline, hxepoch, hw.epoch]
  · intro i hi
    rw [State.inp, hans.dev]
    exact hunframed i hi
  · rw [hbytes, hxline.mem, hw.mem]
  · rw [hhosts, hxline.host, hw.host]

end Sys2Proof.Machine
end

section
/-!
Partitions that an order enables and disables (R98, R303, R552, R591), and the orders together: O55.
-/
namespace Sys2Proof.Machine

/-! ## What an order of this kind says of one partition -/

/-- What a partition's registers say, and the plane that it runs. -/
structure PartView where
  state : Nat
  epoch : Nat
  org : Nat
  len : Nat
  groups : Word × Word
  start : Nat
  plane : Plane

def State.partView (s : State) (p : Nat) : PartView where
  state := s.unitState (32 + p)
  epoch := s.epoch (32 + p)
  org := s.turnOrg p
  len := s.turnLen p
  groups := (s.word (F.LEDG_GROUPS_LO p).off, s.word (F.LEDG_GROUPS_HI p).off)
  start := s.fld (F.TT_ORG_LO_ORG p) + 2 ^ 32 * s.fld (F.TT_ORG_HI_ORG p)
  plane := s.plane p

def PartView.bumped (v : PartView) : PartView := { v with epoch := (v.epoch + 1) % 65536 }
def PartView.disabled (v : PartView) : PartView := { v with state := 0, len := 0 }
def PartView.enabled (v : PartView) : PartView :=
  { v with state := 1, org := v.start, len := v.plane.turnLen % 2 ^ 27, groups := (0xFFFFFFFF, 0xFFFFFFFF) }

/-- The registers that the view of a partition is of. -/
def partViewRegs (p : Nat) : List Nat :=
  [0x40100 + 4 * (32 + p), 0x100a0 + 8 * p, 0x100a4 + 8 * p, 0x10080 + 4 * p, 0x40300 + 8 * p, 0x40304 + 8 * p, 0x2000c + 0x40 * p,
    0x20010 + 0x40 * p]

theorem State.partView_congr {s u : State} {p : Nat} (hw : ∀ o ∈ partViewRegs p, u.word o = s.word o)
    (hp : (u.part p).active = (s.part p).active) : u.partView p = s.partView p := by
  simp only [partViewRegs, List.forall_mem_cons] at hw
  obtain ⟨h1, h2, h3, h4, h5, h6, h7, h8, -⟩ := hw
  have hplane : u.plane p = s.plane p := congrArg (·.getD {}) hp
  rw [State.partView, State.partView, hplane, State.turnOrg, State.turnOrg, State.turnLen, State.turnLen,
    show u.unitState (32 + p) = s.unitState (32 + p) from State.fld_of_word h1, show u.epoch (32 + p) = s.epoch (32 + p) from State.fld_of_word h1,
    show u.fld (F.TB_TURN_ORG_LO_ORG p) = _ from State.fld_of_word h2, show u.fld (F.TB_TURN_ORG_HI_ORG p) = _ from State.fld_of_word h3,
    show u.fld (F.TB_TURN_LEN_LEN p) = _ from State.fld_of_word h4, show u.word (F.LEDG_GROUPS_LO p).off = _ from h5,
    show u.word (F.LEDG_GROUPS_HI p).off = _ from h6, show u.fld (F.TT_ORG_LO_ORG p) = _ from State.fld_of_word h7,
    show u.fld (F.TT_ORG_HI_ORG p) = _ from State.fld_of_word h8]

/-- The registers of a partition that an order to enable or disable it writes. -/
def partRegs (p : Nat) : List Nat :=
  [0x40100 + 4 * (32 + p), 0x100a0 + 8 * p, 0x100a4 + 8 * p, 0x10080 + 4 * p, 0x40300 + 8 * p, 0x40304 + 8 * p]

/-- The registers of all benches. -/
def benchLines : List Nat := (List.range 32).map fun b => 0x40100 + 4 * b

/-- The frame of an order to enable or disable: planes stay, and of the registers the listed ones and those of the log change. -/
abbrev partBound (offs : List Nat) : Bound where
  dev d e := ∀ p, (Sparse.get Part.blank e.parts p).active = (Sparse.get Part.blank d.parts p).active
  reg o := o ∈ offs ++ logRegs
  mem := False
  host := False

theorem partBound_steps (offs : List Nat) : (partBound offs).Steps := ⟨fun _ _ => rfl, fun h k p => (k p).trans (h p)⟩
theorem partBound_logs (offs : List Nat) : (partBound offs).Logs := ⟨fun _ _ _ _ _ _ => rfl, fun _ h => List.mem_append_right _ h⟩

theorem modPwr_partBound (offs : List Nat) (f) : (modPwr f).Only (Act.obeys (partBound offs)) := fun _ _ => rfl

theorem autoDerate_partBound (offs : List Nat) (p on) : (autoDerate p on).Only (Act.obeys (partBound offs)) := fun _ _ => rfl

theorem modPart_partBound (offs : List Nat) (q : Nat) {f : Part → Part} (hf : ∀ x, (f x).active = x.active) :
    (modPart q f).Only (Act.obeys (partBound offs)) := fun d p => by
  show (Sparse.get Part.blank (Sparse.put Part.blank d.parts q _) p).active = _
  rw [Sparse.get_put]
  split
  · next h => rw [hf, h]
  · rfl

theorem mem_benchLines {b : Nat} (hb : b < 32) (offs l : List Nat) : 0x40100 + 4 * b ∈ (offs ++ benchLines) ++ l :=
  List.mem_append_left _ (List.mem_append_right _ (List.mem_map.mpr ⟨b, List.mem_range.mpr hb, rfl⟩))

theorem moveBench_partBound {b : Nat} (hb : b < 32) (offs : List Nat) (code : Nat) :
    (moveBench b code).Only (Act.obeys (partBound (offs ++ benchLines))) := by
  have hpwr := modPwr_partBound (offs ++ benchLines)
  have hset : ∀ st, (setUnit b st).Only (Act.obeys (partBound (offs ++ benchLines))) := fun st => setUnit_obeys.mpr (mem_benchLines hb offs _)
  simp [-setUnit_obeys, moveBench, startWake, startDwell, dropMoves, hpwr, hset]

theorem idleBench_partBound {b : Nat} (hb : b < 32) (offs : List Nat) :
    (idleBench b).Only (Act.obeys (partBound (offs ++ benchLines))) := fun s => by
  dsimp only
  split
  · trivial
  · simp [moveBench_partBound hb offs]

theorem membersOf_lt {m n x : Nat} (h : x ∈ membersOf m n) : x < n := (mem_membersOf.mp h).1

theorem fencedPolicy_partBound (offs : List Nat) (p : Nat) : (fencedPolicy p).Only (Act.obeys (partBound offs)) := by
  have hpart : (modPart p fun x => { x with stopAsked := true }).Only (Act.obeys (partBound offs)) := modPart_partBound offs p fun _ => rfl
  have hlog : ∀ l i code sev u ds st, (logLim l i code sev u ds st).Only (Act.obeys (partBound offs)) := (partBound_logs offs).logLim
  simp [fencedPolicy, fencePolicy, hpart, hlog]

theorem State.partView_of_obeys {P : Prog} {offs : List Nat} {p : Nat} (h : P.Only (Act.obeys (partBound offs)))
    (hd : ∀ o ∈ partViewRegs p, o ∉ offs ++ logRegs) (s : State) : (P.run s).partView p = s.partView p :=
  State.partView_congr (fun o ho => h.words (hd o ho) s) (h.devs (partBound_steps offs) s p)

theorem partViewRegs_not_benches {p : Nat} (hp : p < 8) : ∀ o ∈ partViewRegs p, o ∉ ([] ++ benchLines) ++ logRegs := by
  intro o ho h
  simp only [partViewRegs, benchLines, logRegs, List.mem_cons, List.not_mem_nil, or_false, List.mem_append, List.mem_map, List.mem_range,
    false_or] at ho h
  omega

theorem partViewRegs_not_others {p q : Nat} (hp : p < 8) (hq : q < 8) (h : p ≠ q) :
    ∀ o ∈ partViewRegs p, o ∉ (partRegs q ++ benchLines) ++ logRegs := by
  intro o ho h
  simp only [partViewRegs, partRegs, benchLines, logRegs, List.mem_cons, List.not_mem_nil, or_false, List.mem_append, List.mem_map,
    List.mem_range] at ho h
  omega

/-! ## The steps, one by one -/

theorem State.fld_lt (f : Fld) (s : State) : s.fld f < 2 ^ f.w := bitsOf_lt _ _ _

theorem word_setF_of_ne {f : Fld} {v o : Nat} (h : o ≠ f.off) (s : State) : ((setF f v).run s).word o = s.word o :=
  (Prog.only_setF fun _ e => h e.symm : (setF f v).Only (Act.sparesReg o)).word s

theorem fld_setF_of_ne {f g : Fld} {v : Nat} (h : g.off ≠ f.off) (s : State) : ((setF f v).run s).fld g = s.fld g :=
  State.fld_of_word (word_setF_of_ne h s)

theorem plane_setF (f : Fld) (v : Nat) (s : State) (p : Nat) : ((setF f v).run s).plane p = s.plane p := rfl

theorem setUnit_partView (p st : Nat) (hp : p < 8) (s : State) :
    ((setUnit (32 + p) st).run s).partView p = { s.partView p with state := st % 16 } := by
  obtain ⟨hstate, -, hepoch⟩ := setUnit_run (32 + p) st s
  rw [State.partView, hstate, hepoch]
  simp (disch := (simp; try omega)) only [State.partView, State.turnOrg, State.turnLen, setUnit, fld_setF_of_ne, word_setF_of_ne, plane_setF]

theorem setLen_partView (p n : Nat) (hp : p < 8) (s : State) :
    ((setF (F.TB_TURN_LEN_LEN p) n).run s).partView p = { s.partView p with len := n % 2 ^ 27 } := by
  have hlen : ((setF (F.TB_TURN_LEN_LEN p) n).run s).turnLen p = n % 2 ^ 27 :=
    Prog.fld_setF_same (F.TB_TURN_LEN_LEN p) n s (by decide : (0 : ℕ) + 27 ≤ 32)
  rw [State.partView, hlen]
  simp (disch := (simp; try omega)) only [State.partView, State.turnOrg, State.unitState, State.epoch, fld_setF_of_ne, word_setF_of_ne, plane_setF]

theorem setOrg_partView (p a b : Nat) (hp : p < 8) (ha : a < 2 ^ 32) (hb : b < 2 ^ 32) (s : State) :
    ((setF (F.TB_TURN_ORG_HI_ORG p) b).run ((setF (F.TB_TURN_ORG_LO_ORG p) a).run s)).partView p =
      { s.partView p with org := a + 2 ^ 32 * b } := by
  have horg : ((setF (F.TB_TURN_ORG_HI_ORG p) b).run ((setF (F.TB_TURN_ORG_LO_ORG p) a).run s)).turnOrg p = a + 2 ^ 32 * b := by
    rw [State.turnOrg, Prog.fld_setF_same (F.TB_TURN_ORG_HI_ORG p) b _ (by decide : (0 : ℕ) + 32 ≤ 32), fld_setF_of_ne (by simp),
      Prog.fld_setF_same (F.TB_TURN_ORG_LO_ORG p) a s (by decide : (0 : ℕ) + 32 ≤ 32)]
    exact congrArg₂ (fun x y => x + 2 ^ 32 * y) (Nat.mod_eq_of_lt ha) (Nat.mod_eq_of_lt hb)
  rw [State.partView, horg]
  simp (disch := (simp; try omega)) only [State.partView, State.turnLen, State.unitState, State.epoch, fld_setF_of_ne, word_setF_of_ne,
    plane_setF]

theorem setGroups_partView (p a b : Nat) (hp : p < 8) (s : State) :
    ((setF (F.LEDG_GROUPS_HI p) b).run ((setF (F.LEDG_GROUPS_LO p) a).run s)).partView p =
      { s.partView p with groups := (BitVec.ofNat 32 a, BitVec.ofNat 32 b) } := by
  have hlo : ((setF (F.LEDG_GROUPS_HI p) b).run ((setF (F.LEDG_GROUPS_LO p) a).run s)).word (F.LEDG_GROUPS_LO p).off =
      BitVec.ofNat 32 a := (word_setF_of_ne (by simp) _).trans (setF_whole_word _ _ _)
  have hhi : ((setF (F.LEDG_GROUPS_HI p) b).run ((setF (F.LEDG_GROUPS_LO p) a).run s)).word (F.LEDG_GROUPS_HI p).off =
      BitVec.ofNat 32 b := setF_whole_word _ _ _
  rw [State.partView, hlo, hhi]
  simp (disch := (simp; try omega)) only [State.partView, State.turnOrg, State.turnLen, State.unitState, State.epoch, fld_setF_of_ne,
    plane_setF]

theorem benches_partView {l : List Nat} (hl : ∀ b ∈ l, b < 32) {f : Nat → Prog} (hf : ∀ b, b < 32 → (f b).Only (Act.obeys (partBound benchLines)))
    {p : Nat} (hp : p < 8) (s : State) : ((each l f).run s).partView p = s.partView p :=
  Prog.run_each_keeps (P := fun u => u.partView p = s.partView p)
    (fun b hb u hu => (State.partView_of_obeys (offs := benchLines) (hf b (hl b hb)) (partViewRegs_not_benches hp) u).trans hu) s rfl

theorem modPart_partView (p : Nat) {f : Part → Part} (hf : ∀ x, (f x).active = x.active) (s : State) :
    ((modPart p f).run s).partView p = s.partView p :=
  State.partView_congr (fun _ _ => rfl) (modPart_partBound [] p hf s.dev p)

theorem disablePart_partView {p : Nat} (hp : p < 8) (s : State) : ((disablePart p).run s).partView p = (s.partView p).disabled := by
  rw [disablePart, Prog.run_look]
  iterate 4 rw [Prog.run_all_cons]
  rw [Prog.run_all_nil, benches_partView (fun b hb => membersOf_lt hb) (fun b hb => idleBench_partBound hb []) hp,
    modPart_partView p (by exact fun _ => rfl), setLen_partView p 0 hp, setUnit_partView p 0 hp]
  rfl

theorem enablePart_partView {p : Nat} (hp : p < 8) (s : State) : ((enablePart p).run s).partView p = (s.partView p).enabled := by
  have hquiet : ∀ {P : Prog}, P.Only (Act.obeys (partBound benchLines)) → ∀ u : State, (P.run u).partView p = u.partView p := fun h u =>
    State.partView_of_obeys (offs := benchLines) h (partViewRegs_not_benches hp) u
  rw [enablePart, Prog.run_look]
  iterate 10 rw [Prog.run_all_cons]
  rw [Prog.run_all_nil, hquiet (fencedPolicy_partBound benchLines p),
    benches_partView (fun b hb => membersOf_lt hb) (fun b hb => moveBench_partBound hb [] _) hp,
    hquiet (Prog.only_when.mpr fun _ => autoDerate_partBound benchLines p true), modPart_partView p (by exact fun _ => rfl),
    setGroups_partView p _ _ hp, setLen_partView p _ hp, setOrg_partView p _ _ hp (State.fld_lt (F.TT_ORG_LO_ORG p) s) (State.fld_lt (F.TT_ORG_HI_ORG p) s), setUnit_partView p 1 hp]
  rfl

/-! ## Their frames -/

theorem mem_partRegs {p o : Nat} (h : o ∈ partRegs p) : o ∈ (partRegs p ++ benchLines) ++ logRegs :=
  List.mem_append_left _ (List.mem_append_left _ h)

theorem disablePart_partBound (p : Nat) : (disablePart p).Only (Act.obeys (partBound (partRegs p ++ benchLines))) := by
  refine fun s => ⟨setUnit_obeys.mpr (mem_partRegs (by simp [partRegs])), setF_obeys.mpr (mem_partRegs (by simp [partRegs])),
    modPart_partBound _ p fun _ => rfl, ?_, trivial⟩
  exact Prog.only_each.mpr fun b hb => idleBench_partBound (membersOf_lt hb) _

theorem enablePart_partBound (p : Nat) : (enablePart p).Only (Act.obeys (partBound (partRegs p ++ benchLines))) := by
  refine fun s => ⟨setUnit_obeys.mpr (mem_partRegs (by simp [partRegs])), setF_obeys.mpr (mem_partRegs (by simp [partRegs])),
    setF_obeys.mpr (mem_partRegs (by simp [partRegs])), setF_obeys.mpr (mem_partRegs (by simp [partRegs])),
    setF_obeys.mpr (mem_partRegs (by simp [partRegs])), setF_obeys.mpr (mem_partRegs (by simp [partRegs])),
    modPart_partBound _ p fun _ => rfl, Prog.only_when.mpr fun _ => autoDerate_partBound _ p true, ?_, fencedPolicy_partBound _ p, trivial⟩
  exact Prog.only_each.mpr fun b hb => moveBench_partBound (membersOf_lt hb) _ _

/-- A change of some partitions, of each once. -/
structure PartsMoved (x y : State) (ps : List Nat) (g : PartView → PartView) : Prop where
  moved : ∀ p ∈ ps, y.partView p = g (x.partView p)
  others : ∀ p, p < 8 → p ∉ ps → y.partView p = x.partView p
  mem : y.mem = x.mem
  host : y.host = x.host

theorem movingParts_run {ps : List Nat} (hps : ∀ p ∈ ps, p < 8) (hnd : ps.Nodup) {f : Nat → Prog} {g : PartView → PartView}
    (hset : ∀ p, p < 8 → ∀ s, ((f p).run s).partView p = g (s.partView p))
    (hob : ∀ p, (f p).Only (Act.obeys (partBound (partRegs p ++ benchLines)))) (x : State) : PartsMoved x ((each ps f).run x) ps g := by
  have hkeep : ∀ p, p < 8 → ∀ q ∈ ps, p ≠ q → ∀ u : State, ((f q).run u).partView p = u.partView p := fun p hp q hq h u =>
    State.partView_of_obeys (hob q) (partViewRegs_not_others hp (hps q hq) h) u
  refine ⟨?_, fun p hp hn => ?_, ?_, ?_⟩
  · exact Prog.run_each_once hnd (v := fun p (u : State) => u.partView p) (g := fun _ => g) (fun p hp => hset p (hps p hp))
      (fun p hp q hq => hkeep p (hps p hp) q hq) x
  · exact Prog.run_each_keeps (P := fun u => u.partView p = x.partView p)
      (fun q hq u hu => (hkeep p hp q hq (fun e => hn (e ▸ hq)) u).trans hu) x rfl
  · exact Prog.run_each_keeps (P := fun u => u.mem = x.mem) (fun q _ u hu => ((hob q).mems id u).trans hu) x rfl
  · exact Prog.run_each_keeps (P := fun u => u.host = x.host) (fun q _ u hu => ((hob q).hosts id u).trans hu) x rfl

theorem bumpAll_partView {ps : List Nat} (hps : ∀ p ∈ ps, p < 8) (hnd : ps.Nodup) (x : State) :
    PartsMoved x ((bumpAll ps).run x) ps PartView.bumped := by
  refine movingParts_run hps hnd (f := fun p => bumpEpoch (32 + p)) (fun p hp s => ?_)
    (fun p => bumpEpoch_obeys.mpr (mem_partRegs (by simp [partRegs]))) x
  obtain ⟨hstate, -, hepoch⟩ := bumpEpoch_run (32 + p) s
  rw [State.partView, hstate, hepoch]
  have hrun : (bumpEpoch (32 + p)).run s = (setF (F.LEDG_UNIT_EPOCH (32 + p)) (s.epoch (32 + p) + 1)).run s := rfl
  rw [hrun]
  simp (disch := (simp; try omega)) only [State.partView, State.turnOrg, State.turnLen, fld_setF_of_ne, word_setF_of_ne, plane_setF,
    PartView.bumped]

/-! ## ENABLE -/

theorem enableVerdict_ok {s : State} {arg : Nat} (h : (s.enableVerdict arg).status = 0) : s.enableVerdict arg = vOk := by
  revert h
  rw [State.enableVerdict]
  dsimp only
  split
  · exact fun h => absurd h (by show ¬2 = 0; decide)
  · split
    · exact fun h => absurd h (by show ¬2 = 0; decide)
    · split
      · exact fun h => absurd h (by show ¬2 = 0; decide)
      · split
        · exact fun h => absurd h (by show ¬2 = 0; decide)
        · exact fun _ => rfl

def State.toDisable (s : State) (arg : Nat) : List Nat := partIds.filter fun p => s.partOn p && !inMask arg p
def State.toEnable (s : State) (arg : Nat) : List Nat := partIds.filter fun p => !s.partOn p && inMask arg p
def State.toChange (s : State) (arg : Nat) : List Nat := partIds.filter fun p => inMask arg p != s.partOn p

theorem acceptOrder_enable {s : State} {src : OSrc} {arg : Nat} : (acceptOrder ⟨src, kEnable, 0, arg⟩).run s =
    (each (s.toEnable arg) enablePart).run ((each (s.toDisable arg) disablePart).run ((bumpAll (s.toChange arg)).run s)) := by
  rw [acceptOrder, Prog.run_look]
  rfl

/-- A partition's view after the order, from its view before. -/
theorem acceptOrder_enable_partView {s : State} {src : OSrc} {arg p : Nat} (hp : p < 8) :
    ((acceptOrder ⟨src, kEnable, 0, arg⟩).run s).partView p =
      if inMask arg p = s.partOn p then s.partView p
      else if inMask arg p then (s.partView p).bumped.enabled else (s.partView p).bumped.disabled := by
  rw [acceptOrder_enable]
  have hlt : ∀ f, ∀ q ∈ partIds.filter f, q < 8 := fun f q hq => List.mem_range.mp (List.mem_of_mem_filter hq)
  have hnd : ∀ f, (partIds.filter f).Nodup := fun f => List.nodup_range.filter _
  have hmem : ∀ f, p ∈ partIds.filter f ↔ f p = true := fun f => by simp [partIds, hp]
  have h1 := bumpAll_partView (hlt _) (hnd _) s (ps := s.toChange arg)
  generalize (bumpAll (s.toChange arg)).run s = x at *
  have h2 := movingParts_run (ps := s.toDisable arg) (hlt _) (hnd _) (fun p hp s => disablePart_partView hp s) disablePart_partBound x
  generalize (each (s.toDisable arg) disablePart).run x = y at *
  have h3 := movingParts_run (ps := s.toEnable arg) (hlt _) (hnd _) (fun p hp s => enablePart_partView hp s) enablePart_partBound y
  generalize (each (s.toEnable arg) enablePart).run y = z at *
  cases hon : s.partOn p
  · have hdis : p ∉ s.toDisable arg := fun h => by simpa [hon] using (hmem _).mp h
    cases hin : inMask arg p
    · rw [h3.others p hp (fun h => by simpa [hin] using (hmem _).mp h), h2.others p hp hdis,
        h1.others p hp (fun h => by simpa [hin, hon] using (hmem _).mp h)]
      rfl
    · rw [h3.moved p ((hmem _).mpr (by simp [hon, hin])), h2.others p hp hdis, h1.moved p ((hmem _).mpr (by simp [hon, hin]))]
      rfl
  · have hen : p ∉ s.toEnable arg := fun h => by simpa [hon] using (hmem _).mp h
    cases hin : inMask arg p
    · rw [h3.others p hp hen, h2.moved p ((hmem _).mpr (by simp [hon, hin])), h1.moved p ((hmem _).mpr (by simp [hon, hin]))]
      rfl
    · rw [h3.others p hp hen, h2.others p hp (fun h => by simpa [hin] using (hmem _).mp h),
        h1.others p hp (fun h => by simpa [hin, hon] using (hmem _).mp h)]
      rfl

theorem acceptOrder_enable_memories {s : State} {src : OSrc} {arg : Nat} : ((acceptOrder ⟨src, kEnable, 0, arg⟩).run s).mem = s.mem ∧
    ((acceptOrder ⟨src, kEnable, 0, arg⟩).run s).host = s.host := by
  rw [acceptOrder_enable]
  have hlt : ∀ f, ∀ q ∈ partIds.filter f, q < 8 := fun f q hq => List.mem_range.mp (List.mem_of_mem_filter hq)
  have hnd : ∀ f, (partIds.filter f).Nodup := fun f => List.nodup_range.filter _
  have h1 := bumpAll_partView (hlt _) (hnd _) s (ps := s.toChange arg)
  have h2 := movingParts_run (ps := s.toDisable arg) (hlt _) (hnd _) (fun p hp s => disablePart_partView hp s) disablePart_partBound
    ((bumpAll (s.toChange arg)).run s)
  have h3 := movingParts_run (ps := s.toEnable arg) (hlt _) (hnd _) (fun p hp s => enablePart_partView hp s) enablePart_partBound
    ((each (s.toDisable arg) disablePart).run ((bumpAll (s.toChange arg)).run s))
  exact ⟨h3.mem.trans (h2.mem.trans h1.mem), h3.host.trans (h2.host.trans h1.host)⟩

theorem partViewRegs_not_answer {p o : Nat} (hp : p < 8) (ho : o ∈ partViewRegs p) : o ∉ answerRegs := by
  intro h
  simp only [partViewRegs, answerRegs, List.mem_cons, List.not_mem_nil, or_false] at ho h
  omega

theorem AnswerGiven.partView {x u : State} {o : Order} {unit st : Nat} (h : AnswerGiven x u o unit st) {p : Nat}
    (hp : p < 8) : u.partView p = x.partView p :=
  State.partView_congr (fun a ha => h.words a (partViewRegs_not_answer hp ha)) (by rw [State.part, State.part, h.dev])

theorem State.partOn_eq (s : State) (p : Nat) : s.partOn p = ((s.partView p).state != 0) := rfl

theorem orderEnable_completes {s : State} {src : OSrc} {arg : Nat} (hr : s.ready = true) (ha : arg < 256) (hv : (s.enableVerdict arg).status = 0) :
    Completes (.orderEnable src arg []) s fun u => ∀ p, p < 8 →
      u.partOn p = inMask arg p ∧
      (inMask arg p = s.partOn p → u.epoch (32 + p) = s.epoch (32 + p) ∧ u.unitState (32 + p) = s.unitState (32 + p) ∧
        u.turnOrg p = s.turnOrg p) ∧
      (inMask arg p ≠ s.partOn p → u.epoch (32 + p) = (s.epoch (32 + p) + 1) % 65536) ∧
      (inMask arg p = true → s.partOn p = false → u.unitState (32 + p) = 1 ∧
        u.turnOrg p = s.fld (F.TT_ORG_LO_ORG p) + 2 ^ 32 * s.fld (F.TT_ORG_HI_ORG p) ∧
        u.turnLen p = (s.plane p).turnLen % 2 ^ (F.TB_TURN_LEN_LEN p).w ∧
        u.word (F.LEDG_GROUPS_LO p).off = 0xFFFFFFFF ∧ u.word (F.LEDG_GROUPS_HI p).off = 0xFFFFFFFF) ∧
      (inMask arg p = false → s.partOn p = true → u.unitState (32 + p) = 0 ∧ u.turnLen p = 0) ∧ SameBytes s u ∧ SameHost s u := by
  refine completes_done rfl ?_
  have hbits : bitsOf arg 0 8 = arg := by
    rw [bitsOf_zero]
    exact Nat.mod_eq_of_lt ha
  have hok : s.verdict ⟨src, kEnable, 0, arg⟩ = vOk := by
    rw [verdict_ready hr (by rfl) (by rfl)]
    show s.enableVerdict (bitsOf arg 0 8) = vOk
    rw [hbits, enableVerdict_ok hv]
  rw [orderCycle_accepted hr hok]
  obtain ⟨hmem, hhost⟩ := acceptOrder_enable_memories (s := s) (src := src) (arg := arg)
  intro p hp
  have hview := acceptOrder_enable_partView (s := s) (src := src) (arg := arg) hp
  generalize (acceptOrder _).run s = x at *
  have hans := answer_run ⟨src, kEnable, 0, arg⟩ (s.orderUnit ⟨src, kEnable, 0, arg⟩) 0 x
  generalize (answer _ _ 0).run x = u at *
  rw [← hans.partView hp] at hview
  have hstate : u.unitState (32 + p) = _ := congrArg PartView.state hview
  have hepoch : u.epoch (32 + p) = _ := congrArg PartView.epoch hview
  have horg : u.turnOrg p = _ := congrArg PartView.org hview
  have hlen : u.turnLen p = _ := congrArg PartView.len hview
  have hgroups : (u.word (F.LEDG_GROUPS_LO p).off, u.word (F.LEDG_GROUPS_HI p).off) = _ := congrArg PartView.groups hview
  have hbytes : SameBytes s u ∧ SameHost s u := ⟨fun a => by rw [hans.mem, hmem], fun a => by rw [hans.host, hhost]⟩
  have hpart : u.partOn p = (u.unitState (32 + p) != 0) := rfl
  by_cases hc : inMask arg p = s.partOn p
  · rw [if_pos hc] at hstate hepoch horg
    refine ⟨by rw [hpart, hstate, hc]; rfl, fun _ => ⟨hepoch, hstate, horg⟩, fun h => absurd hc h, fun h h' => ?_, fun h h' => ?_, hbytes⟩
    · rw [h, h'] at hc
      cases hc
    · rw [h, h'] at hc
      cases hc
  · rw [if_neg hc] at hstate hepoch horg hlen hgroups
    cases hin : inMask arg p
    · rw [hin, if_neg Bool.false_ne_true] at hstate hepoch hlen
      exact ⟨by rw [hpart, hstate]; rfl, fun h => absurd (hin ▸ h) (hin ▸ hc), fun _ => hepoch, fun h => absurd h Bool.false_ne_true,
        fun _ _ => ⟨hstate, hlen⟩, hbytes⟩
    · rw [hin, if_pos rfl] at hstate hepoch horg hlen hgroups
      obtain ⟨hlo, hhi⟩ := Prod.mk.injEq _ _ _ _ ▸ hgroups
      exact ⟨by rw [hpart, hstate]; rfl, fun h => absurd (hin ▸ h) (hin ▸ hc), fun _ => hepoch, fun _ _ => ⟨hstate, horg, hlen, hlo, hhi⟩,
        fun h => absurd h.symm Bool.false_ne_true, hbytes⟩

/-! ## All orders -/

/-- Settles O55: an accepted order takes effect and is answered, a refused one is answered and changes nothing else, and of two that
conflict the weaker is overruled. -/
theorem orders : Obligations.Orders := by
  unfold Obligations.Orders
  exact ⟨fun _ _ _ _ _ hr ht _ hb hf hs hp hon hm ha => orderPower_completes hr ht hb hf hs hp hon hm ha,
    fun _ _ _ hr ha hv => orderEnable_completes hr ha hv, fun _ _ _ _ _ hr hp hg he => orderGroup_completes hr hp hg he,
    fun _ _ _ hr hk h0 hf => orderPort_enable_completes hr hk h0 hf, fun _ _ _ hr hk => orderPort_disable_completes hr hk,
    fun _ _ _ hr _ hok => orderRegrip_completes hr hok, fun _ _ _ hr ha => orderDerate_completes hr ha,
    fun _ _ _ hr h1 h2 h3 => orderTileclk_completes hr h1 h2 h3, fun _ _ _ hr _ hc hu h => orders_refused hr hc hu h,
    fun _ _ _ hr h1 h2 h3 => orderTileclk_overruled hr h1 h2 h3⟩

end Sys2Proof.Machine
end

section
/-!
The link, VF Enable, power states, time-outs, queue pairs and doorbells (R349, R353, R360, R361, R364, R371, R374, R377, R380): O45.
-/
namespace Sys2Proof.Machine

/-! ## The link, VF Enable and power states -/

/-- What follows the ledger's entries when the link comes up. -/
def linkNoted (rate width : Nat) : Prog :=
  all [logC 0xA002 0 43 [rate, width],
    when (decide (rate < 2) || decide (width < 4)) (logC 0xA003 1 43 []),
    look fun s => when (s.dev.chuck.booting && s.dev.chuck.load.isNone && s.dev.chuck.sources.head? == some srcHost)
      (modChuck fun c => { c with sourceAt := s.now })]

/-- The pins stay, and the log only grows. -/
abbrev notedBound : Bound where
  dev d e := e.pwr = d.pwr ∧ d.log.count ≤ e.log.count
  reg o := o ∈ logRegs
  mem := False
  host := False

theorem notedBound_steps : notedBound.Steps := ⟨fun _ => ⟨rfl, le_refl _⟩, fun h k => ⟨k.1.trans h.1, h.2.trans k.2⟩⟩
theorem notedBound_logs : notedBound.Logs := ⟨fun _ _ _ _ h => ⟨rfl, h⟩, fun _ h => h⟩

theorem linkNoted_tail_bound (rate width : Nat) : (all [when (decide (rate < 2) || decide (width < 4)) (logC 0xA003 1 43 []),
    look fun s => when (s.dev.chuck.booting && s.dev.chuck.load.isNone && s.dev.chuck.sources.head? == some srcHost)
      (modChuck fun c => { c with sourceAt := s.now })]).Only (Act.obeys notedBound) :=
  ⟨Prog.only_when.mpr fun _ => notedBound_logs.logC _ _ _ _ _, fun _ => Prog.only_when.mpr fun _ => fun _ => ⟨rfl, le_refl _⟩, trivial⟩

theorem linkNoted_bound (rate width : Nat) : (linkNoted rate width).Only (Act.obeys notedBound) :=
  ⟨notedBound_logs.logC _ _ _ _ _, linkNoted_tail_bound rate width⟩

theorem linkNoted_count (rate width : Nat) (x : State) : ((linkNoted rate width).run x).dev.log.count ≠ x.dev.log.count := by
  rw [linkNoted, Prog.run_all_cons]
  have hlt := logC_count_lt 0xA002 0 43 [rate, width] none x
  have htail := (linkNoted_tail_bound rate width).devs notedBound_steps ((logC 0xA002 0 43 [rate, width]).run x)
  exact (lt_of_lt_of_le hlt htail.2).ne'

theorem hostLinkUp_completes {s : State} {rate width : Nat} {flit : Bool} (hr : s.ready = true) (hl : s.linkUp = false) (hf : s.fenced 43 = false)
    (hj : s.jtagHolds = false) : Completes (.hostLinkUp rate width flit) s fun u => u.linkUp = true ∧ u.unitState 44 = 1 ∧
      u.epoch 43 = (s.epoch 43 + 1) % 65536 ∧ u.fld F.HQ_STATUS_RATE = rate % 8 ∧ u.fld F.HQ_STATUS_WIDTH = width % 32 ∧
      u.bit F.HQ_STATUS_FLIT = flit ∧ u.dev.pwr.pins.perstN = true ∧ u.dev.log.count ≠ s.dev.log.count ∧ SameBytes s u ∧
      SameHost s u ∧ SameRegsBut s u (F.HQ_STATUS_RATE.off :: (F.LEDG_UNIT_STATE 43).off :: (F.LEDG_UNIT_STATE 44).off :: catchRegs) := by
  refine completes_done rfl ?_
  rw [Prog.run_when, if_pos (by rw [hr, hl, hf, hj]; rfl), Prog.run_all_cons, Prog.run_all_cons, Prog.run_all_nil, linkUpProg]
  iterate 5 rw [Prog.run_all_cons]
  generalize hx : (setB F.HQ_STATUS_FLIT flit).run _ = x at *
  have hword : ∀ o, o ≠ F.HQ_STATUS_RATE.off → x.word o = s.word o := fun o ho => by
    rw [← hx]
    exact (word_setF_of_ne (f := F.HQ_STATUS_FLIT) ho _).trans ((word_setF_of_ne (f := F.HQ_STATUS_WIDTH) ho _).trans (word_setF_of_ne ho _))
  have hne : x.unitState 43 ≠ 2 := fun h => by
    rw [State.linkUp, show s.unitState 43 = 2 from (State.fld_of_word (f := F.LEDG_UNIT_STATE 43) (hword _ (by decide))).symm.trans h] at hl
    cases hl
  have hepoch : x.epoch 43 = s.epoch 43 := State.fld_of_word (f := F.LEDG_UNIT_EPOCH 43) (hword _ (by decide))
  have hrate : x.fld F.HQ_STATUS_RATE = rate % 8 := by
    rw [← hx, setB, Prog.fld_setF_other F.HQ_STATUS_FLIT F.HQ_STATUS_RATE _ _ (by decide) (by decide),
      Prog.fld_setF_other F.HQ_STATUS_WIDTH F.HQ_STATUS_RATE _ _ (by decide) (by decide), Prog.fld_setF_same _ _ _ (by decide)]
    rfl
  have hwidth : x.fld F.HQ_STATUS_WIDTH = width % 32 := by
    rw [← hx, setB, Prog.fld_setF_other F.HQ_STATUS_FLIT F.HQ_STATUS_WIDTH _ _ (by decide) (by decide),
      Prog.fld_setF_same _ _ _ (by decide)]
    rfl
  have hflit : x.bit F.HQ_STATUS_FLIT = flit := by rw [← hx, Prog.bit_setB_same rfl (by decide)]
  have hpins : x.dev.pwr.pins.perstN = true := by rw [← hx]; rfl
  have hcount : x.dev.log.count = s.dev.log.count := by rw [← hx]; rfl
  have hmem : x.mem = s.mem := by rw [← hx]; rfl
  have hhost : x.host = s.host := by rw [← hx]; rfl
  clear hx
  obtain ⟨hystate, hyepoch⟩ := declareUnit_run_of_ne hne (by decide)
  have hyline := declareUnit_line 43 2 x
  generalize (declareUnit 43 2).run x = y at *
  have hzline := setUnit_line 44 1 y
  obtain ⟨hzstate, -, -⟩ := setUnit_run 44 1 y
  have hz43 : ∀ f : Fld, f.off = 0x40100 + 4 * 43 → ((setUnit 44 1).run y).fld f = y.fld f := fun f hf =>
    hzline.fld (by rw [hf]; decide)
  generalize (setUnit 44 1).run y = z at *
  have hnote := linkNoted_bound rate width
  have hu : ∀ ps : List Prog, all ps = linkNoted rate width → ∀ v : State, (all ps).run v = (linkNoted rate width).run v := fun _ h v => by rw [h]
  rw [hu _ rfl]
  have hlog := linkNoted_count rate width z
  obtain ⟨hpwr, -⟩ := hnote.devs notedBound_steps z
  have hwords : ∀ o, o ∉ logRegs → ((linkNoted rate width).run z).word o = z.word o := fun o ho => hnote.words ho z
  have hmemu := hnote.mems id z
  have hhostu := hnote.hosts id z
  generalize (linkNoted rate width).run z = u at *
  have hlinez : ∀ o, o ≠ 0x40100 + 4 * 43 → o ≠ 0x40100 + 4 * 44 → z.word o = x.word o := fun o h h' =>
    (hzline.words o h').trans (hyline.words o h)
  have hfld : ∀ f : Fld, f.off = F.HQ_STATUS_RATE.off → u.fld f = x.fld f := fun f hf =>
    State.fld_of_word ((hwords _ (by rw [hf]; decide)).trans (hlinez _ (by rw [hf]; decide) (by rw [hf]; decide)))
  have h43 : ∀ f : Fld, f.off = 0x40100 + 4 * 43 → u.fld f = y.fld f := fun f hf =>
    (State.fld_of_word (hwords _ (by rw [hf]; decide))).trans (hz43 f hf)
  refine ⟨?_, ?_, ?_, (hfld F.HQ_STATUS_RATE rfl).trans hrate, (hfld F.HQ_STATUS_WIDTH rfl).trans hwidth, (congrArg (· == 1) (hfld F.HQ_STATUS_FLIT rfl)).trans hflit, ?_, ?_,
    fun a => ?_, fun a => ?_, fun o ho => ?_⟩
  · rw [State.linkUp, show u.unitState 43 = y.unitState 43 from h43 _ rfl, hystate]
    rfl
  · rw [show u.unitState 44 = z.unitState 44 from State.fld_of_word (hwords _ (by decide)), hzstate]
  · rw [show u.epoch 43 = y.epoch 43 from h43 _ rfl, hyepoch, hepoch]
  · rw [hpwr, hzline.dev, hyline.dev, hpins]
  · rwa [hzline.dev, hyline.dev, hcount] at hlog
  · rw [hmemu, hzline.mem, hyline.mem, hmem]
  · rw [hhostu, hzline.host, hyline.host, hhost]
  · simp only [List.mem_cons, not_or] at ho
    obtain ⟨h1, h2, h3, h4⟩ := ho
    exact (hwords o h4).trans ((hlinez o h2 h3).trans (hword o h1))

theorem vfEnable_completes {s : State} {n : Nat} (hr : s.ready = true) (hl : s.linkUp = true) (h44 : s.unitState 44 = 1) (h0 : s.dev.numVfs = 0) :
    Completes (.vfEnable n) s fun u => SameBytes s u ∧ SameHost s u ∧
      (n ≤ 63 → s.vectorsFor n ≤ 2048 → u.dev = { s.dev with numVfs := n } ∧
        (∀ v, 1 ≤ v → v ≤ n → u.unitState (44 + v) = 1) ∧ (∀ v, n < v → u.unitState (44 + v) = s.unitState (44 + v)) ∧
        (∀ o, (∀ v, 1 ≤ v → v ≤ n → o ≠ (F.LEDG_UNIT_STATE (44 + v)).off) → u.word o = s.word o)) ∧
      (63 < n ∨ 2048 < s.vectorsFor n → u.dev.numVfs = 0 ∧ u.dev.log.count ≠ s.dev.log.count ∧ SameRegsBut s u catchRegs) := by
  refine completes_done rfl ?_
  rw [Prog.run_when, if_pos (by rw [hr, hl, h44, h0]; rfl), vfEnable, Prog.run_look]
  by_cases hbad : 63 < n ∨ 2048 < s.vectorsFor n
  · rw [if_pos (by simpa using hbad)]
    have hlog := logC_run_onlyLogs 0xA00B 0 43 [n, s.vectorsFor n] none s
    have hne := logC_count_ne 0xA00B 0 43 [n, s.vectorsFor n] none s
    generalize (logC _ _ _ _).run s = u at *
    refine ⟨fun a => by rw [hlog.mem], fun a => by rw [hlog.host], fun h h' => by omega, fun _ => ⟨by rw [hlog.dev]; exact h0, hne, hlog.regs⟩⟩
  · rw [if_neg (by simpa using hbad), Prog.run_all_cons, Prog.run_all_cons, Prog.run_all_nil]
    have hset : ∀ v, 1 ≤ v → v ≤ n → ((each ((List.range n).map (· + 45)) fun u => setUnit u 1).run s).unitState (44 + v) = 1 := fun v h1 hn => by
      refine Prog.run_each_establishes (P := fun w (u : State) => u.unitState w = 1) (fun w _ u => (setUnit_run w 1 u).1) ?_ s (44 + v)
        (List.mem_map.mpr ⟨v - 1, List.mem_range.mpr (by omega), by omega⟩)
      intro w _ w' _ u hw
      by_cases h : w = w'
      · exact h ▸ (setUnit_run w 1 u).1
      · exact ((setUnit_line w' 1 u).fld (f := F.LEDG_UNIT_STATE w) (by simp; omega)).trans hw
    have hword : ∀ o, (∀ v, 1 ≤ v → v ≤ n → o ≠ (F.LEDG_UNIT_STATE (44 + v)).off) →
        ((each ((List.range n).map (· + 45)) fun u => setUnit u 1).run s).word o = s.word o := fun o ho => by
      refine Prog.run_each_keeps (P := fun (u : State) => u.word o = s.word o) (fun w hw u hu => ((setUnit_line w 1 u).words o ?_).trans hu) s rfl
      obtain ⟨i, hi, rfl⟩ := List.mem_map.mp hw
      have := ho (i + 1) (by omega) (by have := List.mem_range.mp hi; omega)
      rwa [show 44 + (i + 1) = i + 45 by omega] at this
    have hdev : ((each ((List.range n).map (· + 45)) fun u => setUnit u 1).run s).dev = s.dev :=
      Prog.run_each_keeps (P := fun (u : State) => u.dev = s.dev) (fun w _ u hu => (setUnit_line w 1 u).dev.trans hu) s rfl
    have hmem : ((each ((List.range n).map (· + 45)) fun u => setUnit u 1).run s).mem = s.mem :=
      Prog.run_each_keeps (P := fun (u : State) => u.mem = s.mem) (fun w _ u hu => (setUnit_line w 1 u).mem.trans hu) s rfl
    have hhost : ((each ((List.range n).map (· + 45)) fun u => setUnit u 1).run s).host = s.host :=
      Prog.run_each_keeps (P := fun (u : State) => u.host = s.host) (fun w _ u hu => (setUnit_line w 1 u).host.trans hu) s rfl
    generalize (each _ _).run s = x at *
    refine ⟨fun a => congrArg (·.read a) hmem, fun a => congrArg (·.read a) hhost, fun _ _ => ⟨?_, hset, fun v hv => ?_, hword⟩,
      fun h => absurd h hbad⟩
    · show { x.dev with numVfs := n } = _
      rw [hdev]
    · exact State.fld_of_word (f := F.LEDG_UNIT_STATE (44 + v)) (hword _ fun w _ hw => by simp; omega)

theorem dStateChange_completes {s : State} {f : Nat} {d3 : Bool} (hr : s.ready = true) (hl : s.linkUp = true) (hf : f < 64)
    (hs : s.unitState (44 + f) = (if d3 then 1 else 2)) : Completes (.dStateChange f d3) s fun u => u.unitState (44 + f) = (if d3 then 2 else 1) ∧
      u.dev = s.dev ∧ SameBytes s u ∧ SameHost s u ∧ SameRegsBut s u [(F.LEDG_UNIT_STATE (44 + f)).off] := by
  refine completes_done rfl ?_
  rw [Prog.run_when, if_pos (by rw [hr, hl, hs]; simp [hf])]
  have hline := setUnit_line (44 + f) (if d3 then 2 else 1) s
  refine ⟨(setUnit_run _ _ s).1.trans (by cases d3 <;> rfl), hline.dev, fun a => by rw [hline.mem], fun a => by rw [hline.host],
    fun o ho => hline.words o (by simpa using ho)⟩

/-! ## Time-outs -/

theorem imageTimeout_completes {s : State} {l : Load} (hr : s.ready = true) (hl : s.linkUp = true) (hload : s.dev.chuck.load = some l)
    (hsrc : l.src = 2) (hb : l.boot = false) (hc : s.fld F.IMG_STATUS_CHUCK = 1) :
    Completes (.cplTimeout .image) s fun u => u.dev.chuck.load = none ∧ u.fld F.IMG_STATUS_CHUCK = 0 ∧ u.fld F.IMG_RESULT_CODE = 9 ∧
      u.dev.log.count ≠ s.dev.log.count ∧ SameHost s u := by
  refine completes_done rfl ?_
  rw [Prog.run_when, if_pos (by rw [hr, hl]; rfl), cplTimeout, Prog.run_look, Prog.run_when, if_pos (by rw [hload, hc]; simp [hsrc, srcHost]),
    Prog.run_all_cons, Prog.run_all_cons, Prog.run_all_nil, timedOut]
  have hlog := logC_run_onlyLogs 0xA009 1 43 [] none s
  have hlt := logC_count_lt 0xA009 1 43 [] none s
  generalize (logC _ _ _ _).run s = x at *
  have hx : x.dev.chuck.load = some l := by rw [hlog.dev]; exact hload
  obtain ⟨hload', hchuck, -, hres, hcount, hhost, -⟩ := rejectLoad_run hx hb rSource 0
  have hle := Prog.Only.count_le (rejectLoad_keepsCount rSource 0) x
  generalize (rejectLoad rSource 0).run x = u at *
  exact ⟨hload', hchuck, hres, (lt_of_lt_of_le hlt hle).ne', fun a => (hhost a).trans (congrArg (·.read a) hlog.host)⟩

/-! ## Doorbells -/

theorem pair_modPair (q k : Nat) (f : Pair → Pair) (s : State) : ((modPair q f).run s).pair k = if k = q then f (s.pair q) else s.pair k := by
  show Sparse.get Pair.blank (Sparse.put Pair.blank s.dev.pairs q _) k = _
  rw [Sparse.get_put]
  split
  · next h => subst h; rfl
  · rfl

theorem doorbell_good {s : State} {f q size : Nat} {v : Word} {g : Nat → Prog} (ho : s.fnOpen f = true) (he : s.bit (F.QP_CTL_EN q) = true)
    (hf : s.owner q = f) (hi : bitsOf v.toNat 0 16 < size) : (doorbell f q size v g).run s = (g (bitsOf v.toNat 0 16)).run s := by
  rw [doorbell, Prog.run_look, Prog.run_when, if_pos ho, if_pos (by simp [hi, he, hf])]

/-- A pair whose doorbell announces entries up to `i`. -/
def Pair.rung (x : Pair) (h i : Nat) : Pair := { x with tail := i, bells := if h == i then x.bells else x.bells ++ [i] }

theorem inTailDoorbell_good {s : State} {f q : Nat} {v : Word} (hq : q < 256) (ho : s.fnOpen f = true) (he : s.bit (F.QP_CTL_EN q) = true)
    (hf : s.owner q = f) (hi : bitsOf v.toNat 0 16 < s.inSize q) :
    Completes (.inTailDoorbell f q v) s fun u => (u.pair q).tail = bitsOf v.toNat 0 16 ∧ (u.pair q).flight = (s.pair q).flight ∧
      (s.fld (F.QP_INDEX_IN_HEAD q) ≠ bitsOf v.toNat 0 16 → bitsOf v.toNat 0 16 ∈ (u.pair q).bells) ∧ (∀ k, k ≠ q → u.pair k = s.pair k) ∧
      u.regs = s.regs ∧ SameBytes s u ∧ SameHost s u := by
  refine completes_done rfl ?_
  rw [Prog.run_when, if_pos (by simpa using hq), doorbell_good ho he hf hi]
  have hrun : ∀ k, State.pair ((modPair q fun x => x.rung (s.fld (F.QP_INDEX_IN_HEAD q)) (bitsOf v.toNat 0 16)).run s) k = _ := fun k =>
    pair_modPair q k _ s
  show (State.pair ((modPair q fun x => x.rung (s.fld (F.QP_INDEX_IN_HEAD q)) (bitsOf v.toNat 0 16)).run s) q).tail = _ ∧ _
  refine ⟨by rw [hrun, if_pos rfl]; rfl, (congrArg Pair.flight (hrun q)).trans (by rw [if_pos rfl]; rfl), fun h => ?_,
    fun k hk => (hrun k).trans (if_neg hk), rfl, fun _ => rfl, fun _ => rfl⟩
  refine (congrArg Pair.bells (hrun q)).trans (by rw [if_pos rfl, Pair.rung, if_neg (by simpa using h)]) ▸ ?_
  exact List.mem_append_right _ (List.mem_singleton.mpr rfl)

theorem resHeadDoorbell_good {s : State} {f q : Nat} {v : Word} (hq : q < 256) (ho : s.fnOpen f = true) (he : s.bit (F.QP_CTL_EN q) = true)
    (hf : s.owner q = f) (hi : bitsOf v.toNat 0 16 < s.resSize q) :
    Completes (.resHeadDoorbell f q v) s fun u => u.pair q = { s.pair q with head := bitsOf v.toNat 0 16 } ∧
      (∀ k, k ≠ q → u.pair k = s.pair k) ∧ u.regs = s.regs ∧ SameBytes s u ∧ SameHost s u := by
  refine completes_done rfl ?_
  rw [Prog.run_when, if_pos (by simpa using hq), doorbell_good ho he hf hi]
  exact ⟨by rw [pair_modPair, if_pos rfl], fun k hk => by rw [pair_modPair, if_neg hk], rfl, fun _ => rfl, fun _ => rfl⟩

theorem inTailDoorbell_bad {s : State} {f q : Nat} {v : Word} (hq : q < 256) (hf : f < 64) (ho : s.fnOpen f = true)
    (hb : s.bit (F.QP_CTL_EN q) = false ∨ s.owner q ≠ f ∨ s.inSize q ≤ bitsOf v.toNat 0 16) :
    Completes (.inTailDoorbell f q v) s fun u => u.pair q = s.pair q ∧ SameBytes s u ∧ SameHost s u ∧
      u.fld (badAccessOf (fnPath f)) = min (s.fld (badAccessOf (fnPath f)) + 1) 65535 := by
  have hfld : (badAccessOf (fnPath f)).off ∉ catchRegs ∧ (badAccessOf (fnPath f)).w = 16 ∧ (badAccessOf (fnPath f)).lo = 0 := by
    rw [fnPath]
    split
    · decide
    · refine ⟨?_, rfl, rfl⟩
      show 0x4000014 + 0x10000 * f ∉ catchRegs
      simp [catchRegs]
      omega
  obtain ⟨hoff, hw, hlo⟩ := hfld
  refine completes_done rfl ?_
  rw [Prog.run_when, if_pos (by simpa using hq), doorbell, Prog.run_look, Prog.run_when, if_pos ho, if_neg (by
    simp only [Bool.and_eq_true, decide_eq_true_eq, beq_iff_eq]
    rintro ⟨⟨h1, h2⟩, h3⟩
    rcases hb with hb | hb | hb
    · rw [hb] at h2
      cases h2
    · exact hb h3
    · omega), badAccess]
  have ht := tally_run (logLim_onlyLogs (.ticks 2500000) q 0xA008 0 43
    [f, q, 0, if !s.bit (F.QP_CTL_EN q) then 2 else if s.owner q != f then 3 else 1] none) (badAccessOf (fnPath f)) hoff (by rw [hw, hlo]; decide) s
  generalize (all [incF _, _]).run s = u at *
  refine ⟨by rw [State.pair, State.pair, ht.dev], ht.regs.bytes, ht.regs.host, ?_⟩
  have h := ht.counted
  rw [Counted, hw] at h
  exact h

/-! ## Queue pairs -/

theorem pairWriting_run {s : State} {p : Path} {q : Nat} (hq : q < 256) (hm : s.mayPair p q = true) (prog : Prog) :
    (pairWriting p q 0 prog).run s = prog.run s := by
  have hb : benchOf (qpAt q + 0) = none := if_neg (by simp [qpAt]; omega)
  cases p with
  | vf n =>
    rw [pairWriting, Prog.run_look]
    exact congrArg (Prog.run · s) (if_pos hm)
  | _ => exact writing_run_of_reach hm hb prog

/-- Of the machine only QP_CTL of a pair has changed. -/
structure PairCtlOnly (s x : State) (q : Nat) : Prop where
  dev : x.dev = s.dev
  mem : x.mem = s.mem
  host : x.host = s.host
  words : ∀ o, o ≠ (F.QP_CTL_EN q).off → x.word o = s.word o

theorem PairCtlOnly.refl (s : State) (q : Nat) : PairCtlOnly s s q := ⟨rfl, rfl, rfl, fun _ _ => rfl⟩

theorem PairCtlOnly.setF {s x : State} {q : Nat} (h : PairCtlOnly s x q) (f : Fld) (v : Nat) (hf : f.off = (F.QP_CTL_EN q).off) :
    PairCtlOnly s ((Machine.setF f v).run x) q :=
  ⟨h.dev, h.mem, h.host, fun o ho => (word_setF_of_ne (by rw [hf]; exact ho) x).trans (h.words o ho)⟩

theorem PairCtlOnly.when {s x : State} {q : Nat} (h : PairCtlOnly s x q) (c : Bool) (P : Prog) (hP : PairCtlOnly s (P.run x) q) :
    PairCtlOnly s ((Machine.when c P).run x) q := by
  rw [Prog.run_when]
  split
  · exact hP
  · exact h

/-- FUNC belongs to the physical function. -/
def writeFunc (p : Path) (q v : Nat) : Prog :=
  match p with
  | .vf _ => .nop
  | _ => setF (F.QP_CTL_FUNC q) (bitsOf v 2 6)

theorem writeFunc_vf (n q v : Nat) : writeFunc (.vf n) q v = .nop := rfl

theorem writeFunc_other {p : Path} (h : ∀ n, p ≠ .vf n) (q v : Nat) : writeFunc p q v = setF (F.QP_CTL_FUNC q) (bitsOf v 2 6) := by
  cases p with
  | vf n => exact absurd rfl (h n)
  | _ => rfl

/-- What a write of QP_CTL does to the fields beside EN. -/
def writeCtlFields (p : Path) (q v : Nat) : Prog :=
  all [when (bitsOf v 1 1 == 1) (setB (F.QP_CTL_ERR q) false), writeFunc p q v, setF (F.QP_CTL_IN_INT q) (bitsOf v 8 1),
    setF (F.QP_CTL_IVEC q) (bitsOf v 12 8), setF (F.QP_CTL_RVEC q) (bitsOf v 20 8)]

theorem writeQpCtl_run (p : Path) (q v : Nat) (s : State) : (writeQpCtl p q v).run s =
    (when (!(bitsOf v 0 1 == 1) && s.bit (F.QP_CTL_EN q)) (all [dropFlights q, setB (F.QP_CTL_EN q) false])).run
      ((when (bitsOf v 0 1 == 1 && !s.bit (F.QP_CTL_EN q)) (if s.rangeBad q then setB (F.QP_CTL_ERR q) true
        else all [setB (F.QP_CTL_EN q) true, setWord (F.QP_INDEX_IN_HEAD q).off 0, modPair q fun _ => {}])).run
          ((writeCtlFields p q v).run s)) := by
  cases p <;> rfl

/-- The fields of QP_CTL beside EN have been written. -/
structure PairCtlWritten (s x : State) (p : Path) (q v : Nat) : Prop where
  only : PairCtlOnly s x q
  en : x.bit (F.QP_CTL_EN q) = s.bit (F.QP_CTL_EN q)
  owner_vf : ∀ n, p = .vf n → x.owner q = s.owner q
  owner : (∀ n, p ≠ .vf n) → x.owner q = bitsOf v 2 6

theorem writeCtlFields_run (p : Path) (q v : Nat) (s : State) : PairCtlWritten s ((writeCtlFields p q v).run s) p q v := by
  rw [writeCtlFields]
  iterate 5 rw [Prog.run_all_cons]
  rw [Prog.run_all_nil]
  have hw : ∀ c, ((when c (setB (F.QP_CTL_ERR q) false)).run s).bit (F.QP_CTL_EN q) = s.bit (F.QP_CTL_EN q) ∧
      ((when c (setB (F.QP_CTL_ERR q) false)).run s).owner q = s.owner q := fun c => by
    rw [Prog.run_when]
    split
    · exact ⟨congrArg (· == 1) (Prog.fld_setF_other (F.QP_CTL_ERR q) (F.QP_CTL_EN q) _ s (by decide : (0 : ℕ) + 1 ≤ 32)
        (.inr (.inl (by decide : (0 : ℕ) + 1 ≤ 1)))), Prog.fld_setF_other (F.QP_CTL_ERR q) (F.QP_CTL_FUNC q) _ s (by decide : (2 : ℕ) + 6 ≤ 32)
        (.inr (.inr (by decide : (1 : ℕ) + 1 ≤ 2)))⟩
    · exact ⟨rfl, rfl⟩
  have hwonly : PairCtlOnly s ((when (bitsOf v 1 1 == 1) (setB (F.QP_CTL_ERR q) false)).run s) q :=
    (PairCtlOnly.refl s q).when _ _ ((PairCtlOnly.refl s q).setF _ _ rfl)
  obtain ⟨hwen, hwown⟩ := hw (bitsOf v 1 1 == 1)
  generalize (when _ (setB (F.QP_CTL_ERR q) false)).run s = w at *
  clear hw
  have hx : PairCtlWritten s ((writeFunc p q v).run w) p q v := by
    cases p with
    | vf n => exact ⟨hwonly, hwen, fun _ _ => hwown, fun h => absurd rfl (h n)⟩
    | _ => exact ⟨hwonly.setF _ _ rfl, (congrArg (· == 1) (Prog.fld_setF_other (F.QP_CTL_FUNC q) (F.QP_CTL_EN q) _ w
        (by decide : (0 : ℕ) + 1 ≤ 32) (.inr (.inl (by decide : (0 : ℕ) + 1 ≤ 2))))).trans hwen, (by intro _ h; cases h),
        fun _ => (Prog.fld_setF_same (F.QP_CTL_FUNC q) _ w (by decide : (2 : ℕ) + 6 ≤ 32)).trans (Nat.mod_eq_of_lt (bitsOf_lt v 2 6))⟩
  generalize (writeFunc p q v).run w = x at *
  have hlater : ∀ (f : Fld) (n : Nat) (y : State), f.off = (F.QP_CTL_EN q).off → 8 ≤ f.lo → PairCtlWritten s y p q v →
      PairCtlWritten s ((setF f n).run y) p q v := fun f n y hf hlo hy => by
    have hen : ((setF f n).run y).bit (F.QP_CTL_EN q) = y.bit (F.QP_CTL_EN q) := congrArg (· == 1)
      (Prog.fld_setF_other f (F.QP_CTL_EN q) _ y (by decide : (0 : ℕ) + 1 ≤ 32) (.inr (.inl (le_trans (by decide : (0 : ℕ) + 1 ≤ 8) hlo))))
    have hown : ((setF f n).run y).owner q = y.owner q :=
      Prog.fld_setF_other f (F.QP_CTL_FUNC q) _ y (by decide : (2 : ℕ) + 6 ≤ 32) (.inr (.inl (le_trans (by decide : (2 : ℕ) + 6 ≤ 8) hlo)))
    exact ⟨hy.only.setF f n hf, hen.trans hy.en, fun k hk => hown.trans (hy.owner_vf k hk), fun h => hown.trans (hy.owner h)⟩
  exact hlater _ _ _ rfl (by decide : 8 ≤ 20) (hlater _ _ _ rfl (by decide : 8 ≤ 12) (hlater _ _ _ rfl (by decide : 8 ≤ 8) hx))

theorem bitsOf_setBits_zero (v b : Nat) (hb : b < 2) : bitsOf (setBits v 0 1 b) 0 1 = b := by
  rw [bitsOf_setBits_same]
  exact Nat.mod_eq_of_lt hb

/-- The last step of enabling a pair, whose range is good or bad. -/
def startPair (q : Nat) (bad : Bool) : Prog :=
  if bad then setB (F.QP_CTL_ERR q) true
  else all [setB (F.QP_CTL_EN q) true, setWord (F.QP_INDEX_IN_HEAD q).off 0, modPair q fun _ => {}]

theorem startPair_bad (q : Nat) (x : State) : PairCtlOnly x ((startPair q true).run x) q ∧
    ((startPair q true).run x).owner q = x.owner q ∧ ((startPair q true).run x).bit (F.QP_CTL_EN q) = x.bit (F.QP_CTL_EN q) ∧
    ((startPair q true).run x).bit (F.QP_CTL_ERR q) = true := by
  rw [startPair, if_pos rfl]
  refine ⟨(PairCtlOnly.refl x q).setF _ _ rfl, ?_, ?_, Prog.bit_setB_same rfl (by decide : (1 : ℕ) + 1 ≤ 32) _ _⟩
  · exact Prog.fld_setF_other (F.QP_CTL_ERR q) (F.QP_CTL_FUNC q) _ x (by decide : (2 : ℕ) + 6 ≤ 32) (.inr (.inr (by decide : (1 : ℕ) + 1 ≤ 2)))
  · exact congrArg (· == 1) (Prog.fld_setF_other (F.QP_CTL_ERR q) (F.QP_CTL_EN q) _ x (by decide : (0 : ℕ) + 1 ≤ 32)
      (.inr (.inl (by decide : (0 : ℕ) + 1 ≤ 1))))

/-- A pair that has started. -/
structure PairStarted (x u : State) (q : Nat) : Prop where
  en : u.bit (F.QP_CTL_EN q) = true
  owner : u.owner q = x.owner q
  pair : u.pair q = {}
  others : ∀ k, k ≠ q → u.pair k = x.pair k
  head : u.fld (F.QP_INDEX_IN_HEAD q) = 0
  tail : u.fld (F.QP_INDEX_RES_TAIL q) = 0
  words : ∀ o, o ≠ (F.QP_CTL_EN q).off → o ≠ (F.QP_INDEX_IN_HEAD q).off → u.word o = x.word o
  mem : u.mem = x.mem
  host : u.host = x.host

theorem startPair_good (q : Nat) (x : State) : PairStarted x ((startPair q false).run x) q := by
  rw [startPair, if_neg Bool.false_ne_true]
  iterate 3 rw [Prog.run_all_cons]
  rw [Prog.run_all_nil]
  have hen : ((setB (F.QP_CTL_EN q) true).run x).bit (F.QP_CTL_EN q) = true := Prog.bit_setB_same rfl (by decide : (0 : ℕ) + 1 ≤ 32) _ _
  have hown : ((setB (F.QP_CTL_EN q) true).run x).owner q = x.owner q := Prog.fld_setF_other (F.QP_CTL_EN q) (F.QP_CTL_FUNC q) _ x
    (by decide : (2 : ℕ) + 6 ≤ 32) (.inr (.inr (by decide : (0 : ℕ) + 1 ≤ 2)))
  have honly : PairCtlOnly x ((setB (F.QP_CTL_EN q) true).run x) q := (PairCtlOnly.refl x q).setF _ _ rfl
  generalize (setB (F.QP_CTL_EN q) true).run x = y at *
  have hw : ∀ o, ((setWord (F.QP_INDEX_IN_HEAD q).off 0).run y).word o = if o = (F.QP_INDEX_IN_HEAD q).off then 0 else y.word o :=
    fun o => State.word_reg y _ _ o
  have hne : (F.QP_CTL_EN q).off ≠ (F.QP_INDEX_IN_HEAD q).off := by simp
  have hctl : ((setWord (F.QP_INDEX_IN_HEAD q).off 0).run y).word (F.QP_CTL_EN q).off = y.word (F.QP_CTL_EN q).off := by
    rw [hw, if_neg hne]
  have hindex : ((setWord (F.QP_INDEX_IN_HEAD q).off 0).run y).word (F.QP_INDEX_IN_HEAD q).off = 0 := by rw [hw, if_pos rfl]
  have hdev : ((setWord (F.QP_INDEX_IN_HEAD q).off 0).run y).dev = y.dev := rfl
  have hmem : ((setWord (F.QP_INDEX_IN_HEAD q).off 0).run y).mem = y.mem := rfl
  have hhost : ((setWord (F.QP_INDEX_IN_HEAD q).off 0).run y).host = y.host := rfl
  generalize (setWord _ _).run y = z at *
  have hpair : ∀ k, z.pair k = x.pair k := fun k => by rw [State.pair, State.pair, hdev, honly.dev]
  have hzero : ∀ f : Fld, f.off = (F.QP_INDEX_IN_HEAD q).off → z.fld f = 0 := fun f hf => by
    rw [State.fld, hf, hindex]
    simp [bitsOf]
  refine ⟨?_, ?_, by rw [pair_modPair, if_pos rfl], fun k hk => by rw [pair_modPair, if_neg hk, hpair], hzero (F.QP_INDEX_IN_HEAD q) rfl,
    hzero (F.QP_INDEX_RES_TAIL q) rfl, fun o h1 h2 => ?_, hmem.trans honly.mem, hhost.trans honly.host⟩
  · exact (congrArg (· == 1) (State.fld_of_word (f := F.QP_CTL_EN q) hctl)).trans hen
  · exact (State.fld_of_word (f := F.QP_CTL_FUNC q) hctl).trans hown
  · exact (hw o).trans (by rw [if_neg h2, honly.words o h1])

theorem qpEnable_run {s : State} {p : Path} {q : Nat} {v : Word} (hq : q < 256) (hm : s.mayPair p q = true) (hen : s.bit (F.QP_CTL_EN q) = false) :
    exec (.qpEnable p q v) s = .next ((startPair q (s.rangeBad q)).run ((writeCtlFields p q (setBits v.toNat 0 1 1)).run s)) := by
  show done (when (q < 256) _) s = _
  have hbit : (bitsOf (setBits v.toNat 0 1 1) 0 1 == 1) = true := by rw [bitsOf_setBits_zero _ _ (by decide)]; rfl
  rw [done_eq, Prog.run_when, if_pos (by simpa using hq), pairWriting_run hq hm, writeQpCtl_run, hbit, hen, Prog.run_when (!true && false),
    if_neg (by decide), Prog.run_when (true && !false), if_pos (by decide)]
  cases s.rangeBad q <;> rfl

theorem qpEnable_completes {s : State} {p : Path} {q : Nat} {v : Word} (hq : q < 256) (hm : s.mayPair p q = true)
    (hen : s.bit (F.QP_CTL_EN q) = false) :
    Completes (.qpEnable p q v) s fun u => SameBytes s u ∧ SameHost s u ∧ (∀ k, k ≠ q → u.pair k = s.pair k) ∧
      (∀ n, p = .vf n → u.owner q = s.owner q) ∧ ((∀ n, p ≠ .vf n) → u.owner q = bitsOf v.toNat 2 6) ∧
      SameRegsBut s u [(F.QP_CTL_EN q).off, (F.QP_INDEX_IN_HEAD q).off] ∧
      (s.rangeBad q = false → u.bit (F.QP_CTL_EN q) = true ∧ u.pair q = {} ∧ u.fld (F.QP_INDEX_IN_HEAD q) = 0 ∧
        u.fld (F.QP_INDEX_RES_TAIL q) = 0) ∧
      (s.rangeBad q = true → u.bit (F.QP_CTL_EN q) = false ∧ u.bit (F.QP_CTL_ERR q) = true ∧ u.pair q = s.pair q) := by
  refine ⟨_, qpEnable_run hq hm hen, ?_⟩
  have hx := writeCtlFields_run p q (setBits v.toNat 0 1 1) s
  rw [show bitsOf v.toNat 2 6 = bitsOf (setBits v.toNat 0 1 1) 2 6 from (bitsOf_setBits_other _ _ _ _ _ _ (.inr (by decide))).symm]
  generalize setBits v.toNat 0 1 1 = n at *
  generalize (writeCtlFields p q n).run s = x at *
  obtain ⟨hxonly, hxen, hxvf, hxown⟩ := hx
  have hpair : ∀ k, x.pair k = s.pair k := fun k => by rw [State.pair, State.pair, hxonly.dev]
  cases s.rangeBad q
  · have hu := startPair_good q x
    generalize (startPair q false).run x = u at *
    exact ⟨fun a => congrArg (·.read a) (hu.mem.trans hxonly.mem), fun a => congrArg (·.read a) (hu.host.trans hxonly.host),
      fun k hk => (hu.others k hk).trans (hpair k), fun n h => hu.owner.trans (hxvf n h), fun h => hu.owner.trans (hxown h), fun o ho => by
        simp only [List.mem_cons, List.not_mem_nil, or_false, not_or] at ho
        exact (hu.words o ho.1 ho.2).trans (hxonly.words o ho.1),
      fun _ => ⟨hu.en, hu.pair, hu.head, hu.tail⟩, (by intro h; cases h)⟩
  · obtain ⟨honly, hown, hkept, herr⟩ := startPair_bad q x
    generalize (startPair q true).run x = u at *
    refine ⟨fun a => congrArg (·.read a) (honly.mem.trans hxonly.mem), fun a => congrArg (·.read a) (honly.host.trans hxonly.host),
      fun k _ => ?_, fun n h => hown.trans (hxvf n h), fun h => hown.trans (hxown h), fun o ho => ?_, (by intro h; cases h),
      fun _ => ⟨hkept.trans (hxen.trans hen), herr, ?_⟩⟩
    · rw [← hpair, State.pair, State.pair, honly.dev]
    · simp only [List.mem_cons, List.not_mem_nil, or_false, not_or] at ho
      exact (honly.words o ho.1).trans (hxonly.words o ho.1)
    · rw [← hpair, State.pair, State.pair, honly.dev]

/-- What dropping flights may change: the pair's own, and the marks of stream slots. -/
abbrev flightsBound (q : Nat) : Bound where
  dev d e := (∀ k, k ≠ q → Sparse.get Pair.blank e.pairs k = Sparse.get Pair.blank d.pairs k) ∧ ∀ n,
    (Sparse.get SlotDyn.blank e.slots n).chunks = (Sparse.get SlotDyn.blank d.slots n).chunks ∧
    (Sparse.get SlotDyn.blank e.slots n).results = (Sparse.get SlotDyn.blank d.slots n).results
  reg _ := False
  mem := False
  host := False

theorem flightsBound_steps (q : Nat) : (flightsBound q).Steps :=
  ⟨fun _ => ⟨fun _ _ => rfl, fun _ => ⟨rfl, rfl⟩⟩, fun h h' => ⟨fun k hk => (h'.1 k hk).trans (h.1 k hk),
    fun n => ⟨(h'.2 n).1.trans (h.2 n).1, (h'.2 n).2.trans (h.2 n).2⟩⟩⟩

theorem gapNext_flightsBound (q slot : Nat) : (gapNext slot).Only (Act.obeys (flightsBound q)) := fun d => by
  refine ⟨fun _ _ => rfl, fun n => ?_⟩
  show (Sparse.get SlotDyn.blank (Sparse.put SlotDyn.blank d.slots slot _) n).chunks = _ ∧
    (Sparse.get SlotDyn.blank (Sparse.put SlotDyn.blank d.slots slot _) n).results = _
  rw [Sparse.get_put]
  split
  · next h => subst h; exact ⟨rfl, rfl⟩
  · exact ⟨rfl, rfl⟩

theorem modPair_flightsBound (q : Nat) (f : Pair → Pair) : (modPair q f).Only (Act.obeys (flightsBound q)) := fun _ =>
  ⟨fun _ hk => Sparse.get_put_other _ _ _ _ _ hk, fun _ => ⟨rfl, rfl⟩⟩

theorem dropFlights_flightsBound (q : Nat) : (dropFlights q).Only (Act.obeys (flightsBound q)) := fun _ =>
  ⟨Prog.only_each.mpr fun e _ => Prog.only_when.mpr fun _ => gapNext_flightsBound q e.stream, modPair_flightsBound q _, trivial⟩

theorem dropFlights_pair (q : Nat) (x : State) : (((dropFlights q).run x).pair q).flight = [] ∧ (((dropFlights q).run x).pair q).bells = [] := by
  rw [dropFlights, Prog.run_look, Prog.run_all_cons, Prog.run_all_cons, Prog.run_all_nil, pair_modPair, if_pos rfl]
  exact ⟨rfl, rfl⟩

theorem qpDisable_run {s : State} {p : Path} {q : Nat} {v : Word} (hq : q < 256) (hm : s.mayPair p q = true) (hen : s.bit (F.QP_CTL_EN q) = true) :
    exec (.qpDisable p q v) s = .next ((setB (F.QP_CTL_EN q) false).run ((dropFlights q).run
      ((writeCtlFields p q (setBits v.toNat 0 1 0)).run s))) := by
  show done (when (q < 256) _) s = _
  have hbit : (bitsOf (setBits v.toNat 0 1 0) 0 1 == 1) = false := by rw [bitsOf_setBits_zero _ _ (by decide)]; rfl
  rw [done_eq, Prog.run_when, if_pos (by simpa using hq), pairWriting_run hq hm, writeQpCtl_run, hbit, hen, Prog.run_when (!false && true),
    if_pos (by decide), Prog.run_when (false && !true), if_neg (by decide), Prog.run_all_cons, Prog.run_all_cons, Prog.run_all_nil]

theorem qpDisable_completes {s : State} {p : Path} {q : Nat} {v : Word} (hq : q < 256) (hm : s.mayPair p q = true)
    (hen : s.bit (F.QP_CTL_EN q) = true) :
    Completes (.qpDisable p q v) s fun u => u.bit (F.QP_CTL_EN q) = false ∧ (u.pair q).flight = [] ∧ (u.pair q).bells = [] ∧
      (∀ k, k ≠ q → u.pair k = s.pair k) ∧ (∀ n, (u.slot n).chunks = (s.slot n).chunks ∧ (u.slot n).results = (s.slot n).results) ∧
      SameBytes s u ∧ SameHost s u ∧ SameRegsBut s u [(F.QP_CTL_EN q).off] := by
  refine ⟨_, qpDisable_run hq hm hen, ?_⟩
  have hx := (writeCtlFields_run p q (setBits v.toNat 0 1 0) s).only
  generalize (writeCtlFields p q _).run s = x at *
  obtain ⟨hothers, hslots⟩ := (dropFlights_flightsBound q).devs (flightsBound_steps q) x
  obtain ⟨hflight, hbells⟩ := dropFlights_pair q x
  have hwords : ∀ o, ((dropFlights q).run x).word o = x.word o := fun o => (dropFlights_flightsBound q).words id x
  have hmem := (dropFlights_flightsBound q).mems id x
  have hhost := (dropFlights_flightsBound q).hosts id x
  generalize (dropFlights q).run x = y at *
  refine ⟨Prog.bit_setB_same rfl (by decide : (0 : ℕ) + 1 ≤ 32) _ _, hflight, hbells, fun k hk => ?_, fun n => ?_, fun a => ?_, fun a => ?_,
    fun o ho => ?_⟩
  · exact (hothers k hk).trans (by rw [hx.dev]; rfl)
  · exact ⟨(hslots n).1.trans (by rw [hx.dev]; rfl), (hslots n).2.trans (by rw [hx.dev]; rfl)⟩
  · exact congrArg (·.read a) (hmem.trans hx.mem)
  · exact congrArg (·.read a) (hhost.trans hx.host)
  · have ho' : o ≠ (F.QP_CTL_EN q).off := by simpa using ho
    exact (word_setF_of_ne (f := F.QP_CTL_EN q) ho' y).trans ((hwords o).trans (hx.words o ho'))

/-! ## A payload that does not come -/

/-- What follows when an entry has been passed: writes to the host, and messages. -/
abbrev passBound : Bound where
  dev d e := e.pairs = d.pairs ∧ e.slots = d.slots ∧ e.log = d.log
  reg o := (0x30000 ≤ o ∧ o < 0x40000) ∨ 0x4000000 ≤ o
  mem := False
  host := True

theorem passBound_steps : passBound.Steps :=
  ⟨fun _ => ⟨rfl, rfl, rfl⟩, fun h k => ⟨k.1.trans h.1, k.2.1.trans h.2.1, k.2.2.trans h.2.2⟩⟩

theorem emitOut_passBound (o : Out) : (emitOut o).Only (Act.obeys passBound) := fun _ => ⟨rfl, rfl, rfl⟩

theorem sendMsix_passBound {fn vec : Nat} (h : fn = 0 → vec < 64) : (sendMsix fn vec).Only (Act.obeys passBound) := fun s => by
  dsimp only
  split
  · refine setF_obeys.mpr ?_
    show (0x30000 ≤ (msixPba fn vec).off ∧ (msixPba fn vec).off < 0x40000) ∨ 0x4000000 ≤ (msixPba fn vec).off
    rw [msixPba]
    dsimp only
    split
    · next h0 =>
      have := h h0
      omega
    · omega
  · exact emitOut_passBound _

theorem signalPair_passBound (q vec : Nat) : (signalPair q vec).Only (Act.obeys passBound) := fun s =>
  Prog.only_when.mpr fun h => sendMsix_passBound fun h0 => by
    rw [State.vecsOf, h0] at h
    simpa using h

/-- The first entry of a pair has been passed. -/
structure EntryPassed (x u : State) (q : Nat) : Prop where
  pair : u.pair q = { x.pair q with flight := (x.pair q).flight.drop 1, bells := (u.pair q).bells }
  others : ∀ k, k ≠ q → u.pair k = x.pair k
  head : x.inSize q ≤ 2 ^ 16 → u.fld (F.QP_INDEX_IN_HEAD q) = (x.fld (F.QP_INDEX_IN_HEAD q) + 1) % x.inSize q
  slots : u.dev.slots = x.dev.slots
  log : u.dev.log = x.dev.log
  words : ∀ o, o ≠ (F.QP_INDEX_IN_HEAD q).off → 0x40000 ≤ o → o < 0x4000000 → u.word o = x.word o
  mem : u.mem = x.mem

theorem passEntry_run {q : Nat} (hq : q < 256) (x : State) : EntryPassed x ((passEntry q).run x) q := by
  rw [passEntry, Prog.run_look, Prog.run_all_cons, Prog.run_all_cons]
  have hhead : x.inSize q ≤ 2 ^ 16 → ((setF (F.QP_INDEX_IN_HEAD q) ((x.fld (F.QP_INDEX_IN_HEAD q) + 1) % x.inSize q)).run x).fld
      (F.QP_INDEX_IN_HEAD q) = (x.fld (F.QP_INDEX_IN_HEAD q) + 1) % x.inSize q := fun h => by
    rw [Prog.fld_setF_same (F.QP_INDEX_IN_HEAD q) _ x (by decide : (0 : ℕ) + 16 ≤ 32)]
    exact Nat.mod_eq_of_lt (lt_of_lt_of_le (Nat.mod_lt _ (Nat.two_pow_pos _)) h)
  have hw : ∀ o, o ≠ (F.QP_INDEX_IN_HEAD q).off → ((setF (F.QP_INDEX_IN_HEAD q) ((x.fld (F.QP_INDEX_IN_HEAD q) + 1) % x.inSize q)).run x).word o =
      x.word o := fun o ho => word_setF_of_ne ho x
  have hydev : ((setF (F.QP_INDEX_IN_HEAD q) ((x.fld (F.QP_INDEX_IN_HEAD q) + 1) % x.inSize q)).run x).dev = x.dev := rfl
  have hymem : ((setF (F.QP_INDEX_IN_HEAD q) ((x.fld (F.QP_INDEX_IN_HEAD q) + 1) % x.inSize q)).run x).mem = x.mem := rfl
  generalize hh : (x.fld (F.QP_INDEX_IN_HEAD q) + 1) % x.inSize q = h at *
  generalize (setF (F.QP_INDEX_IN_HEAD q) h).run x = y at *
  have hbells : ∃ f : Pair → Pair, (f = fun p => { p with flight := p.flight.drop 1, bells := p.bells.filter (· != h) }) := ⟨_, rfl⟩
  obtain ⟨f, hf⟩ := hbells
  rw [← hf]
  have hpair := fun k => pair_modPair q k f y
  have hzdev : ((modPair q f).run y).dev = { y.dev with pairs := ((modPair q f).run y).dev.pairs } := rfl
  have hzw : ∀ o, ((modPair q f).run y).word o = y.word o := fun _ => rfl
  have hzmem : ((modPair q f).run y).mem = y.mem := rfl
  generalize (modPair q f).run y = z at *
  have htell : (all [when (x.qpW q 0x28 / 4 * 4 + 2 ^ 32 * x.qpW q 0x2C != 0)
        (hostWrite (x.owner q) (x.qpW q 0x28 / 4 * 4 + 2 ^ 32 * x.qpW q 0x2C) (toBytes 4 h)),
      when (x.bit (F.QP_CTL_IN_INT q)) (each ((x.pair q).bells.filter (· == h)) fun _ => signalPair q (x.fld (F.QP_CTL_IVEC q)))]).Only
        (Act.obeys passBound) :=
    ⟨Prog.only_when.mpr fun _ => ⟨trivial, emitOut_passBound _, trivial⟩,
      Prog.only_when.mpr fun _ => Prog.only_each.mpr fun _ _ => signalPair_passBound q _, trivial⟩
  obtain ⟨hpairs, hslots, hlog⟩ := htell.devs passBound_steps z
  have hwords : ∀ {o}, 0x40000 ≤ o → o < 0x4000000 → _ = z.word o := fun {o} h1 h2 => htell.words (off := o) (by
    show ¬((0x30000 ≤ o ∧ o < 0x40000) ∨ 0x4000000 ≤ o)
    omega) z
  have hmem := htell.mems id z
  generalize (all [when _ _, when _ _]).run z = u at *
  have hupair : ∀ k, u.pair k = z.pair k := fun k => by rw [State.pair, State.pair, hpairs]
  have hypair : ∀ k, y.pair k = x.pair k := fun k => by rw [State.pair, State.pair, hydev]
  have hindex : u.word (F.QP_INDEX_IN_HEAD q).off = y.word (F.QP_INDEX_IN_HEAD q).off :=
    (hwords (by simp; omega) (by simp; omega)).trans (hzw _)
  refine ⟨?_, fun k hk => by rw [hupair, hpair, if_neg hk, hypair], fun hs => (State.fld_of_word hindex).trans ((hhead hs).trans hh.symm), ?_, ?_,
    fun o ho h1 h2 => (hwords h1 h2).trans ((hzw o).trans (hw o ho)), hmem.trans (hzmem.trans hymem)⟩
  · rw [hupair, hpair, if_pos rfl, hypair, hf]
  · rw [hslots, hzdev, hydev]
  · rw [hlog, hzdev, hydev]

theorem passFront_nil {q n : Nat} {x : State} (h : (x.pair q).flight = []) : (passFront q n).run x = x := by
  cases n with
  | zero => rfl
  | succ n =>
    rw [passFront, Prog.run_look, h]
    rfl

theorem logPair_onlyLogs (code q : Nat) (lim : Limit) (stream cause : Nat) : (logPair code q lim stream cause).Only Act.logs := fun s =>
  logLim_onlyLogs lim q code 0 43 [s.owner q, q, stream, cause] (some stream)

theorem gapNext_slot (n k : Nat) (x : State) : ((gapNext n).run x).slot k = if k = n then { x.slot n with gap := true } else x.slot k := by
  show Sparse.get SlotDyn.blank (Sparse.put SlotDyn.blank x.dev.slots n _) k = _
  rw [Sparse.get_put]
  split
  · next h => subst h; rfl
  · rfl

theorem payloadTimeout_completes {s : State} {q : Nat} {e : Ingest} (hr : s.ready = true) (hl : s.linkUp = true) (hq : q < 256)
    (hflight : (s.pair q).flight = [some e]) (hs : s.inSize q ≤ 2 ^ 16) :
    Completes (.cplTimeout (.payload q)) s fun u => (u.pair q).flight = [] ∧ (u.slot e.stream).gap = true ∧
      u.fld (F.QP_INDEX_IN_HEAD q) = (s.fld (F.QP_INDEX_IN_HEAD q) + 1) % s.inSize q ∧
      u.fld (F.QP_IN_DROPS q) = min (s.fld (F.QP_IN_DROPS q) + 1) (2 ^ 32 - 1) ∧ u.dev.log.count ≠ s.dev.log.count ∧
      (∀ n, (u.slot n).chunks = (s.slot n).chunks) ∧ SameBytes s u := by
  refine completes_done rfl ?_
  rw [Prog.run_when, if_pos (by rw [hr, hl]; rfl), cplTimeout, Prog.run_look, hflight]
  dsimp only
  iterate 5 rw [Prog.run_all_cons]
  rw [Prog.run_all_nil, timedOut]
  have hlog := logC_run_onlyLogs 0xA009 1 43 [] none s
  have hlt := logC_count_lt 0xA009 1 43 [] none s
  generalize (logC 0xA009 1 43 []).run s = w at *
  rw [ingestDrop, Prog.run_look]
  have hsame : ∀ f : Fld, 0x81000 ≤ f.off → w.fld f = s.fld f := fun f hf => hlog.fld (by
    simp only [logRegs, List.mem_cons, List.not_mem_nil, or_false]
    omega)
  have hdrops : (F.QP_IN_DROPS q).off ∉ catchRegs := by
    simp only [catchRegs, List.mem_cons, List.not_mem_nil, or_false]
    omega
  have ht := tally_run (logPair_onlyLogs 0xA006 q (w.slotLimit e.stream) e.stream 9) (F.QP_IN_DROPS q) hdrops (by exact le_refl 32) w
  have hcount := Prog.Only.count_le (p := all [incF (F.QP_IN_DROPS q), logPair 0xA006 q (w.slotLimit e.stream) e.stream 9]) (by simp) w
  generalize (all [incF (F.QP_IN_DROPS q), _]).run w = x at *
  have hxs : ∀ f : Fld, 0x81000 ≤ f.off → f.off ≠ (F.QP_IN_DROPS q).off → x.fld f = s.fld f := fun f h1 h2 =>
    (State.fld_of_word (ht.regs.regs _ fun hm => (List.mem_cons.mp hm).elim h2 fun hm => by
      simp only [catchRegs, List.mem_cons, List.not_mem_nil, or_false] at hm
      omega)).trans (hsame f h1)
  have hxdev : x.dev.slots = s.dev.slots ∧ x.dev.pairs = s.dev.pairs := by
    rw [ht.dev, hlog.dev]
    exact ⟨rfl, rfl⟩
  have hsize : x.inSize q = s.inSize q := congrArg (2 ^ ·) (hxs (F.QP_SIZES_IN_LOG2 q) (by simp; omega) (by simp))
  have hslot := fun k => gapNext_slot e.stream k x
  have hydev : ((gapNext e.stream).run x).dev = { x.dev with slots := ((gapNext e.stream).run x).dev.slots } := rfl
  have hyw : ∀ f, ((gapNext e.stream).run x).fld f = x.fld f := fun _ => rfl
  have hymem : ((gapNext e.stream).run x).mem = x.mem := rfl
  generalize (gapNext e.stream).run x = y at *
  have hz := passEntry_run hq y
  generalize (passEntry q).run y = z at *
  have hyflight : (y.pair q).flight = [some e] := by
    rw [← hflight, State.pair, State.pair, hydev, ← hxdev.2]
  have hzflight : (z.pair q).flight = [] := by rw [hz.pair, hyflight]; rfl
  rw [passFront_nil hzflight]
  have hysize : y.inSize q = s.inSize q := (congrArg (2 ^ ·) (hyw (F.QP_SIZES_IN_LOG2 q))).trans hsize
  have hzslot : ∀ k, z.slot k = y.slot k := fun k => by rw [State.slot, State.slot, hz.slots]
  have hsslot : ∀ k, x.slot k = s.slot k := fun k => by rw [State.slot, State.slot, hxdev.1]
  refine ⟨hzflight, by rw [hzslot, hslot, if_pos rfl], ?_, ?_, ?_, fun n => ?_, fun a => ?_⟩
  · rw [hz.head (hysize ▸ hs), hysize, hyw, hxs (F.QP_INDEX_IN_HEAD q) (by simp; omega) (by simp)]
  · rw [State.fld_of_word (hz.words (F.QP_IN_DROPS q).off (by simp) (by simp; omega) (by simp; omega)), hyw, ht.counted,
      hsame (F.QP_IN_DROPS q) (by simp; omega)]
  · rw [hz.log, hydev]
    exact (lt_of_lt_of_le hlt hcount).ne'
  · rw [hzslot, hslot, ← hsslot n]
    split
    · next h => rw [h]
    · rfl
  · rw [hz.mem, hymem]
    exact (ht.regs.bytes a).trans (congrArg (·.read a) hlog.mem)

/-- Settles O45: the link, VF Enable and the power states, time-outs, queue pairs and doorbells, clause by clause. -/
theorem hostLinkAndQueues : Obligations.HostLinkAndQueues := by
  unfold Obligations.HostLinkAndQueues
  exact ⟨fun _ _ _ _ hr hl hf hj => hostLinkUp_completes hr hl hf hj, fun _ _ hr hl h44 h0 => vfEnable_completes hr hl h44 h0,
    fun _ _ _ hr hl hf hs => dStateChange_completes hr hl hf hs, fun _ _ _ hr hl hq hflight hs => payloadTimeout_completes hr hl hq hflight hs,
    fun _ _ hr hl hload hsrc hb hc => imageTimeout_completes hr hl hload hsrc hb hc, fun _ _ _ _ hq hm hen => qpEnable_completes hq hm hen,
    fun _ _ _ _ hq hm hen => qpDisable_completes hq hm hen, fun _ _ _ _ hq ho he hf hi => inTailDoorbell_good hq ho he hf hi,
    fun _ _ _ _ hq ho he hf hi => resHeadDoorbell_good hq ho he hf hi, fun _ _ _ _ hq hf ho hb => inTailDoorbell_bad hq hf ho hb⟩

end Sys2Proof.Machine
end

section
/-!
The page ledger and the lists, and the page operations of host software (R242, R243, R268, R269): O34.
-/
namespace Sys2Proof.Machine

/-! ## Numbers in memory -/

/-- Of two states only bytes of one range of memory differ. -/
structure MemPut (x y : State) (a n : Nat) : Prop where
  dev : y.dev = x.dev
  regs : y.regs = x.regs
  host : y.host = x.host
  bytes : SameBytesBut x y a n

theorem MemPut.refl (x : State) (a n : Nat) : MemPut x x a n := ⟨rfl, rfl, rfl, fun _ _ => rfl⟩

theorem MemPut.trans {x y z : State} {a n : Nat} (h : MemPut x y a n) (k : MemPut y z a n) : MemPut x z a n :=
  ⟨k.dev.trans h.dev, k.regs.trans h.regs, k.host.trans h.host, fun b hb => (k.bytes b hb).trans (h.bytes b hb)⟩

theorem Memory.reads_congr {m m' : Memory} {a n : Nat} (h : ∀ b, a ≤ b → b < a + n → m'.read b = m.read b) : m'.reads a n = m.reads a n := by
  induction n generalizing a with
  | zero => rfl
  | succ n ih => rw [Memory.reads, Memory.reads, h a (le_refl a) (by omega), ih fun b h1 h2 => h b (by omega) (by omega)]

theorem SameBytesBut.readN {x y : State} {a n b m : Nat} (h : SameBytesBut x y a n) (hd : Apart a n b m) : y.readN b m = x.readN b m :=
  congrArg ofBytes (Memory.reads_congr fun c h1 h2 => h c (by rcases hd with hd | hd <;> omega))

theorem SameBytesBut.read32 {x y : State} {a n b : Nat} (h : SameBytesBut x y a n) (hd : Apart a n b 4) : y.read32 b = x.read32 b :=
  h.readN hd

theorem putN_put (a n v : Nat) (x : State) : MemPut x ((putN a n v).run x) a n :=
  ⟨rfl, rfl, rfl, fun b hb => Memory.read_writes_other _ _ _ _ (by rwa [toBytes_length])⟩

theorem putN_readN (a n v : Nat) (x : State) : ((putN a n v).run x).readN a n = v % 2 ^ (8 * n) := by
  have h := Memory.reads_writes x.mem a (toBytes n v)
  rw [toBytes_length] at h
  show ofBytes ((x.mem.writes a (toBytes n v)).reads a n) = _
  rw [h, ofBytes_toBytes]

/-! ## The page ledger -/

theorem MemPut.word {x y : State} {a n : Nat} (h : MemPut x y a n) (o : Nat) : y.word o = x.word o := State.word_of_regs h.regs o
theorem MemPut.fld {x y : State} {a n : Nat} (h : MemPut x y a n) (f : Fld) : y.fld f = x.fld f := State.fld_of_word (h.word _)
theorem MemPut.ledgerAt {x y : State} {a n : Nat} (h : MemPut x y a n) (page : Nat) : y.ledgerAt page = x.ledgerAt page := by
  rw [State.ledgerAt, State.ledgerAt, h.fld]

theorem bitsOf_mod_word (v lo w : Nat) (h : lo + w ≤ 32) : bitsOf (v % 2 ^ 32) lo w = bitsOf v lo w := by
  have hw := bitsOf_word v lo w h
  rwa [BitVec.toNat_ofNat] at hw

/-- A page's line in the ledger is `v`, cut to a word. -/
structure LinePut (x y : State) (page v : Nat) : Prop where
  put : MemPut x y (x.ledgerAt page) 4
  bits : ∀ lo w, lo + w ≤ 32 → bitsOf (y.pageEntry page) lo w = bitsOf v lo w

theorem put32_line (page v : Nat) (x : State) : LinePut x ((put32 (x.ledgerAt page) v).run x) page v := by
  have hput := putN_put (x.ledgerAt page) 4 v x
  refine ⟨hput, fun lo w h => ?_⟩
  have hread : ((put32 (x.ledgerAt page) v).run x).pageEntry page = v % 2 ^ 32 := by
    rw [State.pageEntry, show ((put32 (x.ledgerAt page) v).run x).ledgerAt page = x.ledgerAt page from hput.ledgerAt page]
    exact putN_readN _ 4 v x
  rw [hread, bitsOf_mod_word _ _ _ h]

theorem setPage_line (page lo w v : Nat) (x : State) : LinePut x ((setPage page lo w v).run x) page (setBits (x.pageEntry page) lo w v) :=
  put32_line page _ x

/-- The count of references of a page has changed, and nothing else about it. -/
structure RefSet (x y : State) (page r : Nat) : Prop where
  put : MemPut x y (x.ledgerAt page) 4
  ref : y.pageRef page = r
  pin : y.pagePin page = x.pagePin page
  alloc : y.pageAlloc page = x.pageAlloc page
  poison : y.pagePoison page = x.pagePoison page

theorem setRef_run {page r : Nat} (hr : r < 2 ^ 16) (x : State) : RefSet x ((setPage page 0 16 r).run x) page r := by
  obtain ⟨hput, hbits⟩ := setPage_line page 0 16 r x
  have hother : ∀ lo w, 16 ≤ lo → lo + w ≤ 32 → bitsOf (((setPage page 0 16 r).run x).pageEntry page) lo w = bitsOf (x.pageEntry page) lo w :=
    fun lo w h h' => (hbits lo w h').trans (bitsOf_setBits_other _ _ _ _ _ _ (.inr (by omega)))
  refine ⟨hput, ?_, hother 16 8 (by decide) (by decide), congrArg (· == 1) (hother 27 1 (by decide) (by decide)),
    congrArg (· == 1) (hother 28 1 (by decide) (by decide))⟩
  rw [State.pageRef, hbits 0 16 (by decide), bitsOf_setBits_same, Nat.mod_eq_of_lt hr]

theorem State.pageRef_lt (s : State) (page : Nat) : s.pageRef page < 2 ^ 16 := bitsOf_lt _ _ _

theorem retainPage_run {page : Nat} {x : State} (h : x.pageRef page < 65535) : RefSet x ((retainPage page).run x) page (x.pageRef page + 1) :=
  setRef_run (by omega) x

theorem freeIfIdle_busy {page : Nat} {x : State} (h : x.pageRef page ≠ 0 ∨ x.pagePin page ≠ 0 ∨ x.pageAlloc page = false) :
    (freeIfIdle page).run x = x := by
  rw [freeIfIdle, Prog.run_look, Prog.run_when, if_neg ?_]
  simp only [Bool.and_eq_true, beq_iff_eq]
  rintro ⟨⟨h1, h2⟩, h3⟩
  rcases h with h | h | h
  · exact h h2
  · exact h h3
  · rw [h] at h1
    cases h1

theorem releasePage_run (page : Nat) (x : State) : (releasePage page).run x =
    (freeIfIdle page).run ((setPage page 0 16 (x.pageRef page - 1)).run x) := rfl

/-- A page that still has references or pins only loses one reference. -/
theorem releasePage_shared {page : Nat} {x : State} (h : x.pageRef page ≠ 1 ∨ x.pagePin page ≠ 0 ∨ x.pageAlloc page = false)
    (h0 : x.pageRef page ≠ 0) : RefSet x ((releasePage page).run x) page (x.pageRef page - 1) := by
  have hlt := x.pageRef_lt page
  have hset := setRef_run (page := page) (r := x.pageRef page - 1) (by omega) x
  rw [releasePage_run, freeIfIdle_busy]
  · exact hset
  · rw [hset.ref, hset.pin, hset.alloc]
    exact h.imp_left fun h => by omega

/-- A page that loses its last reference is free. -/
structure PageFreed (x y : State) (page : Nat) : Prop where
  dev : y.dev = x.dev
  host : y.host = x.host
  bytes : SameBytesBut x y (x.ledgerAt page) 4
  words : ∀ o, o ≠ F.KV_FREES.off → y.word o = x.word o
  frees : y.fld F.KV_FREES = min (x.fld F.KV_FREES + 1) (2 ^ F.KV_FREES.w - 1)
  ref : y.pageRef page = 0
  alloc : y.pageAlloc page = false

theorem incF_memories (f : Fld) (x : State) :
    ((incF f).run x).dev = x.dev ∧ ((incF f).run x).mem = x.mem ∧ ((incF f).run x).host = x.host := ⟨rfl, rfl, rfl⟩

theorem setF_memories (f : Fld) (v : Nat) (x : State) :
    ((setF f v).run x).dev = x.dev ∧ ((setF f v).run x).mem = x.mem ∧ ((setF f v).run x).host = x.host := ⟨rfl, rfl, rfl⟩

/-- The lowest bits of a field that has been written are those of what has been written. -/
theorem bitsOf_setBits_low (n : Nat) {lo w v w' : Nat} (h : lo + w ≤ w') : bitsOf (setBits n 0 w' v) lo w = bitsOf v lo w := by
  refine Nat.eq_of_testBit_eq fun i => ?_
  rw [testBit_bitsOf, testBit_bitsOf, testBit_setBits]
  by_cases hi : i < w
  · rw [if_pos (by omega), Nat.sub_zero]
  · simp [hi]

theorem freeIfIdle_idle_eq {page : Nat} {x : State} (hr : x.pageRef page = 0) (hp : x.pagePin page = 0) (ha : x.pageAlloc page = true)
    (hpo : x.pagePoison page = false) : (freeIfIdle page).run x = (incF F.KV_FREES).run ((setPage page 27 1 0).run x) := by
  rw [freeIfIdle, Prog.run_look, Prog.run_when, if_pos (by rw [hr, hp, ha]; rfl), Prog.run_all_cons, Prog.run_all_cons, Prog.run_all_cons,
    Prog.run_all_nil]
  cases x.poolOf page with
  | none => rw [Prog.run_nop]
  | some k =>
    dsimp only
    rw [hpo, Prog.run_when, if_neg Bool.false_ne_true]

theorem freeIfIdle_idle {page : Nat} {x : State} (hr : x.pageRef page = 0) (hp : x.pagePin page = 0) (ha : x.pageAlloc page = true)
    (hpo : x.pagePoison page = false) : PageFreed x ((freeIfIdle page).run x) page := by
  rw [freeIfIdle_idle_eq hr hp ha hpo]
  obtain ⟨hput, hbits⟩ := setPage_line page 27 1 0 x
  generalize (setPage page 27 1 0).run x = y at *
  have hledger : ((incF F.KV_FREES).run y).ledgerAt page = y.ledgerAt page := by
    rw [State.ledgerAt, State.ledgerAt, State.fld_of_word (Prog.word_incF_other (by decide) y)]
  obtain ⟨hdev, hmem, hhost⟩ := incF_memories F.KV_FREES y
  have hentry : ((incF F.KV_FREES).run y).pageEntry page = y.pageEntry page := by
    rw [State.pageEntry, State.pageEntry, hledger, State.read32, State.read32, State.readN, State.readN, hmem]
  refine ⟨hdev.trans hput.dev, hhost.trans hput.host, fun b hb => (congrArg (·.read b) hmem).trans (hput.bytes b hb),
    fun o ho => (Prog.word_incF_other ho y).trans (hput.word o), ?_, ?_, ?_⟩
  · rw [Prog.fld_incF _ _ (by decide), hput.fld]
  · rw [State.pageRef, hentry, hbits 0 16 (by decide), bitsOf_setBits_other _ _ _ _ _ _ (.inl (by decide))]
    exact hr
  · rw [State.pageAlloc, hentry, hbits 27 1 (by decide), bitsOf_setBits_same]
    rfl

/-! ## Commands -/

/-- States that differ in no register but KV_OP_CTL. -/
structure KvAlike (s y : State) : Prop where
  dev : y.dev = s.dev
  mem : y.mem = s.mem
  host : y.host = s.host
  words : ∀ o, o ≠ F.KV_OP_CTL_OPC.off → y.word o = s.word o

theorem KvAlike.fld {s y : State} (h : KvAlike s y) {f : Fld} (hf : f.off ≠ F.KV_OP_CTL_OPC.off) : y.fld f = s.fld f :=
  State.fld_of_word (h.words _ hf)

theorem KvAlike.readN {s y : State} (h : KvAlike s y) : y.readN = s.readN := by
  funext a n
  rw [State.readN, State.readN, h.mem]

theorem KvAlike.read32 {s y : State} (h : KvAlike s y) : y.read32 = s.read32 := by
  funext a
  rw [State.read32, State.read32, h.readN]

theorem KvAlike.ledgerAt {s y : State} (h : KvAlike s y) : y.ledgerAt = s.ledgerAt := by
  funext page
  rw [State.ledgerAt, State.ledgerAt, h.fld (by decide)]

theorem KvAlike.pageEntry {s y : State} (h : KvAlike s y) : y.pageEntry = s.pageEntry := by
  funext page
  rw [State.pageEntry, State.pageEntry, h.read32, h.ledgerAt]

theorem KvAlike.poolOf {s y : State} (h : KvAlike s y) : y.poolOf = s.poolOf := by
  funext page
  refine List.find?_congr fun k hk => ?_
  have hk := List.mem_range.mp hk
  rw [State.bit, State.bit, h.fld (f := F.KV_POOL_A_VALID k) (by simp; omega), h.fld (f := F.KV_POOL_B_FIRST k) (by simp; omega),
    h.fld (f := F.KV_POOL_C_COUNT k) (by simp; omega)]

theorem KvAlike.nextPage {s y : State} (h : KvAlike s y) (k : Nat) : y.nextPage k = s.nextPage k := by
  have hfree : ∀ n p, y.firstFree n p = s.firstFree n p := fun n => by
    induction n with
    | zero => exact fun _ => rfl
    | succ n ih =>
      intro p
      rw [State.firstFree, State.firstFree, ih, State.pageAlloc, State.pageAlloc, h.pageEntry]
  rw [State.nextPage, State.nextPage]
  by_cases hk : k < 16
  · rw [hfree, State.bit, State.bit, h.fld (f := F.KV_POOL_A_VALID k) (by simp; omega), h.fld (f := F.KV_POOL_B_FIRST k) (by simp; omega),
      h.fld (f := F.KV_POOL_C_COUNT k) (by simp; omega)]
  · simp [hk]

theorem writeFields_onlyReg (off v : Nat) {o : Nat} (h : o ≠ off) : (writeFields off v).Only (Act.sparesReg o) := fun _ => Ne.symm h

/-- The result of an operation has been noted; nothing else but KV_OP_CTL differs. -/
structure KvNoted (s z : State) (v : Nat) : Prop where
  dev : z.dev = s.dev
  mem : z.mem = s.mem
  host : z.host = s.host
  words : ∀ o, o ≠ F.KV_OP_CTL_OPC.off → o ≠ F.KV_OP_STATUS_RESULT.off → z.word o = s.word o
  result : z.fld F.KV_OP_STATUS_RESULT = v % 16

theorem KvNoted.fld {s z : State} {v : Nat} (h : KvNoted s z v) {f : Fld} (h1 : f.off ≠ F.KV_OP_CTL_OPC.off)
    (h2 : f.off ≠ F.KV_OP_STATUS_RESULT.off) : z.fld f = s.fld f := State.fld_of_word (h.words _ h1 h2)

theorem KvNoted.ledgerAt {s z : State} {v : Nat} (h : KvNoted s z v) (page : Nat) : z.ledgerAt page = s.ledgerAt page := by
  rw [State.ledgerAt, State.ledgerAt, h.fld (by decide) (by decide)]

theorem KvNoted.readN {s z : State} {v : Nat} (h : KvNoted s z v) (a n : Nat) : z.readN a n = s.readN a n := by
  rw [State.readN, State.readN, h.mem]

theorem KvNoted.read32 {s z : State} {v : Nat} (h : KvNoted s z v) (a : Nat) : z.read32 a = s.read32 a := h.readN a 4

theorem KvNoted.pageEntry {s z : State} {v : Nat} (h : KvNoted s z v) (page : Nat) : z.pageEntry page = s.pageEntry page := by
  rw [State.pageEntry, State.pageEntry, h.read32, h.ledgerAt]

/-- What an operation does when nothing speaks against it. -/
def kvAct (y : State) (opc a b : Nat) : Prog :=
  if opc = 1 then (match y.nextPage a with
    | some q => all [takePage a q, setF F.KV_OP_STATUS_PAGE q]
    | none => .nop)
  else if opc = 2 then retainPage a
  else if opc = 3 then releasePage a
  else if opc = 4 then copyList a b
  else resetList a

theorem noteResult_run {s y : State} (h : KvAlike s y) (v : Nat) : KvNoted s ((setF F.KV_OP_STATUS_RESULT v).run y) v :=
  ⟨h.dev, h.mem, h.host, fun o h1 h2 => (word_setF_of_ne h2 y).trans (h.words o h1),
    Prog.fld_setF_same F.KV_OP_STATUS_RESULT v y (by decide)⟩

/-- A page operation: its result is noted, and where that is 0 it takes effect. -/
theorem kvCommand_run {s : State} {p : Path} {opc : Nat} (hr : s.reach p F.KV_OP_CTL_OPC.off = true) (ho : opc < 16) :
    ∃ y z, KvAlike s y ∧ KvNoted s z (y.kvVerdict opc (s.fld F.KV_OP_ARG0) (s.fld F.KV_OP_ARG1)) ∧ (kvCommand p opc).run s =
      (when (y.kvVerdict opc (s.fld F.KV_OP_ARG0) (s.fld F.KV_OP_ARG1) == 0)
        (kvAct y opc (s.fld F.KV_OP_ARG0) (s.fld F.KV_OP_ARG1))).run z := by
  have hopc : bitsOf opc 0 4 = opc := by
    rw [bitsOf_zero]
    exact Nat.mod_eq_of_lt ho
  have hy : KvAlike s ((writeFields F.KV_OP_CTL_OPC.off opc).run s) :=
    ⟨rfl, rfl, rfl, fun o h => (Prog.Only.word (writeFields_onlyReg _ _ h) s)⟩
  rw [kvCommand, writing_run_of_reach hr (by decide), writeKvOp, hopc, Prog.run_all_cons, Prog.run_all_cons, Prog.run_all_nil]
  generalize (writeFields F.KV_OP_CTL_OPC.off opc).run s = y at *
  refine ⟨y, _, hy, noteResult_run hy _, ?_⟩
  rw [← hy.fld (f := F.KV_OP_ARG0) (by decide), ← hy.fld (f := F.KV_OP_ARG1) (by decide), kvOp, Prog.run_look, Prog.run_all_cons,
    Prog.run_all_cons, Prog.run_all_nil]
  rfl

end Sys2Proof.Machine
end

section
/-!
ALLOC, RETAIN, RELEASE, FORK and RESET, one by one: O34.
-/
namespace Sys2Proof.Machine

/-! ## Registers beside the ledger -/

theorem KvNoted.bytes {s z : State} {v : Nat} (h : KvNoted s z v) : SameBytes s z := fun a => congrArg (·.read a) h.mem
theorem KvNoted.hosts {s z : State} {v : Nat} (h : KvNoted s z v) : SameHost s z := fun a => congrArg (·.read a) h.host

theorem KvNoted.regs {s z : State} {v : Nat} (h : KvNoted s z v) :
    SameRegsBut s z [F.KV_OP_CTL_OPC.off, F.KV_OP_STATUS_RESULT.off] := fun o ho => by
  simp only [List.mem_cons, List.not_mem_nil, or_false, not_or] at ho
  exact h.words o ho.1 ho.2

/-- States with the same memory and the same place of the ledger agree on a page's line. -/
theorem State.pageEntry_congr {x y : State} (hm : y.mem = x.mem) (hl : y.fld F.KV_LEDGER_BASE_OFFSET = x.fld F.KV_LEDGER_BASE_OFFSET) (page : Nat) :
    y.pageEntry page = x.pageEntry page := by
  rw [State.pageEntry, State.pageEntry, State.ledgerAt, State.ledgerAt, hl, State.read32, State.read32, State.readN, State.readN, hm]

/-! ## ALLOC -/

/-- A page has been taken from a pool. -/
structure PageTaken (x y : State) (k page : Nat) : Prop where
  dev : y.dev = x.dev
  host : y.host = x.host
  bytes : SameBytesBut x y (x.ledgerAt page) 4
  words : ∀ o, o ≠ F.KV_ALLOCS.off → y.word o = x.word o
  allocs : y.fld F.KV_ALLOCS = min (x.fld F.KV_ALLOCS + 1) (2 ^ F.KV_ALLOCS.w - 1)
  ref : y.pageRef page = 1
  pin : y.pagePin page = 0
  alloc : y.pageAlloc page = true
  owner : bitsOf (y.pageEntry page) 24 3 = x.fld (F.KV_POOL_D_OWNER k) % 8

theorem takePage_run (k page : Nat) (x : State) : PageTaken x ((takePage k page).run x) k page := by
  rw [takePage, Prog.run_all_cons, Prog.run_all_cons, Prog.run_all_nil, Prog.run_look]
  obtain ⟨hput, hbits⟩ := put32_line page (setBits (setBits (setBits (x.pageEntry page) 0 24 1) 24 3 (x.fld (F.KV_POOL_D_OWNER k))) 27 1 1) x
  generalize (put32 (x.ledgerAt page) _).run x = y at *
  obtain ⟨hdev, hmem, hhost⟩ := incF_memories F.KV_ALLOCS y
  have hwords : ∀ o, o ≠ F.KV_ALLOCS.off → ((incF F.KV_ALLOCS).run y).word o = y.word o := fun o ho => Prog.word_incF_other ho y
  have hcount : ((incF F.KV_ALLOCS).run y).fld F.KV_ALLOCS = min (y.fld F.KV_ALLOCS + 1) (2 ^ F.KV_ALLOCS.w - 1) :=
    Prog.fld_incF _ _ (by decide)
  generalize (incF F.KV_ALLOCS).run y = z at *
  have hentry : z.pageEntry page = y.pageEntry page := State.pageEntry_congr hmem (State.fld_of_word (hwords _ (by decide))) page
  refine ⟨hdev.trans hput.dev, hhost.trans hput.host, fun b hb => (congrArg (·.read b) hmem).trans (hput.bytes b hb),
    fun o ho => (hwords o ho).trans (hput.word o), by rw [hcount, hput.fld], ?_, ?_, ?_, ?_⟩
  · rw [State.pageRef, hentry, hbits 0 16 (by decide), bitsOf_setBits_other _ _ _ _ _ _ (.inl (by decide)),
      bitsOf_setBits_other _ _ _ _ _ _ (.inl (by decide)), bitsOf_setBits_low _ (by decide)]
    rfl
  · rw [State.pagePin, hentry, hbits 16 8 (by decide), bitsOf_setBits_other _ _ _ _ _ _ (.inl (by decide)),
      bitsOf_setBits_other _ _ _ _ _ _ (.inl (by decide)), bitsOf_setBits_low _ (by decide)]
    rfl
  · rw [State.pageAlloc, hentry, hbits 27 1 (by decide), bitsOf_setBits_same]
    rfl
  · rw [hentry, hbits 24 3 (by decide), bitsOf_setBits_other _ _ _ _ _ _ (.inl (by decide)), bitsOf_setBits_same]
    rfl

theorem kvAlloc_completes {s : State} {p : Path} {q : Nat} (hr : s.reach p F.KV_OP_CTL_OPC.off = true)
    (hn : s.nextPage (s.fld F.KV_OP_ARG0) = some q) (hq : q < 2 ^ F.KV_OP_STATUS_PAGE.w) :
    Completes (.kvAlloc p) s fun u => u.fld F.KV_OP_STATUS_RESULT = 0 ∧ u.fld F.KV_OP_STATUS_PAGE = q ∧ u.pageRef q = 1 ∧
      u.pagePin q = 0 ∧ u.pageAlloc q = true ∧
      bitsOf (u.pageEntry q) 24 3 = s.fld (F.KV_POOL_D_OWNER (s.fld F.KV_OP_ARG0)) % 8 ∧
      u.fld F.KV_ALLOCS = min (s.fld F.KV_ALLOCS + 1) (2 ^ F.KV_ALLOCS.w - 1) ∧ SameBytesBut s u (s.ledgerAt q) 4 ∧
      SameHost s u ∧ SameRegsBut s u [F.KV_OP_CTL_OPC.off, F.KV_OP_STATUS_RESULT.off, F.KV_ALLOCS.off] ∧ u.dev = s.dev := by
  refine completes_done rfl ?_
  obtain ⟨y, z, hy, hz, hrun⟩ := kvCommand_run (opc := 1) hr (by decide)
  have hnext : y.nextPage (s.fld F.KV_OP_ARG0) = some q := (hy.nextPage _).trans hn
  have hv : y.kvVerdict 1 (s.fld F.KV_OP_ARG0) (s.fld F.KV_OP_ARG1) = 0 := by
    rw [State.kvVerdict, if_pos rfl, hnext]
    rfl
  rw [hv] at hz hrun
  rw [hrun, Prog.run_when, if_pos (by rfl), kvAct, if_pos rfl, hnext]
  dsimp only
  rw [Prog.run_all_cons, Prog.run_all_cons, Prog.run_all_nil]
  have hw := takePage_run (s.fld F.KV_OP_ARG0) q z
  generalize (takePage (s.fld F.KV_OP_ARG0) q).run z = w at *
  have hk : s.fld F.KV_OP_ARG0 < 16 := by
    rw [State.nextPage] at hn
    by_contra hk
    rw [if_neg (by simp [hk])] at hn
    cases hn
  have hu : ∀ o, o ≠ F.KV_OP_STATUS_PAGE.off → ((setF F.KV_OP_STATUS_PAGE q).run w).word o = w.word o := fun o ho => word_setF_of_ne ho w
  have hpage : ((setF F.KV_OP_STATUS_PAGE q).run w).fld F.KV_OP_STATUS_PAGE = q :=
    (Prog.fld_setF_same F.KV_OP_STATUS_PAGE q w (by decide)).trans (Nat.mod_eq_of_lt hq)
  have hres : ((setF F.KV_OP_STATUS_PAGE q).run w).fld F.KV_OP_STATUS_RESULT = w.fld F.KV_OP_STATUS_RESULT :=
    Prog.fld_setF_other F.KV_OP_STATUS_PAGE F.KV_OP_STATUS_RESULT _ _ (by decide) (by decide)
  obtain ⟨hdev, hmem, hhost⟩ := setF_memories F.KV_OP_STATUS_PAGE q w
  generalize (setF F.KV_OP_STATUS_PAGE q).run w = u at *
  have hentry : u.pageEntry q = w.pageEntry q := State.pageEntry_congr hmem (State.fld_of_word (hu _ (by decide))) q
  refine ⟨?_, hpage, ?_, ?_, ?_, ?_, ?_, fun b hb => ?_, fun a => ?_, fun o ho => ?_, ?_⟩
  · rw [hres, State.fld_of_word (hw.words _ (by decide)), hz.result]
  · rw [State.pageRef, hentry]
    exact hw.ref
  · rw [State.pagePin, hentry]
    exact hw.pin
  · rw [State.pageAlloc, hentry]
    exact hw.alloc
  · rw [hentry, hw.owner, hz.fld (by simp; omega) (by simp; omega)]
  · rw [State.fld_of_word (f := F.KV_ALLOCS) (hu _ (by decide)), hw.allocs, hz.fld (by decide) (by decide)]
  · rw [hmem, hw.bytes b (by rwa [hz.ledgerAt]), hz.mem]
  · rw [hhost, hw.host, hz.host]
  · simp only [List.mem_cons, List.not_mem_nil, or_false, not_or] at ho
    exact (hu o ho.2.1).trans ((hw.words o ho.2.2).trans (hz.words o ho.1 ho.2.1))
  · rw [hdev, hw.dev, hz.dev]

theorem kvAlloc_full {s : State} {p : Path} (hr : s.reach p F.KV_OP_CTL_OPC.off = true) (hn : s.nextPage (s.fld F.KV_OP_ARG0) = none) :
    Completes (.kvAlloc p) s fun u => u.fld F.KV_OP_STATUS_RESULT = 1 ∧ SameBytes s u ∧ SameHost s u ∧ u.dev = s.dev ∧
      SameRegsBut s u [F.KV_OP_CTL_OPC.off, F.KV_OP_STATUS_RESULT.off] := by
  refine completes_done rfl ?_
  obtain ⟨y, z, hy, hz, hrun⟩ := kvCommand_run (opc := 1) hr (by decide)
  have hv : y.kvVerdict 1 (s.fld F.KV_OP_ARG0) (s.fld F.KV_OP_ARG1) = 1 := by
    rw [State.kvVerdict, if_pos rfl, hy.nextPage, hn]
    rfl
  rw [hv] at hz hrun
  rw [hrun, Prog.run_when, if_neg (by decide)]
  exact ⟨hz.result, hz.bytes, hz.hosts, hz.dev, hz.regs⟩

/-! ## RETAIN and RELEASE -/

theorem KvNoted.pageRef {s z : State} {v : Nat} (h : KvNoted s z v) (page : Nat) : z.pageRef page = s.pageRef page := by
  rw [State.pageRef, State.pageRef, h.pageEntry]
theorem KvNoted.pagePin {s z : State} {v : Nat} (h : KvNoted s z v) (page : Nat) : z.pagePin page = s.pagePin page := by
  rw [State.pagePin, State.pagePin, h.pageEntry]
theorem KvNoted.pageAlloc {s z : State} {v : Nat} (h : KvNoted s z v) (page : Nat) : z.pageAlloc page = s.pageAlloc page := by
  rw [State.pageAlloc, State.pageAlloc, h.pageEntry]
theorem KvNoted.pagePoison {s z : State} {v : Nat} (h : KvNoted s z v) (page : Nat) : z.pagePoison page = s.pagePoison page := by
  rw [State.pagePoison, State.pagePoison, h.pageEntry]

theorem kvRetain_completes {s : State} {p : Path} (hr : s.reach p F.KV_OP_CTL_OPC.off = true)
    (hp : (s.poolOf (s.fld F.KV_OP_ARG0)).isSome = true) (href : s.pageRef (s.fld F.KV_OP_ARG0) < 65535) :
    Completes (.kvRetain p) s fun u => u.fld F.KV_OP_STATUS_RESULT = 0 ∧
      u.pageRef (s.fld F.KV_OP_ARG0) = s.pageRef (s.fld F.KV_OP_ARG0) + 1 ∧
      u.pagePin (s.fld F.KV_OP_ARG0) = s.pagePin (s.fld F.KV_OP_ARG0) ∧ u.pageAlloc (s.fld F.KV_OP_ARG0) = s.pageAlloc (s.fld F.KV_OP_ARG0) ∧
      SameBytesBut s u (s.ledgerAt (s.fld F.KV_OP_ARG0)) 4 ∧ SameHost s u ∧
      SameRegsBut s u [F.KV_OP_CTL_OPC.off, F.KV_OP_STATUS_RESULT.off] ∧ u.dev = s.dev := by
  refine completes_done rfl ?_
  obtain ⟨y, z, hy, hz, hrun⟩ := kvCommand_run (opc := 2) hr (by decide)
  generalize s.fld F.KV_OP_ARG0 = page at *
  have hv : y.kvVerdict 2 page (s.fld F.KV_OP_ARG1) = 0 := by
    rw [State.kvVerdict, if_neg (by decide), if_pos rfl, hy.poolOf, if_neg (by rw [Option.isNone_iff_eq_none]; intro h; rw [h] at hp; cases hp),
      State.pageRef, hy.pageEntry, if_neg (by exact ne_of_lt href)]
  rw [hv] at hz hrun
  rw [hrun, Prog.run_when, if_pos (by rfl), kvAct, if_neg (by decide), if_pos rfl]
  have hu := retainPage_run (page := page) (x := z) (by rw [hz.pageRef]; exact href)
  generalize (retainPage page).run z = u at *
  refine ⟨by rw [hu.put.fld, hz.result], by rw [hu.ref, hz.pageRef], by rw [hu.pin, hz.pagePin], by rw [hu.alloc, hz.pageAlloc], fun b hb => ?_,
    fun a => ?_, fun o ho => (hu.put.word o).trans (hz.regs o ho), hu.put.dev.trans hz.dev⟩
  · rw [hu.put.bytes b (by rwa [hz.ledgerAt]), hz.mem]
  · rw [hu.put.host, hz.host]

theorem kvRelease_completes {s : State} {p : Path} (hr : s.reach p F.KV_OP_CTL_OPC.off = true)
    (hp : (s.poolOf (s.fld F.KV_OP_ARG0)).isSome = true) (h0 : s.pageRef (s.fld F.KV_OP_ARG0) ≠ 0)
    (hpo : s.pagePoison (s.fld F.KV_OP_ARG0) = false) :
    Completes (.kvRelease p) s fun u => u.fld F.KV_OP_STATUS_RESULT = 0 ∧
      u.pageRef (s.fld F.KV_OP_ARG0) = s.pageRef (s.fld F.KV_OP_ARG0) - 1 ∧
      (s.pageRef (s.fld F.KV_OP_ARG0) = 1 ∧ s.pagePin (s.fld F.KV_OP_ARG0) = 0 ∧ s.pageAlloc (s.fld F.KV_OP_ARG0) = true →
        u.pageAlloc (s.fld F.KV_OP_ARG0) = false ∧ u.fld F.KV_FREES = min (s.fld F.KV_FREES + 1) (2 ^ F.KV_FREES.w - 1)) ∧
      (s.pageRef (s.fld F.KV_OP_ARG0) ≠ 1 ∨ s.pagePin (s.fld F.KV_OP_ARG0) ≠ 0 →
        u.pageAlloc (s.fld F.KV_OP_ARG0) = s.pageAlloc (s.fld F.KV_OP_ARG0) ∧ u.fld F.KV_FREES = s.fld F.KV_FREES) ∧
      SameBytesBut s u (s.ledgerAt (s.fld F.KV_OP_ARG0)) 4 ∧ SameHost s u ∧ u.dev = s.dev ∧
      SameRegsBut s u [F.KV_OP_CTL_OPC.off, F.KV_OP_STATUS_RESULT.off, F.KV_FREES.off] := by
  refine completes_done rfl ?_
  obtain ⟨y, z, hy, hz, hrun⟩ := kvCommand_run (opc := 3) hr (by decide)
  generalize s.fld F.KV_OP_ARG0 = page at *
  have hv : y.kvVerdict 3 page (s.fld F.KV_OP_ARG1) = 0 := by
    rw [State.kvVerdict, if_neg (by decide), if_neg (by decide), if_pos rfl, hy.poolOf,
      if_neg (by rw [Option.isNone_iff_eq_none]; intro h; rw [h] at hp; cases hp), State.pageRef, hy.pageEntry, if_neg (by exact h0)]
  rw [hv] at hz hrun
  rw [hrun, Prog.run_when, if_pos (by rfl), kvAct, if_neg (by decide), if_neg (by decide), if_pos rfl]
  by_cases hlast : s.pageRef page = 1 ∧ s.pagePin page = 0 ∧ s.pageAlloc page = true
  · obtain ⟨h1, h2, h3⟩ := hlast
    have hset := setRef_run (page := page) (r := z.pageRef page - 1) (by rw [hz.pageRef, h1]; decide) z
    rw [releasePage_run]
    generalize (setPage page 0 16 _).run z = w at *
    have hu := freeIfIdle_idle (page := page) (x := w) (by rw [hset.ref, hz.pageRef, h1]) (by rw [hset.pin, hz.pagePin, h2])
      (by rw [hset.alloc, hz.pageAlloc, h3]) (by rw [hset.poison, hz.pagePoison, hpo])
    generalize (freeIfIdle page).run w = u at *
    refine ⟨?_, by rw [hu.ref, h1], fun _ => ⟨hu.alloc, ?_⟩, fun h => ?_, fun b hb => ?_, fun a => ?_, ?_, fun o ho => ?_⟩
    · rw [State.fld_of_word (hu.words _ (by decide)), hset.put.fld, hz.result]
    · rw [hu.frees, hset.put.fld, hz.fld (by decide) (by decide)]
    · rcases h with h | h
      · exact absurd h1 h
      · exact absurd h2 h
    · rw [hu.bytes b (by rwa [hset.put.ledgerAt, hz.ledgerAt]), hset.put.bytes b (by rwa [hz.ledgerAt]), hz.mem]
    · rw [hu.host, hset.put.host, hz.host]
    · rw [hu.dev, hset.put.dev, hz.dev]
    · simp only [List.mem_cons, List.not_mem_nil, or_false, not_or] at ho
      exact (hu.words o ho.2.2).trans ((hset.put.word o).trans (hz.words o ho.1 ho.2.1))
  · have hshared : z.pageRef page ≠ 1 ∨ z.pagePin page ≠ 0 ∨ z.pageAlloc page = false := by
      rw [hz.pageRef, hz.pagePin, hz.pageAlloc, ← Bool.not_eq_true]
      by_contra hno
      push Not at hno
      exact hlast hno
    have hu := releasePage_shared hshared (by rw [hz.pageRef]; exact h0)
    generalize (releasePage page).run z = u at *
    refine ⟨by rw [hu.put.fld, hz.result], by rw [hu.ref, hz.pageRef], fun h => absurd h hlast, fun _ => ⟨by rw [hu.alloc, hz.pageAlloc], ?_⟩,
      fun b hb => ?_, fun a => ?_, hu.put.dev.trans hz.dev, fun o ho => ?_⟩
    · rw [hu.put.fld, hz.fld (by decide) (by decide)]
    · rw [hu.put.bytes b (by rwa [hz.ledgerAt]), hz.mem]
    · rw [hu.put.host, hz.host]
    · simp only [List.mem_cons, List.not_mem_nil, or_false, not_or] at ho
      exact (hu.put.word o).trans (hz.words o ho.1 ho.2.1)

end Sys2Proof.Machine
end

section
/-!
FORK and RESET (R244, R247, R255, R268, R269), and the page operations together: O34.
-/
namespace Sys2Proof.Machine

/-! ## What the verdict on a list depends on -/

theorem KvAlike.listW {s y : State} (h : KvAlike s y) : y.listW = s.listW := by
  funext l o
  rw [State.listW, State.listW, h.read32]

theorem KvAlike.listPage {s y : State} (h : KvAlike s y) : y.listPage = s.listPage := by
  funext l i
  rw [State.listPage, State.listPage, h.read32]

theorem KvAlike.listLen {s y : State} (h : KvAlike s y) : y.listLen = s.listLen := by
  funext l
  rw [State.listLen, State.listLen, h.readN]

theorem KvAlike.listCap {s y : State} (h : KvAlike s y) : y.listCap = s.listCap := by
  funext l
  rw [State.listCap, State.listCap, h.listW]

theorem KvAlike.listMode {s y : State} (h : KvAlike s y) : y.listMode = s.listMode := by
  funext l
  rw [State.listMode, State.listMode, h.listW]

theorem KvAlike.listTpl {s y : State} (h : KvAlike s y) (l : Nat) : y.listTpl l = s.listTpl l := by
  rw [State.listTpl, State.listTpl, h.listW]

theorem KvAlike.entryOf {s y : State} (h : KvAlike s y) : y.entryOf = s.entryOf := by
  funext l b
  unfold State.entryOf State.listRing State.listG State.listGlob
  rw [h.listMode, h.listCap, h.listW]

theorem KvAlike.listBad {s y : State} (h : KvAlike s y) (l n : Nat) : y.listBad l n = s.listBad l n := by
  have hentry : y.entryBad = s.entryBad := by
    funext l i
    rw [State.entryBad, State.entryBad, h.listPage, h.poolOf]
  have hblocks : y.attendedBlocks = s.attendedBlocks := by
    funext l len
    unfold State.attendedBlocks State.listGlob State.listWin
    rw [h.listMode, h.listCap, h.listW]
  unfold State.listBad
  rw [hentry, hblocks, h.listMode, h.listCap, h.listLen, h.entryOf]

/-- The verdict on one list: another's, in use, or not a list. -/
def State.kvListVerdict (s : State) (l : Nat) : Nat :=
  if s.listForeign l then 4 else if s.listInUse l then 5 else if s.listOut l then 6 else 0

theorem KvAlike.kvListVerdict {s y : State} (h : KvAlike s y) (l : Nat) : y.kvListVerdict l = s.kvListVerdict l := by
  have hpool : y.listPool l = s.listPool l := by rw [State.listPool, State.listPool, h.listW]
  have hk : s.listPool l < 16 := bitsOf_lt _ _ _
  have hvalid : y.fld (F.KV_POOL_A_VALID (s.listPool l)) = s.fld (F.KV_POOL_A_VALID (s.listPool l)) := h.fld (by simp; omega)
  have howner : y.fld (F.KV_POOL_D_OWNER (s.listPool l)) = s.fld (F.KV_POOL_D_OWNER (s.listPool l)) := h.fld (by simp; omega)
  have hlt : s.fld (F.KV_POOL_D_OWNER (s.listPool l)) < 8 := bitsOf_lt _ _ _
  have hon : y.partOn (s.fld (F.KV_POOL_D_OWNER (s.listPool l))) = s.partOn (s.fld (F.KV_POOL_D_OWNER (s.listPool l))) :=
    congrArg (· != 0) (h.fld (f := F.LEDG_UNIT_STATE (32 + s.fld (F.KV_POOL_D_OWNER (s.listPool l)))) (by simp; omega))
  have hpart : y.listPart l = s.listPart l := by
    simp only [State.listPart, State.plane, State.part, h.dev]
  have hforeign : y.listForeign l = s.listForeign l := by
    simp only [State.listForeign, State.bit, hpool, hvalid, howner, hon, hpart]
  have huse : y.listInUse l = s.listInUse l := by
    simp only [State.listInUse, State.liveSlots, State.slot, State.slotPlist, State.slotW, h.read32, h.dev]
  rw [State.kvListVerdict, State.kvListVerdict, hforeign, huse, State.listOut, State.listOut, h.listBad]

theorem KvAlike.copySaturates {s y : State} (h : KvAlike s y) (l : Nat) : y.copySaturates l = s.copySaturates l := by
  unfold State.copySaturates State.pageRef
  rw [h.listCap, h.listLen, h.listPage, h.pageEntry]

theorem kvVerdict_fork (s : State) (a b : Nat) : s.kvVerdict 4 a b =
    if s.kvListVerdict a != 0 then s.kvListVerdict a else if s.kvListVerdict b != 0 then s.kvListVerdict b
    else if s.listLen b != 0 || 16 * s.listCap b < (if s.listMode b = 1 then s.listLen a else 0) then 6 else if s.copySaturates a then 2 else 0 := by
  rw [State.kvVerdict, if_neg (by decide), if_neg (by decide), if_neg (by decide), if_pos rfl]
  rfl

theorem kvVerdict_reset (s : State) (a b : Nat) : s.kvVerdict 5 a b = if s.kvListVerdict a != 0 then s.kvListVerdict a
    else if s.listTpl a != 0 && ((emptyList a).run s).copySaturates (s.listTpl a) then 2 else 0 := by
  rw [State.kvVerdict, if_neg (by decide), if_neg (by decide), if_neg (by decide), if_neg (by decide), if_pos rfl]
  rfl

theorem KvAlike.verdict_fork {s y : State} (h : KvAlike s y) (a b : Nat) : y.kvVerdict 4 a b = s.kvVerdict 4 a b := by
  rw [kvVerdict_fork, kvVerdict_fork, h.kvListVerdict, h.kvListVerdict, h.listLen, h.listCap, h.listMode, h.copySaturates]

theorem KvAlike.verdict_reset {s y : State} (h : KvAlike s y) {a b : Nat} (ht : s.listTpl a = 0) (hv : s.kvVerdict 5 a b = 0) :
    y.kvVerdict 5 a b = 0 := by
  rw [kvVerdict_reset] at hv ⊢
  rw [h.kvListVerdict, h.listTpl, ht]
  rw [ht] at hv
  exact hv

/-! ## Writing lists -/

theorem dropsIn_sub {s : State} {a n a' n' : Nat} (h : s.dropsIn a n = false) (h1 : a ≤ a') (h2 : a' + n' ≤ a + n) :
    s.dropsIn a' n' = false := by
  rw [State.dropsIn, List.any_eq_false] at h ⊢
  intro r hr
  have := h r hr
  simp only [disjoint, Bool.not_eq_true, Bool.not_eq_false', Bool.or_eq_true, decide_eq_true_eq] at this ⊢
  omega

theorem putList_run {s : State} {a n : Nat} (h : s.dropsIn a n = false) (v : Nat) : (putList a n v).run s = (putN a n v).run s := by
  have hl : disjoint s.ledgerRange (a, a + n) = true := by
    have hmem : s.ledgerRange ∈ s.dropRanges := List.mem_append_left _ (List.mem_cons_of_mem _ List.mem_cons_self)
    have := List.any_eq_false.mp h _ hmem
    simpa using this
  rw [putList, Prog.run_look, hl, h, if_neg (by decide), if_neg (by decide)]

theorem dropsIn_congr {x y : State} (hdev : y.dev = x.dev) (h1 : y.fld F.KV_LEDGER_BASE_OFFSET = x.fld F.KV_LEDGER_BASE_OFFSET)
    (h2 : y.fld F.KV_LEDGER_SIZE_ENTRIES = x.fld F.KV_LEDGER_SIZE_ENTRIES) (a n : Nat) : y.dropsIn a n = x.dropsIn a n := by
  have hl : y.ledgerRange = x.ledgerRange := by rw [State.ledgerRange, State.ledgerRange, State.ledgerAt, State.ledgerAt, State.ledgerAt,
    State.ledgerAt, h1, h2]
  simp only [State.dropsIn, State.dropRanges, hl, State.presentPlanes, State.planesOf, State.part, hdev]

theorem MemPut.dropsIn {x y : State} {a n : Nat} (h : MemPut x y a n) (b m : Nat) : y.dropsIn b m = x.dropsIn b m :=
  dropsIn_congr h.dev (h.fld _) (h.fld _) b m

theorem KvNoted.dropsIn {s z : State} {v : Nat} (h : KvNoted s z v) (b m : Nat) : z.dropsIn b m = s.dropsIn b m :=
  dropsIn_congr h.dev (h.fld (by decide) (by decide)) (h.fld (by decide) (by decide)) b m

theorem MemPut.pageEntry {x y : State} {a n page : Nat} (h : MemPut x y a n) (hd : Apart a n (x.ledgerAt page) 4) :
    y.pageEntry page = x.pageEntry page := by
  rw [State.pageEntry, State.pageEntry, h.ledgerAt, h.bytes.read32 hd]

/-! ## FORK -/

/-- A list of one page has been copied. -/
structure ListCopied (x u : State) (a b page : Nat) : Prop where
  first : u.listPage b 0 = page
  len : u.listLen b = x.listLen a
  ref : u.pageRef page = x.pageRef page + 1
  srcPage : u.listPage a 0 = page
  srcLen : u.listLen a = x.listLen a
  dev : u.dev = x.dev
  regs : u.regs = x.regs
  host : u.host = x.host

theorem copyList_run {x : State} {a b page : Nat} (hpage : x.listPage a 0 = page) (hcap : x.listCap a ≠ 0) (h0 : 0 < x.listLen a)
    (h16 : x.listLen a ≤ 16) (hne : page ≠ 0) (href : x.pageRef page < 65535) (hab : Apart (storeAt + a) 0x44 (storeAt + b) 0x44)
    (hpa : Apart (x.ledgerAt page) 4 (storeAt + a) 0x44) (hpb : Apart (x.ledgerAt page) 4 (storeAt + b) 0x44)
    (hd : x.dropsIn (storeAt + b) 0x44 = false) : ListCopied x ((copyList a b).run x) a b page := by
  have hn : min (x.listCap a) ((x.listLen a + 15) / 16) = 1 := by omega
  have heb : entryAt b 0 = storeAt + b + 0x40 := rfl
  have hea : entryAt a 0 = storeAt + a + 0x40 := rfl
  rw [copyList, Prog.run_look]
  dsimp only
  rw [hn, show List.range 1 = [0] from rfl, Prog.run_all_cons, Prog.run_all_cons, Prog.run_all_nil, Prog.run_each_cons, Prog.run_each_nil,
    Prog.run_all_cons, Prog.run_all_cons, Prog.run_all_nil, Prog.run_look _ x, putList_run (dropsIn_sub hd (by omega) (by omega))]
  have hw := putN_put (entryAt b 0) 4 (x.read32 (entryAt a 0)) x
  have hwread := putN_readN (entryAt b 0) 4 (x.read32 (entryAt a 0)) x
  generalize (putN (entryAt b 0) 4 _).run x = w at *
  have hwpage : w.listPage a 0 = page := by rw [State.listPage, hw.bytes.read32 (by omega), ← hpage, State.listPage]
  rw [Prog.run_look _ w, hwpage, Prog.run_when, if_pos (by simpa using hne)]
  have hwledger := hw.ledgerAt page
  have hwentry : w.pageEntry page = x.pageEntry page := hw.pageEntry (by omega)
  have hwref : w.pageRef page = x.pageRef page := by rw [State.pageRef, State.pageRef, hwentry]
  have hv := retainPage_run (page := page) (x := w) (by rw [hwref]; exact href)
  generalize (retainPage page).run w = v at *
  have hdv : v.dropsIn (storeAt + b + 0x10) 8 = false := by
    rw [hv.put.dropsIn, hw.dropsIn]
    exact dropsIn_sub hd (by omega) (by omega)
  rw [setLen, putList_run hdv]
  have hu := putN_put (storeAt + b + 0x10) 8 (x.listLen a) v
  have huread := putN_readN (storeAt + b + 0x10) 8 (x.listLen a) v
  generalize (putN (storeAt + b + 0x10) 8 _).run v = u at *
  have hvput := hv.put
  rw [hwledger] at hvput
  have hkeep : ∀ c m, Apart (entryAt b 0) 4 c m → Apart (x.ledgerAt page) 4 c m → Apart (storeAt + b + 0x10) 8 c m →
      u.readN c m = x.readN c m := fun c m h1 h2 h3 => by
    rw [hu.bytes.readN h3, hvput.bytes.readN h2, hw.bytes.readN h1]
  have hlen : u.listLen a = x.listLen a := hkeep _ _ (by omega) (by omega) (by omega)
  have hsrc : u.listPage a 0 = page := by
    rw [← hpage, State.listPage, State.listPage]
    exact congrArg (bitsOf · 0 24) (hkeep _ _ (by omega) (by omega) (by omega))
  refine ⟨?_, ?_, ?_, hsrc, hlen, hu.dev.trans (hv.put.dev.trans hw.dev), hu.regs.trans (hv.put.regs.trans hw.regs),
    hu.host.trans (hv.put.host.trans hw.host)⟩
  · rw [State.listPage, State.read32, hu.bytes.readN (by omega), hvput.bytes.readN (by omega), hwread, bitsOf_mod_word _ _ _ (by decide), ← hpage,
      State.listPage]
  · rw [State.listLen, huread]
    exact Nat.mod_eq_of_lt (lt_of_le_of_lt h16 (by decide))
  · have hentry : u.pageEntry page = v.pageEntry page := hu.pageEntry (by rw [hvput.ledgerAt, hwledger]; omega)
    rw [State.pageRef, hentry, ← hwref, ← hv.ref, State.pageRef]

theorem kvFork_completes {s : State} {p : Path} (hr : s.reach p F.KV_OP_CTL_OPC.off = true) {a b page : Nat} (ha : s.fld F.KV_OP_ARG0 = a)
    (hb : s.fld F.KV_OP_ARG1 = b) (hpage : s.listPage a 0 = page) (hv : s.kvVerdict 4 a b = 0) (hcap : s.listCap a ≠ 0) (h0 : 0 < s.listLen a)
    (h16 : s.listLen a ≤ 16) (hne : page ≠ 0) (href : s.pageRef page < 65535) (hab : Apart (storeAt + a) 0x44 (storeAt + b) 0x44)
    (hpa : Apart (s.ledgerAt page) 4 (storeAt + a) 0x44) (hpb : Apart (s.ledgerAt page) 4 (storeAt + b) 0x44)
    (hd : s.dropsIn (storeAt + b) 0x44 = false) :
    Completes (.kvFork p) s fun u => u.fld F.KV_OP_STATUS_RESULT = 0 ∧ u.listPage b 0 = page ∧ u.listLen b = s.listLen a ∧
      u.pageRef page = s.pageRef page + 1 ∧ u.listPage a 0 = page ∧ u.listLen a = s.listLen a ∧ SameHost s u ∧ u.dev = s.dev ∧
      SameRegsBut s u [F.KV_OP_CTL_OPC.off, F.KV_OP_STATUS_RESULT.off] := by
  refine completes_done rfl ?_
  obtain ⟨y, z, hy, hz, hrun⟩ := kvCommand_run (opc := 4) hr (by decide)
  rw [ha, hb, hy.verdict_fork, hv] at hz hrun
  rw [hrun, Prog.run_when, if_pos (by rfl), kvAct, if_neg (by decide), if_neg (by decide), if_neg (by decide), if_pos rfl]
  have hread : ∀ l, z.listPage l 0 = s.listPage l 0 := fun l => by rw [State.listPage, State.listPage, hz.read32]
  have hlen : ∀ l, z.listLen l = s.listLen l := fun l => by rw [State.listLen, State.listLen, hz.readN]
  have hzcap : z.listCap a = s.listCap a := by rw [State.listCap, State.listCap, State.listW, State.listW, hz.read32]
  have hu := copyList_run (x := z) ((hread a).trans hpage) (by rwa [hzcap]) (by rwa [hlen]) (by rwa [hlen]) hne (by rwa [hz.pageRef]) hab
    (by rwa [hz.ledgerAt]) (by rwa [hz.ledgerAt]) (by rwa [hz.dropsIn])
  generalize (copyList a b).run z = u at *
  exact ⟨(State.fld_of_word (State.word_of_regs hu.regs _)).trans hz.result, hu.first, hu.len.trans (hlen a), by rw [hu.ref, hz.pageRef], hu.srcPage,
    hu.srcLen.trans (hlen a), fun c => by rw [hu.host, hz.host], hu.dev.trans hz.dev,
    fun o ho => (State.word_of_regs hu.regs o).trans (hz.regs o ho)⟩

/-! ## RESET -/

/-- A list of one page without a template has been emptied. -/
structure ListEmptied (x u : State) (l page : Nat) : Prop where
  len : u.listLen l = 0
  first : u.listPage l 0 = 0
  ref : u.pageRef page = x.pageRef page - 1
  dev : u.dev = x.dev
  regs : u.regs = x.regs
  host : u.host = x.host

theorem resetList_run {x : State} {l page : Nat} (hpage : x.listPage l 0 = page) (hcap : x.listCap l = 1) (ht : x.listTpl l = 0) (hne : page ≠ 0)
    (href : 1 < x.pageRef page) (hpl : Apart (x.ledgerAt page) 4 (storeAt + l) 0x44) (hd : x.dropsIn (storeAt + l) 0x44 = false) :
    ListEmptied x ((resetList l).run x) l page := by
  have hel : entryAt l 0 = storeAt + l + 0x40 := rfl
  rw [resetList, Prog.run_all_cons, Prog.run_all_cons, Prog.run_all_nil, emptyList, Prog.run_look _ x, hcap, show List.range 1 = [0] from rfl,
    Prog.run_all_cons, Prog.run_all_cons, Prog.run_all_nil, Prog.run_each_cons, Prog.run_each_nil, Prog.run_all_cons, Prog.run_all_cons,
    Prog.run_all_nil, Prog.run_look _ x, hpage, Prog.run_when, if_pos (by simpa using hne)]
  have hw := releasePage_shared (page := page) (x := x) (.inl (by omega)) (by omega)
  generalize (releasePage page).run x = w at *
  rw [putList_run (by rw [hw.put.dropsIn]; exact dropsIn_sub hd (by omega) (by omega))]
  have hv := putN_put (entryAt l 0) 4 0 w
  have hvread := putN_readN (entryAt l 0) 4 0 w
  generalize (putN (entryAt l 0) 4 0).run w = v at *
  rw [setLen, putList_run (by rw [hv.dropsIn, hw.put.dropsIn]; exact dropsIn_sub hd (by omega) (by omega))]
  have hu := putN_put (storeAt + l + 0x10) 8 0 v
  have huread := putN_readN (storeAt + l + 0x10) 8 0 v
  generalize (putN (storeAt + l + 0x10) 8 0).run v = u at *
  have htpl : u.listTpl l = 0 := by
    rw [← ht, State.listTpl, State.listTpl, State.listW, State.listW, hu.bytes.read32 (by omega), hv.bytes.read32 (by omega),
      hw.put.bytes.read32 (by omega)]
  rw [Prog.run_look _ u, htpl, Prog.run_when, if_neg (by decide)]
  have hwledger := hw.put.ledgerAt page
  refine ⟨by rw [State.listLen, huread]; rfl, ?_, ?_, hu.dev.trans (hv.dev.trans hw.put.dev), hu.regs.trans (hv.regs.trans hw.put.regs),
    hu.host.trans (hv.host.trans hw.put.host)⟩
  · rw [State.listPage, hu.bytes.read32 (by omega), State.read32, hvread]
    rfl
  · have hventry : v.pageEntry page = w.pageEntry page := hv.pageEntry (by rw [hwledger]; omega)
    have huentry : u.pageEntry page = v.pageEntry page := hu.pageEntry (by rw [hv.ledgerAt, hwledger]; omega)
    rw [State.pageRef, huentry, hventry]
    exact hw.ref

theorem kvReset_completes {s : State} {p : Path} (hr : s.reach p F.KV_OP_CTL_OPC.off = true) {l page : Nat} (hl : s.fld F.KV_OP_ARG0 = l)
    (hpage : s.listPage l 0 = page) (hv : s.kvVerdict 5 l (s.fld F.KV_OP_ARG1) = 0) (hcap : s.listCap l = 1) (ht : s.listTpl l = 0)
    (hne : page ≠ 0) (href : 1 < s.pageRef page) (hpl : Apart (s.ledgerAt page) 4 (storeAt + l) 0x44)
    (hd : s.dropsIn (storeAt + l) 0x44 = false) :
    Completes (.kvReset p) s fun u => u.fld F.KV_OP_STATUS_RESULT = 0 ∧ u.listLen l = 0 ∧ u.listPage l 0 = 0 ∧
      u.pageRef page = s.pageRef page - 1 ∧ SameHost s u ∧ u.dev = s.dev ∧
      SameRegsBut s u [F.KV_OP_CTL_OPC.off, F.KV_OP_STATUS_RESULT.off] := by
  refine completes_done rfl ?_
  obtain ⟨y, z, hy, hz, hrun⟩ := kvCommand_run (opc := 5) hr (by decide)
  rw [hl, hy.verdict_reset ht hv] at hz hrun
  rw [hrun, Prog.run_when, if_pos (by rfl), kvAct, if_neg (by decide), if_neg (by decide), if_neg (by decide), if_neg (by decide)]
  have hu := resetList_run (x := z) (l := l) (page := page) (by rw [← hpage, State.listPage, State.listPage, hz.read32])
    (by rw [← hcap, State.listCap, State.listCap, State.listW, State.listW, hz.read32])
    (by rw [← ht, State.listTpl, State.listTpl, State.listW, State.listW, hz.read32]) hne (by rwa [hz.pageRef]) (by rwa [hz.ledgerAt])
    (by rwa [hz.dropsIn])
  generalize (resetList l).run z = u at *
  exact ⟨(State.fld_of_word (State.word_of_regs hu.regs _)).trans hz.result, hu.len, hu.first, by rw [hu.ref, hz.pageRef],
    fun c => by rw [hu.host, hz.host], hu.dev.trans hz.dev, fun o ho => (State.word_of_regs hu.regs o).trans (hz.regs o ho)⟩

/-- Settles O34: the page operations of host software, one by one. -/
theorem pageOperations : Obligations.PageOperations := by
  unfold Obligations.PageOperations
  exact ⟨fun _ _ _ hr hn hq => kvAlloc_completes hr hn hq, fun _ _ hr hn => kvAlloc_full hr hn, fun _ _ hr hp href => kvRetain_completes hr hp href,
    fun _ _ hr hp h0 hpo => kvRelease_completes hr hp h0 hpo,
    fun _ _ hr hv hcap h0 h16 hne href hab hpa hpb hd => kvFork_completes hr rfl rfl rfl hv hcap h0 h16 hne href hab hpa hpb hd,
    fun _ _ hr hv hcap ht hne href hpl hd => kvReset_completes hr rfl rfl hv hcap ht hne href hpl hd⟩

end Sys2Proof.Machine
end

section
/-!
Gathering: what one sample does to its entry, and what unframing an entry of the array leaves.
-/
namespace Sys2Proof.Machine

theorem State.inp_modIn (k j : Nat) (f : InPath → InPath) (s : State) :
    ((modIn k f).run s).inp j = if j = k then f (s.inp k) else s.inp j := by
  show Sparse.get InPath.blank (Sparse.put InPath.blank s.dev.ins k _) j = _
  rw [Sparse.get_put]
  rfl

theorem State.inp_modIn_same (k : Nat) (f : InPath → InPath) (s : State) : ((modIn k f).run s).inp k = f (s.inp k) := by
  rw [State.inp_modIn, if_pos rfl]

theorem State.inp_modIn_other {k j : Nat} (h : j ≠ k) (f : InPath → InPath) (s : State) : ((modIn k f).run s).inp j = s.inp j := by
  rw [State.inp_modIn, if_neg h]

/-! ## One sample -/

/-- Nothing but the input entries and the stream of free choices differs. -/
structure OnlyInputs (s u : State) : Prop where
  dev : u.dev = { s.dev with ins := u.dev.ins }
  regs : u.regs = s.regs
  mem : u.mem = s.mem
  host : u.host = s.host

theorem OnlyInputs.trans {s t u : State} (h : OnlyInputs s t) (k : OnlyInputs t u) : OnlyInputs s u :=
  ⟨by rw [k.dev, h.dev], k.regs.trans h.regs, k.mem.trans h.mem, k.host.trans h.host⟩

theorem OnlyInputs.refl (s : State) : OnlyInputs s s := ⟨rfl, rfl, rfl, rfl⟩

theorem modIn_onlyInputs (k : Nat) (f : InPath → InPath) (s : State) : OnlyInputs s ((modIn k f).run s) := ⟨rfl, rfl, rfl, rfl⟩

/-- The act changes nothing but input entries. -/
def Act.onInputs : Act → Prop
  | .dev f => ∀ d, f d = { d with ins := (f d).ins }
  | .draw => True
  | _ => False

theorem Prog.Only.onlyInputs {p : Prog} (h : p.Only Act.onInputs) (s : State) : OnlyInputs s (p.run s) := by
  refine h.run (R := OnlyInputs) OnlyInputs.refl OnlyInputs.trans (fun a s ha => ?_) s
  cases a with
  | dev f => exact ⟨ha s.dev, rfl, rfl, rfl⟩
  | draw => exact ⟨rfl, rfl, rfl, rfl⟩
  | _ => exact ha.elim

theorem addSample_onInputs (k slot : Nat) (b0 b1 : FlagBind) (suspect : Bool) (bs : List Byte) :
    (addSample k slot b0 b1 suspect bs).Only Act.onInputs := by
  simp only [addSample, Prog.only_look, Prog.only_when, Prog.only_all_cons, Prog.only_all_nil]
  exact fun s _ => ⟨fun d => rfl, trivial, trivial⟩

theorem addSample_other {k j : Nat} (h : j ≠ k) (slot : Nat) (b0 b1 : FlagBind) (suspect : Bool) (bs : List Byte) (s : State) :
    ((addSample k slot b0 b1 suspect bs).run s).inp j = s.inp j := by
  have hk : (addSample k slot b0 b1 suspect bs).Only (Act.keeps fun d => Sparse.get InPath.blank d.ins j) := by
    simp only [addSample, Prog.only_look, Prog.only_when, Prog.only_all_cons, Prog.only_all_nil]
    exact fun _ _ => ⟨fun _ => Sparse.get_put_other _ _ _ _ _ h, trivial, trivial⟩
  exact hk.keeps s

/-- The number of samples that a chunk of an entry bound to a slot has. -/
def State.chunkSize (s : State) (k slot : Nat) : Nat := if s.slotDeclared slot then s.nominal slot else (s.inp k).size

/-- What one sample of a framed entry does to it. -/
structure Gathered (y z : InPath) (n : Nat) (bs : List Byte) : Prop where
  more : y.fill + 1 < n → z.fill = y.fill + 1 ∧ z.cur.bytes = y.cur.bytes ++ bs ∧ z.ready = y.ready
  whole : y.fill + 1 = n → y.bad = false → z.fill = 0 ∧ z.cur = {} ∧
    ∃ g, z.ready = y.ready ++ [g] ∧ g.bytes = y.cur.bytes ++ bs ∧ g.newUtt = y.newUtt ∧ g.gap = y.gap

theorem addSample_run {s : State} {k slot : Nat} (hframed : (s.inp k).framed = true) (hfrom : (s.inp k).from_ = none)
    (hn : s.chunkSize k slot ≠ 0) (b0 b1 : FlagBind) (suspect : Bool) (bs : List Byte) :
    Gathered (s.inp k) (((addSample k slot b0 b1 suspect bs).run s).inp k) (s.chunkSize k slot) bs ∧
    ((addSample k slot b0 b1 suspect bs).run s).free = s.free + 1 := by
  have hne : (s.chunkSize k slot != 0) = true := bne_iff_ne.mpr hn
  simp only [State.chunkSize] at hne
  simp only [addSample, Prog.run_look, Prog.run_when, hframed, hfrom, hne, Bool.and_self, if_true, Prog.run_all_cons, Prog.run_all_nil]
  refine ⟨?_, rfl⟩
  rw [show ∀ x : State, ((Prog.act .draw).run x).inp k = x.inp k from fun _ => rfl, State.inp_modIn_same, ← State.chunkSize]
  refine ⟨fun h => ?_, fun h hb => ?_⟩
  · have hlt : ((s.inp k).fill + 1 == s.chunkSize k slot) = false := beq_eq_false_iff_ne.mpr (by omega)
    simp [hlt]
  · have heq : ((s.inp k).fill + 1 == s.chunkSize k slot) = true := beq_iff_eq.mpr h
    simp [heq, hb]

/-! ## Entries that become unframed -/

theorem unframe_unframed (k slot : Nat) (count : Prog) (s : State) :
    (((unframe k slot count).run s).inp k).framed = false ∧ (((unframe k slot count).run s).inp k).fill = 0 := by
  rw [unframe, Prog.run_all_cons, Prog.run_all_cons, Prog.run_all_nil, Prog.run_look, State.inp_modIn_same]
  exact ⟨rfl, rfl⟩

/-- The frame of one entry of the array that becomes unframed: other entries, and its complete chunks, stay; a drop is counted and logged. -/
abbrev pathBound (k : Nat) : Bound where
  dev d e := (∀ j, j ≠ k → Sparse.get InPath.blank e.ins j = Sparse.get InPath.blank d.ins j) ∧
    (Sparse.get InPath.blank e.ins k).ready = (Sparse.get InPath.blank d.ins k).ready
  reg o := o ∈ F.ARR_DROPS.off :: logRegs
  mem := False
  host := False

theorem pathBound_steps (k : Nat) : (pathBound k).Steps :=
  ⟨fun _ => ⟨fun _ _ => rfl, rfl⟩, fun h g => ⟨fun j hj => (g.1 j hj).trans (h.1 j hj), g.2.trans h.2⟩⟩
theorem pathBound_logs (k : Nat) : (pathBound k).Logs := ⟨fun _ _ _ _ _ => ⟨fun _ _ => rfl, rfl⟩, fun _ h => List.mem_cons_of_mem _ h⟩

theorem modIn_pathBound {k : Nat} {f : InPath → InPath} (hf : ∀ x, (f x).ready = x.ready) : (modIn k f).Only (Act.obeys (pathBound k)) :=
  fun _ => ⟨fun _ hj => Sparse.get_put_other _ _ _ _ _ hj, (congrArg InPath.ready (Sparse.get_put_same _ _ _ _)).trans (hf _)⟩

theorem unframePath_pathBound (i : Nat) : (unframePath i).Only (Act.obeys (pathBound (128 + i))) := by
  have hlog : ∀ l id code sev u ds st, (logLim l id code sev u ds st).Only (Act.obeys (pathBound (128 + i))) := (pathBound_logs _).logLim
  have hslot : ∀ n f, (modSlot n f).Only (Act.obeys (pathBound (128 + i))) := fun _ _ _ => ⟨fun _ _ => rfl, rfl⟩
  have hdrop : (incF F.ARR_DROPS).Only (Act.obeys (pathBound (128 + i))) := incF_obeys.mpr List.mem_cons_self
  simp [-incF_obeys, unframePath, unframe, discard, arrDrop, gapNext, arrKey, hlog, hslot, hdrop, modIn_pathBound]

/-- The frame of paths that become unframed, whichever. -/
abbrev pathsBound : Bound where
  dev d e := e.arr = d.arr ∧ e.chuck = d.chuck ∧ e.pwr = d.pwr ∧ d.log.count ≤ e.log.count
  reg o := o ∈ F.ARR_DROPS.off :: logRegs
  mem := False
  host := False

theorem pathsBound_steps : pathsBound.Steps := ⟨fun _ => ⟨rfl, rfl, rfl, le_refl _⟩,
  fun h k => ⟨k.1.trans h.1, k.2.1.trans h.2.1, k.2.2.1.trans h.2.2.1, h.2.2.2.trans k.2.2.2⟩⟩
theorem pathsBound_logs : pathsBound.Logs := ⟨fun _ _ _ _ h => ⟨rfl, rfl, rfl, h⟩, fun _ h => List.mem_cons_of_mem _ h⟩

theorem unframePath_pathsBound (i : Nat) : (unframePath i).Only (Act.obeys pathsBound) := by
  have hlog : ∀ l id code sev u ds st, (logLim l id code sev u ds st).Only (Act.obeys pathsBound) := pathsBound_logs.logLim
  have hslot : ∀ n f, (modSlot n f).Only (Act.obeys pathsBound) := fun _ _ _ => ⟨rfl, rfl, rfl, le_refl _⟩
  have hin : ∀ n f, (modIn n f).Only (Act.obeys pathsBound) := fun _ _ _ => ⟨rfl, rfl, rfl, le_refl _⟩
  have hdrop : (incF F.ARR_DROPS).Only (Act.obeys pathsBound) := incF_obeys.mpr List.mem_cons_self
  simp [-incF_obeys, unframePath, unframe, discard, arrDrop, gapNext, hlog, hslot, hdrop, hin]

theorem unframeEach_pathsBound (l : List Nat) : (each l unframePath).Only (Act.obeys pathsBound) :=
  Prog.only_each.mpr fun i _ => unframePath_pathsBound i

theorem unframePath_framed (i j : Nat) (s : State) (h : (s.inp (128 + j)).framed = false) :
    (((unframePath i).run s).inp (128 + j)).framed = false := by
  by_cases hj : j = i
  · rw [hj, unframePath, Prog.run_look]
    exact (unframe_unframed _ _ _ s).1
  · have hkeep := ((unframePath_pathBound i).devs (pathBound_steps _) s).1 (128 + j) (by omega)
    exact (congrArg InPath.framed hkeep).trans h

/-- Every path that is to become unframed is. -/
theorem unframeEach_framed (l : List Nat) (s : State) : ∀ i ∈ l, (((each l unframePath).run s).inp (128 + i)).framed = false :=
  Prog.run_each_establishes (P := fun i x => (x.inp (128 + i)).framed = false)
    (fun i _ x => by rw [unframePath, Prog.run_look]; exact (unframe_unframed _ _ _ x).1)
    (fun i _ j _ x hx => unframePath_framed j i x hx) s

theorem unframePath_unframed (i : Nat) (s : State) :
    (((unframePath i).run s).inp (128 + i)).framed = false ∧ (((unframePath i).run s).inp (128 + i)).fill = 0 := by
  rw [unframePath, Prog.run_look]
  exact unframe_unframed _ _ _ s

end Sys2Proof.Machine
end

section
/-!
The input paths of the array, its clocking and its calibration.
-/
namespace Sys2Proof.Machine

theorem getLsbD_eq (v : Word) (i : Nat) : (bitsOf v.toNat i 1 == 1) = v.getLsbD i := bitsOf_one_eq_testBit v.toNat i

/-! ## A sampling instant -/

theorem modIn_congr {k : Nat} {f g : InPath → InPath} {s : State} (h : f (s.inp k) = g (s.inp k)) : (modIn k f).run s = (modIn k g).run s :=
  congrArg (fun y => { s with dev := { s.dev with ins := Sparse.put InPath.blank s.dev.ins k y } }) h

theorem gainBoundary_run {i : Nat} {s : State} (h : (s.inp (128 + i)).gain = none) :
    (gainBoundary i).run s = (modIn (128 + i) fun y => { y with gainWait := 0 }).run s := by
  have hmod : (modIn (arrKey i) fun y => { y with gainWait := if y.gain.isSome then y.gainWait + 1 else 0 }).run s =
      (modIn (128 + i) fun y => { y with gainWait := 0 }).run s := 
    modIn_congr (by rw [show (s.inp (arrKey i)).gain = none from h]; rfl)
  have hgain : (((modIn (128 + i) fun y => { y with gainWait := 0 }).run s).inp (arrKey i)).gain = none := by
    rw [arrKey, State.inp_modIn_same]
    exact h
  rw [gainBoundary, Prog.run_all_cons, Prog.run_all_cons, Prog.run_all_nil, hmod, Prog.run_look, Prog.run_when]
  split
  · rw [applyGain, Prog.run_look, hgain]
    rfl
  · rfl

/-- The bytes of a sample as the statement of R405 has them are those that the path delivers. -/
theorem State.sampleBytes_eq (s : State) (i v : Nat) :
    (if s.fld (F.ARR_IN_CTL_FMT i) = 0 then toBytes 2 (v / 256) else s.sampleBytes i v) = s.sampleBytes i v := by
  split
  · next h => simp [State.sampleBytes, State.inFormat, h]
  · rfl

/-- A sample of a path that neither clips, nor slips, nor is calibrated. -/
theorem samplePath_run {s : State} {i : Nat} {x : SampleIn} (hvalid : s.bit (F.ARR_IN_BIND_VALID i) = true)
    (hcal : inMask s.dev.arr.calIn i = false) (hslip : x.slip = 0) (hmax : x.value % 2 ^ 24 ≠ 0x7FFFFF) (hmin : x.value % 2 ^ 24 ≠ 0x800000)
    (hgain : (s.inp (128 + i)).gain = none) : ∃ b0 b1 c, (samplePath i x).run s =
      (addSample (128 + i) (s.bindSlot i) b0 b1 c (s.sampleBytes i (x.value % 2 ^ 24))).run
        ((modIn (128 + i) fun y => { y with gainWait := 0 }).run s) := by
  have hclip : (x.value % 2 ^ 24 == 0x7FFFFF || x.value % 2 ^ 24 == 0x800000) = false := by
    rw [beq_eq_false_iff_ne.mpr hmax, beq_eq_false_iff_ne.mpr hmin]
    rfl
  have hno : (if s.bit F.ARR_CLK_CTL_SRC && s.bit F.ARR_CLK_CTL_ADAPT && !s.bit F.ARR_STATUS_SYNTHFB then x.slip else 0) = 0 := by
    rw [hslip, ite_self]
  rw [samplePath, Prog.run_look]
  simp only [hclip, hno, hcal]
  rw [Prog.run_all_cons, Prog.run_all_cons, Prog.run_all_cons, Prog.run_all_cons, Prog.run_all_nil, Bool.false_and]
  refine ⟨(s.pathFlags i).1, (s.pathFlags i).2, false, ?_⟩
  show (when (s.bit (F.ARR_IN_BIND_VALID i)) _).run ((gainBoundary i).run s) = _
  rw [hvalid, gainBoundary_run hgain]
  rfl

theorem samplingInstant_completes {s : State} {i : Nat} {x : SampleIn} (hi : i < 16) (hon : s.arrOn = true)
    (hen : s.bit (F.ARR_IN_CTL_EN i) = true) (hvalid : s.bit (F.ARR_IN_BIND_VALID i) = true) (hcal : inMask s.dev.arr.calIn i = false)
    (hslip : x.slip = 0) (hmax : x.value % 2 ^ 24 ≠ 0x7FFFFF) (hmin : x.value % 2 ^ 24 ≠ 0x800000) (hframed : (s.inp (128 + i)).framed = true)
    (hfrom : (s.inp (128 + i)).from_ = none) (hgain : (s.inp (128 + i)).gain = none)
    (hfill : (s.inp (128 + i)).fill < s.chunkSize (128 + i) (s.bindSlot i)) :
    Completes (.samplingInstant i x) s fun u => Gathered (s.inp (128 + i)) (u.inp (128 + i)) (s.chunkSize (128 + i) (s.bindSlot i))
        (s.sampleBytes i (x.value % 2 ^ 24)) ∧
      (∀ j, j ≠ 128 + i → u.inp j = s.inp j) ∧ OnlyInputs s u ∧ u.free = s.free + 1 := by
  refine completes_done (p := when (decide (i < 16) && s.arrOn && s.bit (F.ARR_IN_CTL_EN i)) (samplePath i x)) rfl ?_
  rw [hon, hen, Prog.run_when, if_pos (by simp [hi])]
  obtain ⟨b0, b1, c, hrun⟩ := samplePath_run hvalid hcal hslip hmax hmin hgain
  rw [hrun]
  have hy : ((modIn (128 + i) fun y => { y with gainWait := 0 }).run s).inp (128 + i) = { s.inp (128 + i) with gainWait := 0 } :=
    State.inp_modIn_same _ _ _
  have hother : ∀ j, j ≠ 128 + i → ((modIn (128 + i) fun y => { y with gainWait := 0 }).run s).inp j = s.inp j := fun j hj =>
    State.inp_modIn_other hj _ _
  have hsize : ((modIn (128 + i) fun y => { y with gainWait := 0 }).run s).chunkSize (128 + i) (s.bindSlot i) =
      s.chunkSize (128 + i) (s.bindSlot i) := by
    rw [State.chunkSize, State.chunkSize, hy]
    rfl
  have hins := modIn_onlyInputs (128 + i) (fun y => { y with gainWait := 0 }) s
  have hfree : ((modIn (128 + i) fun y => { y with gainWait := 0 }).run s).free = s.free := rfl
  generalize (modIn (128 + i) fun y => { y with gainWait := 0 }).run s = z at *
  obtain ⟨hg, hf⟩ := addSample_run (s := z) (k := 128 + i) (slot := s.bindSlot i) (by rw [hy]; exact hframed) (by rw [hy]; exact hfrom)
    (by rw [hsize]; omega) b0 b1 c (s.sampleBytes i (x.value % 2 ^ 24))
  rw [hsize, hy] at hg
  exact ⟨⟨hg.more, hg.whole⟩, fun j hj => (addSample_other hj _ _ _ _ _ z).trans (hother j hj),
    hins.trans ((addSample_onInputs _ _ _ _ _ _).onlyInputs z), hf.trans (by rw [hfree])⟩

end Sys2Proof.Machine
end

section
/-!
Writes of an input path's control register, held gain codes, and clocking.
-/
namespace Sys2Proof.Machine

/-- The first two fields that a write of an input path's control register sets. -/
def writeInFlags (i v : Nat) : Prog := all [setF (F.ARR_IN_CTL_ZC i) (bitsOf v 10 1), setF (F.ARR_IN_CTL_CLIP_SUSPECT i) (bitsOf v 18 1)]

/-- Only one register differs. -/
structure OnlyWord (s u : State) (off : Nat) : Prop where
  dev : u.dev = s.dev
  words : ∀ o, o ≠ off → u.word o = s.word o
  mem : u.mem = s.mem
  host : u.host = s.host

theorem OnlyWord.trans {s t u : State} {off : Nat} (h : OnlyWord s t off) (k : OnlyWord t u off) : OnlyWord s u off :=
  ⟨k.dev.trans h.dev, fun o ho => (k.words o ho).trans (h.words o ho), k.mem.trans h.mem, k.host.trans h.host⟩

theorem setF_onlyWord (f : Fld) (v : Nat) (s : State) : OnlyWord s ((setF f v).run s) f.off :=
  ⟨rfl, fun _ ho => word_setF_of_ne ho s, rfl, rfl⟩

theorem State.bit_modIn (k : Nat) (f : InPath → InPath) (s : State) (g : Fld) : ((modIn k f).run s).bit g = s.bit g := rfl

theorem setB_onlyWord (f : Fld) (b : Bool) (s : State) : OnlyWord s ((setB f b).run s) f.off := setF_onlyWord f _ s

theorem writeInFlags_run (i v : Nat) (s : State) : OnlyWord s ((writeInFlags i v).run s) (F.ARR_IN_CTL_EN i).off ∧
    ((writeInFlags i v).run s).bit (F.ARR_IN_CTL_EN i) = s.bit (F.ARR_IN_CTL_EN i) ∧
    ((writeInFlags i v).run s).fld (F.ARR_IN_CTL_GAIN i) = s.fld (F.ARR_IN_CTL_GAIN i) := by
  have hrun : (writeInFlags i v).run s = (setF (F.ARR_IN_CTL_CLIP_SUSPECT i) (bitsOf v 18 1)).run
      ((setF (F.ARR_IN_CTL_ZC i) (bitsOf v 10 1)).run s) := rfl
  have hother : ∀ f : Fld, f.lo + f.w ≤ 10 → ((writeInFlags i v).run s).fld f = s.fld f := fun f hf => by
    rw [hrun, Prog.fld_setF_other (F.ARR_IN_CTL_CLIP_SUSPECT i) f _ _ (by omega) (.inr (.inl (le_trans hf (by show 10 ≤ 18; decide)))),
      Prog.fld_setF_other (F.ARR_IN_CTL_ZC i) f _ _ (by omega) (.inr (.inl hf))]
  refine ⟨?_, congrArg (· == 1) (hother _ (by show 0 + 1 ≤ 10; decide)), hother _ (by show 3 + 7 ≤ 10; decide)⟩
  rw [hrun]
  exact (setF_onlyWord (F.ARR_IN_CTL_ZC i) _ s).trans (setF_onlyWord (F.ARR_IN_CTL_CLIP_SUSPECT i) _ _)

/-- A gain code is held beside the one that is in force. -/
def InPath.holdGain (g inForce : Nat) (x : InPath) : InPath := { x with gain := if g = inForce then none else some g, gainWait := 0 }

/-- What a write of the code does to the entry: a code above 120 is ignored. -/
def holdCode (i g inForce : Nat) : Prog := when (decide (g ≤ 120)) (modIn (128 + i) (InPath.holdGain g inForce))

/-- The entry after a write of the code. -/
def InPath.codeHeld (g inForce : Nat) (x : InPath) : InPath := if 120 < g then x else x.holdGain g inForce

theorem holdCode_run (i g inForce : Nat) (s : State) : OnlyInputs s ((holdCode i g inForce).run s) ∧
    ((holdCode i g inForce).run s).inp (128 + i) = (s.inp (128 + i)).codeHeld g inForce ∧
    ∀ j, j ≠ 128 + i → ((holdCode i g inForce).run s).inp j = s.inp j := by
  by_cases h : 120 < g
  · have hno : (decide (g ≤ 120)) = false := decide_eq_false (by omega)
    rw [holdCode, hno, InPath.codeHeld, if_pos h]
    exact ⟨OnlyInputs.refl s, rfl, fun _ _ => rfl⟩
  · have hyes : (decide (g ≤ 120)) = true := decide_eq_true (by omega)
    rw [holdCode, hyes, InPath.codeHeld, if_neg h]
    exact ⟨modIn_onlyInputs _ _ s, State.inp_modIn_same _ _ s, fun j hj => State.inp_modIn_other hj _ s⟩

/-- A path that is enabled or disabled by a write. -/
def switchIn (i now : Nat) (en was : Bool) : Prog :=
  all [when (en && !was) (all [setB (F.ARR_IN_CTL_EN i) true, modIn (arrKey i) fun x => { x.fresh now with gain := x.gain, gainWait := x.gainWait }]),
    when (!en && was) (all [unframePath i, setB (F.ARR_IN_CTL_EN i) false])]

theorem switchIn_same (i now : Nat) (b : Bool) (s : State) : (switchIn i now b b).run s = s := by
  rw [switchIn, Prog.run_all_cons, Prog.run_all_cons, Prog.run_all_nil, Bool.and_not_self, Bool.not_and_self, Prog.run_when, Prog.run_when,
    if_neg Bool.false_ne_true, if_neg Bool.false_ne_true]

theorem switchIn_on (i now : Nat) (s : State) : (switchIn i now true (!true)).run s =
    (modIn (128 + i) fun x => { x.fresh now with gain := x.gain, gainWait := x.gainWait }).run ((setB (F.ARR_IN_CTL_EN i) true).run s) := by
  rw [switchIn, Prog.run_all_cons, Prog.run_all_cons, Prog.run_all_nil, Prog.run_when, if_neg (by decide), Prog.run_when, if_pos (by rfl),
    Prog.run_all_cons, Prog.run_all_cons, Prog.run_all_nil]
  rfl

theorem switchIn_off (i now : Nat) (s : State) : (switchIn i now false (!false)).run s =
    (setB (F.ARR_IN_CTL_EN i) false).run ((unframePath i).run s) := by
  rw [switchIn, Prog.run_all_cons, Prog.run_all_cons, Prog.run_all_nil, Prog.run_when, if_pos (by rfl), Prog.run_when, if_neg (by decide),
    Prog.run_all_cons, Prog.run_all_cons, Prog.run_all_nil]

/-- A write of an input path's control register, by its parts. -/
theorem writeInCtl_run (i v : Nat) (s : State) : (writeInCtl i v).run s =
    (switchIn i s.now (bitsOf v 0 1 == 1) (s.bit (F.ARR_IN_CTL_EN i))).run
      ((holdCode i (bitsOf v 3 7) (s.fld (F.ARR_IN_CTL_GAIN i))).run ((writeInFlags i v).run s)) := rfl

theorem inCtl_bench {i : Nat} (h : i < 16) : benchOf (F.ARR_IN_CTL_EN i).off = none := by
  show benchOf (0x420100 + 0x20 * i) = none
  rw [benchOf, if_neg (by simp; omega)]

theorem inCtl_not_dropped {i : Nat} (h : i < 16) : (F.ARR_IN_CTL_EN i).off ∉ F.ARR_DROPS.off :: logRegs := by
  simp [logRegs]
  omega

theorem gainWrite_completes {s : State} {p : Path} {i : Nat} {v : Word} (hi : i < 16) (hr : s.reach p (F.ARR_IN_CTL_EN i).off = true)
    (hv : v.getLsbD 0 = true ↔ s.bit (F.ARR_IN_CTL_EN i) = true) : Completes (.gainWrite p i v) s fun u =>
      u.fld (F.ARR_IN_CTL_GAIN i) = s.fld (F.ARR_IN_CTL_GAIN i) ∧
      u.inp (128 + i) = (s.inp (128 + i)).codeHeld (bitsOf v.toNat 3 7) (s.fld (F.ARR_IN_CTL_GAIN i)) ∧
      SameRegsBut s u [(F.ARR_IN_CTL_EN i).off] ∧ SameBytes s u ∧ SameHost s u := by
  refine completes_done (p := when (i < 16) (writing p (F.ARR_IN_CTL_EN i).off (writeInCtl i v.toNat))) rfl ?_
  have hsame : (bitsOf v.toNat 0 1 == 1) = s.bit (F.ARR_IN_CTL_EN i) := by
    rw [getLsbD_eq]
    exact Bool.eq_iff_iff.mpr hv
  rw [Prog.run_when, if_pos (by simp [hi]), writing_run_of_reach hr (inCtl_bench hi), writeInCtl_run, hsame]
  obtain ⟨hw, -, hgain⟩ := writeInFlags_run i v.toNat s
  obtain ⟨hins, hin, -⟩ := holdCode_run i (bitsOf v.toNat 3 7) (s.fld (F.ARR_IN_CTL_GAIN i)) ((writeInFlags i v.toNat).run s)
  generalize (writeInFlags i v.toNat).run s = x at *
  generalize (holdCode i (bitsOf v.toNat 3 7) (s.fld (F.ARR_IN_CTL_GAIN i))).run x = y at *
  rw [switchIn_same]
  have hx : x.inp (128 + i) = s.inp (128 + i) := by rw [State.inp, hw.dev]; rfl
  refine ⟨(State.fld_of_word (congrArg (Sparse.get _ · _) hins.regs)).trans hgain, by rw [hin, hx], fun o ho => ?_, fun a => ?_, fun a => ?_⟩
  · exact (congrArg (Sparse.get _ · o) hins.regs).trans (hw.words o (by simpa using ho))
  · rw [hins.mem, hw.mem]
  · rw [hins.host, hw.host]

theorem gainApply_completes {s : State} {i g : Nat} (hi : i < 16) (hon : s.arrOn = true) (hcal : inMask s.dev.arr.calIn i = false)
    (hg : (s.inp (128 + i)).gain = some g) : Completes (.gainApply i) s fun u => u.fld (F.ARR_IN_CTL_GAIN i) = g % 128 ∧
      u.inp (128 + i) = { s.inp (128 + i) with gain := none, gainWait := 0 } ∧ SameRegsBut s u [(F.ARR_IN_CTL_GAIN i).off] ∧
      SameBytes s u ∧ SameHost s u := by
  refine completes_done (p := when (decide (i < 16) && s.arrOn) (applyGain i)) rfl ?_
  rw [Prog.run_when, if_pos (by simp [hi, hon]), applyGain, Prog.run_look, show (s.inp (arrKey i)).gain = some g from hg]
  show _ ∧ _
  rw [Prog.run_when, if_pos (by rw [hcal]; rfl), Prog.run_all_cons, Prog.run_all_cons, Prog.run_all_nil]
  refine ⟨?_, State.inp_modIn_same (128 + i) _ _, fun o ho => ?_, fun _ => rfl, fun _ => rfl⟩
  · exact Prog.fld_setF_same (F.ARR_IN_CTL_GAIN i) g s (by show 3 + 7 ≤ 32; decide)
  · exact word_setF_of_ne (f := F.ARR_IN_CTL_GAIN i) (by simpa using ho) s

/-! ## Enabling and disabling a path -/

theorem arrPathEnable_completes {s : State} {p : Path} {i : Nat} {v : Word} (hi : i < 16) (hr : s.reach p (F.ARR_IN_CTL_EN i).off = true)
    (hv : v.getLsbD 0 = true ↔ s.bit (F.ARR_IN_CTL_EN i) = false) : Completes (.arrPathEnable p i v) s fun u =>
      u.bit (F.ARR_IN_CTL_EN i) = v.getLsbD 0 ∧ (u.inp (128 + i)).framed = false ∧ (u.inp (128 + i)).fill = 0 ∧
      (u.inp (128 + i)).ready = (s.inp (128 + i)).ready ∧ (v.getLsbD 0 = true → (u.inp (128 + i)).enabledAt = s.now) ∧
      (∀ j, j ≠ 128 + i → u.inp j = s.inp j) ∧ SameBytes s u ∧ SameHost s u := by
  refine completes_done (p := when (i < 16) (writing p (F.ARR_IN_CTL_EN i).off (writeInCtl i v.toNat))) rfl ?_
  have hwas : s.bit (F.ARR_IN_CTL_EN i) = !v.getLsbD 0 := by
    cases hb : s.bit (F.ARR_IN_CTL_EN i) <;> cases hc : v.getLsbD 0 <;> simp_all
  rw [Prog.run_when, if_pos (by simp [hi]), writing_run_of_reach hr (inCtl_bench hi), writeInCtl_run, getLsbD_eq, hwas]
  obtain ⟨hw, -, -⟩ := writeInFlags_run i v.toNat s
  obtain ⟨hins, hin, hothers⟩ := holdCode_run i (bitsOf v.toNat 3 7) (s.fld (F.ARR_IN_CTL_GAIN i)) ((writeInFlags i v.toNat).run s)
  generalize (writeInFlags i v.toNat).run s = x at *
  generalize (holdCode i (bitsOf v.toNat 3 7) (s.fld (F.ARR_IN_CTL_GAIN i))).run x = y at *
  have hx : ∀ j, x.inp j = s.inp j := fun j => by rw [State.inp, hw.dev]; rfl
  have hready : (y.inp (128 + i)).ready = (s.inp (128 + i)).ready := by
    rw [hin, hx, InPath.codeHeld]
    split <;> rfl
  have hother : ∀ j, j ≠ 128 + i → y.inp j = s.inp j := fun j hj => (hothers j hj).trans (hx j)
  have hmem : y.mem = s.mem := hins.mem.trans hw.mem
  have hhost : y.host = s.host := hins.host.trans hw.host
  clear hins hin hothers hx hw
  cases v.getLsbD 0 with
  | true =>
    rw [switchIn_on]
    have hset := setB_onlyWord (F.ARR_IN_CTL_EN i) true y
    have hbit : ((setB (F.ARR_IN_CTL_EN i) true).run y).bit (F.ARR_IN_CTL_EN i) = true :=
      Prog.bit_setB_same (f := F.ARR_IN_CTL_EN i) rfl (by show 0 + 1 ≤ 32; decide) true y
    generalize (setB (F.ARR_IN_CTL_EN i) true).run y = z at *
    have hz : ∀ j, z.inp j = y.inp j := fun j => by rw [State.inp, hset.dev]; rfl
    refine ⟨(State.bit_modIn _ _ z _).trans hbit, ?_, ?_, ?_, fun _ => ?_, fun j hj => ?_, fun a => ?_, fun a => ?_⟩
    · rw [State.inp_modIn_same]; rfl
    · rw [State.inp_modIn_same]; rfl
    · rw [State.inp_modIn_same, hz]; exact hready
    · rw [State.inp_modIn_same]; rfl
    · exact (State.inp_modIn_other hj _ _).trans ((hz j).trans (hother j hj))
    · exact congrArg (·.read a) ((modIn_onlyInputs _ _ z).mem.trans (hset.mem.trans hmem))
    · exact congrArg (·.read a) ((modIn_onlyInputs _ _ z).host.trans (hset.host.trans hhost))
  | false =>
    rw [switchIn_off]
    have hp := unframePath_pathBound i
    obtain ⟨hins, hkept⟩ := hp.devs (pathBound_steps _) y
    obtain ⟨hun, hfill⟩ := unframePath_unframed i y
    have hm := hp.mems id y
    have hh := hp.hosts id y
    generalize (unframePath i).run y = z at *
    have hset := setB_onlyWord (F.ARR_IN_CTL_EN i) false z
    have hbit : ((setB (F.ARR_IN_CTL_EN i) false).run z).bit (F.ARR_IN_CTL_EN i) = false :=
      Prog.bit_setB_same (f := F.ARR_IN_CTL_EN i) rfl (by show 0 + 1 ≤ 32; decide) false z
    generalize (setB (F.ARR_IN_CTL_EN i) false).run z = w at *
    have hw : ∀ j, w.inp j = z.inp j := fun j => by rw [State.inp, hset.dev]; rfl
    refine ⟨hbit, by rw [hw]; exact hun, by rw [hw]; exact hfill, by rw [hw]; exact hkept.trans hready, fun h => absurd h Bool.false_ne_true,
      fun j hj => ?_, fun a => ?_, fun a => ?_⟩
    · exact (hw j).trans ((hins j hj).trans (hother j hj))
    · exact congrArg (·.read a) (hset.mem.trans (hm.trans hmem))
    · exact congrArg (·.read a) (hset.host.trans (hh.trans hhost))

end Sys2Proof.Machine
end

section
/-!
The array's clocking and calibration.
-/
namespace Sys2Proof.Machine

theorem Prog.bit_setB_other {f g : Fld} (hg : g.lo + g.w ≤ 32) (h : g.off ≠ f.off ∨ g.lo + g.w ≤ f.lo ∨ f.lo + f.w ≤ g.lo) (b : Bool)
    (s : State) : ((setB f b).run s).bit g = s.bit g := congrArg (· == 1) (Prog.fld_setF_other f g _ s hg h)

theorem Prog.bit_setF_other {f g : Fld} (hg : g.lo + g.w ≤ 32) (h : g.off ≠ f.off ∨ g.lo + g.w ≤ f.lo ∨ f.lo + f.w ≤ g.lo) (v : Nat)
    (s : State) : ((setF f v).run s).bit g = s.bit g := congrArg (· == 1) (Prog.fld_setF_other f g _ s hg h)

theorem State.inp_of_dev {s u : State} (h : u.dev = s.dev) (k : Nat) : u.inp k = s.inp k := by rw [State.inp, h]; rfl

/-! ## Clocking -/

theorem writeFields_dev (off v : Nat) (s : State) : ((writeFields off v).run s).dev = s.dev := rfl

theorem unframeAll_run (s : State) : (∀ i, i < 16 → ((unframeAll.run s).inp (128 + i)).framed = false) ∧
    s.dev.log.count ≤ (unframeAll.run s).dev.log.count ∧ (∀ f : Fld, f.off = 0x420000 → (unframeAll.run s).bit f = s.bit f) ∧
    (unframeAll.run s).mem = s.mem ∧ (unframeAll.run s).host = s.host := by
  have hun := unframeEach_pathsBound (List.range 16)
  have hf := unframeEach_framed (List.range 16) s
  have hd := hun.devs pathsBound_steps s
  have hw := fun f : Fld => hun.bits (f := f) (s := s)
  have hm := hun.mems id s
  have hh := hun.hosts id s
  rw [unframeAll]
  generalize (each (List.range 16) unframePath).run s = y at *
  exact ⟨fun i hi => hf i (List.mem_range.mpr hi), hd.2.2.2, fun f h => hw f (by rw [h]; decide), hm, hh⟩

theorem arrClkCtlWrite_completes {s : State} {p : Path} {v : Word} (hr : s.reach p F.ARR_CLK_CTL_SRC.off = true) :
    Completes (.arrClkCtlWrite p v) s fun u => u.bit F.ARR_CLK_CTL_SRC = v.getLsbD 0 ∧ u.bit F.ARR_STATUS_SYNTHFB = false ∧
      u.bit F.ARR_STATUS_FOLLOW = v.getLsbD 0 ∧ (∀ i, i < 16 → (u.inp (128 + i)).framed = false) ∧ SameBytes s u ∧ SameHost s u := by
  refine completes_done (p := writing p F.ARR_CLK_CTL_SRC.off (writeArrClk v.toNat)) rfl ?_
  have hquiet : (writeArrClk v.toNat).Only (Act.obeys (.regs [F.ARR_DROPS.off, F.ARR_CLK_CTL_SRC.off, F.ARR_STATUS_FOLLOW.off])) := by
    refine ⟨Prog.only_each.mpr fun i _ => (unframePath_pathsBound i).mono fun a ha => ?_, writeFields_obeys (by decide), setB_obeys.mpr (by decide),
      setB_obeys.mpr (by decide), trivial⟩
    cases a with
    | reg o w =>
      rcases List.mem_cons.mp ha with rfl | h
      · exact List.mem_cons_self
      · exact List.mem_append_right _ h
    | dev => exact fun _ => trivial
    | _ => exact ha
  rw [writing_run_of_reach hr (by decide)]
  obtain ⟨hb, hh, -⟩ := hquiet.sameRegs_of_regs s
  refine ⟨?_, ?_, ?_, fun i hi => ?_, hb, hh⟩
  all_goals
    rw [writeArrClk]
    iterate 4 rw [Prog.run_all_cons]
    rw [Prog.run_all_nil]
  · rw [Prog.bit_setB_other (by decide) (.inl (by decide)), Prog.bit_setB_other (by decide) (.inl (by decide))]
    have hmem : (⟨0, 1, .rw, 0, .H⟩ : FieldSpec) ∈ RegMap.fields F.ARR_CLK_CTL_SRC.off := by decide +kernel
    have hfield := writeFields_field hmem v.toNat (unframeAll.run s)
    exact (congrArg (· == 1) hfield).trans (getLsbD_eq v 0)
  · rw [Prog.bit_setB_other (by decide) (.inr (.inr (by decide))), Prog.bit_setB_same rfl (by decide)]
  · rw [Prog.bit_setB_same rfl (by decide)]
    exact getLsbD_eq v 0
  · rw [State.inp_of_dev (setB_onlyWord _ _ _).dev, State.inp_of_dev (setB_onlyWord _ _ _).dev, State.inp_of_dev (writeFields_dev _ _ _)]
    exact (unframeAll_run s).1 i hi

theorem amclkLost_completes {s : State} (hon : s.arrOn = true) (hf : s.following = true) : Completes .amclkLost s fun u =>
    u.bit F.ARR_STATUS_SYNTHFB = true ∧ u.bit F.ARR_STATUS_FOLLOW = false ∧ (∀ i, i < 16 → (u.inp (128 + i)).framed = false) ∧
      u.dev.log.count ≠ s.dev.log.count ∧ SameBytes s u ∧ SameHost s u := by
  refine completes_done (p := when (s.arrOn && s.following) (all [setB F.ARR_STATUS_SYNTHFB true, setB F.ARR_STATUS_FOLLOW false, unframeAll,
    logC 0xB040 1 112 []])) rfl ?_
  rw [hon, hf, Prog.run_when, if_pos (by rfl)]
  iterate 4 rw [Prog.run_all_cons]
  rw [Prog.run_all_nil]
  have h1 := setB_onlyWord F.ARR_STATUS_SYNTHFB true s
  have hb1 : ((setB F.ARR_STATUS_SYNTHFB true).run s).bit F.ARR_STATUS_SYNTHFB = true := Prog.bit_setB_same rfl (by decide) true s
  generalize (setB F.ARR_STATUS_SYNTHFB true).run s = x at *
  have h2 := setB_onlyWord F.ARR_STATUS_FOLLOW false x
  have hb2 : ((setB F.ARR_STATUS_FOLLOW false).run x).bit F.ARR_STATUS_FOLLOW = false := Prog.bit_setB_same rfl (by decide) false x
  have hb3 : ((setB F.ARR_STATUS_FOLLOW false).run x).bit F.ARR_STATUS_SYNTHFB = true :=
    (Prog.bit_setB_other (by decide) (.inr (.inr (by decide))) false x).trans hb1
  generalize (setB F.ARR_STATUS_FOLLOW false).run x = y at *
  obtain ⟨hframed, hcount, hbits, hmem, hhost⟩ := unframeAll_run y
  generalize unframeAll.run y = z at *
  have hl := logC_run_onlyLogs 0xB040 1 112 [] none z
  have hc := logC_count_lt 0xB040 1 112 [] none z
  generalize (logC 0xB040 1 112 []).run z = w at *
  have hdev : y.dev = s.dev := h2.dev.trans h1.dev
  refine ⟨?_, ?_, fun i hi => ?_, ?_, fun a => ?_, fun a => ?_⟩
  · exact (congrArg (· == 1) (hl.fld (f := F.ARR_STATUS_SYNTHFB) (by decide))).trans ((hbits F.ARR_STATUS_SYNTHFB rfl).trans hb3)
  · exact (congrArg (· == 1) (hl.fld (f := F.ARR_STATUS_FOLLOW) (by decide))).trans ((hbits F.ARR_STATUS_FOLLOW rfl).trans hb2)
  · rw [State.inp, hl.dev]
    exact hframed i hi
  · rw [hdev] at hcount
    omega
  · rw [hl.mem, hmem, h2.mem, h1.mem]
  · rw [hl.host, hhost, h2.host, h1.host]

theorem followRatioMeasure_completes {s : State} (n : Nat) (hon : s.arrOn = true) (hf : s.following = true) :
    Completes (.followRatioMeasure n) s fun u => u.fld F.ARR_FOLLOW_RATIO_RATIO = n % 2 ^ 32 ∧ u.dev = s.dev ∧ SameBytes s u ∧
      SameHost s u ∧ SameRegsBut s u [F.ARR_FOLLOW_RATIO_RATIO.off] := by
  refine completes_done (p := when (s.arrOn && s.following) (setF F.ARR_FOLLOW_RATIO_RATIO n)) rfl ?_
  rw [hon, hf, Prog.run_when, if_pos (by rfl)]
  have h := setF_onlyWord F.ARR_FOLLOW_RATIO_RATIO n s
  exact ⟨Prog.fld_setF_same F.ARR_FOLLOW_RATIO_RATIO n s (by decide), h.dev, fun a => congrArg (·.read a) h.mem,
    fun a => congrArg (·.read a) h.host, fun o ho => h.words o (by simpa using ho)⟩

/-! ## A calibration starts -/

/-- What a write of ARR_CAL_CTL sets before RUN acts. -/
def calFlags (v : Nat) : Prog :=
  all [setF F.ARR_CAL_CTL_INMASK (bitsOf v 0 16), setF F.ARR_CAL_CTL_OUTMASK (bitsOf v 16 8), setB F.ARR_CAL_CTL_FORCE (bitsOf v 25 1 == 1),
    when (bitsOf v 27 1 == 1) (setF F.ARR_CAL_CTL_ERR 0)]

theorem calFlags_run (v : Nat) (s : State) : OnlyWord s ((calFlags v).run s) F.ARR_CAL_CTL_BUSY.off ∧
    ((calFlags v).run s).bit F.ARR_CAL_CTL_BUSY = s.bit F.ARR_CAL_CTL_BUSY := by
  rw [calFlags]
  iterate 4 rw [Prog.run_all_cons]
  rw [Prog.run_all_nil]
  have h1 := (setF_onlyWord F.ARR_CAL_CTL_INMASK (bitsOf v 0 16) s).trans (setF_onlyWord F.ARR_CAL_CTL_OUTMASK (bitsOf v 16 8) _)
  have h2 := h1.trans (setB_onlyWord F.ARR_CAL_CTL_FORCE (bitsOf v 25 1 == 1) _)
  have hb : ((setB F.ARR_CAL_CTL_FORCE (bitsOf v 25 1 == 1)).run ((setF F.ARR_CAL_CTL_OUTMASK (bitsOf v 16 8)).run
      ((setF F.ARR_CAL_CTL_INMASK (bitsOf v 0 16)).run s))).bit F.ARR_CAL_CTL_BUSY = s.bit F.ARR_CAL_CTL_BUSY := by
    rw [Prog.bit_setB_other (by decide) (.inr (.inr (by decide))), Prog.bit_setF_other (by decide) (.inr (.inr (by decide))),
      Prog.bit_setF_other (by decide) (.inr (.inr (by decide)))]
  generalize (setB F.ARR_CAL_CTL_FORCE (bitsOf v 25 1 == 1)).run _ = x at *
  rw [Prog.run_when]
  split
  · exact ⟨h2.trans (setF_onlyWord F.ARR_CAL_CTL_ERR 0 x), (Prog.bit_setF_other (by decide) (.inr (.inl (by decide))) 0 x).trans hb⟩
  · exact ⟨h2, hb⟩

/-- A named path is framed for an enabled partition. -/
def State.calHeld (s : State) (v : Nat) : Bool :=
  (membersOf (bitsOf v 0 16) 16).any fun i => (s.inp (arrKey i)).framed && s.partOn (s.slotPart (s.bindSlot i))

theorem State.calHeld_iff (s : State) (v : Word) : s.calHeld v.toNat = true ↔
    ∃ i, i < 16 ∧ v.getLsbD i = true ∧ (s.inp (128 + i)).framed = true ∧ s.partOn (s.slotPart (s.bindSlot i)) = true := by
  rw [State.calHeld, List.any_eq_true]
  refine exists_congr fun i => ?_
  rw [mem_membersOf, Bool.and_eq_true]
  refine ⟨fun ⟨⟨hi, hm⟩, h⟩ => ⟨hi, ?_, h⟩, fun ⟨hi, hm, h⟩ => ⟨⟨hi, ?_⟩, h⟩⟩
  · rwa [inMask_bitsOf hi, inMask_eq_testBit] at hm
  · rwa [inMask_bitsOf hi, inMask_eq_testBit]

theorem writeCalCtl_run {v : Nat} (hrun : bitsOf v 24 1 = 1) {s : State} (hon : s.arrOn = true) (hbusy : s.bit F.ARR_CAL_CTL_BUSY = false) :
    (writeCalCtl v).run s = (if s.calHeld v && !(bitsOf v 25 1 == 1) then setF F.ARR_CAL_CTL_ERR 1 else startCal (bitsOf v 0 16) (bitsOf v 16 8)).run
      ((calFlags v).run s) := by
  have hw : (writeCalCtl v).run s = (when (bitsOf v 24 1 == 1) (if (s.calHeld v && !(bitsOf v 25 1 == 1)) || s.bit F.ARR_CAL_CTL_BUSY || !s.arrOn
      then setF F.ARR_CAL_CTL_ERR 1 else startCal (bitsOf v 0 16) (bitsOf v 16 8))).run ((calFlags v).run s) := rfl
  rw [hw, hrun, hon, hbusy, Bool.or_false, Bool.not_true, Bool.or_false]
  rfl

theorem modArr_run (f : ArrayDie → ArrayDie) (s : State) : ((modArr f).run s).dev = { s.dev with arr := f s.dev.arr } ∧
    ((modArr f).run s).regs = s.regs ∧ ((modArr f).run s).mem = s.mem ∧ ((modArr f).run s).host = s.host := ⟨rfl, rfl, rfl, rfl⟩

theorem startCal_run (ins outs : Nat) (x : State) : ((startCal ins outs).run x).bit F.ARR_CAL_CTL_BUSY = true ∧
    ((startCal ins outs).run x).dev.arr = { x.dev.arr with calIn := ins, calOut := outs } ∧
    ((startCal ins outs).run x).unitState 112 = 1 ∧ ((startCal ins outs).run x).mem = x.mem ∧ ((startCal ins outs).run x).host = x.host := by
  rw [startCal]
  iterate 3 rw [Prog.run_all_cons]
  rw [Prog.run_all_nil]
  have h1 := setF_onlyWord F.ARR_CAL_CTL_BUSY 1 x
  have hb : ((setF F.ARR_CAL_CTL_BUSY 1).run x).bit F.ARR_CAL_CTL_BUSY = true := Prog.bit_setB_same rfl (by decide) true x
  generalize (setF F.ARR_CAL_CTL_BUSY 1).run x = y at *
  obtain ⟨hd, hr, hm, hh⟩ := modArr_run (fun a => { a with calIn := ins, calOut := outs }) y
  generalize (modArr fun a => { a with calIn := ins, calOut := outs }).run y = z at *
  have hl := declareUnit_line 112 1 z
  have hs := declareUnit_state (by decide : 1 < 16) 112 z
  generalize (declareUnit 112 1).run z = w at *
  refine ⟨?_, ?_, hs, by rw [hl.mem, hm, h1.mem], by rw [hl.host, hh, h1.host]⟩
  · exact (congrArg (· == 1) (hl.fld (f := F.ARR_CAL_CTL_BUSY) (by decide))).trans ((congrArg (· == 1) (State.fld_of_word (State.word_of_regs hr _))).trans hb)
  · rw [hl.dev, hd, h1.dev]

theorem arrCalRun_completes {s : State} {p : Path} {v : Word} (hr : s.reach p F.ARR_CAL_CTL_RUN.off = true) (hv : v.getLsbD 24 = true)
    (hon : s.arrOn = true) (hbusy : s.bit F.ARR_CAL_CTL_BUSY = false) : Completes (.arrCalRun p v) s fun u => SameBytes s u ∧ SameHost s u ∧
      (s.calHeld v.toNat = true → v.getLsbD 25 = false → u.bit F.ARR_CAL_CTL_ERR = true ∧ u.bit F.ARR_CAL_CTL_BUSY = false ∧
        u.dev.arr = s.dev.arr ∧ u.unitState 112 = s.unitState 112) ∧
      (¬s.calHeld v.toNat = true ∨ v.getLsbD 25 = true → u.bit F.ARR_CAL_CTL_BUSY = true ∧ u.dev.arr.calIn = bitsOf v.toNat 0 16 ∧
        u.dev.arr.calOut = bitsOf v.toNat 16 8 ∧ u.unitState 112 = 1) := by
  refine completes_done (p := writing p F.ARR_CAL_CTL_RUN.off (writeCalCtl v.toNat)) rfl ?_
  have hrun : bitsOf v.toNat 24 1 = 1 := beq_iff_eq.mp ((getLsbD_eq v 24).trans hv)
  rw [writing_run_of_reach hr (by decide), writeCalCtl_run hrun hon hbusy, getLsbD_eq]
  obtain ⟨hw, hb⟩ := calFlags_run v.toNat s
  generalize (calFlags v.toNat).run s = x at *
  by_cases hheld : s.calHeld v.toNat = true ∧ v.getLsbD 25 = false
  · rw [if_pos (by rw [hheld.1, hheld.2]; rfl)]
    have hset := setF_onlyWord F.ARR_CAL_CTL_ERR 1 x
    have herr : ((setF F.ARR_CAL_CTL_ERR 1).run x).bit F.ARR_CAL_CTL_ERR = true := Prog.bit_setB_same rfl (by decide) true x
    have hkeep := Prog.bit_setF_other (f := F.ARR_CAL_CTL_ERR) (g := F.ARR_CAL_CTL_BUSY) (by decide) (.inr (.inl (by decide))) 1 x
    generalize (setF F.ARR_CAL_CTL_ERR 1).run x = y at *
    refine ⟨fun a => by rw [hset.mem, hw.mem], fun a => by rw [hset.host, hw.host], fun _ _ => ⟨herr, hkeep.trans (hb.trans hbusy),
      by rw [hset.dev, hw.dev], State.fld_of_word ((hset.words _ (by decide)).trans (hw.words _ (by decide)))⟩, fun h => ?_⟩
    rcases h with h | h
    · exact absurd hheld.1 h
    · exact absurd (hheld.2.symm.trans h) Bool.false_ne_true
  · rw [if_neg (by simpa using hheld)]
    obtain ⟨hbz, harr, hst, hm, hh⟩ := startCal_run (bitsOf v.toNat 0 16) (bitsOf v.toNat 16 8) x
    exact ⟨fun a => by rw [hm, hw.mem], fun a => by rw [hh, hw.host], fun h1 h2 => absurd ⟨h1, h2⟩ hheld,
      fun _ => ⟨hbz, by rw [harr], by rw [harr], hst⟩⟩

end Sys2Proof.Machine
end

section
/-!
A calibration that ends, comparators, and envelope detectors.
-/
namespace Sys2Proof.Machine

/-! ## A calibration ends -/

/-- The frame of the trims of an input path. -/
abbrev trimBound (i : Nat) : Bound where
  dev d e := e.arr = d.arr ∧ e.chuck = d.chuck ∧ d.log.count ≤ e.log.count
  reg o := o ∈ [0x420114 + 0x20 * i, 0x420100 + 0x20 * i] ++ logRegs
  mem := False
  host := False

theorem trimBound_steps (i : Nat) : (trimBound i).Steps := ⟨fun _ => ⟨rfl, rfl, le_refl _⟩, fun h k => ⟨k.1.trans h.1, k.2.1.trans h.2.1, h.2.2.trans k.2.2⟩⟩
theorem trimBound_logs (i : Nat) : (trimBound i).Logs := ⟨fun _ _ _ _ h => ⟨rfl, rfl, h⟩, fun _ h => List.mem_append_right _ h⟩

/-- The trims of an input path have been written, and the path is disabled where they are out of range. -/
structure Trimmed (s u : State) (t : Trim) : Prop where
  ofs : u.fld (F.ARR_IN_CAL_OFS t.index) = t.ofs % 2 ^ 16
  gtrim : u.fld (F.ARR_IN_CAL_GTRIM t.index) = t.gtrim % 2 ^ 16
  bad : t.inRange = false → u.bit (F.ARR_IN_CTL_EN t.index) = false
  good : t.inRange = true → u.fld (F.ARR_IN_CTL_EN t.index) = s.fld (F.ARR_IN_CTL_EN t.index)
  arr : u.dev.arr = s.dev.arr
  chuck : u.dev.chuck = s.dev.chuck
  count : s.dev.log.count ≤ u.dev.log.count
  mem : u.mem = s.mem
  host : u.host = s.host

theorem applyTrim_obeys {t : Trim} (ht : t.out = false) : (applyTrim t).Only (Act.obeys (trimBound t.index)) := by
  have hlog := (trimBound_logs t.index).logC 0xB048 1 112 [] none
  rw [applyTrim, if_neg (by rw [ht]; exact Bool.false_ne_true)]
  refine ⟨setF_obeys.mpr List.mem_cons_self, setF_obeys.mpr List.mem_cons_self, Prog.only_when.mpr fun _ => ⟨setF_obeys.mpr ?_, hlog, trivial⟩, trivial⟩
  exact List.mem_cons_of_mem _ List.mem_cons_self

theorem applyTrim_run {t : Trim} (hi : t.index < 16) (ht : t.out = false) (s : State) : Trimmed s ((applyTrim t).run s) t := by
  have hob := applyTrim_obeys ht
  obtain ⟨harr, hchuck, hcount⟩ := hob.devs (trimBound_steps _) s
  have hmem := hob.mems id s
  have hhost := hob.hosts id s
  have hlogs : (F.ARR_IN_CTL_EN t.index).off ∉ logRegs ∧ (F.ARR_IN_CAL_OFS t.index).off ∉ logRegs := by
    constructor <;> · simp [logRegs]; omega
  suffices h : ((applyTrim t).run s).fld (F.ARR_IN_CAL_OFS t.index) = t.ofs % 2 ^ 16 ∧
      ((applyTrim t).run s).fld (F.ARR_IN_CAL_GTRIM t.index) = t.gtrim % 2 ^ 16 ∧
      (t.inRange = false → ((applyTrim t).run s).bit (F.ARR_IN_CTL_EN t.index) = false) ∧
      (t.inRange = true → ((applyTrim t).run s).fld (F.ARR_IN_CTL_EN t.index) = s.fld (F.ARR_IN_CTL_EN t.index)) by
    obtain ⟨h1, h2, h3, h4⟩ := h
    exact ⟨h1, h2, h3, h4, harr, hchuck, hcount, hmem, hhost⟩
  clear hob harr hchuck hcount hmem hhost
  rw [applyTrim, if_neg (by rw [ht]; exact Bool.false_ne_true)]
  iterate 3 rw [Prog.run_all_cons]
  rw [Prog.run_all_nil]
  have hne : (F.ARR_IN_CTL_EN t.index).off ≠ (F.ARR_IN_CAL_OFS t.index).off := by
    show 0x420100 + 0x20 * t.index ≠ 0x420114 + 0x20 * t.index
    omega
  have hofs : ((setF (F.ARR_IN_CAL_GTRIM t.index) t.gtrim).run ((setF (F.ARR_IN_CAL_OFS t.index) t.ofs).run s)).fld (F.ARR_IN_CAL_OFS t.index) =
      t.ofs % 2 ^ 16 := by
    rw [Prog.fld_setF_other (F.ARR_IN_CAL_GTRIM t.index) (F.ARR_IN_CAL_OFS t.index) _ _ (by show 0 + 16 ≤ 32; decide)
      (.inr (.inl (by show 0 + 16 ≤ 16; decide)))]
    exact Prog.fld_setF_same (F.ARR_IN_CAL_OFS t.index) _ s (by show 0 + 16 ≤ 32; decide)
  have hgtrim : ((setF (F.ARR_IN_CAL_GTRIM t.index) t.gtrim).run ((setF (F.ARR_IN_CAL_OFS t.index) t.ofs).run s)).fld (F.ARR_IN_CAL_GTRIM t.index) =
      t.gtrim % 2 ^ 16 := Prog.fld_setF_same (F.ARR_IN_CAL_GTRIM t.index) _ _ (by show 16 + 16 ≤ 32; decide)
  have hen : ((setF (F.ARR_IN_CAL_GTRIM t.index) t.gtrim).run ((setF (F.ARR_IN_CAL_OFS t.index) t.ofs).run s)).fld (F.ARR_IN_CTL_EN t.index) =
      s.fld (F.ARR_IN_CTL_EN t.index) := by
    rw [fld_setF_of_ne (f := F.ARR_IN_CAL_GTRIM t.index) (g := F.ARR_IN_CTL_EN t.index) hne,
      fld_setF_of_ne (f := F.ARR_IN_CAL_OFS t.index) (g := F.ARR_IN_CTL_EN t.index) hne]
  generalize (setF (F.ARR_IN_CAL_GTRIM t.index) t.gtrim).run _ = x at *
  cases t.inRange with
  | true => exact ⟨hofs, hgtrim, fun h => absurd h.symm Bool.false_ne_true, fun _ => hen⟩
  | false =>
    rw [Prog.run_when, if_pos (by rfl)]
    iterate 2 rw [Prog.run_all_cons]
    rw [Prog.run_all_nil]
    have hoff : ((setF (F.ARR_IN_CTL_EN t.index) 0).run x).bit (F.ARR_IN_CTL_EN t.index) = false :=
      Prog.bit_setB_same (f := F.ARR_IN_CTL_EN t.index) rfl (by show 0 + 1 ≤ 32; decide) false x
    have h1 := fld_setF_of_ne (f := F.ARR_IN_CTL_EN t.index) (v := 0) (g := F.ARR_IN_CAL_OFS t.index) hne.symm x
    have h2 := fld_setF_of_ne (f := F.ARR_IN_CTL_EN t.index) (v := 0) (g := F.ARR_IN_CAL_GTRIM t.index) hne.symm x
    generalize (setF (F.ARR_IN_CTL_EN t.index) 0).run x = y at *
    exact ⟨(logC_fld _ _ _ _ _ y hlogs.2).trans (h1.trans hofs), (logC_fld (f := F.ARR_IN_CAL_GTRIM t.index) _ _ _ _ _ y hlogs.2).trans (h2.trans hgtrim),
      fun _ => (logC_bit _ _ _ _ _ y hlogs.1).trans hoff, fun h => absurd h Bool.false_ne_true⟩

/-- What follows the trims at the end of a calibration. -/
def calEnd (ins : Nat) : Prog :=
  all [each (membersOf ins 16) unframePath, modArr fun a => { a with calIn := 0, calOut := 0 }, setF F.ARR_CAL_CTL_BUSY 0, logC 0xB047 0 112 [],
    declareUnit 112 2]

/-- A calibration is over. -/
structure CalEnded (s u : State) (ins : Nat) : Prop where
  busy : u.bit F.ARR_CAL_CTL_BUSY = false
  state : u.unitState 112 = 2
  calIn : u.dev.arr.calIn = 0
  calOut : u.dev.arr.calOut = 0
  framed : ∀ i ∈ membersOf ins 16, (u.inp (128 + i)).framed = false
  words : ∀ o, o ∉ [F.ARR_DROPS.off, F.ARR_CAL_CTL_BUSY.off, 0x40100 + 4 * 112] ++ logRegs → u.word o = s.word o
  count : s.dev.log.count < u.dev.log.count
  mem : u.mem = s.mem
  host : u.host = s.host
  chuck : u.dev.chuck = s.dev.chuck

theorem calEnd_run (ins : Nat) (s : State) : CalEnded s ((calEnd ins).run s) ins := by
  rw [calEnd]
  iterate 5 rw [Prog.run_all_cons]
  rw [Prog.run_all_nil]
  have hun := unframeEach_pathsBound (membersOf ins 16)
  have hframed := unframeEach_framed (membersOf ins 16) s
  have hdev := hun.devs pathsBound_steps s
  have hw1 := fun o : Nat => hun.words (off := o) (s := s)
  have hm1 := hun.mems id s
  have hh1 := hun.hosts id s
  generalize (each (membersOf ins 16) unframePath).run s = x at *
  obtain ⟨-, hchuck, -, hcount⟩ := hdev
  obtain ⟨hd2, hr2, hm2, hh2⟩ := modArr_run (fun a => { a with calIn := 0, calOut := 0 }) x
  generalize (modArr fun a => { a with calIn := 0, calOut := 0 }).run x = y at *
  have h3 := setF_onlyWord F.ARR_CAL_CTL_BUSY 0 y
  have hb3 : ((setF F.ARR_CAL_CTL_BUSY 0).run y).bit F.ARR_CAL_CTL_BUSY = false := Prog.bit_setB_same rfl (by decide) false y
  generalize (setF F.ARR_CAL_CTL_BUSY 0).run y = z at *
  have h4 := logC_run_onlyLogs 0xB047 0 112 [] none z
  have hc4 := logC_count_lt 0xB047 0 112 [] none z
  generalize (logC 0xB047 0 112 []).run z = w at *
  have h5 := declareUnit_line 112 2 w
  have hs5 := declareUnit_state (by decide : 2 < 16) 112 w
  generalize (declareUnit 112 2).run w = u at *
  have hin : ∀ k, u.inp k = x.inp k := fun k => by rw [State.inp, h5.dev, h4.dev, h3.dev, hd2]; rfl
  refine ⟨?_, hs5, ?_, ?_, fun i hi => ?_, fun o ho => ?_, ?_, ?_, ?_, ?_⟩
  · exact (congrArg (· == 1) (h5.fld (f := F.ARR_CAL_CTL_BUSY) (by decide))).trans
      ((congrArg (· == 1) (h4.fld (f := F.ARR_CAL_CTL_BUSY) (by decide))).trans hb3)
  · rw [h5.dev, h4.dev, h3.dev, hd2]
  · rw [h5.dev, h4.dev, h3.dev, hd2]
  · rw [hin]
    exact hframed i hi
  · simp only [List.mem_append, List.mem_cons, List.not_mem_nil, or_false, not_or] at ho
    obtain ⟨⟨hdrop, hbusy, hline⟩, hlog⟩ := ho
    rw [h5.words o hline, h4.regs o hlog, h3.words o hbusy, State.word_of_regs hr2]
    exact hw1 o (by simpa [List.mem_cons, not_or] using ⟨hdrop, hlog⟩)
  · have hd : z.dev.log.count = x.dev.log.count := by rw [h3.dev, hd2]
    rw [h5.dev]
    omega
  · rw [h5.mem, h4.mem, h3.mem, hm2, hm1]
  · rw [h5.host, h4.host, h3.host, hh2, hh1]
  · rw [h5.dev, h4.dev, h3.dev, hd2]
    exact hchuck

theorem arrCalDone_completes {s : State} {i : Nat} {t : Trim} (hon : s.arrOn = true) (hbusy : s.bit F.ARR_CAL_CTL_BUSY = true)
    (hload : s.dev.chuck.load = none) (hi : i < 16) (hout : t.out = false) (hidx : t.index = i) (hcal : inMask s.dev.arr.calIn i = true) :
    Completes (.arrCalDone [t]) s fun u => u.bit F.ARR_CAL_CTL_BUSY = false ∧ u.unitState 112 = 2 ∧ u.dev.arr.calIn = 0 ∧
      u.dev.arr.calOut = 0 ∧ u.fld (F.ARR_IN_CAL_OFS i) = t.ofs % 2 ^ 16 ∧ u.fld (F.ARR_IN_CAL_GTRIM i) = t.gtrim % 2 ^ 16 ∧
      (t.inRange = false → u.bit (F.ARR_IN_CTL_EN i) = false) ∧
      (t.inRange = true → u.fld (F.ARR_IN_CTL_EN i) = s.fld (F.ARR_IN_CTL_EN i)) ∧ (u.inp (128 + i)).framed = false ∧
      u.dev.log.count ≠ s.dev.log.count ∧ SameBytes s u ∧ SameHost s u := by
  subst hidx
  have hcals : (calDone [t]).run s = (calEnd s.dev.arr.calIn).run ((applyTrim t).run s) := by
    have hf : [t].filter (fun t => inMask (if t.out then s.dev.arr.calOut else s.dev.arr.calIn) t.index) = [t] := by
      simp [hout, hcal]
    rw [calDone, Prog.run_look, hf, Prog.run_all_cons, Prog.run_each_cons, Prog.run_each_nil, calEnd]
  have ht := applyTrim_run hi hout s
  have he := calEnd_run s.dev.arr.calIn ((applyTrim t).run s)
  rw [← hcals] at he
  show ∃ u, done (when (s.bit F.ARR_CAL_CTL_BUSY && s.arrOn) _) s = .next u ∧ _
  rw [done_eq, hbusy, hon, Prog.run_when, if_pos (by rfl), Prog.run_all_cons, Prog.run_all_cons, Prog.run_all_nil]
  generalize (calDone [t]).run s = u at *
  have hl : u.dev.chuck.load = none := by rw [he.chuck, ht.chuck, hload]
  rw [Prog.run_look, hl]
  refine ⟨u, congrArg _ (Prog.run_nop u), ?_⟩
  generalize (applyTrim t).run s = x at *
  have hcal' : (F.ARR_IN_CAL_OFS t.index).off ∉ [F.ARR_DROPS.off, F.ARR_CAL_CTL_BUSY.off, 0x40100 + 4 * 112] ++ logRegs := by
    simp [logRegs]
    omega
  have hctl : (F.ARR_IN_CTL_EN t.index).off ∉ [F.ARR_DROPS.off, F.ARR_CAL_CTL_BUSY.off, 0x40100 + 4 * 112] ++ logRegs := by
    simp [logRegs]
    omega
  have hen : u.fld (F.ARR_IN_CTL_EN t.index) = x.fld (F.ARR_IN_CTL_EN t.index) := State.fld_of_word (he.words _ hctl)
  refine ⟨he.busy, he.state, he.calIn, he.calOut, ?_, ?_, fun h => ?_, fun h => hen.trans (ht.good h), ?_, ?_, fun a => ?_, fun a => ?_⟩
  · exact (State.fld_of_word (f := F.ARR_IN_CAL_OFS t.index) (he.words _ hcal')).trans ht.ofs
  · exact (State.fld_of_word (f := F.ARR_IN_CAL_GTRIM t.index) (he.words _ hcal')).trans ht.gtrim
  · exact (congrArg (· == 1) hen).trans (ht.bad h)
  · exact he.framed t.index (mem_membersOf.mpr ⟨hi, hcal⟩)
  · have := ht.count
    have := he.count
    omega
  · rw [he.mem, ht.mem]
  · rw [he.host, ht.host]

/-! ## The fabric settles -/

/-- The frame of the fabric as it settles. -/
abbrev settleBound : Bound where
  dev d e := e = { d with fab := e.fab }
  reg o := o = F.ARR_FAB_SWOUT.off
  mem := False
  host := False

theorem settleBound_steps : settleBound.Steps := ⟨fun _ => rfl, fun {c d e} h k => by rw [k, h]⟩

theorem fabSettle_obeys : fabSettle.Only (Act.obeys settleBound) :=
  fun _ => Prog.only_when.mpr fun _ => ⟨fun _ => rfl, setF_obeys.mpr rfl, trivial⟩

/-- Nothing but the fabric and its register of levels differs. -/
structure OnlyFabric (s u : State) : Prop where
  dev : u.dev = { s.dev with fab := u.dev.fab }
  words : ∀ o, o ≠ F.ARR_FAB_SWOUT.off → u.word o = s.word o
  mem : u.mem = s.mem
  host : u.host = s.host

theorem fabSettle_run (s : State) : OnlyFabric s (fabSettle.run s) :=
  ⟨fabSettle_obeys.devs settleBound_steps s, fun _ ho => fabSettle_obeys.words ho s, fabSettle_obeys.mems id s, fabSettle_obeys.hosts id s⟩

theorem OnlyFabric.fld {s u : State} (h : OnlyFabric s u) {f : Fld} (hf : f.off ≠ F.ARR_FAB_SWOUT.off) : u.fld f = s.fld f :=
  State.fld_of_word (h.words _ hf)

theorem OnlyFabric.bit {s u : State} (h : OnlyFabric s u) {f : Fld} (hf : f.off ≠ F.ARR_FAB_SWOUT.off) : u.bit f = s.bit f :=
  congrArg (· == 1) (h.fld hf)

end Sys2Proof.Machine
end

section
/-!
Comparators and envelope detectors; the statement about the array (O46).
-/
namespace Sys2Proof.Machine

/-! ## Comparators -/

/-- An edge that EDGE selects is stamped and counted. -/
def stampEdge (j n : Nat) : Prog := all [setF (F.ARR_CMP_STAMP_LO j) n, setF (F.ARR_CMP_STAMP_HI j) (n / 2 ^ 32), incF (F.ARR_CMP_EDGES j)]

theorem stampEdge_run {n : Nat} (hn : n < 2 ^ 64) (j : Nat) (s : State) :
    ((stampEdge j n).run s).fld (F.ARR_CMP_STAMP_LO j) = n % 2 ^ 32 ∧ ((stampEdge j n).run s).fld (F.ARR_CMP_STAMP_HI j) = n / 2 ^ 32 ∧
    ((stampEdge j n).run s).fld (F.ARR_CMP_EDGES j) = min (s.fld (F.ARR_CMP_EDGES j) + 1) (2 ^ 32 - 1) ∧
    ((stampEdge j n).run s).dev = s.dev ∧ ((stampEdge j n).run s).mem = s.mem ∧ ((stampEdge j n).run s).host = s.host := by
  have h1 : 0x420404 + 0x10 * j ≠ 0x420408 + 0x10 * j := by omega
  have h2 : 0x420404 + 0x10 * j ≠ 0x42040c + 0x10 * j := by omega
  have h3 : 0x420408 + 0x10 * j ≠ 0x42040c + 0x10 * j := by omega
  rw [stampEdge]
  iterate 3 rw [Prog.run_all_cons]
  rw [Prog.run_all_nil]
  have hd1 := setF_onlyWord (F.ARR_CMP_STAMP_LO j) n s
  have hlo := Prog.fld_setF_same (F.ARR_CMP_STAMP_LO j) n s (by show 0 + 32 ≤ 32; decide)
  generalize (setF (F.ARR_CMP_STAMP_LO j) n).run s = x at *
  have hd2 := setF_onlyWord (F.ARR_CMP_STAMP_HI j) (n / 2 ^ 32) x
  have hhi := Prog.fld_setF_same (F.ARR_CMP_STAMP_HI j) (n / 2 ^ 32) x (by show 0 + 32 ≤ 32; decide)
  generalize (setF (F.ARR_CMP_STAMP_HI j) (n / 2 ^ 32)).run x = y at *
  have hd3 : OnlyWord y ((incF (F.ARR_CMP_EDGES j)).run y) (F.ARR_CMP_EDGES j).off := setF_onlyWord (F.ARR_CMP_EDGES j) _ y
  have hed := Prog.fld_incF (F.ARR_CMP_EDGES j) y (by show 0 + 32 ≤ 32; decide)
  generalize (incF (F.ARR_CMP_EDGES j)).run y = z at *
  have he : y.fld (F.ARR_CMP_EDGES j) = s.fld (F.ARR_CMP_EDGES j) :=
    State.fld_of_word ((hd2.words (0x42040c + 0x10 * j) h3.symm).trans (hd1.words (0x42040c + 0x10 * j) h2.symm))
  refine ⟨?_, ?_, ?_, by rw [hd3.dev, hd2.dev, hd1.dev], by rw [hd3.mem, hd2.mem, hd1.mem], by rw [hd3.host, hd2.host, hd1.host]⟩
  · exact (State.fld_of_word ((hd3.words (0x420404 + 0x10 * j) h2).trans (hd2.words (0x420404 + 0x10 * j) h1))).trans hlo
  · have hmod : n / 2 ^ 32 % 2 ^ 32 = n / 2 ^ 32 := Nat.mod_eq_of_lt (by omega)
    exact (State.fld_of_word (hd3.words (0x420408 + 0x10 * j) h3)).trans (hhi.trans hmod)
  · exact hed.trans (by rw [he])

/-- A comparator's line follows an edge. -/
theorem inMask_setBits_same (m j : Nat) (r : Bool) : inMask (setBits m j 1 (if r then 1 else 0)) j = r := by
  rw [inMask, bitsOf_setBits_same]
  cases r <;> rfl

theorem cmpEdge_completes {s : State} {j : Nat} (r : Bool) (hj : j < 8) (hon : s.arrOn = true) (hen : s.bit (F.ARR_CMP_CTL_EN j) = true) :
    Completes (.cmpEdge j r) s fun u => inMask u.dev.arr.cmp j = r ∧ SameBytes s u ∧ SameHost s u ∧ u.dev.log = s.dev.log ∧
      (s.fld (F.ARR_CMP_CTL_EDGE j) = 3 ∨ s.fld (F.ARR_CMP_CTL_EDGE j) = (if r then 1 else 2) →
        u.fld (F.ARR_CMP_STAMP_LO j) = s.now % 2 ^ 32 ∧ u.fld (F.ARR_CMP_STAMP_HI j) = s.now / 2 ^ 32 ∧
        u.fld (F.ARR_CMP_EDGES j) = min (s.fld (F.ARR_CMP_EDGES j) + 1) (2 ^ 32 - 1)) ∧
      (s.fld (F.ARR_CMP_CTL_EDGE j) ≠ 3 → s.fld (F.ARR_CMP_CTL_EDGE j) ≠ (if r then 1 else 2) → SameRegsBut s u [F.ARR_FAB_SWOUT.off]) := by
  refine completes_done (p := when (decide (j < 8) && s.arrOn && s.bit (F.ARR_CMP_CTL_EN j)) (all [
    modArr fun a => { a with cmp := setBits a.cmp j 1 (if r then 1 else 0) },
    when (s.fld (F.ARR_CMP_CTL_EDGE j) == 3 || s.fld (F.ARR_CMP_CTL_EDGE j) == (if r then 1 else 2)) (stampEdge j s.now), fabSettle])) rfl ?_
  rw [hon, hen, Prog.run_when, if_pos (by simp [hj])]
  iterate 3 rw [Prog.run_all_cons]
  rw [Prog.run_all_nil]
  obtain ⟨hd1, hr1, hm1, hh1⟩ := modArr_run (fun a => { a with cmp := setBits a.cmp j 1 (if r then 1 else 0) }) s
  generalize (modArr fun a => { a with cmp := setBits a.cmp j 1 (if r then 1 else 0) }).run s = x at *
  have hcmp : inMask x.dev.arr.cmp j = r := by rw [hd1]; exact inMask_setBits_same _ _ _
  have hlog : x.dev.log = s.dev.log := by rw [hd1]
  rw [Prog.run_when]
  by_cases he : (s.fld (F.ARR_CMP_CTL_EDGE j) == 3 || s.fld (F.ARR_CMP_CTL_EDGE j) == (if r then 1 else 2)) = true
  · rw [if_pos he]
    obtain ⟨hlo, hhi, hed, hd2, hm2, hh2⟩ := stampEdge_run (n := s.now) s.dev.hs.now.isLt j x
    generalize (stampEdge j s.now).run x = y at *
    have hf := fabSettle_run y
    generalize fabSettle.run y = z at *
    have hold : x.fld (F.ARR_CMP_EDGES j) = s.fld (F.ARR_CMP_EDGES j) := State.fld_of_word (State.word_of_regs hr1 _)
    rw [hold] at hed
    refine ⟨by rw [hf.dev, hd2]; exact hcmp, fun a => by rw [hf.mem, hm2, hm1], fun a => by rw [hf.host, hh2, hh1], by rw [hf.dev, hd2]; exact hlog,
      fun _ => ⟨?_, ?_, ?_⟩, fun h1 h2 => ?_⟩
    · exact (hf.fld (f := F.ARR_CMP_STAMP_LO j) (by show 0x420404 + 0x10 * j ≠ 0x420810; omega)).trans hlo
    · exact (hf.fld (f := F.ARR_CMP_STAMP_HI j) (by show 0x420408 + 0x10 * j ≠ 0x420810; omega)).trans hhi
    · exact (hf.fld (f := F.ARR_CMP_EDGES j) (by show 0x42040c + 0x10 * j ≠ 0x420810; omega)).trans hed
    · rcases Bool.or_eq_true _ _ |>.mp he with h | h
      · exact absurd (beq_iff_eq.mp h) h1
      · exact absurd (beq_iff_eq.mp h) h2
  · rw [if_neg he]
    have hf := fabSettle_run x
    generalize fabSettle.run x = z at *
    refine ⟨by rw [hf.dev]; exact hcmp, fun a => by rw [hf.mem, hm1], fun a => by rw [hf.host, hh1], by rw [hf.dev]; exact hlog, fun h => ?_,
      fun _ _ o ho => ?_⟩
    · rcases h with h | h
      · exact absurd (by rw [h]; rfl) he
      · exact absurd (by rw [beq_iff_eq.mpr h, Bool.or_true]) he
    · exact (hf.words o (by simpa using ho)).trans (State.word_of_regs hr1 o)

/-! ## Envelope detectors -/

theorem envStat_not_swout {m : Nat} (hm : m < 4) : (F.ARR_ENV_STAT_ABOVE m).off ≠ F.ARR_FAB_SWOUT.off := by
  show 0x420504 + 8 * m ≠ 0x420810
  omega

/-- A detector's level has been set, and the fabric has settled. -/
structure LevelSet (s u : State) (m : Nat) (b : Bool) : Prop where
  above : u.bit (F.ARR_ENV_STAT_ABOVE m) = b
  woke : u.fld (F.ARR_ENV_STAT_WOKE m) = s.fld (F.ARR_ENV_STAT_WOKE m)
  dev : u.dev = { s.dev with fab := u.dev.fab }
  words : ∀ o, o ∉ [(F.ARR_ENV_STAT_ABOVE m).off, F.ARR_FAB_SWOUT.off] → u.word o = s.word o
  mem : u.mem = s.mem
  host : u.host = s.host

theorem levelSet_run {m : Nat} (hm : m < 4) (b : Bool) (s : State) :
    LevelSet s (fabSettle.run ((setB (F.ARR_ENV_STAT_ABOVE m) b).run s)) m b := by
  have h1 := setB_onlyWord (F.ARR_ENV_STAT_ABOVE m) b s
  have hb : ((setB (F.ARR_ENV_STAT_ABOVE m) b).run s).bit (F.ARR_ENV_STAT_ABOVE m) = b :=
    Prog.bit_setB_same (f := F.ARR_ENV_STAT_ABOVE m) rfl (by show 0 + 1 ≤ 32; decide) b s
  have hw : ((setB (F.ARR_ENV_STAT_ABOVE m) b).run s).fld (F.ARR_ENV_STAT_WOKE m) = s.fld (F.ARR_ENV_STAT_WOKE m) :=
    Prog.fld_setF_other (F.ARR_ENV_STAT_ABOVE m) (F.ARR_ENV_STAT_WOKE m) _ s (by show 1 + 1 ≤ 32; decide) (.inr (.inr (by show 0 + 1 ≤ 1; decide)))
  generalize (setB (F.ARR_ENV_STAT_ABOVE m) b).run s = x at *
  have hf := fabSettle_run x
  generalize fabSettle.run x = y at *
  have hne := envStat_not_swout hm
  refine ⟨(hf.bit (f := F.ARR_ENV_STAT_ABOVE m) hne).trans hb, (hf.fld (f := F.ARR_ENV_STAT_WOKE m) hne).trans hw, ?_, fun o ho => ?_,
    hf.mem.trans h1.mem, hf.host.trans h1.host⟩
  · have hd := hf.dev
    rwa [h1.dev] at hd
  · simp only [List.mem_cons, List.not_mem_nil, or_false, not_or] at ho
    exact (hf.words o ho.2).trans (h1.words o ho.1)

theorem envOn_facts {s : State} {m : Nat} (h : s.envOn m = true) : m < 4 ∧ s.dev.pwr.por = false ∧ s.heldReset = false := by
  simp only [State.envOn, Bool.and_eq_true, decide_eq_true_eq, Bool.not_eq_true'] at h
  exact ⟨h.1.1.1, h.1.1.2, h.1.2⟩

theorem envBelow_completes {s : State} {m : Nat} (h : s.envOn m = true) : Completes (.envBelow m) s fun u => LevelSet s u m false := by
  refine completes_done (p := when (s.envOn m) (all [setB (F.ARR_ENV_STAT_ABOVE m) false, fabSettle])) rfl ?_
  rw [h, Prog.run_when, if_pos (by rfl)]
  iterate 2 rw [Prog.run_all_cons]
  rw [Prog.run_all_nil]
  exact levelSet_run (envOn_facts h).1 false s

/-- What a detector with WAKE does as the device rests. -/
def envWake (m : Nat) : Prog := all [setB (F.ARR_ENV_STAT_WOKE m) true, logC 0xB046 0 112 [], orderCycle [wakeOrder .envelope]]

theorem envAbove_run {s : State} {m : Nat} (h : s.envOn m = true) : exec (.envAbove m) s =
    .next ((when ((s.inRest || s.devState == 2) && s.bit (F.ARR_ENV_CTL_WAKE m)) (envWake m)).run
      (fabSettle.run ((setB (F.ARR_ENV_STAT_ABOVE m) true).run s))) := by
  show done (when (s.envOn m) (envAbove m)) s = _
  rw [done_eq, h, Prog.run_when, if_pos (by rfl), envAbove, Prog.run_look]
  iterate 3 rw [Prog.run_all_cons]
  rw [Prog.run_all_nil]
  rfl

theorem envAbove_ready {s : State} {m : Nat} (h : s.envOn m = true) (hr : s.ready = true) :
    Completes (.envAbove m) s fun u => LevelSet s u m true := by
  have hno : ((s.inRest || s.devState == 2) && s.bit (F.ARR_ENV_CTL_WAKE m)) = false := by
    rw [ready_inRest hr, (ready_facts hr).2.2]
    rfl
  refine ⟨_, envAbove_run h, ?_⟩
  rw [hno, Prog.run_when, if_neg Bool.false_ne_true]
  exact levelSet_run (envOn_facts h).1 true s

theorem envAbove_inRest {s : State} {m : Nat} (h : s.envOn m = true) (hr : s.inRest = true) (hw : s.bit (F.ARR_ENV_CTL_WAKE m) = true) :
    Completes (.envAbove m) s fun u => u.bit (F.ARR_ENV_STAT_ABOVE m) = true ∧ u.bit (F.ARR_ENV_STAT_WOKE m) = true ∧ u.devState = 4 ∧
      u.fld F.PCK_STATUS_WAKESRC = 3 ∧ u.dev.log.count ≠ s.dev.log.count ∧ SameBytes s u ∧ SameHost s u := by
  obtain ⟨hm, hpor, hheld⟩ := envOn_facts h
  refine ⟨_, envAbove_run h, ?_⟩
  rw [hr, hw, Prog.run_when, if_pos (by rfl), envWake]
  iterate 3 rw [Prog.run_all_cons]
  rw [Prog.run_all_nil]
  have h1 := levelSet_run hm true s
  generalize fabSettle.run ((setB (F.ARR_ENV_STAT_ABOVE m) true).run s) = x at *
  have h2 := setB_onlyWord (F.ARR_ENV_STAT_WOKE m) true x
  have hb2 : ((setB (F.ARR_ENV_STAT_WOKE m) true).run x).bit (F.ARR_ENV_STAT_WOKE m) = true :=
    Prog.bit_setB_same (f := F.ARR_ENV_STAT_WOKE m) rfl (by show 1 + 1 ≤ 32; decide) true x
  have ha2 : ((setB (F.ARR_ENV_STAT_WOKE m) true).run x).bit (F.ARR_ENV_STAT_ABOVE m) = x.bit (F.ARR_ENV_STAT_ABOVE m) :=
    Prog.bit_setB_other (f := F.ARR_ENV_STAT_WOKE m) (g := F.ARR_ENV_STAT_ABOVE m) (by show 0 + 1 ≤ 32; decide)
      (.inr (.inl (by show 0 + 1 ≤ 1; decide))) true x
  generalize (setB (F.ARR_ENV_STAT_WOKE m) true).run x = y at *
  have h3 := logC_run_onlyLogs 0xB046 0 112 [] none y
  have hc3 := logC_count_lt 0xB046 0 112 [] none y
  generalize (logC 0xB046 0 112 []).run y = z at *
  have hpwr : z.dev.pwr = s.dev.pwr := by rw [h3.dev, h2.dev, h1.dev]
  have hcount : y.dev.log.count = s.dev.log.count := by rw [h2.dev, h1.dev]
  have hstate : z.devState = s.devState :=
    (h3.fld (f := F.PCK_STATUS_DEV) (by decide)).trans (State.fld_of_word ((h2.words _ (by show 0x60000 ≠ 0x420504 + 8 * m; omega)).trans
      (h1.words _ (by simp; omega))))
  have hlog : 0x420504 + 8 * m ∉ logRegs := by
    simp [logRegs]
    omega
  have hwake := wake_inRest (s := z) (by rw [hpwr]; exact hpor)
    (by rw [State.heldReset, hpwr]; exact hheld) (by rw [State.inRest, hstate]; exact hr) .envelope
  generalize (orderCycle [wakeOrder .envelope]).run z = u at *
  have hkeep : ∀ f : Fld, f.off = 0x420504 + 8 * m → u.bit f = y.bit f := fun f hf => by
    have hu : u.fld f = z.fld f := State.fld_of_word (hwake.regs.regs _ (by rw [hf]; simp; omega))
    exact congrArg (· == 1) (hu.trans (h3.fld (by rw [hf]; exact hlog)))
  refine ⟨(hkeep _ rfl).trans (ha2.trans h1.above), (hkeep _ rfl).trans hb2, hwake.state, hwake.source, ?_, fun a => ?_, fun a => ?_⟩
  · rw [hwake.dev]
    show z.dev.log.count ≠ _
    omega
  · rw [hwake.regs.bytes, h3.mem, h2.mem, h1.mem]
  · rw [hwake.regs.host, h3.host, h2.host, h1.host]

/-- Settles O46, clause by clause: samples, gain codes, enables, clocking, calibration, comparators and detectors. -/
theorem arrayDie : Obligations.ArrayDie := by
  unfold Obligations.ArrayDie
  refine ⟨fun s i x hi hon hen hvalid hcal hslip hmax hmin hframed hfrom hgain hfill => ?_, fun s p i v hi hr hv => ?_,
    fun s i g hi hon hcal hg => ?_, fun s p i v hi hr hv => arrPathEnable_completes hi hr hv, fun s p v hr => arrClkCtlWrite_completes hr,
    fun s hon hf => amclkLost_completes hon hf, fun s n hon hf => followRatioMeasure_completes n hon hf, fun s p v hr hv hon hbusy => ?_,
    fun s i t hon hbusy hload hi hout hidx hcal => arrCalDone_completes hon hbusy hload hi hout hidx hcal,
    fun s j r hj hon hen => cmpEdge_completes r hj hon hen, fun s m h hr => ?_, fun s m h hr hw => envAbove_inRest h hr hw, fun s m h => ?_⟩
  · obtain ⟨u, hu, hg, hother, hins, hfree⟩ := samplingInstant_completes (s := s) (i := i) (x := x) hi hon hen hvalid hcal hslip hmax hmin hframed
      hfrom hgain hfill
    rw [s.sampleBytes_eq i (x.value % 2 ^ 24)]
    exact ⟨u, hu, hg.more, hg.whole, hother, hins.regs, hfree, fun a => congrArg (·.read a) hins.mem, fun a => congrArg (·.read a) hins.host⟩
  · obtain ⟨u, hu, hgain, hin, hregs, hb, hh⟩ := gainWrite_completes (s := s) hi hr hv
    refine ⟨u, hu, hgain, ?_, ?_, ?_, hregs, hb, hh⟩ <;> rw [hin, InPath.codeHeld]
    · exact apply_ite InPath.gain _ _ _
    · exact (apply_ite InPath.framed _ _ _).trans (ite_self _)
    · exact (apply_ite InPath.cur _ _ _).trans (ite_self _)
  · obtain ⟨u, hu, hgain, hin, hregs, hb, hh⟩ := gainApply_completes (s := s) hi hon hcal hg
    exact ⟨u, hu, hgain, by rw [hin], by rw [hin], hregs, hb, hh⟩
  · obtain ⟨u, hu, hb, hh, hno, hyes⟩ := arrCalRun_completes (s := s) hr hv hon hbusy
    have hheld := s.calHeld_iff v
    exact ⟨u, hu, hb, hh, fun h => hno (hheld.mpr h), fun h => hyes (h.imp_left fun h k => h (hheld.mp k))⟩
  · obtain ⟨u, hu, h⟩ := envAbove_ready (s := s) h hr
    exact ⟨u, hu, h.above, by rw [h.dev], fun a => congrArg (·.read a) h.mem, fun a => congrArg (·.read a) h.host, h.words⟩
  · obtain ⟨u, hu, h⟩ := envBelow_completes (s := s) h
    exact ⟨u, hu, h.above, h.woke, by rw [h.dev], fun a => congrArg (·.read a) h.mem, fun a => congrArg (·.read a) h.host, h.words⟩

end Sys2Proof.Machine
end

section
/-!
SAMPLE entries (O31): the inputs that they frame and the outputs that they play (R407, R408, R416, R473, R474, R477).
-/
namespace Sys2Proof.Machine

/-! ## One element of a program over a list -/

/-- A program over a list without repetition does its part for an element between those of the others. -/
theorem Prog.run_each_split {α : Type} {l : List α} (hl : l.Nodup) {x : α} (hx : x ∈ l) (f : α → Prog) (s : State) :
    ∃ a b : List α, (∀ y ∈ a, y ∈ l ∧ y ≠ x) ∧ (∀ y ∈ b, y ∈ l ∧ y ≠ x) ∧
      (each l f).run s = (each b f).run ((f x).run ((each a f).run s)) := by
  obtain ⟨a, b, rfl⟩ := List.append_of_mem hx
  obtain ⟨-, hb, hab⟩ := List.nodup_append.mp hl
  refine ⟨a, b, fun y hy => ⟨List.mem_append_left _ hy, hab y hy x List.mem_cons_self⟩, fun y hy =>
    ⟨List.mem_append_right _ (List.mem_cons_of_mem _ hy), fun e => (List.nodup_cons.mp hb).1 (e ▸ hy)⟩, ?_⟩
  rw [Prog.run_each_append, Prog.run_each_cons]

/-! ## SAMPLE entries -/

theorem onSample_run {s : State} {p i kind : Nat} {e : TtEntry} {unitOk : Nat → Bool} (he : s.entryNow p i false = some e) (hk : e.kind = 5)
    (hr : s.ready = true) (hu : unitOk (bitsOf e.w3 0 8) = true) (hkind : bitsOf ((s.plane p).sample e.ref).1 0 1 = kind)
    (ht : sampleTurn ((s.plane p).sample e.ref).1 (s.turnNo p) = true) (f : Nat → Nat × Nat → Prog) :
    (onSample p i false unitOk kind f).run s = (f (bitsOf e.w3 0 8) ((s.plane p).sample e.ref)).run (s.passed p i) := by
  have hturn : s.turnOf p false = s.turnNo p := rfl
  have hplane : s.planeFor p false = s.plane p := rfl
  rw [onSample, Prog.run_look, onEntryIf, Prog.run_look, he]
  show (when ((e.kind == 5 && unitOk (bitsOf e.w3 0 8) && bitsOf ((s.planeFor p false).sample e.ref).1 0 1 == kind) && s.ready)
    (all [Machine.passed p i false, when (sampleTurn ((s.planeFor p false).sample e.ref).1 (s.turnOf p false))
      (f (bitsOf e.w3 0 8) ((s.planeFor p false).sample e.ref))])).run s = _
  rw [hplane, hturn, hk, hu, hr, hkind, ht, Prog.run_when, if_pos (by simp), Prog.run_all_cons, Prog.run_all_cons, Prog.run_all_nil,
    Prog.run_when, if_pos rfl]
  rfl

/-! ## Framing -/

theorem frameEntry_onInputs (k slot at' : Nat) : (frameEntry k slot at').Only Act.onInputs := by
  simp only [frameEntry, Prog.only_look, Prog.only_when]
  exact fun _ _ _ => rfl

theorem frameEntry_other {k j : Nat} (h : j ≠ k) (slot at' : Nat) (s : State) : ((frameEntry k slot at').run s).inp j = s.inp j := by
  have hk : (frameEntry k slot at').Only (Act.keeps fun d => Sparse.get InPath.blank d.ins j) := by
    simp only [frameEntry, Prog.only_look, Prog.only_when]
    exact fun _ _ _ => Sparse.get_put_other _ _ _ _ _ h
  exact hk.keeps s

/-- What framing does to an entry at a tick: one that is unframed and was enabled before. -/
structure Framed (y z : InPath) (now at' : Nat) : Prop where
  yes : y.framed = false → laterTick now at' = true → z.framed = true ∧ z.from_ = some now ∧ z.fill = 0 ∧ z.gap = !z.newUtt
  no : ¬(y.framed = false ∧ laterTick now at' = true) → z = y

theorem frameEntry_run (k slot at' : Nat) (s : State) : Framed (s.inp k) (((frameEntry k slot at').run s).inp k) s.now at' := by
  simp only [frameEntry, Prog.run_look, Prog.run_when]
  refine ⟨fun hf hl => ?_, fun h => ?_⟩
  · rw [if_pos (by rw [hf, hl]; rfl), State.inp_modIn_same]
    exact ⟨rfl, rfl, rfl, rfl⟩
  · rw [if_neg (by simpa using h)]

/-- A list of entries is framed, each under a key of its own. -/
theorem frameEach_run {l : List Nat} (hl : l.Nodup) {key : Nat → Nat} (hkey : ∀ i ∈ l, ∀ j ∈ l, key i = key j → i = j) (slot at' : Nat → Nat)
    (s : State) : OnlyInputs s ((each l fun i => frameEntry (key i) (slot i) (at' i)).run s) ∧
      (∀ i ∈ l, Framed (s.inp (key i)) (((each l fun i => frameEntry (key i) (slot i) (at' i)).run s).inp (key i)) s.now (at' i)) ∧
      (∀ k, (∀ i ∈ l, key i ≠ k) → ((each l fun i => frameEntry (key i) (slot i) (at' i)).run s).inp k = s.inp k) := by
  have hins : ∀ l : List Nat, (each l fun i => frameEntry (key i) (slot i) (at' i)).Only Act.onInputs := fun l =>
    Prog.only_each.mpr fun i _ => frameEntry_onInputs _ _ _
  have hkeep : ∀ (l : List Nat) (k : Nat) (x : State), (∀ i ∈ l, key i ≠ k) →
      ((each l fun i => frameEntry (key i) (slot i) (at' i)).run x).inp k = x.inp k := fun l k x h =>
    Prog.run_each_keeps (P := fun y => y.inp k = x.inp k) (fun i hi y hy => (frameEntry_other (h i hi).symm _ _ y).trans hy) x rfl
  refine ⟨(hins l).onlyInputs s, fun i hi => ?_, fun k h => hkeep l k s h⟩
  obtain ⟨a, b, ha, hb, hrun⟩ := Prog.run_each_split hl hi (fun i => frameEntry (key i) (slot i) (at' i)) s
  have hbefore := hkeep a (key i) s fun j hj e => (ha j hj).2 (hkey j (ha j hj).1 i hi e)
  have hnow : ((each a fun i => frameEntry (key i) (slot i) (at' i)).run s).now = s.now := by
    rw [State.now, ((hins a).onlyInputs s).dev]
    rfl
  rw [hrun]
  generalize (each a fun i => frameEntry (key i) (slot i) (at' i)).run s = x at *
  have hf := frameEntry_run (key i) (slot i) (at' i) x
  rw [hbefore, hnow] at hf
  rw [hkeep b (key i) _ fun j hj e => (hb j hj).2 (hkey j (hb j hj).1 i hi e)]
  exact hf

/-! ## Playing -/

theorem State.out_modOut (k j : Nat) (f : OutPath → OutPath) (s : State) :
    ((modOut k f).run s).out j = if j = k then f (s.out k) else s.out j := by
  show Sparse.get OutPath.blank (Sparse.put OutPath.blank s.dev.outs k _) j = _
  rw [Sparse.get_put]
  rfl

theorem State.out_modOut_same (k : Nat) (f : OutPath → OutPath) (s : State) : ((modOut k f).run s).out k = f (s.out k) := by
  rw [State.out_modOut, if_pos rfl]

/-- The frame of playing on outputs other than `k`: that one's, and the tick, stay. -/
abbrev playBound (k : Nat) : Bound where
  dev d e := e.hs = d.hs ∧ Sparse.get OutPath.blank e.outs k = Sparse.get OutPath.blank d.outs k
  reg _ := True
  mem := False
  host := False

theorem playBound_steps (k : Nat) : (playBound k).Steps := ⟨fun _ => ⟨rfl, rfl⟩, fun h g => ⟨g.1.trans h.1, g.2.trans h.2⟩⟩
theorem playBound_logs (k : Nat) : (playBound k).Logs := ⟨fun _ _ _ _ _ => ⟨rfl, rfl⟩, fun _ _ => trivial⟩

theorem outEvent_playBound (k unit path part stream seq code : Nat) (arr : Fld) (port : Nat → Fld) :
    (outEvent unit path part stream seq code arr port).Only (Act.obeys (playBound k)) := by
  have hlog : ∀ l id code sev u ds st, (logLim l id code sev u ds st).Only (Act.obeys (playBound k)) := (playBound_logs k).logLim
  rw [outEvent]
  split
  · exact ⟨incF_obeys.mpr trivial, hlog _ _ _ _ _ _ _, trivial⟩
  · exact ⟨incF_obeys.mpr trivial, hlog _ _ _ _ _ _ _, trivial⟩

/-- What a PLAY does to an output that expects the result `n`. -/
structure Played (o z : OutPath) (n now rate lat : Nat) (formats : List Nat) : Prop where
  next : z.next = some ((n + 1) % 2 ^ 32)
  queue : z.queue = o.queue.filter fun q => q.seq != n
  start : z.start = now + lat
  silent : (∀ q ∈ o.queue, q.seq ≠ n) → z.playing = []
  plays : ∀ q, o.queue.find? (fun q => q.seq == n) = some q → q.status = 0 → q.rrate = rate → q.rformat ∈ formats →
    z.playing = (samplesOf q.rformat q.payload).take q.rcount

theorem out_run_of_playBound {k : Nat} {q : Prog} (h : q.Only (Act.obeys (playBound k))) (x : State) : (q.run x).out k = x.out k :=
  (h.devs (playBound_steps k) x).2

/-- PLAY on an output whose NEXT is defined. -/
theorem playOut_run {s : State} {unit path n : Nat} (hn : (s.out (outKey unit path)).next = some n) (p rate lat : Nat) (formats : List Nat) :
    Played (s.out (outKey unit path)) (((playOut unit path p rate lat formats).run s).out (outKey unit path)) n s.now rate lat formats := by
  have hlog : ∀ k l id code sev u ds st, (logLim l id code sev u ds st).Only (Act.obeys (playBound k)) := fun k => (playBound_logs k).logLim
  simp only [playOut, Prog.run_look, hn]
  rw [Prog.run_all_cons, out_run_of_playBound, State.out_modOut_same]
  · refine ⟨rfl, rfl, rfl, fun h => ?_, fun q hq hst hrate hfmt => ?_⟩
    · have hnone : (s.out (outKey unit path)).queue.find? (fun q => q.seq == n) = none := List.find?_eq_none.mpr fun q hq => by simpa using h q hq
      simp [hnone]
    · have hdone : (q.status != stDone) = false := by rw [hst]; rfl
      simp [hq, hdone, hrate, hfmt]
  · refine ⟨Prog.only_when.mpr fun _ => ?_, Prog.only_when.mpr fun _ => outEvent_playBound _ _ _ _ _ _ _ _ _, trivial⟩
    split
    · exact hlog _ _ _ _ _ _ _ _
    · exact hlog _ _ _ _ _ _ _ _

/-- PLAY on another output. -/
theorem playOut_other {unit path k : Nat} (h : k ≠ outKey unit path) (p rate lat : Nat) (formats : List Nat) :
    (playOut unit path p rate lat formats).Only (Act.obeys (playBound k)) := by
  have hlog : ∀ l id code sev u ds st, (logLim l id code sev u ds st).Only (Act.obeys (playBound k)) := (playBound_logs k).logLim
  intro s
  dsimp only
  split
  · trivial
  · refine ⟨fun _ => ⟨rfl, Sparse.get_put_other _ _ _ _ _ h⟩, Prog.only_when.mpr fun _ => ?_,
      Prog.only_when.mpr fun _ => outEvent_playBound _ _ _ _ _ _ _ _ _, trivial⟩
    split
    · exact hlog _ _ _ _ _ _ _
    · exact hlog _ _ _ _ _ _ _

/-- Outputs of one unit play, each under a key of its own. -/
theorem playEach_run {l : List Nat} (hl : l.Nodup) {unit : Nat} (hkey : ∀ i ∈ l, ∀ j ∈ l, outKey unit i = outKey unit j → i = j)
    (p : Nat) (rate lat : Nat → Nat) (formats : List Nat) (s : State) :
    SameBytes s ((each l fun i => playOut unit i p (rate i) (lat i) formats).run s) ∧
    SameHost s ((each l fun i => playOut unit i p (rate i) (lat i) formats).run s) ∧
    (∀ i ∈ l, ∀ n, (s.out (outKey unit i)).next = some n → Played (s.out (outKey unit i))
      (((each l fun i => playOut unit i p (rate i) (lat i) formats).run s).out (outKey unit i)) n s.now (rate i) (lat i) formats) ∧
    (∀ k, (∀ i ∈ l, outKey unit i ≠ k) → ((each l fun i => playOut unit i p (rate i) (lat i) formats).run s).out k = s.out k) := by
  have hother : ∀ (l : List Nat) (k : Nat), (∀ i ∈ l, outKey unit i ≠ k) →
      (each l fun i => playOut unit i p (rate i) (lat i) formats).Only (Act.obeys (playBound k)) := fun l k h =>
    Prog.only_each.mpr fun i hi => playOut_other (h i hi).symm _ _ _ _
  -- a key that no output of the unit has
  have hfree : ∀ i ∈ l, outKey unit i ≠ 200 + 32 * unit := fun i _ => by
    rw [outKey]
    split <;> omega
  have hall := hother l _ hfree
  refine ⟨hall.sameBytes_of_obeys id s, hall.sameHost_of_obeys id s, fun i hi n hn => ?_, fun k h => out_run_of_playBound (hother l k h) s⟩
  obtain ⟨a, b, ha, hb, hrun⟩ := Prog.run_each_split hl hi (fun i => playOut unit i p (rate i) (lat i) formats) s
  have hA := hother a (outKey unit i) fun j hj e => (ha j hj).2 (hkey j (ha j hj).1 i hi e)
  have hB := hother b (outKey unit i) fun j hj e => (hb j hj).2 (hkey j (hb j hj).1 i hi e)
  obtain ⟨hhs, hout⟩ := hA.devs (playBound_steps _) s
  rw [hrun, out_run_of_playBound hB]
  generalize (each a fun i => playOut unit i p (rate i) (lat i) formats).run s = x at *
  have hout' : x.out (outKey unit i) = s.out (outKey unit i) := hout
  have hplayed := playOut_run (s := x) (unit := unit) (path := i) (by rw [hout']; exact hn) p (rate i) (lat i) formats
  rw [hout', State.now, hhs] at hplayed
  exact hplayed

/-! ## The statement -/

/-- The inputs of the array that an entry names and that are enabled. -/
theorem arrayAlign_completes {s : State} {p i : Nat} {e : TtEntry} (he : s.entryNow p i false = some e) (hk : e.kind = 5) (hr : s.ready = true)
    (hon : s.arrOn = true) (hu : bitsOf e.w3 0 8 = 112) (hkind : bitsOf ((s.plane p).sample e.ref).1 0 1 = 0)
    (ht : sampleTurn ((s.plane p).sample e.ref).1 (s.turnNo p) = true) :
    Completes (.arrayAlign p i false) s fun u => u.regs = s.regs ∧ SameBytes s u ∧ SameHost s u ∧ ∀ k, k < 16 →
      (inMask (bitsOf ((s.plane p).sample e.ref).1 16 16) k = true ∧ s.bit (F.ARR_IN_CTL_EN k) = true →
        Framed (s.inp (128 + k)) (u.inp (128 + k)) s.now (s.inp (128 + k)).enabledAt) ∧
      (¬(inMask (bitsOf ((s.plane p).sample e.ref).1 16 16) k = true ∧ s.bit (F.ARR_IN_CTL_EN k) = true) →
        u.inp (128 + k) = s.inp (128 + k)) := by
  refine completes_done (p := onSample p i false (· == 112) 0 fun _ d =>
    each ((membersOf (bitsOf d.1 16 16) 16).filter fun i => s.bit (F.ARR_IN_CTL_EN i) && s.arrOn) fun i =>
      frameEntry (arrKey i) (s.bindSlot i) (s.inp (arrKey i)).enabledAt) rfl ?_
  rw [onSample_run he hk hr (by simp [hu]) hkind ht]
  generalize ((s.plane p).sample e.ref).1 = d
  have hx : (s.passed p i).inp = s.inp ∧ (s.passed p i).now = s.now ∧ (s.passed p i).regs = s.regs ∧ (s.passed p i).mem = s.mem ∧
      (s.passed p i).host = s.host := ⟨rfl, rfl, rfl, rfl, rfl⟩
  generalize s.passed p i = x at *
  obtain ⟨hin, hnow, hregs, hmem, hhost⟩ := hx
  have hmem' : ∀ k, k ∈ (membersOf (bitsOf d 16 16) 16).filter (fun i => s.bit (F.ARR_IN_CTL_EN i) && s.arrOn) ↔
      k < 16 ∧ inMask (bitsOf d 16 16) k = true ∧ s.bit (F.ARR_IN_CTL_EN k) = true := fun k => by
    rw [List.mem_filter, mem_membersOf, hon, Bool.and_true, and_assoc]
  obtain ⟨hins, hyes, hno⟩ := frameEach_run ((membersOf_nodup (bitsOf d 16 16) 16).filter fun i => s.bit (F.ARR_IN_CTL_EN i) && s.arrOn)
    (key := arrKey) (fun i _ j _ h => by simpa [arrKey] using h) s.bindSlot (fun i => (s.inp (arrKey i)).enabledAt) x
  refine ⟨hins.regs.trans hregs, fun a => by rw [hins.mem, hmem], fun a => by rw [hins.host, hhost], fun k hk => ⟨fun h => ?_, fun h => ?_⟩⟩
  · have := hyes k ((hmem' k).mpr ⟨hk, h⟩)
    rw [hin, hnow] at this
    exact this
  · refine (hno (128 + k) fun j hj e => h ?_).trans (congrFun hin _)
    have hjk : j = k := by simpa [arrKey] using e
    exact hjk ▸ ((hmem' j).mp hj).2

theorem portAlign_completes {s : State} {p i w : Nat} {e : TtEntry} (he : s.entryNow p i false = some e) (hk : e.kind = 5) (hr : s.ready = true)
    (hlo : 108 ≤ w) (hhi : w ≤ 111) (hu : bitsOf e.w3 0 8 = w) (hon : s.portOn (w - 108) = true) (hst : s.unitState w = 3)
    (hkind : bitsOf ((s.plane p).sample e.ref).1 0 1 = 0) (ht : sampleTurn ((s.plane p).sample e.ref).1 (s.turnNo p) = true) :
    Completes (.portAlign p i false) s fun u => u.regs = s.regs ∧ SameBytes s u ∧ SameHost s u ∧ ∀ k, k < 32 →
      (k ∈ s.portEntries (w - 108) ∧ inMask ((s.plane p).sample e.ref).2 k = true →
        Framed (s.inp (32 * (w - 108) + k)) (u.inp (32 * (w - 108) + k)) s.now (s.port (w - 108)).enabledAt) ∧
      (¬(k ∈ s.portEntries (w - 108) ∧ inMask ((s.plane p).sample e.ref).2 k = true) →
        u.inp (32 * (w - 108) + k) = s.inp (32 * (w - 108) + k)) := by
  refine completes_done (p := onSample p i false isPort 0 fun u d =>
    let k := u - 108
    when (s.portOn k && s.unitState (108 + k) == 3) (
      each ((s.portEntries k).filter (inMask d.2)) fun i =>
        frameEntry (32 * k + i) (s.fld (F.AUD_IN_MAP_STREAM k i)) (s.port k).enabledAt)) rfl ?_
  rw [onSample_run he hk hr (by simp [hu, isPort, hlo, hhi]) hkind ht]
  generalize ((s.plane p).sample e.ref).2 = d
  have hx : (s.passed p i).inp = s.inp ∧ (s.passed p i).now = s.now ∧ (s.passed p i).regs = s.regs ∧ (s.passed p i).mem = s.mem ∧
      (s.passed p i).host = s.host := ⟨rfl, rfl, rfl, rfl, rfl⟩
  generalize s.passed p i = x at *
  obtain ⟨hin, hnow, hregs, hmem, hhost⟩ := hx
  have hw : 108 + (w - 108) = w := by omega
  rw [hu]
  dsimp only
  rw [hw, hon, hst, Prog.run_when, if_pos (by rfl)]
  generalize w - 108 = m at *
  have hnd : ((s.portEntries m).filter (inMask d)).Nodup := (List.nodup_range.filter _).filter _
  obtain ⟨hins, hyes, hno⟩ := frameEach_run hnd (key := fun i => 32 * m + i) (fun i _ j _ h => by simpa using h)
    (fun i => s.fld (F.AUD_IN_MAP_STREAM m i)) (fun _ => (s.port m).enabledAt) x
  refine ⟨hins.regs.trans hregs, fun a => by rw [hins.mem, hmem], fun a => by rw [hins.host, hhost], fun k hk => ⟨fun h => ?_, fun h => ?_⟩⟩
  · have := hyes k (List.mem_filter.mpr h)
    rw [hin, hnow] at this
    exact this
  · refine (hno (32 * m + k) fun j hj e => h ?_).trans (congrFun hin _)
    have hjk : j = k := by simpa using e
    exact hjk ▸ List.mem_filter.mp hj

/-- One output of an output unit has played as a SAMPLE entry says. -/
structure OutputPlays (s u : State) (key n rate lat : Nat) (named : Bool) (formats : List Nat) : Prop where
  left : named = false → u.out key = s.out key
  played : named = true → Played (s.out key) (u.out key) n s.now rate lat formats

theorem arrayPlay_completes {s : State} {p i k n : Nat} {e : TtEntry} (he : s.entryNow p i false = some e) (hk : e.kind = 5) (hr : s.ready = true)
    (hu : bitsOf e.w3 0 8 = 112) (hlt : k < 8) (hn : (s.out (128 + k)).next = some n) (hkind : bitsOf ((s.plane p).sample e.ref).1 0 1 = 1)
    (ht : sampleTurn ((s.plane p).sample e.ref).1 (s.turnNo p) = true) :
    Completes (.arrayPlay p i false) s fun u => SameBytes s u ∧ SameHost s u ∧ OutputPlays s u (128 + k) n (s.fld (F.ARR_OUT_CTL_RATE k))
      (pathLatency (s.fld (F.ARR_OUT_CTL_RATE k)) (s.bit (F.ARR_OUT_CTL_LOWLAT k))) (inMask (bitsOf ((s.plane p).sample e.ref).1 16 8) k)
      [0, 1, 3] := by
  refine completes_done (p := onSample p i false (· == 112) 1 fun _ d => each (membersOf (bitsOf d.1 16 8) 8) fun k =>
    playOut 112 k p (s.fld (F.ARR_OUT_CTL_RATE k)) (pathLatency (s.fld (F.ARR_OUT_CTL_RATE k)) (s.bit (F.ARR_OUT_CTL_LOWLAT k))) [0, 1, 3]) rfl ?_
  rw [onSample_run he hk hr (by simp [hu]) hkind ht]
  generalize ((s.plane p).sample e.ref).1 = d
  have hx : (s.passed p i).out = s.out ∧ (s.passed p i).now = s.now ∧ (s.passed p i).mem = s.mem ∧
      (s.passed p i).host = s.host := ⟨rfl, rfl, rfl, rfl⟩
  generalize s.passed p i = x at *
  obtain ⟨hout, hnow, hmem, hhost⟩ := hx
  have hkeys : ∀ j, j < 8 → outKey 112 j = 128 + j := fun j hj => by rw [outKey, if_pos rfl, Nat.mod_eq_of_lt hj]
  obtain ⟨hb, hh, hyes, hno⟩ := playEach_run (membersOf_nodup (bitsOf d 16 8) 8) (unit := 112) (fun i hi j hj h => by
      rw [hkeys i (mem_membersOf.mp hi).1, hkeys j (mem_membersOf.mp hj).1] at h
      omega) p (fun k => s.fld (F.ARR_OUT_CTL_RATE k))
    (fun k => pathLatency (s.fld (F.ARR_OUT_CTL_RATE k)) (s.bit (F.ARR_OUT_CTL_LOWLAT k))) [0, 1, 3] x
  refine ⟨fun a => (hb a).trans (by rw [hmem]), fun a => (hh a).trans (by rw [hhost]), ⟨fun h => ?_, fun h => ?_⟩⟩
  · refine (hno (128 + k) fun j hj e => ?_).trans (congrFun hout _)
    obtain ⟨hj8, hjm⟩ := mem_membersOf.mp hj
    have hjk : j = k := by
      rw [hkeys j hj8] at e
      omega
    exact Bool.false_ne_true (h.symm.trans (hjk ▸ hjm))
  · have := hyes k (mem_membersOf.mpr ⟨hlt, h⟩) n (by rw [hkeys k hlt, hout]; exact hn)
    rw [hkeys k hlt, hout, hnow] at this
    exact this

theorem portPlay_completes {s : State} {p i w k n : Nat} {e : TtEntry} (he : s.entryNow p i false = some e) (hk : e.kind = 5) (hr : s.ready = true)
    (hlo : 108 ≤ w) (hhi : w ≤ 111) (hu : bitsOf e.w3 0 8 = w) (hlt : k < 32) (hn : (s.out (32 * (w - 108) + k)).next = some n)
    (hkind : bitsOf ((s.plane p).sample e.ref).1 0 1 = 1) (ht : sampleTurn ((s.plane p).sample e.ref).1 (s.turnNo p) = true) :
    Completes (.portPlay p i false) s fun u => SameBytes s u ∧ SameHost s u ∧ OutputPlays s u (32 * (w - 108) + k) n
      (s.fld (F.AUD_CFG_RATE (w - 108))) 16 (inMask ((s.plane p).sample e.ref).2 k) [0, 1, 2] := by
  refine completes_done (p := onSample p i false isPort 1 fun u d => each (membersOf d.2 32) fun i =>
    playOut u i p (s.fld (F.AUD_CFG_RATE (u - 108))) 16 [0, 1, 2]) rfl ?_
  rw [onSample_run he hk hr (by simp [hu, isPort, hlo, hhi]) hkind ht, hu]
  generalize ((s.plane p).sample e.ref).2 = d
  have hx : (s.passed p i).out = s.out ∧ (s.passed p i).now = s.now ∧ (s.passed p i).mem = s.mem ∧
      (s.passed p i).host = s.host := ⟨rfl, rfl, rfl, rfl⟩
  generalize s.passed p i = x at *
  obtain ⟨hout, hnow, hmem, hhost⟩ := hx
  have hkeys : ∀ j, j < 32 → outKey w j = 32 * (w - 108) + j := fun j hj => by rw [outKey, if_neg (by omega), Nat.mod_eq_of_lt hj]
  obtain ⟨hb, hh, hyes, hno⟩ := playEach_run (membersOf_nodup d 32) (unit := w) (fun i hi j hj h => by
      rw [hkeys i (mem_membersOf.mp hi).1, hkeys j (mem_membersOf.mp hj).1] at h
      omega) p (fun _ => s.fld (F.AUD_CFG_RATE (w - 108))) (fun _ => 16) [0, 1, 2] x
  refine ⟨fun a => (hb a).trans (by rw [hmem]), fun a => (hh a).trans (by rw [hhost]), ⟨fun h => ?_, fun h => ?_⟩⟩
  · refine (hno (32 * (w - 108) + k) fun j hj e => ?_).trans (congrFun hout _)
    obtain ⟨hj8, hjm⟩ := mem_membersOf.mp hj
    have hjk : j = k := by
      rw [hkeys j hj8] at e
      omega
    exact Bool.false_ne_true (h.symm.trans (hjk ▸ hjm))
  · have := hyes k (mem_membersOf.mpr ⟨hlt, h⟩) n (by rw [hkeys k hlt, hout]; exact hn)
    rw [hkeys k hlt, hout, hnow] at this
    exact this

/-- What framing does, as the statement has it. -/
theorem framed_cases {y z : InPath} {now at' : Nat} {c : Prop} [Decidable (c ∧ y.framed = false ∧ laterTick now at' = true)]
    (hyes : c → Framed y z now at') (hno : ¬c → z = y) :
    if c ∧ y.framed = false ∧ laterTick now at' = true then z.framed = true ∧ z.from_ = some now ∧ z.fill = 0 ∧ z.gap = !z.newUtt
    else z = y := by
  split
  · next h => exact (hyes h.1).yes h.2.1 h.2.2
  · next h =>
    by_cases hc : c
    · exact (hyes hc).no fun hf => h ⟨hc, hf⟩
    · exact hno hc

/-- Playing, as the statement has it. -/
theorem OutputPlays.cases {s u : State} {key n rate lat : Nat} {named : Bool} {formats : List Nat} (h : OutputPlays s u key n rate lat named formats)
    (hnamed : named = true) : (u.out key).next = some ((n + 1) % 2 ^ 32) ∧ (u.out key).queue = (s.out key).queue.filter (fun q => q.seq ≠ n) ∧
      (u.out key).start = s.now + lat ∧ ((∀ q ∈ (s.out key).queue, q.seq ≠ n) → (u.out key).playing = []) ∧
      ∀ q, (s.out key).queue.find? (fun q => q.seq = n) = some q → q.status = 0 → q.rrate = rate → q.rformat ∈ formats →
        (u.out key).playing = (samplesOf q.rformat q.payload).take q.rcount := by
  obtain ⟨hnext, hqueue, hstart, hsilent, hplays⟩ := h.played hnamed
  refine ⟨hnext, hqueue.trans (List.filter_congr fun q _ => ?_), hstart, hsilent, fun q hq => hplays q hq⟩
  rw [bne, decide_not]
  rfl

/-- Settles O31: each kind of SAMPLE entry frames, or plays, element by element. -/
theorem alignAndPlay : Obligations.AlignAndPlay := by
  unfold Obligations.AlignAndPlay
  refine ⟨fun s p i k e he hk hr hon hu hlt hkind ht => ?_, fun s p i w k e he hk hr hlo hhi hu hon hst hlt hkind ht => ?_,
    fun s p i k n e he hk hr hu hlt hn hkind ht => ?_, fun s p i w k n e he hk hr hlo hhi hu hlt hn hkind ht => ?_⟩
  · obtain ⟨u, hrun, hregs, hb, hh, hall⟩ := arrayAlign_completes (s := s) he hk hr hon hu hkind ht
    obtain ⟨hyes, hno⟩ := hall k hlt
    refine ⟨u, hrun, hregs, hb, hh, ?_⟩
    have := framed_cases hyes hno
    simpa only [and_assoc] using this
  · obtain ⟨u, hrun, hregs, hb, hh, hall⟩ := portAlign_completes (s := s) he hk hr hlo hhi hu hon hst hkind ht
    obtain ⟨hyes, hno⟩ := hall k hlt
    refine ⟨u, hrun, hregs, hb, hh, ?_⟩
    have := framed_cases hyes hno
    simpa only [and_assoc] using this
  · obtain ⟨u, hrun, hb, hh, hplay⟩ := arrayPlay_completes (s := s) he hk hr hu hlt hn hkind ht
    refine ⟨u, hrun, hb, hh, hplay.left, fun h => ?_⟩
    obtain ⟨hnext, hqueue, hstart, hsilent, hplays⟩ := hplay.cases h
    exact ⟨hnext, hqueue, hstart, hsilent, fun q hq hst hrate hf => hplays q hq hst hrate (by simpa using hf)⟩
  · obtain ⟨u, hrun, hb, hh, hplay⟩ := portPlay_completes (s := s) he hk hr hlo hhi hu hlt hn hkind ht
    refine ⟨u, hrun, hb, hh, hplay.left, fun h => ?_⟩
    obtain ⟨hnext, hqueue, hstart, hsilent, hplays⟩ := hplay.cases h
    exact ⟨hnext, hstart, hqueue, hsilent, fun q hq hst hrate hf => hplays q hq hst hrate (by simpa using hf)⟩

end Sys2Proof.Machine
end

section
/-!
Laws of the macrocell fabric (R432 to R453): what latches, captures and settling do to its elements and its memory.
-/
namespace Sys2Proof.Machine

/-! ## Setting many bits -/

/-- Bits set one after the other. -/
def putBits (m : Sparse Bool) : List (Nat × Bool) → Sparse Bool
  | [] => m
  | (k, v) :: l => putBits (Sparse.put bitZero m k v) l

theorem Fabric.setRegs_eq (f : Fabric) (l : List (Nat × Bool)) : f.setRegs l = { f with regs := putBits f.regs l } := by
  induction l generalizing f with
  | nil => rfl
  | cons x l ih =>
    rw [Fabric.setRegs, ih]
    rfl

theorem Fabric.setMems_eq (f : Fabric) (l : List (Nat × Bool)) : f.setMems l = { f with mem := putBits f.mem l } := by
  induction l generalizing f with
  | nil => rfl
  | cons x l ih =>
    rw [Fabric.setMems, ih]
    rfl

theorem get_putBits_other {m : Sparse Bool} {l : List (Nat × Bool)} {k : Nat} (h : ∀ x ∈ l, x.1 ≠ k) :
    Sparse.get bitZero (putBits m l) k = Sparse.get bitZero m k := by
  induction l generalizing m with
  | nil => rfl
  | cons x l ih =>
    rw [putBits, ih fun y hy => h y (List.mem_cons_of_mem _ hy)]
    exact Sparse.get_put_other _ _ _ _ _ (h x List.mem_cons_self).symm

/-- A bit that is set, and always to the same value, has it. -/
theorem get_putBits_mem {m : Sparse Bool} {l : List (Nat × Bool)} {k : Nat} {v : Bool} (hmem : (k, v) ∈ l) (hone : ∀ x ∈ l, x.1 = k → x.2 = v) :
    Sparse.get bitZero (putBits m l) k = v := by
  induction l generalizing m with
  | nil => exact absurd hmem List.not_mem_nil
  | cons x l ih =>
    rw [putBits]
    by_cases hl : ∃ y ∈ l, y.1 = k
    · obtain ⟨y, hy, hk⟩ := hl
      have hv := hone y (List.mem_cons_of_mem _ hy) hk
      have hyk : y = (k, v) := Prod.ext hk hv
      exact ih (hyk ▸ hy) fun z hz => hone z (List.mem_cons_of_mem _ hz)
    · have hno : ∀ y ∈ l, y.1 ≠ k := fun y hy hk => hl ⟨y, hy, hk⟩
      obtain rfl : (k, v) = x := by
        rcases List.mem_cons.mp hmem with h | h
        · exact h
        · exact absurd rfl (hno _ h)
      rw [get_putBits_other hno]
      exact Sparse.get_put_same _ _ _ _

/-! ## The macrocells by number -/

theorem Fabric.sums_length (f : Fabric) (ins : List Bool) (n m : Nat) (prev : Bool) : (f.sums ins n m prev).length = n := by
  induction n generalizing m prev with
  | zero => rfl
  | succ n ih => rw [Fabric.sums, List.length_cons, ih]

theorem Fabric.blockCells_length (f : Fabric) (i : FabIn) (cells : List Bool) (b : Nat) : (f.blockCells i cells b).length = 16 := by
  rw [Fabric.blockCells, List.length_map, List.length_zipIdx, Fabric.sums_length]

theorem length_flatMap_const {α : Type} {g : Nat → List α} {w : Nat} (hg : ∀ b, (g b).length = w) (n : Nat) :
    ((List.range n).flatMap g).length = w * n := by
  induction n with
  | zero => rfl
  | succ n ih => rw [List.range_succ, List.flatMap_append, List.length_append, ih, List.flatMap_singleton, hg, Nat.mul_succ]

theorem getElem?_flatMap_const {α : Type} {g : Nat → List α} {w : Nat} (hg : ∀ b, (g b).length = w) {n m : Nat} (hm : m < w * n) :
    ((List.range n).flatMap g)[m]? = (g (m / w))[m % w]? := by
  induction n with
  | zero => omega
  | succ n ih =>
    rw [List.range_succ, List.flatMap_append, List.flatMap_singleton, List.getElem?_append, length_flatMap_const hg]
    split
    · next h => exact ih h
    · next h =>
      have hm' : m < w * n + w := by rwa [Nat.mul_succ] at hm
      have hdiv : m / w = n := Nat.div_eq_of_lt_le (by rw [Nat.mul_comm]; omega) (by rw [Nat.mul_comm, Nat.mul_succ]; omega)
      rw [hdiv, Nat.mod_def, hdiv]

theorem Fabric.allCells_length (f : Fabric) (i : FabIn) (cells : List Bool) : (f.allCells i cells).length = 512 :=
  length_flatMap_const (f.blockCells_length i cells) 32

/-- A macrocell without a clear is not cleared, and one without a clock enable is enabled. -/
theorem Fabric.allCells_at {f : Fabric} {i : FabIn} {cells : List Bool} {m : Nat} {x : CellIn} (h : (f.allCells i cells)[m]? = some x) :
    m < 512 ∧ (cellArsel f.cfg m = 0 → x.clear = false) ∧ (cellCept f.cfg m = false → x.ce = true) := by
  have hm : m < 512 := by
    have := (List.getElem?_eq_some_iff.mp h).1
    rwa [Fabric.allCells_length] at this
  rw [Fabric.allCells, getElem?_flatMap_const (f.blockCells_length i cells) (by omega), Fabric.blockCells, List.getElem?_map,
    List.getElem?_zipIdx] at h
  obtain ⟨y, hy, rfl⟩ := Option.map_eq_some_iff.mp h
  obtain ⟨z, -, rfl⟩ := Option.map_eq_some_iff.mp hy
  have hnum : 16 * (m / 16) + m % 16 = m := by omega
  refine ⟨hm, fun ha => ?_, fun hc => ?_⟩
  · simp [hnum, ha]
  · simp [hnum, hc]

/-! ## Latches -/

theorem Fabric.keepLatches_eq (f : Fabric) (i : FabIn) : f.keepLatches i = { f with regs := (f.keepLatches i).regs } := by
  rw [Fabric.keepLatches, Fabric.setRegs_eq]

/-- What latches keep has the number of a macrocell. -/
theorem Fabric.keepLatches_reg_high {f : Fabric} {i : FabIn} {k : Nat} (hk : 512 ≤ k) : (f.keepLatches i).reg k = f.reg k := by
  rw [Fabric.keepLatches, Fabric.setRegs_eq]
  refine get_putBits_other fun x hx => ?_
  obtain ⟨y, hy, rfl⟩ := List.mem_map.mp hx
  have := (Fabric.allCells_at (List.mem_zipIdx_iff_getElem?.mp (List.mem_filter.mp hy).1)).1
  show y.2 ≠ k
  omega

/-- A flip-flop keeps its element, or is cleared. -/
theorem Fabric.keepLatches_reg_flop {f : Fabric} {i : FabIn} {m : Nat} (ht : cellType f.cfg m = 1 ∨ cellType f.cfg m = 2) :
    (f.keepLatches i).reg m = f.reg m ∨ ∃ x, (f.allCells i (f.settled i))[m]? = some x ∧ (f.keepLatches i).reg m = (!x.clear && f.reg m) := by
  have h0 : cellType f.cfg m ≠ 0 := by omega
  have h3 : cellType f.cfg m ≠ 3 := by omega
  cases hx : (f.allCells i (f.settled i))[m]? with
  | none =>
    left
    rw [Fabric.keepLatches, Fabric.setRegs_eq]
    refine get_putBits_other fun y hy e => ?_
    obtain ⟨z, hz, rfl⟩ := List.mem_map.mp hy
    have hz' := List.mem_zipIdx_iff_getElem?.mp (List.mem_filter.mp hz).1
    have e' : z.2 = m := e
    rw [e', hx] at hz'
    exact absurd hz' (by simp)
  | some x =>
    right
    refine ⟨x, rfl, ?_⟩
    rw [Fabric.keepLatches, Fabric.setRegs_eq]
    refine get_putBits_mem (List.mem_map.mpr ⟨(x, m), List.mem_filter.mpr ⟨List.mem_zipIdx_iff_getElem?.mpr hx, by simpa using h0⟩, ?_⟩)
      fun y hy e => ?_
    · simp [h3]
    · obtain ⟨z, hz, rfl⟩ := List.mem_map.mp hy
      have hz' := List.mem_zipIdx_iff_getElem?.mp (List.mem_filter.mp hz).1
      have e' : z.2 = m := e
      rw [e', hx] at hz'
      obtain rfl := Option.some.inj hz'
      simp [e', h3]

theorem Fabric.keepLatches_reg_zero {f : Fabric} {i : FabIn} {m : Nat} (ht : cellType f.cfg m = 1 ∨ cellType f.cfg m = 2) (hz : f.reg m = false) :
    (f.keepLatches i).reg m = false := by
  rcases f.keepLatches_reg_flop ht (i := i) with h | ⟨x, -, h⟩
  · exact h.trans hz
  · rw [h, hz, Bool.and_false]

theorem Fabric.keepLatches_reg_kept {f : Fabric} {i : FabIn} {m : Nat} (ht : cellType f.cfg m = 1 ∨ cellType f.cfg m = 2)
    (ha : cellArsel f.cfg m = 0) : (f.keepLatches i).reg m = f.reg m := by
  rcases f.keepLatches_reg_flop ht (i := i) with h | ⟨x, hx, h⟩
  · exact h
  · rw [h, (Fabric.allCells_at hx).2.1 ha]
    rfl

/-! ## What the nets do not depend on -/

/-- A fabric with other notes of its flag lines and of UCATCH. -/
def Fabric.marked (f : Fabric) (uc : Bool) (rises : Nat) (flags : List (Bool × Bool × Nat)) : Fabric :=
  { f with ucatch := uc, ucRises := rises, flags := flags }

section
variable (f : Fabric) (uc : Bool) (rises : Nat) (flags : List (Bool × Bool × Nat)) (i : FabIn)

theorem Fabric.sums_marked (ins : List Bool) (n m : Nat) (prev : Bool) :
    (f.marked uc rises flags).sums ins n m prev = f.sums ins n m prev := by
  induction n generalizing m prev with
  | zero => rfl
  | succ n ih =>
    rw [Fabric.sums, Fabric.sums, ih]
    rfl

theorem Fabric.blockCells_marked (cells : List Bool) (b : Nat) : (f.marked uc rises flags).blockCells i cells b = f.blockCells i cells b := by
  rw [Fabric.blockCells, Fabric.blockCells, Fabric.sums_marked]
  rfl

theorem Fabric.allCells_marked (cells : List Bool) : (f.marked uc rises flags).allCells i cells = f.allCells i cells :=
  congrArg ((List.range 32).flatMap ·) (funext fun b => f.blockCells_marked uc rises flags i cells b)

theorem Fabric.pass_marked (cells : List Bool) : (f.marked uc rises flags).pass i cells = f.pass i cells := by
  rw [Fabric.pass, Fabric.pass, Fabric.allCells_marked]
  rfl

theorem Fabric.passes_marked (n : Nat) (cells : List Bool) : (f.marked uc rises flags).passes i n cells = f.passes i n cells := by
  induction n generalizing cells with
  | zero => rfl
  | succ n ih => rw [Fabric.passes, Fabric.passes, Fabric.pass_marked, ih]

theorem Fabric.settled_marked : (f.marked uc rises flags).settled i = f.settled i := f.passes_marked uc rises flags i 513 _

end

/-! ## Edges of FABCLK -/

theorem Fabric.edge_held {f : Fabric} {i : FabIn} {e : FabEdge} (hc : e.clk = .fabclk) (hh : i.hold = true) (draw : Option Nat) :
    f.edge i e draw = f := by
  have hd : edgeDraw e draw = none := by rw [edgeDraw, hc]; rfl
  rw [Fabric.edge, edgeHeld, hh, hd]
  rfl

theorem Fabric.edge_kept (f : Fabric) (i : FabIn) (e : FabEdge) (draw : Option Nat) :
    f.edge i e draw = { f with regs := (f.edge i e draw).regs, mem := (f.edge i e draw).mem } := by
  rw [Fabric.edge]
  split
  · rfl
  · simp only [Fabric.setMems_eq, Fabric.setRegs_eq]

/-- Nothing else that an edge captures has the number of a macrocell. -/
theorem Fabric.captures_high (f : Fabric) (i : FabIn) (cells : List Bool) (e : FabEdge) (draw : Option Nat) :
    (∀ x ∈ f.pipeCaptures i cells e, 512 ≤ x.1) ∧ (∀ x ∈ f.ioCaptures i cells e draw, 512 ≤ x.1) ∧
    ∀ k p, ∀ x ∈ f.memReads i cells e draw k p, 512 ≤ x.1 := by
  refine ⟨fun x hx => ?_, fun x hx => ?_, fun k p x hx => ?_⟩
  · rw [Fabric.pipeCaptures] at hx
    split at hx
    · simp only [List.mem_append, List.mem_flatMap, List.mem_map, List.mem_cons, List.not_mem_nil, or_false] at hx
      rcases hx with ⟨s, -, st, -, rfl⟩ | ⟨n, -, rfl | rfl⟩
      · show 512 ≤ 0x1000 + 4 * s + st
        omega
      · show 512 ≤ 0x60000 + 2 * n + 0
        omega
      · show 512 ≤ 0x60000 + 2 * n + 1
        omega
    · exact absurd hx List.not_mem_nil
  · simp only [Fabric.ioCaptures, List.mem_flatMap, List.mem_cons, List.not_mem_nil, or_false] at hx
    obtain ⟨n, -, rfl | rfl | rfl⟩ := hx
    · show 512 ≤ 0x40000 + n
      omega
    · show 512 ≤ 0x40100 + n
      omega
    · show 512 ≤ 0x40200 + n
      omega
  · rw [Fabric.memReads] at hx
    split at hx
    · exact absurd hx List.not_mem_nil
    · rcases List.mem_append.mp hx with hx | hx
      · obtain ⟨j, -, rfl⟩ := List.mem_map.mp hx
        show 512 ≤ 0x51000 + (72 * k + 36 * p + j)
        omega
      · split at hx
        · obtain ⟨j, -, rfl⟩ := List.mem_map.mp hx
          show 512 ≤ 0x50000 + (72 * k + 36 * p + j.2)
          omega
        · exact absurd hx List.not_mem_nil

/-- A flip-flop on the rising edge of FABCLK captures its data. -/
theorem Fabric.edge_flop {f : Fabric} {i : FabIn} {e : FabEdge} {m : Nat} {x : CellIn} (hh : i.hold = false) (hc : e.clk = .fabclk)
    (hr : e.rising = true) (ht : cellType f.cfg m = 1) (hk : cellCk f.cfg m = 0) (hi : cellInv f.cfg m = false)
    (ha : cellArsel f.cfg m = 0) (hp : cellCept f.cfg m = false) (hx : (f.allCells i (f.settled i))[m]? = some x) :
    (f.edge i e none).reg m = x.d := by
  obtain ⟨hm, hclear, hce⟩ := Fabric.allCells_at hx
  have hd : edgeDraw e none = none := by rw [edgeDraw, hc]; rfl
  have hclk : cellClocked f.cfg m e.clk = true := by
    rw [cellClocked, hk, hc]
    rfl
  obtain ⟨hpipe, hio, hmem⟩ := f.captures_high i (f.settled i) e none
  rw [Fabric.edge, edgeHeld, hh, Bool.false_and, if_neg Bool.false_ne_true]
  dsimp only
  rw [Fabric.setMems_eq, Fabric.setRegs_eq]
  refine get_putBits_mem ?_ fun y hy e' => ?_
  · refine List.mem_append_left _ (List.mem_append_left _ (List.mem_append_left _ (List.mem_map.mpr ⟨(x, m), List.mem_filter.mpr
      ⟨List.mem_zipIdx_iff_getElem?.mpr hx, ?_⟩, ?_⟩)))
    · simp [ht, hclk, hce hp, hclear ha, hr, hi]
    · simp [ht, hd, capture]
  · rcases List.mem_append.mp hy with hy | hy
    · rcases List.mem_append.mp hy with hy | hy
      · rcases List.mem_append.mp hy with hy | hy
        · obtain ⟨z, hz, rfl⟩ := List.mem_map.mp hy
          have hz' := List.mem_zipIdx_iff_getElem?.mp (List.mem_filter.mp hz).1
          have hzm : z.2 = m := e'
          rw [hzm, hx] at hz'
          obtain rfl := Option.some.inj hz'
          simp [hzm, ht, hd, capture]
        · exact absurd (hpipe y hy) (by omega)
      · exact absurd (hio y hy) (by omega)
    · obtain ⟨k, -, hk'⟩ := List.mem_flatMap.mp hy
      rcases List.mem_append.mp hk' with h | h
      · exact absurd (hmem k 1 y h) (by omega)
      · exact absurd (hmem k 0 y h) (by omega)

end Sys2Proof.Machine
end

section
/-!
The commands of the fabric: HOLD, RESET, RELEASE, the memory window, its clock and UCATCH (O47).
-/
namespace Sys2Proof.Machine

/-! ## Settling -/

/-- What settling leaves of the fabric: all but its elements, the notes of its flag lines and of UCATCH. -/
def Fabric.Resettled (f g : Fabric) : Prop :=
  g = { f with regs := g.regs, ucatch := g.ucatch, ucRises := g.ucRises, flags := g.flags }

theorem Fabric.Resettled.refl (f : Fabric) : f.Resettled f := rfl

theorem State.fabIn_congr {s u : State} (harr : u.dev.arr = s.dev.arr) (hhs : u.dev.hs = s.dev.hs)
    (hw : ∀ o, o ≠ F.ARR_FAB_SWOUT.off → u.word o = s.word o) : u.fabIn = s.fabIn := by
  have hf : ∀ f : Fld, f.off ≠ F.ARR_FAB_SWOUT.off → u.fld f = s.fld f := fun f h => State.fld_of_word (hw _ h)
  have henv : ((List.range 4).filter fun m => u.bit (F.ARR_ENV_STAT_ABOVE m)) = (List.range 4).filter fun m => s.bit (F.ARR_ENV_STAT_ABOVE m) :=
    List.filter_congr fun m hm => congrArg (· == 1) (hf _ (envStat_not_swout (List.mem_range.mp hm)))
  unfold State.fabIn
  rw [harr, henv, State.now, hhs, hf F.ARR_FAB_SWIN (by decide), hf F.TB_PPS_PHASE_PHASE (by decide), State.bit, hf F.ARR_FAB_CTL_HOLD (by decide)]
  rfl

theorem State.fabIn_modFab (g : Fabric → Fabric) (s : State) : ((modFab g).run s).fabIn = s.fabIn := rfl

theorem OnlyFabric.fabIn {s u : State} (h : OnlyFabric s u) : u.fabIn = s.fabIn :=
  State.fabIn_congr (by rw [h.dev]) (by rw [h.dev]) h.words

/-- The fabric after it has settled: the latches of a configured one keep what they follow. -/
theorem fabSettle_fab (s : State) : (fabSettle.run s).dev.fab = s.dev.fab ∧ s.fabOn = false ∨
    s.fabOn = true ∧ ∃ uc rises flags, (fabSettle.run s).dev.fab = (s.dev.fab.keepLatches s.fabIn).marked uc rises flags := by
  rw [fabSettle, Prog.run_look, Prog.run_when]
  cases h : s.fabOn with
  | false => exact .inl ⟨rfl, rfl⟩
  | true => exact .inr ⟨rfl, _, _, _, rfl⟩

theorem fabSettle_resettled (s : State) : s.dev.fab.Resettled (fabSettle.run s).dev.fab := by
  rcases fabSettle_fab s with ⟨h, -⟩ | ⟨-, uc, rises, flags, h⟩
  · rw [h]
    exact Fabric.Resettled.refl _
  · rw [h, Fabric.Resettled, Fabric.keepLatches_eq]
    rfl

theorem fabSettle_reg_high {k : Nat} (hk : 512 ≤ k) (s : State) : (fabSettle.run s).dev.fab.reg k = s.dev.fab.reg k := by
  rcases fabSettle_fab s with ⟨h, -⟩ | ⟨-, uc, rises, flags, h⟩
  · rw [h]
  · rw [h]
    exact Fabric.keepLatches_reg_high hk

theorem fabSettle_reg_zero {m : Nat} {s : State} (ht : cellType s.dev.fab.cfg m = 1 ∨ cellType s.dev.fab.cfg m = 2) (hz : s.dev.fab.reg m = false) :
    (fabSettle.run s).dev.fab.reg m = false := by
  rcases fabSettle_fab s with ⟨h, -⟩ | ⟨-, uc, rises, flags, h⟩
  · rw [h, hz]
  · rw [h]
    exact Fabric.keepLatches_reg_zero ht hz

theorem fabSettle_reg_kept {m : Nat} {s : State} (ht : cellType s.dev.fab.cfg m = 1 ∨ cellType s.dev.fab.cfg m = 2)
    (ha : cellArsel s.dev.fab.cfg m = 0) : (fabSettle.run s).dev.fab.reg m = s.dev.fab.reg m := by
  rcases fabSettle_fab s with ⟨h, -⟩ | ⟨-, uc, rises, flags, h⟩
  · rw [h]
  · rw [h]
    exact Fabric.keepLatches_reg_kept ht ha

/-! ## The stream of free choices -/

/-- The act takes no free choice. -/
def Act.undrawn : Act → Prop
  | .draw => False
  | _ => True

theorem Prog.Only.free {p : Prog} (h : p.Only Act.undrawn) (s : State) : (p.run s).free = s.free := by
  refine h.run (R := fun s t => t.free = s.free) (fun _ => rfl) (fun h k => k.trans h) (fun a s ha => ?_) s
  cases a with
  | draw => exact ha.elim
  | _ => rfl

theorem setF_undrawn (f : Fld) (v : Nat) : (setF f v).Only Act.undrawn := Prog.only_setF fun _ => trivial
theorem logC_undrawn (code sev unit : Nat) (ds : List Nat) (st : Option Nat) : (logC code sev unit ds st).Only Act.undrawn :=
  Prog.only_logC (fun _ => trivial) fun _ _ _ => trivial

theorem fabSettle_undrawn : fabSettle.Only Act.undrawn := fun _ => Prog.only_when.mpr fun _ => ⟨trivial, setF_undrawn _ _, trivial⟩

/-! ## The pins -/

/-- The fabric with its pins released. -/
def Fabric.pinsFree (f : Fabric) : Fabric := if f.released then f else { f with released := true, releaseDue := false }

/-- The pins have been released. -/
structure PinsReleased (s u : State) : Prop where
  dev : u.dev = { s.dev with fab := s.dev.fab.pinsFree, log := u.dev.log, out := u.dev.out, marks := u.dev.marks }
  words : ∀ o, o ∉ F.ARR_FAB_STATUS_RELEASED.off :: logRegs → u.word o = s.word o
  mem : u.mem = s.mem
  host : u.host = s.host
  free : u.free = s.free

theorem modFab_run (f : Fabric → Fabric) (s : State) : ((modFab f).run s).dev = { s.dev with fab := f s.dev.fab } ∧
    ((modFab f).run s).regs = s.regs ∧ ((modFab f).run s).mem = s.mem ∧ ((modFab f).run s).host = s.host ∧ ((modFab f).run s).free = s.free :=
  ⟨rfl, rfl, rfl, rfl, rfl⟩

theorem releasePins_run (s : State) : PinsReleased s (releasePins.run s) := by
  rw [releasePins, Prog.run_look, Prog.run_when]
  cases hr : s.dev.fab.released with
  | true =>
    refine ⟨?_, fun _ _ => rfl, rfl, rfl, rfl⟩
    rw [Fabric.pinsFree, if_pos hr]
    rfl
  | false =>
    rw [if_pos (by rfl)]
    iterate 3 rw [Prog.run_all_cons]
    rw [Prog.run_all_nil]
    obtain ⟨hd1, hr1, hm1, hh1, hf1⟩ := modFab_run (fun f => { f with released := true, releaseDue := false }) s
    generalize (modFab fun f => { f with released := true, releaseDue := false }).run s = x at *
    have h2 := setB_onlyWord F.ARR_FAB_STATUS_RELEASED true x
    have hf2 : ((setB F.ARR_FAB_STATUS_RELEASED true).run x).free = x.free := (setF_undrawn _ _).free x
    generalize (setB F.ARR_FAB_STATUS_RELEASED true).run x = y at *
    have h3 := logC_run_onlyLogs 0xB063 0 113 [] none y
    have hf3 := (logC_undrawn 0xB063 0 113 [] none).free y
    generalize (logC 0xB063 0 113 []).run y = z at *
    refine ⟨?_, fun o ho => ?_, by rw [h3.mem, h2.mem, hm1], by rw [h3.host, h2.host, hh1], by rw [hf3, hf2, hf1]⟩
    · rw [Fabric.pinsFree, hr, if_neg Bool.false_ne_true]
      rw [h3.dev, h2.dev, hd1]
    · rw [List.mem_cons, not_or] at ho
      rw [h3.regs o ho.2, h2.words o ho.1, State.word_of_regs hr1]

theorem Fabric.pinsFree_released (f : Fabric) : f.pinsFree.released = true := by
  rw [Fabric.pinsFree]
  split
  · assumption
  · rfl

theorem Fabric.pinsFree_eq (f : Fabric) : f.pinsFree = { f with released := f.pinsFree.released, releaseDue := f.pinsFree.releaseDue } := by
  rw [Fabric.pinsFree]
  split <;> rfl

/-! ## ARR_FAB_CTL -/

/-- What RESET and RELEASE make of the fabric. -/
def Fabric.ctl (clear release : Bool) (f : Fabric) : Fabric :=
  let g := if clear then f.cleared else f
  if release then { g with releaseDue := !g.released } else g

theorem Fabric.ctl_kept (clear release : Bool) (f : Fabric) :
    f.ctl clear release = { f with regs := (f.ctl clear release).regs, releaseDue := (f.ctl clear release).releaseDue } := by
  cases clear <;> cases release <;> rfl

theorem Fabric.ctl_releaseDue (clear : Bool) (f : Fabric) : (f.ctl clear true).releaseDue = !f.released := by
  cases clear <;> rfl

theorem Sparse.get_filter_dropped {α : Type} (d : Nat → α) (f : Nat × α → Bool) (l : Sparse α) (k : Nat)
    (hf : ∀ w, f (k, w) = false) : Sparse.get d (l.filter f) k = d k := by
  induction l with
  | nil => rfl
  | cons p t ih =>
    obtain ⟨a, w⟩ := p
    by_cases h : a = k
    · simp [h, hf, ih]
    · cases hp : f (a, w) <;> simp [hp, Sparse.get, h, ih]

theorem Fabric.ctl_reg_low (release : Bool) (f : Fabric) {k : Nat} (hk : k < 0x50000) : (f.ctl true release).reg k = false := by
  have hreg : (f.ctl true release).reg k = f.cleared.reg k := by cases release <;> rfl
  rw [hreg]
  exact Sparse.get_filter_dropped bitZero _ f.regs k fun w => decide_eq_false (by omega)

theorem Fabric.ctl_reg_high (clear release : Bool) (f : Fabric) {k : Nat} (hk : 0x50000 ≤ k) : (f.ctl clear release).reg k = f.reg k := by
  have hreg : (f.ctl clear release).reg k = (if clear then f.cleared else f).reg k := by cases release <;> rfl
  rw [hreg]
  cases clear with
  | false => rfl
  | true => exact Sparse.get_filter_other bitZero _ f.regs k fun w => decide_eq_true hk

/-- A write of ARR_FAB_CTL before the state of unit 113 changes. -/
def setCtl (hold clear release : Bool) : Prog :=
  all [setB F.ARR_FAB_CTL_HOLD hold, when clear (modFab Fabric.cleared), when release (modFab fun f => { f with releaseDue := !f.released })]

structure CtlSet (s u : State) (hold clear release : Bool) : Prop where
  hold : u.bit F.ARR_FAB_CTL_HOLD = hold
  dev : u.dev = { s.dev with fab := s.dev.fab.ctl clear release }
  words : ∀ o, o ≠ F.ARR_FAB_CTL_HOLD.off → u.word o = s.word o
  mem : u.mem = s.mem
  host : u.host = s.host

theorem setCtl_run (hold clear release : Bool) (s : State) : CtlSet s ((setCtl hold clear release).run s) hold clear release := by
  rw [setCtl]
  iterate 3 rw [Prog.run_all_cons]
  rw [Prog.run_all_nil]
  have h1 := setB_onlyWord F.ARR_FAB_CTL_HOLD hold s
  have hb : ((setB F.ARR_FAB_CTL_HOLD hold).run s).bit F.ARR_FAB_CTL_HOLD = hold := Prog.bit_setB_same rfl (by decide) hold s
  generalize (setB F.ARR_FAB_CTL_HOLD hold).run s = x at *
  have hrun : ∃ f, (when release (modFab fun f => { f with releaseDue := !f.released })).run ((when clear (modFab Fabric.cleared)).run x) =
      { x with dev := { x.dev with fab := f } } ∧ f = x.dev.fab.ctl clear release := by
    cases clear <;> cases release <;> exact ⟨_, rfl, rfl⟩
  obtain ⟨f, hf, rfl⟩ := hrun
  rw [hf]
  exact ⟨hb, by rw [h1.dev], h1.words, h1.mem, h1.host⟩

/-- A write of ARR_FAB_CTL to a configured fabric. -/
theorem writeFabCtl_run {s : State} (hon : s.fabOn = true) (v : Word) : (writeFabCtl v.toNat).run s =
    fabSettle.run ((all [when (v.getLsbD 0) (declareUnit 113 1), when (!v.getLsbD 0 && s.unitState 113 == 1) fabRun]).run
      ((setCtl (v.getLsbD 0) (v.getLsbD 1) (v.getLsbD 2)).run s)) := by
  rw [writeFabCtl, Prog.run_look]
  simp only [hon, Bool.true_and, getLsbD_eq]
  rfl

theorem fabCtl_exec {s : State} {p : Path} (hr : s.reach p F.ARR_FAB_CTL_HOLD.off = true) (v : Word) {c : Instr}
    (hc : exec c s = done (writing p F.ARR_FAB_CTL_HOLD.off (writeFabCtl v.toNat)) s) : exec c s = .next ((writeFabCtl v.toNat).run s) := by
  rw [hc, done_eq, writing_run_of_reach hr (by decide)]

/-- HOLD has been written with 1. -/
structure Held (s u : State) (clear release : Bool) : Prop where
  hold : u.bit F.ARR_FAB_CTL_HOLD = true
  state : u.unitState 113 = 1
  fab : (s.dev.fab.ctl clear release).Resettled u.dev.fab
  high : ∀ k, 512 ≤ k → u.dev.fab.reg k = (s.dev.fab.ctl clear release).reg k
  zero : ∀ m, cellType s.dev.fab.cfg m = 1 ∨ cellType s.dev.fab.cfg m = 2 → (s.dev.fab.ctl clear release).reg m = false → u.dev.fab.reg m = false
  bytes : SameBytes s u
  host : SameHost s u

theorem writeFabCtl_hold {s : State} (hon : s.fabOn = true) {v : Word} (hv : v.getLsbD 0 = true) :
    Held s ((writeFabCtl v.toNat).run s) (v.getLsbD 1) (v.getLsbD 2) := by
  rw [writeFabCtl_run hon, hv, Prog.run_all_cons, Prog.run_all_cons, Prog.run_all_nil, Prog.run_when, Prog.run_when, if_neg (by simp), if_pos rfl]
  have h1 := setCtl_run true (v.getLsbD 1) (v.getLsbD 2) s
  generalize (setCtl true (v.getLsbD 1) (v.getLsbD 2)).run s = x at *
  have h2 := declareUnit_line 113 1 x
  have hs2 := declareUnit_state (by decide : 1 < 16) 113 x
  generalize (declareUnit 113 1).run x = y at *
  have hfab : y.dev.fab = s.dev.fab.ctl (v.getLsbD 1) (v.getLsbD 2) := by rw [h2.dev, h1.dev]
  have hcfg : y.dev.fab.cfg = s.dev.fab.cfg := by rw [hfab, Fabric.ctl_kept]
  have h3 := fabSettle_run y
  have h3s := fabSettle_resettled y
  have h3h := fun k hk => fabSettle_reg_high (k := k) hk y
  have h3z := fun m => fabSettle_reg_zero (m := m) (s := y)
  generalize fabSettle.run y = z at *
  rw [hfab] at h3s h3h h3z
  rw [hfab] at hcfg
  rw [hcfg] at h3z
  refine ⟨?_, ?_, h3s, h3h, fun m ht hz => h3z m ht hz, fun a => ?_, fun a => ?_⟩
  · exact (h3.bit (f := F.ARR_FAB_CTL_HOLD) (by decide)).trans ((congrArg (· == 1) (h2.fld (f := F.ARR_FAB_CTL_HOLD) (by decide))).trans h1.hold)
  · exact (h3.fld (f := F.LEDG_UNIT_STATE 113) (by decide)).trans hs2
  · rw [h3.mem, h2.mem, h1.mem]
  · rw [h3.host, h2.host, h1.host]

/-- The fabric runs. -/
structure FabRuns (s u : State) : Prop where
  state : u.unitState 113 = 2
  mem : u.dev.fab.mem = s.dev.fab.mem
  free : s.dev.fab.autoRel = true → u.dev.fab.released = true
  words : ∀ o, o ∉ (0x40100 + 4 * 113) :: F.ARR_FAB_STATUS_RELEASED.off :: logRegs → u.word o = s.word o
  memory : u.mem = s.mem
  host : u.host = s.host

theorem fabRun_run (s : State) : FabRuns s (fabRun.run s) := by
  rw [fabRun, Prog.run_look]
  iterate 3 rw [Prog.run_all_cons]
  rw [Prog.run_all_nil]
  have h1 := declareUnit_line 113 2 s
  have hs1 := declareUnit_state (by decide : 2 < 16) 113 s
  generalize (declareUnit 113 2).run s = x at *
  obtain ⟨hd2, hr2, hm2, hh2, -⟩ := modFab_run (fun f => { f with ran := true }) x
  generalize (modFab fun f => { f with ran := true }).run x = y at *
  have hs2 : y.unitState 113 = 2 := (State.fld_of_word (State.word_of_regs hr2 _)).trans hs1
  have hfab : y.dev.fab.mem = s.dev.fab.mem := by rw [hd2, h1.dev]
  have hw : ∀ o, o ≠ 0x40100 + 4 * 113 → y.word o = s.word o := fun o ho => (State.word_of_regs hr2 o).trans (h1.words o ho)
  have hm : y.mem = s.mem := hm2.trans h1.mem
  have hh : y.host = s.host := hh2.trans h1.host
  rw [Prog.run_when]
  split
  · have h3 := releasePins_run y
    generalize releasePins.run y = z at *
    refine ⟨?_, ?_, fun _ => ?_, fun o ho => ?_, h3.mem.trans hm, h3.host.trans hh⟩
    · exact (State.fld_of_word (f := F.LEDG_UNIT_STATE 113) (h3.words _ (by decide))).trans hs2
    · rw [h3.dev, ← hfab, Fabric.pinsFree_eq]
    · rw [h3.dev]
      exact Fabric.pinsFree_released _
    · rw [List.mem_cons, not_or] at ho
      exact (h3.words o ho.2).trans (hw o ho.1)
  · next h =>
    refine ⟨hs2, hfab, fun ha => absurd ha h, fun o ho => hw o ?_, hm, hh⟩
    rw [List.mem_cons, not_or] at ho
    exact ho.1

theorem writeFabCtl_run_on {s : State} (hst : s.unitState 113 = 1) {v : Word} (hv : v.getLsbD 0 = false) :
    ((writeFabCtl v.toNat).run s).bit F.ARR_FAB_CTL_HOLD = false ∧ ((writeFabCtl v.toNat).run s).unitState 113 = 2 ∧
    (s.dev.fab.autoRel = true → ((writeFabCtl v.toNat).run s).dev.fab.released = true) ∧
    ((writeFabCtl v.toNat).run s).dev.fab.mem = s.dev.fab.mem ∧ SameBytes s ((writeFabCtl v.toNat).run s) ∧
    SameHost s ((writeFabCtl v.toNat).run s) := by
  have hon : s.fabOn = true := by rw [State.fabOn, hst]; rfl
  rw [writeFabCtl_run hon, hv, hst, Prog.run_all_cons, Prog.run_all_cons, Prog.run_all_nil, Prog.run_when, Prog.run_when, if_pos (by rfl),
    if_neg Bool.false_ne_true]
  have h1 := setCtl_run false (v.getLsbD 1) (v.getLsbD 2) s
  generalize (setCtl false (v.getLsbD 1) (v.getLsbD 2)).run s = x at *
  have h2 := fabRun_run x
  generalize fabRun.run x = y at *
  have h3 := fabSettle_run y
  have h3s := fabSettle_resettled y
  generalize fabSettle.run y = z at *
  refine ⟨?_, ?_, fun ha => ?_, ?_, fun a => ?_, fun a => ?_⟩
  · exact (h3.bit (f := F.ARR_FAB_CTL_HOLD) (by decide)).trans
      ((congrArg (· == 1) (State.fld_of_word (f := F.ARR_FAB_CTL_HOLD) (h2.words _ (by decide)))).trans h1.hold)
  · exact (h3.fld (f := F.LEDG_UNIT_STATE 113) (by decide)).trans h2.state
  · have hrel : x.dev.fab.autoRel = s.dev.fab.autoRel := by
      rw [h1.dev, Fabric.ctl_kept]
      rfl
    rw [h3s]
    exact h2.free (hrel.trans ha)
  · rw [h3s]
    show y.dev.fab.mem = _
    rw [h2.mem, h1.dev, Fabric.ctl_kept]
  · rw [h3.mem, h2.memory, h1.mem]
  · rw [h3.host, h2.host, h1.host]

end Sys2Proof.Machine
end

section
/-!
The memory window of the fabric, the loss of its clock, UCATCH, and edges of FABCLK (O47).
-/
namespace Sys2Proof.Machine

/-! ## The memory window -/

theorem windowBits_getElem? {s : State} {j k : Nat} (h : (windowBits s)[j]? = some k) :
    k = s.fld F.ARR_FAB_MSEL_MEM * 18432 + s.fld F.ARR_FAB_MSEL_ADDR * 36 + j := by
  rw [windowBits, memBits, List.getElem?_map] at h
  obtain ⟨i, hi, rfl⟩ := Option.map_eq_some_iff.mp h
  obtain ⟨hlt, rfl⟩ := List.getElem?_eq_some_iff.mp hi
  rw [List.getElem_range]
  show (if 5 < 3 then _ else _ * 18432 + (s.fld F.ARR_FAB_MSEL_ADDR * (36 / 9) + j / 9) * 9 + j % 9) = _
  rw [if_neg (by decide)]
  omega

theorem fabMdataWrite_completes {s : State} {p : Path} {v : Word} (hr : s.reach p F.ARR_FAB_MDATA_HI.off = true) (hw : s.windowOn = true) :
    Completes (.fabMdataWrite p v) s fun u =>
      (∀ j k, (windowBits s)[j]? = some k → u.dev.fab.memBit k = inMask (s.fld F.ARR_FAB_MDATA_LO + 2 ^ 32 * (v.toNat % 16)) j) ∧
      (∀ k, k ∉ windowBits s → u.dev.fab.memBit k = s.dev.fab.memBit k) ∧ SameBytes s u ∧ SameHost s u := by
  refine completes_done (p := writing p F.ARR_FAB_MDATA_HI.off (writeMdataHi p v.toNat)) rfl ?_
  rw [writing_run_of_reach hr (by decide), writeMdataHi, Prog.run_look, if_pos hw]
  dsimp only
  generalize hl : (windowBits s).zipIdx.map (fun x => (x.1, inMask (s.fld F.ARR_FAB_MDATA_LO + 2 ^ 32 * (v.toNat % 16)) x.2)) = l
  iterate 3 rw [Prog.run_all_cons]
  rw [Prog.run_all_nil]
  have h1 := setF_onlyWord F.ARR_FAB_MDATA_HI v.toNat s
  generalize (setF F.ARR_FAB_MDATA_HI v.toNat).run s = x at *
  obtain ⟨hd2, -, hm2, hh2, -⟩ := modFab_run (fun f => f.setMems l) x
  generalize (modFab fun f => f.setMems l).run x = y at *
  have h3 := fabSettle_run y
  have h3s := fabSettle_resettled y
  generalize fabSettle.run y = z at *
  have hbit : ∀ k, z.dev.fab.memBit k = Sparse.get bitZero (putBits s.dev.fab.mem l) k := fun k => by
    have hmem : z.dev.fab.mem = putBits s.dev.fab.mem l := by
      rw [h3s]
      show y.dev.fab.mem = _
      rw [hd2, h1.dev, Fabric.setMems_eq]
    rw [Fabric.memBit, hmem]
  refine ⟨fun j k hj => ?_, fun k hk => ?_, fun a => ?_, fun a => ?_⟩
  · rw [hbit, ← hl]
    refine get_putBits_mem (List.mem_map.mpr ⟨(k, j), List.mem_zipIdx_iff_getElem?.mpr hj, rfl⟩) fun x hx e => ?_
    obtain ⟨y, hy, rfl⟩ := List.mem_map.mp hx
    have h1 := windowBits_getElem? (List.mem_zipIdx_iff_getElem?.mp hy)
    have h2 := windowBits_getElem? hj
    have hkey : y.1 = k := e
    have hnum : y.2 = j := by omega
    show inMask _ y.2 = _
    rw [hnum]
  · rw [hbit, ← hl]
    refine get_putBits_other fun x hx e => hk ?_
    obtain ⟨y, hy, rfl⟩ := List.mem_map.mp hx
    have e' : y.1 = k := e
    rw [← e']
    exact List.mem_iff_getElem?.mpr ⟨y.2, List.mem_zipIdx_iff_getElem?.mp hy⟩
  · rw [h3.mem, hm2, h1.mem]
  · rw [h3.host, hh2, h1.host]

theorem natOfBits_lt (l : List Bool) : natOfBits l < 2 ^ l.length := by
  induction l with
  | nil => exact Nat.one_pos
  | cons b l ih =>
    rw [List.length_cons, Nat.pow_succ]
    show (if b then 1 else 0) + 2 * natOfBits l < _
    cases b <;> simp <;> omega

theorem setWord_onlyWord (off v : Nat) (s : State) : OnlyWord s ((setWord off v).run s) off :=
  ⟨rfl, fun o ho => by rw [Prog.run_setWord, State.word_reg, if_neg ho], rfl, rfl⟩

/-- A read of MDATA_LO while the window works has fetched the word. -/
structure Fetched (s u : State) (w : Nat) : Prop where
  low : u.word F.ARR_FAB_MDATA_LO.off = BitVec.ofNat 32 (w % 2 ^ 32)
  high : u.fld F.ARR_FAB_MDATA_HI = w % 2 ^ 36 / 2 ^ 32
  other : ∀ o, o ≠ F.ARR_FAB_MDATA_LO.off → o ≠ F.ARR_FAB_MDATA_HI.off → u.word o = s.word o
  dev : u.dev = s.dev
  mem : u.mem = s.mem
  host : u.host = s.host

theorem readMdata_run {s : State} (hw : s.windowOn = true) : Fetched s (readMdata.run s) (natOfBits ((windowBits s).map s.dev.fab.memBit)) := by
  rw [readMdata, Prog.run_look, Prog.run_when, if_pos hw]
  generalize natOfBits ((windowBits s).map s.dev.fab.memBit) = w
  dsimp only
  iterate 2 rw [Prog.run_all_cons]
  rw [Prog.run_all_nil]
  have hlow : ((setWord F.ARR_FAB_MDATA_LO.off (w % 2 ^ 32)).run s).word F.ARR_FAB_MDATA_LO.off = BitVec.ofNat 32 (w % 2 ^ 32) := by
    rw [Prog.run_setWord, State.word_reg, if_pos rfl]
  have h1 := setWord_onlyWord F.ARR_FAB_MDATA_LO.off (w % 2 ^ 32) s
  generalize (setWord F.ARR_FAB_MDATA_LO.off (w % 2 ^ 32)).run s = x at *
  have h2 := setF_onlyWord F.ARR_FAB_MDATA_HI (w / 2 ^ 32) x
  have hhi := Prog.fld_setF_same F.ARR_FAB_MDATA_HI (w / 2 ^ 32) x (by decide)
  generalize (setF F.ARR_FAB_MDATA_HI (w / 2 ^ 32)).run x = y at *
  refine ⟨(h2.words _ (by decide)).trans hlow, hhi.trans ?_, fun o h h' => (h2.words o h').trans (h1.words o h),
    h2.dev.trans h1.dev, h2.mem.trans h1.mem, h2.host.trans h1.host⟩
  show w / 2 ^ 32 % 2 ^ 4 = _
  omega

/-- A read of a word: it is fetched where that is due, answered, and has its effect. -/
theorem readCycle_run {off : Nat} (ha : off % 4 = 0) (p : Path) (acked : Bool) (s : State) :
    (readCycle [⟨p, { off }, acked⟩]).run s = (readEffect p off acked).run
      (((fetchFor p off).run s).replied p (toBytes 4 (((fetchFor p off).run s).readWord p off))) := by
  have hfit : ([⟨p, { off }, acked⟩] : List Reader).filter readFits = [⟨p, { off }, acked⟩] := by simp [readFits, ha]
  rw [readCycle, hfit]
  simp only [Prog.run_all_cons, Prog.run_all_nil, Prog.run_each_cons, Prog.run_each_nil, Prog.run_look]
  rfl

/-- What the reach of a path other than a virtual function's depends on. -/
theorem State.reach_of_words {s u : State} {p : Path} (hp : ∀ n, p ≠ .vf n) (hd : u.dev = s.dev) (hdev : u.word 0x60000 = s.word 0x60000)
    (hline : ∀ n, n ≤ 116 → u.word (0x40100 + 4 * n) = s.word (0x40100 + 4 * n)) (off : Nat) : u.reach p off = s.reach p off := by
  have hunit : ∀ n, n ≤ 116 → u.unitState n = s.unitState n ∧ u.fenced n = s.fenced n := fun n hn =>
    ⟨State.fld_of_word (hline n hn), congrArg (· == 1) (State.fld_of_word (f := F.LEDG_UNIT_FENCED n) (hline n hn))⟩
  have h1 : u.devState = s.devState := State.fld_of_word hdev
  have hheld : u.heldReset = s.heldReset := by rw [State.heldReset, State.heldReset, hd]
  have hrest : u.inRest = s.inRest := by rw [State.inRest, State.inRest, h1]
  have hfn : u.fnOpen 0 = s.fnOpen 0 := by
    rw [State.fnOpen, State.fnOpen, State.linkUp, State.linkUp, (hunit 43 (by omega)).1, (hunit 44 (by omega)).1, (hunit 44 (by omega)).2]
  have husb : u.unitState 116 = s.unitState 116 := (hunit 116 (le_refl _)).1
  cases p with
  | vf n => exact absurd rfl (hp n)
  | _ =>
    unfold State.reach
    dsimp only
    simp only [hd, hheld, hrest, h1, hfn, husb]

theorem fabMdataRead_completes {s : State} {p : Path} (hp : ∀ n, p ≠ .vf n) (hr : s.reach p F.ARR_FAB_MDATA_LO.off = true) (hw : s.windowOn = true) :
    Completes (.fabMdataRead p) s fun u =>
      u.dev.out = s.dev.out ++ [.reply p (toBytes 4 (natOfBits ((windowBits s).map s.dev.fab.memBit) % 2 ^ 32))] ∧
      u.fld F.ARR_FAB_MDATA_HI = natOfBits ((windowBits s).map s.dev.fab.memBit) / 2 ^ 32 ∧ u.dev.fab = s.dev.fab ∧ SameBytes s u ∧ SameHost s u := by
  refine completes_done (p := readCycle [⟨p, ⟨F.ARR_FAB_MDATA_LO.off, .word⟩, true⟩]) rfl ?_
  have hlen : ((windowBits s).map s.dev.fab.memBit).length = 36 := by
    rw [List.length_map, windowBits, memBits, List.length_map, List.length_range]
    rfl
  have hlt := natOfBits_lt ((windowBits s).map s.dev.fab.memBit)
  rw [hlen] at hlt
  have hfetch := readMdata_run hw
  generalize natOfBits ((windowBits s).map s.dev.fab.memBit) = w at *
  have hf : (fetchFor p F.ARR_FAB_MDATA_LO.off).run s = readMdata.run s := by
    rw [fetchFor, Prog.run_look, hr, Prog.run_when, if_pos (by rfl)]
  have hreach : (readMdata.run s).reach p F.ARR_FAB_MDATA_LO.off = true :=
    (State.reach_of_words hp hfetch.dev (hfetch.other _ (by decide) (by decide)) (fun u hu => hfetch.other _ (by show 0x40100 + 4 * u ≠ 0x42081c; omega)
      (by show 0x40100 + 4 * u ≠ 0x420820; omega)) _).trans hr
  have hwin : (readMdata.run s).windowOn = true := by
    rw [State.windowOn, State.fabOn, State.unitState, State.fld_of_word (f := F.LEDG_UNIT_STATE 113) (hfetch.other _ (by decide) (by decide)),
      State.bit, State.fld_of_word (f := F.ARR_FAB_CTL_HOLD) (hfetch.other _ (by decide) (by decide))]
    exact hw
  rw [readCycle_run (by decide), hf]
  generalize readMdata.run s = x at *
  have hfields : RegMap.fields F.ARR_FAB_MDATA_LO.off = [⟨0, 32, .rw, 0, .H⟩] := by decide +kernel
  have hread : x.readWord p F.ARR_FAB_MDATA_LO.off = w % 2 ^ 32 := by
    have hval : x.regValue F.ARR_FAB_MDATA_LO.off = w % 2 ^ 32 := by
      have hview : x.viewOf F.ARR_FAB_MDATA_LO.off = none := by
        show x.arrWord 0x81C 0x42081c = none
        simp [State.arrWord, hwin]
      rw [State.regValue, hview, Option.getD_none, hfetch.low, BitVec.toNat_ofNat, Nat.mod_mod]
    have hne : (RegMap.fields F.ARR_FAB_MDATA_LO.off).isEmpty = false := by rw [hfields]; rfl
    have hhigh : isPairHigh F.ARR_FAB_MDATA_LO.off = false := by decide
    cases p with
    | vf n => exact absurd rfl (hp n)
    | _ => simp only [State.readWord, hreach, hne, hhigh, hval, Bool.not_true, Bool.false_eq_true, if_false]
  rw [hread, readEffect_run_still hp (a := F.ARR_FAB_MDATA_LO.off) (if_neg (by decide) |>.trans (if_neg (by decide)))
    (fun f hf => by rw [hfields, List.mem_singleton] at hf; rw [hf]; decide)]
  refine ⟨by rw [← hfetch.dev]; rfl, ?_, ?_, fun a => congrArg (·.read a) hfetch.mem, fun a => congrArg (·.read a) hfetch.host⟩
  · show x.fld F.ARR_FAB_MDATA_HI = _
    rw [hfetch.high, Nat.mod_eq_of_lt hlt]
  · show x.dev.fab = _
    rw [hfetch.dev]

end Sys2Proof.Machine
end

section
/-!
The clock of the fabric, UCATCH, and edges of FABCLK (O47).
-/
namespace Sys2Proof.Machine

theorem fabClkLost_completes {s : State} (hon : s.fabOn = true) (hr : s.ready = true) (hl : s.dev.fab.clkLost = false)
    (ht : s.reached (s.dev.fab.edgeAt + 250) = true) : Completes .fabClkLost s fun u => u.dev.fab = { s.dev.fab with clkLost := true } ∧
      u.dev.log.count ≠ s.dev.log.count ∧ SameRegsBut s u catchRegs ∧ SameBytes s u ∧ SameHost s u := by
  refine completes_done (p := when (s.fabOn && s.ready && !s.dev.fab.clkLost && s.reached (s.dev.fab.edgeAt + 250))
    (all [modFab fun f => { f with clkLost := true }, logC 0xB062 1 113 []])) rfl ?_
  rw [hon, hr, hl, ht, Prog.run_when, if_pos (by rfl), Prog.run_all_cons, Prog.run_all_cons, Prog.run_all_nil]
  obtain ⟨hd1, hr1, hm1, hh1, -⟩ := modFab_run (fun f => { f with clkLost := true }) s
  generalize (modFab fun f => { f with clkLost := true }).run s = x at *
  have h2 := logC_run_onlyLogs 0xB062 1 113 [] none x
  have hc2 := logC_count_ne 0xB062 1 113 [] none x
  generalize (logC 0xB062 1 113 []).run x = y at *
  refine ⟨by rw [h2.dev, hd1], ?_, fun o ho => (h2.regs o ho).trans (State.word_of_regs hr1 o), fun a => by rw [h2.mem, hm1], fun a => by rw [h2.host, hh1]⟩
  rwa [hd1] at hc2

theorem ucatchEdge_completes {s : State} (hon : s.fabOn = true) (hr : s.ready = true) (hu : s.dev.fab.ucRises ≠ 0) :
    Completes .ucatchEdge s fun u => u.fld F.ARR_FAB_UCATCHES = min (s.fld F.ARR_FAB_UCATCHES + 1) (2 ^ 32 - 1) ∧
      u.dev.fab = { s.dev.fab with ucRises := s.dev.fab.ucRises - 1 } ∧ SameBytes s u ∧ SameHost s u ∧
      SameRegsBut s u (F.ARR_FAB_UCATCHES.off :: catchRegs) := by
  refine completes_done (p := when (s.fabOn && s.ready && s.dev.fab.ucRises != 0) (all [modFab fun f => { f with ucRises := f.ucRises - 1 },
    incF F.ARR_FAB_UCATCHES, logLim (.ticks 250000) 0 0xB061 0 113 [s.fld F.ARR_FAB_SWOUT]])) rfl ?_
  have hne : (s.dev.fab.ucRises != 0) = true := bne_iff_ne.mpr hu
  rw [hon, hr, hne, Prog.run_when, if_pos (by rfl)]
  iterate 3 rw [Prog.run_all_cons]
  rw [Prog.run_all_nil]
  generalize s.fld F.ARR_FAB_SWOUT = w
  obtain ⟨hd1, hr1, hm1, hh1, -⟩ := modFab_run (fun f => { f with ucRises := f.ucRises - 1 }) s
  generalize (modFab fun f => { f with ucRises := f.ucRises - 1 }).run s = x at *
  have h2 : OnlyWord x ((incF F.ARR_FAB_UCATCHES).run x) F.ARR_FAB_UCATCHES.off := setF_onlyWord F.ARR_FAB_UCATCHES _ x
  have hc2 := Prog.fld_incF F.ARR_FAB_UCATCHES x (by decide)
  rw [State.fld_of_word (State.word_of_regs hr1 _)] at hc2
  generalize (incF F.ARR_FAB_UCATCHES).run x = y at *
  have h3 := (logLim_onlyLogs (.ticks 250000) 0 0xB061 0 113 [w] none).onlyLogs y
  generalize (logLim (.ticks 250000) 0 0xB061 0 113 [w]).run y = z at *
  refine ⟨(h3.fld (by decide)).trans hc2, by rw [h3.dev, h2.dev, hd1], fun a => by rw [h3.mem, h2.mem, hm1], fun a => by rw [h3.host, h2.host, hh1],
    fun o ho => ?_⟩
  rw [List.mem_cons, not_or] at ho
  exact (h3.regs o ho.2).trans ((h2.words o ho.1).trans (State.word_of_regs hr1 o))

/-! ## Edges of FABCLK -/

/-- The fabric after the registers of an edge of FABCLK have captured. -/
def Fabric.clocked (f : Fabric) (i : FabIn) (e : FabEdge) (now : Nat) : Fabric :=
  { f.edge i e none with clkHigh := true, edgeAt := now, clkLost := false }

theorem Fabric.clocked_eq (f : Fabric) (i : FabIn) (e : FabEdge) (now : Nat) : f.clocked i e now =
    { f with regs := (f.edge i e none).regs, mem := (f.edge i e none).mem, clkHigh := true, edgeAt := now, clkLost := false } := by
  rw [Fabric.clocked, Fabric.edge_kept]

/-- An edge of FABCLK, by its parts. -/
theorem fabEdge_run {e : FabEdge} (hc : e.clk = .fabclk) (hr : e.rising = true) (hn : e.near = false) (s : State) :
    (fabEdge e).run s = (all [.act .draw, look fun s => when s.dev.fab.releaseDue releasePins, fabSettle]).run
      ((look fun s => modFab fun f => f.clocked s.fabIn e s.now).run (fabSettle.run ((modFab fun f => { f with pins := e.pins % 2 ^ 48 }).run s))) := by
  rw [fabEdge]
  simp only [hc, hr, hn]
  rfl

/-- The registers have captured, and a draw has been made. -/
structure EdgeTaken (s u : State) (e : FabEdge) (f : Fabric) : Prop where
  fab : u.dev.fab = f.clocked s.fabIn e s.now
  settled : ∃ uc rises flags, f = (Fabric.keepLatches { s.dev.fab with pins := e.pins % 2 ^ 48 } s.fabIn).marked uc rises flags
  free : u.free = s.free + 1
  mem : u.mem = s.mem
  host : u.host = s.host

theorem edgeTaken_run {s : State} (hon : s.fabOn = true) (e : FabEdge) : ∃ f, EdgeTaken s ((Prog.act .draw).run
    ((look fun s => modFab fun f => f.clocked s.fabIn e s.now).run (fabSettle.run ((modFab fun f => { f with pins := e.pins % 2 ^ 48 }).run s)))) e f := by
  obtain ⟨hd1, hr1, hm1, hh1, hf1⟩ := modFab_run (fun f => { f with pins := e.pins % 2 ^ 48 }) s
  have hin1 := State.fabIn_modFab (fun f => { f with pins := e.pins % 2 ^ 48 }) s
  generalize (modFab fun f => { f with pins := e.pins % 2 ^ 48 }).run s = x at *
  have hon1 : x.fabOn = true := by
    rw [State.fabOn, State.unitState, State.fld_of_word (State.word_of_regs hr1 _)]
    exact hon
  have h2 := fabSettle_run x
  have h2f := fabSettle_undrawn.free x
  have h2s := fabSettle_fab x
  generalize fabSettle.run x = y at *
  have hiny : y.fabIn = s.fabIn := h2.fabIn.trans hin1
  have hnow : y.now = s.now := by rw [State.now, h2.dev, hd1]; rfl
  refine ⟨y.dev.fab, ?_, ?_, ?_, ?_, ?_⟩
  · rw [Prog.run_look, hiny, hnow]
    rfl
  · obtain ⟨-, h⟩ | ⟨-, uc, rises, flags, h⟩ := h2s
    · exact absurd (hon1.symm.trans h) (by decide)
    · refine ⟨uc, rises, flags, ?_⟩
      rw [h, hd1, hin1]
  · show y.free + 1 = _
    rw [h2f, hf1]
  · exact h2.mem.trans hm1
  · exact h2.host.trans hh1

/-- A due release, and the nets settling, after an edge. -/
structure EdgeEnded (s u : State) : Prop where
  pins : u.dev.fab.pins = s.dev.fab.pins
  edgeAt : u.dev.fab.edgeAt = s.dev.fab.edgeAt
  clkLost : u.dev.fab.clkLost = s.dev.fab.clkLost
  clkHigh : u.dev.fab.clkHigh = s.dev.fab.clkHigh
  fabMem : u.dev.fab.mem = s.dev.fab.mem
  due : s.dev.fab.releaseDue = true → u.dev.fab.released = true
  reg : ∀ m, cellType s.dev.fab.cfg m = 1 → cellArsel s.dev.fab.cfg m = 0 → u.dev.fab.reg m = s.dev.fab.reg m
  free : u.free = s.free
  mem : u.mem = s.mem
  host : u.host = s.host

theorem edgeEnded_run (s : State) : EdgeEnded s ((all [look fun s => when s.dev.fab.releaseDue releasePins, fabSettle]).run s) := by
  rw [Prog.run_all_cons, Prog.run_all_cons, Prog.run_all_nil, Prog.run_look, Prog.run_when]
  have hrel : ∃ x, (if s.dev.fab.releaseDue then releasePins.run s else s) = x ∧ x.mem = s.mem ∧ x.host = s.host ∧ x.free = s.free ∧
      x.dev.fab = { s.dev.fab with released := x.dev.fab.released, releaseDue := x.dev.fab.releaseDue } ∧
      (s.dev.fab.releaseDue = true → x.dev.fab.released = true) := by
    split
    · have h := releasePins_run s
      generalize releasePins.run s = x at *
      have hf : x.dev.fab = s.dev.fab.pinsFree := by rw [h.dev]
      refine ⟨x, rfl, h.mem, h.host, h.free, ?_, fun _ => ?_⟩
      · rw [hf]
        exact s.dev.fab.pinsFree_eq
      · rw [hf]
        exact Fabric.pinsFree_released _
    · next h => exact ⟨s, rfl, rfl, rfl, rfl, rfl, fun h' => absurd h' h⟩
  obtain ⟨x, hx, hm, hh, hfr, hfab, hdue⟩ := hrel
  rw [hx]
  clear hx
  have h2 := fabSettle_run x
  have h2s := fabSettle_resettled x
  have h2f := fabSettle_undrawn.free x
  have h2r := fun m => fabSettle_reg_kept (m := m) (s := x)
  generalize fabSettle.run x = y at *
  have hcfg : x.dev.fab.cfg = s.dev.fab.cfg := by rw [hfab]
  refine ⟨?_, ?_, ?_, ?_, ?_, fun h => ?_, fun m ht ha => ?_, h2f.trans hfr, h2.mem.trans hm, h2.host.trans hh⟩
  · rw [h2s, hfab]
  · rw [h2s, hfab]
  · rw [h2s, hfab]
  · rw [h2s, hfab]
  · rw [h2s, hfab]
  · rw [h2s]
    exact hdue h
  · rw [h2r m (.inl (by rw [hcfg]; exact ht)) (by rw [hcfg]; exact ha), Fabric.reg, hfab]
    rfl

theorem fabclkEdge_completes {s : State} {e : FabEdge} {m : Nat} (hon : s.fabOn = true) (hr : s.ready = true) (hc : e.clk = .fabclk)
    (hrise : e.rising = true) (hn : e.near = false) (ht : cellType s.dev.fab.cfg m = 1) (hk : cellCk s.dev.fab.cfg m = 0)
    (hi : cellInv s.dev.fab.cfg m = false) (ha : cellArsel s.dev.fab.cfg m = 0) (hp : cellCept s.dev.fab.cfg m = false) :
    Completes (.fabclkEdge e) s fun u => u.dev.fab.pins = e.pins % 2 ^ 48 ∧ u.dev.fab.edgeAt = s.now ∧ u.dev.fab.clkLost = false ∧
      u.dev.fab.clkHigh = true ∧ (s.bit F.ARR_FAB_CTL_HOLD = false →
        ∀ x, ((Fabric.keepLatches { s.dev.fab with pins := e.pins % 2 ^ 48 } s.fabIn).allCells s.fabIn
          ((Fabric.keepLatches { s.dev.fab with pins := e.pins % 2 ^ 48 } s.fabIn).settled s.fabIn))[m]? = some x → u.dev.fab.reg m = x.d) ∧
      (s.bit F.ARR_FAB_CTL_HOLD = true → u.dev.fab.reg m = s.dev.fab.reg m ∧ u.dev.fab.mem = s.dev.fab.mem) ∧
      (s.dev.fab.releaseDue = true → u.dev.fab.released = true) ∧ u.free = s.free + 1 ∧ SameBytes s u ∧ SameHost s u := by
  refine completes_done (p := when (s.fabOn && s.ready) (fabEdge e)) rfl ?_
  rw [hon, hr, Prog.run_when, if_pos (by rfl), fabEdge_run hc hrise hn, Prog.run_all_cons]
  obtain ⟨f, h1⟩ := edgeTaken_run hon e
  generalize (Prog.act .draw).run _ = x at *
  have h2 := edgeEnded_run x
  generalize (all [look fun s => when s.dev.fab.releaseDue releasePins, fabSettle]).run x = u at *
  obtain ⟨uc, rises, flags, hf⟩ := h1.settled
  have hpins : f = { { s.dev.fab with pins := e.pins % 2 ^ 48 } with regs := f.regs, ucatch := f.ucatch, ucRises := f.ucRises, flags := f.flags } := by
    rw [hf, Fabric.keepLatches_eq]
    rfl
  have hcfg : f.cfg = s.dev.fab.cfg := by rw [hpins]
  have hx := h1.fab
  rw [Fabric.clocked_eq] at hx
  have hxcfg : x.dev.fab.cfg = s.dev.fab.cfg := by rw [hx]; exact hcfg
  have hreg : u.dev.fab.reg m = (f.edge s.fabIn e none).reg m := by
    rw [h2.reg m (by rw [hxcfg]; exact ht) (by rw [hxcfg]; exact ha), Fabric.reg, hx]
    rfl
  refine ⟨?_, ?_, ?_, ?_, fun hh y hy => ?_, fun hh => ⟨?_, ?_⟩, fun hd => ?_, ?_, fun a => ?_, fun a => ?_⟩
  · rw [h2.pins, hx, hpins]
  · rw [h2.edgeAt, hx]
  · rw [h2.clkLost, hx]
  · rw [h2.clkHigh, hx]
  · rw [hreg]
    refine Fabric.edge_flop hh hc hrise (by rw [hcfg]; exact ht) (by rw [hcfg]; exact hk) (by rw [hcfg]; exact hi) (by rw [hcfg]; exact ha)
      (by rw [hcfg]; exact hp) ?_
    rw [hf, Fabric.allCells_marked, Fabric.settled_marked]
    exact hy
  · rw [hreg, Fabric.edge_held hc hh, hf]
    exact Fabric.keepLatches_reg_kept (f := { s.dev.fab with pins := e.pins % 2 ^ 48 }) (.inl ht) ha
  · rw [h2.fabMem, hx]
    show (f.edge s.fabIn e none).mem = _
    rw [Fabric.edge_held hc hh, hpins]
  · refine h2.due ?_
    rw [hx]
    show f.releaseDue = true
    rw [hpins]
    exact hd
  · rw [h2.free, h1.free]
  · rw [h2.mem, h1.mem]
  · rw [h2.host, h1.host]

end Sys2Proof.Machine
end

section
/-!
A frame of a serial audio port (O47; R460, R464, R475).
-/
namespace Sys2Proof.Machine

/-! ## What a frame leaves -/

/-- What the parts of a frame leave: all but the stamp, the port's line, the input entries and the ports. -/
structure FrameKept (s y : State) (k : Nat) : Prop where
  words : ∀ o, o ∉ [(F.AUD_FS_STAMP_LO k).off, (F.AUD_FS_STAMP_HI k).off, 0x40100 + 4 * (108 + k)] → y.word o = s.word o
  dev : y.dev = { s.dev with ins := y.dev.ins, ports := y.dev.ports }
  mem : y.mem = s.mem
  host : y.host = s.host

theorem FrameKept.trans {s t u : State} {k : Nat} (h : FrameKept s t k) (g : FrameKept t u k) : FrameKept s u k :=
  ⟨fun o ho => (g.words o ho).trans (h.words o ho), by rw [g.dev, h.dev], g.mem.trans h.mem, g.host.trans h.host⟩

theorem FrameKept.outSample {s y : State} {k : Nat} (h : FrameKept s y k) (i : Nat) : y.outSample k i = s.outSample k i := by
  rw [State.outSample, State.outSample, State.out, State.reached, h.dev]
  rfl

theorem OnlyInputs.frameKept {s u : State} (h : OnlyInputs s u) (k : Nat) : FrameKept s u k :=
  ⟨fun o _ => State.word_of_regs h.regs o, by rw [h.dev], h.mem, h.host⟩

section
variable {s y : State} {k : Nat} (hk : k < 4) (h : FrameKept s y k)
include hk h

/-- The port's registers apart from its stamp. -/
theorem FrameKept.fld {f : Fld} (h1 : f.off ≠ 0x40001c + 0x1000 * k) (h2 : f.off ≠ 0x400020 + 0x1000 * k) (h3 : 0x400000 ≤ f.off) : y.fld f = s.fld f :=
  State.fld_of_word (h.words _ (by
    simp only [List.mem_cons, List.not_mem_nil, or_false, not_or]
    exact ⟨h1, h2, by omega⟩))

theorem FrameKept.portSlots : y.portSlots k = s.portSlots k :=
  congrArg (· + 1) (h.fld hk (f := F.AUD_CFG_SLOTSM1 k) (by show 0x400008 + 0x1000 * k ≠ _; omega) (by show 0x400008 + 0x1000 * k ≠ _; omega)
    (by show _ ≤ 0x400008 + 0x1000 * k; omega))

theorem FrameKept.dataBits (raw : Nat) : y.dataBits k raw = s.dataBits k raw := by
  have hw : y.portWidth k = s.portWidth k := congrArg ([16, 24, 32].getD · 32) (h.fld hk (f := F.AUD_CFG_WIDTH k)
    (by show 0x400008 + 0x1000 * k ≠ _; omega) (by show 0x400008 + 0x1000 * k ≠ _; omega) (by show _ ≤ 0x400008 + 0x1000 * k; omega))
  have hg := h.fld hk (f := F.AUD_CFG_GUARD k) (by show 0x400008 + 0x1000 * k ≠ _; omega) (by show 0x400008 + 0x1000 * k ≠ _; omega)
    (by show _ ≤ 0x400008 + 0x1000 * k; omega)
  rw [State.dataBits, State.dataBits, hw, hg]

theorem FrameKept.owned : y.owned k = s.owned k := by
  have hs := h.fld hk (f := F.AUD_CFG_SHARED k) (by show 0x400008 + 0x1000 * k ≠ _; omega) (by show 0x400008 + 0x1000 * k ≠ _; omega)
    (by show _ ≤ 0x400008 + 0x1000 * k; omega)
  have ho := h.fld hk (f := F.AUD_OWN k) (by show 0x40000c + 0x1000 * k ≠ _; omega) (by show 0x40000c + 0x1000 * k ≠ _; omega)
    (by show _ ≤ 0x40000c + 0x1000 * k; omega)
  rw [State.owned, State.owned, h.portSlots hk, State.bit, hs, ho]
  rfl

theorem FrameKept.mapFld {i : Nat} (hi : i < 32) {f : Fld} (hf : f.off = 0x400100 + 0x1000 * k + 8 * i) : y.fld f = s.fld f :=
  h.fld hk (by omega) (by omega) (by omega)

end

theorem State.portSlots_le (s : State) (k : Nat) : s.portSlots k ≤ 32 := State.fld_lt (F.AUD_CFG_SLOTSM1 k) s

theorem State.portEntries_nodup (s : State) (k : Nat) : (s.portEntries k).Nodup := List.nodup_range.filter _

theorem State.mem_portEntries_lt {s : State} {k i : Nat} (h : i ∈ s.portEntries k) : i < 32 :=
  lt_of_lt_of_le (List.mem_range.mp (List.mem_filter.mp h).1) (s.portSlots_le k)

section
variable {s y : State} {k : Nat} (hk : k < 4) (h : FrameKept s y k)
include hk h

theorem FrameKept.portEntries : y.portEntries k = s.portEntries k := by
  rw [State.portEntries, State.portEntries, h.portSlots hk]
  refine List.filter_congr fun i hi => congrArg (· == 1) (h.mapFld hk (i := i) ?_ (f := F.AUD_IN_MAP_VALID k i) rfl)
  exact lt_of_lt_of_le (List.mem_range.mp hi) (s.portSlots_le k)

theorem FrameKept.portBytes (raw : Nat) : y.portBytes k 0 raw = s.portBytes k 0 raw := by
  rw [State.portBytes, State.portBytes, h.dataBits hk]
  rfl

theorem FrameKept.slotOut (i : Nat) : y.slotOut k i = s.slotOut k i := by
  have hmode := h.fld hk (f := F.AUD_CFG_MODE k) (by show 0x400008 + 0x1000 * k ≠ _; omega) (by show 0x400008 + 0x1000 * k ≠ _; omega)
    (by show _ ≤ 0x400008 + 0x1000 * k; omega)
  have hsync := h.fld hk (f := F.AUD_SYNC_SYNC k) (by show 0x400014 + 0x1000 * k ≠ _; omega) (by show 0x400014 + 0x1000 * k ≠ _; omega)
    (by show _ ≤ 0x400014 + 0x1000 * k; omega)
  have hself : y.selfFramed k = s.selfFramed k := congrArg (· == 3) hmode
  have hbits : ∀ fmt v, y.outBits k fmt v = s.outBits k fmt v := fun fmt v => by rw [State.outBits, State.outBits, h.dataBits hk]
  have hout : y.out (32 * k + i) = s.out (32 * k + i) := by rw [State.out, h.dev]; rfl
  unfold State.slotOut
  rw [hself, hsync, hbits, h.outSample]
  split
  · rfl
  · cases s.outSample k i with
    | none => rfl
    | some v =>
      dsimp only
      rw [hbits, hout]

end

/-- How many samples a chunk has depends on memory, on the planes and on the entry. -/
theorem State.chunkSize_congr {s y : State} (hm : y.mem = s.mem) (hp : y.dev.parts = s.dev.parts) {k : Nat} (hin : y.inp k = s.inp k) (slot : Nat) :
    y.chunkSize k slot = s.chunkSize k slot := by
  have hw : ∀ n o, y.slotW n o = s.slotW n o := fun n o => by rw [State.slotW, State.read32, State.readN, hm]; rfl
  have hplane : ∀ p, y.plane p = s.plane p := fun p => by rw [State.plane, State.part, hp]; rfl
  have hpart : y.slotPart slot = s.slotPart slot := by rw [State.slotPart, hw]; rfl
  have hgroup : y.slotGroup slot = s.slotGroup slot := by rw [State.slotGroup, hw]; rfl
  have hdecl : y.slotDeclared slot = s.slotDeclared slot := by rw [State.slotDeclared, hw]; rfl
  unfold State.chunkSize State.nominal
  rw [hdecl, hpart, hgroup, hplane, hin]

/-! ## The parts of a frame -/

/-- One entry takes its sample of a frame. -/
def entrySample (k : Nat) (data : List Nat) (suspect : Bool) (slot : Nat → Nat) (i : Nat) : Prog :=
  look fun s => addSample (32 * k + i) (slot i) (s.entryFlags k i).1 (s.entryFlags k i).2 suspect
    (s.portBytes k (s.fld (F.AUD_IN_MAP_FMT k i)) (data.getD i 0))

theorem deliver_eq (k : Nat) (data : List Nat) (suspect : Bool) (s : State) : (deliver k data suspect).run s =
    (each (s.portEntries k) (entrySample k data suspect fun i => s.fld (F.AUD_IN_MAP_STREAM k i))).run s := rfl

theorem entrySamples_onInputs (k : Nat) (data : List Nat) (suspect : Bool) (slot : Nat → Nat) (l : List Nat) :
    (each l (entrySample k data suspect slot)).Only Act.onInputs :=
  Prog.only_each.mpr fun _ _ _ => addSample_onInputs _ _ _ _ _ _

theorem entrySamples_other (k : Nat) (data : List Nat) (suspect : Bool) (slot : Nat → Nat) {l : List Nat} {j : Nat}
    (h : ∀ i ∈ l, 32 * k + i ≠ j) (s : State) : ((each l (entrySample k data suspect slot)).run s).inp j = s.inp j :=
  Prog.run_each_keeps (P := fun y => y.inp j = s.inp j) (fun i hi y hy => by
    rw [entrySample, Prog.run_look]
    exact (addSample_other (h i hi).symm _ _ _ _ _ y).trans hy) s rfl

/-- The samples of a frame go to the entries. -/
theorem deliver_entry {k : Nat} (hk : k < 4) (data : List Nat) (suspect : Bool) {s : State} {i : Nat} (hi : i ∈ s.portEntries k)
    (hfmt : s.fld (F.AUD_IN_MAP_FMT k i) = 0) (hframed : (s.inp (32 * k + i)).framed = true) (hfrom : (s.inp (32 * k + i)).from_ = none)
    (hfill : (s.inp (32 * k + i)).fill + 1 < s.chunkSize (32 * k + i) (s.fld (F.AUD_IN_MAP_STREAM k i))) :
    (((deliver k data suspect).run s).inp (32 * k + i)).fill = (s.inp (32 * k + i)).fill + 1 ∧
    (((deliver k data suspect).run s).inp (32 * k + i)).cur.bytes = (s.inp (32 * k + i)).cur.bytes ++ s.portBytes k 0 (data.getD i 0) := by
  rw [deliver_eq]
  obtain ⟨a, b, ha, hb, hrun⟩ := Prog.run_each_split (s.portEntries_nodup k) hi
    (entrySample k data suspect fun i => s.fld (F.AUD_IN_MAP_STREAM k i)) s
  have hins := (entrySamples_onInputs k data suspect (fun i => s.fld (F.AUD_IN_MAP_STREAM k i)) a).onlyInputs s
  have hbefore := entrySamples_other k data suspect (fun i => s.fld (F.AUD_IN_MAP_STREAM k i)) (l := a) (j := 32 * k + i)
    (fun j hj e => (ha j hj).2 (by omega)) s
  rw [hrun]
  generalize (each a _).run s = x at *
  rw [entrySamples_other k data suspect _ (fun j hj e => (hb j hj).2 (by omega)), entrySample, Prog.run_look]
  have hsize : x.chunkSize (32 * k + i) (s.fld (F.AUD_IN_MAP_STREAM k i)) = s.chunkSize (32 * k + i) (s.fld (F.AUD_IN_MAP_STREAM k i)) :=
    State.chunkSize_congr hins.mem (by rw [hins.dev]) hbefore _
  have hf : x.fld (F.AUD_IN_MAP_FMT k i) = 0 := (State.fld_of_word (State.word_of_regs hins.regs _)).trans hfmt
  obtain ⟨hg, -⟩ := addSample_run (s := x) (k := 32 * k + i) (slot := s.fld (F.AUD_IN_MAP_STREAM k i)) (by rw [hbefore]; exact hframed)
    (by rw [hbefore]; exact hfrom) (by rw [hsize]; omega) (x.entryFlags k i).1 (x.entryFlags k i).2 suspect (x.portBytes k 0 (data.getD i 0))
  rw [hsize, hbefore, (hins.frameKept k).portBytes hk] at hg
  rw [hf, (hins.frameKept k).portBytes hk]
  exact ⟨(hg.more hfill).1, (hg.more hfill).2.1⟩

/-- The parts of a frame before its samples are delivered: its stamp, the port's state, and its notes. -/
def frameHead (k now : Nat) : Prog :=
  all [setF (F.AUD_FS_STAMP_LO k) now, setF (F.AUD_FS_STAMP_HI k) (now / 2 ^ 32), declareUnit (108 + k) 3,
    modPort k fun p => { p with seen := true, yieldNext := false }]

theorem State.port_modPort_same (k : Nat) (f : Port → Port) (s : State) : ((modPort k f).run s).port k = f (s.port k) :=
  Sparse.get_put_same _ _ _ _

/-- A frame is stamped, and its port is ready. -/
structure FrameHeaded (s u : State) (k : Nat) : Prop where
  kept : FrameKept s u k
  low : u.fld (F.AUD_FS_STAMP_LO k) = s.now % 2 ^ 32
  high : u.fld (F.AUD_FS_STAMP_HI k) = s.now / 2 ^ 32
  state : u.unitState (108 + k) = 3
  seen : (u.port k).seen = true
  ins : u.dev.ins = s.dev.ins

theorem frameHead_run {k : Nat} (hk : k < 4) (s : State) : FrameHeaded s ((frameHead k s.now).run s) k := by
  have hmod : s.now / 2 ^ 32 % 2 ^ 32 = s.now / 2 ^ 32 := Nat.mod_eq_of_lt (by have := s.dev.hs.now.isLt; rw [State.now]; omega)
  rw [frameHead]
  iterate 4 rw [Prog.run_all_cons]
  rw [Prog.run_all_nil]
  have h1 := setF_onlyWord (F.AUD_FS_STAMP_LO k) s.now s
  have hlo := Prog.fld_setF_same (F.AUD_FS_STAMP_LO k) s.now s (by show 0 + 32 ≤ 32; decide)
  generalize (setF (F.AUD_FS_STAMP_LO k) s.now).run s = x at *
  have h2 := setF_onlyWord (F.AUD_FS_STAMP_HI k) (s.now / 2 ^ 32) x
  have hhi := (Prog.fld_setF_same (F.AUD_FS_STAMP_HI k) (s.now / 2 ^ 32) x (by show 0 + 32 ≤ 32; decide)).trans hmod
  generalize (setF (F.AUD_FS_STAMP_HI k) (s.now / 2 ^ 32)).run x = y at *
  have h3 := declareUnit_line (108 + k) 3 y
  have hs3 := declareUnit_state (by decide : 3 < 16) (108 + k) y
  generalize (declareUnit (108 + k) 3).run y = z at *
  have hp := State.port_modPort_same k (fun p => { p with seen := true, yieldNext := false }) z
  have h4 : ((modPort k fun p => { p with seen := true, yieldNext := false }).run z).dev =
      { z.dev with ports := ((modPort k fun p => { p with seen := true, yieldNext := false }).run z).dev.ports } ∧
    ((modPort k fun p => { p with seen := true, yieldNext := false }).run z).regs = z.regs ∧
    ((modPort k fun p => { p with seen := true, yieldNext := false }).run z).mem = z.mem ∧
    ((modPort k fun p => { p with seen := true, yieldNext := false }).run z).host = z.host := ⟨rfl, rfl, rfl, rfl⟩
  generalize (modPort k fun p => { p with seen := true, yieldNext := false }).run z = w at *
  obtain ⟨hd4, hr4, hm4, hh4⟩ := h4
  refine ⟨⟨fun o ho => ?_, ?_, by rw [hm4, h3.mem, h2.mem, h1.mem], by rw [hh4, h3.host, h2.host, h1.host]⟩, ?_, ?_, ?_, by rw [hp], ?_⟩
  · simp only [List.mem_cons, List.not_mem_nil, or_false, not_or] at ho
    exact (State.word_of_regs hr4 o).trans ((h3.words o ho.2.2).trans ((h2.words o ho.2.1).trans (h1.words o ho.1)))
  · rw [hd4, h3.dev, h2.dev, h1.dev]
  · exact (State.fld_of_word ((State.word_of_regs hr4 _).trans ((h3.words (0x40001c + 0x1000 * k) (by omega)).trans
      (h2.words (0x40001c + 0x1000 * k) (by show _ ≠ 0x400020 + 0x1000 * k; omega))))).trans hlo
  · exact (State.fld_of_word ((State.word_of_regs hr4 _).trans (h3.words (0x400020 + 0x1000 * k) (by omega)))).trans hhi
  · exact (State.fld_of_word (State.word_of_regs hr4 _)).trans hs3
  · rw [hd4, h3.dev, h2.dev, h1.dev]

/-! ## What a frame sends -/

/-- A frame that is not yielded has been sent. -/
structure FrameSent (s u : State) (k : Nat) : Prop where
  driven : (u.port k).driven = (s.owned k).map fun i => (i, s.slotOut k i)
  seen : (u.port k).seen = (s.port k).seen
  playing : ∀ i, i < 32 → (u.out (32 * k + i)).playing =
    if s.reached (s.out (32 * k + i)).start then (s.out (32 * k + i)).playing.drop 1 else (s.out (32 * k + i)).playing
  dev : u.dev = { s.dev with outs := u.dev.outs, ports := u.dev.ports }
  regs : u.regs = s.regs
  mem : u.mem = s.mem
  host : u.host = s.host

/-- The outputs of a port move on by one sample each. -/
theorem advanceOuts_run (k : Nat) {l : List Nat} (hl : l.Nodup) (s : State) :
    (∀ i ∈ l, ((each l fun i => modOut (32 * k + i) fun o => { o with playing := o.playing.drop 1 }).run s).out (32 * k + i) =
      { s.out (32 * k + i) with playing := (s.out (32 * k + i)).playing.drop 1 }) ∧
    ∀ i, i ∉ l → ((each l fun i => modOut (32 * k + i) fun o => { o with playing := o.playing.drop 1 }).run s).out (32 * k + i) =
      s.out (32 * k + i) := by
  have hother : ∀ i j x, i ≠ j → ((modOut (32 * k + j) fun o => { o with playing := o.playing.drop 1 }).run x).out (32 * k + i) =
      x.out (32 * k + i) := fun i j x h => by rw [State.out_modOut, if_neg (by omega)]
  refine ⟨Prog.run_each_once hl (v := fun i x => x.out (32 * k + i)) (g := fun _ o => { o with playing := o.playing.drop 1 })
    (fun i _ x => State.out_modOut_same _ _ x) (fun i _ j _ h x => hother i j x h) s, fun i hi => ?_⟩
  exact Prog.run_each_keeps (P := fun x => x.out (32 * k + i) = s.out (32 * k + i))
    (fun j hj x hx => (hother i j x (by rintro rfl; exact hi hj)).trans hx) s rfl

/-- What moving the outputs on may change. -/
def Act.onOuts : Act → Prop
  | .dev f => ∀ d, f d = { d with outs := (f d).outs }
  | _ => False

theorem Prog.Only.onlyOuts {p : Prog} (h : p.Only Act.onOuts) (s : State) : (p.run s).dev = { s.dev with outs := (p.run s).dev.outs } ∧
    (p.run s).regs = s.regs ∧ (p.run s).mem = s.mem ∧ (p.run s).host = s.host := by
  refine h.run (R := fun s t => t.dev = { s.dev with outs := t.dev.outs } ∧ t.regs = s.regs ∧ t.mem = s.mem ∧ t.host = s.host)
    (fun _ => ⟨rfl, rfl, rfl, rfl⟩) (fun h k => ⟨by rw [k.1, h.1], k.2.1.trans h.2.1, k.2.2.1.trans h.2.2.1, k.2.2.2.trans h.2.2.2⟩)
    (fun a s ha => ?_) s
  cases a with
  | dev f => exact ⟨ha s.dev, rfl, rfl, rfl⟩
  | _ => exact ha.elim

theorem sendFrame_run (k : Nat) (s : State) : FrameSent s ((sendFrame k false).run s) k := by
  rw [sendFrame, Prog.run_look]
  dsimp only
  iterate 3 rw [Prog.run_all_cons]
  rw [Prog.run_all_nil, Prog.run_when, if_neg Bool.false_ne_true, if_neg Bool.false_ne_true]
  have hp := State.port_modPort_same k (fun p => { p with driven := (s.owned k).map fun i => (i, s.slotOut k i) }) s
  have h1 : ((modPort k fun p => { p with driven := (s.owned k).map fun i => (i, s.slotOut k i) }).run s).dev = { s.dev with
      ports := ((modPort k fun p => { p with driven := (s.owned k).map fun i => (i, s.slotOut k i) }).run s).dev.ports } ∧
    ((modPort k fun p => { p with driven := (s.owned k).map fun i => (i, s.slotOut k i) }).run s).regs = s.regs ∧
    ((modPort k fun p => { p with driven := (s.owned k).map fun i => (i, s.slotOut k i) }).run s).mem = s.mem ∧
    ((modPort k fun p => { p with driven := (s.owned k).map fun i => (i, s.slotOut k i) }).run s).host = s.host := ⟨rfl, rfl, rfl, rfl⟩
  generalize (modPort k fun p => { p with driven := (s.owned k).map fun i => (i, s.slotOut k i) }).run s = x at *
  obtain ⟨hd1, hr1, hm1, hh1⟩ := h1
  have houts : ∀ j, x.out j = s.out j := fun j => by rw [State.out, hd1]; rfl
  have hmem : ∀ i, i < 32 → (i ∈ (List.range 32).filter (fun i => (s.outSample k i).isSome) ↔ (s.outSample k i).isSome = true) := fun i hi => by
    rw [List.mem_filter, List.mem_range]
    exact and_iff_right hi
  have hnd : ((List.range 32).filter fun i => (s.outSample k i).isSome).Nodup := List.nodup_range.filter _
  generalize ((List.range 32).filter fun i => (s.outSample k i).isSome) = l at *
  obtain ⟨hyes, hno⟩ := advanceOuts_run k hnd x
  have honly : (each l fun i => modOut (32 * k + i) fun o => { o with playing := o.playing.drop 1 }).Only Act.onOuts :=
    Prog.only_each.mpr fun _ _ _ => rfl
  obtain ⟨hd2, hr2, hm2, hh2⟩ := honly.onlyOuts x
  generalize (each l fun i => modOut (32 * k + i) fun o => { o with playing := o.playing.drop 1 }).run x = y at *
  have hport : y.port k = x.port k := by rw [State.port, hd2]; rfl
  refine ⟨by rw [hport, hp], by rw [hport, hp], fun i hi => ?_, by rw [hd2, hd1], hr2.trans hr1, hm2.trans hm1, hh2.trans hh1⟩
  by_cases hs : (s.outSample k i).isSome = true
  · rw [hyes i ((hmem i hi).mpr hs), houts]
    split
    · rfl
    · next h =>
      rw [State.outSample] at hs
      simp [h] at hs
  · rw [hno i fun h => hs ((hmem i hi).mp h), houts]
    split
    · next h =>
      rw [State.outSample] at hs
      have hnil : (s.out (32 * k + i)).playing = [] := by simpa [h] using hs
      rw [hnil]
      rfl
    · rfl

/-! ## A frame -/

/-- A frame whose port's framing is right and in which nobody chatters. -/
theorem frame_run {s : State} {k : Nat} {f : FrameIn} (hy : (s.port k).yieldNext = false) (hc : f.chatter = [])
    (hb : s.fld (F.AUD_CFG_ROLE k) ≠ 1 ∨ (s.port k).seen = false ∨ f.bclks = s.frameLen k) : ∃ b, (frame k f false).run s =
    (sendFrame k false).run ((deliver k f.data b).run ((frameHead k s.now).run s)) := by
  have hchat : s.chatterOf k f = [] := by
    rw [State.chatterOf, hc]
    split <;> rfl
  have hre : (s.fld (F.AUD_CFG_ROLE k) == 1 && !s.selfFramed k && (s.port k).seen && f.bclks != s.frameLen k) = false := by
    rcases hb with h | h | h
    · rw [beq_eq_false_iff_ne.mpr h]; rfl
    · rw [h, Bool.and_false, Bool.false_and]
    · rw [h, bne_self_eq_false, Bool.and_false]
  have hquiet : ∀ x, (noteChatter k []).run x = x := fun x => by
    rw [noteChatter, Prog.run_look, Prog.run_all_cons, Prog.run_all_cons, Prog.run_all_nil, Prog.run_each_nil, Prog.run_when,
      if_neg (by rw [List.isEmpty_nil, Bool.not_true, Bool.false_and]; exact Bool.false_ne_true)]
  refine ⟨false, ?_⟩
  rw [frame, Prog.run_look]
  dsimp only
  rw [hy, hchat, hre]
  iterate 8 rw [Prog.run_all_cons]
  rw [Prog.run_all_nil, hquiet, Prog.run_when, Prog.run_when, if_neg Bool.false_ne_true, frameHead]
  iterate 4 rw [Prog.run_all_cons]
  rw [Prog.run_all_nil]
  have hst : ((setF (F.AUD_FS_STAMP_HI k) (s.now / 2 ^ 32)).run ((setF (F.AUD_FS_STAMP_LO k) s.now).run s)).unitState (108 + k) =
      s.unitState (108 + k) := by
    rw [State.unitState, fld_setF_of_ne (f := F.AUD_FS_STAMP_HI k) (by show 0x40100 + 4 * (108 + k) ≠ 0x400020 + 0x1000 * k; omega),
      fld_setF_of_ne (f := F.AUD_FS_STAMP_LO k) (by show 0x40100 + 4 * (108 + k) ≠ 0x40001c + 0x1000 * k; omega)]
    rfl
  generalize (setF (F.AUD_FS_STAMP_HI k) (s.now / 2 ^ 32)).run _ = x at *
  have hdecl : (if (s.unitState (108 + k) != 3) = true then (declareUnit (108 + k) 3).run x else x) = (declareUnit (108 + k) 3).run x := by
    split
    · rfl
    · next h => rw [declareUnit, Prog.run_look, hst, Prog.run_when, if_neg h]
  rw [hdecl]
  rfl

theorem portOn_lt {s : State} {k : Nat} (h : s.portOn k = true) : k < 4 := by
  simp only [State.portOn, Bool.and_eq_true, decide_eq_true_eq] at h
  exact h.1.1.1

theorem portFrame_completes {s : State} {k : Nat} {f : FrameIn} (hon : s.portOn k = true) (hself : s.selfFramed k = false)
    (hy : (s.port k).yieldNext = false) (hc : f.chatter = [])
    (hb : s.fld (F.AUD_CFG_ROLE k) ≠ 1 ∨ (s.port k).seen = false ∨ f.bclks = s.frameLen k) :
    Completes (.portFrame k f) s fun u => u.fld (F.AUD_FS_STAMP_LO k) = s.now % 2 ^ 32 ∧ u.fld (F.AUD_FS_STAMP_HI k) = s.now / 2 ^ 32 ∧
      u.unitState (108 + k) = 3 ∧ (u.port k).seen = true ∧
      (u.port k).driven = (s.owned k).map (fun i => (i, s.slotOut k i)) ∧
      (∀ i, i < 32 → (u.out (32 * k + i)).playing =
        (if s.reached (s.out (32 * k + i)).start then (s.out (32 * k + i)).playing.drop 1 else (s.out (32 * k + i)).playing)) ∧
      (∀ i, i < 32 → i ∉ s.portEntries k → u.inp (32 * k + i) = s.inp (32 * k + i)) ∧
      (∀ i, i ∈ s.portEntries k → s.fld (F.AUD_IN_MAP_FMT k i) = 0 → (s.inp (32 * k + i)).framed = true → (s.inp (32 * k + i)).from_ = none →
        (s.inp (32 * k + i)).fill + 1 < s.chunkSize (32 * k + i) (s.fld (F.AUD_IN_MAP_STREAM k i)) →
        (u.inp (32 * k + i)).fill = (s.inp (32 * k + i)).fill + 1 ∧
        (u.inp (32 * k + i)).cur.bytes = (s.inp (32 * k + i)).cur.bytes ++ s.portBytes k 0 (f.data.getD i 0)) ∧
      u.dev.log = s.dev.log ∧ SameBytes s u ∧ SameHost s u := by
  have hk := portOn_lt hon
  refine completes_done (p := when (s.portOn k) (portFrame k f)) rfl ?_
  obtain ⟨b, hrun⟩ := frame_run hy hc hb
  rw [hon, Prog.run_when, if_pos rfl, portFrame, Prog.run_look, if_pos (by rw [hself]; rfl), hrun]
  have h1 := frameHead_run hk s
  generalize (frameHead k s.now).run s = x at *
  have h2 := (entrySamples_onInputs k f.data b (fun i => x.fld (F.AUD_IN_MAP_STREAM k i)) (x.portEntries k)).onlyInputs x
  have h2o := fun j hj => entrySamples_other k f.data b (fun i => x.fld (F.AUD_IN_MAP_STREAM k i)) (l := x.portEntries k) (j := j) hj x
  have h2e := fun i => deliver_entry hk f.data b (s := x) (i := i)
  rw [← deliver_eq] at h2
  simp only [← deliver_eq] at h2o
  generalize (deliver k f.data b).run x = y at *
  have h3 := sendFrame_run k y
  generalize (sendFrame k false).run y = z at *
  have hsy : FrameKept s y k := h1.kept.trans (h2.frameKept k)
  have hin : ∀ j, z.inp j = y.inp j := fun j => by rw [State.inp, h3.dev]; rfl
  have hxin : ∀ j, x.inp j = s.inp j := fun j => by rw [State.inp, h1.ins]; rfl
  have hports : y.dev.ports = x.dev.ports := by rw [h2.dev]
  have hentries : x.portEntries k = s.portEntries k := h1.kept.portEntries hk
  have houts : ∀ j, y.out j = s.out j := fun j => by rw [State.out, hsy.dev]; rfl
  refine ⟨?_, ?_, ?_, ?_, ?_, fun i hi => ?_, fun i hi hno => ?_, fun i hi hfmt hframed hfrom hfill => ?_, ?_, fun a => ?_, fun a => ?_⟩
  · exact (State.fld_of_word (State.word_of_regs (h3.regs.trans h2.regs) _)).trans h1.low
  · exact (State.fld_of_word (State.word_of_regs (h3.regs.trans h2.regs) _)).trans h1.high
  · exact (State.fld_of_word (State.word_of_regs (h3.regs.trans h2.regs) _)).trans h1.state
  · rw [h3.seen, State.port, hports]
    exact h1.seen
  · rw [h3.driven, hsy.owned hk]
    exact List.map_congr_left fun i _ => by rw [hsy.slotOut hk]
  · rw [h3.playing i hi, houts, State.reached, hsy.dev]
    rfl
  · rw [hin, h2o _ fun j hj e => hno (by rw [← hentries]; rwa [show i = j by omega]), hxin]
  · have hx : x.fld (F.AUD_IN_MAP_FMT k i) = 0 := (h1.kept.mapFld hk (State.mem_portEntries_lt hi) rfl).trans hfmt
    have hstream : x.fld (F.AUD_IN_MAP_STREAM k i) = s.fld (F.AUD_IN_MAP_STREAM k i) := h1.kept.mapFld hk (State.mem_portEntries_lt hi) rfl
    have hsize := State.chunkSize_congr h1.kept.mem (by rw [h1.kept.dev]) (hxin (32 * k + i)) (s.fld (F.AUD_IN_MAP_STREAM k i))
    have := h2e i (by rw [hentries]; exact hi) hx (by rw [hxin]; exact hframed) (by rw [hxin]; exact hfrom) (by rw [hxin, hstream, hsize]; exact hfill)
    rw [hin]
    rwa [hxin, h1.kept.portBytes hk] at this
  · rw [h3.dev, hsy.dev]
  · rw [h3.mem, hsy.mem]
  · rw [h3.host, hsy.host]

end Sys2Proof.Machine
end

section
/-!
A port that loses its framing or its clock; the statement about the fabric and the ports (O47).
-/
namespace Sys2Proof.Machine

/-! ## A port that is unframed -/

theorem unframeEntry_keeps {k i : Nat} (slot j : Nat) (h : j ≠ 32 * k + i) :
    (unframe (32 * k + i) slot (portDrop k i)).Only (Act.keeps fun d => Sparse.get InPath.blank d.ins j) := by
  have hlog : ∀ l id code sev u ds st, (logLim l id code sev u ds st).Only (Act.keeps fun d => Sparse.get InPath.blank d.ins j) :=
    fun l id code sev u ds st => Prog.Only.keeps_of_logs (logLim_onlyLogs l id code sev u ds st) fun _ _ _ _ => rfl
  have hslot : ∀ n f, (modSlot n f).Only (Act.keeps fun d => Sparse.get InPath.blank d.ins j) := fun _ _ _ => rfl
  have hin : ∀ f, (modIn (32 * k + i) f).Only (Act.keeps fun d => Sparse.get InPath.blank d.ins j) := fun _ _ => Sparse.get_put_other _ _ _ _ _ h
  have hdrop : (incF (F.AUD_DROPS k)).Only (Act.keeps fun d => Sparse.get InPath.blank d.ins j) := Prog.only_incF fun _ => trivial
  simp [-Act.keeps_dev, unframe, discard, portDrop, gapNext, hlog, hslot, hin, hdrop]

theorem unframePort_framed (k : Nat) (s : State) : ∀ i ∈ s.portEntries k, (((unframePort k).run s).inp (32 * k + i)).framed = false := by
  have hrun : (unframePort k).run s = (each (s.portEntries k) fun i => unframe (32 * k + i) (s.fld (F.AUD_IN_MAP_STREAM k i)) (portDrop k i)).run s :=
    rfl
  rw [hrun]
  refine Prog.run_each_establishes (P := fun i x => (x.inp (32 * k + i)).framed = false) (fun i _ x => (unframe_unframed _ _ _ x).1)
    (fun i _ j _ x hx => ?_) s
  by_cases hij : i = j
  · rw [hij]
    exact (unframe_unframed _ _ _ x).1
  · have hkeep := (unframeEntry_keeps (k := k) (i := j) (s.fld (F.AUD_IN_MAP_STREAM k j)) (32 * k + i) (by omega)).keeps x
    exact (congrArg InPath.framed hkeep).trans hx

/-- What the search of a port shows, when it has no lock. -/
structure SearchShown (s u : State) (k : Nat) : Prop where
  locked : u.bit (F.AUD_STATUS_LOCKED k) = false
  words : ∀ o, o ≠ 0x400018 + 0x1000 * k → o ≠ 0x400000 + 0x1000 * k → u.word o = s.word o
  dev : u.dev = s.dev
  mem : u.mem = s.mem
  host : u.host = s.host

theorem showSearch_run {s : State} {k : Nat} (hl : (s.port k).lock = none) : SearchShown s ((showSearch k).run s) k := by
  rw [showSearch, Prog.run_look]
  dsimp only
  rw [hl]
  iterate 4 rw [Prog.run_all_cons]
  rw [Prog.run_all_nil]
  generalize (s.port k).cand.length = n
  have h1 := setF_onlyWord (F.AUD_SF_STAT_CANDIDATES k) n s
  generalize (setF (F.AUD_SF_STAT_CANDIDATES k) n).run s = x at *
  have h2 := setB_onlyWord (F.AUD_SF_STAT_LOCKED k) (none : Option Nat).isSome x
  generalize (setB (F.AUD_SF_STAT_LOCKED k) (none : Option Nat).isSome).run x = y at *
  have h3 := setF_onlyWord (F.AUD_SF_STAT_POS k) ((none : Option Nat).getD 0) y
  generalize (setF (F.AUD_SF_STAT_POS k) ((none : Option Nat).getD 0)).run y = z at *
  have h4 := setB_onlyWord (F.AUD_STATUS_LOCKED k) (none : Option Nat).isSome z
  have hb := Prog.bit_setB_same (f := F.AUD_STATUS_LOCKED k) rfl (by show 3 + 1 ≤ 32; decide) (none : Option Nat).isSome z
  generalize (setB (F.AUD_STATUS_LOCKED k) (none : Option Nat).isSome).run z = w at *
  exact ⟨hb, fun o ho ho' => (h4.words o ho').trans ((h3.words o ho).trans ((h2.words o ho).trans (h1.words o ho))),
    by rw [h4.dev, h3.dev, h2.dev, h1.dev], by rw [h4.mem, h3.mem, h2.mem, h1.mem], by rw [h4.host, h3.host, h2.host, h1.host]⟩

/-- A unit's line after it has declared a state. -/
theorem declareUnit_epoch {u st : Nat} (hst : st < 16) (s : State) :
    ((declareUnit u st).run s).epoch u = if s.unitState u = st then s.epoch u else (s.epoch u + 1) % 65536 := by
  by_cases h : s.unitState u = st
  · rw [if_pos h, declareUnit, Prog.run_look, Prog.run_when, if_neg (by simp [h])]
  · rw [if_neg h]
    exact (declareUnit_run_of_ne h hst).2

/-- A port has lost its framing. -/
structure PortLost (s u : State) (k st : Nat) : Prop where
  state : u.unitState (108 + k) = st
  epoch : u.epoch (108 + k) = if s.unitState (108 + k) = st then s.epoch (108 + k) else (s.epoch (108 + k) + 1) % 65536
  seen : (u.port k).seen = false
  lock : (u.port k).lock = none
  framed : ∀ i, i ∈ s.portEntries k → (u.inp (32 * k + i)).framed = false
  locked : u.bit (F.AUD_STATUS_LOCKED k) = false
  count : u.dev.log.count ≠ s.dev.log.count
  bytes : SameBytes s u
  host : SameHost s u

/-- The port forgets its framing. -/
def forgetFraming (p : Port) : Port := { p with seen := false, lock := none, cand := [], misses := 0, driven := [] }

theorem portLost_run {k st : Nat} (hk : k < 4) (hst : st < 16) (code : Nat) (s : State) : PortLost s ((portLost k st code).run s) k st := by
  have hprog : portLost k st code = all [unframePort k, modPort k forgetFraming, declareUnit (108 + k) st, logC code 1 (108 + k) [k], showSearch k] :=
    rfl
  rw [hprog]
  iterate 5 rw [Prog.run_all_cons]
  rw [Prog.run_all_nil]
  have hob := unframePort_obeys hk
  have hframed := unframePort_framed k s
  have hline : ¬unframedBound.reg (0x40100 + 4 * (108 + k)) := by
    simp [logRegs]
    exact ⟨fun j _ => by omega, by omega⟩
  have hd1 := hob.devs unframedBound_steps s
  have hw1 := hob.words hline s
  have hm1 := hob.mems id s
  have hh1 := hob.hosts id s
  generalize (unframePort k).run s = x at *
  have hp2 := State.port_modPort_same k forgetFraming x
  have h2 : ((modPort k forgetFraming).run x).dev = { x.dev with ports := ((modPort k forgetFraming).run x).dev.ports } ∧
    ((modPort k forgetFraming).run x).regs = x.regs ∧ ((modPort k forgetFraming).run x).mem = x.mem ∧
    ((modPort k forgetFraming).run x).host = x.host := ⟨rfl, rfl, rfl, rfl⟩
  generalize (modPort k forgetFraming).run x = y at *
  obtain ⟨hd2, hr2, hm2, hh2⟩ := h2
  have hunit : y.word (0x40100 + 4 * (108 + k)) = s.word (0x40100 + 4 * (108 + k)) := (State.word_of_regs hr2 _).trans hw1
  have h3 := declareUnit_line (108 + k) st y
  have hs3 := declareUnit_state hst (108 + k) y
  have he3 := declareUnit_epoch hst (u := 108 + k) y
  rw [show y.unitState (108 + k) = s.unitState (108 + k) from State.fld_of_word hunit,
    show y.epoch (108 + k) = s.epoch (108 + k) from State.fld_of_word hunit] at he3
  generalize (declareUnit (108 + k) st).run y = z at *
  have h4 := logC_run_onlyLogs code 1 (108 + k) [k] none z
  have hc4 := logC_count_lt code 1 (108 + k) [k] none z
  generalize (logC code 1 (108 + k) [k]).run z = w at *
  have hport : ∀ v : State, v.dev = w.dev → v.port k = forgetFraming (x.port k) := fun v hv => by
    rw [State.port, hv, h4.dev, h3.dev]
    exact hp2
  have h5 := showSearch_run (s := w) (k := k) (by rw [hport w rfl]; rfl)
  generalize (showSearch k).run w = v at *
  have hlog : 0x40100 + 4 * (108 + k) ∉ logRegs := by
    simp [logRegs]
    omega
  have hw5 : v.word (0x40100 + 4 * (108 + k)) = z.word (0x40100 + 4 * (108 + k)) :=
    (h5.words _ (by omega) (by omega)).trans (h4.regs _ hlog)
  refine ⟨(State.fld_of_word hw5).trans hs3, (State.fld_of_word hw5).trans he3, by rw [hport v h5.dev]; rfl, by rw [hport v h5.dev]; rfl,
    fun i hi => ?_, h5.locked, ?_, fun a => ?_, fun a => ?_⟩
  · have hin : v.inp (32 * k + i) = x.inp (32 * k + i) := by rw [State.inp, h5.dev, h4.dev, h3.dev, hd2]; rfl
    rw [hin]
    exact hframed i hi
  · have hcz : z.dev.log.count = x.dev.log.count := by rw [h3.dev, hd2]
    have hcx : s.dev.log.count ≤ x.dev.log.count := hd1.2
    rw [h5.dev]
    omega
  · rw [h5.mem, h4.mem, h3.mem, hm2, hm1]
  · rw [h5.host, h4.host, h3.host, hh2, hh1]

theorem portFollows_lt {s : State} {k : Nat} (h : s.portFollows k = true) : k < 4 := by
  simp only [State.portFollows, Bool.and_eq_true] at h
  exact portOn_lt h.1.1

theorem portLost_completes {s : State} {k st : Nat} {c : Instr} (hf : s.portFollows k = true)
    (hc : (c = .fsyncLost k ∧ st = 2 ∧ s.selfFramed k = false ∧ s.unitState (108 + k) = 3) ∨ (c = .bclkLost k ∧ st = 1)) :
    Completes c s fun u => PortLost s u k st := by
  have hk := portFollows_lt hf
  rcases hc with ⟨rfl, rfl, hself, hst⟩ | ⟨rfl, rfl⟩
  · refine completes_done (p := when (s.portFollows k && !s.selfFramed k && s.unitState (108 + k) == 3) (portLost k 2 0xB004)) rfl ?_
    rw [hf, hself, hst, Prog.run_when, if_pos (by rfl)]
    exact portLost_run hk (by decide) _ s
  · refine completes_done (p := when (s.portFollows k) (portLost k 1 0xB005)) rfl ?_
    rw [hf, Prog.run_when, if_pos rfl]
    exact portLost_run hk (by decide) _ s

/-! ## The statement -/

theorem fabHold_exec (p : Path) (v : Word) (s : State) :
    (exec (.fabHold p v) s = done (writing p F.ARR_FAB_CTL_HOLD.off (writeFabCtl v.toNat)) s) ∧
    (exec (.fabReset p v) s = done (writing p F.ARR_FAB_CTL_HOLD.off (writeFabCtl v.toNat)) s) ∧
    exec (.fabRelease p v) s = done (writing p F.ARR_FAB_CTL_HOLD.off (writeFabCtl v.toNat)) s := ⟨rfl, rfl, rfl⟩

/-- Settles O47, clause by clause: the fabric's commands, then those of the ports. -/
theorem fabricAndPorts : Obligations.FabricAndPorts := by
  unfold Obligations.FabricAndPorts
  refine ⟨fun s p v hr hon h0 h1 h2 => ?_, fun s p v hr hst h0 => ?_, fun s p v m hr hon h0 h1 hm ht => ?_, fun s p v hr hon hrel h0 h2 => ?_,
    fun s p hp hr hw => fabMdataRead_completes hp hr hw, fun s p v j hr hw hj => ?_, fun s hon hr hl ht => fabClkLost_completes hon hr hl ht,
    fun s hon hr hu => ucatchEdge_completes hon hr hu,
    fun s e m hon hr hc hrise hn _ ht hk hi ha hp => fabclkEdge_completes hon hr hc hrise hn ht hk hi ha hp,
    fun s k f hon hself hy hc hb => portFrame_completes hon hself hy hc hb, fun s k st c hf hc => ?_⟩
  · have h := writeFabCtl_hold hon h0
    rw [h1, h2] at h
    refine ⟨_, fabCtl_exec hr v (fabHold_exec p v s).1, h.hold, h.state, ?_, ?_, h.bytes, h.host⟩
    · rw [h.fab]
      rfl
    · rw [h.fab]
      rfl
  · exact ⟨_, fabCtl_exec hr v (fabHold_exec p v s).1, writeFabCtl_run_on hst h0⟩
  · have h := writeFabCtl_hold hon h0
    rw [h1] at h
    refine ⟨_, fabCtl_exec hr v (fabHold_exec p v s).2.1, h.zero m ht (Fabric.ctl_reg_low _ _ (by omega)), fun k hk => ?_, ?_, h.hold, h.bytes, h.host⟩
    · have hkey : 0x50000 ≤ memOutKey k := Nat.le_add_right _ _
      rw [h.high _ (by omega)]
      exact Fabric.ctl_reg_high _ _ _ hkey
    · rw [h.fab, Fabric.ctl_kept]
  · have h := writeFabCtl_hold hon h0
    rw [h2] at h
    refine ⟨_, fabCtl_exec hr v (fabHold_exec p v s).2.2, ?_, ?_, ?_, h.bytes, h.host⟩
    · rw [h.fab]
      show (s.dev.fab.ctl (v.getLsbD 1) true).releaseDue = true
      rw [Fabric.ctl_releaseDue, hrel]
      rfl
    · rw [h.fab, Fabric.ctl_kept]
      exact hrel
    · rw [h.fab, Fabric.ctl_kept]
  · obtain ⟨u, hrun, hin, hout, hb, hh⟩ := fabMdataWrite_completes (s := s) (v := v) hr hw
    exact ⟨u, hrun, fun k hk => hin j k hk, hout, hb, hh⟩
  · obtain ⟨u, hrun, h⟩ := portLost_completes hf hc
    exact ⟨u, hrun, h.state, h.epoch, h.seen, h.lock, h.framed, h.locked, h.count, h.bytes, h.host⟩

end Sys2Proof.Machine
end

section
/-!
Entries that become chunks; the statement about stamping (O32).
-/
namespace Sys2Proof.Machine

/-! ## Stamping an offer that is admitted -/

theorem State.slot_modSlot (n k : Nat) (f : SlotDyn → SlotDyn) (s : State) :
    ((modSlot n f).run s).slot k = if k = n then f (s.slot n) else s.slot k := by
  show Sparse.get SlotDyn.blank (Sparse.put SlotDyn.blank s.dev.slots n _) k = _
  rw [Sparse.get_put]
  rfl

/-- The chunk that the stamping unit makes of an offer (R17 to R20, R84 to R88). -/
def State.offeredChunk (s : State) (o : Offer) (b : Nat) (g : Group) : Chunk :=
  let p := s.slotPart o.slot
  let t := o.tick.getD s.now
  let n := s.dueTurn p g o.slot t ((((s.slot o.slot).chunks.filter fun c => !c.launched).getLast?).map Chunk.dueTurn)
  let gather := s.turnOrg p + n * s.turnLen p + s.gatherOffset p g.id
  let d := (s.part p).derated
  { part := p, stream := o.slot, model := o.model, flags := stampFlags o.flags o.count g.nominal (s.slot o.slot).gap, seq := o.seq,
    arrival := t, deadline := (gather + if d then g.ddl else g.dl) % 2 ^ 64, lastLaunch := (gather + if d then g.dll else g.ll) % 2 ^ 64,
    format := o.format, rate := o.rate, count := o.count, upos0 := o.upos0, upos1 := o.upos1, dueTurn := n, buf := b,
    payload := o.payload.length, group := g.id, base := s.slotBase o.slot, stateSize := s.slotState o.slot, cbuf := s.slotCbuf o.slot,
    rbuf := s.slotRbuf o.slot }

theorem stamp_eq {s : State} {o : Offer} {b : Nat} {g : Group} (h : s.admits o b g) (drop : Nat → Prog) :
    (stamp o drop).run s = (all [when (!o.payload.isEmpty) (storeBytes (storeAt + s.ingestAt o.slot b) o.payload),
      modSlot o.slot fun x => { x with chunks := x.chunks ++ [s.offeredChunk o b g], gap := false, lastSeq := some o.seq }]).run s := by
  obtain ⟨hfault, hpend, hbuf, hgroup⟩ := h
  have hb : (if 2 ≤ ((s.slot o.slot).chunks.filter fun c => !c.launched).length then none else match o.buf with
      | some b => some b
      | none => s.freeBuf o.slot []) = some b := by
    rw [if_neg (by omega), ← hbuf]
    cases o.buf <;> rfl
  rw [stamp, Prog.run_look, hfault]
  dsimp only
  rw [hgroup]
  cases hbf : o.buf <;> rw [hbf] at hb <;> dsimp only at hb ⊢ <;> rw [hb] <;> rfl

/-- What stamping keeps beside the slot and the payload. -/
structure StampKept (s u : State) : Prop where
  regs : u.regs = s.regs
  host : u.host = s.host
  dev : u.dev = { s.dev with slots := u.dev.slots, poison := u.dev.poison }

theorem writePayload_run (a : Nat) (bs : List Byte) (s : State) :
    let u := (when (!bs.isEmpty) (storeBytes a bs)).run s
    StampKept s u ∧ u.dev.slots = s.dev.slots ∧ u.mem = s.mem.writes a bs := by
  cases bs with
  | nil => exact ⟨⟨rfl, rfl, rfl⟩, rfl, rfl⟩
  | cons b bs => exact ⟨⟨rfl, rfl, rfl⟩, rfl, rfl⟩

theorem stamp_run {s : State} {o : Offer} {b : Nat} {g : Group} (h : s.admits o b g) (drop : Nat → Prog) :
    Stamped s ((stamp o drop).run s) o b g ∧ StampKept s ((stamp o drop).run s) := by
  rw [stamp_eq h drop, Prog.run_all_cons, Prog.run_all_cons, Prog.run_all_nil]
  obtain ⟨⟨hregs, hhost, hdev⟩, hslots, hmem⟩ := writePayload_run (storeAt + s.ingestAt o.slot b) o.payload s
  generalize (when (!o.payload.isEmpty) (storeBytes (storeAt + s.ingestAt o.slot b) o.payload)).run s = x at *
  have hslot : ∀ n, x.slot n = s.slot n := fun n => by rw [State.slot, State.slot, hslots]
  have hput := fun k => State.slot_modSlot o.slot k
    (fun x => { x with chunks := x.chunks ++ [s.offeredChunk o b g], gap := false, lastSeq := some o.seq }) x
  have hsame : StampKept x ((modSlot o.slot fun x => { x with chunks := x.chunks ++ [s.offeredChunk o b g], gap := false, lastSeq := some o.seq }).run x) ∧
      ((modSlot o.slot fun x => { x with chunks := x.chunks ++ [s.offeredChunk o b g], gap := false, lastSeq := some o.seq }).run x).mem = x.mem :=
    ⟨⟨rfl, rfl, rfl⟩, rfl⟩
  generalize (modSlot o.slot _).run x = u at *
  obtain ⟨⟨huregs, huhost, hudev⟩, humem⟩ := hsame
  have hown := (hput o.slot).trans (if_pos rfl)
  refine ⟨⟨⟨s.offeredChunk o b g, _, by rw [hown, hslot], rfl, rfl, rfl, rfl, rfl, rfl, rfl, rfl, rfl⟩, by rw [hown],
    fun n hn => by rw [hput, if_neg hn, hslot], by rw [humem, hmem, Memory.reads_writes], fun c hc => by
      rw [humem, hmem, Memory.read_writes_other _ _ _ _ hc]⟩,
    ⟨huregs.trans hregs, huhost.trans hhost, by rw [hudev, hdev]⟩⟩

theorem Stamped.length {s u : State} {o : Offer} {b : Nat} {g : Group} (h : Stamped s u o b g) :
    (u.slot o.slot).chunks.length ≠ (s.slot o.slot).chunks.length := by
  obtain ⟨c, n, hc, -⟩ := h.chunk
  rw [hc, List.length_append]
  simp

/-- What is stamped depends on the slots and on memory alone, as far as it is changed. -/
theorem Stamped.of_after {s x u : State} {o : Offer} {b : Nat} {g : Group} (h : Stamped s x o b g) (hslots : u.dev.slots = x.dev.slots)
    (hmem : u.mem = x.mem) : Stamped s u o b g := by
  have hslot : ∀ n, u.slot n = x.slot n := fun n => by rw [State.slot, State.slot, hslots]
  obtain ⟨hchunk, hgap, hothers, hpay, hbytes⟩ := h
  exact ⟨by rw [hslot]; exact hchunk, by rw [hslot]; exact hgap, fun n hn => (hslot n).trans (hothers n hn), by rw [hmem]; exact hpay,
    fun c hc => (congrArg (·.read c) hmem).trans (hbytes c hc)⟩

/-! ## An entry is fetched -/

theorem takeEntry_run {s : State} {q b : Nat} {e : Ingest} (hrange : s.rangeHolds q e.stream = true) (hfmt : formatOk e = true)
    (hplen : plenOk e = true) (hfit : e.plen ≤ s.slotCbuf e.stream) (hfault : s.admitFault (e.offer []) = none)
    (hfree : s.freeBuf e.stream (s.flightBufs e.stream) = some b) :
    (takeEntry q e).run s = (modPair q fun y => { y with flight := y.flight ++ [some { e with buf := b }] }).run s := by
  rw [takeEntry, Prog.run_look]
  simp [hrange, hfmt, hplen, Nat.not_lt.mpr hfit, hfault, hfree]

theorem ingestEntryFetch_completes {s : State} {q b : Nat} {ws : List Byte} (hq : q < 256) (hen : s.bit (F.QP_CTL_EN q) = true)
    (hlink : s.linkUp = true) (hr : s.ready = true) (hunit : s.unitState (44 + s.owner q) = 1) (hfence : s.fenced (44 + s.owner q) = false)
    (hflight : (s.pair q).flight = []) (hmore : s.fld (F.QP_INDEX_IN_HEAD q) % s.inSize q ≠ (s.pair q).tail)
    (hsum : (s.dev.pairs.map fun y => y.2.fetches).sum < 64) (hlen : ws.length = 64)
    (htake : (takeEntry q (ingestOf ws)).run s =
      (modPair q fun y => { y with flight := y.flight ++ [some { ingestOf ws with buf := b }] }).run s) (hpay : (ingestOf ws).plen ≠ 0) :
    Completes (.ingestEntryFetch q ws) s fun u => (u.pair q).flight = [some { ingestOf ws with buf := b }] ∧
      (∀ k, k ≠ q → u.pair k = s.pair k) ∧ u.regs = s.regs ∧ SameBytes s u ∧ SameHost s u := by
  refine completes_done rfl ?_
  have hnone : (s.pair q).fetches = 0 := by rw [Pair.fetches, hflight]; rfl
  rw [Prog.run_when, if_pos (by simp [hq, hen, hlink, hr, hunit, hfence, hflight, hmore, hsum, hlen, hnone]), Prog.run_all_cons,
    Prog.run_all_cons, Prog.run_all_nil, htake]
  have hput := fun k => pair_modPair q k (fun y => { y with flight := y.flight ++ [some { ingestOf ws with buf := b }] }) s
  have hsame : ((modPair q fun y => { y with flight := y.flight ++ [some { ingestOf ws with buf := b }] }).run s).regs = s.regs ∧
      ((modPair q fun y => { y with flight := y.flight ++ [some { ingestOf ws with buf := b }] }).run s).mem = s.mem ∧
      ((modPair q fun y => { y with flight := y.flight ++ [some { ingestOf ws with buf := b }] }).run s).host = s.host := ⟨rfl, rfl, rfl⟩
  generalize (modPair q fun y => { y with flight := y.flight ++ [some { ingestOf ws with buf := b }] }).run s = u at *
  obtain ⟨hregs, hmem, hhost⟩ := hsame
  have hin : (u.pair q).flight = [some { ingestOf ws with buf := b }] := by rw [hput, if_pos rfl, hflight]; rfl
  have hstop : (passFront q ((s.pair q).flight.length + 1)).run u = u := by
    rw [passFront, Prog.run_look, hin]
    dsimp only
    rw [Prog.run_when, if_neg (by simp [ingestOf]; simpa [ingestOf] using hpay)]
  rw [hstop]
  exact ⟨hin, fun k hk => (hput k).trans (if_neg hk), hregs, fun a => congrArg (·.read a) hmem, fun a => congrArg (·.read a) hhost⟩

/-! ## The payload of an entry lands -/

/-- Nothing of the host's memory is written. -/
abbrev hostStill : Bound where
  dev _ _ := True
  reg _ := True
  mem := True
  host := False

theorem signalPair_hostStill (q vec : Nat) : (signalPair q vec).Only (Act.obeys hostStill) := fun s =>
  Prog.only_when.mpr fun _ => fun s => by
    dsimp only
    split
    · exact setF_obeys.mpr trivial
    · exact fun _ => trivial

/-- Where a pair's IN_HEAD is written back (R366). -/
def State.headBack (s : State) (q : Nat) : Nat := s.qpW q 0x28 / 4 * 4 + 2 ^ 32 * s.qpW q 0x2C

theorem passEntry_host (q : Nat) (x : State) : ((passEntry q).run x).host =
    if x.headBack q = 0 then x.host else x.host.writes (x.headBack q) (toBytes 4 ((x.fld (F.QP_INDEX_IN_HEAD q) + 1) % x.inSize q)) := by
  rw [passEntry, Prog.run_look, Prog.run_all_cons, Prog.run_all_cons, Prog.run_all_cons, Prog.run_all_cons, Prog.run_all_nil]
  have hset : ∀ v, ((setF (F.QP_INDEX_IN_HEAD q) v).run x).host = x.host := fun _ => rfl
  have hpair : ∀ f y, ((modPair q f).run y).host = y.host := fun _ _ => rfl
  have hmsg : ∀ y, ((when (x.bit (F.QP_CTL_IN_INT q)) (each ((x.pair q).bells.filter (· == (x.fld (F.QP_INDEX_IN_HEAD q) + 1) % x.inSize q))
      fun _ => signalPair q (x.fld (F.QP_CTL_IVEC q)))).run y).host = y.host := fun y =>
    (show Prog.Only (Act.obeys hostStill) _ from Prog.only_when.mpr fun _ => Prog.only_each.mpr fun _ _ => signalPair_hostStill _ _).hosts id y
  rw [hmsg, Prog.run_when]
  rw [show (x.qpW q 0x28 / 4 * 4 + 2 ^ 32 * x.qpW q 0x2C) = x.headBack q from rfl]
  by_cases h : x.headBack q = 0
  · rw [if_pos h, if_neg (by simp [h]), hpair, hset]
  · rw [if_neg h, if_pos (by simp [h])]
    have hwrite : ∀ fn a bs y, ((hostWrite fn a bs).run y).host = y.host.writes a bs := fun _ _ _ _ => rfl
    rw [hwrite, hpair, hset]

theorem stampEntry_run {s : State} {q b : Nat} {e : Ingest} {pay : List Byte} {g : Group} (h : s.admits (e.offer pay) b g) :
    let u := (stampEntry q e pay).run s
    Stamped s u (e.offer pay) b g ∧ u.dev.pairs = s.dev.pairs ∧ u.host = s.host ∧
      u.fld (F.QP_STAMPED q) = min (s.fld (F.QP_STAMPED q) + 1) (2 ^ 32 - 1) ∧
      ∀ o, o ≠ (F.QP_STAMPED q).off → u.word o = s.word o := by
  rw [stampEntry, Prog.run_look, Prog.run_all_cons, Prog.run_all_cons, Prog.run_all_nil]
  obtain ⟨hst, hregs, hhost, hdev⟩ := stamp_run h (ingestDrop q e.stream)
  generalize (stamp (e.offer pay) (ingestDrop q e.stream)).run s = x at *
  have hpairs : x.dev.pairs = s.dev.pairs := by rw [hdev]
  rw [Prog.run_look, Prog.run_when, if_pos (by simpa [Ingest.offer] using hst.length)]
  have hinc := Prog.fld_incF (F.QP_STAMPED q) x (by decide : (0 : ℕ) + 32 ≤ 32)
  have hw : ∀ o, o ≠ (F.QP_STAMPED q).off → ((incF (F.QP_STAMPED q)).run x).word o = x.word o := fun o ho => word_setF_of_ne ho x
  have hmems : ((incF (F.QP_STAMPED q)).run x).mem = x.mem ∧ ((incF (F.QP_STAMPED q)).run x).host = x.host ∧
      ((incF (F.QP_STAMPED q)).run x).dev = x.dev := ⟨rfl, rfl, rfl⟩
  generalize (incF (F.QP_STAMPED q)).run x = u at *
  obtain ⟨hm, hh, hd⟩ := hmems
  have hword : ∀ o, x.word o = s.word o := fun o => State.word_of_regs hregs o
  exact ⟨hst.of_after (congrArg Dev.slots hd) hm, (congrArg Dev.pairs hd).trans hpairs, hh.trans hhost,
    hinc.trans (by rw [State.fld_of_word (hword _)]), fun o ho => (hw o ho).trans (hword o)⟩

theorem hostChunkStamp_completes {s : State} {q : Nat} {e : Ingest} {g : Group} {pay : List Byte} (hq : q < 256) (hr : s.ready = true)
    (hflight : (s.pair q).flight = [some e]) (hgone : e.gone = false) (hlen : pay.length = e.plen) (h : s.admits (e.offer pay) e.buf g)
    (hsize : s.inSize q ≤ 2 ^ 16) :
    Completes (.hostChunkStamp q pay true) s fun u => Stamped s u (e.offer pay) e.buf g ∧ (u.pair q).flight = [] ∧
      u.fld (F.QP_INDEX_IN_HEAD q) = (s.fld (F.QP_INDEX_IN_HEAD q) + 1) % s.inSize q ∧
      u.fld (F.QP_STAMPED q) = min (s.fld (F.QP_STAMPED q) + 1) (2 ^ 32 - 1) ∧
      (s.headBack q ≠ 0 → u.host.reads (s.headBack q) 4 = toBytes 4 ((s.fld (F.QP_INDEX_IN_HEAD q) + 1) % s.inSize q)) ∧
      (∀ a, s.headBack q = 0 ∨ a < s.headBack q ∨ s.headBack q + 4 ≤ a → u.host.read a = s.host.read a) := by
  refine completes_done (p := when (s.ready && !e.gone && (!true || pay.length == e.plen)) (all [stampEntry q e pay, passEntry q, passFront q 1]))
    (by rw [show exec (.hostChunkStamp q pay true) s = execHostChunkStamp q pay true s from rfl, execHostChunkStamp, hflight]; rfl) ?_
  rw [Prog.run_when, if_pos (by simp [hr, hgone, hlen]), Prog.run_all_cons, Prog.run_all_cons, Prog.run_all_cons, Prog.run_all_nil]
  obtain ⟨hst, hpairs, hhost, hcount, hword⟩ := stampEntry_run (q := q) h
  generalize (stampEntry q e pay).run s = x at *
  have hp := passEntry_run hq x
  have hback := passEntry_host q x
  generalize (passEntry q).run x = u at *
  have hempty : (u.pair q).flight = [] := by
    rw [hp.pair]
    show (x.pair q).flight.drop 1 = []
    rw [State.pair, hpairs]
    exact congrArg (List.drop 1) hflight
  rw [passFront_nil hempty]
  have hsz : x.inSize q = s.inSize q := congrArg (2 ^ ·) (State.fld_of_word (hword _ (by simp)))
  have hhd : x.fld (F.QP_INDEX_IN_HEAD q) = s.fld (F.QP_INDEX_IN_HEAD q) := State.fld_of_word (hword _ (by simp))
  have hbk : x.headBack q = s.headBack q := by
    have hq28 : x.qpW q 0x28 = s.qpW q 0x28 := congrArg BitVec.toNat (hword _ (by simp [qpAt]; omega))
    have hq2C : x.qpW q 0x2C = s.qpW q 0x2C := congrArg BitVec.toNat (hword _ (by simp [qpAt]; omega))
    rw [State.headBack, State.headBack, hq28, hq2C]
  rw [hsz, hhd, hbk, hhost] at hback
  refine ⟨hst.of_after hp.slots hp.mem, hempty, ?_, ?_, fun h0 => ?_, fun a ha => ?_⟩
  · rw [hp.head (hsz ▸ hsize), hsz, hhd]
  · rw [← hcount]
    exact State.fld_of_word (hp.words _ (by simp) (by simp; omega) (by simp; omega))
  · rw [hback, if_neg h0]
    simpa using Memory.reads_writes s.host (s.headBack q) (toBytes 4 ((s.fld (F.QP_INDEX_IN_HEAD q) + 1) % s.inSize q))
  · rw [hback]
    split
    · rfl
    · next h0 => exact Memory.read_writes_other _ _ _ _ (by rw [toBytes_length]; exact ha.resolve_left h0)

/-! ## A gathered chunk is filed -/

theorem State.admits_of_inputs {s : State} {o : Offer} {b : Nat} {g : Group} (h : s.admits o b g) (ins : Sparse InPath) :
    State.admits { s with dev := { s.dev with ins := ins } } o b g := h

theorem Stamped.of_inputs {s u : State} {o : Offer} {b : Nat} {g : Group} {ins : Sparse InPath}
    (h : Stamped { s with dev := { s.dev with ins := ins } } u o b g) : Stamped s u o b g :=
  ⟨h.chunk, h.gap, h.others, h.payload, h.bytes⟩

/-- The number of a gathered chunk: on from the one before, or from 0 where the slot has been declared afresh (R409, R475). -/
def State.gatherSeq (s : State) (k slot : Nat) : Nat :=
  if (s.inp k).declSeq ≠ (s.slot slot).decls then 0 else ((s.inp k).seq + 1) % 2 ^ 32

/-- The input path once its oldest gathered chunk is filed. -/
def State.filedInput (s : State) (k slot : Nat) (y : InPath) : InPath :=
  { y with ready := y.ready.drop 1, seq := s.gatherSeq k slot, declSeq := (s.slot slot).decls }

/-- What a gathered chunk offers. -/
def State.gatherOffer (s : State) (k slot source format rate size lat : Nat) (exact : Bool) (x : Gather) : Offer :=
  ⟨slot, source, s.slotModel slot, x.flags, s.gatherSeq k slot, format, rate, x.bytes.length / size, x.user0.getD 0, x.user1.getD 0, x.bytes,
    if exact then some ((x.at_ + lat) % 2 ^ 64) else none, none⟩

theorem fileChunk_run {s : State} {k slot source format rate size lat b : Nat} {exact : Bool} {drop : Prog} {x : Gather} {xs : List Gather}
    {g : Group} (hready : (s.inp k).ready = x :: xs) (hreach : s.reached (x.at_ + lat) = true)
    (h : s.admits (s.gatherOffer k slot source format rate size lat exact x) b g) :
    let u := (fileChunk k slot source format rate size lat exact drop).run s
    Stamped s u (s.gatherOffer k slot source format rate size lat exact x) b g ∧ (u.inp k).ready = xs ∧ (u.inp k).seq = s.gatherSeq k slot ∧
      (∀ j, j ≠ k → u.inp j = s.inp j) ∧ u.regs = s.regs ∧ SameHost s u := by
  have hseq : (if (s.inp k).declSeq != (s.slot slot).decls then 0 else ((s.inp k).seq + 1) % 2 ^ 32) = s.gatherSeq k slot := by
    simp only [State.gatherSeq, bne_iff_ne]
  have hin := fun j => State.inp_modIn k j (s.filedInput k slot) s
  have hrun : (fileChunk k slot source format rate size lat exact drop).run s =
      (stamp (s.gatherOffer k slot source format rate size lat exact x) fun _ => drop).run ((modIn k (s.filedInput k slot)).run s) := by
    rw [fileChunk, Prog.run_look]
    dsimp only
    rw [hready]
    dsimp only
    rw [Prog.run_when, if_pos hreach, Prog.run_all_cons, Prog.run_all_cons, Prog.run_all_nil, hseq]
    rfl
  have hs : (modIn k (s.filedInput k slot)).run s = { s with dev := { s.dev with ins := ((modIn k (s.filedInput k slot)).run s).dev.ins } } := rfl
  rw [hrun]
  generalize (modIn k (s.filedInput k slot)).run s = y at *
  obtain ⟨hst, hregs, hhost, hdev⟩ := stamp_run (State.admits_of_inputs h y.dev.ins) fun _ => drop
  rw [← hs] at hst hregs hhost hdev
  generalize (stamp _ fun _ => drop).run y = u at *
  have hu : ∀ j, u.inp j = y.inp j := fun j => by rw [State.inp, State.inp, hdev]
  have hyr : y.regs = s.regs ∧ y.host = s.host := by rw [hs]; exact ⟨rfl, rfl⟩
  rw [hs] at hst
  refine ⟨hst.of_inputs, ?_, ?_, fun j hj => by rw [hu, hin, if_neg hj], hregs.trans hyr.1, fun a => congrArg (·.read a) (hhost.trans hyr.2)⟩
  · rw [hu, hin, if_pos rfl]
    show (s.inp k).ready.drop 1 = xs
    rw [hready]
    rfl
  · rw [hu, hin, if_pos rfl]
    rfl

/-- Settles O32: stamping is one lemma about an admitted offer, which the four sources share. -/
theorem chunksAreStamped : Obligations.ChunksAreStamped := by
  refine ⟨?_, ?_, ?_, ?_⟩
  · intro s q b ws hq hen hlink hr hunit hfence hflight hmore hsum hlen hrange hfmt hplen hpay hfit hfault hfree
    exact ingestEntryFetch_completes hq hen hlink hr hunit hfence hflight hmore hsum hlen
      (takeEntry_run hrange hfmt hplen hfit hfault hfree) hpay
  · intro s q e g pay hq hr hflight hgone hlen h hsize
    exact hostChunkStamp_completes hq hr hflight hgone hlen h hsize
  · intro s k b x xs g hk harr hready slot seq n at' o hreach h
    refine completes_done rfl ?_
    rw [Prog.run_when, if_pos (by simp [hk, harr])]
    exact fileChunk_run (exact := true) hready hreach h
  · intro s k i b x xs g hi hon hready slot seq f n o hreach h
    refine completes_done rfl ?_
    rw [Prog.run_when, if_pos (by simp [hi, hon])]
    exact fileChunk_run (exact := false) hready hreach h

end Sys2Proof.Machine
end

section
/-!
EMIT entries (O30): results that leave to a pair of the host, and to an output's play queue (R368, R369, R415, R476, R477).
-/
namespace Sys2Proof.Machine

/-! ## An EMIT entry for one slot with one result -/

theorem State.passed_planeFor (s : State) (p i : Nat) : (s.passed p i).planeFor p false = s.plane p := by
  have h : (s.passed p i).part p = { s.part p with seen := i + 1 } := by
    show Sparse.get Part.blank (Sparse.put Part.blank s.dev.parts p _) p = _
    rw [Sparse.get_put_same]
    rfl
  show ((s.passed p i).part p).active.getD {} = (s.part p).active.getD {}
  rw [h]

theorem onEmit_run {s : State} {p i n : Nat} {e : TtEntry} {unitOk : Nat → Bool} (he : s.entryNow p i false = some e) (hk : e.kind = 6)
    (hr : s.ready = true) (hu : unitOk (bitsOf e.w3 0 8) = true) (hn : s.partSlots p = [n]) :
    (onEmit p i { old := false } unitOk).run s =
      (all [emitSlot [] p false e.group (bitsOf e.w3 0 8) ((s.plane p).emitTable e.ref) n,
        when (bitsOf e.w3 0 8 == 43) (signalMoved (s.passed p i) (tablePairs ((s.plane p).emitTable e.ref)))]).run (s.passed p i) := by
  have hslots : (s.passed p i).partSlots p = [n] := hn
  rw [onEmit, onEntryIf, Prog.run_look, he]
  dsimp only
  rw [Prog.run_when, if_pos (by simp [hk, hr, hu]), Prog.run_all_cons, Prog.run_all_cons, Prog.run_all_nil]
  show (emitGroup [] p false e.group (bitsOf e.w3 0 8) e.ref).run (s.passed p i) = _
  rw [emitGroup, Prog.run_look, State.passed_planeFor, hslots, Prog.run_all_cons, Prog.run_all_cons, Prog.run_all_nil, Prog.run_each_cons,
    Prog.run_each_nil, Prog.run_all_cons, Prog.run_all_cons, Prog.run_all_nil]

theorem State.reports_none (s : State) (a : Nat) : s.reports a .none = .none := by
  rw [State.reports]
  split <;> rfl

/-- A payload whose lines can all be read is read with no trace. -/
theorem readPayload_run {s : State} {r : Result} (h : r.rcount = 0 ∨ s.badLine [] [r.payRange] = none) (n : Nat) :
    (readPayload [] n r).run s = s := by
  rw [readPayload, Prog.run_when]
  split
  · next h0 =>
    have hbad := h.resolve_left (by simpa using h0)
    have hnone : ([r.payRange].flatMap fun r => unitsOf r.1 (r.2 - r.1)).filter
        (fun l => s.reports l (Codes.find [] l 64) == .corrected) = [] := List.filter_eq_nil_iff.mpr fun l _ => by
      rw [show Codes.find [] l 64 = .none from rfl, State.reports_none]
      decide
    rw [reading, Prog.run_look, hbad, hnone]
    rfl
  · rfl

theorem emitSlot_run {x : State} {p g unit n e : Nat} {r : Result} {t : List Nat} (hres : (x.slot n).results = [r])
    (hdue : x.dueAt p false g (x.slot n) r = true) (hread : r.rcount = 0 ∨ x.badLine [] [r.payRange] = none)
    (htab : tableEntry t n = some e) (hsent : destOf unit e ∉ r.sent) :
    ∃ f : SlotDyn → SlotDyn, (emitSlot [] p false g unit t n).run x = (modSlot n f).run ((sendOne unit t n r).run x) ∧
      ∀ y : SlotDyn, y.results = [r] → ∀ r' ∈ (f y).results, r'.sent.contains (destOf unit e) = true := by
  have hgoes : (x.dueAt p false g (x.slot n) r && !r.sent.contains (destOf unit e)) = true := by simp [hdue, hsent]
  have hfilter : (x.slot n).results.filter (fun r => x.dueAt p false g (x.slot n) r && !r.sent.contains (destOf unit e)) = [r] := by
    rw [hres, List.filter_cons, if_pos hgoes]
    rfl
  have hread' : (look fun s => each ((s.slot n).results.filter fun r => s.dueAt p false g (s.slot n) r && !r.sent.contains (destOf unit e))
      (readPayload [] n)).run x = x := by
    rw [Prog.run_look, hfilter, Prog.run_each_cons, Prog.run_each_nil, readPayload_run hread]
  refine ⟨fun y => { y with results := (y.results.map fun r => if x.dueAt p false g (x.slot n) r && !r.sent.contains (destOf unit e) then
      { r with sent := destOf unit e :: r.sent } else r).filter fun r => !(r.chunk.part == p && r.old == false && r.chunk.group == g &&
        (((x.planeFor p false).destsIn (x.tableInForce p false) g n).map Prod.fst).all r.sent.contains) }, ?_, fun y hy r' hr' => ?_⟩
  · rw [emitSlot, htab]
    dsimp only
    rw [Prog.run_all_cons, Prog.run_all_cons, Prog.run_all_nil, hread', Prog.run_look, hfilter, Prog.run_all_cons, Prog.run_all_cons, Prog.run_all_nil, Prog.run_each_cons, Prog.run_each_nil]
  · have hmem := (List.mem_filter.mp hr').1
    rw [hy, List.map_cons, List.map_nil, if_pos hgoes, List.mem_singleton] at hmem
    rw [hmem]
    simp

/-! ## Sending to an output -/

/-- The place of a result in a play queue (R415). -/
def State.queued (s : State) (r : Result) (o : OutPath) : OutPath :=
  { o with next := some (o.next.getD r.chunk.seq), queue := o.queue ++ [{ stream := r.chunk.stream, seq := r.chunk.seq, status := r.status, rformat := r.rformat, rrate := r.rrate, rcount := r.rcount, payload := s.payloadOf r }] }

theorem queueResult_run {x : State} {w k : Nat} {r : Result} (hon : x.outOn w k = true) (hst : r.status ≠ 9)
    (hroom : (x.out (outKey w k)).queue.length < 2) (hbelow : ∀ m, (x.out (outKey w k)).next = some m → m ≤ r.chunk.seq) :
    (queueResult w k r).run x = (modOut (outKey w k) (x.queued r)).run x := by
  have hst' : r.status ≠ stFlushed := hst
  have hlater : ∀ b, b = false → (if !x.outOn w k then Prog.nop
      else if r.status = stFlushed then modOut (outKey w k) fun o => { o with queue := [], next := none, stale := o.stale || o.next.isSome }
      else if b || 2 ≤ (x.out (outKey w k)).queue.length then
        outEvent w k r.chunk.part r.chunk.stream r.chunk.seq 0xB044 F.ARR_PLAY_STALE F.AUD_PLAY_STALE
      else modOut (outKey w k) (x.queued r)) = modOut (outKey w k) (x.queued r) := fun b hb => by
    simp [hb, hon, hst', Nat.not_le.mpr hroom]
  rw [queueResult, Prog.run_look]
  refine congrArg (fun p : Prog => p.run x) (hlater _ ?_)
  cases hn : (x.out (outKey w k)).next with
  | none => rfl
  | some m => exact decide_eq_false (Nat.not_lt.mpr (hbelow m hn))

theorem sendOut_completes {s : State} {p i n x w : Nat} {e : TtEntry} {r : Result} {c : Instr} {unitOk : Nat → Bool}
    (hc : exec c s = done (onEmit p i { old := false } unitOk) s) (he : s.entryNow p i false = some e) (hk : e.kind = 6)
    (hr : s.ready = true) (hu : unitOk w = true) (hw : bitsOf e.w3 0 8 = w) (h43 : w ≠ 43) (hn : s.partSlots p = [n])
    (hres : (s.slot n).results = [r]) (hdue : s.dueAt p false e.group (s.slot n) r = true)
    (hread : r.rcount = 0 ∨ s.badLine [] [r.payRange] = none) (htab : tableEntry ((s.plane p).emitTable e.ref) n = some x)
    (hsent : destOf w x ∉ r.sent) (hon : s.outOn w (destOf w x).2 = true) (hst : r.status ≠ 9)
    (hroom : (s.out (outKey w (destOf w x).2)).queue.length < 2)
    (hbelow : ∀ m, (s.out (outKey w (destOf w x).2)).next = some m → m ≤ r.chunk.seq) :
    Completes c s fun u =>
      (∃ y, (u.out (outKey w (destOf w x).2)).queue = (s.out (outKey w (destOf w x).2)).queue ++ [y] ∧ y.seq = r.chunk.seq ∧
        y.status = r.status ∧ y.rformat = r.rformat ∧ y.rrate = r.rrate ∧ y.rcount = r.rcount ∧ y.payload = s.payloadOf r) ∧
      ((s.out (outKey w (destOf w x).2)).next = none → (u.out (outKey w (destOf w x).2)).next = some r.chunk.seq) ∧
      (∀ m, (s.out (outKey w (destOf w x).2)).next = some m → (u.out (outKey w (destOf w x).2)).next = some m) ∧
      (∀ j, j ≠ outKey w (destOf w x).2 → u.out j = s.out j) ∧ (∀ r' ∈ (u.slot n).results, r'.sent.contains (destOf w x) = true) ∧
      u.regs = s.regs ∧ SameBytes s u ∧ SameHost s u := by
  subst hw
  refine completes_done hc ?_
  rw [onEmit_run he hk hr hu hn, Prog.run_all_cons, Prog.run_all_cons, Prog.run_all_nil, Prog.run_when, if_neg (by simpa using h43)]
  obtain ⟨f, hrun, hf⟩ := emitSlot_run (x := s.passed p i) hres hdue hread htab hsent
  have hone : sendOne (bitsOf e.w3 0 8) ((s.plane p).emitTable e.ref) n r =
      queueResult (bitsOf e.w3 0 8) (destOf (bitsOf e.w3 0 8) x).2 r := by
    rw [sendOne, htab]
    exact if_neg h43
  rw [hrun, hone, queueResult_run (x := s.passed p i) hon hst hroom hbelow]
  have hout := fun j => State.out_modOut (outKey (bitsOf e.w3 0 8) (destOf (bitsOf e.w3 0 8) x).2) j ((s.passed p i).queued r) (s.passed p i)
  have hslots : ((modOut (outKey (bitsOf e.w3 0 8) (destOf (bitsOf e.w3 0 8) x).2) ((s.passed p i).queued r)).run (s.passed p i)).slot n =
      s.slot n := rfl
  have hsame : ((modOut (outKey (bitsOf e.w3 0 8) (destOf (bitsOf e.w3 0 8) x).2) ((s.passed p i).queued r)).run (s.passed p i)).regs = s.regs ∧
      ((modOut (outKey (bitsOf e.w3 0 8) (destOf (bitsOf e.w3 0 8) x).2) ((s.passed p i).queued r)).run (s.passed p i)).mem = s.mem ∧
      ((modOut (outKey (bitsOf e.w3 0 8) (destOf (bitsOf e.w3 0 8) x).2) ((s.passed p i).queued r)).run (s.passed p i)).host = s.host :=
    ⟨rfl, rfl, rfl⟩
  generalize (modOut _ _).run (s.passed p i) = y at *
  obtain ⟨hregs, hmem, hhost⟩ := hsame
  have hmine := State.slot_modSlot n n f y
  have hlast : ((modSlot n f).run y).out = y.out ∧ ((modSlot n f).run y).regs = y.regs ∧ ((modSlot n f).run y).mem = y.mem ∧
      ((modSlot n f).run y).host = y.host := ⟨rfl, rfl, rfl, rfl⟩
  generalize (modSlot n f).run y = u at *
  obtain ⟨huout, huregs, humem, huhost⟩ := hlast
  have hown : u.out (outKey (bitsOf e.w3 0 8) (destOf (bitsOf e.w3 0 8) x).2) =
      s.queued r (s.out (outKey (bitsOf e.w3 0 8) (destOf (bitsOf e.w3 0 8) x).2)) := by
    rw [huout, hout, if_pos rfl]
    rfl
  refine ⟨⟨_, by rw [hown, State.queued], rfl, rfl, rfl, rfl, rfl, rfl⟩, fun h => ?_, fun m h => ?_, fun j hj => ?_, ?_,
    huregs.trans hregs, fun a => congrArg (·.read a) (humem.trans hmem), fun a => congrArg (·.read a) (huhost.trans hhost)⟩
  · rw [hown, State.queued, h]
    rfl
  · rw [hown, State.queued, h]
    rfl
  · rw [huout, hout, if_neg hj]
    rfl
  · rw [hmine, if_pos rfl]
    exact hf _ (by rw [hslots, hres])

/-! ## Sending to a pair -/

/-- A result and its entry have gone to a pair's rings (R368, R369). -/
structure SentHost (x u : State) (q : Nat) (r : Result) : Prop where
  host : u.host = (x.host.writes (x.qpBase q 0x20 + x.fld (F.QP_INDEX_RES_TAIL q) * (64 * x.fld (F.QP_PAY_STRIDE_STRIDE64 q))) (x.payloadOf r)).writes
    (x.qpBase q 0x14 + 64 * x.fld (F.QP_INDEX_RES_TAIL q))
    (r.header ++ [if (x.pair q).phase then 1 else 0] ++ List.replicate 31 0)
  tail : u.fld (F.QP_INDEX_RES_TAIL q) = (x.fld (F.QP_INDEX_RES_TAIL q) + 1) % x.resSize q
  words : ∀ o, o ≠ (F.QP_INDEX_RES_TAIL q).off → u.word o = x.word o
  mem : u.mem = x.mem
  slots : u.dev.slots = x.dev.slots

theorem sendHost_run {x : State} {q : Nat} {r : Result} (hen : x.bit (F.QP_CTL_EN q) = true) (hunit : x.unitState (44 + x.owner q) ≠ 2)
    (hsize : x.resSize q ≤ 2 ^ 16) (hhead : (x.fld (F.QP_INDEX_RES_TAIL q) + 1) % x.resSize q ≠ (x.pair q).head)
    (hlen : (x.payloadOf r).length ≤ 64 * x.fld (F.QP_PAY_STRIDE_STRIDE64 q)) : SentHost x ((sendHost q r).run x) q r := by
  have hgood : (if !x.bit (F.QP_CTL_EN q) then 1 else if x.unitState (44 + x.owner q) == 2 then 2
      else if (x.fld (F.QP_INDEX_RES_TAIL q) + 1) % x.resSize q == (x.pair q).head then 3 else 0) = 0 := by
    simp [hen, hunit, hhead]
  have htake : (x.payloadOf r).take (64 * x.fld (F.QP_PAY_STRIDE_STRIDE64 q)) = x.payloadOf r := List.take_of_length_le hlen
  have hpay : ((when (!(x.payloadOf r).isEmpty) (hostWrite (x.owner q) (x.qpBase q 0x20 + x.fld (F.QP_INDEX_RES_TAIL q) *
      (64 * x.fld (F.QP_PAY_STRIDE_STRIDE64 q))) (x.payloadOf r))).run x).host = x.host.writes (x.qpBase q 0x20 + x.fld (F.QP_INDEX_RES_TAIL q) *
      (64 * x.fld (F.QP_PAY_STRIDE_STRIDE64 q))) (x.payloadOf r) := by
    cases x.payloadOf r <;> rfl
  have hkept : ∀ b a bs, let y := (when b (hostWrite (x.owner q) a bs)).run x
      y.regs = x.regs ∧ y.mem = x.mem ∧ y.dev.slots = x.dev.slots := fun b a bs => by
    cases b <;> exact ⟨rfl, rfl, rfl⟩
  have hquiet : (when (decide (64 * x.fld (F.QP_PAY_STRIDE_STRIDE64 q) < (x.payloadOf r).length))
      (logPair 0xA006 q (.turn r.chunk.part) r.chunk.stream 8)).run x = x := by
    rw [Prog.run_when, if_neg (by simpa using hlen)]
  rw [sendHost, Prog.run_look]
  dsimp only
  rw [hgood, htake, if_neg (by decide), Prog.run_all_cons, Prog.run_all_cons, Prog.run_all_cons, Prog.run_all_cons, Prog.run_all_cons,
    Prog.run_all_nil, hquiet]
  specialize hkept (!(x.payloadOf r).isEmpty) (x.qpBase q 0x20 + x.fld (F.QP_INDEX_RES_TAIL q) *
      (64 * x.fld (F.QP_PAY_STRIDE_STRIDE64 q))) (x.payloadOf r)
  generalize (when _ (hostWrite _ _ (x.payloadOf r))).run x = y at *
  obtain ⟨hyregs, hymem, hyslots⟩ := hkept
  have hentry : ∀ a bs, let z := (hostWrite (x.owner q) a bs).run y
      z.host = y.host.writes a bs ∧ z.regs = y.regs ∧ z.mem = y.mem ∧ z.dev.slots = y.dev.slots := fun _ _ => ⟨rfl, rfl, rfl, rfl⟩
  specialize hentry (x.qpBase q 0x14 + 64 * x.fld (F.QP_INDEX_RES_TAIL q))
    (r.header ++ toBytes 1 (if (x.pair q).phase then 1 else 0) ++ List.replicate 31 0)
  generalize (hostWrite _ _ _).run y = z at *
  obtain ⟨hzhost, hzregs, hzmem, hzslots⟩ := hentry
  have hset := setF_onlyWord (F.QP_INDEX_RES_TAIL q) ((x.fld (F.QP_INDEX_RES_TAIL q) + 1) % x.resSize q) z
  have htail := Prog.fld_setF_same (F.QP_INDEX_RES_TAIL q) ((x.fld (F.QP_INDEX_RES_TAIL q) + 1) % x.resSize q) z (by decide : (16 : ℕ) + 16 ≤ 32)
  generalize (setF (F.QP_INDEX_RES_TAIL q) _).run z = v at *
  have hphase : ∀ b, let u := (when b (modPair q fun x => { x with phase := !x.phase })).run v
      u.host = v.host ∧ u.regs = v.regs ∧ u.mem = v.mem ∧ u.dev.slots = v.dev.slots := fun b => by
    cases b <;> exact ⟨rfl, rfl, rfl, rfl⟩
  specialize hphase ((x.fld (F.QP_INDEX_RES_TAIL q) + 1) % x.resSize q == 0)
  generalize (when _ (modPair q _)).run v = u at *
  obtain ⟨huhost, huregs, humem, huslots⟩ := hphase
  have hbyte : toBytes 1 (if (x.pair q).phase then 1 else 0) = [if (x.pair q).phase then 1 else 0] := by
    cases (x.pair q).phase <;> rfl
  refine ⟨by rw [huhost, hset.host, hzhost, hpay, hbyte], ?_, fun o ho => ?_, ?_, ?_⟩
  · rw [State.fld_of_word (State.word_of_regs huregs _), htail]
    exact Nat.mod_eq_of_lt (lt_of_lt_of_le (Nat.mod_lt _ (Nat.two_pow_pos _)) hsize)
  · rw [State.word_of_regs huregs, hset.words o ho, State.word_of_regs hzregs, State.word_of_regs hyregs]
  · rw [humem, hset.mem, hzmem, hymem]
  · rw [huslots, hset.dev, hzslots, hyslots]

theorem msixPba_off_apart (fn : Nat) {vec : Nat} (h : vec < 256) : (msixPba fn vec).off < 0x40000 ∨ 0x4000000 ≤ (msixPba fn vec).off := by
  rw [msixPba]
  dsimp only
  split <;> omega

/-- One pair may have been signalled, of those whose RES_TAIL may have moved (R370). -/
structure Signalled (x u : State) (off : Nat) : Prop where
  words : ∀ o, o ≠ off → u.word o = x.word o
  host : u.host = x.host
  mem : u.mem = x.mem
  slots : u.dev.slots = x.dev.slots

theorem Signalled.trans {x y z : State} {off : Nat} (h : Signalled x y off) (k : Signalled y z off) : Signalled x z off :=
  ⟨fun o ho => (k.words o ho).trans (h.words o ho), k.host.trans h.host, k.mem.trans h.mem, k.slots.trans h.slots⟩

theorem sendMsix_signalled (fn vec : Nat) (x : State) : Signalled x ((sendMsix fn vec).run x) (msixPba fn vec).off := by
  rw [sendMsix, Prog.run_look]
  split
  · have h := setF_onlyWord (msixPba fn vec) 1 x
    exact ⟨h.words, h.host, h.mem, congrArg Dev.slots h.dev⟩
  · exact ⟨fun _ _ => rfl, rfl, rfl, rfl⟩

/-- Of the pairs of a table only one has moved: it alone is signalled. -/
theorem signalMoved_run {s x : State} {q : Nat} {qs : List Nat} (hqs : ∀ k ∈ qs, k < 256) (hq : q < 256)
    (hstay : ∀ k, k < 256 → k ≠ q → x.word (F.QP_INDEX_RES_TAIL k).off = s.word (F.QP_INDEX_RES_TAIL k).off) :
    Signalled x ((signalMoved s qs).run x) (msixPba (x.owner q) (x.fld (F.QP_CTL_RVEC q))).off := by
  rw [signalMoved]
  refine Prog.run_each_keeps (P := fun y => Signalled x y (msixPba (x.owner q) (x.fld (F.QP_CTL_RVEC q))).off) (fun k hk y hy => ?_) x
    ⟨fun _ _ => rfl, rfl, rfl, rfl⟩
  have hoff := msixPba_off_apart (x.owner q) (State.fld_lt (F.QP_CTL_RVEC q) x)
  generalize hmsg : (msixPba (x.owner q) (x.fld (F.QP_CTL_RVEC q))).off = off at *
  have htail : ∀ j, j < 256 → y.word (F.QP_INDEX_RES_TAIL j).off = x.word (F.QP_INDEX_RES_TAIL j).off := fun j hj =>
    hy.words _ (by simp; omega)
  rw [Prog.run_look, Prog.run_when]
  split
  · next hmoved =>
    have hkq : k = q := by
      by_contra hne
      exact absurd (State.fld_of_word (f := F.QP_INDEX_RES_TAIL k) ((htail k (hqs k hk)).trans (hstay k (hqs k hk) hne))) (by simpa using hmoved)
    rw [hkq, signalPair, Prog.run_look, Prog.run_when]
    split
    · refine hy.trans ?_
      have hctl : y.word (F.QP_CTL_FUNC q).off = x.word (F.QP_CTL_FUNC q).off := hy.words _ (by simp; omega)
      have howner : y.owner q = x.owner q := State.fld_of_word hctl
      have hvec : y.fld (F.QP_CTL_RVEC q) = x.fld (F.QP_CTL_RVEC q) := State.fld_of_word hctl
      have h := sendMsix_signalled (x.owner q) (x.fld (F.QP_CTL_RVEC q)) y
      rw [hmsg] at h
      rw [howner, hvec]
      exact h
    · exact hy
  · exact hy

theorem tablePairs_lt {t : List Nat} {k : Nat} (h : k ∈ tablePairs t) : k < 256 := by
  obtain ⟨x, -, rfl⟩ := List.mem_map.mp (List.mem_eraseDups.mp h)
  exact bitsOf_lt _ _ _

theorem Memory.reads_writes_other (m : Memory) (a b n : Nat) (bs : List Byte) (h : a + n ≤ b ∨ b + bs.length ≤ a) :
    (m.writes b bs).reads a n = m.reads a n :=
  Memory.reads_congr fun i hi hi' => Memory.read_writes_other _ _ _ _ (by omega)

theorem Result.header_length (r : Result) : r.header.length = 32 := by
  simp [Result.header]

/-- An EMIT entry to the host: the result has gone, the slot says so, and the pair may have been signalled. -/
structure EmittedHost (s u : State) (n q : Nat) (r : Result) (y : State) : Prop where
  sent : SentHost s y q r
  slot : ∀ r' ∈ (u.slot n).results, r'.sent.contains (43, q) = true
  words : ∀ o, o ≠ (msixPba (s.owner q) (s.fld (F.QP_CTL_RVEC q))).off → u.word o = y.word o
  mem : u.mem = y.mem
  host : u.host = y.host

theorem emitHost_run {s : State} {p g n e : Nat} {r : Result} {t : List Nat} (hres : (s.slot n).results = [r])
    (hdue : s.dueAt p false g (s.slot n) r = true) (hread : r.rcount = 0 ∨ s.badLine [] [r.payRange] = none)
    (htab : tableEntry t n = some e) (hsent : destOf 43 e ∉ r.sent) (hen : s.bit (F.QP_CTL_EN (bitsOf e 0 8)) = true)
    (hunit : s.unitState (44 + s.owner (bitsOf e 0 8)) ≠ 2) (hsize : s.resSize (bitsOf e 0 8) ≤ 2 ^ 16)
    (hhead : (s.fld (F.QP_INDEX_RES_TAIL (bitsOf e 0 8)) + 1) % s.resSize (bitsOf e 0 8) ≠ (s.pair (bitsOf e 0 8)).head)
    (hlen : (s.payloadOf r).length ≤ 64 * s.fld (F.QP_PAY_STRIDE_STRIDE64 (bitsOf e 0 8))) :
    ∃ y, EmittedHost s ((signalMoved s (tablePairs t)).run ((emitSlot [] p false g 43 t n).run s)) n (bitsOf e 0 8) r y := by
  obtain ⟨f, hrun, hf⟩ := emitSlot_run (unit := 43) hres hdue hread htab hsent
  have hone : sendOne 43 t n r = sendHost (bitsOf e 0 8) r := by
    rw [sendOne, htab]
    rfl
  rw [hrun, hone]
  have hy := sendHost_run hen hunit hsize hhead hlen
  have hdest : destOf 43 e = (43, bitsOf e 0 8) := rfl
  rw [hdest] at hf
  have hq : bitsOf e 0 8 < 256 := bitsOf_lt _ _ _
  generalize bitsOf e 0 8 = q at *
  generalize (sendHost q r).run s = y at *
  have hmine := State.slot_modSlot n n f y
  have hkept : ((modSlot n f).run y).regs = y.regs ∧ ((modSlot n f).run y).mem = y.mem ∧ ((modSlot n f).run y).host = y.host := ⟨rfl, rfl, rfl⟩
  generalize (modSlot n f).run y = z at *
  obtain ⟨hzregs, hzmem, hzhost⟩ := hkept
  have hword : ∀ o, o ≠ (F.QP_INDEX_RES_TAIL q).off → z.word o = s.word o := fun o ho =>
    (State.word_of_regs hzregs o).trans (hy.words o ho)
  have hctl : z.word (F.QP_CTL_FUNC q).off = s.word (F.QP_CTL_FUNC q).off := hword _ (by simp)
  have howner : z.owner q = s.owner q := State.fld_of_word hctl
  have hvec : z.fld (F.QP_CTL_RVEC q) = s.fld (F.QP_CTL_RVEC q) := State.fld_of_word hctl
  have hu := signalMoved_run (s := s) (x := z) (fun k hk => tablePairs_lt (t := t) hk) hq
    fun k _ hne => hword _ (by simpa using hne)
  rw [howner, hvec] at hu
  refine ⟨y, hy, ?_, fun o ho => (hu.words o ho).trans (State.word_of_regs hzregs o), hu.mem.trans hzmem, hu.host.trans hzhost⟩
  have hslot : ((signalMoved s (tablePairs t)).run z).slot n = f (y.slot n) := by
    rw [State.slot, hu.slots]
    exact hmine.trans (if_pos rfl)
  rw [hslot]
  exact hf (y.slot n) (by rw [State.slot, hy.slots]; exact hres)

theorem emitHost_completes {s : State} {p i n x : Nat} {e : TtEntry} {r : Result} (he : s.entryNow p i false = some e) (hk : e.kind = 6)
    (hr : s.ready = true) (hw : bitsOf e.w3 0 8 = 43) (hn : s.partSlots p = [n])
    (h : ∃ y, EmittedHost (s.passed p i) ((signalMoved (s.passed p i) (tablePairs ((s.plane p).emitTable e.ref))).run
      ((emitSlot [] p false e.group 43 ((s.plane p).emitTable e.ref) n).run (s.passed p i))) n (bitsOf x 0 8) r y) :
    Completes (.emitHost p i { old := false }) s fun u => ∃ y, EmittedHost (s.passed p i) u n (bitsOf x 0 8) r y := by
  refine completes_done rfl ?_
  rw [onEmit_run he hk hr (by rw [hw]; rfl) hn, hw, Prog.run_all_cons, Prog.run_all_cons, Prog.run_all_nil, Prog.run_when]
  exact h

theorem EmittedHost.of_passed {s u y : State} {p i n q : Nat} {r : Result} (h : EmittedHost (s.passed p i) u n q r y) :
    EmittedHost s u n q r y :=
  ⟨⟨h.sent.host, h.sent.tail, h.sent.words, h.sent.mem, h.sent.slots⟩, h.slot, h.words, h.mem, h.host⟩

/-- Settles O30: both kinds of EMIT send the one result of the slot; the host's also signals the pair whose RES_TAIL has moved. -/
theorem emitsSendResults : Obligations.EmitsSendResults := by
  refine ⟨?_, ?_⟩
  · intro s p i n x e r he hk hr hw hn hres hdue hread htab hsent hen hunit hsize q j room hhead hlen at' pay
    obtain ⟨u, hu, y, hy⟩ := emitHost_completes he hk hr hw hn (emitHost_run (s := s.passed p i) hres hdue hread htab hsent hen hunit hsize hhead hlen)
    obtain ⟨⟨hhost, htail, hwords, hmem, -⟩, hslot, huwords, humem, huhost⟩ := hy.of_passed
    have hrings : u.host = (s.host.writes pay (s.payloadOf r)).writes at'
        (r.header ++ [if (s.pair q).phase then 1 else 0] ++ List.replicate 31 0) := huhost.trans hhost
    have hlast : (r.header ++ [if (s.pair q).phase then 1 else 0] ++ List.replicate 31 0).length = 64 := by simp [Result.header_length]
    have hoff := msixPba_off_apart (s.owner q) (State.fld_lt (F.QP_CTL_RVEC q) s)
    have hq : q < 256 := bitsOf_lt _ _ _
    refine ⟨u, hu, ?_, ?_, fun hapart => ?_, fun a ha1 ha2 => ?_, hslot, fun a => congrArg (·.read a) (humem.trans hmem), fun o ho => ?_⟩
    · rw [← htail]
      refine State.fld_of_word (huwords _ fun heq => ?_)
      have hplace : (F.QP_INDEX_RES_TAIL q).off = 0x81030 + 0x40 * q := rfl
      rw [← heq] at hoff
      omega
    · rw [hrings, ← hlast]
      exact Memory.reads_writes _ _ _
    · rw [hrings, Memory.reads_writes_other _ _ _ _ _ (by omega)]
      exact Memory.reads_writes _ _ _
    · rw [hrings, Memory.read_writes_other _ _ _ _ (by omega), Memory.read_writes_other _ _ _ _ (by omega)]
    · obtain ⟨h1, h2⟩ : o ≠ (F.QP_INDEX_RES_TAIL q).off ∧ o ≠ (msixPba (s.owner q) (s.fld (F.QP_CTL_RVEC q))).off := by simpa using ho
      exact (huwords o h2).trans (hwords o h1)
  · intro s p i n x w e r c he hk hr hw hn hres hdue hread htab hsent hc k hon hst hroom hbelow
    have h43 : w ≠ 43 := by omega
    have hdest : destOf w x = (w, k) := by rw [destOf, if_neg h43]
    have hall : ∀ unitOk, exec c s = done (onEmit p i { old := false } unitOk) s → unitOk w = true → _ := fun unitOk hrun hok =>
      sendOut_completes hrun he hk hr hok hw h43 hn hres hdue hread htab hsent (by rw [hdest]; exact hon) hst (by rw [hdest]; exact hroom)
        (by rw [hdest]; exact hbelow)
    rw [hdest] at hall
    obtain ⟨rfl, rfl⟩ | ⟨h1, h2, rfl⟩ := hc
    · exact hall (· == 112) rfl rfl
    · exact hall isPort rfl (by simp [isPort, h1, h2])

end Sys2Proof.Machine
end

section
/-!
GATHER entries: the due chunks of a group get consecutive batch positions (R75, R90).
-/
namespace Sys2Proof.Machine

/-! ## The release of a record -/

/-- What is done to one slot and to memory: no other slot and nothing else of the device changes, and the host's memory stays. -/
abbrev slotBound (n : Nat) : Bound where
  dev d e := e = { d with slots := e.slots, poison := e.poison } ∧
    ∀ k, k ≠ n → Sparse.get SlotDyn.blank e.slots k = Sparse.get SlotDyn.blank d.slots k
  reg _ := True
  mem := True
  host := False

theorem slotBound_steps (n : Nat) : (slotBound n).Steps :=
  ⟨fun _ => ⟨rfl, fun _ _ => rfl⟩, fun h k => ⟨by rw [k.1, h.1], fun j hj => (k.2 j hj).trans (h.2 j hj)⟩⟩

theorem modSlot_slotBound (n : Nat) (f : SlotDyn → SlotDyn) : (modSlot n f).Only (Act.obeys (slotBound n)) :=
  fun _ => ⟨rfl, fun _ hk => Sparse.get_put_other _ _ _ _ _ hk⟩

theorem freeIfIdle_slotBound (page n : Nat) : (freeIfIdle page).Only (Act.obeys (slotBound n)) := by
  have hset : ∀ lo w v, (setPage page lo w v).Only (Act.obeys (slotBound n)) := fun _ _ _ _ => trivial
  have hzero : ∀ a c, (zeroFill a c).Only (Act.obeys (slotBound n)) := fun _ _ => ⟨trivial, fun _ => ⟨rfl, fun _ _ => rfl⟩, trivial⟩
  refine fun s => Prog.only_when.mpr fun _ => ⟨?_, hset _ _ _, incF_obeys.mpr trivial, trivial⟩
  split
  · exact Prog.only_when.mpr fun _ => ⟨hzero _ _, hset _ _ _, trivial⟩
  · exact Prog.only_nop

theorem releaseRecord_slotBound (n : Nat) : (releaseRecord n).Only (Act.obeys (slotBound n)) := by
  refine fun s => ⟨Prog.only_each.mpr fun page _ => ⟨fun _ _ => trivial, freeIfIdle_slotBound page n, trivial⟩, ?_, modSlot_slotBound n _, trivial⟩
  split
  · exact fun _ => trivial
  · exact Prog.only_nop

/-! ## The positions that a GATHER gives -/

/-- A chunk at its place in a batch. -/
def Chunk.gathered (c : Chunk) (k now turn : Nat) : Chunk := { c with pos := some k, gatheredAt := now, gatherTurn := turn }

theorem State.dueIdx_congr {s x : State} {p n turn : Nat} (hhs : x.dev.hs = s.dev.hs) (hparts : x.dev.parts = s.dev.parts)
    (hslot : x.slot n = s.slot n) : x.dueIdx p n turn = s.dueIdx p n turn := by
  simp only [State.dueIdx, State.now, State.plane, State.part, hhs, hparts, hslot]

theorem modNth_getElem? {α : Type} (f : α → α) (l : List α) (i : Nat) : (modNth f l i)[i]? = l[i]?.map f := by
  induction l generalizing i with
  | nil => rfl
  | cons a l ih => cases i with
    | zero => rfl
    | succ i => exact ih i

/-- What GATHER does with the slots of a list, from position `j0` on. -/
structure GatheredAll (s u : State) (p turn j0 : Nat) (l : List Nat) : Prop where
  placed : ∀ k n j, (l.filter fun n => (s.dueIdx p n turn).isSome)[k]? = some n → s.dueIdx p n turn = some j →
    ∃ c, (s.slot n).chunks[j]? = some c ∧ (u.slot n).chunks[j]? = some (c.gathered (j0 + k) s.now turn)
  others : ∀ n, n ∉ l → u.slot n = s.slot n
  host : u.host = s.host

theorem State.getElem_of_dueIdx {s : State} {p n turn j : Nat} (h : s.dueIdx p n turn = some j) : ∃ c, (s.slot n).chunks[j]? = some c := by
  obtain ⟨hj, -⟩ := List.findIdx?_eq_some_iff_getElem.mp h
  exact ⟨_, List.getElem?_eq_getElem hj⟩

theorem Prog.Only.slotKept {p turn m : Nat} {l : List Nat} {q : Prog} (h : q.Only (Act.obeys (slotBound m))) (hm : m ∉ l) (s : State) :
    (∀ n, n ∈ l → (q.run s).dueIdx p n turn = s.dueIdx p n turn) ∧ (∀ n, n ≠ m → (q.run s).slot n = s.slot n) ∧ (q.run s).now = s.now ∧
      (q.run s).host = s.host := by
  obtain ⟨hd, hs⟩ := h.devs (slotBound_steps m) s
  have hhost := h.hosts id s
  generalize q.run s = x at *
  have hslot : ∀ n, n ≠ m → x.slot n = s.slot n := fun n hn => hs n hn
  exact ⟨fun n hn => State.dueIdx_congr (by rw [hd]) (by rw [hd]) (hslot n fun e => hm (e ▸ hn)), hslot, by rw [State.now, State.now, hd], hhost⟩

theorem GatheredAll.rest {s y u : State} {p turn j m : Nat} {l : List Nat} (h : GatheredAll y u p turn j l) (hm : m ∉ l)
    (hdue : ∀ n, n ∈ l → y.dueIdx p n turn = s.dueIdx p n turn) (hslot : ∀ n, n ≠ m → y.slot n = s.slot n) (hnow : y.now = s.now)
    (hhost : y.host = s.host) :
    (∀ k n i, (l.filter fun n => (s.dueIdx p n turn).isSome)[k]? = some n → s.dueIdx p n turn = some i →
      ∃ c, (s.slot n).chunks[i]? = some c ∧ (u.slot n).chunks[i]? = some (c.gathered (j + k) s.now turn)) ∧
    (∀ n, n ∉ m :: l → u.slot n = s.slot n) ∧ u.host = s.host := by
  refine ⟨fun k n i hk hi => ?_, fun n hn => ?_, h.host.trans hhost⟩
  · have hn := List.mem_of_mem_filter (List.mem_of_getElem? hk)
    have hfilter : (l.filter fun n => (y.dueIdx p n turn).isSome) = l.filter fun n => (s.dueIdx p n turn).isSome :=
      List.filter_congr fun n hn => by rw [hdue n hn]
    obtain ⟨c, hc, hu⟩ := h.placed k n i (hfilter ▸ hk) ((hdue n hn).trans hi)
    exact ⟨c, by rw [← hslot n fun e => hm (e ▸ hn)]; exact hc, by rw [hu, hnow]⟩
  · have h1 : n ≠ m := fun e => hn (e ▸ List.mem_cons_self)
    rw [h.others n fun e => hn (List.mem_cons_of_mem _ e), hslot n h1]

theorem gatherAll_run {p turn : Nat} {l : List Nat} (hl : l.Nodup) (j0 : Nat) (s : State) :
    GatheredAll s ((gatherAll p turn l j0).run s) p turn j0 l := by
  induction l generalizing j0 s with
  | nil => exact ⟨fun k n j h => by simp at h, fun _ _ => rfl, rfl⟩
  | cons m l ih =>
    obtain ⟨hm, hl⟩ := List.nodup_cons.mp hl
    rw [gatherAll, Prog.run_look]
    cases hi : s.dueIdx p m turn with
    | some i =>
      rw [Prog.run_all_cons, Prog.run_all_cons, Prog.run_all_nil]
      have hown := State.slot_modSlot m m
        (fun x => { x with chunks := modNth (fun c => { c with pos := some j0, gatheredAt := s.now, gatherTurn := turn }) x.chunks i }) s
      rw [if_pos rfl] at hown
      obtain ⟨hdue, hslot, hnow, hhost⟩ := (modSlot_slotBound m (fun x => { x with chunks := modNth (fun c => { c with pos := some j0, gatheredAt := s.now, gatherTurn := turn }) x.chunks i })).slotKept (p := p) (turn := turn) hm s
      generalize (modSlot m _).run s = y at *
      have hu := ih hl (j0 + 1) y
      have hmine := hu.others m hm
      obtain ⟨hplaced, hothers, hlast⟩ := hu.rest hm hdue hslot hnow hhost
      refine ⟨fun k n j hk hj => ?_, hothers, hlast⟩
      rw [List.filter_cons_of_pos (by rw [hi]; rfl)] at hk
      cases k with
      | zero =>
        obtain rfl : m = n := by simpa using hk
        obtain rfl : i = j := by simpa [hi] using hj
        obtain ⟨c, hc⟩ := State.getElem_of_dueIdx hi
        refine ⟨c, hc, ?_⟩
        rw [hmine, hown, modNth_getElem?, hc]
        rfl
      | succ k =>
        rw [Nat.add_comm k 1, ← Nat.add_assoc]
        exact hplaced k n j hk hj
    | none =>
      rw [Prog.run_all_cons, Prog.run_all_cons, Prog.run_all_nil]
      obtain ⟨hdue, hslot, hnow, hhost⟩ := Prog.Only.slotKept (p := p) (turn := turn) (Prog.only_when.mpr fun _ => releaseRecord_slotBound m :
        (when ((s.heldDesc m).isSome && (s.slot m).walkTurn == turn && !(s.slot m).chunks.any fun c => c.bound) (releaseRecord m)).Only
          (Act.obeys (slotBound m))) hm s
      generalize (when _ (releaseRecord m)).run s = y at *
      obtain ⟨hplaced, hothers, hlast⟩ := (ih hl j0 y).rest hm hdue hslot hnow hhost
      refine ⟨fun k n j hk hj => ?_, hothers, hlast⟩
      rw [List.filter_cons_of_neg (by rw [hi]; decide)] at hk
      exact hplaced k n j hk hj

theorem State.passed_plane (s : State) (p i : Nat) : (s.passed p i).plane p = s.plane p := s.passed_planeFor p i

theorem gather_completes {s : State} {p i : Nat} {e : TtEntry} {g : Group} {l : List Nat} (he : s.entryNow p i false = some e)
    (hk : e.kind = 3) (hr : s.ready = true) (hg : (s.plane p).group e.group = some g) (hl : l = sortNat (s.members p g (s.turnNo p)))
    (hnd : l.Nodup) :
    Completes (.gather p i) s fun u => GatheredAll s u p (s.turnNo p) 0 l := by
  refine completes_done rfl ?_
  have hplane := s.passed_plane p i
  have hturn : (s.passed p i).turnNo p = s.turnNo p := rfl
  have hmembers : (s.passed p i).members p g (s.turnNo p) = s.members p g (s.turnNo p) := by
    rw [State.members, State.members, hplane]
    rfl
  have hdue : ∀ n, (s.passed p i).dueIdx p n (s.turnNo p) = s.dueIdx p n (s.turnNo p) := fun n => by
    rw [State.dueIdx, State.dueIdx, hplane]
    rfl
  rw [onEntry_run he hk hr, gatherEntry, Prog.run_look, hplane, hg]
  dsimp only
  rw [hturn, hmembers, ← hl]
  obtain ⟨hplaced, hothers, hhost⟩ := gatherAll_run (turn := s.turnNo p) (p := p) hnd 0 (s.passed p i)
  simp only [hdue] at hplaced
  exact ⟨hplaced, hothers, hhost⟩

end Sys2Proof.Machine
end

section
/-!
LAUNCH entries: a program starts on the one free tile that it names (R91, R113, R335, R390); the statement about GATHER and LAUNCH (O29).
-/
namespace Sys2Proof.Machine

/-! ## The launch of one chunk on one tile -/

theorem State.passed_part (s : State) (p i : Nat) : (s.passed p i).part p = { s.part p with seen := i + 1 } := by
  show Sparse.get Part.blank (Sparse.put Part.blank s.dev.parts p _) p = _
  rw [Sparse.get_put_same]
  rfl

theorem State.passed_pick (s : State) (p i : Nat) (pl : Plane) (e : TtEntry) (n k : Nat) (c : Chunk) :
    (s.passed p i).pick pl p false e n k c = s.pick pl p false e n k c := by
  have hdesc : (s.passed p i).descFor p false e.group n = s.descFor p false e.group n := by
    rw [State.descFor, State.descFor, s.passed_planeFor]
    simp only [State.tableInForce, State.timetable, s.passed_plane, s.passed_part]
    rfl
  simp only [State.pick, hdesc]
  rfl

/-- The launch of one chunk on one tile. -/
def State.soleLaunch (s : State) (p t n : Nat) (e : TtEntry) (c : Chunk) : Launch :=
  { part := p, old := false, prog := e.ref, group := e.group, stage := launchStage e, slice := launchSlice e, chunks := [(n, c.arrival)],
    tiles := [t], tick := s.now, seq := c.seq, seedLo := s.fld (F.TT_SR_SEED_LO_SEED p), seedHi := s.fld (F.TT_SR_SEED_HI_SEED p) }

theorem launchEntry_sole {s : State} {p t n : Nat} {e : TtEntry} {c : Chunk} (hst : s.unitState (32 + p) ≠ 2)
    (hchunks : s.chunksOf p = [(n, 0, c)]) (hpick : s.pick (s.plane p) p false e n 0 c = .take)
    (hlive : ∀ b ∈ membersOf e.benches 32, s.fenced b = false ∧ s.unitState b = 1)
    (htiles : ((membersOf e.benches 32).flatMap tilesOf).filter ((s.plane p).carries e.ref) = [t]) (hfree : s.tileFree t = true) :
    (launchEntry p false e).run s = (all [addF F.KV_NOT_READY 0, takeChunk (launchStage e) [t] (n, 0, c),
      placeLaunch (s.soleLaunch p t n e c) t, each (membersOf e.benches 32) cancelBench]).run s := by
  have hnamed : (membersOf e.benches 32).filter (fun b => !false || inMask (s.plane p).benches b) = membersOf e.benches 32 := by simp
  have hdead : (membersOf e.benches 32).filter (fun b => s.fenced b || s.unitState b == bBlank) = [] :=
    List.filter_eq_nil_iff.mpr fun b hb => by simp [hlive b hb, bBlank]
  have hplane : s.planeFor p false = s.plane p := rfl
  have hrun : ((s.tile t).run == 2) = false := by
    simp [State.tileFree] at hfree
    simp [hfree]
  have hspin : s.inSpin (t / 16) = true := by
    simp [State.tileFree] at hfree
    simp [hfree]
  have hshort : (membersOf e.benches 32).filter (fun b => !s.inSpin b && [t].any fun t => t / 16 == b) = [] :=
    List.filter_eq_nil_iff.mpr fun b hb => by
      by_cases h : t / 16 = b
      · simp [← h, hspin]
      · simp [h]
  rw [launchEntry, Prog.run_look]
  dsimp only
  rw [hplane, hnamed, hdead]
  simp only [List.contains_nil, Bool.not_false, List.filter_true]
  rw [htiles, hchunks, hshort]
  have hstop : (s.unitState (32 + p) == 2) = false := by simpa using hst
  simp only [List.map_cons, List.map_nil, hpick, hstop, hrun, List.any_cons, List.any_nil]
  simp [byPos, firstOfSlot, insertPos, Prog.run_when, Prog.run_all_cons, Prog.run_each_cons, Prog.run_each_nil]
  rfl

/-! ## The program starts -/

theorem State.planeFor_of_parts {s x : State} (h : x.dev.parts = s.dev.parts) (p : Nat) (old : Bool) : x.planeFor p old = s.planeFor p old := by
  simp only [State.planeFor, State.plane, State.part, h]

/-- What starting a launch leaves of a tile (R113). -/
def Tile.started (y : Tile) (l : Launch) (r : TileRec) (checked : Bool) (t now : Nat) : Tile :=
  { y with
    run := 1, launch := some l, pbase := r.pbase, plen := r.plen, rbase := r.rbase, checked := checked,
    pc := bitsOf (r.progs.getD l.prog 0) 0 13, mode := r.mode, shadow := none, delay := none, loops := [],
    vlens := 256 :: y.vlens.drop 1, sregs := ([(1, l.chunks.length), (2, l.stage), (3, l.tiles.findIdx (· == t)), (4, l.tiles.length)].filter fun x => x.2 != 0).map fun x => (x.1, BitVec.ofNat 64 x.2)
    sel := none, cdone := [], waited := 0, passBp := none, srWrapped := false, issuedAt := now }

/-- A program starts or waits: of the device, the tile alone changes, and some registers. -/
structure StartKept (s u : State) (t : Nat) : Prop where
  tiles : ∀ j, j ≠ t → u.tile j = s.tile j
  slots : u.dev.slots = s.dev.slots
  mem : u.mem = s.mem
  host : u.host = s.host

theorem StartKept.trans {s x u : State} {t : Nat} (h : StartKept s x t) (k : StartKept x u t) : StartKept s u t :=
  ⟨fun j hj => (k.tiles j hj).trans (h.tiles j hj), k.slots.trans h.slots, k.mem.trans h.mem, k.host.trans h.host⟩

theorem modTile_startKept (t : Nat) (f : Tile → Tile) (s : State) : StartKept s ((modTile t f).run s) t :=
  ⟨fun _ hj => State.tile_modTile_other hj s f, rfl, rfl, rfl⟩

theorem startTile_run {s : State} {t : Nat} {l : Launch} {r : TileRec} (h : (s.planeFor l.part l.old).tileRec t = some r) :
    let u := (startTile t l).run s
    u.tile t = (s.tile t).started l r (s.planeFor l.part l.old).checked t s.now ∧ StartKept s u t := by
  rw [startTile, Prog.run_look]
  dsimp only
  rw [h]
  dsimp only
  rw [Prog.run_all_cons, Prog.run_all_cons, Prog.run_all_cons, Prog.run_all_cons, Prog.run_all_nil]
  have hkept := modTile_startKept t (fun x => x.started l r (s.planeFor l.part l.old).checked t s.now) s
  have hmine := State.tile_modTile_same s t (fun x => x.started l r (s.planeFor l.part l.old).checked t s.now)
  simp only [Tile.started] at hkept hmine
  generalize (modTile t _).run s = a at *
  have h1 := setF_onlyWord (F.VEC_SR_KEY_LO_KEY (t / 16) (t % 16)) (l.seedLo ^^^ l.seq) a
  generalize (setF (F.VEC_SR_KEY_LO_KEY (t / 16) (t % 16)) _).run a = b at *
  have h2 := setF_onlyWord (F.VEC_SR_KEY_HI_KEY (t / 16) (t % 16)) (l.seedHi ^^^ (l.stage * 65536) ^^^ l.tiles.findIdx (· == t)) b
  generalize (setF (F.VEC_SR_KEY_HI_KEY (t / 16) (t % 16)) _).run b = c at *
  have h3 := setF_onlyWord (F.VEC_SR_CTR_CTR (t / 16) (t % 16)) 0 c
  generalize (setF (F.VEC_SR_CTR_CTR (t / 16) (t % 16)) 0).run c = u at *
  have hdev : u.dev = a.dev := h3.dev.trans (h2.dev.trans h1.dev)
  have htile : ∀ j, u.tile j = a.tile j := fun j => by rw [State.tile, State.tile, hdev]
  exact ⟨(htile t).trans hmine, fun j hj => (htile j).trans (hkept.tiles j hj), (congrArg Dev.slots hdev).trans hkept.slots,
    (h3.mem.trans (h2.mem.trans h1.mem)).trans hkept.mem, (h3.host.trans (h2.host.trans h1.host)).trans hkept.host⟩

theorem placeLaunch_run {s : State} {t : Nat} {l : Launch} {r : TileRec} (h : (s.planeFor l.part l.old).tileRec t = some r)
    (hfree : s.tileFree t = true) (hwait : (s.tile t).waiting = []) :
    let u := (placeLaunch l t).run s
    u.tile t = (s.tile t).started l r (s.planeFor l.part l.old).checked t s.now ∧ StartKept s u t := by
  rw [placeLaunch, Prog.run_all_cons, Prog.run_all_cons, Prog.run_all_nil, startNext, Prog.run_look]
  have hk := modTile_startKept t (fun x => { x with waiting := x.waiting ++ [l] }) s
  have hmine := State.tile_modTile_same s t (fun x => { x with waiting := x.waiting ++ [l] })
  have hsame : ∀ f y, ((modTile t f).run y).dev.parts = y.dev.parts ∧ ((modTile t f).run y).now = y.now ∧
      ((modTile t f).run y).inSpin (t / 16) = y.inSpin (t / 16) := fun _ _ => ⟨rfl, rfl, rfl⟩
  obtain ⟨hp, hn, hs⟩ := hsame (fun x => { x with waiting := x.waiting ++ [l] }) s
  generalize (modTile t _).run s = a at *
  have hwaiting : (a.tile t).waiting = [l] := by rw [hmine]; exact congrArg (· ++ [l]) hwait
  have hafree : a.tileFree t = true := by
    rw [← hfree, State.tileFree, State.tileFree, hmine, hs]
  rw [hwaiting]
  dsimp only
  rw [Prog.run_when, if_pos hafree, Prog.run_all_cons, Prog.run_all_cons, Prog.run_all_nil]
  have hk' := modTile_startKept t (fun x => { x with waiting := [] }) a
  have hmine' := State.tile_modTile_same a t (fun x => { x with waiting := [] })
  obtain ⟨hp', hn', -⟩ := hsame (fun x => { x with waiting := [] }) a
  generalize (modTile t _).run a = b at *
  have hplane : b.planeFor l.part l.old = s.planeFor l.part l.old := State.planeFor_of_parts (hp'.trans hp) _ _
  obtain ⟨hu, hku⟩ := startTile_run (s := b) (t := t) (l := l) (r := r) (by rw [hplane]; exact h)
  refine ⟨?_, hk.trans (hk'.trans hku)⟩
  rw [hu, hplane, hn', hn, hmine', hmine, Tile.started, Tile.started, ← hwait]

/-! ## Benches that a launch leaves -/

/-- Benches move: of the device, the power state alone changes, and no memory does. -/
abbrev benchBound : Bound where
  dev d e := e = { d with pwr := e.pwr }
  reg _ := True
  mem := False
  host := False

theorem benchBound_steps : benchBound.Steps := ⟨fun _ => rfl, fun {c d e} h k => by
  show e = { c with pwr := e.pwr }
  rw [k, h]⟩

theorem modPwr_benchBound (f) : (modPwr f).Only (Act.obeys benchBound) := fun _ => rfl

theorem idleBench_benchBound (b : Nat) : (idleBench b).Only (Act.obeys benchBound) := by
  have hpwr := modPwr_benchBound
  have hset : ∀ v, (setUnit b v).Only (Act.obeys benchBound) := fun _ => setUnit_obeys.mpr trivial
  have hmove : ∀ v, (moveBench b v).Only (Act.obeys benchBound) := fun v => by
    simp [-Act.obeys_dev, moveBench, startWake, startDwell, dropMoves, hpwr, hset]
  intro s
  show Prog.Only _ (match s.benchPart b with | none => _ | some p => _)
  split
  · exact Prog.only_nop
  · refine Prog.only_when.mpr fun _ => ?_
    split
    · split
      · exact Prog.only_nop
      · exact hmove _
    · exact hmove _

theorem cancelBench_benchBound (b : Nat) : (cancelBench b).Only (Act.obeys benchBound) := by
  refine fun s => Prog.only_when.mpr fun _ => ?_
  split
  · exact modPwr_benchBound _
  · exact idleBench_benchBound b

theorem takeChunk_run {s : State} {st t n : Nat} {c : Chunk} (h : (s.slot n).chunks = [c]) :
    let u := (takeChunk st [t] (n, 0, c)).run s
    (∃ c', (u.slot n).chunks = [c'] ∧ c'.launched = true ∧ c'.running = some st ∧ c'.owing = [t] ∧ c'.seq = c.seq) ∧
      u.dev = { s.dev with slots := u.dev.slots } ∧ u.regs = s.regs ∧ u.mem = s.mem ∧ u.host = s.host := by
  refine ⟨?_, rfl, rfl, rfl, rfl⟩
  rw [takeChunk, Prog.run_look, State.slot_modSlot, if_pos rfl]
  dsimp only
  rw [h]
  exact ⟨_, rfl, rfl, rfl, rfl, rfl⟩

theorem Tile.started_sregs (y : Tile) {l : Launch} (r : TileRec) (checked : Bool) {t now : Nat} (hc : l.chunks.length = 1) (hst : l.stage = 0)
    (ht : l.tiles = [t]) :
    let x := y.started l r checked t now
    x.sreg 1 = 1 ∧ x.sreg 2 = 0 ∧ x.sreg 3 = 0 ∧ x.sreg 4 = 1 := by
  have hs : (y.started l r checked t now).sregs = [(1, 1), (4, 1)] := by
    rw [Tile.started, hc, hst, ht]
    simp
  simp [Tile.sreg, hs, Sparse.get, zeroLong]

theorem launch_completes {s : State} {p i t n : Nat} {e : TtEntry} {c : Chunk} {r : TileRec} (ht : t < 512)
    (he : s.entryNow p i false = some e) (hk : e.kind = 1) (hr : s.ready = true) (hst : launchStage e = 0)
    (hunit : s.unitState (32 + p) ≠ 2) (hchunks : s.chunksOf p = [(n, 0, c)]) (hpick : s.pick (s.plane p) p false e n 0 c = .take)
    (hslot : (s.slot n).chunks = [c]) (hlive : ∀ b ∈ membersOf e.benches 32, s.fenced b = false ∧ s.unitState b = 1)
    (htiles : ((membersOf e.benches 32).flatMap tilesOf).filter ((s.plane p).carries e.ref) = [t]) (hrec : (s.plane p).tileRec t = some r)
    (hfree : s.tileFree t = true) (hwait : (s.tile t).waiting = []) :
    Completes (.launch p i false) s fun u =>
      u.tile t = (s.tile t).started (s.soleLaunch p t n e c) r (s.plane p).checked t s.now ∧
      (∃ c', (u.slot n).chunks = [c'] ∧ c'.launched = true ∧ c'.running = some 0 ∧ c'.owing = [t] ∧ c'.seq = c.seq) ∧
      (∀ j, j ≠ t → u.tile j = s.tile j) ∧ SameBytes s u ∧ SameHost s u := by
  refine completes_done rfl ?_
  have hplane := s.passed_plane p i
  rw [onEntry_run he hk hr, Prog.run_when, if_pos (by rfl : (!false || launchStage e != 0) = true), launchEntry_sole (s := s.passed p i) hunit hchunks
    (by rw [hplane, s.passed_pick]; exact hpick) hlive (by rw [hplane]; exact htiles) hfree, hst,
    show (s.passed p i).soleLaunch p t n e c = s.soleLaunch p t n e c from rfl,
    Prog.run_all_cons, Prog.run_all_cons, Prog.run_all_cons, Prog.run_all_cons, Prog.run_all_nil]
  have hx : (s.passed p i).dev.pwr = s.dev.pwr ∧ (s.passed p i).tile = s.tile ∧ (s.passed p i).slot = s.slot ∧ (s.passed p i).now = s.now ∧
      (s.passed p i).regs = s.regs ∧ (s.passed p i).mem = s.mem ∧ (s.passed p i).host = s.host := ⟨rfl, rfl, rfl, rfl, rfl, rfl, rfl⟩
  generalize s.passed p i = x at *
  obtain ⟨hxpwr, hxtile, hxslot, hxnow, hxregs, hxmem, hxhost⟩ := hx
  have ha : OnlyWord x ((addF F.KV_NOT_READY 0).run x) F.KV_NOT_READY.off := setF_onlyWord F.KV_NOT_READY _ x
  generalize (addF F.KV_NOT_READY 0).run x = a at *
  have haslot : a.slot = s.slot := by rw [← hxslot]; funext k; rw [State.slot, State.slot, ha.dev]
  obtain ⟨hchunk, hbdev, hbregs, hbmem, hbhost⟩ := takeChunk_run (s := a) (st := 0) (t := t) (n := n) (c := c) (by rw [haslot]; exact hslot)
  generalize (takeChunk 0 [t] (n, 0, c)).run a = b at *
  have hbtile : ∀ j, b.tile j = s.tile j := fun j => by rw [← hxtile, State.tile, State.tile, hbdev, ha.dev]
  have hbplane : b.planeFor p false = s.plane p := (State.planeFor_of_parts (s := x) (by rw [hbdev, ha.dev]) p false).trans hplane
  have hbnow : b.now = s.now := by rw [← hxnow, State.now, State.now, hbdev, ha.dev]
  have hbspin : b.inSpin (t / 16) = s.inSpin (t / 16) := by
    have hw : b.word (0x40100 + 4 * (t / 16)) = s.word (0x40100 + 4 * (t / 16)) :=
      ((State.word_of_regs hbregs _).trans (ha.words _ (by show 0x40100 + 4 * (t / 16) ≠ F.KV_NOT_READY.off; simp; omega))).trans
        (State.word_of_regs hxregs _)
    have hu : b.unitState (t / 16) = s.unitState (t / 16) := State.fld_of_word hw
    have hpwr : b.dev.pwr = s.dev.pwr := by rw [hbdev, ha.dev, hxpwr]
    rw [State.inSpin, State.inSpin, hu, hpwr]
  have hbfree : b.tileFree t = true := by rw [← hfree, State.tileFree, State.tileFree, hbtile, hbspin]
  obtain ⟨hmine, hkept⟩ := placeLaunch_run (s := b) (l := s.soleLaunch p t n e c) (by rw [show (s.soleLaunch p t n e c).part = p from rfl, show (s.soleLaunch p t n e c).old = false from rfl, hbplane]; exact hrec) hbfree
    (by rw [hbtile]; exact hwait)
  generalize (placeLaunch (s.soleLaunch p t n e c) t).run b = d at *
  have hbenches : (each (membersOf e.benches 32) cancelBench).Only (Act.obeys benchBound) := Prog.only_each.mpr fun b _ => cancelBench_benchBound b
  have hudev : _ = _ := hbenches.devs benchBound_steps d
  have humem := hbenches.mems id d
  have huhost := hbenches.hosts id d
  generalize (each (membersOf e.benches 32) cancelBench).run d = u at *
  have hutile : ∀ j, u.tile j = d.tile j := fun j => by rw [State.tile, State.tile, hudev]
  refine ⟨?_, ?_, fun j hj => (hutile j).trans ((hkept.tiles j hj).trans (hbtile j)), fun y => congrArg (Memory.read · y) (?_ : u.mem = s.mem),
    fun y => congrArg (Memory.read · y) (?_ : u.host = s.host)⟩
  · rw [hutile, hmine, hbtile, hbnow]
    exact congrArg (fun pl : Plane => (s.tile t).started (s.soleLaunch p t n e c) r pl.checked t s.now) hbplane
  · have huslot : u.slot n = b.slot n := by
      rw [State.slot, hudev]
      exact congrArg (fun l => Sparse.get SlotDyn.blank l n) hkept.slots
    rw [huslot]
    exact hchunk
  · rw [humem, hkept.mem, hbmem, ha.mem, hxmem]
  · rw [huhost, hkept.host, hbhost, ha.host, hxhost]

/-- Settles O29: GATHER numbers the due chunks one by one; a LAUNCH takes its chunk, and the tile starts at once. -/
theorem gatherAndLaunch : Obligations.GatherAndLaunch := by
  refine ⟨fun s p i e g l he hk hr hg hl hnd => ?_, fun s p i t n e c r ht hp he hk hr hst hunit hchunks hpick hslot hlive htiles hrec hfree hwait => ?_⟩
  · obtain ⟨u, hu, hplaced, hothers, hhost⟩ := gather_completes he hk hr hg hl hnd
    refine ⟨u, hu, fun k n j hkn hj => ?_, hothers, fun a => congrArg (·.read a) hhost⟩
    obtain ⟨c, hc, huc⟩ := hplaced k n j hkn hj
    exact ⟨c, hc, by rw [huc, Nat.zero_add]; rfl⟩
  · obtain ⟨u, hu, htile, hchunk, hothers, hbytes, hhost⟩ := launch_completes ht he hk hr hst hunit hchunks hpick hslot hlive htiles hrec hfree hwait
    obtain ⟨h1, h2, h3, h4⟩ := (s.tile t).started_sregs (l := s.soleLaunch p t n e c) r (s.plane p).checked (t := t) (now := s.now) rfl hst rfl
    rw [← htile] at h1 h2 h3 h4
    exact ⟨u, hu, by rw [htile]; rfl, by rw [htile]; rfl, h1, h2, h3, h4, by rw [htile]; rfl, by rw [htile]; rfl, by rw [htile]; rfl,
      by rw [htile]; exact ⟨fun _ _ => rfl, rfl⟩, hchunk, hothers, hbytes, hhost⟩

end Sys2Proof.Machine
end

section
/-!
Turn boundaries (R55, R100, R298).
-/
namespace Sys2Proof.Machine

/-! ## One partition and the log -/

theorem State.part_modPart (p q : Nat) (f : Part → Part) (s : State) :
    ((modPart p f).run s).part q = if q = p then f (s.part p) else s.part q := by
  show Sparse.get Part.blank (Sparse.put Part.blank s.dev.parts p _) q = _
  rw [Sparse.get_put]
  rfl

/-- Of the device, one partition's own state and the log have changed. -/
structure OnlyPart (s u : State) (p : Nat) : Prop where
  dev : u.dev = { s.dev with parts := u.dev.parts, log := u.dev.log, out := u.dev.out, marks := u.dev.marks }
  others : ∀ q, q ≠ p → u.part q = s.part q
  regs : SameRegsBut s u logRegs
  mem : u.mem = s.mem
  host : u.host = s.host
  count : s.dev.log.count ≤ u.dev.log.count

theorem OnlyPart.trans {s x u : State} {p : Nat} (h : OnlyPart s x p) (k : OnlyPart x u p) : OnlyPart s u p :=
  ⟨by rw [k.dev, h.dev], fun q hq => (k.others q hq).trans (h.others q hq), fun o ho => (k.regs o ho).trans (h.regs o ho), k.mem.trans h.mem,
    k.host.trans h.host, h.count.trans k.count⟩

theorem modPart_onlyPart (p : Nat) (f : Part → Part) (s : State) : OnlyPart s ((modPart p f).run s) p :=
  ⟨rfl, fun q hq => (State.part_modPart p q f s).trans (if_neg hq), fun _ _ => rfl, rfl, rfl, le_refl _⟩

theorem OnlyLogs.onlyPart {s u : State} (h : OnlyLogs s u) (p : Nat) : OnlyPart s u p ∧ u.part = s.part := by
  have hpart : u.part = s.part := funext fun q => by rw [State.part, State.part, h.dev]
  exact ⟨⟨by rw [h.dev], fun q _ => congrFun hpart q, h.regs, h.mem, h.host, h.count⟩, hpart⟩

/-! ## The switches of a boundary -/

/-- The derate switch of a boundary, where the order for it has changed (R100, R564). -/
def State.derated (s : State) (p : Nat) : Part :=
  if s.derateAsked p = (s.part p).slow then s.part p
  else { s.part p with slow := s.derateAsked p, derated := s.derateAsked p && !(s.plane p).derated.isEmpty }

theorem derateSwitch_run (p : Nat) (s : State) :
    OnlyPart s ((derateSwitch p).run s) p ∧ ((derateSwitch p).run s).part p = s.derated p ∧
      (s.derateAsked p = (s.part p).slow → (derateSwitch p).run s = s) := by
  have hthen : ∀ (f : Part → Part) (P : Prog), P.Only Act.logs → let u := (all [modPart p f, P]).run s
      OnlyPart s u p ∧ u.part p = f (s.part p) := fun f P hP => by
    rw [Prog.run_all_cons, Prog.run_all_cons, Prog.run_all_nil]
    have hmine := State.part_modPart p p f s
    have hk := modPart_onlyPart p f s
    generalize (modPart p f).run s = x at *
    obtain ⟨hl, hpart⟩ := (hP.onlyLogs x).onlyPart p
    exact ⟨hk.trans hl, by rw [hpart, hmine, if_pos rfl]⟩
  rw [derateSwitch, Prog.run_look, State.derated]
  dsimp only
  cases ha : s.derateAsked p <;> cases hs : (s.part p).slow
  · exact ⟨⟨rfl, fun _ _ => rfl, fun _ _ => rfl, rfl, rfl, le_refl _⟩, rfl, fun _ => rfl⟩
  · obtain ⟨h1, h2⟩ := hthen (fun x => { x with slow := false, derated := false })
      (when (s.part p).derated (logC 0x2009 0 (32 + p) [s.turnNo p % 2 ^ 32])) (Prog.only_when.mpr fun _ => logC_onlyLogs _ _ _ _ _)
    exact ⟨h1, h2, fun h => absurd h (by decide)⟩
  · obtain ⟨h1, h2⟩ := hthen (fun x => { x with slow := true, derated := !(s.plane p).derated.isEmpty })
      (if !(s.plane p).derated.isEmpty then logC 0x2008 0 (32 + p) [s.turnNo p % 2 ^ 32] else logC 0x200A 1 (32 + p) [s.turnNo p % 2 ^ 32])
      (by split <;> exact logC_onlyLogs _ _ _ _ _)
    exact ⟨h1, h2, fun h => absurd h (by decide)⟩
  · exact ⟨⟨rfl, fun _ _ => rfl, fun _ _ => rfl, rfl, rfl, le_refl _⟩, rfl, fun _ => rfl⟩

theorem turnBoundary_run {s : State} {p : Nat} (hb : s.atBoundary p = true) (hr : s.ready = true) (hstart : (s.part p).turnStart ≠ some s.now)
    (hregrip : (s.part p).regrip = none) :
    ∃ x, OnlyPart s x p ∧ x.dev.slots = s.dev.slots ∧ (s.derateAsked p = (s.part p).slow → x.dev.log = s.dev.log ∧ x.regs = s.regs) ∧
      x.part p = { s.derated p with turnStart := some s.now, seen := 0, lateThisTurn := 0, banks := (x.part p).banks } ∧
      (turnBoundary p).run s = (stopSwitch p).run x := by
  have hdue : (regripDue p).run s = s := by
    rw [regripDue, Prog.run_look, hregrip]
    rfl
  rw [turnBoundary, Prog.run_look, Prog.run_when, if_pos (by simp [hb, hr, hstart]), Prog.run_all_cons, Prog.run_all_cons, Prog.run_all_nil,
    hdue, beginTurn, Prog.run_look, Prog.run_when, if_pos hb]
  iterate 5 rw [Prog.run_all_cons]
  rw [Prog.run_all_nil]
  have h1 := modPart_onlyPart p (fun x => { x with turnStart := some s.now, seen := 0, lateThisTurn := 0 }) s
  have hmine1 := (State.part_modPart p p (fun x => { x with turnStart := some s.now, seen := 0, lateThisTurn := 0 }) s).trans (if_pos rfl)
  have hlog1 : ((modPart p fun x => { x with turnStart := some s.now, seen := 0, lateThisTurn := 0 }).run s).dev.log = s.dev.log ∧
      ((modPart p fun x => { x with turnStart := some s.now, seen := 0, lateThisTurn := 0 }).run s).regs = s.regs := ⟨rfl, rfl⟩
  generalize (modPart p _).run s = a at *
  have hasked : a.derateAsked p = s.derateAsked p := by rw [State.derateAsked, State.derateAsked, h1.dev]
  have hplane : a.plane p = s.plane p := by rw [State.plane, hmine1]; rfl
  obtain ⟨h2, hmine2, hsame⟩ := derateSwitch_run p a
  rw [hasked, hmine1] at hsame
  generalize (derateSwitch p).run a = b at *
  have hmineb : b.part p = { s.derated p with turnStart := some s.now, seen := 0, lateThisTurn := 0 } := by
    rw [hmine2, State.derated, State.derated, hasked, hplane, hmine1]
    by_cases h : s.derateAsked p = (s.part p).slow
    · rw [if_pos h, if_pos h]
    · rw [if_neg h, if_neg h]
  have h3 : OnlyPart b ((openBanks p).run b) p := by
    rw [openBanks, Prog.run_look]
    exact modPart_onlyPart p _ b
  have hmine3 : ((openBanks p).run b).part p = { b.part p with banks := (((openBanks p).run b).part p).banks } := by
    rw [openBanks, Prog.run_look, State.part_modPart, if_pos rfl]
  have hlog3 : ((openBanks p).run b).dev.log = b.dev.log ∧ ((openBanks p).run b).regs = b.regs := ⟨rfl, rfl⟩
  generalize (openBanks p).run b = x at *
  have hk : OnlyPart s x p := h1.trans (h2.trans h3)
  refine ⟨x, hk, by rw [hk.dev], fun h => ?_, by rw [hmine3, hmineb], ?_⟩
  · rw [hlog3.1, hlog3.2, hsame h]
    exact hlog1
  · rw [hregrip]
    rfl

/-! ## The two ends of a boundary -/

theorem unitLine_not_log {u : Nat} (h : u < 128) : 0x40100 + 4 * u ∉ logRegs := by
  simp [logRegs]
  omega

theorem OnlyPart.unitState {s x : State} {p u : Nat} (h : OnlyPart s x p) (hu : u < 128) : x.unitState u = s.unitState u :=
  State.fld_of_word (h.regs _ (unitLine_not_log hu))

theorem turnBoundary_goesOn {s : State} {p : Nat} (hp : p < 8) (hb : s.atBoundary p = true) (hr : s.ready = true)
    (hstart : (s.part p).turnStart ≠ some s.now) (hregrip : (s.part p).regrip = none) (hstop : (s.part p).stopAsked = false)
    (hunit : s.unitState (32 + p) ≠ 2) :
    Completes (.turnBoundary p) s fun u => OnlyPart s u p ∧
      u.part p = { s.derated p with turnStart := some s.now, seen := 0, lateThisTurn := 0, banks := (u.part p).banks } ∧
      (s.derateAsked p = (s.part p).slow → u.dev.log = s.dev.log ∧ u.regs = s.regs) := by
  obtain ⟨x, hx, -, hsame, hmine, hrun⟩ := turnBoundary_run hb hr hstart hregrip
  refine completes_done (p := turnBoundary p) rfl ?_
  have hnone : (x.part p).stopAsked = false := by
    rw [hmine, ← hstop, State.derated]
    dsimp only
    split <;> rfl
  have hstay : (stopSwitch p).run x = x := by
    rw [stopSwitch, Prog.run_look, Prog.run_when, if_neg (by simp [hnone, hx.unitState (u := 32 + p) (by omega), hunit])]
  rw [hrun, hstay]
  exact ⟨hx, hmine, hsame⟩

theorem disablePart_kept (p : Nat) (x : State) :
    (((disablePart p).run x).part p).stopAsked = false ∧ ((disablePart p).run x).dev.log = x.dev.log := by
  rw [disablePart, Prog.run_look]
  iterate 4 rw [Prog.run_all_cons]
  rw [Prog.run_all_nil]
  have h1 := setUnit_line (32 + p) 0 x
  generalize (setUnit (32 + p) 0).run x = a at *
  have h2 := setF_onlyWord (F.TB_TURN_LEN_LEN p) 0 a
  generalize (setF (F.TB_TURN_LEN_LEN p) 0).run a = b at *
  have hmine := (State.part_modPart p p (fun x => { x with stopAsked := false, derated := false, slow := false, turnStart := none, seen := 0, banks := [] }) b).trans
    (if_pos rfl)
  have hk := modPart_onlyPart p (fun x => { x with stopAsked := false, derated := false, slow := false, turnStart := none, seen := 0, banks := [] }) b
  have hlog : ((modPart p fun x => { x with stopAsked := false, derated := false, slow := false, turnStart := none, seen := 0, banks := [] }).run b).dev.log =
    b.dev.log := rfl
  generalize (modPart p _).run b = c at *
  have hbenches : (each (membersOf (x.plane p).benches 32) idleBench).Only (Act.obeys benchBound) :=
    Prog.only_each.mpr fun b _ => idleBench_benchBound b
  have hd : _ = _ := hbenches.devs benchBound_steps c
  generalize (each _ idleBench).run c = u at *
  refine ⟨?_, ?_⟩
  · rw [State.part, hd]
    show (c.part p).stopAsked = false
    rw [hmine]
  · rw [hd]
    show c.dev.log = x.dev.log
    rw [hlog, h2.dev, h1.dev]

theorem turnBoundary_stops {s : State} {p : Nat} (hp : p < 8) (hb : s.atBoundary p = true) (hr : s.ready = true)
    (hstart : (s.part p).turnStart ≠ some s.now) (hregrip : (s.part p).regrip = none) (hstop : (s.part p).stopAsked = true) :
    Completes (.turnBoundary p) s fun u => u.unitState (32 + p) = (if s.partBusy p then 2 else 0) ∧
      (s.partBusy p = false → (u.part p).stopAsked = false ∧ u.turnLen p = 0 ∧ u.dev.log.count ≠ s.dev.log.count) ∧
      SameBytes s u ∧ SameHost s u := by
  obtain ⟨x, hx, hslots, -, hmine, hrun⟩ := turnBoundary_run hb hr hstart hregrip
  refine completes_done (p := turnBoundary p) rfl ?_
  have hasked : (x.part p).stopAsked = true ∧ (x.part p).regrip = none := by
    rw [hmine, ← hstop, ← hregrip, State.derated]
    dsimp only
    split <;> exact ⟨rfl, rfl⟩
  have hbusy : x.partBusy p = s.partBusy p := by
    simp only [State.partBusy, State.partSlots, State.liveSlots, State.slot, hslots]
  rw [hrun, stopSwitch, Prog.run_look, Prog.run_when, if_pos (by simp [hasked.1]), hbusy]
  cases s.partBusy p with
  | true =>
    have hset := (setUnit_run (32 + p) 2 x).1
    have hline := setUnit_line (32 + p) 2 x
    rw [if_pos rfl]
    generalize (setUnit (32 + p) 2).run x = u at *
    exact ⟨hset, fun h => absurd h (by decide), fun a => congrArg (Memory.read · a) (hline.mem.trans hx.mem),
      fun a => congrArg (Memory.read · a) (hline.host.trans hx.host)⟩
  | false =>
    rw [if_neg (by decide), Prog.run_all_cons, Prog.run_all_cons, Prog.run_all_cons, Prog.run_all_nil]
    have hview := disablePart_partView hp x
    have hob := disablePart_partBound p
    have hmem := hob.mems id x
    have hhost := hob.hosts id x
    obtain ⟨hstopped, hlog⟩ := disablePart_kept p x
    generalize (disablePart p).run x = y at *
    have hlogs := logC_run_onlyLogs 0x8004 2 (32 + p) [] none y
    have hlt := logC_count_lt 0x8004 2 (32 + p) [] none y
    generalize (logC 0x8004 2 (32 + p) []).run y = u at *
    rw [Prog.run_when, if_neg (by simp [hasked.2])]
    have hstate : y.unitState (32 + p) = 0 := congrArg PartView.state hview
    have hlen : y.turnLen p = 0 := congrArg PartView.len hview
    refine ⟨(State.fld_of_word (hlogs.regs _ (unitLine_not_log (by omega)))).trans hstate, fun _ => ⟨?_, ?_, ?_⟩,
      fun a => congrArg (Memory.read · a) (hlogs.mem.trans (hmem.trans hx.mem)),
      fun a => congrArg (Memory.read · a) (hlogs.host.trans (hhost.trans hx.host))⟩
    · rw [congrFun (hlogs.onlyPart p).2 p, hstopped]
    · exact (State.fld_of_word (hlogs.regs _ (by simp [logRegs]; omega))).trans hlen
    · rw [hlog] at hlt
      exact (lt_of_le_of_lt hx.count hlt).ne'

end Sys2Proof.Machine
end

section
/-!
Chunks that end MISSED or FAIL_OVERRUN (R93, R95, R96); the statement about turns and overruns (O27).
-/
namespace Sys2Proof.Machine

/-! ## What stays beside the slots -/

/-- What is done beside the slots: planes stay, and the host's memory. -/
abbrev asideBound : Bound where
  dev d e := e.slots = d.slots ∧ ∀ p, (Sparse.get Part.blank e.parts p).active = (Sparse.get Part.blank d.parts p).active ∧
    (Sparse.get Part.blank e.parts p).retiring = (Sparse.get Part.blank d.parts p).retiring
  reg _ := True
  mem := True
  host := False

theorem asideBound_steps : asideBound.Steps :=
  ⟨fun _ => ⟨rfl, fun _ => ⟨rfl, rfl⟩⟩, fun h k => ⟨k.1.trans h.1, fun p => ⟨(k.2 p).1.trans (h.2 p).1, (k.2 p).2.trans (h.2 p).2⟩⟩⟩
theorem asideBound_logs : asideBound.Logs := ⟨fun _ _ _ _ _ => ⟨rfl, fun _ => ⟨rfl, rfl⟩⟩, fun _ _ => trivial⟩

@[simp] theorem logC_asideBound (code sev unit ds st) : (logC code sev unit ds st).Only (Act.obeys asideBound) :=
  asideBound_logs.logC code sev unit ds st
@[simp] theorem logLim_asideBound (l i code sev unit ds st) : (logLim l i code sev unit ds st).Only (Act.obeys asideBound) :=
  asideBound_logs.logLim l i code sev unit ds st

theorem modPoison_asideBound (f : List Nat → List Nat) : (modDev fun d => { d with poison := f d.poison }).Only (Act.obeys asideBound) :=
  fun _ => ⟨rfl, fun _ => ⟨rfl, rfl⟩⟩

theorem freeIfIdle_asideBound (page : Nat) : (freeIfIdle page).Only (Act.obeys asideBound) := by
  have hset : ∀ lo w v, (setPage page lo w v).Only (Act.obeys asideBound) := fun _ _ _ _ => trivial
  have hzero : ∀ a c, (zeroFill a c).Only (Act.obeys asideBound) := fun _ _ => ⟨trivial, modPoison_asideBound _, trivial⟩
  refine fun s => Prog.only_when.mpr fun _ => ⟨?_, hset _ _ _, incF_obeys.mpr trivial, trivial⟩
  split
  · exact Prog.only_when.mpr fun _ => ⟨hzero _ _, hset _ _ _, trivial⟩
  · exact Prog.only_nop

theorem unpinPage_asideBound (page : Nat) : (unpinPage page).Only (Act.obeys asideBound) :=
  ⟨fun _ _ => trivial, freeIfIdle_asideBound page, trivial⟩

theorem restoreState_asideBound (c : Chunk) : (restoreState c).Only (Act.obeys asideBound) := by
  rw [restoreState]
  split
  · exact Prog.only_nop
  · exact ⟨trivial, Prog.only_each.mpr fun _ _ => trivial, fun _ => ⟨rfl, fun _ => ⟨rfl, rfl⟩⟩, trivial⟩

theorem modPart_asideBound (p : Nat) {f : Part → Part} (hf : ∀ x, (f x).active = x.active ∧ (f x).retiring = x.retiring) :
    (modPart p f).Only (Act.obeys asideBound) := by
  refine fun d => ⟨rfl, fun q => ?_⟩
  show (Sparse.get Part.blank (Sparse.put Part.blank d.parts p _) q).active = _ ∧ (Sparse.get Part.blank (Sparse.put Part.blank d.parts p _) q).retiring = _
  rw [Sparse.get_put]
  split
  · next h => rw [h]; exact hf _
  · exact ⟨rfl, rfl⟩

theorem countResult_asideBound (p slot : Nat) (r : Result) : (countResult p slot r).Only (Act.obeys asideBound) := by
  have hlate := modPart_asideBound p (f := fun x => { x with lateThisTurn := x.lateThisTurn + 1 }) fun _ => ⟨rfl, rfl⟩
  simp [countResult, hlate]

/-! ## Results that are held -/

/-- The slot holds a result of a chunk with an outcome and a tick. -/
def SlotDyn.holds (y : SlotDyn) (c : Chunk) (st tick : Nat) : Prop :=
  ∃ r ∈ y.results, r.status = st ∧ r.chunk.seq = c.seq ∧ r.complete = tick ∧ r.chunk.part = c.part ∧ r.chunk.group = c.group ∧ r.old = c.old

/-- From one state to the next no slot gains a chunk, planes stay, and a result that its plane sends somewhere stays. -/
structure Carried (x y : State) (n : Nat) : Prop where
  plane : ∀ p old, y.planeFor p old = x.planeFor p old
  chunks : (y.slot n).chunks.length ≤ (x.slot n).chunks.length
  held : ∀ c st tick, (x.planeFor c.part c.old).dests c.group n ≠ [] → (x.slot n).holds c st tick → (y.slot n).holds c st tick

theorem Carried.refl (x : State) (n : Nat) : Carried x x n := ⟨fun _ _ => rfl, le_refl _, fun _ _ _ _ h => h⟩

theorem Carried.trans {x y z : State} {n : Nat} (h : Carried x y n) (k : Carried y z n) : Carried x z n :=
  ⟨fun p old => (k.plane p old).trans (h.plane p old), k.chunks.trans h.chunks, fun c st tick hd hh =>
    k.held c st tick (by rw [h.plane]; exact hd) (h.held c st tick hd hh)⟩

theorem Carried.of_aside {P : Prog} (h : P.Only (Act.obeys asideBound)) (x : State) (n : Nat) : Carried x (P.run x) n := by
  obtain ⟨hslots, hparts⟩ := h.devs asideBound_steps x
  generalize P.run x = y at *
  have hslot : y.slot n = x.slot n := by rw [State.slot, State.slot, hslots]
  refine ⟨fun p old => ?_, by rw [hslot], fun c st tick _ hh => by rw [hslot]; exact hh⟩
  have ha : (y.part p).active = (x.part p).active := (hparts p).1
  have hr : (y.part p).retiring = (x.part p).retiring := (hparts p).2
  rw [State.planeFor, State.planeFor, hr, State.plane, State.plane, ha]

theorem Carried.of_modSlot (m : Nat) {f : SlotDyn → SlotDyn} (x : State) (n : Nat)
    (hc : m = n → (f (x.slot n)).chunks.length ≤ (x.slot n).chunks.length)
    (hh : m = n → ∀ c st tick, (x.planeFor c.part c.old).dests c.group n ≠ [] → (x.slot n).holds c st tick → (f (x.slot n)).holds c st tick) :
    Carried x ((modSlot m f).run x) n := by
  have hput := State.slot_modSlot m n f x
  have hplane : ∀ p old, ((modSlot m f).run x).planeFor p old = x.planeFor p old := fun p old => State.planeFor_of_parts rfl p old
  generalize (modSlot m f).run x = y at *
  by_cases hm : m = n
  · rw [if_pos hm.symm, hm] at hput
    exact ⟨hplane, by rw [hput]; exact hc hm, fun c st tick hd h => by rw [hput]; exact hh hm c st tick hd h⟩
  · rw [if_neg (Ne.symm hm)] at hput
    exact ⟨hplane, by rw [hput], fun c st tick _ h => by rw [hput]; exact h⟩

theorem SlotDyn.holds_of_results {y z : SlotDyn} {c : Chunk} {st tick : Nat} (h : y.holds c st tick)
    (hr : ∀ r ∈ y.results, ∃ q ∈ z.results, q.status = r.status ∧ q.chunk.seq = r.chunk.seq ∧ q.complete = r.complete ∧
      q.chunk.part = r.chunk.part ∧ q.chunk.group = r.chunk.group ∧ q.old = r.old) : z.holds c st tick := by
  obtain ⟨r, hmem, h1, h2, h3, h4, h5, h6⟩ := h
  obtain ⟨q, hq, k1, k2, k3, k4, k5, k6⟩ := hr r hmem
  exact ⟨q, hq, k1.trans h1, k2.trans h2, k3.trans h3, k4.trans h4, k5.trans h5, k6.trans h6⟩

theorem mem_insertResult {r q : Result} {l : List Result} : q ∈ insertResult r l ↔ q = r ∨ q ∈ l := by
  induction l with
  | nil => simp [insertResult]
  | cons x xs ih =>
    rw [insertResult]
    split
    · simp
    · rw [List.mem_cons, ih, List.mem_cons]
      tauto

theorem modNth_length {α : Type} (f : α → α) (l : List α) (i : Nat) : (modNth f l i).length = l.length := by
  induction l generalizing i with
  | nil => rfl
  | cons a l ih => cases i with
    | zero => rfl
    | succ i => exact congrArg (· + 1) (ih i)

theorem mem_modNth {α : Type} {f : α → α} {l : List α} {i : Nat} {a : α} (h : a ∈ l) : a ∈ modNth f l i ∨ f a ∈ modNth f l i := by
  induction l generalizing i with
  | nil => cases h
  | cons b l ih =>
    cases i with
    | zero =>
      rcases List.mem_cons.mp h with rfl | h
      · exact .inr List.mem_cons_self
      · exact .inl (List.mem_cons_of_mem _ h)
    | succ i =>
      rcases List.mem_cons.mp h with rfl | h
      · exact .inl List.mem_cons_self
      · exact (ih h).imp (List.mem_cons_of_mem _) (List.mem_cons_of_mem _)

theorem dropUnbound_carried (m : Nat) (x : State) (n : Nat) : Carried x ((dropUnbound m).run x) n := by
  rw [dropUnbound, Prog.run_look]
  refine Carried.of_modSlot m x n (fun _ => le_refl _) fun hm c st tick hd h => ?_
  obtain ⟨r, hmem, h1, h2, h3, h4, h5, h6⟩ := h
  refine ⟨r, List.mem_filter.mpr ⟨hmem, ?_⟩, h1, h2, h3, h4, h5, h6⟩
  rw [h4, h5, h6, hm]
  simp [hd]

theorem markGap_carried (m i arrival : Nat) (x : State) (n : Nat) : Carried x ((markGap m i arrival).run x) n := by
  rw [markGap, Prog.run_look]
  cases (x.slot m).nextResult i arrival with
  | none =>
    refine Carried.of_modSlot m x n (fun _ => ?_) fun _ c st tick _ h => SlotDyn.holds_of_results h fun r hr => ⟨r, ?_, rfl, rfl, rfl, rfl, rfl, rfl⟩
    · split
      · exact (modNth_length _ _ _).le
      · exact le_refl _
    · split <;> exact hr
  | some j =>
    refine Carried.of_modSlot m x n (fun _ => le_refl _) fun _ c st tick _ h => SlotDyn.holds_of_results h fun r hr => ?_
    rcases mem_modNth (f := fun r : Result => { r with flags := withFlag r.flags flagGap, chunk := r.chunk.withGap }) (i := j) hr with h | h
    · exact ⟨_, h, rfl, rfl, rfl, rfl, rfl, rfl⟩
    · exact ⟨_, h, rfl, rfl, rfl, rfl, rfl, rfl⟩

/-- A slot whose stage record is released (R254). -/
def SlotDyn.released (x : SlotDyn) : SlotDyn :=
  { x with pins := [], walkDesc := none, walker := none, walkLeft := [], chunks := x.chunks.map fun c => { c with bound := false } }

/-- The release of a record is done beside the slots, but for the slot that it is taken from. -/
theorem releaseRecord_run (m : Nat) (x : State) :
    ∃ P : Prog, P.Only (Act.obeys asideBound) ∧ (releaseRecord m).run x = (modSlot m SlotDyn.released).run (P.run x) := by
  have hall : ∀ (l : List Nat) (P : Prog), P.Only (Act.obeys asideBound) → (all [each l unpinPage, P]).Only (Act.obeys asideBound) ∧
      (all [each l unpinPage, P, modSlot m SlotDyn.released]).run x = (modSlot m SlotDyn.released).run ((all [each l unpinPage, P]).run x) :=
    fun l P hP => ⟨⟨Prog.only_each.mpr fun page _ => unpinPage_asideBound page, hP, trivial⟩, by
      rw [Prog.run_all_cons, Prog.run_all_cons, Prog.run_all_cons, Prog.run_all_nil, Prog.run_all_cons, Prog.run_all_cons, Prog.run_all_nil]⟩
  rw [releaseRecord, Prog.run_look]
  refine ⟨_, hall _ _ ?_⟩
  split
  · exact fun _ => trivial
  · exact Prog.only_nop

theorem releaseRecord_carried (m : Nat) (x : State) (n : Nat) : Carried x ((releaseRecord m).run x) n := by
  obtain ⟨P, hP, hrun⟩ := releaseRecord_run m x
  rw [hrun]
  exact (Carried.of_aside hP x n).trans (Carried.of_modSlot m _ n (fun _ => by simp [SlotDyn.released]) fun _ c st tick _ h =>
    SlotDyn.holds_of_results h fun r hr => ⟨r, hr, rfl, rfl, rfl, rfl, rfl, rfl⟩)

/-! ## A chunk ends -/

/-- A slot whose chunk at place `i` has ended with a result. -/
def SlotDyn.ended (x : SlotDyn) (i status : Nat) (c : Chunk) (r : Result) : SlotDyn :=
  { x with chunks := x.chunks.eraseIdx i, results := insertResult { r with chunk := { r.chunk with before := none } } x.results, newUtt := x.newUtt || (status == 0 && hasFlag c.flags flagLast) }

/-- What follows when a chunk has ended. -/
def afterEnd (rel : Bool) (slot i status : Nat) (c : Chunk) (r : Result) : Prog :=
  all [when (status != stDone) (restoreState c), when (gapAfter status) (markGap slot i c.arrival), when rel (releaseRecord slot),
    countResult c.part slot r, dropUnbound slot]

theorem endChunkAt_run {x : State} {m i : Nat} {c : Chunk} (hc : (x.slot m).chunks[i]? = some c) (status tick : Nat) (fmt : Nat × Nat × Nat) :
    (endChunkAt m i status tick fmt).run x = (afterEnd (x.holdsRecord m c) m i status c (c.result status tick fmt)).run
      ((modSlot m fun y => y.ended i status c (c.result status tick fmt)).run x) := by
  rw [endChunkAt, Prog.run_look, hc]
  rfl

theorem afterEnd_carried (rel : Bool) (m i status : Nat) (c : Chunk) (r : Result) (x : State) (n : Nat) :
    Carried x ((afterEnd rel m i status c r).run x) n := by
  have hwhen : ∀ (b : Bool) (P : Prog) (y : State), (∀ z, Carried z (P.run z) n) → Carried y ((when b P).run y) n := fun b P y h => by
    cases b
    · exact Carried.refl y n
    · exact h y
  rw [afterEnd]
  iterate 5 rw [Prog.run_all_cons]
  rw [Prog.run_all_nil]
  exact ((((hwhen _ _ x fun z => Carried.of_aside (restoreState_asideBound c) z n).trans (hwhen _ _ _ fun z => markGap_carried m i _ z n)).trans
    (hwhen _ _ _ fun z => releaseRecord_carried m z n)).trans (Carried.of_aside (countResult_asideBound _ _ _) _ n)).trans
    (dropUnbound_carried m _ n)

theorem endChunkAt_carried (m i status tick : Nat) (fmt : Nat × Nat × Nat) (x : State) (n : Nat) :
    Carried x ((endChunkAt m i status tick fmt).run x) n := by
  cases hc : (x.slot m).chunks[i]? with
  | none =>
    rw [endChunkAt, Prog.run_look, hc]
    exact Carried.refl x n
  | some c =>
    rw [endChunkAt_run hc]
    refine (Carried.of_modSlot m x n (fun hm => ?_) fun _ d st tick _ h => SlotDyn.holds_of_results h fun r hr =>
      ⟨r, mem_insertResult.mpr (.inr hr), rfl, rfl, rfl, rfl, rfl, rfl⟩).trans (afterEnd_carried _ _ _ _ _ _ _ n)
    exact List.length_eraseIdx_le _ _

theorem endOf_carried (st : Nat) (c : Nat × Nat) (status : Nat) (x : State) (n : Nat) : Carried x ((endOf st c status).run x) n := by
  rw [endOf, Prog.run_look]
  cases x.runIdx st c with
  | none => exact Carried.refl x n
  | some i => exact endChunkAt_carried c.1 i status _ _ x n

/-! ## What a chunk's end leaves of the registers and of the host -/

/-- One register stays, and the host's memory. -/
abbrev sparingBound (off : Nat) : Bound where
  dev _ _ := True
  reg o := o ≠ off
  mem := True
  host := False

section
variable {off : Nat}

theorem sparingBound_logs (h : off ∉ logRegs) : (sparingBound off).Logs := ⟨fun _ _ _ _ _ => trivial, fun _ ho e => h (e ▸ ho)⟩

theorem modDev_sparing (f : Dev → Dev) : (modDev f).Only (Act.obeys (sparingBound off)) := fun _ => trivial

theorem freeIfIdle_sparing (h : off ≠ 0x300074) (page : Nat) : (freeIfIdle page).Only (Act.obeys (sparingBound off)) := by
  refine fun s => Prog.only_when.mpr fun _ => ⟨?_, fun _ => trivial, incF_obeys.mpr h.symm, trivial⟩
  split
  · exact Prog.only_when.mpr fun _ => ⟨⟨trivial, fun _ => trivial, trivial⟩, fun _ => trivial, trivial⟩
  · exact Prog.only_nop

theorem releaseRecord_sparing (h : off ≠ 0x300074) (m : Nat) : (releaseRecord m).Only (Act.obeys (sparingBound off)) := by
  refine fun s => ⟨Prog.only_each.mpr fun page _ => ⟨fun _ _ => trivial, freeIfIdle_sparing h page, trivial⟩, ?_, fun _ => trivial, trivial⟩
  split
  · exact fun _ => trivial
  · exact Prog.only_nop

theorem restoreState_sparing (c : Chunk) : (restoreState c).Only (Act.obeys (sparingBound off)) := by
  rw [restoreState]
  split
  · exact Prog.only_nop
  · exact ⟨trivial, Prog.only_each.mpr fun _ _ => trivial, fun _ => trivial, trivial⟩

theorem markGap_sparing (m i arrival : Nat) : (markGap m i arrival).Only (Act.obeys (sparingBound off)) := fun s => by
  dsimp only
  split <;> exact fun _ => trivial

/-- The registers that count a partition's results. -/
def resultRegs (p : Nat) : List Nat :=
  [(F.TT_LATE p).off, (F.TT_WORST p).off, (F.TT_SLACK p).off, (F.TT_PARTIAL p).off, (F.TT_FAIL p).off, (F.TT_MISSED p).off]

theorem countResult_sparing {p : Nat} (hlog : off ∉ logRegs) (h : off ∉ resultRegs p) (slot : Nat) (r : Result) :
    (countResult p slot r).Only (Act.obeys (sparingBound off)) := by
  have hlim : ∀ l i code sev u ds st, (logLim l i code sev u ds st).Only (Act.obeys (sparingBound off)) := (sparingBound_logs hlog).logLim
  have hpart : ∀ f, (modPart p f).Only (Act.obeys (sparingBound off)) := fun _ _ => trivial
  have hne : ∀ o ∈ resultRegs p, o ≠ off := fun o ho e => h (e ▸ ho)
  simp only [resultRegs, List.forall_mem_cons] at hne
  obtain ⟨h1, h2, h3, h4, h5, h6, -⟩ := hne
  simp [-Act.obeys_dev, countResult, hlim, hpart, setF_obeys, h1, h2, h3, h4, h5, h6]

theorem endChunkAt_sparing (hlog : off ∉ logRegs) (hfree : off ≠ 0x300074) (h : ∀ p, off ∉ resultRegs p) (m i status tick : Nat)
    (fmt : Nat × Nat × Nat) : (endChunkAt m i status tick fmt).Only (Act.obeys (sparingBound off)) := fun s => by
  dsimp only
  split
  · exact Prog.only_nop
  · exact ⟨fun _ => trivial, Prog.only_when.mpr fun _ => restoreState_sparing _, Prog.only_when.mpr fun _ => markGap_sparing _ _ _,
      Prog.only_when.mpr fun _ => releaseRecord_sparing hfree m, countResult_sparing hlog (h _) _ _, fun _ _ => trivial, trivial⟩

end

/-! ## A chunk that no launch took -/

/-- The chunks that remain in a slot when its first has ended with an outcome that leaves a gap: the next carries GAP (R96). -/
structure GapNext (y : SlotDyn) (k : Nat) : Prop where
  length : y.chunks.length = k
  last : k = 0 → y.gap = true
  next : ∀ d l, y.chunks = d :: l → hasFlag d.flags flagGap = true

theorem laterTick_self (a : Nat) : laterTick a a = false := by
  simp [laterTick]

theorem hasFlag_withFlag (f b : Nat) : hasFlag (withFlag f b) b = true := by
  rw [hasFlag, withFlag, bitsOf_setBits_same]
  rfl

theorem markGap_next {x : State} {n arrival : Nat} (h : ∀ r ∈ (x.slot n).results, laterTick r.chunk.arrival arrival = false) :
    GapNext (((markGap n 0 arrival).run x).slot n) (x.slot n).chunks.length := by
  have hnone : (x.slot n).nextResult 0 arrival = none := by
    refine List.findIdx?_eq_none_iff.mpr fun r hr => ?_
    rw [h r hr]
    simp
  rw [markGap, Prog.run_look, hnone]
  dsimp only
  rw [gapAt, State.slot_modSlot, if_pos rfl]
  cases hc : (x.slot n).chunks with
  | nil => exact ⟨by simp, fun _ => rfl, fun d l hd => by simp at hd⟩
  | cons a l =>
    refine ⟨by simp [modNth], fun h0 => by simp at h0, fun d k hd => ?_⟩
    simp only [List.length_cons, Nat.zero_lt_succ, if_true, modNth, List.cons.injEq] at hd
    rw [← hd.1]
    exact hasFlag_withFlag _ _

theorem GapNext.released {y : SlotDyn} {k : Nat} (h : GapNext y k) : GapNext y.released k := by
  refine ⟨by simpa [SlotDyn.released] using h.length, h.last, fun d l hd => ?_⟩
  cases hc : y.chunks with
  | nil => simp [SlotDyn.released, hc] at hd
  | cons a m =>
    simp only [SlotDyn.released, hc, List.map_cons, List.cons.injEq] at hd
    rw [← hd.1]
    exact h.next a m hc

theorem Prog.Only.aside_slot {P : Prog} (h : P.Only (Act.obeys asideBound)) (x : State) (n : Nat) : (P.run x).slot n = x.slot n := by
  rw [State.slot, State.slot, (h.devs asideBound_steps x).1]

theorem afterEnd_gapNext {x : State} {n status : Nat} {c : Chunk} (rel : Bool) (r : Result) (hst : gapAfter status = true)
    (h : ∀ q ∈ (x.slot n).results, laterTick q.chunk.arrival c.arrival = false) :
    GapNext (((afterEnd rel n 0 status c r).run x).slot n) (x.slot n).chunks.length := by
  rw [afterEnd]
  iterate 5 rw [Prog.run_all_cons]
  rw [Prog.run_all_nil, hst]
  have h1 := Prog.Only.aside_slot (P := when (status != stDone) (restoreState c)) (Prog.only_when.mpr fun _ => restoreState_asideBound c) x n
  generalize (when (status != stDone) (restoreState c)).run x = a at *
  have h2 : GapNext (((when true (markGap n 0 c.arrival)).run a).slot n) (x.slot n).chunks.length := by
    rw [Prog.run_when, if_pos rfl, ← h1]
    exact markGap_next (by rw [h1]; exact h)
  generalize (when true (markGap n 0 c.arrival)).run a = b at *
  have h3 : GapNext (((when rel (releaseRecord n)).run b).slot n) (x.slot n).chunks.length := by
    cases rel with
    | false => exact h2
    | true =>
      obtain ⟨P, hP, hrun⟩ := releaseRecord_run n b
      rw [Prog.run_when, if_pos rfl, hrun, State.slot_modSlot, if_pos rfl, hP.aside_slot]
      exact h2.released
  generalize (when rel (releaseRecord n)).run b = d at *
  have h4 := (countResult_asideBound c.part n r).aside_slot d n
  generalize (countResult c.part n r).run d = e at *
  rw [← h4] at h3
  rw [dropUnbound, Prog.run_look, State.slot_modSlot, if_pos rfl]
  exact ⟨h3.length, h3.last, h3.next⟩

/-- The result of a chunk that ends without a payload. -/
def Chunk.lastResult (c : Chunk) (st tick : Nat) : Result := { c.result st tick (0, 0, 0) with chunk := { c with before := none } }

theorem missed_not_log {p : Nat} (hp : p < 8) : (F.TT_MISSED p).off ∉ logRegs := by
  simp [logRegs]
  omega

theorem countResult_missed {p slot : Nat} {r : Result} (hp : p < 8) (hr : r.status = 1) (x : State) :
    ((countResult p slot r).run x).fld (F.TT_MISSED p) = min (x.fld (F.TT_MISSED p) + 1) (2 ^ (F.TT_MISSED p).w - 1) := by
  have hlim : ∀ l i code sev u ds st, (logLim l i code sev u ds st).Only (Act.obeys (sparingBound (F.TT_MISSED p).off)) :=
    (sparingBound_logs (missed_not_log hp)).logLim
  have hpart : ∀ f, (modPart p f).Only (Act.obeys (sparingBound (F.TT_MISSED p).off)) := fun _ _ => trivial
  rw [countResult]
  iterate 5 rw [Prog.run_all_cons]
  rw [Prog.run_all_nil, hr]
  have h1 : ∀ b, (when b (all [incF (F.TT_LATE p),
      look fun s => setF (F.TT_WORST p) (max (s.fld (F.TT_WORST p)) (min (tickDiff r.complete r.chunk.deadline) 0xFFFFFFFF)),
      modPart p fun x => { x with lateThisTurn := x.lateThisTurn + 1 },
      look fun s => logLim (.turn p) (32 + p) 0x2001 0 (32 + p) [slot, tickDiff r.complete r.chunk.deadline % 2 ^ 32, (s.part p).lateThisTurn]
        (some slot)])).Only (Act.obeys (sparingBound (F.TT_MISSED p).off)) := fun b => by
    simp [-Act.obeys_dev, hlim, hpart]
  have hf1 := (h1 (hasFlag r.flags flagLate)).flds (f := F.TT_MISSED p) (by simp) x
  generalize (when (hasFlag r.flags flagLate) (all [incF (F.TT_LATE p), _, _, _])).run x = a at *
  have hskip : ∀ (b : Bool) (P : Prog) (y : State), b = false → (when b P).run y = y := fun b P y h => by rw [h]; rfl
  have hdo : ∀ (b : Bool) (P : Prog) (y : State), b = true → (when b P).run y = P.run y := fun b P y h => by rw [h]; rfl
  rw [hskip (1 == 0 && !hasFlag r.flags flagLate) _ a (by simp), hdo (1 == 1 || 1 == 2) _ a (by rfl)]
  have hf2 := Prog.fld_incF (F.TT_MISSED p) a (by decide : (0 : ℕ) + 32 ≤ 32)
  generalize (incF (F.TT_MISSED p)).run a = b at *
  have h3 : (when (hasFlag r.flags flagPartial) (incF (F.TT_PARTIAL p))).Only (Act.obeys (sparingBound (F.TT_MISSED p).off)) := by simp
  have hf3 := h3.flds (f := F.TT_MISSED p) (by simp) b
  generalize (when (hasFlag r.flags flagPartial) (incF (F.TT_PARTIAL p))).run b = d at *
  rw [hskip _ _ d (by decide), hf3, hf2, hf1]

theorem afterEnd_missed {x : State} {n : Nat} {c : Chunk} {r : Result} (rel : Bool) (hp : c.part < 8) (hr : r.status = 1) :
    ((afterEnd rel n 0 1 c r).run x).fld (F.TT_MISSED c.part) =
      min (x.fld (F.TT_MISSED c.part) + 1) (2 ^ (F.TT_MISSED c.part).w - 1) := by
  rw [afterEnd]
  iterate 5 rw [Prog.run_all_cons]
  rw [Prog.run_all_nil]
  have hfree : (F.TT_MISSED c.part).off ≠ 0x300074 := by simp; omega
  have h1 := Prog.Only.flds (f := F.TT_MISSED c.part) (b := sparingBound (F.TT_MISSED c.part).off) (Prog.only_when (c := (1 != stDone)).mpr fun _ => restoreState_sparing c) (by simp) x
  generalize (when (1 != stDone) (restoreState c)).run x = a at *
  have h2 := Prog.Only.flds (f := F.TT_MISSED c.part) (b := sparingBound (F.TT_MISSED c.part).off) (Prog.only_when (c := gapAfter 1).mpr fun _ => markGap_sparing n 0 c.arrival) (by simp) a
  generalize (when (gapAfter 1) (markGap n 0 c.arrival)).run a = b at *
  have h3 := Prog.Only.flds (f := F.TT_MISSED c.part) (b := sparingBound (F.TT_MISSED c.part).off) (Prog.only_when (c := rel).mpr fun _ => releaseRecord_sparing hfree n) (by simp) b
  generalize (when rel (releaseRecord n)).run b = d at *
  have h4 := countResult_missed (slot := n) hp hr d
  generalize (countResult c.part n r).run d = e at *
  have h5 : ((dropUnbound n).run e).fld (F.TT_MISSED c.part) = e.fld (F.TT_MISSED c.part) := State.fld_of_word rfl
  rw [h5, h4, h3, h2, h1]

theorem launchMissed_completes {s : State} {n : Nat} {c : Chunk} {l : List Chunk} (hc : (s.slot n).chunks = c :: l) (hlaunched : c.launched = false)
    (hlate : laterTick s.now c.lastLaunch = true) (hsoft : (s.plane c.part).soft = false) (hp : c.part < 8)
    (hres : ∀ r ∈ (s.slot n).results, laterTick r.chunk.arrival c.arrival = false) :
    Completes (.launchMissed n) s fun u => GapNext (u.slot n) l.length ∧
      ((s.planeFor c.part c.old).dests c.group n ≠ [] → (u.slot n).holds c 1 ((c.lastLaunch + 1) % 2 ^ 64)) ∧
      u.fld (F.TT_MISSED c.part) = min (s.fld (F.TT_MISSED c.part) + 1) (2 ^ (F.TT_MISSED c.part).w - 1) ∧ SameHost s u := by
  refine completes_done (p := launchMissed n) rfl ?_
  have hfind : (s.slot n).chunks.findIdx? (fun c => !c.launched && laterTick s.now c.lastLaunch &&
      (!(s.plane c.part).soft || (s.slot n).skip == some c.dueTurn)) = some 0 := by
    rw [hc, List.findIdx?_cons, if_pos (by simp [hlaunched, hlate, hsoft])]
  have hget : (s.slot n).chunks.getD 0 {} = c := by rw [hc]; rfl
  have hat : (s.slot n).chunks[0]? = some c := by rw [hc]; rfl
  have hhost := Prog.Only.hosts (b := sparingBound 0) (p := launchMissed n) (fun s => by
    dsimp only
    split
    · exact Prog.only_nop
    · exact ⟨endChunkAt_sparing (by decide) (by decide) (fun p => by simp [resultRegs]; omega) _ _ _ _ _,
        (sparingBound_logs (by decide)).logLim _ _ _ _ _ _ _, trivial⟩) id s
  have hrun : (launchMissed n).run s = (logLim (.turn c.part) (32 + c.part) 0x2002 1 (32 + c.part) [] (some n)).run
      ((afterEnd (s.holdsRecord n c) n 0 1 c (c.result 1 ((c.lastLaunch + 1) % 2 ^ 64) (0, 0, 0))).run
        ((modSlot n fun y => y.ended 0 1 c (c.result 1 ((c.lastLaunch + 1) % 2 ^ 64) (0, 0, 0))).run s)) := by
    rw [launchMissed, Prog.run_look, hfind]
    dsimp only
    rw [hget, Prog.run_all_cons, Prog.run_all_cons, Prog.run_all_nil, endChunkAt_run hat]
    rfl
  rw [hrun] at hhost ⊢
  have hmine := (State.slot_modSlot n n (fun y => y.ended 0 1 c (c.result 1 ((c.lastLaunch + 1) % 2 ^ 64) (0, 0, 0))) s).trans (if_pos rfl)
  have hfld : ((modSlot n fun y => y.ended 0 1 c (c.result 1 ((c.lastLaunch + 1) % 2 ^ 64) (0, 0, 0))).run s).fld (F.TT_MISSED c.part) =
    s.fld (F.TT_MISSED c.part) := State.fld_of_word rfl
  have hplane : ((modSlot n fun y => y.ended 0 1 c (c.result 1 ((c.lastLaunch + 1) % 2 ^ 64) (0, 0, 0))).run s).planeFor c.part c.old =
    s.planeFor c.part c.old := rfl
  generalize (modSlot n fun y => y.ended 0 1 c (c.result 1 ((c.lastLaunch + 1) % 2 ^ 64) (0, 0, 0))).run s = x at *
  have hchunks : (x.slot n).chunks = l := by rw [hmine, SlotDyn.ended, hc]; rfl
  have hresults : (x.slot n).results = insertResult (c.lastResult 1 ((c.lastLaunch + 1) % 2 ^ 64)) (s.slot n).results := by
    rw [hmine]
    rfl
  have hgap := afterEnd_gapNext (x := x) (n := n) (c := c) (s.holdsRecord n c) (c.result 1 ((c.lastLaunch + 1) % 2 ^ 64) (0, 0, 0))
    (by decide : gapAfter 1 = true) fun q hq => by
      rw [hresults] at hq
      rcases mem_insertResult.mp hq with rfl | hq
      · exact laterTick_self c.arrival
      · exact hres q hq
  rw [hchunks] at hgap
  have hcarried := afterEnd_carried (s.holdsRecord n c) n 0 1 c (c.result 1 ((c.lastLaunch + 1) % 2 ^ 64) (0, 0, 0)) x n
  have hmissed := afterEnd_missed (x := x) (n := n) (s.holdsRecord n c) (r := c.result 1 ((c.lastLaunch + 1) % 2 ^ 64) (0, 0, 0)) hp rfl
  generalize (afterEnd _ n 0 1 c _).run x = y at *
  have hlog := (logLim_onlyLogs (.turn c.part) (32 + c.part) 0x2002 1 (32 + c.part) [] (some n)).onlyLogs y
  generalize (logLim _ _ _ _ _ _ _).run y = u at *
  have hslot : u.slot n = y.slot n := by rw [State.slot, State.slot, hlog.dev]
  refine ⟨by rw [hslot]; exact hgap, fun hd => ?_, ?_, fun a => congrArg (Memory.read · a) hhost⟩
  · rw [hslot]
    refine hcarried.held c 1 _ (by rw [hplane]; exact hd) ⟨c.lastResult 1 ((c.lastLaunch + 1) % 2 ^ 64), ?_, rfl, rfl, rfl, rfl, rfl, rfl⟩
    rw [hresults]
    exact mem_insertResult.mpr (.inl rfl)
  · rw [← hfld, ← hmissed]
    exact State.fld_of_word (hlog.regs _ (missed_not_log hp))

/-! ## A chunk that overruns -/

theorem endFirst_run {x : State} {n : Nat} {c : Chunk} {l : List Chunk} (hc : (x.slot n).chunks = c :: l) (st tick : Nat) :
    let u := (endChunkAt n 0 st tick (0, 0, 0)).run x
    (u.slot n).chunks.length ≤ l.length ∧ ((x.planeFor c.part c.old).dests c.group n ≠ [] → (u.slot n).holds c st tick) := by
  rw [endChunkAt_run (i := 0) (c := c) (by rw [hc]; rfl)]
  have hmine := (State.slot_modSlot n n (fun y => y.ended 0 st c (c.result st tick (0, 0, 0))) x).trans (if_pos rfl)
  have hplane : ((modSlot n fun y => y.ended 0 st c (c.result st tick (0, 0, 0))).run x).planeFor c.part c.old = x.planeFor c.part c.old := rfl
  generalize (modSlot n fun y => y.ended 0 st c (c.result st tick (0, 0, 0))).run x = y at *
  have hk := afterEnd_carried (x.holdsRecord n c) n 0 st c (c.result st tick (0, 0, 0)) y n
  generalize (afterEnd _ n 0 st c _).run y = u at *
  refine ⟨hk.chunks.trans ?_, fun hd => hk.held c st tick (by rw [hplane]; exact hd) ⟨c.lastResult st tick, ?_, rfl, rfl, rfl, rfl, rfl, rfl⟩⟩
  · rw [hmine, SlotDyn.ended, hc]
    exact le_refl _
  · rw [hmine]
    exact mem_insertResult.mpr (.inl rfl)

theorem endOf_sparing (st : Nat) (c : Nat × Nat) (status : Nat) : (endOf st c status).Only (Act.obeys (sparingBound 0)) := fun s => by
  dsimp only
  split
  · exact fun _ => endChunkAt_sparing (by decide) (by decide) (fun p => by simp [resultRegs]; omega) _ _ _ _ _
  · exact Prog.only_nop

theorem benchBound_aside {P : Prog} (h : P.Only (Act.obeys benchBound)) : P.Only (Act.obeys asideBound) :=
  h.mono fun a ha => by
    cases a with
    | dev f =>
      intro d
      have hd : f d = { d with pwr := (f d).pwr } := ha d
      rw [hd]
      exact ⟨rfl, fun _ => ⟨rfl, rfl⟩⟩
    | reg | draw => trivial
    | bytes | zero | hostBytes | lose => exact ha.elim

theorem modTile_aside (t : Nat) (f : Tile → Tile) : (modTile t f).Only (Act.obeys asideBound) := fun _ => ⟨rfl, fun _ => ⟨rfl, rfl⟩⟩

theorem reloadIdle_aside (t : Nat) : (all [reloadTile t, idleBench (t / 16)]).Only (Act.obeys asideBound) :=
  ⟨modTile_aside t _, benchBound_aside (idleBench_benchBound _), trivial⟩

theorem reloadIdle_tile (t j : Nat) (x : State) :
    (((all [reloadTile t, idleBench (t / 16)]).run x).tile j) = if j = t then { x.tile t with run := 3, launch := none, detached := false, excHalt := false, stepping := false } else x.tile j := by
  rw [Prog.run_all_cons, Prog.run_all_cons, Prog.run_all_nil, ((idleBench_movesBench _).of_movesBench _).1, reloadTile, State.tile_modTile]

theorem Sparse.mem_of_get {α : Type} {d : Nat → α} {l : Sparse α} {k : Nat} (h : Sparse.get d l k ≠ d k) : (k, Sparse.get d l k) ∈ l := by
  induction l with
  | nil => exact absurd rfl h
  | cons a l ih =>
    obtain ⟨i, v⟩ := a
    rw [Sparse.get] at h ⊢
    by_cases hi : i = k
    · rw [if_pos hi, hi]
      exact List.mem_cons_self
    · rw [if_neg hi] at h ⊢
      exact List.mem_cons_of_mem _ (ih h)

/-- The programs of a launch end, on every tile that runs it (R95). -/
theorem endPrograms_run {s : State} {t n st status : Nat} {c : Nat × Nat} {x : Launch} (hl : (s.tile t).launch = some x) (hin : c ∈ x.chunks)
    (hst : x.stage = st) : let u := (endPrograms st c status).run s
    Carried s u n ∧ (u.tile t).run = 3 ∧ (u.tile t).launch = none ∧ u.host = s.host := by
  have hmem : t ∈ (s.dev.tiles.filter fun t => t.2.launch.any fun l => l.stage == st && l.chunks.contains c).map Prod.fst := by
    refine List.mem_map.mpr ⟨(t, s.tile t), List.mem_filter.mpr ⟨Sparse.mem_of_get fun h => ?_, ?_⟩, rfl⟩
    · have hnone : (s.tile t).launch = none := congrArg Tile.launch h
      rw [hnone] at hl
      cases hl
    · rw [hl]
      simp [hst, hin]
  rw [endPrograms, Prog.run_look, Prog.run_all_cons, Prog.run_all_cons, Prog.run_all_cons, Prog.run_all_nil]
  generalize (s.dev.tiles.filter fun t => t.2.launch.any fun l => l.stage == st && l.chunks.contains c).map Prod.fst = tiles at *
  generalize (tiles.flatMap fun t => ((s.tile t).launch.toList.flatMap Launch.chunks)).eraseDups = others
  have h1 : Carried s ((each others fun x => endOf st x status).run s) n := Prog.run_each_keeps (P := fun u => Carried s u n)
    (fun c _ u hu => hu.trans (endOf_carried st c status u n)) s (Carried.refl s n)
  have hh1 := Prog.Only.hosts (Prog.only_each.mpr fun c (_ : c ∈ others) => endOf_sparing st c status) id s
  generalize (each others fun x => endOf st x status).run s = a at *
  have hwait : (each s.dev.tiles fun t => modTile t.1 fun x => { x with waiting := x.waiting.filter fun l => !(l.stage == st && l.chunks.contains c) }).Only
    (Act.obeys asideBound) := Prog.only_each.mpr fun _ _ => modTile_aside _ _
  have h2 := Carried.of_aside hwait a n
  have hh2 := hwait.hosts id a
  generalize (each s.dev.tiles _).run a = b at *
  have hreload : (each tiles fun t => all [reloadTile t, idleBench (t / 16)]).Only (Act.obeys asideBound) :=
    Prog.only_each.mpr fun t _ => reloadIdle_aside t
  have h3 := Carried.of_aside hreload b n
  have hh3 := hreload.hosts id b
  have htile := Prog.run_each_establishes (l := tiles) (f := fun t => all [reloadTile t, idleBench (t / 16)])
    (P := fun t x => (x.tile t).run = 3 ∧ (x.tile t).launch = none)
    (fun t _ x => by rw [reloadIdle_tile, if_pos rfl]; exact ⟨rfl, rfl⟩)
    (fun i _ j _ x hx => by
      rw [reloadIdle_tile]
      split
      · exact ⟨rfl, rfl⟩
      · exact hx) b t hmem
  exact ⟨(h1.trans h2).trans h3, htile.1, htile.2, hh3.trans (hh2.trans hh1)⟩

theorem endPrograms_keepsCount (st : Nat) (c : Nat × Nat) (status : Nat) : (endPrograms st c status).Only Act.keepsCount := fun _ =>
  ⟨Prog.only_each.mpr fun _ _ => endOf_keepsCount _ _ _, Prog.only_each.mpr fun _ _ => modTile_keepsCount _ _,
    Prog.only_each.mpr fun _ _ => ⟨reloadTile_keepsCount _, idleBench_keepsCount _, trivial⟩, trivial⟩

theorem overrun_completes {s : State} {n t : Nat} {c : Chunk} {l : List Chunk} {x : Launch} (hc : (s.slot n).chunks = c :: l)
    (hlaunched : c.launched = true) (hlate : s.reached (c.deadline + (s.planeFor c.part c.old).overrunOf c.group) = true)
    (hl : (s.tile t).launch = some x) (hin : (n, c.arrival) ∈ x.chunks) (hrunning : c.running = some x.stage) :
    Completes (.overrun n) s fun u => (u.slot n).chunks.length ≤ l.length ∧ (u.tile t).run = 3 ∧ (u.tile t).launch = none ∧
      ((s.planeFor c.part c.old).dests c.group n ≠ [] → (u.slot n).holds c 7 (s.boundOf c)) ∧
      u.dev.log.count ≠ s.dev.log.count ∧ SameHost s u := by
  refine completes_done (p := overrun n) rfl ?_
  have hreach : s.reached (s.boundOf c) = true := by
    rw [← hlate, State.boundOf, State.reached, State.reached]
    rw [show BitVec.ofNat 64 ((c.deadline + (s.planeFor c.part c.old).overrunOf c.group) % 2 ^ 64) =
      BitVec.ofNat 64 (c.deadline + (s.planeFor c.part c.old).overrunOf c.group) from BitVec.eq_of_toNat_eq (by simp)]
  have hfind : (s.slot n).chunks.findIdx? (fun c => c.launched && s.reached (s.boundOf c)) = some 0 := by
    rw [hc, List.findIdx?_cons, if_pos (by simp [hlaunched, hreach])]
  have hget : (s.slot n).chunks.getD 0 {} = c := by rw [hc]; rfl
  have hat : (s.slot n).chunks[0]? = some c := by rw [hc]; rfl
  rw [overrun, Prog.run_look, overrunIf, Prog.run_look, hfind]
  dsimp only
  rw [hget, hrunning, Prog.run_all_cons, Prog.run_all_cons, Prog.run_all_cons, Prog.run_all_nil]
  dsimp only
  have hlog := logC_run_onlyLogs 0x2004 2 (32 + c.part) [] (some n) s
  have hlt := logC_count_lt 0x2004 2 (32 + c.part) [] (some n) s
  generalize (logC _ _ _ _ _).run s = a at *
  have haslot : a.slot n = s.slot n := by rw [State.slot, State.slot, hlog.dev]
  have haplane : a.planeFor c.part c.old = s.planeFor c.part c.old := State.planeFor_of_parts (by rw [hlog.dev]) _ _
  have hatile : a.tile t = s.tile t := by rw [State.tile, State.tile, hlog.dev]
  obtain ⟨hbchunks, hbheld⟩ := endFirst_run (x := a) (n := n) (c := c) (l := l) (by rw [haslot]; exact hc) 7 (s.boundOf c)
  rw [haplane] at hbheld
  have hbplane := (endChunkAt_carried n 0 7 (s.boundOf c) (0, 0, 0) a n).plane c.part c.old
  have hbtile : ((endChunkAt n 0 7 (s.boundOf c) (0, 0, 0)).run a).dev.tiles = a.dev.tiles := (endChunkAt_sparesTiles n 0 7 (s.boundOf c) (0, 0, 0)).keeps a
  have hbcount := Prog.Only.count_le (endChunkAt_keepsCount n 0 7 (s.boundOf c) (0, 0, 0)) a
  have hbhost := (endChunkAt_sparing (off := 0) (by decide) (by decide) (fun p => by simp [resultRegs]; omega) n 0 7 (s.boundOf c) (0, 0, 0)).hosts id a
  rw [show stOverrun = 7 from rfl]
  generalize (endChunkAt n 0 7 (s.boundOf c) (0, 0, 0)).run a = b at *
  have hbt : (b.tile t).launch = some x := by rw [State.tile, hbtile]; exact (congrArg Tile.launch hatile).trans hl
  obtain ⟨hcarried, hrun, hnone, hhost⟩ := endPrograms_run (n := n) (status := 7) hbt hin rfl
  have hcount := Prog.Only.count_le (endPrograms_keepsCount x.stage (n, c.arrival) 7) b
  generalize (endPrograms x.stage (n, c.arrival) 7).run b = u at *
  refine ⟨hcarried.chunks.trans hbchunks, hrun, hnone, fun hd => hcarried.held c 7 _ (by rw [hbplane, haplane]; exact hd) (hbheld hd), ?_,
    fun y => congrArg (Memory.read · y) (hhost.trans (hbhost.trans hlog.host))⟩
  exact (lt_of_lt_of_le hlt (hbcount.trans hcount)).ne'

/-- Settles O27: the two ends of a turn boundary, and the two ends of a chunk, whose result stays in its slot through all that follows. -/
theorem turnsAndOverruns : Obligations.TurnsAndOverruns := by
  refine ⟨?_, ?_, ?_, ?_⟩
  · intro s p hp hb hr hstart hregrip hstop hunit
    obtain ⟨u, hu, hk, hmine, hsame⟩ := turnBoundary_goesOn hp hb hr hstart hregrip hstop hunit
    have hslow : (s.derated p).slow = s.derateAsked p := by
      rw [State.derated]
      split
      · next h => exact h.symm
      · rfl
    refine ⟨u, hu, by rw [hmine], by rw [hmine], by rw [hmine], by rw [hmine]; exact hslow, fun h1 h2 => ?_, fun h1 h2 => ?_, fun h => ⟨?_, ?_, ?_⟩,
      hk.unitState (by omega), hk.others, fun a => congrArg (Memory.read · a) hk.mem, fun a => congrArg (Memory.read · a) hk.host⟩
    · rw [hmine]
      show (s.derated p).derated = _
      rw [State.derated, if_neg (by rw [h1, h2]; decide), h1]
      rfl
    · rw [hmine]
      show (s.derated p).derated = _
      rw [State.derated, if_neg (by rw [h1, h2]; decide), h1]
      rfl
    · rw [hmine]
      show (s.derated p).derated = _
      rw [State.derated, if_pos h]
    · exact (hsame h).2
    · exact (hsame h).1
  · intro s p hp hb hr hstart hregrip hstop
    exact turnBoundary_stops hp hb hr hstart hregrip hstop
  · intro s n c l hc hlaunched hlate hsoft hp hres
    obtain ⟨u, hu, hgap, hheld, hmissed, hhost⟩ := launchMissed_completes hc hlaunched hlate hsoft hp hres
    refine ⟨u, hu, hgap.length, fun h => hgap.last (by rw [h]; rfl), hgap.next, fun hd => ?_, hmissed, hhost⟩
    obtain ⟨r, hr, h1, h2, h3, -⟩ := hheld hd
    exact ⟨r, hr, h1, h2, h3⟩
  · intro s n t c l x hc hlaunched hlate hp hl hin hrunning
    obtain ⟨u, hu, hchunks, hrun, hnone, hheld, hcount, hhost⟩ := overrun_completes hc hlaunched hlate hl hin hrunning
    refine ⟨u, hu, hchunks, hrun, hnone, fun hd => ?_, hcount, hhost⟩
    obtain ⟨r, hr, h1, h2, h3, -⟩ := hheld hd
    exact ⟨r, hr, h1, h2, h3⟩

end Sys2Proof.Machine
end

section
/-!
The upkeep of a tile: the store buffer drains, a reload ends, and debug access halts, resumes and steps the tile (R128, R135, R140 to
R142, R149); O18.
-/
namespace Sys2Proof.Machine

/-! ## The store buffer drains -/

theorem bytesOf_succ (a n : Nat) : bytesOf a (n + 1) = a :: bytesOf (a + 1) n := by
  rw [bytesOf, List.range_succ_eq_map, List.map_cons, Nat.zero_add, List.map_map, bytesOf]
  congr 1
  exact List.map_congr_left fun i _ => by simp only [Function.comp_apply]; omega

theorem byteRuns_consecutive (a : Nat) {bs : List Byte} (h : bs ≠ []) : byteRuns ((bytesOf a bs.length).zip bs) = [(a, bs)] := by
  induction bs generalizing a with
  | nil => exact absurd rfl h
  | cons b bs ih =>
    rw [List.length_cons, bytesOf_succ, List.zip_cons_cons, byteRuns]
    cases bs with
    | nil => rfl
    | cons c bs =>
      rw [ih (a + 1) (List.cons_ne_nil _ _)]
      exact if_pos rfl

theorem storeBufferDrain_completes {s : State} {t a : Nat} {bs : List Byte} {l : List (List (Nat × Byte))} (hbs : bs ≠ [])
    (h : (s.tile t).stores = (bytesOf a bs.length).zip bs :: l) :
    Completes (.storeBufferDrain t) s fun u => (u.tile t).stores = l ∧ u.mem.reads (tileAt t + a) bs.length = bs ∧
      SameBytesBut s u (tileAt t + a) bs.length ∧ SameHost s u ∧ u.regs = s.regs := by
  refine completes_done (p := drainOne t) rfl ?_
  rw [drainOne, Prog.run_look, h]
  dsimp only
  rw [byteRuns_consecutive a hbs, Prog.run_all_cons, Prog.run_all_cons, Prog.run_all_nil, Prog.run_each_cons, Prog.run_each_nil]
  have hk : ((storeBytes (tileAt t + a) bs).run s).mem = s.mem.writes (tileAt t + a) bs ∧ ((storeBytes (tileAt t + a) bs).run s).regs = s.regs ∧
      ((storeBytes (tileAt t + a) bs).run s).host = s.host ∧ ((storeBytes (tileAt t + a) bs).run s).tile t = s.tile t := ⟨rfl, rfl, rfl, rfl⟩
  generalize (storeBytes (tileAt t + a) bs).run s = x at *
  obtain ⟨hmem, hregs, hhost, htile⟩ := hk
  refine ⟨?_, ?_, fun b hb => ?_, fun b => congrArg (Memory.read · b) hhost, hregs⟩
  · rw [State.tile_modTile_same, htile]
    show (s.tile t).stores.drop 1 = l
    rw [h]
    rfl
  · show x.mem.reads _ _ = bs
    rw [hmem, Memory.reads_writes]
  · show x.mem.read b = _
    rw [hmem, Memory.read_writes_other _ _ _ _ hb]

/-! ## A reload ends -/

/-- Memory and its poison alone change. -/
abbrev rewriteBound : Bound where
  dev d e := e.tiles = d.tiles
  reg _ := False
  mem := True
  host := False

theorem rewriteBound_steps : rewriteBound.Steps := ⟨fun _ => rfl, fun h k => k.trans h⟩

theorem zeroFill_rewriteBound (lo hi : Nat) : (zeroFill lo hi).Only (Act.obeys rewriteBound) := ⟨trivial, fun _ => rfl, trivial⟩
theorem storeBytes_rewriteBound (a : Nat) (bs : List Byte) : (storeBytes a bs).Only (Act.obeys rewriteBound) := ⟨trivial, fun _ => rfl, trivial⟩

theorem rewriteArea_rewriteBound (r : TileRec) (lo hi : Nat) : (rewriteArea r lo hi).Only (Act.obeys rewriteBound) :=
  ⟨zeroFill_rewriteBound _ _, Prog.only_each.mpr fun _ _ => Prog.only_when.mpr fun _ => storeBytes_rewriteBound _ _, trivial⟩

/-- A reload first rewrites memory, and then clears the tile. -/
theorem reloadDone_run {s : State} {t : Nat} (hwait : (s.tile t).waiting = []) :
    ∃ P : Prog, P.Only (Act.obeys rewriteBound) ∧
      (reloadDone t).run s = (all [modTile t fun x => { waiting := x.waiting }, incF ⟨tileReg t 0x090, 0, 32⟩, tileIdle t]).run (P.run s) := by
  have hall : ∀ (l : List Nat) (P : Prog), P.Only (Act.obeys rewriteBound) →
      (all [each l fun a => zeroFill a (a + 8), P]).Only (Act.obeys rewriteBound) ∧
      (all [each l fun a => zeroFill a (a + 8), P, modTile t fun x => { waiting := x.waiting }, incF ⟨tileReg t 0x090, 0, 32⟩,
        when (!(s.tile t).waiting.isEmpty) (logC 0x3003 1 (t / 16) [t / 16, t % 16]), tileIdle t]).run s =
      (all [modTile t fun x => { waiting := x.waiting }, incF ⟨tileReg t 0x090, 0, 32⟩, tileIdle t]).run
        ((all [each l fun a => zeroFill a (a + 8), P]).run s) := fun l P hP => by
    refine ⟨⟨Prog.only_each.mpr fun _ _ => zeroFill_rewriteBound _ _, hP, trivial⟩, ?_⟩
    rw [hwait]
    rfl
  rw [reloadDone, Prog.run_look]
  refine ⟨_, hall _ _ ?_⟩
  split
  · exact ⟨rewriteArea_rewriteBound _ _ _, rewriteArea_rewriteBound _ _ _, trivial⟩
  · exact Prog.only_nop

theorem tileReload_completes {s : State} {t : Nat} (hr : s.ready = true) (hrun : (s.tile t).run = 3) (hops : (s.tile t).ops = [])
    (hxfers : (s.tile t).xfers = []) (hwait : (s.tile t).waiting = []) (ht : t < 512) :
    Completes (.tileReloadDone t) s fun u => u.tile t = {} ∧
      u.fld ⟨tileReg t 0x090, 0, 32⟩ = min (s.fld ⟨tileReg t 0x090, 0, 32⟩ + 1) (2 ^ 32 - 1) := by
  refine completes_done rfl ?_
  obtain ⟨P, hP, hreload⟩ := reloadDone_run hwait
  rw [Prog.run_when, if_pos (by simp [hrun, Tile.working, hops, hxfers, hr]), hreload, Prog.run_all_cons, Prog.run_all_cons, Prog.run_all_cons,
    Prog.run_all_nil]
  have htiles : _ = _ := hP.devs rewriteBound_steps s
  have hfld := hP.flds (f := ⟨tileReg t 0x090, 0, 32⟩) id s
  generalize P.run s = a at *
  have hmine := State.tile_modTile_same a t fun x => { waiting := x.waiting }
  have hb : ((modTile t fun x => { waiting := x.waiting }).run a).fld ⟨tileReg t 0x090, 0, 32⟩ = a.fld ⟨tileReg t 0x090, 0, 32⟩ :=
    State.fld_of_word rfl
  generalize (modTile t fun x => { waiting := x.waiting }).run a = b at *
  have hinc := Prog.fld_incF ⟨tileReg t 0x090, 0, 32⟩ b (by show (0 : ℕ) + 32 ≤ 32; decide)
  have hctile : ∀ j, ((incF ⟨tileReg t 0x090, 0, 32⟩).run b).tile j = b.tile j := fun _ => rfl
  generalize (incF ⟨tileReg t 0x090, 0, 32⟩).run b = c at *
  have hempty : c.tile t = {} := by
    rw [hctile, hmine, State.tile, htiles]
    show ({ waiting := (s.tile t).waiting } : Tile) = {}
    rw [hwait]
  have hidle := (tileIdle_run (s := c) (t := t) (by rw [hempty])).1 t
  have hword : ((tileIdle t).run c).word (tileReg t 0x090) = c.word (tileReg t 0x090) := by
    rw [tileIdle, Prog.run_all_cons, Prog.run_all_cons, Prog.run_all_nil, startNext_run_nil (by rw [hempty])]
    refine (idleBench_partBound (b := t / 16) (by omega) []).words (fun h => ?_) c
    simp only [tileReg, benchLines, logRegs, List.nil_append, List.mem_append, List.mem_map, List.mem_range, List.mem_cons, List.not_mem_nil,
      or_false] at h
    omega
  exact ⟨hidle.trans hempty, (State.fld_of_word hword).trans (hinc.trans (by rw [hb, hfld]))⟩

/-! ## Debug access -/

theorem debugWrite_run {s : State} {p : Path} {t off : Nat} (hr : s.reach p (tileReg t off) = true) (hb : s.benchDrops (tileReg t off) = none)
    (hf : fuseBit s.dev.chuck 2 = false) (q : Prog) : (debugWrite p t off q).run s = q.run s := by
  simp [debugWrite, writing, hr, hb, hf]

theorem tileHalt_completes {s : State} {p : Path} {t : Nat} (hr : s.reach p (tileReg t 0x014) = true)
    (hb : s.benchDrops (tileReg t 0x014) = none) (hf : fuseBit s.dev.chuck 2 = false) (hrun : (s.tile t).run = 1)
    (hl : (s.tile t).launch = none) :
    Completes (.tileHalt p t) s fun u => (u.tile t).run = 2 ∧ (u.tile t).pc = (s.tile t).restart ∧
      SameScalars (s.tile t) (u.tile t) ∧ SameVectors (s.tile t) (u.tile t) ∧ SameWork (s.tile t) (u.tile t) ∧ SameBytes s u := by
  refine completes_done rfl ?_
  obtain ⟨v, hv, hhalt⟩ := haltAt_run false hl
  rw [debugWrite_run hr hb hf, haltTile, Prog.run_look, Prog.run_when, if_pos (by rw [hrun]; rfl), hhalt]
  have hmine : ((modTile t fun x => { x.rewound with run := 2, passBp := if false then some x.pc else none }).run v).tile t =
      { (s.tile t).rewound with run := 2, passBp := none } := by
    rw [State.tile_modTile_same, hv.tile]
    rfl
  refine ⟨by rw [hmine], by rw [hmine]; rfl, ⟨fun _ => by rw [hmine]; rfl⟩, ⟨fun _ _ => by rw [hmine]; rfl, by rw [hmine]; rfl⟩,
    ⟨by rw [hmine]; rfl, by rw [hmine]; rfl, by rw [hmine]; rfl, by rw [hmine]; rfl, by rw [hmine]; rfl⟩, fun a => congrArg (Memory.read · a) hv.mem⟩

theorem tileResume_completes {s : State} {p : Path} {t : Nat} (hr : s.reach p (tileReg t 0x014) = true)
    (hb : s.benchDrops (tileReg t 0x014) = none) (hf : fuseBit s.dev.chuck 2 = false) (hrun : (s.tile t).run = 2) :
    Completes (.tileResume p t) s fun u => (u.tile t).run = 1 ∧
      (u.tile t).detached = ((s.tile t).detached || (s.tile t).excHalt) ∧ (u.tile t).pc = (s.tile t).pc ∧
      SameScalars (s.tile t) (u.tile t) ∧ SameVectors (s.tile t) (u.tile t) ∧ OnlyTile s u t ∧ u.regs = s.regs := by
  refine completes_done rfl ?_
  rw [debugWrite_run hr hb hf, resumeTile, Prog.run_look, Prog.run_when, if_pos (by rw [hrun]; rfl)]
  have hmine := State.tile_modTile_same s t fun x => { x with run := 1, detached := x.detached || x.excHalt, excHalt := false, issuedAt := s.now }
  refine ⟨by rw [hmine], by rw [hmine], by rw [hmine], ⟨fun _ => by rw [hmine]; rfl⟩, ⟨fun _ _ => by rw [hmine]; rfl, by rw [hmine]⟩,
    ⟨rfl, fun j hj => State.tile_modTile_other hj s _, fun _ => rfl, fun _ => rfl, rfl⟩, rfl⟩

/-! ## A step -/

/-- A tile that is about to be stepped. -/
def Tile.stepped (x : Tile) : Tile := { x with run := 1, stepping := true, detached := x.detached || x.excHalt }

theorem Tile.no_cause {x : Tile} (hd : x.delay = none) (hl : x.loops = []) : firstCause (x.bundleCauses .nop .nop 0 0 0 0) = none := by
  have hp : pairLegal .nop .nop 0 0 0 0 = true := by decide
  have hb : isBranch .nop = false := rfl
  simp [firstCause, Tile.bundleCauses, hp, hd, hl, hb, msetPair]

theorem bundleFault_nops {x : State} {t mode : Nat} (hd : (x.tile t).delay = none) (hs : (x.tile t).shadow = none) (hl : (x.tile t).loops = [])
    (hfetch : x.fetchOk t = true) (h0 : x.slotWord t 0 = 0) (h1 : x.slotWord t 1 = 0) : x.bundleFault t mode = none := by
  have ho : opOf 0 = some .nop := by decide
  have hfields : fieldsOk .nop 0 = true := by decide
  have hhdr : x.slotHdr t 0 = 0 := by rw [State.slotHdr, if_neg (by decide)]
  have hslot : ∀ k, x.slotFault t mode k .nop 0 = none := fun k => by
    rw [State.slotFault, if_neg (by simp [Tile.shadowCause, hs])]
    rfl
  have hpipe : (pipeOf .nop 0 == .control && !msetPair .nop .nop) = false := by decide
  simp [State.bundleFault, hfetch, h0, h1, ho, hfields, hhdr, Tile.no_cause hd hl, hslot, hpipe]

/-- A bundle of two NOPs moves the sequencer on. -/
theorem Tile.advance_nop {x : Tile} (hd : x.delay = none) (hl : x.loops = []) :
    (x.advancePair .nop .nop 0 0).pc = x.pc + 1 ∧ (x.advancePair .nop .nop 0 0).delay = none := by
  have hadv : x.advancePair .nop .nop 0 0 = x.advance .nop 0 := rfl
  have hround : (x.readied none).goRound = { x.readied none with pc := x.pc + 1 } := Tile.goRound_on fun l h => by
    rw [show (x.readied none).loops = [] from hl] at h
    cases h
  rw [hadv, Tile.advance_undelayed rfl (by decide) 0 hd]
  show (x.readied none).goRound.pc = _ ∧ (x.readied none).goRound.delay = none
  rw [hround]
  exact ⟨rfl, hd⟩

/-- What a step of two NOPs leaves of the tile. -/
structure Stepped (s u : State) (t : Nat) : Prop where
  run : (u.tile t).run = 2
  pc : (u.tile t).pc = (s.tile t).pc + 1
  epc : u.word (tileReg t 0x008) = BitVec.ofNat 32 (((s.tile t).pc + 1) % 2 ^ 13)
  scalars : (u.tile t).sregs = (s.tile t).sregs
  vectors : (u.tile t).vregs = (s.tile t).vregs ∧ (u.tile t).masks = (s.tile t).masks
  work : SameWork (s.tile t) (u.tile t)
  mem : u.mem = s.mem

theorem runBundle_step {x : State} {t : Nat} (hd : (x.tile t).delay = none) (hs : (x.tile t).shadow = none) (hl : (x.tile t).loops = [])
    (hfetch : x.fetchOk t = true) (h0 : x.slotWord t 0 = 0) (h1 : x.slotWord t 1 = 0) (hstep : (x.tile t).stepping = true)
    (hover : (x.overdue t).isEmpty = true) (hpoison : (x.poisonAt t 8 [(x.tile t).bundleAt, (x.tile t).bundleAt + 8]).isNone = true) :
    Stepped x ((runBundle t [] .none).run x) t := by
  have ho : opOf 0 = some .nop := by decide
  have hpo : x.poisonAt t 8 [(x.tile t).bundleAt, (x.tile t).bundleAt + 8] = none := Option.isNone_iff_eq_none.mp hpoison
  have en : ∀ (y : State) (mode : Nat), instrEff y t mode .nop 0 = goOn .nop := fun _ _ => rfl
  have hrun : (runBundle t [] .none).run x = (commit t .nop .nop 0 0 .nop .nop).run x := by
    rw [runBundle, Prog.run_look, if_neg (by simp [hover])]
    dsimp only
    rw [if_pos hfetch, Prog.run_all_cons, Prog.run_all_cons, Prog.run_all_nil, tmemErrors_none _ _ _ _ fun _ _ => rfl, Prog.run_look, hpo]
    dsimp only
    rw [executeBundle, Prog.run_look]
    dsimp only
    rw [bundleFault_nops hd hs hl hfetch h0 h1]
    dsimp only
    rw [if_neg (by simp [hstep]), h0, h1, ho, Prog.run_all_cons, Prog.run_all_cons, Prog.run_all_nil]
    rw [Option.getD_some, en, show touchedBy (goOn .nop) (goOn .nop) = [] from rfl, tmemErrors_none _ _ _ _ fun _ ha => absurd ha List.not_mem_nil, Prog.run_look, en]
    rfl
  rw [hrun, commit, Prog.run_look]
  iterate 4 rw [Prog.run_all_cons]
  rw [Prog.run_all_nil]
  rw [Prog.run_nop, Prog.run_nop]
  have hmine := State.tile_modTile_same x t fun y => y.standing (({ x.tile t with vlens := y.vlens } : Tile).advancePair .nop .nop 0 0) x.now
  have hmem : ((modTile t fun y => y.standing (({ x.tile t with vlens := y.vlens } : Tile).advancePair .nop .nop 0 0) x.now).run x).mem = x.mem := rfl
  obtain ⟨hpc, hdelay⟩ := Tile.advance_nop hd hl
  have hsame : ({ x.tile t with vlens := (x.tile t).vlens } : Tile) = x.tile t := rfl
  rw [hsame] at hmine
  generalize (modTile t _).run x = a at *
  have hadelay : (a.tile t).delay = none := by rw [hmine]; exact hdelay
  have hapc : (a.tile t).pc = (x.tile t).pc + 1 := by rw [hmine]; exact hpc
  rw [if_neg (by decide), hstep, Prog.run_when, if_pos rfl, Prog.run_look, Prog.run_when, if_pos (by rw [hadelay]; rfl), stepEnd, Prog.run_look,
    Prog.run_all_cons, Prog.run_all_cons, Prog.run_all_nil]
  have hhalt := State.tile_modTile_same a t fun x => { x with run := 2, stepping := false }
  have hbmem : ((modTile t fun x => { x with run := 2, stepping := false }).run a).mem = a.mem := rfl
  generalize (modTile t fun x => { x with run := 2, stepping := false }).run a = b at *
  have hc := tileCatch_caught t ((a.tile t).causeWord ⟨0, .brk, false, none⟩) (a.tile t).pc (a.tile t).stream b
  generalize (tileCatch t _ _ _).run b = u at *
  have hu : u.tile t = { a.tile t with run := 2, stepping := false } := (hc.tile t).trans hhalt
  refine ⟨by rw [hu], by rw [hu]; exact hapc, by rw [hc.epc, hapc], by rw [hu, hmine]; rfl, ⟨by rw [hu, hmine]; rfl, by rw [hu, hmine]; rfl⟩,
    ⟨by rw [hu, hmine]; rfl, by rw [hu, hmine]; rfl, by rw [hu, hmine]; rfl, by rw [hu, hmine]; rfl, by rw [hu, hmine]; rfl⟩, ?_⟩
  rw [hc.mem, hbmem, hmem]

theorem tileStep_completes {s : State} {p : Path} {t : Nat} (hr : s.reach p (tileReg t 0x014) = true)
    (hb : s.benchDrops (tileReg t 0x014) = none) (hf : fuseBit s.dev.chuck 2 = false) (hrun : (s.tile t).run = 2)
    (hd : (s.tile t).delay = none) (hs : (s.tile t).shadow = none) (hl : (s.tile t).loops = []) (hfetch : s.fetchOk t = true)
    (hover : (s.overdue t).isEmpty = true) (hpoison : (s.poisonAt t 8 [(s.tile t).bundleAt, (s.tile t).bundleAt + 8]).isNone = true)
    (h0 : s.slotWord t 0 = 0) (h1 : s.slotWord t 1 = 0) :
    Completes (.tileStep p t) s fun u => Stepped s u t := by
  refine completes_done rfl ?_
  rw [debugWrite_run hr hb hf, stepTile, Prog.run_look, Prog.run_when, if_pos (by rw [hrun]; rfl), Prog.run_all_cons, Prog.run_all_cons,
    Prog.run_all_cons, Prog.run_all_nil]
  have hmine := State.tile_modTile_same s t Tile.stepped
  have hkept : ((modTile t Tile.stepped).run s).dev.poison = s.dev.poison ∧ ((modTile t Tile.stepped).run s).mem = s.mem ∧
      ((modTile t Tile.stepped).run s).slot = s.slot ∧ ((modTile t Tile.stepped).run s).dev.hs = s.dev.hs ∧
      ((modTile t Tile.stepped).run s).dev.parts = s.dev.parts := ⟨rfl, rfl, rfl, rfl, rfl⟩
  show Stepped s (_ : State) t
  rw [show (modTile t fun x => { x with run := 1, stepping := true, detached := x.detached || x.excHalt }) = modTile t Tile.stepped from rfl]
  generalize (modTile t Tile.stepped).run s = x at *
  obtain ⟨hpo, hmem, hslot, hhs, hparts⟩ := hkept
  have hword : ∀ k, x.slotWord t k = s.slotWord t k := fun k => by rw [State.slotWord, State.slotWord, hmine, State.readN, State.readN, hmem]; rfl
  have hxover : x.overdue t = s.overdue t := by
    have hrunIdx : x.runIdx = s.runIdx := by funext st c; rw [State.runIdx, State.runIdx, hslot]
    have hbound : x.boundOf = s.boundOf := by
      funext c; rw [State.boundOf, State.boundOf, State.planeFor_of_parts hparts]
    have hreach : x.reached = s.reached := by funext n; rw [State.reached, State.reached, hhs]
    rw [State.overdue, State.overdue, hmine, hrunIdx, hbound, hreach, hslot]
    rfl
  have hxpoison : x.poisonAt t 8 [(x.tile t).bundleAt, (x.tile t).bundleAt + 8] =
      s.poisonAt t 8 [(s.tile t).bundleAt, (s.tile t).bundleAt + 8] := by
    rw [hmine]
    simp only [State.poisonAt, State.poisonedIn, hpo]
    rfl
  have h := runBundle_step (x := x) (t := t) (by rw [hmine]; exact hd) (by rw [hmine]; exact hs) (by rw [hmine]; exact hl)
    (by rw [← hfetch, State.fetchOk, State.fetchOk, hmine]; rfl) ((hword 0).trans h0) ((hword 1).trans h1) (by rw [hmine]; rfl)
    (by rw [hxover]; exact hover) (by rw [hxpoison]; exact hpoison)
  generalize (runBundle t [] .none).run x = u at *
  obtain ⟨hurun, hpc, hepc, hsregs, ⟨hvregs, hmasks⟩, ⟨w1, w2, w3, w4, w5⟩, humem⟩ := h
  rw [hmine] at hpc hepc hsregs hvregs hmasks w1 w2 w3 w4 w5
  rw [Prog.run_look, Prog.run_when, if_neg (by rw [hurun]; simp)]
  exact ⟨hurun, hpc, hepc, hsregs, ⟨hvregs, hmasks⟩, ⟨w1, w2, w3, w4, w5⟩, humem.trans hmem⟩

/-! ## Debug data -/

theorem setBits_lt_64 {n lo v : Nat} (hn : n < 2 ^ 64) (hlo : lo + 32 ≤ 64) : setBits n lo 32 v < 2 ^ 64 := by
  refine Nat.lt_pow_two_of_testBit _ fun i hi => ?_
  rw [testBit_setBits, if_neg (by omega)]
  exact Nat.testBit_eq_false_of_lt (hn.trans_le (Nat.pow_le_pow_right (by decide) hi))

/-- What a write of register `r`, element `e`, of a space does (R149). -/
def debugPut (t : Nat) (hi : Bool) (v space r e : Nat) (x : Tile) : Prog :=
  match space with
  | 0 => setS t r (setBits (x.sreg r) (if hi then 32 else 0) 32 v)
  | 1 => when (decide (r < 16) && !hi) (setV t r [(e, v)])
  | 2 => when (decide (r < 16) && !hi)
      (setM t r (BitVec.ofNat 256 (setBits (Sparse.get zeroMask x.masks r).toNat (32 * (e % 8)) 32 v)))
  | _ => .nop

theorem debugPut_tile (s : State) (t : Nat) (hi : Bool) (v space r e : Nat) :
    (space = 0 → r ≠ 0 → (((debugPut t hi v space r e (s.tile t)).run s).tile t).sreg r =
      setBits ((s.tile t).sreg r) (if hi then 32 else 0) 32 v) ∧
    (space = 1 → r < 16 → hi = false → (((debugPut t hi v space r e (s.tile t)).run s).tile t).elem r e = v % 2 ^ 32) ∧
    ∀ n, n ≠ r → (((debugPut t hi v space r e (s.tile t)).run s).tile t).sreg n = (s.tile t).sreg n := by
  match space with
  | 0 =>
    refine ⟨fun _ hr => ?_, nofun, fun n hn => ?_⟩
    · show (((setS t r _).run s).tile t).sreg r = _
      rw [State.tile_setS, if_neg hr, Tile.sreg, if_neg hr]
      show (Sparse.get zeroLong (Sparse.put zeroLong _ r _) r).toNat = _
      rw [Sparse.get_put_same, BitVec.toNat_ofNat]
      exact Nat.mod_eq_of_lt (setBits_lt_64 (Tile.sreg_lt _ _) (by split <;> decide))
    · show (((setS t r _).run s).tile t).sreg n = _
      rw [State.tile_setS]
      split
      · rfl
      · rw [Tile.sreg, Sparse.get_put_other _ _ _ _ _ hn]
        rfl
  | 1 =>
    have hput : r < 16 → hi = false → (debugPut t hi v 1 r e (s.tile t)).run s = (setV t r [(e, v)]).run s := fun hr hh => by
      subst hh
      rw [debugPut, Prog.run_when, if_pos (by simp [hr])]
    refine ⟨nofun, fun _ hr hh => ?_, fun n _ => ?_⟩
    · rw [hput hr hh, setV, State.tile_modTile_same, Tile.elem]
      show (Sparse.get zeroElem (Sparse.put zeroElem _ _ _) _).toNat = _
      rw [Sparse.get_put_same, BitVec.toNat_ofNat]
    · show (((when _ (setV t r _)).run s).tile t).sreg n = _
      rw [Prog.run_when]
      split
      · rw [setV, State.tile_modTile_same]
        rfl
      · rfl
  | 2 =>
    refine ⟨nofun, nofun, fun n _ => ?_⟩
    show (((when _ (setM t r _)).run s).tile t).sreg n = _
    rw [Prog.run_when]
    split
    · rw [setM, State.tile_modTile_same]
      rfl
    · rfl
  | _ + 3 => exact ⟨nofun, nofun, fun _ _ => rfl⟩

/-- What a write of the selected register leaves of the tile (R149). -/
structure DebugStored (s u : State) (t : Nat) (hi : Bool) (v : Nat) : Prop where
  scalar : s.fld (F.TSQ_DSEL_SPACE (t / 16) (t % 16)) = 0 → s.fld (F.TSQ_DSEL_REG (t / 16) (t % 16)) ≠ 0 →
    (u.tile t).sreg (s.fld (F.TSQ_DSEL_REG (t / 16) (t % 16))) =
      setBits ((s.tile t).sreg (s.fld (F.TSQ_DSEL_REG (t / 16) (t % 16)))) (if hi then 32 else 0) 32 v
  element : s.fld (F.TSQ_DSEL_SPACE (t / 16) (t % 16)) = 1 → s.fld (F.TSQ_DSEL_REG (t / 16) (t % 16)) < 16 → hi = false →
    (u.tile t).elem (s.fld (F.TSQ_DSEL_REG (t / 16) (t % 16))) (s.fld (F.TSQ_DSEL_ELEM (t / 16) (t % 16))) = v % 2 ^ 32
  others : ∀ n, n ≠ s.fld (F.TSQ_DSEL_REG (t / 16) (t % 16)) → (u.tile t).sreg n = (s.tile t).sreg n
  only : OnlyTile s u t
  regs : u.regs = s.regs

theorem debugStore_stored (s : State) (t : Nat) (hi : Bool) (v : Nat) : DebugStored s ((debugStore t hi v).run s) t hi v := by
  have honly : (debugStore t hi v).Only (Act.tileOnly t []) := by
    refine Prog.only_look.mpr fun s => ?_
    dsimp only
    split
    · exact Prog.only_setS
    · exact Prog.only_when.mpr fun _ => Prog.only_setV _
    · exact Prog.only_when.mpr fun _ => Prog.only_setM _
    · exact Prog.only_nop
  obtain ⟨htile, -⟩ := honly.onlyTile s
  have hregs := Prog.Only.regs_of_tileOnly honly s
  have hrun : (debugStore t hi v).run s = (debugPut t hi v (s.fld (F.TSQ_DSEL_SPACE (t / 16) (t % 16))) (s.fld (F.TSQ_DSEL_REG (t / 16) (t % 16)))
      (s.fld (F.TSQ_DSEL_ELEM (t / 16) (t % 16))) (s.tile t)).run s := rfl
  obtain ⟨hs, he, ho⟩ := debugPut_tile s t hi v (s.fld (F.TSQ_DSEL_SPACE (t / 16) (t % 16))) (s.fld (F.TSQ_DSEL_REG (t / 16) (t % 16)))
    (s.fld (F.TSQ_DSEL_ELEM (t / 16) (t % 16)))
  rw [hrun] at htile hregs ⊢
  exact ⟨hs, he, ho, htile, hregs⟩

theorem debugDataWrite_completes {s : State} {p : Path} {t : Nat} {hi : Bool} (v : Word)
    (hr : s.reach p (tileReg t (if hi then 0x068 else 0x064)) = true) (hb : s.benchDrops (tileReg t (if hi then 0x068 else 0x064)) = none)
    (hf : fuseBit s.dev.chuck 2 = false) (hrun : (s.tile t).run = 2) :
    Completes (.debugDataWrite p t hi v) s fun u => DebugStored s u t hi v.toNat := by
  refine completes_done rfl ?_
  rw [writeDdata, debugWrite_run hr hb hf, Prog.run_look, hrun]
  exact debugStore_stored s t hi v.toNat

/-- Settles O18: a drain writes the entry's bytes, a reload leaves an empty tile, and each debug access does what the tile's
state lets it do. -/
theorem tileUpkeep : Obligations.TileUpkeep := by
  refine ⟨fun s t a bs l hbs h => storeBufferDrain_completes hbs h, fun s t hr hrun hops hx hw ht => ?_, fun s p t hr hb hf ht => ⟨fun hrun hl =>
    tileHalt_completes hr hb hf hrun hl, fun hrun => tileResume_completes hr hb hf hrun, fun hrun hd hs hl hfetch hover hpo h0 h1 => ?_⟩,
    fun s p t hi v hr hb hf hrun => ?_⟩
  · refine (tileReload_completes hr hrun hops hx hw ht).mono fun u h => ?_
    obtain ⟨htile, hcount⟩ := h
    refine ⟨by rw [htile], by rw [htile], by rw [htile], fun n => ?_, fun v i => by rw [htile]; rfl, hcount⟩
    rw [htile, Tile.sreg]
    split <;> rfl
  · refine (tileStep_completes hr hb hf hrun hd hs hl hfetch hover hpo h0 h1).mono fun u h => ?_
    refine ⟨h.run, h.pc, ?_, ⟨fun n => by rw [Tile.sreg, Tile.sreg, h.scalars]⟩, ?_, h.work, fun a => congrArg (Memory.read · a) h.mem⟩
    · rw [h.epc, BitVec.toNat_ofNat]
      omega
    · obtain ⟨hv, hm⟩ := h.vectors
      exact ⟨fun _ _ => by rw [Tile.elem, Tile.elem, hv], hm⟩
  · refine (debugDataWrite_completes v hr hb hf hrun).mono fun u h => ⟨fun hsp hreg => ?_, fun hsp hreg hhi => ?_, h.others, h.only, h.regs⟩
    · rw [h.scalar hsp hreg, bitsOf_setBits_same, bitsOf_setBits_other _ _ _ _ _ _ (by cases hi <;> simp)]
      exact ⟨Nat.mod_eq_of_lt v.isLt, rfl⟩
    · rw [h.element hsp hreg hhi]
      exact Nat.mod_eq_of_lt v.isLt

end Sys2Proof.Machine
end

section
/-!
Vector loads and stores: a load gathers its elements from memory, VST enters the store buffer as one entry, VSTS and VSTX write tile
memory element by element (R117, R120, R130, R135, R136); O9.
-/
namespace Sys2Proof.Machine

/-! ## Loads -/

theorem instrEff_vload {op : TOp} (hop : op ∈ [TOp.vld, .vlds, .vldx]) (s : State) (t mode w : Nat) :
    instrEff s t mode op w = vloadEff s t op w := by
  simp only [List.mem_cons, List.not_mem_nil, or_false] at hop
  rcases hop with rfl | rfl | rfl <;> rfl

theorem vload_ne_end {op : TOp} (hop : op ∈ [TOp.vld, .vlds, .vldx]) : op ≠ .end_ := by
  rintro rfl
  simp at hop

theorem Tile.mem_taking {x : Tile} {men : Bool} {m i : Nat} : i ∈ x.taking men m ↔ x.takes men m i = true := by
  rw [Tile.taking, List.mem_filter, List.mem_range]
  exact ⟨fun h => h.2, fun h => ⟨(Tile.takes_lt h).trans_le x.vl_le, h⟩⟩

/-- A load with nothing buffered reads memory. -/
theorem vloadEff_memory {s : State} {t w : Nat} {op : TOp} (hf : ∀ c i, vloadEff s t op w ≠ .fault c i) (hs : (s.tile t).stores = [])
    (hq : ∀ i ∈ (s.tile t).taking (mMen w) (mMask w), (s.tile t).busyAt ((s.tile t).elemAddr op w i) (fmtBytes (mFmt w)) = false ∧
      s.poisonedIn (tileAt t + (s.tile t).elemAddr op w i) (fmtBytes (mFmt w)) = false) :
    vloadEff s t op w = .go (setV t (fVD w) ((s.tile t).results (mMen w) (mZm w) (mMask w) fun i =>
      widen (mFmt w) (s.readN (tileAt t + (s.tile t).elemAddr op w i) (fmtBytes (mFmt w)))))
      (((s.tile t).taking (mMen w) (mMask w)).map ((s.tile t).elemAddr op w)) := by
  have hacc : (s.tile t).accessFault false (fmtBytes (mFmt w)) (((s.tile t).taking (mMen w) (mMask w)).map ((s.tile t).elemAddr op w)) = none := by
    rw [Option.eq_none_iff_forall_ne_some]
    rintro ⟨c, a⟩ h
    exact hf c (some a) (by rw [vloadEff]; simp only [h])
  have hall : ∀ a ∈ ((s.tile t).taking (mMen w) (mMask w)).map ((s.tile t).elemAddr op w), (s.tile t).busyAt a (fmtBytes (mFmt w)) = false ∧
      s.poisonedIn (tileAt t + a) (fmtBytes (mFmt w)) = false := by
    intro a ha
    obtain ⟨i, hi, rfl⟩ := List.mem_map.mp ha
    exact hq i hi
  rw [vloadEff]
  simp only [hacc]
  rw [if_neg (by simp [hs]), loadEff_memory hacc (fun a ha => (hall a ha).1) (by rw [hs]; exact fun _ h => absurd h List.not_mem_nil)
    fun a ha => (hall a ha).2]

theorem setV_setsVector (s : State) (t d : Nat) (men zm : Bool) (m : Nat) (f : Nat → Nat) :
    (setV t d ((s.tile t).results men zm m f)).SetsVector s t d men zm m f {} := by
  refine ⟨Prog.only_setV _, State.tile_setV s t d men zm m f, ?_⟩
  have h := flagsRaised_raiseFlags t {} ((setV t d ((s.tile t).results men zm m f)).run s)
  rw [raiseFlags_run_none] at h
  exact h.congr rfl rfl

/-! ## Stores -/

theorem instrEff_vstore {op : TOp} (hop : op ∈ [TOp.vst, .vsts, .vstx]) (s : State) (t mode w : Nat) :
    instrEff s t mode op w = vstoreEff s t (fmodeOf mode) op w := by
  simp only [List.mem_cons, List.not_mem_nil, or_false] at hop
  rcases hop with rfl | rfl | rfl <;> rfl

/-- The elements that a store writes. -/
def Tile.stored (x : Tile) (op : TOp) (w : Nat) (v : Nat → Nat) : List Elem :=
  (x.taking (mMen w) (mMask w)).map fun i => (x.elemAddr op w i, v i)

theorem Tile.stored_busy {x : Tile} {op : TOp} {w n : Nat} {v : Nat → Nat}
    (h : ∀ i ∈ x.taking (mMen w) (mMask w), x.busyAt (x.elemAddr op w i) n = false) : ∀ e ∈ x.stored op w v, x.busyAt e.1 n = false := by
  intro e he
  obtain ⟨i, hi, rfl⟩ := List.mem_map.mp he
  exact h i hi

/-- What VSTS and VSTX do to memory. -/
def storeElems (t n : Nat) (l : List Elem) : Prog := each l fun e => storeBytes (tileAt t + e.1) (toBytes n e.2)

theorem directEff_go {s : State} {t n : Nat} {l : List Elem} {p : Prog} (hf : ∀ c i, directEff s t n l p ≠ .fault c i)
    (hb : ∀ e ∈ l, (s.tile t).busyAt e.1 n = false) (hs : (s.tile t).stores = []) :
    directEff s t n l p = .go (all [storeElems t n l, p]) (l.map Prod.fst) := by
  have hacc : (s.tile t).accessFault true n (l.map Prod.fst) = none := by
    rw [Option.eq_none_iff_forall_ne_some]
    rintro ⟨c, a⟩ h
    exact hf c (some a) (by simp [directEff, h])
  have hbusy : (l.any fun e => (s.tile t).busyAt e.1 n) = false := by simpa using hb
  simp [directEff, hacc, hbusy, hs, storeElems]

/-- Memory and its poison alone change. -/
theorem storeElems_rewriteBound (t n : Nat) (l : List Elem) : (storeElems t n l).Only (Act.obeys rewriteBound) :=
  Prog.only_each.mpr fun _ _ => storeBytes_rewriteBound _ _

theorem storeElems_read {t n a : Nat} {l : List Elem} (h : ∀ e ∈ l, a < tileAt t + e.1 ∨ tileAt t + e.1 + n ≤ a) (s : State) :
    ((storeElems t n l).run s).mem.read a = s.mem.read a := by
  rw [storeElems]
  induction l generalizing s with
  | nil => rfl
  | cons e l ih =>
    rw [Prog.run_each_cons, ih fun e' he' => h e' (List.mem_cons_of_mem _ he')]
    exact Memory.read_writes_other _ _ _ _ (by rw [toBytes_length]; exact h e List.mem_cons_self)

theorem storeElems_regs (t n : Nat) (l : List Elem) (s : State) : ((storeElems t n l).run s).regs = s.regs := by
  rw [storeElems]
  induction l generalizing s with
  | nil => rfl
  | cons e l ih =>
    rw [Prog.run_each_cons, ih]
    rfl

/-- An element that no later one meets stays. -/
theorem storeElems_reads {t n : Nat} {pre post : List Elem} {e : Elem} (h : ∀ e' ∈ post, e'.1 + n ≤ e.1 ∨ e.1 + n ≤ e'.1) (s : State) :
    ((storeElems t n (pre ++ e :: post)).run s).mem.reads (tileAt t + e.1) n = toBytes n e.2 := by
  rw [storeElems, Prog.run_each_append, Prog.run_each_cons]
  generalize (each pre _).run s = x
  have hput : ((storeBytes (tileAt t + e.1) (toBytes n e.2)).run x).mem.reads (tileAt t + e.1) (toBytes n e.2).length = toBytes n e.2 :=
    Memory.reads_writes _ _ _
  rw [toBytes_length] at hput
  refine (Memory.reads_congr fun a h1 h2 => storeElems_read (fun e' he' => ?_) _).trans hput
  have := h e' he'
  omega

theorem Tile.stored_split {x : Tile} {w i : Nat} (hi : x.takes (mMen w) (mMask w) i = true) (op : TOp) (v : Nat → Nat) :
    ∃ pre post, x.stored op w v = pre ++ (x.elemAddr op w i, v i) :: post ∧
      ∀ e ∈ post, ∃ j, i < j ∧ x.takes (mMen w) (mMask w) j = true ∧ e.1 = x.elemAddr op w j := by
  obtain ⟨l, l', hl⟩ := List.append_of_mem (Tile.mem_taking.mpr hi)
  have hsorted : (x.taking (mMen w) (mMask w)).Pairwise (· < ·) := List.pairwise_lt_range.filter _
  refine ⟨l.map fun i => (x.elemAddr op w i, v i), l'.map fun i => (x.elemAddr op w i, v i), by rw [Tile.stored, hl, List.map_append, List.map_cons],
    fun e he => ?_⟩
  obtain ⟨j, hj, rfl⟩ := List.mem_map.mp he
  rw [hl, List.pairwise_append] at hsorted
  exact ⟨j, (List.pairwise_cons.mp hsorted.2.1).1 j hj, Tile.mem_taking.mp (hl ▸ List.mem_append_right _ (List.mem_cons_of_mem _ hj)), rfl⟩

/-- What VSTS and VSTX leave. -/
theorem completes_storeElems {s : State} {t k w n : Nat} {op : TOp} {l : List Elem} {r : Raised} {m : List Nat} (h : s.issues t k op w = true)
    (hop : op ≠ .end_) (hp : instrEff s t ((s.tile t).seenMode false) op w = .go (all [storeElems t n l, raiseFlags t r]) m) :
    Completes (tileCmd op t k) s fun u => SameBytes ((storeElems t n l).run s) u ∧ FlagsRaised s u t r ∧
      SameScalars (s.tile t) (u.tile t) ∧ SameVectors (s.tile t) (u.tile t) ∧ SameWork (s.tile t) (u.tile t) ∧
      GoesOn (s.tile t) (u.tile t) ((s.tile t).after k op w) ∧ SameHost s u ∧ SameRegsBut s u [tileReg t 0x088] := by
  have hx := storeElems_rewriteBound t n l
  have htiles : _ = _ := hx.devs rewriteBound_steps s
  have hregs := storeElems_regs t n l s
  have hhost := hx.sameHost_of_obeys id s
  have hq := Prog.only_raiseFlags (t := t) (offs := [tileReg t 0x088]) r List.mem_cons_self
  have hrun : (all [storeElems t n l, raiseFlags t r]).run s = (raiseFlags t r).run ((storeElems t n l).run s) := by
    rw [Prog.run_all_cons, Prog.run_all_cons, Prog.run_all_nil]
  have htile : ((all [storeElems t n l, raiseFlags t r]).run s).tile t = s.tile t := by
    rw [hrun, raiseFlags_tile, State.tile, htiles]
    rfl
  have hflags := flagsRaised_raiseFlags t r ((storeElems t n l).run s)
  obtain ⟨hone, hbut⟩ := hq.onlyTile ((storeElems t n l).run s)
  have hu : (s.afterOne t k op w (all [storeElems t n l, raiseFlags t r])).regs = ((raiseFlags t r).run ((storeElems t n l).run s)).regs :=
    (State.afterOne_regs s t k w op _).trans (congrArg State.regs hrun)
  refine completes_of_issues h hop hp ⟨?_, hflags.congr hregs.symm ?_, ?_, ?_, ?_, State.afterOne_goesOn (by rw [htile]) (by rw [htile]) (by rw [htile]), ?_, fun o ho => ?_⟩
  · exact fun a => (congrArg (fun y : State => y.mem.read a) hrun).trans (hone.bytes a)
  · exact hu
  · rw [State.afterOne_tile, htile]
    exact ⟨fun _ => rfl⟩
  · rw [State.afterOne_tile, htile]
    exact ⟨fun _ _ => rfl, rfl⟩
  · rw [State.afterOne_tile, htile]
    exact ⟨rfl, rfl, rfl, rfl, rfl⟩
  · exact fun a => ((congrArg (fun y : State => y.host.read a) hrun).trans (hone.host a)).trans (hhost a)
  · exact ((State.word_of_regs hu o).trans (hbut o ho)).trans (State.word_of_regs hregs o)

/-- Settles O9: a load gathers its elements, VST buffers one entry, and of colliding elements of VSTS and VSTX the last stays. -/
theorem vectorMemory : Obligations.VectorMemory := by
  refine ⟨fun s t k w op hop h => ?_, fun s t k w h => ?_, fun s t k w op hop h => ?_⟩
  · intro x n hs hq
    have he := (instrEff_vload hop s t ((s.tile t).seenMode false) w).trans
      (vloadEff_memory (fun c i => instrEff_vload hop s t _ w ▸ State.issues_no_fault h c i) hs fun i hi =>
        hq i (List.mem_range.mp (List.mem_filter.mp hi).1) (Tile.mem_taking.mp hi))
    exact (completes_vector h (vload_ne_end hop) he (setV_setsVector s t _ _ _ _ _)).mono fun u ⟨hv, _, ⟨hsc, hw, hg⟩, ho, _, hr⟩ =>
      ⟨hv, hsc, hw, hg, ho, hr⟩
  · intro x n v hlen hne hq
    have hop : TOp.vst ∈ [TOp.vst, .vsts, .vstx] := by simp
    have he := instrEff_vstore hop s t ((s.tile t).seenMode false) w
    have hst : vstoreEff s t (fmodeOf ((s.tile t).seenMode false)) .vst w = storeEff s t n (x.stored .vst w fun i => (v i).1)
        (raiseFlags t (raisedAll ((x.taking (mMen w) (mMask w)).map fun i => (v i).2))) := rfl
    rw [hst] at he
    have hf := storeEff_fault fun c i => he ▸ State.issues_no_fault h c i
    rw [storeEff_go hf (Tile.stored_busy fun i hi => hq i (List.mem_range.mp (List.mem_filter.mp hi).1) (Tile.mem_taking.mp hi)) hlen
      (by rw [Tile.stored]; simpa using hne)] at he
    refine (completes_bufferStore (offs := [tileReg t 0x088]) h (by decide) he (Prog.only_raiseFlags _ List.mem_cons_self)
      (by simp [raiseFlags, setF, Act.sparesDev])).mono ?_
    rintro u ⟨hsts, hsc, hv, -, hg, ho, hbut, hregs⟩
    refine ⟨by rw [hsts, Tile.stored, List.flatMap_map], ?_, hsc, hv, hg, ho, hbut⟩
    exact (flagsRaised_raiseFlags t _ ((bufferStore t _).run s)).congr rfl hregs
  · intro x n v hs hq
    have hop' : op ∈ [TOp.vst, .vsts, .vstx] := List.mem_cons_of_mem _ hop
    have he := instrEff_vstore hop' s t ((s.tile t).seenMode false) w
    have hst : vstoreEff s t (fmodeOf ((s.tile t).seenMode false)) op w = directEff s t n (x.stored op w fun i => (v i).1)
        (raiseFlags t (raisedAll ((x.taking (mMen w) (mMask w)).map fun i => (v i).2))) := if_neg (by rintro rfl; simp at hop)
    rw [hst] at he
    rw [directEff_go (fun c i => he ▸ State.issues_no_fault h c i)
      (Tile.stored_busy fun i hi => hq i (List.mem_range.mp (List.mem_filter.mp hi).1) (Tile.mem_taking.mp hi)) hs] at he
    refine (completes_storeElems h (by rintro rfl; simp at hop) he).mono ?_
    rintro u ⟨hmem, hfl, hrest⟩
    refine ⟨fun i hi hlast => ?_, fun a ha => ?_, hfl, hrest⟩
    · obtain ⟨pre, post, hsplit, hpost⟩ := Tile.stored_split hi op fun i => (v i).1
      refine (Memory.reads_congr fun b _ _ => hmem b).trans ?_
      rw [hsplit]
      refine storeElems_reads (e := (x.elemAddr op w i, (v i).1)) (fun e he => ?_) s
      obtain ⟨j, hj, htakes, heq⟩ := hpost e he
      rw [heq]
      exact hlast j hj htakes
    · rw [hmem]
      refine storeElems_read (fun e he => ?_) s
      obtain ⟨i, hi, rfl⟩ := List.mem_map.mp he
      exact ha i (Tile.mem_taking.mp hi)

end Sys2Proof.Machine
end

section
/-!
Regrips (R330 to R338). The statement of O43 admits any chunks in the slots that a regrip parts. A chunk counts in the registers of its
own partition, and the number of a partition that the device does not have leads those registers out of the timetable's block: that of
`alienChunk` puts its count of missed chunks on the ledger's line of partition 6.
-/
namespace Sys2Proof.Machine

/-- A pending chunk whose partition's TT_MISSED would stand where LEDG_UNIT_38 stands. -/
def alienChunk : Chunk := { part := 2054 }

theorem alienChunk_missed : (F.TT_MISSED alienChunk.part).off = (F.LEDG_UNIT_EPOCH 38).off := by decide

/-- Partition 6 gives up slot 0, which its staged plane does not declare. -/
def partingPart : Part :=
  { active := some { benches := 1, turnLen := 1, slots := [{ slot := 0 }] }, staged := some { benches := 1, turnLen := 1 },
    regrip := some { pmask := 64 } }

def partingDev : Dev :=
  { pwr := { por := false }, hs := { counting := true }, parts := [(6, partingPart)], slots := [(0, { chunks := [alienChunk] })] }

/-- Partition 6 at a turn boundary, with the low half of its ledger line all ones. -/
def partingState : State :=
  (setF F.PCK_STATUS_DEV 1).run { dev := partingDev, regs := [((F.LEDG_UNIT_STATE 38).off, 0xFFFF), ((F.TB_TURN_LEN_LEN 6).off, 1)] }

theorem partingState_due : partingState.ready = true ∧ partingState.partOn 6 = true ∧
    ((membersOf 64 8).filter fun q => (partingState.part q).regrip == some { pmask := 64 }) = [6] ∧
    partingState.regripNow [6] { pmask := 64 } = some false := by
  decide +kernel

/-- The parted slot's chunk ends MISSED; counting it carries into the epoch, which then goes up once more. -/
theorem partingState_epoch : partingState.epoch 38 = 0 ∧ ((regripDue 6).run partingState).epoch 38 = 2 := by
  decide +kernel

/-- Refutes O43: the epoch of partition 6 goes up by two where its parted slot holds a chunk of partition 2054. -/
theorem not_regrips : ¬ Obligations.Regrips := by
  rintro ⟨h, -⟩
  obtain ⟨hready, hon, hnamed, hnow⟩ := partingState_due
  obtain ⟨hbefore, hafter⟩ := partingState_epoch
  obtain ⟨u, hu, -, -, -, -, -, hepoch, -⟩ := h partingState 6 { pmask := 64 } false { benches := 1, turnLen := 1, slots := [{ slot := 0 }] }
    { benches := 1, turnLen := 1 } (by decide) hready rfl hnamed hon hnow rfl rfl rfl
  have hrun : u = (regripDue 6).run partingState := run_eq_of_done hready hu
  rw [hrun, hafter, hbefore] at hepoch
  cases hepoch

end Sys2Proof.Machine
end

section
/-!
The release of records and the preparation of chunks without a list (R254, R255), and what an engine reads (R208, R221): O33.
-/
namespace Sys2Proof.Machine

/-! ## An engine's reads -/

theorem reports_none_ne (s : State) (a : Nat) : s.reports a .none = .none := by
  rw [State.reports]
  split <;> rfl

theorem reading_good {s : State} {p : Nat} {rs : List (Nat × Nat)} {st : Option Nat} {ok bad : Prog} (h : s.badLine [] rs = none) :
    (reading p [] rs st ok bad).run s = ok.run s := by
  have hnone : ∀ l : List Nat, l.filter (fun a => s.reports a (Codes.find [] a 64) == .corrected) = [] := fun l =>
    List.filter_eq_nil_iff.mpr fun a _ => by rw [show Codes.find [] a 64 = .none from rfl, reports_none_ne]; decide
  rw [reading, Prog.run_look, hnone, h]
  dsimp only
  rw [Prog.run_all_cons, Prog.run_all_cons, Prog.run_all_nil, Prog.run_each_nil]

/-- An engine reads what its partition may read and no code finds bad. -/
theorem engineRead_good {s : State} {p slot : Nat} {rs : List (Nat × Nat)} {ok : Prog} {fail : Nat → Prog}
    (hr : ∀ r ∈ rs, s.mayRead p r = true) (hb : s.badLine [] rs = none) : (engineRead p slot [] rs ok fail).run s = ok.run s := by
  have hfind : (rs.find? fun r => !s.mayRead p r) = none := List.find?_eq_none.mpr fun r h => by simp [hr r h]
  rw [engineRead, Prog.run_look, hfind]
  exact reading_good hb

theorem engineRead_none {s : State} {p slot : Nat} {ok : Prog} {fail : Nat → Prog} : (engineRead p slot [] [] ok fail).run s = ok.run s :=
  engineRead_good (fun _ h => absurd h List.not_mem_nil) rfl

/-! ## Release -/

theorem chunks_unbound {l : List Chunk} (h : (l.any fun c => c.bound) = false) : (l.map fun c => { c with bound := false }) = l := by
  refine (List.map_congr_left fun c hc => ?_).trans l.map_id
  have hb : c.bound = false := by
    have := List.any_eq_false.mp h c hc
    simpa using this
  show { c with bound := false } = c
  rw [← hb]

theorem recordFree_unbound {s : State} {slot : Nat} (h : s.recordFree slot = true) : ((s.slot slot).chunks.any fun c => c.bound) = false := by
  simp only [State.recordFree, Bool.and_eq_true, Bool.not_eq_true'] at h
  obtain ⟨⟨-, h⟩, -⟩ := h
  rw [List.any_eq_false] at h ⊢
  intro c hc hb
  exact h c hc (by rw [hb]; rfl)

/-- Releasing a record: its pins go, its state becomes free, and the slot lets it go. -/
theorem releaseRecord_held {s : State} {slot : Nat} {d : List Nat} (h : s.heldDesc slot = some d) :
    (releaseRecord slot).run s = (modSlot slot SlotDyn.released).run ((look fun x => put32 (recordAt d slot)
      (setBits (x.read32 (recordAt d slot)) 16 3 0)).run ((each (s.slot slot).pins unpinPage).run s)) := by
  rw [releaseRecord, Prog.run_look, h]
  rfl

theorem modSlot_memories (n : Nat) (f : SlotDyn → SlotDyn) (x : State) :
    ((modSlot n f).run x).mem = x.mem ∧ ((modSlot n f).run x).regs = x.regs ∧ ((modSlot n f).run x).host = x.host := ⟨rfl, rfl, rfl⟩

theorem setBits_lt_word {n lo w v : Nat} (hn : n < 2 ^ 32) (h : lo + w ≤ 32) : setBits n lo w v < 2 ^ 32 := by
  refine Nat.lt_pow_two_of_testBit _ fun i hi => ?_
  rw [testBit_setBits, if_neg (by omega)]
  exact Nat.testBit_eq_false_of_lt (hn.trans_le (Nat.pow_le_pow_right (by decide) hi))

/-- What the release of a record leaves of the slots. -/
structure RecordGone (s u : State) (slot : Nat) : Prop where
  held : u.heldDesc slot = none
  mine : u.slot slot = (s.slot slot).released
  others : ∀ n, n ≠ slot → u.slot n = s.slot n

theorem released_gone {s x : State} {slot : Nat} (h : x.dev = s.dev) : RecordGone s ((modSlot slot SlotDyn.released).run x) slot := by
  have hslots : ∀ n, x.slot n = s.slot n := fun n => by rw [State.slot, State.slot, h]
  have hput := fun n => State.slot_modSlot slot n SlotDyn.released x
  generalize (modSlot slot SlotDyn.released).run x = u at *
  have hmine := hput slot
  rw [if_pos rfl, hslots] at hmine
  refine ⟨by rw [State.heldDesc, hmine]; rfl, hmine, fun n hn => ?_⟩
  have hother := hput n
  rwa [if_neg hn, hslots] at hother

theorem recordRelease_unpinned {s : State} {slot : Nat} {d : List Nat} (hr : s.ready = true) (hf : s.recordFree slot = true)
    (hd : s.heldDesc slot = some d) (hp : (s.slot slot).pins = []) :
    Completes (.recordRelease slot) s fun u => u.heldDesc slot = none ∧ u.read32 (recordAt d slot) = setBits (s.read32 (recordAt d slot)) 16 3 0 ∧
      (u.slot slot).chunks = (s.slot slot).chunks ∧ (u.slot slot).results = (s.slot slot).results ∧
      (∀ n, n ≠ slot → u.slot n = s.slot n) ∧ SameBytesBut s u (recordAt d slot) 4 ∧ u.regs = s.regs ∧ SameHost s u := by
  refine completes_done rfl ?_
  rw [hr, hf, Bool.and_self, Prog.run_when, if_pos rfl, releaseRecord_held hd, hp, Prog.run_each_nil, Prog.run_look]
  have hput := putN_put (recordAt d slot) 4 (setBits (s.read32 (recordAt d slot)) 16 3 0) s
  have hread := putN_readN (recordAt d slot) 4 (setBits (s.read32 (recordAt d slot)) 16 3 0) s
  rw [put32]
  generalize (putN (recordAt d slot) 4 _).run s = x at *
  have hgone := released_gone (slot := slot) hput.dev
  have hkept := modSlot_memories slot SlotDyn.released x
  generalize (modSlot slot SlotDyn.released).run x = u at *
  obtain ⟨hmem, hregs, hhost⟩ := hkept
  obtain ⟨hheld, hslot, hothers⟩ := hgone
  refine ⟨hheld, ?_, ?_, by rw [hslot]; rfl, hothers, fun b hb => (congrArg (Memory.read · b) hmem).trans (hput.bytes b hb),
    hregs.trans hput.regs, fun b => congrArg (Memory.read · b) (hhost.trans hput.host)⟩
  · show ofBytes (u.mem.reads _ 4) = _
    rw [hmem]
    exact hread.trans (Nat.mod_eq_of_lt (setBits_lt_word (s.readN_lt _ 4) (by decide)))
  · rw [hslot]
    exact chunks_unbound (recordFree_unbound hf)

/-- A page that keeps other pins only loses one. -/
theorem unpinPage_pinned {x : State} {page : Nat} (h : 1 < x.pagePin page) :
    MemPut x ((unpinPage page).run x) (x.ledgerAt page) 4 ∧ ((unpinPage page).run x).pagePin page = x.pagePin page - 1 ∧
      ((unpinPage page).run x).pageRef page = x.pageRef page ∧ ((unpinPage page).run x).pageAlloc page = x.pageAlloc page := by
  have hlt : x.pagePin page < 2 ^ 8 := bitsOf_lt _ _ _
  have hrun : (unpinPage page).run x = (freeIfIdle page).run ((setPage page 16 8 (x.pagePin page - 1)).run x) := by
    rw [unpinPage, Prog.run_all_cons, Prog.run_all_cons, Prog.run_all_nil, Prog.run_look]
  obtain ⟨hput, hbits⟩ := setPage_line page 16 8 (x.pagePin page - 1) x
  have hother : ∀ lo w, lo + w ≤ 16 ∨ 24 ≤ lo → lo + w ≤ 32 →
      bitsOf (((setPage page 16 8 (x.pagePin page - 1)).run x).pageEntry page) lo w = bitsOf (x.pageEntry page) lo w :=
    fun lo w h h' => (hbits lo w h').trans (bitsOf_setBits_other _ _ _ _ _ _ h)
  have hpin : ((setPage page 16 8 (x.pagePin page - 1)).run x).pagePin page = x.pagePin page - 1 := by
    rw [State.pagePin, hbits 16 8 (by decide), bitsOf_setBits_same, Nat.mod_eq_of_lt (by omega)]
  rw [hrun, freeIfIdle_busy (.inr (.inl (by rw [hpin]; omega)))]
  exact ⟨hput, hpin, hother 0 16 (by decide) (by decide), congrArg (· == 1) (hother 27 1 (by decide) (by decide))⟩

theorem recordRelease_pinned {s : State} {slot page : Nat} {d : List Nat} (hr : s.ready = true) (hf : s.recordFree slot = true)
    (hd : s.heldDesc slot = some d) (hp : (s.slot slot).pins = [page]) (h1 : 1 < s.pagePin page)
    (hap : Apart (s.ledgerAt page) 4 (recordAt d slot) 4) :
    Completes (.recordRelease slot) s fun u => u.heldDesc slot = none ∧ u.pagePin page = s.pagePin page - 1 ∧
      u.pageRef page = s.pageRef page ∧ u.pageAlloc page = s.pageAlloc page ∧ u.regs = s.regs ∧ SameHost s u := by
  refine completes_done rfl ?_
  rw [hr, hf, Bool.and_self, Prog.run_when, if_pos rfl, releaseRecord_held hd, hp, Prog.run_each_cons, Prog.run_each_nil, Prog.run_look]
  obtain ⟨hunpin, hpin, href, halloc⟩ := unpinPage_pinned h1
  generalize (unpinPage page).run s = x at *
  have hput := putN_put (recordAt d slot) 4 (setBits (x.read32 (recordAt d slot)) 16 3 0) x
  rw [put32]
  generalize (putN (recordAt d slot) 4 _).run x = y at *
  have hgone := released_gone (slot := slot) (hput.dev.trans hunpin.dev)
  have hkept := modSlot_memories slot SlotDyn.released y
  generalize (modSlot slot SlotDyn.released).run y = u at *
  obtain ⟨hmem, hregs, hhost⟩ := hkept
  have hentry : u.pageEntry page = x.pageEntry page := by
    have hy : y.pageEntry page = x.pageEntry page := hput.pageEntry (by rw [hunpin.ledgerAt]; exact hap.symm)
    have hu : u.pageEntry page = y.pageEntry page := State.pageEntry_congr hmem (State.fld_of_word (State.word_of_regs hregs _)) page
    exact hu.trans hy
  refine ⟨hgone.held, ?_, ?_, ?_, (hregs.trans hput.regs).trans hunpin.regs,
    fun b => congrArg (Memory.read · b) ((hhost.trans hput.host).trans hunpin.host)⟩
  · exact (congrArg (bitsOf · 16 8) hentry).trans hpin
  · exact (congrArg (bitsOf · 0 16) hentry).trans href
  · exact (congrArg (bitsOf · 27 1 == 1) hentry).trans halloc

/-! ## Preparation without a list -/

theorem getElem?_modNth_same {α : Type} (f : α → α) {l : List α} {i : Nat} {a : α} (h : l[i]? = some a) : (modNth f l i)[i]? = some (f a) := by
  rw [modNth_getElem?, h]
  rfl

theorem getElem?_modNth_other {α : Type} (f : α → α) {l : List α} {i j : Nat} (h : j ≠ i) : (modNth f l i)[j]? = l[j]? := by
  induction l generalizing i j with
  | nil => rfl
  | cons a l ih =>
    cases i with
    | zero =>
      obtain ⟨j, rfl⟩ := Nat.exists_eq_succ_of_ne_zero h
      rfl
    | succ i =>
      cases j with
      | zero => rfl
      | succ j => exact ih (Nat.succ_ne_succ_iff.mp h)

/-- A chunk that is marked prepared. -/
def Chunk.readied (c : Chunk) : Chunk := { c with prepared := true, tailWait := false }

theorem prepDone_none (slot i len : Nat) (s : State) : (prepDone slot i len none).run s =
    (modSlot slot fun x => { x with chunks := modNth Chunk.readied x.chunks i }).run s := rfl

theorem Chunk.readied_eq {c : Chunk} (h : c.tailWait = false) : c.readied = { c with prepared := true } := by
  rw [Chunk.readied, ← h]

/-- What marking a chunk prepared leaves. -/
structure Prepared (s u : State) (slot i : Nat) (c : Chunk) : Prop where
  chunk : (u.slot slot).chunks[i]? = some c.readied
  chunks : (u.slot slot).chunks = modNth Chunk.readied (s.slot slot).chunks i
  results : (u.slot slot).results = (s.slot slot).results
  others : ∀ n, n ≠ slot → u.slot n = s.slot n
  regs : u.regs = s.regs
  mem : u.mem = s.mem
  host : u.host = s.host

theorem prepDone_prepared {s : State} {slot i : Nat} {c : Chunk} (hc : (s.slot slot).chunks[i]? = some c) (len : Nat) :
    Prepared s ((prepDone slot i len none).run s) slot i c := by
  rw [prepDone_none]
  have hput := fun n => State.slot_modSlot slot n (fun x => { x with chunks := modNth Chunk.readied x.chunks i }) s
  have hmine := hput slot
  rw [if_pos rfl] at hmine
  have hkept := modSlot_memories slot (fun x => { x with chunks := modNth Chunk.readied x.chunks i }) s
  generalize (modSlot slot _).run s = u at *
  obtain ⟨hmem, hregs, hhost⟩ := hkept
  refine ⟨?_, by rw [hmine], by rw [hmine], fun n hn => (hput n).trans (if_neg hn), hregs, hmem, hhost⟩
  rw [hmine]
  exact getElem?_modNth_same Chunk.readied hc

theorem chunkPrepare_unlisted {s : State} {slot i : Nat} {c : Chunk} (hr : s.ready = true) (hi : s.prepIdx slot = some i)
    (hc : (s.slot slot).chunks[i]? = some c) (hd : s.descFor c.part false c.group slot = none) (hl : s.slotPlist slot = 0)
    (ht : c.tailWait = false) :
    Completes (.chunkPrepare { at_ := slot }) s fun u => (u.slot slot).chunks[i]? = some { c with prepared := true } ∧
      (∀ j, j ≠ i → (u.slot slot).chunks[j]? = (s.slot slot).chunks[j]?) ∧ (∀ n, n ≠ slot → u.slot n = s.slot n) ∧
      u.regs = s.regs ∧ SameBytes s u ∧ SameHost s u := by
  refine completes_done rfl ?_
  have hget : (s.slot slot).chunks.getD i {} = c := by rw [List.getD_eq_getElem?_getD, hc]; rfl
  have hrun : (chunkPrepare slot []).run s = (prepDone slot i 0 none).run s := by
    rw [chunkPrepare, Prog.run_look, hi]
    dsimp only
    rw [hget, hd, hl, ht, if_neg (by decide), if_pos rfl, Prog.run_all_cons, Prog.run_all_cons, Prog.run_all_nil]
    rfl
  rw [hr, Prog.run_when, if_pos rfl, hrun]
  have h := prepDone_prepared hc 0
  generalize (prepDone slot i 0 none).run s = u at *
  refine ⟨by rw [h.chunk, Chunk.readied_eq ht], fun j hj => ?_, h.others, h.regs, fun a => congrArg (Memory.read · a) h.mem,
    fun a => congrArg (Memory.read · a) h.host⟩
  rw [h.chunks, getElem?_modNth_other _ hj]

end Sys2Proof.Machine
end

section
/-!
The preparation of a chunk whose slot names a list and whose group has no walker (R255); O33.
-/
namespace Sys2Proof.Machine

/-! ## What a list is found to be -/

/-- A dense list that is full. -/
def State.listFull (s : State) (l : Nat) : Prop := s.listMode l = 1 ∧ (16 * s.listCap l < s.listLen l ∨ 131072 < s.listLen l)

/-- A list with an attended page that has POISON. -/
def State.listPoisoned (s : State) (l : Nat) : Prop :=
  ∃ b ∈ s.attendedBlocks l (s.listLen l), s.listPage l (s.entryOf l b) ≠ 0 ∧ s.pagePoison (s.listPage l (s.entryOf l b)) = true

theorem listVerdict_malformed {s : State} {l : Nat} (h : s.listBad l 0 = true) : s.listVerdict l 0 = .malformed := by
  rw [State.listVerdict]
  exact if_pos h

theorem listVerdict_wellFormed {s : State} {l : Nat} (h : s.listBad l 0 = false) :
    (s.listFull l → s.listVerdict l 0 = .limit) ∧ (¬s.listFull l → s.listPoisoned l → ∃ g, s.listVerdict l 0 = .poison g) ∧
      (¬s.listFull l → ¬s.listPoisoned l → s.listVerdict l 0 = .ok) := by
  have hfull : (decide (s.listMode l = 1) && (decide (16 * s.listCap l < s.listLen l) || decide (131072 < s.listLen l))) = true ↔ s.listFull l := by
    simp only [Bool.and_eq_true, Bool.or_eq_true, decide_eq_true_eq, State.listFull]
  simp only [State.listVerdict, h, Bool.false_eq_true, if_false, Nat.add_zero]
  refine ⟨fun hf => ?_, fun hf hp => ?_, fun hf hp => ?_⟩
  · rw [if_pos (hfull.mpr hf)]
  · rw [if_neg fun h => hf (hfull.mp h)]
    obtain ⟨b, hb, hne, hpo⟩ := hp
    cases hfind : ((s.attendedBlocks l (s.listLen l)).map fun b => s.listPage l (s.entryOf l b)).find? fun g => g != 0 && s.pagePoison g with
    | some g => exact ⟨g, rfl⟩
    | none =>
      have := List.find?_eq_none.mp hfind _ (List.mem_map.mpr ⟨b, hb, rfl⟩)
      exact absurd (by simp [hne, hpo]) this
  · have hfind : (((s.attendedBlocks l (s.listLen l)).map fun b => s.listPage l (s.entryOf l b)).find? fun g => g != 0 && s.pagePoison g) = none := by
      refine List.find?_eq_none.mpr fun g hg => ?_
      obtain ⟨b, hb, rfl⟩ := List.mem_map.mp hg
      simp only [Bool.and_eq_true, bne_iff_ne, ne_eq]
      exact fun h => hp ⟨b, hb, h.1, h.2⟩
    rw [if_neg fun h => hf (hfull.mp h), hfind]

/-! ## A chunk that ends at its preparation point -/

/-- What the end of a slot's only chunk leaves, with what is logged beside it. -/
structure EndedThere (s u : State) (slot status : Nat) (c : Chunk) : Prop where
  chunks : (u.slot slot).chunks = []
  result : ∃ r ∈ (u.slot slot).results, r.status = status ∧ r.chunk.seq = c.seq
  host : u.host = s.host

theorem endChunk_endedThere {s : State} {slot status : Nat} {c : Chunk} (hc : (s.slot slot).chunks = [c])
    (hd : (s.planeFor c.part c.old).dests c.group slot ≠ []) : EndedThere s ((endChunk slot 0 status).run s) slot status c := by
  have hrun : (endChunk slot 0 status).run s = (endChunkAt slot 0 status s.now (0, 0, 0)).run s := rfl
  have hhost := Prog.Only.hosts (b := sparingBound 0) (endChunkAt_sparing (by decide) (by decide) (fun p => by simp [resultRegs]; omega)
    slot 0 status s.now (0, 0, 0)) id s
  obtain ⟨hlen, hheld⟩ := endFirst_run hc status s.now
  rw [hrun]
  generalize (endChunkAt slot 0 status s.now (0, 0, 0)).run s = u at *
  obtain ⟨r, hr, hst, hseq, -⟩ := hheld hd
  exact ⟨List.length_eq_zero_iff.mp (Nat.le_zero.mp hlen), ⟨r, hr, hst, hseq⟩, hhost⟩

theorem EndedThere.of_logs {s x u : State} {slot status : Nat} {c : Chunk} (h : EndedThere s x slot status c) (hl : OnlyLogs x u) :
    EndedThere s u slot status c := by
  have hslot : u.slot slot = x.slot slot := by rw [State.slot, State.slot, hl.dev]
  obtain ⟨hchunks, ⟨r, hr, hst⟩, hhost⟩ := h
  exact ⟨by rw [hslot, hchunks], ⟨r, by rw [hslot]; exact hr, hst⟩, hl.host.trans hhost⟩

/-! ## Preparation -/

/-- The steps of R255 that follow the reset, where no walk has failed for the chunk. -/
def checkList (slot l : Nat) (c : Chunk) : ListVerdict → Prog
  | .malformed => all [endChunk slot 0 stException, logC 0x7006 2 (32 + c.part) (kvWords slot l c.gatherTurn) (some slot)]
  | .limit => all [endChunk slot 0 stLimit, logLim (.turn c.part) (32 + c.part) 0x7002 0 (32 + c.part) (kvWords slot l c.gatherTurn) (some slot)]
  | .poison g => all [endChunk slot 0 stEcc, modSlot slot fun x => { x with newUtt := true }, logC 0x7005 2 (32 + c.part) (kvWords slot g c.gatherTurn) (some slot)]
  | .ok => tailPrepare [] slot 0 l none

section
variable {s : State} {slot l : Nat} {c : Chunk}

theorem checkAndPrepare_run (hc : (s.slot slot).chunks = [c]) (hw : ∀ f, (s.slot slot).walkFail = some f → f.1 ≠ c.gatherTurn) :
    (checkAndPrepare [] slot 0 l none).run s = (checkList slot l c (s.listVerdict l 0)).run s := by
  have hget : (s.slot slot).chunks.getD 0 {} = c := by rw [hc]; rfl
  have hfilter : ((s.slot slot).walkFail.filter fun f => f.1 == c.gatherTurn) = none := by
    cases h : (s.slot slot).walkFail with
    | none => rfl
    | some f => rw [Option.filter_some, if_neg (by simpa using hw f h)]
  rw [checkAndPrepare, Prog.run_look, hget]
  dsimp only
  rw [hfilter, show tailMaxOf none = 0 from rfl]
  cases s.listVerdict l 0 <;> rfl

theorem tailPrepare_untailed : (tailPrepare [] slot 0 l none).run s = (prepDone slot 0 (s.listLen l) none).run s := by
  rw [tailPrepare, Prog.run_look]
  rfl

theorem endedThere_logC (hc : (s.slot slot).chunks = [c]) (hd : (s.planeFor c.part c.old).dests c.group slot ≠ []) (status code sev unit : Nat)
    (ds : List Nat) (st : Option Nat) : EndedThere s ((all [endChunk slot 0 status, logC code sev unit ds st]).run s) slot status c := by
  rw [Prog.run_all_cons, Prog.run_all_cons, Prog.run_all_nil]
  exact (endChunk_endedThere hc hd).of_logs (logC_run_onlyLogs _ _ _ _ _ _)

theorem checkList_limit (hc : (s.slot slot).chunks = [c]) (hd : (s.planeFor c.part c.old).dests c.group slot ≠ []) :
    EndedThere s ((checkList slot l c .limit).run s) slot 3 c := by
  rw [checkList, Prog.run_all_cons, Prog.run_all_cons, Prog.run_all_nil]
  exact (endChunk_endedThere hc hd).of_logs ((logLim_onlyLogs _ _ _ _ _ _ _).onlyLogs _)

theorem checkList_poison (hc : (s.slot slot).chunks = [c]) (hd : (s.planeFor c.part c.old).dests c.group slot ≠ []) (g : Nat) :
    EndedThere s ((checkList slot l c (.poison g)).run s) slot 5 c ∧ (((checkList slot l c (.poison g)).run s).slot slot).newUtt = true := by
  rw [checkList, Prog.run_all_cons, Prog.run_all_cons, Prog.run_all_cons, Prog.run_all_nil]
  have h : EndedThere s _ slot stEcc c := endChunk_endedThere (status := stEcc) hc hd
  generalize (endChunk slot 0 stEcc).run s = x at *
  have hput := (State.slot_modSlot slot slot (fun x => { x with newUtt := true }) x).trans (if_pos rfl)
  obtain ⟨-, -, hhost⟩ := modSlot_memories slot (fun x => { x with newUtt := true }) x
  generalize (modSlot slot fun x => { x with newUtt := true }).run x = y at *
  have hy : EndedThere s y slot 5 c := ⟨by rw [hput]; exact h.chunks, by rw [hput]; exact h.result, hhost.trans h.host⟩
  have hlog := logC_run_onlyLogs 0x7005 2 (32 + c.part) (kvWords slot g c.gatherTurn) (some slot) y
  have hslot : ((logC 0x7005 2 (32 + c.part) (kvWords slot g c.gatherTurn) (some slot)).run y).slot slot = y.slot slot := by
    rw [State.slot, State.slot, hlog.dev]
  exact ⟨hy.of_logs hlog, by rw [hslot, hput]⟩

end

theorem chunkPrepare_listed {s : State} {slot : Nat} {c : Chunk} (hr : s.ready = true) (hi : s.prepIdx slot = some 0)
    (hc : (s.slot slot).chunks = [c]) (hd : s.descFor c.part false c.group slot = none) (hn : hasFlag c.flags flagNewUtt = false)
    (hn' : (s.slot slot).newUtt = false) (ht : c.tailWait = false) (hw : ∀ f, (s.slot slot).walkFail = some f → f.1 ≠ c.gatherTurn)
    (hdests : (s.planeFor c.part c.old).dests c.group slot ≠ []) (hl : s.slotPlist slot ≠ 0)
    (hread : s.mayRead c.part (s.listRange (s.slotPlist slot)) = true) (hbad : s.badLine [] [s.listRange (s.slotPlist slot)] = none) :
    Completes (.chunkPrepare { at_ := slot }) s fun u => SameHost s u ∧
      (s.listBad (s.slotPlist slot) 0 = true → (u.slot slot).chunks = [] ∧ ∃ r ∈ (u.slot slot).results, r.status = 4 ∧ r.chunk.seq = c.seq) ∧
      (s.listBad (s.slotPlist slot) 0 = false → s.listFull (s.slotPlist slot) → (u.slot slot).chunks = [] ∧
        ∃ r ∈ (u.slot slot).results, r.status = 3 ∧ r.chunk.seq = c.seq) ∧
      (s.listBad (s.slotPlist slot) 0 = false → ¬s.listFull (s.slotPlist slot) → s.listPoisoned (s.slotPlist slot) →
        (u.slot slot).chunks = [] ∧ (u.slot slot).newUtt = true ∧ ∃ r ∈ (u.slot slot).results, r.status = 5 ∧ r.chunk.seq = c.seq) ∧
      (s.listBad (s.slotPlist slot) 0 = false → ¬s.listFull (s.slotPlist slot) → ¬s.listPoisoned (s.slotPlist slot) →
        (u.slot slot).chunks = [{ c with prepared := true }] ∧ (u.slot slot).results = (s.slot slot).results ∧ u.regs = s.regs ∧ SameBytes s u) := by
  refine completes_done rfl ?_
  generalize hlist : s.slotPlist slot = l at *
  have hget : (s.slot slot).chunks.getD 0 {} = c := by rw [hc]; rfl
  have hrun : (chunkPrepare slot []).run s = (checkList slot l c (s.listVerdict l 0)).run s := by
    rw [chunkPrepare, Prog.run_look, hi]
    dsimp only
    rw [hget, hd, hlist, hn, hn', ht, if_neg (by decide), if_neg hl, Prog.run_all_cons, Prog.run_all_cons, Prog.run_all_nil, Prog.run_nop,
      Bool.false_or, show (if false = true then s.tplRange l else []) = [] from rfl, engineRead_good (by simpa using hread) hbad, prepareList, Prog.run_look]
    dsimp only
    rw [if_neg (by simp [State.tailsFar, tailBlocks]), if_pos (by decide), checkAndPrepare_run hc hw]
  rw [hr, Prog.run_when, if_pos rfl, hrun]
  rcases hb : s.listBad l 0 with _ | _
  · obtain ⟨hfull, hpoison, hok⟩ := listVerdict_wellFormed hb
    by_cases hf : s.listFull l
    · rw [hfull hf]
      have h := checkList_limit (l := l) hc hdests
      exact ⟨fun a => congrArg (Memory.read · a) h.host, nofun, fun _ _ => ⟨h.chunks, h.result⟩, fun _ hn => absurd hf hn, fun _ hn => absurd hf hn⟩
    · by_cases hp : s.listPoisoned l
      · obtain ⟨g, hg⟩ := hpoison hf hp
        rw [hg]
        obtain ⟨h, hnew⟩ := checkList_poison (l := l) hc hdests g
        exact ⟨fun a => congrArg (Memory.read · a) h.host, nofun, fun _ h' => absurd h' hf, fun _ _ _ => ⟨h.chunks, hnew, h.result⟩,
          fun _ _ hn => absurd hp hn⟩
      · rw [hok hf hp, checkList, tailPrepare_untailed]
        have h := prepDone_prepared (slot := slot) (i := 0) (c := c) (by rw [hc]; rfl) (s.listLen l)
        refine ⟨fun a => congrArg (Memory.read · a) h.host, nofun, fun _ h' => absurd h' hf, fun _ _ h' => absurd h' hp, fun _ _ _ =>
          ⟨?_, h.results, h.regs, fun a => congrArg (Memory.read · a) h.mem⟩⟩
        rw [h.chunks, hc, ← Chunk.readied_eq ht]
        rfl
  · rw [listVerdict_malformed hb, checkList]
    have h : EndedThere s _ slot 4 c := endedThere_logC hc hdests stException 0x7006 2 (32 + c.part) (kvWords slot l c.gatherTurn) (some slot)
    exact ⟨fun a => congrArg (Memory.read · a) h.host, fun _ => ⟨h.chunks, h.result⟩, nofun, nofun, nofun⟩

end Sys2Proof.Machine
end

section
/-!
Work lists (R257 to R259); O33.
-/
namespace Sys2Proof.Machine

/-! ## Memory rewritten within bounds -/

/-- An action that writes bytes of one range of memory, or registers of a list. -/
def Act.rewrites (lo n : Nat) (offs : List Nat) : Act → Prop
  | .bytes a bs => lo ≤ a ∧ a + bs.length ≤ lo + n
  | .reg o _ => o ∈ offs
  | _ => False

/-- Of two states only bytes of one range of memory and registers of a list differ. -/
structure Rewritten (x y : State) (lo n : Nat) (offs : List Nat) : Prop where
  dev : y.dev = x.dev
  host : y.host = x.host
  free : y.free = x.free
  bytes : SameBytesBut x y lo n
  words : SameRegsBut x y offs

theorem Rewritten.refl (x : State) (lo n : Nat) (offs : List Nat) : Rewritten x x lo n offs := ⟨rfl, rfl, rfl, fun _ _ => rfl, fun _ _ => rfl⟩

theorem Rewritten.trans {x y z : State} {lo n : Nat} {offs : List Nat} (h : Rewritten x y lo n offs) (k : Rewritten y z lo n offs) :
    Rewritten x z lo n offs :=
  ⟨k.dev.trans h.dev, k.host.trans h.host, k.free.trans h.free, fun b hb => (k.bytes b hb).trans (h.bytes b hb),
    fun o ho => (k.words o ho).trans (h.words o ho)⟩

theorem Prog.Only.rewritten {lo n : Nat} {offs : List Nat} {p : Prog} (h : p.Only (Act.rewrites lo n offs)) (s : State) :
    Rewritten s (p.run s) lo n offs := by
  refine h.run (R := fun s u => Rewritten s u lo n offs) (fun s => Rewritten.refl s lo n offs) (fun h k => h.trans k) (fun a s ha => ?_) s
  cases a with
  | bytes a bs =>
    have hb : lo ≤ a ∧ a + bs.length ≤ lo + n := ha
    exact ⟨rfl, rfl, rfl, fun b hb' => Memory.read_writes_other _ _ _ _ (by omega), fun _ _ => rfl⟩
  | reg o v =>
    refine ⟨rfl, rfl, rfl, fun _ _ => rfl, fun x hx => ?_⟩
    have : x ≠ o := fun e => hx (e ▸ ha)
    simp [State.word, Sparse.get_put_other _ _ _ _ _ this]
  | _ => exact ha.elim

/-- A frame widens. -/
theorem Rewritten.mono {x y : State} {lo n lo' n' : Nat} {offs offs' : List Nat} (h : Rewritten x y lo n offs) (h1 : lo' ≤ lo) (h2 : lo + n ≤ lo' + n')
    (ho : ∀ o ∈ offs, o ∈ offs') : Rewritten x y lo' n' offs' :=
  ⟨h.dev, h.host, h.free, fun b hb => h.bytes b (by omega), fun o hn => h.words o fun hm => hn (ho o hm)⟩

theorem putN_rewrites {a k v lo n : Nat} {offs : List Nat} (h1 : lo ≤ a) (h2 : a + k ≤ lo + n) : (putN a k v).Only (Act.rewrites lo n offs) :=
  ⟨h1, by rw [toBytes_length]; exact h2⟩

theorem Rewritten.read32 {x y : State} {lo n a : Nat} {offs : List Nat} (h : Rewritten x y lo n offs) (hd : Apart lo n a 4) : y.read32 a = x.read32 a :=
  h.bytes.read32 hd

/-- A field of a word in memory is set. -/
theorem put32_setBits (x : State) (a lo w v : Nat) (h : lo + w ≤ 32) :
    bitsOf (((put32 a (setBits (x.read32 a) lo w v)).run x).read32 a) lo w = v % 2 ^ w := by
  have hread : ((put32 a (setBits (x.read32 a) lo w v)).run x).read32 a = setBits (x.read32 a) lo w v % 2 ^ 32 := putN_readN a 4 _ x
  rw [hread, bitsOf_mod_word _ _ _ h, bitsOf_setBits_same]

theorem put32_rewritten (a v : Nat) (x : State) : Rewritten x ((put32 a v).run x) a 4 [] := Prog.Only.rewritten (putN_rewrites (le_refl a) (le_refl _)) x

/-! ## A work list -/

/-- The splits of a work list. -/
def writeSplits (slot : Nat) (d : List Nat) (n : Nat) : Prog :=
  each (List.range (walkSplits d)) fun σ =>
    put32 (splitAt d slot σ) (σ * n / walkSplits d + 65536 * ((σ + 1) * n / walkSplits d - σ * n / walkSplits d))

/-- The masks of empty rows of a work list, and the count of rows that attend nothing. -/
def writeRows (slot : Nat) (d : List Nat) (f : Nat → Nat) (k : Nat) : Prog :=
  all [each (List.range (walkSplits d)) fun σ => putN (splitAt d slot σ + 8) 32 (f σ), addF F.KV_EMPTY_ROWS k]

theorem writeWorkList_run (slot l : Nat) (d : List Nat) (below : Bool) (s : State) : ∃ f k,
    (writeWorkList slot l 1 d below).run s = (all [look fun s => put32 (recordAt d slot + 0x18) (setBits (s.read32 (recordAt d slot + 0x18)) 16 9 1),
      writeSplits slot d (s.stagedBlocks d slot l).length, writeRows slot d f k,
      look fun s => put32 (recordAt d slot + 0x1C) (setBits (s.read32 (recordAt d slot + 0x1C)) 0 1 0),
      look fun s => put32 (recordAt d slot) (setBits (s.read32 (recordAt d slot)) 18 1 1)]).run s := ⟨_, _, rfl⟩

theorem splitAt_within {d : List Nat} {slot σ : Nat} (h : σ < walkSplits d) : recordAt d slot + 0x40 ≤ splitAt d slot σ ∧
    splitAt d slot σ + 40 ≤ recordAt d slot + 0x40 + (8 * walkPmax d + 40 * walkSplits d) := by
  rw [splitAt]
  omega

theorem writeSplits_rewrites (slot : Nat) (d : List Nat) (n : Nat) (offs : List Nat) :
    (writeSplits slot d n).Only (Act.rewrites (recordAt d slot + 0x40) (8 * walkPmax d + 40 * walkSplits d) offs) :=
  Prog.only_each.mpr fun σ hσ => by
    obtain ⟨h1, h2⟩ := splitAt_within (slot := slot) (List.mem_range.mp hσ)
    exact putN_rewrites h1 (by omega)

theorem writeRows_rewrites (slot : Nat) (d : List Nat) (f : Nat → Nat) (k : Nat) :
    (writeRows slot d f k).Only (Act.rewrites (recordAt d slot + 0x40) (8 * walkPmax d + 40 * walkSplits d) [F.KV_EMPTY_ROWS.off]) :=
  ⟨Prog.only_each.mpr fun σ hσ => by
    obtain ⟨h1, h2⟩ := splitAt_within (slot := slot) (List.mem_range.mp hσ)
    exact putN_rewrites (by omega) (by omega), Prog.only_addF fun _ => List.mem_cons_self, trivial⟩

/-- What writing a work list of one row leaves. -/
structure ListWritten (s u : State) (slot : Nat) (d : List Nat) : Prop where
  ready : bitsOf (u.read32 (recordAt d slot)) 18 1 = 1
  rows : bitsOf (u.read32 (recordAt d slot + 0x18)) 16 9 = 1
  absent : bitsOf (u.read32 (recordAt d slot + 0x1C)) 0 1 = 0
  kept : Rewritten s u (recordAt d slot) (0x40 + 8 * walkPmax d + 40 * walkSplits d) [F.KV_EMPTY_ROWS.off]

theorem writeWorkList_written (slot l : Nat) (d : List Nat) (below : Bool) (s : State) : ListWritten s ((writeWorkList slot l 1 d below).run s) slot d := by
  obtain ⟨f, k, hrun⟩ := writeWorkList_run slot l d below s
  rw [hrun]
  iterate 5 rw [Prog.run_all_cons]
  rw [Prog.run_all_nil, Prog.run_look, Prog.run_look, Prog.run_look]
  generalize hn : (s.stagedBlocks d slot l).length = n
  generalize hr : recordAt d slot = r
  have h1 := put32_rewritten (r + 0x18) (setBits (s.read32 (r + 0x18)) 16 9 1) s
  have hrows := put32_setBits s (r + 0x18) 16 9 1 (by decide)
  generalize (put32 (r + 0x18) (setBits (s.read32 (r + 0x18)) 16 9 1)).run s = a at *
  have h2 := (writeSplits_rewrites slot d n [F.KV_EMPTY_ROWS.off]).rewritten a
  generalize (writeSplits slot d n).run a = b at *
  have h3 := (writeRows_rewrites slot d f k).rewritten b
  generalize (writeRows slot d f k).run b = c at *
  have h4 := put32_rewritten (r + 0x1C) (setBits (c.read32 (r + 0x1C)) 0 1 0) c
  have habsent := put32_setBits c (r + 0x1C) 0 1 0 (by decide)
  generalize (put32 (r + 0x1C) (setBits (c.read32 (r + 0x1C)) 0 1 0)).run c = e at *
  have h5 := put32_rewritten r (setBits (e.read32 r) 18 1 1) e
  have hready := put32_setBits e r 18 1 1 (by decide)
  generalize (put32 r (setBits (e.read32 r) 18 1 1)).run e = u at *
  rw [hr] at h2 h3
  have hwide : ∀ {x y : State} {lo m : Nat} {offs : List Nat}, Rewritten x y lo m offs → r ≤ lo → lo + m ≤ r + (0x40 + 8 * walkPmax d + 40 * walkSplits d) →
      (∀ o ∈ offs, o ∈ [F.KV_EMPTY_ROWS.off]) → Rewritten x y r (0x40 + 8 * walkPmax d + 40 * walkSplits d) [F.KV_EMPTY_ROWS.off] :=
    fun h h1 h2 ho => h.mono h1 h2 ho
  have hnil : ∀ o ∈ ([] : List Nat), o ∈ [F.KV_EMPTY_ROWS.off] := nofun
  refine ⟨by rw [hr]; exact hready, ?_, ?_, ?_⟩
  · rw [hr, h5.read32 (.inl (by omega)), h4.read32 (.inr (by omega)), h3.read32 (.inr (by omega)), h2.read32 (.inr (by omega))]
    exact hrows
  · rw [hr, h5.read32 (.inl (by omega))]
    exact habsent
  · rw [hr]
    exact ((((hwide h1 (by omega) (by omega) hnil).trans (hwide h2 (by omega) (by omega) fun _ h => h)).trans
      (hwide h3 (by omega) (by omega) fun _ h => h)).trans (hwide h4 (by omega) (by omega) hnil)).trans (hwide h5 (le_refl r) (by omega) hnil)

theorem workListBuild_completes {s : State} {slot i : Nat} {d : List Nat} (hr : s.ready = true) (hi : s.buildIdx slot = some i)
    (hd : s.heldDesc slot = some d) (hlen : walkerWord d 5 = 0) (hq : walkQmax d ≠ 0)
    (hread : ∀ r ∈ maskEntry d slot ++ s.maskPages d slot 1, s.mayRead ((s.slot slot).chunks.getD i {}).part r = true)
    (hb1 : s.badLine [] (maskEntry d slot) = none) (hb2 : s.badLine [] (s.maskPages d slot 1) = none) :
    Completes (.workListBuild { at_ := slot }) s fun u => ListWritten (Act.draw.apply s) u slot d := by
  refine completes_done rfl ?_
  have hentry : lenEntry d slot = [] := by rw [lenEntry, if_pos hlen]
  have hmin : min 1 (walkQmax d) = 1 := by omega
  have hrun : (workListBuild slot []).run s = (drawFree 1 fun b => writeWorkList slot (s.slotPlist slot) 1 d (b == 1)).run s := by
    rw [workListBuild, Prog.run_look, hi, hd]
    dsimp only
    rw [hentry]
    dsimp only
    rw [hmin, List.nil_append, engineRead_good (fun r h => hread r (List.mem_append_left _ h)) hb1,
      engineRead_good (fun r h => hread r (List.mem_append_right _ h)) hb2, Prog.run_all_cons, Prog.run_all_cons, Prog.run_all_nil, Prog.run_when,
      if_neg (by simpa using hq)]
  rw [hr, Prog.run_when, if_pos rfl, hrun]
  exact writeWorkList_written slot _ d _ (Act.draw.apply s)

end Sys2Proof.Machine
end

section
/-!
The close of a merge bank (R264 to R266); O33.
-/
namespace Sys2Proof.Machine

/-! ## The bank that closes -/

theorem State.reached_of_since {s : State} {t : Nat} (h : s.since t < 2 ^ 63) : s.reached t = true := decide_eq_true h

/-- A bank whose close is a tick ago is not open. -/
theorem bankOpen_closed {s u : State} {p i t : Nat} {e : TtEntry} (d : List Nat) (h : s.closeNow p i false = some (e, t))
    (hparts : u.dev.parts = s.dev.parts) (hhs : u.dev.hs = s.dev.hs) : u.bankOpen ⟨p, e.ref, d, t % 2, (u.part p).banks⟩ = false := by
  rw [State.closeNow, if_neg (by decide), Option.map_eq_some_iff] at h
  obtain ⟨x, hx, hxe⟩ := h
  have hfound := List.find?_some hx
  simp only [Bool.and_eq_true, beq_iff_eq] at hfound
  have hsince : u.since x.close = 1 := by
    rw [State.since, hhs]
    exact hfound.2
  have hmem : x ∈ (u.part p).banks.filter fun y => y.entry.ref == e.ref && y.turn % 2 == t % 2 := by
    refine List.mem_filter.mpr ⟨?_, ?_⟩
    · rw [State.part, hparts]
      exact List.mem_of_find?_eq_some hx
    · simp only [Prod.mk.injEq] at hxe
      simp [hxe.1, hxe.2]
  rw [State.bankOpen]
  refine Bool.and_eq_false_iff.mpr (.inr ?_)
  rw [List.all_eq_false]
  exact ⟨x, hmem, by simp [State.reached_of_since (show u.since x.close < 2 ^ 63 by rw [hsince]; decide), hsince]⟩

/-! ## A record -/

/-- A record names the source, the record and the slot that are expected of it. -/
def State.recordNamed (s : State) (a slot : Nat) : Prop :=
  (bitsOf (s.read32 a) 0 2 = 1 ∨ bitsOf (s.read32 a) 0 2 = 2) ∧ bitsOf (s.read32 a) 4 4 = 0 ∧ bitsOf (s.read32 (a + 0x10)) 0 12 = 0 ∧
    bitsOf (s.read32 (a + 4)) 0 12 = slot

/-- A record is of the turn and of the chunk. -/
def State.recordFresh (s : State) (a t : Nat) (c : Chunk) : Prop := s.read32 (a + 8) = t % 2 ^ 32 ∧ s.read32 (a + 0xC) = c.seq

theorem mergeRecord_same {s : State} {a slot : Nat} :
    ((bitsOf (s.read32 a) 0 2 == 1 || bitsOf (s.read32 a) 0 2 == 2) && bitsOf (s.read32 a) 4 4 == 0 && bitsOf (s.read32 (a + 0x10)) 0 12 == 0 &&
      bitsOf (s.read32 (a + 4)) 0 12 == slot) = true ↔ s.recordNamed a slot := by
  simp only [Bool.and_eq_true, Bool.or_eq_true, beq_iff_eq, State.recordNamed, and_assoc]

theorem mergeRecord_now {s : State} {a t : Nat} {c : Chunk} :
    (s.read32 (a + 8) == t % 2 ^ 32 && s.read32 (a + 0xC) == c.seq) = true ↔ s.recordFresh a t c := by
  simp only [Bool.and_eq_true, beq_iff_eq, State.recordFresh]

/-- A record that is there stays as it is. -/
theorem mergeRecord_present {s : State} {p t slot a off : Nat} {c : Chunk} (h : s.recordNamed a slot ∧ s.recordFresh a t c) :
    (mergeRecord p t slot c.seq a 0 0 off).run s = s := by
  rw [mergeRecord, Prog.run_look]
  dsimp only
  rw [if_pos (Bool.and_eq_true_iff.mpr ⟨mergeRecord_same.mpr h.1, mergeRecord_now.mpr h.2⟩)]
  rfl

/-- The chunks of which record `seq` of turn `t` is missing. -/
def SlotDyn.partialOf (p seq t : Nat) (x : SlotDyn) : SlotDyn :=
  { x with chunks := x.chunks.map fun c => if c.part == p && c.seq == seq && c.pos.isSome && c.gatherTurn == t then { c with partialOut := true } else c }

theorem modSlot_aside (n : Nat) (f : SlotDyn → SlotDyn) (x : State) :
    ((modSlot n f).run x).dev.parts = x.dev.parts ∧ ((modSlot n f).run x).dev.hs = x.dev.hs := ⟨rfl, rfl⟩

/-- What is counted and logged of a record that is not there. -/
def missRecord (p t slot off : Nat) (same : Bool) : Prog :=
  all [incF F.KV_MERGE_ABSENT,
    when same (all [incF F.KV_MERGE_STALE, logLim (.turn p) (32 + p) 0x700B 0 (32 + p) (kvWords slot off t) (some slot)]),
    logLim (.turn p) (32 + p) 0x7009 0 (32 + p) (kvWords slot off t) (some slot)]

theorem mergeRecord_missing {s : State} {p t slot a off : Nat} {c : Chunk} (h : ¬(s.recordNamed a slot ∧ s.recordFresh a t c)) :
    ∃ same : Bool, (same = true ↔ s.recordNamed a slot) ∧ (mergeRecord p t slot c.seq a 0 0 off).run s =
      (modSlot slot (SlotDyn.partialOf p c.seq t)).run ((missRecord p t slot off same).run ((put32 a (setBits (s.read32 a) 0 2 3)).run s)) := by
  refine ⟨_, mergeRecord_same, ?_⟩
  rw [mergeRecord, Prog.run_look]
  dsimp only
  rw [if_neg fun hb => h ⟨mergeRecord_same.mp (Bool.and_eq_true_iff.mp hb).1, mergeRecord_now.mp (Bool.and_eq_true_iff.mp hb).2⟩]
  rfl

/-- What counting a missing record leaves. -/
structure RecordMissed (s u : State) (same : Bool) : Prop where
  absent : u.fld F.KV_MERGE_ABSENT = min (s.fld F.KV_MERGE_ABSENT + 1) (2 ^ F.KV_MERGE_ABSENT.w - 1)
  stale : u.fld F.KV_MERGE_STALE = if same then min (s.fld F.KV_MERGE_STALE + 1) (2 ^ F.KV_MERGE_STALE.w - 1) else s.fld F.KV_MERGE_STALE
  dev : u.dev = { s.dev with log := u.dev.log, out := u.dev.out, marks := u.dev.marks }
  mem : u.mem = s.mem
  host : u.host = s.host

theorem missRecord_run (p t slot off : Nat) (same : Bool) (s : State) : RecordMissed s ((missRecord p t slot off same).run s) same := by
  rw [missRecord]
  iterate 3 rw [Prog.run_all_cons]
  rw [Prog.run_all_nil]
  have habsent := Prog.fld_incF F.KV_MERGE_ABSENT s (by decide)
  have hother := Prog.fld_incF_other F.KV_MERGE_ABSENT F.KV_MERGE_STALE s (by decide) (.inl (by decide))
  obtain ⟨hdev, hmem, hhost⟩ := incF_memories F.KV_MERGE_ABSENT s
  generalize (incF F.KV_MERGE_ABSENT).run s = x at *
  have hsame : ∃ y, OnlyLogs y ((when same (all [incF F.KV_MERGE_STALE,
      logLim (.turn p) (32 + p) 0x700B 0 (32 + p) (kvWords slot off t) (some slot)])).run x) ∧ y.dev = x.dev ∧ y.mem = x.mem ∧ y.host = x.host ∧
      y.fld F.KV_MERGE_ABSENT = x.fld F.KV_MERGE_ABSENT ∧
      y.fld F.KV_MERGE_STALE = if same then min (x.fld F.KV_MERGE_STALE + 1) (2 ^ F.KV_MERGE_STALE.w - 1) else x.fld F.KV_MERGE_STALE := by
    cases same with
    | false => exact ⟨x, OnlyLogs.refl x, rfl, rfl, rfl, rfl, rfl⟩
    | true =>
      obtain ⟨h1, h2, h3⟩ := incF_memories F.KV_MERGE_STALE x
      refine ⟨(incF F.KV_MERGE_STALE).run x, ?_, h1, h2, h3, Prog.fld_incF_other _ _ x (by decide) (.inl (by decide)), Prog.fld_incF _ x (by decide)⟩
      rw [Prog.run_when, if_pos rfl, Prog.run_all_cons, Prog.run_all_cons, Prog.run_all_nil]
      exact (logLim_onlyLogs _ _ _ _ _ _ _).onlyLogs _
  obtain ⟨y, hlog, h1, h2, h3, h4, h5⟩ := hsame
  generalize (when same _).run x = z at *
  have hlast := (logLim_onlyLogs (.turn p) (32 + p) 0x7009 0 (32 + p) (kvWords slot off t) (some slot)).onlyLogs z
  generalize (logLim _ _ _ _ _ _ _).run z = u at *
  have hall := hlog.trans hlast
  have hdevs : u.dev = { s.dev with log := u.dev.log, out := u.dev.out, marks := u.dev.marks } := by rw [← hdev, ← h1]; exact hall.dev
  refine ⟨?_, ?_, hdevs, (hall.mem.trans h2).trans hmem, (hall.host.trans h3).trans hhost⟩
  · rw [← habsent, ← h4]
    exact State.fld_of_word (hall.regs _ (by decide))
  · rw [← hother, ← h5]
    exact State.fld_of_word (hall.regs _ (by decide))

/-! ## The close -/

/-- The address of the one record that a chunk's slot expects. -/
def expectedAt (d : List Nat) (t slot : Nat) : Nat := (mergeBank d (t % 2)).1 + (slot - mergeSlot0 d) * mergeRecSize d

theorem mergeClose_run {s : State} {p t slot k : Nat} {e : TtEntry} {d : List Nat} {c : Chunk} (hd : (s.plane p).merges[e.ref]? = some d)
    (hof : s.chunksOf p = [(slot, k, c)]) (hp : c.part = p) (hold : s.gatheredOld p c = false) (hg : c.group = e.group) (hpos : c.pos.isSome = true)
    (ht : c.gatherTurn = t) (h0 : mergeSlot0 d ≤ slot) (h1 : slot < mergeSlot0 d + mergeSlots d) (hsrcs : mergeSrcs d = 1) (hrecs : mergeRecs d = 1) :
    (mergeClose p t false e).run s = (mergeRecord p t slot c.seq (expectedAt d t slot) 0 0 (expectedAt d t slot - storeAt)).run s := by
  have hplane : (s.planeFor p false).merges[e.ref]? = some d := hd
  have hone : List.range 1 = [0] := rfl
  rw [mergeClose, Prog.run_look, hplane]
  dsimp only
  rw [hof, Prog.run_each_cons, Prog.run_each_nil, Prog.run_when, if_pos (by simp [hp, hold, hg, hpos, ht, h0, h1]), hsrcs, hrecs, hone, Prog.run_each_cons,
    Prog.run_each_nil, Prog.run_each_cons, Prog.run_each_nil, Nat.mul_one, Nat.add_zero, Nat.mul_one, expectedAt]

/-- What the close of a bank leaves that expects one record. -/
structure BankClosed (s u : State) (slot a : Nat) (c : Chunk) (named fresh : Prop) : Prop where
  dev : u.dev.parts = s.dev.parts ∧ u.dev.hs = s.dev.hs
  host : SameHost s u
  bytes : SameBytesBut s u a 4
  present : named ∧ fresh → SameBytes s u ∧ u.regs = s.regs ∧ (u.slot slot).chunks = [c]
  missing : ¬(named ∧ fresh) → u.read32 a = setBits (s.read32 a) 0 2 3 ∧ (u.slot slot).chunks = [{ c with partialOut := true }] ∧
    u.fld F.KV_MERGE_ABSENT = min (s.fld F.KV_MERGE_ABSENT + 1) (2 ^ F.KV_MERGE_ABSENT.w - 1) ∧
    (named → u.fld F.KV_MERGE_STALE = min (s.fld F.KV_MERGE_STALE + 1) (2 ^ F.KV_MERGE_STALE.w - 1)) ∧
    (¬named → u.fld F.KV_MERGE_STALE = s.fld F.KV_MERGE_STALE)

theorem mergeRecord_closed {s : State} {p t slot a off : Nat} {c : Chunk} (hc : (s.slot slot).chunks = [c]) (hp : c.part = p)
    (hpos : c.pos.isSome = true) (ht : c.gatherTurn = t) :
    BankClosed s ((mergeRecord p t slot c.seq a 0 0 off).run s) slot a c (s.recordNamed a slot) (s.recordFresh a t c) := by
  by_cases h : s.recordNamed a slot ∧ s.recordFresh a t c
  · rw [mergeRecord_present h]
    exact ⟨⟨rfl, rfl⟩, fun _ => rfl, fun _ _ => rfl, fun _ => ⟨fun _ => rfl, rfl, hc⟩, fun hn => absurd h hn⟩
  · obtain ⟨same, hsame, hrun⟩ := mergeRecord_missing (p := p) (off := off) h
    rw [hrun]
    have hput := putN_put a 4 (setBits (s.read32 a) 0 2 3) s
    have hread : ((putN a 4 (setBits (s.read32 a) 0 2 3)).run s).read32 a = setBits (s.read32 a) 0 2 3 % 2 ^ 32 := putN_readN a 4 _ s
    rw [put32]
    generalize (putN a 4 (setBits (s.read32 a) 0 2 3)).run s = x at *
    obtain ⟨habsent, hstale, hdev, hmem, hhost⟩ := missRecord_run p t slot off same x
    generalize (missRecord p t slot off same).run x = y at *
    have hslot : y.slot slot = s.slot slot := by rw [State.slot, State.slot, hdev, hput.dev]
    have hmine := (State.slot_modSlot slot slot (SlotDyn.partialOf p c.seq t) y).trans (if_pos rfl)
    have hparts : ((modSlot slot (SlotDyn.partialOf p c.seq t)).run y).dev.parts = y.dev.parts ∧
        ((modSlot slot (SlotDyn.partialOf p c.seq t)).run y).dev.hs = y.dev.hs := modSlot_aside slot _ y
    obtain ⟨humem, huregs, huhost⟩ := modSlot_memories slot (SlotDyn.partialOf p c.seq t) y
    generalize (modSlot slot (SlotDyn.partialOf p c.seq t)).run y = u at *
    have hfld : ∀ f, u.fld f = y.fld f := fun f => State.fld_of_word (State.word_of_regs huregs _)
    refine ⟨⟨?_, ?_⟩, fun b => ?_, fun b hb => ?_, fun hn => absurd hn h, fun _ => ⟨?_, ?_, ?_, fun hn => ?_, fun hn => ?_⟩⟩
    · rw [hparts.1, hdev, hput.dev]
    · rw [hparts.2, hdev, hput.dev]
    · rw [huhost, hhost, hput.host]
    · rw [humem, hmem]
      exact hput.bytes b hb
    · show ofBytes (u.mem.reads a 4) = _
      rw [humem, hmem]
      exact hread.trans (Nat.mod_eq_of_lt (setBits_lt_word (s.readN_lt _ 4) (by decide)))
    · rw [hmine, hslot]
      simp [SlotDyn.partialOf, hc, hp, hpos, ht]
    · rw [hfld, habsent, hput.fld]
    · rw [hfld, hstale, if_pos (hsame.mpr hn), hput.fld]
    · rw [hfld, hstale, if_neg fun hs => hn (hsame.mp hs), hput.fld]

theorem merge_completes {s : State} {p i t slot k : Nat} {e : TtEntry} {d : List Nat} {c : Chunk} (hr : s.ready = true)
    (hnow : s.closeNow p i false = some (e, t)) (hd : (s.plane p).merges[e.ref]? = some d) (hof : s.chunksOf p = [(slot, k, c)])
    (hc : (s.slot slot).chunks = [c]) (hp : c.part = p) (hold : s.gatheredOld p c = false) (hg : c.group = e.group) (hpos : c.pos.isSome = true)
    (ht : c.gatherTurn = t) (h0 : mergeSlot0 d ≤ slot) (h1 : slot < mergeSlot0 d + mergeSlots d) (hsrcs : mergeSrcs d = 1) (hrecs : mergeRecs d = 1) :
    Completes (.merge p i false) s fun u => u.bankOpen ⟨p, e.ref, d, t % 2, (u.part p).banks⟩ = false ∧
      BankClosed s u slot (expectedAt d t slot) c (s.recordNamed (expectedAt d t slot) slot) (s.recordFresh (expectedAt d t slot) t c) := by
  refine completes_done rfl ?_
  rw [hr, hnow, Prog.run_when, if_pos rfl]
  dsimp only
  rw [mergeClose_run hd hof hp hold hg hpos ht h0 h1 hsrcs hrecs]
  have h := mergeRecord_closed (a := expectedAt d t slot) (off := expectedAt d t slot - storeAt) hc hp hpos ht
  exact ⟨bankOpen_closed d hnow h.dev.1 h.dev.2, h⟩

end Sys2Proof.Machine
end

section
/-!
Walks (R251 to R253): a walk stages the attended pages of a list, or is skipped; O33.
-/
namespace Sys2Proof.Machine

/-! ## What every step of a walk keeps -/

/-- Registers but the count of walks, the host's memory, and the other slots stay; the slot's chunks too. -/
structure WalkKept (x y : State) (slot : Nat) : Prop where
  words : SameRegsBut x y [F.KV_WALKS.off]
  host : y.host = x.host
  others : ∀ n, n ≠ slot → y.slot n = x.slot n
  chunks : (y.slot slot).chunks = (x.slot slot).chunks

theorem WalkKept.trans {x y z : State} {slot : Nat} (h : WalkKept x y slot) (k : WalkKept y z slot) : WalkKept x z slot :=
  ⟨fun o ho => (k.words o ho).trans (h.words o ho), k.host.trans h.host, fun n hn => (k.others n hn).trans (h.others n hn), k.chunks.trans h.chunks⟩

theorem MemPut.slot {x y : State} {a n : Nat} (h : MemPut x y a n) (m : Nat) : y.slot m = x.slot m := by rw [State.slot, State.slot, h.dev]

theorem MemPut.walkKept {x y : State} {a n : Nat} (h : MemPut x y a n) (slot : Nat) : WalkKept x y slot :=
  ⟨fun o _ => h.word o, h.host, fun m _ => h.slot m, by rw [h.slot]⟩

/-- A step that changes the slot, but not its chunks. -/
structure SlotSet (x y : State) (slot : Nat) (f : SlotDyn → SlotDyn) : Prop where
  mem : y.mem = x.mem
  regs : y.regs = x.regs
  host : y.host = x.host
  mine : y.slot slot = f (x.slot slot)
  others : ∀ n, n ≠ slot → y.slot n = x.slot n

theorem modSlot_set (slot : Nat) (f : SlotDyn → SlotDyn) (x : State) : SlotSet x ((modSlot slot f).run x) slot f := by
  obtain ⟨hmem, hregs, hhost⟩ := modSlot_memories slot f x
  exact ⟨hmem, hregs, hhost, (State.slot_modSlot slot slot f x).trans (if_pos rfl), fun n hn => (State.slot_modSlot slot n f x).trans (if_neg hn)⟩

theorem SlotSet.walkKept {x y : State} {slot : Nat} {f : SlotDyn → SlotDyn} (h : SlotSet x y slot f) (hf : ∀ z, (f z).chunks = z.chunks) :
    WalkKept x y slot :=
  ⟨fun o _ => State.word_of_regs h.regs o, h.host, h.others, by rw [h.mine, hf]⟩

theorem SlotSet.read32 {x y : State} {slot : Nat} {f : SlotDyn → SlotDyn} (h : SlotSet x y slot f) (a : Nat) : y.read32 a = x.read32 a := by
  rw [State.read32, State.read32, State.readN, State.readN, h.mem]

theorem SlotSet.readN {x y : State} {slot : Nat} {f : SlotDyn → SlotDyn} (h : SlotSet x y slot f) (a n : Nat) : y.readN a n = x.readN a n := by
  rw [State.readN, State.readN, h.mem]

theorem SlotSet.fld {x y : State} {slot : Nat} {f : SlotDyn → SlotDyn} (h : SlotSet x y slot f) (g : Fld) : y.fld g = x.fld g :=
  State.fld_of_word (State.word_of_regs h.regs _)

theorem SlotSet.pagePin {x y : State} {slot : Nat} {f : SlotDyn → SlotDyn} (h : SlotSet x y slot f) (page : Nat) : y.pagePin page = x.pagePin page :=
  congrArg (bitsOf · 16 8) (State.pageEntry_congr h.mem (h.fld _) page)

/-- Pinning a page. -/
theorem pinPage_run {page : Nat} {x : State} (h : x.pagePin page < 255) :
    MemPut x ((pinPage page).run x) (x.ledgerAt page) 4 ∧ ((pinPage page).run x).pagePin page = x.pagePin page + 1 := by
  obtain ⟨hput, hbits⟩ := setPage_line page 16 8 (x.pagePin page + 1) x
  have hrun : (pinPage page).run x = (setPage page 16 8 (x.pagePin page + 1)).run x := by rw [pinPage, Prog.run_look]
  rw [hrun]
  refine ⟨hput, ?_⟩
  rw [State.pagePin, hbits 16 8 (by decide), bitsOf_setBits_same, Nat.mod_eq_of_lt (by omega)]

/-! ## Pages of a pool -/

theorem fld_kept {x y : State} (h : SameRegsBut x y [F.KV_WALKS.off]) {f : Fld} (hf : f.off ≠ F.KV_WALKS.off) : y.fld f = x.fld f :=
  State.fld_of_word (h _ (by simpa using hf))

theorem poolOf_kept {x y : State} (h : SameRegsBut x y [F.KV_WALKS.off]) (page : Nat) : y.poolOf page = x.poolOf page := by
  refine List.find?_congr fun k _ => ?_
  rw [State.bit, State.bit, fld_kept h (f := F.KV_POOL_A_VALID k) (by simp; omega), fld_kept h (f := F.KV_POOL_B_FIRST k) (by simp; omega),
    fld_kept h (f := F.KV_POOL_C_COUNT k) (by simp; omega)]

theorem pageAddr_kept {x y : State} (h : SameRegsBut x y [F.KV_WALKS.off]) (k page : Nat) : y.pageAddr k page = x.pageAddr k page := by
  have hbits : y.poolBits k = x.poolBits k := by
    rw [State.poolBits, State.poolBits, State.bit, State.bit, fld_kept h (f := F.KV_POOL_D_BITS4 k) (by simp; omega)]
  have hlayer : y.layerSize k = x.layerSize k := by
    simp only [State.layerSize, State.poolHeads, State.poolDim, hbits, fld_kept h (f := F.KV_POOL_D_KVHM1 k) (by simp; omega),
      fld_kept h (f := F.KV_POOL_D_DIM k) (by simp; omega)]
  simp only [State.pageAddr, State.pageSize, State.poolLayers, hlayer, fld_kept h (f := F.KV_POOL_A_BASE64K k) (by simp; omega),
    fld_kept h (f := F.KV_POOL_B_FIRST k) (by simp; omega), fld_kept h (f := F.KV_POOL_D_LAYERSM1 k) (by simp; omega)]

theorem ledgerAt_kept {x y : State} (h : SameRegsBut x y [F.KV_WALKS.off]) (page : Nat) : y.ledgerAt page = x.ledgerAt page := by
  rw [State.ledgerAt, State.ledgerAt, fld_kept h (by decide)]

/-! ## A walk starts -/

/-- The slot of a walk that has started. -/
def SlotDyn.walked (d : List Nat) (w t : Nat) (x : SlotDyn) : SlotDyn := { x with walkDesc := some d, walker := some w, walkTurn := t, pins := [] }

/-- The header of a record, and the slot's own note of its walk. -/
def startRecord (slot t w : Nat) (d : List Nat) (len v : Nat) : Prog :=
  all [incF F.KV_WALKS, modSlot slot (SlotDyn.walked d w t), put32 (recordAt d slot) (slot + 2 ^ 16), putN (recordAt d slot + 8) 8 len,
    put32 (recordAt d slot + 0x18) v]

structure RecordStarted (x y : State) (slot t w : Nat) (d : List Nat) (len : Nat) : Prop where
  kept : WalkKept x y slot
  mine : y.slot slot = (x.slot slot).walked d w t
  walks : y.fld F.KV_WALKS = min (x.fld F.KV_WALKS + 1) (2 ^ F.KV_WALKS.w - 1)
  head : y.read32 (recordAt d slot) = (slot + 2 ^ 16) % 2 ^ 32
  len : y.readN (recordAt d slot + 8) 8 = len % 2 ^ 64
  bytes : SameBytesBut x y (recordAt d slot) 0x20

theorem SameBytesBut.mono {x y : State} {a n b m : Nat} (h : SameBytesBut x y a n) (h1 : b ≤ a) (h2 : a + n ≤ b + m) : SameBytesBut x y b m :=
  fun c hc => h c (by omega)

theorem SameBytesBut.trans {x y z : State} {a n : Nat} (h : SameBytesBut x y a n) (k : SameBytesBut y z a n) : SameBytesBut x z a n :=
  fun b hb => (k b hb).trans (h b hb)

theorem startRecord_run (slot t w : Nat) (d : List Nat) (len v : Nat) (x : State) :
    RecordStarted x ((startRecord slot t w d len v).run x) slot t w d len := by
  rw [startRecord]
  iterate 5 rw [Prog.run_all_cons]
  rw [Prog.run_all_nil]
  generalize hr : recordAt d slot = r
  have hwalks := Prog.fld_incF F.KV_WALKS x (by decide)
  obtain ⟨hdev, hmem, hhost⟩ := incF_memories F.KV_WALKS x
  have hregs : SameRegsBut x ((incF F.KV_WALKS).run x) [F.KV_WALKS.off] := (Prog.Only.sameRegs_of_quiet (offs := [F.KV_WALKS.off]) (by simp) x).1
  generalize (incF F.KV_WALKS).run x = a at *
  have hset := modSlot_set slot (SlotDyn.walked d w t) a
  generalize (modSlot slot (SlotDyn.walked d w t)).run a = b at *
  have h1 := putN_put r 4 (slot + 2 ^ 16) b
  have hhead : ((putN r 4 (slot + 2 ^ 16)).run b).read32 r = (slot + 2 ^ 16) % 2 ^ 32 := putN_readN r 4 _ b
  rw [put32, put32]
  generalize (putN r 4 (slot + 2 ^ 16)).run b = c at *
  have h2 := putN_put (r + 8) 8 len c
  have hlen := putN_readN (r + 8) 8 len c
  generalize (putN (r + 8) 8 len).run c = e at *
  have h3 := putN_put (r + 0x18) 4 v e
  generalize (putN (r + 0x18) 4 v).run e = y at *
  have hslot : ∀ n, a.slot n = x.slot n := fun n => by rw [State.slot, State.slot, hdev]
  have hfirst : WalkKept x a slot := ⟨hregs, hhost, fun n _ => hslot n, by rw [hslot]⟩
  have hx : SameBytesBut x b r 0x20 := fun m _ => by rw [hset.mem, hmem]
  refine ⟨(((hfirst.trans (hset.walkKept fun _ => rfl)).trans (h1.walkKept slot)).trans (h2.walkKept slot)).trans (h3.walkKept slot), ?_, ?_, ?_, ?_, ?_⟩
  · rw [h3.slot, h2.slot, h1.slot, hset.mine, hslot]
  · rw [h3.fld, h2.fld, h1.fld, hset.fld, hwalks]
  · rw [hr, h3.bytes.read32 (.inr (by omega)), h2.bytes.read32 (.inr (by omega)), hhead]
  · rw [hr, h3.bytes.readN (.inr (by omega)), hlen]
  · rw [hr]
    exact ((hx.trans (h1.bytes.mono (le_refl r) (by omega))).trans (h2.bytes.mono (by omega) (by omega))).trans (h3.bytes.mono (by omega) (by omega))

/-! ## A page is staged -/

theorem stagePages_one {z : State} {p t slot l page pool : Nat} {d : List Nat} (hmode : z.listMode l = 1) (hcap : 0 < z.listCap l)
    (hpage : z.listPage l 0 = page) (hne : page ≠ 0) (hpool : z.poolOf page = some pool) (hpin : z.pagePin page < 255) (hmax : walkPmax d ≠ 0)
    (hcopy : walkCopy d = false) :
    (stagePages [] p t slot l d [0] 0).run z = (all [pinPage page, modSlot slot fun x => { x with pins := x.pins ++ [page] },
      putN (recordAt d slot + 0x40) 8 (z.pageAddr pool page),
      look fun s => put32 (recordAt d slot + 0x18) (setBits (s.read32 (recordAt d slot + 0x18)) 0 14 1),
      modSlot slot fun x => { x with walkLeft := [] }]).run z := by
  have hentry : z.entryOf l 0 = 0 := by rw [State.entryOf, if_neg (by simp [hmode])]
  rw [stagePages, Prog.run_look, hentry, hpage]
  dsimp only
  rw [if_neg (by simp [hne]; omega), hpool]
  dsimp only
  rw [if_neg (by omega), if_neg (by omega), if_pos (by simp [hcopy]), Nat.mul_zero, Nat.add_zero, Nat.zero_add, Nat.zero_mod, Nat.mul_zero, Nat.add_zero,
    Nat.add_zero (z.pageAddr pool page), stagePages]

structure PageStaged (x y : State) (slot page : Nat) (d : List Nat) (a : Nat) : Prop where
  kept : WalkKept x y slot
  mine : y.slot slot = { x.slot slot with pins := (x.slot slot).pins ++ [page], walkLeft := [] }
  walks : y.fld F.KV_WALKS = x.fld F.KV_WALKS
  count : bitsOf (y.read32 (recordAt d slot + 0x18)) 0 14 = 1
  entry : y.readN (recordAt d slot + 0x40) 8 = a % 2 ^ 64
  pin : y.pagePin page = x.pagePin page + 1
  bytes : ∀ b m, Apart b m (x.ledgerAt page) 4 → Apart b m (recordAt d slot + 0x18) 0x30 → y.readN b m = x.readN b m
  mem : ∀ b, Apart b 1 (x.ledgerAt page) 4 → Apart b 1 (recordAt d slot + 0x18) 0x30 → y.mem.read b = x.mem.read b

theorem stagePage_run {x : State} {slot page : Nat} {d : List Nat} (a : Nat) (hpin : x.pagePin page < 255)
    (hap : Apart (recordAt d slot) 0x48 (x.ledgerAt page) 4) :
    PageStaged x ((all [pinPage page, modSlot slot fun x => { x with pins := x.pins ++ [page] }, putN (recordAt d slot + 0x40) 8 a,
      look fun s => put32 (recordAt d slot + 0x18) (setBits (s.read32 (recordAt d slot + 0x18)) 0 14 1),
      modSlot slot fun x => { x with walkLeft := [] }]).run x) slot page d a := by
  iterate 5 rw [Prog.run_all_cons]
  rw [Prog.run_all_nil, Prog.run_look]
  generalize hr : recordAt d slot = r at *
  obtain ⟨h1, hpinned⟩ := pinPage_run hpin
  generalize (pinPage page).run x = b at *
  have h2 := modSlot_set slot (fun x => { x with pins := x.pins ++ [page] }) b
  generalize (modSlot slot fun x => { x with pins := x.pins ++ [page] }).run b = c at *
  have h3 := putN_put (r + 0x40) 8 a c
  have hentry := putN_readN (r + 0x40) 8 a c
  generalize (putN (r + 0x40) 8 a).run c = e at *
  have h4 := putN_put (r + 0x18) 4 (setBits (e.read32 (r + 0x18)) 0 14 1) e
  have hcount := put32_setBits e (r + 0x18) 0 14 1 (by decide)
  rw [put32] at hcount ⊢
  generalize (putN (r + 0x18) 4 (setBits (e.read32 (r + 0x18)) 0 14 1)).run e = g at *
  have h5 := modSlot_set slot (fun x => { x with walkLeft := [] }) g
  generalize (modSlot slot fun x => { x with walkLeft := [] }).run g = y at *
  have hbl : b.ledgerAt page = x.ledgerAt page := h1.ledgerAt page
  have hcl : c.ledgerAt page = x.ledgerAt page := by rw [State.ledgerAt, h2.fld, ← State.ledgerAt, hbl]
  have hpe : e.pagePin page = c.pagePin page := congrArg (bitsOf · 16 8) (h3.pageEntry (by rw [hcl]; omega))
  have hpg : g.pagePin page = e.pagePin page := congrArg (bitsOf · 16 8) (h4.pageEntry (by rw [h3.ledgerAt, hcl]; omega))
  have hmem : ∀ m, Apart m 1 (x.ledgerAt page) 4 → Apart m 1 (r + 0x18) 0x30 → y.mem.read m = x.mem.read m := fun m hl hm => by
    rw [h5.mem, h4.bytes m (by omega), h3.bytes m (by omega), h2.mem, h1.bytes m (by omega)]
  refine ⟨?_, ?_, ?_, ?_, ?_, ?_, fun m k hl hm => ?_, by rw [hr]; exact hmem⟩
  · exact ((((h1.walkKept slot).trans (h2.walkKept fun _ => rfl)).trans (h3.walkKept slot)).trans (h4.walkKept slot)).trans (h5.walkKept fun _ => rfl)
  · rw [h5.mine, h4.slot, h3.slot, h2.mine, h1.slot]
  · rw [h5.fld, h4.fld, h3.fld, h2.fld, h1.fld]
  · rw [hr, h5.read32, hcount]
    rfl
  · rw [hr, h5.readN, h4.bytes.readN (.inl (by omega)), hentry]
  · rw [h5.pagePin, hpg, hpe, h2.pagePin, hpinned]
  · rw [hr] at hm
    exact congrArg ofBytes (Memory.reads_congr fun q h1 h2 => hmem q (by omega) (by omega))

/-! ## The walk of one member -/

theorem attendedBlocks_short {s : State} {l : Nat} (hm : s.listMode l = 1) {len : Nat} (h0 : 0 < len) (h16 : len ≤ 16) : s.attendedBlocks l len = [0] := by
  have hq : (len - 1) / 16 = 0 := by omega
  simp [State.attendedBlocks, hm, hq, show len ≠ 0 by omega]

/-- A dense list of one block, whose page can be pinned. -/
structure OneBlock (s : State) (l page pool : Nat) : Prop where
  mode : s.listMode l = 1
  len : 0 < s.listLen l ∧ s.listLen l ≤ 16
  cap : 0 < s.listCap l
  first : s.listPage l 0 = page
  real : page ≠ 0
  inPool : s.poolOf page = some pool
  pin : s.pagePin page < 255

theorem walkMember_run {x : State} {p t w slot l : Nat} {d : List Nat} (hl : x.slotPlist slot = l) (hne : l ≠ 0) (hd : x.heldDesc slot = none)
    (hread : x.mayRead p (x.listRange l) = true) (hbad : x.badLine [] [x.listRange l] = none) : ∃ v,
    (walkMember [] p t w slot d).run x = (stagePages [] p t slot l d (x.attendedBlocks l (x.listLen l)) 0).run
      ((startRecord slot t w d (x.listLen l) v).run x) := by
  refine ⟨setBits (x.read32 (recordAt d slot + 0x18)) 0 14 0, ?_⟩
  rw [walkMember, Prog.run_look, hl]
  dsimp only
  rw [if_neg (by simp [hd]), if_neg hne, engineRead_good (by simpa using hread) hbad, if_neg hne]
  iterate 6 rw [Prog.run_all_cons]
  rw [Prog.run_all_nil, Prog.run_when, if_pos (by simp [hne]), startRecord]
  iterate 5 rw [Prog.run_all_cons]
  rw [Prog.run_all_nil]
  rfl

/-- What the walk of a member with one attended page leaves. -/
structure Walked (x u : State) (w t slot page pool l : Nat) (d : List Nat) : Prop where
  kept : WalkKept x u slot
  mine : u.slot slot = { (x.slot slot).walked d w t with pins := [page], walkLeft := [] }
  walks : u.fld F.KV_WALKS = min (x.fld F.KV_WALKS + 1) (2 ^ F.KV_WALKS.w - 1)
  head : u.read32 (recordAt d slot) = (slot + 2 ^ 16) % 2 ^ 32
  len : u.readN (recordAt d slot + 8) 8 = x.listLen l % 2 ^ 64
  count : bitsOf (u.read32 (recordAt d slot + 0x18)) 0 14 = 1
  entry : u.readN (recordAt d slot + 0x40) 8 = x.pageAddr pool page % 2 ^ 64
  pin : u.pagePin page = x.pagePin page + 1
  mem : ∀ b, Apart b 1 (recordAt d slot) 0x48 → Apart b 1 (x.ledgerAt page) 4 → u.mem.read b = x.mem.read b

theorem walkMember_walked {x : State} {p t w slot l page pool : Nat} {d : List Nat} (hl : x.slotPlist slot = l) (hne : l ≠ 0)
    (hd : x.heldDesc slot = none) (hread : x.mayRead p (x.listRange l) = true) (hbad : x.badLine [] [x.listRange l] = none)
    (h : OneBlock x l page pool) (hmax : walkPmax d ≠ 0) (hcopy : walkCopy d = false) (ha1 : Apart (recordAt d slot) 0x48 (storeAt + l) 0x44)
    (ha2 : Apart (recordAt d slot) 0x48 (x.ledgerAt page) 4) : Walked x ((walkMember [] p t w slot d).run x) w t slot page pool l d := by
  obtain ⟨v, hrun⟩ := walkMember_run (w := w) (t := t) (d := d) hl hne hd hread hbad
  rw [hrun, attendedBlocks_short h.mode h.len.1 h.len.2]
  have hs := startRecord_run slot t w d (x.listLen l) v x
  generalize (startRecord slot t w d (x.listLen l) v).run x = y at *
  have hlist : ∀ o, o + 4 ≤ 0x44 → y.read32 (storeAt + l + o) = x.read32 (storeAt + l + o) := fun o ho => hs.bytes.read32 (by omega)
  have hmode : y.listMode l = 1 := by rw [State.listMode, State.listW, hlist 0 (by decide), ← State.listW, ← State.listMode, h.mode]
  have hcap : 0 < y.listCap l := by
    rw [State.listCap, State.listW, hlist 8 (by decide), ← State.listW, ← State.listCap]
    exact h.cap
  have hpage : y.listPage l 0 = page := by
    rw [State.listPage, entryAt, Nat.mul_zero, Nat.add_zero, hlist 0x40 (by decide), ← h.first, State.listPage, entryAt, Nat.mul_zero, Nat.add_zero]
  have hledger : y.ledgerAt page = x.ledgerAt page := ledgerAt_kept hs.kept.words page
  have hentry : y.pageEntry page = x.pageEntry page := by
    rw [State.pageEntry, State.pageEntry, hledger]
    exact hs.bytes.read32 (by omega)
  have hpin : y.pagePin page = x.pagePin page := congrArg (bitsOf · 16 8) hentry
  have hpool : y.poolOf page = some pool := (poolOf_kept hs.kept.words page).trans h.inPool
  rw [stagePages_one hmode hcap hpage h.real hpool (by rw [hpin]; exact h.pin) hmax hcopy, pageAddr_kept hs.kept.words]
  have hp := stagePage_run (slot := slot) (d := d) (x.pageAddr pool page) (show y.pagePin page < 255 by rw [hpin]; exact h.pin) (by rw [hledger]; exact ha2)
  generalize (all [pinPage page, _, _, _, _]).run y = u at *
  have hkeep : ∀ b m, Apart b m (x.ledgerAt page) 4 → Apart b m (recordAt d slot + 0x18) 0x30 → u.readN b m = y.readN b m := fun b m h1 h2 =>
    hp.bytes b m (by rw [hledger]; exact h1) h2
  refine ⟨hs.kept.trans hp.kept, ?_, hp.walks.trans hs.walks, ?_, ?_, hp.count, hp.entry, by rw [hp.pin, hpin], fun b h1 h2 => ?_⟩
  · rw [hp.mine, hs.mine]
    rfl
  · exact (hkeep _ 4 (by omega) (by omega)).trans hs.head
  · exact (hkeep _ 8 (by omega) (by omega)).trans hs.len
  · rw [hp.mem b (by rw [hledger]; exact h2) (by omega)]
    exact hs.bytes b (by omega)

end Sys2Proof.Machine
end

section
/-!
WALK entries, and the statement on walks and preparation (R251 to R277): O33.
-/
namespace Sys2Proof.Machine

/-! ## An entry that has acted -/

theorem State.passed_active (s : State) (p i q : Nat) : ((s.passed p i).part q).active = (s.part q).active := by
  by_cases h : q = p
  · rw [h, s.passed_part]
  · show (Sparse.get Part.blank (Sparse.put Part.blank s.dev.parts p _) q).active = _
    rw [Sparse.get_put_other _ _ _ _ _ h]
    rfl

theorem State.passed_mayRead (s : State) (p i q : Nat) (r : Nat × Nat) : (s.passed p i).mayRead q r = s.mayRead q r := by
  simp only [State.mayRead, s.passed_active]

theorem State.passed_members (s : State) (p i : Nat) (g : Group) (t : Nat) : (s.passed p i).members p g t = s.members p g t := by
  rw [State.members, State.members, s.passed_plane]
  rfl

theorem OneBlock.passed {s : State} {l page pool : Nat} (h : OneBlock s l page pool) (p i : Nat) : OneBlock (s.passed p i) l page pool :=
  ⟨h.mode, h.len, h.cap, h.first, h.real, h.inPool, h.pin⟩

section
variable {s : State} {p i w slot : Nat} {ws : List Nat} {e : TtEntry} {g : Group} {d : List Nat}

/-- A WALK entry with one member deals it to the first walker. -/
theorem walkEntry_one (hg : (s.plane p).group e.group = some g) (hd : (s.plane p).walkers[e.ref]? = some d)
    (hm : sortNat (s.members p g (s.turnNo p + bitsOf e.w3 0 2)) = [slot])
    (hws : ((membersOf (s.plane p).walkMask 16).filter fun w => !inMask (s.fld F.KV_WALK_FENCE_MASK) w) = w :: ws) :
    (walkEntry [] p e).run (s.passed p i) = (walkMember [] p (s.turnNo p + bitsOf e.w3 0 2) w slot d).run (s.passed p i) := by
  have hturn : (s.passed p i).turnNo p = s.turnNo p := rfl
  have hfld : (s.passed p i).fld F.KV_WALK_FENCE_MASK = s.fld F.KV_WALK_FENCE_MASK := rfl
  rw [walkEntry, Prog.run_look, s.passed_plane, hturn, hfld, hws, hg, hd]
  dsimp only
  rw [s.passed_members, hm, Prog.run_when, if_pos (by rfl), List.zipIdx_cons, List.zipIdx_nil, Prog.run_each_cons, Prog.run_each_nil, Nat.zero_mod]
  rfl

theorem walk_completes {l page pool : Nat} (he : s.entryNow p i false = some e) (hk : e.kind = 2) (hr : s.ready = true)
    (hg : (s.plane p).group e.group = some g) (hd : (s.plane p).walkers[e.ref]? = some d)
    (hm : sortNat (s.members p g (s.turnNo p + bitsOf e.w3 0 2)) = [slot])
    (hws : ((membersOf (s.plane p).walkMask 16).filter fun w => !inMask (s.fld F.KV_WALK_FENCE_MASK) w) = w :: ws)
    (hfree : s.heldDesc slot = none) (hl : s.slotPlist slot = l) (hne : l ≠ 0) (hblock : OneBlock s l page pool) (hmax : walkPmax d ≠ 0)
    (hcopy : walkCopy d = false) (hread : s.mayRead p (s.listRange l) = true) (hbad : s.badLine [] [s.listRange l] = none)
    (ha1 : Apart (recordAt d slot) 0x48 (storeAt + l) 0x44) (ha2 : Apart (recordAt d slot) 0x48 (s.ledgerAt page) 4) :
    Completes (.walk p { at_ := i }) s fun u => Walked s u w (s.turnNo p + bitsOf e.w3 0 2) slot page pool l d := by
  refine completes_done rfl ?_
  rw [onEntry_run he hk hr, walkEntry_one hg hd hm hws]
  have h : Walked (s.passed p i) ((walkMember [] p (s.turnNo p + bitsOf e.w3 0 2) w slot d).run (s.passed p i)) w (s.turnNo p + bitsOf e.w3 0 2)
      slot page pool l d :=
    walkMember_walked hl hne hfree ((s.passed_mayRead p i p _).trans hread) hbad (hblock.passed p i) hmax hcopy ha1 ha2
  generalize (walkMember [] p (s.turnNo p + bitsOf e.w3 0 2) w slot d).run (s.passed p i) = u at *
  obtain ⟨⟨h1, h2, h3, h4⟩, h5, h6, h7, h8, h9, h10, h11, h12⟩ := h
  exact ⟨⟨h1, h2, h3, h4⟩, h5, h6, h7, h8, h9, h10, h11, h12⟩

/-- What a walk leaves that is skipped. -/
structure WalkSkipped (s u : State) (slot t : Nat) : Prop where
  skips : u.fld F.KV_SKIPS = min (s.fld F.KV_SKIPS + 1) (2 ^ F.KV_SKIPS.w - 1)
  mine : u.slot slot = { s.slot slot with skip := some t, walkLeft := [] }
  mem : u.mem = s.mem
  host : u.host = s.host
  regs : SameRegsBut s u (F.KV_SKIPS.off :: catchRegs)

theorem walkSkips_run (slot t : Nat) (l : Limit) (id code sev unit : Nat) (ds : List Nat) (st : Option Nat) (x : State) :
    WalkSkipped x ((walkSkips slot t (logLim l id code sev unit ds st)).run x) slot t := by
  rw [walkSkips]
  iterate 3 rw [Prog.run_all_cons]
  rw [Prog.run_all_nil]
  have hskips := Prog.fld_incF F.KV_SKIPS x (by decide)
  obtain ⟨hdev, hmem, hhost⟩ := incF_memories F.KV_SKIPS x
  obtain ⟨hregs, -, -⟩ := Prog.Only.sameRegs_of_quiet (p := incF F.KV_SKIPS) (offs := [F.KV_SKIPS.off]) (by simp) x
  generalize (incF F.KV_SKIPS).run x = a at *
  have hlog := (logLim_onlyLogs l id code sev unit ds st).onlyLogs a
  generalize (logLim l id code sev unit ds st).run a = b at *
  have hset := modSlot_set slot (fun x => { x with skip := some t, walkLeft := [] }) b
  generalize (modSlot slot fun x => { x with skip := some t, walkLeft := [] }).run b = u at *
  have hslot : b.slot slot = x.slot slot := by rw [State.slot, State.slot, hlog.dev, hdev]
  refine ⟨?_, by rw [hset.mine, hslot], by rw [hset.mem, hlog.mem, hmem], by rw [hset.host, hlog.host, hhost], fun o ho => ?_⟩
  · rw [hset.fld, ← hskips]
    exact State.fld_of_word (hlog.regs _ (by decide))
  · rw [List.mem_cons, not_or] at ho
    obtain ⟨h1, h2⟩ := ho
    exact ((State.word_of_regs hset.regs o).trans (hlog.regs o h2)).trans (hregs o (by simpa using h1))

theorem walk_skips (he : s.entryNow p i false = some e) (hk : e.kind = 2) (hr : s.ready = true)
    (hg : (s.plane p).group e.group = some g) (hd : (s.plane p).walkers[e.ref]? = some d)
    (hm : sortNat (s.members p g (s.turnNo p + bitsOf e.w3 0 2)) = [slot])
    (hws : ((membersOf (s.plane p).walkMask 16).filter fun w => !inMask (s.fld F.KV_WALK_FENCE_MASK) w) = w :: ws)
    (hheld : (s.heldDesc slot).isSome = true) (hbound : (s.slot slot).boundOnly (s.turnNo p + bitsOf e.w3 0 2) = false) :
    Completes (.walk p { at_ := i }) s fun u => WalkSkipped s u slot (s.turnNo p + bitsOf e.w3 0 2) := by
  refine completes_done rfl ?_
  rw [onEntry_run he hk hr, walkEntry_one hg hd hm hws]
  have hx : ((s.passed p i).heldDesc slot).isSome = true ∧ ((s.passed p i).slot slot).boundOnly (s.turnNo p + bitsOf e.w3 0 2) = false := ⟨hheld, hbound⟩
  have hskip := fun l => walkSkips_run slot (s.turnNo p + bitsOf e.w3 0 2) (.turn p) (32 + p) 0x7003 0 (32 + p)
    (kvWords slot l (s.turnNo p + bitsOf e.w3 0 2)) (some slot) (s.passed p i)
  rw [walkMember, Prog.run_look]
  dsimp only
  rw [if_pos (by simp [hx])]
  obtain ⟨h1, h2, h3, h4, h5⟩ := hskip ((s.passed p i).slotPlist slot)
  exact ⟨h1, h2, h3, h4, h5⟩

end

/-- Settles O33: a walk stages the page of a list of one block or is skipped, a bank's close marks the record that is missing, a chunk is
prepared or ends by what its list is found to be, a work list ends ready, and a record is released with its pins. -/
theorem walksAndPreparation : Obligations.WalksAndPreparation := by
  refine ⟨?_, ?_, ?_, ?_, ?_, ?_, ?_, ?_⟩
  · intro s p i w slot page pool ws e g d he hk hr hg hd hm hws hfree hslot l r hmode hne h0 h16 hcap hpage hp hpool hpin hmax hcopy haddr hread hbad ha1 ha2 _
    refine (walk_completes he hk hr hg hd hm hws hfree rfl hne ⟨hmode, ⟨h0, h16⟩, hcap, hpage, hp, hpool, hpin⟩ hmax hcopy hread hbad ha1 ha2).mono ?_
    intro u h
    have hlen : s.listLen l < 2 ^ 64 := s.readN_lt _ 8
    refine ⟨?_, ?_, ?_, h.kept.chunks, ?_, ?_, h.count, ?_, h.pin, h.walks, h.mem, fun a => congrArg (Memory.read · a) h.kept.host, h.kept.words,
      h.kept.others⟩
    · rw [State.heldDesc, h.mine]
      rfl
    · rw [h.mine]
      rfl
    · rw [h.mine]
    · rw [h.head]
      exact Nat.mod_eq_of_lt (by omega)
    · rw [h.len]
      exact Nat.mod_eq_of_lt hlen
    · rw [h.entry]
      exact Nat.mod_eq_of_lt (haddr.trans (by decide))
  · intro s p i w slot ws e g d he hk hr hg hd hm hws hheld hbound
    refine (walk_skips he hk hr hg hd hm hws hheld hbound).mono fun u h => ⟨h.skips, by rw [h.mine], ?_, fun a => congrArg (Memory.read · a) h.mem,
      fun a => congrArg (Memory.read · a) h.host, h.regs⟩
    rw [State.heldDesc, h.mine]
    rfl
  · intro s p i t slot k e d c hr hnow hd hof hc hp hold hg hpos ht h0 h1 hsrcs hrecs
    refine (merge_completes hr hnow hd hof hc hp hold hg hpos ht h0 h1 hsrcs hrecs).mono ?_
    rintro u ⟨hopen, h⟩
    refine ⟨hopen, h.host, h.bytes, h.present, fun hn => ?_⟩
    obtain ⟨h1, h2, h3, h4, h5⟩ := h.missing hn
    refine ⟨h1, h2, h3, ?_⟩
    split
    · next hnamed => exact h4 hnamed
    · next hnamed => exact h5 hnamed
  · intro s slot i c hr hi hc hd hl ht
    exact chunkPrepare_unlisted hr hi hc hd hl ht
  · intro s slot c hr hi hc hd hn hn' ht hw hdests hl l hread hbad
    exact chunkPrepare_listed hr hi hc hd hn hn' ht hw hdests hl hread hbad
  · intro s slot i d hr hi hd hlen hq hread hb1 hb2
    refine (workListBuild_completes hr hi hd hlen hq hread hb1 hb2).mono fun u h => ⟨h.ready, h.rows, h.absent, h.kept.free, h.kept.bytes,
      fun a => congrArg (Memory.read · a) h.kept.host, h.kept.words, fun n => ?_⟩
    rw [State.slot, h.kept.dev]
    rfl
  · intro s slot d hr hf hd hp
    exact recordRelease_unpinned hr hf hd hp
  · intro s slot page d hr hf hd hp h1 hap
    exact recordRelease_pinned hr hf hd hp h1 hap

end Sys2Proof.Machine
end
